-- ==== Sys2Proof/Word.lean ====
section
/-! DEFINITION. The words of the register bus and of the memories. -/

namespace Sys2Proof

/-- One register of the bus (18_registers_mailbox.md R408). -/
abbrev Word := BitVec 32

/-- One byte of any memory. -/
abbrev Byte := BitVec 8

/-- A string of bytes, lowest address first. -/
abbrev Bytes := List Byte

end Sys2Proof
end

