-- ==== Sys2Proof/Syntax.lean ====
section
/-! DEFINITION. The commands of the block and their operands. -/

namespace Sys2Proof

/-- Who sends an access to the register bus or the mailbox (18_registers_mailbox.md R410, R419). -/
inductive Requester where
  | host
  | mp (i : Nat)
  | smbus
deriving DecidableEq, Repr

/-- An error that a memory read finds: the space (0 device memory, 1 core store, 2 cluster memory), the granule's byte
address in that space, and whether it is uncorrectable (08_memory.md R212). The other failures of R212 and R346 of
14_journal_recovery.md have spaces of their own: 3 signal-engine data memory, 4 an engine datapath, 5 command memory, 6 a
flit of a die network or bridge that its retries do not carry, 7 the command and address of the HBM4 channel of a
device-memory address, 8 control-processor memory. -/
structure MemErr where
  space : Nat
  addr : Nat
  ue : Bool
deriving DecidableEq, Repr

/-- The errors that one command's reads find. -/
abbrev MemErrs := List MemErr

/-- An arbiter: a pseudo-channel of a memory channel, a fabric port's egress, or a bank of a core store (08_memory.md R218). -/
inductive ArbiterId where
  | mem (m c : Nat)
  | port (q : Nat)
  | bank (n b : Nat)
deriving DecidableEq, Repr

/-- A sequence move as it arrives on the fabric: the source node, the job's geometry, the record's fields and the pages
in list order (10_serving.md R262). -/
structure BeadMoveMsg where
  src : Nat
  srcBead : Nat
  t : Nat
  g : Nat
  record : Bytes
  pages : List Bytes
  /-- The stamp of the transfer (02_almanac.md R37) -/
  stamp : Word
  /-- Poisoned granules: index of the page, granule within it (08_memory.md R213) -/
  poison : List (Nat × Nat)
deriving DecidableEq, Repr

/-- A received fronthaul frame: its bytes without the check sequence, and the quarter nanoseconds from the last tick to
its start-of-frame delimiter (02_almanac.md R41, R42). -/
structure FhFrame where
  bytes : Bytes
  q : Nat
deriving DecidableEq, Repr

/-- The 32-byte header of a fabric transaction, field by field, and its payload (13_filigree.md R315). -/
structure Txn where
  opc : Byte
  vc : Nat
  dst : Nat
  comb : Bool
  sys : Bool
  resend : Bool
  poison : Bool
  src : Nat
  stamp : Word
  seq : Word
  dseq : Word
  inc : Nat
  addr : Nat
  atop : Nat
  code : Byte
  len : Nat
  payload : Bytes
deriving DecidableEq, Repr

/-- One entry of a combined atomic: its issuer, its sequence number and its operand, or in a response its old value
(13_filigree.md R333). -/
structure CombEntry where
  src : Nat
  seq : Word
  value : BitVec 64
deriving DecidableEq, Repr

/-- The header of one half of the boot flash and what its sections authenticate to: the header bytes, for each section
of the table whether its digest and its signature are right, and what its DEVICE section carries: MIN_CORES, TIME_WAIT and
JOIN_WAIT in seconds (15_vigil.md R369 to R371). -/
structure FlashHeader where
  present : Bool
  header : Bytes
  sections : List Bool
  minCores : Nat
  timeWait : Nat
  joinWait : Nat
deriving DecidableEq, Repr

/-- The outcome of one array's start-up self-test: the failed rows and whether the standby row failed, for the first
start and for the start after a repair (15_vigil.md R378). -/
structure ArrayResult where
  rowFail : Word
  standbyFail : Bool
  sig : BitVec 64
  rowFail2 : Word
  standbyFail2 : Bool
  sig2 : BitVec 64
deriving DecidableEq, Repr

/-- What a maintenance activity on a core measures: the timing canary in ps, the droop margin in mV (17_live_service.md R396,
14_journal_recovery.md R363). -/
structure ActivityResult where
  canaryPs : Nat
  droopMv : Nat
deriving DecidableEq, Repr

/-- A register whose stored bits no longer match their parity: its bus offset (18_registers_mailbox.md R412). -/
structure Upset where
  off : Nat
deriving DecidableEq, Repr

/-- What a PTP message that arrives is told by: its sub-port, its domain, its transport (0 Ethernet, 1 UDP/IPv4, 2 UDP/IPv6) and its
sequence number (02_almanac.md R45, R46). -/
structure PtpHead where
  sub : Nat
  dom : Nat
  tr : Nat
  seq : Nat
deriving DecidableEq, Repr

/-- The context that becomes resident, and the core that firmware names for it, if it does (09_contexts_tenants.md R229). -/
structure Residence where
  ctx : Nat
  core : Option Nat
deriving DecidableEq, Repr

/-- What the copy of one unit of a stack move meets: the granules with a corrected error, and an uncorrectable one
(08_memory.md R210). -/
structure UnitErrs where
  ces : List Nat
  ue : Bool
deriving DecidableEq, Repr

/-- What the answer to a bead move carries beside its code: its stamp and the bead taken at the destination (10_serving.md R262,
02_almanac.md R37). -/
structure BeadTaken where
  stamp : Word
  dst : Nat
deriving DecidableEq, Repr

/-- A frame leaves: its queue, and in which quarter of a nanosecond of the tick of 2 ns it starts (11_nr_baseband.md R270,
02_almanac.md R42). -/
structure TxStart where
  queue : Nat
  phase : Nat
deriving DecidableEq, Repr

/-- A cell's takeover: the cell, and the boundary that a standby elsewhere has told, if it is one (11_nr_baseband.md R284). -/
structure TakeoverOf where
  cell : Nat
  told : Option Nat
deriving DecidableEq, Repr


/-- The commands: one constructor per row of spec/opcode_table.json, in the order of the table. -/
inductive Instr where
  /-- ALMANAC_TICK (R32). -/
  | almanacTick
  /-- ALM_NS_LO_READ (R34). -/
  | almNsLoRead
  /-- INCREMENT_WRITE (R35). -/
  | incrementWrite (v : Word)
  /-- SET_TIME (R36). -/
  | setTime (v : Word)
  /-- STEP_TIME (R36). -/
  | stepTime (v : Word)
  /-- SYNCE_QUALIFIED_WRITE (R49). -/
  | synceQualifiedWrite (v : Word)
  /-- SYNCE_LOSS_OF_SIGNAL (R49). -/
  | synceLossOfSignal
  /-- SYNC_RECEIVED (R46). -/
  | syncReceived (m : PtpHead) (t1 : Int) (corr : Int) (q : Nat)
  /-- DELAY_RESP_RECEIVED (R46). -/
  | delayRespReceived (m : PtpHead) (t4 : Int) (corr : Int)
  /-- PPS_EDGE (R46). -/
  | ppsEdge (q : Nat)
  /-- SERVO_STEP (R48). -/
  | servoStep
  /-- LOSS_TIMEOUT (R50). -/
  | lossTimeout
  /-- HOLDOVER_TE_UPDATE (R51). -/
  | holdoverTeUpdate
  /-- ALM_START (R57). -/
  | almStart
  /-- ALM_STOP (R53). -/
  | almStop
  /-- FH_LINK_CHANGE (R57). -/
  | fhLinkChange (p : Nat) (k : Nat) (up : Bool)
  /-- PULSE_LEAD_EDGE (R54). -/
  | pulseLeadEdge (k : Nat)
  /-- PULSE_TRAIL_EDGE (R54). -/
  | pulseTrailEdge (k : Nat)
  /-- PULSE_CTRL_WRITE (R57). -/
  | pulseCtrlWrite (k : Nat) (v : Word)
  /-- PULSE_START_WRITE (R57). -/
  | pulseStartWrite (k : Nat) (v : Word)
  /-- CAPTURE_EDGE (R56). -/
  | captureEdge (k : Nat) (rising : Bool) (q : Nat)
  /-- CAPTURE_READ (R56). -/
  | captureRead (k : Nat)
  /-- CAL_ENTRY_END (R72). -/
  | calEntryEnd (power : Nat)
  /-- GATE_REACH_CORE (R61). -/
  | gateReachCore (n : Nat)
  /-- TENANT_BOUND_EXPIRY (R64). -/
  | tenantBoundExpiry (n : Nat) (stream : Nat)
  /-- CAL_ARM (R74). -/
  | calArm (bank : Bool)
  /-- ARM_DONE (R74). -/
  | armDone
  /-- CAL_DISARM (R75). -/
  | calDisarm
  /-- CAL_START (R79). -/
  | calStart
  /-- CAL_STOP (R79). -/
  | calStop
  /-- BANK_SWAP (R76). -/
  | bankSwap (power : Nat)
  /-- BANK_WRITE (R75). -/
  | bankWrite (off : Nat) (v : Word)
  /-- TOKEN_ACCRUE (R82). -/
  | tokenAccrue (t : Nat)
  /-- ARR_START (R106). -/
  | arrStart (n : Nat)
  /-- ARR_TEST (R106). -/
  | arrTest (n : Nat)
  /-- ARR_STOP (R106). -/
  | arrStop (n : Nat)
  /-- SELF_TEST_END (R98). -/
  | selfTestEnd (n : Nat) (rowFail : Word) (standbyFail : Bool) (sig : BitVec 64)
  /-- ARRAY_STOP_DONE (R104). -/
  | arrayStopDone (n : Nat)
  /-- LANTERN_LEVEL_STEP (R103). -/
  | lanternLevelStep (n : Nat)
  /-- ARITH_FLAGS_CLEAR (R132). -/
  | arithFlagsClear (n : Nat) (c : Nat) (v : Word)
  /-- NOP (R145). -/
  | nop (n : Nat) (stream : Nat)
  /-- DYNQ (R145). -/
  | dynq (n : Nat) (stream : Nat)
  /-- BOUNDARY (R145). -/
  | boundary (n : Nat) (stream : Nat)
  /-- MATMUL (R154). -/
  | matmul (n : Nat) (errs : MemErrs)
  /-- EW_MUL (R94). -/
  | ewMul (n : Nat)
  /-- EW_FMA (R94). -/
  | ewFma (n : Nat)
  /-- EW_ADD (R94). -/
  | ewAdd (n : Nat)
  /-- VEC_CONVERT (R156). -/
  | vecConvert (n : Nat)
  /-- VEC_ADD (R156). -/
  | vecAdd (n : Nat)
  /-- VEC_SUB (R156). -/
  | vecSub (n : Nat)
  /-- VEC_MUL (R156). -/
  | vecMul (n : Nat)
  /-- VEC_FMA (R156). -/
  | vecFma (n : Nat)
  /-- VEC_MAX (R156). -/
  | vecMax (n : Nat)
  /-- VEC_MIN (R156). -/
  | vecMin (n : Nat)
  /-- SCALE (R156). -/
  | scale (n : Nat)
  /-- ADDI (R156). -/
  | addi (n : Nat)
  /-- EXP (R157). -/
  | exp (n : Nat)
  /-- RECIP (R157). -/
  | recip (n : Nat)
  /-- RSQRT (R157). -/
  | rsqrt (n : Nat)
  /-- TANH (R157). -/
  | tanh (n : Nat)
  /-- GELU (R157). -/
  | gelu (n : Nat)
  /-- RSUM (R157). -/
  | rsum (n : Nat)
  /-- RMAX (R157). -/
  | rmax (n : Nat)
  /-- RSUMSQ (R157). -/
  | rsumsq (n : Nat)
  /-- ARGMAX (R156). -/
  | argmax (n : Nat)
  /-- MOVE (R160). -/
  | move (n : Nat) (errs : MemErrs)
  /-- BFP_EXPAND (R160). -/
  | bfpExpand (n : Nat)
  /-- BFP_COMPRESS (R130). -/
  | bfpCompress (n : Nat)
  /-- FILL (R160). -/
  | fill (n : Nat)
  /-- WAIT_MEM (R160). -/
  | waitMem (n : Nat)
  /-- WAIT_MEM_POLL (R160). -/
  | waitMemPoll (n : Nat)
  /-- FENCE (R323). -/
  | fence (n : Nat)
  /-- ATOMIC_ADD32 (R334). -/
  | atomicAdd32 (n : Nat)
  /-- ATOMIC_ADD64 (R334). -/
  | atomicAdd64 (n : Nat)
  /-- ATOMIC_AND64 (R334). -/
  | atomicAnd64 (n : Nat)
  /-- ATOMIC_OR64 (R334). -/
  | atomicOr64 (n : Nat)
  /-- ATOMIC_XOR64 (R334). -/
  | atomicXor64 (n : Nat)
  /-- ATOMIC_MAXU64 (R334). -/
  | atomicMaxu64 (n : Nat)
  /-- ATOMIC_MINU64 (R334). -/
  | atomicMinu64 (n : Nat)
  /-- ATOMIC_SWAP64 (R334). -/
  | atomicSwap64 (n : Nat)
  /-- ATOMIC_CAS64 (R334). -/
  | atomicCas64 (n : Nat)
  /-- SIGNAL (R163). -/
  | signal (n : Nat)
  /-- SIG_END (R164). -/
  | sigEnd (n : Nat)
  /-- REP (R166). -/
  | rep (n : Nat)
  /-- SIG_LD (R164). -/
  | sigLd (n : Nat)
  /-- SIG_ST (R164). -/
  | sigSt (n : Nat)
  /-- SIG_ADD (R164). -/
  | sigAdd (n : Nat)
  /-- SIG_SUB (R164). -/
  | sigSub (n : Nat)
  /-- CMUL (R164). -/
  | cmul (n : Nat)
  /-- CMULC (R164). -/
  | cmulc (n : Nat)
  /-- CMAC (R164). -/
  | cmac (n : Nat)
  /-- ACCRD (R164). -/
  | accrd (n : Nat)
  /-- MAG2 (R164). -/
  | mag2 (n : Nat)
  /-- SIG_MAX (R164). -/
  | sigMax (n : Nat)
  /-- SETA (R164). -/
  | seta (n : Nat)
  /-- SETCB (R164). -/
  | setcb (n : Nat)
  /-- BNZ (R164). -/
  | bnz (n : Nat)
  /-- COMMAND_COMPLETE (R139). -/
  | commandComplete (n : Nat) (stream : Nat)
  /-- DATAQ_PUSH (R150). -/
  | dataqPush (n : Nat) (q : Nat)
  /-- DATAQ_FREE (R150). -/
  | dataqFree (n : Nat) (q : Nat)
  /-- HELD_TIMEOUT (R141). -/
  | heldTimeout (n : Nat)
  /-- CONTEXT_SWITCH (R228). -/
  | contextSwitch (n : Nat)
  /-- CONTEXT_RESIDENT (R229). -/
  | contextResident (x : Residence)
  /-- DYNQ_PUSH (R168). -/
  | dynqPush (n : Nat) (c : Nat) (stream : Nat) (high : Bool) (v : Word)
  /-- DBG_HALT (R170). -/
  | dbgHalt (n : Nat)
  /-- DBG_RESUME (R170). -/
  | dbgResume (n : Nat)
  /-- DBG_STEP (R170). -/
  | dbgStep (n : Nat)
  /-- IMAGE (R181). -/
  | image (f : Nat)
  /-- IMAGE_RELOAD (R195). -/
  | imageReload (rq : Requester)
  /-- RELOAD_BANK_SWITCH (R197). -/
  | reloadBankSwitch (n : Nat) (c : Nat)
  /-- STACK_RETIRE (R206). -/
  | stackRetire (rq : Requester)
  /-- STRIPE_MAP_SWITCH (R208). -/
  | stripeMapSwitch
  /-- STACK_MOVE_UNIT_COPY (R209). -/
  | stackMoveUnitCopy (errs : UnitErrs)
  /-- SCRUB_BURST (R215). -/
  | scrubBurst (m : Nat) (ces : List Nat) (ues : List Nat)
  /-- ARBITER_GRANT (R219). -/
  | arbiterGrant (a : ArbiterId)
  /-- URGENCY_PROMOTION (R219). -/
  | urgencyPromotion (a : ArbiterId) (r : Nat)
  /-- QUOTA_WINDOW_START (R219). -/
  | quotaWindowStart (a : ArbiterId)
  /-- ARB_REQ_WRITE (R220). -/
  | arbReqWrite (r : Nat) (v : Word)
  /-- MEMCH_START (R223). -/
  | memchStart (m : Nat)
  /-- SCRUB_RESTART (R223). -/
  | scrubRestart (m : Nat)
  /-- JOB (R235). -/
  | job (f : Nat)
  /-- COPY_IN (R235). -/
  | copyIn (f : Nat)
  /-- COPY_OUT (R235). -/
  | copyOut (f : Nat)
  /-- RELEASE (R235). -/
  | release (f : Nat)
  /-- JOB_COMPLETE (R235). -/
  | jobComplete (g : Nat) (arrUse : Nat) (memUse : Nat) (fabUse : Nat)
  /-- WIN_COMMIT (R237). -/
  | winCommit
  /-- WIN_READ (R247). -/
  | winRead
  /-- HOST_START (R247). -/
  | hostStart
  /-- HOST_STOP (R247). -/
  | hostStop
  /-- FN_START (R247). -/
  | fnStart (f : Nat)
  /-- FN_STOP (R247). -/
  | fnStop (f : Nat)
  /-- FUNCTION_LEVEL_RESET (R241). -/
  | functionLevelReset (f : Nat)
  /-- DRAIN_TIMEOUT (R241). -/
  | drainTimeout (f : Nat)
  /-- TENANT_CREATE (R243). -/
  | tenantCreate (rq : Requester)
  /-- TENANT_REMOVE (R242). -/
  | tenantRemove (rq : Requester)
  /-- CLEARING_END (R242). -/
  | clearingEnd (t : Nat)
  /-- KEY_SET (R239). -/
  | keySet (rq : Requester)
  /-- TENANT_FREEZE (R244). -/
  | tenantFreeze (rq : Requester)
  /-- TENANT_THAW (R244). -/
  | tenantThaw (rq : Requester)
  /-- TENANT_SAVE (R245). -/
  | tenantSave (rq : Requester)
  /-- TENANT_RESTORE (R246). -/
  | tenantRestore (rq : Requester)
  /-- SJ_START (R252). -/
  | sjStart (j : Nat)
  /-- SJ_STOP (R261). -/
  | sjStop (j : Nat)
  /-- SERVING_BOUNDARY (R257). -/
  | servingBoundary (j : Nat)
  /-- SERVING_POLL_EXPIRY (R257). -/
  | servingPollExpiry (j : Nat)
  /-- STEP_COMPLETE (R260). -/
  | stepComplete (j : Nat)
  /-- STEP_RESUBMIT (R261). -/
  | stepResubmit (j : Nat)
  /-- EVENT_RING_SPACE (R255). -/
  | eventRingSpace (j : Nat)
  /-- BEAD_MOVE (R262). -/
  | beadMove (rq : Requester)
  /-- BEAD_MOVE_RECEIVE (R262). -/
  | beadMoveReceive (j : Nat) (move : BeadMoveMsg)
  /-- BEAD_MOVE_ACK (R262). -/
  | beadMoveAck (j : Nat) (code : Byte) (ack : BeadTaken)
  /-- BEAD_SEL_WRITE (R263). -/
  | beadSelWrite (v : Word)
  /-- RADIO_RESERVE_WRITE (R250). -/
  | radioReserveWrite (v : Word)
  /-- FH_FRAME_RECEIVE (R267). -/
  | fhFrameReceive (p : Nat) (k : Nat) (frame : FhFrame)
  /-- FH_FRAME_TRANSMIT (R67). -/
  | fhFrameTransmit (p : Nat) (start : TxStart)
  /-- CPLANE_RELEASE (R270). -/
  | cplaneRelease (c : Nat)
  /-- UPLANE_RELEASE (R270). -/
  | uplaneRelease (c : Nat)
  /-- TX_LATE_DROP (R270). -/
  | txLateDrop (p : Nat) (q : Nat)
  /-- FH_START (R287). -/
  | fhStart (p : Nat)
  /-- FH_STOP (R287). -/
  | fhStop (p : Nat)
  /-- CELL_START (R273). -/
  | cellStart (c : Nat)
  /-- CELL_STOP (R273). -/
  | cellStop (c : Nat)
  /-- CELL_TAKEOVER (R284). -/
  | cellTakeover (tk : TakeoverOf)
  /-- TAKEOVER_BOUNDARY (R284). -/
  | takeoverBoundary (c : Nat)
  /-- L2_REQUEST_DEADLINE (R274). -/
  | l2RequestDeadline (c : Nat)
  /-- SLOT_INDICATION (R276). -/
  | slotIndication (c : Nat)
  /-- CRC_INDICATION (R276). -/
  | crcIndication (c : Nat)
  /-- RACH_INDICATION (R276). -/
  | rachIndication (c : Nat) (body : Bytes)
  /-- SRS_INDICATION (R276). -/
  | srsIndication (c : Nat) (body : Bytes)
  /-- REPLICA_SEND (R283). -/
  | replicaSend (c : Nat) (state : Bytes)
  /-- REPLICA_RECEIVE (R284). -/
  | replicaReceive (c : Nat) (buf : Bool) (slot : Word)
  /-- TX_ENABLE_BOUNDARY (R286). -/
  | txEnableBoundary (c : Nat)
  /-- CODEC_GRP_START (R288). -/
  | codecGrpStart (g : Nat)
  /-- CODEC_GRP_STOP (R278). -/
  | codecGrpStop (g : Nat)
  /-- CODEC_RING_TAIL_NOTICE (R278). -/
  | codecRingTailNotice (g : Nat) (hard : Bool)
  /-- LDPC_DEC (R279). -/
  | ldpcDec (g : Nat) (hard : Bool)
  /-- LDPC_ENC (R279). -/
  | ldpcEnc (g : Nat) (hard : Bool)
  /-- POLAR_DEC (R279). -/
  | polarDec (g : Nat) (hard : Bool)
  /-- CODEC_JOB_DONE (R280). -/
  | codecJobDone (g : Nat)
  /-- CODEC_DEADLINE_SKIP (R280). -/
  | codecDeadlineSkip (g : Nat) (hard : Bool)
  /-- FSK_GRP_START (R294). -/
  | fskGrpStart (g : Nat)
  /-- FSK_GRP_STOP (R294). -/
  | fskGrpStop (g : Nat)
  /-- FSK_INTERVAL (R291). -/
  | fskInterval (g : Nat)
  /-- FSK_SYMBOL (R296). -/
  | fskSymbol (g : Nat) (ch : Nat)
  /-- PRE_TIMEOUT (R297). -/
  | preTimeout (g : Nat) (ch : Nat)
  /-- SFD_TIMEOUT (R297). -/
  | sfdTimeout (g : Nat) (ch : Nat)
  /-- FSK_RX_RECORD (R300). -/
  | fskRxRecord (g : Nat) (ch : Nat)
  /-- FSK_LAUNCH (R304). -/
  | fskLaunch (g : Nat) (ch : Nat)
  /-- FSK_TX_END (R301). -/
  | fskTxEnd (g : Nat) (ch : Nat)
  /-- FSK_DL_RELEASE (R302). -/
  | fskDlRelease (g : Nat) (ch : Nat)
  /-- FIL_START (R341). -/
  | filStart
  /-- FIL_STOP (R392). -/
  | filStop
  /-- PORT_START (R309). -/
  | portStart (q : Nat)
  /-- PORT_STOP (R341). -/
  | portStop (q : Nat)
  /-- TRAIN_RETRY (R310). -/
  | trainRetry (q : Nat)
  /-- TRAIN_STEP_TIMEOUT (R310). -/
  | trainStepTimeout (q : Nat)
  /-- FEC_LOCK_LOSS (R310). -/
  | fecLockLoss (q : Nat)
  /-- FLIT_IDLE_TIMEOUT (R310). -/
  | flitIdleTimeout (q : Nat)
  /-- IDLE (R314). -/
  | idle (q : Nat) (ackLseq : Byte)
  /-- IDENT (R314). -/
  | ident (q : Nat) (role : Nat) (inc : Nat) (node : Nat) (revoked : Bool) (peer : Nat) (digest : Bytes)
  /-- LOOP_REQ (R314). -/
  | loopReq (q : Nat) (tSend : BitVec 64)
  /-- LOOP_RSP (R314). -/
  | loopRsp (q : Nat) (tSend : BitVec 64)
  /-- CREDIT (R312). -/
  | credit (q : Nat) (req : Nat) (rsp : Nat) (coh : Nat) (bulk : Nat) (initial : Bool)
  /-- HEARTBEAT (R313). -/
  | heartbeat (q : Nat) (node : Nat) (inc : Nat) (partitioned : Bool) (fenced : Bool)
  /-- HEARTBEAT_SEND (R313). -/
  | heartbeatSend
  /-- RETRY (R314). -/
  | retry (q : Nat) (lseq : Byte)
  /-- DATA_FLIT_RECEIVE (R314). -/
  | dataFlitReceive (q : Nat) (crcOk : Bool) (lseq : Byte) (ackLseq : Byte) (vc : Nat)
  /-- READ (R320). -/
  | read (q : Nat) (x : Txn)
  /-- READ_RSP (R317). -/
  | readRsp (q : Nat) (x : Txn)
  /-- WRITE (R319). -/
  | write (q : Nat) (x : Txn)
  /-- ACK (R319). -/
  | ack (q : Nat) (x : Txn)
  /-- NACK (R319). -/
  | nack (q : Nat) (x : Txn)
  /-- ATOMIC (R336). -/
  | atomic (q : Nat) (x : Txn)
  /-- ATOMIC_RSP (R337). -/
  | atomicRsp (q : Nat) (x : Txn)
  /-- COMB_ATOMIC (R333). -/
  | combAtomic (q : Nat) (x : Txn) (entries : List CombEntry)
  /-- COMB_ATOMIC_RSP (R333). -/
  | combAtomicRsp (q : Nat) (x : Txn) (entries : List CombEntry)
  /-- COH_INV (R324). -/
  | cohInv (q : Nat) (x : Txn)
  /-- COH_INV_ACK (R324). -/
  | cohInvAck (q : Nat) (x : Txn)
  /-- PAGE_READ (R329). -/
  | pageRead (q : Nat) (x : Txn)
  /-- PAGE_DATA (R329). -/
  | pageData (q : Nat) (x : Txn)
  /-- PAGE_WRITE (R329). -/
  | pageWrite (q : Nat) (x : Txn)
  /-- HELD_REQUEST_DROP (R320). -/
  | heldRequestDrop (i : Nat)
  /-- RESEND_TIMEOUT (R322). -/
  | resendTimeout (node : Nat)
  /-- TARGET_LOST_TIMEOUT (R322). -/
  | targetLostTimeout (node : Nat)
  /-- ATOMIC_RETRY (R337). -/
  | atomicRetry (seq : Word)
  /-- ATOMIC_UNCERTAIN_TIMEOUT (R337). -/
  | atomicUncertainTimeout (seq : Word)
  /-- REPLY_RECORD_EXPIRY (R336). -/
  | replyRecordExpiry (src : Nat) (seq : Word)
  /-- LASER_MODULE_REMOVE (R400). -/
  | laserModuleRemove (e : Nat)
  /-- LASER_MODULE_FIT (R400). -/
  | laserModuleFit (e : Nat)
  /-- BULK_COPY (R330). -/
  | bulkCopy (rq : Requester)
  /-- JRNL_START (R365). -/
  | jrnlStart
  /-- JRNL_STOP (R365). -/
  | jrnlStop
  /-- JOURNAL_FLUSH (R345). -/
  | journalFlush
  /-- REPLAY (R347). -/
  | replay (i : Nat) (errs : MemErrs)
  /-- VERDICT (R353). -/
  | verdict (node : Nat) (inc : Nat) (epoch : BitVec 64)
  /-- INCARNATION (R354). -/
  | incarnation (inc : Nat)
  /-- PARTITION_DETECT (R359). -/
  | partitionDetect (answered : List Nat)
  /-- PARTITION_HEAL (R361). -/
  | partitionHeal (inc : Nat)
  /-- MARGIN_CROSSING (R363). -/
  | marginCrossing (monitor : Nat) (n : Nat) (value : Int) (retire : Bool)
  /-- MAINT_RUN (R397). -/
  | maintRun (rq : Requester)
  /-- ARRAY_CHECK (R396). -/
  | arrayCheck (n : Nat)
  /-- CANARY_SWEEP (R396). -/
  | canarySweep (n : Nat)
  /-- DROOP_TEST (R396). -/
  | droopTest (n : Nat)
  /-- MARGIN_CHECK (R396). -/
  | marginCheck (n : Nat)
  /-- CP_LOAD (R396). -/
  | cpLoad (n : Nat)
  /-- IMAGE_COPY (R196). -/
  | imageCopy (n : Nat) (c : Nat)
  /-- MAINT_ACTIVITY_END (R398). -/
  | maintActivityEnd (n : Nat) (result : ActivityResult)
  /-- CORE_RETIRE (R398). -/
  | coreRetire (rq : Requester)
  /-- CORE_RETURN (R398). -/
  | coreReturn (rq : Requester)
  /-- PORT_RETIRE (R399). -/
  | portRetire (rq : Requester)
  /-- PORT_RETURN (R399). -/
  | portReturn (rq : Requester)
  /-- NVM_APPLY (R402). -/
  | nvmApply (rq : Requester)
  /-- POWER_ON (R403). -/
  | powerOn (d : Nat)
  /-- POWER_OFF (R391). -/
  | powerOff (d : Nat)
  /-- POWER_SWITCH_DONE (R403). -/
  | powerSwitchDone
  /-- AON_PWRGOOD_RISE (R366). -/
  | aonPwrgoodRise
  /-- POR_ASSERT (R366). -/
  | porAssert
  /-- WARM_RESET (R366). -/
  | warmReset
  /-- PERST (R366). -/
  | perst (low : Bool)
  /-- PWR_GOOD_FALL (R431). -/
  | pwrGoodFall (i : Nat)
  /-- PWR_GOOD_TIMEOUT (R367). -/
  | pwrGoodTimeout (i : Nat)
  /-- ROM_BOOT (R367). -/
  | romBoot
  /-- AUTH (R370). -/
  | auth (halfA : FlashHeader) (halfB : FlashHeader)
  /-- ALMANAC (R375). -/
  | almanac (locked : Bool)
  /-- CLOCKS (R375). -/
  | clocks (locked : Bool)
  /-- ALIGN (R376). -/
  | align (ok : Bool)
  /-- MEMORY (R377). -/
  | memory (trained : BitVec 16)
  /-- ARRAYS (R378). -/
  | arrays (results : List ArrayResult)
  /-- FIRMWARE (R379). -/
  | firmware (digestsOk : Bool) (sealKey : BitVec 64) (mgmtFw : Bytes) (cpFw : Bytes) (images : List Bytes)
  /-- FIRMWARE_TIMEOUT (R374). -/
  | firmwareTimeout
  /-- FUNCTIONS (R373). -/
  | functions
  /-- CFG_WRITE (R372). -/
  | cfgWrite (reg : Nat) (value : Word)
  /-- CFG_BLOB (R372). -/
  | cfgBlob (off : Nat) (data : Bytes)
  /-- CFG_START (R372). -/
  | cfgStart (reg : Nat) (value : Word) (status : Nat)
  /-- CFG_WAIT (R372). -/
  | cfgWait (reg : Nat) (mask : Word) (expected : Word) (timedOut : Bool)
  /-- CFG_END (R372). -/
  | cfgEnd (sect : Nat)
  /-- TIME_LOCK (R381). -/
  | timeLock
  /-- TIME_WAIT_EXPIRY (R381). -/
  | timeWaitExpiry
  /-- FABRIC_JOIN (R382): incarnation, release time, trim in 2^-8 ns. -/
  | fabricJoin (inc : Nat) (tRelease : BitVec 64) (trim : Int)
  /-- FABRIC_RELEASE (R383). -/
  | fabricRelease
  /-- JOIN_WAIT_EXPIRY (R384). -/
  | joinWaitExpiry
  /-- JOIN_RETRY (R384). -/
  | joinRetry
  /-- PARITY_SCRUB_PASS (R412). -/
  | parityScrubPass (upsets : List Upset)
  /-- REGISTER_WRITE (R5). -/
  | registerWrite (rq : Requester) (off : Nat) (size : Nat) (v : BitVec 64)
  /-- BIT_ALIAS_WRITE (R414). -/
  | bitAliasWrite (rq : Requester) (off : Nat) (v : Word)
  /-- SMBUS_REGISTER_READ (R436). -/
  | smbusRegisterRead (off : Nat) (pecOk : Bool)
  /-- SMBUS_REGISTER_WRITE (R436). -/
  | smbusRegisterWrite (off : Nat) (v : Word) (pecOk : Bool)
  /-- MBX_TAKE (R419). -/
  | mbxTake (rq : Requester)
  /-- MBX_RELEASE (R419). -/
  | mbxRelease (rq : Requester)
  /-- MAILBOX_OPERATION_END (R422). -/
  | mailboxOperationEnd
  /-- MGE_START (R418). -/
  | mgeStart
  /-- MGE_STOP (R418). -/
  | mgeStop
  /-- MGE_FRAME_RECEIVE (R417). -/
  | mgeFrameReceive (frame : Bytes)
  /-- MGE_FRAME_TRANSMIT (R417). -/
  | mgeFrameTransmit
  /-- MGE_LINK_CHANGE (R417). -/
  | mgeLinkChange (up : Bool) (speed : Nat) (fullDuplex : Bool)
  /-- MDIO_ADDRESS (R418). -/
  | mdioAddress (v : Word)
  /-- MDIO_WRITE (R418). -/
  | mdioWrite (v : Word)
  /-- MDIO_READ (R418). -/
  | mdioRead (v : Word)
  /-- MDIO_DONE (R418). -/
  | mdioDone (data : BitVec 16)
  /-- THERM_WARN (R437). -/
  | thermWarn (die : Nat) (sensor : Nat) (milliC : Int)
  /-- JUNCTION_OUT_OF_RANGE (R437). -/
  | junctionOutOfRange (n : Nat)
  /-- THERM_TRIP (R437). -/
  | thermTrip
  /-- REGISTER_READ (R408). -/
  | registerRead (rq : Requester) (off : Nat) (size : Nat)
  /-- WAVELENGTH_LOCK (R310). -/
  | wavelengthLock (q : Nat)
  /-- FEC_LOCK (R310). -/
  | fecLock (q : Nat)
  /-- BANGLE_HEARTBEAT_MISSING (R352). -/
  | bangleHeartbeatMissing (q : Nat)
  /-- HOST_LINK_CHANGE (R380). -/
  | hostLinkChange (up : Bool)
  /-- NUMVFS_WRITE (R247). -/
  | numvfsWrite (numVfs : Nat)
  /-- POR_RELEASE (R366). -/
  | porRelease
  /-- PWR_GOOD_RISE (R367). -/
  | pwrGoodRise (i : Nat)
deriving DecidableEq, Repr

end Sys2Proof
end

