-- ==== Sys2Proof/Decode.lean ====
section
/-! DEFINITION. The words of the opcode table. -/

namespace Sys2Proof

/-- The command that a word spells by the table's bits: every row of spec/opcode_table.json has an empty field list, so no
word spells a command (the commands are accesses, events and expiries, not instruction words). -/
def decodeTableWord (_nbits _w : Nat) : Option Instr := none

end Sys2Proof
end

