-- ==== Sys2Proof/Config.lean ====
section
/-! DEFINITION. What the spec leaves open: free values, with no body, of which nothing can be proved. -/

namespace Sys2Proof.Config

/-- A free value, one for each index a step takes (a value that the spec does not state). -/
opaque freeValue : Nat → Nat

/-- HMAC-SHA-384 of a message under a seal key, truncated to 64 bits (07_hallmark.md R192; FIPS 198-1 is no part of spec/). -/
opaque hmac64 : BitVec 64 → Bytes → BitVec 64

/-- SHA-384, 48 bytes (07_hallmark.md R178; FIPS 180-4 is no part of spec/). -/
opaque sha384 : Bytes → Bytes

/-- ECDSA P-384: key, digest, signature (07_hallmark.md R179; FIPS 186 is no part of spec/). -/
opaque ecdsaVerify : Bytes → Bytes → Bytes → Bool

/-- AES-256-XTS of one 64-byte granule: key, tweak, plaintext (09_contexts_tenants.md R239; FIPS 197 is no part of spec/). -/
opaque xtsEncrypt : Bytes → Nat → Bytes → Bytes

/-- The inverse of the encryption (09_contexts_tenants.md R239). -/
opaque xtsDecrypt : Bytes → Nat → Bytes → Bytes

/-- AES-256 of one 16-byte block (09_contexts_tenants.md R239). -/
opaque aes256 : Bytes → Bytes → Bytes

/-- The one fixed algorithm of the vector engine's functions: operation code and FP32 operand to FP32 result
(06_core_streams.md R157: only its error bound is given, to which the machine holds it; log 346). -/
opaque transcendental : Nat → BitVec 32 → BitVec 32

/-- The array signature in hub ROM (04_matrix_array.md R97: its value is not given). -/
opaque romSignature : BitVec 64

/-- The fuses: operator key digest, Praneif key, minimum security version (15_vigil.md R370). -/
opaque fuseOperatorDigest : Bytes
opaque fusePraneifKey : Bytes
opaque fuseSecVersion : Nat

/-- The hash of a destination node that picks a port of a set (13_filigree.md R318: the hash is not given). -/
opaque routeHash : Nat → Nat

/-- Bytes that the spec does not state, one string for each index a step takes. -/
opaque freeBytes : Nat → Bytes

/-- Whether the TLVs of a cell's CONFIG.request are accepted, their subcarrier spacing and their duplex mode
(11_nr_baseband.md R272, R273; SCF 222.10 is no part of spec/). -/
opaque tlvsOk : Bytes → Bool
opaque cellScs : Bytes → Nat
opaque cellFdd : Bytes → Bool

/-- The resource blocks of a cell's carrier by its TLVs (11_nr_baseband.md R264, R272). -/
opaque cellPrbs : Bytes → Nat

/-- The sections of a downlink U-plane frame that a cell image prepares: section number, first resource block, blocks, and their
bytes (11_nr_baseband.md R268, R275: the image's outputs are not given). -/
opaque freeSections : Nat → List (Nat × Nat × Nat × Bytes)

/-- The sections of a C-plane frame that a cell image prepares: whether they are of type 3, the fields of its common header that
type 1 lacks, and each section's own fields and beamforming weights (11_nr_baseband.md R268, R275). -/
opaque freeCplane : Nat → Bool × Bytes × List (Bytes × Bytes)

/-- The body of an indication of a cell: kind, slot number, detail, free index (11_nr_baseband.md R274; SCF 222.10 is no
part of spec/). -/
opaque fapiBody : Nat → Nat → Bytes → Nat → Bytes

/-- The soft bits of an LDPC job as the decoder combines them: parameters and rate-matched soft bits (11_nr_baseband.md
R279; 3GPP TS 38.212 is no part of spec/). -/
opaque ldpcDeRate : Bytes → List Int → List Int

/-- The decoded transport block of an LDPC job, whether its CRC passed, the largest iteration count and the code blocks failed:
parameters, iteration limit, combined soft bits (11_nr_baseband.md R279, R281: the decoder's arithmetic is not given). -/
opaque ldpcDecode : Bytes → Nat → List Int → Bytes × Bool × Nat × Nat

/-- The packed bits of an LDPC_ENC job: parameters and transport block (11_nr_baseband.md R279; 3GPP TS 38.212 is no part
of spec/). -/
opaque ldpcEncode : Bytes → Bytes → Bytes

/-- The decoded bits of a POLAR_DEC job and whether their CRC passed: parameters and soft bits (11_nr_baseband.md R279). -/
opaque polarDecode : Bytes → List Int → Bytes × Bool

/-- The discriminator's output for a symbol, Hz: parameters, samples of the symbol before, samples of the symbol, gain
(12_fsk.md R299: its arithmetic is not given). -/
opaque fskDiscr : Bytes → Bytes → Bytes → Nat → Int

/-- The start-of-frame delimiter of a set, coded or not, 16 bits (12_fsk.md R297; IEEE 802.15.4g is no part of spec/). -/
opaque fskSfd : Nat → Bool → Nat

/-- What the symbols after the delimiter give, once they hold the whole frame: parameters, coded, outputs; whether the PHR was
good, the flags WHITENED and FCS32, the PSDU, whether its FCS is good, and the path metric (12_fsk.md R299). -/
opaque fskFrame : Bytes → Bool → List Int → Option (Bool × Bool × Bool × Bytes × Bool × Nat)

/-- The symbols of a PPDU, each by its number of two bits or of one: PHY word, request header and payload (12_fsk.md R302;
IEEE 802.15.4g is no part of spec/). -/
opaque fskSymbols : Nat → Bytes → List Nat

/-- Symbol k of the PN9 sequence of the start-up mask test: LEVELS (12_fsk.md R305: its seed is not given). -/
opaque fskPn9 : Nat → Nat → Nat

/-- Samples of a frame past the 8 of its last symbol (12_fsk.md R302 does not say where the shaped tail ends). -/
opaque fskTail : Nat

/-- The phase before the first sample of a frame (12_fsk.md R302 gives none): frame's number of its first sample. -/
opaque fskPhase : Nat → Nat

/-- Whether an increment of the phase, numerator and denominator, is rounded up (12_fsk.md R302 gives the accumulator's width
and no rounding). -/
opaque fskRoundUp : Int → Int → Bool

/-- The ROM taps of the pulse shape: BT (12_fsk.md R302: their values are not given). -/
opaque fskRomTap : Nat → Nat → Nat

/-- Whether the power of a bin of a block of transmit samples stands above a limit, in units of 0.5 dB below the block's total
power: samples, bin, limit (12_fsk.md R305: the arithmetic of the window and the transform is not given). -/
opaque fskBinOver : Bytes → Int → Nat → Bool

/-- The parameters that the loader binds when it lowers an image for a share (07_hallmark.md R175). -/
structure LowerParams where
  shares : Nat
  rank : Nat
  tileM : Nat := 32
  tileN : Nat := 32
  /-- Cell depth of each element group -/
  depths : List Nat
  coreStore : Nat := 0x400000
  signalMem : Nat := 0x40000
  /-- Cores of each cluster, less those retired -/
  clusterCores : List Nat
  /-- The tenant bound, ns -/
  bound : Nat
deriving DecidableEq, Repr

/-- A step of the reduction tree that a share takes when a command of it completes: the distance of the rank that it absorbs, the
format and the number of the partials, and the device-memory offsets of its own and of the other's (05_arithmetic.md R134). -/
structure Red where
  w : Nat
  fmt : Nat
  count : Nat
  own : Nat
  other : Nat
deriving DecidableEq, Repr

/-- What lowering makes of an operation: a command on a stream, in a link group, with the reduction step that its completion
takes; or a cluster barrier of some members on a pair of logical counters (06_core_streams.md R153). -/
inductive LowItem where
  | cmd (op stream link : Nat) (word : BitVec 256) (red : Option Red)
  | barrier (op stream members ctr : Nat)
deriving DecidableEq, Repr

/-- The loop records and the items that the loader makes of an image where it cuts tiles, binds data queues or spreads a
reduction (07_hallmark.md R191, 05_arithmetic.md R134: how the commands are cut and queues are bound is not given). -/
opaque lowering : Bytes → LowerParams → List Bytes × List LowItem

/-- The WINDOWS section: ranges requested with their window index (07_hallmark.md R178: the layout is not given). -/
opaque windowsSection : Bytes → List (Nat × Nat × Nat)

/-- The COUNTERS section: initial values of the sixteen core counters, and the cluster counters requested (07_hallmark.md
R178: the layout is not given). -/
opaque countersSection : Bytes → List Nat × Nat

/-- The DYNAMIC section: operations with their largest override counts by level (07_hallmark.md R178: the layout is not
given). -/
opaque dynamicSection : Bytes → List (Nat × List Nat)

/-- The depths of the four dynamic queues that a DYNAMIC section plans (07_hallmark.md R185, R178: the layout is not given). -/
opaque dynamicDepths : Bytes → List Nat

/-- The CONST section: device-memory addresses and data (07_hallmark.md R178: the layout is not given). -/
opaque constSection : Bytes → List (Nat × Bytes)

/-- An image of the Nonte N2 as an Ohmath image, and whether it uses a feature that is not carried; none where the bytes are
no N2 image (07_hallmark.md R200: the N2's format is not given). -/
opaque n2Translate : Bytes → Option (Bytes × Bool)

/-- The length of an image of the Nonte N2 by its first 64 bytes (07_hallmark.md R200: the N2's format is not given). -/
opaque n2Bytes : Bytes → Nat

/-- The pseudo-channel of the stack that holds a quarter of a 1 KiB unit (08_memory.md R205: placement is internal). -/
opaque pseudoChannel : Nat → Nat → Nat

/-- The device-memory unit that a burst of a stack's scrub pass lies in (08_memory.md R205, R215: placement is internal). -/
opaque scrubUnit : Nat → Nat → Nat

/-- The cost of a SIGNAL command in the bound of its group, core cycles (07_hallmark.md R187 gives none). -/
opaque signalCost : BitVec 256 → Nat

end Sys2Proof.Config
end

