-- ==== Sys2Proof/Machine/Regs.lean ====
section
/-! DEFINITION. The names of the registers and their fields, as bus offsets and bit ranges (from the register tables of spec/). -/

namespace Sys2Proof.Machine

/-- A field of a register with up to two indices: offset of the first instance, lowest bit, width, and the two strides. -/
structure Fld where
  off : Nat
  lo : Nat
  w : Nat
  s1 : Nat
  s2 : Nat
deriving DecidableEq, Repr

abbrev GLOBAL_ID.W : Fld := ⟨0x0, 0, 32, 0x0, 0x0⟩
abbrev GLOBAL_ID.PART : Fld := ⟨0x0, 16, 16, 0x0, 0x0⟩
abbrev GLOBAL_ID.STEPPING : Fld := ⟨0x0, 8, 8, 0x0, 0x0⟩
abbrev GLOBAL_CORES.W : Fld := ⟨0x4, 0, 32, 0x0, 0x0⟩
abbrev GLOBAL_CORES.EFFECTIVE : Fld := ⟨0x4, 16, 8, 0x0, 0x0⟩
abbrev GLOBAL_CORES.ENABLED : Fld := ⟨0x4, 8, 8, 0x0, 0x0⟩
abbrev GLOBAL_CORES.RETIRED : Fld := ⟨0x4, 0, 8, 0x0, 0x0⟩
abbrev GLOBAL_REPRO_KEY : Fld := ⟨0x8, 0, 32, 0x0, 0x0⟩
abbrev GLOBAL_STATUS.W : Fld := ⟨0xC, 0, 32, 0x0, 0x0⟩
abbrev GLOBAL_STATUS.FAULT_CODE : Fld := ⟨0xC, 24, 8, 0x0, 0x0⟩
abbrev GLOBAL_STATUS.LINK_FAIL : Fld := ⟨0xC, 16, 1, 0x0, 0x0⟩
abbrev GLOBAL_STATUS.PARITY_SEEN : Fld := ⟨0xC, 15, 1, 0x0, 0x0⟩
abbrev GLOBAL_STATUS.BAD_ACCESS_SEEN : Fld := ⟨0xC, 14, 1, 0x0, 0x0⟩
abbrev GLOBAL_PARITY_OFFSET : Fld := ⟨0x10, 0, 27, 0x0, 0x0⟩
abbrev GLOBAL_PARITY_COUNT : Fld := ⟨0x14, 0, 32, 0x0, 0x0⟩
abbrev GLOBAL_BAD_ACCESS : Fld := ⟨0x18, 0, 32, 0x0, 0x0⟩
abbrev GLOBAL_BAD_ADDR : Fld := ⟨0x1C, 0, 27, 0x0, 0x0⟩
abbrev GLOBAL_DISABLED_LO : Fld := ⟨0x20, 0, 32, 0x0, 0x0⟩
abbrev GLOBAL_DISABLED_HI : Fld := ⟨0x24, 0, 32, 0x0, 0x0⟩
abbrev GLOBAL_SERIAL_LO : Fld := ⟨0x28, 0, 32, 0x0, 0x0⟩
abbrev GLOBAL_SERIAL_HI : Fld := ⟨0x2C, 0, 32, 0x0, 0x0⟩
abbrev GLOBAL_STALL_MAX : Fld := ⟨0x30, 0, 13, 0x0, 0x0⟩
abbrev GLOBAL_VIGIL_STATUS.W : Fld := ⟨0x100, 0, 32, 0x0, 0x0⟩
abbrev GLOBAL_VIGIL_STATUS.FAULT_CODE : Fld := ⟨0x100, 24, 8, 0x0, 0x0⟩
abbrev GLOBAL_VIGIL_STATUS.STAGE : Fld := ⟨0x100, 20, 4, 0x0, 0x0⟩
abbrev GLOBAL_VIGIL_STATUS.HALF : Fld := ⟨0x100, 19, 1, 0x0, 0x0⟩
abbrev GLOBAL_VIGIL_STATUS.FALLBACK : Fld := ⟨0x100, 18, 1, 0x0, 0x0⟩
abbrev GLOBAL_VIGIL_STATUS.TIME_PENDING : Fld := ⟨0x100, 17, 1, 0x0, 0x0⟩
abbrev GLOBAL_VIGIL_STATUS.JOIN_PENDING : Fld := ⟨0x100, 16, 1, 0x0, 0x0⟩
abbrev GLOBAL_VIGIL_STATUS.ALIGN_RETRIES : Fld := ⟨0x100, 12, 4, 0x0, 0x0⟩
abbrev GLOBAL_VIGIL_DETAIL : Fld := ⟨0x104, 0, 32, 0x0, 0x0⟩
abbrev GLOBAL_VIGIL_SEQ_LO : Fld := ⟨0x108, 0, 32, 0x0, 0x0⟩
abbrev GLOBAL_VIGIL_SEQ_HI : Fld := ⟨0x10C, 0, 32, 0x0, 0x0⟩
abbrev GLOBAL_VIGIL_SECVER : Fld := ⟨0x110, 0, 32, 0x0, 0x0⟩
abbrev GLOBAL_VIGIL_T : Fld := ⟨0x140, 0, 32, 0x4, 0x0⟩
abbrev GLOBAL_MGE_CTRL.W : Fld := ⟨0x200, 0, 32, 0x0, 0x0⟩
abbrev GLOBAL_MGE_CTRL.STOP : Fld := ⟨0x200, 1, 1, 0x0, 0x0⟩
abbrev GLOBAL_MGE_CTRL.START : Fld := ⟨0x200, 0, 1, 0x0, 0x0⟩
abbrev GLOBAL_MGE_STATUS.W : Fld := ⟨0x204, 0, 32, 0x0, 0x0⟩
abbrev GLOBAL_MGE_STATUS.FAULT_CODE : Fld := ⟨0x204, 24, 8, 0x0, 0x0⟩
abbrev GLOBAL_MGE_STATUS.CFG_WRITE_REJECT : Fld := ⟨0x204, 15, 1, 0x0, 0x0⟩
abbrev GLOBAL_MGE_STATUS.LINK_UP : Fld := ⟨0x204, 14, 1, 0x0, 0x0⟩
abbrev GLOBAL_MGE_STATUS.SPEED : Fld := ⟨0x204, 12, 2, 0x0, 0x0⟩
abbrev GLOBAL_MGE_STATUS.STATE : Fld := ⟨0x204, 0, 3, 0x0, 0x0⟩
abbrev GLOBAL_MGE_MAC_LO : Fld := ⟨0x208, 0, 32, 0x0, 0x0⟩
abbrev GLOBAL_MGE_MAC_HI : Fld := ⟨0x20C, 0, 16, 0x0, 0x0⟩
abbrev GLOBAL_MGE_CFG.W : Fld := ⟨0x210, 0, 32, 0x0, 0x0⟩
abbrev GLOBAL_MGE_CFG.MCAST : Fld := ⟨0x210, 0, 1, 0x0, 0x0⟩
abbrev GLOBAL_MGE_RX_BASE_LO : Fld := ⟨0x214, 0, 32, 0x0, 0x0⟩
abbrev GLOBAL_MGE_RX_BASE_HI : Fld := ⟨0x218, 0, 32, 0x0, 0x0⟩
abbrev GLOBAL_MGE_RX_SIZE : Fld := ⟨0x21C, 0, 4, 0x0, 0x0⟩
abbrev GLOBAL_MGE_RX_HEAD : Fld := ⟨0x220, 0, 12, 0x0, 0x0⟩
abbrev GLOBAL_MGE_RX_TAIL : Fld := ⟨0x224, 0, 12, 0x0, 0x0⟩
abbrev GLOBAL_MGE_TX_BASE_LO : Fld := ⟨0x228, 0, 32, 0x0, 0x0⟩
abbrev GLOBAL_MGE_TX_BASE_HI : Fld := ⟨0x22C, 0, 32, 0x0, 0x0⟩
abbrev GLOBAL_MGE_TX_SIZE : Fld := ⟨0x230, 0, 4, 0x0, 0x0⟩
abbrev GLOBAL_MGE_TX_HEAD : Fld := ⟨0x234, 0, 12, 0x0, 0x0⟩
abbrev GLOBAL_MGE_TX_TAIL : Fld := ⟨0x238, 0, 12, 0x0, 0x0⟩
abbrev GLOBAL_MGE_DROP : Fld := ⟨0x23C, 0, 32, 0x0, 0x0⟩
abbrev GLOBAL_MGE_MDIO.W : Fld := ⟨0x240, 0, 32, 0x0, 0x0⟩
abbrev GLOBAL_MGE_MDIO.GO : Fld := ⟨0x240, 31, 1, 0x0, 0x0⟩
abbrev GLOBAL_MGE_MDIO.C45 : Fld := ⟨0x240, 30, 1, 0x0, 0x0⟩
abbrev GLOBAL_MGE_MDIO.OP : Fld := ⟨0x240, 28, 2, 0x0, 0x0⟩
abbrev GLOBAL_MGE_MDIO.PHYAD : Fld := ⟨0x240, 23, 5, 0x0, 0x0⟩
abbrev GLOBAL_MGE_MDIO.REGAD : Fld := ⟨0x240, 18, 5, 0x0, 0x0⟩
abbrev GLOBAL_MGE_MDIO.DATA : Fld := ⟨0x240, 0, 16, 0x0, 0x0⟩
abbrev MBX_CMD : Fld := ⟨0x10000, 0, 8, 0x0, 0x0⟩
abbrev MBX_STATUS.W : Fld := ⟨0x10004, 0, 32, 0x0, 0x0⟩
abbrev MBX_STATUS.RESULT : Fld := ⟨0x10004, 24, 8, 0x0, 0x0⟩
abbrev MBX_STATUS.LAST_OP : Fld := ⟨0x10004, 16, 8, 0x0, 0x0⟩
abbrev MBX_STATUS.BUSY : Fld := ⟨0x10004, 15, 1, 0x0, 0x0⟩
abbrev MBX_STATUS.DONE_EVT : Fld := ⟨0x10004, 14, 1, 0x0, 0x0⟩
abbrev MBX_CLAIM.W : Fld := ⟨0x10008, 0, 32, 0x0, 0x0⟩
abbrev MBX_CLAIM.HELD : Fld := ⟨0x10008, 31, 1, 0x0, 0x0⟩
abbrev MBX_CLAIM.OWNER : Fld := ⟨0x10008, 4, 4, 0x0, 0x0⟩
abbrev MBX_CLAIM.TAKE : Fld := ⟨0x10008, 0, 1, 0x0, 0x0⟩
abbrev MBX_REJECT_COUNT : Fld := ⟨0x1000C, 0, 32, 0x0, 0x0⟩
abbrev MBX_SEQ : Fld := ⟨0x10010, 0, 32, 0x0, 0x0⟩
abbrev MBX_PROGRESS : Fld := ⟨0x10014, 0, 10, 0x0, 0x0⟩
abbrev MBX_ARG : Fld := ⟨0x10020, 0, 32, 0x4, 0x0⟩
abbrev MBX_RES : Fld := ⟨0x10040, 0, 32, 0x4, 0x0⟩
abbrev ALM_CTRL.W : Fld := ⟨0x20000, 0, 32, 0x0, 0x0⟩
abbrev ALM_CTRL.STOP : Fld := ⟨0x20000, 1, 1, 0x0, 0x0⟩
abbrev ALM_CTRL.START : Fld := ⟨0x20000, 0, 1, 0x0, 0x0⟩
abbrev ALM_STATUS.W : Fld := ⟨0x20004, 0, 32, 0x0, 0x0⟩
abbrev ALM_STATUS.FAULT_CODE : Fld := ⟨0x20004, 24, 8, 0x0, 0x0⟩
abbrev ALM_STATUS.OUTLIER_COUNT : Fld := ⟨0x20004, 16, 8, 0x0, 0x0⟩
abbrev ALM_STATUS.CFG_WRITE_REJECT : Fld := ⟨0x20004, 15, 1, 0x0, 0x0⟩
abbrev ALM_STATUS.FLOOR_AHEAD : Fld := ⟨0x20004, 14, 1, 0x0, 0x0⟩
abbrev ALM_STATUS.STEP_DONE : Fld := ⟨0x20004, 13, 1, 0x0, 0x0⟩
abbrev ALM_STATUS.SYNCE_QUALIFIED : Fld := ⟨0x20004, 12, 1, 0x0, 0x0⟩
abbrev ALM_STATUS.TIME_STATE : Fld := ⟨0x20004, 8, 3, 0x0, 0x0⟩
abbrev ALM_STATUS.UP_VALID : Fld := ⟨0x20004, 7, 1, 0x0, 0x0⟩
abbrev ALM_STATUS.UP_SUB : Fld := ⟨0x20004, 5, 2, 0x0, 0x0⟩
abbrev ALM_STATUS.STATE : Fld := ⟨0x20004, 0, 3, 0x0, 0x0⟩
abbrev ALM_CFG.W : Fld := ⟨0x20008, 0, 32, 0x0, 0x0⟩
abbrev ALM_CFG.TC_EN : Fld := ⟨0x20008, 31, 1, 0x0, 0x0⟩
abbrev ALM_CFG.TC_DOMAIN : Fld := ⟨0x20008, 23, 8, 0x0, 0x0⟩
abbrev ALM_CFG.PTP_DOMAIN : Fld := ⟨0x20008, 8, 8, 0x0, 0x0⟩
abbrev ALM_CFG.TRANSPORT : Fld := ⟨0x20008, 6, 2, 0x0, 0x0⟩
abbrev ALM_CFG.SOURCE : Fld := ⟨0x20008, 4, 2, 0x0, 0x0⟩
abbrev ALM_CFG.UP_PORT : Fld := ⟨0x20008, 1, 3, 0x0, 0x0⟩
abbrev ALM_CFG.PROFILE : Fld := ⟨0x20008, 0, 1, 0x0, 0x0⟩
abbrev ALM_NS_LO : Fld := ⟨0x20010, 0, 32, 0x0, 0x0⟩
abbrev ALM_NS_HI : Fld := ⟨0x20014, 0, 32, 0x0, 0x0⟩
abbrev ALM_FRAC : Fld := ⟨0x20018, 0, 32, 0x0, 0x0⟩
abbrev ALM_INCR_LO : Fld := ⟨0x20020, 0, 32, 0x0, 0x0⟩
abbrev ALM_INCR_HI : Fld := ⟨0x20024, 0, 32, 0x0, 0x0⟩
abbrev ALM_SET_LO : Fld := ⟨0x20028, 0, 32, 0x0, 0x0⟩
abbrev ALM_SET_HI : Fld := ⟨0x2002C, 0, 32, 0x0, 0x0⟩
abbrev ALM_STEP : Fld := ⟨0x20030, 0, 32, 0x0, 0x0⟩
abbrev ALM_FLOOR_LO : Fld := ⟨0x20038, 0, 32, 0x0, 0x0⟩
abbrev ALM_FLOOR_HI : Fld := ⟨0x2003C, 0, 32, 0x0, 0x0⟩
abbrev ALM_FLOOR_LIMIT : Fld := ⟨0x20040, 0, 32, 0x0, 0x0⟩
abbrev ALM_FLOOR_SRC : Fld := ⟨0x20044, 0, 17, 0x0, 0x0⟩
abbrev ALM_SERVO_KP : Fld := ⟨0x20050, 0, 32, 0x0, 0x0⟩
abbrev ALM_SERVO_KI : Fld := ⟨0x20054, 0, 32, 0x0, 0x0⟩
abbrev ALM_FREQ_LIMIT : Fld := ⟨0x20058, 0, 32, 0x0, 0x0⟩
abbrev ALM_STEP_THRESH : Fld := ⟨0x2005C, 0, 32, 0x0, 0x0⟩
abbrev ALM_LOCK_THRESH : Fld := ⟨0x20060, 0, 32, 0x0, 0x0⟩
abbrev ALM_LOCK_COUNT : Fld := ⟨0x20064, 0, 8, 0x0, 0x0⟩
abbrev ALM_LOSS_TIMEOUT : Fld := ⟨0x20068, 0, 32, 0x0, 0x0⟩
abbrev ALM_OUTLIER : Fld := ⟨0x2006C, 0, 32, 0x0, 0x0⟩
abbrev ALM_PD_SHIFT : Fld := ⟨0x20070, 0, 4, 0x0, 0x0⟩
abbrev ALM_PPS_DELAY : Fld := ⟨0x20074, 0, 32, 0x0, 0x0⟩
abbrev ALM_OFFSET : Fld := ⟨0x20078, 0, 32, 0x0, 0x0⟩
abbrev ALM_PATH_DELAY : Fld := ⟨0x2007C, 0, 32, 0x0, 0x0⟩
abbrev ALM_FREQ_ADJ : Fld := ⟨0x20080, 0, 32, 0x0, 0x0⟩
abbrev ALM_HO_LIMIT : Fld := ⟨0x20084, 0, 32, 0x0, 0x0⟩
abbrev ALM_HO_BASE : Fld := ⟨0x20088, 0, 32, 0x0, 0x0⟩
abbrev ALM_HO_RATE_SYNCE : Fld := ⟨0x2008C, 0, 32, 0x0, 0x0⟩
abbrev ALM_HO_RATE_FREE : Fld := ⟨0x20090, 0, 32, 0x0, 0x0⟩
abbrev ALM_HO_TE : Fld := ⟨0x20094, 0, 32, 0x0, 0x0⟩
abbrev ALM_SYNCE_CTRL.W : Fld := ⟨0x20098, 0, 32, 0x0, 0x0⟩
abbrev ALM_SYNCE_CTRL.QUALIFIED : Fld := ⟨0x20098, 7, 1, 0x0, 0x0⟩
abbrev ALM_SYNCE_CTRL.PORT : Fld := ⟨0x20098, 2, 3, 0x0, 0x0⟩
abbrev ALM_SYNCE_CTRL.LANE : Fld := ⟨0x20098, 0, 2, 0x0, 0x0⟩
abbrev ALM_TSC_IN : Fld := ⟨0x20100, 0, 32, 0x10, 0x0⟩
abbrev ALM_TSC_EG : Fld := ⟨0x20104, 0, 32, 0x10, 0x0⟩
abbrev ALM_TSC_TRIM : Fld := ⟨0x20108, 0, 32, 0x10, 0x0⟩
abbrev ALM_ASYM : Fld := ⟨0x2010C, 0, 32, 0x10, 0x0⟩
abbrev ALM_PLS_CTRL.W : Fld := ⟨0x20200, 0, 32, 0x20, 0x0⟩
abbrev ALM_PLS_CTRL.PAST : Fld := ⟨0x20200, 3, 1, 0x20, 0x0⟩
abbrev ALM_PLS_CTRL.POL : Fld := ⟨0x20200, 2, 1, 0x20, 0x0⟩
abbrev ALM_PLS_CTRL.MODE : Fld := ⟨0x20200, 0, 2, 0x20, 0x0⟩
abbrev ALM_PLS_START_LO : Fld := ⟨0x20204, 0, 32, 0x20, 0x0⟩
abbrev ALM_PLS_START_HI : Fld := ⟨0x20208, 0, 32, 0x20, 0x0⟩
abbrev ALM_PLS_PERIOD : Fld := ⟨0x2020C, 0, 32, 0x20, 0x0⟩
abbrev ALM_PLS_WIDTH : Fld := ⟨0x20210, 0, 32, 0x20, 0x0⟩
abbrev ALM_PLS_SKIP : Fld := ⟨0x20214, 0, 32, 0x20, 0x0⟩
abbrev ALM_CAPT_CTRL.W : Fld := ⟨0x20300, 0, 32, 0x10, 0x0⟩
abbrev ALM_CAPT_CTRL.OVERFLOW : Fld := ⟨0x20300, 5, 1, 0x10, 0x0⟩
abbrev ALM_CAPT_CTRL.FILL : Fld := ⟨0x20300, 2, 3, 0x10, 0x0⟩
abbrev ALM_CAPT_CTRL.EDGE : Fld := ⟨0x20300, 0, 2, 0x10, 0x0⟩
abbrev ALM_CAPT_TS_LO : Fld := ⟨0x20304, 0, 32, 0x10, 0x0⟩
abbrev ALM_CAPT_TS_HI : Fld := ⟨0x20308, 0, 32, 0x10, 0x0⟩
abbrev CAL_CTRL.W : Fld := ⟨0x30000, 0, 32, 0x0, 0x0⟩
abbrev CAL_CTRL.BANK : Fld := ⟨0x30000, 4, 1, 0x0, 0x0⟩
abbrev CAL_CTRL.DISARM : Fld := ⟨0x30000, 3, 1, 0x0, 0x0⟩
abbrev CAL_CTRL.ARM : Fld := ⟨0x30000, 2, 1, 0x0, 0x0⟩
abbrev CAL_CTRL.STOP : Fld := ⟨0x30000, 1, 1, 0x0, 0x0⟩
abbrev CAL_CTRL.START : Fld := ⟨0x30000, 0, 1, 0x0, 0x0⟩
abbrev CAL_STATUS.W : Fld := ⟨0x30004, 0, 32, 0x0, 0x0⟩
abbrev CAL_STATUS.FAULT_CODE : Fld := ⟨0x30004, 24, 8, 0x0, 0x0⟩
abbrev CAL_STATUS.GOV_FLOOR : Fld := ⟨0x30004, 16, 1, 0x0, 0x0⟩
abbrev CAL_STATUS.CFG_WRITE_REJECT : Fld := ⟨0x30004, 15, 1, 0x0, 0x0⟩
abbrev CAL_STATUS.BANK_WRITE_REJECT : Fld := ⟨0x30004, 14, 1, 0x0, 0x0⟩
abbrev CAL_STATUS.STOP_REJECT : Fld := ⟨0x30004, 13, 1, 0x0, 0x0⟩
abbrev CAL_STATUS.SWAP_DONE : Fld := ⟨0x30004, 12, 1, 0x0, 0x0⟩
abbrev CAL_STATUS.PENDING : Fld := ⟨0x30004, 11, 1, 0x0, 0x0⟩
abbrev CAL_STATUS.ARMING : Fld := ⟨0x30004, 10, 1, 0x0, 0x0⟩
abbrev CAL_STATUS.ACTIVE_VALID : Fld := ⟨0x30004, 9, 1, 0x0, 0x0⟩
abbrev CAL_STATUS.ACTIVE_BANK : Fld := ⟨0x30004, 8, 1, 0x0, 0x0⟩
abbrev CAL_STATUS.STATE : Fld := ⟨0x30004, 0, 3, 0x0, 0x0⟩
abbrev CAL_ARM_RESULT.W : Fld := ⟨0x30008, 0, 32, 0x0, 0x0⟩
abbrev CAL_ARM_RESULT.CODE : Fld := ⟨0x30008, 24, 8, 0x0, 0x0⟩
abbrev CAL_ARM_RESULT.INDEX_VALID : Fld := ⟨0x30008, 10, 1, 0x0, 0x0⟩
abbrev CAL_ARM_RESULT.INDEX : Fld := ⟨0x30008, 0, 10, 0x0, 0x0⟩
abbrev CAL_SWITCH_TIME_NS : Fld := ⟨0x30040, 0, 32, 0x0, 0x0⟩
abbrev CAL_SWITCH_TIME_SL : Fld := ⟨0x30044, 0, 32, 0x0, 0x0⟩
abbrev CAL_SWITCH_TIME_SH : Fld := ⟨0x30048, 0, 16, 0x0, 0x0⟩
abbrev CAL_GOV_CTRL.W : Fld := ⟨0x30050, 0, 32, 0x0, 0x0⟩
abbrev CAL_GOV_CTRL.EN : Fld := ⟨0x30050, 0, 1, 0x0, 0x0⟩
abbrev CAL_GOV_DUTY : Fld := ⟨0x30054, 0, 9, 0x0, 0x0⟩
abbrev CAL_GOV_MIN_DUTY : Fld := ⟨0x30058, 0, 9, 0x0, 0x0⟩
abbrev CAL_GOV_HYST : Fld := ⟨0x3005C, 0, 32, 0x0, 0x0⟩
abbrev CAL_HARD_LATE_COUNT : Fld := ⟨0x30060, 0, 32, 0x0, 0x0⟩
abbrev CAL_HARD_LATE_CORE : Fld := ⟨0x30064, 0, 7, 0x0, 0x0⟩
abbrev CAL_CORE_SEL : Fld := ⟨0x30070, 0, 7, 0x0, 0x0⟩
abbrev CAL_CORE_GATE.W : Fld := ⟨0x30074, 0, 32, 0x0, 0x0⟩
abbrev CAL_CORE_GATE.DUTY_IDLE : Fld := ⟨0x30074, 5, 1, 0x0, 0x0⟩
abbrev CAL_CORE_GATE.GUARD : Fld := ⟨0x30074, 4, 1, 0x0, 0x0⟩
abbrev CAL_CORE_GATE.GATES : Fld := ⟨0x30074, 0, 4, 0x0, 0x0⟩
abbrev CAL_SWAP_SLIP : Fld := ⟨0x30078, 0, 32, 0x0, 0x0⟩
abbrev CAL_CYCLE_COUNT : Fld := ⟨0x3007C, 0, 32, 0x0, 0x0⟩
abbrev CAL_BANK_LEN : Fld := ⟨0x30100, 0, 11, 0x80, 0x0⟩
abbrev CAL_BANK_CYCLE : Fld := ⟨0x30104, 0, 32, 0x80, 0x0⟩
abbrev CAL_BANK_BASE_NS : Fld := ⟨0x30108, 0, 32, 0x80, 0x0⟩
abbrev CAL_BANK_BASE_SL : Fld := ⟨0x3010C, 0, 32, 0x80, 0x0⟩
abbrev CAL_BANK_BASE_SH : Fld := ⟨0x30110, 0, 16, 0x80, 0x0⟩
abbrev CAL_BANK_BOUND : Fld := ⟨0x30114, 0, 32, 0x80, 0x0⟩
abbrev CAL_TB_CTRL.W : Fld := ⟨0x32000, 0, 32, 0x40, 0x0⟩
abbrev CAL_TB_CTRL.FAB_EN : Fld := ⟨0x32000, 2, 1, 0x40, 0x0⟩
abbrev CAL_TB_CTRL.MEM_EN : Fld := ⟨0x32000, 1, 1, 0x40, 0x0⟩
abbrev CAL_TB_CTRL.ARR_EN : Fld := ⟨0x32000, 0, 1, 0x40, 0x0⟩
abbrev CAL_TB_ARR_RATE : Fld := ⟨0x32004, 0, 32, 0x40, 0x0⟩
abbrev CAL_TB_ARR_BURST : Fld := ⟨0x32008, 0, 32, 0x40, 0x0⟩
abbrev CAL_TB_ARR_TOKENS : Fld := ⟨0x3200C, 0, 32, 0x40, 0x0⟩
abbrev CAL_TB_MEM_RATE : Fld := ⟨0x32010, 0, 32, 0x40, 0x0⟩
abbrev CAL_TB_MEM_BURST : Fld := ⟨0x32014, 0, 32, 0x40, 0x0⟩
abbrev CAL_TB_MEM_TOKENS : Fld := ⟨0x32018, 0, 32, 0x40, 0x0⟩
abbrev CAL_TB_FAB_RATE : Fld := ⟨0x3201C, 0, 32, 0x40, 0x0⟩
abbrev CAL_TB_FAB_BURST : Fld := ⟨0x32020, 0, 32, 0x40, 0x0⟩
abbrev CAL_TB_FAB_TOKENS : Fld := ⟨0x32024, 0, 32, 0x40, 0x0⟩
abbrev CAL_TB_POLICED : Fld := ⟨0x32028, 0, 32, 0x40, 0x0⟩
abbrev CAL_BANK_SET : Fld := ⟨0x36000, 0, 32, 0x1000, 0x4⟩
abbrev CAL_BANK_ENTRY : Fld := ⟨0x38000, 0, 32, 0x4000, 0x4⟩
abbrev PWR_LIMIT : Fld := ⟨0x40000, 0, 12, 0x0, 0x0⟩
abbrev PWR_MEASURED : Fld := ⟨0x40004, 0, 12, 0x0, 0x0⟩
abbrev PWR_DOM_CMD.W : Fld := ⟨0x40008, 0, 32, 0x0, 0x0⟩
abbrev PWR_DOM_CMD.ON : Fld := ⟨0x40008, 9, 1, 0x0, 0x0⟩
abbrev PWR_DOM_CMD.OFF : Fld := ⟨0x40008, 8, 1, 0x0, 0x0⟩
abbrev PWR_DOM_CMD.DOMAIN : Fld := ⟨0x40008, 0, 8, 0x0, 0x0⟩
abbrev PWR_DOM_RESULT.W : Fld := ⟨0x4000C, 0, 32, 0x0, 0x0⟩
abbrev PWR_DOM_RESULT.CODE : Fld := ⟨0x4000C, 24, 8, 0x0, 0x0⟩
abbrev PWR_DOM_RESULT.CMD_REJECT : Fld := ⟨0x4000C, 9, 1, 0x0, 0x0⟩
abbrev PWR_DOM_RESULT.BUSY : Fld := ⟨0x4000C, 8, 1, 0x0, 0x0⟩
abbrev PWR_DOM_RESULT.DOMAIN : Fld := ⟨0x4000C, 0, 8, 0x0, 0x0⟩
abbrev PWR_START_IGNORED : Fld := ⟨0x40010, 0, 32, 0x0, 0x0⟩
abbrev PWR_DOM_ON : Fld := ⟨0x40040, 0, 32, 0x4, 0x0⟩
abbrev MARGIN_STATUS.W : Fld := ⟨0x50000, 0, 32, 0x0, 0x0⟩
abbrev MARGIN_STATUS.WARN : Fld := ⟨0x50000, 1, 1, 0x0, 0x0⟩
abbrev MARGIN_STATUS.RETIRE_DUE : Fld := ⟨0x50000, 0, 1, 0x0, 0x0⟩
abbrev MARGIN_WARN : Fld := ⟨0x50010, 0, 32, 0x8, 0x0⟩
abbrev MARGIN_RETIRE : Fld := ⟨0x50014, 0, 32, 0x8, 0x0⟩
abbrev MARGIN_CORE.W : Fld := ⟨0x50100, 0, 32, 0x4, 0x0⟩
abbrev MARGIN_CORE.CANARY : Fld := ⟨0x50100, 24, 8, 0x4, 0x0⟩
abbrev MARGIN_CORE.DROOP : Fld := ⟨0x50100, 16, 8, 0x4, 0x0⟩
abbrev MARGIN_CORE.SLACK : Fld := ⟨0x50100, 8, 8, 0x4, 0x0⟩
abbrev MARGIN_CORE.NO_FIT : Fld := ⟨0x50100, 4, 1, 0x4, 0x0⟩
abbrev MARGIN_CORE.RUNNING : Fld := ⟨0x50100, 3, 1, 0x4, 0x0⟩
abbrev MARGIN_CORE.QUEUED : Fld := ⟨0x50100, 2, 1, 0x4, 0x0⟩
abbrev MARGIN_CORE.CHECK_FAIL : Fld := ⟨0x50100, 1, 1, 0x4, 0x0⟩
abbrev MARGIN_CORE.CHECK_PASS : Fld := ⟨0x50100, 0, 1, 0x4, 0x0⟩
abbrev MARGIN_OPT.W : Fld := ⟨0x50400, 0, 32, 0x10, 0x4⟩
abbrev MARGIN_OPT.RX_POWER : Fld := ⟨0x50400, 16, 16, 0x10, 0x4⟩
abbrev MARGIN_OPT.BIAS : Fld := ⟨0x50400, 9, 7, 0x10, 0x4⟩
abbrev MARGIN_OPT.EYE : Fld := ⟨0x50400, 0, 9, 0x10, 0x4⟩
abbrev MARGIN_FH_EYE : Fld := ⟨0x50600, 0, 10, 0x4, 0x0⟩
abbrev MARGIN_STACK_CE : Fld := ⟨0x50680, 0, 32, 0x4, 0x0⟩
abbrev MARGIN_CORE_CODE.W : Fld := ⟨0x50800, 0, 32, 0x4, 0x0⟩
abbrev MARGIN_CORE_CODE.VALID : Fld := ⟨0x50800, 8, 1, 0x4, 0x0⟩
abbrev MARGIN_CORE_CODE.CODE : Fld := ⟨0x50800, 0, 8, 0x4, 0x0⟩
abbrev HOST_CTRL.W : Fld := ⟨0x60000, 0, 32, 0x0, 0x0⟩
abbrev HOST_CTRL.STOP : Fld := ⟨0x60000, 1, 1, 0x0, 0x0⟩
abbrev HOST_CTRL.START : Fld := ⟨0x60000, 0, 1, 0x0, 0x0⟩
abbrev HOST_STATUS.W : Fld := ⟨0x60004, 0, 32, 0x0, 0x0⟩
abbrev HOST_STATUS.FAULT_CODE : Fld := ⟨0x60004, 24, 8, 0x0, 0x0⟩
abbrev HOST_STATUS.CFG_WRITE_REJECT : Fld := ⟨0x60004, 15, 1, 0x0, 0x0⟩
abbrev HOST_STATUS.TENANT_PARITY : Fld := ⟨0x60004, 14, 1, 0x0, 0x0⟩
abbrev HOST_STATUS.LINK_UP : Fld := ⟨0x60004, 13, 1, 0x0, 0x0⟩
abbrev HOST_STATUS.PARITY_TENANT : Fld := ⟨0x60004, 3, 8, 0x0, 0x0⟩
abbrev HOST_STATUS.STATE : Fld := ⟨0x60004, 0, 3, 0x0, 0x0⟩
abbrev HOST_NUM_VF : Fld := ⟨0x60008, 0, 9, 0x0, 0x0⟩
abbrev HOST_CTX_FREE : Fld := ⟨0x6000C, 0, 13, 0x0, 0x0⟩
abbrev HOST_WIN_SEL.W : Fld := ⟨0x60100, 0, 32, 0x0, 0x0⟩
abbrev HOST_WIN_SEL.F : Fld := ⟨0x60100, 4, 9, 0x0, 0x0⟩
abbrev HOST_WIN_SEL.WINDOW : Fld := ⟨0x60100, 0, 4, 0x0, 0x0⟩
abbrev HOST_WIN_BASE_LO : Fld := ⟨0x60104, 0, 32, 0x0, 0x0⟩
abbrev HOST_WIN_BASE_HI : Fld := ⟨0x60108, 0, 32, 0x0, 0x0⟩
abbrev HOST_WIN_SIZE : Fld := ⟨0x6010C, 0, 32, 0x0, 0x0⟩
abbrev HOST_WIN_ATTR.W : Fld := ⟨0x60110, 0, 32, 0x0, 0x0⟩
abbrev HOST_WIN_ATTR.VALID : Fld := ⟨0x60110, 3, 1, 0x0, 0x0⟩
abbrev HOST_WIN_ATTR.GLOBAL : Fld := ⟨0x60110, 2, 1, 0x0, 0x0⟩
abbrev HOST_WIN_ATTR.RO : Fld := ⟨0x60110, 1, 1, 0x0, 0x0⟩
abbrev HOST_WIN_ATTR.ENC : Fld := ⟨0x60110, 0, 1, 0x0, 0x0⟩
abbrev HOST_WIN_CMD.W : Fld := ⟨0x60114, 0, 32, 0x0, 0x0⟩
abbrev HOST_WIN_CMD.READ : Fld := ⟨0x60114, 1, 1, 0x0, 0x0⟩
abbrev HOST_WIN_CMD.COMMIT : Fld := ⟨0x60114, 0, 1, 0x0, 0x0⟩
abbrev HOST_WIN_RESULT : Fld := ⟨0x60118, 0, 8, 0x0, 0x0⟩
abbrev HOST_FN_STATUS.W : Fld := ⟨0x64000, 0, 32, 0x40, 0x0⟩
abbrev HOST_FN_STATUS.FAULT_CODE : Fld := ⟨0x64000, 24, 8, 0x40, 0x0⟩
abbrev HOST_FN_STATUS.CFG_WRITE_REJECT : Fld := ⟨0x64000, 15, 1, 0x40, 0x0⟩
abbrev HOST_FN_STATUS.FROZEN : Fld := ⟨0x64000, 14, 1, 0x40, 0x0⟩
abbrev HOST_FN_STATUS.DEBUG_GRANT : Fld := ⟨0x64000, 13, 1, 0x40, 0x0⟩
abbrev HOST_FN_STATUS.STATE : Fld := ⟨0x64000, 0, 3, 0x40, 0x0⟩
abbrev HOST_FN_CTRL.W : Fld := ⟨0x64004, 0, 32, 0x40, 0x0⟩
abbrev HOST_FN_CTRL.STOP : Fld := ⟨0x64004, 1, 1, 0x40, 0x0⟩
abbrev HOST_FN_CTRL.START : Fld := ⟨0x64004, 0, 1, 0x40, 0x0⟩
abbrev HOST_FN_SUB_BASE_LO : Fld := ⟨0x64008, 0, 32, 0x40, 0x0⟩
abbrev HOST_FN_SUB_BASE_HI : Fld := ⟨0x6400C, 0, 32, 0x40, 0x0⟩
abbrev HOST_FN_RES_BASE_LO : Fld := ⟨0x64010, 0, 32, 0x40, 0x0⟩
abbrev HOST_FN_RES_BASE_HI : Fld := ⟨0x64014, 0, 32, 0x40, 0x0⟩
abbrev HOST_FN_CPL_BASE_LO : Fld := ⟨0x64018, 0, 32, 0x40, 0x0⟩
abbrev HOST_FN_CPL_BASE_HI : Fld := ⟨0x6401C, 0, 32, 0x40, 0x0⟩
abbrev HOST_FN_RING_SIZE.W : Fld := ⟨0x64020, 0, 32, 0x40, 0x0⟩
abbrev HOST_FN_RING_SIZE.CPL : Fld := ⟨0x64020, 16, 4, 0x40, 0x0⟩
abbrev HOST_FN_RING_SIZE.RES : Fld := ⟨0x64020, 8, 4, 0x40, 0x0⟩
abbrev HOST_FN_RING_SIZE.SUB : Fld := ⟨0x64020, 0, 4, 0x40, 0x0⟩
abbrev HOST_FN_SUB_TAIL : Fld := ⟨0x64024, 0, 12, 0x40, 0x0⟩
abbrev HOST_FN_SUB_HEAD : Fld := ⟨0x64028, 0, 12, 0x40, 0x0⟩
abbrev HOST_FN_RES_TAIL : Fld := ⟨0x6402C, 0, 12, 0x40, 0x0⟩
abbrev HOST_FN_RES_HEAD : Fld := ⟨0x64030, 0, 12, 0x40, 0x0⟩
abbrev HOST_FN_CPL_TAIL : Fld := ⟨0x64034, 0, 12, 0x40, 0x0⟩
abbrev HOST_FN_CPL_HEAD : Fld := ⟨0x64038, 0, 12, 0x40, 0x0⟩
abbrev HOST_JOBS_DONE_LO : Fld := ⟨0x68100, 0, 32, 0x10, 0x0⟩
abbrev HOST_JOBS_DONE_HI : Fld := ⟨0x68104, 0, 32, 0x10, 0x0⟩
abbrev HOST_JOBS_FAILED_LO : Fld := ⟨0x68108, 0, 32, 0x10, 0x0⟩
abbrev HOST_JOBS_FAILED_HI : Fld := ⟨0x6810C, 0, 32, 0x10, 0x0⟩
abbrev HOST_VF_CFG.W : Fld := ⟨0x6A000, 0, 32, 0x20, 0x0⟩
abbrev HOST_VF_CFG.CC_BASE : Fld := ⟨0x6A000, 24, 8, 0x20, 0x0⟩
abbrev HOST_VF_CFG.CC_COUNT : Fld := ⟨0x6A000, 16, 8, 0x20, 0x0⟩
abbrev HOST_VF_CFG.DEBUG : Fld := ⟨0x6A000, 15, 1, 0x20, 0x0⟩
abbrev HOST_VF_CFG.CTX_LIMIT : Fld := ⟨0x6A000, 0, 13, 0x20, 0x0⟩
abbrev HOST_VF_CORES : Fld := ⟨0x6A004, 0, 32, 0x20, 0x4⟩
abbrev HOST_VF_STATUS.W : Fld := ⟨0x6A014, 0, 32, 0x20, 0x0⟩
abbrev HOST_VF_STATUS.KEY_CHECK : Fld := ⟨0x6A014, 16, 16, 0x20, 0x0⟩
abbrev HOST_VF_STATUS.KEY_VALID : Fld := ⟨0x6A014, 4, 1, 0x20, 0x0⟩
abbrev HOST_VF_STATUS.CLEARING : Fld := ⟨0x6A014, 3, 1, 0x20, 0x0⟩
abbrev HOST_VF_STATUS.FROZEN : Fld := ⟨0x6A014, 2, 1, 0x20, 0x0⟩
abbrev HOST_VF_STATUS.REMOVING : Fld := ⟨0x6A014, 1, 1, 0x20, 0x0⟩
abbrev HOST_VF_STATUS.CREATED : Fld := ⟨0x6A014, 0, 1, 0x20, 0x0⟩
abbrev HOST_VF_CTX_COUNT : Fld := ⟨0x6A018, 0, 13, 0x20, 0x0⟩
abbrev FH_CTRL.W : Fld := ⟨0x80000, 0, 32, 0x10000, 0x0⟩
abbrev FH_CTRL.STOP : Fld := ⟨0x80000, 1, 1, 0x10000, 0x0⟩
abbrev FH_CTRL.START : Fld := ⟨0x80000, 0, 1, 0x10000, 0x0⟩
abbrev FH_STATUS.W : Fld := ⟨0x80004, 0, 32, 0x10000, 0x0⟩
abbrev FH_STATUS.FAULT_CODE : Fld := ⟨0x80004, 24, 8, 0x10000, 0x0⟩
abbrev FH_STATUS.CFG_WRITE_REJECT : Fld := ⟨0x80004, 15, 1, 0x10000, 0x0⟩
abbrev FH_STATUS.STOP_REJECT : Fld := ⟨0x80004, 14, 1, 0x10000, 0x0⟩
abbrev FH_STATUS.STATE : Fld := ⟨0x80004, 0, 3, 0x10000, 0x0⟩
abbrev FH_CFG.W : Fld := ⟨0x80008, 0, 32, 0x10000, 0x0⟩
abbrev FH_CFG.MODE : Fld := ⟨0x80008, 16, 2, 0x10000, 0x0⟩
abbrev FH_CFG.MTU : Fld := ⟨0x80008, 0, 14, 0x10000, 0x0⟩
abbrev FH_MAC_LO : Fld := ⟨0x80010, 0, 32, 0x10000, 0x8⟩
abbrev FH_MAC_HI : Fld := ⟨0x80014, 0, 16, 0x10000, 0x8⟩
abbrev FH_SUB_STATUS.W : Fld := ⟨0x80040, 0, 32, 0x10000, 0x20⟩
abbrev FH_SUB_STATUS.FEC_LOCK : Fld := ⟨0x80040, 1, 1, 0x10000, 0x20⟩
abbrev FH_SUB_STATUS.LINK_UP : Fld := ⟨0x80040, 0, 1, 0x10000, 0x20⟩
abbrev FH_RX_FRAMES : Fld := ⟨0x80044, 0, 32, 0x10000, 0x20⟩
abbrev FH_RX_EARLY : Fld := ⟨0x80048, 0, 32, 0x10000, 0x20⟩
abbrev FH_RX_LATE : Fld := ⟨0x8004C, 0, 32, 0x10000, 0x20⟩
abbrev FH_RX_NOFLOW : Fld := ⟨0x80050, 0, 32, 0x10000, 0x20⟩
abbrev FH_RX_NOROOM : Fld := ⟨0x80054, 0, 32, 0x10000, 0x20⟩
abbrev FH_TX_FRAMES : Fld := ⟨0x80058, 0, 32, 0x10000, 0x20⟩
abbrev FH_TX_LATE : Fld := ⟨0x8005C, 0, 32, 0x10000, 0x20⟩
abbrev FH_FWRX_BASE_LO : Fld := ⟨0x80100, 0, 32, 0x10000, 0x0⟩
abbrev FH_FWRX_BASE_HI : Fld := ⟨0x80104, 0, 32, 0x10000, 0x0⟩
abbrev FH_FWRX_SIZE : Fld := ⟨0x80108, 0, 4, 0x10000, 0x0⟩
abbrev FH_FWRX_HEAD : Fld := ⟨0x8010C, 0, 12, 0x10000, 0x0⟩
abbrev FH_FWRX_TAIL : Fld := ⟨0x80110, 0, 12, 0x10000, 0x0⟩
abbrev FH_FWTX_BASE_LO : Fld := ⟨0x80120, 0, 32, 0x10000, 0x0⟩
abbrev FH_FWTX_BASE_HI : Fld := ⟨0x80124, 0, 32, 0x10000, 0x0⟩
abbrev FH_FWTX_SIZE : Fld := ⟨0x80128, 0, 4, 0x10000, 0x0⟩
abbrev FH_FWTX_HEAD : Fld := ⟨0x8012C, 0, 12, 0x10000, 0x0⟩
abbrev FH_FWTX_TAIL : Fld := ⟨0x80130, 0, 12, 0x10000, 0x0⟩
abbrev CODEC_GRP_CTRL.W : Fld := ⟨0x100000, 0, 32, 0x100, 0x0⟩
abbrev CODEC_GRP_CTRL.STOP : Fld := ⟨0x100000, 1, 1, 0x100, 0x0⟩
abbrev CODEC_GRP_CTRL.START : Fld := ⟨0x100000, 0, 1, 0x100, 0x0⟩
abbrev CODEC_GRP_STATUS.W : Fld := ⟨0x100004, 0, 32, 0x100, 0x0⟩
abbrev CODEC_GRP_STATUS.FAULT_CODE : Fld := ⟨0x100004, 24, 8, 0x100, 0x0⟩
abbrev CODEC_GRP_STATUS.CFG_WRITE_REJECT : Fld := ⟨0x100004, 15, 1, 0x100, 0x0⟩
abbrev CODEC_GRP_STATUS.STOP_REJECT : Fld := ⟨0x100004, 14, 1, 0x100, 0x0⟩
abbrev CODEC_GRP_STATUS.STATE : Fld := ⟨0x100004, 0, 3, 0x100, 0x0⟩
abbrev CODEC_GRP_HARD_BASE_LO : Fld := ⟨0x100008, 0, 32, 0x100, 0x0⟩
abbrev CODEC_GRP_HARD_BASE_HI : Fld := ⟨0x10000C, 0, 32, 0x100, 0x0⟩
abbrev CODEC_GRP_HARD_SIZE : Fld := ⟨0x100010, 0, 4, 0x100, 0x0⟩
abbrev CODEC_GRP_FIRM_BASE_LO : Fld := ⟨0x100014, 0, 32, 0x100, 0x0⟩
abbrev CODEC_GRP_FIRM_BASE_HI : Fld := ⟨0x100018, 0, 32, 0x100, 0x0⟩
abbrev CODEC_GRP_FIRM_SIZE : Fld := ⟨0x10001C, 0, 4, 0x100, 0x0⟩
abbrev CODEC_GRP_JOBS : Fld := ⟨0x100020, 0, 32, 0x100, 0x0⟩
abbrev CODEC_GRP_DEC_FAIL : Fld := ⟨0x100024, 0, 32, 0x100, 0x0⟩
abbrev CODEC_GRP_LATE : Fld := ⟨0x100028, 0, 32, 0x100, 0x0⟩
abbrev CODEC_CELL_CTRL.W : Fld := ⟨0x110000, 0, 32, 0x40, 0x0⟩
abbrev CODEC_CELL_CTRL.TAKEOVER : Fld := ⟨0x110000, 2, 1, 0x40, 0x0⟩
abbrev CODEC_CELL_CTRL.STOP : Fld := ⟨0x110000, 1, 1, 0x40, 0x0⟩
abbrev CODEC_CELL_CTRL.START : Fld := ⟨0x110000, 0, 1, 0x40, 0x0⟩
abbrev CODEC_CELL_STATUS.W : Fld := ⟨0x110004, 0, 32, 0x40, 0x0⟩
abbrev CODEC_CELL_STATUS.FAULT_CODE : Fld := ⟨0x110004, 24, 8, 0x40, 0x0⟩
abbrev CODEC_CELL_STATUS.CFG_WRITE_REJECT : Fld := ⟨0x110004, 15, 1, 0x40, 0x0⟩
abbrev CODEC_CELL_STATUS.TX_ENABLED : Fld := ⟨0x110004, 14, 1, 0x40, 0x0⟩
abbrev CODEC_CELL_STATUS.TIME_ALARM : Fld := ⟨0x110004, 13, 1, 0x40, 0x0⟩
abbrev CODEC_CELL_STATUS.CAL_LOST : Fld := ⟨0x110004, 12, 1, 0x40, 0x0⟩
abbrev CODEC_CELL_STATUS.REPL_SUSPENDED : Fld := ⟨0x110004, 11, 1, 0x40, 0x0⟩
abbrev CODEC_CELL_STATUS.STANDBY : Fld := ⟨0x110004, 10, 1, 0x40, 0x0⟩
abbrev CODEC_CELL_STATUS.COLD : Fld := ⟨0x110004, 9, 1, 0x40, 0x0⟩
abbrev CODEC_CELL_STATUS.STATE : Fld := ⟨0x110004, 0, 3, 0x40, 0x0⟩
abbrev CODEC_CELL_CFG_LO : Fld := ⟨0x110008, 0, 32, 0x40, 0x0⟩
abbrev CODEC_CELL_CFG_HI : Fld := ⟨0x11000C, 0, 32, 0x40, 0x0⟩
abbrev CODEC_CELL_PARTNER.W : Fld := ⟨0x110010, 0, 32, 0x40, 0x0⟩
abbrev CODEC_CELL_PARTNER.CELL : Fld := ⟨0x110010, 23, 9, 0x40, 0x0⟩
abbrev CODEC_CELL_PARTNER.REPL_EN : Fld := ⟨0x110010, 18, 1, 0x40, 0x0⟩
abbrev CODEC_CELL_PARTNER.STANDBY : Fld := ⟨0x110010, 17, 1, 0x40, 0x0⟩
abbrev CODEC_CELL_PARTNER.NODE : Fld := ⟨0x110010, 0, 17, 0x40, 0x0⟩
abbrev CODEC_CELL_MISSED : Fld := ⟨0x110014, 0, 32, 0x40, 0x0⟩
abbrev CODEC_CELL_HARQ_DROP : Fld := ⟨0x110018, 0, 32, 0x40, 0x0⟩
abbrev CODEC_CELL_POISON_DROP : Fld := ⟨0x11001C, 0, 32, 0x40, 0x0⟩
abbrev CODEC_CELL_IND_DROP : Fld := ⟨0x110020, 0, 32, 0x40, 0x0⟩
abbrev CODEC_CELL_LATE_MSG : Fld := ⟨0x110024, 0, 32, 0x40, 0x0⟩
abbrev CODEC_CELL_REPL_SLOT : Fld := ⟨0x110028, 0, 32, 0x40, 0x0⟩
abbrev CODEC_CELL_STARTS.W : Fld := ⟨0x11002C, 0, 32, 0x40, 0x0⟩
abbrev CODEC_CELL_STARTS.TAKEOVERS : Fld := ⟨0x11002C, 16, 16, 0x40, 0x0⟩
abbrev CODEC_CELL_STARTS.COLD : Fld := ⟨0x11002C, 0, 16, 0x40, 0x0⟩
abbrev FSK_STATUS : Fld := ⟨0x140000, 0, 7, 0x0, 0x0⟩
abbrev FSK_GRP_CTRL.W : Fld := ⟨0x141000, 0, 32, 0x100, 0x0⟩
abbrev FSK_GRP_CTRL.STOP : Fld := ⟨0x141000, 1, 1, 0x100, 0x0⟩
abbrev FSK_GRP_CTRL.START : Fld := ⟨0x141000, 0, 1, 0x100, 0x0⟩
abbrev FSK_GRP_STATUS.W : Fld := ⟨0x141004, 0, 32, 0x100, 0x0⟩
abbrev FSK_GRP_STATUS.FAULT_CODE : Fld := ⟨0x141004, 24, 8, 0x100, 0x0⟩
abbrev FSK_GRP_STATUS.CFG_WRITE_REJECT : Fld := ⟨0x141004, 15, 1, 0x100, 0x0⟩
abbrev FSK_GRP_STATUS.TIME_ALARM : Fld := ⟨0x141004, 14, 1, 0x100, 0x0⟩
abbrev FSK_GRP_STATUS.TX_HELD : Fld := ⟨0x141004, 13, 1, 0x100, 0x0⟩
abbrev FSK_GRP_STATUS.STATE : Fld := ⟨0x141004, 0, 3, 0x100, 0x0⟩
abbrev FSK_GRP_PHY.W : Fld := ⟨0x141008, 0, 32, 0x100, 0x0⟩
abbrev FSK_GRP_PHY.PRE_LEN : Fld := ⟨0x141008, 22, 10, 0x100, 0x0⟩
abbrev FSK_GRP_PHY.SFD_SET : Fld := ⟨0x141008, 20, 1, 0x100, 0x0⟩
abbrev FSK_GRP_PHY.FEC : Fld := ⟨0x141008, 18, 2, 0x100, 0x0⟩
abbrev FSK_GRP_PHY.INTERLEAVE : Fld := ⟨0x141008, 17, 1, 0x100, 0x0⟩
abbrev FSK_GRP_PHY.BT : Fld := ⟨0x141008, 16, 1, 0x100, 0x0⟩
abbrev FSK_GRP_PHY.INDEX : Fld := ⟨0x141008, 15, 1, 0x100, 0x0⟩
abbrev FSK_GRP_PHY.LEVELS : Fld := ⟨0x141008, 14, 1, 0x100, 0x0⟩
abbrev FSK_GRP_PHY.CUSTOM_TAPS : Fld := ⟨0x141008, 13, 1, 0x100, 0x0⟩
abbrev FSK_GRP_PHY.DELIVER_BAD : Fld := ⟨0x141008, 12, 1, 0x100, 0x0⟩
abbrev FSK_GRP_PHY.RATE : Fld := ⟨0x141008, 0, 3, 0x100, 0x0⟩
abbrev FSK_GRP_PORT.W : Fld := ⟨0x14100C, 0, 32, 0x100, 0x0⟩
abbrev FSK_GRP_PORT.SUB : Fld := ⟨0x14100C, 3, 2, 0x100, 0x0⟩
abbrev FSK_GRP_PORT.PORT : Fld := ⟨0x14100C, 0, 3, 0x100, 0x0⟩
abbrev FSK_GRP_CHAN_LO : Fld := ⟨0x141010, 0, 32, 0x100, 0x0⟩
abbrev FSK_GRP_CHAN_HI : Fld := ⟨0x141014, 0, 32, 0x100, 0x0⟩
abbrev FSK_GRP_CHANS : Fld := ⟨0x141018, 0, 7, 0x100, 0x0⟩
abbrev FSK_GRP_RX_LO : Fld := ⟨0x14101C, 0, 32, 0x100, 0x0⟩
abbrev FSK_GRP_RX_HI : Fld := ⟨0x141020, 0, 32, 0x100, 0x0⟩
abbrev FSK_GRP_RX_BYTES : Fld := ⟨0x141024, 0, 32, 0x100, 0x0⟩
abbrev FSK_GRP_TX_LO : Fld := ⟨0x141028, 0, 32, 0x100, 0x0⟩
abbrev FSK_GRP_TX_HI : Fld := ⟨0x14102C, 0, 32, 0x100, 0x0⟩
abbrev FSK_GRP_TX_BYTES : Fld := ⟨0x141030, 0, 32, 0x100, 0x0⟩
abbrev FSK_GRP_DET.W : Fld := ⟨0x141034, 0, 32, 0x100, 0x0⟩
abbrev FSK_GRP_DET.RSSI_THRESH : Fld := ⟨0x141034, 24, 8, 0x100, 0x0⟩
abbrev FSK_GRP_DET.PRE_QUAL : Fld := ⟨0x141034, 18, 6, 0x100, 0x0⟩
abbrev FSK_GRP_DET.SFD_ERR : Fld := ⟨0x141034, 16, 2, 0x100, 0x0⟩
abbrev FSK_GRP_DET.PRE_TIMEOUT : Fld := ⟨0x141034, 8, 8, 0x100, 0x0⟩
abbrev FSK_GRP_DET.SFD_TIMEOUT : Fld := ⟨0x141034, 0, 8, 0x100, 0x0⟩
abbrev FSK_GRP_AGC.W : Fld := ⟨0x141038, 0, 32, 0x100, 0x0⟩
abbrev FSK_GRP_AGC.TARGET : Fld := ⟨0x141038, 24, 8, 0x100, 0x0⟩
abbrev FSK_GRP_AGC.INIT : Fld := ⟨0x141038, 16, 8, 0x100, 0x0⟩
abbrev FSK_GRP_AGC.CAPTURE_DB : Fld := ⟨0x141038, 8, 8, 0x100, 0x0⟩
abbrev FSK_GRP_TA4.W : Fld := ⟨0x14103C, 0, 32, 0x100, 0x0⟩
abbrev FSK_GRP_TA4.MAX : Fld := ⟨0x14103C, 16, 16, 0x100, 0x0⟩
abbrev FSK_GRP_TA4.MIN : Fld := ⟨0x14103C, 0, 16, 0x100, 0x0⟩
abbrev FSK_GRP_TX_WIN.W : Fld := ⟨0x141040, 0, 32, 0x100, 0x0⟩
abbrev FSK_GRP_TX_WIN.MAX : Fld := ⟨0x141040, 16, 16, 0x100, 0x0⟩
abbrev FSK_GRP_TX_WIN.MIN : Fld := ⟨0x141040, 0, 16, 0x100, 0x0⟩
abbrev FSK_GRP_MASK_CHAN : Fld := ⟨0x141044, 0, 6, 0x100, 0x0⟩
abbrev FSK_GRP_DETECT : Fld := ⟨0x141048, 0, 32, 0x100, 0x0⟩
abbrev FSK_GRP_FRAMES_OK : Fld := ⟨0x14104C, 0, 32, 0x100, 0x0⟩
abbrev FSK_GRP_FCS_FAIL : Fld := ⟨0x141050, 0, 32, 0x100, 0x0⟩
abbrev FSK_GRP_FRAMES_TX : Fld := ⟨0x141054, 0, 32, 0x100, 0x0⟩
abbrev FSK_GRP_MASK_COUNT : Fld := ⟨0x141058, 0, 32, 0x100, 0x0⟩
abbrev FSK_GRP_RING_DROP : Fld := ⟨0x14105C, 0, 32, 0x100, 0x0⟩
abbrev FSK_GRP_TAP : Fld := ⟨0x141060, 0, 16, 0x100, 0x4⟩
abbrev FSK_GRP_MASK.W : Fld := ⟨0x1410C0, 0, 32, 0x100, 0x4⟩
abbrev FSK_GRP_MASK.VALID : Fld := ⟨0x1410C0, 31, 1, 0x100, 0x4⟩
abbrev FSK_GRP_MASK.OFFSET : Fld := ⟨0x1410C0, 16, 8, 0x100, 0x4⟩
abbrev FSK_GRP_MASK.LIMIT : Fld := ⟨0x1410C0, 0, 9, 0x100, 0x4⟩
abbrev FIL_CTRL.W : Fld := ⟨0x180000, 0, 32, 0x0, 0x0⟩
abbrev FIL_CTRL.STOP : Fld := ⟨0x180000, 1, 1, 0x0, 0x0⟩
abbrev FIL_CTRL.START : Fld := ⟨0x180000, 0, 1, 0x0, 0x0⟩
abbrev FIL_STATUS.W : Fld := ⟨0x180004, 0, 32, 0x0, 0x0⟩
abbrev FIL_STATUS.FAULT_CODE : Fld := ⟨0x180004, 24, 8, 0x0, 0x0⟩
abbrev FIL_STATUS.CFG_WRITE_REJECT : Fld := ⟨0x180004, 15, 1, 0x0, 0x0⟩
abbrev FIL_STATUS.STOP_REJECT : Fld := ⟨0x180004, 14, 1, 0x0, 0x0⟩
abbrev FIL_STATUS.FENCED : Fld := ⟨0x180004, 13, 1, 0x0, 0x0⟩
abbrev FIL_STATUS.PARTITIONED : Fld := ⟨0x180004, 12, 1, 0x0, 0x0⟩
abbrev FIL_STATUS.RTX_FULL : Fld := ⟨0x180004, 11, 1, 0x0, 0x0⟩
abbrev FIL_STATUS.ARB_WRITE_REJECT : Fld := ⟨0x180004, 10, 1, 0x0, 0x0⟩
abbrev FIL_STATUS.STATE : Fld := ⟨0x180004, 0, 3, 0x0, 0x0⟩
abbrev FIL_NODE : Fld := ⟨0x180008, 0, 17, 0x0, 0x0⟩
abbrev FIL_INCARNATION : Fld := ⟨0x18000C, 0, 16, 0x0, 0x0⟩
abbrev FIL_ROLE.W : Fld := ⟨0x180010, 0, 32, 0x0, 0x0⟩
abbrev FIL_ROLE.MGR_REPLICA : Fld := ⟨0x180010, 2, 1, 0x0, 0x0⟩
abbrev FIL_ROLE.CLASP : Fld := ⟨0x180010, 1, 1, 0x0, 0x0⟩
abbrev FIL_ROLE.BANGLE : Fld := ⟨0x180010, 0, 1, 0x0, 0x0⟩
abbrev FIL_BANGLE.W : Fld := ⟨0x180020, 0, 32, 0x4, 0x0⟩
abbrev FIL_BANGLE.VALID : Fld := ⟨0x180020, 31, 1, 0x4, 0x0⟩
abbrev FIL_BANGLE.NODE : Fld := ⟨0x180020, 0, 17, 0x4, 0x0⟩
abbrev FIL_RTX_BASE_LO : Fld := ⟨0x180040, 0, 32, 0x0, 0x0⟩
abbrev FIL_RTX_BASE_HI : Fld := ⟨0x180044, 0, 32, 0x0, 0x0⟩
abbrev FIL_RTX_BYTES : Fld := ⟨0x180048, 0, 10, 0x0, 0x0⟩
abbrev FIL_TABLE_BASE_LO : Fld := ⟨0x180050, 0, 32, 0x0, 0x0⟩
abbrev FIL_TABLE_BASE_HI : Fld := ⟨0x180054, 0, 32, 0x0, 0x0⟩
abbrev FIL_RESEND_COUNT : Fld := ⟨0x180100, 0, 32, 0x0, 0x0⟩
abbrev FIL_DUP_DISCARD : Fld := ⟨0x180104, 0, 32, 0x0, 0x0⟩
abbrev FIL_ATOM_RETRY : Fld := ⟨0x180108, 0, 32, 0x0, 0x0⟩
abbrev FIL_ATOM_UNCERTAIN : Fld := ⟨0x18010C, 0, 32, 0x0, 0x0⟩
abbrev FIL_TARGET_LOST : Fld := ⟨0x180110, 0, 32, 0x0, 0x0⟩
abbrev FIL_FENCED_NACK : Fld := ⟨0x180114, 0, 32, 0x0, 0x0⟩
abbrev FIL_DENIED_NACK : Fld := ⟨0x180118, 0, 32, 0x0, 0x0⟩
abbrev FIL_COMB_RSP : Fld := ⟨0x18011C, 0, 32, 0x0, 0x0⟩
abbrev FIL_RTX_WAIT : Fld := ⟨0x180120, 0, 32, 0x0, 0x0⟩
abbrev FIL_DROP_COUNT : Fld := ⟨0x180124, 0, 32, 0x0, 0x0⟩
abbrev FIL_DIR_ENTRIES : Fld := ⟨0x180128, 0, 21, 0x0, 0x0⟩
abbrev FIL_BCACHE_HIT : Fld := ⟨0x18012C, 0, 32, 0x0, 0x0⟩
abbrev FIL_BCACHE_MISS : Fld := ⟨0x180130, 0, 32, 0x0, 0x0⟩
abbrev FIL_EXP_BASE_LO : Fld := ⟨0x180400, 0, 32, 0x10, 0x0⟩
abbrev FIL_EXP_BASE_HI : Fld := ⟨0x180404, 0, 15, 0x10, 0x0⟩
abbrev FIL_EXP_SIZE : Fld := ⟨0x180408, 0, 27, 0x10, 0x0⟩
abbrev FIL_EXP_ATTR.W : Fld := ⟨0x18040C, 0, 32, 0x10, 0x0⟩
abbrev FIL_EXP_ATTR.VALID : Fld := ⟨0x18040C, 31, 1, 0x10, 0x0⟩
abbrev FIL_EXP_ATTR.RO : Fld := ⟨0x18040C, 2, 1, 0x10, 0x0⟩
abbrev FIL_EXP_ATTR.REACH : Fld := ⟨0x18040C, 0, 2, 0x10, 0x0⟩
abbrev FIL_CLASP_PRI.W : Fld := ⟨0x181000, 0, 32, 0x8, 0x0⟩
abbrev FIL_CLASP_PRI.VALID : Fld := ⟨0x181000, 31, 1, 0x8, 0x0⟩
abbrev FIL_CLASP_PRI.NODE : Fld := ⟨0x181000, 0, 17, 0x8, 0x0⟩
abbrev FIL_CLASP_ALT.W : Fld := ⟨0x181004, 0, 32, 0x8, 0x0⟩
abbrev FIL_CLASP_ALT.VALID : Fld := ⟨0x181004, 31, 1, 0x8, 0x0⟩
abbrev FIL_CLASP_ALT.NODE : Fld := ⟨0x181004, 0, 17, 0x8, 0x0⟩
abbrev FIL_PORT_CTRL.W : Fld := ⟨0x1C0000, 0, 32, 0x100, 0x0⟩
abbrev FIL_PORT_CTRL.STOP : Fld := ⟨0x1C0000, 1, 1, 0x100, 0x0⟩
abbrev FIL_PORT_CTRL.START : Fld := ⟨0x1C0000, 0, 1, 0x100, 0x0⟩
abbrev FIL_PORT_STATUS.W : Fld := ⟨0x1C0004, 0, 32, 0x100, 0x0⟩
abbrev FIL_PORT_STATUS.FAULT_CODE : Fld := ⟨0x1C0004, 24, 8, 0x100, 0x0⟩
abbrev FIL_PORT_STATUS.TRAIN_RESULT : Fld := ⟨0x1C0004, 20, 4, 0x100, 0x0⟩
abbrev FIL_PORT_STATUS.LINK : Fld := ⟨0x1C0004, 18, 2, 0x100, 0x0⟩
abbrev FIL_PORT_STATUS.CFG_WRITE_REJECT : Fld := ⟨0x1C0004, 15, 1, 0x100, 0x0⟩
abbrev FIL_PORT_STATUS.NO_LASER : Fld := ⟨0x1C0004, 14, 1, 0x100, 0x0⟩
abbrev FIL_PORT_STATUS.STATE : Fld := ⟨0x1C0004, 0, 3, 0x100, 0x0⟩
abbrev FIL_PORT_CFG.W : Fld := ⟨0x1C0008, 0, 32, 0x100, 0x0⟩
abbrev FIL_PORT_CFG.ROLE : Fld := ⟨0x1C0008, 30, 2, 0x100, 0x0⟩
abbrev FIL_PORT_CFG.PEER : Fld := ⟨0x1C0008, 0, 17, 0x100, 0x0⟩
abbrev FIL_PORT_CREDIT.W : Fld := ⟨0x1C000C, 0, 32, 0x100, 0x0⟩
abbrev FIL_PORT_CREDIT.BULK : Fld := ⟨0x1C000C, 24, 8, 0x100, 0x0⟩
abbrev FIL_PORT_CREDIT.COH : Fld := ⟨0x1C000C, 16, 8, 0x100, 0x0⟩
abbrev FIL_PORT_CREDIT.RSP : Fld := ⟨0x1C000C, 8, 8, 0x100, 0x0⟩
abbrev FIL_PORT_CREDIT.REQ : Fld := ⟨0x1C000C, 0, 8, 0x100, 0x0⟩
abbrev FIL_PORT_LOOP : Fld := ⟨0x1C0010, 0, 16, 0x100, 0x0⟩
abbrev FIL_PORT_PEER.W : Fld := ⟨0x1C0014, 0, 32, 0x100, 0x0⟩
abbrev FIL_PORT_PEER.ROLE : Fld := ⟨0x1C0014, 30, 2, 0x100, 0x0⟩
abbrev FIL_PORT_PEER.NODE : Fld := ⟨0x1C0014, 0, 17, 0x100, 0x0⟩
abbrev FIL_PORT_RETRAINS : Fld := ⟨0x1C0018, 0, 32, 0x100, 0x0⟩
abbrev FIL_PORT_CRC_RETRY : Fld := ⟨0x1C001C, 0, 32, 0x100, 0x0⟩
abbrev FIL_PORT_TX_BYTES_LO : Fld := ⟨0x1C0020, 0, 32, 0x100, 0x0⟩
abbrev FIL_PORT_TX_BYTES_HI : Fld := ⟨0x1C0024, 0, 32, 0x100, 0x0⟩
abbrev FIL_PORT_RX_BYTES_LO : Fld := ⟨0x1C0028, 0, 32, 0x100, 0x0⟩
abbrev FIL_PORT_RX_BYTES_HI : Fld := ⟨0x1C002C, 0, 32, 0x100, 0x0⟩
abbrev FIL_PORT_ARB_REQ.W : Fld := ⟨0x1C0080, 0, 32, 0x100, 0x4⟩
abbrev FIL_PORT_ARB_REQ.RANK : Fld := ⟨0x1C0080, 30, 2, 0x100, 0x4⟩
abbrev FIL_PORT_ARB_REQ.OVER : Fld := ⟨0x1C0080, 28, 2, 0x100, 0x4⟩
abbrev FIL_PORT_ARB_REQ.QUOTA : Fld := ⟨0x1C0080, 17, 11, 0x100, 0x4⟩
abbrev FIL_PORT_ARB_REQ.BURST_M1 : Fld := ⟨0x1C0080, 9, 8, 0x100, 0x4⟩
abbrev FIL_PORT_ARB_REQ.URG_LIMIT : Fld := ⟨0x1C0080, 0, 9, 0x100, 0x4⟩
abbrev MEMCH_CTRL.W : Fld := ⟨0x200000, 0, 32, 0x10000, 0x0⟩
abbrev MEMCH_CTRL.SCRUB_RESTART : Fld := ⟨0x200000, 1, 1, 0x10000, 0x0⟩
abbrev MEMCH_CTRL.START : Fld := ⟨0x200000, 0, 1, 0x10000, 0x0⟩
abbrev MEMCH_STATUS.W : Fld := ⟨0x200004, 0, 32, 0x10000, 0x0⟩
abbrev MEMCH_STATUS.FAULT_CODE : Fld := ⟨0x200004, 24, 8, 0x10000, 0x0⟩
abbrev MEMCH_STATUS.CFG_WRITE_REJECT : Fld := ⟨0x200004, 15, 1, 0x10000, 0x0⟩
abbrev MEMCH_STATUS.POISON_SEEN : Fld := ⟨0x200004, 14, 1, 0x10000, 0x0⟩
abbrev MEMCH_STATUS.SCRUB_ACTIVE : Fld := ⟨0x200004, 13, 1, 0x10000, 0x0⟩
abbrev MEMCH_STATUS.STATE : Fld := ⟨0x200004, 0, 3, 0x10000, 0x0⟩
abbrev MEMCH_CE_COUNT : Fld := ⟨0x200008, 0, 32, 0x10000, 0x0⟩
abbrev MEMCH_UE_COUNT : Fld := ⟨0x20000C, 0, 32, 0x10000, 0x0⟩
abbrev MEMCH_ERR_ADDR_LO : Fld := ⟨0x200010, 0, 32, 0x10000, 0x0⟩
abbrev MEMCH_ERR_ADDR_HI : Fld := ⟨0x200014, 0, 15, 0x10000, 0x0⟩
abbrev MEMCH_SCRUB_PERIOD : Fld := ⟨0x200018, 0, 8, 0x10000, 0x0⟩
abbrev MEMCH_SCRUB_PROGRESS : Fld := ⟨0x20001C, 0, 10, 0x10000, 0x0⟩
abbrev MEMCH_ARB_MASKED : Fld := ⟨0x200020, 0, 32, 0x10000, 0x0⟩
abbrev MEMCH_ARB_PROMOTED : Fld := ⟨0x200024, 0, 32, 0x10000, 0x0⟩
abbrev MEMCH_ARB_DL_DEFER : Fld := ⟨0x200028, 0, 32, 0x10000, 0x0⟩
abbrev MEMCH_ARB_LOCK_OVERRUN : Fld := ⟨0x20002C, 0, 32, 0x10000, 0x0⟩
abbrev MEM_STATUS.W : Fld := ⟨0x20C000, 0, 32, 0x0, 0x0⟩
abbrev MEM_STATUS.FAULT_CODE : Fld := ⟨0x20C000, 24, 8, 0x0, 0x0⟩
abbrev MEM_STATUS.MOVE_STACK : Fld := ⟨0x20C000, 20, 4, 0x0, 0x0⟩
abbrev MEM_STATUS.MOVING : Fld := ⟨0x20C000, 19, 1, 0x0, 0x0⟩
abbrev MEM_STATUS.ARB_WRITE_REJECT : Fld := ⟨0x20C000, 18, 1, 0x0, 0x0⟩
abbrev MEM_STATUS.LIVE : Fld := ⟨0x20C000, 0, 16, 0x0, 0x0⟩
abbrev MEM_TOP : Fld := ⟨0x20C004, 0, 10, 0x0, 0x0⟩
abbrev MEM_ALLOC_TOP : Fld := ⟨0x20C008, 0, 20, 0x0, 0x0⟩
abbrev MEM_MOVE_RATE : Fld := ⟨0x20C00C, 0, 9, 0x0, 0x0⟩
abbrev MEM_MOVE_DONE : Fld := ⟨0x20C010, 0, 28, 0x0, 0x0⟩
abbrev MEM_MOVE_TOTAL : Fld := ⟨0x20C014, 0, 28, 0x0, 0x0⟩
abbrev MEM_CLUSTER_QUOTA : Fld := ⟨0x20C018, 0, 8, 0x0, 0x0⟩
abbrev MEM_HIGH_SUM : Fld := ⟨0x20C01C, 0, 10, 0x0, 0x0⟩
abbrev MEM_PARITY_OFFSET : Fld := ⟨0x20C020, 0, 16, 0x0, 0x0⟩
abbrev MEM_ARB_REQ.W : Fld := ⟨0x20C100, 0, 32, 0x4, 0x0⟩
abbrev MEM_ARB_REQ.RANK : Fld := ⟨0x20C100, 30, 2, 0x4, 0x0⟩
abbrev MEM_ARB_REQ.OVER : Fld := ⟨0x20C100, 28, 2, 0x4, 0x0⟩
abbrev MEM_ARB_REQ.QUOTA : Fld := ⟨0x20C100, 20, 8, 0x4, 0x0⟩
abbrev MEM_ARB_REQ.BURST_M1 : Fld := ⟨0x20C100, 12, 8, 0x4, 0x0⟩
abbrev MEM_ARB_REQ.LOCK_OK : Fld := ⟨0x20C100, 11, 1, 0x4, 0x0⟩
abbrev MEM_ARB_REQ.URG_LIMIT : Fld := ⟨0x20C100, 0, 11, 0x4, 0x0⟩
abbrev MEM_STRIPE : Fld := ⟨0x20F000, 0, 32, 0x4, 0x0⟩
abbrev CLUSTER_STATUS.W : Fld := ⟨0x400000, 0, 32, 0x10000, 0x0⟩
abbrev CLUSTER_STATUS.FAULT_CODE : Fld := ⟨0x400000, 24, 8, 0x10000, 0x0⟩
abbrev CLUSTER_STATUS.POISON_SEEN : Fld := ⟨0x400000, 15, 1, 0x10000, 0x0⟩
abbrev CLUSTER_STATUS.UE_SEEN : Fld := ⟨0x400000, 14, 1, 0x10000, 0x0⟩
abbrev CLUSTER_STATUS.MEM_ON : Fld := ⟨0x400000, 13, 1, 0x10000, 0x0⟩
abbrev CLUSTER_STATUS.CORES_LIVE : Fld := ⟨0x400000, 0, 8, 0x10000, 0x0⟩
abbrev CLUSTER_CE_COUNT : Fld := ⟨0x400004, 0, 32, 0x10000, 0x0⟩
abbrev CLUSTER_UE_COUNT : Fld := ⟨0x400008, 0, 32, 0x10000, 0x0⟩
abbrev CLUSTER_ERR_LOC.W : Fld := ⟨0x40000C, 0, 32, 0x10000, 0x0⟩
abbrev CLUSTER_ERR_LOC.STORE : Fld := ⟨0x40000C, 28, 4, 0x10000, 0x0⟩
abbrev CLUSTER_ERR_LOC.SLOT : Fld := ⟨0x40000C, 24, 3, 0x10000, 0x0⟩
abbrev CLUSTER_ERR_LOC.GRANULE : Fld := ⟨0x40000C, 0, 19, 0x10000, 0x0⟩
abbrev CLUSTER_POISON_COUNT : Fld := ⟨0x400010, 0, 32, 0x10000, 0x0⟩
abbrev CLUSTER_TOK : Fld := ⟨0x400400, 0, 16, 0x10000, 0x4⟩
abbrev CORE_ARR_CTRL.W : Fld := ⟨0x103E000, 0, 32, 0x40000, 0x0⟩
abbrev CORE_ARR_CTRL.TEST : Fld := ⟨0x103E000, 2, 1, 0x40000, 0x0⟩
abbrev CORE_ARR_CTRL.STOP : Fld := ⟨0x103E000, 1, 1, 0x40000, 0x0⟩
abbrev CORE_ARR_CTRL.START : Fld := ⟨0x103E000, 0, 1, 0x40000, 0x0⟩
abbrev CORE_ARR_STATUS.W : Fld := ⟨0x103E004, 0, 32, 0x40000, 0x0⟩
abbrev CORE_ARR_STATUS.FAULT_CODE : Fld := ⟨0x103E004, 24, 8, 0x40000, 0x0⟩
abbrev CORE_ARR_STATUS.STANDBY_FAIL : Fld := ⟨0x103E004, 18, 1, 0x40000, 0x0⟩
abbrev CORE_ARR_STATUS.TEST_PASS : Fld := ⟨0x103E004, 17, 1, 0x40000, 0x0⟩
abbrev CORE_ARR_STATUS.TEST_DONE : Fld := ⟨0x103E004, 16, 1, 0x40000, 0x0⟩
abbrev CORE_ARR_STATUS.CFG_WRITE_REJECT : Fld := ⟨0x103E004, 15, 1, 0x40000, 0x0⟩
abbrev CORE_ARR_STATUS.STOP_REJECT : Fld := ⟨0x103E004, 14, 1, 0x40000, 0x0⟩
abbrev CORE_ARR_STATUS.SPARE_ACTIVE : Fld := ⟨0x103E004, 13, 1, 0x40000, 0x0⟩
abbrev CORE_ARR_STATUS.MODE : Fld := ⟨0x103E004, 11, 2, 0x40000, 0x0⟩
abbrev CORE_ARR_STATUS.STATE : Fld := ⟨0x103E004, 0, 3, 0x40000, 0x0⟩
abbrev CORE_ARR_REPAIR.W : Fld := ⟨0x103E008, 0, 32, 0x40000, 0x0⟩
abbrev CORE_ARR_REPAIR.EN : Fld := ⟨0x103E008, 5, 1, 0x40000, 0x0⟩
abbrev CORE_ARR_REPAIR.ROW : Fld := ⟨0x103E008, 0, 5, 0x40000, 0x0⟩
abbrev CORE_ARR_DRAIN_LAT : Fld := ⟨0x103E00C, 0, 6, 0x40000, 0x0⟩
abbrev CORE_ARR_ROW_FAIL : Fld := ⟨0x103E010, 0, 32, 0x40000, 0x0⟩
abbrev CORE_ARR_SIG_LO : Fld := ⟨0x103E014, 0, 32, 0x40000, 0x0⟩
abbrev CORE_ARR_SIG_HI : Fld := ⟨0x103E018, 0, 32, 0x40000, 0x0⟩
abbrev CORE_ARR_LANTERN.W : Fld := ⟨0x103E01C, 0, 32, 0x40000, 0x0⟩
abbrev CORE_ARR_LANTERN.HOLD : Fld := ⟨0x103E01C, 8, 1, 0x40000, 0x0⟩
abbrev CORE_ARR_LANTERN.LEVEL : Fld := ⟨0x103E01C, 0, 4, 0x40000, 0x0⟩
abbrev CORE_ARR_SEED : Fld := ⟨0x103E020, 0, 32, 0x40000, 0x0⟩
abbrev CORE_ARR_PASS_COUNT : Fld := ⟨0x103E024, 0, 32, 0x40000, 0x0⟩
abbrev CORE_ARR_FILL_COUNT : Fld := ⟨0x103E028, 0, 32, 0x40000, 0x0⟩
abbrev CORE_ARITH_FLAGS.W : Fld := ⟨0x103E100, 0, 32, 0x40000, 0x4⟩
abbrev CORE_ARITH_FLAGS.CONV_SAT : Fld := ⟨0x103E100, 6, 1, 0x40000, 0x4⟩
abbrev CORE_ARITH_FLAGS.DRAIN_OVERFLOW : Fld := ⟨0x103E100, 5, 1, 0x40000, 0x4⟩
abbrev CORE_ARITH_FLAGS.DRAIN_INEXACT : Fld := ⟨0x103E100, 4, 1, 0x40000, 0x4⟩
abbrev CORE_ARITH_FLAGS.ADDEND_CLIPPED : Fld := ⟨0x103E100, 3, 1, 0x40000, 0x4⟩
abbrev CORE_ARITH_FLAGS.INVALID : Fld := ⟨0x103E100, 2, 1, 0x40000, 0x4⟩
abbrev CORE_ARITH_FLAGS.OVERFLOW : Fld := ⟨0x103E100, 1, 1, 0x40000, 0x4⟩
abbrev CORE_ARITH_FLAGS.INEXACT : Fld := ⟨0x103E100, 0, 1, 0x40000, 0x4⟩
abbrev CORE_TRACE_BUF : Fld := ⟨0x103A000, 0, 32, 0x40000, 0x4⟩
abbrev CORE_SLOT_STATUS.W : Fld := ⟨0x103E200, 0, 32, 0x40000, 0x20⟩
abbrev CORE_SLOT_STATUS.VALID : Fld := ⟨0x103E200, 31, 1, 0x40000, 0x20⟩
abbrev CORE_SLOT_STATUS.RUNNING : Fld := ⟨0x103E200, 30, 1, 0x40000, 0x20⟩
abbrev CORE_SLOT_STATUS.CLASS : Fld := ⟨0x103E200, 28, 2, 0x40000, 0x20⟩
abbrev CORE_SLOT_STATUS.PACING : Fld := ⟨0x103E200, 27, 1, 0x40000, 0x20⟩
abbrev CORE_SLOT_STATUS.DEBUG_OK : Fld := ⟨0x103E200, 26, 1, 0x40000, 0x20⟩
abbrev CORE_SLOT_STATUS.CONTEXT : Fld := ⟨0x103E200, 0, 12, 0x40000, 0x20⟩
abbrev CORE_DYNQ_DEPTH.W : Fld := ⟨0x103E204, 0, 32, 0x40000, 0x20⟩
abbrev CORE_DYNQ_DEPTH.SIGNAL : Fld := ⟨0x103E204, 24, 6, 0x40000, 0x20⟩
abbrev CORE_DYNQ_DEPTH.VECTOR : Fld := ⟨0x103E204, 16, 6, 0x40000, 0x20⟩
abbrev CORE_DYNQ_DEPTH.MATRIX : Fld := ⟨0x103E204, 8, 6, 0x40000, 0x20⟩
abbrev CORE_DYNQ_DEPTH.ACCESS : Fld := ⟨0x103E204, 0, 6, 0x40000, 0x20⟩
abbrev CORE_DATAQ_FILL.W : Fld := ⟨0x103E208, 0, 32, 0x40000, 0x20⟩
abbrev CORE_DATAQ_FILL.Q3 : Fld := ⟨0x103E208, 24, 5, 0x40000, 0x20⟩
abbrev CORE_DATAQ_FILL.Q2 : Fld := ⟨0x103E208, 16, 5, 0x40000, 0x20⟩
abbrev CORE_DATAQ_FILL.Q1 : Fld := ⟨0x103E208, 8, 5, 0x40000, 0x20⟩
abbrev CORE_DATAQ_FILL.Q0 : Fld := ⟨0x103E208, 0, 5, 0x40000, 0x20⟩
abbrev CORE_HELD : Fld := ⟨0x103E20C, 0, 8, 0x40000, 0x20⟩
abbrev CORE_HELD_TIME : Fld := ⟨0x103E210, 0, 32, 0x40000, 0x20⟩
abbrev CORE_PC0 : Fld := ⟨0x103E214, 0, 12, 0x40000, 0x20⟩
abbrev CORE_PC1 : Fld := ⟨0x103E218, 0, 12, 0x40000, 0x20⟩
abbrev CORE_PC2 : Fld := ⟨0x103E21C, 0, 12, 0x40000, 0x20⟩
abbrev CORE_PC3 : Fld := ⟨0x103E280, 0, 12, 0x40000, 0x4⟩
abbrev CORE_TOK : Fld := ⟨0x103E300, 0, 16, 0x40000, 0x4⟩
abbrev CORE_DBG_CTRL.W : Fld := ⟨0x103E400, 0, 32, 0x40000, 0x0⟩
abbrev CORE_DBG_CTRL.CNT_EN : Fld := ⟨0x103E400, 8, 4, 0x40000, 0x0⟩
abbrev CORE_DBG_CTRL.TAG_EN : Fld := ⟨0x103E400, 7, 1, 0x40000, 0x0⟩
abbrev CORE_DBG_CTRL.BRK_EN : Fld := ⟨0x103E400, 6, 1, 0x40000, 0x0⟩
abbrev CORE_DBG_CTRL.SLOT : Fld := ⟨0x103E400, 4, 2, 0x40000, 0x0⟩
abbrev CORE_DBG_CTRL.STEP : Fld := ⟨0x103E400, 3, 1, 0x40000, 0x0⟩
abbrev CORE_DBG_CTRL.RESUME : Fld := ⟨0x103E400, 2, 1, 0x40000, 0x0⟩
abbrev CORE_DBG_CTRL.HALT : Fld := ⟨0x103E400, 1, 1, 0x40000, 0x0⟩
abbrev CORE_DBG_TAG : Fld := ⟨0x103E404, 0, 16, 0x40000, 0x0⟩
abbrev CORE_DBG_STATUS.W : Fld := ⟨0x103E408, 0, 32, 0x40000, 0x0⟩
abbrev CORE_DBG_STATUS.TAG : Fld := ⟨0x103E408, 16, 16, 0x40000, 0x0⟩
abbrev CORE_DBG_STATUS.STREAM : Fld := ⟨0x103E408, 4, 2, 0x40000, 0x0⟩
abbrev CORE_DBG_STATUS.CAUSE : Fld := ⟨0x103E408, 2, 2, 0x40000, 0x0⟩
abbrev CORE_DBG_STATUS.DENIED : Fld := ⟨0x103E408, 1, 1, 0x40000, 0x0⟩
abbrev CORE_DBG_STATUS.HALTED : Fld := ⟨0x103E408, 0, 1, 0x40000, 0x0⟩
abbrev CORE_DBG_CNT_LO : Fld := ⟨0x103E410, 0, 32, 0x40000, 0x8⟩
abbrev CORE_DBG_CNT_HI : Fld := ⟨0x103E414, 0, 16, 0x40000, 0x8⟩
abbrev CORE_CMD_CNT_LO : Fld := ⟨0x103E440, 0, 32, 0x40000, 0x8⟩
abbrev CORE_CMD_CNT_HI : Fld := ⟨0x103E444, 0, 16, 0x40000, 0x8⟩
abbrev CORE_TRACE_CTRL.W : Fld := ⟨0x103E480, 0, 32, 0x40000, 0x0⟩
abbrev CORE_TRACE_CTRL.EVENTS : Fld := ⟨0x103E480, 10, 6, 0x40000, 0x0⟩
abbrev CORE_TRACE_CTRL.SLOTS : Fld := ⟨0x103E480, 6, 4, 0x40000, 0x0⟩
abbrev CORE_TRACE_CTRL.STOP_FULL : Fld := ⟨0x103E480, 1, 1, 0x40000, 0x0⟩
abbrev CORE_TRACE_CTRL.EN : Fld := ⟨0x103E480, 0, 1, 0x40000, 0x0⟩
abbrev CORE_TRACE_WPTR.W : Fld := ⟨0x103E484, 0, 32, 0x40000, 0x0⟩
abbrev CORE_TRACE_WPTR.WRAPPED : Fld := ⟨0x103E484, 31, 1, 0x40000, 0x0⟩
abbrev CORE_TRACE_WPTR.V : Fld := ⟨0x103E484, 0, 10, 0x40000, 0x0⟩
abbrev CORE_IMG_STATUS.W : Fld := ⟨0x103E600, 0, 32, 0x40000, 0x10⟩
abbrev CORE_IMG_STATUS.VALID : Fld := ⟨0x103E600, 31, 1, 0x40000, 0x10⟩
abbrev CORE_IMG_STATUS.ACTIVE_BANK : Fld := ⟨0x103E600, 30, 1, 0x40000, 0x10⟩
abbrev CORE_IMG_STATUS.ARMED : Fld := ⟨0x103E600, 29, 1, 0x40000, 0x10⟩
abbrev CORE_IMG_STATUS.COPYING : Fld := ⟨0x103E600, 28, 1, 0x40000, 0x10⟩
abbrev CORE_IMG_STATUS.SWITCH_WAIT : Fld := ⟨0x103E600, 27, 1, 0x40000, 0x10⟩
abbrev CORE_IMG_STATUS.DISCARDED : Fld := ⟨0x103E600, 26, 1, 0x40000, 0x10⟩
abbrev CORE_IMG_STATUS.SWITCH_COUNT : Fld := ⟨0x103E600, 0, 16, 0x40000, 0x10⟩
abbrev CORE_IMG_REGION.W : Fld := ⟨0x103E604, 0, 32, 0x40000, 0x10⟩
abbrev CORE_IMG_REGION.BASE : Fld := ⟨0x103E604, 16, 9, 0x40000, 0x10⟩
abbrev CORE_IMG_REGION.SIZE : Fld := ⟨0x103E604, 0, 10, 0x40000, 0x10⟩
abbrev CORE_IMG_KEY : Fld := ⟨0x103E608, 0, 32, 0x40000, 0x10⟩
abbrev CORE_IMG_ID : Fld := ⟨0x103E60C, 0, 32, 0x40000, 0x10⟩
abbrev CORE_MODE_CONFLICT.W : Fld := ⟨0x103E700, 0, 32, 0x40000, 0x0⟩
abbrev CORE_MODE_CONFLICT.COUNT : Fld := ⟨0x103E700, 16, 16, 0x40000, 0x0⟩
abbrev CORE_MODE_CONFLICT.CAUSE : Fld := ⟨0x103E700, 14, 2, 0x40000, 0x0⟩
abbrev CORE_MODE_CONFLICT.CONTEXT : Fld := ⟨0x103E700, 0, 12, 0x40000, 0x0⟩
abbrev BEAD_STATUS.W : Fld := ⟨0x3000000, 0, 32, 0x0, 0x0⟩
abbrev BEAD_STATUS.FAULT_CODE : Fld := ⟨0x3000000, 24, 8, 0x0, 0x0⟩
abbrev BEAD_STATUS.LIMIT_WRITE_REJECT : Fld := ⟨0x3000000, 15, 1, 0x0, 0x0⟩
abbrev BEAD_STATUS.POISON_SEEN : Fld := ⟨0x3000000, 14, 1, 0x0, 0x0⟩
abbrev BEAD_FREE : Fld := ⟨0x3000004, 0, 21, 0x0, 0x0⟩
abbrev BEAD_RADIO_RESERVE : Fld := ⟨0x3000008, 0, 21, 0x0, 0x0⟩
abbrev BEAD_CACHE_HIT : Fld := ⟨0x300000C, 0, 32, 0x0, 0x0⟩
abbrev BEAD_CACHE_MISS : Fld := ⟨0x3000010, 0, 32, 0x0, 0x0⟩
abbrev BEAD_PARITY_OFFSET : Fld := ⟨0x3000014, 0, 16, 0x0, 0x0⟩
abbrev BEAD_SEL : Fld := ⟨0x3000020, 0, 20, 0x0, 0x0⟩
abbrev BEAD_REC : Fld := ⟨0x3000040, 0, 32, 0x4, 0x0⟩
abbrev BEAD_LIMIT : Fld := ⟨0x3000100, 0, 21, 0x4, 0x0⟩
abbrev BEAD_COUNT : Fld := ⟨0x3000500, 0, 21, 0x4, 0x0⟩
abbrev BEAD_SJ_CTRL.W : Fld := ⟨0x3001000, 0, 32, 0x80, 0x0⟩
abbrev BEAD_SJ_CTRL.STOP : Fld := ⟨0x3001000, 1, 1, 0x80, 0x0⟩
abbrev BEAD_SJ_CTRL.START : Fld := ⟨0x3001000, 0, 1, 0x80, 0x0⟩
abbrev BEAD_SJ_STATUS.W : Fld := ⟨0x3001004, 0, 32, 0x80, 0x0⟩
abbrev BEAD_SJ_STATUS.FAULT_CODE : Fld := ⟨0x3001004, 24, 8, 0x80, 0x0⟩
abbrev BEAD_SJ_STATUS.CFG_WRITE_REJECT : Fld := ⟨0x3001004, 15, 1, 0x80, 0x0⟩
abbrev BEAD_SJ_STATUS.EVT_FULL : Fld := ⟨0x3001004, 14, 1, 0x80, 0x0⟩
abbrev BEAD_SJ_STATUS.IN_STEP : Fld := ⟨0x3001004, 13, 1, 0x80, 0x0⟩
abbrev BEAD_SJ_STATUS.STATE : Fld := ⟨0x3001004, 0, 3, 0x80, 0x0⟩
abbrev BEAD_SJ_CFG.W : Fld := ⟨0x3001008, 0, 32, 0x80, 0x0⟩
abbrev BEAD_SJ_CFG.WIN : Fld := ⟨0x3001008, 24, 4, 0x80, 0x0⟩
abbrev BEAD_SJ_CFG.OWNER : Fld := ⟨0x3001008, 16, 8, 0x80, 0x0⟩
abbrev BEAD_SJ_CFG.MAX_BATCH_M1 : Fld := ⟨0x3001008, 0, 10, 0x80, 0x0⟩
abbrev BEAD_SJ_IMAGE : Fld := ⟨0x300100C, 0, 32, 0x80, 0x0⟩
abbrev BEAD_SJ_POOL_OFF : Fld := ⟨0x3001010, 0, 24, 0x80, 0x0⟩
abbrev BEAD_SJ_POOL_PAGES : Fld := ⟨0x3001014, 0, 24, 0x80, 0x0⟩
abbrev BEAD_SJ_LINK_OFF : Fld := ⟨0x3001018, 0, 32, 0x80, 0x0⟩
abbrev BEAD_SJ_REQ_OFF : Fld := ⟨0x300101C, 0, 32, 0x80, 0x0⟩
abbrev BEAD_SJ_EVT_OFF : Fld := ⟨0x3001020, 0, 32, 0x80, 0x0⟩
abbrev BEAD_SJ_BATCH_OFF : Fld := ⟨0x3001024, 0, 32, 0x80, 0x0⟩
abbrev BEAD_SJ_RING_SIZE.W : Fld := ⟨0x3001028, 0, 32, 0x80, 0x0⟩
abbrev BEAD_SJ_RING_SIZE.EVT : Fld := ⟨0x3001028, 8, 4, 0x80, 0x0⟩
abbrev BEAD_SJ_RING_SIZE.REQ : Fld := ⟨0x3001028, 0, 4, 0x80, 0x0⟩
abbrev BEAD_SJ_GEOM.W : Fld := ⟨0x300102C, 0, 32, 0x80, 0x0⟩
abbrev BEAD_SJ_GEOM.G : Fld := ⟨0x300102C, 24, 8, 0x80, 0x0⟩
abbrev BEAD_SJ_GEOM.T : Fld := ⟨0x300102C, 0, 16, 0x80, 0x0⟩
abbrev BEAD_SJ_CHUNK : Fld := ⟨0x3001030, 0, 16, 0x80, 0x0⟩
abbrev BEAD_SJ_BLOCKS_MAX : Fld := ⟨0x3001034, 0, 16, 0x80, 0x0⟩
abbrev BEAD_SJ_POLL : Fld := ⟨0x3001038, 0, 32, 0x80, 0x0⟩
abbrev BEAD_SJ_STEP_LO : Fld := ⟨0x3001040, 0, 32, 0x80, 0x0⟩
abbrev BEAD_SJ_STEP_HI : Fld := ⟨0x3001044, 0, 32, 0x80, 0x0⟩
abbrev BEAD_SJ_FREE_PAGES : Fld := ⟨0x3001048, 0, 24, 0x80, 0x0⟩
abbrev BEAD_SJ_PENDING_PAGES : Fld := ⟨0x300104C, 0, 24, 0x80, 0x0⟩
abbrev BEAD_SJ_RUNNING : Fld := ⟨0x3001050, 0, 11, 0x80, 0x0⟩
abbrev BEAD_SJ_WAITING : Fld := ⟨0x3001054, 0, 21, 0x80, 0x0⟩
abbrev BEAD_SJ_EVICT_COUNT : Fld := ⟨0x3001058, 0, 32, 0x80, 0x0⟩
abbrev BEAD_SJ_DEFER_COUNT : Fld := ⟨0x300105C, 0, 32, 0x80, 0x0⟩
abbrev BEAD_SJ_POLICED_COUNT : Fld := ⟨0x3001060, 0, 32, 0x80, 0x0⟩
abbrev JRNL_CTRL.W : Fld := ⟨0x3100000, 0, 32, 0x0, 0x0⟩
abbrev JRNL_CTRL.STOP : Fld := ⟨0x3100000, 1, 1, 0x0, 0x0⟩
abbrev JRNL_CTRL.START : Fld := ⟨0x3100000, 0, 1, 0x0, 0x0⟩
abbrev JRNL_STATUS.W : Fld := ⟨0x3100004, 0, 32, 0x0, 0x0⟩
abbrev JRNL_STATUS.FAULT_CODE : Fld := ⟨0x3100004, 24, 8, 0x0, 0x0⟩
abbrev JRNL_STATUS.CFG_WRITE_REJECT : Fld := ⟨0x3100004, 15, 1, 0x0, 0x0⟩
abbrev JRNL_STATUS.STOP_REJECT : Fld := ⟨0x3100004, 14, 1, 0x0, 0x0⟩
abbrev JRNL_STATUS.FAIL_STOP : Fld := ⟨0x3100004, 13, 1, 0x0, 0x0⟩
abbrev JRNL_STATUS.WRAPPED : Fld := ⟨0x3100004, 12, 1, 0x0, 0x0⟩
abbrev JRNL_STATUS.STATE : Fld := ⟨0x3100004, 0, 3, 0x0, 0x0⟩
abbrev JRNL_WPTR : Fld := ⟨0x3100008, 0, 16, 0x0, 0x0⟩
abbrev JRNL_BLOCKS_LO : Fld := ⟨0x310000C, 0, 32, 0x0, 0x0⟩
abbrev JRNL_BLOCKS_HI : Fld := ⟨0x3100010, 0, 32, 0x0, 0x0⟩
abbrev JRNL_FLUSH_PERIOD : Fld := ⟨0x3100014, 0, 32, 0x0, 0x0⟩
abbrev JRNL_REPLAYS : Fld := ⟨0x3100020, 0, 32, 0x0, 0x0⟩
abbrev JRNL_REPLAY_FAILED : Fld := ⟨0x3100024, 0, 32, 0x0, 0x0⟩
abbrev JRNL_REPLAY_PENDING : Fld := ⟨0x3100028, 0, 11, 0x0, 0x0⟩
abbrev JRNL_SUSPECT : Fld := ⟨0x3100030, 0, 32, 0x4, 0x0⟩
abbrev JRNL_MGR_STATUS.W : Fld := ⟨0x3100040, 0, 32, 0x0, 0x0⟩
abbrev JRNL_MGR_STATUS.MAJORITY : Fld := ⟨0x3100040, 3, 1, 0x0, 0x0⟩
abbrev JRNL_MGR_STATUS.HEARD : Fld := ⟨0x3100040, 0, 2, 0x0, 0x0⟩
abbrev JRNL_MGR_EPOCH_LO : Fld := ⟨0x3100044, 0, 32, 0x0, 0x0⟩
abbrev JRNL_MGR_EPOCH_HI : Fld := ⟨0x3100048, 0, 32, 0x0, 0x0⟩
abbrev JRNL_JOB_ID : Fld := ⟨0x3101000, 0, 32, 0x10, 0x0⟩
abbrev JRNL_JOB_BIND.W : Fld := ⟨0x3101004, 0, 32, 0x10, 0x0⟩
abbrev JRNL_JOB_BIND.VALID : Fld := ⟨0x3101004, 31, 1, 0x10, 0x0⟩
abbrev JRNL_JOB_BIND.KIND : Fld := ⟨0x3101004, 30, 1, 0x10, 0x0⟩
abbrev JRNL_JOB_BIND.ENDED : Fld := ⟨0x3101004, 29, 1, 0x10, 0x0⟩
abbrev JRNL_JOB_BIND.START_AT_RELEASE : Fld := ⟨0x3101004, 28, 1, 0x10, 0x0⟩
abbrev JRNL_JOB_BIND.LOCAL : Fld := ⟨0x3101004, 0, 12, 0x10, 0x0⟩
abbrev JRNL_JOB_MEMB_LO : Fld := ⟨0x3101008, 0, 32, 0x10, 0x0⟩
abbrev JRNL_JOB_MEMB_HI : Fld := ⟨0x310100C, 0, 32, 0x10, 0x0⟩

end Sys2Proof.Machine
end

