-- ==== Sys2Proof/Machine/Map.lean ====
section
/-! DEFINITION. Sparse stores: a sorted list of (key, value) pairs that lists no key whose value is its default. -/

namespace Sys2Proof.Machine

/-- A sparse store keyed by numbers. -/
abbrev SMap (V : Type) := List (Nat × V)

/-- The value at a key: the listed one, or the key's default. -/
def mapGet {V : Type} (d : Nat → V) : SMap V → Nat → V
  | [], i => d i
  | (k, v) :: t, i => if k = i then v else mapGet d t i

/-- The store without a key. -/
def mapErase {V : Type} : SMap V → Nat → SMap V
  | [], _ => []
  | (k, v) :: t, i => if k = i then mapErase t i else (k, v) :: mapErase t i

/-- A pair placed before the first larger key. -/
def mapInsert {V : Type} : SMap V → Nat → V → SMap V
  | [], i, v => [(i, v)]
  | (k, w) :: t, i, v => if i < k then (i, v) :: (k, w) :: t else (k, w) :: mapInsert t i v

/-- A store in which a key holds a value; the default is not listed. -/
def mapPut {V : Type} [DecidableEq V] (d : Nat → V) (m : SMap V) (i : Nat) (v : V) : SMap V :=
  if v = d i then mapErase m i else mapInsert (mapErase m i) i v

/-- Every key of the store is larger than a bound, rising. -/
def mapRising {V : Type} : Nat → SMap V → Bool
  | _, [] => true
  | b, (k, _) :: t => decide (b < k) && mapRising k t

/-- No listed value is its key's default. -/
def mapNoDefault {V : Type} [DecidableEq V] (d : Nat → V) : SMap V → Bool
  | [] => true
  | (k, v) :: t => decide (v ≠ d k) && mapNoDefault d t

/-- The canonical form: keys strictly rising, no default listed. -/
def mapWf {V : Type} [DecidableEq V] (d : Nat → V) : SMap V → Bool
  | [] => true
  | (k, v) :: t => mapRising k t && mapNoDefault d ((k, v) :: t)

/-- The keys a store lists. -/
def mapKeys {V : Type} (m : SMap V) : List Nat := m.map Prod.fst

end Sys2Proof.Machine
end

