-- ==== Sys2Proof/Machine/RegMap.lean ====
section
/-! DEFINITION. The register map: one row per register of the spec, with its fields, their access types and their reset values. -/

namespace Sys2Proof.Machine

/-- The access types of R5 (00_scope.md); `sram` is a word of a Calendar table (03_calendar.md R74). -/
inductive Access where
  | rw | ro | w1c | w1s | wo | rwl | sram
deriving DecidableEq, Repr

/-- One field of a register: its top and bottom bit, its access type and its reset value (two's complement where signed). -/
structure FieldRow where
  hi : Nat
  lo : Nat
  acc : Access
  rst : Nat
deriving DecidableEq, Repr

/-- One register of the map: its bus offset, its two strides and counts, and the offset of the status register of the
function that owns its RWL fields (of the same first index). -/
structure RegRow where
  name : String
  off : Nat
  s1 : Nat
  c1 : Nat
  s2 : Nat
  c2 : Nat
  owner : Option Nat
  fields : List FieldRow
deriving DecidableEq, Repr

/-- Registers of the GLB block, part 1 (15_vigil.md R386; 18_registers_mailbox.md R416; 18_registers_mailbox.md R418). -/
def glbRows1 : List RegRow := [
  ⟨"GLOBAL_ID", 0x0, 0x0, 1, 0x0, 1, none, [⟨31, 16, .ro, 0⟩, ⟨15, 8, .ro, 0⟩]⟩,
  ⟨"GLOBAL_CORES", 0x4, 0x0, 1, 0x0, 1, none, [⟨23, 16, .ro, 0⟩, ⟨15, 8, .ro, 0⟩, ⟨7, 0, .ro, 0⟩]⟩,
  ⟨"GLOBAL_REPRO_KEY", 0x8, 0x0, 1, 0x0, 1, none, [⟨31, 0, .ro, 0⟩]⟩,
  ⟨"GLOBAL_STATUS", 0xC, 0x0, 1, 0x0, 1, none, [⟨31, 24, .ro, 0⟩, ⟨16, 16, .ro, 0⟩, ⟨15, 15, .w1c, 0⟩, ⟨14, 14, .w1c, 0⟩]⟩,
  ⟨"GLOBAL_PARITY_OFFSET", 0x10, 0x0, 1, 0x0, 1, none, [⟨26, 0, .ro, 0⟩]⟩,
  ⟨"GLOBAL_PARITY_COUNT", 0x14, 0x0, 1, 0x0, 1, none, [⟨31, 0, .ro, 0⟩]⟩,
  ⟨"GLOBAL_BAD_ACCESS", 0x18, 0x0, 1, 0x0, 1, none, [⟨31, 0, .ro, 0⟩]⟩,
  ⟨"GLOBAL_BAD_ADDR", 0x1C, 0x0, 1, 0x0, 1, none, [⟨26, 0, .ro, 0⟩]⟩,
  ⟨"GLOBAL_DISABLED_LO", 0x20, 0x0, 1, 0x0, 1, none, [⟨31, 0, .ro, 0⟩]⟩,
  ⟨"GLOBAL_DISABLED_HI", 0x24, 0x0, 1, 0x0, 1, none, [⟨31, 0, .ro, 0⟩]⟩,
  ⟨"GLOBAL_SERIAL_LO", 0x28, 0x0, 1, 0x0, 1, none, [⟨31, 0, .ro, 0⟩]⟩,
  ⟨"GLOBAL_SERIAL_HI", 0x2C, 0x0, 1, 0x0, 1, none, [⟨31, 0, .ro, 0⟩]⟩,
  ⟨"GLOBAL_STALL_MAX", 0x30, 0x0, 1, 0x0, 1, none, [⟨12, 0, .ro, 0⟩]⟩,
  ⟨"GLOBAL_VIGIL_STATUS", 0x100, 0x0, 1, 0x0, 1, none, [⟨31, 24, .ro, 0⟩, ⟨23, 20, .ro, 0⟩, ⟨19, 19, .ro, 0⟩, ⟨18, 18, .ro, 0⟩, ⟨17, 17, .ro, 0⟩, ⟨16, 16, .ro, 0⟩, ⟨15, 12, .ro, 0⟩]⟩,
  ⟨"GLOBAL_VIGIL_DETAIL", 0x104, 0x0, 1, 0x0, 1, none, [⟨31, 0, .ro, 0⟩]⟩,
  ⟨"GLOBAL_VIGIL_SEQ_LO", 0x108, 0x0, 1, 0x0, 1, none, [⟨31, 0, .ro, 0⟩]⟩,
  ⟨"GLOBAL_VIGIL_SEQ_HI", 0x10C, 0x0, 1, 0x0, 1, none, [⟨31, 0, .ro, 0⟩]⟩,
  ⟨"GLOBAL_VIGIL_SECVER", 0x110, 0x0, 1, 0x0, 1, none, [⟨31, 0, .ro, 0⟩]⟩,
  ⟨"GLOBAL_VIGIL_T", 0x140, 0x4, 12, 0x0, 1, none, [⟨31, 0, .ro, 0⟩]⟩,
  ⟨"GLOBAL_MGE_CTRL", 0x200, 0x0, 1, 0x0, 1, some 0x204, [⟨1, 1, .wo, 0⟩, ⟨0, 0, .wo, 0⟩]⟩,
  ⟨"GLOBAL_MGE_STATUS", 0x204, 0x0, 1, 0x0, 1, some 0x204, [⟨31, 24, .ro, 0⟩, ⟨15, 15, .w1c, 0⟩, ⟨14, 14, .ro, 0⟩, ⟨13, 12, .ro, 0⟩, ⟨2, 0, .ro, 1⟩]⟩,
  ⟨"GLOBAL_MGE_MAC_LO", 0x208, 0x0, 1, 0x0, 1, some 0x204, [⟨31, 0, .rwl, 0⟩]⟩,
  ⟨"GLOBAL_MGE_MAC_HI", 0x20C, 0x0, 1, 0x0, 1, some 0x204, [⟨15, 0, .rwl, 0⟩]⟩,
  ⟨"GLOBAL_MGE_CFG", 0x210, 0x0, 1, 0x0, 1, some 0x204, [⟨0, 0, .rwl, 0⟩]⟩]

/-- Registers of the GLB block, part 2 (18_registers_mailbox.md R418). -/
def glbRows2 : List RegRow := [
  ⟨"GLOBAL_MGE_RX_BASE_LO", 0x214, 0x0, 1, 0x0, 1, some 0x204, [⟨31, 0, .rwl, 0⟩]⟩,
  ⟨"GLOBAL_MGE_RX_BASE_HI", 0x218, 0x0, 1, 0x0, 1, some 0x204, [⟨31, 0, .rwl, 0⟩]⟩,
  ⟨"GLOBAL_MGE_RX_SIZE", 0x21C, 0x0, 1, 0x0, 1, some 0x204, [⟨3, 0, .rwl, 8⟩]⟩,
  ⟨"GLOBAL_MGE_RX_HEAD", 0x220, 0x0, 1, 0x0, 1, some 0x204, [⟨11, 0, .rw, 0⟩]⟩,
  ⟨"GLOBAL_MGE_RX_TAIL", 0x224, 0x0, 1, 0x0, 1, some 0x204, [⟨11, 0, .ro, 0⟩]⟩,
  ⟨"GLOBAL_MGE_TX_BASE_LO", 0x228, 0x0, 1, 0x0, 1, some 0x204, [⟨31, 0, .rwl, 0⟩]⟩,
  ⟨"GLOBAL_MGE_TX_BASE_HI", 0x22C, 0x0, 1, 0x0, 1, some 0x204, [⟨31, 0, .rwl, 0⟩]⟩,
  ⟨"GLOBAL_MGE_TX_SIZE", 0x230, 0x0, 1, 0x0, 1, some 0x204, [⟨3, 0, .rwl, 8⟩]⟩,
  ⟨"GLOBAL_MGE_TX_HEAD", 0x234, 0x0, 1, 0x0, 1, some 0x204, [⟨11, 0, .ro, 0⟩]⟩,
  ⟨"GLOBAL_MGE_TX_TAIL", 0x238, 0x0, 1, 0x0, 1, some 0x204, [⟨11, 0, .rw, 0⟩]⟩,
  ⟨"GLOBAL_MGE_DROP", 0x23C, 0x0, 1, 0x0, 1, some 0x204, [⟨31, 0, .ro, 0⟩]⟩,
  ⟨"GLOBAL_MGE_MDIO", 0x240, 0x0, 1, 0x0, 1, some 0x204, [⟨31, 31, .w1s, 0⟩, ⟨30, 30, .rw, 0⟩, ⟨29, 28, .rw, 0⟩, ⟨27, 23, .rw, 0⟩, ⟨22, 18, .rw, 0⟩, ⟨15, 0, .rw, 0⟩]⟩]

/-- Every register of the GLB block. -/
def glbRows : List RegRow := glbRows1 ++ glbRows2

/-- Registers of the MBX block, part 1 (18_registers_mailbox.md R425). -/
def mbxRows1 : List RegRow := [
  ⟨"MBX_CMD", 0x10000, 0x0, 1, 0x0, 1, none, [⟨7, 0, .wo, 0⟩]⟩,
  ⟨"MBX_STATUS", 0x10004, 0x0, 1, 0x0, 1, none, [⟨31, 24, .ro, 0⟩, ⟨23, 16, .ro, 0⟩, ⟨15, 15, .ro, 0⟩, ⟨14, 14, .w1c, 0⟩]⟩,
  ⟨"MBX_CLAIM", 0x10008, 0x0, 1, 0x0, 1, none, [⟨31, 31, .ro, 0⟩, ⟨7, 4, .ro, 0⟩, ⟨0, 0, .rw, 0⟩]⟩,
  ⟨"MBX_REJECT_COUNT", 0x1000C, 0x0, 1, 0x0, 1, none, [⟨31, 0, .ro, 0⟩]⟩,
  ⟨"MBX_SEQ", 0x10010, 0x0, 1, 0x0, 1, none, [⟨31, 0, .ro, 0⟩]⟩,
  ⟨"MBX_PROGRESS", 0x10014, 0x0, 1, 0x0, 1, none, [⟨9, 0, .ro, 0⟩]⟩,
  ⟨"MBX_ARG", 0x10020, 0x4, 8, 0x0, 1, none, [⟨31, 0, .rw, 0⟩]⟩,
  ⟨"MBX_RES", 0x10040, 0x4, 4, 0x0, 1, none, [⟨31, 0, .ro, 0⟩]⟩]

/-- Every register of the MBX block. -/
def mbxRows : List RegRow := mbxRows1

/-- Registers of the ALM block, part 1 (02_almanac.md R57). -/
def almRows1 : List RegRow := [
  ⟨"ALM_CTRL", 0x20000, 0x0, 1, 0x0, 1, some 0x20004, [⟨1, 1, .wo, 0⟩, ⟨0, 0, .wo, 0⟩]⟩,
  ⟨"ALM_STATUS", 0x20004, 0x0, 1, 0x0, 1, some 0x20004, [⟨31, 24, .ro, 0⟩, ⟨23, 16, .ro, 0⟩, ⟨15, 15, .w1c, 0⟩, ⟨14, 14, .w1c, 0⟩, ⟨13, 13, .w1c, 0⟩, ⟨12, 12, .ro, 0⟩, ⟨10, 8, .ro, 0⟩, ⟨7, 7, .ro, 0⟩, ⟨6, 5, .ro, 0⟩, ⟨2, 0, .ro, 1⟩]⟩,
  ⟨"ALM_CFG", 0x20008, 0x0, 1, 0x0, 1, some 0x20004, [⟨31, 31, .rwl, 0⟩, ⟨30, 23, .rwl, 0⟩, ⟨15, 8, .rwl, 24⟩, ⟨7, 6, .rwl, 0⟩, ⟨5, 4, .rwl, 0⟩, ⟨3, 1, .rwl, 0⟩, ⟨0, 0, .rwl, 0⟩]⟩,
  ⟨"ALM_NS_LO", 0x20010, 0x0, 1, 0x0, 1, some 0x20004, [⟨31, 0, .ro, 0⟩]⟩,
  ⟨"ALM_NS_HI", 0x20014, 0x0, 1, 0x0, 1, some 0x20004, [⟨31, 0, .ro, 0⟩]⟩,
  ⟨"ALM_FRAC", 0x20018, 0x0, 1, 0x0, 1, some 0x20004, [⟨31, 0, .ro, 0⟩]⟩,
  ⟨"ALM_INCR_LO", 0x20020, 0x0, 1, 0x0, 1, some 0x20004, [⟨31, 0, .rwl, 0⟩]⟩,
  ⟨"ALM_INCR_HI", 0x20024, 0x0, 1, 0x0, 1, some 0x20004, [⟨31, 0, .rwl, 2⟩]⟩,
  ⟨"ALM_SET_LO", 0x20028, 0x0, 1, 0x0, 1, some 0x20004, [⟨31, 0, .wo, 0⟩]⟩,
  ⟨"ALM_SET_HI", 0x2002C, 0x0, 1, 0x0, 1, some 0x20004, [⟨31, 0, .wo, 0⟩]⟩,
  ⟨"ALM_STEP", 0x20030, 0x0, 1, 0x0, 1, some 0x20004, [⟨31, 0, .wo, 0⟩]⟩,
  ⟨"ALM_FLOOR_LO", 0x20038, 0x0, 1, 0x0, 1, some 0x20004, [⟨31, 0, .ro, 0⟩]⟩,
  ⟨"ALM_FLOOR_HI", 0x2003C, 0x0, 1, 0x0, 1, some 0x20004, [⟨31, 0, .ro, 0⟩]⟩,
  ⟨"ALM_FLOOR_LIMIT", 0x20040, 0x0, 1, 0x0, 1, some 0x20004, [⟨31, 0, .rw, 10000⟩]⟩,
  ⟨"ALM_FLOOR_SRC", 0x20044, 0x0, 1, 0x0, 1, some 0x20004, [⟨16, 0, .ro, 0⟩]⟩,
  ⟨"ALM_SERVO_KP", 0x20050, 0x0, 1, 0x0, 1, some 0x20004, [⟨31, 0, .rwl, 52429⟩]⟩,
  ⟨"ALM_SERVO_KI", 0x20054, 0x0, 1, 0x0, 1, some 0x20004, [⟨31, 0, .rwl, 1311⟩]⟩,
  ⟨"ALM_FREQ_LIMIT", 0x20058, 0x0, 1, 0x0, 1, some 0x20004, [⟨31, 0, .rwl, 100000⟩]⟩,
  ⟨"ALM_STEP_THRESH", 0x2005C, 0x0, 1, 0x0, 1, some 0x20004, [⟨31, 0, .rwl, 1000⟩]⟩,
  ⟨"ALM_LOCK_THRESH", 0x20060, 0x0, 1, 0x0, 1, some 0x20004, [⟨31, 0, .rwl, 100⟩]⟩,
  ⟨"ALM_LOCK_COUNT", 0x20064, 0x0, 1, 0x0, 1, some 0x20004, [⟨7, 0, .rwl, 16⟩]⟩,
  ⟨"ALM_LOSS_TIMEOUT", 0x20068, 0x0, 1, 0x0, 1, some 0x20004, [⟨31, 0, .rwl, 500000000⟩]⟩,
  ⟨"ALM_OUTLIER", 0x2006C, 0x0, 1, 0x0, 1, some 0x20004, [⟨31, 0, .rwl, 1000⟩]⟩,
  ⟨"ALM_PD_SHIFT", 0x20070, 0x0, 1, 0x0, 1, some 0x20004, [⟨3, 0, .rwl, 4⟩]⟩]

/-- Registers of the ALM block, part 2 (02_almanac.md R57). -/
def almRows2 : List RegRow := [
  ⟨"ALM_PPS_DELAY", 0x20074, 0x0, 1, 0x0, 1, some 0x20004, [⟨31, 0, .rwl, 0⟩]⟩,
  ⟨"ALM_OFFSET", 0x20078, 0x0, 1, 0x0, 1, some 0x20004, [⟨31, 0, .ro, 0⟩]⟩,
  ⟨"ALM_PATH_DELAY", 0x2007C, 0x0, 1, 0x0, 1, some 0x20004, [⟨31, 0, .ro, 0⟩]⟩,
  ⟨"ALM_FREQ_ADJ", 0x20080, 0x0, 1, 0x0, 1, some 0x20004, [⟨31, 0, .ro, 0⟩]⟩,
  ⟨"ALM_HO_LIMIT", 0x20084, 0x0, 1, 0x0, 1, some 0x20004, [⟨31, 0, .rw, 1100⟩]⟩,
  ⟨"ALM_HO_BASE", 0x20088, 0x0, 1, 0x0, 1, some 0x20004, [⟨31, 0, .rw, 100⟩]⟩,
  ⟨"ALM_HO_RATE_SYNCE", 0x2008C, 0x0, 1, 0x0, 1, some 0x20004, [⟨31, 0, .rw, 13⟩]⟩,
  ⟨"ALM_HO_RATE_FREE", 0x20090, 0x0, 1, 0x0, 1, some 0x20004, [⟨31, 0, .rw, 256⟩]⟩,
  ⟨"ALM_HO_TE", 0x20094, 0x0, 1, 0x0, 1, some 0x20004, [⟨31, 0, .ro, 0⟩]⟩,
  ⟨"ALM_SYNCE_CTRL", 0x20098, 0x0, 1, 0x0, 1, some 0x20004, [⟨7, 7, .rw, 0⟩, ⟨4, 2, .rw, 0⟩, ⟨1, 0, .rw, 0⟩]⟩,
  ⟨"ALM_TSC_IN", 0x20100, 0x10, 8, 0x0, 1, none, [⟨31, 0, .ro, 0⟩]⟩,
  ⟨"ALM_TSC_EG", 0x20104, 0x10, 8, 0x0, 1, none, [⟨31, 0, .ro, 0⟩]⟩,
  ⟨"ALM_TSC_TRIM", 0x20108, 0x10, 8, 0x0, 1, none, [⟨31, 0, .rw, 0⟩]⟩,
  ⟨"ALM_ASYM", 0x2010C, 0x10, 8, 0x0, 1, none, [⟨31, 0, .rw, 0⟩]⟩,
  ⟨"ALM_PLS_CTRL", 0x20200, 0x20, 8, 0x0, 1, none, [⟨3, 3, .w1c, 0⟩, ⟨2, 2, .rw, 0⟩, ⟨1, 0, .rw, 0⟩]⟩,
  ⟨"ALM_PLS_START_LO", 0x20204, 0x20, 8, 0x0, 1, none, [⟨31, 0, .rw, 0⟩]⟩,
  ⟨"ALM_PLS_START_HI", 0x20208, 0x20, 8, 0x0, 1, none, [⟨31, 0, .rw, 0⟩]⟩,
  ⟨"ALM_PLS_PERIOD", 0x2020C, 0x20, 8, 0x0, 1, none, [⟨31, 0, .rw, 1000000000⟩]⟩,
  ⟨"ALM_PLS_WIDTH", 0x20210, 0x20, 8, 0x0, 1, none, [⟨31, 0, .rw, 100000000⟩]⟩,
  ⟨"ALM_PLS_SKIP", 0x20214, 0x20, 8, 0x0, 1, none, [⟨31, 0, .ro, 0⟩]⟩,
  ⟨"ALM_CAPT_CTRL", 0x20300, 0x10, 8, 0x0, 1, none, [⟨5, 5, .w1c, 0⟩, ⟨4, 2, .ro, 0⟩, ⟨1, 0, .rw, 0⟩]⟩,
  ⟨"ALM_CAPT_TS_LO", 0x20304, 0x10, 8, 0x0, 1, none, [⟨31, 0, .ro, 0⟩]⟩,
  ⟨"ALM_CAPT_TS_HI", 0x20308, 0x10, 8, 0x0, 1, none, [⟨31, 0, .ro, 0⟩]⟩]

/-- Every register of the ALM block. -/
def almRows : List RegRow := almRows1 ++ almRows2

/-- Registers of the CAL block, part 1 (03_calendar.md R84). -/
def calRows1 : List RegRow := [
  ⟨"CAL_CTRL", 0x30000, 0x0, 1, 0x0, 1, some 0x30004, [⟨4, 4, .wo, 0⟩, ⟨3, 3, .wo, 0⟩, ⟨2, 2, .wo, 0⟩, ⟨1, 1, .wo, 0⟩, ⟨0, 0, .wo, 0⟩]⟩,
  ⟨"CAL_STATUS", 0x30004, 0x0, 1, 0x0, 1, some 0x30004, [⟨31, 24, .ro, 0⟩, ⟨16, 16, .w1c, 0⟩, ⟨15, 15, .w1c, 0⟩, ⟨14, 14, .w1c, 0⟩, ⟨13, 13, .w1c, 0⟩, ⟨12, 12, .w1c, 0⟩, ⟨11, 11, .ro, 0⟩, ⟨10, 10, .ro, 0⟩, ⟨9, 9, .ro, 0⟩, ⟨8, 8, .ro, 0⟩, ⟨2, 0, .ro, 1⟩]⟩,
  ⟨"CAL_ARM_RESULT", 0x30008, 0x0, 1, 0x0, 1, some 0x30004, [⟨31, 24, .ro, 0⟩, ⟨10, 10, .ro, 0⟩, ⟨9, 0, .ro, 0⟩]⟩,
  ⟨"CAL_SWITCH_TIME_NS", 0x30040, 0x0, 1, 0x0, 1, some 0x30004, [⟨31, 0, .rw, 0⟩]⟩,
  ⟨"CAL_SWITCH_TIME_SL", 0x30044, 0x0, 1, 0x0, 1, some 0x30004, [⟨31, 0, .rw, 0⟩]⟩,
  ⟨"CAL_SWITCH_TIME_SH", 0x30048, 0x0, 1, 0x0, 1, some 0x30004, [⟨15, 0, .rw, 0⟩]⟩,
  ⟨"CAL_GOV_CTRL", 0x30050, 0x0, 1, 0x0, 1, some 0x30004, [⟨0, 0, .rw, 0⟩]⟩,
  ⟨"CAL_GOV_DUTY", 0x30054, 0x0, 1, 0x0, 1, some 0x30004, [⟨8, 0, .rw, 256⟩]⟩,
  ⟨"CAL_GOV_MIN_DUTY", 0x30058, 0x0, 1, 0x0, 1, some 0x30004, [⟨8, 0, .rw, 32⟩]⟩,
  ⟨"CAL_GOV_HYST", 0x3005C, 0x0, 1, 0x0, 1, some 0x30004, [⟨31, 0, .rw, 20⟩]⟩,
  ⟨"CAL_HARD_LATE_COUNT", 0x30060, 0x0, 1, 0x0, 1, some 0x30004, [⟨31, 0, .ro, 0⟩]⟩,
  ⟨"CAL_HARD_LATE_CORE", 0x30064, 0x0, 1, 0x0, 1, some 0x30004, [⟨6, 0, .ro, 0⟩]⟩,
  ⟨"CAL_CORE_SEL", 0x30070, 0x0, 1, 0x0, 1, some 0x30004, [⟨6, 0, .rw, 0⟩]⟩,
  ⟨"CAL_CORE_GATE", 0x30074, 0x0, 1, 0x0, 1, some 0x30004, [⟨5, 5, .ro, 0⟩, ⟨4, 4, .ro, 0⟩, ⟨3, 0, .ro, 0⟩]⟩,
  ⟨"CAL_SWAP_SLIP", 0x30078, 0x0, 1, 0x0, 1, some 0x30004, [⟨31, 0, .ro, 0⟩]⟩,
  ⟨"CAL_CYCLE_COUNT", 0x3007C, 0x0, 1, 0x0, 1, some 0x30004, [⟨31, 0, .ro, 0⟩]⟩,
  ⟨"CAL_BANK_LEN", 0x30100, 0x80, 2, 0x0, 1, some 0x30004, [⟨10, 0, .rw, 1⟩]⟩,
  ⟨"CAL_BANK_CYCLE", 0x30104, 0x80, 2, 0x0, 1, some 0x30004, [⟨31, 0, .rw, 500000⟩]⟩,
  ⟨"CAL_BANK_BASE_NS", 0x30108, 0x80, 2, 0x0, 1, some 0x30004, [⟨31, 0, .rw, 0⟩]⟩,
  ⟨"CAL_BANK_BASE_SL", 0x3010C, 0x80, 2, 0x0, 1, some 0x30004, [⟨31, 0, .rw, 0⟩]⟩,
  ⟨"CAL_BANK_BASE_SH", 0x30110, 0x80, 2, 0x0, 1, some 0x30004, [⟨15, 0, .rw, 0⟩]⟩,
  ⟨"CAL_BANK_BOUND", 0x30114, 0x80, 2, 0x0, 1, some 0x30004, [⟨31, 0, .rw, 8000⟩]⟩,
  ⟨"CAL_TB_CTRL", 0x32000, 0x40, 256, 0x0, 1, some 0x30004, [⟨2, 2, .rw, 0⟩, ⟨1, 1, .rw, 0⟩, ⟨0, 0, .rw, 0⟩]⟩,
  ⟨"CAL_TB_ARR_RATE", 0x32004, 0x40, 256, 0x0, 1, some 0x30004, [⟨31, 0, .rw, 0⟩]⟩]

/-- Registers of the CAL block, part 2 (03_calendar.md R84). -/
def calRows2 : List RegRow := [
  ⟨"CAL_TB_ARR_BURST", 0x32008, 0x40, 256, 0x0, 1, some 0x30004, [⟨31, 0, .rw, 0⟩]⟩,
  ⟨"CAL_TB_ARR_TOKENS", 0x3200C, 0x40, 256, 0x0, 1, some 0x30004, [⟨31, 0, .ro, 0⟩]⟩,
  ⟨"CAL_TB_MEM_RATE", 0x32010, 0x40, 256, 0x0, 1, some 0x30004, [⟨31, 0, .rw, 0⟩]⟩,
  ⟨"CAL_TB_MEM_BURST", 0x32014, 0x40, 256, 0x0, 1, some 0x30004, [⟨31, 0, .rw, 0⟩]⟩,
  ⟨"CAL_TB_MEM_TOKENS", 0x32018, 0x40, 256, 0x0, 1, some 0x30004, [⟨31, 0, .ro, 0⟩]⟩,
  ⟨"CAL_TB_FAB_RATE", 0x3201C, 0x40, 256, 0x0, 1, some 0x30004, [⟨31, 0, .rw, 0⟩]⟩,
  ⟨"CAL_TB_FAB_BURST", 0x32020, 0x40, 256, 0x0, 1, some 0x30004, [⟨31, 0, .rw, 0⟩]⟩,
  ⟨"CAL_TB_FAB_TOKENS", 0x32024, 0x40, 256, 0x0, 1, some 0x30004, [⟨31, 0, .ro, 0⟩]⟩,
  ⟨"CAL_TB_POLICED", 0x32028, 0x40, 256, 0x0, 1, some 0x30004, [⟨31, 0, .ro, 0⟩]⟩,
  ⟨"CAL_BANK_SET", 0x36000, 0x1000, 2, 0x4, 1024, some 0x30004, [⟨31, 0, .sram, 0⟩]⟩,
  ⟨"CAL_BANK_ENTRY", 0x38000, 0x4000, 2, 0x4, 4096, some 0x30004, [⟨31, 0, .sram, 0⟩]⟩]

/-- Every register of the CAL block. -/
def calRows : List RegRow := calRows1 ++ calRows2

/-- Registers of the PWR block, part 1 (17_live_service.md R405). -/
def pwrRows1 : List RegRow := [
  ⟨"PWR_LIMIT", 0x40000, 0x0, 1, 0x0, 1, none, [⟨11, 0, .rw, 1700⟩]⟩,
  ⟨"PWR_MEASURED", 0x40004, 0x0, 1, 0x0, 1, none, [⟨11, 0, .ro, 0⟩]⟩,
  ⟨"PWR_DOM_CMD", 0x40008, 0x0, 1, 0x0, 1, none, [⟨9, 9, .wo, 0⟩, ⟨8, 8, .wo, 0⟩, ⟨7, 0, .wo, 0⟩]⟩,
  ⟨"PWR_DOM_RESULT", 0x4000C, 0x0, 1, 0x0, 1, none, [⟨31, 24, .ro, 0⟩, ⟨9, 9, .w1c, 0⟩, ⟨8, 8, .ro, 0⟩, ⟨7, 0, .ro, 0⟩]⟩,
  ⟨"PWR_START_IGNORED", 0x40010, 0x0, 1, 0x0, 1, none, [⟨31, 0, .ro, 0⟩]⟩,
  ⟨"PWR_DOM_ON", 0x40040, 0x4, 7, 0x0, 1, none, [⟨31, 0, .ro, 0⟩]⟩]

/-- Every register of the PWR block. -/
def pwrRows : List RegRow := pwrRows1

/-- Registers of the MGN block, part 1 (17_live_service.md R406). -/
def mgnRows1 : List RegRow := [
  ⟨"MARGIN_STATUS", 0x50000, 0x0, 1, 0x0, 1, none, [⟨1, 1, .w1c, 0⟩, ⟨0, 0, .w1c, 0⟩]⟩,
  ⟨"MARGIN_WARN", 0x50010, 0x8, 7, 0x0, 1, none, [⟨31, 0, .rw, 0⟩]⟩,
  ⟨"MARGIN_RETIRE", 0x50014, 0x8, 7, 0x0, 1, none, [⟨31, 0, .rw, 0⟩]⟩,
  ⟨"MARGIN_CORE", 0x50100, 0x4, 128, 0x0, 1, none, [⟨31, 24, .ro, 0⟩, ⟨23, 16, .ro, 0⟩, ⟨15, 8, .ro, 0⟩, ⟨4, 4, .ro, 0⟩, ⟨3, 3, .ro, 0⟩, ⟨2, 2, .ro, 0⟩, ⟨1, 1, .ro, 0⟩, ⟨0, 0, .ro, 0⟩]⟩,
  ⟨"MARGIN_OPT", 0x50400, 0x10, 24, 0x4, 4, none, [⟨31, 16, .ro, 0⟩, ⟨15, 9, .ro, 0⟩, ⟨8, 0, .ro, 0⟩]⟩,
  ⟨"MARGIN_FH_EYE", 0x50600, 0x4, 32, 0x0, 1, none, [⟨9, 0, .ro, 0⟩]⟩,
  ⟨"MARGIN_STACK_CE", 0x50680, 0x4, 16, 0x0, 1, none, [⟨31, 0, .ro, 0⟩]⟩,
  ⟨"MARGIN_CORE_CODE", 0x50800, 0x4, 128, 0x0, 1, none, [⟨8, 8, .ro, 0⟩, ⟨7, 0, .ro, 0⟩]⟩]

/-- Every register of the MGN block. -/
def mgnRows : List RegRow := mgnRows1

/-- Registers of the HOST block, part 1 (09_contexts_tenants.md R247). -/
def hostRows1 : List RegRow := [
  ⟨"HOST_CTRL", 0x60000, 0x0, 1, 0x0, 1, none, [⟨1, 1, .wo, 0⟩, ⟨0, 0, .wo, 0⟩]⟩,
  ⟨"HOST_STATUS", 0x60004, 0x0, 1, 0x0, 1, none, [⟨31, 24, .ro, 0⟩, ⟨15, 15, .w1c, 0⟩, ⟨14, 14, .w1c, 0⟩, ⟨13, 13, .ro, 0⟩, ⟨10, 3, .ro, 0⟩, ⟨2, 0, .ro, 1⟩]⟩,
  ⟨"HOST_NUM_VF", 0x60008, 0x0, 1, 0x0, 1, none, [⟨8, 0, .ro, 0⟩]⟩,
  ⟨"HOST_CTX_FREE", 0x6000C, 0x0, 1, 0x0, 1, none, [⟨12, 0, .ro, 4096⟩]⟩,
  ⟨"HOST_WIN_SEL", 0x60100, 0x0, 1, 0x0, 1, none, [⟨12, 4, .rw, 0⟩, ⟨3, 0, .rw, 0⟩]⟩,
  ⟨"HOST_WIN_BASE_LO", 0x60104, 0x0, 1, 0x0, 1, none, [⟨31, 0, .rw, 0⟩]⟩,
  ⟨"HOST_WIN_BASE_HI", 0x60108, 0x0, 1, 0x0, 1, none, [⟨31, 0, .rw, 0⟩]⟩,
  ⟨"HOST_WIN_SIZE", 0x6010C, 0x0, 1, 0x0, 1, none, [⟨31, 0, .rw, 0⟩]⟩,
  ⟨"HOST_WIN_ATTR", 0x60110, 0x0, 1, 0x0, 1, none, [⟨3, 3, .rw, 0⟩, ⟨2, 2, .rw, 0⟩, ⟨1, 1, .rw, 0⟩, ⟨0, 0, .rw, 0⟩]⟩,
  ⟨"HOST_WIN_CMD", 0x60114, 0x0, 1, 0x0, 1, none, [⟨1, 1, .wo, 0⟩, ⟨0, 0, .wo, 0⟩]⟩,
  ⟨"HOST_WIN_RESULT", 0x60118, 0x0, 1, 0x0, 1, none, [⟨7, 0, .ro, 0⟩]⟩,
  ⟨"HOST_FN_STATUS", 0x64000, 0x40, 257, 0x0, 1, some 0x64000, [⟨31, 24, .ro, 0⟩, ⟨15, 15, .w1c, 0⟩, ⟨14, 14, .ro, 0⟩, ⟨13, 13, .ro, 0⟩, ⟨2, 0, .ro, 1⟩]⟩,
  ⟨"HOST_FN_CTRL", 0x64004, 0x40, 257, 0x0, 1, some 0x64000, [⟨1, 1, .wo, 0⟩, ⟨0, 0, .wo, 0⟩]⟩,
  ⟨"HOST_FN_SUB_BASE_LO", 0x64008, 0x40, 257, 0x0, 1, some 0x64000, [⟨31, 0, .rwl, 0⟩]⟩,
  ⟨"HOST_FN_SUB_BASE_HI", 0x6400C, 0x40, 257, 0x0, 1, some 0x64000, [⟨31, 0, .rwl, 0⟩]⟩,
  ⟨"HOST_FN_RES_BASE_LO", 0x64010, 0x40, 257, 0x0, 1, some 0x64000, [⟨31, 0, .rwl, 0⟩]⟩,
  ⟨"HOST_FN_RES_BASE_HI", 0x64014, 0x40, 257, 0x0, 1, some 0x64000, [⟨31, 0, .rwl, 0⟩]⟩,
  ⟨"HOST_FN_CPL_BASE_LO", 0x64018, 0x40, 257, 0x0, 1, some 0x64000, [⟨31, 0, .rwl, 0⟩]⟩,
  ⟨"HOST_FN_CPL_BASE_HI", 0x6401C, 0x40, 257, 0x0, 1, some 0x64000, [⟨31, 0, .rwl, 0⟩]⟩,
  ⟨"HOST_FN_RING_SIZE", 0x64020, 0x40, 257, 0x0, 1, some 0x64000, [⟨19, 16, .rwl, 4⟩, ⟨11, 8, .rwl, 4⟩, ⟨3, 0, .rwl, 4⟩]⟩,
  ⟨"HOST_FN_SUB_TAIL", 0x64024, 0x40, 257, 0x0, 1, some 0x64000, [⟨11, 0, .rw, 0⟩]⟩,
  ⟨"HOST_FN_SUB_HEAD", 0x64028, 0x40, 257, 0x0, 1, some 0x64000, [⟨11, 0, .ro, 0⟩]⟩,
  ⟨"HOST_FN_RES_TAIL", 0x6402C, 0x40, 257, 0x0, 1, some 0x64000, [⟨11, 0, .ro, 0⟩]⟩,
  ⟨"HOST_FN_RES_HEAD", 0x64030, 0x40, 257, 0x0, 1, some 0x64000, [⟨11, 0, .rw, 0⟩]⟩]

/-- Registers of the HOST block, part 2 (09_contexts_tenants.md R247). -/
def hostRows2 : List RegRow := [
  ⟨"HOST_FN_CPL_TAIL", 0x64034, 0x40, 257, 0x0, 1, some 0x64000, [⟨11, 0, .ro, 0⟩]⟩,
  ⟨"HOST_FN_CPL_HEAD", 0x64038, 0x40, 257, 0x0, 1, some 0x64000, [⟨11, 0, .rw, 0⟩]⟩,
  ⟨"HOST_JOBS_DONE_LO", 0x68100, 0x10, 256, 0x0, 1, none, [⟨31, 0, .ro, 0⟩]⟩,
  ⟨"HOST_JOBS_DONE_HI", 0x68104, 0x10, 256, 0x0, 1, none, [⟨31, 0, .ro, 0⟩]⟩,
  ⟨"HOST_JOBS_FAILED_LO", 0x68108, 0x10, 256, 0x0, 1, none, [⟨31, 0, .ro, 0⟩]⟩,
  ⟨"HOST_JOBS_FAILED_HI", 0x6810C, 0x10, 256, 0x0, 1, none, [⟨31, 0, .ro, 0⟩]⟩,
  ⟨"HOST_VF_CFG", 0x6A000, 0x20, 256, 0x0, 1, none, [⟨31, 24, .rw, 0⟩, ⟨23, 16, .rw, 0⟩, ⟨15, 15, .rw, 0⟩, ⟨12, 0, .rw, 0⟩]⟩,
  ⟨"HOST_VF_CORES", 0x6A004, 0x20, 256, 0x4, 4, none, [⟨31, 0, .rw, 0⟩]⟩,
  ⟨"HOST_VF_STATUS", 0x6A014, 0x20, 256, 0x0, 1, none, [⟨31, 16, .ro, 0⟩, ⟨4, 4, .ro, 0⟩, ⟨3, 3, .ro, 0⟩, ⟨2, 2, .ro, 0⟩, ⟨1, 1, .ro, 0⟩, ⟨0, 0, .ro, 0⟩]⟩,
  ⟨"HOST_VF_CTX_COUNT", 0x6A018, 0x20, 256, 0x0, 1, none, [⟨12, 0, .ro, 0⟩]⟩]

/-- Every register of the HOST block. -/
def hostRows : List RegRow := hostRows1 ++ hostRows2

/-- Registers of the FH block, part 1 (11_nr_baseband.md R287). -/
def fhRows1 : List RegRow := [
  ⟨"FH_CTRL", 0x80000, 0x10000, 8, 0x0, 1, some 0x80004, [⟨1, 1, .wo, 0⟩, ⟨0, 0, .wo, 0⟩]⟩,
  ⟨"FH_STATUS", 0x80004, 0x10000, 8, 0x0, 1, some 0x80004, [⟨31, 24, .ro, 0⟩, ⟨15, 15, .w1c, 0⟩, ⟨14, 14, .w1c, 0⟩, ⟨2, 0, .ro, 1⟩]⟩,
  ⟨"FH_CFG", 0x80008, 0x10000, 8, 0x0, 1, some 0x80004, [⟨17, 16, .rwl, 0⟩, ⟨13, 0, .rwl, 9600⟩]⟩,
  ⟨"FH_MAC_LO", 0x80010, 0x10000, 8, 0x8, 4, some 0x80004, [⟨31, 0, .rwl, 0⟩]⟩,
  ⟨"FH_MAC_HI", 0x80014, 0x10000, 8, 0x8, 4, some 0x80004, [⟨15, 0, .rwl, 0⟩]⟩,
  ⟨"FH_SUB_STATUS", 0x80040, 0x10000, 8, 0x20, 4, some 0x80004, [⟨1, 1, .ro, 0⟩, ⟨0, 0, .ro, 0⟩]⟩,
  ⟨"FH_RX_FRAMES", 0x80044, 0x10000, 8, 0x20, 4, some 0x80004, [⟨31, 0, .ro, 0⟩]⟩,
  ⟨"FH_RX_EARLY", 0x80048, 0x10000, 8, 0x20, 4, some 0x80004, [⟨31, 0, .ro, 0⟩]⟩,
  ⟨"FH_RX_LATE", 0x8004C, 0x10000, 8, 0x20, 4, some 0x80004, [⟨31, 0, .ro, 0⟩]⟩,
  ⟨"FH_RX_NOFLOW", 0x80050, 0x10000, 8, 0x20, 4, some 0x80004, [⟨31, 0, .ro, 0⟩]⟩,
  ⟨"FH_RX_NOROOM", 0x80054, 0x10000, 8, 0x20, 4, some 0x80004, [⟨31, 0, .ro, 0⟩]⟩,
  ⟨"FH_TX_FRAMES", 0x80058, 0x10000, 8, 0x20, 4, some 0x80004, [⟨31, 0, .ro, 0⟩]⟩,
  ⟨"FH_TX_LATE", 0x8005C, 0x10000, 8, 0x20, 4, some 0x80004, [⟨31, 0, .ro, 0⟩]⟩,
  ⟨"FH_FWRX_BASE_LO", 0x80100, 0x10000, 8, 0x0, 1, some 0x80004, [⟨31, 0, .rwl, 0⟩]⟩,
  ⟨"FH_FWRX_BASE_HI", 0x80104, 0x10000, 8, 0x0, 1, some 0x80004, [⟨31, 0, .rwl, 0⟩]⟩,
  ⟨"FH_FWRX_SIZE", 0x80108, 0x10000, 8, 0x0, 1, some 0x80004, [⟨3, 0, .rwl, 8⟩]⟩,
  ⟨"FH_FWRX_HEAD", 0x8010C, 0x10000, 8, 0x0, 1, some 0x80004, [⟨11, 0, .rw, 0⟩]⟩,
  ⟨"FH_FWRX_TAIL", 0x80110, 0x10000, 8, 0x0, 1, some 0x80004, [⟨11, 0, .ro, 0⟩]⟩,
  ⟨"FH_FWTX_BASE_LO", 0x80120, 0x10000, 8, 0x0, 1, some 0x80004, [⟨31, 0, .rwl, 0⟩]⟩,
  ⟨"FH_FWTX_BASE_HI", 0x80124, 0x10000, 8, 0x0, 1, some 0x80004, [⟨31, 0, .rwl, 0⟩]⟩,
  ⟨"FH_FWTX_SIZE", 0x80128, 0x10000, 8, 0x0, 1, some 0x80004, [⟨3, 0, .rwl, 8⟩]⟩,
  ⟨"FH_FWTX_HEAD", 0x8012C, 0x10000, 8, 0x0, 1, some 0x80004, [⟨11, 0, .ro, 0⟩]⟩,
  ⟨"FH_FWTX_TAIL", 0x80130, 0x10000, 8, 0x0, 1, some 0x80004, [⟨11, 0, .rw, 0⟩]⟩]

/-- Every register of the FH block. -/
def fhRows : List RegRow := fhRows1

/-- Registers of the CODEC block, part 1 (11_nr_baseband.md R288). -/
def codecRows1 : List RegRow := [
  ⟨"CODEC_GRP_CTRL", 0x100000, 0x100, 4, 0x0, 1, some 0x100004, [⟨1, 1, .wo, 0⟩, ⟨0, 0, .wo, 0⟩]⟩,
  ⟨"CODEC_GRP_STATUS", 0x100004, 0x100, 4, 0x0, 1, some 0x100004, [⟨31, 24, .ro, 0⟩, ⟨15, 15, .w1c, 0⟩, ⟨14, 14, .w1c, 0⟩, ⟨2, 0, .ro, 1⟩]⟩,
  ⟨"CODEC_GRP_HARD_BASE_LO", 0x100008, 0x100, 4, 0x0, 1, some 0x100004, [⟨31, 0, .rwl, 0⟩]⟩,
  ⟨"CODEC_GRP_HARD_BASE_HI", 0x10000C, 0x100, 4, 0x0, 1, some 0x100004, [⟨31, 0, .rwl, 0⟩]⟩,
  ⟨"CODEC_GRP_HARD_SIZE", 0x100010, 0x100, 4, 0x0, 1, some 0x100004, [⟨3, 0, .rwl, 4⟩]⟩,
  ⟨"CODEC_GRP_FIRM_BASE_LO", 0x100014, 0x100, 4, 0x0, 1, some 0x100004, [⟨31, 0, .rwl, 0⟩]⟩,
  ⟨"CODEC_GRP_FIRM_BASE_HI", 0x100018, 0x100, 4, 0x0, 1, some 0x100004, [⟨31, 0, .rwl, 0⟩]⟩,
  ⟨"CODEC_GRP_FIRM_SIZE", 0x10001C, 0x100, 4, 0x0, 1, some 0x100004, [⟨3, 0, .rwl, 4⟩]⟩,
  ⟨"CODEC_GRP_JOBS", 0x100020, 0x100, 4, 0x0, 1, some 0x100004, [⟨31, 0, .ro, 0⟩]⟩,
  ⟨"CODEC_GRP_DEC_FAIL", 0x100024, 0x100, 4, 0x0, 1, some 0x100004, [⟨31, 0, .ro, 0⟩]⟩,
  ⟨"CODEC_GRP_LATE", 0x100028, 0x100, 4, 0x0, 1, some 0x100004, [⟨31, 0, .ro, 0⟩]⟩,
  ⟨"CODEC_CELL_CTRL", 0x110000, 0x40, 512, 0x0, 1, some 0x110004, [⟨2, 2, .wo, 0⟩, ⟨1, 1, .wo, 0⟩, ⟨0, 0, .wo, 0⟩]⟩,
  ⟨"CODEC_CELL_STATUS", 0x110004, 0x40, 512, 0x0, 1, some 0x110004, [⟨31, 24, .ro, 0⟩, ⟨15, 15, .w1c, 0⟩, ⟨14, 14, .ro, 0⟩, ⟨13, 13, .ro, 0⟩, ⟨12, 12, .ro, 0⟩, ⟨11, 11, .ro, 0⟩, ⟨10, 10, .ro, 0⟩, ⟨9, 9, .w1c, 0⟩, ⟨2, 0, .ro, 1⟩]⟩,
  ⟨"CODEC_CELL_CFG_LO", 0x110008, 0x40, 512, 0x0, 1, some 0x110004, [⟨31, 0, .rwl, 0⟩]⟩,
  ⟨"CODEC_CELL_CFG_HI", 0x11000C, 0x40, 512, 0x0, 1, some 0x110004, [⟨31, 0, .rwl, 0⟩]⟩,
  ⟨"CODEC_CELL_PARTNER", 0x110010, 0x40, 512, 0x0, 1, some 0x110004, [⟨31, 23, .rwl, 0⟩, ⟨18, 18, .rwl, 0⟩, ⟨17, 17, .rwl, 0⟩, ⟨16, 0, .rwl, 0⟩]⟩,
  ⟨"CODEC_CELL_MISSED", 0x110014, 0x40, 512, 0x0, 1, some 0x110004, [⟨31, 0, .ro, 0⟩]⟩,
  ⟨"CODEC_CELL_HARQ_DROP", 0x110018, 0x40, 512, 0x0, 1, some 0x110004, [⟨31, 0, .ro, 0⟩]⟩,
  ⟨"CODEC_CELL_POISON_DROP", 0x11001C, 0x40, 512, 0x0, 1, some 0x110004, [⟨31, 0, .ro, 0⟩]⟩,
  ⟨"CODEC_CELL_IND_DROP", 0x110020, 0x40, 512, 0x0, 1, some 0x110004, [⟨31, 0, .ro, 0⟩]⟩,
  ⟨"CODEC_CELL_LATE_MSG", 0x110024, 0x40, 512, 0x0, 1, some 0x110004, [⟨31, 0, .ro, 0⟩]⟩,
  ⟨"CODEC_CELL_REPL_SLOT", 0x110028, 0x40, 512, 0x0, 1, some 0x110004, [⟨31, 0, .ro, 0⟩]⟩,
  ⟨"CODEC_CELL_STARTS", 0x11002C, 0x40, 512, 0x0, 1, some 0x110004, [⟨31, 16, .ro, 0⟩, ⟨15, 0, .ro, 0⟩]⟩]

/-- Every register of the CODEC block. -/
def codecRows : List RegRow := codecRows1

/-- Registers of the FSK block, part 1 (12_fsk.md R306). -/
def fskRows1 : List RegRow := [
  ⟨"FSK_STATUS", 0x140000, 0x0, 1, 0x0, 1, none, [⟨6, 0, .ro, 0⟩]⟩,
  ⟨"FSK_GRP_CTRL", 0x141000, 0x100, 64, 0x0, 1, some 0x141004, [⟨1, 1, .wo, 0⟩, ⟨0, 0, .wo, 0⟩]⟩,
  ⟨"FSK_GRP_STATUS", 0x141004, 0x100, 64, 0x0, 1, some 0x141004, [⟨31, 24, .ro, 0⟩, ⟨15, 15, .w1c, 0⟩, ⟨14, 14, .ro, 0⟩, ⟨13, 13, .ro, 0⟩, ⟨2, 0, .ro, 1⟩]⟩,
  ⟨"FSK_GRP_PHY", 0x141008, 0x100, 64, 0x0, 1, some 0x141004, [⟨31, 22, .rwl, 8⟩, ⟨20, 20, .rwl, 0⟩, ⟨19, 18, .rwl, 0⟩, ⟨17, 17, .rwl, 0⟩, ⟨16, 16, .rwl, 0⟩, ⟨15, 15, .rwl, 1⟩, ⟨14, 14, .rwl, 0⟩, ⟨13, 13, .rwl, 0⟩, ⟨12, 12, .rwl, 0⟩, ⟨2, 0, .rwl, 0⟩]⟩,
  ⟨"FSK_GRP_PORT", 0x14100C, 0x100, 64, 0x0, 1, some 0x141004, [⟨4, 3, .rwl, 0⟩, ⟨2, 0, .rwl, 0⟩]⟩,
  ⟨"FSK_GRP_CHAN_LO", 0x141010, 0x100, 64, 0x0, 1, some 0x141004, [⟨31, 0, .rwl, 0⟩]⟩,
  ⟨"FSK_GRP_CHAN_HI", 0x141014, 0x100, 64, 0x0, 1, some 0x141004, [⟨31, 0, .rwl, 0⟩]⟩,
  ⟨"FSK_GRP_CHANS", 0x141018, 0x100, 64, 0x0, 1, some 0x141004, [⟨6, 0, .rwl, 0⟩]⟩,
  ⟨"FSK_GRP_RX_LO", 0x14101C, 0x100, 64, 0x0, 1, some 0x141004, [⟨31, 0, .rwl, 0⟩]⟩,
  ⟨"FSK_GRP_RX_HI", 0x141020, 0x100, 64, 0x0, 1, some 0x141004, [⟨31, 0, .rwl, 0⟩]⟩,
  ⟨"FSK_GRP_RX_BYTES", 0x141024, 0x100, 64, 0x0, 1, some 0x141004, [⟨31, 0, .rwl, 0⟩]⟩,
  ⟨"FSK_GRP_TX_LO", 0x141028, 0x100, 64, 0x0, 1, some 0x141004, [⟨31, 0, .rwl, 0⟩]⟩,
  ⟨"FSK_GRP_TX_HI", 0x14102C, 0x100, 64, 0x0, 1, some 0x141004, [⟨31, 0, .rwl, 0⟩]⟩,
  ⟨"FSK_GRP_TX_BYTES", 0x141030, 0x100, 64, 0x0, 1, some 0x141004, [⟨31, 0, .rwl, 0⟩]⟩,
  ⟨"FSK_GRP_DET", 0x141034, 0x100, 64, 0x0, 1, some 0x141004, [⟨31, 24, .rwl, 200⟩, ⟨23, 18, .rwl, 16⟩, ⟨17, 16, .rwl, 1⟩, ⟨15, 8, .rwl, 48⟩, ⟨7, 0, .rwl, 64⟩]⟩,
  ⟨"FSK_GRP_AGC", 0x141038, 0x100, 64, 0x0, 1, some 0x141004, [⟨31, 24, .rwl, 24⟩, ⟨23, 16, .rwl, 120⟩, ⟨15, 8, .rwl, 12⟩]⟩,
  ⟨"FSK_GRP_TA4", 0x14103C, 0x100, 64, 0x0, 1, some 0x141004, [⟨31, 16, .rwl, 60⟩, ⟨15, 0, .rwl, 20⟩]⟩,
  ⟨"FSK_GRP_TX_WIN", 0x141040, 0x100, 64, 0x0, 1, some 0x141004, [⟨31, 16, .rwl, 250⟩, ⟨15, 0, .rwl, 50⟩]⟩,
  ⟨"FSK_GRP_MASK_CHAN", 0x141044, 0x100, 64, 0x0, 1, some 0x141004, [⟨5, 0, .ro, 0⟩]⟩,
  ⟨"FSK_GRP_DETECT", 0x141048, 0x100, 64, 0x0, 1, some 0x141004, [⟨31, 0, .ro, 0⟩]⟩,
  ⟨"FSK_GRP_FRAMES_OK", 0x14104C, 0x100, 64, 0x0, 1, some 0x141004, [⟨31, 0, .ro, 0⟩]⟩,
  ⟨"FSK_GRP_FCS_FAIL", 0x141050, 0x100, 64, 0x0, 1, some 0x141004, [⟨31, 0, .ro, 0⟩]⟩,
  ⟨"FSK_GRP_FRAMES_TX", 0x141054, 0x100, 64, 0x0, 1, some 0x141004, [⟨31, 0, .ro, 0⟩]⟩,
  ⟨"FSK_GRP_MASK_COUNT", 0x141058, 0x100, 64, 0x0, 1, some 0x141004, [⟨31, 0, .ro, 0⟩]⟩]

/-- Registers of the FSK block, part 2 (12_fsk.md R306). -/
def fskRows2 : List RegRow := [
  ⟨"FSK_GRP_RING_DROP", 0x14105C, 0x100, 64, 0x0, 1, some 0x141004, [⟨31, 0, .ro, 0⟩]⟩,
  ⟨"FSK_GRP_TAP", 0x141060, 0x100, 64, 0x4, 17, some 0x141004, [⟨15, 0, .rwl, 0⟩]⟩,
  ⟨"FSK_GRP_MASK", 0x1410C0, 0x100, 64, 0x4, 16, some 0x141004, [⟨31, 31, .rwl, 0⟩, ⟨23, 16, .rwl, 0⟩, ⟨8, 0, .rwl, 0⟩]⟩]

/-- Every register of the FSK block. -/
def fskRows : List RegRow := fskRows1 ++ fskRows2

/-- Registers of the FIL block, part 1 (13_filigree.md R341). -/
def filRows1 : List RegRow := [
  ⟨"FIL_CTRL", 0x180000, 0x0, 1, 0x0, 1, some 0x180004, [⟨1, 1, .wo, 0⟩, ⟨0, 0, .wo, 0⟩]⟩,
  ⟨"FIL_STATUS", 0x180004, 0x0, 1, 0x0, 1, some 0x180004, [⟨31, 24, .ro, 0⟩, ⟨15, 15, .w1c, 0⟩, ⟨14, 14, .w1c, 0⟩, ⟨13, 13, .ro, 0⟩, ⟨12, 12, .ro, 0⟩, ⟨11, 11, .ro, 0⟩, ⟨10, 10, .w1c, 0⟩, ⟨2, 0, .ro, 1⟩]⟩,
  ⟨"FIL_NODE", 0x180008, 0x0, 1, 0x0, 1, some 0x180004, [⟨16, 0, .rwl, 0⟩]⟩,
  ⟨"FIL_INCARNATION", 0x18000C, 0x0, 1, 0x0, 1, some 0x180004, [⟨15, 0, .ro, 0⟩]⟩,
  ⟨"FIL_ROLE", 0x180010, 0x0, 1, 0x0, 1, some 0x180004, [⟨2, 2, .rwl, 0⟩, ⟨1, 1, .rwl, 0⟩, ⟨0, 0, .rwl, 0⟩]⟩,
  ⟨"FIL_BANGLE", 0x180020, 0x4, 8, 0x0, 1, some 0x180004, [⟨31, 31, .rwl, 0⟩, ⟨16, 0, .rwl, 0⟩]⟩,
  ⟨"FIL_RTX_BASE_LO", 0x180040, 0x0, 1, 0x0, 1, some 0x180004, [⟨31, 0, .rwl, 0⟩]⟩,
  ⟨"FIL_RTX_BASE_HI", 0x180044, 0x0, 1, 0x0, 1, some 0x180004, [⟨31, 0, .rwl, 0⟩]⟩,
  ⟨"FIL_RTX_BYTES", 0x180048, 0x0, 1, 0x0, 1, some 0x180004, [⟨9, 0, .rwl, 128⟩]⟩,
  ⟨"FIL_TABLE_BASE_LO", 0x180050, 0x0, 1, 0x0, 1, some 0x180004, [⟨31, 0, .rwl, 0⟩]⟩,
  ⟨"FIL_TABLE_BASE_HI", 0x180054, 0x0, 1, 0x0, 1, some 0x180004, [⟨31, 0, .rwl, 0⟩]⟩,
  ⟨"FIL_RESEND_COUNT", 0x180100, 0x0, 1, 0x0, 1, some 0x180004, [⟨31, 0, .ro, 0⟩]⟩,
  ⟨"FIL_DUP_DISCARD", 0x180104, 0x0, 1, 0x0, 1, some 0x180004, [⟨31, 0, .ro, 0⟩]⟩,
  ⟨"FIL_ATOM_RETRY", 0x180108, 0x0, 1, 0x0, 1, some 0x180004, [⟨31, 0, .ro, 0⟩]⟩,
  ⟨"FIL_ATOM_UNCERTAIN", 0x18010C, 0x0, 1, 0x0, 1, some 0x180004, [⟨31, 0, .ro, 0⟩]⟩,
  ⟨"FIL_TARGET_LOST", 0x180110, 0x0, 1, 0x0, 1, some 0x180004, [⟨31, 0, .ro, 0⟩]⟩,
  ⟨"FIL_FENCED_NACK", 0x180114, 0x0, 1, 0x0, 1, some 0x180004, [⟨31, 0, .ro, 0⟩]⟩,
  ⟨"FIL_DENIED_NACK", 0x180118, 0x0, 1, 0x0, 1, some 0x180004, [⟨31, 0, .ro, 0⟩]⟩,
  ⟨"FIL_COMB_RSP", 0x18011C, 0x0, 1, 0x0, 1, some 0x180004, [⟨31, 0, .ro, 0⟩]⟩,
  ⟨"FIL_RTX_WAIT", 0x180120, 0x0, 1, 0x0, 1, some 0x180004, [⟨31, 0, .ro, 0⟩]⟩,
  ⟨"FIL_DROP_COUNT", 0x180124, 0x0, 1, 0x0, 1, some 0x180004, [⟨31, 0, .ro, 0⟩]⟩,
  ⟨"FIL_DIR_ENTRIES", 0x180128, 0x0, 1, 0x0, 1, some 0x180004, [⟨20, 0, .ro, 0⟩]⟩,
  ⟨"FIL_BCACHE_HIT", 0x18012C, 0x0, 1, 0x0, 1, some 0x180004, [⟨31, 0, .ro, 0⟩]⟩,
  ⟨"FIL_BCACHE_MISS", 0x180130, 0x0, 1, 0x0, 1, some 0x180004, [⟨31, 0, .ro, 0⟩]⟩]

/-- Registers of the FIL block, part 2 (13_filigree.md R341). -/
def filRows2 : List RegRow := [
  ⟨"FIL_EXP_BASE_LO", 0x180400, 0x10, 64, 0x0, 1, some 0x180004, [⟨31, 0, .rw, 0⟩]⟩,
  ⟨"FIL_EXP_BASE_HI", 0x180404, 0x10, 64, 0x0, 1, some 0x180004, [⟨14, 0, .rw, 0⟩]⟩,
  ⟨"FIL_EXP_SIZE", 0x180408, 0x10, 64, 0x0, 1, some 0x180004, [⟨26, 0, .rw, 0⟩]⟩,
  ⟨"FIL_EXP_ATTR", 0x18040C, 0x10, 64, 0x0, 1, some 0x180004, [⟨31, 31, .rw, 0⟩, ⟨2, 2, .rw, 0⟩, ⟨1, 0, .rw, 0⟩]⟩,
  ⟨"FIL_CLASP_PRI", 0x181000, 0x8, 64, 0x0, 1, some 0x180004, [⟨31, 31, .rw, 0⟩, ⟨16, 0, .rw, 0⟩]⟩,
  ⟨"FIL_CLASP_ALT", 0x181004, 0x8, 64, 0x0, 1, some 0x180004, [⟨31, 31, .rw, 0⟩, ⟨16, 0, .rw, 0⟩]⟩,
  ⟨"FIL_PORT_CTRL", 0x1C0000, 0x100, 24, 0x0, 1, some 0x1C0004, [⟨1, 1, .wo, 0⟩, ⟨0, 0, .wo, 0⟩]⟩,
  ⟨"FIL_PORT_STATUS", 0x1C0004, 0x100, 24, 0x0, 1, some 0x1C0004, [⟨31, 24, .ro, 0⟩, ⟨23, 20, .ro, 0⟩, ⟨19, 18, .ro, 0⟩, ⟨15, 15, .w1c, 0⟩, ⟨14, 14, .ro, 0⟩, ⟨2, 0, .ro, 1⟩]⟩,
  ⟨"FIL_PORT_CFG", 0x1C0008, 0x100, 24, 0x0, 1, some 0x1C0004, [⟨31, 30, .rwl, 0⟩, ⟨16, 0, .rwl, 0⟩]⟩,
  ⟨"FIL_PORT_CREDIT", 0x1C000C, 0x100, 24, 0x0, 1, some 0x1C0004, [⟨31, 24, .rwl, 64⟩, ⟨23, 16, .rwl, 64⟩, ⟨15, 8, .rwl, 64⟩, ⟨7, 0, .rwl, 64⟩]⟩,
  ⟨"FIL_PORT_LOOP", 0x1C0010, 0x100, 24, 0x0, 1, some 0x1C0004, [⟨15, 0, .ro, 0⟩]⟩,
  ⟨"FIL_PORT_PEER", 0x1C0014, 0x100, 24, 0x0, 1, some 0x1C0004, [⟨31, 30, .ro, 0⟩, ⟨16, 0, .ro, 0⟩]⟩,
  ⟨"FIL_PORT_RETRAINS", 0x1C0018, 0x100, 24, 0x0, 1, some 0x1C0004, [⟨31, 0, .ro, 0⟩]⟩,
  ⟨"FIL_PORT_CRC_RETRY", 0x1C001C, 0x100, 24, 0x0, 1, some 0x1C0004, [⟨31, 0, .ro, 0⟩]⟩,
  ⟨"FIL_PORT_TX_BYTES_LO", 0x1C0020, 0x100, 24, 0x0, 1, some 0x1C0004, [⟨31, 0, .ro, 0⟩]⟩,
  ⟨"FIL_PORT_TX_BYTES_HI", 0x1C0024, 0x100, 24, 0x0, 1, some 0x1C0004, [⟨31, 0, .ro, 0⟩]⟩,
  ⟨"FIL_PORT_RX_BYTES_LO", 0x1C0028, 0x100, 24, 0x0, 1, some 0x1C0004, [⟨31, 0, .ro, 0⟩]⟩,
  ⟨"FIL_PORT_RX_BYTES_HI", 0x1C002C, 0x100, 24, 0x0, 1, some 0x1C0004, [⟨31, 0, .ro, 0⟩]⟩,
  ⟨"FIL_PORT_ARB_REQ", 0x1C0080, 0x100, 24, 0x4, 8, none, [⟨31, 30, .rw, 0⟩, ⟨29, 28, .rw, 0⟩, ⟨27, 17, .rw, 0⟩, ⟨16, 9, .rw, 0⟩, ⟨8, 0, .rw, 0⟩]⟩]

/-- Every register of the FIL block. -/
def filRows : List RegRow := filRows1 ++ filRows2

/-- Registers of the MEMCH block, part 1 (08_memory.md R223). -/
def memchRows1 : List RegRow := [
  ⟨"MEMCH_CTRL", 0x200000, 0x10000, 16, 0x0, 1, none, [⟨1, 1, .wo, 0⟩, ⟨0, 0, .wo, 0⟩]⟩,
  ⟨"MEMCH_STATUS", 0x200004, 0x10000, 16, 0x0, 1, none, [⟨31, 24, .ro, 0⟩, ⟨15, 15, .w1c, 0⟩, ⟨14, 14, .w1c, 0⟩, ⟨13, 13, .ro, 0⟩, ⟨2, 0, .ro, 1⟩]⟩,
  ⟨"MEMCH_CE_COUNT", 0x200008, 0x10000, 16, 0x0, 1, none, [⟨31, 0, .ro, 0⟩]⟩,
  ⟨"MEMCH_UE_COUNT", 0x20000C, 0x10000, 16, 0x0, 1, none, [⟨31, 0, .ro, 0⟩]⟩,
  ⟨"MEMCH_ERR_ADDR_LO", 0x200010, 0x10000, 16, 0x0, 1, none, [⟨31, 0, .ro, 0⟩]⟩,
  ⟨"MEMCH_ERR_ADDR_HI", 0x200014, 0x10000, 16, 0x0, 1, none, [⟨14, 0, .ro, 0⟩]⟩,
  ⟨"MEMCH_SCRUB_PERIOD", 0x200018, 0x10000, 16, 0x0, 1, none, [⟨7, 0, .rw, 8⟩]⟩,
  ⟨"MEMCH_SCRUB_PROGRESS", 0x20001C, 0x10000, 16, 0x0, 1, none, [⟨9, 0, .ro, 0⟩]⟩,
  ⟨"MEMCH_ARB_MASKED", 0x200020, 0x10000, 16, 0x0, 1, none, [⟨31, 0, .ro, 0⟩]⟩,
  ⟨"MEMCH_ARB_PROMOTED", 0x200024, 0x10000, 16, 0x0, 1, none, [⟨31, 0, .ro, 0⟩]⟩,
  ⟨"MEMCH_ARB_DL_DEFER", 0x200028, 0x10000, 16, 0x0, 1, none, [⟨31, 0, .ro, 0⟩]⟩,
  ⟨"MEMCH_ARB_LOCK_OVERRUN", 0x20002C, 0x10000, 16, 0x0, 1, none, [⟨31, 0, .ro, 0⟩]⟩,
  ⟨"MEM_STATUS", 0x20C000, 0x0, 1, 0x0, 1, none, [⟨31, 24, .ro, 0⟩, ⟨23, 20, .ro, 0⟩, ⟨19, 19, .ro, 0⟩, ⟨18, 18, .w1c, 0⟩, ⟨15, 0, .ro, 65535⟩]⟩,
  ⟨"MEM_TOP", 0x20C004, 0x0, 1, 0x0, 1, none, [⟨9, 0, .ro, 768⟩]⟩,
  ⟨"MEM_ALLOC_TOP", 0x20C008, 0x0, 1, 0x0, 1, none, [⟨19, 0, .rw, 786432⟩]⟩,
  ⟨"MEM_MOVE_RATE", 0x20C00C, 0x0, 1, 0x0, 1, none, [⟨8, 0, .rw, 64⟩]⟩,
  ⟨"MEM_MOVE_DONE", 0x20C010, 0x0, 1, 0x0, 1, none, [⟨27, 0, .ro, 0⟩]⟩,
  ⟨"MEM_MOVE_TOTAL", 0x20C014, 0x0, 1, 0x0, 1, none, [⟨27, 0, .ro, 0⟩]⟩,
  ⟨"MEM_CLUSTER_QUOTA", 0x20C018, 0x0, 1, 0x0, 1, none, [⟨7, 0, .ro, 20⟩]⟩,
  ⟨"MEM_HIGH_SUM", 0x20C01C, 0x0, 1, 0x0, 1, none, [⟨9, 0, .ro, 392⟩]⟩,
  ⟨"MEM_PARITY_OFFSET", 0x20C020, 0x0, 1, 0x0, 1, none, [⟨15, 0, .ro, 0⟩]⟩,
  ⟨"MEM_ARB_REQ", 0x20C100, 0x4, 32, 0x0, 1, none, [⟨31, 30, .rw, 0⟩, ⟨29, 28, .rw, 0⟩, ⟨27, 20, .rw, 0⟩, ⟨19, 12, .rw, 0⟩, ⟨11, 11, .ro, 0⟩, ⟨10, 0, .rw, 0⟩]⟩,
  ⟨"MEM_STRIPE", 0x20F000, 0x4, 1024, 0x0, 1, none, [⟨31, 0, .ro, 0⟩]⟩]

/-- Every register of the MEMCH block. -/
def memchRows : List RegRow := memchRows1

/-- Registers of the CLUSTER block, part 1 (06_core_streams.md R173). -/
def clusterRows1 : List RegRow := [
  ⟨"CLUSTER_STATUS", 0x400000, 0x10000, 16, 0x0, 1, none, [⟨31, 24, .ro, 0⟩, ⟨15, 15, .w1c, 0⟩, ⟨14, 14, .w1c, 0⟩, ⟨13, 13, .ro, 0⟩, ⟨7, 0, .ro, 0⟩]⟩,
  ⟨"CLUSTER_CE_COUNT", 0x400004, 0x10000, 16, 0x0, 1, none, [⟨31, 0, .ro, 0⟩]⟩,
  ⟨"CLUSTER_UE_COUNT", 0x400008, 0x10000, 16, 0x0, 1, none, [⟨31, 0, .ro, 0⟩]⟩,
  ⟨"CLUSTER_ERR_LOC", 0x40000C, 0x10000, 16, 0x0, 1, none, [⟨31, 28, .ro, 0⟩, ⟨26, 24, .ro, 0⟩, ⟨18, 0, .ro, 0⟩]⟩,
  ⟨"CLUSTER_POISON_COUNT", 0x400010, 0x10000, 16, 0x0, 1, none, [⟨31, 0, .ro, 0⟩]⟩,
  ⟨"CLUSTER_TOK", 0x400400, 0x10000, 16, 0x4, 256, none, [⟨15, 0, .ro, 0⟩]⟩]

/-- Every register of the CLUSTER block. -/
def clusterRows : List RegRow := clusterRows1

/-- Registers of the CORE block, part 1 (04_matrix_array.md R109; 05_arithmetic.md R132; 06_core_streams.md R172). -/
def coreRows1 : List RegRow := [
  ⟨"CORE_ARR_CTRL", 0x103E000, 0x40000, 128, 0x0, 1, some 0x103E004, [⟨2, 2, .wo, 0⟩, ⟨1, 1, .wo, 0⟩, ⟨0, 0, .wo, 0⟩]⟩,
  ⟨"CORE_ARR_STATUS", 0x103E004, 0x40000, 128, 0x0, 1, some 0x103E004, [⟨31, 24, .ro, 0⟩, ⟨18, 18, .ro, 0⟩, ⟨17, 17, .ro, 0⟩, ⟨16, 16, .w1c, 0⟩, ⟨15, 15, .w1c, 0⟩, ⟨14, 14, .w1c, 0⟩, ⟨13, 13, .ro, 0⟩, ⟨12, 11, .ro, 0⟩, ⟨2, 0, .ro, 1⟩]⟩,
  ⟨"CORE_ARR_REPAIR", 0x103E008, 0x40000, 128, 0x0, 1, some 0x103E004, [⟨5, 5, .rwl, 0⟩, ⟨4, 0, .rwl, 0⟩]⟩,
  ⟨"CORE_ARR_DRAIN_LAT", 0x103E00C, 0x40000, 128, 0x0, 1, some 0x103E004, [⟨5, 0, .ro, 39⟩]⟩,
  ⟨"CORE_ARR_ROW_FAIL", 0x103E010, 0x40000, 128, 0x0, 1, some 0x103E004, [⟨31, 0, .ro, 0⟩]⟩,
  ⟨"CORE_ARR_SIG_LO", 0x103E014, 0x40000, 128, 0x0, 1, some 0x103E004, [⟨31, 0, .ro, 0⟩]⟩,
  ⟨"CORE_ARR_SIG_HI", 0x103E018, 0x40000, 128, 0x0, 1, some 0x103E004, [⟨31, 0, .ro, 0⟩]⟩,
  ⟨"CORE_ARR_LANTERN", 0x103E01C, 0x40000, 128, 0x0, 1, some 0x103E004, [⟨8, 8, .ro, 0⟩, ⟨3, 0, .ro, 0⟩]⟩,
  ⟨"CORE_ARR_SEED", 0x103E020, 0x40000, 128, 0x0, 1, some 0x103E004, [⟨31, 0, .rwl, 1⟩]⟩,
  ⟨"CORE_ARR_PASS_COUNT", 0x103E024, 0x40000, 128, 0x0, 1, some 0x103E004, [⟨31, 0, .ro, 0⟩]⟩,
  ⟨"CORE_ARR_FILL_COUNT", 0x103E028, 0x40000, 128, 0x0, 1, some 0x103E004, [⟨31, 0, .ro, 0⟩]⟩,
  ⟨"CORE_ARITH_FLAGS", 0x103E100, 0x40000, 128, 0x4, 4, none, [⟨6, 6, .w1c, 0⟩, ⟨5, 5, .w1c, 0⟩, ⟨4, 4, .w1c, 0⟩, ⟨3, 3, .w1c, 0⟩, ⟨2, 2, .w1c, 0⟩, ⟨1, 1, .w1c, 0⟩, ⟨0, 0, .w1c, 0⟩]⟩,
  ⟨"CORE_TRACE_BUF", 0x103A000, 0x40000, 128, 0x4, 4096, none, [⟨31, 0, .ro, 0⟩]⟩,
  ⟨"CORE_SLOT_STATUS", 0x103E200, 0x40000, 128, 0x20, 4, none, [⟨31, 31, .ro, 0⟩, ⟨30, 30, .ro, 0⟩, ⟨29, 28, .ro, 0⟩, ⟨27, 27, .ro, 0⟩, ⟨26, 26, .ro, 0⟩, ⟨11, 0, .ro, 0⟩]⟩,
  ⟨"CORE_DYNQ_DEPTH", 0x103E204, 0x40000, 128, 0x20, 4, none, [⟨29, 24, .ro, 0⟩, ⟨21, 16, .ro, 0⟩, ⟨13, 8, .ro, 0⟩, ⟨5, 0, .ro, 0⟩]⟩,
  ⟨"CORE_DATAQ_FILL", 0x103E208, 0x40000, 128, 0x20, 4, none, [⟨28, 24, .ro, 0⟩, ⟨20, 16, .ro, 0⟩, ⟨12, 8, .ro, 0⟩, ⟨4, 0, .ro, 0⟩]⟩,
  ⟨"CORE_HELD", 0x103E20C, 0x40000, 128, 0x20, 4, none, [⟨7, 0, .ro, 0⟩]⟩,
  ⟨"CORE_HELD_TIME", 0x103E210, 0x40000, 128, 0x20, 4, none, [⟨31, 0, .ro, 0⟩]⟩,
  ⟨"CORE_PC0", 0x103E214, 0x40000, 128, 0x20, 4, none, [⟨11, 0, .ro, 0⟩]⟩,
  ⟨"CORE_PC1", 0x103E218, 0x40000, 128, 0x20, 4, none, [⟨11, 0, .ro, 0⟩]⟩,
  ⟨"CORE_PC2", 0x103E21C, 0x40000, 128, 0x20, 4, none, [⟨11, 0, .ro, 0⟩]⟩,
  ⟨"CORE_PC3", 0x103E280, 0x40000, 128, 0x4, 4, none, [⟨11, 0, .ro, 0⟩]⟩,
  ⟨"CORE_TOK", 0x103E300, 0x40000, 128, 0x4, 64, none, [⟨15, 0, .ro, 0⟩]⟩,
  ⟨"CORE_DBG_CTRL", 0x103E400, 0x40000, 128, 0x0, 1, none, [⟨11, 8, .rw, 0⟩, ⟨7, 7, .rw, 0⟩, ⟨6, 6, .rw, 0⟩, ⟨5, 4, .rw, 0⟩, ⟨3, 3, .wo, 0⟩, ⟨2, 2, .wo, 0⟩, ⟨1, 1, .wo, 0⟩]⟩]

/-- Registers of the CORE block, part 2 (06_core_streams.md R172; 07_hallmark.md R199; 16_modes.md R390). -/
def coreRows2 : List RegRow := [
  ⟨"CORE_DBG_TAG", 0x103E404, 0x40000, 128, 0x0, 1, none, [⟨15, 0, .rw, 0⟩]⟩,
  ⟨"CORE_DBG_STATUS", 0x103E408, 0x40000, 128, 0x0, 1, none, [⟨31, 16, .ro, 0⟩, ⟨5, 4, .ro, 0⟩, ⟨3, 2, .ro, 0⟩, ⟨1, 1, .w1c, 0⟩, ⟨0, 0, .ro, 0⟩]⟩,
  ⟨"CORE_DBG_CNT_LO", 0x103E410, 0x40000, 128, 0x8, 4, none, [⟨31, 0, .rw, 0⟩]⟩,
  ⟨"CORE_DBG_CNT_HI", 0x103E414, 0x40000, 128, 0x8, 4, none, [⟨15, 0, .rw, 0⟩]⟩,
  ⟨"CORE_CMD_CNT_LO", 0x103E440, 0x40000, 128, 0x8, 4, none, [⟨31, 0, .ro, 0⟩]⟩,
  ⟨"CORE_CMD_CNT_HI", 0x103E444, 0x40000, 128, 0x8, 4, none, [⟨15, 0, .ro, 0⟩]⟩,
  ⟨"CORE_TRACE_CTRL", 0x103E480, 0x40000, 128, 0x0, 1, none, [⟨15, 10, .rw, 0⟩, ⟨9, 6, .rw, 0⟩, ⟨1, 1, .rw, 0⟩, ⟨0, 0, .rw, 0⟩]⟩,
  ⟨"CORE_TRACE_WPTR", 0x103E484, 0x40000, 128, 0x0, 1, none, [⟨31, 31, .ro, 0⟩, ⟨9, 0, .ro, 0⟩]⟩,
  ⟨"CORE_IMG_STATUS", 0x103E600, 0x40000, 128, 0x10, 4, none, [⟨31, 31, .ro, 0⟩, ⟨30, 30, .ro, 0⟩, ⟨29, 29, .ro, 0⟩, ⟨28, 28, .ro, 0⟩, ⟨27, 27, .ro, 0⟩, ⟨26, 26, .w1c, 0⟩, ⟨15, 0, .ro, 0⟩]⟩,
  ⟨"CORE_IMG_REGION", 0x103E604, 0x40000, 128, 0x10, 4, none, [⟨24, 16, .ro, 0⟩, ⟨9, 0, .ro, 0⟩]⟩,
  ⟨"CORE_IMG_KEY", 0x103E608, 0x40000, 128, 0x10, 4, none, [⟨31, 0, .ro, 0⟩]⟩,
  ⟨"CORE_IMG_ID", 0x103E60C, 0x40000, 128, 0x10, 4, none, [⟨31, 0, .ro, 0⟩]⟩,
  ⟨"CORE_MODE_CONFLICT", 0x103E700, 0x40000, 128, 0x0, 1, none, [⟨31, 16, .ro, 0⟩, ⟨15, 14, .ro, 0⟩, ⟨11, 0, .ro, 0⟩]⟩]

/-- Every register of the CORE block. -/
def coreRows : List RegRow := coreRows1 ++ coreRows2

/-- Registers of the BEAD block, part 1 (10_serving.md R263). -/
def beadRows1 : List RegRow := [
  ⟨"BEAD_STATUS", 0x3000000, 0x0, 1, 0x0, 1, none, [⟨31, 24, .ro, 0⟩, ⟨15, 15, .w1c, 0⟩, ⟨14, 14, .w1c, 0⟩]⟩,
  ⟨"BEAD_FREE", 0x3000004, 0x0, 1, 0x0, 1, none, [⟨20, 0, .ro, 1048576⟩]⟩,
  ⟨"BEAD_RADIO_RESERVE", 0x3000008, 0x0, 1, 0x0, 1, none, [⟨20, 0, .rw, 65536⟩]⟩,
  ⟨"BEAD_CACHE_HIT", 0x300000C, 0x0, 1, 0x0, 1, none, [⟨31, 0, .ro, 0⟩]⟩,
  ⟨"BEAD_CACHE_MISS", 0x3000010, 0x0, 1, 0x0, 1, none, [⟨31, 0, .ro, 0⟩]⟩,
  ⟨"BEAD_PARITY_OFFSET", 0x3000014, 0x0, 1, 0x0, 1, none, [⟨15, 0, .ro, 0⟩]⟩,
  ⟨"BEAD_SEL", 0x3000020, 0x0, 1, 0x0, 1, none, [⟨19, 0, .rw, 0⟩]⟩,
  ⟨"BEAD_REC", 0x3000040, 0x4, 16, 0x0, 1, none, [⟨31, 0, .ro, 0⟩]⟩,
  ⟨"BEAD_LIMIT", 0x3000100, 0x4, 256, 0x0, 1, none, [⟨20, 0, .rw, 0⟩]⟩,
  ⟨"BEAD_COUNT", 0x3000500, 0x4, 256, 0x0, 1, none, [⟨20, 0, .ro, 0⟩]⟩,
  ⟨"BEAD_SJ_CTRL", 0x3001000, 0x80, 64, 0x0, 1, some 0x3001004, [⟨1, 1, .wo, 0⟩, ⟨0, 0, .wo, 0⟩]⟩,
  ⟨"BEAD_SJ_STATUS", 0x3001004, 0x80, 64, 0x0, 1, some 0x3001004, [⟨31, 24, .ro, 0⟩, ⟨15, 15, .w1c, 0⟩, ⟨14, 14, .ro, 0⟩, ⟨13, 13, .ro, 0⟩, ⟨2, 0, .ro, 1⟩]⟩,
  ⟨"BEAD_SJ_CFG", 0x3001008, 0x80, 64, 0x0, 1, some 0x3001004, [⟨27, 24, .rwl, 0⟩, ⟨23, 16, .rwl, 0⟩, ⟨9, 0, .rwl, 0⟩]⟩,
  ⟨"BEAD_SJ_IMAGE", 0x300100C, 0x80, 64, 0x0, 1, some 0x3001004, [⟨31, 0, .rwl, 0⟩]⟩,
  ⟨"BEAD_SJ_POOL_OFF", 0x3001010, 0x80, 64, 0x0, 1, some 0x3001004, [⟨23, 0, .rwl, 0⟩]⟩,
  ⟨"BEAD_SJ_POOL_PAGES", 0x3001014, 0x80, 64, 0x0, 1, some 0x3001004, [⟨23, 0, .rwl, 0⟩]⟩,
  ⟨"BEAD_SJ_LINK_OFF", 0x3001018, 0x80, 64, 0x0, 1, some 0x3001004, [⟨31, 0, .rwl, 0⟩]⟩,
  ⟨"BEAD_SJ_REQ_OFF", 0x300101C, 0x80, 64, 0x0, 1, some 0x3001004, [⟨31, 0, .rwl, 0⟩]⟩,
  ⟨"BEAD_SJ_EVT_OFF", 0x3001020, 0x80, 64, 0x0, 1, some 0x3001004, [⟨31, 0, .rwl, 0⟩]⟩,
  ⟨"BEAD_SJ_BATCH_OFF", 0x3001024, 0x80, 64, 0x0, 1, some 0x3001004, [⟨31, 0, .rwl, 0⟩]⟩,
  ⟨"BEAD_SJ_RING_SIZE", 0x3001028, 0x80, 64, 0x0, 1, some 0x3001004, [⟨11, 8, .rwl, 4⟩, ⟨3, 0, .rwl, 4⟩]⟩,
  ⟨"BEAD_SJ_GEOM", 0x300102C, 0x80, 64, 0x0, 1, some 0x3001004, [⟨31, 24, .rwl, 0⟩, ⟨15, 0, .rwl, 0⟩]⟩,
  ⟨"BEAD_SJ_CHUNK", 0x3001030, 0x80, 64, 0x0, 1, some 0x3001004, [⟨15, 0, .rwl, 256⟩]⟩,
  ⟨"BEAD_SJ_BLOCKS_MAX", 0x3001034, 0x80, 64, 0x0, 1, some 0x3001004, [⟨15, 0, .rwl, 64⟩]⟩]

/-- Registers of the BEAD block, part 2 (10_serving.md R263). -/
def beadRows2 : List RegRow := [
  ⟨"BEAD_SJ_POLL", 0x3001038, 0x80, 64, 0x0, 1, some 0x3001004, [⟨31, 0, .rw, 50000⟩]⟩,
  ⟨"BEAD_SJ_STEP_LO", 0x3001040, 0x80, 64, 0x0, 1, some 0x3001004, [⟨31, 0, .ro, 0⟩]⟩,
  ⟨"BEAD_SJ_STEP_HI", 0x3001044, 0x80, 64, 0x0, 1, some 0x3001004, [⟨31, 0, .ro, 0⟩]⟩,
  ⟨"BEAD_SJ_FREE_PAGES", 0x3001048, 0x80, 64, 0x0, 1, some 0x3001004, [⟨23, 0, .ro, 0⟩]⟩,
  ⟨"BEAD_SJ_PENDING_PAGES", 0x300104C, 0x80, 64, 0x0, 1, some 0x3001004, [⟨23, 0, .ro, 0⟩]⟩,
  ⟨"BEAD_SJ_RUNNING", 0x3001050, 0x80, 64, 0x0, 1, some 0x3001004, [⟨10, 0, .ro, 0⟩]⟩,
  ⟨"BEAD_SJ_WAITING", 0x3001054, 0x80, 64, 0x0, 1, some 0x3001004, [⟨20, 0, .ro, 0⟩]⟩,
  ⟨"BEAD_SJ_EVICT_COUNT", 0x3001058, 0x80, 64, 0x0, 1, some 0x3001004, [⟨31, 0, .ro, 0⟩]⟩,
  ⟨"BEAD_SJ_DEFER_COUNT", 0x300105C, 0x80, 64, 0x0, 1, some 0x3001004, [⟨31, 0, .ro, 0⟩]⟩,
  ⟨"BEAD_SJ_POLICED_COUNT", 0x3001060, 0x80, 64, 0x0, 1, some 0x3001004, [⟨31, 0, .ro, 0⟩]⟩]

/-- Every register of the BEAD block. -/
def beadRows : List RegRow := beadRows1 ++ beadRows2

/-- Registers of the JRNL block, part 1 (14_journal_recovery.md R365). -/
def jrnlRows1 : List RegRow := [
  ⟨"JRNL_CTRL", 0x3100000, 0x0, 1, 0x0, 1, none, [⟨1, 1, .wo, 0⟩, ⟨0, 0, .wo, 0⟩]⟩,
  ⟨"JRNL_STATUS", 0x3100004, 0x0, 1, 0x0, 1, none, [⟨31, 24, .ro, 0⟩, ⟨15, 15, .w1c, 0⟩, ⟨14, 14, .w1c, 0⟩, ⟨13, 13, .ro, 0⟩, ⟨12, 12, .ro, 0⟩, ⟨2, 0, .ro, 1⟩]⟩,
  ⟨"JRNL_WPTR", 0x3100008, 0x0, 1, 0x0, 1, none, [⟨15, 0, .ro, 0⟩]⟩,
  ⟨"JRNL_BLOCKS_LO", 0x310000C, 0x0, 1, 0x0, 1, none, [⟨31, 0, .ro, 0⟩]⟩,
  ⟨"JRNL_BLOCKS_HI", 0x3100010, 0x0, 1, 0x0, 1, none, [⟨31, 0, .ro, 0⟩]⟩,
  ⟨"JRNL_FLUSH_PERIOD", 0x3100014, 0x0, 1, 0x0, 1, none, [⟨31, 0, .rw, 10000⟩]⟩,
  ⟨"JRNL_REPLAYS", 0x3100020, 0x0, 1, 0x0, 1, none, [⟨31, 0, .ro, 0⟩]⟩,
  ⟨"JRNL_REPLAY_FAILED", 0x3100024, 0x0, 1, 0x0, 1, none, [⟨31, 0, .ro, 0⟩]⟩,
  ⟨"JRNL_REPLAY_PENDING", 0x3100028, 0x0, 1, 0x0, 1, none, [⟨10, 0, .ro, 0⟩]⟩,
  ⟨"JRNL_SUSPECT", 0x3100030, 0x4, 4, 0x0, 1, none, [⟨31, 0, .rw, 0⟩]⟩,
  ⟨"JRNL_MGR_STATUS", 0x3100040, 0x0, 1, 0x0, 1, none, [⟨3, 3, .ro, 0⟩, ⟨1, 0, .ro, 0⟩]⟩,
  ⟨"JRNL_MGR_EPOCH_LO", 0x3100044, 0x0, 1, 0x0, 1, none, [⟨31, 0, .ro, 0⟩]⟩,
  ⟨"JRNL_MGR_EPOCH_HI", 0x3100048, 0x0, 1, 0x0, 1, none, [⟨31, 0, .ro, 0⟩]⟩,
  ⟨"JRNL_JOB_ID", 0x3101000, 0x10, 256, 0x0, 1, none, [⟨31, 0, .rw, 0⟩]⟩,
  ⟨"JRNL_JOB_BIND", 0x3101004, 0x10, 256, 0x0, 1, none, [⟨31, 31, .rw, 0⟩, ⟨30, 30, .rw, 0⟩, ⟨29, 29, .ro, 0⟩, ⟨28, 28, .rw, 0⟩, ⟨11, 0, .rw, 0⟩]⟩,
  ⟨"JRNL_JOB_MEMB_LO", 0x3101008, 0x10, 256, 0x0, 1, none, [⟨31, 0, .rw, 0⟩]⟩,
  ⟨"JRNL_JOB_MEMB_HI", 0x310100C, 0x10, 256, 0x0, 1, none, [⟨31, 0, .rw, 0⟩]⟩]

/-- Every register of the JRNL block. -/
def jrnlRows : List RegRow := jrnlRows1

/-- The rows of the block an offset falls in (18_registers_mailbox.md R416). -/
def rowsAt (o : Nat) : List RegRow :=
  if o < 0x10000 then glbRows
  else if o < 0x20000 then mbxRows
  else if o < 0x30000 then almRows
  else if o < 0x40000 then calRows
  else if o < 0x50000 then pwrRows
  else if o < 0x60000 then mgnRows
  else if o < 0x80000 then hostRows
  else if o < 0x100000 then fhRows
  else if o < 0x140000 then codecRows
  else if o < 0x180000 then fskRows
  else if o < 0x200000 then filRows
  else if o < 0x400000 then memchRows
  else if o < 0x1000000 then clusterRows
  else if o < 0x3000000 then coreRows
  else if o < 0x3100000 then beadRows
  else jrnlRows

/-- The two indices of an offset within a row's instances, if it is one of them. -/
def RegRow.index (r : RegRow) (o : Nat) : Option (Nat × Nat) :=
  if o < r.off then none
  else
    let d := o - r.off
    let i := if r.s1 = 0 then 0 else d / r.s1
    let e := d - i * r.s1
    let k := if r.s2 = 0 then 0 else e / r.s2
    if e = k * r.s2 ∧ i < r.c1 ∧ k < r.c2 then some (i, k) else none

/-- The row that holds an offset, with the two indices. -/
def findRow : List RegRow → Nat → Option (RegRow × Nat × Nat)
  | [], _ => none
  | r :: t, o =>
    match r.index o with
    | some (i, k) => some (r, i, k)
    | none => findRow t o

/-- The register at a bus offset, with its two indices; none where the map has no register (reserved). -/
def regAt (o : Nat) : Option (RegRow × Nat × Nat) := findRow (rowsAt o) o

/-- The bits a row's reset values set. -/
def rowResetBits : List FieldRow → Nat
  | [] => 0
  | f :: t => f.rst % 2 ^ (f.hi - f.lo + 1) * 2 ^ f.lo + rowResetBits t

end Sys2Proof.Machine
end

