-- ==== Sys2Proof/Machine/Reset.lean ====
section
/-! DEFINITION. The reset value of every register word. -/

namespace Sys2Proof.Machine

/-- A requester entry of a memory arbiter, packed as `MEM_ARB_REQ_r` (08_memory.md R223). -/
def packMemArb (rank ovr quota burst lock urg : Nat) : Nat :=
  rank * 2 ^ 30 + ovr * 2 ^ 28 + quota * 2 ^ 20 + (burst - 1) * 2 ^ 12 + lock * 2 ^ 11 + urg

/-- The reset entry of memory requester r (08_memory.md R221; entries 29 to 31 are unused and hold 0). -/
def memArbReset (r : Nat) : Nat :=
  if r < 16 then packMemArb 2 2 20 16 0 200
  else match r with
    | 16 => packMemArb 2 2 24 8 0 20
    | 17 => packMemArb 2 2 16 8 0 10
    | 18 => packMemArb 2 2 24 16 0 40
    | 19 => packMemArb 2 2 8 4 1 20
    | 20 => packMemArb 1 0 0 8 0 80
    | 21 => packMemArb 1 0 0 16 1 100
    | 22 => packMemArb 1 0 0 16 0 200
    | 23 => packMemArb 1 0 0 4 1 100
    | 24 => packMemArb 0 0 0 16 0 500
    | 25 => packMemArb 0 0 0 8 1 1000
    | 26 => packMemArb 0 0 0 4 1 39
    | 27 => packMemArb 0 0 0 8 1 2000
    | 28 => packMemArb 0 0 0 16 0 200
    | _ => 0

/-- A requester entry of a fabric port, packed as `FIL_PORT_ARB_REQ_r` (13_filigree.md R341). -/
def packPortArb (rank ovr quota burst urg : Nat) : Nat :=
  rank * 2 ^ 30 + ovr * 2 ^ 28 + quota * 2 ^ 17 + (burst - 1) * 2 ^ 9 + urg

/-- The reset entry of fabric-port requester r (13_filigree.md R340). -/
def portArbReset : Nat → Nat
  | 0 => packPortArb 2 2 600 16 2
  | 1 => packPortArb 2 2 160 4 2
  | 2 => packPortArb 2 2 200 16 20
  | 3 => packPortArb 2 2 100 16 10
  | 4 => packPortArb 1 0 0 16 20
  | 5 => packPortArb 1 0 0 16 20
  | 6 => packPortArb 0 0 0 16 200
  | 7 => packPortArb 0 0 0 4 100
  | _ => 0

/-- The warn threshold of margin monitor m, two's complement (17_live_service.md R406). -/
def marginWarnReset : Nat → Nat
  | 0 => 25 | 1 => 40 | 2 => 35 | 3 => 2 ^ 32 - 600 | 4 => 85 | 5 => 150 | 6 => 10000 | _ => 0

/-- The retire threshold of margin monitor m, two's complement (17_live_service.md R406). -/
def marginRetireReset : Nat → Nat
  | 0 => 10 | 1 => 15 | 2 => 20 | 3 => 2 ^ 32 - 850 | 4 => 95 | 5 => 100 | 6 => 100000 | _ => 0

/-- The reset words of the registers whose tables say by part, by key or by index: the part modelled is the EZ-9600 of
stepping 0x00 (19_package_electrical.md R440), with serial number 0 (log entry 3); every power domain is on
(01_architecture.md R29; log entry 4). -/
def specialReset (o : Nat) : Option Nat :=
  if o = 0x0 then some 0x96000000
  else if o = 0x4 then some 0x00808000
  else if o = 0x8 then some 0x03000180
  else if 0x40040 ≤ o ∧ o < 0x40058 then some 0xFFFFFFFF
  else if o = 0x40058 then some 0x3F
  else if 0x50010 ≤ o ∧ o < 0x50048 then
    some (if o % 8 = 0 then marginWarnReset ((o - 0x50010) / 8) else marginRetireReset ((o - 0x50014) / 8))
  else if 0x20C100 ≤ o ∧ o < 0x20C180 then some (memArbReset ((o - 0x20C100) / 4))
  else if 0x20F000 ≤ o ∧ o < 0x210000 then
    some (let b := (o - 0x20F000) % 16; b + (b + 1) * 2 ^ 8 + (b + 2) * 2 ^ 16 + (b + 3) * 2 ^ 24)
  else if 0x1C0000 ≤ o ∧ o < 0x1C1800 ∧ 0x80 ≤ o % 0x100 ∧ o % 0x100 < 0xA0 then
    some (portArbReset ((o % 0x100 - 0x80) / 4))
  else if 0x400000 ≤ o ∧ o < 0x500000 ∧ o % 0x10000 = 0 then some 0xFF
  else none

/-- The reset value of the register word at a bus offset; 0 at a reserved offset. -/
def resetWord (o : Nat) : Word :=
  match specialReset o with
  | some v => BitVec.ofNat 32 v
  | none =>
    match regAt o with
    | some (r, _, _) => BitVec.ofNat 32 (rowResetBits r.fields)
    | none => 0

end Sys2Proof.Machine
end

