-- ==== Sys2Proof/Machine/State.lean ====
section
/-! DEFINITION. The state of the block, as plain data, and its value right after reset. -/

namespace Sys2Proof.Machine

/-- The stops of the model's own; no command of the spec ends the part (every fault of the spec is an effect on the
state). Nothing raises a fault. Safe. -/
inductive Fault where
deriving DecidableEq, Repr

/-- The refusals. -/
inductive Refusal where
  /-- Raised by an arm of exec whose command has no meaning yet. Safe: nothing is said of what follows. -/
  | notModelled (mnemonic : String)
deriving DecidableEq, Repr

/-- The Almanac counter and what waits for its next tick (02_almanac.md). -/
structure Clk where
  /-- 64 bits; 02_almanac.md R32; reset 0 (DESIGN CHOICE, log 5) -/
  n : BitVec 64 := 0
  /-- 32 bits, fraction below N; 02_almanac.md R32; reset 0 (DESIGN CHOICE, log 5) -/
  frac : BitVec 32 := 0
  /-- Low word staged by a write of `ALM_INCR_LO`, 32 bits; 02_almanac.md R35; reset 0 -/
  incrLatch : BitVec 32 := 0
  /-- Clamped increment that the next tick loads, 64 bits; 02_almanac.md R35; reset none -/
  incrPend : Option (BitVec 64) := none
  /-- Low word of `ALM_SET_LO`, 32 bits; 02_almanac.md R36; reset 0 (DESIGN CHOICE, log 5) -/
  setLo : BitVec 32 := 0
  /-- Time that the next tick sets, 64 bits; 02_almanac.md R36; reset none -/
  setPend : Option (BitVec 64) := none
  /-- Firmware step that the next tick adds, ns; 02_almanac.md R36; reset none -/
  stepPend : Option Int := none
  /-- Servo step that the next tick adds, ns; 02_almanac.md R48; reset none -/
  servoStep : Option Int := none
  /-- Elapsed ticks of the Almanac clock; 02_almanac.md R54; reset 0 -/
  ticks : Nat := 0
  /-- Sum of the increments added, 2^-32 ns, without steps; 02_almanac.md R24 of 01_architecture.md; reset 0 -/
  elapsed : Nat := 0
deriving DecidableEq, Repr

/-- The time servo (02_almanac.md R46 to R53). -/
structure Servo where
  /-- Integral term, 2^-32 ppb; 02_almanac.md R47; reset 0 (DESIGN CHOICE, log 5) -/
  integ : Int := 0
  /-- Frequency adjustment in force, 2^-32 ppb; 02_almanac.md R47; reset 0 -/
  y : Int := 0
  /-- The last 64 computed adjustments since the servo left STOPPED, newest first; 02_almanac.md R51; reset empty -/
  yHist : List Int := []
  /-- Filtered mean path delay, 2^-16 ns; 02_almanac.md R46; reset none -/
  mpd : Option Int := none
  /-- Master-to-slave time of the last Sync, 2^-16 ns; 02_almanac.md R46; reset none -/
  lastMs : Option Int := none
  /-- Delay_Reqs in progress: sequence number and internal transmit time, 2^-16 ns; 02_almanac.md R46; reset none -/
  reqs : List (Nat × Int) := []
  /-- Last valid sample, 2^-16 ns; 02_almanac.md R51; reset 0 -/
  eLast : Int := 0
  /-- Consecutive samples within `ALM_LOCK_THRESH`; 02_almanac.md R50; reset 0 -/
  okRun : Nat := 0
  /-- Consecutive outliers; 02_almanac.md R50; reset 0 -/
  outlierRun : Nat := 0
  /-- Consecutive samples beyond `ALM_HO_LIMIT`; 02_almanac.md R50; reset 0 -/
  hoBadRun : Nat := 0
  /-- Elapsed time of the last valid sample, ns; 02_almanac.md R50; reset 0 -/
  lastValid : Nat := 0
  /-- Magnitude of the last sample at entry to HOLDOVER, 2^-16 ns; 02_almanac.md R51; reset 0 -/
  hoE : Nat := 0
  /-- Sum of the rate terms, 2^-8 ppb times ns; 02_almanac.md R51; reset 0 -/
  hoSum : Nat := 0
  /-- Time of the present millisecond spent qualified, ns; 02_almanac.md R51; reset 0 -/
  hoSync : Nat := 0
  /-- Time of the present millisecond spent unqualified, ns; 02_almanac.md R51; reset 0 -/
  hoFree : Nat := 0
  /-- Elapsed time up to which the present millisecond is split, ns; 02_almanac.md R51; reset 0 -/
  hoMark : Nat := 0
  /-- Elapsed time of the next update, ns; 02_almanac.md R51; reset 0 -/
  hoNext : Nat := 0
  /-- The time PLL runs from SYNCE_CLK_IN; 02_almanac.md R49; reset false -/
  pllSynce : Bool := false
  /-- SYNCE_RCLK_OUT is squelched; 02_almanac.md R49; reset false -/
  squelched : Bool := false
deriving DecidableEq, Repr

/-- One pulse output (02_almanac.md R54, R55, R57). -/
structure Pulse where
  /-- Next scheduled lead edge, in N; 02_almanac.md R54; reset none -/
  next : Option Nat := none
  /-- Last lead edge that fell, in N; 02_almanac.md R57; reset none -/
  last : Option Nat := none
  /-- START in force, 64 bits; 02_almanac.md R57; reset 0 -/
  start : BitVec 64 := 0
  /-- Elapsed tick at which the pulse in progress ends; 02_almanac.md R54; reset none -/
  fall : Option Nat := none
deriving DecidableEq, Repr

/-- A gate change on its way to a core: when it arrives (elapsed time, 2^-32 ns), the gates, and whether it counts as a HARD
opening (03_calendar.md R61, R63). -/
structure GateMsg where
  due : Nat
  gates : Nat
  hardOpen : Bool
deriving DecidableEq, Repr

/-- A tenant window of a core: its start (elapsed time, ns), the duty in force at its start (03_calendar.md R80). -/
structure TWin where
  start : Nat := 0
  duty : Nat := 0
deriving DecidableEq, Repr

/-- The Calendar sequencer (03_calendar.md). -/
structure CalSeq where
  /-- Gates that the sequencer applies to each core, 4 bits; 03_calendar.md R58, R62; reset MAINT alone -/
  gates : SMap Nat := []
  /-- Gates that have reached each core's issue logic, 4 bits; 03_calendar.md R61; reset MAINT alone -/
  atCore : SMap Nat := []
  /-- Gate changes on their way to each core; 03_calendar.md R61; reset none -/
  path : SMap (List GateMsg) := []
  /-- Open queues, port p queue q at bit 8p + q, 64 bits; 03_calendar.md R58, R62; reset all open -/
  fhMask : BitVec 64 := 0xFFFFFFFFFFFFFFFF
  /-- End of the entry in use as an offset in the cycle, ns; 03_calendar.md R72; reset 0 -/
  endOff : Nat := 0
  /-- End of the entry in use in elapsed time, 2^-32 ns; 03_calendar.md R72, R78; reset 0 -/
  endAt : Nat := 0
  /-- N was stepped while the entry ran; 03_calendar.md R78; reset false -/
  resync : Bool := false
  /-- Bank under check; 03_calendar.md R74; reset A -/
  armBank : Nat := 0
  /-- Outcome of the checks in progress: code, and the failing entry; 03_calendar.md R74; reset DONE -/
  armCode : Nat := 0
  armIdx : Option Nat := none
  /-- Bank pending while PENDING is 1; 03_calendar.md R75; reset A -/
  pendBank : Nat := 0
  /-- Swap instant S, in N; 03_calendar.md R76; reset none -/
  swapAt : Option Nat := none
  /-- A cycle start of the running Calendar has been passed, so that a cycle is being measured; 03_calendar.md R80; reset
  false -/
  measuring : Bool := false
  /-- EN was 1 throughout the present cycle; 03_calendar.md R81; reset false -/
  cycEn : Bool := false
  /-- D was at `CAL_GOV_MIN_DUTY` throughout the present cycle; 03_calendar.md R81; reset false -/
  cycMin : Bool := false
  /-- Writes that wait for a cycle start: register offset and value; 03_calendar.md R77; reset none -/
  deferred : List (Nat × Word) := []
  /-- Fraction of each token bucket, 1/1000 token, key 3t + bucket; 03_calendar.md R82; reset 0 -/
  tbFrac : SMap Nat := []
  /-- Elapsed time of each bucket's next accrual, ns, key 3t + bucket; 03_calendar.md R82; reset 0 -/
  tbNext : SMap Nat := []
  /-- The tenant window of each core; 03_calendar.md R80; reset none -/
  windows : SMap TWin := []
deriving DecidableEq, Repr

/-- Counters of one data queue of a resident context; slot k of an entry is its number modulo the slots
(06_core_streams.md R150). -/
structure DataQ where
  /-- Entries allocated by the producer; R150; reset 0 -/
  alloc : Nat := 0
  /-- Entries wholly written, not yet pushed beyond `pushed`; R150; reset 0 -/
  written : Nat := 0
  /-- Entries pushed; R150; reset 0 -/
  pushed : Nat := 0
  /-- Entries taken by the consumer; R150; reset 0 -/
  taken : Nat := 0
  /-- Entries wholly read; R150; reset 0 -/
  readDone : Nat := 0
  /-- Entries freed; R150; reset 0 -/
  freed : Nat := 0
deriving DecidableEq, Repr

/-- One stream of a context: what its pointer record holds and where it stands (06_core_streams.md R142, R145). -/
structure Stream where
  /-- Program counter, 12 bits; R143, R172; reset 0 -/
  pc : Nat := 0
  /-- Command count, 48 bits; R142, R170; reset 0 -/
  count : Nat := 0
  /-- Commands that a DYNQ still takes from the dynamic queue; R145; reset 0 -/
  dynLeft : Nat := 0
  /-- NEXT of the BOUNDARY at which the stream is parked; 07_hallmark.md R197; reset none -/
  parked : Option Nat := none
  /-- Dynamic queue, at most 32 entries of 64 bits, oldest first; R167, R168; reset empty -/
  dynq : List (BitVec 64) := []
  /-- Entries taken so far, which give the queue's head; R142; reset 0 -/
  dynHead : Nat := 0
  /-- Elapsed time of the last read of a WAIT_MEM at the head, ns; R160; reset 0 -/
  poll : Nat := 0
  /-- Word that the last read found at another node; R160; reset none -/
  word : Option Nat := none
deriving DecidableEq, Repr

/-- The pointer part of a context (06_core_streams.md R142). -/
structure Pointers where
  /-- The four streams: 0 access, 1 matrix, 2 vector, 3 signal; R142; reset at their first command -/
  streams : SMap Stream := []
  /-- The four data queues; R142; reset empty -/
  dataqs : SMap DataQ := []
  /-- The sixteen core token counters, 16 bits; R142, R152; reset 0 -/
  tokens : SMap Nat := []
deriving DecidableEq, Repr

/-- A lowered image: its bytes as command memory holds them, and what its tables say (07_hallmark.md R191). -/
structure Img where
  bytes : Bytes := []
  loops : Nat := 0
  cmds : Nat := 0
  kern : Nat := 0
  queues : List (BitVec 64) := []
  /-- Link group of each command, 0 none -/
  links : List Nat := []
  /-- Bound W of each command's group, core cycles -/
  bounds : List Nat := []
  /-- The reduction step that each command's completion takes (05_arithmetic.md R134) -/
  reds : List (Option Config.Red) := []
  /-- Shares of the image -/
  shares : Nat := 1
  /-- Ranges of cluster memory that its commands reach: base and length (09_contexts_tenants.md R231) -/
  spans : List (Nat × Nat) := []
  /-- First command and end of each stream -/
  first : List Nat := []
  last : List Nat := []
  /-- Commands eligible for dynamic queues, with the largest COUNT_M1 of each level -/
  dyn : List (Nat × List Nat) := []
  cls : Nat := 0
  pacing : Nat := 0
  debug : Bool := false
  key : BitVec 32 := 0
  id : BitVec 32 := 0
  /-- Window indices that the image names -/
  wins : List Nat := []
  tokens : List Nat := []
  /-- Absolute cluster counters of the group -/
  counters : List Nat := []
  shape : List Nat := []
  hallmark : BitVec 64 := 0
  /-- The Ohmath image that it was lowered from -/
  source : Bytes := []
deriving DecidableEq, Repr

/-- A context (09_contexts_tenants.md R225, R226). -/
structure Ctx where
  /-- STATE: 0 FREE, 1 IDLE, 2 READY, 3 RESIDENT, 4 FAULTED, 5 FROZEN; R226; reset FREE -/
  state : Nat := 0
  /-- State to return to at a thaw; R244; reset 0 -/
  thaw : Nat := 0
  /-- Code of the last teardown, 8 bits; R226; reset 0 -/
  code : Nat := 0
  /-- TAG of the faulting command, 16 bits; R226; reset 0 -/
  tag : Nat := 0
  /-- Arithmetic flag word; R226, 05_arithmetic.md R131; reset 0 -/
  flags : Nat := 0
  /-- Share rank within the group; R225; reset 0 -/
  rank : Nat := 0
  /-- PIN; R226, R229; reset false -/
  pin : Bool := false
  /-- Function: 0 to 255 virtual, 256 physical; R226; reset 0 -/
  fn : Nat := 0
  /-- Group: its lowest context number; R226; reset 0 -/
  group : Nat := 0
  /-- Image of the context; R226; reset empty -/
  img : Img := {}
  /-- Full time of the last completion; R226; reset 0 -/
  progress : Nat := 0
  /-- Device-memory address of the sealed image; R226; reset 0 -/
  imageAddr : Nat := 0
  /-- Core while RESIDENT; R226; reset none -/
  core : Option Nat := none
  /-- Pointers as they stand; 06_core_streams.md R142; reset at the start -/
  live : Pointers := {}
  /-- Pointer record last saved; 06_core_streams.md R142; reset at the start -/
  saved : Pointers := {}
  /-- The context issues nothing more: its group's job failed, its tenant freezes or leaves; R233, R241, R244; reset false -/
  halt : Bool := false
  /-- A job runs on the context; R235; reset false -/
  job : Bool := false
  /-- Places in the replay table of the replays due; 14_journal_recovery.md R347; reset none -/
  replays : List Nat := []
  /-- Absolute cluster counters allotted to the group; 06_core_streams.md R153; reset none -/
  counters : List Nat := []
deriving DecidableEq, Repr

/-- A write that a command makes visible at its completion: space, address, data, poison (06_core_streams.md R139). -/
structure Staged where
  space : Nat
  addr : Nat
  data : Bytes
  poison : Bool
deriving DecidableEq, Repr

/-- A window of a function (09_contexts_tenants.md R237). -/
structure Win where
  /-- VALID; R237; reset 0 -/
  valid : Bool := false
  /-- GLOBAL; R237; reset 0 -/
  isGlobal : Bool := false
  /-- RO; R237; reset 0 -/
  ro : Bool := false
  /-- ENC; R237; reset 0 -/
  enc : Bool := false
  /-- Base, 64 bits; R237; reset 0 -/
  base : Nat := 0
  /-- Size in 64 KiB units; R237; reset 0 -/
  size : Nat := 0
deriving DecidableEq, Repr

/-- A command in flight (06_core_streams.md R138 to R141, 14_journal_recovery.md R345). -/
structure Inflight where
  slot : Nat
  stream : Nat
  /-- Command index in the image -/
  idx : Nat
  cmd : BitVec 256
  /-- Dynamic-queue entry it was taken from -/
  entry : Option (BitVec 64) := none
  /-- Iterations of the six levels -/
  counts : List Nat := []
  /-- Next unit to run, and the units in all -/
  unit : Nat := 0
  units : Nat := 1
  /-- Queue slot held by each of P0 to P3 -/
  slots : List (Option Nat) := [none, none, none, none]
  out : List Staged := []
  flags : Nat := 0
  /-- Core cycle from which its cycles count, and how many it takes -/
  start : Nat := 0
  cost : Nat := 0
  /-- A matrix command whose first slab waits for the Lantern -/
  waitLevel : Bool := false
  passes : Nat := 0
  slabs : Nat := 0
  /-- Elapsed time of its issue, or of its group's, ns -/
  issuedAt : Nat := 0
  /-- Tenant bound in force at its issue, ns -/
  bound : Option Nat := none
  /-- Windows in force at its issue -/
  wins : List Win := []
  waitTaken : Bool := false
  /-- Command count at issue -/
  count : Nat := 0
  /-- First sequence number of its fabric transactions, how many it sent, how many wait for an answer -/
  seqFirst : Nat := 0
  sent : Nat := 0
  remote : Nat := 0
  /-- It has reached completion -/
  reached : Bool := false
  /-- It re-runs a faulted command: its place in the replay table -/
  replay : Option Nat := none
  /-- Number that fabric replies find it by -/
  uid : Nat := 0
  /-- Answers to the reads of the unit in progress: sequence number, bytes, poison -/
  got : List (Nat × Bytes × Bool) := []
  /-- A unit waits for answers from the fabric -/
  open_ : Bool := false
  /-- Snapshot of a FENCE: destination and count -/
  snap : List (Nat × Nat) := []
  /-- Elapsed time of the last read of a WAIT_MEM, ns -/
  poll : Nat := 0
  /-- Bytes moved so far -/
  moved : Nat := 0
  /-- Old values that the atomics of its units returned, by unit -/
  olds : List (Nat × Nat) := []
  /-- The unit in progress holds its queue entries, or its word has been read once -/
  taken : Bool := false
  /-- The unit in progress waits for room in the retransmit buffer -/
  stuck : Bool := false
  /-- Write transactions sent, and those that a first run sent and a replay leaves out -/
  wrote : Nat := 0
  skip : Nat := 0
  /-- Right-operand address that the sparse buffer holds -/
  lastP1 : Option Nat := none
deriving DecidableEq, Repr

/-- The signal engine (06_core_streams.md R163, R164). The spec gives its registers no reset value (DESIGN CHOICE, log 339). -/
structure SigEng where
  /-- v0 to v15, 512 bits each; reset 0 -/
  v : SMap (BitVec 512) := []
  /-- acc0 to acc3, 16 complex values of two 40-bit parts, key 32 × accumulator + 2 × value + part; reset 0 -/
  acc : SMap Int := []
  /-- a0 to a7, 18 bits; reset 0 -/
  a : SMap Nat := []
  /-- s0 to s7, 32 bits; reset 0 -/
  sc : SMap (BitVec 32) := []
  /-- cb0 to cb7: base and length, lines; reset 0 -/
  cb : SMap (Nat × Nat) := []
  /-- Next instruction of the kernel while a unit runs; reset none -/
  pc : Option Nat := none
  /-- Iterations of the instruction after a REP, less those run; R166; reset 0 -/
  rep : Nat := 0
  /-- Queue slots that a0 to a3 were loaded with the addresses of: register, base, size; R148; reset none -/
  lim : List (Nat × Nat × Nat) := []
  /-- An abort under 03_calendar.md R64 waits for the end of a repeat; R166; reset false -/
  late : Bool := false
deriving DecidableEq, Repr

/-- A context slot of a core (06_core_streams.md R172, 07_hallmark.md R194 to R199). -/
structure Slot where
  /-- A context is resident; R172; reset 0 -/
  valid : Bool := false
  /-- Context number, 12 bits; R172; reset 0 -/
  ctx : Nat := 0
  /-- Region base and size, 256-byte units; R199; reset 0 -/
  base : Nat := 0
  size : Nat := 0
  /-- Active bank: 0 A, 1 B; R199; reset 0 -/
  bank : Nat := 0
  /-- A reload waits in the standby bank; R196; reset 0 -/
  armed : Bool := false
  /-- A reload awaits or occupies its window; R199; reset 0 -/
  copying : Bool := false
  /-- The image being reloaded, and its device-memory address; R195; reset none -/
  reload : Option Img := none
  reloadAt : Nat := 0
  /-- The reload was discarded, sticky; R198; reset 0 -/
  discarded : Bool := false
  /-- Bank switches, 16 bits; R199; reset 0 -/
  switches : Nat := 0
  /-- Held time, ns; R141; reset 0 -/
  held : Nat := 0
  /-- Elapsed time up to which the held time is counted, ns; R141; reset 0 -/
  heldMark : Nat := 0
  /-- A break has stopped issue: the context is halted once nothing of it is in flight; R170; reset 0 -/
  halted : Bool := false
  /-- Stream, cause and tag of a break that `CORE_DBG_STATUS` does not show yet; R170; reset none -/
  brk : Option (Nat × Nat × Nat) := none
  /-- STEP: one command issues on this stream and halts again; R170; reset none -/
  stepOn : Option Nat := none
  /-- Stream whose next command issues past its break after a RESUME or STEP; R170; reset none -/
  resumed : Option Nat := none
deriving DecidableEq, Repr

/-- A pass of the matrix array placed in time, in core cycles: its command, its first slab, the cycles of its feed, the slabs
among them, the cycle after its last (04_matrix_array.md R87, R88, R93). -/
structure Pass where
  uid : Nat
  start : Nat
  span : Nat
  slabs : Nat
  done : Nat
deriving DecidableEq, Repr

/-- An array's controller and its Lantern (04_matrix_array.md R97 to R106). -/
structure Arr where
  /-- The run is a TEST; R106; reset false -/
  testing : Bool := false
  /-- Core cycle from which the present state's time counts; R104, R106; reset none -/
  since : Option Nat := none
  /-- Physical row bypassed by the repair taken last; R99; reset none -/
  repair : Option Nat := none
  /-- Generator, 64 bits; R105; reset 1 (DESIGN CHOICE, log 9) -/
  lfsr : BitVec 64 := 1
  /-- Direction of the level: 0 held, 1 rising, 2 falling; R103; reset 0 -/
  dir : Nat := 0
  /-- Core cycle from which the next change of level counts; R103; reset 0 -/
  mark : Nat := 0
  /-- Core cycle up to which filled gaps are counted; R109; reset 0 -/
  fillMark : Nat := 0
  /-- Passes placed and not yet counted as completed; R89, R109; reset none -/
  plan : List Pass := []
  /-- Core cycle after the last slab of the last pass placed; R89; reset 0 -/
  feed : Nat := 0
  /-- The last pass was element-wise; R94; reset false -/
  ew : Bool := false
deriving DecidableEq, Repr

/-- A maintenance activity of a core: its kind by the order of 17_live_service.md R396, its argument, when it ends. -/
structure Activity where
  kind : Nat
  arg : Nat := 0
  /-- Elapsed time of its end, tenths of a nanosecond -/
  endAt : Nat := 0
deriving DecidableEq, Repr

/-- One core (06_core_streams.md). -/
structure Core where
  /-- The four context slots; R172; reset empty -/
  slots : SMap Slot := []
  /-- Slot of the running context; R142; reset none -/
  run : Option Nat := none
  /-- Function of the last running context, for the marking of 09_contexts_tenants.md R231; reset none -/
  lastFn : Option Nat := none
  /-- Commands in flight, oldest first; R138; reset none -/
  fly : List Inflight := []
  /-- Link group whose members are issuing, and the elapsed time of its issue; 07_hallmark.md R186; reset none -/
  grp : Option (Nat × Nat) := none
  sig : SigEng := {}
  arr : Arr := {}
  /-- Low words latched by the push registers, key 4 × slot + stream; R168; reset 0 -/
  pushLow : SMap Nat := []
  /-- Push that stalls the control processor: slot, stream, entry; R168; reset none -/
  stall : Option (Nat × Nat × Nat) := none
  /-- The control processor is halted; 17_live_service.md R396; reset false -/
  cpHalted : Bool := false
  /-- Its firmware is loaded; 15_vigil.md R379; reset false -/
  cpLoaded : Bool := false
  /-- Its memory met an uncorrectable error and it waits to be loaded again; 14_journal_recovery.md R351; reset false -/
  cpFailed : Bool := false
  /-- Queued maintenance activities; 17_live_service.md R397; reset none -/
  maintQ : List Activity := []
  /-- Running maintenance activities; 17_live_service.md R397; reset none -/
  maint : List Activity := []
  /-- Elapsed time of the last CANARY_SWEEP, ns; 17_live_service.md R397; reset 0 -/
  lastCanary : Nat := 0
  /-- The last CANARY_SWEEP was below its retire threshold; 14_journal_recovery.md R363; reset false -/
  canaryLow : Bool := false
  /-- The core is being returned: it counts as retired until its check passes; 17_live_service.md R398; reset false -/
  returning : Bool := false
  /-- The core is being retired: it takes no residents, and becomes RETIRED once none is left; 17_live_service.md R398; reset
  false -/
  retiring : Bool := false
  /-- Phase of an ARRAY_CHECK: 0 none, 1 ramp, 2 TEST, 3 START; 17_live_service.md R396; reset 0 -/
  check : Nat := 0
  /-- The check in progress has failed; 17_live_service.md R396; reset false -/
  checkBad : Bool := false
  /-- The core is stopped: its junction left its range; 01_architecture.md R23; reset false -/
  stopped : Bool := false
deriving DecidableEq, Repr

/-- A job of a group (09_contexts_tenants.md R235): who asked, with what user value, from a ring or not. -/
structure Job where
  fn : Nat
  user : Nat
  fromRing : Bool := true
  /-- Registered job it belongs to; 14_journal_recovery.md R355; none -/
  reg : Option Nat := none
  /-- First teardown: code, context, tag -/
  failed : Option (Nat × Nat × Nat) := none
  /-- Serving slot whose step it is; 10_serving.md R257; none -/
  sj : Option Nat := none
deriving DecidableEq, Repr

/-- A group of contexts (09_contexts_tenants.md R225, R235). -/
structure Group where
  /-- Contexts in rank order; R225; reset none -/
  ctxs : List Nat := []
  fn : Nat := 0
  /-- Order of definition, by which the most recent is found; R235; reset 0 -/
  serial : Nat := 0
  /-- Job in progress; R235; reset none -/
  job : Option Job := none
  /-- Jobs waiting, at most 64; R235; reset none -/
  waiting : List Job := []
  /-- Clusters in which its contexts have been resident; R231; reset none -/
  clusters : List Nat := []
deriving DecidableEq, Repr

/-- A function set beside its registers (09_contexts_tenants.md R234, R241). -/
structure FnSet where
  /-- Result records that wait for ring space; R234; reset none -/
  resWait : List Bytes := []
  /-- Completion records that wait for ring space; R234; reset none -/
  cplWait : List Bytes := []
  /-- Phase of a function-level reset, 0 none; R241; reset 0 -/
  flr : Nat := 0
  /-- Elapsed time of the reset request, ns; R241; reset 0 -/
  flrAt : Nat := 0
  /-- The reset is the first phase of TENANT_REMOVE; R242; reset false -/
  removing : Bool := false
  /-- The reset was reported complete; R241; reset false -/
  flrDone : Bool := false
  /-- Units sent and not acknowledged at the reset: core, node, count issued; R241; reset none -/
  drain : List (Nat × Nat × Nat) := []
  /-- The tenant is being frozen, and whether the mailbox waits for it; R244; reset false -/
  freezing : Bool := false
  /-- The freeze in force came from a parity mismatch in the tenant's registers; R247; reset false -/
  parityFroze : Bool := false
  /-- Key of ENC windows, 64 bytes; R239; reset none -/
  key : Bytes := []
  /-- Ranges to be zero-filled before they are granted again; R242; reset none -/
  clearing : List (Nat × Nat) := []
deriving DecidableEq, Repr

/-- The memories: sparse bytes that differ from 0, and the poisoned 64-byte granules (08_memory.md R201 to R213). -/
structure Mems where
  /-- Device memory by offset, 8 bits each; 08_memory.md R202; unlisted 0 (DESIGN CHOICE, log 10) -/
  dev : SMap Byte := []
  /-- Core stores, key core × 4 MiB + address; 06_core_streams.md R137; unlisted 0 (log 10) -/
  core : SMap Byte := []
  /-- Signal-engine data memories, key core × 256 KiB + address; 06_core_streams.md R137; unlisted 0 (log 10) -/
  sig : SMap Byte := []
  /-- Cluster memories, key cluster × 32 MiB + address; 08_memory.md R201; unlisted 0 (log 10) -/
  cluster : SMap Byte := []
  /-- Command memories, key core × 256 KiB + bank × 128 KiB + address; 07_hallmark.md R194; unlisted 0 (log 10) -/
  cmd : SMap Byte := []
  /-- Host memory by bus address; 09_contexts_tenants.md R234; unlisted 0 (log 10) -/
  host : SMap Byte := []
  /-- Poisoned granules of device memory; 08_memory.md R213; reset none -/
  pDev : SMap Bool := []
  /-- Poisoned granules of the core stores; 08_memory.md R213; reset none -/
  pCore : SMap Bool := []
  /-- Poisoned granules of the signal memories; 08_memory.md R213; reset none -/
  pSig : SMap Bool := []
  /-- Poisoned granules of the cluster memories; 08_memory.md R213; reset none -/
  pCluster : SMap Bool := []
deriving DecidableEq, Repr

/-- What the block has put on its ports and pins towards other parties. -/
inductive Sent where
  /-- A fabric transaction on a port (13_filigree.md R315) -/
  | txn (q : Nat) (x : Txn)
  /-- A control flit on a port: type and body (13_filigree.md R314) -/
  | ctl (q : Nat) (kind : Byte) (body : Bytes)
  /-- A fronthaul frame on a port (11_nr_baseband.md R270) -/
  | fh (p : Nat) (bytes : Bytes)
  /-- A frame of the management port (18_registers_mailbox.md R417) -/
  | mge (bytes : Bytes)
  /-- An access to the management PHY (18_registers_mailbox.md R418) -/
  | mdio (v : Word)
  /-- A host transfer with its poison bit: address and bytes (08_memory.md R214) -/
  | hostWrite (addr : Nat) (bytes : Bytes) (ep : Bool)
  /-- A sequence move to a slot of another node (10_serving.md R262) -/
  | beadMove (node slot : Nat) (m : BeadMoveMsg)
  /-- The answer to a sequence move: node, its bead, code, the new bead, its stamp (10_serving.md R262; 02_almanac.md R37) -/
  | beadMoveAck (node bead : Nat) (code dst : Nat) (stamp : Word)
  /-- A report to the fabric manager: 0 TARGET_LOST, 1 ATOMIC_UNCERTAIN, 2 a heartbeat missing on a bangle link, 3 the wish to
  join; the node concerned (13_filigree.md R322, R337; 14_journal_recovery.md R352, R354) -/
  | report (why node : Nat)
  /-- Journal records sent to the replicas on heal (14_journal_recovery.md R361) -/
  | history (records : List Bytes)
  /-- An interrupt of a management processor (18_registers_mailbox.md R422) -/
  | mpIrq (i : Nat)
  /-- The takeover boundary told to a primary cell: node, cell, Almanac time (11_nr_baseband.md R284) -/
  | takeover (node cell at_ : Nat)
deriving DecidableEq, Repr

/-- Whom the answer to an outstanding request serves. -/
inductive Who where
  /-- The command of a core with a number -/
  | cmd (n uid : Nat)
  /-- A TENANT WAIT_MEM at the head of a context's stream -/
  | poll (x stream : Nat)
  /-- A hub function -/
  | hub
deriving DecidableEq, Repr

/-- A copy of a write until it is acknowledged (13_filigree.md R321). -/
structure WCopy where
  x : Txn
  /-- Elapsed time of its last sending, ns -/
  at_ : Nat
  /-- Core that issued it; 128 a hub function; 256 + c radio cell c -/
  core : Nat
  /-- Context that issued it, where a core did -/
  ctx : Option Nat := none
  /-- Bulk bead that it belongs to -/
  bulk : Option Nat := none
deriving DecidableEq, Repr

/-- One destination of this device's traffic (13_filigree.md R319, R322). -/
structure Dest where
  /-- DSEQ of the next write; R319; reset 0 -/
  next : Nat := 0
  /-- Unacknowledged writes in DSEQ order; R321; reset none -/
  copies : List WCopy := []
  /-- Elapsed time of the last progress or re-route, ns; R322; reset 0 -/
  progress : Nat := 0
  /-- Port in use; R318; reset none -/
  port : Option Nat := none
  /-- Clasp in use, for a destination beyond the strand; R328; reset none -/
  clasp : Option Nat := none
  /-- Declared lost; R322; reset false -/
  lost : Bool := false
deriving DecidableEq, Repr

/-- A request that waits for its reply (13_filigree.md R322, R337). -/
structure Pend where
  x : Txn
  who : Who
  /-- Elapsed times of its first and last sending, ns -/
  first : Nat
  last : Nat
  /-- Retries sent -/
  tries : Nat := 0
deriving DecidableEq, Repr

/-- An inbound request held for its DSEQ_FLOOR or for invalidations (13_filigree.md R320, R324). -/
structure Held where
  x : Txn
  /-- Entries of a combined atomic -/
  entries : List CombEntry := []
  /-- Elapsed time of its arrival, ns -/
  at_ : Nat
  /-- The sharers of its lines have been asked to invalidate them -/
  asked : Bool := false
deriving DecidableEq, Repr

/-- One data flit sent and not acknowledged: its LSEQ, and how often it was sent again (13_filigree.md R314). -/
structure Flit where
  lseq : Nat
  tries : Nat := 0
deriving DecidableEq, Repr

/-- The link of a fabric port (13_filigree.md R310 to R314). -/
structure Link where
  /-- Training step in progress, 0 none; R310; reset 0 -/
  step : Nat := 0
  /-- Elapsed time at which the step began, ns; R310; reset 0 -/
  stepAt : Nat := 0
  /-- Elapsed time of the next training, ns; R310; reset none -/
  retryAt : Option Nat := none
  /-- Loop times measured; R310; reset 0 -/
  loops : Nat := 0
  /-- Light of all wavelengths is locked, and the lanes' FEC; R310; reset false -/
  locked : Bool := false
  fec : Bool := false
  /-- Credits that the peer granted, in flits, by VC; R312; reset none -/
  credit : List Nat := [0, 0, 0, 0]
  /-- LSEQ of the next data flit sent, and expected; R314; reset 0 -/
  txSeq : Nat := 0
  rxSeq : Nat := 0
  /-- Data flits not acknowledged; R314; reset none -/
  unacked : List Flit := []
  /-- Elapsed time of the last valid flit, ns; R310; reset 0 -/
  lastFlit : Nat := 0
  /-- Elapsed time of the last heartbeat received, ns; 14_journal_recovery.md R352; reset 0 -/
  lastBeat : Nat := 0
  /-- Transactions that wait for credits, oldest first; R312; reset none -/
  waiting : List Txn := []
deriving DecidableEq, Repr

/-- A write of this device that waits for the invalidation of its lines (13_filigree.md R324). -/
structure InvWait where
  addr : Nat
  data : Bytes
  poison : Bool
deriving DecidableEq, Repr

/-- The fabric interface (13_filigree.md). -/
structure Fab where
  /-- Last SEQ issued; R316; reset 0 -/
  seq : Nat := 0
  dests : SMap Dest := []
  /-- Next expected DSEQ of each source; R319; reset 0 -/
  expected : SMap Nat := []
  /-- Incarnation table, 0 none or revoked; R338; reset 0 -/
  incs : SMap Nat := []
  /-- Requests that wait for a reply; R322; reset none -/
  pend : List Pend := []
  /-- Inbound requests held; R320, R324; reset none -/
  held : List Held := []
  /-- Reply records, key source × 2^32 + SEQ: old value and elapsed time of the application, ns; R336; reset none -/
  replies : SMap (Nat × Nat) := []
  /-- Writes and atomics issued and acknowledged, key core × 2^17 + node; R323; reset 0 -/
  issued : SMap Nat := []
  acked : SMap Nat := []
  /-- Directory: sharer mask of each line of this device by line number; R325; reset none -/
  dir : SMap Nat := []
  /-- Lines of the directory, most recently used first; R325; reset none -/
  dirUse : List Nat := []
  /-- Bangle cache: line of a global address / 128 and its bytes; R324; reset empty -/
  cache : SMap Bytes := []
  /-- Lines of the cache, most recently used first; R324; reset none -/
  cacheUse : List Nat := []
  /-- Writes of this device that wait for invalidations; R324; reset none -/
  invWait : List InvWait := []
  links : SMap Link := []
  /-- Laser-source modules absent, bit e; 17_live_service.md R400; reset none -/
  noLaser : Nat := 0
  /-- PAGE_READs that a clasp forwarded: the request, the elapsed time in ns, and the requesters; R329; reset none -/
  relayed : List (Txn × Nat × List Txn) := []
  /-- Copies that a clasp holds of relayed pages; R329; reset none -/
  relayCopies : List Txn := []
  /-- Number of the last multiple of 100,000 ns at which heartbeats were sent; R313; reset 0 -/
  beat : Nat := 0
  /-- Rejoining has been asked for; 14_journal_recovery.md R354; reset false -/
  rejoin : Bool := false
deriving DecidableEq, Repr

/-- An entry of the replay table: core, context and the members to re-run (14_journal_recovery.md R345). -/
structure RepEnt where
  core : Nat
  ctx : Nat
  /-- Link group, 0 for a lone command -/
  grp : Nat := 0
  cmds : List Inflight := []
  /-- Code and fault record's cause: image to be copied back -/
  code : Nat := 0
  reload : Bool := false
deriving DecidableEq, Repr

/-- The journal's collector (14_journal_recovery.md R342 to R345). -/
structure Jrnl where
  /-- Records of the open block, oldest first; R345; reset none -/
  recs : List Bytes := []
  /-- Full issued time of its first record; R343; reset 0 -/
  firstTime : Nat := 0
  /-- Elapsed time of its first record, ns; R345; reset 0 -/
  firstAt : Nat := 0
  /-- Replay table by place, at most 1,024 entries; R345; reset none -/
  table : SMap RepEnt := []
  /-- Elapsed time of the last link event replayed, ns; R351; reset none -/
  linkEvt : Option Nat := none
  /-- Elapsed time since which fewer than two replicas are heard with one epoch, ns; R359; reset none -/
  quiet : Option Nat := none
  /-- Link-level retries of the die networks, bridges and HBM4 command links; 08_memory.md R212; reset 0 -/
  retries : Nat := 0
deriving DecidableEq, Repr

/-- A frame in an egress queue of a fronthaul port (11_nr_baseband.md R270). -/
structure TxFrame where
  /-- Bytes without the check sequence -/
  bytes : Bytes
  /-- Sub-port -/
  sub : Nat := 0
  /-- Almanac time by which it must begin to leave -/
  latest : Option Nat := none
  /-- Cell that owns it -/
  cell : Option Nat := none
  /-- Flow of the cell that counts it -/
  flow : Nat := 0
  /-- Corrected ingress time of a forwarded frame, 2^-8 ns -/
  ingress : Option Int := none
  /-- A granule of it is poisoned -/
  poison : Bool := false
deriving DecidableEq, Repr

/-- What a flow has counted since its bead was last written (11_nr_baseband.md R273): the last ecpriSeqId, and the counts. -/
structure FlowCtr where
  seen : Bool := false
  seq : Nat := 0
  late : Nat := 0
  gaps : Nat := 0
  frames : Nat := 0
deriving DecidableEq, Repr

/-- A section in a cell's receive ring: its slot, symbol and flow, its first resource block and their number, its width byte
`udCompHdr`, and where its first block lies in the ring (11_nr_baseband.md R268, R269). -/
structure RxSec where
  slot : Nat
  sym : Nat
  flow : Nat
  prb : Nat
  num : Nat
  hdr : Nat
  off : Nat
deriving DecidableEq, Repr

/-- A radio cell's running state (11_nr_baseband.md). -/
structure Cell where
  /-- The cell function holds state (it is not STOPPED); 11_nr_baseband.md R273; reset false -/
  active : Bool := false
  /-- The cell is FDD; 11_nr_baseband.md R286; reset false -/
  fdd : Bool := false
  /-- TX_ENABLED is to be set at the next frame boundary; 11_nr_baseband.md R286; reset false -/
  txArm : Bool := false
  /-- That frame boundary, Almanac time; 11_nr_baseband.md R286; reset 0 -/
  txAt : Nat := 0
  /-- Configuration record as read at START; 11_nr_baseband.md R272; reset empty -/
  cfg : Bytes := []
  /-- Subcarrier spacing, 15 kHz times 2 to its power; 11_nr_baseband.md R276; reset 0 -/
  scs : Nat := 0
  /-- Flow beads in the order of the record's entries; 11_nr_baseband.md R273; reset none -/
  beads : List Nat := []
  /-- Counts of each flow not yet sent to its bead; 11_nr_baseband.md R273; reset none -/
  ctrs : SMap FlowCtr := []
  /-- Write offset of the receive ring, bytes; 11_nr_baseband.md R271; reset 0 -/
  rxOff : Nat := 0
  /-- Slots that hold room in the receive ring: absolute slot, bytes; 11_nr_baseband.md R271; reset none -/
  rxHeld : List (Nat × Nat) := []
  /-- Absolute slot of the next SLOT.indication; 11_nr_baseband.md R276; reset 0 -/
  nextInd : Nat := 0
  /-- Absolute slot of the next request deadline; 11_nr_baseband.md R276; reset 0 -/
  nextReq : Nat := 0
  /-- Absolute slot of the next CRC, RX_Data and UCI indications; 11_nr_baseband.md R276; reset 0 -/
  nextCrc : Nat := 0
  /-- Absolute slot of the next C-plane frames; 11_nr_baseband.md R270; reset 0 -/
  nextCp : Nat := 0
  /-- Absolute symbol of the next downlink U-plane frames; 11_nr_baseband.md R270; reset 0 -/
  nextUp : Nat := 0
  /-- Requests taken: absolute slot and message; 11_nr_baseband.md R274; reset none -/
  reqs : List (Nat × Bytes) := []
  /-- Absolute uplink slots counted as missed; 11_nr_baseband.md R277; reset none -/
  missed : List Nat := []
  /-- Absolute slots whose downlink is missed; 11_nr_baseband.md R277; reset none -/
  missedDl : List Nat := []
  /-- Absolute slot from which the Calendar is not RUNNING; 11_nr_baseband.md R277; reset none -/
  lostFrom : Option Nat := none
  /-- Ranges of absolute slots in which it was not, first and last; 11_nr_baseband.md R277; reset none -/
  lost : List (Nat × Nat) := []
  /-- Sections in the receive ring; 11_nr_baseband.md R269; reset none -/
  rxSecs : List RxSec := []
  /-- Absolute slot of the next RACH and of the next SRS indication; 11_nr_baseband.md R276; reset 0 -/
  nextRach : Nat := 0
  nextSrs : Nat := 0
  /-- Almanac time from which a stopping cell begins no slot; 11_nr_baseband.md R273, R284; reset none -/
  stopAt : Option Nat := none
  /-- Alternate replica buffer to be written next; 11_nr_baseband.md R283; reset 0 -/
  replBuf : Nat := 0
  /-- Newest complete replica: buffer and absolute slot; 11_nr_baseband.md R284; reset none -/
  replica : Option (Nat × Nat) := none
  /-- Takeover boundary, Almanac time; 11_nr_baseband.md R284; reset none -/
  takeAt : Option Nat := none
deriving DecidableEq, Repr

/-- A coded-channel job that runs (11_nr_baseband.md R279, R280). -/
structure CJob where
  hard : Bool
  desc : Bytes
  /-- Output bytes, result word -/
  out : Bytes
  word : Nat
deriving DecidableEq, Repr

/-- A coded-channel group (11_nr_baseband.md R278). -/
structure Codec where
  /-- TAIL of the HARD ring as last noticed; R278; reset 0 -/
  hardTail : Nat := 0
  /-- TAIL of the FIRM ring as last noticed; R278; reset 0 -/
  firmTail : Nat := 0
  /-- Jobs running, oldest first; R280; reset none -/
  jobs : List CJob := []
deriving DecidableEq, Repr

/-- A transmit frame of an FSK channel (12_fsk.md R301 to R305). -/
structure FskTx where
  user : Nat
  /-- LAUNCH on the sample grid: number of its first sample -/
  first : Nat
  /-- LAUNCH, Almanac time -/
  launch : Nat
  samples : Bytes
  /-- Samples in all -/
  count : Nat
  /-- First sample of the block that breaks the mask; R305 -/
  cutAt : Option Nat
  /-- The cut has been counted; R305 -/
  counted : Bool := false
  /-- It has begun; R304 -/
  begun : Bool := false
deriving DecidableEq, Repr

/-- An FSK channel (12_fsk.md R296 to R304). -/
structure FskCh where
  /-- 0 idle, 1 search, 2 preamble, 3 SFD, 4 frame; R297; reset 0 -/
  stage : Nat := 0
  /-- Its FSK_SESSION bead; R294; reset none -/
  bead : Option Nat := none
  /-- Accepted sections: interval and samples, 4 bytes each; R292; reset none -/
  sects : List (Nat × Bytes) := []
  /-- Samples not yet processed; R291; reset none -/
  buf : Bytes := []
  /-- Number of the first of them; R291; reset 0 -/
  pos : Nat := 0
  /-- Samples of the symbol before; R299; reset none -/
  prev : Bytes := []
  /-- Gain, 0.25 dB units; R296; reset 0 -/
  gain : Nat := 0
  /-- The AGC is frozen; R296; reset false -/
  frozen : Bool := false
  /-- Consecutive symbols at or above the threshold; R297; reset 0 -/
  hits : Nat := 0
  /-- Symbols since the stage was entered; R297; reset 0 -/
  since : Nat := 0
  /-- Consecutive alternating decisions, and the last decision; R297; reset 0 -/
  alt : Nat := 0
  last : Bool := false
  /-- Discriminator outputs of the qualified symbols; R297; reset none -/
  outs : List Int := []
  /-- Sum of |x|^2 over the symbol of qualification; R298; reset 0 -/
  pQual : Nat := 0
  /-- Estimated carrier offset, Hz; R297; reset 0 -/
  ofs : Int := 0
  /-- Last 16 bit decisions, newest lowest; R297; reset 0 -/
  bits : Nat := 0
  /-- SFD matched: coded, SFD_TIME, RSSI; R297, R300; reset 0 -/
  coded : Bool := false
  sfdTime : Nat := 0
  rssi : Nat := 0
  /-- Discriminator outputs since the SFD; R299; reset none -/
  soft : List Int := []
  /-- Sample before which no frame is sought; R297, R304; reset 0 -/
  quiet : Nat := 0
  /-- Receive record to be written and when; R300; reset none -/
  recs : List (Nat × Bytes) := []
  /-- Accepted transmit frames, oldest first; R301; reset none -/
  tx : List FskTx := []
  /-- Interval of the next downlink section; R302; reset 0 -/
  nextDl : Nat := 0
  /-- ecpriSeqId of the next downlink section; R291; reset 0 -/
  seq : Nat := 0
  /-- Counts not yet sent to the bead, by their offset in its record; R295; reset 0 -/
  ctrs : SMap Nat := []
deriving DecidableEq, Repr

/-- An FSK group's running state (12_fsk.md). -/
structure FskGrp where
  /-- The group holds state (it is not STOPPED); 12_fsk.md R294; reset false -/
  active : Bool := false
  /-- Accepted frames are to be cut at the next interval; 12_fsk.md R303; reset false -/
  cut : Bool := false
  /-- Channel table as read at START, 16 bytes an entry; 12_fsk.md R293; reset empty -/
  table : Bytes := []
  /-- Channels; 12_fsk.md R293; reset none -/
  chans : SMap FskCh := []
  /-- Interval to be processed next; 12_fsk.md R291; reset 0 -/
  next : Nat := 0
  /-- Interval boundary at which transmit requests are taken next; 12_fsk.md R301; reset 0 -/
  nextTx : Nat := 0
deriving DecidableEq, Repr

/-- A serving-job slot (10_serving.md R252 to R262). -/
structure Sj where
  /-- Code with which the step submitted has ended; 10_serving.md R260; reset none -/
  stepCode : Option Nat := none
  /-- Rows of the present step: bead and advance; 10_serving.md R257; reset none -/
  rows : List (Nat × Nat) := []
  /-- Pages returned when the step completes; 10_serving.md R257; reset none -/
  pend : List Nat := []
  /-- Pages in use or pending; 10_serving.md R254; reset none -/
  busy : SMap Bool := []
  /-- Elapsed time at which the boundary is begun again, ns; 10_serving.md R257; reset none -/
  polling : Option Nat := none
  /-- The step was refused: elapsed time in ns, and the next cycle start then in N; 10_serving.md R261; reset none -/
  policed : Option (Nat × Nat) := none
  /-- Event records that wait for ring space; 10_serving.md R255; reset none -/
  evWait : List Bytes := []
  /-- Move asked for: bead, node, slot; 10_serving.md R262; reset none -/
  asked : Option (Nat × Nat × Nat) := none
  /-- Move sent: bead, and its bulk bead; 10_serving.md R262; reset none -/
  moving : Option (Nat × Nat) := none
deriving DecidableEq, Repr

/-- The mailbox operation in progress (18_registers_mailbox.md R420 to R422). -/
structure Mbx where
  /-- Its opcode; R420; reset none -/
  op : Option Nat := none
  /-- Its own copy of the eight arguments; R420; reset none -/
  args : List Nat := []
  /-- The host held the claim at acceptance; R422; reset false -/
  byHost : Bool := false
  /-- Its code, once it has come to its end; R422; reset none -/
  code : Option Nat := none
  /-- Its results, at most four words; R422; reset none -/
  res : List Nat := []
deriving DecidableEq, Repr

/-- A request at an arbiter: its urgency stamp, the beats it still asks for, its lock mark, whether it is promoted, and
whether it was deferred in this window (08_memory.md R218, R219). -/
structure ArbReq where
  /-- The core of a cluster whose request it is; R217; 0 of another requester -/
  core : Nat := 0
  stamp : Nat := 0
  beats : Nat := 0
  lock : Bool := false
  promoted : Bool := false
  deferred : Bool := false
deriving DecidableEq, Repr

/-- An arbiter (08_memory.md R218, R219). -/
structure Arb where
  /-- Raised requests by requester index, the one presented first; R217, R219; reset none -/
  reqs : SMap (List ArbReq) := []
  /-- Owner of the grant; R218; reset none -/
  owner : Option Nat := none
  /-- Beats spent in the grant; R218; reset 0 -/
  spent : Nat := 0
  /-- The grant is LOCKED; R218; reset false -/
  locked : Bool := false
  /-- Bursts granted in this window by HIGH requester; R219; reset 0 -/
  counts : SMap Nat := []
  /-- Masked requesters; R219; reset none -/
  masked : List Nat := []
  /-- Promoted bursts granted in this window; R219; reset 0 -/
  promo : Nat := 0
  /-- Number of the last window that started; R218; reset 0 -/
  window : Nat := 0
deriving DecidableEq, Repr

/-- The retirement move of a stack (08_memory.md R207 to R211). -/
structure Move where
  /-- The new map is in force; R207; reset false -/
  on : Bool := false
  /-- The stripe map before the move, 16 for a spread bucket; R208; reset none -/
  old : List Nat := []
  /-- Bucket and row of the next unit to be copied; R209; reset 0 -/
  bucket : Nat := 0
  row : Nat := 0
  /-- When the pace of the copy was last counted, in ns, and the bytes that it allows since; R209; reset 0 -/
  paceAt : Nat := 0
  allow : Nat := 0
  /-- The cluster-port quota of the new n waits for a window start; R211; reset false -/
  quotaDue : Bool := false
deriving DecidableEq, Repr

/-- A channel's scrub pass (08_memory.md R215). -/
structure Scrub where
  /-- The next burst of the pass; R215; reset 0 -/
  next : Nat := 0
  /-- When the pass began, in ns; R215; reset none -/
  since : Option Nat := none
deriving DecidableEq, Repr

/-- The always-on logic: the Vigil's pins and where it stands (15_vigil.md R366 to R386; 19_package_electrical.md R431,
R437). -/
structure Vig where
  /-- AON_PWRGOOD is high; R366; reset false -/
  aon : Bool := false
  /-- POR_L is low; R366; reset false -/
  por : Bool := false
  /-- PWR_EN outputs raised, bit i; R367; reset 0 -/
  en : Nat := 0
  /-- PWR_GOOD inputs high, bit i; R367; reset 0 -/
  good : Nat := 0
  /-- The half in use is the second one tried after a failure; R374; reset false -/
  second : Bool := false
  /-- Header of the half in use; R369; reset empty -/
  header : Bytes := []
  /-- Whether each section of it authenticates; R370; reset none -/
  sections : List Bool := []
  /-- MIN_CORES; R371; reset 64 -/
  minCores : Nat := 64
  /-- TIME_WAIT, s; R371; reset 55 -/
  timeWait : Nat := 55
  /-- JOIN_WAIT, s; R371; reset 30 -/
  joinWait : Nat := 30
  /-- ms from AON_PWRGOOD to the end of step 3 (a free value), and the elapsed time then, ns; R386; reset 0 -/
  base : Nat := 0
  baseAt : Nat := 0
  /-- Elapsed time at which the present step began, ns; R374, R381, R384; reset 0 -/
  stepAt : Nat := 0
  /-- The section is applied by NVM_APPLY; 17_live_service.md R402; reset false -/
  nvm : Bool := false
  /-- Section being applied and number of its next record; R373; reset none -/
  sect : Option Nat := none
  recNo : Nat := 0
  /-- Status register that a START record waits for, and the elapsed time of the START, ns; R372; reset none -/
  waitFn : Option (Nat × Nat) := none
  /-- The answer of the replicas: incarnation, release time T_R, trim in 2^-8 ns; R382; reset none -/
  answer : Option (Nat × Nat × Int) := none
  /-- Step 11 is in progress, or goes on in service; R382, R384; reset false -/
  joining : Bool := false
  /-- Fabric ports whose registers the FABRIC section wrote; R382; reset none -/
  ports : List Nat := []
  /-- Elapsed time at which admission was last asked for, ns; R384; reset none -/
  askAt : Option Nat := none
  /-- THERM_WARN_L is low; R437; reset false -/
  warn : Bool := false
  /-- Sensors last read at or above 87 degrees: die and number; R437; reset none -/
  hot : List (Nat × Nat) := []
  /-- THERM_TRIP_L is latched low; R437; reset false -/
  trip : Bool := false
  /-- PERST_L is low; R366; reset false -/
  perst : Bool := false
  /-- VID_N and VID_S as driven, 5 bits each; 19_package_electrical.md R430; reset none -/
  vid : Option (Nat × Nat) := none
  /-- The SMBus address read from the straps, 7 bits; 19_package_electrical.md R436; reset none -/
  smbAddr : Option Nat := none
deriving DecidableEq, Repr

/-- What manufacture and the board fix for good: no command changes it (00_scope.md R2; 19_package_electrical.md R430,
R436). -/
structure Fuses where
  /-- Disabled cores, bit n; 00_scope.md R1, R2; reset 0, an EZ-9600 (DESIGN CHOICE, log 3) -/
  cut : Nat := 0
  /-- Serial number, 64 bits; 18_registers_mailbox.md R416; reset 0 (DESIGN CHOICE, log 3) -/
  serial : Nat := 0
  /-- Fused core voltages of North and South, 0 to 30; 19_package_electrical.md R430; reset 0 (DESIGN CHOICE, log 3) -/
  vidN : Nat := 0
  vidS : Nat := 0
  /-- SMB_ADDR straps, 2 bits; 19_package_electrical.md R436; reset 0 (DESIGN CHOICE, log 3) -/
  straps : Nat := 0
deriving DecidableEq, Repr

/-- The fuses of a part as R1 and R2 of 00_scope.md give them: no core disabled, or one of each cluster. -/
def Fuses.wf (f : Fuses) : Bool :=
  (f.cut == 0 || (decide (f.cut < 2 ^ 128) && (List.range 16).all (fun c =>
    ((List.range 8).filter (fun i => f.cut.testBit (8 * c + i))).length == 1))) &&
  decide (f.serial < 2 ^ 64) && decide (f.vidN ≤ 30) && decide (f.vidS ≤ 30) && decide (f.straps < 4)

/-- The whole state. -/
structure State where
  /-- Commands waiting, first in first out (the model's queue); reset empty -/
  pending : List Instr := []
  /-- The model's own count of free values taken; reset 0 (DESIGN CHOICE, log 6) -/
  freeIdx : Nat := 0
  /-- Register words that differ from their reset values, by bus offset (every register of the list above) -/
  regs : SMap Word := []
  /-- Registers that behave as their reset value until rewritten; 18_registers_mailbox.md R412; reset none -/
  behaveReset : List Nat := []
  /-- Data the last read returned to its requester, 64 bits; 18_registers_mailbox.md R408; reset 0 -/
  rdata : BitVec 64 := 0
  clk : Clk := {}
  servo : Servo := {}
  pulses : SMap Pulse := []
  /-- Capture FIFO of input k, oldest first, at most 4 stamps of 64 bits; 02_almanac.md R56; reset empty -/
  capt : SMap (List (BitVec 64)) := []
  cal : CalSeq := {}
  mems : Mems := {}
  cores : SMap Core := []
  /-- Cluster token counters, key 256 × cluster + index, 16 bits; 06_core_streams.md R152; reset 0 (DESIGN CHOICE, log 11) -/
  clTok : SMap Nat := []
  ctxs : SMap Ctx := []
  groups : SMap Group := []
  /-- Groups defined so far; 09_contexts_tenants.md R235; reset 0 -/
  serial : Nat := 0
  fns : SMap FnSet := []
  /-- Windows, key 16 × function + index; 09_contexts_tenants.md R237; reset none valid -/
  wins : SMap Win := []
  /-- Window commits that wait for a cycle start; 09_contexts_tenants.md R240; reset none -/
  winPend : List (Nat × Win) := []
  /-- Seal key drawn at the Vigil; 07_hallmark.md R192; reset 0 (DESIGN CHOICE, log 12) -/
  sealKey : BitVec 64 := 0
  /-- Sealed lowered images by device-memory address; 07_hallmark.md R192; reset none -/
  images : SMap Img := []
  /-- MSI-X messages raised: function and vector, oldest first; 09_contexts_tenants.md R234; reset none -/
  msix : List (Nat × Nat) := []
  /-- Registers whose stored bits no longer match their parity; 18_registers_mailbox.md R412; reset none -/
  upset : List Nat := []
  cells : SMap Cell := []
  fsk : SMap FskGrp := []
  codecs : SMap Codec := []
  /-- Egress queues of the fronthaul ports, port p queue q at 8p + q, oldest first; 11_nr_baseband.md R270; reset empty -/
  fhq : SMap (List TxFrame) := []
  sjs : SMap Sj := []
  /-- Records of the bead cache, most recently used first; 10_serving.md R248; reset none -/
  beadUse : List Nat := []
  /-- Last admission stamp; 10_serving.md R256; reset none -/
  beadStamp : Option Nat := none
  /-- What the block has sent, oldest first; reset none -/
  sent : List Sent := []
  /-- Numbers given to commands in flight; reset 0 -/
  uids : Nat := 0
  fab : Fab := {}
  jr : Jrnl := {}
  mbx : Mbx := {}
  /-- Arbiters: pseudo-channel c of channel m at 64m + c, fabric port q at 65536 + q, bank b of core n at 131072 + 32n + b;
  08_memory.md R218; reset idle -/
  arbs : SMap Arb := []
  move : Move := {}
  /-- Each channel's scrub pass; 08_memory.md R215; reset not begun -/
  scrub : SMap Scrub := []
  /-- Operator key of the authenticated flash image; 07_hallmark.md R179; reset none -/
  operatorKey : Bytes := []
  vig : Vig := {}
  /-- Domain switch in progress: number, on or off, the elapsed time of its end, ns; 17_live_service.md R403; reset none -/
  pwrSw : Option (Nat × Bool × Nat) := none
  /-- Number of the last multiple of 1,000,000 ns at which a parity pass began; 18_registers_mailbox.md R412; reset 0 -/
  scrubMs : Nat := 0
  /-- HI registers latched by a read of their LO register, by bus offset; 18_registers_mailbox.md R408; reset 0 -/
  latches : SMap Word := []
  /-- The last mailbox operation was started by the SMBus port; 19_package_electrical.md R436; reset false -/
  smbOp : Bool := false
  /-- Control-processor firmware loaded; 15_vigil.md R379; reset empty -/
  cpFw : Bytes := []
  /-- Result records of radio images, kept in the firmware working space; 15_vigil.md R379; reset none -/
  fwResults : List Bytes := []
  fuses : Fuses := {}
deriving DecidableEq, Repr

/-- The block right after reset: no command waits, every register holds its reset value, every memory lists nothing. -/
def State.reset : State := {}

end Sys2Proof.Machine
end

