-- ==== Sys2Proof/Machine/Ops.lean ====
section
/-! DEFINITION. The named operations over registers, function states and counters. -/

namespace Sys2Proof.Machine

/-- The outcome type of every meaning. -/
abbrev Out := Host.Outcome State Fault Refusal

/-- The bus offset of a field's register at two indices. -/
def Fld.addr (f : Fld) (i : Nat := 0) (k : Nat := 0) : Nat := f.off + i * f.s1 + k * f.s2

/-- The word of a register: its reset value while it behaves as that (18_registers_mailbox.md R412), else what it holds. -/
def rdReg (s : State) (o : Nat) : Word :=
  if s.behaveReset.elem o then resetWord o else mapGet resetWord s.regs o

/-- The state with a register's word replaced. -/
def wrReg (s : State) (o : Nat) (v : Word) : State :=
  { s with regs := mapPut resetWord s.regs o v }

/-- A word with `w` bits from bit `lo` replaced. -/
def putBits (x : Word) (lo w v : Nat) : Word :=
  BitVec.ofNat 32 (x.toNat / 2 ^ (lo + w) * 2 ^ (lo + w) + v % 2 ^ w * 2 ^ lo + x.toNat % 2 ^ lo)

/-- The bits of a word from bit `lo`, `w` of them. -/
def getBits (x : Word) (lo w : Nat) : Nat := x.toNat / 2 ^ lo % 2 ^ w

/-- The value of a field. -/
def State.get (s : State) (f : Fld) (i : Nat := 0) (k : Nat := 0) : Nat := getBits (rdReg s (f.addr i k)) f.lo f.w

/-- The value of a field read as two's complement. -/
def State.getS (s : State) (f : Fld) (i : Nat := 0) (k : Nat := 0) : Int :=
  let v := s.get f i k
  if v < 2 ^ (f.w - 1) then v else (v : Int) - 2 ^ f.w

/-- Whether a one-bit field is set. -/
def State.bit (s : State) (f : Fld) (i : Nat := 0) (k : Nat := 0) : Bool := s.get f i k != 0

/-- The state with a field replaced; the value is taken modulo the field's width. -/
def State.set (s : State) (f : Fld) (v : Nat) (i : Nat := 0) (k : Nat := 0) : State :=
  wrReg s (f.addr i k) (putBits (mapGet resetWord s.regs (f.addr i k)) f.lo f.w v)

/-- The state with a field replaced by a number in two's complement. -/
def State.setS (s : State) (f : Fld) (v : Int) (i : Nat := 0) (k : Nat := 0) : State :=
  s.set f (v % 2 ^ f.w).toNat i k

/-- A counter raised by `d`, staying at the field's largest value. -/
def State.bumpSat (s : State) (f : Fld) (i : Nat := 0) (k : Nat := 0) (d : Nat := 1) : State :=
  s.set f (min (s.get f i k + d) (2 ^ f.w - 1)) i k

/-- A counter raised by `d`, modulo the field's width. -/
def State.bump (s : State) (f : Fld) (i : Nat := 0) (k : Nat := 0) (d : Nat := 1) : State :=
  s.set f (s.get f i k + d) i k

/-- A value held in a low and a high register. -/
def State.get2 (s : State) (lo hi : Fld) (i : Nat := 0) (k : Nat := 0) : Nat := s.get lo i k + s.get hi i k * 2 ^ 32

/-- A value stored into a low and a high register. -/
def State.set2 (s : State) (lo hi : Fld) (v : Nat) (i : Nat := 0) (k : Nat := 0) : State :=
  (s.set lo v i k).set hi (v / 2 ^ 32) i k

/-- A 64-bit counter in two registers, wrapping. -/
def State.bump2 (s : State) (lo hi : Fld) (i : Nat := 0) (k : Nat := 0) (d : Nat := 1) : State :=
  s.set2 lo hi (s.get2 lo hi i k + d) i k

/-! The codes of R7 (00_scope.md). -/

abbrev Code.done : Nat := 0x00
abbrev Code.busy : Nat := 0x01
abbrev Code.stateConflict : Nat := 0x02
abbrev Code.badArgument : Nat := 0x03
abbrev Code.notPresent : Nat := 0x04
abbrev Code.denied : Nat := 0x05
abbrev Code.hallmarkReject : Nat := 0x10
abbrev Code.queueOverflow : Nat := 0x11
abbrev Code.syncCycle : Nat := 0x12
abbrev Code.windowViolation : Nat := 0x13
abbrev Code.guardExceeded : Nat := 0x14
abbrev Code.uncorrectable : Nat := 0x20
abbrev Code.replayFailed : Nat := 0x21
abbrev Code.configParity : Nat := 0x22
abbrev Code.targetLost : Nat := 0x30
abbrev Code.atomicUncertain : Nat := 0x31
abbrev Code.fenced : Nat := 0x32
abbrev Code.partitioned : Nat := 0x33
abbrev Code.pagesExhausted : Nat := 0x40
abbrev Code.policed : Nat := 0x41
abbrev Code.deviceLost : Nat := 0x42
abbrev Code.holdoverExpired : Nat := 0x50
abbrev Code.maskViolation : Nat := 0x51

/-- The codes of the table: no other is ever reported (00_scope.md R7, R9). -/
def codeList : List Nat :=
  [0x00, 0x01, 0x02, 0x03, 0x04, 0x05, 0x10, 0x11, 0x12, 0x13, 0x14, 0x20, 0x21, 0x22, 0x30, 0x31, 0x32, 0x33, 0x40, 0x41,
    0x42, 0x50, 0x51]

/-- A number is a code of the table (00_scope.md R7). -/
def listedCode (c : Nat) : Bool := codeList.elem c

/-- A code of the table that the spec does not state: a free value (00_scope.md R9). -/
def freeCode (i : Nat) : Nat := codeList.getD (Config.freeValue i % 23) 0

/-! The function states of R11 (00_scope.md). -/

abbrev Fn.absent : Nat := 0
abbrev Fn.stopped : Nat := 1
abbrev Fn.starting : Nat := 2
abbrev Fn.running : Nat := 3
abbrev Fn.stopping : Nat := 4
abbrev Fn.faulted : Nat := 5
abbrev Fn.retired : Nat := 6

/-- The state field of the function whose status register is at an offset (00_scope.md R11). -/
def fnState (s : State) (st : Nat) : Nat := getBits (rdReg s st) 0 3

/-- The function with its state field replaced. -/
def setFnState (s : State) (st v : Nat) : State :=
  wrReg s st (putBits (mapGet resetWord s.regs st) 0 3 v)

/-- The function with its fault code replaced. -/
def setFnCode (s : State) (st c : Nat) : State :=
  wrReg s st (putBits (mapGet resetWord s.regs st) 24 8 c)

/-- The function FAULTED with a code (00_scope.md R11). -/
def faultFn (s : State) (st c : Nat) : State := setFnState (setFnCode s st c) st Fn.faulted

/-- The sticky CFG_WRITE_REJECT bit of a function set (00_scope.md R5). -/
def rejectCfg (s : State) (st : Nat) : State :=
  wrReg s st (putBits (mapGet resetWord s.regs st) 15 1 1)

/-- The status register of the function that a register belongs to (00_scope.md R5, R11). -/
def ownerOf (o : Nat) : Option Nat :=
  match regAt o with
  | some (r, i, _) => r.owner.map (fun w =>
      match regAt w with
      | some (v, _, _) => if 1 < v.c1 then w + i * v.s1 else w
      | none => w)
  | none => none

/-- A row holds fields of an access type. -/
def RegRow.holds (r : RegRow) (a : Access) : Bool := r.fields.any (fun f => decide (f.acc = a))

/-- The function that a parity mismatch in a register stops: the owner of RWL fields, and, where a chapter says so, of RW
registers: the Calendar but for `CAL_SWITCH_TIME` and `CAL_CORE_SEL`, the fronthaul ports, the function register sets and
the journal (18_registers_mailbox.md R412; 03_calendar.md R84; 11_nr_baseband.md R287; 09_contexts_tenants.md R247;
14_journal_recovery.md R365). -/
def parityOwner (o : Nat) : Option Nat :=
  match regAt o with
  | none => none
  | some (r, _, _) =>
    if r.holds .rwl then ownerOf o
    else if 0x30000 ≤ o ∧ o < 0x40000 then
      if (0x30040 ≤ o ∧ o ≤ 0x30048) ∨ o = 0x30070 then none else some 0x30004
    else if (0x80000 ≤ o ∧ o < 0x100000) ∨ (0x64000 ≤ o ∧ o < 0x68040) then ownerOf o
    else if 0x3100000 ≤ o then some 0x3100004
    else none

/-- A parity mismatch stands in a register of a function: its START fails (18_registers_mailbox.md R413). The host interface
and the memory channels have rules of their own (09_contexts_tenants.md R247, 08_memory.md R224). -/
def parityHeld (s : State) (st : Nat) : Bool :=
  st != 0x60004 && !(decide (0x200000 ≤ st) && decide (st < 0x300000)) && s.upset.any (fun o => parityOwner o == some st)

/-- A START out of STOPPED: to STARTING, where the checks run, and on to RUNNING with the code DONE or, with a check's code,
to FAULTED; ignored in any other state (00_scope.md R442; 18_registers_mailbox.md R413; the code DONE: log 8). -/
def startFn (s : State) (st : Nat) (check : Option Nat) : State :=
  if fnState s st = Fn.stopped then
    let t := setFnState s st Fn.starting
    match (if parityHeld t st then some Code.configParity else check) with
    | none => setFnState (setFnCode t st Code.done) st Fn.running
    | some c => faultFn t st c
  else s

/-- A write has stored every protected field of a register: a mismatch that stood in it has ended (18_registers_mailbox.md
R412). -/
def rewritten (s : State) (o : Nat) : State :=
  { s with upset := s.upset.filter (· ≠ o), behaveReset := s.behaveReset.filter (· ≠ o) }

/-- The present elapsed Almanac time in whole nanoseconds, steps left out (01_architecture.md R24). -/
def nowNs (s : State) : Nat := s.clk.elapsed / 2 ^ 32

/-- N as a number. -/
def nowN (s : State) : Nat := s.clk.n.toNat

/-- A fresh index for a free value: the counter before and the state with it advanced. -/
def takeFree (s : State) : Nat × State := (s.freeIdx, { s with freeIdx := s.freeIdx + 1 })

/-- What the manufacturer's fuses say, stored in the registers that show it: the part, its enabled cores and the key's core
count, the disabled core of each cluster as ABSENT with its power domain off, and the serial number (00_scope.md R1, R2;
01_architecture.md R30; 18_registers_mailbox.md R416; 19_package_electrical.md R440). -/
def fused (s : State) : State :=
  let f := s.fuses
  let cut := (List.range 128).filter (fun n => f.cut.testBit n)
  let e := 128 - cut.length
  let s := s.set2 GLOBAL_SERIAL_LO GLOBAL_SERIAL_HI f.serial
  if cut.isEmpty then s
  else
    let s := s.set GLOBAL_ID.PART 0x9560
    let s := (s.set GLOBAL_CORES.ENABLED e).set GLOBAL_CORES.EFFECTIVE e
    let s := s.set GLOBAL_REPRO_KEY (s.get GLOBAL_REPRO_KEY / 2 ^ 8 * 2 ^ 8 + e)
    cut.foldl (fun s n =>
      let c := n / 8
      let r : Fld := ⟨(if c < 8 then GLOBAL_DISABLED_LO else GLOBAL_DISABLED_HI).off, 4 * (c % 8), 4, 0, 0⟩
      let d : Fld := ⟨PWR_DOM_ON.off + n / 32 * 4, n % 32, 1, 0, 0⟩
      setFnState ((s.set r (8 + n % 8)).set d 0) (CORE_ARR_STATUS.STATE.addr n) Fn.absent) s

/-- The block right after reset in a part with these fuses; `State.reset` is that of an EZ-9600 with serial number 0 (log
3). -/
def State.ofPart (f : Fuses) : State := fused { State.reset with fuses := f }

/-- A fold of a state operation over a list. -/
def forEach {α : Type} (l : List α) (f : State → α → State) (s : State) : State := l.foldl f s
/-! ## The mailbox operation in progress (18_registers_mailbox.md R420 to R422) -/

/-- The operation comes to its end with a code and results, to be published by MAILBOX_OPERATION_END (R422). -/
def mbxEnd (s : State) (code : Nat) (res : List Nat := []) : State :=
  if s.mbx.op.isSome ∧ s.mbx.code.isNone then { s with mbx := { s.mbx with code := some code, res := res } } else s

/-- An operation of an opcode is in progress and has not ended. -/
def mbxBusyWith (s : State) (op : Nat) : Bool := s.mbx.op == some op && s.mbx.code.isNone

/-- An argument of the operation in progress. -/
def mbxArg (s : State) (i : Nat) : Nat := s.mbx.args.getD i 0

/-- Two argument words as one number. -/
def mbxArg2 (s : State) (i : Nat) : Nat := mbxArg s i + mbxArg s (i + 1) * 2 ^ 32

end Sys2Proof.Machine
end

