-- ==== Sys2Proof/Machine/Operands.lean ====
section
/-! DEFINITION. Number formats and their exact values, rounding, and the element forms of operands (05_arithmetic.md). -/

namespace Sys2Proof.Machine

/-! ## Exact values -/

/-- A value as an operand carries it: a finite number m × 2^e, an infinity (true is negative), or NaN. -/
inductive Val where
  | fin (m : Int) (e : Int)
  | inf (neg : Bool)
  | nan
deriving DecidableEq, Repr

/-- m × 2^k, exact for k ≥ 0, truncated toward zero otherwise (R116). -/
def shiftTrunc (m k : Int) : Int := if 0 ≤ k then m * 2 ^ k.toNat else m.tdiv (2 ^ (-k).toNat)

/-- Whether the truncation to a multiple of 1 discards a non-zero bit. -/
def shiftLoses (m k : Int) : Bool := decide (k < 0) && decide (m.tmod (2 ^ (-k).toNat) ≠ 0)

/-- The exact sum of two finite values. -/
def addExact (m1 e1 m2 e2 : Int) : Int × Int :=
  let e := min e1 e2
  (m1 * 2 ^ (e1 - e).toNat + m2 * 2 ^ (e2 - e).toNat, e)

/-! ## Binary floating-point formats (R112, R121) -/

/-- A floating-point format: bits of the significand with the hidden one, exponent of the smallest subnormal, the pattern of
the largest finite value, the width, the canonical NaN, and the pattern of +Inf where there is one. -/
structure FFmt where
  prec : Nat
  eMin : Int
  maxBits : Nat
  width : Nat
  nanBits : Nat
  infBits : Option Nat
deriving DecidableEq, Repr

abbrev FFmt.fp32 : FFmt := ⟨24, -149, 0x7F7FFFFF, 32, 0x7FC00000, some 0x7F800000⟩
abbrev FFmt.bf16 : FFmt := ⟨8, -133, 0x7F7F, 16, 0x7FC0, some 0x7F80⟩
abbrev FFmt.fp16 : FFmt := ⟨11, -24, 0x7BFF, 16, 0x7E00, some 0x7C00⟩
abbrev FFmt.e4m3 : FFmt := ⟨4, -9, 0x7E, 8, 0x7F, none⟩
abbrev FFmt.e5m2 : FFmt := ⟨3, -16, 0x7B, 8, 0x7E, some 0x7C⟩
abbrev FFmt.e3m2 : FFmt := ⟨3, -4, 0x1F, 6, 0, none⟩
abbrev FFmt.e2m3 : FFmt := ⟨4, -3, 0x1F, 6, 0, none⟩
abbrev FFmt.e2m1 : FFmt := ⟨2, -1, 0x7, 4, 0, none⟩

/-- The value of a bit pattern of a format (R112): above the largest finite pattern lie the infinity, if any, and NaN. -/
def FFmt.decode (f : FFmt) (x : Nat) : Val :=
  let neg := decide (x / 2 ^ (f.width - 1) % 2 = 1)
  let mag := x % 2 ^ (f.width - 1)
  if mag ≤ f.maxBits then
    let ex := mag / 2 ^ (f.prec - 1)
    let fr := mag % 2 ^ (f.prec - 1)
    let m : Nat := if ex = 0 then fr else 2 ^ (f.prec - 1) + fr
    let e : Int := if ex = 0 then f.eMin else f.eMin + ex - 1
    .fin (if neg then -(m : Int) else m) e
  else if f.infBits = some mag then .inf neg
  else .nan

/-- The rounding modes of R124. -/
inductive Rnd where
  | rne | rtz | rdn | rup
  | stoch (u : Nat)
deriving DecidableEq, Repr

/-- A magnitude q × 2^k rounded to a whole number (R124, R125). -/
def roundMag (r : Rnd) (neg : Bool) (q : Nat) (k : Int) : Nat :=
  if 0 ≤ k then q * 2 ^ k.toNat
  else
    let d := 2 ^ (-k).toNat
    let w := q / d
    let rest := q % d
    match r with
    | .rne => if 2 * rest > d ∨ (2 * rest = d ∧ w % 2 = 1) then w + 1 else w
    | .rtz => w
    | .rdn => if neg ∧ rest ≠ 0 then w + 1 else w
    | .rup => if !neg ∧ rest ≠ 0 then w + 1 else w
    | .stoch u => w + (rest * 2 ^ 24 / d + u) / 2 ^ 24

/-- The exponent of the unit in the last place of a format at a finite non-zero value (R125). -/
def FFmt.ulpExp (f : FFmt) (m e : Int) : Int :=
  max (e + Nat.log2 m.natAbs - (f.prec - 1)) f.eMin

/-- The magnitude bits of a finite value rounded to a format, without regard to overflow. -/
def FFmt.roundBits (f : FFmt) (r : Rnd) (m e : Int) : Nat :=
  if m = 0 then 0
  else
    let u := f.ulpExp m e
    let q := roundMag r (decide (m < 0)) m.natAbs (e - u)
    if q < 2 ^ (f.prec - 1) then q
    else (u - f.eMin + 1).toNat * 2 ^ (f.prec - 1) + q - 2 ^ (f.prec - 1)

/-- A pattern with a sign. -/
def FFmt.signed (f : FFmt) (neg : Bool) (mag : Nat) : Nat := if neg then mag + 2 ^ (f.width - 1) else mag

/-- Whether two finite values are equal. -/
def sameFin (m1 e1 m2 e2 : Int) : Bool :=
  let e := min e1 e2
  decide (m1 * 2 ^ (e1 - e).toNat = m2 * 2 ^ (e2 - e).toNat)

/-! ## FP32 sums of the 16-bit group (R119) -/

/-- The flags of R132 as bits: 1 INEXACT, 2 OVERFLOW, 4 INVALID, 8 ADDEND_CLIPPED, 16 DRAIN_INEXACT, 32 DRAIN_OVERFLOW,
64 CONV_SAT. -/
abbrev Flg := Nat

/-- A finite value rounded to FP32, to nearest even; beyond the largest finite value it is an infinity with OVERFLOW and
INEXACT (R119). -/
def fp32Round (m e : Int) : Val × Flg :=
  let b := FFmt.fp32.roundBits .rne m e
  if FFmt.fp32.maxBits < b then (.inf (decide (m < 0)), 3)
  else
    match FFmt.fp32.decode (FFmt.fp32.signed (decide (m < 0)) b) with
    | .fin m' e' => (.fin m' e', if sameFin m e m' e' then 0 else 1)
    | v => (v, 0)

/-- One FP32 addition (R119). -/
def fp32Add (a b : Val) : Val × Flg :=
  match a, b with
  | .nan, _ => (.nan, 0)
  | _, .nan => (.nan, 0)
  | .inf x, .inf y => if x = y then (.inf x, 0) else (.nan, 4)
  | .inf x, .fin _ _ => (.inf x, 0)
  | .fin _ _, .inf y => (.inf y, 0)
  | .fin m1 e1, .fin m2 e2 => let p := addExact m1 e1 m2 e2; fp32Round p.1 p.2

/-- The exact product of two values; NaN sets INVALID where it arises (R118, R119). -/
def mulVal (a b : Val) : Val × Flg :=
  match a, b with
  | .nan, _ => (.nan, 4)
  | _, .nan => (.nan, 4)
  | .inf x, .inf y => (.inf (x != y), 0)
  | .inf x, .fin m _ => if m = 0 then (.nan, 4) else (.inf (x != decide (m < 0)), 0)
  | .fin m _, .inf y => if m = 0 then (.nan, 4) else (.inf (y != decide (m < 0)), 0)
  | .fin m1 e1, .fin m2 e2 => (.fin (m1 * m2) (e1 + e2), 0)

/-- One product of the 16-bit group, formed and rounded alone into FP32 (R119). -/
def fp32Mul (a b : Val) : Val × Flg :=
  match mulVal a b with
  | (.fin m e, g) => let r := fp32Round m e; (r.1, r.2 ||| g)
  | p => p

/-- One level of the pairwise tree: neighbours added (R119). -/
def pairAdd : List (Val × Flg) → List (Val × Flg)
  | a :: b :: t => let r := fp32Add a.1 b.1; (r.1, r.2 ||| a.2 ||| b.2) :: pairAdd t
  | l => l

/-- The pairwise tree over 2^n values (R119). -/
def treeAdd : Nat → List (Val × Flg) → Val × Flg
  | 0, l => l.headD (.fin 0 0, 0)
  | n + 1, l => treeAdd n (pairAdd l)

/-! ## Element formats (R110) -/

/-- The groups of R110. -/
inductive Grp where
  | g8 | g4 | g16 | c8 | c16
deriving DecidableEq, Repr

/-- The group of an element format code; none where the code is reserved (R110). -/
def grpOf : Nat → Option Grp
  | 0x00 | 0x01 | 0x02 | 0x03 | 0x04 | 0x05 | 0x06 | 0x07 => some .g8
  | 0x08 | 0x09 => some .g4
  | 0x0A | 0x0B => some .g16
  | 0x0C => some .c8
  | 0x0D => some .c16
  | _ => none

/-- Bits per element in store (R110). -/
def elemBits : Nat → Nat
  | 0x08 | 0x09 => 4
  | 0x0A | 0x0B | 0x0C => 16
  | 0x0D => 32
  | _ => 8

/-- Whether a format is scaled by blocks (R110). -/
def isMx (c : Nat) : Bool := [3, 4, 5, 6, 7, 9].elem c

/-- The cell depth of a group (R85). -/
def Grp.depth : Grp → Nat
  | .g8 => 32 | .g4 => 64 | .g16 => 16 | .c8 => 8 | .c16 => 4

/-- A two's-complement number of `w` bits. -/
def sint (w x : Nat) : Int := if x % 2 ^ w < 2 ^ (w - 1) then x % 2 ^ w else (x % 2 ^ w : Nat) - 2 ^ w

/-- The value of an element of a real format (R112). -/
def elemVal (c x : Nat) : Val :=
  match c with
  | 0x00 => .fin (sint 8 x) 0
  | 0x01 | 0x04 => FFmt.e4m3.decode x
  | 0x02 | 0x05 => FFmt.e5m2.decode x
  | 0x03 => .fin (sint 8 x) (-6)
  | 0x06 => FFmt.e3m2.decode (x % 64)
  | 0x07 => FFmt.e2m3.decode (x % 64)
  | 0x08 => .fin (sint 4 x) 0
  | 0x09 => FFmt.e2m1.decode x
  | 0x0A => FFmt.bf16.decode x
  | 0x0B => FFmt.fp16.decode x
  | _ => .fin 0 0

/-- The parts of a complex element, each a signed integer (R113). -/
def elemCplx (c x : Nat) : Int × Int :=
  if c = 0x0C then (sint 8 x, sint 8 (x / 2 ^ 8)) else (sint 16 x, sint 16 (x / 2 ^ 16))

/-- A number read from `n` bytes, lowest address least significant (R113). -/
def readLe (rd : Nat → Nat) (a : Nat) : Nat → Nat
  | 0 => 0
  | n + 1 => rd a + 2 ^ 8 * readLe rd (a + 1) n

/-- The bits of element i of a run that starts at an address (R113). -/
def elemAt (rd : Nat → Nat) (bits a i : Nat) : Nat :=
  if bits = 4 then (if i % 2 = 0 then rd (a + i / 2) % 16 else rd (a + i / 2) / 16)
  else readLe rd (a + i * (bits / 8)) (bits / 8)

/-! ## Block scales (R114, R115) -/

/-- The exponent of an E8M0 byte; none for NaN (R115). -/
def scaleExp (b : Nat) : Option Int := if b = 0xFF then none else some ((b : Int) - 127)

/-! ## Addend and output formats (R121) -/

/-- The floating-point format of an output or addend code. -/
def outFmt : Nat → Option FFmt
  | 0x0 => some .fp32
  | 0x1 => some .bf16
  | 0x2 => some .fp16
  | 0x3 => some .e4m3
  | 0x4 => some .e5m2
  | _ => none

/-- The width in bits of an integer output or addend code; 0 where it is none. -/
def outInt : Nat → Nat
  | 0x5 => 32 | 0x6 => 16 | 0x7 => 8 | _ => 0

/-- Bytes per element of an output or addend code (R121). -/
def outBytes : Nat → Nat
  | 0x0 => 4 | 0x1 => 2 | 0x2 => 2 | 0x3 => 1 | 0x4 => 1 | 0x5 => 4 | 0x6 => 2 | 0x7 => 1 | 0x8 => 16 | 0x9 => 4
  | 0xA => 8 | 0xB => 8 | 0xC => 16 | _ => 0

/-- Whether a code is an output code of a group (R121). -/
def outValid (g : Grp) (c : Nat) : Bool :=
  match g with
  | .g8 | .g4 => decide (c ≤ 8)
  | .g16 => decide (c ≤ 4)
  | .c8 | .c16 => decide (9 ≤ c ∧ c ≤ 12)

/-- Whether a code is an addend code of a group, or names none (R121). -/
def addValid (g : Grp) (c : Nat) : Bool :=
  decide (c = 15) ||
  match g with
  | .g8 | .g4 => decide (c ≤ 8)
  | .g16 => decide (c ≤ 2)
  | .c8 | .c16 => decide (9 ≤ c ∧ c ≤ 12)

/-- The value of a real addend or partial, ACC96 apart (R121). -/
def addVal (c x : Nat) : Val :=
  match outFmt c with
  | some f => f.decode x
  | none => if outInt c = 0 then .fin 0 0 else .fin (sint (outInt c) x) 0

/-- `n` bytes of a number, least significant first (R113). -/
def bytesLe : Nat → Nat → Bytes
  | 0, _ => []
  | n + 1, x => BitVec.ofNat 8 x :: bytesLe n (x / 2 ^ 8)

/-- The number that bytes hold, least significant first. -/
def leNat : Bytes → Nat
  | [] => 0
  | b :: t => b.toNat + 2 ^ 8 * leNat t

end Sys2Proof.Machine
end

