-- ==== Sys2Proof/Machine/Flags.lean ====
section
/-! DEFINITION. The cells, the drain and the flags they raise (05_arithmetic.md R116 to R134). -/

namespace Sys2Proof.Machine

/-! ## Special states (R118) -/

/-- A cell's special state. -/
inductive Spec where
  | none | pInf | nInf | nan
deriving DecidableEq, Repr

/-- A special state after a value that is an infinity or NaN arrives; infinities of both signs meeting set INVALID. -/
def Spec.meet (st : Spec) : Val → Spec × Flg
  | .fin _ _ => (st, 0)
  | .nan => (.nan, 0)
  | .inf neg =>
    match st with
    | .none => (if neg then .nInf else .pInf, 0)
    | .pInf => if neg then (.nan, 4) else (.pInf, 0)
    | .nInf => if neg then (.nInf, 0) else (.nan, 4)
    | .nan => (.nan, 0)

/-! ## The exact accumulator (R116, R117) -/

/-- A number held to a range of `w` bits in two's complement: the value, and whether it had to be held. -/
def satTo (w : Nat) (x : Int) : Int × Bool :=
  let lo : Int := -(2 ^ (w - 1))
  let hi : Int := 2 ^ (w - 1) - 1
  if x < lo then (lo, true) else if hi < x then (hi, true) else (x, false)

/-- One accumulator: its value, whether it holds a bound for the rest of the pass, its special state, the flags raised. -/
structure Acc where
  a : Int := 0
  stuck : Bool := false
  st : Spec := .none
  fl : Flg := 0
deriving DecidableEq, Repr

/-- One term, a scaled product, as a multiple of 2^-P, with the flag for lost bits (R116). -/
def term (p m e : Int) : Int × Flg := (shiftTrunc m (e + p), if shiftLoses m (e + p) then 1 else 0)

/-- The terms of one slab entered in an accumulator of `w` bits (R116 to R118). -/
def Acc.slab (w : Nat) (p : Int) (c : Acc) (products : List (Val × Flg)) : Acc :=
  let r := products.foldl (fun (acc : Int × Acc) v =>
    match v.1 with
    | .fin m e => let t := term p m e; (acc.1 + t.1, { acc.2 with fl := acc.2.fl ||| t.2 ||| v.2 })
    | x => let t := acc.2.st.meet x; (acc.1, { acc.2 with st := t.1, fl := acc.2.fl ||| t.2 ||| v.2 })) (0, c)
  if c.stuck then r.2
  else
    let s := satTo w (c.a + r.1)
    { r.2 with a := s.1, stuck := s.2, fl := if s.2 then r.2.fl ||| 2 else r.2.fl }

/-- An addend entered before slab 0 in an accumulator of `w` bits (R122). -/
def Acc.addend (w : Nat) (p : Int) (v : Val) : Acc :=
  match v with
  | .fin m e =>
    let s := satTo w (shiftTrunc m (e + p))
    { a := s.1, stuck := s.2, fl := if s.2 ∨ shiftLoses m (e + p) then 8 else 0 }
  | .inf neg => { st := if neg then .nInf else .pInf }
  | .nan => { st := .nan }

/-- An infinite or NaN part of a complex addend: the bound of its sign, or zero (R122). -/
def Acc.addendPart (p : Int) (v : Val) : Acc :=
  match v with
  | .fin _ _ => Acc.addend 48 p v
  | .inf neg => { a := if neg then -(2 ^ 47) else 2 ^ 47 - 1, stuck := true, fl := 8 }
  | .nan => { fl := 8 }

/-- An ACC96 image read back: a state word of 1, 2 or 3 gives that state (R121). -/
def Acc.ofAcc96 (x : Nat) : Acc :=
  match x / 2 ^ 96 % 2 ^ 32 with
  | 1 => { st := .pInf }
  | 2 => { st := .nInf }
  | 3 => { st := .nan }
  | _ => { a := sint 96 x }

/-- The ACC96 image of an accumulator (R121). -/
def Acc.toAcc96 (c : Acc) : Nat :=
  match c.st with
  | .none => (c.a % 2 ^ 128).toNat
  | .pInf => 2 ^ 96
  | .nInf => 2 * 2 ^ 96
  | .nan => 3 * 2 ^ 96

/-! ## The drain (R123) -/

/-- A finite value drained into a floating-point format (R123 steps 5 to 8). -/
def drainFloat (f : FFmt) (r : Rnd) (m e : Int) : Nat × Flg :=
  let neg := decide (m < 0)
  let b := f.roundBits r m e
  if f.maxBits < b then (f.signed neg f.maxBits, 48)
  else if b = 0 then (0, if m = 0 then 0 else 16)
  else
    match f.decode (f.signed neg b) with
    | .fin m' e' => (f.signed neg b, if sameFin m e m' e' then 0 else 16)
    | _ => (f.signed neg b, 0)

/-- A finite value drained into an integer of `w` bits (R123 steps 5 to 8). -/
def drainInt (w : Nat) (r : Rnd) (m e : Int) : Nat × Flg :=
  let neg := decide (m < 0)
  let q := roundMag r neg m.natAbs e
  let x : Int := if neg then -(q : Int) else q
  let top : Int := 2 ^ (w - 1) - 1
  let y := if x < -(top + 1) then -(top + 1) else if top < x then top else x
  ((y % 2 ^ w).toNat, (if y ≠ x then 32 else 0) ||| (if sameFin m e y 0 then 0 else 16))

/-- A value drained into a real output code (R123 steps 3 to 8). -/
def drainVal (c : Nat) (r : Rnd) : Val → Nat × Flg
  | .fin m e =>
    match outFmt c with
    | some f => drainFloat f r m e
    | none => drainInt (outInt c) r m e
  | .nan =>
    match outFmt c with
    | some f => (f.nanBits, 0)
    | none => (0, 4)
  | .inf neg =>
    match outFmt c with
    | some f =>
      match f.infBits with
      | some b => (f.signed neg b, 0)
      | none => (f.signed neg f.maxBits, 32)
    | none => (if neg then 2 ^ (outInt c - 1) else 2 ^ (outInt c - 1) - 1, 32)

/-- The value that an accumulator holds, with the output shift (R123 step 2). -/
def Acc.value (c : Acc) (p eOut : Int) : Val :=
  match c.st with
  | .none => .fin c.a (eOut - p)
  | .pInf => .inf false
  | .nInf => .inf true
  | .nan => .nan

/-- The drained element of a real cell and the flags of the whole cell (R123, R131). -/
def Acc.drain (c : Acc) (p eOut : Int) (ofmt : Nat) (r : Rnd) : Nat × Flg :=
  if ofmt = 8 then (c.toAcc96, c.fl)
  else
    let d := drainVal ofmt r (c.value p eOut)
    (d.1, d.2 ||| c.fl)

/-- A value with the output shift of the 16-bit group (R123 step 2). -/
def shiftVal (eOut : Int) : Val → Val
  | .fin m e => .fin m (e + eOut)
  | v => v

/-- The drained element of a complex cell (R123): each half converts alone. -/
def drainCplx (re im : Acc) (p eOut : Int) (ofmt : Nat) (r : Rnd) : Nat × Flg :=
  let one (c : Acc) : Nat × Flg × Nat :=
    if ofmt = 9 then let d := drainInt 16 r c.a (eOut - p); (d.1, d.2, 16)
    else if ofmt = 10 then let d := drainInt 32 r c.a (eOut - p); (d.1, d.2, 32)
    else if ofmt = 11 then let d := drainFloat .fp32 r c.a (eOut - p); (d.1, d.2, 32)
    else ((c.a % 2 ^ 48).toNat, 0, 48)
  let x := one re
  let y := one im
  (x.1 + y.1 * 2 ^ x.2.2, x.2.1 ||| y.2.1 ||| re.fl ||| im.fl)

/-! ## Stochastic rounding (R125) -/

/-- The 24-bit value of the generator (R125). -/
def srU (seed pass i j : Nat) : Nat :=
  let m := 2 ^ 64
  let z := (seed * 0x9E3779B97F4A7C15 % m) ^^^ ((pass * 2 ^ 10 ||| i * 2 ^ 5 ||| j) % m)
  let z := (z ^^^ (z / 2 ^ 31)) * 0xBF58476D1CE4E5B9 % m
  let z := (z ^^^ (z / 2 ^ 27)) * 0x94D049BB133111EB % m
  let z := z ^^^ (z / 2 ^ 31)
  z / 2 ^ 40

/-- The rounding mode of a mode code; the draw is used by STOCH alone (R124). -/
def rndOf (code u : Nat) : Rnd :=
  match code with
  | 0 => .rne
  | 1 => .rtz
  | 2 => .rdn
  | 3 => .rup
  | _ => .stoch u

/-! ## Block floating point of the user plane (R129, R130) -/

/-- The mantissa width of a BFPW code; 16 is no compression (06_core_streams.md R159). -/
def bfpWidth : Nat → Nat
  | 0 => 8 | 1 => 9 | 2 => 12 | 3 => 14 | _ => 16

/-- Bytes of one resource block of 12 complex samples in the user plane: an exponent byte and 24 mantissas, or 24 parts of 16
bits. PRESUMED (log 42): R130 gives no bytes but 'the bit order of the O-RAN user plane'. -/
def prbBytes (w : Nat) : Nat := if w = 16 then 48 else 1 + 3 * w

/-- The bits of bytes, most significant first, as a number. -/
def beNat : Bytes → Nat
  | [] => 0
  | b :: t => b.toNat * 2 ^ (8 * t.length) + beNat t

/-- The mantissas of a block: 24 numbers of w bits from the most significant end. -/
def mantissas (w x : Nat) : List Int :=
  (List.range 24).map (fun i => sint w (x / 2 ^ (w * (23 - i))))

/-- A part held to 16 bits on expansion. -/
def expandPart (e : Nat) (m : Int) : Int × Flg :=
  let s := satTo 16 (m * 2 ^ e)
  (s.1, if s.2 then 64 else 0)

/-- One resource block expanded to 24 parts of 16 bits, little-endian (R130). PRESUMED (log 42): the exponent is in the low four
bits of the first byte, whose high four are ignored. -/
def bfpExpand (w : Nat) (b : Bytes) : Bytes × Flg :=
  if w = 16 then ((List.range 24).flatMap (fun i => [b.getD (2 * i + 1) 0, b.getD (2 * i) 0]), 0)
  else
    let e := (b.headD 0).toNat % 16
    let l := (mantissas w (beNat b.tail)).map (expandPart e)
    (l.flatMap (fun p => bytesLe 2 (p.1 % 2 ^ 16).toNat), l.foldl (fun f p => f ||| p.2) 0)

/-- The smallest length in bits that holds a signed number. -/
def signedLen (x : Int) : Nat :=
  let m := if x < 0 then (-x - 1).toNat else x.toNat
  if m = 0 then 1 else Nat.log2 m + 2

/-- A part divided by 2^e, to nearest with ties away from zero. -/
def divRound (x : Int) (e : Nat) : Int :=
  if e = 0 then x
  else if 0 ≤ x then (x + 2 ^ (e - 1)) / 2 ^ e else -((-x + 2 ^ (e - 1)) / 2 ^ e)

/-- One resource block of 24 parts compressed to a width (R130). PRESUMED (log 42): the first byte holds the exponent, its high
four bits 0. -/
def bfpCompress (w : Nat) (b : Bytes) : Bytes × Flg :=
  if w = 16 then ((List.range 24).flatMap (fun i => [b.getD (2 * i + 1) 0, b.getD (2 * i) 0]), 0)
  else
    let parts := (List.range 24).map (fun i => sint 16 (leNat [b.getD (2 * i) 0, b.getD (2 * i + 1) 0]))
    let len := parts.foldl (fun n x => max n (signedLen x)) 1
    let e := len - w
    let l := parts.map (fun x => satTo w (divRound x e))
    let bits := l.foldl (fun n p => n * 2 ^ w + (p.1 % 2 ^ w).toNat) 0
    (BitVec.ofNat 8 e :: (bytesLe (3 * w) bits).reverse, if l.any (·.2) then 64 else 0)

/-! ## Combination of partials (R134) -/

/-- The sum of two accumulators' values, saturating (R134, R117). -/
def Acc.combine (w : Nat) (x y : Acc) : Acc :=
  let s := satTo w (x.a + y.a)
  let st : Spec × Flg :=
    match x.st, y.st with
    | .nan, _ => (.nan, 0)
    | _, .nan => (.nan, 0)
    | .pInf, .nInf => (.nan, 4)
    | .nInf, .pInf => (.nan, 4)
    | .none, z => (z, 0)
    | z, _ => (z, 0)
  { a := s.1, stuck := s.2, st := st.1, fl := st.2 ||| (if s.2 then 2 else 0) }

/-- The exact sum of two values; infinities of both signs meeting set INVALID (R134). -/
def addVals (a b : Val) : Val × Flg :=
  match a, b with
  | .nan, _ => (.nan, 0)
  | _, .nan => (.nan, 0)
  | .inf x, .inf y => if x = y then (.inf x, 0) else (.nan, 4)
  | .inf x, .fin _ _ => (.inf x, 0)
  | .fin _ _, .inf y => (.inf y, 0)
  | .fin m1 e1, .fin m2 e2 => let p := addExact m1 e1 m2 e2; (.fin p.1 p.2, 0)

/-- Two real partials of a format combined (R134). -/
def combineReal (c x y : Nat) : Nat × Flg :=
  if c = 8 then
    let r := Acc.combine 96 (Acc.ofAcc96 x) (Acc.ofAcc96 y)
    (r.toAcc96, r.fl)
  else if c = 0 then
    let r := fp32Add (FFmt.fp32.decode x) (FFmt.fp32.decode y)
    let d := drainVal 0 .rne r.1
    (d.1, r.2)
  else
    let r := addVals (addVal c x) (addVal c y)
    let d := drainVal c .rne r.1
    (d.1, d.2 ||| r.2)

/-- Two complex partials of a format combined, each part alone; CACC96 as exact integers (R134). -/
def combineCplx (c x y : Nat) : Nat × Flg :=
  let part (i : Nat) : Nat × Flg :=
    if c = 12 then
      let t := satTo 48 (sint 48 (x / 2 ^ (48 * i)) + sint 48 (y / 2 ^ (48 * i)))
      ((t.1 % 2 ^ 48).toNat, if t.2 then 2 else 0)
    else
      let w := if c = 9 then 16 else 32
      let k := if c = 9 then 6 else if c = 10 then 5 else 0
      let r := addVals (addVal k (x / 2 ^ (w * i) % 2 ^ w)) (addVal k (y / 2 ^ (w * i) % 2 ^ w))
      let d := drainVal k .rne r.1
      (d.1, d.2 ||| r.2)
  let w := if c = 9 then 16 else if c = 12 then 48 else 32
  ((part 0).1 + (part 1).1 * 2 ^ w, (part 0).2 ||| (part 1).2)

/-- Two partials of a format combined (R134). -/
def combinePart (c x y : Nat) : Nat × Flg := if 9 ≤ c ∧ c ≤ 12 then combineCplx c x y else combineReal c x y

end Sys2Proof.Machine
end

