-- ==== Sys2Proof/Machine/Store.lean ====
section
/-! DEFINITION. The named operations over memory: bytes, poison, the stripe map, the device memory with its context records
and its encrypted windows (08_memory.md R201 to R214, 09_contexts_tenants.md R226, R239). -/

namespace Sys2Proof.Machine

/-- What an unlisted byte of any memory reads as. -/
def byte0 : Nat → Byte := fun _ => 0

/-- What an unlisted granule is: not poisoned. -/
def clean0 : Nat → Bool := fun _ => false

/-- A byte of a memory. -/
def rdM (m : SMap Byte) (a : Nat) : Byte := mapGet byte0 m a

/-- A byte written. -/
def wrM (m : SMap Byte) (a : Nat) (b : Byte) : SMap Byte := mapPut byte0 m a b

/-- Bytes read from an address upward. -/
def rdBytes (m : SMap Byte) (a : Nat) : Nat → Bytes
  | 0 => []
  | n + 1 => rdM m a :: rdBytes m (a + 1) n

/-- Bytes written from an address upward. -/
def wrBytes (m : SMap Byte) (a : Nat) : Bytes → SMap Byte
  | [] => m
  | b :: t => wrBytes (wrM m a b) (a + 1) t

/-- The entries of a store whose keys lie outside a range. -/
def mapDropRange {V : Type} (m : SMap V) (lo hi : Nat) : SMap V := m.filter (fun p => !(decide (lo ≤ p.1) && decide (p.1 < hi)))

/-- The 64-byte granules that a range of bytes touches (R213). -/
def granules (a n : Nat) : List Nat :=
  if n = 0 then [] else (List.range ((a + n - 1) / 64 - a / 64 + 1)).map (· + a / 64)

/-- Whether a range touches a poisoned granule. -/
def poisonedIn (p : SMap Bool) (a n : Nat) : Bool := (granules a n).any (fun g => mapGet clean0 p g)

/-- The poison marks after a write of `n` bytes: poisoned data marks, a whole granule written clean clears, a partial clean
write leaves (R213). -/
def poisonWrite (p : SMap Bool) (a n : Nat) (bad : Bool) : SMap Bool :=
  (granules a n).foldl (fun p g =>
    if bad then mapPut clean0 p g true
    else if a ≤ 64 * g ∧ 64 * g + 64 ≤ a + n then mapPut clean0 p g false else p) p

/-! ## Tables of cores, contexts, functions -/

/-- Core n. -/
def coreAt (s : State) (n : Nat) : Core := mapGet (fun _ => {}) s.cores n

/-- The state with core n replaced. -/
def setCore (s : State) (n : Nat) (x : Core) : State := { s with cores := mapPut (fun _ => {}) s.cores n x }

/-- Context x. -/
def ctxAt (s : State) (x : Nat) : Ctx := mapGet (fun _ => {}) s.ctxs x

/-- The state with context x replaced. -/
def setCtx (s : State) (x : Nat) (c : Ctx) : State := { s with ctxs := mapPut (fun _ => {}) s.ctxs x c }

/-- Group g. -/
def groupAt (s : State) (g : Nat) : Group := mapGet (fun _ => {}) s.groups g

/-- The state with group g replaced. -/
def setGroup (s : State) (g : Nat) (x : Group) : State := { s with groups := mapPut (fun _ => {}) s.groups g x }

/-- Function set f. -/
def fnAt (s : State) (f : Nat) : FnSet := mapGet (fun _ => {}) s.fns f

/-- The state with function set f replaced. -/
def setFn (s : State) (f : Nat) (x : FnSet) : State := { s with fns := mapPut (fun _ => {}) s.fns f x }

/-- Window w of function f. -/
def winAt (s : State) (f w : Nat) : Win := mapGet (fun _ => {}) s.wins (16 * f + w)

/-- The state with window w of function f replaced. -/
def setWin (s : State) (f w : Nat) (x : Win) : State := { s with wins := mapPut (fun _ => {}) s.wins (16 * f + w) x }

/-- Serving slot j. -/
def sjAt (s : State) (j : Nat) : Sj := mapGet (fun _ => {}) s.sjs j

/-- The state with serving slot j replaced. -/
def setSj (s : State) (j : Nat) (x : Sj) : State := { s with sjs := mapPut (fun _ => {}) s.sjs j x }

/-- Slot c of a core. -/
def Core.slot (k : Core) (c : Nat) : Slot := mapGet (fun _ => {}) k.slots c

/-- The core with slot c replaced. -/
def Core.setSlot (k : Core) (c : Nat) (x : Slot) : Core := { k with slots := mapPut (fun _ => {}) k.slots c x }

/-- Stream s of a pointer record. -/
def Pointers.stream (p : Pointers) (i : Nat) : Stream := mapGet (fun _ => {}) p.streams i

/-- The pointers with stream s replaced. -/
def Pointers.setStream (p : Pointers) (i : Nat) (x : Stream) : Pointers :=
  { p with streams := mapPut (fun _ => {}) p.streams i x }

/-- Data queue q of a pointer record. -/
def Pointers.dataq (p : Pointers) (q : Nat) : DataQ := mapGet (fun _ => {}) p.dataqs q

/-- The pointers with data queue q replaced. -/
def Pointers.setDataq (p : Pointers) (q : Nat) (x : DataQ) : Pointers :=
  { p with dataqs := mapPut (fun _ => {}) p.dataqs q x }

/-- Core token counter i of a context. -/
def Pointers.token (p : Pointers) (i : Nat) : Nat := mapGet (fun _ => 0) p.tokens i

/-- The pointers with a token counter replaced. -/
def Pointers.setToken (p : Pointers) (i v : Nat) : Pointers := { p with tokens := mapPut (fun _ => 0) p.tokens i v }

/-- The present core cycle: five halves of the elapsed ticks of 500 MHz, whatever the increment (01_architecture.md R22, R23;
log 324). -/
def cycleNow (s : State) : Nat := s.clk.ticks * 5 / 2

/-- Core cycles in whole nanoseconds, rounded up. -/
def cyclesNs (c : Nat) : Nat := (c * 4 + 4) / 5

/-- The device's own node number (13_filigree.md R307). -/
def ownNode (s : State) : Nat := s.get FIL_NODE

/-- The end of device memory, bytes (08_memory.md R203). -/
def memTop (s : State) : Nat := s.get MEM_TOP * 2 ^ 30

/-! ## Context records (09_contexts_tenants.md R226) -/

/-- The pointer record's 128 bytes; the order of its parts is the model's (log 13). -/
def pointerBytes (p : Pointers) : Bytes :=
  ((List.range 4).flatMap (fun i =>
    let st := p.stream i
    bytesLe 2 st.pc ++ bytesLe 1 (st.dynHead % 64) ++ bytesLe 1 ((st.dynHead + st.dynq.length) % 64) ++
      bytesLe 6 st.count ++ bytesLe 2 st.dynLeft ++ bytesLe 2 (st.parked.getD 0xFFFF) ++ bytesLe 2 0)) ++
  ((List.range 4).flatMap (fun q => let d := p.dataq q; bytesLe 2 (d.freed % 16) ++ bytesLe 2 (d.pushed % 16))) ++
  bytesLe 16 0 ++ ((List.range 16).flatMap (fun i => bytesLe 2 (p.token i)))

/-- A dynamic queue as the ring of 32 entries of its record. -/
def dynqBytes (st : Stream) : Bytes :=
  (List.range 32).flatMap (fun k =>
    bytesLe 8 ((st.dynq.getD ((k + 32 - st.dynHead % 32) % 32) 0).toNat))

/-- The function number as the record holds it. -/
def fnField (f : Nat) : Nat := if f = 256 then 0x100 else f

/-- The bytes of a context record up to 0x0B0. -/
def ctxHead (x : Ctx) : Bytes :=
  pointerBytes x.saved ++ bytesLe 4 x.flags ++ bytesLe 1 x.state ++ bytesLe 1 x.code ++ bytesLe 2 x.tag ++
  bytesLe 1 (x.img.cls + 4 * x.img.pacing + (if x.img.debug then 8 else 0) + (if x.pin then 16 else 0)) ++
  bytesLe 1 (x.rank / 256) ++ bytesLe 1 x.rank ++ bytesLe 1 0 ++ bytesLe 2 (fnField x.fn) ++ bytesLe 2 x.group ++
  bytesLe 4 x.img.id.toNat ++ bytesLe 4 x.img.key.toNat ++ bytesLe 8 x.progress ++ bytesLe 8 x.imageAddr ++
  bytesLe 2 (x.core.getD 0xFFFF)

/-- One byte of a context record (R226); a FREE number's record reads zero. -/
def ctxRecByte (x : Ctx) (o : Nat) : Byte :=
  if x.state = 0 then 0
  else if o < 0x100 then (ctxHead x).getD o 0
  else if o < 0x500 then (dynqBytes (x.live.stream ((o - 0x100) / 0x100))).getD ((o - 0x100) % 0x100) 0
  else if o < 0x520 then BitVec.ofNat 8 ((x.img.queues.getD ((o - 0x500) / 8) 0).toNat / 2 ^ (8 * (o % 8)))
  else if o < 0x560 then BitVec.ofNat 8 (x.img.tokens.getD ((o - 0x520) / 4) 0 / 2 ^ (8 * (o % 4)))
  else 0

/-! ## Device memory -/

/-- One stored byte of device memory; a context record shows the context (R202, R226). -/
def devByte (s : State) (a : Nat) : Byte :=
  if 0x54000000 ≤ a ∧ a < 0x55000000 then ctxRecByte (ctxAt s ((a - 0x54000000) / 4096)) (a % 4096)
  else rdM s.mems.dev a

/-- A device-memory offset as a window's base counts it: a GLOBAL window names it through this device's own node (R238). -/
def Win.place (w : Win) (own a : Nat) : Nat := if w.isGlobal then own * 2 ^ 47 + a else a

/-- Whether a window, or the part of a GLOBAL one that names this device's own node, covers a range of device memory
(R238). -/
def Win.coversLocal (w : Win) (own a n : Nat) : Bool :=
  w.valid && decide (w.base ≤ w.place own a) && decide (w.place own a + n ≤ w.base + w.size * 65536)

/-- The range of device memory that a window covers: all of a LOCAL one, of a GLOBAL one the part that names this device's own
node (R238). -/
def Win.localRange (w : Win) (own : Nat) : Nat × Nat :=
  if w.isGlobal then
    let lo := max w.base (own * 2 ^ 47)
    let hi := min (w.base + w.size * 65536) ((own + 1) * 2 ^ 47)
    (lo - own * 2 ^ 47, if lo < hi then hi - own * 2 ^ 47 else 0)
  else (w.base, w.base + w.size * 65536)

/-- The encrypted window that holds a device-memory byte: its key in the window table and the byte's offset in the window
(R239). -/
def encAt (s : State) (a : Nat) : Option (Nat × Nat) :=
  match s.wins.find? (fun p => p.2.enc && p.2.coversLocal (ownNode s) a 1) with
  | some (k, w) => some (k, w.place (ownNode s) a - w.base)
  | none => none

/-- The tweak of a granule: window index and granule index within the window (R239). -/
def xtsTweak (k off : Nat) : Nat := (k % 16) * 2 ^ 64 + off / 64

/-- The stored granule that holds an address. -/
def granuleBytes (s : State) (a : Nat) : Bytes := (List.range 64).map (fun i => devByte s (a / 64 * 64 + i))

/-- One byte of device memory as a reader sees it; none where it lies in an encrypted window whose function holds no valid
key (R239). -/
def devPlain (s : State) (a : Nat) : Option Byte :=
  match encAt s a with
  | none => some (devByte s a)
  | some (k, b) =>
    let key := (fnAt s (k / 16)).key
    if key.isEmpty then none
    else some ((Config.xtsDecrypt key (xtsTweak k b) (granuleBytes s a)).getD (a % 64) 0)

/-- The live stacks in ascending order. -/
def liveStacks (s : State) : List Nat := (List.range 16).filter (fun m => (s.get MEM_STATUS.LIVE).testBit m)

/-- Entry b of the stripe map: its stack, or none where the bucket is spread. -/
def stripeOf (s : State) (b : Nat) : Option Nat :=
  let e := (rdReg s (MEM_STRIPE.addr (b / 4))).toNat / 2 ^ (8 * (b % 4)) % 2 ^ 8
  if e.testBit 4 then none else some (e % 16)

/-- Entry b of the stripe map written. -/
def setStripe (s : State) (b : Nat) (e : Option Nat) : State :=
  let o := MEM_STRIPE.addr (b / 4)
  let v := match e with | some m => m | none => 16
  wrReg s o (putBits (rdReg s o) (8 * (b % 4)) 8 v)

/-- The stacks live once the move in progress has ended. -/
def survivors (s : State) : List Nat := (liveStacks s).filter (fun m => m != s.get MEM_STATUS.MOVE_STACK)

/-- The stack of row r of a bucket by its entry and the live stacks (R204). -/
def stackBy (e : Option Nat) (live : List Nat) (r : Nat) : Nat :=
  match e with
  | some m => m
  | none => live.getD (r % max 1 live.length) 0

/-- The stack that holds a device-memory byte: a unit that the move has not copied yet lies in its old place (R204, R209). -/
def stackOf (s : State) (a : Nat) : Nat :=
  let j := a / 1024
  let b := j % 4096
  let r := j / 4096
  if s.move.on then
    let old := s.move.old.getD b 16
    if b < s.move.bucket ∨ (b = s.move.bucket ∧ r < s.move.row) then stackBy (stripeOf s b) (survivors s) r
    else stackBy (if old = 16 then none else some old) (liveStacks s) r
  else stackBy (stripeOf s b) (liveStacks s) r

/-! ## Requests at the arbiters (08_memory.md R217 to R219) -/

/-- An arbiter, and the state with it replaced. -/
def arbAt (s : State) (k : Nat) : Arb := mapGet (fun _ => {}) s.arbs k
def setArb (s : State) (k : Nat) (x : Arb) : State := { s with arbs := mapPut (fun _ => {}) s.arbs k x }

/-- The requests of a requester that wait at an arbiter, the one it presents first. -/
def Arb.queue (x : Arb) (r : Nat) : List ArbReq := mapGet (fun _ => []) x.reqs r
def Arb.setQueue (x : Arb) (r : Nat) (l : List ArbReq) : Arb := { x with reqs := mapPut (fun _ => []) x.reqs r l }

/-- A requester asks for beats: each request has its own stamp and its own lock mark (R218, R219). -/
def raiseReq (s : State) (k r beats : Nat) (lock : Bool := false) (core : Nat := 0) : State :=
  let x := arbAt s k
  if beats = 0 then s
  else setArb s k (x.setQueue r (x.queue r ++ [{ core := core, stamp := nowN s, beats := beats, lock := lock }]))

/-- The requests that a range of device memory makes at the pseudo-channels of its units, by requester r; core of a cluster
port (R205, R217). -/
def raiseMem (s : State) (r a n : Nat) (core : Nat := 0) (lock : Bool := false) : State :=
  if n = 0 then s
  else
    forEach (List.range ((a + n - 1) / 256 - a / 256 + 1)) (fun s i =>
      let g := a / 256 + i
      let lo := max a (g * 256)
      let hi := min (a + n) ((g + 1) * 256)
      raiseReq s (64 * stackOf s lo + Config.pseudoChannel (g / 4) (g % 4) % 64) r ((hi + 63) / 64 - lo / 64) lock core) s

/-- The locked request of an atomic from the fabric: two beats read and two written (R218 and the worked example of R222). -/
def raiseAtomic (s : State) (a : Nat) : State :=
  raiseReq s (64 * stackOf s a + Config.pseudoChannel (a / 1024) (a / 256 % 4) % 64) 21 4 true

/-- The requests that requester r makes for a range of a core store at its banks: lines of 128 bytes over 32 banks (R218,
R222). -/
def raiseBank (s : State) (n r a len : Nat) : State :=
  if len = 0 then s
  else
    forEach (List.range ((a + len - 1) / 128 - a / 128 + 1)) (fun s i =>
      raiseReq s (131072 + 32 * n + (a / 128 + i) % 32) r 1) s

/-! ## Reads and writes of device memory -/

/-- A granule range of device memory reads as poison: a granule is marked, or its channel has failed (R213; R351 of
14_journal_recovery.md). -/
def badDev (s : State) (a n : Nat) : Bool :=
  poisonedIn s.mems.pDev a n || (granules a n).any (fun g => s.get MEMCH_STATUS.STATE (stackOf s (64 * g)) == 5)

/-- A read of device memory: the code, the bytes, and whether they are poisoned (R203, R239, R213). -/
def devRead (s : State) (a n : Nat) : Nat × Bytes × Bool :=
  if memTop s < a + n then (Code.notPresent, [], false)
  else
    match ((List.range n).map (fun i => devPlain s (a + i))).foldr
        (fun b l => match b, l with | some b, some l => some (b :: l) | _, _ => none) (some []) with
    | some l => (Code.done, l, badDev s a n)
    | none => (Code.denied, [], false)

/-- One byte of device memory written: through the encryption where a window asks for it. -/
def devPut (s : State) (a : Nat) (b : Byte) : State :=
  match encAt s a with
  | none => { s with mems := { s.mems with dev := wrM s.mems.dev a b } }
  | some (k, base) =>
    let key := (fnAt s (k / 16)).key
    let g := a / 64 * 64
    let plain := Config.xtsDecrypt key (xtsTweak k base) (granuleBytes s a)
    let coded := Config.xtsEncrypt key (xtsTweak k base) ((List.range 64).map (fun i =>
      if g + i = a then b else plain.getD i 0))
    { s with mems := { s.mems with dev := wrBytes s.mems.dev g ((List.range 64).map (fun i => coded.getD i 0)) } }

/-- Bytes of device memory written one after another. -/
def devPuts (s : State) (a : Nat) : Bytes → State
  | [] => s
  | b :: t => devPuts (devPut s a b) (a + 1) t

/-- A write of device memory by the device itself, no range check: bytes and poison (R213). -/
def devStore (s : State) (a : Nat) (l : Bytes) (bad : Bool := false) : State :=
  let s := devPuts s a l
  { s with mems := { s.mems with pDev := poisonWrite s.mems.pDev a l.length bad } }

/-- The code with which a range of device memory may be written (R203, R239). -/
def devWriteCode (s : State) (a n : Nat) : Nat :=
  if memTop s < a + n then Code.notPresent
  else if (List.range n).any (fun i =>
      match encAt s (a + i) with | some (k, _) => (fnAt s (k / 16)).key.isEmpty | none => false) then Code.denied
  else Code.done

/-- A write of device memory: a refused one changes no byte (R203, R239). -/
def devWrite (s : State) (a : Nat) (l : Bytes) (bad : Bool) : Nat × State :=
  let c := devWriteCode s a l.length
  if c = Code.done then (c, devStore s a l bad) else (c, s)

/-- A number of `n` bytes of device memory, little-endian, as stored. -/
def devLe (s : State) (a n : Nat) : Nat := leNat ((List.range n).map (fun i => devByte s (a + i)))

/-- A number of `n` bytes of device memory as a reader sees it; 0 where it cannot be read. -/
def memLe (s : State) (a n : Nat) : Nat := leNat (devRead s a n).2.1

/-- The requester of a hub engine by its status register: fronthaul, the coded-channel engines, the FSK engine, host
transfers, management (08_memory.md R221). -/
def hubRequester (fn : Nat) (write : Bool) : Nat :=
  if 0x80000 ≤ fn ∧ fn < 0x100000 then if write then 16 else 17
  else if 0x100000 ≤ fn ∧ fn < 0x140000 then 18
  else if 0x140000 ≤ fn ∧ fn < 0x180000 then 20
  else if 0x60000 ≤ fn ∧ fn < 0x80000 then 22
  else 23

/-- A hub engine whose status register is `fn` reads a range: one at or above `MEM_TOP` leaves NOT_PRESENT in that status (R203;
the code's field: log 332). -/
def hubSee (s : State) (fn a n : Nat) : State :=
  if memTop s < a + n then setFnCode s fn Code.notPresent else raiseMem s (hubRequester fn false) a n

/-- A write by a hub engine past the directory: one at or above `MEM_TOP` changes nothing and is recorded (R203; log 332). -/
def hubStore (s : State) (fn a : Nat) (l : Bytes) : State :=
  if memTop s < a + l.length then setFnCode s fn Code.notPresent
  else devStore (raiseMem s (hubRequester fn true) a l.length) a l

/-- A range of device memory filled with zeros. -/
def devZero (s : State) (a n : Nat) : State :=
  { s with mems := { s.mems with dev := mapDropRange s.mems.dev a (a + n)
                                 pDev := mapDropRange s.mems.pDev (a / 64) ((a + n) / 64) } }

/-! ## The memories of a core and a cluster -/

/-- Sizes of the core store, the signal memory, a bank of command memory and the cluster memory. -/
abbrev coreStoreBytes : Nat := 0x400000
abbrev sigMemBytes : Nat := 0x40000
abbrev cmdBankBytes : Nat := 0x20000
abbrev clusterBytes : Nat := 0x2000000

/-- A read of an on-chip space of core n: 0 core store, 1 signal memory, 2 cluster memory. -/
def chipRead (s : State) (n space a len : Nat) : Bytes × Bool :=
  match space with
  | 0 => (rdBytes s.mems.core (n * coreStoreBytes + a) len, poisonedIn s.mems.pCore (n * coreStoreBytes + a) len)
  | 1 => (rdBytes s.mems.sig (n * sigMemBytes + a) len, poisonedIn s.mems.pSig (n * sigMemBytes + a) len)
  | _ => (rdBytes s.mems.cluster (n / 8 * clusterBytes + a) len,
          poisonedIn s.mems.pCluster (n / 8 * clusterBytes + a) len)

/-- A write of an on-chip space of core n (R213). -/
def chipWrite (s : State) (n space a : Nat) (l : Bytes) (bad : Bool) : State :=
  let m := s.mems
  match space with
  | 0 => { s with mems := { m with core := wrBytes m.core (n * coreStoreBytes + a) l
                                   pCore := poisonWrite m.pCore (n * coreStoreBytes + a) l.length bad } }
  | 1 => { s with mems := { m with sig := wrBytes m.sig (n * sigMemBytes + a) l
                                   pSig := poisonWrite m.pSig (n * sigMemBytes + a) l.length bad } }
  | _ => { s with mems := { m with cluster := wrBytes m.cluster (n / 8 * clusterBytes + a) l
                                   pCluster := poisonWrite m.pCluster (n / 8 * clusterBytes + a) l.length bad } }

/-- The size of an on-chip space. -/
def chipSize : Nat → Nat
  | 0 => coreStoreBytes
  | 1 => sigMemBytes
  | _ => clusterBytes

/-- Every granule of a core's store and signal memory marked unwritten, so that it reads zero
(09_contexts_tenants.md R231). -/
def markUnwritten (s : State) (n : Nat) : State :=
  let m := s.mems
  { s with mems := { m with
      core := mapDropRange m.core (n * coreStoreBytes) ((n + 1) * coreStoreBytes)
      pCore := mapDropRange m.pCore (n * coreStoreBytes / 64) ((n + 1) * coreStoreBytes / 64)
      sig := mapDropRange m.sig (n * sigMemBytes) ((n + 1) * sigMemBytes)
      pSig := mapDropRange m.pSig (n * sigMemBytes / 64) ((n + 1) * sigMemBytes / 64) } }

/-! ## Memory errors (08_memory.md R212, R215) -/

/-- An uncorrectable error in a channel's stack: counted, located, and the granule poisoned (R212, R215). -/
def channelUe (s : State) (m a : Nat) : State :=
  let s := (s.bumpSat MEMCH_UE_COUNT m).set2 MEMCH_ERR_ADDR_LO MEMCH_ERR_ADDR_HI a m
  { s with mems := { s.mems with pDev := mapPut clean0 s.mems.pDev (a / 64) true } }

/-- A correctable error that a read finds in device memory: counted in the channel, and the beat rewritten through the
scrubber's requester (R212; 14_journal_recovery.md R363). -/
def channelCe (s : State) (m a : Nat) : State :=
  raiseMem ((s.bumpSat MEMCH_CE_COUNT m).bumpSat MARGIN_STACK_CE m) 25 (a / 64 * 64) 64

/-- An uncorrectable error in an on-chip store of core n (06_core_streams.md R173). -/
def clusterUe (s : State) (n store a : Nat) : State :=
  let c := n / 8
  let s := (((s.bumpSat CLUSTER_UE_COUNT c).set CLUSTER_STATUS.UE_SEEN 1 c).set
    CLUSTER_STATUS.FAULT_CODE Code.uncorrectable c)
  ((s.set CLUSTER_ERR_LOC.STORE store c).set CLUSTER_ERR_LOC.SLOT (if store = 0 then 0 else n % 8) c).set
    CLUSTER_ERR_LOC.GRANULE (a / 64) c

/-- An error of the parts that hold no data of their own (R212): a corrected one is counted, at the cluster for a command or
control-processor memory, in the model's count for a die network, bridge or HBM4 command link, which no register shows; an
uncorrectable one of a command or control-processor memory is located. -/
def partError (s : State) (n : Nat) (e : MemErr) : State :=
  if e.space = 5 ∨ e.space = 8 then
    if e.ue then clusterUe s n (if e.space = 5 then 3 else 4) e.addr else s.bumpSat CLUSTER_CE_COUNT (n / 8)
  else if e.space = 6 ∨ e.space = 7 then
    (if e.ue then s else { s with jr := { s.jr with retries := s.jr.retries + 1 } })
  else s

/-- One error that a read of core n finds: corrected and counted, or the granule poisoned (R212). -/
def memError (n : Nat) (s : State) (e : MemErr) : State :=
  if 4 ≤ e.space then partError s n e
  else if e.space = 0 then
    let m := stackOf s e.addr
    if e.ue then channelUe s m e.addr else channelCe s m e.addr
  else
    let c := n / 8
    if e.ue then
      let s := clusterUe s n (if e.space = 2 then 0 else if e.space = 1 then 1 else 2) e.addr
      let sp := if e.space = 1 then 0 else if e.space = 2 then 2 else 1
      let m := s.mems
      match sp with
      | 0 => { s with mems := { m with pCore := mapPut clean0 m.pCore ((n * coreStoreBytes + e.addr) / 64) true } }
      | 1 => { s with mems := { m with pSig := mapPut clean0 m.pSig ((n * sigMemBytes + e.addr) / 64) true } }
      | _ => { s with mems := { m with pCluster := mapPut clean0 m.pCluster ((c * clusterBytes + e.addr) / 64) true } }
    else s.bumpSat CLUSTER_CE_COUNT c

/-- The errors that a command's reads find. -/
def memErrors (s : State) (n : Nat) (l : MemErrs) : State := forEach l (memError n) s

/-- POISON_SEEN of the channel of a device-memory byte (R214). -/
def poisonSeenDev (s : State) (a : Nat) : State := s.set MEMCH_STATUS.POISON_SEEN 1 (stackOf s a)

/-- A range of device memory read by a consumer: POISON_SEEN of the channel of each poisoned granule (R214). -/
def seeDev (s : State) (a n : Nat) : State :=
  forEach ((granules a n).filter (fun g => badDev s (64 * g) 64)) (fun s g => poisonSeenDev s (64 * g)) s

/-- POISON_SEEN and the count of a cluster's on-chip stores (R214; 06_core_streams.md R173). -/
def poisonSeenChip (s : State) (n : Nat) : State :=
  (s.set CLUSTER_STATUS.POISON_SEEN 1 (n / 8)).bumpSat CLUSTER_POISON_COUNT (n / 8)

end Sys2Proof.Machine
end

