-- ==== Sys2Proof/Machine/Slots.lean ====
section
/-! DEFINITION. Leaving a context slot (09_contexts_tenants.md R230, R240). -/

namespace Sys2Proof.Machine

/-- A tenant is FROZEN or is being frozen: none of its contexts runs and none of its jobs starts or ends (R244). -/
def frozen (s : State) (f : Nat) : Bool := (fnAt s f).freezing || (decide (f < 256) && s.bit HOST_VF_STATUS.FROZEN f)

/-- A context has commands in flight. -/
def inFlight (s : State) (x : Nat) : Bool :=
  match (ctxAt s x).core with
  | some n => (coreAt s n).fly.any (fun f => ((coreAt s n).slot f.slot).ctx == x)
  | none => false

/-- The slot that a resident context holds. -/
def slotOf (s : State) (x : Nat) : Option (Nat × Nat) :=
  match (ctxAt s x).core with
  | some n => ((List.range 4).find? (fun c => ((coreAt s n).slot c).valid && ((coreAt s n).slot c).ctx == x)).map (fun c => (n, c))
  | none => none

/-- A slot emptied; an armed or awaited reload is discarded (07_hallmark.md R198). -/
def freeSlot (s : State) (n c : Nat) : State :=
  let k := coreAt s n
  let z := k.slot c
  let k := k.setSlot c { discarded := z.discarded || z.armed || z.copying, switches := z.switches }
  setCore s n { k with
    run := if k.run = some c then none else k.run
    fly := k.fly.filter (fun f => f.slot ≠ c)
    grp := if k.run = some c then none else k.grp
    sig := if k.run = some c then { k.sig with pc := none, rep := 0 } else k.sig
    stall := if (k.stall.map (·.1)) = some c then none else k.stall }

/-- A context leaves its slot with its pointers saved (R230). -/
def leaveSlot (s : State) (x st : Nat) : State :=
  let y := ctxAt s x
  let s := match slotOf s x with
    | some (n, c) => freeSlot s n c
    | none => s
  setCtx s x { y with state := st, core := none, saved := y.live }

/-- Residents whose core has left their function's allotment and which have no command in flight are evicted (R240). -/
def settleAllot (s : State) : State :=
  forEach (mapKeys s.ctxs) (fun s x =>
    let y := ctxAt s x
    match y.core with
    | some n =>
      if y.state = 3 ∧ y.fn < 256 ∧ !((s.get HOST_VF_CORES y.fn (n / 32)).testBit (n % 32)) ∧ !inFlight s x then leaveSlot s x 2
      else s
    | none => s) s

end Sys2Proof.Machine
end

