-- ==== Sys2Proof/Machine/Signals.lean ====
section
/-! DEFINITION. Operations that several chapters share: the signals of the time state to the radio functions. -/

namespace Sys2Proof.Machine

/-- The cell record c. -/
def cellAt (s : State) (c : Nat) : Cell := mapGet (fun _ => {}) s.cells c

/-- The state with a cell record replaced. -/
def setCell (s : State) (c : Nat) (x : Cell) : State := { s with cells := mapPut (fun _ => {}) s.cells c x }

/-- The FSK group record g. -/
def fskAt (s : State) (g : Nat) : FskGrp := mapGet (fun _ => {}) s.fsk g

/-- The state with an FSK group record replaced. -/
def setFsk (s : State) (g : Nat) (x : FskGrp) : State := { s with fsk := mapPut (fun _ => {}) s.fsk g x }

/-! ## Byte rings in device memory (10_serving.md R255, 11_nr_baseband.md R274, 12_fsk.md R300) -/

/-- TAIL and HEAD of a ring at an address. -/
def ringTail (s : State) (base : Nat) : Nat := memLe s base 4
def ringHead (s : State) (base : Nat) : Nat := memLe s (base + 0x40) 4

/-- Bytes that a byte ring of a size holds. -/
def ringUsed (s : State) (base size : Nat) : Nat :=
  (ringTail s base % size + size - ringHead s base % size) % size

/-- Bytes of a byte ring from a position, wrapping. -/
def ringRead (s : State) (base size o n : Nat) : Bytes :=
  (List.range n).map (fun i => ((devRead s (base + 128 + (o + i) % size) 1).2.1).getD 0 0)

/-- The requests for bytes of a byte ring from a position, wrapping (08_memory.md R205). -/
def ringRaise (s : State) (r base size o n : Nat) : State :=
  let o := o % max 1 size
  let k := min n (size - o)
  raiseMem (raiseMem s r (base + 128 + o) k) r (base + 128) (n - k)

/-- Bytes put at a position of a byte ring, wrapping. -/
def ringPoke (s : State) (base size o : Nat) : Bytes → State
  | [] => s
  | b :: t => ringPoke (devStore s (base + 128 + o % size) [b]) base size (o + 1) t

/-- Bytes appended to a byte ring by its producer, whose status register is `fn`; none where they would fill it. A ring that
reaches `MEM_TOP` takes nothing, and the producer records NOT_PRESENT (08_memory.md R203). -/
def ringAppend (s : State) (fn base size : Nat) (l : Bytes) : Option State :=
  if memTop s < base + 128 + size then some (setFnCode s fn Code.notPresent)
  else if 0 < size ∧ ringUsed s base size + l.length < size then
    let t := ringTail s base % size
    let s := ringRaise (ringPoke s base size t l) (hubRequester fn true) base size t l.length
    some (hubStore s fn base (bytesLe 4 ((t + l.length) % size)))
  else none

/-! ## Cells (11_nr_baseband.md) -/

/-- A field of a cell's record (R272). -/
def Cell.fld (x : Cell) (o n : Nat) : Nat := leNat ((x.cfg.drop o).take n)

/-- The length of a slot, ns, and the slots of a frame (R276). -/
def Cell.slotNs (x : Cell) : Nat := 1000000 / 2 ^ x.scs
def Cell.perFrame (x : Cell) : Nat := 10 * 2 ^ x.scs

/-- The slot number of an absolute slot: SFN × slots per frame + slot (R274). -/
def Cell.slotNo (x : Cell) (k : Nat) : Nat := k % (1024 * x.perFrame)

/-- A message of an L2 ring: length, slot number, body (R274). -/
def l2Msg (slot : Nat) (body : Bytes) : Bytes := bytesLe 4 body.length ++ bytesLe 4 slot ++ body

/-- The kinds of indication (R274). -/
abbrev Ind.slot : Nat := 0
abbrev Ind.rxData : Nat := 1
abbrev Ind.crc : Nat := 2
abbrev Ind.uci : Nat := 3
abbrev Ind.srs : Nat := 4
abbrev Ind.rach : Nat := 5
abbrev Ind.error : Nat := 6

/-- An indication of a cell for an absolute slot; one that finds the ring full is dropped and counted (R274). -/
def indicateBody (s : State) (c k : Nat) (body : Bytes) : State :=
  let x := cellAt s c
  (ringAppend s (CODEC_CELL_STATUS.STATE.addr c) (x.fld 0x30 8) (x.fld 0x54 4) (l2Msg (x.slotNo k) body)).getD
    (s.bumpSat CODEC_CELL_IND_DROP c)

/-- An indication whose body SCF 222.10 gives (R274). -/
def indicate (s : State) (c kind k : Nat) (detail : Bytes) : State :=
  let (i, s) := takeFree s
  indicateBody s c k (Config.fapiBody kind ((cellAt s c).slotNo k) detail i)

/-- The absolute slot of a cell now. -/
def Cell.slotAt (x : Cell) (n : Nat) : Nat := n / x.slotNs

/-- The Calendar is lost to a cell from its present slot on, or has come back in it: the slots between are missed
(R277). -/
def Cell.calTurn (x : Cell) (n v : Nat) : Cell :=
  if v = 1 then { x with lostFrom := some (x.lostFrom.getD (x.slotAt n)) }
  else match x.lostFrom with
  | some k => { x with lostFrom := none, lost := x.lost ++ [(k, x.slotAt n)] }
  | none => x

/-- TIME_ALARM of a cell; a change sends an ERROR.indication (R286). -/
def setAlarm (s : State) (c v : Nat) : State :=
  if s.get CODEC_CELL_STATUS.TIME_ALARM c = v then s
  else indicate (s.set CODEC_CELL_STATUS.TIME_ALARM v c) c Ind.error ((cellAt s c).slotAt (nowN s)) []

/-- The frame boundary after a time: a multiple of 10 ms (R286). -/
def nextFrame (n : Nat) : Nat := (n / 10000000 + 1) * 10000000

/-- What the entry to a time state does to one cell (R286); outside HOLDOVER_EXPIRED the alarm is clear (log 40). -/
def signalCell (t : Nat) (s : State) (c : Nat) : State :=
  let x := cellAt s c
  if !x.active then s
  else if t = 2 then setAlarm (setCell s c { x with txArm := true, txAt := nextFrame (nowN s) }) c 0
  else if t = 4 then
    let s := if x.fdd then s else setCell (s.set CODEC_CELL_STATUS.TX_ENABLED 0 c) c { x with txArm := false }
    setAlarm s c 1
  else if t = 3 then s
  else setAlarm (setCell (s.set CODEC_CELL_STATUS.TX_ENABLED 0 c) c { x with txArm := false }) c 0

/-- The Calendar has left RUNNING, or is RUNNING again: CAL_LOST of every RUNNING cell, and the slots that it missed
(R277). -/
def calLost (s : State) (v : Nat) : State :=
  forEach (mapKeys s.cells) (fun s c =>
    if v = 1 ∧ s.get CODEC_CELL_STATUS.STATE c ≠ Fn.running then s
    else setCell (s.set CODEC_CELL_STATUS.CAL_LOST v c) c ((cellAt s c).calTurn (nowN s) v)) s

/-- What the entry to a time state does to one FSK group (12_fsk.md R303); outside HOLDOVER_EXPIRED the alarm is clear
(log 40). -/
def signalFsk (t : Nat) (s : State) (g : Nat) : State :=
  let x := fskAt s g
  if !x.active then s
  else if t = 4 then s.set FSK_GRP_STATUS.TIME_ALARM 1 g
  else if t = 0 ∨ t = 1 then
    setFsk ((s.set FSK_GRP_STATUS.TX_HELD 1 g).set FSK_GRP_STATUS.TIME_ALARM 0 g) g { x with cut := true }
  else (s.set FSK_GRP_STATUS.TX_HELD 0 g).set FSK_GRP_STATUS.TIME_ALARM 0 g

/-- The entry to a time state signalled to every cell and every FSK group (02_almanac.md R52). -/
def signalTime (s : State) (t : Nat) : State :=
  forEach (mapKeys s.fsk) (signalFsk t) (forEach (mapKeys s.cells) (signalCell t) s)

/-- A cell function is RUNNING. -/
def anyCellRunning (s : State) : Bool :=
  (mapKeys s.cells).any (fun c => decide (s.get CODEC_CELL_STATUS.STATE c = Fn.running))

/-- The time until every running maintenance activity and MAINT link group has ended, ns (03_calendar.md R76). -/
def maintLeft (s : State) : Nat :=
  let one (k : Core) : Nat :=
    let acts := k.maint.map (fun a => (a.endAt + 9) / 10)
    let cmds := k.fly.filterMap (fun f =>
      let y := ctxAt s (k.slot f.slot).ctx
      if y.img.cls = 3 then some (f.issuedAt + cyclesNs (y.img.bounds.getD (f.idx - y.img.loops * 8) 0)) else none)
    (acts ++ cmds).foldl max 0
  (s.cores.map (fun k => one k.2)).foldl max 0 - nowNs s

end Sys2Proof.Machine
end

