-- ==== Sys2Proof/Machine/Calendar.lean ====
section
/-! DEFINITION. The Calendar: banks, arming, the sequencer, the governor and the token buckets (03_calendar.md). -/

namespace Sys2Proof.Machine

abbrev Gate.hard : Nat := 1
abbrev Gate.firm : Nat := 2
abbrev Gate.tenant : Nat := 4
abbrev Gate.maint : Nat := 8

/-- The status register of the Calendar. -/
abbrev calFn : Nat := 0x30004

/-- A bank's register number: 0 A, 1 B. -/
def bankNo (b : Bool) : Nat := if b then 1 else 0

/-! ## Tables -/

/-- One entry of a bank (R70). -/
structure CalEnt where
  dur : Nat
  load : Bool
  gates : Nat
  set : Nat
  mask : Nat
  clean : Bool

/-- The cores of a core set, core n at bit n (R71). -/
def coreSet (s : State) (x i : Nat) : Nat :=
  s.get CAL_BANK_SET x (4 * i) + s.get CAL_BANK_SET x (4 * i + 1) * 2 ^ 32 + s.get CAL_BANK_SET x (4 * i + 2) * 2 ^ 64 +
    s.get CAL_BANK_SET x (4 * i + 3) * 2 ^ 96

/-- Entry i of bank x (R70). -/
def calEnt (s : State) (x i : Nat) : CalEnt :=
  let w0 := s.get CAL_BANK_ENTRY x (4 * i)
  let w1 := s.get CAL_BANK_ENTRY x (4 * i + 1)
  { dur := w0 % 2 ^ 24
    load := decide (w1 / 2 ^ 8 % 2 = 1)
    gates := w1 % 16
    set := coreSet s x (w0 / 2 ^ 24)
    mask := s.get CAL_BANK_ENTRY x (4 * i + 2) + s.get CAL_BANK_ENTRY x (4 * i + 3) * 2 ^ 32
    clean := decide (w1 / 2 ^ 9 = 0 ∧ w1 / 16 % 16 = 0) }

/-- The entries of a bank. -/
def bankEnts (s : State) (x : Nat) : List CalEnt := (List.range (min (s.get CAL_BANK_LEN x) 1024)).map (calEnt s x)

/-- A bank's cycle time, ns. -/
def bankCycle (s : State) (x : Nat) : Nat := max (s.get CAL_BANK_CYCLE x) 1

/-- A time held as nanosecondsField and secondsField (the rule under R84's table). -/
def fieldTime (ns sl sh : Nat) : Nat := ((sl + sh * 2 ^ 32) * 1000000000 + ns) % 2 ^ 64

/-- A bank's base time. -/
def bankBase (s : State) (x : Nat) : Nat :=
  fieldTime (s.get CAL_BANK_BASE_NS x) (s.get CAL_BANK_BASE_SL x) (s.get CAL_BANK_BASE_SH x)

/-- `CAL_SWITCH_TIME`. -/
def switchTime (s : State) : Nat :=
  fieldTime (s.get CAL_SWITCH_TIME_NS) (s.get CAL_SWITCH_TIME_SL) (s.get CAL_SWITCH_TIME_SH)

/-- The position of a time in a bank's cycle; the grid runs over all of N (R72). -/
def posOf (s : State) (x n : Nat) : Nat :=
  (((n : Int) - bankBase s x) % bankCycle s x).toNat

/-- The first cycle start of a bank at or after a time (R76). -/
def cycleAt (s : State) (x n : Nat) : Nat :=
  let p := posOf s x n
  if p = 0 then n else n + (bankCycle s x - p)

/-- The gates of a core at a position, after the entries up to it (R72). -/
def gateFrom (n pos : Nat) : List CalEnt → Nat → Nat → Nat
  | [], _, g => g
  | e :: l, t, g =>
    let g' := if e.set.testBit n then e.gates else g
    if e.dur ≠ 0 ∧ pos < t + e.dur then g' else gateFrom n pos l (t + e.dur) g'

/-- The queue masks at a position (R72). -/
def maskFrom (pos : Nat) : List CalEnt → Nat → Nat → Nat
  | [], _, m => m
  | e :: l, t, m =>
    let m' := if e.load then e.mask else m
    if e.dur ≠ 0 ∧ pos < t + e.dur then m' else maskFrom pos l (t + e.dur) m'

/-- The end of the entry in use at a position, as an offset in the cycle (R72). -/
def endFrom (pos : Nat) : List CalEnt → Nat → Nat
  | [], t => t
  | e :: l, t => if e.dur ≠ 0 ∧ pos < t + e.dur then t + e.dur else endFrom pos l (t + e.dur)

/-- The stretches of one core's gates over a cycle: offset and gates, one for each entry with a duration. -/
def coreTrack (n : Nat) : List CalEnt → Nat → Nat → List (Nat × Nat)
  | [], _, _ => []
  | e :: l, t, g =>
    let g' := if e.set.testBit n then e.gates else g
    if e.dur = 0 then coreTrack n l t g' else (t, g') :: coreTrack n l (t + e.dur) g'

/-- The stretches of the queue masks over a cycle. -/
def maskTrack : List CalEnt → Nat → Nat → List (Nat × Nat)
  | [], _, _ => []
  | e :: l, t, m =>
    let m' := if e.load then e.mask else m
    if e.dur = 0 then maskTrack l t m' else (t, m') :: maskTrack l (t + e.dur) m'

/-- A core that a table names although it is ABSENT or RETIRED is ignored (R71). -/
def coreUsable (s : State) (n : Nat) : Bool :=
  let st := s.get CORE_ARR_STATUS.STATE n
  !(st == Fn.absent || st == Fn.retired)

/-- The offsets at which a bit of the gates rises over a cycle, the last stretch before the first (R63). -/
def risings (bit : Nat) (track : List (Nat × Nat)) : List Nat :=
  let prev := match track.getLast? with | some (_, g) => g | none => 0
  ((track.foldl (fun (acc : Nat × List Nat) p =>
      (p.2, if p.2 &&& bit ≠ 0 ∧ acc.1 &&& bit = 0 then acc.2 ++ [p.1] else acc.2)) (prev, [])).2)

/-- The shortest wait from a position to one of a list of offsets in a cycle. -/
def waitFor (cycle pos : Nat) : List Nat → Option Nat
  | [] => none
  | o :: l =>
    let w := if pos < o then o - pos else o + cycle - pos
    match waitFor cycle pos l with
    | none => some w
    | some v => some (min w v)

/-! ## The sequencer's state -/

/-- A bank is active. -/
def calActive (s : State) : Bool := s.bit CAL_STATUS.ACTIVE_VALID

/-- The active bank. -/
def activeBank (s : State) : Nat := s.get CAL_STATUS.ACTIVE_BANK

/-- The gates that the sequencer applies to a core: MAINT alone while the Calendar is not RUNNING (R62). -/
def gatesOf (s : State) (n : Nat) : Nat := mapGet (fun _ => Gate.maint) s.cal.gates n

/-- The gates that a core's issue logic sees (R61). -/
def coreGates (s : State) (n : Nat) : Nat := mapGet (fun _ => Gate.maint) s.cal.atCore n

/-- The gate changes on their way to a core. -/
def gatePath (s : State) (n : Nat) : List GateMsg := mapGet (fun _ => []) s.cal.path n

/-- A gate change applied to a core and sent to its issue logic, 24 ns away (R61); `force` marks a change of bank (R63). -/
def setGate (s : State) (n g : Nat) (force : Bool) : State :=
  let old := gatesOf s n
  let opens := decide (g &&& Gate.hard ≠ 0) && (force || decide (old &&& Gate.hard = 0))
  if g = old ∧ !opens then s
  else { s with cal := { s.cal with
    gates := mapPut (fun _ => Gate.maint) s.cal.gates n g
    path := mapPut (fun _ => []) s.cal.path n
      (gatePath s n ++ [{ due := s.clk.elapsed + 24 * 2 ^ 32, gates := g, hardOpen := opens }]) } }

/-- The tenant bound of a bank (R63). -/
def bankBound (s : State) (x : Nat) : Nat := s.get CAL_BANK_BOUND x

/-- The position in the active bank's cycle now, ns. -/
def calPos (s : State) : Nat := s.cal.endOff - (s.cal.endAt - s.clk.elapsed + (2 ^ 32 - 1)) / 2 ^ 32

/-- The wait from now to the end of the entry in use, ns. -/
def entryLeft (s : State) : Nat := (s.cal.endAt - s.clk.elapsed + (2 ^ 32 - 1)) / 2 ^ 32

/-- The wait to the instant at which a pending bank takes over: S where it is an entry boundary of the active bank, else the end
of the entry in use at S (R76). -/
def swapWait (s : State) : Option Nat :=
  if s.bit CAL_STATUS.PENDING ∧ fnState s calFn = Fn.running then
    s.cal.swapAt.map (fun t =>
      let w := t - nowN s
      let ents := bankEnts s (activeBank s)
      let p := (calPos s + w) % bankCycle s (activeBank s)
      if w ≤ entryLeft s then entryLeft s
      else if (maskTrack ents 0 0).any (fun z => z.1 == p) then w
      else w + (endFrom p ents 0 - p))
  else none

/-- A change that the sequencer has ahead: the wait to it, the value then, whether the bank changes (R63). -/
structure Ahead where
  wait : Nat
  val : Nat
  bank : Bool

/-- The value of a track at a position of the cycle. -/
def trackAt (pos : Nat) (l : List (Nat × Nat)) : Nat := l.foldl (fun v p => if p.1 ≤ pos then p.2 else v) 0

/-- The changes of a track over one cycle from a position on, in order, `w` from now. -/
def trackFrom (cycle pos w : Nat) (l : List (Nat × Nat)) : List Ahead :=
  (l.filter (fun p => decide (pos < p.1))).map (fun p => { wait := w + (p.1 - pos), val := p.2, bank := false }) ++
    (l.filter (fun p => decide (p.1 ≤ pos))).map (fun p => { wait := w + (p.1 + cycle - pos), val := p.2, bank := false })

/-- The pending bank takes over in `w`, S being `t`: its value then and the changes after (R76). -/
def trackSwap (s : State) (track : Nat → List (Nat × Nat)) (t w : Nat) : List Ahead :=
  let y := s.cal.pendBank
  let p := (nowN s + w - t) % bankCycle s y
  { wait := w, val := trackAt p (track y), bank := true } :: trackFrom (bankCycle s y) p w (track y)

/-- What the sequencer has ahead of a track given for each bank: over the cycle's end, and from the swap instant on by the
pending bank; from S on while STARTING; the idle value from the end of the entry in use while STOPPING (R62, R63, R76, R79). -/
def calAhead (s : State) (track : Nat → List (Nat × Nat)) (idle : Nat) : List Ahead :=
  let st := fnState s calFn
  if st = Fn.starting then (match s.cal.swapAt with | some t => trackSwap s track t (t - nowN s) | none => [])
  else if st = Fn.stopping then [{ wait := entryLeft s, val := idle, bank := false }]
  else if calActive s then
    let x := activeBank s
    let own := trackFrom (bankCycle s x) (calPos s) 0 (track x)
    match swapWait s, s.cal.swapAt with
    | some e, some t => own.filter (fun c => decide (c.wait < e)) ++ trackSwap s track t e
    | _, _ => own
  else []

/-- The wait to the first change that passes a test of the value before, the value after, and the change of bank. -/
def firstAhead (test : Nat → Nat → Bool → Bool) : Nat → List Ahead → Option Nat
  | _, [] => none
  | v, c :: l => if test v c.val c.bank then some c.wait else firstAhead test c.val l

/-- The gates of a core over each bank's cycle; a core that is ABSENT or RETIRED has none (R71, R72). -/
def gateTrack (s : State) (n x : Nat) : List (Nat × Nat) := if coreUsable s n then coreTrack n (bankEnts s x) 0 0 else []

/-- The wait from now to a core's next opening of a gate, looking across cycle ends and a pending swap; a change of bank counts
as an opening; none where none is ahead (R63, R104). -/
def openWait (s : State) (n bit : Nat) : Option Nat :=
  firstAhead (fun a g b => decide (g &&& bit ≠ 0) && (b || decide (a &&& bit = 0))) (gatesOf s n)
    (calAhead s (gateTrack s n) Gate.maint)

/-- The wait from now to a core's next HARD opening (R63). -/
def hardWait (s : State) (n : Nat) : Option Nat := openWait s n Gate.hard

/-- The wait from now to the tick on which an open gate of a core closes, across a swap; S for MAINT while STARTING; none where
it never does (R69). -/
def closeWait (s : State) (n bit : Nat) : Option Nat :=
  if fnState s calFn = Fn.starting ∧ bit = Gate.maint then s.cal.swapAt.map (· - nowN s)
  else firstAhead (fun a g _ => decide (a &&& bit ≠ 0) && decide (g &&& bit = 0)) (gatesOf s n)
    (calAhead s (gateTrack s n) Gate.maint)

/-- The wait from now to the next closing of fronthaul queue q of port p, across a swap (R67). -/
def queueCloseWait (s : State) (p q : Nat) : Option Nat :=
  firstAhead (fun a g _ => a.testBit (8 * p + q) && !g.testBit (8 * p + q)) s.cal.fhMask.toNat
    (calAhead s (fun x => maskTrack (bankEnts s x) 0 (2 ^ 64 - 1)) (2 ^ 64 - 1))

/-- Whether a fronthaul queue is open now (R62, R67). -/
def queueOpen (s : State) (p q : Nat) : Bool := s.cal.fhMask.getLsbD (8 * p + q)

/-- The duty as it acts: at most 256 (R80). -/
def dutyNow (s : State) : Nat := min 256 (s.get CAL_GOV_DUTY)

/-- The minimum duty as it acts (R80). -/
def minDuty (s : State) : Nat := min 256 (s.get CAL_GOV_MIN_DUTY)

/-- The shorter of two waits, none being no limit. -/
def minWait (a : Nat) : Option Nat → Nat
  | some b => min a b
  | none => a

/-- The wait to the next cycle start of the bank then active (R80): at a swap that slips, the new bank's first after E. -/
def cycleWait (s : State) : Nat :=
  let x := activeBank s
  let own := bankCycle s x - calPos s
  match swapWait s, s.cal.swapAt with
  | some e, some t =>
    if own < e then own
    else
      let c := bankCycle s s.cal.pendBank
      e + (c - (nowN s + e - t) % c) % c
  | _, _ => own

/-- What is left of the tenant window of a core: to the closing of TENANT, to one guard band before the next HARD opening, or to
the next cycle start (R80). -/
def windowLeft (s : State) (n : Nat) : Nat :=
  minWait (minWait (cycleWait s) (closeWait s n Gate.tenant)) ((hardWait s n).map (· - bankBound s (activeBank s)))

/-- A tenant window opened on a core, with the duty in force (R80). -/
def openWindow (s : State) (n : Nat) : State :=
  { s with cal := { s.cal with windows := mapPut (fun _ => {}) s.cal.windows n { start := nowNs s, duty := dutyNow s } } }

/-- The table's state at a position of the active bank applied: every core's gates, the queue masks, and the entry in use;
`start` marks a cycle start and `force` a change of bank (R72, R76). -/
def applyAt (s : State) (pos atTime : Nat) (start force : Bool) : State :=
  let x := activeBank s
  let ents := bankEnts s x
  let e := endFrom pos ents 0
  let before := s
  let s := { s with cal := { s.cal with
    fhMask := BitVec.ofNat 64 (maskFrom pos ents 0 (2 ^ 64 - 1))
    endOff := e
    endAt := atTime + (e - pos) * 2 ^ 32
    resync := false } }
  let s := forEach (List.range 128) (fun s n =>
    setGate s n (if coreUsable s n then gateFrom n pos ents 0 0 else 0) force) s
  forEach (List.range 128) (fun s n =>
    if gatesOf s n &&& Gate.tenant ≠ 0 ∧ (start ∨ gatesOf before n &&& Gate.tenant = 0) then openWindow s n else s) s

/-- The state of R62: no bank active, MAINT alone on every core, every queue open. -/
def applyIdle (s : State) : State :=
  let s := (s.set CAL_STATUS.ACTIVE_VALID 0)
  let s := { s with cal := { s.cal with fhMask := 0xFFFFFFFFFFFFFFFF, resync := false, measuring := false, windows := [] } }
  forEach (List.range 128) (fun s n => setGate s n Gate.maint false) s

/-! ## Token buckets (R77, R82, R83) -/

/-- A bucket's tokens, fraction and rate registers: 0 array, 1 memory, 2 fabric. -/
def tbTokens : Nat → Fld
  | 0 => CAL_TB_ARR_TOKENS
  | 1 => CAL_TB_MEM_TOKENS
  | _ => CAL_TB_FAB_TOKENS

def tbRate : Nat → Fld
  | 0 => CAL_TB_ARR_RATE
  | 1 => CAL_TB_MEM_RATE
  | _ => CAL_TB_FAB_RATE

def tbBurst : Nat → Fld
  | 0 => CAL_TB_ARR_BURST
  | 1 => CAL_TB_MEM_BURST
  | _ => CAL_TB_FAB_BURST

/-- Bucket b of tenant t is enabled. -/
def tbOn (s : State) (t b : Nat) : Bool := (s.get CAL_TB_CTRL.W t).testBit b

/-- A bucket's tokens and fraction set to zero; it accrues from now on (R82). -/
def tbZero (s : State) (t b : Nat) : State :=
  let s := s.set (tbTokens b) 0 t
  { s with cal := { s.cal with tbFrac := mapPut (fun _ => 0) s.cal.tbFrac (3 * t + b) 0
                               tbNext := mapPut (fun _ => 0) s.cal.tbNext (3 * t + b) ((nowNs s / 1000 + 1) * 1000) } }

/-- A write of a bucket register taking effect (R77, R82). -/
def tbApply (s : State) (o : Nat) (v : Word) : State :=
  let t := (o - 0x32000) / 0x40
  let r := (o - 0x32000) % 0x40
  if r = 0 then
    let old := s.get CAL_TB_CTRL.W t
    let s := wrReg s o (v &&& 7)
    forEach (List.range 3) (fun s b => if old.testBit b = v.toNat.testBit b then s else tbZero s t b) s
  else
    let b := (r - 4) / 12
    if (r - 4) % 12 = 8 then s else tbZero (wrReg s o v) t b

/-- Bucket b of tenant t gains one microsecond's share of its rate, up to BURST (R82). DESIGN CHOICE (log 359): the signed
count also stops at 2^31 − 1, and the fraction is carried while the count stands at its limit. -/
def tbGain (t : Nat) (s : State) (b : Nat) : State :=
  if tbOn s t b then
    let acc := mapGet (fun _ => 0) s.cal.tbFrac (3 * t + b) + s.get (tbRate b) t
    let sum := s.getS (tbTokens b) t + (acc / 1000 : Nat)
    let cap : Int := min (s.get (tbBurst b) t) (2 ^ 31 - 1)
    let s := s.setS (tbTokens b) (min sum (max cap (s.getS (tbTokens b) t))) t
    { s with cal := { s.cal with tbFrac := mapPut (fun _ => 0) s.cal.tbFrac (3 * t + b) (acc % 1000) } }
  else s

/-- The accrual of bucket b of tenant t where its microsecond has come (R82). -/
def tbAccrue (t : Nat) (s : State) (b : Nat) : State :=
  let due := mapGet (fun _ => 0) s.cal.tbNext (3 * t + b)
  if due ≤ nowNs s then
    let s := tbGain t s b
    { s with cal := { s.cal with tbNext := mapPut (fun _ => 0) s.cal.tbNext (3 * t + b) (due + 1000) } }
  else s

/-- The accrual of a tenant's buckets, each microsecond of elapsed Almanac time (R82). -/
def tokenAccrue (s : State) (t : Nat) : State := if t < 256 then forEach (List.range 3) (tbAccrue t) s else s

/-- What a job or a bead demands of the three resources. -/
structure Demand where
  arr : Nat
  mem : Nat
  fab : Nat
deriving DecidableEq, Repr

/-- The demand on bucket b. -/
def Demand.of (d : Demand) : Nat → Nat
  | 0 => d.arr
  | 1 => d.mem
  | _ => d.fab

/-- Every enabled bucket of a tenant holds its demand (R83). -/
def mayAdmit (s : State) (t : Nat) (d : Demand) : Bool :=
  (List.range 3).all (fun b => !tbOn s t b || decide ((d.of b : Int) ≤ s.getS (tbTokens b) t))

/-- Use subtracted from an enabled bucket, saturating at −2^31 (R83). -/
def tbSpend (s : State) (t b u : Nat) : State :=
  if tbOn s t b then s.setS (tbTokens b) (max (-(2 ^ 31)) (s.getS (tbTokens b) t - u)) t else s

/-- Admission of function f with a demand (virtual function t is tenant t, 256 the physical function, which is not policed);
a refusal is counted (R83). -/
def admission (s : State) (t : Nat) (d : Demand) : Bool × State :=
  if 256 ≤ t then (true, s)
  else
    if mayAdmit s t d then (true, forEach (List.range 3) (fun s b => tbSpend s t b (d.of b)) s)
    else (false, s.bumpSat CAL_TB_POLICED t)

/-- Measured use beyond a declared shape subtracted at completion (R83). -/
def chargeExcess (s : State) (t : Nat) (d u : Demand) : State :=
  if 256 ≤ t then s else forEach (List.range 3) (fun s b => tbSpend s t b (u.of b - d.of b)) s

/-! ## Cycle starts -/

/-- A tenant's configuration word taking effect; DEBUG_GRANT mirrors its DEBUG (R77; 09_contexts_tenants.md R240, R247). -/
def hostApply (s : State) (o : Nat) (v : Word) : State :=
  let s := wrReg s o v
  if 0x6A000 ≤ o ∧ o < 0x6C000 ∧ o % 0x20 = 0 then
    s.set HOST_FN_STATUS.DEBUG_GRANT (getBits v 15 1) ((o - 0x6A000) / 0x20)
  else s

/-- Writes and window commits that take effect (R77; 09_contexts_tenants.md R240). -/
def applyWrites (s : State) (l : List (Nat × Word)) (w : List (Nat × Win)) : State :=
  let s := forEach l (fun s p => if 0x32000 ≤ p.1 ∧ p.1 < 0x36000 then tbApply s p.1 p.2 else hostApply s p.1 p.2) s
  settleAllot (forEach w (fun s p => setWin s (p.1 / 16) (p.1 % 16) p.2) s)

/-- Waiting writes and window commits take effect (R77; 09_contexts_tenants.md R240). -/
def applyDeferred (s : State) : State :=
  applyWrites { s with cal := { s.cal with deferred := [] }, winPend := [] } s.cal.deferred s.winPend

/-- A window commit, deferred as a resize; while no bank is active it acts at once, and one that still waits for the same window
is dropped (R77; 09_contexts_tenants.md R240; log 358). -/
def deferWin (s : State) (k : Nat) (x : Win) : State :=
  if calActive s then { s with winPend := s.winPend ++ [(k, x)] }
  else applyWrites { s with winPend := s.winPend.filter (fun p => p.1 != k) } [] [(k, x)]

/-- A write that R77 defers: at the next cycle start of the active bank, or at once while no bank is active, when one that still
waits for the same register is dropped (log 358). -/
def deferWrite (s : State) (o : Nat) (v : Word) : State :=
  if calActive s then { s with cal := { s.cal with deferred := s.cal.deferred ++ [(o, v)] } }
  else applyWrites { s with cal := { s.cal with deferred := s.cal.deferred.filter (fun p => p.1 != o) } } [(o, v)] []

/-- The limit that the governor reads: 0 while a parity mismatch stands in `PWR_LIMIT` (17_live_service.md R405). -/
def powerLimit (s : State) : Nat := if s.upset.elem PWR_LIMIT.addr then 0 else s.get PWR_LIMIT

/-- The governor's recomputation at a cycle start, from the power measured over the last cycle (R80, R81). -/
def governor (s : State) (power : Nat) : State :=
  if s.bit CAL_GOV_CTRL.EN then
    let d := dutyNow s
    let lim := powerLimit s
    let d' := if lim < power then d - 32 else if power < lim - s.get CAL_GOV_HYST then d + 8 else d
    let s := if s.cal.cycEn ∧ s.cal.cycMin ∧ lim < power then s.set CAL_STATUS.GOV_FLOOR 1 else s
    s.set CAL_GOV_DUTY (min 256 (max (minDuty s) d'))
  else s

/-- A cycle start of the active bank: it is counted, the power of the cycle just ended is reported, the governor
recomputes, and waiting writes take effect (R72, R77, R80; 17_live_service.md R404). -/
def cycleStart (s : State) (power : Nat) : State :=
  let s := s.bump CAL_CYCLE_COUNT
  let s := if s.cal.measuring then governor (s.set PWR_MEASURED power) power else s
  let s := applyDeferred s
  { s with cal := { s.cal with measuring := true, cycEn := s.bit CAL_GOV_CTRL.EN,
                               cycMin := decide (dutyNow s = minDuty s) } }

/-- A write of a governor register ends what held throughout the present cycle (R81). -/
def noteGovWrite (s : State) : State :=
  { s with cal := { s.cal with cycEn := s.cal.cycEn && s.bit CAL_GOV_CTRL.EN,
                               cycMin := s.cal.cycMin && decide (dutyNow s = minDuty s) } }

/-! ## Arming (R74) -/

/-- The gate combinations of R60. -/
def gatesAllowed (g : Nat) : Bool := [0, 1, 2, 3, 6, 4, 8].elem g

/-- The first index of a list at which a check fails. -/
def firstBad {α : Type} (bad : α → Bool) : List α → Nat → Option Nat
  | [], _ => none
  | a :: l, i => if bad a then some i else firstBad bad l (i + 1)

/-- The first entry of a run of chained entries that, with the entry that ends it, holds more than 32 (R74). -/
def longChain : List CalEnt → Nat → Nat → Option Nat
  | [], _, _ => none
  | e :: l, i, run =>
    if 32 < i + 1 - run then some run
    else if e.dur = 0 then longChain l (i + 1) run else longChain l (i + 1) (i + 1)

/-- The duration check: the first entry with a duration below 100 ns, or the last entry where it has none (R74). -/
def badDuration (l : List CalEnt) : Option Nat :=
  match firstBad (fun e => decide (e.dur ≠ 0 ∧ e.dur < 100)) l 0 with
  | some i => some i
  | none => match l.getLast? with
    | some e => if e.dur = 0 then some (l.length - 1) else none
    | none => none

/-- A bus offset of a bank's registers, core sets or entries: whose bank it is (R84). -/
def bankOfOff (o : Nat) : Option Nat :=
  if 0x30100 ≤ o ∧ o < 0x30180 then some 0
  else if 0x30180 ≤ o ∧ o < 0x30200 then some 1
  else if 0x36000 ≤ o ∧ o < 0x37000 then some 0
  else if 0x37000 ≤ o ∧ o < 0x38000 then some 1
  else if 0x38000 ≤ o ∧ o < 0x3C000 then some 0
  else if 0x3C000 ≤ o ∧ o < 0x40000 then some 1
  else none

/-- The entry that an offset within the entry tables belongs to. -/
def entryOfOff (o : Nat) : Option Nat := if 0x38000 ≤ o ∧ o < 0x40000 then some ((o - 0x38000) % 0x4000 / 16) else none

/-- A core set names a core that is neither ABSENT nor RETIRED (R71). -/
def usedSet (s : State) (set : Nat) : Bool := (List.range 128).any (fun n => set.testBit n && coreUsable s n)

/-- The lowest offset of a bank at which a parity mismatch stands (R74; log 360). -/
def firstUpset (s : State) (x : Nat) : Option Nat :=
  (s.upset.filter (fun o => decide (bankOfOff o = some x))).foldl (fun b o => some (match b with | some c => min c o | none => o)) none

/-- The checks of an arm, in the order of R74: the code and the failing entry of the first that fails. -/
def armCheck (s : State) (x : Nat) : Nat × Option Nat :=
  let len := s.get CAL_BANK_LEN x
  let cyc := s.get CAL_BANK_CYCLE x
  let b := bankBound s x
  let l := bankEnts s x
  if len = 0 ∨ 1024 < len then (Code.badArgument, none)
  else if cyc < 10000 ∨ 10000000 < cyc then (Code.badArgument, none)
  else if b < 2000 ∨ 20000 < b then (Code.badArgument, none)
  else if (l.map (·.dur)).sum ≠ cyc then (Code.badArgument, none)
  else match badDuration l with
    | some i => (Code.badArgument, some i)
    | none => match longChain l 0 0 with
      | some i => (Code.badArgument, some i)
      | none => match firstBad (fun e => usedSet s e.set && !gatesAllowed e.gates) l 0 with
        | some i => (Code.badArgument, some i)
        | none => match firstBad (fun e => !e.clean) l 0 with
          | some i => (Code.badArgument, some i)
          | none =>
            if s.bit CAL_STATUS.PENDING ∨ (calActive s ∧ activeBank s = x) then (Code.stateConflict, none)
            else match firstUpset s x with
              | some o => (Code.configParity, entryOfOff o)
              | none => (Code.done, none)

/-- `CAL_ARM_RESULT` written (R74). -/
def armResult (s : State) (code : Nat) (idx : Option Nat) : State :=
  let s := s.set CAL_ARM_RESULT.CODE code
  match idx with
  | some i => (s.set CAL_ARM_RESULT.INDEX_VALID 1).set CAL_ARM_RESULT.INDEX i
  | none => (s.set CAL_ARM_RESULT.INDEX_VALID 0).set CAL_ARM_RESULT.INDEX 0

/-- ARM written: the checks act on the contents present now; ignored while an arm is in progress (R74). -/
def calArm (s : State) (x : Nat) : State :=
  if s.bit CAL_STATUS.ARMING then s.set CAL_STATUS.BANK_WRITE_REJECT 1
  else
    let (c, i) := armCheck s x
    { s.set CAL_STATUS.ARMING 1 with cal := { s.cal with armBank := x, armCode := c, armIdx := i } }

/-- The swap instant of the pending bank at or after a time (R76). -/
def fixSwap (s : State) (from_ : Nat) : State :=
  { s with cal := { s.cal with swapAt := some (cycleAt s s.cal.pendBank (max from_ (max (nowN s) (switchTime s)))) } }

/-- The end of arming (R74, R76). -/
def armDone (s : State) : State :=
  if s.bit CAL_STATUS.ARMING then
    let s := armResult (s.set CAL_STATUS.ARMING 0) s.cal.armCode s.cal.armIdx
    if s.cal.armCode = Code.done then
      let s := { s.set CAL_STATUS.PENDING 1 with cal := { s.cal with pendBank := s.cal.armBank, swapAt := none } }
      if fnState s calFn = Fn.running then fixSwap s 0 else s
    else s
  else s

/-- DISARM (R74, R75, R79). -/
def calDisarm (s : State) : State :=
  if s.bit CAL_STATUS.ARMING then armResult (s.set CAL_STATUS.ARMING 0) Code.stateConflict none
  else if s.bit CAL_STATUS.PENDING then
    let s := { s.set CAL_STATUS.PENDING 0 with cal := { s.cal with swapAt := none } }
    if fnState s calFn = Fn.starting then setFnState s calFn Fn.stopped else s
  else s

/-- A bank that writes may not touch: active, pending or being armed (R75). -/
def bankLocked (s : State) (x : Nat) : Bool :=
  (calActive s && decide (activeBank s = x)) || (s.bit CAL_STATUS.PENDING && decide (s.cal.pendBank = x)) ||
    (s.bit CAL_STATUS.ARMING && decide (s.cal.armBank = x))

/-- The bits of a row that software may write. -/
def writableBits (r : RegRow) : Nat :=
  (r.fields.map (fun f => if f.acc = .ro ∨ f.acc = .wo then 0 else (2 ^ (f.hi - f.lo + 1) - 1) * 2 ^ f.lo)).sum

/-- A write to a bank's entries, core sets or registers (R75); a later write clears a parity mismatch. -/
def bankWrite (s : State) (o : Nat) (v : Word) : State :=
  match bankOfOff o, regAt o with
  | some x, some (r, _, _) =>
    if bankLocked s x then s.set CAL_STATUS.BANK_WRITE_REJECT 1
    else rewritten (wrReg s o (v &&& BitVec.ofNat 32 (writableBits r))) o
  | _, _ => s

/-! ## Start, stop, entry ends and swaps -/

/-- START (R79, R76; the code DONE: log 8). -/
def calStart (s : State) : State :=
  if fnState s calFn = Fn.stopped then
    let s := s.set CAL_HARD_LATE_COUNT 0
    if parityHeld s calFn then faultFn s calFn Code.configParity
    else if s.bit CAL_STATUS.PENDING then
      let s := fixSwap (setFnState (setFnCode s calFn Code.done) calFn Fn.starting) (nowN s + maintLeft s)
      { s with cal := { s.cal with resync := false } }
    else faultFn s calFn Code.stateConflict
  else s

/-- The Calendar reaches STOPPED: no bank is active, and what waited takes effect (R79, R77). -/
def calHalt (s : State) : State := applyDeferred (applyIdle (setFnState s calFn Fn.stopped))

/-- STOP. DEDUCED (log 357): a Calendar that finishes the entry in use keeps that entry's gates and queue masks until it reaches
STOPPED (R79, R62). -/
def calStop (s : State) : State :=
  let st := fnState s calFn
  if st = Fn.running then
    if anyCellRunning s then s.set CAL_STATUS.STOP_REJECT 1
    else { setFnState s calFn Fn.stopping with cal := { s.cal with swapAt := none } }
  else if st = Fn.starting then { setFnState s calFn Fn.stopped with cal := { s.cal with swapAt := none } }
  else if st = Fn.faulted then calHalt s
  else s

/-- A fault of the Calendar: no bank is active and a fixed S lapses (R79, R76, R62). -/
def calFault (s : State) (c : Nat) : State :=
  let s := applyIdle (faultFn (if fnState s calFn = Fn.running then calLost s 1 else s) calFn c)
  { s with cal := { s.cal with swapAt := none } }

/-- The time N at which the entry in use ended, E (R76). -/
def endN (s : State) : Nat := (nowN s * 2 ^ 32 + s.clk.frac.toNat + s.cal.endAt - s.clk.elapsed) / 2 ^ 32

/-- The entry in use ends at or after the swap instant: the pending bank takes over (R76). -/
def swapDue (s : State) : Bool :=
  s.bit CAL_STATUS.PENDING && (match s.cal.swapAt with | some t => decide (t ≤ endN s) | none => false)

/-- The position p of the active bank's cycle taken from N; position 0 is a cycle start for every purpose (R78). -/
def takePos (s : State) (p power : Nat) (force : Bool) : State :=
  applyAt (if p = 0 then cycleStart s power else s) p (s.clk.elapsed - s.clk.frac.toNat) (p = 0) force

/-- The end of an entry: the next entries apply; after a step of N the position is taken anew (R72, R78). -/
def entryEnd (s : State) (power : Nat) : State :=
  if calActive s ∧ s.cal.endAt ≤ s.clk.elapsed then
    if fnState s calFn = Fn.stopping then calHalt s
    else if swapDue s then s
    else if s.cal.resync then takePos s (posOf s (activeBank s) (nowN s)) power false
    else if bankCycle s (activeBank s) ≤ s.cal.endOff then applyAt (cycleStart s power) 0 s.cal.endAt true false
    else applyAt s s.cal.endOff s.cal.endAt false false
  else s

/-- The pending bank becomes the active one. -/
def takeBank (s : State) : State :=
  { (((s.set CAL_STATUS.PENDING 0).set CAL_STATUS.ACTIVE_VALID 1).set CAL_STATUS.ACTIVE_BANK s.cal.pendBank) with
    cal := { s.cal with swapAt := none } }

/-- The first cycle of a Calendar that was STARTING begins at S; where a step of N has passed S by more than the shortest entry,
the position is taken from the new N (R76, R78, R79; log 361). -/
def calBegin (s : State) (t power : Nat) : State :=
  let n := nowN s
  let s := takeBank (calLost (setFnState s calFn Fn.running) 0)
  if s.cal.resync ∧ t + 100 ≤ n then takePos s (posOf s (activeBank s) n) power true
  else applyAt (cycleStart s power) 0 (s.clk.elapsed - ((n - t) * 2 ^ 32 + s.clk.frac.toNat)) true true

/-- The swap at E with the slip E − S: a slip of whole cycles begins one (R76, R72). -/
def calSwap (s : State) (t power : Nat) : State :=
  let slip := endN s - t
  let s := (takeBank (s.set CAL_SWAP_SLIP slip)).set CAL_STATUS.SWAP_DONE 1
  let p := slip % bankCycle s (activeBank s)
  applyAt (if p = 0 then cycleStart s power else s) p s.cal.endAt (p = 0) true

/-- The pending bank becomes active: at S out of STARTING, or at the end of the entry in use once S is reached (R76, R79). -/
def bankSwap (s : State) (power : Nat) : State :=
  match s.cal.swapAt with
  | none => s
  | some t =>
    if fnState s calFn = Fn.starting then (if s.bit CAL_STATUS.PENDING ∧ t ≤ nowN s then calBegin s t power else s)
    else if fnState s calFn = Fn.running ∧ s.cal.endAt ≤ s.clk.elapsed ∧ swapDue s then calSwap s t power
    else s

/-- A step of N: the entry in use finishes its remainder, or a Calendar that is STARTING goes on to S, and the position is then
taken anew (R78). -/
def calRecompute (s : State) : State :=
  if calActive s ∨ fnState s calFn = Fn.starting then { s with cal := { s.cal with resync := true } } else s

/-! ## What the issue logic asks -/

/-- The tenant bound that the loader verifies against (R65). -/
def loaderBound (s : State) : Nat :=
  let pend := s.bit CAL_STATUS.PENDING
  if calActive s then
    if pend then min (bankBound s (activeBank s)) (bankBound s s.cal.pendBank) else bankBound s (activeBank s)
  else if pend then bankBound s s.cal.pendBank
  else min (bankBound s 0) (bankBound s 1)

/-- The tenant window is closed by the guard band before a HARD opening (R63). -/
def inGuard (s : State) (n : Nat) : Bool :=
  match hardWait s n with
  | some w => decide (w < bankBound s (activeBank s))
  | none => false

/-- The part of the tenant window in which commands start has passed: the first ⌊L × D / 256⌋ ns of it (R80). -/
def dutyIdle (s : State) (n : Nat) : Bool :=
  let w := mapGet (fun _ => {}) s.cal.windows n
  let gone := nowNs s - w.start
  decide ((gone + windowLeft s n) * w.duty / 256 ≤ gone)

/-- A TENANT command may start on a core now (R59, R63, R80). -/
def tenantMayStart (s : State) (n : Nat) : Bool :=
  decide (coreGates s n &&& Gate.tenant ≠ 0) && decide (gatesOf s n &&& Gate.tenant ≠ 0) && calActive s &&
    !inGuard s n && !dutyIdle s n

/-- `CAL_CORE_GATE` of the selected core: no tenant window, so no idle part of one, runs in the guard band (R84, R80). -/
def coreGateView (s : State) : Nat :=
  let n := s.get CAL_CORE_SEL
  let g := gatesOf s n
  let t := decide (g &&& Gate.tenant ≠ 0)
  g + (if t && inGuard s n then 16 else 0) + (if t && !inGuard s n && dutyIdle s n then 32 else 0)

/-! ## The commands -/

/-- CAL_ENTRY_END: the tick ending the entry in use, with the card power of the cycle that it may end (R72, R80). -/
def execCalEntryEnd (power : Nat) (s : State) : Out := .next (entryEnd s power)

/-- CAL_ARM (R74). -/
def execCalArm (bank : Bool) (s : State) : Out := .next (calArm s (bankNo bank))

/-- ARM_DONE (R74). -/
def execArmDone (s : State) : Out := .next (armDone s)

/-- CAL_DISARM (R74, R75, R79). -/
def execCalDisarm (s : State) : Out := .next (calDisarm s)

/-- CAL_START (R79). -/
def execCalStart (s : State) : Out := .next (calStart s)

/-- CAL_STOP (R79). -/
def execCalStop (s : State) : Out := .next (calStop s)

/-- BANK_SWAP (R76, R79). -/
def execBankSwap (power : Nat) (s : State) : Out := .next (bankSwap s power)

/-- BANK_WRITE: a write to a bank register, core set or entry at a bus offset (R75). -/
def execBankWrite (off : Nat) (v : Word) (s : State) : Out := .next (bankWrite s off v)

/-- TOKEN_ACCRUE (R82). -/
def execTokenAccrue (t : Nat) (s : State) : Out := .next (tokenAccrue s t)

end Sys2Proof.Machine
end

