-- ==== Sys2Proof/Machine/Almanac.lean ====
section
/-! DEFINITION. The Almanac: the counter, its servo, the time states, the pulses and the captures (02_almanac.md). -/

namespace Sys2Proof.Machine

abbrev Ts.freeRun : Nat := 0
abbrev Ts.acquiring : Nat := 1
abbrev Ts.locked : Nat := 2
abbrev Ts.holdover : Nat := 3
abbrev Ts.expired : Nat := 4

/-- The status register of the time servo. -/
abbrev almFn : Nat := 0x20004

/-- The present time state (R50). -/
def timeState (s : State) : Nat := s.get ALM_STATUS.TIME_STATE

/-! ## The counter -/

/-- Nominal increment, 2 ns in 32.32 (R32). -/
def nominalIncr : Nat := 2 * 2 ^ 32

/-- The increment in force (R35). -/
def incrNow (s : State) : Nat := s.get2 ALM_INCR_LO ALM_INCR_HI

/-- An increment clamped to 2 ns × (1 ± `ALM_FREQ_LIMIT` × 10^-9) (R35). -/
def clampIncr (s : State) (v : Int) : Nat :=
  let d : Int := nominalIncr * s.get ALM_FREQ_LIMIT / 1000000000
  (max (nominalIncr - d) (min v (nominalIncr + d))).toNat

/-- An increment loaded: both registers and the staging latch take it (R35). -/
def loadIncr (s : State) (v : Nat) : State :=
  let s := s.set2 ALM_INCR_LO ALM_INCR_HI v
  { s with clk := { s.clk with incrLatch := BitVec.ofNat 32 v, incrPend := none } }

/-- A pulse output's record. -/
def pulseAt (s : State) (k : Nat) : Pulse := mapGet (fun _ => {}) s.pulses k

/-- The state with a pulse output's record replaced. -/
def setPulse (s : State) (k : Nat) (p : Pulse) : State := { s with pulses := mapPut (fun _ => {}) s.pulses k p }

/-- The first number a + k × period, k at least 1, that lies after `now` (R54). -/
def nextAfter (a period now : Nat) : Nat :=
  if now < a + period then a + period else a + ((now - a) / max period 1 + 1) * period

/-- A forward step over the next scheduled edge skips it (R55). -/
def pulseSkip (before : Nat) (s : State) (k : Nat) : State :=
  let p := pulseAt s k
  match p.next with
  | none => s
  | some e =>
    if before < e ∧ e < nowN s then
      let s := s.bumpSat ALM_PLS_SKIP k
      setPulse s k { p with next := if s.get ALM_PLS_CTRL.MODE k = 2 then some (e + s.get ALM_PLS_PERIOD k) else none }
    else s

/-- The increment that the next tick adds: the one it loads, or else the one in force (R32, R35; log 201). -/
def tickIncr (s : State) : Nat :=
  match s.clk.incrPend with
  | some v => v.toNat
  | none => incrNow s

/-- One tick of the Almanac clock (R32, R35, R36, R48): a pending increment is loaded; a pending set loads N and clears the
fraction; else N takes the tick's increment; a pending firmware step is added, or else, with no set, a pending servo step. -/
def almTick (s : State) : State :=
  let c := s.clk
  let inc := tickIncr s
  let sum := c.n.toNat * 2 ^ 32 + c.frac.toNat + inc
  let ticked := BitVec.ofNat 64 (sum / 2 ^ 32)
  let frac := BitVec.ofNat 32 sum
  let base := { c with ticks := c.ticks + 1, elapsed := c.elapsed + inc, setPend := none, stepPend := none,
                       servoStep := none }
  let s1 := match c.incrPend with
    | some v => loadIncr { s with clk := base } v.toNat
    | none => { s with clk := base }
  match c.setPend with
  | some v =>
    calRecompute (forEach (List.range 8) (pulseSkip c.n.toNat)
      { s1 with clk := { s1.clk with n := v + BitVec.ofInt 64 (c.stepPend.getD 0), frac := 0 } })
  | none =>
    match c.stepPend with
    | some d =>
      calRecompute (forEach (List.range 8) (pulseSkip ticked.toNat)
        { s1 with clk := { s1.clk with n := ticked + BitVec.ofInt 64 d, frac := frac } })
    | none =>
      match c.servoStep with
      | some d =>
        let s2 := { s1 with clk := { s1.clk with n := ticked + BitVec.ofInt 64 d, frac := frac },
                            servo := { s1.servo with integ := 0 } }
        calRecompute (forEach (List.range 8) (pulseSkip ticked.toNat) (s2.set ALM_STATUS.STEP_DONE 1))
      | none => { s1 with clk := { s1.clk with n := ticked, frac := frac } }

/-- A read of `ALM_NS_LO`: its data, and the high word and the fraction latched from the same tick (R34). -/
def readNsLo (s : State) : State :=
  let s := (s.set ALM_NS_LO s.clk.n.toNat).set ALM_NS_HI (s.clk.n.toNat / 2 ^ 32)
  { s.set ALM_FRAC s.clk.frac.toNat with rdata := BitVec.ofNat 64 (s.clk.n.toNat % 2 ^ 32) }

/-- A write of `ALM_INCR_LO` goes to the staging latch (R35). -/
def writeIncrLo (s : State) (v : Word) : State :=
  if fnState s almFn = Fn.stopped then rewritten { s with clk := { s.clk with incrLatch := v } } ALM_INCR_LO.addr
  else rejectCfg s almFn

/-- A write of `ALM_INCR_HI` takes the latched low word and loads both, clamped, on the next tick (R35). -/
def writeIncrHi (s : State) (v : Word) : State :=
  if fnState s almFn = Fn.stopped then
    rewritten { s with clk := { s.clk with
        incrPend := some (BitVec.ofNat 64 (clampIncr s (v.toNat * 2 ^ 32 + s.clk.incrLatch.toNat))) } } ALM_INCR_HI.addr
  else rejectCfg s almFn

/-- Whether N may be set or stepped: only in FREE_RUN or ACQUIRING (R36). -/
def mayStep (s : State) : Bool := decide (timeState s = Ts.freeRun) || decide (timeState s = Ts.acquiring)

/-- A write of `ALM_SET_HI`: the set takes effect on the next tick (R36). -/
def writeSetHi (s : State) (v : Word) : State :=
  if mayStep s then
    { s with clk := { s.clk with setPend := some (v ++ s.clk.setLo), stepPend := none, servoStep := none } }
  else rejectCfg s almFn

/-- A write of `ALM_STEP`: the step takes effect on the next tick, after what was written before it for that tick (log 206);
a servo step of that tick is discarded (R36). -/
def writeStep (s : State) (v : Word) : State :=
  if mayStep s then
    { s with clk := { s.clk with stepPend := some (s.clk.stepPend.getD 0 + v.toInt), servoStep := none } }
  else rejectCfg s almFn

/-! ## Time states -/

/-- The mean of the adjustments computed since the servo left STOPPED, at most the last 64; the present value where there
are none (R51). -/
def meanY (v : Servo) : Int :=
  if v.yHist.isEmpty then v.y else (v.yHist.foldl (· + ·) 0).tdiv v.yHist.length

/-- The increment that an adjustment in 2^-32 ppb gives: 2 ns plus round(2 ns × y × 10^-9), halves away from zero (R47). -/
def incrOfY (y : Int) : Int :=
  let num := 2 * y
  let d : Int := 1000000000
  nominalIncr + (if 0 ≤ num then (2 * num + d) / (2 * d) else -((2 * -num + d) / (2 * d)))

/-- An adjustment put in force: the increment for the next tick, `ALM_FREQ_ADJ` (R47; modulo 2^32 where it does not fit: log
326). -/
def applyY (s : State) (y : Int) : State :=
  let s := { s with servo := { s.servo with y := y },
                    clk := { s.clk with incrPend := some (BitVec.ofNat 64 (clampIncr s (incrOfY y))) } }
  s.setS ALM_FREQ_ADJ (y.tdiv (2 ^ 16))

/-- Unit of the time error: 1 / (65536 × 10^9) ns, as |e_last| + `ALM_HO_BASE` + the summed rate terms (R51). -/
def holdoverTe (s : State) : Nat :=
  s.servo.hoE * 1000000000 + s.get ALM_HO_BASE * (65536 * 1000000000) + s.servo.hoSum * 256

/-- `ALM_HO_TE` in ns, saturating (R51). -/
def publishTe (s : State) : State :=
  s.set ALM_HO_TE (min (holdoverTe s / (65536 * 1000000000)) (2 ^ 32 - 1))

/-- Entry to a time state with what R50 to R52 give that entry; at the entry to HOLDOVER e_last is the last valid sample, and
`ALM_HO_TE` shows TE at once (DESIGN CHOICE, logs 327 and 328). -/
def enterTime (s : State) (t : Nat) : State :=
  let old := timeState s
  let s := s.set ALM_STATUS.TIME_STATE t
  let s := if (old = Ts.holdover ∨ old = Ts.expired) ∧ t ≠ Ts.holdover ∧ t ≠ Ts.expired then s.set ALM_HO_TE 0 else s
  let s :=
    if t = Ts.holdover then
      let s := applyY s (meanY s.servo)
      publishTe { s with servo := { s.servo with
        hoE := s.servo.eLast.natAbs, hoSum := 0, hoSync := 0, hoFree := 0, hoMark := nowNs s, hoNext := nowNs s + 1000000,
        okRun := 0, hoBadRun := 0 } }
    else if t = Ts.expired then s.set ALM_STATUS.FAULT_CODE Code.holdoverExpired
    else if t = Ts.acquiring then { s with servo := { s.servo with okRun := 0 } }
    else if t = Ts.locked then { s with servo := { s.servo with outlierRun := 0 } }
    else s
  signalTime s t

/-- The servo leaves RUNNING: the time state follows (R53). -/
def servoStopped (s : State) : State :=
  let t := timeState s
  if t = Ts.locked then enterTime s Ts.holdover
  else if t = Ts.acquiring then enterTime { s with clk := { s.clk with servoStep := none } } Ts.freeRun
  else s

/-! ## Samples -/

/-- A number clamped to ± a bound. -/
def clampTo (b x : Int) : Int := max (-b) (min b x)

/-- The servo update for a sample e, 2^-16 ns (R47). -/
def servoUpdate (s : State) (e : Int) : State :=
  let lim : Int := s.get ALM_FREQ_LIMIT * 2 ^ 32
  let integ := clampTo lim (s.servo.integ - s.get ALM_SERVO_KI * e)
  let y := clampTo lim (integ - s.get ALM_SERVO_KP * e)
  applyY { s with servo := { s.servo with integ := integ, yHist := (y :: s.servo.yHist).take 64 } } y

/-- A length in 2^-16 ns rounded to whole nanoseconds, halves away from zero (R48). -/
def roundNs (e : Int) : Int := if 0 ≤ e then (e + 32768) / 65536 else -((-e + 32768) / 65536)

/-- A threshold register's value in 2^-16 ns. -/
def thresh (s : State) (f : Fld) : Nat := s.get f * 65536

/-- A sample counted as valid: the loss time restarts and it is the last sample (R50, R51; log 327). -/
def noteValid (s : State) (e : Int) : State :=
  { s with servo := { s.servo with eLast := e, lastValid := nowNs s } }

/-- A sample counted toward `ALM_LOCK_COUNT`, with entry to LOCKED when the count is reached (R50). -/
def countLock (s : State) (e : Int) : State :=
  let run := if e.natAbs ≤ thresh s ALM_LOCK_THRESH then s.servo.okRun + 1 else 0
  let s := { s with servo := { s.servo with okRun := run } }
  if s.get ALM_LOCK_COUNT ≤ run then enterTime s Ts.locked else s

/-- A sample in ACQUIRING: a step on the next tick, or the servo update (R48). -/
def sampleAcquiring (s : State) (e : Int) : State :=
  let s := noteValid s e
  if thresh s ALM_STEP_THRESH < e.natAbs then
    countLock { s with clk := { s.clk with servoStep := some (-(roundNs e)) } } e
  else countLock (servoUpdate s e) e

/-- A sample in LOCKED: an outlier is discarded and counted, eight in a row lead to HOLDOVER; any other feeds the servo
(R48, R50). -/
def sampleLocked (s : State) (e : Int) : State :=
  if thresh s ALM_OUTLIER < e.natAbs then
    let s := s.bumpSat ALM_STATUS.OUTLIER_COUNT
    let s := { s with servo := { s.servo with outlierRun := s.servo.outlierRun + 1 } }
    if 8 ≤ s.servo.outlierRun then enterTime s Ts.holdover else s
  else servoUpdate (noteValid { s with servo := { s.servo with outlierRun := 0 } } e) e

/-- A sample in HOLDOVER: it feeds the servo; runs of good or bad samples leave the state (R48, R50). -/
def sampleHoldover (s : State) (e : Int) : State :=
  let s := servoUpdate (noteValid s e) e
  let bad := if thresh s ALM_HO_LIMIT < e.natAbs then s.servo.hoBadRun + 1 else 0
  let s := { s with servo := { s.servo with hoBadRun := bad } }
  if 8 ≤ bad then enterTime s Ts.expired else countLock s e

/-- One offset sample, 2^-16 ns, treated by the time state (R48, R50; `ALM_OFFSET` modulo 2^32: log 326). -/
def takeSample (s : State) (e : Int) : State :=
  let s := s.setS ALM_OFFSET (e.tdiv 256)
  let t := timeState s
  if t = Ts.freeRun ∨ t = Ts.expired then sampleAcquiring (enterTime s Ts.acquiring) e
  else if t = Ts.acquiring then sampleAcquiring s e
  else if t = Ts.locked then sampleLocked s e
  else sampleHoldover s e

/-- A register of 2^-8 ns in 2^-16 ns. -/
def ns8 (x : Int) : Int := x * 256

/-- Samples are formed from PTP: the servo runs, the source is PTP and an upstream sub-port is chosen (R46, R53, R57). -/
def ptpReady (s : State) (sub : Nat) : Bool :=
  decide (fnState s almFn = Fn.running) && decide (s.get ALM_CFG.SOURCE = 1) &&
    s.bit ALM_STATUS.UP_VALID && decide (s.get ALM_STATUS.UP_SUB = sub)

/-- The transport of PTP messages: 0 Ethernet, which G.8275.1 uses, else what `TRANSPORT` selects: 1 UDP/IPv4, 2 UDP/IPv6
(R45). -/
def ptpTransport (s : State) : Nat := if s.get ALM_CFG.PROFILE = 0 then 0 else s.get ALM_CFG.TRANSPORT

/-- A message belongs to the slave role: its domain and its transport are the configured ones (R45, R57). -/
def ptpMine (s : State) (dom tr : Nat) : Bool := dom == s.get ALM_CFG.PTP_DOMAIN && tr == ptpTransport s

/-- The receive time of a frame at the reference plane, 2^-8 ns: the sample in quarter nanoseconds less the correction and
the trim (R41, R42). -/
def rxTime (s : State) (p q : Nat) : Int :=
  (nowN s * 256 + q * 64 : Nat) - ((s.get ALM_TSC_IN p : Int) + s.getS ALM_TSC_TRIM p)

/-- The transmit time of a frame at the reference plane, 2^-8 ns, from the sample in quarter nanoseconds (R41, R42). -/
def txTime (s : State) (p q : Nat) : Int :=
  (nowN s * 256 + q * 64 : Nat) + ((s.get ALM_TSC_EG p : Int) + s.getS ALM_TSC_TRIM p)

/-- A Sync with origin time t1 and correction c, 2^-16 ns, received q quarter nanoseconds after the last tick (R46). -/
def syncSample (s : State) (sub dom tr : Nat) (t1 c : Int) (q : Nat) : State :=
  if ptpReady s sub && ptpMine s dom tr then
    let ms := ns8 (rxTime s (s.get ALM_CFG.UP_PORT) q) - t1 - c
    let s := { s with servo := { s.servo with lastMs := some ms } }
    match s.servo.mpd with
    | none => s
    | some mpd => takeSample s (ms - (mpd + ns8 (s.getS ALM_ASYM (s.get ALM_CFG.UP_PORT))))
  else s

/-- A Delay_Resp with receive time t4 and correction c, in 2^-16 ns, completes the exchange whose Delay_Req it answers; one
that arrives before any Sync completes none, and its Delay_Req stays in progress (R46; DESIGN CHOICE, log 329;
`ALM_PATH_DELAY` modulo 2^32: log 326). -/
def delayExchange (s : State) (sub dom tr seq : Nat) (t4 c : Int) : State :=
  if ptpReady s sub && ptpMine s dom tr then
    match (s.servo.reqs.find? (fun r => r.1 == seq)).map (·.2), s.servo.lastMs with
    | some t3, some ms =>
      let raw := (ms + (t4 - t3 - c)).tdiv 2
      let mpd := match s.servo.mpd with
        | none => raw
        | some m => m + (raw - m) / 2 ^ s.get ALM_PD_SHIFT
      let s := { s with servo := { s.servo with mpd := some mpd, reqs := s.servo.reqs.filter (fun r => r.1 != seq) } }
      s.setS ALM_PATH_DELAY (mpd.tdiv 256)
    | _, _ => s
  else s

/-- A rising edge on PPS_IN, q quarter nanoseconds after the last tick, forms one sample (R46). -/
def ppsSample (s : State) (q : Nat) : State :=
  if fnState s almFn = Fn.running ∧ s.get ALM_CFG.SOURCE = 2 then
    let m : Int := (nowN s % 1000000000 : Nat) * 65536 + q * 16384
    let m := if m > 500000000 * 65536 then m - 1000000000 * 65536 else m
    takeSample s (m - s.getS ALM_PPS_DELAY * 65536)
  else s

/-- No valid sample for `ALM_LOSS_TIMEOUT` (R50). -/
def lossTimeout (s : State) : State :=
  if s.servo.lastValid + s.get ALM_LOSS_TIMEOUT ≤ nowNs s then
    if timeState s = Ts.acquiring then enterTime s Ts.freeRun
    else if timeState s = Ts.locked then enterTime s Ts.holdover
    else s
  else s

/-- The time since the last split added to the part of the present rate (R51). -/
def splitMs (s : State) (upTo : Nat) : State :=
  let d := upTo - s.servo.hoMark
  if s.bit ALM_SYNCE_CTRL.QUALIFIED then
    { s with servo := { s.servo with hoSync := s.servo.hoSync + d, hoMark := max upTo s.servo.hoMark } }
  else { s with servo := { s.servo with hoFree := s.servo.hoFree + d, hoMark := max upTo s.servo.hoMark } }

/-- The update of the time error at the end of a millisecond of holdover (R51, R50). -/
def teUpdate (s : State) : State :=
  if (timeState s = Ts.holdover ∨ timeState s = Ts.expired) ∧ s.servo.hoNext ≤ nowNs s then
    let s := splitMs s s.servo.hoNext
    let sum := s.servo.hoSum + s.get ALM_HO_RATE_SYNCE * s.servo.hoSync + s.get ALM_HO_RATE_FREE * s.servo.hoFree
    let s := publishTe { s with servo := { s.servo with
      hoSum := sum, hoSync := 0, hoFree := 0, hoNext := s.servo.hoNext + 1000000 } }
    if timeState s = Ts.holdover ∧ s.get ALM_HO_LIMIT * (65536 * 1000000000) < holdoverTe s then enterTime s Ts.expired
    else s
  else s

/-- A change of what `ALM_SYNCE_CTRL` says: the rate of holdover switches with QUALIFIED, and the time PLL with it (R49,
R51). -/
def synceTurn (s : State) (v : Word) : State :=
  let sameLane := decide (getBits (rdReg s 0x20098) 0 5 = getBits v 0 5)
  let s := if timeState s = Ts.holdover ∨ timeState s = Ts.expired then splitMs s (min (nowNs s) s.servo.hoNext) else s
  let s := s.set ALM_STATUS.SYNCE_QUALIFIED (getBits v 7 1)
  { s with
    servo := { s.servo with
      pllSynce := decide (getBits v 7 1 = 1)
      squelched := s.servo.squelched && sameLane } }

/-- A write of `ALM_SYNCE_CTRL` (R49, R51). -/
def writeSynce (s : State) (v : Word) : State :=
  let s := synceTurn s v
  rewritten (((s.set ALM_SYNCE_CTRL.QUALIFIED (getBits v 7 1)).set ALM_SYNCE_CTRL.PORT (getBits v 2 3)).set
    ALM_SYNCE_CTRL.LANE (getBits v 0 2)) 0x20098

/-! ## The upstream sub-port -/

/-- The sub-ports of a port by its mode (11_nr_baseband.md R266). -/
def subPorts (s : State) (p : Nat) : Nat :=
  match s.get FH_CFG.MODE p with
  | 0 => 1
  | 1 => 2
  | _ => 4

/-- The lowest sub-port of a fronthaul port whose link is up, while the port is RUNNING (R57). -/
def upstreamOf (s : State) (p : Nat) : Option Nat :=
  if fnState s (FH_STATUS.W.addr p) = Fn.running then
    (List.range (subPorts s p)).find? (fun k => s.bit FH_SUB_STATUS.LINK_UP p k)
  else none

/-- The upstream sub-port chosen afresh: a change discards the exchanges of the old one, and none chosen counts as the
upstream link down (R57, R50). -/
def chooseUpstream (s : State) : State :=
  let old := if s.bit ALM_STATUS.UP_VALID then some (s.get ALM_STATUS.UP_SUB) else none
  let new := upstreamOf s (s.get ALM_CFG.UP_PORT)
  let s := match new with
    | some k => (s.set ALM_STATUS.UP_VALID 1).set ALM_STATUS.UP_SUB k
    | none => s.set ALM_STATUS.UP_VALID 0
  let s := if old = new then s
    else { s with servo := { s.servo with lastMs := none, reqs := [], mpd := none } }
  if new = none ∧ s.get ALM_CFG.SOURCE = 1 ∧ timeState s = Ts.locked then enterTime s Ts.holdover else s

/-- The check that a START of the time servo makes (R57). -/
def almCheck (s : State) : Option Nat :=
  if s.get ALM_CFG.TRANSPORT = 3 ∨ s.get ALM_CFG.SOURCE = 3 ∨
      (s.get ALM_CFG.TRANSPORT ≠ 0 ∧ s.get ALM_CFG.PROFILE = 0) then some Code.badArgument else none

/-- START of the time servo (R57, R46, R51). -/
def almStart (s : State) : State :=
  if fnState s almFn = Fn.stopped then
    let s := startFn s almFn (almCheck s)
    if fnState s almFn = Fn.running then
      let s := s.set ALM_STATUS.OUTLIER_COUNT 0
      chooseUpstream { s with servo := { s.servo with mpd := none, lastMs := none, reqs := [], yHist := [] } }
    else s
  else s

/-- STOP of the time servo: through STOPPING to STOPPED; from FAULTED to STOPPED too (R57, R53). -/
def almStop (s : State) : State :=
  if fnState s almFn = Fn.running then servoStopped (setFnState s almFn Fn.stopped)
  else if fnState s almFn = Fn.faulted then setFnState s almFn Fn.stopped
  else s

/-- A fault of the time servo changes the time state exactly as a STOP does (R53). -/
def almFault (s : State) (c : Nat) : State :=
  if fnState s almFn = Fn.running then servoStopped (faultFn s almFn c) else faultFn s almFn c

/-! ## Pulses and captures -/

/-- A lead edge scheduled from the START in force: at START, or, where it is already past, PAST set and in PERIODIC mode
the first later multiple (R54). -/
def armPulse (s : State) (k mode : Nat) : State :=
  let p := pulseAt s k
  if nowN s ≤ p.start.toNat then setPulse s k { p with next := some p.start.toNat }
  else
    let s := s.set ALM_PLS_CTRL.PAST 1 k
    setPulse s k { p with next :=
      if mode = 2 then some (nextAfter p.start.toNat (s.get ALM_PLS_PERIOD k) (nowN s)) else none }

/-- Whether a mode value drives an output: ONE_SHOT or PERIODIC (R57). -/
def modeOn (m : Nat) : Bool := m == 1 || m == 2

/-- An output switched off: every scheduled edge is cancelled, a pulse in progress ends (R57). -/
def pulseOff (s : State) (k : Nat) : State := setPulse s k { pulseAt s k with next := none, fall := none, last := none }

/-- A write of `ALM_PLS_CTRL_k` (R57); a change from ONE_SHOT to PERIODIC where no lead edge has fallen and none is scheduled,
since START was past or the edge was skipped, schedules none (DESIGN CHOICE, log 330). -/
def writePulseCtrl (s : State) (k : Nat) (v : Word) : State :=
  let old := s.get ALM_PLS_CTRL.MODE k
  let new := getBits v 0 2
  let s := rewritten ((s.set ALM_PLS_CTRL.MODE new k).set ALM_PLS_CTRL.POL (getBits v 2 1) k) (ALM_PLS_CTRL.W.addr k)
  let s := if getBits v 3 1 = 1 then s.set ALM_PLS_CTRL.PAST 0 k else s
  let p := pulseAt s k
  if old = new then s
  else if !modeOn new then pulseOff s k
  else if !modeOn old then armPulse (setPulse s k { p with last := none }) k new
  else match p.last with
    | none => s
    | some e => setPulse s k { p with
        next := if new = 2 then some (nextAfter e (s.get ALM_PLS_PERIOD k) (nowN s)) else none }

/-- The START that the two registers hold comes into force: it replaces the next edge, or waits for the next enable (R57). -/
def takeStart (s : State) (k : Nat) : State :=
  let st := BitVec.ofNat 64 (s.get2 ALM_PLS_START_LO ALM_PLS_START_HI k)
  let s := setPulse s k { pulseAt s k with start := st }
  if modeOn (s.get ALM_PLS_CTRL.MODE k) then armPulse s k (s.get ALM_PLS_CTRL.MODE k) else s

/-- A write of `ALM_PLS_START_HI_k` (R57). -/
def writePulseStart (s : State) (k : Nat) (v : Word) : State :=
  takeStart (rewritten (s.set ALM_PLS_START_HI v.toNat k) (ALM_PLS_START_HI.addr k)) k

/-- What follows when an ALM register that no function owns begins to behave as its reset value: an output's control reads
OFF, its START 0, and SyncE is not qualified (R57; 18_registers_mailbox.md R412; log 331). -/
def almDoubt (s : State) (o : Nat) : State :=
  if o = 0x20098 then synceTurn s 0
  else match (List.range 8).find? (fun k => ALM_PLS_CTRL.W.addr k == o) with
  | some k => pulseOff s k
  | none => match (List.range 8).find? (fun k => ALM_PLS_START_LO.addr k == o || ALM_PLS_START_HI.addr k == o) with
  | some k => takeStart s k
  | none => s

/-- The lead edge at the first tick at or after the scheduled time (R54). -/
def pulseLead (s : State) (k : Nat) : State :=
  let p := pulseAt s k
  match p.next with
  | none => s
  | some e =>
    if e ≤ nowN s then
      setPulse s k { p with
        last := some e
        fall := some (s.clk.ticks + (s.get ALM_PLS_WIDTH k + 1) / 2)
        next := if s.get ALM_PLS_CTRL.MODE k = 2 then some (e + s.get ALM_PLS_PERIOD k) else none }
    else s

/-- The trailing edge after the width's elapsed ticks (R54). -/
def pulseTrail (s : State) (k : Nat) : State :=
  let p := pulseAt s k
  match p.fall with
  | none => s
  | some t => if t ≤ s.clk.ticks then setPulse s k { p with fall := none } else s

/-- The level of pulse output k: active while a pulse is in progress, by POL (R54). -/
def pulseLevel (s : State) (k : Nat) : Bool := (pulseAt s k).fall.isSome != s.bit ALM_PLS_CTRL.POL k

/-- The FIFO of capture input k. -/
def captAt (s : State) (k : Nat) : List (BitVec 64) := mapGet (fun _ => []) s.capt k

/-- The FIFO of a capture input replaced, FILL with it (R56). -/
def setCapt (s : State) (k : Nat) (l : List (BitVec 64)) : State :=
  { s with capt := mapPut (fun _ => []) s.capt k l }.set ALM_CAPT_CTRL.FILL l.length k

/-- An edge on a capture input, q quarter nanoseconds after the last tick (R56). -/
def captureEdge (s : State) (k : Nat) (rising : Bool) (q : Nat) : State :=
  let e := s.get ALM_CAPT_CTRL.EDGE k
  if (rising ∧ (e = 1 ∨ e = 3)) ∨ (!rising ∧ (e = 2 ∨ e = 3)) then
    if (captAt s k).length < 4 then setCapt s k (captAt s k ++ [BitVec.ofNat 64 (4 * nowN s + q)])
    else s.set ALM_CAPT_CTRL.OVERFLOW 1 k
  else s

/-- A read of `ALM_CAPT_TS_LO_k`: the oldest entry, its high word latched; 0 from an empty FIFO (R56). -/
def captureRead (s : State) (k : Nat) : State :=
  let x : BitVec 64 := (captAt s k).headD 0
  let s := (s.set ALM_CAPT_TS_LO x.toNat k).set ALM_CAPT_TS_HI (x.toNat / 2 ^ 32) k
  { setCapt s k (captAt s k).tail with rdata := BitVec.ofNat 64 (x.toNat % 2 ^ 32) }

/-! ## Stamps (R37 to R40) -/

/-- A stamp extended to full time against a current time (R38). -/
def extendStamp (st : Word) (now : Nat) : Nat :=
  let d : Int := (st - BitVec.ofNat 32 now).toInt
  ((now : Int) + d).toNat % 2 ^ 64

/-- The floor F (R39). -/
def floorF (s : State) : Nat := s.get2 ALM_FLOOR_LO ALM_FLOOR_HI

/-- An arriving stamp raises the floor; far ahead of N it is noted with its source node (R39, R40). -/
def raiseFloor (s : State) (st : Word) (src : Nat) : State :=
  let e := extendStamp st (nowN s)
  let s := s.set2 ALM_FLOOR_LO ALM_FLOOR_HI (max (floorF s) (e + 1))
  if nowN s + s.get ALM_FLOOR_LIMIT < e then (s.set ALM_STATUS.FLOOR_AHEAD 1).set ALM_FLOOR_SRC src else s

/-- The time that an issue takes: max(N, F) (R39). -/
def issueTime (s : State) : Nat := max (nowN s) (floorF s)

/-- The floor raised to the time issued (R39). -/
def issue (s : State) : State := s.set2 ALM_FLOOR_LO ALM_FLOOR_HI (max (floorF s) (issueTime s))

/-! ## The commands -/

/-- ALMANAC_TICK (R32). -/
def execAlmanacTick (s : State) : Out := .next (almTick s)

/-- ALM_NS_LO_READ (R34). -/
def execAlmNsLoRead (s : State) : Out := .next (readNsLo s)

/-- INCREMENT_WRITE: a write of `ALM_INCR_HI` (R35). -/
def execIncrementWrite (v : Word) (s : State) : Out := .next (writeIncrHi s v)

/-- SET_TIME: a write of `ALM_SET_HI` (R36). -/
def execSetTime (v : Word) (s : State) : Out := .next (writeSetHi s v)

/-- STEP_TIME: a write of `ALM_STEP` (R36). -/
def execStepTime (v : Word) (s : State) : Out := .next (writeStep s v)

/-- SYNCE_QUALIFIED_WRITE: a write of `ALM_SYNCE_CTRL` (R49, R51). -/
def execSynceQualifiedWrite (v : Word) (s : State) : Out := .next (writeSynce s v)

/-- SYNCE_LOSS_OF_SIGNAL: the recovered clock output is squelched (R49). -/
def execSynceLossOfSignal (s : State) : Out := .next { s with servo := { s.servo with squelched := true } }

/-- SYNC_RECEIVED (R46 to R50). -/
def execSyncReceived (m : PtpHead) (t1 corr : Int) (q : Nat) (s : State) : Out :=
  .next (syncSample s m.sub m.dom m.tr t1 corr q)

/-- DELAY_RESP_RECEIVED (R46). -/
def execDelayRespReceived (m : PtpHead) (t4 corr : Int) (s : State) : Out :=
  .next (delayExchange s m.sub m.dom m.tr m.seq t4 corr)

/-- PPS_EDGE (R46). -/
def execPpsEdge (q : Nat) (s : State) : Out := .next (ppsSample s q)

/-- SERVO_STEP: the tick on which a waiting servo step applies (R48, R36). -/
def execServoStep (s : State) : Out := .next (if s.clk.servoStep.isSome then almTick s else s)

/-- LOSS_TIMEOUT (R50). -/
def execLossTimeout (s : State) : Out := .next (lossTimeout s)

/-- HOLDOVER_TE_UPDATE (R51, R52). -/
def execHoldoverTeUpdate (s : State) : Out := .next (teUpdate s)

/-- ALM_START (R57). -/
def execAlmStart (s : State) : Out := .next (almStart s)

/-- ALM_STOP (R53). -/
def execAlmStop (s : State) : Out := .next (almStop s)

/-- FH_LINK_CHANGE: the link of a sub-port comes up or goes down (R57). -/
def execFhLinkChange (p k : Nat) (up : Bool) (s : State) : Out :=
  .next (if p < 8 ∧ k < subPorts s p then
    chooseUpstream ((s.set FH_SUB_STATUS.LINK_UP (if up then 1 else 0) p k).set FH_SUB_STATUS.FEC_LOCK (if up then 1 else 0) p k)
  else s)

/-- PULSE_LEAD_EDGE (R54). -/
def execPulseLeadEdge (k : Nat) (s : State) : Out := .next (if k < 8 then pulseLead s k else s)

/-- PULSE_TRAIL_EDGE (R54). -/
def execPulseTrailEdge (k : Nat) (s : State) : Out := .next (if k < 8 then pulseTrail s k else s)

/-- PULSE_CTRL_WRITE (R57). -/
def execPulseCtrlWrite (k : Nat) (v : Word) (s : State) : Out := .next (if k < 8 then writePulseCtrl s k v else s)

/-- PULSE_START_WRITE: a write of `ALM_PLS_START_HI_k` (R57). -/
def execPulseStartWrite (k : Nat) (v : Word) (s : State) : Out := .next (if k < 8 then writePulseStart s k v else s)

/-- CAPTURE_EDGE (R56). -/
def execCaptureEdge (k : Nat) (rising : Bool) (q : Nat) (s : State) : Out :=
  .next (if k < 8 ∧ q < 8 then captureEdge s k rising q else s)

/-- CAPTURE_READ: a read of `ALM_CAPT_TS_LO_k` (R56). -/
def execCaptureRead (k : Nat) (s : State) : Out := .next (if k < 8 then captureRead s k else s)

end Sys2Proof.Machine
end

