-- ==== Sys2Proof/Machine/Array.lean ====
section
/-! DEFINITION. The matrix array as a function: start, stop, test, the spare row and the Lantern (04_matrix_array.md). -/

namespace Sys2Proof.Machine

/-- The status register of core n's array. -/
def arrFn (n : Nat) : Nat := CORE_ARR_STATUS.STATE.addr n

/-- The array function's state. -/
def arrState (s : State) (n : Nat) : Nat := fnState s (arrFn n)

/-- The Lantern's level (R102). -/
def level (s : State) (n : Nat) : Nat := s.get CORE_ARR_LANTERN.LEVEL n

/-- The array's record. -/
def arrAt (s : State) (n : Nat) : Arr := (coreAt s n).arr

/-- The state with an array's record replaced. -/
def setArr (s : State) (n : Nat) (a : Arr) : State := setCore s n { coreAt s n with arr := a }

/-- Power domain d is on (17_live_service.md R403). -/
def domOn (s : State) (d : Nat) : Bool := (s.get PWR_DOM_ON (d / 32)).testBit (d % 32)

/-- A START to a function of a domain: ignored and counted while the domain is off (16_modes.md R391). -/
def startInDomain (s : State) (d : Nat) (f : State → State) : State :=
  if domOn s d then f s else s.bump PWR_START_IGNORED

/-- The level a gap run has after g cycles (R103). -/
def gapLevel (g : Nat) : Nat := if g < 64 then 8 else 7 - (g - 64) / 32

/-- A matrix command is in flight on the core. -/
def matrixInFlight (k : Core) : Bool := k.fly.any (fun f => f.stream == 1)

/-- The matrix command at the head waits for the level (R103). -/
def levelWanted (k : Core) : Bool := k.fly.any (fun f => f.stream == 1 && f.waitLevel)

/-- The value L of the array (R86, R99). -/
def drainLat (s : State) (n : Nat) : Nat := s.get CORE_ARR_DRAIN_LAT n

/-- Slabs of a pass that have entered the feeders before a cycle: all of one segment of 64, then each further segment after a
fill of one cycle per slab (R93). -/
def Pass.slabsBy (p : Pass) (c : Nat) : Nat :=
  let d := c - p.start
  if p.span = p.slabs ∨ d ≤ 64 then min d p.slabs
  else
    let q := (d - 64) / 128 * 64
    min p.slabs (64 + q + ((d - 64) % 128 - min 64 (p.slabs - 64 - q)))

/-- A state of the array in which a cycle without a slab is a gap (R102). -/
def gapState (st : Nat) : Bool := st == Fn.starting || st == Fn.running || st == Fn.stopping

/-- Gap cycles from the last count to a cycle that the Lantern filled; at level 0 it fills none (R102, R109). -/
def fillSince (s : State) (n upto : Nat) : Nat :=
  let a := arrAt s n
  if gapState (arrState s n) ∧ 0 < level s n then
    upto - a.fillMark - (a.plan.map (fun p => p.slabsBy upto - p.slabsBy a.fillMark)).sum
  else 0

/-- Passes placed that have completed by a cycle (R88, R109). -/
def passesBy (s : State) (n c : Nat) : Nat := ((arrAt s n).plan.filter (fun p => decide (p.done ≤ c))).length

/-- Filled gaps and completed passes counted up to a cycle (R102, R109). -/
def countFill (s : State) (n upto : Nat) : State :=
  let a := arrAt s n
  let s := (s.bump CORE_ARR_FILL_COUNT n 0 (fillSince s n upto)).bump CORE_ARR_PASS_COUNT n 0 (passesBy s n upto)
  setArr s n { a with fillMark := max upto a.fillMark, plan := a.plan.filter (fun p => decide (upto < p.done)) }

/-- The level set, with the gaps up to the present cycle counted at the level before. -/
def setLevel (s : State) (n l : Nat) : State := (countFill s n (cycleNow s)).set CORE_ARR_LANTERN.LEVEL l n

/-- The repair and the seed taken by a START or TEST (R99, R105). -/
def takeRepair (s : State) (n : Nat) (testing : Bool) : State :=
  let rep := if s.bit CORE_ARR_REPAIR.EN n then some (s.get CORE_ARR_REPAIR.ROW n) else none
  let s := (s.set CORE_ARR_STATUS.SPARE_ACTIVE (if rep.isSome then 1 else 0) n).set CORE_ARR_DRAIN_LAT
    (if rep.isSome then 40 else 39) n
  let seed := s.get CORE_ARR_SEED n
  setArr s n { arrAt s n with
    testing := testing, since := some (cycleNow s), repair := rep, lfsr := BitVec.ofNat 64 (if seed = 0 then 1 else seed)
    dir := 1, mark := cycleNow s, fillMark := cycleNow s, plan := [] }

/-- START (R106): to STARTING; the counts are cleared (R109). -/
def arrStart (s : State) (n : Nat) : State :=
  if arrState s n = Fn.stopped then
    startInDomain s n (fun s =>
      if parityHeld s (arrFn n) then faultFn s (arrFn n) Code.configParity
      else takeRepair (setFnState ((s.set CORE_ARR_PASS_COUNT 0 n).set CORE_ARR_FILL_COUNT 0 n) (arrFn n) Fn.starting) n false)
  else s

/-- TEST (R106, R99). -/
def arrTest (s : State) (n : Nat) : State :=
  if arrState s n = Fn.stopped then
    startInDomain s n (fun s =>
      if parityHeld s (arrFn n) then faultFn s (arrFn n) Code.configParity
      else takeRepair (setFnState s (arrFn n) Fn.starting) n true)
  else s

/-- The array goes to STOPPING; its 288 cycles count from now, or from the completion of a command in flight (R104). -/
def arrStopping (s : State) (n : Nat) : State :=
  let s := countFill s n (cycleNow s)
  let k := coreAt s n
  setArr (setFnState s (arrFn n) Fn.stopping) n
    { k.arr with testing := false, since := if matrixInFlight k then none else some (cycleNow s) }

/-- STOP (R106). -/
def arrStop (s : State) (n : Nat) : State :=
  let st := arrState s n
  if st = Fn.starting ∨ st = Fn.faulted then arrStopping s n
  else if st = Fn.running then
    if gatesOf s n &&& 7 = 0 then arrStopping s n else s.set CORE_ARR_STATUS.STOP_REJECT 1 n
  else s

/-- The array FAULTED with a code; its level ramps down from now (R98, R104, R108). -/
def arrFaulted (s : State) (n c : Nat) : State :=
  let s := countFill s n (cycleNow s)
  setArr (faultFn s (arrFn n) c) n { arrAt s n with testing := false, since := some (cycleNow s) }

/-- Cycles of a START and of a TEST (R106). -/
abbrev startCycles : Nat := 69888
abbrev testCycles : Nat := 70176

/-- The self-test's results published (R97, R98). -/
def publishTest (s : State) (n : Nat) (rowFail : Word) (standby : Bool) (sig : BitVec 64) : State :=
  let pass := decide (sig = Config.romSignature) && decide (rowFail = 0)
  (((s.set CORE_ARR_ROW_FAIL rowFail.toNat n).set2 CORE_ARR_SIG_LO CORE_ARR_SIG_HI sig.toNat n).set
    CORE_ARR_STATUS.STANDBY_FAIL (if standby then 1 else 0) n).set CORE_ARR_STATUS.TEST_PASS (if pass then 1 else 0) n

/-- An ARRAY_CHECK goes on after the end of the ramp or of a self-test: the TEST, the repair that its outcome asks for, the
START (17_live_service.md R396). -/
def checkNext (s : State) (n : Nat) : State :=
  let k := coreAt s n
  let phase (s : State) (p : Nat) (bad : Bool) : State :=
    let stuck := p != 0 && arrState s n != Fn.starting
    setCore s n { coreAt s n with check := if stuck then 0 else p, checkBad := (coreAt s n).checkBad || bad || stuck }
  match k.check with
  | 1 => phase (arrTest s n) 2 false
  | 2 =>
    let rows := s.get CORE_ARR_ROW_FAIL n
    let one := (List.range 32).find? (fun r => rows == 2 ^ r)
    if s.bit CORE_ARR_STATUS.TEST_PASS n then phase (arrStart s n) 3 false
    else
      match one with
      | some r =>
        if s.bit CORE_ARR_STATUS.SPARE_ACTIVE n ∨ s.bit CORE_ARR_STATUS.STANDBY_FAIL n then phase s 0 true
        else phase (arrStart ((s.set CORE_ARR_REPAIR.EN 1 n).set CORE_ARR_REPAIR.ROW r n) n) 3 false
      | none => phase s 0 true
  | 3 => phase s 0 (arrState s n != Fn.running)
  | _ => s

/-- What the end of a self-test at a cycle does: of a START, RUNNING with the code DONE or FAULTED with UNCORRECTABLE; of a
TEST, STOPPED with TEST_DONE (R98, R106). -/
def selfTestOutcome (s : State) (n due : Nat) (rowFail : Word) (standby : Bool) (sig : BitVec 64) : State :=
  let a := arrAt s n
  let s := publishTest s n rowFail standby sig
  if a.testing then
    let s := (setLevel s n 0).set CORE_ARR_STATUS.TEST_DONE 1 n
    setArr (setFnState s (arrFn n) Fn.stopped) n { arrAt s n with testing := false, since := none, dir := 0 }
  else if s.bit CORE_ARR_STATUS.TEST_PASS n then
    let s := setLevel s n 8
    setArr (setFnState (setFnCode s (arrFn n) Code.done) (arrFn n) Fn.running) n
      { arrAt s n with since := none, dir := 0, mark := due }
  else arrFaulted s n Code.uncorrectable

/-- The end of a self-test whose time has passed (R106). -/
def selfTestEnd (s : State) (n : Nat) (rowFail : Word) (standby : Bool) (sig : BitVec 64) : State :=
  let a := arrAt s n
  let due := a.since.getD 0 + (if a.testing then testCycles else startCycles)
  if arrState s n = Fn.starting ∧ due ≤ cycleNow s then checkNext (selfTestOutcome s n due rowFail standby sig) n else s

/-- The end of STOPPING after 288 cycles (R104). -/
def arrStopDone (s : State) (n : Nat) : State :=
  match (arrAt s n).since with
  | some t =>
    if arrState s n = Fn.stopping ∧ t + 288 ≤ cycleNow s then
      let s := setLevel s n 0
      checkNext (setArr (setFnState s (arrFn n) Fn.stopped) n { arrAt s n with since := none, dir := 0 }) n
    else s
  | none => s

/-! ## The Lantern in RUNNING (R103, R104) -/

/-- HARD or FIRM is open on the core. -/
def radioOpen (s : State) (n : Nat) : Bool := coreGates s n &&& 3 != 0

/-- Cycles from now until a HARD or FIRM opening of the schedule, or one on its way, reaches the core (R104, R61). -/
def radioWait (s : State) (n : Nat) : Option Nat :=
  let one (b : Nat) : Option Nat := (openWait s n b).map (fun w => (w + 24) * 5 / 4)
  let onWay := (gatePath s n).find? (fun m => m.gates &&& 3 != 0) |>.map (fun m => (m.due - s.clk.elapsed) * 5 / (4 * 2 ^ 32))
  [one Gate.hard, one Gate.firm, onWay].foldl (fun a b =>
    match a, b with
    | some x, some y => some (min x y)
    | some x, none => some x
    | none, y => y) none

/-- A rise must begin now to reach 8 by the next opening; `fall` asks it of the level one lower (R104). -/
def rampDue (s : State) (n : Nat) (fall : Bool) : Bool :=
  let l := level s n
  match radioWait s n with
  | some w => decide (w ≤ (8 - l) * 32) || (fall && decide (w < (9 - l) * 32))
  | none => false

/-- A hold of R104 keeps the level of a RUNNING array at 8. -/
def lanternHold (s : State) (n : Nat) : Bool :=
  decide (arrState s n = Fn.running) && decide (level s n = 8) && (radioOpen s n || rampDue s n true)

/-- The matrix commands that waited for level 8 send their next slab (R103). -/
def releaseLevel (s : State) (n : Nat) : State :=
  let k := coreAt s n
  setCore s n { k with fly := k.fly.map (fun f => if f.stream = 1 ∧ f.waitLevel then { f with waitLevel := false } else f) }

/-- The level of an array follows R103: it is RUNNING, or STOPPING with a command in flight that finishes (R104, R106). -/
def lanternLive (s : State) (n : Nat) : Bool :=
  arrState s n == Fn.running || (arrState s n == Fn.stopping && (arrAt s n).since.isNone)

/-- The level would fall now: 64 cycles after the last slab or the end of a hold, 32 after a change of a ramp down (R103). -/
def fallDue (s : State) (n : Nat) : Bool :=
  let a := arrAt s n
  decide (0 < level s n) && decide ((if a.dir = 2 then a.mark + 32 else max a.mark a.feed + 64) ≤ cycleNow s)

/-- The level has cause to rise or to stay at 8: a command is ready; in RUNNING also an open radio gate or an opening ahead
(R103, R104). -/
def levelCause (s : State) (n : Nat) : Bool :=
  levelWanted (coreAt s n) || (arrState s n == Fn.running && (radioOpen s n || rampDue s n (fallDue s n)))

/-- The direction of the level taken anew at the moment its cause changes: a ramp begins or reverses at once, a hold goes on
(R103, R104). -/
def lanternTurn (s : State) (n : Nat) : State :=
  let a := arrAt s n
  let l := level s n
  let now := cycleNow s
  if !lanternLive s n then s
  else if levelCause s n then
    if l = 8 then releaseLevel (setArr s n { a with dir := 0, mark := max now a.mark }) n
    else if a.dir ≠ 1 then setArr s n { a with dir := 1, mark := now }
    else s
  else if l = 0 then setArr s n { a with dir := 0 }
  else if a.dir = 1 ∨ (a.dir = 0 ∧ l < 8) then setArr s n { a with dir := 2, mark := now }
  else s

/-- One step of a ramp up; at level 8 the commands that waited send their slabs (R103). -/
def levelRise (s : State) (n : Nat) : State :=
  let l := level s n
  let a := arrAt s n
  let s := setLevel s n (l + 1)
  let s := setArr s n { arrAt s n with mark := a.mark + 32, dir := if l + 1 = 8 then 0 else 1 }
  if l + 1 = 8 then releaseLevel s n else s

/-- One step of a ramp down (R103). -/
def levelFall (s : State) (n : Nat) : State :=
  let a := arrAt s n
  let s := setLevel s n (level s n - 1)
  setArr s n { arrAt s n with dir := 2, mark := if a.dir = 2 then a.mark + 32 else max a.mark a.feed + 64 }

/-- One change of the level of an array that follows R103, where one is due (R103, R104). -/
def lanternRun (s : State) (n : Nat) : State :=
  let s := lanternTurn s n
  let a := arrAt s n
  if levelCause s n then (if level s n < 8 ∧ a.dir = 1 ∧ a.mark + 32 ≤ cycleNow s then levelRise s n else s)
  else if fallDue s n then levelFall s n
  else s

/-- A STOPPING array counts its 288 cycles from the end of the last matrix command in flight (R104). -/
def noteArrayIdle (s : State) (n : Nat) : State :=
  let k := coreAt s n
  if arrState s n = Fn.stopping ∧ k.arr.since = none ∧ !matrixInFlight k then setArr s n { k.arr with since := some (cycleNow s) }
  else s

/-- Matrix commands have left flight before their completion: what their passes still had to do does not happen. -/
def cutPasses (s : State) (n : Nat) : State :=
  let s := countFill s n (cycleNow s)
  let a := arrAt s n
  let l := a.plan.filter (fun p => (coreAt s n).fly.any (fun f => f.uid == p.uid))
  let s := setArr s n { a with plan := l, feed := (l.map (fun p => p.start + p.span)).foldl max (min a.feed (cycleNow s)) }
  lanternTurn (noteArrayIdle s n) n

/-- The level held down to the ramp of a gap run that began at a cycle (R104). -/
def lanternDown (s : State) (n t : Nat) : State :=
  let l := min (level s n) (gapLevel (cycleNow s - t))
  if l = level s n then s else setLevel s n l

/-- The Lantern's level changes (R103, R104). -/
def lanternStep (s : State) (n : Nat) : State :=
  let st := arrState s n
  let a := arrAt s n
  if lanternLive s n then lanternRun s n
  else if st = Fn.starting then
    let t := a.since.getD 0
    if a.testing ∧ t + startCycles ≤ cycleNow s then lanternDown s n (t + startCycles)
    else if level s n < 8 ∧ a.mark + 32 ≤ cycleNow s then
      let s := setLevel s n (level s n + 1)
      setArr s n { arrAt s n with mark := a.mark + 32 }
    else s
  else if st = Fn.stopping ∨ st = Fn.faulted then
    match a.since with
    | some t => lanternDown s n t
    | none => s
  else s

/-- `CORE_ARR_STATUS.MODE` (R95): weight-stationary from the end of the ramp to the end of the self-test, output-stationary
while a matrix command is in flight, else idle. -/
def arrMode (s : State) (n : Nat) : Nat :=
  let a := arrAt s n
  if arrState s n = Fn.starting then
    let t := a.since.getD 0
    if t + 256 ≤ cycleNow s ∧ (!a.testing ∨ cycleNow s < t + startCycles) then 2 else 0
  else if matrixInFlight (coreAt s n) then 1 else 0

/-! ## The commands -/

/-- ARR_START (R106, R95 to R99, R105). -/
def execArrStart (n : Nat) (s : State) : Out := .next (if n < 128 then arrStart s n else s)

/-- ARR_TEST (R106, R99). -/
def execArrTest (n : Nat) (s : State) : Out := .next (if n < 128 then arrTest s n else s)

/-- ARR_STOP (R106, R104). -/
def execArrStop (n : Nat) (s : State) : Out := .next (if n < 128 then arrStop s n else s)

/-- SELF_TEST_END (R97, R98). -/
def execSelfTestEnd (n : Nat) (rowFail : Word) (standbyFail : Bool) (sig : BitVec 64) (s : State) : Out :=
  .next (selfTestEnd s n rowFail standbyFail sig)

/-- ARRAY_STOP_DONE (R104). -/
def execArrayStopDone (n : Nat) (s : State) : Out := .next (arrStopDone s n)

end Sys2Proof.Machine
end

