-- ==== Sys2Proof/Machine/Reports.lean ====
section
/-! DEFINITION. What the block reports: journal records, result and completion records, messages to the host
(14_journal_recovery.md R342 to R345, 09_contexts_tenants.md R234). -/

namespace Sys2Proof.Machine

/-- A message put on a port. -/
def emit (s : State) (m : Sent) : State := { s with sent := s.sent ++ [m] }

/-! ## Journal (14_journal_recovery.md) -/

/-- The status register of the journal. -/
abbrev jrnlFn : Nat := 0x3100004

/-- What a record says beside its type (R344). -/
structure JRec where
  typ : Nat
  code : Nat := 0
  source : Nat := 0x0101
  ctx : Nat := 0xFFFF
  tag : Nat := 0
  stream : Nat := 0xFF
  flags : Nat := 0
  cmd : Nat := 0
  count : Nat := 0
  entry : Nat := 0
  seqFirst : Nat := 0
  sent : Nat := 0
  node : Nat := 0
  dseqLo : Nat := 0
  dseqHi : Nat := 0
  arg : Nat := 0
  detail : Nat := 0

/-- The 64 bytes of a record with its stamp (R344). -/
def JRec.bytes (r : JRec) (stamp : Nat) : Bytes :=
  bytesLe 1 r.typ ++ bytesLe 1 r.code ++ bytesLe 2 r.source ++ bytesLe 4 stamp ++ bytesLe 2 r.ctx ++ bytesLe 2 r.tag ++
  bytesLe 1 r.stream ++ bytesLe 1 r.flags ++ bytesLe 2 r.cmd ++ bytesLe 8 (r.count % 2 ^ 48) ++ bytesLe 8 r.entry ++
  bytesLe 4 r.seqFirst ++ bytesLe 4 r.sent ++ bytesLe 4 (r.node % 2 ^ 17) ++ bytesLe 4 r.dseqLo ++ bytesLe 4 r.dseqHi ++
  bytesLe 4 r.arg ++ bytesLe 8 r.detail

/-- The open block written to its place in the ring (R342, R343, R345); an empty block is not written. -/
def journalFlush (s : State) : State :=
  if s.jr.recs.isEmpty then s
  else
    let w := s.get JRNL_WPTR
    let blk := s.get2 JRNL_BLOCKS_LO JRNL_BLOCKS_HI
    let head := bytesLe 4 0x4C4E524A ++ bytesLe 1 s.jr.recs.length ++ bytesLe 3 0 ++ bytesLe 8 blk ++
      bytesLe 8 s.jr.firstTime ++ bytesLe 40 0
    let s := devStore (raiseMem s 24 (0x40000000 + w * 4096) 4096) (0x40000000 + w * 4096) (head ++ s.jr.recs.flatten)
    let s := s.bump2 JRNL_BLOCKS_LO JRNL_BLOCKS_HI
    let s := if w = 65535 then s.set JRNL_STATUS.WRAPPED 1 else s
    { s.set JRNL_WPTR (w + 1) with jr := { s.jr with recs := [] } }

/-- A record put in the open block, which is written when it is full (R345, R39); a journal that is not RUNNING takes
none (log 20). -/
def journal (s : State) (r : JRec) : State :=
  if fnState s jrnlFn = Fn.running then
    let t := issueTime s
    let s := issue s
    let s := if s.jr.recs.isEmpty then { s with jr := { s.jr with firstTime := t, firstAt := nowNs s } } else s
    let s := { s with jr := { s.jr with recs := s.jr.recs ++ [r.bytes t] } }
    if 63 ≤ s.jr.recs.length then journalFlush s else s
  else s

/-- The flush period as it acts: 1,000 to 100,000 ns (R365). -/
def flushPeriod (s : State) : Nat := max 1000 (min 100000 (s.get JRNL_FLUSH_PERIOD))

/-- The open block is written once its first record is a flush period old (R345). -/
def journalDue (s : State) : State :=
  if !s.jr.recs.isEmpty ∧ s.jr.firstAt + flushPeriod s ≤ nowNs s then journalFlush s else s

/-- Entry p of the replay table. -/
def repAt (s : State) (p : Nat) : Option RepEnt := (s.jr.table.find? (fun e => e.1 == p)).map (·.2)

/-- The state with an entry of the replay table set or removed, and the count of R365. -/
def setRep (s : State) (p : Nat) (e : Option RepEnt) : State :=
  let t := match e with
    | some e => mapInsert (mapErase s.jr.table p) p e
    | none => mapErase s.jr.table p
  { s.set JRNL_REPLAY_PENDING (t.map (fun e => e.2.cmds.length)).sum with jr := { s.jr with table := t } }

/-- FAULT records that the replay table holds (R345). -/
def repCount (s : State) : Nat := (s.jr.table.map (fun e => e.2.cmds.length)).sum

/-- The lowest free place of the replay table. -/
def freeRep (s : State) : Option Nat := (List.range 1024).find? (fun p => !(s.jr.table.any (fun e => e.1 == p)))

/-- Core n is marked suspect (R350). -/
def suspect (s : State) (n : Nat) : Bool := (s.get JRNL_SUSPECT (n / 32)).testBit (n % 32)

/-- Core n marked suspect, or its mark cleared. -/
def setSuspect (s : State) (n : Nat) (v : Bool) : State :=
  let w := rdReg s (JRNL_SUSPECT.addr (n / 32))
  wrReg s (JRNL_SUSPECT.addr (n / 32)) (putBits w (n % 32) 1 (if v then 1 else 0))

/-! ## Rings (09_contexts_tenants.md R234) -/

/-- The status register of function set f: 0 to 255 virtual, 256 physical. -/
def hostFn (f : Nat) : Nat := HOST_FN_STATUS.STATE.addr f

/-- A message of MSI-X raised for function f; none while the host interface is STOPPED (R234, R443). -/
def raiseMsix (s : State) (f v : Nat) : State :=
  if s.get HOST_STATUS.STATE = Fn.stopped then s else { s with msix := s.msix ++ [(f, v)] }

/-- Bytes written to host memory; poisoned ones travel with the EP bit (08_memory.md R214). -/
def hostStore (s : State) (a : Nat) (l : Bytes) (ep : Bool) : State :=
  let s := { s with mems := { s.mems with host := wrBytes s.mems.host a l } }
  if ep then emit s (.hostWrite a l ep) else s

/-- Entries of a ring of log size k. -/
def ringLen (k : Nat) : Nat := 2 ^ k

/-- The tail of a ring of n entries would reach its head (R247). -/
def ringFull (tail head n : Nat) : Bool := decide ((tail + 1) % n = head % n)

/-- Waiting result records written while the ring has room (R180, R247). -/
def drainRes (f : Nat) : Nat → State → State
  | 0, s => s
  | k + 1, s =>
    let n := ringLen (s.get HOST_FN_RING_SIZE.RES f)
    let t := s.get HOST_FN_RES_TAIL f
    match (fnAt s f).resWait with
    | [] => s
    | r :: rest =>
      if ringFull t (s.get HOST_FN_RES_HEAD f) n then s
      else
        let s := hostStore s (s.get2 HOST_FN_RES_BASE_LO HOST_FN_RES_BASE_HI f + t * 32) r false
        let s := setFn (s.set HOST_FN_RES_TAIL ((t + 1) % n) f) f { fnAt s f with resWait := rest }
        drainRes f k (raiseMsix s f 0)

/-- Waiting completion records written while the ring has room (R234, R247). -/
def drainCpl (f : Nat) : Nat → State → State
  | 0, s => s
  | k + 1, s =>
    let n := ringLen (s.get HOST_FN_RING_SIZE.CPL f)
    let t := s.get HOST_FN_CPL_TAIL f
    match (fnAt s f).cplWait with
    | [] => s
    | r :: rest =>
      if ringFull t (s.get HOST_FN_CPL_HEAD f) n then s
      else
        let s := hostStore s (s.get2 HOST_FN_CPL_BASE_LO HOST_FN_CPL_BASE_HI f + t * 32) r false
        let s := setFn (s.set HOST_FN_CPL_TAIL ((t + 1) % n) f) f { fnAt s f with cplWait := rest }
        drainCpl f k (raiseMsix s f 1)

/-- Records that wait written into the rings of function f. -/
def drainRings (s : State) (f : Nat) : State :=
  let s := drainRes f (fnAt s f).resWait.length s
  drainCpl f (fnAt s f).cplWait.length s

/-- The function's rings take records: it is RUNNING or STOPPING and no reset is under way (R443, R241). -/
def ringsLive (s : State) (f : Nat) : Bool :=
  let st := fnState s (hostFn f)
  (st == Fn.running || st == Fn.stopping) && (fnAt s f).flr == 0

/-- A result record for function f; discarded while its rings take none (R180, R443). -/
def pushResult (s : State) (f : Nat) (r : Bytes) : State :=
  if ringsLive s f then
    drainRings (setFn s f { fnAt s f with resWait := (fnAt s f).resWait ++ [r] }) f
  else s

/-- What a completion record says (R234). -/
structure Cpl where
  code : Nat
  typ : Nat
  ctx : Nat := 0xFFFF
  image : Nat := 0
  user : Nat := 0
  key : Nat := 0
  tag : Nat := 0

/-- The 32 bytes of a completion record (R234). -/
def Cpl.bytes (c : Cpl) (time : Nat) : Bytes :=
  bytesLe 1 c.code ++ bytesLe 1 c.typ ++ bytesLe 2 c.ctx ++ bytesLe 4 c.image ++ bytesLe 8 c.user ++ bytesLe 4 c.key ++
  bytesLe 2 c.tag ++ bytesLe 2 0 ++ bytesLe 8 time

/-- A completion record for function f; discarded while its rings take none (R234, R443). -/
def pushCpl (s : State) (f : Nat) (c : Cpl) : State :=
  if ringsLive s f then
    drainRings (setFn s f { fnAt s f with cplWait := (fnAt s f).cplWait ++ [c.bytes (nowN s)] }) f
  else s

/-- The counts of R236: jobs done and jobs failed of tenant t (the physical function has none). -/
def countJob (s : State) (f : Nat) (ok : Bool) : State :=
  if 256 ≤ f then s
  else if ok then s.bump2 HOST_JOBS_DONE_LO HOST_JOBS_DONE_HI f else s.bump2 HOST_JOBS_FAILED_LO HOST_JOBS_FAILED_HI f

/-! ## Trace (06_core_streams.md R171) -/

/-- An event put in the trace ring of core n. -/
def trace (s : State) (n slot stream event code tag ctx count : Nat) : State :=
  let w := s.get CORE_TRACE_CTRL.W n
  let full := s.bit CORE_TRACE_WPTR.WRAPPED n && s.bit CORE_TRACE_CTRL.STOP_FULL n
  if w.testBit 0 ∧ w.testBit (6 + slot) ∧ w.testBit (10 + event) ∧ !full then
    let p := s.get CORE_TRACE_WPTR.V n
    let put (s : State) (i v : Nat) : State := s.set CORE_TRACE_BUF v n (4 * p + i)
    let s := put s 0 (issueTime s)
    let s := put s 1 (stream * 2 ^ 30 + slot * 2 ^ 28 + event * 2 ^ 24 + code * 2 ^ 16 + tag)
    let s := put s 2 (ctx * 2 ^ 16)
    let s := put s 3 (count % 2 ^ 32)
    let s := s.set CORE_TRACE_WPTR.V (p + 1) n
    if p = 1023 then s.set CORE_TRACE_WPTR.WRAPPED 1 n else s
  else s

end Sys2Proof.Machine
end

