-- ==== Sys2Proof/Machine/Command.lean ====
section
/-! DEFINITION. The 256-bit command word, its loop record and its address arithmetic (06_core_streams.md R143 to R163). -/

namespace Sys2Proof.Machine

/-- Bits hi to lo of a command. -/
def cmdF (c : BitVec 256) (hi lo : Nat) : Nat := c.toNat / 2 ^ lo % 2 ^ (hi - lo + 1)

/-- A number of w bits read as two's complement. -/
def toS (w x : Nat) : Int := if x % 2 ^ w < 2 ^ (w - 1) then (x % 2 ^ w : Nat) else ((x % 2 ^ w : Nat) : Int) - 2 ^ w

/-! ## Header (R143) -/

def cmdOp (c : BitVec 256) : Nat := cmdF c 255 248
def cmdTag (c : BitVec 256) : Nat := cmdF c 247 232
def cmdWaitCluster (c : BitVec 256) : Bool := cmdF c 231 231 == 1
def cmdWaitIdx (c : BitVec 256) : Nat := cmdF c 230 223
def cmdWaitN (c : BitVec 256) : Nat := cmdF c 222 219
def cmdSigCluster (c : BitVec 256) : Bool := cmdF c 218 218 == 1
def cmdSigIdx (c : BitVec 256) : Nat := cmdF c 217 210
def cmdSigN (c : BitVec 256) : Nat := cmdF c 209 206
def cmdBrk (c : BitVec 256) : Bool := cmdF c 205 205 == 1
def cmdLevels (c : BitVec 256) : Nat := cmdF c 204 202
def cmdLoop (c : BitVec 256) : Nat := cmdF c 201 193
def cmdPeek (c : BitVec 256) : Bool := cmdF c 192 192 == 1

abbrev Opc.nop : Nat := 0x00
abbrev Opc.dynq : Nat := 0x01
abbrev Opc.boundary : Nat := 0x02
abbrev Opc.matrix : Nat := 0x10
abbrev Opc.vector : Nat := 0x20
abbrev Opc.access : Nat := 0x30
abbrev Opc.signal : Nat := 0x40

/-- The opcode uses pointers, hence a loop record (R146). -/
def usesPointers (c : BitVec 256) : Bool := [0x10, 0x20, 0x30, 0x40].elem (cmdOp c)

/-- The field of the command at which pointer p's queue field lies (R154, R156, R159, R163). -/
def queueField (c : BitVec 256) (p : Nat) : Nat :=
  match cmdOp c with
  | 0x10 => cmdF c (78 - 6 * p) (73 - 6 * p)
  | 0x20 => cmdF c (124 - 6 * p) (119 - 6 * p)
  | 0x30 => cmdF c (52 - 6 * p) (47 - 6 * p)
  | 0x40 => cmdF c (177 - 6 * p) (172 - 6 * p)
  | _ => 0

/-- QSEL and POPL of a pointer (R147). -/
def qselOf (c : BitVec 256) (p : Nat) : Nat := queueField c p / 8
def poplOf (c : BitVec 256) (p : Nat) : Nat := queueField c p % 8

/-- The data queue that a pointer is bound to. -/
def boundQ (c : BitVec 256) (p : Nat) : Option Nat := if 4 ≤ qselOf c p then some (qselOf c p - 4) else none

/-! ## Queue table (R149) -/

def qtEn (e : BitVec 64) : Bool := e.getLsbD 63
def qtMem (e : BitVec 64) : Nat := e.toNat / 2 ^ 62 % 2
def qtSlots (e : BitVec 64) : Nat := e.toNat / 2 ^ 58 % 16 + 1
def qtSize (e : BitVec 64) : Nat := (e.toNat / 2 ^ 42 % 2 ^ 16 + 1) * 64
def qtBase (e : BitVec 64) : Nat := e.toNat % 2 ^ 16 * 64

/-! ## Loop record (R146) -/

/-- A number of n bytes at an offset of a record. -/
def recLe (r : Bytes) (o n : Nat) : Nat := leNat ((r.drop o).take n)

def loopBase (r : Bytes) (p : Nat) : Nat := recLe r (8 * p) 8
def loopCountM1 (r : Bytes) (l : Nat) : Nat := recLe r (0x20 + 4 * l) 4 % 2 ^ 20
def loopInc (r : Bytes) (l p : Nat) : Int := toS 32 (recLe r (0x40 + 0x10 * l + 4 * p) 4)
def auxBase (r : Bytes) (a : Nat) : Nat := recLe r (0xA0 + 8 * a) 8
def auxInc (r : Bytes) (l a : Nat) : Int := toS 32 (recLe r (0xB8 + 0xC * l + 4 * a) 4)

/-- The iterations of the six levels, the dynamic entry's override applied (R146, R167). -/
def loopCounts (c : BitVec 256) (r : Bytes) (ovr : Option (Nat × Nat)) : List Nat :=
  (List.range 6).map (fun l =>
    if l < cmdLevels c then
      match ovr with
      | some (k, m) => if k = l then m + 1 else loopCountM1 r l + 1
      | none => loopCountM1 r l + 1
    else 1)

/-- Units of a command (R146). -/
def unitsOf (counts : List Nat) : Nat := counts.foldl (· * ·) 1

/-- The digits of a unit number, level 0 fastest (R147). -/
def digits : List Nat → Nat → List Nat
  | [], _ => []
  | c :: t, u => u % max c 1 :: digits t (u / max c 1)

/-- Units that share one entry at a POPL (R147). -/
def spanOf (counts : List Nat) (k : Nat) : Nat := (counts.take k).foldl (· * ·) 1

/-- The sum of index times increment over the levels below a bound (R147). -/
def incSum (idx : List Nat) (inc : Nat → Int) (bound : Nat) : Int :=
  ((List.range (min bound 6)).map (fun l => (idx.getD l 0 : Int) * inc l)).sum

/-- An address with a 64-bit wrap (R147). -/
def wrap64 (x : Int) : Nat := (x % 2 ^ 64).toNat

/-- The address of pointer p in a unit; `slot` is the base of the slot it holds (R147). -/
def ptrAddr (c : BitVec 256) (r : Bytes) (idx : List Nat) (p : Nat) (slot : Option Nat) : Nat :=
  match slot with
  | some b => wrap64 (b + incSum idx (fun l => loopInc r l p) (poplOf c p))
  | none => wrap64 (loopBase r p + incSum idx (fun l => loopInc r l p) 6)

/-- The address of auxiliary pointer a, which serves operand pointer p (R147). -/
def auxAddr (c : BitVec 256) (r : Bytes) (idx : List Nat) (a p : Nat) (slot : Option Nat) : Nat :=
  match slot with
  | some b => wrap64 (b + auxBase r a + incSum idx (fun l => auxInc r l a) (poplOf c p))
  | none => wrap64 (auxBase r a + incSum idx (fun l => auxInc r l a) 6)

/-! ## MATRIX (R154, R155) -/

/-- The fields of a MATRIX command. -/
structure MatCmd where
  lfmt : Nat
  rfmt : Nat
  ofmt : Nat
  afmt : Nat
  p : Int
  eOut : Int
  rnd : Nat
  conjR : Bool
  conjL : Bool
  sparse : Bool
  ew : Nat
  m : Nat
  n : Nat
  k : Nat
  seed : Nat
  lstr : Nat
  rstr : Nat
  ostr : Nat
  astr : Nat
deriving DecidableEq, Repr

/-- The fields read from the word. -/
def matOf (c : BitVec 256) : MatCmd :=
  { lfmt := cmdF c 191 187, rfmt := cmdF c 186 182, ofmt := cmdF c 181 178, afmt := cmdF c 177 174
    p := toS 10 (cmdF c 173 164), eOut := toS 8 (cmdF c 163 156), rnd := cmdF c 155 153
    conjR := cmdF c 152 152 == 1, conjL := cmdF c 151 151 == 1, sparse := cmdF c 150 150 == 1, ew := cmdF c 149 148
    m := cmdF c 147 143 + 1, n := cmdF c 142 138 + 1, k := cmdF c 137 111, seed := cmdF c 110 79
    lstr := cmdF c 54 43 * 16, rstr := cmdF c 42 31 * 16, ostr := cmdF c 30 19 * 16, astr := cmdF c 18 7 * 16 }

/-- The group is one of the complex groups. -/
def Grp.cplx : Grp → Bool
  | .c8 | .c16 => true
  | _ => false

/-- The rules of R110, R111, R121, R123, R124, R155 and R94 hold of a MATRIX command. -/
def matValid (c : BitVec 256) : Bool :=
  let m := matOf c
  match grpOf m.lfmt, grpOf m.rfmt with
  | some g, some h =>
    decide (g = h) && (!g.cplx || decide (m.lfmt = m.rfmt)) && outValid g m.ofmt && addValid g m.afmt &&
    decide (m.rnd ≤ 4) && (decide (m.eOut = 0) || !(m.ofmt == 8 || m.ofmt == 12)) &&
    ((!m.conjR && !m.conjL) || g.cplx) &&
    (!m.sparse || ((decide (g = .g8) || decide (g = .g4)) && decide (m.ew = 0))) &&
    decide ((m.k + g.depth - 1) / g.depth ≤ 1048576) &&
    (decide (m.ew = 0) || (!g.cplx && decide (m.m = 1) && decide (m.n = 1) && decide (m.k ≤ 2 ^ 25))) &&
    (decide (m.ew ≠ 1) || decide (m.afmt = 15)) && decide (cmdF c 6 0 = 0)
  | _, _ => false

/-! ## VECTOR (R156) -/

/-- Bytes of a vector type. -/
def vecBytes : Nat → Nat
  | 0 => 4 | 1 => 2 | 2 => 2 | 3 => 4 | 4 => 2 | 5 => 1 | _ => 1

/-- The listed VOP values. -/
def vopListed (v : Nat) : Bool := decide (v ≤ 8) || (decide (0x10 ≤ v) && decide (v ≤ 0x14)) ||
  (decide (0x20 ≤ v) && decide (v ≤ 0x23))

/-- The rules of R156 hold of a VECTOR command. -/
def vecValid (c : BitVec 256) : Bool :=
  let v := cmdF c 191 186
  vopListed v && decide (cmdF c 185 183 ≤ 5) && decide (cmdF c 182 180 ≤ 5) && decide (cmdF c 179 177 ≤ 3) &&
    (decide (v < 0x10) || decide (cmdF c 185 183 ≤ 2)) && decide (cmdF c 100 0 = 0)

/-! ## ACCESS (R159) -/

/-- The fields of an ACCESS command. -/
structure AccCmd where
  aop : Nat
  sp0 : Nat
  sp1 : Nat
  sp2 : Nat
  t : Bool
  esize : Nat
  rows : Nat
  rbytes : Nat
  sstr : Int
  dstr : Int
  bfpw : Nat
  comb : Bool
  atop : Nat
  imm : Nat
deriving DecidableEq, Repr

/-- The fields read from the word. -/
def accOf (c : BitVec 256) : AccCmd :=
  { aop := cmdF c 191 186, sp0 := cmdF c 185 183, sp1 := cmdF c 182 180, sp2 := cmdF c 179 177
    t := cmdF c 176 176 == 1, esize := cmdF c 175 173, rows := cmdF c 172 161 + 1, rbytes := cmdF c 160 141
    sstr := toS 24 (cmdF c 140 117), dstr := toS 24 (cmdF c 116 93), bfpw := cmdF c 92 90, comb := cmdF c 89 89 == 1
    atop := cmdF c 88 85, imm := cmdF c 84 53 }

abbrev Aop.move : Nat := 0
abbrev Aop.expand : Nat := 1
abbrev Aop.compress : Nat := 2
abbrev Aop.fill : Nat := 3
abbrev Aop.waitMem : Nat := 4
abbrev Aop.atomic : Nat := 5
abbrev Aop.fence : Nat := 6

/-- Bits of an element of the transposer (R159). -/
def esizeBits : Nat → Nat
  | 0 => 4 | 1 => 8 | 2 => 16 | 3 => 32 | _ => 64

/-- Bytes of a destination row before any transposition (R160). -/
def destRow (a : AccCmd) : Nat :=
  if a.aop = 1 then a.rbytes / prbBytes (bfpWidth a.bfpw) * 48
  else if a.aop = 2 then a.rbytes / 48 * prbBytes (bfpWidth a.bfpw)
  else a.rbytes

/-- Operations with an operand at P2 (13_filigree.md R334). -/
def atopReadsP2 (a : Nat) : Bool := decide (2 ≤ a) && decide (a ≤ 8)

/-- Width in bytes of an atomic's word (13_filigree.md R334). -/
def atopWidth (a : Nat) : Nat := if a = 0 then 4 else 8

/-- The rules of R159 to R161 and 13_filigree.md R334 hold of an ACCESS command, addresses apart. -/
def accValid (c : BitVec 256) : Bool :=
  let a := accOf c
  decide (a.aop ≤ 6) && decide (a.sp0 ≤ 4) && decide (a.sp1 ≤ 4) && decide (a.sp2 ≤ 4) && decide (a.esize ≤ 4) &&
  decide (a.bfpw ≤ 4) && decide (0 < a.rbytes) &&
  (decide (a.aop = Aop.atomic) || decide (a.atop = 0)) && (!a.t || decide (a.aop ≤ 1)) &&
  (decide (a.aop ≠ Aop.expand) || decide (a.rbytes % prbBytes (bfpWidth a.bfpw) = 0)) &&
  (decide (a.aop ≠ Aop.compress) || decide (a.rbytes % 48 = 0)) &&
  (!a.t || decide (a.rbytes * 8 % esizeBits a.esize = 0)) &&
  (decide (a.aop ≠ Aop.atomic) ||
    (decide (a.atop ≤ 8) && (decide (a.sp0 = 3) || decide (a.sp0 = 4)) && (!a.comb || decide (a.atop ≤ 6)))) &&
  decide (cmdF c 28 0 = 0)

/-! ## The rest -/

/-- The reserved bits of NOP, DYNQ, BOUNDARY and SIGNAL are 0 and their fields in range (R145, R163). -/
def smallValid (c : BitVec 256) : Bool :=
  match cmdOp c with
  | 0x00 => decide (cmdF c 191 176 = 0)
  | 0x01 => decide (cmdF c 175 0 = 0) && decide (0 < cmdF c 191 176)
  | 0x02 => decide (cmdF c 179 0 = 0)
  | 0x40 => decide (cmdF c 121 0 = 0)
  | _ => true

/-- The stream on which an opcode is valid; none where it is valid on all (R144). -/
def opStream : Nat → Option Nat
  | 0x30 => some 0
  | 0x10 => some 1
  | 0x20 => some 2
  | 0x40 => some 3
  | _ => none

/-- Pointers that a command reads, and those that it writes (R154, R156, R159, R163; SIGNAL: log 22). -/
def readsPtr (c : BitVec 256) : List Nat :=
  match cmdOp c with
  | 0x10 =>
    let m := matOf c
    [0] ++ (if m.ew = 3 then [] else [1]) ++ (if m.afmt = 15 then [] else [3])
  | 0x20 =>
    let v := cmdF c 191 186
    [0] ++ (if 1 ≤ v ∧ v ≤ 6 then [1] else []) ++ (if v = 4 then [3] else [])
  | 0x30 =>
    let a := accOf c
    if a.aop = Aop.fill ∨ a.aop = Aop.fence then []
    else if a.aop = Aop.atomic then (if atopReadsP2 a.atop then [2] else [])
    else [0]
  | 0x40 => [0, 1, 3]
  | _ => []

def writesPtr (c : BitVec 256) : List Nat :=
  match cmdOp c with
  | 0x10 => [2]
  | 0x20 => [2]
  | 0x30 => let a := accOf c; if a.aop = Aop.waitMem ∨ a.aop = Aop.fence then [] else [1]
  | 0x40 => [2]
  | _ => []

/-- The space that an ACCESS pointer names. -/
def accSpace (c : BitVec 256) (p : Nat) : Nat :=
  let a := accOf c
  match p with | 0 => a.sp0 | 1 => a.sp1 | _ => a.sp2

/-- A queue binding is to a queue in use, in the memory that the engine reaches through the pointer (R147). -/
def bindValid (c : BitVec 256) (queues : List (BitVec 64)) (p : Nat) : Bool :=
  let s := qselOf c p
  if s = 0 then true
  else if s < 4 then false
  else
    let e := queues.getD (s - 4) 0
    decide (poplOf c p ≤ 6) && qtEn e &&
    (match cmdOp c with
     | 0x40 => decide (qtMem e = 1)
     | 0x30 => decide (p < 3) && decide (accSpace c p = qtMem e)
     | _ => decide (qtMem e = 0))

/-- A command may run on a stream of an image with a number of loop records (R144). -/
def cmdValid (c : BitVec 256) (stream loops : Nat) (queues : List (BitVec 64)) : Bool :=
  let op := cmdOp c
  [0, 1, 2, 0x10, 0x20, 0x30, 0x40].elem op &&
  (match opStream op with | some t => decide (t = stream) | none => true) &&
  decide (cmdLevels c ≤ 6) && smallValid c &&
  (cmdWaitCluster c || decide (cmdWaitIdx c ≤ 15)) && (cmdSigCluster c || decide (cmdSigIdx c ≤ 15)) &&
  (!usesPointers c || (decide (cmdLoop c < loops) && (List.range 4).all (bindValid c queues))) &&
  (match op with
   | 0x10 => matValid c
   | 0x20 => vecValid c
   | 0x30 => accValid c
   | _ => true)

/-! ## The rows' operations -/

/-- The pair of opcode and sub-operation that tells the rows of the command table apart: EW, VOP, AOP, or ATOP + 16. -/
def cmdKind (c : BitVec 256) : Nat × Nat :=
  match cmdOp c with
  | 0x10 => (0x10, (matOf c).ew)
  | 0x20 => (0x20, cmdF c 191 186)
  | 0x30 => let a := accOf c; (0x30, if a.aop = Aop.atomic then 16 + a.atop else a.aop)
  | o => (o, 0)

/-- Commands of a stream that may be in flight at once (R138). -/
def roomOf : Nat → Nat
  | 0 => 4 | 1 => 2 | 2 => 2 | _ => 1

end Sys2Proof.Machine
end

