-- ==== Sys2Proof/Machine/Arbiter.lean ====
section
/-! DEFINITION. Arbiters of memory pseudo-channels, fabric-port egress and core-store banks (08_memory.md R217 to R222). -/

namespace Sys2Proof.Machine

/-- The key of an arbiter. -/
def arbKey : ArbiterId → Nat
  | .mem m c => 64 * m + c
  | .port q => 65536 + q
  | .bank n b => 131072 + 32 * n + b

/-- The request that a requester presents. -/
def Arb.req (x : Arb) (r : Nat) : ArbReq := (x.queue r).head?.getD {}

/-- What a requester presents next, after a request of core `last`: the cores of a cluster that have a request waiting take
turns, and the requests of one core keep their order (R217; log 353). -/
def nextTurn (last : Nat) (l : List ArbReq) : List ArbReq :=
  let far (q : ArbReq) : Nat := (q.core + 7 - last % 8) % 8
  match l.foldl (fun b q => match b with | some d => if far q < far d then some q else some d | none => some q) none with
  | some q => q :: l.erase q
  | none => []

/-- What a requester's entry says: rank (0 LOW, 1 NORMAL, 2 HIGH, 3 DEADLINE), rank while masked (0 none), quota, burst
limit, urgency limit in ns, whether it may lock. -/
structure ArbCfg where
  rank : Nat
  ovr : Nat
  quota : Nat
  burst : Nat
  urg : Nat
  lock : Bool

/-- The word of a requester entry at a pseudo-channel; while it holds a parity mismatch, its reset value, which for a cluster
port has the quota of the stacks live (R221, R224). -/
def memWord (s : State) (r : Nat) : Word :=
  let o := MEM_ARB_REQ.W.addr r
  if !s.upset.elem o then rdReg s o
  else if r < 16 then putBits (resetWord o) 20 8 (s.get MEM_CLUSTER_QUOTA)
  else resetWord o

/-- The word of a requester entry at a port's egress; while it holds a parity mismatch, its reset value
(13_filigree.md R341). -/
def portWord (s : State) (o : Nat) : Word := if s.upset.elem o then resetWord o else rdReg s o

/-- The entry of requester r at an arbiter (R221, R222; 13_filigree.md R340). -/
def arbCfg (s : State) (k r : Nat) : ArbCfg :=
  if k < 65536 then
    let w := memWord s r
    let g (lo n : Nat) : Nat := getBits w lo n
    { rank := g 30 2, ovr := g 28 2, quota := g 20 8, burst := g 12 8 + 1, urg := g 0 11 * 100, lock := g 11 1 = 1 }
  else if k < 131072 then
    let w := portWord s (FIL_PORT_ARB_REQ.W.addr (k - 65536) r)
    let g (lo n : Nat) : Nat := getBits w lo n
    { rank := g 30 2, ovr := g 28 2, quota := g 17 11, burst := g 9 8 + 1, urg := g 0 9 * 1000, lock := false }
  else
    match r with
    | 0 => { rank := 3, ovr := 0, quota := 0, burst := 2, urg := 0, lock := false }
    | 1 => { rank := 2, ovr := 2, quota := 400, burst := 2, urg := 500, lock := false }
    | 2 => { rank := 1, ovr := 0, quota := 0, burst := 2, urg := 500, lock := false }
    | _ => { rank := 0, ovr := 0, quota := 0, burst := 1, urg := 1000, lock := false }

/-- Beats between break points, and the quota window in ns (R218). -/
def arbBreak (k : Nat) : Nat := if k < 131072 then 4 else 2
def arbWindow (k : Nat) : Nat := if k < 131072 then 4000 else 1000

/-- Promoted bursts of a pseudo-channel's window are spent (R219). -/
def deadlineFull (k : Nat) (x : Arb) : Bool := decide (k < 65536) && decide (32 ≤ x.promo)

/-- The rank with which a request competes; none while it waits for the next window (R219). -/
def arbRank (s : State) (k : Nat) (x : Arb) (r : Nat) : Option Nat :=
  let c := arbCfg s k r
  if (x.req r).promoted then if deadlineFull k x then none else some 3
  else if c.rank = 2 ∧ x.masked.elem r then
    match c.ovr with
    | 1 => some 0
    | 2 => some 1
    | _ => none
  else some c.rank

/-- Request a of rank i comes before request b of rank j (R219). -/
def arbBefore (x : Arb) (i a j b : Nat) : Bool :=
  decide (j < i) || (decide (i = j) && (decide ((x.req a).stamp < (x.req b).stamp) ||
    (decide ((x.req a).stamp = (x.req b).stamp) && decide (a < b))))

/-- The request that is granted next (R219). -/
def arbBest (s : State) (k : Nat) (x : Arb) : Option (Nat × Nat) :=
  (x.reqs.filterMap (fun p => (arbRank s k x p.1).map (fun i => (i, p.1)))).foldl
    (fun b c => match b with
      | some d => if arbBefore x c.1 c.2 d.1 d.2 then some c else some d
      | none => some c) none

/-- A counter of the channel of an arbiter. -/
def arbCount (s : State) (k : Nat) (f : Fld) : State := if k < 65536 then s.bump f (k / 64) else s

/-- Promoted requests that find the window's limit reached are deferred, each counted once (R219). -/
def noteDeferred (s : State) (k : Nat) : State :=
  let x := arbAt s k
  if deadlineFull k x then
    let l := (x.reqs.flatMap (·.2)).filter (fun q => q.promoted && !q.deferred)
    let s := forEach l (fun s _ => arbCount s k MEMCH_ARB_DL_DEFER) s
    setArb s k { x with reqs := x.reqs.map (fun p => (p.1, p.2.map (fun q => { q with deferred := q.deferred || q.promoted }))) }
  else s

/-- One run of beats up to a break point given to requester r: its bursts, at a core-store bank its lines, are counted, and
at its quota it is masked (R218, R219, R222). A request wholly granted gives way to the requester's next (R217). -/
def arbGive (s : State) (k r : Nat) (fresh : Bool) : State :=
  let x := arbAt s k
  let c := arbCfg s k r
  let q := x.req r
  let d := min q.beats (arbBreak k)
  let lockRun := if fresh then q.lock && c.lock else x.locked
  let spent := (if fresh then 0 else x.spent) + d
  let ovrun := lockRun && decide (64 ≤ spent)
  let cnt := mapGet (fun _ => 0) x.counts r + (if c.rank = 2 then if k < 131072 then 1 else d else 0)
  let mask := decide (c.rank = 2) && !(x.masked.elem r) && decide (c.quota ≤ cnt)
  let left := q.beats - d
  let x := { x with
    owner := if left = 0 then none else some r
    spent := spent
    locked := lockRun && !ovrun && decide (0 < left)
    counts := mapPut (fun _ => 0) x.counts r cnt
    masked := if mask then x.masked ++ [r] else x.masked
    promo := x.promo + (if q.promoted then 1 else 0) }
  let rest := (x.queue r).drop 1
  let s := setArb s k (x.setQueue r (if left = 0 then nextTurn q.core rest else { q with beats := left } :: rest))
  let s := if mask then arbCount s k MEMCH_ARB_MASKED else s
  if ovrun then arbCount s k MEMCH_ARB_LOCK_OVERRUN else s

/-- An even cycle in which the matrix feed of a bank's core uses the core store: the other requesters wait (R222;
01_architecture.md R20). -/
def feedHolds (s : State) (k : Nat) : Bool :=
  let n := (k - 131072) / 32
  decide (131072 ≤ k) && decide (cycleNow s % 2 = 0) &&
    (coreAt s n).arr.plan.any (fun p => decide (p.start ≤ cycleNow s) && decide (cycleNow s < p.start + p.span))

/-- The grant at a break point or at an idle resource: a LOCKED sequence goes on, a BURST grant goes on while no request of
higher rank waits and its limit is not spent, else the best request is granted (R218, R219). -/
def arbGrant (s : State) (k : Nat) : State :=
  if feedHolds s k then s else
  let s := noteDeferred s k
  let x := arbAt s k
  match x.owner with
  | some r =>
    if x.locked then arbGive s k r false
    else
      match arbRank s k x r, arbBest s k x with
      | some i, some (j, b) =>
        if j ≤ i ∧ x.spent < (arbCfg s k r).burst then arbGive s k r false else arbGive s k b true
      | none, some (_, b) => arbGive s k b true
      | _, none => s
  | none =>
    match arbBest s k x with
    | some (_, b) => arbGive s k b true
    | none => s

/-- The oldest of a list of requests that has waited longer than a limit becomes DEADLINE, if it is not (R219). -/
def promoteFirst (now urg : Nat) : List ArbReq → Option (List ArbReq)
  | [] => none
  | q :: t =>
    if !q.promoted ∧ urg < now - q.stamp then some ({ q with promoted := true } :: t)
    else (promoteFirst now urg t).map (q :: ·)

/-- A request older than its requester's limit becomes DEADLINE; a masked HIGH requester's does not (R219). -/
def arbPromote (s : State) (k r : Nat) : State :=
  let x := arbAt s k
  let c := arbCfg s k r
  if c.urg = 0 ∨ (c.rank = 2 ∧ x.masked.elem r) then s
  else
    match promoteFirst (nowN s) c.urg (x.queue r) with
    | some l => arbCount (setArb s k (x.setQueue r l)) k MEMCH_ARB_PROMOTED
    | none => s

/-- Sum of the quotas of HIGH requesters, with entry r taken as a word (R220). -/
def highSum (s : State) (r : Nat) (w : Word) : Nat :=
  ((List.range 32).map (fun i =>
    let e := if i = r then w else rdReg s (MEM_ARB_REQ.W.addr i)
    if getBits e 30 2 = 2 then getBits e 20 8 else 0)).sum

/-- The cluster-port quota for the stacks live (R220). -/
def setClusterQuota (s : State) : State :=
  let q := (320 + (liveStacks s).length - 1) / max 1 (liveStacks s).length
  let s := forEach (List.range 16) (fun s r => s.set MEM_ARB_REQ.QUOTA q r) (s.set MEM_CLUSTER_QUOTA q)
  { s.set MEM_HIGH_SUM (highSum s 0 (rdReg s (MEM_ARB_REQ.W.addr 0))) with move := { s.move with quotaDue := false } }

/-- A quota window starts: every requester unmasked, every count zero; a new n's quota comes into force at the memory
arbiters (R219, R211). -/
def arbWindowStart (s : State) (k : Nat) : State :=
  let w := nowN s / arbWindow k
  let x := arbAt s k
  if x.window = w then s
  else
    let x := { x with counts := [], masked := [], promo := 0, window := w
                      reqs := x.reqs.map (fun p => (p.1, p.2.map (fun q => { q with deferred := false }))) }
    let s := setArb s k x
    if k < 65536 ∧ s.move.quotaDue then setClusterQuota s else s

/-- A write of `MEM_ARB_REQ_r` (R220, R223). -/
def writeArbReq (s : State) (r : Nat) (v : Word) : State :=
  let o := MEM_ARB_REQ.W.addr r
  let old := rdReg s o
  if 29 ≤ r then s
  else
    let v := putBits v 11 1 (getBits old 11 1)
    let v := if r < 16 then putBits v 20 12 (getBits old 20 12) else v
    if getBits v 30 2 = 3 ∨ getBits v 28 2 = 3 ∨ 452 < highSum s r v then s.set MEM_STATUS.ARB_WRITE_REJECT 1
    else
      let s := wrReg s o v
      rewritten (s.set MEM_HIGH_SUM (highSum s r v)) o

/-- ARBITER_GRANT (R219). -/
def execArbiterGrant (a : ArbiterId) (s : State) : Out := .next (arbGrant s (arbKey a))

/-- URGENCY_PROMOTION (R219). -/
def execUrgencyPromotion (a : ArbiterId) (r : Nat) (s : State) : Out := .next (arbPromote s (arbKey a) r)

/-- QUOTA_WINDOW_START (R219). -/
def execQuotaWindowStart (a : ArbiterId) (s : State) : Out := .next (arbWindowStart s (arbKey a))

/-- ARB_REQ_WRITE (R220). -/
def execArbReqWrite (r : Nat) (v : Word) (s : State) : Out := .next (writeArbReq s r v)

end Sys2Proof.Machine
end

