-- ==== Sys2Proof/Machine/Fabric.lean ====
section
/-! DEFINITION. Sending on the Filigree fabric: nodes, ports, credits, the retransmit buffer, requests that wait for replies,
and the coherence of a bangle (13_filigree.md R307 to R337). -/

namespace Sys2Proof.Machine

/-! ## Nodes and addresses (R307) -/

def nodeOf (a : Nat) : Nat := a / 2 ^ 47
def offOf (a : Nat) : Nat := a % 2 ^ 47
def globalAddr (node off : Nat) : Nat := node * 2 ^ 47 + off
def strandOf (node : Nat) : Nat := node / 2048

/-- The VALID entries of the bangle list (R308). -/
def bangleList (s : State) : List Nat :=
  (List.range 8).filterMap (fun m => if s.bit FIL_BANGLE.VALID m then some (s.get FIL_BANGLE.NODE m) else none)

/-- A node is another member of this device's bangle. -/
def inBangle (s : State) (node : Nat) : Bool :=
  s.bit FIL_ROLE.BANGLE && node != ownNode s && (bangleList s).elem node

/-! ## Tables -/

def linkAt (s : State) (q : Nat) : Link := mapGet (fun _ => {}) s.fab.links q
def setLink (s : State) (q : Nat) (l : Link) : State :=
  { s with fab := { s.fab with links := mapPut (fun _ => {}) s.fab.links q l } }
def destAt (s : State) (node : Nat) : Dest := mapGet (fun _ => {}) s.fab.dests node
def setDest (s : State) (node : Nat) (d : Dest) : State :=
  { s with fab := { s.fab with dests := mapPut (fun _ => {}) s.fab.dests node d } }
def zeroN : Nat → Nat := fun _ => 0
def incOf (s : State) (node : Nat) : Nat := mapGet zeroN s.fab.incs node

/-- The counts of writes and atomics issued and acknowledged of a core and a destination (R323). -/
def issuedOf (s : State) (core node : Nat) : Nat := mapGet zeroN s.fab.issued (core * 2 ^ 17 + node)
def ackedOf (s : State) (core node : Nat) : Nat := mapGet zeroN s.fab.acked (core * 2 ^ 17 + node)
def bumpIssued (s : State) (core node : Nat) : State :=
  { s with fab := { s.fab with issued := mapPut zeroN s.fab.issued (core * 2 ^ 17 + node) (issuedOf s core node + 1) } }
def bumpAcked (s : State) (core node : Nat) : State :=
  { s with fab := { s.fab with acked := mapPut zeroN s.fab.acked (core * 2 ^ 17 + node) (ackedOf s core node + 1) } }

/-- The destinations with unacknowledged traffic of a core, with the counts issued (R323). -/
def openDests (s : State) (core : Nat) : List (Nat × Nat) :=
  s.fab.issued.filterMap (fun p =>
    if p.1 / 2 ^ 17 = core ∧ ackedOf s core (p.1 % 2 ^ 17) < p.2 then some (p.1 % 2 ^ 17, p.2) else none)

/-! ## Routes (R318) -/

/-- The status registers of the fabric interface and of port q. -/
abbrev filFn : Nat := 0x180004
def portFn (q : Nat) : Nat := FIL_PORT_STATUS.STATE.addr q

/-- The link of a port is UP. -/
def linkUp (s : State) (q : Nat) : Bool := s.get FIL_PORT_STATUS.LINK q == 2

/-- The ports of a role whose link is UP, ascending. -/
def upPorts (s : State) (role : Nat) : List Nat :=
  (List.range 24).filter (fun q => linkUp s q && s.get FIL_PORT_CFG.ROLE q == role)

/-- The clasp in use for a strand: the primary while it is reachable, else the alternate (R328). -/
def claspOf (s : State) (strand : Nat) : Option Nat :=
  let ok (valid : Bool) (node : Nat) : Bool := valid && incOf s node != 0 && !(destAt s node).lost
  if ok (s.bit FIL_CLASP_PRI.VALID strand) (s.get FIL_CLASP_PRI.NODE strand) then some (s.get FIL_CLASP_PRI.NODE strand)
  else if ok (s.bit FIL_CLASP_ALT.VALID strand) (s.get FIL_CLASP_ALT.NODE strand) then some (s.get FIL_CLASP_ALT.NODE strand)
  else none

/-- The clasp of a destination beyond the strand, for a device that is none itself (R318, R328). -/
def claspFor (s : State) (node : Nat) : Option Nat :=
  if strandOf node ≠ strandOf (ownNode s) ∧ !s.bit FIL_ROLE.CLASP then claspOf s (strandOf node) else none

/-- The port set of a destination (R318); none beyond the strand while neither clasp is reachable (log 364). -/
def portSet (s : State) (dst : Nat) : List Nat :=
  let own := if inBangle s dst then (upPorts s 1).filter (fun q => s.get FIL_PORT_CFG.PEER q == dst) else []
  if !own.isEmpty then own
  else if strandOf dst = strandOf (ownNode s) then upPorts s 0
  else if s.bit FIL_ROLE.CLASP then upPorts s 2
  else if (claspFor s dst).isSome then upPorts s 0
  else []

/-- The port that the hash picks from the set; none where the set is empty or the interface is not RUNNING (R318). -/
def pickPort (s : State) (dst : Nat) : Option Nat :=
  if fnState s filFn = Fn.running then
    match portSet s dst with
    | [] => none
    | l => l[Config.routeHash dst % l.length]?
  else none

/-- Neither clasp of a node's strand is VALID (R328). -/
def noClasp (s : State) (node : Nat) : Bool :=
  let t := strandOf node
  !s.bit FIL_CLASP_PRI.VALID t && !s.bit FIL_CLASP_ALT.VALID t

/-! ## Sending (R312, R314) -/

/-- Flits that a transaction takes. -/
def flitsOf (x : Txn) : Nat := (32 + x.payload.length + 63) / 64

/-- A link takes a transaction now: credits of its VC, and room among the 128 unacknowledged flits. -/
def linkRoom (l : Link) (x : Txn) : Bool :=
  decide (flitsOf x ≤ l.credit.getD x.vc 0) && decide (l.unacked.length + flitsOf x ≤ 128)

/-- The requester of a port's egress that a transaction belongs to (R340); the SYS writes of VC REQ are the cells'. -/
def egressOf (s : State) (x : Txn) : Nat :=
  if x.src ≠ ownNode s then 5
  else if x.vc = 1 then 0
  else if x.vc = 2 then 1
  else if x.resend then 3
  else if x.vc = 0 ∧ x.sys then 2
  else if x.vc = 3 then 6
  else 4

/-- A transaction put on a port's link. -/
def putOnLink (s : State) (q : Nat) (x : Txn) : State :=
  let s := raiseReq s (65536 + q) (egressOf s x) (flitsOf x)
  let l := linkAt s q
  let k := flitsOf x
  let s := setLink s q { l with
    credit := l.credit.set x.vc (l.credit.getD x.vc 0 - k)
    txSeq := (l.txSeq + k) % 256
    unacked := l.unacked ++ (List.range k).map (fun i => { lseq := (l.txSeq + i) % 256 }) }
  (emit s (.txn q x)).bump2 FIL_PORT_TX_BYTES_LO FIL_PORT_TX_BYTES_HI q 0 (32 + x.payload.length)

/-- A transaction handed to a port: sent, or kept until credits come. -/
def sendOn (s : State) (q : Nat) (x : Txn) : State :=
  let l := linkAt s q
  if l.waiting.isEmpty ∧ linkRoom l x then putOnLink s q x else setLink s q { l with waiting := l.waiting ++ [x] }

/-- Waiting transactions sent as far as credits allow. -/
def drainLink (q : Nat) : Nat → State → State
  | 0, s => s
  | k + 1, s =>
    match (linkAt s q).waiting with
    | [] => s
    | x :: t => if linkRoom (linkAt s q) x then drainLink q k (putOnLink (setLink s q { linkAt s q with waiting := t }) q x)
                else s

/-- A transaction sent to its destination; without a port it waits for a route (its copy or its record is sent again when a
port comes UP). -/
def sendTxn (s : State) (x : Txn) : State :=
  match pickPort s x.dst with
  | some q =>
    let s := setDest s x.dst { destAt s x.dst with port := some q, clasp := claspFor s x.dst }
    sendOn s q x
  | none => setDest s x.dst { destAt s x.dst with port := none, clasp := claspFor s x.dst }

/-! ## Issuing (R315, R316, R319 to R323) -/

/-- A transaction of this device, issued for the first time: it takes the next SEQ and the stamp of its issue (R37, R316). -/
def newTxn (s : State) (opc vc dst : Nat) (off : Nat) (payload : Bytes) : State × Txn :=
  let t := issueTime s
  let s := issue s
  let q := (s.fab.seq + 1) % 2 ^ 32
  let s := { s with fab := { s.fab with seq := q } }
  (s, { opc := BitVec.ofNat 8 opc, vc := vc, dst := dst, comb := false, sys := false, resend := false, poison := false,
        src := ownNode s, stamp := BitVec.ofNat 32 t, seq := BitVec.ofNat 32 q,
        dseq := BitVec.ofNat 32 (destAt s dst).next, inc := s.get FIL_INCARNATION, addr := off, atop := 0, code := 0,
        len := payload.length, payload := payload })

/-- Traffic beside that of hub functions and firmware may issue: the device has joined, and does not wait to rejoin
(15_vigil.md R382; 14_journal_recovery.md R361; after a fencing: log 365). -/
def ordinary (s : State) : Bool := s.get FIL_INCARNATION != 0 && !s.fab.rejoin

/-- Bytes that the retransmit buffer holds: this device's writes, and the pages that a clasp relays (R321, R329). -/
def rtxUsed (s : State) : Nat :=
  (s.fab.dests.map (fun d => (d.2.copies.map (fun c => 32 + c.x.payload.length)).sum)).sum +
    (s.fab.relayCopies.map (fun x => 32 + x.payload.length)).sum

/-- The retransmit buffer has room for more bytes (R321). -/
def rtxRoom (s : State) (n : Nat) : Bool := decide (rtxUsed s + n ≤ s.get FIL_RTX_BYTES * 2 ^ 20)

/-- Fabric use of a destination restarts its progress clock where nothing was outstanding (R322). -/
def startProgress (s : State) (node : Nat) : State :=
  let d := destAt s node
  if d.copies.isEmpty ∧ !(s.fab.pend.any (fun p => p.x.dst == node)) then setDest s node { d with progress := nowNs s } else s

/-- A WRITE or PAGE_WRITE issued by a core (128: a hub function), with its copy (R319, R321). -/
def issueWrite (s : State) (core : Nat) (opc vc node off : Nat) (data : Bytes) (poison sys : Bool)
    (bulk : Option Nat := none) : State :=
  let s := startProgress s node
  let (s, x) := newTxn s opc vc node off data
  let x := { x with poison := poison, sys := sys }
  let d := destAt s node
  let s := setDest s node { d with next := d.next + 1
                                   copies := d.copies ++ [{
                                     x := x, at_ := nowNs s, core := core, bulk := bulk
                                     ctx := if core < 128 then ((coreAt s core).run.map (fun c => ((coreAt s core).slot c).ctx))
                                       else none }] }
  sendTxn (bumpIssued s core node) x

/-- A request with a reply: READ, PAGE_READ (R320, R322). -/
def issueRead (s : State) (w : Who) (opc vc node off len : Nat) (comb sys : Bool) : State :=
  let s := startProgress s node
  let (s, x) := newTxn s opc vc node off []
  let x := { x with comb := comb, sys := sys, len := len }
  let s := { s with fab := { s.fab with pend := s.fab.pend ++
    [{ x := x, who := w, first := nowNs s, last := nowNs s }] } }
  sendTxn s x

/-- An ATOMIC (R334, R337). -/
def issueAtomic (s : State) (core : Nat) (w : Who) (node off atop : Nat) (operand : Bytes) (comb : Bool) : State :=
  let s := startProgress s node
  let (s, x) := newTxn s 0x06 0 node off operand
  let x := { x with comb := comb, atop := atop }
  let s := { s with fab := { s.fab with pend := s.fab.pend ++
    [{ x := x, who := w, first := nowNs s, last := nowNs s }] } }
  sendTxn (bumpIssued s core node) x

/-- An answer of this device on the RSP VC, with the tag of what it answers. -/
def reply (s : State) (x : Txn) (opc : Nat) (code : Nat) (dseq : Word) (payload : Bytes) (poison : Bool) : State :=
  let t := issueTime s
  let s := issue s
  sendTxn s { x with
    opc := BitVec.ofNat 8 opc, vc := if opc = 0x21 then 3 else if opc = 0x11 then 2 else 1, dst := x.src, src := ownNode s,
    comb := false, sys := false, resend := false, poison := poison, stamp := BitVec.ofNat 32 t, dseq := dseq,
    inc := s.get FIL_INCARNATION, code := BitVec.ofNat 8 code, len := payload.length, payload := payload }

/-! ## Re-sending (R322, R318) -/

/-- Every unacknowledged write of a destination sent again, in DSEQ order (R322, R316). -/
def resendAll (s : State) (node arg : Nat) : State :=
  let d := destAt s node
  if d.copies.isEmpty then s
  else
    let copies := d.copies.map (fun c => { c with at_ := nowNs s, x := { c.x with resend := true } })
    let s := setDest s node { d with copies := copies }
    let s := s.bump FIL_RESEND_COUNT 0 0 copies.length
    let s := forEach copies (fun s c => sendTxn s c.x) s
    journal s { typ := 0x10, source := 0x0100, node := node, arg := arg,
                dseqLo := (copies.head?.map (fun c => c.x.dseq.toNat)).getD 0,
                dseqHi := (copies.getLast?.map (fun c => c.x.dseq.toNat)).getD 0 }

/-- Reads of a destination sent again on its new port; its atomics keep the times of R337. -/
def resendReads (s : State) (node : Nat) : State :=
  forEach (s.fab.pend.filter (fun p => p.x.dst == node && p.x.opc.toNat != 0x06)) (fun s p => sendTxn s { p.x with resend := true }) s

/-- Nodes with traffic. -/
def busyNodes (s : State) : List Nat :=
  (s.fab.dests.map (·.1)) ++ ((s.fab.pend.map (fun p => p.x.dst)).filter (fun n => !(mapKeys s.fab.dests).elem n)).eraseDups

/-- Every destination whose port or clasp changes goes to its new port, and what it holds is sent again (R318, R322, R328). -/
def reroute (s : State) : State :=
  forEach (busyNodes s) (fun s node =>
    let d := destAt s node
    let new := pickPort s node
    if d.port = new ∧ d.clasp = claspFor s node then s
    else
      let s := setDest s node { d with port := new, clasp := claspFor s node, progress := nowNs s }
      if new.isSome then resendReads (resendAll s node 1) node else s) s

/-! ## Coherence (R324, R325) -/

/-- The sharers of a line of this device, as positions in the bangle list. -/
def sharersOf (s : State) (line : Nat) : List Nat :=
  let m := mapGet zeroN s.fab.dir line
  (List.range 8).filter (fun i => m.testBit i)

/-- The position of a node in the bangle list. -/
def banglePos (s : State) (node : Nat) : Option Nat :=
  (List.range 8).find? (fun m => s.bit FIL_BANGLE.VALID m && s.get FIL_BANGLE.NODE m == node)

/-- The 128-byte lines that a range touches. -/
def linesOf (a n : Nat) : List Nat :=
  if n = 0 then [] else (List.range ((a + n - 1) / 128 - a / 128 + 1)).map (· + a / 128)

/-- The nodes that share any line of a range, another node excepted. -/
def sharersIn (s : State) (a n : Nat) (but : Option Nat) : List Nat :=
  ((linesOf a n).flatMap (fun l => (sharersOf s l).map (fun m => s.get FIL_BANGLE.NODE m))).eraseDups.filter
    (fun x => some x != but)

/-- COH_INV sent to the sharers of the lines of a range (R324). -/
def askInv (s : State) (a n : Nat) (but : Option Nat) : State :=
  forEach (linesOf a n) (fun s l =>
    forEach ((sharersOf s l).map (fun m => s.get FIL_BANGLE.NODE m)) (fun s node =>
      if some node = but then s
      else
        let (s, x) := newTxn s 0x10 2 node (l * 128) []
        sendTxn s { x with sys := true }) s) s

/-- A line's directory entry set; the count of entries is published (R325, R341). -/
def setDir (s : State) (line mask : Nat) : State :=
  let use := if mask = 0 then s.fab.dirUse.filter (· ≠ line) else line :: s.fab.dirUse.filter (· ≠ line)
  let s := { s with fab := { s.fab with dir := mapPut zeroN s.fab.dir line mask, dirUse := use } }
  s.set FIL_DIR_ENTRIES s.fab.dir.length

/-- A sharer recorded; to make room the least recently used entry's sharers are invalidated (R325). -/
def addSharer (s : State) (line pos : Nat) : State :=
  let s := if (mapGet zeroN s.fab.dir line = 0) ∧ 1048576 ≤ s.fab.dir.length then
      match s.fab.dirUse.getLast? with
      | some old => setDir (askInv s (old * 128) 128 none) old 0
      | none => s
    else s
  setDir s line (mapGet zeroN s.fab.dir line ||| 2 ^ pos)

/-- A write of this device's memory by its own engines: applied at once, or after the invalidation of the sharers (R324). -/
def homeWrite (s : State) (a : Nat) (l : Bytes) (bad : Bool) : State :=
  let sh := sharersIn s a l.length none
  if sh.isEmpty then devStore s a l bad
  else
    let s := askInv s a l.length none
    { s with fab := { s.fab with invWait := s.fab.invWait ++ [{ addr := a, data := l, poison := bad }] } }

/-- A write by a hub engine whose status register is `fn`: one at or above `MEM_TOP` changes nothing, and the engine records
NOT_PRESENT in its own status (08_memory.md R203; the code's field: log 332). -/
def hubWrite (s : State) (fn a : Nat) (l : Bytes) (bad : Bool) : State :=
  if memTop s < a + l.length then setFnCode s fn Code.notPresent
  else homeWrite (raiseMem s (hubRequester fn true) a l.length) a l bad

/-- The line of a global address in the bangle cache. -/
def cacheLine (s : State) (gline : Nat) : Bytes := mapGet (fun _ => []) s.fab.cache gline

/-- A line put in the bangle cache; the least recently used one makes room (R324). -/
def cachePut (s : State) (gline : Nat) (b : Bytes) : State :=
  let s := if (cacheLine s gline).isEmpty ∧ 131072 ≤ s.fab.cache.length then
      match s.fab.cacheUse.getLast? with
      | some old => { s with fab := { s.fab with cache := mapErase s.fab.cache old
                                                 cacheUse := s.fab.cacheUse.filter (· ≠ old) } }
      | none => s
    else s
  { s with fab := { s.fab with cache := mapPut (fun _ => []) s.fab.cache gline b
                               cacheUse := gline :: s.fab.cacheUse.filter (· ≠ gline) } }

/-- A line dropped from the bangle cache. -/
def cacheDrop (s : State) (gline : Nat) : State :=
  { s with fab := { s.fab with cache := mapErase s.fab.cache gline, cacheUse := s.fab.cacheUse.filter (· ≠ gline) } }

/-- A store updates the writer's own copy in place (R324). -/
def cacheUpdate (s : State) (ga : Nat) (l : Bytes) : State :=
  forEach (linesOf ga l.length) (fun s g =>
    let b := cacheLine s g
    if b.isEmpty then s
    else cachePut s g ((List.range 128).map (fun i =>
      let a := g * 128 + i
      if ga ≤ a ∧ a < ga + l.length then l.getD (a - ga) 0 else b.getD i 0))) s

end Sys2Proof.Machine
end

