-- ==== Sys2Proof/Machine/Matrix.lean ====
section
/-! DEFINITION. One unit of a MATRIX command: its reads, its cells and its output (04_matrix_array.md R85 to R94,
05_arithmetic.md R110 to R128). -/

namespace Sys2Proof.Machine

/-- What a unit of a command gives: a fault's code and the place it names, flags, and writes. -/
structure UnitOut where
  code : Nat := 0
  space : Nat := 0
  at_ : Nat := 0
  flags : Nat := 0
  out : List Staged := []
deriving DecidableEq, Repr

/-- A slot of a data queue: base and size. -/
abbrev SlotR := Option (Nat × Nat)

/-- A range of an on-chip space lies in it, and in its queue slot (R148). -/
def chipOk (space : Nat) (slot : SlotR) (r : Nat × Nat) : Bool :=
  r.2 == 0 ||
  (decide (r.1 + r.2 ≤ chipSize space) &&
    (match slot with | some (b, z) => decide (b ≤ r.1) && decide (r.1 + r.2 ≤ b + z) | none => true))

/-- Ceiling division. -/
def cdiv (a b : Nat) : Nat := (a + b - 1) / max b 1

/-- Rows of a matrix: first address, count, stride, bytes per row. -/
def rowsOf (a n stride len : Nat) : List (Nat × Nat) := (List.range n).map (fun i => (a + i * stride, len))

/-- The addresses of a unit's pointers and scale arrays. -/
structure MatAddr where
  p : List Nat
  aux : List Nat

/-- Stored values of a right column (R127). -/
def storedK (m : MatCmd) : Nat := if m.sparse then 2 * cdiv m.k 4 else m.k

/-- Slabs of a pass (R86, R93). -/
def slabsOf (m : MatCmd) (g : Grp) : Nat := cdiv m.k (if m.sparse then 2 * g.depth else g.depth)

/-- A stride, dense where the field is 0 (R155). -/
def strideOr (field dense : Nat) : Nat := if field = 0 then dense else field

def leftDense (m : MatCmd) : Nat := cdiv (m.k * elemBits m.lfmt) 8
def rightDense (m : MatCmd) : Nat := cdiv (storedK m * elemBits m.rfmt) 8
def leftStride (m : MatCmd) : Nat := strideOr m.lstr (leftDense m)
def rightStride (m : MatCmd) : Nat := strideOr m.rstr (rightDense m)
def outStride (m : MatCmd) : Nat := strideOr m.ostr (m.n * outBytes m.ofmt)
def addStride (m : MatCmd) : Nat := strideOr m.astr (m.n * outBytes m.afmt)
/-- Bytes of metadata of a sparse column (R155). -/
def metaBytes (m : MatCmd) : Nat := cdiv (cdiv m.k 4) 2
/-- Scale blocks along K (R114). -/
def blocksK (m : MatCmd) : Nat := cdiv m.k 32

/-- The ranges of core store that a pass reads, by pointer 0, 1, 3 (R85, R90, R91, R114, R155); auxiliary arrays go with the
operand they serve. -/
def matReads (m : MatCmd) (a : MatAddr) (p : Nat) : List (Nat × Nat) :=
  let ad (i : Nat) : Nat := a.p.getD i 0
  let ax (i : Nat) : Nat := a.aux.getD i 0
  let b := blocksK m
  if m.ew ≠ 0 then
    match p with
    | 0 => [(ad 0, leftDense m)] ++ (if isMx m.lfmt then [(ax 0, b)] else [])
    | 1 => if m.ew = 3 then [] else [(ad 1, cdiv (m.k * elemBits m.rfmt) 8)] ++ (if isMx m.rfmt then [(ax 1, b)] else [])
    | _ => if m.afmt = 15 then [] else [(ad 3, m.k * outBytes m.afmt)]
  else
    match p with
    | 0 => rowsOf (ad 0) m.m (leftStride m) (leftDense m) ++
        (if isMx m.lfmt then [(ax 0, m.m * b)] else [])
    | 1 => rowsOf (ad 1) m.n (rightStride m) (rightDense m) ++
        (if isMx m.rfmt then [(ax 1, m.n * b)] else []) ++
        (if m.sparse then [(ax 2, m.n * metaBytes m)] else [])
    | _ => if m.afmt = 15 then [] else rowsOf (ad 3) m.m (addStride m) (m.n * outBytes m.afmt)

/-- The ranges of core store that a pass writes (R88, R94, R155). -/
def matWrites (m : MatCmd) (a : MatAddr) : List (Nat × Nat) :=
  if m.ew ≠ 0 then [(a.p.getD 2 0, m.k * outBytes m.ofmt)]
  else rowsOf (a.p.getD 2 0) m.m (outStride m) (m.n * outBytes m.ofmt)

/-- The scale of a position of an operand: exponent, or none for a NaN scale; an unscaled operand contributes 0 (R115). -/
def scaleAt (rd : Nat → Nat) (fmt arr row blocks k : Nat) : Option Int :=
  if isMx fmt then scaleExp (rd (arr + row * blocks + k / 32)) else some 0

/-- A product with its scale shift (R115, R118). -/
def scaledProd (a b : Val) (sa sb : Option Int) : Val × Flg :=
  match sa, sb with
  | some x, some y =>
    match mulVal a b with
    | (.fin m e, f) => (.fin m (e + x + y), f)
    | r => r
  | _, _ => (.nan, 4)

/-- The pairs of positions (left, stored right) of a cell's products in one slab (R86, R93, R127, R128). -/
def slabPairs (m : MatCmd) (g : Grp) (rd : Nat → Nat) (metaA slab : Nat) : List (Nat × Nat) :=
  let d := if m.sparse then 2 * g.depth else g.depth
  if m.sparse then
    (List.range (storedK m)).filterMap (fun t =>
      let nib := elemAt rd 4 metaA (t / 2)
      let pos := 4 * (t / 2) + (if t % 2 = 0 then nib % 4 else nib / 4 % 4)
      if pos / d = slab ∧ pos < m.k then some (pos, t) else none)
  else ((List.range d).map (· + slab * d)).filterMap (fun k => if k < m.k then some (k, k) else none)

/-- The addend of a cell as it lies in store. -/
def addendBits (m : MatCmd) (rd : Nat → Nat) (a i j : Nat) : Nat :=
  readLe rd (a + i * addStride m + j * outBytes m.afmt) (outBytes m.afmt)

/-- The accumulator before slab 0 (R121, R122). -/
def accStart (m : MatCmd) (x : Nat) : Acc :=
  if m.afmt = 15 then {} else if m.afmt = 8 then Acc.ofAcc96 x else Acc.addend 96 m.p (addVal m.afmt x)

/-- The halves of a complex cell before slab 0 (R122). -/
def cplxStart (m : MatCmd) (x : Nat) : Acc × Acc :=
  match m.afmt with
  | 9 => (Acc.addendPart m.p (.fin (sint 16 x) 0), Acc.addendPart m.p (.fin (sint 16 (x / 2 ^ 16)) 0))
  | 10 => (Acc.addendPart m.p (.fin (sint 32 x) 0), Acc.addendPart m.p (.fin (sint 32 (x / 2 ^ 32)) 0))
  | 11 => (Acc.addendPart m.p (FFmt.fp32.decode (x % 2 ^ 32)), Acc.addendPart m.p (FFmt.fp32.decode (x / 2 ^ 32)))
  | 12 => ({ a := sint 48 x }, { a := sint 48 (x / 2 ^ 48) })
  | _ => ({}, {})

/-- A real cell of the 8-bit and 4-bit groups (R116 to R118). -/
def cellFixed (m : MatCmd) (start : Acc) (slabs : List (List (Val × Flg))) : Acc := slabs.foldl (Acc.slab 96 m.p) start

/-- A cell of the 16-bit group (R119): every slab's sixteen products in the tree, then the sum in slab order. -/
def cellFp (start : Val) (slabs : List (List (Val × Flg))) : Val × Flg :=
  slabs.foldl (fun c l =>
    let t := treeAdd 4 (l ++ List.replicate (16 - l.length) (.fin 0 0, 0))
    let r := fp32Add c.1 t.1
    (r.1, c.2 ||| t.2 ||| r.2)) (start, 0)

/-- The parts of one complex product (R120). -/
def cplxProd (m : MatCmd) (a b : Int × Int) : Int × Int :=
  let ai := if m.conjL then -a.2 else a.2
  let bi := if m.conjR then -b.2 else b.2
  (a.1 * b.1 - ai * bi, a.1 * bi + ai * b.1)

/-- The drained element of cell (i, j) of a MATMUL pass and its flags (R116 to R125). -/
def matCell (m : MatCmd) (g : Grp) (rd : Nat → Nat) (a : MatAddr) (pass i j : Nat) : Nat × Flg :=
  let aRow := a.p.getD 0 0 + i * leftStride m
  let bCol := a.p.getD 1 0 + j * rightStride m
  let metaA := a.aux.getD 2 0 + j * metaBytes m
  let blk := blocksK m
  let le (k : Nat) : Nat := elemAt rd (elemBits m.lfmt) aRow k
  let re (k : Nat) : Nat := elemAt rd (elemBits m.rfmt) bCol k
  let x := if m.afmt = 15 then 0 else addendBits m rd (a.p.getD 3 0) i j
  let r := rndOf m.rnd (srU m.seed pass i j)
  let pairs := (List.range (slabsOf m g)).map (slabPairs m g rd metaA)
  if g.cplx then
    let prods := pairs.map (fun l => l.map (fun kt => cplxProd m (elemCplx m.lfmt (le kt.1)) (elemCplx m.rfmt (re kt.2))))
    let st := cplxStart m x
    let accRe := (prods.map (fun l => l.map (fun z => (Val.fin z.1 0, (0 : Flg))))).foldl (Acc.slab 48 m.p) st.1
    let accIm := (prods.map (fun l => l.map (fun z => (Val.fin z.2 0, (0 : Flg))))).foldl (Acc.slab 48 m.p) st.2
    drainCplx accRe accIm m.p m.eOut m.ofmt r
  else if g = .g16 then
    let prods := pairs.map (fun l => l.map (fun kt => fp32Mul (elemVal m.lfmt (le kt.1)) (elemVal m.rfmt (re kt.2))))
    let c := cellFp (if m.afmt = 15 then .fin 0 0 else addVal m.afmt x) prods
    let d := drainVal m.ofmt r (shiftVal m.eOut c.1)
    (d.1, d.2 ||| c.2)
  else
    let prods := pairs.map (fun l => l.map (fun kt =>
      scaledProd (elemVal m.lfmt (le kt.1)) (elemVal m.rfmt (re kt.2))
        (scaleAt rd m.lfmt (a.aux.getD 0 0) i blk kt.1) (scaleAt rd m.rfmt (a.aux.getD 1 0) j blk kt.1)))
    (cellFixed m (accStart m x) prods).drain m.p m.eOut m.ofmt r

/-- The drained element e of an element-wise pass and its flags (R94, R125, R126). -/
def ewElem (m : MatCmd) (g : Grp) (rd : Nat → Nat) (a : MatAddr) (pass e : Nat) : Nat × Flg :=
  let av := elemVal m.lfmt (elemAt rd (elemBits m.lfmt) (a.p.getD 0 0) e)
  let bv := elemVal m.rfmt (elemAt rd (elemBits m.rfmt) (a.p.getD 1 0) e)
  let x := if m.afmt = 15 then 0 else readLe rd (a.p.getD 3 0 + e * outBytes m.afmt) (outBytes m.afmt)
  let r := rndOf m.rnd (srU m.seed (pass * 2 ^ 20 + e / 32) 0 (e % 32))
  if g = .g16 then
    let p : Val × Flg := if m.ew = 3 then (av, 0) else mulVal av bv
    let t : Val × Flg := if m.ew = 1 then (p.1, 0) else addVals p.1 (if m.afmt = 15 then .fin 0 0 else addVal m.afmt x)
    let d := drainVal m.ofmt r (shiftVal m.eOut t.1)
    (d.1, d.2 ||| p.2 ||| t.2)
  else
    let sa := scaleAt rd m.lfmt (a.aux.getD 0 0) 0 0 e
    let sb := scaleAt rd m.rfmt (a.aux.getD 1 0) 0 0 e
    let t : Val × Flg := if m.ew = 3 then scaledProd av (.fin 1 0) sa (some 0) else scaledProd av bv sa sb
    (cellFixed m (accStart m x) [[t]]).drain m.p m.eOut m.ofmt r

/-- One pass: the rows of the output, each with its address, and the flags (R88, R90). -/
def matPass (m : MatCmd) (g : Grp) (rd : Nat → Nat) (a : MatAddr) (pass : Nat) : List (Nat × Bytes) × Flg :=
  let ob := outBytes m.ofmt
  let row (cells : List (Nat × Flg)) : Bytes := cells.flatMap (fun c => bytesLe ob c.1)
  if m.ew ≠ 0 then
    let l := (List.range m.k).map (ewElem m g rd a pass)
    ([(a.p.getD 2 0, row l)], l.foldl (fun f c => f ||| c.2) 0)
  else
    let rows := (List.range m.m).map (fun i =>
      (a.p.getD 2 0 + i * outStride m, (List.range m.n).map (matCell m g rd a pass i)))
    (rows.map (fun r => (r.1, row r.2)), rows.foldl (fun f r => r.2.foldl (fun f c => f ||| c.2) f) 0)

/-- A unit of a MATRIX command on core n: range and slot checks (R148), poison of its operands (R214), the pass. -/
def matUnit (s : State) (n : Nat) (c : BitVec 256) (a : MatAddr) (slots : List SlotR) (pass : Nat) : UnitOut :=
  let m := matOf c
  match grpOf m.lfmt with
  | none => { code := Code.badArgument }
  | some g =>
    let rd (x : Nat) : Nat := (rdM s.mems.core (n * coreStoreBytes + x)).toNat
    let reads := [0, 1, 3].flatMap (fun p => (matReads m a p).map (fun r => (p, r)))
    if !(reads.all (fun pr => chipOk 0 (slots.getD pr.1 none) pr.2)) then { code := Code.badArgument }
    else
      if !((matWrites m a).all (chipOk 0 (slots.getD 2 none))) then { code := Code.badArgument }
      else
        match reads.find? (fun pr => poisonedIn s.mems.pCore (n * coreStoreBytes + pr.2.1) pr.2.2) with
        | some pr => { code := Code.uncorrectable, space := 0, at_ := pr.2.1 }
        | none =>
          let r := matPass m g rd a pass
          { flags := r.2, out := r.1.map (fun x => { space := 0, addr := x.1, data := x.2, poison := false }) }

/-! ## Timing (R86 to R94) -/

/-- Feed cycles of a pass: slabs with the fill cycles that fall inside it (R93), or ⌈n / 32⌉ element-wise (R94). -/
def feedSpan (m : MatCmd) (g : Grp) : Nat :=
  if m.ew ≠ 0 then cdiv m.k 32
  else
    let s := slabsOf m g
    if m.sparse then s + (s - 64) else s

/-- Fill cycles before a sparse pass whose block the buffer does not hold (R93). -/
def fillBefore (m : MatCmd) (g : Grp) : Nat := if m.sparse then min 64 (slabsOf m g) else 0

/-- Cycles from a pass's first slab to its completion (R88, R93, R94). -/
def passCycles (m : MatCmd) (g : Grp) (lat : Nat) : Nat :=
  if m.ew ≠ 0 then feedSpan m g + lat - 31 else feedSpan m g + lat

/-- Cycles from the first slab of a pass of span s1 to the earliest first slab of the next of span s2 (R89, R94). -/
def passGap (ew1 ew2 : Bool) (s1 s2 lat : Nat) : Nat :=
  if ew1 then s1 + lat - 7
  else if ew2 then s1 + lat - 8
  else max s1 (s1 + lat - 7 - s2)

end Sys2Proof.Machine
end

