-- ==== Sys2Proof/Machine/Vector.lean ====
section
/-! DEFINITION. One unit of a VECTOR command (06_core_streams.md R156 to R158). -/

namespace Sys2Proof.Machine

/-- A value with the sign that a zero keeps under IEEE 754 (R157). -/
structure SV where
  neg : Bool
  v : Val
deriving DecidableEq, Repr

/-- The sign and value of a pattern of a format. -/
def svDecode (f : FFmt) (x : Nat) : SV := { neg := decide (x / 2 ^ (f.width - 1) % 2 = 1), v := f.decode x }

/-- A finite value with a sign for zero. -/
def svFin (neg : Bool) (m e : Int) : SV := { neg := if m = 0 then neg else decide (m < 0), v := .fin m e }

def svNan : SV := { neg := false, v := .nan }

/-- The sum; an exact zero of unlike signs is negative only when rounding down. -/
def svAdd (r : Rnd) (a b : SV) : SV :=
  match a.v, b.v with
  | .nan, _ => svNan
  | _, .nan => svNan
  | .inf x, .inf y => if x = y then a else svNan
  | .inf _, .fin _ _ => a
  | .fin _ _, .inf _ => b
  | .fin m1 e1, .fin m2 e2 =>
    let p := addExact m1 e1 m2 e2
    svFin (if a.neg = b.neg then a.neg else decide (r = .rdn)) p.1 p.2

/-- The negation. -/
def svNeg (a : SV) : SV :=
  { neg := !a.neg, v := match a.v with | .fin m e => .fin (-m) e | .inf x => .inf (!x) | .nan => .nan }

/-- The product. -/
def svMul (a b : SV) : SV :=
  match a.v, b.v with
  | .nan, _ => svNan
  | _, .nan => svNan
  | .inf _, .inf _ => { neg := a.neg != b.neg, v := .inf (a.neg != b.neg) }
  | .inf _, .fin m _ => if m = 0 then svNan else { neg := a.neg != b.neg, v := .inf (a.neg != b.neg) }
  | .fin m _, .inf _ => if m = 0 then svNan else { neg := a.neg != b.neg, v := .inf (a.neg != b.neg) }
  | .fin m1 e1, .fin m2 e2 => svFin (a.neg != b.neg) (m1 * m2) (e1 + e2)

/-- Whether one value is below another as numbers. -/
def svBelow (a b : SV) : Bool :=
  match a.v, b.v with
  | .inf x, .inf y => x && !y
  | .inf x, .fin _ _ => x
  | .fin _ _, .inf y => !y
  | .fin m1 e1, .fin m2 e2 => let e := min e1 e2; decide (m1 * 2 ^ (e1 - e).toNat < m2 * 2 ^ (e2 - e).toNat)
  | _, _ => false

/-- Whether one value is below another; a negative zero lies below a positive one. -/
def svLt (a b : SV) : Bool :=
  svBelow a b || (match a.v, b.v with | .fin 0 _, .fin 0 _ => a.neg && !b.neg | _, _ => false)

/-- The larger, and the smaller, of two values; NaN where either is (IEEE 754 maximum and minimum). -/
def svMax (a b : SV) : SV := if a.v = .nan ∨ b.v = .nan then svNan else if svLt a b then b else a
def svMin (a b : SV) : SV := if a.v = .nan ∨ b.v = .nan then svNan else if svLt b a then b else a

/-- The pattern of a value rounded to a floating-point format by IEEE 754 (R157). -/
def svEncode (f : FFmt) (r : Rnd) (a : SV) : Nat :=
  match a.v with
  | .nan => f.nanBits
  | .inf x => f.signed x (f.infBits.getD f.maxBits)
  | .fin m e =>
    let b := f.roundBits r m e
    if b ≤ f.maxBits then f.signed a.neg b
    else
      let toInf := match r with
        | .rtz => false
        | .rdn => a.neg
        | .rup => !a.neg
        | _ => true
      f.signed a.neg (if toInf then f.infBits.getD f.maxBits else f.maxBits)

/-- A value rounded to FP32. -/
def svRound32 (r : Rnd) (a : SV) : SV := svDecode .fp32 (svEncode .fp32 r a)

/-- The format of a floating-point vector type; the bits of an integer one (R156). -/
def vecFloat : Nat → Option FFmt
  | 0 => some .fp32 | 1 => some .bf16 | 2 => some .fp16 | _ => none
def vecInt : Nat → Nat
  | 3 => 32 | 4 => 16 | _ => 8

/-- An element of a type as stored. -/
def vecLoad (ty x : Nat) : SV :=
  match vecFloat ty with
  | some f => svDecode f x
  | none => svFin false (sint (vecInt ty) x) 0

/-- The element written to a type and its flags: integers saturate with OVERFLOW, NaN sets INVALID and drains to an integer
as 0 (R157). -/
def vecStore (ty : Nat) (r : Rnd) (a : SV) : Nat × Flg :=
  match vecFloat ty with
  | some f => let b := svEncode f r a; (b, if f.decode b = .nan then 4 else 0)
  | none =>
    let w := vecInt ty
    let top : Int := 2 ^ (w - 1) - 1
    match a.v with
    | .nan => (0, 4)
    | .inf x => (if x then 2 ^ (w - 1) else top.toNat, 2)
    | .fin m e =>
      let q := roundMag r a.neg m.natAbs e
      let y : Int := if a.neg then -(q : Int) else q
      let z := if y < -(top + 1) then -(top + 1) else if top < y then top else y
      ((z % 2 ^ w).toNat, if z = y then 0 else 2)

/-- An input as the engine computes with it: an integer type computes as an integer towards an integer OTYPE, and converts
into FP32 otherwise, INT32 by the rounding mode (R157; log 23). -/
def vecInput (aty oty : Nat) (r : Rnd) (x : SV) : SV :=
  if (vecFloat aty).isNone ∧ (vecFloat oty).isSome then svRound32 r x else x

/-- The scalar operand (R156). -/
def vecImm (aty imm : Nat) : SV :=
  match vecFloat aty with
  | some _ => svDecode .fp32 imm
  | none => svFin false (sint 32 imm) 0

/-! ## VOP 0x10 to 0x14 (R157)

A number x is held as the integer nearest below x times 2^400, so that the values that follow stand far nearer to the real
ones than an ulp of FP32. -/

abbrev fxBits : Nat := 400
def fxOne : Int := 2 ^ fxBits
def fxMul (a b : Int) : Int := a * b / fxOne

/-- e to a power of magnitude at most 256: 80 terms of the series at 1/1024 of it, squared ten times. -/
def fxExp (x : Int) : Int :=
  let r := x / 1024
  let s := (List.range 80).foldl (fun (a : Int × Int) k =>
    let t := fxMul a.2 r / (k + 1)
    (a.1 + t, t)) (fxOne, fxOne)
  (List.range 10).foldl (fun y _ => fxMul y y) s.1

/-- A number brought within a bound, beyond which the functions stand at their limits to far below an ulp. -/
def fxClamp (b : Nat) (x : Int) : Int := max (-(b * fxOne)) (min (b * fxOne) x)

/-- The square root of 2/π to 60 places, for the tanh form of GELU. -/
def fxRoot2Pi : Int := 797884560802865355879892119868763736951717262329869315331852 * fxOne / 10 ^ 60

/-- The value of a function of R156 at x; none where it is not a number or the rule's bound says nothing of it. -/
def fxFn (vop : Nat) (x : Int) : Option Int :=
  match vop with
  | 0x10 => if x ≤ 90 * fxOne then some (fxExp (fxClamp 256 x)) else none
  | 0x11 => if x = 0 then none else some (fxOne * fxOne / x)
  | 0x12 => if x ≤ 0 then none else some (Nat.sqrt (fxOne * fxOne * fxOne / x).toNat)
  | 0x13 => let e := fxExp (2 * fxClamp 100 x); some ((e - fxOne) * fxOne / (e + fxOne))
  | _ =>
    if 100 * fxOne < x then some x
    else
      let y := fxClamp 100 x
      let u := fxMul fxRoot2Pi (y + fxMul (44715 * fxOne / 1000000) (fxMul y (fxMul y y)))
      let e := fxExp (-(2 * fxClamp 100 u))
      some (y * fxOne / (fxOne + e))

/-- A finite number times 2^400. -/
def fxOf (m e : Int) : Int := m * 2 ^ (e + fxBits).toNat

/-- The ulp of FP32 at a value. -/
def fxUlp (a : Int) : Int := 2 ^ (max (Nat.log2 a.natAbs) (fxBits - 126) - 23)

/-- VOP 0x10 to 0x14: the one fixed algorithm's result, which lies within 2 ulp of FP32 of the value, 4 for GELU (R157). -/
def vecFn (vop : Nat) (a : SV) : SV :=
  let x := svRound32 .rne a
  let c := svDecode .fp32 (Config.transcendental vop (BitVec.ofNat 32 (svEncode .fp32 .rne a))).toNat
  match x.v with
  | .nan => svNan
  | .inf _ => c
  | .fin m e =>
    match fxFn vop (fxOf m e) with
    | none => c
    | some v =>
      let near := svRound32 .rne { neg := decide (v < 0), v := .fin v (-(fxBits : Int)) }
      match near.v, c.v with
      | .fin _ _, .fin p q => if (fxOf p q - v).natAbs ≤ ((if vop = 0x14 then 4 else 2) * fxUlp v).natAbs then c else near
      | .fin _ _, _ => near
      | _, _ => c

/-- An element-wise operation (R156). -/
def vecOp (vop : Nat) (r : Rnd) (a b c imm : SV) : SV :=
  match vop with
  | 0x00 => a
  | 0x01 => svAdd r a b
  | 0x02 => svAdd r a (svNeg b)
  | 0x03 => svMul a b
  | 0x04 => svAdd r (svMul a b) c
  | 0x05 => svMax a b
  | 0x06 => svMin a b
  | 0x07 => svMul a imm
  | 0x08 => svAdd r a imm
  | v => vecFn v a

/-- One step of a reduction in FP32 (R157; log 23). -/
def redStep (vop : Nat) (acc : Option SV) (x : SV) : Option SV :=
  let y := if vop = 0x22 then svRound32 .rne (svMul x x) else x
  match acc with
  | none => some y
  | some a => some (if vop = 0x21 then svMax a y else svRound32 .rne (svAdd .rne a y))

/-- Two partials combined. -/
def redJoin (vop : Nat) : Option SV → Option SV → Option SV
  | some a, some b => some (if vop = 0x21 then svMax a b else svRound32 .rne (svAdd .rne a b))
  | some a, none => some a
  | none, b => b

/-- One level of the pairwise tree of partials. -/
def redLevel (vop : Nat) : List (Option SV) → List (Option SV)
  | a :: b :: t => redJoin vop a b :: redLevel vop t
  | l => l

/-- The 64 partials, partial l over elements l, l + 64 and so on, combined in the pairwise tree (R157). -/
def reduce (vop : Nat) (l : List SV) : SV :=
  let parts := (List.range 64).map (fun k =>
    (l.zipIdx.filter (fun p => p.2 % 64 = k)).foldl (fun a p => redStep vop a p.1) none)
  let t := (List.range 6).foldl (fun p _ => redLevel vop p) parts
  (t.headD none).getD (svFin false 0 0)

/-- The lowest index of the largest element; none where a NaN is among them. -/
def argMax (l : List SV) : Option Nat :=
  if l.any (fun x => x.v == .nan) then none
  else (l.zipIdx.foldl (fun (best : Option (SV × Nat)) p =>
    match best with
    | none => some p
    | some b => if svBelow b.1 p.1 then some p else some b) none).map (·.2)

/-- Elements of a unit (R156). -/
def vecLen (c : BitVec 256) : Nat := cmdF c 176 157 + 1

/-- A unit of a VECTOR command on core n; ARGMAX gives an INT32 whatever OTYPE says (DEDUCED, log 345); `free` is the value that
the spec does not state (ARGMAX of a NaN: log 24). -/
def vecUnit (s : State) (n : Nat) (c : BitVec 256) (p : List Nat) (slots : List SlotR) (free : Nat) : UnitOut :=
  let vop := cmdF c 191 186
  let aty := cmdF c 185 183
  let oty := cmdF c 182 180
  let r := rndOf (cmdF c 179 177) 0
  let len := vecLen c
  let ib := vecBytes aty
  let red := decide (0x20 ≤ vop)
  let outLen := if vop = 0x23 then 4 else (if red then 1 else len) * vecBytes oty
  let rd (x : Nat) : Nat := (rdM s.mems.core (n * coreStoreBytes + x)).toNat
  let reads := (readsPtr c).map (fun i => (i, (p.getD i 0, len * ib)))
  if !(reads.all (fun pr => chipOk 0 (slots.getD pr.1 none) pr.2)) ||
      !(chipOk 0 (slots.getD 2 none) (p.getD 2 0, outLen)) then { code := Code.badArgument }
  else
    match reads.find? (fun pr => poisonedIn s.mems.pCore (n * coreStoreBytes + pr.2.1) pr.2.2) with
    | some pr => { code := Code.uncorrectable, space := 0, at_ := pr.2.1 }
    | none =>
      let el (i k : Nat) : SV := vecInput aty oty r (vecLoad aty (readLe rd (p.getD i 0 + k * ib) ib))
      let res : List (Nat × Flg) :=
        if vop = 0x23 then
          match argMax ((List.range len).map (el 0)) with
          | some k => [vecStore 3 r (svFin false k 0)]
          | none => [(free % 2 ^ 32, 0)]
        else if red then [vecStore oty r (reduce vop ((List.range len).map (el 0)))]
        else (List.range len).map (fun k =>
          vecStore oty r (vecOp vop r (el 0 k) (el 1 k) (el 3 k) (vecInput aty oty r (vecImm aty (cmdF c 156 125)))))
      { flags := res.foldl (fun f x => f ||| x.2) 0
        out := [{ space := 0, addr := p.getD 2 0
                  data := res.flatMap (fun x => bytesLe (if vop = 0x23 then 4 else vecBytes oty) x.1), poison := false }] }

/-- Cycles of a unit (R158). -/
def vecCycles (c : BitVec 256) : Nat := cdiv (vecLen c) (if cmdF c 185 183 = 0 ∨ cmdF c 185 183 = 3 then 64 else 128)

end Sys2Proof.Machine
end

