-- ==== Sys2Proof/Machine/Access.lean ====
section
/-! DEFINITION. One unit of an ACCESS command: window checks, local and remote reads and writes, conversions and atomics
(06_core_streams.md R148, R159 to R161; 09_contexts_tenants.md R238; 13_filigree.md R317, R329, R334). -/

namespace Sys2Proof.Machine

/-- A byte with its poison. -/
abbrev PB := Byte × Bool

/-! ## Windows (09_contexts_tenants.md R238) -/

/-- A GLOBAL window covers a range of the global space. -/
def Win.coversGlobal (w : Win) (a n : Nat) : Bool :=
  w.valid && w.isGlobal && decide (w.base ≤ a) && decide (a + n ≤ w.base + w.size * 65536)

/-- A range of device memory is admitted by the windows; a read-only one admits no write. -/
def admitsLocal (wins : List Win) (own a n : Nat) (write : Bool) : Bool :=
  wins.any (fun w => w.coversLocal own a n && (!write || !w.ro))

/-- A range of another node is admitted by the windows. -/
def admitsGlobal (wins : List Win) (a n : Nat) (write : Bool) : Bool :=
  wins.any (fun w => w.coversGlobal a n && (!write || !w.ro))

/-- Whom the windows bind: every function but the physical one, and that one where the image names windows (R238). -/
structure Rights where
  bound : Bool
  wins : List Win
  /-- A WAIT_MEM takes whatever value its read finds (07_hallmark.md R189) -/
  anyWord : Bool := false

/-- A range of device memory lies on another node. -/
def isRemote (s : State) (space a : Nat) : Bool := space == 4 && nodeOf a != ownNode s

/-- The device-memory offset that a local device or global address names. -/
def localOff (space a : Nat) : Nat := if space = 4 then offOf a else a

/-- The code with which a range is refused, DONE where it is not (R148, R203, R238, R239). -/
def rangeCode (s : State) (w : Rights) (slot : SlotR) (space a n : Nat) (write : Bool) : Nat :=
  if n = 0 then Code.done
  else if space ≤ 2 then (if chipOk space slot (a, n) then Code.done else Code.badArgument)
  else if 2 ^ 47 < (if space = 4 then offOf a else a) + n then Code.badArgument
  else if isRemote s space a then
    (if w.bound && !(admitsGlobal w.wins a n write) then Code.windowViolation else Code.done)
  else
    let o := localOff space a
    if w.bound && !(admitsLocal w.wins (ownNode s) o n write) then Code.windowViolation
    else if write then devWriteCode s o n else (devRead s o n).1

/-- The bytes of a local range with their poison. -/
def localBytes (s : State) (n space a len : Nat) : List PB :=
  let o := localOff space a
  let mark (p : SMap Bool) (i : Nat) : Bool := mapGet clean0 p (i / 64)
  let (bytes, bad) : Bytes × (Nat → Bool) :=
    match space with
    | 0 => (rdBytes s.mems.core (n * coreStoreBytes + a) len, fun i => mark s.mems.pCore (n * coreStoreBytes + a + i))
    | 1 => (rdBytes s.mems.sig (n * sigMemBytes + a) len, fun i => mark s.mems.pSig (n * sigMemBytes + a + i))
    | 2 => (rdBytes s.mems.cluster (n / 8 * clusterBytes + a) len, fun i => mark s.mems.pCluster (n / 8 * clusterBytes + a + i))
    | _ => ((devRead s o len).2.1, fun i => badDev s (o + i) 1)
  (List.range len).map (fun i => (bytes.getD i 0, bad i))

/-! ## Shapes (R159 to R161) -/

/-- Rows of a block from an address at a signed stride, with a 64-bit wrap. -/
def blockRows (a rows : Nat) (stride : Int) (len : Nat) : List (Nat × Nat) :=
  (List.range rows).map (fun (r : Nat) => (wrap64 ((a : Int) + r * stride), len))

/-- The rows and the row length of the destination (R161). -/
def destShape (a : AccCmd) : Nat × Nat :=
  let len := destRow a
  if a.t then
    let e := esizeBits a.esize
    (len * 8 / e, cdiv (a.rows * e) 8)
  else (a.rows, len)

/-- Resource blocks of a row converted, their poison spread over what derives from them (R130, R213). -/
def convertRow (f : Bytes → Bytes × Flg) (size : Nat) : Nat → List PB → List PB × Flg
  | 0, _ => ([], 0)
  | k + 1, l =>
    let b := l.take size
    let r := f (b.map (·.1))
    let t := convertRow f size k (l.drop size)
    (r.1.map (fun x => (x, b.any (·.2))) ++ t.1, r.2 ||| t.2)

/-- A row after its conversion. -/
def convRow (a : AccCmd) (l : List PB) : List PB × Flg :=
  let w := bfpWidth a.bfpw
  if a.aop = Aop.expand then convertRow (bfpExpand w) (prbBytes w) (l.length / prbBytes w) l
  else if a.aop = Aop.compress then convertRow (bfpCompress w) 48 (l.length / 48) l
  else (l, 0)

/-- A 4-bit element of a row. -/
def nibble (l : List PB) (i : Nat) : Nat × Bool :=
  let b := l.getD (i / 2) (0, false)
  (if i % 2 = 0 then b.1.toNat % 16 else b.1.toNat / 16, b.2)

/-- The transpose of rows of elements; an odd count of 4-bit elements ends in a byte whose upper half is 0 (R161). -/
def transpose (ebits : Nat) (rows : List (List PB)) (cols : Nat) : List (List PB) :=
  (List.range cols).map (fun c =>
    if ebits = 4 then
      (List.range ((rows.length + 1) / 2)).map (fun k =>
        let x := nibble (rows.getD (2 * k) []) c
        let y := if 2 * k + 1 < rows.length then nibble (rows.getD (2 * k + 1) []) c else (0, false)
        (BitVec.ofNat 8 (x.1 + 16 * y.1), x.2 || y.2))
    else rows.flatMap (fun r => (r.drop (c * (ebits / 8))).take (ebits / 8)))

/-- The rows that a block gives at its destination, and the flags. -/
def shapeRows (a : AccCmd) (src : List (List PB)) : List (List PB) × Flg :=
  let conv := src.map (convRow a)
  let fl := conv.foldl (fun f r => f ||| r.2) 0
  let rows := conv.map (·.1)
  (if a.t then transpose (esizeBits a.esize) rows (destShape a).1 else rows, fl)

/-- The bytes of a FILL row: the pattern from its first byte (R160). -/
def fillRow (imm len : Nat) : List PB := (List.range len).map (fun k => (BitVec.ofNat 8 (imm / 2 ^ (8 * (k % 4))), false))

/-! ## Pieces -/

/-- A range cut at multiples of `k`: address and length of each piece. -/
def piecesOf (k a n : Nat) : List (Nat × Nat) :=
  if n = 0 then []
  else (List.range ((a + n - 1) / k - a / k + 1)).map (fun i =>
    let lo := max a ((a / k + i) * k)
    (lo, min (a + n) ((a / k + i + 1) * k) - lo))

/-- The writes of a local row, one for each granule, so that each takes its own poison (R213). -/
def stageRow (space a : Nat) (l : List PB) : List Staged :=
  (piecesOf 64 a l.length).map (fun p =>
    let b := (l.drop (p.1 - a)).take p.2
    { space := space, addr := p.1, data := b.map (·.1), poison := b.any (·.2) })

/-- A node lies beyond the strand (R329). -/
def beyond (s : State) (node : Nat) : Bool := strandOf node != strandOf (ownNode s) && !inBangle s node

/-- The writes of a unit with those of one granule made one where together they fill it: it is written whole, so that its mark
goes by the new bytes alone (08_memory.md R213). -/
def fillGranules (l : List Staged) : List Staged :=
  ((l.map (fun w => (w.space, w.addr / 64))).eraseDups).flatMap (fun k =>
    let m := l.filter (fun w => w.space == k.1 && w.addr / 64 == k.2)
    let at_ (i : Nat) : Option Byte :=
      (m.reverse.find? (fun w => decide (w.addr ≤ 64 * k.2 + i) && decide (64 * k.2 + i < w.addr + w.data.length))).map
        (fun w => w.data.getD (64 * k.2 + i - w.addr) 0)
    match (List.range 64).mapM at_ with
    | some data => [{ space := k.1, addr := 64 * k.2, data := data, poison := m.any (·.poison) }]
    | none => m)

/-- The parts of a piece of a row that lie in poisoned and in clean granules, neighbours of one kind together: each is one
transaction, whose POISON flag speaks for all it carries (R213, R317; log 352). -/
def poisonRuns (a : Nat) (b : List PB) : List (Nat × Bytes × Bool) :=
  (stageRow 4 a b).foldr (fun w l => match l with
    | q :: t => if q.2.2 = w.poison then (w.addr, w.data ++ q.2.1, w.poison) :: t else (w.addr, w.data, w.poison) :: l
    | [] => [(w.addr, w.data, w.poison)]) []

/-- The payload of a PAGE_WRITE of bytes that lie in one page: its 4 KiB and the mask of 512 bits, one for each 8 bytes; where
8 bytes are written in part, the others of them are free values (R315, R329; log 367). -/
def pagePayload (s : State) (a : Nat) (b : Bytes) : State × Bytes :=
  let lo := a % 4096
  let hi := lo + b.length
  let on (k : Nat) : Bool := decide (8 * k < hi) && decide (lo < 8 * k + 8)
  let (i, s) := if lo % 8 = 0 ∧ hi % 8 = 0 then (0, s) else takeFree s
  let data := (List.range 4096).map (fun x =>
    if lo ≤ x ∧ x < hi then b.getD (x - lo) 0
    else if on (x / 8) then BitVec.ofNat 8 (Config.freeValue i / 2 ^ (8 * (x % 16)))
    else 0)
  (s, data ++ (List.range 64).map (fun j =>
    BitVec.ofNat 8 ((List.range 8).map (fun i => if on (8 * j + i) then 2 ^ i else 0)).sum))

/-- One piece of a remote row issued: transactions within 1 KiB, or a whole page with a byte mask beyond the strand (R317,
R329). -/
def sendPiece (s : State) (core a : Nat) (l : List PB) (p : Nat × Nat) : State :=
  let node := nodeOf a
  let b := (l.drop (p.1 - a)).take p.2
  if beyond s node then
    let r := pagePayload s p.1 (b.map (·.1))
    issueWrite r.1 core 0x22 3 node (offOf (p.1 / 4096 * 4096)) r.2 (b.any (·.2)) false
  else
    let s := if inBangle s node then cacheUpdate s p.1 (b.map (·.1)) else s
    forEach (poisonRuns p.1 b) (fun s q => issueWrite s core 0x03 0 node (offOf q.1) q.2.1 q.2.2 false) s

/-- The pieces of a remote row. -/
def rowPieces (s : State) (a n : Nat) : List (Nat × Nat) := piecesOf (if beyond s (nodeOf a) then 4096 else 1024) a n

/-- The writes of remote rows issued, those that a first run sent left out (R348 of 14_journal_recovery.md). -/
def sendRows (s : State) (core : Nat) (rows : List (Nat × List PB)) (skip : Nat) : State :=
  let l := rows.flatMap (fun r => (rowPieces s r.1 r.2.length).map (fun p => (r, p)))
  forEach (l.drop skip) (fun s x => sendPiece s core x.1.1 x.1.2 x.2) s

/-- Pieces in which the writes of a remote row go. -/
def rowTxns (s : State) (a n : Nat) : Nat := (rowPieces s a n).length

/-- The lines of a piece that the bangle cache does not hold. -/
def missLines (s : State) (p : Nat × Nat) : List Nat := (linesOf p.1 p.2).filter (fun g => (cacheLine s g).isEmpty)

/-- The reads of a remote row issued; a bangle member's lines come from the cache where it holds them (R317, R324, R329).
The number of requests that wait for an answer, and what the cache gave. -/
def readRow (s : State) (w : Who) (comb : Bool) (a n : Nat) : State × Nat × List (Nat × Bytes × Bool) :=
  let node := nodeOf a
  if beyond s node then
    let ps := piecesOf 4096 a n
    (forEach ps (fun s p => issueRead s w 0x20 3 node (offOf (p.1 / 4096 * 4096)) 4096 false false) s, ps.length, [])
  else if inBangle s node then
    (piecesOf 1024 a n).foldl (fun acc p =>
      let s := acc.1
      let miss := missLines s p
      let hit := (linesOf p.1 p.2).filter (fun g => !miss.elem g)
      let s := (s.bump FIL_BCACHE_HIT 0 0 hit.length).bump FIL_BCACHE_MISS 0 0 miss.length
      if miss.isEmpty then
        (s, acc.2.1, acc.2.2 ++ hit.map (fun g => (g * 128, cacheLine s g, false)))
      else
        let lo := p.1 / 128 * 128
        let hi := (p.1 + p.2 + 127) / 128 * 128
        (issueRead s w 0x01 0 node (offOf lo) (hi - lo) comb false, acc.2.1 + 1, acc.2.2)) (s, 0, [])
  else
    let ps := piecesOf 1024 a n
    (forEach ps (fun s p => issueRead s w 0x01 0 node (offOf p.1) p.2 comb false) s, ps.length, [])

/-- A byte of another node among the answers received. -/
def gotByte (got : List (Nat × Bytes × Bool)) (a : Nat) : PB :=
  match got.find? (fun g => decide (g.1 ≤ a) && decide (a < g.1 + g.2.1.length)) with
  | some g => (g.2.1.getD (a - g.1) 0, g.2.2)
  | none => (0, false)

/-! ## Atomics (13_filigree.md R334) -/

/-- The new value of a word. -/
def atomicNew (atop old a b : Nat) : Nat :=
  match atop with
  | 0 => (old + a) % 2 ^ 32
  | 1 => (old + a) % 2 ^ 64
  | 2 => old &&& a
  | 3 => old ||| a
  | 4 => old ^^^ a
  | 5 => max old a
  | 6 => min old a
  | 7 => a
  | _ => if old = a then b else old

/-- The operand of an atomic as its transaction carries it: IMM, sign-extended for ADD64, or the bytes at P2 (R334). -/
def atomicOperand (atop imm : Nat) (p2 : Bytes) : Bytes :=
  if atop = 0 then bytesLe 4 imm
  else if atop = 1 then bytesLe 8 ((toS 32 imm) % 2 ^ 64).toNat
  else p2

/-- The operands of an atomic read from its transaction. -/
def atomicArgs (b : Bytes) : Nat × Nat := (leNat (b.take 8), leNat ((b.drop 8).take 8))

/-- An atomic applied to a word of this device: the old value and the state (R335). -/
def atomicApply (s : State) (off atop : Nat) (operand : Bytes) : Nat × State :=
  let w := atopWidth atop
  let old := leNat ((devRead s off w).2.1)
  let ab := atomicArgs operand
  (old, devStore s off (bytesLe w (atomicNew atop old ab.1 ab.2)))

/-! ## One unit -/

/-- What became of a unit: it ended with writes and flags, it waits, or it faulted. -/
inductive AccRes where
  | done (out : List Staged) (flags : Nat)
  | wait
  | fault (code space at_ : Nat)

/-- The ranges that a unit reads and writes: pointer, space, address, length, write (R159 to R161, R334). -/
def accRanges (c : BitVec 256) (p : List Nat) : List (Nat × Nat × Nat × Nat × Bool) :=
  let a := accOf c
  let p0 := p.getD 0 0
  let p1 := p.getD 1 0
  if a.aop ≤ 3 then
    let d := destShape a
    (if a.aop = Aop.fill then [] else (blockRows p0 a.rows a.sstr a.rbytes).map (fun r => (0, a.sp0, r.1, r.2, false))) ++
      (blockRows p1 d.1 a.dstr d.2).map (fun r => (1, a.sp1, r.1, r.2, true))
  else if a.aop = Aop.waitMem then [(0, a.sp0, p0, 4, false)]
  else if a.aop = Aop.atomic then
    let w := atopWidth a.atop
    [(0, a.sp0, p0, w, true), (1, a.sp1, p1, w, true)] ++
      (if atopReadsP2 a.atop then [(2, a.sp2, p.getD 2 0, if a.atop = 8 then 16 else 8, false)] else [])
  else []

/-- A block at global addresses with rows on two nodes: its pointer's first address (R148). -/
def splitBlock (l : List (Nat × Nat × Nat × Nat × Bool)) : Option Nat :=
  (l.find? (fun r => r.2.1 == 4 && l.any (fun q => q.1 == r.1 && nodeOf q.2.2.1 != nodeOf r.2.2.1))).map (fun r => r.2.2.1)

/-- The first refusal among a unit's ranges: code, space, address. -/
def accRefusal (s : State) (w : Rights) (slots : List SlotR) (l : List (Nat × Nat × Nat × Nat × Bool)) :
    Option (Nat × Nat × Nat) :=
  match l with
  | [] => none
  | (p, sp, a, n, wr) :: t =>
    let c := rangeCode s w (slots.getD p none) sp a n wr
    if c ≠ Code.done then some (c, sp, a) else accRefusal s w slots t

/-- Bytes that a unit moves for its timing: the larger count of a conversion (R162). -/
def accBytes (c : BitVec 256) : Nat :=
  let a := accOf c
  if a.aop ≤ 2 then a.rows * max a.rbytes (destRow a)
  else if a.aop = Aop.fill then a.rows * a.rbytes
  else if a.aop = Aop.atomic then atopWidth a.atop
  else 4

/-- Cycles of a unit's bursts: 256 bytes each, at half the rate where it transposes 4-bit elements (R161, R162). -/
def accCycles (c : BitVec 256) : Nat :=
  let a := accOf c
  cdiv (accBytes c) 256 * (if a.t ∧ a.esize = 0 then 2 else 1)

/-- Some write of a unit to another node finds no room: no free space in the retransmit buffer, or a 257th destination
(R321, R323). -/
def remoteBlocked (s : State) (core : Nat) (l : List (Nat × Nat)) : Bool :=
  let need := (l.map (fun r => rowTxns s r.1 r.2 * (if beyond s (nodeOf r.1) then 4192 else 1056))).sum
  let opens := (openDests s core).map (·.1)
  !(rtxRoom s need) ||
    l.any (fun r => !(opens.elem (nodeOf r.1)) && decide (256 ≤ opens.length))

/-- The second half of a moving unit: the source rows at hand, the destination written or staged. -/
def finishMove (s : State) (n : Nat) (f : Inflight) (p : List Nat) (src : List (List PB)) : State × Inflight × AccRes :=
  let a := accOf f.cmd
  let d := destShape a
  let r : List (List PB) × Flg :=
    if a.aop = Aop.fill then (List.replicate a.rows (fillRow a.imm a.rbytes), 0) else shapeRows a src
  let dst := (blockRows (p.getD 1 0) d.1 a.dstr d.2).zip r.1
  let remote := dst.filter (fun x => isRemote s a.sp1 x.1.1)
  if !remote.isEmpty ∧ !ordinary s then (s, f, .wait)
  else if !remote.isEmpty ∧ remoteBlocked s n (remote.map (·.1)) then
    (if f.stuck then s else (s.set FIL_STATUS.RTX_FULL (if rtxRoom s 1056 then 0 else 1)).bump FIL_RTX_WAIT,
      { f with stuck := true }, .wait)
  else
    let rows := remote.map (fun x => (x.1.1, x.2))
    let k := (rows.map (fun x => rowTxns s x.1 x.2.length)).sum
    let s := sendRows s n rows f.skip
    (s, { f with skip := f.skip - k, wrote := f.wrote + (k - f.skip), stuck := false },
      .done (fillGranules ((dst.filter (fun x => !isRemote s a.sp1 x.1.1)).flatMap (fun x => stageRow a.sp1 x.1.1 x.2))) r.2)

/-- A unit of an ACCESS command on core n, for the command in flight f (R148, R160). -/
def accUnit (s : State) (n : Nat) (f : Inflight) (w : Rights) (p : List Nat) (slots : List SlotR) :
    State × Inflight × AccRes :=
  let c := f.cmd
  let a := accOf c
  let p0 := p.getD 0 0
  let ranges := accRanges c p
  if a.aop = Aop.fence then
    let ok := f.snap.all (fun x => decide (x.2 ≤ ackedOf s n x.1))
    (s, f, if ok then .done [] 0 else .wait)
  else if a.aop = Aop.atomic ∧ p0 % atopWidth a.atop ≠ 0 then (s, f, .fault Code.badArgument a.sp0 p0)
  else
    match ((splitBlock ranges).map (fun x => (Code.badArgument, 4, x))).orElse (fun _ => accRefusal s w slots ranges) with
    | some (code, sp, at_) => (s, f, .fault code sp at_)
    | none =>
      let remote := ranges.any (fun r => isRemote s r.2.1 r.2.2.1)
      let far := ranges.find? (fun r => isRemote s r.2.1 r.2.2.1 && beyond s (nodeOf r.2.2.1))
      if remote && (match far with | some r => noClasp s (nodeOf r.2.2.1) | none => false) then
        (s, f, .fault Code.notPresent a.sp0 p0)
      else if remote && !f.open_ && !ordinary s && f.olds.all (fun x => x.1 != f.unit) then (s, f, .wait)
      else if a.aop = Aop.waitMem then
        if isRemote s a.sp0 p0 then
          if f.open_ then
            if f.remote ≠ 0 then (s, f, .wait)
            else
              let l := (List.range 4).map (fun i => gotByte f.got (p0 + i))
              if l.any (·.2) then (s, f, .fault Code.uncorrectable a.sp0 p0)
              else if w.anyWord ∨ a.imm ≤ leNat (l.map (·.1)) then (s, f, .done [] 0)
              else (s, { f with open_ := false }, .wait)
          else
            let r := readRow s (.cmd n f.uid) a.comb p0 4
            (r.1, { f with open_ := true, remote := r.2.1, got := r.2.2 }, .wait)
        else
          let l := localBytes s n a.sp0 p0 4
          if l.any (·.2) then (s, f, .fault Code.uncorrectable a.sp0 p0)
          else if w.anyWord ∨ a.imm ≤ leNat (l.map (·.1)) then (s, f, .done [] 0) else (s, f, .wait)
      else if a.aop = Aop.atomic then
        let p1 := p.getD 1 0
        let wd := atopWidth a.atop
        let finish (old : Nat) : AccRes := .done (stageRow a.sp1 p1 ((bytesLe wd old).map (fun b => (b, false)))) 0
        match f.olds.find? (fun x => x.1 == f.unit) with
        | some x => (s, f, finish x.2)
        | none =>
          let p2 := if atopReadsP2 a.atop then localBytes s n a.sp2 (p.getD 2 0) (if a.atop = 8 then 16 else 8) else []
          if p2.any (·.2) then (s, f, .fault Code.uncorrectable a.sp2 (p.getD 2 0))
          else
            let operand := atomicOperand a.atop a.imm (p2.map (·.1))
            if isRemote s a.sp0 p0 then
              if beyond s (nodeOf p0) then (s, f, .fault Code.badArgument a.sp0 p0)
              else if f.open_ ∨ s.fab.pend.any (fun q => match q.who with | .cmd _ u => u == f.uid | _ => false) then (s, f, .wait)
              else if remoteBlocked s n [(p0, wd)] then
                (if f.stuck then s else s.bump FIL_RTX_WAIT, { f with stuck := true }, .wait)
              else
                (issueAtomic s n (.cmd n f.uid) (nodeOf p0) (offOf p0) a.atop operand a.comb,
                  { f with open_ := true, remote := 1 }, .wait)
            else
              let o := localOff a.sp0 p0
              if badDev s o wd then (s, f, .fault Code.uncorrectable a.sp0 p0)
              else if !(sharersIn s o wd none).isEmpty then
                (if f.open_ then s else askInv s o wd none, { f with open_ := true }, .wait)
              else
                let r := atomicApply s o a.atop operand
                (r.2, { f with open_ := false, olds := f.olds ++ [(f.unit, r.1)] }, finish r.1)
      else
        let rows := if a.aop = Aop.fill then [] else blockRows p0 a.rows a.sstr a.rbytes
        let far := rows.filter (fun r => isRemote s a.sp0 r.1)
        if !far.isEmpty ∧ !f.open_ then
          let r := far.foldl (fun acc x =>
            let q := readRow acc.1 (.cmd n f.uid) a.comb x.1 x.2
            (q.1, acc.2.1 + q.2.1, acc.2.2 ++ q.2.2)) (s, 0, [])
          let f := { f with open_ := true, remote := r.2.1, got := r.2.2 }
          if r.2.1 ≠ 0 then (r.1, f, .wait)
          else
            let src := rows.map (fun x => (List.range x.2).map (fun i => gotByte f.got (x.1 + i)))
            finishMove r.1 n f p src
        else if f.remote ≠ 0 then (s, f, .wait)
        else
          let src := rows.map (fun x =>
            if isRemote s a.sp0 x.1 then (List.range x.2).map (fun i => gotByte f.got (x.1 + i))
            else localBytes s n a.sp0 x.1 x.2)
          finishMove s n f p src

end Sys2Proof.Machine
end

