-- ==== Sys2Proof/Machine/Teardown.lean ====
section
/-! DEFINITION. Freeing a slot, tearing a context down, failing its group's job, and the record of a fault with its replay
(09_contexts_tenants.md R230 to R233, 14_journal_recovery.md R345 to R350). -/

namespace Sys2Proof.Machine

/-- The flags byte of a FAULT or REPLAY record (14_journal_recovery.md R344). -/
def recFlags (f : Inflight) (linked : Bool) : Nat :=
  (if f.waitTaken then 1 else 0) + (if f.entry.isSome then 2 else 0) + (if linked then 4 else 0)

/-- The record of a command (14_journal_recovery.md R344, R345). -/
def cmdRec (typ code n x : Nat) (f : Inflight) (linked : Bool) (arg detail : Nat) : JRec :=
  { typ := typ, code := code, source := n, ctx := x, tag := cmdTag f.cmd, stream := f.stream, flags := recFlags f linked,
    cmd := f.idx, count := f.count, entry := (f.entry.map (·.toNat)).getD 0, seqFirst := f.seqFirst, sent := f.sent,
    arg := arg, detail := detail }

/-- The replays of a context that will not run: each ends as failed and leaves the table. -/
def dropReplays (s : State) (x : Nat) : State :=
  let s := forEach (ctxAt s x).replays (fun s p =>
    match repAt s p with
    | some e =>
      let s := forEach e.cmds (fun s f =>
        journal s (cmdRec 0x03 Code.replayFailed e.core x f (e.grp ≠ 0) 0 0)) s
      setRep s p none
    | none => s) s
  setCtx s x { ctxAt s x with replays := [] }

/-- The teardown of one context, in the order of R232; its pointers stay in its record. -/
def tearOne (s : State) (x code tag : Nat) : State :=
  let s := dropReplays s x
  let y := ctxAt s x
  let s := match slotOf s x with
    | some (n, c) => freeSlot s n c
    | none => s
  setCtx s x { y with
    state := 4, code := code, tag := tag, core := none, halt := true
    live := { y.live with dataqs := [], streams := y.live.streams.map (fun p => (p.1, { p.2 with dynq := [], dynLeft := 0
                                                                                                 parked := none })) } }

/-- A context whose group's job ends: IDLE, or resident where it is pinned (R229, R233). -/
def toIdle (s : State) (x : Nat) : State :=
  let y := ctxAt s x
  if y.state = 2 then setCtx s x { y with state := 1, job := false }
  else if y.state = 3 then
    if y.pin then setCtx s x { y with job := false }
    else
      let s := leaveSlot s x 1
      setCtx s x { ctxAt s x with job := false }
  else s

/-- The other contexts of a failed group issue nothing more; those without a command in flight return to IDLE (R233). -/
def failGroup (s : State) (g x code tag : Nat) : State :=
  let w := groupAt s g
  match w.job with
  | none => s
  | some j =>
    let s := setGroup s g { w with job := some { j with failed := some (j.failed.getD (code, x, tag)) } }
    forEach (w.ctxs.filter (· ≠ x)) (fun s y =>
      let s := setCtx s y { ctxAt s y with halt := true }
      if inFlight s y then s else toIdle (dropReplays s y) y) s

/-- A tenant that is being frozen has no command in flight any more: its contexts are saved, marked FROZEN and evicted,
FROZEN is set, and the mailbox ends (R244). -/
def freezeSettle (s : State) (f : Nat) : State :=
  let xs := (mapKeys s.ctxs).filter (fun x => (ctxAt s x).fn == f && (ctxAt s x).state != 0)
  if (fnAt s f).freezing && xs.all (fun x => !inFlight s x) then
    let s := forEach xs (fun s x =>
      let y := ctxAt s x
      if y.state = 5 then s
      else
        let s := leaveSlot s x 5
        setCtx s x { ctxAt s x with thaw := if y.state = 3 then (if y.job && !y.halt then 2 else 1) else y.state }) s
    let s := setFn s f { fnAt s f with freezing := false }
    let s := (s.set HOST_VF_STATUS.FROZEN 1 f).set HOST_FN_STATUS.FROZEN 1 f
    if mbxBusyWith s 0x23 ∧ mbxArg s 0 = f then mbxEnd s Code.done else s
  else s

/-! ## Maintenance queued, and a core that leaves service (17_live_service.md R396 to R398; R350) -/

/-- Activities queued on a core, in the order of 17_live_service.md R396. -/
def queueActs (s : State) (n : Nat) (kinds : List Nat) : State :=
  let k := coreAt s n
  let q := (List.range 5).filter (fun i => k.maintQ.any (fun a => a.kind == i) || kinds.elem i)
  (setCore s n { k with maintQ := q.map (fun i => { kind := i }) }).set MARGIN_CORE.QUEUED (if q.isEmpty then 0 else 1) n

/-- Core n marked suspect, its margin check queued (R350, R351). -/
def markSuspect (s : State) (n : Nat) : State := queueActs (setSuspect s n true) n [3]

/-- The count of retired cores changed: E and the key follow (00_scope.md R4; 05_arithmetic.md R135). -/
def setRetired (s : State) (r : Nat) : State :=
  let e := s.get GLOBAL_CORES.ENABLED - r
  ((s.set GLOBAL_CORES.RETIRED r).set GLOBAL_CORES.EFFECTIVE e).set GLOBAL_REPRO_KEY
    (s.get GLOBAL_REPRO_KEY / 2 ^ 8 * 2 ^ 8 + e)

/-- A core's functions RETIRED: what ran on it for maintenance is over. -/
def coreLeaves (s : State) (n : Nat) : State :=
  let s := (setFnState s (arrFn n) Fn.retired).set MARGIN_CORE.RUNNING 0 n
  setCore s n { coreAt s n with retiring := false, returning := false, check := 0, checkBad := false, maint := [], cpHalted := false }

/-- A core that is being retired and has no resident any more: RETIRED, E lowered, the key published, the RETIRE record
written, the mailbox told (17_live_service.md R398; 18_registers_mailbox.md R423). -/
def retireSettle (s : State) (n : Nat) : State :=
  let k := coreAt s n
  if k.retiring && (List.range 4).all (fun c => !(k.slot c).valid) then
    let s := setRetired (coreLeaves s n) (s.get GLOBAL_CORES.RETIRED + (if k.returning then 0 else 1))
    let s := journal s { typ := 0x30, arg := n }
    if mbxBusyWith s 0x11 ∧ mbxArg s 0 = n then mbxEnd s Code.done [s.get GLOBAL_REPRO_KEY] else s
  else s

/-- A context torn down, its group's job failed, the function told by vector 2 (R232 to R234). -/
def teardown (s : State) (x code tag : Nat) : State :=
  let y := ctxAt s x
  let s := tearOne s x code tag
  let s := failGroup s y.group x code tag
  let s := freezeSettle (raiseMsix s y.fn 2) y.fn
  match y.core with
  | some n => retireSettle s n
  | none => s

/-- The slot of a resident context without a command in flight is left: for a freeze, because its group's job failed, because
its core has left the allotment, because its core is being retired, or because its control processor has failed (R233, R240,
R244; 17_live_service.md R398; 14_journal_recovery.md R351). -/
def settleSlot (s : State) (x n : Nat) : State :=
  let y := ctxAt s x
  if ((groupAt s y.group).job.bind (·.failed)).isSome then freezeSettle (toIdle (dropReplays s x) x) y.fn
  else if (fnAt s y.fn).freezing then
    let s := leaveSlot s x 5
    freezeSettle (setCtx s x { ctxAt s x with thaw := 2 }) y.fn
  else if (coreAt s n).retiring ∨ (coreAt s n).cpFailed ∨ (y.fn < 256 ∧ !((s.get HOST_VF_CORES y.fn (n / 32)).testBit (n % 32))) then leaveSlot s x 2
  else s

/-- What follows when a context has no more command in flight: a halted one returns to IDLE or is frozen, one whose core
left the allotment or service becomes READY again (R233, R240, R244; 17_live_service.md R398). -/
def settleCtx (s : State) (x : Nat) : State :=
  let y := ctxAt s x
  if inFlight s x ∨ y.state ≠ 3 then s
  else
    match y.core with
    | some n => retireSettle (settleSlot s x n) n
    | none => s

/-- The members of the link group of a command in flight, or the command alone. -/
def membersOf (s : State) (n : Nat) (f : Inflight) : List Inflight :=
  let k := coreAt s n
  let img := (ctxAt s (k.slot f.slot).ctx).img
  let link (g : Inflight) : Nat := img.links.getD (g.idx - img.loops * 8) 0
  if link f = 0 then [f] else (k.fly.filter (fun g => g.slot == f.slot && link g == link f))

/-- Commands dropped from flight: nothing commits, the data queues they are bound to are emptied (R140, R349). -/
def abandon (s : State) (n x : Nat) (l : List Inflight) : State :=
  let k := coreAt s n
  let qs := l.flatMap (fun f => (List.range 4).filterMap (boundQ f.cmd))
  let s := setCore s n { k with
    fly := k.fly.filter (fun f => !(l.any (fun g => g.uid == f.uid)))
    sig := if l.any (fun f => f.stream == 3) then { k.sig with pc := none, rep := 0 } else k.sig
    grp := none }
  let s := if l.any (fun f => f.stream == 1) then cutPasses s n else s
  let y := ctxAt s x
  setCtx s x { y with live := qs.foldl (fun p q => p.setDataq q {}) y.live }

/-- Whether a fault of a code is replayed: the causes of R346, under a RUNNING journal with room in its table, and not a
replay itself (R345, R350). -/
def mayReplay (s : State) (code : Nat) (l : List Inflight) : Bool :=
  decide (fnState s jrnlFn = Fn.running) && (code == Code.uncorrectable || code == Code.configParity) &&
    l.all (fun f => f.replay.isNone)

/-- A command of a context faults: its record and those of its group, then the replay table, or the teardown
(14_journal_recovery.md R345, R346, R350; 00_scope.md R10). `reload` asks for the image to be copied back. -/
def cmdFault (s : State) (n x : Nat) (f : Inflight) (code detail : Nat) (reload : Bool := false) : State :=
  let y := ctxAt s x
  let l := membersOf s n f
  let l := if l.any (fun g => g.uid == f.uid) then l.map (fun g => if g.uid == f.uid then f else g) else f :: l
  let linked := decide (1 < l.length)
  let s := trace s n f.slot f.stream 2 code (cmdTag f.cmd) x f.count
  let s := forEach l (fun s g =>
    journal s (cmdRec 0x01 code n x g linked (if g.uid = f.uid then g.unit else 0) (if g.uid = f.uid then detail else 0))) s
  match f.replay with
  | some p =>
    let s := forEach l (fun s g => journal s (cmdRec 0x03 Code.replayFailed n x g linked 0 0)) s
    let s := setRep s p none
    let s := setCtx s x { ctxAt s x with replays := (ctxAt s x).replays.filter (· ≠ p) }
    let s := markSuspect (s.bump JRNL_REPLAY_FAILED 0 0 l.length) n
    teardown s x Code.replayFailed (cmdTag f.cmd)
  | none =>
    if mayReplay s code l then
      match freeRep s with
      | some p =>
        if repCount s + l.length ≤ 1024 then
          let s := abandon s n x l
          let img := y.img
          let s := setRep s p (some { core := n, ctx := x, grp := img.links.getD (f.idx - img.loops * 8) 0, cmds := l
                                      code := code, reload := reload })
          settleCtx (setCtx s x { ctxAt s x with replays := (ctxAt s x).replays ++ [p] }) x
        else teardown (s.bump JRNL_REPLAY_FAILED) x code (cmdTag f.cmd)
      | none => teardown (s.bump JRNL_REPLAY_FAILED) x code (cmdTag f.cmd)
    else teardown s x code (cmdTag f.cmd)

/-- A fault of a context that is no command in flight's: its record and the teardown. -/
def ctxFault (s : State) (n x stream code : Nat) (cmd : BitVec 256) : State :=
  let c := ((slotOf s x).map (·.2)).getD 0
  let count := match (coreAt s n).fly.find? (fun f => f.slot == c && f.stream == stream) with
    | some f => f.count
    | none => ((ctxAt s x).live.stream stream).count
  let s := trace s n c stream 2 code (cmdTag cmd) x count
  let s := journal s { typ := 0x01, code := code, source := n, ctx := x, tag := cmdTag cmd, stream := stream, count := count }
  teardown s x code (cmdTag cmd)

end Sys2Proof.Machine
end

