-- ==== Sys2Proof/Machine/Issue.lean ====
section
/-! DEFINITION. The head of a stream, whether it may issue, the held time, and the order of residents
(06_core_streams.md R138 to R153, R167, R170; 07_hallmark.md R186, R189, R194; 09_contexts_tenants.md R227, R228). -/

namespace Sys2Proof.Machine

/-! ## Fetch (07_hallmark.md R194) -/

/-- The place in the command memories of a byte of slot z's region in its active bank. -/
def fetchKey (n : Nat) (z : Slot) (o : Nat) : Nat := n * 0x40000 + z.bank * cmdBankBytes + z.base * 256 + o

/-- The command of an index, in units of a command from the region's base (log 30). -/
def fetchCmd (s : State) (n : Nat) (z : Slot) (idx : Nat) : BitVec 256 :=
  BitVec.ofNat 256 (leNat (rdBytes s.mems.cmd (fetchKey n z (idx * 32)) 32))

/-- A loop record. -/
def fetchLoop (s : State) (n : Nat) (z : Slot) (l : Nat) : Bytes := rdBytes s.mems.cmd (fetchKey n z (l * 256)) 256

/-- An instruction of the signal section. -/
def fetchKern (s : State) (n : Nat) (z : Slot) (img : Img) (i : Nat) : BitVec 64 :=
  BitVec.ofNat 64 (leNat (rdBytes s.mems.cmd (fetchKey n z (img.loops * 256 + img.cmds * 32 + i * 8)) 8))

/-- An index within the image's tables of commands. -/
def Img.rel (g : Img) (idx : Nat) : Nat := idx - g.loops * 8

/-- The link group of a command, 0 none. -/
def Img.link (g : Img) (idx : Nat) : Nat := g.links.getD (g.rel idx) 0

/-- The stream of a command by its index. -/
def Img.streamOf (g : Img) (idx : Nat) : Nat :=
  ((List.range 4).find? (fun t => decide (g.first.getD t 0 ≤ idx) && decide (idx < g.last.getD t 0))).getD 0

/-! ## Dynamic-queue entries (R167) -/

def entIdx (e : BitVec 64) : Nat := e.toNat / 2 ^ 52
def entOvr (e : BitVec 64) : Bool := e.toNat / 2 ^ 51 % 2 == 1
def entLevel (e : BitVec 64) : Nat := e.toNat / 2 ^ 48 % 8
def entCount (e : BitVec 64) : Nat := e.toNat / 2 ^ 28 % 2 ^ 20

/-- The entry keeps the limits of R167, and names no DYNQ or BOUNDARY (R145). -/
def entOk (g : Img) (c : BitVec 256) (e : BitVec 64) : Bool :=
  decide (e.toNat % 2 ^ 28 = 0) && !([1, 2].elem (cmdOp c)) &&
  (match g.dyn.find? (fun d => d.1 == entIdx e) with
   | some d => !entOvr e || (decide (entLevel e < cmdLevels c) && decide (entCount e ≤ d.2.getD (entLevel e) 0))
   | none => false)

/-! ## The head of a stream -/

/-- What a stream would issue next. -/
structure Head where
  idx : Nat
  cmd : BitVec 256
  entry : Option (BitVec 64)

/-- Replays due on a stream of a context (14_journal_recovery.md R347). -/
def replaysOn (s : State) (x st : Nat) : List Nat :=
  (ctxAt s x).replays.filter (fun p => match repAt s p with
    | some e => e.cmds.any (fun f => f.stream == st)
    | none => false)

/-- A stream of the context in slot c heads with this command; none where it is idle, parked, behind a BOUNDARY in flight,
or where a replay comes first. -/
def headOf (s : State) (n c st : Nat) : Option Head :=
  let k := coreAt s n
  let z := k.slot c
  let y := ctxAt s z.ctx
  let t := y.live.stream st
  if !y.job || t.parked.isSome || !(replaysOn s z.ctx st).isEmpty ||
      k.fly.any (fun f => f.slot == c && f.stream == st && cmdOp f.cmd == 2) then none
  else if 0 < t.dynLeft then
    match t.dynq with
    | [] => none
    | e :: _ => some { idx := entIdx e, cmd := fetchCmd s n z (entIdx e), entry := some e }
  else if t.pc < y.img.last.getD st 0 then some { idx := t.pc, cmd := fetchCmd s n z t.pc, entry := none }
  else none

/-- The head may not run: R144, R167. -/
def headBad (y : Ctx) (st : Nat) (h : Head) : Bool :=
  !(cmdValid h.cmd st y.img.loops y.img.queues) || decide (h.idx < y.img.loops * 8) ||
  decide (y.img.loops * 8 + y.img.cmds ≤ h.idx) ||
  (match h.entry with | some e => !entOk y.img h.cmd e | none => false)

/-- The override of a head's loop counts (R167). -/
def headOvr (h : Head) : Option (Nat × Nat) :=
  match h.entry with
  | some e => if entOvr e then some (entLevel e, entCount e) else none
  | none => none

/-! ## Token counters (R152, R153) -/

/-- Cluster counter i of a cluster. -/
def clTokAt (s : State) (cl i : Nat) : Nat := mapGet (fun _ => 0) s.clTok (256 * cl + i)

/-- A cluster counter written. -/
def setClTok (s : State) (cl i v : Nat) : State := { s with clTok := mapPut (fun _ => 0) s.clTok (256 * cl + i) v }

/-- The counter that a command waits on. -/
def waitCount (s : State) (n : Nat) (y : Ctx) (c : BitVec 256) : Nat :=
  if cmdWaitCluster c then clTokAt s (n / 8) (cmdWaitIdx c) else y.live.token (cmdWaitIdx c)

/-- The token wait of a command is satisfied. -/
def tokenMet (s : State) (n : Nat) (y : Ctx) (c : BitVec 256) : Bool := decide (cmdWaitN c ≤ waitCount s n y c)

/-- Every cluster counter that a command names is allotted to its group (R153). -/
def allotted (y : Ctx) (c : BitVec 256) : Bool :=
  (!cmdWaitCluster c || y.counters.elem (cmdWaitIdx c)) && (!cmdSigCluster c || y.counters.elem (cmdSigIdx c))

/-- The class of a context is TENANT, and the command a WAIT_MEM (07_hallmark.md R189). -/
def tenantWait (y : Ctx) (c : BitVec 256) : Bool :=
  y.img.cls == 2 && cmdOp c == Opc.access && (accOf c).aop == Aop.waitMem

/-- The address of a head's P0 in its first unit. -/
def headP0 (s : State) (n : Nat) (z : Slot) (h : Head) : Nat :=
  ptrAddr h.cmd (fetchLoop s n z (cmdLoop h.cmd)) [] 0 none

/-- The word that a TENANT WAIT_MEM at the head waits for, as far as it is known: read, or at hand for a context that is not
the running one; none where a read has to be made (R189). -/
def headWord (s : State) (n c st : Nat) (h : Head) : Option Nat :=
  let k := coreAt s n
  let z := k.slot c
  let t := (ctxAt s z.ctx).live.stream st
  match t.word with
  | some w => some w
  | none =>
    let sp := (accOf h.cmd).sp0
    let p := headP0 s n z h
    if k.run = some c ∨ isRemote s sp p then none
    else some (leNat ((localBytes s n sp p 4).map (·.1)))

/-- The link group of a head has begun to issue: the waits of all its members held on that tick (07_hallmark.md R186). -/
def groupBegun (s : State) (n c : Nat) (idx : Nat) : Bool :=
  let k := coreAt s n
  let link := (ctxAt s (k.slot c).ctx).img.link idx
  k.run == some c && link != 0 && k.grp.map (·.1) == some link

/-- The wait of a head is satisfied (R138, R189): a word that no read has found yet does not satisfy it. -/
def waitMet (s : State) (n c st : Nat) (h : Head) : Bool :=
  let y := ctxAt s ((coreAt s n).slot c).ctx
  groupBegun s n c h.idx ||
  (tokenMet s n y h.cmd &&
    (!tenantWait y h.cmd ||
      (match headWord s n c st h with | some w => decide ((accOf h.cmd).imm ≤ w) | none => false)))

/-- Two commands wait on one counter. -/
def sameCounter (c d : BitVec 256) : Bool :=
  cmdWaitCluster c == cmdWaitCluster d && cmdWaitIdx c == cmdWaitIdx d

/-- The token waits of the members of a group hold together: what its members consume of one counter is there at once
(R152; 07_hallmark.md R186). -/
def jointMet (s : State) (n : Nat) (y : Ctx) (l : List (BitVec 256)) : Bool :=
  l.all (fun c => cmdWaitN c == 0 ||
    decide (((l.filter (fun d => sameCounter c d && !cmdPeek d)).map cmdWaitN).sum ≤ waitCount s n y c))

/-- The members of a link group that belong to other streams: their indices (07_hallmark.md R186). -/
def peersOf (g : Img) (idx : Nat) : List Nat :=
  if g.link idx = 0 then []
  else ((List.range g.cmds).map (· + g.loops * 8)).filter (fun j => j != idx && g.link j == g.link idx)

/-- Every other member is in flight already, or heads its stream with its wait satisfied (R186). -/
def peersReady (s : State) (n c : Nat) (idx : Nat) : Bool :=
  let k := coreAt s n
  let z := k.slot c
  let y := ctxAt s z.ctx
  let g := y.img
  let begun := groupBegun s n c idx
  (peersOf g idx).all (fun j =>
    let u := g.streamOf j
    (begun && k.fly.any (fun f => f.slot == c && f.idx == j)) ||
    (match headOf s n c u with
     | some h => h.idx == j && waitMet s n c u h &&
         decide ((k.fly.filter (fun f => f.slot == c && f.stream == u)).length < roomOf u)
     | none => false)) &&
  (begun || (peersOf g idx).isEmpty || jointMet s n y ((idx :: peersOf g idx).map (fetchCmd s n z)))

/-! ## Gates (03_calendar.md R59, R63, R69, R80) -/

/-- The gate of a class. -/
def classGate : Nat → Nat
  | 0 => Gate.hard
  | 1 => Gate.firm
  | 2 => Gate.tenant
  | _ => Gate.maint

/-- The gate of a class is open on a core (R61). -/
def gateOpen (s : State) (n cls : Nat) : Bool := coreGates s n &&& classGate cls != 0

/-- Core cycles from now end at or before the close of a core's MAINT gate (R69). -/
def maintFits (s : State) (n cycles : Nat) : Bool :=
  gatesOf s n &&& Gate.maint != 0 &&
  (match closeWait s n Gate.maint with | some w => decide (cycles * 4 ≤ w * 5) | none => true)

/-- A command of a class may start now: a MAINT group by its bound. -/
def mayStart (s : State) (n : Nat) (y : Ctx) (idx : Nat) : Bool :=
  match y.img.cls with
  | 2 => tenantMayStart s n
  | 3 => gateOpen s n 3 && maintFits s n (y.img.bounds.getD (y.img.rel idx) 0)
  | c => gateOpen s n c

/-! ## Residents in order (09_contexts_tenants.md R227, R228) -/

/-- A core is in the allotment of a function; the physical function has every core. -/
def coreAllotted (s : State) (fn n : Nat) : Bool :=
  decide (256 ≤ fn) || (s.get HOST_VF_CORES fn (n / 32)).testBit (n % 32)

/-- A resident context may issue at all: it has a job, is not halted by a break, by its group's failure or by a freeze, and
its core is in the allotment. -/
def mayRun (s : State) (n c : Nat) : Bool :=
  let z := (coreAt s n).slot c
  let y := ctxAt s z.ctx
  z.valid && !(coreAt s n).stopped && !(coreAt s n).retiring && y.state == 3 && y.job && !y.halt && !z.halted && coreAllotted s y.fn n &&
    !frozen s y.fn && (fnAt s y.fn).flr == 0

/-- The place of a class in the order of R228: HARD, FIRM, MAINT, TENANT. -/
def classRank : Nat → Nat
  | 0 => 0 | 1 => 1 | 3 => 2 | _ => 3

/-- The context of slot c comes before that of slot d (R228). -/
def precedes (s : State) (n c d : Nat) : Bool :=
  let x := ((coreAt s n).slot c).ctx
  let y := ((coreAt s n).slot d).ctx
  let a := ctxAt s x
  let b := ctxAt s y
  decide (classRank a.img.cls < classRank b.img.cls) ||
  (decide (classRank a.img.cls = classRank b.img.cls) &&
    (decide (a.progress < b.progress) || (decide (a.progress = b.progress) && decide (x < y))))

/-- A stream of a slot waits at issue on a counter or a TENANT WAIT_MEM, or is idle (R227). -/
def streamBlocked (s : State) (n c st : Nat) : Bool :=
  let y := ctxAt s ((coreAt s n).slot c).ctx
  match headOf s n c st with
  | some h => !waitMet s n c st h
  | none => (y.live.stream st).parked.isNone && (replaysOn s ((coreAt s n).slot c).ctx st).isEmpty

/-- A resident context is blocked (R227). -/
def blocked (s : State) (n c : Nat) : Bool :=
  !((coreAt s n).fly.any (fun f => f.slot == c)) && (List.range 4).all (streamBlocked s n c)

/-- A stream of a slot has a command ready: its wait and its group's are satisfied, or a replay is due. -/
def streamReady (s : State) (n c st : Nat) : Bool :=
  let y := ctxAt s ((coreAt s n).slot c).ctx
  (match headOf s n c st with
   | some h => waitMet s n c st h && peersReady s n c h.idx && mayStart s n y h.idx
   | none => false) ||
  (!(replaysOn s ((coreAt s n).slot c).ctx st).isEmpty && gateOpen s n y.img.cls)

/-- A resident has a command ready (R228). -/
def slotReady (s : State) (n c : Nat) : Bool := mayRun s n c && (List.range 4).any (streamReady s n c)

/-- Another resident of higher order than slot c has a command ready (R228). -/
def outranked (s : State) (n c : Nat) : Bool :=
  (List.range 4).any (fun d => d != c && slotReady s n d && precedes s n d c)

/-- The residents from which the core chooses, best first at its head (R228). -/
def bestSlot (s : State) (n : Nat) : Option Nat :=
  let ok := (List.range 4).filter (fun c =>
    mayRun s n c && gateOpen s n (ctxAt s ((coreAt s n).slot c).ctx).img.cls && !blocked s n c)
  ok.foldl (fun b c => match b with
    | some d => if precedes s n c d then some c else some d
    | none => some c) none

/-! ## Held streams (R141) -/

/-- The queues that a command's pointers are bound to, with the pointer, and whether it writes. -/
def boundPtrs (c : BitVec 256) : List (Nat × Nat × Bool) :=
  (List.range 4).filterMap (fun p =>
    match boundQ c p with
    | some q => if (writesPtr c).elem p then some (p, q, true) else if (readsPtr c).elem p then some (p, q, false) else none
    | none => none)

/-- The bound pointers that take an entry before unit u (R147). -/
def takesAt (c : BitVec 256) (counts : List Nat) (u : Nat) : List (Nat × Nat × Bool) :=
  (boundPtrs c).filter (fun b => u % max (spanOf counts (poplOf c b.1)) 1 == 0)

/-- An entry or a free slot is there to take (R150). -/
def canTake (y : Ctx) (b : Nat × Nat × Bool) : Bool :=
  let d := y.live.dataq b.2.1
  if b.2.2 then decide (d.alloc < d.freed + qtSlots (y.img.queues.getD b.2.1 0)) else decide (d.taken < d.pushed)

/-- The entry that a bound pointer takes, and the context after it; none where it has to wait (R150). -/
def takeOne (y : Ctx) (b : Nat × Nat × Bool) : Option (Nat × Ctx) :=
  if canTake y b then
    let d := y.live.dataq b.2.1
    let next := if b.2.2 then { d with alloc := d.alloc + 1 } else { d with taken := d.taken + 1 }
    some (if b.2.2 then d.alloc else d.taken, { y with live := y.live.setDataq b.2.1 next })
  else none

/-- The entries that bound pointers take one after the other, with their pointers: two that share a queue take two (R150). -/
def takeSeq : List (Nat × Nat × Bool) → Ctx → Option (List (Nat × Nat) × Ctx)
  | [], y => some ([], y)
  | b :: t, y =>
    match takeOne y b with
    | some r => (takeSeq t r.2).map (fun q => ((b.1, r.1) :: q.1, q.2))
    | none => none

/-- A producer's last entry in each queue, and a consumer's, have been freed (R151). -/
def entriesFreed (y : Ctx) (f : Inflight) : Bool :=
  (boundPtrs f.cmd).all (fun b =>
    match f.slots.getD b.1 none with
    | some e => decide (e < (y.live.dataq b.2.1).freed)
    | none => true)

/-- A command in flight waits for an entry, a slot, a memory word, or for its pushed entries to be freed. -/
def flyHeld (y : Ctx) (f : Inflight) : Bool :=
  if f.unit < f.units then
    (!f.taken && (takeSeq (takesAt f.cmd f.counts f.unit) y).isNone) ||
    (f.taken && cmdOp f.cmd == Opc.access && (accOf f.cmd).aop == Aop.waitMem && !(y.img.cls == 2))
  else !entriesFreed y f

/-- A break has stopped the context of slot c and nothing of it is in flight any more: it is halted (R170). -/
def isHalted (s : State) (n c : Nat) : Bool :=
  ((coreAt s n).slot c).halted && !((coreAt s n).fly.any (fun f => f.slot == c))

/-- A context counts for R141: it runs, with its class gate open, and no break halts it. -/
def heldCounts (s : State) (n c : Nat) : Bool :=
  let k := coreAt s n
  let z := k.slot c
  k.run == some c && z.valid && !isHalted s n c && gateOpen s n (ctxAt s z.ctx).img.cls

/-- A stream waits at issue: its next command's wait or group is not satisfied, or it is parked (R141; 07_hallmark.md R198). -/
def issueHeld (s : State) (n c st : Nat) : Bool :=
  ((ctxAt s ((coreAt s n).slot c).ctx).live.stream st).parked.isSome ||
  (match headOf s n c st with
   | some h => !(waitMet s n c st h && peersReady s n c h.idx)
   | none => false)

/-- The status of a stream as `CORE_HELD_c` shows it: 0 running, 1 idle, 2 held at issue, 3 held in flight. Either case of R141
makes it held, whatever its other commands do; where both apply it shows 3 (log 341). -/
def streamHeld (s : State) (n c st : Nat) : Nat :=
  let k := coreAt s n
  let z := k.slot c
  let own := k.fly.filter (fun f => f.slot == c && f.stream == st)
  let v :=
    if own.any (flyHeld (ctxAt s z.ctx)) then 3
    else if issueHeld s n c st then 2
    else if own.isEmpty && (headOf s n c st).isNone && (replaysOn s z.ctx st).isEmpty then 1 else 0
  if !z.valid then 0 else if v ≤ 1 then v else if heldCounts s n c then v else 0

/-- Every stream is held or idle, at least one held. -/
def allHeld (s : State) (n c : Nat) : Bool :=
  let l := (List.range 4).map (streamHeld s n c)
  heldCounts s n c && l.all (· != 0) && l.any (fun v => 2 ≤ v)

/-- The held time of a slot now (R141). -/
def heldTime (s : State) (n c : Nat) : Nat :=
  let z := (coreAt s n).slot c
  z.held + (if allHeld s n c then nowNs s - z.heldMark else 0)

/-- A slot's held time set, counted from now. -/
def setHeld (s : State) (n c v : Nat) : State :=
  let k := coreAt s n
  setCore s n (k.setSlot c { k.slot c with held := v, heldMark := nowNs s })

/-- The held time of the running context brought up to now; it returns to 0 where no stream is held (R141). -/
def countHeld (s : State) (n : Nat) : State :=
  match (coreAt s n).run with
  | none => s
  | some c =>
    if heldCounts s n c then
      if (List.range 4).any (fun t => 2 ≤ streamHeld s n c t) then setHeld s n c (heldTime s n c) else setHeld s n c 0
    else setHeld s n c ((coreAt s n).slot c).held

/-- A slot whose break has let its last command in flight complete: stream, cause and tag are recorded (R170). -/
def settleBreak (s : State) (n c : Nat) : State :=
  let k := coreAt s n
  match (k.slot c).brk with
  | some (st, cause, tag) =>
    if isHalted s n c then
      let s := setCore s n (k.setSlot c { k.slot c with brk := none })
      ((s.set CORE_DBG_STATUS.STREAM st n).set CORE_DBG_STATUS.CAUSE cause n).set CORE_DBG_STATUS.TAG tag n
    else s
  | none => s

/-- The held time of the running context brought up to now, and the breaks that have taken effect recorded (R141, R170). -/
def accumHeld (s : State) (n : Nat) : State := forEach (List.range 4) (fun s c => settleBreak s n c) (countHeld s n)

/-! ## Breaks (R170) -/

/-- The cause of a break before a head issues: 1 BRK, 2 TAG, 3 COUNT; none where no condition holds (R170). -/
def breakCause (s : State) (n c st : Nat) (h : Head) : Option Nat :=
  let t := (ctxAt s ((coreAt s n).slot c).ctx).live.stream st
  if s.get CORE_DBG_CTRL.SLOT n ≠ c then none
  else if cmdBrk h.cmd ∧ s.bit CORE_DBG_CTRL.BRK_EN n then some 1
  else if s.bit CORE_DBG_CTRL.TAG_EN n ∧ cmdTag h.cmd = s.get CORE_DBG_TAG n then some 2
  else if (s.get CORE_DBG_CTRL.CNT_EN n).testBit st ∧
      t.count = s.get CORE_DBG_CNT_LO n st + s.get CORE_DBG_CNT_HI n st * 2 ^ 32 then some 3
  else none

/-- The break before a head and its group issue: the stream, cause and tag of the first member that has one (R170;
07_hallmark.md R186). -/
def groupBreak (s : State) (n c st : Nat) (h : Head) : Option (Nat × Nat × Nat) :=
  let g := (ctxAt s ((coreAt s n).slot c).ctx).img
  ((st :: (peersOf g h.idx).map g.streamOf).findSome? (fun u =>
    match headOf s n c u with
    | some d => (breakCause s n c u d).map (fun cause => (u, cause, cmdTag d.cmd))
    | none => none))

/-- Issue stops on all four streams of a slot's context; stream, tag and cause are recorded once nothing of it is in flight
(R170). -/
def breakAt (s : State) (n c st cause tag : Nat) : State :=
  let k := coreAt s n
  let z := k.slot c
  let s := setCore s n (k.setSlot c { z with halted := true, stepOn := none, brk := some (st, cause, tag) })
  trace s n c st 5 0 tag z.ctx ((ctxAt s z.ctx).live.stream st).count

end Sys2Proof.Machine
end

