-- ==== Sys2Proof/Machine/Units.lean ====
section
/-! DEFINITION. Running the units of the commands in flight, and committing what completes (06_core_streams.md R139, R147 to
R151; 04_matrix_array.md R86 to R94; 14_journal_recovery.md R349). -/

namespace Sys2Proof.Machine

/-! ## Tables of a core -/

/-- A command in flight replaced, by its number. -/
def putFly (s : State) (n : Nat) (f : Inflight) : State :=
  let k := coreAt s n
  setCore s n { k with fly := k.fly.map (fun g => if g.uid = f.uid then f else g) }

/-- A command in flight by its number. -/
def flyAt (s : State) (n uid : Nat) : Option Inflight := (coreAt s n).fly.find? (fun f => f.uid == uid)

/-- The live data queue q of a context replaced. -/
def putDataq (s : State) (x q : Nat) (d : DataQ) : State :=
  let y := ctxAt s x
  setCtx s x { y with live := y.live.setDataq q d }

/-! ## Entries (R147, R150) -/

/-- An older command of the same stream still has units that take entries of a queue. -/
def olderTakes (s : State) (n : Nat) (f : Inflight) (q : Nat) : Bool :=
  (coreAt s n).fly.any (fun g =>
    decide (g.uid < f.uid) && g.slot == f.slot && g.stream == f.stream && decide (g.unit < g.units) && (boundPtrs g.cmd).any (fun b => b.2.1 == q))

/-- The entries of a unit taken, one pointer after the other, where all are there; the slots then held (R150). -/
def takeEntries (s : State) (n x : Nat) (f : Inflight) : Option (State × Inflight) :=
  let l := takesAt f.cmd f.counts f.unit
  match (if l.any (fun b => olderTakes s n f b.2.1) then none else takeSeq l (ctxAt s x)) with
  | some r =>
    let s := setCtx s x r.2
    let s := if l.isEmpty then s else setHeld s n f.slot 0
    some (s, { f with taken := true, slots := r.1.foldl (fun t e => t.set e.1 (some e.2)) f.slots })
  | none => none

/-- The slots of a unit as base and size (R149). -/
def slotRanges (y : Ctx) (f : Inflight) : List SlotR :=
  (List.range 4).map (fun p =>
    match boundQ f.cmd p, f.slots.getD p none with
    | some q, some e =>
      let t := y.img.queues.getD q 0
      some (qtBase t + e % qtSlots t * qtSize t, qtSize t)
    | _, _ => none)

/-- The entries whose last unit has ended: written or read through (R150). -/
def endEntries (s : State) (x : Nat) (f : Inflight) : State :=
  forEach ((boundPtrs f.cmd).filter (fun b =>
      (f.unit + 1) % max (spanOf f.counts (poplOf f.cmd b.1)) 1 == 0 || f.unit + 1 == f.units)) (fun s b =>
    let d := (ctxAt s x).live.dataq b.2.1
    putDataq s x b.2.1 (if b.2.2 then { d with written := d.written + 1 } else { d with readDone := d.readDone + 1 })) s

/-! ## The end of a unit -/

/-- The pointer that an engine writes through: P1 of an ACCESS command, else P2. -/
def outPtr (c : BitVec 256) : Nat := if cmdOp c = Opc.access then 1 else 2

/-- A unit that ended: its writes go to the slot that it fills, or wait for completion; its entries are marked. -/
def unitEnd (s : State) (n x : Nat) (f : Inflight) (out : List Staged) (flags : Nat) : State :=
  let direct := (boundQ f.cmd (outPtr f.cmd)).isSome
  let s := if direct then forEach out (fun s w => chipWrite s n w.space w.addr w.data w.poison) s else s
  let s := endEntries s x f
  putFly s n { f with
    unit := f.unit + 1, out := if direct then f.out else f.out ++ out, flags := f.flags ||| flags
    taken := false, stuck := false, open_ := false, got := [], remote := 0 }

/-! ## The matrix array's time (04_matrix_array.md R86 to R94, R102, R109) -/

/-- A pass placed in time: its first slab at the earliest cycle that R89, R93, R94 and R103 allow, and its completion. The fill
before the first pass begins when the command is ready and no slab of another command enters. -/
def placePass (s : State) (n : Nat) (f : Inflight) (m : MatCmd) (g : Grp) (p1 : Nat) : State × Inflight :=
  let lat := drainLat s n
  let span := feedSpan m g
  let slabs := if m.ew ≠ 0 then span else slabsOf m g
  let a := arrAt s n
  let first := f.unit = 0
  let ready := if first then max f.start a.feed else a.feed
  let fill := if m.sparse ∧ (first ∨ f.lastP1 ≠ some p1 ∨ 64 < slabs) then fillBefore m g else 0
  let start := max (max (cycleNow s) (f.start + 1)) (max (ready + fill) (a.feed + passGap a.ew (m.ew ≠ 0) 0 span lat))
  let f := if first then { f with start := start } else f
  let last := start + passCycles m g lat
  let p : Pass := { uid := f.uid, start := start, span := span, slabs := slabs, done := last }
  let s := setArr s n { a with feed := start + span, plan := a.plan ++ [p], ew := m.ew ≠ 0 }
  (s, { f with cost := max (max f.cost (last - f.start)) 40, passes := f.passes + 1, slabs := f.slabs + slabs
               lastP1 := some p1 })

/-! ## Running units -/

/-- The place of an on-chip byte of core n among the marks of its space, and those marks. -/
def chipKey (n space a : Nat) : Nat :=
  match space with
  | 0 => n * coreStoreBytes + a
  | 1 => n * sigMemBytes + a
  | _ => n / 8 * clusterBytes + a
def chipMarks (s : State) (space : Nat) : SMap Bool :=
  match space with
  | 0 => s.mems.pCore
  | 1 => s.mems.pSig
  | _ => s.mems.pCluster

/-- The poisoned granules of this device that ranges touch, each once: 3 for device memory or the on-chip space, and the
granule. -/
def poisonHits (s : State) (n : Nat) (l : List (Nat × Nat × Nat)) : List (Nat × Nat) :=
  (l.flatMap (fun r =>
    if 3 ≤ r.1 then
      if isRemote s r.1 r.2.1 then []
      else ((granules (localOff r.1 r.2.1) r.2.2).filter (fun g => badDev s (64 * g) 64)).map (fun g => (3, g))
    else ((granules (chipKey n r.1 r.2.1) r.2.2).filter (fun g => mapGet clean0 (chipMarks s r.1) g)).map
      (fun g => (r.1, g)))).eraseDups

/-- A command of core n consumed the poisoned granules of some ranges, space, address and length each: POISON_SEEN of their
channels, POISON_SEEN and a count for each in the cluster's stores (08_memory.md R214; R173). -/
def seePoison (s : State) (n : Nat) (l : List (Nat × Nat × Nat)) : State :=
  forEach (poisonHits s n l) (fun s g => if g.1 = 3 then poisonSeenDev s (64 * g.2) else poisonSeenChip s n) s

/-- A unit of a command faults; a poisoned operand among what it reads is seen. -/
def unitFault (s : State) (n x : Nat) (f : Inflight) (code at_ : Nat) (reads : List (Nat × Nat × Nat)) : State :=
  let s := if code = Code.uncorrectable then seePoison s n reads else s
  cmdFault (putFly s n f) n x f code at_

/-- The transactions that a step sent added to the command's record (14_journal_recovery.md R345). -/
def noteSent (before : Nat) (s : State) (f : Inflight) : Inflight :=
  let d := (s.fab.seq + 2 ^ 32 - before) % 2 ^ 32
  if d = 0 then f else { f with seqFirst := if f.sent = 0 then (before + 1) % 2 ^ 32 else f.seqFirst, sent := f.sent + d }

/-- The rights of a command: the windows in force at its issue (09_contexts_tenants.md R238). -/
def rightsOf (y : Ctx) (f : Inflight) : Rights :=
  { bound := y.fn != 256 || y.img.cls == 2 || !y.img.wins.isEmpty, wins := f.wins, anyWord := y.img.cls == 2 }

/-- The state with the windows that a command in flight has from its issue: it finishes under them, encryption included
(09_contexts_tenants.md R239, R240). -/
def underWins (s : State) (y : Ctx) (f : Inflight) : State :=
  { s with wins := (y.img.wins.zip f.wins).foldl (fun m p => mapPut (fun _ => ({} : Win)) m (16 * y.fn + p.1) p.2) s.wins }

/-- The requests that a unit's ranges make: the cluster port's at the memory channels, the access engine's at the banks of the
core store (08_memory.md R216 to R218). -/
def raiseUnit (s : State) (n : Nat) (l : List (Nat × Nat × Nat × Nat × Bool)) : State :=
  forEach l (fun s r =>
    if r.2.1 = 0 then raiseBank s n 1 r.2.2.1 r.2.2.2.1
    else if r.2.1 = 3 ∨ (r.2.1 = 4 ∧ !isRemote s 4 r.2.2.1) then
      raiseMem s (n / 8) (localOff r.2.1 r.2.2.1) r.2.2.2.1 (n % 8)
    else s) s

/-- The requests that an engine's writes of a unit make at the banks of the core store: requester 0 the matrix drain, 2 the vector
engine (08_memory.md R222). -/
def raiseOut (s : State) (n r : Nat) (l : List Staged) : State :=
  forEach l (fun s w => if w.space = 0 then raiseBank s n r w.addr w.data.length else s) s

/-- The requests of the vector engine's reads at the banks of the core store (08_memory.md R222). -/
def raiseVec (s : State) (n : Nat) (c : BitVec 256) (p : List Nat) : State :=
  forEach (readsPtr c) (fun s i => raiseBank s n 2 (p.getD i 0) (vecLen c * vecBytes (cmdF c 185 183))) s

/-- A pointer of a SIGNAL command names a byte of the signal memory, and a line of its slot where it is bound (R148; log
340). -/
def sigPtrOk (c : BitVec 256) (slot : SlotR) (i a : Nat) : Bool :=
  if (boundQ c i).isSome then chipOk 1 slot (a, 64) else decide (a < sigMemBytes)

/-- The ranges that a unit of an ACCESS command reads. -/
def accReads (c : BitVec 256) (p : List Nat) : List (Nat × Nat × Nat) :=
  ((accRanges c p).filter (fun r => r.1 != 1)).map (fun r => (r.2.1, r.2.2.1, r.2.2.2.1))

/-- One unit of a command in flight; false where it waits or its context has left. -/
def unitStep (s : State) (n uid : Nat) : State × Bool :=
  match flyAt s n uid with
  | none => (s, false)
  | some f =>
    let k := coreAt s n
    let z := k.slot f.slot
    let x := z.ctx
    let behind := k.fly.any (fun g => decide (g.uid < uid) && g.stream == f.stream && decide (g.unit < g.units))
    let wm := cmdOp f.cmd == Opc.access && (accOf f.cmd).aop == Aop.waitMem
    if f.unit < f.units ∧ f.stream = 1 ∧ !f.waitLevel ∧ level s n < 8 then
      (lanternTurn (putFly s n { f with waitLevel := true }) n, false)
    else if f.units ≤ f.unit ∨ f.waitLevel ∨ (f.stream ≠ 0 ∧ behind) ∨ (f.stream = 3 ∧ k.sig.pc.isSome) then (s, false)
    else if wm ∧ f.taken ∧ !f.open_ ∧ nowNs s < f.poll + 250 then (s, false)
    else
      match (if f.taken then some (s, f) else takeEntries s n x f) with
      | none => (s, false)
      | some (s, f) =>
        let y := ctxAt s x
        let rec_ := fetchLoop s n z (cmdLoop f.cmd)
        let idx := digits f.counts f.unit
        let slots := slotRanges y f
        let base (p : Nat) : Option Nat := (slots.getD p none).map (·.1)
        let p := (List.range 4).map (fun i => ptrAddr f.cmd rec_ idx i (base i))
        match cmdOp f.cmd with
        | 0x10 =>
          let m := matOf f.cmd
          let aux := [auxAddr f.cmd rec_ idx 0 0 (base 0), auxAddr f.cmd rec_ idx 1 1 (base 1),
            auxAddr f.cmd rec_ idx 2 1 (base 1)]
          let u := matUnit s n f.cmd { p := p, aux := aux } slots f.unit
          if u.code ≠ Code.done then
            let reads := [0, 1, 3].flatMap (fun i => (matReads m { p := p, aux := aux } i).map (fun r => (0, r.1, r.2)))
            (unitFault s n x f u.code u.at_ reads, false)
          else
            match grpOf m.lfmt with
            | none => (s, false)
            | some g =>
              let r := placePass s n f m g (p.getD 1 0)
              (unitEnd (raiseOut r.1 n 0 u.out) n x r.2 u.out u.flags, true)
        | 0x20 =>
          let fr := if cmdF f.cmd 191 186 = 0x23 then takeFree s else (0, s)
          let u := vecUnit fr.2 n f.cmd p slots (Config.freeValue fr.1)
          if u.code ≠ Code.done then
            let reads := (readsPtr f.cmd).map (fun i => (0, p.getD i 0, vecLen f.cmd * vecBytes (cmdF f.cmd 185 183)))
            (unitFault fr.2 n x f u.code u.at_ reads, false)
          else
            let f := { f with cost := (if f.unit = 0 then 14 else f.cost) + vecCycles f.cmd }
            (unitEnd (raiseOut (raiseVec fr.2 n f.cmd p) n 2 u.out) n x f u.out u.flags, true)
        | 0x30 =>
          let before := s.fab.seq
          let f := if wm then { f with poll := nowNs s } else f
          let r := accUnit (underWins s y f) n f (rightsOf y f) p slots
          let s := { r.1 with wins := s.wins }
          let f := noteSent before s r.2.1
          match r.2.2 with
          | .wait => (putFly s n f, false)
          | .fault code _ a => (unitFault s n x f code a (accReads f.cmd p), false)
          | .done out flags =>
            let s := if (accOf f.cmd).aop ≤ 2 then seePoison s n (accReads f.cmd p) else s
            let s := raiseUnit s n (accRanges f.cmd p)
            (unitEnd s n x { f with cost := max 1 (f.cost + accCycles f.cmd) } out flags, true)
        | 0x40 =>
          match (List.range 4).find? (fun i => !sigPtrOk f.cmd (slots.getD i none) i (p.getD i 0)) with
          | some i => (unitFault s n x f Code.badArgument (p.getD i 0) [], false)
          | none =>
            let a := (List.range 4).foldl (fun m i => mapPut (fun _ => 0) m i (p.getD i 0 % 2 ^ 18)) k.sig.a
            let sc := mapPut (fun _ => 0) (mapPut (fun _ => 0) k.sig.sc 0 (BitVec.ofNat 32 f.unit)) 1
              (BitVec.ofNat 32 (cmdF f.cmd 153 122))
            let lim := (List.range 4).filterMap (fun i => (slots.getD i none).map (fun r => (i, r.1, r.2)))
            let s := putFly s n f
            let k := coreAt s n
            (setCore s n { k with sig := { k.sig with
              a := a, sc := sc, pc := some (cmdF f.cmd 191 178), rep := 0, lim := lim, late := false } }, false)
        | _ => (s, false)

/-- The units of one command run until it waits or ends. -/
def runOne (n uid : Nat) : Nat → State → State
  | 0, s => s
  | k + 1, s =>
    let r := unitStep s n uid
    if r.2 then runOne n uid k r.1 else r.1

/-- Every command in flight on a core run as far as it can, oldest first (R162). -/
def runFly (s : State) (n : Nat) : State :=
  forEach (coreAt s n).fly (fun s f =>
    match flyAt s n f.uid with
    | some g => runOne n f.uid (g.units - g.unit + 1) s
    | none => s) s

/-! ## Completion (R139, R149 to R152, R349) -/

/-- A command has reached completion: its units have ended, no answer is awaited, its entries are freed, its cycles have
passed. -/
def reached (s : State) (n : Nat) (f : Inflight) : Bool :=
  let y := ctxAt s ((coreAt s n).slot f.slot).ctx
  decide (f.units ≤ f.unit) && f.remote == 0 && entriesFreed y f && decide (f.start + f.cost ≤ cycleNow s)

/-- One staged write made visible. -/
def commitWrite (n : Nat) (s : State) (w : Staged) : State :=
  if w.space ≤ 2 then chipWrite s n w.space w.addr w.data w.poison
  else homeWrite s (localOff w.space w.addr) w.data w.poison

/-- The signal of a completed command: none where the counter would pass 65,535 (R152). -/
def signalToken (s : State) (n x : Nat) (c : BitVec 256) : Option State :=
  let k := cmdSigN c
  let i := cmdSigIdx c
  if k = 0 then some s
  else if cmdSigCluster c then
    let v := clTokAt s (n / 8) i + k
    if 65535 < v then none else some (setClTok s (n / 8) i v)
  else
    let y := ctxAt s x
    let v := y.live.token i + k
    if 65535 < v then none else some (setCtx s x { y with live := y.live.setToken i v })

/-- What follows a completed BOUNDARY: the stream goes on at NEXT, or parks there while a reload is armed (R145;
07_hallmark.md R197). -/
def afterBoundary (s : State) (n : Nat) (f : Inflight) : State :=
  if cmdOp f.cmd = Opc.boundary then
    let z := (coreAt s n).slot f.slot
    let y := ctxAt s z.ctx
    let next := cmdF f.cmd 191 180
    let t := y.live.stream f.stream
    let t := if z.armed then { t with parked := some next } else { t with pc := next }
    setCtx s z.ctx { y with live := y.live.setStream f.stream t }
  else s

/-- The replay of a command has completed: its end is recorded, its entry leaves the table (14_journal_recovery.md R345). -/
def endReplay (s : State) (n x : Nat) (f : Inflight) (linked : Bool) : State :=
  match f.replay with
  | none => s
  | some p =>
    let s := journal s (cmdRec 0x03 Code.done n x f linked 0 0)
    match repAt s p with
    | some e =>
      let rest := e.cmds.filter (fun g => g.uid != f.uid)
      if rest.isEmpty then
        let s := setRep s p none
        setCtx s x { ctxAt s x with replays := (ctxAt s x).replays.filter (· ≠ p) }
      else setRep s p (some { e with cmds := rest })
    | none => s

/-- The step of a reduction's tree that a completed command takes: its rank's partials absorb those of the other rank, element by
element; the flags raised (05_arithmetic.md R134). -/
def treeStep (s : State) (r : Config.Red) : State × Nat :=
  let b := outBytes r.fmt
  let x := devRead s r.own (r.count * b)
  let y := devRead s r.other (r.count * b)
  if x.1 ≠ Code.done ∨ y.1 ≠ Code.done then (s, 0)
  else
    let l := (List.range r.count).map (fun k =>
      combinePart r.fmt (leNat ((x.2.1.drop (k * b)).take b)) (leNat ((y.2.1.drop (k * b)).take b)))
    (homeWrite s r.own (l.flatMap (fun p => bytesLe b p.1)) (x.2.2 || y.2.2), l.foldl (fun t p => t ||| p.2) 0)

/-- The outputs of a completed command made visible, and its reduction step: the flags that it raises (R139; 05_arithmetic.md
R134). -/
def commitOut (n x : Nat) (s : State) (f : Inflight) : State × Nat :=
  let y := ctxAt s x
  let s := forEach f.out (commitWrite n) s
  match y.img.reds.getD (y.img.rel f.idx) none with
  | some r => treeStep s r
  | none => (s, 0)

/-- One completed command: outputs visible, flags committed, counts and trace; its signal follows (R139, R131, R171). -/
def commitOne (n x : Nat) (linked : Bool) (s : State) (f : Inflight) : State :=
  let r := commitOut n x (underWins s (ctxAt s x) f) f
  let s := { r.1 with wins := s.wins }
  let y := ctxAt s x
  let s := setCtx s x { y with flags := y.flags ||| f.flags ||| r.2, progress := nowN s }
  let s := afterBoundary s n f
  let s := endReplay s n x f linked
  trace s n f.slot f.stream 1 0 (cmdTag f.cmd) x f.count

/-- The signals of completed commands, in stream order; an overflow faults the context (R152). -/
def signalAll (n x : Nat) : List Inflight → State → State
  | [], s => s
  | f :: t, s =>
    match signalToken s n x f.cmd with
    | some s => signalAll n x t s
    | none => cmdFault s n x { f with replay := none } Code.badArgument 0

/-- The commands of a group complete together (R139, R349). -/
def completeGroup (s : State) (n : Nat) (l : List Inflight) : State :=
  match l with
  | [] => s
  | f :: _ =>
    let x := ((coreAt s n).slot f.slot).ctx
    let linked := decide (1 < l.length)
    let s := forEach l (commitOne n x linked) s
    let k := coreAt s n
    let s := setCore s n { k with fly := k.fly.filter (fun g => !(l.any (fun h => h.uid == g.uid)))
                                  grp := if linked then none else k.grp }
    let s := setHeld s n f.slot 0
    let s := noteArrayIdle (countFill (signalAll n x l s) n (cycleNow s)) n
    settleCtx (runFly s n) x

/-- The oldest command in flight of a stream: the one issued first, a replay counting as its first run. -/
def oldest (s : State) (n st : Nat) : Option Inflight :=
  ((coreAt s n).fly.filter (fun f => f.stream == st)).foldl (fun b f => match b with
    | some g => if f.uid < g.uid then some f else some g
    | none => some f) none

/-- A command of the same stream of its context that was issued before it waits to be replayed (14_journal_recovery.md R347). -/
def behindReplay (s : State) (x : Nat) (f : Inflight) : Bool :=
  (ctxAt s x).replays.any (fun q => match repAt s q with
    | some e => e.cmds.any (fun g => g.stream == f.stream && decide (g.uid < f.uid))
    | none => false)

/-- The completion of the oldest command of a stream, with its group, once every member is the oldest of its stream and has
reached completion (R138, R139, R349). -/
def complete (s : State) (n st : Nat) : State :=
  match oldest s n st with
  | none => s
  | some f =>
    let l := membersOf s n f
    let x := ((coreAt s n).slot f.slot).ctx
    let all := decide (l.length = (peersOf (ctxAt s x).img f.idx).length + 1)
    if all && l.all (fun g => reached s n g && ((oldest s n g.stream).map (·.uid) == some g.uid) && !behindReplay s x g) then
      completeGroup s n l
    else s

end Sys2Proof.Machine
end

