-- ==== Sys2Proof/Machine/Streams.lean ====
section
/-! DEFINITION. The commands of the streams: issue of every engine's commands, completion, data queues, held time, context
switch, dynamic queues and breaks (06_core_streams.md R138 to R172). -/

namespace Sys2Proof.Machine

/-! ## Issue (R138) -/

/-- A waiter before this one on the same cluster counter: lower core index, then stream order (R152). -/
def earlierWaiter (s : State) (n st : Nat) (c : BitVec 256) : Bool :=
  let wants (m u : Nat) : Bool :=
    match (coreAt s m).run with
    | none => false
    | some d =>
      mayRun s m d &&
      (match headOf s m d u with
       | some h =>
         let y := ctxAt s ((coreAt s m).slot d).ctx
         cmdWaitN h.cmd != 0 && cmdWaitCluster h.cmd == cmdWaitCluster c && cmdWaitIdx h.cmd == cmdWaitIdx c &&
         waitMet s m d u h && peersReady s m d h.idx && mayStart s m y h.idx &&
         decide (((coreAt s m).fly.filter (fun f => f.slot == d && f.stream == u)).length < roomOf u)
       | none => false)
  if cmdWaitN c = 0 then false
  else
    ((List.range st).any (wants n)) ||
    (cmdWaitCluster c && (List.range (n % 8)).any (fun i => (List.range 4).any (wants (n / 8 * 8 + i))))

/-- The counter after the wait of an issuing command (R152). -/
def consume (s : State) (n x : Nat) (c : BitVec 256) : State :=
  if cmdWaitN c = 0 ∨ cmdPeek c then s
  else if cmdWaitCluster c then setClTok s (n / 8) (cmdWaitIdx c) (clTokAt s (n / 8) (cmdWaitIdx c) - cmdWaitN c)
  else
    let y := ctxAt s x
    setCtx s x { y with live := y.live.setToken (cmdWaitIdx c) (y.live.token (cmdWaitIdx c) - cmdWaitN c) }

/-- A stalled push of N2 queue mode goes through once its queue has room (R168). -/
def releaseStall (s : State) (n : Nat) : State :=
  let k := coreAt s n
  match k.stall with
  | some (c, st, e) =>
    let z := k.slot c
    let y := ctxAt s z.ctx
    let t := y.live.stream st
    if t.dynq.length < 32 then
      let s := setCore s n { k with stall := none }
      setCtx s z.ctx { y with live := y.live.setStream st { t with dynq := t.dynq ++ [BitVec.ofNat 64 e] } }
    else s
  | none => s

/-- A stream moves past the command it issues (R145, R167, R170). -/
def advanceStream (s : State) (n x st : Nat) (h : Head) : State :=
  let y := ctxAt s x
  let t := y.live.stream st
  let t := { t with count := (t.count + 1) % 2 ^ 48, word := none }
  let t := match h.entry with
    | some _ => { t with dynq := t.dynq.tail, dynHead := t.dynHead + 1, dynLeft := t.dynLeft - 1 }
    | none =>
      { t with pc := h.idx + 1, dynLeft := if cmdOp h.cmd = Opc.dynq then cmdF h.cmd 191 176 else t.dynLeft }
  releaseStall (setCtx s x { y with live := y.live.setStream st t }) n

/-- The record of an issuing command (R345 of 14_journal_recovery.md). -/
def mkFly (s : State) (n c st : Nat) (h : Head) : Inflight :=
  let z := (coreAt s n).slot c
  let y := ctxAt s z.ctx
  let counts := loopCounts h.cmd (fetchLoop s n z (cmdLoop h.cmd)) (headOvr h)
  { slot := c, stream := st, idx := h.idx, cmd := h.cmd, entry := h.entry, counts := counts
    units := if usesPointers h.cmd then unitsOf counts else 0
    start := cycleNow s, cost := 1, issuedAt := nowNs s
    bound := if y.img.cls = 2 then some (bankBound s (activeBank s)) else none
    wins := y.img.wins.map (winAt s y.fn), waitTaken := cmdWaitN h.cmd != 0, count := (y.live.stream st).count
    waitLevel := cmdOp h.cmd == Opc.matrix && decide (level s n < 8)
    snap := if cmdOp h.cmd = Opc.access ∧ (accOf h.cmd).aop = Aop.fence then openDests s n else []
    uid := s.uids }

/-- The command put in flight (R138, R171, R186). -/
def issued (s : State) (n c st : Nat) (h : Head) : State :=
  let k := coreAt s n
  let x := (k.slot c).ctx
  let y := ctxAt s x
  let link := y.img.link h.idx
  let f := mkFly s n c st h
  let f := match k.grp with
    | some (g, t) => if link ≠ 0 ∧ g = link then { f with issuedAt := t } else f
    | none => f
  let s := if groupBegun s n c h.idx then s
    else forEach ((peersOf y.img h.idx).map (fetchCmd s n (k.slot c))) (fun s d => consume s n x d) (consume s n x h.cmd)
  let s := advanceStream s n x st h
  let k := coreAt s n
  let z := k.slot c
  let z := { z with resumed := if z.resumed = some st then none else z.resumed
                    stepOn := if z.stepOn = some st then none else z.stepOn }
  let s := setCore { s with uids := s.uids + 1 } n { k.setSlot c z with
    fly := k.fly ++ [f]
    grp := if link ≠ 0 ∧ k.grp.isNone then some (link, nowNs s) else k.grp }
  let s := trace s n c st 0 0 (cmdTag h.cmd) x f.count
  let s := setHeld (if st = 1 then lanternTurn s n else s) n c 0
  if ((coreAt s n).slot c).halted then
    let k := coreAt s n
    let tag := ((headOf s n c st).map (fun h => cmdTag h.cmd)).getD 0
    setCore s n (k.setSlot c { k.slot c with brk := some (st, s.get CORE_DBG_STATUS.CAUSE n, tag) })
  else s

/-- The command put in flight, and its units run. -/
def launch (s : State) (n c st : Nat) (h : Head) : State := runFly (issued s n c st h) n

/-- A fault at a head that has not issued (R144, R153, R107): it is not in flight, so that no record of it can be replayed
(14_journal_recovery.md R345). -/
def headFault (s : State) (n c st : Nat) (h : Head) (code detail : Nat) : State :=
  let x := ((coreAt s n).slot c).ctx
  let f := { mkFly s n c st h with waitTaken := false }
  let s := trace s n c st 2 code (cmdTag h.cmd) x f.count
  teardown (journal s (cmdRec 0x01 code n x f false 0 detail)) x code (cmdTag h.cmd)

/-- The read of the word of a TENANT WAIT_MEM at a head (07_hallmark.md R189): the state, and the word where it is known at
once; a range or a granule that may not be read faults. -/
def readHeadWord (s : State) (n c st : Nat) (h : Head) : State :=
  let z := (coreAt s n).slot c
  let x := z.ctx
  let y := ctxAt s x
  let f := mkFly s n c st h
  let sp := (accOf h.cmd).sp0
  let p := headP0 s n z h
  let code := rangeCode s (rightsOf y f) none sp p 4 false
  if code ≠ Code.done then headFault s n c st h code p
  else
    let t := y.live.stream st
    if isRemote s sp p ∧ !ordinary s then s
    else if isRemote s sp p then
      let r := readRow s (.poll x st) false p 4
      let got := if r.2.1 = 0 then some (leNat ((List.range 4).map (fun i => (gotByte r.2.2 (p + i)).1))) else none
      setCtx r.1 x { y with live := y.live.setStream st { t with poll := nowNs s, word := got } }
    else
      let l := localBytes s n sp p 4
      if l.any (·.2) then headFault (seePoison s n [(sp, p, 4)]) n c st h Code.uncorrectable p
      else setCtx s x { y with live := y.live.setStream st { t with poll := nowNs s, word := some (leNat (l.map (·.1))) } }

/-- A read of the word is on its way over the fabric. -/
def wordAsked (s : State) (x st : Nat) : Bool := s.fab.pend.any (fun p => p.who == .poll x st)

/-- The head of a stream issues where R138, R153, R170, R186 and the gates allow it; `want` is the row's command. A head that
no row may run faults whatever row names its stream (R144). -/
def issueHead (s : State) (n st : Nat) (want : BitVec 256 → Bool) : State :=
  match (coreAt s n).run with
  | none => s
  | some c =>
    let k := coreAt s n
    let z := k.slot c
    let y := ctxAt s z.ctx
    let free := mayRun s n c || (z.halted && z.stepOn == some st && z.valid && y.state == 3 && y.job && !y.halt)
    match headOf s n c st with
    | none => s
    | some h =>
      let link := y.img.link h.idx
      let begun := groupBegun s n c h.idx
      let room := decide ((k.fly.filter (fun f => f.slot == c && f.stream == st)).length < roomOf st)
      if !(free || begun) || !room || (!begun && (!mayStart s n y h.idx || outranked s n c || k.grp.isSome)) then s
      else if headBad y st h then headFault s n c st h Code.badArgument 0
      else if !want h.cmd then s
      else if !allotted y h.cmd then headFault s n c st h Code.windowViolation 0
      else if !peersReady s n c h.idx || (!begun && (!tokenMet s n y h.cmd || earlierWaiter s n st h.cmd)) then s
      else
        let s := if !begun ∧ tenantWait y h.cmd ∧ headWord s n c st h = none ∧ !wordAsked s z.ctx st then readHeadWord s n c st h
          else s
        let y := ctxAt s z.ctx
        let wordOk := begun || !tenantWait y h.cmd ||
          (match (y.live.stream st).word with | some w => decide ((accOf h.cmd).imm ≤ w) | none => false)
        if y.state ≠ 3 || !wordOk then s
        else
          match (if begun ∨ z.resumed = some st ∨ z.stepOn = some st then none else groupBreak s n c st h) with
          | some b =>
            if y.img.debug then breakAt s n c b.1 b.2.1 b.2.2
            else if cmdOp h.cmd = Opc.matrix ∧ arrState s n ≠ Fn.running then
              headFault (s.set CORE_DBG_STATUS.DENIED 1 n) n c st h Code.stateConflict 0
            else launch (s.set CORE_DBG_STATUS.DENIED 1 n) n c st h
          | none =>
            if cmdOp h.cmd = Opc.matrix ∧ arrState s n ≠ Fn.running then headFault s n c st h Code.stateConflict 0
            else launch s n c st h

/-- The head of a stream issues, the held time being brought up to now before and after (R141); the errors that its reads
find come first (08_memory.md R212). -/
def issueRow (n st : Nat) (want : BitVec 256 → Bool) (errs : MemErrs) (s : State) : State :=
  if n < 128 ∧ st < 4 then accumHeld (issueHead (memErrors (accumHeld s n) n errs) n st want) n else s

/-- A command of an opcode and sub-operation. -/
def isKind (op sub : Nat) (c : BitVec 256) : Bool := cmdKind c == (op, sub)

/-! ## Data queues (R150) -/

/-- A change of a data queue of the running context of a core, followed by the units that it lets run. -/
def onDataq (s : State) (n q : Nat) (f : DataQ → Option DataQ) (held : Bool) : State :=
  let s := accumHeld s n
  match (coreAt s n).run with
  | none => s
  | some c =>
    let x := ((coreAt s n).slot c).ctx
    match f ((ctxAt s x).live.dataq q) with
    | some d =>
      let s := putDataq s x q d
      accumHeld (runFly (if held then setHeld s n c 0 else s) n) n
    | none => s

/-- An entry whose units have ended is pushed (R150). -/
def pushEntry (d : DataQ) : Option DataQ := if d.pushed < d.written then some { d with pushed := d.pushed + 1 } else none

/-- A slot that has been read through is freed (R150). -/
def freeEntry (d : DataQ) : Option DataQ := if d.freed < d.readDone then some { d with freed := d.freed + 1 } else none

/-! ## Held time (R141) -/

/-- The command that a held context is faulted at: that of the first of its streams that is held. -/
def heldCmd (s : State) (n c : Nat) : Nat × BitVec 256 :=
  ((List.range 4).findSome? (fun t =>
    if streamHeld s n c t < 2 then none
    else
      match (if streamHeld s n c t = 3 then (coreAt s n).fly.find? (fun f => f.slot == c && f.stream == t) else none) with
      | some f => some (t, f.cmd)
      | none => (headOf s n c t).map (fun h => (t, h.cmd)))).getD (255, 0)

/-- A context held for 1 ms without progress faults with SYNC_CYCLE (R141). -/
def heldTimeout (s : State) (n : Nat) : State :=
  let s := accumHeld s n
  match (coreAt s n).run with
  | none => s
  | some c =>
    if allHeld s n c ∧ 1000000 ≤ heldTime s n c then
      let h := heldCmd s n c
      ctxFault s n ((coreAt s n).slot c).ctx h.1 Code.syncCycle h.2
    else s

/-! ## Context switch (R142; 09_contexts_tenants.md R228, R231) -/

/-- The running context may be left (R228). -/
def mayLeave (s : State) (n : Nat) : Bool :=
  match (coreAt s n).run with
  | none => true
  | some c =>
    let y := ctxAt s ((coreAt s n).slot c).ctx
    blocked s n c || !gateOpen s n y.img.cls || !y.job || outranked s n c

/-- The pointers of a slot's context saved to its record (R142). -/
def savePointers (s : State) (n c : Nat) : State :=
  let x := ((coreAt s n).slot c).ctx
  let y := ctxAt s x
  let live := (List.range 4).foldl (fun p t => p.setStream t { p.stream t with word := none }) y.live
  setCtx s x { y with live := live, saved := live }

/-- The core switches to the best of its residents (R228, R231). -/
def contextSwitch (s : State) (n : Nat) : State :=
  let s := accumHeld s n
  let k := coreAt s n
  if !k.fly.isEmpty || !mayLeave s n then s
  else
    match bestSlot s n with
    | none => s
    | some c =>
      if k.run = some c then s
      else
        let s := match k.run with
          | some d =>
            let s := savePointers s n d
            trace s n d 0 4 0 0 (k.slot d).ctx 0
          | none => s
        let x := (k.slot c).ctx
        let y := ctxAt s x
        let s := if k.lastFn.isSome ∧ k.lastFn ≠ some y.fn then markUnwritten s n else s
        let k := coreAt s n
        let s := setCore s n { k with run := some c, lastFn := some y.fn, grp := none }
        let s := setHeld s n c ((coreAt s n).slot c).held
        trace s n c 0 3 0 0 x 0

/-! ## Dynamic queues (R167, R168) -/

/-- A write to a push register of the control processor (R168). -/
def dynqPush (s : State) (n c st : Nat) (high : Bool) (v : Word) : State :=
  let k := coreAt s n
  let key := 4 * c + st
  if k.stall.isSome ∨ k.cpHalted then s
  else if !high then setCore s n { k with pushLow := mapPut (fun _ => 0) k.pushLow key v.toNat }
  else
    let z := k.slot c
    if !z.valid then s
    else
      let y := ctxAt s z.ctx
      let t := y.live.stream st
      let e := mapGet (fun _ => 0) k.pushLow key + v.toNat * 2 ^ 32
      if t.dynq.length < 32 then
        setCtx s z.ctx { y with live := y.live.setStream st { t with dynq := t.dynq ++ [BitVec.ofNat 64 e] } }
      else if y.img.pacing = 0 then ctxFault s n z.ctx st Code.queueOverflow 0
      else setCore s n { k with stall := some (c, st, e) }

/-! ## Debug (R170) -/

/-- A debug command on the slot of `CORE_DBG_CTRL`, where it holds a context whose image enables debug; else DENIED. -/
def onDebug (s : State) (n : Nat) (f : State → Nat → State) : State :=
  let c := s.get CORE_DBG_CTRL.SLOT n
  let z := (coreAt s n).slot c
  if z.valid then
    if (ctxAt s z.ctx).img.debug then f s c else s.set CORE_DBG_STATUS.DENIED 1 n
  else s

/-- HALT: a break at the next command boundaries (R170, R172). -/
def dbgHalt (s : State) (n : Nat) : State :=
  onDebug (accumHeld s n) n (fun s c =>
    if ((coreAt s n).slot c).halted then s
    else
      let st := ((List.range 4).find? (fun t => (headOf s n c t).isSome)).getD 0
      settleBreak (breakAt s n c st 0 (((headOf s n c st).map (fun h => cmdTag h.cmd)).getD 0)) n c)

/-- The stream that broke: of a break that waits for commands in flight, or as recorded (R170). -/
def breakStream (s : State) (n c : Nat) : Nat :=
  match ((coreAt s n).slot c).brk with
  | some b => b.1
  | none => s.get CORE_DBG_STATUS.STREAM n

/-- RESUME: all streams issue again, the command held at the break first among its stream's (R170). -/
def dbgResume (s : State) (n : Nat) : State :=
  onDebug s n (fun s c =>
    let k := coreAt s n
    let z := k.slot c
    if z.halted then
      setHeld (setCore s n (k.setSlot c { z with halted := false, stepOn := none, brk := none
                                                 resumed := some (breakStream s n c) })) n c z.held
    else s)

/-- STEP: one command of the breaking stream may issue; the context stays halted (R170). -/
def dbgStep (s : State) (n : Nat) : State :=
  onDebug s n (fun s c =>
    let k := coreAt s n
    let z := k.slot c
    if z.halted then setCore s n (k.setSlot c { z with stepOn := some (breakStream s n c) }) else s)

/-! ## WAIT_MEM (R160; 07_hallmark.md R189) -/

/-- The word of a TENANT WAIT_MEM at a head is due to be read: for the running context again each 250 ns while its stream
counts as held; for another resident, whose streams do not count, by the same period, so that it can leave its block
(R189; log 342). -/
def wordDue (s : State) (n c st : Nat) (h : Head) : Bool :=
  let z := (coreAt s n).slot c
  let y := ctxAt s z.ctx
  let t := y.live.stream st
  tenantWait y h.cmd && !waitMet s n c st h && !wordAsked s z.ctx st &&
  (if (coreAt s n).run = some c then heldCounts s n c && t.word.isSome && decide (t.poll + 250 ≤ nowNs s)
   else mayRun s n c && isRemote s (accOf h.cmd).sp0 (headP0 s n z h) && (t.word.isNone || decide (t.poll + 250 ≤ nowNs s)))

/-- The words that a core's residents wait for are read again once 250 ns have passed. -/
def waitMemPoll (s : State) (n : Nat) : State :=
  let s := forEach (List.range 16) (fun s i =>
    match headOf s n (i / 4) (i % 4) with
    | some h => if wordDue s n (i / 4) (i % 4) h then readHeadWord s n (i / 4) (i % 4) h else s
    | none => s) (accumHeld s n)
  accumHeld (runFly s n) n

/-! ## The tenant bound (03_calendar.md R64) -/

/-- A TENANT command of a stream still runs B nanoseconds after its start: it is aborted, a SIGNAL command in a repeat once
the repeat has ended (R64; R166). -/
def boundExpiry (s : State) (n st : Nat) : State :=
  let s := accumHeld s n
  match (coreAt s n).fly.find? (fun f => f.stream == st &&
      (match f.bound with | some b => decide (f.issuedAt + b ≤ nowNs s) | none => false)) with
  | some f =>
    let k := coreAt s n
    if st = 3 ∧ k.sig.rep ≠ 0 then setCore s n { k with sig := { k.sig with late := true } }
    else accumHeld (cmdFault s n (k.slot f.slot).ctx f Code.guardExceeded 0) n
  | none => s

/-! ## Flags (05_arithmetic.md R132) -/

/-- Flags cleared in the word of the context in a slot. -/
def clearFlags (s : State) (n c : Nat) (v : Word) : State :=
  let z := (coreAt s n).slot c
  if z.valid then
    let y := ctxAt s z.ctx
    setCtx s z.ctx { y with flags := (BitVec.ofNat 32 y.flags &&& ~~~v).toNat }
  else s

/-! ## The commands -/

/-- ARITH_FLAGS_CLEAR (05_arithmetic.md R132). -/
def execArithFlagsClear (n c : Nat) (v : Word) (s : State) : Out := .next (if c < 4 then clearFlags s n c v else s)

/-- LANTERN_LEVEL_STEP, and the passes that waited for level 8 (04_matrix_array.md R102 to R104). -/
def execLanternLevelStep (n : Nat) (s : State) : Out := .next (runFly (lanternStep s n) n)

/-- NOP (R145). -/
def execNop (n stream : Nat) (s : State) : Out := .next (issueRow n stream (isKind Opc.nop 0) [] s)

/-- DYNQ (R145, R167). -/
def execDynq (n stream : Nat) (s : State) : Out := .next (issueRow n stream (isKind Opc.dynq 0) [] s)

/-- BOUNDARY (R145). -/
def execBoundary (n stream : Nat) (s : State) : Out := .next (issueRow n stream (isKind Opc.boundary 0) [] s)

/-- EW_MUL (04_matrix_array.md R94). -/
def execEwMul (n : Nat) (s : State) : Out := .next (issueRow n 1 (isKind 0x10 1) [] s)

/-- EW_FMA (04_matrix_array.md R94). -/
def execEwFma (n : Nat) (s : State) : Out := .next (issueRow n 1 (isKind 0x10 2) [] s)

/-- EW_ADD (04_matrix_array.md R94; 05_arithmetic.md R126). -/
def execEwAdd (n : Nat) (s : State) : Out := .next (issueRow n 1 (isKind 0x10 3) [] s)

/-- VEC_CONVERT (R156 to R158). -/
def execVecConvert (n : Nat) (s : State) : Out := .next (issueRow n 2 (isKind 0x20 0x00) [] s)

/-- VEC_ADD (R156 to R158). -/
def execVecAdd (n : Nat) (s : State) : Out := .next (issueRow n 2 (isKind 0x20 0x01) [] s)

/-- VEC_SUB (R156 to R158). -/
def execVecSub (n : Nat) (s : State) : Out := .next (issueRow n 2 (isKind 0x20 0x02) [] s)

/-- VEC_MUL (R156 to R158). -/
def execVecMul (n : Nat) (s : State) : Out := .next (issueRow n 2 (isKind 0x20 0x03) [] s)

/-- VEC_FMA (R156 to R158). -/
def execVecFma (n : Nat) (s : State) : Out := .next (issueRow n 2 (isKind 0x20 0x04) [] s)

/-- VEC_MAX (R156 to R158). -/
def execVecMax (n : Nat) (s : State) : Out := .next (issueRow n 2 (isKind 0x20 0x05) [] s)

/-- VEC_MIN (R156 to R158). -/
def execVecMin (n : Nat) (s : State) : Out := .next (issueRow n 2 (isKind 0x20 0x06) [] s)

/-- SCALE (R156 to R158). -/
def execScale (n : Nat) (s : State) : Out := .next (issueRow n 2 (isKind 0x20 0x07) [] s)

/-- ADDI (R156 to R158). -/
def execAddi (n : Nat) (s : State) : Out := .next (issueRow n 2 (isKind 0x20 0x08) [] s)

/-- EXP (R156 to R158). -/
def execExp (n : Nat) (s : State) : Out := .next (issueRow n 2 (isKind 0x20 0x10) [] s)

/-- RECIP (R156 to R158). -/
def execRecip (n : Nat) (s : State) : Out := .next (issueRow n 2 (isKind 0x20 0x11) [] s)

/-- RSQRT (R156 to R158). -/
def execRsqrt (n : Nat) (s : State) : Out := .next (issueRow n 2 (isKind 0x20 0x12) [] s)

/-- TANH (R156 to R158). -/
def execTanh (n : Nat) (s : State) : Out := .next (issueRow n 2 (isKind 0x20 0x13) [] s)

/-- GELU (R156 to R158). -/
def execGelu (n : Nat) (s : State) : Out := .next (issueRow n 2 (isKind 0x20 0x14) [] s)

/-- RSUM (R156 to R158). -/
def execRsum (n : Nat) (s : State) : Out := .next (issueRow n 2 (isKind 0x20 0x20) [] s)

/-- RMAX (R156 to R158). -/
def execRmax (n : Nat) (s : State) : Out := .next (issueRow n 2 (isKind 0x20 0x21) [] s)

/-- RSUMSQ (R156 to R158). -/
def execRsumsq (n : Nat) (s : State) : Out := .next (issueRow n 2 (isKind 0x20 0x22) [] s)

/-- ARGMAX (R156 to R158). -/
def execArgmax (n : Nat) (s : State) : Out := .next (issueRow n 2 (isKind 0x20 0x23) [] s)

/-- BFP_EXPAND (R160; 05_arithmetic.md R129, R130). -/
def execBfpExpand (n : Nat) (s : State) : Out := .next (issueRow n 0 (isKind 0x30 1) [] s)

/-- BFP_COMPRESS (R160; 05_arithmetic.md R129, R130). -/
def execBfpCompress (n : Nat) (s : State) : Out := .next (issueRow n 0 (isKind 0x30 2) [] s)

/-- FILL (R160). -/
def execFill (n : Nat) (s : State) : Out := .next (issueRow n 0 (isKind 0x30 3) [] s)

/-- WAIT_MEM (R160; 07_hallmark.md R189). -/
def execWaitMem (n : Nat) (s : State) : Out := .next (issueRow n 0 (isKind 0x30 4) [] s)

/-- FENCE (13_filigree.md R323). -/
def execFence (n : Nat) (s : State) : Out := .next (issueRow n 0 (isKind 0x30 6) [] s)

/-- ATOMIC_ADD32 (13_filigree.md R334 to R337). -/
def execAtomicAdd32 (n : Nat) (s : State) : Out := .next (issueRow n 0 (isKind 0x30 16) [] s)

/-- ATOMIC_ADD64 (13_filigree.md R334 to R337). -/
def execAtomicAdd64 (n : Nat) (s : State) : Out := .next (issueRow n 0 (isKind 0x30 17) [] s)

/-- ATOMIC_AND64 (13_filigree.md R334 to R337). -/
def execAtomicAnd64 (n : Nat) (s : State) : Out := .next (issueRow n 0 (isKind 0x30 18) [] s)

/-- ATOMIC_OR64 (13_filigree.md R334 to R337). -/
def execAtomicOr64 (n : Nat) (s : State) : Out := .next (issueRow n 0 (isKind 0x30 19) [] s)

/-- ATOMIC_XOR64 (13_filigree.md R334 to R337). -/
def execAtomicXor64 (n : Nat) (s : State) : Out := .next (issueRow n 0 (isKind 0x30 20) [] s)

/-- ATOMIC_MAXU64 (13_filigree.md R334 to R337). -/
def execAtomicMaxu64 (n : Nat) (s : State) : Out := .next (issueRow n 0 (isKind 0x30 21) [] s)

/-- ATOMIC_MINU64 (13_filigree.md R334 to R337). -/
def execAtomicMinu64 (n : Nat) (s : State) : Out := .next (issueRow n 0 (isKind 0x30 22) [] s)

/-- ATOMIC_SWAP64 (13_filigree.md R334 to R337). -/
def execAtomicSwap64 (n : Nat) (s : State) : Out := .next (issueRow n 0 (isKind 0x30 23) [] s)

/-- ATOMIC_CAS64 (13_filigree.md R334 to R337). -/
def execAtomicCas64 (n : Nat) (s : State) : Out := .next (issueRow n 0 (isKind 0x30 24) [] s)

/-- SIGNAL (R163). -/
def execSignal (n : Nat) (s : State) : Out := .next (issueRow n 3 (isKind Opc.signal 0) [] s)

/-- WAIT_MEM_POLL (R160; 07_hallmark.md R189). -/
def execWaitMemPoll (n : Nat) (s : State) : Out := .next (waitMemPoll s n)

/-- COMMAND_COMPLETE (R139, R151, R152; 14_journal_recovery.md R349). -/
def execCommandComplete (n stream : Nat) (s : State) : Out := .next (accumHeld (complete (accumHeld s n) n stream) n)

/-- DATAQ_PUSH (R150). -/
def execDataqPush (n q : Nat) (s : State) : Out := .next (onDataq s n q pushEntry false)

/-- DATAQ_FREE (R150). -/
def execDataqFree (n q : Nat) (s : State) : Out := .next (onDataq s n q freeEntry true)

/-- HELD_TIMEOUT (R141). -/
def execHeldTimeout (n : Nat) (s : State) : Out := .next (heldTimeout s n)

/-- CONTEXT_SWITCH (R142; 09_contexts_tenants.md R228, R231). -/
def execContextSwitch (n : Nat) (s : State) : Out := .next (contextSwitch s n)

/-- TENANT_BOUND_EXPIRY (03_calendar.md R64). -/
def execTenantBoundExpiry (n stream : Nat) (s : State) : Out := .next (boundExpiry s n stream)

/-- DYNQ_PUSH (R168). -/
def execDynqPush (n c stream : Nat) (high : Bool) (v : Word) (s : State) : Out :=
  .next (if c < 4 ∧ stream < 4 then dynqPush s n c stream high v else s)

/-- DBG_HALT (R170). -/
def execDbgHalt (n : Nat) (s : State) : Out := .next (dbgHalt s n)

/-- DBG_RESUME (R170). -/
def execDbgResume (n : Nat) (s : State) : Out := .next (dbgResume s n)

/-- DBG_STEP (R170). -/
def execDbgStep (n : Nat) (s : State) : Out := .next (dbgStep s n)

end Sys2Proof.Machine
end

