-- ==== Sys2Proof/Machine/Kernel.lean ====
section
/-! DEFINITION. The signal engine's instructions (06_core_streams.md R163 to R166). -/

namespace Sys2Proof.Machine

/-- Bits of an instruction. -/
def sigF (i : BitVec 64) (hi lo : Nat) : Nat := i.toNat / 2 ^ lo % 2 ^ (hi - lo + 1)

def sigOp (i : BitVec 64) : Nat := sigF i 63 58
def sigSat (i : BitVec 64) : Bool := sigF i 57 57 == 1
def sigVd (i : BitVec 64) : Nat := sigF i 56 53
def sigVa (i : BitVec 64) : Nat := sigF i 52 49
def sigVb (i : BitVec 64) : Nat := sigF i 48 45
def sigShift (i : BitVec 64) : Nat := sigF i 20 16
def sigImm (i : BitVec 64) : Nat := sigF i 15 0

/-- The listed OP values (R164). -/
def sigListed (o : Nat) : Bool := decide (o ≤ 0x0B) || (decide (0x10 ≤ o) && decide (o ≤ 0x12))

/-- An instruction reads operand A; operand B; or writes memory at a[AR1]. -/
def sigReadsA (o : Nat) : Bool := decide (2 ≤ o) && decide (o ≤ 0x0B) && o != 9
def sigReadsB (o : Nat) : Bool := (decide (4 ≤ o) && decide (o ≤ 8)) || o == 0x0B

/-! ## Lanes (R165) -/

/-- A right shift, to nearest with ties away from zero. -/
def shiftAway (x : Int) (k : Nat) : Int :=
  if k = 0 then x
  else if 0 ≤ x then (x + 2 ^ (k - 1)) / 2 ^ k else -((-x + 2 ^ (k - 1)) / 2 ^ k)

/-- A number brought into w bits: to the bound of its sign, or wrapped (R165). -/
def fitTo (sat : Bool) (w : Nat) (x : Int) : Int :=
  if sat then max (-(2 ^ (w - 1))) (min (2 ^ (w - 1) - 1) x) else toS w (x % 2 ^ w).toNat

/-- Lane i of a vector, signed 16 bits. -/
def laneOf (v : BitVec 512) (i : Nat) : Int := toS 16 (v.toNat / 2 ^ (16 * i))

/-- A vector of 32 lanes. -/
def ofLanes (l : List Int) : BitVec 512 := BitVec.ofNat 512 ((l.map (fun x => (x % 2 ^ 16).toNat)).foldr (fun x a => x + a * 65536) 0)

/-- The complex product of value i of two vectors; `conj` negates the second's imaginary part. -/
def cmulAt (conj : Bool) (a b : BitVec 512) (i : Nat) : Int × Int :=
  let ar := laneOf a (2 * i)
  let ai := laneOf a (2 * i + 1)
  let br := laneOf b (2 * i)
  let bi := if conj then -(laneOf b (2 * i + 1)) else laneOf b (2 * i + 1)
  (ar * br - ai * bi, ar * bi + ai * br)

/-- Parts of 16 complex values shifted and fitted to lanes. -/
def packCplx (sat : Bool) (sh : Nat) (f : Nat → Int × Int) : BitVec 512 :=
  ofLanes ((List.range 16).flatMap (fun i =>
    [fitTo sat 16 (shiftAway (f i).1 sh), fitTo sat 16 (shiftAway (f i).2 sh)]))

/-- The vector that an instruction writes to VD, from its operands; none where it writes none (R164). -/
def sigResult (i : BitVec 64) (a b : BitVec 512) : Option (BitVec 512) :=
  let sat := sigSat i
  let sh := sigShift i
  let lanes (f : Int → Int → Int) : BitVec 512 :=
    ofLanes ((List.range 32).map (fun k => fitTo sat 16 (shiftAway (f (laneOf a k) (laneOf b k)) sh)))
  match sigOp i with
  | 0x02 => some a
  | 0x04 => some (lanes (· + ·))
  | 0x05 => some (lanes (· - ·))
  | 0x06 => some (packCplx sat sh (cmulAt false a b))
  | 0x07 => some (packCplx sat sh (cmulAt true a b))
  | 0x0A => some (BitVec.ofNat 512 (((List.range 16).map (fun k =>
      let re := laneOf a (2 * k)
      let im := laneOf a (2 * k + 1)
      ((fitTo sat 32 (shiftAway (re * re + im * im) sh)) % 2 ^ 32).toNat)).foldr (fun x r => x + r * 2 ^ 32) 0))
  | 0x0B => some (ofLanes ((List.range 32).map (fun k => max (laneOf a k) (laneOf b k))))
  | _ => none

/-! ## Registers -/

def SigEng.vec (e : SigEng) (i : Nat) : BitVec 512 := mapGet (fun _ => 0) e.v i
def SigEng.setVec (e : SigEng) (i : Nat) (x : BitVec 512) : SigEng := { e with v := mapPut (fun _ => 0) e.v i x }
def SigEng.adr (e : SigEng) (i : Nat) : Nat := mapGet (fun _ => 0) e.a i
def SigEng.setAdr (e : SigEng) (i x : Nat) : SigEng := { e with a := mapPut (fun _ => 0) e.a i (x % 2 ^ 18) }
def SigEng.sca (e : SigEng) (i : Nat) : BitVec 32 := mapGet (fun _ => 0) e.sc i
def SigEng.setSca (e : SigEng) (i : Nat) (x : BitVec 32) : SigEng := { e with sc := mapPut (fun _ => 0) e.sc i x }
def SigEng.cbuf (e : SigEng) (i : Nat) : Nat × Nat := mapGet (fun _ => (0, 0)) e.cb i
def SigEng.accPart (e : SigEng) (r k p : Nat) : Int := mapGet (fun _ => 0) e.acc (32 * r + 2 * k + p)
def SigEng.setAcc (e : SigEng) (r k p : Nat) (x : Int) : SigEng :=
  { e with acc := mapPut (fun _ => 0) e.acc (32 * r + 2 * k + p) x }

/-- An address after its post-increment; `free` where the circular buffer is empty, so that the result is not stated
(R165; log 34). -/
def stepAddr (e : SigEng) (ar inc : Nat) (cbEn : Bool) (cb free : Nat) : Nat :=
  let a := e.adr ar
  let d := toS 4 inc * 64
  if cbEn then
    let b := (e.cbuf cb).1 * 64
    let len := (e.cbuf cb).2 * 64
    if len = 0 then free % 2 ^ 18 else (((b : Int) + ((a : Int) - b + d) % len) % 2 ^ 18).toNat
  else (((a : Int) + d) % 2 ^ 18).toNat

/-! ## The signal memory as the kernel sees it -/

/-- The signal engine of core n. -/
def sigAt (s : State) (n : Nat) : SigEng := (coreAt s n).sig
def setSig (s : State) (n : Nat) (e : SigEng) : State := setCore s n { coreAt s n with sig := e }

/-- The SIGNAL command in flight on a core. -/
def sigFly (s : State) (n : Nat) : Option Inflight := (coreAt s n).fly.find? (fun f => f.stream == 3)

/-- The stores of the running kernel, which its completion makes visible (R139, R140). -/
def sigOut (s : State) (n : Nat) : List Staged := ((sigFly s n).map (·.out)).getD []

/-- A staged write covers a byte. -/
def Staged.covers (w : Staged) (a : Nat) : Bool := decide (w.addr ≤ a) && decide (a < w.addr + w.data.length)

/-- A byte of the signal memory as the kernel reads it: its own stores lie over the memory. -/
def sigByte (s : State) (n : Nat) (out : List Staged) (a : Nat) : Byte :=
  match out.reverse.find? (·.covers a) with
  | some w => w.data.getD (a - w.addr) 0
  | none => rdM s.mems.sig (n * sigMemBytes + a)

/-- The line at an address. -/
def sigLine (s : State) (n a : Nat) : BitVec 512 :=
  let out := sigOut s n
  BitVec.ofNat 512 (leNat ((List.range 64).map (fun i => sigByte s n out (a + i))))

/-- A granule of the line is poisoned, and the kernel's stores do not cover the whole of it (08_memory.md R213, R214). -/
def sigBad (s : State) (n a : Nat) : Bool :=
  let out := sigOut s n
  (granules a 64).any (fun g => mapGet clean0 s.mems.pSig (n * sigMemBytes / 64 + g) &&
    !((List.range 64).all (fun i => out.any (·.covers (64 * g + i)))))

/-- A line lies in the memory, and in the queue slot whose address the register was loaded with (R148). -/
def lineOk (e : SigEng) (ar : Nat) : Bool :=
  chipOk 1 ((e.lim.find? (fun l => l.1 == ar)).map (·.2)) (e.adr ar, 64)

/-- A store of the kernel: into the slot of a queue that P2 fills at once, else when the command completes (R139, R150). -/
def sigStore (s : State) (n a : Nat) (v : BitVec 512) : State :=
  let d := bytesLe 64 v.toNat
  match sigFly s n with
  | none => s
  | some f =>
    if (sigAt s n).lim.any (fun l => l.1 == 2 && decide (l.2.1 ≤ a) && decide (a + 64 ≤ l.2.1 + l.2.2)) then
      chipWrite (putFly s n { f with out := f.out.filter (fun w => w.addr != a) }) n 1 a d false
    else putFly s n { f with out := f.out ++ [{ space := 1, addr := a, data := d, poison := false }] }

/-! ## One instruction -/

/-- An operand, from memory where M is 1, else from its register; or the code with which its read faults (R148, R214). -/
def sigOperand (s : State) (n : Nat) (used mem : Bool) (ar v : Nat) : Except Nat (BitVec 512) :=
  let e := sigAt s n
  if !used then .ok 0
  else if !mem then .ok (e.vec v)
  else if !lineOk e ar then .error Code.badArgument
  else if sigBad s n (e.adr ar) then .error Code.uncorrectable
  else .ok (sigLine s n (e.adr ar))

/-- The accumulator after CMAC (R164, R165). -/
def sigMac (e : SigEng) (i : BitVec 64) (a b : BitVec 512) : SigEng :=
  let r := sigVd i % 4
  (List.range 16).foldl (fun e k =>
    let p := cmulAt false a b k
    (e.setAcc r k 0 (fitTo (sigSat i) 40 (e.accPart r k 0 + p.1))).setAcc r k 1
      (fitTo (sigSat i) 40 (e.accPart r k 1 + p.2))) e

/-- The accumulator read out and cleared by ACCRD (R164, R165). -/
def sigAccrd (e : SigEng) (i : BitVec 64) : SigEng :=
  let q := sigVa i % 4
  let v := packCplx (sigSat i) (sigShift i) (fun k => (e.accPart q k 0, e.accPart q k 1))
  (List.range 16).foldl (fun e k => (e.setAcc q k 0 0).setAcc q k 1 0) (e.setVec (sigVd i) v)

/-- The registers after a data instruction (R164). -/
def sigEffect (e : SigEng) (i : BitVec 64) (a b : BitVec 512) : SigEng :=
  if sigOp i = 8 then sigMac e i a b
  else if sigOp i = 9 then sigAccrd e i
  else
    match sigResult i a b with
    | some v => e.setVec (sigVd i) v
    | none => e

/-- The post-increments of one iteration (R164, R165). -/
def sigSteps (s : State) (n : Nat) (i : BitVec 64) (m0 m1 : Bool) : State :=
  let ar0 := sigF i 44 42
  let ar1 := sigF i 40 38
  let fr := takeFree s
  let fr2 := takeFree fr.2
  let e := sigAt s n
  let e := if m0 then e.setAdr ar0 (stepAddr e ar0 (sigF i 36 33) (sigF i 28 28 == 1) (sigF i 27 25) (Config.freeValue fr.1)) else e
  let e := if m1 then e.setAdr ar1 (stepAddr e ar1 (sigF i 32 29) (sigF i 24 24 == 1) (sigF i 23 21) (Config.freeValue fr2.1)) else e
  setSig fr2.2 n e

/-- One iteration of a data instruction (LD to MAX): operands, result, memory write, post-increments; the fault that it
meets, code and address (R164 to R166). -/
def sigIter (s : State) (n : Nat) (i : BitVec 64) : State × Option (Nat × Nat) :=
  let o := sigOp i
  let e := sigAt s n
  let ar0 := sigF i 44 42
  let m0 := sigF i 41 41 == 1 && sigReadsA o
  let ar1 := sigF i 40 38
  let m1 := sigF i 37 37 == 1 && (sigReadsB o || o == 3)
  let r : State × Option (Nat × Nat) :=
    match sigOperand s n (sigReadsA o) m0 ar0 (sigVa i), sigOperand s n (sigReadsB o) m1 ar1 (sigVb i) with
    | .ok a, .ok b =>
      if o = 3 then (if lineOk e ar1 then (sigStore s n (e.adr ar1) a, none) else (s, some (Code.badArgument, e.adr ar1)))
      else (setSig s n (sigEffect e i a b), none)
    | .error c, _ => (if c = Code.uncorrectable then seePoison s n [(1, e.adr ar0, 64)] else s, some (c, e.adr ar0))
    | _, .error c => (if c = Code.uncorrectable then seePoison s n [(1, e.adr ar1, 64)] else s, some (c, e.adr ar1))
  (sigSteps r.1 n i m0 m1, r.2)

/-- The iterations of one instruction: none is left out, and the first fault counts when they have ended (R166). -/
def sigIters (n : Nat) (i : BitVec 64) : Nat → State → State × Option (Nat × Nat)
  | 0, s => (s, none)
  | k + 1, s =>
    let r := sigIter s n i
    let t := sigIters n i k r.1
    (t.1, r.2.orElse (fun _ => t.2))

/-- Cycles of the running SIGNAL command raised. -/
def sigCost (s : State) (n k : Nat) : State :=
  match sigFly s n with
  | some f => putFly s n { f with cost := f.cost + k }
  | none => s

/-- A fault of the running kernel (R164). -/
def sigFault (s : State) (n code at_ : Nat) : State :=
  match sigFly s n with
  | some f => cmdFault s n ((coreAt s n).slot f.slot).ctx f code at_
  | none => s

/-- The next instruction moved to; an abort that waited for the end of a repeat takes effect (R166). -/
def sigGo (s : State) (n pc : Nat) : State :=
  if (sigAt s n).late then sigFault s n Code.guardExceeded 0
  else setSig s n { sigAt s n with pc := some pc, rep := 0 }

/-- The instruction at the kernel's place run, where it is one of `op`; a reserved one, or a place outside the signal
section, faults whatever row names it (R164). -/
def sigRow (op n : Nat) (body : BitVec 64 → Nat → State → State) (s : State) : State :=
  let s := accumHeld s n
  match (sigAt s n).pc, sigFly s n with
  | some pc, some f =>
    let z := (coreAt s n).slot f.slot
    let img := (ctxAt s z.ctx).img
    let i := fetchKern s n z img pc
    if img.kern ≤ pc ∨ !sigListed (sigOp i) then sigFault s n Code.badArgument pc
    else if sigOp i = op then accumHeld (body i pc s) n
    else s
  | _, _ => s

/-- A data instruction, as often as the REP before it says (R166). -/
def sigData (n : Nat) (i : BitVec 64) (pc : Nat) (s : State) : State :=
  let k := max 1 (sigAt s n).rep
  let r := sigIters n i k s
  match r.2 with
  | none => sigGo (sigCost r.1 n k) n (pc + 1)
  | some f => sigFault r.1 n f.1 f.2

/-- REP: the next instruction will run IMM16 + 1 times; REP, END or BNZ there faults (R166). -/
def sigRepeat (n : Nat) (i : BitVec 64) (pc : Nat) (s : State) : State :=
  match sigFly s n with
  | some f =>
    let z := (coreAt s n).slot f.slot
    let j := fetchKern s n z (ctxAt s z.ctx).img (pc + 1)
    if [0, 1, 0x12].elem (sigOp j) then sigFault s n Code.badArgument pc
    else setSig (sigCost s n 1) n { sigAt s n with pc := some (pc + 1), rep := sigImm i + 1 }
  | none => s

/-- END: the unit ends, and the next begins where its entries are there (R163). -/
def sigEndUnit (n : Nat) (s : State) : State :=
  match sigFly s n with
  | some f =>
    let s := setSig (sigCost s n 1) n { sigAt s n with pc := none, rep := 0 }
    match flyAt s n f.uid with
    | some f => runFly (unitEnd s n ((coreAt s n).slot f.slot).ctx f [] 0) n
    | none => s
  | none => s

/-- SETA (R164). -/
def sigSeta (n : Nat) (i : BitVec 64) (pc : Nat) (s : State) : State :=
  let e := sigAt s n
  let k := max 1 e.rep
  let r := sigVd i % 8
  let e := { e.setAdr r (sigImm i * 4 + (e.sca (sigVa i % 8)).toNat) with lim := e.lim.filter (fun l => l.1 != r) }
  sigGo (sigCost (setSig s n e) n k) n (pc + 1)

/-- SETCB (R164). -/
def sigSetcb (n : Nat) (i : BitVec 64) (pc : Nat) (s : State) : State :=
  let e := sigAt s n
  let k := max 1 e.rep
  let cb := mapPut (fun _ => (0, 0)) e.cb (sigVd i % 8) (sigImm i, (e.sca (sigVa i % 8)).toNat)
  sigGo (sigCost (setSig s n { e with cb := cb }) n k) n (pc + 1)

/-- BNZ: a jump outside the kernel faults (R164); the spec gives a kernel no end, so that the whole signal section bounds it
(DESIGN CHOICE, log 343). -/
def sigBnz (n : Nat) (i : BitVec 64) (pc : Nat) (s : State) : State :=
  let e := sigAt s n
  let r := sigVd i % 8
  let v := e.sca r - 1
  let s := sigCost (setSig s n (e.setSca r v)) n 1
  let kern := match sigFly s n with
    | some f => (ctxAt s ((coreAt s n).slot f.slot).ctx).img.kern
    | none => 0
  if v = 0 then sigGo s n (pc + 1)
  else if sigImm i < kern then sigGo s n (sigImm i)
  else sigFault s n Code.badArgument (sigImm i)

/-! ## The commands -/

/-- SIG_END (R164). -/
def execSigEnd (n : Nat) (s : State) : Out := .next (sigRow 0x00 n (fun _ _ s => sigEndUnit n s) s)

/-- REP (R164, R166). -/
def execRep (n : Nat) (s : State) : Out := .next (sigRow 0x01 n (sigRepeat n) s)

/-- SIG_LD (R164). -/
def execSigLd (n : Nat) (s : State) : Out := .next (sigRow 0x02 n (sigData n) s)

/-- SIG_ST (R164). -/
def execSigSt (n : Nat) (s : State) : Out := .next (sigRow 0x03 n (sigData n) s)

/-- SIG_ADD (R164). -/
def execSigAdd (n : Nat) (s : State) : Out := .next (sigRow 0x04 n (sigData n) s)

/-- SIG_SUB (R164). -/
def execSigSub (n : Nat) (s : State) : Out := .next (sigRow 0x05 n (sigData n) s)

/-- CMUL (R164). -/
def execCmul (n : Nat) (s : State) : Out := .next (sigRow 0x06 n (sigData n) s)

/-- CMULC (R164). -/
def execCmulc (n : Nat) (s : State) : Out := .next (sigRow 0x07 n (sigData n) s)

/-- CMAC (R164). -/
def execCmac (n : Nat) (s : State) : Out := .next (sigRow 0x08 n (sigData n) s)

/-- ACCRD (R164). -/
def execAccrd (n : Nat) (s : State) : Out := .next (sigRow 0x09 n (sigData n) s)

/-- MAG2 (R164). -/
def execMag2 (n : Nat) (s : State) : Out := .next (sigRow 0x0A n (sigData n) s)

/-- SIG_MAX (R164). -/
def execSigMax (n : Nat) (s : State) : Out := .next (sigRow 0x0B n (sigData n) s)

/-- SETA (R164). -/
def execSeta (n : Nat) (s : State) : Out := .next (sigRow 0x10 n (sigSeta n) s)

/-- SETCB (R164). -/
def execSetcb (n : Nat) (s : State) : Out := .next (sigRow 0x11 n (sigSetcb n) s)

/-- BNZ (R164). -/
def execBnz (n : Nat) (s : State) : Out := .next (sigRow 0x12 n (sigBnz n) s)

end Sys2Proof.Machine
end

