-- ==== Sys2Proof/Machine/Mailbox.lean ====
section
/-! DEFINITION. The management mailbox: claim, acceptance and end of an operation (18_registers_mailbox.md R419 to R424). -/

namespace Sys2Proof.Machine

/-- A requester as `MBX_CLAIM.OWNER` names it (R425). -/
def ownerCode : Requester → Nat
  | .host => 1
  | .mp i => 2 + i % 4
  | .smbus => 6

/-- TAKE written by a requester: granted while no one holds the claim (R419). -/
def mbxTake (s : State) (rq : Requester) : State :=
  if s.bit MBX_CLAIM.HELD then s
  else rewritten (((s.set MBX_CLAIM.HELD 1).set MBX_CLAIM.OWNER (ownerCode rq)).set MBX_CLAIM.TAKE 1) MBX_CLAIM.TAKE.addr

/-- A requester's claim released (R419). -/
def mbxRelease (s : State) (rq : Requester) : State :=
  if s.bit MBX_CLAIM.HELD ∧ s.get MBX_CLAIM.OWNER = ownerCode rq then
    rewritten (((s.set MBX_CLAIM.HELD 0).set MBX_CLAIM.OWNER 0).set MBX_CLAIM.TAKE 0) MBX_CLAIM.TAKE.addr
  else s

/-- The opcodes that SMBus may issue (R421). -/
def smbusMay (op : Nat) : Bool := [0x15, 0x11, 0x13, 0x10].elem op

/-- The opcodes of R423. -/
def mbxListed (op : Nat) : Bool :=
  [0x02, 0x10, 0x11, 0x12, 0x13, 0x14, 0x15, 0x20, 0x21, 0x22, 0x23, 0x24, 0x25, 0x26, 0x30, 0x31, 0x40].elem op

/-- An argument register has a parity mismatch (R421). -/
def argUpset (s : State) : Bool := (List.range 8).any (fun i => s.upset.elem (MBX_ARG.addr i))

/-- An opcode accepted: its arguments taken, BUSY set, progress and results cleared, the sequence raised (R420). -/
def mbxTaken (s : State) (rq : Requester) (op : Nat) : State :=
  let s := { s with mbx := { op := some op, args := (List.range 8).map (fun i => s.get MBX_ARG i)
                             byHost := decide (rq = Requester.host) }
                    smbOp := decide (rq = Requester.smbus) }
  let s := ((s.set MBX_STATUS.BUSY 1).set MBX_STATUS.RESULT Code.busy).set MBX_PROGRESS 0
  (forEach (List.range 4) (fun s i => s.set MBX_RES 0 i) s).bump MBX_SEQ

/-- A write of an opcode to `MBX_CMD`: ignored and counted, or accepted and checked in the order of R421; a command that
passes does `body` (R420, R421). -/
def mbxCommand (s : State) (rq : Requester) (op : Nat) (check : State → Nat) (body : State → State) : State :=
  if s.bit MBX_STATUS.BUSY ∨ !s.bit MBX_CLAIM.HELD ∨ s.get MBX_CLAIM.OWNER ≠ ownerCode rq then s.bumpSat MBX_REJECT_COUNT
  else
    let s := mbxTaken s rq op
    let code :=
      if !mbxListed op then Code.badArgument
      else if rq = Requester.smbus ∧ !smbusMay op then Code.denied
      else if argUpset s then Code.configParity
      else check s
    if code = Code.done then body s else mbxEnd s code

/-- Arguments use no bits outside their fields: the masks of arguments 0 to 7 (R424). -/
def argsFit (s : State) (masks : List Nat) : Bool :=
  (List.range 8).all (fun i => (mbxArg s i &&& masks.getD i 0) == mbxArg s i)

/-- The first refusal of a list of checks; DONE where none refuses. -/
def firstCode : List (Bool × Nat) → Nat
  | [] => Code.done
  | (bad, c) :: t => if bad then c else firstCode t

/-- A core is ABSENT, or its index above the range (R424). -/
def coreAbsent (s : State) (n : Nat) : Bool := decide (128 ≤ n) || arrState s n == Fn.absent

/-- Virtual function t is not enabled (R424). -/
def vfOff (s : State) (t : Nat) : Bool := decide (s.get HOST_NUM_VF ≤ t)

/-- The results published, BUSY cleared, and the requester told (R422). -/
def mbxPublish (s : State) : State :=
  match s.mbx.op, s.mbx.code with
  | some op, some c =>
    let s := forEach (List.range 4) (fun s i => s.set MBX_RES (s.mbx.res.getD i 0) i) s
    let s := (((s.set MBX_STATUS.RESULT c).set MBX_STATUS.LAST_OP op).set MBX_STATUS.BUSY 0).set MBX_STATUS.DONE_EVT 1
    let s := if s.mbx.byHost then raiseMsix s 256 4 else emit s (.mpIrq 0)
    { s with mbx := {} }
  | _, _ => s

/-- SMB_ALERT_L is low (19_package_electrical.md R436). -/
def smbAlert (s : State) : Bool := s.smbOp && s.bit MBX_STATUS.DONE_EVT

/-- MBX_TAKE (R419). -/
def execMbxTake (rq : Requester) (s : State) : Out := .next (mbxTake s rq)

/-- MBX_RELEASE (R419). -/
def execMbxRelease (rq : Requester) (s : State) : Out := .next (mbxRelease s rq)

/-- MAILBOX_OPERATION_END (R422). -/
def execMailboxOperationEnd (s : State) : Out := .next (mbxPublish s)

end Sys2Proof.Machine
end

