-- ==== Sys2Proof/Machine/Loader.lean ====
section
/-! DEFINITION. The Hallmark loader: parsing an Ohmath image, lowering it, the checks of R181 and the tenant bound
(07_hallmark.md R174 to R192, R200). -/

namespace Sys2Proof.Machine

/-- A number of n bytes at an offset of a byte string. -/
def le (b : Bytes) (o n : Nat) : Nat := leNat ((b.drop o).take n)

/-- A rejection: the fields of a result record (R180, R181). -/
structure Rej where
  code : Nat
  reason : Nat
  stream : Nat := 0xFF
  op : Nat := 0xFFFFFFFF
  tag : Nat := 0
deriving DecidableEq, Repr

/-! ## The image (R177, R178) -/

/-- An abstract operation record (R178). -/
structure OpRec where
  kind : Nat
  link : Nat
  tag : Nat
  sync : Nat
  m : Nat
  n : Nat
  k : Nat
  loop : Nat
  params : Nat
  rest : Nat
deriving DecidableEq, Repr

def opRec (b : Bytes) : OpRec :=
  { kind := le b 0 1, link := le b 1 1, tag := le b 2 2, sync := le b 4 4, m := le b 8 4, n := le b 0xC 4, k := le b 0x10 4
    loop := le b 0x14 4, params := le b 0x18 24, rest := le b 0x30 16 }

/-- The section table: type, flags, offset, size, reserved. -/
def secTable (b : Bytes) : List (Nat × Nat × Nat × Nat × Nat) :=
  (List.range (min 16 (le b 0x10 2))).map (fun i =>
    let o := 0x40 + 16 * i
    (le b o 2, le b (o + 2) 2, le b (o + 4) 4, le b (o + 8) 4, le b (o + 12) 4))

/-- The bytes of a section; none where the image has none of the type. -/
def sec? (b : Bytes) (t : Nat) : Option Bytes :=
  ((secTable b).find? (fun e => e.1 == t)).map (fun e => (b.drop e.2.2.1).take e.2.2.2.1)

def sec (b : Bytes) (t : Nat) : Bytes := (sec? b t).getD []

/-- A byte string cut into records. -/
def records (size : Nat) : Nat → Bytes → List Bytes
  | 0, _ => []
  | k + 1, b => b.take size :: records size k (b.drop size)

def recordsOf (size : Nat) (b : Bytes) : List Bytes := records size (b.length / size) b

/-- Two sections of the table share a byte. -/
def secOverlap (x y : Nat × Nat × Nat × Nat × Nat) : Bool :=
  decide (0 < x.2.2.2.1) && decide (0 < y.2.2.2.1) &&
  decide (x.2.2.1 < y.2.2.1 + y.2.2.2.1) && decide (y.2.2.1 < x.2.2.1 + x.2.2.2.1)

/-- The layout rules of R177 and R178 hold. -/
def formatOk (b : Bytes) : Bool :=
  let n := le b 0x08 4
  let k := le b 0x10 2
  let t := secTable b
  decide (64 ≤ b.length) && decide (le b 0 4 = 0x334D484F) && decide (64 ≤ n) && decide (n ≤ 0x4000000) &&
  decide (n ≤ b.length) && decide (1 ≤ k) && decide (k ≤ 16) && decide (0x40 + 16 * k ≤ n) &&
  t.all (fun e => decide (1 ≤ e.1) && decide (e.1 ≤ 9) && decide (0x40 + 16 * k ≤ e.2.2.1) &&
    decide (e.2.2.1 + e.2.2.2.1 ≤ n)) &&
  decide ((t.map (·.1)).Nodup) && t.any (fun e => e.1 == 1) &&
  (List.range t.length).all (fun i => (List.range i).all (fun j =>
    !secOverlap (t.getD i (0, 0, 0, 0, 0)) (t.getD j (0, 0, 0, 0, 0)))) &&
  t.all (fun e =>
    let z := e.2.2.2.1
    match e.1 with
    | 1 => z % 64 == 0
    | 2 => z % 256 == 0
    | 3 => z % 8 == 0
    | 4 => z == 32
    | 9 => z == 96 && e.2.2.1 + z == n && t.all (fun d => d.1 == 9 || decide (d.2.2.1 + d.2.2.2.1 ≤ e.2.2.1))
    | _ => true)

/-! ## Fields (R111, R144, R155, R164, R166) -/

/-- Reserved bits of the header, the table, the loop records and the queue table are 0. -/
def reservedOk (b : Bytes) : Bool :=
  decide (le b 6 2 < 16) && le b 0x12 2 == 0 && le b 0x24 28 == 0 &&
  (secTable b).all (fun e => e.2.1 == 0 && e.2.2.2.2 == 0) &&
  (recordsOf 256 (sec b 2)).all (fun r =>
    (List.range 6).all (fun l => decide (le r (0x20 + 4 * l) 4 < 2 ^ 20)) && le r 0x38 8 == 0) &&
  (recordsOf 8 (sec b 4)).all (fun r => le r 0 8 / 2 ^ 16 % 2 ^ 26 == 0)

/-- The signal section holds listed operations, and no REP before REP, END or BNZ (R164, R166). -/
def kernelsOk (b : Bytes) : Bool :=
  let ops := (recordsOf 8 (sec b 3)).map (fun r => le r 7 1 / 4)
  ops.all sigListed && (ops.zip (ops.drop 1)).all (fun p => !(p.1 == 1 && [0, 1, 0x12].elem p.2))

/-- A command to be: its operation, stream, link group, word, and the reduction step that its completion takes. -/
structure LCmd where
  op : Nat
  stream : Nat
  link : Nat
  word : BitVec 256
  red : Option Config.Red := none
deriving DecidableEq, Repr

/-- The opcode of an operation; a SYNC with a count is a DYNQ (R178, R145; log 36). -/
def kindOpc (o : OpRec) : Nat :=
  match o.kind with
  | 0 | 1 => Opc.matrix
  | 2 => Opc.vector
  | 3 => Opc.access
  | 4 => Opc.signal
  | 5 => if o.params / 2 ^ 176 = 0 then Opc.nop else Opc.dynq
  | _ => Opc.boundary

/-- The fields that the loader fills are 0 in PARAMS (R178); the LOOP of an operation that uses pointers names one of the image's
`loops` records (R144 of 06_core_streams.md). -/
def paramsOk (loops : Nat) (o : OpRec) : Bool :=
  let c := BitVec.ofNat 256 o.params
  decide (o.sync < 2 ^ 28) && o.rest == 0 && (decide (4 < o.kind) || decide (o.loop < min loops 512)) &&
  (match o.kind with
   | 0 => cmdF c 147 111 == 0 && cmdF c 78 55 == 0 && cmdF c 149 148 == 0 && decide (0 < o.m) && decide (0 < o.n) &&
       decide (o.k < 2 ^ 27)
   | 1 => cmdF c 147 111 == 0 && cmdF c 78 55 == 0 && cmdF c 149 148 != 0 && decide (o.k < 2 ^ 27)
   | 2 => cmdF c 124 101 == 0
   | 3 => cmdF c 52 29 == 0
   | 4 => cmdF c 177 154 == 0
   | _ => true)

/-- The word of an operation that lowers to one command: header from TAG, SYNC and LOOP, all six levels used, and the
logical extents (R178, R191; levels: log 35). -/
def opWord (o : OpRec) : BitVec 256 :=
  let opc := kindOpc o
  let ptr := [0x10, 0x20, 0x30, 0x40].elem opc
  let head := opc * 2 ^ 248 + o.tag * 2 ^ 232 + o.sync % 2 ^ 26 * 2 ^ 206 + o.sync / 2 ^ 27 % 2 * 2 ^ 205 +
    (if ptr then 6 * 2 ^ 202 + o.loop % 2 ^ 9 * 2 ^ 193 else 0) + o.sync / 2 ^ 26 % 2 * 2 ^ 192
  let dims :=
    if o.kind = 0 then (o.m - 1) % 32 * 2 ^ 143 + (o.n - 1) % 32 * 2 ^ 138 + o.k * 2 ^ 111
    else if o.kind = 1 then o.k * 2 ^ 111 else 0
  BitVec.ofNat 256 (head + o.params + dims)

/-- The streams of the operations: that of their opcode; a SYNC or BOUNDARY joins the operation before it (R178; log 36). -/
def opStreams : List OpRec → Nat → List Nat
  | [], _ => []
  | o :: t, last =>
    let st := (opStream (kindOpc o)).getD last
    st :: opStreams t st

/-- The image is one that the loader lowers command for command: no tile to cut, no reduction to spread, no queue to bind. -/
def simpleImage (b : Bytes) (ops : List OpRec) : Bool :=
  (sec? b 4).isNone && ops.all (fun o => o.kind != 7 && (o.kind != 0 || (decide (o.m ≤ 32) && decide (o.n ≤ 32))))

/-- The parameters of one share (R175). -/
def lowerParams (s : State) (shares rank : Nat) : Config.LowerParams :=
  { shares := shares, rank := rank, depths := [Grp.g8, .g4, .g16, .c8, .c16].map Grp.depth
    clusterCores := (List.range 16).map (fun c => ((List.range 8).filter (fun i =>
      !([Fn.retired, Fn.absent].elem (arrState s (8 * c + i))))).length)
    bound := loaderBound s }

/-- A NOP that waits on, or signals, a logical cluster counter (R143 to R145 of 06_core_streams.md). -/
def counterNop (tag ctr wait signal : Nat) (peek : Bool) : BitVec 256 :=
  BitVec.ofNat 256 (tag * 2 ^ 232 + (if wait = 0 then 0 else 2 ^ 231 + ctr * 2 ^ 223 + wait * 2 ^ 219) +
    (if signal = 0 then 0 else 2 ^ 218 + ctr * 2 ^ 210 + signal * 2 ^ 206) + (if peek then 2 ^ 192 else 0))

/-- Barrier number k of a stream's pair of counters: a signal of 1, a PEEK wait for the members, and, from the second on, rank 0
consumes the counter of the barrier before (R153 of 06_core_streams.md). -/
def barrierCmds (tag op stream members ctr k rank : Nat) : List LCmd :=
  let c := ctr + k % 2
  let nop (w : BitVec 256) : LCmd := { op := op, stream := stream, link := 0, word := w }
  [nop (counterNop tag c 0 1 false), nop (counterNop tag c members 0 true)] ++
    (if k ≠ 0 ∧ rank = 0 then [nop (counterNop tag (ctr + (k + 1) % 2) members 0 false)] else [])

/-- The commands of the items, the barriers written out; `seen` holds the counter pairs of the barriers before. -/
def expandLow (ops : List OpRec) (rank : Nat) : List Config.LowItem → List Nat → List LCmd
  | [], _ => []
  | .cmd op stream link word red :: t, seen =>
    { op := op, stream := stream % 4, link := link, word := word, red := red } :: expandLow ops rank t seen
  | .barrier op stream members ctr :: t, seen =>
    barrierCmds (((ops[op]?).map (·.tag)).getD 0) op (stream % 4) members ctr ((seen.filter (· == ctr)).length) rank ++
      expandLow ops rank t (ctr :: seen)

/-- A step of the tree that a rank may take: it absorbs rank + w for a power of two w below its own lowest set bit (R134 of
05_arithmetic.md). -/
def redOk (shares rank : Nat) (r : Config.Red) : Bool :=
  (List.range 7).any (fun i => r.w == 2 ^ i) && rank % (2 * r.w) == 0 && decide (rank + r.w < shares)

/-- Loop records and commands of one share (R191). -/
def lowerShare (p : Config.LowerParams) (b : Bytes) (ops : List OpRec) : List Bytes × List LCmd :=
  if simpleImage b ops then
    let st := opStreams ops 0
    (recordsOf 256 (sec b 2),
      (List.range ops.length).filterMap (fun i =>
        (ops[i]?).map (fun o => { op := i, stream := st.getD i 0, link := o.link, word := opWord o })))
  else
    let r := Config.lowering b p
    (r.1, expandLow ops p.rank r.2 [])

/-- The shares of an image: E where a reduction is spread, else one (05_arithmetic.md R134). -/
def shareCount (s : State) (ops : List OpRec) : Nat :=
  if ops.any (fun o => o.kind == 7) then s.get GLOBAL_CORES.EFFECTIVE else 1

/-- The queue table of an image. -/
def queueTable (b : Bytes) : List (BitVec 64) :=
  match sec? b 4 with
  | some q => (recordsOf 8 q).map (fun r => BitVec.ofNat 64 (le r 0 8))
  | none => [0, 0, 0, 0]

/-- Commands in the order of their streams, with the first index and the end of each (R191). -/
def byStream (l : List LCmd) : List LCmd := (List.range 4).flatMap (fun t => l.filter (fun c => c.stream == t))

/-- A range of a bit field of a command replaced. -/
def putCmd (c : BitVec 256) (hi lo v : Nat) : BitVec 256 :=
  BitVec.ofNat 256 (c.toNat - cmdF c hi lo * 2 ^ lo + v % 2 ^ (hi - lo + 1) * 2 ^ lo)

/-- Logical cluster counters rewritten to absolute ones (R153 of 06_core_streams.md). -/
def bindCounters (cc : List Nat) (c : BitVec 256) : BitVec 256 :=
  let c := if cmdWaitCluster c then putCmd c 230 223 (cc.getD (cmdWaitIdx c) 0) else c
  if cmdSigCluster c then putCmd c 217 210 (cc.getD (cmdSigIdx c) 0) else c

/-! ## Windows (R183) -/

/-- The lowest and highest offsets that a pointer's increments reach over the largest counts. -/
def reach (r : Bytes) (p : Nat) (counts : List Nat) : Int × Int :=
  (List.range 6).foldl (fun (acc : Int × Int) l =>
    let e := loopInc r l p * ((counts.getD l 1 : Int) - 1)
    (acc.1 + min 0 e, acc.2 + max 0 e)) (0, 0)

/-- The largest counts of a command: its record's, or its DYNAMIC entry's where larger (R183). -/
def largest (c : BitVec 256) (r : Bytes) (dyn : Option (List Nat)) : List Nat :=
  let own := loopCounts c r none
  match dyn with
  | some m => (List.range 6).map (fun l => max (own.getD l 1) (m.getD l 0 + 1))
  | none => own

/-- A device-memory or global range lies in one of the windows (09_contexts_tenants.md R238). -/
def inWindows (s : State) (ws : List Win) (space : Nat) (lo hi : Int) (write : Bool) : Bool :=
  if lo < 0 then false
  else
    let a := lo.toNat
    let n := (hi - lo).toNat
    if isRemote s space a then admitsGlobal ws a n write else admitsLocal ws (ownNode s) (localOff space a) n write

/-- Every device-memory and global range of an ACCESS command lies in the windows (R183). -/
def windowsHold (s : State) (ws : List Win) (c : BitVec 256) (r : Bytes) (dyn : Option (List Nat)) : Bool :=
  let p := (List.range 4).map (loopBase r)
  (accRanges c p).all (fun x =>
    if x.2.1 ≤ 2 ∨ (boundQ c x.1).isSome then true
    else
      let e := reach r x.1 (largest c r dyn)
      inWindows s ws x.2.1 ((x.2.2.1 : Int) + e.1) ((x.2.2.1 : Int) + x.2.2.2.1 + e.2) x.2.2.2.2)

/-- The ranges that a unit of a command reads and writes through pointers of its own, bound ones apart: space, address, length,
write. A kernel's are not known. -/
def unitRanges (c : BitVec 256) (r : Bytes) (counts : List Nat) (u : Nat) : List (Nat × Nat × Nat × Bool) :=
  let idx := digits counts u
  let p := (List.range 4).map (fun i => ptrAddr c r idx i none)
  let own (i : Nat) : Bool := (boundQ c i).isNone
  match cmdOp c with
  | 0x10 =>
    let m := matOf c
    let a : MatAddr := { p := p, aux := [auxAddr c r idx 0 0 none, auxAddr c r idx 1 1 none, auxAddr c r idx 2 1 none] }
    ([0, 1, 3].filter own).flatMap (fun i => (matReads m a i).map (fun x => (0, x.1, x.2, false))) ++
      (if own 2 then (matWrites m a).map (fun x => (0, x.1, x.2, true)) else [])
  | 0x20 =>
    let len := vecLen c
    let out := if cmdF c 191 186 = 0x23 then 4 else (if 0x20 ≤ cmdF c 191 186 then 1 else len) * vecBytes (cmdF c 182 180)
    ((readsPtr c).filter own).map (fun i => (0, p.getD i 0, len * vecBytes (cmdF c 185 183), false)) ++
      (if own 2 then [(0, p.getD 2 0, out, true)] else [])
  | 0x30 => ((accRanges c p).filter (fun x => own x.1)).map (fun x => (x.2.1, x.2.2.1, x.2.2.2.1, x.2.2.2.2))
  | _ => []

/-- A command's output region meets its own inputs (R140 of 06_core_streams.md). -/
def ownOverlap (c : BitVec 256) (r : Bytes) (dyn : Option (List Nat)) : Bool :=
  let counts := largest c r dyn
  let l := (List.range (unitsOf counts)).flatMap (unitRanges c r counts)
  let outs := l.filter (fun x => x.2.2.2)
  (l.filter (fun x => !x.2.2.2)).any (fun x => outs.any (fun y => x.1 == y.1 && decide (0 < x.2.2.1) && decide (0 < y.2.2.1) &&
    decide (x.2.1 < y.2.1 + y.2.2.1) && decide (y.2.1 < x.2.1 + x.2.2.1)))

/-- The ranges of cluster memory that a command reaches: base and length (R183; 09_contexts_tenants.md R231). -/
def clusterSpans (c : BitVec 256) (r : Bytes) (dyn : Option (List Nat)) : List (Nat × Nat) :=
  if cmdOp c ≠ Opc.access then []
  else
    (accRanges c ((List.range 4).map (loopBase r))).filterMap (fun x =>
      if x.2.1 = 2 ∧ (boundQ c x.1).isNone then
        let e := reach r x.1 (largest c r dyn)
        some (((x.2.2.1 : Int) + e.1).toNat, ((x.2.2.2.1 : Int) + e.2 - e.1).toNat)
      else none)

/-! ## Queues (R149, R151) -/

/-- Entries of a queue that a command produces less those that it consumes. -/
def entryBalance (c : BitVec 256) (r : Bytes) (q : Nat) : Int :=
  let counts := loopCounts c r none
  ((boundPtrs c).filter (fun b => b.2.1 == q)).foldl (fun t b =>
    let e := cdiv (unitsOf counts) (spanOf counts (poplOf c b.1))
    if b.2.2 then t + e else t - e) 0

/-- Slots lie in their memory, and entry counts match (R149, R151). -/
def queuesOk (qs : List (BitVec 64)) (l : List (BitVec 256 × Bytes)) : Bool :=
  (List.range 4).all (fun q =>
    let e := qs.getD q 0
    (!qtEn e || decide (qtBase e + qtSlots e * qtSize e ≤ chipSize (qtMem e))) &&
    decide ((l.map (fun c => entryBalance c.1 c.2 q)).sum = 0))

/-! ## Synchronisation (R190) -/

/-- Where the run of R190 stands: the counters and data queues as a context holds them, the commands that have issued and still
have entries to take or to be freed, and each stream's remaining commands with their loop records. -/
structure SyncRun where
  y : Ctx
  fly : List (LCmd × Inflight)
  todo : List (List (LCmd × Bytes))

/-- A command as the run holds it: its units count where they take entries. -/
def syncFly (c : LCmd × Bytes) : Inflight :=
  let counts := loopCounts c.1.word c.2 none
  { slot := 0, stream := c.1.stream, idx := 0, cmd := c.1.word, counts := counts
    units := if (boundPtrs c.1.word).isEmpty then 0 else unitsOf counts }

/-- A unit run whose entries are there: taken, then pushed or freed where it is the last of its span (R150); none where it
waits. -/
def syncUnit (y : Ctx) (f : Inflight) : Option (Ctx × Inflight) :=
  match takeSeq (takesAt f.cmd f.counts f.unit) y with
  | none => none
  | some r =>
    let slots := r.1.foldl (fun t e => t.set e.1 (some e.2)) f.slots
    let y := ((boundPtrs f.cmd).filter (fun b =>
        (f.unit + 1) % max (spanOf f.counts (poplOf f.cmd b.1)) 1 == 0 || f.unit + 1 == f.units)).foldl (fun (y : Ctx) b =>
      let d := y.live.dataq b.2.1
      { y with live := y.live.setDataq b.2.1 (if b.2.2 then { d with pushed := d.pushed + 1 } else { d with freed := d.freed + 1 }) }) r.2
    some (y, { f with unit := f.unit + 1, slots := slots })

/-- The first command that can go on runs a unit, or leaves once its entries are freed; `before` are those issued earlier. -/
def syncGo (y : Ctx) (before : List (LCmd × Inflight)) : List (LCmd × Inflight) → Option (Ctx × List (LCmd × Inflight))
  | [] => none
  | c :: t =>
    let f := c.2
    let waits := before.any (fun g => g.2.stream == f.stream && decide (g.2.unit < g.2.units) &&
      (f.stream != 0 || (boundPtrs g.2.cmd).any (fun b => (boundPtrs f.cmd).any (fun d => d.2.1 == b.2.1))))
    if f.units ≤ f.unit ∧ entriesFreed y f then some (y, before ++ t)
    else
      match (if f.unit < f.units && !waits then syncUnit y f else none) with
      | some r => some (r.1, before ++ (c.1, r.2) :: t)
      | none => syncGo y (before ++ [c]) t

/-- The members of a command's group among the commands left. -/
def syncMembers (q : List (List (LCmd × Bytes))) (c : LCmd × Bytes) : List (LCmd × Bytes) :=
  if c.1.link = 0 then [c] else q.flatMap (fun l => l.filter (fun d => d.1.link == c.1.link))

/-- The first group that may issue: every member heads its stream with room there and its core-counter wait satisfied or
external (R190). -/
def syncIssue (ext : List Nat) (r : SyncRun) : Option SyncRun :=
  let heads := r.todo.filterMap (·.head?)
  let met (c : LCmd) : Bool := cmdWaitN c.word == 0 || cmdWaitCluster c.word || ext.elem (cmdWaitIdx c.word) ||
    decide (cmdWaitN c.word ≤ r.y.live.token (cmdWaitIdx c.word))
  let room (c : LCmd) : Bool := decide ((r.fly.filter (fun f => f.1.stream == c.stream)).length < roomOf c.stream)
  (heads.find? (fun c => (syncMembers r.todo c).all (fun d => heads.any (fun h => h.1 == d.1) && met d.1 && room d.1))).map
    (fun c =>
      let ms := syncMembers r.todo c
      let live := ms.foldl (fun (p : Pointers) d =>
        let w := d.1.word
        if cmdWaitN w = 0 ∨ cmdWaitCluster w ∨ cmdPeek w then p
        else p.setToken (cmdWaitIdx w) (p.token (cmdWaitIdx w) - cmdWaitN w)) r.y.live
      let live := ms.foldl (fun (p : Pointers) d =>
        let w := d.1.word
        if cmdSigN w = 0 ∨ cmdSigCluster w then p else p.setToken (cmdSigIdx w) (p.token (cmdSigIdx w) + cmdSigN w)) live
      { y := { r.y with live := live }, fly := r.fly ++ ms.map (fun d => (d.1, syncFly d))
        todo := r.todo.map (fun l => match l with
          | h :: t => if ms.any (fun d => d.1 == h.1) then t else h :: t
          | [] => []) })

/-- The run of R190, the waits on data queues included (R151 of 06_core_streams.md): where it stands when nothing goes on. `ext`
are the counters that a DYNAMIC-eligible operation signals. -/
def syncRun (ext : List Nat) : Nat → SyncRun → SyncRun
  | 0, r => r
  | k + 1, r =>
    match syncGo r.y [] r.fly with
    | some g => syncRun ext k { r with y := g.1, fly := g.2 }
    | none =>
      match syncIssue ext r with
      | some r => syncRun ext k r
      | none => r

/-- A link group places two members on one stream (R186). -/
def linkClash (l : List LCmd) : Option LCmd :=
  l.find? (fun c => c.link != 0 && decide (1 < (l.filter (fun d => d.link == c.link && d.stream == c.stream)).length))

/-- The command at which an image's synchronisation run stands still before its end: the first of its streams' heads, or else
the first that waits for entries (R186, R190). -/
def syncStuck (l : List (LCmd × Bytes)) (tokens : List Nat) (qs : List (BitVec 64)) (dynOps : List Nat) : Option LCmd :=
  match linkClash (l.map (·.1)) with
  | some c => some c
  | none =>
    let ext := (l.filter (fun c => dynOps.elem c.1.op && cmdSigN c.1.word != 0 && !cmdSigCluster c.1.word)).map
      (fun c => cmdSigIdx c.1.word)
    let live := (List.range 16).foldl (fun (p : Pointers) i => p.setToken i (tokens.getD i 0)) {}
    let fuel := (l.map (fun c => (syncFly c).units + 2)).sum + 1
    let r := syncRun ext fuel { y := { live := live, img := { queues := qs } }, fly := []
                                todo := (List.range 4).map (fun t => l.filter (fun c => c.1.stream == t)) }
    match r.todo.findSome? (·.head?) with
    | some c => some c.1
    | none => r.fly.head?.map (·.1)

/-! ## The tenant bound (R187, R188) -/

/-- The cost of some units of an ACCESS command, core cycles (R187). -/
def accCost (c : BitVec 256) (units : Nat) : Nat :=
  let a := accOf c
  let bytes := units * accBytes c
  let sp (p : Nat) : Nat := if (boundQ c p).isSome then 0 else accSpace c p
  let used := if a.aop = Aop.fill then [sp 1] else if a.aop = Aop.atomic then [sp 0, sp 1, sp 2]
    else if a.aop = Aop.waitMem then [sp 0] else [sp 0, sp 1]
  if units = 0 then 0
  else if a.aop = Aop.waitMem then units * (if sp 0 = 4 then 2500 else 550)
  else if a.aop = Aop.atomic ∨ a.aop = Aop.fence then 2500 * units + (if a.aop = Aop.fence then 0 else cdiv bytes 80)
  else if used.elem 4 then 2500 * units + cdiv bytes 80
  else if used.elem 3 then cdiv bytes 128 + 550
  else cdiv bytes 256

/-- S′ of a pass, by whether its right block differs from the last pass's (R187, R93 of 04_matrix_array.md). -/
def passCost (m : MatCmd) (g : Grp) (fresh : Bool) : Nat :=
  if m.ew ≠ 0 then max (feedSpan m g + 33) 33
  else max (feedSpan m g + (if fresh ∨ 64 < slabsOf m g then fillBefore m g else 0)) 33

/-- The right-operand address of a unit, as far as passes of one command tell it apart. -/
def rightOf (c : BitVec 256) (r : Bytes) (counts : List Nat) (qs : List (BitVec 64)) (u : Nat) : Int :=
  let idx := digits counts u
  match boundQ c 1 with
  | some q => ((u / max (spanOf counts (poplOf c 1)) 1 % qtSlots (qs.getD q 0) : Nat) : Int) * 2 ^ 64 +
      incSum idx (fun l => loopInc r l 1) (poplOf c 1)
  | none => incSum idx (fun l => loopInc r l 1) 6

/-- The cost of a MATRIX command (R187). -/
def matCost (c : BitVec 256) (r : Bytes) (qs : List (BitVec 64)) : Nat :=
  let m := matOf c
  match grpOf m.lfmt with
  | none => 40
  | some g =>
    let counts := loopCounts c r none
    let n := unitsOf counts
    if m.sparse then
      ((List.range n).map (fun u =>
        passCost m g (u == 0 || rightOf c r counts qs u != rightOf c r counts qs (u - 1)))).sum + 40
    else n * passCost m g false + 40

/-- The bound W of a group (R187). -/
def groupBound (l : List (LCmd × Bytes)) (qs : List (BitVec 64)) : Nat :=
  let compute := l.filter (fun c => [0x10, 0x20].elem (cmdOp c.1.word))
  let feeds (q : Nat) : Bool := compute.any (fun c => (boundPtrs c.1.word).any (fun b => b.2.1 == q && !b.2.2))
  let drains (q : Nat) : Bool := compute.any (fun c => (boundPtrs c.1.word).any (fun b => b.2.1 == q && b.2.2))
  let xOf (t : Nat) : Nat := ((l.filter (fun c => c.1.stream == t)).map (fun c =>
    let w := c.1.word
    match cmdOp w with
    | 0x10 => matCost w c.2 qs
    | 0x20 => unitsOf (loopCounts w c.2 none) * vecCycles w + 14
    | _ => 1)).sum
  -- of each other member: its cost before the first unit of a compute member, its other cost, its last entry's
  let parts : List (Nat × Nat × Nat) := (l.filter (fun c => c.1.stream != 1 && c.1.stream != 2)).map (fun c =>
    let w := c.1.word
    let counts := loopCounts w c.2 none
    let n := unitsOf counts
    match cmdOp w with
    | 0x30 =>
      match boundQ w 1, boundQ w 0 with
      | some q, _ =>
        if feeds q then
          let e := min (spanOf counts (poplOf w 1)) n
          (accCost w e, accCost w (n - e), 0)
        else (0, accCost w n, 0)
      | none, some q =>
        if drains q then
          let e := max 1 (spanOf counts (poplOf w 0))
          let last := n - (cdiv n e - 1) * e
          (0, accCost w (n - last), accCost w last)
        else (0, accCost w n, 0)
      | none, none => (0, accCost w n, 0)
    | 0x40 => (0, Config.signalCost w, 0)
    | _ => (0, 1, 0))
  let h := (parts.map (·.1)).sum
  let d := (parts.map (·.2.2)).foldl max 0
  let p := (parts.map (·.2.1)).sum + ((parts.map (·.2.2)).sum - d)
  30 + 256 + h + max p (max (xOf 1) (xOf 2)) + d

/-- The members of a command's group among its share's commands. -/
def groupOf (l : List (LCmd × Bytes)) (c : LCmd) : List (LCmd × Bytes) :=
  if c.link = 0 then l.filter (fun d => d.1 == c) else l.filter (fun d => d.1.link == c.link)

/-! ## The checks in their order (R181) -/

/-- A rejection at an operation. -/
def rejAt (code reason : Nat) (ops : List OpRec) (i stream : Nat) : Rej :=
  { code := code, reason := reason, stream := stream, op := i, tag := ((ops[i]?).map (·.tag)).getD 0 }

/-- What an accepted image gives: its shares and the largest tenant bound in nanoseconds. -/
structure Loaded where
  shares : List Img
  boundNs : Nat
  consts : List (Nat × Bytes)

/-- The cluster counters in use by the groups of a function. -/
def countersUsed (s : State) (f : Nat) : List Nat := s.ctxs.flatMap (fun c => if c.2.fn = f ∧ c.2.state ≠ 0 then c.2.counters else [])

/-- The counters that a function may still be allotted, lowest first (06_core_streams.md R153). -/
def countersFree (s : State) (f : Nat) : List Nat :=
  let all := if f = 256 then List.range 256
    else (List.range (s.get HOST_VF_CFG.CC_COUNT f)).map (· + s.get HOST_VF_CFG.CC_BASE f)
  let used := countersUsed s f
  all.filter (fun c => decide (c < 256) && !used.elem c)

/-- The lowered bytes of a share: loops, commands, kernels, queue table, link table, key (R191). -/
def lowBytes (loops : List Bytes) (cmds : List LCmd) (kern : Bytes) (qs : List (BitVec 64)) (key : Nat) : Bytes :=
  loops.flatten ++ cmds.flatMap (fun c => bytesLe 32 c.word.toNat) ++ kern ++ qs.flatMap (fun q => bytesLe 8 q.toNat) ++
  cmds.flatMap (fun c => bytesLe 1 c.link) ++ bytesLe 4 key

/-- The message that the hallmark covers: lowered image, class, pacing, window bindings, key (R192). -/
def sealMsg (g : Img) : Bytes :=
  g.bytes ++ bytesLe 1 g.cls ++ bytesLe 1 g.pacing ++ g.wins.flatMap (bytesLe 1) ++ bytesLe 4 g.key.toNat

/-- One share's commands with their loop records. -/
def withLoops (loops : List Bytes) (l : List LCmd) : List (LCmd × Bytes) :=
  l.map (fun c => (c, loops.getD (cmdLoop c.word) []))

/-- One share as an image. -/
def mkImg (s : State) (b : Bytes) (cls pacing shares rank : Nat) (loops : List Bytes) (cmds : List LCmd) (qs : List (BitVec 64))
    (cc : List Nat) (tokens wins : List Nat) (dyn : List (Nat × List Nat)) : Img :=
  let kern := sec b 3
  let base := loops.length * 8
  let cnt (t : Nat) : Nat := (cmds.filter (fun c => decide (c.stream < t))).length
  let key := s.get GLOBAL_REPRO_KEY
  let wl := withLoops loops cmds
  let g : Img :=
    { bytes := lowBytes loops cmds kern qs key, loops := loops.length, cmds := cmds.length, kern := kern.length / 8
      queues := qs, links := cmds.map (·.link), bounds := cmds.map (fun c => groupBound (groupOf wl c) qs)
      first := (List.range 4).map (fun t => base + cnt t), last := (List.range 4).map (fun t => base + cnt (t + 1))
      dyn := (List.range cmds.length).filterMap (fun i =>
        (cmds[i]?).bind (fun c => (dyn.find? (fun d => d.1 == c.op)).map (fun d => (base + i, d.2))))
      cls := cls, pacing := pacing, debug := le b 6 2 / 8 % 2 == 1, key := BitVec.ofNat 32 key
      reds := cmds.map (fun c => c.red.filter (redOk shares rank)), shares := shares
      spans := wl.flatMap (fun c => clusterSpans c.1.word c.2 ((dyn.find? (fun d => d.1 == c.1.op)).map (·.2)))
      id := BitVec.ofNat 32 (le b 0xC 4), wins := wins, tokens := tokens, counters := cc
      shape := [le b 0x14 4, le b 0x18 4, le b 0x1C 4], source := b }
  { g with hallmark := Config.hmac64 s.sealKey (sealMsg g) }

/-- The loader's checks of an image's bytes for a function, in the order of R181; an N2 image, which its own
header tells from an Ohmath image, comes translated (R200). -/
def loadImage (s : State) (f : Nat) (raw : Bytes) : Except Rej Loaded :=
  let n2 := if le raw 0 4 = 0x334D484F then none else Config.n2Translate raw
  let b := match n2 with
    | some t => t.1
    | none => raw
  if !formatOk b then .error { code := Code.hallmarkReject, reason := 0x01 }
  else if le b 4 1 ≠ 3 ∨ s.get GLOBAL_REPRO_KEY / 2 ^ 16 % 2 ^ 8 < le b 5 1 then
    .error { code := Code.hallmarkReject, reason := 0x02 }
  else
    let cls := if n2.isSome then 2 else le b 6 2 % 4
    let pacing := if n2.isSome then 1 else le b 6 2 / 4 % 2
    let signed := (((secTable b).find? (fun e => e.1 == 9)).map (fun e => b.take e.2.2.1)).getD []
    if cls ≠ 2 ∧ !(s.operatorKey != [] && (sec? b 9).isSome &&
        Config.ecdsaVerify s.operatorKey (Config.sha384 signed) (sec b 9)) then
      .error { code := Code.hallmarkReject, reason := 0x03 }
    else
      let ops := (recordsOf 64 (sec b 1)).map opRec
      let shares := shareCount s ops
      let low := (List.range shares).map (fun rank => lowerShare (lowerParams s shares rank) b ops)
      let qs := queueTable b
      let all := low.flatMap (fun l => l.2.map (fun c => (c, l.1.length)))
      let badKind := (List.range ops.length).find? (fun i =>
        match ops[i]? with | some o => decide (7 < o.kind) || !paramsOk ((sec b 2).length / 256) o | none => false)
      let dyn := match sec? b 7 with
        | some d => Config.dynamicSection d
        | none => []
      let badCmd := (all.find? (fun c => !cmdValid c.1.word c.1.stream c.2 qs)).orElse (fun _ =>
        low.findSome? (fun l => (l.2.find? (fun c => ownOverlap c.word (l.1.getD (cmdLoop c.word) [])
          ((dyn.find? (fun d => d.1 == c.op)).map (·.2)))).map (fun c => (c, l.1.length))))
      if !reservedOk b || !kernelsOk b then .error { code := Code.badArgument, reason := 0x04 }
      else if badKind.isSome then .error (rejAt Code.badArgument 0x04 ops (badKind.getD 0) 0xFF)
      else
        match badCmd with
        | some c => .error (rejAt Code.badArgument 0x04 ops c.1.op c.1.stream)
        | none =>
          let req := le b 0x20 4
          if req ≠ 0 ∧ req ≠ s.get GLOBAL_REPRO_KEY then .error { code := Code.stateConflict, reason := 0x05 }
          else
            let priv := all.find? (fun c => cmdOp c.1.word == Opc.signal ||
              (cmdOp c.1.word == Opc.access && [Aop.expand, Aop.compress].elem (accOf c.1.word).aop))
            if cls ≠ 2 ∧ f ≠ 256 then .error { code := Code.denied, reason := 0x06 }
            else if cls = 2 ∧ (sec? b 3).isSome then .error { code := Code.denied, reason := 0x06 }
            else if cls = 2 ∧ le b 6 2 / 8 % 2 = 1 ∧ f < 256 ∧ !s.bit HOST_VF_CFG.DEBUG f then
              .error { code := Code.denied, reason := 0x06 }
            else
              match (if cls = 2 then priv else none) with
              | some c => .error (rejAt Code.denied 0x06 ops c.1.op c.1.stream)
              | none =>
                let badDyn := dyn.find? (fun d => match ops[d.1]? with
                  | some o => !([0, 1, 2, 3].elem o.kind)
                  | none => true)
                let deep := pacing == 0 && ((sec? b 7).map Config.dynamicDepths).any (fun l => l.any (fun d => decide (32 < d)))
                if (pacing = 1 ∧ cls ≠ 2) ∨ badDyn.isSome ∨ deep then .error { code := Code.stateConflict, reason := 0x07 }
                else
                  let req := match sec? b 5 with
                    | some w => Config.windowsSection w
                    | none => []
                  let ws := req.map (fun w => winAt s f w.2.2)
                  let reqOk := req.all (fun w => decide (w.2.2 < 16) && (winAt s f w.2.2).valid &&
                    decide ((winAt s f w.2.2).base ≤ w.1) &&
                    decide (w.1 + w.2.1 ≤ (winAt s f w.2.2).base + (winAt s f w.2.2).size * 65536))
                  let free := f == 256 && cls != 2 && req.isEmpty
                  let ctr := match sec? b 6 with
                    | some c => Config.countersSection c
                    | none => ([], 0)
                  let pool := countersFree s f
                  let badWin := low.findSome? (fun l => l.2.find? (fun c => cmdOp c.word == Opc.access &&
                    !windowsHold s ws c.word (l.1.getD (cmdLoop c.word) []) ((dyn.find? (fun d => d.1 == c.op)).map (·.2))))
                  let badCtr := all.find? (fun c =>
                    (cmdWaitCluster c.1.word && decide (ctr.2 ≤ cmdWaitIdx c.1.word)) ||
                    (cmdSigCluster c.1.word && decide (ctr.2 ≤ cmdSigIdx c.1.word)))
                  let consts := match sec? b 8 with
                    | some c => Config.constSection c
                    | none => []
                  let badConst := !free && consts.any (fun c => !admitsLocal ws (ownNode s) c.1 c.2.length true)
                  if !reqOk || decide (pool.length < ctr.2) || badConst then .error { code := Code.windowViolation, reason := 0x08 }
                  else
                    match (if free then none else badWin), badCtr with
                    | some c, _ => .error (rejAt Code.windowViolation 0x08 ops c.op c.stream)
                    | none, some c => .error (rejAt Code.windowViolation 0x08 ops c.1.op c.1.stream)
                    | none, none =>
                      let cc := pool.take ctr.2
                      let low := low.map (fun l => (l.1, byStream (l.2.map (fun c => { c with word := bindCounters cc c.word }))))
                      if !(low.all (fun l => queuesOk qs ((withLoops l.1 l.2).map (fun c => (c.1.word, c.2))))) then
                        .error { code := Code.badArgument, reason := 0x09 }
                      else
                        let imgs := (low.zip (List.range shares)).map (fun l =>
                          mkImg s b cls pacing shares l.2 l.1.1 l.1.2 qs cc ctr.1 (req.map (·.2.2)) dyn)
                        if imgs.any (fun g => decide (cmdBankBytes < g.bytes.length)) then
                          .error { code := Code.badArgument, reason := 0x0A }
                        else
                          match low.findSome? (fun l => syncStuck (withLoops l.1 l.2) ctr.1 qs (dyn.map (·.1))) with
                          | some c => .error (rejAt Code.syncCycle 0x0B ops c.op c.stream)
                          | none =>
                            let w := (imgs.flatMap (·.bounds)).foldl max 0
                            let late := low.findSome? (fun l => l.2.find? (fun c =>
                              decide (loaderBound s * 5 < groupBound (groupOf (withLoops l.1 l.2) c) qs * 4)))
                            match (if cls = 2 then late else none) with
                            | some c =>
                              let first := (low.flatMap (fun l => (l.2.filter (fun d => d == c || (c.link != 0 && d.link == c.link))).map
                                (·.op))).foldl min c.op
                              .error (rejAt Code.guardExceeded 0x0C ops first 0xFF)
                            | none =>
                              if (n2.map (·.2)).getD false then .error { code := Code.hallmarkReject, reason := 0x0D }
                              else .ok { shares := imgs, boundNs := if cls = 2 then cyclesNs w else 0
                                         consts := consts }

end Sys2Proof.Machine
end

