-- ==== Sys2Proof/Machine/Entry.lean ====
section
/-! DEFINITION. Submission entries of a function's ring, and the counts of contexts (09_contexts_tenants.md R225, R234). -/

namespace Sys2Proof.Machine

/-- A submission entry (R234). -/
structure Ent where
  typ : Nat
  user : Nat
  a : Nat
  b : Nat
  len : Nat
  bad : Bool

/-- The entry that 64 bytes hold. -/
def entOf (r : Bytes) : Ent :=
  { typ := le r 0 1, user := le r 8 8, a := le r 0x10 8, b := le r 0x18 8, len := le r 0x20 8
    bad := decide (4 < le r 0 1) || le r 1 7 != 0 || le r 0x28 24 != 0 }

/-- Function f fetches entries: it is RUNNING, no record waits for ring space, no reset runs, its tenant is neither freezing
nor frozen (R234, R241, R244, R247, R443). -/
def fetches (s : State) (f : Nat) : Bool :=
  let x := fnAt s f
  fnState s (hostFn f) == Fn.running && s.get HOST_STATUS.STATE != Fn.stopped && x.resWait.isEmpty && x.cplWait.isEmpty &&
    x.flr == 0 && !frozen s f

/-- The next entry of function f. -/
def entryAt (s : State) (f : Nat) : Option Ent :=
  let n := ringLen (s.get HOST_FN_RING_SIZE.SUB f)
  let h := s.get HOST_FN_SUB_HEAD f % n
  if fetches s f && h != s.get HOST_FN_SUB_TAIL f % n then
    some (entOf (rdBytes s.mems.host (s.get2 HOST_FN_SUB_BASE_LO HOST_FN_SUB_BASE_HI f + h * 64) 64))
  else none

/-- The head moved past the entry fetched. -/
def fetched (s : State) (f : Nat) : State :=
  s.set HOST_FN_SUB_HEAD ((s.get HOST_FN_SUB_HEAD f + 1) % ringLen (s.get HOST_FN_RING_SIZE.SUB f)) f

/-- The fetch of an entry of one TYPE; one with an unlisted TYPE or a non-zero reserved byte yields BAD_ARGUMENT and is not
acted on (R234). -/
def entryRow (f typ : Nat) (act : Ent → State → State) (s : State) : State :=
  match entryAt s f with
  | none => s
  | some e =>
    if e.bad then pushCpl (fetched s f) f { code := Code.badArgument, typ := e.typ, user := e.user }
    else if e.typ = typ then act e (fetched s f)
    else s

/-- The groups of function f that bear an IMAGE_ID, by their numbers. -/
def groupsOf (s : State) (f id : Nat) : List Nat :=
  (mapKeys s.groups).filter (fun g => (groupAt s g).fn == f && !(groupAt s g).ctxs.isEmpty && (ctxAt s g).img.id.toNat == id)

/-- The most recently defined of them (R235). -/
def newestGroup (s : State) (f id : Nat) : Option Nat :=
  (groupsOf s f id).foldl (fun b g => match b with
    | some h => if (groupAt s h).serial < (groupAt s g).serial then some g else some h
    | none => some g) none

/-- The numbers of defined contexts of function f. -/
def ctxsOf (s : State) (f : Nat) : List Nat := (mapKeys s.ctxs).filter (fun x => (ctxAt s x).fn == f && (ctxAt s x).state != 0)

/-- The counts of contexts published (R225, R247). -/
def recount (s : State) (f : Nat) : State :=
  let s := s.set HOST_CTX_FREE (4096 - ((mapKeys s.ctxs).filter (fun x => (ctxAt s x).state != 0)).length)
  if f < 256 then s.set HOST_VF_CTX_COUNT (ctxsOf s f).length f else s

/-- The context numbers that are free, lowest first. -/
def freeCtxs (s : State) : List Nat := (List.range 4096).filter (fun x => (ctxAt s x).state == 0)

/-- The context limit of a function (R225). -/
def ctxLimit (s : State) (f : Nat) : Nat := if f = 256 then 4096 else s.get HOST_VF_CFG.CTX_LIMIT f

end Sys2Proof.Machine
end

