-- ==== Sys2Proof/Machine/Hallmark.lean ====
section
/-! DEFINITION. Submission of an image, the definition of its contexts, and the replacement of a resident image
(07_hallmark.md R180, R192 to R198; 09_contexts_tenants.md R225). -/

namespace Sys2Proof.Machine

/-- A place of 128 KiB for a lowered image in the system region (08_memory.md R202; the place is the model's, log 12). -/
def imgPlace (s : State) : Nat :=
  (((List.range 8184).map (fun i => 0x100000 + i * 0x20000)).find? (fun a => !(mapKeys s.images).elem a)).getD 0x3FFE0000

/-- A sealed image stored: its bytes in device memory. -/
def storeImage (s : State) (g : Img) : Nat × State :=
  let a := imgPlace s
  (a, { devStore s a g.bytes with images := mapInsert (mapErase s.images a) a g })

/-- The sealed image at an address, and whether the hallmark over what stands there is right (R193). -/
def sealedAt (s : State) (a : Nat) : Option Img := (s.images.find? (fun p => p.1 == a)).map (·.2)
def hallmarkOk (s : State) (a : Nat) (g : Img) : Bool :=
  let now := (List.range g.bytes.length).map (fun i => devByte s (a + i))
  !(badDev s a g.bytes.length) &&
    Config.hmac64 s.sealKey (sealMsg { g with bytes := now }) == g.hallmark

/-- One context of a group, with its image and rank: IDLE, its sealed image stored (09_contexts_tenants.md R225). -/
def defineCtx (f g : Nat) (s : State) (p : Nat × Img × Nat) : State :=
  let r := storeImage s p.2.1
  setCtx r.2 p.1 { state := 1, rank := p.2.2, fn := f, group := g, img := p.2.1, imageAddr := r.1, counters := p.2.1.counters
                   halt := true }

/-- One context for each share, in the lowest free numbers (09_contexts_tenants.md R225). -/
def defineGroup (s : State) (f : Nat) (shares : List Img) : State :=
  let xs := (freeCtxs s).take shares.length
  let g := xs.headD 0
  let s := forEach (xs.zip (shares.zip (List.range shares.length))) (defineCtx f g) s
  let s := setGroup s g { ctxs := xs, fn := f, serial := s.serial + 1 }
  recount { s with serial := s.serial + 1 } f

/-- The 32 bytes of a result record (R180). -/
def resultBytes (s : State) (r : Rej) (id bound : Nat) : Bytes :=
  bytesLe 1 r.code ++ bytesLe 1 r.reason ++ bytesLe 1 r.stream ++ bytesLe 1 0 ++ bytesLe 4 r.op ++ bytesLe 2 r.tag ++
  bytesLe 2 0 ++ bytesLe 4 id ++ bytesLe 4 (s.get GLOBAL_REPRO_KEY) ++ bytesLe 4 bound ++ bytesLe 8 (nowN s)

/-- A range of device memory that a function may name: anything for the physical one, else one of its windows
(09_contexts_tenants.md R238). -/
def mayName (s : State) (f a n : Nat) (write : Bool) : Bool :=
  f == 256 || admitsLocal ((List.range 16).map (winAt s f)) (ownNode s) a n write

/-- The bytes of a submitted image, or the refusal of their reading. -/
def imageBytes (s : State) (f a : Nat) : Except Rej Bytes :=
  let get (n : Nat) : Except Rej Bytes :=
    if !mayName s f a n false then .error { code := Code.windowViolation, reason := 0x08 }
    else
      match devRead s a n with
      | (c, b, bad) =>
        if c ≠ Code.done then .error { code := c, reason := 0x01 }
        else if bad then .error { code := Code.uncorrectable, reason := 0x01 }
        else .ok b
  match get 64 with
  | .error r => .error r
  | .ok h =>
    let n := if le h 0 4 = 0x334D484F then le h 8 4 else Config.n2Bytes h
    if n ≤ 64 ∨ 0x4000000 < n then .ok h else get n

/-- An image loaded for function f: whether it is accepted, its result record, and the state: the checks, the lowering, the
seal and the contexts, or the refusal (R180, R181). -/
def loadBytes (s : State) (f : Nat) (b : Bytes) : Bool × Bytes × State :=
  let id := le b 0xC 4
  match loadImage s f b with
  | .error r => (false, resultBytes s r id 0, s)
  | .ok l =>
    if (freeCtxs s).length < l.shares.length ∨ ctxLimit s f < (ctxsOf s f).length + l.shares.length then
      (false, resultBytes s { code := Code.busy, reason := 0 } id 0, s)
    else
      let s := forEach l.consts (fun s c => (devWrite s c.1 c.2 false).2) s
      let s := defineGroup s f l.shares
      (true, resultBytes s { code := Code.done, reason := 0 } id l.boundNs, s)

/-- A submission of an image through a ring: one result record (R180). -/
def submitImage (f : Nat) (e : Ent) (s : State) : State :=
  match imageBytes s f e.a with
  | .error r => pushResult s f (resultBytes s r 0 0)
  | .ok b =>
    let r := loadBytes s f b
    pushResult r.2.2 f r.2.1

/-- An image that firmware hands to the loader on behalf of the physical function: its record is kept in the firmware working
space (15_vigil.md R379; 17_live_service.md R402). -/
def loadDirect (s : State) (b : Bytes) : Bool × State :=
  let r := loadBytes s 256 b
  (r.1, { r.2.2 with fwResults := r.2.2.fwResults ++ [r.2.1] })

/-! ## Reload (R195 to R198) -/

/-- The checks of IMAGE_RELOAD (R195; 18_registers_mailbox.md R423, R424). -/
def reloadCheck (s : State) : Nat :=
  let a := mbxArg s 0
  let z := (coreAt s (a % 128)).slot (a / 256 % 4)
  let img := sealedAt s (mbxArg2 s 1)
  firstCode [
    (!argsFit s [0x137F, 0xFFFFFFFF, 0xFFFFFFFF], Code.badArgument),
    (coreAbsent s (a % 128), Code.notPresent),
    (decide (memTop s ≤ mbxArg2 s 1), Code.notPresent),
    (!z.valid, Code.notPresent),
    (decide (a / 4096 % 2 = z.bank), Code.stateConflict),
    (z.armed || z.copying, Code.stateConflict),
    (decide (z.size * 256 < (img.getD {}).bytes.length), Code.badArgument)]

/-- The reload awaits its window; the image is checked as it is copied (R196). -/
def reloadBody (s : State) : State :=
  let a := mbxArg s 0
  let n := a % 128
  let c := a / 256 % 4
  let k := coreAt s n
  let z := k.slot c
  setCore s n (k.setSlot c { z with
    copying := true, reload := some ((sealedAt s (mbxArg2 s 1)).getD {}), reloadAt := mbxArg2 s 1 })

/-- A stream of slot c is parked, or idle with an empty dynamic queue (R197). -/
def streamRests (s : State) (n c st : Nat) : Bool :=
  let z := (coreAt s n).slot c
  let y := ctxAt s z.ctx
  let t := y.live.stream st
  t.parked.isSome || (!((coreAt s n).fly.any (fun f => f.slot == c && f.stream == st)) && decide (t.dynLeft = 0) &&
    t.dynq.isEmpty && (!y.job || decide (y.img.last.getD st 0 ≤ t.pc)))

/-- The slot's active bank switches; each parked stream continues at its NEXT, and an idle one is at the end of the new
image's commands (R197). -/
def bankSwitch (s : State) (n c : Nat) : State :=
  let k := coreAt s n
  let z := k.slot c
  if z.valid && z.armed && (List.range 4).all (streamRests s n c) then
    match z.reload with
    | none => s
    | some g =>
      let y := ctxAt s z.ctx
      let live := (List.range 4).foldl (fun p st =>
        let t := p.stream st
        p.setStream st { t with pc := t.parked.getD (g.last.getD st 0), parked := none }) y.live
      let s := setCtx s z.ctx { y with img := g, live := live, imageAddr := z.reloadAt }
      setCore s n (k.setSlot c { z with bank := 1 - z.bank, armed := false, reload := none
                                        switches := (z.switches + 1) % 65536 })
  else s

/-- IMAGE (R181). -/
def execImage (f : Nat) (s : State) : Out := .next (entryRow f 0 (submitImage f) s)

/-- IMAGE_RELOAD (R195). -/
def execImageReload (rq : Requester) (s : State) : Out := .next (mbxCommand s rq 0x02 reloadCheck reloadBody)

/-- RELOAD_BANK_SWITCH (R197). -/
def execReloadBankSwitch (n c : Nat) (s : State) : Out := .next (bankSwitch s n c)

end Sys2Proof.Machine
end

