-- ==== Sys2Proof/Machine/Memory.lean ====
section
/-! DEFINITION. Device memory at work: retiring a stack, the scrubber, the channels (08_memory.md R205 to R215, R223). -/

namespace Sys2Proof.Machine

/-- Rows of a bucket with n live stacks (R204). -/
def rowsPer (n : Nat) : Nat := 12288 * n

/-- The stripe map as numbers, 16 for a spread bucket. -/
def stripeList (s : State) : List Nat := (List.range 4096).map (fun b => (stripeOf s b).getD 16)

/-- The survivor with the fewest whole buckets, lowest stack number first (R208). -/
def fewest (whole : List (Nat × Nat)) : Option (Nat × Nat) :=
  whole.foldl (fun b c => match b with
    | some d => if c.2 < d.2 then some c else some d
    | none => some c) none

/-- The map with stack m taken out: whole buckets per survivor so far, the buckets still to come, and the new map (R208). -/
def remap (m w : Nat) : List Nat → List (Nat × Nat) → List Nat
  | [], _ => []
  | e :: t, whole =>
    if e = m ∨ e = 16 then
      match fewest whole with
      | some (sv, k) =>
        if k < w then sv :: remap m w t (whole.map (fun p => if p.1 = sv then (sv, k + 1) else p))
        else 16 :: remap m w t whole
      | none => 16 :: remap m w t whole
    else e :: remap m w t whole

/-- The new map after stack m leaves (R208). -/
def newMap (live : List Nat) (m : Nat) (old : List Nat) : List Nat :=
  let sv := live.filter (· ≠ m)
  remap m (4096 / max 1 sv.length) old (sv.map (fun x => (x, (old.filter (· == x)).length)))

/-- The stack of a row by a number of the map. -/
def stackNo (e : Nat) (live : List Nat) (r : Nat) : Nat := stackBy (if e = 16 then none else some e) live r

/-- Row r of a bucket changes its place (R209). -/
def changes (oldE newE : Nat) (live sv : List Nat) (r : Nat) : Bool := stackNo oldE live r != stackNo newE sv r

/-- Rows below h that change their place; spread entries repeat after n × (n − 1) rows. -/
def changeCount (oldE newE : Nat) (live sv : List Nat) (h : Nat) : Nat :=
  if oldE ≠ 16 ∧ newE ≠ 16 then if oldE = newE then 0 else h
  else
    let p := max 1 (live.length * sv.length)
    let c (n : Nat) : Nat := ((List.range n).filter (changes oldE newE live sv)).length
    h / p * c p + c (h % p)

/-- The units that a move copies (R209). -/
def moveUnits (live : List Nat) (m : Nat) (old new : List Nat) : Nat :=
  let sv := live.filter (· ≠ m)
  ((old.zip new).map (fun p => changeCount p.1 p.2 live sv (rowsPer sv.length))).sum

/-- The checks of STACK_RETIRE (R206; 18_registers_mailbox.md R424). -/
def retireCode (s : State) (m : Nat) : Nat :=
  let n := (liveStacks s).length
  firstCode [
    (decide (15 < m), Code.badArgument),
    (decide (s.get MEMCH_STATUS.STATE m = Fn.retired), Code.notPresent),
    (s.bit MEM_STATUS.MOVING, Code.stateConflict),
    (decide (n < 15), Code.stateConflict),
    (s.upset.elem MEM_ALLOC_TOP.addr, Code.configParity),
    (decide ((n - 1) * 49152 < s.get MEM_ALLOC_TOP), Code.stateConflict)]

/-- The checks of the mailbox command (R206). -/
def retireStackCheck (s : State) : Nat := retireCode s (mbxArg s 0)

/-- A stack begins to leave: the new top of memory, the units to copy (R207). -/
def retireGo (s : State) (m : Nat) : State :=
  let live := liveStacks s
  let old := stripeList s
  let total := moveUnits live m old (newMap live m old)
  let s := s.set MEM_TOP ((live.length - 1) * 48)
  let s := (setFnState s (MEMCH_STATUS.STATE.addr m) Fn.stopping).set MEMCH_STATUS.SCRUB_ACTIVE 0 m
  let s := ((s.set MEM_STATUS.MOVING 1).set MEM_STATUS.MOVE_STACK m).set MEM_MOVE_DONE 0
  s.set MEM_MOVE_TOTAL total

/-- The acceptance of STACK_RETIRE (R207). -/
def retireStack (s : State) : State :=
  let s := retireGo s (mbxArg s 0)
  mbxEnd s Code.done [s.get MEM_MOVE_TOTAL % 2 ^ 32]

/-- The next unit at or after a row of a bucket whose place changes. -/
def nextRow (oldE newE : Nat) (live sv : List Nat) (h : Nat) : Nat → Nat → Option Nat
  | 0, _ => none
  | k + 1, r => if h ≤ r then none else if changes oldE newE live sv r then some r else nextRow oldE newE live sv h k (r + 1)

/-- The next unit to copy at or after a place: bucket and row (R209). -/
def nextUnit (s : State) (live sv : List Nat) : Nat → Nat → Nat → Option (Nat × Nat)
  | 0, _, _ => none
  | k + 1, b, r =>
    if 4096 ≤ b then none
    else
      match nextRow (s.move.old.getD b 16) ((stripeOf s b).getD 16) live sv (rowsPer sv.length) 257 r with
      | some r => some (b, r)
      | none => nextUnit s live sv k (b + 1) 0

/-- The new map put in force (R207, R208). -/
def mapSwitch (s : State) : State :=
  if s.bit MEM_STATUS.MOVING ∧ !s.move.on then
    let live := liveStacks s
    let old := stripeList s
    let new := newMap live (s.get MEM_STATUS.MOVE_STACK) old
    let s := forEach ((List.range 4096).zip new) (fun s p => setStripe s p.1 (if p.2 = 16 then none else some p.2)) s
    let s := { s with move := { s.move with on := true, old := old, bucket := 0, row := 0
                                            paceAt := nowNs s, allow := 0 } }
    match nextUnit s live (survivors s) 4097 0 0 with
    | some p => { s with move := { s.move with bucket := p.1, row := p.2 } }
    | none => s
  else s

/-- The move has copied its last unit (R211). -/
def moveEnd (s : State) : State :=
  let m := s.get MEM_STATUS.MOVE_STACK
  let s := setFnState s (MEMCH_STATUS.STATE.addr m) Fn.retired
  let s := (s.set MEM_STATUS.MOVING 0).set MEM_STATUS.LIVE (s.get MEM_STATUS.LIVE - 2 ^ m)
  journal { s with move := { quotaDue := true } } { typ := 0x30, arg := 3 * 2 ^ 24 + m }

/-- The bytes that the pace of the copy allows by now: `MEM_MOVE_RATE` bytes a nanosecond (R209). -/
def moveAllow (s : State) : Nat :=
  s.move.allow + (nowNs s - s.move.paceAt) * min 256 (max 8 (s.get MEM_MOVE_RATE))

/-- The data of a unit at its new place: one with an uncorrectable error, logged in the retiring channel m, and every unit once
m has stopped answering, is poisoned; what was corrected is counted (R210, R212). -/
def copyUnit (s : State) (m a : Nat) (ces : List Nat) (ue : Bool) : State :=
  let s := forEach ces (fun s g => channelCe s m (a + g % 16 * 64)) s
  let s := if ue then channelUe s m a else s
  if ue ∨ s.get MEMCH_STATUS.STATE m = Fn.faulted then
    { s with mems := { s.mems with pDev := poisonWrite s.mems.pDev a 1024 true } }
  else s

/-- The next unit of the copy from its present place on; after the last the move ends (R209, R211). -/
def moveOn (s : State) : State :=
  match nextUnit s (liveStacks s) (survivors s) 4097 s.move.bucket s.move.row with
  | some p => { s with move := { s.move with bucket := p.1, row := p.2 } }
  | none => moveEnd s

/-- The copy of one unit once the pace allows it: read at its old place and written at its new one by the stack-move requester;
a parity mismatch in the rate pauses the move and its pace (R209, R210, R224). -/
def unitCopy (s : State) (ces : List Nat) (ue : Bool) : State :=
  if !s.bit MEM_STATUS.MOVING ∨ !s.move.on then s
  else if s.upset.elem MEM_MOVE_RATE.addr then { s with move := { s.move with paceAt := nowNs s } }
  else if moveAllow s < 1024 then s
  else
    let a := (s.move.row * 4096 + s.move.bucket) * 1024
    let s := { s with move := { s.move with paceAt := nowNs s, allow := moveAllow s - 1024 } }
    let s := copyUnit (raiseMem s 28 a 1024) (s.get MEM_STATUS.MOVE_STACK) a ces ue
    let s := raiseMem { s with move := { s.move with row := s.move.row + 1 } } 28 a 1024
    moveOn (s.bump MEM_MOVE_DONE)

/-- The bursts of 256 bytes that a stack holds (48 GiB). -/
abbrev stackBursts : Nat := 201326592

/-- Nanoseconds of a scrub pass: the period, clamped (R215, R223). -/
def scrubTime (s : State) (m : Nat) : Nat := min 168 (max 1 (s.get MEMCH_SCRUB_PERIOD m)) * 3600000000000

/-- The scrub pass of channel m with its start, the present one where none has begun. -/
def scrubAt (s : State) (m : Nat) : Scrub :=
  let p := mapGet (fun _ => {}) s.scrub m
  { p with since := some (p.since.getD (nowNs s)) }

/-- The state with the scrub pass of channel m replaced, and its progress shown (R223). -/
def setScrub (s : State) (m : Nat) (p : Scrub) : State :=
  { s.set MEMCH_SCRUB_PROGRESS (p.next * 1000 / stackBursts) m with scrub := mapPut (fun _ => {}) s.scrub m p }

/-- The pass after one more burst; the last one's successor begins a period after this began (R215). -/
def Scrub.step (p : Scrub) (time : Nat) : Scrub :=
  if p.next + 1 < stackBursts then { p with next := p.next + 1 }
  else { next := 0, since := p.since.map (· + time) }

/-- The channel's scrubber runs: the channel is RUNNING and its period's parity holds (R215, R224). -/
def scrubs (s : State) (m : Nat) : Bool :=
  s.get MEMCH_STATUS.STATE m == Fn.running && !(s.upset.elem (MEMCH_SCRUB_PERIOD.addr m))

/-- One locked read-check-write of the scrubber, evenly paced over the period; the beats of the burst with a corrected and with
an uncorrectable error are counted, the latter located and poisoned. A channel whose scrubber does not run shows no pass
(R215, R212, R223, R224; pace: log 354). -/
def scrubBurst (s : State) (m : Nat) (ces ues : List Nat) : State :=
  if !scrubs s m then s.set MEMCH_STATUS.SCRUB_ACTIVE 0 m
  else
    let p := scrubAt s m
    let time := scrubTime s m
    let s := s.set MEMCH_STATUS.SCRUB_ACTIVE 1 m
    if (nowNs s - p.since.getD 0) * stackBursts < p.next * time ∨ nowNs s < p.since.getD 0 then setScrub s m p
    else
      let a := Config.scrubUnit m p.next * 1024 + p.next % 4 * 256
      let s := raiseReq s (64 * m + Config.pseudoChannel (a / 1024) (p.next % 4) % 64) 25 8 true
      let s := forEach ces (fun s _ => (s.bumpSat MEMCH_CE_COUNT m).bumpSat MARGIN_STACK_CE m) s
      let s := forEach ues (fun s g => channelUe s m (a + g % 4 * 64)) s
      setScrub s m (p.step time)

/-- SCRUB_RESTART: the pass starts from offset 0 (R223). -/
def scrubRestart (s : State) (m : Nat) : State :=
  startInDomain s (144 + m) (fun s => setScrub s m { since := some (nowNs s) })

/-- START of a trained channel from STOPPED (R223). -/
def memchStart (s : State) (m : Nat) : State :=
  startInDomain s (144 + m) (fun s =>
    if (s.get MEM_STATUS.LIVE).testBit m then startFn s (MEMCH_STATUS.STATE.addr m) none else s)

/-- STACK_RETIRE (R206). -/
def execStackRetire (rq : Requester) (s : State) : Out := .next (mbxCommand s rq 0x10 retireStackCheck retireStack)

/-- STRIPE_MAP_SWITCH (R208). -/
def execStripeMapSwitch (s : State) : Out := .next (mapSwitch s)

/-- STACK_MOVE_UNIT_COPY (R209). -/
def execStackMoveUnitCopy (errs : UnitErrs) (s : State) : Out := .next (unitCopy s errs.ces errs.ue)

/-- SCRUB_BURST (R215). -/
def execScrubBurst (m : Nat) (ces ues : List Nat) (s : State) : Out :=
  .next (if m < 16 then scrubBurst s m ces ues else s)

/-- MEMCH_START (R223). -/
def execMemchStart (m : Nat) (s : State) : Out := .next (if m < 16 then memchStart s m else s)

/-- SCRUB_RESTART (R223). -/
def execScrubRestart (m : Nat) (s : State) : Out := .next (if m < 16 then scrubRestart s m else s)

end Sys2Proof.Machine
end

