-- ==== Sys2Proof/Machine/Contexts.lean ====
section
/-! DEFINITION. Residency, jobs, copies, windows and the host interface (09_contexts_tenants.md R227 to R244, R443). -/

namespace Sys2Proof.Machine

/-! ## Residency (R229, R230; 16_modes.md R390) -/

/-- The units of 256 bytes that a context's region takes. -/
def regionOf (g : Img) : Nat := (g.bytes.length + 255) / 256

/-- The resident slots of core n. -/
def fullSlots (s : State) (n : Nat) : List Nat := (List.range 4).filter (fun c => ((coreAt s n).slot c).valid)

/-- A region of `u` units at base `b` meets no region of the slots `l`. -/
def baseFits (s : State) (n : Nat) (l : List Nat) (u b : Nat) : Bool :=
  decide (b + u ≤ 512) && l.all (fun c =>
    let z := (coreAt s n).slot c
    decide (b + u ≤ z.base) || decide (z.base + z.size ≤ b))

/-- The lowest base at which a region fits beside the slots `l`: 0 or the end of one of them. -/
def lowBase (s : State) (n : Nat) (l : List Nat) (u : Nat) : Option Nat :=
  let ends := 0 :: l.map (fun c => ((coreAt s n).slot c).base + ((coreAt s n).slot c).size)
  (ends.filter (baseFits s n l u)).foldl (fun b c => match b with
    | some d => some (min d c)
    | none => some c) none

/-- A resident of slot c may be evicted: blocked, not pinned, not halted (R230; 06_core_streams.md R170). -/
def evictable (s : State) (n c : Nat) : Bool :=
  let y := ctxAt s ((coreAt s n).slot c).ctx
  blocked s n c && !y.pin && y.state == 3 && !((coreAt s n).slot c).halted

/-- Every resident is blocked, pinned, halted or FROZEN (R230). -/
def allRest (s : State) (n : Nat) : Bool :=
  (fullSlots s n).all (fun c =>
    let z := (coreAt s n).slot c
    let y := ctxAt s z.ctx
    blocked s n c || y.pin || z.halted || y.halt || y.state == 5)

/-- The candidates in the order of eviction: oldest PROGRESS, then lower context number (R230). -/
def evictOrder (s : State) (n : Nat) : List Nat :=
  let before (c d : Nat) : Bool :=
    let x := ((coreAt s n).slot c).ctx
    let y := ((coreAt s n).slot d).ctx
    decide ((ctxAt s x).progress < (ctxAt s y).progress) ||
      (decide ((ctxAt s x).progress = (ctxAt s y).progress) && decide (x < y))
  ((fullSlots s n).filter (evictable s n)).foldl (fun l c => l.takeWhile (fun d => before d c) ++ c :: l.dropWhile (fun d => before d c)) []

/-- The slots to evict so that a region of `u` units fits, in order; none where all candidates do not suffice. -/
def evictPlan (s : State) (n u : Nat) : List Nat → List Nat → Option (List Nat)
  | left, [] => if left.length < 4 ∧ (lowBase s n left u).isSome then some [] else none
  | left, c :: t =>
    if left.length < 4 ∧ (lowBase s n left u).isSome then some []
    else (evictPlan s n u (left.filter (· ≠ c)) t).map (c :: ·)

/-- The pacing rules refuse a context on a core: the cause (R169 of 06_core_streams.md). -/
def pacingClash (s : State) (n x : Nat) : Option Nat :=
  let g := (ctxAt s x).img
  let others := (fullSlots s n).map (fun c => (ctxAt s ((coreAt s n).slot c).ctx).img)
  if g.pacing = 1 ∧ others.any (fun h => h.cls == 0 || h.cls == 1) then some 0
  else if (g.cls = 0 ∨ g.cls = 1) ∧ others.any (fun h => h.pacing == 1) then some 1
  else none

/-- A core takes residents: usable, its domain on, not suspect, not stopped, not leaving or returning to service (03_calendar.md
R71; 16_modes.md R391; 14_journal_recovery.md R350, R351; 17_live_service.md R398). -/
def coreTakes (s : State) (fn n : Nat) : Bool :=
  coreAllotted s fn n && coreUsable s n && domOn s n && !suspect s n &&
    !(coreAt s n).retiring && !(coreAt s n).returning && !(coreAt s n).stopped && !(coreAt s n).cpFailed

/-- A skip by the pacing rules counted and recorded (16_modes.md R390). -/
def noteClash (s : State) (n x cause : Nat) : State :=
  ((s.bump CORE_MODE_CONFLICT.COUNT n).set CORE_MODE_CONFLICT.CAUSE cause n).set CORE_MODE_CONFLICT.CONTEXT x n

/-- The context loaded into a slot, its image copied into the region under the hallmark check (R229; 07_hallmark.md R193,
R194). HARD and FIRM contexts carry PIN. -/
def loadSlot (s : State) (n c b x : Nat) : State :=
  let y := ctxAt s x
  if hallmarkOk s y.imageAddr y.img then
    let k := coreAt s n
    let z := k.slot c
    let s := setCore s n (k.setSlot c { valid := true, ctx := x, base := b, size := regionOf y.img
                                        discarded := z.discarded, switches := z.switches, heldMark := nowNs s })
    let s := { s with mems := { s.mems with cmd := wrBytes s.mems.cmd (n * 0x40000 + b * 256) y.img.bytes } }
    let s := setCtx s x { y with state := 3, core := some n, live := y.saved, pin := y.pin || y.img.cls == 0 || y.img.cls == 1 }
    let w := groupAt s y.group
    let s := if w.clusters.elem (n / 8) then s else setGroup s y.group { w with clusters := w.clusters ++ [n / 8] }
    trace s n c 0 3 0 0 x 0
  else ctxFault s n x 0xFF Code.hallmarkReject 0

/-- The context placed on core n without or with evictions; none where it does not fit. -/
def placeOn (s : State) (n x : Nat) (evict : Bool) : Option State :=
  let u := regionOf (ctxAt s x).img
  let full := fullSlots s n
  let order := if evict then (if allRest s n then evictOrder s n else []) else []
  match evictPlan s n u full order with
  | none => none
  | some l =>
    let s := forEach l (fun s c =>
      let z := (coreAt s n).slot c
      let s := trace s n c 0 4 0 0 z.ctx 0
      leaveSlot s z.ctx 2) s
    let left := fullSlots s n
    match (List.range 4).find? (fun c => !left.elem c), lowBase s n left u with
    | some c, some b => some (loadSlot s n c b x)
    | _, _ => none

/-- The first core of a list on which the context can be placed. -/
def placeFirst (s : State) (x : Nat) (evict : Bool) : List Nat → Option State
  | [] => none
  | n :: t => match placeOn s n x evict with
    | some s => some s
    | none => placeFirst s x evict t

/-- The cores on which a context may be placed: those of the allotment; a HARD or FIRM context of the physical function goes to
the core of its cell that firmware names, where it names one (R229). -/
def coresFor (s : State) (x : Nat) (core : Option Nat) : List Nat :=
  let y := ctxAt s x
  let l := (List.range 128).filter (coreTakes s y.fn)
  match core with
  | some n => if y.fn = 256 ∧ y.img.cls < 2 then l.filter (· == n) else l
  | none => l



/-- A READY context is made resident: the cores of the allotment in ascending index, those with room first, then those where
blocked residents make room (R229, R230; 16_modes.md R390). -/
def makeResident (s : State) (x : Nat) (core : Option Nat) : State :=
  let y := ctxAt s x
  if y.state ≠ 2 ∨ y.halt ∨ frozen s y.fn ∨ (fnAt s y.fn).flr ≠ 0 then s
  else
    let cores := coresFor s x core
    let bad := cores.filterMap (fun n => (pacingClash s n x).map (fun c => (n, c)))
    let ok := cores.filter (fun n => (pacingClash s n x).isNone)
    let s := forEach bad (fun s p => noteClash s p.1 x p.2) s
    match placeFirst s x false ok with
    | some s => s
    | none => (placeFirst s x true ok).getD s

/-! ## Jobs (R235, R236) -/

/-- The declared shape of an image. -/
def shapeOf (g : Img) : Demand := { arr := g.shape.getD 0 0, mem := g.shape.getD 1 0, fab := g.shape.getD 2 0 }

/-- A context's pointers at each stream's first command and its counters at COUNTERS_INIT (R232). -/
def freshPointers (g : Img) : Pointers :=
  let p := (List.range 4).foldl (fun (p : Pointers) st => p.setStream st { pc := g.first.getD st 0 }) {}
  (List.range 16).foldl (fun p i => p.setToken i (g.tokens.getD i 0)) p

/-- A job starts every context of its group (R235). -/
def startJob (s : State) (g : Nat) (j : Job) : State :=
  let w := groupAt s g
  let s := setGroup s g { w with job := some j }
  forEach w.ctxs (fun s x =>
    let y := ctxAt s x
    let p := freshPointers y.img
    setCtx s x { y with state := if y.state = 3 then 3 else 2, halt := false, job := true, live := p, saved := p, replays := [] }) s

/-- A JOB of function f on its newest group with an IMAGE_ID: the code with which it is refused, or the state with it
admitted, running or waiting (R235). -/
def submitJob (s : State) (f id : Nat) (j : Job) : Except (Nat × State) State :=
  match newestGroup s f id with
  | none => .error (Code.notPresent, s)
  | some g =>
    let w := groupAt s g
    if 64 ≤ w.waiting.length then .error (Code.busy, s)
    else
      match admission s f (shapeOf (ctxAt s g).img) with
      | (false, s) => .error (Code.policed, s)
      | (true, s) =>
        if w.job.isSome then .ok (setGroup s g { groupAt s g with waiting := w.waiting ++ [j] })
        else .ok (startJob s g j)

/-- The KEY recorded for the newest group of a function with an IMAGE_ID, 0 where it has none (R234). -/
def groupKey (s : State) (f id : Nat) : Nat :=
  match newestGroup s f id with
  | some g => (ctxAt s g).img.key.toNat
  | none => 0

/-- A JOB entry (R234, R235). -/
def jobEntry (f : Nat) (e : Ent) (s : State) : State :=
  let key := groupKey s f (e.a % 2 ^ 32)
  match submitJob s f (e.a % 2 ^ 32) { fn := f, user := e.user } with
  | .ok s => s
  | .error (c, s) => pushCpl s f { code := c, typ := 1, image := e.a % 2 ^ 32, user := e.user, key := key }

/-- Every stream of a context has completed its last command. -/
def ctxDone (s : State) (x : Nat) : Bool :=
  let y := ctxAt s x
  !inFlight s x && y.replays.isEmpty && (List.range 4).all (fun st =>
    let t := y.live.stream st
    decide (y.img.last.getD st 0 ≤ t.pc) && t.dynLeft == 0 && t.parked.isNone)

/-- A context of a failed group has come to rest (R233). -/
def ctxRests (s : State) (x : Nat) : Bool :=
  let y := ctxAt s x
  y.state == 1 || y.state == 4 || (y.pin && y.state == 3 && !inFlight s x)

/-- The functions that were STOPPING and have nothing left to do are STOPPED (R443), and with the last of them the host
interface. -/
def settleStop (s : State) (f : Nat) : State :=
  let busy := (mapKeys s.groups).any (fun g => (groupAt s g).fn == f && ((groupAt s g).job.isSome || !(groupAt s g).waiting.isEmpty))
  let s :=
    if fnState s (hostFn f) = Fn.stopping ∧ (fnAt s f).flr = 0 ∧ !busy ∧ (fnAt s f).resWait.isEmpty ∧ (fnAt s f).cplWait.isEmpty then
      setFnState s (hostFn f) Fn.stopped
    else s
  if s.get HOST_STATUS.STATE = Fn.stopping ∧
      (List.range 257).all (fun g => let st := fnState s (hostFn g); st == Fn.stopped || st == Fn.absent) then
    s.set HOST_STATUS.STATE Fn.stopped
  else s

/-- The job of a group ends with a code: its record, its counts, the next job (R235, R236). -/
def endJob (s : State) (g : Nat) (code : Nat) (use : Demand) : State :=
  let w := groupAt s g
  match w.job with
  | none => s
  | some j =>
    let img := (ctxAt s g).img
    let s := if code = Code.done then forEach w.ctxs (fun s x => toIdle s x) s else s
    let s := forEach w.ctxs (fun s x => setCtx s x { ctxAt s x with job := false }) s
    let s := chargeExcess s j.fn (shapeOf img) use
    let s := countJob s j.fn (code == Code.done)
    let ctx := match j.failed with | some (_, x, _) => x | none => 0xFFFF
    let tag := match j.failed with | some (_, _, t) => t | none => 0
    let s := if j.fromRing then
        pushCpl s j.fn { code := code, typ := 1, ctx := ctx, image := img.id.toNat, user := j.user, key := img.key.toNat, tag := tag }
      else s
    let s := match j.sj with
      | some k => setSj s k { sjAt s k with stepCode := some code }
      | none => s
    let s := setGroup s g { groupAt s g with job := none }
    let s := match w.waiting with
      | [] => s
      | k :: t => startJob (setGroup s g { groupAt s g with waiting := t }) g k
    settleStop s j.fn

/-- The completion of a group's job: DONE once every stream of every context has completed, or the first teardown's code once
every other context has come to rest (R233, R235); a job in progress stays so while its tenant is frozen (R244). -/
def jobComplete (s : State) (g : Nat) (use : Demand) : State :=
  let w := groupAt s g
  if frozen s w.fn then s
  else
  match w.job with
  | none => s
  | some j =>
    match j.failed with
    | some (c, _, _) => if w.ctxs.all (ctxRests s) then endJob s g c use else s
    | none => if !w.ctxs.isEmpty && w.ctxs.all (ctxDone s) then endJob s g Code.done use else s

/-! ## Copies (R235, R238) -/

/-- The end of the run of bytes from a position that ranges cover. -/
def coveredTo (l : List (Nat × Nat)) : Nat → Nat → Nat
  | 0, a => a
  | k + 1, a =>
    match ((l.filter (fun r => decide (r.1 ≤ a) && decide (a < r.2))).map (·.2)).max? with
    | some h => coveredTo l k h
    | none => a

/-- Every byte of a range lies in a window of function f, each in whichever admits it (R235, R238). -/
def windowed (s : State) (f a n : Nat) (write : Bool) : Bool :=
  let ws := ((List.range 16).map (winAt s f)).filter (fun w => w.valid && (!write || !w.ro))
  decide (a + n ≤ coveredTo (ws.map (·.localRange (ownNode s))) 16 a)

/-- The code of a COPY of function f (R234, R235, R238, R239; 08_memory.md R203). -/
def copyCode (s : State) (f : Nat) (e : Ent) (write : Bool) : Nat :=
  firstCode [
    (decide (e.len = 0) || decide (2 ^ 32 < e.len), Code.badArgument),
    (!windowed s f e.b e.len write, Code.windowViolation),
    (decide (memTop s < e.b + e.len), Code.notPresent),
    (if write then devWriteCode s e.b e.len != Code.done else (devRead s e.b e.len).1 != Code.done, Code.denied)]

/-- COPY_IN: host memory to the function's windows. -/
def copyIn (f : Nat) (e : Ent) (s : State) : State :=
  let c := copyCode s f e true
  let s := if c = Code.done then homeWrite (raiseMem s 22 e.b e.len) e.b (rdBytes s.mems.host e.a e.len) false else s
  pushCpl s f { code := c, typ := 2, user := e.user }

/-- COPY_OUT: the function's windows to host memory; poisoned granules leave with the EP bit (08_memory.md R214). -/
def copyOut (f : Nat) (e : Ent) (s : State) : State :=
  let c := copyCode s f e false
  let s := if c = Code.done then
      forEach (piecesOf 64 e.b e.len) (fun s p =>
        let r := devRead s p.1 p.2
        hostStore (if r.2.2 then poisonSeenDev s p.1 else s) (e.a + (p.1 - e.b)) r.2.1 r.2.2) (raiseMem s 22 e.b e.len)
    else s
  pushCpl s f { code := c, typ := 3, user := e.user }

/-! ## Release (R235, R231) -/

/-- Two ranges share a byte. -/
def rangesMeet (a b : Nat × Nat) : Bool := decide (a.1 < a.2) && decide (b.1 < b.2) && decide (a.1 < b.2) && decide (b.1 < a.2)

/-- The ranges of cluster memory that a group's commands reach. -/
def groupSpans (s : State) (g : Nat) : List (Nat × Nat) := (groupAt s g).ctxs.flatMap (fun x => (ctxAt s x).img.spans)

/-- A range of a cluster memory filled with zeros. -/
def clusterZero (s : State) (cl a n : Nat) : State :=
  let k := cl * clusterBytes + a
  { s with mems := { s.mems with cluster := mapDropRange s.mems.cluster k (k + n)
                                 pCluster := mapDropRange s.mems.pCluster (k / 64) ((k + n) / 64) } }

/-- The ranges of cluster memory of a group that is released, filled with zeros in the clusters where it has run, but for what
another group still reaches (R231). -/
def clearSpans (s : State) (g : Nat) : State :=
  let others := ((mapKeys s.groups).filter (· != g)).flatMap (groupSpans s)
  let mine := (groupSpans s g).filter (fun r => !(others.any (fun o => rangesMeet (r.1, r.1 + r.2) (o.1, o.1 + o.2))))
  forEach (groupAt s g).clusters (fun s cl => forEach mine (fun s r => clusterZero s cl r.1 r.2) s) s

/-- A group freed: its contexts, their sealed images, its counters. -/
def freeGroup (s : State) (g : Nat) : State :=
  let w := groupAt s g
  let s := clearSpans s g
  let s := forEach w.ctxs (fun s x =>
    let s := match slotOf s x with
      | some (n, c) => freeSlot s n c
      | none => s
    let a := (ctxAt s x).imageAddr
    let s := dropReplays s x
    setCtx { s with images := mapErase s.images a } x {}) s
  recount (setGroup s g {}) w.fn

/-- RELEASE (R235). -/
def releaseEntry (f : Nat) (e : Ent) (s : State) : State :=
  let id := e.a % 2 ^ 32
  let l := groupsOf s f id
  let c := if l.isEmpty then Code.notPresent
    else if l.any (fun g => (groupAt s g).job.isSome || !(groupAt s g).waiting.isEmpty) then Code.stateConflict
    else Code.done
  let key := groupKey s f id
  let s := if c = Code.done then forEach l freeGroup s else s
  pushCpl s f { code := c, typ := 4, image := id, user := e.user, key := key }

/-! ## Windows (R237, R240) -/

/-- The window that the staging registers hold. -/
def staged (s : State) : Win :=
  { valid := s.bit HOST_WIN_ATTR.VALID, isGlobal := s.bit HOST_WIN_ATTR.GLOBAL, ro := s.bit HOST_WIN_ATTR.RO
    enc := s.bit HOST_WIN_ATTR.ENC, base := s.get2 HOST_WIN_BASE_LO HOST_WIN_BASE_HI, size := s.get HOST_WIN_SIZE }

/-- The code of a COMMIT (R237; 14_journal_recovery.md R360; ranges still being cleared: R242). -/
def commitCode (s : State) : Nat :=
  let f := s.get HOST_WIN_SEL.F
  let w := staged s
  let r := w.localRange (ownNode s)
  let some_ := decide (r.1 < r.2)
  let regs := [HOST_WIN_SEL.W.addr, HOST_WIN_BASE_LO.addr, HOST_WIN_BASE_HI.addr, HOST_WIN_SIZE.addr, HOST_WIN_ATTR.W.addr]
  let taken := (s.wins.any (fun p => decide (p.1 / 16 ≠ f) && p.2.valid && rangesMeet r (p.2.localRange (ownNode s)))) ||
    (s.winPend.any (fun p => decide (p.1 / 16 ≠ f) && p.2.valid && rangesMeet r (p.2.localRange (ownNode s))))
  let clearing := s.fns.any (fun p => p.2.clearing.any (fun c => rangesMeet r (c.1, c.1 + c.2)))
  firstCode [
    (regs.any s.upset.elem, Code.configParity),
    (decide (256 < f) || decide (w.size = 0) || decide (w.base % 65536 ≠ 0), Code.badArgument),
    (decide (f < 256) && (!s.bit HOST_VF_STATUS.CREATED f || s.bit HOST_VF_STATUS.REMOVING f), Code.stateConflict),
    (w.isGlobal && s.bit FIL_STATUS.PARTITIONED, Code.partitioned),
    (some_ && (decide (r.1 < 0x80000000) || decide (memTop s < r.2)), Code.denied),
    (taken || clearing, Code.denied)]

/-- COMMIT (R237). -/
def winCommit (s : State) : State :=
  let c := commitCode s
  let s := s.set HOST_WIN_RESULT c
  if c = Code.done then deferWin s (16 * s.get HOST_WIN_SEL.F + s.get HOST_WIN_SEL.WINDOW) (staged s) else s

/-- The staging registers with the values of a window. -/
def winStage (s : State) (w : Win) : State :=
  let b (x : Bool) : Nat := if x then 1 else 0
  let s := (s.set2 HOST_WIN_BASE_LO HOST_WIN_BASE_HI w.base).set HOST_WIN_SIZE w.size
  (((s.set HOST_WIN_ATTR.VALID (b w.valid)).set HOST_WIN_ATTR.GLOBAL (b w.isGlobal)).set HOST_WIN_ATTR.RO (b w.ro)).set
    HOST_WIN_ATTR.ENC (b w.enc)

/-- READ: the staging registers loaded from the selected window (R247). -/
def winRead (s : State) : State :=
  let s := winStage s (winAt s (s.get HOST_WIN_SEL.F) (s.get HOST_WIN_SEL.WINDOW))
  rewritten (rewritten (rewritten (rewritten s HOST_WIN_BASE_LO.addr) HOST_WIN_BASE_HI.addr) HOST_WIN_SIZE.addr)
    HOST_WIN_ATTR.W.addr

/-! ## The host interface and function sets (R443) -/

/-- Function f is present: the physical function, or a virtual function that is enabled (R247). -/
def fnHere (s : State) (f : Nat) : Bool := f == 256 || decide (f < s.get HOST_NUM_VF)

/-- The status register of the host interface. -/
abbrev hostIf : Nat := 0x60004

/-- START of a function set: the ring sizes are checked (R442, R443). -/
def fnStart (s : State) (f : Nat) : State :=
  startInDomain s 197 (fun s =>
    let bad := [s.get HOST_FN_RING_SIZE.CPL f, s.get HOST_FN_RING_SIZE.RES f, s.get HOST_FN_RING_SIZE.SUB f].any
      (fun k => decide (k < 4) || decide (12 < k))
    if fnHere s f then startFn s (hostFn f) (if bad then some Code.badArgument else none) else s)

/-- STOP of a function set; a FAULTED one is brought to STOPPED too, as R6 of 00_scope.md and R395 of 17_live_service.md say of
every function, where R443 names no such STOP (DEDUCED, log 338). -/
def fnStop (s : State) (f : Nat) : State :=
  let st := fnState s (hostFn f)
  if st = Fn.running then settleStop (setFnState s (hostFn f) Fn.stopping) f
  else if st = Fn.faulted ∧ (fnAt s f).flr = 0 then settleStop (setFnState s (hostFn f) Fn.stopped) f
  else s

/-- START of the host interface (R443). -/
def hostStart (s : State) : State := startInDomain s 197 (fun s => startFn s hostIf none)

/-- STOP of the host interface: applied to every function set that is not STOPPED (R443). -/
def hostStop (s : State) : State :=
  if s.get HOST_STATUS.STATE = Fn.running then
    settleStop (forEach (List.range 257) fnStop (s.set HOST_STATUS.STATE Fn.stopping)) 256
  else s

/-- NumVFs written by the host: functions below it are present, the others ABSENT (R247). -/
def numVfs (s : State) (n : Nat) : State :=
  let n := min n 256
  let s := s.set HOST_NUM_VF n
  forEach (List.range 256) (fun s t =>
    let st := fnState s (hostFn t)
    if t < n then (if st = Fn.absent then setFnState s (hostFn t) Fn.stopped else s)
    else setFnState s (hostFn t) Fn.absent) s

/-! ## Tenants (R239, R243, R244) -/

/-- A group of tenant t has a job in progress. -/
def tenantBusy (s : State) (t : Nat) : Bool := (mapKeys s.groups).any (fun g => (groupAt s g).fn == t && (groupAt s g).job.isSome)

/-- The first checks of the tenant commands: bits outside the fields, a function that is not enabled (18_registers_mailbox.md
R424). -/
def tenantArgs (s : State) (masks : List Nat) : List (Bool × Nat) :=
  [(!argsFit s masks, Code.badArgument), (vfOff s (mbxArg s 0), Code.notPresent)]

/-- TENANT_CREATE: CREATED is set and the counts are cleared (R236, R243). -/
def tenantCreate (s : State) : State :=
  let t := mbxArg s 0
  let s := s.set HOST_VF_STATUS.CREATED 1 t
  let s := (s.set2 HOST_JOBS_DONE_LO HOST_JOBS_DONE_HI 0 t).set2 HOST_JOBS_FAILED_LO HOST_JOBS_FAILED_HI 0 t
  mbxEnd s Code.done

/-- The check value of a key (R239). -/
def keyCheck (key : Bytes) : Nat :=
  let b := Config.aes256 (key.take 32) (List.replicate 16 0)
  (b.getD 0 0).toNat + (b.getD 1 0).toNat * 256

/-- KEY_SET: the key is read, zeros written over it, the check value published (R239; 18_registers_mailbox.md R424). -/
def keySet (s : State) : State :=
  let t := mbxArg s 0
  let a := mbxArg2 s 1
  let key := (devRead s a 64).2.1
  let s := devStore s a (List.replicate 64 0)
  let s := setFn s t { fnAt s t with key := key }
  let s := (s.set HOST_VF_STATUS.KEY_VALID 1 t).set HOST_VF_STATUS.KEY_CHECK (keyCheck key) t
  mbxEnd s Code.done [keyCheck key]

/-- TENANT_FREEZE (R244). -/
def tenantFreeze (s : State) : State :=
  let t := mbxArg s 0
  freezeSettle (setFn s t { fnAt s t with freezing := true, parityFroze := false }) t

/-- Every FROZEN context of a tenant returns to its earlier state (R244). -/
def thaw (s : State) (t : Nat) : State :=
  let s := forEach ((mapKeys s.ctxs).filter (fun x => (ctxAt s x).fn == t && (ctxAt s x).state == 5)) (fun s x =>
    setCtx s x { ctxAt s x with state := (ctxAt s x).thaw }) s
  let s := setFn s t { fnAt s t with freezing := false, parityFroze := false }
  (s.set HOST_VF_STATUS.FROZEN 0 t).set HOST_FN_STATUS.FROZEN 0 t

/-- The zero fill of a removed tenant's windows ends (R242). -/
def clearingEnd (s : State) (t : Nat) : State :=
  if s.bit HOST_VF_STATUS.CLEARING t then
    let s := forEach (fnAt s t).clearing (fun s r => devZero s r.1 r.2) s
    (setFn s t { fnAt s t with clearing := [] }).set HOST_VF_STATUS.CLEARING 0 t
  else s

/-! ## The commands -/

/-- CONTEXT_RESIDENT (R229). -/
def execContextResident (x : Residence) (s : State) : Out := .next (makeResident s x.ctx x.core)

/-- JOB (R235). -/
def execJob (f : Nat) (s : State) : Out := .next (entryRow f 1 (jobEntry f) s)

/-- COPY_IN (R235). -/
def execCopyIn (f : Nat) (s : State) : Out := .next (entryRow f 2 (copyIn f) s)

/-- COPY_OUT (R235). -/
def execCopyOut (f : Nat) (s : State) : Out := .next (entryRow f 3 (copyOut f) s)

/-- RELEASE (R235). -/
def execRelease (f : Nat) (s : State) : Out := .next (entryRow f 4 (releaseEntry f) s)

/-- JOB_COMPLETE (R235). -/
def execJobComplete (g arrUse memUse fabUse : Nat) (s : State) : Out :=
  .next (jobComplete s g { arr := arrUse, mem := memUse, fab := fabUse })

/-- WIN_COMMIT (R237). -/
def execWinCommit (s : State) : Out := .next (winCommit s)

/-- WIN_READ (R247). -/
def execWinRead (s : State) : Out := .next (winRead s)

/-- HOST_START (R247). -/
def execHostStart (s : State) : Out := .next (hostStart s)

/-- HOST_STOP (R247). -/
def execHostStop (s : State) : Out := .next (hostStop s)

/-- FN_START (R247). -/
def execFnStart (f : Nat) (s : State) : Out := .next (if f ≤ 256 then fnStart s f else s)

/-- FN_STOP (R247). -/
def execFnStop (f : Nat) (s : State) : Out := .next (if f ≤ 256 then fnStop s f else s)

/-- The checks of TENANT_CREATE. -/
def createCheck (s : State) : Nat :=
  firstCode (tenantArgs s [0xFF] ++ [(s.bit HOST_VF_STATUS.CREATED (mbxArg s 0), Code.stateConflict)])

/-- The checks of KEY_SET. -/
def keySetCheck (s : State) : Nat :=
  firstCode (tenantArgs s [0xFF, 0xFFFFFFFF, 0xFFFFFFFF] ++
    [(decide (mbxArg2 s 1 % 64 ≠ 0), Code.badArgument), (decide (memTop s ≤ mbxArg2 s 1), Code.notPresent),
     (tenantBusy s (mbxArg s 0), Code.stateConflict)])

/-- The checks of TENANT_FREEZE. -/
def freezeCheck (s : State) : Nat :=
  let t := mbxArg s 0
  firstCode (tenantArgs s [0xFF] ++
    [(!s.bit HOST_VF_STATUS.CREATED t || s.bit HOST_VF_STATUS.FROZEN t || decide ((fnAt s t).flr ≠ 0), Code.stateConflict)])

/-- The checks of TENANT_THAW. -/
def thawCheck (s : State) : Nat :=
  let t := mbxArg s 0
  firstCode (tenantArgs s [0xFF] ++ [(!s.bit HOST_VF_STATUS.FROZEN t || decide ((fnAt s t).flr ≠ 0), Code.stateConflict)])

/-- TENANT_CREATE (R243). -/
def execTenantCreate (rq : Requester) (s : State) : Out := .next (mbxCommand s rq 0x20 createCheck tenantCreate)

/-- CLEARING_END (R242). -/
def execClearingEnd (t : Nat) (s : State) : Out := .next (clearingEnd s t)

/-- KEY_SET (R239). -/
def execKeySet (rq : Requester) (s : State) : Out := .next (mbxCommand s rq 0x22 keySetCheck keySet)

/-- TENANT_FREEZE (R244). -/
def execTenantFreeze (rq : Requester) (s : State) : Out := .next (mbxCommand s rq 0x23 freezeCheck tenantFreeze)

/-- TENANT_THAW (R244). -/
def execTenantThaw (rq : Requester) (s : State) : Out :=
  .next (mbxCommand s rq 0x24 thawCheck (fun s => mbxEnd (thaw s (mbxArg s 0)) Code.done))

/-- NUMVFS_WRITE (R247). -/
def execNumvfsWrite (numVfs_ : Nat) (s : State) : Out := .next (numVfs s numVfs_)

/-- HOST_LINK_CHANGE (15_vigil.md R380). -/
def execHostLinkChange (up : Bool) (s : State) : Out :=
  .next (s.set HOST_STATUS.LINK_UP (if up && !s.vig.perst then 1 else 0))

end Sys2Proof.Machine
end

