-- ==== Sys2Proof/Machine/Beads.lean ====
section
/-! DEFINITION. The bead table (10_serving.md R248 to R251, R263). -/

namespace Sys2Proof.Machine

/-- The place of bead i in device memory (R248). -/
def beadBase (i : Nat) : Nat := 0x50000000 + 64 * i

/-- A field of a bead record: offset and bytes (R249). -/
abbrev BFld := Nat × Nat

abbrev BF.kind : BFld := (0x00, 1)
abbrev BF.state : BFld := (0x01, 1)
abbrev BF.cls : BFld := (0x02, 1)
abbrev BF.code : BFld := (0x03, 1)
abbrev BF.owner : BFld := (0x04, 2)
abbrev BF.slot : BFld := (0x06, 1)
abbrev BF.flags : BFld := (0x07, 1)
abbrev BF.admitTime : BFld := (0x08, 8)
abbrev BF.progress : BFld := (0x10, 8)
abbrev BF.user : BFld := (0x18, 8)
abbrev BF.head : BFld := (0x20, 4)
abbrev BF.tail : BFld := (0x24, 4)
abbrev BF.blocks : BFld := (0x28, 4)
abbrev BF.pos : BFld := (0x2C, 4)
abbrev BF.prompt : BFld := (0x30, 4)
abbrev BF.limit : BFld := (0x34, 4)
abbrev BF.payload : BFld := (0x38, 4)
abbrev BF.recomputes : BFld := (0x3C, 2)

/-- Kinds and states of beads (R249). -/
abbrev Bead.sequence : Nat := 1
abbrev Bead.flow : Nat := 2
abbrev Bead.session : Nat := 3
abbrev Bead.bulk : Nat := 4
abbrev Bead.waiting : Nat := 1
abbrev Bead.running : Nat := 2
abbrev Bead.leaving : Nat := 3
abbrev Bead.moving : Nat := 4
abbrev Bead.faulted : Nat := 5

/-- A field of bead i. -/
def bget (s : State) (i : Nat) (f : BFld) : Nat := leNat (rdBytes s.mems.dev (beadBase i + f.1) f.2)

/-- A field of bead i written through to device memory (R248). -/
def bput (s : State) (i : Nat) (f : BFld) (v : Nat) : State := devStore s (beadBase i + f.1) (bytesLe f.2 v)

/-- The beads in use, ascending. -/
def usedBeads (s : State) : List Nat :=
  s.mems.dev.filterMap (fun p =>
    if 0x50000000 ≤ p.1 ∧ p.1 < 0x54000000 ∧ p.1 % 64 = 0 then some ((p.1 - 0x50000000) / 64) else none)

/-- The record of bead i is poisoned (R251). -/
def beadBad (s : State) (i : Nat) : Bool := badDev s (beadBase i) 64

/-- A read of bead i met poison: seen in the table's status and in the channel (R251; 08_memory.md R214). -/
def beadPoison (s : State) (i : Nat) : State := poisonSeenDev (s.set BEAD_STATUS.POISON_SEEN 1) (beadBase i)

/-- A read of a record by way of the cache of 16,384, counted as hit or miss (R248). -/
def beadRead (s : State) (i : Nat) : State :=
  let hit := s.beadUse.elem i
  let s := if hit then s.bump BEAD_CACHE_HIT else raiseMem (s.bump BEAD_CACHE_MISS) 19 (beadBase i) 64
  { s with beadUse := (i :: s.beadUse.filter (· ≠ i)).take 16384 }

/-- Beads that owner f holds. -/
def beadsHeld (s : State) (f : Nat) : Nat := ((usedBeads s).filter (fun i => bget s i BF.owner == fnField f)).length

/-- The counts published (R263). -/
def beadCount (s : State) (f : Nat) : State :=
  let s := s.set BEAD_FREE (1048576 - (usedBeads s).length)
  if f < 256 then s.set BEAD_COUNT (beadsHeld s f) f else s

/-- A register whose stored bits are in doubt (18_registers_mailbox.md R412). -/
def doubted (s : State) (o : Nat) : Bool := s.upset.elem o || s.behaveReset.elem o

/-- The lowest FREE index of the range of a kind (R250). -/
def lowBead (s : State) (kind : Nat) : Nat :=
  (usedBeads s).foldl (fun i b => if b = i then i + 1 else i)
    (if kind = Bead.flow ∨ kind = Bead.session then 0 else s.get BEAD_RADIO_RESERVE)

/-- The end of the range of a kind (R250). -/
def beadEnd (s : State) (kind : Nat) : Nat :=
  if kind = Bead.flow ∨ kind = Bead.session then min 1048576 (s.get BEAD_RADIO_RESERVE) else 1048576

/-- The index that a new bead of a kind and an owner takes; none where it cannot be placed (R250, R263). -/
def placeBead (s : State) (kind f : Nat) : Option Nat :=
  let i := lowBead s kind
  if beadEnd s kind ≤ i ∨ doubted s BEAD_RADIO_RESERVE.addr then none
  else if f < 256 ∧ (doubted s (BEAD_LIMIT.addr f) ∨ s.get BEAD_LIMIT f ≤ beadsHeld s f) then none
  else some i

/-- A new record (R249). -/
def newBead (s : State) (i kind state cls f slot admitted user : Nat) (data : Bytes) : State :=
  let l := bytesLe 1 kind ++ bytesLe 1 state ++ bytesLe 1 cls ++ bytesLe 1 0 ++ bytesLe 2 (fnField f) ++ bytesLe 1 slot ++
    bytesLe 1 0 ++ bytesLe 8 admitted ++ bytesLe 8 (nowN s) ++ bytesLe 8 user ++ data ++ bytesLe (32 - data.length) 0
  beadCount (devStore s (beadBase i) l) f

/-- The admission stamp max(I, previous stamp + 1), and the state with it taken (R256). -/
def admitStamp (s : State) : Nat × State :=
  let t := match s.beadStamp with
    | some p => max (issueTime s) (p + 1)
    | none => issueTime s
  (t, { issue s with beadStamp := some t })

/-- Bead i becomes FREE: its record reads zero. -/
def freeBead (s : State) (i : Nat) : State :=
  let o := bget s i BF.owner
  beadCount (devStore s (beadBase i) (List.replicate 64 0)) o

/-- Beads in use would lie on the wrong side of a boundary (R250). -/
def wrongSide (s : State) (b : Nat) : Bool :=
  (usedBeads s).any (fun i =>
    let k := bget s i BF.kind
    if k = Bead.flow ∨ k = Bead.session then decide (b ≤ i) else decide (i < b))

/-- A write of `BEAD_RADIO_RESERVE` (R250). -/
def reserveWrite (s : State) (v : Word) : State :=
  let b := v.toNat % 2 ^ 21
  if wrongSide s b then s.set BEAD_STATUS.LIMIT_WRITE_REJECT 1
  else
    let o := BEAD_RADIO_RESERVE.addr
    rewritten (s.set BEAD_RADIO_RESERVE b) o

/-- RADIO_RESERVE_WRITE (R250). -/
def execRadioReserveWrite (v : Word) (s : State) : Out := .next (reserveWrite s v)

end Sys2Proof.Machine
end

