-- ==== Sys2Proof/Machine/Serving.lean ====
section
/-! DEFINITION. Serving jobs: slots, requests and events, pages, the step, and moves of sequences (10_serving.md R252 to
R262). -/

namespace Sys2Proof.Machine

/-! ## A slot's window and structures (R252) -/

/-- The status register of slot j. -/
def sjFn (j : Nat) : Nat := BEAD_SJ_STATUS.STATE.addr j

def sjOwner (s : State) (j : Nat) : Nat := s.get BEAD_SJ_CFG.OWNER j
def sjWin (s : State) (j : Nat) : Win := winAt s (sjOwner s j) (s.get BEAD_SJ_CFG.WIN j)
def sjT (s : State) (j : Nat) : Nat := s.get BEAD_SJ_GEOM.T j
def sjG (s : State) (j : Nat) : Nat := s.get BEAD_SJ_GEOM.G j
def sjMax (s : State) (j : Nat) : Nat := s.get BEAD_SJ_CFG.MAX_BATCH_M1 j + 1
def sjPages (s : State) (j : Nat) : Nat := s.get BEAD_SJ_POOL_PAGES j
def poolAt (s : State) (j : Nat) : Nat := s.get BEAD_SJ_POOL_OFF j * 65536
def linkAtOff (s : State) (j : Nat) : Nat := s.get BEAD_SJ_LINK_OFF j * 4096
def reqAt (s : State) (j : Nat) : Nat := s.get BEAD_SJ_REQ_OFF j * 4096
def evtAt (s : State) (j : Nat) : Nat := s.get BEAD_SJ_EVT_OFF j * 4096
def batchAt (s : State) (j : Nat) : Nat := s.get BEAD_SJ_BATCH_OFF j * 4096
def reqLen (s : State) (j : Nat) : Nat := 2 ^ s.get BEAD_SJ_RING_SIZE.REQ j
def evtLen (s : State) (j : Nat) : Nat := 2 ^ s.get BEAD_SJ_RING_SIZE.EVT j

/-- The poll time as it acts (R263). -/
def sjPoll (s : State) (j : Nat) : Nat := max 1000 (min 1000000 (s.get BEAD_SJ_POLL j))

/-- The structures of slot j: offset and length in W (R252, R254, R255, R259). -/
def sjStructs (s : State) (j : Nat) : List (Nat × Nat) :=
  [(poolAt s j, sjPages s j * 65536), (linkAtOff s j, sjPages s j * 4), (reqAt s j, 128 + 64 * reqLen s j),
   (evtAt s j, 128 + 32 * evtLen s j),
   (batchAt s j, 64 + sjMax s j * 64 + sjMax s j * (s.get BEAD_SJ_BLOCKS_MAX j * sjG s j * 4))]

/-- Two of a list of ranges share a byte. -/
def anyMeet : List (Nat × Nat) → Bool
  | [] => false
  | a :: t => t.any (fun b => rangesMeet (a.1, a.1 + a.2) (b.1, b.1 + b.2)) || anyMeet t

/-- START's check of slot j (R252, and the ranges of CHUNK and BLOCKS_MAX: R263, 00_scope.md R442). -/
def sjCheck (s : State) (j : Nat) : Option Nat :=
  let w := sjWin s j
  let o := sjOwner s j
  let r := [s.get BEAD_SJ_RING_SIZE.EVT j, s.get BEAD_SJ_RING_SIZE.REQ j]
  if !s.bit HOST_VF_STATUS.CREATED o || !w.valid || w.isGlobal || (newestGroup s o (s.get BEAD_SJ_IMAGE j)).isNone ||
      (sjStructs s j).any (fun p => decide (w.size * 65536 < p.1 + p.2)) || anyMeet (sjStructs s j) ||
      sjT s j == 0 || sjG s j == 0 || r.any (fun k => decide (k < 4) || decide (12 < k)) ||
      s.get BEAD_SJ_CHUNK j == 0 || s.get BEAD_SJ_BLOCKS_MAX j == 0 ||
      sjPages s j == 0 || sjPages s j % sjG s j != 0 then some Code.badArgument
  else none

/-- An access of the controller to the window in force: the code, DONE where it is admitted (R252). -/
def sjCode (s : State) (j o n : Nat) (write : Bool) : Nat :=
  let w := sjWin s j
  if !w.valid || w.isGlobal || decide (w.size * 65536 < o + n) || (write && w.ro) then Code.windowViolation
  else if write then devWriteCode s (w.base + o) n
  else
    match devRead s (w.base + o) n with
    | (c, _, bad) => if c ≠ Code.done then c else if bad then Code.uncorrectable else Code.done

/-- Bytes of W. -/
def sjBytes (s : State) (j o n : Nat) : Bytes := (devRead s ((sjWin s j).base + o) n).2.1

/-- A step of the controller's work on slot j: done, or ended by a fault with its code. -/
abbrev SjR := State × Option Nat

/-- The next piece of work where no fault has ended it. -/
def SjR.andThen (r : SjR) (f : State → SjR) : SjR := match r.2 with | some _ => r | none => f r.1

/-- Work over a list, ended by a fault. -/
def sjEach {α : Type} (l : List α) (f : State → α → SjR) (s : State) : SjR :=
  l.foldl (fun r a => r.andThen (fun s => f s a)) (s, none)

/-- A write of the controller to W (R252, R251). -/
def sjWrite (j o : Nat) (l : Bytes) (s : State) : SjR :=
  let c := sjCode s j o l.length true
  if c = Code.done then (homeWrite s ((sjWin s j).base + o) l false, none) else (s, some c)

/-- A read of the controller from W, handed on. -/
def sjRead (j o n : Nat) (f : Bytes → State → SjR) (s : State) : SjR :=
  let c := sjCode s j o n false
  if c = Code.done then f (sjBytes s j o n) s
  else (if c = Code.uncorrectable then poisonSeenDev s ((sjWin s j).base + o) else s, some c)

/-- A read of bead i's record by the controller: one access of the cache; poison faults the slot (R248, R251). -/
def seeBead (i : Nat) (s : State) : SjR :=
  let s := beadRead s i
  if beadBad s i then (beadPoison s i, some Code.uncorrectable) else (s, none)

/-- The outcome of the controller's work: a fault takes the slot to FAULTED with its code (R251, R252). -/
def sjEnd (j : Nat) (r : SjR) : State := match r.2 with | some c => faultFn r.1 (sjFn j) c | none => r.1

/-! ## Beads of a slot -/

/-- The SEQUENCE beads of slot j, ascending. -/
def sjBeads (s : State) (j : Nat) : List Nat :=
  (usedBeads s).filter (fun i => bget s i BF.kind == Bead.sequence && bget s i BF.slot == j)

/-- A bead is older than another: ascending ADMIT, the lower index on a tie (R257). -/
def older (s : State) (a b : Nat) : Bool :=
  let x := bget s a BF.admitTime
  let y := bget s b BF.admitTime
  decide (x < y) || (decide (x = y) && decide (a < b))

/-- The beads of slot j in a state, in age order. -/
def sjIn (s : State) (j st : Nat) : List Nat :=
  ((sjBeads s j).filter (fun i => bget s i BF.state == st)).foldl
    (fun l i => l.takeWhile (fun k => older s k i) ++ i :: l.dropWhile (fun k => older s k i)) []

/-- The slot's read-only counts published (R263). -/
def sjPublish (s : State) (j : Nat) : State :=
  let x := sjAt s j
  let s := s.set BEAD_SJ_FREE_PAGES (sjPages s j - x.busy.length) j
  let s := s.set BEAD_SJ_PENDING_PAGES x.pend.length j
  let s := s.set BEAD_SJ_WAITING (sjIn s j Bead.waiting).length j
  s.set BEAD_SJ_STATUS.EVT_FULL (if x.evWait.isEmpty then 0 else 1) j

/-! ## Events (R255) -/

abbrev Ev.admitted : Nat := 0
abbrev Ev.refused : Nat := 1
abbrev Ev.joined : Nat := 2
abbrev Ev.left_ : Nat := 3
abbrev Ev.evicted : Nat := 4
abbrev Ev.movedOut : Nat := 5
abbrev Ev.movedIn : Nat := 6
abbrev Ev.moveFailed : Nat := 7

/-- The owner of slot j is FROZEN, or is being frozen: the controller reads no ring (R261). -/
def sjFrozen (s : State) (j : Nat) : Bool := frozen s (sjOwner s j)

/-- Waiting event records written while the ring has room, each told by vector 3; they wait while the owner is FROZEN
(R261). -/
def evtDrain (j : Nat) : Nat → State → SjR
  | 0, s => (s, none)
  | k + 1, s =>
    match (if sjFrozen s j then [] else (sjAt s j).evWait) with
    | [] => (s, none)
    | r :: rest =>
      let n := evtLen s j
      sjRead j (evtAt s j) 128 (fun h s =>
        let t := le h 0 4 % n
        if ringFull t (le h 0x40 4 % n) n then (s, none)
        else
          (((sjWrite j (evtAt s j + 128 + 32 * t) r s).andThen (sjWrite j (evtAt s j) (bytesLe 4 ((t + 1) % n)))).andThen
            (fun s => evtDrain j k (raiseMsix (setSj s j { sjAt s j with evWait := rest }) (sjOwner s j) 3)))) s

/-- An event of slot j: written, or kept until the tenant frees space. -/
def event (j code ev bead user : Nat) (s : State) : SjR :=
  let r := bytesLe 1 code ++ bytesLe 1 ev ++ bytesLe 2 0 ++ bytesLe 4 bead ++ bytesLe 8 user ++
    bytesLe 8 (s.get2 BEAD_SJ_STEP_LO BEAD_SJ_STEP_HI j) ++ bytesLe 8 (nowN s)
  let s := setSj s j { sjAt s j with evWait := (sjAt s j).evWait ++ [r] }
  evtDrain j (sjAt s j).evWait.length s

/-- An event about a bead with its own USER. -/
def eventOf (j code ev i : Nat) (s : State) : SjR := event j code ev i (bget s i BF.user) s

/-! ## Pages (R254) -/

abbrev noPage : Nat := 0xFFFFFFFF

/-- The lowest free page at or above a page. -/
def nextPage (busy : SMap Bool) (p : Nat) : Nat := busy.foldl (fun i b => if b.1 = i then i + 1 else i) p

/-- The `n` lowest free pages from a page on. -/
def lowPages (busy : SMap Bool) : Nat → Nat → List Nat
  | 0, _ => []
  | n + 1, p => nextPage busy p :: lowPages busy n (nextPage busy p + 1)

/-- Free pages of slot j (R257). -/
def freePages (s : State) (j : Nat) : Nat := sjPages s j - (sjAt s j).busy.length

/-- Pages marked in use or free. -/
def markPages (s : State) (j : Nat) (l : List Nat) (v : Bool) : State :=
  setSj s j { sjAt s j with busy := l.foldl (fun m p => mapPut clean0 m p v) (sjAt s j).busy }

/-- The page list from a page on, `n` entries at most, handed on (R254). -/
def walkPages (j : Nat) (f : List Nat → State → SjR) : Nat → Nat → List Nat → State → SjR
  | 0, _, acc, s => f acc s
  | n + 1, p, acc, s =>
    if sjPages s j ≤ p then f acc s
    else sjRead j (linkAtOff s j + 4 * p) 4 (fun b s => walkPages j f n (leNat b) (acc ++ [p]) s) s

/-- The pages of a bead in list order, handed on. -/
def withPages (j i : Nat) (f : List Nat → State → SjR) (s : State) : SjR :=
  walkPages j f (bget s i BF.blocks * sjG s j) (bget s i BF.head) [] s

/-- One page appended to a bead's list at PAGE_TAIL. -/
def appendPage (j i : Nat) (s : State) (p : Nat) : SjR :=
  let t := bget s i BF.tail
  let s := markPages s j [p] true
  (sjWrite j (linkAtOff s j + 4 * p) (bytesLe 4 noPage) s).andThen (fun s =>
    if t = noPage then (bput (bput s i BF.head p) i BF.tail p, none)
    else (sjWrite j (linkAtOff s j + 4 * t) (bytesLe 4 p) s).andThen (fun s => (bput s i BF.tail p, none)))

/-- `n` pages allocated to a bead, in ascending page number (R254). -/
def allocate (j i n : Nat) (s : State) : SjR :=
  (sjEach (lowPages (sjAt s j).busy n 0) (appendPage j i) s).andThen (fun s =>
    (bput s i BF.blocks (bget s i BF.blocks + n / max 1 (sjG s j)), none))

/-- A bead's list emptied. -/
def emptyList (s : State) (i : Nat) : State := bput (bput (bput s i BF.head noPage) i BF.tail noPage) i BF.blocks 0

/-- The tokens by which a bead advances (R257). -/
def advanceOf (s : State) (j i : Nat) : Nat :=
  let p := bget s i BF.pos
  let q := bget s i BF.prompt
  if p < q then min (s.get BEAD_SJ_CHUNK j) (q - p) else 1

/-- Pages that a bead needs for its advance (R254). -/
def needOf (s : State) (j i : Nat) : Nat :=
  let t := max 1 (sjT s j)
  sjG s j * ((bget s i BF.pos + advanceOf s j i + t - 1) / t - bget s i BF.blocks)

/-! ## The boundary (R256 to R259, R262) -/

/-- The end of a move that fails: the bead returns to WAITING with its pages (R262). -/
def moveFail (j i code : Nat) (s : State) : SjR :=
  let s := mbxEnd s code
  (eventOf j code Ev.moveFailed i (bput (bput s i BF.state Bead.waiting) i BF.code code))

/-- The poisoned granules of a list of pages: index of the page, granule (08_memory.md R213). -/
def badGranules (s : State) (j : Nat) (l : List Nat) : List (Nat × Nat) :=
  (l.zip (List.range l.length)).flatMap (fun q =>
    ((List.range 1024).filter (fun g => badDev s ((sjWin s j).base + poolAt s j + q.1 * 65536 + 64 * g) 64)).map (fun g => (q.2, g)))

/-- The first refusal of an access to the pages of a list; poison does not stop a copy (R252; 08_memory.md R213). -/
def pagesCode (s : State) (j : Nat) (l : List Nat) : Nat :=
  firstCode (l.map (fun p =>
    let c := sjCode s j (poolAt s j + p * 65536) 65536 false
    (c != Code.done && c != Code.uncorrectable, c)))

/-- A move that cannot read its bead's list or pages fails, and the slot faults with the code (R252, R262). -/
def moveBroken (j i : Nat) (r : SjR) : SjR :=
  match r with
  | (s, some c) => (moveFail j i c s).andThen (fun s => (s, some c))
  | (s, none) => (s, none)

/-- A move asked for begins: the bead becomes MOVING, and its record and pages leave as one bulk transfer, under a stamp, poison
with them (R262 steps 1 and 2; 02_almanac.md R37, R39; 08_memory.md R213). -/
def moveOut (j : Nat) (s : State) : SjR :=
  match (sjAt s j).asked with
  | none => (s, none)
  | some (i, node, slot) =>
    let s := setSj s j { sjAt s j with asked := none }
    let st := bget s i BF.state
    if !(sjBeads s j).elem i ∨ (st ≠ Bead.waiting ∧ st ≠ Bead.running) then
      event j Code.stateConflict Ev.moveFailed i (bget s i BF.user) (mbxEnd s Code.stateConflict)
    else
      match placeBead s Bead.bulk 256 with
      | none => moveFail j i Code.busy s
      | some b =>
        moveBroken j i (withPages j i (fun l s =>
          let c := pagesCode s j l
          if c ≠ Code.done then (s, some c)
          else
            let pages := l.map (fun p => sjBytes s j (poolAt s j + p * 65536) 65536)
            let m : BeadMoveMsg := { src := ownNode s, srcBead := i, t := sjT s j, g := sjG s j
                                     record := rdBytes s.mems.dev (beadBase i) 64, pages := pages
                                     stamp := BitVec.ofNat 32 (issueTime s), poison := badGranules s j l }
            let s := issue s
            let k := 16 * l.length
            let s := newBead s b Bead.bulk Bead.running 2 256 0xFF (nowN s) 0
              (bytesLe 4 node ++ bytesLe 4 k ++ bytesLe 4 k ++ bytesLe 4 0)
            let s := bput s i BF.state Bead.moving
            let s := setSj s j { sjAt s j with moving := some (i, b) }
            (emit s (.beadMove node slot m), none)) s)

/-- The leaves (R257 step 1). -/
def leaves (j : Nat) (s : State) : SjR :=
  sjEach (sjIn s j Bead.leaving) (fun s i =>
    withPages j i (fun l s =>
      let u := bget s i BF.user
      let s := setSj s j { sjAt s j with pend := (sjAt s j).pend ++ l }
      event j Code.done Ev.left_ i u (freeBead s i)) s) s

/-- An ADMIT (R256). -/
def admitReq (j : Nat) (e : Bytes) (s : State) : SjR :=
  let o := sjOwner s j
  let prompt := le e 0x10 4
  let lim := le e 0x14 4
  let user := le e 0x08 8
  let t := max 1 (sjT s j)
  let refuse (c : Nat) (s : State) : SjR :=
    let (k, s) := takeFree s
    event j c Ev.refused (Config.freeValue k % 2 ^ 32) user s
  if le e 0 1 ≠ 0 ∨ le e 1 3 ≠ 0 ∨ le e 0x28 24 ≠ 0 ∨ prompt = 0 ∨ lim < prompt then refuse Code.badArgument s
  else
    let blocks := (lim + t - 1) / t
    if s.get BEAD_SJ_BLOCKS_MAX j < blocks ∨ sjPages s j < blocks * sjG s j then refuse Code.badArgument s
    else
      match placeBead s Bead.sequence o with
      | none => refuse Code.busy s
      | some i =>
        match admission s o { arr := le e 0x1C 4, mem := le e 0x20 4, fab := le e 0x24 4 } with
        | (false, s) => refuse Code.policed s
        | (true, s) =>
          let (stamp, s) := admitStamp s
          let s := newBead s i Bead.sequence Bead.waiting 2 o j stamp user
            (bytesLe 4 noPage ++ bytesLe 4 noPage ++ bytesLe 4 0 ++ bytesLe 4 0 ++ bytesLe 4 prompt ++ bytesLe 4 lim ++
              bytesLe 4 (le e 0x18 4))
          event j Code.done Ev.admitted i user s

/-- A LEAVE (R256). -/
def leaveReq (j : Nat) (e : Bytes) (s : State) : SjR :=
  let i := le e 4 4
  if !(sjBeads s j).elem i then event j Code.notPresent Ev.refused i (le e 8 8) s
  else (seeBead i s).andThen (fun s =>
    if bget s i BF.state = Bead.waiting then
      withPages j i (fun l s =>
        let u := bget s i BF.user
        event j Code.done Ev.left_ i u (freeBead (markPages s j l false) i)) s
    else if bget s i BF.state = Bead.running then (bput s i BF.state Bead.leaving, none)
    else (s, none))

/-- The requests from HEAD up to a TAIL, in ring order; then HEAD is written (R256). -/
def requests (j tail : Nat) (s : State) : SjR :=
  let n := reqLen s j
  sjRead j (reqAt s j + 0x40) 4 (fun hb s =>
    let h := leNat hb % n
    let count := (tail % n + n - h) % n
    (sjEach (List.range count) (fun s k =>
      sjRead j (reqAt s j + 128 + 64 * ((h + k) % n)) 64 (fun e s =>
        if le e 0 1 = 1 then leaveReq j e s else admitReq j e s) s) s).andThen (fun s =>
      if count = 0 then (s, none) else sjWrite j (reqAt s j + 0x40) (bytesLe 4 (tail % n)) s)) s

/-- A bead evicted (R258). -/
def evict (j i : Nat) (s : State) : SjR :=
  (seeBead i s).andThen (withPages j i (fun l s =>
    let s := markPages s j l false
    let s := emptyList s i
    let s := bput s i BF.prompt (bget s i BF.pos)
    let s := bput (bput s i BF.pos 0) i BF.state Bead.waiting
    let s := bput (bput s i BF.flags 1) i BF.code Code.pagesExhausted
    let s := bput s i BF.recomputes (min 0xFFFF (bget s i BF.recomputes + 1))
    eventOf j Code.pagesExhausted Ev.evicted i (s.bump BEAD_SJ_EVICT_COUNT j)))

/-- Youngest RUNNING beads evicted until a bead has its pages or is evicted itself; the evicted ones (R257 step 3). -/
def makeRoom (j i : Nat) : Nat → List Nat → State → SjR × List Nat
  | 0, ev, s => ((s, none), ev)
  | k + 1, ev, s =>
    if needOf s j i ≤ freePages s j ∨ bget s i BF.state ≠ Bead.running then ((s, none), ev)
    else
      match (sjIn s j Bead.running).getLast? with
      | none => ((s, none), ev)
      | some y =>
        match evict j y s with
        | (s, some c) => ((s, some c), ev)
        | (s, none) => makeRoom j i k (y :: ev) s

/-- Pages for the running rows; the evicted beads (R257 step 3). -/
def rowPages (j : Nat) (s : State) : SjR × List Nat :=
  (sjIn s j Bead.running).foldl (fun (r : SjR × List Nat) i =>
    match r with
    | ((s, some c), ev) => ((s, some c), ev)
    | ((s, none), ev) =>
      if bget s i BF.state ≠ Bead.running then r
      else
        match makeRoom j i (sjBeads s j).length ev s with
        | ((s, some c), ev) => ((s, some c), ev)
        | ((s, none), ev) =>
          if bget s i BF.state = Bead.running then (allocate j i (needOf s j i) s, ev) else ((s, none), ev)) ((s, none), [])

/-- The advance of a joining bead and the pages that it needs, as step 4 of R257 states them. -/
def joinAdvance (s : State) (j w : Nat) : Nat := min (s.get BEAD_SJ_CHUNK j) (bget s w BF.prompt)
def joinNeed (s : State) (j w : Nat) : Nat :=
  let t := max 1 (sjT s j)
  sjG s j * ((joinAdvance s j w + t - 1) / t)

/-- The joins; the joined beads, newest first (R257 step 4). -/
def joins (j : Nat) : List Nat → List Nat → State → SjR × List Nat
  | [], jn, s => ((s, none), jn)
  | w :: rest, jn, s =>
    if sjMax s j ≤ (sjIn s j Bead.running).length then ((s, none), jn)
    else
      let need := joinNeed s j w
      if freePages s j < need then ((s.bump BEAD_SJ_DEFER_COUNT j, none), jn)
      else
        match (allocate j w need s).andThen (fun s => eventOf j Code.done Ev.joined w (bput s w BF.state Bead.running)) with
        | (s, some c) => ((s, some c), jn)
        | (s, none) => joins j rest (w :: jn) s

/-- A row descriptor (R259). -/
def rowDesc (s : State) (i a : Nat) (joined : Bool) : Bytes :=
  bytesLe 4 i ++ bytesLe 4 (bget s i BF.pos) ++ bytesLe 4 a ++ bytesLe 4 (bget s i BF.prompt) ++ bytesLe 4 (bget s i BF.blocks) ++
  bytesLe 4 ((if joined then 1 else 0) + 2 * (bget s i BF.flags % 2)) ++ bytesLe 8 (bget s i BF.user) ++ bytesLe 32 0

/-- The page lists of rows, each padded with zeros, handed on (R259). -/
def pageRows (j w : Nat) (f : Bytes → State → SjR) : List Nat → Bytes → State → SjR
  | [], acc, s => f acc s
  | i :: t, acc, s =>
    withPages j i (fun l s =>
      pageRows j w f t (acc ++ (l.take w).flatMap (bytesLe 4) ++ bytesLe (4 * (w - l.length)) 0) s) s

/-- The batch table written (R259). -/
def batchTable (j : Nat) (rows : List (Nat × Nat)) (joined : List Nat) (s : State) : SjR :=
  let w := s.get BEAD_SJ_BLOCKS_MAX j * sjG s j
  let m := sjMax s j
  let head := bytesLe 8 (s.get2 BEAD_SJ_STEP_LO BEAD_SJ_STEP_HI j) ++ bytesLe 4 rows.length ++
    bytesLe 4 (s.get BEAD_SJ_BLOCKS_MAX j) ++ bytesLe 4 (sjG s j) ++ bytesLe 44 0
  let desc := rows.flatMap (fun r => rowDesc s r.1 r.2 (joined.elem r.1)) ++ bytesLe (64 * (m - rows.length)) 0
  pageRows j w (fun b s =>
    sjWrite j (batchAt s j) (head ++ desc ++ b ++ bytesLe (4 * w * (m - rows.length)) 0) s) (rows.map (·.1)) [] s

/-- The step submitted on the owner's behalf; a POLICED one waits (R257, R261; 09_contexts_tenants.md R235). -/
def submitStep (j : Nat) (s : State) : State :=
  match submitJob s (sjOwner s j) (s.get BEAD_SJ_IMAGE j) { fn := sjOwner s j, user := 0, fromRing := false, sj := some j } with
  | .ok s => (setSj s j { sjAt s j with policed := none }).set BEAD_SJ_STATUS.IN_STEP 1 j
  | .error (c, s) =>
    if c = Code.policed then
      let next := cycleAt s (activeBank s) (nowN s + 1)
      (setSj s j { sjAt s j with policed := some (nowNs s, next) }).bump BEAD_SJ_POLICED_COUNT j
    else setSj (s.set BEAD_SJ_STATUS.IN_STEP 1 j) j { sjAt s j with policed := none, stepCode := some c }

/-- The rows chosen, the batch table and the step; with no rows the slot polls (R257 step 5). -/
def launchStep (j : Nat) (joined : List Nat) (s : State) : SjR :=
  let rows := ((sjIn s j Bead.running).take (sjMax s j)).map (fun i =>
    (i, if joined.elem i then joinAdvance s j i else advanceOf s j i))
  let s := setSj (s.set BEAD_SJ_RUNNING rows.length j) j { sjAt s j with rows := rows }
  if rows.isEmpty then (setSj s j { sjAt s j with polling := some (nowNs s + sjPoll s j) }, none)
  else (batchTable j rows joined s).andThen (fun s => (submitStep j s, none))

/-- A bead of the slot whose record is poisoned faults it (R251); the others are read. -/
def readBeads (j : Nat) (s : State) : SjR :=
  sjEach (sjBeads s j) (fun s i => seeBead i s) s

/-- One boundary of slot j (R256, R257, R262). -/
def boundaryWork (j : Nat) (s : State) : SjR :=
  sjRead j (reqAt s j) 4 (fun tb s =>
    ((((readBeads j s).andThen (moveOut j)).andThen (leaves j)).andThen (requests j (leNat tb))).andThen (fun s =>
      match rowPages j s with
      | ((s, some c), _) => (s, some c)
      | ((s, none), ev) =>
        match joins j ((sjIn s j Bead.waiting).filter (fun i => !ev.elem i)) [] s with
        | ((s, some c), _) => (s, some c)
        | ((s, none), jn) => launchStep j jn s)) s

/-- Slot j may perform a boundary: RUNNING, no step, no waiting event, its owner neither frozen nor in reset (R255, R261). -/
def mayBound (s : State) (j : Nat) : Bool :=
  let x := sjAt s j
  let o := sjOwner s j
  s.get BEAD_SJ_STATUS.STATE j == Fn.running && !s.bit BEAD_SJ_STATUS.IN_STEP j && x.policed.isNone && x.evWait.isEmpty &&
    !sjFrozen s j && (fnAt s o).flr == 0

/-- A boundary that may be performed. -/
def boundary (s : State) (j : Nat) : State :=
  if mayBound s j ∧ (sjAt s j).polling.isNone then sjPublish (sjEnd j (boundaryWork j s)) j else s

/-- The poll time passes: boundary k begins again (R257). -/
def pollExpiry (s : State) (j : Nat) : State :=
  match (sjAt s j).polling with
  | some t => if t ≤ nowNs s ∧ mayBound s j then boundary (setSj s j { sjAt s j with polling := none }) j else s
  | none => s

/-! ## The end of a step (R260) -/

/-- What a completed step does to one row. -/
def rowDone (j : Nat) (s : State) (k : Nat) (r : Nat × Nat) : SjR :=
  let i := r.1
  sjRead j (batchAt s j + 64 + 64 * k + 0x20) 1 (fun b s =>
    (seeBead i s).andThen (fun s =>
      let p := bget s i BF.pos + r.2
      let s := bput (bput s i BF.pos p) i BF.progress (nowN s)
      let s := if bget s i BF.prompt ≤ p then bput s i BF.flags 0 else s
      if (leNat b = 1 ∨ p = bget s i BF.limit) ∧ bget s i BF.state = Bead.running then (bput s i BF.state Bead.leaving, none)
      else (s, none))) s

/-- The step of slot j completes (R260, R261). -/
def stepDone (s : State) (j : Nat) : State :=
  match (sjAt s j).stepCode with
  | none => s
  | some c =>
    let rows := (sjAt s j).rows
    let r : SjR := if c = Code.done then sjEach (rows.zip (List.range rows.length)) (fun s q => rowDone j s q.2 q.1) s else (s, none)
    let s := sjEnd j r
    let s := markPages s j (sjAt s j).pend false
    let s := setSj s j { sjAt s j with stepCode := none, rows := [], pend := [] }
    let s := (s.set BEAD_SJ_STATUS.IN_STEP 0 j).set BEAD_SJ_RUNNING 0 j
    let s := if c = Code.done then s.bump2 BEAD_SJ_STEP_LO BEAD_SJ_STEP_HI j else s
    let st := s.get BEAD_SJ_STATUS.STATE j
    let s := if c ≠ Code.done ∧ (st = Fn.running ∨ st = Fn.stopping) then faultFn s (sjFn j) c
      else if st = Fn.stopping then setFnState s (sjFn j) Fn.stopped
      else s
    sjPublish s j

/-- A refused step is submitted again: at the next cycle start, or a poll time after the refusal while no bank is active
(R261). -/
def resubmit (s : State) (j : Nat) : State :=
  match (sjAt s j).policed with
  | some (t, n) =>
    if (if calActive s then decide (n ≤ nowN s) else decide (t + sjPoll s j ≤ nowNs s)) &&
        s.get BEAD_SJ_STATUS.STATE j == Fn.running && !sjFrozen s j then submitStep j s
    else s
  | none => s

/-- START of slot j (R252). -/
def sjStart (s : State) (j : Nat) : State :=
  if fnState s (sjFn j) = Fn.stopped then sjPublish (startFn s (sjFn j) (sjCheck s j)) j else s

/-- STOP of slot j: a step in progress completes first (R261). -/
def sjStop (s : State) (j : Nat) : State :=
  let st := fnState s (sjFn j)
  if st = Fn.running ∨ st = Fn.faulted then
    let s := setSj s j { sjAt s j with polling := none, policed := none }
    let s := if s.bit BEAD_SJ_STATUS.IN_STEP j then s else s.set BEAD_SJ_RUNNING 0 j
    setFnState s (sjFn j) (if s.bit BEAD_SJ_STATUS.IN_STEP j then Fn.stopping else Fn.stopped)
  else s

/-- Waiting events are written once the tenant has freed space (R255). -/
def evtSpace (s : State) (j : Nat) : State :=
  if (sjAt s j).evWait.isEmpty then s else sjPublish (sjEnd j (evtDrain j (sjAt s j).evWait.length s)) j

/-- A SEQUENCE bead and its pages freed without an event (R261). -/
def dropBead (s : State) (i : Nat) : State :=
  let j := bget s i BF.slot
  freeBead (withPages j i (fun l s => (markPages s j l false, none)) s).1 i

/-- The owner of slot j leaves: the slot is STOPPED; once it holds no bead any more all its pages are free (R261). -/
def sjClear (s : State) (j : Nat) : State :=
  let x := sjAt s j
  let s := if x.moving.isSome ∨ x.asked.isSome then mbxEnd s Code.stateConflict else s
  let s := match x.moving with
    | some (_, b) => freeBead s b
    | none => s
  let s := setFnState s (sjFn j) Fn.stopped
  let busy := if (sjBeads s j).isEmpty then [] else (markPages s j x.pend false |> fun s => (sjAt s j).busy)
  sjPublish (((setSj s j { busy := busy }).set BEAD_SJ_STATUS.IN_STEP 0 j).set BEAD_SJ_RUNNING 0 j) j

/-! ## Moves (R262) -/

/-- The checks of BEAD_MOVE (R262; 18_registers_mailbox.md R424). -/
def beadMoveCheck (s : State) : Nat :=
  let j := mbxArg s 0
  let i := mbxArg s 1
  firstCode [
    (!argsFit s [0x3F, 0xFFFFF, 0x1FFFF, 0x3F], Code.badArgument),
    (sjPages s j == 0, Code.notPresent),
    (!(sjBeads s j).elem i || !(bget s i BF.state == Bead.waiting || bget s i BF.state == Bead.running) ||
      s.get BEAD_SJ_STATUS.STATE j != Fn.running, Code.stateConflict)]

/-- The move waits for the slot's next boundary; a poisoned record faults the slot (R251, R262). -/
def beadMoveBody (s : State) : State :=
  let j := mbxArg s 0
  match seeBead (mbxArg s 1) s with
  | (s, some c) => mbxEnd (faultFn s (sjFn j) c) c
  | (s, none) => setSj s j { sjAt s j with asked := some (mbxArg s 1, mbxArg s 2, mbxArg s 3) }

/-- The refusal of an arriving move, DONE where it is taken (R262 step 3). -/
def moveCode (s : State) (j : Nat) (m : BeadMoveMsg) : Nat :=
  firstCode [
    (m.t != sjT s j || m.g != sjG s j || sjG s j == 0, Code.badArgument),
    ((placeBead s Bead.sequence (sjOwner s j)).isNone, Code.busy),
    (decide (freePages s j < m.pages.length), Code.pagesExhausted)]

/-- The answer to a move, under a stamp of its own (R262; 02_almanac.md R37, R39). -/
def answerMove (s : State) (m : BeadMoveMsg) (c dst : Nat) : State :=
  emit (issue s) (.beadMoveAck m.src m.srcBead c dst (BitVec.ofNat 32 (issueTime s)))

/-- The pages of a move written, then the granules that arrived poisoned (R262; 08_memory.md R213). -/
def writePages (j : Nat) (l : List Nat) (m : BeadMoveMsg) (s : State) : SjR :=
  (sjEach (l.zip m.pages) (fun s q => sjWrite j (poolAt s j + q.1 * 65536) q.2 s) s).andThen (fun s =>
    (forEach m.poison (fun s p =>
      homeWrite s ((sjWin s j).base + poolAt s j + l.getD p.1 0 * 65536 + 64 * p.2)
        (((m.pages.getD p.1 []).drop (64 * p.2)).take 64) true) s, none))

/-- A move arrives at slot j; its stamp raises the floor (R262 step 3; 02_almanac.md R39). -/
def moveIn (s : State) (j : Nat) (m : BeadMoveMsg) : State :=
  let s := raiseFloor s m.stamp m.src
  let c := moveCode s j m
  match placeBead s Bead.sequence (sjOwner s j) with
  | none => answerMove s m c 0
  | some i =>
    if c ≠ Code.done then answerMove s m c 0
    else
      let f (g : BFld) : Nat := le m.record g.1 g.2
      let s := newBead s i Bead.sequence Bead.waiting 2 (sjOwner s j) j (f BF.admitTime) (f BF.user)
        (bytesLe 4 noPage ++ bytesLe 4 noPage ++ bytesLe 4 0 ++ bytesLe 4 (f BF.pos) ++ bytesLe 4 (f BF.prompt) ++
          bytesLe 4 (f BF.limit) ++ bytesLe 4 (f BF.payload) ++ bytesLe 2 (f BF.recomputes))
      let l := lowPages (sjAt s j).busy m.pages.length 0
      let r := ((allocate j i m.pages.length s).andThen (writePages j l m)).andThen (eventOf j Code.done Ev.movedIn i)
      match r with
      | (s, none) => sjPublish (answerMove s m Code.done i) j
      | (s, some c) =>
        let s := freeBead (markPages s j l false) i
        sjPublish (answerMove (sjEnd j (s, some c)) m c 0) j

/-- The answer to a move of slot j (R262 step 4; 13_filigree.md R331; 18_registers_mailbox.md R423). -/
def moveAck (s : State) (j code dst : Nat) : State :=
  match (sjAt s j).moving with
  | none => s
  | some (i, b) =>
    let s := setSj s j { sjAt s j with moving := none }
    let s := if code = Code.targetLost then bput (bput s b BF.state Bead.faulted) b BF.code code else freeBead s b
    let s := if beadBad s i then mbxEnd s Code.uncorrectable else s
    let r := (seeBead i s).andThen (fun s =>
      if code = Code.done then
        withPages j i (fun l s =>
          let u := bget s i BF.user
          let s := setSj s j { sjAt s j with pend := (sjAt s j).pend ++ l }
          event j Code.done Ev.movedOut i u (freeBead s i)) (mbxEnd s Code.done [dst])
      else moveFail j i code s)
    sjPublish (sjEnd j r) j

/-- The answer arrives from the node to which the move went: its stamp raises the floor (02_almanac.md R39). -/
def moveAnswered (s : State) (j code : Nat) (stamp : Word) (dst : Nat) : State :=
  match (sjAt s j).moving with
  | none => s
  | some (_, b) => moveAck (raiseFloor s stamp (bget s b (0x20, 4))) j code dst

/-! ## The commands -/

/-- SJ_START (R252). -/
def execSjStart (j : Nat) (s : State) : Out := .next (if j < 64 then sjStart s j else s)

/-- SJ_STOP (R261). -/
def execSjStop (j : Nat) (s : State) : Out := .next (if j < 64 then sjStop s j else s)

/-- SERVING_BOUNDARY (R257). -/
def execServingBoundary (j : Nat) (s : State) : Out := .next (if j < 64 then boundary s j else s)

/-- SERVING_POLL_EXPIRY (R257). -/
def execServingPollExpiry (j : Nat) (s : State) : Out := .next (if j < 64 then pollExpiry s j else s)

/-- STEP_COMPLETE (R260). -/
def execStepComplete (j : Nat) (s : State) : Out := .next (if j < 64 then stepDone s j else s)

/-- STEP_RESUBMIT (R261). -/
def execStepResubmit (j : Nat) (s : State) : Out := .next (if j < 64 then resubmit s j else s)

/-- EVENT_RING_SPACE (R255). -/
def execEventRingSpace (j : Nat) (s : State) : Out := .next (if j < 64 then evtSpace s j else s)

/-- BEAD_MOVE (R262). -/
def execBeadMove (rq : Requester) (s : State) : Out := .next (mbxCommand s rq 0x30 beadMoveCheck beadMoveBody)

/-- BEAD_MOVE_RECEIVE (R262). -/
def execBeadMoveReceive (j : Nat) (m : BeadMoveMsg) (s : State) : Out := .next (if j < 64 then moveIn s j m else s)

/-- BEAD_MOVE_ACK: an answer with a code of the table (R262; 00_scope.md R9). -/
def execBeadMoveAck (j : Nat) (code : Byte) (ack : BeadTaken) (s : State) : Out :=
  .next (if j < 64 ∧ listedCode code.toNat then moveAnswered s j code.toNat ack.stamp ack.dst else s)

end Sys2Proof.Machine
end

