-- ==== Sys2Proof/Machine/Tenant.lean ====
section
/-! DEFINITION. Function-level reset, removal, save and restore of a tenant (09_contexts_tenants.md R241 to R246). -/

namespace Sys2Proof.Machine

/-! ## Function-level reset (R241) -/

/-- The groups of function f. -/
def fnGroups (s : State) (f : Nat) : List Nat :=
  (mapKeys s.groups).filter (fun g => (groupAt s g).fn == f && !(groupAt s g).ctxs.isEmpty)

/-- The commands of function f in flight on core n, with their contexts. -/
def fnFly (s : State) (f n : Nat) : List (Nat × Inflight) :=
  let k := coreAt s n
  k.fly.filterMap (fun i => let x := (k.slot i.slot).ctx; if (ctxAt s x).fn = f then some (x, i) else none)

/-- Cores on which function f has commands in flight. -/
def fnCores (s : State) (f : Nat) : List Nat := (mapKeys s.cores).filter (fun n => !(fnFly s f n).isEmpty)

/-- The SEQUENCE beads of tenant t. -/
def tenantBeads (s : State) (t : Nat) : List Nat :=
  (usedBeads s).filter (fun i => bget s i BF.kind == Bead.sequence && bget s i BF.owner == t)

/-- A write's copy belongs to function f: to the context that issued it. -/
def copyOf (s : State) (f : Nat) (c : WCopy) : Bool := match c.ctx with | some x => (ctxAt s x).fn == f | none => false

/-- The cores with units of function f sent and unacknowledged: those with its commands in flight, and those of its writes whose
commands have completed (R241 step 3; 13_filigree.md R321). -/
def drainCores (s : State) (f : Nat) : List Nat :=
  (fnCores s f ++ s.fab.dests.flatMap (fun d => (d.2.copies.filter (copyOf s f)).map (·.core))).eraseDups

/-- What is sent and unacknowledged: core, node, count; a transaction that has its DSEQ counts as sent (R241 step 3; log
356). -/
def drainOf (s : State) (f : Nat) : List (Nat × Nat × Nat) :=
  (drainCores s f).flatMap (fun n => (openDests s n).map (fun d => (n, d.1, d.2)))

/-- Steps 1 and 2: fetching and admission stop, what has not begun is squashed, commands in flight are aborted without
commit; the jobs waiting count as failed (R236). -/
def flrSquash (s : State) (f : Nat) : State :=
  let d := drainOf s f
  let s := forEach (ctxsOf s f) (fun s x =>
    let y := ctxAt s x
    setCtx s x { y with halt := true, live := { y.live with
      streams := y.live.streams.map (fun p => (p.1, { p.2 with dynq := [] })) } }) s
  let s := forEach (fnGroups s f) (fun s g =>
    let w := groupAt s g
    let s := forEach w.waiting (fun s _ => countJob s f false) s
    setGroup s g { w with waiting := [] }) s
  let s := forEach (fnCores s f) (fun s n =>
    forEach (fnFly s f n) (fun s p => abandon s n p.1 [p.2]) s) s
  let x := fnAt s f
  setFn s f { x with flr := 2, resWait := [], cplWait := [], freezing := x.freezing && !x.removing, drain := d }

/-- The register set of function f back to its reset values, the function STOPPED; FROZEN and DEBUG_GRANT mirror other registers
(R241 step 5, R247). -/
def fnRegsReset (s : State) (f : Nat) : State :=
  let b := HOST_FN_STATUS.W.addr f
  let keep := s.get HOST_FN_STATUS.FROZEN f
  let dbg := s.get HOST_FN_STATUS.DEBUG_GRANT f
  let out (o : Nat) : Bool := decide (o < b) || decide (b + 0x40 ≤ o)
  let s := { s with
    regs := mapDropRange s.regs b (b + 0x40), upset := s.upset.filter out, behaveReset := s.behaveReset.filter out }
  let s := (s.set HOST_FN_STATUS.FROZEN keep f).set HOST_FN_STATUS.DEBUG_GRANT dbg f
  setFnState s (hostFn f) Fn.stopped

/-- The LOCAL windows of tenant t without ENC: what the removal fills with zeros (R242). -/
def clearRanges (s : State) (t : Nat) : List (Nat × Nat) :=
  (List.range 16).filterMap (fun k =>
    let w := winAt s t k
    if w.valid ∧ !w.isGlobal ∧ !w.enc then some (w.base, w.size * 65536) else none)

/-- What TENANT_REMOVE does after step 5: windows, key, counters, slot configuration; the zero fill begins (R242, R261 of
10_serving.md). -/
def removeEnd (s : State) (t : Nat) : State :=
  let r := clearRanges s t
  let s := forEach (List.range 16) (fun s k => setWin s t k {}) s
  let s := { s with winPend := s.winPend.filter (fun p => p.1 / 16 ≠ t) }
  let s := setFn s t { fnAt s t with key := [], clearing := r, removing := false }
  let s := (s.set HOST_VF_CFG.CC_BASE 0 t).set HOST_VF_CFG.CC_COUNT 0 t
  let s := forEach ((List.range 64).filter (fun j => sjOwner s j == t)) (fun s j =>
    { s with regs := mapDropRange s.regs (0x3001008 + 0x80 * j) (0x300103C + 0x80 * j) }) s
  let s := s.set HOST_VF_STATUS.W (if r.isEmpty then 0 else 8) t
  let s := s.set HOST_FN_STATUS.FROZEN 0 t
  if mbxBusyWith s 0x21 ∧ mbxArg s 0 = t then mbxEnd s Code.done else s

/-- Steps 4 and 5 (R241). -/
def flrFinish (s : State) (f : Nat) : State :=
  let s := forEach (fnGroups s f) (fun s g =>
    let s := if (groupAt s g).job.isSome then countJob s f false else s
    freeGroup s g) s
  let s := forEach (tenantBeads s f) dropBead s
  let s := forEach ((List.range 64).filter (fun j => sjOwner s j == f)) sjClear s
  let s := fnRegsReset s f
  let s := setFn s f { fnAt s f with flr := 0, flrDone := true, drain := [] }
  let s := if (fnAt s f).removing then removeEnd s f else freezeSettle s f
  settleStop s f

/-- Every unit sent before the reset of function f has been acknowledged or has ended (R241 step 3). -/
def drained (s : State) (f : Nat) : Bool := (fnAt s f).drain.all (fun d => decide (d.2.2 ≤ ackedOf s d.1 d.2.1))

/-- A reset whose units have ended goes on (R241). -/
def flrSettle (s : State) (f : Nat) : State := if (fnAt s f).flr = 2 ∧ drained s f then flrFinish s f else s

/-- The request of a reset of function f, or the first phase of its removal (R241). -/
def flrRequest (s : State) (f : Nat) (remove : Bool) : State :=
  let x := fnAt s f
  if x.flr ≠ 0 then setFn s f { x with removing := x.removing || remove }
  else
    let s := if fnState s (hostFn f) = Fn.faulted then s else setFnState s (hostFn f) Fn.stopping
    let s := setFn s f { x with flr := 1, flrAt := nowNs s, removing := remove, flrDone := false }
    flrSquash s f

/-- The resets of all virtual functions have ended: the physical function's own begins (R241). -/
def pfSettle (s : State) : State :=
  if (fnAt s 256).flr = 1 ∧ (List.range 256).all (fun t => (fnAt s t).flr == 0) then flrSettle (flrSquash s 256) 256 else s

/-- Resets whose units have ended go on: the virtual functions', then the physical function's. -/
def flrSettleAll (s : State) : State :=
  flrSettle (pfSettle (forEach ((mapKeys s.fns).filter (· < 256)) flrSettle s)) 256

/-- The host's claim of the mailbox released (18_registers_mailbox.md R419). -/
def releaseHostClaim (s : State) : State := mbxRelease s .host

/-- A function-level reset (R241). -/
def functionReset (s : State) (f : Nat) : State :=
  if f = 256 then
    let s := releaseHostClaim s
    let s := forEach ((List.range 256).filter (fnHere s)) (fun s t => flrRequest s t false) s
    let s := if fnState s (hostFn 256) = Fn.faulted then s else setFnState s (hostFn 256) Fn.stopping
    let s := setFn s 256 { fnAt s 256 with flr := 1, flrAt := nowNs s, flrDone := false }
    flrSettleAll s
  else if f < 256 ∧ fnHere s f then flrSettleAll (flrRequest s f false)
  else s

/-- 60 ms after the request: units still open are abandoned, each destination with a TARGET_LOST record (R241 step 3;
14_journal_recovery.md R344). -/
def drainTimeout (s : State) (f : Nat) : State :=
  let x := fnAt s f
  if x.flr = 2 ∧ x.flrAt + 60000000 ≤ nowNs s then
    let nodes := ((x.drain.filter (fun d => decide (ackedOf s d.1 d.2.1 < d.2.2))).map (fun d => d.2.1)).eraseDups
    let s := forEach nodes (fun s n => journal s { typ := 0x11, code := Code.targetLost, source := 0x0100, node := n }) s
    flrSettleAll (flrFinish s f)
  else s

/-- TENANT_REMOVE (R242). -/
def tenantRemove (s : State) : State :=
  let t := mbxArg s 0
  flrSettleAll (flrRequest (s.set HOST_VF_STATUS.REMOVING 1 t) t true)

/-! ## Save (R245); the layout of the sections is the model's (log 41) -/

/-- A job as saved. -/
def jobBytes (j : Job) : Bytes :=
  bytesLe 1 (if j.fromRing then 1 else 0) ++ bytesLe 1 (j.sj.getD 255) ++ bytesLe 8 j.user

/-- A context as saved: its record, and what the record does not hold. -/
def ctxSave (s : State) (x : Nat) : Bytes :=
  let y := ctxAt s x
  (List.range 4096).map (ctxRecByte y) ++ bytesLe 1 y.thaw ++ bytesLe 1 (if y.halt then 1 else 0) ++ bytesLe 1 (if y.job then 1 else 0)

/-- A section with its length before it. -/
def section_ (b : Bytes) : Bytes := bytesLe 8 b.length ++ b

/-- Section 1: each group with its Ohmath image, its jobs and its contexts. -/
def ctxSection (s : State) (t : Nat) : Bytes :=
  let gs := fnGroups s t
  bytesLe 4 gs.length ++ gs.flatMap (fun g =>
    let w := groupAt s g
    section_ (ctxAt s g).img.source ++
    (match w.job with
     | some j => bytesLe 1 1 ++ jobBytes j
     | none => bytesLe 1 0 ++ bytesLe 10 0) ++
    bytesLe 4 w.waiting.length ++ w.waiting.flatMap jobBytes ++
    bytesLe 4 w.ctxs.length ++ w.ctxs.flatMap (ctxSave s))

/-- What binds a bead to a slot: image, pool geometry and offsets (R261 of 10_serving.md). -/
def sjKey (s : State) (j : Nat) : Bytes :=
  [BEAD_SJ_IMAGE, BEAD_SJ_POOL_OFF, BEAD_SJ_POOL_PAGES, BEAD_SJ_LINK_OFF, BEAD_SJ_REQ_OFF, BEAD_SJ_EVT_OFF, BEAD_SJ_BATCH_OFF,
    BEAD_SJ_GEOM.W].flatMap (fun f => bytesLe 4 (s.get f j))

/-- Section 2: the tenant's bead records, each with the key of its slot. -/
def beadSection (s : State) (t : Nat) : Bytes :=
  let l := tenantBeads s t
  bytesLe 4 l.length ++ l.flatMap (fun i => rdBytes s.mems.dev (beadBase i) 64 ++ sjKey s (bget s i BF.slot))

/-- Section 3: windows with sizes and attributes, without bases. -/
def winSection (s : State) (t : Nat) : Bytes :=
  (List.range 16).flatMap (fun k =>
    let w := winAt s t k
    let b (x : Bool) (n : Nat) : Nat := if x then n else 0
    bytesLe 4 (b w.enc 1 + b w.ro 2 + b w.isGlobal 4 + b w.valid 8) ++ bytesLe 4 w.size)

/-- The LOCAL windows of tenant t in window order. -/
def localWins (s : State) (t : Nat) : List Win :=
  ((List.range 16).map (winAt s t)).filter (fun w => w.valid && !w.isGlobal)

/-- Section 4: the contents of the LOCAL windows as stored. -/
def memSection (s : State) (t : Nat) : Bytes :=
  (localWins s t).flatMap (fun w => (List.range (w.size * 65536)).map (fun i => devByte s (w.base + i)))

/-- The places of the poisoned granules of the LOCAL windows in section 4 (08_memory.md R213). -/
def memBad (s : State) : List Win → Nat → List Nat
  | [], _ => []
  | w :: t, o =>
    ((List.range (w.size * 1024)).filter (fun g => badDev s (w.base + 64 * g) 64)).map (fun g => o + 64 * g) ++
      memBad s t (o + w.size * 65536)

/-- The blob of tenant t (R245). -/
def tenantBlob (s : State) (t : Nat) : Bytes :=
  let body := section_ (ctxSection s t) ++ section_ (beadSection s t) ++ section_ (winSection s t) ++ section_ (memSection s t)
  bytesLe 8 (s.get2 HOST_JOBS_DONE_LO HOST_JOBS_DONE_HI t) ++ bytesLe 8 (s.get2 HOST_JOBS_FAILED_LO HOST_JOBS_FAILED_HI t) ++
    (Config.sha384 body).take 48 ++ bytesLe (48 - (Config.sha384 body).length) 0 ++ body

/-- TENANT_SAVE (R245; 18_registers_mailbox.md R423, R424): each bead is read by way of the cache, and a poisoned record ends the
operation and faults its slot (10_serving.md R248, R251); poisoned memory leaves poisoned granules in the blob (08_memory.md
R213). -/
def tenantSave (s : State) : State :=
  let t := mbxArg s 0
  let a := mbxArg2 s 1
  let b := tenantBlob s t
  let res := [b.length % 2 ^ 32, b.length / 2 ^ 32]
  if mbxArg2 s 3 < b.length then mbxEnd s Code.badArgument res
  else
    let c := devWriteCode s a b.length
    if c ≠ Code.done then mbxEnd s c res
    else
      let bad := (tenantBeads s t).any (beadBad s)
      let s := forEach (tenantBeads s t) (fun s i => sjEnd (bget s i BF.slot) (seeBead i s)) s
      if bad then mbxEnd s Code.uncorrectable res
      else
        let m := b.length - (memSection s t).length
        let marks := memBad s (localWins s t) m
        let s := homeWrite s a b false
        let s := forEach marks (fun s o => homeWrite s (a + o) ((b.drop o).take 64) true) s
        mbxEnd (s.set MBX_PROGRESS 1000) Code.done res

/-! ## Restore (R246) -/

/-- A section at an offset of a blob: its data and the offset after it. -/
def sectionAt (b : Bytes) (o : Nat) : Bytes × Nat := ((b.drop (o + 8)).take (le b o 8), o + 8 + le b o 8)

/-- The length of a blob from its four section lengths. -/
def blobLen (s : State) (a : Nat) : Nat :=
  let next (o : Nat) : Nat := o + 8 + memLe s (a + o) 8
  next (next (next (next 64)))

/-- The pointers that a context record holds. -/
def pointersOf (r : Bytes) : Pointers :=
  let p := (List.range 4).foldl (fun (p : Pointers) i =>
    let o := 16 * i
    let h := le r (o + 2) 1
    let n := (le r (o + 3) 1 + 64 - h) % 64
    let pk := le r (o + 12) 2
    p.setStream i { pc := le r o 2, dynHead := h, count := le r (o + 4) 6, dynLeft := le r (o + 10) 2
                    parked := if pk = 0xFFFF then none else some pk
                    dynq := (List.range n).map (fun k => BitVec.ofNat 64 (le r (0x100 + 0x100 * i + 8 * ((h + k) % 32)) 8)) }) {}
  let p := (List.range 4).foldl (fun (p : Pointers) q =>
    let f := le r (64 + 4 * q) 2
    let u := f + (le r (66 + 4 * q) 2 + 16 - f) % 16
    p.setDataq q { alloc := u, written := u, pushed := u, taken := f, readDone := f, freed := f }) p
  (List.range 16).foldl (fun (p : Pointers) i => p.setToken i (le r (96 + 2 * i) 2)) p

/-- A job as saved, of tenant t; a serving step belongs to slot `m` of its old slot. -/
def jobOf (t : Nat) (m : Nat → Option Nat) (b : Bytes) : Job :=
  { fn := t, user := le b 2 8, fromRing := le b 0 1 == 1, sj := if le b 1 1 = 255 then none else m (le b 1 1) }

/-- A saved group: its image, its job, its waiting jobs, its contexts' records; and the offset after it. -/
def groupBlob (b : Bytes) (o : Nat) : (Bytes × Option Bytes × List Bytes × List Bytes) × Nat :=
  let src := sectionAt b o
  let o := src.2
  let job := if le b o 1 = 1 then some ((b.drop (o + 1)).take 10) else none
  let n := le b (o + 11) 4
  let wait := (List.range n).map (fun i => (b.drop (o + 15 + 10 * i)).take 10)
  let o := o + 15 + 10 * n
  let k := le b o 4
  ((src.1, job, wait, (List.range k).map (fun i => (b.drop (o + 4 + 4099 * i)).take 4099)), o + 4 + 4099 * k)

/-- The saved groups of a section. -/
def groupBlobs (b : Bytes) : Nat → Nat → List (Bytes × Option Bytes × List Bytes × List Bytes)
  | 0, _ => []
  | n + 1, o => let g := groupBlob b o; g.1 :: groupBlobs b n g.2

/-- A context restored from its record: it stays FROZEN until TENANT_THAW. -/
def ctxRestore (y : Ctx) (r : Bytes) : Ctx :=
  let p := pointersOf r
  { y with state := 5, thaw := le r 4096 1, code := le r 0x85 1, tag := le r 0x86 2, flags := le r 0x80 4, pin := le r 0x88 1 / 16 % 2 == 1
           progress := le r 0x98 8, live := p, saved := p, halt := le r 4097 1 == 1, job := le r 4098 1 == 1 }

/-- One group rebuilt: lowered again from its image; with an equal key its pointers and jobs come back, else it is IDLE and
its jobs count as failed (R246). An image that is refused ends the restore with BAD_ARGUMENT, contexts that do not suffice with
BUSY (R225; log 337). -/
def groupRestore (t : Nat) (m : Nat → Option Nat) (s : State) (b : Bytes × Option Bytes × List Bytes × List Bytes) :
    Except (Nat × State) State :=
  match loadImage s t b.1 with
  | .error _ => .error (Code.badArgument, s)
  | .ok l =>
    if (freeCtxs s).length < l.shares.length then .error (Code.busy, s)
    else
      let s := forEach l.consts (fun s c => (devWrite s c.1 c.2 false).2) s
      let xs := (freeCtxs s).take l.shares.length
      let g := xs.headD 0
      let s := defineGroup s t l.shares
      let same := l.shares.length == b.2.2.2.length &&
        b.2.2.2.all (fun r => le r 0x94 4 == ((l.shares.headD {}).key).toNat)
      if same then
        let s := forEach (xs.zip b.2.2.2) (fun s p => setCtx s p.1 (ctxRestore (ctxAt s p.1) p.2)) s
        .ok (setGroup s g { groupAt s g with job := b.2.1.map (jobOf t m), waiting := b.2.2.1.map (jobOf t m) })
      else
        let s := forEach xs (fun s x => setCtx s x { ctxAt s x with state := 5, thaw := 1 }) s
        let lost := b.2.2.1.length + (if b.2.1.isSome then 1 else 0)
        .ok (forEach (List.range lost) (fun s _ => countJob s t false) s)

/-- The next group rebuilt, where none has ended the restore. -/
def groupNext (t : Nat) (m : Nat → Option Nat) (o : Except (Nat × State) State)
    (b : Bytes × Option Bytes × List Bytes × List Bytes) : Except (Nat × State) State :=
  match o with
  | .ok s => groupRestore t m s b
  | .error (c, s) => .error (c, s)

/-- Groups rebuilt one after another. -/
def groupsRestore (t : Nat) (m : Nat → Option Nat) (l : List (Bytes × Option Bytes × List Bytes × List Bytes)) (s : State) :
    Except (Nat × State) State := l.foldl (groupNext t m) (.ok s)

/-- The slot of tenant t with a key (R261 of 10_serving.md). -/
def slotWith (s : State) (t : Nat) (key : Bytes) : Option Nat :=
  (List.range 64).find? (fun j => sjOwner s j == t && sjPages s j != 0 && sjKey s j == key)

/-- A bead restored into a slot, its pages marked in use. -/
def beadRestore (s : State) (t j : Nat) (r : Bytes) : Option State :=
  match placeBead s Bead.sequence t with
  | none => none
  | some i =>
    let l := bytesLe 1 Bead.sequence ++ (r.drop 1).take 3 ++ bytesLe 2 t ++ bytesLe 1 j ++ r.drop 7
    let s := beadCount (devStore s (beadBase i) l) t
    let s := if le r 1 1 = Bead.moving then bput s i BF.state Bead.waiting else s
    some (withPages j i (fun p s => (markPages s j p true, none)) s).1

/-- Beads restored one after another. -/
def beadsRestore (t : Nat) : List (Bytes × Nat) → State → Option State
  | [], s => some s
  | (r, j) :: l, s => (beadRestore s t j r).bind (beadsRestore t l)

/-- Whether a blob's windows equal those of tenant t in size (R243, R246). -/
def winsEqual (s : State) (t : Nat) (b : Bytes) : Bool :=
  (List.range 16).all (fun k =>
    let w := winAt s t k
    (if le b (8 * k) 4 / 8 % 2 = 1 then le b (8 * k + 4) 4 else 0) == (if w.valid then w.size else 0))

/-- The windows that a blob's window section gives as LOCAL: index and bytes. -/
def blobWins (b : Bytes) : List (Nat × Nat) :=
  (List.range 16).filterMap (fun k =>
    if le b (8 * k) 4 / 8 % 2 = 1 ∧ le b (8 * k) 4 / 4 % 2 = 0 then some (k, le b (8 * k + 4) 4 * 65536) else none)

/-- The contents of the blob's LOCAL windows written back as stored, with the poison of the blob's granules (08_memory.md R213);
`src` is where they lie in device memory. -/
def memRestore (t src : Nat) (b : Bytes) : List (Nat × Nat) → Nat → State → State
  | [], _, s => s
  | (k, n) :: l, o, s =>
    let w := winAt s t k
    let bad := (List.range (n / 64)).filter (fun g => badDev s (src + o + 64 * g) 64)
    let s := if w.valid ∧ !w.isGlobal then
        { s with mems := { s.mems with
          dev := wrBytes s.mems.dev w.base ((b.drop o).take n)
          pDev := bad.foldl (fun m g => poisonWrite m (w.base + 64 * g) 64 true)
            (mapDropRange s.mems.pDev (w.base / 64) ((w.base + n) / 64)) } }
      else s
    memRestore t src b l (o + n) s

/-- The step that was in progress on slot j goes on with the restored job. -/
def stepRestore (s : State) (j : Nat) : State :=
  let rows := ((sjIn s j Bead.running).take (sjMax s j)).map (fun i => (i, advanceOf s j i))
  sjPublish (((setSj s j { sjAt s j with rows := rows }).set BEAD_SJ_STATUS.IN_STEP 1 j).set BEAD_SJ_RUNNING rows.length j) j

/-- The end of a restore: the counts of the blob, the serving slots published, and the steps that go on (R246). -/
def restoreDone (s : State) (t : Nat) (b : Bytes) (s3 : State) : State :=
  let f := s3.get2 HOST_JOBS_FAILED_LO HOST_JOBS_FAILED_HI t - s.get2 HOST_JOBS_FAILED_LO HOST_JOBS_FAILED_HI t
  let s3 := s3.set2 HOST_JOBS_DONE_LO HOST_JOBS_DONE_HI (le b 0 8) t
  let s3 := s3.set2 HOST_JOBS_FAILED_LO HOST_JOBS_FAILED_HI (le b 8 8 + f) t
  let js := (fnGroups s3 t).filterMap (fun g => (groupAt s3 g).job.bind (·.sj))
  let s3 := forEach ((List.range 64).filter (fun j => sjOwner s3 j == t)) sjPublish s3
  mbxEnd ((forEach js stepRestore s3).set MBX_PROGRESS 1000) Code.done

/-- The beads of a blob restored; where one cannot be placed the operation ends with BUSY (10_serving.md R250). -/
def restoreBeads (s : State) (t : Nat) (b : Bytes) (o : Option State) : State :=
  match o with
  | none => mbxEnd s Code.busy
  | some s3 => restoreDone s t b s3

/-- The groups of a blob restored, or a code: the window contents and the beads follow. -/
def restoreRest (s : State) (t src : Nat) (b m : Bytes) (wins : List (Nat × Nat)) (beads : List (Bytes × Nat))
    (o : Except (Nat × State) State) : State :=
  match o with
  | .error c => mbxEnd s c.1
  | .ok s2 => restoreBeads s t b (beadsRestore t beads (memRestore t src m wins 0 s2))

/-- TENANT_RESTORE (R246). -/
def tenantRestore (s : State) : State :=
  let t := mbxArg s 0
  let a := mbxArg2 s 1
  let n := blobLen s a
  if memTop s < a + n then mbxEnd s Code.notPresent
  else
    let b := (List.range n).map (fun i => devByte s (a + i))
    let c := sectionAt b 64
    let d := sectionAt b c.2
    let w := sectionAt b d.2
    let m := sectionAt b w.2
    let digest := (Config.sha384 (b.drop 64)).take 48 ++ bytesLe (48 - (Config.sha384 (b.drop 64)).length) 0
    let recs := (List.range (le d.1 0 4)).map (fun i => (d.1.drop (4 + 96 * i)).take 96)
    let bound := recs.map (fun r => (r.take 64, slotWith s t (r.drop 64)))
    if digest ≠ (b.drop 16).take 48 ∨ !winsEqual s t w.1 ∨ bound.any (fun p => p.2.isNone) then mbxEnd s Code.badArgument
    else
      let map (old : Nat) : Option Nat := ((bound.find? (fun p => le p.1 6 1 == old)).bind (·.2))
      restoreRest s t (a + w.2 + 8) b m.1 (blobWins w.1) (bound.map (fun p => (p.1, p.2.getD 0)))
        (groupsRestore t map (groupBlobs c.1 (le c.1 0 4) 4) s)

/-! ## The commands -/

/-- FUNCTION_LEVEL_RESET (R241). -/
def execFunctionLevelReset (f : Nat) (s : State) : Out := .next (functionReset s f)

/-- DRAIN_TIMEOUT (R241). -/
def execDrainTimeout (f : Nat) (s : State) : Out := .next (drainTimeout s f)

/-- The checks of TENANT_REMOVE. -/
def removeCheck (s : State) : Nat :=
  firstCode (tenantArgs s [0xFF] ++ [(!s.bit HOST_VF_STATUS.CREATED (mbxArg s 0), Code.stateConflict)])

/-- The checks of TENANT_SAVE. -/
def saveCheck (s : State) : Nat :=
  firstCode (tenantArgs s [0xFF, 0xFFFFFFFF, 0xFFFFFFFF, 0xFFFFFFFF, 0xFFFFFFFF] ++
    [(decide (memTop s ≤ mbxArg2 s 1), Code.notPresent), (!s.bit HOST_VF_STATUS.FROZEN (mbxArg s 0), Code.stateConflict)])

/-- The checks of TENANT_RESTORE. -/
def restoreCheck (s : State) : Nat :=
  firstCode (tenantArgs s [0xFF, 0xFFFFFFFF, 0xFFFFFFFF] ++
    [(decide (memTop s ≤ mbxArg2 s 1), Code.notPresent),
     (!s.bit HOST_VF_STATUS.FROZEN (mbxArg s 0) || !(ctxsOf s (mbxArg s 0)).isEmpty, Code.stateConflict)])

/-- TENANT_REMOVE (R242, R243). -/
def execTenantRemove (rq : Requester) (s : State) : Out := .next (mbxCommand s rq 0x21 removeCheck tenantRemove)

/-- TENANT_SAVE (R245). -/
def execTenantSave (rq : Requester) (s : State) : Out := .next (mbxCommand s rq 0x25 saveCheck tenantSave)

/-- TENANT_RESTORE (R246). -/
def execTenantRestore (rq : Requester) (s : State) : Out :=
  .next (mbxCommand s rq 0x26 restoreCheck tenantRestore)

end Sys2Proof.Machine
end

