-- ==== Sys2Proof/Machine/Fronthaul.lean ====
section
/-! DEFINITION. Fronthaul ports: frames received and sent, their stamps, and the ports' start and stop (11_nr_baseband.md
R266 to R271, R287; 02_almanac.md R41 to R44; 03_calendar.md R67, R68). -/

namespace Sys2Proof.Machine

/-! ## Network byte order -/

/-- A number of n bytes, most significant first. -/
def bytesBe (n v : Nat) : Bytes := (bytesLe n v).reverse

/-- A number of n bytes at an offset, most significant first. -/
def be (b : Bytes) (o n : Nat) : Nat := leNat ((b.drop o).take n).reverse

/-- A frame with bytes replaced from an offset. -/
def poke (b : Bytes) (o : Nat) (v : Bytes) : Bytes := b.take o ++ v ++ b.drop (o + v.length)

/-- One bit of the Ethernet frame check sequence. -/
def crcBit (c : Nat) : Nat := if c % 2 = 1 then (c / 2) ^^^ 0xEDB88320 else c / 2

/-- One byte of it. -/
def crcByte (c : Nat) (b : Byte) : Nat :=
  crcBit (crcBit (crcBit (crcBit (crcBit (crcBit (crcBit (crcBit (c ^^^ b.toNat))))))))

/-- The frame check sequence of a frame: the CRC-32 of IEEE 802.3 (02_almanac.md R43; its polynomial and order: PRESUMED, log
333). -/
def frameCheck (b : Bytes) : Bytes := bytesLe 4 (b.foldl crcByte 0xFFFFFFFF ^^^ 0xFFFFFFFF)

/-! ## Stamps (02_almanac.md R33, R41) -/

/-- The status register of fronthaul port p. -/
def fhFn (p : Nat) : Nat := FH_STATUS.STATE.addr p

/-- A PTP timestamp: 48-bit secondsField and 32-bit nanosecondsField (02_almanac.md R33). -/
def ptpTime (t : Int) : Bytes :=
  let ns := (t / 256).toNat
  bytesBe 6 (ns / 1000000000) ++ bytesBe 4 (ns % 1000000000)

/-- Ingress and egress corrections of a port mode, 2^-8 ns (R41). -/
def modeCorr : Nat → Nat × Nat
  | 0 => (28800, 10560)
  | 1 => (37952, 13504)
  | _ => (54976, 17536)

/-! ## PTP messages (02_almanac.md R43 to R45; the frames' layout is of IEEE 1588, log 42) -/

/-- Where the Ethertype of a frame stands. -/
def typeAt (b : Bytes) : Nat := if be b 12 2 = 0x8100 then 16 else 12

/-- The place of the PTP header of a frame that carries the PTP Ethertype or a UDP port of a list, over the transport in use:
0 Ethernet, 1 UDP/IPv4, 2 UDP/IPv6 (02_almanac.md R45). -/
def ptpAt (tr : Nat) (ports : List Nat) (b : Bytes) : Option Nat :=
  let o := typeAt b
  let t := be b o 2
  if tr = 0 then (if t = 0x88F7 then some (o + 2) else none)
  else if tr = 1 then
    let h := o + 2 + (be b (o + 2) 1 % 16) * 4
    if t = 0x0800 ∧ be b (o + 11) 1 = 17 ∧ ports.elem (be b (h + 2) 2) then some (h + 8) else none
  else if t = 0x86DD ∧ be b (o + 8) 1 = 17 ∧ ports.elem (be b (o + 44) 2) then some (o + 50)
  else none

/-- The place of the PTP header of a PTP event message. -/
def ptpEvent (s : State) (b : Bytes) : Option Nat :=
  (ptpAt (ptpTransport s) [319] b).bind (fun o => if be b o 1 % 16 < 4 then some o else none)

/-- A frame is a PTP message, event or general, or an ESMC message (11_nr_baseband.md R270). -/
def ptpOrEsmc (s : State) (b : Bytes) : Bool :=
  (ptpAt (ptpTransport s) [319, 320] b).isSome || (be b (typeAt b) 2 == 0x8809 && be b (typeAt b + 2) 1 == 10)

/-- The end-around sum of 16-bit words. -/
def onesSum (x : Nat) : Nat := let y := x % 65536 + x / 65536; y % 65536 + y / 65536

/-- The UDP checksum over IPv6 brought up to date with a change of bytes at an even distance from the header (R43). -/
def fixUdp (old new : Bytes) (o : Nat) : Bytes :=
  let t := typeAt old
  if be old t 2 = 0x86DD then
    let words (b : Bytes) : List Nat := (List.range ((b.length - o + 1) / 2)).map (fun i =>
      be b (o + 2 * i) 1 * 256 + be b (o + 2 * i + 1) 1)
    let d := (words old).foldl (fun a w => onesSum (a + (65535 - w))) 0
    let d := (words new).foldl (fun a w => onesSum (a + w)) d
    let c := 65535 - onesSum ((65535 - be old (o - 2) 2) + d)
    poke new (o - 2) (bytesBe 2 (if c = 0 then 65535 else c))
  else new

/-- originTimestamp of a Sync or Delay_Req set to the egress time (R43). -/
def stampOrigin (b : Bytes) (o : Nat) (t : Int) : Bytes := fixUdp b (poke b (o + 34) (ptpTime t)) o

/-- The residence time added to correctionField, 2^-16 ns (R44). -/
def addResidence (b : Bytes) (o : Nat) (t : Int) : Bytes :=
  fixUdp b (poke b (o + 8) (bytesBe 8 (((be b (o + 8) 8 : Int) + t * 256) % 2 ^ 64).toNat)) o

/-! ## Queues -/

/-- Queue q of port p. -/
def fhQueue (s : State) (p q : Nat) : List TxFrame := mapGet (fun _ => []) s.fhq (8 * p + q)

/-- The queue replaced. -/
def setQueue (s : State) (p q : Nat) (l : List TxFrame) : State := { s with fhq := mapPut (fun _ => []) s.fhq (8 * p + q) l }

/-- A frame put in a queue. -/
def enqueue (s : State) (p q : Nat) (f : TxFrame) : State := setQueue s p q (fhQueue s p q ++ [f])

/-! ## Receive -/

/-- The firmware receive ring takes a frame at the buffer of its next descriptor, its receive time as a PTP timestamp with a
2^-16 ns fraction after it; a full ring drops it (R267, R271; 02_almanac.md R33, R43; the descriptor's layout: log 45). -/
def fwReceive (s : State) (p k : Nat) (b : Bytes) (t : Int) : State :=
  let n := 2 ^ s.get FH_FWRX_SIZE p
  let tail := s.get FH_FWRX_TAIL p % n
  if ringFull tail (s.get FH_FWRX_HEAD p) n then s.bumpSat FH_RX_NOROOM p k
  else
    let d := s.get2 FH_FWRX_BASE_LO FH_FWRX_BASE_HI p + 32 * tail
    let s := hubWrite (hubSee s (fhFn p) d 8) (fhFn p) (memLe s d 8) b false
    let s := hubWrite s (fhFn p) (d + 8) (bytesLe 4 b.length ++ bytesLe 1 k ++ bytesLe 3 0 ++
      ptpTime t ++ bytesBe 2 (t % 256 * 256).toNat ++ bytesLe 4 0) false
    s.set FH_FWRX_TAIL ((tail + 1) % n) p

/-- A frame carries eCPRI message type 0 with a tag: VLAN ID, eAxC ID, sequence number (R267). -/
def uplane (b : Bytes) : Option (Nat × Nat × Nat) :=
  if be b 12 2 = 0x8100 ∧ be b 16 2 = 0xAEFE ∧ be b 19 1 = 0 then some (be b 14 2 % 4096, be b 22 2, be b 24 1) else none

/-- Flow entry i of a cell: eAxC, VLAN word, MAC, direction, width code (R272). -/
def Cell.flow (x : Cell) (i : Nat) : Nat × Nat × Bytes × Nat × Nat :=
  let o := 0x60 + 16 * i
  (x.fld o 2, x.fld (o + 2) 2, (x.cfg.drop (o + 4)).take 6, x.fld (o + 10) 1, x.fld (o + 11) 1)

/-- The flows of a cell, its port and its sub-port. -/
def Cell.flows (x : Cell) : List Nat := List.range (x.fld 8 2)
def Cell.port (x : Cell) : Nat := x.fld 4 1 % 8
def Cell.sub (x : Cell) : Nat := x.fld 4 1 / 8 % 4

/-- The CONFIG TLVs of a record (R272). -/
def Cell.tlvs (x : Cell) : Bytes := (x.cfg.drop (0x60 + 16 * x.fld 8 2)).take (x.fld 0xA 2)

/-- Cell c is RUNNING, or its STOP lets the slots up to a time end (R273). -/
def cellOpen (s : State) (c : Nat) : Bool :=
  s.get CODEC_CELL_STATUS.STATE c == Fn.running ||
    (s.get CODEC_CELL_STATUS.STATE c == Fn.stopping && (cellAt s c).stopAt.isSome)

/-- A slot that the cell still serves: one that begins before the time at which it stops (R273, R284). -/
def Cell.serves (x : Cell) (k : Nat) : Bool := match x.stopAt with | some t => decide (k * x.slotNs < t) | none => true

/-- The RUNNING cell and its flow that a frame belongs to: by sub-port, VLAN ID and eAxC ID (R267). -/
def flowOf (s : State) (p k vid eaxc : Nat) : Option (Nat × Nat) :=
  (mapKeys s.cells).findSome? (fun c =>
    let x := cellAt s c
    if cellOpen s c ∧ x.port = p ∧ x.sub = k then
      (x.flows.find? (fun i => let f := x.flow i; f.1 == eaxc && f.2.1 % 4096 == vid)).map (fun i => (c, i))
    else none)

/-- Channel entry i of an FSK group: eAxC, VLAN word, MAC, EN (12_fsk.md R293). -/
def FskGrp.entry (x : FskGrp) (i : Nat) : Nat × Nat × Bytes × Nat :=
  let f (o n : Nat) : Nat := leNat ((x.table.drop (16 * i + o)).take n)
  (f 0 2, f 2 2, (x.table.drop (16 * i + 4)).take 6, f 10 1)

/-- The RUNNING group and its channel that a frame belongs to (12_fsk.md R291). -/
def fskOf (s : State) (p k vid eaxc : Nat) : Option (Nat × Nat) :=
  (mapKeys s.fsk).findSome? (fun g =>
    if s.get FSK_GRP_STATUS.STATE g = Fn.running ∧ s.get FSK_GRP_PORT.PORT g = p ∧ s.get FSK_GRP_PORT.SUB g = k then
      let x := fskAt s g
      ((List.range (x.table.length / 16)).find? (fun i =>
        let e := x.entry i; e.2.2.2 == 1 && e.1 == eaxc && e.2.1 % 4096 == vid)).map (fun i => (g, i))
    else none)

/-- The frame number nearest to a time that an 8-bit frameId names: frames of 10 ms. -/
def nearFrame (n id : Nat) : Nat :=
  let f := n / 10000000
  let d := (id + 256 - f % 256) % 256
  if d < 128 then f + d else f + d - 256

/-- The time of a frame's symbol: absolute slot and symbol, in a numerology (R269). -/
def airSlot (mu n : Nat) (b : Bytes) : Nat × Nat :=
  let w := be b 28 2
  (nearFrame n (be b 27 1) * (10 * 2 ^ mu) + w / 4096 * 2 ^ mu + w / 64 % 64, w % 64)

/-- The start of a symbol of a cell: an even fourteenth of the slot (log 43). -/
def Cell.symAt (x : Cell) (k l : Nat) : Nat := k * x.slotNs + l * x.slotNs / 14

/-- The arrival window of a section after the end of its time: early, in time, late. -/
def inWindow (t : Int) (end_ lo hi : Nat) : Int :=
  if t < (end_ + lo : Nat) * 256 then -1 else if (end_ + hi : Nat) * 256 < t then 1 else 0

/-- Counts of a flow. -/
def ctrAt (x : Cell) (i : Nat) : FlowCtr := mapGet (fun _ => {}) x.ctrs i
def setCtr (x : Cell) (i : Nat) (c : FlowCtr) : Cell := { x with ctrs := mapPut (fun _ => {}) x.ctrs i c }

/-- The sequence number of a received frame noted (R269). -/
def noteSeq (c : FlowCtr) (q : Nat) : FlowCtr :=
  { c with seen := true, seq := q, gaps := if c.seen ∧ q ≠ (c.seq + 1) % 256 then c.gaps + 1 else c.gaps }

/-- The status register of cell c. -/
def cellFn (c : Nat) : Nat := CODEC_CELL_STATUS.STATE.addr c

/-- The bytes of a resource block by a section's `udCompHdr`: block floating point of a width that R129 names, or no
compression; none for a form that is not supported (R268; the header's coding: log 42). -/
def prbSize (hdr : Nat) : Option Nat :=
  let w := hdr / 16
  if hdr % 16 = 0 ∧ w = 0 then some 48
  else if hdr % 16 = 1 ∧ (w = 8 ∨ w = 9 ∨ w = 12 ∨ w = 14) then some (1 + 3 * w)
  else none

/-- The sections of a U-plane frame from an offset: each by its own `udCompHdr`, up to one of a form that is not supported or
that the frame cuts short (R268; the layout: log 42). The offsets of their blocks count from the application header. -/
def sectionsOf (all slot sym flow : Nat) (b : Bytes) : Nat → Nat → List RxSec
  | 0, _ => []
  | n + 1, o =>
    let num := if be b (o + 3) 1 = 0 then all else be b (o + 3) 1
    let hdr := be b (o + 4) 1
    match prbSize hdr with
    | none => []
    | some z =>
      if b.length < o + 6 + num * z then []
      else { slot := slot, sym := sym, flow := flow, prb := be b (o + 1) 2 % 1024, num := num, hdr := hdr, off := o + 6 - 26 } ::
        sectionsOf all slot sym flow b n (o + 6 + num * z)

/-- A U-plane frame of a cell's flow: its sections into the cell's receive ring, or dropped and counted one by one (R267, R269,
R271). -/
def cellFrame (s : State) (p k c i : Nat) (b : Bytes) (q : Nat) (t : Int) : State :=
  let x := cellAt s c
  let ct := noteSeq (ctrAt x i) q
  let sl := airSlot x.scs (nowN s) b
  let secs := sectionsOf (Config.cellPrbs (x.tlvs)) sl.1 sl.2 i b b.length 30
  if !x.serves sl.1 then s.bumpSat FH_RX_NOFLOW p k
  else
  match inWindow t (x.symAt sl.1 (sl.2 + 1)) (x.fld 0x40 4) (x.fld 0x44 4) with
  | 0 =>
    let data := b.drop 26
    let size := x.fld 0x18 4
    if size < (x.rxHeld.map (·.2)).sum + data.length then
      (setCell s c (setCtr x i ct)).bumpSat FH_RX_NOROOM p k
    else
      let s := (piecesOf size x.rxOff data.length).foldl (fun s z =>
        hubWrite s (cellFn c) (x.fld 0x10 8 + z.1 % size) ((data.drop (z.1 - x.rxOff)).take z.2) false) s
      let held := secs.map (fun z => { z with off := (x.rxOff + z.off) % max 1 size })
      let x := { x with rxOff := (x.rxOff + data.length) % max 1 size, rxHeld := x.rxHeld ++ [(sl.1, data.length)]
                        rxSecs := x.rxSecs ++ held }
      setCell s c (setCtr x i { ct with frames := ct.frames + 1 })
  | d =>
    let s := setCell s c (setCtr x i { ct with late := ct.late + secs.length })
    forEach secs (fun s _ => if d < 0 then s.bumpSat FH_RX_EARLY p k else s.bumpSat FH_RX_LATE p k) s

/-- The bytes of a resource block of a flow's symbol as the cell processes it, with its `udCompHdr`: those of the last accepted
section that carries it, and zeros where none does (R269). -/
def cellPrb (s : State) (c slot sym flow prb : Nat) : Nat × Bytes :=
  let x := cellAt s c
  match (x.rxSecs.filter (fun z => z.slot == slot && z.sym == sym && z.flow == flow && decide (z.prb ≤ prb) &&
      decide (prb < z.prb + z.num))).getLast? with
  | some z =>
    let n := (prbSize z.hdr).getD 48
    let o := z.off + (prb - z.prb) * n
    (z.hdr, (List.range n).map (fun j => ((devRead s (x.fld 0x10 8 + (o + j) % max 1 (x.fld 0x18 4)) 1).2.1).getD 0 0))
  | none => (0, List.replicate 48 0)

/-- Samples of an FSK interval (12_fsk.md R291). -/
def fskPer (s : State) (g : Nat) : Nat := 50 * (s.get FSK_GRP_PHY.RATE g + 1)

/-- An uplink section of an FSK channel: kept for its interval, or dropped and counted (12_fsk.md R292). -/
def fskFrame (s : State) (p k g i : Nat) (b : Bytes) (t : Int) : State :=
  let x := fskAt s g
  let iv := (airSlot 3 (nowN s) b).1
  match inWindow t ((iv + 1) * 125000) (s.get FSK_GRP_TA4.MIN g * 1000) (s.get FSK_GRP_TA4.MAX g * 1000) with
  | 0 =>
    let y := mapGet (fun _ => {}) x.chans i
    let y := { y with sects := y.sects ++ [(iv, (b.drop 36).take (4 * fskPer s g))] }
    setFsk s g { x with chans := mapPut (fun _ => {}) x.chans i y }
  | d => if d < 0 then s.bumpSat FH_RX_EARLY p k else s.bumpSat FH_RX_LATE p k

/-- A PTP event message of the corrected domain forwarded to the other running ports, its ingress time with it (02_almanac.md
R44; which ports it leaves by: log 44). -/
def forwardPtp (s : State) (p : Nat) (b : Bytes) (t : Int) : State :=
  match ptpEvent s b with
  | some o =>
    if s.bit ALM_CFG.TC_EN ∧ be b (o + 4) 1 = s.get ALM_CFG.TC_DOMAIN then
      forEach ((List.range 8).filter (fun r => r != p && fnState s (fhFn r) == Fn.running)) (fun s r =>
        forEach ((List.range (subPorts s r)).filter (fun k => s.bit FH_SUB_STATUS.LINK_UP r k)) (fun s k =>
          enqueue s r 7 { bytes := b, sub := k, ingress := some t }) s) s
    else s
  | none => s

/-- A received frame (R267). -/
def fhReceive (s : State) (p k : Nat) (f : FhFrame) : State :=
  if fnState s (fhFn p) = Fn.running then
    let t := rxTime s p f.q
    let s := s.bumpSat FH_RX_FRAMES p k
    match uplane f.bytes with
    | some (vid, eaxc, q) =>
      match flowOf s p k vid eaxc with
      | some (c, i) => cellFrame s p k c i f.bytes q t
      | none =>
        match fskOf s p k vid eaxc with
        | some (g, i) => fskFrame s p k g i f.bytes t
        | none => s.bumpSat FH_RX_NOFLOW p k
    | none => forwardPtp (fwReceive s p k f.bytes t) p f.bytes t
  else s

/-! ## Transmit -/

/-- A frame's time to begin has passed (R270). -/
def TxFrame.isLate (f : TxFrame) (n : Nat) : Bool := match f.latest with | some t => decide (t < n) | none => false

/-- The egress queue of a firmware frame: 7 for PTP and ESMC, 4 for eCPRI, else the one that the descriptor names, 3 to 0
(R270). -/
def fwQueue (s : State) (b : Bytes) (named : Nat) : Nat :=
  if ptpOrEsmc s b then 7 else if be b (typeAt b) 2 = 0xAEFE then 4 else named % 4

/-- The descriptor at an entry of a port's firmware ring fetched, and its frame put into a queue; a poisoned frame is dropped
when it would leave (R271; the descriptor's layout: log 45). -/
def fwTake (s : State) (p h : Nat) : State :=
  let d := s.get2 FH_FWTX_BASE_LO FH_FWTX_BASE_HI p + 32 * h
  let a := memLe s d 8
  let n := memLe s (d + 8) 4
  let r := devRead s a n
  let f : TxFrame := { bytes := r.2.1, sub := memLe s (d + 12) 1 % subPorts s p, poison := r.2.2 }
  let q := fwQueue s f.bytes (memLe s (d + 13) 1)
  let s := hubSee (hubSee s (fhFn p) d 32) (fhFn p) a n
  if r.1 = Code.done then enqueue (if r.2.2 then seeDev s a n else s) p q f else s

/-- The frames that wait in a port's firmware ring, at most as many as given. -/
def fwFetch (p : Nat) : Nat → State → State
  | 0, s => s
  | n + 1, s =>
    let len := 2 ^ s.get FH_FWTX_SIZE p
    let h := s.get FH_FWTX_HEAD p % len
    if h = s.get FH_FWTX_TAIL p % len ∨ fnState s (fhFn p) ≠ Fn.running then s
    else
      fwFetch p n ((fwTake s p h).set FH_FWTX_HEAD ((h + 1) % len) p)

/-- Quarter nanoseconds that a frame takes at the port's line rate, preamble and check sequence with it (R266, R67). -/
def frameTime (s : State) (p : Nat) (b : Bytes) : Nat :=
  let bits := (b.length + 12) * 8
  match s.get FH_CFG.MODE p with
  | 0 => (bits * 4 + 399) / 400
  | 1 => (bits * 4 + 199) / 200
  | _ => (bits * 4 + 99) / 100

/-- The frame as it leaves at a quarter nanosecond, its check sequence not counted: stamped, or corrected in passing
(02_almanac.md R43, R44). -/
def leaving (s : State) (p : Nat) (f : TxFrame) (ph : Nat) : Bytes :=
  match ptpEvent s f.bytes, f.ingress with
  | some o, some t => addResidence f.bytes o (txTime s p ph - t)
  | some o, none => if be f.bytes o 1 % 16 < 2 then stampOrigin f.bytes o (txTime s p ph) else f.bytes
  | none, _ => f.bytes

/-- A Delay_Req of the slave's domain that the device sends on the upstream sub-port gives its transmit time, under its
sequence number (02_almanac.md R45, R46). -/
def noteDelayReq (s : State) (p : Nat) (f : TxFrame) (ph : Nat) : State :=
  match ptpEvent s f.bytes with
  | some o =>
    if f.ingress.isNone ∧ be f.bytes o 1 % 16 = 1 ∧ be f.bytes (o + 4) 1 = s.get ALM_CFG.PTP_DOMAIN ∧
        s.get ALM_CFG.UP_PORT = p ∧ s.bit ALM_STATUS.UP_VALID ∧ s.get ALM_STATUS.UP_SUB = f.sub then
      let seq := be f.bytes (o + 30) 2
      { s with servo := { s.servo with
        reqs := s.servo.reqs.filter (fun r => r.1 != seq) ++ [(seq, txTime s p ph * 256)] } }
    else s
  | none => s

/-- The frame at the head of queue q starts a number of quarter nanoseconds after the last tick: the queue is open, the frame
ends before its closing, and its time has not passed; a poisoned one is dropped and counted (R67, R270; 02_almanac.md R42,
R43; 08_memory.md R214). -/
def fhTransmit (s : State) (p q ph : Nat) : State :=
  match fhQueue s p q with
  | [] => s
  | f :: rest =>
    let fits := match queueCloseWait s p q with
      | some w => decide (frameTime s p f.bytes < 4 * w)
      | none => true
    if fnState s (fhFn p) ≠ Fn.running ∨ !queueOpen s p q ∨ !fits ∨ f.isLate (nowN s) then s
    else if f.poison then
      let s := setQueue s p q rest
      match f.cell with
      | some c => s.bumpSat CODEC_CELL_POISON_DROP c
      | none => s
    else
      let s := setQueue s p q rest
      let b := leaving s p f ph
      let s := noteDelayReq (emit s (.fh p (b ++ frameCheck b))) p f ph
      let s := match f.cell with
        | some c =>
          let x := cellAt s c
          let ct := ctrAt x f.flow
          setCell s c (setCtr x f.flow { ct with frames := ct.frames + 1 })
        | none => s
      s.bumpSat FH_TX_FRAMES p f.sub

/-- A released frame that has not begun in time is dropped and counted (R270; 12_fsk.md R302). -/
def txLate (s : State) (p q : Nat) : State :=
  let l := fhQueue s p q
  match l.find? (fun f => f.isLate (nowN s)) with
  | some f => (setQueue s p q (l.erase f)).bumpSat FH_TX_LATE p f.sub
  | none => s

/-! ## Start and stop (R287) -/

/-- Counters of a port cleared. -/
def fhClear (s : State) (p : Nat) : State :=
  forEach (List.range 4) (fun s k =>
    forEach [FH_RX_FRAMES, FH_RX_EARLY, FH_RX_LATE, FH_RX_NOFLOW, FH_RX_NOROOM, FH_TX_FRAMES, FH_TX_LATE] (fun s f => s.set f 0 p k) s) s

/-- A register of a fronthaul port is out of the range that its row states: MODE, MTU, the sizes of the firmware rings (R287;
00_scope.md R442). -/
def fhBad (s : State) (p : Nat) : Bool :=
  let out (v lo hi : Nat) : Bool := decide (v < lo) || decide (hi < v)
  decide (s.get FH_CFG.MODE p = 3) || out (s.get FH_CFG.MTU p) 1518 9600 ||
    out (s.get FH_FWRX_SIZE p) 4 12 || out (s.get FH_FWTX_SIZE p) 4 12

/-- START: the ranges are checked, the counters are cleared, the corrections of the mode are loaded (R287; 02_almanac.md R41;
00_scope.md R442). -/
def fhStart (s : State) (p : Nat) : State :=
  startInDomain s (184 + p) (fun s =>
    if fnState s (fhFn p) = Fn.stopped then
      let m := s.get FH_CFG.MODE p
      let s := startFn (fhClear s p) (fhFn p) (if fhBad s p then some Code.badArgument else none)
      if fnState s (fhFn p) ≠ Fn.running then s
      else chooseUpstream ((s.set ALM_TSC_IN (modeCorr m).1 p).set ALM_TSC_EG (modeCorr m).2 p)
    else s)

/-- A RUNNING cell or FSK group names port p (R287; 12_fsk.md R294). -/
def portNamed (s : State) (p : Nat) : Bool :=
  (mapKeys s.cells).any (fun c => s.get CODEC_CELL_STATUS.STATE c == Fn.running && (cellAt s c).port == p) ||
  (mapKeys s.fsk).any (fun g => s.get FSK_GRP_STATUS.STATE g == Fn.running && s.get FSK_GRP_PORT.PORT g == p)

/-- A port that leaves RUNNING: its queues are empty, its links down, the upstream chosen afresh (02_almanac.md R57). -/
def fhDown (s : State) (p st : Nat) : State :=
  let s := forEach (List.range 8) (fun s q => setQueue s p q []) s
  let s := forEach (List.range 4) (fun s k => s.set FH_SUB_STATUS.W 0 p k) s
  chooseUpstream (setFnState s (fhFn p) st)

/-- STOP: ignored while a RUNNING cell or FSK group names the port (R287). -/
def fhStop (s : State) (p : Nat) : State :=
  let st := fnState s (fhFn p)
  if st = Fn.running then (if portNamed s p then s.set FH_STATUS.STOP_REJECT 1 p else fhDown s p Fn.stopped)
  else if st = Fn.faulted then fhDown s p Fn.stopped
  else s

/-! ## The commands -/

/-- FH_FRAME_RECEIVE (R267). -/
def execFhFrameReceive (p k : Nat) (frame : FhFrame) (s : State) : Out :=
  .next (if p < 8 ∧ k < subPorts s p then fhReceive s p k frame else s)

/-- FH_FRAME_TRANSMIT (03_calendar.md R67). -/
def execFhFrameTransmit (p : Nat) (start : TxStart) (s : State) : Out :=
  .next (if p < 8 ∧ start.queue < 8 then fhTransmit s p start.queue start.phase else s)

/-- TX_LATE_DROP (R270). -/
def execTxLateDrop (p q : Nat) (s : State) : Out := .next (if p < 8 ∧ q < 8 then txLate s p q else s)

/-- FH_START (R287). -/
def execFhStart (p : Nat) (s : State) : Out := .next (if p < 8 then fhStart s p else s)

/-- FH_STOP (R287). -/
def execFhStop (p : Nat) (s : State) : Out := .next (if p < 8 then fhStop s p else s)

end Sys2Proof.Machine
end

