-- ==== Sys2Proof/Machine/Cells.lean ====
section
/-! DEFINITION. Radio cells: start and stop, the slot's fixed times, fronthaul frames sent, replication and takeover
(11_nr_baseband.md R270 to R277, R283 to R288), and the arrival of gate changes at a core (03_calendar.md R61, R66, R69). -/

namespace Sys2Proof.Machine

/-- A RUNNING cell that is no standby. -/
def cellLive (s : State) (c : Nat) : Bool := fnState s (cellFn c) == Fn.running && !s.bit CODEC_CELL_STATUS.STANDBY c

/-- A cell that is no standby serves slots: RUNNING, or stopping with the slot in progress to end (R273). -/
def cellServing (s : State) (c : Nat) : Bool := cellOpen s c && !s.bit CODEC_CELL_STATUS.STANDBY c

/-! ## The fixed times of a numerology (R276) -/

/-- Slots from a request deadline to the air start. -/
def Cell.leadSlots (x : Cell) : Nat := if x.scs < 2 then 3 else if x.scs = 2 then 4 else 6
/-- CRC, RX_Data and UCI indications after the slot's end, ns. -/
def Cell.crcDelay (x : Cell) : Nat := if x.scs = 0 then 1500000 else if x.scs = 1 then 750000 else if x.scs = 2 then 500000 else 375000
/-- RACH indication after the occasion's end, ns. -/
def Cell.rachDelay (x : Cell) : Nat := if x.scs = 0 then 3000000 else if x.scs = 1 then 1500000 else if x.scs = 2 then 1000000 else 750000
/-- SRS indication after the slot's end, ns. -/
def Cell.srsDelay (x : Cell) : Nat := if x.scs = 0 then 2500000 else if x.scs = 1 then 1250000 else if x.scs = 2 then 750000 else 500000

/-- The first slot or symbol that can still be served from a time on. -/
def Cell.firstSlot (x : Cell) (n : Nat) : Nat := (n + x.slotNs - 1) / x.slotNs

/-! ## The record (R272, R273) -/

/-- The record's fields keep their limits (R272). -/
def cellOk (x : Cell) : Bool :=
  let n := x.fld 8 2
  let f := x.flows.map x.flow
  decide (128 ≤ x.fld 0 4) && decide (x.fld 0 4 ≤ 65536) && decide (0x60 + 16 * n + x.fld 0xA 2 ≤ x.fld 0 4) &&
  decide (x.fld 4 1 < 32) && decide (x.fld 5 1 < 4) && decide (x.fld 6 1 < 2) &&
  decide (1 ≤ x.fld 7 1) && decide (x.fld 7 1 ≤ 32) && decide (1 ≤ n) && decide (n ≤ 256) &&
  decide (x.fld 0xC 4 % 64 = 0) && decide (4096 ≤ x.fld 0x54 4) && decide (x.fld 0x54 4 ≤ 16777216) &&
  decide (x.fld 0x58 8 = 0) &&
  f.all (fun e => decide (e.2.1 / 4096 % 2 = 0) && decide (e.2.2.2.1 < 3) && decide (e.2.2.2.2 < 5)) &&
  x.flows.all (fun i => x.fld (0x60 + 16 * i + 0xC) 4 == 0)

/-- The eAxC IDs in use on a sub-port by running cells and FSK groups. -/
def eaxcUsed (s : State) (p k c : Nat) : List Nat :=
  ((mapKeys s.cells).filter (fun d => d != c && cellLive s d && (cellAt s d).port == p && (cellAt s d).sub == k)).flatMap
    (fun d => (cellAt s d).flows.map (fun i => ((cellAt s d).flow i).1)) ++
  ((mapKeys s.fsk).filter (fun g => s.get FSK_GRP_STATUS.STATE g == Fn.running && s.get FSK_GRP_PORT.PORT g == p &&
    s.get FSK_GRP_PORT.SUB g == k)).flatMap (fun g =>
      let y := fskAt s g
      ((List.range (y.table.length / 16)).filter (fun i => (y.entry i).2.2.2 == 1)).map (fun i => (y.entry i).1))

/-- No value of a list repeats. -/
def noRepeat : List Nat → Bool
  | [] => true
  | a :: t => !(t.elem a) && noRepeat t

/-- What keeps a cell from starting (R273). -/
def cellCheck (s : State) (c : Nat) (x : Cell) : Option Nat :=
  let ids := x.flows.map (fun i => (x.flow i).1)
  if !cellOk x || !noRepeat ids || (eaxcUsed s x.port x.sub c).any ids.elem || !Config.tlvsOk x.tlvs then
    some Code.badArgument
  else if fnState s (fhFn x.port) ≠ Fn.running ∨ s.get CODEC_GRP_STATUS.STATE (x.fld 5 1) ≠ Fn.running then
    some Code.stateConflict
  else none

/-- The cell with its record read (R272); one that cannot be read gives the access's code (08_memory.md R203). -/
def readCell (s : State) (c : Nat) : Nat × Cell :=
  let a := s.get2 CODEC_CELL_CFG_LO CODEC_CELL_CFG_HI c
  let n := min 65536 (memLe s a 4)
  let r := devRead s a n
  let x : Cell := { active := true, cfg := r.2.1 }
  (if r.1 ≠ Code.done then r.1 else if r.2.2 then Code.uncorrectable else Code.done,
    { x with scs := Config.cellScs x.tlvs % 4, fdd := Config.cellFdd x.tlvs })

/-! ## Flow beads (R273) -/

/-- Flow beads created for the flows of a list; none where one cannot be placed (R250, R273). -/
def flowBeads (c : Nat) (x : Cell) : List Nat → List Nat → State → Option (List Nat × State)
  | [], l, s => some (l, s)
  | i :: t, l, s =>
    match placeBead s Bead.flow 256 with
    | none => none
    | some b =>
      let (a, s) := admitStamp s
      flowBeads c x t (l ++ [b]) (newBead s b Bead.flow Bead.running 0 256 0xFF a 0
        (bytesLe 2 c ++ bytesLe 2 (x.flow i).1 ++ bytesLe 1 (x.fld 4 1) ++ bytesLe 1 (x.flow i).2.2.2.1))

/-- A running cell faults: its beads are FAULTED, it transmits nothing (R273, R251). -/
def cellFault (s : State) (c code : Nat) : State :=
  let x := cellAt s c
  let s := forEach x.beads (fun s b => bput (bput s b BF.state Bead.faulted) b BF.code code) s
  let s := setCell s c { x with active := false, txArm := false, takeAt := none, stopAt := none }
  faultFn (s.set CODEC_CELL_STATUS.TX_ENABLED 0 c) (cellFn c) code

/-- A flow's counts since the last time added to its bead (R273). -/
def flushFlow (x : Cell) (s : State) (p : Nat × Nat) : State :=
  let ct := ctrAt x p.1
  let sat (o d : Nat) (s : State) : State := bput s p.2 (o, 4) (min (bget s p.2 (o, 4) + d) (2 ^ 32 - 1))
  let s := beadRead s p.2
  let s := bput s p.2 (0x26, 1) ct.seq
  bput (sat 0x2C ct.gaps (sat 0x28 ct.late s)) p.2 (0x30, 8) (bget s p.2 (0x30, 8) + ct.frames)

/-- The counts of a cell's flows sent to their beads; a poisoned bead faults the cell (R273, R251). -/
def flushCell (s : State) (c : Nat) : State :=
  let x := cellAt s c
  if x.beads.any (beadBad s) then cellFault (forEach (x.beads.filter (beadBad s)) beadPoison s) c Code.uncorrectable
  else
    let s := forEach (x.flows.zip x.beads) (flushFlow x) s
    setCell s c { x with ctrs := x.ctrs.map (fun p => (p.1, { p.2 with late := 0, gaps := 0, frames := 0 })) }

/-! ## Start and stop (R273, R284, R286, R288) -/

/-- The cell's fixed times begin with the first that have not passed (R276). -/
def Cell.begin (x : Cell) (n : Nat) : Cell :=
  let k := x.firstSlot n
  { x with nextReq := k + x.leadSlots, nextInd := k + x.leadSlots + 1, nextCrc := k, nextRach := k, nextSrs := k
           nextCp := x.firstSlot (n + x.fld 0x50 4), nextUp := x.firstSlot (n + x.fld 0x4C 4) * 14 }

/-- TIME_ALARM of a cell that starts: set only in HOLDOVER_EXPIRED (R286; log 40). -/
def startAlarm (s : State) (c : Nat) : State := if timeState s = Ts.expired then s else setAlarm s c 0

/-- A cell becomes the sender of its flows: the checks, the beads, the times (R273, R286). -/
def cellUp (s : State) (c : Nat) (x : Cell) (code : Nat) : State :=
  let bad := if code ≠ Code.done then some code else cellCheck s c x
  match bad with
  | some e => faultFn s (cellFn c) e
  | none =>
    match flowBeads c x x.flows [] s with
    | none => faultFn s (cellFn c) Code.busy
    | some (l, s) =>
      let x := ({ x with beads := l } : Cell).begin (nowN s)
      let x := if timeState s = Ts.locked then { x with txArm := true, txAt := nextFrame (nowN s) } else x
      startAlarm (setFnState (setFnCode (setCell s c x) (cellFn c) Code.done) (cellFn c) Fn.running) c

/-- A cell that has stopped: its beads are FREE, its frames are gone from the queues. -/
def cellDown (s : State) (c : Nat) : State :=
  let x := cellAt s c
  let s := if x.active then flushCell s c else s
  let s := forEach x.beads freeBead s
  let s := { s with fhq := (s.fhq.map (fun p => (p.1, p.2.filter (fun f => f.cell != some c)))).filter (fun p => !p.2.isEmpty) }
  let s := setCell s c {}
  setFnState ((s.set CODEC_CELL_STATUS.TX_ENABLED 0 c).set CODEC_CELL_STATUS.STANDBY 0 c) (cellFn c) Fn.stopped

/-- A cell whose stop time has come is STOPPING, and STOPPED once the last of its slots' fixed times has passed (R273, R276;
log 334). -/
def cellSettle (s : State) (c : Nat) : State :=
  match (cellAt s c).stopAt with
  | some t =>
    let s := if t ≤ nowN s ∧ fnState s (cellFn c) = Fn.running then setFnState s (cellFn c) Fn.stopping else s
    if t + (cellAt s c).rachDelay < nowN s ∧ fnState s (cellFn c) = Fn.stopping then cellDown s c else s
  | none => s

/-- The counts and the flags of a cell cleared (R288). -/
def cellClear (s : State) (c : Nat) : State :=
  forEach [CODEC_CELL_MISSED, CODEC_CELL_HARQ_DROP, CODEC_CELL_POISON_DROP, CODEC_CELL_IND_DROP,
    CODEC_CELL_LATE_MSG, CODEC_CELL_STARTS.W, CODEC_CELL_STATUS.TX_ENABLED,
    CODEC_CELL_STATUS.CAL_LOST, CODEC_CELL_STATUS.REPL_SUSPENDED, CODEC_CELL_STATUS.STANDBY] (fun s f => s.set f 0 c) s

/-- START (R273, R284, R286, R288). -/
def cellStart (s : State) (c : Nat) : State :=
  let s := cellSettle s c
  if fnState s (cellFn c) ≠ Fn.stopped then s
  else if parityHeld s (cellFn c) then faultFn s (cellFn c) Code.configParity
  else
    let s := cellClear s c
    let (code, x) := readCell s c
    if s.bit CODEC_CELL_PARTNER.STANDBY c then
      setFnState (setFnCode (setCell (s.set CODEC_CELL_STATUS.STANDBY 1 c) c x) (cellFn c) Code.done) (cellFn c) Fn.running
    else
      let s := cellUp s c x code
      if fnState s calFn ≠ Fn.running ∧ fnState s (cellFn c) = Fn.running then
        setCell (s.set CODEC_CELL_STATUS.CAL_LOST 1 c) c ((cellAt s c).calTurn (nowN s) 1)
      else s

/-- A RUNNING cell is to stop at a time: it begins no slot from then on (R273, R284). -/
def stopCellAt (s : State) (c t : Nat) : State :=
  let x := cellAt s c
  setCell s c { x with stopAt := some (min t (x.stopAt.getD t)), takeAt := none }

/-- STOP: the slot in progress ends (R273). -/
def cellStop (s : State) (c : Nat) : State :=
  let s := cellSettle s c
  let st := fnState s (cellFn c)
  let x := cellAt s c
  if st = Fn.running then
    (if s.bit CODEC_CELL_STATUS.STANDBY c then cellDown s c
     else setFnState (stopCellAt s c ((x.slotAt (nowN s) + 1) * x.slotNs)) (cellFn c) Fn.stopping)
  else if st = Fn.faulted then cellDown s c
  else s

/-- An event of cell c that needs it to serve slots, after a stop whose time has come. -/
def onCell (s : State) (c : Nat) (f : State → State) : State :=
  let s := cellSettle s c
  if c < 512 ∧ cellServing s c then f s else s

/-! ## Fronthaul frames sent (R268, R270) -/

/-- An eCPRI frame of a flow for a slot and symbol (the layout: log 42). -/
def cellTxFrame (s : State) (x : Cell) (i typ dir k sym seq : Nat) (body : Bytes) : Bytes :=
  let f := x.flow i
  let mac := s.get FH_MAC_HI x.port x.sub * 2 ^ 32 + s.get FH_MAC_LO x.port x.sub
  let sl := x.slotNo k
  let per := x.perFrame
  let app := bytesBe 1 (dir * 128 + 16) ++ bytesBe 1 (sl / per) ++
    bytesBe 2 (sl % per / 2 ^ x.scs * 4096 + sl % per % 2 ^ x.scs * 64 + sym) ++ body
  f.2.2.1 ++ bytesBe 6 mac ++ bytesBe 2 0x8100 ++ bytesBe 2 f.2.1 ++ bytesBe 2 0xAEFE ++ bytesBe 1 0x10 ++ bytesBe 1 typ ++
    bytesBe 2 (app.length + 4) ++ bytesBe 2 f.1 ++ bytesBe 1 seq ++ bytesBe 1 0x80 ++ app

/-- `udCompHdr` of a flow by its width code: the width in the high four bits and block floating point, or 0 for no compression
(R268, R272; the header's coding: log 42). -/
def compHdr (bfpw : Nat) : Nat :=
  match bfpw with
  | 0 => 0x81
  | 1 => 0x91
  | 2 => 0xC1
  | 3 => 0xE1
  | _ => 0

/-- A string cut or filled with zeros to n bytes. -/
def padTo (n : Nat) (b : Bytes) : Bytes := (b ++ List.replicate n 0).take n

/-- The first three bytes of a section: its number, two zero bits and its first resource block. -/
def sectHead (id start : Nat) : Bytes := bytesBe 3 (id % 4096 * 4096 + start % 1024)

/-- The body of a U-plane frame: sections with `udCompHdr` and blocks of its form (R268; the layout: log 42). -/
def uplaneBody (hdr : Nat) (l : List (Nat × Nat × Nat × Bytes)) : Bytes :=
  l.flatMap (fun z =>
    let n := z.2.2.1 % 256
    sectHead z.1 z.2.1 ++ bytesBe 1 n ++ bytesBe 1 hdr ++ bytesBe 1 0 ++ padTo (n * (prbSize hdr).getD 48) z.2.2.2)

/-- The body of a C-plane frame: section type 1, or 3, and in category B section extension 1 with the beamforming weights, no
other type and no other extension (R268; the layout: log 42). -/
def cplaneBody (catB : Bool) (hdr : Nat) (z : Bool × Bytes × List (Bytes × Bytes)) : Bytes :=
  let head := if z.1 then bytesBe 1 3 ++ padTo 5 z.2.1 ++ bytesBe 1 hdr else bytesBe 1 1 ++ bytesBe 1 hdr ++ bytesBe 1 0
  let secs := z.2.2.take 255
  bytesBe 1 secs.length ++ head ++ secs.flatMap (fun e =>
    let w := (e.2.length + 5) / 4
    let beam := be (padTo 12 e.1) 6 2 % 32768
    padTo 6 e.1 ++ bytesBe 2 ((if catB then 32768 else 0) + beam) ++
      (if z.1 then padTo 4 (e.1.drop 8) else []) ++
      (if catB then bytesBe 1 1 ++ bytesBe 1 w ++ padTo (4 * w - 2) e.2 else []))

/-- A frame of flow i put in a queue; what its sections hold is the cell image's, a free value. -/
def cellSend (c q typ dir k sym : Nat) (s : State) (i : Nat) : State :=
  let x := cellAt s c
  let hdr := compHdr (x.flow i).2.2.2.2
  let ct := ctrAt x i
  let seq := if ct.seen then (ct.seq + 1) % 256 else 0
  let (j, s) := takeFree s
  let s := setCell s c (setCtr x i { ct with seen := true, seq := seq })
  let body := if typ = 0 then uplaneBody hdr (Config.freeSections j)
    else cplaneBody (decide (x.fld 6 1 = 1)) hdr (Config.freeCplane j)
  enqueue s x.port q { bytes := cellTxFrame s x i typ dir k sym seq body, sub := x.sub
                       latest := some (x.symAt k sym - x.fld 0x48 4), cell := some c, flow := i }

/-- The flows of a direction. -/
def Cell.dirFlows (x : Cell) (d : Nat) : List Nat := x.flows.filter (fun i => (x.flow i).2.2.2.1 == d)

/-- The Calendar was not RUNNING in some slot of a range (R277). -/
def Cell.lostIn (x : Cell) (a b : Nat) : Bool :=
  x.lost.any (fun r => decide (r.1 ≤ b) && decide (a ≤ r.2)) ||
    (match x.lostFrom with | some k => decide (k ≤ b) | none => false)

/-- Uplink slot k is treated as missed: HARD of the slot after it processes it (R277). -/
def slotMissed (s : State) (c k : Nat) : Bool := (cellAt s c).missed.elem k || (cellAt s c).lostIn k (k + 1)

/-- Downlink slot k is treated as missed: HARD of the slot before it prepares it (R277; log 335). -/
def downMissed (s : State) (c k : Nat) : Bool := (cellAt s c).missedDl.elem k || (cellAt s c).lostIn (k - 1) k

/-- C-plane frames of the next slot, T_CP_ADV before it (R270, R286). -/
def cplane (s : State) (c : Nat) : State :=
  onCell s c (fun s =>
    let x := cellAt s c
    let k := x.nextCp
    if nowN s + x.fld 0x50 4 < k * x.slotNs ∨ !x.serves k then s
    else
      let s := setCell s c { x with nextCp := k + 1 }
      let s := forEach (x.dirFlows 2) (cellSend c 6 2 0 k 0) s
      if s.bit CODEC_CELL_STATUS.TX_ENABLED c then forEach (x.dirFlows 2) (cellSend c 6 2 1 k 0) s else s)

/-- Downlink U-plane frames of the next symbol, T1A_MAX_UP before it; none for a missed slot (R270, R277, R286). -/
def uplaneRelease (s : State) (c : Nat) : State :=
  onCell s c (fun s =>
    let x := cellAt s c
    let k := x.nextUp / 14
    let l := x.nextUp % 14
    if nowN s + x.fld 0x4C 4 < x.symAt k l ∨ !x.serves k then s
    else
      let s := setCell s c { x with nextUp := x.nextUp + 1, missedDl := x.missedDl.filter (fun p => k ≤ p) }
      if s.bit CODEC_CELL_STATUS.TX_ENABLED c ∧ !downMissed s c k then forEach (x.dirFlows 1) (cellSend c 5 0 1 k l) s else s)

/-! ## Layer 2 (R274, R276, R277) -/

/-- SLOT.indication, one slot before the request deadline (R276). -/
def slotIndication (s : State) (c : Nat) : State :=
  onCell s c (fun s =>
    let x := cellAt s c
    let k := x.nextInd
    if nowN s + (x.leadSlots + 1) * x.slotNs < k * x.slotNs ∨ !x.serves k then s
    else indicate (setCell s c { x with nextInd := k + 1 }) c Ind.slot k [])

/-- The absolute slot nearest to slot k that a slot number names. -/
def Cell.nearSlot (x : Cell) (k n : Nat) : Int :=
  let p := 1024 * x.perFrame
  let d := (n % p + p - k % p) % p
  if 2 * d < p then (k + d : Nat) else ((k + d : Nat) : Int) - p

/-- Messages of the request ring taken at the deadline of slot k; a late one is discarded and answered (R274). -/
def takeReqs (c k : Nat) : Nat → State → State
  | 0, s => s
  | n + 1, s =>
    let x := cellAt s c
    let base := x.fld 0x28 8
    let size := x.fld 0x54 4
    let h := ringHead s base % max 1 size
    let used := ringUsed s base size
    if memTop s < base + 128 + size then setFnCode s (cellFn c) Code.notPresent
    else if used < 8 then s
    else
      let len := leNat (ringRead s base size h 4)
      if used < 8 + len then s
      else
        let slot := x.nearSlot k (leNat (ringRead s base size (h + 4) 4))
        let body := ringRead s base size (h + 8) len
        let s := ringRaise (hubSee s (cellFn c) base 128) (hubRequester (cellFn c) false) base size h (8 + len)
        let s := hubStore s (cellFn c) (base + 0x40) (bytesLe 4 ((h + 8 + len) % size))
        let s :=
          if slot < k then indicate (s.bumpSat CODEC_CELL_LATE_MSG c) c Ind.error (x.slotAt (nowN s)) body
          else setCell s c { cellAt s c with reqs := (cellAt s c).reqs ++ [(slot.toNat, body)] }
        takeReqs c k n s

/-- The request deadline of a slot (R274, R276). -/
def reqDeadline (s : State) (c : Nat) : State :=
  onCell s c (fun s =>
    let x := cellAt s c
    let k := x.nextReq
    if nowN s + x.leadSlots * x.slotNs < k * x.slotNs ∨ !x.serves k then s
    else takeReqs c k (x.fld 0x54 4 / 8) (setCell s c { x with nextReq := k + 1 }))

/-- The CRC, RX_Data and UCI indications of a slot; its space in the receive ring and its requests are freed, its counts
go to the beads (R271, R273, R276, R277). -/
def crcIndication (s : State) (c : Nat) : State :=
  onCell s c (fun s =>
    let x := cellAt s c
    let k := x.nextCrc
    if nowN s < (k + 1) * x.slotNs + x.crcDelay ∨ !x.serves k then s
    else
      let bad := slotMissed s c k
      let s := if bad && !x.missed.elem k then s.bumpSat CODEC_CELL_MISSED c else s
      let s := setCell s c { x with
        nextCrc := k + 1, rxHeld := x.rxHeld.filter (fun p => k < p.1), reqs := x.reqs.filter (fun p => k < p.1)
        rxSecs := x.rxSecs.filter (fun z => k < z.slot)
        missed := x.missed.filter (fun p => k < p), lost := x.lost.filter (fun r => k < r.2) }
      let d : Bytes := if bad then [1] else [0]
      flushCell (forEach [Ind.crc, Ind.rxData, Ind.uci] (fun s i => indicate s c i k d) s) c)

/-- The slot whose end lies a delay before now, on the first tick at or after that time: an indication is written at exactly
its stated time (R276). -/
def Cell.dueSlot (x : Cell) (delay n : Nat) : Option Nat :=
  let d := delay + x.slotNs
  if d ≤ n ∧ (n - d) % x.slotNs ≤ 2 ∧ x.serves ((n - d) / x.slotNs) then some ((n - d) / x.slotNs) else none

/-- RACH.indication, its body the cell image's, at its fixed time after an occasion that ends with its slot, once (R276; the
occasion's end: log 336). -/
def rachIndication (s : State) (c : Nat) (body : Bytes) : State :=
  onCell s c (fun s =>
    let x := cellAt s c
    match x.dueSlot x.rachDelay (nowN s) with
    | some k => if k < x.nextRach then s else indicateBody (setCell s c { x with nextRach := k + 1 }) c k body
    | none => s)

/-- SRS.indication, its body the cell image's, at its fixed time after the slot's last symbol, once (R276). -/
def srsIndication (s : State) (c : Nat) (body : Bytes) : State :=
  onCell s c (fun s =>
    let x := cellAt s c
    match x.dueSlot x.srsDelay (nowN s) with
    | some k => if k < x.nextSrs then s else indicateBody (setCell s c { x with nextSrs := k + 1 }) c k body
    | none => s)

/-! ## Replication and takeover (R283 to R285) -/

/-- The issuer number of cell c's fabric writes. -/
def cellIssuer (c : Nat) : Nat := 256 + c

/-- A replica sent to the partner's alternate buffer, the slot number last (R283). -/
def replicaSend (s : State) (c : Nat) (data : Bytes) : State :=
  onCell s c (fun s =>
    if !s.bit CODEC_CELL_PARTNER.REPL_EN c then s
    else if !(openDests s (cellIssuer c)).isEmpty ∨ s.bit FIL_STATUS.PARTITIONED then s.set CODEC_CELL_STATUS.REPL_SUSPENDED 1 c
    else
      let x := cellAt s c
      let node := s.get CODEC_CELL_PARTNER.NODE c
      let base := x.fld 0x38 8 + 65536 * x.replBuf
      let slot := x.slotAt (nowN s)
      let data := data.take 65528
      let s := forEach (piecesOf 1024 (base + 8) data.length) (fun s p =>
        issueWrite s (cellIssuer c) 0x03 0 node p.1 ((data.drop (p.1 - (base + 8))).take p.2) false true) s
      let s := issueWrite s (cellIssuer c) 0x03 0 node base (bytesLe 4 (x.slotNo slot)) false true
      (setCell s c { cellAt s c with replBuf := 1 - x.replBuf }).set CODEC_CELL_REPL_SLOT (x.slotNo slot) c)

/-- A standby keeps the newer complete replica (R284). -/
def replicaReceive (s : State) (c : Nat) (buf : Bool) (slot : Word) : State :=
  if fnState s (cellFn c) = Fn.running ∧ s.bit CODEC_CELL_STATUS.STANDBY c then
    let x := cellAt s c
    let k := (x.nearSlot (x.slotAt (nowN s)) slot.toNat).toNat
    let newer := match x.replica with | some (_, o) => decide (o < k) | none => true
    if newer then
      (setCell s c { x with replica := some (if buf then 1 else 0, k) }).set CODEC_CELL_REPL_SLOT slot.toNat c
    else s
  else s

/-- The first frame boundary at least 1 ms later (R284). -/
def takeBoundary (n : Nat) : Nat := (n + 1000000 + 9999999) / 10000000 * 10000000

/-- A standby cell is to take over at its boundary (R284). -/
def armTakeover (s : State) (c : Nat) : State :=
  if fnState s (cellFn c) = Fn.running ∧ s.bit CODEC_CELL_STATUS.STANDBY c ∧ (cellAt s c).takeAt.isNone then
    setCell s c { cellAt s c with takeAt := some (takeBoundary (nowN s)) }
  else s

/-- A TAKEOVER write: the boundary is told to the primary, which stops there (R284). On another device that message is the
command with the boundary told: its primary stops at it (log 269). -/
def takeover (s : State) (c : Nat) (told : Option Nat) : State :=
  match told with
  | some t => if cellLive s c then stopCellAt s c t else s
  | none =>
  if fnState s (cellFn c) = Fn.running ∧ s.bit CODEC_CELL_STATUS.STANDBY c then
    let s := armTakeover s c
    match (cellAt s c).takeAt with
    | some t =>
      let node := s.get CODEC_CELL_PARTNER.NODE c
      let d := s.get CODEC_CELL_PARTNER.CELL c
      if node = ownNode s then (if cellLive s d then stopCellAt s d t else s)
      else emit s (.takeover node d t)
    | none => s
  else s

/-- The takeover boundary: the standby becomes the primary, cold where no replica or only an old one is held (R284, R285;
14_journal_recovery.md R344, R362). -/
def takeoverBoundary (s : State) (c : Nat) : State :=
  let x := cellAt s c
  match x.takeAt with
  | none => s
  | some t =>
    if nowN s < t ∨ fnState s (cellFn c) ≠ Fn.running then s
    else
      let cold := match x.replica with | some (_, k) => decide (k * x.slotNs + 10000000 < t) | none => true
      let (code, y) := readCell s c
      let s := s.set CODEC_CELL_STATUS.STANDBY 0 c
      let s := cellUp s c { y with replica := if cold then none else x.replica } code
      let s := journal (s.bumpSat CODEC_CELL_STARTS.TAKEOVERS c) { typ := 0x41, arg := c }
      if fnState s (cellFn c) ≠ Fn.running then s
      else if cold then
        let s := journal s { typ := 0x42, arg := c }
        indicate ((s.bumpSat CODEC_CELL_STARTS.COLD c).set CODEC_CELL_STATUS.COLD 1 c) c Ind.error (x.slotAt (nowN s)) []
      else s

/-- The frame boundary after LOCKED: transmission is enabled (R286). -/
def txBoundary (s : State) (c : Nat) : State :=
  onCell s c (fun s =>
    let x := cellAt s c
    if x.txArm ∧ x.txAt ≤ nowN s then setCell (s.set CODEC_CELL_STATUS.TX_ENABLED 1 c) c { x with txArm := false } else s)

/-! ## Gate changes at a core (03_calendar.md R61, R66, R69) -/

/-- HARD commands of a context never started at the close of HARD: they are dropped, and its cell has missed the uplink slot
before and the downlink slot after the present one (R66, R277; which slots: log 335). -/
def dropHard (n : Nat) (s : State) (sl : Nat) : State :=
  let z := (coreAt s n).slot sl
  let y := ctxAt s z.ctx
  let waits (t : Nat) : Bool :=
    decide ((y.live.stream t).pc < y.img.last.getD t 0) || !(y.live.stream t).dynq.isEmpty
  if z.valid && y.state == 3 && y.img.cls == 0 && y.job && (List.range 4).any waits then
    let live := (List.range 4).foldl (fun p t =>
      p.setStream t { p.stream t with pc := max (p.stream t).pc (y.img.last.getD t 0), dynq := [], dynLeft := 0, word := none })
      y.live
    let s := setCtx s z.ctx { y with live := live }
    let c := y.img.id.toNat % 512
    if cellServing s c then
      let x := cellAt s c
      let k := x.slotAt (nowN s)
      if x.missedDl.elem (k + 1) then s
      else (setCell s c { x with missed := x.missed ++ [k - 1], missedDl := x.missedDl ++ [k + 1] }).bumpSat CODEC_CELL_MISSED c
    else s
  else s

/-- MAINT commands that still run at the close of MAINT are aborted (R69). -/
def abortMaint (s : State) (n : Nat) : State :=
  forEach (coreAt s n).fly (fun s f =>
    let x := ((coreAt s n).slot f.slot).ctx
    if (flyAt s n f.uid).isSome ∧ (ctxAt s x).img.cls = 3 then cmdFault s n x f Code.guardExceeded 0 else s) s

/-- A HARD opening finds HARD or FIRM commands of an earlier gate running (R66). -/
def hardLate (s : State) (n : Nat) : State :=
  if (coreAt s n).fly.any (fun f => decide ((ctxAt s ((coreAt s n).slot f.slot).ctx).img.cls < 2)) then
    (s.bumpSat CAL_HARD_LATE_COUNT).set CAL_HARD_LATE_CORE n
  else s

/-- The next gate change reaches a core's issue logic once 24 ns have passed (R61). -/
def gateReach (s : State) (n : Nat) : State :=
  match gatePath s n with
  | [] => s
  | m :: rest =>
    if s.clk.elapsed < m.due then s
    else
      let s := lanternTurn (accumHeld s n) n
      let old := coreGates s n
      let s := { s with cal := { s.cal with
        atCore := mapPut (fun _ => Gate.maint) s.cal.atCore n m.gates
        path := mapPut (fun _ => []) s.cal.path n rest } }
      let shut (b : Nat) : Bool := old &&& b != 0 && m.gates &&& b == 0
      let s := if m.hardOpen then hardLate s n else s
      let s := if shut Gate.hard then forEach (List.range 4) (dropHard n) s else s
      let s := if shut Gate.maint then abortMaint s n else s
      accumHeld (lanternTurn s n) n

/-! ## The commands -/

/-- GATE_REACH_CORE (03_calendar.md R61). -/
def execGateReachCore (n : Nat) (s : State) : Out := .next (if n < 128 then gateReach s n else s)

/-- CPLANE_RELEASE (R270). -/
def execCplaneRelease (c : Nat) (s : State) : Out := .next (cplane s c)

/-- UPLANE_RELEASE (R270). -/
def execUplaneRelease (c : Nat) (s : State) : Out := .next (uplaneRelease s c)

/-- CELL_START (R273). -/
def execCellStart (c : Nat) (s : State) : Out := .next (if c < 512 then cellStart s c else s)

/-- CELL_STOP (R273). -/
def execCellStop (c : Nat) (s : State) : Out := .next (if c < 512 then cellStop s c else s)

/-- CELL_TAKEOVER (R284). -/
def execCellTakeover (tk : TakeoverOf) (s : State) : Out := .next (if tk.cell < 512 then takeover s tk.cell tk.told else s)

/-- TAKEOVER_BOUNDARY (R284). -/
def execTakeoverBoundary (c : Nat) (s : State) : Out := .next (takeoverBoundary s c)

/-- L2_REQUEST_DEADLINE (R274). -/
def execL2RequestDeadline (c : Nat) (s : State) : Out := .next (reqDeadline s c)

/-- SLOT_INDICATION (R276). -/
def execSlotIndication (c : Nat) (s : State) : Out := .next (slotIndication s c)

/-- CRC_INDICATION (R276). -/
def execCrcIndication (c : Nat) (s : State) : Out := .next (crcIndication s c)

/-- RACH_INDICATION (R276). -/
def execRachIndication (c : Nat) (body : Bytes) (s : State) : Out := .next (rachIndication s c body)

/-- SRS_INDICATION (R276). -/
def execSrsIndication (c : Nat) (body : Bytes) (s : State) : Out := .next (srsIndication s c body)

/-- REPLICA_SEND (R283). -/
def execReplicaSend (c : Nat) (state : Bytes) (s : State) : Out := .next (replicaSend s c state)

/-- REPLICA_RECEIVE (R284). -/
def execReplicaReceive (c : Nat) (buf : Bool) (slot : Word) (s : State) : Out := .next (replicaReceive s c buf slot)

/-- TX_ENABLE_BOUNDARY (R286). -/
def execTxEnableBoundary (c : Nat) (s : State) : Out := .next (txBoundary s c)

end Sys2Proof.Machine
end

