-- ==== Sys2Proof/Machine/Codec.lean ====
section
/-! DEFINITION. The coded-channel groups: job rings, jobs, HARQ soft buffers (11_nr_baseband.md R278 to R282, R288). -/

namespace Sys2Proof.Machine

/-- The status register of group g. -/
def codecFn (g : Nat) : Nat := CODEC_GRP_STATUS.STATE.addr g

/-- Group g. -/
def codecAt (s : State) (g : Nat) : Codec := mapGet (fun _ => {}) s.codecs g

/-- The state with group g replaced. -/
def setCodec (s : State) (g : Nat) (x : Codec) : State := { s with codecs := mapPut (fun _ => {}) s.codecs g x }

/-! ## Rings (R278) -/

/-- Base and entries of a ring. -/
def jobRing (s : State) (g : Nat) (hard : Bool) : Nat × Nat :=
  if hard then (s.get2 CODEC_GRP_HARD_BASE_LO CODEC_GRP_HARD_BASE_HI g, 2 ^ s.get CODEC_GRP_HARD_SIZE g)
  else (s.get2 CODEC_GRP_FIRM_BASE_LO CODEC_GRP_FIRM_BASE_HI g, 2 ^ s.get CODEC_GRP_FIRM_SIZE g)

/-- The TAIL of a ring that the group has learnt. -/
def jobTail (s : State) (g : Nat) (hard : Bool) : Nat :=
  (if hard then (codecAt s g).hardTail else (codecAt s g).firmTail) % (jobRing s g hard).2

/-- The HEAD of a ring. -/
def jobHead (s : State) (g : Nat) (hard : Bool) : Nat := ringHead s (jobRing s g hard).1 % (jobRing s g hard).2

/-- Jobs that a ring holds, as the group knows. -/
def jobCount (s : State) (g : Nat) (hard : Bool) : Nat :=
  (jobTail s g hard + (jobRing s g hard).2 - jobHead s g hard) % (jobRing s g hard).2

/-- The place of the job k places behind the head. -/
def jobAt (s : State) (g : Nat) (hard : Bool) (k : Nat) : Nat :=
  (jobRing s g hard).1 + 128 + 64 * ((jobHead s g hard + k) % (jobRing s g hard).2)

/-- The head moves past its job. -/
def jobPop (s : State) (g : Nat) (hard : Bool) : State :=
  hubStore s (codecFn g) ((jobRing s g hard).1 + 0x40) (bytesLe 4 ((jobHead s g hard + 1) % (jobRing s g hard).2))

/-! ## Descriptors (R279) -/

/-- A field of a descriptor. -/
def df (d : Bytes) (o n : Nat) : Nat := leNat ((d.drop o).take n)

abbrev Jop.dec : Nat := 0
abbrev Jop.enc : Nat := 1
abbrev Jop.polar : Nat := 2

/-- The 51 lifting sizes: a small odd factor, or 2, times a power of 2, 2 to 384 (PRESUMED, log 46). -/
def liftOk (z : Nat) : Bool :=
  decide (2 ≤ z) && decide (z ≤ 384) && (List.range 8).any (fun j => [2, 3, 5, 7, 9, 11, 13, 15].any (fun a => a * 2 ^ j == z))

/-- The descriptor is well formed (R279). -/
def jobOk (d : Bytes) : Bool :=
  let op := df d 0 1
  decide (op < 3) &&
  (if op = Jop.polar then decide (df d 1 1 = 0) && [32, 64, 128, 256, 512, 1024].elem (df d 2 2)
   else (df d 1 1 == 1 || df d 1 1 == 2) && liftOk (df d 2 2)) &&
  decide (df d 4 2 < 512) && [1, 2, 4, 6, 8, 10].elem (df d 6 1) && decide (df d 7 1 < 4) &&
  (op != Jop.dec || df d 0x20 2 / 2 ^ 6 == 0) && decide (df d 0x24 1 ≤ 32) && decide (1 ≤ df d 0x25 1) &&
  decide (df d 0x25 1 ≤ 8) && decide (df d 0x26 2 = 0) && decide (df d 0x2C 4 = 0)

/-- Engines of a kind in a group (R278). -/
def engines : Nat → Nat
  | 0 => 4
  | _ => 2

/-- A result word (R280). -/
def resultWord (code iters : Nat) (ok : Bool) (failed : Nat) : Nat :=
  code * 2 ^ 24 + iters % 256 * 2 ^ 16 + (if ok then 2 ^ 15 else 0) + min failed 0x7FFF

/-- A string cut or filled with zeros to a length. -/
def sized (n : Nat) (l : Bytes) : Bytes := l.take n ++ List.replicate (n - l.length) 0

/-! ## HARQ soft buffers (R282) -/

/-- A soft bit of a byte. -/
def llr (b : Byte) : Int := b.toInt

/-- The stored and new soft bits added, saturating at 127 (R282). -/
def addLlr : List Int → List Int → List Int
  | [], l => l
  | l, [] => l
  | a :: s, b :: t => max (-127) (min 127 (a + b)) :: addLlr s t

/-- The place of HARQ entry i of a cell. -/
def harqAt (x : Cell) (i : Nat) : Nat := x.fld 0x20 8 + 32 * i

/-- Soft-buffer slots of a cell. -/
def harqSlots (x : Cell) : Nat := min 1024 ((x.fld 0x1C 4 - 32768) / x.fld 0xC 4)

/-- Entry i is VALID. -/
def harqValid (s : State) (x : Cell) (i : Nat) : Bool := memLe s (harqAt x i + 5) 1 == 1

/-- The VALID entries of a cell. -/
def harqUsed (s : State) (x : Cell) : List Nat := (List.range 1024).filter (harqValid s x)

/-- The place of a soft-buffer slot. -/
def softAt (x : Cell) (k : Nat) : Nat := x.fld 0x20 8 + 32768 + k * x.fld 0xC 4

/-- The VALID entry with a key. -/
def harqFind (s : State) (x : Cell) (key : Nat) : Option Nat := (harqUsed s x).find? (fun i => memLe s (harqAt x i) 4 == key)

/-- The VALID entry with the oldest stamp, the lower slot on a tie. -/
def harqOldest (s : State) (x : Cell) : Option Nat :=
  (harqUsed s x).foldl (fun b i =>
    match b with
    | none => some i
    | some j =>
      let k (e : Nat) : Nat := memLe s (harqAt x e + 8) 8 * 65536 + memLe s (harqAt x e + 6) 2
      if k i < k j then some i else some j) none

/-- Soft bits put into a slot, and the index entry that holds it (R282). -/
def harqPut (s : State) (x : Cell) (i slot key ndi : Nat) (l : List Int) : State :=
  let s := homeWrite s (softAt x slot) (l.map (fun v => BitVec.ofInt 8 v)) false
  homeWrite s (harqAt x i) (bytesLe 4 key ++ bytesLe 1 ndi ++ bytesLe 1 1 ++ bytesLe 2 slot ++ bytesLe 8 (nowN s) ++
    bytesLe 4 l.length ++ bytesLe 12 0) false

/-- A free soft-bit slot and a free entry of the index, where there are both (R282). -/
def harqFree (s : State) (x : Cell) : Option (Nat × Nat) :=
  let taken := (harqUsed s x).map (fun i => memLe s (harqAt x i + 6) 2)
  ((List.range (harqSlots x)).find? (fun k => !taken.elem k)).bind (fun k =>
    ((List.range 1024).find? (fun i => !harqValid s x i)).map (fun i => (k, i)))

/-- Soft bits put into the oldest entry, where there is one (R282). -/
def harqReplace (s : State) (x : Cell) (old : Option Nat) (key ndi : Nat) (l : List Int) : State :=
  match old with
  | some i => harqPut s x i (memLe s (harqAt x i + 6) 2) key ndi l
  | none => s

/-- Soft bits of a key without an entry: in a free slot, else in place of the oldest, counted (R282). -/
def harqNew (s : State) (c : Nat) (x : Cell) (free : Option (Nat × Nat)) (key ndi : Nat) (l : List Int) : State :=
  match free with
  | some (k, i) => harqPut s x i k key ndi l
  | none =>
    let s := s.bumpSat CODEC_CELL_HARQ_DROP c
    harqReplace s x (harqOldest s x) key ndi l

/-- Combined soft bits stored (R282, step 3). -/
def harqStore (s : State) (c : Nat) (x : Cell) (entry : Option Nat) (key ndi : Nat) (l : List Int) : State :=
  match entry with
  | some i => harqPut s x i (memLe s (harqAt x i + 6) 2) key ndi l
  | none => harqNew s c x (harqFree s x) key ndi l

/-- An engine reads the stored soft bits of a HARQ entry. -/
def seeSoft (s : State) (x : Cell) (entry : Option Nat) : State :=
  match entry with
  | some i => seeDev s (softAt x (memLe s (harqAt x i + 6) 2)) (memLe s (harqAt x i + 16) 4)
  | none => s

/-- An LDPC_DEC job: HARQ combining, decoding, and what becomes of the soft bits: the state, the transport block, the word;
poisoned stored soft bits are poisoned input (R279, R280, R282). -/
def decodeJob (s : State) (d : Bytes) (input : Bytes) : State × Bytes × Nat :=
  let c := df d 4 2
  let x := cellAt s c
  let key := df d 0x20 4 / 64 * 64 + df d 0x20 4 % 32
  let ndi := df d 0x20 4 / 32 % 2
  let entry := if x.active then harqFind s x key else none
  let old : Nat × Bytes × Bool := match entry with
    | some i => if memLe s (harqAt x i + 4) 1 = ndi then
        devRead s (softAt x (memLe s (harqAt x i + 6) 2)) (memLe s (harqAt x i + 16) 4) else (Code.done, [], false)
    | none => (Code.done, [], false)
  if old.2.2 then
    (seeSoft s x entry, [], resultWord Code.uncorrectable 0 false 0)
  else
    let soft := addLlr (old.2.1.map llr) (Config.ldpcDeRate d (input.map llr))
    let iters := if df d 0x24 1 = 0 then x.fld 7 1 else df d 0x24 1
    let r := Config.ldpcDecode d iters soft
    let big := decide (x.fld 0xC 4 < soft.length)
    let s :=
      if !x.active then s
      else
        let s := if big then s.bumpSat CODEC_CELL_HARQ_DROP c else s
        if r.2.1 then (match entry with | some i => homeWrite s (harqAt x i + 5) [0] false | none => s)
        else if big then s
        else harqStore s c x entry key ndi soft
    (s, sized ((df d 8 4 + 7) / 8) r.1, resultWord Code.done r.2.2.1 r.2.1 r.2.2.2)

/-! ## Jobs (R280) -/

/-- Bytes that a job reads. -/
def jobInput (d : Bytes) : Nat := if df d 0 1 = Jop.enc then (df d 8 4 + 7) / 8 else df d 0xC 4

/-- A job's work: its outputs and its result word. -/
def jobWork (s : State) (d : Bytes) : State × Bytes × Nat :=
  if !jobOk d then (s, [], resultWord Code.badArgument 0 false 0)
  else
    let r := devRead s (df d 0x10 8) (jobInput d)
    if r.1 ≠ Code.done then (s, [], resultWord r.1 0 false 0)
    else if r.2.2 then (s, [], resultWord Code.uncorrectable 0 false 0)
    else match df d 0 1 with
      | 0 => decodeJob s d r.2.1
      | 1 => (s, sized ((df d 0xC 4 + 7) / 8) (Config.ldpcEncode d r.2.1), resultWord Code.done 0 false 0)
      | _ =>
        let p := Config.polarDecode d (r.2.1.map llr)
        (s, sized ((df d 8 4 + 7) / 8) p.1, resultWord Code.done 0 p.2 0)

/-- The head of a ring starts on a free engine of its kind (R280); a head of no kind ends as malformed at once. -/
def jobStart (s : State) (g : Nat) (hard : Bool) (op : Nat) : State :=
  let x := codecAt s g
  if fnState s (codecFn g) ≠ Fn.running ∨ jobCount s g hard = 0 then s
  else
    let d := (devRead s (jobAt s g hard 0) 64).2.1
    let o := df d 0 1
    let late := decide (df d 0x38 8 ≠ 0) && decide (df d 0x38 8 < nowN s)
    let hardWaits := !hard && (List.range (jobCount s g true)).any (fun k => memLe s (jobAt s g true k) 1 == o)
    let busy := decide (o < 3) && decide (engines o ≤ (x.jobs.filter (fun j => df j.desc 0 1 == o)).length)
    if (o < 3 ∧ o ≠ op) ∨ late ∨ hardWaits ∨ busy then s
    else
      let w := jobWork (seeDev (hubSee (jobPop s g hard) (codecFn g) (df d 0x10 8) (jobInput d)) (df d 0x10 8) (jobInput d)) d
      setCodec w.1 g { x with jobs := x.jobs ++ [{ hard := hard, desc := d, out := w.2.1, word := w.2.2 }] }

/-- A job's output or result, where memory may be written; an address at or above `MEM_TOP` is recorded in the group's status
(08_memory.md R203). -/
def jobStore (s : State) (g a : Nat) (l : Bytes) : State :=
  if devWriteCode s a l.length = Code.denied then s else hubWrite s (codecFn g) a l false

/-- A job's result word, and its completion count raised (R280). -/
def jobReport (s : State) (g : Nat) (d : Bytes) (word : Nat) : State :=
  let a := df d 0x30 8
  let s := jobStore s g a (bytesLe 4 word)
  jobStore s g (a + 4) (bytesLe 4 (memLe s (a + 4) 4 + 1))

/-- A stopping group without jobs is STOPPED. -/
def codecSettle (s : State) (g : Nat) : State :=
  if fnState s (codecFn g) = Fn.stopping ∧ (codecAt s g).jobs.isEmpty then setFnState s (codecFn g) Fn.stopped else s

/-- The oldest job of a group ends (R280). -/
def jobDone (s : State) (g : Nat) : State :=
  let x := codecAt s g
  match x.jobs with
  | [] => s
  | j :: t =>
    let s := setCodec s g { x with jobs := t }
    let s := (jobReport (jobStore s g (df j.desc 0x18 8) j.out) g j.desc j.word).bumpSat CODEC_GRP_JOBS g
    let s := if df j.desc 0 1 ≠ Jop.enc ∧ j.word / 2 ^ 15 % 2 = 0 then s.bumpSat CODEC_GRP_DEC_FAIL g else s
    codecSettle s g

/-- The head of a ring whose DEADLINE has passed is skipped with BUSY (R280). -/
def deadlineSkip (s : State) (g : Nat) (hard : Bool) : State :=
  if fnState s (codecFn g) ≠ Fn.running ∨ jobCount s g hard = 0 then s
  else
    let d := (devRead s (jobAt s g hard 0) 64).2.1
    if df d 0x38 8 ≠ 0 ∧ df d 0x38 8 < nowN s then
      (jobReport (jobPop s g hard) g d (resultWord Code.busy 0 false 0)).bumpSat CODEC_GRP_LATE g
    else s

/-- The group learns of a ring's TAIL (R278). -/
def tailNotice (s : State) (g : Nat) (hard : Bool) : State :=
  let x := codecAt s g
  let t := ringTail s (jobRing s g hard).1
  setCodec s g (if hard then { x with hardTail := t } else { x with firmTail := t })

/-- START (R288). -/
def codecStart (s : State) (g : Nat) : State :=
  startInDomain s (192 + g) (fun s =>
    if fnState s (codecFn g) = Fn.stopped then
      let ok (v : Nat) : Bool := decide (4 ≤ v) && decide (v ≤ 12)
      let s := forEach [CODEC_GRP_JOBS, CODEC_GRP_DEC_FAIL, CODEC_GRP_LATE] (fun s f => s.set f 0 g) s
      let s := tailNotice (tailNotice (setCodec s g {}) g true) g false
      startFn s (codecFn g) (if ok (s.get CODEC_GRP_HARD_SIZE g) && ok (s.get CODEC_GRP_FIRM_SIZE g) then none
        else some Code.badArgument)
    else s)

/-- STOP: ignored while a RUNNING cell names the group (R278). -/
def codecStop (s : State) (g : Nat) : State :=
  let st := fnState s (codecFn g)
  if st = Fn.running then
    if (mapKeys s.cells).any (fun c => fnState s (cellFn c) == Fn.running && (cellAt s c).fld 5 1 == g) then
      s.set CODEC_GRP_STATUS.STOP_REJECT 1 g
    else codecSettle (setFnState s (codecFn g) Fn.stopping) g
  else if st = Fn.faulted then setFnState (setCodec s g {}) (codecFn g) Fn.stopped
  else s

/-! ## The commands -/

/-- CODEC_GRP_START (R288). -/
def execCodecGrpStart (g : Nat) (s : State) : Out := .next (if g < 4 then codecStart s g else s)

/-- CODEC_GRP_STOP (R278). -/
def execCodecGrpStop (g : Nat) (s : State) : Out := .next (if g < 4 then codecStop s g else s)

/-- CODEC_RING_TAIL_NOTICE (R278). -/
def execCodecRingTailNotice (g : Nat) (hard : Bool) (s : State) : Out := .next (if g < 4 then tailNotice s g hard else s)

/-- LDPC_DEC (R279). -/
def execLdpcDec (g : Nat) (hard : Bool) (s : State) : Out := .next (if g < 4 then jobStart s g hard Jop.dec else s)

/-- LDPC_ENC (R279). -/
def execLdpcEnc (g : Nat) (hard : Bool) (s : State) : Out := .next (if g < 4 then jobStart s g hard Jop.enc else s)

/-- POLAR_DEC (R279). -/
def execPolarDec (g : Nat) (hard : Bool) (s : State) : Out := .next (if g < 4 then jobStart s g hard Jop.polar else s)

/-- CODEC_JOB_DONE (R280). -/
def execCodecJobDone (g : Nat) (s : State) : Out := .next (if g < 4 then jobDone s g else s)

/-- CODEC_DEADLINE_SKIP (R280). -/
def execCodecDeadlineSkip (g : Nat) (hard : Bool) (s : State) : Out := .next (if g < 4 then deadlineSkip s g hard else s)

end Sys2Proof.Machine
end

