-- ==== Sys2Proof/Machine/Fsk.lean ====
section
/-! DEFINITION. The narrowband FSK engine (12_fsk.md). -/

namespace Sys2Proof.Machine

/-- The status register of group g. -/
def fskFn (g : Nat) : Nat := FSK_GRP_STATUS.STATE.addr g

/-- Channel i of a group. -/
def FskGrp.chan (x : FskGrp) (i : Nat) : FskCh := mapGet (fun _ => {}) x.chans i

/-- The state with channel i of group g replaced. -/
def setChan (s : State) (g i : Nat) (y : FskCh) : State :=
  setFsk s g { fskAt s g with chans := mapPut (fun _ => {}) (fskAt s g).chans i y }

/-- The channels in use. -/
def FskGrp.used (x : FskGrp) : List Nat := (List.range (x.table.length / 16)).filter (fun i => (x.entry i).2.2.2 == 1)

/-- FREQ_OFS of a channel, Hz (R293). -/
def FskGrp.freq (x : FskGrp) (i : Nat) : Int := toS 32 (leNat ((x.table.drop (16 * i + 12)).take 4))

/-- Samples a second (R290). -/
def fskRate (s : State) (g : Nat) : Nat := 400000 * (s.get FSK_GRP_PHY.RATE g + 1)

/-- The Almanac time of a sample, rounded down (R291). -/
def sampleTime (s : State) (g i : Nat) : Nat := i * 1000000000 / fskRate s g

/-- What the algorithms depend on: the PHY word, the taps and a frequency offset. -/
def fskParams (s : State) (g : Nat) (freq : Int) : Bytes :=
  bytesLe 4 (s.get FSK_GRP_PHY.W g) ++ (List.range 17).flatMap (fun i => bytesLe 2 (s.get FSK_GRP_TAP g i)) ++
    bytesLe 4 (freq % 2 ^ 32).toNat

/-- The number of RUNNING groups published (R306). -/
def fskCount (s : State) : State :=
  s.set FSK_STATUS ((mapKeys s.fsk).filter (fun g => fnState s (fskFn g) == Fn.running)).length

/-! ## Beads (R295) -/

/-- A count of a channel raised. -/
def FskCh.count (y : FskCh) (o : Nat) : FskCh := { y with ctrs := mapPut zeroN y.ctrs o (mapGet zeroN y.ctrs o + 1) }

/-- A group faults: its beads are FAULTED (R294, R251). -/
def fskFault (s : State) (g code : Nat) : State :=
  let x := fskAt s g
  let s := forEach (x.used.filterMap (fun i => (x.chan i).bead)) (fun s b =>
    bput (bput s b BF.state Bead.faulted) b BF.code code) s
  fskCount (faultFn (setFsk s g { x with active := false }) (fskFn g) code)

/-- A channel's counts sent to its bead, saturating; a poisoned bead faults the group (R295, R251). -/
def flushChan (s : State) (g i : Nat) : State :=
  let y := (fskAt s g).chan i
  match y.bead with
  | none => s
  | some b =>
    if beadBad s b then fskFault (beadPoison s b) g Code.uncorrectable
    else
      let s := bput (beadRead s b) b (0x22, 1) y.rssi
      let s := forEach y.ctrs (fun s p =>
        let w := if p.1 = 0x30 ∨ p.1 = 0x32 then 2 else 4
        bput s b (p.1, w) (min (bget s b (p.1, w) + p.2) (2 ^ (8 * w) - 1))) s
      setChan s g i { y with ctrs := [] }

/-- Beads created for the channels in use; none where one cannot be placed (R294, R250). -/
def sessionBeads (g : Nat) : List Nat → State → Option State
  | [], s => some s
  | i :: t, s =>
    match placeBead s Bead.session 256 with
    | none => none
    | some b =>
      let (a, s) := admitStamp s
      let s := newBead s b Bead.session Bead.running 1 256 0xFF a 0 (bytesLe 1 g ++ bytesLe 1 i)
      sessionBeads g t (setChan s g i { (fskAt s g).chan i with bead := some b })

/-- The beads of a group freed. -/
def freeSessions (s : State) (g : Nat) : State :=
  let x := fskAt s g
  forEach (x.used.filterMap (fun i => (x.chan i).bead)) freeBead s

/-! ## The mask (R305) -/

/-- The mask entries. -/
def maskEntries (s : State) (g : Nat) : List Nat := (List.range 16).map (fun e => s.get FSK_GRP_MASK.W g e)

/-- The limit of a bin at distance b from 0: that of the VALID entry with the largest OFFSET at most b. -/
def maskLimit (m : List Nat) (b : Nat) : Option Nat :=
  let ofs (w : Nat) : Nat := w / 65536 % 256
  ((m.filter (fun w => w.testBit 31 && decide (ofs w ≤ b))).foldl (fun (a : Option Nat) w =>
    match a with
    | some v => if ofs v ≤ ofs w then some w else a
    | none => some w) none).map (· % 512)

/-- A block holds a bin above its limit; bins below the first VALID entry go unchecked. -/
def maskBroken (m : List Nat) (block : Bytes) : Bool :=
  (List.range 129).any (fun b =>
    match maskLimit m b with
    | some l => Config.fskBinOver block b l || Config.fskBinOver block (-(b : Int)) l
    | none => false)

/-- The first sample of the first block of 256 that breaks the mask. -/
def maskCut (m : List Nat) (samples : Bytes) (count : Nat) : Option Nat :=
  ((List.range ((count + 255) / 256)).find? (fun b => maskBroken m ((samples.drop (1024 * b)).take 1024))).map (256 * ·)

/-- The VALID entries rise in OFFSET (R294). -/
def maskRising (s : State) (g : Nat) : Bool :=
  mapRising 0 ((((List.range 16).filter (fun e => s.bit FSK_GRP_MASK.VALID g e)).map (fun e =>
    (s.get FSK_GRP_MASK.OFFSET g e + 1, ())) : SMap Unit))

/-! ## Start and stop (R294) -/

/-- The sum of the taps. -/
def tapSum (s : State) (g : Nat) : Int :=
  2 * ((List.range 16).map (fun i => s.getS FSK_GRP_TAP g i)).sum + s.getS FSK_GRP_TAP g 16

/-- The ranges of the fields of R306 (00_scope.md R442). -/
def fskRanges (s : State) (g : Nat) : Bool :=
  let pre := s.get FSK_GRP_PHY.PRE_LEN g
  decide (4 ≤ pre) && decide (pre ≤ 1000) && decide (4 ≤ s.get FSK_GRP_DET.PRE_QUAL g) &&
  decide (s.get FSK_GRP_AGC.INIT g ≤ 240) && (List.range 16).all (fun e => decide (s.get FSK_GRP_MASK.OFFSET g e ≤ 128))

/-- The first check of START (R294). -/
def fskOk (s : State) (g : Nat) (x : FskGrp) : Bool :=
  let size (v : Nat) : Bool := decide (4096 ≤ v) && decide (v ≤ 16777216)
  let rate := s.get FSK_GRP_PHY.RATE g
  let n := s.get FSK_GRP_CHANS g
  let ids := x.used.map (fun i => (x.entry i).1)
  decide (rate < 4) && decide (s.get FSK_GRP_PHY.FEC g < 3) && size (s.get FSK_GRP_RX_BYTES g) && size (s.get FSK_GRP_TX_BYTES g) &&
  !(s.bit FSK_GRP_PHY.LEVELS g && rate == 0) && decide (1 ≤ n) && decide (n ≤ 64) && decide (x.table.length = 16 * n) &&
  (List.range n).all (fun i =>
    let e := x.entry i
    decide (e.2.1 / 4096 % 2 = 0) && decide (e.2.2.2 < 2) && ((x.table.drop (16 * i + 11)).headD 0 == 0) &&
    decide ((x.freq i).natAbs * 16 ≤ 400000 * (rate + 1))) &&
  noRepeat ids && !((eaxcUsed s (s.get FSK_GRP_PORT.PORT g) (s.get FSK_GRP_PORT.SUB g) 512).any ids.elem) &&
  maskRising s g && decide (0 < tapSum s g) && fskRanges s g

/-! ## The modulator (R302) -/

/-- 2π to 60 places. -/
def fxTwoPi : Int := 6283185307179586476925286766559005768394338798750211641949889 * fxOne / 10 ^ 60

/-- The sum of a series with alternating signs whose term k + 1 is term k times x^2 over (2 k + 1 + o) (2 k + 2 + o). -/
def fxAlternate (x first : Int) (o : Nat) : Int :=
  ((List.range 50).foldl (fun (a : Int × Int) k =>
    (a.1 + a.2, -(fxMul (fxMul a.2 x) x / ((2 * k + 1 + o) * (2 * k + 2 + o))))) (0, first)).1

/-- 16384 times a number, nearest. -/
def fxHalf (c : Int) : Nat := (((32768 * c + fxOne) / (2 * fxOne)) % 2 ^ 16).toNat

/-- The sample of a phase: 16384 exp(j 2π phase / 2^32), nearest; I and Q, most significant byte first (log 42). -/
def fskPoint (phase : Nat) : Bytes :=
  let x := fxTwoPi * phase / 2 ^ 32
  bytesBe 2 (fxHalf (fxAlternate x fxOne 0)) ++ bytesBe 2 (fxHalf (fxAlternate x x 1))

/-- Tap i of the 33, g[32 - i] = g[i]. -/
def fskTap (s : State) (g i : Nat) : Int := s.getS FSK_GRP_TAP g (min i (32 - i))

/-- Three times the a of a symbol: ±1 for 2-FSK, ±1 or ±1/3 for 4-FSK. -/
def fskLevel (s : State) (g v : Nat) : Int :=
  if s.bit FSK_GRP_PHY.LEVELS g then 2 * ((v % 4 : Nat) : Int) - 3 else if v % 2 = 0 then -3 else 3

/-- Three times the sum over k of a[k] g[n - 8 k]. -/
def fskShape (s : State) (g : Nat) (a : List Nat) (n : Nat) : Int :=
  ((List.range 5).map (fun j =>
    if j ≤ n / 8 ∧ n / 8 - j < a.length ∧ n - 8 * (n / 8 - j) ≤ 32 then
      fskLevel s g (a.getD (n / 8 - j) 0) * fskTap s g (n - 8 * (n / 8 - j))
    else 0)).sum

/-- The increment of the phase at sample n: 2^32 (f[n] + freq_ofs) / fs, f[n] = fdev · shape · 8 / Σ g, fdev = h R_s / 2. -/
def fskTurn (s : State) (g : Nat) (a : List Nat) (freq : Int) (n : Nat) : Int :=
  let rs : Int := fskRate s g / 8
  let h2 : Int := if s.bit FSK_GRP_PHY.INDEX g then 2 else 1
  let num := 2 ^ 32 * (rs * h2 * 2 * fskShape s g a n + 3 * tapSum s g * freq)
  let den := 3 * tapSum s g * fskRate s g
  num / den + (if num % den ≠ 0 ∧ Config.fskRoundUp num den then 1 else 0)

/-- The samples of a run of symbols from a phase. -/
def fskModulate (s : State) (g : Nat) (a : List Nat) (freq : Int) (phase : Nat) : Bytes :=
  ((List.range (8 * a.length + Config.fskTail)).foldl (fun (r : Nat × List Bytes) n =>
    let p := ((r.1 + fskTurn s g a freq n) % 2 ^ 32).toNat
    (p, fskPoint p :: r.2)) (phase, [])).2.reverse.flatten

/-- What START does before its checks: the counters are cleared, the channel table is asked for, the ROM's taps are loaded unless
custom ones are chosen (R294, R302). -/
def fskPrepare (s : State) (g : Nat) : State :=
  let s := forEach [FSK_GRP_DETECT, FSK_GRP_FRAMES_OK, FSK_GRP_FCS_FAIL, FSK_GRP_FRAMES_TX, FSK_GRP_MASK_COUNT,
    FSK_GRP_RING_DROP] (fun s f => s.set f 0 g) s
  let s := raiseMem s 20 (s.get2 FSK_GRP_CHAN_LO FSK_GRP_CHAN_HI g) (16 * s.get FSK_GRP_CHANS g)
  if s.bit FSK_GRP_PHY.CUSTOM_TAPS g then s
  else forEach (List.range 17) (fun s i => s.set FSK_GRP_TAP (Config.fskRomTap (s.get FSK_GRP_PHY.BT g) i) g i) s

/-- The channel table of a group read: code, bytes, poison (R293). -/
def fskTable (s : State) (g : Nat) : Nat × Bytes × Bool :=
  devRead s (s.get2 FSK_GRP_CHAN_LO FSK_GRP_CHAN_HI g) (16 * s.get FSK_GRP_CHANS g)

/-- A group as it starts with a channel table (R294). -/
def fskFresh (s : State) (table : Bytes) : FskGrp :=
  { active := true, table := table, next := (nowN s + 124999) / 125000, nextTx := (nowN s + 124999) / 125000 }

/-- The channels of a group as it starts, each in the Search stage (R294, R297). -/
def fskSeeded (s : State) (g : Nat) (x : FskGrp) : State :=
  let dl := (nowN s + s.get FSK_GRP_TX_WIN.MAX g * 1000 + 124999) / 125000
  let y : FskCh := { stage := 1, gain := s.get FSK_GRP_AGC.INIT g, pos := x.next * fskPer s g, nextDl := dl }
  setFsk s g { x with chans := x.used.map (fun i => (i, y)) }

/-- The test pattern of START breaks the mask (R294, R305). -/
def fskMasked (s : State) (g : Nat) : Bool :=
  let test := fskModulate s g ((List.range 1024).map (Config.fskPn9 (s.get FSK_GRP_PHY.LEVELS g))) 0 0
  (maskCut (maskEntries s g) test (test.length / 4)).isSome

/-- START (R294). -/
def fskStart (s : State) (g : Nat) : State :=
  startInDomain s 196 (fun s =>
    if fnState s (fskFn g) ≠ Fn.stopped then s
    else if parityHeld s (fskFn g) then faultFn s (fskFn g) Code.configParity
    else
      let s := fskPrepare s g
      let r := fskTable s g
      let x := fskFresh s r.2.1
      if r.1 ≠ Code.done ∨ !fskOk s g x then faultFn s (fskFn g) Code.badArgument
      else if r.2.2 then
        faultFn (seeDev s (s.get2 FSK_GRP_CHAN_LO FSK_GRP_CHAN_HI g) (16 * s.get FSK_GRP_CHANS g)) (fskFn g) Code.uncorrectable
      else if fnState s (fhFn (s.get FSK_GRP_PORT.PORT g)) ≠ Fn.running then faultFn s (fskFn g) Code.stateConflict
      else
        match sessionBeads g x.used (fskSeeded s g x) with
        | none => faultFn s (fskFn g) Code.busy
        | some t =>
          if fskMasked s g then
            faultFn (setFsk (freeSessions t g) g {}) (fskFn g) Code.maskViolation
          else
            let ts := timeState t
            let t := t.set FSK_GRP_STATUS.TIME_ALARM (if ts = Ts.expired then 1 else 0) g
            let t := t.set FSK_GRP_STATUS.TX_HELD (if ts = Ts.freeRun ∨ ts = Ts.acquiring then 1 else 0) g
            fskCount (startFn t (fskFn g) none))

/-- A group whose last transmission has ended is STOPPED. -/
def fskDown (s : State) (g : Nat) : State :=
  let x := fskAt s g
  let s := if x.active then forEach x.used (fun s i => flushChan s g i) s else s
  fskCount (setFnState (setFsk (freeSessions s g) g {}) (fskFn g) Fn.stopped)

/-- A stopping group without a frame in transmission is STOPPED. -/
def fskSettle (s : State) (g : Nat) : State :=
  let x := fskAt s g
  if fnState s (fskFn g) = Fn.stopping ∧ x.used.all (fun i => (x.chan i).tx.isEmpty) then fskDown s g else s

/-- STOP (R294). -/
def fskStop (s : State) (g : Nat) : State :=
  let st := fnState s (fskFn g)
  if st = Fn.running then
    let s := forEach (fskAt s g).used (fun s i =>
      let y := (fskAt s g).chan i
      setChan s g i { y with stage := 0, buf := [], sects := [], recs := [], tx := y.tx.filter (·.begun) }) s
    fskSettle (fskCount (setFnState s (fskFn g) Fn.stopping)) g
  else if st = Fn.faulted then fskDown s g
  else s

/-! ## Records (R300, R301) -/

/-- A record appended to the receive ring, or dropped and counted (R300). -/
def fskAppend (s : State) (g i : Nat) (l : Bytes) : State :=
  (ringAppend s (FSK_GRP_STATUS.STATE.addr g) (s.get2 FSK_GRP_RX_LO FSK_GRP_RX_HI g) (s.get FSK_GRP_RX_BYTES g) l).getD
    (let s := s.bumpSat FSK_GRP_RING_DROP g
     if (fskAt s g).used.elem i then setChan s g i (((fskAt s g).chan i).count 0x3C) else s)

/-- A record's header. -/
def fskHeader (code flags ch rssi len : Nat) (ofs : Int) (bead gain time last : Nat) : Bytes :=
  bytesLe 1 code ++ bytesLe 1 flags ++ bytesLe 1 ch ++ bytesLe 1 rssi ++ bytesLe 2 len ++
    bytesLe 2 ((ofs / 4) % 2 ^ 16).toNat ++ bytesLe 4 bead ++ bytesLe 1 gain ++ bytesLe 3 0 ++ bytesLe 8 time ++
    bytesLe 4 last ++ bytesLe 4 0

/-- Zeros that fill a string to a multiple of 8 bytes. -/
def pad8 (n : Nat) : Nat := (n + 7) / 8 * 8 - n

/-- A completion record, written at once (R301). -/
def fskCompletion (s : State) (g i code user launch : Nat) : State :=
  fskAppend s g i (fskHeader code 0x80 i 0 0 0 (((fskAt s g).chan i).bead.getD 0) 0 launch user)

/-! ## Transmit requests (R301) -/

/-- The code with which a request is refused at a boundary; DONE where it is accepted (R301). -/
def txRefusal (s : State) (g bound : Nat) (h : Bytes) : Nat :=
  let x := fskAt s g
  let i := df h 0 1
  let fl := df h 1 1
  let len := df h 2 2
  let launch := df h 8 8
  if 8 ≤ fl ∨ len = 0 ∨ 2047 - (if fl.testBit 2 then 4 else 2) < len ∨ !x.used.elem i ∨
      (fl.testBit 0 ∧ s.get FSK_GRP_PHY.FEC g = 0) then Code.badArgument
  else if launch < bound + s.get FSK_GRP_TX_WIN.MAX g * 1000 + 125000 then Code.busy
  else if (x.chan i).tx.any (fun t => decide (launch * fskRate s g < (t.first + t.count) * 1000000000)) then Code.stateConflict
  else if timeState s = Ts.freeRun ∨ timeState s = Ts.acquiring then Code.stateConflict
  else Code.done

/-- Requests taken in ring order at a boundary (R301); one whose LENGTH the ring cannot hold takes what the ring holds
(log 362). -/
def takeTx (g bound : Nat) : Nat → State → State
  | 0, s => s
  | n + 1, s =>
    let base := s.get2 FSK_GRP_TX_LO FSK_GRP_TX_HI g
    let size := s.get FSK_GRP_TX_BYTES g
    let h := ringHead s base % max 1 size
    let used := ringUsed s base size
    if memTop s < base + 128 + size then setFnCode s (fskFn g) Code.notPresent
    else if used < 16 then s
    else
      let hd := ringRead s base size h 16
      let len := df hd 2 2
      let total := if 16 + len + pad8 len < size then 16 + len + pad8 len else used
      if used < total then s
      else
        let body := ringRead s base size (h + 16) len
        let s := ringRaise (hubSee s (fskFn g) base 128) (hubRequester (fskFn g) false) base size h total
        let s := hubStore s (fskFn g) (base + 0x40) (bytesLe 4 ((h + total) % size))
        let code := txRefusal s g bound hd
        let i := df hd 0 1
        let launch := df hd 8 8
        let s :=
          if code ≠ Code.done then fskCompletion s g i code (df hd 4 4) launch
          else
            let x := fskAt s g
            let first := (launch * fskRate s g + 999999999) / 1000000000
            let samples := fskModulate s g (Config.fskSymbols (s.get FSK_GRP_PHY.W g) (hd ++ body)) (x.freq i) (Config.fskPhase first)
            let y := x.chan i
            setChan s g i { y with tx := y.tx ++ [{
              user := df hd 4 4, first := first, launch := launch
              samples := samples, count := samples.length / 4
              cutAt := maskCut (maskEntries s g) samples (samples.length / 4) }] }
        takeTx g bound n s

/-- Frames that break the mask are counted before their block is released (R305). -/
def noteMask (s : State) (g : Nat) : State :=
  let lead := nowN s + s.get FSK_GRP_TX_WIN.MAX g * 1000 + 125000
  forEach (fskAt s g).used (fun s i =>
    let y := (fskAt s g).chan i
    let due (t : FskTx) : Bool :=
      !t.counted && (match t.cutAt with | some c => decide (sampleTime s g (t.first + c) ≤ lead) | none => false)
    let k := (y.tx.filter due).length
    if k = 0 then s
    else
      let y := { y with tx := y.tx.map (fun t => if due t then { t with counted := true } else t)
                        ctrs := mapPut zeroN y.ctrs 0x32 (mapGet zeroN y.ctrs 0x32 + k) }
      ((setChan s g i y).bumpSat FSK_GRP_MASK_COUNT g 0 k).set FSK_GRP_MASK_CHAN i g) s

/-- Frames already accepted are cut and complete with STATE_CONFLICT (R303). -/
def cutFrames (s : State) (g : Nat) : State :=
  if (fskAt s g).cut then
    let s := forEach (fskAt s g).used (fun s i =>
      let y := (fskAt s g).chan i
      let s := setChan s g i { y with tx := [] }
      forEach y.tx (fun s t => fskCompletion s g i Code.stateConflict t.user t.launch) s) s
    fskSettle (setFsk s g { fskAt s g with cut := false }) g
  else s

/-! ## Reception (R291, R296 to R299) -/

/-- The samples of an interval delivered to a channel; a missing section is zeros and counted (R292). -/
def fskFeed (k : Nat) (g : Nat) (s : State) (i : Nat) : State :=
  let n := 4 * fskPer s g
  let y := (fskAt s g).chan i
  let y := match y.sects.find? (fun p => p.1 == k) with
    | some p => { y with buf := y.buf ++ sized n p.2 }
    | none => ({ y with buf := y.buf ++ List.replicate n 0 } : FskCh).count 0x38
  setChan s g i { y with sects := y.sects.filter (fun p => k < p.1) }

/-- An interval boundary and the processing of an interval whose sections have all had their time (R291, R301, R303). -/
def fskInterval (s : State) (g : Nat) : State :=
  if fnState s (fskFn g) ≠ Fn.running ∧ fnState s (fskFn g) ≠ Fn.stopping then s
  else
    let s := if (fskAt s g).nextTx * 125000 ≤ nowN s then
        let s := noteMask (cutFrames s g) g
        let b := nowN s / 125000
        let s := setFsk s g { fskAt s g with nextTx := b + 1 }
        if fnState s (fskFn g) = Fn.running then takeTx g (b * 125000) (s.get FSK_GRP_TX_BYTES g / 16) s else s
      else s
    let x := fskAt s g
    if fnState s (fskFn g) = Fn.running ∧ (x.next + 1) * 125000 + s.get FSK_GRP_TA4.MAX g * 1000 ≤ nowN s then
      forEach x.used (fskFeed x.next g) (setFsk s g { x with next := x.next + 1 })
    else s

/-- A sample's half: 16 bits, most significant byte first (log 42). -/
def half (l : Bytes) (o : Nat) : Int := toS 16 (be l o 2)

/-- The sum of the squares of a symbol's 8 samples (R296). -/
def energy (l : Bytes) : Nat := ((List.range 16).map (fun i => (half l (2 * i)).natAbs ^ 2)).sum

/-- P is at least a threshold of -0.5 dBFS units (R296, R297): P = energy / 2^33. -/
def atLeast (e thresh : Nat) : Bool := decide (2 ^ 660 ≤ e ^ 20 * 10 ^ thresh)

/-- P is at least half a decibel times c above another P (R298). -/
def above (e q c : Nat) : Bool := decide (q ^ 20 * 10 ^ c ≤ e ^ 20)

/-- The RSSI of a symbol: P in -0.5 dBFS units, nearest, 0 to 255 (R296). -/
def rssiOf (e : Nat) : Nat :=
  ((List.range 255).filter (fun r => decide (10 ^ (2 * r + 1) * e ^ 40 ≤ 2 ^ 1320))).length

/-- The step of the gain, 0.25 dB units: the largest n from -12 to 12 with 20 log10 P ≤ 1/2 - n - TARGET - G/2 (R296). -/
def agcStep (e target gain : Nat) : Int :=
  let ok (k : Nat) : Bool :=
    -- n = k - 12, exponent 1 - 2 n - 2 TARGET - G
    let x : Int := 25 - 2 * (k : Int) - 2 * target - gain
    if 0 ≤ x then decide (e ^ 40 ≤ 2 ^ 1320 * 10 ^ x.toNat) else decide (e ^ 40 * 10 ^ (-x).toNat ≤ 2 ^ 1320)
  (((List.range 24).filter (fun k => ok (k + 1))).length : Int) - 12

/-- Bits in which two words of 16 differ. -/
def differ (a b : Nat) : Nat := ((List.range 16).filter (fun i => a.testBit i != b.testBit i)).length

/-- The delimiter that the last decisions match: coded or not (R297). -/
def sfdMatch (s : State) (g bits : Nat) : Option Bool :=
  let set_ := s.get FSK_GRP_PHY.SFD_SET g
  let lim := s.get FSK_GRP_DET.SFD_ERR g
  let u := differ bits (Config.fskSfd set_ false)
  let c := differ bits (Config.fskSfd set_ true)
  if s.get FSK_GRP_PHY.FEC g ≠ 0 ∧ c ≤ lim ∧ c < u then some true
  else if u ≤ lim then some false
  else none

/-- A detection: the channel is in the Preamble stage (R297, R298). -/
def detected (y : FskCh) : FskCh :=
  ({ y with stage := 2, since := 0, hits := 0, alt := 0, outs := [], bits := 0, frozen := false, pQual := 0 } : FskCh).count 0x24

/-- The mean of the discriminator's outputs, toward minus infinity. -/
def meanOf (l : List Int) : Int := if l.isEmpty then 0 else l.sum / l.length

/-- The end of a reception: its record, its counts, and the wait of a symbol before the next search (R296, R297, R299, R300). -/
def frameEnd (s : State) (g i : Nat) (y : FskCh) (r : Bool × Bool × Bool × Bytes × Bool × Nat) : State :=
  let (phr, white, fcs32, psdu, good, metric) := r
  let last := y.pos - 1
  let due := (last / fskPer s g + 1) * 125000 + s.get FSK_GRP_TA4.MAX g * 1000 + 50000
  let flags := (if phr && good then 1 else 0) + (if y.coded then 2 else 0) + (if white then 4 else 0) + (if fcs32 then 8 else 0)
  let len := if phr then psdu.length else 0
  let rec_ := fskHeader (if phr then Code.done else Code.badArgument) flags i y.rssi len y.ofs (y.bead.getD 0) y.gain y.sfdTime
    (if y.coded then metric else 0) ++ (if phr then psdu ++ List.replicate (pad8 len) 0 else [])
  let put := !phr || good || s.bit FSK_GRP_PHY.DELIVER_BAD g
  let y := if phr then y.count (if good then 0x28 else 0x2C) else y
  let s := if phr then s.bumpSat (if good then FSK_GRP_FRAMES_OK else FSK_GRP_FCS_FAIL) g else s
  flushChan (setChan s g i { y with
    stage := 1, hits := 0, frozen := false, gain := s.get FSK_GRP_AGC.INIT g, soft := [], quiet := y.pos + 8
    recs := if put then y.recs ++ [(due, rec_)] else y.recs }) g i

/-- A search stage of a channel over one symbol: power e, discriminator output o (R297, R298). -/
def seek (s : State) (g i : Nat) (y : FskCh) (e : Nat) (o : Int) : State :=
  let bit := decide (0 < o)
  let note (s : State) : State := s.bumpSat FSK_GRP_DETECT g
  let cap := s.get FSK_GRP_AGC.CAPTURE_DB g
  if (y.stage = 2 ∨ y.stage = 3) ∧ cap ≠ 0 ∧ y.pQual ≠ 0 ∧ above e y.pQual cap then note (setChan s g i (detected y))
  else match y.stage with
    | 1 =>
      let hits := if atLeast e (s.get FSK_GRP_DET.RSSI_THRESH g) then y.hits + 1 else 0
      if 2 ≤ hits then note (setChan s g i (detected y)) else setChan s g i { y with hits := hits }
    | 2 =>
      let alt := if y.alt ≠ 0 ∧ bit = y.last then 1 else y.alt + 1
      let q := s.get FSK_GRP_DET.PRE_QUAL g
      let outs := (y.outs ++ [o]).drop ((y.outs.length + 1) - q)
      let y := { y with alt := alt, last := bit, outs := outs, since := y.since + 1
                        bits := (y.bits * 2 + (if bit then 1 else 0)) % 65536 }
      let m := meanOf outs
      if q ≤ alt ∧ m.natAbs * 32 ≤ fskRate s g then
        setChan s g i { y with stage := 3, since := 0, frozen := true, pQual := e, ofs := m }
      else setChan s g i y
    | 3 =>
      let bits := (y.bits * 2 + (if y.ofs < o then 1 else 0)) % 65536
      let y := { y with bits := bits, since := y.since + 1 }
      match sfdMatch s g bits with
      | some c => setChan s g i { y with stage := 4, coded := c, sfdTime := sampleTime s g y.pos, rssi := rssiOf e, soft := [] }
      | none => setChan s g i y
    | _ => setChan s g i y

/-- PRE_TIMEOUT or SFD_TIMEOUT symbols have passed in a stage (R297). -/
def stageDue (s : State) (g : Nat) (y : FskCh) (stage : Nat) : Bool :=
  y.stage == stage &&
    decide ((if stage = 2 then s.get FSK_GRP_DET.PRE_TIMEOUT g else s.get FSK_GRP_DET.SFD_TIMEOUT g) ≤ y.since)

/-- One symbol of a channel (R296, R297). -/
def fskSymbol (s : State) (g i : Nat) : State :=
  let x := fskAt s g
  let y := x.chan i
  if fnState s (fskFn g) ≠ Fn.running ∨ !x.used.elem i ∨ y.buf.length < 32 ∨ stageDue s g y 2 ∨ stageDue s g y 3 then s
  else
    let cur := y.buf.take 32
    let e := energy cur
    let o := Config.fskDiscr (fskParams s g (x.freq i)) y.prev cur y.gain
    let step := if y.frozen then 0 else agcStep e (s.get FSK_GRP_AGC.TARGET g) y.gain
    let start := y.pos
    let y := { y with buf := y.buf.drop 32, pos := y.pos + 8, prev := cur
                      gain := (max 0 (min 240 ((y.gain : Int) + step))).toNat }
    if y.stage = 4 then
      let soft := y.soft ++ [o - y.ofs]
      match Config.fskFrame (fskParams s g (x.freq i)) y.coded soft with
      | some r => frameEnd s g i y r
      | none => setChan s g i { y with soft := soft }
    else if start < y.quiet ∨ y.tx.any (·.begun) then setChan s g i { y with hits := 0 }
    else seek s g i y e o

/-- A stage abandoned for lack of progress (R297). -/
def stageTimeout (s : State) (g i stage : Nat) : State :=
  let y := (fskAt s g).chan i
  if fnState s (fskFn g) = Fn.running ∧ stageDue s g y stage then setChan s g i { y with stage := 1, hits := 0, frozen := false } else s

/-- A receive record written at its time (R300). -/
def fskRecord (s : State) (g i : Nat) : State :=
  let y := (fskAt s g).chan i
  match y.recs with
  | [] => s
  | (t, l) :: rest =>
    if nowN s < t ∨ fnState s (fskFn g) ≠ Fn.running then s else fskAppend (setChan s g i { y with recs := rest }) g i l

/-! ## Transmission (R302, R304) -/

/-- The first frame of a channel begins: reception is abandoned (R304). -/
def fskLaunch (s : State) (g i : Nat) : State :=
  let y := (fskAt s g).chan i
  match y.tx with
  | [] => s
  | t :: rest =>
    if t.begun ∨ nowN s < sampleTime s g t.first ∨ fnState s (fskFn g) ≠ Fn.running then s
    else
      let y := if y.stage = 4 then y.count 0x30 else y
      setChan s g i { y with
        tx := { t with begun := true } :: rest, stage := 1, hits := 0, frozen := false, soft := []
        gain := s.get FSK_GRP_AGC.INIT g, quiet := t.first + t.count + 8 }

/-- The first frame of a channel has ended: its completion record (R301). -/
def fskTxEnd (s : State) (g i : Nat) : State :=
  let y := (fskAt s g).chan i
  match y.tx with
  | [] => s
  | t :: rest =>
    if !t.begun ∨ nowN s < sampleTime s g (t.first + t.count) then s
    else
      let whole := t.cutAt.isNone
      let y := { y with tx := rest }
      let y := if whole then y.count 0x34 else y
      let s := if whole then s.bumpSat FSK_GRP_FRAMES_TX g else s
      let s := fskCompletion (setChan s g i y) g i (if whole then Code.done else Code.maskViolation) t.user t.launch
      fskSettle (flushChan s g i) g

/-- One sample of a channel's downlink: of the frame that covers it, before its cut; else zero (R302, R305). -/
def txSample (l : List FskTx) (n : Nat) : Bytes :=
  match l.find? (fun t => decide (t.first ≤ n) && decide (n < t.first + t.count)) with
  | some t =>
    if (match t.cutAt with | some c => decide (t.first + c ≤ n) | none => false) then [0, 0, 0, 0]
    else sized 4 ((t.samples.drop (4 * (n - t.first))).take 4)
  | none => [0, 0, 0, 0]

/-- A downlink section released T1A_MAX before its interval (R302; the frame's layout: log 42). -/
def fskDl (s : State) (g i : Nat) : State :=
  let x := fskAt s g
  let y := x.chan i
  let k := y.nextDl
  let st := fnState s (fskFn g)
  if (st ≠ Fn.running ∧ st ≠ Fn.stopping) ∨ !x.used.elem i ∨ nowN s + s.get FSK_GRP_TX_WIN.MAX g * 1000 < k * 125000 then s
  else
    let p := s.get FSK_GRP_PORT.PORT g
    let sub := s.get FSK_GRP_PORT.SUB g
    let n := fskPer s g
    let e := x.entry i
    let sl := k % 20480
    let app := bytesBe 1 (128 + 16) ++ bytesBe 1 (k / 80) ++ bytesBe 2 (sl % 80 / 8 * 4096 + sl % 8 * 64) ++
      [0, 0, 0, 0, 0, 0] ++ (List.range n).flatMap (fun j => txSample y.tx (k * n + j))
    let mac := s.get FH_MAC_HI p sub * 2 ^ 32 + s.get FH_MAC_LO p sub
    let b := e.2.2.1 ++ bytesBe 6 mac ++ bytesBe 2 0x8100 ++ bytesBe 2 e.2.1 ++ bytesBe 2 0xAEFE ++ [0x10, 0] ++
      bytesBe 2 (app.length + 4) ++ bytesBe 2 e.1 ++ bytesBe 1 y.seq ++ bytesBe 1 0x80 ++ app
    let s := setChan s g i { y with nextDl := k + 1, seq := (y.seq + 1) % 256 }
    enqueue s p 5 { bytes := b, sub := sub, latest := some (k * 125000 - s.get FSK_GRP_TX_WIN.MIN g * 1000) }

/-! ## The commands -/

/-- FSK_GRP_START (R294). -/
def execFskGrpStart (g : Nat) (s : State) : Out := .next (if g < 64 then fskStart s g else s)

/-- FSK_GRP_STOP (R294). -/
def execFskGrpStop (g : Nat) (s : State) : Out := .next (if g < 64 then fskStop s g else s)

/-- FSK_INTERVAL (R291). -/
def execFskInterval (g : Nat) (s : State) : Out := .next (if g < 64 then fskInterval s g else s)

/-- FSK_SYMBOL (R296). -/
def execFskSymbol (g ch : Nat) (s : State) : Out := .next (if g < 64 then fskSymbol s g ch else s)

/-- PRE_TIMEOUT (R297). -/
def execPreTimeout (g ch : Nat) (s : State) : Out := .next (if g < 64 then stageTimeout s g ch 2 else s)

/-- SFD_TIMEOUT (R297). -/
def execSfdTimeout (g ch : Nat) (s : State) : Out := .next (if g < 64 then stageTimeout s g ch 3 else s)

/-- FSK_RX_RECORD (R300). -/
def execFskRxRecord (g ch : Nat) (s : State) : Out := .next (if g < 64 then fskRecord s g ch else s)

/-- FSK_LAUNCH (R304). -/
def execFskLaunch (g ch : Nat) (s : State) : Out := .next (if g < 64 then fskLaunch s g ch else s)

/-- FSK_TX_END (R301). -/
def execFskTxEnd (g ch : Nat) (s : State) : Out := .next (if g < 64 then fskTxEnd s g ch else s)

/-- FSK_DL_RELEASE (R302). -/
def execFskDlRelease (g ch : Nat) (s : State) : Out := .next (if g < 64 then fskDl s g ch else s)

end Sys2Proof.Machine
end

