-- ==== Sys2Proof/Machine/Members.lean ====
section
/-! DEFINITION. Registered jobs, lost destinations and fencing (14_journal_recovery.md R351 to R357; 13_filigree.md R322,
R331). -/

namespace Sys2Proof.Machine

/-! ## Registered jobs (R356, R357) -/

/-- The entries of the job table in use and not ended. -/
def liveJobs (s : State) : List Nat :=
  (List.range 256).filter (fun j => s.bit JRNL_JOB_BIND.VALID j && !s.bit JRNL_JOB_BIND.ENDED j)

/-- The member list of an entry: a count and the nodes (R356). -/
def jobNodes (s : State) (j : Nat) : List Nat :=
  let a := s.get2 JRNL_JOB_MEMB_LO JRNL_JOB_MEMB_HI j
  (List.range (min 131072 (memLe s a 4))).map (fun i => memLe s (a + 4 + 4 * i) 4 % 2 ^ 17)

/-- A registered job ends on this device with a code: its group's contexts are torn down, or its serving slot is STOPPED with
its beads kept; a JOB_END record is written (R354, R357). -/
def endReg (code : Nat) (s : State) (j : Nat) : State :=
  let l := s.get JRNL_JOB_BIND.LOCAL j
  let s :=
    if s.bit JRNL_JOB_BIND.KIND j then
      let s := setSj s l { sjAt s l with polling := none, policed := none, stepCode := none }
      sjPublish (setFnState (s.set BEAD_SJ_STATUS.IN_STEP 0 l) (sjFn l) Fn.stopped) l
    else if (groupAt s l).job.isSome then
      forEach ((groupAt s l).ctxs.filter (fun x => (ctxAt s x).job)) (fun s x => if (ctxAt s x).state = 4 then s else teardown s x code 0) s
    else s
  (journal s { typ := 0x23, code := code, arg := s.get JRNL_JOB_ID j }).set JRNL_JOB_BIND.ENDED 1 j

/-! ## Bulk transfers (13_filigree.md R330, R331) -/

/-- A bulk bead whose destination is lost is FAULTED, and its owner learns TARGET_LOST (R331). -/
def bulkLost (s : State) (b : Nat) : State :=
  let s := bput (bput s b BF.state Bead.faulted) b BF.code Code.targetLost
  if mbxBusyWith s 0x31 ∧ s.mbx.res.head? = some b then mbxEnd s Code.targetLost [b] else s

/-! ## Lost destinations (13_filigree.md R322) -/

/-- The core that has a command of a number in flight: a replay may run on another than the first run. -/
def flyCore (s : State) (n uid : Nat) : Nat := ((mapKeys s.cores).find? (fun m => (flyAt s m uid).isSome)).getD n

/-- The command or the head that a request serves faults; false where its context has ended. -/
def whoFault (s : State) (w : Who) (code detail : Nat) : State × Bool :=
  match w with
  | .cmd n₀ uid =>
    let n := flyCore s n₀ uid
    match flyAt s n uid with
    | some f => (accumHeld (cmdFault s n ((coreAt s n).slot f.slot).ctx f code detail) n, true)
    | none => (s, false)
  | .poll x st =>
    match slotOf s x with
    | some (n, c) =>
      match headOf s n c st with
      | some h => (headFault s n c st h code detail, true)
      | none => (s, false)
    | none => (s, false)
  | .hub => (s, false)

/-- A request dropped from those that wait. -/
def dropPend (s : State) (seq : Word) : State :=
  { s with fab := { s.fab with pend := s.fab.pend.filter (fun p => p.x.seq != seq) } }

/-- The commands that wait for a destination: those with a request to it, and fences whose snapshot names it. -/
def waitersOn (s : State) (node : Nat) : List Who :=
  ((s.fab.pend.filter (fun p => p.x.dst == node)).map (·.who)) ++
  s.cores.flatMap (fun k => (k.2.fly.filter (fun f =>
    f.snap.any (fun x => x.1 == node && decide (ackedOf s k.1 node < x.2)))).map (fun f => .cmd k.1 f.uid))

/-- The traffic to a destination ends: its copies are discarded, its counts are settled, its bulk beads fault (R319, R331). -/
def endStream (s : State) (node : Nat) : State :=
  let d := destAt s node
  let bulks := (d.copies.filterMap (·.bulk)).eraseDups
  let s := setDest s node { d with copies := [], lost := true }
  let s := { s with fab := { s.fab with
    pend := s.fab.pend.filter (fun p => p.x.dst != node)
    acked := (s.fab.issued.filter (fun p => p.1 % 2 ^ 17 == node)).foldl (fun m p => mapPut zeroN m p.1 p.2) s.fab.acked } }
  forEach bulks bulkLost s

/-- The record of a lost destination (14_journal_recovery.md R344). -/
def lostRec (s : State) (node : Nat) : State :=
  let d := destAt s node
  journal s { typ := 0x11, code := Code.targetLost, source := 0x0100, node := node
              dseqLo := (d.copies.head?.map (fun c => c.x.dseq.toNat)).getD 0
              dseqHi := (d.copies.getLast?.map (fun c => c.x.dseq.toNat)).getD 0 }

/-- Moves of sequences to a lost destination end as failed (R331; 10_serving.md R262). -/
def movesLost (s : State) (node : Nat) : State :=
  forEach (List.range 64) (fun s j =>
    match (sjAt s j).moving with
    | some (_, b) => if leNat (rdBytes s.mems.dev (beadBase b + 0x20) 4) = node then moveAck s j Code.targetLost 0 else s
    | none => s) s

/-- A destination is lost: recorded, reported, and every context that waits on it faults (R322). -/
def targetLost (s : State) (node : Nat) : State :=
  let w := waitersOn s node
  let s := emit (lostRec (s.bump FIL_TARGET_LOST) node) (.report 0 node)
  let s := movesLost (endStream s node) node
  flrSettleAll (reroute (forEach w (fun s w => (whoFault s w Code.targetLost 0).1) s))

/-! ## Fencing (R354) -/

/-- The device learns that it has been fenced (R354). -/
def fencedSelf (s : State) : State :=
  if s.bit FIL_STATUS.FENCED then s
  else
    let s := (s.set FIL_STATUS.FENCED 1).set FIL_STATUS.FAULT_CODE Code.fenced
    let s := forEach (liveJobs s) (endReg Code.fenced) s
    let nodes := (s.fab.dests.filter (fun d => !d.2.copies.isEmpty)).map (·.1)
    let s := forEach nodes (fun s n => movesLost (endStream (lostRec s n) n) n) s
    let s := { s with fab := { s.fab with cache := [], cacheUse := [], rejoin := true } }
    flrSettleAll (emit s (.report 3 (ownNode s)))

/-! ## Fail-stop (R351) -/

/-- A fail-stop: registered jobs end with DEVICE_LOST, cells stop without further transmission (R351). -/
def failStop (s : State) : State :=
  let s := s.set JRNL_STATUS.FAIL_STOP 1
  let s := forEach (liveJobs s) (endReg Code.deviceLost) s
  forEach ((mapKeys s.cells).filter (fun c => fnState s (cellFn c) == Fn.running)) cellDown s

end Sys2Proof.Machine
end

