-- ==== Sys2Proof/Machine/Inbound.lean ====
section
/-! DEFINITION. Transactions that arrive on the fabric, and the waits of those sent (13_filigree.md R315 to R339). -/

namespace Sys2Proof.Machine

abbrev Opc2.read : Nat := 0x01
abbrev Opc2.readRsp : Nat := 0x02
abbrev Opc2.write : Nat := 0x03
abbrev Opc2.ack : Nat := 0x04
abbrev Opc2.nack : Nat := 0x05
abbrev Opc2.atomic : Nat := 0x06
abbrev Opc2.atomicRsp : Nat := 0x07
abbrev Opc2.combAtomic : Nat := 0x08
abbrev Opc2.combRsp : Nat := 0x09
abbrev Opc2.inv : Nat := 0x10
abbrev Opc2.invAck : Nat := 0x11
abbrev Opc2.pageRead : Nat := 0x20
abbrev Opc2.pageData : Nat := 0x21
abbrev Opc2.pageWrite : Nat := 0x22

/-! ## Checks (R338, R339) -/

/-- A request, which is answered by a NACK where it is refused. -/
def isRequest (o : Nat) : Bool := [Opc2.read, Opc2.write, Opc2.atomic, Opc2.combAtomic, Opc2.pageRead, Opc2.pageWrite].elem o

/-- A request that changes memory. -/
def isStore (o : Nat) : Bool := [Opc2.write, Opc2.atomic, Opc2.combAtomic, Opc2.pageWrite].elem o

/-- The range of this device's memory that a request names. -/
def rangeOf (x : Txn) : Nat × Nat :=
  match x.opc.toNat with
  | 0x01 => (x.addr, x.len)
  | 0x03 => (x.addr, x.payload.length)
  | 0x20 => (x.addr / 4096 * 4096, 4096)
  | 0x22 => (x.addr / 4096 * 4096, 4096)
  | _ => (x.addr, atopWidth x.atop)

/-- An entry of the export table admits a request (R339). -/
def exportsOk (s : State) (e : Nat) (x : Txn) : Bool :=
  let base := s.get2 FIL_EXP_BASE_LO FIL_EXP_BASE_HI e / 65536 * 65536
  let r := rangeOf x
  s.bit FIL_EXP_ATTR.VALID e && decide (base ≤ r.1) && decide (r.1 + r.2 ≤ base + s.get FIL_EXP_SIZE e * 65536) &&
  (match s.get FIL_EXP_ATTR.REACH e with
   | 0 => inBangle s x.src
   | 1 => strandOf x.src == strandOf (ownNode s)
   | 2 => true
   | _ => false) && (!isStore x.opc.toNat || !s.bit FIL_EXP_ATTR.RO e)

/-- A request may touch this device's memory (R339). -/
def exported (s : State) (x : Txn) : Bool := x.sys || (List.range 64).any (fun e => exportsOk s e x)

/-- A NACK (R315, R319). -/
def nack (s : State) (x : Txn) (code : Nat) (dseq : Word) : State := reply s x Opc2.nack code dseq [] false

/-! ## The source table (R319) -/

/-- The next expected DSEQ of a source. -/
def expectedOf (s : State) (src : Nat) : Nat := mapGet zeroN s.fab.expected src

/-- The expected DSEQ raised. -/
def raiseExpected (s : State) (src : Nat) : State :=
  { s with fab := { s.fab with expected := mapPut zeroN s.fab.expected src (expectedOf s src + 1) } }

/-- How far a DSEQ lies beyond the expected one, modulo 2^32 (R319). -/
def ahead (s : State) (src : Nat) (d : Word) : Nat := (d - BitVec.ofNat 32 (expectedOf s src)).toNat

/-- The ACK of the highest applied DSEQ (R319). -/
def ackHighest (s : State) (x : Txn) : State :=
  reply s x Opc2.ack Code.done (BitVec.ofNat 32 (expectedOf s x.src) - 1) [] false

/-! ## Serving requests (R319, R320, R324, R326, R329, R333, R336) -/

/-- Writes of this device wait for the invalidation of a line in a range. -/
def invPending (s : State) (a n : Nat) : Bool :=
  s.fab.invWait.any (fun w => decide (w.addr < a + n) && decide (a < w.addr + w.data.length)) ||
  s.fab.held.any (fun h => isStore h.x.opc.toNat && h.asked &&
    (let r := rangeOf h.x; decide (r.1 / 128 * 128 < a + n) && decide (a < r.1 + r.2 + 127)))

/-- The masked bytes of a page write put in the page, 8 for each bit of the mask (log 367), a whole granule at once where all
of it is masked (R329; 08_memory.md R213). -/
def pageStore (s : State) (base : Nat) (b : Bytes) (bad : Bool) : State :=
  forEach (List.range 64) (fun s g =>
    let on := (List.range 8).filter (fun i => (b.getD (4096 + g) 0).toNat.testBit i)
    if on.length = 8 then devStore s (base + 64 * g) ((b.drop (64 * g)).take 64) bad
    else forEach on (fun s i => devStore s (base + 64 * g + 8 * i) ((b.drop (64 * g + 8 * i)).take 8) bad) s) s

/-- A write applied or refused by its range; it takes its place in its source's stream either way. -/
def applyWrite (s : State) (x : Txn) : State :=
  let r := rangeOf x
  let c := devWriteCode s r.1 r.2
  let s := raiseExpected s x.src
  if c ≠ Code.done then nack s x c x.dseq
  else
    let s := raiseMem s 21 r.1 r.2
    ackHighest (if x.opc.toNat = Opc2.pageWrite then pageStore s r.1 x.payload x.poison
      else devStore s r.1 x.payload x.poison) x

/-- The reply record of an atomic (R336). -/
def recordOf (s : State) (src : Nat) (seq : Word) : Option Nat :=
  (s.fab.replies.find? (fun p => p.1 == src * 2 ^ 32 + seq.toNat)).map (·.2.1)

/-- One atomic applied once (R336): the old value, and the state with its record. -/
def atomicOnce (s : State) (src : Nat) (seq : Word) (addr atop : Nat) (operand : Bytes) : Nat × State :=
  match recordOf s src seq with
  | some o => (o, s)
  | none =>
    let r := atomicApply (raiseAtomic s addr) addr atop operand
    let k := src * 2 ^ 32 + seq.toNat
    (r.1, { r.2 with fab := { r.2.fab with replies := mapInsert (mapErase r.2.fab.replies k) k (r.1, nowNs s) } })

/-- The code with which an atomic is refused at its home (R334). -/
def atomicCode (s : State) (x : Txn) : Nat :=
  if 8 < x.atop ∨ x.addr % atopWidth x.atop ≠ 0 then Code.badArgument
  else
    let c := devWriteCode s x.addr (atopWidth x.atop)
    if c ≠ Code.done then c
    else if badDev s x.addr (atopWidth x.atop) then Code.uncorrectable
    else Code.done

/-- The poison that a refused atomic met is seen (08_memory.md R214). -/
def atomicSee (s : State) (x : Txn) (c : Nat) : State :=
  if c = Code.uncorrectable then seeDev s x.addr (atopWidth x.atop) else s

/-- Entries of a combined atomic as its answer carries them (log 47). -/
def combBytes (l : List CombEntry) : Bytes :=
  l.flatMap (fun e => bytesLe 4 e.src ++ bytesLe 4 e.seq.toNat ++ bytesLe 8 e.value.toNat)

/-- A combined atomic applied in list order (R333). -/
def applyComb (s : State) (x : Txn) (l : List CombEntry) : State :=
  let r := l.foldl (fun (a : State × List CombEntry) e =>
    let o := atomicOnce a.1 e.src e.seq x.addr x.atop (bytesLe 8 e.value.toNat)
    (o.2, a.2 ++ [{ e with value := BitVec.ofNat 64 o.1 }])) (s, [])
  reply r.1 x Opc2.combRsp Code.done 0 (combBytes r.2) false

/-- A read's answer; a bangle member that reads becomes a sharer of the lines (R324, R329). -/
def answerRead (s : State) (x : Txn) : State :=
  let r := rangeOf x
  let d := devRead s r.1 r.2
  if d.1 ≠ Code.done then nack s x d.1 0
  else
    let s := match (if x.opc.toNat = Opc2.read ∧ inBangle s x.src then banglePos s x.src else none) with
      | some p => forEach (linesOf r.1 r.2) (fun s l => addSharer s l p) s
      | none => s
    reply (raiseMem s 21 r.1 r.2) x (if x.opc.toNat = Opc2.pageRead then Opc2.pageData else Opc2.readRsp) Code.done 0 d.2.1 d.2.2

/-- A request served now, or none where it must wait: for its DSEQ_FLOOR, for the invalidation of its lines, or behind a
write that waits for one (R320, R324, R326). -/
def serve (s : State) (x : Txn) (l : List CombEntry) : Option State :=
  let o := x.opc.toNat
  let r := rangeOf x
  let floorOk := decide (ahead s x.src x.dseq = 0) || decide (2 ^ 31 ≤ ahead s x.src x.dseq)
  let alone := (sharersIn s r.1 r.2 (some x.src)).isEmpty
  if o = Opc2.write ∨ o = Opc2.pageWrite then
    (if alone then some (applyWrite s x) else none)
  else if o = Opc2.combAtomic then
    let c := atomicCode s x
    if c ≠ Code.done then some (nack (atomicSee s x c) x c 0) else if alone then some (applyComb s x l) else none
  else if !floorOk then none
  else if o = Opc2.atomic then
    let c := atomicCode s x
    if c ≠ Code.done then some (nack (atomicSee s x c) x c 0)
    else if alone then
      let a := atomicOnce s x.src x.seq x.addr x.atop x.payload
      some (reply a.2 x Opc2.atomicRsp Code.done 0 (bytesLe (atopWidth x.atop) a.1) false)
    else none
  else if invPending s r.1 r.2 then none
  else some (answerRead s x)

/-- A request's answer waits only for invalidations, and its sharers are asked (R324). -/
def askFor (s : State) (h : Held) : State × Held :=
  let o := h.x.opc.toNat
  let r := rangeOf h.x
  let floorOk := decide (ahead s h.x.src h.x.dseq = 0) || decide (2 ^ 31 ≤ ahead s h.x.src h.x.dseq)
  if h.asked || !isStore o || !(floorOk || o != Opc2.atomic) then (s, h)
  else (askInv s r.1 r.2 (some h.x.src), { h with asked := true })

/-- Held requests tried again in order of arrival, as long as one can be served. -/
def settleHeld : Nat → State → State
  | 0, s => s
  | n + 1, s =>
    match s.fab.held.findSome? (fun h => (serve { s with fab := { s.fab with held := s.fab.held.erase h } } h.x h.entries)) with
    | some t => settleHeld n t
    | none =>
      s.fab.held.foldl (fun s h =>
        let r := askFor s h
        { r.1 with fab := { r.1.fab with held := r.1.fab.held.map (fun g => if g = h then r.2 else g) } }) s

/-- Held requests tried again. -/
def retryHeld (s : State) : State := settleHeld (s.fab.held.length + 1) s

/-- A request served, or held (R320, R324). -/
def serveOrHold (s : State) (x : Txn) (l : List CombEntry) : State :=
  match serve s x l with
  | some s => retryHeld s
  | none =>
    if s.fab.held.any (fun h => h.x.src == x.src && h.x.seq == x.seq) then s
    else retryHeld { s with fab := { s.fab with held := s.fab.held ++ [{ x := x, entries := l, at_ := nowNs s }] } }

/-! ## Arrival (R316, R338, R339, R328) -/

/-- A transaction sent through the port that leads to its node, if one does. -/
def sendVia (s : State) (x : Txn) : State :=
  match pickPort s x.dst with
  | some q => sendOn s q x
  | none => s

/-- A transaction for another node that a clasp passes on: page reads are merged, page writes kept (R328, R329). -/
def relay (s : State) (x : Txn) : State :=
  match x.opc.toNat with
  | 0x20 =>
    let same (p : Txn × Nat × List Txn) : Bool :=
      p.1.dst == x.dst && p.1.addr == x.addr && p.1.dseq == x.dseq && decide (nowNs s ≤ p.2.1 + 2000)
    if s.fab.relayed.any same then
      { s with fab := { s.fab with relayed := s.fab.relayed.map (fun p => if same p then (p.1, p.2.1, p.2.2 ++ [x]) else p) } }
    else sendVia { s with fab := { s.fab with relayed := s.fab.relayed ++ [(x, nowNs s, [x])] } } x
  | 0x21 =>
    match s.fab.relayed.find? (fun p => p.1.seq == x.seq && p.1.src == x.dst) with
    | some p =>
      let s := { s with fab := { s.fab with relayed := s.fab.relayed.erase p } }
      forEach p.2.2 (fun s y => sendVia s { x with dst := y.src, seq := y.seq }) s
    | none => sendVia s x
  | 0x22 => sendVia { s with fab := { s.fab with relayCopies := s.fab.relayCopies ++ [x] } } x
  | 0x04 =>
    sendVia { s with fab := { s.fab with relayCopies := s.fab.relayCopies.filter (fun c =>
      !(c.src == x.dst && c.dst == x.src && decide ((x.dseq - c.dseq).toNat < 2 ^ 31))) } } x
  | _ => sendVia s x

/-- A transaction noted: its bytes counted, the floor raised by its stamp, its link alive (R310, R316; 02_almanac.md R39). -/
def noted (s : State) (q : Nat) (x : Txn) : State :=
  let s := s.bump2 FIL_PORT_RX_BYTES_LO FIL_PORT_RX_BYTES_HI q 0 (32 + x.payload.length)
  let s := raiseFloor s x.stamp x.src
  setLink s q { linkAt s q with lastFlit := nowNs s }

/-- A transaction of an opcode arrives on a port whose link is UP: noted, passed on, or checked and handed on (R316, R338). -/
def arrive (q opc : Nat) (x : Txn) (f : State → State) (s : State) : State :=
  if !linkUp s q then s
  else
    let s := noted s q x
    if x.opc.toNat ≠ opc then s.bump FIL_DROP_COUNT
    else if x.dst ≠ ownNode s then (if s.bit FIL_ROLE.CLASP then relay s x else s.bump FIL_DROP_COUNT)
    else if incOf s x.src = 0 ∨ incOf s x.src ≠ x.inc then
      (if isRequest opc then nack (s.bump FIL_FENCED_NACK) x Code.fenced 0 else s)
    else f s

/-- A request that arrives: the export table, then its handling (R339). -/
def request (x : Txn) (f : State → State) (s : State) : State :=
  if exported s x then f s else nack (s.bump FIL_DENIED_NACK) x Code.denied x.dseq

/-- READ and PAGE_READ. -/
def readArrives (s : State) (x : Txn) : State := request x (fun s => serveOrHold s x []) s

/-- WRITE and PAGE_WRITE (R319); one that the export table refuses takes its place in the stream. -/
def writeArrives (s : State) (x : Txn) : State :=
  let k := ahead s x.src x.dseq
  if k = 0 then
    if exported s x then serveOrHold s x []
    else retryHeld (nack ((raiseExpected s x.src).bump FIL_DENIED_NACK) x Code.denied x.dseq)
  else if 2 ^ 31 ≤ k then ackHighest (s.bump FIL_DUP_DISCARD) x
  else nack s x Code.done (BitVec.ofNat 32 (expectedOf s x.src))

/-- An ATOMIC: answered from its record, dropped when stale, or served (R336). -/
def atomicArrives (s : State) (x : Txn) : State :=
  request x (fun s =>
    if extendStamp x.stamp (nowN s) + 120000 < nowN s then s
    else match recordOf s x.src x.seq with
      | some o => reply s x Opc2.atomicRsp Code.done 0 (bytesLe (atopWidth x.atop) o) false
      | none => serveOrHold s x []) s

/-- A COMB_ATOMIC of at most 32 entries (R333). -/
def combArrives (s : State) (x : Txn) (l : List CombEntry) : State :=
  request x (fun s =>
    if 32 < l.length ∨ extendStamp x.stamp (nowN s) + 120000 < nowN s then s else serveOrHold s x l) s

/-! ## Coherence messages (R324) -/

/-- Writes of this device whose lines have no sharer left are applied in order. -/
def settleInv : Nat → State → State
  | 0, s => s
  | n + 1, s =>
    match s.fab.invWait.find? (fun w => (sharersIn s w.addr w.data.length none).isEmpty) with
    | some w =>
      settleInv n (devStore { s with fab := { s.fab with invWait := s.fab.invWait.erase w } } w.addr w.data w.poison)
    | none => s

/-- What waited for invalidations goes on: this device's writes, held requests, and the atomics of its cores. -/
def settleHome (s : State) : State :=
  let s := retryHeld (settleInv s.fab.invWait.length s)
  forEach (mapKeys s.cores) runFly s

/-- COH_INV: the copy of the line is dropped, and the home told (R324). -/
def invArrives (s : State) (x : Txn) : State :=
  reply (cacheDrop s (globalAddr x.src x.addr / 128)) x Opc2.invAck Code.done 0 [] false

/-- COH_INV_ACK: the sender shares the line no more (R324). -/
def invAckArrives (s : State) (x : Txn) : State :=
  match banglePos s x.src with
  | some p =>
    let l := x.addr / 128
    let m := mapGet zeroN s.fab.dir l
    settleHome (setDir s l (if m.testBit p then m - 2 ^ p else m))
  | none => s

/-- A node leaves every sharer mask (R325). -/
def dropSharer (s : State) (node : Nat) : State :=
  match banglePos s node with
  | some p => settleHome (forEach (mapKeys s.fab.dir) (fun s l =>
      let m := mapGet zeroN s.fab.dir l
      setDir s l (if m.testBit p then m - 2 ^ p else m)) s)
  | none => s

/-! ## Answers (R317, R321, R323, R331, R332, R337) -/

/-- Progress of a destination (R322). -/
def progressed (s : State) (node : Nat) : State := setDest s node { destAt s node with progress := nowNs s }

/-- The request that a tag names. -/
def pendOf (s : State) (x : Txn) : Option Pend := s.fab.pend.find? (fun p => p.x.seq == x.seq && p.x.dst == x.src)

/-- A read's data handed to what asked for it. -/
def deliver (s : State) (w : Who) (ga : Nat) (b : Bytes) (bad : Bool) : State :=
  match w with
  | .cmd n uid =>
    match flyAt s n uid with
    | some f =>
      let s := accumHeld s n
      accumHeld (runFly (putFly s n { f with got := f.got ++ [(ga, b, bad)], remote := f.remote - 1 }) n) n
    | none => s
  | .poll x st =>
    match slotOf s x with
    | some (n, c) =>
      match headOf s n c st with
      | some h =>
        let a := headP0 s n ((coreAt s n).slot c) h
        if bad then (whoFault s w Code.uncorrectable a).1
        else
          let y := ctxAt s x
          let t := y.live.stream st
          setCtx s x { y with live := y.live.setStream st { t with
            poll := nowNs s, word := some (leNat ((b.drop (a - ga)).take 4)) } }
      | none => s
    | none => s
  | .hub => s

/-- READ_RSP and PAGE_DATA (R317, R324, R329, R332). -/
def readAnswered (s : State) (x : Txn) : State :=
  match pendOf s x with
  | none => s
  | some p =>
    let s := progressed (dropPend s x.seq) x.src
    let s := if p.x.comb ∧ x.comb then s.bump FIL_COMB_RSP else s
    let ga := globalAddr x.src p.x.addr
    let s := if inBangle s x.src ∧ !x.poison then
        forEach (List.range (x.payload.length / 128)) (fun s i =>
          cachePut s (ga / 128 + i) ((x.payload.drop (128 * i)).take 128)) s
      else s
    deliver s p.who ga x.payload x.poison

/-- A link goes DOWN: destinations are re-routed, what it kept for credits goes elsewhere, and the port trains again
(R310, R318). -/
def linkDown (s : State) (q : Nat) : State :=
  let l := linkAt s q
  let up := linkUp s q
  let s := s.set FIL_PORT_STATUS.LINK 0 q
  let s := setLink s q { l with step := 0, unacked := [], waiting := [], retryAt := some (nowNs s) }
  if up then
    let own (x : Txn) : Bool := x.src == ownNode s && isRequest x.opc.toNat && (x.opc.toNat != Opc2.atomic || x.resend)
    forEach (l.waiting.filter (fun x => !own x)) sendTxn (reroute s)
  else s

/-- The fabric interface FAULTED: every port's link is DOWN (13_filigree.md R341). -/
def filFault (s : State) (c : Nat) : State :=
  forEach (List.range 24) (fun s q =>
    let s := linkDown s q
    setLink s q { linkAt s q with retryAt := none }) (faultFn s filFn c)

/-- A read of a bulk transfer's bead met poison: the fabric interface, which owns it, faults (10_serving.md R251). -/
def bulkFault (s : State) (b : Nat) : State := filFault (beadPoison s b) Code.uncorrectable

/-- Pages of a bulk transfer that are acknowledged, and the bead's end (R331). -/
def bulkAcked (s : State) (b : Nat) : State :=
  if beadBad s b then bulkFault s b else
  let sent := bget s b (0x28, 4)
  let node := bget s b (0x20, 4)
  let left := (((destAt s node).copies.filter (fun c => c.bulk == some b)).map (fun c => c.x.addr / 4096)).eraseDups.length
  let s := bput (bput s b (0x2C, 4) (sent - left)) b BF.progress (nowN s)
  let s := if mbxBusyWith s 0x31 ∧ s.mbx.res.head? = some b then
      s.set MBX_PROGRESS ((sent - left) * 1000 / max 1 (bget s b (0x24, 4))) else s
  if sent - left = bget s b (0x24, 4) ∧ bget s b BF.state = Bead.running then
    freeBead (if mbxBusyWith s 0x31 ∧ s.mbx.res.head? = some b then mbxEnd s Code.done [b] else s) b
  else s

/-- Bytes read from device memory, each with the mark of its granule. -/
def devPoison (s : State) (a : Nat) (l : Bytes) : List PB :=
  l.zipIdx.map (fun p => (p.1, badDev s (a + p.2) 1))

/-- One page of a bulk transfer sent to a global address: WRITE transactions within 1 KiB on the BULK VC, beyond the strand
PAGE_WRITE with the bytes of each aligned page masked (R317, R329, R331). -/
def bulkSend (s : State) (b dst : Nat) (l : List PB) : State :=
  let node := nodeOf dst
  if beyond s node then
    forEach (piecesOf 4096 dst l.length) (fun s p =>
      let part := (l.drop (p.1 - dst)).take p.2
      let r := pagePayload s p.1 (part.map (·.1))
      issueWrite r.1 128 Opc2.pageWrite 3 node (offOf (p.1 / 4096 * 4096)) r.2 (part.any (·.2)) true (some b)) s
  else
    forEach ((piecesOf 1024 dst l.length).flatMap (fun p => poisonRuns p.1 ((l.drop (p.1 - dst)).take p.2)))
      (fun s q => issueWrite s 128 Opc2.write 3 node (offOf q.1) q.2.1 q.2.2 true (some b)) s

/-- Pages of a bulk transfer sent while the retransmit buffer has room (R321, R330, R331). -/
def bulkPump (b : Nat) : Nat → State → State
  | 0, s => s
  | n + 1, s =>
    if beadBad s b then bulkFault s b else
    let k := bget s b (0x28, 4)
    let node := bget s b (0x20, 4)
    if bget s b (0x24, 4) ≤ k ∨ bget s b BF.state ≠ Bead.running ∨ !rtxRoom s 5000 then s
    else
      let src := bget s b (0x30, 8) + 4096 * k
      let l := devPoison s src (devRead s src 4096).2.1
      let s := bulkSend (raiseMem s 21 src 4096) b (globalAddr node (bget s b (0x38, 8) + 4096 * k)) l
      bulkPump b n (bput s b (0x28, 4) (k + 1))

/-- The bulk transfers that run. -/
def bulksRunning (s : State) : List Nat :=
  (usedBeads s).filter (fun b => bget s b BF.kind == Bead.bulk && bget s b BF.state == Bead.running &&
    !((List.range 64).any (fun j => (sjAt s j).moving.map (·.2) == some b)))

/-- Replication goes on with the next acknowledged write (11_nr_baseband.md R283). -/
def replResume (s : State) (c : Nat) : State :=
  if (openDests s (256 + c)).isEmpty ∧ !s.bit FIL_STATUS.PARTITIONED then s.set CODEC_CELL_STATUS.REPL_SUSPENDED 0 c else s

/-- What an acknowledgement of writes lets go on: waiting commands, fences, bulk transfers, resets, replication. -/
def afterAck (s : State) (l : List WCopy) : State :=
  let s := if rtxRoom s 1056 then s.set FIL_STATUS.RTX_FULL 0 else s
  let s := forEach (l.filterMap (·.bulk)).eraseDups bulkAcked s
  let s := forEach (bulksRunning s) (fun s b => bulkPump b (bget s b (0x24, 4)) s) s
  let s := forEach ((l.filter (fun c => 256 ≤ c.core)).map (fun c => c.core - 256)).eraseDups replResume s
  let s := forEach (mapKeys s.cores) (fun s n => accumHeld (runFly (accumHeld s n) n) n) s
  flrSettleAll s

/-- ACK: the copies up to its DSEQ are freed and counted (R319, R321, R323). -/
def ackArrives (s : State) (x : Txn) : State :=
  let d := destAt s x.src
  let covered (c : WCopy) : Bool := decide ((x.dseq - c.x.dseq).toNat < 2 ^ 31)
  let gone := d.copies.filter covered
  if gone.isEmpty then s
  else
    let s := setDest s x.src { d with copies := d.copies.filter (fun c => !covered c), progress := nowNs s }
    afterAck (forEach gone (fun s c => bumpAcked s c.core x.src) s) gone

/-- A NACK of code DONE: the writes from the expected DSEQ on are sent again (R319). -/
def resendFrom (s : State) (node : Nat) (dseq : Word) : State :=
  let d := destAt s node
  let again (c : WCopy) : Bool := decide ((c.x.dseq - dseq).toNat < 2 ^ 31)
  let copies := d.copies.map (fun c => if again c then { c with at_ := nowNs s, x := { c.x with resend := true } } else c)
  let l := copies.filter again
  let s := (setDest s node { d with copies := copies }).bump FIL_RESEND_COUNT 0 0 l.length
  forEach l (fun s c => sendTxn s c.x) s

/-- The journal's record of a refusal that no context is left to take (R339). -/
def deniedRec (s : State) (node off : Nat) : State :=
  journal s { typ := 0x13, code := Code.denied, source := 0x0100, node := node, detail := off }

/-- A refused request of this device: the context that issued it faults; where it has ended the refusal is recorded (R339). -/
def refused (s : State) (x : Txn) (code : Nat) : State :=
  match pendOf s x with
  | some p =>
    let s := dropPend s x.seq
    let s := if p.x.opc.toNat = Opc2.atomic then (match p.who with | .cmd n _ => bumpAcked s n x.src | _ => s) else s
    let r := whoFault s p.who code p.x.addr
    if r.2 then r.1 else deniedRec r.1 x.src p.x.addr
  | none =>
    let d := destAt s x.src
    match d.copies.find? (fun c => c.x.seq == x.seq) with
    | none => s
    | some c =>
      let s := setDest s x.src { d with copies := d.copies.filter (fun c => c.x.seq != x.seq), progress := nowNs s }
      let s := afterAck (bumpAcked s c.core x.src) [c]
      match c.ctx with
      | some y =>
        if (ctxAt s y).job ∧ ((ctxAt s y).state = 2 ∨ (ctxAt s y).state = 3) then ctxFault s c.core y 0 code 0
        else deniedRec s x.src c.x.addr
      | none => deniedRec s x.src c.x.addr

/-- NACK (R319, R338, R339). -/
def nackArrives (s : State) (x : Txn) : State :=
  let s := progressed s x.src
  let c := x.code.toNat
  if c = Code.done then resendFrom s x.src x.dseq
  else if c = Code.fenced then fencedSelf s
  else refused s x c

/-- The old value of an atomic put where a replay finds it (14_journal_recovery.md R348). -/
def replayOld (s : State) (uid old : Nat) : State :=
  { s with jr := { s.jr with table := s.jr.table.map (fun e => (e.1, { e.2 with cmds := e.2.cmds.map (fun f =>
      if f.uid = uid then { f with olds := f.olds ++ [(f.unit, old)], open_ := false, remote := 0 } else f) })) } }

/-- The old value reaches the command that waits for it, or the replay of it; what waited for the count of acknowledgements goes
on (R323, R337). -/
def oldTold (s : State) (n uid old : Nat) : State :=
  let m := flyCore s n uid
  let s := match flyAt s m uid with
    | some f =>
      let s := accumHeld s m
      accumHeld (runFly (putFly s m { f with olds := f.olds ++ [(f.unit, old)], open_ := false, remote := 0 }) m) m
    | none => replayOld s uid old
  flrSettleAll (forEach (mapKeys s.cores) (fun s n => accumHeld (runFly (accumHeld s n) n) n) s)

/-- The first reply to an atomic of a sequence number (R337). -/
def atomicAnswer (s : State) (node : Nat) (seq : Word) (old : Nat) (comb : Bool) : State :=
  match s.fab.pend.find? (fun p => p.x.seq == seq && p.x.dst == node && p.x.opc.toNat == Opc2.atomic) with
  | none => s
  | some p =>
    let s := progressed (dropPend s seq) node
    let s := if comb ∧ p.x.comb then s.bump FIL_COMB_RSP else s
    match p.who with
    | .cmd n uid => oldTold (bumpAcked s n node) n uid old
    | _ => s

/-! ## Waits (R320, R322, R336, R337) -/

/-- A held request is dropped after 100 µs (R320). -/
def heldDrop (s : State) (i : Nat) : State :=
  match s.fab.held[i]? with
  | some h => if h.at_ + 100000 ≤ nowNs s then { s with fab := { s.fab with held := s.fab.held.eraseIdx i } } else s
  | none => s

/-- The reads of a destination that have waited 20 µs for an answer are retried (R322). -/
def readsDue (s : State) (node : Nat) : State :=
  let due (p : Pend) : Bool := p.x.dst == node && p.x.opc.toNat != Opc2.atomic && decide (p.last + 20000 ≤ nowNs s)
  let l := s.fab.pend.filter due
  let now := nowNs s
  let s := { s with fab := { s.fab with pend := s.fab.pend.map (fun p =>
    if due p then { p with last := now, tries := p.tries + 1, x := { p.x with resend := true } } else p) } }
  forEach l (fun s p => sendTxn s { p.x with resend := true }) s

/-- 20 µs without an answer: the writes of a destination are sent again, its reads retried (R322). -/
def resendTimeout (s : State) (node : Nat) : State :=
  match (destAt s node).copies.head? with
  | some c => readsDue (if c.at_ + 20000 ≤ nowNs s then resendAll s node 0 else s) node
  | none => readsDue s node

/-- A destination has made no progress for 100 µs (R322). -/
def lostTimeout (s : State) (node : Nat) : State :=
  let d := destAt s node
  if (!d.copies.isEmpty || s.fab.pend.any (fun p => p.x.dst == node)) ∧ d.progress + 100000 ≤ nowNs s then targetLost s node
  else s

/-- An atomic of a sequence number that waits. -/
def atomicPend (s : State) (seq : Word) : Option Pend :=
  s.fab.pend.find? (fun p => p.x.seq == seq && p.x.opc.toNat == Opc2.atomic)

/-- An atomic is retried 20, 40, 60 and 80 µs after its first issue (R337). -/
def atomicRetry (s : State) (seq : Word) : State :=
  match atomicPend s seq with
  | some p =>
    if p.tries < 4 ∧ p.first + 20000 * (p.tries + 1) ≤ nowNs s then
      let now := nowNs s
      let s := { s with fab := { s.fab with pend := s.fab.pend.map (fun (r : Pend) =>
        if r.x.seq = seq then { r with tries := r.tries + 1, last := now, x := { r.x with resend := true } } else r) } }
      sendTxn (s.bump FIL_ATOM_RETRY) { p.x with resend := true }
    else s
  | none => s

/-- A replay whose atomic stays uncertain fails with that code (14_journal_recovery.md R348). -/
def replayUncertain (s : State) (uid : Nat) : State :=
  match s.jr.table.find? (fun e => e.2.cmds.any (fun f => f.uid == uid)) with
  | some e =>
    let s := forEach e.2.cmds (fun s f =>
      journal s (cmdRec 0x03 Code.replayFailed e.2.core e.2.ctx f (e.2.grp ≠ 0) 0 0)) s
    let s := setRep (s.bump JRNL_REPLAY_FAILED 0 0 e.2.cmds.length) e.1 none
    let y := ctxAt s e.2.ctx
    teardown (setCtx s e.2.ctx { y with replays := y.replays.filter (· ≠ e.1) }) e.2.ctx Code.atomicUncertain 0
  | none => s

/-- 100 µs without a reply to an atomic (R337). -/
def atomicUncertain (s : State) (seq : Word) : State :=
  match atomicPend s seq with
  | some p =>
    if p.first + 100000 ≤ nowNs s then
      let s := dropPend (s.bump FIL_ATOM_UNCERTAIN) seq
      let s := journal s { typ := 0x12, code := Code.atomicUncertain, source := 0x0100, node := p.x.dst, detail := p.x.addr }
      let s := emit s (.report 1 p.x.dst)
      let r := whoFault s p.who Code.atomicUncertain p.x.addr
      match p.who with
      | .cmd _ uid => if r.2 then r.1 else replayUncertain r.1 uid
      | _ => r.1
    else s
  | none => s

/-- A reply record is kept for 250 µs (R336). -/
def recordExpiry (s : State) (src : Nat) (seq : Word) : State :=
  let k := src * 2 ^ 32 + seq.toNat
  match s.fab.replies.find? (fun p => p.1 == k) with
  | some p =>
    if p.2.2 + 250000 ≤ nowNs s then { s with fab := { s.fab with replies := mapErase s.fab.replies k } } else s
  | none => s

/-! ## BULK_COPY (R330; 18_registers_mailbox.md R424) -/

/-- The checks of BULK_COPY (18_registers_mailbox.md R424; 14_journal_recovery.md R360). -/
def bulkCheck (s : State) : Nat :=
  let src := mbxArg2 s 0
  let n := mbxArg s 4
  firstCode [
    (!argsFit s [0xFFFFFFFF, 0xFFFFFFFF, 0xFFFFFFFF, 0xFFFFFFFF, 0xFFFFFFFF, 0xFFFFFFFF, 0xFFFFFFFF, 0], Code.badArgument),
    (n == 0 || decide (1048576 < n) || src % 4096 != 0, Code.badArgument),
    (decide (memTop s < src + 4096 * n), Code.notPresent),
    (s.bit FIL_STATUS.PARTITIONED, Code.partitioned),
    ((placeBead s Bead.bulk 256).isNone, Code.busy)]

/-- BULK_COPY (R330, R331). -/
def bulkCopy (s : State) : State :=
  match placeBead s Bead.bulk 256 with
  | none => mbxEnd s Code.busy
  | some b =>
    let dst := mbxArg2 s 2
    let n := mbxArg s 4
    let s := newBead s b Bead.bulk Bead.running 2 256 0xFF (nowN s) (mbxArg2 s 5)
      (bytesLe 4 (nodeOf dst) ++ bytesLe 4 n ++ bytesLe 4 0 ++ bytesLe 4 0 ++ bytesLe 8 (mbxArg2 s 0) ++ bytesLe 8 (offOf dst))
    let s := { s with mbx := { s.mbx with res := [b] } }
    if nodeOf dst = ownNode s then
      let s := forEach (List.range n) (fun s k =>
        let src := bget s b (0x30, 8) + 4096 * k
        let l := poisonRuns (bget s b (0x38, 8) + 4096 * k) (devPoison s src (devRead s src 4096).2.1)
        forEach l (fun s q => homeWrite (raiseMem s 21 q.1 q.2.1.length) q.1 q.2.1 q.2.2) (raiseMem s 21 src 4096)) s
      bulkAcked (bput s b (0x28, 4) n) b
    else bulkPump b n s

/-! ## The commands -/

/-- READ (R320). -/
def execRead (q : Nat) (x : Txn) (s : State) : Out := .next (arrive q Opc2.read x (fun s => readArrives s x) s)

/-- READ_RSP (R317). -/
def execReadRsp (q : Nat) (x : Txn) (s : State) : Out := .next (arrive q Opc2.readRsp x (fun s => readAnswered s x) s)

/-- WRITE (R319). -/
def execWrite (q : Nat) (x : Txn) (s : State) : Out := .next (arrive q Opc2.write x (fun s => writeArrives s x) s)

/-- ACK (R319). -/
def execAck (q : Nat) (x : Txn) (s : State) : Out := .next (arrive q Opc2.ack x (fun s => ackArrives s x) s)

/-- NACK (R319). -/
def execNack (q : Nat) (x : Txn) (s : State) : Out := .next (arrive q Opc2.nack x (fun s => nackArrives s x) s)

/-- ATOMIC (R336). -/
def execAtomic (q : Nat) (x : Txn) (s : State) : Out := .next (arrive q Opc2.atomic x (fun s => atomicArrives s x) s)

/-- ATOMIC_RSP (R337). -/
def execAtomicRsp (q : Nat) (x : Txn) (s : State) : Out :=
  .next (arrive q Opc2.atomicRsp x (fun s => atomicAnswer s x.src x.seq (leNat x.payload) x.comb) s)

/-- COMB_ATOMIC (R333). -/
def execCombAtomic (q : Nat) (x : Txn) (entries : List CombEntry) (s : State) : Out :=
  .next (arrive q Opc2.combAtomic x (fun s => combArrives s x entries) s)

/-- COMB_ATOMIC_RSP (R333): the entries of this device. -/
def execCombAtomicRsp (q : Nat) (x : Txn) (entries : List CombEntry) (s : State) : Out :=
  .next (arrive q Opc2.combRsp x (fun s =>
    forEach (entries.filter (fun e => e.src == ownNode s)) (fun s e => atomicAnswer s x.src e.seq e.value.toNat true) s) s)

/-- COH_INV (R324). -/
def execCohInv (q : Nat) (x : Txn) (s : State) : Out := .next (arrive q Opc2.inv x (fun s => invArrives s x) s)

/-- COH_INV_ACK (R324). -/
def execCohInvAck (q : Nat) (x : Txn) (s : State) : Out := .next (arrive q Opc2.invAck x (fun s => invAckArrives s x) s)

/-- PAGE_READ (R329). -/
def execPageRead (q : Nat) (x : Txn) (s : State) : Out := .next (arrive q Opc2.pageRead x (fun s => readArrives s x) s)

/-- PAGE_DATA (R329). -/
def execPageData (q : Nat) (x : Txn) (s : State) : Out := .next (arrive q Opc2.pageData x (fun s => readAnswered s x) s)

/-- PAGE_WRITE (R329). -/
def execPageWrite (q : Nat) (x : Txn) (s : State) : Out := .next (arrive q Opc2.pageWrite x (fun s => writeArrives s x) s)

/-- HELD_REQUEST_DROP (R320). -/
def execHeldRequestDrop (i : Nat) (s : State) : Out := .next (heldDrop s i)

/-- RESEND_TIMEOUT (R322). -/
def execResendTimeout (node : Nat) (s : State) : Out := .next (resendTimeout s node)

/-- TARGET_LOST_TIMEOUT (R322). -/
def execTargetLostTimeout (node : Nat) (s : State) : Out := .next (lostTimeout s node)

/-- ATOMIC_RETRY (R337). -/
def execAtomicRetry (seq : Word) (s : State) : Out := .next (atomicRetry s seq)

/-- ATOMIC_UNCERTAIN_TIMEOUT (R337). -/
def execAtomicUncertainTimeout (seq : Word) (s : State) : Out := .next (atomicUncertain s seq)

/-- REPLY_RECORD_EXPIRY (R336). -/
def execReplyRecordExpiry (src : Nat) (seq : Word) (s : State) : Out := .next (recordExpiry s src seq)

/-- BULK_COPY (R330). -/
def execBulkCopy (rq : Requester) (s : State) : Out := .next (mbxCommand s rq 0x31 bulkCheck bulkCopy)

end Sys2Proof.Machine
end

