-- ==== Sys2Proof/Machine/Links.lean ====
section
/-! DEFINITION. Fabric links and ports: training, control flits, credits, link-level retry, start and stop of ports and of the
interface (13_filigree.md R309 to R314, R341; 16_modes.md R392; 14_journal_recovery.md R352). -/

namespace Sys2Proof.Machine

/-! ## Control flits (R314) -/

abbrev Ctl.idle : Nat := 0
abbrev Ctl.ident : Nat := 1
abbrev Ctl.loopReq : Nat := 2
abbrev Ctl.loopRsp : Nat := 3
abbrev Ctl.credit : Nat := 4
abbrev Ctl.heartbeat : Nat := 5
abbrev Ctl.retry : Nat := 6

/-- A control flit sent: its 64 bytes. -/
def sendCtl (s : State) (q kind : Nat) (body : Bytes) : State :=
  emit s (.ctl q (BitVec.ofNat 8 kind) (bytesLe 1 kind ++ bytesLe 1 (s.get FIL_PORT_CFG.ROLE q) ++
    bytesLe 2 (s.get FIL_INCARNATION) ++ bytesLe 4 (ownNode s) ++ sized 56 body))

/-- The digest of the bangle list (R314). -/
def bangleDigest (s : State) : Bytes :=
  let l := (bangleList s).foldl (fun (m : SMap Unit) n => mapInsert m n ()) []
  (Config.sha384 (l.flatMap (fun p => bytesLe 4 p.1))).take 32

/-- IDENT, with REVOKED where the incarnation of the peer seen before is revoked here. -/
def sendIdent (s : State) (q : Nat) : State :=
  let peer := if s.get FIL_PORT_CFG.ROLE q = 1 then s.get FIL_PORT_CFG.PEER q else 0
  sendCtl s q Ctl.ident (bytesLe 1 (if peer ≠ 0 ∧ incOf s peer = 0 then 1 else 0) ++ bytesLe 3 0 ++ bytesLe 4 peer ++ bangleDigest s)

/-- A CREDIT flit: flits by VC. -/
def sendCredit (s : State) (q : Nat) (l : List Nat) (initial : Bool) : State :=
  sendCtl s q Ctl.credit (l.flatMap (bytesLe 2) ++ bytesLe 1 (if initial then 1 else 0))

/-! ## Training (R310) -/

/-- A training begins. -/
def trainBegin (s : State) (q : Nat) : State :=
  let s := (s.set FIL_PORT_STATUS.LINK 1 q).bump FIL_PORT_RETRAINS q
  setLink (s.set FIL_PORT_LOOP 0 q) q { linkAt s q with
    step := 1, stepAt := nowNs s, retryAt := none, loops := 0, locked := false, fec := false, credit := [0, 0, 0, 0]
    txSeq := 0, rxSeq := 0, unacked := [] }

/-- The next step of a training. -/
def trainNext (s : State) (q : Nat) : State :=
  setLink s q { linkAt s q with step := (linkAt s q).step + 1, stepAt := nowNs s }

/-- A step has failed: the port tries again 10 ms later. -/
def trainFail (s : State) (q result : Nat) : State :=
  let s := (s.set FIL_PORT_STATUS.LINK 0 q).set FIL_PORT_STATUS.TRAIN_RESULT result q
  setLink s q { linkAt s q with step := 0, retryAt := some (nowNs s + 10000000) }

/-- A port in a step of its training. -/
def inStep (s : State) (q k : Nat) : Bool := fnState s (portFn q) == Fn.running && (linkAt s q).step == k

/-- A link is UP: the routes are chosen afresh. -/
def linkRise (s : State) (q : Nat) : State :=
  let s := (s.set FIL_PORT_STATUS.LINK 2 q).set FIL_PORT_STATUS.TRAIN_RESULT 1 q
  reroute (setLink s q { linkAt s q with step := 0, lastFlit := nowNs s, lastBeat := nowNs s })

/-- The limit of a step, ns. -/
def stepLimit : Nat → Nat
  | 1 => 5000000
  | 2 => 1000000
  | 3 => 100000
  | 4 => 100000
  | _ => 10000

/-- A step passes its limit: the result that the table gives; where step 1 may give two, which one is free. -/
def stepTimeout (s : State) (q : Nat) : State :=
  let l := linkAt s q
  if l.step = 0 ∨ nowNs s < l.stepAt + stepLimit l.step then s
  else match l.step with
    | 1 =>
      if s.bit FIL_PORT_STATUS.NO_LASER q then trainFail s q 2
      else
        let (i, s) := takeFree s
        trainFail s q (2 + Config.freeValue i % 2)
    | 2 => trainFail s q 3
    | 3 => trainFail s q 5
    | 4 => trainFail s q 4
    | _ => trainFail s q 3

/-- Wavelengths locked: step 1 ends. -/
def waveLock (s : State) (q : Nat) : State :=
  if inStep s q 1 ∧ !s.bit FIL_PORT_STATUS.NO_LASER q then
    let s := trainNext s q
    setLink s q { linkAt s q with locked := true }
  else s

/-- FEC locked: step 2 ends, and IDENT is sent. -/
def fecLock (s : State) (q : Nat) : State :=
  if inStep s q 2 then
    let s := trainNext s q
    sendIdent (setLink s q { linkAt s q with fec := true }) q
  else s

/-- The peer's IDENT: step 3 (R310, R314); a revoked incarnation tells the device that it has been fenced (R354 of
14_journal_recovery.md). -/
def identArrives (s : State) (q role node : Nat) (revoked : Bool) (peer : Nat) (digest : Bytes) : State :=
  if !inStep s q 3 then s
  else
    let own := s.get FIL_PORT_CFG.ROLE q
    let s := (s.set FIL_PORT_PEER.ROLE role q).set FIL_PORT_PEER.NODE node q
    let wrong := role != own ||
      (own == 1 && (peer != ownNode s || node != s.get FIL_PORT_CFG.PEER q || digest != bangleDigest s))
    if revoked then fencedSelf (trainFail s q 6)
    else if wrong then trainFail s q 5
    else sendCtl (trainNext s q) q Ctl.loopReq (bytesLe 8 (nowN s))

/-- A loop time: 64 are measured (R310). -/
def loopArrives (s : State) (q tSend : Nat) : State :=
  if !inStep s q 4 then s
  else
    let t := max (s.get FIL_PORT_LOOP q) (min 65535 (nowN s - tSend))
    let s := s.set FIL_PORT_LOOP t q
    let l := linkAt s q
    if l.loops + 1 < 64 then sendCtl (setLink s q { l with loops := l.loops + 1 }) q Ctl.loopReq (bytesLe 8 (nowN s))
    else if 1310 < t then trainFail s q 4
    else
      sendCredit (trainNext s q) q ([s.get FIL_PORT_CREDIT.REQ q, s.get FIL_PORT_CREDIT.RSP q, s.get FIL_PORT_CREDIT.COH q,
        s.get FIL_PORT_CREDIT.BULK q].map (8 * ·)) true

/-- A CREDIT flit: the whole grant of step 5, or credits freed (R310, R312). -/
def creditArrives (s : State) (q : Nat) (g : List Nat) (initial : Bool) : State :=
  let l := linkAt s q
  if initial then
    (if inStep s q 5 then linkRise (setLink s q { l with credit := g }) q else s)
  else if linkUp s q then
    drainLink q l.waiting.length (setLink s q { l with credit := List.zipWith (· + ·) l.credit g, lastFlit := nowNs s })
  else s

/-! ## The link layer (R314) -/

/-- A valid flit keeps the link alive. -/
def seen (s : State) (q : Nat) : State := setLink s q { linkAt s q with lastFlit := nowNs s }

/-- Data flits up to a sequence number acknowledged; waiting transactions follow. -/
def flitAck (s : State) (q : Nat) (a : Byte) : State :=
  let l := linkAt s q
  match l.unacked.findIdx? (fun f => f.lseq == a.toNat) with
  | some i => drainLink q l.waiting.length (setLink s q { l with unacked := l.unacked.drop (i + 1) })
  | none => s

/-- A data flit: accepted in order with its credit returned, or discarded with a RETRY. -/
def dataFlit (s : State) (q : Nat) (crcOk : Bool) (lseq ack : Byte) (vc : Nat) : State :=
  if !linkUp s q then s
  else
    let l := linkAt s q
    let retry (s : State) : State := sendCtl s q Ctl.retry (bytesLe 1 l.rxSeq)
    if !crcOk then retry s
    else
      let s := flitAck (seen s q) q ack
      if lseq.toNat ≠ l.rxSeq then retry s
      else
        let s := setLink s q { linkAt s q with rxSeq := (l.rxSeq + 1) % 256 }
        sendCredit s q ((List.range 4).map (fun v => if v = vc % 4 then 1 else 0)) false

/-- A RETRY: the flits from a sequence number are sent again; the eighth failed retry of one takes the link DOWN. -/
def retryArrives (s : State) (q : Nat) (lseq : Byte) : State :=
  if !linkUp s q then s
  else
    let s := seen s q
    let l := linkAt s q
    match l.unacked.findIdx? (fun f => f.lseq == lseq.toNat) with
    | none => s
    | some i =>
      if 8 ≤ (l.unacked.getD i { lseq := 0 }).tries then linkDown s q
      else
        let again := (l.unacked.drop i).map (fun f => { f with tries := f.tries + 1 })
        (setLink s q { l with unacked := l.unacked.take i ++ again }).bump FIL_PORT_CRC_RETRY q 0 again.length

/-- 1 µs without a valid flit takes the link DOWN (R310). -/
def idleTimeout (s : State) (q : Nat) : State :=
  if linkUp s q ∧ (linkAt s q).lastFlit + 1000 ≤ nowNs s then linkDown s q else s

/-- Loss of FEC lock takes the link DOWN, from UP or from training (R310). -/
def fecLoss (s : State) (q : Nat) : State :=
  if linkUp s q ∨ 3 ≤ (linkAt s q).step then linkDown s q else s

/-- Heartbeats on every UP link at a multiple of 100,000 ns; none after a fail-stop (R313; 14_journal_recovery.md R351). -/
def beatSend (s : State) : State :=
  let k := nowN s / 100000
  if s.fab.beat = k ∨ s.bit JRNL_STATUS.FAIL_STOP then s
  else
    let s := { s with fab := { s.fab with beat := k } }
    forEach ((List.range 24).filter (linkUp s)) (fun s q =>
      let t := issueTime s
      sendCtl (issue s) q Ctl.heartbeat (bytesLe 4 t ++
        bytesLe 1 ((if s.bit FIL_STATUS.PARTITIONED then 1 else 0) + (if s.bit FIL_STATUS.FENCED then 2 else 0)))) s

/-- A heartbeat arrives. -/
def beatArrives (s : State) (q : Nat) : State :=
  if linkUp s q then setLink s q { linkAt s q with lastBeat := nowNs s, lastFlit := nowNs s } else s

/-- A heartbeat is missing for 300 µs on a direct bangle link: the peer is reported (14_journal_recovery.md R352). -/
def beatMissing (s : State) (q : Nat) : State :=
  let l := linkAt s q
  if linkUp s q ∧ s.get FIL_PORT_CFG.ROLE q = 1 ∧ l.lastBeat + 300000 ≤ nowNs s then
    emit (setLink s q { l with lastBeat := nowNs s }) (.report 2 (s.get FIL_PORT_CFG.PEER q))
  else s

/-! ## Ports (R309, R312, R341) -/

/-- What keeps a port from starting (R309, R312). -/
def portCheck (s : State) (q : Nat) : Option Nat :=
  let c := [s.get FIL_PORT_CREDIT.REQ q, s.get FIL_PORT_CREDIT.RSP q, s.get FIL_PORT_CREDIT.COH q, s.get FIL_PORT_CREDIT.BULK q]
  let roleOk := match s.get FIL_PORT_CFG.ROLE q with
    | 0 => true
    | 1 => s.bit FIL_ROLE.BANGLE && (bangleList s).elem (s.get FIL_PORT_CFG.PEER q)
    | 2 => s.bit FIL_ROLE.CLASP
    | _ => false
  if roleOk && c.all (fun v => decide (8 ≤ v)) && decide (c.sum ≤ 256) then none else some Code.badArgument

/-- START of a port; ignored while the interface is not RUNNING (R309, R341). -/
def portStart (s : State) (q : Nat) : State :=
  startInDomain s (160 + q) (fun s =>
    if fnState s filFn ≠ Fn.running ∨ fnState s (portFn q) ≠ Fn.stopped then s
    else
      let s := startFn s (portFn q) (portCheck s q)
      if fnState s (portFn q) = Fn.running then trainBegin s q else s)

/-- A port leaves RUNNING: its link goes DOWN and trains no more. -/
def portDown (s : State) (q st : Nat) : State :=
  let s := linkDown (setFnState s (portFn q) st) q
  setLink s q { linkAt s q with retryAt := none }

/-- STOP of a port (R341). -/
def portStop (s : State) (q : Nat) : State :=
  let st := fnState s (portFn q)
  if st = Fn.running then portDown s q Fn.stopped
  else if st = Fn.faulted then setFnState s (portFn q) Fn.stopped
  else s

/-- The next training of a port whose time has come (R310). -/
def trainRetry (s : State) (q : Nat) : State :=
  match (linkAt s q).retryAt with
  | some t => if fnState s (portFn q) = Fn.running ∧ t ≤ nowNs s then trainBegin s q else s
  | none => s

/-! ## The interface (R341; 16_modes.md R392) -/

/-- A range lies in the firmware working space (08_memory.md R202). -/
def inFwSpace (a n : Nat) : Bool := decide (0x55000000 ≤ a) && decide (a + n ≤ 0x80000000)

/-- What keeps the interface from starting (R341; the range of the buffer's size: 00_scope.md R442). -/
def filCheck (s : State) : Option Nat :=
  let own := ((bangleList s).filter (· == ownNode s)).length
  if decide (2 ≤ own) || (own == 0 && !(bangleList s).isEmpty) || decide (s.get FIL_RTX_BYTES < 16) ||
      decide (512 < s.get FIL_RTX_BYTES) ||
      !inFwSpace (s.get2 FIL_RTX_BASE_LO FIL_RTX_BASE_HI) (s.get FIL_RTX_BYTES * 2 ^ 20) ||
      !inFwSpace (s.get2 FIL_TABLE_BASE_LO FIL_TABLE_BASE_HI) (2 ^ 24) then some Code.badArgument
  else none

/-- START of the interface: the device asks the replicas to take it in (R341, R392). -/
def filStart (s : State) : State :=
  if fnState s filFn ≠ Fn.stopped then s
  else
    let s := startFn s filFn (filCheck s)
    if fnState s filFn = Fn.running then
      emit { s with fab := { s.fab with rejoin := true } } (.report 3 (ownNode s))
    else s

/-- STOP of the interface: refused while a port is RUNNING; registered jobs end with DEVICE_LOST, and the device leaves the
bangle with its cache emptied (R325; 16_modes.md R392). -/
def filStop (s : State) : State :=
  let st := fnState s filFn
  if st = Fn.running then
    if (List.range 24).any (fun q => fnState s (portFn q) == Fn.running) then s.set FIL_STATUS.STOP_REJECT 1
    else
      let s := setFnState s filFn Fn.stopped
      forEach (liveJobs s) (endReg Code.deviceLost) { s with fab := { s.fab with cache := [], cacheUse := [] } }
  else if st = Fn.faulted then setFnState s filFn Fn.stopped
  else s

/-! ## The commands -/

/-- FIL_START (R341). -/
def execFilStart (s : State) : Out := .next (filStart s)

/-- FIL_STOP (16_modes.md R392). -/
def execFilStop (s : State) : Out := .next (filStop s)

/-- A command on fabric port q, of 24. -/
def onPort (q : Nat) (f : State → State) (s : State) : Out := .next (if q < 24 then f s else s)

/-- PORT_START (R309). -/
def execPortStart (q : Nat) (s : State) : Out := onPort q (fun s => portStart s q) s

/-- PORT_STOP (R341). -/
def execPortStop (q : Nat) (s : State) : Out := onPort q (fun s => portStop s q) s

/-- TRAIN_RETRY (R310). -/
def execTrainRetry (q : Nat) (s : State) : Out := onPort q (fun s => trainRetry s q) s

/-- TRAIN_STEP_TIMEOUT (R310). -/
def execTrainStepTimeout (q : Nat) (s : State) : Out := onPort q (fun s => stepTimeout s q) s

/-- FEC_LOCK_LOSS (R310). -/
def execFecLockLoss (q : Nat) (s : State) : Out := onPort q (fun s => fecLoss s q) s

/-- FLIT_IDLE_TIMEOUT (R310). -/
def execFlitIdleTimeout (q : Nat) (s : State) : Out := onPort q (fun s => idleTimeout s q) s

/-- IDLE (R314). -/
def execIdle (q : Nat) (ackLseq : Byte) (s : State) : Out :=
  onPort q (fun s => if linkUp s q then flitAck (seen s q) q ackLseq else s) s

/-- IDENT (R314). -/
def execIdent (q role inc node : Nat) (revoked : Bool) (peer : Nat) (digest : Bytes) (s : State) : Out :=
  let _ := inc
  onPort q (fun s => identArrives s q role node revoked peer digest) s

/-- LOOP_REQ (R314). -/
def execLoopReq (q : Nat) (tSend : BitVec 64) (s : State) : Out :=
  onPort q (fun s => if s.get FIL_PORT_STATUS.LINK q ≠ 0 then sendCtl (seen s q) q Ctl.loopRsp (bytesLe 8 tSend.toNat) else s) s

/-- LOOP_RSP (R314). -/
def execLoopRsp (q : Nat) (tSend : BitVec 64) (s : State) : Out := onPort q (fun s => loopArrives s q tSend.toNat) s

/-- CREDIT (R312). -/
def execCredit (q req rsp coh bulk : Nat) (initial : Bool) (s : State) : Out :=
  onPort q (fun s => creditArrives s q [req, rsp, coh, bulk] initial) s

/-- HEARTBEAT (R313). -/
def execHeartbeat (q node inc : Nat) (partitioned fenced : Bool) (s : State) : Out :=
  let _ := (node, inc, partitioned, fenced)
  onPort q (fun s => beatArrives s q) s

/-- HEARTBEAT_SEND (R313). -/
def execHeartbeatSend (s : State) : Out := .next (beatSend s)

/-- RETRY (R314). -/
def execRetry (q : Nat) (lseq : Byte) (s : State) : Out := onPort q (fun s => retryArrives s q lseq) s

/-- DATA_FLIT_RECEIVE (R314). -/
def execDataFlitReceive (q : Nat) (crcOk : Bool) (lseq ackLseq : Byte) (vc : Nat) (s : State) : Out :=
  onPort q (fun s => dataFlit s q crcOk lseq ackLseq vc) s

/-- WAVELENGTH_LOCK (R310). -/
def execWavelengthLock (q : Nat) (s : State) : Out := onPort q (fun s => waveLock s q) s

/-- FEC_LOCK (R310). -/
def execFecLock (q : Nat) (s : State) : Out := onPort q (fun s => fecLock s q) s

/-- BANGLE_HEARTBEAT_MISSING (14_journal_recovery.md R352). -/
def execBangleHeartbeatMissing (q : Nat) (s : State) : Out := onPort q (fun s => beatMissing s q) s

end Sys2Proof.Machine
end

