-- ==== Sys2Proof/Machine/Journal.lean ====
section
/-! DEFINITION. The journal's own commands, hardware failures under a command, replay, verdicts, partition and margins
(14_journal_recovery.md R342 to R365), and laser-source modules (17_live_service.md R400). -/

namespace Sys2Proof.Machine

/-! ## Start, stop and flush (R345, R365) -/

/-- START of the journal. -/
def jrnlStart (s : State) : State := startFn s jrnlFn none

/-- STOP, ignored while replays are pending (R365). -/
def jrnlStop (s : State) : State :=
  let st := fnState s jrnlFn
  if s.get JRNL_REPLAY_PENDING ≠ 0 then s.set JRNL_STATUS.STOP_REJECT 1
  else if st = Fn.running ∨ st = Fn.faulted then setFnState s jrnlFn Fn.stopped
  else s

/-! ## Failures below a command (R346, R351; 08_memory.md R212) -/

/-- A die-network or bridge link has failed after eight retries: GLOBAL status, and a fail-stop where an event that was
replayed lies less than 1 ms back (R346, R351; 08_memory.md R212). -/
def linkFail (s : State) : State :=
  let s := (s.set GLOBAL_STATUS.FAULT_CODE Code.uncorrectable).set GLOBAL_STATUS.LINK_FAIL 1
  let again := match s.jr.linkEvt with
    | some t => decide (nowNs s < t + 1000000)
    | none => false
  let s := { s with jr := { s.jr with linkEvt := some (nowNs s) } }
  if again then failStop s else s

/-- HBM4 command or address failure of the channel of a granule: it is FAULTED, and firmware retires its stack; where R206
refuses that, the device fail-stops (R351; 08_memory.md R206). -/
def channelFail (s : State) (a : Nat) : State :=
  let m := stackOf s a
  let st := MEMCH_STATUS.STATE.addr m
  if fnState s st ≠ Fn.running then s
  else
    let s := (faultFn s st Code.uncorrectable).set MEMCH_STATUS.SCRUB_ACTIVE 0 m
    if retireCode s m = Code.done then retireGo s m else failStop s

/-- An uncorrectable error in the memory of core n's control processor: its contexts leave, those with a command in flight at
its end, and its firmware is to be loaded again (R351). -/
def cpError (s : State) (n : Nat) : State :=
  let s := setCore s n { coreAt s n with cpLoaded := false, cpFailed := true }
  let s := forEach (List.range 4) (fun s c =>
    let z := (coreAt s n).slot c
    if z.valid ∧ !inFlight s z.ctx then leaveSlot s z.ctx 2 else s) s
  queueActs s n [4]

/-- The failures of the parts below that no command of its own reports (R351). -/
def partErrs (s : State) (n : Nat) (errs : MemErrs) : State :=
  forEach errs (fun s e => if e.ue ∧ e.space = 7 then channelFail s e.addr else if e.ue ∧ e.space = 8 then cpError s n else s) s

/-- A failure that faults the command itself: in an engine's datapath, in command memory, on a die network or bridge. -/
def cmdErr (errs : MemErrs) : Option MemErr := errs.find? (fun e => e.ue && decide (4 ≤ e.space) && decide (e.space ≤ 6))

/-- A command in flight meets a failure: it faults with UNCORRECTABLE (R346). -/
def hardwareFault (s : State) (n uid : Nat) (e : MemErr) : State :=
  let s := if e.space = 6 then linkFail s else s
  match flyAt s n uid with
  | some f =>
    accumHeld (cmdFault s n ((coreAt s n).slot f.slot).ctx f Code.uncorrectable e.addr (decide (e.space = 5))) n
  | none => s

/-- The head of a stream issues; what its run meets faults it. -/
def issueErr (n st : Nat) (want : BitVec 256 → Bool) (errs : MemErrs) (s : State) : State :=
  let t := issueRow n st want errs s
  let t := match cmdErr errs with
    | some e => if s.uids < t.uids then hardwareFault t n s.uids e else t
    | none => t
  if n < 128 then partErrs t n errs else t

/-! ## Replay (R346 to R350) -/

/-- A replay may begin: its context runs on the core, every member is the oldest of its stream's replays, there is room, and
its class's gate and order allow it (R347, R349). -/
def replayReady (s : State) (n c x p : Nat) (e : RepEnt) : Bool :=
  let k := coreAt s n
  let y := ctxAt s x
  k.run == some c && mayRun s n c && !outranked s n c && k.grp.isNone &&
  !(k.fly.any (fun f => f.replay == some p)) &&
  e.cmds.all (fun f =>
    mayStart s n y f.idx && decide ((k.fly.filter (fun g => g.slot == c && g.stream == f.stream)).length < roomOf f.stream) &&
    y.replays.all (fun q => q == p || (match repAt s q with
      | some d => d.cmds.all (fun g => g.stream != f.stream || decide (f.count ≤ g.count))
      | none => true)))

/-- The record of a member as it runs again from its first unit, without a wait (R347, R348). -/
def replayFly (s : State) (n c p : Nat) (f : Inflight) : Inflight :=
  let z := (coreAt s n).slot c
  let y := ctxAt s z.ctx
  let cmd := fetchCmd s n z f.idx
  let counts := loopCounts cmd (fetchLoop s n z (cmdLoop cmd)) (headOvr { idx := f.idx, cmd := cmd, entry := f.entry })
  { slot := c, stream := f.stream, idx := f.idx, cmd := cmd, entry := f.entry, counts := counts
    units := if usesPointers cmd then unitsOf counts else 0
    start := cycleNow s, cost := 1, issuedAt := nowNs s
    bound := if y.img.cls = 2 then some (bankBound s (activeBank s)) else none
    wins := y.img.wins.map (winAt s y.fn), waitTaken := f.waitTaken, count := f.count
    waitLevel := cmdOp cmd == Opc.matrix && decide (level s n < 8)
    seqFirst := f.seqFirst, sent := f.sent, wrote := f.wrote, skip := f.wrote, olds := f.olds
    snap := if cmdOp cmd = Opc.access ∧ (accOf cmd).aop = Aop.fence then openDests s n else []
    replay := some p, uid := f.uid }

/-- Reads that a first run left open serve nobody any more. -/
def dropReads (s : State) (uids : List Nat) : State :=
  { s with fab := { s.fab with pend := s.fab.pend.filter (fun p =>
      match p.who with
      | .cmd _ u => !(uids.elem u) || p.x.opc.toNat == Opc2.atomic
      | _ => true) } }

/-- The members issue again: the REPLAY records, the count, the members in flight (R344, R347, R349, R365). -/
def replayIssue (s : State) (n c x p : Nat) (e : RepEnt) : State :=
  let y := ctxAt s x
  let linked := decide (1 < e.cmds.length)
  let s := dropReads s (e.cmds.map (·.uid))
  let s := forEach e.cmds (fun s f => journal s (cmdRec 0x02 e.code n x f linked n 0)) s
  let s := setRep (s.bump JRNL_REPLAYS 0 0 e.cmds.length) p (some { e with core := n })
  let l := e.cmds.map (replayFly s n c p)
  let k := coreAt s n
  let missing := match e.cmds with
    | f :: _ => decide (e.cmds.length < (peersOf y.img f.idx).length + 1)
    | [] => false
  let s := setCore s n { k with fly := k.fly ++ l, grp := if missing then some (e.grp, nowNs s) else k.grp }
  setHeld (lanternTurn s n) n c 0

/-- The image copied back into the region before a replay, under the hallmark check (R346; 07_hallmark.md R193). -/
def copyBack (s : State) (n c x : Nat) : Option State :=
  let y := ctxAt s x
  if hallmarkOk s y.imageAddr y.img then
    let z := (coreAt s n).slot c
    some { s with mems := { s.mems with cmd := wrBytes s.mems.cmd (fetchKey n z 0) y.img.bytes } }
  else none

/-- The replay at a place of the table (R347): where the array that it needs does not run, its context is evicted with the
replay pending. -/
def replayRow (s : State) (p : Nat) (errs : MemErrs) : State :=
  match repAt s p with
  | none => s
  | some e =>
    match slotOf s e.ctx with
    | none => s
    | some (n, c) =>
      let s := memErrors (accumHeld s n) n errs
      if !replayReady s n c e.ctx p e then s
      else if e.cmds.any (fun f => cmdOp f.cmd == Opc.matrix) ∧ arrState s n ≠ Fn.running then
        if inFlight s e.ctx then s else leaveSlot (trace s n c 0 4 0 0 e.ctx 0) e.ctx 2
      else
        match (if e.reload then copyBack s n c e.ctx else some s) with
        | none => ctxFault s n e.ctx 0xFF Code.hallmarkReject 0
        | some s =>
          let s := accumHeld (runFly (replayIssue s n c e.ctx p e) n) n
          match cmdErr errs, e.cmds with
          | some h, f :: _ => hardwareFault s n f.uid h
          | _, _ => s

/-! ## Membership (R352 to R357, R360, R362) -/

/-- DSEQ streams with a member begin again from 0 (13_filigree.md R319). -/
def restartStream (s : State) (node : Nat) : State :=
  let s := setDest s node { destAt s node with next := 0, lost := false, progress := nowNs s }
  { s with fab := { s.fab with expected := mapErase s.fab.expected node } }

/-- Every DSEQ stream of the device begins again from 0 (R354; 13_filigree.md R319). -/
def restartAll (s : State) : State :=
  let s := forEach (mapKeys s.fab.dests) (fun s d => setDest s d { destAt s d with next := 0, lost := false }) s
  { s with fab := { s.fab with expected := [] } }

/-- The standbys of cells whose primary was on a device take over at their boundary, unless the device is PARTITIONED
(R360, R362; 11_nr_baseband.md R284). -/
def takeoversOf (s : State) (node : Nat) : State :=
  if s.bit FIL_STATUS.PARTITIONED then s
  else forEach ((mapKeys s.cells).filter (fun c => s.get CODEC_CELL_PARTNER.NODE c == node)) armTakeover s

/-- A verdict on a node: its new incarnation, 0 where it is dead, and the epoch (R353, R354, R357). -/
def verdict (s : State) (node inc epoch : Nat) : State :=
  let s := s.set2 JRNL_MGR_EPOCH_LO JRNL_MGR_EPOCH_HI epoch
  let s := journal s { typ := 0x20, node := node, arg := inc, detail := epoch }
  if node = ownNode s then (if inc = 0 then fencedSelf s else s)
  else
    let s := { s with fab := { s.fab with incs := mapPut zeroN s.fab.incs node inc } }
    if inc ≠ 0 then reroute (restartStream s node)
    else
      let s := dropSharer s node
      let s := if (busyNodes s).elem node then targetLost s node else setDest s node { destAt s node with lost := true }
      let s := forEach ((liveJobs s).filter (fun j => (jobNodes s j).elem node)) (endReg Code.deviceLost) s
      takeoversOf s node

/-- No global transaction of the device is outstanding (R354, R361). -/
def noTraffic (s : State) : Bool := s.fab.pend.isEmpty && s.fab.dests.all (fun d => d.2.copies.isEmpty)

/-- The device takes an incarnation: it is stored, recorded, FENCED is cleared, DSEQ streams begin again, and what waited for it
goes on (R354, R361). -/
def takeInc (s : State) (inc : Nat) : State :=
  let s := journal (s.set FIL_INCARNATION inc) { typ := 0x21, arg := inc }
  let s := restartAll (s.set FIL_STATUS.FENCED 0)
  let s := { s with fab := { s.fab with rejoin := false } }
  forEach (mapKeys s.cores) (fun s n => accumHeld (runFly (accumHeld s n) n) n) s

/-- INCARNATION: the answer to a wish to rejoin, once nothing is outstanding (R354). -/
def incarnation (s : State) (inc : Nat) : State := if s.fab.rejoin ∧ noTraffic s then takeInc s inc else s

/-! ## Partition (R359 to R361) -/

/-- The manager's status: replicas heard; two or more are the majority (R365). -/
def heard (s : State) (k : Nat) : State := (s.set JRNL_MGR_STATUS.HEARD k).set JRNL_MGR_STATUS.MAJORITY (if 2 ≤ k then 1 else 0)

/-- Fewer than two replicas were heard for 5 ms (R359, R360): the jobs with a member that does not answer end, replication is
suspended. How many were heard is free. -/
def partitionDetect (s : State) (answered : List Nat) : State :=
  if s.bit FIL_STATUS.PARTITIONED then s
  else
    let (i, s) := takeFree s
    let s := heard s (Config.freeValue i % 2)
    let s := journal (s.set FIL_STATUS.PARTITIONED 1)
      { typ := 0x22, arg := 1, detail := s.get2 JRNL_MGR_EPOCH_LO JRNL_MGR_EPOCH_HI }
    let cut (j : Nat) : Bool := (jobNodes s j).any (fun d => d != ownNode s && !(answered.elem d))
    let s := forEach ((liveJobs s).filter cut) (endReg Code.partitioned) s
    forEach ((mapKeys s.cells).filter (fun c => (cellAt s c).active && s.bit CODEC_CELL_PARTNER.REPL_EN c))
      (fun s c => s.set CODEC_CELL_STATUS.REPL_SUSPENDED 1 c) s

/-- A record that tells that PARTITIONED was set (R344). -/
def isCut (r : Bytes) : Bool := leNat (r.take 1) == 0x22 && leNat ((r.drop 0x34).take 4) == 1

/-- The places of the journal's written blocks, oldest first (R342). -/
def blockPlaces (s : State) : List Nat :=
  let n := s.get2 JRNL_BLOCKS_LO JRNL_BLOCKS_HI
  let k := min n 65536
  (List.range k).map (fun i => 0x40000000 + (n - k + i) % 65536 * 4096)

/-- The records of the block at a place. -/
def blockRecs (s : State) (a : Nat) : List Bytes :=
  (List.range (devLe s (a + 4) 1)).map (fun j => (devRead s (a + 64 + 64 * j) 64).2.1)

/-- The blocks of the journal, oldest first, the open one last: the records of each; a poisoned block gives none (R343, R345;
08_memory.md R214; log 355). -/
def ringBlocks (s : State) : List (List Bytes) :=
  ((blockPlaces s).map (fun a => if badDev s a 4096 then [] else blockRecs s a)) ++ [s.jr.recs]

/-- A read of the journal that meets poison: seen in the channel, and the journal faults with UNCORRECTABLE
(08_memory.md R214). -/
def journalSeen (s : State) : State :=
  let l := (blockPlaces s).flatMap (fun a => (granules a 4096).filter (fun g => badDev s (64 * g) 64))
  if l.isEmpty then s else faultFn (forEach l (fun s g => poisonSeenDev s (64 * g)) s) jrnlFn Code.uncorrectable

/-- The records from the last block that begins before the last PARTITION record (R361). -/
def historyOf (l : List (List Bytes)) : List Bytes :=
  match l.reverse.findIdx? (fun b => b.any isCut) with
  | some i =>
    let k := l.length - (i + 1)
    let first := ((l.getD k []).head?.map isCut).getD false
    (l.drop (if first then k - 1 else k)).flatten
  | none => l.flatten

/-- PARTITION_HEAL: new global issue is held; once nothing is outstanding, the device rejoins, sends its records, clears
PARTITIONED (R361). -/
def partitionHeal (s : State) (inc : Nat) : State :=
  if !s.bit FIL_STATUS.PARTITIONED then s
  else if !noTraffic s then { s with fab := { s.fab with rejoin := true } }
  else
    let (i, s) := takeFree s
    let s := takeInc (heard s (2 + Config.freeValue i % 2)) inc
    let s := journalSeen (emit s (.history (historyOf (ringBlocks s))))
    let s := journal (s.set FIL_STATUS.PARTITIONED 0)
      { typ := 0x22, arg := 0, detail := s.get2 JRNL_MGR_EPOCH_LO JRNL_MGR_EPOCH_HI }
    forEach ((mapKeys s.cells).filter (fun c => (cellAt s c).active)) replResume s

/-! ## Margins (R363; 17_live_service.md R406) -/

/-- A threshold as a number: that of optical power is signed. -/
def threshold (s : State) (f : Fld) (m : Nat) : Int := if m = 3 then s.getS f m else s.get f m

/-- A measured value lies on the wrong side of a threshold: above it for laser bias and corrected errors, below it for the
others. -/
def crosses (m : Nat) (v t : Int) : Bool := if m = 4 ∨ m = 6 then decide (t < v) else decide (v < t)

/-- The measured value published. -/
def setMargin (s : State) (m n : Nat) (v : Int) : State :=
  match m with
  | 0 => s.setS MARGIN_CORE.DROOP v n
  | 1 => s.setS MARGIN_CORE.SLACK v n
  | 2 => s.setS MARGIN_CORE.CANARY v n
  | 3 => s.setS MARGIN_OPT.RX_POWER v (n / 4) (n % 4)
  | 4 => s.setS MARGIN_OPT.BIAS v (n / 4) (n % 4)
  | 5 => if n < 96 then s.setS MARGIN_OPT.EYE v (n / 4) (n % 4) else s.setS MARGIN_FH_EYE v (n - 96)
  | _ => s.setS MARGIN_STACK_CE v n

/-- How many places a monitor has. -/
def marginPlaces : Nat → Nat
  | 0 | 1 | 2 => 128
  | 3 | 4 => 96
  | 5 => 128
  | _ => 16

/-- MARGIN_CROSSING: the crossing is recorded and its bit set (R363, R344; 17_live_service.md R406). -/
def marginCrossing (s : State) (m n : Nat) (v : Int) (retire : Bool) : State :=
  if 7 ≤ m ∨ marginPlaces m ≤ n then s
  else
    let t := threshold s (if retire then MARGIN_RETIRE else MARGIN_WARN) m
    if !crosses m v t then s
    else
      let s := setMargin s m n v
      let s := if retire then s.set MARGIN_STATUS.RETIRE_DUE 1 else s.set MARGIN_STATUS.WARN 1
      journal s { typ := 0x31, arg := m, detail := (v % 2 ^ 64).toNat }

/-! ## Laser-source modules (17_live_service.md R400; 19_package_electrical.md R428; 01_architecture.md R18) -/

/-- The module of engine e removed: NO_LASER on its four ports, their links DOWN. -/
def laserRemove (s : State) (e : Nat) : State :=
  let ports := (List.range 4).map (4 * e + ·)
  let s := { s with fab := { s.fab with noLaser := s.fab.noLaser ||| 2 ^ e } }
  forEach ports (fun s q =>
    let s := s.set FIL_PORT_STATUS.NO_LASER 1 q
    if linkUp s q ∨ (linkAt s q).step ≠ 0 then
      let s := linkDown s q
      setLink s q { linkAt s q with retryAt := some (nowNs s + 10000000) }
    else s) s

/-- The module of engine e fitted: NO_LASER cleared. -/
def laserFit (s : State) (e : Nat) : State :=
  let s := { s with fab := { s.fab with noLaser := if s.fab.noLaser.testBit e then s.fab.noLaser - 2 ^ e else s.fab.noLaser } }
  forEach ((List.range 4).map (4 * e + ·)) (fun s q => s.set FIL_PORT_STATUS.NO_LASER 0 q) s

/-- The level of LSM_EN of engine e: high while one of its ports is RUNNING (19_package_electrical.md R428). -/
def lsmEn (s : State) (e : Nat) : Bool := (List.range 4).any (fun i => fnState s (portFn (4 * e + i)) == Fn.running)

/-! ## The commands -/

/-- MATMUL (06_core_streams.md R154, R155; 04_matrix_array.md R85 to R93). -/
def execMatmul (n : Nat) (errs : MemErrs) (s : State) : Out := .next (issueErr n 1 (isKind 0x10 0) errs s)

/-- MOVE (06_core_streams.md R160, R161). -/
def execMove (n : Nat) (errs : MemErrs) (s : State) : Out := .next (issueErr n 0 (isKind 0x30 0) errs s)

/-- JRNL_START (R365). -/
def execJrnlStart (s : State) : Out := .next (jrnlStart s)

/-- JRNL_STOP (R365). -/
def execJrnlStop (s : State) : Out := .next (jrnlStop s)

/-- JOURNAL_FLUSH (R345). -/
def execJournalFlush (s : State) : Out := .next (journalDue s)

/-- REPLAY (R347). -/
def execReplay (i : Nat) (errs : MemErrs) (s : State) : Out := .next (replayRow s i errs)

/-- VERDICT (R353). -/
def execVerdict (node inc : Nat) (epoch : BitVec 64) (s : State) : Out :=
  .next (verdict s (node % 2 ^ 17) (inc % 65536) epoch.toNat)

/-- INCARNATION (R354). -/
def execIncarnation (inc : Nat) (s : State) : Out := .next (incarnation s (inc % 65536))

/-- PARTITION_DETECT (R359). -/
def execPartitionDetect (answered : List Nat) (s : State) : Out := .next (partitionDetect s answered)

/-- PARTITION_HEAL (R361). -/
def execPartitionHeal (inc : Nat) (s : State) : Out := .next (partitionHeal s (inc % 65536))

/-- MARGIN_CROSSING (R363). -/
def execMarginCrossing (monitor n : Nat) (value : Int) (retire : Bool) (s : State) : Out :=
  .next (marginCrossing s monitor n value retire)

/-- LASER_MODULE_REMOVE (17_live_service.md R400). -/
def execLaserModuleRemove (e : Nat) (s : State) : Out := .next (if e < 6 then laserRemove s e else s)

/-- LASER_MODULE_FIT (17_live_service.md R400). -/
def execLaserModuleFit (e : Nat) (s : State) : Out := .next (if e < 6 then laserFit s e else s)

end Sys2Proof.Machine
end

