-- ==== Sys2Proof/Machine/Live.lean ====
section
/-! DEFINITION. Maintenance activities, retirement and return, and power domains (17_live_service.md R396 to R403; 16_modes.md
R391). -/

namespace Sys2Proof.Machine

/-! ## Activities (R396, R397; 03_calendar.md R69) -/

/-- The kinds of activity, in the order of R396. -/
abbrev Act.arrayCheck : Nat := 0
abbrev Act.canary : Nat := 1
abbrev Act.droop : Nat := 2
abbrev Act.marginCheck : Nat := 3
abbrev Act.cpLoad : Nat := 4
abbrev Act.imageCopy : Nat := 5

/-- The fixed duration of an activity, tenths of a nanosecond; that of a copy follows from the image's bytes. -/
def actLen (kind bytes : Nat) : Nat :=
  match kind with
  | 0 => 1122816
  | 1 => 400000
  | 2 => 200000
  | 3 => 1722816
  | 4 => 1100000
  | _ => 10000 + (10 * bytes + 15) / 16

/-- The present elapsed time, tenths of a nanosecond. -/
def now10 (s : State) : Nat := s.clk.elapsed * 10 / 2 ^ 32

/-- An activity of a length ends at or before the close of the core's MAINT gate (03_calendar.md R69). -/
def actFits (s : State) (n len : Nat) : Bool :=
  gatesOf s n &&& Gate.maint != 0 &&
  (match closeWait s n Gate.maint with | some w => decide (len ≤ 10 * w) | none => true)

/-- Core n serves maintenance: it is not RETIRED and its domain is on. -/
def coreServes (s : State) (n : Nat) : Bool := coreUsable s n && domOn s n

/-- The array is in a state from which an ARRAY_CHECK begins. -/
def arrayRests (s : State) (n : Nat) : Bool :=
  let st := arrState s n
  (coreAt s n).check == 0 && (st == Fn.running || st == Fn.stopped || st == Fn.faulted)

/-- A queued activity of a kind could start now: it fits, and no other activity runs but copies. -/
def actReady (s : State) (n kind : Nat) : Bool :=
  coreServes s n && actFits s n (actLen kind 0) && (coreAt s n).maint.all (fun a => a.kind == Act.imageCopy) &&
    ((kind != Act.arrayCheck && kind != Act.marginCheck) || arrayRests s n)

/-- The longest MAINT window that the active bank gives a core, ns; none where no bank is active (R397). -/
def longestMaint (s : State) (n : Nat) : Option Nat :=
  if calActive s then
    let x := activeBank s
    let l := coreTrack n (bankEnts s x) 0 0
    let cyc := bankCycle s x
    let starts := risings Gate.maint l
    let shut := (l.filter (fun p => p.2 &&& Gate.maint = 0)).map (·.1)
    if starts.isEmpty then (if l.any (fun p => p.2 &&& Gate.maint ≠ 0) then none else some 0)
    else some ((starts.map (fun t => (waitFor cyc t shut).getD cyc)).foldl max 0)
  else none

/-- `MARGIN_CORE_n.NO_FIT`: some queued activity is longer than every MAINT window of the active bank (R397). -/
def noFit (s : State) (n : Nat) : Bool :=
  match longestMaint s n with
  | some w => (coreAt s n).maintQ.any (fun a => decide (10 * w < actLen a.kind 0))
  | none => false

/-- The array part of a check begins: the stop of a running or faulted array, or the TEST of a stopped one (R396). -/
def checkBegin (s : State) (n : Nat) : State :=
  if arrState s n = Fn.stopped then
    let s := arrTest s n
    let begun := arrState s n == Fn.starting
    setCore s n { coreAt s n with check := if begun then 2 else 0, checkBad := !begun }
  else
    let s := arrStopping s n
    setCore s n { coreAt s n with check := 1, checkBad := false }

/-- An activity is under way until its fixed duration has passed. -/
def actBegin (s : State) (n : Nat) (a : Activity) : State :=
  let k := coreAt s n
  let q := k.maintQ.filter (fun b => b.kind ≠ a.kind)
  let s := setCore s n { k with maint := k.maint ++ [a], maintQ := q, cpHalted := k.cpHalted || a.kind == Act.cpLoad }
  let s := (s.set MARGIN_CORE.RUNNING 1 n).set MARGIN_CORE.QUEUED (if q.isEmpty then 0 else 1) n
  if a.kind = Act.arrayCheck ∨ a.kind = Act.marginCheck then checkBegin s n else s

/-- A queued activity starts in the first window in which it fits, before those that come later in the order of R396;
CANARY_SWEEP also runs unasked (R397). -/
def actStart (s : State) (n kind : Nat) : State :=
  let k := coreAt s n
  let queued := k.maintQ.any (fun a => a.kind == kind) || kind == Act.canary
  if queued && actReady s n kind && !(k.maintQ.any (fun a => decide (a.kind < kind) && actReady s n a.kind)) then
    actBegin s n { kind := kind, endAt := now10 s + actLen kind 0 }
  else s

/-- A mask names activities of R424. -/
def maskActs (m : Nat) : List Nat := (List.range 5).filter (fun i => m.testBit i)

/-- The checks of MAINT_RUN (R397; 18_registers_mailbox.md R424). -/
def maintCheck (s : State) : Nat :=
  let n := mbxArg s 0 % 128
  firstCode [
    (!argsFit s [0x7F, 0xFFFFFFFF], Code.badArgument),
    (coreAbsent s n || arrState s n == Fn.retired, Code.notPresent),
    (mbxArg s 1 == 0 || decide (32 ≤ mbxArg s 1), Code.badArgument)]

/-- MAINT_RUN queues its activities and ends (R397). -/
def maintRun (s : State) : State := mbxEnd (queueActs s (mbxArg s 0 % 128) (maskActs (mbxArg s 1))) Code.done

/-! ## The copy of a reload (07_hallmark.md R196; R396) -/

/-- The mailbox operation is the reload of slot c of core n. -/
def reloadAsked (s : State) (n c : Nat) : Bool :=
  mbxBusyWith s 0x02 && mbxArg s 0 % 128 == n && mbxArg s 0 / 256 % 4 == c

/-- The reload of a slot that was left meanwhile ends with a code that the spec does not state. -/
def reloadGone (s : State) (n c : Nat) : State :=
  if reloadAsked s n c then
    let (i, s) := takeFree s
    mbxEnd s (freeCode i)
  else s

/-- The copy begins in a window in which it fits; a mismatch of the hallmark discards it (07_hallmark.md R193, R196). -/
def copyStart (s : State) (n c : Nat) : State :=
  let k := coreAt s n
  let z := k.slot c
  if !z.copying then reloadGone s n c
  else if k.maint.any (fun a => a.kind == Act.imageCopy && a.arg == c) then s
  else
    match z.reload with
    | none => s
    | some g =>
      let len := actLen Act.imageCopy g.bytes.length
      if !(coreServes s n && actFits s n len) then s
      else if !hallmarkOk s z.reloadAt g then
        let s := setCore s n (k.setSlot c { z with copying := false, reload := none })
        if reloadAsked s n c then mbxEnd s Code.hallmarkReject else s
      else
        let a := n * 0x40000 + (1 - z.bank) * cmdBankBytes + z.base * 256
        let s := { s with mems := { s.mems with cmd := wrBytes s.mems.cmd a g.bytes } }
        actBegin s n { kind := Act.imageCopy, arg := c, endAt := now10 s + len }

/-- The copy has ended: the reload is armed (07_hallmark.md R196). -/
def copyEnd (s : State) (n c : Nat) : State :=
  let k := coreAt s n
  let z := k.slot c
  if z.copying then
    let s := setCore s n (k.setSlot c { z with copying := false, armed := true })
    if reloadAsked s n c then mbxEnd s Code.done else s
  else reloadGone s n c

/-! ## The end of an activity (R396 to R398; 14_journal_recovery.md R350, R363) -/

/-- A sweep's outcome: published, its crossings recorded; the retire condition is two sweeps in a row below the retire
threshold. Whether it fails, and the state (14_journal_recovery.md R363). -/
def sweepEnd (s : State) (n ps : Nat) : Bool × State :=
  let v := min ps 255
  let low := crosses 2 v (threshold s MARGIN_RETIRE 2)
  let k := coreAt s n
  let bad := low && k.canaryLow
  let s := setCore s n { k with canaryLow := low, lastCanary := nowNs s }
  let s := marginCrossing (setMargin s 2 n v) 2 n v false
  (bad, if bad then marginCrossing s 2 n v true else s)

/-- A droop test's outcome: published, its crossings recorded; it fails below the retire threshold. -/
def droopEnd (s : State) (n mv : Nat) : Bool × State :=
  let v := min mv 255
  let bad := crosses 0 v (threshold s MARGIN_RETIRE 0)
  let s := marginCrossing (setMargin s 0 n v) 0 n v false
  (bad, if bad then marginCrossing s 0 n v true else s)

/-- A core leaves service once its residents at rest have gone and those with commands in flight have come to rest (R398). -/
def retireCore (s : State) (n : Nat) : State :=
  let s := setCore s n { coreAt s n with retiring := true }
  let xs := ((List.range 4).filter (fun c => ((coreAt s n).slot c).valid)).map (fun c => ((coreAt s n).slot c).ctx)
  retireSettle (forEach xs settleCtx s) n

/-- A pinned context is resident on a core. -/
def pinnedOn (s : State) (n : Nat) : Bool :=
  (List.range 4).any (fun c => ((coreAt s n).slot c).valid && (ctxAt s ((coreAt s n).slot c).ctx).pin)

/-- A core that was being returned comes back: the mark cleared, E raised, the key published (R398). -/
def returnPass (s : State) (n : Nat) : State :=
  let s := setSuspect (setRetired s (s.get GLOBAL_CORES.RETIRED - 1)) n false
  setCore s n { coreAt s n with returning := false, stopped := false }

/-- The outcome of a MARGIN_CHECK acts on a core that is being returned or that is marked suspect (R398;
14_journal_recovery.md R350). -/
def checkOutcome (s : State) (n : Nat) (bad : Bool) : State :=
  let s := (s.set MARGIN_CORE.CHECK_PASS (if bad then 0 else 1) n).set MARGIN_CORE.CHECK_FAIL (if bad then 1 else 0) n
  let code := if bad then Code.uncorrectable else Code.done
  let s := (s.set MARGIN_CORE_CODE.VALID 1 n).set MARGIN_CORE_CODE.CODE code n
  if (coreAt s n).returning then
    let s := if bad then coreLeaves s n else returnPass s n
    if mbxBusyWith s 0x12 ∧ mbxArg s 0 = n then mbxEnd s code [s.get GLOBAL_REPRO_KEY] else s
  else if !suspect s n then s
  else if !bad then
    let s := setSuspect s n false
    setCore s n { coreAt s n with stopped := false }
  else if pinnedOn s n then s
  else retireCore s n

/-- What the end of an activity does. -/
def actDone (s : State) (n : Nat) (a : Activity) (r : ActivityResult) : State :=
  match a.kind with
  | 1 => (sweepEnd s n r.canaryPs).2
  | 2 => (droopEnd s n r.droopMv).2
  | 3 =>
    let w := sweepEnd s n r.canaryPs
    let d := droopEnd w.2 n r.droopMv
    checkOutcome d.2 n ((coreAt s n).checkBad || w.1 || d.1)
  | 4 => setCore s n { coreAt s n with cpHalted := false, cpLoaded := true, cpFailed := false }
  | 5 => copyEnd s n a.arg
  | _ => s

/-- The running activity that ends first. -/
def firstAct : List Activity → Option Activity
  | [] => none
  | a :: l => match firstAct l with
    | some b => some (if a.endAt ≤ b.endAt then a else b)
    | none => some a

/-- MAINT_ACTIVITY_END: the activity of core n whose duration has passed; one with an array part once that part is over. -/
def actEnd (s : State) (n : Nat) (r : ActivityResult) : State :=
  let k := coreAt s n
  let due (a : Activity) : Bool :=
    decide (a.endAt ≤ now10 s) && ((a.kind != Act.arrayCheck && a.kind != Act.marginCheck) || k.check == 0)
  match firstAct (k.maint.filter due) with
  | none => s
  | some a =>
    let l := k.maint.erase a
    let s := (setCore s n { k with maint := l }).set MARGIN_CORE.RUNNING (if l.isEmpty then 0 else 1) n
    actDone s n a r

/-! ## Retirement and return (R398, R399) -/

/-- The checks of CORE_RETIRE. -/
def coreRetireCheck (s : State) : Nat :=
  let n := mbxArg s 0 % 128
  firstCode [
    (!argsFit s [0x7F], Code.badArgument),
    (coreAbsent s n || arrState s n == Fn.retired, Code.notPresent),
    (pinnedOn s n, Code.stateConflict)]

/-- The checks of CORE_RETURN. -/
def coreReturnCheck (s : State) : Nat :=
  let n := mbxArg s 0 % 128
  firstCode [
    (!argsFit s [0x7F], Code.badArgument),
    (coreAbsent s n, Code.notPresent),
    (arrState s n != Fn.retired || !domOn s n, Code.stateConflict)]

/-- A core is returned: STOPPED, suspect, its MARGIN_CHECK queued; the mailbox waits for the check. -/
def coreReturn (s : State) : State :=
  let n := mbxArg s 0 % 128
  let s := setFnState s (arrFn n) Fn.stopped
  markSuspect (setCore s n { coreAt s n with returning := true }) n

/-- The port that PORT_RETIRE and PORT_RETURN name: fronthaul or not, and its number. -/
def portArg (s : State) : Bool × Nat := ((mbxArg s 0).testBit 8, mbxArg s 0 % 32)

/-- The status register of a fabric or fronthaul port. -/
def portStatus (p : Bool × Nat) : Nat := if p.1 then fhFn p.2 else portFn p.2

/-- The checks of PORT_RETIRE: a fronthaul port that a RUNNING cell or FSK group names stays (R399). -/
def portRetireCheck (s : State) : Nat :=
  let p := portArg s
  firstCode [
    (!argsFit s [0x11F], Code.badArgument),
    (decide ((if p.1 then 8 else 24) ≤ p.2), Code.notPresent),
    (fnState s (portStatus p) == Fn.retired, Code.notPresent),
    (p.1 && portNamed s p.2, Code.stateConflict)]

/-- The port stopped and RETIRED, its traffic re-routed, the RETIRE record written. -/
def portRetire (s : State) : State :=
  let p := portArg s
  let s := if p.1 then fhDown s p.2 Fn.retired else portDown s p.2 Fn.retired
  let s := journal s { typ := 0x30, arg := (if p.1 then 2 else 1) * 2 ^ 24 + p.2 }
  mbxEnd s Code.done

/-- The checks of PORT_RETURN: the port is RETIRED (R399). -/
def portReturnCheck (s : State) : Nat :=
  let p := portArg s
  firstCode [
    (!argsFit s [0x11F], Code.badArgument),
    (decide ((if p.1 then 8 else 24) ≤ p.2), Code.notPresent),
    (fnState s (portStatus p) != Fn.retired, Code.stateConflict)]

/-- The port STOPPED. -/
def portReturn (s : State) : State := mbxEnd (setFnState s (portStatus (portArg s)) Fn.stopped) Code.done

/-! ## Power domains (R403, R405; 16_modes.md R391; 01_architecture.md R29, R30) -/

/-- The functions inside a domain, by their status registers. -/
def domFns (d : Nat) : List Nat :=
  if d < 128 then [arrFn d]
  else if d < 144 then []
  else if d < 160 then [MEMCH_STATUS.STATE.addr (d - 144)]
  else if d < 184 then [portFn (d - 160)]
  else if d < 192 then [fhFn (d - 184)]
  else if d < 196 then [codecFn (d - 192)]
  else if d = 196 then (List.range 64).map fskFn
  else if d = 197 then hostIf :: (List.range 257).map hostFn
  else []

/-- A function is in a state in which its domain stays on. -/
def fnBusy (s : State) (st : Nat) : Bool :=
  let v := fnState s st
  v == Fn.starting || v == Fn.running || v == Fn.stopping || v == Fn.faulted

/-- A group holds counters or a range of a cluster memory there: counters where a core is allotted to its function, a range
where it has run (06_core_streams.md R153; 09_contexts_tenants.md R231; log 366). -/
def clusterHeld (s : State) (c : Nat) : Bool :=
  s.groups.any (fun g =>
    (g.2.ctxs.any (fun x => !(ctxAt s x).counters.isEmpty) && (List.range 8).any (fun i => coreAllotted s g.2.fn (8 * c + i))) ||
    (g.2.clusters.elem c && !(groupSpans s g.1).isEmpty))

/-- Switching a domain off is refused (16_modes.md R391). -/
def offRefused (s : State) (d : Nat) : Bool :=
  (domFns d).any (fnBusy s) ||
  (decide (d < 128) && (List.range 4).any (fun c => ((coreAt s d).slot c).valid)) ||
  (decide (128 ≤ d) && decide (d < 144) &&
    ((List.range 8).any (fun i => domOn s (8 * (d - 128) + i)) || clusterHeld s (d - 128))) ||
  (decide (144 ≤ d) && decide (d < 160) && fnState s (MEMCH_STATUS.STATE.addr (d - 144)) != Fn.retired)

/-- A domain that stays off: that of a core that is ABSENT (01_architecture.md R30). -/
def keptOff (s : State) (d : Nat) : Bool := decide (d < 128) && arrState s d == Fn.absent

/-- The bit of a domain in `PWR_DOM_ON`. -/
def setDom (s : State) (d : Nat) (on : Bool) : State :=
  let o := PWR_DOM_ON.addr (d / 32)
  wrReg s o (putBits (rdReg s o) (d % 32) 1 (if on then 1 else 0))

/-- The RWL bits of a register. -/
def rwlBits (r : RegRow) : Nat :=
  (r.fields.map (fun f => if f.acc = .rwl then (2 ^ (f.hi - f.lo + 1) - 1) * 2 ^ f.lo else 0)).sum

/-- The RWL fields of a function's registers at their reset values. -/
def resetRwl (s : State) (fns : List Nat) : State :=
  forEach (mapKeys s.regs) (fun s o =>
    match regAt o, ownerOf o with
    | some (r, _, _), some w =>
      if fns.elem w then
        let m := BitVec.ofNat 32 (rwlBits r)
        wrReg s o ((mapGet resetWord s.regs o &&& ~~~m) ||| (resetWord o &&& m))
      else s
    | _, _ => s) s

/-- What a core loses with its power: its stores, its command memory, its registers of work (16_modes.md R391). -/
def coreOff (s : State) (n : Nat) : State :=
  let k := coreAt s n
  let cut (m : SMap Byte) (z : Nat) : SMap Byte := mapDropRange m (n * z) ((n + 1) * z)
  let cutP (m : SMap Bool) (z : Nat) : SMap Bool := mapDropRange m (n * z / 64) ((n + 1) * z / 64)
  let s := { s with mems := { s.mems with
    core := cut s.mems.core coreStoreBytes, sig := cut s.mems.sig sigMemBytes, cmd := cut s.mems.cmd 0x40000
    pCore := cutP s.mems.pCore coreStoreBytes, pSig := cutP s.mems.pSig sigMemBytes } }
  let s := s.set CORE_ARR_LANTERN.LEVEL 0 n
  setCore s n { k with run := none, lastFn := none, sig := {}, arr := {}, pushLow := [], stall := none, cpLoaded := false, cpFailed := false }

/-- What a cluster loses with its memory's power: the contents, and its counters (16_modes.md R391; 06_core_streams.md R173). -/
def clusterOff (s : State) (c : Nat) : State :=
  { s with
    mems := { s.mems with
      cluster := mapDropRange s.mems.cluster (c * clusterBytes) ((c + 1) * clusterBytes)
      pCluster := mapDropRange s.mems.pCluster (c * clusterBytes / 64) ((c + 1) * clusterBytes / 64) }
    clTok := mapDropRange s.clTok (c * 256) ((c + 1) * 256) }

/-- A domain goes off: its functions' configuration and its contents are lost (16_modes.md R391). -/
def domainOff (s : State) (d : Nat) : State :=
  let s := resetRwl (setDom s d false) (domFns d)
  if d < 128 then coreOff s d else if d < 144 then clusterOff s (d - 128) else s

/-- A write to `PWR_DOM_CMD`: ignored while a switch is in progress; checked by R391, recorded, and begun (R403, R405). -/
def powerReq (s : State) (d : Nat) (on off : Bool) : State :=
  if s.bit PWR_DOM_RESULT.BUSY then s.set PWR_DOM_RESULT.CMD_REJECT 1
  else if !on && !off then s
  else
    let s := s.set PWR_DOM_RESULT.DOMAIN d
    if (on && off) || decide (198 ≤ d) then s.set PWR_DOM_RESULT.CODE Code.badArgument
    else if (if on then keptOff s d else offRefused s d) then s.set PWR_DOM_RESULT.CODE Code.stateConflict
    else
      let s := (s.set PWR_DOM_RESULT.CODE Code.busy).set PWR_DOM_RESULT.BUSY 1
      let s := if off then domainOff s d else s
      { s with pwrSw := some (d, on, nowNs s + (if on then 200000 else 5000)) }

/-- The switch has ended: off takes 5 µs, on at most 200 µs with the alignment of 15_vigil.md R376; the spec gives no outcome
for an alignment that fails there, and the model's always succeeds (DESIGN CHOICE, log 320). -/
def powerDone (s : State) : State :=
  match s.pwrSw with
  | some (d, on, t) =>
    if on ∨ t ≤ nowNs s then
      let s := if on then setDom s d true else s
      { (s.set PWR_DOM_RESULT.BUSY 0).set PWR_DOM_RESULT.CODE Code.done with pwrSw := none }
    else s
  | none => s

/-! ## The commands -/

/-- MAINT_RUN (R397). -/
def execMaintRun (rq : Requester) (s : State) : Out := .next (mbxCommand s rq 0x15 maintCheck maintRun)

/-- ARRAY_CHECK (R396). -/
def execArrayCheck (n : Nat) (s : State) : Out := .next (if n < 128 then actStart s n Act.arrayCheck else s)

/-- CANARY_SWEEP (R396). -/
def execCanarySweep (n : Nat) (s : State) : Out := .next (if n < 128 then actStart s n Act.canary else s)

/-- DROOP_TEST (R396). -/
def execDroopTest (n : Nat) (s : State) : Out := .next (if n < 128 then actStart s n Act.droop else s)

/-- MARGIN_CHECK (R396). -/
def execMarginCheck (n : Nat) (s : State) : Out := .next (if n < 128 then actStart s n Act.marginCheck else s)

/-- CP_LOAD (R396). -/
def execCpLoad (n : Nat) (s : State) : Out := .next (if n < 128 then actStart s n Act.cpLoad else s)

/-- IMAGE_COPY (07_hallmark.md R196; R396). -/
def execImageCopy (n c : Nat) (s : State) : Out := .next (if n < 128 ∧ c < 4 then copyStart s n c else s)

/-- MAINT_ACTIVITY_END (R398). -/
def execMaintActivityEnd (n : Nat) (result : ActivityResult) (s : State) : Out := .next (if n < 128 then actEnd s n result else s)

/-- CORE_RETIRE (R398). -/
def execCoreRetire (rq : Requester) (s : State) : Out :=
  .next (mbxCommand s rq 0x11 coreRetireCheck (fun s => retireCore s (mbxArg s 0 % 128)))

/-- CORE_RETURN (R398). -/
def execCoreReturn (rq : Requester) (s : State) : Out := .next (mbxCommand s rq 0x12 coreReturnCheck coreReturn)

/-- PORT_RETIRE (R399). -/
def execPortRetire (rq : Requester) (s : State) : Out := .next (mbxCommand s rq 0x13 portRetireCheck portRetire)

/-- PORT_RETURN (R399). -/
def execPortReturn (rq : Requester) (s : State) : Out := .next (mbxCommand s rq 0x14 portReturnCheck portReturn)

/-- POWER_ON (R403). -/
def execPowerOn (d : Nat) (s : State) : Out := .next (powerReq s (d % 256) true false)

/-- POWER_OFF (16_modes.md R391). -/
def execPowerOff (d : Nat) (s : State) : Out := .next (powerReq s (d % 256) false true)

/-- POWER_SWITCH_DONE (R403). -/
def execPowerSwitchDone (s : State) : Out := .next (powerDone s)

end Sys2Proof.Machine
end

