-- ==== Sys2Proof/Machine/Parity.lean ====
section
/-! DEFINITION. Parity mismatches: what each does to the function or the unit that its register belongs to, and what ends it
(18_registers_mailbox.md R412, R413). -/

namespace Sys2Proof.Machine

/-- The index of a function whose status registers stand at a stride from a first one. -/
def fnIndex (st base stride count : Nat) : Option Nat :=
  if base ≤ st ∧ (st - base) % stride = 0 ∧ (st - base) / stride < count then some ((st - base) / stride) else none

/-- The status register of the management Ethernet port (18_registers_mailbox.md R418). -/
abbrev mgeFn : Nat := 0x204

/-- An array stopped by its registers' parity: every matrix command in flight faults mid-way (04_matrix_array.md R108). -/
def arrParity (s : State) (n : Nat) : State :=
  let s := arrFaulted s n Code.configParity
  forEach ((coreAt s n).fly.filter (fun f => f.stream == 1)) (fun s f =>
    if (flyAt s n f.uid).isSome then
      accumHeld (cmdFault (accumHeld s n) n ((coreAt s n).slot f.slot).ctx f Code.configParity 0) n
    else s) s

/-- The function whose status register is at an offset stopped with CONFIG_PARITY; a function that is ABSENT, RETIRED or
already FAULTED stays as it is (18_registers_mailbox.md R412, R413). -/
def parityFault (s : State) (st : Nat) : State :=
  let c := Code.configParity
  let v := fnState s st
  if v = Fn.absent ∨ v = Fn.retired ∨ v = Fn.faulted then s
  else if st = almFn then almFault s c
  else if st = calFn then calFault s c
  else if st = filFn then filFault s c
  else match fnIndex st (arrFn 0) 0x40000 128 with
  | some n => arrParity s n
  | none => match fnIndex st (fhFn 0) 0x10000 8 with
  | some p => setFnCode (fhDown s p Fn.faulted) st c
  | none => match fnIndex st (cellFn 0) 0x40 512 with
  | some k => cellFault s k c
  | none => match fnIndex st (fskFn 0) 0x100 64 with
  | some g => fskFault s g c
  | none => match fnIndex st (portFn 0) 0x100 24 with
  | some q => setFnCode (portDown s q Fn.faulted) st c
  | none => match fnIndex st (hostFn 0) 0x40 257 with
  | some f => functionReset (faultFn s st c) f
  | none => faultFn s st c

/-- The register behaves as its reset value (18_registers_mailbox.md R412). -/
def behavesReset (s : State) (o : Nat) : State := { s with behaveReset := s.behaveReset ++ [o] }

/-- The tenant whose configuration a register holds (09_contexts_tenants.md R247). -/
def tenantOf (o : Nat) : Option Nat :=
  if 0x6A000 ≤ o ∧ o < 0x6C000 ∧ (o - 0x6A000) % 0x20 < 0x14 then some ((o - 0x6A000) / 0x20) else none

/-- A tenant's configuration in doubt: the host interface reports it, and the tenant freezes (09_contexts_tenants.md R244,
R247). -/
def tenantDoubt (s : State) (t : Nat) : State :=
  let s := ((s.set HOST_STATUS.FAULT_CODE Code.configParity).set HOST_STATUS.TENANT_PARITY 1).set HOST_STATUS.PARITY_TENANT t
  if s.bit HOST_VF_STATUS.FROZEN t ∨ (fnAt s t).freezing then s
  else freezeSettle (setFn s t { fnAt s t with freezing := true, parityFroze := true }) t

/-- The memory registers with a rule of their own (08_memory.md R224). -/
def memDoubt (s : State) (o : Nat) : State :=
  let s := (s.set MEM_STATUS.FAULT_CODE Code.configParity).set MEM_PARITY_OFFSET (o % 0x100000)
  match fnIndex o (MEMCH_SCRUB_PERIOD.addr 0) 0x10000 16 with
  | some m => (s.set MEMCH_STATUS.FAULT_CODE Code.configParity m).set MEMCH_STATUS.SCRUB_ACTIVE 0 m
  | none => s

/-- What a mismatch does where no function is stopped by it: memory, tenants, the power limit and the bead limits have rules
of their own, every other register behaves as its reset value (R412; 08_memory.md R224; 09_contexts_tenants.md R247;
10_serving.md R263; 17_live_service.md R404). -/
def unownedDoubt (s : State) (o : Nat) : State :=
  if 0x200000 ≤ o ∧ o < 0x300000 then memDoubt s o
  else if o = PWR_LIMIT.addr then s
  else if o = BEAD_RADIO_RESERVE.addr ∨ (BEAD_LIMIT.addr 0 ≤ o ∧ o < BEAD_LIMIT.addr 256) then
    (s.set BEAD_STATUS.FAULT_CODE Code.configParity).set BEAD_PARITY_OFFSET (o % 65536)
  else match tenantOf o with
  | some t => tenantDoubt s t
  | none => almDoubt (behavesReset s o) o

/-- A register carries parity (R412), or is a word of a Calendar bank, which has its own (03_calendar.md R74). -/
def protected_ (o : Nat) : Bool :=
  match regAt o with
  | some (r, _, _) => r.holds .rw || r.holds .rwl || r.holds .sram
  | none => false

/-- A mismatch is found: one event from its first detection until a write ends it (R412, R413). -/
def parityEvent (s : State) (o : Nat) : State :=
  if !(protected_ o) ∨ s.upset.elem o then s
  else
    let s := { s with upset := s.upset ++ [o] }
    let s := ((s.set GLOBAL_PARITY_OFFSET o).bumpSat GLOBAL_PARITY_COUNT).set GLOBAL_STATUS.PARITY_SEEN 1
    match parityOwner o with
    | some st => parityFault s st
    | none => unownedDoubt s o

/-- A pass of the scrubber: it begins where N has reached a multiple of 1 ms since the last, and finds the mismatches in the
order of their offsets (R412). -/
def scrubPass (s : State) (l : List Nat) : State :=
  if nowN s / 1000000 = s.scrubMs then s
  else forEach (l.mergeSort (fun a b => decide (a ≤ b))) parityEvent { s with scrubMs := nowN s / 1000000 }

/-- A tenant that parity froze runs again once its registers hold (09_contexts_tenants.md R247). -/
def tenantSure (s : State) (o : Nat) : State :=
  match tenantOf o with
  | some t =>
    if (fnAt s t).parityFroze ∧ !(s.upset.any (fun u => tenantOf u == some t)) then thaw s t else s
  | none => s

/-- PARITY_SCRUB_PASS (R412). -/
def execParityScrubPass (upsets : List Upset) (s : State) : Out := .next (scrubPass s (upsets.map (·.off)))

/-! ## The record selector (10_serving.md R263) -/

/-- A read of bead i met poison: the function that owns it faults with UNCORRECTABLE: the cell or the FSK group that holds it,
the slot of a sequence, the fabric interface of a bulk transfer (10_serving.md R251; 08_memory.md R214). -/
def beadFault (s : State) (i : Nat) : State :=
  let c := Code.uncorrectable
  let s := beadPoison s i
  match (mapKeys s.cells).find? (fun k => (cellAt s k).active && (cellAt s k).beads.elem i) with
  | some k => cellFault s k c
  | none =>
    match (mapKeys s.fsk).find? (fun g => (fskAt s g).active && (fskAt s g).used.any (fun k => ((fskAt s g).chan k).bead == some i)) with
    | some g => fskFault s g c
    | none =>
      match bget s i BF.kind with
      | 1 => faultFn s (sjFn (bget s i BF.slot % 64)) c
      | 4 => filFault s c
      | _ => s

/-- A write of `BEAD_SEL` latches the record; a poisoned one faults its owner (R263, R251). -/
def beadSelect (s : State) (v : Word) : State :=
  let i := v.toNat % 2 ^ 20
  let s := beadRead (rewritten (s.set BEAD_SEL i) BEAD_SEL.addr) i
  let s := if beadBad s i then beadFault s i else s
  forEach (List.range 16) (fun s w => s.set BEAD_REC (devLe s (beadBase i + 4 * w) 4) w) s

/-- BEAD_SEL_WRITE (10_serving.md R263). -/
def execBeadSelWrite (v : Word) (s : State) : Out := .next (beadSelect s v)

end Sys2Proof.Machine
end

