-- ==== Sys2Proof/Machine/Mge.lean ====
section
/-! DEFINITION. The management Ethernet port (18_registers_mailbox.md R417, R418); the layout of its descriptors is that of the
fronthaul firmware rings (log 45). -/

namespace Sys2Proof.Machine

/-- START: the ring sizes are checked (R418). -/
def mgeStart (s : State) : State :=
  let bad (k : Nat) : Bool := decide (k < 4) || decide (12 < k)
  startFn s mgeFn (if bad (s.get GLOBAL_MGE_RX_SIZE) || bad (s.get GLOBAL_MGE_TX_SIZE) then some Code.badArgument else none)

/-- STOP. -/
def mgeStop (s : State) : State :=
  let st := fnState s mgeFn
  if st = Fn.running ∨ st = Fn.faulted then setFnState s mgeFn Fn.stopped else s

/-- The port carries frames. -/
def mgeUp (s : State) : Bool := fnState s mgeFn == Fn.running && s.bit GLOBAL_MGE_STATUS.LINK_UP

/-- A frame's length is within 64 to 1,522 bytes, its check sequence counted. -/
def mgeSized (b : Bytes) : Bool := decide (60 ≤ b.length) && decide (b.length ≤ 1518)

/-- A frame's destination is one that the port receives: its own address, broadcast, or multicast while MCAST is 1. -/
def mgeMine (s : State) (b : Bytes) : Bool :=
  let d := be b 0 6
  d == s.get GLOBAL_MGE_MAC_HI * 2 ^ 32 + s.get GLOBAL_MGE_MAC_LO || d == 2 ^ 48 - 1 ||
    (s.bit GLOBAL_MGE_CFG.MCAST && be b 0 1 % 2 == 1)

/-- A frame received: stored at the buffer of the next receive descriptor; one of another size, or with the ring full, is
dropped and counted (R417). -/
def mgeReceive (s : State) (b : Bytes) : State :=
  if !mgeUp s then s
  else if !mgeSized b then s.bumpSat GLOBAL_MGE_DROP
  else if !mgeMine s b then s
  else
    let n := 2 ^ s.get GLOBAL_MGE_RX_SIZE
    let tail := s.get GLOBAL_MGE_RX_TAIL % n
    if ringFull tail (s.get GLOBAL_MGE_RX_HEAD) n then s.bumpSat GLOBAL_MGE_DROP
    else
      let d := s.get2 GLOBAL_MGE_RX_BASE_LO GLOBAL_MGE_RX_BASE_HI + 32 * tail
      let s := hubWrite (hubSee s mgeFn d 8) mgeFn (memLe s d 8) b false
      let s := hubWrite s mgeFn (d + 8) (bytesLe 4 b.length ++ bytesLe 4 0 ++ bytesLe 8 (nowN s) ++ bytesLe 8 0) false
      s.set GLOBAL_MGE_RX_TAIL ((tail + 1) % n)

/-- The next frame of the transmit ring leaves (R417). -/
def mgeTransmit (s : State) : State :=
  let n := 2 ^ s.get GLOBAL_MGE_TX_SIZE
  let h := s.get GLOBAL_MGE_TX_HEAD % n
  if !mgeUp s ∨ h = s.get GLOBAL_MGE_TX_TAIL % n then s
  else
    let d := s.get2 GLOBAL_MGE_TX_BASE_LO GLOBAL_MGE_TX_BASE_HI + 32 * h
    let a := memLe s d 8
    let k := min 2048 (memLe s (d + 8) 4)
    let r := devRead s a k
    let s := hubSee (hubSee (s.set GLOBAL_MGE_TX_HEAD ((h + 1) % n)) mgeFn d 32) mgeFn a k
    if r.1 ≠ Code.done then s
    else if !mgeSized r.2.1 ∨ r.2.2 then (if r.2.2 then seeDev s a k else s).bumpSat GLOBAL_MGE_DROP
    else emit s (.mge (r.2.1 ++ frameCheck r.2.1))

/-- The PHY's auto-negotiation word: link and speed; half duplex is not supported, so such a link carries nothing (R417). -/
def mgeLink (s : State) (up : Bool) (speed : Nat) (full : Bool) : State :=
  let up := up && full && decide (speed < 3)
  (s.set GLOBAL_MGE_STATUS.LINK_UP (if up then 1 else 0)).set GLOBAL_MGE_STATUS.SPEED (if up then speed else 0)

/-- A write of `GLOBAL_MGE_MDIO`: its fields are stored, and GO starts an access; OP 3, and ADDRESS while C45 is 0, end at
once without a bus cycle, DATA reading 0xFFFF (R418). -/
def mdioWrite (s : State) (full act : Word) : State :=
  let busy := s.bit GLOBAL_MGE_MDIO.GO
  let s := rewritten (wrReg s GLOBAL_MGE_MDIO.GO.addr (putBits (putBits full 16 2 0) 31 1 (if busy then 1 else 0)))
    GLOBAL_MGE_MDIO.GO.addr
  if busy ∨ getBits act 31 1 = 0 then s
  else
    let op := s.get GLOBAL_MGE_MDIO.OP
    if op = 3 ∨ (op = 0 ∧ !s.bit GLOBAL_MGE_MDIO.C45) then s.set GLOBAL_MGE_MDIO.DATA 0xFFFF
    else emit (s.set GLOBAL_MGE_MDIO.GO 1) (.mdio (putBits full 16 2 0))

/-- A write with GO and one OP. -/
def mdioGo (s : State) (v : Word) (op : Nat) : State :=
  if getBits v 31 1 = 1 ∧ getBits v 28 2 = op then mdioWrite s v v else s

/-- The access ends: GO clears, DATA holds what was read (R418). -/
def mdioDone (s : State) (d : Nat) : State :=
  if s.bit GLOBAL_MGE_MDIO.GO then
    let s := s.set GLOBAL_MGE_MDIO.GO 0
    if s.get GLOBAL_MGE_MDIO.OP = 2 then s.set GLOBAL_MGE_MDIO.DATA d else s
  else s

/-- MGE_START (R418). -/
def execMgeStart (s : State) : Out := .next (mgeStart s)

/-- MGE_STOP (R418). -/
def execMgeStop (s : State) : Out := .next (mgeStop s)

/-- MGE_FRAME_RECEIVE (R417). -/
def execMgeFrameReceive (frame : Bytes) (s : State) : Out := .next (mgeReceive s frame)

/-- MGE_FRAME_TRANSMIT (R417). -/
def execMgeFrameTransmit (s : State) : Out := .next (mgeTransmit s)

/-- MGE_LINK_CHANGE (R417). -/
def execMgeLinkChange (up : Bool) (speed : Nat) (fullDuplex : Bool) (s : State) : Out := .next (mgeLink s up speed fullDuplex)

/-- MDIO_ADDRESS (R418). -/
def execMdioAddress (v : Word) (s : State) : Out := .next (mdioGo s v 0)

/-- MDIO_WRITE (R418). -/
def execMdioWrite (v : Word) (s : State) : Out := .next (mdioGo s v 1)

/-- MDIO_READ (R418). -/
def execMdioRead (v : Word) (s : State) : Out := .next (mdioGo s v 2)

/-- MDIO_DONE (R418). -/
def execMdioDone (data : BitVec 16) (s : State) : Out := .next (mdioDone s data.toNat)

end Sys2Proof.Machine
end

