-- ==== Sys2Proof/Machine/Nvm.lean ====
section
/-! DEFINITION. The flash half: its header, its sections and their records; NVM_APPLY (15_vigil.md R369 to R372;
17_live_service.md R401, R402). -/

namespace Sys2Proof.Machine

/-! ## The header (R369 to R371) -/

/-- SEQUENCE and SEC_VERSION of a header. -/
def hdrSeq (h : Bytes) : Nat := le h 8 8
def hdrVersion (h : Bytes) : Nat := le h 0x10 4

/-- The operator's key of a header. -/
def hdrKey (h : Bytes) : Bytes := (h.drop 0x40).take 97

/-- The checks of a half's header, in their order: magic and format, the operator key's digest, the version, the signature
(R370). -/
def hdrOk (h : Bytes) : Bool :=
  le h 0 4 == 0x4C474956 && le h 4 2 == 1 && Config.sha384 (hdrKey h) == Config.fuseOperatorDigest &&
    decide (Config.fuseSecVersion ≤ hdrVersion h) &&
    Config.ecdsaVerify (hdrKey h) (Config.sha384 (h.take 0xF00)) ((h.drop 0xF00).take 96)

/-- An entry of the section table: TYPE, SIGNER, OFFSET, SIZE, DIGEST. -/
structure SectEnt where
  typ : Nat
  signer : Nat
  off : Nat
  size : Nat
  digest : Bytes

/-- The section table. -/
def hdrSects (h : Bytes) : List SectEnt :=
  (List.range (min 32 (le h 6 2))).map (fun i =>
    let o := 0x100 + 64 * i
    { typ := le h o 2, signer := le h (o + 2) 1, off := le h (o + 4) 4, size := le h (o + 8) 4
      digest := (h.drop (o + 16)).take 48 })

/-- Place in the table and entry of a type; the signer is the one that the type must have (R371). -/
def sectOf (h : Bytes) (t : Nat) : Option (Nat × SectEnt) :=
  (((List.range 32).zip (hdrSects h)).find? (fun p => p.2.typ == t)).bind (fun p =>
    if p.2.signer = (if t ≤ 2 then 1 else 0) then some p else none)

/-- A type that the table names. -/
def sectNamed (h : Bytes) (t : Nat) : Bool := (hdrSects h).any (fun e => e.typ == t)

/-- A section as read: its digest, and for SIGNER 1 the signature that ends it (R370). -/
def sectOk (e : SectEnt) (b : Bytes) : Bool :=
  Config.sha384 b == e.digest &&
    (e.signer != 1 || (decide (96 ≤ b.length) &&
      Config.ecdsaVerify Config.fusePraneifKey (Config.sha384 (b.take (b.length - 96))) (b.drop (b.length - 96))))

/-! ## Records (R372) -/

/-- One record: KIND, REG, VALUE, AUX, the data of a BLOB, and whether its reserved bytes are 0 and its kind is listed. -/
structure CfgRec where
  kind : Nat
  reg : Nat
  value : Nat
  aux : Nat
  data : Bytes
  ok : Bool
deriving DecidableEq

/-- The records of a section. -/
def cfgRecs : Nat → Bytes → List CfgRec
  | 0, _ => []
  | n + 1, b =>
    if b.length < 24 then []
    else
      let kind := le b 0 1
      let aux := le b 0x10 4
      let d := if kind = 1 then (b.drop 24).take aux else []
      let r : CfgRec := { kind := kind, reg := le b 4 4, value := le b 8 8, aux := aux, data := d
                          ok := decide (kind ≤ 4) && le b 1 3 == 0 && le b 0x14 4 == 0 }
      r :: cfgRecs n (b.drop (24 + (d.length + 7) / 8 * 8))

/-- The images of a RADIO_IMAGES section, one after the other. -/
def imagesOf : Nat → Bytes → List Bytes
  | 0, _ => []
  | n + 1, b =>
    if b.length < 64 then []
    else
      let k := max 64 (if le b 0 4 = 0x334D484F then le b 8 4 else Config.n2Bytes (b.take 64))
      b.take k :: imagesOf n (b.drop k)

/-! ## NVM_APPLY -/

/-- A range of device memory as bytes; none where it cannot be read whole. -/
def nvmBytes (s : State) (a n : Nat) : Option Bytes :=
  let r := devRead s a n
  if r.1 = Code.done ∧ !r.2.2 then some r.2.1 else none

/-- The header of the half that the operation in progress names. -/
def nvmHeader (s : State) : Bytes := (nvmBytes s (mbxArg2 s 0) 4096).getD []

/-- The bytes of a section of that half. -/
def nvmSection (s : State) (e : SectEnt) : Bytes := (nvmBytes s (mbxArg2 s 0 + e.off) e.size).getD []

/-- The records that an apply in progress runs. -/
def nvmRecs (s : State) (t : Nat) : List CfgRec :=
  ((sectOf (nvmHeader s) t).map (fun p => cfgRecs ((nvmSection s p.2).length / 24 + 1) (nvmSection s p.2))).getD []

/-- The checks of NVM_APPLY (R401; 18_registers_mailbox.md R423, R424). -/
def nvmCheck (s : State) : Nat :=
  let a := mbxArg2 s 0
  let t := mbxArg s 2
  let h := nvmHeader s
  firstCode [
    (!argsFit s [0xFFFFFFFF, 0xFFFFFFFF, 0xFF] || decide (t = 0) || decide (0xC < t), Code.badArgument),
    (decide (memTop s ≤ a), Code.notPresent),
    (s.vig.sect.isSome, Code.stateConflict),
    (!hdrOk h || decide (hdrVersion h < s.get GLOBAL_VIGIL_SECVER) ||
      decide (hdrSeq h ≤ s.get2 GLOBAL_VIGIL_SEQ_LO GLOBAL_VIGIL_SEQ_HI), Code.hallmarkReject),
    (match sectOf h t with
     | some (_, e) => !(sectOk e (nvmSection s e))
     | none => sectNamed h t || decide (t ≤ 3), Code.hallmarkReject)]

/-- The cores that run (R402). -/
def runningCores (s : State) : List Nat := (List.range 128).filter (fun n => arrState s n == Fn.running)

/-- The end of an apply. -/
def nvmDone (s : State) : State := mbxEnd (s.set MBX_PROGRESS 1000) Code.done [0]

/-- A section's bytes applied live, by its type t (R402). -/
def nvmSectApply (s : State) (t : Nat) (b : Bytes) : State :=
  let body := b.take (b.length - 96)
  if t = 1 then nvmDone (forEach (List.range 4) (fun s i => mbxRelease s (.mp i)) (homeWrite s 0 body false))
  else if t = 2 then nvmDone (forEach (runningCores s) (fun s n => queueActs s n [4]) { s with cpFw := body })
  else if t = 3 then nvmDone (forEach (imagesOf (b.length / 64 + 1) b) (fun s i => (loadDirect s i).2) s)
  else { s with vig := { s.vig with nvm := true, sect := some t, recNo := 0, waitFn := none } }

/-- NVM_APPLY of the section that the header lists, if it lists one (R402). -/
def nvmApplyOf (s : State) (e : Option (Nat × SectEnt)) : State :=
  match e with
  | none => nvmDone s
  | some (_, e) => nvmSectApply s (mbxArg s 2) (nvmSection s e)

/-- The section named by the operation applied live (R402). -/
def nvmApply (s : State) : State := nvmApplyOf s (sectOf (nvmHeader s) (mbxArg s 2))

/-- NVM_APPLY (R401, R402). -/
def execNvmApply (rq : Requester) (s : State) : Out := .next (mbxCommand s rq 0x40 nvmCheck nvmApply)

end Sys2Proof.Machine
end

