-- ==== Sys2Proof/Machine/RegView.lean ====
section
/-! DEFINITION. What a register reads as: the fields that the device computes from its other state, the values latched with
a low word, and the reads with an effect (18_registers_mailbox.md R408, R409, R415, R416). -/

namespace Sys2Proof.Machine

/-- A one-bit value. -/
def bitOf (b : Bool) : Nat := if b then 1 else 0

/-- `CORE_SLOT_STATUS_c` (06_core_streams.md R172). -/
def slotView (s : State) (n c : Nat) : Nat :=
  let k := coreAt s n
  let z := k.slot c
  if z.valid then
    let g := (ctxAt s z.ctx).img
    2 ^ 31 + bitOf (k.run == some c) * 2 ^ 30 + g.cls % 4 * 2 ^ 28 + g.pacing % 2 * 2 ^ 27 + bitOf g.debug * 2 ^ 26 + z.ctx % 4096
  else 0

/-- A value of each of the four streams or queues of a slot's context, placed at a stride. -/
def perStream (s : State) (n c stride : Nat) (f : Pointers → Nat → Nat) : Nat :=
  let z := (coreAt s n).slot c
  if z.valid then ((List.range 4).map (fun t => f (ctxAt s z.ctx).live t * 2 ^ (stride * t))).sum else 0

/-- The command count of a stream of the slot under debug (06_core_streams.md R172). -/
def cmdCount (s : State) (n st : Nat) : Nat :=
  let z := (coreAt s n).slot (s.get CORE_DBG_CTRL.SLOT n)
  if z.valid then ((ctxAt s z.ctx).live.stream st).count else 0

/-- Core token counter i: sixteen for each slot (06_core_streams.md R152, R172). -/
def tokView (s : State) (n i : Nat) : Nat :=
  let z := (coreAt s n).slot (i / 16)
  if z.valid then (ctxAt s z.ctx).live.token (i % 16) else 0

/-- `CORE_IMG_STATUS_c` (07_hallmark.md R199). -/
def imgView (s : State) (n c : Nat) : Nat :=
  let z := (coreAt s n).slot c
  let y := ctxAt s z.ctx
  bitOf z.valid * 2 ^ 31 + z.bank % 2 * 2 ^ 30 + bitOf z.armed * 2 ^ 29 + bitOf z.copying * 2 ^ 28 +
    bitOf (z.valid && (List.range 4).any (fun t => (y.live.stream t).parked.isSome)) * 2 ^ 27 + bitOf z.discarded * 2 ^ 26 +
    z.switches % 65536

/-- Registers of a core that the device computes, by the offset of the first of their row; none for the others. -/
def coreView (s : State) (row n k : Nat) : Option Nat :=
  let z := (coreAt s n).slot k
  let y := ctxAt s z.ctx
  if row = CORE_SLOT_STATUS.VALID.off then some (slotView s n k)
  else if row = CORE_DYNQ_DEPTH.ACCESS.off then some (perStream s n k 8 (fun p t => min 32 (p.stream t).dynq.length))
  else if row = CORE_DATAQ_FILL.Q0.off then some (perStream s n k 8 (fun p q => ((p.dataq q).pushed - (p.dataq q).freed) % 32))
  else if row = CORE_HELD.off then some (((List.range 4).map (fun t => streamHeld s n k t % 4 * 4 ^ t)).sum)
  else if row = CORE_HELD_TIME.off then some (min 1000000 (heldTime s n k))
  else if row = CORE_PC0.off then some (if z.valid then (y.live.stream 0).pc % 4096 else 0)
  else if row = CORE_PC1.off then some (if z.valid then (y.live.stream 1).pc % 4096 else 0)
  else if row = CORE_PC2.off then some (if z.valid then (y.live.stream 2).pc % 4096 else 0)
  else if row = CORE_PC3.off then some (if z.valid then (y.live.stream 3).pc % 4096 else 0)
  else if row = CORE_TOK.off then some (tokView s n k)
  else if row = CORE_CMD_CNT_LO.off then some (cmdCount s n k % 2 ^ 32)
  else if row = CORE_CMD_CNT_HI.off then some (cmdCount s n k / 2 ^ 32 % 65536)
  else if row = CORE_ARITH_FLAGS.INEXACT.off then some (if z.valid then y.flags % 128 else 0)
  else if row = CORE_IMG_STATUS.VALID.off then some (imgView s n k)
  else if row = CORE_IMG_REGION.BASE.off then some (if z.valid then z.base % 512 * 65536 + z.size % 1024 else 0)
  else if row = CORE_IMG_KEY.off then some (if z.valid then y.img.key.toNat else 0)
  else if row = CORE_IMG_ID.off then some (if z.valid then y.img.id.toNat else 0)
  else none

/-- A register word with a field replaced by a computed value. -/
def withField (x : Word) (f : Fld) (v : Nat) : Word := putBits x f.lo f.w v

/-- Registers of which the device computes a field: the others as stored. -/
def mixedView (s : State) (row i : Nat) (x : Word) : Word :=
  if row = CORE_ARR_STATUS.STATE.off then withField x CORE_ARR_STATUS.MODE (arrMode s i)
  else if row = CORE_ARR_LANTERN.LEVEL.off then withField x CORE_ARR_LANTERN.HOLD (bitOf (lanternHold s i))
  else if row = CORE_ARR_PASS_COUNT.off then withField x CORE_ARR_PASS_COUNT (x.toNat + passesBy s i (cycleNow s))
  else if row = CORE_ARR_FILL_COUNT.off then withField x CORE_ARR_FILL_COUNT (x.toNat + fillSince s i (cycleNow s))
  else if row = CORE_DBG_STATUS.TAG.off then
    withField x CORE_DBG_STATUS.HALTED (bitOf (isHalted s i (s.get CORE_DBG_CTRL.SLOT i)))
  else if row = CLUSTER_STATUS.MEM_ON.off then
    withField (withField x CLUSTER_STATUS.MEM_ON (bitOf (domOn s (128 + i)))) CLUSTER_STATUS.CORES_LIVE
      (((List.range 8).map (fun c => bitOf (coreUsable s (8 * i + c)) * 2 ^ c)).sum)
  else if row = MARGIN_CORE.NO_FIT.off then withField x MARGIN_CORE.NO_FIT (bitOf (noFit s i))
  else x

/-- The register of a row at its two indices as a read shows it. -/
def rowView (s : State) (row i k o : Nat) : Word :=
  if row = CAL_CORE_GATE.W.off then BitVec.ofNat 32 (coreGateView s)
  else if row = CLUSTER_TOK.off then BitVec.ofNat 32 (if domOn s (128 + i) then clTokAt s i k else 0)
  else match coreView s row i k with
  | some v => BitVec.ofNat 32 v
  | none => mixedView s row i (rdReg s o)

/-- The function of a register is ABSENT: its block reads zero and ignores writes (00_scope.md R2, R6): a core's block, or
the register set of a virtual function that is not enabled. -/
def blockAbsent (s : State) (o : Nat) : Bool :=
  if 0x1000000 ≤ o ∧ o < 0x3000000 then arrState s ((o - 0x1000000) / 0x40000) == Fn.absent
  else if 0x64000 ≤ o ∧ o < 0x68040 then !(fnHere s ((o - 0x64000) / 0x40))
  else false

/-- High registers that a read of their low register latches (R408; 15_vigil.md R386; 09_contexts_tenants.md R247;
10_serving.md R263; 13_filigree.md R341; 14_journal_recovery.md R365). -/
def latchedHi (row : Nat) : Bool :=
  [GLOBAL_SERIAL_HI.off, GLOBAL_VIGIL_SEQ_HI.off, HOST_JOBS_DONE_HI.off, HOST_JOBS_FAILED_HI.off, BEAD_SJ_STEP_HI.off,
    FIL_PORT_TX_BYTES_HI.off, FIL_PORT_RX_BYTES_HI.off, JRNL_BLOCKS_HI.off, JRNL_MGR_EPOCH_HI.off].elem row

/-- The low registers of those. -/
def latchingLo (row : Nat) : Bool := latchedHi (row + 4)

/-- Nothing latched. -/
def word0 : Nat → Word := fun _ => 0

/-- The word that a read of an aligned register offset finds, effects apart: a longest bus wait is measured, a free value
(R409, R410, R415). -/
def peekReg (s : State) (o : Nat) : Word :=
  if blockAbsent s o then 0
  else match regAt o with
  | none => 0
  | some (r, i, k) =>
    if latchedHi r.off then mapGet word0 s.latches o
    else if r.off = GLOBAL_STALL_MAX.off then BitVec.ofNat 32 (Config.freeValue s.freeIdx % 8192)
    else rowView s r.off i k o

/-- The offset at which a register is held: every channel block shows the one set of MEM registers (08_memory.md R223). -/
def homeOff (o : Nat) : Nat :=
  if 0x200000 ≤ o ∧ o < 0x300000 ∧ 0xC000 ≤ o % 0x10000 then 0x200000 + o % 0x10000 else o

/-- The range of the bit aliases (R414). -/
def isAlias (o : Nat) : Bool := decide (0x4000000 ≤ o) && decide (o < 0x6000000)

/-- The register offset and the bit that an alias names. -/
def aliasOf (o : Nat) : Nat × Nat := (homeOff ((o - 0x4000000) / 128 * 4), (o - 0x4000000) / 4 % 32)

/-- A read of one aligned word: its data and its effects; an alias read has none (R34 and R56 of 02_almanac.md; R408, R415). -/
def wordRead (s : State) (o : Nat) : State × Word :=
  if isAlias o then
    let a := aliasOf o
    (s, BitVec.ofNat 32 (getBits (peekReg s a.1) a.2 1))
  else match regAt o with
  | none => (s, 0)
  | some (r, i, _) =>
    if r.off = ALM_NS_LO.off then let t := readNsLo s; (t, BitVec.ofNat 32 t.rdata.toNat)
    else if r.off = ALM_CAPT_TS_LO.off then let t := captureRead s i; (t, BitVec.ofNat 32 t.rdata.toNat)
    else if r.off = GLOBAL_STALL_MAX.off then ((takeFree s).2, peekReg s o)
    else if latchingLo r.off then
      ({ s with latches := mapPut word0 s.latches (o + 4) (rdReg s (o + 4)) }, peekReg s o)
    else (s, peekReg s o)

/-- An access refused by R408, R411 or R441: counted, its offset recorded (R408). -/
def badAccess (s : State) (o : Nat) : State :=
  ((s.bumpSat GLOBAL_BAD_ACCESS).set GLOBAL_BAD_ADDR o).set GLOBAL_STATUS.BAD_ACCESS_SEEN 1

/-- A read of at most one word's bytes: those bytes; a misaligned one reads zeros and is counted (R408). -/
def narrowRead (s : State) (o size : Nat) : State × Nat :=
  if o % 4 + size ≤ 4 then
    let r := wordRead s (homeOff (o / 4 * 4))
    (r.1, r.2.toNat / 2 ^ (8 * (o % 4)) % 2 ^ (8 * size))
  else (badAccess s o, 0)

/-- A read of the register bus: one of 64 bits is two of 32 in ascending order (R408). -/
def busRead (s : State) (o size : Nat) : State × Nat :=
  if size = 8 then
    let a := narrowRead s o 4
    let b := narrowRead a.1 (o + 4) 4
    (b.1, a.2 + b.2 * 2 ^ 32)
  else narrowRead s o size

/-- The data of a read returned to its requester. -/
def answered (r : State × Nat) : State := { r.1 with rdata := BitVec.ofNat 64 r.2 }

/-- Service is reached: the SMBus port reaches every register and the mailbox (R411). -/
def smbusOpen (s : State) : Bool := s.get GLOBAL_VIGIL_STATUS.STAGE == 12

/-- A read by a requester: the host's while its interface is STOPPED is an Unsupported Request; the SMBus port's outside what
R411 allows returns zeros and is counted (R411; 09_contexts_tenants.md R443). -/
def readBy (s : State) (rq : Requester) (o size : Nat) : State :=
  if rq = Requester.host ∧ s.get HOST_STATUS.STATE = Fn.stopped then s
  else if rq = Requester.smbus ∧ !smbusOpen s ∧ 0x10000 ≤ o then answered (badAccess s o, 0)
  else answered (busRead s o size)

/-- REGISTER_READ (R408). -/
def execRegisterRead (rq : Requester) (off size : Nat) (s : State) : Out := .next (readBy s rq off size)

/-- SMBUS_REGISTER_READ: a bad PEC acts on nothing (19_package_electrical.md R436). -/
def execSmbusRegisterRead (off : Nat) (pecOk : Bool) (s : State) : Out :=
  .next (if pecOk then readBy s .smbus off 4 else s)

end Sys2Proof.Machine
end

