-- ==== Sys2Proof/Machine/RegBus.lean ====
section
/-! DEFINITION. Register writes: which are ignored, what each control register does, what a plain one stores, and the bit
aliases (00_scope.md R5, R6; 18_registers_mailbox.md R408 to R414, R441). -/

namespace Sys2Proof.Machine

/-- The state that a meaning leaves; the one before where it leaves none. -/
def Out.state (o : Out) (s : State) : State :=
  match o with
  | .next t => t
  | _ => s

/-- A write of one register: who writes, the row and its two indices, the offset, the bits written, and the word that the
register then takes. -/
structure RegWr where
  rq : Requester
  row : RegRow
  i : Nat
  k : Nat
  o : Nat
  /-- The written bits; all of them but for an alias write -/
  mask : Word
  /-- The written bits' values, zeros elsewhere -/
  act : Word
  /-- Those values over the word held -/
  full : Word

/-- A bit of the values written is 1. -/
def RegWr.has (w : RegWr) (b : Nat) : Bool := w.act.toNat.testBit b

/-- The bits of a row's fields of an access type. -/
def accBits (r : RegRow) (a : Access) : Nat :=
  (r.fields.map (fun f => if f.acc = a then (2 ^ (f.hi - f.lo + 1) - 1) * 2 ^ f.lo else 0)).sum

/-! ## Writes that nothing takes -/

/-- The power domain that a register's block lies in (17_live_service.md R403; cluster registers stay on the hub side). -/
def regDomain (o : Nat) : Option Nat :=
  if 0x60000 ≤ o ∧ o < 0x80000 then some 197
  else if 0x80000 ≤ o ∧ o < 0x100000 then some (184 + (o - 0x80000) / 0x10000)
  else if 0x100000 ≤ o ∧ o < 0x100400 then some (192 + (o - 0x100000) / 0x100)
  else if 0x140000 ≤ o ∧ o < 0x180000 then some 196
  else if 0x1C0000 ≤ o ∧ o < 0x1C1800 then some (160 + (o - 0x1C0000) / 0x100)
  else if 0x200000 ≤ o ∧ o < 0x300000 ∧ (o - 0x200000) % 0x10000 < 0xC000 then some (144 + (o - 0x200000) / 0x10000)
  else if 0x1000000 ≤ o ∧ o < 0x3000000 then some ((o - 0x1000000) / 0x40000)
  else none

/-- The register's domain is off: its RWL fields read their reset values, and no write changes them (16_modes.md R391; log
300). -/
def domainDeaf (s : State) (o : Nat) : Bool := match regDomain o with | some d => !domOn s d | none => false

/-- How many action bits a write sets: one-bit WO fields, but for `CAL_CTRL.BANK` and `PWR_DOM_CMD` (R441). -/
def actionCount (w : RegWr) : Nat :=
  if w.row.off = PWR_DOM_CMD.ON.off then 0
  else (w.row.fields.filter (fun f => decide (f.acc = .wo) && f.hi == f.lo && w.has f.lo &&
    !(w.row.off == CAL_CTRL.BANK.off && f.lo == CAL_CTRL.BANK.lo))).length

/-- The bursts that a port's HIGH requesters may take in a window, with entry k replaced (13_filigree.md R340). -/
def portHighSum (s : State) (q k : Nat) (v : Word) : Nat :=
  ((List.range 8).map (fun j =>
    let x := if j = k then v else rdReg s (FIL_PORT_ARB_REQ.W.addr q j)
    if getBits x 30 2 = 2 then getBits x 17 11 else 0)).sum

/-- Writes that a register's own rule ignores, with the flag that each sets: `CAL_SWITCH_TIME` while a bank is pending
(03_calendar.md R75), `CAL_GOV_DUTY` while the governor runs it (03_calendar.md R80), an argument of the mailbox from another
than the owner or while BUSY (R420), an arbiter entry with a reserved code or beyond the port's sum (13_filigree.md R340), a
new job registration while PARTITIONED (14_journal_recovery.md R360). -/
def ownIgnored (s : State) (w : RegWr) : Option State :=
  let r := w.row.off
  if r = CAL_SWITCH_TIME_NS.off ∨ r = CAL_SWITCH_TIME_SL.off ∨ r = CAL_SWITCH_TIME_SH.off then
    if s.bit CAL_STATUS.PENDING then some (s.set CAL_STATUS.BANK_WRITE_REJECT 1) else none
  else if r = CAL_GOV_DUTY.off then if s.bit CAL_GOV_CTRL.EN then some s else none
  else if r = MBX_ARG.off then
    if s.bit MBX_STATUS.BUSY ∨ !s.bit MBX_CLAIM.HELD ∨ s.get MBX_CLAIM.OWNER ≠ ownerCode w.rq then some s else none
  else if r = FIL_PORT_ARB_REQ.W.off then
    if getBits w.full 30 2 = 3 ∨ getBits w.full 28 2 = 3 ∨ 1514 < portHighSum s w.i w.k w.full then
      some (s.set FIL_STATUS.ARB_WRITE_REJECT 1)
    else none
  else if r = JRNL_JOB_BIND.W.off then
    if s.bit FIL_STATUS.PARTITIONED ∧ w.full.toNat.testBit 31 ∧ !s.bit JRNL_JOB_BIND.VALID w.i then some s else none
  else none

/-! ## Control registers -/

/-- A write of an opcode to `MBX_CMD` (R420, R421, R423). -/
def mbxWrite (s : State) (rq : Requester) (op : Nat) : State :=
  (match op with
   | 0x02 => execImageReload rq s
   | 0x10 => execStackRetire rq s
   | 0x11 => execCoreRetire rq s
   | 0x12 => execCoreReturn rq s
   | 0x13 => execPortRetire rq s
   | 0x14 => execPortReturn rq s
   | 0x15 => execMaintRun rq s
   | 0x20 => execTenantCreate rq s
   | 0x21 => execTenantRemove rq s
   | 0x22 => execKeySet rq s
   | 0x23 => execTenantFreeze rq s
   | 0x24 => execTenantThaw rq s
   | 0x25 => execTenantSave rq s
   | 0x26 => execTenantRestore rq s
   | 0x30 => execBeadMove rq s
   | 0x31 => execBulkCopy rq s
   | 0x40 => execNvmApply rq s
   | n => Host.Outcome.next (mbxCommand s rq n (fun _ => Code.badArgument) (fun s => s))).state s

/-- START in bit 0, STOP in bit 1 of a control register. -/
def startStop (s : State) (w : RegWr) (start stop : State → State) : Option State :=
  some (if w.has 0 then start s else if w.has 1 then stop s else s)

/-- Writes of the control registers: one action each (R441). -/
def ctrlWrite (s : State) (w : RegWr) : Option State :=
  let r := w.row.off
  let i := w.i
  if r = GLOBAL_MGE_CTRL.START.off then startStop s w mgeStart mgeStop
  else if r = MBX_CMD.off then some (mbxWrite s w.rq (getBits w.act 0 8))
  else if r = ALM_CTRL.START.off then startStop s w almStart almStop
  else if r = CAL_CTRL.START.off then
    some (if w.has 0 then calStart s else if w.has 1 then calStop s
      else if w.has 2 then calArm s (getBits w.act 4 1) else if w.has 3 then calDisarm s else s)
  else if r = PWR_DOM_CMD.ON.off then some (powerReq s (getBits w.act 0 8) (w.has 9) (w.has 8))
  else if r = HOST_CTRL.START.off then startStop s w hostStart hostStop
  else if r = HOST_WIN_CMD.COMMIT.off then startStop s w winCommit winRead
  else if r = HOST_FN_CTRL.START.off then startStop s w (fun s => fnStart s i) (fun s => fnStop s i)
  else if r = FH_CTRL.START.off then startStop s w (fun s => fhStart s i) (fun s => fhStop s i)
  else if r = CODEC_GRP_CTRL.START.off then startStop s w (fun s => codecStart s i) (fun s => codecStop s i)
  else if r = CODEC_CELL_CTRL.START.off then
    if w.has 2 then some (takeover s i none) else startStop s w (fun s => cellStart s i) (fun s => cellStop s i)
  else if r = FSK_GRP_CTRL.START.off then startStop s w (fun s => fskStart s i) (fun s => fskStop s i)
  else if r = FIL_CTRL.START.off then startStop s w filStart filStop
  else if r = FIL_PORT_CTRL.START.off then startStop s w (fun s => portStart s i) (fun s => portStop s i)
  else if r = MEMCH_CTRL.START.off then startStop s w (fun s => memchStart s i) (fun s => scrubRestart s i)
  else if r = CORE_ARR_CTRL.START.off then
    if w.has 2 then some (arrTest s i) else startStop s w (fun s => arrStart s i) (fun s => arrStop s i)
  else if r = BEAD_SJ_CTRL.START.off then startStop s w (fun s => sjStart s i) (fun s => sjStop s i)
  else if r = JRNL_CTRL.START.off then startStop s w jrnlStart jrnlStop
  else none

/-- Registers whose write does more than store, or stores elsewhere (02_almanac.md R35, R36, R49, R57; 03_calendar.md R75,
R77; 05_arithmetic.md R132; 07_hallmark.md R198; 08_memory.md R220; 09_contexts_tenants.md R240; 10_serving.md R250, R263;
R418, R419). DESIGN CHOICE (log 347): a write of `ALM_SET_LO` is stored in any time state. -/
def ownWrite (s : State) (w : RegWr) : Option State :=
  let r := w.row.off
  if r = GLOBAL_MGE_MDIO.GO.off then some (mdioWrite s w.full w.act)
  else if r = MBX_CLAIM.TAKE.off then
    some (if w.mask.toNat.testBit 0 then (if getBits w.full 0 1 = 1 then mbxTake s w.rq else mbxRelease s w.rq) else s)
  else if r = ALM_INCR_LO.off then some (writeIncrLo s w.full)
  else if r = ALM_INCR_HI.off then some (writeIncrHi s w.full)
  else if r = ALM_SET_LO.off then some { s with clk := { s.clk with setLo := w.act } }
  else if r = ALM_SET_HI.off then some (writeSetHi s w.act)
  else if r = ALM_STEP.off then some (writeStep s w.act)
  else if r = ALM_SYNCE_CTRL.W.off then some (writeSynce s w.full)
  else if r = ALM_PLS_CTRL.MODE.off then some (writePulseCtrl s w.i (putBits w.full 3 1 (getBits w.act 3 1)))
  else if r = ALM_PLS_START_HI.off then some (writePulseStart s w.i w.full)
  else if (bankOfOff w.o).isSome then some (bankWrite s w.o w.full)
  else if 0x32000 ≤ r ∧ r < 0x36000 ∧ w.row.holds .rw then
    some (deferWrite (rewritten s w.o) w.o (w.full &&& BitVec.ofNat 32 (writableBits w.row)))
  else if r = HOST_VF_CFG.W.off ∨ r = HOST_VF_CORES.off then
    some (tenantSure (deferWrite (rewritten s w.o) w.o (w.full &&& BitVec.ofNat 32 (writableBits w.row))) w.o)
  else if r = MEM_ARB_REQ.W.off then some (writeArbReq s w.i w.full)
  else if r = CORE_ARITH_FLAGS.W.off then some (clearFlags s w.i w.k w.act)
  else if r = CORE_IMG_STATUS.W.off then
    some (if w.has 26 then
      let c := coreAt s w.i
      setCore s w.i (c.setSlot w.k { c.slot w.k with discarded := false })
    else s)
  else if r = BEAD_RADIO_RESERVE.off then some (reserveWrite s w.full)
  else if r = BEAD_SEL.off then some (beadSelect s w.full)
  else none

/-! ## Plain registers -/

/-- A value clamped to a range. -/
def clampTop (lo hi v : Nat) : Word := BitVec.ofNat 32 (max lo (min hi v))

/-- The value that a register stores for one written: some take the nearest bound of their range (02_almanac.md R50, R52, R54;
08_memory.md R223; 10_serving.md R263; 14_journal_recovery.md R365). -/
def storedAs (r : Nat) (v : Word) : Word :=
  if r = ALM_LOCK_COUNT.off then (if getBits v 0 8 = 0 then putBits v 0 8 1 else v)
  else if r = ALM_HO_LIMIT.off then clampTop 100 1500 v.toNat
  else if r = ALM_PLS_PERIOD.off then clampTop 100 4294967294 v.toNat
  else if r = MEMCH_SCRUB_PERIOD.off then clampTop 1 168 (getBits v 0 8)
  else if r = MEM_MOVE_RATE.off then clampTop 8 256 (getBits v 0 9)
  else if r = BEAD_SJ_POLL.off then clampTop 1000 1000000 v.toNat
  else if r = JRNL_FLUSH_PERIOD.off then clampTop 1000 100000 v.toNat
  else v

/-- The function that owns a register's RWL fields lets them be written (R5; 00_scope.md R6): none where a write is ignored
without a flag. -/
def rwlOpen (s : State) (o : Nat) : Option Bool :=
  match ownerOf o with
  | some st =>
    let v := fnState s st
    if v = Fn.absent then none else some (v == Fn.stopped)
  | none => some true

/-- The state with the flag of a refused RWL write (R5). -/
def rwlRefused (s : State) (o : Nat) : State :=
  match ownerOf o with
  | some st => rejectCfg s st
  | none => s

/-- A write by the access types of the fields (R5; parity R412). -/
def plainWrite (s : State) (w : RegWr) : State :=
  let rw := accBits w.row .rw
  let rwl := accBits w.row .rwl
  let touch := (w.mask &&& BitVec.ofNat 32 rwl) != 0
  let x := mapGet resetWord s.regs w.o
  let v := storedAs w.row.off w.full
  let opened := rwlOpen s w.o == some true && !domainDeaf s w.o
  let keep : Nat := rw + (if opened then rwl else 0)
  let m := BitVec.ofNat 32 keep
  let clr := w.act &&& BitVec.ofNat 32 (accBits w.row .w1c)
  let y := ((x &&& ~~~m) ||| (v &&& m)) &&& ~~~clr
  let s := if touch ∧ rwlOpen s w.o = some false then rwlRefused s w.o else s
  let s := if y = x then s else wrReg s w.o y
  if rw + rwl ≠ 0 ∧ (rwl = 0 ∨ opened) then rewritten s w.o else s

/-- What follows a stored value: ring heads let waiting records go (09_contexts_tenants.md R234), a transmit tail brings frames
(11_nr_baseband.md R271), a change of clasp re-routes (13_filigree.md R328), a governor register ends what held through the cycle (03_calendar.md R81), VALID of a job entry
clears ENDED (14_journal_recovery.md R365). -/
def afterWrite (s : State) (w : RegWr) : State :=
  let r := w.row.off
  if r = HOST_FN_RES_HEAD.off ∨ r = HOST_FN_CPL_HEAD.off then settleStop (drainRings s w.i) w.i
  else if r = FH_FWTX_TAIL.off then fwFetch w.i 4096 s
  else if r = CAL_GOV_CTRL.EN.off ∨ r = CAL_GOV_DUTY.off ∨ r = CAL_GOV_MIN_DUTY.off then noteGovWrite s
  else if r = ALM_CFG.SOURCE.off then chooseUpstream s
  else if r = FIL_CLASP_PRI.VALID.off ∨ r = FIL_CLASP_ALT.VALID.off then reroute s
  else if r = JRNL_JOB_BIND.W.off then (if w.mask.toNat.testBit 31 then s.set JRNL_JOB_BIND.ENDED 0 w.i else s)
  else s

/-! ## One register -/

/-- The word over which a write of some of a register's bits is made: the one held, the one waiting for a cycle start, or the
staged low word (R414; 03_calendar.md R77; 02_almanac.md R35). -/
def heldWord (s : State) (r o : Nat) : Word :=
  if r = ALM_INCR_LO.off then s.clk.incrLatch
  else match (s.cal.deferred.filter (fun p => p.1 == o)).getLast? with
  | some p => p.2
  | none => mapGet resetWord s.regs o

/-- A write of some bits of an aligned register offset; a reserved or ABSENT one takes none (R409; 00_scope.md R2). -/
def regWrite (s : State) (rq : Requester) (o : Nat) (v mask : Word) : State :=
  if blockAbsent s o then s
  else match regAt o with
  | none => s
  | some (r, i, k) =>
    let w : RegWr := { rq := rq, row := r, i := i, k := k, o := o, mask := mask, act := v &&& mask
                       full := (heldWord s r.off o &&& ~~~mask) ||| (v &&& mask) }
    if 1 < actionCount w then badAccess s o
    else match ownIgnored s w with
    | some t => t
    | none => match ctrlWrite s w with
    | some t => t
    | none => match ownWrite s w with
    | some t => t
    | none =>
      let s := afterWrite (plainWrite s w) w
      if r.off = CORE_DBG_CTRL.HALT.off then
        if w.has 1 then dbgHalt s i else if w.has 2 then dbgResume s i else if w.has 3 then dbgStep s i else s
      else s

/-! ## Aliases, widths and requesters -/

/-- The access type of a bit of a row. -/
def bitAcc (r : RegRow) (b : Nat) : Option Access :=
  (r.fields.find? (fun f => decide (f.lo ≤ b) && decide (b ≤ f.hi))).map (·.acc)

/-- Whether a one-bit write acts, by the access type of the bit (R414). -/
def aliasActs (a : Option Access) (one : Bool) : Bool :=
  match a with
  | some .rw | some .rwl | some .sram => true
  | some .w1c | some .w1s | some .wo => one
  | _ => false

/-- A write of bit b of the register at an offset; a mismatch that stood in it stands (R414, R412). -/
def bitWrite (s : State) (rq : Requester) (o b : Nat) (one : Bool) : State :=
  let t := regWrite s rq o (BitVec.ofNat 32 (if one then 2 ^ b else 0)) (BitVec.ofNat 32 (2 ^ b))
  let upset := s.upset.elem o && !t.upset.elem o
  let back := s.behaveReset.elem o && !t.behaveReset.elem o
  { t with
    upset := if upset then t.upset ++ [o] else t.upset
    behaveReset := if back then t.behaveReset ++ [o] else t.behaveReset }

/-- The access type of bit b of the register at an offset. -/
def accAt (o b : Nat) : Option Access := (regAt o).bind (fun r => bitAcc r.1 b)

/-- A write of an alias acts on its one bit, and never ends a mismatch (R414, R412). -/
def aliasWrite (s : State) (rq : Requester) (o : Nat) (v : Word) : State :=
  let a := aliasOf o
  let one := v.toNat.testBit 0
  if aliasActs (accAt a.1 a.2) one then bitWrite s rq a.1 a.2 one else s

/-- A write of one word: aligned, or refused and counted (R408). -/
def wordWrite (s : State) (rq : Requester) (o : Nat) (v : Word) : State :=
  if o % 4 ≠ 0 then badAccess s o
  else if isAlias o then aliasWrite s rq o v
  else regWrite s rq (homeOff o) v (BitVec.allOnes 32)

/-- A write on the bus: one of 64 bits is two of 32 in ascending order, a narrow one changes nothing and is counted (R408). -/
def busWrite (s : State) (rq : Requester) (o size : Nat) (v : BitVec 64) : State :=
  if size = 8 then wordWrite (wordWrite s rq o (v.setWidth 32)) rq (o + 4) (BitVec.ofNat 32 (v.toNat / 2 ^ 32))
  else if size = 4 then wordWrite s rq o (v.setWidth 32)
  else badAccess s o

/-- A write by a requester: the host's while its interface is STOPPED is an Unsupported Request and changes nothing; the SMBus
port's reaches the mailbox alone, once service is reached (R411; 09_contexts_tenants.md R443). -/
def writeBy (s : State) (rq : Requester) (o size : Nat) (v : BitVec 64) : State :=
  if rq = Requester.host ∧ s.get HOST_STATUS.STATE = Fn.stopped then s
  else if rq = Requester.smbus ∧ !(smbusOpen s && decide (0x10000 ≤ o) && decide (o < 0x20000)) then badAccess s o
  else busWrite s rq o size v

/-- REGISTER_WRITE (00_scope.md R5; R408, R441). -/
def execRegisterWrite (rq : Requester) (off size : Nat) (v : BitVec 64) (s : State) : Out := .next (writeBy s rq off size v)

/-- BIT_ALIAS_WRITE: the offset is the alias's (R414). -/
def execBitAliasWrite (rq : Requester) (off : Nat) (v : Word) (s : State) : Out :=
  .next (if isAlias off then writeBy s rq off 4 (v.setWidth 64) else s)

/-- SMBUS_REGISTER_WRITE (19_package_electrical.md R436). -/
def execSmbusRegisterWrite (off : Nat) (v : Word) (pecOk : Bool) (s : State) : Out :=
  .next (if pecOk then writeBy s .smbus off 4 (v.setWidth 64) else s)

end Sys2Proof.Machine
end

