-- ==== Sys2Proof/Machine/Vigil.lean ====
section
/-! DEFINITION. The Vigil: reset pins, rails, the twelve steps, fallback and halt; the thermal sensors (15_vigil.md R366 to
R386; 19_package_electrical.md R431, R437). -/

namespace Sys2Proof.Machine

/-! ## Stages and pins (R366, R367, R374, R386) -/

abbrev Stage.power : Nat := 0
abbrev Stage.romBoot : Nat := 1
abbrev Stage.auth : Nat := 2
abbrev Stage.almanac : Nat := 3
abbrev Stage.clocks : Nat := 4
abbrev Stage.align : Nat := 5
abbrev Stage.memory : Nat := 6
abbrev Stage.arrays : Nat := 7
abbrev Stage.firmware : Nat := 8
abbrev Stage.functions : Nat := 9
abbrev Stage.timeLock : Nat := 10
abbrev Stage.join : Nat := 11
abbrev Stage.service : Nat := 12
abbrev Stage.recovery : Nat := 13
abbrev Stage.halted : Nat := 14

/-- The stage of the Vigil (R386). -/
def vigStage (s : State) : Nat := s.get GLOBAL_VIGIL_STATUS.STAGE

/-- The state at another stage. -/
def toStage (s : State) (k : Nat) : State :=
  { s.set GLOBAL_VIGIL_STATUS.STAGE k with vig := { s.vig with stepAt := nowNs s } }

/-- VIGIL_FAULT_L is low (R366). -/
def vigilFault (s : State) : Bool := vigStage s == Stage.recovery || vigStage s == Stage.halted

/-- FLASH_REL_L is low: in RECOVERY, and once step 9 has ended (R368, R374). -/
def flashReleased (s : State) : Bool :=
  let k := vigStage s
  k == Stage.recovery || (decide (Stage.timeLock ≤ k) && decide (k ≤ Stage.service))

/-- The block as after reset, but for what lies outside it, the pins, the fuses, and what the always-on logic keeps of the
Vigil registers (00_scope.md R2, R13). -/
def wiped (s : State) (vigRegs : Bool) : State :=
  let t : State := { State.reset with
    pending := s.pending, freeIdx := s.freeIdx, sent := s.sent, msix := s.msix, rdata := s.rdata, fuses := s.fuses
    mems := { host := s.mems.host }, vig := s.vig, fab := { noLaser := s.fab.noLaser }
    regs := if vigRegs then s.regs.filter (fun p => decide (0x100 ≤ p.1) && decide (p.1 < 0x180)) else [] }
  forEach ((List.range 24).filter (fun q => s.fab.noLaser.testBit (q / 4))) (fun s q => s.set FIL_PORT_STATUS.NO_LASER 1 q)
    (fused t)

/-- The pins, and what the always-on logic remembers of a fallback. -/
def Vig.pins (v : Vig) (second : Bool) : Vig :=
  { aon := v.aon, por := v.por, en := v.en, good := v.good, second := second, perst := v.perst, warn := v.warn
    hot := v.hot, trip := v.trip, vid := v.vid, smbAddr := v.smbAddr }

/-- The next rail enable is raised once every group enabled is good (R367). -/
def raiseEnable (s : State) : State :=
  let v := s.vig
  if vigStage s = Stage.romBoot ∧ v.en &&& v.good = v.en ∧ v.en < 63 then { s with vig := { v with en := 2 * v.en + 1 } }
  else s

/-- Step 1 begins: all work is gone; rails already up stay up (R366). -/
def stepOne (s : State) (second : Bool) : State :=
  raiseEnable (toStage { wiped s false with vig := s.vig.pins second } Stage.romBoot)

/-- The rails are lowered and the Vigil is HALTED with UNCORRECTABLE (R367, R431). -/
def railsDown (s : State) : State :=
  let t := { wiped s true with vig := { s.vig.pins s.vig.second with en := 0 } }
  (toStage t Stage.halted).set GLOBAL_VIGIL_STATUS.FAULT_CODE Code.uncorrectable

/-- HALTED with UNCORRECTABLE; the rails stay (R374). -/
def vigHalt (s : State) : State := (toStage s Stage.halted).set GLOBAL_VIGIL_STATUS.FAULT_CODE Code.uncorrectable

/-- RECOVERY: no domain but always-on is powered (R374). -/
def recovery (s : State) (code : Nat) : State :=
  let t := { wiped s true with vig := { s.vig.pins s.vig.second with en := 0 } }
  (toStage t Stage.recovery).set GLOBAL_VIGIL_STATUS.FAULT_CODE code

/-- A failure of the half in use: the other half once, then RECOVERY (R374). -/
def vigFail (s : State) (code : Nat) : State :=
  if s.vig.second then recovery s code
  else
    let h := 1 - s.get GLOBAL_VIGIL_STATUS.HALF
    ((stepOne s true).set GLOBAL_VIGIL_STATUS.HALF h).set GLOBAL_VIGIL_STATUS.FALLBACK 1

/-- The time of the end of step k, ms from AON_PWRGOOD: of the first three a free value (R386). -/
def stampStep (s : State) (k : Nat) : State :=
  if k ≤ 3 then
    let (i, s) := takeFree s
    let v := Config.freeValue i % 2 ^ 32
    { s.set GLOBAL_VIGIL_T v (k - 1) with vig := { s.vig with base := v, baseAt := nowNs s } }
  else s.set GLOBAL_VIGIL_T (s.vig.base + (nowNs s - s.vig.baseAt) / 1000000) (k - 1)

/-- Step k ends and the next begins. -/
def endStep (s : State) (k : Nat) : State := toStage (stampStep s k) (k + 1)

/-- AON_PWRGOOD rises: the fused voltage identifications are driven, never 31, and the straps are read
(19_package_electrical.md R430, R436; the 1 ms until the VID is valid: log 325); step 1 begins unless POR_L is low (R366). -/
def aonRise (s : State) : State :=
  if s.vig.aon then s
  else
    let f := s.fuses
    let s := { s with vig := { s.vig with
      aon := true, vid := some (min f.vidN 30, min f.vidS 30), smbAddr := some (0x58 + f.straps % 4) } }
    if s.vig.por then s else stepOne s false

/-- POR_L falls: the whole device is held in reset, every enable low (R366, R367; THERM_TRIP_L clears: 19_package_electrical.md
R437). -/
def porAssert (s : State) : State :=
  { wiped s false with vig := { s.vig.pins false with por := true, en := 0, trip := false } }

/-- POR_L rises: with AON_PWRGOOD high, step 1 begins (R366). -/
def porRelease (s : State) : State :=
  if s.vig.por then
    let s := { s with vig := { s.vig with por := false } }
    if s.vig.aon then stepOne s false else s
  else s

/-- A WARM_RST_L pulse: the Vigil restarts at step 1 (R366). -/
def warmReset (s : State) : State := if s.vig.por ∨ !s.vig.aon then s else stepOne s false

/-- PERST_L: its low level resets the host port only (R366). -/
def perst (s : State) (low : Bool) : State :=
  let s := { s with vig := { s.vig with perst := low } }
  if low then s.set HOST_STATUS.LINK_UP 0 else s

/-- A PWR_GOOD input rises (R367). -/
def pwrGoodRise (s : State) (i : Nat) : State :=
  raiseEnable { s with vig := { s.vig with good := s.vig.good ||| 2 ^ i } }

/-- A PWR_GOOD input falls: with its enable high the rails are lowered (19_package_electrical.md R431). -/
def pwrGoodFall (s : State) (i : Nat) : State :=
  let s := { s with vig := { s.vig with good := if s.vig.good.testBit i then s.vig.good - 2 ^ i else s.vig.good } }
  if s.vig.en.testBit i then railsDown s else s

/-- A PWR_GOOD input is not high 20 ms after its enable (R367). -/
def pwrGoodTimeout (s : State) (i : Nat) : State :=
  if vigStage s = Stage.romBoot ∧ s.vig.en.testBit i ∧ !s.vig.good.testBit i then railsDown s else s

/-- Step 1 ends: every rail is up, the hub is out of reset (R367). -/
def romBoot (s : State) : State :=
  if vigStage s = Stage.romBoot ∧ s.vig.en = 63 ∧ s.vig.good = 63 then endStep s 1 else s

/-! ## Steps 2 to 7 (R370, R375 to R378) -/

/-- A half authenticates. -/
def halfOk (h : FlashHeader) : Bool := h.present && hdrOk h.header

/-- The half tried first: that of the higher SEQUENCE, A on a tie or where one is unreadable (R370). -/
def firstHalf (a b : FlashHeader) : Nat := if a.present && b.present && decide (hdrSeq a.header < hdrSeq b.header) then 1 else 0

/-- Step 2 (R370); after a fallback the other half alone is tried (R374). -/
def auth (s : State) (a b : FlashHeader) : State :=
  if vigStage s ≠ Stage.auth then s
  else
    let half (i : Nat) : FlashHeader := if i = 0 then a else b
    let order := if s.vig.second then [s.get GLOBAL_VIGIL_STATUS.HALF] else [firstHalf a b, 1 - firstHalf a b]
    let bad := order.takeWhile (fun i => !(halfOk (half i)))
    let s := s.set GLOBAL_VIGIL_DETAIL ((bad.map (fun i => 2 ^ i)).sum)
    match order.find? (fun i => halfOk (half i)) with
    | none => recovery s Code.hallmarkReject
    | some i =>
      let h := half i
      let s := s.set GLOBAL_VIGIL_STATUS.HALF i
      let s := (s.set2 GLOBAL_VIGIL_SEQ_LO GLOBAL_VIGIL_SEQ_HI (hdrSeq h.header)).set GLOBAL_VIGIL_SECVER (hdrVersion h.header)
      let dev := sectNamed h.header 4
      endStep { s with
        operatorKey := hdrKey h.header
        vig := { s.vig with
          header := h.header, sections := h.sections
          minCores := if dev then h.minCores else 64
          timeWait := if dev then h.timeWait else 55
          joinWait := if dev then h.joinWait else 30 } } 2

/-- Step 3: the time PLL locks, N counts from 0 in FREE_RUN (R375). -/
def almanacStep (s : State) (locked : Bool) : State :=
  if vigStage s ≠ Stage.almanac then s
  else if !locked then vigHalt s
  else
    endStep ({ s with clk := { s.clk with n := 0, frac := 0, setPend := none, stepPend := none, servoStep := none } }.set
      ALM_STATUS.TIME_STATE Ts.freeRun) 3

/-- Step 4: the other PLLs lock (R375). -/
def clocksStep (s : State) (locked : Bool) : State :=
  if vigStage s ≠ Stage.clocks then s else if locked then endStep s 4 else vigHalt s

/-- Step 5: repeated up to three times (R376). -/
def alignStep (s : State) (ok : Bool) : State :=
  if vigStage s ≠ Stage.align then s
  else if ok then endStep s 5
  else if s.get GLOBAL_VIGIL_STATUS.ALIGN_RETRIES < 3 then s.bump GLOBAL_VIGIL_STATUS.ALIGN_RETRIES
  else vigHalt s

/-- The map and the live stacks with missing stacks retired one after another (08_memory.md R205). -/
def mapWithout : List Nat → List Nat → List Nat → List Nat × List Nat
  | [], live, map => (live, map)
  | m :: t, live, map => mapWithout t (live.filter (· ≠ m)) (newMap live m map)

/-- Step 6: trained channels run, the others are FAULTED; the stripe map and the top of memory follow (R377; 08_memory.md R205,
R211). -/
def memoryStep (s : State) (trained : BitVec 16) : State :=
  if vigStage s ≠ Stage.memory then s
  else
    let missing := (List.range 16).filter (fun m => !trained.getLsbD m)
    let s := s.set MEM_STATUS.LIVE trained.toNat
    let s := forEach (List.range 16) (fun s m =>
      if trained.getLsbD m then memchStart s m else faultFn s (MEMCH_STATUS.STATE.addr m) Code.uncorrectable) s
    let s := s.set GLOBAL_VIGIL_DETAIL ((missing.map (fun m => 2 ^ m)).sum)
    let s :=
      if missing.isEmpty then s
      else
        let r := mapWithout missing (List.range 16) (stripeList s)
        forEach ((List.range 4096).zip r.2) (fun s p => setStripe s p.1 (if p.2 = 16 then none else some p.2)) s
    let s := setClusterQuota (s.set MEM_TOP ((16 - missing.length) * 48))
    if 2 < missing.length then vigHalt s else endStep s 6

/-- A core leaves service at the start: its functions are RETIRED, E is lowered (R378). -/
def retireAtStart (s : State) (n : Nat) : State := setRetired (coreLeaves s n) (s.get GLOBAL_CORES.RETIRED + 1)

/-- One array started and tested; a single failed row is repaired and the array started again; an array that still fails is
retired with its core (R378; 04_matrix_array.md R98). -/
def arrayAtStart (s : State) (n : Nat) (r : ArrayResult) : State :=
  if arrState s n ≠ Fn.stopped then s
  else
    let s := arrStart s n
    let s := selfTestOutcome s n (cycleNow s) r.rowFail r.standbyFail r.sig
    if arrState s n = Fn.running then s
    else
      match (List.range 32).find? (fun i => r.rowFail.toNat == 2 ^ i) with
      | some i =>
        if r.standbyFail then retireAtStart s n
        else
          let s := setFnState s (arrFn n) Fn.stopped
          let s := arrStart ((s.set CORE_ARR_REPAIR.EN 1 n).set CORE_ARR_REPAIR.ROW i n) n
          let s := selfTestOutcome s n (cycleNow s) r.rowFail2 r.standbyFail2 r.sig2
          if arrState s n = Fn.running then s else retireAtStart s n
      | none => retireAtStart s n

/-- A self-test that finds nothing. -/
def cleanResult : ArrayResult :=
  { rowFail := 0, standbyFail := false, sig := Config.romSignature, rowFail2 := 0, standbyFail2 := false
    sig2 := Config.romSignature }

/-- Step 7: the arrays one after another; E below MIN_CORES halts (R378). -/
def arraysStep (s : State) (l : List ArrayResult) : State :=
  if vigStage s ≠ Stage.arrays then s
  else
    let s := forEach (List.range 128) (fun s n => arrayAtStart s n (l.getD n cleanResult)) s
    if s.get GLOBAL_CORES.EFFECTIVE < s.vig.minCores then vigHalt s else endStep s 7

/-! ## Step 8 (R379) -/

/-- A section of the half in use is there and authenticates. -/
def sectGood (s : State) (t : Nat) : Bool :=
  match sectOf s.vig.header t with
  | some (i, _) => s.vig.sections.getD i false
  | none => false

/-- The images handed to the loader one after another; false where one is rejected. -/
def loadAll : List Bytes → State → Bool × State
  | [], s => (true, s)
  | b :: t, s =>
    let r := loadDirect s b
    if r.1 then loadAll t r.2 else (false, r.2)

/-- Step 8: the firmware, the seal key, the journal, the control processors, the radio images; then the management Ethernet
port (R379; 18_registers_mailbox.md R417). -/
def firmwareStep (s : State) (ok : Bool) (key : BitVec 64) (mgmt cp : Bytes) (images : List Bytes) : State :=
  if vigStage s ≠ Stage.firmware then s
  else if !ok ∨ !sectGood s 1 ∨ !sectGood s 2 ∨ !sectGood s 3 then vigFail s Code.hallmarkReject
  else
    let s := { homeWrite s 0 mgmt false with sealKey := key, cpFw := cp }
    let s := jrnlStart s
    let s := forEach ((List.range 128).filter (fun n => arrState s n == Fn.retired)) (fun s n => journal s { typ := 0x30, arg := n }) s
    let s := forEach (runningCores s) (fun s n => setCore s n { coreAt s n with cpLoaded := true }) s
    let r := loadAll images s
    if r.1 then endStep (mgeStart r.2) 8 else vigFail r.2 Code.hallmarkReject

/-- Firmware has not reached step 9 within 60 s of step 8: no code is stated (R374). -/
def firmwareTimeout (s : State) : State :=
  if vigStage s = Stage.firmware ∧ s.vig.stepAt + 60000000000 ≤ nowNs s then
    let (i, s) := takeFree s
    vigFail s (freeCode i)
  else s

/-! ## Step 9: records (R372, R373; 17_live_service.md R402) -/

/-- The section after a type that the half holds. -/
def nextSect (s : State) (t : Nat) : Option Nat :=
  ([4, 5, 6, 7, 8, 9, 10, 11, 12].filter (fun k => decide (t < k))).find? (fun k => sectNamed s.vig.header k)

/-- Step 9 has ended, and with it every read of the flash. -/
def functionsEnd (s : State) : State := endStep { s with vig := { s.vig with sect := none, waitFn := none } } 9

/-- A section begins: it must authenticate (R370). -/
def sectBegin (s : State) (t : Nat) : State :=
  match nextSect s t with
  | none => functionsEnd s
  | some k =>
    let s := { s with vig := { s.vig with sect := some k, recNo := 0, waitFn := none } }
    if sectGood s k then s else vigFail s Code.hallmarkReject

/-- Step 9 begins: the host interface first (R373). -/
def functionsStep (s : State) : State :=
  if vigStage s ≠ Stage.functions ∨ s.vig.sect.isSome then s
  else
    let s := hostStart s
    if s.get HOST_STATUS.STATE = Fn.running then sectBegin s 0 else vigFail s (s.get HOST_STATUS.FAULT_CODE)

/-- The record in progress fails with a code: step 9 fails, or the live apply ends (R373; 17_live_service.md R402). -/
def recFail (s : State) (code : Nat) : State :=
  let t := s.vig.sect.getD 0
  let d := t * 256 + s.vig.recNo % 256
  if s.vig.nvm then
    mbxEnd { s with vig := { s.vig with nvm := false, sect := none, waitFn := none } } code [d]
  else vigFail (s.set GLOBAL_VIGIL_DETAIL d) code

/-- The record in progress fails where the spec states no code. -/
def recFailFree (s : State) : State :=
  let (i, s) := takeFree s
  recFail s (freeCode i)

/-- The fault code of the function whose status register is at an offset. -/
def codeAt (s : State) (st : Nat) : Nat := getBits (rdReg s st) 24 8

/-- The record in progress is done. -/
def recDone (s : State) : State :=
  let v := s.vig
  let s := { s with vig := { v with recNo := v.recNo + 1, waitFn := none } }
  if v.nvm then s.set MBX_PROGRESS ((v.recNo + 1) * 1000 / max 1 (nvmRecs s (v.sect.getD 0)).length) else s

/-- A record runs: in step 9 as the flash gives it, in a live apply if it is the next one of the section; a malformed one
fails; so does one that finds its function FAULTED (R373). -/
def recRun (s : State) (r : CfgRec) (reg : Option Nat) (act : State → State) : State :=
  match s.vig.sect with
  | none => s
  | some t =>
    let mine := s.vig.nvm || vigStage s == Stage.functions
    if !mine then s
    else
      match (if s.vig.nvm then (nvmRecs s t)[s.vig.recNo]? else some r) with
      | none => recFailFree s
      | some x =>
        if !x.ok then recFailFree s
        else if s.vig.nvm ∧ x ≠ r then s
        else
          match reg.bind ownerOf with
          | some st => if fnState s st = Fn.faulted then recFail s (codeAt s st) else act s
          | none => act s

/-- A write record's register noted, where it is a fabric port's of the FABRIC section. -/
def notePort (s : State) (o : Nat) : State :=
  if s.vig.sect = some 7 ∧ 0x1C0000 ≤ o ∧ o < 0x1C1800 ∧ !s.vig.ports.elem ((o - 0x1C0000) / 0x100) then
    { s with vig := { s.vig with ports := s.vig.ports ++ [(o - 0x1C0000) / 0x100] } }
  else s

/-- WRITE: VALUE is written to REG (R372). -/
def cfgWrite (s : State) (reg : Nat) (v : Word) : State :=
  recRun s { kind := 0, reg := reg, value := v.toNat, aux := 0, data := [], ok := true } (some reg)
    (fun s => recDone (notePort (busWrite s (.mp 0) reg 4 (v.setWidth 64)) reg))

/-- BLOB: the data are placed in device memory (R372). -/
def cfgBlob (s : State) (off : Nat) (d : Bytes) : State :=
  recRun s { kind := 1, reg := 0, value := off, aux := d.length, data := d, ok := true } none
    (fun s => recDone (homeWrite s off d false))

/-- START: VALUE is written to REG, then RUNNING is waited for, up to 100 ms (R372, R373). -/
def cfgStart (s : State) (reg : Nat) (v : Word) (st : Nat) : State :=
  recRun s { kind := 2, reg := reg, value := v.toNat, aux := st, data := [], ok := true } (some reg) (fun s =>
    let s := match s.vig.waitFn with
      | some _ => s
      | none =>
        let s := busWrite s (.mp 0) reg 4 (v.setWidth 64)
        { s with vig := { s.vig with waitFn := some (st, nowNs s) } }
    let since := (s.vig.waitFn.map (·.2)).getD 0
    let f := getBits (peekReg s st) 0 3
    if f = Fn.running then recDone s
    else if f = Fn.faulted ∨ since + 100000000 ≤ nowNs s then recFail s (codeAt s st)
    else s)

/-- WAIT: the masked register equals the value, or its time has passed (R372, R373). -/
def cfgWait (s : State) (reg : Nat) (mask want : Word) (timedOut : Bool) : State :=
  let aux := (nvmRecs s (s.vig.sect.getD 0))[s.vig.recNo]?.map (·.aux)
  recRun s { kind := 3, reg := reg, value := mask.toNat * 2 ^ 32 + want.toNat, aux := aux.getD 0, data := [], ok := true } (some reg)
    (fun s =>
      if peekReg s reg &&& mask = want then recDone s
      else if timedOut then recFailFree s
      else s)

/-- END closes the section (R372). -/
def cfgEnd (s : State) (t : Nat) : State :=
  let end_ : CfgRec := { kind := 4, reg := 0, value := 0, aux := 0, data := [], ok := true }
  let x := if s.vig.nvm then (nvmRecs s t)[s.vig.recNo]?.getD end_ else end_
  if s.vig.sect ≠ some t ∨ (s.vig.nvm ∧ x.kind ≠ 4) then s
  else
    recRun s x none (fun s =>
      if s.vig.nvm then
        mbxEnd { s.set MBX_PROGRESS 1000 with vig := { s.vig with nvm := false, sect := none, waitFn := none } } Code.done [0]
      else sectBegin s t)

/-! ## Steps 10 to 12 (R381 to R384; 14_journal_recovery.md R356) -/

/-- The half in use has a FABRIC section: without one step 11 is skipped (R371). -/
def hasFabric (s : State) : Bool := sectNamed s.vig.header 7

/-- Step 10 ends with the time state LOCKED; in service it clears TIME_PENDING, and the device joins then (R381). -/
def timeLock (s : State) : State :=
  if timeState s ≠ Ts.locked then s
  else if vigStage s = Stage.timeLock then
    let s := endStep s 10
    if hasFabric s then { s with vig := { s.vig with joining := true } } else toStage s Stage.service
  else if vigStage s = Stage.service ∧ s.bit GLOBAL_VIGIL_STATUS.TIME_PENDING then
    let s := (stampStep s 10).set GLOBAL_VIGIL_STATUS.TIME_PENDING 0
    { s with vig := { s.vig with joining := hasFabric s, stepAt := nowNs s } }
  else s

/-- The time state is not LOCKED within TIME_WAIT (R381). -/
def timeWaitExpiry (s : State) : State :=
  if vigStage s = Stage.timeLock ∧ timeState s ≠ Ts.locked ∧ s.vig.stepAt + s.vig.timeWait * 1000000000 ≤ nowNs s then
    (toStage s Stage.service).set GLOBAL_VIGIL_STATUS.TIME_PENDING 1
  else s

/-- The device asks the replicas to take it in. -/
def askJoin (s : State) : State :=
  emit { s with vig := { s.vig with askAt := some (nowNs s) } } (.report 3 (ownNode s))

/-- The interface and the ports of the FABRIC section started (R382). -/
def fabricUp (s : State) : State :=
  let s := if fnState s filFn = Fn.stopped then filStart s else s
  forEach s.vig.ports (fun s q => if fnState s (portFn q) = Fn.stopped then portStart s q else s) s

/-- A STRAND or BANGLE port is UP. -/
def joinPort (s : State) : Bool := !(upPorts s 0).isEmpty || !(upPorts s 1).isEmpty

/-- Step 11, or a rejoining after a START of the interface (R382; 16_modes.md R392): the fabric is started; once a port is up,
the device asks, and the majority answers with an incarnation and a release time, the trim measured meanwhile. -/
def fabricJoin (s : State) (inc : Nat) (t : BitVec 64) (trim : Int) : State :=
  if !s.vig.joining ∧ !s.fab.rejoin then s
  else
    let s := if s.vig.joining then fabricUp s else s
    if !joinPort s then s
    else
      let s := if s.vig.askAt.isSome then s else askJoin s
      { s with vig := { s.vig with answer := some (inc, t.toNat, trim) } }

/-- A job of a group as if its function had submitted a JOB entry; its USER value is not stated (14_journal_recovery.md R356). -/
def releaseGroup (s : State) (g : Nat) : State :=
  let w := groupAt s g
  if w.ctxs.isEmpty then s
  else
    let (i, s) := takeFree s
    let j : Job := { fn := w.fn, user := Config.freeValue i % 2 ^ 64 }
    let c : State → Nat → State := fun s c =>
      pushCpl s w.fn { code := c, typ := 1, image := (ctxAt s g).img.id.toNat, user := j.user }
    if 64 ≤ w.waiting.length then c s Code.busy
    else
      match admission s w.fn (shapeOf (ctxAt s g).img) with
      | (false, s) => c s Code.policed
      | (true, s) =>
        if w.job.isSome then setGroup s g { groupAt s g with waiting := w.waiting ++ [j] } else startJob s g j

/-- The jobs whose START_AT_RELEASE is set begin (14_journal_recovery.md R356). -/
def releaseJobs (s : State) : State :=
  forEach ((liveJobs s).filter (fun j => s.bit JRNL_JOB_BIND.START_AT_RELEASE j)) (fun s j =>
    let l := s.get JRNL_JOB_BIND.LOCAL j
    let s := if s.bit JRNL_JOB_BIND.KIND j then (if l < 64 then sjStart s l else s) else releaseGroup s l
    s.set JRNL_JOB_BIND.START_AT_RELEASE 0 j) s

/-- At T_R less the trim the device takes its incarnation and begins ordinary traffic (R383). -/
def fabricRelease (s : State) : State :=
  match s.vig.answer with
  | none => s
  | some (inc, t, trim) =>
    if (t : Int) * 256 - trim ≤ nowN s * 256 + s.clk.frac.toNat / 2 ^ 24 ∧ noTraffic s then
      let s := releaseJobs (takeInc s inc)
      let joined := s.vig.joining
      let s := { s with vig := { s.vig with answer := none, joining := false, askAt := none } }
      if !joined then s
      else
        let s := (stampStep s 11).set GLOBAL_VIGIL_STATUS.JOIN_PENDING 0
        if vigStage s = Stage.join then toStage s Stage.service else s
    else s

/-- The device is not released within JOIN_WAIT of the end of step 10 (R384). -/
def joinWaitExpiry (s : State) : State :=
  if s.vig.joining ∧ s.vig.stepAt + s.vig.joinWait * 1000000000 ≤ nowNs s then
    let s := if vigStage s = Stage.join then toStage s Stage.service else s
    askJoin (s.set GLOBAL_VIGIL_STATUS.JOIN_PENDING 1)
  else s

/-- While JOIN_PENDING the device asks again every second (R384). -/
def joinRetry (s : State) : State :=
  let due : Bool := match s.vig.askAt with
    | some t => decide (t + 1000000000 ≤ nowNs s)
    | none => true
  if s.bit GLOBAL_VIGIL_STATUS.JOIN_PENDING ∧ due then askJoin s
  else s

/-! ## Thermal (19_package_electrical.md R437) -/

/-- THERM_TRIP_L falls and stays low, the rails are lowered. -/
def thermTrip (s : State) : State := railsDown { s with vig := { s.vig with trip := true } }

/-- A sensor's reading: THERM_WARN_L falls at 90 degrees and rises once every sensor is below 87. -/
def thermRead (s : State) (die sensor : Nat) (milliC : Int) : State :=
  let others := s.vig.hot.filter (· ≠ (die, sensor))
  let hot := if 87000 ≤ milliC then others ++ [(die, sensor)] else others
  let warn := decide (90000 ≤ milliC) || (s.vig.warn && !hot.isEmpty)
  let s := { s with vig := { s.vig with hot := hot, warn := warn } }
  if 105000 ≤ milliC then thermTrip s else s

/-- A core whose junction leaves 0 to 95 degrees stops, as a failed core (R437; 01_architecture.md R23; 14_journal_recovery.md
R351). -/
def junctionOut (s : State) (n : Nat) : State :=
  if coreUsable s n then markSuspect (setCore s n { coreAt s n with stopped := true }) n else s

/-! ## The commands -/

/-- AON_PWRGOOD_RISE (R366). -/
def execAonPwrgoodRise (s : State) : Out := .next (aonRise s)

/-- POR_ASSERT (R366). -/
def execPorAssert (s : State) : Out := .next (porAssert s)

/-- POR_RELEASE (R366). -/
def execPorRelease (s : State) : Out := .next (porRelease s)

/-- WARM_RESET (R366). -/
def execWarmReset (s : State) : Out := .next (warmReset s)

/-- PERST (R366). -/
def execPerst (low : Bool) (s : State) : Out := .next (perst s low)

/-- PWR_GOOD_RISE (R367). -/
def execPwrGoodRise (i : Nat) (s : State) : Out := .next (if i < 6 then pwrGoodRise s i else s)

/-- PWR_GOOD_FALL (19_package_electrical.md R431). -/
def execPwrGoodFall (i : Nat) (s : State) : Out := .next (if i < 6 then pwrGoodFall s i else s)

/-- PWR_GOOD_TIMEOUT (R367). -/
def execPwrGoodTimeout (i : Nat) (s : State) : Out := .next (if i < 6 then pwrGoodTimeout s i else s)

/-- ROM_BOOT (R367). -/
def execRomBoot (s : State) : Out := .next (romBoot s)

/-- AUTH (R370). -/
def execAuth (halfA halfB : FlashHeader) (s : State) : Out := .next (auth s halfA halfB)

/-- ALMANAC (R375). -/
def execAlmanac (locked : Bool) (s : State) : Out := .next (almanacStep s locked)

/-- CLOCKS (R375). -/
def execClocks (locked : Bool) (s : State) : Out := .next (clocksStep s locked)

/-- ALIGN (R376). -/
def execAlign (ok : Bool) (s : State) : Out := .next (alignStep s ok)

/-- MEMORY (R377). -/
def execMemory (trained : BitVec 16) (s : State) : Out := .next (memoryStep s trained)

/-- ARRAYS (R378). -/
def execArrays (results : List ArrayResult) (s : State) : Out := .next (arraysStep s results)

/-- FIRMWARE (R379). -/
def execFirmware (digestsOk : Bool) (key : BitVec 64) (mgmtFw cpFw : Bytes) (images : List Bytes) (s : State) : Out :=
  .next (firmwareStep s digestsOk key mgmtFw cpFw images)

/-- FIRMWARE_TIMEOUT (R374). -/
def execFirmwareTimeout (s : State) : Out := .next (firmwareTimeout s)

/-- FUNCTIONS (R373). -/
def execFunctions (s : State) : Out := .next (functionsStep s)

/-- CFG_WRITE (R372). -/
def execCfgWrite (reg : Nat) (value : Word) (s : State) : Out := .next (cfgWrite s reg value)

/-- CFG_BLOB (R372). -/
def execCfgBlob (off : Nat) (data : Bytes) (s : State) : Out := .next (cfgBlob s off data)

/-- CFG_START (R372). -/
def execCfgStart (reg : Nat) (value : Word) (status : Nat) (s : State) : Out := .next (cfgStart s reg value status)

/-- CFG_WAIT (R372). -/
def execCfgWait (reg : Nat) (mask expected : Word) (timedOut : Bool) (s : State) : Out :=
  .next (cfgWait s reg mask expected timedOut)

/-- CFG_END (R372). -/
def execCfgEnd (sect : Nat) (s : State) : Out := .next (cfgEnd s sect)

/-- TIME_LOCK (R381). -/
def execTimeLock (s : State) : Out := .next (timeLock s)

/-- TIME_WAIT_EXPIRY (R381). -/
def execTimeWaitExpiry (s : State) : Out := .next (timeWaitExpiry s)

/-- FABRIC_JOIN (R382). -/
def execFabricJoin (inc : Nat) (tRelease : BitVec 64) (trim : Int) (s : State) : Out := .next (fabricJoin s inc tRelease trim)

/-- FABRIC_RELEASE (R383). -/
def execFabricRelease (s : State) : Out := .next (fabricRelease s)

/-- JOIN_WAIT_EXPIRY (R384). -/
def execJoinWaitExpiry (s : State) : Out := .next (joinWaitExpiry s)

/-- JOIN_RETRY (R384). -/
def execJoinRetry (s : State) : Out := .next (joinRetry s)

/-- THERM_WARN (19_package_electrical.md R437). -/
def execThermWarn (die sensor : Nat) (milliC : Int) (s : State) : Out := .next (thermRead s die sensor milliC)

/-- THERM_TRIP (19_package_electrical.md R437). -/
def execThermTrip (s : State) : Out := .next (thermTrip s)

/-- JUNCTION_OUT_OF_RANGE (19_package_electrical.md R437). -/
def execJunctionOutOfRange (n : Nat) (s : State) : Out := .next (if n < 128 then junctionOut s n else s)

end Sys2Proof.Machine
end

