-- ==== Sys2Proof/Machine/Dispatch.lean ====
section
/-! DEFINITION. The meaning of every command: one arm for each row of the opcode table. -/

namespace Sys2Proof.Machine

/-- The effect of a command on everything but the queue. -/
def exec (i : Instr) (s : State) : Host.Outcome State Fault Refusal :=
  match i with
  | .almanacTick => Sys2Proof.Machine.execAlmanacTick s
  | .almNsLoRead => Sys2Proof.Machine.execAlmNsLoRead s
  | .incrementWrite v => Sys2Proof.Machine.execIncrementWrite v s
  | .setTime v => Sys2Proof.Machine.execSetTime v s
  | .stepTime v => Sys2Proof.Machine.execStepTime v s
  | .synceQualifiedWrite v => Sys2Proof.Machine.execSynceQualifiedWrite v s
  | .synceLossOfSignal => Sys2Proof.Machine.execSynceLossOfSignal s
  | .syncReceived m t1 corr q => Sys2Proof.Machine.execSyncReceived m t1 corr q s
  | .delayRespReceived m t4 corr => Sys2Proof.Machine.execDelayRespReceived m t4 corr s
  | .ppsEdge q => Sys2Proof.Machine.execPpsEdge q s
  | .servoStep => Sys2Proof.Machine.execServoStep s
  | .lossTimeout => Sys2Proof.Machine.execLossTimeout s
  | .holdoverTeUpdate => Sys2Proof.Machine.execHoldoverTeUpdate s
  | .almStart => Sys2Proof.Machine.execAlmStart s
  | .almStop => Sys2Proof.Machine.execAlmStop s
  | .fhLinkChange p k up => Sys2Proof.Machine.execFhLinkChange p k up s
  | .pulseLeadEdge k => Sys2Proof.Machine.execPulseLeadEdge k s
  | .pulseTrailEdge k => Sys2Proof.Machine.execPulseTrailEdge k s
  | .pulseCtrlWrite k v => Sys2Proof.Machine.execPulseCtrlWrite k v s
  | .pulseStartWrite k v => Sys2Proof.Machine.execPulseStartWrite k v s
  | .captureEdge k rising q => Sys2Proof.Machine.execCaptureEdge k rising q s
  | .captureRead k => Sys2Proof.Machine.execCaptureRead k s
  | .calEntryEnd power => Sys2Proof.Machine.execCalEntryEnd power s
  | .gateReachCore n => Sys2Proof.Machine.execGateReachCore n s
  | .tenantBoundExpiry n stream => Sys2Proof.Machine.execTenantBoundExpiry n stream s
  | .calArm bank => Sys2Proof.Machine.execCalArm bank s
  | .armDone => Sys2Proof.Machine.execArmDone s
  | .calDisarm => Sys2Proof.Machine.execCalDisarm s
  | .calStart => Sys2Proof.Machine.execCalStart s
  | .calStop => Sys2Proof.Machine.execCalStop s
  | .bankSwap power => Sys2Proof.Machine.execBankSwap power s
  | .bankWrite off v => Sys2Proof.Machine.execBankWrite off v s
  | .tokenAccrue t => Sys2Proof.Machine.execTokenAccrue t s
  | .arrStart n => Sys2Proof.Machine.execArrStart n s
  | .arrTest n => Sys2Proof.Machine.execArrTest n s
  | .arrStop n => Sys2Proof.Machine.execArrStop n s
  | .selfTestEnd n rowFail standbyFail sig => Sys2Proof.Machine.execSelfTestEnd n rowFail standbyFail sig s
  | .arrayStopDone n => Sys2Proof.Machine.execArrayStopDone n s
  | .lanternLevelStep n => Sys2Proof.Machine.execLanternLevelStep n s
  | .arithFlagsClear n c v => Sys2Proof.Machine.execArithFlagsClear n c v s
  | .nop n stream => Sys2Proof.Machine.execNop n stream s
  | .dynq n stream => Sys2Proof.Machine.execDynq n stream s
  | .boundary n stream => Sys2Proof.Machine.execBoundary n stream s
  | .matmul n errs => Sys2Proof.Machine.execMatmul n errs s
  | .ewMul n => Sys2Proof.Machine.execEwMul n s
  | .ewFma n => Sys2Proof.Machine.execEwFma n s
  | .ewAdd n => Sys2Proof.Machine.execEwAdd n s
  | .vecConvert n => Sys2Proof.Machine.execVecConvert n s
  | .vecAdd n => Sys2Proof.Machine.execVecAdd n s
  | .vecSub n => Sys2Proof.Machine.execVecSub n s
  | .vecMul n => Sys2Proof.Machine.execVecMul n s
  | .vecFma n => Sys2Proof.Machine.execVecFma n s
  | .vecMax n => Sys2Proof.Machine.execVecMax n s
  | .vecMin n => Sys2Proof.Machine.execVecMin n s
  | .scale n => Sys2Proof.Machine.execScale n s
  | .addi n => Sys2Proof.Machine.execAddi n s
  | .exp n => Sys2Proof.Machine.execExp n s
  | .recip n => Sys2Proof.Machine.execRecip n s
  | .rsqrt n => Sys2Proof.Machine.execRsqrt n s
  | .tanh n => Sys2Proof.Machine.execTanh n s
  | .gelu n => Sys2Proof.Machine.execGelu n s
  | .rsum n => Sys2Proof.Machine.execRsum n s
  | .rmax n => Sys2Proof.Machine.execRmax n s
  | .rsumsq n => Sys2Proof.Machine.execRsumsq n s
  | .argmax n => Sys2Proof.Machine.execArgmax n s
  | .move n errs => Sys2Proof.Machine.execMove n errs s
  | .bfpExpand n => Sys2Proof.Machine.execBfpExpand n s
  | .bfpCompress n => Sys2Proof.Machine.execBfpCompress n s
  | .fill n => Sys2Proof.Machine.execFill n s
  | .waitMem n => Sys2Proof.Machine.execWaitMem n s
  | .waitMemPoll n => Sys2Proof.Machine.execWaitMemPoll n s
  | .fence n => Sys2Proof.Machine.execFence n s
  | .atomicAdd32 n => Sys2Proof.Machine.execAtomicAdd32 n s
  | .atomicAdd64 n => Sys2Proof.Machine.execAtomicAdd64 n s
  | .atomicAnd64 n => Sys2Proof.Machine.execAtomicAnd64 n s
  | .atomicOr64 n => Sys2Proof.Machine.execAtomicOr64 n s
  | .atomicXor64 n => Sys2Proof.Machine.execAtomicXor64 n s
  | .atomicMaxu64 n => Sys2Proof.Machine.execAtomicMaxu64 n s
  | .atomicMinu64 n => Sys2Proof.Machine.execAtomicMinu64 n s
  | .atomicSwap64 n => Sys2Proof.Machine.execAtomicSwap64 n s
  | .atomicCas64 n => Sys2Proof.Machine.execAtomicCas64 n s
  | .signal n => Sys2Proof.Machine.execSignal n s
  | .sigEnd n => Sys2Proof.Machine.execSigEnd n s
  | .rep n => Sys2Proof.Machine.execRep n s
  | .sigLd n => Sys2Proof.Machine.execSigLd n s
  | .sigSt n => Sys2Proof.Machine.execSigSt n s
  | .sigAdd n => Sys2Proof.Machine.execSigAdd n s
  | .sigSub n => Sys2Proof.Machine.execSigSub n s
  | .cmul n => Sys2Proof.Machine.execCmul n s
  | .cmulc n => Sys2Proof.Machine.execCmulc n s
  | .cmac n => Sys2Proof.Machine.execCmac n s
  | .accrd n => Sys2Proof.Machine.execAccrd n s
  | .mag2 n => Sys2Proof.Machine.execMag2 n s
  | .sigMax n => Sys2Proof.Machine.execSigMax n s
  | .seta n => Sys2Proof.Machine.execSeta n s
  | .setcb n => Sys2Proof.Machine.execSetcb n s
  | .bnz n => Sys2Proof.Machine.execBnz n s
  | .commandComplete n stream => Sys2Proof.Machine.execCommandComplete n stream s
  | .dataqPush n q => Sys2Proof.Machine.execDataqPush n q s
  | .dataqFree n q => Sys2Proof.Machine.execDataqFree n q s
  | .heldTimeout n => Sys2Proof.Machine.execHeldTimeout n s
  | .contextSwitch n => Sys2Proof.Machine.execContextSwitch n s
  | .contextResident x => Sys2Proof.Machine.execContextResident x s
  | .dynqPush n c stream high v => Sys2Proof.Machine.execDynqPush n c stream high v s
  | .dbgHalt n => Sys2Proof.Machine.execDbgHalt n s
  | .dbgResume n => Sys2Proof.Machine.execDbgResume n s
  | .dbgStep n => Sys2Proof.Machine.execDbgStep n s
  | .image f => Sys2Proof.Machine.execImage f s
  | .imageReload rq => Sys2Proof.Machine.execImageReload rq s
  | .reloadBankSwitch n c => Sys2Proof.Machine.execReloadBankSwitch n c s
  | .stackRetire rq => Sys2Proof.Machine.execStackRetire rq s
  | .stripeMapSwitch => Sys2Proof.Machine.execStripeMapSwitch s
  | .stackMoveUnitCopy errs => Sys2Proof.Machine.execStackMoveUnitCopy errs s
  | .scrubBurst m ces ues => Sys2Proof.Machine.execScrubBurst m ces ues s
  | .arbiterGrant a => Sys2Proof.Machine.execArbiterGrant a s
  | .urgencyPromotion a r => Sys2Proof.Machine.execUrgencyPromotion a r s
  | .quotaWindowStart a => Sys2Proof.Machine.execQuotaWindowStart a s
  | .arbReqWrite r v => Sys2Proof.Machine.execArbReqWrite r v s
  | .memchStart m => Sys2Proof.Machine.execMemchStart m s
  | .scrubRestart m => Sys2Proof.Machine.execScrubRestart m s
  | .job f => Sys2Proof.Machine.execJob f s
  | .copyIn f => Sys2Proof.Machine.execCopyIn f s
  | .copyOut f => Sys2Proof.Machine.execCopyOut f s
  | .release f => Sys2Proof.Machine.execRelease f s
  | .jobComplete g arrUse memUse fabUse => Sys2Proof.Machine.execJobComplete g arrUse memUse fabUse s
  | .winCommit => Sys2Proof.Machine.execWinCommit s
  | .winRead => Sys2Proof.Machine.execWinRead s
  | .hostStart => Sys2Proof.Machine.execHostStart s
  | .hostStop => Sys2Proof.Machine.execHostStop s
  | .fnStart f => Sys2Proof.Machine.execFnStart f s
  | .fnStop f => Sys2Proof.Machine.execFnStop f s
  | .functionLevelReset f => Sys2Proof.Machine.execFunctionLevelReset f s
  | .drainTimeout f => Sys2Proof.Machine.execDrainTimeout f s
  | .tenantCreate rq => Sys2Proof.Machine.execTenantCreate rq s
  | .tenantRemove rq => Sys2Proof.Machine.execTenantRemove rq s
  | .clearingEnd t => Sys2Proof.Machine.execClearingEnd t s
  | .keySet rq => Sys2Proof.Machine.execKeySet rq s
  | .tenantFreeze rq => Sys2Proof.Machine.execTenantFreeze rq s
  | .tenantThaw rq => Sys2Proof.Machine.execTenantThaw rq s
  | .tenantSave rq => Sys2Proof.Machine.execTenantSave rq s
  | .tenantRestore rq => Sys2Proof.Machine.execTenantRestore rq s
  | .sjStart j => Sys2Proof.Machine.execSjStart j s
  | .sjStop j => Sys2Proof.Machine.execSjStop j s
  | .servingBoundary j => Sys2Proof.Machine.execServingBoundary j s
  | .servingPollExpiry j => Sys2Proof.Machine.execServingPollExpiry j s
  | .stepComplete j => Sys2Proof.Machine.execStepComplete j s
  | .stepResubmit j => Sys2Proof.Machine.execStepResubmit j s
  | .eventRingSpace j => Sys2Proof.Machine.execEventRingSpace j s
  | .beadMove rq => Sys2Proof.Machine.execBeadMove rq s
  | .beadMoveReceive j move => Sys2Proof.Machine.execBeadMoveReceive j move s
  | .beadMoveAck j code ack => Sys2Proof.Machine.execBeadMoveAck j code ack s
  | .beadSelWrite v => Sys2Proof.Machine.execBeadSelWrite v s
  | .radioReserveWrite v => Sys2Proof.Machine.execRadioReserveWrite v s
  | .fhFrameReceive p k frame => Sys2Proof.Machine.execFhFrameReceive p k frame s
  | .fhFrameTransmit p start => Sys2Proof.Machine.execFhFrameTransmit p start s
  | .cplaneRelease c => Sys2Proof.Machine.execCplaneRelease c s
  | .uplaneRelease c => Sys2Proof.Machine.execUplaneRelease c s
  | .txLateDrop p q => Sys2Proof.Machine.execTxLateDrop p q s
  | .fhStart p => Sys2Proof.Machine.execFhStart p s
  | .fhStop p => Sys2Proof.Machine.execFhStop p s
  | .cellStart c => Sys2Proof.Machine.execCellStart c s
  | .cellStop c => Sys2Proof.Machine.execCellStop c s
  | .cellTakeover tk => Sys2Proof.Machine.execCellTakeover tk s
  | .takeoverBoundary c => Sys2Proof.Machine.execTakeoverBoundary c s
  | .l2RequestDeadline c => Sys2Proof.Machine.execL2RequestDeadline c s
  | .slotIndication c => Sys2Proof.Machine.execSlotIndication c s
  | .crcIndication c => Sys2Proof.Machine.execCrcIndication c s
  | .rachIndication c body => Sys2Proof.Machine.execRachIndication c body s
  | .srsIndication c body => Sys2Proof.Machine.execSrsIndication c body s
  | .replicaSend c state => Sys2Proof.Machine.execReplicaSend c state s
  | .replicaReceive c buf slot => Sys2Proof.Machine.execReplicaReceive c buf slot s
  | .txEnableBoundary c => Sys2Proof.Machine.execTxEnableBoundary c s
  | .codecGrpStart g => Sys2Proof.Machine.execCodecGrpStart g s
  | .codecGrpStop g => Sys2Proof.Machine.execCodecGrpStop g s
  | .codecRingTailNotice g hard => Sys2Proof.Machine.execCodecRingTailNotice g hard s
  | .ldpcDec g hard => Sys2Proof.Machine.execLdpcDec g hard s
  | .ldpcEnc g hard => Sys2Proof.Machine.execLdpcEnc g hard s
  | .polarDec g hard => Sys2Proof.Machine.execPolarDec g hard s
  | .codecJobDone g => Sys2Proof.Machine.execCodecJobDone g s
  | .codecDeadlineSkip g hard => Sys2Proof.Machine.execCodecDeadlineSkip g hard s
  | .fskGrpStart g => Sys2Proof.Machine.execFskGrpStart g s
  | .fskGrpStop g => Sys2Proof.Machine.execFskGrpStop g s
  | .fskInterval g => Sys2Proof.Machine.execFskInterval g s
  | .fskSymbol g ch => Sys2Proof.Machine.execFskSymbol g ch s
  | .preTimeout g ch => Sys2Proof.Machine.execPreTimeout g ch s
  | .sfdTimeout g ch => Sys2Proof.Machine.execSfdTimeout g ch s
  | .fskRxRecord g ch => Sys2Proof.Machine.execFskRxRecord g ch s
  | .fskLaunch g ch => Sys2Proof.Machine.execFskLaunch g ch s
  | .fskTxEnd g ch => Sys2Proof.Machine.execFskTxEnd g ch s
  | .fskDlRelease g ch => Sys2Proof.Machine.execFskDlRelease g ch s
  | .filStart => Sys2Proof.Machine.execFilStart s
  | .filStop => Sys2Proof.Machine.execFilStop s
  | .portStart q => Sys2Proof.Machine.execPortStart q s
  | .portStop q => Sys2Proof.Machine.execPortStop q s
  | .trainRetry q => Sys2Proof.Machine.execTrainRetry q s
  | .trainStepTimeout q => Sys2Proof.Machine.execTrainStepTimeout q s
  | .fecLockLoss q => Sys2Proof.Machine.execFecLockLoss q s
  | .flitIdleTimeout q => Sys2Proof.Machine.execFlitIdleTimeout q s
  | .idle q ackLseq => Sys2Proof.Machine.execIdle q ackLseq s
  | .ident q role inc node revoked peer digest => Sys2Proof.Machine.execIdent q role inc node revoked peer digest s
  | .loopReq q tSend => Sys2Proof.Machine.execLoopReq q tSend s
  | .loopRsp q tSend => Sys2Proof.Machine.execLoopRsp q tSend s
  | .credit q req rsp coh bulk initial => Sys2Proof.Machine.execCredit q req rsp coh bulk initial s
  | .heartbeat q node inc partitioned fenced => Sys2Proof.Machine.execHeartbeat q node inc partitioned fenced s
  | .heartbeatSend => Sys2Proof.Machine.execHeartbeatSend s
  | .retry q lseq => Sys2Proof.Machine.execRetry q lseq s
  | .dataFlitReceive q crcOk lseq ackLseq vc => Sys2Proof.Machine.execDataFlitReceive q crcOk lseq ackLseq vc s
  | .read q x => Sys2Proof.Machine.execRead q x s
  | .readRsp q x => Sys2Proof.Machine.execReadRsp q x s
  | .write q x => Sys2Proof.Machine.execWrite q x s
  | .ack q x => Sys2Proof.Machine.execAck q x s
  | .nack q x => Sys2Proof.Machine.execNack q x s
  | .atomic q x => Sys2Proof.Machine.execAtomic q x s
  | .atomicRsp q x => Sys2Proof.Machine.execAtomicRsp q x s
  | .combAtomic q x entries => Sys2Proof.Machine.execCombAtomic q x entries s
  | .combAtomicRsp q x entries => Sys2Proof.Machine.execCombAtomicRsp q x entries s
  | .cohInv q x => Sys2Proof.Machine.execCohInv q x s
  | .cohInvAck q x => Sys2Proof.Machine.execCohInvAck q x s
  | .pageRead q x => Sys2Proof.Machine.execPageRead q x s
  | .pageData q x => Sys2Proof.Machine.execPageData q x s
  | .pageWrite q x => Sys2Proof.Machine.execPageWrite q x s
  | .heldRequestDrop k => Sys2Proof.Machine.execHeldRequestDrop k s
  | .resendTimeout node => Sys2Proof.Machine.execResendTimeout node s
  | .targetLostTimeout node => Sys2Proof.Machine.execTargetLostTimeout node s
  | .atomicRetry seq => Sys2Proof.Machine.execAtomicRetry seq s
  | .atomicUncertainTimeout seq => Sys2Proof.Machine.execAtomicUncertainTimeout seq s
  | .replyRecordExpiry src seq => Sys2Proof.Machine.execReplyRecordExpiry src seq s
  | .laserModuleRemove e => Sys2Proof.Machine.execLaserModuleRemove e s
  | .laserModuleFit e => Sys2Proof.Machine.execLaserModuleFit e s
  | .bulkCopy rq => Sys2Proof.Machine.execBulkCopy rq s
  | .jrnlStart => Sys2Proof.Machine.execJrnlStart s
  | .jrnlStop => Sys2Proof.Machine.execJrnlStop s
  | .journalFlush => Sys2Proof.Machine.execJournalFlush s
  | .replay k errs => Sys2Proof.Machine.execReplay k errs s
  | .verdict node inc epoch => Sys2Proof.Machine.execVerdict node inc epoch s
  | .incarnation inc => Sys2Proof.Machine.execIncarnation inc s
  | .partitionDetect answered => Sys2Proof.Machine.execPartitionDetect answered s
  | .partitionHeal inc => Sys2Proof.Machine.execPartitionHeal inc s
  | .marginCrossing monitor n value retire => Sys2Proof.Machine.execMarginCrossing monitor n value retire s
  | .maintRun rq => Sys2Proof.Machine.execMaintRun rq s
  | .arrayCheck n => Sys2Proof.Machine.execArrayCheck n s
  | .canarySweep n => Sys2Proof.Machine.execCanarySweep n s
  | .droopTest n => Sys2Proof.Machine.execDroopTest n s
  | .marginCheck n => Sys2Proof.Machine.execMarginCheck n s
  | .cpLoad n => Sys2Proof.Machine.execCpLoad n s
  | .imageCopy n c => Sys2Proof.Machine.execImageCopy n c s
  | .maintActivityEnd n result => Sys2Proof.Machine.execMaintActivityEnd n result s
  | .coreRetire rq => Sys2Proof.Machine.execCoreRetire rq s
  | .coreReturn rq => Sys2Proof.Machine.execCoreReturn rq s
  | .portRetire rq => Sys2Proof.Machine.execPortRetire rq s
  | .portReturn rq => Sys2Proof.Machine.execPortReturn rq s
  | .nvmApply rq => Sys2Proof.Machine.execNvmApply rq s
  | .powerOn d => Sys2Proof.Machine.execPowerOn d s
  | .powerOff d => Sys2Proof.Machine.execPowerOff d s
  | .powerSwitchDone => Sys2Proof.Machine.execPowerSwitchDone s
  | .aonPwrgoodRise => Sys2Proof.Machine.execAonPwrgoodRise s
  | .porAssert => Sys2Proof.Machine.execPorAssert s
  | .warmReset => Sys2Proof.Machine.execWarmReset s
  | .perst low => Sys2Proof.Machine.execPerst low s
  | .pwrGoodFall k => Sys2Proof.Machine.execPwrGoodFall k s
  | .pwrGoodTimeout k => Sys2Proof.Machine.execPwrGoodTimeout k s
  | .romBoot => Sys2Proof.Machine.execRomBoot s
  | .auth halfA halfB => Sys2Proof.Machine.execAuth halfA halfB s
  | .almanac locked => Sys2Proof.Machine.execAlmanac locked s
  | .clocks locked => Sys2Proof.Machine.execClocks locked s
  | .align ok => Sys2Proof.Machine.execAlign ok s
  | .memory trained => Sys2Proof.Machine.execMemory trained s
  | .arrays results => Sys2Proof.Machine.execArrays results s
  | .firmware digestsOk sealKey mgmtFw cpFw images => Sys2Proof.Machine.execFirmware digestsOk sealKey mgmtFw cpFw images s
  | .firmwareTimeout => Sys2Proof.Machine.execFirmwareTimeout s
  | .functions => Sys2Proof.Machine.execFunctions s
  | .cfgWrite reg value => Sys2Proof.Machine.execCfgWrite reg value s
  | .cfgBlob off data => Sys2Proof.Machine.execCfgBlob off data s
  | .cfgStart reg value status => Sys2Proof.Machine.execCfgStart reg value status s
  | .cfgWait reg mask expected timedOut => Sys2Proof.Machine.execCfgWait reg mask expected timedOut s
  | .cfgEnd sect => Sys2Proof.Machine.execCfgEnd sect s
  | .timeLock => Sys2Proof.Machine.execTimeLock s
  | .timeWaitExpiry => Sys2Proof.Machine.execTimeWaitExpiry s
  | .fabricJoin inc tRelease trim => Sys2Proof.Machine.execFabricJoin inc tRelease trim s
  | .fabricRelease => Sys2Proof.Machine.execFabricRelease s
  | .joinWaitExpiry => Sys2Proof.Machine.execJoinWaitExpiry s
  | .joinRetry => Sys2Proof.Machine.execJoinRetry s
  | .parityScrubPass upsets => Sys2Proof.Machine.execParityScrubPass upsets s
  | .registerWrite rq off size v => Sys2Proof.Machine.execRegisterWrite rq off size v s
  | .bitAliasWrite rq off v => Sys2Proof.Machine.execBitAliasWrite rq off v s
  | .smbusRegisterRead off pecOk => Sys2Proof.Machine.execSmbusRegisterRead off pecOk s
  | .smbusRegisterWrite off v pecOk => Sys2Proof.Machine.execSmbusRegisterWrite off v pecOk s
  | .mbxTake rq => Sys2Proof.Machine.execMbxTake rq s
  | .mbxRelease rq => Sys2Proof.Machine.execMbxRelease rq s
  | .mailboxOperationEnd => Sys2Proof.Machine.execMailboxOperationEnd s
  | .mgeStart => Sys2Proof.Machine.execMgeStart s
  | .mgeStop => Sys2Proof.Machine.execMgeStop s
  | .mgeFrameReceive frame => Sys2Proof.Machine.execMgeFrameReceive frame s
  | .mgeFrameTransmit => Sys2Proof.Machine.execMgeFrameTransmit s
  | .mgeLinkChange up speed fullDuplex => Sys2Proof.Machine.execMgeLinkChange up speed fullDuplex s
  | .mdioAddress v => Sys2Proof.Machine.execMdioAddress v s
  | .mdioWrite v => Sys2Proof.Machine.execMdioWrite v s
  | .mdioRead v => Sys2Proof.Machine.execMdioRead v s
  | .mdioDone data => Sys2Proof.Machine.execMdioDone data s
  | .thermWarn die sensor milliC => Sys2Proof.Machine.execThermWarn die sensor milliC s
  | .junctionOutOfRange n => Sys2Proof.Machine.execJunctionOutOfRange n s
  | .thermTrip => Sys2Proof.Machine.execThermTrip s
  | .registerRead rq off size => Sys2Proof.Machine.execRegisterRead rq off size s
  | .wavelengthLock q => Sys2Proof.Machine.execWavelengthLock q s
  | .fecLock q => Sys2Proof.Machine.execFecLock q s
  | .bangleHeartbeatMissing q => Sys2Proof.Machine.execBangleHeartbeatMissing q s
  | .hostLinkChange up => Sys2Proof.Machine.execHostLinkChange up s
  | .numvfsWrite numVfs => Sys2Proof.Machine.execNumvfsWrite numVfs s
  | .porRelease => Sys2Proof.Machine.execPorRelease s
  | .pwrGoodRise k => Sys2Proof.Machine.execPwrGoodRise k s

end Sys2Proof.Machine
end

