-- ==== Sys2Proof/WellFormed.lean ====
section
/-! DEFINITION. Well-formed commands: their operands name things that the part has. -/

namespace Sys2Proof

/-- A core's index (00_scope.md R2). -/
def coreNo (n : Nat) : Bool := decide (n < 128)

/-- One of four: a stream, a slot, a data queue, a sub-port, a virtual channel, a coded-channel group, a role, a speed. -/
def fourNo (n : Nat) : Bool := decide (n < 4)

/-- One of eight: a pulse output, a capture input, an egress queue. -/
def eightNo (n : Nat) : Bool := decide (n < 8)

/-- Quarters of a nanosecond within a tick of 2 ns (02_almanac.md R41, R56). -/
def phaseNo (q : Nat) : Bool := decide (q < 8)

/-- A fabric port (13_filigree.md R309). -/
def portNo (q : Nat) : Bool := decide (q < 24)

/-- A fronthaul port (11_nr_baseband.md R267). -/
def fhPortNo (p : Nat) : Bool := decide (p < 8)

/-- A function: 0 to 255 virtual, 256 physical (09_contexts_tenants.md R247). -/
def fnNo (f : Nat) : Bool := decide (f ≤ 256)

/-- A tenant, by its virtual function. -/
def tenantNo (t : Nat) : Bool := decide (t < 256)

/-- A serving slot (10_serving.md R252). -/
def sjNo (j : Nat) : Bool := decide (j < 64)

/-- A context (09_contexts_tenants.md R225). -/
def ctxNo (x : Nat) : Bool := decide (x < 4096)

/-- A memory stack and its channel (08_memory.md R203). -/
def channelNo (m : Nat) : Bool := decide (m < 16)

/-- A power domain (17_live_service.md R403). -/
def domainNo (d : Nat) : Bool := decide (d < 198)

/-- A fabric node (13_filigree.md R307). -/
def nodeNo (n : Nat) : Bool := decide (n < 2 ^ 17)

/-- An incarnation, 16 bits (13_filigree.md R315). -/
def incNo (n : Nat) : Bool := decide (n < 2 ^ 16)

/-- An optical engine (01_architecture.md R18). -/
def engineNo (e : Nat) : Bool := decide (e < 6)

/-- A radio cell (11_nr_baseband.md R272). -/
def cellNo (c : Nat) : Bool := decide (c < 512)

/-- An FSK group (12_fsk.md R293). -/
def fskGroupNo (g : Nat) : Bool := decide (g < 64)

/-- A channel of a group (12_fsk.md R293). -/
def fskChanNo (c : Nat) : Bool := decide (c < 64)

/-- A bead index (10_serving.md R248). -/
def beadNo (b : Nat) : Bool := decide (b < 2 ^ 20)

/-- An entry of the replay table (14_journal_recovery.md R345). -/
def replayNo (i : Nat) : Bool := decide (i < 1024)

/-- A rail group (15_vigil.md R367). -/
def railNo (i : Nat) : Bool := decide (i < 6)

/-- An arbiter's requester (08_memory.md R221). -/
def requesterNo (r : Nat) : Bool := decide (r < 32)

/-- A margin monitor and a place that it measures (17_live_service.md R406). -/
def monitorNo (m : Nat) : Bool := decide (m < 7)
def placeNo (n : Nat) : Bool := decide (n < 128)

/-- A die, and one of its sensors (19_package_electrical.md R437; three dies: 01_architecture.md R17). -/
def dieNo (d : Nat) : Bool := decide (d < 3)
def sensorNo (i : Nat) : Bool := decide (i < 16)

/-- How many virtual functions may be enabled (09_contexts_tenants.md R247). -/
def vfCount (n : Nat) : Bool := decide (n ≤ 256)

/-- The bytes of an access (18_registers_mailbox.md R408). -/
def widthOk (n : Nat) : Bool := [1, 2, 4, 8].elem n

/-- An offset in BAR0 (18_registers_mailbox.md R407). -/
def barOff (o : Nat) : Bool := decide (o < 2 ^ 27)

/-- A word of the bit aliases (18_registers_mailbox.md R414). -/
def aliasOff (o : Nat) : Bool := decide (0x4000000 ≤ o) && decide (o < 0x6000000) && o % 4 == 0

/-- A section of records (15_vigil.md R371). -/
def cfgSect (t : Nat) : Bool := decide (4 ≤ t) && decide (t ≤ 12)

/-- A requester: the four management processors by number. -/
def Requester.wf : Requester → Bool
  | .host => true
  | .mp i => decide (i < 4)
  | .smbus => true

/-- An arbiter: 64 pseudo-channels of 16 channels, 24 ports, 32 banks of 128 cores (08_memory.md R218). -/
def ArbiterId.wf : ArbiterId → Bool
  | .mem m c => decide (m < 16) && decide (c < 64)
  | .port q => portNo q
  | .bank n b => coreNo n && decide (b < 32)

/-- The fields of a transaction's header in their widths (13_filigree.md R315). -/
def Txn.wf (x : Txn) : Bool :=
  fourNo x.vc && nodeNo x.dst && nodeNo x.src && incNo x.inc && decide (x.addr < 2 ^ 47) && decide (x.atop < 16) &&
    decide (x.len ≤ 4160)

/-- The entries of a combined atomic: at most 32 (13_filigree.md R333). -/
def combWf (l : List CombEntry) : Bool := decide (l.length ≤ 32) && l.all (fun e => nodeNo e.src)

/-- A PTP message: a sub-port, a domain, a transport, a sequence number (02_almanac.md R45). -/
def headOk (m : PtpHead) : Bool := fourNo m.sub && decide (m.dom < 256) && decide (m.tr < 3) && decide (m.seq < 65536)

/-- A frame received on a fronthaul port (02_almanac.md R42). -/
def FhFrame.wf (f : FhFrame) : Bool := phaseNo f.q

/-- A code of the table (00_scope.md R7). -/
def codeNo (c : Nat) : Bool :=
  [0x00, 0x01, 0x02, 0x03, 0x04, 0x05, 0x10, 0x11, 0x12, 0x13, 0x14, 0x20, 0x21, 0x22, 0x30, 0x31, 0x32, 0x33, 0x40, 0x41,
    0x42, 0x50, 0x51].elem c

/-- A sequence move: a record of 64 bytes and pages of 4 KiB or more (10_serving.md R262). -/
def BeadMoveMsg.wf (m : BeadMoveMsg) : Bool :=
  nodeNo m.src && beadNo m.srcBead && m.record.length == 64 && m.pages.all (fun b => b.length == 65536) &&
    m.poison.all (fun p => decide (p.1 < m.pages.length) && decide (p.2 < 1024))

/-- A well-formed command. -/
def Instr.wf : Instr → Bool
  | .almanacTick => true
  | .almNsLoRead => true
  | .incrementWrite _ => true
  | .setTime _ => true
  | .stepTime _ => true
  | .synceQualifiedWrite _ => true
  | .synceLossOfSignal => true
  | .syncReceived m _ _ q => headOk m && phaseNo q
  | .delayRespReceived m _ _ => headOk m
  | .ppsEdge q => phaseNo q
  | .servoStep => true
  | .lossTimeout => true
  | .holdoverTeUpdate => true
  | .almStart => true
  | .almStop => true
  | .fhLinkChange p k _ => fhPortNo p && fourNo k
  | .pulseLeadEdge k => eightNo k
  | .pulseTrailEdge k => eightNo k
  | .pulseCtrlWrite k _ => eightNo k
  | .pulseStartWrite k _ => eightNo k
  | .captureEdge k _ q => eightNo k && phaseNo q
  | .captureRead k => eightNo k
  | .calEntryEnd _ => true
  | .gateReachCore n => coreNo n
  | .tenantBoundExpiry n stream => coreNo n && fourNo stream
  | .calArm _ => true
  | .armDone => true
  | .calDisarm => true
  | .calStart => true
  | .calStop => true
  | .bankSwap _ => true
  | .bankWrite off _ => barOff off
  | .tokenAccrue t => tenantNo t
  | .arrStart n => coreNo n
  | .arrTest n => coreNo n
  | .arrStop n => coreNo n
  | .selfTestEnd n _ _ _ => coreNo n
  | .arrayStopDone n => coreNo n
  | .lanternLevelStep n => coreNo n
  | .arithFlagsClear n c _ => coreNo n && fourNo c
  | .nop n stream => coreNo n && fourNo stream
  | .dynq n stream => coreNo n && fourNo stream
  | .boundary n stream => coreNo n && fourNo stream
  | .matmul n _ => coreNo n
  | .ewMul n => coreNo n
  | .ewFma n => coreNo n
  | .ewAdd n => coreNo n
  | .vecConvert n => coreNo n
  | .vecAdd n => coreNo n
  | .vecSub n => coreNo n
  | .vecMul n => coreNo n
  | .vecFma n => coreNo n
  | .vecMax n => coreNo n
  | .vecMin n => coreNo n
  | .scale n => coreNo n
  | .addi n => coreNo n
  | .exp n => coreNo n
  | .recip n => coreNo n
  | .rsqrt n => coreNo n
  | .tanh n => coreNo n
  | .gelu n => coreNo n
  | .rsum n => coreNo n
  | .rmax n => coreNo n
  | .rsumsq n => coreNo n
  | .argmax n => coreNo n
  | .move n _ => coreNo n
  | .bfpExpand n => coreNo n
  | .bfpCompress n => coreNo n
  | .fill n => coreNo n
  | .waitMem n => coreNo n
  | .waitMemPoll n => coreNo n
  | .fence n => coreNo n
  | .atomicAdd32 n => coreNo n
  | .atomicAdd64 n => coreNo n
  | .atomicAnd64 n => coreNo n
  | .atomicOr64 n => coreNo n
  | .atomicXor64 n => coreNo n
  | .atomicMaxu64 n => coreNo n
  | .atomicMinu64 n => coreNo n
  | .atomicSwap64 n => coreNo n
  | .atomicCas64 n => coreNo n
  | .signal n => coreNo n
  | .sigEnd n => coreNo n
  | .rep n => coreNo n
  | .sigLd n => coreNo n
  | .sigSt n => coreNo n
  | .sigAdd n => coreNo n
  | .sigSub n => coreNo n
  | .cmul n => coreNo n
  | .cmulc n => coreNo n
  | .cmac n => coreNo n
  | .accrd n => coreNo n
  | .mag2 n => coreNo n
  | .sigMax n => coreNo n
  | .seta n => coreNo n
  | .setcb n => coreNo n
  | .bnz n => coreNo n
  | .commandComplete n stream => coreNo n && fourNo stream
  | .dataqPush n q => coreNo n && fourNo q
  | .dataqFree n q => coreNo n && fourNo q
  | .heldTimeout n => coreNo n
  | .contextSwitch n => coreNo n
  | .contextResident x => ctxNo x.ctx && x.core.all coreNo
  | .dynqPush n c stream _ _ => coreNo n && fourNo c && fourNo stream
  | .dbgHalt n => coreNo n
  | .dbgResume n => coreNo n
  | .dbgStep n => coreNo n
  | .image f => fnNo f
  | .imageReload rq => rq.wf
  | .reloadBankSwitch n c => coreNo n && fourNo c
  | .stackRetire rq => rq.wf
  | .stripeMapSwitch => true
  | .stackMoveUnitCopy _ => true
  | .scrubBurst m _ _ => channelNo m
  | .arbiterGrant a => a.wf
  | .urgencyPromotion a r => a.wf && requesterNo r
  | .quotaWindowStart a => a.wf
  | .arbReqWrite r _ => requesterNo r
  | .memchStart m => channelNo m
  | .scrubRestart m => channelNo m
  | .job f => fnNo f
  | .copyIn f => fnNo f
  | .copyOut f => fnNo f
  | .release f => fnNo f
  | .jobComplete g _ _ _ => ctxNo g
  | .winCommit => true
  | .winRead => true
  | .hostStart => true
  | .hostStop => true
  | .fnStart f => fnNo f
  | .fnStop f => fnNo f
  | .functionLevelReset f => fnNo f
  | .drainTimeout f => fnNo f
  | .tenantCreate rq => rq.wf
  | .tenantRemove rq => rq.wf
  | .clearingEnd t => tenantNo t
  | .keySet rq => rq.wf
  | .tenantFreeze rq => rq.wf
  | .tenantThaw rq => rq.wf
  | .tenantSave rq => rq.wf
  | .tenantRestore rq => rq.wf
  | .sjStart j => sjNo j
  | .sjStop j => sjNo j
  | .servingBoundary j => sjNo j
  | .servingPollExpiry j => sjNo j
  | .stepComplete j => sjNo j
  | .stepResubmit j => sjNo j
  | .eventRingSpace j => sjNo j
  | .beadMove rq => rq.wf
  | .beadMoveReceive j mv => sjNo j && mv.wf
  | .beadMoveAck j code a => sjNo j && codeNo code.toNat && beadNo a.dst
  | .beadSelWrite _ => true
  | .radioReserveWrite _ => true
  | .fhFrameReceive p k frame => fhPortNo p && fourNo k && frame.wf
  | .fhFrameTransmit p x => fhPortNo p && eightNo x.queue && phaseNo x.phase
  | .cplaneRelease c => cellNo c
  | .uplaneRelease c => cellNo c
  | .txLateDrop p q => fhPortNo p && eightNo q
  | .fhStart p => fhPortNo p
  | .fhStop p => fhPortNo p
  | .cellStart c => cellNo c
  | .cellStop c => cellNo c
  | .cellTakeover x => cellNo x.cell
  | .takeoverBoundary c => cellNo c
  | .l2RequestDeadline c => cellNo c
  | .slotIndication c => cellNo c
  | .crcIndication c => cellNo c
  | .rachIndication c _ => cellNo c
  | .srsIndication c _ => cellNo c
  | .replicaSend c _ => cellNo c
  | .replicaReceive c _ _ => cellNo c
  | .txEnableBoundary c => cellNo c
  | .codecGrpStart g => fourNo g
  | .codecGrpStop g => fourNo g
  | .codecRingTailNotice g _ => fourNo g
  | .ldpcDec g _ => fourNo g
  | .ldpcEnc g _ => fourNo g
  | .polarDec g _ => fourNo g
  | .codecJobDone g => fourNo g
  | .codecDeadlineSkip g _ => fourNo g
  | .fskGrpStart g => fskGroupNo g
  | .fskGrpStop g => fskGroupNo g
  | .fskInterval g => fskGroupNo g
  | .fskSymbol g ch => fskGroupNo g && fskChanNo ch
  | .preTimeout g ch => fskGroupNo g && fskChanNo ch
  | .sfdTimeout g ch => fskGroupNo g && fskChanNo ch
  | .fskRxRecord g ch => fskGroupNo g && fskChanNo ch
  | .fskLaunch g ch => fskGroupNo g && fskChanNo ch
  | .fskTxEnd g ch => fskGroupNo g && fskChanNo ch
  | .fskDlRelease g ch => fskGroupNo g && fskChanNo ch
  | .filStart => true
  | .filStop => true
  | .portStart q => portNo q
  | .portStop q => portNo q
  | .trainRetry q => portNo q
  | .trainStepTimeout q => portNo q
  | .fecLockLoss q => portNo q
  | .flitIdleTimeout q => portNo q
  | .idle q _ => portNo q
  | .ident q role inc node _ peer _ => portNo q && fourNo role && incNo inc && nodeNo node && nodeNo peer
  | .loopReq q _ => portNo q
  | .loopRsp q _ => portNo q
  | .credit q _ _ _ _ _ => portNo q
  | .heartbeat q node inc _ _ => portNo q && nodeNo node && incNo inc
  | .heartbeatSend => true
  | .retry q _ => portNo q
  | .dataFlitReceive q _ _ _ vc => portNo q && fourNo vc
  | .read q x => portNo q && x.wf
  | .readRsp q x => portNo q && x.wf
  | .write q x => portNo q && x.wf
  | .ack q x => portNo q && x.wf
  | .nack q x => portNo q && x.wf
  | .atomic q x => portNo q && x.wf
  | .atomicRsp q x => portNo q && x.wf
  | .combAtomic q x entries => portNo q && x.wf && combWf entries
  | .combAtomicRsp q x entries => portNo q && x.wf && combWf entries
  | .cohInv q x => portNo q && x.wf
  | .cohInvAck q x => portNo q && x.wf
  | .pageRead q x => portNo q && x.wf
  | .pageData q x => portNo q && x.wf
  | .pageWrite q x => portNo q && x.wf
  | .heldRequestDrop _ => true
  | .resendTimeout node => nodeNo node
  | .targetLostTimeout node => nodeNo node
  | .atomicRetry _ => true
  | .atomicUncertainTimeout _ => true
  | .replyRecordExpiry src _ => nodeNo src
  | .laserModuleRemove e => engineNo e
  | .laserModuleFit e => engineNo e
  | .bulkCopy rq => rq.wf
  | .jrnlStart => true
  | .jrnlStop => true
  | .journalFlush => true
  | .replay i _ => replayNo i
  | .verdict node inc _ => nodeNo node && incNo inc
  | .incarnation inc => incNo inc
  | .partitionDetect answered => answered.all nodeNo
  | .partitionHeal inc => incNo inc
  | .marginCrossing monitor n _ _ => monitorNo monitor && placeNo n
  | .maintRun rq => rq.wf
  | .arrayCheck n => coreNo n
  | .canarySweep n => coreNo n
  | .droopTest n => coreNo n
  | .marginCheck n => coreNo n
  | .cpLoad n => coreNo n
  | .imageCopy n c => coreNo n && fourNo c
  | .maintActivityEnd n _ => coreNo n
  | .coreRetire rq => rq.wf
  | .coreReturn rq => rq.wf
  | .portRetire rq => rq.wf
  | .portReturn rq => rq.wf
  | .nvmApply rq => rq.wf
  | .powerOn d => domainNo d
  | .powerOff d => domainNo d
  | .powerSwitchDone => true
  | .aonPwrgoodRise => true
  | .porAssert => true
  | .warmReset => true
  | .perst _ => true
  | .pwrGoodFall i => railNo i
  | .pwrGoodTimeout i => railNo i
  | .romBoot => true
  | .auth _ _ => true
  | .almanac _ => true
  | .clocks _ => true
  | .align _ => true
  | .memory _ => true
  | .arrays results => decide (results.length ≤ 128)
  | .firmware _ _ _ _ _ => true
  | .firmwareTimeout => true
  | .functions => true
  | .cfgWrite reg _ => barOff reg
  | .cfgBlob _ _ => true
  | .cfgStart reg _ status => barOff reg && barOff status
  | .cfgWait reg _ _ _ => barOff reg
  | .cfgEnd sect => cfgSect sect
  | .timeLock => true
  | .timeWaitExpiry => true
  | .fabricJoin inc _ _ => incNo inc
  | .fabricRelease => true
  | .joinWaitExpiry => true
  | .joinRetry => true
  | .parityScrubPass upsets => upsets.all (fun u => barOff u.off)
  | .registerWrite rq off size _ => rq.wf && barOff off && widthOk size
  | .bitAliasWrite rq off _ => rq.wf && aliasOff off
  | .smbusRegisterRead off _ => barOff off
  | .smbusRegisterWrite off _ _ => barOff off
  | .mbxTake rq => rq.wf
  | .mbxRelease rq => rq.wf
  | .mailboxOperationEnd => true
  | .mgeStart => true
  | .mgeStop => true
  | .mgeFrameReceive _ => true
  | .mgeFrameTransmit => true
  | .mgeLinkChange _ speed _ => fourNo speed
  | .mdioAddress _ => true
  | .mdioWrite _ => true
  | .mdioRead _ => true
  | .mdioDone _ => true
  | .thermWarn die sensor _ => dieNo die && sensorNo sensor
  | .junctionOutOfRange n => coreNo n
  | .thermTrip => true
  | .registerRead rq off size => rq.wf && barOff off && widthOk size
  | .wavelengthLock q => portNo q
  | .fecLock q => portNo q
  | .bangleHeartbeatMissing q => portNo q
  | .hostLinkChange _ => true
  | .numvfsWrite numVfs => vfCount numVfs
  | .porRelease => true
  | .pwrGoodRise i => railNo i

end Sys2Proof
end

