-- ==== Sys2Proof/Safety.lean ====
section
/-! DEFINITION. What claims are stated in: the canonical form of the sparse stores, and outcomes. -/

namespace Sys2Proof.Machine

/-- The canonical form of the memories: keys strictly rising, no byte listed that is 0, no granule listed that is clean (log
10). -/
def Mems.wf (m : Mems) : Bool :=
  mapWf byte0 m.dev && mapWf byte0 m.core && mapWf byte0 m.sig && mapWf byte0 m.cluster && mapWf byte0 m.cmd &&
    mapWf byte0 m.host && mapWf clean0 m.pDev && mapWf clean0 m.pCore && mapWf clean0 m.pSig && mapWf clean0 m.pCluster

/-- The canonical form of registers and memories: equal contents are equal data. -/
def State.wf (s : State) : Bool := mapWf resetWord s.regs && s.mems.wf

/-- The parts of the state: its fields, by their names. -/
inductive Part where
  | pending
  | freeIdx
  | regs
  | behaveReset
  | rdata
  | clk
  | servo
  | pulses
  | capt
  | cal
  | mems
  | cores
  | clTok
  | ctxs
  | groups
  | serial
  | fns
  | wins
  | winPend
  | sealKey
  | images
  | msix
  | upset
  | cells
  | fsk
  | codecs
  | fhq
  | sjs
  | beadUse
  | beadStamp
  | sent
  | uids
  | fab
  | jr
  | mbx
  | arbs
  | move
  | scrub
  | operatorKey
  | vig
  | pwrSw
  | scrubMs
  | latches
  | smbOp
  | cpFw
  | fwResults
  | fuses
deriving DecidableEq, Repr

/-- Two states agree on a part. -/
def Part.same (p : Part) (s t : State) : Prop :=
  match p with
  | .pending => t.pending = s.pending
  | .freeIdx => t.freeIdx = s.freeIdx
  | .regs => t.regs = s.regs
  | .behaveReset => t.behaveReset = s.behaveReset
  | .rdata => t.rdata = s.rdata
  | .clk => t.clk = s.clk
  | .servo => t.servo = s.servo
  | .pulses => t.pulses = s.pulses
  | .capt => t.capt = s.capt
  | .cal => t.cal = s.cal
  | .mems => t.mems = s.mems
  | .cores => t.cores = s.cores
  | .clTok => t.clTok = s.clTok
  | .ctxs => t.ctxs = s.ctxs
  | .groups => t.groups = s.groups
  | .serial => t.serial = s.serial
  | .fns => t.fns = s.fns
  | .wins => t.wins = s.wins
  | .winPend => t.winPend = s.winPend
  | .sealKey => t.sealKey = s.sealKey
  | .images => t.images = s.images
  | .msix => t.msix = s.msix
  | .upset => t.upset = s.upset
  | .cells => t.cells = s.cells
  | .fsk => t.fsk = s.fsk
  | .codecs => t.codecs = s.codecs
  | .fhq => t.fhq = s.fhq
  | .sjs => t.sjs = s.sjs
  | .beadUse => t.beadUse = s.beadUse
  | .beadStamp => t.beadStamp = s.beadStamp
  | .sent => t.sent = s.sent
  | .uids => t.uids = s.uids
  | .fab => t.fab = s.fab
  | .jr => t.jr = s.jr
  | .mbx => t.mbx = s.mbx
  | .arbs => t.arbs = s.arbs
  | .move => t.move = s.move
  | .scrub => t.scrub = s.scrub
  | .operatorKey => t.operatorKey = s.operatorKey
  | .vig => t.vig = s.vig
  | .pwrSw => t.pwrSw = s.pwrSw
  | .scrubMs => t.scrubMs = s.scrubMs
  | .latches => t.latches = s.latches
  | .smbOp => t.smbOp = s.smbOp
  | .cpFw => t.cpFw = s.cpFw
  | .fwResults => t.fwResults = s.fwResults
  | .fuses => t.fuses = s.fuses

/-- Two states agree on every part but the listed ones. -/
def sameBut (l : List Part) (s t : State) : Prop := ∀ p : Part, p ∉ l → p.same s t

/-- Every part. -/
def Part.every : List Part :=
  [.pending, .freeIdx, .regs, .behaveReset, .rdata, .clk, .servo, .pulses, .capt, .cal, .mems, .cores, .clTok, .ctxs, .groups,
   .serial, .fns, .wins, .winPend, .sealKey, .images, .msix, .upset, .cells, .fsk, .codecs, .fhq, .sjs, .beadUse,
   .beadStamp, .sent, .uids, .fab, .jr, .mbx, .arbs, .move, .scrub, .operatorKey, .vig, .pwrSw, .scrubMs, .latches, .smbOp,
   .cpFw, .fwResults, .fuses]

/-- Every part but the listed ones. -/
def Part.allBut (l : List Part) : List Part := Part.every.filter (fun p => !l.elem p)

/-- The parts of the state that a command may change; it leaves every other part as it is (the frame of each command). -/
def touches : Instr → List Part
  | .almanacTick | .servoStep => [.regs, .clk, .servo, .pulses, .cal]
  | .almNsLoRead => [.regs, .rdata]
  | .incrementWrite _ => [.regs, .behaveReset, .clk, .upset]
  | .setTime _ | .stepTime _ => [.regs, .clk]
  | .synceQualifiedWrite _ => [.regs, .behaveReset, .servo, .upset]
  | .synceLossOfSignal => [.servo]
  | .syncReceived _ _ _ _ | .ppsEdge _ | .lossTimeout | .holdoverTeUpdate | .almStart | .almStop
  | .fhLinkChange _ _ _ | .fhStart _ => [.freeIdx, .regs, .clk, .servo, .mems, .cells, .fsk, .arbs]
  | .delayRespReceived _ _ _ => [.regs, .servo]
  | .pulseLeadEdge _ | .pulseTrailEdge _ => [.pulses]
  | .pulseCtrlWrite _ _ | .pulseStartWrite _ _ => [.regs, .behaveReset, .pulses, .upset]
  | .captureEdge _ _ _ => [.regs, .capt]
  | .captureRead _ => [.regs, .rdata, .capt]
  | .calEntryEnd _ | .calStop | .winCommit => [.regs, .cal, .cores, .ctxs, .wins, .winPend]
  | .gateReachCore _ => [.regs, .cal, .mems, .cores, .ctxs, .groups, .fns, .msix, .cells, .jr, .mbx, .arbs]
  | .tenantBoundExpiry _ _ | .rep _ | .seta _ | .setcb _ | .bnz _ | .heldTimeout _ | .contextResident _
  | .dynqPush _ _ _ _ _ => [.regs, .mems, .cores, .ctxs, .groups, .fns, .msix, .jr, .mbx, .arbs]
  | .calArm _ | .armDone | .calDisarm | .calStart | .tokenAccrue _ => [.regs, .cal]
  | .bankSwap _ => [.regs, .cal, .cores, .ctxs, .wins, .winPend, .cells]
  | .bankWrite _ _ | .arbReqWrite _ _ | .winRead | .radioReserveWrite _ | .mbxTake _ | .mbxRelease _ =>
    [.regs, .behaveReset, .upset]
  | .arrStart _ | .arrTest _ | .arrStop _ | .selfTestEnd _ _ _ _ | .arrayStopDone _ | .dbgHalt _ | .dbgResume _
  | .dbgStep _ | .arrayCheck _ | .canarySweep _ | .droopTest _ | .marginCheck _ | .cpLoad _ | .junctionOutOfRange _ =>
    [.regs, .cores]
  | .lanternLevelStep _ | .waitMemPoll _ | .sigEnd _ | .dataqPush _ _ | .dataqFree _ _ | .readRsp _ _ | .cohInvAck _ _
  | .pageData _ _ | .incarnation _ | .partitionHeal _ =>
    [.freeIdx, .regs, .mems, .cores, .ctxs, .groups, .fns, .wins, .msix, .sent, .fab, .jr, .mbx, .arbs]
  | .arithFlagsClear _ _ _ => [.ctxs]
  | .nop _ _ | .dynq _ _ | .boundary _ _ | .ewMul _ | .ewFma _ | .ewAdd _ | .vecConvert _ | .vecAdd _ | .vecSub _
  | .vecMul _ | .vecFma _ | .vecMax _ | .vecMin _ | .scale _ | .addi _ | .exp _ | .recip _ | .rsqrt _ | .tanh _
  | .gelu _ | .rsum _ | .rmax _ | .rsumsq _ | .argmax _ | .bfpExpand _ | .bfpCompress _ | .fill _ | .waitMem _
  | .fence _ | .atomicAdd32 _ | .atomicAdd64 _ | .atomicAnd64 _ | .atomicOr64 _ | .atomicXor64 _ | .atomicMaxu64 _
  | .atomicMinu64 _ | .atomicSwap64 _ | .atomicCas64 _ | .signal _ =>
    [.freeIdx, .regs, .mems, .cores, .clTok, .ctxs, .groups, .fns, .wins, .msix, .sent, .uids, .fab, .jr, .mbx, .arbs]
  | .matmul _ _ | .move _ _ =>
    [.freeIdx, .regs, .mems, .cores, .clTok, .ctxs, .groups, .fns, .wins, .msix, .cells, .fhq, .sjs, .beadUse, .sent, .uids,
       .fab, .jr, .mbx, .arbs]
  | .sigLd _ | .sigSt _ | .sigAdd _ | .sigSub _ | .cmul _ | .cmulc _ | .cmac _ | .accrd _ | .mag2 _ | .sigMax _ =>
    [.freeIdx, .regs, .mems, .cores, .ctxs, .groups, .fns, .msix, .jr, .mbx, .arbs]
  | .commandComplete _ _ =>
    [.freeIdx, .regs, .mems, .cores, .clTok, .ctxs, .groups, .fns, .wins, .msix, .sent, .fab, .jr, .mbx, .arbs]
  | .contextSwitch _ => [.regs, .mems, .cores, .ctxs]
  | .image _ => [.regs, .mems, .ctxs, .groups, .serial, .fns, .images, .msix, .sent]
  | .imageReload _ | .maintRun _ | .coreReturn _ => [.regs, .cores, .mbx, .smbOp]
  | .reloadBankSwitch _ _ => [.cores, .ctxs]
  | .stackRetire _ | .tenantCreate _ | .portReturn _ => [.regs, .mbx, .smbOp]
  | .stripeMapSwitch => [.regs, .move]
  | .stackMoveUnitCopy _ => [.regs, .mems, .jr, .arbs, .move]
  | .scrubBurst _ _ _ => [.regs, .mems, .arbs, .scrub]
  | .arbiterGrant _ | .urgencyPromotion _ _ => [.regs, .arbs]
  | .quotaWindowStart _ => [.regs, .arbs, .move]
  | .memchStart _ | .hostStart | .hostStop | .fnStart _ | .fnStop _ | .sjStart _ | .jrnlStart | .jrnlStop | .mgeStart
  | .mgeStop | .mgeLinkChange _ _ _ | .mdioDone _ | .hostLinkChange _ | .numvfsWrite _ => [.regs]
  | .scrubRestart _ => [.regs, .scrub]
  | .job _ => [.regs, .mems, .ctxs, .groups, .fns, .msix, .sent]
  | .copyIn _ => [.regs, .mems, .fns, .msix, .sent, .fab, .arbs]
  | .copyOut _ => [.regs, .mems, .fns, .msix, .sent, .arbs]
  | .release _ => [.regs, .mems, .cores, .ctxs, .groups, .fns, .images, .msix, .sent, .jr, .arbs]
  | .jobComplete _ _ _ _ => [.regs, .mems, .cores, .ctxs, .groups, .fns, .msix, .sjs, .sent]
  | .functionLevelReset _ | .drainTimeout _ =>
    [.regs, .behaveReset, .mems, .cores, .ctxs, .groups, .fns, .wins, .winPend, .images, .upset, .sjs, .jr, .mbx, .arbs]
  | .tenantRemove _ =>
    [.regs, .behaveReset, .mems, .cores, .ctxs, .groups, .fns, .wins, .winPend, .images, .upset, .sjs, .jr, .mbx, .arbs,
       .smbOp]
  | .clearingEnd _ => [.regs, .mems, .fns]
  | .keySet _ => [.regs, .mems, .fns, .mbx, .smbOp]
  | .tenantFreeze _ => [.regs, .cores, .ctxs, .fns, .mbx, .smbOp]
  | .tenantThaw _ => [.regs, .ctxs, .fns, .mbx, .smbOp]
  | .tenantSave _ => [.regs, .mems, .beadUse, .sent, .fab, .mbx, .arbs, .smbOp]
  | .tenantRestore _ => [.regs, .mems, .ctxs, .groups, .serial, .images, .sjs, .mbx, .smbOp]
  | .sjStop _ => [.regs, .sjs]
  | .servingBoundary _ | .servingPollExpiry _ =>
    [.freeIdx, .regs, .mems, .ctxs, .groups, .msix, .sjs, .beadUse, .beadStamp, .sent, .fab, .mbx, .arbs]
  | .stepComplete _ => [.regs, .mems, .sjs, .beadUse, .arbs]
  | .stepResubmit _ => [.regs, .ctxs, .groups, .sjs]
  | .eventRingSpace _ | .beadMoveReceive _ _ => [.regs, .mems, .msix, .sjs, .sent, .fab, .arbs]
  | .beadMove _ => [.regs, .sjs, .beadUse, .mbx, .arbs, .smbOp]
  | .beadMoveAck _ _ _ => [.regs, .mems, .msix, .sjs, .beadUse, .sent, .fab, .mbx, .arbs]
  | .beadSelWrite _ => [.regs, .behaveReset, .mems, .upset, .cells, .fsk, .beadUse, .sent, .fab, .jr, .arbs]
  | .fhFrameReceive _ _ _ => [.regs, .mems, .cells, .fsk, .fhq, .sent, .fab, .arbs]
  | .fhFrameTransmit _ _ => [.regs, .servo, .cells, .fhq, .sent]
  | .cplaneRelease _ | .uplaneRelease _ | .l2RequestDeadline _ | .slotIndication _ | .crcIndication _ =>
    [.freeIdx, .regs, .mems, .cells, .fhq, .beadUse, .arbs]
  | .txLateDrop _ _ => [.regs, .fhq]
  | .fhStop _ => [.freeIdx, .regs, .clk, .servo, .mems, .cells, .fsk, .fhq, .arbs]
  | .cellStart _ => [.freeIdx, .regs, .mems, .cells, .fhq, .beadUse, .beadStamp, .arbs]
  | .cellStop _ | .rachIndication _ _ | .srsIndication _ _ | .txEnableBoundary _ =>
    [.regs, .mems, .cells, .fhq, .beadUse, .arbs]
  | .cellTakeover _ => [.cells, .sent]
  | .takeoverBoundary _ => [.freeIdx, .regs, .mems, .cells, .beadStamp, .jr, .arbs]
  | .replicaSend _ _ => [.regs, .mems, .cells, .fhq, .beadUse, .sent, .fab, .arbs]
  | .replicaReceive _ _ _ => [.regs, .cells]
  | .codecGrpStart _ | .codecGrpStop _ => [.regs, .codecs]
  | .codecRingTailNotice _ _ => [.codecs]
  | .ldpcDec _ _ | .ldpcEnc _ _ | .polarDec _ _ | .codecJobDone _ => [.regs, .mems, .codecs, .sent, .fab, .arbs]
  | .codecDeadlineSkip _ _ | .read _ _ | .write _ _ | .atomic _ _ | .combAtomic _ _ _ | .pageRead _ _ | .pageWrite _ _
  | .mgeFrameReceive _ => [.regs, .mems, .sent, .fab, .arbs]
  | .fskGrpStart _ => [.regs, .mems, .fsk, .beadStamp, .arbs]
  | .fskGrpStop _ | .fskInterval _ | .fskSymbol _ _ | .fskTxEnd _ _ => [.regs, .mems, .fsk, .beadUse, .arbs]
  | .preTimeout _ _ | .sfdTimeout _ _ | .fskLaunch _ _ => [.fsk]
  | .fskRxRecord _ _ => [.regs, .mems, .fsk, .arbs]
  | .fskDlRelease _ _ => [.fsk, .fhq]
  | .filStart | .loopRsp _ _ | .heartbeatSend => [.regs, .sent, .fab]
  | .filStop => [.regs, .mems, .cores, .ctxs, .groups, .fns, .msix, .sjs, .fab, .jr, .mbx, .arbs]
  | .portStart _ | .trainRetry _ | .laserModuleFit _ => [.regs, .fab]
  | .portStop _ | .fecLockLoss _ | .flitIdleTimeout _ | .credit _ _ _ _ _ _ | .retry _ _ | .resendTimeout _
  | .laserModuleRemove _ => [.regs, .mems, .sent, .fab, .jr, .arbs]
  | .trainStepTimeout _ => [.freeIdx, .regs, .fab]
  | .idle _ _ | .dataFlitReceive _ _ _ _ _ | .cohInv _ _ | .atomicRetry _ => [.regs, .sent, .fab, .arbs]
  | .ident _ _ _ _ _ _ _ | .targetLostTimeout _ =>
    [.regs, .behaveReset, .mems, .cores, .ctxs, .groups, .fns, .wins, .winPend, .images, .msix, .upset, .sjs, .beadUse,
       .sent, .fab, .jr, .mbx, .arbs]
  | .loopReq _ _ | .fecLock _ | .bangleHeartbeatMissing _ => [.sent, .fab]
  | .heartbeat _ _ _ _ _ | .heldRequestDrop _ | .replyRecordExpiry _ _ | .wavelengthLock _ => [.fab]
  | .ack _ _ | .atomicRsp _ _ | .combAtomicRsp _ _ _ =>
    [.freeIdx, .regs, .behaveReset, .mems, .cores, .ctxs, .groups, .fns, .wins, .winPend, .images, .msix, .upset, .sjs,
       .sent, .fab, .jr, .mbx, .arbs]
  | .nack _ _ =>
    [.freeIdx, .regs, .behaveReset, .mems, .cores, .ctxs, .groups, .fns, .wins, .winPend, .images, .msix, .upset, .sjs,
       .beadUse, .sent, .fab, .jr, .mbx, .arbs]
  | .atomicUncertainTimeout _ => [.regs, .mems, .cores, .ctxs, .groups, .fns, .msix, .sent, .fab, .jr, .mbx, .arbs]
  | .bulkCopy _ => [.freeIdx, .regs, .mems, .sent, .fab, .jr, .mbx, .arbs, .smbOp]
  | .journalFlush | .marginCrossing _ _ _ _ => [.regs, .mems, .jr, .arbs]
  | .replay _ _ =>
    [.freeIdx, .regs, .mems, .cores, .ctxs, .groups, .fns, .wins, .msix, .cells, .fhq, .sjs, .beadUse, .sent, .fab, .jr,
       .mbx, .arbs]
  | .verdict _ _ _ =>
    [.freeIdx, .regs, .behaveReset, .mems, .cores, .ctxs, .groups, .fns, .wins, .winPend, .images, .msix, .upset, .cells,
       .sjs, .beadUse, .sent, .fab, .jr, .mbx, .arbs]
  | .partitionDetect _ => [.freeIdx, .regs, .mems, .cores, .ctxs, .groups, .fns, .msix, .sjs, .jr, .mbx, .arbs]
  | .imageCopy _ _ => [.freeIdx, .regs, .mems, .cores, .mbx]
  | .maintActivityEnd _ _ => [.freeIdx, .regs, .mems, .cores, .ctxs, .fns, .jr, .mbx, .arbs]
  | .coreRetire _ => [.regs, .mems, .cores, .ctxs, .fns, .jr, .mbx, .arbs, .smbOp]
  | .portRetire _ => [.freeIdx, .regs, .clk, .servo, .mems, .cells, .fsk, .fhq, .sent, .fab, .jr, .mbx, .arbs, .smbOp]
  | .nvmApply _ =>
    [.regs, .behaveReset, .mems, .cores, .ctxs, .groups, .serial, .images, .upset, .sent, .fab, .mbx, .arbs, .vig, .smbOp,
       .cpFw, .fwResults]
  | .powerOn _ | .powerOff _ => [.regs, .mems, .cores, .clTok, .pwrSw]
  | .powerSwitchDone => [.regs, .pwrSw]
  | .aonPwrgoodRise | .porAssert | .warmReset | .pwrGoodFall _ | .pwrGoodTimeout _ | .thermWarn _ _ _ | .thermTrip
  | .porRelease => Part.allBut [.pending, .freeIdx, .rdata, .msix, .sent, .fuses]
  | .perst _ | .timeWaitExpiry => [.regs, .vig]
  | .romBoot | .clocks _ | .align _ | .timeLock => [.freeIdx, .regs, .vig]
  | .auth _ _ | .firmwareTimeout | .functions | .cfgWait _ _ _ _ | .cfgEnd _ =>
    Part.allBut [.pending, .rdata, .msix, .sent, .fuses]
  | .almanac _ => [.freeIdx, .regs, .clk, .vig]
  | .memory _ => [.freeIdx, .regs, .move, .vig]
  | .arrays _ => [.freeIdx, .regs, .cores, .vig]
  | .firmware _ _ _ _ _ | .cfgBlob _ _ => Part.allBut [.pending, .rdata, .msix, .fuses]
  | .cfgWrite _ _ | .cfgStart _ _ _ => Part.allBut [.pending, .rdata, .fuses]
  | .fabricJoin _ _ _ => [.regs, .sent, .fab, .vig]
  | .fabricRelease =>
    [.freeIdx, .regs, .mems, .cores, .ctxs, .groups, .fns, .wins, .msix, .sent, .fab, .jr, .mbx, .arbs, .vig]
  | .joinWaitExpiry => [.regs, .sent, .vig]
  | .joinRetry => [.sent, .vig]
  | .parityScrubPass _ =>
    [.freeIdx, .regs, .behaveReset, .clk, .servo, .pulses, .cal, .mems, .cores, .ctxs, .groups, .fns, .wins, .winPend,
       .images, .msix, .upset, .cells, .fsk, .fhq, .sjs, .sent, .fab, .jr, .mbx, .arbs, .scrubMs]
  | .registerWrite _ _ _ _ | .bitAliasWrite _ _ _ | .smbusRegisterWrite _ _ _ =>
    Part.allBut [.pending, .rdata, .capt, .sealKey, .uids, .move, .operatorKey, .scrubMs, .latches, .fuses]
  | .smbusRegisterRead _ _ | .registerRead _ _ _ => [.freeIdx, .regs, .rdata, .capt, .latches]
  | .mailboxOperationEnd => [.regs, .msix, .sent, .mbx]
  | .mgeFrameTransmit => [.regs, .sent, .arbs]
  | .mdioAddress _ | .mdioWrite _ | .mdioRead _ => [.regs, .behaveReset, .upset, .sent]
  | .pwrGoodRise _ => [.vig]

/-- The state that a command leaves, where it leaves one. -/
def stateAfter (o : Host.Outcome State Fault Refusal) : Option State :=
  match o with
  | .next t => some t
  | _ => none

/-- The command acts: the block goes on in a state with a property. -/
def Acts (i : Instr) (s : State) (p : State → Prop) : Prop := ∃ t, exec i s = .next t ∧ p t

/-- No register stands with a parity mismatch, and none behaves as its reset value (18_registers_mailbox.md R412). -/
abbrev State.sound (s : State) : Prop := s.behaveReset = [] ∧ s.upset = []

/-- Every register reads as before but those at the listed offsets. -/
def regsBut (l : List Nat) (s t : State) : Prop := ∀ o : Nat, o ∉ l → rdReg t o = rdReg s o

/-- The core, the stream and the kind of command that a row of the stream commands issues: opcode, and EW, VOP, AOP or 16 +
ATOP (06_core_streams.md R143, R154, R156, R159). -/
def issueOf : Instr → Option (Nat × Nat × Nat × Nat)
  | .nop n st => some (n, st, 0x00, 0)
  | .dynq n st => some (n, st, 0x01, 0)
  | .boundary n st => some (n, st, 0x02, 0)
  | .matmul n [] => some (n, 1, 0x10, 0)
  | .ewMul n => some (n, 1, 0x10, 1)
  | .ewFma n => some (n, 1, 0x10, 2)
  | .ewAdd n => some (n, 1, 0x10, 3)
  | .vecConvert n => some (n, 2, 0x20, 0x00)
  | .vecAdd n => some (n, 2, 0x20, 0x01)
  | .vecSub n => some (n, 2, 0x20, 0x02)
  | .vecMul n => some (n, 2, 0x20, 0x03)
  | .vecFma n => some (n, 2, 0x20, 0x04)
  | .vecMax n => some (n, 2, 0x20, 0x05)
  | .vecMin n => some (n, 2, 0x20, 0x06)
  | .scale n => some (n, 2, 0x20, 0x07)
  | .addi n => some (n, 2, 0x20, 0x08)
  | .exp n => some (n, 2, 0x20, 0x10)
  | .recip n => some (n, 2, 0x20, 0x11)
  | .rsqrt n => some (n, 2, 0x20, 0x12)
  | .tanh n => some (n, 2, 0x20, 0x13)
  | .gelu n => some (n, 2, 0x20, 0x14)
  | .rsum n => some (n, 2, 0x20, 0x20)
  | .rmax n => some (n, 2, 0x20, 0x21)
  | .rsumsq n => some (n, 2, 0x20, 0x22)
  | .argmax n => some (n, 2, 0x20, 0x23)
  | .move n [] => some (n, 0, 0x30, 0)
  | .bfpExpand n => some (n, 0, 0x30, 1)
  | .bfpCompress n => some (n, 0, 0x30, 2)
  | .fill n => some (n, 0, 0x30, 3)
  | .waitMem n => some (n, 0, 0x30, 4)
  | .fence n => some (n, 0, 0x30, 6)
  | .atomicAdd32 n => some (n, 0, 0x30, 16)
  | .atomicAdd64 n => some (n, 0, 0x30, 17)
  | .atomicAnd64 n => some (n, 0, 0x30, 18)
  | .atomicOr64 n => some (n, 0, 0x30, 19)
  | .atomicXor64 n => some (n, 0, 0x30, 20)
  | .atomicMaxu64 n => some (n, 0, 0x30, 21)
  | .atomicMinu64 n => some (n, 0, 0x30, 22)
  | .atomicSwap64 n => some (n, 0, 0x30, 23)
  | .atomicCas64 n => some (n, 0, 0x30, 24)
  | .signal n => some (n, 3, 0x40, 0)
  | _ => none

/-- The head h of a stream of slot c, the running context of core n, may issue now: the engine has room, the wait is satisfied,
the gate of the class is open, no resident of higher order and no peer is waited for, and no break stands before it
(06_core_streams.md R138, R144, R152, R153, R170; 04_matrix_array.md R107; 07_hallmark.md R186, R189;
09_contexts_tenants.md R228). -/
def mayIssue (s : State) (n st c : Nat) (h : Head) : Bool :=
  let k := coreAt s n
  let z := k.slot c
  let y := ctxAt s z.ctx
  k.run == some c && mayRun s n c && k.grp.isNone && k.stall.isNone &&
  decide ((k.fly.filter (fun f => f.slot == c && f.stream == st)).length < roomOf st) &&
  mayStart s n y h.idx && !outranked s n c && !headBad y st h && allotted y h.cmd && tokenMet s n y h.cmd &&
  peersReady s n c h.idx && !earlierWaiter s n st h.cmd &&
  (!tenantWait y h.cmd || (match (y.live.stream st).word with | some w => decide ((accOf h.cmd).imm ≤ w) | none => false)) &&
  (z.resumed == some st || z.stepOn == some st || (groupBreak s n c st h).isNone) &&
  (cmdOp h.cmd != Opc.matrix || arrState s n == Fn.running)

/-- A command in flight, whatever it waits for at the Lantern. -/
def Inflight.sansLevel (f : Inflight) : Inflight := { f with waitLevel := false }

/-- The commands whose waits a head's issue consumes: its own and those of the other members of its link group
(07_hallmark.md R186). -/
def waitsOf (s : State) (n c : Nat) (h : Head) : List (BitVec 256) :=
  let z := (coreAt s n).slot c
  h.cmd :: (peersOf (ctxAt s z.ctx).img h.idx).map (fetchCmd s n z)

/-- A counter of t tokens after the CONSUME waits of commands on it (06_core_streams.md R152). -/
def afterWaits (cluster : Bool) (i : Nat) (l : List (BitVec 256)) (t : Nat) : Nat :=
  l.foldl (fun t d =>
    if cmdWaitCluster d = cluster ∧ cmdPeek d = false ∧ cmdWaitIdx d = i then t - cmdWaitN d else t) t

/-- The rows of the signal engine's data instructions: the core and the OP that the row names (06_core_streams.md R164). -/
def sigDataOf : Instr → Option (Nat × Nat)
  | .sigLd n => some (n, 0x02)
  | .sigSt n => some (n, 0x03)
  | .sigAdd n => some (n, 0x04)
  | .sigSub n => some (n, 0x05)
  | .cmul n => some (n, 0x06)
  | .cmulc n => some (n, 0x07)
  | .cmac n => some (n, 0x08)
  | .accrd n => some (n, 0x09)
  | .mag2 n => some (n, 0x0A)
  | .sigMax n => some (n, 0x0B)
  | _ => none

/-- The kernel of the SIGNAL command f of core n stands at instruction i at place pc, within the signal section, with no REP
before it, no abort waits, and the held time is counted up to now (06_core_streams.md R163, R164, R166). -/
def sigHere (s : State) (n : Nat) (f : Inflight) (pc : Nat) (i : BitVec 64) : Prop :=
  (sigAt s n).pc = some pc ∧ sigFly s n = some f ∧ (sigAt s n).rep = 0 ∧ (sigAt s n).late = false ∧ accumHeld s n = s ∧
  pc < (ctxAt s ((coreAt s n).slot f.slot).ctx).img.kern ∧
  i = fetchKern s n ((coreAt s n).slot f.slot) (ctxAt s ((coreAt s n).slot f.slot).ctx).img pc

/-- No command in flight on core n has a unit left to run. -/
def unitsDone (s : State) (n : Nat) : Prop := ∀ f ∈ (coreAt s n).fly, f.units ≤ f.unit

/-- Context x is RUNNING on core n and nothing asks it to leave: its function is not being frozen, its group's job has not
failed, the core is in the allotment and stays in service (09_contexts_tenants.md R233, R240, R244; 17_live_service.md R398). -/
def mayStay (s : State) (n x : Nat) : Prop :=
  let y := ctxAt s x
  y.state = 3 ∧ y.core = some n ∧ (fnAt s y.fn).freezing = false ∧ ((groupAt s y.group).job.bind (·.failed)) = none ∧
  (coreAt s n).retiring = false ∧ coreAllotted s y.fn n = true

/-- Requester rq may issue an opcode now: it holds the claim, no operation runs, no register stands with a mismatch
(18_registers_mailbox.md R420, R421). -/
def mbxReady (s : State) (rq : Requester) (op : Nat) : Prop :=
  s.sound ∧ s.bit MBX_STATUS.BUSY = false ∧ s.bit MBX_CLAIM.HELD = true ∧ s.get MBX_CLAIM.OWNER = ownerCode rq ∧
  (rq = Requester.smbus → smbusMay op = true)

/-- A result record stands in the next place of function f's result ring, whose tail has moved past it (07_hallmark.md R180;
09_contexts_tenants.md R234). -/
def resultWritten (s t : State) (f : Nat) (r : Bytes) : Prop :=
  let k := s.get HOST_FN_RES_TAIL f
  rdBytes t.mems.host (s.get2 HOST_FN_RES_BASE_LO HOST_FN_RES_BASE_HI f + k * 32) 32 = r ∧
  t.get HOST_FN_RES_TAIL f = (k + 1) % ringLen (s.get HOST_FN_RING_SIZE.RES f) % 2 ^ 12

/-- A completion record stands in the next place of function f's completion ring (09_contexts_tenants.md R234). -/
def cplWritten (s t : State) (f : Nat) (c : Cpl) : Prop :=
  let k := s.get HOST_FN_CPL_TAIL f
  rdBytes t.mems.host (s.get2 HOST_FN_CPL_BASE_LO HOST_FN_CPL_BASE_HI f + k * 32) 32 = c.bytes (nowN s) ∧
  t.get HOST_FN_CPL_TAIL f = (k + 1) % ringLen (s.get HOST_FN_RING_SIZE.CPL f) % 2 ^ 12

/-- The result ring and the completion ring of function f have room for a record (09_contexts_tenants.md R247). -/
def ringsRoom (s : State) (f : Nat) : Prop :=
  ringFull (s.get HOST_FN_RES_TAIL f) (s.get HOST_FN_RES_HEAD f) (ringLen (s.get HOST_FN_RING_SIZE.RES f)) = false ∧
  ringFull (s.get HOST_FN_CPL_TAIL f) (s.get HOST_FN_CPL_HEAD f) (ringLen (s.get HOST_FN_RING_SIZE.CPL f)) = false

/-- Function f's ring holds an entry of a TYPE that it fetches next (09_contexts_tenants.md R234). -/
def entryReady (s : State) (f typ : Nat) (e : Ent) : Prop :=
  s.sound ∧ f ≤ 256 ∧ entryAt s f = some e ∧ e.bad = false ∧ e.typ = typ ∧ ringsRoom s f

/-- The head of function f's submission ring has moved by one entry. -/
def headMoved (s t : State) (f : Nat) : Prop :=
  t.get HOST_FN_SUB_HEAD f = (s.get HOST_FN_SUB_HEAD f + 1) % ringLen (s.get HOST_FN_RING_SIZE.SUB f) % 2 ^ 12

/-- The requester that a grant gives the next run, and whether that begins a new burst (08_memory.md R218, R219). -/
def grantedTo (s : State) (k : Nat) : Option (Nat × Bool) :=
  let x := arbAt s k
  match x.owner with
  | none => (arbBest s k x).map (fun p => (p.2, true))
  | some r =>
    if x.locked then some (r, false)
    else
      (arbBest s k x).map (fun p =>
        match arbRank s k x r with
        | some i => if p.1 ≤ i ∧ x.spent < (arbCfg s k r).burst then (r, false) else (p.2, true)
        | none => (p.2, true))

/-- The rows of the mailbox's commands: the requester, the opcode, the checks of its own in their order, and what it does once
it has passed (18_registers_mailbox.md R421, R423, R424). -/
def mbxRow : Instr → Option (Requester × Nat × (State → Nat) × (State → State))
  | .imageReload rq => some (rq, 0x02, reloadCheck, reloadBody)
  | .stackRetire rq => some (rq, 0x10, retireStackCheck, retireStack)
  | .coreRetire rq => some (rq, 0x11, coreRetireCheck, fun s => retireCore s (mbxArg s 0 % 128))
  | .coreReturn rq => some (rq, 0x12, coreReturnCheck, coreReturn)
  | .portRetire rq => some (rq, 0x13, portRetireCheck, portRetire)
  | .portReturn rq => some (rq, 0x14, portReturnCheck, portReturn)
  | .maintRun rq => some (rq, 0x15, maintCheck, maintRun)
  | .tenantCreate rq => some (rq, 0x20, createCheck, tenantCreate)
  | .tenantRemove rq => some (rq, 0x21, removeCheck, tenantRemove)
  | .keySet rq => some (rq, 0x22, keySetCheck, keySet)
  | .tenantFreeze rq => some (rq, 0x23, freezeCheck, tenantFreeze)
  | .tenantThaw rq => some (rq, 0x24, thawCheck, fun s => mbxEnd (thaw s (mbxArg s 0)) Code.done)
  | .tenantSave rq => some (rq, 0x25, saveCheck, tenantSave)
  | .tenantRestore rq => some (rq, 0x26, restoreCheck, tenantRestore)
  | .beadMove rq => some (rq, 0x30, beadMoveCheck, beadMoveBody)
  | .bulkCopy rq => some (rq, 0x31, bulkCheck, bulkCopy)
  | .nvmApply rq => some (rq, 0x40, nvmCheck, nvmApply)
  | _ => none

/-- Nothing runs: no context, no group and no radio cell is there. -/
def nothingRuns (t : State) : Prop := t.ctxs = [] ∧ t.groups = [] ∧ t.cells = [] ∧ t.behaveReset = []

/-- HALTED with UNCORRECTABLE, after which nothing but a reset goes on (15_vigil.md R374). -/
def haltedNow (t : State) : Prop :=
  vigStage t = Stage.halted ∧ t.get GLOBAL_VIGIL_STATUS.FAULT_CODE = Code.uncorrectable

/-- The half in use has failed with a code: step 1 begins again with the other half, or, after the second half, the Vigil is in
RECOVERY with the code and every rail enable low (15_vigil.md R374). -/
def halfGivenUp (s : State) (code : Nat) (t : State) : Prop :=
  nothingRuns t ∧
  (s.vig.second = true → vigStage t = Stage.recovery ∧ t.get GLOBAL_VIGIL_STATUS.FAULT_CODE = code % 256 ∧ t.vig.en = 0) ∧
  (s.vig.second = false → vigStage t = Stage.romBoot ∧ t.get GLOBAL_VIGIL_STATUS.HALF = 1 - s.get GLOBAL_VIGIL_STATUS.HALF ∧
    t.get GLOBAL_VIGIL_STATUS.FALLBACK = 1 ∧ t.vig.second = true)

/-- The journal, while it is RUNNING and its block is not full, holds one record more, stamped with the issue time; while it is
not RUNNING it is as before (14_journal_recovery.md R342, R344). -/
def journalled (s t : State) (r : JRec) : Prop :=
  (fnState s jrnlFn = Fn.running → s.jr.recs.length < 62 → t.jr.recs = s.jr.recs ++ [r.bytes (issueTime s)]) ∧
  (fnState s jrnlFn ≠ Fn.running → t.jr = s.jr)

/-- A transaction is taken up by its row: its link is UP, the opcode is the row's, this device is its destination, and its
incarnation is the one known of its source (13_filigree.md R338). -/
def accepted (s : State) (q opc : Nat) (x : Txn) : Prop :=
  linkUp s q = true ∧ x.opc.toNat = opc ∧ x.dst = ownNode s ∧ incOf s x.src ≠ 0 ∧ incOf s x.src = x.inc

end Sys2Proof.Machine
end

