-- ==== Sys2Proof/Certificates/Slice0/Obligations.lean ====
section
/-! DEFINITION. The statements for the provers. -/

open Sys2Proof Sys2Proof.Machine

/-- A step runs the command at the front of the queue on the state with the queue's rest (the model's queue, log 1). -/
def Obligations.StepRunsFront : Prop :=
  ∀ (i : Instr) (rest : List Instr) (s : State),
    step { s with pending := i :: rest } = exec i { s with pending := rest }

/-- The reset state has the canonical form of registers and memories (the model's form, log 10). -/
def Obligations.ResetWellFormed : Prop := State.reset.wf = true ∧ State.reset.pending = []

/-- Every step keeps the canonical form of registers and memories (the model's form, log 10). -/
def Obligations.EveryStepKeepsWf : Prop :=
  ∀ s t : State, s.wf = true → step s = .next t → t.wf = true

/-- Every command that leaves a next state leaves every part of the state outside the parts listed for it as it was: the
frame of all 310 commands (a part is a field of the model's state). -/
def Obligations.EveryCommandFrame : Prop :=
  ∀ (i : Instr) (s t : State), exec i s = .next t → sameBut (touches i) s t

/-- ALMANAC_TICK and SERVO_STEP. A tick on which nothing waits adds the increment in force to N and its fraction, modulo 2^96,
and changes only the clock. A waiting set alone loads N, clears the fraction and discards a waiting servo step, with `integ`
and the rest of the servo as it was. A waiting firmware step adds to N the tick's increment and the step and keeps the
fraction, the servo as it was. A waiting servo step does the same, clears `integ` and sets STEP_DONE. An increment that waits
is loaded and added by the tick (that this very tick adds it is the model's reading, log 201), and is then in force, in the
two registers and in the latch, every other register as before. -/
def Obligations.AlmanacTick : Prop :=
  (∀ s : State, s.clk.setPend = none → s.clk.stepPend = none → s.clk.servoStep = none → s.clk.incrPend = none →
    Acts .almanacTick s (fun t => sameBut [.clk] s t ∧ t.clk.elapsed = s.clk.elapsed + incrNow s ∧
      t.clk.n.toNat * 2 ^ 32 + t.clk.frac.toNat =
        (s.clk.n.toNat * 2 ^ 32 + s.clk.frac.toNat + incrNow s) % 2 ^ 96)) ∧
  (∀ (s : State) (v : BitVec 64), s.clk.setPend = some v → s.clk.stepPend = none →
    Acts .almanacTick s (fun t => t.clk.n = v ∧ t.clk.frac = 0 ∧ t.clk.setPend = none ∧ t.clk.servoStep = none ∧
      t.servo = s.servo)) ∧
  (∀ (s : State) (d : Int), s.clk.setPend = none → s.clk.stepPend = some d →
    let sum := s.clk.n.toNat * 2 ^ 32 + s.clk.frac.toNat + tickIncr s
    Acts .almanacTick s (fun t => t.clk.n = BitVec.ofNat 64 (sum / 2 ^ 32) + BitVec.ofInt 64 d ∧
      t.clk.frac = BitVec.ofNat 32 sum ∧ t.clk.stepPend = none ∧ t.clk.servoStep = none ∧ t.servo = s.servo)) ∧
  (∀ (s : State) (d : Int), s.sound → s.clk.setPend = none → s.clk.stepPend = none → s.clk.servoStep = some d →
    let sum := s.clk.n.toNat * 2 ^ 32 + s.clk.frac.toNat + tickIncr s
    Acts .servoStep s (fun t => t.clk.n = BitVec.ofNat 64 (sum / 2 ^ 32) + BitVec.ofInt 64 d ∧
      t.clk.frac = BitVec.ofNat 32 sum ∧ t.clk.servoStep = none ∧ t.servo = { s.servo with integ := 0 } ∧
      t.get ALM_STATUS.STEP_DONE = 1)) ∧
  (∀ (s : State) (v : BitVec 64), s.sound → s.clk.setPend = none → s.clk.stepPend = none → s.clk.servoStep = none →
    s.clk.incrPend = some v →
    Acts .almanacTick s (fun t => incrNow t = v.toNat ∧
      t.clk.n = BitVec.ofNat 64 ((s.clk.n.toNat * 2 ^ 32 + s.clk.frac.toNat + v.toNat) / 2 ^ 32) ∧ t.clk.incrLatch = v.truncate 32 ∧ t.clk.incrPend = none ∧
      regsBut [ALM_INCR_LO.off, ALM_INCR_HI.off] s t))

/-- ALM_NS_LO_READ, and a read of `ALM_NS_HI` after it: the read gives the low word of N and latches the high word and the
fraction from the same tick; a read of `ALM_NS_HI` returns what the last such read latched. Every other register and every
part of the state but the registers and the data read is as before. -/
def Obligations.AlmanacReadLatches : Prop :=
  (∀ s : State, s.sound →
    Acts .almNsLoRead s (fun t => t.rdata.toNat = s.clk.n.toNat % 2 ^ 32 ∧
      t.get ALM_NS_HI = s.clk.n.toNat / 2 ^ 32 ∧ t.get ALM_FRAC = s.clk.frac.toNat ∧
      regsBut [ALM_NS_LO.off, ALM_NS_HI.off, ALM_FRAC.off] s t ∧ sameBut [.regs, .rdata] s t)) ∧
  (∀ (s : State) (j : Nat), s.sound →
    Acts (.registerRead (.mp j) ALM_NS_HI.off 4) s (fun t => t.rdata.toNat = s.get ALM_NS_HI ∧ t.regs = s.regs))

/-- SET_TIME, STEP_TIME and INCREMENT_WRITE. In FREE_RUN or ACQUIRING a write of `ALM_SET_HI` waits for the next tick with
the low word written before it, and a write of `ALM_STEP` with its signed value, added to a step that waits already (log 206);
either discards a waiting servo step, and
neither changes a register. In any other time state each is ignored but for CFG_WRITE_REJECT. While the servo is STOPPED a
write of `ALM_INCR_HI` takes the latched low word with it and waits, clamped to 2 ns × (1 ± `ALM_FREQ_LIMIT` × 10^-9), with
the increment in force unchanged; while the servo is RUNNING it is rejected. -/
def Obligations.AlmanacTimeWrites : Prop :=
  (∀ (s : State) (v : Word), timeState s = Ts.freeRun ∨ timeState s = Ts.acquiring →
    exec (.setTime v) s = .next { s with
      clk := { s.clk with setPend := some (v ++ s.clk.setLo), stepPend := none, servoStep := none } } ∧
    exec (.stepTime v) s = .next { s with clk := { s.clk with
      stepPend := some (s.clk.stepPend.getD 0 + v.toInt), servoStep := none } }) ∧
  (∀ (s : State) (v : Word) (i : Instr), s.sound → timeState s ≠ Ts.freeRun → timeState s ≠ Ts.acquiring →
    i ∈ [Instr.setTime v, .stepTime v] →
    Acts i s (fun t => t.get ALM_STATUS.CFG_WRITE_REJECT = 1 ∧ regsBut [ALM_STATUS.W.off] s t ∧ sameBut [.regs] s t)) ∧
  (∀ (s : State) (v : Word), s.sound → fnState s almFn = Fn.stopped →
    Acts (.incrementWrite v) s (fun t => incrNow t = incrNow s ∧
      t.clk.incrPend = some (BitVec.ofNat 64 (clampIncr s (v.toNat * 2 ^ 32 + s.clk.incrLatch.toNat))) ∧
      t.clk.n = s.clk.n ∧ regsBut [] s t)) ∧
  (∀ (s : State) (v : Word), s.sound → fnState s almFn = Fn.running →
    Acts (.incrementWrite v) s (fun t => t.get ALM_STATUS.CFG_WRITE_REJECT = 1 ∧ regsBut [ALM_STATUS.W.off] s t ∧
      sameBut [.regs] s t))

/-- SYNC_RECEIVED, PPS_EDGE, DELAY_RESP_RECEIVED, SYNCE_QUALIFIED_WRITE and SYNCE_LOSS_OF_SIGNAL, with times in 2^-16 ns; messages are of the slave's domain and
transport. In LOCKED a Sync whose sample e is within `ALM_OUTLIER` sets `integ` and y by the servo's two clamped sums, e from its
receive time at the reference plane, its origin time and correction, the filtered path delay and the asymmetry; one beyond it is counted and leaves clock and `integ` as they are. In ACQUIRING a sample beyond
`ALM_STEP_THRESH`, with more than one sample still wanted for the lock, makes a servo step of −e wait. A PPS edge in LOCKED
within `ALM_OUTLIER` is such a sample, taken within half a second either way less `ALM_PPS_DELAY`. The first delay exchange
sets the filtered delay whole, a later one moves it by the shifted difference. A write of `ALM_SYNCE_CTRL` outside holdover
moves the time PLL by QUALIFIED, mirrored in `ALM_STATUS`. A loss of signal squelches the recovered clock. -/
def Obligations.AlmanacSamples : Prop :=
  (∀ (s : State) (sub dom tr sq q : Nat) (t1 c mpd e : Int), s.sound → ptpReady s sub = true → ptpMine s dom tr = true →
    s.servo.mpd = some mpd →
    e = 256 * rxTime s (s.get ALM_CFG.UP_PORT) q - t1 - c - (mpd + 256 * s.getS ALM_ASYM (s.get ALM_CFG.UP_PORT)) → timeState s = Ts.locked →
    (e.natAbs ≤ s.get ALM_OUTLIER * 65536 →
      Acts (.syncReceived ⟨sub, dom, tr, sq⟩ t1 c q) s (fun t =>
        t.servo.integ = clampTo (s.get ALM_FREQ_LIMIT * 2 ^ 32) (s.servo.integ - s.get ALM_SERVO_KI * e) ∧
        t.servo.y = clampTo (s.get ALM_FREQ_LIMIT * 2 ^ 32) (t.servo.integ - s.get ALM_SERVO_KP * e) ∧
        t.servo.eLast = e ∧ t.clk.n = s.clk.n ∧
        t.clk.incrPend = some (BitVec.ofNat 64 (clampIncr s (incrOfY t.servo.y))))) ∧
    (s.get ALM_OUTLIER * 65536 < e.natAbs → s.servo.outlierRun < 7 →
      Acts (.syncReceived ⟨sub, dom, tr, sq⟩ t1 c q) s (fun t => t.clk = s.clk ∧ t.servo.integ = s.servo.integ ∧
        t.servo.lastValid = s.servo.lastValid ∧ timeState t = Ts.locked ∧
        t.get ALM_STATUS.OUTLIER_COUNT = min (s.get ALM_STATUS.OUTLIER_COUNT + 1) 255))) ∧
  (∀ (s : State) (sub dom tr sq q : Nat) (t1 c mpd e : Int), s.sound → ptpReady s sub = true → ptpMine s dom tr = true →
    s.servo.mpd = some mpd →
    e = 256 * rxTime s (s.get ALM_CFG.UP_PORT) q - t1 - c - (mpd + 256 * s.getS ALM_ASYM (s.get ALM_CFG.UP_PORT)) → timeState s = Ts.acquiring →
    s.get ALM_STEP_THRESH * 65536 < e.natAbs → s.servo.okRun + 1 < s.get ALM_LOCK_COUNT →
    Acts (.syncReceived ⟨sub, dom, tr, sq⟩ t1 c q) s (fun t => t.clk.servoStep = some (-(roundNs e)) ∧
      t.servo.integ = s.servo.integ ∧ t.clk.n = s.clk.n ∧ timeState t = Ts.acquiring)) ∧
  (∀ (s : State) (q : Nat) (m e : Int), s.sound → fnState s almFn = Fn.running → s.get ALM_CFG.SOURCE = 2 →
    timeState s = Ts.locked → m = ((s.clk.n.toNat % 1000000000 : Nat) : Int) * 65536 + q * 16384 →
    e = (if m > 500000000 * 65536 then m - 1000000000 * 65536 else m) - s.getS ALM_PPS_DELAY * 65536 →
    e.natAbs ≤ s.get ALM_OUTLIER * 65536 →
    Acts (.ppsEdge q) s (fun t =>
      t.servo.integ = clampTo (s.get ALM_FREQ_LIMIT * 2 ^ 32) (s.servo.integ - s.get ALM_SERVO_KI * e) ∧
      t.servo.eLast = e ∧ t.clk.n = s.clk.n)) ∧
  (∀ (s : State) (sub dom tr seq : Nat) (t4 c t3 ms : Int), s.sound → ptpReady s sub = true → ptpMine s dom tr = true →
    s.servo.reqs.find? (fun r => r.1 == seq) = some (seq, t3) → s.servo.lastMs = some ms →
    Acts (.delayRespReceived ⟨sub, dom, tr, seq⟩ t4 c) s (fun t => t.clk = s.clk ∧
      t.servo.reqs = s.servo.reqs.filter (fun r => r.1 != seq) ∧
      t.servo.mpd = some (match s.servo.mpd with
        | none => (ms + (t4 - t3 - c)).tdiv 2
        | some m => m + ((ms + (t4 - t3 - c)).tdiv 2 - m) / 2 ^ s.get ALM_PD_SHIFT))) ∧
  (∀ (s : State) (v : Word), s.sound → timeState s < Ts.holdover →
    Acts (.synceQualifiedWrite v) s (fun t => t.get ALM_SYNCE_CTRL.QUALIFIED = getBits v 7 1 ∧
      t.get ALM_STATUS.SYNCE_QUALIFIED = getBits v 7 1 ∧ (t.servo.pllSynce = true ↔ getBits v 7 1 = 1) ∧
      regsBut [ALM_SYNCE_CTRL.W.off, ALM_STATUS.W.off] s t)) ∧
  (∀ s : State, exec .synceLossOfSignal s = .next { s with servo := { s.servo with squelched := true } })

/-- LOSS_TIMEOUT, HOLDOVER_TE_UPDATE, ALM_START, ALM_STOP and FH_LINK_CHANGE. With no valid sample for `ALM_LOSS_TIMEOUT`
ACQUIRING passes to FREE_RUN and LOCKED to HOLDOVER, which freezes y at the mean. The millisecond's update of the time error
adds the part spent at each rate, and leaves HOLDOVER for HOLDOVER_EXPIRED with its code exactly where the error exceeds
`ALM_HO_LIMIT`. START of a STOPPED servo with a legal configuration makes it RUNNING with no filtered delay and the time state
as it was; an illegal one makes it FAULTED with BAD_ARGUMENT. STOP of a RUNNING servo makes it STOPPED, with LOCKED passing to
HOLDOVER, ACQUIRING to FREE_RUN with a waiting servo step discarded, and any other time state unchanged. A sub-port's link
change stores its level and chooses the upstream sub-port afresh. -/
def Obligations.AlmanacTimeStates : Prop :=
  (∀ s : State, s.sound → s.servo.lastValid + s.get ALM_LOSS_TIMEOUT ≤ nowNs s →
    (timeState s = Ts.acquiring → Acts .lossTimeout s (fun t => timeState t = Ts.freeRun ∧ t.servo.y = s.servo.y)) ∧
    (timeState s = Ts.locked → Acts .lossTimeout s (fun t => timeState t = Ts.holdover ∧ t.servo.y = meanY s.servo ∧
      t.servo.hoE = s.servo.eLast.natAbs ∧ t.servo.hoSum = 0))) ∧
  (∀ s : State, s.sound → timeState s = Ts.holdover → s.servo.hoNext ≤ nowNs s → s.servo.hoMark ≤ s.servo.hoNext →
    let d := s.servo.hoNext - s.servo.hoMark
    let qual := s.get ALM_SYNCE_CTRL.QUALIFIED
    let sum := s.servo.hoSum +
      s.get ALM_HO_RATE_SYNCE * (s.servo.hoSync + if qual ≠ 0 then d else 0) +
      s.get ALM_HO_RATE_FREE * (s.servo.hoFree + if qual ≠ 0 then 0 else d)
    let te := s.servo.hoE * 1000000000 + s.get ALM_HO_BASE * (65536 * 1000000000) + sum * 256
    Acts .holdoverTeUpdate s (fun t => t.servo.hoSum = sum ∧ t.servo.y = s.servo.y ∧
      t.get ALM_HO_TE = min (te / (65536 * 1000000000)) (2 ^ 32 - 1) ∧
      (s.get ALM_HO_LIMIT * (65536 * 1000000000) < te →
        timeState t = Ts.expired ∧ t.get ALM_STATUS.FAULT_CODE = Code.holdoverExpired) ∧
      (te ≤ s.get ALM_HO_LIMIT * (65536 * 1000000000) → timeState t = Ts.holdover))) ∧
  (∀ s : State, s.sound → fnState s almFn = Fn.stopped → timeState s ≠ Ts.locked →
    (almCheck s = none → Acts .almStart s (fun t => fnState t almFn = Fn.running ∧ timeState t = timeState s ∧
      t.get ALM_STATUS.OUTLIER_COUNT = 0 ∧ t.servo.mpd = none ∧ t.servo.yHist = [] ∧ t.clk = s.clk)) ∧
    (s.get ALM_CFG.TRANSPORT = 3 ∨ s.get ALM_CFG.SOURCE = 3 ∨
        (s.get ALM_CFG.TRANSPORT ≠ 0 ∧ s.get ALM_CFG.PROFILE = 0) →
      Acts .almStart s (fun t => fnState t almFn = Fn.faulted ∧ t.get ALM_STATUS.FAULT_CODE = Code.badArgument ∧
        regsBut [almFn] s t ∧ sameBut [.regs] s t))) ∧
  (∀ s : State, s.sound → fnState s almFn = Fn.running →
    Acts .almStop s (fun t => fnState t almFn = Fn.stopped ∧
      timeState t = (if timeState s = Ts.locked then Ts.holdover else if timeState s = Ts.acquiring then Ts.freeRun
        else timeState s) ∧
      (timeState s = Ts.acquiring → t.clk = { s.clk with servoStep := none }))) ∧
  (∀ (s : State) (p k : Nat) (up : Bool), s.sound → p < 8 → k < subPorts s p →
    Acts (.fhLinkChange p k up) s (fun t => t.get FH_SUB_STATUS.LINK_UP p k = (if up then 1 else 0) ∧
      t.clk.n = s.clk.n ∧
      (match upstreamOf t (s.get ALM_CFG.UP_PORT) with
        | some j => t.get ALM_STATUS.UP_VALID = 1 ∧ t.get ALM_STATUS.UP_SUB = j
        | none => t.get ALM_STATUS.UP_VALID = 0)))

/-- PULSE_LEAD_EDGE, PULSE_TRAIL_EDGE, PULSE_CTRL_WRITE, PULSE_START_WRITE, CAPTURE_EDGE and CAPTURE_READ, for each of the
eight outputs and inputs. The lead edge falls once N has reached the scheduled time: the pulse then lasts half the width in
ticks, rounded up, and in PERIODIC mode the next edge is one period on, else none. The trailing edge ends the pulse at its
tick. A write of OFF cancels the edges; one of ONE_SHOT or PERIODIC out of OFF with START not past schedules START; one with
START past sets PAST. A write of START_HI takes effect with the low word, and replaces the next edge while the output is on.
A selected edge enters a FIFO with room as 4 × N + q and raises FILL; into a full one it is dropped and sets OVERFLOW. A read
gives the oldest entry's low word, latches its high word and removes it; of an empty FIFO it gives 0. -/
def Obligations.AlmanacPulsesAndCaptures : Prop :=
  (∀ (s : State) (k e : Nat), k < 8 → (pulseAt s k).next = some e → e ≤ s.clk.n.toNat →
    exec (.pulseLeadEdge k) s = .next (setPulse s k { pulseAt s k with
      last := some e
      fall := some (s.clk.ticks + (s.get ALM_PLS_WIDTH k + 1) / 2)
      next := if s.get ALM_PLS_CTRL.MODE k = 2 then some (e + s.get ALM_PLS_PERIOD k) else none })) ∧
  (∀ (s : State) (k f : Nat), k < 8 → (pulseAt s k).fall = some f → f ≤ s.clk.ticks →
    exec (.pulseTrailEdge k) s = .next (setPulse s k { pulseAt s k with fall := none })) ∧
  (∀ (s : State) (k : Nat) (v : Word), s.sound → k < 8 → s.get ALM_PLS_CTRL.MODE k ≠ getBits v 0 2 →
    getBits v 3 1 = 0 →
    Acts (.pulseCtrlWrite k v) s (fun t => t.get ALM_PLS_CTRL.MODE k = getBits v 0 2 ∧
      t.get ALM_PLS_CTRL.POL k = getBits v 2 1 ∧ regsBut [ALM_PLS_CTRL.W.addr k] s t ∧
      (modeOn (getBits v 0 2) = false →
        (pulseAt t k).next = none ∧ (pulseAt t k).fall = none ∧ t.get ALM_PLS_CTRL.PAST k = s.get ALM_PLS_CTRL.PAST k) ∧
      (modeOn (getBits v 0 2) = true → modeOn (s.get ALM_PLS_CTRL.MODE k) = false →
        (s.clk.n.toNat ≤ (pulseAt s k).start.toNat → (pulseAt t k).next = some (pulseAt s k).start.toNat) ∧
        ((pulseAt s k).start.toNat < s.clk.n.toNat → t.get ALM_PLS_CTRL.PAST k = 1 ∧
          (getBits v 0 2 = 1 → (pulseAt t k).next = none))))) ∧
  (∀ (s : State) (k : Nat) (v : Word), s.sound → k < 8 →
    Acts (.pulseStartWrite k v) s (fun t =>
      (pulseAt t k).start.toNat = s.get ALM_PLS_START_LO k + v.toNat * 2 ^ 32 ∧
      (pulseAt t k).fall = (pulseAt s k).fall ∧
      (modeOn (s.get ALM_PLS_CTRL.MODE k) = false → (pulseAt t k).next = (pulseAt s k).next) ∧
      (modeOn (s.get ALM_PLS_CTRL.MODE k) = true → s.clk.n.toNat ≤ s.get ALM_PLS_START_LO k + v.toNat * 2 ^ 32 →
        (pulseAt t k).next = some (s.get ALM_PLS_START_LO k + v.toNat * 2 ^ 32)))) ∧
  (∀ (s : State) (k q : Nat) (rising : Bool), s.sound → k < 8 → q < 8 →
    (s.get ALM_CAPT_CTRL.EDGE k = 3 ∨ s.get ALM_CAPT_CTRL.EDGE k = if rising then 1 else 2) →
    Acts (.captureEdge k rising q) s (fun t =>
      ((captAt s k).length < 4 → captAt t k = captAt s k ++ [BitVec.ofNat 64 (4 * s.clk.n.toNat + q)] ∧
        t.get ALM_CAPT_CTRL.FILL k = (captAt s k).length + 1) ∧
      (4 ≤ (captAt s k).length → captAt t k = captAt s k ∧ t.get ALM_CAPT_CTRL.OVERFLOW k = 1) ∧
      regsBut [ALM_CAPT_CTRL.W.addr k] s t)) ∧
  (∀ (s : State) (k : Nat), s.sound → k < 8 → (captAt s k).length ≤ 4 →
    Acts (.captureRead k) s (fun t =>
      let x : BitVec 64 := (captAt s k).headD 0
      t.rdata.toNat = x.toNat % 2 ^ 32 ∧ t.get ALM_CAPT_TS_LO k = x.toNat % 2 ^ 32 ∧
      t.get ALM_CAPT_TS_HI k = x.toNat / 2 ^ 32 ∧ captAt t k = (captAt s k).tail ∧
      t.get ALM_CAPT_CTRL.FILL k = (captAt s k).length - 1 ∧ t.clk = s.clk))

/-- CAL_ARM, ARM_DONE, CAL_DISARM and BANK_WRITE. ARM sets ARMING and takes the bank with the outcome of the checks on the
contents present then, the first of them on the length; while ARMING is set it is ignored but for BANK_WRITE_REJECT. The end
of arming clears ARMING, writes the code and the failing entry into `CAL_ARM_RESULT`, and makes the bank pending exactly on
success. DISARM during arming clears ARMING and records STATE_CONFLICT without an entry; otherwise it returns a pending bank to
standby, and a STARTING Calendar to STOPPED. A write to an aligned word of a bank that is neither active, pending nor being
armed stores the writable bits and changes no other register; one to a bank that is so only sets BANK_WRITE_REJECT. -/
def Obligations.CalendarArming : Prop :=
  (∀ (s : State) (b : Bool), s.sound → s.get CAL_STATUS.ARMING = 0 →
    Acts (.calArm b) s (fun t => t.get CAL_STATUS.ARMING = 1 ∧ t.get CAL_STATUS.PENDING = s.get CAL_STATUS.PENDING ∧
      t.cal.armBank = bankNo b ∧ (t.cal.armCode, t.cal.armIdx) = armCheck s (bankNo b) ∧
      (s.get CAL_BANK_LEN (bankNo b) = 0 ∨ 1024 < s.get CAL_BANK_LEN (bankNo b) →
        t.cal.armCode = Code.badArgument ∧ t.cal.armIdx = none) ∧
      regsBut [CAL_STATUS.W.off] s t)) ∧
  (∀ (s : State) (b : Bool), s.sound → s.get CAL_STATUS.ARMING = 1 →
    Acts (.calArm b) s (fun t => t.get CAL_STATUS.BANK_WRITE_REJECT = 1 ∧ t.get CAL_STATUS.ARMING = 1 ∧ t.cal = s.cal ∧
      regsBut [CAL_STATUS.W.off] s t)) ∧
  (∀ s : State, s.sound → s.get CAL_STATUS.ARMING = 1 → s.cal.armCode < 256 → (∀ i, s.cal.armIdx = some i → i < 1024) →
    Acts .armDone s (fun t => t.get CAL_STATUS.ARMING = 0 ∧ t.get CAL_ARM_RESULT.CODE = s.cal.armCode ∧
      t.get CAL_ARM_RESULT.INDEX_VALID = (if s.cal.armIdx.isSome then 1 else 0) ∧
      t.get CAL_ARM_RESULT.INDEX = s.cal.armIdx.getD 0 ∧
      (s.cal.armCode = Code.done → t.get CAL_STATUS.PENDING = 1 ∧ t.cal.pendBank = s.cal.armBank) ∧
      (s.cal.armCode ≠ Code.done → t.get CAL_STATUS.PENDING = s.get CAL_STATUS.PENDING ∧ t.cal = s.cal) ∧
      regsBut [CAL_STATUS.W.off, CAL_ARM_RESULT.W.off] s t)) ∧
  (∀ s : State, s.sound →
    Acts .calDisarm s (fun t =>
      (s.get CAL_STATUS.ARMING = 1 → t.get CAL_STATUS.ARMING = 0 ∧ t.get CAL_ARM_RESULT.CODE = Code.stateConflict ∧
        t.get CAL_ARM_RESULT.INDEX_VALID = 0 ∧ t.get CAL_STATUS.PENDING = s.get CAL_STATUS.PENDING ∧ t.cal = s.cal) ∧
      (s.get CAL_STATUS.ARMING = 0 → s.get CAL_STATUS.PENDING = 1 → t.get CAL_STATUS.PENDING = 0 ∧ t.cal.swapAt = none ∧
        fnState t calFn = (if fnState s calFn = Fn.starting then Fn.stopped else fnState s calFn)) ∧
      regsBut [CAL_STATUS.W.off, CAL_ARM_RESULT.W.off] s t)) ∧
  (∀ (s : State) (o x : Nat) (v : Word) (r : RegRow) (i k : Nat), s.sound → bankOfOff o = some x →
    regAt o = some (r, i, k) →
    (bankLocked s x = false → Acts (.bankWrite o v) s (fun t =>
      rdReg t o = v &&& BitVec.ofNat 32 (writableBits r) ∧ regsBut [o] s t ∧ t.cal = s.cal)) ∧
    (bankLocked s x = true → Acts (.bankWrite o v) s (fun t =>
      t.get CAL_STATUS.BANK_WRITE_REJECT = 1 ∧ regsBut [CAL_STATUS.W.off] s t ∧ t.cal = s.cal)))

/-- CAL_START, CAL_STOP and BANK_SWAP. START of a STOPPED Calendar with a bank pending makes it STARTING with S fixed as the
first cycle start of that bank at or after N, the switch time and the end of running maintenance; with none pending it makes
it FAULTED with STATE_CONFLICT. STOP of a RUNNING Calendar with no cell RUNNING makes it STOPPING, the bank pending as before
and S lapsed; with a cell RUNNING it only sets STOP_REJECT. At S out of STARTING the pending bank becomes active, the Calendar
RUNNING, the cycle is counted, and no swap is reported. At the end E of an entry of a RUNNING Calendar with S at or before E
the pending bank becomes active with SWAP_DONE and the slip E − S. -/
def Obligations.CalendarRuns : Prop :=
  (∀ s : State, s.sound → fnState s calFn = Fn.stopped →
    (s.get CAL_STATUS.PENDING = 1 → Acts .calStart s (fun t => fnState t calFn = Fn.starting ∧
      t.get CAL_STATUS.PENDING = 1 ∧
      ∃ S, t.cal.swapAt = some S ∧ s.clk.n.toNat ≤ S ∧ switchTime s ≤ S ∧ s.clk.n.toNat + maintLeft s ≤ S ∧
        ((S : Int) - bankBase s s.cal.pendBank) % bankCycle s s.cal.pendBank = 0 ∧
        S < max (s.clk.n.toNat + maintLeft s) (switchTime s) + bankCycle s s.cal.pendBank)) ∧
    (s.get CAL_STATUS.PENDING = 0 → Acts .calStart s (fun t => fnState t calFn = Fn.faulted ∧
      t.get CAL_STATUS.FAULT_CODE = Code.stateConflict ∧ t.cal = s.cal))) ∧
  (∀ s : State, s.sound → fnState s calFn = Fn.running →
    (anyCellRunning s = false → Acts .calStop s (fun t => fnState t calFn = Fn.stopping ∧ t.cal.swapAt = none ∧
      t.get CAL_STATUS.PENDING = s.get CAL_STATUS.PENDING ∧ regsBut [CAL_STATUS.W.off] s t)) ∧
    (anyCellRunning s = true → Acts .calStop s (fun t => t.get CAL_STATUS.STOP_REJECT = 1 ∧
      fnState t calFn = Fn.running ∧ t.cal = s.cal ∧ regsBut [CAL_STATUS.W.off] s t))) ∧
  (∀ (s : State) (power at_ : Nat), s.sound → s.get CAL_STATUS.PENDING = 1 → s.cal.swapAt = some at_ →
    s.cal.deferred = [] → s.winPend = [] → s.cal.measuring = false → s.cal.pendBank < 2 →
    (fnState s calFn = Fn.starting → at_ ≤ s.clk.n.toNat → s.cal.resync = false →
      Acts (.bankSwap power) s (fun t => fnState t calFn = Fn.running ∧
        t.get CAL_STATUS.ACTIVE_VALID = 1 ∧ t.get CAL_STATUS.ACTIVE_BANK = s.cal.pendBank ∧ t.get CAL_STATUS.PENDING = 0 ∧
        t.get CAL_STATUS.SWAP_DONE = s.get CAL_STATUS.SWAP_DONE ∧ t.get CAL_SWAP_SLIP = s.get CAL_SWAP_SLIP ∧
        t.get CAL_CYCLE_COUNT = (s.get CAL_CYCLE_COUNT + 1) % 2 ^ 32 ∧ t.cal.swapAt = none)) ∧
    (fnState s calFn = Fn.running → s.cal.endAt ≤ s.clk.elapsed → at_ ≤ endN s →
      Acts (.bankSwap power) s (fun t => fnState t calFn = Fn.running ∧
        t.get CAL_STATUS.ACTIVE_BANK = s.cal.pendBank ∧ t.get CAL_STATUS.PENDING = 0 ∧ t.get CAL_STATUS.SWAP_DONE = 1 ∧
        t.get CAL_SWAP_SLIP = (endN s - at_) % 2 ^ 32)))

/-- CAL_ENTRY_END and TOKEN_ACCRUE. The end of an entry within a cycle, with no swap due, applies the table's gates and queue
masks at that offset to every core, a core that is ABSENT or RETIRED having none, and writes no register. A bucket whose
microsecond is due gains that microsecond's share of its rate where it is enabled, the fraction carried and the count never
raised above its burst; one that is not enabled stays as it is; one whose microsecond is not due changes in nothing. -/
def Obligations.CalendarEntries : Prop :=
  (∀ (s : State) (power : Nat), s.sound → calActive s = true → s.cal.endAt ≤ s.clk.elapsed →
    fnState s calFn ≠ Fn.stopping → swapDue s = false → s.cal.resync = false →
    s.cal.endOff < bankCycle s (activeBank s) →
    Acts (.calEntryEnd power) s (fun t =>
      (∀ n, n < 128 → gatesOf t n =
        if coreUsable s n then gateFrom n s.cal.endOff (bankEnts s (activeBank s)) 0 0 else 0) ∧
      t.cal.fhMask = BitVec.ofNat 64 (maskFrom s.cal.endOff (bankEnts s (activeBank s)) 0 (2 ^ 64 - 1)) ∧
      regsBut [] s t)) ∧
  (∀ (s : State) (u b : Nat), s.sound → u < 256 → b < 3 →
    let due := mapGet (fun _ => 0) s.cal.tbNext (3 * u + b)
    let acc := mapGet (fun _ => 0) s.cal.tbFrac (3 * u + b) + s.get (tbRate b) u
    let cap : Int := min (s.get (tbBurst b) u) (2 ^ 31 - 1)
    Acts (.tokenAccrue u) s (fun t =>
      (due ≤ nowNs s → tbOn s u b = true → s.getS (tbTokens b) u ≤ cap →
        t.getS (tbTokens b) u = min (s.getS (tbTokens b) u + (acc / 1000 : Nat)) cap ∧
        mapGet (fun _ => 0) t.cal.tbFrac (3 * u + b) = acc % 1000) ∧
      (due ≤ nowNs s → mapGet (fun _ => 0) t.cal.tbNext (3 * u + b) = due + 1000) ∧
      (nowNs s < due ∨ tbOn s u b = false → t.getS (tbTokens b) u = s.getS (tbTokens b) u) ∧
      (nowNs s < due → mapGet (fun _ => 0) t.cal.tbNext (3 * u + b) = due)))

/-- ARR_START, ARR_TEST, ARR_STOP, SELF_TEST_END and ARRAY_STOP_DONE, for every core. START and TEST of a STOPPED array make it
STARTING and take the repair and the seed now written (a seed of zero as 1), with `SPARE_ACTIVE` and the drain latency 40
with a repair and 39 without; START clears the two counts. START while the array's domain is off is ignored and counted. STOP
of a STARTING or FAULTED array makes it STOPPING, and so does STOP of a RUNNING one on which HARD, FIRM and TENANT are closed
(the gates the Calendar applies: the model's reading, log 216), its 288 cycles counted from now where no matrix command is in
flight; with one of the three open it only sets STOP_REJECT. A self-test whose time has passed, of an array under no
ARRAY_CHECK, publishes its results, sets TEST_PASS exactly where the signature is that of ROM and no row failed, and leaves a
tested array STOPPED with TEST_DONE and level 0, a started one RUNNING at level 8 or FAULTED with UNCORRECTABLE. STOPPING ends
in STOPPED at level 0 after its 288 cycles. -/
def Obligations.ArrayFunction : Prop :=
  (∀ (s : State) (n : Nat) (i : Instr), s.sound → n < 128 → arrState s n = Fn.stopped → i ∈ [Instr.arrStart n, .arrTest n] →
    (domOn s n = true → Acts i s (fun t => arrState t n = Fn.starting ∧
      t.get CORE_ARR_STATUS.SPARE_ACTIVE n = s.get CORE_ARR_REPAIR.EN n ∧
      t.get CORE_ARR_DRAIN_LAT n = 39 + s.get CORE_ARR_REPAIR.EN n ∧
      (arrAt t n).repair = (if s.get CORE_ARR_REPAIR.EN n = 1 then some (s.get CORE_ARR_REPAIR.ROW n) else none) ∧
      (arrAt t n).lfsr.toNat = max 1 (s.get CORE_ARR_SEED n) ∧ (arrAt t n).since = some (cycleNow s) ∧
      ((arrAt t n).testing = true ↔ i = .arrTest n) ∧
      t.get CORE_ARR_PASS_COUNT n = (if i = .arrStart n then 0 else s.get CORE_ARR_PASS_COUNT n) ∧
      t.get CORE_ARR_FILL_COUNT n = (if i = .arrStart n then 0 else s.get CORE_ARR_FILL_COUNT n))) ∧
    (domOn s n = false → Acts i s (fun t => arrState t n = Fn.stopped ∧ t.cores = s.cores ∧
      t.get PWR_START_IGNORED = (s.get PWR_START_IGNORED + 1) % 2 ^ 32 ∧ regsBut [PWR_START_IGNORED.off] s t))) ∧
  (∀ (s : State) (n : Nat), s.sound → n < 128 →
    (arrState s n = Fn.starting ∨ arrState s n = Fn.faulted ∨ arrState s n = Fn.running ∧ gatesOf s n &&& 7 = 0 →
      Acts (.arrStop n) s (fun t => arrState t n = Fn.stopping ∧ (arrAt t n).testing = false ∧
        (arrAt t n).since = (if matrixInFlight (coreAt s n) = true then none else some (cycleNow s)) ∧
        t.get CORE_ARR_STATUS.TEST_DONE n = s.get CORE_ARR_STATUS.TEST_DONE n ∧ level t n = level s n)) ∧
    (arrState s n = Fn.running → gatesOf s n &&& 7 ≠ 0 →
      Acts (.arrStop n) s (fun t => arrState t n = Fn.running ∧ t.get CORE_ARR_STATUS.STOP_REJECT n = 1 ∧
        t.cores = s.cores ∧ regsBut [arrFn n] s t))) ∧
  (∀ (s : State) (n : Nat) (rowFail : Word) (standby : Bool) (sig : BitVec 64), s.sound → n < 128 →
    arrState s n = Fn.starting → (coreAt s n).check = 0 →
    (arrAt s n).since.getD 0 + (if (arrAt s n).testing then testCycles else startCycles) ≤ cycleNow s →
    Acts (.selfTestEnd n rowFail standby sig) s (fun t =>
      t.get CORE_ARR_ROW_FAIL n = rowFail.toNat ∧ t.get CORE_ARR_STATUS.STANDBY_FAIL n = standby.toNat ∧
      t.get CORE_ARR_SIG_HI n * 2 ^ 32 + t.get CORE_ARR_SIG_LO n = sig.toNat ∧
      t.get CORE_ARR_STATUS.TEST_PASS n = (if sig = Config.romSignature ∧ rowFail = 0 then 1 else 0) ∧
      ((arrAt s n).testing = true → arrState t n = Fn.stopped ∧ t.get CORE_ARR_STATUS.TEST_DONE n = 1 ∧ level t n = 0) ∧
      ((arrAt s n).testing = false → t.get CORE_ARR_STATUS.TEST_DONE n = s.get CORE_ARR_STATUS.TEST_DONE n ∧
        (sig = Config.romSignature ∧ rowFail = 0 → arrState t n = Fn.running ∧
          t.get CORE_ARR_STATUS.FAULT_CODE n = Code.done ∧ level t n = 8) ∧
        (¬(sig = Config.romSignature ∧ rowFail = 0) → arrState t n = Fn.faulted ∧
          t.get CORE_ARR_STATUS.FAULT_CODE n = Code.uncorrectable ∧ level t n = level s n)))) ∧
  (∀ (s : State) (n t0 : Nat), s.sound → n < 128 → arrState s n = Fn.stopping → (coreAt s n).check = 0 →
    (arrAt s n).since = some t0 → t0 + 288 ≤ cycleNow s →
    Acts (.arrayStopDone n) s (fun t => arrState t n = Fn.stopped ∧ level t n = 0 ∧ (arrAt t n).since = none))

/-- LANTERN_LEVEL_STEP on a core with no command in flight. Of a RUNNING array it changes the level by at most one and never
above 8, and never lowers it while HARD or FIRM is open; the level of 8 falls to 7 after 64 cycles of gap where nothing asks
for it, and rises by one after 32 cycles of a ramp up that an open gate asks for. Of a STARTING array under START it rises by one each
32 cycles. Of a STOPPING or FAULTED array it is the lower of its present value and that of a gap run counted from the start of
the ramp down. The level is all that a step changes among the registers, but for the counts of filled cycles and of passes. -/
def Obligations.LanternLevel : Prop :=
  (∀ (s : State) (n : Nat), s.sound → n < 128 → arrState s n = Fn.running → (coreAt s n).fly = [] → level s n ≤ 8 →
    Acts (.lanternLevelStep n) s (fun t => level t n ≤ 8 ∧ level t n ≤ level s n + 1 ∧ level s n ≤ level t n + 1 ∧
      (radioOpen s n = true → level s n ≤ level t n) ∧
      (level s n = 8 → radioOpen s n = false → rampDue s n true = false → (arrAt s n).dir = 0 →
        max (arrAt s n).mark (arrAt s n).feed + 64 ≤ cycleNow s → level t n = 7) ∧
      (radioOpen s n = true → level s n < 8 → (arrAt s n).dir = 1 → (arrAt s n).mark + 32 ≤ cycleNow s →
        level t n = level s n + 1) ∧
      regsBut [CORE_ARR_LANTERN.LEVEL.addr n, CORE_ARR_FILL_COUNT.addr n, CORE_ARR_PASS_COUNT.addr n] s t)) ∧
  (∀ (s : State) (n : Nat), s.sound → n < 128 → arrState s n = Fn.starting → (coreAt s n).fly = [] → level s n < 8 →
    (arrAt s n).testing = false → (arrAt s n).mark + 32 ≤ cycleNow s →
    Acts (.lanternLevelStep n) s (fun t => level t n = level s n + 1 ∧ (arrAt t n).mark = (arrAt s n).mark + 32 ∧
      arrState t n = Fn.starting)) ∧
  (∀ (s : State) (n t0 : Nat), s.sound → n < 128 → arrState s n = Fn.stopping ∨ arrState s n = Fn.faulted →
    (coreAt s n).fly = [] → (arrAt s n).since = some t0 →
    Acts (.lanternLevelStep n) s (fun t => level t n = min (level s n) (gapLevel (cycleNow s - t0)) ∧
      regsBut [CORE_ARR_LANTERN.LEVEL.addr n, CORE_ARR_FILL_COUNT.addr n, CORE_ARR_PASS_COUNT.addr n] s t))

/-- NOP, DYNQ, BOUNDARY, MATMUL, EW_MUL, EW_FMA, EW_ADD, the 18 VECTOR rows, MOVE, BFP_EXPAND, BFP_COMPRESS, FILL, WAIT_MEM, FENCE,
the 9 atomics and SIGNAL (MATMUL and MOVE without errors found by their reads). Where the head of the row's stream is a
command of the row's kind and may issue, and the held time is counted up to now, the row issues it and lets the units of the
commands in flight run: the command joins the commands in flight with the next number and no unit run, its stream's count
rises by one modulo 2^48, a stream not taking from its dynamic queue moves to the next command (DYNQ sets how many it takes),
one that does drops the entry and keeps its program counter, and the CONSUME waits of the command and of the other members of its
link group subtract their WAIT_N from their context or cluster counters while a PEEK wait subtracts nothing. A command
without pointers runs no unit: with nothing else in flight the step ends with it in flight. -/
def Obligations.StreamIssue : Prop :=
  ∀ (i : Instr) (s : State) (n st op sub c : Nat) (h : Head), issueOf i = some (n, st, op, sub) → n < 128 → st < 4 →
    accumHeld s n = s → headOf s n c st = some h → mayIssue s n st c h = true → cmdKind h.cmd = (op, sub) →
    let u := issued s n c st h
    let x := ((coreAt s n).slot c).ctx
    let old := ctxAt s x
    let new := ctxAt u x
    exec i s = .next (accumHeld (runFly u n) n) ∧
    (usesPointers h.cmd = false → (coreAt s n).fly = [] → exec i s = .next (accumHeld u n)) ∧
    (∃ f, (coreAt u n).fly.map Inflight.sansLevel = ((coreAt s n).fly ++ [f]).map Inflight.sansLevel ∧
      (st ≠ 1 → (coreAt u n).fly = (coreAt s n).fly ++ [f]) ∧ f.cmd = h.cmd ∧ f.stream = st ∧ f.slot = c ∧ f.unit = 0 ∧
      f.uid = s.uids ∧ f.count = (old.live.stream st).count) ∧
    u.uids = s.uids + 1 ∧ u.mems = s.mems ∧ u.fab = s.fab ∧
    (new.live.stream st).count = ((old.live.stream st).count + 1) % 2 ^ 48 ∧
    (h.entry = none → (new.live.stream st).pc = h.idx + 1 ∧
      (new.live.stream st).dynLeft = if op = Opc.dynq then cmdF h.cmd 191 176 else (old.live.stream st).dynLeft) ∧
    (∀ e, h.entry = some e → (new.live.stream st).pc = (old.live.stream st).pc ∧
      (new.live.stream st).dynq = (old.live.stream st).dynq.tail ∧
      (new.live.stream st).dynLeft = (old.live.stream st).dynLeft - 1) ∧
    (∀ k, new.live.token k = afterWaits false k (waitsOf s n c h) (old.live.token k)) ∧
    (∀ k < 256, clTokAt u (n / 8) k = afterWaits true k (waitsOf s n c h) (clTokAt s (n / 8) k)) ∧
    (∀ a, ∀ k < 256, a ≠ n / 8 → clTokAt u a k = clTokAt s a k)

/-- SIG_LD, SIG_ST, SIG_ADD, SIG_SUB, CMUL, CMULC, CMAC, ACCRD, MAG2 and SIG_MAX at the kernel's place, without a REP before
them, with operands that read without a fault (A: the register VA, or with M0 the line at address register AR0; B: VB, or with
M1 the line at AR1) and, for SIG_ST, a line that its address register may reach. The kernel moves to the next place and the command's
cycles rise by one. The result goes to VD, all other vector registers stay, but for ACCRD's; CMAC adds the complex products to
the accumulator VD mod 4, saturated or wrapped to 40 bits; ACCRD packs the accumulator VA mod 4 into VD and clears it;
SIG_ST alone stores, the 64 bytes of operand A at AR1: into the queue slot that P2 fills at once, else with the command's
outputs, which its completion makes visible. An address register read through M0 alone, without its circular
buffer, moves by its increment of 64-byte lines modulo 2^18; with neither M bit no address register changes. -/
def Obligations.SignalData : Prop :=
  ∀ (row : Instr) (s : State) (n op : Nat) (f : Inflight) (pc : Nat) (i : BitVec 64) (a b : BitVec 512),
    sigDataOf row = some (n, op) → sigHere s n f pc i → sigOp i = op →
    let e := sigAt s n
    let ar0 := sigF i 44 42
    let ar1 := sigF i 40 38
    let m0 := sigF i 41 41 == 1 && sigReadsA op
    let m1 := sigF i 37 37 == 1 && (sigReadsB op || op == 3)
    let slot := e.lim.any (fun l => l.1 == 2 && decide (l.2.1 ≤ e.adr ar1) && decide (e.adr ar1 + 64 ≤ l.2.1 + l.2.2))
    sigOperand s n (sigReadsA op) m0 ar0 (sigVa i) = .ok a → sigOperand s n (sigReadsB op) m1 ar1 (sigVb i) = .ok b →
    (op = 3 → lineOk e ar1 = true) →
    Acts row s (fun t =>
      let v := sigAt t n
      v.pc = some (pc + 1) ∧ v.rep = 0 ∧ (∃ g, sigFly t n = some g ∧ g.cost = f.cost + 1 ∧ g.unit = f.unit ∧
        (op ≠ 3 → g.out = f.out) ∧ (op = 3 → slot = false →
          g.out = f.out ++ [{ space := 1, addr := e.adr ar1, data := bytesLe 64 a.toNat, poison := false }])) ∧
      (∀ x, sigResult i a b = some x → v.vec (sigVd i) = x) ∧
      (sigResult i a b = none → op ≠ 9 → ∀ r, v.vec r = e.vec r) ∧ (∀ r, r ≠ sigVd i → v.vec r = e.vec r) ∧
      (op ≠ 8 → op ≠ 9 → ∀ r k p, v.accPart r k p = e.accPart r k p) ∧
      (op = 8 → ∀ k < 16, v.accPart (sigVd i % 4) k 0 =
          fitTo (sigSat i) 40 (e.accPart (sigVd i % 4) k 0 + (cmulAt false a b k).1) ∧
        v.accPart (sigVd i % 4) k 1 = fitTo (sigSat i) 40 (e.accPart (sigVd i % 4) k 1 + (cmulAt false a b k).2)) ∧
      (op = 9 → v.vec (sigVd i) = packCplx (sigSat i) (sigShift i) (fun k =>
          (e.accPart (sigVa i % 4) k 0, e.accPart (sigVa i % 4) k 1)) ∧
        ∀ k < 16, v.accPart (sigVa i % 4) k 0 = 0 ∧ v.accPart (sigVa i % 4) k 1 = 0) ∧
      t.mems = (if op = 3 ∧ slot = true then (chipWrite s n 1 (e.adr ar1) (bytesLe 64 a.toNat) false).mems else s.mems) ∧
      (m0 = true → m1 = false → sigF i 28 28 = 0 →
        v.adr ar0 = (((e.adr ar0 : Int) + toS 4 (sigF i 36 33) * 64) % 2 ^ 18).toNat % 2 ^ 18) ∧
      (m0 = false → m1 = false → ∀ r, v.adr r = e.adr r))

/-- SETA, SETCB, BNZ, REP and SIG_END at the kernel's place, without a REP before them. SETA writes IMM16 times 4 plus the
scalar to an address register (18 bits); SETCB writes the base and the length of a circular buffer; BNZ lowers its scalar by
one and jumps to IMM16, within the signal section, where it is not 0, else goes on; REP, before an instruction that is none of
REP, END and BNZ, makes the next instruction run IMM16 + 1 times. Each takes one cycle. SIG_END of the last unit of a command
alone in flight whose pointers are bound to no queue ends the unit, and the engine is idle. -/
def Obligations.SignalControl : Prop :=
  ∀ (s : State) (n : Nat) (f : Inflight) (pc : Nat) (i : BitVec 64), sigHere s n f pc i →
    let e := sigAt s n
    let cost (t : State) : Prop := ∃ g, sigFly t n = some g ∧ g.cost = f.cost + 1 ∧ g.unit = f.unit
    (sigOp i = 0x10 → Acts (.seta n) s (fun t => (sigAt t n).pc = some (pc + 1) ∧ cost t ∧ t.mems = s.mems ∧
      (sigAt t n).adr (sigVd i % 8) = (sigImm i * 4 + (e.sca (sigVa i % 8)).toNat) % 2 ^ 18 ∧
      ∀ r, r ≠ sigVd i % 8 → (sigAt t n).adr r = e.adr r)) ∧
    (sigOp i = 0x11 → Acts (.setcb n) s (fun t => (sigAt t n).pc = some (pc + 1) ∧ cost t ∧ t.mems = s.mems ∧
      (sigAt t n).cbuf (sigVd i % 8) = (sigImm i, (e.sca (sigVa i % 8)).toNat) ∧
      ∀ r, r ≠ sigVd i % 8 → (sigAt t n).cbuf r = e.cbuf r)) ∧
    (sigOp i = 0x12 → (e.sca (sigVd i % 8) ≠ 1 → sigImm i < (ctxAt s ((coreAt s n).slot f.slot).ctx).img.kern) →
      Acts (.bnz n) s (fun t => cost t ∧ t.mems = s.mems ∧ (sigAt t n).sca (sigVd i % 8) = e.sca (sigVd i % 8) - 1 ∧
        (sigAt t n).pc = some (if e.sca (sigVd i % 8) = 1 then pc + 1 else sigImm i))) ∧
    (sigOp i = 0x01 →
      sigOp (fetchKern s n ((coreAt s n).slot f.slot) (ctxAt s ((coreAt s n).slot f.slot).ctx).img (pc + 1)) ∉ [0, 1, 0x12] →
      Acts (.rep n) s (fun t => (sigAt t n).pc = some (pc + 1) ∧ (sigAt t n).rep = sigImm i + 1 ∧ cost t ∧ t.mems = s.mems)) ∧
    (sigOp i = 0x00 → (coreAt s n).fly = [f] → f.units = f.unit + 1 → boundPtrs f.cmd = [] →
      boundQ f.cmd (outPtr f.cmd) = none →
      Acts (.sigEnd n) s (fun t => (sigAt t n).pc = none ∧ t.mems = s.mems ∧
        ∃ g, (coreAt t n).fly = [g] ∧ g.unit = f.unit + 1 ∧ g.cost = f.cost + 1 ∧ g.flags = f.flags))

/-- COMMAND_COMPLETE, DATAQ_PUSH and DATAQ_FREE where no command in flight has a unit left to run and the held time is counted
up to now. The only command in flight, in no link group and behind no replay, that has reached completion: its staged outputs
become visible under the windows it was issued with (a share of a SHARED_REDUCE then combines with the others and adds the
flags of that step), its flags are OR-ed into the context's, its signal raises its context or cluster counter (where that does not pass 65,535), a
BOUNDARY's stream goes on at NEXT or parks there while a reload is armed, and nothing stays in flight. DATAQ_PUSH pushes one
entry that is written and not yet pushed, DATAQ_FREE frees one that is read through; no other count of any data queue of the
context changes. -/
def Obligations.CommandCompletes : Prop :=
  (∀ (s : State) (n st : Nat) (f : Inflight), accumHeld s n = s → (coreAt s n).fly = [f] → f.stream = st → f.replay = none →
    reached s n f = true →
    let x := ((coreAt s n).slot f.slot).ctx
    let y := ctxAt s x
    let r := commitOut n x (underWins s y f) f
    y.img.link f.idx = 0 → mayStay s n x → behindReplay s x f = false → (signalToken s n x f.cmd).isSome = true →
    Acts (.commandComplete n st) s (fun t =>
      (coreAt t n).fly = [] ∧ t.mems = r.1.mems ∧ (ctxAt t x).flags = y.flags ||| f.flags ||| r.2 ∧
      (y.img.reds.getD (y.img.rel f.idx) none = none →
        t.mems = (forEach f.out (commitWrite n) (underWins s y f)).mems ∧ (ctxAt t x).flags = y.flags ||| f.flags) ∧
      (cmdSigN f.cmd = 0 → (ctxAt t x).live.tokens = y.live.tokens ∧ t.clTok = s.clTok) ∧
      (cmdSigN f.cmd ≠ 0 → cmdSigCluster f.cmd = false → t.clTok = s.clTok ∧
        (ctxAt t x).live.token (cmdSigIdx f.cmd) = y.live.token (cmdSigIdx f.cmd) + cmdSigN f.cmd) ∧
      (cmdSigN f.cmd ≠ 0 → cmdSigCluster f.cmd = true → (ctxAt t x).live.tokens = y.live.tokens ∧
        clTokAt t (n / 8) (cmdSigIdx f.cmd) = clTokAt s (n / 8) (cmdSigIdx f.cmd) + cmdSigN f.cmd) ∧
      (cmdOp f.cmd ≠ Opc.boundary → (ctxAt t x).live.streams = y.live.streams) ∧
      (cmdOp f.cmd = Opc.boundary → ((coreAt s n).slot f.slot).armed = false →
        ((ctxAt t x).live.stream st).pc = cmdF f.cmd 191 180) ∧
      (cmdOp f.cmd = Opc.boundary → ((coreAt s n).slot f.slot).armed = true →
        ((ctxAt t x).live.stream st).parked = some (cmdF f.cmd 191 180) ∧
        ((ctxAt t x).live.stream st).pc = (y.live.stream st).pc))) ∧
  (∀ (s : State) (n q c : Nat), accumHeld s n = s → unitsDone s n → (coreAt s n).run = some c →
    let x := ((coreAt s n).slot c).ctx
    let d := (ctxAt s x).live.dataq q
    (d.pushed < d.written → Acts (.dataqPush n q) s (fun t =>
      (ctxAt t x).live.dataq q = { d with pushed := d.pushed + 1 } ∧ t.mems = s.mems ∧
      ∀ p, p ≠ q → (ctxAt t x).live.dataq p = (ctxAt s x).live.dataq p)) ∧
    (d.freed < d.readDone → Acts (.dataqFree n q) s (fun t =>
      (ctxAt t x).live.dataq q = { d with freed := d.freed + 1 } ∧ t.mems = s.mems ∧
      ∀ p, p ≠ q → (ctxAt t x).live.dataq p = (ctxAt s x).live.dataq p)))

/-- CONTEXT_SWITCH, HELD_TIMEOUT, TENANT_BOUND_EXPIRY, WAIT_MEM_POLL and GATE_REACH_CORE, the held time counted up to now.
A switch with nothing in flight away from a context that may be left runs the best resident, saves the pointers of the one it
leaves, and makes the core's memories read as unwritten where the function changes. A context held for 1 ms without progress
is FAULTED with SYNC_CYCLE, one whose TENANT command outlives its bound with GUARD_EXCEEDED (each of a function that is not
being frozen); a SIGNAL command inside a repeat is only marked, to be aborted when the repeat ends. A poll reads the word of a
TENANT WAIT_MEM at the head of stream 0 of the running context, in local memory, where that word and no other is due: 250 ns
after the last read. A gate change reaches the core once it is due and leaves the way to the core. -/
def Obligations.CoreSwitches : Prop :=
  (∀ (s : State) (n c : Nat), accumHeld s n = s → (coreAt s n).fly = [] → mayLeave s n = true → bestSlot s n = some c →
    (coreAt s n).run ≠ some c →
    Acts (.contextSwitch n) s (fun t =>
      let k := coreAt s n
      let fn := (ctxAt s (k.slot c).ctx).fn
      (coreAt t n).run = some c ∧ (coreAt t n).lastFn = some fn ∧
      (∀ d, k.run = some d → (ctxAt t (k.slot d).ctx).saved.tokens = (ctxAt s (k.slot d).ctx).live.tokens ∧
        (ctxAt t (k.slot d).ctx).saved.dataqs = (ctxAt s (k.slot d).ctx).live.dataqs ∧
        ∀ st < 4, ((ctxAt t (k.slot d).ctx).saved.stream st).pc = ((ctxAt s (k.slot d).ctx).live.stream st).pc) ∧
      t.mems = if k.lastFn.isSome ∧ k.lastFn ≠ some fn then (markUnwritten s n).mems else s.mems)) ∧
  (∀ (s : State) (n c : Nat), accumHeld s n = s → (coreAt s n).run = some c → allHeld s n c = true →
    1000000 ≤ heldTime s n c →
    let x := ((coreAt s n).slot c).ctx
    (fnAt s (ctxAt s x).fn).freezing = false →
    Acts (.heldTimeout n) s (fun t => (ctxAt t x).state = 4 ∧ (ctxAt t x).code = Code.syncCycle ∧ (ctxAt t x).core = none)) ∧
  (∀ (s : State) (n st b : Nat) (f : Inflight), accumHeld s n = s → (coreAt s n).fly = [f] → f.stream = st →
    f.bound = some b → f.issuedAt + b ≤ nowNs s →
    let x := ((coreAt s n).slot f.slot).ctx
    (st = 3 → (sigAt s n).rep ≠ 0 → Acts (.tenantBoundExpiry n st) s (fun t => (sigAt t n).late = true ∧
      (coreAt t n).fly = [f] ∧ t.ctxs = s.ctxs ∧ t.mems = s.mems)) ∧
    (¬(st = 3 ∧ (sigAt s n).rep ≠ 0) → f.replay = none → (fnAt s (ctxAt s x).fn).freezing = false →
      Acts (.tenantBoundExpiry n st) s (fun t =>
        (ctxAt t x).state = 4 ∧ (ctxAt t x).code = Code.guardExceeded ∧ (ctxAt t x).core = none))) ∧
  (∀ (s : State) (n c : Nat) (h : Head), accumHeld s n = s → unitsDone s n → c < 4 → (coreAt s n).run = some c →
    headOf s n c 0 = some h → wordDue s n c 0 h = true →
    (∀ d u k, (d, u) ≠ (c, 0) → headOf s n d u = some k → wordDue s n d u k = false) →
    let x := ((coreAt s n).slot c).ctx
    let y := ctxAt s x
    let p := headP0 s n ((coreAt s n).slot c) h
    let sp := (accOf h.cmd).sp0
    isRemote s sp p = false → rangeCode s (rightsOf y (mkFly s n c 0 h)) none sp p 4 false = Code.done →
    ((localBytes s n sp p 4).any (·.2)) = false →
    Acts (.waitMemPoll n) s (fun t => ((ctxAt t x).live.stream 0).poll = nowNs s ∧ t.mems = s.mems ∧
      ((ctxAt t x).live.stream 0).word = some (leNat ((localBytes s n sp p 4).map (·.1))))) ∧
  (∀ (s : State) (n : Nat) (m : GateMsg) (rest : List GateMsg), n < 128 → gatePath s n = m :: rest → m.due ≤ s.clk.elapsed →
    Acts (.gateReachCore n) s (fun t => coreGates t n = m.gates ∧ gatePath t n = rest ∧
      ∀ o, o ≠ n → coreGates t o = coreGates s o ∧ gatePath t o = gatePath s o))

/-- DYNQ_PUSH, DBG_HALT, DBG_RESUME, DBG_STEP and ARITH_FLAGS_CLEAR. A write of the low word is held; a write of the high word
to a slot with a context appends the entry to the stream's dynamic queue where it has room for one, and otherwise, in N2 queue mode, stalls the
control processor. On the slot of CORE_DBG_CTRL, where its image enables debug: HALT stops its issue with cause 0, shown in
`CORE_DBG_STATUS` at once where nothing of the slot is in flight and kept for the end of its commands in flight otherwise; RESUME ends the halt, and the
stream of the break may issue its command past the break; STEP lets that stream issue one command of the halted context. Without debug each only sets DENIED. Flags written as ones are cleared, others stay. -/
def Obligations.CoreDebug : Prop :=
  (∀ (s : State) (n c st : Nat) (v : Word), c < 4 → st < 4 → (coreAt s n).stall = none → (coreAt s n).cpHalted = false →
    let x := ((coreAt s n).slot c).ctx
    let low := mapGet (fun _ => 0) (coreAt s n).pushLow (4 * c + st)
    let q := ((ctxAt s x).live.stream st).dynq
    Acts (.dynqPush n c st false v) s (fun t =>
      mapGet (fun _ => 0) (coreAt t n).pushLow (4 * c + st) = v.toNat ∧ t.ctxs = s.ctxs ∧ t.regs = s.regs) ∧
    (((coreAt s n).slot c).valid = true → q.length < 32 → Acts (.dynqPush n c st true v) s (fun t =>
      ((ctxAt t x).live.stream st).dynq = q ++ [BitVec.ofNat 64 (low + v.toNat * 2 ^ 32)] ∧ t.cores = s.cores ∧ t.regs = s.regs)) ∧
    (((coreAt s n).slot c).valid = true → ¬q.length < 32 → (ctxAt s x).img.pacing ≠ 0 → Acts (.dynqPush n c st true v) s (fun t =>
      (coreAt t n).stall = some (c, st, low + v.toNat * 2 ^ 32) ∧ t.ctxs = s.ctxs))) ∧
  (∀ (s : State) (n : Nat), s.sound → n < 128 → accumHeld s n = s →
    let c := s.get CORE_DBG_CTRL.SLOT n
    let z := (coreAt s n).slot c
    z.valid = true →
    ((ctxAt s z.ctx).img.debug = true →
      (z.halted = false → Acts (.dbgHalt n) s (fun t => ((coreAt t n).slot c).halted = true ∧ t.ctxs = s.ctxs ∧
        (((coreAt s n).fly.any (fun f => f.slot == c)) = false →
          t.get CORE_DBG_STATUS.CAUSE n = 0 ∧ ((coreAt t n).slot c).brk = none) ∧
        (((coreAt s n).fly.any (fun f => f.slot == c)) = true →
          ∃ st tag, st < 4 ∧ ((coreAt t n).slot c).brk = some (st, 0, tag)))) ∧
      (z.halted = true → Acts (.dbgResume n) s (fun t => ((coreAt t n).slot c).halted = false ∧ t.regs = s.regs ∧
        ((coreAt t n).slot c).resumed = some (breakStream s n c))) ∧
      (z.halted = true → Acts (.dbgStep n) s (fun t => ((coreAt t n).slot c).halted = true ∧ t.regs = s.regs ∧
        ((coreAt t n).slot c).stepOn = some (breakStream s n c)))) ∧
    ((ctxAt s z.ctx).img.debug = false → ∀ i ∈ [Instr.dbgHalt n, .dbgResume n, .dbgStep n], Acts i s (fun t =>
      t.get CORE_DBG_STATUS.DENIED n = 1 ∧ t.cores = s.cores ∧ t.ctxs = s.ctxs ∧ regsBut [CORE_DBG_STATUS.DENIED.addr n] s t))) ∧
  (∀ (s : State) (n c : Nat) (v : Word), n < 128 → c < 4 → ((coreAt s n).slot c).valid = true →
    Acts (.arithFlagsClear n c v) s (fun t => ∀ b < 32,
      ((ctxAt t ((coreAt s n).slot c).ctx).flags.testBit b = true ↔
        (ctxAt s ((coreAt s n).slot c).ctx).flags.testBit b = true ∧ v.getLsbD b = false)))

/-- IMAGE, IMAGE_RELOAD, IMAGE_COPY and RELOAD_BANK_SWITCH. IMAGE fetches the entry and, where its bytes cannot be read or a check
refuses them, writes one result record with the code and the reason and defines nothing; where the checks accept it and the
contexts are there, one IDLE context for each share stands in the lowest free numbers, in the order of their ranks, all of one
group, and the result record says DONE with the bound. IMAGE_RELOAD past its checks sets the slot to await its window with the
sealed image at the address given. IMAGE_COPY in a window in which it fits writes an image with the right hallmark into the
standby bank and runs as an activity; with a wrong hallmark it writes nothing and ends the reload with HALLMARK_REJECT. The bank
switch of an armed slot whose four streams rest turns to the other bank and the new image; a parked stream goes on at its
NEXT, an idle one stands at the end of its commands. -/
def Obligations.ImageLoading : Prop :=
  (∀ (s : State) (f : Nat) (e : Ent), entryReady s f 0 e →
    let h := fetched s f
    (∀ r, imageBytes h f e.a = .error r →
      Acts (.image f) s (fun t => headMoved s t f ∧ resultWritten s t f (resultBytes s r 0 0) ∧ t.ctxs = s.ctxs ∧
        t.groups = s.groups ∧ t.images = s.images)) ∧
    (∀ b, imageBytes h f e.a = .ok b →
      (∀ r, loadImage h f b = .error r →
        Acts (.image f) s (fun t => headMoved s t f ∧ resultWritten s t f (resultBytes s r (le b 0xC 4) 0) ∧ t.ctxs = s.ctxs ∧
          t.groups = s.groups ∧ t.images = s.images)) ∧
      (∀ l, loadImage h f b = .ok l → l.shares ≠ [] → l.shares.length ≤ (freeCtxs s).length →
        (ctxsOf s f).length + l.shares.length ≤ ctxLimit s f →
        let xs := (freeCtxs s).take l.shares.length
        Acts (.image f) s (fun t => headMoved s t f ∧
          resultWritten s t f (resultBytes s { code := Code.done, reason := 0 } (le b 0xC 4) l.boundNs) ∧
          (∀ i x g, xs[i]? = some x → l.shares[i]? = some g → (ctxAt t x).state = 1 ∧ (ctxAt t x).fn = f ∧
            (ctxAt t x).rank = i ∧ (ctxAt t x).group = xs.headD 0 ∧ (ctxAt t x).img = g ∧ (ctxAt t x).job = false ∧
            (ctxAt t x).counters = g.counters) ∧
          (∀ x, x ∉ xs → ctxAt t x = ctxAt s x) ∧
          groupAt t (xs.headD 0) = { ctxs := xs, fn := f, serial := s.serial + 1 } ∧ t.serial = s.serial + 1)))) ∧
  (∀ (s : State) (rq : Requester), mbxReady s rq 0x02 → reloadCheck (mbxTaken s rq 0x02) = Code.done →
    let n := s.get MBX_ARG 0 % 128
    let c := s.get MBX_ARG 0 / 256 % 4
    let a := s.get MBX_ARG 1 + s.get MBX_ARG 2 * 2 ^ 32
    Acts (.imageReload rq) s (fun t => t.mbx.op = some 0x02 ∧ t.mbx.code = none ∧ t.get MBX_STATUS.BUSY = 1 ∧
      (coreAt t n).slot c = { (coreAt s n).slot c with copying := true, reload := some ((sealedAt s a).getD {}), reloadAt := a } ∧
      (∀ d, d ≠ c → (coreAt t n).slot d = (coreAt s n).slot d) ∧ t.ctxs = s.ctxs ∧ t.mems = s.mems)) ∧
  (∀ (s : State) (n c : Nat) (g : Img), n < 128 → c < 4 → ((coreAt s n).slot c).copying = true →
    ((coreAt s n).slot c).reload = some g → (coreAt s n).maint.any (fun a => a.kind == Act.imageCopy && a.arg == c) = false →
    coreServes s n = true → actFits s n (actLen Act.imageCopy g.bytes.length) = true →
    let z := (coreAt s n).slot c
    (hallmarkOk s z.reloadAt g = true → Acts (.imageCopy n c) s (fun t =>
      (∀ i < g.bytes.length, rdM t.mems.cmd (n * 0x40000 + (1 - z.bank) * cmdBankBytes + z.base * 256 + i) = g.bytes.getD i 0) ∧
      (coreAt t n).maint = (coreAt s n).maint ++
        [{ kind := Act.imageCopy, arg := c, endAt := now10 s + actLen Act.imageCopy g.bytes.length }] ∧
      (coreAt t n).slot c = z ∧ t.ctxs = s.ctxs)) ∧
    (hallmarkOk s z.reloadAt g = false → Acts (.imageCopy n c) s (fun t =>
      (coreAt t n).slot c = { z with copying := false, reload := none } ∧ t.mems = s.mems ∧ t.ctxs = s.ctxs ∧
      (reloadAsked s n c = true → t.mbx.code = some Code.hallmarkReject)))) ∧
  (∀ (s : State) (n c : Nat) (g : Img), ((coreAt s n).slot c).valid = true → ((coreAt s n).slot c).armed = true →
    (∀ st < 4, streamRests s n c st = true) → ((coreAt s n).slot c).reload = some g →
    let z := (coreAt s n).slot c
    let old := ctxAt s z.ctx
    Acts (.reloadBankSwitch n c) s (fun t =>
      (coreAt t n).slot c = { z with bank := 1 - z.bank, armed := false, reload := none, switches := (z.switches + 1) % 65536 } ∧
      (ctxAt t z.ctx).img = g ∧ (ctxAt t z.ctx).imageAddr = z.reloadAt ∧ (ctxAt t z.ctx).flags = old.flags ∧
      (ctxAt t z.ctx).live.tokens = old.live.tokens ∧
      ∀ st < 4, ((ctxAt t z.ctx).live.stream st).parked = none ∧
        ((ctxAt t z.ctx).live.stream st).pc = (old.live.stream st).parked.getD (g.last.getD st 0) ∧
        ((ctxAt t z.ctx).live.stream st).count = (old.live.stream st).count))

/-- STACK_RETIRE, STRIPE_MAP_SWITCH, STACK_MOVE_UNIT_COPY, SCRUB_BURST, MEMCH_START and SCRUB_RESTART. STACK_RETIRE past its
checks ends with DONE, the stack STOPPING and MOVING, MEM_TOP 48 GiB lower for each stack gone. The map switch puts the new
stripe map in force, every entry of it, and keeps the old one. The copy of a unit that its pace allows raises MEM_MOVE_DONE,
leaves the data as it is, poisons the unit whose read had an uncorrectable error or whose stack has failed, and goes on to the
next unit; after the last the stack is RETIRED and no longer live. A scrub burst that is due raises one locked request of eight
beats by requester 25, counts and poisons the beats with uncorrectable errors, and steps the pass on; on a channel whose
scrubber does not run it shows none. A START of a live STOPPED channel in a domain that is on makes it RUNNING; the restart
takes the pass back to its begin. (The placement of bursts and pseudo-channels is free, log 22; the pace is log 354.) -/
def Obligations.StackRetirement : Prop :=
  (∀ (s : State) (rq : Requester), mbxReady s rq 0x10 → retireStackCheck (mbxTaken s rq 0x10) = Code.done →
    let m := s.get MBX_ARG 0
    Acts (.stackRetire rq) s (fun t => t.get MEM_TOP = ((liveStacks s).length - 1) * 48 ∧
      t.get MEMCH_STATUS.STATE m = Fn.stopping ∧ t.get MEMCH_STATUS.SCRUB_ACTIVE m = 0 ∧ t.get MEM_STATUS.MOVING = 1 ∧
      t.get MEM_STATUS.MOVE_STACK = m ∧ t.get MEM_STATUS.LIVE = s.get MEM_STATUS.LIVE ∧ t.get MEM_MOVE_DONE = 0 ∧
      t.mbx.code = some Code.done ∧ t.mems = s.mems)) ∧
  (∀ s : State, s.sound → s.bit MEM_STATUS.MOVING = true → s.move.on = false →
    let new := newMap (liveStacks s) (s.get MEM_STATUS.MOVE_STACK) (stripeList s)
    Acts .stripeMapSwitch s (fun t => t.move.on = true ∧ t.move.old = stripeList s ∧ t.mems = s.mems ∧
      ∀ b < 4096, stripeOf t b = if new.getD b 16 = 16 then none else some (new.getD b 16))) ∧
  (∀ (s : State) (ces : List Nat) (ue : Bool), s.sound → s.bit MEM_STATUS.MOVING = true → s.move.on = true →
    1024 ≤ moveAllow s →
    let a := (s.move.row * 4096 + s.move.bucket) * 1024
    let m := s.get MEM_STATUS.MOVE_STACK
    match nextUnit s (liveStacks s) (survivors s) 4097 s.move.bucket (s.move.row + 1) with
    | some p =>
      Acts (.stackMoveUnitCopy ⟨ces, ue⟩) s (fun t => t.get MEM_MOVE_DONE = (s.get MEM_MOVE_DONE + 1) % 2 ^ 28 ∧
        t.move.bucket = p.1 ∧ t.move.row = p.2 ∧ t.get MEM_STATUS.MOVING = 1 ∧ t.mems.dev = s.mems.dev ∧
        (ue = true ∨ s.get MEMCH_STATUS.STATE m = Fn.faulted → ∀ g < 16, mapGet clean0 t.mems.pDev (a / 64 + g) = true))
    | none =>
      Acts (.stackMoveUnitCopy ⟨ces, ue⟩) s (fun t => t.get MEM_STATUS.MOVING = 0 ∧ t.get MEMCH_STATUS.STATE m = Fn.retired ∧
        t.get MEM_STATUS.LIVE = s.get MEM_STATUS.LIVE - 2 ^ m ∧ t.move = { quotaDue := true })) ∧
  (∀ (s : State) (m : Nat) (ces ues : List Nat), s.sound → m < 16 →
    (s.get MEMCH_STATUS.STATE m ≠ Fn.running → Acts (.scrubBurst m ces ues) s (fun t =>
      t.get MEMCH_STATUS.SCRUB_ACTIVE m = 0 ∧ t.scrub = s.scrub ∧ t.mems = s.mems)) ∧
    (∀ b, s.get MEMCH_STATUS.STATE m = Fn.running → (scrubAt s m).since = some b → b ≤ nowNs s →
      (scrubAt s m).next * scrubTime s m ≤ (nowNs s - b) * stackBursts →
      let p := scrubAt s m
      let a := Config.scrubUnit m p.next * 1024 + p.next % 4 * 256
      let k := 64 * m + Config.pseudoChannel (a / 1024) (p.next % 4) % 64
      Acts (.scrubBurst m ces ues) s (fun t => t.get MEMCH_STATUS.SCRUB_ACTIVE m = 1 ∧ scrubAt t m = p.step (scrubTime s m) ∧
        t.get MEMCH_SCRUB_PROGRESS m = (p.step (scrubTime s m)).next * 1000 / stackBursts % 2 ^ 10 ∧
        (arbAt t k).queue 25 = (arbAt s k).queue 25 ++ [{ stamp := nowN s, beats := 8, lock := true }] ∧
        t.get MEMCH_UE_COUNT m = min (s.get MEMCH_UE_COUNT m + ues.length) (2 ^ 32 - 1) ∧
        (∀ g ∈ ues, mapGet clean0 t.mems.pDev ((a + g % 4 * 64) / 64) = true) ∧ t.mems.dev = s.mems.dev))) ∧
  (∀ (s : State) (m : Nat), s.sound → m < 16 → domOn s (144 + m) = true →
    ((s.get MEM_STATUS.LIVE).testBit m = true → s.get MEMCH_STATUS.STATE m = Fn.stopped →
      Acts (.memchStart m) s (fun t => t.get MEMCH_STATUS.STATE m = Fn.running)) ∧
    Acts (.scrubRestart m) s (fun t => t.get MEMCH_SCRUB_PROGRESS m = 0 ∧ scrubAt t m = { next := 0, since := some (nowNs s) }))

/-- ARBITER_GRANT, URGENCY_PROMOTION, QUOTA_WINDOW_START and ARB_REQ_WRITE. A grant at an arbiter that the matrix feed does not
hold gives one run of beats, up to the next break point: to the owner while its sequence is LOCKED, or while no better request
of higher rank waits and its burst limit is not spent; else to the best request (grantedTo). The request's beats are fewer by
the run, a request wholly granted gives way to the next, the others wait as before and no other arbiter moves. A promotion makes
the oldest request over its limit DEADLINE and counts it. A new window unmasks every requester and zeroes the counts. A write of
an entry with a rank or override of 3 or a HIGH sum above 452 is rejected with ARB_WRITE_REJECT and keeps the entry; another
stores the word with its LOCK_OK bit, and of a cluster port also its rank and quota, as they were, and the new sum. -/
def Obligations.Arbitration : Prop :=
  (∀ (s : State) (a : ArbiterId) (r : Nat) (fresh : Bool), feedHolds s (arbKey a) = false →
    grantedTo (noteDeferred s (arbKey a)) (arbKey a) = some (r, fresh) →
    let k := arbKey a
    let x := arbAt (noteDeferred s k) k
    let q := x.req r
    let d := min q.beats (arbBreak k)
    Acts (.arbiterGrant a) s (fun t => (arbAt t k).owner = (if q.beats - d = 0 then none else some r) ∧
      (arbAt t k).spent = (if fresh then 0 else x.spent) + d ∧
      (arbAt t k).queue r = (if q.beats - d = 0 then nextTurn q.core ((x.queue r).drop 1)
        else { q with beats := q.beats - d } :: (x.queue r).drop 1) ∧
      (∀ r', r' ≠ r → (arbAt t k).queue r' = x.queue r') ∧ (∀ k', k' ≠ k → arbAt t k' = arbAt s k') ∧ t.mems = s.mems)) ∧
  (∀ (s : State) (a : ArbiterId) (r : Nat) (l : List ArbReq), s.sound → (arbCfg s (arbKey a) r).urg ≠ 0 →
    ¬((arbCfg s (arbKey a) r).rank = 2 ∧ (arbAt s (arbKey a)).masked.elem r = true) →
    promoteFirst (nowN s) (arbCfg s (arbKey a) r).urg ((arbAt s (arbKey a)).queue r) = some l →
    let k := arbKey a
    Acts (.urgencyPromotion a r) s (fun t => (arbAt t k).queue r = l ∧
      (∀ r', r' ≠ r → (arbAt t k).queue r' = (arbAt s k).queue r') ∧
      (k < 65536 → t.get MEMCH_ARB_PROMOTED (k / 64) = (s.get MEMCH_ARB_PROMOTED (k / 64) + 1) % 2 ^ 32))) ∧
  (∀ (s : State) (a : ArbiterId), s.sound → (arbAt s (arbKey a)).window ≠ nowN s / arbWindow (arbKey a) →
    let k := arbKey a
    Acts (.quotaWindowStart a) s (fun t => (arbAt t k).window = nowN s / arbWindow k ∧ (arbAt t k).counts = [] ∧
      (arbAt t k).masked = [] ∧ (arbAt t k).promo = 0 ∧ (arbAt t k).owner = (arbAt s k).owner ∧
      (k < 65536 → s.move.quotaDue = true → t.move.quotaDue = false ∧
        t.get MEM_CLUSTER_QUOTA = (320 + (liveStacks s).length - 1) / max 1 (liveStacks s).length % 2 ^ 8))) ∧
  (∀ (s : State) (r : Nat) (v : Word), s.sound → r < 29 →
    let o := MEM_ARB_REQ.W.addr r
    let old := rdReg s o
    let v1 := putBits v 11 1 (getBits old 11 1)
    let v2 := if r < 16 then putBits v1 20 12 (getBits old 20 12) else v1
    if getBits v2 30 2 = 3 ∨ getBits v2 28 2 = 3 ∨ 452 < highSum s r v2 then
      Acts (.arbReqWrite r v) s (fun t => t.get MEM_STATUS.ARB_WRITE_REJECT = 1 ∧ rdReg t o = old)
    else
      Acts (.arbReqWrite r v) s (fun t => rdReg t o = v2 ∧ t.get MEM_HIGH_SUM = highSum s r v2 ∧
        t.get MEM_STATUS.ARB_WRITE_REJECT = s.get MEM_STATUS.ARB_WRITE_REJECT))

/-- HOST_START, HOST_STOP, FN_START, FN_STOP, NUMVFS_WRITE, HOST_LINK_CHANGE, WIN_COMMIT and WIN_READ. In a domain that is on, a
START takes the STOPPED host interface to RUNNING, and a STOPPED function set that is present to RUNNING, or to FAULTED with
BAD_ARGUMENT where a ring size lies outside 4 to 12. A STOP of the RUNNING interface leaves no function set RUNNING; a STOP of a
RUNNING function set leaves it STOPPED where it has no job and no record waits, else STOPPING; one that is FAULTED becomes STOPPED
(log 338). NumVFs makes the functions below it present and the others ABSENT. A COMMIT publishes its code; one that passes waits for
the cycle start while the Calendar is active and else gives the window at once the staged values; one that is refused changes no
window. READ loads the staging registers from the window. -/
def Obligations.HostInterface : Prop :=
  (∀ s : State, s.sound → domOn s 197 = true → s.get HOST_STATUS.STATE = Fn.stopped →
    Acts .hostStart s (fun t => t.get HOST_STATUS.STATE = Fn.running ∧ t.get HOST_STATUS.FAULT_CODE = Code.done)) ∧
  (∀ s : State, s.sound → s.get HOST_STATUS.STATE = Fn.running →
    Acts .hostStop s (fun t => (t.get HOST_STATUS.STATE = Fn.stopping ∨ t.get HOST_STATUS.STATE = Fn.stopped) ∧
      ∀ f ≤ 256, t.get HOST_FN_STATUS.STATE f ≠ Fn.running)) ∧
  (∀ (s : State) (f : Nat), s.sound → f ≤ 256 → domOn s 197 = true → fnHere s f = true →
    s.get HOST_FN_STATUS.STATE f = Fn.stopped →
    let fits (k : Nat) : Prop := 4 ≤ k ∧ k ≤ 12
    (fits (s.get HOST_FN_RING_SIZE.SUB f) ∧ fits (s.get HOST_FN_RING_SIZE.RES f) ∧ fits (s.get HOST_FN_RING_SIZE.CPL f) →
      Acts (.fnStart f) s (fun t => t.get HOST_FN_STATUS.STATE f = Fn.running)) ∧
    (¬(fits (s.get HOST_FN_RING_SIZE.SUB f) ∧ fits (s.get HOST_FN_RING_SIZE.RES f) ∧ fits (s.get HOST_FN_RING_SIZE.CPL f)) →
      Acts (.fnStart f) s (fun t => t.get HOST_FN_STATUS.STATE f = Fn.faulted ∧
        t.get HOST_FN_STATUS.FAULT_CODE f = Code.badArgument))) ∧
  (∀ (s : State) (f : Nat), s.sound → f ≤ 256 → (fnAt s f).flr = 0 →
    let idle := (∀ g ∈ mapKeys s.groups, (groupAt s g).fn = f → (groupAt s g).job = none ∧ (groupAt s g).waiting = []) ∧
      (fnAt s f).resWait = [] ∧ (fnAt s f).cplWait = []
    (s.get HOST_FN_STATUS.STATE f = Fn.running → idle → Acts (.fnStop f) s (fun t => t.get HOST_FN_STATUS.STATE f = Fn.stopped)) ∧
    (s.get HOST_FN_STATUS.STATE f = Fn.running → ¬idle →
      Acts (.fnStop f) s (fun t => t.get HOST_FN_STATUS.STATE f = Fn.stopping)) ∧
    (s.get HOST_FN_STATUS.STATE f = Fn.faulted → Acts (.fnStop f) s (fun t => t.get HOST_FN_STATUS.STATE f = Fn.stopped))) ∧
  (∀ (s : State) (n : Nat), s.sound → Acts (.numvfsWrite n) s (fun t => t.get HOST_NUM_VF = min n 256 ∧
    ∀ f < 256, t.get HOST_FN_STATUS.STATE f =
      if f < min n 256 then if s.get HOST_FN_STATUS.STATE f = Fn.absent then Fn.stopped else s.get HOST_FN_STATUS.STATE f
      else Fn.absent)) ∧
  (∀ (s : State) (up : Bool), s.sound → Acts (.hostLinkChange up) s (fun t =>
    (t.get HOST_STATUS.LINK_UP = 1 ↔ up = true ∧ s.vig.perst = false) ∧ t.get HOST_STATUS.STATE = s.get HOST_STATUS.STATE)) ∧
  (∀ s : State, s.sound →
    let k := 16 * s.get HOST_WIN_SEL.F + s.get HOST_WIN_SEL.WINDOW
    (commitCode s ≠ Code.done → Acts .winCommit s (fun t => t.get HOST_WIN_RESULT = commitCode s ∧ t.wins = s.wins ∧
      t.winPend = s.winPend)) ∧
    (commitCode s = Code.done → calActive s = true → Acts .winCommit s (fun t => t.get HOST_WIN_RESULT = Code.done ∧
      t.wins = s.wins ∧ t.winPend = s.winPend ++ [(k, staged s)])) ∧
    (commitCode s = Code.done → calActive s = false → Acts .winCommit s (fun t =>
      winAt t (s.get HOST_WIN_SEL.F) (s.get HOST_WIN_SEL.WINDOW) = staged s ∧
      ∀ f w, 16 * f + w ≠ k → winAt t f w = winAt s f w))) ∧
  (∀ s : State, s.sound →
    let w := winAt s (s.get HOST_WIN_SEL.F) (s.get HOST_WIN_SEL.WINDOW)
    Acts .winRead s (fun t => t.get HOST_WIN_BASE_LO = w.base % 2 ^ 32 ∧ t.get HOST_WIN_BASE_HI = w.base / 2 ^ 32 % 2 ^ 32 ∧
      t.get HOST_WIN_SIZE = w.size % 2 ^ 32 ∧ t.bit HOST_WIN_ATTR.VALID = w.valid ∧ t.bit HOST_WIN_ATTR.GLOBAL = w.isGlobal ∧
      t.bit HOST_WIN_ATTR.RO = w.ro ∧ t.bit HOST_WIN_ATTR.ENC = w.enc ∧ t.wins = s.wins))

/-- JOB, COPY_IN, COPY_OUT and RELEASE. Each moves the head of the submission ring. A JOB on no group completes with NOT_PRESENT, one
on a group with 64 waiting jobs with BUSY, one that the admission refuses with POLICED, and none of these touches a context or a
group; an admitted JOB starts every context of a group that has none in progress, at its streams' first commands, and else waits as
the last. A COPY completes with its code; one that passes stores the host's bytes in device memory (in the clear where no window
encrypts them; after the invalidation of its sharers where a bangle node holds a copy), or the bytes as a reader sees
them in host memory; one that is refused moves nothing. RELEASE
of no group is NOT_PRESENT, of a group with a job STATE_CONFLICT, and else frees every group with the IMAGE_ID and its contexts. -/
def Obligations.RingEntries : Prop :=
  (∀ (s : State) (f : Nat) (e : Ent), entryReady s f 1 e →
    let h := fetched s f
    let id := e.a % 2 ^ 32
    let cpl (c key : Nat) : Cpl := { code := c, typ := 1, image := id, user := e.user, key := key }
    (newestGroup h f id = none → Acts (.job f) s (fun t => headMoved s t f ∧ cplWritten s t f (cpl Code.notPresent 0) ∧
      t.ctxs = s.ctxs ∧ t.groups = s.groups)) ∧
    (∀ g, newestGroup h f id = some g →
      let w := groupAt s g
      let key := (ctxAt s g).img.key.toNat
      let ok := (admission h f (shapeOf (ctxAt s g).img)).1
      (64 ≤ w.waiting.length → Acts (.job f) s (fun t => headMoved s t f ∧ cplWritten s t f (cpl Code.busy key) ∧
        t.ctxs = s.ctxs ∧ t.groups = s.groups)) ∧
      (w.waiting.length < 64 → ok = false → Acts (.job f) s (fun t => headMoved s t f ∧
        cplWritten s t f (cpl Code.policed key) ∧ t.ctxs = s.ctxs ∧ t.groups = s.groups)) ∧
      (w.waiting.length < 64 → ok = true → w.job = none → Acts (.job f) s (fun t => headMoved s t f ∧
        groupAt t g = { w with job := some { fn := f, user := e.user } } ∧
        (∀ x ∈ w.ctxs, (ctxAt t x).job = true ∧ (ctxAt t x).halt = false ∧ (ctxAt t x).live = freshPointers (ctxAt s x).img ∧
          (ctxAt t x).state = if (ctxAt s x).state = 3 then 3 else 2) ∧
        (∀ x, x ∉ w.ctxs → ctxAt t x = ctxAt s x))) ∧
      (w.waiting.length < 64 → ok = true → w.job ≠ none → Acts (.job f) s (fun t => headMoved s t f ∧
        groupAt t g = { w with waiting := w.waiting ++ [{ fn := f, user := e.user }] } ∧ t.ctxs = s.ctxs)))) ∧
  (∀ (s : State) (f : Nat) (e : Ent), entryReady s f 2 e →
    let h := fetched s f
    let c := copyCode h f e true
    let ok (t : State) : Prop := headMoved s t f ∧ cplWritten s t f { code := c, typ := 2, user := e.user }
    let free := (sharersIn h e.b e.len none).isEmpty
    (c ≠ Code.done → Acts (.copyIn f) s (fun t => ok t ∧ t.mems.dev = s.mems.dev)) ∧
    (c = Code.done → free = true → Acts (.copyIn f) s (fun t => ok t ∧
      ((∀ i < e.len, encAt s (e.b + i) = none) →
        ∀ i < e.len, rdM t.mems.dev (e.b + i) = rdM s.mems.host (e.a + i)))) ∧
    (c = Code.done → free = false → Acts (.copyIn f) s (fun t => t.mems.dev = s.mems.dev ∧
      t.fab.invWait = s.fab.invWait ++ [{ addr := e.b, data := rdBytes s.mems.host e.a e.len, poison := false }]))) ∧
  (∀ (s : State) (f : Nat) (e : Ent), entryReady s f 3 e →
    let h := fetched s f
    let c := copyCode h f e false
    let a := s.get2 HOST_FN_CPL_BASE_LO HOST_FN_CPL_BASE_HI f + s.get HOST_FN_CPL_TAIL f * 32
    Acts (.copyOut f) s (fun t => headMoved s t f ∧ cplWritten s t f { code := c, typ := 3, user := e.user } ∧
      t.mems.dev = s.mems.dev ∧
      (c = Code.done → ∀ i < e.len, (e.a + i < a ∨ a + 32 ≤ e.a + i) →
        some (rdM t.mems.host (e.a + i)) = devPlain s (e.b + i)))) ∧
  (∀ (s : State) (f : Nat) (e : Ent), entryReady s f 4 e →
    let id := e.a % 2 ^ 32
    let l := groupsOf s f id
    let busy := l.any (fun g => (groupAt s g).job.isSome || !(groupAt s g).waiting.isEmpty)
    let cpl (c : Nat) : Cpl := { code := c, typ := 4, image := id, user := e.user, key := groupKey s f id }
    (l = [] → Acts (.release f) s (fun t => headMoved s t f ∧ cplWritten s t f (cpl Code.notPresent) ∧ t.ctxs = s.ctxs ∧
      t.groups = s.groups)) ∧
    (busy = true → Acts (.release f) s (fun t => headMoved s t f ∧ cplWritten s t f (cpl Code.stateConflict) ∧ t.ctxs = s.ctxs ∧
      t.groups = s.groups)) ∧
    (l ≠ [] → busy = false → Acts (.release f) s (fun t => headMoved s t f ∧ cplWritten s t f (cpl Code.done) ∧
      ∀ g ∈ l, groupAt t g = {} ∧ ∀ x ∈ (groupAt s g).ctxs, ctxAt t x = {})))

/-- CONTEXT_RESIDENT, JOB_COMPLETE, FUNCTION_LEVEL_RESET, DRAIN_TIMEOUT and CLEARING_END. A READY context goes to the first core of
its allotment that the pacing rules allow, where that core has a slot and a region of command memory that fit: RESIDENT there with
its saved pointers, its sealed image in the region, HARD and FIRM contexts pinned; no other context changes. The job of a group
whose contexts have completed every stream ends: its contexts leave the job, the job is counted, and the next of the waiting jobs
starts at the streams' first commands; while the tenant is frozen nothing happens. A reset of an enabled virtual function halts its
contexts and ends at once, with the function STOPPED, where none of its units is unacknowledged, else after the last of them or 60 ms
after the request. CLEARING_END fills the ranges with zeros and clears CLEARING. -/
def Obligations.Residence : Prop :=
  (∀ (s : State) (x n b : Nat) (l : List Nat) (core : Option Nat), s.sound →
    let y := ctxAt s x
    y.state = 2 → y.halt = false → frozen s y.fn = false → (fnAt s y.fn).flr = 0 →
    (coresFor s x core).filter (fun m => (pacingClash s m x).isNone) = n :: l →
    (fullSlots s n).length < 4 → lowBase s n (fullSlots s n) (regionOf y.img) = some b → hallmarkOk s y.imageAddr y.img = true →
    Acts (.contextResident ⟨x, core⟩) s (fun t =>
      (ctxAt t x).state = 3 ∧ (ctxAt t x).core = some n ∧ (ctxAt t x).live = y.saved ∧
      (ctxAt t x).pin = (y.pin || y.img.cls == 0 || y.img.cls == 1) ∧ (∀ z, z ≠ x → ctxAt t z = ctxAt s z) ∧
      rdBytes t.mems.cmd (n * 0x40000 + b * 256) y.img.bytes.length = y.img.bytes ∧
      ∃ c < 4, c ∉ fullSlots s n ∧ ((coreAt t n).slot c).valid = true ∧ ((coreAt t n).slot c).ctx = x ∧
        ((coreAt t n).slot c).base = b)) ∧
  (∀ (s : State) (g a m p : Nat) (j : Job), s.sound →
    let w := groupAt s g
    w.job = some j → w.ctxs ≠ [] →
    (frozen s w.fn = true → exec (.jobComplete g a m p) s = .next s) ∧
    (frozen s w.fn = false → j.failed = none → (∀ x ∈ w.ctxs, ctxDone s x = true) →
      Acts (.jobComplete g a m p) s (fun t =>
        (j.fn < 256 → t.get2 HOST_JOBS_DONE_LO HOST_JOBS_DONE_HI j.fn =
          (s.get2 HOST_JOBS_DONE_LO HOST_JOBS_DONE_HI j.fn + 1) % 2 ^ 64) ∧
        (w.waiting = [] → (groupAt t g).job = none ∧ ∀ x ∈ w.ctxs, (ctxAt t x).job = false) ∧
        (∀ k q, w.waiting = k :: q → (groupAt t g).job = some k ∧ (groupAt t g).waiting = q ∧
          ∀ x ∈ w.ctxs, (ctxAt t x).job = true ∧ (ctxAt t x).halt = false)))) ∧
  (∀ (s : State) (f : Nat), s.sound → f < 256 → fnHere s f = true → (∀ g, (fnAt s g).flr = 0) → (fnAt s f).removing = false →
    (drained (flrRequest s f false) f = false → Acts (.functionLevelReset f) s (fun t =>
      (fnAt t f).flr = 2 ∧ (fnAt t f).flrAt = nowNs s ∧ (fnAt t f).flrDone = false)) ∧
    (drained (flrRequest s f false) f = true → Acts (.functionLevelReset f) s (fun t =>
      (fnAt t f).flr = 0 ∧ (fnAt t f).flrDone = true ∧ t.get HOST_FN_STATUS.STATE f = Fn.stopped))) ∧
  (∀ (s : State) (f : Nat), s.sound → f < 256 → (fnAt s f).flr = 2 → (fnAt s f).removing = false → (∀ g, g ≠ f → (fnAt s g).flr = 0) →
    ((fnAt s f).flrAt + 60000000 ≤ nowNs s → Acts (.drainTimeout f) s (fun t =>
      (fnAt t f).flr = 0 ∧ (fnAt t f).flrDone = true ∧ t.get HOST_FN_STATUS.STATE f = Fn.stopped)) ∧
    (nowNs s < (fnAt s f).flrAt + 60000000 → exec (.drainTimeout f) s = .next s)) ∧
  (∀ (s : State) (f : Nat), s.sound → f < 256 → s.bit HOST_VF_STATUS.CLEARING f = true → Acts (.clearingEnd f) s (fun t =>
    t.bit HOST_VF_STATUS.CLEARING f = false ∧ (fnAt t f).clearing = [] ∧
    (∀ r ∈ (fnAt s f).clearing, ∀ a, r.1 ≤ a → a < r.1 + r.2 → rdM t.mems.dev a = 0) ∧
    (∀ a, (∀ r ∈ (fnAt s f).clearing, a < r.1 ∨ r.1 + r.2 ≤ a) → rdM t.mems.dev a = rdM s.mems.dev a)))

/-- SJ_START, SJ_STOP, SERVING_BOUNDARY, SERVING_POLL_EXPIRY, STEP_COMPLETE, STEP_RESUBMIT and EVENT_RING_SPACE. START checks a
STOPPED slot's configuration; STOP waits for a step in progress. A boundary that may be performed faults the slot, or finds no row and
polls from then on, or has its rows in a step that is submitted or, refused by the admission, kept for the next cycle start. The end
of a step frees the pages that waited, clears the rows, counts the step where its code is DONE and else faults the
slot. A step refused is submitted
again once its time has come. Waiting events stay while the owner is FROZEN; the one that waits is written once its ring has room. -/
def Obligations.ServingSlots : Prop :=
  let outcome (s : State) (j : Nat) (t : State) : Prop :=
    t.get BEAD_SJ_STATUS.STATE j = Fn.faulted ∨
    ((sjAt t j).rows = [] ∧ ∃ p, (sjAt t j).polling = some p ∧ nowNs s ≤ p) ∨
    ((sjAt t j).rows ≠ [] ∧ (t.bit BEAD_SJ_STATUS.IN_STEP j = true ∨ (sjAt t j).policed.isSome = true))
  (∀ (s : State) (j : Nat), s.sound → j < 64 → s.get BEAD_SJ_STATUS.STATE j = Fn.stopped →
    (sjCheck s j = none → Acts (.sjStart j) s (fun t => t.get BEAD_SJ_STATUS.STATE j = Fn.running)) ∧
    (∀ c < 256, sjCheck s j = some c → Acts (.sjStart j) s (fun t => t.get BEAD_SJ_STATUS.STATE j = Fn.faulted ∧
      t.get BEAD_SJ_STATUS.FAULT_CODE j = c))) ∧
  (∀ (s : State) (j : Nat), s.sound → j < 64 →
    s.get BEAD_SJ_STATUS.STATE j = Fn.running ∨ s.get BEAD_SJ_STATUS.STATE j = Fn.faulted →
    Acts (.sjStop j) s (fun t => (sjAt t j).polling = none ∧ (sjAt t j).policed = none ∧
      t.get BEAD_SJ_STATUS.STATE j = (if s.bit BEAD_SJ_STATUS.IN_STEP j then Fn.stopping else Fn.stopped))) ∧
  (∀ (s : State) (j : Nat), s.sound → j < 64 → mayBound s j = true → (sjAt s j).polling = none →
    Acts (.servingBoundary j) s (outcome s j)) ∧
  (∀ (s : State) (j p : Nat), s.sound → j < 64 → (sjAt s j).polling = some p →
    (p ≤ nowNs s → mayBound s j = true → Acts (.servingPollExpiry j) s (outcome s j)) ∧
    (nowNs s < p → exec (.servingPollExpiry j) s = .next s)) ∧
  (∀ (s : State) (j c : Nat), s.sound → j < 64 → (sjAt s j).stepCode = some c →
    Acts (.stepComplete j) s (fun t => t.bit BEAD_SJ_STATUS.IN_STEP j = false ∧ t.get BEAD_SJ_RUNNING j = 0 ∧
      (sjAt t j).stepCode = none ∧ (sjAt t j).rows = [] ∧ (sjAt t j).pend = [] ∧
      (c ≠ Code.done → c < 256 → s.get BEAD_SJ_STATUS.STATE j = Fn.running → t.get BEAD_SJ_STATUS.STATE j = Fn.faulted ∧
        t.get BEAD_SJ_STATUS.FAULT_CODE j = c) ∧
      (c = Code.done → t.get2 BEAD_SJ_STEP_LO BEAD_SJ_STEP_HI j = (s.get2 BEAD_SJ_STEP_LO BEAD_SJ_STEP_HI j + 1) % 2 ^ 64 ∧
        (s.get BEAD_SJ_STATUS.STATE j = Fn.running →
          t.get BEAD_SJ_STATUS.STATE j = Fn.running ∨ t.get BEAD_SJ_STATUS.STATE j = Fn.faulted) ∧
        (s.get BEAD_SJ_STATUS.STATE j = Fn.stopping →
          t.get BEAD_SJ_STATUS.STATE j = Fn.stopped ∨ t.get BEAD_SJ_STATUS.STATE j = Fn.faulted)))) ∧
  (∀ (s : State) (j at_ n : Nat), s.sound → j < 64 → (sjAt s j).policed = some (at_, n) →
    s.get BEAD_SJ_STATUS.STATE j = Fn.running → sjFrozen s j = false →
    let due := if calActive s then n ≤ nowN s else at_ + sjPoll s j ≤ nowNs s
    (due → Acts (.stepResubmit j) s (fun t => (t.bit BEAD_SJ_STATUS.IN_STEP j = true ∧ (sjAt t j).policed = none) ∨
      ∃ m, (sjAt t j).policed = some (nowNs s, m))) ∧
    (¬due → exec (.stepResubmit j) s = .next s)) ∧
  (∀ (s : State) (j : Nat) (r : Bytes), s.sound → j < 64 → (sjAt s j).evWait = [r] →
    (sjFrozen s j = true → Acts (.eventRingSpace j) s (fun t => (sjAt t j).evWait = [r])) ∧
    (sjFrozen s j = false → sjCode s j (evtAt s j) 128 false = Code.done →
      let h := sjBytes s j (evtAt s j) 128
      let k := le h 0 4 % evtLen s j
      ringFull k (le h 0x40 4 % evtLen s j) (evtLen s j) = true →
      Acts (.eventRingSpace j) s (fun t => (sjAt t j).evWait = [r] ∧ t.bit BEAD_SJ_STATUS.EVT_FULL j = true)) ∧
    (sjFrozen s j = false → sjCode s j (evtAt s j) 128 false = Code.done →
      let h := sjBytes s j (evtAt s j) 128
      let k := le h 0 4 % evtLen s j
      ringFull k (le h 0x40 4 % evtLen s j) (evtLen s j) = false → sjCode s j (evtAt s j + 128 + 32 * k) r.length true = Code.done →
      sjCode s j (evtAt s j) 4 true = Code.done →
      Acts (.eventRingSpace j) s (fun t => (sjAt t j).evWait = [] ∧ t.bit BEAD_SJ_STATUS.EVT_FULL j = false)))

/-- BEAD_MOVE_RECEIVE, BEAD_MOVE_ACK, BEAD_SEL_WRITE and RADIO_RESERVE_WRITE. An arriving move is answered to its source, with the
code of the first check that refuses it and nothing stored, else with the bead that it took, or with the code that faults the slot. The answer to a move ends the move and
the mailbox's operation. A write of `BEAD_SEL` latches the sixteen words of the record. A write of `BEAD_RADIO_RESERVE` is stored, but
with a bead on the wrong side of the boundary it is rejected and changes nothing else. -/
def Obligations.BeadTransfers : Prop :=
  (∀ (s : State) (j : Nat) (m : BeadMoveMsg), s.sound → j < 64 →
    let u := raiseFloor s m.stamp m.src
    let c := moveCode u j m
    (c ≠ Code.done → Acts (.beadMoveReceive j m) s (fun t => t.mems = s.mems ∧ t.sjs = s.sjs ∧
      t.sent = s.sent ++ [.beadMoveAck m.src m.srcBead c 0 (BitVec.ofNat 32 (issueTime u))])) ∧
    (c = Code.done → Acts (.beadMoveReceive j m) s (fun t => ∃ d dst st,
      t.sent.getLast? = some (.beadMoveAck m.src m.srcBead d dst st) ∧
      ((d = Code.done ∧ placeBead u Bead.sequence (sjOwner u j) = some dst) ∨
        (dst = 0 ∧ t.get BEAD_SJ_STATUS.STATE j = Fn.faulted))))) ∧
  (∀ (s : State) (j : Nat) (code : Byte) (stamp : Word) (dst : Nat), s.sound → j < 64 → listedCode code.toNat = true →
    ((sjAt s j).moving = none → exec (.beadMoveAck j code ⟨stamp, dst⟩) s = .next s) ∧
    (∀ p, (sjAt s j).moving = some p → Acts (.beadMoveAck j code ⟨stamp, dst⟩) s (fun t => (sjAt t j).moving = none ∧
      (mbxBusyWith s 0x30 = true → t.mbx.code = some code.toNat ∨ t.mbx.code = some Code.uncorrectable)))) ∧
  (∀ (s : State) (v : Word), s.sound →
    let i := v.toNat % 2 ^ 20
    Acts (.beadSelWrite v) s (fun t => (∀ w < 16, t.get BEAD_REC w = devLe t (beadBase i + 4 * w) 4) ∧
      (beadBad s i = false → t.get BEAD_SEL = i ∧ t.mems = s.mems))) ∧
  (∀ (s : State) (v : Word), s.sound →
    let b := v.toNat % 2 ^ 21
    (wrongSide s b = true → Acts (.radioReserveWrite v) s (fun t => t.get BEAD_STATUS.LIMIT_WRITE_REJECT = 1 ∧
      t.get BEAD_RADIO_RESERVE = s.get BEAD_RADIO_RESERVE)) ∧
    (wrongSide s b = false → Acts (.radioReserveWrite v) s (fun t => t.get BEAD_RADIO_RESERVE = b ∧
      t.get BEAD_STATUS.LIMIT_WRITE_REJECT = s.get BEAD_STATUS.LIMIT_WRITE_REJECT)))

/-- FH_START, FH_STOP, FH_FRAME_RECEIVE, FH_FRAME_TRANSMIT and TX_LATE_DROP. START checks the ranges of a STOPPED port, loads the
corrections of its mode and clears its counters. STOP is refused while a running cell or group names the port; else the queues are
empty and the links down. A frame received is counted: a frame without a flow is dropped, one that is no radio data goes to the
firmware ring or is dropped where the ring is full. The frame at the head of an open queue leaves, with its check sequence, where it
fits and is not late; a poisoned one is dropped. A released frame that is late is dropped and counted. -/
def Obligations.FronthaulPorts : Prop :=
  (∀ (s : State) (p : Nat), s.sound → p < 8 → s.get FH_STATUS.STATE p = Fn.stopped →
    (domOn s (184 + p) = false → exec (.fhStart p) s = .next (s.bump PWR_START_IGNORED)) ∧
    (domOn s (184 + p) = true → fhBad s p = true → Acts (.fhStart p) s (fun t =>
      t.get FH_STATUS.STATE p = Fn.faulted ∧ t.get FH_STATUS.FAULT_CODE p = Code.badArgument)) ∧
    (domOn s (184 + p) = true → fhBad s p = false → Acts (.fhStart p) s (fun t =>
      t.get FH_STATUS.STATE p = Fn.running ∧
      t.get ALM_TSC_IN p = (modeCorr (s.get FH_CFG.MODE p)).1 ∧ t.get ALM_TSC_EG p = (modeCorr (s.get FH_CFG.MODE p)).2 ∧
      ∀ k < 4, t.get FH_RX_FRAMES p k = 0 ∧ t.get FH_RX_NOFLOW p k = 0 ∧ t.get FH_TX_FRAMES p k = 0 ∧ t.get FH_TX_LATE p k = 0))) ∧
  (∀ (s : State) (p : Nat), s.sound → p < 8 →
    (s.get FH_STATUS.STATE p = Fn.running → portNamed s p = true → Acts (.fhStop p) s (fun t =>
      t.get FH_STATUS.STATE p = Fn.running ∧ t.get FH_STATUS.STOP_REJECT p = 1 ∧ t.fhq = s.fhq)) ∧
    (s.get FH_STATUS.STATE p = Fn.faulted ∨ (s.get FH_STATUS.STATE p = Fn.running ∧ portNamed s p = false) →
      Acts (.fhStop p) s (fun t => t.get FH_STATUS.STATE p = Fn.stopped ∧ (∀ q < 8, fhQueue t p q = []) ∧
        ∀ k < 4, t.get FH_SUB_STATUS.LINK_UP p k = 0))) ∧
  (∀ (s : State) (p k : Nat) (f : FhFrame), s.sound → p < 8 → k < subPorts s p → s.get FH_STATUS.STATE p = Fn.running →
    (∀ v e q, uplane f.bytes = some (v, e, q) → flowOf s p k v e = none → fskOf s p k v e = none →
      Acts (.fhFrameReceive p k f) s (fun t => t.mems = s.mems ∧
        t.get FH_RX_FRAMES p k = min (s.get FH_RX_FRAMES p k + 1) (2 ^ 32 - 1) ∧
        t.get FH_RX_NOFLOW p k = min (s.get FH_RX_NOFLOW p k + 1) (2 ^ 32 - 1))) ∧
    (uplane f.bytes = none →
      let n := 2 ^ s.get FH_FWRX_SIZE p
      let tail := s.get FH_FWRX_TAIL p % n
      Acts (.fhFrameReceive p k f) s (fun t =>
        t.get FH_RX_FRAMES p k = min (s.get FH_RX_FRAMES p k + 1) (2 ^ 32 - 1) ∧
        (ringFull tail (s.get FH_FWRX_HEAD p) n = true → t.mems = s.mems ∧ t.get FH_FWRX_TAIL p = s.get FH_FWRX_TAIL p ∧
          t.get FH_RX_NOROOM p k = min (s.get FH_RX_NOROOM p k + 1) (2 ^ 32 - 1)) ∧
        (ringFull tail (s.get FH_FWRX_HEAD p) n = false → t.get FH_FWRX_TAIL p = (tail + 1) % n % 2 ^ 12 ∧
          t.get FH_RX_NOROOM p k = s.get FH_RX_NOROOM p k)))) ∧
  (∀ (s : State) (p q ph : Nat) (f : TxFrame) (rest : List TxFrame), s.sound → p < 8 → q < 8 → fhQueue s p q = f :: rest →
    let fits := match queueCloseWait s p q with
      | some w => decide (frameTime s p f.bytes < 4 * w)
      | none => true
    let goes := fnState s (fhFn p) = Fn.running ∧ queueOpen s p q = true ∧ fits = true ∧ f.isLate (nowN s) = false
    (¬goes → exec (.fhFrameTransmit p ⟨q, ph⟩) s = .next s) ∧
    (goes → f.poison = true → Acts (.fhFrameTransmit p ⟨q, ph⟩) s (fun t => fhQueue t p q = rest ∧ t.sent = s.sent)) ∧
    (goes → f.poison = false → Acts (.fhFrameTransmit p ⟨q, ph⟩) s (fun t => fhQueue t p q = rest ∧
      (let b := leaving (setQueue s p q rest) p f ph; t.sent = s.sent ++ [.fh p (b ++ frameCheck b)]) ∧
      t.get FH_TX_FRAMES p f.sub = min (s.get FH_TX_FRAMES p f.sub + 1) (2 ^ 32 - 1)))) ∧
  (∀ (s : State) (p q : Nat), s.sound → p < 8 → q < 8 →
    ((fhQueue s p q).find? (fun f => f.isLate (nowN s)) = none → exec (.txLateDrop p q) s = .next s) ∧
    (∀ f, (fhQueue s p q).find? (fun f => f.isLate (nowN s)) = some f → Acts (.txLateDrop p q) s (fun t =>
      fhQueue t p q = (fhQueue s p q).erase f ∧ t.get FH_TX_LATE p f.sub = min (s.get FH_TX_LATE p f.sub + 1) (2 ^ 32 - 1))))

/-- CELL_START, CELL_STOP, CELL_TAKEOVER, TAKEOVER_BOUNDARY, TX_ENABLE_BOUNDARY, CPLANE_RELEASE, UPLANE_RELEASE and
L2_REQUEST_DEADLINE, of a cell with no stop time set. A STOPPED standby runs at START; a primary runs with a flow bead for each flow, or
is FAULTED with the code of the check that fails. STOP lets the slot in progress end. A takeover takes place at the boundary told. Frames
of a direction are queued at the fixed time of their slot or symbol, and none before it; requests are taken at their deadline. -/
def Obligations.RadioCells : Prop :=
  (∀ (s : State) (c : Nat), s.sound → c < 512 → (cellAt s c).stopAt = none → s.get CODEC_CELL_STATUS.STATE c = Fn.stopped →
    let u := cellClear s c
    let code := (readCell u c).1
    let x := (readCell u c).2
    (s.bit CODEC_CELL_PARTNER.STANDBY c = true → Acts (.cellStart c) s (fun t =>
      t.get CODEC_CELL_STATUS.STATE c = Fn.running ∧ t.get CODEC_CELL_STATUS.STANDBY c = 1 ∧ cellAt t c = x)) ∧
    (s.bit CODEC_CELL_PARTNER.STANDBY c = false →
      (code ≠ Code.done → Acts (.cellStart c) s (fun t =>
        t.get CODEC_CELL_STATUS.STATE c = Fn.faulted ∧ t.get CODEC_CELL_STATUS.FAULT_CODE c = code % 256)) ∧
      (∀ e, code = Code.done → cellCheck u c x = some e → Acts (.cellStart c) s (fun t =>
        t.get CODEC_CELL_STATUS.STATE c = Fn.faulted ∧ t.get CODEC_CELL_STATUS.FAULT_CODE c = e % 256)) ∧
      (code = Code.done → cellCheck u c x = none → flowBeads c x x.flows [] u = none → Acts (.cellStart c) s (fun t =>
        t.get CODEC_CELL_STATUS.STATE c = Fn.faulted ∧ t.get CODEC_CELL_STATUS.FAULT_CODE c = Code.busy)) ∧
      (∀ l v, code = Code.done → cellCheck u c x = none → flowBeads c x x.flows [] u = some (l, v) → Acts (.cellStart c) s (fun t =>
        t.get CODEC_CELL_STATUS.STATE c = Fn.running ∧ (cellAt t c).beads = l ∧ (cellAt t c).cfg = x.cfg)))) ∧
  (∀ (s : State) (c : Nat), s.sound → c < 512 → (cellAt s c).stopAt = none →
    let st := s.get CODEC_CELL_STATUS.STATE c
    let by_ := s.bit CODEC_CELL_STATUS.STANDBY c
    (st = Fn.running → by_ = false → Acts (.cellStop c) s (fun t => t.get CODEC_CELL_STATUS.STATE c = Fn.stopping ∧
      (cellAt t c).stopAt = some (((cellAt s c).slotAt (nowN s) + 1) * (cellAt s c).slotNs))) ∧
    (st = Fn.faulted ∨ (st = Fn.running ∧ by_ = true) → Acts (.cellStop c) s (fun t =>
      t.get CODEC_CELL_STATUS.STATE c = Fn.stopped ∧ cellAt t c = {}))) ∧
  (∀ (s : State) (c : Nat), s.sound → c < 512 → s.get CODEC_CELL_STATUS.STATE c = Fn.running →
    let node := s.get CODEC_CELL_PARTNER.NODE c
    let d := s.get CODEC_CELL_PARTNER.CELL c
    (s.bit CODEC_CELL_STATUS.STANDBY c = true → (cellAt s c).takeAt = none → node ≠ ownNode s →
      Acts (.cellTakeover ⟨c, none⟩) s (fun t => (cellAt t c).takeAt = some (takeBoundary (nowN s)) ∧
        t.sent = s.sent ++ [.takeover node d (takeBoundary (nowN s))])) ∧
    (∀ b, s.bit CODEC_CELL_STATUS.STANDBY c = false → (cellAt s c).stopAt = none →
      Acts (.cellTakeover ⟨c, some b⟩) s (fun t => (cellAt t c).stopAt = some b ∧ (cellAt t c).takeAt = none))) ∧
  (∀ (s : State) (c b : Nat), s.sound → c < 512 → s.get CODEC_CELL_STATUS.STATE c = Fn.running → (cellAt s c).takeAt = some b →
    (nowN s < b → exec (.takeoverBoundary c) s = .next s) ∧
    (b ≤ nowN s → Acts (.takeoverBoundary c) s (fun t => t.get CODEC_CELL_STATUS.STANDBY c = 0 ∧
      (t.get CODEC_CELL_STATUS.STATE c = Fn.running ∨ t.get CODEC_CELL_STATUS.STATE c = Fn.faulted) ∧
      t.get CODEC_CELL_STARTS.TAKEOVERS c = min (s.get CODEC_CELL_STARTS.TAKEOVERS c + 1) (2 ^ 16 - 1)))) ∧
  (∀ (s : State) (c : Nat), s.sound → c < 512 → (cellAt s c).stopAt = none → cellServing s c = true →
    let x := cellAt s c
    ((x.txArm = true ∧ x.txAt ≤ nowN s) → Acts (.txEnableBoundary c) s (fun t =>
      t.get CODEC_CELL_STATUS.TX_ENABLED c = 1 ∧ (cellAt t c).txArm = false)) ∧
    (¬(x.txArm = true ∧ x.txAt ≤ nowN s) → exec (.txEnableBoundary c) s = .next s) ∧
    (nowN s + x.fld 0x50 4 < x.nextCp * x.slotNs → exec (.cplaneRelease c) s = .next s) ∧
    (x.nextCp * x.slotNs ≤ nowN s + x.fld 0x50 4 → Acts (.cplaneRelease c) s (fun t => (cellAt t c).nextCp = x.nextCp + 1 ∧
      ∃ l, fhQueue t x.port 6 = fhQueue s x.port 6 ++ l ∧
        l.length = (x.dirFlows 2).length * (if s.bit CODEC_CELL_STATUS.TX_ENABLED c then 2 else 1))) ∧
    (nowN s + x.fld 0x4C 4 < x.symAt (x.nextUp / 14) (x.nextUp % 14) → exec (.uplaneRelease c) s = .next s) ∧
    (x.symAt (x.nextUp / 14) (x.nextUp % 14) ≤ nowN s + x.fld 0x4C 4 → Acts (.uplaneRelease c) s (fun t =>
      (cellAt t c).nextUp = x.nextUp + 1 ∧
      ∃ l, fhQueue t x.port 5 = fhQueue s x.port 5 ++ l ∧
        l.length = (if s.bit CODEC_CELL_STATUS.TX_ENABLED c ∧ downMissed s c (x.nextUp / 14) = false then (x.dirFlows 1).length else 0))) ∧
    (nowN s + x.leadSlots * x.slotNs < x.nextReq * x.slotNs → exec (.l2RequestDeadline c) s = .next s) ∧
    (x.nextReq * x.slotNs ≤ nowN s + x.leadSlots * x.slotNs → Acts (.l2RequestDeadline c) s (fun t =>
      (cellAt t c).nextReq = x.nextReq + 1 ∧ ∀ r ∈ (cellAt t c).reqs, r ∈ x.reqs ∨ x.nextReq ≤ r.1)))

/-- SLOT_INDICATION, CRC_INDICATION, RACH_INDICATION, SRS_INDICATION, REPLICA_SEND and REPLICA_RECEIVE. The indications of a slot
are made once, at the fixed time of the slot and not before; those of the slot's end also free its space in the receive ring and its
requests. A replica is sent from the buffer not used last, and is suspended while a link to the partner is in doubt; a standby keeps the
newer replica. -/
def Obligations.CellIndications : Prop :=
  (∀ (s : State) (c : Nat), s.sound → c < 512 → (cellAt s c).stopAt = none → cellServing s c = true →
    let x := cellAt s c
    (nowN s + (x.leadSlots + 1) * x.slotNs < x.nextInd * x.slotNs → exec (.slotIndication c) s = .next s) ∧
    (x.nextInd * x.slotNs ≤ nowN s + (x.leadSlots + 1) * x.slotNs → Acts (.slotIndication c) s (fun t =>
      cellAt t c = { x with nextInd := x.nextInd + 1 } ∧
      t.get CODEC_CELL_STATUS.STATE c = s.get CODEC_CELL_STATUS.STATE c)) ∧
    (nowN s < (x.nextCrc + 1) * x.slotNs + x.crcDelay → exec (.crcIndication c) s = .next s) ∧
    ((x.nextCrc + 1) * x.slotNs + x.crcDelay ≤ nowN s → Acts (.crcIndication c) s (fun t =>
      (cellAt t c).nextCrc = x.nextCrc + 1 ∧ (cellAt t c).rxHeld = x.rxHeld.filter (fun p => x.nextCrc < p.1) ∧
      (cellAt t c).reqs = x.reqs.filter (fun p => x.nextCrc < p.1))) ∧
    (∀ b, x.dueSlot x.rachDelay (nowN s) = none → exec (.rachIndication c b) s = .next s) ∧
    (∀ b k, x.dueSlot x.rachDelay (nowN s) = some k →
      (k < x.nextRach → exec (.rachIndication c b) s = .next s) ∧
      (x.nextRach ≤ k → Acts (.rachIndication c b) s (fun t => cellAt t c = { x with nextRach := k + 1 }))) ∧
    (∀ b, x.dueSlot x.srsDelay (nowN s) = none → exec (.srsIndication c b) s = .next s) ∧
    (∀ b k, x.dueSlot x.srsDelay (nowN s) = some k →
      (k < x.nextSrs → exec (.srsIndication c b) s = .next s) ∧
      (x.nextSrs ≤ k → Acts (.srsIndication c b) s (fun t => cellAt t c = { x with nextSrs := k + 1 })))) ∧
  (∀ (s : State) (c : Nat) (d : Bytes), s.sound → c < 512 → (cellAt s c).stopAt = none → cellServing s c = true →
    let x := cellAt s c
    let held := openDests s (cellIssuer c) ≠ [] ∨ s.bit FIL_STATUS.PARTITIONED = true
    (s.bit CODEC_CELL_PARTNER.REPL_EN c = false → exec (.replicaSend c d) s = .next s) ∧
    (s.bit CODEC_CELL_PARTNER.REPL_EN c = true → held → Acts (.replicaSend c d) s (fun t =>
      t.get CODEC_CELL_STATUS.REPL_SUSPENDED c = 1 ∧ t.fab = s.fab)) ∧
    (s.bit CODEC_CELL_PARTNER.REPL_EN c = true → ¬held → Acts (.replicaSend c d) s (fun t =>
      (cellAt t c).replBuf = 1 - x.replBuf ∧ t.get CODEC_CELL_REPL_SLOT c = x.slotNo (x.slotAt (nowN s)) % 2 ^ 32))) ∧
  (∀ (s : State) (c : Nat) (b : Bool) (w : Word), s.sound → c < 512 →
    let x := cellAt s c
    let k := (x.nearSlot (x.slotAt (nowN s)) w.toNat).toNat
    let newer := x.replica = none ∨ ∃ p, x.replica = some p ∧ p.2 < k
    let keeps := s.get CODEC_CELL_STATUS.STATE c = Fn.running ∧ s.bit CODEC_CELL_STATUS.STANDBY c = true ∧ newer
    (¬keeps → exec (.replicaReceive c b w) s = .next s) ∧
    (keeps → Acts (.replicaReceive c b w) s (fun t => (cellAt t c).replica = some (if b then 1 else 0, k) ∧
      t.get CODEC_CELL_REPL_SLOT c = w.toNat)))

/-- CODEC_GRP_START, CODEC_GRP_STOP, CODEC_RING_TAIL_NOTICE, LDPC_DEC, LDPC_ENC, POLAR_DEC, CODEC_JOB_DONE and CODEC_DEADLINE_SKIP. A
job at the head of a ring starts on a free engine of its kind, unless its deadline has passed or a hard job of the kind waits; a
malformed one ends with BAD_ARGUMENT. The oldest job ends and is counted; a late head is skipped and counted. -/
def Obligations.CodedJobs : Prop :=
  let kind : Instr → Option (Nat × Bool × Nat) := fun i => match i with
    | .ldpcDec g hard => some (g, hard, Jop.dec)
    | .ldpcEnc g hard => some (g, hard, Jop.enc)
    | .polarDec g hard => some (g, hard, Jop.polar)
    | _ => none
  (∀ (s : State) (g : Nat), s.sound → g < 4 → s.get CODEC_GRP_STATUS.STATE g = Fn.stopped →
    let h := s.get CODEC_GRP_HARD_SIZE g
    let f := s.get CODEC_GRP_FIRM_SIZE g
    let fits := 4 ≤ h ∧ h ≤ 12 ∧ 4 ≤ f ∧ f ≤ 12
    (domOn s (192 + g) = false → exec (.codecGrpStart g) s = .next (s.bump PWR_START_IGNORED)) ∧
    (domOn s (192 + g) = true → ¬fits → Acts (.codecGrpStart g) s (fun t =>
      t.get CODEC_GRP_STATUS.STATE g = Fn.faulted ∧ t.get CODEC_GRP_STATUS.FAULT_CODE g = Code.badArgument)) ∧
    (domOn s (192 + g) = true → fits → Acts (.codecGrpStart g) s (fun t =>
      t.get CODEC_GRP_STATUS.STATE g = Fn.running ∧ (codecAt t g).jobs = [] ∧
      (codecAt t g).hardTail = ringTail s (jobRing s g true).1 ∧ (codecAt t g).firmTail = ringTail s (jobRing s g false).1))) ∧
  (∀ (s : State) (g : Nat), s.sound → g < 4 →
    let named := (mapKeys s.cells).any (fun c => fnState s (cellFn c) == Fn.running && (cellAt s c).fld 5 1 == g)
    (s.get CODEC_GRP_STATUS.STATE g = Fn.running → named = true → Acts (.codecGrpStop g) s (fun t =>
      t.get CODEC_GRP_STATUS.STATE g = Fn.running ∧ t.get CODEC_GRP_STATUS.STOP_REJECT g = 1 ∧ t.codecs = s.codecs)) ∧
    (s.get CODEC_GRP_STATUS.STATE g = Fn.running → named = false → Acts (.codecGrpStop g) s (fun t =>
      t.get CODEC_GRP_STATUS.STATE g = (if (codecAt s g).jobs.isEmpty then Fn.stopped else Fn.stopping) ∧ t.codecs = s.codecs)) ∧
    (s.get CODEC_GRP_STATUS.STATE g = Fn.faulted → Acts (.codecGrpStop g) s (fun t =>
      t.get CODEC_GRP_STATUS.STATE g = Fn.stopped ∧ codecAt t g = {}))) ∧
  (∀ (s : State) (g : Nat) (hard : Bool), s.sound → g < 4 →
    Acts (.codecRingTailNotice g hard) s (fun t => t.regs = s.regs ∧
      codecAt t g = (if hard then { codecAt s g with hardTail := ringTail s (jobRing s g true).1 }
        else { codecAt s g with firmTail := ringTail s (jobRing s g false).1 }))) ∧
  (∀ (s : State) (i : Instr) (g op : Nat) (hard : Bool), s.sound → g < 4 → kind i = some (g, hard, op) →
    let x := codecAt s g
    let d := (devRead s (jobAt s g hard 0) 64).2.1
    let o := df d 0 1
    let late := df d 0x38 8 ≠ 0 ∧ df d 0x38 8 < nowN s
    let waits := hard = false ∧ (List.range (jobCount s g true)).any (fun k => memLe s (jobAt s g true k) 1 == o) = true
    let busy := o < 3 ∧ engines o ≤ (x.jobs.filter (fun j => df j.desc 0 1 == o)).length
    let starts := s.get CODEC_GRP_STATUS.STATE g = Fn.running ∧ jobCount s g hard ≠ 0 ∧ (3 ≤ o ∨ o = op) ∧ ¬late ∧ ¬waits ∧ ¬busy
    (¬starts → exec i s = .next s) ∧
    (starts → Acts i s (fun t => ∃ out word, (codecAt t g).jobs = x.jobs ++ [{ hard := hard, desc := d, out := out, word := word }] ∧
      (jobOk d = false → out = [] ∧ word = resultWord Code.badArgument 0 false 0)))) ∧
  (∀ (s : State) (g : Nat) (j : CJob) (l : List CJob), s.sound → g < 4 → (codecAt s g).jobs = j :: l →
    Acts (.codecJobDone g) s (fun t => (codecAt t g).jobs = l ∧
      t.get CODEC_GRP_JOBS g = min (s.get CODEC_GRP_JOBS g + 1) (2 ^ 32 - 1) ∧
      t.get CODEC_GRP_DEC_FAIL g = (if df j.desc 0 1 ≠ Jop.enc ∧ j.word / 2 ^ 15 % 2 = 0 then
        min (s.get CODEC_GRP_DEC_FAIL g + 1) (2 ^ 32 - 1) else s.get CODEC_GRP_DEC_FAIL g) ∧
      t.get CODEC_GRP_STATUS.STATE g =
        (if s.get CODEC_GRP_STATUS.STATE g = Fn.stopping ∧ l = [] then Fn.stopped else s.get CODEC_GRP_STATUS.STATE g))) ∧
  (∀ (s : State) (g : Nat) (hard : Bool), s.sound → g < 4 →
    let d := (devRead s (jobAt s g hard 0) 64).2.1
    let skips := s.get CODEC_GRP_STATUS.STATE g = Fn.running ∧ jobCount s g hard ≠ 0 ∧ df d 0x38 8 ≠ 0 ∧ df d 0x38 8 < nowN s
    (¬skips → exec (.codecDeadlineSkip g hard) s = .next s) ∧
    (skips → Acts (.codecDeadlineSkip g hard) s (fun t => t.codecs = s.codecs ∧
      t.get CODEC_GRP_LATE g = min (s.get CODEC_GRP_LATE g + 1) (2 ^ 32 - 1))))

/-- FSK_GRP_START, FSK_GRP_STOP and FSK_INTERVAL. A STOPPED group runs at START, with a bead for each channel in use, or is FAULTED with
the code of the check that fails. STOP keeps only the frames in transmission, and the group is STOPPED where there is none. At a
boundary of a RUNNING group the next one is fixed; an interval is processed once its sections have all had their time. -/
def Obligations.FskGroups : Prop :=
  (∀ (s : State) (g : Nat), s.sound → g < 64 → s.get FSK_GRP_STATUS.STATE g = Fn.stopped →
    let u := fskPrepare s g
    let r := fskTable u g
    let x := fskFresh u r.2.1
    let fails (c : Nat) := Acts (.fskGrpStart g) s (fun t =>
      t.get FSK_GRP_STATUS.STATE g = Fn.faulted ∧ t.get FSK_GRP_STATUS.FAULT_CODE g = c)
    let port := s.get FSK_GRP_PORT.PORT g
    (domOn s 196 = false → exec (.fskGrpStart g) s = .next (s.bump PWR_START_IGNORED)) ∧
    (domOn s 196 = true →
      (r.1 ≠ Code.done ∨ fskOk u g x = false → fails Code.badArgument) ∧
      (r.1 = Code.done → fskOk u g x = true →
        (r.2.2 = true → fails Code.uncorrectable) ∧
        (r.2.2 = false →
          (s.get FH_STATUS.STATE port ≠ Fn.running → fails Code.stateConflict) ∧
          (s.get FH_STATUS.STATE port = Fn.running →
            (sessionBeads g x.used (fskSeeded u g x) = none → fails Code.busy) ∧
            ((sessionBeads g x.used (fskSeeded u g x)).isSome = true →
              (fskMasked u g = true → fails Code.maskViolation) ∧
              (fskMasked u g = false → Acts (.fskGrpStart g) s (fun t =>
                t.get FSK_GRP_STATUS.STATE g = Fn.running ∧ (fskAt t g).table = r.2.1))))))) ) ∧
  (∀ (s : State) (g : Nat), s.sound → g < 64 →
    let x := fskAt s g
    (s.get FSK_GRP_STATUS.STATE g = Fn.faulted → Acts (.fskGrpStop g) s (fun t =>
      t.get FSK_GRP_STATUS.STATE g = Fn.stopped ∧ fskAt t g = {})) ∧
    (s.get FSK_GRP_STATUS.STATE g = Fn.running → Acts (.fskGrpStop g) s (fun t =>
      if x.used.all (fun i => ((x.chan i).tx.filter (·.begun)).isEmpty) then
        t.get FSK_GRP_STATUS.STATE g = Fn.stopped ∧ fskAt t g = {}
      else t.get FSK_GRP_STATUS.STATE g = Fn.stopping ∧
        ∀ i ∈ x.used, ((fskAt t g).chan i).stage = 0 ∧ ((fskAt t g).chan i).tx = (x.chan i).tx.filter (·.begun)))) ∧
  (∀ (s : State) (g : Nat), s.sound → g < 64 →
    let x := fskAt s g
    (s.get FSK_GRP_STATUS.STATE g ≠ Fn.running → s.get FSK_GRP_STATUS.STATE g ≠ Fn.stopping → exec (.fskInterval g) s = .next s) ∧
    (s.get FSK_GRP_STATUS.STATE g = Fn.running → Acts (.fskInterval g) s (fun t =>
      t.get FSK_GRP_STATUS.STATE g = Fn.running ∧
      (fskAt t g).nextTx = (if x.nextTx * 125000 ≤ nowN s then nowN s / 125000 + 1 else x.nextTx) ∧
      (fskAt t g).next = (if (x.next + 1) * 125000 + s.get FSK_GRP_TA4.MAX g * 1000 ≤ nowN s then x.next + 1 else x.next))))

/-- FSK_SYMBOL, PRE_TIMEOUT, SFD_TIMEOUT, FSK_RX_RECORD, FSK_LAUNCH, FSK_TX_END and FSK_DL_RELEASE, on a channel of a RUNNING group.
A symbol takes eight samples; a stage without progress is abandoned for the search; a receive record is written at its time; a frame
begins at its launch time, abandons reception, and ends with its last sample; a downlink section is queued at its fixed time. -/
def Obligations.FskChannels : Prop :=
  ∀ (s : State) (g i : Nat), s.sound → g < 64 →
    let x := fskAt s g
    let y := x.chan i
    let runs := s.get FSK_GRP_STATUS.STATE g = Fn.running
    let stage (n : Nat) := runs ∧ stageDue s g y n = true
    let symbol := runs ∧ x.used.elem i = true ∧ 32 ≤ y.buf.length ∧ stageDue s g y 2 = false ∧ stageDue s g y 3 = false
    let k := y.nextDl
    let port := s.get FSK_GRP_PORT.PORT g
    let dl := (runs ∨ s.get FSK_GRP_STATUS.STATE g = Fn.stopping) ∧ x.used.elem i = true ∧
      k * 125000 ≤ nowN s + s.get FSK_GRP_TX_WIN.MAX g * 1000
    (¬symbol → exec (.fskSymbol g i) s = .next s) ∧
    (symbol → Acts (.fskSymbol g i) s (fun t => ((fskAt t g).chan i).buf = y.buf.drop 32 ∧ ((fskAt t g).chan i).pos = y.pos + 8)) ∧
    (¬stage 2 → exec (.preTimeout g i) s = .next s) ∧
    (stage 2 → Acts (.preTimeout g i) s (fun t => (fskAt t g).chan i = { y with stage := 1, hits := 0, frozen := false })) ∧
    (¬stage 3 → exec (.sfdTimeout g i) s = .next s) ∧
    (stage 3 → Acts (.sfdTimeout g i) s (fun t => (fskAt t g).chan i = { y with stage := 1, hits := 0, frozen := false })) ∧
    (y.recs = [] → exec (.fskRxRecord g i) s = .next s) ∧
    (∀ r l, y.recs = r :: l →
      (nowN s < r.1 ∨ ¬runs → exec (.fskRxRecord g i) s = .next s) ∧
      (r.1 ≤ nowN s → runs → Acts (.fskRxRecord g i) s (fun t => ((fskAt t g).chan i).recs = l))) ∧
    (y.tx = [] → exec (.fskLaunch g i) s = .next s ∧ exec (.fskTxEnd g i) s = .next s) ∧
    (∀ f l, y.tx = f :: l →
      (f.begun = true ∨ nowN s < sampleTime s g f.first ∨ ¬runs → exec (.fskLaunch g i) s = .next s) ∧
      (f.begun = false → sampleTime s g f.first ≤ nowN s → runs → Acts (.fskLaunch g i) s (fun t =>
        ((fskAt t g).chan i).tx = { f with begun := true } :: l ∧ ((fskAt t g).chan i).stage = 1 ∧
        ((fskAt t g).chan i).soft = [] ∧ ((fskAt t g).chan i).quiet = f.first + f.count + 8)) ∧
      (f.begun = false ∨ nowN s < sampleTime s g (f.first + f.count) → exec (.fskTxEnd g i) s = .next s) ∧
      (f.begun = true → sampleTime s g (f.first + f.count) ≤ nowN s → runs → Acts (.fskTxEnd g i) s (fun t =>
        ((fskAt t g).chan i).tx = l ∧
        t.get FSK_GRP_FRAMES_TX g = (if f.cutAt.isNone then min (s.get FSK_GRP_FRAMES_TX g + 1) (2 ^ 32 - 1)
          else s.get FSK_GRP_FRAMES_TX g)))) ∧
    (¬dl → exec (.fskDlRelease g i) s = .next s) ∧
    (dl → Acts (.fskDlRelease g i) s (fun t => (fskAt t g).chan i = { y with nextDl := k + 1, seq := (y.seq + 1) % 256 } ∧
      ∃ f, fhQueue t port 5 = fhQueue s port 5 ++ [f]))

/-- HEARTBEAT_SEND at an Almanac time N that is a multiple of 100,000 ns and for which none has gone out, the device not
fail-stopped: one heartbeat control flit goes out on each UP link, in ascending order of the ports, and on no other. The flit
carries the device's node, its incarnation and the PARTITIONED and FENCED bits of `FIL_STATUS`, and the stamp of its sending. -/
def Obligations.HeartbeatsSent : Prop :=
  ∀ s : State, s.sound → nowN s % 100000 = 0 → s.fab.beat ≠ nowN s / 100000 → s.bit JRNL_STATUS.FAIL_STOP = false →
    Acts .heartbeatSend s (fun t =>
      t.sent = s.sent ++ ((List.range 24).filter (linkUp s)).map (fun q =>
        Sent.ctl q (BitVec.ofNat 8 Ctl.heartbeat) (bytesLe 1 Ctl.heartbeat ++ bytesLe 1 (s.get FIL_PORT_CFG.ROLE q) ++
          bytesLe 2 (s.get FIL_INCARNATION) ++ bytesLe 4 (s.get FIL_NODE) ++ bytesLe 4 (issueTime s) ++
          bytesLe 1 (s.get FIL_STATUS.PARTITIONED + 2 * s.get FIL_STATUS.FENCED) ++ List.replicate 51 0)))

/-- PORT_START, PORT_STOP, TRAIN_RETRY, TRAIN_STEP_TIMEOUT, WAVELENGTH_LOCK, FEC_LOCK, IDENT and LOOP_RSP. A port that starts begins
its training; each step that ends leads to the next, and one that fails sets `TRAIN_RESULT`, with the next training 10 ms later. Which
of the two results a time-out of step 1 sets with a laser present is free. -/
def Obligations.PortTraining : Prop :=
  ∀ (s : State) (q : Nat), s.sound → q < 24 →
    let l := linkAt s q
    let st := s.get FIL_PORT_STATUS.STATE q
    let role := s.get FIL_PORT_CFG.ROLE q
    let ready := s.get FIL_STATUS.STATE = Fn.running ∧ st = Fn.stopped
    let begun (t : State) : Prop := t.get FIL_PORT_STATUS.LINK q = 1 ∧ t.get FIL_PORT_RETRAINS q = (s.get FIL_PORT_RETRAINS q + 1) % 2 ^ 32 ∧
      t.get FIL_PORT_LOOP q = 0 ∧ linkAt t q = { l with step := 1, stepAt := nowNs s, retryAt := none, loops := 0, locked := false, fec := false,
                                                        credit := [0, 0, 0, 0], txSeq := 0, rxSeq := 0, unacked := [] }
    let failed (r : Nat) (t : State) : Prop := t.get FIL_PORT_STATUS.LINK q = 0 ∧ t.get FIL_PORT_STATUS.TRAIN_RESULT q = r ∧
      linkAt t q = { l with step := 0, retryAt := some (nowNs s + 10000000) }
    let late := l.step ≠ 0 ∧ l.stepAt + stepLimit l.step ≤ nowNs s
    let sent (k : Nat) (t : State) : Prop := ∃ b, t.sent = s.sent ++ [Sent.ctl q (BitVec.ofNat 8 k) b];
    (domOn s (160 + q) = true → ready → portCheck s q = none → Acts (.portStart q) s (fun t =>
      t.get FIL_PORT_STATUS.STATE q = Fn.running ∧ t.get FIL_PORT_STATUS.FAULT_CODE q = Code.done ∧ begun t)) ∧
    (∀ c, domOn s (160 + q) = true → ready → portCheck s q = some c → Acts (.portStart q) s (fun t =>
      t.get FIL_PORT_STATUS.STATE q = Fn.faulted ∧ t.get FIL_PORT_STATUS.FAULT_CODE q = Code.badArgument ∧ linkAt t q = l)) ∧
    (domOn s (160 + q) = true → ¬ready → exec (.portStart q) s = .next s) ∧
    (domOn s (160 + q) = false → Acts (.portStart q) s (fun t => t.get PWR_START_IGNORED = (s.get PWR_START_IGNORED + 1) % 2 ^ 32 ∧
      t.get FIL_PORT_STATUS.STATE q = st ∧ linkAt t q = l)) ∧
    (st = Fn.running → Acts (.portStop q) s (fun t => t.get FIL_PORT_STATUS.STATE q = Fn.stopped ∧ t.get FIL_PORT_STATUS.LINK q = 0 ∧
      (linkAt t q).retryAt = none)) ∧
    (st = Fn.faulted → Acts (.portStop q) s (fun t => t.get FIL_PORT_STATUS.STATE q = Fn.stopped ∧ linkAt t q = l)) ∧
    (st ≠ Fn.running → st ≠ Fn.faulted → exec (.portStop q) s = .next s) ∧
    (∀ a, l.retryAt = some a → st = Fn.running → a ≤ nowNs s → Acts (.trainRetry q) s begun) ∧
    (l.retryAt = none ∨ st ≠ Fn.running ∨ (∃ a, l.retryAt = some a ∧ nowNs s < a) → exec (.trainRetry q) s = .next s) ∧
    (¬late → exec (.trainStepTimeout q) s = .next s) ∧
    (late → l.step = 1 → s.get FIL_PORT_STATUS.NO_LASER q = 1 → Acts (.trainStepTimeout q) s (failed 2)) ∧
    (late → l.step = 1 → s.get FIL_PORT_STATUS.NO_LASER q = 0 → Acts (.trainStepTimeout q) s (fun t => failed 2 t ∨ failed 3 t)) ∧
    (late → l.step = 2 ∨ 5 ≤ l.step → Acts (.trainStepTimeout q) s (failed 3)) ∧
    (late → l.step = 3 → Acts (.trainStepTimeout q) s (failed 5)) ∧
    (late → l.step = 4 → Acts (.trainStepTimeout q) s (failed 4)) ∧
    (st = Fn.running → l.step = 1 → s.get FIL_PORT_STATUS.NO_LASER q = 0 → Acts (.wavelengthLock q) s (fun t =>
      linkAt t q = { l with step := 2, stepAt := nowNs s, locked := true })) ∧
    (st ≠ Fn.running ∨ l.step ≠ 1 ∨ s.get FIL_PORT_STATUS.NO_LASER q = 1 → exec (.wavelengthLock q) s = .next s) ∧
    (st = Fn.running → l.step = 2 → Acts (.fecLock q) s (fun t =>
      linkAt t q = { l with step := 3, stepAt := nowNs s, fec := true } ∧ sent Ctl.ident t)) ∧
    (st ≠ Fn.running ∨ l.step ≠ 2 → exec (.fecLock q) s = .next s) ∧
    (∀ r inc node revoked peer digest, let i := Instr.ident q r inc node revoked peer digest
      let wrong := r ≠ role ∨ (role = 1 ∧ (peer ≠ ownNode s ∨ node ≠ s.get FIL_PORT_CFG.PEER q ∨ digest ≠ bangleDigest s))
      let seen (t : State) : Prop := t.get FIL_PORT_PEER.ROLE q = r % 4 ∧ t.get FIL_PORT_PEER.NODE q = node % 2 ^ 17;
      (st ≠ Fn.running ∨ l.step ≠ 3 → exec i s = .next s) ∧
      (st = Fn.running → l.step = 3 → revoked = true → Acts i s (fun t => ∃ x, seen x ∧ failed 6 x ∧ t = fencedSelf x)) ∧
      (st = Fn.running → l.step = 3 → revoked = false → wrong → Acts i s (fun t => seen t ∧ failed 5 t)) ∧
      (st = Fn.running → l.step = 3 → revoked = false → ¬wrong → Acts i s (fun t => seen t ∧
        linkAt t q = { l with step := 4, stepAt := nowNs s } ∧ sent Ctl.loopReq t))) ∧
    (∀ tSend : BitVec 64, let time := max (s.get FIL_PORT_LOOP q) (min 65535 (nowN s - tSend.toNat));
      (st ≠ Fn.running ∨ l.step ≠ 4 → exec (.loopRsp q tSend) s = .next s) ∧
      (st = Fn.running → l.step = 4 → Acts (.loopRsp q tSend) s (fun t => t.get FIL_PORT_LOOP q = time ∧
        (l.loops + 1 < 64 → linkAt t q = { l with loops := l.loops + 1 } ∧ sent Ctl.loopReq t) ∧
        (64 ≤ l.loops + 1 → 1310 < time → failed 4 t) ∧
        (64 ≤ l.loops + 1 → time ≤ 1310 → linkAt t q = { l with step := 5, stepAt := nowNs s } ∧ sent Ctl.credit t))))
/-- CREDIT, IDLE, LOOP_REQ, RETRY, DATA_FLIT_RECEIVE, FEC_LOCK_LOSS, FLIT_IDLE_TIMEOUT and BANGLE_HEARTBEAT_MISSING. The initial grant
brings the link UP; on an UP link data flits are acknowledged, accepted in order or asked for again, and it goes DOWN at the eighth
failed retry of a flit, at a loss of FEC lock and after 1 µs without a valid flit. -/
def Obligations.LinkFlits : Prop :=
  ∀ (s : State) (q : Nat), s.sound → q < 24 →
    let l := linkAt s q
    let up := s.get FIL_PORT_STATUS.LINK q = 2
    let seen := { l with lastFlit := nowNs s }
    let at_ (a : Byte) := l.unacked.findIdx? (fun f => f.lseq == a.toNat)
    let sent (x : State) (k : Nat) (t : State) : Prop := ∃ b, t.sent = x.sent ++ [Sent.ctl q (BitVec.ofNat 8 k) b]
    let fell (t : State) : Prop := t.get FIL_PORT_STATUS.LINK q = 0 ∧ t.get FIL_PORT_STATUS.STATE q = s.get FIL_PORT_STATUS.STATE q ∧
      (¬up → linkAt t q = { l with step := 0, unacked := [], waiting := [], retryAt := some (nowNs s) })
    let acked (a : Byte) (t : State) : Prop := (at_ a = none → linkAt t q = seen) ∧
      ∀ i, at_ a = some i → ∃ x, linkAt x q = { seen with unacked := l.unacked.drop (i + 1) } ∧ t = drainLink q l.waiting.length x
    (∀ a b c d, let i := Instr.credit q a b c d;
      (s.get FIL_PORT_STATUS.STATE q = Fn.running → l.step = 5 → Acts (i true) s (fun t => t.get FIL_PORT_STATUS.LINK q = 2 ∧
        t.get FIL_PORT_STATUS.TRAIN_RESULT q = 1 ∧ ∃ x, t = reroute x ∧
          linkAt x q = { seen with credit := [a, b, c, d], step := 0, lastBeat := nowNs s })) ∧
      (s.get FIL_PORT_STATUS.STATE q ≠ Fn.running ∨ l.step ≠ 5 → exec (i true) s = .next s) ∧
      (up → Acts (i false) s (fun t => ∃ x, t = drainLink q l.waiting.length x ∧
        linkAt x q = { seen with credit := List.zipWith (· + ·) l.credit [a, b, c, d] })) ∧
      (¬up → exec (i false) s = .next s)) ∧
    (∀ a, (up → Acts (.idle q a) s (acked a)) ∧ (¬up → exec (.idle q a) s = .next s)) ∧
    (∀ t0, (s.get FIL_PORT_STATUS.LINK q ≠ 0 → Acts (.loopReq q t0) s (fun t => linkAt t q = seen ∧ sent s Ctl.loopRsp t)) ∧
      (s.get FIL_PORT_STATUS.LINK q = 0 → exec (.loopReq q t0) s = .next s)) ∧
    (∀ a, (¬up → exec (.retry q a) s = .next s) ∧
      (up → at_ a = none → Acts (.retry q a) s (fun t => linkAt t q = seen)) ∧
      (∀ i, up → at_ a = some i → 8 ≤ (l.unacked.getD i { lseq := 0 }).tries → Acts (.retry q a) s fell) ∧
      (∀ i, up → at_ a = some i → (l.unacked.getD i { lseq := 0 }).tries < 8 → Acts (.retry q a) s (fun t =>
        linkAt t q = { seen with unacked := l.unacked.take i ++ (l.unacked.drop i).map (fun f => { f with tries := f.tries + 1 }) } ∧
        t.get FIL_PORT_CRC_RETRY q = (s.get FIL_PORT_CRC_RETRY q + (l.unacked.length - i)) % 2 ^ 32))) ∧
    (∀ (lseq a : Byte) vc, let i ok := Instr.dataFlitReceive q ok lseq a vc;
      (∀ ok, ¬up → exec (i ok) s = .next s) ∧
      (up → Acts (i false) s (fun t => linkAt t q = l ∧ sent s Ctl.retry t)) ∧
      (up → lseq.toNat ≠ l.rxSeq → Acts (i true) s (fun t => ∃ x, acked a x ∧ linkAt t q = linkAt x q ∧ sent x Ctl.retry t)) ∧
      (up → lseq.toNat = l.rxSeq → Acts (i true) s (fun t => ∃ x, acked a x ∧
        linkAt t q = { linkAt x q with rxSeq := (l.rxSeq + 1) % 256 } ∧ sent x Ctl.credit t))) ∧
    (up ∨ 3 ≤ l.step → Acts (.fecLockLoss q) s fell) ∧
    (¬up → l.step < 3 → exec (.fecLockLoss q) s = .next s) ∧
    (up → l.lastFlit + 1000 ≤ nowNs s → Acts (.flitIdleTimeout q) s fell) ∧
    (¬up ∨ nowNs s < l.lastFlit + 1000 → exec (.flitIdleTimeout q) s = .next s) ∧
    (let due := up ∧ s.get FIL_PORT_CFG.ROLE q = 1 ∧ l.lastBeat + 300000 ≤ nowNs s;
      (due → Acts (.bangleHeartbeatMissing q) s (fun t => linkAt t q = { l with lastBeat := nowNs s } ∧
        t.sent = s.sent ++ [.report 2 (s.get FIL_PORT_CFG.PEER q)])) ∧
      (¬due → exec (.bangleHeartbeatMissing q) s = .next s))
/-- FIL_START, FIL_STOP, LASER_MODULE_REMOVE and LASER_MODULE_FIT. The interface that starts asks to be taken in; it stops only with no
port RUNNING, and then registered jobs end. A module removed takes its four ports' links DOWN with NO_LASER. -/
def Obligations.FabricInterface : Prop :=
  ∀ s : State, s.sound →
    let st := s.get FIL_STATUS.STATE
    let busy := ∃ q < 24, s.get FIL_PORT_STATUS.STATE q = Fn.running;
    (st ≠ Fn.stopped → exec .filStart s = .next s) ∧
    (st = Fn.stopped → filCheck s = none → Acts .filStart s (fun t => t.get FIL_STATUS.STATE = Fn.running ∧
      t.get FIL_STATUS.FAULT_CODE = Code.done ∧ t.fab = { s.fab with rejoin := true } ∧ t.sent = s.sent ++ [.report 3 (ownNode s)])) ∧
    (∀ c, st = Fn.stopped → filCheck s = some c → Acts .filStart s (fun t => t.get FIL_STATUS.STATE = Fn.faulted ∧
      t.get FIL_STATUS.FAULT_CODE = Code.badArgument ∧ t.fab = s.fab ∧ t.sent = s.sent)) ∧
    (st = Fn.running → busy → Acts .filStop s (fun t => t.get FIL_STATUS.STATE = st ∧ t.get FIL_STATUS.STOP_REJECT = 1 ∧ t.fab = s.fab)) ∧
    (st = Fn.running → ¬busy → Acts .filStop s (fun t => ∃ x, x.get FIL_STATUS.STATE = Fn.stopped ∧
      x.fab = { s.fab with cache := [], cacheUse := [] } ∧ t = forEach (liveJobs s) (endReg Code.deviceLost) x)) ∧
    (st = Fn.faulted → Acts .filStop s (fun t => t.get FIL_STATUS.STATE = Fn.stopped ∧ t.fab = s.fab)) ∧
    (st ≠ Fn.running → st ≠ Fn.faulted → exec .filStop s = .next s) ∧
    (∀ e, (6 ≤ e → exec (.laserModuleRemove e) s = .next s ∧ exec (.laserModuleFit e) s = .next s) ∧
      (e < 6 → Acts (.laserModuleRemove e) s (fun t => ∀ i < 4, t.get FIL_PORT_STATUS.NO_LASER (4 * e + i) = 1 ∧
        (s.get FIL_PORT_STATUS.LINK (4 * e + i) = 2 → t.get FIL_PORT_STATUS.LINK (4 * e + i) = 0))) ∧
      (e < 6 → Acts (.laserModuleFit e) s (fun t => t.fab.noLaser = (if s.fab.noLaser.testBit e then s.fab.noLaser - 2 ^ e else s.fab.noLaser) ∧
        ∀ i < 4, t.get FIL_PORT_STATUS.NO_LASER (4 * e + i) = 0 ∧
          t.get FIL_PORT_STATUS.LINK (4 * e + i) = s.get FIL_PORT_STATUS.LINK (4 * e + i))))

/-- The fourteen fabric transactions. On a link that is not UP nothing arrives. One whose opcode is not its row's or that is for another
node is dropped and counted, but for a clasp, which passes it on; a request whose incarnation differs gets a NACK of FENCED. -/
def Obligations.FabricArrivals : Prop :=
  ∀ (s : State) (q : Nat) (x : Txn) (es : List CombEntry), s.sound → q < 24 →
    let y := noted s q x
    let rows : List (Instr × Nat) := [(.read q x, 0x01), (.readRsp q x, 0x02), (.write q x, 0x03), (.ack q x, 0x04), (.nack q x, 0x05),
      (.atomic q x, 0x06), (.atomicRsp q x, 0x07), (.combAtomic q x es, 0x08), (.combAtomicRsp q x es, 0x09), (.cohInv q x, 0x10),
      (.cohInvAck q x, 0x11), (.pageRead q x, 0x20), (.pageData q x, 0x21), (.pageWrite q x, 0x22)]
    let fenced := incOf s x.src = 0 ∨ incOf s x.src ≠ x.inc;
    (y.get2 FIL_PORT_RX_BYTES_LO FIL_PORT_RX_BYTES_HI q =
        (s.get2 FIL_PORT_RX_BYTES_LO FIL_PORT_RX_BYTES_HI q + 32 + x.payload.length) % 2 ^ 64 ∧
      linkAt y q = { linkAt s q with lastFlit := nowNs s } ∧ y.mems = s.mems ∧
      (extendStamp x.stamp (nowN s) + 1 < 2 ^ 64 → floorF y = max (floorF s) (extendStamp x.stamp (nowN s) + 1))) ∧
    ∀ p ∈ rows,
      (linkUp s q = false → exec p.1 s = .next s) ∧
      (linkUp s q = true → x.opc.toNat ≠ p.2 → Acts p.1 s (fun t => t.mems = s.mems ∧
        t.get FIL_DROP_COUNT = (s.get FIL_DROP_COUNT + 1) % 2 ^ 32)) ∧
      (linkUp s q = true → x.opc.toNat = p.2 → x.dst ≠ ownNode s →
        (s.bit FIL_ROLE.CLASP = false → Acts p.1 s (fun t => t.mems = s.mems ∧ t.get FIL_DROP_COUNT = (s.get FIL_DROP_COUNT + 1) % 2 ^ 32)) ∧
        (s.bit FIL_ROLE.CLASP = true → Acts p.1 s (fun t => t.mems = s.mems ∧ t = relay y x))) ∧
      (linkUp s q = true → x.opc.toNat = p.2 → x.dst = ownNode s → fenced →
        (isRequest p.2 = true → Acts p.1 s (fun t => t.mems = s.mems ∧ ∃ z, t = nack z x Code.fenced 0 ∧
          z.get FIL_FENCED_NACK = (s.get FIL_FENCED_NACK + 1) % 2 ^ 32)) ∧
        (isRequest p.2 = false → exec p.1 s = .next y))
/-- READ, PAGE_READ, WRITE, PAGE_WRITE, ATOMIC and COMB_ATOMIC, accepted on an UP link. What the export table refuses is denied; a write
is applied in its source's stream and acknowledged, a duplicate acknowledged, one ahead asked for again; a read or an atomic waits for
its DSEQ_FLOOR and for the invalidation of its lines. Held requests are tried again whenever one is served or held. -/
def Obligations.FabricRequests : Prop :=
  ∀ (s : State) (q : Nat) (x : Txn) (es : List CombEntry), s.sound → q < 24 →
    let y := noted s q x
    let r := rangeOf x
    let k := ahead y x.src x.dseq
    let floorOk := k = 0 ∨ 2 ^ 31 ≤ k
    let alone := sharersIn y r.1 r.2 (some x.src) = []
    let known := ∃ h ∈ y.fab.held, h.x.src = x.src ∧ h.x.seq = x.seq
    let held (l : List CombEntry) (t : State) : Prop := ∃ z, z.fab.held = y.fab.held ++ [{ x := x, entries := l, at_ := nowNs y }] ∧
      z.mems = y.mems ∧ t = retryHeld z
    let waits (i : Instr) (l : List CombEntry) : Prop := (known → exec i s = .next y) ∧ (¬known → Acts i s (held l))
    let denied (i : Instr) : Prop := Acts i s (fun t => ∃ z, z.mems = y.mems ∧ t = nack z x Code.denied x.dseq ∧
      z.get FIL_DENIED_NACK = (y.get FIL_DENIED_NACK + 1) % 2 ^ 32)
    let stale := extendStamp x.stamp (nowN y) + 120000 < nowN y;
    (∀ p ∈ [(Instr.read q x, 0x01, 0x02), (.pageRead q x, 0x20, 0x21)], accepted s q p.2.1 x →
      (exported y x = false → denied p.1) ∧
      (exported y x = true → ¬floorOk ∨ invPending y r.1 r.2 = true → waits p.1 []) ∧
      (exported y x = true → floorOk → invPending y r.1 r.2 = false → (devRead y r.1 r.2).1 ≠ Code.done →
        exec p.1 s = .next (retryHeld (nack y x (devRead y r.1 r.2).1 0))) ∧
      (exported y x = true → floorOk → invPending y r.1 r.2 = false → (devRead y r.1 r.2).1 = Code.done →
        Acts p.1 s (fun t => ∃ z, z.mems = y.mems ∧
          t = retryHeld (reply z x p.2.2 Code.done 0 (devRead y r.1 r.2).2.1 (devRead y r.1 r.2).2.2)))) ∧
    (∀ p ∈ [(Instr.write q x, 0x03), (.pageWrite q x, 0x22)], accepted s q p.2 x →
      (k = 0 → exported y x = false → Acts p.1 s (fun t => ∃ z, z.mems = y.mems ∧ expectedOf z x.src = expectedOf y x.src + 1 ∧
        z.get FIL_DENIED_NACK = (y.get FIL_DENIED_NACK + 1) % 2 ^ 32 ∧ t = retryHeld (nack z x Code.denied x.dseq))) ∧
      (k = 0 → exported y x = true → ¬alone → waits p.1 []) ∧
      (k = 0 → exported y x = true → alone → Acts p.1 s (fun t => ∃ z, z.mems = y.mems ∧ expectedOf z x.src = expectedOf y x.src + 1 ∧
        (devWriteCode y r.1 r.2 ≠ Code.done → t = retryHeld (nack z x (devWriteCode y r.1 r.2) x.dseq)) ∧
        (devWriteCode y r.1 r.2 = Code.done → p.2 = 0x03 → t = retryHeld (ackHighest (devStore z r.1 x.payload x.poison) x)) ∧
        (devWriteCode y r.1 r.2 = Code.done → p.2 = 0x22 → t = retryHeld (ackHighest (pageStore z r.1 x.payload x.poison) x)))) ∧
      (2 ^ 31 ≤ k → Acts p.1 s (fun t => t.mems = y.mems ∧ ∃ z, expectedOf z x.src = expectedOf y x.src ∧ t = ackHighest z x ∧
        z.get FIL_DUP_DISCARD = (y.get FIL_DUP_DISCARD + 1) % 2 ^ 32)) ∧
      (0 < k → k < 2 ^ 31 → Acts p.1 s (fun t => t.mems = y.mems ∧ t = nack y x Code.done (BitVec.ofNat 32 (expectedOf y x.src))))) ∧
    (let c := atomicCode y x
      let one := atomicOnce y x.src x.seq x.addr x.atop x.payload;
      accepted s q 0x06 x →
      (exported y x = false → denied (.atomic q x)) ∧
      (exported y x = true → stale → exec (.atomic q x) s = .next y) ∧
      (exported y x = true → ¬stale →
        (∀ o, recordOf y x.src x.seq = some o → Acts (.atomic q x) s (fun t => t.mems = y.mems ∧
          t = reply y x 0x07 Code.done 0 (bytesLe (atopWidth x.atop) o) false)) ∧
        (recordOf y x.src x.seq = none → ¬floorOk ∨ (c = Code.done ∧ ¬alone) → waits (.atomic q x) []) ∧
        (recordOf y x.src x.seq = none → floorOk → c ≠ Code.done → exec (.atomic q x) s = .next (retryHeld (nack (atomicSee y x c) x c 0))) ∧
        (recordOf y x.src x.seq = none → floorOk → c = Code.done → alone → Acts (.atomic q x) s (fun t =>
          recordOf one.2 x.src x.seq = some one.1 ∧
          t = retryHeld (reply one.2 x 0x07 Code.done 0 (bytesLe (atopWidth x.atop) one.1) false))))) ∧
    (let c := atomicCode y x;
      accepted s q 0x08 x →
      (exported y x = false → denied (.combAtomic q x es)) ∧
      (exported y x = true → 32 < es.length ∨ stale → exec (.combAtomic q x es) s = .next y) ∧
      (exported y x = true → es.length ≤ 32 → ¬stale →
        (c ≠ Code.done → exec (.combAtomic q x es) s = .next (retryHeld (nack (atomicSee y x c) x c 0))) ∧
        (c = Code.done → ¬alone → waits (.combAtomic q x es) es) ∧
        (c = Code.done → alone → exec (.combAtomic q x es) s = .next (retryHeld (applyComb y x es)))))
/-- COH_INV, COH_INV_ACK, READ_RSP, PAGE_DATA, ACK, NACK, ATOMIC_RSP and COMB_ATOMIC_RSP, accepted on an UP link. An answer ends the wait
of the request that it names, with the progress of its destination noted; an ACK frees the copies up to its DSEQ. -/
def Obligations.FabricAnswers : Prop :=
  ∀ (s : State) (q : Nat) (x : Txn) (es : List CombEntry), s.sound → q < 24 →
    let y := noted s q x
    let ended (seq : Word) (z : State) : Prop := z.fab.pend = y.fab.pend.filter (fun p => p.x.seq != seq) ∧
      (destAt z x.src).progress = nowNs s ∧ z.mems = y.mems;
    (accepted s q 0x10 x → Acts (.cohInv q x) s (fun t => t.mems = y.mems ∧
      ∃ z, cacheLine z (globalAddr x.src x.addr / 128) = [] ∧ t = reply z x 0x11 Code.done 0 [] false)) ∧
    (accepted s q 0x11 x →
      (banglePos y x.src = none → exec (.cohInvAck q x) s = .next y) ∧
      (∀ p, banglePos y x.src = some p → let m := mapGet zeroN y.fab.dir (x.addr / 128);
        Acts (.cohInvAck q x) s (fun t => ∃ z, t = settleHome z ∧
          mapGet zeroN z.fab.dir (x.addr / 128) = (if m.testBit p then m - 2 ^ p else m)))) ∧
    (∀ p ∈ [(Instr.readRsp q x, 0x02), (.pageData q x, 0x21)], accepted s q p.2 x →
      (pendOf y x = none → exec p.1 s = .next y) ∧
      (∀ w, pendOf y x = some w → Acts p.1 s (fun t => ∃ z, ended x.seq z ∧
        t = deliver z w.who (globalAddr x.src w.x.addr) x.payload x.poison))) ∧
    (accepted s q 0x04 x →
      let d := destAt y x.src
      let covered (c : WCopy) : Bool := decide ((x.dseq - c.x.dseq).toNat < 2 ^ 31);
      (d.copies.filter covered = [] → exec (.ack q x) s = .next y) ∧
      (d.copies.filter covered ≠ [] → Acts (.ack q x) s (fun t => ∃ z, t = afterAck z (d.copies.filter covered) ∧
        destAt z x.src = { d with copies := d.copies.filter (fun c => !covered c), progress := nowNs s }))) ∧
    (accepted s q 0x05 x → Acts (.nack q x) s (fun t => ∃ z, destAt z x.src = { destAt y x.src with progress := nowNs s } ∧ z.mems = y.mems ∧
      (x.code.toNat = Code.done → t = resendFrom z x.src x.dseq) ∧ (x.code.toNat = Code.fenced → t = fencedSelf z) ∧
      (x.code.toNat ≠ Code.done → x.code.toNat ≠ Code.fenced → t = refused z x x.code.toNat))) ∧
    (accepted s q 0x07 x →
      let old := leNat x.payload
      let asked := y.fab.pend.find? (fun p => p.x.seq == x.seq && p.x.dst == x.src && p.x.opc.toNat == 0x06);
      (asked = none → exec (.atomicRsp q x) s = .next y) ∧
      (∀ p n uid, asked = some p → p.who = .cmd n uid → Acts (.atomicRsp q x) s (fun t => ∃ z, ended x.seq z ∧
        t = oldTold (bumpAcked z n x.src) n uid old)) ∧
      (∀ p, asked = some p → (∀ n uid, p.who ≠ .cmd n uid) → Acts (.atomicRsp q x) s (ended x.seq))) ∧
    (accepted s q 0x09 x → Acts (.combAtomicRsp q x es) s (fun t =>
      (es.filter (fun e => e.src == ownNode s) = [] → t = y) ∧
      ∀ e, es.filter (fun e => e.src == ownNode s) = [e] → t = atomicAnswer y x.src e.seq e.value.toNat true))
/-- HELD_REQUEST_DROP, RESEND_TIMEOUT, TARGET_LOST_TIMEOUT, ATOMIC_RETRY, ATOMIC_UNCERTAIN_TIMEOUT and REPLY_RECORD_EXPIRY: nothing
before its time; then a held request or a reply record goes, writes and reads are sent again, an atomic is retried at most four times,
and at 100 µs a destination is lost or an atomic uncertain. -/
def Obligations.FabricTimers : Prop :=
  ∀ s : State, s.sound →
    let now := nowNs s;
    (∀ i, (∀ h, s.fab.held[i]? = some h → h.at_ + 100000 ≤ now → Acts (.heldRequestDrop i) s (fun t =>
        t.fab = { s.fab with held := s.fab.held.eraseIdx i } ∧ t.mems = s.mems ∧ t.sent = s.sent)) ∧
      ((∀ h, s.fab.held[i]? = some h → now < h.at_ + 100000) → exec (.heldRequestDrop i) s = .next s)) ∧
    (∀ node, let d := destAt s node
      let due (p : Pend) : Bool := p.x.dst == node && p.x.opc.toNat != 0x06 && decide (p.last + 20000 ≤ now)
      let late := ∃ c, d.copies.head? = some c ∧ c.at_ + 20000 ≤ now;
      (late → exec (.resendTimeout node) s = .next (readsDue (resendAll s node 0) node)) ∧
      (¬late → Acts (.resendTimeout node) s (fun t => t.mems = s.mems ∧ t.fab.pend = s.fab.pend.map (fun p =>
        if due p then { p with last := now, tries := p.tries + 1, x := { p.x with resend := true } } else p))) ∧
      (¬late → (∀ p ∈ s.fab.pend, due p = false) → exec (.resendTimeout node) s = .next s) ∧
      (let lost := (d.copies ≠ [] ∨ ∃ p ∈ s.fab.pend, p.x.dst = node) ∧ d.progress + 100000 ≤ now;
        (lost → exec (.targetLostTimeout node) s = .next (targetLost s node)) ∧
        (¬lost → exec (.targetLostTimeout node) s = .next s))) ∧
    (∀ seq, let retried (p : Pend) : Prop := p.tries < 4 ∧ p.first + 20000 * (p.tries + 1) ≤ now
      let dropped := s.fab.pend.filter (fun p => p.x.seq != seq);
      (atomicPend s seq = none → exec (.atomicRetry seq) s = .next s ∧ exec (.atomicUncertainTimeout seq) s = .next s) ∧
      (∀ p, atomicPend s seq = some p →
        (retried p → Acts (.atomicRetry seq) s (fun t => t.get FIL_ATOM_RETRY = (s.get FIL_ATOM_RETRY + 1) % 2 ^ 32 ∧
          t.fab.pend = s.fab.pend.map (fun r => if r.x.seq = seq then
            { r with tries := r.tries + 1, last := now, x := { r.x with resend := true } } else r))) ∧
        (¬retried p → exec (.atomicRetry seq) s = .next s) ∧
        (now < p.first + 100000 → exec (.atomicUncertainTimeout seq) s = .next s) ∧
        (p.first + 100000 ≤ now → Acts (.atomicUncertainTimeout seq) s (fun t => ∃ z, z.fab.pend = dropped ∧
          z.get FIL_ATOM_UNCERTAIN = (s.get FIL_ATOM_UNCERTAIN + 1) % 2 ^ 32 ∧ z.sent = s.sent ++ [.report 1 p.x.dst] ∧
          let w := whoFault z p.who Code.atomicUncertain p.x.addr;
          (∀ n uid, p.who = .cmd n uid → t = if w.2 then w.1 else replayUncertain w.1 uid) ∧
          ((∀ n uid, p.who ≠ .cmd n uid) → t = w.1))))) ∧
    (∀ src seq, let k := src * 2 ^ 32 + BitVec.toNat (w := 32) seq
      let kept := s.fab.replies.find? (fun p => p.1 == k);
      (∀ p, kept = some p → p.2.2 + 250000 ≤ now → Acts (.replyRecordExpiry src seq) s (fun t =>
        t.fab = { s.fab with replies := mapErase s.fab.replies k } ∧ t.mems = s.mems)) ∧
      ((∀ p, kept = some p → now < p.2.2 + 250000) → exec (.replyRecordExpiry src seq) s = .next s))

/-- JRNL_START, JRNL_STOP, JOURNAL_FLUSH and MARGIN_CROSSING. A stop while replays are pending is refused. A flush that is due
writes the open block at the write pointer and counts it. A value on the wrong side of its threshold is published, noted in
MARGIN_STATUS and recorded. -/
def Obligations.JournalCommands : Prop :=
  ∀ (s : State), s.sound →
    let st := s.get JRNL_STATUS.STATE
    let w := s.get JRNL_WPTR
    let blocks := s.get2 JRNL_BLOCKS_LO JRNL_BLOCKS_HI
    let due : Prop := s.jr.recs ≠ [] ∧ s.jr.firstAt + max 1000 (min 100000 (s.get JRNL_FLUSH_PERIOD)) ≤ nowNs s
    (st ≠ Fn.stopped → exec .jrnlStart s = .next s) ∧
    (st = Fn.stopped → Acts .jrnlStart s (fun t => t.get JRNL_STATUS.STATE = Fn.running ∧ t.get JRNL_STATUS.FAULT_CODE = Code.done)) ∧
    (s.get JRNL_REPLAY_PENDING ≠ 0 → Acts .jrnlStop s (fun t => t.get JRNL_STATUS.STOP_REJECT = 1 ∧ t.get JRNL_STATUS.STATE = st)) ∧
    (s.get JRNL_REPLAY_PENDING = 0 → st = Fn.running ∨ st = Fn.faulted → Acts .jrnlStop s (fun t => t.get JRNL_STATUS.STATE = Fn.stopped)) ∧
    (s.get JRNL_REPLAY_PENDING = 0 → st ≠ Fn.running → st ≠ Fn.faulted → exec .jrnlStop s = .next s) ∧
    (¬due → exec .journalFlush s = .next s) ∧
    (due → Acts .journalFlush s (fun t =>
      let a := 0x40000000 + w * 4096
      t.jr = { s.jr with recs := [] } ∧ t.get JRNL_WPTR = (w + 1) % 65536 ∧
      t.get2 JRNL_BLOCKS_LO JRNL_BLOCKS_HI = (blocks + 1) % 2 ^ 64 ∧ (w = 65535 → t.get JRNL_STATUS.WRAPPED = 1) ∧
      t.mems = (devStore (raiseMem s 24 a 4096) a (bytesLe 4 0x4C4E524A ++ bytesLe 1 s.jr.recs.length ++ bytesLe 3 0 ++
        bytesLe 8 blocks ++ bytesLe 8 s.jr.firstTime ++ bytesLe 40 0 ++ s.jr.recs.flatten)).mems)) ∧
    (∀ m n v retire,
      let limit := threshold s (if retire then MARGIN_RETIRE else MARGIN_WARN) m
      let crossed := m < 7 ∧ n < marginPlaces m ∧ crosses m v limit = true
      let shows (t : State) (f : Fld) (i k : Nat) : Prop := t.get f i k = (v % 2 ^ f.w).toNat
      (¬crossed → exec (.marginCrossing m n v retire) s = .next s) ∧
      (crossed → Acts (.marginCrossing m n v retire) s (fun t =>
        t.get (if retire then MARGIN_STATUS.RETIRE_DUE else MARGIN_STATUS.WARN) = 1 ∧
        journalled s t { typ := 0x31, arg := m, detail := (v % 2 ^ 64).toNat } ∧
        (m = 0 → shows t MARGIN_CORE.DROOP n 0) ∧ (m = 1 → shows t MARGIN_CORE.SLACK n 0) ∧ (m = 2 → shows t MARGIN_CORE.CANARY n 0) ∧
        (m = 3 → shows t MARGIN_OPT.RX_POWER (n / 4) (n % 4)) ∧ (m = 4 → shows t MARGIN_OPT.BIAS (n / 4) (n % 4)) ∧
        (m = 5 → n < 96 → shows t MARGIN_OPT.EYE (n / 4) (n % 4)) ∧ (m = 5 → 96 ≤ n → shows t MARGIN_FH_EYE (n - 96) 0) ∧
        (m = 6 → shows t MARGIN_STACK_CE n 0))))
/-- VERDICT, INCARNATION, PARTITION_DETECT and PARTITION_HEAL. A verdict is recorded with its epoch before it takes effect: a
member restarted has its streams begin again, a dead one is lost, the device itself is fenced. How many replicas a device hears
beside their majority is not stated by the spec: any number on its side of two. -/
def Obligations.Membership : Prop :=
  ∀ (s : State), s.sound →
    let own := ownNode s
    (∀ node inc epoch,
      let d := node % 2 ^ 17
      let k := inc % 65536
      let told (x : State) : Prop := x.sound ∧ x.get2 JRNL_MGR_EPOCH_LO JRNL_MGR_EPOCH_HI = epoch.toNat ∧
        journalled s x { typ := 0x20, node := d, arg := k, detail := epoch.toNat } ∧ x.fab = s.fab
      let learnt (x y : State) : Prop := y = { x with fab := { x.fab with incs := mapPut zeroN x.fab.incs d k } }
      (d = own → k ≠ 0 → Acts (.verdict node inc epoch) s told) ∧
      (d = own → k = 0 → Acts (.verdict node inc epoch) s (fun t => ∃ x, told x ∧ t = fencedSelf x ∧
        (s.get FIL_STATUS.FENCED = 1 → t = x) ∧
        (s.get FIL_STATUS.FENCED = 0 → t.fab.rejoin = true ∧ t.fab.cache = [] ∧ t.fab.cacheUse = []))) ∧
      (d ≠ own → k ≠ 0 → Acts (.verdict node inc epoch) s (fun t => t.get2 JRNL_MGR_EPOCH_LO JRNL_MGR_EPOCH_HI = epoch.toNat ∧
        ∃ x y, told x ∧ learnt x y ∧ t = reroute (restartStream y d))) ∧
      (d ≠ own → k = 0 → Acts (.verdict node inc epoch) s (fun t => ∃ x y, told x ∧ learnt x y ∧
        let z := dropSharer y d
        let lost := if (busyNodes z).elem d then targetLost z d else setDest z d { destAt z d with lost := true }
        t = takeoversOf (forEach ((liveJobs lost).filter (fun j => (jobNodes lost j).elem d)) (endReg Code.deviceLost) lost) d))) ∧
    (∀ inc,
      let go := s.fab.rejoin = true ∧ noTraffic s = true
      (¬go → exec (.incarnation inc) s = .next s) ∧
      (go → Acts (.incarnation inc) s (fun t => t.vig = s.vig ∧ (s.cores = [] →
        t.get FIL_INCARNATION = inc % 65536 ∧ t.get FIL_STATUS.FENCED = 0 ∧ t.fab.rejoin = false ∧ t.fab.expected = [] ∧
        journalled s t { typ := 0x21, arg := inc % 65536 })))) ∧
    (∀ answered, (s.get FIL_STATUS.PARTITIONED = 1 → exec (.partitionDetect answered) s = .next s) ∧
      (s.get FIL_STATUS.PARTITIONED = 0 → Acts (.partitionDetect answered) s (fun t => ∃ x, x.sound ∧
        x.get FIL_STATUS.PARTITIONED = 1 ∧ x.get JRNL_MGR_STATUS.HEARD < 2 ∧ x.get JRNL_MGR_STATUS.MAJORITY = 0 ∧
        journalled s x { typ := 0x22, arg := 1, detail := s.get2 JRNL_MGR_EPOCH_LO JRNL_MGR_EPOCH_HI } ∧ x.cells = s.cells ∧
        let cut := (liveJobs x).filter (fun j => (jobNodes x j).any (fun d => d != ownNode x && !(answered.elem d)))
        let y := forEach cut (endReg Code.partitioned) x
        t = forEach ((mapKeys y.cells).filter (fun c => (cellAt y c).active && y.bit CODEC_CELL_PARTNER.REPL_EN c))
          (fun s c => s.set CODEC_CELL_STATUS.REPL_SUSPENDED 1 c) y))) ∧
    (∀ inc, (s.get FIL_STATUS.PARTITIONED = 0 → exec (.partitionHeal inc) s = .next s) ∧
      (s.get FIL_STATUS.PARTITIONED = 1 → noTraffic s = false → Acts (.partitionHeal inc) s (fun t =>
        t.fab = { s.fab with rejoin := true } ∧ t.regs = s.regs ∧ t.sent = s.sent)) ∧
      (s.get FIL_STATUS.PARTITIONED = 1 → noTraffic s = true → Acts (.partitionHeal inc) s (fun t =>
        t.get FIL_STATUS.PARTITIONED = 0 ∧ (∃ l h, t.sent = l ++ [.history h]) ∧
        (s.cores = [] → t.get FIL_INCARNATION = inc % 65536 ∧ t.get FIL_STATUS.FENCED = 0 ∧ t.fab.rejoin = false ∧
          t.get JRNL_MGR_STATUS.MAJORITY = 1 ∧ 2 ≤ t.get JRNL_MGR_STATUS.HEARD))))

/-- AON_PWRGOOD_RISE, POR_ASSERT, POR_RELEASE, WARM_RESET, PWR_GOOD_RISE, PWR_GOOD_FALL, PWR_GOOD_TIMEOUT, THERM_WARN, THERM_TRIP and
JUNCTION_OUT_OF_RANGE. A restart ends all work and begins step 1, where the next enable is raised once every enabled group is good.
POR_L holds the device with every enable low. A lost rail and a trip lower the rails and halt the Vigil with UNCORRECTABLE. -/
def Obligations.ResetPins : Prop :=
  ∀ (s : State), s.sound →
    let v := s.vig
    let enables (stage en good : Nat) : Nat := if stage = Stage.romBoot ∧ en &&& good = en ∧ en < 63 then 2 * en + 1 else en
    let restarts (t : State) := vigStage t = Stage.romBoot ∧ t.vig.en = enables Stage.romBoot v.en v.good ∧ nothingRuns t
    let halts (t : State) := haltedNow t ∧ t.vig.en = 0 ∧ nothingRuns t
    (v.aon = true → exec .aonPwrgoodRise s = .next s) ∧
    (v.aon = false → Acts .aonPwrgoodRise s (fun t => t.vig.aon = true ∧ t.vig.vid = some (min s.fuses.vidN 30, min s.fuses.vidS 30) ∧
      t.vig.smbAddr = some (0x58 + s.fuses.straps % 4) ∧ (v.por = false → restarts t) ∧ (v.por = true → t.regs = s.regs))) ∧
    Acts .porAssert s (fun t => t.vig.por = true ∧ t.vig.en = 0 ∧ t.vig.trip = false ∧ nothingRuns t) ∧
    (v.por = false → exec .porRelease s = .next s) ∧
    (v.por = true → Acts .porRelease s (fun t => t.vig.por = false ∧ (v.aon = true → restarts t) ∧ (v.aon = false → t.regs = s.regs))) ∧
    (v.por = true ∨ v.aon = false → exec .warmReset s = .next s) ∧
    (v.por = false → v.aon = true → Acts .warmReset s restarts) ∧
    (∀ k, 6 ≤ k → exec (.pwrGoodRise k) s = .next s ∧ exec (.pwrGoodFall k) s = .next s ∧ exec (.pwrGoodTimeout k) s = .next s) ∧
    (∀ k, k < 6 →
      Acts (.pwrGoodRise k) s (fun t => t.vig.good = v.good ||| 2 ^ k ∧ t.vig.en = enables (vigStage s) v.en (v.good ||| 2 ^ k) ∧ t.regs = s.regs) ∧
      (v.en.testBit k = true → Acts (.pwrGoodFall k) s halts) ∧
      (v.en.testBit k = false → Acts (.pwrGoodFall k) s (fun t =>
        t.vig.good = (if v.good.testBit k then v.good - 2 ^ k else v.good) ∧ t.vig.en = v.en ∧ t.regs = s.regs)) ∧
      (vigStage s = Stage.romBoot ∧ v.en.testBit k = true ∧ v.good.testBit k = false → Acts (.pwrGoodTimeout k) s halts) ∧
      (¬(vigStage s = Stage.romBoot ∧ v.en.testBit k = true ∧ v.good.testBit k = false) → exec (.pwrGoodTimeout k) s = .next s)) ∧
    Acts .thermTrip s (fun t => t.vig.trip = true ∧ halts t) ∧
    (∀ die sensor milliC,
      let others := v.hot.filter (· ≠ (die, sensor))
      let hot := if 87000 ≤ milliC then others ++ [(die, sensor)] else others
      Acts (.thermWarn die sensor milliC) s (fun t => t.vig.hot = hot ∧ (t.vig.warn = true ↔ 90000 ≤ milliC ∨ (v.warn = true ∧ hot ≠ [])) ∧
        (milliC < 105000 → t.vig.trip = v.trip ∧ t.regs = s.regs) ∧ (105000 ≤ milliC → t.vig.trip = true ∧ halts t))) ∧
    (∀ n, (128 ≤ n ∨ coreUsable s n = false → exec (.junctionOutOfRange n) s = .next s) ∧
      (n < 128 → coreUsable s n = true → Acts (.junctionOutOfRange n) s (fun t =>
        (coreAt t n).stopped = true ∧ getBits (rdReg t (JRNL_SUSPECT.addr (n / 32))) (n % 32) 1 = 1)))

/-- ROM_BOOT, AUTH, ALMANAC, CLOCKS, ALIGN, MEMORY, ARRAYS, FIRMWARE, FIRMWARE_TIMEOUT and FUNCTIONS: outside its own step a row
changes nothing; in it, the step ends and the next begins, or the device halts, or the half in use is given up. The code of a
firmware that takes too long is not stated by the spec: some code of the table. -/
def Obligations.VigilSteps : Prop :=
  ∀ (s : State), s.sound →
    let v := s.vig
    let at_ (k : Nat) (t : State) : Prop := vigStage t = k
    let stamped (k : Nat) (t : State) : Prop := t.get GLOBAL_VIGIL_T (k - 1) = (v.base + (nowNs s - v.baseAt) / 1000000) % 2 ^ 32
    (¬(vigStage s = Stage.romBoot ∧ v.en = 63 ∧ v.good = 63) → exec .romBoot s = .next s) ∧
    (vigStage s = Stage.romBoot → v.en = 63 → v.good = 63 → Acts .romBoot s (at_ Stage.auth)) ∧
    (∀ a b, (vigStage s ≠ Stage.auth → exec (.auth a b) s = .next s) ∧
      (vigStage s = Stage.auth →
        let half (i : Nat) : FlashHeader := if i = 0 then a else b
        let tried := if v.second then [s.get GLOBAL_VIGIL_STATUS.HALF] else [firstHalf a b, 1 - firstHalf a b]
        ((∀ i ∈ tried, halfOk (half i) = false) → Acts (.auth a b) s (fun t => vigStage t = Stage.recovery ∧
          t.get GLOBAL_VIGIL_STATUS.FAULT_CODE = Code.hallmarkReject ∧ t.vig.en = 0 ∧ nothingRuns t)) ∧
        (∀ i, i < 2 → tried.find? (fun i => halfOk (half i)) = some i → Acts (.auth a b) s (fun t => vigStage t = Stage.almanac ∧
          t.get GLOBAL_VIGIL_STATUS.HALF = i ∧ t.get GLOBAL_VIGIL_SECVER = hdrVersion (half i).header % 2 ^ 32 ∧
          t.operatorKey = hdrKey (half i).header ∧ t.vig.header = (half i).header ∧ t.vig.sections = (half i).sections ∧
          (sectNamed (half i).header 4 = false → t.vig.minCores = 64 ∧ t.vig.timeWait = 55 ∧ t.vig.joinWait = 30) ∧
          (sectNamed (half i).header 4 = true → t.vig.minCores = (half i).minCores ∧ t.vig.timeWait = (half i).timeWait ∧
            t.vig.joinWait = (half i).joinWait))))) ∧
    (∀ lock, vigStage s ≠ Stage.almanac → exec (.almanac lock) s = .next s) ∧
    (vigStage s = Stage.almanac → Acts (.almanac false) s haltedNow ∧ Acts (.almanac true) s (fun t => vigStage t = Stage.clocks ∧
      t.clk.n = 0 ∧ t.clk.frac = 0 ∧ t.get ALM_STATUS.TIME_STATE = Ts.freeRun)) ∧
    (∀ lock, vigStage s ≠ Stage.clocks → exec (.clocks lock) s = .next s) ∧
    (vigStage s = Stage.clocks → Acts (.clocks false) s haltedNow ∧ Acts (.clocks true) s (fun t => vigStage t = Stage.align ∧ stamped 4 t)) ∧
    (∀ ok, vigStage s ≠ Stage.align → exec (.align ok) s = .next s) ∧
    (vigStage s = Stage.align →
      Acts (.align true) s (fun t => vigStage t = Stage.memory ∧ stamped 5 t) ∧
      (s.get GLOBAL_VIGIL_STATUS.ALIGN_RETRIES < 3 → Acts (.align false) s (fun t => vigStage t = Stage.align ∧
        t.get GLOBAL_VIGIL_STATUS.ALIGN_RETRIES = s.get GLOBAL_VIGIL_STATUS.ALIGN_RETRIES + 1)) ∧
      (3 ≤ s.get GLOBAL_VIGIL_STATUS.ALIGN_RETRIES → Acts (.align false) s haltedNow)) ∧
    (∀ m, (vigStage s ≠ Stage.memory → exec (.memory m) s = .next s) ∧
      (vigStage s = Stage.memory →
        let missing := ((List.range 16).filter (fun i => !m.getLsbD i)).length
        Acts (.memory m) s (fun t => t.get MEM_TOP = (16 - missing) * 48 ∧ (missing ≤ 2 → vigStage t = Stage.arrays) ∧
          (2 < missing → haltedNow t)))) ∧
    (∀ l, (vigStage s ≠ Stage.arrays → exec (.arrays l) s = .next s) ∧
      (vigStage s = Stage.arrays → Acts (.arrays l) s (fun t =>
        (v.minCores ≤ t.get GLOBAL_CORES.EFFECTIVE → vigStage t = Stage.firmware) ∧
        (t.get GLOBAL_CORES.EFFECTIVE < v.minCores → haltedNow t)))) ∧
    (∀ ok key mgmt cp images, (vigStage s ≠ Stage.firmware → exec (.firmware ok key mgmt cp images) s = .next s) ∧
      (vigStage s = Stage.firmware →
        let good := ok = true ∧ sectGood s 1 = true ∧ sectGood s 2 = true ∧ sectGood s 3 = true
        (¬good → Acts (.firmware ok key mgmt cp images) s (halfGivenUp s Code.hallmarkReject)) ∧
        (good → images = [] → Acts (.firmware ok key mgmt cp images) s (fun t => vigStage t = Stage.functions ∧ t.sealKey = key ∧ t.cpFw = cp)) ∧
        (good → Acts (.firmware ok key mgmt cp images) s (fun t =>
          (vigStage t = Stage.functions ∧ t.sealKey = key ∧ t.cpFw = cp) ∨ vigStage t = Stage.romBoot ∨ vigStage t = Stage.recovery)))) ∧
    (let late := vigStage s = Stage.firmware ∧ v.stepAt + 60000000000 ≤ nowNs s; (¬late → exec .firmwareTimeout s = .next s) ∧
      (late → Acts .firmwareTimeout s (fun t => ∃ c ∈ codeList, halfGivenUp s c t))) ∧
    (vigStage s ≠ Stage.functions ∨ v.sect.isSome = true → exec .functions s = .next s) ∧
    (vigStage s = Stage.functions → v.sect = none → domOn s 197 = true → s.get HOST_STATUS.STATE = Fn.stopped →
      (nextSect s 0 = none → Acts .functions s (fun t => t.get HOST_STATUS.STATE = Fn.running ∧ vigStage t = Stage.timeLock)) ∧
      (∀ k, nextSect s 0 = some k → sectGood s k = true → Acts .functions s (fun t => t.get HOST_STATUS.STATE = Fn.running ∧
        vigStage t = Stage.functions ∧ t.vig.sect = some k ∧ t.vig.recNo = 0 ∧ t.vig.waitFn = none)) ∧
      (∀ k, nextSect s 0 = some k → sectGood s k = false → Acts .functions s (halfGivenUp s Code.hallmarkReject)))

/-- CFG_WRITE, CFG_BLOB, CFG_START, CFG_WAIT and CFG_END. A record that is not the one being applied changes nothing; one whose
function is FAULTED fails with that function's code; otherwise it acts as its kind says, and the next record is due, or the
section ends. In step 9 a failure gives up the half in use, in a live apply it ends the operation. -/
def Obligations.ConfigRecords : Prop :=
  ∀ (s : State), s.sound →
    let v := s.vig
    let due (r : CfgRec) : Prop := ∃ sec, v.sect = some sec ∧
      ((v.nvm = false ∧ vigStage s = Stage.functions) ∨ (v.nvm = true ∧ (nvmRecs s sec)[v.recNo]? = some r))
    let strayed (r : CfgRec) : Prop := v.sect = none ∨ (v.nvm = false ∧ vigStage s ≠ Stage.functions) ∨
      (v.nvm = true ∧ ∃ sec x, v.sect = some sec ∧ (nvmRecs s sec)[v.recNo]? = some x ∧ x.ok = true ∧ x ≠ r)
    let free (reg : Nat) : Prop := ∀ st, ownerOf reg = some st → fnState s st ≠ Fn.faulted
    let failed (x : State) (code : Nat) (t : State) : Prop :=
      (x.vig.nvm = false → halfGivenUp x code t) ∧
      (x.vig.nvm = true → t.vig.nvm = false ∧ t.vig.sect = none ∧ t.vig.waitFn = none ∧ t.regs = x.regs ∧
        (x.mbx.op.isSome = true → x.mbx.code = none → t.mbx.code = some code))
    let nextDue (x t : State) : Prop := t.vig.recNo = x.vig.recNo + 1 ∧ t.vig.waitFn = none ∧ t.vig.sect = x.vig.sect ∧
      regsBut (if x.vig.nvm then [MBX_PROGRESS.addr] else []) x t
    let put (reg : Nat) (w : Word) : State := busWrite s (.mp 0) reg 4 (w.setWidth 64)
    (∀ reg w, let r : CfgRec := { kind := 0, reg := reg, value := w.toNat, aux := 0, data := [], ok := true }
      (strayed r → exec (.cfgWrite reg w) s = .next s) ∧
      (due r → free reg → Acts (.cfgWrite reg w) s (nextDue (put reg w))) ∧
      (∀ st, due r → ownerOf reg = some st → fnState s st = Fn.faulted → Acts (.cfgWrite reg w) s (failed s (codeAt s st)))) ∧
    (∀ off d, let r : CfgRec := { kind := 1, reg := 0, value := off, aux := d.length, data := d, ok := true }
      (strayed r → exec (.cfgBlob off d) s = .next s) ∧
      (due r → Acts (.cfgBlob off d) s (fun t => nextDue (homeWrite s off d false) t ∧ t.mems = (homeWrite s off d false).mems))) ∧
    (∀ reg w st, let r : CfgRec := { kind := 2, reg := reg, value := w.toNat, aux := st, data := [], ok := true }
      let ends (x : State) (since : Nat) (t : State) : Prop :=
        let f := getBits (peekReg x st) 0 3
        (f = Fn.running → nextDue x t) ∧
        (f ≠ Fn.running → f = Fn.faulted ∨ since + 100000000 ≤ nowNs x → failed x (codeAt x st) t) ∧
        (f ≠ Fn.running → f ≠ Fn.faulted → nowNs x < since + 100000000 → t = x)
      (strayed r → exec (.cfgStart reg w st) s = .next s) ∧
      (due r → free reg → v.waitFn = none → let x := put reg w
        Acts (.cfgStart reg w st) s (ends { x with vig := { x.vig with waitFn := some (st, nowNs x) } } (nowNs x))) ∧
      (∀ since, due r → free reg → v.waitFn = some (st, since) → Acts (.cfgStart reg w st) s (ends s since)) ∧
      (∀ o, due r → ownerOf reg = some o → fnState s o = Fn.faulted → Acts (.cfgStart reg w st) s (failed s (codeAt s o)))) ∧
    (∀ reg mask want late,
      let aux := ((nvmRecs s (v.sect.getD 0))[v.recNo]?.map (·.aux)).getD 0
      let r : CfgRec := { kind := 3, reg := reg, value := mask.toNat * 2 ^ 32 + want.toNat, aux := aux, data := [], ok := true }
      (strayed r → exec (.cfgWait reg mask want late) s = .next s) ∧
      (due r → free reg → peekReg s reg &&& mask = want → Acts (.cfgWait reg mask want late) s (nextDue s)) ∧
      (due r → free reg → peekReg s reg &&& mask ≠ want →
        exec (.cfgWait reg mask want false) s = .next s ∧ Acts (.cfgWait reg mask want true) s (fun t => ∃ c ∈ codeList, failed s c t)) ∧
      (∀ o, due r → ownerOf reg = some o → fnState s o = Fn.faulted → Acts (.cfgWait reg mask want late) s (failed s (codeAt s o)))) ∧
    (v.nvm = true → (∃ sec, v.sect = some sec ∧ ∀ x, (nvmRecs s sec)[v.recNo]? = some x → x.ok = false) →
      let broken (i : Instr) : Prop := Acts i s (fun t => ∃ c ∈ codeList, failed s c t)
      (∀ reg w, broken (.cfgWrite reg w)) ∧ (∀ off d, broken (.cfgBlob off d)) ∧ (∀ reg w st, broken (.cfgStart reg w st)) ∧
      (∀ reg mask want late, broken (.cfgWait reg mask want late))) ∧
    (∀ sec, (v.sect ≠ some sec → exec (.cfgEnd sec) s = .next s) ∧
      (∀ x, v.sect = some sec → v.nvm = true → (nvmRecs s sec)[v.recNo]? = some x → x.kind ≠ 4 → exec (.cfgEnd sec) s = .next s) ∧
      (v.sect = some sec → v.nvm = false → vigStage s = Stage.functions →
        (nextSect s sec = none → Acts (.cfgEnd sec) s (fun t => vigStage t = Stage.timeLock ∧ t.vig.sect = none)) ∧
        (∀ k, nextSect s sec = some k → sectGood s k = true → Acts (.cfgEnd sec) s (fun t => t.vig.sect = some k ∧ t.vig.recNo = 0 ∧ t.regs = s.regs)) ∧
        (∀ k, nextSect s sec = some k → sectGood s k = false → Acts (.cfgEnd sec) s (halfGivenUp s Code.hallmarkReject))) ∧
      (∀ x, v.sect = some sec → v.nvm = true → (nvmRecs s sec)[v.recNo]? = some x → x.kind = 4 → x.ok = true → Acts (.cfgEnd sec) s (fun t =>
        t.vig.nvm = false ∧ t.vig.sect = none ∧ (s.mbx.op.isSome = true → s.mbx.code = none → t.mbx.code = some Code.done))))
/-- TIME_LOCK, TIME_WAIT_EXPIRY, FABRIC_JOIN, FABRIC_RELEASE, JOIN_WAIT_EXPIRY and JOIN_RETRY. Time that does not lock, and a
release that does not come, hold nothing up: the device is in service with TIME_PENDING or JOIN_PENDING set, and asks again. -/
def Obligations.TimeAndJoin : Prop :=
  ∀ (s : State), s.sound →
    let v := s.vig
    let fabric := hasFabric s
    (timeState s ≠ Ts.locked ∨ (vigStage s ≠ Stage.timeLock ∧ ¬(vigStage s = Stage.service ∧ s.get GLOBAL_VIGIL_STATUS.TIME_PENDING = 1)) →
      exec .timeLock s = .next s) ∧
    (timeState s = Ts.locked → vigStage s = Stage.timeLock → Acts .timeLock s (fun t =>
      (fabric = true → vigStage t = Stage.join ∧ t.vig.joining = true) ∧ (fabric = false → vigStage t = Stage.service))) ∧
    (timeState s = Ts.locked → vigStage s = Stage.service → s.get GLOBAL_VIGIL_STATUS.TIME_PENDING = 1 → Acts .timeLock s (fun t =>
      vigStage t = Stage.service ∧ t.get GLOBAL_VIGIL_STATUS.TIME_PENDING = 0 ∧ t.vig.joining = fabric)) ∧
    (let late := vigStage s = Stage.timeLock ∧ timeState s ≠ Ts.locked ∧ v.stepAt + v.timeWait * 1000000000 ≤ nowNs s;
      (¬late → exec .timeWaitExpiry s = .next s) ∧
      (late → Acts .timeWaitExpiry s (fun t => vigStage t = Stage.service ∧ t.get GLOBAL_VIGIL_STATUS.TIME_PENDING = 1))) ∧
    (∀ inc rel trim,
      (v.joining = false → s.fab.rejoin = false → exec (.fabricJoin inc rel trim) s = .next s) ∧
      (v.joining = true ∨ s.fab.rejoin = true →
        let x := if v.joining then fabricUp s else s
        (joinPort x = false → exec (.fabricJoin inc rel trim) s = .next x) ∧
        (joinPort x = true → Acts (.fabricJoin inc rel trim) s (fun t => t.regs = x.regs ∧ t.vig.answer = some (inc, rel.toNat, trim) ∧
          (x.vig.askAt.isSome = true → t.sent = x.sent) ∧
          (x.vig.askAt = none → t.vig.askAt = some (nowNs x) ∧ t.sent = x.sent ++ [.report 3 (ownNode x)]))))) ∧
    (v.answer = none → exec .fabricRelease s = .next s) ∧
    (∀ inc rel trim, v.answer = some (inc, rel, trim) →
      let due := (rel : Int) * 256 - trim ≤ nowN s * 256 + s.clk.frac.toNat / 2 ^ 24 ∧ noTraffic s = true
      (¬due → exec .fabricRelease s = .next s) ∧
      let x := releaseJobs (takeInc s inc)
      (due → Acts .fabricRelease s (fun t => t.vig.answer = none ∧ t.vig.joining = false ∧ t.vig.askAt = none ∧
        regsBut (if v.joining then [GLOBAL_VIGIL_STATUS.STAGE.addr, GLOBAL_VIGIL_T.addr 10] else []) x t ∧
        (v.joining = true → t.get GLOBAL_VIGIL_STATUS.JOIN_PENDING = 0 ∧ (vigStage x = Stage.join → vigStage t = Stage.service))))) ∧
    (let late := v.joining = true ∧ v.stepAt + v.joinWait * 1000000000 ≤ nowNs s;
      (¬late → exec .joinWaitExpiry s = .next s) ∧
      (late → Acts .joinWaitExpiry s (fun t => t.get GLOBAL_VIGIL_STATUS.JOIN_PENDING = 1 ∧ t.vig.askAt = some (nowNs s) ∧
        (vigStage s = Stage.join → vigStage t = Stage.service) ∧ (vigStage s ≠ Stage.join → vigStage t = vigStage s) ∧
        t.sent = s.sent ++ [.report 3 (ownNode s)]))) ∧
    (let due := s.get GLOBAL_VIGIL_STATUS.JOIN_PENDING = 1 ∧ (∀ a, v.askAt = some a → a + 1000000000 ≤ nowNs s);
      (¬due → exec .joinRetry s = .next s) ∧
      (due → Acts .joinRetry s (fun t => t.regs = s.regs ∧ t.vig.askAt = some (nowNs s) ∧ t.sent = s.sent ++ [.report 3 (ownNode s)])))

/-- ARRAY_CHECK, CANARY_SWEEP, DROOP_TEST, MARGIN_CHECK, CP_LOAD and MAINT_ACTIVITY_END. An activity starts when it is queued and fits the
MAINT window before any that comes ahead of it; a sweep also runs unasked. At its end, once its fixed duration has passed, what it
measured is published and what it decides takes effect. -/
def Obligations.MaintenanceActivities : Prop :=
  ∀ (s : State) (n : Nat), s.sound →
    let k := coreAt s n
    let rows : List (Instr × Nat) := [(.arrayCheck n, Act.arrayCheck), (.canarySweep n, Act.canary), (.droopTest n, Act.droop),
      (.marginCheck n, Act.marginCheck), (.cpLoad n, Act.cpLoad)]
    let under (a : Activity) (x : State) : Prop :=
      (coreAt x n).maint = k.maint ++ [a] ∧ (coreAt x n).maintQ = k.maintQ.filter (fun b => b.kind ≠ a.kind) ∧
      x.get MARGIN_CORE.RUNNING n = 1 ∧ x.get MARGIN_CORE.QUEUED n = (if (coreAt x n).maintQ.isEmpty then 0 else 1) ∧
      ((coreAt x n).cpHalted = true ↔ k.cpHalted = true ∨ a.kind = Act.cpLoad)
    (∀ p ∈ rows,
      let first := ((∃ a ∈ k.maintQ, a.kind = p.2) ∨ p.2 = Act.canary) ∧ actReady s n p.2 = true ∧
        ∀ a ∈ k.maintQ, a.kind < p.2 → actReady s n a.kind = false
      let a : Activity := { kind := p.2, endAt := now10 s + actLen p.2 0 }
      (128 ≤ n ∨ ¬first → exec p.1 s = .next s) ∧
      (n < 128 → first → p.2 ≠ Act.arrayCheck → p.2 ≠ Act.marginCheck → Acts p.1 s (under a)) ∧
      (n < 128 → first → p.2 = Act.arrayCheck ∨ p.2 = Act.marginCheck → Acts p.1 s (fun t =>
        (∃ x, under a x ∧ t = checkBegin x n) ∧ (arrState s n ≠ Fn.stopped → (coreAt t n).check = 1)))) ∧
    (∀ r,
      let due (a : Activity) : Bool := decide (a.endAt ≤ now10 s) && ((a.kind != Act.arrayCheck && a.kind != Act.marginCheck) || k.check == 0)
      (128 ≤ n ∨ firstAct (k.maint.filter due) = none → exec (.maintActivityEnd n r) s = .next s) ∧
      (∀ a, n < 128 → firstAct (k.maint.filter due) = some a →
        let left := k.maint.erase a
        let ended (x : State) : Prop := (coreAt x n).maint = left ∧ x.get MARGIN_CORE.RUNNING n = (if left.isEmpty then 0 else 1)
        let ps := min r.canaryPs 255
        let mv := min r.droopMv 255
        let fine (m : Nat) (v : Nat) : Prop := crosses m v (threshold s MARGIN_WARN m) = false ∧ crosses m v (threshold s MARGIN_RETIRE m) = false
        (a.kind = Act.arrayCheck → Acts (.maintActivityEnd n r) s ended) ∧
        (a.kind = Act.canary → fine 2 ps → Acts (.maintActivityEnd n r) s (fun t => ended t ∧ t.get MARGIN_CORE.CANARY n = ps ∧
          (coreAt t n).canaryLow = false ∧ (coreAt t n).lastCanary = nowNs s)) ∧
        (a.kind = Act.droop → fine 0 mv → Acts (.maintActivityEnd n r) s (fun t => ended t ∧ t.get MARGIN_CORE.DROOP n = mv)) ∧
        (a.kind = Act.marginCheck → fine 2 ps → fine 0 mv → k.returning = false → suspect s n = false → Acts (.maintActivityEnd n r) s (fun t =>
          ended t ∧ t.get MARGIN_CORE.CANARY n = ps ∧ t.get MARGIN_CORE.DROOP n = mv ∧ t.get MARGIN_CORE.CHECK_PASS n = (if k.checkBad then 0 else 1) ∧
          t.get MARGIN_CORE.CHECK_FAIL n = (if k.checkBad then 1 else 0) ∧ t.get MARGIN_CORE_CODE.VALID n = 1 ∧
          t.get MARGIN_CORE_CODE.CODE n = (if k.checkBad then Code.uncorrectable else Code.done))) ∧
        (a.kind = Act.cpLoad → Acts (.maintActivityEnd n r) s (fun t => ended t ∧ (coreAt t n).cpHalted = false ∧ (coreAt t n).cpLoaded = true ∧
          (coreAt t n).cpFailed = false)) ∧
        (a.kind = Act.imageCopy → (k.slot a.arg).copying = true → Acts (.maintActivityEnd n r) s (fun t => ended t ∧
          ((coreAt t n).slot a.arg).copying = false ∧ ((coreAt t n).slot a.arg).armed = true ∧
          (reloadAsked s n a.arg = true → s.mbx.code = none → t.mbx.code = some Code.done))) ∧
        (a.kind = Act.imageCopy → (k.slot a.arg).copying = false → reloadAsked s n a.arg = false → Acts (.maintActivityEnd n r) s ended)))
/-- POWER_ON, POWER_OFF and POWER_SWITCH_DONE. A switch asked while another is in progress is refused. One that R391 refuses, and one of
a domain that does not exist, end at once with their codes. Switching off takes effect at once, switching on at its end; that the
alignment at a switch-on succeeds is the model's choice (log 320). -/
def Obligations.PowerDomains : Prop :=
  ∀ (s : State), s.sound →
    let busy := s.get PWR_DOM_RESULT.BUSY
    let ended (c d : Nat) (t : State) : Prop := t.get PWR_DOM_RESULT.CODE = c ∧ t.get PWR_DOM_RESULT.DOMAIN = d ∧ t.get PWR_DOM_RESULT.BUSY = 0 ∧
      t.pwrSw = s.pwrSw
    (∀ x, let d := x % 256
      (busy = 1 → ∀ i ∈ [Instr.powerOn x, Instr.powerOff x], Acts i s (fun t => t.get PWR_DOM_RESULT.CMD_REJECT = 1 ∧ t.pwrSw = s.pwrSw)) ∧
      (busy = 0 → 198 ≤ d → ∀ i ∈ [Instr.powerOn x, Instr.powerOff x], Acts i s (ended Code.badArgument d)) ∧
      (busy = 0 → d < 198 → keptOff s d = true → Acts (.powerOn x) s (ended Code.stateConflict d)) ∧
      (busy = 0 → d < 198 → offRefused s d = true → Acts (.powerOff x) s (ended Code.stateConflict d)) ∧
      (busy = 0 → d < 198 → keptOff s d = false → Acts (.powerOn x) s (fun t => t.get PWR_DOM_RESULT.BUSY = 1 ∧
        t.get PWR_DOM_RESULT.CODE = Code.busy ∧ t.get PWR_DOM_RESULT.DOMAIN = d ∧ t.pwrSw = some (d, true, nowNs s + 200000) ∧ domOn t d = domOn s d)) ∧
      (busy = 0 → d < 198 → offRefused s d = false → Acts (.powerOff x) s (fun t => t.get PWR_DOM_RESULT.BUSY = 1 ∧
        t.get PWR_DOM_RESULT.CODE = Code.busy ∧ t.get PWR_DOM_RESULT.DOMAIN = d ∧ t.pwrSw = some (d, false, nowNs s + 5000) ∧ domOn t d = false))) ∧
    (s.pwrSw = none → exec .powerSwitchDone s = .next s) ∧
    (∀ d at_, s.pwrSw = some (d, false, at_) → nowNs s < at_ → exec .powerSwitchDone s = .next s) ∧
    (∀ d on at_, s.pwrSw = some (d, on, at_) → d < 198 → (on = true ∨ at_ ≤ nowNs s) → Acts .powerSwitchDone s (fun t =>
      t.pwrSw = none ∧ t.get PWR_DOM_RESULT.BUSY = 0 ∧ t.get PWR_DOM_RESULT.CODE = Code.done ∧ domOn t d = (on || domOn s d)))

/-- REGISTER_READ of a bit alias by a requester that the bus answers (the SMBus port once service is reached). The read changes
nothing but the data returned: it latches no HI register, pops no capture FIFO and advances no pointer. The alias of bit b of
`ALM_NS_LO` returns that bit of the value that the last direct read latched, and a tick between the two does not change it. -/
def Obligations.AliasReads : Prop :=
  (∀ (s : State) (rq : Requester) (o : Nat), isAlias o = true → o % 4 = 0 → (rq = Requester.smbus → smbusOpen s = true) →
    Acts (.registerRead rq o 4) s (fun t => sameBut [.rdata] s t)) ∧
  (∀ (s : State) (j b : Nat), s.sound → b < 32 → s.clk.setPend = none → s.clk.stepPend = none → s.clk.servoStep = none →
    s.clk.incrPend = none →
    Acts (.registerRead (.mp j) ALM_NS_LO.off 4) s (fun u => u.rdata.toNat = s.clk.n.toNat % 2 ^ 32 ∧
      Acts .almanacTick u (fun v =>
        Acts (.registerRead (.mp j) (0x4000000 + ALM_NS_LO.off * 32 + b * 4) 4) v (fun t =>
          t.rdata.toNat = u.rdata.toNat / 2 ^ b % 2 ∧ sameBut [.rdata] v t))))

/-- MBX_TAKE, MBX_RELEASE, MAILBOX_OPERATION_END and the seventeen commands of the mailbox. TAKE is granted while no one holds
the claim; RELEASE acts only for the holder. An opcode written while an operation runs, or by a requester that does not hold the
claim, is ignored and raises MBX_REJECT_COUNT. Else it is accepted: its arguments are taken, BUSY is set, RESULT reads BUSY,
progress and results are 0, the sequence is one higher; past its checks the command does its work from there (mbxRow names the
checks and the work of each), and a refused one changes nothing further and ends with the first check's code. The end of the
operation publishes result words and code, clears BUSY, sets DONE_EVT and tells the requester. -/
def Obligations.MailboxCommands : Prop :=
  (∀ (s : State) (rq : Requester), s.sound →
    (s.bit MBX_CLAIM.HELD = false → Acts (.mbxTake rq) s (fun t =>
      t.get MBX_CLAIM.HELD = 1 ∧ t.get MBX_CLAIM.OWNER = ownerCode rq ∧ regsBut [MBX_CLAIM.HELD.addr] s t)) ∧
    (s.bit MBX_CLAIM.HELD = true → Acts (.mbxTake rq) s (fun t => t = s)) ∧
    (s.bit MBX_CLAIM.HELD = true → s.get MBX_CLAIM.OWNER = ownerCode rq → Acts (.mbxRelease rq) s (fun t =>
      t.get MBX_CLAIM.HELD = 0 ∧ regsBut [MBX_CLAIM.HELD.addr] s t)) ∧
    (s.get MBX_CLAIM.OWNER ≠ ownerCode rq → Acts (.mbxRelease rq) s (fun t => t = s))) ∧
  (∀ (i : Instr) (s : State) (rq : Requester) (op : Nat) (check : State → Nat) (body : State → State),
    mbxRow i = some (rq, op, check, body) →
    (s.sound → s.bit MBX_STATUS.BUSY = true ∨ s.bit MBX_CLAIM.HELD = false ∨ s.get MBX_CLAIM.OWNER ≠ ownerCode rq →
      Acts i s (fun t => t.get MBX_REJECT_COUNT = min (s.get MBX_REJECT_COUNT + 1) (2 ^ 32 - 1) ∧
        regsBut [MBX_REJECT_COUNT.addr] s t ∧ sameBut [.regs] s t)) ∧
    (mbxReady s rq op →
      let a := mbxTaken s rq op
      a.get MBX_STATUS.BUSY = 1 ∧ a.get MBX_STATUS.RESULT = Code.busy ∧ a.get MBX_PROGRESS = 0 ∧
      (∀ j < 4, a.get MBX_RES j = 0) ∧ a.get MBX_SEQ = (s.get MBX_SEQ + 1) % 2 ^ 32 ∧
      (∀ j < 8, mbxArg a j = s.get MBX_ARG j) ∧
      (check a = Code.done → exec i s = .next (body a)) ∧
      (check a ≠ Code.done → Acts i s (fun t => t.mbx.code = some (check a) ∧ sameBut [.mbx] a t)))) ∧
  (∀ (s : State) (op c : Nat), s.sound → s.mbx.op = some op → s.mbx.code = some c →
    Acts .mailboxOperationEnd s (fun t => (∀ j < 4, t.get MBX_RES j = s.mbx.res.getD j 0 % 2 ^ 32) ∧
      t.get MBX_STATUS.RESULT = c % 2 ^ 8 ∧ t.get MBX_STATUS.LAST_OP = op % 2 ^ 8 ∧ t.get MBX_STATUS.BUSY = 0 ∧
      t.get MBX_STATUS.DONE_EVT = 1 ∧ t.mbx = {} ∧
      (s.mbx.byHost = true → t.sent = s.sent) ∧ (s.mbx.byHost = false → t.sent = s.sent ++ [.mpIrq 0])))

/-- MGE_START, MGE_STOP, MGE_FRAME_RECEIVE, MGE_FRAME_TRANSMIT, MGE_LINK_CHANGE, MDIO_ADDRESS, MDIO_WRITE, MDIO_READ and MDIO_DONE.
START checks the ring sizes. A frame of the port's is stored and TAIL moves; one of another size, or with the ring full, is dropped and
counted; a sent frame carries its check sequence. A half duplex link is none (the model's reading, log 45 for the descriptors). An
access sets GO until it ends; ADDRESS in Clause 22 ends at once with all ones. -/
def Obligations.ManagementPort : Prop :=
  ∀ (s : State), s.sound →
    let st := s.get GLOBAL_MGE_STATUS.STATE
    let fits (F : Fld) := 4 ≤ s.get F ∧ s.get F ≤ 12
    let up := st = Fn.running ∧ s.get GLOBAL_MGE_STATUS.LINK_UP = 1
    let rxn := 2 ^ s.get GLOBAL_MGE_RX_SIZE
    let tail := s.get GLOBAL_MGE_RX_TAIL % rxn
    let txn := 2 ^ s.get GLOBAL_MGE_TX_SIZE
    let h := s.get GLOBAL_MGE_TX_HEAD % txn
    let d := s.get2 GLOBAL_MGE_TX_BASE_LO GLOBAL_MGE_TX_BASE_HI + 32 * h
    let out := devRead s (memLe s d 8) (min 2048 (memLe s (d + 8) 4))
    let sized (b : Bytes) := 60 ≤ b.length ∧ b.length ≤ 1518
    let more := min (s.get GLOBAL_MGE_DROP + 1) (2 ^ 32 - 1)
    (st = Fn.stopped →
      (fits GLOBAL_MGE_RX_SIZE ∧ fits GLOBAL_MGE_TX_SIZE → Acts .mgeStart s (fun t => t.get GLOBAL_MGE_STATUS.STATE = Fn.running)) ∧
      (¬(fits GLOBAL_MGE_RX_SIZE ∧ fits GLOBAL_MGE_TX_SIZE) → Acts .mgeStart s (fun t =>
        t.get GLOBAL_MGE_STATUS.STATE = Fn.faulted ∧ t.get GLOBAL_MGE_STATUS.FAULT_CODE = Code.badArgument))) ∧
    (st = Fn.running ∨ st = Fn.faulted → Acts .mgeStop s (fun t => t.get GLOBAL_MGE_STATUS.STATE = Fn.stopped)) ∧
    (¬(st = Fn.running ∨ st = Fn.faulted) → exec .mgeStop s = .next s) ∧
    (∀ b, (¬up → exec (.mgeFrameReceive b) s = .next s) ∧
      (up → ¬sized b → Acts (.mgeFrameReceive b) s (fun t => t.get GLOBAL_MGE_DROP = more)) ∧
      (up → sized b → mgeMine s b = false → exec (.mgeFrameReceive b) s = .next s) ∧
      (up → sized b → mgeMine s b = true →
        (ringFull tail (s.get GLOBAL_MGE_RX_HEAD) rxn = true → Acts (.mgeFrameReceive b) s (fun t => t.get GLOBAL_MGE_DROP = more)) ∧
        (ringFull tail (s.get GLOBAL_MGE_RX_HEAD) rxn = false → Acts (.mgeFrameReceive b) s (fun t =>
          t.get GLOBAL_MGE_RX_TAIL = (tail + 1) % rxn % 4096 ∧ t.get GLOBAL_MGE_DROP = s.get GLOBAL_MGE_DROP)))) ∧
    (¬up ∨ h = s.get GLOBAL_MGE_TX_TAIL % txn → exec .mgeFrameTransmit s = .next s) ∧
    (up → h ≠ s.get GLOBAL_MGE_TX_TAIL % txn → Acts .mgeFrameTransmit s (fun t =>
      t.get GLOBAL_MGE_TX_HEAD = (h + 1) % txn % 4096 ∧
      (out.1 = Code.done → sized out.2.1 → out.2.2 = false → t.sent = s.sent ++ [.mge (out.2.1 ++ frameCheck out.2.1)]) ∧
      (out.1 = Code.done → (¬sized out.2.1 ∨ out.2.2 = true) → t.get GLOBAL_MGE_DROP = more ∧ t.sent = s.sent))) ∧
    (∀ on speed full, Acts (.mgeLinkChange on speed full) s (fun t =>
      let carries := on = true ∧ full = true ∧ speed < 3
      t.get GLOBAL_MGE_STATUS.LINK_UP = (if carries then 1 else 0) ∧ t.get GLOBAL_MGE_STATUS.SPEED = (if carries then speed else 0) ∧
      t.get GLOBAL_MGE_STATUS.STATE = st)) ∧
    (∀ (i : Instr) (v : Word) (op : Nat),
      (i = .mdioAddress v ∧ op = 0) ∨ (i = .mdioWrite v ∧ op = 1) ∨ (i = .mdioRead v ∧ op = 2) →
      getBits v 31 1 = 1 → getBits v 28 2 = op → s.get GLOBAL_MGE_MDIO.GO = 0 →
      (op = 0 ∧ getBits v 30 1 = 0 → Acts i s (fun t =>
        t.get GLOBAL_MGE_MDIO.GO = 0 ∧ t.get GLOBAL_MGE_MDIO.DATA = 0xFFFF ∧ t.sent = s.sent)) ∧
      (¬(op = 0 ∧ getBits v 30 1 = 0) → Acts i s (fun t =>
        t.get GLOBAL_MGE_MDIO.GO = 1 ∧ t.get GLOBAL_MGE_MDIO.OP = op ∧ t.sent = s.sent ++ [.mdio (putBits v 16 2 0)]))) ∧
    (∀ w, (s.get GLOBAL_MGE_MDIO.GO = 0 → exec (.mdioDone w) s = .next s) ∧
      (s.get GLOBAL_MGE_MDIO.GO = 1 → Acts (.mdioDone w) s (fun t => t.get GLOBAL_MGE_MDIO.GO = 0 ∧
        t.get GLOBAL_MGE_MDIO.DATA = (if s.get GLOBAL_MGE_MDIO.OP = 2 then w.toNat else s.get GLOBAL_MGE_MDIO.DATA))))

/-- REGISTER_WRITE, BIT_ALIAS_WRITE, SMBUS_REGISTER_READ, SMBUS_REGISTER_WRITE and PARITY_SCRUB_PASS, shown on the management port's
address register and control register. A locked register takes a word while its owner is STOPPED, and else the write sets
CFG_WRITE_REJECT. An alias stores its one bit. A refused access is counted and its offset recorded. A bad PEC acts on nothing. A
mismatch found is counted, and its owner is FAULTED. -/
def Obligations.RegisterWrites : Prop :=
  ∀ (s : State), s.sound →
    let bad (off : Nat) (t : State) := t.get GLOBAL_BAD_ACCESS = min (s.get GLOBAL_BAD_ACCESS + 1) (2 ^ 32 - 1) ∧
      t.get GLOBAL_BAD_ADDR = off % 2 ^ 27 ∧ t.get GLOBAL_STATUS.BAD_ACCESS_SEEN = 1
    let mac := GLOBAL_MGE_MAC_LO.addr
    let st := s.get GLOBAL_MGE_STATUS.STATE
    let hostOff := s.get HOST_STATUS.STATE = Fn.stopped
    (∀ off size v, hostOff → exec (.registerWrite .host off size v) s = .next s) ∧
    (∀ off v, hostOff → exec (.bitAliasWrite .host off v) s = .next s) ∧
    (∀ off v, isAlias off = false → ∀ rq, exec (.bitAliasWrite rq off v) s = .next s) ∧
    (∀ rq, rq ≠ .smbus → ¬(rq = .host ∧ hostOff) →
      (∀ off size v, size ≠ 8 → size ≠ 4 ∨ off % 4 ≠ 0 → Acts (.registerWrite rq off size v) s (bad off)) ∧
      Acts (.registerWrite rq GLOBAL_MGE_CTRL.START.addr 4 3) s (bad GLOBAL_MGE_CTRL.START.addr) ∧
      exec (.registerWrite rq GLOBAL_MGE_CTRL.START.addr 4 1) s = exec .mgeStart s ∧
      exec (.registerWrite rq GLOBAL_MGE_CTRL.START.addr 4 2) s = exec .mgeStop s ∧
      (st = Fn.stopped → ∀ v : Word, Acts (.registerWrite rq mac 4 (v.setWidth 64)) s (fun t =>
        rdReg t mac = v ∧ regsBut [mac] s t)) ∧
      (st ≠ Fn.stopped → st ≠ Fn.absent → ∀ v : Word, Acts (.registerWrite rq mac 4 (v.setWidth 64)) s (fun t =>
        rdReg t mac = rdReg s mac ∧ t.get GLOBAL_MGE_STATUS.CFG_WRITE_REJECT = 1 ∧ regsBut [mgeFn] s t)) ∧
      (st = Fn.stopped → s.cal.deferred.filter (fun p => p.1 == mac) = [] → ∀ (b : Nat) (v : Word), b < 32 →
        Acts (.bitAliasWrite rq (0x4000000 + mac / 4 * 128 + 4 * b) v) s (fun t =>
        (∀ j, j < 32 → (rdReg t mac).getLsbD j = (if j = b then v.getLsbD 0 else (rdReg s mac).getLsbD j)) ∧ regsBut [mac] s t))) ∧
    (∀ off v, exec (.smbusRegisterWrite off v false) s = .next s ∧ exec (.smbusRegisterRead off false) s = .next s) ∧
    (∀ off v, smbusOpen s = false ∨ off < 0x10000 ∨ 0x20000 ≤ off → Acts (.smbusRegisterWrite off v true) s (bad off)) ∧
    (∀ off, smbusOpen s = false → 0x10000 ≤ off → Acts (.smbusRegisterRead off true) s (fun t => t.rdata = 0 ∧ bad off t)) ∧
    (smbusOpen s = true → s.get MBX_CLAIM.HELD = 1 → s.get MBX_CLAIM.OWNER = 6 → s.get MBX_STATUS.BUSY = 0 → ∀ v : Word,
      Acts (.smbusRegisterWrite (MBX_ARG.addr 0) v true) s (fun t => rdReg t (MBX_ARG.addr 0) = v ∧ regsBut [MBX_ARG.addr 0] s t)) ∧
    Acts (.smbusRegisterRead mac true) s (fun t => t.rdata = (rdReg s mac).setWidth 64 ∧ t.regs = s.regs) ∧
    (∀ l, nowN s / 1000000 = s.scrubMs → exec (.parityScrubPass l) s = .next s) ∧
    (nowN s / 1000000 ≠ s.scrubMs →
      Acts (.parityScrubPass []) s (fun t => t = { s with scrubMs := nowN s / 1000000 }) ∧
      Acts (.parityScrubPass [⟨mac⟩]) s (fun t => t.upset = [mac] ∧ t.scrubMs = nowN s / 1000000 ∧
        t.get GLOBAL_PARITY_OFFSET = mac ∧ t.get GLOBAL_STATUS.PARITY_SEEN = 1 ∧
        t.get GLOBAL_PARITY_COUNT = min (s.get GLOBAL_PARITY_COUNT + 1) (2 ^ 32 - 1) ∧
        (st = Fn.stopped ∨ st = Fn.running → t.get GLOBAL_MGE_STATUS.STATE = Fn.faulted ∧
          t.get GLOBAL_MGE_STATUS.FAULT_CODE = Code.configParity)))
end

