-- ==== Sys2Proof/Laws/Map.lean ====
section
/-! SUPPORT. The laws of the sparse stores: a read after a write, and the canonical form kept. -/

namespace Sys2Proof.Machine

variable {V : Type}

theorem mapGet_erase (d : Nat → V) (m : SMap V) (i j : Nat) :
    mapGet d (mapErase m i) j = if j = i then d i else mapGet d m j := by
  induction m with
  | nil => by_cases h : j = i <;> simp [mapErase, mapGet, h]
  | cons p t ih =>
    obtain ⟨k, v⟩ := p
    by_cases hk : k = i
    · subst hk
      by_cases hj : j = k
      · subst hj; simpa [mapErase] using ih
      · simp [mapErase, mapGet, hj, ih, Ne.symm hj]
    · by_cases hj : j = i
      · subst hj; simpa [mapErase, mapGet, hk] using ih
      · simp [mapErase, mapGet, hk, hj, ih]

theorem mapGet_insert_of_unlisted (d : Nat → V) (m : SMap V) (i j : Nat) (v : V)
    (h : ∀ p ∈ m, p.1 ≠ i) :
    mapGet d (mapInsert m i v) j = if j = i then v else mapGet d m j := by
  induction m with
  | nil =>
    by_cases hj : j = i
    · simp [mapInsert, mapGet, hj]
    · simp [mapInsert, mapGet, hj, Ne.symm hj]
  | cons p t ih =>
    obtain ⟨k, w⟩ := p
    have hk : k ≠ i := h (k, w) (by simp)
    have ih := ih (fun q hq => h q (by simp [hq]))
    by_cases hlt : i < k
    · by_cases hj : j = i
      · simp [mapInsert, mapGet, hlt, hj]
      · simp [mapInsert, mapGet, hlt, hj, Ne.symm hj]
    · by_cases hj : j = i
      · subst hj; simpa [mapInsert, mapGet, hlt, hk] using ih
      · simp [mapInsert, mapGet, hlt, hj, ih]

theorem mapErase_unlisted (m : SMap V) (i : Nat) : ∀ p ∈ mapErase m i, p.1 ≠ i := by
  induction m with
  | nil => simp [mapErase]
  | cons p t ih =>
    obtain ⟨k, v⟩ := p
    by_cases hk : k = i
    · simpa [mapErase, hk] using ih
    · intro q hq
      simp only [mapErase, hk, if_false, List.mem_cons] at hq
      rcases hq with rfl | hq
      · exact hk
      · exact ih q hq

/-- An erased key stays erased. -/
theorem mapErase_erase (m : SMap V) (i : Nat) : mapErase (mapErase m i) i = mapErase m i := by
  induction m with
  | nil => rfl
  | cons p t ih =>
    obtain ⟨k, v⟩ := p
    by_cases hk : k = i <;> simp [mapErase, hk, ih]

theorem mapErase_insert (m : SMap V) (i : Nat) (v : V) : mapErase (mapInsert m i v) i = mapErase m i := by
  induction m with
  | nil => simp [mapInsert, mapErase]
  | cons p t ih =>
    obtain ⟨k, w⟩ := p
    by_cases hlt : i < k
    · simp [mapInsert, mapErase, hlt]
    · by_cases hk : k = i <;> simp [mapInsert, mapErase, hlt, hk, ih]

/-- The last of two writes at a key stands alone. -/
theorem mapPut_put [DecidableEq V] (d : Nat → V) (m : SMap V) (i : Nat) (v w : V) :
    mapPut d (mapPut d m i v) i w = mapPut d m i w := by
  have e : mapErase (mapPut d m i v) i = mapErase m i := by
    unfold mapPut
    split
    · exact mapErase_erase m i
    · rw [mapErase_insert, mapErase_erase]
  unfold mapPut at e ⊢
  rw [e]

theorem mapRising_le {b c : Nat} (h : b ≤ c) : ∀ {m : SMap V}, mapRising c m = true → mapRising b m = true
  | [], _ => rfl
  | (k, v) :: t, hm => by
    simp only [mapRising, Bool.and_eq_true, decide_eq_true_eq] at hm ⊢
    exact ⟨by omega, hm.2⟩

theorem mapRising_erase {b : Nat} (i : Nat) : ∀ {m : SMap V}, mapRising b m = true → mapRising b (mapErase m i) = true
  | [], _ => rfl
  | (k, v) :: t, hm => by
    simp only [mapRising, Bool.and_eq_true, decide_eq_true_eq] at hm
    have ht := mapRising_erase i hm.2
    by_cases hk : k = i
    · simp only [mapErase, hk, if_true]; exact mapRising_le (Nat.le_of_lt (hk ▸ hm.1)) (hk ▸ ht)
    · simp only [mapErase, hk, if_false, mapRising, Bool.and_eq_true, decide_eq_true_eq]
      exact ⟨hm.1, ht⟩

theorem mapRising_insert {b i : Nat} {v : V} (hb : b < i) :
    ∀ {m : SMap V}, mapRising b m = true → (∀ p ∈ m, p.1 ≠ i) → mapRising b (mapInsert m i v) = true
  | [], _, _ => by simp [mapInsert, mapRising, hb]
  | (k, w) :: t, hm, hn => by
    have hk : k ≠ i := hn (k, w) (by simp)
    simp only [mapRising, Bool.and_eq_true, decide_eq_true_eq] at hm
    by_cases hlt : i < k
    · simp only [mapInsert, hlt, if_true, mapRising, Bool.and_eq_true, decide_eq_true_eq]
      exact ⟨hb, trivial, hm.2⟩
    · simp only [mapInsert, hlt, if_false, mapRising, Bool.and_eq_true, decide_eq_true_eq]
      exact ⟨hm.1, mapRising_insert (by omega) hm.2 (fun p hp => hn p (by simp [hp]))⟩

variable [DecidableEq V]

/-- A read after a write: the value written at its key, every other key as before. -/
theorem mapGet_put (d : Nat → V) (m : SMap V) (i j : Nat) (v : V) :
    mapGet d (mapPut d m i v) j = if j = i then v else mapGet d m j := by
  unfold mapPut
  split
  · rename_i h; rw [mapGet_erase, ← h]
  · exact mapGet_insert_of_unlisted d _ i j v (mapErase_unlisted m i) |>.trans (by
      by_cases hj : j = i
      · simp [hj]
      · simp [hj, mapGet_erase])

@[simp] theorem mapGet_put_self (d : Nat → V) (m : SMap V) (i : Nat) (v : V) :
    mapGet d (mapPut d m i v) i = v := by simp [mapGet_put]

theorem mapGet_put_other (d : Nat → V) (m : SMap V) {i j : Nat} (v : V) (h : j ≠ i) :
    mapGet d (mapPut d m i v) j = mapGet d m j := by simp [mapGet_put, h]

theorem mapNoDefault_erase (d : Nat → V) (i : Nat) :
    ∀ {m : SMap V}, mapNoDefault d m = true → mapNoDefault d (mapErase m i) = true
  | [], _ => rfl
  | (k, v) :: t, hm => by
    simp only [mapNoDefault, Bool.and_eq_true, decide_eq_true_eq] at hm
    have ht := mapNoDefault_erase d i hm.2
    by_cases hk : k = i
    · simpa [mapErase, hk] using ht
    · simp [mapErase, hk, mapNoDefault, hm.1, ht]

theorem mapNoDefault_insert (d : Nat → V) {i : Nat} {v : V} (hv : v ≠ d i) :
    ∀ {m : SMap V}, mapNoDefault d m = true → mapNoDefault d (mapInsert m i v) = true
  | [], _ => by simp [mapInsert, mapNoDefault, hv]
  | (k, w) :: t, hm => by
    by_cases hlt : i < k
    · simp only [mapInsert, hlt, if_true]
      rw [mapNoDefault, hm]; simp [hv]
    · simp only [mapNoDefault, Bool.and_eq_true, decide_eq_true_eq] at hm
      simp [mapInsert, hlt, mapNoDefault, hm.1, mapNoDefault_insert d hv hm.2]

theorem mapWf_iff (d : Nat → V) (m : SMap V) :
    mapWf d m = true ↔ (match m with | [] => True | (k, _) :: t => mapRising k t = true) ∧ mapNoDefault d m = true := by
  cases m with
  | nil => simp [mapWf, mapNoDefault]
  | cons p t => obtain ⟨k, v⟩ := p; simp [mapWf]

/-- Every write keeps the canonical form. -/
theorem mapPut_wf (d : Nat → V) {m : SMap V} (i : Nat) (v : V) (hm : mapWf d m = true) :
    mapWf d (mapPut d m i v) = true := by
  rw [mapWf_iff] at hm
  obtain ⟨hr, hn⟩ := hm
  have hne := mapNoDefault_erase d i hn
  have her : (match mapErase m i with | [] => True | (k, _) :: t => mapRising k t = true) := by
    cases m with
    | nil => simp [mapErase]
    | cons p t =>
      obtain ⟨k, w⟩ := p
      by_cases hk : k = i
      · simp only [mapErase, hk, if_true]
        have h2 := mapRising_erase i hr
        cases h : mapErase t i with
        | nil => trivial
        | cons q u =>
          obtain ⟨kq, vq⟩ := q
          rw [h] at h2
          simp only [mapRising, Bool.and_eq_true] at h2
          exact h2.2
      · simp only [mapErase, hk, if_false]
        exact mapRising_erase i hr
  unfold mapPut
  split
  · exact (mapWf_iff d _).2 ⟨her, hne⟩
  · rename_i hv
    refine (mapWf_iff d _).2 ⟨?_, mapNoDefault_insert d hv hne⟩
    have hun := mapErase_unlisted m i
    cases h : mapErase m i with
    | nil => simp [mapInsert, mapRising]
    | cons q u =>
      obtain ⟨k, w⟩ := q
      rw [h] at her hun
      have hk : k ≠ i := hun (k, w) (by simp)
      by_cases hlt : i < k
      · simp only [mapInsert, hlt, if_true, mapRising, Bool.and_eq_true, decide_eq_true_eq]
        exact ⟨trivial, her⟩
      · simp only [mapInsert, hlt, if_false]
        exact mapRising_insert (by omega) her (fun p hp => hun p (by simp [hp]))

theorem mapRising_filter {b : Nat} (q : Nat × V → Bool) :
    ∀ {m : SMap V}, mapRising b m = true → mapRising b (m.filter q) = true
  | [], _ => rfl
  | (k, v) :: t, hm => by
    simp only [mapRising, Bool.and_eq_true, decide_eq_true_eq] at hm
    have ht := mapRising_filter q hm.2
    by_cases hq : q (k, v) = true
    · simp [hq, mapRising, hm.1, ht]
    · simp only [hq, List.filter]
      exact mapRising_le (Nat.le_of_lt hm.1) ht

theorem mapNoDefault_filter (d : Nat → V) (q : Nat × V → Bool) :
    ∀ {m : SMap V}, mapNoDefault d m = true → mapNoDefault d (m.filter q) = true
  | [], _ => rfl
  | (k, v) :: t, hm => by
    simp only [mapNoDefault, Bool.and_eq_true, decide_eq_true_eq] at hm
    have ht := mapNoDefault_filter d q hm.2
    by_cases hq : q (k, v) = true
    · simp [hq, mapNoDefault, hm.1, ht]
    · simpa [hq, List.filter] using ht

/-- Dropping entries keeps the canonical form. -/
theorem mapFilter_wf (d : Nat → V) {m : SMap V} (q : Nat × V → Bool) (hm : mapWf d m = true) :
    mapWf d (m.filter q) = true := by
  rw [mapWf_iff] at hm
  refine (mapWf_iff d _).2 ⟨?_, mapNoDefault_filter d q hm.2⟩
  cases m with
  | nil => simp
  | cons p t =>
    obtain ⟨k, v⟩ := p
    have ht := mapRising_filter q hm.1
    by_cases hq : q (k, v) = true
    · simpa [hq] using ht
    · simp only [hq, List.filter]
      cases h : t.filter q with
      | nil => trivial
      | cons r u =>
        obtain ⟨kr, vr⟩ := r
        rw [h] at ht
        simp only [mapRising, Bool.and_eq_true] at ht
        exact ht.2

end Sys2Proof.Machine
end

