-- ==== Sys2Proof/Laws/Regs.lean ====
section
/-! SUPPORT. The laws of register words and fields: a read after a write. -/

namespace Sys2Proof.Machine

theorem two_pow_le (w : Nat) : 0 < 2 ^ w := Nat.two_pow_pos w

/-- A word with bits replaced, as a number. -/
theorem putBits_toNat (x : Word) {lo w : Nat} (v : Nat) (h : lo + w ≤ 32) :
    (putBits x lo w v).toNat =
      x.toNat / 2 ^ (lo + w) * 2 ^ (lo + w) + v % 2 ^ w * 2 ^ lo + x.toNat % 2 ^ lo := by
  unfold putBits
  rw [BitVec.toNat_ofNat]
  apply Nat.mod_eq_of_lt
  have hx : x.toNat < 2 ^ 32 := x.isLt
  have e : (2 : Nat) ^ (lo + w) = 2 ^ lo * 2 ^ w := Nat.pow_add 2 lo w
  have e2 : (2 : Nat) ^ 32 = 2 ^ (lo + w) * 2 ^ (32 - (lo + w)) := by
    rw [← Nat.pow_add]; congr 1; omega
  have h1 : x.toNat / 2 ^ (lo + w) + 1 ≤ 2 ^ (32 - (lo + w)) := by
    apply Nat.succ_le_of_lt
    apply Nat.div_lt_of_lt_mul
    rw [← e2]; exact hx
  have h2 : v % 2 ^ w + 1 ≤ 2 ^ w := Nat.succ_le_of_lt (Nat.mod_lt _ (two_pow_le w))
  have h3 : x.toNat % 2 ^ lo < 2 ^ lo := Nat.mod_lt _ (two_pow_le lo)
  have h4 : v % 2 ^ w * 2 ^ lo + 2 ^ lo ≤ 2 ^ (lo + w) := by
    calc v % 2 ^ w * 2 ^ lo + 2 ^ lo = (v % 2 ^ w + 1) * 2 ^ lo := by ring
      _ ≤ 2 ^ w * 2 ^ lo := Nat.mul_le_mul_right _ h2
      _ = 2 ^ (lo + w) := by rw [e, Nat.mul_comm]
  calc x.toNat / 2 ^ (lo + w) * 2 ^ (lo + w) + v % 2 ^ w * 2 ^ lo + x.toNat % 2 ^ lo
      < x.toNat / 2 ^ (lo + w) * 2 ^ (lo + w) + 2 ^ (lo + w) := by omega
    _ = (x.toNat / 2 ^ (lo + w) + 1) * 2 ^ (lo + w) := by ring
    _ ≤ 2 ^ (32 - (lo + w)) * 2 ^ (lo + w) := Nat.mul_le_mul_right _ h1
    _ = 2 ^ 32 := by rw [e2, Nat.mul_comm]

/-- The bits replaced read as the value put, modulo their width. -/
theorem getBits_putBits (x : Word) {lo w : Nat} (v : Nat) (h : lo + w ≤ 32) :
    getBits (putBits x lo w v) lo w = v % 2 ^ w := by
  unfold getBits
  rw [putBits_toNat x v h]
  have e : (2 : Nat) ^ (lo + w) = 2 ^ lo * 2 ^ w := Nat.pow_add 2 lo w
  have : x.toNat / 2 ^ (lo + w) * 2 ^ (lo + w) + v % 2 ^ w * 2 ^ lo + x.toNat % 2 ^ lo =
      x.toNat % 2 ^ lo + 2 ^ lo * (v % 2 ^ w + 2 ^ w * (x.toNat / 2 ^ (lo + w))) := by
    rw [e]; ring
  rw [this, Nat.add_mul_div_left _ _ (two_pow_le lo), Nat.div_eq_of_lt (Nat.mod_lt _ (two_pow_le lo)), Nat.zero_add,
    Nat.add_mul_mod_self_left, Nat.mod_mod]

/-- Bits above the ones replaced. -/
theorem getBits_putBits_above (x : Word) {lo w lo' w' : Nat} (v : Nat) (h : lo + w ≤ 32) (g : lo + w ≤ lo') :
    getBits (putBits x lo w v) lo' w' = getBits x lo' w' := by
  unfold getBits
  rw [putBits_toNat x v h]
  congr 1
  have e : (2 : Nat) ^ lo' = 2 ^ (lo + w) * 2 ^ (lo' - (lo + w)) := by
    rw [← Nat.pow_add]; congr 1; omega
  have h2 : v % 2 ^ w + 1 ≤ 2 ^ w := Nat.succ_le_of_lt (Nat.mod_lt _ (two_pow_le w))
  have h3 : x.toNat % 2 ^ lo < 2 ^ lo := Nat.mod_lt _ (two_pow_le lo)
  have h4 : v % 2 ^ w * 2 ^ lo + x.toNat % 2 ^ lo < 2 ^ (lo + w) := by
    have : v % 2 ^ w * 2 ^ lo + 2 ^ lo ≤ 2 ^ (lo + w) := by
      calc v % 2 ^ w * 2 ^ lo + 2 ^ lo = (v % 2 ^ w + 1) * 2 ^ lo := by ring
        _ ≤ 2 ^ w * 2 ^ lo := Nat.mul_le_mul_right _ h2
        _ = 2 ^ (lo + w) := by rw [Nat.pow_add, Nat.mul_comm]
    omega
  rw [e, ← Nat.div_div_eq_div_mul, ← Nat.div_div_eq_div_mul]
  congr 1
  rw [Nat.add_assoc, Nat.mul_comm, Nat.mul_add_div (two_pow_le _), Nat.div_eq_of_lt h4, Nat.add_zero]

/-- Bits below the ones replaced. -/
theorem getBits_putBits_below (x : Word) {lo w lo' w' : Nat} (v : Nat) (h : lo + w ≤ 32) (g : lo' + w' ≤ lo) :
    getBits (putBits x lo w v) lo' w' = getBits x lo' w' := by
  unfold getBits
  rw [putBits_toNat x v h]
  have e : (2 : Nat) ^ lo = 2 ^ lo' * (2 ^ w' * 2 ^ (lo - (lo' + w'))) := by
    rw [← Nat.pow_add, ← Nat.pow_add]; congr 1; omega
  have e1 : (2 : Nat) ^ (lo + w) = 2 ^ lo * 2 ^ w := Nat.pow_add 2 lo w
  have key : x.toNat / 2 ^ (lo + w) * 2 ^ (lo + w) + v % 2 ^ w * 2 ^ lo + x.toNat % 2 ^ lo =
      x.toNat % 2 ^ lo + 2 ^ lo * (v % 2 ^ w + 2 ^ w * (x.toNat / 2 ^ (lo + w))) := by rw [e1]; ring
  have low (a b : Nat) : (a + 2 ^ lo * b) / 2 ^ lo' % 2 ^ w' = a / 2 ^ lo' % 2 ^ w' := by
    rw [e, Nat.mul_assoc, Nat.add_mul_div_left _ _ (two_pow_le lo'), Nat.mul_assoc, Nat.add_mul_mod_self_left]
  rw [key, low]
  conv_rhs => rw [← Nat.mod_add_div x.toNat (2 ^ lo), low]

theorem getBits_lt (x : Word) (lo w : Nat) : getBits x lo w < 2 ^ w := Nat.mod_lt _ (two_pow_le w)

/-- A register read after a write to it. -/
theorem rdReg_wrReg (s : State) (o : Nat) (v : Word) (h : o ∉ s.behaveReset) : rdReg (wrReg s o v) o = v := by
  simp [rdReg, wrReg, h, mapGet_put]

/-- The last of two writes of a register stands alone. -/
theorem wrReg_wrReg (s : State) (o : Nat) (v w : Word) : wrReg (wrReg s o v) o w = wrReg s o w := by
  unfold wrReg; simp only [mapPut_put]

/-- A register read after a write to another. -/
theorem rdReg_wrReg_other (s : State) {o p : Nat} (v : Word) (h : p ≠ o) : rdReg (wrReg s o v) p = rdReg s p := by
  simp [rdReg, wrReg, mapGet_put, h]

/-- The word that a field replaces is the one read, where the register does not behave as its reset value. -/
theorem rdReg_held (s : State) {o : Nat} (h : o ∉ s.behaveReset) : mapGet resetWord s.regs o = rdReg s o := by
  simp [rdReg, h]

/-- A field read after a write of it. -/
theorem get_set (s : State) (f : Fld) (v i k : Nat) (hw : f.lo + f.w ≤ 32) (h : f.addr i k ∉ s.behaveReset) :
    (s.set f v i k).get f i k = v % 2 ^ f.w := by
  unfold State.get State.set
  rw [rdReg_wrReg _ _ _ h, getBits_putBits _ _ hw]

/-- A field read after a write of a field of another register. -/
theorem get_set_reg (s : State) (f g : Fld) (v i k j l : Nat) (h : g.addr j l ≠ f.addr i k) :
    (s.set f v i k).get g j l = s.get g j l := by
  unfold State.get State.set
  rw [rdReg_wrReg_other _ _ h]

/-- A field read after a write of another field of the same register. -/
theorem get_set_field (s : State) (f g : Fld) (v i k j l : Nat) (ha : g.addr j l = f.addr i k) (hw : f.lo + f.w ≤ 32)
    (h : f.addr i k ∉ s.behaveReset) (hd : f.lo + f.w ≤ g.lo ∨ g.lo + g.w ≤ f.lo) :
    (s.set f v i k).get g j l = s.get g j l := by
  unfold State.get State.set
  rw [ha, rdReg_wrReg _ _ _ h, rdReg_held _ h]
  rcases hd with hd | hd
  · exact getBits_putBits_above _ _ hw hd
  · exact getBits_putBits_below _ _ hw hd

/-- A whole register read after a write of a field of another. -/
theorem rdReg_set_other (s : State) (f : Fld) (v i k o : Nat) (h : o ≠ f.addr i k) : rdReg (s.set f v i k) o = rdReg s o := by
  unfold State.set
  rw [rdReg_wrReg_other _ _ h]

end Sys2Proof.Machine
end

