-- ==== Sys2Proof/Laws/State.lean ====
section
/-! SUPPORT. The small lemmas of the updates of the state: what each leaves as it is. -/

namespace Sys2Proof.Machine

@[simp] theorem wrReg_pending (s : State) (o : Nat) (v : Word) : (wrReg s o v).pending = s.pending := by unfold wrReg; rfl
@[simp] theorem wrReg_freeIdx (s : State) (o : Nat) (v : Word) : (wrReg s o v).freeIdx = s.freeIdx := by unfold wrReg; rfl
@[simp] theorem wrReg_behaveReset (s : State) (o : Nat) (v : Word) : (wrReg s o v).behaveReset = s.behaveReset := by unfold wrReg; rfl
@[simp] theorem wrReg_rdata (s : State) (o : Nat) (v : Word) : (wrReg s o v).rdata = s.rdata := by unfold wrReg; rfl
@[simp] theorem wrReg_clk (s : State) (o : Nat) (v : Word) : (wrReg s o v).clk = s.clk := by unfold wrReg; rfl
@[simp] theorem wrReg_servo (s : State) (o : Nat) (v : Word) : (wrReg s o v).servo = s.servo := by unfold wrReg; rfl
@[simp] theorem wrReg_pulses (s : State) (o : Nat) (v : Word) : (wrReg s o v).pulses = s.pulses := by unfold wrReg; rfl
@[simp] theorem wrReg_capt (s : State) (o : Nat) (v : Word) : (wrReg s o v).capt = s.capt := by unfold wrReg; rfl
@[simp] theorem wrReg_cal (s : State) (o : Nat) (v : Word) : (wrReg s o v).cal = s.cal := by unfold wrReg; rfl
@[simp] theorem wrReg_mems (s : State) (o : Nat) (v : Word) : (wrReg s o v).mems = s.mems := by unfold wrReg; rfl
@[simp] theorem wrReg_cores (s : State) (o : Nat) (v : Word) : (wrReg s o v).cores = s.cores := by unfold wrReg; rfl
@[simp] theorem wrReg_clTok (s : State) (o : Nat) (v : Word) : (wrReg s o v).clTok = s.clTok := by unfold wrReg; rfl
@[simp] theorem wrReg_ctxs (s : State) (o : Nat) (v : Word) : (wrReg s o v).ctxs = s.ctxs := by unfold wrReg; rfl
@[simp] theorem wrReg_groups (s : State) (o : Nat) (v : Word) : (wrReg s o v).groups = s.groups := by unfold wrReg; rfl
@[simp] theorem wrReg_serial (s : State) (o : Nat) (v : Word) : (wrReg s o v).serial = s.serial := by unfold wrReg; rfl
@[simp] theorem wrReg_fns (s : State) (o : Nat) (v : Word) : (wrReg s o v).fns = s.fns := by unfold wrReg; rfl
@[simp] theorem wrReg_wins (s : State) (o : Nat) (v : Word) : (wrReg s o v).wins = s.wins := by unfold wrReg; rfl
@[simp] theorem wrReg_winPend (s : State) (o : Nat) (v : Word) : (wrReg s o v).winPend = s.winPend := by unfold wrReg; rfl
@[simp] theorem wrReg_sealKey (s : State) (o : Nat) (v : Word) : (wrReg s o v).sealKey = s.sealKey := by unfold wrReg; rfl
@[simp] theorem wrReg_images (s : State) (o : Nat) (v : Word) : (wrReg s o v).images = s.images := by unfold wrReg; rfl
@[simp] theorem wrReg_msix (s : State) (o : Nat) (v : Word) : (wrReg s o v).msix = s.msix := by unfold wrReg; rfl
@[simp] theorem wrReg_upset (s : State) (o : Nat) (v : Word) : (wrReg s o v).upset = s.upset := by unfold wrReg; rfl
@[simp] theorem wrReg_cells (s : State) (o : Nat) (v : Word) : (wrReg s o v).cells = s.cells := by unfold wrReg; rfl
@[simp] theorem wrReg_fsk (s : State) (o : Nat) (v : Word) : (wrReg s o v).fsk = s.fsk := by unfold wrReg; rfl
@[simp] theorem wrReg_codecs (s : State) (o : Nat) (v : Word) : (wrReg s o v).codecs = s.codecs := by unfold wrReg; rfl
@[simp] theorem wrReg_fhq (s : State) (o : Nat) (v : Word) : (wrReg s o v).fhq = s.fhq := by unfold wrReg; rfl
@[simp] theorem wrReg_sjs (s : State) (o : Nat) (v : Word) : (wrReg s o v).sjs = s.sjs := by unfold wrReg; rfl
@[simp] theorem wrReg_beadUse (s : State) (o : Nat) (v : Word) : (wrReg s o v).beadUse = s.beadUse := by unfold wrReg; rfl
@[simp] theorem wrReg_beadStamp (s : State) (o : Nat) (v : Word) : (wrReg s o v).beadStamp = s.beadStamp := by unfold wrReg; rfl
@[simp] theorem wrReg_sent (s : State) (o : Nat) (v : Word) : (wrReg s o v).sent = s.sent := by unfold wrReg; rfl
@[simp] theorem wrReg_uids (s : State) (o : Nat) (v : Word) : (wrReg s o v).uids = s.uids := by unfold wrReg; rfl
@[simp] theorem wrReg_fab (s : State) (o : Nat) (v : Word) : (wrReg s o v).fab = s.fab := by unfold wrReg; rfl
@[simp] theorem wrReg_jr (s : State) (o : Nat) (v : Word) : (wrReg s o v).jr = s.jr := by unfold wrReg; rfl
@[simp] theorem wrReg_mbx (s : State) (o : Nat) (v : Word) : (wrReg s o v).mbx = s.mbx := by unfold wrReg; rfl
@[simp] theorem wrReg_arbs (s : State) (o : Nat) (v : Word) : (wrReg s o v).arbs = s.arbs := by unfold wrReg; rfl
@[simp] theorem wrReg_move (s : State) (o : Nat) (v : Word) : (wrReg s o v).move = s.move := by unfold wrReg; rfl
@[simp] theorem wrReg_scrub (s : State) (o : Nat) (v : Word) : (wrReg s o v).scrub = s.scrub := by unfold wrReg; rfl
@[simp] theorem wrReg_operatorKey (s : State) (o : Nat) (v : Word) : (wrReg s o v).operatorKey = s.operatorKey := by unfold wrReg; rfl
@[simp] theorem wrReg_vig (s : State) (o : Nat) (v : Word) : (wrReg s o v).vig = s.vig := by unfold wrReg; rfl
@[simp] theorem wrReg_pwrSw (s : State) (o : Nat) (v : Word) : (wrReg s o v).pwrSw = s.pwrSw := by unfold wrReg; rfl
@[simp] theorem wrReg_scrubMs (s : State) (o : Nat) (v : Word) : (wrReg s o v).scrubMs = s.scrubMs := by unfold wrReg; rfl
@[simp] theorem wrReg_latches (s : State) (o : Nat) (v : Word) : (wrReg s o v).latches = s.latches := by unfold wrReg; rfl
@[simp] theorem wrReg_smbOp (s : State) (o : Nat) (v : Word) : (wrReg s o v).smbOp = s.smbOp := by unfold wrReg; rfl
@[simp] theorem wrReg_cpFw (s : State) (o : Nat) (v : Word) : (wrReg s o v).cpFw = s.cpFw := by unfold wrReg; rfl
@[simp] theorem wrReg_fwResults (s : State) (o : Nat) (v : Word) : (wrReg s o v).fwResults = s.fwResults := by unfold wrReg; rfl
@[simp] theorem wrReg_fuses (s : State) (o : Nat) (v : Word) : (wrReg s o v).fuses = s.fuses := by unfold wrReg; rfl

@[simp] theorem State.set_pending (s : State) (f : Fld) (v i k : Nat) : (s.set f v i k).pending = s.pending := wrReg_pending s _ _
@[simp] theorem State.set_freeIdx (s : State) (f : Fld) (v i k : Nat) : (s.set f v i k).freeIdx = s.freeIdx := wrReg_freeIdx s _ _
@[simp] theorem State.set_behaveReset (s : State) (f : Fld) (v i k : Nat) : (s.set f v i k).behaveReset = s.behaveReset := wrReg_behaveReset s _ _
@[simp] theorem State.set_rdata (s : State) (f : Fld) (v i k : Nat) : (s.set f v i k).rdata = s.rdata := wrReg_rdata s _ _
@[simp] theorem State.set_clk (s : State) (f : Fld) (v i k : Nat) : (s.set f v i k).clk = s.clk := wrReg_clk s _ _
@[simp] theorem State.set_servo (s : State) (f : Fld) (v i k : Nat) : (s.set f v i k).servo = s.servo := wrReg_servo s _ _
@[simp] theorem State.set_pulses (s : State) (f : Fld) (v i k : Nat) : (s.set f v i k).pulses = s.pulses := wrReg_pulses s _ _
@[simp] theorem State.set_capt (s : State) (f : Fld) (v i k : Nat) : (s.set f v i k).capt = s.capt := wrReg_capt s _ _
@[simp] theorem State.set_cal (s : State) (f : Fld) (v i k : Nat) : (s.set f v i k).cal = s.cal := wrReg_cal s _ _
@[simp] theorem State.set_mems (s : State) (f : Fld) (v i k : Nat) : (s.set f v i k).mems = s.mems := wrReg_mems s _ _
@[simp] theorem State.set_cores (s : State) (f : Fld) (v i k : Nat) : (s.set f v i k).cores = s.cores := wrReg_cores s _ _
@[simp] theorem State.set_clTok (s : State) (f : Fld) (v i k : Nat) : (s.set f v i k).clTok = s.clTok := wrReg_clTok s _ _
@[simp] theorem State.set_ctxs (s : State) (f : Fld) (v i k : Nat) : (s.set f v i k).ctxs = s.ctxs := wrReg_ctxs s _ _
@[simp] theorem State.set_groups (s : State) (f : Fld) (v i k : Nat) : (s.set f v i k).groups = s.groups := wrReg_groups s _ _
@[simp] theorem State.set_serial (s : State) (f : Fld) (v i k : Nat) : (s.set f v i k).serial = s.serial := wrReg_serial s _ _
@[simp] theorem State.set_fns (s : State) (f : Fld) (v i k : Nat) : (s.set f v i k).fns = s.fns := wrReg_fns s _ _
@[simp] theorem State.set_wins (s : State) (f : Fld) (v i k : Nat) : (s.set f v i k).wins = s.wins := wrReg_wins s _ _
@[simp] theorem State.set_winPend (s : State) (f : Fld) (v i k : Nat) : (s.set f v i k).winPend = s.winPend := wrReg_winPend s _ _
@[simp] theorem State.set_sealKey (s : State) (f : Fld) (v i k : Nat) : (s.set f v i k).sealKey = s.sealKey := wrReg_sealKey s _ _
@[simp] theorem State.set_images (s : State) (f : Fld) (v i k : Nat) : (s.set f v i k).images = s.images := wrReg_images s _ _
@[simp] theorem State.set_msix (s : State) (f : Fld) (v i k : Nat) : (s.set f v i k).msix = s.msix := wrReg_msix s _ _
@[simp] theorem State.set_upset (s : State) (f : Fld) (v i k : Nat) : (s.set f v i k).upset = s.upset := wrReg_upset s _ _
@[simp] theorem State.set_cells (s : State) (f : Fld) (v i k : Nat) : (s.set f v i k).cells = s.cells := wrReg_cells s _ _
@[simp] theorem State.set_fsk (s : State) (f : Fld) (v i k : Nat) : (s.set f v i k).fsk = s.fsk := wrReg_fsk s _ _
@[simp] theorem State.set_codecs (s : State) (f : Fld) (v i k : Nat) : (s.set f v i k).codecs = s.codecs := wrReg_codecs s _ _
@[simp] theorem State.set_fhq (s : State) (f : Fld) (v i k : Nat) : (s.set f v i k).fhq = s.fhq := wrReg_fhq s _ _
@[simp] theorem State.set_sjs (s : State) (f : Fld) (v i k : Nat) : (s.set f v i k).sjs = s.sjs := wrReg_sjs s _ _
@[simp] theorem State.set_beadUse (s : State) (f : Fld) (v i k : Nat) : (s.set f v i k).beadUse = s.beadUse := wrReg_beadUse s _ _
@[simp] theorem State.set_beadStamp (s : State) (f : Fld) (v i k : Nat) : (s.set f v i k).beadStamp = s.beadStamp := wrReg_beadStamp s _ _
@[simp] theorem State.set_sent (s : State) (f : Fld) (v i k : Nat) : (s.set f v i k).sent = s.sent := wrReg_sent s _ _
@[simp] theorem State.set_uids (s : State) (f : Fld) (v i k : Nat) : (s.set f v i k).uids = s.uids := wrReg_uids s _ _
@[simp] theorem State.set_fab (s : State) (f : Fld) (v i k : Nat) : (s.set f v i k).fab = s.fab := wrReg_fab s _ _
@[simp] theorem State.set_jr (s : State) (f : Fld) (v i k : Nat) : (s.set f v i k).jr = s.jr := wrReg_jr s _ _
@[simp] theorem State.set_mbx (s : State) (f : Fld) (v i k : Nat) : (s.set f v i k).mbx = s.mbx := wrReg_mbx s _ _
@[simp] theorem State.set_arbs (s : State) (f : Fld) (v i k : Nat) : (s.set f v i k).arbs = s.arbs := wrReg_arbs s _ _
@[simp] theorem State.set_move (s : State) (f : Fld) (v i k : Nat) : (s.set f v i k).move = s.move := wrReg_move s _ _
@[simp] theorem State.set_scrub (s : State) (f : Fld) (v i k : Nat) : (s.set f v i k).scrub = s.scrub := wrReg_scrub s _ _
@[simp] theorem State.set_operatorKey (s : State) (f : Fld) (v i k : Nat) : (s.set f v i k).operatorKey = s.operatorKey := wrReg_operatorKey s _ _
@[simp] theorem State.set_vig (s : State) (f : Fld) (v i k : Nat) : (s.set f v i k).vig = s.vig := wrReg_vig s _ _
@[simp] theorem State.set_pwrSw (s : State) (f : Fld) (v i k : Nat) : (s.set f v i k).pwrSw = s.pwrSw := wrReg_pwrSw s _ _
@[simp] theorem State.set_scrubMs (s : State) (f : Fld) (v i k : Nat) : (s.set f v i k).scrubMs = s.scrubMs := wrReg_scrubMs s _ _
@[simp] theorem State.set_latches (s : State) (f : Fld) (v i k : Nat) : (s.set f v i k).latches = s.latches := wrReg_latches s _ _
@[simp] theorem State.set_smbOp (s : State) (f : Fld) (v i k : Nat) : (s.set f v i k).smbOp = s.smbOp := wrReg_smbOp s _ _
@[simp] theorem State.set_cpFw (s : State) (f : Fld) (v i k : Nat) : (s.set f v i k).cpFw = s.cpFw := wrReg_cpFw s _ _
@[simp] theorem State.set_fwResults (s : State) (f : Fld) (v i k : Nat) : (s.set f v i k).fwResults = s.fwResults := wrReg_fwResults s _ _
@[simp] theorem State.set_fuses (s : State) (f : Fld) (v i k : Nat) : (s.set f v i k).fuses = s.fuses := wrReg_fuses s _ _

@[simp] theorem State.setS_pending (s : State) (f : Fld) (v : Int) (i k : Nat) : (s.setS f v i k).pending = s.pending := by simp [State.setS]
@[simp] theorem State.setS_freeIdx (s : State) (f : Fld) (v : Int) (i k : Nat) : (s.setS f v i k).freeIdx = s.freeIdx := by simp [State.setS]
@[simp] theorem State.setS_behaveReset (s : State) (f : Fld) (v : Int) (i k : Nat) : (s.setS f v i k).behaveReset = s.behaveReset := by simp [State.setS]
@[simp] theorem State.setS_rdata (s : State) (f : Fld) (v : Int) (i k : Nat) : (s.setS f v i k).rdata = s.rdata := by simp [State.setS]
@[simp] theorem State.setS_clk (s : State) (f : Fld) (v : Int) (i k : Nat) : (s.setS f v i k).clk = s.clk := by simp [State.setS]
@[simp] theorem State.setS_servo (s : State) (f : Fld) (v : Int) (i k : Nat) : (s.setS f v i k).servo = s.servo := by simp [State.setS]
@[simp] theorem State.setS_pulses (s : State) (f : Fld) (v : Int) (i k : Nat) : (s.setS f v i k).pulses = s.pulses := by simp [State.setS]
@[simp] theorem State.setS_capt (s : State) (f : Fld) (v : Int) (i k : Nat) : (s.setS f v i k).capt = s.capt := by simp [State.setS]
@[simp] theorem State.setS_cal (s : State) (f : Fld) (v : Int) (i k : Nat) : (s.setS f v i k).cal = s.cal := by simp [State.setS]
@[simp] theorem State.setS_mems (s : State) (f : Fld) (v : Int) (i k : Nat) : (s.setS f v i k).mems = s.mems := by simp [State.setS]
@[simp] theorem State.setS_cores (s : State) (f : Fld) (v : Int) (i k : Nat) : (s.setS f v i k).cores = s.cores := by simp [State.setS]
@[simp] theorem State.setS_clTok (s : State) (f : Fld) (v : Int) (i k : Nat) : (s.setS f v i k).clTok = s.clTok := by simp [State.setS]
@[simp] theorem State.setS_ctxs (s : State) (f : Fld) (v : Int) (i k : Nat) : (s.setS f v i k).ctxs = s.ctxs := by simp [State.setS]
@[simp] theorem State.setS_groups (s : State) (f : Fld) (v : Int) (i k : Nat) : (s.setS f v i k).groups = s.groups := by simp [State.setS]
@[simp] theorem State.setS_serial (s : State) (f : Fld) (v : Int) (i k : Nat) : (s.setS f v i k).serial = s.serial := by simp [State.setS]
@[simp] theorem State.setS_fns (s : State) (f : Fld) (v : Int) (i k : Nat) : (s.setS f v i k).fns = s.fns := by simp [State.setS]
@[simp] theorem State.setS_wins (s : State) (f : Fld) (v : Int) (i k : Nat) : (s.setS f v i k).wins = s.wins := by simp [State.setS]
@[simp] theorem State.setS_winPend (s : State) (f : Fld) (v : Int) (i k : Nat) : (s.setS f v i k).winPend = s.winPend := by simp [State.setS]
@[simp] theorem State.setS_sealKey (s : State) (f : Fld) (v : Int) (i k : Nat) : (s.setS f v i k).sealKey = s.sealKey := by simp [State.setS]
@[simp] theorem State.setS_images (s : State) (f : Fld) (v : Int) (i k : Nat) : (s.setS f v i k).images = s.images := by simp [State.setS]
@[simp] theorem State.setS_msix (s : State) (f : Fld) (v : Int) (i k : Nat) : (s.setS f v i k).msix = s.msix := by simp [State.setS]
@[simp] theorem State.setS_upset (s : State) (f : Fld) (v : Int) (i k : Nat) : (s.setS f v i k).upset = s.upset := by simp [State.setS]
@[simp] theorem State.setS_cells (s : State) (f : Fld) (v : Int) (i k : Nat) : (s.setS f v i k).cells = s.cells := by simp [State.setS]
@[simp] theorem State.setS_fsk (s : State) (f : Fld) (v : Int) (i k : Nat) : (s.setS f v i k).fsk = s.fsk := by simp [State.setS]
@[simp] theorem State.setS_codecs (s : State) (f : Fld) (v : Int) (i k : Nat) : (s.setS f v i k).codecs = s.codecs := by simp [State.setS]
@[simp] theorem State.setS_fhq (s : State) (f : Fld) (v : Int) (i k : Nat) : (s.setS f v i k).fhq = s.fhq := by simp [State.setS]
@[simp] theorem State.setS_sjs (s : State) (f : Fld) (v : Int) (i k : Nat) : (s.setS f v i k).sjs = s.sjs := by simp [State.setS]
@[simp] theorem State.setS_beadUse (s : State) (f : Fld) (v : Int) (i k : Nat) : (s.setS f v i k).beadUse = s.beadUse := by simp [State.setS]
@[simp] theorem State.setS_beadStamp (s : State) (f : Fld) (v : Int) (i k : Nat) : (s.setS f v i k).beadStamp = s.beadStamp := by simp [State.setS]
@[simp] theorem State.setS_sent (s : State) (f : Fld) (v : Int) (i k : Nat) : (s.setS f v i k).sent = s.sent := by simp [State.setS]
@[simp] theorem State.setS_uids (s : State) (f : Fld) (v : Int) (i k : Nat) : (s.setS f v i k).uids = s.uids := by simp [State.setS]
@[simp] theorem State.setS_fab (s : State) (f : Fld) (v : Int) (i k : Nat) : (s.setS f v i k).fab = s.fab := by simp [State.setS]
@[simp] theorem State.setS_jr (s : State) (f : Fld) (v : Int) (i k : Nat) : (s.setS f v i k).jr = s.jr := by simp [State.setS]
@[simp] theorem State.setS_mbx (s : State) (f : Fld) (v : Int) (i k : Nat) : (s.setS f v i k).mbx = s.mbx := by simp [State.setS]
@[simp] theorem State.setS_arbs (s : State) (f : Fld) (v : Int) (i k : Nat) : (s.setS f v i k).arbs = s.arbs := by simp [State.setS]
@[simp] theorem State.setS_move (s : State) (f : Fld) (v : Int) (i k : Nat) : (s.setS f v i k).move = s.move := by simp [State.setS]
@[simp] theorem State.setS_scrub (s : State) (f : Fld) (v : Int) (i k : Nat) : (s.setS f v i k).scrub = s.scrub := by simp [State.setS]
@[simp] theorem State.setS_operatorKey (s : State) (f : Fld) (v : Int) (i k : Nat) : (s.setS f v i k).operatorKey = s.operatorKey := by simp [State.setS]
@[simp] theorem State.setS_vig (s : State) (f : Fld) (v : Int) (i k : Nat) : (s.setS f v i k).vig = s.vig := by simp [State.setS]
@[simp] theorem State.setS_pwrSw (s : State) (f : Fld) (v : Int) (i k : Nat) : (s.setS f v i k).pwrSw = s.pwrSw := by simp [State.setS]
@[simp] theorem State.setS_scrubMs (s : State) (f : Fld) (v : Int) (i k : Nat) : (s.setS f v i k).scrubMs = s.scrubMs := by simp [State.setS]
@[simp] theorem State.setS_latches (s : State) (f : Fld) (v : Int) (i k : Nat) : (s.setS f v i k).latches = s.latches := by simp [State.setS]
@[simp] theorem State.setS_smbOp (s : State) (f : Fld) (v : Int) (i k : Nat) : (s.setS f v i k).smbOp = s.smbOp := by simp [State.setS]
@[simp] theorem State.setS_cpFw (s : State) (f : Fld) (v : Int) (i k : Nat) : (s.setS f v i k).cpFw = s.cpFw := by simp [State.setS]
@[simp] theorem State.setS_fwResults (s : State) (f : Fld) (v : Int) (i k : Nat) : (s.setS f v i k).fwResults = s.fwResults := by simp [State.setS]
@[simp] theorem State.setS_fuses (s : State) (f : Fld) (v : Int) (i k : Nat) : (s.setS f v i k).fuses = s.fuses := by simp [State.setS]

@[simp] theorem State.bumpSat_pending (s : State) (f : Fld) (i k d : Nat) : (s.bumpSat f i k d).pending = s.pending := by simp [State.bumpSat]
@[simp] theorem State.bumpSat_freeIdx (s : State) (f : Fld) (i k d : Nat) : (s.bumpSat f i k d).freeIdx = s.freeIdx := by simp [State.bumpSat]
@[simp] theorem State.bumpSat_behaveReset (s : State) (f : Fld) (i k d : Nat) : (s.bumpSat f i k d).behaveReset = s.behaveReset := by simp [State.bumpSat]
@[simp] theorem State.bumpSat_rdata (s : State) (f : Fld) (i k d : Nat) : (s.bumpSat f i k d).rdata = s.rdata := by simp [State.bumpSat]
@[simp] theorem State.bumpSat_clk (s : State) (f : Fld) (i k d : Nat) : (s.bumpSat f i k d).clk = s.clk := by simp [State.bumpSat]
@[simp] theorem State.bumpSat_servo (s : State) (f : Fld) (i k d : Nat) : (s.bumpSat f i k d).servo = s.servo := by simp [State.bumpSat]
@[simp] theorem State.bumpSat_pulses (s : State) (f : Fld) (i k d : Nat) : (s.bumpSat f i k d).pulses = s.pulses := by simp [State.bumpSat]
@[simp] theorem State.bumpSat_capt (s : State) (f : Fld) (i k d : Nat) : (s.bumpSat f i k d).capt = s.capt := by simp [State.bumpSat]
@[simp] theorem State.bumpSat_cal (s : State) (f : Fld) (i k d : Nat) : (s.bumpSat f i k d).cal = s.cal := by simp [State.bumpSat]
@[simp] theorem State.bumpSat_mems (s : State) (f : Fld) (i k d : Nat) : (s.bumpSat f i k d).mems = s.mems := by simp [State.bumpSat]
@[simp] theorem State.bumpSat_cores (s : State) (f : Fld) (i k d : Nat) : (s.bumpSat f i k d).cores = s.cores := by simp [State.bumpSat]
@[simp] theorem State.bumpSat_clTok (s : State) (f : Fld) (i k d : Nat) : (s.bumpSat f i k d).clTok = s.clTok := by simp [State.bumpSat]
@[simp] theorem State.bumpSat_ctxs (s : State) (f : Fld) (i k d : Nat) : (s.bumpSat f i k d).ctxs = s.ctxs := by simp [State.bumpSat]
@[simp] theorem State.bumpSat_groups (s : State) (f : Fld) (i k d : Nat) : (s.bumpSat f i k d).groups = s.groups := by simp [State.bumpSat]
@[simp] theorem State.bumpSat_serial (s : State) (f : Fld) (i k d : Nat) : (s.bumpSat f i k d).serial = s.serial := by simp [State.bumpSat]
@[simp] theorem State.bumpSat_fns (s : State) (f : Fld) (i k d : Nat) : (s.bumpSat f i k d).fns = s.fns := by simp [State.bumpSat]
@[simp] theorem State.bumpSat_wins (s : State) (f : Fld) (i k d : Nat) : (s.bumpSat f i k d).wins = s.wins := by simp [State.bumpSat]
@[simp] theorem State.bumpSat_winPend (s : State) (f : Fld) (i k d : Nat) : (s.bumpSat f i k d).winPend = s.winPend := by simp [State.bumpSat]
@[simp] theorem State.bumpSat_sealKey (s : State) (f : Fld) (i k d : Nat) : (s.bumpSat f i k d).sealKey = s.sealKey := by simp [State.bumpSat]
@[simp] theorem State.bumpSat_images (s : State) (f : Fld) (i k d : Nat) : (s.bumpSat f i k d).images = s.images := by simp [State.bumpSat]
@[simp] theorem State.bumpSat_msix (s : State) (f : Fld) (i k d : Nat) : (s.bumpSat f i k d).msix = s.msix := by simp [State.bumpSat]
@[simp] theorem State.bumpSat_upset (s : State) (f : Fld) (i k d : Nat) : (s.bumpSat f i k d).upset = s.upset := by simp [State.bumpSat]
@[simp] theorem State.bumpSat_cells (s : State) (f : Fld) (i k d : Nat) : (s.bumpSat f i k d).cells = s.cells := by simp [State.bumpSat]
@[simp] theorem State.bumpSat_fsk (s : State) (f : Fld) (i k d : Nat) : (s.bumpSat f i k d).fsk = s.fsk := by simp [State.bumpSat]
@[simp] theorem State.bumpSat_codecs (s : State) (f : Fld) (i k d : Nat) : (s.bumpSat f i k d).codecs = s.codecs := by simp [State.bumpSat]
@[simp] theorem State.bumpSat_fhq (s : State) (f : Fld) (i k d : Nat) : (s.bumpSat f i k d).fhq = s.fhq := by simp [State.bumpSat]
@[simp] theorem State.bumpSat_sjs (s : State) (f : Fld) (i k d : Nat) : (s.bumpSat f i k d).sjs = s.sjs := by simp [State.bumpSat]
@[simp] theorem State.bumpSat_beadUse (s : State) (f : Fld) (i k d : Nat) : (s.bumpSat f i k d).beadUse = s.beadUse := by simp [State.bumpSat]
@[simp] theorem State.bumpSat_beadStamp (s : State) (f : Fld) (i k d : Nat) : (s.bumpSat f i k d).beadStamp = s.beadStamp := by simp [State.bumpSat]
@[simp] theorem State.bumpSat_sent (s : State) (f : Fld) (i k d : Nat) : (s.bumpSat f i k d).sent = s.sent := by simp [State.bumpSat]
@[simp] theorem State.bumpSat_uids (s : State) (f : Fld) (i k d : Nat) : (s.bumpSat f i k d).uids = s.uids := by simp [State.bumpSat]
@[simp] theorem State.bumpSat_fab (s : State) (f : Fld) (i k d : Nat) : (s.bumpSat f i k d).fab = s.fab := by simp [State.bumpSat]
@[simp] theorem State.bumpSat_jr (s : State) (f : Fld) (i k d : Nat) : (s.bumpSat f i k d).jr = s.jr := by simp [State.bumpSat]
@[simp] theorem State.bumpSat_mbx (s : State) (f : Fld) (i k d : Nat) : (s.bumpSat f i k d).mbx = s.mbx := by simp [State.bumpSat]
@[simp] theorem State.bumpSat_arbs (s : State) (f : Fld) (i k d : Nat) : (s.bumpSat f i k d).arbs = s.arbs := by simp [State.bumpSat]
@[simp] theorem State.bumpSat_move (s : State) (f : Fld) (i k d : Nat) : (s.bumpSat f i k d).move = s.move := by simp [State.bumpSat]
@[simp] theorem State.bumpSat_scrub (s : State) (f : Fld) (i k d : Nat) : (s.bumpSat f i k d).scrub = s.scrub := by simp [State.bumpSat]
@[simp] theorem State.bumpSat_operatorKey (s : State) (f : Fld) (i k d : Nat) : (s.bumpSat f i k d).operatorKey = s.operatorKey := by simp [State.bumpSat]
@[simp] theorem State.bumpSat_vig (s : State) (f : Fld) (i k d : Nat) : (s.bumpSat f i k d).vig = s.vig := by simp [State.bumpSat]
@[simp] theorem State.bumpSat_pwrSw (s : State) (f : Fld) (i k d : Nat) : (s.bumpSat f i k d).pwrSw = s.pwrSw := by simp [State.bumpSat]
@[simp] theorem State.bumpSat_scrubMs (s : State) (f : Fld) (i k d : Nat) : (s.bumpSat f i k d).scrubMs = s.scrubMs := by simp [State.bumpSat]
@[simp] theorem State.bumpSat_latches (s : State) (f : Fld) (i k d : Nat) : (s.bumpSat f i k d).latches = s.latches := by simp [State.bumpSat]
@[simp] theorem State.bumpSat_smbOp (s : State) (f : Fld) (i k d : Nat) : (s.bumpSat f i k d).smbOp = s.smbOp := by simp [State.bumpSat]
@[simp] theorem State.bumpSat_cpFw (s : State) (f : Fld) (i k d : Nat) : (s.bumpSat f i k d).cpFw = s.cpFw := by simp [State.bumpSat]
@[simp] theorem State.bumpSat_fwResults (s : State) (f : Fld) (i k d : Nat) : (s.bumpSat f i k d).fwResults = s.fwResults := by simp [State.bumpSat]
@[simp] theorem State.bumpSat_fuses (s : State) (f : Fld) (i k d : Nat) : (s.bumpSat f i k d).fuses = s.fuses := by simp [State.bumpSat]

@[simp] theorem State.bump_pending (s : State) (f : Fld) (i k d : Nat) : (s.bump f i k d).pending = s.pending := by simp [State.bump]
@[simp] theorem State.bump_freeIdx (s : State) (f : Fld) (i k d : Nat) : (s.bump f i k d).freeIdx = s.freeIdx := by simp [State.bump]
@[simp] theorem State.bump_behaveReset (s : State) (f : Fld) (i k d : Nat) : (s.bump f i k d).behaveReset = s.behaveReset := by simp [State.bump]
@[simp] theorem State.bump_rdata (s : State) (f : Fld) (i k d : Nat) : (s.bump f i k d).rdata = s.rdata := by simp [State.bump]
@[simp] theorem State.bump_clk (s : State) (f : Fld) (i k d : Nat) : (s.bump f i k d).clk = s.clk := by simp [State.bump]
@[simp] theorem State.bump_servo (s : State) (f : Fld) (i k d : Nat) : (s.bump f i k d).servo = s.servo := by simp [State.bump]
@[simp] theorem State.bump_pulses (s : State) (f : Fld) (i k d : Nat) : (s.bump f i k d).pulses = s.pulses := by simp [State.bump]
@[simp] theorem State.bump_capt (s : State) (f : Fld) (i k d : Nat) : (s.bump f i k d).capt = s.capt := by simp [State.bump]
@[simp] theorem State.bump_cal (s : State) (f : Fld) (i k d : Nat) : (s.bump f i k d).cal = s.cal := by simp [State.bump]
@[simp] theorem State.bump_mems (s : State) (f : Fld) (i k d : Nat) : (s.bump f i k d).mems = s.mems := by simp [State.bump]
@[simp] theorem State.bump_cores (s : State) (f : Fld) (i k d : Nat) : (s.bump f i k d).cores = s.cores := by simp [State.bump]
@[simp] theorem State.bump_clTok (s : State) (f : Fld) (i k d : Nat) : (s.bump f i k d).clTok = s.clTok := by simp [State.bump]
@[simp] theorem State.bump_ctxs (s : State) (f : Fld) (i k d : Nat) : (s.bump f i k d).ctxs = s.ctxs := by simp [State.bump]
@[simp] theorem State.bump_groups (s : State) (f : Fld) (i k d : Nat) : (s.bump f i k d).groups = s.groups := by simp [State.bump]
@[simp] theorem State.bump_serial (s : State) (f : Fld) (i k d : Nat) : (s.bump f i k d).serial = s.serial := by simp [State.bump]
@[simp] theorem State.bump_fns (s : State) (f : Fld) (i k d : Nat) : (s.bump f i k d).fns = s.fns := by simp [State.bump]
@[simp] theorem State.bump_wins (s : State) (f : Fld) (i k d : Nat) : (s.bump f i k d).wins = s.wins := by simp [State.bump]
@[simp] theorem State.bump_winPend (s : State) (f : Fld) (i k d : Nat) : (s.bump f i k d).winPend = s.winPend := by simp [State.bump]
@[simp] theorem State.bump_sealKey (s : State) (f : Fld) (i k d : Nat) : (s.bump f i k d).sealKey = s.sealKey := by simp [State.bump]
@[simp] theorem State.bump_images (s : State) (f : Fld) (i k d : Nat) : (s.bump f i k d).images = s.images := by simp [State.bump]
@[simp] theorem State.bump_msix (s : State) (f : Fld) (i k d : Nat) : (s.bump f i k d).msix = s.msix := by simp [State.bump]
@[simp] theorem State.bump_upset (s : State) (f : Fld) (i k d : Nat) : (s.bump f i k d).upset = s.upset := by simp [State.bump]
@[simp] theorem State.bump_cells (s : State) (f : Fld) (i k d : Nat) : (s.bump f i k d).cells = s.cells := by simp [State.bump]
@[simp] theorem State.bump_fsk (s : State) (f : Fld) (i k d : Nat) : (s.bump f i k d).fsk = s.fsk := by simp [State.bump]
@[simp] theorem State.bump_codecs (s : State) (f : Fld) (i k d : Nat) : (s.bump f i k d).codecs = s.codecs := by simp [State.bump]
@[simp] theorem State.bump_fhq (s : State) (f : Fld) (i k d : Nat) : (s.bump f i k d).fhq = s.fhq := by simp [State.bump]
@[simp] theorem State.bump_sjs (s : State) (f : Fld) (i k d : Nat) : (s.bump f i k d).sjs = s.sjs := by simp [State.bump]
@[simp] theorem State.bump_beadUse (s : State) (f : Fld) (i k d : Nat) : (s.bump f i k d).beadUse = s.beadUse := by simp [State.bump]
@[simp] theorem State.bump_beadStamp (s : State) (f : Fld) (i k d : Nat) : (s.bump f i k d).beadStamp = s.beadStamp := by simp [State.bump]
@[simp] theorem State.bump_sent (s : State) (f : Fld) (i k d : Nat) : (s.bump f i k d).sent = s.sent := by simp [State.bump]
@[simp] theorem State.bump_uids (s : State) (f : Fld) (i k d : Nat) : (s.bump f i k d).uids = s.uids := by simp [State.bump]
@[simp] theorem State.bump_fab (s : State) (f : Fld) (i k d : Nat) : (s.bump f i k d).fab = s.fab := by simp [State.bump]
@[simp] theorem State.bump_jr (s : State) (f : Fld) (i k d : Nat) : (s.bump f i k d).jr = s.jr := by simp [State.bump]
@[simp] theorem State.bump_mbx (s : State) (f : Fld) (i k d : Nat) : (s.bump f i k d).mbx = s.mbx := by simp [State.bump]
@[simp] theorem State.bump_arbs (s : State) (f : Fld) (i k d : Nat) : (s.bump f i k d).arbs = s.arbs := by simp [State.bump]
@[simp] theorem State.bump_move (s : State) (f : Fld) (i k d : Nat) : (s.bump f i k d).move = s.move := by simp [State.bump]
@[simp] theorem State.bump_scrub (s : State) (f : Fld) (i k d : Nat) : (s.bump f i k d).scrub = s.scrub := by simp [State.bump]
@[simp] theorem State.bump_operatorKey (s : State) (f : Fld) (i k d : Nat) : (s.bump f i k d).operatorKey = s.operatorKey := by simp [State.bump]
@[simp] theorem State.bump_vig (s : State) (f : Fld) (i k d : Nat) : (s.bump f i k d).vig = s.vig := by simp [State.bump]
@[simp] theorem State.bump_pwrSw (s : State) (f : Fld) (i k d : Nat) : (s.bump f i k d).pwrSw = s.pwrSw := by simp [State.bump]
@[simp] theorem State.bump_scrubMs (s : State) (f : Fld) (i k d : Nat) : (s.bump f i k d).scrubMs = s.scrubMs := by simp [State.bump]
@[simp] theorem State.bump_latches (s : State) (f : Fld) (i k d : Nat) : (s.bump f i k d).latches = s.latches := by simp [State.bump]
@[simp] theorem State.bump_smbOp (s : State) (f : Fld) (i k d : Nat) : (s.bump f i k d).smbOp = s.smbOp := by simp [State.bump]
@[simp] theorem State.bump_cpFw (s : State) (f : Fld) (i k d : Nat) : (s.bump f i k d).cpFw = s.cpFw := by simp [State.bump]
@[simp] theorem State.bump_fwResults (s : State) (f : Fld) (i k d : Nat) : (s.bump f i k d).fwResults = s.fwResults := by simp [State.bump]
@[simp] theorem State.bump_fuses (s : State) (f : Fld) (i k d : Nat) : (s.bump f i k d).fuses = s.fuses := by simp [State.bump]

@[simp] theorem State.set2_pending (s : State) (lo hi : Fld) (v i k : Nat) : (s.set2 lo hi v i k).pending = s.pending := by simp [State.set2]
@[simp] theorem State.set2_freeIdx (s : State) (lo hi : Fld) (v i k : Nat) : (s.set2 lo hi v i k).freeIdx = s.freeIdx := by simp [State.set2]
@[simp] theorem State.set2_behaveReset (s : State) (lo hi : Fld) (v i k : Nat) : (s.set2 lo hi v i k).behaveReset = s.behaveReset := by simp [State.set2]
@[simp] theorem State.set2_rdata (s : State) (lo hi : Fld) (v i k : Nat) : (s.set2 lo hi v i k).rdata = s.rdata := by simp [State.set2]
@[simp] theorem State.set2_clk (s : State) (lo hi : Fld) (v i k : Nat) : (s.set2 lo hi v i k).clk = s.clk := by simp [State.set2]
@[simp] theorem State.set2_servo (s : State) (lo hi : Fld) (v i k : Nat) : (s.set2 lo hi v i k).servo = s.servo := by simp [State.set2]
@[simp] theorem State.set2_pulses (s : State) (lo hi : Fld) (v i k : Nat) : (s.set2 lo hi v i k).pulses = s.pulses := by simp [State.set2]
@[simp] theorem State.set2_capt (s : State) (lo hi : Fld) (v i k : Nat) : (s.set2 lo hi v i k).capt = s.capt := by simp [State.set2]
@[simp] theorem State.set2_cal (s : State) (lo hi : Fld) (v i k : Nat) : (s.set2 lo hi v i k).cal = s.cal := by simp [State.set2]
@[simp] theorem State.set2_mems (s : State) (lo hi : Fld) (v i k : Nat) : (s.set2 lo hi v i k).mems = s.mems := by simp [State.set2]
@[simp] theorem State.set2_cores (s : State) (lo hi : Fld) (v i k : Nat) : (s.set2 lo hi v i k).cores = s.cores := by simp [State.set2]
@[simp] theorem State.set2_clTok (s : State) (lo hi : Fld) (v i k : Nat) : (s.set2 lo hi v i k).clTok = s.clTok := by simp [State.set2]
@[simp] theorem State.set2_ctxs (s : State) (lo hi : Fld) (v i k : Nat) : (s.set2 lo hi v i k).ctxs = s.ctxs := by simp [State.set2]
@[simp] theorem State.set2_groups (s : State) (lo hi : Fld) (v i k : Nat) : (s.set2 lo hi v i k).groups = s.groups := by simp [State.set2]
@[simp] theorem State.set2_serial (s : State) (lo hi : Fld) (v i k : Nat) : (s.set2 lo hi v i k).serial = s.serial := by simp [State.set2]
@[simp] theorem State.set2_fns (s : State) (lo hi : Fld) (v i k : Nat) : (s.set2 lo hi v i k).fns = s.fns := by simp [State.set2]
@[simp] theorem State.set2_wins (s : State) (lo hi : Fld) (v i k : Nat) : (s.set2 lo hi v i k).wins = s.wins := by simp [State.set2]
@[simp] theorem State.set2_winPend (s : State) (lo hi : Fld) (v i k : Nat) : (s.set2 lo hi v i k).winPend = s.winPend := by simp [State.set2]
@[simp] theorem State.set2_sealKey (s : State) (lo hi : Fld) (v i k : Nat) : (s.set2 lo hi v i k).sealKey = s.sealKey := by simp [State.set2]
@[simp] theorem State.set2_images (s : State) (lo hi : Fld) (v i k : Nat) : (s.set2 lo hi v i k).images = s.images := by simp [State.set2]
@[simp] theorem State.set2_msix (s : State) (lo hi : Fld) (v i k : Nat) : (s.set2 lo hi v i k).msix = s.msix := by simp [State.set2]
@[simp] theorem State.set2_upset (s : State) (lo hi : Fld) (v i k : Nat) : (s.set2 lo hi v i k).upset = s.upset := by simp [State.set2]
@[simp] theorem State.set2_cells (s : State) (lo hi : Fld) (v i k : Nat) : (s.set2 lo hi v i k).cells = s.cells := by simp [State.set2]
@[simp] theorem State.set2_fsk (s : State) (lo hi : Fld) (v i k : Nat) : (s.set2 lo hi v i k).fsk = s.fsk := by simp [State.set2]
@[simp] theorem State.set2_codecs (s : State) (lo hi : Fld) (v i k : Nat) : (s.set2 lo hi v i k).codecs = s.codecs := by simp [State.set2]
@[simp] theorem State.set2_fhq (s : State) (lo hi : Fld) (v i k : Nat) : (s.set2 lo hi v i k).fhq = s.fhq := by simp [State.set2]
@[simp] theorem State.set2_sjs (s : State) (lo hi : Fld) (v i k : Nat) : (s.set2 lo hi v i k).sjs = s.sjs := by simp [State.set2]
@[simp] theorem State.set2_beadUse (s : State) (lo hi : Fld) (v i k : Nat) : (s.set2 lo hi v i k).beadUse = s.beadUse := by simp [State.set2]
@[simp] theorem State.set2_beadStamp (s : State) (lo hi : Fld) (v i k : Nat) : (s.set2 lo hi v i k).beadStamp = s.beadStamp := by simp [State.set2]
@[simp] theorem State.set2_sent (s : State) (lo hi : Fld) (v i k : Nat) : (s.set2 lo hi v i k).sent = s.sent := by simp [State.set2]
@[simp] theorem State.set2_uids (s : State) (lo hi : Fld) (v i k : Nat) : (s.set2 lo hi v i k).uids = s.uids := by simp [State.set2]
@[simp] theorem State.set2_fab (s : State) (lo hi : Fld) (v i k : Nat) : (s.set2 lo hi v i k).fab = s.fab := by simp [State.set2]
@[simp] theorem State.set2_jr (s : State) (lo hi : Fld) (v i k : Nat) : (s.set2 lo hi v i k).jr = s.jr := by simp [State.set2]
@[simp] theorem State.set2_mbx (s : State) (lo hi : Fld) (v i k : Nat) : (s.set2 lo hi v i k).mbx = s.mbx := by simp [State.set2]
@[simp] theorem State.set2_arbs (s : State) (lo hi : Fld) (v i k : Nat) : (s.set2 lo hi v i k).arbs = s.arbs := by simp [State.set2]
@[simp] theorem State.set2_move (s : State) (lo hi : Fld) (v i k : Nat) : (s.set2 lo hi v i k).move = s.move := by simp [State.set2]
@[simp] theorem State.set2_scrub (s : State) (lo hi : Fld) (v i k : Nat) : (s.set2 lo hi v i k).scrub = s.scrub := by simp [State.set2]
@[simp] theorem State.set2_operatorKey (s : State) (lo hi : Fld) (v i k : Nat) : (s.set2 lo hi v i k).operatorKey = s.operatorKey := by simp [State.set2]
@[simp] theorem State.set2_vig (s : State) (lo hi : Fld) (v i k : Nat) : (s.set2 lo hi v i k).vig = s.vig := by simp [State.set2]
@[simp] theorem State.set2_pwrSw (s : State) (lo hi : Fld) (v i k : Nat) : (s.set2 lo hi v i k).pwrSw = s.pwrSw := by simp [State.set2]
@[simp] theorem State.set2_scrubMs (s : State) (lo hi : Fld) (v i k : Nat) : (s.set2 lo hi v i k).scrubMs = s.scrubMs := by simp [State.set2]
@[simp] theorem State.set2_latches (s : State) (lo hi : Fld) (v i k : Nat) : (s.set2 lo hi v i k).latches = s.latches := by simp [State.set2]
@[simp] theorem State.set2_smbOp (s : State) (lo hi : Fld) (v i k : Nat) : (s.set2 lo hi v i k).smbOp = s.smbOp := by simp [State.set2]
@[simp] theorem State.set2_cpFw (s : State) (lo hi : Fld) (v i k : Nat) : (s.set2 lo hi v i k).cpFw = s.cpFw := by simp [State.set2]
@[simp] theorem State.set2_fwResults (s : State) (lo hi : Fld) (v i k : Nat) : (s.set2 lo hi v i k).fwResults = s.fwResults := by simp [State.set2]
@[simp] theorem State.set2_fuses (s : State) (lo hi : Fld) (v i k : Nat) : (s.set2 lo hi v i k).fuses = s.fuses := by simp [State.set2]

@[simp] theorem rejectCfg_pending (s : State) (st : Nat) : (rejectCfg s st).pending = s.pending := wrReg_pending s _ _
@[simp] theorem rejectCfg_freeIdx (s : State) (st : Nat) : (rejectCfg s st).freeIdx = s.freeIdx := wrReg_freeIdx s _ _
@[simp] theorem rejectCfg_behaveReset (s : State) (st : Nat) : (rejectCfg s st).behaveReset = s.behaveReset := wrReg_behaveReset s _ _
@[simp] theorem rejectCfg_rdata (s : State) (st : Nat) : (rejectCfg s st).rdata = s.rdata := wrReg_rdata s _ _
@[simp] theorem rejectCfg_clk (s : State) (st : Nat) : (rejectCfg s st).clk = s.clk := wrReg_clk s _ _
@[simp] theorem rejectCfg_servo (s : State) (st : Nat) : (rejectCfg s st).servo = s.servo := wrReg_servo s _ _
@[simp] theorem rejectCfg_pulses (s : State) (st : Nat) : (rejectCfg s st).pulses = s.pulses := wrReg_pulses s _ _
@[simp] theorem rejectCfg_capt (s : State) (st : Nat) : (rejectCfg s st).capt = s.capt := wrReg_capt s _ _
@[simp] theorem rejectCfg_cal (s : State) (st : Nat) : (rejectCfg s st).cal = s.cal := wrReg_cal s _ _
@[simp] theorem rejectCfg_mems (s : State) (st : Nat) : (rejectCfg s st).mems = s.mems := wrReg_mems s _ _
@[simp] theorem rejectCfg_cores (s : State) (st : Nat) : (rejectCfg s st).cores = s.cores := wrReg_cores s _ _
@[simp] theorem rejectCfg_clTok (s : State) (st : Nat) : (rejectCfg s st).clTok = s.clTok := wrReg_clTok s _ _
@[simp] theorem rejectCfg_ctxs (s : State) (st : Nat) : (rejectCfg s st).ctxs = s.ctxs := wrReg_ctxs s _ _
@[simp] theorem rejectCfg_groups (s : State) (st : Nat) : (rejectCfg s st).groups = s.groups := wrReg_groups s _ _
@[simp] theorem rejectCfg_serial (s : State) (st : Nat) : (rejectCfg s st).serial = s.serial := wrReg_serial s _ _
@[simp] theorem rejectCfg_fns (s : State) (st : Nat) : (rejectCfg s st).fns = s.fns := wrReg_fns s _ _
@[simp] theorem rejectCfg_wins (s : State) (st : Nat) : (rejectCfg s st).wins = s.wins := wrReg_wins s _ _
@[simp] theorem rejectCfg_winPend (s : State) (st : Nat) : (rejectCfg s st).winPend = s.winPend := wrReg_winPend s _ _
@[simp] theorem rejectCfg_sealKey (s : State) (st : Nat) : (rejectCfg s st).sealKey = s.sealKey := wrReg_sealKey s _ _
@[simp] theorem rejectCfg_images (s : State) (st : Nat) : (rejectCfg s st).images = s.images := wrReg_images s _ _
@[simp] theorem rejectCfg_msix (s : State) (st : Nat) : (rejectCfg s st).msix = s.msix := wrReg_msix s _ _
@[simp] theorem rejectCfg_upset (s : State) (st : Nat) : (rejectCfg s st).upset = s.upset := wrReg_upset s _ _
@[simp] theorem rejectCfg_cells (s : State) (st : Nat) : (rejectCfg s st).cells = s.cells := wrReg_cells s _ _
@[simp] theorem rejectCfg_fsk (s : State) (st : Nat) : (rejectCfg s st).fsk = s.fsk := wrReg_fsk s _ _
@[simp] theorem rejectCfg_codecs (s : State) (st : Nat) : (rejectCfg s st).codecs = s.codecs := wrReg_codecs s _ _
@[simp] theorem rejectCfg_fhq (s : State) (st : Nat) : (rejectCfg s st).fhq = s.fhq := wrReg_fhq s _ _
@[simp] theorem rejectCfg_sjs (s : State) (st : Nat) : (rejectCfg s st).sjs = s.sjs := wrReg_sjs s _ _
@[simp] theorem rejectCfg_beadUse (s : State) (st : Nat) : (rejectCfg s st).beadUse = s.beadUse := wrReg_beadUse s _ _
@[simp] theorem rejectCfg_beadStamp (s : State) (st : Nat) : (rejectCfg s st).beadStamp = s.beadStamp := wrReg_beadStamp s _ _
@[simp] theorem rejectCfg_sent (s : State) (st : Nat) : (rejectCfg s st).sent = s.sent := wrReg_sent s _ _
@[simp] theorem rejectCfg_uids (s : State) (st : Nat) : (rejectCfg s st).uids = s.uids := wrReg_uids s _ _
@[simp] theorem rejectCfg_fab (s : State) (st : Nat) : (rejectCfg s st).fab = s.fab := wrReg_fab s _ _
@[simp] theorem rejectCfg_jr (s : State) (st : Nat) : (rejectCfg s st).jr = s.jr := wrReg_jr s _ _
@[simp] theorem rejectCfg_mbx (s : State) (st : Nat) : (rejectCfg s st).mbx = s.mbx := wrReg_mbx s _ _
@[simp] theorem rejectCfg_arbs (s : State) (st : Nat) : (rejectCfg s st).arbs = s.arbs := wrReg_arbs s _ _
@[simp] theorem rejectCfg_move (s : State) (st : Nat) : (rejectCfg s st).move = s.move := wrReg_move s _ _
@[simp] theorem rejectCfg_scrub (s : State) (st : Nat) : (rejectCfg s st).scrub = s.scrub := wrReg_scrub s _ _
@[simp] theorem rejectCfg_operatorKey (s : State) (st : Nat) : (rejectCfg s st).operatorKey = s.operatorKey := wrReg_operatorKey s _ _
@[simp] theorem rejectCfg_vig (s : State) (st : Nat) : (rejectCfg s st).vig = s.vig := wrReg_vig s _ _
@[simp] theorem rejectCfg_pwrSw (s : State) (st : Nat) : (rejectCfg s st).pwrSw = s.pwrSw := wrReg_pwrSw s _ _
@[simp] theorem rejectCfg_scrubMs (s : State) (st : Nat) : (rejectCfg s st).scrubMs = s.scrubMs := wrReg_scrubMs s _ _
@[simp] theorem rejectCfg_latches (s : State) (st : Nat) : (rejectCfg s st).latches = s.latches := wrReg_latches s _ _
@[simp] theorem rejectCfg_smbOp (s : State) (st : Nat) : (rejectCfg s st).smbOp = s.smbOp := wrReg_smbOp s _ _
@[simp] theorem rejectCfg_cpFw (s : State) (st : Nat) : (rejectCfg s st).cpFw = s.cpFw := wrReg_cpFw s _ _
@[simp] theorem rejectCfg_fwResults (s : State) (st : Nat) : (rejectCfg s st).fwResults = s.fwResults := wrReg_fwResults s _ _
@[simp] theorem rejectCfg_fuses (s : State) (st : Nat) : (rejectCfg s st).fuses = s.fuses := wrReg_fuses s _ _

@[simp] theorem setFnState_pending (s : State) (st v : Nat) : (setFnState s st v).pending = s.pending := wrReg_pending s _ _
@[simp] theorem setFnState_freeIdx (s : State) (st v : Nat) : (setFnState s st v).freeIdx = s.freeIdx := wrReg_freeIdx s _ _
@[simp] theorem setFnState_behaveReset (s : State) (st v : Nat) : (setFnState s st v).behaveReset = s.behaveReset := wrReg_behaveReset s _ _
@[simp] theorem setFnState_rdata (s : State) (st v : Nat) : (setFnState s st v).rdata = s.rdata := wrReg_rdata s _ _
@[simp] theorem setFnState_clk (s : State) (st v : Nat) : (setFnState s st v).clk = s.clk := wrReg_clk s _ _
@[simp] theorem setFnState_servo (s : State) (st v : Nat) : (setFnState s st v).servo = s.servo := wrReg_servo s _ _
@[simp] theorem setFnState_pulses (s : State) (st v : Nat) : (setFnState s st v).pulses = s.pulses := wrReg_pulses s _ _
@[simp] theorem setFnState_capt (s : State) (st v : Nat) : (setFnState s st v).capt = s.capt := wrReg_capt s _ _
@[simp] theorem setFnState_cal (s : State) (st v : Nat) : (setFnState s st v).cal = s.cal := wrReg_cal s _ _
@[simp] theorem setFnState_mems (s : State) (st v : Nat) : (setFnState s st v).mems = s.mems := wrReg_mems s _ _
@[simp] theorem setFnState_cores (s : State) (st v : Nat) : (setFnState s st v).cores = s.cores := wrReg_cores s _ _
@[simp] theorem setFnState_clTok (s : State) (st v : Nat) : (setFnState s st v).clTok = s.clTok := wrReg_clTok s _ _
@[simp] theorem setFnState_ctxs (s : State) (st v : Nat) : (setFnState s st v).ctxs = s.ctxs := wrReg_ctxs s _ _
@[simp] theorem setFnState_groups (s : State) (st v : Nat) : (setFnState s st v).groups = s.groups := wrReg_groups s _ _
@[simp] theorem setFnState_serial (s : State) (st v : Nat) : (setFnState s st v).serial = s.serial := wrReg_serial s _ _
@[simp] theorem setFnState_fns (s : State) (st v : Nat) : (setFnState s st v).fns = s.fns := wrReg_fns s _ _
@[simp] theorem setFnState_wins (s : State) (st v : Nat) : (setFnState s st v).wins = s.wins := wrReg_wins s _ _
@[simp] theorem setFnState_winPend (s : State) (st v : Nat) : (setFnState s st v).winPend = s.winPend := wrReg_winPend s _ _
@[simp] theorem setFnState_sealKey (s : State) (st v : Nat) : (setFnState s st v).sealKey = s.sealKey := wrReg_sealKey s _ _
@[simp] theorem setFnState_images (s : State) (st v : Nat) : (setFnState s st v).images = s.images := wrReg_images s _ _
@[simp] theorem setFnState_msix (s : State) (st v : Nat) : (setFnState s st v).msix = s.msix := wrReg_msix s _ _
@[simp] theorem setFnState_upset (s : State) (st v : Nat) : (setFnState s st v).upset = s.upset := wrReg_upset s _ _
@[simp] theorem setFnState_cells (s : State) (st v : Nat) : (setFnState s st v).cells = s.cells := wrReg_cells s _ _
@[simp] theorem setFnState_fsk (s : State) (st v : Nat) : (setFnState s st v).fsk = s.fsk := wrReg_fsk s _ _
@[simp] theorem setFnState_codecs (s : State) (st v : Nat) : (setFnState s st v).codecs = s.codecs := wrReg_codecs s _ _
@[simp] theorem setFnState_fhq (s : State) (st v : Nat) : (setFnState s st v).fhq = s.fhq := wrReg_fhq s _ _
@[simp] theorem setFnState_sjs (s : State) (st v : Nat) : (setFnState s st v).sjs = s.sjs := wrReg_sjs s _ _
@[simp] theorem setFnState_beadUse (s : State) (st v : Nat) : (setFnState s st v).beadUse = s.beadUse := wrReg_beadUse s _ _
@[simp] theorem setFnState_beadStamp (s : State) (st v : Nat) : (setFnState s st v).beadStamp = s.beadStamp := wrReg_beadStamp s _ _
@[simp] theorem setFnState_sent (s : State) (st v : Nat) : (setFnState s st v).sent = s.sent := wrReg_sent s _ _
@[simp] theorem setFnState_uids (s : State) (st v : Nat) : (setFnState s st v).uids = s.uids := wrReg_uids s _ _
@[simp] theorem setFnState_fab (s : State) (st v : Nat) : (setFnState s st v).fab = s.fab := wrReg_fab s _ _
@[simp] theorem setFnState_jr (s : State) (st v : Nat) : (setFnState s st v).jr = s.jr := wrReg_jr s _ _
@[simp] theorem setFnState_mbx (s : State) (st v : Nat) : (setFnState s st v).mbx = s.mbx := wrReg_mbx s _ _
@[simp] theorem setFnState_arbs (s : State) (st v : Nat) : (setFnState s st v).arbs = s.arbs := wrReg_arbs s _ _
@[simp] theorem setFnState_move (s : State) (st v : Nat) : (setFnState s st v).move = s.move := wrReg_move s _ _
@[simp] theorem setFnState_scrub (s : State) (st v : Nat) : (setFnState s st v).scrub = s.scrub := wrReg_scrub s _ _
@[simp] theorem setFnState_operatorKey (s : State) (st v : Nat) : (setFnState s st v).operatorKey = s.operatorKey := wrReg_operatorKey s _ _
@[simp] theorem setFnState_vig (s : State) (st v : Nat) : (setFnState s st v).vig = s.vig := wrReg_vig s _ _
@[simp] theorem setFnState_pwrSw (s : State) (st v : Nat) : (setFnState s st v).pwrSw = s.pwrSw := wrReg_pwrSw s _ _
@[simp] theorem setFnState_scrubMs (s : State) (st v : Nat) : (setFnState s st v).scrubMs = s.scrubMs := wrReg_scrubMs s _ _
@[simp] theorem setFnState_latches (s : State) (st v : Nat) : (setFnState s st v).latches = s.latches := wrReg_latches s _ _
@[simp] theorem setFnState_smbOp (s : State) (st v : Nat) : (setFnState s st v).smbOp = s.smbOp := wrReg_smbOp s _ _
@[simp] theorem setFnState_cpFw (s : State) (st v : Nat) : (setFnState s st v).cpFw = s.cpFw := wrReg_cpFw s _ _
@[simp] theorem setFnState_fwResults (s : State) (st v : Nat) : (setFnState s st v).fwResults = s.fwResults := wrReg_fwResults s _ _
@[simp] theorem setFnState_fuses (s : State) (st v : Nat) : (setFnState s st v).fuses = s.fuses := wrReg_fuses s _ _

@[simp] theorem setFnCode_pending (s : State) (st c : Nat) : (setFnCode s st c).pending = s.pending := wrReg_pending s _ _
@[simp] theorem setFnCode_freeIdx (s : State) (st c : Nat) : (setFnCode s st c).freeIdx = s.freeIdx := wrReg_freeIdx s _ _
@[simp] theorem setFnCode_behaveReset (s : State) (st c : Nat) : (setFnCode s st c).behaveReset = s.behaveReset := wrReg_behaveReset s _ _
@[simp] theorem setFnCode_rdata (s : State) (st c : Nat) : (setFnCode s st c).rdata = s.rdata := wrReg_rdata s _ _
@[simp] theorem setFnCode_clk (s : State) (st c : Nat) : (setFnCode s st c).clk = s.clk := wrReg_clk s _ _
@[simp] theorem setFnCode_servo (s : State) (st c : Nat) : (setFnCode s st c).servo = s.servo := wrReg_servo s _ _
@[simp] theorem setFnCode_pulses (s : State) (st c : Nat) : (setFnCode s st c).pulses = s.pulses := wrReg_pulses s _ _
@[simp] theorem setFnCode_capt (s : State) (st c : Nat) : (setFnCode s st c).capt = s.capt := wrReg_capt s _ _
@[simp] theorem setFnCode_cal (s : State) (st c : Nat) : (setFnCode s st c).cal = s.cal := wrReg_cal s _ _
@[simp] theorem setFnCode_mems (s : State) (st c : Nat) : (setFnCode s st c).mems = s.mems := wrReg_mems s _ _
@[simp] theorem setFnCode_cores (s : State) (st c : Nat) : (setFnCode s st c).cores = s.cores := wrReg_cores s _ _
@[simp] theorem setFnCode_clTok (s : State) (st c : Nat) : (setFnCode s st c).clTok = s.clTok := wrReg_clTok s _ _
@[simp] theorem setFnCode_ctxs (s : State) (st c : Nat) : (setFnCode s st c).ctxs = s.ctxs := wrReg_ctxs s _ _
@[simp] theorem setFnCode_groups (s : State) (st c : Nat) : (setFnCode s st c).groups = s.groups := wrReg_groups s _ _
@[simp] theorem setFnCode_serial (s : State) (st c : Nat) : (setFnCode s st c).serial = s.serial := wrReg_serial s _ _
@[simp] theorem setFnCode_fns (s : State) (st c : Nat) : (setFnCode s st c).fns = s.fns := wrReg_fns s _ _
@[simp] theorem setFnCode_wins (s : State) (st c : Nat) : (setFnCode s st c).wins = s.wins := wrReg_wins s _ _
@[simp] theorem setFnCode_winPend (s : State) (st c : Nat) : (setFnCode s st c).winPend = s.winPend := wrReg_winPend s _ _
@[simp] theorem setFnCode_sealKey (s : State) (st c : Nat) : (setFnCode s st c).sealKey = s.sealKey := wrReg_sealKey s _ _
@[simp] theorem setFnCode_images (s : State) (st c : Nat) : (setFnCode s st c).images = s.images := wrReg_images s _ _
@[simp] theorem setFnCode_msix (s : State) (st c : Nat) : (setFnCode s st c).msix = s.msix := wrReg_msix s _ _
@[simp] theorem setFnCode_upset (s : State) (st c : Nat) : (setFnCode s st c).upset = s.upset := wrReg_upset s _ _
@[simp] theorem setFnCode_cells (s : State) (st c : Nat) : (setFnCode s st c).cells = s.cells := wrReg_cells s _ _
@[simp] theorem setFnCode_fsk (s : State) (st c : Nat) : (setFnCode s st c).fsk = s.fsk := wrReg_fsk s _ _
@[simp] theorem setFnCode_codecs (s : State) (st c : Nat) : (setFnCode s st c).codecs = s.codecs := wrReg_codecs s _ _
@[simp] theorem setFnCode_fhq (s : State) (st c : Nat) : (setFnCode s st c).fhq = s.fhq := wrReg_fhq s _ _
@[simp] theorem setFnCode_sjs (s : State) (st c : Nat) : (setFnCode s st c).sjs = s.sjs := wrReg_sjs s _ _
@[simp] theorem setFnCode_beadUse (s : State) (st c : Nat) : (setFnCode s st c).beadUse = s.beadUse := wrReg_beadUse s _ _
@[simp] theorem setFnCode_beadStamp (s : State) (st c : Nat) : (setFnCode s st c).beadStamp = s.beadStamp := wrReg_beadStamp s _ _
@[simp] theorem setFnCode_sent (s : State) (st c : Nat) : (setFnCode s st c).sent = s.sent := wrReg_sent s _ _
@[simp] theorem setFnCode_uids (s : State) (st c : Nat) : (setFnCode s st c).uids = s.uids := wrReg_uids s _ _
@[simp] theorem setFnCode_fab (s : State) (st c : Nat) : (setFnCode s st c).fab = s.fab := wrReg_fab s _ _
@[simp] theorem setFnCode_jr (s : State) (st c : Nat) : (setFnCode s st c).jr = s.jr := wrReg_jr s _ _
@[simp] theorem setFnCode_mbx (s : State) (st c : Nat) : (setFnCode s st c).mbx = s.mbx := wrReg_mbx s _ _
@[simp] theorem setFnCode_arbs (s : State) (st c : Nat) : (setFnCode s st c).arbs = s.arbs := wrReg_arbs s _ _
@[simp] theorem setFnCode_move (s : State) (st c : Nat) : (setFnCode s st c).move = s.move := wrReg_move s _ _
@[simp] theorem setFnCode_scrub (s : State) (st c : Nat) : (setFnCode s st c).scrub = s.scrub := wrReg_scrub s _ _
@[simp] theorem setFnCode_operatorKey (s : State) (st c : Nat) : (setFnCode s st c).operatorKey = s.operatorKey := wrReg_operatorKey s _ _
@[simp] theorem setFnCode_vig (s : State) (st c : Nat) : (setFnCode s st c).vig = s.vig := wrReg_vig s _ _
@[simp] theorem setFnCode_pwrSw (s : State) (st c : Nat) : (setFnCode s st c).pwrSw = s.pwrSw := wrReg_pwrSw s _ _
@[simp] theorem setFnCode_scrubMs (s : State) (st c : Nat) : (setFnCode s st c).scrubMs = s.scrubMs := wrReg_scrubMs s _ _
@[simp] theorem setFnCode_latches (s : State) (st c : Nat) : (setFnCode s st c).latches = s.latches := wrReg_latches s _ _
@[simp] theorem setFnCode_smbOp (s : State) (st c : Nat) : (setFnCode s st c).smbOp = s.smbOp := wrReg_smbOp s _ _
@[simp] theorem setFnCode_cpFw (s : State) (st c : Nat) : (setFnCode s st c).cpFw = s.cpFw := wrReg_cpFw s _ _
@[simp] theorem setFnCode_fwResults (s : State) (st c : Nat) : (setFnCode s st c).fwResults = s.fwResults := wrReg_fwResults s _ _
@[simp] theorem setFnCode_fuses (s : State) (st c : Nat) : (setFnCode s st c).fuses = s.fuses := wrReg_fuses s _ _

@[simp] theorem faultFn_pending (s : State) (st c : Nat) : (faultFn s st c).pending = s.pending := by simp [faultFn]
@[simp] theorem faultFn_freeIdx (s : State) (st c : Nat) : (faultFn s st c).freeIdx = s.freeIdx := by simp [faultFn]
@[simp] theorem faultFn_behaveReset (s : State) (st c : Nat) : (faultFn s st c).behaveReset = s.behaveReset := by simp [faultFn]
@[simp] theorem faultFn_rdata (s : State) (st c : Nat) : (faultFn s st c).rdata = s.rdata := by simp [faultFn]
@[simp] theorem faultFn_clk (s : State) (st c : Nat) : (faultFn s st c).clk = s.clk := by simp [faultFn]
@[simp] theorem faultFn_servo (s : State) (st c : Nat) : (faultFn s st c).servo = s.servo := by simp [faultFn]
@[simp] theorem faultFn_pulses (s : State) (st c : Nat) : (faultFn s st c).pulses = s.pulses := by simp [faultFn]
@[simp] theorem faultFn_capt (s : State) (st c : Nat) : (faultFn s st c).capt = s.capt := by simp [faultFn]
@[simp] theorem faultFn_cal (s : State) (st c : Nat) : (faultFn s st c).cal = s.cal := by simp [faultFn]
@[simp] theorem faultFn_mems (s : State) (st c : Nat) : (faultFn s st c).mems = s.mems := by simp [faultFn]
@[simp] theorem faultFn_cores (s : State) (st c : Nat) : (faultFn s st c).cores = s.cores := by simp [faultFn]
@[simp] theorem faultFn_clTok (s : State) (st c : Nat) : (faultFn s st c).clTok = s.clTok := by simp [faultFn]
@[simp] theorem faultFn_ctxs (s : State) (st c : Nat) : (faultFn s st c).ctxs = s.ctxs := by simp [faultFn]
@[simp] theorem faultFn_groups (s : State) (st c : Nat) : (faultFn s st c).groups = s.groups := by simp [faultFn]
@[simp] theorem faultFn_serial (s : State) (st c : Nat) : (faultFn s st c).serial = s.serial := by simp [faultFn]
@[simp] theorem faultFn_fns (s : State) (st c : Nat) : (faultFn s st c).fns = s.fns := by simp [faultFn]
@[simp] theorem faultFn_wins (s : State) (st c : Nat) : (faultFn s st c).wins = s.wins := by simp [faultFn]
@[simp] theorem faultFn_winPend (s : State) (st c : Nat) : (faultFn s st c).winPend = s.winPend := by simp [faultFn]
@[simp] theorem faultFn_sealKey (s : State) (st c : Nat) : (faultFn s st c).sealKey = s.sealKey := by simp [faultFn]
@[simp] theorem faultFn_images (s : State) (st c : Nat) : (faultFn s st c).images = s.images := by simp [faultFn]
@[simp] theorem faultFn_msix (s : State) (st c : Nat) : (faultFn s st c).msix = s.msix := by simp [faultFn]
@[simp] theorem faultFn_upset (s : State) (st c : Nat) : (faultFn s st c).upset = s.upset := by simp [faultFn]
@[simp] theorem faultFn_cells (s : State) (st c : Nat) : (faultFn s st c).cells = s.cells := by simp [faultFn]
@[simp] theorem faultFn_fsk (s : State) (st c : Nat) : (faultFn s st c).fsk = s.fsk := by simp [faultFn]
@[simp] theorem faultFn_codecs (s : State) (st c : Nat) : (faultFn s st c).codecs = s.codecs := by simp [faultFn]
@[simp] theorem faultFn_fhq (s : State) (st c : Nat) : (faultFn s st c).fhq = s.fhq := by simp [faultFn]
@[simp] theorem faultFn_sjs (s : State) (st c : Nat) : (faultFn s st c).sjs = s.sjs := by simp [faultFn]
@[simp] theorem faultFn_beadUse (s : State) (st c : Nat) : (faultFn s st c).beadUse = s.beadUse := by simp [faultFn]
@[simp] theorem faultFn_beadStamp (s : State) (st c : Nat) : (faultFn s st c).beadStamp = s.beadStamp := by simp [faultFn]
@[simp] theorem faultFn_sent (s : State) (st c : Nat) : (faultFn s st c).sent = s.sent := by simp [faultFn]
@[simp] theorem faultFn_uids (s : State) (st c : Nat) : (faultFn s st c).uids = s.uids := by simp [faultFn]
@[simp] theorem faultFn_fab (s : State) (st c : Nat) : (faultFn s st c).fab = s.fab := by simp [faultFn]
@[simp] theorem faultFn_jr (s : State) (st c : Nat) : (faultFn s st c).jr = s.jr := by simp [faultFn]
@[simp] theorem faultFn_mbx (s : State) (st c : Nat) : (faultFn s st c).mbx = s.mbx := by simp [faultFn]
@[simp] theorem faultFn_arbs (s : State) (st c : Nat) : (faultFn s st c).arbs = s.arbs := by simp [faultFn]
@[simp] theorem faultFn_move (s : State) (st c : Nat) : (faultFn s st c).move = s.move := by simp [faultFn]
@[simp] theorem faultFn_scrub (s : State) (st c : Nat) : (faultFn s st c).scrub = s.scrub := by simp [faultFn]
@[simp] theorem faultFn_operatorKey (s : State) (st c : Nat) : (faultFn s st c).operatorKey = s.operatorKey := by simp [faultFn]
@[simp] theorem faultFn_vig (s : State) (st c : Nat) : (faultFn s st c).vig = s.vig := by simp [faultFn]
@[simp] theorem faultFn_pwrSw (s : State) (st c : Nat) : (faultFn s st c).pwrSw = s.pwrSw := by simp [faultFn]
@[simp] theorem faultFn_scrubMs (s : State) (st c : Nat) : (faultFn s st c).scrubMs = s.scrubMs := by simp [faultFn]
@[simp] theorem faultFn_latches (s : State) (st c : Nat) : (faultFn s st c).latches = s.latches := by simp [faultFn]
@[simp] theorem faultFn_smbOp (s : State) (st c : Nat) : (faultFn s st c).smbOp = s.smbOp := by simp [faultFn]
@[simp] theorem faultFn_cpFw (s : State) (st c : Nat) : (faultFn s st c).cpFw = s.cpFw := by simp [faultFn]
@[simp] theorem faultFn_fwResults (s : State) (st c : Nat) : (faultFn s st c).fwResults = s.fwResults := by simp [faultFn]
@[simp] theorem faultFn_fuses (s : State) (st c : Nat) : (faultFn s st c).fuses = s.fuses := by simp [faultFn]

@[simp] theorem setCore_pending (s : State) (n : Nat) (x : Core) : (setCore s n x).pending = s.pending := by unfold setCore; rfl
@[simp] theorem setCore_freeIdx (s : State) (n : Nat) (x : Core) : (setCore s n x).freeIdx = s.freeIdx := by unfold setCore; rfl
@[simp] theorem setCore_regs (s : State) (n : Nat) (x : Core) : (setCore s n x).regs = s.regs := by unfold setCore; rfl
@[simp] theorem setCore_behaveReset (s : State) (n : Nat) (x : Core) : (setCore s n x).behaveReset = s.behaveReset := by unfold setCore; rfl
@[simp] theorem setCore_rdata (s : State) (n : Nat) (x : Core) : (setCore s n x).rdata = s.rdata := by unfold setCore; rfl
@[simp] theorem setCore_clk (s : State) (n : Nat) (x : Core) : (setCore s n x).clk = s.clk := by unfold setCore; rfl
@[simp] theorem setCore_servo (s : State) (n : Nat) (x : Core) : (setCore s n x).servo = s.servo := by unfold setCore; rfl
@[simp] theorem setCore_pulses (s : State) (n : Nat) (x : Core) : (setCore s n x).pulses = s.pulses := by unfold setCore; rfl
@[simp] theorem setCore_capt (s : State) (n : Nat) (x : Core) : (setCore s n x).capt = s.capt := by unfold setCore; rfl
@[simp] theorem setCore_cal (s : State) (n : Nat) (x : Core) : (setCore s n x).cal = s.cal := by unfold setCore; rfl
@[simp] theorem setCore_mems (s : State) (n : Nat) (x : Core) : (setCore s n x).mems = s.mems := by unfold setCore; rfl
@[simp] theorem setCore_clTok (s : State) (n : Nat) (x : Core) : (setCore s n x).clTok = s.clTok := by unfold setCore; rfl
@[simp] theorem setCore_ctxs (s : State) (n : Nat) (x : Core) : (setCore s n x).ctxs = s.ctxs := by unfold setCore; rfl
@[simp] theorem setCore_groups (s : State) (n : Nat) (x : Core) : (setCore s n x).groups = s.groups := by unfold setCore; rfl
@[simp] theorem setCore_serial (s : State) (n : Nat) (x : Core) : (setCore s n x).serial = s.serial := by unfold setCore; rfl
@[simp] theorem setCore_fns (s : State) (n : Nat) (x : Core) : (setCore s n x).fns = s.fns := by unfold setCore; rfl
@[simp] theorem setCore_wins (s : State) (n : Nat) (x : Core) : (setCore s n x).wins = s.wins := by unfold setCore; rfl
@[simp] theorem setCore_winPend (s : State) (n : Nat) (x : Core) : (setCore s n x).winPend = s.winPend := by unfold setCore; rfl
@[simp] theorem setCore_sealKey (s : State) (n : Nat) (x : Core) : (setCore s n x).sealKey = s.sealKey := by unfold setCore; rfl
@[simp] theorem setCore_images (s : State) (n : Nat) (x : Core) : (setCore s n x).images = s.images := by unfold setCore; rfl
@[simp] theorem setCore_msix (s : State) (n : Nat) (x : Core) : (setCore s n x).msix = s.msix := by unfold setCore; rfl
@[simp] theorem setCore_upset (s : State) (n : Nat) (x : Core) : (setCore s n x).upset = s.upset := by unfold setCore; rfl
@[simp] theorem setCore_cells (s : State) (n : Nat) (x : Core) : (setCore s n x).cells = s.cells := by unfold setCore; rfl
@[simp] theorem setCore_fsk (s : State) (n : Nat) (x : Core) : (setCore s n x).fsk = s.fsk := by unfold setCore; rfl
@[simp] theorem setCore_codecs (s : State) (n : Nat) (x : Core) : (setCore s n x).codecs = s.codecs := by unfold setCore; rfl
@[simp] theorem setCore_fhq (s : State) (n : Nat) (x : Core) : (setCore s n x).fhq = s.fhq := by unfold setCore; rfl
@[simp] theorem setCore_sjs (s : State) (n : Nat) (x : Core) : (setCore s n x).sjs = s.sjs := by unfold setCore; rfl
@[simp] theorem setCore_beadUse (s : State) (n : Nat) (x : Core) : (setCore s n x).beadUse = s.beadUse := by unfold setCore; rfl
@[simp] theorem setCore_beadStamp (s : State) (n : Nat) (x : Core) : (setCore s n x).beadStamp = s.beadStamp := by unfold setCore; rfl
@[simp] theorem setCore_sent (s : State) (n : Nat) (x : Core) : (setCore s n x).sent = s.sent := by unfold setCore; rfl
@[simp] theorem setCore_uids (s : State) (n : Nat) (x : Core) : (setCore s n x).uids = s.uids := by unfold setCore; rfl
@[simp] theorem setCore_fab (s : State) (n : Nat) (x : Core) : (setCore s n x).fab = s.fab := by unfold setCore; rfl
@[simp] theorem setCore_jr (s : State) (n : Nat) (x : Core) : (setCore s n x).jr = s.jr := by unfold setCore; rfl
@[simp] theorem setCore_mbx (s : State) (n : Nat) (x : Core) : (setCore s n x).mbx = s.mbx := by unfold setCore; rfl
@[simp] theorem setCore_arbs (s : State) (n : Nat) (x : Core) : (setCore s n x).arbs = s.arbs := by unfold setCore; rfl
@[simp] theorem setCore_move (s : State) (n : Nat) (x : Core) : (setCore s n x).move = s.move := by unfold setCore; rfl
@[simp] theorem setCore_scrub (s : State) (n : Nat) (x : Core) : (setCore s n x).scrub = s.scrub := by unfold setCore; rfl
@[simp] theorem setCore_operatorKey (s : State) (n : Nat) (x : Core) : (setCore s n x).operatorKey = s.operatorKey := by unfold setCore; rfl
@[simp] theorem setCore_vig (s : State) (n : Nat) (x : Core) : (setCore s n x).vig = s.vig := by unfold setCore; rfl
@[simp] theorem setCore_pwrSw (s : State) (n : Nat) (x : Core) : (setCore s n x).pwrSw = s.pwrSw := by unfold setCore; rfl
@[simp] theorem setCore_scrubMs (s : State) (n : Nat) (x : Core) : (setCore s n x).scrubMs = s.scrubMs := by unfold setCore; rfl
@[simp] theorem setCore_latches (s : State) (n : Nat) (x : Core) : (setCore s n x).latches = s.latches := by unfold setCore; rfl
@[simp] theorem setCore_smbOp (s : State) (n : Nat) (x : Core) : (setCore s n x).smbOp = s.smbOp := by unfold setCore; rfl
@[simp] theorem setCore_cpFw (s : State) (n : Nat) (x : Core) : (setCore s n x).cpFw = s.cpFw := by unfold setCore; rfl
@[simp] theorem setCore_fwResults (s : State) (n : Nat) (x : Core) : (setCore s n x).fwResults = s.fwResults := by unfold setCore; rfl
@[simp] theorem setCore_fuses (s : State) (n : Nat) (x : Core) : (setCore s n x).fuses = s.fuses := by unfold setCore; rfl

@[simp] theorem setCtx_pending (s : State) (n : Nat) (x : Ctx) : (setCtx s n x).pending = s.pending := by unfold setCtx; rfl
@[simp] theorem setCtx_freeIdx (s : State) (n : Nat) (x : Ctx) : (setCtx s n x).freeIdx = s.freeIdx := by unfold setCtx; rfl
@[simp] theorem setCtx_regs (s : State) (n : Nat) (x : Ctx) : (setCtx s n x).regs = s.regs := by unfold setCtx; rfl
@[simp] theorem setCtx_behaveReset (s : State) (n : Nat) (x : Ctx) : (setCtx s n x).behaveReset = s.behaveReset := by unfold setCtx; rfl
@[simp] theorem setCtx_rdata (s : State) (n : Nat) (x : Ctx) : (setCtx s n x).rdata = s.rdata := by unfold setCtx; rfl
@[simp] theorem setCtx_clk (s : State) (n : Nat) (x : Ctx) : (setCtx s n x).clk = s.clk := by unfold setCtx; rfl
@[simp] theorem setCtx_servo (s : State) (n : Nat) (x : Ctx) : (setCtx s n x).servo = s.servo := by unfold setCtx; rfl
@[simp] theorem setCtx_pulses (s : State) (n : Nat) (x : Ctx) : (setCtx s n x).pulses = s.pulses := by unfold setCtx; rfl
@[simp] theorem setCtx_capt (s : State) (n : Nat) (x : Ctx) : (setCtx s n x).capt = s.capt := by unfold setCtx; rfl
@[simp] theorem setCtx_cal (s : State) (n : Nat) (x : Ctx) : (setCtx s n x).cal = s.cal := by unfold setCtx; rfl
@[simp] theorem setCtx_mems (s : State) (n : Nat) (x : Ctx) : (setCtx s n x).mems = s.mems := by unfold setCtx; rfl
@[simp] theorem setCtx_cores (s : State) (n : Nat) (x : Ctx) : (setCtx s n x).cores = s.cores := by unfold setCtx; rfl
@[simp] theorem setCtx_clTok (s : State) (n : Nat) (x : Ctx) : (setCtx s n x).clTok = s.clTok := by unfold setCtx; rfl
@[simp] theorem setCtx_groups (s : State) (n : Nat) (x : Ctx) : (setCtx s n x).groups = s.groups := by unfold setCtx; rfl
@[simp] theorem setCtx_serial (s : State) (n : Nat) (x : Ctx) : (setCtx s n x).serial = s.serial := by unfold setCtx; rfl
@[simp] theorem setCtx_fns (s : State) (n : Nat) (x : Ctx) : (setCtx s n x).fns = s.fns := by unfold setCtx; rfl
@[simp] theorem setCtx_wins (s : State) (n : Nat) (x : Ctx) : (setCtx s n x).wins = s.wins := by unfold setCtx; rfl
@[simp] theorem setCtx_winPend (s : State) (n : Nat) (x : Ctx) : (setCtx s n x).winPend = s.winPend := by unfold setCtx; rfl
@[simp] theorem setCtx_sealKey (s : State) (n : Nat) (x : Ctx) : (setCtx s n x).sealKey = s.sealKey := by unfold setCtx; rfl
@[simp] theorem setCtx_images (s : State) (n : Nat) (x : Ctx) : (setCtx s n x).images = s.images := by unfold setCtx; rfl
@[simp] theorem setCtx_msix (s : State) (n : Nat) (x : Ctx) : (setCtx s n x).msix = s.msix := by unfold setCtx; rfl
@[simp] theorem setCtx_upset (s : State) (n : Nat) (x : Ctx) : (setCtx s n x).upset = s.upset := by unfold setCtx; rfl
@[simp] theorem setCtx_cells (s : State) (n : Nat) (x : Ctx) : (setCtx s n x).cells = s.cells := by unfold setCtx; rfl
@[simp] theorem setCtx_fsk (s : State) (n : Nat) (x : Ctx) : (setCtx s n x).fsk = s.fsk := by unfold setCtx; rfl
@[simp] theorem setCtx_codecs (s : State) (n : Nat) (x : Ctx) : (setCtx s n x).codecs = s.codecs := by unfold setCtx; rfl
@[simp] theorem setCtx_fhq (s : State) (n : Nat) (x : Ctx) : (setCtx s n x).fhq = s.fhq := by unfold setCtx; rfl
@[simp] theorem setCtx_sjs (s : State) (n : Nat) (x : Ctx) : (setCtx s n x).sjs = s.sjs := by unfold setCtx; rfl
@[simp] theorem setCtx_beadUse (s : State) (n : Nat) (x : Ctx) : (setCtx s n x).beadUse = s.beadUse := by unfold setCtx; rfl
@[simp] theorem setCtx_beadStamp (s : State) (n : Nat) (x : Ctx) : (setCtx s n x).beadStamp = s.beadStamp := by unfold setCtx; rfl
@[simp] theorem setCtx_sent (s : State) (n : Nat) (x : Ctx) : (setCtx s n x).sent = s.sent := by unfold setCtx; rfl
@[simp] theorem setCtx_uids (s : State) (n : Nat) (x : Ctx) : (setCtx s n x).uids = s.uids := by unfold setCtx; rfl
@[simp] theorem setCtx_fab (s : State) (n : Nat) (x : Ctx) : (setCtx s n x).fab = s.fab := by unfold setCtx; rfl
@[simp] theorem setCtx_jr (s : State) (n : Nat) (x : Ctx) : (setCtx s n x).jr = s.jr := by unfold setCtx; rfl
@[simp] theorem setCtx_mbx (s : State) (n : Nat) (x : Ctx) : (setCtx s n x).mbx = s.mbx := by unfold setCtx; rfl
@[simp] theorem setCtx_arbs (s : State) (n : Nat) (x : Ctx) : (setCtx s n x).arbs = s.arbs := by unfold setCtx; rfl
@[simp] theorem setCtx_move (s : State) (n : Nat) (x : Ctx) : (setCtx s n x).move = s.move := by unfold setCtx; rfl
@[simp] theorem setCtx_scrub (s : State) (n : Nat) (x : Ctx) : (setCtx s n x).scrub = s.scrub := by unfold setCtx; rfl
@[simp] theorem setCtx_operatorKey (s : State) (n : Nat) (x : Ctx) : (setCtx s n x).operatorKey = s.operatorKey := by unfold setCtx; rfl
@[simp] theorem setCtx_vig (s : State) (n : Nat) (x : Ctx) : (setCtx s n x).vig = s.vig := by unfold setCtx; rfl
@[simp] theorem setCtx_pwrSw (s : State) (n : Nat) (x : Ctx) : (setCtx s n x).pwrSw = s.pwrSw := by unfold setCtx; rfl
@[simp] theorem setCtx_scrubMs (s : State) (n : Nat) (x : Ctx) : (setCtx s n x).scrubMs = s.scrubMs := by unfold setCtx; rfl
@[simp] theorem setCtx_latches (s : State) (n : Nat) (x : Ctx) : (setCtx s n x).latches = s.latches := by unfold setCtx; rfl
@[simp] theorem setCtx_smbOp (s : State) (n : Nat) (x : Ctx) : (setCtx s n x).smbOp = s.smbOp := by unfold setCtx; rfl
@[simp] theorem setCtx_cpFw (s : State) (n : Nat) (x : Ctx) : (setCtx s n x).cpFw = s.cpFw := by unfold setCtx; rfl
@[simp] theorem setCtx_fwResults (s : State) (n : Nat) (x : Ctx) : (setCtx s n x).fwResults = s.fwResults := by unfold setCtx; rfl
@[simp] theorem setCtx_fuses (s : State) (n : Nat) (x : Ctx) : (setCtx s n x).fuses = s.fuses := by unfold setCtx; rfl

@[simp] theorem setGroup_pending (s : State) (n : Nat) (x : Group) : (setGroup s n x).pending = s.pending := by unfold setGroup; rfl
@[simp] theorem setGroup_freeIdx (s : State) (n : Nat) (x : Group) : (setGroup s n x).freeIdx = s.freeIdx := by unfold setGroup; rfl
@[simp] theorem setGroup_regs (s : State) (n : Nat) (x : Group) : (setGroup s n x).regs = s.regs := by unfold setGroup; rfl
@[simp] theorem setGroup_behaveReset (s : State) (n : Nat) (x : Group) : (setGroup s n x).behaveReset = s.behaveReset := by unfold setGroup; rfl
@[simp] theorem setGroup_rdata (s : State) (n : Nat) (x : Group) : (setGroup s n x).rdata = s.rdata := by unfold setGroup; rfl
@[simp] theorem setGroup_clk (s : State) (n : Nat) (x : Group) : (setGroup s n x).clk = s.clk := by unfold setGroup; rfl
@[simp] theorem setGroup_servo (s : State) (n : Nat) (x : Group) : (setGroup s n x).servo = s.servo := by unfold setGroup; rfl
@[simp] theorem setGroup_pulses (s : State) (n : Nat) (x : Group) : (setGroup s n x).pulses = s.pulses := by unfold setGroup; rfl
@[simp] theorem setGroup_capt (s : State) (n : Nat) (x : Group) : (setGroup s n x).capt = s.capt := by unfold setGroup; rfl
@[simp] theorem setGroup_cal (s : State) (n : Nat) (x : Group) : (setGroup s n x).cal = s.cal := by unfold setGroup; rfl
@[simp] theorem setGroup_mems (s : State) (n : Nat) (x : Group) : (setGroup s n x).mems = s.mems := by unfold setGroup; rfl
@[simp] theorem setGroup_cores (s : State) (n : Nat) (x : Group) : (setGroup s n x).cores = s.cores := by unfold setGroup; rfl
@[simp] theorem setGroup_clTok (s : State) (n : Nat) (x : Group) : (setGroup s n x).clTok = s.clTok := by unfold setGroup; rfl
@[simp] theorem setGroup_ctxs (s : State) (n : Nat) (x : Group) : (setGroup s n x).ctxs = s.ctxs := by unfold setGroup; rfl
@[simp] theorem setGroup_serial (s : State) (n : Nat) (x : Group) : (setGroup s n x).serial = s.serial := by unfold setGroup; rfl
@[simp] theorem setGroup_fns (s : State) (n : Nat) (x : Group) : (setGroup s n x).fns = s.fns := by unfold setGroup; rfl
@[simp] theorem setGroup_wins (s : State) (n : Nat) (x : Group) : (setGroup s n x).wins = s.wins := by unfold setGroup; rfl
@[simp] theorem setGroup_winPend (s : State) (n : Nat) (x : Group) : (setGroup s n x).winPend = s.winPend := by unfold setGroup; rfl
@[simp] theorem setGroup_sealKey (s : State) (n : Nat) (x : Group) : (setGroup s n x).sealKey = s.sealKey := by unfold setGroup; rfl
@[simp] theorem setGroup_images (s : State) (n : Nat) (x : Group) : (setGroup s n x).images = s.images := by unfold setGroup; rfl
@[simp] theorem setGroup_msix (s : State) (n : Nat) (x : Group) : (setGroup s n x).msix = s.msix := by unfold setGroup; rfl
@[simp] theorem setGroup_upset (s : State) (n : Nat) (x : Group) : (setGroup s n x).upset = s.upset := by unfold setGroup; rfl
@[simp] theorem setGroup_cells (s : State) (n : Nat) (x : Group) : (setGroup s n x).cells = s.cells := by unfold setGroup; rfl
@[simp] theorem setGroup_fsk (s : State) (n : Nat) (x : Group) : (setGroup s n x).fsk = s.fsk := by unfold setGroup; rfl
@[simp] theorem setGroup_codecs (s : State) (n : Nat) (x : Group) : (setGroup s n x).codecs = s.codecs := by unfold setGroup; rfl
@[simp] theorem setGroup_fhq (s : State) (n : Nat) (x : Group) : (setGroup s n x).fhq = s.fhq := by unfold setGroup; rfl
@[simp] theorem setGroup_sjs (s : State) (n : Nat) (x : Group) : (setGroup s n x).sjs = s.sjs := by unfold setGroup; rfl
@[simp] theorem setGroup_beadUse (s : State) (n : Nat) (x : Group) : (setGroup s n x).beadUse = s.beadUse := by unfold setGroup; rfl
@[simp] theorem setGroup_beadStamp (s : State) (n : Nat) (x : Group) : (setGroup s n x).beadStamp = s.beadStamp := by unfold setGroup; rfl
@[simp] theorem setGroup_sent (s : State) (n : Nat) (x : Group) : (setGroup s n x).sent = s.sent := by unfold setGroup; rfl
@[simp] theorem setGroup_uids (s : State) (n : Nat) (x : Group) : (setGroup s n x).uids = s.uids := by unfold setGroup; rfl
@[simp] theorem setGroup_fab (s : State) (n : Nat) (x : Group) : (setGroup s n x).fab = s.fab := by unfold setGroup; rfl
@[simp] theorem setGroup_jr (s : State) (n : Nat) (x : Group) : (setGroup s n x).jr = s.jr := by unfold setGroup; rfl
@[simp] theorem setGroup_mbx (s : State) (n : Nat) (x : Group) : (setGroup s n x).mbx = s.mbx := by unfold setGroup; rfl
@[simp] theorem setGroup_arbs (s : State) (n : Nat) (x : Group) : (setGroup s n x).arbs = s.arbs := by unfold setGroup; rfl
@[simp] theorem setGroup_move (s : State) (n : Nat) (x : Group) : (setGroup s n x).move = s.move := by unfold setGroup; rfl
@[simp] theorem setGroup_scrub (s : State) (n : Nat) (x : Group) : (setGroup s n x).scrub = s.scrub := by unfold setGroup; rfl
@[simp] theorem setGroup_operatorKey (s : State) (n : Nat) (x : Group) : (setGroup s n x).operatorKey = s.operatorKey := by unfold setGroup; rfl
@[simp] theorem setGroup_vig (s : State) (n : Nat) (x : Group) : (setGroup s n x).vig = s.vig := by unfold setGroup; rfl
@[simp] theorem setGroup_pwrSw (s : State) (n : Nat) (x : Group) : (setGroup s n x).pwrSw = s.pwrSw := by unfold setGroup; rfl
@[simp] theorem setGroup_scrubMs (s : State) (n : Nat) (x : Group) : (setGroup s n x).scrubMs = s.scrubMs := by unfold setGroup; rfl
@[simp] theorem setGroup_latches (s : State) (n : Nat) (x : Group) : (setGroup s n x).latches = s.latches := by unfold setGroup; rfl
@[simp] theorem setGroup_smbOp (s : State) (n : Nat) (x : Group) : (setGroup s n x).smbOp = s.smbOp := by unfold setGroup; rfl
@[simp] theorem setGroup_cpFw (s : State) (n : Nat) (x : Group) : (setGroup s n x).cpFw = s.cpFw := by unfold setGroup; rfl
@[simp] theorem setGroup_fwResults (s : State) (n : Nat) (x : Group) : (setGroup s n x).fwResults = s.fwResults := by unfold setGroup; rfl
@[simp] theorem setGroup_fuses (s : State) (n : Nat) (x : Group) : (setGroup s n x).fuses = s.fuses := by unfold setGroup; rfl

@[simp] theorem setFn_pending (s : State) (n : Nat) (x : FnSet) : (setFn s n x).pending = s.pending := by unfold setFn; rfl
@[simp] theorem setFn_freeIdx (s : State) (n : Nat) (x : FnSet) : (setFn s n x).freeIdx = s.freeIdx := by unfold setFn; rfl
@[simp] theorem setFn_regs (s : State) (n : Nat) (x : FnSet) : (setFn s n x).regs = s.regs := by unfold setFn; rfl
@[simp] theorem setFn_behaveReset (s : State) (n : Nat) (x : FnSet) : (setFn s n x).behaveReset = s.behaveReset := by unfold setFn; rfl
@[simp] theorem setFn_rdata (s : State) (n : Nat) (x : FnSet) : (setFn s n x).rdata = s.rdata := by unfold setFn; rfl
@[simp] theorem setFn_clk (s : State) (n : Nat) (x : FnSet) : (setFn s n x).clk = s.clk := by unfold setFn; rfl
@[simp] theorem setFn_servo (s : State) (n : Nat) (x : FnSet) : (setFn s n x).servo = s.servo := by unfold setFn; rfl
@[simp] theorem setFn_pulses (s : State) (n : Nat) (x : FnSet) : (setFn s n x).pulses = s.pulses := by unfold setFn; rfl
@[simp] theorem setFn_capt (s : State) (n : Nat) (x : FnSet) : (setFn s n x).capt = s.capt := by unfold setFn; rfl
@[simp] theorem setFn_cal (s : State) (n : Nat) (x : FnSet) : (setFn s n x).cal = s.cal := by unfold setFn; rfl
@[simp] theorem setFn_mems (s : State) (n : Nat) (x : FnSet) : (setFn s n x).mems = s.mems := by unfold setFn; rfl
@[simp] theorem setFn_cores (s : State) (n : Nat) (x : FnSet) : (setFn s n x).cores = s.cores := by unfold setFn; rfl
@[simp] theorem setFn_clTok (s : State) (n : Nat) (x : FnSet) : (setFn s n x).clTok = s.clTok := by unfold setFn; rfl
@[simp] theorem setFn_ctxs (s : State) (n : Nat) (x : FnSet) : (setFn s n x).ctxs = s.ctxs := by unfold setFn; rfl
@[simp] theorem setFn_groups (s : State) (n : Nat) (x : FnSet) : (setFn s n x).groups = s.groups := by unfold setFn; rfl
@[simp] theorem setFn_serial (s : State) (n : Nat) (x : FnSet) : (setFn s n x).serial = s.serial := by unfold setFn; rfl
@[simp] theorem setFn_wins (s : State) (n : Nat) (x : FnSet) : (setFn s n x).wins = s.wins := by unfold setFn; rfl
@[simp] theorem setFn_winPend (s : State) (n : Nat) (x : FnSet) : (setFn s n x).winPend = s.winPend := by unfold setFn; rfl
@[simp] theorem setFn_sealKey (s : State) (n : Nat) (x : FnSet) : (setFn s n x).sealKey = s.sealKey := by unfold setFn; rfl
@[simp] theorem setFn_images (s : State) (n : Nat) (x : FnSet) : (setFn s n x).images = s.images := by unfold setFn; rfl
@[simp] theorem setFn_msix (s : State) (n : Nat) (x : FnSet) : (setFn s n x).msix = s.msix := by unfold setFn; rfl
@[simp] theorem setFn_upset (s : State) (n : Nat) (x : FnSet) : (setFn s n x).upset = s.upset := by unfold setFn; rfl
@[simp] theorem setFn_cells (s : State) (n : Nat) (x : FnSet) : (setFn s n x).cells = s.cells := by unfold setFn; rfl
@[simp] theorem setFn_fsk (s : State) (n : Nat) (x : FnSet) : (setFn s n x).fsk = s.fsk := by unfold setFn; rfl
@[simp] theorem setFn_codecs (s : State) (n : Nat) (x : FnSet) : (setFn s n x).codecs = s.codecs := by unfold setFn; rfl
@[simp] theorem setFn_fhq (s : State) (n : Nat) (x : FnSet) : (setFn s n x).fhq = s.fhq := by unfold setFn; rfl
@[simp] theorem setFn_sjs (s : State) (n : Nat) (x : FnSet) : (setFn s n x).sjs = s.sjs := by unfold setFn; rfl
@[simp] theorem setFn_beadUse (s : State) (n : Nat) (x : FnSet) : (setFn s n x).beadUse = s.beadUse := by unfold setFn; rfl
@[simp] theorem setFn_beadStamp (s : State) (n : Nat) (x : FnSet) : (setFn s n x).beadStamp = s.beadStamp := by unfold setFn; rfl
@[simp] theorem setFn_sent (s : State) (n : Nat) (x : FnSet) : (setFn s n x).sent = s.sent := by unfold setFn; rfl
@[simp] theorem setFn_uids (s : State) (n : Nat) (x : FnSet) : (setFn s n x).uids = s.uids := by unfold setFn; rfl
@[simp] theorem setFn_fab (s : State) (n : Nat) (x : FnSet) : (setFn s n x).fab = s.fab := by unfold setFn; rfl
@[simp] theorem setFn_jr (s : State) (n : Nat) (x : FnSet) : (setFn s n x).jr = s.jr := by unfold setFn; rfl
@[simp] theorem setFn_mbx (s : State) (n : Nat) (x : FnSet) : (setFn s n x).mbx = s.mbx := by unfold setFn; rfl
@[simp] theorem setFn_arbs (s : State) (n : Nat) (x : FnSet) : (setFn s n x).arbs = s.arbs := by unfold setFn; rfl
@[simp] theorem setFn_move (s : State) (n : Nat) (x : FnSet) : (setFn s n x).move = s.move := by unfold setFn; rfl
@[simp] theorem setFn_scrub (s : State) (n : Nat) (x : FnSet) : (setFn s n x).scrub = s.scrub := by unfold setFn; rfl
@[simp] theorem setFn_operatorKey (s : State) (n : Nat) (x : FnSet) : (setFn s n x).operatorKey = s.operatorKey := by unfold setFn; rfl
@[simp] theorem setFn_vig (s : State) (n : Nat) (x : FnSet) : (setFn s n x).vig = s.vig := by unfold setFn; rfl
@[simp] theorem setFn_pwrSw (s : State) (n : Nat) (x : FnSet) : (setFn s n x).pwrSw = s.pwrSw := by unfold setFn; rfl
@[simp] theorem setFn_scrubMs (s : State) (n : Nat) (x : FnSet) : (setFn s n x).scrubMs = s.scrubMs := by unfold setFn; rfl
@[simp] theorem setFn_latches (s : State) (n : Nat) (x : FnSet) : (setFn s n x).latches = s.latches := by unfold setFn; rfl
@[simp] theorem setFn_smbOp (s : State) (n : Nat) (x : FnSet) : (setFn s n x).smbOp = s.smbOp := by unfold setFn; rfl
@[simp] theorem setFn_cpFw (s : State) (n : Nat) (x : FnSet) : (setFn s n x).cpFw = s.cpFw := by unfold setFn; rfl
@[simp] theorem setFn_fwResults (s : State) (n : Nat) (x : FnSet) : (setFn s n x).fwResults = s.fwResults := by unfold setFn; rfl
@[simp] theorem setFn_fuses (s : State) (n : Nat) (x : FnSet) : (setFn s n x).fuses = s.fuses := by unfold setFn; rfl

@[simp] theorem setWin_pending (s : State) (a w : Nat) (x : Win) : (setWin s a w x).pending = s.pending := by unfold setWin; rfl
@[simp] theorem setWin_freeIdx (s : State) (a w : Nat) (x : Win) : (setWin s a w x).freeIdx = s.freeIdx := by unfold setWin; rfl
@[simp] theorem setWin_regs (s : State) (a w : Nat) (x : Win) : (setWin s a w x).regs = s.regs := by unfold setWin; rfl
@[simp] theorem setWin_behaveReset (s : State) (a w : Nat) (x : Win) : (setWin s a w x).behaveReset = s.behaveReset := by unfold setWin; rfl
@[simp] theorem setWin_rdata (s : State) (a w : Nat) (x : Win) : (setWin s a w x).rdata = s.rdata := by unfold setWin; rfl
@[simp] theorem setWin_clk (s : State) (a w : Nat) (x : Win) : (setWin s a w x).clk = s.clk := by unfold setWin; rfl
@[simp] theorem setWin_servo (s : State) (a w : Nat) (x : Win) : (setWin s a w x).servo = s.servo := by unfold setWin; rfl
@[simp] theorem setWin_pulses (s : State) (a w : Nat) (x : Win) : (setWin s a w x).pulses = s.pulses := by unfold setWin; rfl
@[simp] theorem setWin_capt (s : State) (a w : Nat) (x : Win) : (setWin s a w x).capt = s.capt := by unfold setWin; rfl
@[simp] theorem setWin_cal (s : State) (a w : Nat) (x : Win) : (setWin s a w x).cal = s.cal := by unfold setWin; rfl
@[simp] theorem setWin_mems (s : State) (a w : Nat) (x : Win) : (setWin s a w x).mems = s.mems := by unfold setWin; rfl
@[simp] theorem setWin_cores (s : State) (a w : Nat) (x : Win) : (setWin s a w x).cores = s.cores := by unfold setWin; rfl
@[simp] theorem setWin_clTok (s : State) (a w : Nat) (x : Win) : (setWin s a w x).clTok = s.clTok := by unfold setWin; rfl
@[simp] theorem setWin_ctxs (s : State) (a w : Nat) (x : Win) : (setWin s a w x).ctxs = s.ctxs := by unfold setWin; rfl
@[simp] theorem setWin_groups (s : State) (a w : Nat) (x : Win) : (setWin s a w x).groups = s.groups := by unfold setWin; rfl
@[simp] theorem setWin_serial (s : State) (a w : Nat) (x : Win) : (setWin s a w x).serial = s.serial := by unfold setWin; rfl
@[simp] theorem setWin_fns (s : State) (a w : Nat) (x : Win) : (setWin s a w x).fns = s.fns := by unfold setWin; rfl
@[simp] theorem setWin_winPend (s : State) (a w : Nat) (x : Win) : (setWin s a w x).winPend = s.winPend := by unfold setWin; rfl
@[simp] theorem setWin_sealKey (s : State) (a w : Nat) (x : Win) : (setWin s a w x).sealKey = s.sealKey := by unfold setWin; rfl
@[simp] theorem setWin_images (s : State) (a w : Nat) (x : Win) : (setWin s a w x).images = s.images := by unfold setWin; rfl
@[simp] theorem setWin_msix (s : State) (a w : Nat) (x : Win) : (setWin s a w x).msix = s.msix := by unfold setWin; rfl
@[simp] theorem setWin_upset (s : State) (a w : Nat) (x : Win) : (setWin s a w x).upset = s.upset := by unfold setWin; rfl
@[simp] theorem setWin_cells (s : State) (a w : Nat) (x : Win) : (setWin s a w x).cells = s.cells := by unfold setWin; rfl
@[simp] theorem setWin_fsk (s : State) (a w : Nat) (x : Win) : (setWin s a w x).fsk = s.fsk := by unfold setWin; rfl
@[simp] theorem setWin_codecs (s : State) (a w : Nat) (x : Win) : (setWin s a w x).codecs = s.codecs := by unfold setWin; rfl
@[simp] theorem setWin_fhq (s : State) (a w : Nat) (x : Win) : (setWin s a w x).fhq = s.fhq := by unfold setWin; rfl
@[simp] theorem setWin_sjs (s : State) (a w : Nat) (x : Win) : (setWin s a w x).sjs = s.sjs := by unfold setWin; rfl
@[simp] theorem setWin_beadUse (s : State) (a w : Nat) (x : Win) : (setWin s a w x).beadUse = s.beadUse := by unfold setWin; rfl
@[simp] theorem setWin_beadStamp (s : State) (a w : Nat) (x : Win) : (setWin s a w x).beadStamp = s.beadStamp := by unfold setWin; rfl
@[simp] theorem setWin_sent (s : State) (a w : Nat) (x : Win) : (setWin s a w x).sent = s.sent := by unfold setWin; rfl
@[simp] theorem setWin_uids (s : State) (a w : Nat) (x : Win) : (setWin s a w x).uids = s.uids := by unfold setWin; rfl
@[simp] theorem setWin_fab (s : State) (a w : Nat) (x : Win) : (setWin s a w x).fab = s.fab := by unfold setWin; rfl
@[simp] theorem setWin_jr (s : State) (a w : Nat) (x : Win) : (setWin s a w x).jr = s.jr := by unfold setWin; rfl
@[simp] theorem setWin_mbx (s : State) (a w : Nat) (x : Win) : (setWin s a w x).mbx = s.mbx := by unfold setWin; rfl
@[simp] theorem setWin_arbs (s : State) (a w : Nat) (x : Win) : (setWin s a w x).arbs = s.arbs := by unfold setWin; rfl
@[simp] theorem setWin_move (s : State) (a w : Nat) (x : Win) : (setWin s a w x).move = s.move := by unfold setWin; rfl
@[simp] theorem setWin_scrub (s : State) (a w : Nat) (x : Win) : (setWin s a w x).scrub = s.scrub := by unfold setWin; rfl
@[simp] theorem setWin_operatorKey (s : State) (a w : Nat) (x : Win) : (setWin s a w x).operatorKey = s.operatorKey := by unfold setWin; rfl
@[simp] theorem setWin_vig (s : State) (a w : Nat) (x : Win) : (setWin s a w x).vig = s.vig := by unfold setWin; rfl
@[simp] theorem setWin_pwrSw (s : State) (a w : Nat) (x : Win) : (setWin s a w x).pwrSw = s.pwrSw := by unfold setWin; rfl
@[simp] theorem setWin_scrubMs (s : State) (a w : Nat) (x : Win) : (setWin s a w x).scrubMs = s.scrubMs := by unfold setWin; rfl
@[simp] theorem setWin_latches (s : State) (a w : Nat) (x : Win) : (setWin s a w x).latches = s.latches := by unfold setWin; rfl
@[simp] theorem setWin_smbOp (s : State) (a w : Nat) (x : Win) : (setWin s a w x).smbOp = s.smbOp := by unfold setWin; rfl
@[simp] theorem setWin_cpFw (s : State) (a w : Nat) (x : Win) : (setWin s a w x).cpFw = s.cpFw := by unfold setWin; rfl
@[simp] theorem setWin_fwResults (s : State) (a w : Nat) (x : Win) : (setWin s a w x).fwResults = s.fwResults := by unfold setWin; rfl
@[simp] theorem setWin_fuses (s : State) (a w : Nat) (x : Win) : (setWin s a w x).fuses = s.fuses := by unfold setWin; rfl

@[simp] theorem setSj_pending (s : State) (n : Nat) (x : Sj) : (setSj s n x).pending = s.pending := by unfold setSj; rfl
@[simp] theorem setSj_freeIdx (s : State) (n : Nat) (x : Sj) : (setSj s n x).freeIdx = s.freeIdx := by unfold setSj; rfl
@[simp] theorem setSj_regs (s : State) (n : Nat) (x : Sj) : (setSj s n x).regs = s.regs := by unfold setSj; rfl
@[simp] theorem setSj_behaveReset (s : State) (n : Nat) (x : Sj) : (setSj s n x).behaveReset = s.behaveReset := by unfold setSj; rfl
@[simp] theorem setSj_rdata (s : State) (n : Nat) (x : Sj) : (setSj s n x).rdata = s.rdata := by unfold setSj; rfl
@[simp] theorem setSj_clk (s : State) (n : Nat) (x : Sj) : (setSj s n x).clk = s.clk := by unfold setSj; rfl
@[simp] theorem setSj_servo (s : State) (n : Nat) (x : Sj) : (setSj s n x).servo = s.servo := by unfold setSj; rfl
@[simp] theorem setSj_pulses (s : State) (n : Nat) (x : Sj) : (setSj s n x).pulses = s.pulses := by unfold setSj; rfl
@[simp] theorem setSj_capt (s : State) (n : Nat) (x : Sj) : (setSj s n x).capt = s.capt := by unfold setSj; rfl
@[simp] theorem setSj_cal (s : State) (n : Nat) (x : Sj) : (setSj s n x).cal = s.cal := by unfold setSj; rfl
@[simp] theorem setSj_mems (s : State) (n : Nat) (x : Sj) : (setSj s n x).mems = s.mems := by unfold setSj; rfl
@[simp] theorem setSj_cores (s : State) (n : Nat) (x : Sj) : (setSj s n x).cores = s.cores := by unfold setSj; rfl
@[simp] theorem setSj_clTok (s : State) (n : Nat) (x : Sj) : (setSj s n x).clTok = s.clTok := by unfold setSj; rfl
@[simp] theorem setSj_ctxs (s : State) (n : Nat) (x : Sj) : (setSj s n x).ctxs = s.ctxs := by unfold setSj; rfl
@[simp] theorem setSj_groups (s : State) (n : Nat) (x : Sj) : (setSj s n x).groups = s.groups := by unfold setSj; rfl
@[simp] theorem setSj_serial (s : State) (n : Nat) (x : Sj) : (setSj s n x).serial = s.serial := by unfold setSj; rfl
@[simp] theorem setSj_fns (s : State) (n : Nat) (x : Sj) : (setSj s n x).fns = s.fns := by unfold setSj; rfl
@[simp] theorem setSj_wins (s : State) (n : Nat) (x : Sj) : (setSj s n x).wins = s.wins := by unfold setSj; rfl
@[simp] theorem setSj_winPend (s : State) (n : Nat) (x : Sj) : (setSj s n x).winPend = s.winPend := by unfold setSj; rfl
@[simp] theorem setSj_sealKey (s : State) (n : Nat) (x : Sj) : (setSj s n x).sealKey = s.sealKey := by unfold setSj; rfl
@[simp] theorem setSj_images (s : State) (n : Nat) (x : Sj) : (setSj s n x).images = s.images := by unfold setSj; rfl
@[simp] theorem setSj_msix (s : State) (n : Nat) (x : Sj) : (setSj s n x).msix = s.msix := by unfold setSj; rfl
@[simp] theorem setSj_upset (s : State) (n : Nat) (x : Sj) : (setSj s n x).upset = s.upset := by unfold setSj; rfl
@[simp] theorem setSj_cells (s : State) (n : Nat) (x : Sj) : (setSj s n x).cells = s.cells := by unfold setSj; rfl
@[simp] theorem setSj_fsk (s : State) (n : Nat) (x : Sj) : (setSj s n x).fsk = s.fsk := by unfold setSj; rfl
@[simp] theorem setSj_codecs (s : State) (n : Nat) (x : Sj) : (setSj s n x).codecs = s.codecs := by unfold setSj; rfl
@[simp] theorem setSj_fhq (s : State) (n : Nat) (x : Sj) : (setSj s n x).fhq = s.fhq := by unfold setSj; rfl
@[simp] theorem setSj_beadUse (s : State) (n : Nat) (x : Sj) : (setSj s n x).beadUse = s.beadUse := by unfold setSj; rfl
@[simp] theorem setSj_beadStamp (s : State) (n : Nat) (x : Sj) : (setSj s n x).beadStamp = s.beadStamp := by unfold setSj; rfl
@[simp] theorem setSj_sent (s : State) (n : Nat) (x : Sj) : (setSj s n x).sent = s.sent := by unfold setSj; rfl
@[simp] theorem setSj_uids (s : State) (n : Nat) (x : Sj) : (setSj s n x).uids = s.uids := by unfold setSj; rfl
@[simp] theorem setSj_fab (s : State) (n : Nat) (x : Sj) : (setSj s n x).fab = s.fab := by unfold setSj; rfl
@[simp] theorem setSj_jr (s : State) (n : Nat) (x : Sj) : (setSj s n x).jr = s.jr := by unfold setSj; rfl
@[simp] theorem setSj_mbx (s : State) (n : Nat) (x : Sj) : (setSj s n x).mbx = s.mbx := by unfold setSj; rfl
@[simp] theorem setSj_arbs (s : State) (n : Nat) (x : Sj) : (setSj s n x).arbs = s.arbs := by unfold setSj; rfl
@[simp] theorem setSj_move (s : State) (n : Nat) (x : Sj) : (setSj s n x).move = s.move := by unfold setSj; rfl
@[simp] theorem setSj_scrub (s : State) (n : Nat) (x : Sj) : (setSj s n x).scrub = s.scrub := by unfold setSj; rfl
@[simp] theorem setSj_operatorKey (s : State) (n : Nat) (x : Sj) : (setSj s n x).operatorKey = s.operatorKey := by unfold setSj; rfl
@[simp] theorem setSj_vig (s : State) (n : Nat) (x : Sj) : (setSj s n x).vig = s.vig := by unfold setSj; rfl
@[simp] theorem setSj_pwrSw (s : State) (n : Nat) (x : Sj) : (setSj s n x).pwrSw = s.pwrSw := by unfold setSj; rfl
@[simp] theorem setSj_scrubMs (s : State) (n : Nat) (x : Sj) : (setSj s n x).scrubMs = s.scrubMs := by unfold setSj; rfl
@[simp] theorem setSj_latches (s : State) (n : Nat) (x : Sj) : (setSj s n x).latches = s.latches := by unfold setSj; rfl
@[simp] theorem setSj_smbOp (s : State) (n : Nat) (x : Sj) : (setSj s n x).smbOp = s.smbOp := by unfold setSj; rfl
@[simp] theorem setSj_cpFw (s : State) (n : Nat) (x : Sj) : (setSj s n x).cpFw = s.cpFw := by unfold setSj; rfl
@[simp] theorem setSj_fwResults (s : State) (n : Nat) (x : Sj) : (setSj s n x).fwResults = s.fwResults := by unfold setSj; rfl
@[simp] theorem setSj_fuses (s : State) (n : Nat) (x : Sj) : (setSj s n x).fuses = s.fuses := by unfold setSj; rfl

@[simp] theorem setCell_pending (s : State) (n : Nat) (x : Cell) : (setCell s n x).pending = s.pending := by unfold setCell; rfl
@[simp] theorem setCell_freeIdx (s : State) (n : Nat) (x : Cell) : (setCell s n x).freeIdx = s.freeIdx := by unfold setCell; rfl
@[simp] theorem setCell_regs (s : State) (n : Nat) (x : Cell) : (setCell s n x).regs = s.regs := by unfold setCell; rfl
@[simp] theorem setCell_behaveReset (s : State) (n : Nat) (x : Cell) : (setCell s n x).behaveReset = s.behaveReset := by unfold setCell; rfl
@[simp] theorem setCell_rdata (s : State) (n : Nat) (x : Cell) : (setCell s n x).rdata = s.rdata := by unfold setCell; rfl
@[simp] theorem setCell_clk (s : State) (n : Nat) (x : Cell) : (setCell s n x).clk = s.clk := by unfold setCell; rfl
@[simp] theorem setCell_servo (s : State) (n : Nat) (x : Cell) : (setCell s n x).servo = s.servo := by unfold setCell; rfl
@[simp] theorem setCell_pulses (s : State) (n : Nat) (x : Cell) : (setCell s n x).pulses = s.pulses := by unfold setCell; rfl
@[simp] theorem setCell_capt (s : State) (n : Nat) (x : Cell) : (setCell s n x).capt = s.capt := by unfold setCell; rfl
@[simp] theorem setCell_cal (s : State) (n : Nat) (x : Cell) : (setCell s n x).cal = s.cal := by unfold setCell; rfl
@[simp] theorem setCell_mems (s : State) (n : Nat) (x : Cell) : (setCell s n x).mems = s.mems := by unfold setCell; rfl
@[simp] theorem setCell_cores (s : State) (n : Nat) (x : Cell) : (setCell s n x).cores = s.cores := by unfold setCell; rfl
@[simp] theorem setCell_clTok (s : State) (n : Nat) (x : Cell) : (setCell s n x).clTok = s.clTok := by unfold setCell; rfl
@[simp] theorem setCell_ctxs (s : State) (n : Nat) (x : Cell) : (setCell s n x).ctxs = s.ctxs := by unfold setCell; rfl
@[simp] theorem setCell_groups (s : State) (n : Nat) (x : Cell) : (setCell s n x).groups = s.groups := by unfold setCell; rfl
@[simp] theorem setCell_serial (s : State) (n : Nat) (x : Cell) : (setCell s n x).serial = s.serial := by unfold setCell; rfl
@[simp] theorem setCell_fns (s : State) (n : Nat) (x : Cell) : (setCell s n x).fns = s.fns := by unfold setCell; rfl
@[simp] theorem setCell_wins (s : State) (n : Nat) (x : Cell) : (setCell s n x).wins = s.wins := by unfold setCell; rfl
@[simp] theorem setCell_winPend (s : State) (n : Nat) (x : Cell) : (setCell s n x).winPend = s.winPend := by unfold setCell; rfl
@[simp] theorem setCell_sealKey (s : State) (n : Nat) (x : Cell) : (setCell s n x).sealKey = s.sealKey := by unfold setCell; rfl
@[simp] theorem setCell_images (s : State) (n : Nat) (x : Cell) : (setCell s n x).images = s.images := by unfold setCell; rfl
@[simp] theorem setCell_msix (s : State) (n : Nat) (x : Cell) : (setCell s n x).msix = s.msix := by unfold setCell; rfl
@[simp] theorem setCell_upset (s : State) (n : Nat) (x : Cell) : (setCell s n x).upset = s.upset := by unfold setCell; rfl
@[simp] theorem setCell_fsk (s : State) (n : Nat) (x : Cell) : (setCell s n x).fsk = s.fsk := by unfold setCell; rfl
@[simp] theorem setCell_codecs (s : State) (n : Nat) (x : Cell) : (setCell s n x).codecs = s.codecs := by unfold setCell; rfl
@[simp] theorem setCell_fhq (s : State) (n : Nat) (x : Cell) : (setCell s n x).fhq = s.fhq := by unfold setCell; rfl
@[simp] theorem setCell_sjs (s : State) (n : Nat) (x : Cell) : (setCell s n x).sjs = s.sjs := by unfold setCell; rfl
@[simp] theorem setCell_beadUse (s : State) (n : Nat) (x : Cell) : (setCell s n x).beadUse = s.beadUse := by unfold setCell; rfl
@[simp] theorem setCell_beadStamp (s : State) (n : Nat) (x : Cell) : (setCell s n x).beadStamp = s.beadStamp := by unfold setCell; rfl
@[simp] theorem setCell_sent (s : State) (n : Nat) (x : Cell) : (setCell s n x).sent = s.sent := by unfold setCell; rfl
@[simp] theorem setCell_uids (s : State) (n : Nat) (x : Cell) : (setCell s n x).uids = s.uids := by unfold setCell; rfl
@[simp] theorem setCell_fab (s : State) (n : Nat) (x : Cell) : (setCell s n x).fab = s.fab := by unfold setCell; rfl
@[simp] theorem setCell_jr (s : State) (n : Nat) (x : Cell) : (setCell s n x).jr = s.jr := by unfold setCell; rfl
@[simp] theorem setCell_mbx (s : State) (n : Nat) (x : Cell) : (setCell s n x).mbx = s.mbx := by unfold setCell; rfl
@[simp] theorem setCell_arbs (s : State) (n : Nat) (x : Cell) : (setCell s n x).arbs = s.arbs := by unfold setCell; rfl
@[simp] theorem setCell_move (s : State) (n : Nat) (x : Cell) : (setCell s n x).move = s.move := by unfold setCell; rfl
@[simp] theorem setCell_scrub (s : State) (n : Nat) (x : Cell) : (setCell s n x).scrub = s.scrub := by unfold setCell; rfl
@[simp] theorem setCell_operatorKey (s : State) (n : Nat) (x : Cell) : (setCell s n x).operatorKey = s.operatorKey := by unfold setCell; rfl
@[simp] theorem setCell_vig (s : State) (n : Nat) (x : Cell) : (setCell s n x).vig = s.vig := by unfold setCell; rfl
@[simp] theorem setCell_pwrSw (s : State) (n : Nat) (x : Cell) : (setCell s n x).pwrSw = s.pwrSw := by unfold setCell; rfl
@[simp] theorem setCell_scrubMs (s : State) (n : Nat) (x : Cell) : (setCell s n x).scrubMs = s.scrubMs := by unfold setCell; rfl
@[simp] theorem setCell_latches (s : State) (n : Nat) (x : Cell) : (setCell s n x).latches = s.latches := by unfold setCell; rfl
@[simp] theorem setCell_smbOp (s : State) (n : Nat) (x : Cell) : (setCell s n x).smbOp = s.smbOp := by unfold setCell; rfl
@[simp] theorem setCell_cpFw (s : State) (n : Nat) (x : Cell) : (setCell s n x).cpFw = s.cpFw := by unfold setCell; rfl
@[simp] theorem setCell_fwResults (s : State) (n : Nat) (x : Cell) : (setCell s n x).fwResults = s.fwResults := by unfold setCell; rfl
@[simp] theorem setCell_fuses (s : State) (n : Nat) (x : Cell) : (setCell s n x).fuses = s.fuses := by unfold setCell; rfl

@[simp] theorem setFsk_pending (s : State) (n : Nat) (x : FskGrp) : (setFsk s n x).pending = s.pending := by unfold setFsk; rfl
@[simp] theorem setFsk_freeIdx (s : State) (n : Nat) (x : FskGrp) : (setFsk s n x).freeIdx = s.freeIdx := by unfold setFsk; rfl
@[simp] theorem setFsk_regs (s : State) (n : Nat) (x : FskGrp) : (setFsk s n x).regs = s.regs := by unfold setFsk; rfl
@[simp] theorem setFsk_behaveReset (s : State) (n : Nat) (x : FskGrp) : (setFsk s n x).behaveReset = s.behaveReset := by unfold setFsk; rfl
@[simp] theorem setFsk_rdata (s : State) (n : Nat) (x : FskGrp) : (setFsk s n x).rdata = s.rdata := by unfold setFsk; rfl
@[simp] theorem setFsk_clk (s : State) (n : Nat) (x : FskGrp) : (setFsk s n x).clk = s.clk := by unfold setFsk; rfl
@[simp] theorem setFsk_servo (s : State) (n : Nat) (x : FskGrp) : (setFsk s n x).servo = s.servo := by unfold setFsk; rfl
@[simp] theorem setFsk_pulses (s : State) (n : Nat) (x : FskGrp) : (setFsk s n x).pulses = s.pulses := by unfold setFsk; rfl
@[simp] theorem setFsk_capt (s : State) (n : Nat) (x : FskGrp) : (setFsk s n x).capt = s.capt := by unfold setFsk; rfl
@[simp] theorem setFsk_cal (s : State) (n : Nat) (x : FskGrp) : (setFsk s n x).cal = s.cal := by unfold setFsk; rfl
@[simp] theorem setFsk_mems (s : State) (n : Nat) (x : FskGrp) : (setFsk s n x).mems = s.mems := by unfold setFsk; rfl
@[simp] theorem setFsk_cores (s : State) (n : Nat) (x : FskGrp) : (setFsk s n x).cores = s.cores := by unfold setFsk; rfl
@[simp] theorem setFsk_clTok (s : State) (n : Nat) (x : FskGrp) : (setFsk s n x).clTok = s.clTok := by unfold setFsk; rfl
@[simp] theorem setFsk_ctxs (s : State) (n : Nat) (x : FskGrp) : (setFsk s n x).ctxs = s.ctxs := by unfold setFsk; rfl
@[simp] theorem setFsk_groups (s : State) (n : Nat) (x : FskGrp) : (setFsk s n x).groups = s.groups := by unfold setFsk; rfl
@[simp] theorem setFsk_serial (s : State) (n : Nat) (x : FskGrp) : (setFsk s n x).serial = s.serial := by unfold setFsk; rfl
@[simp] theorem setFsk_fns (s : State) (n : Nat) (x : FskGrp) : (setFsk s n x).fns = s.fns := by unfold setFsk; rfl
@[simp] theorem setFsk_wins (s : State) (n : Nat) (x : FskGrp) : (setFsk s n x).wins = s.wins := by unfold setFsk; rfl
@[simp] theorem setFsk_winPend (s : State) (n : Nat) (x : FskGrp) : (setFsk s n x).winPend = s.winPend := by unfold setFsk; rfl
@[simp] theorem setFsk_sealKey (s : State) (n : Nat) (x : FskGrp) : (setFsk s n x).sealKey = s.sealKey := by unfold setFsk; rfl
@[simp] theorem setFsk_images (s : State) (n : Nat) (x : FskGrp) : (setFsk s n x).images = s.images := by unfold setFsk; rfl
@[simp] theorem setFsk_msix (s : State) (n : Nat) (x : FskGrp) : (setFsk s n x).msix = s.msix := by unfold setFsk; rfl
@[simp] theorem setFsk_upset (s : State) (n : Nat) (x : FskGrp) : (setFsk s n x).upset = s.upset := by unfold setFsk; rfl
@[simp] theorem setFsk_cells (s : State) (n : Nat) (x : FskGrp) : (setFsk s n x).cells = s.cells := by unfold setFsk; rfl
@[simp] theorem setFsk_codecs (s : State) (n : Nat) (x : FskGrp) : (setFsk s n x).codecs = s.codecs := by unfold setFsk; rfl
@[simp] theorem setFsk_fhq (s : State) (n : Nat) (x : FskGrp) : (setFsk s n x).fhq = s.fhq := by unfold setFsk; rfl
@[simp] theorem setFsk_sjs (s : State) (n : Nat) (x : FskGrp) : (setFsk s n x).sjs = s.sjs := by unfold setFsk; rfl
@[simp] theorem setFsk_beadUse (s : State) (n : Nat) (x : FskGrp) : (setFsk s n x).beadUse = s.beadUse := by unfold setFsk; rfl
@[simp] theorem setFsk_beadStamp (s : State) (n : Nat) (x : FskGrp) : (setFsk s n x).beadStamp = s.beadStamp := by unfold setFsk; rfl
@[simp] theorem setFsk_sent (s : State) (n : Nat) (x : FskGrp) : (setFsk s n x).sent = s.sent := by unfold setFsk; rfl
@[simp] theorem setFsk_uids (s : State) (n : Nat) (x : FskGrp) : (setFsk s n x).uids = s.uids := by unfold setFsk; rfl
@[simp] theorem setFsk_fab (s : State) (n : Nat) (x : FskGrp) : (setFsk s n x).fab = s.fab := by unfold setFsk; rfl
@[simp] theorem setFsk_jr (s : State) (n : Nat) (x : FskGrp) : (setFsk s n x).jr = s.jr := by unfold setFsk; rfl
@[simp] theorem setFsk_mbx (s : State) (n : Nat) (x : FskGrp) : (setFsk s n x).mbx = s.mbx := by unfold setFsk; rfl
@[simp] theorem setFsk_arbs (s : State) (n : Nat) (x : FskGrp) : (setFsk s n x).arbs = s.arbs := by unfold setFsk; rfl
@[simp] theorem setFsk_move (s : State) (n : Nat) (x : FskGrp) : (setFsk s n x).move = s.move := by unfold setFsk; rfl
@[simp] theorem setFsk_scrub (s : State) (n : Nat) (x : FskGrp) : (setFsk s n x).scrub = s.scrub := by unfold setFsk; rfl
@[simp] theorem setFsk_operatorKey (s : State) (n : Nat) (x : FskGrp) : (setFsk s n x).operatorKey = s.operatorKey := by unfold setFsk; rfl
@[simp] theorem setFsk_vig (s : State) (n : Nat) (x : FskGrp) : (setFsk s n x).vig = s.vig := by unfold setFsk; rfl
@[simp] theorem setFsk_pwrSw (s : State) (n : Nat) (x : FskGrp) : (setFsk s n x).pwrSw = s.pwrSw := by unfold setFsk; rfl
@[simp] theorem setFsk_scrubMs (s : State) (n : Nat) (x : FskGrp) : (setFsk s n x).scrubMs = s.scrubMs := by unfold setFsk; rfl
@[simp] theorem setFsk_latches (s : State) (n : Nat) (x : FskGrp) : (setFsk s n x).latches = s.latches := by unfold setFsk; rfl
@[simp] theorem setFsk_smbOp (s : State) (n : Nat) (x : FskGrp) : (setFsk s n x).smbOp = s.smbOp := by unfold setFsk; rfl
@[simp] theorem setFsk_cpFw (s : State) (n : Nat) (x : FskGrp) : (setFsk s n x).cpFw = s.cpFw := by unfold setFsk; rfl
@[simp] theorem setFsk_fwResults (s : State) (n : Nat) (x : FskGrp) : (setFsk s n x).fwResults = s.fwResults := by unfold setFsk; rfl
@[simp] theorem setFsk_fuses (s : State) (n : Nat) (x : FskGrp) : (setFsk s n x).fuses = s.fuses := by unfold setFsk; rfl

@[simp] theorem setCodec_pending (s : State) (n : Nat) (x : Codec) : (setCodec s n x).pending = s.pending := by unfold setCodec; rfl
@[simp] theorem setCodec_freeIdx (s : State) (n : Nat) (x : Codec) : (setCodec s n x).freeIdx = s.freeIdx := by unfold setCodec; rfl
@[simp] theorem setCodec_regs (s : State) (n : Nat) (x : Codec) : (setCodec s n x).regs = s.regs := by unfold setCodec; rfl
@[simp] theorem setCodec_behaveReset (s : State) (n : Nat) (x : Codec) : (setCodec s n x).behaveReset = s.behaveReset := by unfold setCodec; rfl
@[simp] theorem setCodec_rdata (s : State) (n : Nat) (x : Codec) : (setCodec s n x).rdata = s.rdata := by unfold setCodec; rfl
@[simp] theorem setCodec_clk (s : State) (n : Nat) (x : Codec) : (setCodec s n x).clk = s.clk := by unfold setCodec; rfl
@[simp] theorem setCodec_servo (s : State) (n : Nat) (x : Codec) : (setCodec s n x).servo = s.servo := by unfold setCodec; rfl
@[simp] theorem setCodec_pulses (s : State) (n : Nat) (x : Codec) : (setCodec s n x).pulses = s.pulses := by unfold setCodec; rfl
@[simp] theorem setCodec_capt (s : State) (n : Nat) (x : Codec) : (setCodec s n x).capt = s.capt := by unfold setCodec; rfl
@[simp] theorem setCodec_cal (s : State) (n : Nat) (x : Codec) : (setCodec s n x).cal = s.cal := by unfold setCodec; rfl
@[simp] theorem setCodec_mems (s : State) (n : Nat) (x : Codec) : (setCodec s n x).mems = s.mems := by unfold setCodec; rfl
@[simp] theorem setCodec_cores (s : State) (n : Nat) (x : Codec) : (setCodec s n x).cores = s.cores := by unfold setCodec; rfl
@[simp] theorem setCodec_clTok (s : State) (n : Nat) (x : Codec) : (setCodec s n x).clTok = s.clTok := by unfold setCodec; rfl
@[simp] theorem setCodec_ctxs (s : State) (n : Nat) (x : Codec) : (setCodec s n x).ctxs = s.ctxs := by unfold setCodec; rfl
@[simp] theorem setCodec_groups (s : State) (n : Nat) (x : Codec) : (setCodec s n x).groups = s.groups := by unfold setCodec; rfl
@[simp] theorem setCodec_serial (s : State) (n : Nat) (x : Codec) : (setCodec s n x).serial = s.serial := by unfold setCodec; rfl
@[simp] theorem setCodec_fns (s : State) (n : Nat) (x : Codec) : (setCodec s n x).fns = s.fns := by unfold setCodec; rfl
@[simp] theorem setCodec_wins (s : State) (n : Nat) (x : Codec) : (setCodec s n x).wins = s.wins := by unfold setCodec; rfl
@[simp] theorem setCodec_winPend (s : State) (n : Nat) (x : Codec) : (setCodec s n x).winPend = s.winPend := by unfold setCodec; rfl
@[simp] theorem setCodec_sealKey (s : State) (n : Nat) (x : Codec) : (setCodec s n x).sealKey = s.sealKey := by unfold setCodec; rfl
@[simp] theorem setCodec_images (s : State) (n : Nat) (x : Codec) : (setCodec s n x).images = s.images := by unfold setCodec; rfl
@[simp] theorem setCodec_msix (s : State) (n : Nat) (x : Codec) : (setCodec s n x).msix = s.msix := by unfold setCodec; rfl
@[simp] theorem setCodec_upset (s : State) (n : Nat) (x : Codec) : (setCodec s n x).upset = s.upset := by unfold setCodec; rfl
@[simp] theorem setCodec_cells (s : State) (n : Nat) (x : Codec) : (setCodec s n x).cells = s.cells := by unfold setCodec; rfl
@[simp] theorem setCodec_fsk (s : State) (n : Nat) (x : Codec) : (setCodec s n x).fsk = s.fsk := by unfold setCodec; rfl
@[simp] theorem setCodec_fhq (s : State) (n : Nat) (x : Codec) : (setCodec s n x).fhq = s.fhq := by unfold setCodec; rfl
@[simp] theorem setCodec_sjs (s : State) (n : Nat) (x : Codec) : (setCodec s n x).sjs = s.sjs := by unfold setCodec; rfl
@[simp] theorem setCodec_beadUse (s : State) (n : Nat) (x : Codec) : (setCodec s n x).beadUse = s.beadUse := by unfold setCodec; rfl
@[simp] theorem setCodec_beadStamp (s : State) (n : Nat) (x : Codec) : (setCodec s n x).beadStamp = s.beadStamp := by unfold setCodec; rfl
@[simp] theorem setCodec_sent (s : State) (n : Nat) (x : Codec) : (setCodec s n x).sent = s.sent := by unfold setCodec; rfl
@[simp] theorem setCodec_uids (s : State) (n : Nat) (x : Codec) : (setCodec s n x).uids = s.uids := by unfold setCodec; rfl
@[simp] theorem setCodec_fab (s : State) (n : Nat) (x : Codec) : (setCodec s n x).fab = s.fab := by unfold setCodec; rfl
@[simp] theorem setCodec_jr (s : State) (n : Nat) (x : Codec) : (setCodec s n x).jr = s.jr := by unfold setCodec; rfl
@[simp] theorem setCodec_mbx (s : State) (n : Nat) (x : Codec) : (setCodec s n x).mbx = s.mbx := by unfold setCodec; rfl
@[simp] theorem setCodec_arbs (s : State) (n : Nat) (x : Codec) : (setCodec s n x).arbs = s.arbs := by unfold setCodec; rfl
@[simp] theorem setCodec_move (s : State) (n : Nat) (x : Codec) : (setCodec s n x).move = s.move := by unfold setCodec; rfl
@[simp] theorem setCodec_scrub (s : State) (n : Nat) (x : Codec) : (setCodec s n x).scrub = s.scrub := by unfold setCodec; rfl
@[simp] theorem setCodec_operatorKey (s : State) (n : Nat) (x : Codec) : (setCodec s n x).operatorKey = s.operatorKey := by unfold setCodec; rfl
@[simp] theorem setCodec_vig (s : State) (n : Nat) (x : Codec) : (setCodec s n x).vig = s.vig := by unfold setCodec; rfl
@[simp] theorem setCodec_pwrSw (s : State) (n : Nat) (x : Codec) : (setCodec s n x).pwrSw = s.pwrSw := by unfold setCodec; rfl
@[simp] theorem setCodec_scrubMs (s : State) (n : Nat) (x : Codec) : (setCodec s n x).scrubMs = s.scrubMs := by unfold setCodec; rfl
@[simp] theorem setCodec_latches (s : State) (n : Nat) (x : Codec) : (setCodec s n x).latches = s.latches := by unfold setCodec; rfl
@[simp] theorem setCodec_smbOp (s : State) (n : Nat) (x : Codec) : (setCodec s n x).smbOp = s.smbOp := by unfold setCodec; rfl
@[simp] theorem setCodec_cpFw (s : State) (n : Nat) (x : Codec) : (setCodec s n x).cpFw = s.cpFw := by unfold setCodec; rfl
@[simp] theorem setCodec_fwResults (s : State) (n : Nat) (x : Codec) : (setCodec s n x).fwResults = s.fwResults := by unfold setCodec; rfl
@[simp] theorem setCodec_fuses (s : State) (n : Nat) (x : Codec) : (setCodec s n x).fuses = s.fuses := by unfold setCodec; rfl

@[simp] theorem setPulse_pending (s : State) (n : Nat) (x : Pulse) : (setPulse s n x).pending = s.pending := by unfold setPulse; rfl
@[simp] theorem setPulse_freeIdx (s : State) (n : Nat) (x : Pulse) : (setPulse s n x).freeIdx = s.freeIdx := by unfold setPulse; rfl
@[simp] theorem setPulse_regs (s : State) (n : Nat) (x : Pulse) : (setPulse s n x).regs = s.regs := by unfold setPulse; rfl
@[simp] theorem setPulse_behaveReset (s : State) (n : Nat) (x : Pulse) : (setPulse s n x).behaveReset = s.behaveReset := by unfold setPulse; rfl
@[simp] theorem setPulse_rdata (s : State) (n : Nat) (x : Pulse) : (setPulse s n x).rdata = s.rdata := by unfold setPulse; rfl
@[simp] theorem setPulse_clk (s : State) (n : Nat) (x : Pulse) : (setPulse s n x).clk = s.clk := by unfold setPulse; rfl
@[simp] theorem setPulse_servo (s : State) (n : Nat) (x : Pulse) : (setPulse s n x).servo = s.servo := by unfold setPulse; rfl
@[simp] theorem setPulse_capt (s : State) (n : Nat) (x : Pulse) : (setPulse s n x).capt = s.capt := by unfold setPulse; rfl
@[simp] theorem setPulse_cal (s : State) (n : Nat) (x : Pulse) : (setPulse s n x).cal = s.cal := by unfold setPulse; rfl
@[simp] theorem setPulse_mems (s : State) (n : Nat) (x : Pulse) : (setPulse s n x).mems = s.mems := by unfold setPulse; rfl
@[simp] theorem setPulse_cores (s : State) (n : Nat) (x : Pulse) : (setPulse s n x).cores = s.cores := by unfold setPulse; rfl
@[simp] theorem setPulse_clTok (s : State) (n : Nat) (x : Pulse) : (setPulse s n x).clTok = s.clTok := by unfold setPulse; rfl
@[simp] theorem setPulse_ctxs (s : State) (n : Nat) (x : Pulse) : (setPulse s n x).ctxs = s.ctxs := by unfold setPulse; rfl
@[simp] theorem setPulse_groups (s : State) (n : Nat) (x : Pulse) : (setPulse s n x).groups = s.groups := by unfold setPulse; rfl
@[simp] theorem setPulse_serial (s : State) (n : Nat) (x : Pulse) : (setPulse s n x).serial = s.serial := by unfold setPulse; rfl
@[simp] theorem setPulse_fns (s : State) (n : Nat) (x : Pulse) : (setPulse s n x).fns = s.fns := by unfold setPulse; rfl
@[simp] theorem setPulse_wins (s : State) (n : Nat) (x : Pulse) : (setPulse s n x).wins = s.wins := by unfold setPulse; rfl
@[simp] theorem setPulse_winPend (s : State) (n : Nat) (x : Pulse) : (setPulse s n x).winPend = s.winPend := by unfold setPulse; rfl
@[simp] theorem setPulse_sealKey (s : State) (n : Nat) (x : Pulse) : (setPulse s n x).sealKey = s.sealKey := by unfold setPulse; rfl
@[simp] theorem setPulse_images (s : State) (n : Nat) (x : Pulse) : (setPulse s n x).images = s.images := by unfold setPulse; rfl
@[simp] theorem setPulse_msix (s : State) (n : Nat) (x : Pulse) : (setPulse s n x).msix = s.msix := by unfold setPulse; rfl
@[simp] theorem setPulse_upset (s : State) (n : Nat) (x : Pulse) : (setPulse s n x).upset = s.upset := by unfold setPulse; rfl
@[simp] theorem setPulse_cells (s : State) (n : Nat) (x : Pulse) : (setPulse s n x).cells = s.cells := by unfold setPulse; rfl
@[simp] theorem setPulse_fsk (s : State) (n : Nat) (x : Pulse) : (setPulse s n x).fsk = s.fsk := by unfold setPulse; rfl
@[simp] theorem setPulse_codecs (s : State) (n : Nat) (x : Pulse) : (setPulse s n x).codecs = s.codecs := by unfold setPulse; rfl
@[simp] theorem setPulse_fhq (s : State) (n : Nat) (x : Pulse) : (setPulse s n x).fhq = s.fhq := by unfold setPulse; rfl
@[simp] theorem setPulse_sjs (s : State) (n : Nat) (x : Pulse) : (setPulse s n x).sjs = s.sjs := by unfold setPulse; rfl
@[simp] theorem setPulse_beadUse (s : State) (n : Nat) (x : Pulse) : (setPulse s n x).beadUse = s.beadUse := by unfold setPulse; rfl
@[simp] theorem setPulse_beadStamp (s : State) (n : Nat) (x : Pulse) : (setPulse s n x).beadStamp = s.beadStamp := by unfold setPulse; rfl
@[simp] theorem setPulse_sent (s : State) (n : Nat) (x : Pulse) : (setPulse s n x).sent = s.sent := by unfold setPulse; rfl
@[simp] theorem setPulse_uids (s : State) (n : Nat) (x : Pulse) : (setPulse s n x).uids = s.uids := by unfold setPulse; rfl
@[simp] theorem setPulse_fab (s : State) (n : Nat) (x : Pulse) : (setPulse s n x).fab = s.fab := by unfold setPulse; rfl
@[simp] theorem setPulse_jr (s : State) (n : Nat) (x : Pulse) : (setPulse s n x).jr = s.jr := by unfold setPulse; rfl
@[simp] theorem setPulse_mbx (s : State) (n : Nat) (x : Pulse) : (setPulse s n x).mbx = s.mbx := by unfold setPulse; rfl
@[simp] theorem setPulse_arbs (s : State) (n : Nat) (x : Pulse) : (setPulse s n x).arbs = s.arbs := by unfold setPulse; rfl
@[simp] theorem setPulse_move (s : State) (n : Nat) (x : Pulse) : (setPulse s n x).move = s.move := by unfold setPulse; rfl
@[simp] theorem setPulse_scrub (s : State) (n : Nat) (x : Pulse) : (setPulse s n x).scrub = s.scrub := by unfold setPulse; rfl
@[simp] theorem setPulse_operatorKey (s : State) (n : Nat) (x : Pulse) : (setPulse s n x).operatorKey = s.operatorKey := by unfold setPulse; rfl
@[simp] theorem setPulse_vig (s : State) (n : Nat) (x : Pulse) : (setPulse s n x).vig = s.vig := by unfold setPulse; rfl
@[simp] theorem setPulse_pwrSw (s : State) (n : Nat) (x : Pulse) : (setPulse s n x).pwrSw = s.pwrSw := by unfold setPulse; rfl
@[simp] theorem setPulse_scrubMs (s : State) (n : Nat) (x : Pulse) : (setPulse s n x).scrubMs = s.scrubMs := by unfold setPulse; rfl
@[simp] theorem setPulse_latches (s : State) (n : Nat) (x : Pulse) : (setPulse s n x).latches = s.latches := by unfold setPulse; rfl
@[simp] theorem setPulse_smbOp (s : State) (n : Nat) (x : Pulse) : (setPulse s n x).smbOp = s.smbOp := by unfold setPulse; rfl
@[simp] theorem setPulse_cpFw (s : State) (n : Nat) (x : Pulse) : (setPulse s n x).cpFw = s.cpFw := by unfold setPulse; rfl
@[simp] theorem setPulse_fwResults (s : State) (n : Nat) (x : Pulse) : (setPulse s n x).fwResults = s.fwResults := by unfold setPulse; rfl
@[simp] theorem setPulse_fuses (s : State) (n : Nat) (x : Pulse) : (setPulse s n x).fuses = s.fuses := by unfold setPulse; rfl

/-- Registers read alike in states that agree on them. -/
theorem rdReg_congr {s t : State} (h : t.regs = s.regs) (g : t.behaveReset = s.behaveReset) (o : Nat) : rdReg t o = rdReg s o := by
  unfold rdReg; rw [h, g]

theorem get_congr {s t : State} (h : t.regs = s.regs) (g : t.behaveReset = s.behaveReset) (f : Fld) (i k : Nat) :
    t.get f i k = s.get f i k := by
  unfold State.get; rw [rdReg_congr h g]

@[simp] theorem setCore_rdReg (s : State) (n : Nat) (x : Core) (o : Nat) : rdReg (setCore s n x) o = rdReg s o := rdReg_congr (setCore_regs ..) (setCore_behaveReset ..) o
@[simp] theorem setCore_get (s : State) (n : Nat) (x : Core) (f : Fld) (i k : Nat) : (setCore s n x).get f i k = s.get f i k := get_congr (setCore_regs ..) (setCore_behaveReset ..) f i k
@[simp] theorem setCtx_rdReg (s : State) (n : Nat) (x : Ctx) (o : Nat) : rdReg (setCtx s n x) o = rdReg s o := rdReg_congr (setCtx_regs ..) (setCtx_behaveReset ..) o
@[simp] theorem setCtx_get (s : State) (n : Nat) (x : Ctx) (f : Fld) (i k : Nat) : (setCtx s n x).get f i k = s.get f i k := get_congr (setCtx_regs ..) (setCtx_behaveReset ..) f i k
@[simp] theorem setGroup_rdReg (s : State) (n : Nat) (x : Group) (o : Nat) : rdReg (setGroup s n x) o = rdReg s o := rdReg_congr (setGroup_regs ..) (setGroup_behaveReset ..) o
@[simp] theorem setGroup_get (s : State) (n : Nat) (x : Group) (f : Fld) (i k : Nat) : (setGroup s n x).get f i k = s.get f i k := get_congr (setGroup_regs ..) (setGroup_behaveReset ..) f i k
@[simp] theorem setFn_rdReg (s : State) (n : Nat) (x : FnSet) (o : Nat) : rdReg (setFn s n x) o = rdReg s o := rdReg_congr (setFn_regs ..) (setFn_behaveReset ..) o
@[simp] theorem setFn_get (s : State) (n : Nat) (x : FnSet) (f : Fld) (i k : Nat) : (setFn s n x).get f i k = s.get f i k := get_congr (setFn_regs ..) (setFn_behaveReset ..) f i k
@[simp] theorem setWin_rdReg (s : State) (a w : Nat) (x : Win) (o : Nat) : rdReg (setWin s a w x) o = rdReg s o := rdReg_congr (setWin_regs ..) (setWin_behaveReset ..) o
@[simp] theorem setWin_get (s : State) (a w : Nat) (x : Win) (f : Fld) (i k : Nat) : (setWin s a w x).get f i k = s.get f i k := get_congr (setWin_regs ..) (setWin_behaveReset ..) f i k
@[simp] theorem setSj_rdReg (s : State) (n : Nat) (x : Sj) (o : Nat) : rdReg (setSj s n x) o = rdReg s o := rdReg_congr (setSj_regs ..) (setSj_behaveReset ..) o
@[simp] theorem setSj_get (s : State) (n : Nat) (x : Sj) (f : Fld) (i k : Nat) : (setSj s n x).get f i k = s.get f i k := get_congr (setSj_regs ..) (setSj_behaveReset ..) f i k
@[simp] theorem setCell_rdReg (s : State) (n : Nat) (x : Cell) (o : Nat) : rdReg (setCell s n x) o = rdReg s o := rdReg_congr (setCell_regs ..) (setCell_behaveReset ..) o
@[simp] theorem setCell_get (s : State) (n : Nat) (x : Cell) (f : Fld) (i k : Nat) : (setCell s n x).get f i k = s.get f i k := get_congr (setCell_regs ..) (setCell_behaveReset ..) f i k
@[simp] theorem setFsk_rdReg (s : State) (n : Nat) (x : FskGrp) (o : Nat) : rdReg (setFsk s n x) o = rdReg s o := rdReg_congr (setFsk_regs ..) (setFsk_behaveReset ..) o
@[simp] theorem setFsk_get (s : State) (n : Nat) (x : FskGrp) (f : Fld) (i k : Nat) : (setFsk s n x).get f i k = s.get f i k := get_congr (setFsk_regs ..) (setFsk_behaveReset ..) f i k
@[simp] theorem setCodec_rdReg (s : State) (n : Nat) (x : Codec) (o : Nat) : rdReg (setCodec s n x) o = rdReg s o := rdReg_congr (setCodec_regs ..) (setCodec_behaveReset ..) o
@[simp] theorem setCodec_get (s : State) (n : Nat) (x : Codec) (f : Fld) (i k : Nat) : (setCodec s n x).get f i k = s.get f i k := get_congr (setCodec_regs ..) (setCodec_behaveReset ..) f i k
@[simp] theorem setPulse_rdReg (s : State) (n : Nat) (x : Pulse) (o : Nat) : rdReg (setPulse s n x) o = rdReg s o := rdReg_congr (setPulse_regs ..) (setPulse_behaveReset ..) o
@[simp] theorem setPulse_get (s : State) (n : Nat) (x : Pulse) (f : Fld) (i k : Nat) : (setPulse s n x).get f i k = s.get f i k := get_congr (setPulse_regs ..) (setPulse_behaveReset ..) f i k

end Sys2Proof.Machine
end

