-- ==== Sys2Proof/Laws/Fields.lean ====
section
/-! SUPPORT. Reads of register fields and of function states after the shared updates, in a sound state. -/

namespace Sys2Proof.Machine

/-- A field reads what was written to it. -/
theorem get_set_self (s : State) (f : Fld) (v i k : Nat) (hb : s.behaveReset = []) (hw : f.lo + f.w ≤ 32) :
    (s.set f v i k).get f i k = v % 2 ^ f.w := get_set _ _ _ _ _ hw (by simp [hb])

/-- Another field of the register written reads as before. -/
theorem get_set_beside (s : State) (f g : Fld) (v i k j l : Nat) (hb : s.behaveReset = []) (ha : g.addr j l = f.addr i k)
    (hw : f.lo + f.w ≤ 32) (hd : f.lo + f.w ≤ g.lo ∨ g.lo + g.w ≤ f.lo) : (s.set f v i k).get g j l = s.get g j l :=
  get_set_field _ _ _ _ _ _ _ _ ha hw (by simp [hb]) hd

/-- A field reads what was written to the same bits under another name. -/
theorem get_set_alias (s : State) (f g : Fld) (v i k j l : Nat) (hb : s.behaveReset = []) (ha : g.addr j l = f.addr i k)
    (hl : g.lo = f.lo) (hw : g.w = f.w) (h : f.lo + f.w ≤ 32) : (s.set f v i k).get g j l = v % 2 ^ g.w := by
  have e : (s.set f v i k).get g j l = (s.set f v i k).get f i k := by unfold State.get; rw [ha, hl, hw]
  rw [e, get_set_self _ _ _ _ _ hb h, hw]

/-- A one-bit field reads 0 or 1. -/
theorem get_one (s : State) (f : Fld) (i k : Nat) (h : f.w = 1) : s.get f i k = 0 ∨ s.get f i k = 1 := by
  have : s.get f i k < 2 ^ f.w := getBits_lt _ _ _
  rw [h] at this; omega

/-- A field is below the power of its width. -/
theorem get_lt (s : State) (f : Fld) (i k : Nat) : s.get f i k < 2 ^ f.w := getBits_lt _ _ _

/-- A one-bit field as a truth value. -/
theorem bit_iff (s : State) (f : Fld) (i k : Nat) (h : f.w = 1) : (s.bit f i k = true) ↔ s.get f i k = 1 := by
  unfold State.bit
  have := get_one s f i k h
  simp; omega

/-- Two fields of one register have one address. -/
theorem addr_same (f g : Fld) (i k : Nat) (h1 : f.off = g.off) (h2 : f.s1 = g.s1) (h3 : f.s2 = g.s2) :
    f.addr i k = g.addr i k := by unfold Fld.addr; rw [h1, h2, h3]

/-- A field without strides lies at its offset. -/
theorem addr_plain (o a b : Nat) : (⟨o, a, b, 0, 0⟩ : Fld).addr 0 0 = o := by simp [Fld.addr]

/-- The state field of a function as a field of its status register. -/
abbrev stateFld (o : Nat) : Fld := ⟨o, 0, 3, 0, 0⟩

/-- The fault code of a function as a field of its status register. -/
abbrev codeFld (o : Nat) : Fld := ⟨o, 24, 8, 0, 0⟩

theorem fnState_eq (s : State) (o : Nat) : fnState s o = s.get (stateFld o) := by simp [fnState, State.get, Fld.addr]
theorem setFnState_eq (s : State) (o v : Nat) : setFnState s o v = s.set (stateFld o) v := by
  simp [setFnState, State.set, Fld.addr]
theorem setFnCode_eq (s : State) (o c : Nat) : setFnCode s o c = s.set (codeFld o) c := by
  simp [setFnCode, State.set, Fld.addr]
theorem faultFn_eq (s : State) (o c : Nat) : faultFn s o c = (s.set (codeFld o) c).set (stateFld o) Fn.faulted := by
  simp [faultFn, setFnState_eq, setFnCode_eq]
theorem rejectCfg_eq (s : State) (o : Nat) : rejectCfg s o = s.set ⟨o, 15, 1, 0, 0⟩ 1 := by
  simp [rejectCfg, State.set, Fld.addr]

/-- No mismatch stands in a sound state. -/
theorem parityHeld_sound (s : State) (o : Nat) (h : s.upset = []) : parityHeld s o = false := by
  unfold parityHeld; simp [h]

theorem putBits_state_again (x : Word) (a c b : Nat) :
    putBits (putBits (putBits x 0 3 a) 24 8 c) 0 3 b = putBits (putBits x 24 8 c) 0 3 b := by
  have hx := x.isLt
  apply BitVec.eq_of_toNat_eq
  simp only [putBits, BitVec.toNat_ofNat, Nat.reducePow, Nat.reduceAdd, Nat.mul_one, Nat.mod_one, Nat.add_zero] at hx ⊢
  omega

/-- The word written last holds the last state and code. -/
theorem setFn_again (s : State) (o a c b : Nat) :
    setFnState (setFnCode (setFnState s o a) o c) o b = setFnState (setFnCode s o c) o b := by
  have e : ∀ (s : State) (v : Word), mapGet resetWord (wrReg s o v).regs o = v := fun s v => mapGet_put_self _ _ _ _
  simp only [setFnState, setFnCode, e, wrReg_wrReg, putBits_state_again]

/-- START of a STOPPED function in a sound state: RUNNING with DONE, or FAULTED with the check's code. -/
theorem startFn_stopped (s : State) (o : Nat) (c : Option Nat) (hs : s.upset = []) (h : fnState s o = Fn.stopped) :
    startFn s o c = match c with
      | none => setFnState (setFnCode s o Code.done) o Fn.running
      | some x => faultFn s o x := by
  have e : parityHeld (setFnState s o Fn.starting) o = false :=
    parityHeld_sound _ _ ((setFnState_upset s o Fn.starting).trans hs)
  unfold startFn; rw [if_pos h]; simp only [e]
  cases c with
  | none => exact setFn_again s o _ _ _
  | some x => unfold faultFn; exact setFn_again s o _ _ _

/-- START of a function that is not STOPPED changes nothing. -/
theorem startFn_ignored (s : State) (o : Nat) (c : Option Nat) (h : fnState s o ≠ Fn.stopped) : startFn s o c = s := by
  unfold startFn; rw [if_neg h]

end Sys2Proof.Machine
end

