-- ==== Sys2Proof/Laws/Keeps.lean ====
section
/-! SUPPORT. What an operation keeps: the canonical form of registers and memories, and every part of the state outside a set
of parts. The set is a number, bit i standing for the i-th field of the state. -/

namespace Sys2Proof.Machine

/-- The number of a part: its place among the fields of the state. -/
def Part.idx (p : Part) : Nat := p.ctorIdx

/-- From one state to another the canonical form is kept, and every part outside the set is as before. -/
def Keeps (m : Nat) (s t : State) : Prop :=
  (s.wf = true → t.wf = true) ∧ ∀ p : Part, m.testBit p.idx = false → p.same s t

/-- A step may leave no state, or one that keeps all this. -/
structure KeepsO (m : Nat) (s : State) (o : Option State) : Prop where
  of : ∀ t, o = some t → Keeps m s t

structure KeepsO1 {α : Type} (m : Nat) (s : State) (o : Option (State × α)) : Prop where
  of : ∀ p, o = some p → Keeps m s p.1

structure KeepsO2 {α : Type} (m : Nat) (s : State) (o : Option (α × State)) : Prop where
  of : ∀ p, o = some p → Keeps m s p.2

structure KeepsX (m : Nat) (s : State) (o : Out) : Prop where
  of : ∀ t, o = .next t → Keeps m s t

structure Keeps1 {α : Type} (m : Nat) (s : State) (p : State × α) : Prop where
  of : Keeps m s p.1

structure Keeps2 {α : Type} (m : Nat) (s : State) (p : α × State) : Prop where
  of : Keeps m s p.2

structure Keeps22 {α β : Type} (m : Nat) (s : State) (p : α × β × State) : Prop where
  of : Keeps m s p.2.2

structure Keeps11 {α β : Type} (m : Nat) (s : State) (p : (State × α) × β) : Prop where
  of : Keeps m s p.1.1

structure KeepsE (m : Nat) (s : State) (o : Except (Nat × State) State) : Prop where
  ok : ∀ t, o = .ok t → Keeps m s t
  err : ∀ c t, o = .error (c, t) → Keeps m s t

theorem landTrans {m a b : Nat} (h : m.land a = a) (g : a.land b = b) : m.land b = b := by
  show m &&& b = b
  have h' : m &&& a = a := h
  have g' : a &&& b = b := g
  rw [← g', ← Nat.and_assoc, h']

theorem Keeps.refl (m : Nat) (s : State) : Keeps m s s :=
  ⟨id, fun p _ => by cases p <;> rfl⟩

theorem Part.same_trans {p : Part} {s t u : State} (h : p.same s t) (g : p.same t u) : p.same s u := by
  cases p <;> exact Eq.trans g h

theorem Keeps.trans {m : Nat} {s t u : State} (h : Keeps m s t) (g : Keeps m t u) : Keeps m s u :=
  ⟨fun w => g.1 (h.1 w), fun p hp => Part.same_trans (h.2 p hp) (g.2 p hp)⟩

theorem Part.mem_every (p : Part) : p ∈ Part.every := by
  cases p <;> decide

/-- The set of parts that may change, as a list. -/
theorem Keeps.same {m : Nat} {s t : State} (h : Keeps m s t) (l : List Part)
    (hl : Part.every.all (fun p => !m.testBit p.idx || l.elem p) = true) : sameBut l s t := by
  intro p hp
  refine h.2 p ?_
  have := List.all_eq_true.mp hl p p.mem_every
  cases hb : m.testBit p.idx
  · rfl
  · rw [hb] at this
    exact absurd (by simpa using this) hp

/-- An update of the parts in a set keeps the others. -/
theorem keepsOf {m a : Nat} {s0 s t : State} (hm : m.land a = a)
    (hs : ∀ p : Part, a.testBit p.idx = false → p.same s t) (hw : s.wf = true → t.wf = true)
    (h : Keeps m s0 s) : Keeps m s0 t := by
  refine h.trans ⟨hw, fun p hp => hs p ?_⟩
  have e : m &&& a = a := hm
  have : (m &&& a).testBit p.idx = false := by simp [Nat.testBit_and, hp]
  rwa [e] at this

theorem ite_keeps {m : Nat} {s0 a b : State} {c : Prop} [Decidable c] (ha : Keeps m s0 a) (hb : Keeps m s0 b) :
    Keeps m s0 (if c then a else b) := by
  split <;> assumption

theorem pair1 {α : Type} {m : Nat} {s0 t : State} {a : α} (h : Keeps m s0 t) : Keeps1 m s0 (t, a) := ⟨h⟩

theorem pair2 {α : Type} {m : Nat} {s0 t : State} {a : α} (h : Keeps m s0 t) : Keeps2 m s0 (a, t) := ⟨h⟩

theorem pair22 {α β : Type} {m : Nat} {s0 t : State} {a : α} {b : β} (h : Keeps m s0 t) : Keeps22 m s0 (a, b, t) := ⟨h⟩

theorem pair11 {α β : Type} {m : Nat} {s0 t : State} {a : α} {b : β} (h : Keeps m s0 t) :
    Keeps11 m s0 ((t, a), b) := ⟨h⟩

theorem pairOf1 {α β : Type} {m : Nat} {s0 : State} {p : State × α} {b : β} (h : Keeps1 m s0 p) :
    Keeps11 m s0 (p, b) := ⟨h.of⟩

theorem Keeps11.fst {α β : Type} {m : Nat} {s0 : State} {p : (State × α) × β} (h : Keeps11 m s0 p) :
    Keeps1 m s0 p.1 := ⟨h.of⟩

theorem ite_keeps1 {α : Type} {m : Nat} {s0 : State} {a b : State × α} {c : Prop} [Decidable c]
    (ha : Keeps1 m s0 a) (hb : Keeps1 m s0 b) : Keeps1 m s0 (if c then a else b) := by
  split <;> assumption

theorem ite_keeps2 {α : Type} {m : Nat} {s0 : State} {a b : α × State} {c : Prop} [Decidable c]
    (ha : Keeps2 m s0 a) (hb : Keeps2 m s0 b) : Keeps2 m s0 (if c then a else b) := by
  split <;> assumption

theorem ite_keepsO {m : Nat} {s0 : State} {a b : Option State} {c : Prop} [Decidable c]
    (ha : KeepsO m s0 a) (hb : KeepsO m s0 b) : KeepsO m s0 (if c then a else b) := by
  split <;> assumption

theorem next_keeps {m : Nat} {s0 t : State} (h : Keeps m s0 t) : KeepsX m s0 (.next t) := by
  constructor; intro u e; cases e; exact h

theorem some_keeps {m : Nat} {s0 t : State} (h : Keeps m s0 t) : KeepsO m s0 (some t) := by
  constructor; intro u e; cases e; exact h

theorem none_keeps {m : Nat} {s0 : State} : KeepsO m s0 none := by
  constructor; intro u e; cases e

theorem some_keeps1 {α : Type} {m : Nat} {s0 : State} {p : State × α} (h : Keeps1 m s0 p) :
    KeepsO1 m s0 (some p) := by
  constructor; intro u e; cases e; exact h.of

theorem none_keeps1 {α : Type} {m : Nat} {s0 : State} : KeepsO1 m s0 (none : Option (State × α)) := by
  constructor; intro u e; cases e

theorem some_keeps2 {α : Type} {m : Nat} {s0 : State} {p : α × State} (h : Keeps2 m s0 p) :
    KeepsO2 m s0 (some p) := by
  constructor; intro u e; cases e; exact h.of

theorem none_keeps2 {α : Type} {m : Nat} {s0 : State} : KeepsO2 m s0 (none : Option (α × State)) := by
  constructor; intro u e; cases e

theorem getD_keeps {m : Nat} {s0 d : State} {o : Option State} (h : KeepsO m s0 o) (hd : Keeps m s0 d) :
    Keeps m s0 (o.getD d) := by
  cases o with
  | none => exact hd
  | some t => exact h.of t rfl

theorem bind_keeps {m : Nat} {s0 : State} {o : Option State} {f : State → Option State} (h : KeepsO m s0 o)
    (hf : ∀ t, Keeps m s0 t → KeepsO m s0 (f t)) : KeepsO m s0 (o.bind f) := by
  cases o with
  | none => exact none_keeps
  | some t => exact hf t (h.of t rfl)

theorem findSome_keeps {α : Type} {m : Nat} {s0 : State} {f : α → Option State} {l : List α}
    (hf : ∀ a, KeepsO m s0 (f a)) : KeepsO m s0 (l.findSome? f) := by
  induction l with
  | nil => exact none_keeps
  | cons a t ih =>
    simp only [List.findSome?]
    cases h : f a with
    | none => exact ih
    | some u => exact some_keeps ((hf a).of u h)

theorem ofSome {m : Nat} {s0 t : State} {o : Option State} (e : o = some t) (h : KeepsO m s0 o) : Keeps m s0 t := h.of t e

theorem ofSome1 {α : Type} {m : Nat} {s0 t : State} {a : α} {o : Option (State × α)} (e : o = some (t, a))
    (h : KeepsO1 m s0 o) : Keeps m s0 t := h.of _ e

theorem ofSome2 {α : Type} {m : Nat} {s0 t : State} {a : α} {o : Option (α × State)} (e : o = some (a, t))
    (h : KeepsO2 m s0 o) : Keeps m s0 t := h.of _ e

theorem ofPair1 {α : Type} {m : Nat} {s0 t : State} {a : α} {o : State × α} (e : o = (t, a))
    (h : Keeps1 m s0 o) : Keeps m s0 t := by subst e; exact h.of

theorem ofPair2 {α : Type} {m : Nat} {s0 t : State} {a : α} {o : α × State} (e : o = (a, t))
    (h : Keeps2 m s0 o) : Keeps m s0 t := by subst e; exact h.of

theorem ofPair22 {α β : Type} {m : Nat} {s0 t : State} {a : α} {b : β} {o : α × β × State} (e : o = (a, b, t))
    (h : Keeps22 m s0 o) : Keeps m s0 t := by subst e; exact h.of

theorem ok_keepsE {m : Nat} {s0 t : State} (h : Keeps m s0 t) : KeepsE m s0 (.ok t) := by
  constructor
  · intro u e; cases e; exact h
  · intro c u e; cases e

theorem err_keepsE {m : Nat} {s0 t : State} {c : Nat} (h : Keeps m s0 t) : KeepsE m s0 (.error (c, t)) := by
  constructor
  · intro u e; cases e
  · intro d u e; cases e; exact h

theorem ofOk {m : Nat} {s0 t : State} {o : Except (Nat × State) State} (e : o = .ok t) (h : KeepsE m s0 o) :
    Keeps m s0 t := h.ok t e

theorem ofErr {m : Nat} {s0 t : State} {c : Nat} {o : Except (Nat × State) State} (e : o = .error (c, t))
    (h : KeepsE m s0 o) : Keeps m s0 t := h.err c t e

theorem ofPair11 {α β : Type} {m : Nat} {s0 t : State} {a : α} {b : β} {o : (State × α) × β} (e : o = ((t, a), b))
    (h : Keeps11 m s0 o) : Keeps m s0 t := by subst e; exact h.of

theorem foldl_keeps11 {α β γ : Type} {m : Nat} {s0 : State} {p : (State × β) × γ}
    {f : (State × β) × γ → α → (State × β) × γ} {l : List α}
    (hf : ∀ t x, Keeps11 m s0 t → Keeps11 m s0 (f t x)) (h : Keeps11 m s0 p) :
    Keeps11 m s0 (l.foldl f p) := by
  induction l generalizing p with
  | nil => exact h
  | cons x t ih => exact ih (hf _ _ h)

theorem foldl_keeps {α : Type} {m : Nat} {s0 s : State} {f : State → α → State} {l : List α}
    (hf : ∀ t x, Keeps m s0 t → Keeps m s0 (f t x)) (h : Keeps m s0 s) : Keeps m s0 (l.foldl f s) := by
  induction l generalizing s with
  | nil => exact h
  | cons x t ih => exact ih (hf _ _ h)

theorem foldl_keeps1 {α β : Type} {m : Nat} {s0 : State} {p : State × β} {f : State × β → α → State × β} {l : List α}
    (hf : ∀ t x, Keeps1 m s0 t → Keeps1 m s0 (f t x)) (h : Keeps1 m s0 p) : Keeps1 m s0 (l.foldl f p) := by
  induction l generalizing p with
  | nil => exact h
  | cons x t ih => exact ih (hf _ _ h)

/-! One lemma for each set of fields that a record update of the model replaces. -/

theorem upd_arbs {m : Nat} {s0 s : State} (hm : m.land 34359738368 = 34359738368) (v0 : SMap Arb)
    (h : Keeps m s0 s) : Keeps m s0 { s with arbs := v0 } :=
  keepsOf (s := s) hm (fun p hp => by cases p <;> first | rfl | exact absurd hp (by decide)) (fun w => w) h

theorem upd_beadStamp {m : Nat} {s0 s : State} (hm : m.land 536870912 = 536870912) (v0 : Option Nat)
    (h : Keeps m s0 s) : Keeps m s0 { s with beadStamp := v0 } :=
  keepsOf (s := s) hm (fun p hp => by cases p <;> first | rfl | exact absurd hp (by decide)) (fun w => w) h

theorem upd_beadUse {m : Nat} {s0 s : State} (hm : m.land 268435456 = 268435456) (v0 : List Nat)
    (h : Keeps m s0 s) : Keeps m s0 { s with beadUse := v0 } :=
  keepsOf (s := s) hm (fun p hp => by cases p <;> first | rfl | exact absurd hp (by decide)) (fun w => w) h

theorem upd_behaveReset {m : Nat} {s0 s : State} (hm : m.land 8 = 8) (v0 : List Nat)
    (h : Keeps m s0 s) : Keeps m s0 { s with behaveReset := v0 } :=
  keepsOf (s := s) hm (fun p hp => by cases p <;> first | rfl | exact absurd hp (by decide)) (fun w => w) h

theorem upd_behaveReset_upset {m : Nat} {s0 s : State} (hm : m.land 4194312 = 4194312) (v0 : List Nat) (v1 : List Nat)
    (h : Keeps m s0 s) : Keeps m s0 { s with behaveReset := v0, upset := v1 } :=
  keepsOf (s := s) hm (fun p hp => by cases p <;> first | rfl | exact absurd hp (by decide)) (fun w => w) h

theorem upd_cal {m : Nat} {s0 s : State} (hm : m.land 512 = 512) (v0 : CalSeq)
    (h : Keeps m s0 s) : Keeps m s0 { s with cal := v0 } :=
  keepsOf (s := s) hm (fun p hp => by cases p <;> first | rfl | exact absurd hp (by decide)) (fun w => w) h

theorem upd_cal_winPend {m : Nat} {s0 s : State} (hm : m.land 262656 = 262656) (v0 : CalSeq) (v1 : List (Nat × Win))
    (h : Keeps m s0 s) : Keeps m s0 { s with cal := v0, winPend := v1 } :=
  keepsOf (s := s) hm (fun p hp => by cases p <;> first | rfl | exact absurd hp (by decide)) (fun w => w) h

theorem upd_capt {m : Nat} {s0 s : State} (hm : m.land 256 = 256) (v0 : SMap (List (BitVec 64)))
    (h : Keeps m s0 s) : Keeps m s0 { s with capt := v0 } :=
  keepsOf (s := s) hm (fun p hp => by cases p <;> first | rfl | exact absurd hp (by decide)) (fun w => w) h

theorem upd_cells {m : Nat} {s0 s : State} (hm : m.land 8388608 = 8388608) (v0 : SMap Cell)
    (h : Keeps m s0 s) : Keeps m s0 { s with cells := v0 } :=
  keepsOf (s := s) hm (fun p hp => by cases p <;> first | rfl | exact absurd hp (by decide)) (fun w => w) h

theorem upd_clTok {m : Nat} {s0 s : State} (hm : m.land 4096 = 4096) (v0 : SMap Nat)
    (h : Keeps m s0 s) : Keeps m s0 { s with clTok := v0 } :=
  keepsOf (s := s) hm (fun p hp => by cases p <;> first | rfl | exact absurd hp (by decide)) (fun w => w) h

theorem upd_clk {m : Nat} {s0 s : State} (hm : m.land 32 = 32) (v0 : Clk)
    (h : Keeps m s0 s) : Keeps m s0 { s with clk := v0 } :=
  keepsOf (s := s) hm (fun p hp => by cases p <;> first | rfl | exact absurd hp (by decide)) (fun w => w) h

theorem upd_clk_servo {m : Nat} {s0 s : State} (hm : m.land 96 = 96) (v0 : Clk) (v1 : Servo)
    (h : Keeps m s0 s) : Keeps m s0 { s with clk := v0, servo := v1 } :=
  keepsOf (s := s) hm (fun p hp => by cases p <;> first | rfl | exact absurd hp (by decide)) (fun w => w) h

theorem upd_codecs {m : Nat} {s0 s : State} (hm : m.land 33554432 = 33554432) (v0 : SMap Codec)
    (h : Keeps m s0 s) : Keeps m s0 { s with codecs := v0 } :=
  keepsOf (s := s) hm (fun p hp => by cases p <;> first | rfl | exact absurd hp (by decide)) (fun w => w) h

theorem upd_cores {m : Nat} {s0 s : State} (hm : m.land 2048 = 2048) (v0 : SMap Core)
    (h : Keeps m s0 s) : Keeps m s0 { s with cores := v0 } :=
  keepsOf (s := s) hm (fun p hp => by cases p <;> first | rfl | exact absurd hp (by decide)) (fun w => w) h

theorem upd_cpFw {m : Nat} {s0 s : State} (hm : m.land 17592186044416 = 17592186044416) (v0 : Bytes)
    (h : Keeps m s0 s) : Keeps m s0 { s with cpFw := v0 } :=
  keepsOf (s := s) hm (fun p hp => by cases p <;> first | rfl | exact absurd hp (by decide)) (fun w => w) h

theorem upd_ctxs {m : Nat} {s0 s : State} (hm : m.land 8192 = 8192) (v0 : SMap Ctx)
    (h : Keeps m s0 s) : Keeps m s0 { s with ctxs := v0 } :=
  keepsOf (s := s) hm (fun p hp => by cases p <;> first | rfl | exact absurd hp (by decide)) (fun w => w) h

theorem upd_fab {m : Nat} {s0 s : State} (hm : m.land 4294967296 = 4294967296) (v0 : Fab)
    (h : Keeps m s0 s) : Keeps m s0 { s with fab := v0 } :=
  keepsOf (s := s) hm (fun p hp => by cases p <;> first | rfl | exact absurd hp (by decide)) (fun w => w) h

theorem upd_fhq {m : Nat} {s0 s : State} (hm : m.land 67108864 = 67108864) (v0 : SMap (List TxFrame))
    (h : Keeps m s0 s) : Keeps m s0 { s with fhq := v0 } :=
  keepsOf (s := s) hm (fun p hp => by cases p <;> first | rfl | exact absurd hp (by decide)) (fun w => w) h

theorem upd_fns {m : Nat} {s0 s : State} (hm : m.land 65536 = 65536) (v0 : SMap FnSet)
    (h : Keeps m s0 s) : Keeps m s0 { s with fns := v0 } :=
  keepsOf (s := s) hm (fun p hp => by cases p <;> first | rfl | exact absurd hp (by decide)) (fun w => w) h

theorem upd_freeIdx {m : Nat} {s0 s : State} (hm : m.land 2 = 2) (v0 : Nat)
    (h : Keeps m s0 s) : Keeps m s0 { s with freeIdx := v0 } :=
  keepsOf (s := s) hm (fun p hp => by cases p <;> first | rfl | exact absurd hp (by decide)) (fun w => w) h

theorem upd_fsk {m : Nat} {s0 s : State} (hm : m.land 16777216 = 16777216) (v0 : SMap FskGrp)
    (h : Keeps m s0 s) : Keeps m s0 { s with fsk := v0 } :=
  keepsOf (s := s) hm (fun p hp => by cases p <;> first | rfl | exact absurd hp (by decide)) (fun w => w) h

theorem upd_fwResults {m : Nat} {s0 s : State} (hm : m.land 35184372088832 = 35184372088832) (v0 : List Bytes)
    (h : Keeps m s0 s) : Keeps m s0 { s with fwResults := v0 } :=
  keepsOf (s := s) hm (fun p hp => by cases p <;> first | rfl | exact absurd hp (by decide)) (fun w => w) h

theorem upd_groups {m : Nat} {s0 s : State} (hm : m.land 16384 = 16384) (v0 : SMap Group)
    (h : Keeps m s0 s) : Keeps m s0 { s with groups := v0 } :=
  keepsOf (s := s) hm (fun p hp => by cases p <;> first | rfl | exact absurd hp (by decide)) (fun w => w) h

theorem upd_images {m : Nat} {s0 s : State} (hm : m.land 1048576 = 1048576) (v0 : SMap Img)
    (h : Keeps m s0 s) : Keeps m s0 { s with images := v0 } :=
  keepsOf (s := s) hm (fun p hp => by cases p <;> first | rfl | exact absurd hp (by decide)) (fun w => w) h

theorem upd_jr {m : Nat} {s0 s : State} (hm : m.land 8589934592 = 8589934592) (v0 : Jrnl)
    (h : Keeps m s0 s) : Keeps m s0 { s with jr := v0 } :=
  keepsOf (s := s) hm (fun p hp => by cases p <;> first | rfl | exact absurd hp (by decide)) (fun w => w) h

theorem upd_latches {m : Nat} {s0 s : State} (hm : m.land 4398046511104 = 4398046511104) (v0 : SMap Word)
    (h : Keeps m s0 s) : Keeps m s0 { s with latches := v0 } :=
  keepsOf (s := s) hm (fun p hp => by cases p <;> first | rfl | exact absurd hp (by decide)) (fun w => w) h

theorem upd_mbx {m : Nat} {s0 s : State} (hm : m.land 17179869184 = 17179869184) (v0 : Mbx)
    (h : Keeps m s0 s) : Keeps m s0 { s with mbx := v0 } :=
  keepsOf (s := s) hm (fun p hp => by cases p <;> first | rfl | exact absurd hp (by decide)) (fun w => w) h

theorem upd_mbx_smbOp {m : Nat} {s0 s : State} (hm : m.land 8813272891392 = 8813272891392) (v0 : Mbx) (v1 : Bool)
    (h : Keeps m s0 s) : Keeps m s0 { s with mbx := v0, smbOp := v1 } :=
  keepsOf (s := s) hm (fun p hp => by cases p <;> first | rfl | exact absurd hp (by decide)) (fun w => w) h

theorem upd_mems {m : Nat} {s0 s : State} (hm : m.land 1024 = 1024) (v0 : Mems) (hw : s.wf = true → v0.wf = true)
    (h : Keeps m s0 s) : Keeps m s0 { s with mems := v0 } :=
  keepsOf (s := s) hm (fun p hp => by cases p <;> first | rfl | exact absurd hp (by decide)) (fun w => Bool.and_eq_true_iff.mpr ⟨(Bool.and_eq_true_iff.mp w).1, hw w⟩) h

theorem upd_mems_clTok {m : Nat} {s0 s : State} (hm : m.land 5120 = 5120) (v0 : Mems) (v1 : SMap Nat) (hw : s.wf = true → v0.wf = true)
    (h : Keeps m s0 s) : Keeps m s0 { s with mems := v0, clTok := v1 } :=
  keepsOf (s := s) hm (fun p hp => by cases p <;> first | rfl | exact absurd hp (by decide)) (fun w => Bool.and_eq_true_iff.mpr ⟨(Bool.and_eq_true_iff.mp w).1, hw w⟩) h

theorem upd_move {m : Nat} {s0 s : State} (hm : m.land 68719476736 = 68719476736) (v0 : Move)
    (h : Keeps m s0 s) : Keeps m s0 { s with move := v0 } :=
  keepsOf (s := s) hm (fun p hp => by cases p <;> first | rfl | exact absurd hp (by decide)) (fun w => w) h

theorem upd_msix {m : Nat} {s0 s : State} (hm : m.land 2097152 = 2097152) (v0 : List (Nat × Nat))
    (h : Keeps m s0 s) : Keeps m s0 { s with msix := v0 } :=
  keepsOf (s := s) hm (fun p hp => by cases p <;> first | rfl | exact absurd hp (by decide)) (fun w => w) h

theorem upd_operatorKey_vig {m : Nat} {s0 s : State} (hm : m.land 824633720832 = 824633720832) (v0 : Bytes) (v1 : Vig)
    (h : Keeps m s0 s) : Keeps m s0 { s with operatorKey := v0, vig := v1 } :=
  keepsOf (s := s) hm (fun p hp => by cases p <;> first | rfl | exact absurd hp (by decide)) (fun w => w) h

theorem upd_pulses {m : Nat} {s0 s : State} (hm : m.land 128 = 128) (v0 : SMap Pulse)
    (h : Keeps m s0 s) : Keeps m s0 { s with pulses := v0 } :=
  keepsOf (s := s) hm (fun p hp => by cases p <;> first | rfl | exact absurd hp (by decide)) (fun w => w) h

theorem upd_pwrSw {m : Nat} {s0 s : State} (hm : m.land 1099511627776 = 1099511627776) (v0 : Option (Nat × Bool × Nat))
    (h : Keeps m s0 s) : Keeps m s0 { s with pwrSw := v0 } :=
  keepsOf (s := s) hm (fun p hp => by cases p <;> first | rfl | exact absurd hp (by decide)) (fun w => w) h

theorem upd_rdata {m : Nat} {s0 s : State} (hm : m.land 16 = 16) (v0 : BitVec 64)
    (h : Keeps m s0 s) : Keeps m s0 { s with rdata := v0 } :=
  keepsOf (s := s) hm (fun p hp => by cases p <;> first | rfl | exact absurd hp (by decide)) (fun w => w) h

theorem upd_regs {m : Nat} {s0 s : State} (hm : m.land 4 = 4) (v0 : SMap Word) (hr : s.wf = true → mapWf resetWord v0 = true)
    (h : Keeps m s0 s) : Keeps m s0 { s with regs := v0 } :=
  keepsOf (s := s) hm (fun p hp => by cases p <;> first | rfl | exact absurd hp (by decide)) (fun w => Bool.and_eq_true_iff.mpr ⟨hr w, (Bool.and_eq_true_iff.mp w).2⟩) h

theorem upd_regs_behaveReset_upset {m : Nat} {s0 s : State} (hm : m.land 4194316 = 4194316) (v0 : SMap Word) (v1 : List Nat) (v2 : List Nat) (hr : s.wf = true → mapWf resetWord v0 = true)
    (h : Keeps m s0 s) : Keeps m s0 { s with regs := v0, behaveReset := v1, upset := v2 } :=
  keepsOf (s := s) hm (fun p hp => by cases p <;> first | rfl | exact absurd hp (by decide)) (fun w => Bool.and_eq_true_iff.mpr ⟨hr w, (Bool.and_eq_true_iff.mp w).2⟩) h

theorem upd_scrub {m : Nat} {s0 s : State} (hm : m.land 137438953472 = 137438953472) (v0 : SMap Scrub)
    (h : Keeps m s0 s) : Keeps m s0 { s with scrub := v0 } :=
  keepsOf (s := s) hm (fun p hp => by cases p <;> first | rfl | exact absurd hp (by decide)) (fun w => w) h

theorem upd_scrubMs {m : Nat} {s0 s : State} (hm : m.land 2199023255552 = 2199023255552) (v0 : Nat)
    (h : Keeps m s0 s) : Keeps m s0 { s with scrubMs := v0 } :=
  keepsOf (s := s) hm (fun p hp => by cases p <;> first | rfl | exact absurd hp (by decide)) (fun w => w) h

theorem upd_sealKey_cpFw {m : Nat} {s0 s : State} (hm : m.land 17592186568704 = 17592186568704) (v0 : BitVec 64) (v1 : Bytes)
    (h : Keeps m s0 s) : Keeps m s0 { s with sealKey := v0, cpFw := v1 } :=
  keepsOf (s := s) hm (fun p hp => by cases p <;> first | rfl | exact absurd hp (by decide)) (fun w => w) h

theorem upd_sent {m : Nat} {s0 s : State} (hm : m.land 1073741824 = 1073741824) (v0 : List Sent)
    (h : Keeps m s0 s) : Keeps m s0 { s with sent := v0 } :=
  keepsOf (s := s) hm (fun p hp => by cases p <;> first | rfl | exact absurd hp (by decide)) (fun w => w) h

theorem upd_serial {m : Nat} {s0 s : State} (hm : m.land 32768 = 32768) (v0 : Nat)
    (h : Keeps m s0 s) : Keeps m s0 { s with serial := v0 } :=
  keepsOf (s := s) hm (fun p hp => by cases p <;> first | rfl | exact absurd hp (by decide)) (fun w => w) h

theorem upd_servo {m : Nat} {s0 s : State} (hm : m.land 64 = 64) (v0 : Servo)
    (h : Keeps m s0 s) : Keeps m s0 { s with servo := v0 } :=
  keepsOf (s := s) hm (fun p hp => by cases p <;> first | rfl | exact absurd hp (by decide)) (fun w => w) h

theorem upd_sjs {m : Nat} {s0 s : State} (hm : m.land 134217728 = 134217728) (v0 : SMap Sj)
    (h : Keeps m s0 s) : Keeps m s0 { s with sjs := v0 } :=
  keepsOf (s := s) hm (fun p hp => by cases p <;> first | rfl | exact absurd hp (by decide)) (fun w => w) h

theorem upd_uids {m : Nat} {s0 s : State} (hm : m.land 2147483648 = 2147483648) (v0 : Nat)
    (h : Keeps m s0 s) : Keeps m s0 { s with uids := v0 } :=
  keepsOf (s := s) hm (fun p hp => by cases p <;> first | rfl | exact absurd hp (by decide)) (fun w => w) h

theorem upd_upset {m : Nat} {s0 s : State} (hm : m.land 4194304 = 4194304) (v0 : List Nat)
    (h : Keeps m s0 s) : Keeps m s0 { s with upset := v0 } :=
  keepsOf (s := s) hm (fun p hp => by cases p <;> first | rfl | exact absurd hp (by decide)) (fun w => w) h

theorem upd_vig {m : Nat} {s0 s : State} (hm : m.land 549755813888 = 549755813888) (v0 : Vig)
    (h : Keeps m s0 s) : Keeps m s0 { s with vig := v0 } :=
  keepsOf (s := s) hm (fun p hp => by cases p <;> first | rfl | exact absurd hp (by decide)) (fun w => w) h

theorem upd_winPend {m : Nat} {s0 s : State} (hm : m.land 262144 = 262144) (v0 : List (Nat × Win))
    (h : Keeps m s0 s) : Keeps m s0 { s with winPend := v0 } :=
  keepsOf (s := s) hm (fun p hp => by cases p <;> first | rfl | exact absurd hp (by decide)) (fun w => w) h

theorem upd_wins {m : Nat} {s0 s : State} (hm : m.land 131072 = 131072) (v0 : SMap Win)
    (h : Keeps m s0 s) : Keeps m s0 { s with wins := v0 } :=
  keepsOf (s := s) hm (fun p hp => by cases p <;> first | rfl | exact absurd hp (by decide)) (fun w => w) h

end Sys2Proof.Machine
end

