-- ==== Sys2Proof/Laws/KeepsOps.lean ====
section
/-! SUPPORT. What each operation of Ops.lean keeps: the canonical form, and the parts of the state that it does not name. -/

namespace Sys2Proof.Machine


theorem wrReg_keeps {m : Nat} {s0 : State} (hm : m.land 4 = 4) (s : State) (o : ℕ) (v : Word) (h_s : Keeps m s0 s) :
    Keeps m s0 (wrReg s o v) := by
  unfold wrReg
  repeat' first
    | (intro w; simp only [State.wf, Mems.wf, Bool.and_eq_true] at w; try simp only [Mems.wf, Bool.and_eq_true]
       first | (simp [w.1, w.2, w, mapFilter_wf, mapPut_wf]; done) | (simp at w; simp [w, mapFilter_wf, mapPut_wf]; done))
    | with_reducible assumption
    | fail_if_no_progress (with_reducible refine upd_regs (landTrans hm (by decide)) _ ?_ ?_)

theorem State.set_keeps {m : Nat} {s0 : State} (hm : m.land 4 = 4) (s : State) (f : Fld) (v : ℕ) (i : optParam ℕ 0) (k : optParam ℕ 0) (h_s : Keeps m s0 s) :
    Keeps m s0 (State.set s f v i k) := by
  unfold State.set
  repeat' first
    | with_reducible assumption
    | with_reducible refine wrReg_keeps (landTrans hm (by decide)) _ _ _ ?_

theorem State.bump_keeps {m : Nat} {s0 : State} (hm : m.land 4 = 4) (s : State) (f : Fld) (i : optParam ℕ 0) (k : optParam ℕ 0) (d : optParam ℕ 1) (h_s : Keeps m s0 s) :
    Keeps m s0 (State.bump s f i k d) := by
  unfold State.bump
  repeat' first
    | with_reducible assumption
    | with_reducible refine State.set_keeps (landTrans hm (by decide)) _ _ _ _ _ ?_

theorem State.set2_keeps {m : Nat} {s0 : State} (hm : m.land 4 = 4) (s : State) (lo : Fld) (hi : Fld) (v : ℕ) (i : optParam ℕ 0) (k : optParam ℕ 0) (h_s : Keeps m s0 s) :
    Keeps m s0 (State.set2 s lo hi v i k) := by
  unfold State.set2
  repeat' first
    | with_reducible assumption
    | with_reducible refine State.set_keeps (landTrans hm (by decide)) _ _ _ _ _ ?_

theorem State.bump2_keeps {m : Nat} {s0 : State} (hm : m.land 4 = 4) (s : State) (lo : Fld) (hi : Fld) (i : optParam ℕ 0) (k : optParam ℕ 0) (d : optParam ℕ 1) (h_s : Keeps m s0 s) :
    Keeps m s0 (State.bump2 s lo hi i k d) := by
  unfold State.bump2
  repeat' first
    | with_reducible assumption
    | with_reducible refine State.set2_keeps (landTrans hm (by decide)) _ _ _ _ _ _ ?_

theorem State.bumpSat_keeps {m : Nat} {s0 : State} (hm : m.land 4 = 4) (s : State) (f : Fld) (i : optParam ℕ 0) (k : optParam ℕ 0) (d : optParam ℕ 1) (h_s : Keeps m s0 s) :
    Keeps m s0 (State.bumpSat s f i k d) := by
  unfold State.bumpSat
  repeat' first
    | with_reducible assumption
    | with_reducible refine State.set_keeps (landTrans hm (by decide)) _ _ _ _ _ ?_

theorem State.setS_keeps {m : Nat} {s0 : State} (hm : m.land 4 = 4) (s : State) (f : Fld) (v : ℤ) (i : optParam ℕ 0) (k : optParam ℕ 0) (h_s : Keeps m s0 s) :
    Keeps m s0 (State.setS s f v i k) := by
  unfold State.setS
  repeat' first
    | with_reducible assumption
    | with_reducible refine State.set_keeps (landTrans hm (by decide)) _ _ _ _ _ ?_

theorem forEach_keeps {α : Type} {m : Nat} {s0 : State} (_hm : m.land 0 = 0) (l : List α) (f : State → α → State) (s : State)
    (hf : ∀ x0 x1, Keeps m s0 x0 → Keeps m s0 (f x0 x1)) (h : Keeps m s0 s) : Keeps m s0 (forEach l f s) :=
  foldl_keeps hf h

theorem mbxEnd_keeps {m : Nat} {s0 : State} (hm : m.land 17179869184 = 17179869184) (s : State) (code : ℕ) (res : optParam (List ℕ) []) (h_s : Keeps m s0 s) :
    Keeps m s0 (mbxEnd s code res) := by
  unfold mbxEnd
  repeat' first
    | with_reducible assumption
    | (extract_lets -underBinder +onlyGivenNames x; clear_value x)
    | with_reducible refine ite_keeps ?_ ?_
    | fail_if_no_progress (with_reducible refine upd_mbx (landTrans hm (by decide)) _ ?_)

theorem setFnState_keeps {m : Nat} {s0 : State} (hm : m.land 4 = 4) (s : State) (st : ℕ) (v : ℕ) (h_s : Keeps m s0 s) :
    Keeps m s0 (setFnState s st v) := by
  unfold setFnState
  repeat' first
    | with_reducible assumption
    | with_reducible refine wrReg_keeps (landTrans hm (by decide)) _ _ _ ?_

theorem takeFree_keeps {m : Nat} {s0 : State} (hm : m.land 2 = 2) (s : State) (h_s : Keeps m s0 s) :
    Keeps2 m s0 (takeFree s) := by
  unfold takeFree
  repeat' first
    | with_reducible assumption
    | with_reducible refine pair2 ?_
    | fail_if_no_progress (with_reducible refine upd_freeIdx (landTrans hm (by decide)) _ ?_)

theorem setFnCode_keeps {m : Nat} {s0 : State} (hm : m.land 4 = 4) (s : State) (st : ℕ) (c : ℕ) (h_s : Keeps m s0 s) :
    Keeps m s0 (setFnCode s st c) := by
  unfold setFnCode
  repeat' first
    | with_reducible assumption
    | with_reducible refine wrReg_keeps (landTrans hm (by decide)) _ _ _ ?_

theorem faultFn_keeps {m : Nat} {s0 : State} (hm : m.land 4 = 4) (s : State) (st : ℕ) (c : ℕ) (h_s : Keeps m s0 s) :
    Keeps m s0 (faultFn s st c) := by
  unfold faultFn
  repeat' first
    | with_reducible assumption
    | with_reducible refine setFnState_keeps (landTrans hm (by decide)) _ _ _ ?_
    | with_reducible refine setFnCode_keeps (landTrans hm (by decide)) _ _ _ ?_

theorem startFn_keeps {m : Nat} {s0 : State} (hm : m.land 4 = 4) (s : State) (st : ℕ) (check : Option ℕ) (h_s : Keeps m s0 s) :
    Keeps m s0 (startFn s st check) := by
  unfold startFn
  repeat' first
    | with_reducible assumption
    | (extract_lets -underBinder +onlyGivenNames x; guard_hyp x : State := _; refine (fun (hx : Keeps m s0 x) => ?_) ?_ <;> [clear_value x; subst x])
    | with_reducible refine setFnState_keeps (landTrans hm (by decide)) _ _ _ ?_
    | with_reducible refine setFnCode_keeps (landTrans hm (by decide)) _ _ _ ?_
    | with_reducible refine faultFn_keeps (landTrans hm (by decide)) _ _ _ ?_
    | with_reducible refine ite_keeps ?_ ?_
    | split

theorem rewritten_keeps {m : Nat} {s0 : State} (hm : m.land 4194312 = 4194312) (s : State) (o : ℕ) (h_s : Keeps m s0 s) :
    Keeps m s0 (rewritten s o) := by
  unfold rewritten
  repeat' first
    | with_reducible assumption
    | fail_if_no_progress (with_reducible refine upd_behaveReset_upset (landTrans hm (by decide)) _ _ ?_)

theorem rejectCfg_keeps {m : Nat} {s0 : State} (hm : m.land 4 = 4) (s : State) (st : ℕ) (h_s : Keeps m s0 s) :
    Keeps m s0 (rejectCfg s st) := by
  unfold rejectCfg
  repeat' first
    | with_reducible assumption
    | with_reducible refine wrReg_keeps (landTrans hm (by decide)) _ _ _ ?_

theorem fused_keeps {m : Nat} {s0 : State} (hm : m.land 4 = 4) (s : State) (h_s : Keeps m s0 s) :
    Keeps m s0 (fused s) := by
  unfold fused
  repeat' first
    | with_reducible assumption
    | intro _
    | (extract_lets -underBinder +onlyGivenNames x; first
      | (guard_hyp x : State := _; refine (fun (hx : Keeps m s0 x) => ?_) ?_ <;> [clear_value x; subst x])
      | clear_value x)
    | with_reducible refine State.set2_keeps (landTrans hm (by decide)) _ _ _ _ _ _ ?_
    | with_reducible refine State.set_keeps (landTrans hm (by decide)) _ _ _ _ _ ?_
    | with_reducible refine setFnState_keeps (landTrans hm (by decide)) _ _ _ ?_
    | with_reducible refine ite_keeps ?_ ?_
    | with_reducible refine foldl_keeps ?_ ?_

end Sys2Proof.Machine
end

