-- ==== Sys2Proof/Laws/KeepsStore.lean ====
section
/-! SUPPORT. What each operation of Store.lean keeps: the canonical form, and the parts of the state that it does not name. -/

namespace Sys2Proof.Machine

theorem wrM_wf {m : SMap Byte} (a : Nat) (b : Byte) (h : mapWf byte0 m = true) : mapWf byte0 (wrM m a b) = true :=
  mapPut_wf byte0 a b h

theorem wrBytes_wf {m : SMap Byte} (a : Nat) (l : Bytes) (h : mapWf byte0 m = true) :
    mapWf byte0 (wrBytes m a l) = true := by
  induction l generalizing m a with
  | nil => exact h
  | cons b t ih => exact ih _ (wrM_wf _ _ h)

theorem poisonWrite_wf {p : SMap Bool} (a n : Nat) (bad : Bool) (h : mapWf clean0 p = true) :
    mapWf clean0 (poisonWrite p a n bad) = true := by
  unfold poisonWrite
  generalize granules a n = l
  induction l generalizing p with
  | nil => exact h
  | cons g t ih =>
    refine ih ?_
    by_cases hb : bad = true
    · simp only [hb, if_true]; exact mapPut_wf clean0 _ _ h
    · by_cases hc : a ≤ 64 * g ∧ 64 * g + 64 ≤ a + n
      · simp only [hb, hc, if_false, and_self, if_true, reduceIte, Bool.false_eq_true]; exact mapPut_wf clean0 _ _ h
      · simp only [hb, hc, if_false, reduceIte, Bool.false_eq_true]; exact h

theorem setCore_keeps {m : Nat} {s0 : State} (hm : m.land 2048 = 2048) (s : State) (n : ℕ) (x : Core) (h_s : Keeps m s0 s) :
    Keeps m s0 (setCore s n x) := by
  unfold setCore
  repeat' first
    | with_reducible assumption
    | fail_if_no_progress (with_reducible refine upd_cores (landTrans hm (by decide)) _ ?_)

theorem setCtx_keeps {m : Nat} {s0 : State} (hm : m.land 8192 = 8192) (s : State) (x : ℕ) (c : Ctx) (h_s : Keeps m s0 s) :
    Keeps m s0 (setCtx s x c) := by
  unfold setCtx
  repeat' first
    | with_reducible assumption
    | fail_if_no_progress (with_reducible refine upd_ctxs (landTrans hm (by decide)) _ ?_)

theorem devPut_keeps {m : Nat} {s0 : State} (hm : m.land 1024 = 1024) (s : State) (a : ℕ) (b : Byte) (h_s : Keeps m s0 s) :
    Keeps m s0 (devPut s a b) := by
  unfold devPut
  dsimp only
  repeat' first
    | (intro w; simp only [State.wf, Mems.wf, Bool.and_eq_true] at w; try simp only [Mems.wf, Bool.and_eq_true]
       first | (simp [w.1, w.2, w, wrBytes_wf, wrM_wf, poisonWrite_wf, mapDropRange, mapFilter_wf, mapPut_wf]; done) | (simp at w; simp [w, wrBytes_wf, wrM_wf, poisonWrite_wf, mapDropRange, mapFilter_wf, mapPut_wf]; done))
    | with_reducible assumption
    | split
    | fail_if_no_progress (with_reducible refine upd_mems (landTrans hm (by decide)) _ ?_ ?_)

theorem devPuts_keeps {m : Nat} {s0 : State} (hm : m.land 1024 = 1024) (s : State) (a : ℕ) (r : Bytes) (h_s : Keeps m s0 s) :
    Keeps m s0 (devPuts s a r) := by
  induction r generalizing s a with
  | nil =>
    unfold devPuts
    repeat' first
      | with_reducible assumption
  | cons b t ih =>
    unfold devPuts
    repeat' first
      | with_reducible assumption
      | with_reducible apply ih
      | with_reducible refine devPut_keeps (landTrans hm (by decide)) _ _ _ ?_

theorem devStore_keeps {m : Nat} {s0 : State} (hm : m.land 1024 = 1024) (s : State) (a : ℕ) (l : Bytes) (bad : optParam Bool false) (h_s : Keeps m s0 s) :
    Keeps m s0 (devStore s a l bad) := by
  unfold devStore
  dsimp only
  repeat' first
    | (intro w; simp only [State.wf, Mems.wf, Bool.and_eq_true] at w; try simp only [Mems.wf, Bool.and_eq_true]
       first | (simp [w.1, w.2, w, wrBytes_wf, wrM_wf, poisonWrite_wf, mapDropRange, mapFilter_wf, mapPut_wf]; done) | (simp at w; simp [w, wrBytes_wf, wrM_wf, poisonWrite_wf, mapDropRange, mapFilter_wf, mapPut_wf]; done))
    | with_reducible assumption
    | with_reducible refine devPuts_keeps (landTrans hm (by decide)) _ _ _ ?_
    | fail_if_no_progress (with_reducible refine upd_mems (landTrans hm (by decide)) _ ?_ ?_)

theorem setArb_keeps {m : Nat} {s0 : State} (hm : m.land 34359738368 = 34359738368) (s : State) (k : ℕ) (x : Arb) (h_s : Keeps m s0 s) :
    Keeps m s0 (setArb s k x) := by
  unfold setArb
  repeat' first
    | with_reducible assumption
    | fail_if_no_progress (with_reducible refine upd_arbs (landTrans hm (by decide)) _ ?_)

theorem raiseReq_keeps {m : Nat} {s0 : State} (hm : m.land 34359738368 = 34359738368) (s : State) (k : ℕ) (r : ℕ) (beats : ℕ) (lock : optParam Bool false) (core : optParam ℕ 0) (h_s : Keeps m s0 s) :
    Keeps m s0 (raiseReq s k r beats lock core) := by
  unfold raiseReq
  repeat' first
    | with_reducible assumption
    | (extract_lets -underBinder +onlyGivenNames x; clear_value x)
    | with_reducible refine setArb_keeps (landTrans hm (by decide)) _ _ _ ?_
    | with_reducible refine ite_keeps ?_ ?_

theorem raiseMem_keeps {m : Nat} {s0 : State} (hm : m.land 34359738368 = 34359738368) (s : State) (r : ℕ) (a : ℕ) (n : ℕ) (core : optParam ℕ 0) (lock : optParam Bool false) (h_s : Keeps m s0 s) :
    Keeps m s0 (raiseMem s r a n core lock) := by
  unfold raiseMem
  repeat' first
    | with_reducible assumption
    | intro _
    | (extract_lets -underBinder +onlyGivenNames x; clear_value x)
    | with_reducible refine forEach_keeps (landTrans hm (by decide)) _ _ _ ?_ ?_
    | with_reducible refine raiseReq_keeps (landTrans hm (by decide)) _ _ _ _ _ _ ?_
    | with_reducible refine ite_keeps ?_ ?_

theorem setGroup_keeps {m : Nat} {s0 : State} (hm : m.land 16384 = 16384) (s : State) (g : ℕ) (x : Group) (h_s : Keeps m s0 s) :
    Keeps m s0 (setGroup s g x) := by
  unfold setGroup
  repeat' first
    | with_reducible assumption
    | fail_if_no_progress (with_reducible refine upd_groups (landTrans hm (by decide)) _ ?_)

theorem setFn_keeps {m : Nat} {s0 : State} (hm : m.land 65536 = 65536) (s : State) (f : ℕ) (x : FnSet) (h_s : Keeps m s0 s) :
    Keeps m s0 (setFn s f x) := by
  unfold setFn
  repeat' first
    | with_reducible assumption
    | fail_if_no_progress (with_reducible refine upd_fns (landTrans hm (by decide)) _ ?_)

theorem poisonSeenDev_keeps {m : Nat} {s0 : State} (hm : m.land 4 = 4) (s : State) (a : ℕ) (h_s : Keeps m s0 s) :
    Keeps m s0 (poisonSeenDev s a) := by
  unfold poisonSeenDev
  repeat' first
    | with_reducible assumption
    | with_reducible refine State.set_keeps (landTrans hm (by decide)) _ _ _ _ _ ?_

theorem poisonSeenChip_keeps {m : Nat} {s0 : State} (hm : m.land 4 = 4) (s : State) (n : ℕ) (h_s : Keeps m s0 s) :
    Keeps m s0 (poisonSeenChip s n) := by
  unfold poisonSeenChip
  repeat' first
    | with_reducible assumption
    | with_reducible refine State.bumpSat_keeps (landTrans hm (by decide)) _ _ _ _ _ ?_
    | with_reducible refine State.set_keeps (landTrans hm (by decide)) _ _ _ _ _ ?_

theorem chipWrite_keeps {m : Nat} {s0 : State} (hm : m.land 1024 = 1024) (s : State) (n : ℕ) (space : ℕ) (a : ℕ) (l : Bytes) (bad : Bool) (h_s : Keeps m s0 s) :
    Keeps m s0 (chipWrite s n space a l bad) := by
  unfold chipWrite
  dsimp only
  repeat' first
    | (intro w; simp only [State.wf, Mems.wf, Bool.and_eq_true] at w; try simp only [Mems.wf, Bool.and_eq_true]
       first | (simp [w.1, w.2, w, wrBytes_wf, wrM_wf, poisonWrite_wf, mapDropRange, mapFilter_wf, mapPut_wf]; done) | (simp at w; simp [w, wrBytes_wf, wrM_wf, poisonWrite_wf, mapDropRange, mapFilter_wf, mapPut_wf]; done))
    | with_reducible assumption
    | split
    | fail_if_no_progress (with_reducible refine upd_mems (landTrans hm (by decide)) _ ?_ ?_)

theorem raiseBank_keeps {m : Nat} {s0 : State} (hm : m.land 34359738368 = 34359738368) (s : State) (n : ℕ) (r : ℕ) (a : ℕ) (len : ℕ) (h_s : Keeps m s0 s) :
    Keeps m s0 (raiseBank s n r a len) := by
  unfold raiseBank
  repeat' first
    | with_reducible assumption
    | intro _
    | with_reducible refine forEach_keeps (landTrans hm (by decide)) _ _ _ ?_ ?_
    | with_reducible refine raiseReq_keeps (landTrans hm (by decide)) _ _ _ _ _ _ ?_
    | with_reducible refine ite_keeps ?_ ?_

theorem setSj_keeps {m : Nat} {s0 : State} (hm : m.land 134217728 = 134217728) (s : State) (j : ℕ) (x : Sj) (h_s : Keeps m s0 s) :
    Keeps m s0 (setSj s j x) := by
  unfold setSj
  repeat' first
    | with_reducible assumption
    | fail_if_no_progress (with_reducible refine upd_sjs (landTrans hm (by decide)) _ ?_)

theorem setWin_keeps {m : Nat} {s0 : State} (hm : m.land 131072 = 131072) (s : State) (f : ℕ) (w : ℕ) (x : Win) (h_s : Keeps m s0 s) :
    Keeps m s0 (setWin s f w x) := by
  unfold setWin
  repeat' first
    | with_reducible assumption
    | fail_if_no_progress (with_reducible refine upd_wins (landTrans hm (by decide)) _ ?_)

theorem hubSee_keeps {m : Nat} {s0 : State} (hm : m.land 34359738372 = 34359738372) (s : State) (fn : ℕ) (a : ℕ) (n : ℕ) (h_s : Keeps m s0 s) :
    Keeps m s0 (hubSee s fn a n) := by
  unfold hubSee
  repeat' first
    | with_reducible assumption
    | with_reducible refine setFnCode_keeps (landTrans hm (by decide)) _ _ _ ?_
    | with_reducible refine raiseMem_keeps (landTrans hm (by decide)) _ _ _ _ _ _ ?_
    | with_reducible refine ite_keeps ?_ ?_

theorem seeDev_keeps {m : Nat} {s0 : State} (hm : m.land 4 = 4) (s : State) (a : ℕ) (n : ℕ) (h_s : Keeps m s0 s) :
    Keeps m s0 (seeDev s a n) := by
  unfold seeDev
  repeat' first
    | with_reducible assumption
    | intro _
    | with_reducible refine forEach_keeps (landTrans hm (by decide)) _ _ _ ?_ ?_
    | with_reducible refine poisonSeenDev_keeps (landTrans hm (by decide)) _ _ ?_

theorem hubStore_keeps {m : Nat} {s0 : State} (hm : m.land 34359739396 = 34359739396) (s : State) (fn : ℕ) (a : ℕ) (l : Bytes) (h_s : Keeps m s0 s) :
    Keeps m s0 (hubStore s fn a l) := by
  unfold hubStore
  repeat' first
    | with_reducible assumption
    | with_reducible refine setFnCode_keeps (landTrans hm (by decide)) _ _ _ ?_
    | with_reducible refine devStore_keeps (landTrans hm (by decide)) _ _ _ _ ?_
    | with_reducible refine raiseMem_keeps (landTrans hm (by decide)) _ _ _ _ _ _ ?_
    | with_reducible refine ite_keeps ?_ ?_

theorem devWrite_keeps {m : Nat} {s0 : State} (hm : m.land 1024 = 1024) (s : State) (a : ℕ) (l : Bytes) (bad : Bool) (h_s : Keeps m s0 s) :
    Keeps2 m s0 (devWrite s a l bad) := by
  unfold devWrite
  repeat' first
    | with_reducible assumption
    | (extract_lets -underBinder +onlyGivenNames x; clear_value x)
    | with_reducible refine devStore_keeps (landTrans hm (by decide)) _ _ _ _ ?_
    | with_reducible refine ite_keeps2 ?_ ?_
    | with_reducible refine pair2 ?_

theorem raiseAtomic_keeps {m : Nat} {s0 : State} (hm : m.land 34359738368 = 34359738368) (s : State) (a : ℕ) (h_s : Keeps m s0 s) :
    Keeps m s0 (raiseAtomic s a) := by
  unfold raiseAtomic
  repeat' first
    | with_reducible assumption
    | with_reducible refine raiseReq_keeps (landTrans hm (by decide)) _ _ _ _ _ _ ?_

theorem channelCe_keeps {m : Nat} {s0 : State} (hm : m.land 34359738372 = 34359738372) (s : State) (a1 : ℕ) (a : ℕ) (h_s : Keeps m s0 s) :
    Keeps m s0 (channelCe s a1 a) := by
  unfold channelCe
  repeat' first
    | with_reducible assumption
    | with_reducible refine raiseMem_keeps (landTrans hm (by decide)) _ _ _ _ _ _ ?_
    | with_reducible refine State.bumpSat_keeps (landTrans hm (by decide)) _ _ _ _ _ ?_

theorem channelUe_keeps {m : Nat} {s0 : State} (hm : m.land 1028 = 1028) (s : State) (a1 : ℕ) (a : ℕ) (h_s : Keeps m s0 s) :
    Keeps m s0 (channelUe s a1 a) := by
  unfold channelUe
  dsimp only
  repeat' first
    | (intro w; simp only [State.wf, Mems.wf, Bool.and_eq_true] at w; try simp only [Mems.wf, Bool.and_eq_true]
       first | (simp [w.1, w.2, w, wrBytes_wf, wrM_wf, poisonWrite_wf, mapDropRange, mapFilter_wf, mapPut_wf]; done) | (simp at w; simp [w, wrBytes_wf, wrM_wf, poisonWrite_wf, mapDropRange, mapFilter_wf, mapPut_wf]; done))
    | with_reducible assumption
    | with_reducible refine State.set2_keeps (landTrans hm (by decide)) _ _ _ _ _ _ ?_
    | with_reducible refine State.bumpSat_keeps (landTrans hm (by decide)) _ _ _ _ _ ?_
    | fail_if_no_progress (with_reducible refine upd_mems (landTrans hm (by decide)) _ ?_ ?_)

theorem devZero_keeps {m : Nat} {s0 : State} (hm : m.land 1024 = 1024) (s : State) (a : ℕ) (n : ℕ) (h_s : Keeps m s0 s) :
    Keeps m s0 (devZero s a n) := by
  unfold devZero
  dsimp only
  repeat' first
    | (intro w; simp only [State.wf, Mems.wf, Bool.and_eq_true] at w; try simp only [Mems.wf, Bool.and_eq_true]
       first | (simp [w.1, w.2, w, wrBytes_wf, wrM_wf, poisonWrite_wf, mapDropRange, mapFilter_wf, mapPut_wf]; done) | (simp at w; simp [w, wrBytes_wf, wrM_wf, poisonWrite_wf, mapDropRange, mapFilter_wf, mapPut_wf]; done))
    | with_reducible assumption
    | fail_if_no_progress (with_reducible refine upd_mems (landTrans hm (by decide)) _ ?_ ?_)

theorem clusterUe_keeps {m : Nat} {s0 : State} (hm : m.land 4 = 4) (s : State) (n : ℕ) (store : ℕ) (a : ℕ) (h_s : Keeps m s0 s) :
    Keeps m s0 (clusterUe s n store a) := by
  unfold clusterUe
  repeat' first
    | with_reducible assumption
    | (extract_lets -underBinder +onlyGivenNames x; first
      | (guard_hyp x : State := _; refine (fun (hx : Keeps m s0 x) => ?_) ?_ <;> [clear_value x; subst x])
      | clear_value x)
    | with_reducible refine State.set_keeps (landTrans hm (by decide)) _ _ _ _ _ ?_
    | with_reducible refine State.bumpSat_keeps (landTrans hm (by decide)) _ _ _ _ _ ?_

theorem markUnwritten_keeps {m : Nat} {s0 : State} (hm : m.land 1024 = 1024) (s : State) (n : ℕ) (h_s : Keeps m s0 s) :
    Keeps m s0 (markUnwritten s n) := by
  unfold markUnwritten
  dsimp only
  repeat' first
    | (intro w; simp only [State.wf, Mems.wf, Bool.and_eq_true] at w; try simp only [Mems.wf, Bool.and_eq_true]
       first | (simp [w.1, w.2, w, wrBytes_wf, wrM_wf, poisonWrite_wf, mapDropRange, mapFilter_wf, mapPut_wf]; done) | (simp at w; simp [w, wrBytes_wf, wrM_wf, poisonWrite_wf, mapDropRange, mapFilter_wf, mapPut_wf]; done))
    | with_reducible assumption
    | fail_if_no_progress (with_reducible refine upd_mems (landTrans hm (by decide)) _ ?_ ?_)

theorem partError_keeps {m : Nat} {s0 : State} (hm : m.land 8589934596 = 8589934596) (s : State) (n : ℕ) (e : MemErr) (h_s : Keeps m s0 s) :
    Keeps m s0 (partError s n e) := by
  unfold partError
  repeat' first
    | with_reducible assumption
    | (extract_lets -underBinder +onlyGivenNames x; clear_value x)
    | with_reducible refine clusterUe_keeps (landTrans hm (by decide)) _ _ _ _ ?_
    | with_reducible refine State.bumpSat_keeps (landTrans hm (by decide)) _ _ _ _ _ ?_
    | with_reducible refine ite_keeps ?_ ?_
    | fail_if_no_progress (with_reducible refine upd_jr (landTrans hm (by decide)) _ ?_)

theorem memError_keeps {m : Nat} {s0 : State} (hm : m.land 42949673988 = 42949673988) (n : ℕ) (s : State) (e : MemErr) (h_s : Keeps m s0 s) :
    Keeps m s0 (memError n s e) := by
  unfold memError
  dsimp only
  repeat' first
    | (intro w; simp only [State.wf, Mems.wf, Bool.and_eq_true] at w; try simp only [Mems.wf, Bool.and_eq_true]
       first | (simp [w.1, w.2, w, wrBytes_wf, wrM_wf, poisonWrite_wf, mapDropRange, mapFilter_wf, mapPut_wf]; done) | (simp at w; simp [w, wrBytes_wf, wrM_wf, poisonWrite_wf, mapDropRange, mapFilter_wf, mapPut_wf]; done))
    | with_reducible assumption
    | with_reducible refine partError_keeps (landTrans hm (by decide)) _ _ _ ?_
    | with_reducible refine channelUe_keeps (landTrans hm (by decide)) _ _ _ ?_
    | with_reducible refine channelCe_keeps (landTrans hm (by decide)) _ _ _ ?_
    | with_reducible refine clusterUe_keeps (landTrans hm (by decide)) _ _ _ _ ?_
    | with_reducible refine State.bumpSat_keeps (landTrans hm (by decide)) _ _ _ _ _ ?_
    | with_reducible refine ite_keeps ?_ ?_
    | split
    | fail_if_no_progress (with_reducible refine upd_mems (landTrans hm (by decide)) _ ?_ ?_)

theorem memErrors_keeps {m : Nat} {s0 : State} (hm : m.land 42949673988 = 42949673988) (s : State) (n : ℕ) (l : MemErrs) (h_s : Keeps m s0 s) :
    Keeps m s0 (memErrors s n l) := by
  unfold memErrors
  repeat' first
    | with_reducible assumption
    | intro _
    | with_reducible refine forEach_keeps (landTrans hm (by decide)) _ _ _ ?_ ?_
    | with_reducible refine memError_keeps (landTrans hm (by decide)) _ _ _ ?_

theorem setStripe_keeps {m : Nat} {s0 : State} (hm : m.land 4 = 4) (s : State) (b : ℕ) (e : Option ℕ) (h_s : Keeps m s0 s) :
    Keeps m s0 (setStripe s b e) := by
  unfold setStripe
  repeat' first
    | with_reducible assumption
    | (extract_lets -underBinder +onlyGivenNames x; clear_value x)
    | with_reducible refine wrReg_keeps (landTrans hm (by decide)) _ _ _ ?_

end Sys2Proof.Machine
end

