-- ==== Sys2Proof/Laws/KeepsSignals.lean ====
section
/-! SUPPORT. What each operation of Signals.lean keeps: the canonical form, and the parts of the state that it does not name. -/

namespace Sys2Proof.Machine

theorem setFsk_keeps {m : Nat} {s0 : State} (hm : m.land 16777216 = 16777216) (s : State) (g : ℕ) (x : FskGrp) (h_s : Keeps m s0 s) :
    Keeps m s0 (setFsk s g x) := by
  unfold setFsk
  repeat' first
    | with_reducible assumption
    | fail_if_no_progress (with_reducible refine upd_fsk (landTrans hm (by decide)) _ ?_)

theorem signalFsk_keeps {m : Nat} {s0 : State} (hm : m.land 16777220 = 16777220) (t : ℕ) (s : State) (g : ℕ) (h_s : Keeps m s0 s) :
    Keeps m s0 (signalFsk t s g) := by
  unfold signalFsk
  repeat' first
    | with_reducible assumption
    | (extract_lets -underBinder +onlyGivenNames x; clear_value x)
    | with_reducible refine State.set_keeps (landTrans hm (by decide)) _ _ _ _ _ ?_
    | with_reducible refine setFsk_keeps (landTrans hm (by decide)) _ _ _ ?_
    | with_reducible refine ite_keeps ?_ ?_

theorem ringRaise_keeps {m : Nat} {s0 : State} (hm : m.land 34359738368 = 34359738368) (s : State) (r : ℕ) (base : ℕ) (size : ℕ) (o : ℕ) (n : ℕ) (h_s : Keeps m s0 s) :
    Keeps m s0 (ringRaise s r base size o n) := by
  unfold ringRaise
  repeat' first
    | with_reducible assumption
    | (extract_lets -underBinder +onlyGivenNames x; clear_value x)
    | with_reducible refine raiseMem_keeps (landTrans hm (by decide)) _ _ _ _ _ _ ?_

theorem ringPoke_keeps {m : Nat} {s0 : State} (hm : m.land 1024 = 1024) (s : State) (base : ℕ) (size : ℕ) (o : ℕ) (r : Bytes) (h_s : Keeps m s0 s) :
    Keeps m s0 (ringPoke s base size o r) := by
  induction r generalizing s base size o with
  | nil =>
    unfold ringPoke
    repeat' first
      | with_reducible assumption
  | cons b t ih =>
    unfold ringPoke
    repeat' first
      | with_reducible assumption
      | with_reducible apply ih
      | with_reducible refine devStore_keeps (landTrans hm (by decide)) _ _ _ _ ?_

theorem ringAppend_keeps {m : Nat} {s0 : State} (hm : m.land 34359739396 = 34359739396) (s : State) (fn : ℕ) (base : ℕ) (size : ℕ) (l : Bytes) (h_s : Keeps m s0 s) :
    KeepsO m s0 (ringAppend s fn base size l) := by
  unfold ringAppend
  repeat' first
    | with_reducible assumption
    | (extract_lets -underBinder +onlyGivenNames x; first
      | (guard_hyp x : State := _; refine (fun (hx : Keeps m s0 x) => ?_) ?_ <;> [clear_value x; subst x])
      | clear_value x)
    | with_reducible refine setFnCode_keeps (landTrans hm (by decide)) _ _ _ ?_
    | with_reducible refine ringRaise_keeps (landTrans hm (by decide)) _ _ _ _ _ _ ?_
    | with_reducible refine ringPoke_keeps (landTrans hm (by decide)) _ _ _ _ _ ?_
    | with_reducible refine hubStore_keeps (landTrans hm (by decide)) _ _ _ _ ?_
    | with_reducible refine ite_keepsO ?_ ?_
    | with_reducible refine some_keeps ?_
    | with_reducible exact none_keeps

theorem indicateBody_keeps {m : Nat} {s0 : State} (hm : m.land 34359739396 = 34359739396) (s : State) (c : ℕ) (k : ℕ) (body : Bytes) (h_s : Keeps m s0 s) :
    Keeps m s0 (indicateBody s c k body) := by
  unfold indicateBody
  repeat' first
    | with_reducible assumption
    | (extract_lets -underBinder +onlyGivenNames x; clear_value x)
    | with_reducible refine ringAppend_keeps (landTrans hm (by decide)) _ _ _ _ _ ?_
    | with_reducible refine State.bumpSat_keeps (landTrans hm (by decide)) _ _ _ _ _ ?_
    | with_reducible refine getD_keeps ?_ ?_

theorem indicate_keeps {m : Nat} {s0 : State} (hm : m.land 34359739398 = 34359739398) (s : State) (c : ℕ) (kind : ℕ) (k : ℕ) (detail : Bytes) (h_s : Keeps m s0 s) :
    Keeps m s0 (indicate s c kind k detail) := by
  unfold indicate
  repeat' first
    | with_reducible assumption
    | with_reducible refine indicateBody_keeps (landTrans hm (by decide)) _ _ _ _ ?_
    | with_reducible refine Keeps2.of (takeFree_keeps (landTrans hm (by decide)) _ ?_)

theorem setAlarm_keeps {m : Nat} {s0 : State} (hm : m.land 34359739398 = 34359739398) (s : State) (c : ℕ) (v : ℕ) (h_s : Keeps m s0 s) :
    Keeps m s0 (setAlarm s c v) := by
  unfold setAlarm
  repeat' first
    | with_reducible assumption
    | with_reducible refine indicate_keeps (landTrans hm (by decide)) _ _ _ _ _ ?_
    | with_reducible refine State.set_keeps (landTrans hm (by decide)) _ _ _ _ _ ?_
    | with_reducible refine ite_keeps ?_ ?_

theorem setCell_keeps {m : Nat} {s0 : State} (hm : m.land 8388608 = 8388608) (s : State) (c : ℕ) (x : Cell) (h_s : Keeps m s0 s) :
    Keeps m s0 (setCell s c x) := by
  unfold setCell
  repeat' first
    | with_reducible assumption
    | fail_if_no_progress (with_reducible refine upd_cells (landTrans hm (by decide)) _ ?_)

theorem signalCell_keeps {m : Nat} {s0 : State} (hm : m.land 34368128006 = 34368128006) (t : ℕ) (s : State) (c : ℕ) (h_s : Keeps m s0 s) :
    Keeps m s0 (signalCell t s c) := by
  unfold signalCell
  repeat' first
    | with_reducible assumption
    | (extract_lets -underBinder +onlyGivenNames x; first
      | (guard_hyp x : State := _; refine (fun (hx : Keeps m s0 x) => ?_) ?_ <;> [clear_value x; subst x])
      | clear_value x)
    | with_reducible refine setAlarm_keeps (landTrans hm (by decide)) _ _ _ ?_
    | with_reducible refine setCell_keeps (landTrans hm (by decide)) _ _ _ ?_
    | with_reducible refine State.set_keeps (landTrans hm (by decide)) _ _ _ _ _ ?_
    | with_reducible refine ite_keeps ?_ ?_

theorem signalTime_keeps {m : Nat} {s0 : State} (hm : m.land 34384905222 = 34384905222) (s : State) (t : ℕ) (h_s : Keeps m s0 s) :
    Keeps m s0 (signalTime s t) := by
  unfold signalTime
  repeat' first
    | with_reducible assumption
    | intro _
    | with_reducible refine forEach_keeps (landTrans hm (by decide)) _ _ _ ?_ ?_
    | with_reducible refine signalFsk_keeps (landTrans hm (by decide)) _ _ _ ?_
    | with_reducible refine signalCell_keeps (landTrans hm (by decide)) _ _ _ ?_

theorem calLost_keeps {m : Nat} {s0 : State} (hm : m.land 8388612 = 8388612) (s : State) (v : ℕ) (h_s : Keeps m s0 s) :
    Keeps m s0 (calLost s v) := by
  unfold calLost
  repeat' first
    | with_reducible assumption
    | intro _
    | with_reducible refine forEach_keeps (landTrans hm (by decide)) _ _ _ ?_ ?_
    | with_reducible refine setCell_keeps (landTrans hm (by decide)) _ _ _ ?_
    | with_reducible refine State.set_keeps (landTrans hm (by decide)) _ _ _ _ _ ?_
    | with_reducible refine ite_keeps ?_ ?_

end Sys2Proof.Machine
end

