-- ==== Sys2Proof/Laws/KeepsSlots.lean ====
section
/-! SUPPORT. What each operation of Slots.lean keeps: the canonical form, and the parts of the state that it does not name. -/

namespace Sys2Proof.Machine

theorem freeSlot_keeps {m : Nat} {s0 : State} (hm : m.land 2048 = 2048) (s : State) (n : ℕ) (c : ℕ) (h_s : Keeps m s0 s) :
    Keeps m s0 (freeSlot s n c) := by
  unfold freeSlot
  repeat' first
    | with_reducible assumption
    | (extract_lets -underBinder +onlyGivenNames x; clear_value x)
    | with_reducible refine setCore_keeps (landTrans hm (by decide)) _ _ _ ?_

theorem leaveSlot_keeps {m : Nat} {s0 : State} (hm : m.land 10240 = 10240) (s : State) (x : ℕ) (st : ℕ) (h_s : Keeps m s0 s) :
    Keeps m s0 (leaveSlot s x st) := by
  unfold leaveSlot
  repeat' first
    | with_reducible assumption
    | (extract_lets -underBinder +onlyGivenNames x; first
      | (guard_hyp x : State := _; refine (fun (hx : Keeps m s0 x) => ?_) ?_ <;> [clear_value x; subst x])
      | clear_value x)
    | with_reducible refine freeSlot_keeps (landTrans hm (by decide)) _ _ _ ?_
    | with_reducible refine setCtx_keeps (landTrans hm (by decide)) _ _ _ ?_
    | split

theorem settleAllot_keeps {m : Nat} {s0 : State} (hm : m.land 10240 = 10240) (s : State) (h_s : Keeps m s0 s) :
    Keeps m s0 (settleAllot s) := by
  unfold settleAllot
  repeat' first
    | with_reducible assumption
    | intro _
    | (extract_lets -underBinder +onlyGivenNames x; clear_value x)
    | with_reducible refine forEach_keeps (landTrans hm (by decide)) _ _ _ ?_ ?_
    | with_reducible refine leaveSlot_keeps (landTrans hm (by decide)) _ _ _ ?_
    | with_reducible refine ite_keeps ?_ ?_
    | split

end Sys2Proof.Machine
end

