-- ==== Sys2Proof/Laws/KeepsCalendar.lean ====
section
/-! SUPPORT. What each operation of Calendar.lean keeps: the canonical form, and the parts of the state that it does not name. -/

namespace Sys2Proof.Machine

theorem tbSpend_keeps {m : Nat} {s0 : State} (hm : m.land 4 = 4) (s : State) (t : ℕ) (b : ℕ) (u : ℕ) (h_s : Keeps m s0 s) :
    Keeps m s0 (tbSpend s t b u) := by
  unfold tbSpend
  repeat' first
    | with_reducible assumption
    | with_reducible refine State.setS_keeps (landTrans hm (by decide)) _ _ _ _ _ ?_
    | with_reducible refine ite_keeps ?_ ?_

theorem admission_keeps {m : Nat} {s0 : State} (hm : m.land 4 = 4) (s : State) (t : ℕ) (d : Demand) (h_s : Keeps m s0 s) :
    Keeps2 m s0 (admission s t d) := by
  unfold admission
  repeat' first
    | with_reducible assumption
    | intro _
    | with_reducible refine forEach_keeps (landTrans hm (by decide)) _ _ _ ?_ ?_
    | with_reducible refine tbSpend_keeps (landTrans hm (by decide)) _ _ _ _ ?_
    | with_reducible refine State.bumpSat_keeps (landTrans hm (by decide)) _ _ _ _ _ ?_
    | with_reducible refine ite_keeps2 ?_ ?_
    | with_reducible refine pair2 ?_

theorem noteGovWrite_keeps {m : Nat} {s0 : State} (hm : m.land 512 = 512) (s : State) (h_s : Keeps m s0 s) :
    Keeps m s0 (noteGovWrite s) := by
  unfold noteGovWrite
  repeat' first
    | with_reducible assumption
    | (extract_lets -underBinder +onlyGivenNames x; clear_value x)
    | fail_if_no_progress (with_reducible refine upd_cal (landTrans hm (by decide)) _ ?_)

theorem fixSwap_keeps {m : Nat} {s0 : State} (hm : m.land 512 = 512) (s : State) (from_ : ℕ) (h_s : Keeps m s0 s) :
    Keeps m s0 (fixSwap s from_) := by
  unfold fixSwap
  repeat' first
    | with_reducible assumption
    | (extract_lets -underBinder +onlyGivenNames x; clear_value x)
    | fail_if_no_progress (with_reducible refine upd_cal (landTrans hm (by decide)) _ ?_)

theorem calStart_keeps {m : Nat} {s0 : State} (hm : m.land 516 = 516) (s : State) (h_s : Keeps m s0 s) :
    Keeps m s0 (calStart s) := by
  unfold calStart
  repeat' first
    | with_reducible assumption
    | (extract_lets -underBinder +onlyGivenNames x; first
      | (guard_hyp x : State := _; refine (fun (hx : Keeps m s0 x) => ?_) ?_ <;> [clear_value x; subst x])
      | clear_value x)
    | with_reducible refine State.set_keeps (landTrans hm (by decide)) _ _ _ _ _ ?_
    | with_reducible refine faultFn_keeps (landTrans hm (by decide)) _ _ _ ?_
    | with_reducible refine fixSwap_keeps (landTrans hm (by decide)) _ _ ?_
    | with_reducible refine setFnState_keeps (landTrans hm (by decide)) _ _ _ ?_
    | with_reducible refine setFnCode_keeps (landTrans hm (by decide)) _ _ _ ?_
    | with_reducible refine ite_keeps ?_ ?_
    | fail_if_no_progress (with_reducible refine upd_cal (landTrans hm (by decide)) _ ?_)

theorem tbZero_keeps {m : Nat} {s0 : State} (hm : m.land 516 = 516) (s : State) (t : ℕ) (b : ℕ) (h_s : Keeps m s0 s) :
    Keeps m s0 (tbZero s t b) := by
  unfold tbZero
  repeat' first
    | with_reducible assumption
    | (extract_lets -underBinder +onlyGivenNames x; first
      | (guard_hyp x : State := _; refine (fun (hx : Keeps m s0 x) => ?_) ?_ <;> [clear_value x; subst x])
      | clear_value x)
    | with_reducible refine State.set_keeps (landTrans hm (by decide)) _ _ _ _ _ ?_
    | fail_if_no_progress (with_reducible refine upd_cal (landTrans hm (by decide)) _ ?_)

theorem tbApply_keeps {m : Nat} {s0 : State} (hm : m.land 516 = 516) (s : State) (o : ℕ) (v : Word) (h_s : Keeps m s0 s) :
    Keeps m s0 (tbApply s o v) := by
  unfold tbApply
  repeat' first
    | with_reducible assumption
    | intro _
    | (extract_lets -underBinder +onlyGivenNames x; first
      | (guard_hyp x : State := _; refine (fun (hx : Keeps m s0 x) => ?_) ?_ <;> [clear_value x; subst x])
      | clear_value x)
    | with_reducible refine wrReg_keeps (landTrans hm (by decide)) _ _ _ ?_
    | with_reducible refine forEach_keeps (landTrans hm (by decide)) _ _ _ ?_ ?_
    | with_reducible refine tbZero_keeps (landTrans hm (by decide)) _ _ _ ?_
    | with_reducible refine ite_keeps ?_ ?_

theorem hostApply_keeps {m : Nat} {s0 : State} (hm : m.land 4 = 4) (s : State) (o : ℕ) (v : Word) (h_s : Keeps m s0 s) :
    Keeps m s0 (hostApply s o v) := by
  unfold hostApply
  repeat' first
    | with_reducible assumption
    | (extract_lets -underBinder +onlyGivenNames x; guard_hyp x : State := _; refine (fun (hx : Keeps m s0 x) => ?_) ?_ <;> [clear_value x; subst x])
    | with_reducible refine wrReg_keeps (landTrans hm (by decide)) _ _ _ ?_
    | with_reducible refine State.set_keeps (landTrans hm (by decide)) _ _ _ _ _ ?_
    | with_reducible refine ite_keeps ?_ ?_

theorem applyWrites_keeps {m : Nat} {s0 : State} (hm : m.land 141828 = 141828) (s : State) (l : List (ℕ × Word)) (w : List (ℕ × Win)) (h_s : Keeps m s0 s) :
    Keeps m s0 (applyWrites s l w) := by
  unfold applyWrites
  repeat' first
    | with_reducible assumption
    | intro _
    | (extract_lets -underBinder +onlyGivenNames x; guard_hyp x : State := _; refine (fun (hx : Keeps m s0 x) => ?_) ?_ <;> [clear_value x; subst x])
    | with_reducible refine forEach_keeps (landTrans hm (by decide)) _ _ _ ?_ ?_
    | with_reducible refine tbApply_keeps (landTrans hm (by decide)) _ _ _ ?_
    | with_reducible refine hostApply_keeps (landTrans hm (by decide)) _ _ _ ?_
    | with_reducible refine settleAllot_keeps (landTrans hm (by decide)) _ ?_
    | with_reducible refine setWin_keeps (landTrans hm (by decide)) _ _ _ _ ?_
    | with_reducible refine ite_keeps ?_ ?_

theorem applyDeferred_keeps {m : Nat} {s0 : State} (hm : m.land 403972 = 403972) (s : State) (h_s : Keeps m s0 s) :
    Keeps m s0 (applyDeferred s) := by
  unfold applyDeferred
  repeat' first
    | with_reducible assumption
    | (extract_lets -underBinder +onlyGivenNames x; clear_value x)
    | with_reducible refine applyWrites_keeps (landTrans hm (by decide)) _ _ _ ?_
    | fail_if_no_progress (with_reducible refine upd_cal_winPend (landTrans hm (by decide)) _ _ ?_)

theorem setGate_keeps {m : Nat} {s0 : State} (hm : m.land 512 = 512) (s : State) (n : ℕ) (g : ℕ) (force : Bool) (h_s : Keeps m s0 s) :
    Keeps m s0 (setGate s n g force) := by
  unfold setGate
  repeat' first
    | with_reducible assumption
    | (extract_lets -underBinder +onlyGivenNames x; clear_value x)
    | with_reducible refine ite_keeps ?_ ?_
    | fail_if_no_progress (with_reducible refine upd_cal (landTrans hm (by decide)) _ ?_)

theorem applyIdle_keeps {m : Nat} {s0 : State} (hm : m.land 516 = 516) (s : State) (h_s : Keeps m s0 s) :
    Keeps m s0 (applyIdle s) := by
  unfold applyIdle
  repeat' first
    | with_reducible assumption
    | intro _
    | (extract_lets -underBinder +onlyGivenNames x; first
      | (guard_hyp x : State := _; refine (fun (hx : Keeps m s0 x) => ?_) ?_ <;> [clear_value x; subst x])
      | clear_value x)
    | with_reducible refine State.set_keeps (landTrans hm (by decide)) _ _ _ _ _ ?_
    | with_reducible refine forEach_keeps (landTrans hm (by decide)) _ _ _ ?_ ?_
    | with_reducible refine setGate_keeps (landTrans hm (by decide)) _ _ _ _ ?_
    | fail_if_no_progress (with_reducible refine upd_cal (landTrans hm (by decide)) _ ?_)

theorem calHalt_keeps {m : Nat} {s0 : State} (hm : m.land 403972 = 403972) (s : State) (h_s : Keeps m s0 s) :
    Keeps m s0 (calHalt s) := by
  unfold calHalt
  repeat' first
    | with_reducible assumption
    | with_reducible refine applyDeferred_keeps (landTrans hm (by decide)) _ ?_
    | with_reducible refine applyIdle_keeps (landTrans hm (by decide)) _ ?_
    | with_reducible refine setFnState_keeps (landTrans hm (by decide)) _ _ _ ?_

theorem calStop_keeps {m : Nat} {s0 : State} (hm : m.land 403972 = 403972) (s : State) (h_s : Keeps m s0 s) :
    Keeps m s0 (calStop s) := by
  unfold calStop
  repeat' first
    | with_reducible assumption
    | (extract_lets -underBinder +onlyGivenNames x; first
      | (guard_hyp x : State := _; refine (fun (hx : Keeps m s0 x) => ?_) ?_ <;> [clear_value x; subst x])
      | clear_value x)
    | with_reducible refine State.set_keeps (landTrans hm (by decide)) _ _ _ _ _ ?_
    | with_reducible refine setFnState_keeps (landTrans hm (by decide)) _ _ _ ?_
    | with_reducible refine calHalt_keeps (landTrans hm (by decide)) _ ?_
    | with_reducible refine ite_keeps ?_ ?_
    | fail_if_no_progress (with_reducible refine upd_cal (landTrans hm (by decide)) _ ?_)

theorem calArm_keeps {m : Nat} {s0 : State} (hm : m.land 516 = 516) (s : State) (x : ℕ) (h_s : Keeps m s0 s) :
    Keeps m s0 (calArm s x) := by
  unfold calArm
  repeat' first
    | with_reducible assumption
    | (extract_lets -underBinder +onlyGivenNames x; first
      | (guard_hyp x : State := _; refine (fun (hx : Keeps m s0 x) => ?_) ?_ <;> [clear_value x; subst x])
      | clear_value x)
    | with_reducible refine State.set_keeps (landTrans hm (by decide)) _ _ _ _ _ ?_
    | with_reducible refine ite_keeps ?_ ?_
    | split
    | fail_if_no_progress (with_reducible refine upd_cal (landTrans hm (by decide)) _ ?_)

theorem armResult_keeps {m : Nat} {s0 : State} (hm : m.land 4 = 4) (s : State) (code : ℕ) (idx : Option ℕ) (h_s : Keeps m s0 s) :
    Keeps m s0 (armResult s code idx) := by
  unfold armResult
  repeat' first
    | with_reducible assumption
    | (extract_lets -underBinder +onlyGivenNames x; guard_hyp x : State := _; refine (fun (hx : Keeps m s0 x) => ?_) ?_ <;> [clear_value x; subst x])
    | with_reducible refine State.set_keeps (landTrans hm (by decide)) _ _ _ _ _ ?_
    | split

theorem calDisarm_keeps {m : Nat} {s0 : State} (hm : m.land 516 = 516) (s : State) (h_s : Keeps m s0 s) :
    Keeps m s0 (calDisarm s) := by
  unfold calDisarm
  repeat' first
    | with_reducible assumption
    | (extract_lets -underBinder +onlyGivenNames x; first
      | (guard_hyp x : State := _; refine (fun (hx : Keeps m s0 x) => ?_) ?_ <;> [clear_value x; subst x])
      | clear_value x)
    | with_reducible refine armResult_keeps (landTrans hm (by decide)) _ _ _ ?_
    | with_reducible refine State.set_keeps (landTrans hm (by decide)) _ _ _ _ _ ?_
    | with_reducible refine setFnState_keeps (landTrans hm (by decide)) _ _ _ ?_
    | with_reducible refine ite_keeps ?_ ?_
    | fail_if_no_progress (with_reducible refine upd_cal (landTrans hm (by decide)) _ ?_)

theorem deferWin_keeps {m : Nat} {s0 : State} (hm : m.land 403972 = 403972) (s : State) (k : ℕ) (x : Win) (h_s : Keeps m s0 s) :
    Keeps m s0 (deferWin s k x) := by
  unfold deferWin
  repeat' first
    | with_reducible assumption
    | with_reducible refine applyWrites_keeps (landTrans hm (by decide)) _ _ _ ?_
    | with_reducible refine ite_keeps ?_ ?_
    | fail_if_no_progress (with_reducible refine upd_winPend (landTrans hm (by decide)) _ ?_)

theorem bankWrite_keeps {m : Nat} {s0 : State} (hm : m.land 4194316 = 4194316) (s : State) (o : ℕ) (v : Word) (h_s : Keeps m s0 s) :
    Keeps m s0 (bankWrite s o v) := by
  unfold bankWrite
  repeat' first
    | with_reducible assumption
    | with_reducible refine State.set_keeps (landTrans hm (by decide)) _ _ _ _ _ ?_
    | with_reducible refine rewritten_keeps (landTrans hm (by decide)) _ _ ?_
    | with_reducible refine wrReg_keeps (landTrans hm (by decide)) _ _ _ ?_
    | with_reducible refine ite_keeps ?_ ?_
    | split

theorem deferWrite_keeps {m : Nat} {s0 : State} (hm : m.land 141828 = 141828) (s : State) (o : ℕ) (v : Word) (h_s : Keeps m s0 s) :
    Keeps m s0 (deferWrite s o v) := by
  unfold deferWrite
  repeat' first
    | with_reducible assumption
    | (extract_lets -underBinder +onlyGivenNames x; clear_value x)
    | with_reducible refine applyWrites_keeps (landTrans hm (by decide)) _ _ _ ?_
    | with_reducible refine ite_keeps ?_ ?_
    | fail_if_no_progress (with_reducible refine upd_cal (landTrans hm (by decide)) _ ?_)

theorem calRecompute_keeps {m : Nat} {s0 : State} (hm : m.land 512 = 512) (s : State) (h_s : Keeps m s0 s) :
    Keeps m s0 (calRecompute s) := by
  unfold calRecompute
  repeat' first
    | with_reducible assumption
    | (extract_lets -underBinder +onlyGivenNames x; clear_value x)
    | with_reducible refine ite_keeps ?_ ?_
    | fail_if_no_progress (with_reducible refine upd_cal (landTrans hm (by decide)) _ ?_)

theorem openWindow_keeps {m : Nat} {s0 : State} (hm : m.land 512 = 512) (s : State) (n : ℕ) (h_s : Keeps m s0 s) :
    Keeps m s0 (openWindow s n) := by
  unfold openWindow
  repeat' first
    | with_reducible assumption
    | (extract_lets -underBinder +onlyGivenNames x; clear_value x)
    | fail_if_no_progress (with_reducible refine upd_cal (landTrans hm (by decide)) _ ?_)

theorem applyAt_keeps {m : Nat} {s0 : State} (hm : m.land 512 = 512) (s : State) (pos : ℕ) (atTime : ℕ) (start : Bool) (force : Bool) (h_s : Keeps m s0 s) :
    Keeps m s0 (applyAt s pos atTime start force) := by
  unfold applyAt
  repeat' first
    | with_reducible assumption
    | intro _
    | (extract_lets -underBinder +onlyGivenNames x; first
      | (guard_hyp x : State := _; refine (fun (hx : Keeps m s0 x) => ?_) ?_ <;> [clear_value x; subst x])
      | clear_value x)
    | with_reducible refine forEach_keeps (landTrans hm (by decide)) _ _ _ ?_ ?_
    | with_reducible refine setGate_keeps (landTrans hm (by decide)) _ _ _ _ ?_
    | with_reducible refine openWindow_keeps (landTrans hm (by decide)) _ _ ?_
    | with_reducible refine ite_keeps ?_ ?_
    | fail_if_no_progress (with_reducible refine upd_cal (landTrans hm (by decide)) _ ?_)

theorem armDone_keeps {m : Nat} {s0 : State} (hm : m.land 516 = 516) (s : State) (h_s : Keeps m s0 s) :
    Keeps m s0 (armDone s) := by
  unfold armDone
  repeat' first
    | with_reducible assumption
    | (extract_lets -underBinder +onlyGivenNames x; first
      | (guard_hyp x : State := _; refine (fun (hx : Keeps m s0 x) => ?_) ?_ <;> [clear_value x; subst x])
      | clear_value x)
    | with_reducible refine armResult_keeps (landTrans hm (by decide)) _ _ _ ?_
    | with_reducible refine State.set_keeps (landTrans hm (by decide)) _ _ _ _ _ ?_
    | with_reducible refine fixSwap_keeps (landTrans hm (by decide)) _ _ ?_
    | with_reducible refine ite_keeps ?_ ?_
    | fail_if_no_progress (with_reducible refine upd_cal (landTrans hm (by decide)) _ ?_)

theorem takeBank_keeps {m : Nat} {s0 : State} (hm : m.land 516 = 516) (s : State) (h_s : Keeps m s0 s) :
    Keeps m s0 (takeBank s) := by
  unfold takeBank
  repeat' first
    | with_reducible assumption
    | (extract_lets -underBinder +onlyGivenNames x; first
      | (guard_hyp x : State := _; refine (fun (hx : Keeps m s0 x) => ?_) ?_ <;> [clear_value x; subst x])
      | clear_value x)
    | with_reducible refine State.set_keeps (landTrans hm (by decide)) _ _ _ _ _ ?_
    | fail_if_no_progress (with_reducible refine upd_cal (landTrans hm (by decide)) _ ?_)

theorem governor_keeps {m : Nat} {s0 : State} (hm : m.land 4 = 4) (s : State) (power : ℕ) (h_s : Keeps m s0 s) :
    Keeps m s0 (governor s power) := by
  unfold governor
  repeat' first
    | with_reducible assumption
    | (extract_lets -underBinder +onlyGivenNames x; first
      | (guard_hyp x : State := _; refine (fun (hx : Keeps m s0 x) => ?_) ?_ <;> [clear_value x; subst x])
      | clear_value x)
    | with_reducible refine State.set_keeps (landTrans hm (by decide)) _ _ _ _ _ ?_
    | with_reducible refine ite_keeps ?_ ?_

theorem cycleStart_keeps {m : Nat} {s0 : State} (hm : m.land 403972 = 403972) (s : State) (power : ℕ) (h_s : Keeps m s0 s) :
    Keeps m s0 (cycleStart s power) := by
  unfold cycleStart
  repeat' first
    | with_reducible assumption
    | (extract_lets -underBinder +onlyGivenNames x; first
      | (guard_hyp x : State := _; refine (fun (hx : Keeps m s0 x) => ?_) ?_ <;> [clear_value x; subst x])
      | clear_value x)
    | with_reducible refine State.bump_keeps (landTrans hm (by decide)) _ _ _ _ _ ?_
    | with_reducible refine governor_keeps (landTrans hm (by decide)) _ _ ?_
    | with_reducible refine State.set_keeps (landTrans hm (by decide)) _ _ _ _ _ ?_
    | with_reducible refine applyDeferred_keeps (landTrans hm (by decide)) _ ?_
    | with_reducible refine ite_keeps ?_ ?_
    | fail_if_no_progress (with_reducible refine upd_cal (landTrans hm (by decide)) _ ?_)

theorem takePos_keeps {m : Nat} {s0 : State} (hm : m.land 403972 = 403972) (s : State) (p : ℕ) (power : ℕ) (force : Bool) (h_s : Keeps m s0 s) :
    Keeps m s0 (takePos s p power force) := by
  unfold takePos
  repeat' first
    | with_reducible assumption
    | with_reducible refine applyAt_keeps (landTrans hm (by decide)) _ _ _ _ _ ?_
    | with_reducible refine cycleStart_keeps (landTrans hm (by decide)) _ _ ?_
    | with_reducible refine ite_keeps ?_ ?_

theorem calBegin_keeps {m : Nat} {s0 : State} (hm : m.land 8792580 = 8792580) (s : State) (t : ℕ) (power : ℕ) (h_s : Keeps m s0 s) :
    Keeps m s0 (calBegin s t power) := by
  unfold calBegin
  repeat' first
    | with_reducible assumption
    | (extract_lets -underBinder +onlyGivenNames x; first
      | (guard_hyp x : State := _; refine (fun (hx : Keeps m s0 x) => ?_) ?_ <;> [clear_value x; subst x])
      | clear_value x)
    | with_reducible refine takeBank_keeps (landTrans hm (by decide)) _ ?_
    | with_reducible refine calLost_keeps (landTrans hm (by decide)) _ _ ?_
    | with_reducible refine setFnState_keeps (landTrans hm (by decide)) _ _ _ ?_
    | with_reducible refine takePos_keeps (landTrans hm (by decide)) _ _ _ _ ?_
    | with_reducible refine applyAt_keeps (landTrans hm (by decide)) _ _ _ _ _ ?_
    | with_reducible refine cycleStart_keeps (landTrans hm (by decide)) _ _ ?_
    | with_reducible refine ite_keeps ?_ ?_

theorem calSwap_keeps {m : Nat} {s0 : State} (hm : m.land 403972 = 403972) (s : State) (t : ℕ) (power : ℕ) (h_s : Keeps m s0 s) :
    Keeps m s0 (calSwap s t power) := by
  unfold calSwap
  repeat' first
    | with_reducible assumption
    | (extract_lets -underBinder +onlyGivenNames x; first
      | (guard_hyp x : State := _; refine (fun (hx : Keeps m s0 x) => ?_) ?_ <;> [clear_value x; subst x])
      | clear_value x)
    | with_reducible refine State.set_keeps (landTrans hm (by decide)) _ _ _ _ _ ?_
    | with_reducible refine takeBank_keeps (landTrans hm (by decide)) _ ?_
    | with_reducible refine applyAt_keeps (landTrans hm (by decide)) _ _ _ _ _ ?_
    | with_reducible refine cycleStart_keeps (landTrans hm (by decide)) _ _ ?_
    | with_reducible refine ite_keeps ?_ ?_

theorem bankSwap_keeps {m : Nat} {s0 : State} (hm : m.land 8792580 = 8792580) (s : State) (power : ℕ) (h_s : Keeps m s0 s) :
    Keeps m s0 (bankSwap s power) := by
  unfold bankSwap
  repeat' first
    | with_reducible assumption
    | with_reducible refine calBegin_keeps (landTrans hm (by decide)) _ _ _ ?_
    | with_reducible refine calSwap_keeps (landTrans hm (by decide)) _ _ _ ?_
    | with_reducible refine ite_keeps ?_ ?_
    | split

theorem calFault_keeps {m : Nat} {s0 : State} (hm : m.land 8389124 = 8389124) (s : State) (c : ℕ) (h_s : Keeps m s0 s) :
    Keeps m s0 (calFault s c) := by
  unfold calFault
  repeat' first
    | with_reducible assumption
    | (extract_lets -underBinder +onlyGivenNames x; first
      | (guard_hyp x : State := _; refine (fun (hx : Keeps m s0 x) => ?_) ?_ <;> [clear_value x; subst x])
      | clear_value x)
    | with_reducible refine applyIdle_keeps (landTrans hm (by decide)) _ ?_
    | with_reducible refine faultFn_keeps (landTrans hm (by decide)) _ _ _ ?_
    | with_reducible refine calLost_keeps (landTrans hm (by decide)) _ _ ?_
    | with_reducible refine ite_keeps ?_ ?_
    | fail_if_no_progress (with_reducible refine upd_cal (landTrans hm (by decide)) _ ?_)

theorem chargeExcess_keeps {m : Nat} {s0 : State} (hm : m.land 4 = 4) (s : State) (t : ℕ) (d : Demand) (u : Demand) (h_s : Keeps m s0 s) :
    Keeps m s0 (chargeExcess s t d u) := by
  unfold chargeExcess
  repeat' first
    | with_reducible assumption
    | intro _
    | with_reducible refine forEach_keeps (landTrans hm (by decide)) _ _ _ ?_ ?_
    | with_reducible refine tbSpend_keeps (landTrans hm (by decide)) _ _ _ _ ?_
    | with_reducible refine ite_keeps ?_ ?_

theorem entryEnd_keeps {m : Nat} {s0 : State} (hm : m.land 403972 = 403972) (s : State) (power : ℕ) (h_s : Keeps m s0 s) :
    Keeps m s0 (entryEnd s power) := by
  unfold entryEnd
  repeat' first
    | with_reducible assumption
    | with_reducible refine calHalt_keeps (landTrans hm (by decide)) _ ?_
    | with_reducible refine takePos_keeps (landTrans hm (by decide)) _ _ _ _ ?_
    | with_reducible refine applyAt_keeps (landTrans hm (by decide)) _ _ _ _ _ ?_
    | with_reducible refine cycleStart_keeps (landTrans hm (by decide)) _ _ ?_
    | with_reducible refine ite_keeps ?_ ?_

theorem execArmDone_keeps {m : Nat} {s0 : State} (hm : m.land 516 = 516) (s : State) (h_s : Keeps m s0 s) :
    KeepsX m s0 (execArmDone s) :=
  next_keeps (armDone_keeps hm _ h_s)

theorem execBankSwap_keeps {m : Nat} {s0 : State} (hm : m.land 8792580 = 8792580) (power : ℕ) (s : State) (h_s : Keeps m s0 s) :
    KeepsX m s0 (execBankSwap power s) :=
  next_keeps (bankSwap_keeps hm _ _ h_s)

theorem execBankWrite_keeps {m : Nat} {s0 : State} (hm : m.land 4194316 = 4194316) (off : ℕ) (v : Word) (s : State) (h_s : Keeps m s0 s) :
    KeepsX m s0 (execBankWrite off v s) :=
  next_keeps (bankWrite_keeps hm _ _ _ h_s)

theorem execCalArm_keeps {m : Nat} {s0 : State} (hm : m.land 516 = 516) (bank : Bool) (s : State) (h_s : Keeps m s0 s) :
    KeepsX m s0 (execCalArm bank s) :=
  next_keeps (calArm_keeps hm _ _ h_s)

theorem execCalDisarm_keeps {m : Nat} {s0 : State} (hm : m.land 516 = 516) (s : State) (h_s : Keeps m s0 s) :
    KeepsX m s0 (execCalDisarm s) :=
  next_keeps (calDisarm_keeps hm _ h_s)

theorem execCalEntryEnd_keeps {m : Nat} {s0 : State} (hm : m.land 403972 = 403972) (power : ℕ) (s : State) (h_s : Keeps m s0 s) :
    KeepsX m s0 (execCalEntryEnd power s) :=
  next_keeps (entryEnd_keeps hm _ _ h_s)

theorem execCalStart_keeps {m : Nat} {s0 : State} (hm : m.land 516 = 516) (s : State) (h_s : Keeps m s0 s) :
    KeepsX m s0 (execCalStart s) :=
  next_keeps (calStart_keeps hm _ h_s)

theorem execCalStop_keeps {m : Nat} {s0 : State} (hm : m.land 403972 = 403972) (s : State) (h_s : Keeps m s0 s) :
    KeepsX m s0 (execCalStop s) :=
  next_keeps (calStop_keeps hm _ h_s)

theorem tbGain_keeps {m : Nat} {s0 : State} (hm : m.land 516 = 516) (t : ℕ) (s : State) (b : ℕ) (h_s : Keeps m s0 s) :
    Keeps m s0 (tbGain t s b) := by
  unfold tbGain
  repeat' first
    | with_reducible assumption
    | (extract_lets -underBinder +onlyGivenNames x; first
      | (guard_hyp x : State := _; refine (fun (hx : Keeps m s0 x) => ?_) ?_ <;> [clear_value x; subst x])
      | clear_value x)
    | with_reducible refine State.setS_keeps (landTrans hm (by decide)) _ _ _ _ _ ?_
    | with_reducible refine ite_keeps ?_ ?_
    | fail_if_no_progress (with_reducible refine upd_cal (landTrans hm (by decide)) _ ?_)

theorem tbAccrue_keeps {m : Nat} {s0 : State} (hm : m.land 516 = 516) (t : ℕ) (s : State) (b : ℕ) (h_s : Keeps m s0 s) :
    Keeps m s0 (tbAccrue t s b) := by
  unfold tbAccrue
  repeat' first
    | with_reducible assumption
    | (extract_lets -underBinder +onlyGivenNames x; first
      | (guard_hyp x : State := _; refine (fun (hx : Keeps m s0 x) => ?_) ?_ <;> [clear_value x; subst x])
      | clear_value x)
    | with_reducible refine tbGain_keeps (landTrans hm (by decide)) _ _ _ ?_
    | with_reducible refine ite_keeps ?_ ?_
    | fail_if_no_progress (with_reducible refine upd_cal (landTrans hm (by decide)) _ ?_)

theorem tokenAccrue_keeps {m : Nat} {s0 : State} (hm : m.land 516 = 516) (s : State) (t : ℕ) (h_s : Keeps m s0 s) :
    Keeps m s0 (tokenAccrue s t) := by
  unfold tokenAccrue
  repeat' first
    | with_reducible assumption
    | intro _
    | with_reducible refine forEach_keeps (landTrans hm (by decide)) _ _ _ ?_ ?_
    | with_reducible refine tbAccrue_keeps (landTrans hm (by decide)) _ _ _ ?_
    | with_reducible refine ite_keeps ?_ ?_

theorem execTokenAccrue_keeps {m : Nat} {s0 : State} (hm : m.land 516 = 516) (t : ℕ) (s : State) (h_s : Keeps m s0 s) :
    KeepsX m s0 (execTokenAccrue t s) :=
  next_keeps (tokenAccrue_keeps hm _ _ h_s)

end Sys2Proof.Machine
end

