-- ==== Sys2Proof/Laws/KeepsAlmanac.lean ====
section
/-! SUPPORT. What each operation of Almanac.lean keeps: the canonical form, and the parts of the state that it does not name. -/

namespace Sys2Proof.Machine

theorem issue_keeps {m : Nat} {s0 : State} (hm : m.land 4 = 4) (s : State) (h_s : Keeps m s0 s) :
    Keeps m s0 (issue s) := by
  unfold issue
  repeat' first
    | with_reducible assumption
    | with_reducible refine State.set2_keeps (landTrans hm (by decide)) _ _ _ _ _ _ ?_

theorem applyY_keeps {m : Nat} {s0 : State} (hm : m.land 100 = 100) (s : State) (y : ℤ) (h_s : Keeps m s0 s) :
    Keeps m s0 (applyY s y) := by
  unfold applyY
  repeat' first
    | with_reducible assumption
    | (extract_lets -underBinder +onlyGivenNames x; first
      | (guard_hyp x : State := _; refine (fun (hx : Keeps m s0 x) => ?_) ?_ <;> [clear_value x; subst x])
      | clear_value x)
    | with_reducible refine State.setS_keeps (landTrans hm (by decide)) _ _ _ _ _ ?_
    | fail_if_no_progress (with_reducible refine upd_clk_servo (landTrans hm (by decide)) _ _ ?_)

theorem publishTe_keeps {m : Nat} {s0 : State} (hm : m.land 4 = 4) (s : State) (h_s : Keeps m s0 s) :
    Keeps m s0 (publishTe s) := by
  unfold publishTe
  repeat' first
    | with_reducible assumption
    | with_reducible refine State.set_keeps (landTrans hm (by decide)) _ _ _ _ _ ?_

theorem enterTime_keeps {m : Nat} {s0 : State} (hm : m.land 34384905318 = 34384905318) (s : State) (t : ℕ) (h_s : Keeps m s0 s) :
    Keeps m s0 (enterTime s t) := by
  unfold enterTime
  repeat' first
    | with_reducible assumption
    | (extract_lets -underBinder +onlyGivenNames x; first
      | (guard_hyp x : State := _; refine (fun (hx : Keeps m s0 x) => ?_) ?_ <;> [clear_value x; subst x])
      | clear_value x)
    | with_reducible refine State.set_keeps (landTrans hm (by decide)) _ _ _ _ _ ?_
    | with_reducible refine applyY_keeps (landTrans hm (by decide)) _ _ ?_
    | with_reducible refine publishTe_keeps (landTrans hm (by decide)) _ ?_
    | with_reducible refine signalTime_keeps (landTrans hm (by decide)) _ _ ?_
    | with_reducible refine ite_keeps ?_ ?_
    | fail_if_no_progress (with_reducible refine upd_servo (landTrans hm (by decide)) _ ?_)

theorem chooseUpstream_keeps {m : Nat} {s0 : State} (hm : m.land 34384905318 = 34384905318) (s : State) (h_s : Keeps m s0 s) :
    Keeps m s0 (chooseUpstream s) := by
  unfold chooseUpstream
  repeat' first
    | with_reducible assumption
    | (extract_lets -underBinder +onlyGivenNames x; clear_value x)
    | with_reducible refine State.set_keeps (landTrans hm (by decide)) _ _ _ _ _ ?_
    | with_reducible refine enterTime_keeps (landTrans hm (by decide)) _ _ ?_
    | with_reducible refine ite_keeps ?_ ?_
    | split
    | fail_if_no_progress (with_reducible refine upd_servo (landTrans hm (by decide)) _ ?_)

theorem almStart_keeps {m : Nat} {s0 : State} (hm : m.land 34384905318 = 34384905318) (s : State) (h_s : Keeps m s0 s) :
    Keeps m s0 (almStart s) := by
  unfold almStart
  repeat' first
    | with_reducible assumption
    | (extract_lets -underBinder +onlyGivenNames x; first
      | (guard_hyp x : State := _; refine (fun (hx : Keeps m s0 x) => ?_) ?_ <;> [clear_value x; subst x])
      | clear_value x)
    | with_reducible refine startFn_keeps (landTrans hm (by decide)) _ _ _ ?_
    | with_reducible refine State.set_keeps (landTrans hm (by decide)) _ _ _ _ _ ?_
    | with_reducible refine chooseUpstream_keeps (landTrans hm (by decide)) _ ?_
    | with_reducible refine ite_keeps ?_ ?_
    | fail_if_no_progress (with_reducible refine upd_servo (landTrans hm (by decide)) _ ?_)

theorem servoStopped_keeps {m : Nat} {s0 : State} (hm : m.land 34384905318 = 34384905318) (s : State) (h_s : Keeps m s0 s) :
    Keeps m s0 (servoStopped s) := by
  unfold servoStopped
  repeat' first
    | with_reducible assumption
    | (extract_lets -underBinder +onlyGivenNames x; clear_value x)
    | with_reducible refine enterTime_keeps (landTrans hm (by decide)) _ _ ?_
    | with_reducible refine ite_keeps ?_ ?_
    | fail_if_no_progress (with_reducible refine upd_clk (landTrans hm (by decide)) _ ?_)

theorem almStop_keeps {m : Nat} {s0 : State} (hm : m.land 34384905318 = 34384905318) (s : State) (h_s : Keeps m s0 s) :
    Keeps m s0 (almStop s) := by
  unfold almStop
  repeat' first
    | with_reducible assumption
    | with_reducible refine servoStopped_keeps (landTrans hm (by decide)) _ ?_
    | with_reducible refine setFnState_keeps (landTrans hm (by decide)) _ _ _ ?_
    | with_reducible refine ite_keeps ?_ ?_

theorem writeIncrLo_keeps {m : Nat} {s0 : State} (hm : m.land 4194348 = 4194348) (s : State) (v : Word) (h_s : Keeps m s0 s) :
    Keeps m s0 (writeIncrLo s v) := by
  unfold writeIncrLo
  repeat' first
    | with_reducible assumption
    | (extract_lets -underBinder +onlyGivenNames x; clear_value x)
    | with_reducible refine rewritten_keeps (landTrans hm (by decide)) _ _ ?_
    | with_reducible refine rejectCfg_keeps (landTrans hm (by decide)) _ _ ?_
    | with_reducible refine ite_keeps ?_ ?_
    | fail_if_no_progress (with_reducible refine upd_clk (landTrans hm (by decide)) _ ?_)

theorem writeIncrHi_keeps {m : Nat} {s0 : State} (hm : m.land 4194348 = 4194348) (s : State) (v : Word) (h_s : Keeps m s0 s) :
    Keeps m s0 (writeIncrHi s v) := by
  unfold writeIncrHi
  repeat' first
    | with_reducible assumption
    | (extract_lets -underBinder +onlyGivenNames x; clear_value x)
    | with_reducible refine rewritten_keeps (landTrans hm (by decide)) _ _ ?_
    | with_reducible refine rejectCfg_keeps (landTrans hm (by decide)) _ _ ?_
    | with_reducible refine ite_keeps ?_ ?_
    | fail_if_no_progress (with_reducible refine upd_clk (landTrans hm (by decide)) _ ?_)

theorem writeSetHi_keeps {m : Nat} {s0 : State} (hm : m.land 36 = 36) (s : State) (v : Word) (h_s : Keeps m s0 s) :
    Keeps m s0 (writeSetHi s v) := by
  unfold writeSetHi
  repeat' first
    | with_reducible assumption
    | (extract_lets -underBinder +onlyGivenNames x; clear_value x)
    | with_reducible refine rejectCfg_keeps (landTrans hm (by decide)) _ _ ?_
    | with_reducible refine ite_keeps ?_ ?_
    | fail_if_no_progress (with_reducible refine upd_clk (landTrans hm (by decide)) _ ?_)

theorem writeStep_keeps {m : Nat} {s0 : State} (hm : m.land 36 = 36) (s : State) (v : Word) (h_s : Keeps m s0 s) :
    Keeps m s0 (writeStep s v) := by
  unfold writeStep
  repeat' first
    | with_reducible assumption
    | (extract_lets -underBinder +onlyGivenNames x; clear_value x)
    | with_reducible refine rejectCfg_keeps (landTrans hm (by decide)) _ _ ?_
    | with_reducible refine ite_keeps ?_ ?_
    | fail_if_no_progress (with_reducible refine upd_clk (landTrans hm (by decide)) _ ?_)

theorem splitMs_keeps {m : Nat} {s0 : State} (hm : m.land 64 = 64) (s : State) (upTo : ℕ) (h_s : Keeps m s0 s) :
    Keeps m s0 (splitMs s upTo) := by
  unfold splitMs
  repeat' first
    | with_reducible assumption
    | (extract_lets -underBinder +onlyGivenNames x; clear_value x)
    | with_reducible refine ite_keeps ?_ ?_
    | fail_if_no_progress (with_reducible refine upd_servo (landTrans hm (by decide)) _ ?_)

theorem synceTurn_keeps {m : Nat} {s0 : State} (hm : m.land 68 = 68) (s : State) (v : Word) (h_s : Keeps m s0 s) :
    Keeps m s0 (synceTurn s v) := by
  unfold synceTurn
  repeat' first
    | with_reducible assumption
    | (extract_lets -underBinder +onlyGivenNames x; first
      | (guard_hyp x : State := _; refine (fun (hx : Keeps m s0 x) => ?_) ?_ <;> [clear_value x; subst x])
      | clear_value x)
    | with_reducible refine splitMs_keeps (landTrans hm (by decide)) _ _ ?_
    | with_reducible refine State.set_keeps (landTrans hm (by decide)) _ _ _ _ _ ?_
    | with_reducible refine ite_keeps ?_ ?_
    | fail_if_no_progress (with_reducible refine upd_servo (landTrans hm (by decide)) _ ?_)

theorem writeSynce_keeps {m : Nat} {s0 : State} (hm : m.land 4194380 = 4194380) (s : State) (v : Word) (h_s : Keeps m s0 s) :
    Keeps m s0 (writeSynce s v) := by
  unfold writeSynce
  repeat' first
    | with_reducible assumption
    | (extract_lets -underBinder +onlyGivenNames x; guard_hyp x : State := _; refine (fun (hx : Keeps m s0 x) => ?_) ?_ <;> [clear_value x; subst x])
    | with_reducible refine synceTurn_keeps (landTrans hm (by decide)) _ _ ?_
    | with_reducible refine rewritten_keeps (landTrans hm (by decide)) _ _ ?_
    | with_reducible refine State.set_keeps (landTrans hm (by decide)) _ _ _ _ _ ?_

theorem setPulse_keeps {m : Nat} {s0 : State} (hm : m.land 128 = 128) (s : State) (k : ℕ) (p : Pulse) (h_s : Keeps m s0 s) :
    Keeps m s0 (setPulse s k p) := by
  unfold setPulse
  repeat' first
    | with_reducible assumption
    | fail_if_no_progress (with_reducible refine upd_pulses (landTrans hm (by decide)) _ ?_)

theorem pulseOff_keeps {m : Nat} {s0 : State} (hm : m.land 128 = 128) (s : State) (k : ℕ) (h_s : Keeps m s0 s) :
    Keeps m s0 (pulseOff s k) := by
  unfold pulseOff
  repeat' first
    | with_reducible assumption
    | (extract_lets -underBinder +onlyGivenNames x; clear_value x)
    | with_reducible refine setPulse_keeps (landTrans hm (by decide)) _ _ _ ?_

theorem armPulse_keeps {m : Nat} {s0 : State} (hm : m.land 132 = 132) (s : State) (k : ℕ) (mode : ℕ) (h_s : Keeps m s0 s) :
    Keeps m s0 (armPulse s k mode) := by
  unfold armPulse
  repeat' first
    | with_reducible assumption
    | (extract_lets -underBinder +onlyGivenNames x; first
      | (guard_hyp x : State := _; refine (fun (hx : Keeps m s0 x) => ?_) ?_ <;> [clear_value x; subst x])
      | clear_value x)
    | with_reducible refine setPulse_keeps (landTrans hm (by decide)) _ _ _ ?_
    | with_reducible refine State.set_keeps (landTrans hm (by decide)) _ _ _ _ _ ?_
    | with_reducible refine ite_keeps ?_ ?_

theorem writePulseCtrl_keeps {m : Nat} {s0 : State} (hm : m.land 4194444 = 4194444) (s : State) (k : ℕ) (v : Word) (h_s : Keeps m s0 s) :
    Keeps m s0 (writePulseCtrl s k v) := by
  unfold writePulseCtrl
  repeat' first
    | with_reducible assumption
    | (extract_lets -underBinder +onlyGivenNames x; first
      | (guard_hyp x : State := _; refine (fun (hx : Keeps m s0 x) => ?_) ?_ <;> [clear_value x; subst x])
      | clear_value x)
    | with_reducible refine rewritten_keeps (landTrans hm (by decide)) _ _ ?_
    | with_reducible refine State.set_keeps (landTrans hm (by decide)) _ _ _ _ _ ?_
    | with_reducible refine pulseOff_keeps (landTrans hm (by decide)) _ _ ?_
    | with_reducible refine armPulse_keeps (landTrans hm (by decide)) _ _ _ ?_
    | with_reducible refine setPulse_keeps (landTrans hm (by decide)) _ _ _ ?_
    | with_reducible refine ite_keeps ?_ ?_
    | split

theorem takeStart_keeps {m : Nat} {s0 : State} (hm : m.land 132 = 132) (s : State) (k : ℕ) (h_s : Keeps m s0 s) :
    Keeps m s0 (takeStart s k) := by
  unfold takeStart
  repeat' first
    | with_reducible assumption
    | (extract_lets -underBinder +onlyGivenNames x; first
      | (guard_hyp x : State := _; refine (fun (hx : Keeps m s0 x) => ?_) ?_ <;> [clear_value x; subst x])
      | clear_value x)
    | with_reducible refine setPulse_keeps (landTrans hm (by decide)) _ _ _ ?_
    | with_reducible refine armPulse_keeps (landTrans hm (by decide)) _ _ _ ?_
    | with_reducible refine ite_keeps ?_ ?_

theorem writePulseStart_keeps {m : Nat} {s0 : State} (hm : m.land 4194444 = 4194444) (s : State) (k : ℕ) (v : Word) (h_s : Keeps m s0 s) :
    Keeps m s0 (writePulseStart s k v) := by
  unfold writePulseStart
  repeat' first
    | with_reducible assumption
    | with_reducible refine takeStart_keeps (landTrans hm (by decide)) _ _ ?_
    | with_reducible refine rewritten_keeps (landTrans hm (by decide)) _ _ ?_
    | with_reducible refine State.set_keeps (landTrans hm (by decide)) _ _ _ _ _ ?_

theorem almDoubt_keeps {m : Nat} {s0 : State} (hm : m.land 196 = 196) (s : State) (o : ℕ) (h_s : Keeps m s0 s) :
    Keeps m s0 (almDoubt s o) := by
  unfold almDoubt
  repeat' first
    | with_reducible assumption
    | with_reducible refine synceTurn_keeps (landTrans hm (by decide)) _ _ ?_
    | with_reducible refine pulseOff_keeps (landTrans hm (by decide)) _ _ ?_
    | with_reducible refine takeStart_keeps (landTrans hm (by decide)) _ _ ?_
    | with_reducible refine ite_keeps ?_ ?_
    | split

theorem almFault_keeps {m : Nat} {s0 : State} (hm : m.land 34384905318 = 34384905318) (s : State) (c : ℕ) (h_s : Keeps m s0 s) :
    Keeps m s0 (almFault s c) := by
  unfold almFault
  repeat' first
    | with_reducible assumption
    | with_reducible refine servoStopped_keeps (landTrans hm (by decide)) _ ?_
    | with_reducible refine faultFn_keeps (landTrans hm (by decide)) _ _ _ ?_
    | with_reducible refine ite_keeps ?_ ?_

theorem loadIncr_keeps {m : Nat} {s0 : State} (hm : m.land 36 = 36) (s : State) (v : ℕ) (h_s : Keeps m s0 s) :
    Keeps m s0 (loadIncr s v) := by
  unfold loadIncr
  repeat' first
    | with_reducible assumption
    | (extract_lets -underBinder +onlyGivenNames x; first
      | (guard_hyp x : State := _; refine (fun (hx : Keeps m s0 x) => ?_) ?_ <;> [clear_value x; subst x])
      | clear_value x)
    | with_reducible refine State.set2_keeps (landTrans hm (by decide)) _ _ _ _ _ _ ?_
    | fail_if_no_progress (with_reducible refine upd_clk (landTrans hm (by decide)) _ ?_)

theorem pulseSkip_keeps {m : Nat} {s0 : State} (hm : m.land 132 = 132) (before : ℕ) (s : State) (k : ℕ) (h_s : Keeps m s0 s) :
    Keeps m s0 (pulseSkip before s k) := by
  unfold pulseSkip
  repeat' first
    | with_reducible assumption
    | (extract_lets -underBinder +onlyGivenNames x; first
      | (guard_hyp x : State := _; refine (fun (hx : Keeps m s0 x) => ?_) ?_ <;> [clear_value x; subst x])
      | clear_value x)
    | with_reducible refine State.bumpSat_keeps (landTrans hm (by decide)) _ _ _ _ _ ?_
    | with_reducible refine setPulse_keeps (landTrans hm (by decide)) _ _ _ ?_
    | with_reducible refine ite_keeps ?_ ?_
    | split

theorem almTick_keeps {m : Nat} {s0 : State} (hm : m.land 740 = 740) (s : State) (h_s : Keeps m s0 s) :
    Keeps m s0 (almTick s) := by
  unfold almTick
  repeat' first
    | with_reducible assumption
    | intro _
    | (extract_lets -underBinder +onlyGivenNames x; first
      | (guard_hyp x : State := _; refine (fun (hx : Keeps m s0 x) => ?_) ?_ <;> [clear_value x; subst x])
      | clear_value x)
    | with_reducible refine loadIncr_keeps (landTrans hm (by decide)) _ _ ?_
    | with_reducible refine calRecompute_keeps (landTrans hm (by decide)) _ ?_
    | with_reducible refine forEach_keeps (landTrans hm (by decide)) _ _ _ ?_ ?_
    | with_reducible refine pulseSkip_keeps (landTrans hm (by decide)) _ _ _ ?_
    | with_reducible refine State.set_keeps (landTrans hm (by decide)) _ _ _ _ _ ?_
    | split
    | fail_if_no_progress (with_reducible refine upd_clk (landTrans hm (by decide)) _ ?_)
    | fail_if_no_progress (with_reducible refine upd_clk_servo (landTrans hm (by decide)) _ _ ?_)

theorem raiseFloor_keeps {m : Nat} {s0 : State} (hm : m.land 4 = 4) (s : State) (st : Word) (src : ℕ) (h_s : Keeps m s0 s) :
    Keeps m s0 (raiseFloor s st src) := by
  unfold raiseFloor
  repeat' first
    | with_reducible assumption
    | (extract_lets -underBinder +onlyGivenNames x; first
      | (guard_hyp x : State := _; refine (fun (hx : Keeps m s0 x) => ?_) ?_ <;> [clear_value x; subst x])
      | clear_value x)
    | with_reducible refine State.set2_keeps (landTrans hm (by decide)) _ _ _ _ _ _ ?_
    | with_reducible refine State.set_keeps (landTrans hm (by decide)) _ _ _ _ _ ?_
    | with_reducible refine ite_keeps ?_ ?_

theorem readNsLo_keeps {m : Nat} {s0 : State} (hm : m.land 20 = 20) (s : State) (h_s : Keeps m s0 s) :
    Keeps m s0 (readNsLo s) := by
  unfold readNsLo
  repeat' first
    | with_reducible assumption
    | (extract_lets -underBinder +onlyGivenNames x; guard_hyp x : State := _; refine (fun (hx : Keeps m s0 x) => ?_) ?_ <;> [clear_value x; subst x])
    | with_reducible refine State.set_keeps (landTrans hm (by decide)) _ _ _ _ _ ?_
    | fail_if_no_progress (with_reducible refine upd_rdata (landTrans hm (by decide)) _ ?_)

theorem setCapt_keeps {m : Nat} {s0 : State} (hm : m.land 260 = 260) (s : State) (k : ℕ) (l : List (BitVec 64)) (h_s : Keeps m s0 s) :
    Keeps m s0 (setCapt s k l) := by
  unfold setCapt
  repeat' first
    | with_reducible assumption
    | with_reducible refine State.set_keeps (landTrans hm (by decide)) _ _ _ _ _ ?_
    | fail_if_no_progress (with_reducible refine upd_capt (landTrans hm (by decide)) _ ?_)

theorem captureRead_keeps {m : Nat} {s0 : State} (hm : m.land 276 = 276) (s : State) (k : ℕ) (h_s : Keeps m s0 s) :
    Keeps m s0 (captureRead s k) := by
  unfold captureRead
  repeat' first
    | with_reducible assumption
    | (extract_lets -underBinder +onlyGivenNames x; first
      | (guard_hyp x : State := _; refine (fun (hx : Keeps m s0 x) => ?_) ?_ <;> [clear_value x; subst x])
      | clear_value x)
    | with_reducible refine State.set_keeps (landTrans hm (by decide)) _ _ _ _ _ ?_
    | with_reducible refine setCapt_keeps (landTrans hm (by decide)) _ _ _ ?_
    | fail_if_no_progress (with_reducible refine upd_rdata (landTrans hm (by decide)) _ ?_)

theorem captureEdge_keeps {m : Nat} {s0 : State} (hm : m.land 260 = 260) (s : State) (k : ℕ) (rising : Bool) (q : ℕ) (h_s : Keeps m s0 s) :
    Keeps m s0 (captureEdge s k rising q) := by
  unfold captureEdge
  repeat' first
    | with_reducible assumption
    | (extract_lets -underBinder +onlyGivenNames x; clear_value x)
    | with_reducible refine setCapt_keeps (landTrans hm (by decide)) _ _ _ ?_
    | with_reducible refine State.set_keeps (landTrans hm (by decide)) _ _ _ _ _ ?_
    | with_reducible refine ite_keeps ?_ ?_

theorem countLock_keeps {m : Nat} {s0 : State} (hm : m.land 34384905318 = 34384905318) (s : State) (e : ℤ) (h_s : Keeps m s0 s) :
    Keeps m s0 (countLock s e) := by
  unfold countLock
  repeat' first
    | with_reducible assumption
    | (extract_lets -underBinder +onlyGivenNames x; first
      | (guard_hyp x : State := _; refine (fun (hx : Keeps m s0 x) => ?_) ?_ <;> [clear_value x; subst x])
      | clear_value x)
    | with_reducible refine enterTime_keeps (landTrans hm (by decide)) _ _ ?_
    | with_reducible refine ite_keeps ?_ ?_
    | fail_if_no_progress (with_reducible refine upd_servo (landTrans hm (by decide)) _ ?_)

theorem delayExchange_keeps {m : Nat} {s0 : State} (hm : m.land 68 = 68) (s : State) (sub : ℕ) (dom : ℕ) (tr : ℕ) (seq : ℕ) (t4 : ℤ) (c : ℤ) (h_s : Keeps m s0 s) :
    Keeps m s0 (delayExchange s sub dom tr seq t4 c) := by
  unfold delayExchange
  repeat' first
    | with_reducible assumption
    | (extract_lets -underBinder +onlyGivenNames x; first
      | (guard_hyp x : State := _; refine (fun (hx : Keeps m s0 x) => ?_) ?_ <;> [clear_value x; subst x])
      | clear_value x)
    | with_reducible refine State.setS_keeps (landTrans hm (by decide)) _ _ _ _ _ ?_
    | with_reducible refine ite_keeps ?_ ?_
    | split
    | fail_if_no_progress (with_reducible refine upd_servo (landTrans hm (by decide)) _ ?_)

theorem execAlmNsLoRead_keeps {m : Nat} {s0 : State} (hm : m.land 20 = 20) (s : State) (h_s : Keeps m s0 s) :
    KeepsX m s0 (execAlmNsLoRead s) :=
  next_keeps (readNsLo_keeps hm _ h_s)

theorem execAlmStart_keeps {m : Nat} {s0 : State} (hm : m.land 34384905318 = 34384905318) (s : State) (h_s : Keeps m s0 s) :
    KeepsX m s0 (execAlmStart s) :=
  next_keeps (almStart_keeps hm _ h_s)

theorem execAlmStop_keeps {m : Nat} {s0 : State} (hm : m.land 34384905318 = 34384905318) (s : State) (h_s : Keeps m s0 s) :
    KeepsX m s0 (execAlmStop s) :=
  next_keeps (almStop_keeps hm _ h_s)

theorem execAlmanacTick_keeps {m : Nat} {s0 : State} (hm : m.land 740 = 740) (s : State) (h_s : Keeps m s0 s) :
    KeepsX m s0 (execAlmanacTick s) :=
  next_keeps (almTick_keeps hm _ h_s)

theorem execCaptureEdge_keeps {m : Nat} {s0 : State} (hm : m.land 260 = 260) (k : ℕ) (rising : Bool) (q : ℕ) (s : State) (h_s : Keeps m s0 s) :
    KeepsX m s0 (execCaptureEdge k rising q s) := by
  unfold execCaptureEdge
  repeat' first
    | with_reducible assumption
    | with_reducible refine captureEdge_keeps (landTrans hm (by decide)) _ _ _ _ ?_
    | with_reducible refine ite_keeps ?_ ?_
    | with_reducible refine next_keeps ?_

theorem execCaptureRead_keeps {m : Nat} {s0 : State} (hm : m.land 276 = 276) (k : ℕ) (s : State) (h_s : Keeps m s0 s) :
    KeepsX m s0 (execCaptureRead k s) := by
  unfold execCaptureRead
  repeat' first
    | with_reducible assumption
    | with_reducible refine captureRead_keeps (landTrans hm (by decide)) _ _ ?_
    | with_reducible refine ite_keeps ?_ ?_
    | with_reducible refine next_keeps ?_

theorem execDelayRespReceived_keeps {m : Nat} {s0 : State} (hm : m.land 68 = 68) (h : PtpHead) (t4 : ℤ) (corr : ℤ) (s : State) (h_s : Keeps m s0 s) :
    KeepsX m s0 (execDelayRespReceived h t4 corr s) :=
  next_keeps (delayExchange_keeps hm _ _ _ _ _ _ _ h_s)

theorem execFhLinkChange_keeps {m : Nat} {s0 : State} (hm : m.land 34384905318 = 34384905318) (p : ℕ) (k : ℕ) (up : Bool) (s : State) (h_s : Keeps m s0 s) :
    KeepsX m s0 (execFhLinkChange p k up s) := by
  unfold execFhLinkChange
  repeat' first
    | with_reducible assumption
    | with_reducible refine chooseUpstream_keeps (landTrans hm (by decide)) _ ?_
    | with_reducible refine State.set_keeps (landTrans hm (by decide)) _ _ _ _ _ ?_
    | with_reducible refine ite_keeps ?_ ?_
    | with_reducible refine next_keeps ?_

theorem teUpdate_keeps {m : Nat} {s0 : State} (hm : m.land 34384905318 = 34384905318) (s : State) (h_s : Keeps m s0 s) :
    Keeps m s0 (teUpdate s) := by
  unfold teUpdate
  repeat' first
    | with_reducible assumption
    | (extract_lets -underBinder +onlyGivenNames x; first
      | (guard_hyp x : State := _; refine (fun (hx : Keeps m s0 x) => ?_) ?_ <;> [clear_value x; subst x])
      | clear_value x)
    | with_reducible refine splitMs_keeps (landTrans hm (by decide)) _ _ ?_
    | with_reducible refine publishTe_keeps (landTrans hm (by decide)) _ ?_
    | with_reducible refine enterTime_keeps (landTrans hm (by decide)) _ _ ?_
    | with_reducible refine ite_keeps ?_ ?_
    | fail_if_no_progress (with_reducible refine upd_servo (landTrans hm (by decide)) _ ?_)

theorem execHoldoverTeUpdate_keeps {m : Nat} {s0 : State} (hm : m.land 34384905318 = 34384905318) (s : State) (h_s : Keeps m s0 s) :
    KeepsX m s0 (execHoldoverTeUpdate s) :=
  next_keeps (teUpdate_keeps hm _ h_s)

theorem execIncrementWrite_keeps {m : Nat} {s0 : State} (hm : m.land 4194348 = 4194348) (v : Word) (s : State) (h_s : Keeps m s0 s) :
    KeepsX m s0 (execIncrementWrite v s) :=
  next_keeps (writeIncrHi_keeps hm _ _ h_s)

theorem lossTimeout_keeps {m : Nat} {s0 : State} (hm : m.land 34384905318 = 34384905318) (s : State) (h_s : Keeps m s0 s) :
    Keeps m s0 (lossTimeout s) := by
  unfold lossTimeout
  repeat' first
    | with_reducible assumption
    | with_reducible refine enterTime_keeps (landTrans hm (by decide)) _ _ ?_
    | with_reducible refine ite_keeps ?_ ?_

theorem execLossTimeout_keeps {m : Nat} {s0 : State} (hm : m.land 34384905318 = 34384905318) (s : State) (h_s : Keeps m s0 s) :
    KeepsX m s0 (execLossTimeout s) :=
  next_keeps (lossTimeout_keeps hm _ h_s)

theorem noteValid_keeps {m : Nat} {s0 : State} (hm : m.land 64 = 64) (s : State) (e : ℤ) (h_s : Keeps m s0 s) :
    Keeps m s0 (noteValid s e) := by
  unfold noteValid
  repeat' first
    | with_reducible assumption
    | (extract_lets -underBinder +onlyGivenNames x; clear_value x)
    | fail_if_no_progress (with_reducible refine upd_servo (landTrans hm (by decide)) _ ?_)

theorem servoUpdate_keeps {m : Nat} {s0 : State} (hm : m.land 100 = 100) (s : State) (e : ℤ) (h_s : Keeps m s0 s) :
    Keeps m s0 (servoUpdate s e) := by
  unfold servoUpdate
  repeat' first
    | with_reducible assumption
    | (extract_lets -underBinder +onlyGivenNames x; clear_value x)
    | with_reducible refine applyY_keeps (landTrans hm (by decide)) _ _ ?_
    | fail_if_no_progress (with_reducible refine upd_servo (landTrans hm (by decide)) _ ?_)

theorem sampleAcquiring_keeps {m : Nat} {s0 : State} (hm : m.land 34384905318 = 34384905318) (s : State) (e : ℤ) (h_s : Keeps m s0 s) :
    Keeps m s0 (sampleAcquiring s e) := by
  unfold sampleAcquiring
  repeat' first
    | with_reducible assumption
    | (extract_lets -underBinder +onlyGivenNames x; first
      | (guard_hyp x : State := _; refine (fun (hx : Keeps m s0 x) => ?_) ?_ <;> [clear_value x; subst x])
      | clear_value x)
    | with_reducible refine noteValid_keeps (landTrans hm (by decide)) _ _ ?_
    | with_reducible refine countLock_keeps (landTrans hm (by decide)) _ _ ?_
    | with_reducible refine servoUpdate_keeps (landTrans hm (by decide)) _ _ ?_
    | with_reducible refine ite_keeps ?_ ?_
    | fail_if_no_progress (with_reducible refine upd_clk (landTrans hm (by decide)) _ ?_)

theorem sampleLocked_keeps {m : Nat} {s0 : State} (hm : m.land 34384905318 = 34384905318) (s : State) (e : ℤ) (h_s : Keeps m s0 s) :
    Keeps m s0 (sampleLocked s e) := by
  unfold sampleLocked
  repeat' first
    | with_reducible assumption
    | (extract_lets -underBinder +onlyGivenNames x; clear_value x)
    | with_reducible refine State.bumpSat_keeps (landTrans hm (by decide)) _ _ _ _ _ ?_
    | with_reducible refine enterTime_keeps (landTrans hm (by decide)) _ _ ?_
    | with_reducible refine servoUpdate_keeps (landTrans hm (by decide)) _ _ ?_
    | with_reducible refine noteValid_keeps (landTrans hm (by decide)) _ _ ?_
    | with_reducible refine ite_keeps ?_ ?_
    | fail_if_no_progress (with_reducible refine upd_servo (landTrans hm (by decide)) _ ?_)

theorem sampleHoldover_keeps {m : Nat} {s0 : State} (hm : m.land 34384905318 = 34384905318) (s : State) (e : ℤ) (h_s : Keeps m s0 s) :
    Keeps m s0 (sampleHoldover s e) := by
  unfold sampleHoldover
  repeat' first
    | with_reducible assumption
    | (extract_lets -underBinder +onlyGivenNames x; first
      | (guard_hyp x : State := _; refine (fun (hx : Keeps m s0 x) => ?_) ?_ <;> [clear_value x; subst x])
      | clear_value x)
    | with_reducible refine servoUpdate_keeps (landTrans hm (by decide)) _ _ ?_
    | with_reducible refine noteValid_keeps (landTrans hm (by decide)) _ _ ?_
    | with_reducible refine enterTime_keeps (landTrans hm (by decide)) _ _ ?_
    | with_reducible refine countLock_keeps (landTrans hm (by decide)) _ _ ?_
    | with_reducible refine ite_keeps ?_ ?_
    | fail_if_no_progress (with_reducible refine upd_servo (landTrans hm (by decide)) _ ?_)

theorem takeSample_keeps {m : Nat} {s0 : State} (hm : m.land 34384905318 = 34384905318) (s : State) (e : ℤ) (h_s : Keeps m s0 s) :
    Keeps m s0 (takeSample s e) := by
  unfold takeSample
  repeat' first
    | with_reducible assumption
    | (extract_lets -underBinder +onlyGivenNames x; first
      | (guard_hyp x : State := _; refine (fun (hx : Keeps m s0 x) => ?_) ?_ <;> [clear_value x; subst x])
      | clear_value x)
    | with_reducible refine State.setS_keeps (landTrans hm (by decide)) _ _ _ _ _ ?_
    | with_reducible refine sampleAcquiring_keeps (landTrans hm (by decide)) _ _ ?_
    | with_reducible refine enterTime_keeps (landTrans hm (by decide)) _ _ ?_
    | with_reducible refine sampleLocked_keeps (landTrans hm (by decide)) _ _ ?_
    | with_reducible refine sampleHoldover_keeps (landTrans hm (by decide)) _ _ ?_
    | with_reducible refine ite_keeps ?_ ?_

theorem ppsSample_keeps {m : Nat} {s0 : State} (hm : m.land 34384905318 = 34384905318) (s : State) (q : ℕ) (h_s : Keeps m s0 s) :
    Keeps m s0 (ppsSample s q) := by
  unfold ppsSample
  repeat' first
    | with_reducible assumption
    | (extract_lets -underBinder +onlyGivenNames x; clear_value x)
    | with_reducible refine takeSample_keeps (landTrans hm (by decide)) _ _ ?_
    | with_reducible refine ite_keeps ?_ ?_

theorem execPpsEdge_keeps {m : Nat} {s0 : State} (hm : m.land 34384905318 = 34384905318) (q : ℕ) (s : State) (h_s : Keeps m s0 s) :
    KeepsX m s0 (execPpsEdge q s) :=
  next_keeps (ppsSample_keeps hm _ _ h_s)

theorem execPulseCtrlWrite_keeps {m : Nat} {s0 : State} (hm : m.land 4194444 = 4194444) (k : ℕ) (v : Word) (s : State) (h_s : Keeps m s0 s) :
    KeepsX m s0 (execPulseCtrlWrite k v s) := by
  unfold execPulseCtrlWrite
  repeat' first
    | with_reducible assumption
    | with_reducible refine writePulseCtrl_keeps (landTrans hm (by decide)) _ _ _ ?_
    | with_reducible refine ite_keeps ?_ ?_
    | with_reducible refine next_keeps ?_

theorem pulseLead_keeps {m : Nat} {s0 : State} (hm : m.land 128 = 128) (s : State) (k : ℕ) (h_s : Keeps m s0 s) :
    Keeps m s0 (pulseLead s k) := by
  unfold pulseLead
  repeat' first
    | with_reducible assumption
    | (extract_lets -underBinder +onlyGivenNames x; clear_value x)
    | with_reducible refine setPulse_keeps (landTrans hm (by decide)) _ _ _ ?_
    | with_reducible refine ite_keeps ?_ ?_
    | split

theorem execPulseLeadEdge_keeps {m : Nat} {s0 : State} (hm : m.land 128 = 128) (k : ℕ) (s : State) (h_s : Keeps m s0 s) :
    KeepsX m s0 (execPulseLeadEdge k s) := by
  unfold execPulseLeadEdge
  repeat' first
    | with_reducible assumption
    | with_reducible refine pulseLead_keeps (landTrans hm (by decide)) _ _ ?_
    | with_reducible refine ite_keeps ?_ ?_
    | with_reducible refine next_keeps ?_

theorem execPulseStartWrite_keeps {m : Nat} {s0 : State} (hm : m.land 4194444 = 4194444) (k : ℕ) (v : Word) (s : State) (h_s : Keeps m s0 s) :
    KeepsX m s0 (execPulseStartWrite k v s) := by
  unfold execPulseStartWrite
  repeat' first
    | with_reducible assumption
    | with_reducible refine writePulseStart_keeps (landTrans hm (by decide)) _ _ _ ?_
    | with_reducible refine ite_keeps ?_ ?_
    | with_reducible refine next_keeps ?_

theorem pulseTrail_keeps {m : Nat} {s0 : State} (hm : m.land 128 = 128) (s : State) (k : ℕ) (h_s : Keeps m s0 s) :
    Keeps m s0 (pulseTrail s k) := by
  unfold pulseTrail
  repeat' first
    | with_reducible assumption
    | (extract_lets -underBinder +onlyGivenNames x; clear_value x)
    | with_reducible refine setPulse_keeps (landTrans hm (by decide)) _ _ _ ?_
    | with_reducible refine ite_keeps ?_ ?_
    | split

theorem execPulseTrailEdge_keeps {m : Nat} {s0 : State} (hm : m.land 128 = 128) (k : ℕ) (s : State) (h_s : Keeps m s0 s) :
    KeepsX m s0 (execPulseTrailEdge k s) := by
  unfold execPulseTrailEdge
  repeat' first
    | with_reducible assumption
    | with_reducible refine pulseTrail_keeps (landTrans hm (by decide)) _ _ ?_
    | with_reducible refine ite_keeps ?_ ?_
    | with_reducible refine next_keeps ?_

theorem execServoStep_keeps {m : Nat} {s0 : State} (hm : m.land 740 = 740) (s : State) (h_s : Keeps m s0 s) :
    KeepsX m s0 (execServoStep s) := by
  unfold execServoStep
  repeat' first
    | with_reducible assumption
    | with_reducible refine almTick_keeps (landTrans hm (by decide)) _ ?_
    | with_reducible refine ite_keeps ?_ ?_
    | with_reducible refine next_keeps ?_

theorem execSetTime_keeps {m : Nat} {s0 : State} (hm : m.land 36 = 36) (v : Word) (s : State) (h_s : Keeps m s0 s) :
    KeepsX m s0 (execSetTime v s) :=
  next_keeps (writeSetHi_keeps hm _ _ h_s)

theorem execStepTime_keeps {m : Nat} {s0 : State} (hm : m.land 36 = 36) (v : Word) (s : State) (h_s : Keeps m s0 s) :
    KeepsX m s0 (execStepTime v s) :=
  next_keeps (writeStep_keeps hm _ _ h_s)

theorem syncSample_keeps {m : Nat} {s0 : State} (hm : m.land 34384905318 = 34384905318) (s : State) (sub : ℕ) (dom : ℕ) (tr : ℕ) (t1 : ℤ) (c : ℤ) (q : ℕ) (h_s : Keeps m s0 s) :
    Keeps m s0 (syncSample s sub dom tr t1 c q) := by
  unfold syncSample
  repeat' first
    | with_reducible assumption
    | (extract_lets -underBinder +onlyGivenNames x; first
      | (guard_hyp x : State := _; refine (fun (hx : Keeps m s0 x) => ?_) ?_ <;> [clear_value x; subst x])
      | clear_value x)
    | with_reducible refine takeSample_keeps (landTrans hm (by decide)) _ _ ?_
    | with_reducible refine ite_keeps ?_ ?_
    | split
    | fail_if_no_progress (with_reducible refine upd_servo (landTrans hm (by decide)) _ ?_)

theorem execSyncReceived_keeps {m : Nat} {s0 : State} (hm : m.land 34384905318 = 34384905318) (h : PtpHead) (t1 : ℤ) (corr : ℤ) (q : ℕ) (s : State) (h_s : Keeps m s0 s) :
    KeepsX m s0 (execSyncReceived h t1 corr q s) :=
  next_keeps (syncSample_keeps hm _ _ _ _ _ _ _ h_s)

theorem execSynceLossOfSignal_keeps {m : Nat} {s0 : State} (hm : m.land 64 = 64) (s : State) (h_s : Keeps m s0 s) :
    KeepsX m s0 (execSynceLossOfSignal s) := by
  unfold execSynceLossOfSignal
  repeat' first
    | with_reducible assumption
    | (extract_lets -underBinder +onlyGivenNames x; clear_value x)
    | with_reducible refine next_keeps ?_
    | fail_if_no_progress (with_reducible refine upd_servo (landTrans hm (by decide)) _ ?_)

theorem execSynceQualifiedWrite_keeps {m : Nat} {s0 : State} (hm : m.land 4194380 = 4194380) (v : Word) (s : State) (h_s : Keeps m s0 s) :
    KeepsX m s0 (execSynceQualifiedWrite v s) :=
  next_keeps (writeSynce_keeps hm _ _ h_s)

end Sys2Proof.Machine
end

