-- ==== Sys2Proof/Laws/KeepsReports.lean ====
section
/-! SUPPORT. What each operation of Reports.lean keeps: the canonical form, and the parts of the state that it does not name. -/

namespace Sys2Proof.Machine

theorem trace_keeps {m : Nat} {s0 : State} (hm : m.land 4 = 4) (s : State) (n : ℕ) (slot : ℕ) (stream : ℕ) (event : ℕ) (code : ℕ) (tag : ℕ) (ctx : ℕ) (count : ℕ) (h_s : Keeps m s0 s) :
    Keeps m s0 (trace s n slot stream event code tag ctx count) := by
  unfold trace
  repeat' first
    | with_reducible assumption
    | intro _
    | (extract_lets -underBinder +onlyGivenNames x; first
      | (guard_hyp x : State := _; refine (fun (hx : Keeps m s0 x) => ?_) ?_ <;> [clear_value x; subst x])
      | (guard_hyp x : State → Nat → Nat → State := _; refine (fun (hf : ∀ t a b, Keeps m s0 t → Keeps m s0 (x t a b)) => ?_) ?_ <;> [clear_value x; subst x])
      | clear_value x)
    | with_reducible apply hf
    | with_reducible refine State.set_keeps (landTrans hm (by decide)) _ _ _ _ _ ?_
    | with_reducible refine ite_keeps ?_ ?_

theorem journalFlush_keeps {m : Nat} {s0 : State} (hm : m.land 42949673988 = 42949673988) (s : State) (h_s : Keeps m s0 s) :
    Keeps m s0 (journalFlush s) := by
  unfold journalFlush
  repeat' first
    | with_reducible assumption
    | (extract_lets -underBinder +onlyGivenNames x; first
      | (guard_hyp x : State := _; refine (fun (hx : Keeps m s0 x) => ?_) ?_ <;> [clear_value x; subst x])
      | clear_value x)
    | with_reducible refine devStore_keeps (landTrans hm (by decide)) _ _ _ _ ?_
    | with_reducible refine raiseMem_keeps (landTrans hm (by decide)) _ _ _ _ _ _ ?_
    | with_reducible refine State.bump2_keeps (landTrans hm (by decide)) _ _ _ _ _ _ ?_
    | with_reducible refine State.set_keeps (landTrans hm (by decide)) _ _ _ _ _ ?_
    | with_reducible refine ite_keeps ?_ ?_
    | fail_if_no_progress (with_reducible refine upd_jr (landTrans hm (by decide)) _ ?_)

theorem journal_keeps {m : Nat} {s0 : State} (hm : m.land 42949673988 = 42949673988) (s : State) (r : JRec) (h_s : Keeps m s0 s) :
    Keeps m s0 (journal s r) := by
  unfold journal
  repeat' first
    | with_reducible assumption
    | (extract_lets -underBinder +onlyGivenNames x; clear_value x)
    | with_reducible refine issue_keeps (landTrans hm (by decide)) _ ?_
    | with_reducible refine journalFlush_keeps (landTrans hm (by decide)) _ ?_
    | with_reducible refine ite_keeps ?_ ?_
    | split
    | fail_if_no_progress (with_reducible refine upd_jr (landTrans hm (by decide)) _ ?_)

theorem setRep_keeps {m : Nat} {s0 : State} (hm : m.land 8589934596 = 8589934596) (s : State) (p : ℕ) (e : Option RepEnt) (h_s : Keeps m s0 s) :
    Keeps m s0 (setRep s p e) := by
  unfold setRep
  repeat' first
    | with_reducible assumption
    | (extract_lets -underBinder +onlyGivenNames x; first
      | (guard_hyp x : State := _; refine (fun (hx : Keeps m s0 x) => ?_) ?_ <;> [clear_value x; subst x])
      | clear_value x)
    | with_reducible refine State.set_keeps (landTrans hm (by decide)) _ _ _ _ _ ?_
    | fail_if_no_progress (with_reducible refine upd_jr (landTrans hm (by decide)) _ ?_)

theorem setSuspect_keeps {m : Nat} {s0 : State} (hm : m.land 4 = 4) (s : State) (n : ℕ) (v : Bool) (h_s : Keeps m s0 s) :
    Keeps m s0 (setSuspect s n v) := by
  unfold setSuspect
  repeat' first
    | with_reducible assumption
    | (extract_lets -underBinder +onlyGivenNames x; clear_value x)
    | with_reducible refine wrReg_keeps (landTrans hm (by decide)) _ _ _ ?_

theorem raiseMsix_keeps {m : Nat} {s0 : State} (hm : m.land 2097152 = 2097152) (s : State) (f : ℕ) (v : ℕ) (h_s : Keeps m s0 s) :
    Keeps m s0 (raiseMsix s f v) := by
  unfold raiseMsix
  repeat' first
    | with_reducible assumption
    | with_reducible refine ite_keeps ?_ ?_
    | fail_if_no_progress (with_reducible refine upd_msix (landTrans hm (by decide)) _ ?_)

theorem emit_keeps {m : Nat} {s0 : State} (hm : m.land 1073741824 = 1073741824) (s : State) (a1 : Sent) (h_s : Keeps m s0 s) :
    Keeps m s0 (emit s a1) := by
  unfold emit
  repeat' first
    | with_reducible assumption
    | fail_if_no_progress (with_reducible refine upd_sent (landTrans hm (by decide)) _ ?_)

theorem countJob_keeps {m : Nat} {s0 : State} (hm : m.land 4 = 4) (s : State) (f : ℕ) (ok : Bool) (h_s : Keeps m s0 s) :
    Keeps m s0 (countJob s f ok) := by
  unfold countJob
  repeat' first
    | with_reducible assumption
    | with_reducible refine State.bump2_keeps (landTrans hm (by decide)) _ _ _ _ _ _ ?_
    | with_reducible refine ite_keeps ?_ ?_

theorem hostStore_keeps {m : Nat} {s0 : State} (hm : m.land 1073742848 = 1073742848) (s : State) (a : ℕ) (l : Bytes) (ep : Bool) (h_s : Keeps m s0 s) :
    Keeps m s0 (hostStore s a l ep) := by
  unfold hostStore
  dsimp only
  repeat' first
    | (intro w; simp only [State.wf, Mems.wf, Bool.and_eq_true] at w; try simp only [Mems.wf, Bool.and_eq_true]
       first | (simp [w.1, w.2, w, wrBytes_wf, wrM_wf, poisonWrite_wf, mapDropRange, mapFilter_wf, mapPut_wf]; done) | (simp at w; simp [w, wrBytes_wf, wrM_wf, poisonWrite_wf, mapDropRange, mapFilter_wf, mapPut_wf]; done))
    | with_reducible assumption
    | with_reducible refine emit_keeps (landTrans hm (by decide)) _ _ ?_
    | with_reducible refine ite_keeps ?_ ?_
    | fail_if_no_progress (with_reducible refine upd_mems (landTrans hm (by decide)) _ ?_ ?_)

theorem drainRes_keeps {m : Nat} {s0 : State} (hm : m.land 1075905540 = 1075905540) (f : ℕ) (r : ℕ) (r1 : State) (h_r1 : Keeps m s0 r1) :
    Keeps m s0 (drainRes f r r1) := by
  induction r generalizing r1 with
  | zero =>
    unfold drainRes
    repeat' first
      | with_reducible assumption
  | succ k ih =>
    unfold drainRes
    repeat' first
      | with_reducible assumption
      | with_reducible apply ih
      | (extract_lets -underBinder +onlyGivenNames x; first
        | (guard_hyp x : State := _; refine (fun (hx : Keeps m s0 x) => ?_) ?_ <;> [clear_value x; subst x])
        | clear_value x)
      | with_reducible refine hostStore_keeps (landTrans hm (by decide)) _ _ _ _ ?_
      | with_reducible refine setFn_keeps (landTrans hm (by decide)) _ _ _ ?_
      | with_reducible refine State.set_keeps (landTrans hm (by decide)) _ _ _ _ _ ?_
      | with_reducible refine raiseMsix_keeps (landTrans hm (by decide)) _ _ _ ?_
      | with_reducible refine ite_keeps ?_ ?_
      | split

theorem drainCpl_keeps {m : Nat} {s0 : State} (hm : m.land 1075905540 = 1075905540) (f : ℕ) (r : ℕ) (r1 : State) (h_r1 : Keeps m s0 r1) :
    Keeps m s0 (drainCpl f r r1) := by
  induction r generalizing r1 with
  | zero =>
    unfold drainCpl
    repeat' first
      | with_reducible assumption
  | succ k ih =>
    unfold drainCpl
    repeat' first
      | with_reducible assumption
      | with_reducible apply ih
      | (extract_lets -underBinder +onlyGivenNames x; first
        | (guard_hyp x : State := _; refine (fun (hx : Keeps m s0 x) => ?_) ?_ <;> [clear_value x; subst x])
        | clear_value x)
      | with_reducible refine hostStore_keeps (landTrans hm (by decide)) _ _ _ _ ?_
      | with_reducible refine setFn_keeps (landTrans hm (by decide)) _ _ _ ?_
      | with_reducible refine State.set_keeps (landTrans hm (by decide)) _ _ _ _ _ ?_
      | with_reducible refine raiseMsix_keeps (landTrans hm (by decide)) _ _ _ ?_
      | with_reducible refine ite_keeps ?_ ?_
      | split

theorem drainRings_keeps {m : Nat} {s0 : State} (hm : m.land 1075905540 = 1075905540) (s : State) (f : ℕ) (h_s : Keeps m s0 s) :
    Keeps m s0 (drainRings s f) := by
  unfold drainRings
  repeat' first
    | with_reducible assumption
    | (extract_lets -underBinder +onlyGivenNames x; guard_hyp x : State := _; refine (fun (hx : Keeps m s0 x) => ?_) ?_ <;> [clear_value x; subst x])
    | with_reducible refine drainRes_keeps (landTrans hm (by decide)) _ _ _ ?_
    | with_reducible refine drainCpl_keeps (landTrans hm (by decide)) _ _ _ ?_

theorem pushCpl_keeps {m : Nat} {s0 : State} (hm : m.land 1075905540 = 1075905540) (s : State) (f : ℕ) (c : Cpl) (h_s : Keeps m s0 s) :
    Keeps m s0 (pushCpl s f c) := by
  unfold pushCpl
  repeat' first
    | with_reducible assumption
    | (extract_lets -underBinder +onlyGivenNames x; clear_value x)
    | with_reducible refine drainRings_keeps (landTrans hm (by decide)) _ _ ?_
    | with_reducible refine setFn_keeps (landTrans hm (by decide)) _ _ _ ?_
    | with_reducible refine ite_keeps ?_ ?_

theorem pushResult_keeps {m : Nat} {s0 : State} (hm : m.land 1075905540 = 1075905540) (s : State) (f : ℕ) (r : Bytes) (h_s : Keeps m s0 s) :
    Keeps m s0 (pushResult s f r) := by
  unfold pushResult
  repeat' first
    | with_reducible assumption
    | (extract_lets -underBinder +onlyGivenNames x; clear_value x)
    | with_reducible refine drainRings_keeps (landTrans hm (by decide)) _ _ ?_
    | with_reducible refine setFn_keeps (landTrans hm (by decide)) _ _ _ ?_
    | with_reducible refine ite_keeps ?_ ?_

theorem journalDue_keeps {m : Nat} {s0 : State} (hm : m.land 42949673988 = 42949673988) (s : State) (h_s : Keeps m s0 s) :
    Keeps m s0 (journalDue s) := by
  unfold journalDue
  repeat' first
    | with_reducible assumption
    | with_reducible refine journalFlush_keeps (landTrans hm (by decide)) _ ?_
    | with_reducible refine ite_keeps ?_ ?_

end Sys2Proof.Machine
end

