-- ==== Sys2Proof/Laws/KeepsFabric.lean ====
section
/-! SUPPORT. What each operation of Fabric.lean keeps: the canonical form, and the parts of the state that it does not name. -/

namespace Sys2Proof.Machine

theorem setDest_keeps {m : Nat} {s0 : State} (hm : m.land 4294967296 = 4294967296) (s : State) (node : ℕ) (d : Dest) (h_s : Keeps m s0 s) :
    Keeps m s0 (setDest s node d) := by
  unfold setDest
  repeat' first
    | with_reducible assumption
    | (extract_lets -underBinder +onlyGivenNames x; clear_value x)
    | fail_if_no_progress (with_reducible refine upd_fab (landTrans hm (by decide)) _ ?_)

theorem startProgress_keeps {m : Nat} {s0 : State} (hm : m.land 4294967296 = 4294967296) (s : State) (node : ℕ) (h_s : Keeps m s0 s) :
    Keeps m s0 (startProgress s node) := by
  unfold startProgress
  repeat' first
    | with_reducible assumption
    | (extract_lets -underBinder +onlyGivenNames x; clear_value x)
    | with_reducible refine setDest_keeps (landTrans hm (by decide)) _ _ _ ?_
    | with_reducible refine ite_keeps ?_ ?_

theorem newTxn_keeps {m : Nat} {s0 : State} (hm : m.land 4294967300 = 4294967300) (s : State) (opc : ℕ) (vc : ℕ) (dst : ℕ) (off : ℕ) (payload : Bytes) (h_s : Keeps m s0 s) :
    Keeps1 m s0 (newTxn s opc vc dst off payload) := by
  unfold newTxn
  repeat' first
    | with_reducible assumption
    | (extract_lets -underBinder +onlyGivenNames x; first
      | (guard_hyp x : State := _; refine (fun (hx : Keeps m s0 x) => ?_) ?_ <;> [clear_value x; subst x])
      | clear_value x)
    | with_reducible refine issue_keeps (landTrans hm (by decide)) _ ?_
    | with_reducible refine pair1 ?_
    | fail_if_no_progress (with_reducible refine upd_fab (landTrans hm (by decide)) _ ?_)

theorem setLink_keeps {m : Nat} {s0 : State} (hm : m.land 4294967296 = 4294967296) (s : State) (q : ℕ) (l : Link) (h_s : Keeps m s0 s) :
    Keeps m s0 (setLink s q l) := by
  unfold setLink
  repeat' first
    | with_reducible assumption
    | (extract_lets -underBinder +onlyGivenNames x; clear_value x)
    | fail_if_no_progress (with_reducible refine upd_fab (landTrans hm (by decide)) _ ?_)

theorem putOnLink_keeps {m : Nat} {s0 : State} (hm : m.land 39728447492 = 39728447492) (s : State) (q : ℕ) (x : Txn) (h_s : Keeps m s0 s) :
    Keeps m s0 (putOnLink s q x) := by
  unfold putOnLink
  repeat' first
    | with_reducible assumption
    | (extract_lets -underBinder +onlyGivenNames x; first
      | (guard_hyp x : State := _; refine (fun (hx : Keeps m s0 x) => ?_) ?_ <;> [clear_value x; subst x])
      | clear_value x)
    | with_reducible refine raiseReq_keeps (landTrans hm (by decide)) _ _ _ _ _ _ ?_
    | with_reducible refine setLink_keeps (landTrans hm (by decide)) _ _ _ ?_
    | with_reducible refine State.bump2_keeps (landTrans hm (by decide)) _ _ _ _ _ _ ?_
    | with_reducible refine emit_keeps (landTrans hm (by decide)) _ _ ?_

theorem sendOn_keeps {m : Nat} {s0 : State} (hm : m.land 39728447492 = 39728447492) (s : State) (q : ℕ) (x : Txn) (h_s : Keeps m s0 s) :
    Keeps m s0 (sendOn s q x) := by
  unfold sendOn
  repeat' first
    | with_reducible assumption
    | (extract_lets -underBinder +onlyGivenNames x; clear_value x)
    | with_reducible refine putOnLink_keeps (landTrans hm (by decide)) _ _ _ ?_
    | with_reducible refine setLink_keeps (landTrans hm (by decide)) _ _ _ ?_
    | with_reducible refine ite_keeps ?_ ?_

theorem sendTxn_keeps {m : Nat} {s0 : State} (hm : m.land 39728447492 = 39728447492) (s : State) (x : Txn) (h_s : Keeps m s0 s) :
    Keeps m s0 (sendTxn s x) := by
  unfold sendTxn
  repeat' first
    | with_reducible assumption
    | (extract_lets -underBinder +onlyGivenNames x; first
      | (guard_hyp x : State := _; refine (fun (hx : Keeps m s0 x) => ?_) ?_ <;> [clear_value x; subst x])
      | clear_value x)
    | with_reducible refine setDest_keeps (landTrans hm (by decide)) _ _ _ ?_
    | with_reducible refine sendOn_keeps (landTrans hm (by decide)) _ _ _ ?_
    | split

theorem issueRead_keeps {m : Nat} {s0 : State} (hm : m.land 39728447492 = 39728447492) (s : State) (w : Who) (opc : ℕ) (vc : ℕ) (node : ℕ) (off : ℕ) (len : ℕ) (comb : Bool) (sys : Bool) (h_s : Keeps m s0 s) :
    Keeps m s0 (issueRead s w opc vc node off len comb sys) := by
  unfold issueRead
  repeat' first
    | with_reducible assumption
    | (extract_lets -underBinder +onlyGivenNames x; first
      | (guard_hyp x : State := _; refine (fun (hx : Keeps m s0 x) => ?_) ?_ <;> [clear_value x; subst x])
      | clear_value x)
    | with_reducible refine startProgress_keeps (landTrans hm (by decide)) _ _ ?_
    | with_reducible refine sendTxn_keeps (landTrans hm (by decide)) _ _ ?_
    | fail_if_no_progress (with_reducible refine upd_fab (landTrans hm (by decide)) _ ?_)
    | with_reducible refine Keeps1.of (newTxn_keeps (landTrans hm (by decide)) _ _ _ _ _ _ ?_)

theorem bumpIssued_keeps {m : Nat} {s0 : State} (hm : m.land 4294967296 = 4294967296) (s : State) (core : ℕ) (node : ℕ) (h_s : Keeps m s0 s) :
    Keeps m s0 (bumpIssued s core node) := by
  unfold bumpIssued
  repeat' first
    | with_reducible assumption
    | (extract_lets -underBinder +onlyGivenNames x; clear_value x)
    | fail_if_no_progress (with_reducible refine upd_fab (landTrans hm (by decide)) _ ?_)

theorem issueAtomic_keeps {m : Nat} {s0 : State} (hm : m.land 39728447492 = 39728447492) (s : State) (core : ℕ) (w : Who) (node : ℕ) (off : ℕ) (atop : ℕ) (operand : Bytes) (comb : Bool) (h_s : Keeps m s0 s) :
    Keeps m s0 (issueAtomic s core w node off atop operand comb) := by
  unfold issueAtomic
  repeat' first
    | with_reducible assumption
    | (extract_lets -underBinder +onlyGivenNames x; first
      | (guard_hyp x : State := _; refine (fun (hx : Keeps m s0 x) => ?_) ?_ <;> [clear_value x; subst x])
      | clear_value x)
    | with_reducible refine startProgress_keeps (landTrans hm (by decide)) _ _ ?_
    | with_reducible refine sendTxn_keeps (landTrans hm (by decide)) _ _ ?_
    | with_reducible refine bumpIssued_keeps (landTrans hm (by decide)) _ _ _ ?_
    | fail_if_no_progress (with_reducible refine upd_fab (landTrans hm (by decide)) _ ?_)
    | with_reducible refine Keeps1.of (newTxn_keeps (landTrans hm (by decide)) _ _ _ _ _ _ ?_)

theorem askInv_keeps {m : Nat} {s0 : State} (hm : m.land 39728447492 = 39728447492) (s : State) (a : ℕ) (n : ℕ) (but : Option ℕ) (h_s : Keeps m s0 s) :
    Keeps m s0 (askInv s a n but) := by
  unfold askInv
  repeat' first
    | with_reducible assumption
    | intro _
    | with_reducible refine forEach_keeps (landTrans hm (by decide)) _ _ _ ?_ ?_
    | with_reducible refine sendTxn_keeps (landTrans hm (by decide)) _ _ ?_
    | with_reducible refine ite_keeps ?_ ?_
    | with_reducible refine Keeps1.of (newTxn_keeps (landTrans hm (by decide)) _ _ _ _ _ _ ?_)

theorem issueWrite_keeps {m : Nat} {s0 : State} (hm : m.land 39728447492 = 39728447492) (s : State) (core : ℕ) (opc : ℕ) (vc : ℕ) (node : ℕ) (off : ℕ) (data : Bytes) (poison : Bool) (sys : Bool) (bulk : optParam (Option ℕ) none) (h_s : Keeps m s0 s) :
    Keeps m s0 (issueWrite s core opc vc node off data poison sys bulk) := by
  unfold issueWrite
  repeat' first
    | with_reducible assumption
    | (extract_lets -underBinder +onlyGivenNames x; guard_hyp x : State := _; refine (fun (hx : Keeps m s0 x) => ?_) ?_ <;> [clear_value x; subst x])
    | with_reducible refine startProgress_keeps (landTrans hm (by decide)) _ _ ?_
    | with_reducible refine setDest_keeps (landTrans hm (by decide)) _ _ _ ?_
    | with_reducible refine sendTxn_keeps (landTrans hm (by decide)) _ _ ?_
    | with_reducible refine bumpIssued_keeps (landTrans hm (by decide)) _ _ _ ?_
    | with_reducible refine Keeps1.of (newTxn_keeps (landTrans hm (by decide)) _ _ _ _ _ _ ?_)

theorem cachePut_keeps {m : Nat} {s0 : State} (hm : m.land 4294967296 = 4294967296) (s : State) (gline : ℕ) (b : Bytes) (h_s : Keeps m s0 s) :
    Keeps m s0 (cachePut s gline b) := by
  unfold cachePut
  repeat' first
    | with_reducible assumption
    | (extract_lets -underBinder +onlyGivenNames x; first
      | (guard_hyp x : State := _; refine (fun (hx : Keeps m s0 x) => ?_) ?_ <;> [clear_value x; subst x])
      | clear_value x)
    | with_reducible refine ite_keeps ?_ ?_
    | split
    | fail_if_no_progress (with_reducible refine upd_fab (landTrans hm (by decide)) _ ?_)

theorem cacheUpdate_keeps {m : Nat} {s0 : State} (hm : m.land 4294967296 = 4294967296) (s : State) (ga : ℕ) (l : Bytes) (h_s : Keeps m s0 s) :
    Keeps m s0 (cacheUpdate s ga l) := by
  unfold cacheUpdate
  repeat' first
    | with_reducible assumption
    | intro _
    | (extract_lets -underBinder +onlyGivenNames x; clear_value x)
    | with_reducible refine forEach_keeps (landTrans hm (by decide)) _ _ _ ?_ ?_
    | with_reducible refine cachePut_keeps (landTrans hm (by decide)) _ _ _ ?_
    | with_reducible refine ite_keeps ?_ ?_

theorem resendReads_keeps {m : Nat} {s0 : State} (hm : m.land 39728447492 = 39728447492) (s : State) (node : ℕ) (h_s : Keeps m s0 s) :
    Keeps m s0 (resendReads s node) := by
  unfold resendReads
  repeat' first
    | with_reducible assumption
    | intro _
    | (extract_lets -underBinder +onlyGivenNames x; clear_value x)
    | with_reducible refine forEach_keeps (landTrans hm (by decide)) _ _ _ ?_ ?_
    | with_reducible refine sendTxn_keeps (landTrans hm (by decide)) _ _ ?_

theorem resendAll_keeps {m : Nat} {s0 : State} (hm : m.land 48318383108 = 48318383108) (s : State) (node : ℕ) (arg : ℕ) (h_s : Keeps m s0 s) :
    Keeps m s0 (resendAll s node arg) := by
  unfold resendAll
  repeat' first
    | with_reducible assumption
    | intro _
    | (extract_lets -underBinder +onlyGivenNames x; first
      | (guard_hyp x : State := _; refine (fun (hx : Keeps m s0 x) => ?_) ?_ <;> [clear_value x; subst x])
      | clear_value x)
    | with_reducible refine setDest_keeps (landTrans hm (by decide)) _ _ _ ?_
    | with_reducible refine State.bump_keeps (landTrans hm (by decide)) _ _ _ _ _ ?_
    | with_reducible refine forEach_keeps (landTrans hm (by decide)) _ _ _ ?_ ?_
    | with_reducible refine sendTxn_keeps (landTrans hm (by decide)) _ _ ?_
    | with_reducible refine journal_keeps (landTrans hm (by decide)) _ _ ?_
    | with_reducible refine ite_keeps ?_ ?_

theorem reroute_keeps {m : Nat} {s0 : State} (hm : m.land 48318383108 = 48318383108) (s : State) (h_s : Keeps m s0 s) :
    Keeps m s0 (reroute s) := by
  unfold reroute
  repeat' first
    | with_reducible assumption
    | intro _
    | (extract_lets -underBinder +onlyGivenNames x; first
      | (guard_hyp x : State := _; refine (fun (hx : Keeps m s0 x) => ?_) ?_ <;> [clear_value x; subst x])
      | clear_value x)
    | with_reducible refine forEach_keeps (landTrans hm (by decide)) _ _ _ ?_ ?_
    | with_reducible refine setDest_keeps (landTrans hm (by decide)) _ _ _ ?_
    | with_reducible refine resendReads_keeps (landTrans hm (by decide)) _ _ ?_
    | with_reducible refine resendAll_keeps (landTrans hm (by decide)) _ _ _ ?_
    | with_reducible refine ite_keeps ?_ ?_

theorem bumpAcked_keeps {m : Nat} {s0 : State} (hm : m.land 4294967296 = 4294967296) (s : State) (core : ℕ) (node : ℕ) (h_s : Keeps m s0 s) :
    Keeps m s0 (bumpAcked s core node) := by
  unfold bumpAcked
  repeat' first
    | with_reducible assumption
    | (extract_lets -underBinder +onlyGivenNames x; clear_value x)
    | fail_if_no_progress (with_reducible refine upd_fab (landTrans hm (by decide)) _ ?_)

theorem reply_keeps {m : Nat} {s0 : State} (hm : m.land 39728447492 = 39728447492) (s : State) (x : Txn) (opc : ℕ) (code : ℕ) (dseq : Word) (payload : Bytes) (poison : Bool) (h_s : Keeps m s0 s) :
    Keeps m s0 (reply s x opc code dseq payload poison) := by
  unfold reply
  repeat' first
    | with_reducible assumption
    | (extract_lets -underBinder +onlyGivenNames x; first
      | (guard_hyp x : State := _; refine (fun (hx : Keeps m s0 x) => ?_) ?_ <;> [clear_value x; subst x])
      | clear_value x)
    | with_reducible refine issue_keeps (landTrans hm (by decide)) _ ?_
    | with_reducible refine sendTxn_keeps (landTrans hm (by decide)) _ _ ?_

theorem setDir_keeps {m : Nat} {s0 : State} (hm : m.land 4294967300 = 4294967300) (s : State) (line : ℕ) (mask : ℕ) (h_s : Keeps m s0 s) :
    Keeps m s0 (setDir s line mask) := by
  unfold setDir
  repeat' first
    | with_reducible assumption
    | (extract_lets -underBinder +onlyGivenNames x; first
      | (guard_hyp x : State := _; refine (fun (hx : Keeps m s0 x) => ?_) ?_ <;> [clear_value x; subst x])
      | clear_value x)
    | with_reducible refine State.set_keeps (landTrans hm (by decide)) _ _ _ _ _ ?_
    | fail_if_no_progress (with_reducible refine upd_fab (landTrans hm (by decide)) _ ?_)

theorem addSharer_keeps {m : Nat} {s0 : State} (hm : m.land 39728447492 = 39728447492) (s : State) (line : ℕ) (pos : ℕ) (h_s : Keeps m s0 s) :
    Keeps m s0 (addSharer s line pos) := by
  unfold addSharer
  repeat' first
    | with_reducible assumption
    | (extract_lets -underBinder +onlyGivenNames x; guard_hyp x : State := _; refine (fun (hx : Keeps m s0 x) => ?_) ?_ <;> [clear_value x; subst x])
    | with_reducible refine setDir_keeps (landTrans hm (by decide)) _ _ _ ?_
    | with_reducible refine askInv_keeps (landTrans hm (by decide)) _ _ _ _ ?_
    | with_reducible refine ite_keeps ?_ ?_
    | split

theorem homeWrite_keeps {m : Nat} {s0 : State} (hm : m.land 39728448516 = 39728448516) (s : State) (a : ℕ) (l : Bytes) (bad : Bool) (h_s : Keeps m s0 s) :
    Keeps m s0 (homeWrite s a l bad) := by
  unfold homeWrite
  repeat' first
    | with_reducible assumption
    | (extract_lets -underBinder +onlyGivenNames x; first
      | (guard_hyp x : State := _; refine (fun (hx : Keeps m s0 x) => ?_) ?_ <;> [clear_value x; subst x])
      | clear_value x)
    | with_reducible refine devStore_keeps (landTrans hm (by decide)) _ _ _ _ ?_
    | with_reducible refine askInv_keeps (landTrans hm (by decide)) _ _ _ _ ?_
    | with_reducible refine ite_keeps ?_ ?_
    | fail_if_no_progress (with_reducible refine upd_fab (landTrans hm (by decide)) _ ?_)

theorem cacheDrop_keeps {m : Nat} {s0 : State} (hm : m.land 4294967296 = 4294967296) (s : State) (gline : ℕ) (h_s : Keeps m s0 s) :
    Keeps m s0 (cacheDrop s gline) := by
  unfold cacheDrop
  repeat' first
    | with_reducible assumption
    | (extract_lets -underBinder +onlyGivenNames x; clear_value x)
    | fail_if_no_progress (with_reducible refine upd_fab (landTrans hm (by decide)) _ ?_)

theorem hubWrite_keeps {m : Nat} {s0 : State} (hm : m.land 39728448516 = 39728448516) (s : State) (fn : ℕ) (a : ℕ) (l : Bytes) (bad : Bool) (h_s : Keeps m s0 s) :
    Keeps m s0 (hubWrite s fn a l bad) := by
  unfold hubWrite
  repeat' first
    | with_reducible assumption
    | with_reducible refine setFnCode_keeps (landTrans hm (by decide)) _ _ _ ?_
    | with_reducible refine homeWrite_keeps (landTrans hm (by decide)) _ _ _ _ ?_
    | with_reducible refine raiseMem_keeps (landTrans hm (by decide)) _ _ _ _ _ _ ?_
    | with_reducible refine ite_keeps ?_ ?_

theorem drainLink_keeps {m : Nat} {s0 : State} (hm : m.land 39728447492 = 39728447492) (q : ℕ) (r : ℕ) (r1 : State) (h_r1 : Keeps m s0 r1) :
    Keeps m s0 (drainLink q r r1) := by
  induction r generalizing r1 with
  | zero =>
    unfold drainLink
    repeat' first
      | with_reducible assumption
  | succ k ih =>
    unfold drainLink
    repeat' first
      | with_reducible assumption
      | with_reducible apply ih
      | (extract_lets -underBinder +onlyGivenNames x; clear_value x)
      | with_reducible refine putOnLink_keeps (landTrans hm (by decide)) _ _ _ ?_
      | with_reducible refine setLink_keeps (landTrans hm (by decide)) _ _ _ ?_
      | with_reducible refine ite_keeps ?_ ?_
      | split

end Sys2Proof.Machine
end

