-- ==== Sys2Proof/Laws/KeepsAccess.lean ====
section
/-! SUPPORT. What each operation of Access.lean keeps: the canonical form, and the parts of the state that it does not name. -/

namespace Sys2Proof.Machine

theorem readRow_keeps {m : Nat} {s0 : State} (hm : m.land 39728447492 = 39728447492) (s : State) (w : Who) (comb : Bool) (a : ℕ) (n : ℕ) (h_s : Keeps m s0 s) :
    Keeps1 m s0 (readRow s w comb a n) := by
  unfold readRow
  repeat' first
    | with_reducible assumption
    | intro _
    | (extract_lets -underBinder +onlyGivenNames x; first
      | (guard_hyp x : State := _; refine (fun (hx : Keeps m s0 x) => ?_) ?_ <;> [clear_value x; subst x])
      | clear_value x)
    | with_reducible refine forEach_keeps (landTrans hm (by decide)) _ _ _ ?_ ?_
    | with_reducible refine issueRead_keeps (landTrans hm (by decide)) _ _ _ _ _ _ _ _ _ ?_
    | with_reducible refine State.bump_keeps (landTrans hm (by decide)) _ _ _ _ _ ?_
    | with_reducible refine ite_keeps1 ?_ ?_
    | with_reducible refine foldl_keeps1 ?_ ?_
    | with_reducible exact Keeps1.of ‹_›
    | with_reducible refine pair1 ?_

theorem atomicApply_keeps {m : Nat} {s0 : State} (hm : m.land 1024 = 1024) (s : State) (off : ℕ) (atop : ℕ) (operand : Bytes) (h_s : Keeps m s0 s) :
    Keeps2 m s0 (atomicApply s off atop operand) := by
  unfold atomicApply
  repeat' first
    | with_reducible assumption
    | (extract_lets -underBinder +onlyGivenNames x; clear_value x)
    | with_reducible refine devStore_keeps (landTrans hm (by decide)) _ _ _ _ ?_
    | with_reducible refine pair2 ?_

theorem pagePayload_keeps {m : Nat} {s0 : State} (hm : m.land 2 = 2) (s : State) (a : ℕ) (b : Bytes) (h_s : Keeps m s0 s) :
    Keeps1 m s0 (pagePayload s a b) := by
  unfold pagePayload
  repeat' first
    | with_reducible assumption
    | (extract_lets -underBinder +onlyGivenNames x; clear_value x)
    | with_reducible refine takeFree_keeps (landTrans hm (by decide)) _ ?_
    | with_reducible refine ite_keeps2 ?_ ?_
    | split
    | with_reducible refine pair1 ?_
    | with_reducible refine pair2 ?_
    | with_reducible refine ofPair2 ‹_ = (_, _)› ?_

theorem sendPiece_keeps {m : Nat} {s0 : State} (hm : m.land 39728447494 = 39728447494) (s : State) (core : ℕ) (a : ℕ) (l : List PB) (p : ℕ × ℕ) (h_s : Keeps m s0 s) :
    Keeps m s0 (sendPiece s core a l p) := by
  unfold sendPiece
  repeat' first
    | with_reducible assumption
    | intro _
    | (extract_lets -underBinder +onlyGivenNames x; first
      | (guard_hyp x : State := _; refine (fun (hx : Keeps m s0 x) => ?_) ?_ <;> [clear_value x; subst x])
      | (guard_hyp x : State × Bytes := _; refine (fun (hx : Keeps1 m s0 x) => ?_) ?_ <;> [clear_value x; subst x])
      | clear_value x)
    | with_reducible refine pagePayload_keeps (landTrans hm (by decide)) _ _ _ ?_
    | with_reducible refine issueWrite_keeps (landTrans hm (by decide)) _ _ _ _ _ _ _ _ _ _ ?_
    | with_reducible refine cacheUpdate_keeps (landTrans hm (by decide)) _ _ _ ?_
    | with_reducible refine forEach_keeps (landTrans hm (by decide)) _ _ _ ?_ ?_
    | with_reducible refine ite_keeps ?_ ?_
    | with_reducible exact Keeps1.of ‹_›

theorem sendRows_keeps {m : Nat} {s0 : State} (hm : m.land 39728447494 = 39728447494) (s : State) (core : ℕ) (rows : List (ℕ × List PB)) (skip : ℕ) (h_s : Keeps m s0 s) :
    Keeps m s0 (sendRows s core rows skip) := by
  unfold sendRows
  repeat' first
    | with_reducible assumption
    | intro _
    | (extract_lets -underBinder +onlyGivenNames x; clear_value x)
    | with_reducible refine forEach_keeps (landTrans hm (by decide)) _ _ _ ?_ ?_
    | with_reducible refine sendPiece_keeps (landTrans hm (by decide)) _ _ _ _ _ ?_

theorem finishMove_keeps {m : Nat} {s0 : State} (hm : m.land 39728447494 = 39728447494) (s : State) (n : ℕ) (f : Inflight) (p : List ℕ) (src : List (List PB)) (h_s : Keeps m s0 s) :
    Keeps1 m s0 (finishMove s n f p src) := by
  unfold finishMove
  repeat' first
    | with_reducible assumption
    | (extract_lets -underBinder +onlyGivenNames x; first
      | (guard_hyp x : State := _; refine (fun (hx : Keeps m s0 x) => ?_) ?_ <;> [clear_value x; subst x])
      | clear_value x)
    | with_reducible refine State.bump_keeps (landTrans hm (by decide)) _ _ _ _ _ ?_
    | with_reducible refine State.set_keeps (landTrans hm (by decide)) _ _ _ _ _ ?_
    | with_reducible refine sendRows_keeps (landTrans hm (by decide)) _ _ _ _ ?_
    | with_reducible refine ite_keeps1 ?_ ?_
    | split
    | with_reducible refine pair1 ?_

theorem accUnit_keeps {m : Nat} {s0 : State} (hm : m.land 39728448518 = 39728448518) (s : State) (n : ℕ) (f : Inflight) (w : Rights) (p : List ℕ) (slots : List SlotR) (h_s : Keeps m s0 s) :
    Keeps1 m s0 (accUnit s n f w p slots) := by
  unfold accUnit
  repeat' first
    | with_reducible assumption
    | intro _
    | (extract_lets -underBinder +onlyGivenNames x; first
      | (guard_hyp x : State × ℕ × List (ℕ × Bytes × Bool) := _; refine (fun (hx : Keeps1 m s0 x) => ?_) ?_ <;> [clear_value x; subst x])
      | (guard_hyp x : ℕ × State := _; refine (fun (hx : Keeps2 m s0 x) => ?_) ?_ <;> [clear_value x; subst x])
      | clear_value x)
    | with_reducible refine readRow_keeps (landTrans hm (by decide)) _ _ _ _ _ ?_
    | with_reducible refine State.bump_keeps (landTrans hm (by decide)) _ _ _ _ _ ?_
    | with_reducible refine issueAtomic_keeps (landTrans hm (by decide)) _ _ _ _ _ _ _ _ ?_
    | with_reducible refine askInv_keeps (landTrans hm (by decide)) _ _ _ _ ?_
    | with_reducible refine atomicApply_keeps (landTrans hm (by decide)) _ _ _ _ ?_
    | with_reducible refine finishMove_keeps (landTrans hm (by decide)) _ _ _ _ _ ?_
    | with_reducible refine ite_keeps1 ?_ ?_
    | with_reducible refine foldl_keeps1 ?_ ?_
    | split
    | with_reducible exact Keeps1.of ‹_›
    | with_reducible exact Keeps2.of ‹_›
    | with_reducible refine pair1 ?_

end Sys2Proof.Machine
end

