-- ==== Sys2Proof/Laws/KeepsArbiter.lean ====
section
/-! SUPPORT. What each operation of Arbiter.lean keeps: the canonical form, and the parts of the state that it does not name. -/

namespace Sys2Proof.Machine

theorem writeArbReq_keeps {m : Nat} {s0 : State} (hm : m.land 4194316 = 4194316) (s : State) (r : ℕ) (v : Word) (h_s : Keeps m s0 s) :
    Keeps m s0 (writeArbReq s r v) := by
  unfold writeArbReq
  repeat' first
    | with_reducible assumption
    | (extract_lets -underBinder +onlyGivenNames x; first
      | (guard_hyp x : State := _; refine (fun (hx : Keeps m s0 x) => ?_) ?_ <;> [clear_value x; subst x])
      | clear_value x)
    | with_reducible refine State.set_keeps (landTrans hm (by decide)) _ _ _ _ _ ?_
    | with_reducible refine wrReg_keeps (landTrans hm (by decide)) _ _ _ ?_
    | with_reducible refine rewritten_keeps (landTrans hm (by decide)) _ _ ?_
    | with_reducible refine ite_keeps ?_ ?_

theorem arbCount_keeps {m : Nat} {s0 : State} (hm : m.land 4 = 4) (s : State) (k : ℕ) (f : Fld) (h_s : Keeps m s0 s) :
    Keeps m s0 (arbCount s k f) := by
  unfold arbCount
  repeat' first
    | with_reducible assumption
    | with_reducible refine State.bump_keeps (landTrans hm (by decide)) _ _ _ _ _ ?_
    | with_reducible refine ite_keeps ?_ ?_

theorem arbGive_keeps {m : Nat} {s0 : State} (hm : m.land 34359738372 = 34359738372) (s : State) (k : ℕ) (r : ℕ) (fresh : Bool) (h_s : Keeps m s0 s) :
    Keeps m s0 (arbGive s k r fresh) := by
  unfold arbGive
  repeat' first
    | with_reducible assumption
    | (extract_lets -underBinder +onlyGivenNames x; first
      | (guard_hyp x : State := _; refine (fun (hx : Keeps m s0 x) => ?_) ?_ <;> [clear_value x; subst x])
      | clear_value x)
    | with_reducible refine setArb_keeps (landTrans hm (by decide)) _ _ _ ?_
    | with_reducible refine arbCount_keeps (landTrans hm (by decide)) _ _ _ ?_
    | with_reducible refine ite_keeps ?_ ?_

theorem noteDeferred_keeps {m : Nat} {s0 : State} (hm : m.land 34359738372 = 34359738372) (s : State) (k : ℕ) (h_s : Keeps m s0 s) :
    Keeps m s0 (noteDeferred s k) := by
  unfold noteDeferred
  repeat' first
    | with_reducible assumption
    | intro _
    | (extract_lets -underBinder +onlyGivenNames x; first
      | (guard_hyp x : State := _; refine (fun (hx : Keeps m s0 x) => ?_) ?_ <;> [clear_value x; subst x])
      | clear_value x)
    | with_reducible refine forEach_keeps (landTrans hm (by decide)) _ _ _ ?_ ?_
    | with_reducible refine arbCount_keeps (landTrans hm (by decide)) _ _ _ ?_
    | with_reducible refine setArb_keeps (landTrans hm (by decide)) _ _ _ ?_
    | with_reducible refine ite_keeps ?_ ?_

theorem arbGrant_keeps {m : Nat} {s0 : State} (hm : m.land 34359738372 = 34359738372) (s : State) (k : ℕ) (h_s : Keeps m s0 s) :
    Keeps m s0 (arbGrant s k) := by
  unfold arbGrant
  repeat' first
    | with_reducible assumption
    | (extract_lets -underBinder +onlyGivenNames x; first
      | (guard_hyp x : State := _; refine (fun (hx : Keeps m s0 x) => ?_) ?_ <;> [clear_value x; subst x])
      | clear_value x)
    | with_reducible refine noteDeferred_keeps (landTrans hm (by decide)) _ _ ?_
    | with_reducible refine arbGive_keeps (landTrans hm (by decide)) _ _ _ _ ?_
    | with_reducible refine ite_keeps ?_ ?_
    | split

theorem arbPromote_keeps {m : Nat} {s0 : State} (hm : m.land 34359738372 = 34359738372) (s : State) (k : ℕ) (r : ℕ) (h_s : Keeps m s0 s) :
    Keeps m s0 (arbPromote s k r) := by
  unfold arbPromote
  repeat' first
    | with_reducible assumption
    | (extract_lets -underBinder +onlyGivenNames x; clear_value x)
    | with_reducible refine arbCount_keeps (landTrans hm (by decide)) _ _ _ ?_
    | with_reducible refine setArb_keeps (landTrans hm (by decide)) _ _ _ ?_
    | with_reducible refine ite_keeps ?_ ?_
    | split

theorem setClusterQuota_keeps {m : Nat} {s0 : State} (hm : m.land 68719476740 = 68719476740) (s : State) (h_s : Keeps m s0 s) :
    Keeps m s0 (setClusterQuota s) := by
  unfold setClusterQuota
  repeat' first
    | with_reducible assumption
    | intro _
    | (extract_lets -underBinder +onlyGivenNames x; first
      | (guard_hyp x : State := _; refine (fun (hx : Keeps m s0 x) => ?_) ?_ <;> [clear_value x; subst x])
      | clear_value x)
    | with_reducible refine forEach_keeps (landTrans hm (by decide)) _ _ _ ?_ ?_
    | with_reducible refine State.set_keeps (landTrans hm (by decide)) _ _ _ _ _ ?_
    | fail_if_no_progress (with_reducible refine upd_move (landTrans hm (by decide)) _ ?_)

theorem arbWindowStart_keeps {m : Nat} {s0 : State} (hm : m.land 103079215108 = 103079215108) (s : State) (k : ℕ) (h_s : Keeps m s0 s) :
    Keeps m s0 (arbWindowStart s k) := by
  unfold arbWindowStart
  repeat' first
    | with_reducible assumption
    | (extract_lets -underBinder +onlyGivenNames x; first
      | (guard_hyp x : State := _; refine (fun (hx : Keeps m s0 x) => ?_) ?_ <;> [clear_value x; subst x])
      | clear_value x)
    | with_reducible refine setArb_keeps (landTrans hm (by decide)) _ _ _ ?_
    | with_reducible refine setClusterQuota_keeps (landTrans hm (by decide)) _ ?_
    | with_reducible refine ite_keeps ?_ ?_

theorem execArbReqWrite_keeps {m : Nat} {s0 : State} (hm : m.land 4194316 = 4194316) (r : ℕ) (v : Word) (s : State) (h_s : Keeps m s0 s) :
    KeepsX m s0 (execArbReqWrite r v s) :=
  next_keeps (writeArbReq_keeps hm _ _ _ h_s)

theorem execArbiterGrant_keeps {m : Nat} {s0 : State} (hm : m.land 34359738372 = 34359738372) (a : ArbiterId) (s : State) (h_s : Keeps m s0 s) :
    KeepsX m s0 (execArbiterGrant a s) :=
  next_keeps (arbGrant_keeps hm _ _ h_s)

theorem execQuotaWindowStart_keeps {m : Nat} {s0 : State} (hm : m.land 103079215108 = 103079215108) (a : ArbiterId) (s : State) (h_s : Keeps m s0 s) :
    KeepsX m s0 (execQuotaWindowStart a s) :=
  next_keeps (arbWindowStart_keeps hm _ _ h_s)

theorem execUrgencyPromotion_keeps {m : Nat} {s0 : State} (hm : m.land 34359738372 = 34359738372) (a : ArbiterId) (r : ℕ) (s : State) (h_s : Keeps m s0 s) :
    KeepsX m s0 (execUrgencyPromotion a r s) :=
  next_keeps (arbPromote_keeps hm _ _ _ h_s)

end Sys2Proof.Machine
end

