-- ==== Sys2Proof/Laws/KeepsArray.lean ====
section
/-! SUPPORT. What each operation of Array.lean keeps: the canonical form, and the parts of the state that it does not name. -/

namespace Sys2Proof.Machine

theorem setArr_keeps {m : Nat} {s0 : State} (hm : m.land 2048 = 2048) (s : State) (n : ℕ) (a : Arr) (h_s : Keeps m s0 s) :
    Keeps m s0 (setArr s n a) := by
  unfold setArr
  repeat' first
    | with_reducible assumption
    | (extract_lets -underBinder +onlyGivenNames x; clear_value x)
    | with_reducible refine setCore_keeps (landTrans hm (by decide)) _ _ _ ?_

theorem countFill_keeps {m : Nat} {s0 : State} (hm : m.land 2052 = 2052) (s : State) (n : ℕ) (upto : ℕ) (h_s : Keeps m s0 s) :
    Keeps m s0 (countFill s n upto) := by
  unfold countFill
  repeat' first
    | with_reducible assumption
    | (extract_lets -underBinder +onlyGivenNames x; first
      | (guard_hyp x : State := _; refine (fun (hx : Keeps m s0 x) => ?_) ?_ <;> [clear_value x; subst x])
      | clear_value x)
    | with_reducible refine State.bump_keeps (landTrans hm (by decide)) _ _ _ _ _ ?_
    | with_reducible refine setArr_keeps (landTrans hm (by decide)) _ _ _ ?_

theorem releaseLevel_keeps {m : Nat} {s0 : State} (hm : m.land 2048 = 2048) (s : State) (n : ℕ) (h_s : Keeps m s0 s) :
    Keeps m s0 (releaseLevel s n) := by
  unfold releaseLevel
  repeat' first
    | with_reducible assumption
    | (extract_lets -underBinder +onlyGivenNames x; clear_value x)
    | with_reducible refine setCore_keeps (landTrans hm (by decide)) _ _ _ ?_

theorem lanternTurn_keeps {m : Nat} {s0 : State} (hm : m.land 2048 = 2048) (s : State) (n : ℕ) (h_s : Keeps m s0 s) :
    Keeps m s0 (lanternTurn s n) := by
  unfold lanternTurn
  repeat' first
    | with_reducible assumption
    | (extract_lets -underBinder +onlyGivenNames x; clear_value x)
    | with_reducible refine releaseLevel_keeps (landTrans hm (by decide)) _ _ ?_
    | with_reducible refine setArr_keeps (landTrans hm (by decide)) _ _ _ ?_
    | with_reducible refine ite_keeps ?_ ?_

theorem noteArrayIdle_keeps {m : Nat} {s0 : State} (hm : m.land 2048 = 2048) (s : State) (n : ℕ) (h_s : Keeps m s0 s) :
    Keeps m s0 (noteArrayIdle s n) := by
  unfold noteArrayIdle
  repeat' first
    | with_reducible assumption
    | (extract_lets -underBinder +onlyGivenNames x; clear_value x)
    | with_reducible refine setArr_keeps (landTrans hm (by decide)) _ _ _ ?_
    | with_reducible refine ite_keeps ?_ ?_

theorem cutPasses_keeps {m : Nat} {s0 : State} (hm : m.land 2052 = 2052) (s : State) (n : ℕ) (h_s : Keeps m s0 s) :
    Keeps m s0 (cutPasses s n) := by
  unfold cutPasses
  repeat' first
    | with_reducible assumption
    | (extract_lets -underBinder +onlyGivenNames x; first
      | (guard_hyp x : State := _; refine (fun (hx : Keeps m s0 x) => ?_) ?_ <;> [clear_value x; subst x])
      | clear_value x)
    | with_reducible refine countFill_keeps (landTrans hm (by decide)) _ _ _ ?_
    | with_reducible refine setArr_keeps (landTrans hm (by decide)) _ _ _ ?_
    | with_reducible refine lanternTurn_keeps (landTrans hm (by decide)) _ _ ?_
    | with_reducible refine noteArrayIdle_keeps (landTrans hm (by decide)) _ _ ?_

theorem startInDomain_keeps {m : Nat} {s0 : State} (hm : m.land 4 = 4) (s : State) (d : ℕ) (f : State → State) (h_s : Keeps m s0 s) (h_f : ∀ x0, Keeps m s0 x0 → Keeps m s0 (f x0)) :
    Keeps m s0 (startInDomain s d f) := by
  unfold startInDomain
  repeat' first
    | with_reducible assumption
    | with_reducible refine h_f _ ?_
    | with_reducible refine State.bump_keeps (landTrans hm (by decide)) _ _ _ _ _ ?_
    | with_reducible refine ite_keeps ?_ ?_

theorem takeRepair_keeps {m : Nat} {s0 : State} (hm : m.land 2052 = 2052) (s : State) (n : ℕ) (testing : Bool) (h_s : Keeps m s0 s) :
    Keeps m s0 (takeRepair s n testing) := by
  unfold takeRepair
  repeat' first
    | with_reducible assumption
    | (extract_lets -underBinder +onlyGivenNames x; first
      | (guard_hyp x : State := _; refine (fun (hx : Keeps m s0 x) => ?_) ?_ <;> [clear_value x; subst x])
      | clear_value x)
    | with_reducible refine State.set_keeps (landTrans hm (by decide)) _ _ _ _ _ ?_
    | with_reducible refine setArr_keeps (landTrans hm (by decide)) _ _ _ ?_

theorem arrTest_keeps {m : Nat} {s0 : State} (hm : m.land 2052 = 2052) (s : State) (n : ℕ) (h_s : Keeps m s0 s) :
    Keeps m s0 (arrTest s n) := by
  unfold arrTest
  repeat' first
    | with_reducible assumption
    | intro _
    | with_reducible refine startInDomain_keeps (landTrans hm (by decide)) _ _ _ ?_ ?_
    | with_reducible refine faultFn_keeps (landTrans hm (by decide)) _ _ _ ?_
    | with_reducible refine takeRepair_keeps (landTrans hm (by decide)) _ _ _ ?_
    | with_reducible refine setFnState_keeps (landTrans hm (by decide)) _ _ _ ?_
    | with_reducible refine ite_keeps ?_ ?_

theorem arrStopping_keeps {m : Nat} {s0 : State} (hm : m.land 2052 = 2052) (s : State) (n : ℕ) (h_s : Keeps m s0 s) :
    Keeps m s0 (arrStopping s n) := by
  unfold arrStopping
  repeat' first
    | with_reducible assumption
    | (extract_lets -underBinder +onlyGivenNames x; first
      | (guard_hyp x : State := _; refine (fun (hx : Keeps m s0 x) => ?_) ?_ <;> [clear_value x; subst x])
      | clear_value x)
    | with_reducible refine countFill_keeps (landTrans hm (by decide)) _ _ _ ?_
    | with_reducible refine setArr_keeps (landTrans hm (by decide)) _ _ _ ?_
    | with_reducible refine setFnState_keeps (landTrans hm (by decide)) _ _ _ ?_

theorem arrStart_keeps {m : Nat} {s0 : State} (hm : m.land 2052 = 2052) (s : State) (n : ℕ) (h_s : Keeps m s0 s) :
    Keeps m s0 (arrStart s n) := by
  unfold arrStart
  repeat' first
    | with_reducible assumption
    | intro _
    | with_reducible refine startInDomain_keeps (landTrans hm (by decide)) _ _ _ ?_ ?_
    | with_reducible refine faultFn_keeps (landTrans hm (by decide)) _ _ _ ?_
    | with_reducible refine takeRepair_keeps (landTrans hm (by decide)) _ _ _ ?_
    | with_reducible refine setFnState_keeps (landTrans hm (by decide)) _ _ _ ?_
    | with_reducible refine State.set_keeps (landTrans hm (by decide)) _ _ _ _ _ ?_
    | with_reducible refine ite_keeps ?_ ?_

theorem arrStop_keeps {m : Nat} {s0 : State} (hm : m.land 2052 = 2052) (s : State) (n : ℕ) (h_s : Keeps m s0 s) :
    Keeps m s0 (arrStop s n) := by
  unfold arrStop
  repeat' first
    | with_reducible assumption
    | (extract_lets -underBinder +onlyGivenNames x; clear_value x)
    | with_reducible refine arrStopping_keeps (landTrans hm (by decide)) _ _ ?_
    | with_reducible refine State.set_keeps (landTrans hm (by decide)) _ _ _ _ _ ?_
    | with_reducible refine ite_keeps ?_ ?_

theorem arrFaulted_keeps {m : Nat} {s0 : State} (hm : m.land 2052 = 2052) (s : State) (n : ℕ) (c : ℕ) (h_s : Keeps m s0 s) :
    Keeps m s0 (arrFaulted s n c) := by
  unfold arrFaulted
  repeat' first
    | with_reducible assumption
    | (extract_lets -underBinder +onlyGivenNames x; first
      | (guard_hyp x : State := _; refine (fun (hx : Keeps m s0 x) => ?_) ?_ <;> [clear_value x; subst x])
      | clear_value x)
    | with_reducible refine countFill_keeps (landTrans hm (by decide)) _ _ _ ?_
    | with_reducible refine setArr_keeps (landTrans hm (by decide)) _ _ _ ?_
    | with_reducible refine faultFn_keeps (landTrans hm (by decide)) _ _ _ ?_

theorem setLevel_keeps {m : Nat} {s0 : State} (hm : m.land 2052 = 2052) (s : State) (n : ℕ) (l : ℕ) (h_s : Keeps m s0 s) :
    Keeps m s0 (setLevel s n l) := by
  unfold setLevel
  repeat' first
    | with_reducible assumption
    | with_reducible refine State.set_keeps (landTrans hm (by decide)) _ _ _ _ _ ?_
    | with_reducible refine countFill_keeps (landTrans hm (by decide)) _ _ _ ?_

theorem checkNext_keeps {m : Nat} {s0 : State} (hm : m.land 2052 = 2052) (s : State) (n : ℕ) (h_s : Keeps m s0 s) :
    Keeps m s0 (checkNext s n) := by
  unfold checkNext
  repeat' first
    | with_reducible assumption
    | intro _
    | (extract_lets -underBinder +onlyGivenNames x; first
      | (guard_hyp x : State → Nat → Bool → State := _; refine (fun (hf : ∀ t a b, Keeps m s0 t → Keeps m s0 (x t a b)) => ?_) ?_ <;> [clear_value x; subst x])
      | clear_value x)
    | with_reducible apply hf
    | with_reducible refine setCore_keeps (landTrans hm (by decide)) _ _ _ ?_
    | with_reducible refine arrTest_keeps (landTrans hm (by decide)) _ _ ?_
    | with_reducible refine arrStart_keeps (landTrans hm (by decide)) _ _ ?_
    | with_reducible refine State.set_keeps (landTrans hm (by decide)) _ _ _ _ _ ?_
    | with_reducible refine ite_keeps ?_ ?_
    | split

theorem arrStopDone_keeps {m : Nat} {s0 : State} (hm : m.land 2052 = 2052) (s : State) (n : ℕ) (h_s : Keeps m s0 s) :
    Keeps m s0 (arrStopDone s n) := by
  unfold arrStopDone
  repeat' first
    | with_reducible assumption
    | (extract_lets -underBinder +onlyGivenNames x; first
      | (guard_hyp x : State := _; refine (fun (hx : Keeps m s0 x) => ?_) ?_ <;> [clear_value x; subst x])
      | clear_value x)
    | with_reducible refine setLevel_keeps (landTrans hm (by decide)) _ _ _ ?_
    | with_reducible refine checkNext_keeps (landTrans hm (by decide)) _ _ ?_
    | with_reducible refine setArr_keeps (landTrans hm (by decide)) _ _ _ ?_
    | with_reducible refine setFnState_keeps (landTrans hm (by decide)) _ _ _ ?_
    | with_reducible refine ite_keeps ?_ ?_
    | split

theorem publishTest_keeps {m : Nat} {s0 : State} (hm : m.land 4 = 4) (s : State) (n : ℕ) (rowFail : Word) (standby : Bool) (sig : BitVec 64) (h_s : Keeps m s0 s) :
    Keeps m s0 (publishTest s n rowFail standby sig) := by
  unfold publishTest
  repeat' first
    | with_reducible assumption
    | (extract_lets -underBinder +onlyGivenNames x; clear_value x)
    | with_reducible refine State.set_keeps (landTrans hm (by decide)) _ _ _ _ _ ?_
    | with_reducible refine State.set2_keeps (landTrans hm (by decide)) _ _ _ _ _ _ ?_

theorem selfTestOutcome_keeps {m : Nat} {s0 : State} (hm : m.land 2052 = 2052) (s : State) (n : ℕ) (due : ℕ) (rowFail : Word) (standby : Bool) (sig : BitVec 64) (h_s : Keeps m s0 s) :
    Keeps m s0 (selfTestOutcome s n due rowFail standby sig) := by
  unfold selfTestOutcome
  repeat' first
    | with_reducible assumption
    | (extract_lets -underBinder +onlyGivenNames x; first
      | (guard_hyp x : State := _; refine (fun (hx : Keeps m s0 x) => ?_) ?_ <;> [clear_value x; subst x])
      | clear_value x)
    | with_reducible refine publishTest_keeps (landTrans hm (by decide)) _ _ _ _ _ ?_
    | with_reducible refine State.set_keeps (landTrans hm (by decide)) _ _ _ _ _ ?_
    | with_reducible refine setLevel_keeps (landTrans hm (by decide)) _ _ _ ?_
    | with_reducible refine setArr_keeps (landTrans hm (by decide)) _ _ _ ?_
    | with_reducible refine setFnState_keeps (landTrans hm (by decide)) _ _ _ ?_
    | with_reducible refine setFnCode_keeps (landTrans hm (by decide)) _ _ _ ?_
    | with_reducible refine arrFaulted_keeps (landTrans hm (by decide)) _ _ _ ?_
    | with_reducible refine ite_keeps ?_ ?_

theorem execArrStart_keeps {m : Nat} {s0 : State} (hm : m.land 2052 = 2052) (n : ℕ) (s : State) (h_s : Keeps m s0 s) :
    KeepsX m s0 (execArrStart n s) := by
  unfold execArrStart
  repeat' first
    | with_reducible assumption
    | with_reducible refine arrStart_keeps (landTrans hm (by decide)) _ _ ?_
    | with_reducible refine ite_keeps ?_ ?_
    | with_reducible refine next_keeps ?_

theorem execArrStop_keeps {m : Nat} {s0 : State} (hm : m.land 2052 = 2052) (n : ℕ) (s : State) (h_s : Keeps m s0 s) :
    KeepsX m s0 (execArrStop n s) := by
  unfold execArrStop
  repeat' first
    | with_reducible assumption
    | with_reducible refine arrStop_keeps (landTrans hm (by decide)) _ _ ?_
    | with_reducible refine ite_keeps ?_ ?_
    | with_reducible refine next_keeps ?_

theorem execArrTest_keeps {m : Nat} {s0 : State} (hm : m.land 2052 = 2052) (n : ℕ) (s : State) (h_s : Keeps m s0 s) :
    KeepsX m s0 (execArrTest n s) := by
  unfold execArrTest
  repeat' first
    | with_reducible assumption
    | with_reducible refine arrTest_keeps (landTrans hm (by decide)) _ _ ?_
    | with_reducible refine ite_keeps ?_ ?_
    | with_reducible refine next_keeps ?_

theorem execArrayStopDone_keeps {m : Nat} {s0 : State} (hm : m.land 2052 = 2052) (n : ℕ) (s : State) (h_s : Keeps m s0 s) :
    KeepsX m s0 (execArrayStopDone n s) :=
  next_keeps (arrStopDone_keeps hm _ _ h_s)

theorem levelRise_keeps {m : Nat} {s0 : State} (hm : m.land 2052 = 2052) (s : State) (n : ℕ) (h_s : Keeps m s0 s) :
    Keeps m s0 (levelRise s n) := by
  unfold levelRise
  repeat' first
    | with_reducible assumption
    | (extract_lets -underBinder +onlyGivenNames x; first
      | (guard_hyp x : State := _; refine (fun (hx : Keeps m s0 x) => ?_) ?_ <;> [clear_value x; subst x])
      | clear_value x)
    | with_reducible refine setLevel_keeps (landTrans hm (by decide)) _ _ _ ?_
    | with_reducible refine setArr_keeps (landTrans hm (by decide)) _ _ _ ?_
    | with_reducible refine releaseLevel_keeps (landTrans hm (by decide)) _ _ ?_
    | with_reducible refine ite_keeps ?_ ?_

theorem levelFall_keeps {m : Nat} {s0 : State} (hm : m.land 2052 = 2052) (s : State) (n : ℕ) (h_s : Keeps m s0 s) :
    Keeps m s0 (levelFall s n) := by
  unfold levelFall
  repeat' first
    | with_reducible assumption
    | (extract_lets -underBinder +onlyGivenNames x; first
      | (guard_hyp x : State := _; refine (fun (hx : Keeps m s0 x) => ?_) ?_ <;> [clear_value x; subst x])
      | clear_value x)
    | with_reducible refine setLevel_keeps (landTrans hm (by decide)) _ _ _ ?_
    | with_reducible refine setArr_keeps (landTrans hm (by decide)) _ _ _ ?_

theorem lanternRun_keeps {m : Nat} {s0 : State} (hm : m.land 2052 = 2052) (s : State) (n : ℕ) (h_s : Keeps m s0 s) :
    Keeps m s0 (lanternRun s n) := by
  unfold lanternRun
  repeat' first
    | with_reducible assumption
    | (extract_lets -underBinder +onlyGivenNames x; first
      | (guard_hyp x : State := _; refine (fun (hx : Keeps m s0 x) => ?_) ?_ <;> [clear_value x; subst x])
      | clear_value x)
    | with_reducible refine lanternTurn_keeps (landTrans hm (by decide)) _ _ ?_
    | with_reducible refine levelRise_keeps (landTrans hm (by decide)) _ _ ?_
    | with_reducible refine levelFall_keeps (landTrans hm (by decide)) _ _ ?_
    | with_reducible refine ite_keeps ?_ ?_

theorem lanternDown_keeps {m : Nat} {s0 : State} (hm : m.land 2052 = 2052) (s : State) (n : ℕ) (t : ℕ) (h_s : Keeps m s0 s) :
    Keeps m s0 (lanternDown s n t) := by
  unfold lanternDown
  repeat' first
    | with_reducible assumption
    | (extract_lets -underBinder +onlyGivenNames x; clear_value x)
    | with_reducible refine setLevel_keeps (landTrans hm (by decide)) _ _ _ ?_
    | with_reducible refine ite_keeps ?_ ?_

theorem lanternStep_keeps {m : Nat} {s0 : State} (hm : m.land 2052 = 2052) (s : State) (n : ℕ) (h_s : Keeps m s0 s) :
    Keeps m s0 (lanternStep s n) := by
  unfold lanternStep
  repeat' first
    | with_reducible assumption
    | (extract_lets -underBinder +onlyGivenNames x; first
      | (guard_hyp x : State := _; refine (fun (hx : Keeps m s0 x) => ?_) ?_ <;> [clear_value x; subst x])
      | clear_value x)
    | with_reducible refine lanternRun_keeps (landTrans hm (by decide)) _ _ ?_
    | with_reducible refine lanternDown_keeps (landTrans hm (by decide)) _ _ _ ?_
    | with_reducible refine setLevel_keeps (landTrans hm (by decide)) _ _ _ ?_
    | with_reducible refine setArr_keeps (landTrans hm (by decide)) _ _ _ ?_
    | with_reducible refine ite_keeps ?_ ?_
    | split

theorem selfTestEnd_keeps {m : Nat} {s0 : State} (hm : m.land 2052 = 2052) (s : State) (n : ℕ) (rowFail : Word) (standby : Bool) (sig : BitVec 64) (h_s : Keeps m s0 s) :
    Keeps m s0 (selfTestEnd s n rowFail standby sig) := by
  unfold selfTestEnd
  repeat' first
    | with_reducible assumption
    | (extract_lets -underBinder +onlyGivenNames x; clear_value x)
    | with_reducible refine checkNext_keeps (landTrans hm (by decide)) _ _ ?_
    | with_reducible refine selfTestOutcome_keeps (landTrans hm (by decide)) _ _ _ _ _ _ ?_
    | with_reducible refine ite_keeps ?_ ?_

theorem execSelfTestEnd_keeps {m : Nat} {s0 : State} (hm : m.land 2052 = 2052) (n : ℕ) (rowFail : Word) (standbyFail : Bool) (sig : BitVec 64) (s : State) (h_s : Keeps m s0 s) :
    KeepsX m s0 (execSelfTestEnd n rowFail standbyFail sig s) :=
  next_keeps (selfTestEnd_keeps hm _ _ _ _ _ h_s)

end Sys2Proof.Machine
end

