-- ==== Sys2Proof/Laws/KeepsBeads.lean ====
section
/-! SUPPORT. What each operation of Beads.lean keeps: the canonical form, and the parts of the state that it does not name. -/

namespace Sys2Proof.Machine

theorem beadPoison_keeps {m : Nat} {s0 : State} (hm : m.land 4 = 4) (s : State) (i : ℕ) (h_s : Keeps m s0 s) :
    Keeps m s0 (beadPoison s i) := by
  unfold beadPoison
  repeat' first
    | with_reducible assumption
    | with_reducible refine poisonSeenDev_keeps (landTrans hm (by decide)) _ _ ?_
    | with_reducible refine State.set_keeps (landTrans hm (by decide)) _ _ _ _ _ ?_

theorem bput_keeps {m : Nat} {s0 : State} (hm : m.land 1024 = 1024) (s : State) (i : ℕ) (f : BFld) (v : ℕ) (h_s : Keeps m s0 s) :
    Keeps m s0 (bput s i f v) := by
  unfold bput
  repeat' first
    | with_reducible assumption
    | with_reducible refine devStore_keeps (landTrans hm (by decide)) _ _ _ _ ?_

theorem beadCount_keeps {m : Nat} {s0 : State} (hm : m.land 4 = 4) (s : State) (f : ℕ) (h_s : Keeps m s0 s) :
    Keeps m s0 (beadCount s f) := by
  unfold beadCount
  repeat' first
    | with_reducible assumption
    | (extract_lets -underBinder +onlyGivenNames x; guard_hyp x : State := _; refine (fun (hx : Keeps m s0 x) => ?_) ?_ <;> [clear_value x; subst x])
    | with_reducible refine State.set_keeps (landTrans hm (by decide)) _ _ _ _ _ ?_
    | with_reducible refine ite_keeps ?_ ?_

theorem freeBead_keeps {m : Nat} {s0 : State} (hm : m.land 1028 = 1028) (s : State) (i : ℕ) (h_s : Keeps m s0 s) :
    Keeps m s0 (freeBead s i) := by
  unfold freeBead
  repeat' first
    | with_reducible assumption
    | (extract_lets -underBinder +onlyGivenNames x; clear_value x)
    | with_reducible refine beadCount_keeps (landTrans hm (by decide)) _ _ ?_
    | with_reducible refine devStore_keeps (landTrans hm (by decide)) _ _ _ _ ?_

theorem admitStamp_keeps {m : Nat} {s0 : State} (hm : m.land 536870916 = 536870916) (s : State) (h_s : Keeps m s0 s) :
    Keeps2 m s0 (admitStamp s) := by
  unfold admitStamp
  repeat' first
    | with_reducible assumption
    | (extract_lets -underBinder +onlyGivenNames x; first
      | (guard_hyp x : State := _; refine (fun (hx : Keeps m s0 x) => ?_) ?_ <;> [clear_value x; subst x])
      | clear_value x)
    | with_reducible refine issue_keeps (landTrans hm (by decide)) _ ?_
    | with_reducible refine pair2 ?_
    | fail_if_no_progress (with_reducible refine upd_beadStamp (landTrans hm (by decide)) _ ?_)

theorem newBead_keeps {m : Nat} {s0 : State} (hm : m.land 1028 = 1028) (s : State) (i : ℕ) (kind : ℕ) (state : ℕ) (cls : ℕ) (f : ℕ) (slot : ℕ) (admitted : ℕ) (user : ℕ) (data : Bytes) (h_s : Keeps m s0 s) :
    Keeps m s0 (newBead s i kind state cls f slot admitted user data) := by
  unfold newBead
  repeat' first
    | with_reducible assumption
    | (extract_lets -underBinder +onlyGivenNames x; clear_value x)
    | with_reducible refine beadCount_keeps (landTrans hm (by decide)) _ _ ?_
    | with_reducible refine devStore_keeps (landTrans hm (by decide)) _ _ _ _ ?_

theorem beadRead_keeps {m : Nat} {s0 : State} (hm : m.land 34628173828 = 34628173828) (s : State) (i : ℕ) (h_s : Keeps m s0 s) :
    Keeps m s0 (beadRead s i) := by
  unfold beadRead
  repeat' first
    | with_reducible assumption
    | (extract_lets -underBinder +onlyGivenNames x; first
      | (guard_hyp x : State := _; refine (fun (hx : Keeps m s0 x) => ?_) ?_ <;> [clear_value x; subst x])
      | clear_value x)
    | with_reducible refine State.bump_keeps (landTrans hm (by decide)) _ _ _ _ _ ?_
    | with_reducible refine raiseMem_keeps (landTrans hm (by decide)) _ _ _ _ _ _ ?_
    | with_reducible refine ite_keeps ?_ ?_
    | fail_if_no_progress (with_reducible refine upd_beadUse (landTrans hm (by decide)) _ ?_)

theorem reserveWrite_keeps {m : Nat} {s0 : State} (hm : m.land 4194316 = 4194316) (s : State) (v : Word) (h_s : Keeps m s0 s) :
    Keeps m s0 (reserveWrite s v) := by
  unfold reserveWrite
  repeat' first
    | with_reducible assumption
    | (extract_lets -underBinder +onlyGivenNames x; clear_value x)
    | with_reducible refine State.set_keeps (landTrans hm (by decide)) _ _ _ _ _ ?_
    | with_reducible refine rewritten_keeps (landTrans hm (by decide)) _ _ ?_
    | with_reducible refine ite_keeps ?_ ?_

theorem execRadioReserveWrite_keeps {m : Nat} {s0 : State} (hm : m.land 4194316 = 4194316) (v : Word) (s : State) (h_s : Keeps m s0 s) :
    KeepsX m s0 (execRadioReserveWrite v s) :=
  next_keeps (reserveWrite_keeps hm _ _ h_s)

end Sys2Proof.Machine
end

