-- ==== Sys2Proof/Laws/KeepsFronthaul.lean ====
section
/-! SUPPORT. What each operation of Fronthaul.lean keeps: the canonical form, and the parts of the state that it does not name. -/

namespace Sys2Proof.Machine

theorem setQueue_keeps {m : Nat} {s0 : State} (hm : m.land 67108864 = 67108864) (s : State) (p : ℕ) (q : ℕ) (l : List TxFrame) (h_s : Keeps m s0 s) :
    Keeps m s0 (setQueue s p q l) := by
  unfold setQueue
  repeat' first
    | with_reducible assumption
    | fail_if_no_progress (with_reducible refine upd_fhq (landTrans hm (by decide)) _ ?_)

theorem enqueue_keeps {m : Nat} {s0 : State} (hm : m.land 67108864 = 67108864) (s : State) (p : ℕ) (q : ℕ) (f : TxFrame) (h_s : Keeps m s0 s) :
    Keeps m s0 (enqueue s p q f) := by
  unfold enqueue
  repeat' first
    | with_reducible assumption
    | with_reducible refine setQueue_keeps (landTrans hm (by decide)) _ _ _ _ ?_

theorem fwTake_keeps {m : Nat} {s0 : State} (hm : m.land 34426847236 = 34426847236) (s : State) (p : ℕ) (a2 : ℕ) (h_s : Keeps m s0 s) :
    Keeps m s0 (fwTake s p a2) := by
  unfold fwTake
  repeat' first
    | with_reducible assumption
    | (extract_lets -underBinder +onlyGivenNames x; first
      | (guard_hyp x : State := _; refine (fun (hx : Keeps m s0 x) => ?_) ?_ <;> [clear_value x; subst x])
      | clear_value x)
    | with_reducible refine hubSee_keeps (landTrans hm (by decide)) _ _ _ _ ?_
    | with_reducible refine enqueue_keeps (landTrans hm (by decide)) _ _ _ _ ?_
    | with_reducible refine seeDev_keeps (landTrans hm (by decide)) _ _ _ ?_
    | with_reducible refine ite_keeps ?_ ?_

theorem fwFetch_keeps {m : Nat} {s0 : State} (hm : m.land 34426847236 = 34426847236) (p : ℕ) (r : ℕ) (r1 : State) (h_r1 : Keeps m s0 r1) :
    Keeps m s0 (fwFetch p r r1) := by
  induction r generalizing r1 with
  | zero =>
    unfold fwFetch
    repeat' first
      | with_reducible assumption
  | succ k ih =>
    unfold fwFetch
    repeat' first
      | with_reducible assumption
      | with_reducible apply ih
      | (extract_lets -underBinder +onlyGivenNames x; clear_value x)
      | with_reducible refine State.set_keeps (landTrans hm (by decide)) _ _ _ _ _ ?_
      | with_reducible refine fwTake_keeps (landTrans hm (by decide)) _ _ _ ?_
      | with_reducible refine ite_keeps ?_ ?_

theorem fhDown_keeps {m : Nat} {s0 : State} (hm : m.land 34452014182 = 34452014182) (s : State) (p : ℕ) (st : ℕ) (h_s : Keeps m s0 s) :
    Keeps m s0 (fhDown s p st) := by
  unfold fhDown
  repeat' first
    | with_reducible assumption
    | intro _
    | (extract_lets -underBinder +onlyGivenNames x; guard_hyp x : State := _; refine (fun (hx : Keeps m s0 x) => ?_) ?_ <;> [clear_value x; subst x])
    | with_reducible refine forEach_keeps (landTrans hm (by decide)) _ _ _ ?_ ?_
    | with_reducible refine setQueue_keeps (landTrans hm (by decide)) _ _ _ _ ?_
    | with_reducible refine State.set_keeps (landTrans hm (by decide)) _ _ _ _ _ ?_
    | with_reducible refine chooseUpstream_keeps (landTrans hm (by decide)) _ ?_
    | with_reducible refine setFnState_keeps (landTrans hm (by decide)) _ _ _ ?_

theorem fhClear_keeps {m : Nat} {s0 : State} (hm : m.land 4 = 4) (s : State) (p : ℕ) (h_s : Keeps m s0 s) :
    Keeps m s0 (fhClear s p) := by
  unfold fhClear
  repeat' first
    | with_reducible assumption
    | intro _
    | with_reducible refine forEach_keeps (landTrans hm (by decide)) _ _ _ ?_ ?_
    | with_reducible refine State.set_keeps (landTrans hm (by decide)) _ _ _ _ _ ?_

theorem fhStart_keeps {m : Nat} {s0 : State} (hm : m.land 34384905318 = 34384905318) (s : State) (p : ℕ) (h_s : Keeps m s0 s) :
    Keeps m s0 (fhStart s p) := by
  unfold fhStart
  repeat' first
    | with_reducible assumption
    | intro _
    | (extract_lets -underBinder +onlyGivenNames x; first
      | (guard_hyp x : State := _; refine (fun (hx : Keeps m s0 x) => ?_) ?_ <;> [clear_value x; subst x])
      | clear_value x)
    | with_reducible refine startInDomain_keeps (landTrans hm (by decide)) _ _ _ ?_ ?_
    | with_reducible refine startFn_keeps (landTrans hm (by decide)) _ _ _ ?_
    | with_reducible refine fhClear_keeps (landTrans hm (by decide)) _ _ ?_
    | with_reducible refine chooseUpstream_keeps (landTrans hm (by decide)) _ ?_
    | with_reducible refine State.set_keeps (landTrans hm (by decide)) _ _ _ _ _ ?_
    | with_reducible refine ite_keeps ?_ ?_

theorem fhStop_keeps {m : Nat} {s0 : State} (hm : m.land 34452014182 = 34452014182) (s : State) (p : ℕ) (h_s : Keeps m s0 s) :
    Keeps m s0 (fhStop s p) := by
  unfold fhStop
  repeat' first
    | with_reducible assumption
    | (extract_lets -underBinder +onlyGivenNames x; clear_value x)
    | with_reducible refine State.set_keeps (landTrans hm (by decide)) _ _ _ _ _ ?_
    | with_reducible refine fhDown_keeps (landTrans hm (by decide)) _ _ _ ?_
    | with_reducible refine ite_keeps ?_ ?_

theorem cellFrame_keeps {m : Nat} {s0 : State} (hm : m.land 39736837124 = 39736837124) (s : State) (p : ℕ) (k : ℕ) (c : ℕ) (i : ℕ) (b : Bytes) (q : ℕ) (t : ℤ) (h_s : Keeps m s0 s) :
    Keeps m s0 (cellFrame s p k c i b q t) := by
  unfold cellFrame
  repeat' first
    | with_reducible assumption
    | intro _
    | (extract_lets -underBinder +onlyGivenNames x; first
      | (guard_hyp x : State := _; refine (fun (hx : Keeps m s0 x) => ?_) ?_ <;> [clear_value x; subst x])
      | clear_value x)
    | with_reducible refine State.bumpSat_keeps (landTrans hm (by decide)) _ _ _ _ _ ?_
    | with_reducible refine setCell_keeps (landTrans hm (by decide)) _ _ _ ?_
    | with_reducible refine hubWrite_keeps (landTrans hm (by decide)) _ _ _ _ _ ?_
    | with_reducible refine forEach_keeps (landTrans hm (by decide)) _ _ _ ?_ ?_
    | with_reducible refine ite_keeps ?_ ?_
    | with_reducible refine foldl_keeps ?_ ?_
    | split

theorem fskFrame_keeps {m : Nat} {s0 : State} (hm : m.land 16777220 = 16777220) (s : State) (p : ℕ) (k : ℕ) (g : ℕ) (i : ℕ) (b : Bytes) (t : ℤ) (h_s : Keeps m s0 s) :
    Keeps m s0 (fskFrame s p k g i b t) := by
  unfold fskFrame
  repeat' first
    | with_reducible assumption
    | (extract_lets -underBinder +onlyGivenNames x; clear_value x)
    | with_reducible refine setFsk_keeps (landTrans hm (by decide)) _ _ _ ?_
    | with_reducible refine State.bumpSat_keeps (landTrans hm (by decide)) _ _ _ _ _ ?_
    | with_reducible refine ite_keeps ?_ ?_
    | split

theorem forwardPtp_keeps {m : Nat} {s0 : State} (hm : m.land 67108864 = 67108864) (s : State) (p : ℕ) (b : Bytes) (t : ℤ) (h_s : Keeps m s0 s) :
    Keeps m s0 (forwardPtp s p b t) := by
  unfold forwardPtp
  repeat' first
    | with_reducible assumption
    | intro _
    | with_reducible refine forEach_keeps (landTrans hm (by decide)) _ _ _ ?_ ?_
    | with_reducible refine enqueue_keeps (landTrans hm (by decide)) _ _ _ _ ?_
    | with_reducible refine ite_keeps ?_ ?_
    | split

theorem fwReceive_keeps {m : Nat} {s0 : State} (hm : m.land 39728448516 = 39728448516) (s : State) (p : ℕ) (k : ℕ) (b : Bytes) (t : ℤ) (h_s : Keeps m s0 s) :
    Keeps m s0 (fwReceive s p k b t) := by
  unfold fwReceive
  repeat' first
    | with_reducible assumption
    | (extract_lets -underBinder +onlyGivenNames x; first
      | (guard_hyp x : State := _; refine (fun (hx : Keeps m s0 x) => ?_) ?_ <;> [clear_value x; subst x])
      | clear_value x)
    | with_reducible refine State.bumpSat_keeps (landTrans hm (by decide)) _ _ _ _ _ ?_
    | with_reducible refine hubWrite_keeps (landTrans hm (by decide)) _ _ _ _ _ ?_
    | with_reducible refine hubSee_keeps (landTrans hm (by decide)) _ _ _ _ ?_
    | with_reducible refine State.set_keeps (landTrans hm (by decide)) _ _ _ _ _ ?_
    | with_reducible refine ite_keeps ?_ ?_

theorem fhReceive_keeps {m : Nat} {s0 : State} (hm : m.land 39820723204 = 39820723204) (s : State) (p : ℕ) (k : ℕ) (f : FhFrame) (h_s : Keeps m s0 s) :
    Keeps m s0 (fhReceive s p k f) := by
  unfold fhReceive
  repeat' first
    | with_reducible assumption
    | (extract_lets -underBinder +onlyGivenNames x; first
      | (guard_hyp x : State := _; refine (fun (hx : Keeps m s0 x) => ?_) ?_ <;> [clear_value x; subst x])
      | clear_value x)
    | with_reducible refine State.bumpSat_keeps (landTrans hm (by decide)) _ _ _ _ _ ?_
    | with_reducible refine cellFrame_keeps (landTrans hm (by decide)) _ _ _ _ _ _ _ _ ?_
    | with_reducible refine fskFrame_keeps (landTrans hm (by decide)) _ _ _ _ _ _ _ ?_
    | with_reducible refine forwardPtp_keeps (landTrans hm (by decide)) _ _ _ _ ?_
    | with_reducible refine fwReceive_keeps (landTrans hm (by decide)) _ _ _ _ _ ?_
    | with_reducible refine ite_keeps ?_ ?_
    | split

theorem execFhFrameReceive_keeps {m : Nat} {s0 : State} (hm : m.land 39820723204 = 39820723204) (p : ℕ) (k : ℕ) (frame : FhFrame) (s : State) (h_s : Keeps m s0 s) :
    KeepsX m s0 (execFhFrameReceive p k frame s) := by
  unfold execFhFrameReceive
  repeat' first
    | with_reducible assumption
    | with_reducible refine fhReceive_keeps (landTrans hm (by decide)) _ _ _ _ ?_
    | with_reducible refine ite_keeps ?_ ?_
    | with_reducible refine next_keeps ?_

theorem noteDelayReq_keeps {m : Nat} {s0 : State} (hm : m.land 64 = 64) (s : State) (p : ℕ) (f : TxFrame) (ph : ℕ) (h_s : Keeps m s0 s) :
    Keeps m s0 (noteDelayReq s p f ph) := by
  unfold noteDelayReq
  repeat' first
    | with_reducible assumption
    | (extract_lets -underBinder +onlyGivenNames x; clear_value x)
    | with_reducible refine ite_keeps ?_ ?_
    | split
    | fail_if_no_progress (with_reducible refine upd_servo (landTrans hm (by decide)) _ ?_)

theorem fhTransmit_keeps {m : Nat} {s0 : State} (hm : m.land 1149239364 = 1149239364) (s : State) (p : ℕ) (q : ℕ) (ph : ℕ) (h_s : Keeps m s0 s) :
    Keeps m s0 (fhTransmit s p q ph) := by
  unfold fhTransmit
  repeat' first
    | with_reducible assumption
    | (extract_lets -underBinder +onlyGivenNames x; first
      | (guard_hyp x : State := _; refine (fun (hx : Keeps m s0 x) => ?_) ?_ <;> [clear_value x; subst x])
      | clear_value x)
    | with_reducible refine setQueue_keeps (landTrans hm (by decide)) _ _ _ _ ?_
    | with_reducible refine State.bumpSat_keeps (landTrans hm (by decide)) _ _ _ _ _ ?_
    | with_reducible refine noteDelayReq_keeps (landTrans hm (by decide)) _ _ _ _ ?_
    | with_reducible refine emit_keeps (landTrans hm (by decide)) _ _ ?_
    | with_reducible refine setCell_keeps (landTrans hm (by decide)) _ _ _ ?_
    | with_reducible refine ite_keeps ?_ ?_
    | split

theorem execFhFrameTransmit_keeps {m : Nat} {s0 : State} (hm : m.land 1149239364 = 1149239364) (p : ℕ) (start : TxStart) (s : State) (h_s : Keeps m s0 s) :
    KeepsX m s0 (execFhFrameTransmit p start s) := by
  unfold execFhFrameTransmit
  repeat' first
    | with_reducible assumption
    | with_reducible refine fhTransmit_keeps (landTrans hm (by decide)) _ _ _ _ ?_
    | with_reducible refine ite_keeps ?_ ?_
    | with_reducible refine next_keeps ?_

theorem execFhStart_keeps {m : Nat} {s0 : State} (hm : m.land 34384905318 = 34384905318) (p : ℕ) (s : State) (h_s : Keeps m s0 s) :
    KeepsX m s0 (execFhStart p s) := by
  unfold execFhStart
  repeat' first
    | with_reducible assumption
    | with_reducible refine fhStart_keeps (landTrans hm (by decide)) _ _ ?_
    | with_reducible refine ite_keeps ?_ ?_
    | with_reducible refine next_keeps ?_

theorem execFhStop_keeps {m : Nat} {s0 : State} (hm : m.land 34452014182 = 34452014182) (p : ℕ) (s : State) (h_s : Keeps m s0 s) :
    KeepsX m s0 (execFhStop p s) := by
  unfold execFhStop
  repeat' first
    | with_reducible assumption
    | with_reducible refine fhStop_keeps (landTrans hm (by decide)) _ _ ?_
    | with_reducible refine ite_keeps ?_ ?_
    | with_reducible refine next_keeps ?_

theorem txLate_keeps {m : Nat} {s0 : State} (hm : m.land 67108868 = 67108868) (s : State) (p : ℕ) (q : ℕ) (h_s : Keeps m s0 s) :
    Keeps m s0 (txLate s p q) := by
  unfold txLate
  repeat' first
    | with_reducible assumption
    | (extract_lets -underBinder +onlyGivenNames x; clear_value x)
    | with_reducible refine State.bumpSat_keeps (landTrans hm (by decide)) _ _ _ _ _ ?_
    | with_reducible refine setQueue_keeps (landTrans hm (by decide)) _ _ _ _ ?_
    | split

theorem execTxLateDrop_keeps {m : Nat} {s0 : State} (hm : m.land 67108868 = 67108868) (p : ℕ) (q : ℕ) (s : State) (h_s : Keeps m s0 s) :
    KeepsX m s0 (execTxLateDrop p q s) := by
  unfold execTxLateDrop
  repeat' first
    | with_reducible assumption
    | with_reducible refine txLate_keeps (landTrans hm (by decide)) _ _ _ ?_
    | with_reducible refine ite_keeps ?_ ?_
    | with_reducible refine next_keeps ?_

end Sys2Proof.Machine
end

