-- ==== Sys2Proof/Laws/KeepsIssue.lean ====
section
/-! SUPPORT. What each operation of Issue.lean keeps: the canonical form, and the parts of the state that it does not name. -/

namespace Sys2Proof.Machine

theorem settleBreak_keeps {m : Nat} {s0 : State} (hm : m.land 2052 = 2052) (s : State) (n : ℕ) (c : ℕ) (h_s : Keeps m s0 s) :
    Keeps m s0 (settleBreak s n c) := by
  unfold settleBreak
  repeat' first
    | with_reducible assumption
    | (extract_lets -underBinder +onlyGivenNames x; first
      | (guard_hyp x : State := _; refine (fun (hx : Keeps m s0 x) => ?_) ?_ <;> [clear_value x; subst x])
      | clear_value x)
    | with_reducible refine setCore_keeps (landTrans hm (by decide)) _ _ _ ?_
    | with_reducible refine State.set_keeps (landTrans hm (by decide)) _ _ _ _ _ ?_
    | with_reducible refine ite_keeps ?_ ?_
    | split

theorem setHeld_keeps {m : Nat} {s0 : State} (hm : m.land 2048 = 2048) (s : State) (n : ℕ) (c : ℕ) (v : ℕ) (h_s : Keeps m s0 s) :
    Keeps m s0 (setHeld s n c v) := by
  unfold setHeld
  repeat' first
    | with_reducible assumption
    | (extract_lets -underBinder +onlyGivenNames x; clear_value x)
    | with_reducible refine setCore_keeps (landTrans hm (by decide)) _ _ _ ?_

theorem countHeld_keeps {m : Nat} {s0 : State} (hm : m.land 2048 = 2048) (s : State) (n : ℕ) (h_s : Keeps m s0 s) :
    Keeps m s0 (countHeld s n) := by
  unfold countHeld
  repeat' first
    | with_reducible assumption
    | with_reducible refine setHeld_keeps (landTrans hm (by decide)) _ _ _ _ ?_
    | with_reducible refine ite_keeps ?_ ?_
    | split

theorem accumHeld_keeps {m : Nat} {s0 : State} (hm : m.land 2052 = 2052) (s : State) (n : ℕ) (h_s : Keeps m s0 s) :
    Keeps m s0 (accumHeld s n) := by
  unfold accumHeld
  repeat' first
    | with_reducible assumption
    | intro _
    | with_reducible refine forEach_keeps (landTrans hm (by decide)) _ _ _ ?_ ?_
    | with_reducible refine settleBreak_keeps (landTrans hm (by decide)) _ _ _ ?_
    | with_reducible refine countHeld_keeps (landTrans hm (by decide)) _ _ ?_

theorem breakAt_keeps {m : Nat} {s0 : State} (hm : m.land 2052 = 2052) (s : State) (n : ℕ) (c : ℕ) (st : ℕ) (cause : ℕ) (tag : ℕ) (h_s : Keeps m s0 s) :
    Keeps m s0 (breakAt s n c st cause tag) := by
  unfold breakAt
  repeat' first
    | with_reducible assumption
    | (extract_lets -underBinder +onlyGivenNames x; first
      | (guard_hyp x : State := _; refine (fun (hx : Keeps m s0 x) => ?_) ?_ <;> [clear_value x; subst x])
      | clear_value x)
    | with_reducible refine setCore_keeps (landTrans hm (by decide)) _ _ _ ?_
    | with_reducible refine trace_keeps (landTrans hm (by decide)) _ _ _ _ _ _ _ _ _ ?_

theorem setClTok_keeps {m : Nat} {s0 : State} (hm : m.land 4096 = 4096) (s : State) (cl : ℕ) (i : ℕ) (v : ℕ) (h_s : Keeps m s0 s) :
    Keeps m s0 (setClTok s cl i v) := by
  unfold setClTok
  repeat' first
    | with_reducible assumption
    | fail_if_no_progress (with_reducible refine upd_clTok (landTrans hm (by decide)) _ ?_)

end Sys2Proof.Machine
end

