-- ==== Sys2Proof/Laws/KeepsTeardown.lean ====
section
/-! SUPPORT. What each operation of Teardown.lean keeps: the canonical form, and the parts of the state that it does not name. -/

namespace Sys2Proof.Machine

theorem abandon_keeps {m : Nat} {s0 : State} (hm : m.land 10244 = 10244) (s : State) (n : ℕ) (x : ℕ) (l : List Inflight) (h_s : Keeps m s0 s) :
    Keeps m s0 (abandon s n x l) := by
  unfold abandon
  repeat' first
    | with_reducible assumption
    | (extract_lets -underBinder +onlyGivenNames x; first
      | (guard_hyp x : State := _; refine (fun (hx : Keeps m s0 x) => ?_) ?_ <;> [clear_value x; subst x])
      | clear_value x)
    | with_reducible refine setCore_keeps (landTrans hm (by decide)) _ _ _ ?_
    | with_reducible refine cutPasses_keeps (landTrans hm (by decide)) _ _ ?_
    | with_reducible refine setCtx_keeps (landTrans hm (by decide)) _ _ _ ?_
    | with_reducible refine ite_keeps ?_ ?_

theorem queueActs_keeps {m : Nat} {s0 : State} (hm : m.land 2052 = 2052) (s : State) (n : ℕ) (kinds : List ℕ) (h_s : Keeps m s0 s) :
    Keeps m s0 (queueActs s n kinds) := by
  unfold queueActs
  repeat' first
    | with_reducible assumption
    | (extract_lets -underBinder +onlyGivenNames x; clear_value x)
    | with_reducible refine State.set_keeps (landTrans hm (by decide)) _ _ _ _ _ ?_
    | with_reducible refine setCore_keeps (landTrans hm (by decide)) _ _ _ ?_

theorem markSuspect_keeps {m : Nat} {s0 : State} (hm : m.land 2052 = 2052) (s : State) (n : ℕ) (h_s : Keeps m s0 s) :
    Keeps m s0 (markSuspect s n) := by
  unfold markSuspect
  repeat' first
    | with_reducible assumption
    | with_reducible refine queueActs_keeps (landTrans hm (by decide)) _ _ _ ?_
    | with_reducible refine setSuspect_keeps (landTrans hm (by decide)) _ _ _ ?_

theorem dropReplays_keeps {m : Nat} {s0 : State} (hm : m.land 42949682180 = 42949682180) (s : State) (x : ℕ) (h_s : Keeps m s0 s) :
    Keeps m s0 (dropReplays s x) := by
  unfold dropReplays
  repeat' first
    | with_reducible assumption
    | intro _
    | (extract_lets -underBinder +onlyGivenNames x; first
      | (guard_hyp x : State := _; refine (fun (hx : Keeps m s0 x) => ?_) ?_ <;> [clear_value x; subst x])
      | clear_value x)
    | with_reducible refine forEach_keeps (landTrans hm (by decide)) _ _ _ ?_ ?_
    | with_reducible refine journal_keeps (landTrans hm (by decide)) _ _ ?_
    | with_reducible refine setRep_keeps (landTrans hm (by decide)) _ _ _ ?_
    | with_reducible refine setCtx_keeps (landTrans hm (by decide)) _ _ _ ?_
    | split

theorem tearOne_keeps {m : Nat} {s0 : State} (hm : m.land 42949684228 = 42949684228) (s : State) (x : ℕ) (code : ℕ) (tag : ℕ) (h_s : Keeps m s0 s) :
    Keeps m s0 (tearOne s x code tag) := by
  unfold tearOne
  repeat' first
    | with_reducible assumption
    | (extract_lets -underBinder +onlyGivenNames x; first
      | (guard_hyp x : State := _; refine (fun (hx : Keeps m s0 x) => ?_) ?_ <;> [clear_value x; subst x])
      | clear_value x)
    | with_reducible refine dropReplays_keeps (landTrans hm (by decide)) _ _ ?_
    | with_reducible refine freeSlot_keeps (landTrans hm (by decide)) _ _ _ ?_
    | with_reducible refine setCtx_keeps (landTrans hm (by decide)) _ _ _ ?_
    | split

theorem toIdle_keeps {m : Nat} {s0 : State} (hm : m.land 10240 = 10240) (s : State) (x : ℕ) (h_s : Keeps m s0 s) :
    Keeps m s0 (toIdle s x) := by
  unfold toIdle
  repeat' first
    | with_reducible assumption
    | (extract_lets -underBinder +onlyGivenNames x; first
      | (guard_hyp x : State := _; refine (fun (hx : Keeps m s0 x) => ?_) ?_ <;> [clear_value x; subst x])
      | clear_value x)
    | with_reducible refine setCtx_keeps (landTrans hm (by decide)) _ _ _ ?_
    | with_reducible refine leaveSlot_keeps (landTrans hm (by decide)) _ _ _ ?_
    | with_reducible refine ite_keeps ?_ ?_

theorem failGroup_keeps {m : Nat} {s0 : State} (hm : m.land 42949700612 = 42949700612) (s : State) (g : ℕ) (x : ℕ) (code : ℕ) (tag : ℕ) (h_s : Keeps m s0 s) :
    Keeps m s0 (failGroup s g x code tag) := by
  unfold failGroup
  repeat' first
    | with_reducible assumption
    | intro _
    | (extract_lets -underBinder +onlyGivenNames x; first
      | (guard_hyp x : State := _; refine (fun (hx : Keeps m s0 x) => ?_) ?_ <;> [clear_value x; subst x])
      | clear_value x)
    | with_reducible refine setGroup_keeps (landTrans hm (by decide)) _ _ _ ?_
    | with_reducible refine forEach_keeps (landTrans hm (by decide)) _ _ _ ?_ ?_
    | with_reducible refine setCtx_keeps (landTrans hm (by decide)) _ _ _ ?_
    | with_reducible refine toIdle_keeps (landTrans hm (by decide)) _ _ ?_
    | with_reducible refine dropReplays_keeps (landTrans hm (by decide)) _ _ ?_
    | with_reducible refine ite_keeps ?_ ?_
    | split

theorem freezeSettle_keeps {m : Nat} {s0 : State} (hm : m.land 17179944964 = 17179944964) (s : State) (f : ℕ) (h_s : Keeps m s0 s) :
    Keeps m s0 (freezeSettle s f) := by
  unfold freezeSettle
  repeat' first
    | with_reducible assumption
    | intro _
    | (extract_lets -underBinder +onlyGivenNames x; first
      | (guard_hyp x : State := _; refine (fun (hx : Keeps m s0 x) => ?_) ?_ <;> [clear_value x; subst x])
      | clear_value x)
    | with_reducible refine forEach_keeps (landTrans hm (by decide)) _ _ _ ?_ ?_
    | with_reducible refine leaveSlot_keeps (landTrans hm (by decide)) _ _ _ ?_
    | with_reducible refine setCtx_keeps (landTrans hm (by decide)) _ _ _ ?_
    | with_reducible refine setFn_keeps (landTrans hm (by decide)) _ _ _ ?_
    | with_reducible refine State.set_keeps (landTrans hm (by decide)) _ _ _ _ _ ?_
    | with_reducible refine mbxEnd_keeps (landTrans hm (by decide)) _ _ _ ?_
    | with_reducible refine ite_keeps ?_ ?_

theorem setRetired_keeps {m : Nat} {s0 : State} (hm : m.land 4 = 4) (s : State) (r : ℕ) (h_s : Keeps m s0 s) :
    Keeps m s0 (setRetired s r) := by
  unfold setRetired
  repeat' first
    | with_reducible assumption
    | (extract_lets -underBinder +onlyGivenNames x; clear_value x)
    | with_reducible refine State.set_keeps (landTrans hm (by decide)) _ _ _ _ _ ?_

theorem coreLeaves_keeps {m : Nat} {s0 : State} (hm : m.land 2052 = 2052) (s : State) (n : ℕ) (h_s : Keeps m s0 s) :
    Keeps m s0 (coreLeaves s n) := by
  unfold coreLeaves
  repeat' first
    | with_reducible assumption
    | (extract_lets -underBinder +onlyGivenNames x; first
      | (guard_hyp x : State := _; refine (fun (hx : Keeps m s0 x) => ?_) ?_ <;> [clear_value x; subst x])
      | clear_value x)
    | with_reducible refine State.set_keeps (landTrans hm (by decide)) _ _ _ _ _ ?_
    | with_reducible refine setFnState_keeps (landTrans hm (by decide)) _ _ _ ?_
    | with_reducible refine setCore_keeps (landTrans hm (by decide)) _ _ _ ?_

theorem retireSettle_keeps {m : Nat} {s0 : State} (hm : m.land 60129545220 = 60129545220) (s : State) (n : ℕ) (h_s : Keeps m s0 s) :
    Keeps m s0 (retireSettle s n) := by
  unfold retireSettle
  repeat' first
    | with_reducible assumption
    | (extract_lets -underBinder +onlyGivenNames x; first
      | (guard_hyp x : State := _; refine (fun (hx : Keeps m s0 x) => ?_) ?_ <;> [clear_value x; subst x])
      | clear_value x)
    | with_reducible refine setRetired_keeps (landTrans hm (by decide)) _ _ ?_
    | with_reducible refine coreLeaves_keeps (landTrans hm (by decide)) _ _ ?_
    | with_reducible refine journal_keeps (landTrans hm (by decide)) _ _ ?_
    | with_reducible refine mbxEnd_keeps (landTrans hm (by decide)) _ _ _ ?_
    | with_reducible refine ite_keeps ?_ ?_

theorem teardown_keeps {m : Nat} {s0 : State} (hm : m.land 60131732484 = 60131732484) (s : State) (x : ℕ) (code : ℕ) (tag : ℕ) (h_s : Keeps m s0 s) :
    Keeps m s0 (teardown s x code tag) := by
  unfold teardown
  repeat' first
    | with_reducible assumption
    | (extract_lets -underBinder +onlyGivenNames x; first
      | (guard_hyp x : State := _; refine (fun (hx : Keeps m s0 x) => ?_) ?_ <;> [clear_value x; subst x])
      | clear_value x)
    | with_reducible refine tearOne_keeps (landTrans hm (by decide)) _ _ _ _ ?_
    | with_reducible refine failGroup_keeps (landTrans hm (by decide)) _ _ _ _ _ ?_
    | with_reducible refine freezeSettle_keeps (landTrans hm (by decide)) _ _ ?_
    | with_reducible refine raiseMsix_keeps (landTrans hm (by decide)) _ _ _ ?_
    | with_reducible refine retireSettle_keeps (landTrans hm (by decide)) _ _ ?_
    | split

theorem settleSlot_keeps {m : Nat} {s0 : State} (hm : m.land 60129618948 = 60129618948) (s : State) (x : ℕ) (n : ℕ) (h_s : Keeps m s0 s) :
    Keeps m s0 (settleSlot s x n) := by
  unfold settleSlot
  repeat' first
    | with_reducible assumption
    | (extract_lets -underBinder +onlyGivenNames x; first
      | (guard_hyp x : State := _; refine (fun (hx : Keeps m s0 x) => ?_) ?_ <;> [clear_value x; subst x])
      | clear_value x)
    | with_reducible refine freezeSettle_keeps (landTrans hm (by decide)) _ _ ?_
    | with_reducible refine toIdle_keeps (landTrans hm (by decide)) _ _ ?_
    | with_reducible refine dropReplays_keeps (landTrans hm (by decide)) _ _ ?_
    | with_reducible refine leaveSlot_keeps (landTrans hm (by decide)) _ _ _ ?_
    | with_reducible refine setCtx_keeps (landTrans hm (by decide)) _ _ _ ?_
    | with_reducible refine ite_keeps ?_ ?_

theorem settleCtx_keeps {m : Nat} {s0 : State} (hm : m.land 60129618948 = 60129618948) (s : State) (x : ℕ) (h_s : Keeps m s0 s) :
    Keeps m s0 (settleCtx s x) := by
  unfold settleCtx
  repeat' first
    | with_reducible assumption
    | (extract_lets -underBinder +onlyGivenNames x; clear_value x)
    | with_reducible refine retireSettle_keeps (landTrans hm (by decide)) _ _ ?_
    | with_reducible refine settleSlot_keeps (landTrans hm (by decide)) _ _ _ ?_
    | with_reducible refine ite_keeps ?_ ?_
    | split

theorem cmdFault_keeps {m : Nat} {s0 : State} (hm : m.land 60131732484 = 60131732484) (s : State) (n : ℕ) (x : ℕ) (f : Inflight) (code : ℕ) (detail : ℕ) (reload : optParam Bool false) (h_s : Keeps m s0 s) :
    Keeps m s0 (cmdFault s n x f code detail reload) := by
  unfold cmdFault
  repeat' first
    | with_reducible assumption
    | intro _
    | (extract_lets -underBinder +onlyGivenNames x; first
      | (guard_hyp x : State := _; refine (fun (hx : Keeps m s0 x) => ?_) ?_ <;> [clear_value x; subst x])
      | clear_value x)
    | with_reducible refine trace_keeps (landTrans hm (by decide)) _ _ _ _ _ _ _ _ _ ?_
    | with_reducible refine forEach_keeps (landTrans hm (by decide)) _ _ _ ?_ ?_
    | with_reducible refine journal_keeps (landTrans hm (by decide)) _ _ ?_
    | with_reducible refine setRep_keeps (landTrans hm (by decide)) _ _ _ ?_
    | with_reducible refine setCtx_keeps (landTrans hm (by decide)) _ _ _ ?_
    | with_reducible refine markSuspect_keeps (landTrans hm (by decide)) _ _ ?_
    | with_reducible refine State.bump_keeps (landTrans hm (by decide)) _ _ _ _ _ ?_
    | with_reducible refine teardown_keeps (landTrans hm (by decide)) _ _ _ _ ?_
    | with_reducible refine abandon_keeps (landTrans hm (by decide)) _ _ _ _ ?_
    | with_reducible refine settleCtx_keeps (landTrans hm (by decide)) _ _ ?_
    | with_reducible refine ite_keeps ?_ ?_
    | split

theorem ctxFault_keeps {m : Nat} {s0 : State} (hm : m.land 60131732484 = 60131732484) (s : State) (n : ℕ) (x : ℕ) (stream : ℕ) (code : ℕ) (cmd : BitVec 256) (h_s : Keeps m s0 s) :
    Keeps m s0 (ctxFault s n x stream code cmd) := by
  unfold ctxFault
  repeat' first
    | with_reducible assumption
    | (extract_lets -underBinder +onlyGivenNames x; first
      | (guard_hyp x : State := _; refine (fun (hx : Keeps m s0 x) => ?_) ?_ <;> [clear_value x; subst x])
      | clear_value x)
    | with_reducible refine trace_keeps (landTrans hm (by decide)) _ _ _ _ _ _ _ _ _ ?_
    | with_reducible refine journal_keeps (landTrans hm (by decide)) _ _ ?_
    | with_reducible refine teardown_keeps (landTrans hm (by decide)) _ _ _ _ ?_

end Sys2Proof.Machine
end

