-- ==== Sys2Proof/Laws/KeepsCells.lean ====
section
/-! SUPPORT. What each operation of Cells.lean keeps: the canonical form, and the parts of the state that it does not name. -/

namespace Sys2Proof.Machine

theorem abortMaint_keeps {m : Nat} {s0 : State} (hm : m.land 60131732484 = 60131732484) (s : State) (n : ℕ) (h_s : Keeps m s0 s) :
    Keeps m s0 (abortMaint s n) := by
  unfold abortMaint
  repeat' first
    | with_reducible assumption
    | intro _
    | (extract_lets -underBinder +onlyGivenNames x; clear_value x)
    | with_reducible refine forEach_keeps (landTrans hm (by decide)) _ _ _ ?_ ?_
    | with_reducible refine cmdFault_keeps (landTrans hm (by decide)) _ _ _ _ _ _ _ ?_
    | with_reducible refine ite_keeps ?_ ?_

theorem stopCellAt_keeps {m : Nat} {s0 : State} (hm : m.land 8388608 = 8388608) (s : State) (c : ℕ) (t : ℕ) (h_s : Keeps m s0 s) :
    Keeps m s0 (stopCellAt s c t) := by
  unfold stopCellAt
  repeat' first
    | with_reducible assumption
    | (extract_lets -underBinder +onlyGivenNames x; clear_value x)
    | with_reducible refine setCell_keeps (landTrans hm (by decide)) _ _ _ ?_

theorem armTakeover_keeps {m : Nat} {s0 : State} (hm : m.land 8388608 = 8388608) (s : State) (c : ℕ) (h_s : Keeps m s0 s) :
    Keeps m s0 (armTakeover s c) := by
  unfold armTakeover
  repeat' first
    | with_reducible assumption
    | (extract_lets -underBinder +onlyGivenNames x; clear_value x)
    | with_reducible refine setCell_keeps (landTrans hm (by decide)) _ _ _ ?_
    | with_reducible refine ite_keeps ?_ ?_

theorem takeover_keeps {m : Nat} {s0 : State} (hm : m.land 1082130432 = 1082130432) (s : State) (c : ℕ) (told : Option ℕ) (h_s : Keeps m s0 s) :
    Keeps m s0 (takeover s c told) := by
  unfold takeover
  repeat' first
    | with_reducible assumption
    | (extract_lets -underBinder +onlyGivenNames x; first
      | (guard_hyp x : State := _; refine (fun (hx : Keeps m s0 x) => ?_) ?_ <;> [clear_value x; subst x])
      | clear_value x)
    | with_reducible refine stopCellAt_keeps (landTrans hm (by decide)) _ _ _ ?_
    | with_reducible refine armTakeover_keeps (landTrans hm (by decide)) _ _ ?_
    | with_reducible refine emit_keeps (landTrans hm (by decide)) _ _ ?_
    | with_reducible refine ite_keeps ?_ ?_
    | split

theorem cellFault_keeps {m : Nat} {s0 : State} (hm : m.land 8389636 = 8389636) (s : State) (c : ℕ) (code : ℕ) (h_s : Keeps m s0 s) :
    Keeps m s0 (cellFault s c code) := by
  unfold cellFault
  repeat' first
    | with_reducible assumption
    | intro _
    | (extract_lets -underBinder +onlyGivenNames x; first
      | (guard_hyp x : State := _; refine (fun (hx : Keeps m s0 x) => ?_) ?_ <;> [clear_value x; subst x])
      | clear_value x)
    | with_reducible refine forEach_keeps (landTrans hm (by decide)) _ _ _ ?_ ?_
    | with_reducible refine bput_keeps (landTrans hm (by decide)) _ _ _ _ ?_
    | with_reducible refine setCell_keeps (landTrans hm (by decide)) _ _ _ ?_
    | with_reducible refine faultFn_keeps (landTrans hm (by decide)) _ _ _ ?_
    | with_reducible refine State.set_keeps (landTrans hm (by decide)) _ _ _ _ _ ?_

theorem flushFlow_keeps {m : Nat} {s0 : State} (hm : m.land 34628174852 = 34628174852) (x : Cell) (s : State) (p : ℕ × ℕ) (h_s : Keeps m s0 s) :
    Keeps m s0 (flushFlow x s p) := by
  unfold flushFlow
  repeat' first
    | with_reducible assumption
    | intro _
    | (extract_lets -underBinder +onlyGivenNames x; first
      | (guard_hyp x : State := _; refine (fun (hx : Keeps m s0 x) => ?_) ?_ <;> [clear_value x; subst x])
      | (guard_hyp x : Nat → Nat → State → State := _; refine (fun (hf : ∀ a b t, Keeps m s0 t → Keeps m s0 (x a b t)) => ?_) ?_ <;> [clear_value x; subst x])
      | clear_value x)
    | with_reducible apply hf
    | with_reducible refine bput_keeps (landTrans hm (by decide)) _ _ _ _ ?_
    | with_reducible refine beadRead_keeps (landTrans hm (by decide)) _ _ ?_

theorem flushCell_keeps {m : Nat} {s0 : State} (hm : m.land 34636563460 = 34636563460) (s : State) (c : ℕ) (h_s : Keeps m s0 s) :
    Keeps m s0 (flushCell s c) := by
  unfold flushCell
  repeat' first
    | with_reducible assumption
    | intro _
    | (extract_lets -underBinder +onlyGivenNames x; first
      | (guard_hyp x : State := _; refine (fun (hx : Keeps m s0 x) => ?_) ?_ <;> [clear_value x; subst x])
      | clear_value x)
    | with_reducible refine cellFault_keeps (landTrans hm (by decide)) _ _ _ ?_
    | with_reducible refine forEach_keeps (landTrans hm (by decide)) _ _ _ ?_ ?_
    | with_reducible refine beadPoison_keeps (landTrans hm (by decide)) _ _ ?_
    | with_reducible refine flushFlow_keeps (landTrans hm (by decide)) _ _ _ ?_
    | with_reducible refine setCell_keeps (landTrans hm (by decide)) _ _ _ ?_
    | with_reducible refine ite_keeps ?_ ?_

theorem cellDown_keeps {m : Nat} {s0 : State} (hm : m.land 34703672324 = 34703672324) (s : State) (c : ℕ) (h_s : Keeps m s0 s) :
    Keeps m s0 (cellDown s c) := by
  unfold cellDown
  repeat' first
    | with_reducible assumption
    | intro _
    | (extract_lets -underBinder +onlyGivenNames x; first
      | (guard_hyp x : State := _; refine (fun (hx : Keeps m s0 x) => ?_) ?_ <;> [clear_value x; subst x])
      | clear_value x)
    | with_reducible refine flushCell_keeps (landTrans hm (by decide)) _ _ ?_
    | with_reducible refine forEach_keeps (landTrans hm (by decide)) _ _ _ ?_ ?_
    | with_reducible refine freeBead_keeps (landTrans hm (by decide)) _ _ ?_
    | with_reducible refine setCell_keeps (landTrans hm (by decide)) _ _ _ ?_
    | with_reducible refine setFnState_keeps (landTrans hm (by decide)) _ _ _ ?_
    | with_reducible refine State.set_keeps (landTrans hm (by decide)) _ _ _ _ _ ?_
    | with_reducible refine ite_keeps ?_ ?_
    | fail_if_no_progress (with_reducible refine upd_fhq (landTrans hm (by decide)) _ ?_)

theorem cellSettle_keeps {m : Nat} {s0 : State} (hm : m.land 34703672324 = 34703672324) (s : State) (c : ℕ) (h_s : Keeps m s0 s) :
    Keeps m s0 (cellSettle s c) := by
  unfold cellSettle
  repeat' first
    | with_reducible assumption
    | (extract_lets -underBinder +onlyGivenNames x; guard_hyp x : State := _; refine (fun (hx : Keeps m s0 x) => ?_) ?_ <;> [clear_value x; subst x])
    | with_reducible refine setFnState_keeps (landTrans hm (by decide)) _ _ _ ?_
    | with_reducible refine cellDown_keeps (landTrans hm (by decide)) _ _ ?_
    | with_reducible refine ite_keeps ?_ ?_
    | split

theorem flowBeads_keeps {m : Nat} {s0 : State} (hm : m.land 536871940 = 536871940) (c : ℕ) (x : Cell) (r : List ℕ) (r1 : List ℕ) (r11 : State) (h_r11 : Keeps m s0 r11) :
    KeepsO2 m s0 (flowBeads c x r r1 r11) := by
  induction r generalizing r1 r11 with
  | nil =>
    unfold flowBeads
    repeat' first
      | with_reducible assumption
      | with_reducible refine some_keeps2 ?_
      | with_reducible refine pair2 ?_
  | cons b t ih =>
    unfold flowBeads
    repeat' first
      | with_reducible assumption
      | with_reducible apply ih
      | with_reducible refine newBead_keeps (landTrans hm (by decide)) _ _ _ _ _ _ _ _ _ _ ?_
      | with_reducible exact none_keeps2
      | split
      | with_reducible refine Keeps2.of (admitStamp_keeps (landTrans hm (by decide)) _ ?_)

theorem startAlarm_keeps {m : Nat} {s0 : State} (hm : m.land 34359739398 = 34359739398) (s : State) (c : ℕ) (h_s : Keeps m s0 s) :
    Keeps m s0 (startAlarm s c) := by
  unfold startAlarm
  repeat' first
    | with_reducible assumption
    | with_reducible refine setAlarm_keeps (landTrans hm (by decide)) _ _ _ ?_
    | with_reducible refine ite_keeps ?_ ?_

theorem cellUp_keeps {m : Nat} {s0 : State} (hm : m.land 34904998918 = 34904998918) (s : State) (c : ℕ) (x : Cell) (code : ℕ) (h_s : Keeps m s0 s) :
    Keeps m s0 (cellUp s c x code) := by
  unfold cellUp
  repeat' first
    | with_reducible assumption
    | (extract_lets -underBinder +onlyGivenNames x; clear_value x)
    | with_reducible refine faultFn_keeps (landTrans hm (by decide)) _ _ _ ?_
    | with_reducible refine flowBeads_keeps (landTrans hm (by decide)) _ _ _ _ _ ?_
    | with_reducible refine startAlarm_keeps (landTrans hm (by decide)) _ _ ?_
    | with_reducible refine setFnState_keeps (landTrans hm (by decide)) _ _ _ ?_
    | with_reducible refine setFnCode_keeps (landTrans hm (by decide)) _ _ _ ?_
    | with_reducible refine setCell_keeps (landTrans hm (by decide)) _ _ _ ?_
    | with_reducible refine ofSome2 ‹_ = some (_, _)› ?_
    | split

theorem cellClear_keeps {m : Nat} {s0 : State} (hm : m.land 4 = 4) (s : State) (c : ℕ) (h_s : Keeps m s0 s) :
    Keeps m s0 (cellClear s c) := by
  unfold cellClear
  repeat' first
    | with_reducible assumption
    | intro _
    | with_reducible refine forEach_keeps (landTrans hm (by decide)) _ _ _ ?_ ?_
    | with_reducible refine State.set_keeps (landTrans hm (by decide)) _ _ _ _ _ ?_

theorem cellStart_keeps {m : Nat} {s0 : State} (hm : m.land 35240543238 = 35240543238) (s : State) (c : ℕ) (h_s : Keeps m s0 s) :
    Keeps m s0 (cellStart s c) := by
  unfold cellStart
  repeat' first
    | with_reducible assumption
    | (extract_lets -underBinder +onlyGivenNames x; guard_hyp x : State := _; refine (fun (hx : Keeps m s0 x) => ?_) ?_ <;> [clear_value x; subst x])
    | with_reducible refine cellSettle_keeps (landTrans hm (by decide)) _ _ ?_
    | with_reducible refine faultFn_keeps (landTrans hm (by decide)) _ _ _ ?_
    | with_reducible refine cellClear_keeps (landTrans hm (by decide)) _ _ ?_
    | with_reducible refine State.set_keeps (landTrans hm (by decide)) _ _ _ _ _ ?_
    | with_reducible refine setFnState_keeps (landTrans hm (by decide)) _ _ _ ?_
    | with_reducible refine setFnCode_keeps (landTrans hm (by decide)) _ _ _ ?_
    | with_reducible refine setCell_keeps (landTrans hm (by decide)) _ _ _ ?_
    | with_reducible refine cellUp_keeps (landTrans hm (by decide)) _ _ _ _ ?_
    | with_reducible refine ite_keeps ?_ ?_

theorem cellStop_keeps {m : Nat} {s0 : State} (hm : m.land 34703672324 = 34703672324) (s : State) (c : ℕ) (h_s : Keeps m s0 s) :
    Keeps m s0 (cellStop s c) := by
  unfold cellStop
  repeat' first
    | with_reducible assumption
    | (extract_lets -underBinder +onlyGivenNames x; first
      | (guard_hyp x : State := _; refine (fun (hx : Keeps m s0 x) => ?_) ?_ <;> [clear_value x; subst x])
      | clear_value x)
    | with_reducible refine cellSettle_keeps (landTrans hm (by decide)) _ _ ?_
    | with_reducible refine cellDown_keeps (landTrans hm (by decide)) _ _ ?_
    | with_reducible refine setFnState_keeps (landTrans hm (by decide)) _ _ _ ?_
    | with_reducible refine stopCellAt_keeps (landTrans hm (by decide)) _ _ _ ?_
    | with_reducible refine ite_keeps ?_ ?_

theorem cellSend_keeps {m : Nat} {s0 : State} (hm : m.land 75497474 = 75497474) (c : ℕ) (q : ℕ) (typ : ℕ) (dir : ℕ) (k : ℕ) (sym : ℕ) (s : State) (i : ℕ) (h_s : Keeps m s0 s) :
    Keeps m s0 (cellSend c q typ dir k sym s i) := by
  unfold cellSend
  repeat' first
    | with_reducible assumption
    | (extract_lets -underBinder +onlyGivenNames x; clear_value x)
    | with_reducible refine setCell_keeps (landTrans hm (by decide)) _ _ _ ?_
    | with_reducible refine enqueue_keeps (landTrans hm (by decide)) _ _ _ _ ?_
    | with_reducible refine Keeps2.of (takeFree_keeps (landTrans hm (by decide)) _ ?_)

theorem onCell_keeps {m : Nat} {s0 : State} (hm : m.land 34703672324 = 34703672324) (s : State) (c : ℕ) (f : State → State) (h_s : Keeps m s0 s) (h_f : ∀ x0, Keeps m s0 x0 → Keeps m s0 (f x0)) :
    Keeps m s0 (onCell s c f) := by
  unfold onCell
  repeat' first
    | with_reducible assumption
    | (extract_lets -underBinder +onlyGivenNames x; guard_hyp x : State := _; refine (fun (hx : Keeps m s0 x) => ?_) ?_ <;> [clear_value x; subst x])
    | with_reducible refine h_f _ ?_
    | with_reducible refine cellSettle_keeps (landTrans hm (by decide)) _ _ ?_
    | with_reducible refine ite_keeps ?_ ?_

theorem cplane_keeps {m : Nat} {s0 : State} (hm : m.land 34703672326 = 34703672326) (s : State) (c : ℕ) (h_s : Keeps m s0 s) :
    Keeps m s0 (cplane s c) := by
  unfold cplane
  repeat' first
    | with_reducible assumption
    | intro _
    | (extract_lets -underBinder +onlyGivenNames x; first
      | (guard_hyp x : State := _; refine (fun (hx : Keeps m s0 x) => ?_) ?_ <;> [clear_value x; subst x])
      | clear_value x)
    | with_reducible refine onCell_keeps (landTrans hm (by decide)) _ _ _ ?_ ?_
    | with_reducible refine setCell_keeps (landTrans hm (by decide)) _ _ _ ?_
    | with_reducible refine forEach_keeps (landTrans hm (by decide)) _ _ _ ?_ ?_
    | with_reducible refine cellSend_keeps (landTrans hm (by decide)) _ _ _ _ _ _ _ _ ?_
    | with_reducible refine ite_keeps ?_ ?_

theorem crcIndication_keeps {m : Nat} {s0 : State} (hm : m.land 34703672326 = 34703672326) (s : State) (c : ℕ) (h_s : Keeps m s0 s) :
    Keeps m s0 (crcIndication s c) := by
  unfold crcIndication
  repeat' first
    | with_reducible assumption
    | intro _
    | (extract_lets -underBinder +onlyGivenNames x; first
      | (guard_hyp x : State := _; refine (fun (hx : Keeps m s0 x) => ?_) ?_ <;> [clear_value x; subst x])
      | clear_value x)
    | with_reducible refine onCell_keeps (landTrans hm (by decide)) _ _ _ ?_ ?_
    | with_reducible refine State.bumpSat_keeps (landTrans hm (by decide)) _ _ _ _ _ ?_
    | with_reducible refine setCell_keeps (landTrans hm (by decide)) _ _ _ ?_
    | with_reducible refine flushCell_keeps (landTrans hm (by decide)) _ _ ?_
    | with_reducible refine forEach_keeps (landTrans hm (by decide)) _ _ _ ?_ ?_
    | with_reducible refine indicate_keeps (landTrans hm (by decide)) _ _ _ _ _ ?_
    | with_reducible refine ite_keeps ?_ ?_

theorem dropHard_keeps {m : Nat} {s0 : State} (hm : m.land 8396804 = 8396804) (n : ℕ) (s : State) (sl : ℕ) (h_s : Keeps m s0 s) :
    Keeps m s0 (dropHard n s sl) := by
  unfold dropHard
  repeat' first
    | with_reducible assumption
    | (extract_lets -underBinder +onlyGivenNames x; first
      | (guard_hyp x : State := _; refine (fun (hx : Keeps m s0 x) => ?_) ?_ <;> [clear_value x; subst x])
      | clear_value x)
    | with_reducible refine setCtx_keeps (landTrans hm (by decide)) _ _ _ ?_
    | with_reducible refine State.bumpSat_keeps (landTrans hm (by decide)) _ _ _ _ _ ?_
    | with_reducible refine setCell_keeps (landTrans hm (by decide)) _ _ _ ?_
    | with_reducible refine ite_keeps ?_ ?_

theorem execCellStart_keeps {m : Nat} {s0 : State} (hm : m.land 35240543238 = 35240543238) (c : ℕ) (s : State) (h_s : Keeps m s0 s) :
    KeepsX m s0 (execCellStart c s) := by
  unfold execCellStart
  repeat' first
    | with_reducible assumption
    | with_reducible refine cellStart_keeps (landTrans hm (by decide)) _ _ ?_
    | with_reducible refine ite_keeps ?_ ?_
    | with_reducible refine next_keeps ?_

theorem execCellStop_keeps {m : Nat} {s0 : State} (hm : m.land 34703672324 = 34703672324) (c : ℕ) (s : State) (h_s : Keeps m s0 s) :
    KeepsX m s0 (execCellStop c s) := by
  unfold execCellStop
  repeat' first
    | with_reducible assumption
    | with_reducible refine cellStop_keeps (landTrans hm (by decide)) _ _ ?_
    | with_reducible refine ite_keeps ?_ ?_
    | with_reducible refine next_keeps ?_

theorem execCellTakeover_keeps {m : Nat} {s0 : State} (hm : m.land 1082130432 = 1082130432) (tk : TakeoverOf) (s : State) (h_s : Keeps m s0 s) :
    KeepsX m s0 (execCellTakeover tk s) := by
  unfold execCellTakeover
  repeat' first
    | with_reducible assumption
    | with_reducible refine takeover_keeps (landTrans hm (by decide)) _ _ _ ?_
    | with_reducible refine ite_keeps ?_ ?_
    | with_reducible refine next_keeps ?_

theorem execCplaneRelease_keeps {m : Nat} {s0 : State} (hm : m.land 34703672326 = 34703672326) (c : ℕ) (s : State) (h_s : Keeps m s0 s) :
    KeepsX m s0 (execCplaneRelease c s) :=
  next_keeps (cplane_keeps hm _ _ h_s)

theorem execCrcIndication_keeps {m : Nat} {s0 : State} (hm : m.land 34703672326 = 34703672326) (c : ℕ) (s : State) (h_s : Keeps m s0 s) :
    KeepsX m s0 (execCrcIndication c s) :=
  next_keeps (crcIndication_keeps hm _ _ h_s)

theorem hardLate_keeps {m : Nat} {s0 : State} (hm : m.land 4 = 4) (s : State) (n : ℕ) (h_s : Keeps m s0 s) :
    Keeps m s0 (hardLate s n) := by
  unfold hardLate
  repeat' first
    | with_reducible assumption
    | with_reducible refine State.set_keeps (landTrans hm (by decide)) _ _ _ _ _ ?_
    | with_reducible refine State.bumpSat_keeps (landTrans hm (by decide)) _ _ _ _ _ ?_
    | with_reducible refine ite_keeps ?_ ?_

theorem gateReach_keeps {m : Nat} {s0 : State} (hm : m.land 60140121604 = 60140121604) (s : State) (n : ℕ) (h_s : Keeps m s0 s) :
    Keeps m s0 (gateReach s n) := by
  unfold gateReach
  repeat' first
    | with_reducible assumption
    | intro _
    | (extract_lets -underBinder +onlyGivenNames x; first
      | (guard_hyp x : State := _; refine (fun (hx : Keeps m s0 x) => ?_) ?_ <;> [clear_value x; subst x])
      | clear_value x)
    | with_reducible refine lanternTurn_keeps (landTrans hm (by decide)) _ _ ?_
    | with_reducible refine accumHeld_keeps (landTrans hm (by decide)) _ _ ?_
    | with_reducible refine hardLate_keeps (landTrans hm (by decide)) _ _ ?_
    | with_reducible refine forEach_keeps (landTrans hm (by decide)) _ _ _ ?_ ?_
    | with_reducible refine dropHard_keeps (landTrans hm (by decide)) _ _ _ ?_
    | with_reducible refine abortMaint_keeps (landTrans hm (by decide)) _ _ ?_
    | with_reducible refine ite_keeps ?_ ?_
    | split
    | fail_if_no_progress (with_reducible refine upd_cal (landTrans hm (by decide)) _ ?_)

theorem execGateReachCore_keeps {m : Nat} {s0 : State} (hm : m.land 60140121604 = 60140121604) (n : ℕ) (s : State) (h_s : Keeps m s0 s) :
    KeepsX m s0 (execGateReachCore n s) := by
  unfold execGateReachCore
  repeat' first
    | with_reducible assumption
    | with_reducible refine gateReach_keeps (landTrans hm (by decide)) _ _ ?_
    | with_reducible refine ite_keeps ?_ ?_
    | with_reducible refine next_keeps ?_

theorem takeReqs_keeps {m : Nat} {s0 : State} (hm : m.land 34368128006 = 34368128006) (c : ℕ) (k : ℕ) (r : ℕ) (r1 : State) (h_r1 : Keeps m s0 r1) :
    Keeps m s0 (takeReqs c k r r1) := by
  induction r generalizing r1 with
  | zero =>
    unfold takeReqs
    repeat' first
      | with_reducible assumption
  | succ k ih =>
    unfold takeReqs
    repeat' first
      | with_reducible assumption
      | with_reducible apply ih
      | (extract_lets -underBinder +onlyGivenNames x; first
        | (guard_hyp x : State := _; refine (fun (hx : Keeps m s0 x) => ?_) ?_ <;> [clear_value x; subst x])
        | clear_value x)
      | with_reducible refine setFnCode_keeps (landTrans hm (by decide)) _ _ _ ?_
      | with_reducible refine ringRaise_keeps (landTrans hm (by decide)) _ _ _ _ _ _ ?_
      | with_reducible refine hubSee_keeps (landTrans hm (by decide)) _ _ _ _ ?_
      | with_reducible refine hubStore_keeps (landTrans hm (by decide)) _ _ _ _ ?_
      | with_reducible refine indicate_keeps (landTrans hm (by decide)) _ _ _ _ _ ?_
      | with_reducible refine State.bumpSat_keeps (landTrans hm (by decide)) _ _ _ _ _ ?_
      | with_reducible refine setCell_keeps (landTrans hm (by decide)) _ _ _ ?_
      | with_reducible refine ite_keeps ?_ ?_

theorem reqDeadline_keeps {m : Nat} {s0 : State} (hm : m.land 34703672326 = 34703672326) (s : State) (c : ℕ) (h_s : Keeps m s0 s) :
    Keeps m s0 (reqDeadline s c) := by
  unfold reqDeadline
  repeat' first
    | with_reducible assumption
    | intro _
    | (extract_lets -underBinder +onlyGivenNames x; clear_value x)
    | with_reducible refine onCell_keeps (landTrans hm (by decide)) _ _ _ ?_ ?_
    | with_reducible refine takeReqs_keeps (landTrans hm (by decide)) _ _ _ _ ?_
    | with_reducible refine setCell_keeps (landTrans hm (by decide)) _ _ _ ?_
    | with_reducible refine ite_keeps ?_ ?_

theorem execL2RequestDeadline_keeps {m : Nat} {s0 : State} (hm : m.land 34703672326 = 34703672326) (c : ℕ) (s : State) (h_s : Keeps m s0 s) :
    KeepsX m s0 (execL2RequestDeadline c s) :=
  next_keeps (reqDeadline_keeps hm _ _ h_s)

theorem rachIndication_keeps {m : Nat} {s0 : State} (hm : m.land 34703672324 = 34703672324) (s : State) (c : ℕ) (body : Bytes) (h_s : Keeps m s0 s) :
    Keeps m s0 (rachIndication s c body) := by
  unfold rachIndication
  repeat' first
    | with_reducible assumption
    | intro _
    | (extract_lets -underBinder +onlyGivenNames x; clear_value x)
    | with_reducible refine onCell_keeps (landTrans hm (by decide)) _ _ _ ?_ ?_
    | with_reducible refine indicateBody_keeps (landTrans hm (by decide)) _ _ _ _ ?_
    | with_reducible refine setCell_keeps (landTrans hm (by decide)) _ _ _ ?_
    | with_reducible refine ite_keeps ?_ ?_
    | split

theorem execRachIndication_keeps {m : Nat} {s0 : State} (hm : m.land 34703672324 = 34703672324) (c : ℕ) (body : Bytes) (s : State) (h_s : Keeps m s0 s) :
    KeepsX m s0 (execRachIndication c body s) :=
  next_keeps (rachIndication_keeps hm _ _ _ h_s)

theorem replicaReceive_keeps {m : Nat} {s0 : State} (hm : m.land 8388612 = 8388612) (s : State) (c : ℕ) (buf : Bool) (slot : Word) (h_s : Keeps m s0 s) :
    Keeps m s0 (replicaReceive s c buf slot) := by
  unfold replicaReceive
  repeat' first
    | with_reducible assumption
    | (extract_lets -underBinder +onlyGivenNames x; clear_value x)
    | with_reducible refine State.set_keeps (landTrans hm (by decide)) _ _ _ _ _ ?_
    | with_reducible refine setCell_keeps (landTrans hm (by decide)) _ _ _ ?_
    | with_reducible refine ite_keeps ?_ ?_

theorem execReplicaReceive_keeps {m : Nat} {s0 : State} (hm : m.land 8388612 = 8388612) (c : ℕ) (buf : Bool) (slot : Word) (s : State) (h_s : Keeps m s0 s) :
    KeepsX m s0 (execReplicaReceive c buf slot s) :=
  next_keeps (replicaReceive_keeps hm _ _ _ _ h_s)

theorem replicaSend_keeps {m : Nat} {s0 : State} (hm : m.land 40072381444 = 40072381444) (s : State) (c : ℕ) (data : Bytes) (h_s : Keeps m s0 s) :
    Keeps m s0 (replicaSend s c data) := by
  unfold replicaSend
  repeat' first
    | with_reducible assumption
    | intro _
    | (extract_lets -underBinder +onlyGivenNames x; first
      | (guard_hyp x : State := _; refine (fun (hx : Keeps m s0 x) => ?_) ?_ <;> [clear_value x; subst x])
      | clear_value x)
    | with_reducible refine onCell_keeps (landTrans hm (by decide)) _ _ _ ?_ ?_
    | with_reducible refine State.set_keeps (landTrans hm (by decide)) _ _ _ _ _ ?_
    | with_reducible refine forEach_keeps (landTrans hm (by decide)) _ _ _ ?_ ?_
    | with_reducible refine issueWrite_keeps (landTrans hm (by decide)) _ _ _ _ _ _ _ _ _ _ ?_
    | with_reducible refine setCell_keeps (landTrans hm (by decide)) _ _ _ ?_
    | with_reducible refine ite_keeps ?_ ?_

theorem execReplicaSend_keeps {m : Nat} {s0 : State} (hm : m.land 40072381444 = 40072381444) (c : ℕ) (state : Bytes) (s : State) (h_s : Keeps m s0 s) :
    KeepsX m s0 (execReplicaSend c state s) :=
  next_keeps (replicaSend_keeps hm _ _ _ h_s)

theorem slotIndication_keeps {m : Nat} {s0 : State} (hm : m.land 34703672326 = 34703672326) (s : State) (c : ℕ) (h_s : Keeps m s0 s) :
    Keeps m s0 (slotIndication s c) := by
  unfold slotIndication
  repeat' first
    | with_reducible assumption
    | intro _
    | (extract_lets -underBinder +onlyGivenNames x; clear_value x)
    | with_reducible refine onCell_keeps (landTrans hm (by decide)) _ _ _ ?_ ?_
    | with_reducible refine indicate_keeps (landTrans hm (by decide)) _ _ _ _ _ ?_
    | with_reducible refine setCell_keeps (landTrans hm (by decide)) _ _ _ ?_
    | with_reducible refine ite_keeps ?_ ?_

theorem execSlotIndication_keeps {m : Nat} {s0 : State} (hm : m.land 34703672326 = 34703672326) (c : ℕ) (s : State) (h_s : Keeps m s0 s) :
    KeepsX m s0 (execSlotIndication c s) :=
  next_keeps (slotIndication_keeps hm _ _ h_s)

theorem srsIndication_keeps {m : Nat} {s0 : State} (hm : m.land 34703672324 = 34703672324) (s : State) (c : ℕ) (body : Bytes) (h_s : Keeps m s0 s) :
    Keeps m s0 (srsIndication s c body) := by
  unfold srsIndication
  repeat' first
    | with_reducible assumption
    | intro _
    | (extract_lets -underBinder +onlyGivenNames x; clear_value x)
    | with_reducible refine onCell_keeps (landTrans hm (by decide)) _ _ _ ?_ ?_
    | with_reducible refine indicateBody_keeps (landTrans hm (by decide)) _ _ _ _ ?_
    | with_reducible refine setCell_keeps (landTrans hm (by decide)) _ _ _ ?_
    | with_reducible refine ite_keeps ?_ ?_
    | split

theorem execSrsIndication_keeps {m : Nat} {s0 : State} (hm : m.land 34703672324 = 34703672324) (c : ℕ) (body : Bytes) (s : State) (h_s : Keeps m s0 s) :
    KeepsX m s0 (execSrsIndication c body s) :=
  next_keeps (srsIndication_keeps hm _ _ _ h_s)

theorem takeoverBoundary_keeps {m : Nat} {s0 : State} (hm : m.land 43494933510 = 43494933510) (s : State) (c : ℕ) (h_s : Keeps m s0 s) :
    Keeps m s0 (takeoverBoundary s c) := by
  unfold takeoverBoundary
  repeat' first
    | with_reducible assumption
    | (extract_lets -underBinder +onlyGivenNames x; first
      | (guard_hyp x : State := _; refine (fun (hx : Keeps m s0 x) => ?_) ?_ <;> [clear_value x; subst x])
      | clear_value x)
    | with_reducible refine State.set_keeps (landTrans hm (by decide)) _ _ _ _ _ ?_
    | with_reducible refine cellUp_keeps (landTrans hm (by decide)) _ _ _ _ ?_
    | with_reducible refine journal_keeps (landTrans hm (by decide)) _ _ ?_
    | with_reducible refine State.bumpSat_keeps (landTrans hm (by decide)) _ _ _ _ _ ?_
    | with_reducible refine indicate_keeps (landTrans hm (by decide)) _ _ _ _ _ ?_
    | with_reducible refine ite_keeps ?_ ?_
    | split

theorem execTakeoverBoundary_keeps {m : Nat} {s0 : State} (hm : m.land 43494933510 = 43494933510) (c : ℕ) (s : State) (h_s : Keeps m s0 s) :
    KeepsX m s0 (execTakeoverBoundary c s) :=
  next_keeps (takeoverBoundary_keeps hm _ _ h_s)

theorem txBoundary_keeps {m : Nat} {s0 : State} (hm : m.land 34703672324 = 34703672324) (s : State) (c : ℕ) (h_s : Keeps m s0 s) :
    Keeps m s0 (txBoundary s c) := by
  unfold txBoundary
  repeat' first
    | with_reducible assumption
    | intro _
    | (extract_lets -underBinder +onlyGivenNames x; clear_value x)
    | with_reducible refine onCell_keeps (landTrans hm (by decide)) _ _ _ ?_ ?_
    | with_reducible refine setCell_keeps (landTrans hm (by decide)) _ _ _ ?_
    | with_reducible refine State.set_keeps (landTrans hm (by decide)) _ _ _ _ _ ?_
    | with_reducible refine ite_keeps ?_ ?_

theorem execTxEnableBoundary_keeps {m : Nat} {s0 : State} (hm : m.land 34703672324 = 34703672324) (c : ℕ) (s : State) (h_s : Keeps m s0 s) :
    KeepsX m s0 (execTxEnableBoundary c s) :=
  next_keeps (txBoundary_keeps hm _ _ h_s)

theorem uplaneRelease_keeps {m : Nat} {s0 : State} (hm : m.land 34703672326 = 34703672326) (s : State) (c : ℕ) (h_s : Keeps m s0 s) :
    Keeps m s0 (uplaneRelease s c) := by
  unfold uplaneRelease
  repeat' first
    | with_reducible assumption
    | intro _
    | (extract_lets -underBinder +onlyGivenNames x; first
      | (guard_hyp x : State := _; refine (fun (hx : Keeps m s0 x) => ?_) ?_ <;> [clear_value x; subst x])
      | clear_value x)
    | with_reducible refine onCell_keeps (landTrans hm (by decide)) _ _ _ ?_ ?_
    | with_reducible refine setCell_keeps (landTrans hm (by decide)) _ _ _ ?_
    | with_reducible refine forEach_keeps (landTrans hm (by decide)) _ _ _ ?_ ?_
    | with_reducible refine cellSend_keeps (landTrans hm (by decide)) _ _ _ _ _ _ _ _ ?_
    | with_reducible refine ite_keeps ?_ ?_

theorem execUplaneRelease_keeps {m : Nat} {s0 : State} (hm : m.land 34703672326 = 34703672326) (c : ℕ) (s : State) (h_s : Keeps m s0 s) :
    KeepsX m s0 (execUplaneRelease c s) :=
  next_keeps (uplaneRelease_keeps hm _ _ h_s)

end Sys2Proof.Machine
end

