-- ==== Sys2Proof/Laws/KeepsCodec.lean ====
section
/-! SUPPORT. What each operation of Codec.lean keeps: the canonical form, and the parts of the state that it does not name. -/

namespace Sys2Proof.Machine

theorem setCodec_keeps {m : Nat} {s0 : State} (hm : m.land 33554432 = 33554432) (s : State) (g : ℕ) (x : Codec) (h_s : Keeps m s0 s) :
    Keeps m s0 (setCodec s g x) := by
  unfold setCodec
  repeat' first
    | with_reducible assumption
    | fail_if_no_progress (with_reducible refine upd_codecs (landTrans hm (by decide)) _ ?_)

theorem tailNotice_keeps {m : Nat} {s0 : State} (hm : m.land 33554432 = 33554432) (s : State) (g : ℕ) (hard : Bool) (h_s : Keeps m s0 s) :
    Keeps m s0 (tailNotice s g hard) := by
  unfold tailNotice
  repeat' first
    | with_reducible assumption
    | (extract_lets -underBinder +onlyGivenNames x; clear_value x)
    | with_reducible refine setCodec_keeps (landTrans hm (by decide)) _ _ _ ?_

theorem codecStart_keeps {m : Nat} {s0 : State} (hm : m.land 33554436 = 33554436) (s : State) (g : ℕ) (h_s : Keeps m s0 s) :
    Keeps m s0 (codecStart s g) := by
  unfold codecStart
  repeat' first
    | with_reducible assumption
    | intro _
    | (extract_lets -underBinder +onlyGivenNames x; first
      | (guard_hyp x : State := _; refine (fun (hx : Keeps m s0 x) => ?_) ?_ <;> [clear_value x; subst x])
      | clear_value x)
    | with_reducible refine startInDomain_keeps (landTrans hm (by decide)) _ _ _ ?_ ?_
    | with_reducible refine forEach_keeps (landTrans hm (by decide)) _ _ _ ?_ ?_
    | with_reducible refine State.set_keeps (landTrans hm (by decide)) _ _ _ _ _ ?_
    | with_reducible refine tailNotice_keeps (landTrans hm (by decide)) _ _ _ ?_
    | with_reducible refine setCodec_keeps (landTrans hm (by decide)) _ _ _ ?_
    | with_reducible refine startFn_keeps (landTrans hm (by decide)) _ _ _ ?_
    | with_reducible refine ite_keeps ?_ ?_

theorem codecSettle_keeps {m : Nat} {s0 : State} (hm : m.land 4 = 4) (s : State) (g : ℕ) (h_s : Keeps m s0 s) :
    Keeps m s0 (codecSettle s g) := by
  unfold codecSettle
  repeat' first
    | with_reducible assumption
    | with_reducible refine setFnState_keeps (landTrans hm (by decide)) _ _ _ ?_
    | with_reducible refine ite_keeps ?_ ?_

theorem codecStop_keeps {m : Nat} {s0 : State} (hm : m.land 33554436 = 33554436) (s : State) (g : ℕ) (h_s : Keeps m s0 s) :
    Keeps m s0 (codecStop s g) := by
  unfold codecStop
  repeat' first
    | with_reducible assumption
    | (extract_lets -underBinder +onlyGivenNames x; clear_value x)
    | with_reducible refine State.set_keeps (landTrans hm (by decide)) _ _ _ _ _ ?_
    | with_reducible refine codecSettle_keeps (landTrans hm (by decide)) _ _ ?_
    | with_reducible refine setFnState_keeps (landTrans hm (by decide)) _ _ _ ?_
    | with_reducible refine setCodec_keeps (landTrans hm (by decide)) _ _ _ ?_
    | with_reducible refine ite_keeps ?_ ?_

theorem jobStore_keeps {m : Nat} {s0 : State} (hm : m.land 39728448516 = 39728448516) (s : State) (g : ℕ) (a : ℕ) (l : Bytes) (h_s : Keeps m s0 s) :
    Keeps m s0 (jobStore s g a l) := by
  unfold jobStore
  repeat' first
    | with_reducible assumption
    | with_reducible refine hubWrite_keeps (landTrans hm (by decide)) _ _ _ _ _ ?_
    | with_reducible refine ite_keeps ?_ ?_

theorem jobReport_keeps {m : Nat} {s0 : State} (hm : m.land 39728448516 = 39728448516) (s : State) (g : ℕ) (d : Bytes) (word : ℕ) (h_s : Keeps m s0 s) :
    Keeps m s0 (jobReport s g d word) := by
  unfold jobReport
  repeat' first
    | with_reducible assumption
    | (extract_lets -underBinder +onlyGivenNames x; first
      | (guard_hyp x : State := _; refine (fun (hx : Keeps m s0 x) => ?_) ?_ <;> [clear_value x; subst x])
      | clear_value x)
    | with_reducible refine jobStore_keeps (landTrans hm (by decide)) _ _ _ _ ?_

theorem jobPop_keeps {m : Nat} {s0 : State} (hm : m.land 34359739396 = 34359739396) (s : State) (g : ℕ) (hard : Bool) (h_s : Keeps m s0 s) :
    Keeps m s0 (jobPop s g hard) := by
  unfold jobPop
  repeat' first
    | with_reducible assumption
    | with_reducible refine hubStore_keeps (landTrans hm (by decide)) _ _ _ _ ?_

theorem deadlineSkip_keeps {m : Nat} {s0 : State} (hm : m.land 39728448516 = 39728448516) (s : State) (g : ℕ) (hard : Bool) (h_s : Keeps m s0 s) :
    Keeps m s0 (deadlineSkip s g hard) := by
  unfold deadlineSkip
  repeat' first
    | with_reducible assumption
    | (extract_lets -underBinder +onlyGivenNames x; clear_value x)
    | with_reducible refine State.bumpSat_keeps (landTrans hm (by decide)) _ _ _ _ _ ?_
    | with_reducible refine jobReport_keeps (landTrans hm (by decide)) _ _ _ _ ?_
    | with_reducible refine jobPop_keeps (landTrans hm (by decide)) _ _ _ ?_
    | with_reducible refine ite_keeps ?_ ?_

theorem seeSoft_keeps {m : Nat} {s0 : State} (hm : m.land 4 = 4) (s : State) (x : Cell) (entry : Option ℕ) (h_s : Keeps m s0 s) :
    Keeps m s0 (seeSoft s x entry) := by
  unfold seeSoft
  repeat' first
    | with_reducible assumption
    | with_reducible refine seeDev_keeps (landTrans hm (by decide)) _ _ _ ?_
    | split

theorem harqPut_keeps {m : Nat} {s0 : State} (hm : m.land 39728448516 = 39728448516) (s : State) (x : Cell) (i : ℕ) (slot : ℕ) (key : ℕ) (ndi : ℕ) (l : List ℤ) (h_s : Keeps m s0 s) :
    Keeps m s0 (harqPut s x i slot key ndi l) := by
  unfold harqPut
  repeat' first
    | with_reducible assumption
    | (extract_lets -underBinder +onlyGivenNames x; guard_hyp x : State := _; refine (fun (hx : Keeps m s0 x) => ?_) ?_ <;> [clear_value x; subst x])
    | with_reducible refine homeWrite_keeps (landTrans hm (by decide)) _ _ _ _ ?_

theorem harqReplace_keeps {m : Nat} {s0 : State} (hm : m.land 39728448516 = 39728448516) (s : State) (x : Cell) (old : Option ℕ) (key : ℕ) (ndi : ℕ) (l : List ℤ) (h_s : Keeps m s0 s) :
    Keeps m s0 (harqReplace s x old key ndi l) := by
  unfold harqReplace
  repeat' first
    | with_reducible assumption
    | with_reducible refine harqPut_keeps (landTrans hm (by decide)) _ _ _ _ _ _ _ ?_
    | split

theorem harqNew_keeps {m : Nat} {s0 : State} (hm : m.land 39728448516 = 39728448516) (s : State) (c : ℕ) (x : Cell) (free : Option (ℕ × ℕ)) (key : ℕ) (ndi : ℕ) (l : List ℤ) (h_s : Keeps m s0 s) :
    Keeps m s0 (harqNew s c x free key ndi l) := by
  unfold harqNew
  repeat' first
    | with_reducible assumption
    | (extract_lets -underBinder +onlyGivenNames x; guard_hyp x : State := _; refine (fun (hx : Keeps m s0 x) => ?_) ?_ <;> [clear_value x; subst x])
    | with_reducible refine harqPut_keeps (landTrans hm (by decide)) _ _ _ _ _ _ _ ?_
    | with_reducible refine State.bumpSat_keeps (landTrans hm (by decide)) _ _ _ _ _ ?_
    | with_reducible refine harqReplace_keeps (landTrans hm (by decide)) _ _ _ _ _ _ ?_
    | split

theorem harqStore_keeps {m : Nat} {s0 : State} (hm : m.land 39728448516 = 39728448516) (s : State) (c : ℕ) (x : Cell) (entry : Option ℕ) (key : ℕ) (ndi : ℕ) (l : List ℤ) (h_s : Keeps m s0 s) :
    Keeps m s0 (harqStore s c x entry key ndi l) := by
  unfold harqStore
  repeat' first
    | with_reducible assumption
    | with_reducible refine harqPut_keeps (landTrans hm (by decide)) _ _ _ _ _ _ _ ?_
    | with_reducible refine harqNew_keeps (landTrans hm (by decide)) _ _ _ _ _ _ _ ?_
    | split

theorem decodeJob_keeps {m : Nat} {s0 : State} (hm : m.land 39728448516 = 39728448516) (s : State) (d : Bytes) (input : Bytes) (h_s : Keeps m s0 s) :
    Keeps1 m s0 (decodeJob s d input) := by
  unfold decodeJob
  repeat' first
    | with_reducible assumption
    | (extract_lets -underBinder +onlyGivenNames x; first
      | (guard_hyp x : State := _; refine (fun (hx : Keeps m s0 x) => ?_) ?_ <;> [clear_value x; subst x])
      | clear_value x)
    | with_reducible refine seeSoft_keeps (landTrans hm (by decide)) _ _ _ ?_
    | with_reducible refine State.bumpSat_keeps (landTrans hm (by decide)) _ _ _ _ _ ?_
    | with_reducible refine homeWrite_keeps (landTrans hm (by decide)) _ _ _ _ ?_
    | with_reducible refine harqStore_keeps (landTrans hm (by decide)) _ _ _ _ _ _ _ ?_
    | with_reducible refine ite_keeps ?_ ?_
    | with_reducible refine ite_keeps1 ?_ ?_
    | split
    | with_reducible refine pair1 ?_

theorem execCodecDeadlineSkip_keeps {m : Nat} {s0 : State} (hm : m.land 39728448516 = 39728448516) (g : ℕ) (hard : Bool) (s : State) (h_s : Keeps m s0 s) :
    KeepsX m s0 (execCodecDeadlineSkip g hard s) := by
  unfold execCodecDeadlineSkip
  repeat' first
    | with_reducible assumption
    | with_reducible refine deadlineSkip_keeps (landTrans hm (by decide)) _ _ _ ?_
    | with_reducible refine ite_keeps ?_ ?_
    | with_reducible refine next_keeps ?_

theorem execCodecGrpStart_keeps {m : Nat} {s0 : State} (hm : m.land 33554436 = 33554436) (g : ℕ) (s : State) (h_s : Keeps m s0 s) :
    KeepsX m s0 (execCodecGrpStart g s) := by
  unfold execCodecGrpStart
  repeat' first
    | with_reducible assumption
    | with_reducible refine codecStart_keeps (landTrans hm (by decide)) _ _ ?_
    | with_reducible refine ite_keeps ?_ ?_
    | with_reducible refine next_keeps ?_

theorem execCodecGrpStop_keeps {m : Nat} {s0 : State} (hm : m.land 33554436 = 33554436) (g : ℕ) (s : State) (h_s : Keeps m s0 s) :
    KeepsX m s0 (execCodecGrpStop g s) := by
  unfold execCodecGrpStop
  repeat' first
    | with_reducible assumption
    | with_reducible refine codecStop_keeps (landTrans hm (by decide)) _ _ ?_
    | with_reducible refine ite_keeps ?_ ?_
    | with_reducible refine next_keeps ?_

theorem jobDone_keeps {m : Nat} {s0 : State} (hm : m.land 39762002948 = 39762002948) (s : State) (g : ℕ) (h_s : Keeps m s0 s) :
    Keeps m s0 (jobDone s g) := by
  unfold jobDone
  repeat' first
    | with_reducible assumption
    | (extract_lets -underBinder +onlyGivenNames x; first
      | (guard_hyp x : State := _; refine (fun (hx : Keeps m s0 x) => ?_) ?_ <;> [clear_value x; subst x])
      | clear_value x)
    | with_reducible refine setCodec_keeps (landTrans hm (by decide)) _ _ _ ?_
    | with_reducible refine State.bumpSat_keeps (landTrans hm (by decide)) _ _ _ _ _ ?_
    | with_reducible refine jobReport_keeps (landTrans hm (by decide)) _ _ _ _ ?_
    | with_reducible refine jobStore_keeps (landTrans hm (by decide)) _ _ _ _ ?_
    | with_reducible refine codecSettle_keeps (landTrans hm (by decide)) _ _ ?_
    | with_reducible refine ite_keeps ?_ ?_
    | split

theorem execCodecJobDone_keeps {m : Nat} {s0 : State} (hm : m.land 39762002948 = 39762002948) (g : ℕ) (s : State) (h_s : Keeps m s0 s) :
    KeepsX m s0 (execCodecJobDone g s) := by
  unfold execCodecJobDone
  repeat' first
    | with_reducible assumption
    | with_reducible refine jobDone_keeps (landTrans hm (by decide)) _ _ ?_
    | with_reducible refine ite_keeps ?_ ?_
    | with_reducible refine next_keeps ?_

theorem execCodecRingTailNotice_keeps {m : Nat} {s0 : State} (hm : m.land 33554432 = 33554432) (g : ℕ) (hard : Bool) (s : State) (h_s : Keeps m s0 s) :
    KeepsX m s0 (execCodecRingTailNotice g hard s) := by
  unfold execCodecRingTailNotice
  repeat' first
    | with_reducible assumption
    | with_reducible refine tailNotice_keeps (landTrans hm (by decide)) _ _ _ ?_
    | with_reducible refine ite_keeps ?_ ?_
    | with_reducible refine next_keeps ?_

theorem jobWork_keeps {m : Nat} {s0 : State} (hm : m.land 39728448516 = 39728448516) (s : State) (d : Bytes) (h_s : Keeps m s0 s) :
    Keeps1 m s0 (jobWork s d) := by
  unfold jobWork
  repeat' first
    | with_reducible assumption
    | (extract_lets -underBinder +onlyGivenNames x; clear_value x)
    | with_reducible refine decodeJob_keeps (landTrans hm (by decide)) _ _ _ ?_
    | with_reducible refine ite_keeps1 ?_ ?_
    | split
    | with_reducible refine pair1 ?_

theorem jobStart_keeps {m : Nat} {s0 : State} (hm : m.land 39762002948 = 39762002948) (s : State) (g : ℕ) (hard : Bool) (op : ℕ) (h_s : Keeps m s0 s) :
    Keeps m s0 (jobStart s g hard op) := by
  unfold jobStart
  repeat' first
    | with_reducible assumption
    | (extract_lets -underBinder +onlyGivenNames x; first
      | (guard_hyp x : State × Bytes × ℕ := _; refine (fun (hx : Keeps1 m s0 x) => ?_) ?_ <;> [clear_value x; subst x])
      | clear_value x)
    | with_reducible refine jobWork_keeps (landTrans hm (by decide)) _ _ ?_
    | with_reducible refine seeDev_keeps (landTrans hm (by decide)) _ _ _ ?_
    | with_reducible refine hubSee_keeps (landTrans hm (by decide)) _ _ _ _ ?_
    | with_reducible refine jobPop_keeps (landTrans hm (by decide)) _ _ _ ?_
    | with_reducible refine setCodec_keeps (landTrans hm (by decide)) _ _ _ ?_
    | with_reducible refine ite_keeps ?_ ?_
    | with_reducible exact Keeps1.of ‹_›

theorem execLdpcDec_keeps {m : Nat} {s0 : State} (hm : m.land 39762002948 = 39762002948) (g : ℕ) (hard : Bool) (s : State) (h_s : Keeps m s0 s) :
    KeepsX m s0 (execLdpcDec g hard s) := by
  unfold execLdpcDec
  repeat' first
    | with_reducible assumption
    | with_reducible refine jobStart_keeps (landTrans hm (by decide)) _ _ _ _ ?_
    | with_reducible refine ite_keeps ?_ ?_
    | with_reducible refine next_keeps ?_

theorem execLdpcEnc_keeps {m : Nat} {s0 : State} (hm : m.land 39762002948 = 39762002948) (g : ℕ) (hard : Bool) (s : State) (h_s : Keeps m s0 s) :
    KeepsX m s0 (execLdpcEnc g hard s) := by
  unfold execLdpcEnc
  repeat' first
    | with_reducible assumption
    | with_reducible refine jobStart_keeps (landTrans hm (by decide)) _ _ _ _ ?_
    | with_reducible refine ite_keeps ?_ ?_
    | with_reducible refine next_keeps ?_

theorem execPolarDec_keeps {m : Nat} {s0 : State} (hm : m.land 39762002948 = 39762002948) (g : ℕ) (hard : Bool) (s : State) (h_s : Keeps m s0 s) :
    KeepsX m s0 (execPolarDec g hard s) := by
  unfold execPolarDec
  repeat' first
    | with_reducible assumption
    | with_reducible refine jobStart_keeps (landTrans hm (by decide)) _ _ _ _ ?_
    | with_reducible refine ite_keeps ?_ ?_
    | with_reducible refine next_keeps ?_

end Sys2Proof.Machine
end

