-- ==== Sys2Proof/Laws/KeepsEntry.lean ====
section
/-! SUPPORT. What each operation of Entry.lean keeps: the canonical form, and the parts of the state that it does not name. -/

namespace Sys2Proof.Machine

theorem recount_keeps {m : Nat} {s0 : State} (hm : m.land 4 = 4) (s : State) (f : ℕ) (h_s : Keeps m s0 s) :
    Keeps m s0 (recount s f) := by
  unfold recount
  repeat' first
    | with_reducible assumption
    | (extract_lets -underBinder +onlyGivenNames x; guard_hyp x : State := _; refine (fun (hx : Keeps m s0 x) => ?_) ?_ <;> [clear_value x; subst x])
    | with_reducible refine State.set_keeps (landTrans hm (by decide)) _ _ _ _ _ ?_
    | with_reducible refine ite_keeps ?_ ?_

theorem fetched_keeps {m : Nat} {s0 : State} (hm : m.land 4 = 4) (s : State) (f : ℕ) (h_s : Keeps m s0 s) :
    Keeps m s0 (fetched s f) := by
  unfold fetched
  repeat' first
    | with_reducible assumption
    | with_reducible refine State.set_keeps (landTrans hm (by decide)) _ _ _ _ _ ?_

theorem entryRow_keeps {m : Nat} {s0 : State} (hm : m.land 1075905540 = 1075905540) (f : ℕ) (typ : ℕ) (act : Ent → State → State) (s : State) (h_act : ∀ x0 x1, Keeps m s0 x1 → Keeps m s0 (act x0 x1)) (h_s : Keeps m s0 s) :
    Keeps m s0 (entryRow f typ act s) := by
  unfold entryRow
  repeat' first
    | with_reducible assumption
    | with_reducible refine h_act _ _ ?_
    | with_reducible refine pushCpl_keeps (landTrans hm (by decide)) _ _ _ ?_
    | with_reducible refine fetched_keeps (landTrans hm (by decide)) _ _ ?_
    | with_reducible refine ite_keeps ?_ ?_
    | split

end Sys2Proof.Machine
end

