-- ==== Sys2Proof/Laws/KeepsMailbox.lean ====
section
/-! SUPPORT. What each operation of Mailbox.lean keeps: the canonical form, and the parts of the state that it does not name. -/

namespace Sys2Proof.Machine

theorem mbxTaken_keeps {m : Nat} {s0 : State} (hm : m.land 8813272891396 = 8813272891396) (s : State) (rq : Requester) (op : ℕ) (h_s : Keeps m s0 s) :
    Keeps m s0 (mbxTaken s rq op) := by
  unfold mbxTaken
  repeat' first
    | with_reducible assumption
    | intro _
    | (extract_lets -underBinder +onlyGivenNames x; first
      | (guard_hyp x : State := _; refine (fun (hx : Keeps m s0 x) => ?_) ?_ <;> [clear_value x; subst x])
      | clear_value x)
    | with_reducible refine State.set_keeps (landTrans hm (by decide)) _ _ _ _ _ ?_
    | with_reducible refine State.bump_keeps (landTrans hm (by decide)) _ _ _ _ _ ?_
    | with_reducible refine forEach_keeps (landTrans hm (by decide)) _ _ _ ?_ ?_
    | fail_if_no_progress (with_reducible refine upd_mbx_smbOp (landTrans hm (by decide)) _ _ ?_)

theorem mbxCommand_keeps {m : Nat} {s0 : State} (hm : m.land 8813272891396 = 8813272891396) (s : State) (rq : Requester) (op : ℕ) (check : State → ℕ) (body : State → State) (h_s : Keeps m s0 s) (h_body : ∀ x0, Keeps m s0 x0 → Keeps m s0 (body x0)) :
    Keeps m s0 (mbxCommand s rq op check body) := by
  unfold mbxCommand
  repeat' first
    | with_reducible assumption
    | (extract_lets -underBinder +onlyGivenNames x; first
      | (guard_hyp x : State := _; refine (fun (hx : Keeps m s0 x) => ?_) ?_ <;> [clear_value x; subst x])
      | clear_value x)
    | with_reducible refine h_body _ ?_
    | with_reducible refine mbxTaken_keeps (landTrans hm (by decide)) _ _ _ ?_
    | with_reducible refine State.bumpSat_keeps (landTrans hm (by decide)) _ _ _ _ _ ?_
    | with_reducible refine mbxEnd_keeps (landTrans hm (by decide)) _ _ _ ?_
    | with_reducible refine ite_keeps ?_ ?_

theorem mbxRelease_keeps {m : Nat} {s0 : State} (hm : m.land 4194316 = 4194316) (s : State) (rq : Requester) (h_s : Keeps m s0 s) :
    Keeps m s0 (mbxRelease s rq) := by
  unfold mbxRelease
  repeat' first
    | with_reducible assumption
    | with_reducible refine rewritten_keeps (landTrans hm (by decide)) _ _ ?_
    | with_reducible refine State.set_keeps (landTrans hm (by decide)) _ _ _ _ _ ?_
    | with_reducible refine ite_keeps ?_ ?_

theorem mbxTake_keeps {m : Nat} {s0 : State} (hm : m.land 4194316 = 4194316) (s : State) (rq : Requester) (h_s : Keeps m s0 s) :
    Keeps m s0 (mbxTake s rq) := by
  unfold mbxTake
  repeat' first
    | with_reducible assumption
    | with_reducible refine rewritten_keeps (landTrans hm (by decide)) _ _ ?_
    | with_reducible refine State.set_keeps (landTrans hm (by decide)) _ _ _ _ _ ?_
    | with_reducible refine ite_keeps ?_ ?_

theorem mbxPublish_keeps {m : Nat} {s0 : State} (hm : m.land 18255708164 = 18255708164) (s : State) (h_s : Keeps m s0 s) :
    Keeps m s0 (mbxPublish s) := by
  unfold mbxPublish
  repeat' first
    | with_reducible assumption
    | intro _
    | (extract_lets -underBinder +onlyGivenNames x; guard_hyp x : State := _; refine (fun (hx : Keeps m s0 x) => ?_) ?_ <;> [clear_value x; subst x])
    | with_reducible refine forEach_keeps (landTrans hm (by decide)) _ _ _ ?_ ?_
    | with_reducible refine State.set_keeps (landTrans hm (by decide)) _ _ _ _ _ ?_
    | with_reducible refine raiseMsix_keeps (landTrans hm (by decide)) _ _ _ ?_
    | with_reducible refine emit_keeps (landTrans hm (by decide)) _ _ ?_
    | with_reducible refine ite_keeps ?_ ?_
    | split
    | fail_if_no_progress (with_reducible refine upd_mbx (landTrans hm (by decide)) _ ?_)

theorem execMailboxOperationEnd_keeps {m : Nat} {s0 : State} (hm : m.land 18255708164 = 18255708164) (s : State) (h_s : Keeps m s0 s) :
    KeepsX m s0 (execMailboxOperationEnd s) :=
  next_keeps (mbxPublish_keeps hm _ h_s)

theorem execMbxRelease_keeps {m : Nat} {s0 : State} (hm : m.land 4194316 = 4194316) (rq : Requester) (s : State) (h_s : Keeps m s0 s) :
    KeepsX m s0 (execMbxRelease rq s) :=
  next_keeps (mbxRelease_keeps hm _ _ h_s)

theorem execMbxTake_keeps {m : Nat} {s0 : State} (hm : m.land 4194316 = 4194316) (rq : Requester) (s : State) (h_s : Keeps m s0 s) :
    KeepsX m s0 (execMbxTake rq s) :=
  next_keeps (mbxTake_keeps hm _ _ h_s)

end Sys2Proof.Machine
end

