-- ==== Sys2Proof/Laws/KeepsContexts.lean ====
section
/-! SUPPORT. What each operation of Contexts.lean keeps: the canonical form, and the parts of the state that it does not name. -/

namespace Sys2Proof.Machine

theorem clusterZero_keeps {m : Nat} {s0 : State} (hm : m.land 1024 = 1024) (s : State) (cl : ℕ) (a : ℕ) (n : ℕ) (h_s : Keeps m s0 s) :
    Keeps m s0 (clusterZero s cl a n) := by
  unfold clusterZero
  dsimp only
  repeat' first
    | (intro w; simp only [State.wf, Mems.wf, Bool.and_eq_true] at w; try simp only [Mems.wf, Bool.and_eq_true]
       first | (simp [w.1, w.2, w, wrBytes_wf, wrM_wf, poisonWrite_wf, mapDropRange, mapFilter_wf, mapPut_wf]; done) | (simp at w; simp [w, wrBytes_wf, wrM_wf, poisonWrite_wf, mapDropRange, mapFilter_wf, mapPut_wf]; done))
    | with_reducible assumption
    | fail_if_no_progress (with_reducible refine upd_mems (landTrans hm (by decide)) _ ?_ ?_)

theorem clearSpans_keeps {m : Nat} {s0 : State} (hm : m.land 1024 = 1024) (s : State) (g : ℕ) (h_s : Keeps m s0 s) :
    Keeps m s0 (clearSpans s g) := by
  unfold clearSpans
  repeat' first
    | with_reducible assumption
    | intro _
    | (extract_lets -underBinder +onlyGivenNames x; clear_value x)
    | with_reducible refine forEach_keeps (landTrans hm (by decide)) _ _ _ ?_ ?_
    | with_reducible refine clusterZero_keeps (landTrans hm (by decide)) _ _ _ _ ?_

theorem freeGroup_keeps {m : Nat} {s0 : State} (hm : m.land 42950749188 = 42950749188) (s : State) (g : ℕ) (h_s : Keeps m s0 s) :
    Keeps m s0 (freeGroup s g) := by
  unfold freeGroup
  repeat' first
    | with_reducible assumption
    | intro _
    | (extract_lets -underBinder +onlyGivenNames x; first
      | (guard_hyp x : State := _; refine (fun (hx : Keeps m s0 x) => ?_) ?_ <;> [clear_value x; subst x])
      | clear_value x)
    | with_reducible refine clearSpans_keeps (landTrans hm (by decide)) _ _ ?_
    | with_reducible refine forEach_keeps (landTrans hm (by decide)) _ _ _ ?_ ?_
    | with_reducible refine freeSlot_keeps (landTrans hm (by decide)) _ _ _ ?_
    | with_reducible refine dropReplays_keeps (landTrans hm (by decide)) _ _ ?_
    | with_reducible refine setCtx_keeps (landTrans hm (by decide)) _ _ _ ?_
    | with_reducible refine recount_keeps (landTrans hm (by decide)) _ _ ?_
    | with_reducible refine setGroup_keeps (landTrans hm (by decide)) _ _ _ ?_
    | split
    | fail_if_no_progress (with_reducible refine upd_images (landTrans hm (by decide)) _ ?_)

theorem settleStop_keeps {m : Nat} {s0 : State} (hm : m.land 4 = 4) (s : State) (f : ℕ) (h_s : Keeps m s0 s) :
    Keeps m s0 (settleStop s f) := by
  unfold settleStop
  repeat' first
    | with_reducible assumption
    | (extract_lets -underBinder +onlyGivenNames x; first
      | (guard_hyp x : State := _; refine (fun (hx : Keeps m s0 x) => ?_) ?_ <;> [clear_value x; subst x])
      | clear_value x)
    | with_reducible refine setFnState_keeps (landTrans hm (by decide)) _ _ _ ?_
    | with_reducible refine State.set_keeps (landTrans hm (by decide)) _ _ _ _ _ ?_
    | with_reducible refine ite_keeps ?_ ?_

theorem tenantCreate_keeps {m : Nat} {s0 : State} (hm : m.land 17179869188 = 17179869188) (s : State) (h_s : Keeps m s0 s) :
    Keeps m s0 (tenantCreate s) := by
  unfold tenantCreate
  repeat' first
    | with_reducible assumption
    | (extract_lets -underBinder +onlyGivenNames x; first
      | (guard_hyp x : State := _; refine (fun (hx : Keeps m s0 x) => ?_) ?_ <;> [clear_value x; subst x])
      | clear_value x)
    | with_reducible refine State.set_keeps (landTrans hm (by decide)) _ _ _ _ _ ?_
    | with_reducible refine State.set2_keeps (landTrans hm (by decide)) _ _ _ _ _ _ ?_
    | with_reducible refine mbxEnd_keeps (landTrans hm (by decide)) _ _ _ ?_

theorem execTenantCreate_keeps {m : Nat} {s0 : State} (hm : m.land 8813272891396 = 8813272891396) (rq : Requester) (s : State) (h_s : Keeps m s0 s) :
    KeepsX m s0 (execTenantCreate rq s) := by
  unfold execTenantCreate
  repeat' first
    | with_reducible assumption
    | intro _
    | with_reducible refine mbxCommand_keeps (landTrans hm (by decide)) _ _ _ _ _ ?_ ?_
    | with_reducible refine tenantCreate_keeps (landTrans hm (by decide)) _ ?_
    | with_reducible refine next_keeps ?_

theorem keySet_keeps {m : Nat} {s0 : State} (hm : m.land 17179935748 = 17179935748) (s : State) (h_s : Keeps m s0 s) :
    Keeps m s0 (keySet s) := by
  unfold keySet
  repeat' first
    | with_reducible assumption
    | (extract_lets -underBinder +onlyGivenNames x; first
      | (guard_hyp x : State := _; refine (fun (hx : Keeps m s0 x) => ?_) ?_ <;> [clear_value x; subst x])
      | clear_value x)
    | with_reducible refine devStore_keeps (landTrans hm (by decide)) _ _ _ _ ?_
    | with_reducible refine setFn_keeps (landTrans hm (by decide)) _ _ _ ?_
    | with_reducible refine State.set_keeps (landTrans hm (by decide)) _ _ _ _ _ ?_
    | with_reducible refine mbxEnd_keeps (landTrans hm (by decide)) _ _ _ ?_

theorem execKeySet_keeps {m : Nat} {s0 : State} (hm : m.land 8813272957956 = 8813272957956) (rq : Requester) (s : State) (h_s : Keeps m s0 s) :
    KeepsX m s0 (execKeySet rq s) := by
  unfold execKeySet
  repeat' first
    | with_reducible assumption
    | intro _
    | with_reducible refine mbxCommand_keeps (landTrans hm (by decide)) _ _ _ _ _ ?_ ?_
    | with_reducible refine keySet_keeps (landTrans hm (by decide)) _ ?_
    | with_reducible refine next_keeps ?_

theorem tenantFreeze_keeps {m : Nat} {s0 : State} (hm : m.land 17179944964 = 17179944964) (s : State) (h_s : Keeps m s0 s) :
    Keeps m s0 (tenantFreeze s) := by
  unfold tenantFreeze
  repeat' first
    | with_reducible assumption
    | (extract_lets -underBinder +onlyGivenNames x; clear_value x)
    | with_reducible refine freezeSettle_keeps (landTrans hm (by decide)) _ _ ?_
    | with_reducible refine setFn_keeps (landTrans hm (by decide)) _ _ _ ?_

theorem execTenantFreeze_keeps {m : Nat} {s0 : State} (hm : m.land 8813272967172 = 8813272967172) (rq : Requester) (s : State) (h_s : Keeps m s0 s) :
    KeepsX m s0 (execTenantFreeze rq s) := by
  unfold execTenantFreeze
  repeat' first
    | with_reducible assumption
    | intro _
    | with_reducible refine mbxCommand_keeps (landTrans hm (by decide)) _ _ _ _ _ ?_ ?_
    | with_reducible refine tenantFreeze_keeps (landTrans hm (by decide)) _ ?_
    | with_reducible refine next_keeps ?_

theorem thaw_keeps {m : Nat} {s0 : State} (hm : m.land 73732 = 73732) (s : State) (t : ℕ) (h_s : Keeps m s0 s) :
    Keeps m s0 (thaw s t) := by
  unfold thaw
  repeat' first
    | with_reducible assumption
    | intro _
    | (extract_lets -underBinder +onlyGivenNames x; first
      | (guard_hyp x : State := _; refine (fun (hx : Keeps m s0 x) => ?_) ?_ <;> [clear_value x; subst x])
      | clear_value x)
    | with_reducible refine forEach_keeps (landTrans hm (by decide)) _ _ _ ?_ ?_
    | with_reducible refine setCtx_keeps (landTrans hm (by decide)) _ _ _ ?_
    | with_reducible refine setFn_keeps (landTrans hm (by decide)) _ _ _ ?_
    | with_reducible refine State.set_keeps (landTrans hm (by decide)) _ _ _ _ _ ?_

theorem execTenantThaw_keeps {m : Nat} {s0 : State} (hm : m.land 8813272965124 = 8813272965124) (rq : Requester) (s : State) (h_s : Keeps m s0 s) :
    KeepsX m s0 (execTenantThaw rq s) := by
  unfold execTenantThaw
  repeat' first
    | with_reducible assumption
    | intro _
    | with_reducible refine mbxCommand_keeps (landTrans hm (by decide)) _ _ _ _ _ ?_ ?_
    | with_reducible refine mbxEnd_keeps (landTrans hm (by decide)) _ _ _ ?_
    | with_reducible refine thaw_keeps (landTrans hm (by decide)) _ _ ?_
    | with_reducible refine next_keeps ?_

theorem hostStart_keeps {m : Nat} {s0 : State} (hm : m.land 4 = 4) (s : State) (h_s : Keeps m s0 s) :
    Keeps m s0 (hostStart s) := by
  unfold hostStart
  repeat' first
    | with_reducible assumption
    | intro _
    | with_reducible refine startInDomain_keeps (landTrans hm (by decide)) _ _ _ ?_ ?_
    | with_reducible refine startFn_keeps (landTrans hm (by decide)) _ _ _ ?_

theorem fnStop_keeps {m : Nat} {s0 : State} (hm : m.land 4 = 4) (s : State) (f : ℕ) (h_s : Keeps m s0 s) :
    Keeps m s0 (fnStop s f) := by
  unfold fnStop
  repeat' first
    | with_reducible assumption
    | (extract_lets -underBinder +onlyGivenNames x; clear_value x)
    | with_reducible refine settleStop_keeps (landTrans hm (by decide)) _ _ ?_
    | with_reducible refine setFnState_keeps (landTrans hm (by decide)) _ _ _ ?_
    | with_reducible refine ite_keeps ?_ ?_

theorem hostStop_keeps {m : Nat} {s0 : State} (hm : m.land 4 = 4) (s : State) (h_s : Keeps m s0 s) :
    Keeps m s0 (hostStop s) := by
  unfold hostStop
  repeat' first
    | with_reducible assumption
    | intro _
    | with_reducible refine settleStop_keeps (landTrans hm (by decide)) _ _ ?_
    | with_reducible refine forEach_keeps (landTrans hm (by decide)) _ _ _ ?_ ?_
    | with_reducible refine fnStop_keeps (landTrans hm (by decide)) _ _ ?_
    | with_reducible refine State.set_keeps (landTrans hm (by decide)) _ _ _ _ _ ?_
    | with_reducible refine ite_keeps ?_ ?_

theorem winCommit_keeps {m : Nat} {s0 : State} (hm : m.land 403972 = 403972) (s : State) (h_s : Keeps m s0 s) :
    Keeps m s0 (winCommit s) := by
  unfold winCommit
  repeat' first
    | with_reducible assumption
    | (extract_lets -underBinder +onlyGivenNames x; first
      | (guard_hyp x : State := _; refine (fun (hx : Keeps m s0 x) => ?_) ?_ <;> [clear_value x; subst x])
      | clear_value x)
    | with_reducible refine State.set_keeps (landTrans hm (by decide)) _ _ _ _ _ ?_
    | with_reducible refine deferWin_keeps (landTrans hm (by decide)) _ _ _ ?_
    | with_reducible refine ite_keeps ?_ ?_

theorem winStage_keeps {m : Nat} {s0 : State} (hm : m.land 4 = 4) (s : State) (w : Win) (h_s : Keeps m s0 s) :
    Keeps m s0 (winStage s w) := by
  unfold winStage
  repeat' first
    | with_reducible assumption
    | (extract_lets -underBinder +onlyGivenNames x; first
      | (guard_hyp x : State := _; refine (fun (hx : Keeps m s0 x) => ?_) ?_ <;> [clear_value x; subst x])
      | clear_value x)
    | with_reducible refine State.set_keeps (landTrans hm (by decide)) _ _ _ _ _ ?_
    | with_reducible refine State.set2_keeps (landTrans hm (by decide)) _ _ _ _ _ _ ?_

theorem winRead_keeps {m : Nat} {s0 : State} (hm : m.land 4194316 = 4194316) (s : State) (h_s : Keeps m s0 s) :
    Keeps m s0 (winRead s) := by
  unfold winRead
  repeat' first
    | with_reducible assumption
    | with_reducible refine rewritten_keeps (landTrans hm (by decide)) _ _ ?_
    | with_reducible refine winStage_keeps (landTrans hm (by decide)) _ _ ?_

theorem fnStart_keeps {m : Nat} {s0 : State} (hm : m.land 4 = 4) (s : State) (f : ℕ) (h_s : Keeps m s0 s) :
    Keeps m s0 (fnStart s f) := by
  unfold fnStart
  repeat' first
    | with_reducible assumption
    | intro _
    | (extract_lets -underBinder +onlyGivenNames x; clear_value x)
    | with_reducible refine startInDomain_keeps (landTrans hm (by decide)) _ _ _ ?_ ?_
    | with_reducible refine startFn_keeps (landTrans hm (by decide)) _ _ _ ?_
    | with_reducible refine ite_keeps ?_ ?_

theorem startJob_keeps {m : Nat} {s0 : State} (hm : m.land 24576 = 24576) (s : State) (g : ℕ) (j : Job) (h_s : Keeps m s0 s) :
    Keeps m s0 (startJob s g j) := by
  unfold startJob
  repeat' first
    | with_reducible assumption
    | intro _
    | (extract_lets -underBinder +onlyGivenNames x; first
      | (guard_hyp x : State := _; refine (fun (hx : Keeps m s0 x) => ?_) ?_ <;> [clear_value x; subst x])
      | clear_value x)
    | with_reducible refine setGroup_keeps (landTrans hm (by decide)) _ _ _ ?_
    | with_reducible refine forEach_keeps (landTrans hm (by decide)) _ _ _ ?_ ?_
    | with_reducible refine setCtx_keeps (landTrans hm (by decide)) _ _ _ ?_

theorem submitJob_keeps {m : Nat} {s0 : State} (hm : m.land 24580 = 24580) (s : State) (f : ℕ) (id : ℕ) (j : Job) (h_s : Keeps m s0 s) :
    KeepsE m s0 (submitJob s f id j) := by
  unfold submitJob
  repeat' first
    | with_reducible assumption
    | (extract_lets -underBinder +onlyGivenNames x; clear_value x)
    | with_reducible refine admission_keeps (landTrans hm (by decide)) _ _ _ ?_
    | with_reducible refine setGroup_keeps (landTrans hm (by decide)) _ _ _ ?_
    | with_reducible refine startJob_keeps (landTrans hm (by decide)) _ _ _ ?_
    | with_reducible refine ok_keepsE ?_
    | with_reducible refine err_keepsE ?_
    | split
    | with_reducible refine ofPair2 ‹_ = (_, _)› ?_

theorem clearingEnd_keeps {m : Nat} {s0 : State} (hm : m.land 66564 = 66564) (s : State) (t : ℕ) (h_s : Keeps m s0 s) :
    Keeps m s0 (clearingEnd s t) := by
  unfold clearingEnd
  repeat' first
    | with_reducible assumption
    | intro _
    | (extract_lets -underBinder +onlyGivenNames x; first
      | (guard_hyp x : State := _; refine (fun (hx : Keeps m s0 x) => ?_) ?_ <;> [clear_value x; subst x])
      | clear_value x)
    | with_reducible refine forEach_keeps (landTrans hm (by decide)) _ _ _ ?_ ?_
    | with_reducible refine devZero_keeps (landTrans hm (by decide)) _ _ _ ?_
    | with_reducible refine State.set_keeps (landTrans hm (by decide)) _ _ _ _ _ ?_
    | with_reducible refine setFn_keeps (landTrans hm (by decide)) _ _ _ ?_
    | with_reducible refine ite_keeps ?_ ?_

theorem copyIn_keeps {m : Nat} {s0 : State} (hm : m.land 39730611204 = 39730611204) (f : ℕ) (e : Ent) (s : State) (h_s : Keeps m s0 s) :
    Keeps m s0 (copyIn f e s) := by
  unfold copyIn
  repeat' first
    | with_reducible assumption
    | (extract_lets -underBinder +onlyGivenNames x; first
      | (guard_hyp x : State := _; refine (fun (hx : Keeps m s0 x) => ?_) ?_ <;> [clear_value x; subst x])
      | clear_value x)
    | with_reducible refine homeWrite_keeps (landTrans hm (by decide)) _ _ _ _ ?_
    | with_reducible refine raiseMem_keeps (landTrans hm (by decide)) _ _ _ _ _ _ ?_
    | with_reducible refine pushCpl_keeps (landTrans hm (by decide)) _ _ _ ?_
    | with_reducible refine ite_keeps ?_ ?_

theorem copyOut_keeps {m : Nat} {s0 : State} (hm : m.land 35435643908 = 35435643908) (f : ℕ) (e : Ent) (s : State) (h_s : Keeps m s0 s) :
    Keeps m s0 (copyOut f e s) := by
  unfold copyOut
  repeat' first
    | with_reducible assumption
    | intro _
    | (extract_lets -underBinder +onlyGivenNames x; first
      | (guard_hyp x : State := _; refine (fun (hx : Keeps m s0 x) => ?_) ?_ <;> [clear_value x; subst x])
      | clear_value x)
    | with_reducible refine forEach_keeps (landTrans hm (by decide)) _ _ _ ?_ ?_
    | with_reducible refine hostStore_keeps (landTrans hm (by decide)) _ _ _ _ ?_
    | with_reducible refine poisonSeenDev_keeps (landTrans hm (by decide)) _ _ ?_
    | with_reducible refine raiseMem_keeps (landTrans hm (by decide)) _ _ _ _ _ _ ?_
    | with_reducible refine pushCpl_keeps (landTrans hm (by decide)) _ _ _ ?_
    | with_reducible refine ite_keeps ?_ ?_

theorem endJob_keeps {m : Nat} {s0 : State} (hm : m.land 1210149892 = 1210149892) (s : State) (g : ℕ) (code : ℕ) (use : Demand) (h_s : Keeps m s0 s) :
    Keeps m s0 (endJob s g code use) := by
  unfold endJob
  repeat' first
    | with_reducible assumption
    | intro _
    | (extract_lets -underBinder +onlyGivenNames x; first
      | (guard_hyp x : State := _; refine (fun (hx : Keeps m s0 x) => ?_) ?_ <;> [clear_value x; subst x])
      | clear_value x)
    | with_reducible refine forEach_keeps (landTrans hm (by decide)) _ _ _ ?_ ?_
    | with_reducible refine toIdle_keeps (landTrans hm (by decide)) _ _ ?_
    | with_reducible refine setCtx_keeps (landTrans hm (by decide)) _ _ _ ?_
    | with_reducible refine chargeExcess_keeps (landTrans hm (by decide)) _ _ _ _ ?_
    | with_reducible refine countJob_keeps (landTrans hm (by decide)) _ _ _ ?_
    | with_reducible refine pushCpl_keeps (landTrans hm (by decide)) _ _ _ ?_
    | with_reducible refine setSj_keeps (landTrans hm (by decide)) _ _ _ ?_
    | with_reducible refine setGroup_keeps (landTrans hm (by decide)) _ _ _ ?_
    | with_reducible refine startJob_keeps (landTrans hm (by decide)) _ _ _ ?_
    | with_reducible refine settleStop_keeps (landTrans hm (by decide)) _ _ ?_
    | with_reducible refine ite_keeps ?_ ?_
    | split

theorem execClearingEnd_keeps {m : Nat} {s0 : State} (hm : m.land 66564 = 66564) (t : ℕ) (s : State) (h_s : Keeps m s0 s) :
    KeepsX m s0 (execClearingEnd t s) :=
  next_keeps (clearingEnd_keeps hm _ _ h_s)

theorem noteClash_keeps {m : Nat} {s0 : State} (hm : m.land 4 = 4) (s : State) (n : ℕ) (x : ℕ) (cause : ℕ) (h_s : Keeps m s0 s) :
    Keeps m s0 (noteClash s n x cause) := by
  unfold noteClash
  repeat' first
    | with_reducible assumption
    | with_reducible refine State.set_keeps (landTrans hm (by decide)) _ _ _ _ _ ?_
    | with_reducible refine State.bump_keeps (landTrans hm (by decide)) _ _ _ _ _ ?_

theorem loadSlot_keeps {m : Nat} {s0 : State} (hm : m.land 60131732484 = 60131732484) (s : State) (n : ℕ) (c : ℕ) (b : ℕ) (x : ℕ) (h_s : Keeps m s0 s) :
    Keeps m s0 (loadSlot s n c b x) := by
  unfold loadSlot
  dsimp only
  repeat' first
    | (intro w; simp only [State.wf, Mems.wf, Bool.and_eq_true] at w; try simp only [Mems.wf, Bool.and_eq_true]
       first | (simp [w.1, w.2, w, wrBytes_wf, wrM_wf, poisonWrite_wf, mapDropRange, mapFilter_wf, mapPut_wf]; done) | (simp at w; simp [w, wrBytes_wf, wrM_wf, poisonWrite_wf, mapDropRange, mapFilter_wf, mapPut_wf]; done))
    | with_reducible assumption
    | with_reducible refine setCore_keeps (landTrans hm (by decide)) _ _ _ ?_
    | with_reducible refine setCtx_keeps (landTrans hm (by decide)) _ _ _ ?_
    | with_reducible refine setGroup_keeps (landTrans hm (by decide)) _ _ _ ?_
    | with_reducible refine trace_keeps (landTrans hm (by decide)) _ _ _ _ _ _ _ _ _ ?_
    | with_reducible refine ctxFault_keeps (landTrans hm (by decide)) _ _ _ _ _ _ ?_
    | with_reducible refine ite_keeps ?_ ?_
    | fail_if_no_progress (with_reducible refine upd_mems (landTrans hm (by decide)) _ ?_ ?_)

theorem placeOn_keeps {m : Nat} {s0 : State} (hm : m.land 60131732484 = 60131732484) (s : State) (n : ℕ) (x : ℕ) (evict : Bool) (h_s : Keeps m s0 s) :
    KeepsO m s0 (placeOn s n x evict) := by
  unfold placeOn
  repeat' first
    | with_reducible assumption
    | intro _
    | (extract_lets -underBinder +onlyGivenNames x; first
      | (guard_hyp x : State := _; refine (fun (hx : Keeps m s0 x) => ?_) ?_ <;> [clear_value x; subst x])
      | clear_value x)
    | with_reducible refine forEach_keeps (landTrans hm (by decide)) _ _ _ ?_ ?_
    | with_reducible refine trace_keeps (landTrans hm (by decide)) _ _ _ _ _ _ _ _ _ ?_
    | with_reducible refine leaveSlot_keeps (landTrans hm (by decide)) _ _ _ ?_
    | with_reducible refine loadSlot_keeps (landTrans hm (by decide)) _ _ _ _ _ ?_
    | with_reducible refine some_keeps ?_
    | with_reducible exact none_keeps
    | split

theorem placeFirst_keeps {m : Nat} {s0 : State} (hm : m.land 60131732484 = 60131732484) (s : State) (x : ℕ) (evict : Bool) (r : List ℕ) (h_s : Keeps m s0 s) :
    KeepsO m s0 (placeFirst s x evict r) := by
  induction r generalizing s with
  | nil =>
    unfold placeFirst
    repeat' first
      | with_reducible exact none_keeps
  | cons b t ih =>
    unfold placeFirst
    repeat' first
      | with_reducible assumption
      | with_reducible apply ih
      | with_reducible refine placeOn_keeps (landTrans hm (by decide)) _ _ _ _ ?_
      | with_reducible refine some_keeps ?_
      | with_reducible refine ofSome ‹_ = some _› ?_
      | split

theorem makeResident_keeps {m : Nat} {s0 : State} (hm : m.land 60131732484 = 60131732484) (s : State) (x : ℕ) (core : Option ℕ) (h_s : Keeps m s0 s) :
    Keeps m s0 (makeResident s x core) := by
  unfold makeResident
  repeat' first
    | with_reducible assumption
    | intro _
    | (extract_lets -underBinder +onlyGivenNames x; first
      | (guard_hyp x : State := _; refine (fun (hx : Keeps m s0 x) => ?_) ?_ <;> [clear_value x; subst x])
      | clear_value x)
    | with_reducible refine forEach_keeps (landTrans hm (by decide)) _ _ _ ?_ ?_
    | with_reducible refine noteClash_keeps (landTrans hm (by decide)) _ _ _ _ ?_
    | with_reducible refine placeFirst_keeps (landTrans hm (by decide)) _ _ _ _ ?_
    | with_reducible refine ite_keeps ?_ ?_
    | with_reducible refine getD_keeps ?_ ?_
    | with_reducible refine ofSome ‹_ = some _› ?_
    | split

theorem execContextResident_keeps {m : Nat} {s0 : State} (hm : m.land 60131732484 = 60131732484) (x : Residence) (s : State) (h_s : Keeps m s0 s) :
    KeepsX m s0 (execContextResident x s) :=
  next_keeps (makeResident_keeps hm _ _ _ h_s)

theorem execCopyIn_keeps {m : Nat} {s0 : State} (hm : m.land 39730611204 = 39730611204) (f : ℕ) (s : State) (h_s : Keeps m s0 s) :
    KeepsX m s0 (execCopyIn f s) := by
  unfold execCopyIn
  repeat' first
    | with_reducible assumption
    | intro _
    | with_reducible refine entryRow_keeps (landTrans hm (by decide)) _ _ _ _ ?_ ?_
    | with_reducible refine copyIn_keeps (landTrans hm (by decide)) _ _ _ ?_
    | with_reducible refine next_keeps ?_

theorem execCopyOut_keeps {m : Nat} {s0 : State} (hm : m.land 35435643908 = 35435643908) (f : ℕ) (s : State) (h_s : Keeps m s0 s) :
    KeepsX m s0 (execCopyOut f s) := by
  unfold execCopyOut
  repeat' first
    | with_reducible assumption
    | intro _
    | with_reducible refine entryRow_keeps (landTrans hm (by decide)) _ _ _ _ ?_ ?_
    | with_reducible refine copyOut_keeps (landTrans hm (by decide)) _ _ _ ?_
    | with_reducible refine next_keeps ?_

theorem execFnStart_keeps {m : Nat} {s0 : State} (hm : m.land 4 = 4) (f : ℕ) (s : State) (h_s : Keeps m s0 s) :
    KeepsX m s0 (execFnStart f s) := by
  unfold execFnStart
  repeat' first
    | with_reducible assumption
    | with_reducible refine fnStart_keeps (landTrans hm (by decide)) _ _ ?_
    | with_reducible refine ite_keeps ?_ ?_
    | with_reducible refine next_keeps ?_

theorem execFnStop_keeps {m : Nat} {s0 : State} (hm : m.land 4 = 4) (f : ℕ) (s : State) (h_s : Keeps m s0 s) :
    KeepsX m s0 (execFnStop f s) := by
  unfold execFnStop
  repeat' first
    | with_reducible assumption
    | with_reducible refine fnStop_keeps (landTrans hm (by decide)) _ _ ?_
    | with_reducible refine ite_keeps ?_ ?_
    | with_reducible refine next_keeps ?_

theorem execHostLinkChange_keeps {m : Nat} {s0 : State} (hm : m.land 4 = 4) (up : Bool) (s : State) (h_s : Keeps m s0 s) :
    KeepsX m s0 (execHostLinkChange up s) :=
  next_keeps (State.set_keeps hm _ _ _ _ _ h_s)

theorem execHostStart_keeps {m : Nat} {s0 : State} (hm : m.land 4 = 4) (s : State) (h_s : Keeps m s0 s) :
    KeepsX m s0 (execHostStart s) :=
  next_keeps (hostStart_keeps hm _ h_s)

theorem execHostStop_keeps {m : Nat} {s0 : State} (hm : m.land 4 = 4) (s : State) (h_s : Keeps m s0 s) :
    KeepsX m s0 (execHostStop s) :=
  next_keeps (hostStop_keeps hm _ h_s)

theorem jobEntry_keeps {m : Nat} {s0 : State} (hm : m.land 1075930116 = 1075930116) (f : ℕ) (e : Ent) (s : State) (h_s : Keeps m s0 s) :
    Keeps m s0 (jobEntry f e s) := by
  unfold jobEntry
  repeat' first
    | with_reducible assumption
    | (extract_lets -underBinder +onlyGivenNames x; clear_value x)
    | with_reducible refine submitJob_keeps (landTrans hm (by decide)) _ _ _ _ ?_
    | with_reducible refine pushCpl_keeps (landTrans hm (by decide)) _ _ _ ?_
    | with_reducible refine ofOk ‹_ = Except.ok _› ?_
    | with_reducible refine ofErr ‹_ = Except.error (_, _)› ?_
    | split

theorem execJob_keeps {m : Nat} {s0 : State} (hm : m.land 1075930116 = 1075930116) (f : ℕ) (s : State) (h_s : Keeps m s0 s) :
    KeepsX m s0 (execJob f s) := by
  unfold execJob
  repeat' first
    | with_reducible assumption
    | intro _
    | with_reducible refine entryRow_keeps (landTrans hm (by decide)) _ _ _ _ ?_ ?_
    | with_reducible refine jobEntry_keeps (landTrans hm (by decide)) _ _ _ ?_
    | with_reducible refine next_keeps ?_

theorem jobComplete_keeps {m : Nat} {s0 : State} (hm : m.land 1210149892 = 1210149892) (s : State) (g : ℕ) (use : Demand) (h_s : Keeps m s0 s) :
    Keeps m s0 (jobComplete s g use) := by
  unfold jobComplete
  repeat' first
    | with_reducible assumption
    | (extract_lets -underBinder +onlyGivenNames x; clear_value x)
    | with_reducible refine endJob_keeps (landTrans hm (by decide)) _ _ _ _ ?_
    | with_reducible refine ite_keeps ?_ ?_
    | split

theorem execJobComplete_keeps {m : Nat} {s0 : State} (hm : m.land 1210149892 = 1210149892) (g : ℕ) (arrUse : ℕ) (memUse : ℕ) (fabUse : ℕ) (s : State) (h_s : Keeps m s0 s) :
    KeepsX m s0 (execJobComplete g arrUse memUse fabUse s) :=
  next_keeps (jobComplete_keeps hm _ _ _ h_s)

theorem numVfs_keeps {m : Nat} {s0 : State} (hm : m.land 4 = 4) (s : State) (n : ℕ) (h_s : Keeps m s0 s) :
    Keeps m s0 (numVfs s n) := by
  unfold numVfs
  repeat' first
    | with_reducible assumption
    | intro _
    | (extract_lets -underBinder +onlyGivenNames x; first
      | (guard_hyp x : State := _; refine (fun (hx : Keeps m s0 x) => ?_) ?_ <;> [clear_value x; subst x])
      | clear_value x)
    | with_reducible refine State.set_keeps (landTrans hm (by decide)) _ _ _ _ _ ?_
    | with_reducible refine forEach_keeps (landTrans hm (by decide)) _ _ _ ?_ ?_
    | with_reducible refine setFnState_keeps (landTrans hm (by decide)) _ _ _ ?_
    | with_reducible refine ite_keeps ?_ ?_

theorem execNumvfsWrite_keeps {m : Nat} {s0 : State} (hm : m.land 4 = 4) (numVfs_ : ℕ) (s : State) (h_s : Keeps m s0 s) :
    KeepsX m s0 (execNumvfsWrite numVfs_ s) :=
  next_keeps (numVfs_keeps hm _ _ h_s)

theorem releaseEntry_keeps {m : Nat} {s0 : State} (hm : m.land 44026653700 = 44026653700) (f : ℕ) (e : Ent) (s : State) (h_s : Keeps m s0 s) :
    Keeps m s0 (releaseEntry f e s) := by
  unfold releaseEntry
  repeat' first
    | with_reducible assumption
    | intro _
    | (extract_lets -underBinder +onlyGivenNames x; first
      | (guard_hyp x : State := _; refine (fun (hx : Keeps m s0 x) => ?_) ?_ <;> [clear_value x; subst x])
      | clear_value x)
    | with_reducible refine forEach_keeps (landTrans hm (by decide)) _ _ _ ?_ ?_
    | with_reducible refine freeGroup_keeps (landTrans hm (by decide)) _ _ ?_
    | with_reducible refine pushCpl_keeps (landTrans hm (by decide)) _ _ _ ?_
    | with_reducible refine ite_keeps ?_ ?_

theorem execRelease_keeps {m : Nat} {s0 : State} (hm : m.land 44026653700 = 44026653700) (f : ℕ) (s : State) (h_s : Keeps m s0 s) :
    KeepsX m s0 (execRelease f s) := by
  unfold execRelease
  repeat' first
    | with_reducible assumption
    | intro _
    | with_reducible refine entryRow_keeps (landTrans hm (by decide)) _ _ _ _ ?_ ?_
    | with_reducible refine releaseEntry_keeps (landTrans hm (by decide)) _ _ _ ?_
    | with_reducible refine next_keeps ?_

theorem execWinCommit_keeps {m : Nat} {s0 : State} (hm : m.land 403972 = 403972) (s : State) (h_s : Keeps m s0 s) :
    KeepsX m s0 (execWinCommit s) :=
  next_keeps (winCommit_keeps hm _ h_s)

theorem execWinRead_keeps {m : Nat} {s0 : State} (hm : m.land 4194316 = 4194316) (s : State) (h_s : Keeps m s0 s) :
    KeepsX m s0 (execWinRead s) :=
  next_keeps (winRead_keeps hm _ h_s)

end Sys2Proof.Machine
end

