-- ==== Sys2Proof/Laws/KeepsFsk.lean ====
section
/-! SUPPORT. What each operation of Fsk.lean keeps: the canonical form, and the parts of the state that it does not name. -/

namespace Sys2Proof.Machine

theorem setChan_keeps {m : Nat} {s0 : State} (hm : m.land 16777216 = 16777216) (s : State) (g : ℕ) (i : ℕ) (y : FskCh) (h_s : Keeps m s0 s) :
    Keeps m s0 (setChan s g i y) := by
  unfold setChan
  repeat' first
    | with_reducible assumption
    | (extract_lets -underBinder +onlyGivenNames x; clear_value x)
    | with_reducible refine setFsk_keeps (landTrans hm (by decide)) _ _ _ ?_

theorem sessionBeads_keeps {m : Nat} {s0 : State} (hm : m.land 553649156 = 553649156) (g : ℕ) (r : List ℕ) (r1 : State) (h_r1 : Keeps m s0 r1) :
    KeepsO m s0 (sessionBeads g r r1) := by
  induction r generalizing r1 with
  | nil =>
    unfold sessionBeads
    repeat' first
      | with_reducible assumption
      | with_reducible refine some_keeps ?_
  | cons b t ih =>
    unfold sessionBeads
    repeat' first
      | with_reducible assumption
      | with_reducible apply ih
      | (extract_lets -underBinder +onlyGivenNames x; clear_value x)
      | with_reducible refine newBead_keeps (landTrans hm (by decide)) _ _ _ _ _ _ _ _ _ _ ?_
      | with_reducible refine setChan_keeps (landTrans hm (by decide)) _ _ _ _ ?_
      | with_reducible exact none_keeps
      | split
      | with_reducible refine Keeps2.of (admitStamp_keeps (landTrans hm (by decide)) _ ?_)

theorem freeSessions_keeps {m : Nat} {s0 : State} (hm : m.land 1028 = 1028) (s : State) (g : ℕ) (h_s : Keeps m s0 s) :
    Keeps m s0 (freeSessions s g) := by
  unfold freeSessions
  repeat' first
    | with_reducible assumption
    | intro _
    | (extract_lets -underBinder +onlyGivenNames x; clear_value x)
    | with_reducible refine forEach_keeps (landTrans hm (by decide)) _ _ _ ?_ ?_
    | with_reducible refine freeBead_keeps (landTrans hm (by decide)) _ _ ?_

theorem fskCount_keeps {m : Nat} {s0 : State} (hm : m.land 4 = 4) (s : State) (h_s : Keeps m s0 s) :
    Keeps m s0 (fskCount s) := by
  unfold fskCount
  repeat' first
    | with_reducible assumption
    | with_reducible refine State.set_keeps (landTrans hm (by decide)) _ _ _ _ _ ?_

theorem fskPrepare_keeps {m : Nat} {s0 : State} (hm : m.land 34359738372 = 34359738372) (s : State) (g : ℕ) (h_s : Keeps m s0 s) :
    Keeps m s0 (fskPrepare s g) := by
  unfold fskPrepare
  repeat' first
    | with_reducible assumption
    | intro _
    | (extract_lets -underBinder +onlyGivenNames x; first
      | (guard_hyp x : State := _; refine (fun (hx : Keeps m s0 x) => ?_) ?_ <;> [clear_value x; subst x])
      | clear_value x)
    | with_reducible refine forEach_keeps (landTrans hm (by decide)) _ _ _ ?_ ?_
    | with_reducible refine State.set_keeps (landTrans hm (by decide)) _ _ _ _ _ ?_
    | with_reducible refine raiseMem_keeps (landTrans hm (by decide)) _ _ _ _ _ _ ?_
    | with_reducible refine ite_keeps ?_ ?_

theorem fskSeeded_keeps {m : Nat} {s0 : State} (hm : m.land 16777216 = 16777216) (s : State) (g : ℕ) (x : FskGrp) (h_s : Keeps m s0 s) :
    Keeps m s0 (fskSeeded s g x) := by
  unfold fskSeeded
  exact setFsk_keeps (landTrans hm (by decide)) _ _ _ h_s

theorem fskStart_keeps {m : Nat} {s0 : State} (hm : m.land 34913387524 = 34913387524) (s : State) (g : ℕ) (h_s : Keeps m s0 s) :
    Keeps m s0 (fskStart s g) := by
  unfold fskStart
  repeat' first
    | with_reducible assumption
    | intro _
    | (extract_lets -underBinder +onlyGivenNames x; first
      | (guard_hyp x : State := _; refine (fun (hx : Keeps m s0 x) => ?_) ?_ <;> [clear_value x; subst x])
      | clear_value x)
    | with_reducible refine startInDomain_keeps (landTrans hm (by decide)) _ _ _ ?_ ?_
    | with_reducible refine faultFn_keeps (landTrans hm (by decide)) _ _ _ ?_
    | with_reducible refine State.set_keeps (landTrans hm (by decide)) _ _ _ _ _ ?_
    | with_reducible refine fskPrepare_keeps (landTrans hm (by decide)) _ _ ?_
    | with_reducible refine fskSeeded_keeps (landTrans hm (by decide)) _ _ _ ?_
    | with_reducible refine seeDev_keeps (landTrans hm (by decide)) _ _ _ ?_
    | with_reducible refine sessionBeads_keeps (landTrans hm (by decide)) _ _ _ ?_
    | with_reducible refine setFsk_keeps (landTrans hm (by decide)) _ _ _ ?_
    | with_reducible refine freeSessions_keeps (landTrans hm (by decide)) _ _ ?_
    | with_reducible refine fskCount_keeps (landTrans hm (by decide)) _ ?_
    | with_reducible refine startFn_keeps (landTrans hm (by decide)) _ _ _ ?_
    | with_reducible refine ite_keeps ?_ ?_
    | with_reducible refine ofSome ‹_ = some _› ?_
    | split

theorem fskFault_keeps {m : Nat} {s0 : State} (hm : m.land 16778244 = 16778244) (s : State) (g : ℕ) (code : ℕ) (h_s : Keeps m s0 s) :
    Keeps m s0 (fskFault s g code) := by
  unfold fskFault
  repeat' first
    | with_reducible assumption
    | intro _
    | (extract_lets -underBinder +onlyGivenNames x; first
      | (guard_hyp x : State := _; refine (fun (hx : Keeps m s0 x) => ?_) ?_ <;> [clear_value x; subst x])
      | clear_value x)
    | with_reducible refine forEach_keeps (landTrans hm (by decide)) _ _ _ ?_ ?_
    | with_reducible refine bput_keeps (landTrans hm (by decide)) _ _ _ _ ?_
    | with_reducible refine fskCount_keeps (landTrans hm (by decide)) _ ?_
    | with_reducible refine faultFn_keeps (landTrans hm (by decide)) _ _ _ ?_
    | with_reducible refine setFsk_keeps (landTrans hm (by decide)) _ _ _ ?_

theorem flushChan_keeps {m : Nat} {s0 : State} (hm : m.land 34644952068 = 34644952068) (s : State) (g : ℕ) (i : ℕ) (h_s : Keeps m s0 s) :
    Keeps m s0 (flushChan s g i) := by
  unfold flushChan
  repeat' first
    | with_reducible assumption
    | intro _
    | (extract_lets -underBinder +onlyGivenNames x; first
      | (guard_hyp x : State := _; refine (fun (hx : Keeps m s0 x) => ?_) ?_ <;> [clear_value x; subst x])
      | clear_value x)
    | with_reducible refine fskFault_keeps (landTrans hm (by decide)) _ _ _ ?_
    | with_reducible refine beadPoison_keeps (landTrans hm (by decide)) _ _ ?_
    | with_reducible refine bput_keeps (landTrans hm (by decide)) _ _ _ _ ?_
    | with_reducible refine beadRead_keeps (landTrans hm (by decide)) _ _ ?_
    | with_reducible refine forEach_keeps (landTrans hm (by decide)) _ _ _ ?_ ?_
    | with_reducible refine setChan_keeps (landTrans hm (by decide)) _ _ _ _ ?_
    | with_reducible refine ite_keeps ?_ ?_
    | split

theorem fskDown_keeps {m : Nat} {s0 : State} (hm : m.land 34644952068 = 34644952068) (s : State) (g : ℕ) (h_s : Keeps m s0 s) :
    Keeps m s0 (fskDown s g) := by
  unfold fskDown
  repeat' first
    | with_reducible assumption
    | intro _
    | (extract_lets -underBinder +onlyGivenNames x; first
      | (guard_hyp x : State := _; refine (fun (hx : Keeps m s0 x) => ?_) ?_ <;> [clear_value x; subst x])
      | clear_value x)
    | with_reducible refine forEach_keeps (landTrans hm (by decide)) _ _ _ ?_ ?_
    | with_reducible refine flushChan_keeps (landTrans hm (by decide)) _ _ _ ?_
    | with_reducible refine fskCount_keeps (landTrans hm (by decide)) _ ?_
    | with_reducible refine setFnState_keeps (landTrans hm (by decide)) _ _ _ ?_
    | with_reducible refine setFsk_keeps (landTrans hm (by decide)) _ _ _ ?_
    | with_reducible refine freeSessions_keeps (landTrans hm (by decide)) _ _ ?_
    | with_reducible refine ite_keeps ?_ ?_

theorem fskSettle_keeps {m : Nat} {s0 : State} (hm : m.land 34644952068 = 34644952068) (s : State) (g : ℕ) (h_s : Keeps m s0 s) :
    Keeps m s0 (fskSettle s g) := by
  unfold fskSettle
  repeat' first
    | with_reducible assumption
    | (extract_lets -underBinder +onlyGivenNames x; clear_value x)
    | with_reducible refine fskDown_keeps (landTrans hm (by decide)) _ _ ?_
    | with_reducible refine ite_keeps ?_ ?_

theorem fskStop_keeps {m : Nat} {s0 : State} (hm : m.land 34644952068 = 34644952068) (s : State) (g : ℕ) (h_s : Keeps m s0 s) :
    Keeps m s0 (fskStop s g) := by
  unfold fskStop
  repeat' first
    | with_reducible assumption
    | intro _
    | (extract_lets -underBinder +onlyGivenNames x; first
      | (guard_hyp x : State := _; refine (fun (hx : Keeps m s0 x) => ?_) ?_ <;> [clear_value x; subst x])
      | clear_value x)
    | with_reducible refine forEach_keeps (landTrans hm (by decide)) _ _ _ ?_ ?_
    | with_reducible refine setChan_keeps (landTrans hm (by decide)) _ _ _ _ ?_
    | with_reducible refine fskSettle_keeps (landTrans hm (by decide)) _ _ ?_
    | with_reducible refine fskCount_keeps (landTrans hm (by decide)) _ ?_
    | with_reducible refine setFnState_keeps (landTrans hm (by decide)) _ _ _ ?_
    | with_reducible refine fskDown_keeps (landTrans hm (by decide)) _ _ ?_
    | with_reducible refine ite_keeps ?_ ?_

theorem fskAppend_keeps {m : Nat} {s0 : State} (hm : m.land 34376516612 = 34376516612) (s : State) (g : ℕ) (i : ℕ) (l : Bytes) (h_s : Keeps m s0 s) :
    Keeps m s0 (fskAppend s g i l) := by
  unfold fskAppend
  repeat' first
    | with_reducible assumption
    | (extract_lets -underBinder +onlyGivenNames x; guard_hyp x : State := _; refine (fun (hx : Keeps m s0 x) => ?_) ?_ <;> [clear_value x; subst x])
    | with_reducible refine ringAppend_keeps (landTrans hm (by decide)) _ _ _ _ _ ?_
    | with_reducible refine State.bumpSat_keeps (landTrans hm (by decide)) _ _ _ _ _ ?_
    | with_reducible refine setChan_keeps (landTrans hm (by decide)) _ _ _ _ ?_
    | with_reducible refine ite_keeps ?_ ?_
    | with_reducible refine getD_keeps ?_ ?_

theorem fskCompletion_keeps {m : Nat} {s0 : State} (hm : m.land 34376516612 = 34376516612) (s : State) (g : ℕ) (i : ℕ) (code : ℕ) (user : ℕ) (launch : ℕ) (h_s : Keeps m s0 s) :
    Keeps m s0 (fskCompletion s g i code user launch) := by
  unfold fskCompletion
  repeat' first
    | with_reducible assumption
    | with_reducible refine fskAppend_keeps (landTrans hm (by decide)) _ _ _ _ ?_

theorem cutFrames_keeps {m : Nat} {s0 : State} (hm : m.land 34644952068 = 34644952068) (s : State) (g : ℕ) (h_s : Keeps m s0 s) :
    Keeps m s0 (cutFrames s g) := by
  unfold cutFrames
  repeat' first
    | with_reducible assumption
    | intro _
    | (extract_lets -underBinder +onlyGivenNames x; first
      | (guard_hyp x : State := _; refine (fun (hx : Keeps m s0 x) => ?_) ?_ <;> [clear_value x; subst x])
      | clear_value x)
    | with_reducible refine forEach_keeps (landTrans hm (by decide)) _ _ _ ?_ ?_
    | with_reducible refine setChan_keeps (landTrans hm (by decide)) _ _ _ _ ?_
    | with_reducible refine fskCompletion_keeps (landTrans hm (by decide)) _ _ _ _ _ _ ?_
    | with_reducible refine fskSettle_keeps (landTrans hm (by decide)) _ _ ?_
    | with_reducible refine setFsk_keeps (landTrans hm (by decide)) _ _ _ ?_
    | with_reducible refine ite_keeps ?_ ?_

theorem fskDl_keeps {m : Nat} {s0 : State} (hm : m.land 83886080 = 83886080) (s : State) (g : ℕ) (i : ℕ) (h_s : Keeps m s0 s) :
    Keeps m s0 (fskDl s g i) := by
  unfold fskDl
  repeat' first
    | with_reducible assumption
    | (extract_lets -underBinder +onlyGivenNames x; first
      | (guard_hyp x : State := _; refine (fun (hx : Keeps m s0 x) => ?_) ?_ <;> [clear_value x; subst x])
      | clear_value x)
    | with_reducible refine setChan_keeps (landTrans hm (by decide)) _ _ _ _ ?_
    | with_reducible refine enqueue_keeps (landTrans hm (by decide)) _ _ _ _ ?_
    | with_reducible refine ite_keeps ?_ ?_

theorem execFskDlRelease_keeps {m : Nat} {s0 : State} (hm : m.land 83886080 = 83886080) (g : ℕ) (ch : ℕ) (s : State) (h_s : Keeps m s0 s) :
    KeepsX m s0 (execFskDlRelease g ch s) := by
  unfold execFskDlRelease
  repeat' first
    | with_reducible assumption
    | with_reducible refine fskDl_keeps (landTrans hm (by decide)) _ _ _ ?_
    | with_reducible refine ite_keeps ?_ ?_
    | with_reducible refine next_keeps ?_

theorem execFskGrpStart_keeps {m : Nat} {s0 : State} (hm : m.land 34913387524 = 34913387524) (g : ℕ) (s : State) (h_s : Keeps m s0 s) :
    KeepsX m s0 (execFskGrpStart g s) := by
  unfold execFskGrpStart
  repeat' first
    | with_reducible assumption
    | with_reducible refine fskStart_keeps (landTrans hm (by decide)) _ _ ?_
    | with_reducible refine ite_keeps ?_ ?_
    | with_reducible refine next_keeps ?_

theorem execFskGrpStop_keeps {m : Nat} {s0 : State} (hm : m.land 34644952068 = 34644952068) (g : ℕ) (s : State) (h_s : Keeps m s0 s) :
    KeepsX m s0 (execFskGrpStop g s) := by
  unfold execFskGrpStop
  repeat' first
    | with_reducible assumption
    | with_reducible refine fskStop_keeps (landTrans hm (by decide)) _ _ ?_
    | with_reducible refine ite_keeps ?_ ?_
    | with_reducible refine next_keeps ?_

theorem noteMask_keeps {m : Nat} {s0 : State} (hm : m.land 16777220 = 16777220) (s : State) (g : ℕ) (h_s : Keeps m s0 s) :
    Keeps m s0 (noteMask s g) := by
  unfold noteMask
  repeat' first
    | with_reducible assumption
    | intro _
    | (extract_lets -underBinder +onlyGivenNames x; clear_value x)
    | with_reducible refine forEach_keeps (landTrans hm (by decide)) _ _ _ ?_ ?_
    | with_reducible refine State.set_keeps (landTrans hm (by decide)) _ _ _ _ _ ?_
    | with_reducible refine State.bumpSat_keeps (landTrans hm (by decide)) _ _ _ _ _ ?_
    | with_reducible refine setChan_keeps (landTrans hm (by decide)) _ _ _ _ ?_
    | with_reducible refine ite_keeps ?_ ?_

theorem takeTx_keeps {m : Nat} {s0 : State} (hm : m.land 34376516612 = 34376516612) (g : ℕ) (bound : ℕ) (r : ℕ) (r1 : State) (h_r1 : Keeps m s0 r1) :
    Keeps m s0 (takeTx g bound r r1) := by
  induction r generalizing r1 with
  | zero =>
    unfold takeTx
    repeat' first
      | with_reducible assumption
  | succ k ih =>
    unfold takeTx
    repeat' first
      | with_reducible assumption
      | with_reducible apply ih
      | (extract_lets -underBinder +onlyGivenNames x; first
        | (guard_hyp x : State := _; refine (fun (hx : Keeps m s0 x) => ?_) ?_ <;> [clear_value x; subst x])
        | clear_value x)
      | with_reducible refine setFnCode_keeps (landTrans hm (by decide)) _ _ _ ?_
      | with_reducible refine ringRaise_keeps (landTrans hm (by decide)) _ _ _ _ _ _ ?_
      | with_reducible refine hubSee_keeps (landTrans hm (by decide)) _ _ _ _ ?_
      | with_reducible refine hubStore_keeps (landTrans hm (by decide)) _ _ _ _ ?_
      | with_reducible refine fskCompletion_keeps (landTrans hm (by decide)) _ _ _ _ _ _ ?_
      | with_reducible refine setChan_keeps (landTrans hm (by decide)) _ _ _ _ ?_
      | with_reducible refine ite_keeps ?_ ?_

theorem fskFeed_keeps {m : Nat} {s0 : State} (hm : m.land 16777216 = 16777216) (k : ℕ) (g : ℕ) (s : State) (i : ℕ) (h_s : Keeps m s0 s) :
    Keeps m s0 (fskFeed k g s i) := by
  unfold fskFeed
  repeat' first
    | with_reducible assumption
    | (extract_lets -underBinder +onlyGivenNames x; clear_value x)
    | with_reducible refine setChan_keeps (landTrans hm (by decide)) _ _ _ _ ?_

theorem fskInterval_keeps {m : Nat} {s0 : State} (hm : m.land 34644952068 = 34644952068) (s : State) (g : ℕ) (h_s : Keeps m s0 s) :
    Keeps m s0 (fskInterval s g) := by
  unfold fskInterval
  repeat' first
    | with_reducible assumption
    | intro _
    | (extract_lets -underBinder +onlyGivenNames x; first
      | (guard_hyp x : State := _; refine (fun (hx : Keeps m s0 x) => ?_) ?_ <;> [clear_value x; subst x])
      | clear_value x)
    | with_reducible refine noteMask_keeps (landTrans hm (by decide)) _ _ ?_
    | with_reducible refine cutFrames_keeps (landTrans hm (by decide)) _ _ ?_
    | with_reducible refine setFsk_keeps (landTrans hm (by decide)) _ _ _ ?_
    | with_reducible refine takeTx_keeps (landTrans hm (by decide)) _ _ _ _ ?_
    | with_reducible refine forEach_keeps (landTrans hm (by decide)) _ _ _ ?_ ?_
    | with_reducible refine fskFeed_keeps (landTrans hm (by decide)) _ _ _ _ ?_
    | with_reducible refine ite_keeps ?_ ?_

theorem execFskInterval_keeps {m : Nat} {s0 : State} (hm : m.land 34644952068 = 34644952068) (g : ℕ) (s : State) (h_s : Keeps m s0 s) :
    KeepsX m s0 (execFskInterval g s) := by
  unfold execFskInterval
  repeat' first
    | with_reducible assumption
    | with_reducible refine fskInterval_keeps (landTrans hm (by decide)) _ _ ?_
    | with_reducible refine ite_keeps ?_ ?_
    | with_reducible refine next_keeps ?_

theorem fskLaunch_keeps {m : Nat} {s0 : State} (hm : m.land 16777216 = 16777216) (s : State) (g : ℕ) (i : ℕ) (h_s : Keeps m s0 s) :
    Keeps m s0 (fskLaunch s g i) := by
  unfold fskLaunch
  repeat' first
    | with_reducible assumption
    | (extract_lets -underBinder +onlyGivenNames x; clear_value x)
    | with_reducible refine setChan_keeps (landTrans hm (by decide)) _ _ _ _ ?_
    | with_reducible refine ite_keeps ?_ ?_
    | split

theorem execFskLaunch_keeps {m : Nat} {s0 : State} (hm : m.land 16777216 = 16777216) (g : ℕ) (ch : ℕ) (s : State) (h_s : Keeps m s0 s) :
    KeepsX m s0 (execFskLaunch g ch s) := by
  unfold execFskLaunch
  repeat' first
    | with_reducible assumption
    | with_reducible refine fskLaunch_keeps (landTrans hm (by decide)) _ _ _ ?_
    | with_reducible refine ite_keeps ?_ ?_
    | with_reducible refine next_keeps ?_

theorem fskRecord_keeps {m : Nat} {s0 : State} (hm : m.land 34376516612 = 34376516612) (s : State) (g : ℕ) (i : ℕ) (h_s : Keeps m s0 s) :
    Keeps m s0 (fskRecord s g i) := by
  unfold fskRecord
  repeat' first
    | with_reducible assumption
    | (extract_lets -underBinder +onlyGivenNames x; clear_value x)
    | with_reducible refine fskAppend_keeps (landTrans hm (by decide)) _ _ _ _ ?_
    | with_reducible refine setChan_keeps (landTrans hm (by decide)) _ _ _ _ ?_
    | with_reducible refine ite_keeps ?_ ?_
    | split

theorem execFskRxRecord_keeps {m : Nat} {s0 : State} (hm : m.land 34376516612 = 34376516612) (g : ℕ) (ch : ℕ) (s : State) (h_s : Keeps m s0 s) :
    KeepsX m s0 (execFskRxRecord g ch s) := by
  unfold execFskRxRecord
  repeat' first
    | with_reducible assumption
    | with_reducible refine fskRecord_keeps (landTrans hm (by decide)) _ _ _ ?_
    | with_reducible refine ite_keeps ?_ ?_
    | with_reducible refine next_keeps ?_

theorem frameEnd_keeps {m : Nat} {s0 : State} (hm : m.land 34644952068 = 34644952068) (s : State) (g : ℕ) (i : ℕ) (y : FskCh) (r : Bool × Bool × Bool × Bytes × Bool × ℕ) (h_s : Keeps m s0 s) :
    Keeps m s0 (frameEnd s g i y r) := by
  unfold frameEnd
  repeat' first
    | with_reducible assumption
    | with_reducible refine State.bumpSat_keeps (landTrans hm (by decide)) _ _ _ _ _ ?_
    | with_reducible refine flushChan_keeps (landTrans hm (by decide)) _ _ _ ?_
    | with_reducible refine setChan_keeps (landTrans hm (by decide)) _ _ _ _ ?_
    | with_reducible refine ite_keeps ?_ ?_

theorem seek_keeps {m : Nat} {s0 : State} (hm : m.land 16777220 = 16777220) (s : State) (g : ℕ) (i : ℕ) (y : FskCh) (e : ℕ) (o : ℤ) (h_s : Keeps m s0 s) :
    Keeps m s0 (seek s g i y e o) := by
  unfold seek
  repeat' first
    | with_reducible assumption
    | intro _
    | (extract_lets -underBinder +onlyGivenNames x; first
      | (guard_hyp x : State → State := _; refine (fun (hf : ∀ t, Keeps m s0 t → Keeps m s0 (x t)) => ?_) ?_ <;> [clear_value x; subst x])
      | clear_value x)
    | with_reducible apply hf
    | with_reducible refine State.bumpSat_keeps (landTrans hm (by decide)) _ _ _ _ _ ?_
    | with_reducible refine setChan_keeps (landTrans hm (by decide)) _ _ _ _ ?_
    | with_reducible refine ite_keeps ?_ ?_
    | split

theorem fskSymbol_keeps {m : Nat} {s0 : State} (hm : m.land 34644952068 = 34644952068) (s : State) (g : ℕ) (i : ℕ) (h_s : Keeps m s0 s) :
    Keeps m s0 (fskSymbol s g i) := by
  unfold fskSymbol
  repeat' first
    | with_reducible assumption
    | (extract_lets -underBinder +onlyGivenNames x; clear_value x)
    | with_reducible refine frameEnd_keeps (landTrans hm (by decide)) _ _ _ _ _ ?_
    | with_reducible refine setChan_keeps (landTrans hm (by decide)) _ _ _ _ ?_
    | with_reducible refine seek_keeps (landTrans hm (by decide)) _ _ _ _ _ _ ?_
    | with_reducible refine ite_keeps ?_ ?_
    | split

theorem execFskSymbol_keeps {m : Nat} {s0 : State} (hm : m.land 34644952068 = 34644952068) (g : ℕ) (ch : ℕ) (s : State) (h_s : Keeps m s0 s) :
    KeepsX m s0 (execFskSymbol g ch s) := by
  unfold execFskSymbol
  repeat' first
    | with_reducible assumption
    | with_reducible refine fskSymbol_keeps (landTrans hm (by decide)) _ _ _ ?_
    | with_reducible refine ite_keeps ?_ ?_
    | with_reducible refine next_keeps ?_

theorem fskTxEnd_keeps {m : Nat} {s0 : State} (hm : m.land 34644952068 = 34644952068) (s : State) (g : ℕ) (i : ℕ) (h_s : Keeps m s0 s) :
    Keeps m s0 (fskTxEnd s g i) := by
  unfold fskTxEnd
  repeat' first
    | with_reducible assumption
    | (extract_lets -underBinder +onlyGivenNames x; first
      | (guard_hyp x : State := _; refine (fun (hx : Keeps m s0 x) => ?_) ?_ <;> [clear_value x; subst x])
      | clear_value x)
    | with_reducible refine State.bumpSat_keeps (landTrans hm (by decide)) _ _ _ _ _ ?_
    | with_reducible refine fskCompletion_keeps (landTrans hm (by decide)) _ _ _ _ _ _ ?_
    | with_reducible refine setChan_keeps (landTrans hm (by decide)) _ _ _ _ ?_
    | with_reducible refine fskSettle_keeps (landTrans hm (by decide)) _ _ ?_
    | with_reducible refine flushChan_keeps (landTrans hm (by decide)) _ _ _ ?_
    | with_reducible refine ite_keeps ?_ ?_
    | split

theorem execFskTxEnd_keeps {m : Nat} {s0 : State} (hm : m.land 34644952068 = 34644952068) (g : ℕ) (ch : ℕ) (s : State) (h_s : Keeps m s0 s) :
    KeepsX m s0 (execFskTxEnd g ch s) := by
  unfold execFskTxEnd
  repeat' first
    | with_reducible assumption
    | with_reducible refine fskTxEnd_keeps (landTrans hm (by decide)) _ _ _ ?_
    | with_reducible refine ite_keeps ?_ ?_
    | with_reducible refine next_keeps ?_

theorem stageTimeout_keeps {m : Nat} {s0 : State} (hm : m.land 16777216 = 16777216) (s : State) (g : ℕ) (i : ℕ) (stage : ℕ) (h_s : Keeps m s0 s) :
    Keeps m s0 (stageTimeout s g i stage) := by
  unfold stageTimeout
  repeat' first
    | with_reducible assumption
    | (extract_lets -underBinder +onlyGivenNames x; clear_value x)
    | with_reducible refine setChan_keeps (landTrans hm (by decide)) _ _ _ _ ?_
    | with_reducible refine ite_keeps ?_ ?_

theorem execPreTimeout_keeps {m : Nat} {s0 : State} (hm : m.land 16777216 = 16777216) (g : ℕ) (ch : ℕ) (s : State) (h_s : Keeps m s0 s) :
    KeepsX m s0 (execPreTimeout g ch s) := by
  unfold execPreTimeout
  repeat' first
    | with_reducible assumption
    | with_reducible refine stageTimeout_keeps (landTrans hm (by decide)) _ _ _ _ ?_
    | with_reducible refine ite_keeps ?_ ?_
    | with_reducible refine next_keeps ?_

theorem execSfdTimeout_keeps {m : Nat} {s0 : State} (hm : m.land 16777216 = 16777216) (g : ℕ) (ch : ℕ) (s : State) (h_s : Keeps m s0 s) :
    KeepsX m s0 (execSfdTimeout g ch s) := by
  unfold execSfdTimeout
  repeat' first
    | with_reducible assumption
    | with_reducible refine stageTimeout_keeps (landTrans hm (by decide)) _ _ _ _ ?_
    | with_reducible refine ite_keeps ?_ ?_
    | with_reducible refine next_keeps ?_

end Sys2Proof.Machine
end

