-- ==== Sys2Proof/Laws/KeepsHallmark.lean ====
section
/-! SUPPORT. What each operation of Hallmark.lean keeps: the canonical form, and the parts of the state that it does not name. -/

namespace Sys2Proof.Machine

theorem reloadBody_keeps {m : Nat} {s0 : State} (hm : m.land 2048 = 2048) (s : State) (h_s : Keeps m s0 s) :
    Keeps m s0 (reloadBody s) := by
  unfold reloadBody
  repeat' first
    | with_reducible assumption
    | (extract_lets -underBinder +onlyGivenNames x; clear_value x)
    | with_reducible refine setCore_keeps (landTrans hm (by decide)) _ _ _ ?_

theorem execImageReload_keeps {m : Nat} {s0 : State} (hm : m.land 8813272893444 = 8813272893444) (rq : Requester) (s : State) (h_s : Keeps m s0 s) :
    KeepsX m s0 (execImageReload rq s) := by
  unfold execImageReload
  repeat' first
    | with_reducible assumption
    | intro _
    | with_reducible refine mbxCommand_keeps (landTrans hm (by decide)) _ _ _ _ _ ?_ ?_
    | with_reducible refine reloadBody_keeps (landTrans hm (by decide)) _ ?_
    | with_reducible refine next_keeps ?_

theorem storeImage_keeps {m : Nat} {s0 : State} (hm : m.land 1049600 = 1049600) (s : State) (g : Img) (h_s : Keeps m s0 s) :
    Keeps2 m s0 (storeImage s g) := by
  unfold storeImage
  repeat' first
    | with_reducible assumption
    | (extract_lets -underBinder +onlyGivenNames x; first
      | (guard_hyp x : State := _; refine (fun (hx : Keeps m s0 x) => ?_) ?_ <;> [clear_value x; subst x])
      | clear_value x)
    | with_reducible refine devStore_keeps (landTrans hm (by decide)) _ _ _ _ ?_
    | with_reducible refine pair2 ?_
    | fail_if_no_progress (with_reducible refine upd_images (landTrans hm (by decide)) _ ?_)

theorem defineCtx_keeps {m : Nat} {s0 : State} (hm : m.land 1057792 = 1057792) (f g : ℕ) (s : State) (p : ℕ × Img × ℕ) (h_s : Keeps m s0 s) :
    Keeps m s0 (defineCtx f g s p) := by
  unfold defineCtx
  repeat' first
    | with_reducible assumption
    | (extract_lets -underBinder +onlyGivenNames x; first
      | (guard_hyp x : ℕ × State := _; refine (fun (hx : Keeps2 m s0 x) => ?_) ?_ <;> [clear_value x; subst x])
      | clear_value x)
    | with_reducible refine storeImage_keeps (landTrans hm (by decide)) _ _ ?_
    | with_reducible refine setCtx_keeps (landTrans hm (by decide)) _ _ _ ?_
    | with_reducible exact Keeps2.of ‹_›

theorem defineGroup_keeps {m : Nat} {s0 : State} (hm : m.land 1106948 = 1106948) (s : State) (f : ℕ) (shares : List Img) (h_s : Keeps m s0 s) :
    Keeps m s0 (defineGroup s f shares) := by
  unfold defineGroup
  repeat' first
    | with_reducible assumption
    | intro _
    | (extract_lets -underBinder +onlyGivenNames x; first
      | (guard_hyp x : State := _; refine (fun (hx : Keeps m s0 x) => ?_) ?_ <;> [clear_value x; subst x])
      | (guard_hyp x : ℕ × State := _; refine (fun (hx : Keeps2 m s0 x) => ?_) ?_ <;> [clear_value x; subst x])
      | clear_value x)
    | with_reducible refine forEach_keeps (landTrans hm (by decide)) _ _ _ ?_ ?_
    | with_reducible refine defineCtx_keeps (landTrans hm (by decide)) _ _ _ _ ?_
    | with_reducible refine setGroup_keeps (landTrans hm (by decide)) _ _ _ ?_
    | with_reducible refine recount_keeps (landTrans hm (by decide)) _ _ ?_
    | with_reducible exact Keeps2.of ‹_›
    | fail_if_no_progress (with_reducible refine upd_serial (landTrans hm (by decide)) _ ?_)

theorem loadBytes_keeps {m : Nat} {s0 : State} (hm : m.land 1106948 = 1106948) (s : State) (f : ℕ) (b : Bytes) (h_s : Keeps m s0 s) :
    Keeps22 m s0 (loadBytes s f b) := by
  unfold loadBytes
  repeat' first
    | with_reducible assumption
    | intro _
    | (extract_lets -underBinder +onlyGivenNames x; first
      | (guard_hyp x : State := _; refine (fun (hx : Keeps m s0 x) => ?_) ?_ <;> [clear_value x; subst x])
      | clear_value x)
    | with_reducible refine forEach_keeps (landTrans hm (by decide)) _ _ _ ?_ ?_
    | with_reducible refine defineGroup_keeps (landTrans hm (by decide)) _ _ _ ?_
    | split
    | with_reducible refine pair22 ?_
    | with_reducible refine Keeps2.of (devWrite_keeps (landTrans hm (by decide)) _ _ _ _ ?_)

theorem loadDirect_keeps {m : Nat} {s0 : State} (hm : m.land 35184373195780 = 35184373195780) (s : State) (b : Bytes) (h_s : Keeps m s0 s) :
    Keeps2 m s0 (loadDirect s b) := by
  unfold loadDirect
  repeat' first
    | with_reducible assumption
    | (extract_lets -underBinder +onlyGivenNames x; first
      | (guard_hyp x : State := _; refine (fun (hx : Keeps m s0 x) => ?_) ?_ <;> [clear_value x; subst x])
      | (guard_hyp x : Bool × Bytes × State := _; refine (fun (hx : Keeps22 m s0 x) => ?_) ?_ <;> [clear_value x; subst x]))
    | with_reducible refine loadBytes_keeps (landTrans hm (by decide)) _ _ _ ?_
    | with_reducible refine pair2 ?_
    | with_reducible exact Keeps22.of ‹_›
    | fail_if_no_progress (with_reducible refine upd_fwResults (landTrans hm (by decide)) _ ?_)

theorem bankSwitch_keeps {m : Nat} {s0 : State} (hm : m.land 10240 = 10240) (s : State) (n : ℕ) (c : ℕ) (h_s : Keeps m s0 s) :
    Keeps m s0 (bankSwitch s n c) := by
  unfold bankSwitch
  repeat' first
    | with_reducible assumption
    | (extract_lets -underBinder +onlyGivenNames x; first
      | (guard_hyp x : State := _; refine (fun (hx : Keeps m s0 x) => ?_) ?_ <;> [clear_value x; subst x])
      | clear_value x)
    | with_reducible refine setCtx_keeps (landTrans hm (by decide)) _ _ _ ?_
    | with_reducible refine setCore_keeps (landTrans hm (by decide)) _ _ _ ?_
    | with_reducible refine ite_keeps ?_ ?_
    | split

theorem submitImage_keeps {m : Nat} {s0 : State} (hm : m.land 1077011460 = 1077011460) (f : ℕ) (e : Ent) (s : State) (h_s : Keeps m s0 s) :
    Keeps m s0 (submitImage f e s) := by
  unfold submitImage
  repeat' first
    | with_reducible assumption
    | (extract_lets -underBinder +onlyGivenNames x; guard_hyp x : Bool × Bytes × State := _; refine (fun (hx : Keeps22 m s0 x) => ?_) ?_ <;> [clear_value x; subst x])
    | with_reducible refine pushResult_keeps (landTrans hm (by decide)) _ _ _ ?_
    | with_reducible refine loadBytes_keeps (landTrans hm (by decide)) _ _ _ ?_
    | split
    | with_reducible exact Keeps22.of ‹_›

theorem execImage_keeps {m : Nat} {s0 : State} (hm : m.land 1077011460 = 1077011460) (f : ℕ) (s : State) (h_s : Keeps m s0 s) :
    KeepsX m s0 (execImage f s) := by
  unfold execImage
  repeat' first
    | with_reducible assumption
    | intro _
    | with_reducible refine entryRow_keeps (landTrans hm (by decide)) _ _ _ _ ?_ ?_
    | with_reducible refine submitImage_keeps (landTrans hm (by decide)) _ _ _ ?_
    | with_reducible refine next_keeps ?_

theorem execReloadBankSwitch_keeps {m : Nat} {s0 : State} (hm : m.land 10240 = 10240) (n : ℕ) (c : ℕ) (s : State) (h_s : Keeps m s0 s) :
    KeepsX m s0 (execReloadBankSwitch n c s) :=
  next_keeps (bankSwitch_keeps hm _ _ _ h_s)

end Sys2Proof.Machine
end

