-- ==== Sys2Proof/Laws/KeepsServing.lean ====
section
/-! SUPPORT. What each operation of Serving.lean keeps: the canonical form, and the parts of the state that it does not name. -/

namespace Sys2Proof.Machine

theorem SjR.andThen_keeps {m : Nat} {s0 : State} (hm : m.land 0 = 0) (r : SjR) (f : State → SjR) (h_r : Keeps1 m s0 r) (h_f : ∀ x0, Keeps m s0 x0 → Keeps1 m s0 (f x0)) :
    Keeps1 m s0 (SjR.andThen r f) := by
  unfold SjR.andThen
  repeat' first
    | with_reducible assumption
    | with_reducible refine h_f _ ?_
    | split
    | with_reducible exact Keeps1.of ‹_›

theorem sjRead_keeps {m : Nat} {s0 : State} (hm : m.land 4 = 4) (j : ℕ) (o : ℕ) (n : ℕ) (f : Bytes → State → SjR) (s : State) (h_f : ∀ x0 x1, Keeps m s0 x1 → Keeps1 m s0 (f x0 x1)) (h_s : Keeps m s0 s) :
    Keeps1 m s0 (sjRead j o n f s) := by
  unfold sjRead
  repeat' first
    | with_reducible assumption
    | (extract_lets -underBinder +onlyGivenNames x; clear_value x)
    | with_reducible refine h_f _ _ ?_
    | with_reducible refine poisonSeenDev_keeps (landTrans hm (by decide)) _ _ ?_
    | with_reducible refine ite_keeps1 ?_ ?_
    | split
    | with_reducible refine pair1 ?_

theorem walkPages_keeps {m : Nat} {s0 : State} (hm : m.land 4 = 4) (j : ℕ) (f : List ℕ → State → SjR) (r : ℕ) (r1 : ℕ) (r11 : List ℕ) (r111 : State) (h_f : ∀ x0 x1, Keeps m s0 x1 → Keeps1 m s0 (f x0 x1)) (h_r111 : Keeps m s0 r111) :
    Keeps1 m s0 (walkPages j f r r1 r11 r111) := by
  induction r generalizing r1 r11 r111 with
  | zero =>
    unfold walkPages
    repeat' first
      | with_reducible assumption
      | with_reducible refine h_f _ _ ?_
  | succ k ih =>
    unfold walkPages
    repeat' first
      | with_reducible assumption
      | with_reducible apply ih
      | intro _
      | with_reducible refine h_f _ _ ?_
      | with_reducible refine sjRead_keeps (landTrans hm (by decide)) _ _ _ _ _ ?_ ?_
      | with_reducible refine ite_keeps1 ?_ ?_

theorem withPages_keeps {m : Nat} {s0 : State} (hm : m.land 4 = 4) (j : ℕ) (i : ℕ) (f : List ℕ → State → SjR) (s : State) (h_f : ∀ x0 x1, Keeps m s0 x1 → Keeps1 m s0 (f x0 x1)) (h_s : Keeps m s0 s) :
    Keeps1 m s0 (withPages j i f s) := by
  unfold withPages
  repeat' first
    | with_reducible assumption
    | with_reducible refine walkPages_keeps (landTrans hm (by decide)) _ _ _ _ _ _ ?_ ?_

theorem markPages_keeps {m : Nat} {s0 : State} (hm : m.land 134217728 = 134217728) (s : State) (j : ℕ) (l : List ℕ) (v : Bool) (h_s : Keeps m s0 s) :
    Keeps m s0 (markPages s j l v) := by
  unfold markPages
  repeat' first
    | with_reducible assumption
    | (extract_lets -underBinder +onlyGivenNames x; clear_value x)
    | with_reducible refine setSj_keeps (landTrans hm (by decide)) _ _ _ ?_

theorem dropBead_keeps {m : Nat} {s0 : State} (hm : m.land 134218756 = 134218756) (s : State) (i : ℕ) (h_s : Keeps m s0 s) :
    Keeps m s0 (dropBead s i) := by
  unfold dropBead
  repeat' first
    | with_reducible assumption
    | intro _
    | (extract_lets -underBinder +onlyGivenNames x; clear_value x)
    | with_reducible refine freeBead_keeps (landTrans hm (by decide)) _ _ ?_
    | with_reducible refine markPages_keeps (landTrans hm (by decide)) _ _ _ _ ?_
    | with_reducible refine pair1 ?_
    | with_reducible refine Keeps1.of (withPages_keeps (landTrans hm (by decide)) _ _ _ _ ?_ ?_)

theorem sjPublish_keeps {m : Nat} {s0 : State} (hm : m.land 4 = 4) (s : State) (j : ℕ) (h_s : Keeps m s0 s) :
    Keeps m s0 (sjPublish s j) := by
  unfold sjPublish
  repeat' first
    | with_reducible assumption
    | (extract_lets -underBinder +onlyGivenNames x; first
      | (guard_hyp x : State := _; refine (fun (hx : Keeps m s0 x) => ?_) ?_ <;> [clear_value x; subst x])
      | clear_value x)
    | with_reducible refine State.set_keeps (landTrans hm (by decide)) _ _ _ _ _ ?_

theorem sjClear_keeps {m : Nat} {s0 : State} (hm : m.land 17314087940 = 17314087940) (s : State) (j : ℕ) (h_s : Keeps m s0 s) :
    Keeps m s0 (sjClear s j) := by
  unfold sjClear
  repeat' first
    | with_reducible assumption
    | (extract_lets -underBinder +onlyGivenNames x; first
      | (guard_hyp x : State := _; refine (fun (hx : Keeps m s0 x) => ?_) ?_ <;> [clear_value x; subst x])
      | clear_value x)
    | with_reducible refine mbxEnd_keeps (landTrans hm (by decide)) _ _ _ ?_
    | with_reducible refine freeBead_keeps (landTrans hm (by decide)) _ _ ?_
    | with_reducible refine setFnState_keeps (landTrans hm (by decide)) _ _ _ ?_
    | with_reducible refine sjPublish_keeps (landTrans hm (by decide)) _ _ ?_
    | with_reducible refine State.set_keeps (landTrans hm (by decide)) _ _ _ _ _ ?_
    | with_reducible refine setSj_keeps (landTrans hm (by decide)) _ _ _ ?_
    | with_reducible refine ite_keeps ?_ ?_
    | split

theorem sjWrite_keeps {m : Nat} {s0 : State} (hm : m.land 39728448516 = 39728448516) (j : ℕ) (o : ℕ) (l : Bytes) (s : State) (h_s : Keeps m s0 s) :
    Keeps1 m s0 (sjWrite j o l s) := by
  unfold sjWrite
  repeat' first
    | with_reducible assumption
    | (extract_lets -underBinder +onlyGivenNames x; clear_value x)
    | with_reducible refine homeWrite_keeps (landTrans hm (by decide)) _ _ _ _ ?_
    | with_reducible refine ite_keeps1 ?_ ?_
    | with_reducible refine pair1 ?_

theorem evtDrain_keeps {m : Nat} {s0 : State} (hm : m.land 39864763396 = 39864763396) (j : ℕ) (r : ℕ) (r1 : State) (h_r1 : Keeps m s0 r1) :
    Keeps1 m s0 (evtDrain j r r1) := by
  induction r generalizing r1 with
  | zero =>
    unfold evtDrain
    repeat' first
      | with_reducible assumption
      | with_reducible refine pair1 ?_
  | succ k ih =>
    unfold evtDrain
    repeat' first
      | with_reducible assumption
      | with_reducible apply ih
      | intro _
      | (extract_lets -underBinder +onlyGivenNames x; clear_value x)
      | with_reducible refine sjRead_keeps (landTrans hm (by decide)) _ _ _ _ _ ?_ ?_
      | with_reducible refine SjR.andThen_keeps (landTrans hm (by decide)) _ _ ?_ ?_
      | with_reducible refine sjWrite_keeps (landTrans hm (by decide)) _ _ _ _ ?_
      | with_reducible refine raiseMsix_keeps (landTrans hm (by decide)) _ _ _ ?_
      | with_reducible refine setSj_keeps (landTrans hm (by decide)) _ _ _ ?_
      | with_reducible refine ite_keeps1 ?_ ?_
      | split
      | with_reducible refine pair1 ?_

theorem event_keeps {m : Nat} {s0 : State} (hm : m.land 39864763396 = 39864763396) (j : ℕ) (code : ℕ) (ev : ℕ) (bead : ℕ) (user : ℕ) (s : State) (h_s : Keeps m s0 s) :
    Keeps1 m s0 (event j code ev bead user s) := by
  unfold event
  repeat' first
    | with_reducible assumption
    | (extract_lets -underBinder +onlyGivenNames x; first
      | (guard_hyp x : State := _; refine (fun (hx : Keeps m s0 x) => ?_) ?_ <;> [clear_value x; subst x])
      | clear_value x)
    | with_reducible refine setSj_keeps (landTrans hm (by decide)) _ _ _ ?_
    | with_reducible refine evtDrain_keeps (landTrans hm (by decide)) _ _ _ ?_

theorem admitReq_keeps {m : Nat} {s0 : State} (hm : m.land 40401634310 = 40401634310) (j : ℕ) (e : Bytes) (s : State) (h_s : Keeps m s0 s) :
    Keeps1 m s0 (admitReq j e s) := by
  unfold admitReq
  repeat' first
    | with_reducible assumption
    | intro _
    | (extract_lets -underBinder +onlyGivenNames x; first
      | (guard_hyp x : Nat → State → SjR := _; refine (fun (hf : ∀ a t, Keeps m s0 t → Keeps1 m s0 (x a t)) => ?_) ?_ <;> [clear_value x; subst x])
      | clear_value x)
    | with_reducible apply hf
    | with_reducible refine event_keeps (landTrans hm (by decide)) _ _ _ _ _ _ ?_
    | with_reducible refine admission_keeps (landTrans hm (by decide)) _ _ _ ?_
    | with_reducible refine newBead_keeps (landTrans hm (by decide)) _ _ _ _ _ _ _ _ _ _ ?_
    | with_reducible refine ite_keeps1 ?_ ?_
    | split
    | with_reducible refine ofPair2 ‹_ = (_, _)› ?_
    | with_reducible refine Keeps2.of (takeFree_keeps (landTrans hm (by decide)) _ ?_)
    | with_reducible refine Keeps2.of (admitStamp_keeps (landTrans hm (by decide)) _ ?_)

theorem sjEnd_keeps {m : Nat} {s0 : State} (hm : m.land 4 = 4) (j : ℕ) (r : SjR) (h_r : Keeps1 m s0 r) :
    Keeps m s0 (sjEnd j r) := by
  unfold sjEnd
  repeat' first
    | with_reducible refine faultFn_keeps (landTrans hm (by decide)) _ _ _ ?_
    | split
    | with_reducible exact Keeps1.of ‹_›

theorem seeBead_keeps {m : Nat} {s0 : State} (hm : m.land 34628173828 = 34628173828) (i : ℕ) (s : State) (h_s : Keeps m s0 s) :
    Keeps1 m s0 (seeBead i s) := by
  unfold seeBead
  repeat' first
    | with_reducible assumption
    | (extract_lets -underBinder +onlyGivenNames x; guard_hyp x : State := _; refine (fun (hx : Keeps m s0 x) => ?_) ?_ <;> [clear_value x; subst x])
    | with_reducible refine beadRead_keeps (landTrans hm (by decide)) _ _ ?_
    | with_reducible refine beadPoison_keeps (landTrans hm (by decide)) _ _ ?_
    | with_reducible refine ite_keeps1 ?_ ?_
    | with_reducible refine pair1 ?_

theorem beadMoveBody_keeps {m : Nat} {s0 : State} (hm : m.land 51942260740 = 51942260740) (s : State) (h_s : Keeps m s0 s) :
    Keeps m s0 (beadMoveBody s) := by
  unfold beadMoveBody
  repeat' first
    | with_reducible assumption
    | (extract_lets -underBinder +onlyGivenNames x; clear_value x)
    | with_reducible refine seeBead_keeps (landTrans hm (by decide)) _ _ ?_
    | with_reducible refine mbxEnd_keeps (landTrans hm (by decide)) _ _ _ ?_
    | with_reducible refine faultFn_keeps (landTrans hm (by decide)) _ _ _ ?_
    | with_reducible refine setSj_keeps (landTrans hm (by decide)) _ _ _ ?_
    | split
    | with_reducible refine ofPair1 ‹_ = (_, _)› ?_

theorem execBeadMove_keeps {m : Nat} {s0 : State} (hm : m.land 8848035282948 = 8848035282948) (rq : Requester) (s : State) (h_s : Keeps m s0 s) :
    KeepsX m s0 (execBeadMove rq s) := by
  unfold execBeadMove
  repeat' first
    | with_reducible assumption
    | intro _
    | with_reducible refine mbxCommand_keeps (landTrans hm (by decide)) _ _ _ _ _ ?_ ?_
    | with_reducible refine beadMoveBody_keeps (landTrans hm (by decide)) _ ?_
    | with_reducible refine next_keeps ?_

theorem sjStart_keeps {m : Nat} {s0 : State} (hm : m.land 4 = 4) (s : State) (j : ℕ) (h_s : Keeps m s0 s) :
    Keeps m s0 (sjStart s j) := by
  unfold sjStart
  repeat' first
    | with_reducible assumption
    | with_reducible refine sjPublish_keeps (landTrans hm (by decide)) _ _ ?_
    | with_reducible refine startFn_keeps (landTrans hm (by decide)) _ _ _ ?_
    | with_reducible refine ite_keeps ?_ ?_

theorem sjStop_keeps {m : Nat} {s0 : State} (hm : m.land 134217732 = 134217732) (s : State) (j : ℕ) (h_s : Keeps m s0 s) :
    Keeps m s0 (sjStop s j) := by
  unfold sjStop
  repeat' first
    | with_reducible assumption
    | (extract_lets -underBinder +onlyGivenNames x; first
      | (guard_hyp x : State := _; refine (fun (hx : Keeps m s0 x) => ?_) ?_ <;> [clear_value x; subst x])
      | clear_value x)
    | with_reducible refine setSj_keeps (landTrans hm (by decide)) _ _ _ ?_
    | with_reducible refine State.set_keeps (landTrans hm (by decide)) _ _ _ _ _ ?_
    | with_reducible refine setFnState_keeps (landTrans hm (by decide)) _ _ _ ?_
    | with_reducible refine ite_keeps ?_ ?_

theorem sjEach_keeps {α : Type} {m : Nat} {s0 : State} (_hm : m.land 0 = 0) (l : List α) (f : State → α → SjR) (s : State)
    (hf : ∀ x0 x1, Keeps m s0 x0 → Keeps1 m s0 (f x0 x1)) (h : Keeps m s0 s) : Keeps1 m s0 (sjEach l f s) := by
  unfold sjEach
  refine foldl_keeps1 (fun t x ht => ?_) ⟨h⟩
  unfold SjR.andThen
  split
  · exact ht
  · exact hf _ _ ht.of

theorem appendPage_keeps {m : Nat} {s0 : State} (hm : m.land 39862666244 = 39862666244) (j : ℕ) (i : ℕ) (s : State) (p : ℕ) (h_s : Keeps m s0 s) :
    Keeps1 m s0 (appendPage j i s p) := by
  unfold appendPage
  repeat' first
    | with_reducible assumption
    | intro _
    | (extract_lets -underBinder +onlyGivenNames x; first
      | (guard_hyp x : State := _; refine (fun (hx : Keeps m s0 x) => ?_) ?_ <;> [clear_value x; subst x])
      | clear_value x)
    | with_reducible refine markPages_keeps (landTrans hm (by decide)) _ _ _ _ ?_
    | with_reducible refine SjR.andThen_keeps (landTrans hm (by decide)) _ _ ?_ ?_
    | with_reducible refine sjWrite_keeps (landTrans hm (by decide)) _ _ _ _ ?_
    | with_reducible refine bput_keeps (landTrans hm (by decide)) _ _ _ _ ?_
    | with_reducible refine ite_keeps1 ?_ ?_
    | with_reducible refine pair1 ?_

theorem allocate_keeps {m : Nat} {s0 : State} (hm : m.land 39862666244 = 39862666244) (j : ℕ) (i : ℕ) (n : ℕ) (s : State) (h_s : Keeps m s0 s) :
    Keeps1 m s0 (allocate j i n s) := by
  unfold allocate
  repeat' first
    | with_reducible assumption
    | intro _
    | with_reducible refine SjR.andThen_keeps (landTrans hm (by decide)) _ _ ?_ ?_
    | with_reducible refine sjEach_keeps (landTrans hm (by decide)) _ _ _ ?_ ?_
    | with_reducible refine appendPage_keeps (landTrans hm (by decide)) _ _ _ _ ?_
    | with_reducible refine bput_keeps (landTrans hm (by decide)) _ _ _ _ ?_
    | with_reducible refine pair1 ?_

theorem answerMove_keeps {m : Nat} {s0 : State} (hm : m.land 1073741828 = 1073741828) (s : State) (a1 : BeadMoveMsg) (c : ℕ) (dst : ℕ) (h_s : Keeps m s0 s) :
    Keeps m s0 (answerMove s a1 c dst) := by
  unfold answerMove
  repeat' first
    | with_reducible assumption
    | with_reducible refine emit_keeps (landTrans hm (by decide)) _ _ ?_
    | with_reducible refine issue_keeps (landTrans hm (by decide)) _ ?_

theorem pageRows_keeps {m : Nat} {s0 : State} (hm : m.land 4 = 4) (j : ℕ) (w : ℕ) (f : Bytes → State → SjR) (r : List ℕ) (r1 : Bytes) (r11 : State) (h_f : ∀ x0 x1, Keeps m s0 x1 → Keeps1 m s0 (f x0 x1)) (h_r11 : Keeps m s0 r11) :
    Keeps1 m s0 (pageRows j w f r r1 r11) := by
  induction r generalizing r1 r11 with
  | nil =>
    unfold pageRows
    repeat' first
      | with_reducible assumption
      | with_reducible refine h_f _ _ ?_
  | cons b t ih =>
    unfold pageRows
    repeat' first
      | with_reducible assumption
      | with_reducible apply ih
      | intro _
      | with_reducible refine withPages_keeps (landTrans hm (by decide)) _ _ _ _ ?_ ?_

theorem batchTable_keeps {m : Nat} {s0 : State} (hm : m.land 39728448516 = 39728448516) (j : ℕ) (rows : List (ℕ × ℕ)) (joined : List ℕ) (s : State) (h_s : Keeps m s0 s) :
    Keeps1 m s0 (batchTable j rows joined s) := by
  unfold batchTable
  repeat' first
    | with_reducible assumption
    | intro _
    | (extract_lets -underBinder +onlyGivenNames x; clear_value x)
    | with_reducible refine pageRows_keeps (landTrans hm (by decide)) _ _ _ _ _ _ ?_ ?_
    | with_reducible refine sjWrite_keeps (landTrans hm (by decide)) _ _ _ _ ?_

theorem readBeads_keeps {m : Nat} {s0 : State} (hm : m.land 34628173828 = 34628173828) (j : ℕ) (s : State) (h_s : Keeps m s0 s) :
    Keeps1 m s0 (readBeads j s) := by
  unfold readBeads
  repeat' first
    | with_reducible assumption
    | intro _
    | with_reducible refine sjEach_keeps (landTrans hm (by decide)) _ _ _ ?_ ?_
    | with_reducible refine seeBead_keeps (landTrans hm (by decide)) _ _ ?_

theorem eventOf_keeps {m : Nat} {s0 : State} (hm : m.land 39864763396 = 39864763396) (j : ℕ) (code : ℕ) (ev : ℕ) (i : ℕ) (s : State) (h_s : Keeps m s0 s) :
    Keeps1 m s0 (eventOf j code ev i s) := by
  unfold eventOf
  repeat' first
    | with_reducible assumption
    | with_reducible refine event_keeps (landTrans hm (by decide)) _ _ _ _ _ _ ?_

theorem moveFail_keeps {m : Nat} {s0 : State} (hm : m.land 57044632580 = 57044632580) (j : ℕ) (i : ℕ) (code : ℕ) (s : State) (h_s : Keeps m s0 s) :
    Keeps1 m s0 (moveFail j i code s) := by
  unfold moveFail
  repeat' first
    | with_reducible assumption
    | (extract_lets -underBinder +onlyGivenNames x; guard_hyp x : State := _; refine (fun (hx : Keeps m s0 x) => ?_) ?_ <;> [clear_value x; subst x])
    | with_reducible refine mbxEnd_keeps (landTrans hm (by decide)) _ _ _ ?_
    | with_reducible refine eventOf_keeps (landTrans hm (by decide)) _ _ _ _ _ ?_
    | with_reducible refine bput_keeps (landTrans hm (by decide)) _ _ _ _ ?_

theorem moveBroken_keeps {m : Nat} {s0 : State} (hm : m.land 57044632580 = 57044632580) (j : ℕ) (i : ℕ) (r : SjR) (h_r : Keeps1 m s0 r) :
    Keeps1 m s0 (moveBroken j i r) := by
  unfold moveBroken
  repeat' first
    | with_reducible assumption
    | intro _
    | with_reducible refine SjR.andThen_keeps (landTrans hm (by decide)) _ _ ?_ ?_
    | with_reducible refine moveFail_keeps (landTrans hm (by decide)) _ _ _ _ ?_
    | split
    | with_reducible exact Keeps1.of ‹_›
    | with_reducible refine pair1 ?_

theorem moveOut_keeps {m : Nat} {s0 : State} (hm : m.land 57044632580 = 57044632580) (j : ℕ) (s : State) (h_s : Keeps m s0 s) :
    Keeps1 m s0 (moveOut j s) := by
  unfold moveOut
  repeat' first
    | with_reducible assumption
    | intro _
    | (extract_lets -underBinder +onlyGivenNames x; first
      | (guard_hyp x : State := _; refine (fun (hx : Keeps m s0 x) => ?_) ?_ <;> [clear_value x; subst x])
      | clear_value x)
    | with_reducible refine setSj_keeps (landTrans hm (by decide)) _ _ _ ?_
    | with_reducible refine event_keeps (landTrans hm (by decide)) _ _ _ _ _ _ ?_
    | with_reducible refine mbxEnd_keeps (landTrans hm (by decide)) _ _ _ ?_
    | with_reducible refine moveFail_keeps (landTrans hm (by decide)) _ _ _ _ ?_
    | with_reducible refine moveBroken_keeps (landTrans hm (by decide)) _ _ _ ?_
    | with_reducible refine withPages_keeps (landTrans hm (by decide)) _ _ _ _ ?_ ?_
    | with_reducible refine issue_keeps (landTrans hm (by decide)) _ ?_
    | with_reducible refine newBead_keeps (landTrans hm (by decide)) _ _ _ _ _ _ _ _ _ _ ?_
    | with_reducible refine bput_keeps (landTrans hm (by decide)) _ _ _ _ ?_
    | with_reducible refine emit_keeps (landTrans hm (by decide)) _ _ ?_
    | with_reducible refine ite_keeps1 ?_ ?_
    | split
    | with_reducible refine pair1 ?_

theorem leaves_keeps {m : Nat} {s0 : State} (hm : m.land 39864763396 = 39864763396) (j : ℕ) (s : State) (h_s : Keeps m s0 s) :
    Keeps1 m s0 (leaves j s) := by
  unfold leaves
  repeat' first
    | with_reducible assumption
    | intro _
    | (extract_lets -underBinder +onlyGivenNames x; first
      | (guard_hyp x : State := _; refine (fun (hx : Keeps m s0 x) => ?_) ?_ <;> [clear_value x; subst x])
      | clear_value x)
    | with_reducible refine sjEach_keeps (landTrans hm (by decide)) _ _ _ ?_ ?_
    | with_reducible refine withPages_keeps (landTrans hm (by decide)) _ _ _ _ ?_ ?_
    | with_reducible refine setSj_keeps (landTrans hm (by decide)) _ _ _ ?_
    | with_reducible refine event_keeps (landTrans hm (by decide)) _ _ _ _ _ _ ?_
    | with_reducible refine freeBead_keeps (landTrans hm (by decide)) _ _ ?_

theorem leaveReq_keeps {m : Nat} {s0 : State} (hm : m.land 40133198852 = 40133198852) (j : ℕ) (e : Bytes) (s : State) (h_s : Keeps m s0 s) :
    Keeps1 m s0 (leaveReq j e s) := by
  unfold leaveReq
  repeat' first
    | with_reducible assumption
    | intro _
    | (extract_lets -underBinder +onlyGivenNames x; clear_value x)
    | with_reducible refine event_keeps (landTrans hm (by decide)) _ _ _ _ _ _ ?_
    | with_reducible refine SjR.andThen_keeps (landTrans hm (by decide)) _ _ ?_ ?_
    | with_reducible refine seeBead_keeps (landTrans hm (by decide)) _ _ ?_
    | with_reducible refine withPages_keeps (landTrans hm (by decide)) _ _ _ _ ?_ ?_
    | with_reducible refine freeBead_keeps (landTrans hm (by decide)) _ _ ?_
    | with_reducible refine markPages_keeps (landTrans hm (by decide)) _ _ _ _ ?_
    | with_reducible refine bput_keeps (landTrans hm (by decide)) _ _ _ _ ?_
    | with_reducible refine ite_keeps1 ?_ ?_
    | with_reducible refine pair1 ?_

theorem requests_keeps {m : Nat} {s0 : State} (hm : m.land 40670069766 = 40670069766) (j : ℕ) (tail : ℕ) (s : State) (h_s : Keeps m s0 s) :
    Keeps1 m s0 (requests j tail s) := by
  unfold requests
  repeat' first
    | with_reducible assumption
    | intro _
    | (extract_lets -underBinder +onlyGivenNames x; clear_value x)
    | with_reducible refine sjRead_keeps (landTrans hm (by decide)) _ _ _ _ _ ?_ ?_
    | with_reducible refine SjR.andThen_keeps (landTrans hm (by decide)) _ _ ?_ ?_
    | with_reducible refine sjEach_keeps (landTrans hm (by decide)) _ _ _ ?_ ?_
    | with_reducible refine leaveReq_keeps (landTrans hm (by decide)) _ _ _ ?_
    | with_reducible refine admitReq_keeps (landTrans hm (by decide)) _ _ _ ?_
    | with_reducible refine sjWrite_keeps (landTrans hm (by decide)) _ _ _ _ ?_
    | with_reducible refine ite_keeps1 ?_ ?_
    | with_reducible refine pair1 ?_

theorem emptyList_keeps {m : Nat} {s0 : State} (hm : m.land 1024 = 1024) (s : State) (i : ℕ) (h_s : Keeps m s0 s) :
    Keeps m s0 (emptyList s i) := by
  unfold emptyList
  repeat' first
    | with_reducible assumption
    | with_reducible refine bput_keeps (landTrans hm (by decide)) _ _ _ _ ?_

theorem evict_keeps {m : Nat} {s0 : State} (hm : m.land 40133198852 = 40133198852) (j : ℕ) (i : ℕ) (s : State) (h_s : Keeps m s0 s) :
    Keeps1 m s0 (evict j i s) := by
  unfold evict
  repeat' first
    | with_reducible assumption
    | intro _
    | (extract_lets -underBinder +onlyGivenNames x; guard_hyp x : State := _; refine (fun (hx : Keeps m s0 x) => ?_) ?_ <;> [clear_value x; subst x])
    | with_reducible refine SjR.andThen_keeps (landTrans hm (by decide)) _ _ ?_ ?_
    | with_reducible refine seeBead_keeps (landTrans hm (by decide)) _ _ ?_
    | with_reducible refine withPages_keeps (landTrans hm (by decide)) _ _ _ _ ?_ ?_
    | with_reducible refine markPages_keeps (landTrans hm (by decide)) _ _ _ _ ?_
    | with_reducible refine emptyList_keeps (landTrans hm (by decide)) _ _ ?_
    | with_reducible refine bput_keeps (landTrans hm (by decide)) _ _ _ _ ?_
    | with_reducible refine eventOf_keeps (landTrans hm (by decide)) _ _ _ _ _ ?_
    | with_reducible refine State.bump_keeps (landTrans hm (by decide)) _ _ _ _ _ ?_

theorem makeRoom_keeps {m : Nat} {s0 : State} (hm : m.land 40133198852 = 40133198852) (j : ℕ) (i : ℕ) (r : ℕ) (r1 : List ℕ) (r11 : State) (h_r11 : Keeps m s0 r11) :
    Keeps11 m s0 (makeRoom j i r r1 r11) := by
  induction r generalizing r1 r11 with
  | zero =>
    unfold makeRoom
    repeat' first
      | with_reducible assumption
      | with_reducible refine pair1 ?_
      | with_reducible refine pairOf1 ?_
  | succ k ih =>
    unfold makeRoom
    repeat' first
      | with_reducible assumption
      | with_reducible apply ih
      | with_reducible refine evict_keeps (landTrans hm (by decide)) _ _ _ ?_
      | split
      | with_reducible refine pair1 ?_
      | with_reducible refine pairOf1 ?_
      | with_reducible refine ofPair1 ‹_ = (_, _)› ?_

theorem rowPages_keeps {m : Nat} {s0 : State} (hm : m.land 40133198852 = 40133198852) (j : ℕ) (s : State) (h_s : Keeps m s0 s) :
    Keeps11 m s0 (rowPages j s) := by
  unfold rowPages
  repeat' first
    | with_reducible assumption
    | intro _
    | with_reducible refine makeRoom_keeps (landTrans hm (by decide)) _ _ _ _ _ ?_
    | with_reducible refine allocate_keeps (landTrans hm (by decide)) _ _ _ _ ?_
    | with_reducible refine foldl_keeps11 ?_ ?_
    | split
    | with_reducible refine pair1 ?_
    | with_reducible exact Keeps11.of ‹_›
    | with_reducible refine pairOf1 ?_
    | with_reducible refine ofPair11 ‹_ = ((_, _), _)› ?_

theorem joins_keeps {m : Nat} {s0 : State} (hm : m.land 39864763396 = 39864763396) (j : ℕ) (r : List ℕ) (r1 : List ℕ) (r11 : State) (h_r11 : Keeps m s0 r11) :
    Keeps11 m s0 (joins j r r1 r11) := by
  induction r generalizing r1 r11 with
  | nil =>
    unfold joins
    repeat' first
      | with_reducible assumption
      | with_reducible refine pair1 ?_
      | with_reducible refine pairOf1 ?_
  | cons b t ih =>
    unfold joins
    repeat' first
      | with_reducible assumption
      | with_reducible apply ih
      | intro _
      | (extract_lets -underBinder +onlyGivenNames x; clear_value x)
      | with_reducible refine State.bump_keeps (landTrans hm (by decide)) _ _ _ _ _ ?_
      | with_reducible refine SjR.andThen_keeps (landTrans hm (by decide)) _ _ ?_ ?_
      | with_reducible refine allocate_keeps (landTrans hm (by decide)) _ _ _ _ ?_
      | with_reducible refine eventOf_keeps (landTrans hm (by decide)) _ _ _ _ _ ?_
      | with_reducible refine bput_keeps (landTrans hm (by decide)) _ _ _ _ ?_
      | split
      | with_reducible refine pair1 ?_
      | with_reducible refine pairOf1 ?_
      | with_reducible refine ofPair1 ‹_ = (_, _)› ?_

theorem submitStep_keeps {m : Nat} {s0 : State} (hm : m.land 134242308 = 134242308) (j : ℕ) (s : State) (h_s : Keeps m s0 s) :
    Keeps m s0 (submitStep j s) := by
  unfold submitStep
  repeat' first
    | with_reducible assumption
    | (extract_lets -underBinder +onlyGivenNames x; clear_value x)
    | with_reducible refine submitJob_keeps (landTrans hm (by decide)) _ _ _ _ ?_
    | with_reducible refine State.set_keeps (landTrans hm (by decide)) _ _ _ _ _ ?_
    | with_reducible refine setSj_keeps (landTrans hm (by decide)) _ _ _ ?_
    | with_reducible refine State.bump_keeps (landTrans hm (by decide)) _ _ _ _ _ ?_
    | with_reducible refine ite_keeps ?_ ?_
    | with_reducible refine ofOk ‹_ = Except.ok _› ?_
    | with_reducible refine ofErr ‹_ = Except.error (_, _)› ?_
    | split

theorem launchStep_keeps {m : Nat} {s0 : State} (hm : m.land 39862690820 = 39862690820) (j : ℕ) (joined : List ℕ) (s : State) (h_s : Keeps m s0 s) :
    Keeps1 m s0 (launchStep j joined s) := by
  unfold launchStep
  repeat' first
    | with_reducible assumption
    | intro _
    | (extract_lets -underBinder +onlyGivenNames x; first
      | (guard_hyp x : State := _; refine (fun (hx : Keeps m s0 x) => ?_) ?_ <;> [clear_value x; subst x])
      | clear_value x)
    | with_reducible refine setSj_keeps (landTrans hm (by decide)) _ _ _ ?_
    | with_reducible refine State.set_keeps (landTrans hm (by decide)) _ _ _ _ _ ?_
    | with_reducible refine SjR.andThen_keeps (landTrans hm (by decide)) _ _ ?_ ?_
    | with_reducible refine batchTable_keeps (landTrans hm (by decide)) _ _ _ _ ?_
    | with_reducible refine submitStep_keeps (landTrans hm (by decide)) _ _ ?_
    | with_reducible refine ite_keeps1 ?_ ?_
    | with_reducible refine pair1 ?_

theorem boundaryWork_keeps {m : Nat} {s0 : State} (hm : m.land 57849963526 = 57849963526) (j : ℕ) (s : State) (h_s : Keeps m s0 s) :
    Keeps1 m s0 (boundaryWork j s) := by
  unfold boundaryWork
  repeat' first
    | with_reducible assumption
    | intro _
    | with_reducible refine sjRead_keeps (landTrans hm (by decide)) _ _ _ _ _ ?_ ?_
    | with_reducible refine SjR.andThen_keeps (landTrans hm (by decide)) _ _ ?_ ?_
    | with_reducible refine readBeads_keeps (landTrans hm (by decide)) _ _ ?_
    | with_reducible refine moveOut_keeps (landTrans hm (by decide)) _ _ ?_
    | with_reducible refine leaves_keeps (landTrans hm (by decide)) _ _ ?_
    | with_reducible refine requests_keeps (landTrans hm (by decide)) _ _ _ ?_
    | with_reducible refine rowPages_keeps (landTrans hm (by decide)) _ _ ?_
    | with_reducible refine joins_keeps (landTrans hm (by decide)) _ _ _ _ ?_
    | with_reducible refine launchStep_keeps (landTrans hm (by decide)) _ _ _ ?_
    | split
    | with_reducible refine pair1 ?_
    | with_reducible refine ofPair11 ‹_ = ((_, _), _)› ?_

theorem boundary_keeps {m : Nat} {s0 : State} (hm : m.land 57849963526 = 57849963526) (s : State) (j : ℕ) (h_s : Keeps m s0 s) :
    Keeps m s0 (boundary s j) := by
  unfold boundary
  repeat' first
    | with_reducible assumption
    | with_reducible refine sjPublish_keeps (landTrans hm (by decide)) _ _ ?_
    | with_reducible refine sjEnd_keeps (landTrans hm (by decide)) _ _ ?_
    | with_reducible refine boundaryWork_keeps (landTrans hm (by decide)) _ _ ?_
    | with_reducible refine ite_keeps ?_ ?_

theorem evtSpace_keeps {m : Nat} {s0 : State} (hm : m.land 39864763396 = 39864763396) (s : State) (j : ℕ) (h_s : Keeps m s0 s) :
    Keeps m s0 (evtSpace s j) := by
  unfold evtSpace
  repeat' first
    | with_reducible assumption
    | with_reducible refine sjPublish_keeps (landTrans hm (by decide)) _ _ ?_
    | with_reducible refine sjEnd_keeps (landTrans hm (by decide)) _ _ ?_
    | with_reducible refine evtDrain_keeps (landTrans hm (by decide)) _ _ _ ?_
    | with_reducible refine ite_keeps ?_ ?_

theorem moveAck_keeps {m : Nat} {s0 : State} (hm : m.land 57313068036 = 57313068036) (s : State) (j : ℕ) (code : ℕ) (dst : ℕ) (h_s : Keeps m s0 s) :
    Keeps m s0 (moveAck s j code dst) := by
  unfold moveAck
  repeat' first
    | with_reducible assumption
    | intro _
    | (extract_lets -underBinder +onlyGivenNames x; first
      | (guard_hyp x : State := _; refine (fun (hx : Keeps m s0 x) => ?_) ?_ <;> [clear_value x; subst x])
      | (guard_hyp x : SjR := _; refine (fun (hx : Keeps1 m s0 x) => ?_) ?_ <;> [clear_value x; subst x])
      | clear_value x)
    | with_reducible refine setSj_keeps (landTrans hm (by decide)) _ _ _ ?_
    | with_reducible refine bput_keeps (landTrans hm (by decide)) _ _ _ _ ?_
    | with_reducible refine freeBead_keeps (landTrans hm (by decide)) _ _ ?_
    | with_reducible refine mbxEnd_keeps (landTrans hm (by decide)) _ _ _ ?_
    | with_reducible refine SjR.andThen_keeps (landTrans hm (by decide)) _ _ ?_ ?_
    | with_reducible refine seeBead_keeps (landTrans hm (by decide)) _ _ ?_
    | with_reducible refine withPages_keeps (landTrans hm (by decide)) _ _ _ _ ?_ ?_
    | with_reducible refine event_keeps (landTrans hm (by decide)) _ _ _ _ _ _ ?_
    | with_reducible refine moveFail_keeps (landTrans hm (by decide)) _ _ _ _ ?_
    | with_reducible refine sjPublish_keeps (landTrans hm (by decide)) _ _ ?_
    | with_reducible refine sjEnd_keeps (landTrans hm (by decide)) _ _ ?_
    | with_reducible refine ite_keeps ?_ ?_
    | with_reducible refine ite_keeps1 ?_ ?_
    | split

theorem moveAnswered_keeps {m : Nat} {s0 : State} (hm : m.land 57313068036 = 57313068036) (s : State) (j : ℕ) (code : ℕ) (stamp : Word) (dst : ℕ) (h_s : Keeps m s0 s) :
    Keeps m s0 (moveAnswered s j code stamp dst) := by
  unfold moveAnswered
  repeat' first
    | with_reducible assumption
    | with_reducible refine moveAck_keeps (landTrans hm (by decide)) _ _ _ _ ?_
    | with_reducible refine raiseFloor_keeps (landTrans hm (by decide)) _ _ _ ?_
    | split

theorem execBeadMoveAck_keeps {m : Nat} {s0 : State} (hm : m.land 57313068036 = 57313068036) (j : ℕ) (code : Byte) (ack : BeadTaken) (s : State) (h_s : Keeps m s0 s) :
    KeepsX m s0 (execBeadMoveAck j code ack s) := by
  unfold execBeadMoveAck
  repeat' first
    | with_reducible assumption
    | with_reducible refine moveAnswered_keeps (landTrans hm (by decide)) _ _ _ _ _ ?_
    | with_reducible refine ite_keeps ?_ ?_
    | with_reducible refine next_keeps ?_

theorem writePages_keeps {m : Nat} {s0 : State} (hm : m.land 39728448516 = 39728448516) (j : ℕ) (l : List ℕ) (a2 : BeadMoveMsg) (s : State) (h_s : Keeps m s0 s) :
    Keeps1 m s0 (writePages j l a2 s) := by
  unfold writePages
  repeat' first
    | with_reducible assumption
    | intro _
    | with_reducible refine SjR.andThen_keeps (landTrans hm (by decide)) _ _ ?_ ?_
    | with_reducible refine sjEach_keeps (landTrans hm (by decide)) _ _ _ ?_ ?_
    | with_reducible refine sjWrite_keeps (landTrans hm (by decide)) _ _ _ _ ?_
    | with_reducible refine forEach_keeps (landTrans hm (by decide)) _ _ _ ?_ ?_
    | with_reducible refine homeWrite_keeps (landTrans hm (by decide)) _ _ _ _ ?_
    | with_reducible refine pair1 ?_

theorem moveIn_keeps {m : Nat} {s0 : State} (hm : m.land 39864763396 = 39864763396) (s : State) (j : ℕ) (a2 : BeadMoveMsg) (h_s : Keeps m s0 s) :
    Keeps m s0 (moveIn s j a2) := by
  unfold moveIn
  repeat' first
    | with_reducible assumption
    | intro _
    | (extract_lets -underBinder +onlyGivenNames x; first
      | (guard_hyp x : State := _; refine (fun (hx : Keeps m s0 x) => ?_) ?_ <;> [clear_value x; subst x])
      | (guard_hyp x : SjR := _; refine (fun (hx : Keeps1 m s0 x) => ?_) ?_ <;> [clear_value x; subst x])
      | clear_value x)
    | with_reducible refine raiseFloor_keeps (landTrans hm (by decide)) _ _ _ ?_
    | with_reducible refine answerMove_keeps (landTrans hm (by decide)) _ _ _ _ ?_
    | with_reducible refine newBead_keeps (landTrans hm (by decide)) _ _ _ _ _ _ _ _ _ _ ?_
    | with_reducible refine SjR.andThen_keeps (landTrans hm (by decide)) _ _ ?_ ?_
    | with_reducible refine allocate_keeps (landTrans hm (by decide)) _ _ _ _ ?_
    | with_reducible refine writePages_keeps (landTrans hm (by decide)) _ _ _ _ ?_
    | with_reducible refine eventOf_keeps (landTrans hm (by decide)) _ _ _ _ _ ?_
    | with_reducible refine sjPublish_keeps (landTrans hm (by decide)) _ _ ?_
    | with_reducible refine freeBead_keeps (landTrans hm (by decide)) _ _ ?_
    | with_reducible refine markPages_keeps (landTrans hm (by decide)) _ _ _ _ ?_
    | with_reducible refine sjEnd_keeps (landTrans hm (by decide)) _ _ ?_
    | with_reducible refine ite_keeps ?_ ?_
    | split
    | with_reducible exact Keeps1.of ‹_›
    | with_reducible refine pair1 ?_

theorem execBeadMoveReceive_keeps {m : Nat} {s0 : State} (hm : m.land 39864763396 = 39864763396) (j : ℕ) (a1 : BeadMoveMsg) (s : State) (h_s : Keeps m s0 s) :
    KeepsX m s0 (execBeadMoveReceive j a1 s) := by
  unfold execBeadMoveReceive
  repeat' first
    | with_reducible assumption
    | with_reducible refine moveIn_keeps (landTrans hm (by decide)) _ _ _ ?_
    | with_reducible refine ite_keeps ?_ ?_
    | with_reducible refine next_keeps ?_

theorem execEventRingSpace_keeps {m : Nat} {s0 : State} (hm : m.land 39864763396 = 39864763396) (j : ℕ) (s : State) (h_s : Keeps m s0 s) :
    KeepsX m s0 (execEventRingSpace j s) := by
  unfold execEventRingSpace
  repeat' first
    | with_reducible assumption
    | with_reducible refine evtSpace_keeps (landTrans hm (by decide)) _ _ ?_
    | with_reducible refine ite_keeps ?_ ?_
    | with_reducible refine next_keeps ?_

theorem execServingBoundary_keeps {m : Nat} {s0 : State} (hm : m.land 57849963526 = 57849963526) (j : ℕ) (s : State) (h_s : Keeps m s0 s) :
    KeepsX m s0 (execServingBoundary j s) := by
  unfold execServingBoundary
  repeat' first
    | with_reducible assumption
    | with_reducible refine boundary_keeps (landTrans hm (by decide)) _ _ ?_
    | with_reducible refine ite_keeps ?_ ?_
    | with_reducible refine next_keeps ?_

theorem pollExpiry_keeps {m : Nat} {s0 : State} (hm : m.land 57849963526 = 57849963526) (s : State) (j : ℕ) (h_s : Keeps m s0 s) :
    Keeps m s0 (pollExpiry s j) := by
  unfold pollExpiry
  repeat' first
    | with_reducible assumption
    | (extract_lets -underBinder +onlyGivenNames x; clear_value x)
    | with_reducible refine boundary_keeps (landTrans hm (by decide)) _ _ ?_
    | with_reducible refine setSj_keeps (landTrans hm (by decide)) _ _ _ ?_
    | with_reducible refine ite_keeps ?_ ?_
    | split

theorem execServingPollExpiry_keeps {m : Nat} {s0 : State} (hm : m.land 57849963526 = 57849963526) (j : ℕ) (s : State) (h_s : Keeps m s0 s) :
    KeepsX m s0 (execServingPollExpiry j s) := by
  unfold execServingPollExpiry
  repeat' first
    | with_reducible assumption
    | with_reducible refine pollExpiry_keeps (landTrans hm (by decide)) _ _ ?_
    | with_reducible refine ite_keeps ?_ ?_
    | with_reducible refine next_keeps ?_

theorem execSjStart_keeps {m : Nat} {s0 : State} (hm : m.land 4 = 4) (j : ℕ) (s : State) (h_s : Keeps m s0 s) :
    KeepsX m s0 (execSjStart j s) := by
  unfold execSjStart
  repeat' first
    | with_reducible assumption
    | with_reducible refine sjStart_keeps (landTrans hm (by decide)) _ _ ?_
    | with_reducible refine ite_keeps ?_ ?_
    | with_reducible refine next_keeps ?_

theorem execSjStop_keeps {m : Nat} {s0 : State} (hm : m.land 134217732 = 134217732) (j : ℕ) (s : State) (h_s : Keeps m s0 s) :
    KeepsX m s0 (execSjStop j s) := by
  unfold execSjStop
  repeat' first
    | with_reducible assumption
    | with_reducible refine sjStop_keeps (landTrans hm (by decide)) _ _ ?_
    | with_reducible refine ite_keeps ?_ ?_
    | with_reducible refine next_keeps ?_

theorem rowDone_keeps {m : Nat} {s0 : State} (hm : m.land 34628174852 = 34628174852) (j : ℕ) (s : State) (k : ℕ) (r : ℕ × ℕ) (h_s : Keeps m s0 s) :
    Keeps1 m s0 (rowDone j s k r) := by
  unfold rowDone
  repeat' first
    | with_reducible assumption
    | intro _
    | (extract_lets -underBinder +onlyGivenNames x; first
      | (guard_hyp x : State := _; refine (fun (hx : Keeps m s0 x) => ?_) ?_ <;> [clear_value x; subst x])
      | clear_value x)
    | with_reducible refine sjRead_keeps (landTrans hm (by decide)) _ _ _ _ _ ?_ ?_
    | with_reducible refine SjR.andThen_keeps (landTrans hm (by decide)) _ _ ?_ ?_
    | with_reducible refine seeBead_keeps (landTrans hm (by decide)) _ _ ?_
    | with_reducible refine bput_keeps (landTrans hm (by decide)) _ _ _ _ ?_
    | with_reducible refine ite_keeps ?_ ?_
    | with_reducible refine ite_keeps1 ?_ ?_
    | with_reducible refine pair1 ?_

theorem stepDone_keeps {m : Nat} {s0 : State} (hm : m.land 34762392580 = 34762392580) (s : State) (j : ℕ) (h_s : Keeps m s0 s) :
    Keeps m s0 (stepDone s j) := by
  unfold stepDone
  repeat' first
    | with_reducible assumption
    | intro _
    | (extract_lets -underBinder +onlyGivenNames x; first
      | (guard_hyp x : State := _; refine (fun (hx : Keeps m s0 x) => ?_) ?_ <;> [clear_value x; subst x])
      | (guard_hyp x : SjR := _; refine (fun (hx : Keeps1 m s0 x) => ?_) ?_ <;> [clear_value x; subst x])
      | clear_value x)
    | with_reducible refine sjEach_keeps (landTrans hm (by decide)) _ _ _ ?_ ?_
    | with_reducible refine rowDone_keeps (landTrans hm (by decide)) _ _ _ _ ?_
    | with_reducible refine sjEnd_keeps (landTrans hm (by decide)) _ _ ?_
    | with_reducible refine markPages_keeps (landTrans hm (by decide)) _ _ _ _ ?_
    | with_reducible refine setSj_keeps (landTrans hm (by decide)) _ _ _ ?_
    | with_reducible refine State.set_keeps (landTrans hm (by decide)) _ _ _ _ _ ?_
    | with_reducible refine State.bump2_keeps (landTrans hm (by decide)) _ _ _ _ _ _ ?_
    | with_reducible refine faultFn_keeps (landTrans hm (by decide)) _ _ _ ?_
    | with_reducible refine setFnState_keeps (landTrans hm (by decide)) _ _ _ ?_
    | with_reducible refine sjPublish_keeps (landTrans hm (by decide)) _ _ ?_
    | with_reducible refine ite_keeps ?_ ?_
    | with_reducible refine ite_keeps1 ?_ ?_
    | split
    | with_reducible refine pair1 ?_

theorem execStepComplete_keeps {m : Nat} {s0 : State} (hm : m.land 34762392580 = 34762392580) (j : ℕ) (s : State) (h_s : Keeps m s0 s) :
    KeepsX m s0 (execStepComplete j s) := by
  unfold execStepComplete
  repeat' first
    | with_reducible assumption
    | with_reducible refine stepDone_keeps (landTrans hm (by decide)) _ _ ?_
    | with_reducible refine ite_keeps ?_ ?_
    | with_reducible refine next_keeps ?_

theorem resubmit_keeps {m : Nat} {s0 : State} (hm : m.land 134242308 = 134242308) (s : State) (j : ℕ) (h_s : Keeps m s0 s) :
    Keeps m s0 (resubmit s j) := by
  unfold resubmit
  repeat' first
    | with_reducible assumption
    | with_reducible refine submitStep_keeps (landTrans hm (by decide)) _ _ ?_
    | with_reducible refine ite_keeps ?_ ?_
    | split

theorem execStepResubmit_keeps {m : Nat} {s0 : State} (hm : m.land 134242308 = 134242308) (j : ℕ) (s : State) (h_s : Keeps m s0 s) :
    KeepsX m s0 (execStepResubmit j s) := by
  unfold execStepResubmit
  repeat' first
    | with_reducible assumption
    | with_reducible refine resubmit_keeps (landTrans hm (by decide)) _ _ ?_
    | with_reducible refine ite_keeps ?_ ?_
    | with_reducible refine next_keeps ?_

end Sys2Proof.Machine
end

