-- ==== Sys2Proof/Laws/KeepsUnits.lean ====
section
/-! SUPPORT. What each operation of Units.lean keeps: the canonical form, and the parts of the state that it does not name. -/

namespace Sys2Proof.Machine

theorem putFly_keeps {m : Nat} {s0 : State} (hm : m.land 2048 = 2048) (s : State) (n : ℕ) (f : Inflight) (h_s : Keeps m s0 s) :
    Keeps m s0 (putFly s n f) := by
  unfold putFly
  repeat' first
    | with_reducible assumption
    | (extract_lets -underBinder +onlyGivenNames x; clear_value x)
    | with_reducible refine setCore_keeps (landTrans hm (by decide)) _ _ _ ?_

theorem takeEntries_keeps {m : Nat} {s0 : State} (hm : m.land 10240 = 10240) (s : State) (n : ℕ) (x : ℕ) (f : Inflight) (h_s : Keeps m s0 s) :
    KeepsO1 m s0 (takeEntries s n x f) := by
  unfold takeEntries
  repeat' first
    | with_reducible assumption
    | (extract_lets -underBinder +onlyGivenNames x; first
      | (guard_hyp x : State := _; refine (fun (hx : Keeps m s0 x) => ?_) ?_ <;> [clear_value x; subst x])
      | clear_value x)
    | with_reducible refine setCtx_keeps (landTrans hm (by decide)) _ _ _ ?_
    | with_reducible refine setHeld_keeps (landTrans hm (by decide)) _ _ _ _ ?_
    | with_reducible refine ite_keeps ?_ ?_
    | with_reducible refine some_keeps1 ?_
    | with_reducible exact none_keeps1
    | split
    | with_reducible refine pair1 ?_

theorem seePoison_keeps {m : Nat} {s0 : State} (hm : m.land 4 = 4) (s : State) (n : ℕ) (l : List (ℕ × ℕ × ℕ)) (h_s : Keeps m s0 s) :
    Keeps m s0 (seePoison s n l) := by
  unfold seePoison
  repeat' first
    | with_reducible assumption
    | intro _
    | with_reducible refine forEach_keeps (landTrans hm (by decide)) _ _ _ ?_ ?_
    | with_reducible refine poisonSeenDev_keeps (landTrans hm (by decide)) _ _ ?_
    | with_reducible refine poisonSeenChip_keeps (landTrans hm (by decide)) _ _ ?_
    | with_reducible refine ite_keeps ?_ ?_

theorem unitFault_keeps {m : Nat} {s0 : State} (hm : m.land 60131732484 = 60131732484) (s : State) (n : ℕ) (x : ℕ) (f : Inflight) (code : ℕ) (at_ : ℕ) (reads : List (ℕ × ℕ × ℕ)) (h_s : Keeps m s0 s) :
    Keeps m s0 (unitFault s n x f code at_ reads) := by
  unfold unitFault
  repeat' first
    | with_reducible assumption
    | (extract_lets -underBinder +onlyGivenNames x; guard_hyp x : State := _; refine (fun (hx : Keeps m s0 x) => ?_) ?_ <;> [clear_value x; subst x])
    | with_reducible refine seePoison_keeps (landTrans hm (by decide)) _ _ _ ?_
    | with_reducible refine cmdFault_keeps (landTrans hm (by decide)) _ _ _ _ _ _ _ ?_
    | with_reducible refine putFly_keeps (landTrans hm (by decide)) _ _ _ ?_
    | with_reducible refine ite_keeps ?_ ?_

theorem placePass_keeps {m : Nat} {s0 : State} (hm : m.land 2048 = 2048) (s : State) (n : ℕ) (f : Inflight) (a3 : MatCmd) (g : Grp) (p1 : ℕ) (h_s : Keeps m s0 s) :
    Keeps1 m s0 (placePass s n f a3 g p1) := by
  unfold placePass
  repeat' first
    | with_reducible assumption
    | (extract_lets -underBinder +onlyGivenNames x; clear_value x)
    | with_reducible refine setArr_keeps (landTrans hm (by decide)) _ _ _ ?_
    | with_reducible refine pair1 ?_

theorem putDataq_keeps {m : Nat} {s0 : State} (hm : m.land 8192 = 8192) (s : State) (x : ℕ) (q : ℕ) (d : DataQ) (h_s : Keeps m s0 s) :
    Keeps m s0 (putDataq s x q d) := by
  unfold putDataq
  repeat' first
    | with_reducible assumption
    | (extract_lets -underBinder +onlyGivenNames x; clear_value x)
    | with_reducible refine setCtx_keeps (landTrans hm (by decide)) _ _ _ ?_

theorem endEntries_keeps {m : Nat} {s0 : State} (hm : m.land 8192 = 8192) (s : State) (x : ℕ) (f : Inflight) (h_s : Keeps m s0 s) :
    Keeps m s0 (endEntries s x f) := by
  unfold endEntries
  repeat' first
    | with_reducible assumption
    | intro _
    | (extract_lets -underBinder +onlyGivenNames x; clear_value x)
    | with_reducible refine forEach_keeps (landTrans hm (by decide)) _ _ _ ?_ ?_
    | with_reducible refine putDataq_keeps (landTrans hm (by decide)) _ _ _ _ ?_

theorem unitEnd_keeps {m : Nat} {s0 : State} (hm : m.land 11264 = 11264) (s : State) (n : ℕ) (x : ℕ) (f : Inflight) (out : List Staged) (flags : ℕ) (h_s : Keeps m s0 s) :
    Keeps m s0 (unitEnd s n x f out flags) := by
  unfold unitEnd
  repeat' first
    | with_reducible assumption
    | intro _
    | (extract_lets -underBinder +onlyGivenNames x; first
      | (guard_hyp x : State := _; refine (fun (hx : Keeps m s0 x) => ?_) ?_ <;> [clear_value x; subst x])
      | clear_value x)
    | with_reducible refine forEach_keeps (landTrans hm (by decide)) _ _ _ ?_ ?_
    | with_reducible refine chipWrite_keeps (landTrans hm (by decide)) _ _ _ _ _ _ ?_
    | with_reducible refine endEntries_keeps (landTrans hm (by decide)) _ _ _ ?_
    | with_reducible refine putFly_keeps (landTrans hm (by decide)) _ _ _ ?_
    | with_reducible refine ite_keeps ?_ ?_

theorem raiseOut_keeps {m : Nat} {s0 : State} (hm : m.land 34359738368 = 34359738368) (s : State) (n : ℕ) (r : ℕ) (l : List Staged) (h_s : Keeps m s0 s) :
    Keeps m s0 (raiseOut s n r l) := by
  unfold raiseOut
  repeat' first
    | with_reducible assumption
    | intro _
    | with_reducible refine forEach_keeps (landTrans hm (by decide)) _ _ _ ?_ ?_
    | with_reducible refine raiseBank_keeps (landTrans hm (by decide)) _ _ _ _ _ ?_
    | with_reducible refine ite_keeps ?_ ?_

theorem raiseVec_keeps {m : Nat} {s0 : State} (hm : m.land 34359738368 = 34359738368) (s : State) (n : ℕ) (c : BitVec 256) (p : List ℕ) (h_s : Keeps m s0 s) :
    Keeps m s0 (raiseVec s n c p) := by
  unfold raiseVec
  repeat' first
    | with_reducible assumption
    | intro _
    | with_reducible refine forEach_keeps (landTrans hm (by decide)) _ _ _ ?_ ?_
    | with_reducible refine raiseBank_keeps (landTrans hm (by decide)) _ _ _ _ _ ?_

theorem underWins_keeps {m : Nat} {s0 : State} (hm : m.land 131072 = 131072) (s : State) (y : Ctx) (f : Inflight) (h_s : Keeps m s0 s) :
    Keeps m s0 (underWins s y f) := by
  unfold underWins
  repeat' first
    | with_reducible assumption
    | fail_if_no_progress (with_reducible refine upd_wins (landTrans hm (by decide)) _ ?_)

theorem raiseUnit_keeps {m : Nat} {s0 : State} (hm : m.land 34359738368 = 34359738368) (s : State) (n : ℕ) (l : List (ℕ × ℕ × ℕ × ℕ × Bool)) (h_s : Keeps m s0 s) :
    Keeps m s0 (raiseUnit s n l) := by
  unfold raiseUnit
  repeat' first
    | with_reducible assumption
    | intro _
    | with_reducible refine forEach_keeps (landTrans hm (by decide)) _ _ _ ?_ ?_
    | with_reducible refine raiseBank_keeps (landTrans hm (by decide)) _ _ _ _ _ ?_
    | with_reducible refine raiseMem_keeps (landTrans hm (by decide)) _ _ _ _ _ _ ?_
    | with_reducible refine ite_keeps ?_ ?_

theorem unitStep_keeps {m : Nat} {s0 : State} (hm : m.land 65500572678 = 65500572678) (s : State) (n : ℕ) (uid : ℕ) (h_s : Keeps m s0 s) :
    Keeps1 m s0 (unitStep s n uid) := by
  unfold unitStep
  repeat' first
    | with_reducible assumption
    | (extract_lets -underBinder +onlyGivenNames x; first
      | (guard_hyp x : State := _; refine (fun (hx : Keeps m s0 x) => ?_) ?_ <;> [clear_value x; subst x])
      | (guard_hyp x : State × Inflight := _; refine (fun (hx : Keeps1 m s0 x) => ?_) ?_ <;> [clear_value x; subst x])
      | (guard_hyp x : ℕ × State := _; refine (fun (hx : Keeps2 m s0 x) => ?_) ?_ <;> [clear_value x; subst x])
      | (guard_hyp x : State × Inflight × AccRes := _; refine (fun (hx : Keeps1 m s0 x) => ?_) ?_ <;> [clear_value x; subst x])
      | clear_value x)
    | with_reducible refine lanternTurn_keeps (landTrans hm (by decide)) _ _ ?_
    | with_reducible refine putFly_keeps (landTrans hm (by decide)) _ _ _ ?_
    | with_reducible refine takeEntries_keeps (landTrans hm (by decide)) _ _ _ _ ?_
    | with_reducible refine unitFault_keeps (landTrans hm (by decide)) _ _ _ _ _ _ _ ?_
    | with_reducible refine placePass_keeps (landTrans hm (by decide)) _ _ _ _ _ _ ?_
    | with_reducible refine unitEnd_keeps (landTrans hm (by decide)) _ _ _ _ _ _ ?_
    | with_reducible refine raiseOut_keeps (landTrans hm (by decide)) _ _ _ _ ?_
    | with_reducible refine takeFree_keeps (landTrans hm (by decide)) _ ?_
    | with_reducible refine raiseVec_keeps (landTrans hm (by decide)) _ _ _ _ ?_
    | with_reducible refine accUnit_keeps (landTrans hm (by decide)) _ _ _ _ _ _ ?_
    | with_reducible refine underWins_keeps (landTrans hm (by decide)) _ _ _ ?_
    | with_reducible refine seePoison_keeps (landTrans hm (by decide)) _ _ _ ?_
    | with_reducible refine raiseUnit_keeps (landTrans hm (by decide)) _ _ _ ?_
    | with_reducible refine setCore_keeps (landTrans hm (by decide)) _ _ _ ?_
    | with_reducible refine ite_keeps ?_ ?_
    | with_reducible refine ite_keeps1 ?_ ?_
    | with_reducible refine ite_keeps2 ?_ ?_
    | with_reducible refine some_keeps1 ?_
    | with_reducible refine ofSome1 ‹_ = some (_, _)› ?_
    | split
    | with_reducible exact Keeps1.of ‹_›
    | with_reducible exact Keeps2.of ‹_›
    | with_reducible refine pair1 ?_
    | with_reducible refine pair2 ?_
    | fail_if_no_progress (with_reducible refine upd_wins (landTrans hm (by decide)) _ ?_)

theorem runOne_keeps {m : Nat} {s0 : State} (hm : m.land 65500572678 = 65500572678) (n : ℕ) (uid : ℕ) (r : ℕ) (r1 : State) (h_r1 : Keeps m s0 r1) :
    Keeps m s0 (runOne n uid r r1) := by
  induction r generalizing r1 with
  | zero =>
    unfold runOne
    repeat' first
      | with_reducible assumption
  | succ k ih =>
    unfold runOne
    repeat' first
      | with_reducible assumption
      | with_reducible apply ih
      | (extract_lets -underBinder +onlyGivenNames x; guard_hyp x : State × Bool := _; refine (fun (hx : Keeps1 m s0 x) => ?_) ?_ <;> [clear_value x; subst x])
      | with_reducible refine unitStep_keeps (landTrans hm (by decide)) _ _ _ ?_
      | with_reducible refine ite_keeps ?_ ?_
      | with_reducible exact Keeps1.of ‹_›

theorem runFly_keeps {m : Nat} {s0 : State} (hm : m.land 65500572678 = 65500572678) (s : State) (n : ℕ) (h_s : Keeps m s0 s) :
    Keeps m s0 (runFly s n) := by
  unfold runFly
  repeat' first
    | with_reducible assumption
    | intro _
    | with_reducible refine forEach_keeps (landTrans hm (by decide)) _ _ _ ?_ ?_
    | with_reducible refine runOne_keeps (landTrans hm (by decide)) _ _ _ _ ?_
    | split

theorem afterBoundary_keeps {m : Nat} {s0 : State} (hm : m.land 8192 = 8192) (s : State) (n : ℕ) (f : Inflight) (h_s : Keeps m s0 s) :
    Keeps m s0 (afterBoundary s n f) := by
  unfold afterBoundary
  repeat' first
    | with_reducible assumption
    | (extract_lets -underBinder +onlyGivenNames x; clear_value x)
    | with_reducible refine setCtx_keeps (landTrans hm (by decide)) _ _ _ ?_
    | with_reducible refine ite_keeps ?_ ?_

theorem commitWrite_keeps {m : Nat} {s0 : State} (hm : m.land 39728448516 = 39728448516) (n : ℕ) (s : State) (w : Staged) (h_s : Keeps m s0 s) :
    Keeps m s0 (commitWrite n s w) := by
  unfold commitWrite
  repeat' first
    | with_reducible assumption
    | with_reducible refine chipWrite_keeps (landTrans hm (by decide)) _ _ _ _ _ _ ?_
    | with_reducible refine homeWrite_keeps (landTrans hm (by decide)) _ _ _ _ ?_
    | with_reducible refine ite_keeps ?_ ?_

theorem treeStep_keeps {m : Nat} {s0 : State} (hm : m.land 39728448516 = 39728448516) (s : State) (r : Config.Red) (h_s : Keeps m s0 s) :
    Keeps1 m s0 (treeStep s r) := by
  unfold treeStep
  repeat' first
    | with_reducible assumption
    | (extract_lets -underBinder +onlyGivenNames x; clear_value x)
    | with_reducible refine homeWrite_keeps (landTrans hm (by decide)) _ _ _ _ ?_
    | with_reducible refine ite_keeps1 ?_ ?_
    | with_reducible refine pair1 ?_

theorem commitOut_keeps {m : Nat} {s0 : State} (hm : m.land 39728448516 = 39728448516) (n : ℕ) (x : ℕ) (s : State) (f : Inflight) (h_s : Keeps m s0 s) :
    Keeps1 m s0 (commitOut n x s f) := by
  unfold commitOut
  repeat' first
    | with_reducible assumption
    | intro _
    | (extract_lets -underBinder +onlyGivenNames x; first
      | (guard_hyp x : State := _; refine (fun (hx : Keeps m s0 x) => ?_) ?_ <;> [clear_value x; subst x])
      | clear_value x)
    | with_reducible refine forEach_keeps (landTrans hm (by decide)) _ _ _ ?_ ?_
    | with_reducible refine commitWrite_keeps (landTrans hm (by decide)) _ _ _ ?_
    | with_reducible refine treeStep_keeps (landTrans hm (by decide)) _ _ ?_
    | split
    | with_reducible refine pair1 ?_

theorem endReplay_keeps {m : Nat} {s0 : State} (hm : m.land 42949682180 = 42949682180) (s : State) (n : ℕ) (x : ℕ) (f : Inflight) (linked : Bool) (h_s : Keeps m s0 s) :
    Keeps m s0 (endReplay s n x f linked) := by
  unfold endReplay
  repeat' first
    | with_reducible assumption
    | (extract_lets -underBinder +onlyGivenNames x; first
      | (guard_hyp x : State := _; refine (fun (hx : Keeps m s0 x) => ?_) ?_ <;> [clear_value x; subst x])
      | clear_value x)
    | with_reducible refine journal_keeps (landTrans hm (by decide)) _ _ ?_
    | with_reducible refine setRep_keeps (landTrans hm (by decide)) _ _ _ ?_
    | with_reducible refine setCtx_keeps (landTrans hm (by decide)) _ _ _ ?_
    | with_reducible refine ite_keeps ?_ ?_
    | split

theorem commitOne_keeps {m : Nat} {s0 : State} (hm : m.land 48318522372 = 48318522372) (n : ℕ) (x : ℕ) (linked : Bool) (s : State) (f : Inflight) (h_s : Keeps m s0 s) :
    Keeps m s0 (commitOne n x linked s f) := by
  unfold commitOne
  repeat' first
    | with_reducible assumption
    | (extract_lets -underBinder +onlyGivenNames x; first
      | (guard_hyp x : State := _; refine (fun (hx : Keeps m s0 x) => ?_) ?_ <;> [clear_value x; subst x])
      | (guard_hyp x : State × ℕ := _; refine (fun (hx : Keeps1 m s0 x) => ?_) ?_ <;> [clear_value x; subst x])
      | clear_value x)
    | with_reducible refine commitOut_keeps (landTrans hm (by decide)) _ _ _ _ ?_
    | with_reducible refine underWins_keeps (landTrans hm (by decide)) _ _ _ ?_
    | with_reducible refine setCtx_keeps (landTrans hm (by decide)) _ _ _ ?_
    | with_reducible refine afterBoundary_keeps (landTrans hm (by decide)) _ _ _ ?_
    | with_reducible refine endReplay_keeps (landTrans hm (by decide)) _ _ _ _ _ ?_
    | with_reducible refine trace_keeps (landTrans hm (by decide)) _ _ _ _ _ _ _ _ _ ?_
    | with_reducible exact Keeps1.of ‹_›
    | fail_if_no_progress (with_reducible refine upd_wins (landTrans hm (by decide)) _ ?_)

theorem signalToken_keeps {m : Nat} {s0 : State} (hm : m.land 12288 = 12288) (s : State) (n : ℕ) (x : ℕ) (c : BitVec 256) (h_s : Keeps m s0 s) :
    KeepsO m s0 (signalToken s n x c) := by
  unfold signalToken
  repeat' first
    | with_reducible assumption
    | (extract_lets -underBinder +onlyGivenNames x; clear_value x)
    | with_reducible refine setClTok_keeps (landTrans hm (by decide)) _ _ _ _ ?_
    | with_reducible refine setCtx_keeps (landTrans hm (by decide)) _ _ _ ?_
    | with_reducible refine ite_keepsO ?_ ?_
    | with_reducible refine some_keeps ?_
    | with_reducible exact none_keeps

theorem signalAll_keeps {m : Nat} {s0 : State} (hm : m.land 60131736580 = 60131736580) (n : ℕ) (x : ℕ) (r : List Inflight) (r1 : State) (h_r1 : Keeps m s0 r1) :
    Keeps m s0 (signalAll n x r r1) := by
  induction r generalizing r1 with
  | nil =>
    unfold signalAll
    repeat' first
      | with_reducible assumption
  | cons b t ih =>
    unfold signalAll
    repeat' first
      | with_reducible assumption
      | with_reducible apply ih
      | with_reducible refine signalToken_keeps (landTrans hm (by decide)) _ _ _ _ ?_
      | with_reducible refine cmdFault_keeps (landTrans hm (by decide)) _ _ _ _ _ _ _ ?_
      | with_reducible refine ofSome ‹_ = some _› ?_
      | split

theorem completeGroup_keeps {m : Nat} {s0 : State} (hm : m.land 65500576774 = 65500576774) (s : State) (n : ℕ) (l : List Inflight) (h_s : Keeps m s0 s) :
    Keeps m s0 (completeGroup s n l) := by
  unfold completeGroup
  repeat' first
    | with_reducible assumption
    | intro _
    | (extract_lets -underBinder +onlyGivenNames x; first
      | (guard_hyp x : State := _; refine (fun (hx : Keeps m s0 x) => ?_) ?_ <;> [clear_value x; subst x])
      | clear_value x)
    | with_reducible refine forEach_keeps (landTrans hm (by decide)) _ _ _ ?_ ?_
    | with_reducible refine commitOne_keeps (landTrans hm (by decide)) _ _ _ _ _ ?_
    | with_reducible refine setCore_keeps (landTrans hm (by decide)) _ _ _ ?_
    | with_reducible refine setHeld_keeps (landTrans hm (by decide)) _ _ _ _ ?_
    | with_reducible refine noteArrayIdle_keeps (landTrans hm (by decide)) _ _ ?_
    | with_reducible refine countFill_keeps (landTrans hm (by decide)) _ _ _ ?_
    | with_reducible refine signalAll_keeps (landTrans hm (by decide)) _ _ _ _ ?_
    | with_reducible refine settleCtx_keeps (landTrans hm (by decide)) _ _ ?_
    | with_reducible refine runFly_keeps (landTrans hm (by decide)) _ _ ?_
    | split

theorem complete_keeps {m : Nat} {s0 : State} (hm : m.land 65500576774 = 65500576774) (s : State) (n : ℕ) (st : ℕ) (h_s : Keeps m s0 s) :
    Keeps m s0 (complete s n st) := by
  unfold complete
  repeat' first
    | with_reducible assumption
    | (extract_lets -underBinder +onlyGivenNames x; clear_value x)
    | with_reducible refine completeGroup_keeps (landTrans hm (by decide)) _ _ _ ?_
    | with_reducible refine ite_keeps ?_ ?_
    | split

end Sys2Proof.Machine
end

