-- ==== Sys2Proof/Laws/KeepsStreams.lean ====
section
/-! SUPPORT. What each operation of Streams.lean keeps: the canonical form, and the parts of the state that it does not name. -/

namespace Sys2Proof.Machine

theorem releaseStall_keeps {m : Nat} {s0 : State} (hm : m.land 10240 = 10240) (s : State) (n : ℕ) (h_s : Keeps m s0 s) :
    Keeps m s0 (releaseStall s n) := by
  unfold releaseStall
  repeat' first
    | with_reducible assumption
    | (extract_lets -underBinder +onlyGivenNames x; first
      | (guard_hyp x : State := _; refine (fun (hx : Keeps m s0 x) => ?_) ?_ <;> [clear_value x; subst x])
      | clear_value x)
    | with_reducible refine setCore_keeps (landTrans hm (by decide)) _ _ _ ?_
    | with_reducible refine setCtx_keeps (landTrans hm (by decide)) _ _ _ ?_
    | with_reducible refine ite_keeps ?_ ?_
    | split

theorem advanceStream_keeps {m : Nat} {s0 : State} (hm : m.land 10240 = 10240) (s : State) (n : ℕ) (x : ℕ) (st : ℕ) (a4 : Head) (h_s : Keeps m s0 s) :
    Keeps m s0 (advanceStream s n x st a4) := by
  unfold advanceStream
  repeat' first
    | with_reducible assumption
    | (extract_lets -underBinder +onlyGivenNames x; clear_value x)
    | with_reducible refine releaseStall_keeps (landTrans hm (by decide)) _ _ ?_
    | with_reducible refine setCtx_keeps (landTrans hm (by decide)) _ _ _ ?_

theorem clearFlags_keeps {m : Nat} {s0 : State} (hm : m.land 8192 = 8192) (s : State) (n : ℕ) (c : ℕ) (v : Word) (h_s : Keeps m s0 s) :
    Keeps m s0 (clearFlags s n c v) := by
  unfold clearFlags
  repeat' first
    | with_reducible assumption
    | (extract_lets -underBinder +onlyGivenNames x; clear_value x)
    | with_reducible refine setCtx_keeps (landTrans hm (by decide)) _ _ _ ?_
    | with_reducible refine ite_keeps ?_ ?_

theorem onDebug_keeps {m : Nat} {s0 : State} (hm : m.land 4 = 4) (s : State) (n : ℕ) (f : State → ℕ → State) (h_s : Keeps m s0 s) (h_f : ∀ x0 x1, Keeps m s0 x0 → Keeps m s0 (f x0 x1)) :
    Keeps m s0 (onDebug s n f) := by
  unfold onDebug
  repeat' first
    | with_reducible assumption
    | (extract_lets -underBinder +onlyGivenNames x; clear_value x)
    | with_reducible refine h_f _ _ ?_
    | with_reducible refine State.set_keeps (landTrans hm (by decide)) _ _ _ _ _ ?_
    | with_reducible refine ite_keeps ?_ ?_

theorem dbgHalt_keeps {m : Nat} {s0 : State} (hm : m.land 2052 = 2052) (s : State) (n : ℕ) (h_s : Keeps m s0 s) :
    Keeps m s0 (dbgHalt s n) := by
  unfold dbgHalt
  repeat' first
    | with_reducible assumption
    | intro _
    | (extract_lets -underBinder +onlyGivenNames x; clear_value x)
    | with_reducible refine onDebug_keeps (landTrans hm (by decide)) _ _ _ ?_ ?_
    | with_reducible refine accumHeld_keeps (landTrans hm (by decide)) _ _ ?_
    | with_reducible refine settleBreak_keeps (landTrans hm (by decide)) _ _ _ ?_
    | with_reducible refine breakAt_keeps (landTrans hm (by decide)) _ _ _ _ _ _ ?_
    | with_reducible refine ite_keeps ?_ ?_

theorem dbgResume_keeps {m : Nat} {s0 : State} (hm : m.land 2052 = 2052) (s : State) (n : ℕ) (h_s : Keeps m s0 s) :
    Keeps m s0 (dbgResume s n) := by
  unfold dbgResume
  repeat' first
    | with_reducible assumption
    | intro _
    | (extract_lets -underBinder +onlyGivenNames x; clear_value x)
    | with_reducible refine onDebug_keeps (landTrans hm (by decide)) _ _ _ ?_ ?_
    | with_reducible refine setHeld_keeps (landTrans hm (by decide)) _ _ _ _ ?_
    | with_reducible refine setCore_keeps (landTrans hm (by decide)) _ _ _ ?_
    | with_reducible refine ite_keeps ?_ ?_

theorem dbgStep_keeps {m : Nat} {s0 : State} (hm : m.land 2052 = 2052) (s : State) (n : ℕ) (h_s : Keeps m s0 s) :
    Keeps m s0 (dbgStep s n) := by
  unfold dbgStep
  repeat' first
    | with_reducible assumption
    | intro _
    | (extract_lets -underBinder +onlyGivenNames x; clear_value x)
    | with_reducible refine onDebug_keeps (landTrans hm (by decide)) _ _ _ ?_ ?_
    | with_reducible refine setCore_keeps (landTrans hm (by decide)) _ _ _ ?_
    | with_reducible refine ite_keeps ?_ ?_

theorem headFault_keeps {m : Nat} {s0 : State} (hm : m.land 60131732484 = 60131732484) (s : State) (n : ℕ) (c : ℕ) (st : ℕ) (a4 : Head) (code : ℕ) (detail : ℕ) (h_s : Keeps m s0 s) :
    Keeps m s0 (headFault s n c st a4 code detail) := by
  unfold headFault
  repeat' first
    | with_reducible assumption
    | (extract_lets -underBinder +onlyGivenNames x; first
      | (guard_hyp x : State := _; refine (fun (hx : Keeps m s0 x) => ?_) ?_ <;> [clear_value x; subst x])
      | clear_value x)
    | with_reducible refine trace_keeps (landTrans hm (by decide)) _ _ _ _ _ _ _ _ _ ?_
    | with_reducible refine teardown_keeps (landTrans hm (by decide)) _ _ _ _ ?_
    | with_reducible refine journal_keeps (landTrans hm (by decide)) _ _ ?_

theorem boundExpiry_keeps {m : Nat} {s0 : State} (hm : m.land 60131732484 = 60131732484) (s : State) (n : ℕ) (st : ℕ) (h_s : Keeps m s0 s) :
    Keeps m s0 (boundExpiry s n st) := by
  unfold boundExpiry
  repeat' first
    | with_reducible assumption
    | (extract_lets -underBinder +onlyGivenNames x; first
      | (guard_hyp x : State := _; refine (fun (hx : Keeps m s0 x) => ?_) ?_ <;> [clear_value x; subst x])
      | clear_value x)
    | with_reducible refine accumHeld_keeps (landTrans hm (by decide)) _ _ ?_
    | with_reducible refine setCore_keeps (landTrans hm (by decide)) _ _ _ ?_
    | with_reducible refine cmdFault_keeps (landTrans hm (by decide)) _ _ _ _ _ _ _ ?_
    | with_reducible refine ite_keeps ?_ ?_
    | split

theorem consume_keeps {m : Nat} {s0 : State} (hm : m.land 12288 = 12288) (s : State) (n : ℕ) (x : ℕ) (c : BitVec 256) (h_s : Keeps m s0 s) :
    Keeps m s0 (consume s n x c) := by
  unfold consume
  repeat' first
    | with_reducible assumption
    | (extract_lets -underBinder +onlyGivenNames x; clear_value x)
    | with_reducible refine setClTok_keeps (landTrans hm (by decide)) _ _ _ _ ?_
    | with_reducible refine setCtx_keeps (landTrans hm (by decide)) _ _ _ ?_
    | with_reducible refine ite_keeps ?_ ?_

theorem savePointers_keeps {m : Nat} {s0 : State} (hm : m.land 8192 = 8192) (s : State) (n : ℕ) (c : ℕ) (h_s : Keeps m s0 s) :
    Keeps m s0 (savePointers s n c) := by
  unfold savePointers
  repeat' first
    | with_reducible assumption
    | (extract_lets -underBinder +onlyGivenNames x; clear_value x)
    | with_reducible refine setCtx_keeps (landTrans hm (by decide)) _ _ _ ?_

theorem contextSwitch_keeps {m : Nat} {s0 : State} (hm : m.land 11268 = 11268) (s : State) (n : ℕ) (h_s : Keeps m s0 s) :
    Keeps m s0 (contextSwitch s n) := by
  unfold contextSwitch
  repeat' first
    | with_reducible assumption
    | (extract_lets -underBinder +onlyGivenNames x; first
      | (guard_hyp x : State := _; refine (fun (hx : Keeps m s0 x) => ?_) ?_ <;> [clear_value x; subst x])
      | clear_value x)
    | with_reducible refine accumHeld_keeps (landTrans hm (by decide)) _ _ ?_
    | with_reducible refine savePointers_keeps (landTrans hm (by decide)) _ _ _ ?_
    | with_reducible refine trace_keeps (landTrans hm (by decide)) _ _ _ _ _ _ _ _ _ ?_
    | with_reducible refine markUnwritten_keeps (landTrans hm (by decide)) _ _ ?_
    | with_reducible refine setCore_keeps (landTrans hm (by decide)) _ _ _ ?_
    | with_reducible refine setHeld_keeps (landTrans hm (by decide)) _ _ _ _ ?_
    | with_reducible refine ite_keeps ?_ ?_
    | split

theorem dynqPush_keeps {m : Nat} {s0 : State} (hm : m.land 60131732484 = 60131732484) (s : State) (n : ℕ) (c : ℕ) (st : ℕ) (high : Bool) (v : Word) (h_s : Keeps m s0 s) :
    Keeps m s0 (dynqPush s n c st high v) := by
  unfold dynqPush
  repeat' first
    | with_reducible assumption
    | (extract_lets -underBinder +onlyGivenNames x; clear_value x)
    | with_reducible refine setCore_keeps (landTrans hm (by decide)) _ _ _ ?_
    | with_reducible refine setCtx_keeps (landTrans hm (by decide)) _ _ _ ?_
    | with_reducible refine ctxFault_keeps (landTrans hm (by decide)) _ _ _ _ _ _ ?_
    | with_reducible refine ite_keeps ?_ ?_

theorem readHeadWord_keeps {m : Nat} {s0 : State} (hm : m.land 65500441604 = 65500441604) (s : State) (n : ℕ) (c : ℕ) (st : ℕ) (a4 : Head) (h_s : Keeps m s0 s) :
    Keeps m s0 (readHeadWord s n c st a4) := by
  unfold readHeadWord
  repeat' first
    | with_reducible assumption
    | (extract_lets -underBinder +onlyGivenNames x; first
      | (guard_hyp x : State × ℕ × List (ℕ × Bytes × Bool) := _; refine (fun (hx : Keeps1 m s0 x) => ?_) ?_ <;> [clear_value x; subst x])
      | clear_value x)
    | with_reducible refine headFault_keeps (landTrans hm (by decide)) _ _ _ _ _ _ _ ?_
    | with_reducible refine readRow_keeps (landTrans hm (by decide)) _ _ _ _ _ ?_
    | with_reducible refine setCtx_keeps (landTrans hm (by decide)) _ _ _ ?_
    | with_reducible refine seePoison_keeps (landTrans hm (by decide)) _ _ _ ?_
    | with_reducible refine ite_keeps ?_ ?_
    | with_reducible exact Keeps1.of ‹_›

theorem issued_keeps {m : Nat} {s0 : State} (hm : m.land 2147497988 = 2147497988) (s : State) (n : ℕ) (c : ℕ) (st : ℕ) (a4 : Head) (h_s : Keeps m s0 s) :
    Keeps m s0 (issued s n c st a4) := by
  unfold issued
  repeat' first
    | with_reducible assumption
    | intro _
    | (extract_lets -underBinder +onlyGivenNames x; first
      | (guard_hyp x : State := _; refine (fun (hx : Keeps m s0 x) => ?_) ?_ <;> [clear_value x; subst x])
      | clear_value x)
    | with_reducible refine forEach_keeps (landTrans hm (by decide)) _ _ _ ?_ ?_
    | with_reducible refine consume_keeps (landTrans hm (by decide)) _ _ _ _ ?_
    | with_reducible refine advanceStream_keeps (landTrans hm (by decide)) _ _ _ _ _ ?_
    | with_reducible refine setCore_keeps (landTrans hm (by decide)) _ _ _ ?_
    | with_reducible refine trace_keeps (landTrans hm (by decide)) _ _ _ _ _ _ _ _ _ ?_
    | with_reducible refine setHeld_keeps (landTrans hm (by decide)) _ _ _ _ ?_
    | with_reducible refine lanternTurn_keeps (landTrans hm (by decide)) _ _ ?_
    | with_reducible refine ite_keeps ?_ ?_
    | fail_if_no_progress (with_reducible refine upd_uids (landTrans hm (by decide)) _ ?_)

theorem launch_keeps {m : Nat} {s0 : State} (hm : m.land 67648060422 = 67648060422) (s : State) (n : ℕ) (c : ℕ) (st : ℕ) (a4 : Head) (h_s : Keeps m s0 s) :
    Keeps m s0 (launch s n c st a4) := by
  unfold launch
  repeat' first
    | with_reducible assumption
    | with_reducible refine runFly_keeps (landTrans hm (by decide)) _ _ ?_
    | with_reducible refine issued_keeps (landTrans hm (by decide)) _ _ _ _ _ ?_

theorem issueHead_keeps {m : Nat} {s0 : State} (hm : m.land 67648060422 = 67648060422) (s : State) (n : ℕ) (st : ℕ) (want : BitVec 256 → Bool) (h_s : Keeps m s0 s) :
    Keeps m s0 (issueHead s n st want) := by
  unfold issueHead
  repeat' first
    | with_reducible assumption
    | (extract_lets -underBinder +onlyGivenNames x; first
      | (guard_hyp x : State := _; refine (fun (hx : Keeps m s0 x) => ?_) ?_ <;> [clear_value x; subst x])
      | clear_value x)
    | with_reducible refine headFault_keeps (landTrans hm (by decide)) _ _ _ _ _ _ _ ?_
    | with_reducible refine readHeadWord_keeps (landTrans hm (by decide)) _ _ _ _ _ ?_
    | with_reducible refine breakAt_keeps (landTrans hm (by decide)) _ _ _ _ _ _ ?_
    | with_reducible refine State.set_keeps (landTrans hm (by decide)) _ _ _ _ _ ?_
    | with_reducible refine launch_keeps (landTrans hm (by decide)) _ _ _ _ _ ?_
    | with_reducible refine ite_keeps ?_ ?_
    | split

theorem issueRow_keeps {m : Nat} {s0 : State} (hm : m.land 67648060422 = 67648060422) (n : ℕ) (st : ℕ) (want : BitVec 256 → Bool) (errs : MemErrs) (s : State) (h_s : Keeps m s0 s) :
    Keeps m s0 (issueRow n st want errs s) := by
  unfold issueRow
  repeat' first
    | with_reducible assumption
    | with_reducible refine accumHeld_keeps (landTrans hm (by decide)) _ _ ?_
    | with_reducible refine issueHead_keeps (landTrans hm (by decide)) _ _ _ _ ?_
    | with_reducible refine memErrors_keeps (landTrans hm (by decide)) _ _ _ ?_
    | with_reducible refine ite_keeps ?_ ?_

theorem execAddi_keeps {m : Nat} {s0 : State} (hm : m.land 67648060422 = 67648060422) (n : ℕ) (s : State) (h_s : Keeps m s0 s) :
    KeepsX m s0 (execAddi n s) :=
  next_keeps (issueRow_keeps hm _ _ _ _ _ h_s)

theorem execArgmax_keeps {m : Nat} {s0 : State} (hm : m.land 67648060422 = 67648060422) (n : ℕ) (s : State) (h_s : Keeps m s0 s) :
    KeepsX m s0 (execArgmax n s) :=
  next_keeps (issueRow_keeps hm _ _ _ _ _ h_s)

theorem execArithFlagsClear_keeps {m : Nat} {s0 : State} (hm : m.land 8192 = 8192) (n : ℕ) (c : ℕ) (v : Word) (s : State) (h_s : Keeps m s0 s) :
    KeepsX m s0 (execArithFlagsClear n c v s) := by
  unfold execArithFlagsClear
  repeat' first
    | with_reducible assumption
    | with_reducible refine clearFlags_keeps (landTrans hm (by decide)) _ _ _ _ ?_
    | with_reducible refine ite_keeps ?_ ?_
    | with_reducible refine next_keeps ?_

theorem execAtomicAdd32_keeps {m : Nat} {s0 : State} (hm : m.land 67648060422 = 67648060422) (n : ℕ) (s : State) (h_s : Keeps m s0 s) :
    KeepsX m s0 (execAtomicAdd32 n s) :=
  next_keeps (issueRow_keeps hm _ _ _ _ _ h_s)

theorem execAtomicAdd64_keeps {m : Nat} {s0 : State} (hm : m.land 67648060422 = 67648060422) (n : ℕ) (s : State) (h_s : Keeps m s0 s) :
    KeepsX m s0 (execAtomicAdd64 n s) :=
  next_keeps (issueRow_keeps hm _ _ _ _ _ h_s)

theorem execAtomicAnd64_keeps {m : Nat} {s0 : State} (hm : m.land 67648060422 = 67648060422) (n : ℕ) (s : State) (h_s : Keeps m s0 s) :
    KeepsX m s0 (execAtomicAnd64 n s) :=
  next_keeps (issueRow_keeps hm _ _ _ _ _ h_s)

theorem execAtomicCas64_keeps {m : Nat} {s0 : State} (hm : m.land 67648060422 = 67648060422) (n : ℕ) (s : State) (h_s : Keeps m s0 s) :
    KeepsX m s0 (execAtomicCas64 n s) :=
  next_keeps (issueRow_keeps hm _ _ _ _ _ h_s)

theorem execAtomicMaxu64_keeps {m : Nat} {s0 : State} (hm : m.land 67648060422 = 67648060422) (n : ℕ) (s : State) (h_s : Keeps m s0 s) :
    KeepsX m s0 (execAtomicMaxu64 n s) :=
  next_keeps (issueRow_keeps hm _ _ _ _ _ h_s)

theorem execAtomicMinu64_keeps {m : Nat} {s0 : State} (hm : m.land 67648060422 = 67648060422) (n : ℕ) (s : State) (h_s : Keeps m s0 s) :
    KeepsX m s0 (execAtomicMinu64 n s) :=
  next_keeps (issueRow_keeps hm _ _ _ _ _ h_s)

theorem execAtomicOr64_keeps {m : Nat} {s0 : State} (hm : m.land 67648060422 = 67648060422) (n : ℕ) (s : State) (h_s : Keeps m s0 s) :
    KeepsX m s0 (execAtomicOr64 n s) :=
  next_keeps (issueRow_keeps hm _ _ _ _ _ h_s)

theorem execAtomicSwap64_keeps {m : Nat} {s0 : State} (hm : m.land 67648060422 = 67648060422) (n : ℕ) (s : State) (h_s : Keeps m s0 s) :
    KeepsX m s0 (execAtomicSwap64 n s) :=
  next_keeps (issueRow_keeps hm _ _ _ _ _ h_s)

theorem execAtomicXor64_keeps {m : Nat} {s0 : State} (hm : m.land 67648060422 = 67648060422) (n : ℕ) (s : State) (h_s : Keeps m s0 s) :
    KeepsX m s0 (execAtomicXor64 n s) :=
  next_keeps (issueRow_keeps hm _ _ _ _ _ h_s)

theorem execBfpCompress_keeps {m : Nat} {s0 : State} (hm : m.land 67648060422 = 67648060422) (n : ℕ) (s : State) (h_s : Keeps m s0 s) :
    KeepsX m s0 (execBfpCompress n s) :=
  next_keeps (issueRow_keeps hm _ _ _ _ _ h_s)

theorem execBfpExpand_keeps {m : Nat} {s0 : State} (hm : m.land 67648060422 = 67648060422) (n : ℕ) (s : State) (h_s : Keeps m s0 s) :
    KeepsX m s0 (execBfpExpand n s) :=
  next_keeps (issueRow_keeps hm _ _ _ _ _ h_s)

theorem execBoundary_keeps {m : Nat} {s0 : State} (hm : m.land 67648060422 = 67648060422) (n : ℕ) (stream : ℕ) (s : State) (h_s : Keeps m s0 s) :
    KeepsX m s0 (execBoundary n stream s) :=
  next_keeps (issueRow_keeps hm _ _ _ _ _ h_s)

theorem execCommandComplete_keeps {m : Nat} {s0 : State} (hm : m.land 65500576774 = 65500576774) (n : ℕ) (stream : ℕ) (s : State) (h_s : Keeps m s0 s) :
    KeepsX m s0 (execCommandComplete n stream s) := by
  unfold execCommandComplete
  repeat' first
    | with_reducible assumption
    | with_reducible refine accumHeld_keeps (landTrans hm (by decide)) _ _ ?_
    | with_reducible refine complete_keeps (landTrans hm (by decide)) _ _ _ ?_
    | with_reducible refine next_keeps ?_

theorem execContextSwitch_keeps {m : Nat} {s0 : State} (hm : m.land 11268 = 11268) (n : ℕ) (s : State) (h_s : Keeps m s0 s) :
    KeepsX m s0 (execContextSwitch n s) :=
  next_keeps (contextSwitch_keeps hm _ _ h_s)

theorem onDataq_keeps {m : Nat} {s0 : State} (hm : m.land 65500572678 = 65500572678) (s : State) (n : ℕ) (q : ℕ) (f : DataQ → Option DataQ) (held : Bool) (h_s : Keeps m s0 s) :
    Keeps m s0 (onDataq s n q f held) := by
  unfold onDataq
  repeat' first
    | with_reducible assumption
    | (extract_lets -underBinder +onlyGivenNames x; first
      | (guard_hyp x : State := _; refine (fun (hx : Keeps m s0 x) => ?_) ?_ <;> [clear_value x; subst x])
      | clear_value x)
    | with_reducible refine accumHeld_keeps (landTrans hm (by decide)) _ _ ?_
    | with_reducible refine putDataq_keeps (landTrans hm (by decide)) _ _ _ _ ?_
    | with_reducible refine runFly_keeps (landTrans hm (by decide)) _ _ ?_
    | with_reducible refine setHeld_keeps (landTrans hm (by decide)) _ _ _ _ ?_
    | with_reducible refine ite_keeps ?_ ?_
    | split

theorem execDataqFree_keeps {m : Nat} {s0 : State} (hm : m.land 65500572678 = 65500572678) (n : ℕ) (q : ℕ) (s : State) (h_s : Keeps m s0 s) :
    KeepsX m s0 (execDataqFree n q s) :=
  next_keeps (onDataq_keeps hm _ _ _ _ _ h_s)

theorem execDataqPush_keeps {m : Nat} {s0 : State} (hm : m.land 65500572678 = 65500572678) (n : ℕ) (q : ℕ) (s : State) (h_s : Keeps m s0 s) :
    KeepsX m s0 (execDataqPush n q s) :=
  next_keeps (onDataq_keeps hm _ _ _ _ _ h_s)

theorem execDbgHalt_keeps {m : Nat} {s0 : State} (hm : m.land 2052 = 2052) (n : ℕ) (s : State) (h_s : Keeps m s0 s) :
    KeepsX m s0 (execDbgHalt n s) :=
  next_keeps (dbgHalt_keeps hm _ _ h_s)

theorem execDbgResume_keeps {m : Nat} {s0 : State} (hm : m.land 2052 = 2052) (n : ℕ) (s : State) (h_s : Keeps m s0 s) :
    KeepsX m s0 (execDbgResume n s) :=
  next_keeps (dbgResume_keeps hm _ _ h_s)

theorem execDbgStep_keeps {m : Nat} {s0 : State} (hm : m.land 2052 = 2052) (n : ℕ) (s : State) (h_s : Keeps m s0 s) :
    KeepsX m s0 (execDbgStep n s) :=
  next_keeps (dbgStep_keeps hm _ _ h_s)

theorem execDynq_keeps {m : Nat} {s0 : State} (hm : m.land 67648060422 = 67648060422) (n : ℕ) (stream : ℕ) (s : State) (h_s : Keeps m s0 s) :
    KeepsX m s0 (execDynq n stream s) :=
  next_keeps (issueRow_keeps hm _ _ _ _ _ h_s)

theorem execDynqPush_keeps {m : Nat} {s0 : State} (hm : m.land 60131732484 = 60131732484) (n : ℕ) (c : ℕ) (stream : ℕ) (high : Bool) (v : Word) (s : State) (h_s : Keeps m s0 s) :
    KeepsX m s0 (execDynqPush n c stream high v s) := by
  unfold execDynqPush
  repeat' first
    | with_reducible assumption
    | with_reducible refine dynqPush_keeps (landTrans hm (by decide)) _ _ _ _ _ _ ?_
    | with_reducible refine ite_keeps ?_ ?_
    | with_reducible refine next_keeps ?_

theorem execEwAdd_keeps {m : Nat} {s0 : State} (hm : m.land 67648060422 = 67648060422) (n : ℕ) (s : State) (h_s : Keeps m s0 s) :
    KeepsX m s0 (execEwAdd n s) :=
  next_keeps (issueRow_keeps hm _ _ _ _ _ h_s)

theorem execEwFma_keeps {m : Nat} {s0 : State} (hm : m.land 67648060422 = 67648060422) (n : ℕ) (s : State) (h_s : Keeps m s0 s) :
    KeepsX m s0 (execEwFma n s) :=
  next_keeps (issueRow_keeps hm _ _ _ _ _ h_s)

theorem execEwMul_keeps {m : Nat} {s0 : State} (hm : m.land 67648060422 = 67648060422) (n : ℕ) (s : State) (h_s : Keeps m s0 s) :
    KeepsX m s0 (execEwMul n s) :=
  next_keeps (issueRow_keeps hm _ _ _ _ _ h_s)

theorem execExp_keeps {m : Nat} {s0 : State} (hm : m.land 67648060422 = 67648060422) (n : ℕ) (s : State) (h_s : Keeps m s0 s) :
    KeepsX m s0 (execExp n s) :=
  next_keeps (issueRow_keeps hm _ _ _ _ _ h_s)

theorem execFence_keeps {m : Nat} {s0 : State} (hm : m.land 67648060422 = 67648060422) (n : ℕ) (s : State) (h_s : Keeps m s0 s) :
    KeepsX m s0 (execFence n s) :=
  next_keeps (issueRow_keeps hm _ _ _ _ _ h_s)

theorem execFill_keeps {m : Nat} {s0 : State} (hm : m.land 67648060422 = 67648060422) (n : ℕ) (s : State) (h_s : Keeps m s0 s) :
    KeepsX m s0 (execFill n s) :=
  next_keeps (issueRow_keeps hm _ _ _ _ _ h_s)

theorem execGelu_keeps {m : Nat} {s0 : State} (hm : m.land 67648060422 = 67648060422) (n : ℕ) (s : State) (h_s : Keeps m s0 s) :
    KeepsX m s0 (execGelu n s) :=
  next_keeps (issueRow_keeps hm _ _ _ _ _ h_s)

theorem heldTimeout_keeps {m : Nat} {s0 : State} (hm : m.land 60131732484 = 60131732484) (s : State) (n : ℕ) (h_s : Keeps m s0 s) :
    Keeps m s0 (heldTimeout s n) := by
  unfold heldTimeout
  repeat' first
    | with_reducible assumption
    | (extract_lets -underBinder +onlyGivenNames x; first
      | (guard_hyp x : State := _; refine (fun (hx : Keeps m s0 x) => ?_) ?_ <;> [clear_value x; subst x])
      | clear_value x)
    | with_reducible refine accumHeld_keeps (landTrans hm (by decide)) _ _ ?_
    | with_reducible refine ctxFault_keeps (landTrans hm (by decide)) _ _ _ _ _ _ ?_
    | with_reducible refine ite_keeps ?_ ?_
    | split

theorem execHeldTimeout_keeps {m : Nat} {s0 : State} (hm : m.land 60131732484 = 60131732484) (n : ℕ) (s : State) (h_s : Keeps m s0 s) :
    KeepsX m s0 (execHeldTimeout n s) :=
  next_keeps (heldTimeout_keeps hm _ _ h_s)

theorem execLanternLevelStep_keeps {m : Nat} {s0 : State} (hm : m.land 65500572678 = 65500572678) (n : ℕ) (s : State) (h_s : Keeps m s0 s) :
    KeepsX m s0 (execLanternLevelStep n s) := by
  unfold execLanternLevelStep
  repeat' first
    | with_reducible assumption
    | with_reducible refine runFly_keeps (landTrans hm (by decide)) _ _ ?_
    | with_reducible refine lanternStep_keeps (landTrans hm (by decide)) _ _ ?_
    | with_reducible refine next_keeps ?_

theorem execNop_keeps {m : Nat} {s0 : State} (hm : m.land 67648060422 = 67648060422) (n : ℕ) (stream : ℕ) (s : State) (h_s : Keeps m s0 s) :
    KeepsX m s0 (execNop n stream s) :=
  next_keeps (issueRow_keeps hm _ _ _ _ _ h_s)

theorem execRecip_keeps {m : Nat} {s0 : State} (hm : m.land 67648060422 = 67648060422) (n : ℕ) (s : State) (h_s : Keeps m s0 s) :
    KeepsX m s0 (execRecip n s) :=
  next_keeps (issueRow_keeps hm _ _ _ _ _ h_s)

theorem execRmax_keeps {m : Nat} {s0 : State} (hm : m.land 67648060422 = 67648060422) (n : ℕ) (s : State) (h_s : Keeps m s0 s) :
    KeepsX m s0 (execRmax n s) :=
  next_keeps (issueRow_keeps hm _ _ _ _ _ h_s)

theorem execRsqrt_keeps {m : Nat} {s0 : State} (hm : m.land 67648060422 = 67648060422) (n : ℕ) (s : State) (h_s : Keeps m s0 s) :
    KeepsX m s0 (execRsqrt n s) :=
  next_keeps (issueRow_keeps hm _ _ _ _ _ h_s)

theorem execRsum_keeps {m : Nat} {s0 : State} (hm : m.land 67648060422 = 67648060422) (n : ℕ) (s : State) (h_s : Keeps m s0 s) :
    KeepsX m s0 (execRsum n s) :=
  next_keeps (issueRow_keeps hm _ _ _ _ _ h_s)

theorem execRsumsq_keeps {m : Nat} {s0 : State} (hm : m.land 67648060422 = 67648060422) (n : ℕ) (s : State) (h_s : Keeps m s0 s) :
    KeepsX m s0 (execRsumsq n s) :=
  next_keeps (issueRow_keeps hm _ _ _ _ _ h_s)

theorem execScale_keeps {m : Nat} {s0 : State} (hm : m.land 67648060422 = 67648060422) (n : ℕ) (s : State) (h_s : Keeps m s0 s) :
    KeepsX m s0 (execScale n s) :=
  next_keeps (issueRow_keeps hm _ _ _ _ _ h_s)

theorem execSignal_keeps {m : Nat} {s0 : State} (hm : m.land 67648060422 = 67648060422) (n : ℕ) (s : State) (h_s : Keeps m s0 s) :
    KeepsX m s0 (execSignal n s) :=
  next_keeps (issueRow_keeps hm _ _ _ _ _ h_s)

theorem execTanh_keeps {m : Nat} {s0 : State} (hm : m.land 67648060422 = 67648060422) (n : ℕ) (s : State) (h_s : Keeps m s0 s) :
    KeepsX m s0 (execTanh n s) :=
  next_keeps (issueRow_keeps hm _ _ _ _ _ h_s)

theorem execTenantBoundExpiry_keeps {m : Nat} {s0 : State} (hm : m.land 60131732484 = 60131732484) (n : ℕ) (stream : ℕ) (s : State) (h_s : Keeps m s0 s) :
    KeepsX m s0 (execTenantBoundExpiry n stream s) :=
  next_keeps (boundExpiry_keeps hm _ _ _ h_s)

theorem execVecAdd_keeps {m : Nat} {s0 : State} (hm : m.land 67648060422 = 67648060422) (n : ℕ) (s : State) (h_s : Keeps m s0 s) :
    KeepsX m s0 (execVecAdd n s) :=
  next_keeps (issueRow_keeps hm _ _ _ _ _ h_s)

theorem execVecConvert_keeps {m : Nat} {s0 : State} (hm : m.land 67648060422 = 67648060422) (n : ℕ) (s : State) (h_s : Keeps m s0 s) :
    KeepsX m s0 (execVecConvert n s) :=
  next_keeps (issueRow_keeps hm _ _ _ _ _ h_s)

theorem execVecFma_keeps {m : Nat} {s0 : State} (hm : m.land 67648060422 = 67648060422) (n : ℕ) (s : State) (h_s : Keeps m s0 s) :
    KeepsX m s0 (execVecFma n s) :=
  next_keeps (issueRow_keeps hm _ _ _ _ _ h_s)

theorem execVecMax_keeps {m : Nat} {s0 : State} (hm : m.land 67648060422 = 67648060422) (n : ℕ) (s : State) (h_s : Keeps m s0 s) :
    KeepsX m s0 (execVecMax n s) :=
  next_keeps (issueRow_keeps hm _ _ _ _ _ h_s)

theorem execVecMin_keeps {m : Nat} {s0 : State} (hm : m.land 67648060422 = 67648060422) (n : ℕ) (s : State) (h_s : Keeps m s0 s) :
    KeepsX m s0 (execVecMin n s) :=
  next_keeps (issueRow_keeps hm _ _ _ _ _ h_s)

theorem execVecMul_keeps {m : Nat} {s0 : State} (hm : m.land 67648060422 = 67648060422) (n : ℕ) (s : State) (h_s : Keeps m s0 s) :
    KeepsX m s0 (execVecMul n s) :=
  next_keeps (issueRow_keeps hm _ _ _ _ _ h_s)

theorem execVecSub_keeps {m : Nat} {s0 : State} (hm : m.land 67648060422 = 67648060422) (n : ℕ) (s : State) (h_s : Keeps m s0 s) :
    KeepsX m s0 (execVecSub n s) :=
  next_keeps (issueRow_keeps hm _ _ _ _ _ h_s)

theorem execWaitMem_keeps {m : Nat} {s0 : State} (hm : m.land 67648060422 = 67648060422) (n : ℕ) (s : State) (h_s : Keeps m s0 s) :
    KeepsX m s0 (execWaitMem n s) :=
  next_keeps (issueRow_keeps hm _ _ _ _ _ h_s)

theorem waitMemPoll_keeps {m : Nat} {s0 : State} (hm : m.land 65500572678 = 65500572678) (s : State) (n : ℕ) (h_s : Keeps m s0 s) :
    Keeps m s0 (waitMemPoll s n) := by
  unfold waitMemPoll
  repeat' first
    | with_reducible assumption
    | intro _
    | (extract_lets -underBinder +onlyGivenNames x; guard_hyp x : State := _; refine (fun (hx : Keeps m s0 x) => ?_) ?_ <;> [clear_value x; subst x])
    | with_reducible refine forEach_keeps (landTrans hm (by decide)) _ _ _ ?_ ?_
    | with_reducible refine readHeadWord_keeps (landTrans hm (by decide)) _ _ _ _ _ ?_
    | with_reducible refine accumHeld_keeps (landTrans hm (by decide)) _ _ ?_
    | with_reducible refine runFly_keeps (landTrans hm (by decide)) _ _ ?_
    | with_reducible refine ite_keeps ?_ ?_
    | split

theorem execWaitMemPoll_keeps {m : Nat} {s0 : State} (hm : m.land 65500572678 = 65500572678) (n : ℕ) (s : State) (h_s : Keeps m s0 s) :
    KeepsX m s0 (execWaitMemPoll n s) :=
  next_keeps (waitMemPoll_keeps hm _ _ h_s)

end Sys2Proof.Machine
end

