-- ==== Sys2Proof/Laws/KeepsTenant.lean ====
section
/-! SUPPORT. What each operation of Tenant.lean keeps: the canonical form, and the parts of the state that it does not name. -/

namespace Sys2Proof.Machine

theorem fnRegsReset_keeps {m : Nat} {s0 : State} (hm : m.land 4194316 = 4194316) (s : State) (f : ℕ) (h_s : Keeps m s0 s) :
    Keeps m s0 (fnRegsReset s f) := by
  unfold fnRegsReset
  repeat' first
    | (intro w; simp only [State.wf, Mems.wf, Bool.and_eq_true] at w; try simp only [Mems.wf, Bool.and_eq_true]
       first | (simp [w.1, w.2, w, wrBytes_wf, wrM_wf, poisonWrite_wf, mapDropRange, mapFilter_wf, mapPut_wf]; done) | (simp at w; simp [w, wrBytes_wf, wrM_wf, poisonWrite_wf, mapDropRange, mapFilter_wf, mapPut_wf]; done))
    | with_reducible assumption
    | (extract_lets -underBinder +onlyGivenNames x; first
      | (guard_hyp x : State := _; refine (fun (hx : Keeps m s0 x) => ?_) ?_ <;> [clear_value x; subst x])
      | clear_value x)
    | with_reducible refine State.set_keeps (landTrans hm (by decide)) _ _ _ _ _ ?_
    | with_reducible refine setFnState_keeps (landTrans hm (by decide)) _ _ _ ?_
    | fail_if_no_progress (with_reducible refine upd_regs_behaveReset_upset (landTrans hm (by decide)) _ _ _ ?_ ?_)

theorem removeEnd_keeps {m : Nat} {s0 : State} (hm : m.land 17180327940 = 17180327940) (s : State) (t : ℕ) (h_s : Keeps m s0 s) :
    Keeps m s0 (removeEnd s t) := by
  unfold removeEnd
  repeat' first
    | (intro w; simp only [State.wf, Mems.wf, Bool.and_eq_true] at w; try simp only [Mems.wf, Bool.and_eq_true]
       first | (simp [w.1, w.2, w, wrBytes_wf, wrM_wf, poisonWrite_wf, mapDropRange, mapFilter_wf, mapPut_wf]; done) | (simp at w; simp [w, wrBytes_wf, wrM_wf, poisonWrite_wf, mapDropRange, mapFilter_wf, mapPut_wf]; done))
    | with_reducible assumption
    | intro _
    | (extract_lets -underBinder +onlyGivenNames x; first
      | (guard_hyp x : State := _; refine (fun (hx : Keeps m s0 x) => ?_) ?_ <;> [clear_value x; subst x])
      | clear_value x)
    | with_reducible refine forEach_keeps (landTrans hm (by decide)) _ _ _ ?_ ?_
    | with_reducible refine setWin_keeps (landTrans hm (by decide)) _ _ _ _ ?_
    | with_reducible refine setFn_keeps (landTrans hm (by decide)) _ _ _ ?_
    | with_reducible refine State.set_keeps (landTrans hm (by decide)) _ _ _ _ _ ?_
    | with_reducible refine mbxEnd_keeps (landTrans hm (by decide)) _ _ _ ?_
    | with_reducible refine ite_keeps ?_ ?_
    | fail_if_no_progress (with_reducible refine upd_winPend (landTrans hm (by decide)) _ ?_)
    | fail_if_no_progress (with_reducible refine upd_regs (landTrans hm (by decide)) _ ?_ ?_)

theorem flrFinish_keeps {m : Nat} {s0 : State} (hm : m.land 60269489164 = 60269489164) (s : State) (f : ℕ) (h_s : Keeps m s0 s) :
    Keeps m s0 (flrFinish s f) := by
  unfold flrFinish
  repeat' first
    | with_reducible assumption
    | intro _
    | (extract_lets -underBinder +onlyGivenNames x; first
      | (guard_hyp x : State := _; refine (fun (hx : Keeps m s0 x) => ?_) ?_ <;> [clear_value x; subst x])
      | clear_value x)
    | with_reducible refine forEach_keeps (landTrans hm (by decide)) _ _ _ ?_ ?_
    | with_reducible refine countJob_keeps (landTrans hm (by decide)) _ _ _ ?_
    | with_reducible refine freeGroup_keeps (landTrans hm (by decide)) _ _ ?_
    | with_reducible refine dropBead_keeps (landTrans hm (by decide)) _ _ ?_
    | with_reducible refine sjClear_keeps (landTrans hm (by decide)) _ _ ?_
    | with_reducible refine fnRegsReset_keeps (landTrans hm (by decide)) _ _ ?_
    | with_reducible refine setFn_keeps (landTrans hm (by decide)) _ _ _ ?_
    | with_reducible refine removeEnd_keeps (landTrans hm (by decide)) _ _ ?_
    | with_reducible refine freezeSettle_keeps (landTrans hm (by decide)) _ _ ?_
    | with_reducible refine settleStop_keeps (landTrans hm (by decide)) _ _ ?_
    | with_reducible refine ite_keeps ?_ ?_

theorem flrSettle_keeps {m : Nat} {s0 : State} (hm : m.land 60269489164 = 60269489164) (s : State) (f : ℕ) (h_s : Keeps m s0 s) :
    Keeps m s0 (flrSettle s f) := by
  unfold flrSettle
  repeat' first
    | with_reducible assumption
    | with_reducible refine flrFinish_keeps (landTrans hm (by decide)) _ _ ?_
    | with_reducible refine ite_keeps ?_ ?_

theorem flrSquash_keeps {m : Nat} {s0 : State} (hm : m.land 92164 = 92164) (s : State) (f : ℕ) (h_s : Keeps m s0 s) :
    Keeps m s0 (flrSquash s f) := by
  unfold flrSquash
  repeat' first
    | with_reducible assumption
    | intro _
    | (extract_lets -underBinder +onlyGivenNames x; first
      | (guard_hyp x : State := _; refine (fun (hx : Keeps m s0 x) => ?_) ?_ <;> [clear_value x; subst x])
      | clear_value x)
    | with_reducible refine forEach_keeps (landTrans hm (by decide)) _ _ _ ?_ ?_
    | with_reducible refine setCtx_keeps (landTrans hm (by decide)) _ _ _ ?_
    | with_reducible refine countJob_keeps (landTrans hm (by decide)) _ _ _ ?_
    | with_reducible refine setGroup_keeps (landTrans hm (by decide)) _ _ _ ?_
    | with_reducible refine abandon_keeps (landTrans hm (by decide)) _ _ _ _ ?_
    | with_reducible refine setFn_keeps (landTrans hm (by decide)) _ _ _ ?_

theorem pfSettle_keeps {m : Nat} {s0 : State} (hm : m.land 60269489164 = 60269489164) (s : State) (h_s : Keeps m s0 s) :
    Keeps m s0 (pfSettle s) := by
  unfold pfSettle
  repeat' first
    | with_reducible assumption
    | with_reducible refine flrSettle_keeps (landTrans hm (by decide)) _ _ ?_
    | with_reducible refine flrSquash_keeps (landTrans hm (by decide)) _ _ ?_
    | with_reducible refine ite_keeps ?_ ?_

theorem flrSettleAll_keeps {m : Nat} {s0 : State} (hm : m.land 60269489164 = 60269489164) (s : State) (h_s : Keeps m s0 s) :
    Keeps m s0 (flrSettleAll s) := by
  unfold flrSettleAll
  repeat' first
    | with_reducible assumption
    | intro _
    | with_reducible refine flrSettle_keeps (landTrans hm (by decide)) _ _ ?_
    | with_reducible refine pfSettle_keeps (landTrans hm (by decide)) _ ?_
    | with_reducible refine forEach_keeps (landTrans hm (by decide)) _ _ _ ?_ ?_

theorem flrRequest_keeps {m : Nat} {s0 : State} (hm : m.land 92164 = 92164) (s : State) (f : ℕ) (remove : Bool) (h_s : Keeps m s0 s) :
    Keeps m s0 (flrRequest s f remove) := by
  unfold flrRequest
  repeat' first
    | with_reducible assumption
    | (extract_lets -underBinder +onlyGivenNames x; first
      | (guard_hyp x : State := _; refine (fun (hx : Keeps m s0 x) => ?_) ?_ <;> [clear_value x; subst x])
      | clear_value x)
    | with_reducible refine setFn_keeps (landTrans hm (by decide)) _ _ _ ?_
    | with_reducible refine setFnState_keeps (landTrans hm (by decide)) _ _ _ ?_
    | with_reducible refine flrSquash_keeps (landTrans hm (by decide)) _ _ ?_
    | with_reducible refine ite_keeps ?_ ?_

theorem tenantRemove_keeps {m : Nat} {s0 : State} (hm : m.land 60269489164 = 60269489164) (s : State) (h_s : Keeps m s0 s) :
    Keeps m s0 (tenantRemove s) := by
  unfold tenantRemove
  repeat' first
    | with_reducible assumption
    | (extract_lets -underBinder +onlyGivenNames x; clear_value x)
    | with_reducible refine flrSettleAll_keeps (landTrans hm (by decide)) _ ?_
    | with_reducible refine flrRequest_keeps (landTrans hm (by decide)) _ _ _ ?_
    | with_reducible refine State.set_keeps (landTrans hm (by decide)) _ _ _ _ _ ?_

theorem execTenantRemove_keeps {m : Nat} {s0 : State} (hm : m.land 8856362511372 = 8856362511372) (rq : Requester) (s : State) (h_s : Keeps m s0 s) :
    KeepsX m s0 (execTenantRemove rq s) := by
  unfold execTenantRemove
  repeat' first
    | with_reducible assumption
    | intro _
    | with_reducible refine mbxCommand_keeps (landTrans hm (by decide)) _ _ _ _ _ ?_ ?_
    | with_reducible refine tenantRemove_keeps (landTrans hm (by decide)) _ ?_
    | with_reducible refine next_keeps ?_

theorem tenantSave_keeps {m : Nat} {s0 : State} (hm : m.land 57176753156 = 57176753156) (s : State) (h_s : Keeps m s0 s) :
    Keeps m s0 (tenantSave s) := by
  unfold tenantSave
  repeat' first
    | with_reducible assumption
    | intro _
    | (extract_lets -underBinder +onlyGivenNames x; first
      | (guard_hyp x : State := _; refine (fun (hx : Keeps m s0 x) => ?_) ?_ <;> [clear_value x; subst x])
      | clear_value x)
    | with_reducible refine mbxEnd_keeps (landTrans hm (by decide)) _ _ _ ?_
    | with_reducible refine forEach_keeps (landTrans hm (by decide)) _ _ _ ?_ ?_
    | with_reducible refine sjEnd_keeps (landTrans hm (by decide)) _ _ ?_
    | with_reducible refine seeBead_keeps (landTrans hm (by decide)) _ _ ?_
    | with_reducible refine homeWrite_keeps (landTrans hm (by decide)) _ _ _ _ ?_
    | with_reducible refine State.set_keeps (landTrans hm (by decide)) _ _ _ _ _ ?_
    | with_reducible refine ite_keeps ?_ ?_

theorem execTenantSave_keeps {m : Nat} {s0 : State} (hm : m.land 8853269775364 = 8853269775364) (rq : Requester) (s : State) (h_s : Keeps m s0 s) :
    KeepsX m s0 (execTenantSave rq s) := by
  unfold execTenantSave
  repeat' first
    | with_reducible assumption
    | intro _
    | with_reducible refine mbxCommand_keeps (landTrans hm (by decide)) _ _ _ _ _ ?_ ?_
    | with_reducible refine tenantSave_keeps (landTrans hm (by decide)) _ ?_
    | with_reducible refine next_keeps ?_

theorem stepRestore_keeps {m : Nat} {s0 : State} (hm : m.land 134217732 = 134217732) (s : State) (j : ℕ) (h_s : Keeps m s0 s) :
    Keeps m s0 (stepRestore s j) := by
  unfold stepRestore
  repeat' first
    | with_reducible assumption
    | (extract_lets -underBinder +onlyGivenNames x; clear_value x)
    | with_reducible refine sjPublish_keeps (landTrans hm (by decide)) _ _ ?_
    | with_reducible refine State.set_keeps (landTrans hm (by decide)) _ _ _ _ _ ?_
    | with_reducible refine setSj_keeps (landTrans hm (by decide)) _ _ _ ?_

theorem restoreDone_keeps {m : Nat} {s0 : State} (hm : m.land 17314086916 = 17314086916) (s : State) (t : ℕ) (b : Bytes) (s3 : State) (h_s : Keeps m s0 s) (h_s3 : Keeps m s0 s3) :
    Keeps m s0 (restoreDone s t b s3) := by
  unfold restoreDone
  repeat' first
    | with_reducible assumption
    | intro _
    | (extract_lets -underBinder +onlyGivenNames x; first
      | (guard_hyp x : State := _; refine (fun (hx : Keeps m s0 x) => ?_) ?_ <;> [clear_value x; subst x])
      | clear_value x)
    | with_reducible refine State.set2_keeps (landTrans hm (by decide)) _ _ _ _ _ _ ?_
    | with_reducible refine forEach_keeps (landTrans hm (by decide)) _ _ _ ?_ ?_
    | with_reducible refine sjPublish_keeps (landTrans hm (by decide)) _ _ ?_
    | with_reducible refine mbxEnd_keeps (landTrans hm (by decide)) _ _ _ ?_
    | with_reducible refine State.set_keeps (landTrans hm (by decide)) _ _ _ _ _ ?_
    | with_reducible refine stepRestore_keeps (landTrans hm (by decide)) _ _ ?_

theorem restoreBeads_keeps {m : Nat} {s0 : State} (hm : m.land 17314086916 = 17314086916) (s : State) (t : ℕ) (b : Bytes) (o : Option State) (h_s : Keeps m s0 s) (h_o : KeepsO m s0 o) :
    Keeps m s0 (restoreBeads s t b o) := by
  unfold restoreBeads
  repeat' first
    | with_reducible assumption
    | with_reducible refine mbxEnd_keeps (landTrans hm (by decide)) _ _ _ ?_
    | with_reducible refine restoreDone_keeps (landTrans hm (by decide)) _ _ _ _ ?_ ?_
    | with_reducible exact KeepsO.of ‹_› _ rfl
    | split

theorem beadRestore_keeps {m : Nat} {s0 : State} (hm : m.land 134218756 = 134218756) (s : State) (t : ℕ) (j : ℕ) (r : Bytes) (h_s : Keeps m s0 s) :
    KeepsO m s0 (beadRestore s t j r) := by
  unfold beadRestore
  repeat' first
    | with_reducible assumption
    | intro _
    | (extract_lets -underBinder +onlyGivenNames x; first
      | (guard_hyp x : State := _; refine (fun (hx : Keeps m s0 x) => ?_) ?_ <;> [clear_value x; subst x])
      | clear_value x)
    | with_reducible refine beadCount_keeps (landTrans hm (by decide)) _ _ ?_
    | with_reducible refine devStore_keeps (landTrans hm (by decide)) _ _ _ _ ?_
    | with_reducible refine bput_keeps (landTrans hm (by decide)) _ _ _ _ ?_
    | with_reducible refine markPages_keeps (landTrans hm (by decide)) _ _ _ _ ?_
    | with_reducible refine ite_keeps ?_ ?_
    | with_reducible refine some_keeps ?_
    | with_reducible exact none_keeps
    | split
    | with_reducible refine pair1 ?_
    | with_reducible refine Keeps1.of (withPages_keeps (landTrans hm (by decide)) _ _ _ _ ?_ ?_)

theorem beadsRestore_keeps {m : Nat} {s0 : State} (hm : m.land 134218756 = 134218756) (t : ℕ) (r : List (Bytes × ℕ)) (r1 : State) (h_r1 : Keeps m s0 r1) :
    KeepsO m s0 (beadsRestore t r r1) := by
  induction r generalizing r1 with
  | nil =>
    unfold beadsRestore
    repeat' first
      | with_reducible assumption
      | with_reducible refine some_keeps ?_
  | cons b t ih =>
    unfold beadsRestore
    repeat' first
      | with_reducible assumption
      | with_reducible refine beadRestore_keeps (landTrans hm (by decide)) _ _ _ _ ?_
      | with_reducible refine bind_keeps ?_ ?_

theorem poisonAll_wf {m : SMap Bool} (l : List Nat) (f : Nat → Nat) (n : Nat) (bad : Bool) (h : mapWf clean0 m = true) :
    mapWf clean0 (l.foldl (fun m g => poisonWrite m (f g) n bad) m) = true := by
  induction l generalizing m with
  | nil => exact h
  | cons g t ih => exact ih (poisonWrite_wf _ _ _ h)

theorem memRestore_keeps {m : Nat} {s0 : State} (hm : m.land 1024 = 1024) (t src : ℕ) (b : Bytes) (l : List (ℕ × ℕ)) (o : ℕ) (s : State) (h_s : Keeps m s0 s) :
    Keeps m s0 (memRestore t src b l o s) := by
  induction l generalizing o s with
  | nil => exact h_s
  | cons k l ih =>
    unfold memRestore
    dsimp only
    refine ih _ _ ?_
    split
    · refine upd_mems (landTrans hm (by decide)) _ (fun w => ?_) h_s
      simp only [State.wf, Mems.wf, Bool.and_eq_true] at w ⊢
      simp [w.2, wrBytes_wf, mapDropRange, mapFilter_wf, poisonAll_wf]
    · exact h_s

theorem restoreRest_keeps {m : Nat} {s0 : State} (hm : m.land 17314087940 = 17314087940) (s : State) (t : ℕ) (src : ℕ) (b : Bytes) (a4 : Bytes) (wins : List (ℕ × ℕ)) (beads : List (Bytes × ℕ)) (o : Except (ℕ × State) State) (h_s : Keeps m s0 s) (h_o : KeepsE m s0 o) :
    Keeps m s0 (restoreRest s t src b a4 wins beads o) := by
  unfold restoreRest
  repeat' first
    | with_reducible assumption
    | with_reducible refine mbxEnd_keeps (landTrans hm (by decide)) _ _ _ ?_
    | with_reducible refine restoreBeads_keeps (landTrans hm (by decide)) _ _ _ _ ?_ ?_
    | with_reducible refine beadsRestore_keeps (landTrans hm (by decide)) _ _ _ ?_
    | with_reducible refine memRestore_keeps (landTrans hm (by decide)) _ _ _ _ _ _ ?_
    | with_reducible exact KeepsE.ok ‹_› _ rfl
    | split

theorem groupRestore_keeps {m : Nat} {s0 : State} (hm : m.land 1106948 = 1106948) (t : ℕ) (a1 : ℕ → Option ℕ) (s : State) (b : Bytes × Option Bytes × List Bytes × List Bytes) (h_s : Keeps m s0 s) :
    KeepsE m s0 (groupRestore t a1 s b) := by
  unfold groupRestore
  repeat' first
    | with_reducible assumption
    | intro _
    | (extract_lets -underBinder +onlyGivenNames x; first
      | (guard_hyp x : State := _; refine (fun (hx : Keeps m s0 x) => ?_) ?_ <;> [clear_value x; subst x])
      | clear_value x)
    | with_reducible refine forEach_keeps (landTrans hm (by decide)) _ _ _ ?_ ?_
    | with_reducible refine defineGroup_keeps (landTrans hm (by decide)) _ _ _ ?_
    | with_reducible refine setCtx_keeps (landTrans hm (by decide)) _ _ _ ?_
    | with_reducible refine setGroup_keeps (landTrans hm (by decide)) _ _ _ ?_
    | with_reducible refine countJob_keeps (landTrans hm (by decide)) _ _ _ ?_
    | with_reducible refine ok_keepsE ?_
    | with_reducible refine err_keepsE ?_
    | split
    | with_reducible refine Keeps2.of (devWrite_keeps (landTrans hm (by decide)) _ _ _ _ ?_)

theorem groupNext_keeps {m : Nat} {s0 : State} (hm : m.land 1106948 = 1106948) (t : ℕ) (a1 : ℕ → Option ℕ) (o : Except (ℕ × State) State) (b : Bytes × Option Bytes × List Bytes × List Bytes) (h_o : KeepsE m s0 o) :
    KeepsE m s0 (groupNext t a1 o b) := by
  unfold groupNext
  repeat' first
    | with_reducible assumption
    | with_reducible refine groupRestore_keeps (landTrans hm (by decide)) _ _ _ _ ?_
    | with_reducible exact KeepsE.ok ‹_› _ rfl
    | split

theorem groupsRestore_keeps {m : Nat} {s0 : State} (hm : m.land 1106948 = 1106948) (t : ℕ) (f : ℕ → Option ℕ) (l : List (Bytes × Option Bytes × List Bytes × List Bytes)) (s : State) (h_s : Keeps m s0 s) :
    KeepsE m s0 (groupsRestore t f l s) := by
  unfold groupsRestore
  suffices h : ∀ o, KeepsE m s0 o → KeepsE m s0 (l.foldl (groupNext t f) o) from h _ (ok_keepsE h_s)
  induction l with
  | nil => exact fun o h => h
  | cons b l ih => exact fun o h => ih _ (groupNext_keeps (landTrans hm (by decide)) t f o b h)

theorem tenantRestore_keeps {m : Nat} {s0 : State} (hm : m.land 17315193860 = 17315193860) (s : State) (h_s : Keeps m s0 s) :
    Keeps m s0 (tenantRestore s) := by
  unfold tenantRestore
  repeat' first
    | with_reducible assumption
    | (extract_lets -underBinder +onlyGivenNames x; clear_value x)
    | with_reducible refine mbxEnd_keeps (landTrans hm (by decide)) _ _ _ ?_
    | with_reducible refine restoreRest_keeps (landTrans hm (by decide)) _ _ _ _ _ _ _ _ ?_ ?_
    | with_reducible refine groupsRestore_keeps (landTrans hm (by decide)) _ _ _ _ ?_
    | with_reducible refine ite_keeps ?_ ?_

theorem execTenantRestore_keeps {m : Nat} {s0 : State} (hm : m.land 8813408216068 = 8813408216068) (rq : Requester) (s : State) (h_s : Keeps m s0 s) :
    KeepsX m s0 (execTenantRestore rq s) := by
  unfold execTenantRestore
  repeat' first
    | with_reducible assumption
    | intro _
    | with_reducible refine mbxCommand_keeps (landTrans hm (by decide)) _ _ _ _ _ ?_ ?_
    | with_reducible refine tenantRestore_keeps (landTrans hm (by decide)) _ ?_
    | with_reducible refine next_keeps ?_

theorem drainTimeout_keeps {m : Nat} {s0 : State} (hm : m.land 60269489164 = 60269489164) (s : State) (f : ℕ) (h_s : Keeps m s0 s) :
    Keeps m s0 (drainTimeout s f) := by
  unfold drainTimeout
  repeat' first
    | with_reducible assumption
    | intro _
    | (extract_lets -underBinder +onlyGivenNames x; first
      | (guard_hyp x : State := _; refine (fun (hx : Keeps m s0 x) => ?_) ?_ <;> [clear_value x; subst x])
      | clear_value x)
    | with_reducible refine forEach_keeps (landTrans hm (by decide)) _ _ _ ?_ ?_
    | with_reducible refine journal_keeps (landTrans hm (by decide)) _ _ ?_
    | with_reducible refine flrSettleAll_keeps (landTrans hm (by decide)) _ ?_
    | with_reducible refine flrFinish_keeps (landTrans hm (by decide)) _ _ ?_
    | with_reducible refine ite_keeps ?_ ?_

theorem execDrainTimeout_keeps {m : Nat} {s0 : State} (hm : m.land 60269489164 = 60269489164) (f : ℕ) (s : State) (h_s : Keeps m s0 s) :
    KeepsX m s0 (execDrainTimeout f s) :=
  next_keeps (drainTimeout_keeps hm _ _ h_s)

theorem releaseHostClaim_keeps {m : Nat} {s0 : State} (hm : m.land 4194316 = 4194316) (s : State) (h_s : Keeps m s0 s) :
    Keeps m s0 (releaseHostClaim s) := by
  unfold releaseHostClaim
  repeat' first
    | with_reducible assumption
    | with_reducible refine mbxRelease_keeps (landTrans hm (by decide)) _ _ ?_

theorem functionReset_keeps {m : Nat} {s0 : State} (hm : m.land 60269489164 = 60269489164) (s : State) (f : ℕ) (h_s : Keeps m s0 s) :
    Keeps m s0 (functionReset s f) := by
  unfold functionReset
  repeat' first
    | with_reducible assumption
    | intro _
    | (extract_lets -underBinder +onlyGivenNames x; first
      | (guard_hyp x : State := _; refine (fun (hx : Keeps m s0 x) => ?_) ?_ <;> [clear_value x; subst x])
      | clear_value x)
    | with_reducible refine releaseHostClaim_keeps (landTrans hm (by decide)) _ ?_
    | with_reducible refine forEach_keeps (landTrans hm (by decide)) _ _ _ ?_ ?_
    | with_reducible refine flrRequest_keeps (landTrans hm (by decide)) _ _ _ ?_
    | with_reducible refine setFnState_keeps (landTrans hm (by decide)) _ _ _ ?_
    | with_reducible refine setFn_keeps (landTrans hm (by decide)) _ _ _ ?_
    | with_reducible refine flrSettleAll_keeps (landTrans hm (by decide)) _ ?_
    | with_reducible refine ite_keeps ?_ ?_

theorem execFunctionLevelReset_keeps {m : Nat} {s0 : State} (hm : m.land 60269489164 = 60269489164) (f : ℕ) (s : State) (h_s : Keeps m s0 s) :
    KeepsX m s0 (execFunctionLevelReset f s) :=
  next_keeps (functionReset_keeps hm _ _ h_s)

end Sys2Proof.Machine
end

