-- ==== Sys2Proof/Laws/KeepsMembers.lean ====
section
/-! SUPPORT. What each operation of Members.lean keeps: the canonical form, and the parts of the state that it does not name. -/

namespace Sys2Proof.Machine

theorem endReg_keeps {m : Nat} {s0 : State} (hm : m.land 60265950212 = 60265950212) (code : ℕ) (s : State) (j : ℕ) (h_s : Keeps m s0 s) :
    Keeps m s0 (endReg code s j) := by
  unfold endReg
  repeat' first
    | with_reducible assumption
    | intro _
    | (extract_lets -underBinder +onlyGivenNames x; first
      | (guard_hyp x : State := _; refine (fun (hx : Keeps m s0 x) => ?_) ?_ <;> [clear_value x; subst x])
      | clear_value x)
    | with_reducible refine setSj_keeps (landTrans hm (by decide)) _ _ _ ?_
    | with_reducible refine sjPublish_keeps (landTrans hm (by decide)) _ _ ?_
    | with_reducible refine setFnState_keeps (landTrans hm (by decide)) _ _ _ ?_
    | with_reducible refine State.set_keeps (landTrans hm (by decide)) _ _ _ _ _ ?_
    | with_reducible refine forEach_keeps (landTrans hm (by decide)) _ _ _ ?_ ?_
    | with_reducible refine teardown_keeps (landTrans hm (by decide)) _ _ _ _ ?_
    | with_reducible refine journal_keeps (landTrans hm (by decide)) _ _ ?_
    | with_reducible refine ite_keeps ?_ ?_

theorem dropPend_keeps {m : Nat} {s0 : State} (hm : m.land 4294967296 = 4294967296) (s : State) (seq : Word) (h_s : Keeps m s0 s) :
    Keeps m s0 (dropPend s seq) := by
  unfold dropPend
  repeat' first
    | with_reducible assumption
    | (extract_lets -underBinder +onlyGivenNames x; clear_value x)
    | fail_if_no_progress (with_reducible refine upd_fab (landTrans hm (by decide)) _ ?_)

theorem whoFault_keeps {m : Nat} {s0 : State} (hm : m.land 60131732484 = 60131732484) (s : State) (w : Who) (code : ℕ) (detail : ℕ) (h_s : Keeps m s0 s) :
    Keeps1 m s0 (whoFault s w code detail) := by
  unfold whoFault
  repeat' first
    | with_reducible assumption
    | (extract_lets -underBinder +onlyGivenNames x; clear_value x)
    | with_reducible refine accumHeld_keeps (landTrans hm (by decide)) _ _ ?_
    | with_reducible refine cmdFault_keeps (landTrans hm (by decide)) _ _ _ _ _ _ _ ?_
    | with_reducible refine headFault_keeps (landTrans hm (by decide)) _ _ _ _ _ _ _ ?_
    | split
    | with_reducible refine pair1 ?_

theorem bulkLost_keeps {m : Nat} {s0 : State} (hm : m.land 17179870208 = 17179870208) (s : State) (b : ℕ) (h_s : Keeps m s0 s) :
    Keeps m s0 (bulkLost s b) := by
  unfold bulkLost
  repeat' first
    | with_reducible assumption
    | (extract_lets -underBinder +onlyGivenNames x; guard_hyp x : State := _; refine (fun (hx : Keeps m s0 x) => ?_) ?_ <;> [clear_value x; subst x])
    | with_reducible refine bput_keeps (landTrans hm (by decide)) _ _ _ _ ?_
    | with_reducible refine mbxEnd_keeps (landTrans hm (by decide)) _ _ _ ?_
    | with_reducible refine ite_keeps ?_ ?_

theorem failStop_keeps {m : Nat} {s0 : State} (hm : m.land 60609883140 = 60609883140) (s : State) (h_s : Keeps m s0 s) :
    Keeps m s0 (failStop s) := by
  unfold failStop
  repeat' first
    | with_reducible assumption
    | intro _
    | (extract_lets -underBinder +onlyGivenNames x; guard_hyp x : State := _; refine (fun (hx : Keeps m s0 x) => ?_) ?_ <;> [clear_value x; subst x])
    | with_reducible refine State.set_keeps (landTrans hm (by decide)) _ _ _ _ _ ?_
    | with_reducible refine forEach_keeps (landTrans hm (by decide)) _ _ _ ?_ ?_
    | with_reducible refine endReg_keeps (landTrans hm (by decide)) _ _ _ ?_
    | with_reducible refine cellDown_keeps (landTrans hm (by decide)) _ _ ?_

theorem endStream_keeps {m : Nat} {s0 : State} (hm : m.land 21474837504 = 21474837504) (s : State) (node : ℕ) (h_s : Keeps m s0 s) :
    Keeps m s0 (endStream s node) := by
  unfold endStream
  repeat' first
    | with_reducible assumption
    | intro _
    | (extract_lets -underBinder +onlyGivenNames x; first
      | (guard_hyp x : State := _; refine (fun (hx : Keeps m s0 x) => ?_) ?_ <;> [clear_value x; subst x])
      | clear_value x)
    | with_reducible refine setDest_keeps (landTrans hm (by decide)) _ _ _ ?_
    | with_reducible refine forEach_keeps (landTrans hm (by decide)) _ _ _ ?_ ?_
    | with_reducible refine bulkLost_keeps (landTrans hm (by decide)) _ _ ?_
    | fail_if_no_progress (with_reducible refine upd_fab (landTrans hm (by decide)) _ ?_)

theorem movesLost_keeps {m : Nat} {s0 : State} (hm : m.land 57313068036 = 57313068036) (s : State) (node : ℕ) (h_s : Keeps m s0 s) :
    Keeps m s0 (movesLost s node) := by
  unfold movesLost
  repeat' first
    | with_reducible assumption
    | intro _
    | with_reducible refine forEach_keeps (landTrans hm (by decide)) _ _ _ ?_ ?_
    | with_reducible refine moveAck_keeps (landTrans hm (by decide)) _ _ _ _ ?_
    | with_reducible refine ite_keeps ?_ ?_
    | split

theorem lostRec_keeps {m : Nat} {s0 : State} (hm : m.land 42949673988 = 42949673988) (s : State) (node : ℕ) (h_s : Keeps m s0 s) :
    Keeps m s0 (lostRec s node) := by
  unfold lostRec
  repeat' first
    | with_reducible assumption
    | (extract_lets -underBinder +onlyGivenNames x; clear_value x)
    | with_reducible refine journal_keeps (landTrans hm (by decide)) _ _ ?_

theorem fencedSelf_keeps {m : Nat} {s0 : State} (hm : m.land 65908730892 = 65908730892) (s : State) (h_s : Keeps m s0 s) :
    Keeps m s0 (fencedSelf s) := by
  unfold fencedSelf
  repeat' first
    | with_reducible assumption
    | intro _
    | (extract_lets -underBinder +onlyGivenNames x; first
      | (guard_hyp x : State := _; refine (fun (hx : Keeps m s0 x) => ?_) ?_ <;> [clear_value x; subst x])
      | clear_value x)
    | with_reducible refine State.set_keeps (landTrans hm (by decide)) _ _ _ _ _ ?_
    | with_reducible refine forEach_keeps (landTrans hm (by decide)) _ _ _ ?_ ?_
    | with_reducible refine endReg_keeps (landTrans hm (by decide)) _ _ _ ?_
    | with_reducible refine movesLost_keeps (landTrans hm (by decide)) _ _ ?_
    | with_reducible refine endStream_keeps (landTrans hm (by decide)) _ _ ?_
    | with_reducible refine lostRec_keeps (landTrans hm (by decide)) _ _ ?_
    | with_reducible refine flrSettleAll_keeps (landTrans hm (by decide)) _ ?_
    | with_reducible refine emit_keeps (landTrans hm (by decide)) _ _ ?_
    | with_reducible refine ite_keeps ?_ ?_
    | fail_if_no_progress (with_reducible refine upd_fab (landTrans hm (by decide)) _ ?_)

theorem targetLost_keeps {m : Nat} {s0 : State} (hm : m.land 65908730892 = 65908730892) (s : State) (node : ℕ) (h_s : Keeps m s0 s) :
    Keeps m s0 (targetLost s node) := by
  unfold targetLost
  repeat' first
    | with_reducible assumption
    | intro _
    | (extract_lets -underBinder +onlyGivenNames x; first
      | (guard_hyp x : State := _; refine (fun (hx : Keeps m s0 x) => ?_) ?_ <;> [clear_value x; subst x])
      | clear_value x)
    | with_reducible refine emit_keeps (landTrans hm (by decide)) _ _ ?_
    | with_reducible refine lostRec_keeps (landTrans hm (by decide)) _ _ ?_
    | with_reducible refine State.bump_keeps (landTrans hm (by decide)) _ _ _ _ _ ?_
    | with_reducible refine movesLost_keeps (landTrans hm (by decide)) _ _ ?_
    | with_reducible refine endStream_keeps (landTrans hm (by decide)) _ _ ?_
    | with_reducible refine flrSettleAll_keeps (landTrans hm (by decide)) _ ?_
    | with_reducible refine reroute_keeps (landTrans hm (by decide)) _ ?_
    | with_reducible refine forEach_keeps (landTrans hm (by decide)) _ _ _ ?_ ?_
    | with_reducible refine Keeps1.of (whoFault_keeps (landTrans hm (by decide)) _ _ _ _ ?_)

end Sys2Proof.Machine
end

