-- ==== Sys2Proof/Laws/KeepsInbound.lean ====
section
/-! SUPPORT. What each operation of Inbound.lean keeps: the canonical form, and the parts of the state that it does not name. -/

namespace Sys2Proof.Machine

theorem linkDown_keeps {m : Nat} {s0 : State} (hm : m.land 48318383108 = 48318383108) (s : State) (q : ℕ) (h_s : Keeps m s0 s) :
    Keeps m s0 (linkDown s q) := by
  unfold linkDown
  repeat' first
    | with_reducible assumption
    | intro _
    | (extract_lets -underBinder +onlyGivenNames x; first
      | (guard_hyp x : State := _; refine (fun (hx : Keeps m s0 x) => ?_) ?_ <;> [clear_value x; subst x])
      | clear_value x)
    | with_reducible refine State.set_keeps (landTrans hm (by decide)) _ _ _ _ _ ?_
    | with_reducible refine setLink_keeps (landTrans hm (by decide)) _ _ _ ?_
    | with_reducible refine forEach_keeps (landTrans hm (by decide)) _ _ _ ?_ ?_
    | with_reducible refine sendTxn_keeps (landTrans hm (by decide)) _ _ ?_
    | with_reducible refine reroute_keeps (landTrans hm (by decide)) _ ?_
    | with_reducible refine ite_keeps ?_ ?_

theorem filFault_keeps {m : Nat} {s0 : State} (hm : m.land 48318383108 = 48318383108) (s : State) (c : ℕ) (h_s : Keeps m s0 s) :
    Keeps m s0 (filFault s c) := by
  unfold filFault
  repeat' first
    | with_reducible assumption
    | intro _
    | (extract_lets -underBinder +onlyGivenNames x; first
      | (guard_hyp x : State := _; refine (fun (hx : Keeps m s0 x) => ?_) ?_ <;> [clear_value x; subst x])
      | clear_value x)
    | with_reducible refine forEach_keeps (landTrans hm (by decide)) _ _ _ ?_ ?_
    | with_reducible refine linkDown_keeps (landTrans hm (by decide)) _ _ ?_
    | with_reducible refine setLink_keeps (landTrans hm (by decide)) _ _ _ ?_
    | with_reducible refine faultFn_keeps (landTrans hm (by decide)) _ _ _ ?_

theorem bulkFault_keeps {m : Nat} {s0 : State} (hm : m.land 48318383108 = 48318383108) (s : State) (b : ℕ) (h_s : Keeps m s0 s) :
    Keeps m s0 (bulkFault s b) := by
  unfold bulkFault
  repeat' first
    | with_reducible assumption
    | with_reducible refine filFault_keeps (landTrans hm (by decide)) _ _ ?_
    | with_reducible refine beadPoison_keeps (landTrans hm (by decide)) _ _ ?_

theorem bulkAcked_keeps {m : Nat} {s0 : State} (hm : m.land 65498252292 = 65498252292) (s : State) (b : ℕ) (h_s : Keeps m s0 s) :
    Keeps m s0 (bulkAcked s b) := by
  unfold bulkAcked
  repeat' first
    | with_reducible assumption
    | (extract_lets -underBinder +onlyGivenNames x; first
      | (guard_hyp x : State := _; refine (fun (hx : Keeps m s0 x) => ?_) ?_ <;> [clear_value x; subst x])
      | clear_value x)
    | with_reducible refine bulkFault_keeps (landTrans hm (by decide)) _ _ ?_
    | with_reducible refine bput_keeps (landTrans hm (by decide)) _ _ _ _ ?_
    | with_reducible refine State.set_keeps (landTrans hm (by decide)) _ _ _ _ _ ?_
    | with_reducible refine freeBead_keeps (landTrans hm (by decide)) _ _ ?_
    | with_reducible refine mbxEnd_keeps (landTrans hm (by decide)) _ _ _ ?_
    | with_reducible refine ite_keeps ?_ ?_

theorem bulkSend_keeps {m : Nat} {s0 : State} (hm : m.land 39728447494 = 39728447494) (s : State) (b : ℕ) (dst : ℕ) (l : List PB) (h_s : Keeps m s0 s) :
    Keeps m s0 (bulkSend s b dst l) := by
  unfold bulkSend
  repeat' first
    | with_reducible assumption
    | intro _
    | (extract_lets -underBinder +onlyGivenNames x; first
      | (guard_hyp x : State × Bytes := _; refine (fun (hx : Keeps1 m s0 x) => ?_) ?_ <;> [clear_value x; subst x])
      | clear_value x)
    | with_reducible refine forEach_keeps (landTrans hm (by decide)) _ _ _ ?_ ?_
    | with_reducible refine pagePayload_keeps (landTrans hm (by decide)) _ _ _ ?_
    | with_reducible refine issueWrite_keeps (landTrans hm (by decide)) _ _ _ _ _ _ _ _ _ _ ?_
    | with_reducible refine ite_keeps ?_ ?_
    | with_reducible exact Keeps1.of ‹_›

theorem bulkPump_keeps {m : Nat} {s0 : State} (hm : m.land 48318383110 = 48318383110) (b : ℕ) (r : ℕ) (r1 : State) (h_r1 : Keeps m s0 r1) :
    Keeps m s0 (bulkPump b r r1) := by
  induction r generalizing r1 with
  | zero =>
    unfold bulkPump
    repeat' first
      | with_reducible assumption
  | succ k ih =>
    unfold bulkPump
    repeat' first
      | with_reducible assumption
      | with_reducible apply ih
      | (extract_lets -underBinder +onlyGivenNames x; first
        | (guard_hyp x : State := _; refine (fun (hx : Keeps m s0 x) => ?_) ?_ <;> [clear_value x; subst x])
        | clear_value x)
      | with_reducible refine bulkFault_keeps (landTrans hm (by decide)) _ _ ?_
      | with_reducible refine bulkSend_keeps (landTrans hm (by decide)) _ _ _ _ ?_
      | with_reducible refine raiseMem_keeps (landTrans hm (by decide)) _ _ _ _ _ _ ?_
      | with_reducible refine bput_keeps (landTrans hm (by decide)) _ _ _ _ ?_
      | with_reducible refine ite_keeps ?_ ?_

theorem replResume_keeps {m : Nat} {s0 : State} (hm : m.land 4 = 4) (s : State) (c : ℕ) (h_s : Keeps m s0 s) :
    Keeps m s0 (replResume s c) := by
  unfold replResume
  repeat' first
    | with_reducible assumption
    | with_reducible refine State.set_keeps (landTrans hm (by decide)) _ _ _ _ _ ?_
    | with_reducible refine ite_keeps ?_ ?_

theorem afterAck_keeps {m : Nat} {s0 : State} (hm : m.land 65640295438 = 65640295438) (s : State) (l : List WCopy) (h_s : Keeps m s0 s) :
    Keeps m s0 (afterAck s l) := by
  unfold afterAck
  repeat' first
    | with_reducible assumption
    | intro _
    | (extract_lets -underBinder +onlyGivenNames x; guard_hyp x : State := _; refine (fun (hx : Keeps m s0 x) => ?_) ?_ <;> [clear_value x; subst x])
    | with_reducible refine State.set_keeps (landTrans hm (by decide)) _ _ _ _ _ ?_
    | with_reducible refine forEach_keeps (landTrans hm (by decide)) _ _ _ ?_ ?_
    | with_reducible refine bulkAcked_keeps (landTrans hm (by decide)) _ _ ?_
    | with_reducible refine bulkPump_keeps (landTrans hm (by decide)) _ _ _ ?_
    | with_reducible refine replResume_keeps (landTrans hm (by decide)) _ _ ?_
    | with_reducible refine accumHeld_keeps (landTrans hm (by decide)) _ _ ?_
    | with_reducible refine runFly_keeps (landTrans hm (by decide)) _ _ ?_
    | with_reducible refine flrSettleAll_keeps (landTrans hm (by decide)) _ ?_
    | with_reducible refine ite_keeps ?_ ?_

theorem ackArrives_keeps {m : Nat} {s0 : State} (hm : m.land 65640295438 = 65640295438) (s : State) (x : Txn) (h_s : Keeps m s0 s) :
    Keeps m s0 (ackArrives s x) := by
  unfold ackArrives
  repeat' first
    | with_reducible assumption
    | intro _
    | (extract_lets -underBinder +onlyGivenNames x; first
      | (guard_hyp x : State := _; refine (fun (hx : Keeps m s0 x) => ?_) ?_ <;> [clear_value x; subst x])
      | clear_value x)
    | with_reducible refine setDest_keeps (landTrans hm (by decide)) _ _ _ ?_
    | with_reducible refine afterAck_keeps (landTrans hm (by decide)) _ _ ?_
    | with_reducible refine forEach_keeps (landTrans hm (by decide)) _ _ _ ?_ ?_
    | with_reducible refine bumpAcked_keeps (landTrans hm (by decide)) _ _ _ ?_
    | with_reducible refine ite_keeps ?_ ?_

theorem ackHighest_keeps {m : Nat} {s0 : State} (hm : m.land 39728447492 = 39728447492) (s : State) (x : Txn) (h_s : Keeps m s0 s) :
    Keeps m s0 (ackHighest s x) := by
  unfold ackHighest
  repeat' first
    | with_reducible assumption
    | with_reducible refine reply_keeps (landTrans hm (by decide)) _ _ _ _ _ _ _ ?_

theorem bulkCopy_keeps {m : Nat} {s0 : State} (hm : m.land 65498252294 = 65498252294) (s : State) (h_s : Keeps m s0 s) :
    Keeps m s0 (bulkCopy s) := by
  unfold bulkCopy
  repeat' first
    | with_reducible assumption
    | intro _
    | (extract_lets -underBinder +onlyGivenNames x; first
      | (guard_hyp x : State := _; refine (fun (hx : Keeps m s0 x) => ?_) ?_ <;> [clear_value x; subst x])
      | clear_value x)
    | with_reducible refine mbxEnd_keeps (landTrans hm (by decide)) _ _ _ ?_
    | with_reducible refine newBead_keeps (landTrans hm (by decide)) _ _ _ _ _ _ _ _ _ _ ?_
    | with_reducible refine forEach_keeps (landTrans hm (by decide)) _ _ _ ?_ ?_
    | with_reducible refine homeWrite_keeps (landTrans hm (by decide)) _ _ _ _ ?_
    | with_reducible refine raiseMem_keeps (landTrans hm (by decide)) _ _ _ _ _ _ ?_
    | with_reducible refine bulkAcked_keeps (landTrans hm (by decide)) _ _ ?_
    | with_reducible refine bput_keeps (landTrans hm (by decide)) _ _ _ _ ?_
    | with_reducible refine bulkPump_keeps (landTrans hm (by decide)) _ _ _ ?_
    | with_reducible refine ite_keeps ?_ ?_
    | split
    | fail_if_no_progress (with_reducible refine upd_mbx (landTrans hm (by decide)) _ ?_)

theorem execBulkCopy_keeps {m : Nat} {s0 : State} (hm : m.land 8861591274502 = 8861591274502) (rq : Requester) (s : State) (h_s : Keeps m s0 s) :
    KeepsX m s0 (execBulkCopy rq s) := by
  unfold execBulkCopy
  repeat' first
    | with_reducible assumption
    | intro _
    | with_reducible refine mbxCommand_keeps (landTrans hm (by decide)) _ _ _ _ _ ?_ ?_
    | with_reducible refine bulkCopy_keeps (landTrans hm (by decide)) _ ?_
    | with_reducible refine next_keeps ?_

theorem nack_keeps {m : Nat} {s0 : State} (hm : m.land 39728447492 = 39728447492) (s : State) (x : Txn) (code : ℕ) (dseq : Word) (h_s : Keeps m s0 s) :
    Keeps m s0 (nack s x code dseq) := by
  unfold nack
  repeat' first
    | with_reducible assumption
    | with_reducible refine reply_keeps (landTrans hm (by decide)) _ _ _ _ _ _ _ ?_

theorem answerRead_keeps {m : Nat} {s0 : State} (hm : m.land 39728447492 = 39728447492) (s : State) (x : Txn) (h_s : Keeps m s0 s) :
    Keeps m s0 (answerRead s x) := by
  unfold answerRead
  repeat' first
    | with_reducible assumption
    | intro _
    | (extract_lets -underBinder +onlyGivenNames x; first
      | (guard_hyp x : State := _; refine (fun (hx : Keeps m s0 x) => ?_) ?_ <;> [clear_value x; subst x])
      | clear_value x)
    | with_reducible refine nack_keeps (landTrans hm (by decide)) _ _ _ _ ?_
    | with_reducible refine forEach_keeps (landTrans hm (by decide)) _ _ _ ?_ ?_
    | with_reducible refine addSharer_keeps (landTrans hm (by decide)) _ _ _ ?_
    | with_reducible refine reply_keeps (landTrans hm (by decide)) _ _ _ _ _ _ _ ?_
    | with_reducible refine raiseMem_keeps (landTrans hm (by decide)) _ _ _ _ _ _ ?_
    | with_reducible refine ite_keeps ?_ ?_
    | split

theorem atomicOnce_keeps {m : Nat} {s0 : State} (hm : m.land 38654706688 = 38654706688) (s : State) (src : ℕ) (seq : Word) (addr : ℕ) (atop : ℕ) (operand : Bytes) (h_s : Keeps m s0 s) :
    Keeps2 m s0 (atomicOnce s src seq addr atop operand) := by
  unfold atomicOnce
  repeat' first
    | with_reducible assumption
    | (extract_lets -underBinder +onlyGivenNames x; first
      | (guard_hyp x : State := _; refine (fun (hx : Keeps m s0 x) => ?_) ?_ <;> [clear_value x; subst x])
      | (guard_hyp x : ℕ × State := _; refine (fun (hx : Keeps2 m s0 x) => ?_) ?_ <;> [clear_value x; subst x])
      | clear_value x)
    | with_reducible refine atomicApply_keeps (landTrans hm (by decide)) _ _ _ _ ?_
    | with_reducible refine raiseAtomic_keeps (landTrans hm (by decide)) _ _ ?_
    | split
    | with_reducible exact Keeps2.of ‹_›
    | with_reducible refine pair2 ?_
    | fail_if_no_progress (with_reducible refine upd_fab (landTrans hm (by decide)) _ ?_)

theorem applyComb_keeps {m : Nat} {s0 : State} (hm : m.land 39728448516 = 39728448516) (s : State) (x : Txn) (l : List CombEntry) (h_s : Keeps m s0 s) :
    Keeps m s0 (applyComb s x l) := by
  unfold applyComb
  repeat' first
    | with_reducible assumption
    | intro _
    | (extract_lets -underBinder +onlyGivenNames x; first
      | (guard_hyp x : ℕ × State := _; refine (fun (hx : Keeps2 m s0 x) => ?_) ?_ <;> [clear_value x; subst x])
      | (guard_hyp x : State × List CombEntry := _; refine (fun (hx : Keeps1 m s0 x) => ?_) ?_ <;> [clear_value x; subst x]))
    | with_reducible refine atomicOnce_keeps (landTrans hm (by decide)) _ _ _ _ _ _ ?_
    | with_reducible refine reply_keeps (landTrans hm (by decide)) _ _ _ _ _ _ _ ?_
    | with_reducible refine foldl_keeps1 ?_ ?_
    | with_reducible exact Keeps1.of ‹_›
    | with_reducible exact Keeps2.of ‹_›
    | with_reducible refine pair1 ?_

theorem raiseExpected_keeps {m : Nat} {s0 : State} (hm : m.land 4294967296 = 4294967296) (s : State) (src : ℕ) (h_s : Keeps m s0 s) :
    Keeps m s0 (raiseExpected s src) := by
  unfold raiseExpected
  repeat' first
    | with_reducible assumption
    | (extract_lets -underBinder +onlyGivenNames x; clear_value x)
    | fail_if_no_progress (with_reducible refine upd_fab (landTrans hm (by decide)) _ ?_)

theorem pageStore_keeps {m : Nat} {s0 : State} (hm : m.land 1024 = 1024) (s : State) (base : ℕ) (b : Bytes) (bad : Bool) (h_s : Keeps m s0 s) :
    Keeps m s0 (pageStore s base b bad) := by
  unfold pageStore
  repeat' first
    | with_reducible assumption
    | intro _
    | (extract_lets -underBinder +onlyGivenNames x; clear_value x)
    | with_reducible refine forEach_keeps (landTrans hm (by decide)) _ _ _ ?_ ?_
    | with_reducible refine devStore_keeps (landTrans hm (by decide)) _ _ _ _ ?_
    | with_reducible refine ite_keeps ?_ ?_

theorem applyWrite_keeps {m : Nat} {s0 : State} (hm : m.land 39728448516 = 39728448516) (s : State) (x : Txn) (h_s : Keeps m s0 s) :
    Keeps m s0 (applyWrite s x) := by
  unfold applyWrite
  repeat' first
    | with_reducible assumption
    | (extract_lets -underBinder +onlyGivenNames x; first
      | (guard_hyp x : State := _; refine (fun (hx : Keeps m s0 x) => ?_) ?_ <;> [clear_value x; subst x])
      | clear_value x)
    | with_reducible refine raiseExpected_keeps (landTrans hm (by decide)) _ _ ?_
    | with_reducible refine nack_keeps (landTrans hm (by decide)) _ _ _ _ ?_
    | with_reducible refine raiseMem_keeps (landTrans hm (by decide)) _ _ _ _ _ _ ?_
    | with_reducible refine ackHighest_keeps (landTrans hm (by decide)) _ _ ?_
    | with_reducible refine pageStore_keeps (landTrans hm (by decide)) _ _ _ _ ?_
    | with_reducible refine devStore_keeps (landTrans hm (by decide)) _ _ _ _ ?_
    | with_reducible refine ite_keeps ?_ ?_

theorem sendVia_keeps {m : Nat} {s0 : State} (hm : m.land 39728447492 = 39728447492) (s : State) (x : Txn) (h_s : Keeps m s0 s) :
    Keeps m s0 (sendVia s x) := by
  unfold sendVia
  repeat' first
    | with_reducible assumption
    | with_reducible refine sendOn_keeps (landTrans hm (by decide)) _ _ _ ?_
    | split

theorem relay_keeps {m : Nat} {s0 : State} (hm : m.land 39728447492 = 39728447492) (s : State) (x : Txn) (h_s : Keeps m s0 s) :
    Keeps m s0 (relay s x) := by
  unfold relay
  repeat' first
    | with_reducible assumption
    | intro _
    | (extract_lets -underBinder +onlyGivenNames x; first
      | (guard_hyp x : State := _; refine (fun (hx : Keeps m s0 x) => ?_) ?_ <;> [clear_value x; subst x])
      | clear_value x)
    | with_reducible refine sendVia_keeps (landTrans hm (by decide)) _ _ ?_
    | with_reducible refine forEach_keeps (landTrans hm (by decide)) _ _ _ ?_ ?_
    | with_reducible refine ite_keeps ?_ ?_
    | split
    | fail_if_no_progress (with_reducible refine upd_fab (landTrans hm (by decide)) _ ?_)

theorem noted_keeps {m : Nat} {s0 : State} (hm : m.land 39728447492 = 39728447492) (s : State) (q : ℕ) (x : Txn) (h_s : Keeps m s0 s) :
    Keeps m s0 (noted s q x) := by
  unfold noted
  repeat' first
    | with_reducible assumption
    | (extract_lets -underBinder +onlyGivenNames x; first
      | (guard_hyp x : State := _; refine (fun (hx : Keeps m s0 x) => ?_) ?_ <;> [clear_value x; subst x])
      | clear_value x)
    | with_reducible refine h_f _ ?_
    | with_reducible refine State.bump2_keeps (landTrans hm (by decide)) _ _ _ _ _ _ ?_
    | with_reducible refine raiseFloor_keeps (landTrans hm (by decide)) _ _ _ ?_
    | with_reducible refine setLink_keeps (landTrans hm (by decide)) _ _ _ ?_
    | with_reducible refine State.bump_keeps (landTrans hm (by decide)) _ _ _ _ _ ?_
    | with_reducible refine relay_keeps (landTrans hm (by decide)) _ _ ?_
    | with_reducible refine nack_keeps (landTrans hm (by decide)) _ _ _ _ ?_
    | with_reducible refine ite_keeps ?_ ?_

theorem arrive_keeps {m : Nat} {s0 : State} (hm : m.land 39728447492 = 39728447492) (q : ℕ) (opc : ℕ) (x : Txn) (f : State → State) (s : State) (h_f : ∀ x0, Keeps m s0 x0 → Keeps m s0 (f x0)) (h_s : Keeps m s0 s) :
    Keeps m s0 (arrive q opc x f s) := by
  unfold arrive
  repeat' first
    | with_reducible assumption
    | with_reducible refine noted_keeps (landTrans hm (by decide)) _ _ _ ?_
    | (extract_lets -underBinder +onlyGivenNames x; first
      | (guard_hyp x : State := _; refine (fun (hx : Keeps m s0 x) => ?_) ?_ <;> [clear_value x; subst x])
      | clear_value x)
    | with_reducible refine h_f _ ?_
    | with_reducible refine State.bump2_keeps (landTrans hm (by decide)) _ _ _ _ _ _ ?_
    | with_reducible refine raiseFloor_keeps (landTrans hm (by decide)) _ _ _ ?_
    | with_reducible refine setLink_keeps (landTrans hm (by decide)) _ _ _ ?_
    | with_reducible refine State.bump_keeps (landTrans hm (by decide)) _ _ _ _ _ ?_
    | with_reducible refine relay_keeps (landTrans hm (by decide)) _ _ ?_
    | with_reducible refine nack_keeps (landTrans hm (by decide)) _ _ _ _ ?_
    | with_reducible refine ite_keeps ?_ ?_

theorem askFor_keeps {m : Nat} {s0 : State} (hm : m.land 39728447492 = 39728447492) (s : State) (a1 : Held) (h_s : Keeps m s0 s) :
    Keeps1 m s0 (askFor s a1) := by
  unfold askFor
  repeat' first
    | with_reducible assumption
    | (extract_lets -underBinder +onlyGivenNames x; clear_value x)
    | with_reducible refine askInv_keeps (landTrans hm (by decide)) _ _ _ _ ?_
    | with_reducible refine ite_keeps1 ?_ ?_
    | with_reducible refine pair1 ?_

theorem progressed_keeps {m : Nat} {s0 : State} (hm : m.land 4294967296 = 4294967296) (s : State) (node : ℕ) (h_s : Keeps m s0 s) :
    Keeps m s0 (progressed s node) := by
  unfold progressed
  repeat' first
    | with_reducible assumption
    | (extract_lets -underBinder +onlyGivenNames x; clear_value x)
    | with_reducible refine setDest_keeps (landTrans hm (by decide)) _ _ _ ?_

theorem replayOld_keeps {m : Nat} {s0 : State} (hm : m.land 8589934592 = 8589934592) (s : State) (uid : ℕ) (old : ℕ) (h_s : Keeps m s0 s) :
    Keeps m s0 (replayOld s uid old) := by
  unfold replayOld
  repeat' first
    | with_reducible assumption
    | (extract_lets -underBinder +onlyGivenNames x; clear_value x)
    | fail_if_no_progress (with_reducible refine upd_jr (landTrans hm (by decide)) _ ?_)

theorem oldTold_keeps {m : Nat} {s0 : State} (hm : m.land 65640295438 = 65640295438) (s : State) (n : ℕ) (uid : ℕ) (old : ℕ) (h_s : Keeps m s0 s) :
    Keeps m s0 (oldTold s n uid old) := by
  unfold oldTold
  repeat' first
    | with_reducible assumption
    | intro _
    | (extract_lets -underBinder +onlyGivenNames x; first
      | (guard_hyp x : State := _; refine (fun (hx : Keeps m s0 x) => ?_) ?_ <;> [clear_value x; subst x])
      | clear_value x)
    | with_reducible refine progressed_keeps (landTrans hm (by decide)) _ _ ?_
    | with_reducible refine dropPend_keeps (landTrans hm (by decide)) _ _ ?_
    | with_reducible refine State.bump_keeps (landTrans hm (by decide)) _ _ _ _ _ ?_
    | with_reducible refine bumpAcked_keeps (landTrans hm (by decide)) _ _ _ ?_
    | with_reducible refine accumHeld_keeps (landTrans hm (by decide)) _ _ ?_
    | with_reducible refine runFly_keeps (landTrans hm (by decide)) _ _ ?_
    | with_reducible refine putFly_keeps (landTrans hm (by decide)) _ _ _ ?_
    | with_reducible refine replayOld_keeps (landTrans hm (by decide)) _ _ _ ?_
    | with_reducible refine flrSettleAll_keeps (landTrans hm (by decide)) _ ?_
    | with_reducible refine forEach_keeps (landTrans hm (by decide)) _ _ _ ?_ ?_
    | with_reducible refine ite_keeps ?_ ?_
    | split

theorem atomicAnswer_keeps {m : Nat} {s0 : State} (hm : m.land 65640295438 = 65640295438) (s : State) (node : ℕ) (seq : Word) (old : ℕ) (comb : Bool) (h_s : Keeps m s0 s) :
    Keeps m s0 (atomicAnswer s node seq old comb) := by
  unfold atomicAnswer
  repeat' first
    | with_reducible assumption
    | with_reducible refine oldTold_keeps (landTrans hm (by decide)) _ _ _ _ ?_
    | intro _
    | (extract_lets -underBinder +onlyGivenNames x; first
      | (guard_hyp x : State := _; refine (fun (hx : Keeps m s0 x) => ?_) ?_ <;> [clear_value x; subst x])
      | clear_value x)
    | with_reducible refine progressed_keeps (landTrans hm (by decide)) _ _ ?_
    | with_reducible refine dropPend_keeps (landTrans hm (by decide)) _ _ ?_
    | with_reducible refine State.bump_keeps (landTrans hm (by decide)) _ _ _ _ _ ?_
    | with_reducible refine bumpAcked_keeps (landTrans hm (by decide)) _ _ _ ?_
    | with_reducible refine accumHeld_keeps (landTrans hm (by decide)) _ _ ?_
    | with_reducible refine runFly_keeps (landTrans hm (by decide)) _ _ ?_
    | with_reducible refine putFly_keeps (landTrans hm (by decide)) _ _ _ ?_
    | with_reducible refine replayOld_keeps (landTrans hm (by decide)) _ _ _ ?_
    | with_reducible refine flrSettleAll_keeps (landTrans hm (by decide)) _ ?_
    | with_reducible refine forEach_keeps (landTrans hm (by decide)) _ _ _ ?_ ?_
    | with_reducible refine ite_keeps ?_ ?_
    | split

theorem request_keeps {m : Nat} {s0 : State} (hm : m.land 39728447492 = 39728447492) (x : Txn) (f : State → State) (s : State) (h_f : ∀ x0, Keeps m s0 x0 → Keeps m s0 (f x0)) (h_s : Keeps m s0 s) :
    Keeps m s0 (request x f s) := by
  unfold request
  repeat' first
    | with_reducible assumption
    | with_reducible refine h_f _ ?_
    | with_reducible refine nack_keeps (landTrans hm (by decide)) _ _ _ _ ?_
    | with_reducible refine State.bump_keeps (landTrans hm (by decide)) _ _ _ _ _ ?_
    | with_reducible refine ite_keeps ?_ ?_

theorem atomicSee_keeps {m : Nat} {s0 : State} (hm : m.land 4 = 4) (s : State) (x : Txn) (c : ℕ) (h_s : Keeps m s0 s) :
    Keeps m s0 (atomicSee s x c) := by
  unfold atomicSee
  repeat' first
    | with_reducible assumption
    | with_reducible refine seeDev_keeps (landTrans hm (by decide)) _ _ _ ?_
    | with_reducible refine ite_keeps ?_ ?_

theorem serve_keeps {m : Nat} {s0 : State} (hm : m.land 39728448516 = 39728448516) (s : State) (x : Txn) (l : List CombEntry) (h_s : Keeps m s0 s) :
    KeepsO m s0 (serve s x l) := by
  unfold serve
  repeat' first
    | with_reducible assumption
    | (extract_lets -underBinder +onlyGivenNames x; first
      | (guard_hyp x : ℕ × State := _; refine (fun (hx : Keeps2 m s0 x) => ?_) ?_ <;> [clear_value x; subst x])
      | clear_value x)
    | with_reducible refine applyWrite_keeps (landTrans hm (by decide)) _ _ ?_
    | with_reducible refine nack_keeps (landTrans hm (by decide)) _ _ _ _ ?_
    | with_reducible refine atomicSee_keeps (landTrans hm (by decide)) _ _ _ ?_
    | with_reducible refine applyComb_keeps (landTrans hm (by decide)) _ _ _ ?_
    | with_reducible refine atomicOnce_keeps (landTrans hm (by decide)) _ _ _ _ _ _ ?_
    | with_reducible refine reply_keeps (landTrans hm (by decide)) _ _ _ _ _ _ _ ?_
    | with_reducible refine answerRead_keeps (landTrans hm (by decide)) _ _ ?_
    | with_reducible refine ite_keepsO ?_ ?_
    | with_reducible refine some_keeps ?_
    | with_reducible exact none_keeps
    | with_reducible exact Keeps2.of ‹_›

theorem settleHeld_keeps {m : Nat} {s0 : State} (hm : m.land 39728448516 = 39728448516) (r : ℕ) (r1 : State) (h_r1 : Keeps m s0 r1) :
    Keeps m s0 (settleHeld r r1) := by
  induction r generalizing r1 with
  | zero =>
    unfold settleHeld
    repeat' first
      | with_reducible assumption
  | succ k ih =>
    unfold settleHeld
    repeat' first
      | with_reducible assumption
      | with_reducible apply ih
      | intro _
      | (extract_lets -underBinder +onlyGivenNames x; first
        | (guard_hyp x : State := _; refine (fun (hx : Keeps m s0 x) => ?_) ?_ <;> [clear_value x; subst x])
        | (guard_hyp x : State × Held := _; refine (fun (hx : Keeps1 m s0 x) => ?_) ?_ <;> [clear_value x; subst x])
        | clear_value x)
      | with_reducible refine serve_keeps (landTrans hm (by decide)) _ _ _ ?_
      | with_reducible refine askFor_keeps (landTrans hm (by decide)) _ _ ?_
      | with_reducible refine foldl_keeps ?_ ?_
      | with_reducible refine findSome_keeps ?_
      | with_reducible refine ofSome ‹_ = some _› ?_
      | split
      | with_reducible exact Keeps1.of ‹_›
      | fail_if_no_progress (with_reducible refine upd_fab (landTrans hm (by decide)) _ ?_)

theorem retryHeld_keeps {m : Nat} {s0 : State} (hm : m.land 39728448516 = 39728448516) (s : State) (h_s : Keeps m s0 s) :
    Keeps m s0 (retryHeld s) := by
  unfold retryHeld
  repeat' first
    | with_reducible assumption
    | with_reducible refine settleHeld_keeps (landTrans hm (by decide)) _ _ ?_

theorem serveOrHold_keeps {m : Nat} {s0 : State} (hm : m.land 39728448516 = 39728448516) (s : State) (x : Txn) (l : List CombEntry) (h_s : Keeps m s0 s) :
    Keeps m s0 (serveOrHold s x l) := by
  unfold serveOrHold
  repeat' first
    | with_reducible assumption
    | (extract_lets -underBinder +onlyGivenNames x; clear_value x)
    | with_reducible refine serve_keeps (landTrans hm (by decide)) _ _ _ ?_
    | with_reducible refine retryHeld_keeps (landTrans hm (by decide)) _ ?_
    | with_reducible refine ite_keeps ?_ ?_
    | with_reducible refine ofSome ‹_ = some _› ?_
    | split
    | fail_if_no_progress (with_reducible refine upd_fab (landTrans hm (by decide)) _ ?_)

theorem atomicArrives_keeps {m : Nat} {s0 : State} (hm : m.land 39728448516 = 39728448516) (s : State) (x : Txn) (h_s : Keeps m s0 s) :
    Keeps m s0 (atomicArrives s x) := by
  unfold atomicArrives
  repeat' first
    | with_reducible assumption
    | intro _
    | with_reducible refine request_keeps (landTrans hm (by decide)) _ _ _ ?_ ?_
    | with_reducible refine reply_keeps (landTrans hm (by decide)) _ _ _ _ _ _ _ ?_
    | with_reducible refine serveOrHold_keeps (landTrans hm (by decide)) _ _ _ ?_
    | with_reducible refine ite_keeps ?_ ?_
    | split

theorem atomicRetry_keeps {m : Nat} {s0 : State} (hm : m.land 39728447492 = 39728447492) (s : State) (seq : Word) (h_s : Keeps m s0 s) :
    Keeps m s0 (atomicRetry s seq) := by
  unfold atomicRetry
  repeat' first
    | with_reducible assumption
    | (extract_lets -underBinder +onlyGivenNames x; first
      | (guard_hyp x : State := _; refine (fun (hx : Keeps m s0 x) => ?_) ?_ <;> [clear_value x; subst x])
      | clear_value x)
    | with_reducible refine sendTxn_keeps (landTrans hm (by decide)) _ _ ?_
    | with_reducible refine State.bump_keeps (landTrans hm (by decide)) _ _ _ _ _ ?_
    | with_reducible refine ite_keeps ?_ ?_
    | split
    | fail_if_no_progress (with_reducible refine upd_fab (landTrans hm (by decide)) _ ?_)

theorem replayUncertain_keeps {m : Nat} {s0 : State} (hm : m.land 60131732484 = 60131732484) (s : State) (uid : ℕ) (h_s : Keeps m s0 s) :
    Keeps m s0 (replayUncertain s uid) := by
  unfold replayUncertain
  repeat' first
    | with_reducible assumption
    | intro _
    | (extract_lets -underBinder +onlyGivenNames x; first
      | (guard_hyp x : State := _; refine (fun (hx : Keeps m s0 x) => ?_) ?_ <;> [clear_value x; subst x])
      | clear_value x)
    | with_reducible refine forEach_keeps (landTrans hm (by decide)) _ _ _ ?_ ?_
    | with_reducible refine journal_keeps (landTrans hm (by decide)) _ _ ?_
    | with_reducible refine setRep_keeps (landTrans hm (by decide)) _ _ _ ?_
    | with_reducible refine State.bump_keeps (landTrans hm (by decide)) _ _ _ _ _ ?_
    | with_reducible refine teardown_keeps (landTrans hm (by decide)) _ _ _ _ ?_
    | with_reducible refine setCtx_keeps (landTrans hm (by decide)) _ _ _ ?_
    | split

theorem atomicUncertain_keeps {m : Nat} {s0 : State} (hm : m.land 65500441604 = 65500441604) (s : State) (seq : Word) (h_s : Keeps m s0 s) :
    Keeps m s0 (atomicUncertain s seq) := by
  unfold atomicUncertain
  repeat' first
    | with_reducible assumption
    | (extract_lets -underBinder +onlyGivenNames x; first
      | (guard_hyp x : State := _; refine (fun (hx : Keeps m s0 x) => ?_) ?_ <;> [clear_value x; subst x])
      | (guard_hyp x : State × Bool := _; refine (fun (hx : Keeps1 m s0 x) => ?_) ?_ <;> [clear_value x; subst x]))
    | with_reducible refine dropPend_keeps (landTrans hm (by decide)) _ _ ?_
    | with_reducible refine State.bump_keeps (landTrans hm (by decide)) _ _ _ _ _ ?_
    | with_reducible refine journal_keeps (landTrans hm (by decide)) _ _ ?_
    | with_reducible refine emit_keeps (landTrans hm (by decide)) _ _ ?_
    | with_reducible refine whoFault_keeps (landTrans hm (by decide)) _ _ _ _ ?_
    | with_reducible refine replayUncertain_keeps (landTrans hm (by decide)) _ _ ?_
    | with_reducible refine ite_keeps ?_ ?_
    | split
    | with_reducible exact Keeps1.of ‹_›

theorem combArrives_keeps {m : Nat} {s0 : State} (hm : m.land 39728448516 = 39728448516) (s : State) (x : Txn) (l : List CombEntry) (h_s : Keeps m s0 s) :
    Keeps m s0 (combArrives s x l) := by
  unfold combArrives
  repeat' first
    | with_reducible assumption
    | intro _
    | with_reducible refine request_keeps (landTrans hm (by decide)) _ _ _ ?_ ?_
    | with_reducible refine serveOrHold_keeps (landTrans hm (by decide)) _ _ _ ?_
    | with_reducible refine ite_keeps ?_ ?_

theorem deliver_keeps {m : Nat} {s0 : State} (hm : m.land 65500572678 = 65500572678) (s : State) (w : Who) (ga : ℕ) (b : Bytes) (bad : Bool) (h_s : Keeps m s0 s) :
    Keeps m s0 (deliver s w ga b bad) := by
  unfold deliver
  repeat' first
    | with_reducible assumption
    | (extract_lets -underBinder +onlyGivenNames x; first
      | (guard_hyp x : State := _; refine (fun (hx : Keeps m s0 x) => ?_) ?_ <;> [clear_value x; subst x])
      | clear_value x)
    | with_reducible refine accumHeld_keeps (landTrans hm (by decide)) _ _ ?_
    | with_reducible refine runFly_keeps (landTrans hm (by decide)) _ _ ?_
    | with_reducible refine putFly_keeps (landTrans hm (by decide)) _ _ _ ?_
    | with_reducible refine setCtx_keeps (landTrans hm (by decide)) _ _ _ ?_
    | with_reducible refine ite_keeps ?_ ?_
    | split
    | with_reducible refine Keeps1.of (whoFault_keeps (landTrans hm (by decide)) _ _ _ _ ?_)

theorem deniedRec_keeps {m : Nat} {s0 : State} (hm : m.land 42949673988 = 42949673988) (s : State) (node : ℕ) (off : ℕ) (h_s : Keeps m s0 s) :
    Keeps m s0 (deniedRec s node off) := by
  unfold deniedRec
  repeat' first
    | with_reducible assumption
    | with_reducible refine journal_keeps (landTrans hm (by decide)) _ _ ?_

theorem settleInv_keeps {m : Nat} {s0 : State} (hm : m.land 4294968320 = 4294968320) (r : ℕ) (r1 : State) (h_r1 : Keeps m s0 r1) :
    Keeps m s0 (settleInv r r1) := by
  induction r generalizing r1 with
  | zero =>
    unfold settleInv
    repeat' first
      | with_reducible assumption
  | succ k ih =>
    unfold settleInv
    repeat' first
      | with_reducible assumption
      | with_reducible apply ih
      | (extract_lets -underBinder +onlyGivenNames x; clear_value x)
      | with_reducible refine devStore_keeps (landTrans hm (by decide)) _ _ _ _ ?_
      | split
      | fail_if_no_progress (with_reducible refine upd_fab (landTrans hm (by decide)) _ ?_)

theorem settleHome_keeps {m : Nat} {s0 : State} (hm : m.land 65500572678 = 65500572678) (s : State) (h_s : Keeps m s0 s) :
    Keeps m s0 (settleHome s) := by
  unfold settleHome
  repeat' first
    | with_reducible assumption
    | intro _
    | (extract_lets -underBinder +onlyGivenNames x; guard_hyp x : State := _; refine (fun (hx : Keeps m s0 x) => ?_) ?_ <;> [clear_value x; subst x])
    | with_reducible refine retryHeld_keeps (landTrans hm (by decide)) _ ?_
    | with_reducible refine settleInv_keeps (landTrans hm (by decide)) _ _ ?_
    | with_reducible refine forEach_keeps (landTrans hm (by decide)) _ _ _ ?_ ?_
    | with_reducible refine runFly_keeps (landTrans hm (by decide)) _ _ ?_

theorem dropSharer_keeps {m : Nat} {s0 : State} (hm : m.land 65500572678 = 65500572678) (s : State) (node : ℕ) (h_s : Keeps m s0 s) :
    Keeps m s0 (dropSharer s node) := by
  unfold dropSharer
  repeat' first
    | with_reducible assumption
    | intro _
    | (extract_lets -underBinder +onlyGivenNames x; clear_value x)
    | with_reducible refine settleHome_keeps (landTrans hm (by decide)) _ ?_
    | with_reducible refine forEach_keeps (landTrans hm (by decide)) _ _ _ ?_ ?_
    | with_reducible refine setDir_keeps (landTrans hm (by decide)) _ _ _ ?_
    | split

theorem execAck_keeps {m : Nat} {s0 : State} (hm : m.land 65640295438 = 65640295438) (q : ℕ) (x : Txn) (s : State) (h_s : Keeps m s0 s) :
    KeepsX m s0 (execAck q x s) := by
  unfold execAck
  repeat' first
    | with_reducible assumption
    | intro _
    | with_reducible refine arrive_keeps (landTrans hm (by decide)) _ _ _ _ _ ?_ ?_
    | with_reducible refine ackArrives_keeps (landTrans hm (by decide)) _ _ ?_
    | with_reducible refine next_keeps ?_

theorem execAtomic_keeps {m : Nat} {s0 : State} (hm : m.land 39728448516 = 39728448516) (q : ℕ) (x : Txn) (s : State) (h_s : Keeps m s0 s) :
    KeepsX m s0 (execAtomic q x s) := by
  unfold execAtomic
  repeat' first
    | with_reducible assumption
    | intro _
    | with_reducible refine arrive_keeps (landTrans hm (by decide)) _ _ _ _ _ ?_ ?_
    | with_reducible refine atomicArrives_keeps (landTrans hm (by decide)) _ _ ?_
    | with_reducible refine next_keeps ?_

theorem execAtomicRetry_keeps {m : Nat} {s0 : State} (hm : m.land 39728447492 = 39728447492) (seq : Word) (s : State) (h_s : Keeps m s0 s) :
    KeepsX m s0 (execAtomicRetry seq s) :=
  next_keeps (atomicRetry_keeps hm _ _ h_s)

theorem execAtomicRsp_keeps {m : Nat} {s0 : State} (hm : m.land 65640295438 = 65640295438) (q : ℕ) (x : Txn) (s : State) (h_s : Keeps m s0 s) :
    KeepsX m s0 (execAtomicRsp q x s) := by
  unfold execAtomicRsp
  repeat' first
    | with_reducible assumption
    | intro _
    | with_reducible refine arrive_keeps (landTrans hm (by decide)) _ _ _ _ _ ?_ ?_
    | with_reducible refine atomicAnswer_keeps (landTrans hm (by decide)) _ _ _ _ _ ?_
    | with_reducible refine next_keeps ?_

theorem execAtomicUncertainTimeout_keeps {m : Nat} {s0 : State} (hm : m.land 65500441604 = 65500441604) (seq : Word) (s : State) (h_s : Keeps m s0 s) :
    KeepsX m s0 (execAtomicUncertainTimeout seq s) :=
  next_keeps (atomicUncertain_keeps hm _ _ h_s)

theorem invArrives_keeps {m : Nat} {s0 : State} (hm : m.land 39728447492 = 39728447492) (s : State) (x : Txn) (h_s : Keeps m s0 s) :
    Keeps m s0 (invArrives s x) := by
  unfold invArrives
  repeat' first
    | with_reducible assumption
    | with_reducible refine reply_keeps (landTrans hm (by decide)) _ _ _ _ _ _ _ ?_
    | with_reducible refine cacheDrop_keeps (landTrans hm (by decide)) _ _ ?_

theorem execCohInv_keeps {m : Nat} {s0 : State} (hm : m.land 39728447492 = 39728447492) (q : ℕ) (x : Txn) (s : State) (h_s : Keeps m s0 s) :
    KeepsX m s0 (execCohInv q x s) := by
  unfold execCohInv
  repeat' first
    | with_reducible assumption
    | intro _
    | with_reducible refine arrive_keeps (landTrans hm (by decide)) _ _ _ _ _ ?_ ?_
    | with_reducible refine invArrives_keeps (landTrans hm (by decide)) _ _ ?_
    | with_reducible refine next_keeps ?_

theorem invAckArrives_keeps {m : Nat} {s0 : State} (hm : m.land 65500572678 = 65500572678) (s : State) (x : Txn) (h_s : Keeps m s0 s) :
    Keeps m s0 (invAckArrives s x) := by
  unfold invAckArrives
  repeat' first
    | with_reducible assumption
    | (extract_lets -underBinder +onlyGivenNames x; clear_value x)
    | with_reducible refine settleHome_keeps (landTrans hm (by decide)) _ ?_
    | with_reducible refine setDir_keeps (landTrans hm (by decide)) _ _ _ ?_
    | split

theorem execCohInvAck_keeps {m : Nat} {s0 : State} (hm : m.land 65500572678 = 65500572678) (q : ℕ) (x : Txn) (s : State) (h_s : Keeps m s0 s) :
    KeepsX m s0 (execCohInvAck q x s) := by
  unfold execCohInvAck
  repeat' first
    | with_reducible assumption
    | intro _
    | with_reducible refine arrive_keeps (landTrans hm (by decide)) _ _ _ _ _ ?_ ?_
    | with_reducible refine invAckArrives_keeps (landTrans hm (by decide)) _ _ ?_
    | with_reducible refine next_keeps ?_

theorem execCombAtomic_keeps {m : Nat} {s0 : State} (hm : m.land 39728448516 = 39728448516) (q : ℕ) (x : Txn) (entries : List CombEntry) (s : State) (h_s : Keeps m s0 s) :
    KeepsX m s0 (execCombAtomic q x entries s) := by
  unfold execCombAtomic
  repeat' first
    | with_reducible assumption
    | intro _
    | with_reducible refine arrive_keeps (landTrans hm (by decide)) _ _ _ _ _ ?_ ?_
    | with_reducible refine combArrives_keeps (landTrans hm (by decide)) _ _ _ ?_
    | with_reducible refine next_keeps ?_

theorem execCombAtomicRsp_keeps {m : Nat} {s0 : State} (hm : m.land 65640295438 = 65640295438) (q : ℕ) (x : Txn) (entries : List CombEntry) (s : State) (h_s : Keeps m s0 s) :
    KeepsX m s0 (execCombAtomicRsp q x entries s) := by
  unfold execCombAtomicRsp
  repeat' first
    | with_reducible assumption
    | intro _
    | with_reducible refine arrive_keeps (landTrans hm (by decide)) _ _ _ _ _ ?_ ?_
    | with_reducible refine forEach_keeps (landTrans hm (by decide)) _ _ _ ?_ ?_
    | with_reducible refine atomicAnswer_keeps (landTrans hm (by decide)) _ _ _ _ _ ?_
    | with_reducible refine next_keeps ?_

theorem heldDrop_keeps {m : Nat} {s0 : State} (hm : m.land 4294967296 = 4294967296) (s : State) (i : ℕ) (h_s : Keeps m s0 s) :
    Keeps m s0 (heldDrop s i) := by
  unfold heldDrop
  repeat' first
    | with_reducible assumption
    | (extract_lets -underBinder +onlyGivenNames x; clear_value x)
    | with_reducible refine ite_keeps ?_ ?_
    | split
    | fail_if_no_progress (with_reducible refine upd_fab (landTrans hm (by decide)) _ ?_)

theorem execHeldRequestDrop_keeps {m : Nat} {s0 : State} (hm : m.land 4294967296 = 4294967296) (i : ℕ) (s : State) (h_s : Keeps m s0 s) :
    KeepsX m s0 (execHeldRequestDrop i s) :=
  next_keeps (heldDrop_keeps hm _ _ h_s)

theorem resendFrom_keeps {m : Nat} {s0 : State} (hm : m.land 39728447492 = 39728447492) (s : State) (node : ℕ) (dseq : Word) (h_s : Keeps m s0 s) :
    Keeps m s0 (resendFrom s node dseq) := by
  unfold resendFrom
  repeat' first
    | with_reducible assumption
    | intro _
    | (extract_lets -underBinder +onlyGivenNames x; first
      | (guard_hyp x : State := _; refine (fun (hx : Keeps m s0 x) => ?_) ?_ <;> [clear_value x; subst x])
      | clear_value x)
    | with_reducible refine State.bump_keeps (landTrans hm (by decide)) _ _ _ _ _ ?_
    | with_reducible refine setDest_keeps (landTrans hm (by decide)) _ _ _ ?_
    | with_reducible refine forEach_keeps (landTrans hm (by decide)) _ _ _ ?_ ?_
    | with_reducible refine sendTxn_keeps (landTrans hm (by decide)) _ _ ?_

theorem refused_keeps {m : Nat} {s0 : State} (hm : m.land 65640295438 = 65640295438) (s : State) (x : Txn) (code : ℕ) (h_s : Keeps m s0 s) :
    Keeps m s0 (refused s x code) := by
  unfold refused
  repeat' first
    | with_reducible assumption
    | (extract_lets -underBinder +onlyGivenNames x; first
      | (guard_hyp x : State := _; refine (fun (hx : Keeps m s0 x) => ?_) ?_ <;> [clear_value x; subst x])
      | (guard_hyp x : State × Bool := _; refine (fun (hx : Keeps1 m s0 x) => ?_) ?_ <;> [clear_value x; subst x])
      | clear_value x)
    | with_reducible refine dropPend_keeps (landTrans hm (by decide)) _ _ ?_
    | with_reducible refine bumpAcked_keeps (landTrans hm (by decide)) _ _ _ ?_
    | with_reducible refine whoFault_keeps (landTrans hm (by decide)) _ _ _ _ ?_
    | with_reducible refine deniedRec_keeps (landTrans hm (by decide)) _ _ _ ?_
    | with_reducible refine setDest_keeps (landTrans hm (by decide)) _ _ _ ?_
    | with_reducible refine afterAck_keeps (landTrans hm (by decide)) _ _ ?_
    | with_reducible refine ctxFault_keeps (landTrans hm (by decide)) _ _ _ _ _ _ ?_
    | with_reducible refine ite_keeps ?_ ?_
    | split
    | with_reducible exact Keeps1.of ‹_›

theorem nackArrives_keeps {m : Nat} {s0 : State} (hm : m.land 65908730894 = 65908730894) (s : State) (x : Txn) (h_s : Keeps m s0 s) :
    Keeps m s0 (nackArrives s x) := by
  unfold nackArrives
  repeat' first
    | with_reducible assumption
    | (extract_lets -underBinder +onlyGivenNames x; first
      | (guard_hyp x : State := _; refine (fun (hx : Keeps m s0 x) => ?_) ?_ <;> [clear_value x; subst x])
      | clear_value x)
    | with_reducible refine progressed_keeps (landTrans hm (by decide)) _ _ ?_
    | with_reducible refine resendFrom_keeps (landTrans hm (by decide)) _ _ _ ?_
    | with_reducible refine fencedSelf_keeps (landTrans hm (by decide)) _ ?_
    | with_reducible refine refused_keeps (landTrans hm (by decide)) _ _ _ ?_
    | with_reducible refine ite_keeps ?_ ?_

theorem execNack_keeps {m : Nat} {s0 : State} (hm : m.land 65908730894 = 65908730894) (q : ℕ) (x : Txn) (s : State) (h_s : Keeps m s0 s) :
    KeepsX m s0 (execNack q x s) := by
  unfold execNack
  repeat' first
    | with_reducible assumption
    | intro _
    | with_reducible refine arrive_keeps (landTrans hm (by decide)) _ _ _ _ _ ?_ ?_
    | with_reducible refine nackArrives_keeps (landTrans hm (by decide)) _ _ ?_
    | with_reducible refine next_keeps ?_

theorem readAnswered_keeps {m : Nat} {s0 : State} (hm : m.land 65500572678 = 65500572678) (s : State) (x : Txn) (h_s : Keeps m s0 s) :
    Keeps m s0 (readAnswered s x) := by
  unfold readAnswered
  repeat' first
    | with_reducible assumption
    | intro _
    | (extract_lets -underBinder +onlyGivenNames x; first
      | (guard_hyp x : State := _; refine (fun (hx : Keeps m s0 x) => ?_) ?_ <;> [clear_value x; subst x])
      | clear_value x)
    | with_reducible refine progressed_keeps (landTrans hm (by decide)) _ _ ?_
    | with_reducible refine dropPend_keeps (landTrans hm (by decide)) _ _ ?_
    | with_reducible refine State.bump_keeps (landTrans hm (by decide)) _ _ _ _ _ ?_
    | with_reducible refine forEach_keeps (landTrans hm (by decide)) _ _ _ ?_ ?_
    | with_reducible refine cachePut_keeps (landTrans hm (by decide)) _ _ _ ?_
    | with_reducible refine deliver_keeps (landTrans hm (by decide)) _ _ _ _ _ ?_
    | with_reducible refine ite_keeps ?_ ?_
    | split

theorem execPageData_keeps {m : Nat} {s0 : State} (hm : m.land 65500572678 = 65500572678) (q : ℕ) (x : Txn) (s : State) (h_s : Keeps m s0 s) :
    KeepsX m s0 (execPageData q x s) := by
  unfold execPageData
  repeat' first
    | with_reducible assumption
    | intro _
    | with_reducible refine arrive_keeps (landTrans hm (by decide)) _ _ _ _ _ ?_ ?_
    | with_reducible refine readAnswered_keeps (landTrans hm (by decide)) _ _ ?_
    | with_reducible refine next_keeps ?_

theorem readArrives_keeps {m : Nat} {s0 : State} (hm : m.land 39728448516 = 39728448516) (s : State) (x : Txn) (h_s : Keeps m s0 s) :
    Keeps m s0 (readArrives s x) := by
  unfold readArrives
  repeat' first
    | with_reducible assumption
    | intro _
    | with_reducible refine request_keeps (landTrans hm (by decide)) _ _ _ ?_ ?_
    | with_reducible refine serveOrHold_keeps (landTrans hm (by decide)) _ _ _ ?_

theorem execPageRead_keeps {m : Nat} {s0 : State} (hm : m.land 39728448516 = 39728448516) (q : ℕ) (x : Txn) (s : State) (h_s : Keeps m s0 s) :
    KeepsX m s0 (execPageRead q x s) := by
  unfold execPageRead
  repeat' first
    | with_reducible assumption
    | intro _
    | with_reducible refine arrive_keeps (landTrans hm (by decide)) _ _ _ _ _ ?_ ?_
    | with_reducible refine readArrives_keeps (landTrans hm (by decide)) _ _ ?_
    | with_reducible refine next_keeps ?_

theorem writeArrives_keeps {m : Nat} {s0 : State} (hm : m.land 39728448516 = 39728448516) (s : State) (x : Txn) (h_s : Keeps m s0 s) :
    Keeps m s0 (writeArrives s x) := by
  unfold writeArrives
  repeat' first
    | with_reducible assumption
    | (extract_lets -underBinder +onlyGivenNames x; clear_value x)
    | with_reducible refine serveOrHold_keeps (landTrans hm (by decide)) _ _ _ ?_
    | with_reducible refine retryHeld_keeps (landTrans hm (by decide)) _ ?_
    | with_reducible refine nack_keeps (landTrans hm (by decide)) _ _ _ _ ?_
    | with_reducible refine State.bump_keeps (landTrans hm (by decide)) _ _ _ _ _ ?_
    | with_reducible refine raiseExpected_keeps (landTrans hm (by decide)) _ _ ?_
    | with_reducible refine ackHighest_keeps (landTrans hm (by decide)) _ _ ?_
    | with_reducible refine ite_keeps ?_ ?_

theorem execPageWrite_keeps {m : Nat} {s0 : State} (hm : m.land 39728448516 = 39728448516) (q : ℕ) (x : Txn) (s : State) (h_s : Keeps m s0 s) :
    KeepsX m s0 (execPageWrite q x s) := by
  unfold execPageWrite
  repeat' first
    | with_reducible assumption
    | intro _
    | with_reducible refine arrive_keeps (landTrans hm (by decide)) _ _ _ _ _ ?_ ?_
    | with_reducible refine writeArrives_keeps (landTrans hm (by decide)) _ _ ?_
    | with_reducible refine next_keeps ?_

theorem execRead_keeps {m : Nat} {s0 : State} (hm : m.land 39728448516 = 39728448516) (q : ℕ) (x : Txn) (s : State) (h_s : Keeps m s0 s) :
    KeepsX m s0 (execRead q x s) := by
  unfold execRead
  repeat' first
    | with_reducible assumption
    | intro _
    | with_reducible refine arrive_keeps (landTrans hm (by decide)) _ _ _ _ _ ?_ ?_
    | with_reducible refine readArrives_keeps (landTrans hm (by decide)) _ _ ?_
    | with_reducible refine next_keeps ?_

theorem execReadRsp_keeps {m : Nat} {s0 : State} (hm : m.land 65500572678 = 65500572678) (q : ℕ) (x : Txn) (s : State) (h_s : Keeps m s0 s) :
    KeepsX m s0 (execReadRsp q x s) := by
  unfold execReadRsp
  repeat' first
    | with_reducible assumption
    | intro _
    | with_reducible refine arrive_keeps (landTrans hm (by decide)) _ _ _ _ _ ?_ ?_
    | with_reducible refine readAnswered_keeps (landTrans hm (by decide)) _ _ ?_
    | with_reducible refine next_keeps ?_

theorem recordExpiry_keeps {m : Nat} {s0 : State} (hm : m.land 4294967296 = 4294967296) (s : State) (src : ℕ) (seq : Word) (h_s : Keeps m s0 s) :
    Keeps m s0 (recordExpiry s src seq) := by
  unfold recordExpiry
  repeat' first
    | with_reducible assumption
    | (extract_lets -underBinder +onlyGivenNames x; clear_value x)
    | with_reducible refine ite_keeps ?_ ?_
    | split
    | fail_if_no_progress (with_reducible refine upd_fab (landTrans hm (by decide)) _ ?_)

theorem execReplyRecordExpiry_keeps {m : Nat} {s0 : State} (hm : m.land 4294967296 = 4294967296) (src : ℕ) (seq : Word) (s : State) (h_s : Keeps m s0 s) :
    KeepsX m s0 (execReplyRecordExpiry src seq s) :=
  next_keeps (recordExpiry_keeps hm _ _ _ h_s)

theorem readsDue_keeps {m : Nat} {s0 : State} (hm : m.land 48318383108 = 48318383108) (s : State) (node : ℕ) (h_s : Keeps m s0 s) :
    Keeps m s0 (readsDue s node) := by
  unfold readsDue
  repeat' first
    | with_reducible assumption
    | intro _
    | (extract_lets -underBinder +onlyGivenNames x; first
      | (guard_hyp x : State := _; refine (fun (hx : Keeps m s0 x) => ?_) ?_ <;> [clear_value x; subst x])
      | clear_value x)
    | with_reducible refine forEach_keeps (landTrans hm (by decide)) _ _ _ ?_ ?_
    | with_reducible refine sendTxn_keeps (landTrans hm (by decide)) _ _ ?_
    | with_reducible refine ite_keeps ?_ ?_
    | split
    | fail_if_no_progress (with_reducible refine upd_fab (landTrans hm (by decide)) _ ?_)

theorem resendTimeout_keeps {m : Nat} {s0 : State} (hm : m.land 48318383108 = 48318383108) (s : State) (node : ℕ) (h_s : Keeps m s0 s) :
    Keeps m s0 (resendTimeout s node) := by
  unfold resendTimeout
  repeat' first
    | with_reducible assumption
    | with_reducible refine readsDue_keeps (landTrans hm (by decide)) _ _ ?_
    | intro _
    | (extract_lets -underBinder +onlyGivenNames x; first
      | (guard_hyp x : State := _; refine (fun (hx : Keeps m s0 x) => ?_) ?_ <;> [clear_value x; subst x])
      | clear_value x)
    | with_reducible refine resendAll_keeps (landTrans hm (by decide)) _ _ _ ?_
    | with_reducible refine forEach_keeps (landTrans hm (by decide)) _ _ _ ?_ ?_
    | with_reducible refine sendTxn_keeps (landTrans hm (by decide)) _ _ ?_
    | with_reducible refine ite_keeps ?_ ?_
    | split
    | fail_if_no_progress (with_reducible refine upd_fab (landTrans hm (by decide)) _ ?_)

theorem execResendTimeout_keeps {m : Nat} {s0 : State} (hm : m.land 48318383108 = 48318383108) (node : ℕ) (s : State) (h_s : Keeps m s0 s) :
    KeepsX m s0 (execResendTimeout node s) :=
  next_keeps (resendTimeout_keeps hm _ _ h_s)

theorem lostTimeout_keeps {m : Nat} {s0 : State} (hm : m.land 65908730892 = 65908730892) (s : State) (node : ℕ) (h_s : Keeps m s0 s) :
    Keeps m s0 (lostTimeout s node) := by
  unfold lostTimeout
  repeat' first
    | with_reducible assumption
    | (extract_lets -underBinder +onlyGivenNames x; clear_value x)
    | with_reducible refine targetLost_keeps (landTrans hm (by decide)) _ _ ?_
    | with_reducible refine ite_keeps ?_ ?_

theorem execTargetLostTimeout_keeps {m : Nat} {s0 : State} (hm : m.land 65908730892 = 65908730892) (node : ℕ) (s : State) (h_s : Keeps m s0 s) :
    KeepsX m s0 (execTargetLostTimeout node s) :=
  next_keeps (lostTimeout_keeps hm _ _ h_s)

theorem execWrite_keeps {m : Nat} {s0 : State} (hm : m.land 39728448516 = 39728448516) (q : ℕ) (x : Txn) (s : State) (h_s : Keeps m s0 s) :
    KeepsX m s0 (execWrite q x s) := by
  unfold execWrite
  repeat' first
    | with_reducible assumption
    | intro _
    | with_reducible refine arrive_keeps (landTrans hm (by decide)) _ _ _ _ _ ?_ ?_
    | with_reducible refine writeArrives_keeps (landTrans hm (by decide)) _ _ ?_
    | with_reducible refine next_keeps ?_

end Sys2Proof.Machine
end

