-- ==== Sys2Proof/Laws/KeepsMemory.lean ====
section
/-! SUPPORT. What each operation of Memory.lean keeps: the canonical form, and the parts of the state that it does not name. -/

namespace Sys2Proof.Machine

theorem retireGo_keeps {m : Nat} {s0 : State} (hm : m.land 4 = 4) (s : State) (a1 : ℕ) (h_s : Keeps m s0 s) :
    Keeps m s0 (retireGo s a1) := by
  unfold retireGo
  repeat' first
    | with_reducible assumption
    | (extract_lets -underBinder +onlyGivenNames x; first
      | (guard_hyp x : State := _; refine (fun (hx : Keeps m s0 x) => ?_) ?_ <;> [clear_value x; subst x])
      | clear_value x)
    | with_reducible refine State.set_keeps (landTrans hm (by decide)) _ _ _ _ _ ?_
    | with_reducible refine setFnState_keeps (landTrans hm (by decide)) _ _ _ ?_

theorem retireStack_keeps {m : Nat} {s0 : State} (hm : m.land 17179869188 = 17179869188) (s : State) (h_s : Keeps m s0 s) :
    Keeps m s0 (retireStack s) := by
  unfold retireStack
  repeat' first
    | with_reducible assumption
    | (extract_lets -underBinder +onlyGivenNames x; guard_hyp x : State := _; refine (fun (hx : Keeps m s0 x) => ?_) ?_ <;> [clear_value x; subst x])
    | with_reducible refine retireGo_keeps (landTrans hm (by decide)) _ _ ?_
    | with_reducible refine mbxEnd_keeps (landTrans hm (by decide)) _ _ _ ?_

theorem execStackRetire_keeps {m : Nat} {s0 : State} (hm : m.land 8813272891396 = 8813272891396) (rq : Requester) (s : State) (h_s : Keeps m s0 s) :
    KeepsX m s0 (execStackRetire rq s) := by
  unfold execStackRetire
  repeat' first
    | with_reducible assumption
    | intro _
    | with_reducible refine mbxCommand_keeps (landTrans hm (by decide)) _ _ _ _ _ ?_ ?_
    | with_reducible refine retireStack_keeps (landTrans hm (by decide)) _ ?_
    | with_reducible refine next_keeps ?_

theorem memchStart_keeps {m : Nat} {s0 : State} (hm : m.land 4 = 4) (s : State) (a1 : ℕ) (h_s : Keeps m s0 s) :
    Keeps m s0 (memchStart s a1) := by
  unfold memchStart
  repeat' first
    | with_reducible assumption
    | intro _
    | with_reducible refine startInDomain_keeps (landTrans hm (by decide)) _ _ _ ?_ ?_
    | with_reducible refine startFn_keeps (landTrans hm (by decide)) _ _ _ ?_
    | with_reducible refine ite_keeps ?_ ?_

theorem setScrub_keeps {m : Nat} {s0 : State} (hm : m.land 137438953476 = 137438953476) (s : State) (a1 : ℕ) (p : Scrub) (h_s : Keeps m s0 s) :
    Keeps m s0 (setScrub s a1 p) := by
  unfold setScrub
  repeat' first
    | with_reducible assumption
    | (extract_lets -underBinder +onlyGivenNames x; guard_hyp x : State := _; refine (fun (hx : Keeps m s0 x) => ?_) ?_ <;> [clear_value x; subst x])
    | with_reducible refine State.set_keeps (landTrans hm (by decide)) _ _ _ _ _ ?_
    | fail_if_no_progress (with_reducible refine upd_scrub (landTrans hm (by decide)) _ ?_)

theorem scrubRestart_keeps {m : Nat} {s0 : State} (hm : m.land 137438953476 = 137438953476) (s : State) (a1 : ℕ) (h_s : Keeps m s0 s) :
    Keeps m s0 (scrubRestart s a1) := by
  unfold scrubRestart
  repeat' first
    | with_reducible assumption
    | intro _
    | with_reducible refine startInDomain_keeps (landTrans hm (by decide)) _ _ _ ?_ ?_
    | with_reducible refine setScrub_keeps (landTrans hm (by decide)) _ _ _ ?_

theorem copyUnit_keeps {m : Nat} {s0 : State} (hm : m.land 34359739396 = 34359739396) (s : State) (a1 : ℕ) (a : ℕ) (ces : List ℕ) (ue : Bool) (h_s : Keeps m s0 s) :
    Keeps m s0 (copyUnit s a1 a ces ue) := by
  unfold copyUnit
  dsimp only
  repeat' first
    | (intro w; simp only [State.wf, Mems.wf, Bool.and_eq_true] at w; try simp only [Mems.wf, Bool.and_eq_true]
       first | (simp [w.1, w.2, w, wrBytes_wf, wrM_wf, poisonWrite_wf, mapDropRange, mapFilter_wf, mapPut_wf]; done) | (simp at w; simp [w, wrBytes_wf, wrM_wf, poisonWrite_wf, mapDropRange, mapFilter_wf, mapPut_wf]; done))
    | with_reducible assumption
    | intro _
    | with_reducible refine forEach_keeps (landTrans hm (by decide)) _ _ _ ?_ ?_
    | with_reducible refine channelCe_keeps (landTrans hm (by decide)) _ _ _ ?_
    | with_reducible refine channelUe_keeps (landTrans hm (by decide)) _ _ _ ?_
    | with_reducible refine ite_keeps ?_ ?_
    | split
    | fail_if_no_progress (with_reducible refine upd_mems (landTrans hm (by decide)) _ ?_ ?_)

theorem execMemchStart_keeps {m : Nat} {s0 : State} (hm : m.land 4 = 4) (a0 : ℕ) (s : State) (h_s : Keeps m s0 s) :
    KeepsX m s0 (execMemchStart a0 s) := by
  unfold execMemchStart
  repeat' first
    | with_reducible assumption
    | with_reducible refine memchStart_keeps (landTrans hm (by decide)) _ _ ?_
    | with_reducible refine ite_keeps ?_ ?_
    | with_reducible refine next_keeps ?_

theorem scrubBurst_keeps {m : Nat} {s0 : State} (hm : m.land 171798692868 = 171798692868) (s : State) (a1 : ℕ) (ces : List ℕ) (ues : List ℕ) (h_s : Keeps m s0 s) :
    Keeps m s0 (scrubBurst s a1 ces ues) := by
  unfold scrubBurst
  repeat' first
    | with_reducible assumption
    | intro _
    | (extract_lets -underBinder +onlyGivenNames x; first
      | (guard_hyp x : State := _; refine (fun (hx : Keeps m s0 x) => ?_) ?_ <;> [clear_value x; subst x])
      | clear_value x)
    | with_reducible refine State.set_keeps (landTrans hm (by decide)) _ _ _ _ _ ?_
    | with_reducible refine setScrub_keeps (landTrans hm (by decide)) _ _ _ ?_
    | with_reducible refine raiseReq_keeps (landTrans hm (by decide)) _ _ _ _ _ _ ?_
    | with_reducible refine forEach_keeps (landTrans hm (by decide)) _ _ _ ?_ ?_
    | with_reducible refine State.bumpSat_keeps (landTrans hm (by decide)) _ _ _ _ _ ?_
    | with_reducible refine channelUe_keeps (landTrans hm (by decide)) _ _ _ ?_
    | with_reducible refine ite_keeps ?_ ?_

theorem execScrubBurst_keeps {m : Nat} {s0 : State} (hm : m.land 171798692868 = 171798692868) (a0 : ℕ) (ces : List ℕ) (ues : List ℕ) (s : State) (h_s : Keeps m s0 s) :
    KeepsX m s0 (execScrubBurst a0 ces ues s) := by
  unfold execScrubBurst
  repeat' first
    | with_reducible assumption
    | with_reducible refine scrubBurst_keeps (landTrans hm (by decide)) _ _ _ _ ?_
    | with_reducible refine ite_keeps ?_ ?_
    | with_reducible refine next_keeps ?_

theorem execScrubRestart_keeps {m : Nat} {s0 : State} (hm : m.land 137438953476 = 137438953476) (a0 : ℕ) (s : State) (h_s : Keeps m s0 s) :
    KeepsX m s0 (execScrubRestart a0 s) := by
  unfold execScrubRestart
  repeat' first
    | with_reducible assumption
    | with_reducible refine scrubRestart_keeps (landTrans hm (by decide)) _ _ ?_
    | with_reducible refine ite_keeps ?_ ?_
    | with_reducible refine next_keeps ?_

theorem moveEnd_keeps {m : Nat} {s0 : State} (hm : m.land 111669150724 = 111669150724) (s : State) (h_s : Keeps m s0 s) :
    Keeps m s0 (moveEnd s) := by
  unfold moveEnd
  repeat' first
    | with_reducible assumption
    | (extract_lets -underBinder +onlyGivenNames x; first
      | (guard_hyp x : State := _; refine (fun (hx : Keeps m s0 x) => ?_) ?_ <;> [clear_value x; subst x])
      | clear_value x)
    | with_reducible refine setFnState_keeps (landTrans hm (by decide)) _ _ _ ?_
    | with_reducible refine State.set_keeps (landTrans hm (by decide)) _ _ _ _ _ ?_
    | with_reducible refine journal_keeps (landTrans hm (by decide)) _ _ ?_
    | fail_if_no_progress (with_reducible refine upd_move (landTrans hm (by decide)) _ ?_)

theorem moveOn_keeps {m : Nat} {s0 : State} (hm : m.land 111669150724 = 111669150724) (s : State) (h_s : Keeps m s0 s) :
    Keeps m s0 (moveOn s) := by
  unfold moveOn
  repeat' first
    | with_reducible assumption
    | (extract_lets -underBinder +onlyGivenNames x; clear_value x)
    | with_reducible refine moveEnd_keeps (landTrans hm (by decide)) _ ?_
    | split
    | fail_if_no_progress (with_reducible refine upd_move (landTrans hm (by decide)) _ ?_)

theorem unitCopy_keeps {m : Nat} {s0 : State} (hm : m.land 111669150724 = 111669150724) (s : State) (ces : List ℕ) (ue : Bool) (h_s : Keeps m s0 s) :
    Keeps m s0 (unitCopy s ces ue) := by
  unfold unitCopy
  repeat' first
    | with_reducible assumption
    | (extract_lets -underBinder +onlyGivenNames x; first
      | (guard_hyp x : State := _; refine (fun (hx : Keeps m s0 x) => ?_) ?_ <;> [clear_value x; subst x])
      | clear_value x)
    | with_reducible refine copyUnit_keeps (landTrans hm (by decide)) _ _ _ _ _ ?_
    | with_reducible refine raiseMem_keeps (landTrans hm (by decide)) _ _ _ _ _ _ ?_
    | with_reducible refine moveOn_keeps (landTrans hm (by decide)) _ ?_
    | with_reducible refine State.bump_keeps (landTrans hm (by decide)) _ _ _ _ _ ?_
    | with_reducible refine ite_keeps ?_ ?_
    | fail_if_no_progress (with_reducible refine upd_move (landTrans hm (by decide)) _ ?_)

theorem execStackMoveUnitCopy_keeps {m : Nat} {s0 : State} (hm : m.land 111669150724 = 111669150724) (errs : UnitErrs) (s : State) (h_s : Keeps m s0 s) :
    KeepsX m s0 (execStackMoveUnitCopy errs s) :=
  next_keeps (unitCopy_keeps hm _ _ _ h_s)

theorem mapSwitch_keeps {m : Nat} {s0 : State} (hm : m.land 68719476740 = 68719476740) (s : State) (h_s : Keeps m s0 s) :
    Keeps m s0 (mapSwitch s) := by
  unfold mapSwitch
  repeat' first
    | with_reducible assumption
    | intro _
    | (extract_lets -underBinder +onlyGivenNames x; first
      | (guard_hyp x : State := _; refine (fun (hx : Keeps m s0 x) => ?_) ?_ <;> [clear_value x; subst x])
      | clear_value x)
    | with_reducible refine forEach_keeps (landTrans hm (by decide)) _ _ _ ?_ ?_
    | with_reducible refine setStripe_keeps (landTrans hm (by decide)) _ _ _ ?_
    | with_reducible refine ite_keeps ?_ ?_
    | split
    | fail_if_no_progress (with_reducible refine upd_move (landTrans hm (by decide)) _ ?_)

theorem execStripeMapSwitch_keeps {m : Nat} {s0 : State} (hm : m.land 68719476740 = 68719476740) (s : State) (h_s : Keeps m s0 s) :
    KeepsX m s0 (execStripeMapSwitch s) :=
  next_keeps (mapSwitch_keeps hm _ h_s)

end Sys2Proof.Machine
end

