-- ==== Sys2Proof/Laws/KeepsJournal.lean ====
section
/-! SUPPORT. What each operation of Journal.lean keeps: the canonical form, and the parts of the state that it does not name. -/

namespace Sys2Proof.Machine

theorem setMargin_keeps {m : Nat} {s0 : State} (hm : m.land 4 = 4) (s : State) (a1 : ℕ) (n : ℕ) (v : ℤ) (h_s : Keeps m s0 s) :
    Keeps m s0 (setMargin s a1 n v) := by
  unfold setMargin
  repeat' first
    | with_reducible assumption
    | with_reducible refine State.setS_keeps (landTrans hm (by decide)) _ _ _ _ _ ?_
    | with_reducible refine ite_keeps ?_ ?_
    | split

theorem marginCrossing_keeps {m : Nat} {s0 : State} (hm : m.land 42949673988 = 42949673988) (s : State) (a1 : ℕ) (n : ℕ) (v : ℤ) (retire : Bool) (h_s : Keeps m s0 s) :
    Keeps m s0 (marginCrossing s a1 n v retire) := by
  unfold marginCrossing
  repeat' first
    | with_reducible assumption
    | (extract_lets -underBinder +onlyGivenNames x; first
      | (guard_hyp x : State := _; refine (fun (hx : Keeps m s0 x) => ?_) ?_ <;> [clear_value x; subst x])
      | clear_value x)
    | with_reducible refine setMargin_keeps (landTrans hm (by decide)) _ _ _ _ ?_
    | with_reducible refine State.set_keeps (landTrans hm (by decide)) _ _ _ _ _ ?_
    | with_reducible refine journal_keeps (landTrans hm (by decide)) _ _ ?_
    | with_reducible refine ite_keeps ?_ ?_

theorem jrnlStart_keeps {m : Nat} {s0 : State} (hm : m.land 4 = 4) (s : State) (h_s : Keeps m s0 s) :
    Keeps m s0 (jrnlStart s) := by
  unfold jrnlStart
  repeat' first
    | with_reducible assumption
    | with_reducible refine startFn_keeps (landTrans hm (by decide)) _ _ _ ?_

theorem jrnlStop_keeps {m : Nat} {s0 : State} (hm : m.land 4 = 4) (s : State) (h_s : Keeps m s0 s) :
    Keeps m s0 (jrnlStop s) := by
  unfold jrnlStop
  repeat' first
    | with_reducible assumption
    | (extract_lets -underBinder +onlyGivenNames x; clear_value x)
    | with_reducible refine State.set_keeps (landTrans hm (by decide)) _ _ _ _ _ ?_
    | with_reducible refine setFnState_keeps (landTrans hm (by decide)) _ _ _ ?_
    | with_reducible refine ite_keeps ?_ ?_

theorem channelFail_keeps {m : Nat} {s0 : State} (hm : m.land 60609883140 = 60609883140) (s : State) (a : ℕ) (h_s : Keeps m s0 s) :
    Keeps m s0 (channelFail s a) := by
  unfold channelFail
  repeat' first
    | with_reducible assumption
    | (extract_lets -underBinder +onlyGivenNames x; first
      | (guard_hyp x : State := _; refine (fun (hx : Keeps m s0 x) => ?_) ?_ <;> [clear_value x; subst x])
      | clear_value x)
    | with_reducible refine State.set_keeps (landTrans hm (by decide)) _ _ _ _ _ ?_
    | with_reducible refine faultFn_keeps (landTrans hm (by decide)) _ _ _ ?_
    | with_reducible refine retireGo_keeps (landTrans hm (by decide)) _ _ ?_
    | with_reducible refine failStop_keeps (landTrans hm (by decide)) _ ?_
    | with_reducible refine ite_keeps ?_ ?_

theorem copyBack_keeps {m : Nat} {s0 : State} (hm : m.land 1024 = 1024) (s : State) (n : ℕ) (c : ℕ) (x : ℕ) (h_s : Keeps m s0 s) :
    KeepsO m s0 (copyBack s n c x) := by
  unfold copyBack
  dsimp only
  repeat' first
    | (intro w; simp only [State.wf, Mems.wf, Bool.and_eq_true] at w; try simp only [Mems.wf, Bool.and_eq_true]
       first | (simp [w.1, w.2, w, wrBytes_wf, wrM_wf, poisonWrite_wf, mapDropRange, mapFilter_wf, mapPut_wf]; done) | (simp at w; simp [w, wrBytes_wf, wrM_wf, poisonWrite_wf, mapDropRange, mapFilter_wf, mapPut_wf]; done))
    | with_reducible assumption
    | with_reducible refine ite_keepsO ?_ ?_
    | with_reducible refine some_keeps ?_
    | with_reducible exact none_keeps
    | fail_if_no_progress (with_reducible refine upd_mems (landTrans hm (by decide)) _ ?_ ?_)

theorem cpError_keeps {m : Nat} {s0 : State} (hm : m.land 10244 = 10244) (s : State) (n : ℕ) (h_s : Keeps m s0 s) :
    Keeps m s0 (cpError s n) := by
  unfold cpError
  repeat' first
    | with_reducible assumption
    | intro _
    | (extract_lets -underBinder +onlyGivenNames x; first
      | (guard_hyp x : State := _; refine (fun (hx : Keeps m s0 x) => ?_) ?_ <;> [clear_value x; subst x])
      | clear_value x)
    | with_reducible refine setCore_keeps (landTrans hm (by decide)) _ _ _ ?_
    | with_reducible refine forEach_keeps (landTrans hm (by decide)) _ _ _ ?_ ?_
    | with_reducible refine leaveSlot_keeps (landTrans hm (by decide)) _ _ _ ?_
    | with_reducible refine queueActs_keeps (landTrans hm (by decide)) _ _ _ ?_
    | with_reducible refine ite_keeps ?_ ?_

theorem dropReads_keeps {m : Nat} {s0 : State} (hm : m.land 4294967296 = 4294967296) (s : State) (uids : List ℕ) (h_s : Keeps m s0 s) :
    Keeps m s0 (dropReads s uids) := by
  unfold dropReads
  repeat' first
    | with_reducible assumption
    | (extract_lets -underBinder +onlyGivenNames x; clear_value x)
    | fail_if_no_progress (with_reducible refine upd_fab (landTrans hm (by decide)) _ ?_)

theorem restartAll_keeps {m : Nat} {s0 : State} (hm : m.land 4294967296 = 4294967296) (s : State) (h_s : Keeps m s0 s) :
    Keeps m s0 (restartAll s) := by
  unfold restartAll
  repeat' first
    | with_reducible assumption
    | intro _
    | (extract_lets -underBinder +onlyGivenNames x; first
      | (guard_hyp x : State := _; refine (fun (hx : Keeps m s0 x) => ?_) ?_ <;> [clear_value x; subst x])
      | clear_value x)
    | with_reducible refine forEach_keeps (landTrans hm (by decide)) _ _ _ ?_ ?_
    | with_reducible refine setDest_keeps (landTrans hm (by decide)) _ _ _ ?_
    | fail_if_no_progress (with_reducible refine upd_fab (landTrans hm (by decide)) _ ?_)

theorem takeInc_keeps {m : Nat} {s0 : State} (hm : m.land 65500572678 = 65500572678) (s : State) (inc : ℕ) (h_s : Keeps m s0 s) :
    Keeps m s0 (takeInc s inc) := by
  unfold takeInc
  repeat' first
    | with_reducible assumption
    | intro _
    | (extract_lets -underBinder +onlyGivenNames x; first
      | (guard_hyp x : State := _; refine (fun (hx : Keeps m s0 x) => ?_) ?_ <;> [clear_value x; subst x])
      | clear_value x)
    | with_reducible refine journal_keeps (landTrans hm (by decide)) _ _ ?_
    | with_reducible refine State.set_keeps (landTrans hm (by decide)) _ _ _ _ _ ?_
    | with_reducible refine restartAll_keeps (landTrans hm (by decide)) _ ?_
    | with_reducible refine forEach_keeps (landTrans hm (by decide)) _ _ _ ?_ ?_
    | with_reducible refine accumHeld_keeps (landTrans hm (by decide)) _ _ ?_
    | with_reducible refine runFly_keeps (landTrans hm (by decide)) _ _ ?_
    | fail_if_no_progress (with_reducible refine upd_fab (landTrans hm (by decide)) _ ?_)

theorem incarnation_keeps {m : Nat} {s0 : State} (hm : m.land 65500572678 = 65500572678) (s : State) (inc : ℕ) (h_s : Keeps m s0 s) :
    Keeps m s0 (incarnation s inc) := by
  unfold incarnation
  repeat' first
    | with_reducible assumption
    | with_reducible refine takeInc_keeps (landTrans hm (by decide)) _ _ ?_
    | with_reducible refine ite_keeps ?_ ?_

theorem execIncarnation_keeps {m : Nat} {s0 : State} (hm : m.land 65500572678 = 65500572678) (inc : ℕ) (s : State) (h_s : Keeps m s0 s) :
    KeepsX m s0 (execIncarnation inc s) :=
  next_keeps (incarnation_keeps hm _ _ h_s)

theorem execJournalFlush_keeps {m : Nat} {s0 : State} (hm : m.land 42949673988 = 42949673988) (s : State) (h_s : Keeps m s0 s) :
    KeepsX m s0 (execJournalFlush s) :=
  next_keeps (journalDue_keeps hm _ h_s)

theorem execJrnlStart_keeps {m : Nat} {s0 : State} (hm : m.land 4 = 4) (s : State) (h_s : Keeps m s0 s) :
    KeepsX m s0 (execJrnlStart s) :=
  next_keeps (jrnlStart_keeps hm _ h_s)

theorem execJrnlStop_keeps {m : Nat} {s0 : State} (hm : m.land 4 = 4) (s : State) (h_s : Keeps m s0 s) :
    KeepsX m s0 (execJrnlStop s) :=
  next_keeps (jrnlStop_keeps hm _ h_s)

theorem laserFit_keeps {m : Nat} {s0 : State} (hm : m.land 4294967300 = 4294967300) (s : State) (e : ℕ) (h_s : Keeps m s0 s) :
    Keeps m s0 (laserFit s e) := by
  unfold laserFit
  repeat' first
    | with_reducible assumption
    | intro _
    | (extract_lets -underBinder +onlyGivenNames x; first
      | (guard_hyp x : State := _; refine (fun (hx : Keeps m s0 x) => ?_) ?_ <;> [clear_value x; subst x])
      | clear_value x)
    | with_reducible refine forEach_keeps (landTrans hm (by decide)) _ _ _ ?_ ?_
    | with_reducible refine State.set_keeps (landTrans hm (by decide)) _ _ _ _ _ ?_
    | split
    | fail_if_no_progress (with_reducible refine upd_fab (landTrans hm (by decide)) _ ?_)

theorem execLaserModuleFit_keeps {m : Nat} {s0 : State} (hm : m.land 4294967300 = 4294967300) (e : ℕ) (s : State) (h_s : Keeps m s0 s) :
    KeepsX m s0 (execLaserModuleFit e s) := by
  unfold execLaserModuleFit
  repeat' first
    | with_reducible assumption
    | with_reducible refine laserFit_keeps (landTrans hm (by decide)) _ _ ?_
    | with_reducible refine ite_keeps ?_ ?_
    | with_reducible refine next_keeps ?_

theorem laserRemove_keeps {m : Nat} {s0 : State} (hm : m.land 48318383108 = 48318383108) (s : State) (e : ℕ) (h_s : Keeps m s0 s) :
    Keeps m s0 (laserRemove s e) := by
  unfold laserRemove
  repeat' first
    | with_reducible assumption
    | intro _
    | (extract_lets -underBinder +onlyGivenNames x; first
      | (guard_hyp x : State := _; refine (fun (hx : Keeps m s0 x) => ?_) ?_ <;> [clear_value x; subst x])
      | clear_value x)
    | with_reducible refine forEach_keeps (landTrans hm (by decide)) _ _ _ ?_ ?_
    | with_reducible refine State.set_keeps (landTrans hm (by decide)) _ _ _ _ _ ?_
    | with_reducible refine linkDown_keeps (landTrans hm (by decide)) _ _ ?_
    | with_reducible refine setLink_keeps (landTrans hm (by decide)) _ _ _ ?_
    | with_reducible refine ite_keeps ?_ ?_
    | fail_if_no_progress (with_reducible refine upd_fab (landTrans hm (by decide)) _ ?_)

theorem execLaserModuleRemove_keeps {m : Nat} {s0 : State} (hm : m.land 48318383108 = 48318383108) (e : ℕ) (s : State) (h_s : Keeps m s0 s) :
    KeepsX m s0 (execLaserModuleRemove e s) := by
  unfold execLaserModuleRemove
  repeat' first
    | with_reducible assumption
    | with_reducible refine laserRemove_keeps (landTrans hm (by decide)) _ _ ?_
    | with_reducible refine ite_keeps ?_ ?_
    | with_reducible refine next_keeps ?_

theorem execMarginCrossing_keeps {m : Nat} {s0 : State} (hm : m.land 42949673988 = 42949673988) (monitor : ℕ) (n : ℕ) (value : ℤ) (retire : Bool) (s : State) (h_s : Keeps m s0 s) :
    KeepsX m s0 (execMarginCrossing monitor n value retire s) :=
  next_keeps (marginCrossing_keeps hm _ _ _ _ _ h_s)

theorem linkFail_keeps {m : Nat} {s0 : State} (hm : m.land 60609883140 = 60609883140) (s : State) (h_s : Keeps m s0 s) :
    Keeps m s0 (linkFail s) := by
  unfold linkFail
  repeat' first
    | with_reducible assumption
    | (extract_lets -underBinder +onlyGivenNames x; first
      | (guard_hyp x : State := _; refine (fun (hx : Keeps m s0 x) => ?_) ?_ <;> [clear_value x; subst x])
      | clear_value x)
    | with_reducible refine State.set_keeps (landTrans hm (by decide)) _ _ _ _ _ ?_
    | with_reducible refine failStop_keeps (landTrans hm (by decide)) _ ?_
    | with_reducible refine ite_keeps ?_ ?_
    | fail_if_no_progress (with_reducible refine upd_jr (landTrans hm (by decide)) _ ?_)

theorem hardwareFault_keeps {m : Nat} {s0 : State} (hm : m.land 60609883140 = 60609883140) (s : State) (n : ℕ) (uid : ℕ) (e : MemErr) (h_s : Keeps m s0 s) :
    Keeps m s0 (hardwareFault s n uid e) := by
  unfold hardwareFault
  repeat' first
    | with_reducible assumption
    | (extract_lets -underBinder +onlyGivenNames x; guard_hyp x : State := _; refine (fun (hx : Keeps m s0 x) => ?_) ?_ <;> [clear_value x; subst x])
    | with_reducible refine linkFail_keeps (landTrans hm (by decide)) _ ?_
    | with_reducible refine accumHeld_keeps (landTrans hm (by decide)) _ _ ?_
    | with_reducible refine cmdFault_keeps (landTrans hm (by decide)) _ _ _ _ _ _ _ ?_
    | with_reducible refine ite_keeps ?_ ?_
    | split

theorem partErrs_keeps {m : Nat} {s0 : State} (hm : m.land 60609883140 = 60609883140) (s : State) (n : ℕ) (errs : MemErrs) (h_s : Keeps m s0 s) :
    Keeps m s0 (partErrs s n errs) := by
  unfold partErrs
  repeat' first
    | with_reducible assumption
    | intro _
    | with_reducible refine forEach_keeps (landTrans hm (by decide)) _ _ _ ?_ ?_
    | with_reducible refine channelFail_keeps (landTrans hm (by decide)) _ _ ?_
    | with_reducible refine cpError_keeps (landTrans hm (by decide)) _ _ ?_
    | with_reducible refine ite_keeps ?_ ?_

theorem issueErr_keeps {m : Nat} {s0 : State} (hm : m.land 68126211078 = 68126211078) (n : ℕ) (st : ℕ) (want : BitVec 256 → Bool) (errs : MemErrs) (s : State) (h_s : Keeps m s0 s) :
    Keeps m s0 (issueErr n st want errs s) := by
  unfold issueErr
  repeat' first
    | with_reducible assumption
    | (extract_lets -underBinder +onlyGivenNames x; guard_hyp x : State := _; refine (fun (hx : Keeps m s0 x) => ?_) ?_ <;> [clear_value x; subst x])
    | with_reducible refine issueRow_keeps (landTrans hm (by decide)) _ _ _ _ _ ?_
    | with_reducible refine hardwareFault_keeps (landTrans hm (by decide)) _ _ _ _ ?_
    | with_reducible refine partErrs_keeps (landTrans hm (by decide)) _ _ _ ?_
    | with_reducible refine ite_keeps ?_ ?_
    | split

theorem execMatmul_keeps {m : Nat} {s0 : State} (hm : m.land 68126211078 = 68126211078) (n : ℕ) (errs : MemErrs) (s : State) (h_s : Keeps m s0 s) :
    KeepsX m s0 (execMatmul n errs s) :=
  next_keeps (issueErr_keeps hm _ _ _ _ _ h_s)

theorem execMove_keeps {m : Nat} {s0 : State} (hm : m.land 68126211078 = 68126211078) (n : ℕ) (errs : MemErrs) (s : State) (h_s : Keeps m s0 s) :
    KeepsX m s0 (execMove n errs s) :=
  next_keeps (issueErr_keeps hm _ _ _ _ _ h_s)

theorem heard_keeps {m : Nat} {s0 : State} (hm : m.land 4 = 4) (s : State) (k : ℕ) (h_s : Keeps m s0 s) :
    Keeps m s0 (heard s k) := by
  unfold heard
  repeat' first
    | with_reducible assumption
    | with_reducible refine State.set_keeps (landTrans hm (by decide)) _ _ _ _ _ ?_

theorem partitionDetect_keeps {m : Nat} {s0 : State} (hm : m.land 60265950214 = 60265950214) (s : State) (answered : List ℕ) (h_s : Keeps m s0 s) :
    Keeps m s0 (partitionDetect s answered) := by
  unfold partitionDetect
  repeat' first
    | with_reducible assumption
    | intro _
    | with_reducible refine heard_keeps (landTrans hm (by decide)) _ _ ?_
    | with_reducible refine journal_keeps (landTrans hm (by decide)) _ _ ?_
    | with_reducible refine State.set_keeps (landTrans hm (by decide)) _ _ _ _ _ ?_
    | with_reducible refine forEach_keeps (landTrans hm (by decide)) _ _ _ ?_ ?_
    | with_reducible refine endReg_keeps (landTrans hm (by decide)) _ _ _ ?_
    | with_reducible refine ite_keeps ?_ ?_
    | with_reducible refine Keeps2.of (takeFree_keeps (landTrans hm (by decide)) _ ?_)

theorem execPartitionDetect_keeps {m : Nat} {s0 : State} (hm : m.land 60265950214 = 60265950214) (answered : List ℕ) (s : State) (h_s : Keeps m s0 s) :
    KeepsX m s0 (execPartitionDetect answered s) :=
  next_keeps (partitionDetect_keeps hm _ _ h_s)

theorem journalSeen_keeps {m : Nat} {s0 : State} (hm : m.land 4 = 4) (s : State) (h_s : Keeps m s0 s) :
    Keeps m s0 (journalSeen s) := by
  unfold journalSeen
  repeat' first
    | with_reducible assumption
    | intro _
    | (extract_lets -underBinder +onlyGivenNames x; clear_value x)
    | with_reducible refine faultFn_keeps (landTrans hm (by decide)) _ _ _ ?_
    | with_reducible refine forEach_keeps (landTrans hm (by decide)) _ _ _ ?_ ?_
    | with_reducible refine poisonSeenDev_keeps (landTrans hm (by decide)) _ _ ?_
    | with_reducible refine ite_keeps ?_ ?_

theorem partitionHeal_keeps {m : Nat} {s0 : State} (hm : m.land 65500572678 = 65500572678) (s : State) (inc : ℕ) (h_s : Keeps m s0 s) :
    Keeps m s0 (partitionHeal s inc) := by
  unfold partitionHeal
  repeat' first
    | with_reducible assumption
    | intro _
    | (extract_lets -underBinder +onlyGivenNames x; clear_value x)
    | with_reducible refine takeInc_keeps (landTrans hm (by decide)) _ _ ?_
    | with_reducible refine heard_keeps (landTrans hm (by decide)) _ _ ?_
    | with_reducible refine journalSeen_keeps (landTrans hm (by decide)) _ ?_
    | with_reducible refine emit_keeps (landTrans hm (by decide)) _ _ ?_
    | with_reducible refine journal_keeps (landTrans hm (by decide)) _ _ ?_
    | with_reducible refine State.set_keeps (landTrans hm (by decide)) _ _ _ _ _ ?_
    | with_reducible refine forEach_keeps (landTrans hm (by decide)) _ _ _ ?_ ?_
    | with_reducible refine replResume_keeps (landTrans hm (by decide)) _ _ ?_
    | with_reducible refine ite_keeps ?_ ?_
    | fail_if_no_progress (with_reducible refine upd_fab (landTrans hm (by decide)) _ ?_)
    | with_reducible refine Keeps2.of (takeFree_keeps (landTrans hm (by decide)) _ ?_)

theorem execPartitionHeal_keeps {m : Nat} {s0 : State} (hm : m.land 65500572678 = 65500572678) (inc : ℕ) (s : State) (h_s : Keeps m s0 s) :
    KeepsX m s0 (execPartitionHeal inc s) :=
  next_keeps (partitionHeal_keeps hm _ _ h_s)

theorem replayIssue_keeps {m : Nat} {s0 : State} (hm : m.land 47244643332 = 47244643332) (s : State) (n : ℕ) (c : ℕ) (x : ℕ) (p : ℕ) (e : RepEnt) (h_s : Keeps m s0 s) :
    Keeps m s0 (replayIssue s n c x p e) := by
  unfold replayIssue
  repeat' first
    | with_reducible assumption
    | intro _
    | (extract_lets -underBinder +onlyGivenNames x; first
      | (guard_hyp x : State := _; refine (fun (hx : Keeps m s0 x) => ?_) ?_ <;> [clear_value x; subst x])
      | clear_value x)
    | with_reducible refine dropReads_keeps (landTrans hm (by decide)) _ _ ?_
    | with_reducible refine forEach_keeps (landTrans hm (by decide)) _ _ _ ?_ ?_
    | with_reducible refine journal_keeps (landTrans hm (by decide)) _ _ ?_
    | with_reducible refine setRep_keeps (landTrans hm (by decide)) _ _ _ ?_
    | with_reducible refine State.bump_keeps (landTrans hm (by decide)) _ _ _ _ _ ?_
    | with_reducible refine setCore_keeps (landTrans hm (by decide)) _ _ _ ?_
    | with_reducible refine setHeld_keeps (landTrans hm (by decide)) _ _ _ _ ?_
    | with_reducible refine lanternTurn_keeps (landTrans hm (by decide)) _ _ ?_

theorem replayRow_keeps {m : Nat} {s0 : State} (hm : m.land 65978723334 = 65978723334) (s : State) (p : ℕ) (errs : MemErrs) (h_s : Keeps m s0 s) :
    Keeps m s0 (replayRow s p errs) := by
  unfold replayRow
  repeat' first
    | with_reducible assumption
    | (extract_lets -underBinder +onlyGivenNames x; guard_hyp x : State := _; refine (fun (hx : Keeps m s0 x) => ?_) ?_ <;> [clear_value x; subst x])
    | with_reducible refine memErrors_keeps (landTrans hm (by decide)) _ _ _ ?_
    | with_reducible refine accumHeld_keeps (landTrans hm (by decide)) _ _ ?_
    | with_reducible refine leaveSlot_keeps (landTrans hm (by decide)) _ _ _ ?_
    | with_reducible refine trace_keeps (landTrans hm (by decide)) _ _ _ _ _ _ _ _ _ ?_
    | with_reducible refine copyBack_keeps (landTrans hm (by decide)) _ _ _ _ ?_
    | with_reducible refine ctxFault_keeps (landTrans hm (by decide)) _ _ _ _ _ _ ?_
    | with_reducible refine runFly_keeps (landTrans hm (by decide)) _ _ ?_
    | with_reducible refine replayIssue_keeps (landTrans hm (by decide)) _ _ _ _ _ _ ?_
    | with_reducible refine hardwareFault_keeps (landTrans hm (by decide)) _ _ _ _ ?_
    | with_reducible refine ite_keeps ?_ ?_
    | with_reducible refine ite_keepsO ?_ ?_
    | with_reducible refine some_keeps ?_
    | with_reducible refine ofSome ‹_ = some _› ?_
    | split

theorem execReplay_keeps {m : Nat} {s0 : State} (hm : m.land 65978723334 = 65978723334) (i : ℕ) (errs : MemErrs) (s : State) (h_s : Keeps m s0 s) :
    KeepsX m s0 (execReplay i errs s) :=
  next_keeps (replayRow_keeps hm _ _ _ h_s)

theorem restartStream_keeps {m : Nat} {s0 : State} (hm : m.land 4294967296 = 4294967296) (s : State) (node : ℕ) (h_s : Keeps m s0 s) :
    Keeps m s0 (restartStream s node) := by
  unfold restartStream
  repeat' first
    | with_reducible assumption
    | (extract_lets -underBinder +onlyGivenNames x; first
      | (guard_hyp x : State := _; refine (fun (hx : Keeps m s0 x) => ?_) ?_ <;> [clear_value x; subst x])
      | clear_value x)
    | with_reducible refine setDest_keeps (landTrans hm (by decide)) _ _ _ ?_
    | fail_if_no_progress (with_reducible refine upd_fab (landTrans hm (by decide)) _ ?_)

theorem takeoversOf_keeps {m : Nat} {s0 : State} (hm : m.land 8388608 = 8388608) (s : State) (node : ℕ) (h_s : Keeps m s0 s) :
    Keeps m s0 (takeoversOf s node) := by
  unfold takeoversOf
  repeat' first
    | with_reducible assumption
    | intro _
    | with_reducible refine forEach_keeps (landTrans hm (by decide)) _ _ _ ?_ ?_
    | with_reducible refine armTakeover_keeps (landTrans hm (by decide)) _ _ ?_
    | with_reducible refine ite_keeps ?_ ?_

theorem verdict_keeps {m : Nat} {s0 : State} (hm : m.land 65917119502 = 65917119502) (s : State) (node : ℕ) (inc : ℕ) (epoch : ℕ) (h_s : Keeps m s0 s) :
    Keeps m s0 (verdict s node inc epoch) := by
  unfold verdict
  repeat' first
    | with_reducible assumption
    | intro _
    | (extract_lets -underBinder +onlyGivenNames x; first
      | (guard_hyp x : State := _; refine (fun (hx : Keeps m s0 x) => ?_) ?_ <;> [clear_value x; subst x])
      | clear_value x)
    | with_reducible refine State.set2_keeps (landTrans hm (by decide)) _ _ _ _ _ _ ?_
    | with_reducible refine journal_keeps (landTrans hm (by decide)) _ _ ?_
    | with_reducible refine fencedSelf_keeps (landTrans hm (by decide)) _ ?_
    | with_reducible refine reroute_keeps (landTrans hm (by decide)) _ ?_
    | with_reducible refine restartStream_keeps (landTrans hm (by decide)) _ _ ?_
    | with_reducible refine dropSharer_keeps (landTrans hm (by decide)) _ _ ?_
    | with_reducible refine targetLost_keeps (landTrans hm (by decide)) _ _ ?_
    | with_reducible refine setDest_keeps (landTrans hm (by decide)) _ _ _ ?_
    | with_reducible refine forEach_keeps (landTrans hm (by decide)) _ _ _ ?_ ?_
    | with_reducible refine endReg_keeps (landTrans hm (by decide)) _ _ _ ?_
    | with_reducible refine takeoversOf_keeps (landTrans hm (by decide)) _ _ ?_
    | with_reducible refine ite_keeps ?_ ?_
    | fail_if_no_progress (with_reducible refine upd_fab (landTrans hm (by decide)) _ ?_)

theorem execVerdict_keeps {m : Nat} {s0 : State} (hm : m.land 65917119502 = 65917119502) (node : ℕ) (inc : ℕ) (epoch : BitVec 64) (s : State) (h_s : Keeps m s0 s) :
    KeepsX m s0 (execVerdict node inc epoch s) :=
  next_keeps (verdict_keeps hm _ _ _ _ h_s)

end Sys2Proof.Machine
end

