-- ==== Sys2Proof/Laws/KeepsKernel.lean ====
section
/-! SUPPORT. What each operation of Kernel.lean keeps: the canonical form, and the parts of the state that it does not name. -/

namespace Sys2Proof.Machine

theorem sigFault_keeps {m : Nat} {s0 : State} (hm : m.land 60131732484 = 60131732484) (s : State) (n : ℕ) (code : ℕ) (at_ : ℕ) (h_s : Keeps m s0 s) :
    Keeps m s0 (sigFault s n code at_) := by
  unfold sigFault
  repeat' first
    | with_reducible assumption
    | with_reducible refine cmdFault_keeps (landTrans hm (by decide)) _ _ _ _ _ _ _ ?_
    | split

theorem sigRow_keeps {m : Nat} {s0 : State} (hm : m.land 60131732484 = 60131732484) (op : ℕ) (n : ℕ) (body : BitVec 64 → ℕ → State → State) (s : State) (h_body : ∀ x0 x1 x2, Keeps m s0 x2 → Keeps m s0 (body x0 x1 x2)) (h_s : Keeps m s0 s) :
    Keeps m s0 (sigRow op n body s) := by
  unfold sigRow
  repeat' first
    | with_reducible assumption
    | (extract_lets -underBinder +onlyGivenNames x; first
      | (guard_hyp x : State := _; refine (fun (hx : Keeps m s0 x) => ?_) ?_ <;> [clear_value x; subst x])
      | clear_value x)
    | with_reducible refine h_body _ _ _ ?_
    | with_reducible refine accumHeld_keeps (landTrans hm (by decide)) _ _ ?_
    | with_reducible refine sigFault_keeps (landTrans hm (by decide)) _ _ _ _ ?_
    | with_reducible refine ite_keeps ?_ ?_
    | split

theorem sigStore_keeps {m : Nat} {s0 : State} (hm : m.land 3072 = 3072) (s : State) (n : ℕ) (a : ℕ) (v : BitVec 512) (h_s : Keeps m s0 s) :
    Keeps m s0 (sigStore s n a v) := by
  unfold sigStore
  repeat' first
    | with_reducible assumption
    | (extract_lets -underBinder +onlyGivenNames x; clear_value x)
    | with_reducible refine chipWrite_keeps (landTrans hm (by decide)) _ _ _ _ _ _ ?_
    | with_reducible refine putFly_keeps (landTrans hm (by decide)) _ _ _ ?_
    | with_reducible refine ite_keeps ?_ ?_
    | split

theorem setSig_keeps {m : Nat} {s0 : State} (hm : m.land 2048 = 2048) (s : State) (n : ℕ) (e : SigEng) (h_s : Keeps m s0 s) :
    Keeps m s0 (setSig s n e) := by
  unfold setSig
  repeat' first
    | with_reducible assumption
    | (extract_lets -underBinder +onlyGivenNames x; clear_value x)
    | with_reducible refine setCore_keeps (landTrans hm (by decide)) _ _ _ ?_

theorem sigSteps_keeps {m : Nat} {s0 : State} (hm : m.land 2050 = 2050) (s : State) (n : ℕ) (i : BitVec 64) (m0 : Bool) (m1 : Bool) (h_s : Keeps m s0 s) :
    Keeps m s0 (sigSteps s n i m0 m1) := by
  unfold sigSteps
  repeat' first
    | with_reducible assumption
    | (extract_lets -underBinder +onlyGivenNames x; first
      | (guard_hyp x : ℕ × State := _; refine (fun (hx : Keeps2 m s0 x) => ?_) ?_ <;> [clear_value x; subst x])
      | clear_value x)
    | with_reducible refine takeFree_keeps (landTrans hm (by decide)) _ ?_
    | with_reducible refine setSig_keeps (landTrans hm (by decide)) _ _ _ ?_
    | with_reducible exact Keeps2.of ‹_›

theorem sigIter_keeps {m : Nat} {s0 : State} (hm : m.land 3078 = 3078) (s : State) (n : ℕ) (i : BitVec 64) (h_s : Keeps m s0 s) :
    Keeps1 m s0 (sigIter s n i) := by
  unfold sigIter
  repeat' first
    | with_reducible assumption
    | (extract_lets -underBinder +onlyGivenNames x; first
      | (guard_hyp x : State × Option (ℕ × ℕ) := _; refine (fun (hx : Keeps1 m s0 x) => ?_) ?_ <;> [clear_value x; subst x])
      | clear_value x)
    | with_reducible refine sigStore_keeps (landTrans hm (by decide)) _ _ _ _ ?_
    | with_reducible refine setSig_keeps (landTrans hm (by decide)) _ _ _ ?_
    | with_reducible refine seePoison_keeps (landTrans hm (by decide)) _ _ _ ?_
    | with_reducible refine sigSteps_keeps (landTrans hm (by decide)) _ _ _ _ _ ?_
    | with_reducible refine ite_keeps1 ?_ ?_
    | split
    | with_reducible exact Keeps1.of ‹_›
    | with_reducible refine pair1 ?_

theorem sigIters_keeps {m : Nat} {s0 : State} (hm : m.land 3078 = 3078) (n : ℕ) (i : BitVec 64) (r : ℕ) (r1 : State) (h_r1 : Keeps m s0 r1) :
    Keeps1 m s0 (sigIters n i r r1) := by
  induction r generalizing r1 with
  | zero =>
    unfold sigIters
    repeat' first
      | with_reducible assumption
      | with_reducible refine pair1 ?_
  | succ k ih =>
    unfold sigIters
    repeat' first
      | with_reducible assumption
      | with_reducible apply ih
      | (extract_lets -underBinder +onlyGivenNames x; guard_hyp x : State × Option (ℕ × ℕ) := _; refine (fun (hx : Keeps1 m s0 x) => ?_) ?_ <;> [clear_value x; subst x])
      | with_reducible refine sigIter_keeps (landTrans hm (by decide)) _ _ _ ?_
      | with_reducible exact Keeps1.of ‹_›
      | with_reducible refine pair1 ?_

theorem sigGo_keeps {m : Nat} {s0 : State} (hm : m.land 60131732484 = 60131732484) (s : State) (n : ℕ) (pc : ℕ) (h_s : Keeps m s0 s) :
    Keeps m s0 (sigGo s n pc) := by
  unfold sigGo
  repeat' first
    | with_reducible assumption
    | (extract_lets -underBinder +onlyGivenNames x; clear_value x)
    | with_reducible refine sigFault_keeps (landTrans hm (by decide)) _ _ _ _ ?_
    | with_reducible refine setSig_keeps (landTrans hm (by decide)) _ _ _ ?_
    | with_reducible refine ite_keeps ?_ ?_

theorem sigCost_keeps {m : Nat} {s0 : State} (hm : m.land 2048 = 2048) (s : State) (n : ℕ) (k : ℕ) (h_s : Keeps m s0 s) :
    Keeps m s0 (sigCost s n k) := by
  unfold sigCost
  repeat' first
    | with_reducible assumption
    | with_reducible refine putFly_keeps (landTrans hm (by decide)) _ _ _ ?_
    | split

theorem sigData_keeps {m : Nat} {s0 : State} (hm : m.land 60131732486 = 60131732486) (n : ℕ) (i : BitVec 64) (pc : ℕ) (s : State) (h_s : Keeps m s0 s) :
    Keeps m s0 (sigData n i pc s) := by
  unfold sigData
  repeat' first
    | with_reducible assumption
    | (extract_lets -underBinder +onlyGivenNames x; first
      | (guard_hyp x : State × Option (ℕ × ℕ) := _; refine (fun (hx : Keeps1 m s0 x) => ?_) ?_ <;> [clear_value x; subst x])
      | clear_value x)
    | with_reducible refine sigIters_keeps (landTrans hm (by decide)) _ _ _ _ ?_
    | with_reducible refine sigGo_keeps (landTrans hm (by decide)) _ _ _ ?_
    | with_reducible refine sigCost_keeps (landTrans hm (by decide)) _ _ _ ?_
    | with_reducible refine sigFault_keeps (landTrans hm (by decide)) _ _ _ _ ?_
    | split
    | with_reducible exact Keeps1.of ‹_›

theorem execAccrd_keeps {m : Nat} {s0 : State} (hm : m.land 60131732486 = 60131732486) (n : ℕ) (s : State) (h_s : Keeps m s0 s) :
    KeepsX m s0 (execAccrd n s) := by
  unfold execAccrd
  repeat' first
    | with_reducible assumption
    | intro _
    | with_reducible refine sigRow_keeps (landTrans hm (by decide)) _ _ _ _ ?_ ?_
    | with_reducible refine sigData_keeps (landTrans hm (by decide)) _ _ _ _ ?_
    | with_reducible refine next_keeps ?_

theorem sigBnz_keeps {m : Nat} {s0 : State} (hm : m.land 60131732484 = 60131732484) (n : ℕ) (i : BitVec 64) (pc : ℕ) (s : State) (h_s : Keeps m s0 s) :
    Keeps m s0 (sigBnz n i pc s) := by
  unfold sigBnz
  repeat' first
    | with_reducible assumption
    | (extract_lets -underBinder +onlyGivenNames x; first
      | (guard_hyp x : State := _; refine (fun (hx : Keeps m s0 x) => ?_) ?_ <;> [clear_value x; subst x])
      | clear_value x)
    | with_reducible refine sigCost_keeps (landTrans hm (by decide)) _ _ _ ?_
    | with_reducible refine setSig_keeps (landTrans hm (by decide)) _ _ _ ?_
    | with_reducible refine sigGo_keeps (landTrans hm (by decide)) _ _ _ ?_
    | with_reducible refine sigFault_keeps (landTrans hm (by decide)) _ _ _ _ ?_
    | with_reducible refine ite_keeps ?_ ?_

theorem execBnz_keeps {m : Nat} {s0 : State} (hm : m.land 60131732484 = 60131732484) (n : ℕ) (s : State) (h_s : Keeps m s0 s) :
    KeepsX m s0 (execBnz n s) := by
  unfold execBnz
  repeat' first
    | with_reducible assumption
    | intro _
    | with_reducible refine sigRow_keeps (landTrans hm (by decide)) _ _ _ _ ?_ ?_
    | with_reducible refine sigBnz_keeps (landTrans hm (by decide)) _ _ _ _ ?_
    | with_reducible refine next_keeps ?_

theorem execCmac_keeps {m : Nat} {s0 : State} (hm : m.land 60131732486 = 60131732486) (n : ℕ) (s : State) (h_s : Keeps m s0 s) :
    KeepsX m s0 (execCmac n s) := by
  unfold execCmac
  repeat' first
    | with_reducible assumption
    | intro _
    | with_reducible refine sigRow_keeps (landTrans hm (by decide)) _ _ _ _ ?_ ?_
    | with_reducible refine sigData_keeps (landTrans hm (by decide)) _ _ _ _ ?_
    | with_reducible refine next_keeps ?_

theorem execCmul_keeps {m : Nat} {s0 : State} (hm : m.land 60131732486 = 60131732486) (n : ℕ) (s : State) (h_s : Keeps m s0 s) :
    KeepsX m s0 (execCmul n s) := by
  unfold execCmul
  repeat' first
    | with_reducible assumption
    | intro _
    | with_reducible refine sigRow_keeps (landTrans hm (by decide)) _ _ _ _ ?_ ?_
    | with_reducible refine sigData_keeps (landTrans hm (by decide)) _ _ _ _ ?_
    | with_reducible refine next_keeps ?_

theorem execCmulc_keeps {m : Nat} {s0 : State} (hm : m.land 60131732486 = 60131732486) (n : ℕ) (s : State) (h_s : Keeps m s0 s) :
    KeepsX m s0 (execCmulc n s) := by
  unfold execCmulc
  repeat' first
    | with_reducible assumption
    | intro _
    | with_reducible refine sigRow_keeps (landTrans hm (by decide)) _ _ _ _ ?_ ?_
    | with_reducible refine sigData_keeps (landTrans hm (by decide)) _ _ _ _ ?_
    | with_reducible refine next_keeps ?_

theorem execMag2_keeps {m : Nat} {s0 : State} (hm : m.land 60131732486 = 60131732486) (n : ℕ) (s : State) (h_s : Keeps m s0 s) :
    KeepsX m s0 (execMag2 n s) := by
  unfold execMag2
  repeat' first
    | with_reducible assumption
    | intro _
    | with_reducible refine sigRow_keeps (landTrans hm (by decide)) _ _ _ _ ?_ ?_
    | with_reducible refine sigData_keeps (landTrans hm (by decide)) _ _ _ _ ?_
    | with_reducible refine next_keeps ?_

theorem sigRepeat_keeps {m : Nat} {s0 : State} (hm : m.land 60131732484 = 60131732484) (n : ℕ) (i : BitVec 64) (pc : ℕ) (s : State) (h_s : Keeps m s0 s) :
    Keeps m s0 (sigRepeat n i pc s) := by
  unfold sigRepeat
  repeat' first
    | with_reducible assumption
    | (extract_lets -underBinder +onlyGivenNames x; clear_value x)
    | with_reducible refine sigFault_keeps (landTrans hm (by decide)) _ _ _ _ ?_
    | with_reducible refine setSig_keeps (landTrans hm (by decide)) _ _ _ ?_
    | with_reducible refine sigCost_keeps (landTrans hm (by decide)) _ _ _ ?_
    | with_reducible refine ite_keeps ?_ ?_
    | split

theorem execRep_keeps {m : Nat} {s0 : State} (hm : m.land 60131732484 = 60131732484) (n : ℕ) (s : State) (h_s : Keeps m s0 s) :
    KeepsX m s0 (execRep n s) := by
  unfold execRep
  repeat' first
    | with_reducible assumption
    | intro _
    | with_reducible refine sigRow_keeps (landTrans hm (by decide)) _ _ _ _ ?_ ?_
    | with_reducible refine sigRepeat_keeps (landTrans hm (by decide)) _ _ _ _ ?_
    | with_reducible refine next_keeps ?_

theorem sigSeta_keeps {m : Nat} {s0 : State} (hm : m.land 60131732484 = 60131732484) (n : ℕ) (i : BitVec 64) (pc : ℕ) (s : State) (h_s : Keeps m s0 s) :
    Keeps m s0 (sigSeta n i pc s) := by
  unfold sigSeta
  repeat' first
    | with_reducible assumption
    | (extract_lets -underBinder +onlyGivenNames x; clear_value x)
    | with_reducible refine sigGo_keeps (landTrans hm (by decide)) _ _ _ ?_
    | with_reducible refine sigCost_keeps (landTrans hm (by decide)) _ _ _ ?_
    | with_reducible refine setSig_keeps (landTrans hm (by decide)) _ _ _ ?_

theorem execSeta_keeps {m : Nat} {s0 : State} (hm : m.land 60131732484 = 60131732484) (n : ℕ) (s : State) (h_s : Keeps m s0 s) :
    KeepsX m s0 (execSeta n s) := by
  unfold execSeta
  repeat' first
    | with_reducible assumption
    | intro _
    | with_reducible refine sigRow_keeps (landTrans hm (by decide)) _ _ _ _ ?_ ?_
    | with_reducible refine sigSeta_keeps (landTrans hm (by decide)) _ _ _ _ ?_
    | with_reducible refine next_keeps ?_

theorem sigSetcb_keeps {m : Nat} {s0 : State} (hm : m.land 60131732484 = 60131732484) (n : ℕ) (i : BitVec 64) (pc : ℕ) (s : State) (h_s : Keeps m s0 s) :
    Keeps m s0 (sigSetcb n i pc s) := by
  unfold sigSetcb
  repeat' first
    | with_reducible assumption
    | (extract_lets -underBinder +onlyGivenNames x; clear_value x)
    | with_reducible refine sigGo_keeps (landTrans hm (by decide)) _ _ _ ?_
    | with_reducible refine sigCost_keeps (landTrans hm (by decide)) _ _ _ ?_
    | with_reducible refine setSig_keeps (landTrans hm (by decide)) _ _ _ ?_

theorem execSetcb_keeps {m : Nat} {s0 : State} (hm : m.land 60131732484 = 60131732484) (n : ℕ) (s : State) (h_s : Keeps m s0 s) :
    KeepsX m s0 (execSetcb n s) := by
  unfold execSetcb
  repeat' first
    | with_reducible assumption
    | intro _
    | with_reducible refine sigRow_keeps (landTrans hm (by decide)) _ _ _ _ ?_ ?_
    | with_reducible refine sigSetcb_keeps (landTrans hm (by decide)) _ _ _ _ ?_
    | with_reducible refine next_keeps ?_

theorem execSigAdd_keeps {m : Nat} {s0 : State} (hm : m.land 60131732486 = 60131732486) (n : ℕ) (s : State) (h_s : Keeps m s0 s) :
    KeepsX m s0 (execSigAdd n s) := by
  unfold execSigAdd
  repeat' first
    | with_reducible assumption
    | intro _
    | with_reducible refine sigRow_keeps (landTrans hm (by decide)) _ _ _ _ ?_ ?_
    | with_reducible refine sigData_keeps (landTrans hm (by decide)) _ _ _ _ ?_
    | with_reducible refine next_keeps ?_

theorem sigEndUnit_keeps {m : Nat} {s0 : State} (hm : m.land 65500572678 = 65500572678) (n : ℕ) (s : State) (h_s : Keeps m s0 s) :
    Keeps m s0 (sigEndUnit n s) := by
  unfold sigEndUnit
  repeat' first
    | with_reducible assumption
    | (extract_lets -underBinder +onlyGivenNames x; first
      | (guard_hyp x : State := _; refine (fun (hx : Keeps m s0 x) => ?_) ?_ <;> [clear_value x; subst x])
      | clear_value x)
    | with_reducible refine setSig_keeps (landTrans hm (by decide)) _ _ _ ?_
    | with_reducible refine sigCost_keeps (landTrans hm (by decide)) _ _ _ ?_
    | with_reducible refine runFly_keeps (landTrans hm (by decide)) _ _ ?_
    | with_reducible refine unitEnd_keeps (landTrans hm (by decide)) _ _ _ _ _ _ ?_
    | split

theorem execSigEnd_keeps {m : Nat} {s0 : State} (hm : m.land 65500572678 = 65500572678) (n : ℕ) (s : State) (h_s : Keeps m s0 s) :
    KeepsX m s0 (execSigEnd n s) := by
  unfold execSigEnd
  repeat' first
    | with_reducible assumption
    | intro _
    | with_reducible refine sigRow_keeps (landTrans hm (by decide)) _ _ _ _ ?_ ?_
    | with_reducible refine sigEndUnit_keeps (landTrans hm (by decide)) _ _ ?_
    | with_reducible refine next_keeps ?_

theorem execSigLd_keeps {m : Nat} {s0 : State} (hm : m.land 60131732486 = 60131732486) (n : ℕ) (s : State) (h_s : Keeps m s0 s) :
    KeepsX m s0 (execSigLd n s) := by
  unfold execSigLd
  repeat' first
    | with_reducible assumption
    | intro _
    | with_reducible refine sigRow_keeps (landTrans hm (by decide)) _ _ _ _ ?_ ?_
    | with_reducible refine sigData_keeps (landTrans hm (by decide)) _ _ _ _ ?_
    | with_reducible refine next_keeps ?_

theorem execSigMax_keeps {m : Nat} {s0 : State} (hm : m.land 60131732486 = 60131732486) (n : ℕ) (s : State) (h_s : Keeps m s0 s) :
    KeepsX m s0 (execSigMax n s) := by
  unfold execSigMax
  repeat' first
    | with_reducible assumption
    | intro _
    | with_reducible refine sigRow_keeps (landTrans hm (by decide)) _ _ _ _ ?_ ?_
    | with_reducible refine sigData_keeps (landTrans hm (by decide)) _ _ _ _ ?_
    | with_reducible refine next_keeps ?_

theorem execSigSt_keeps {m : Nat} {s0 : State} (hm : m.land 60131732486 = 60131732486) (n : ℕ) (s : State) (h_s : Keeps m s0 s) :
    KeepsX m s0 (execSigSt n s) := by
  unfold execSigSt
  repeat' first
    | with_reducible assumption
    | intro _
    | with_reducible refine sigRow_keeps (landTrans hm (by decide)) _ _ _ _ ?_ ?_
    | with_reducible refine sigData_keeps (landTrans hm (by decide)) _ _ _ _ ?_
    | with_reducible refine next_keeps ?_

theorem execSigSub_keeps {m : Nat} {s0 : State} (hm : m.land 60131732486 = 60131732486) (n : ℕ) (s : State) (h_s : Keeps m s0 s) :
    KeepsX m s0 (execSigSub n s) := by
  unfold execSigSub
  repeat' first
    | with_reducible assumption
    | intro _
    | with_reducible refine sigRow_keeps (landTrans hm (by decide)) _ _ _ _ ?_ ?_
    | with_reducible refine sigData_keeps (landTrans hm (by decide)) _ _ _ _ ?_
    | with_reducible refine next_keeps ?_

end Sys2Proof.Machine
end

