-- ==== Sys2Proof/Laws/KeepsLinks.lean ====
section
/-! SUPPORT. What each operation of Links.lean keeps: the canonical form, and the parts of the state that it does not name. -/

namespace Sys2Proof.Machine

theorem portDown_keeps {m : Nat} {s0 : State} (hm : m.land 48318383108 = 48318383108) (s : State) (q : ℕ) (st : ℕ) (h_s : Keeps m s0 s) :
    Keeps m s0 (portDown s q st) := by
  unfold portDown
  repeat' first
    | with_reducible assumption
    | (extract_lets -underBinder +onlyGivenNames x; first
      | (guard_hyp x : State := _; refine (fun (hx : Keeps m s0 x) => ?_) ?_ <;> [clear_value x; subst x])
      | clear_value x)
    | with_reducible refine linkDown_keeps (landTrans hm (by decide)) _ _ ?_
    | with_reducible refine setFnState_keeps (landTrans hm (by decide)) _ _ _ ?_
    | with_reducible refine setLink_keeps (landTrans hm (by decide)) _ _ _ ?_

theorem filStart_keeps {m : Nat} {s0 : State} (hm : m.land 5368709124 = 5368709124) (s : State) (h_s : Keeps m s0 s) :
    Keeps m s0 (filStart s) := by
  unfold filStart
  repeat' first
    | with_reducible assumption
    | (extract_lets -underBinder +onlyGivenNames x; first
      | (guard_hyp x : State := _; refine (fun (hx : Keeps m s0 x) => ?_) ?_ <;> [clear_value x; subst x])
      | clear_value x)
    | with_reducible refine startFn_keeps (landTrans hm (by decide)) _ _ _ ?_
    | with_reducible refine emit_keeps (landTrans hm (by decide)) _ _ ?_
    | with_reducible refine ite_keeps ?_ ?_
    | fail_if_no_progress (with_reducible refine upd_fab (landTrans hm (by decide)) _ ?_)

theorem filStop_keeps {m : Nat} {s0 : State} (hm : m.land 64560917508 = 64560917508) (s : State) (h_s : Keeps m s0 s) :
    Keeps m s0 (filStop s) := by
  unfold filStop
  repeat' first
    | with_reducible assumption
    | intro _
    | (extract_lets -underBinder +onlyGivenNames x; first
      | (guard_hyp x : State := _; refine (fun (hx : Keeps m s0 x) => ?_) ?_ <;> [clear_value x; subst x])
      | clear_value x)
    | with_reducible refine State.set_keeps (landTrans hm (by decide)) _ _ _ _ _ ?_
    | with_reducible refine setFnState_keeps (landTrans hm (by decide)) _ _ _ ?_
    | with_reducible refine forEach_keeps (landTrans hm (by decide)) _ _ _ ?_ ?_
    | with_reducible refine endReg_keeps (landTrans hm (by decide)) _ _ _ ?_
    | with_reducible refine ite_keeps ?_ ?_
    | fail_if_no_progress (with_reducible refine upd_fab (landTrans hm (by decide)) _ ?_)

theorem trainBegin_keeps {m : Nat} {s0 : State} (hm : m.land 4294967300 = 4294967300) (s : State) (q : ℕ) (h_s : Keeps m s0 s) :
    Keeps m s0 (trainBegin s q) := by
  unfold trainBegin
  repeat' first
    | with_reducible assumption
    | (extract_lets -underBinder +onlyGivenNames x; first
      | (guard_hyp x : State := _; refine (fun (hx : Keeps m s0 x) => ?_) ?_ <;> [clear_value x; subst x])
      | clear_value x)
    | with_reducible refine State.bump_keeps (landTrans hm (by decide)) _ _ _ _ _ ?_
    | with_reducible refine State.set_keeps (landTrans hm (by decide)) _ _ _ _ _ ?_
    | with_reducible refine setLink_keeps (landTrans hm (by decide)) _ _ _ ?_

theorem portStart_keeps {m : Nat} {s0 : State} (hm : m.land 4294967300 = 4294967300) (s : State) (q : ℕ) (h_s : Keeps m s0 s) :
    Keeps m s0 (portStart s q) := by
  unfold portStart
  repeat' first
    | with_reducible assumption
    | intro _
    | (extract_lets -underBinder +onlyGivenNames x; guard_hyp x : State := _; refine (fun (hx : Keeps m s0 x) => ?_) ?_ <;> [clear_value x; subst x])
    | with_reducible refine startInDomain_keeps (landTrans hm (by decide)) _ _ _ ?_ ?_
    | with_reducible refine startFn_keeps (landTrans hm (by decide)) _ _ _ ?_
    | with_reducible refine trainBegin_keeps (landTrans hm (by decide)) _ _ ?_
    | with_reducible refine ite_keeps ?_ ?_

theorem portStop_keeps {m : Nat} {s0 : State} (hm : m.land 48318383108 = 48318383108) (s : State) (q : ℕ) (h_s : Keeps m s0 s) :
    Keeps m s0 (portStop s q) := by
  unfold portStop
  repeat' first
    | with_reducible assumption
    | (extract_lets -underBinder +onlyGivenNames x; clear_value x)
    | with_reducible refine portDown_keeps (landTrans hm (by decide)) _ _ _ ?_
    | with_reducible refine setFnState_keeps (landTrans hm (by decide)) _ _ _ ?_
    | with_reducible refine ite_keeps ?_ ?_

theorem beatArrives_keeps {m : Nat} {s0 : State} (hm : m.land 4294967296 = 4294967296) (s : State) (q : ℕ) (h_s : Keeps m s0 s) :
    Keeps m s0 (beatArrives s q) := by
  unfold beatArrives
  repeat' first
    | with_reducible assumption
    | (extract_lets -underBinder +onlyGivenNames x; clear_value x)
    | with_reducible refine setLink_keeps (landTrans hm (by decide)) _ _ _ ?_
    | with_reducible refine ite_keeps ?_ ?_

theorem beatMissing_keeps {m : Nat} {s0 : State} (hm : m.land 5368709120 = 5368709120) (s : State) (q : ℕ) (h_s : Keeps m s0 s) :
    Keeps m s0 (beatMissing s q) := by
  unfold beatMissing
  repeat' first
    | with_reducible assumption
    | (extract_lets -underBinder +onlyGivenNames x; clear_value x)
    | with_reducible refine emit_keeps (landTrans hm (by decide)) _ _ ?_
    | with_reducible refine setLink_keeps (landTrans hm (by decide)) _ _ _ ?_
    | with_reducible refine ite_keeps ?_ ?_

theorem sendCtl_keeps {m : Nat} {s0 : State} (hm : m.land 1073741824 = 1073741824) (s : State) (q : ℕ) (kind : ℕ) (body : Bytes) (h_s : Keeps m s0 s) :
    Keeps m s0 (sendCtl s q kind body) := by
  unfold sendCtl
  repeat' first
    | with_reducible assumption
    | with_reducible refine emit_keeps (landTrans hm (by decide)) _ _ ?_

theorem beatSend_keeps {m : Nat} {s0 : State} (hm : m.land 5368709124 = 5368709124) (s : State) (h_s : Keeps m s0 s) :
    Keeps m s0 (beatSend s) := by
  unfold beatSend
  repeat' first
    | with_reducible assumption
    | intro _
    | (extract_lets -underBinder +onlyGivenNames x; first
      | (guard_hyp x : State := _; refine (fun (hx : Keeps m s0 x) => ?_) ?_ <;> [clear_value x; subst x])
      | clear_value x)
    | with_reducible refine forEach_keeps (landTrans hm (by decide)) _ _ _ ?_ ?_
    | with_reducible refine sendCtl_keeps (landTrans hm (by decide)) _ _ _ _ ?_
    | with_reducible refine issue_keeps (landTrans hm (by decide)) _ ?_
    | with_reducible refine ite_keeps ?_ ?_
    | fail_if_no_progress (with_reducible refine upd_fab (landTrans hm (by decide)) _ ?_)

theorem linkRise_keeps {m : Nat} {s0 : State} (hm : m.land 48318383108 = 48318383108) (s : State) (q : ℕ) (h_s : Keeps m s0 s) :
    Keeps m s0 (linkRise s q) := by
  unfold linkRise
  repeat' first
    | with_reducible assumption
    | (extract_lets -underBinder +onlyGivenNames x; first
      | (guard_hyp x : State := _; refine (fun (hx : Keeps m s0 x) => ?_) ?_ <;> [clear_value x; subst x])
      | clear_value x)
    | with_reducible refine State.set_keeps (landTrans hm (by decide)) _ _ _ _ _ ?_
    | with_reducible refine reroute_keeps (landTrans hm (by decide)) _ ?_
    | with_reducible refine setLink_keeps (landTrans hm (by decide)) _ _ _ ?_

theorem creditArrives_keeps {m : Nat} {s0 : State} (hm : m.land 48318383108 = 48318383108) (s : State) (q : ℕ) (g : List ℕ) (initial : Bool) (h_s : Keeps m s0 s) :
    Keeps m s0 (creditArrives s q g initial) := by
  unfold creditArrives
  repeat' first
    | with_reducible assumption
    | (extract_lets -underBinder +onlyGivenNames x; clear_value x)
    | with_reducible refine linkRise_keeps (landTrans hm (by decide)) _ _ ?_
    | with_reducible refine setLink_keeps (landTrans hm (by decide)) _ _ _ ?_
    | with_reducible refine drainLink_keeps (landTrans hm (by decide)) _ _ _ ?_
    | with_reducible refine ite_keeps ?_ ?_

theorem flitAck_keeps {m : Nat} {s0 : State} (hm : m.land 39728447492 = 39728447492) (s : State) (q : ℕ) (a : Byte) (h_s : Keeps m s0 s) :
    Keeps m s0 (flitAck s q a) := by
  unfold flitAck
  repeat' first
    | with_reducible assumption
    | (extract_lets -underBinder +onlyGivenNames x; clear_value x)
    | with_reducible refine drainLink_keeps (landTrans hm (by decide)) _ _ _ ?_
    | with_reducible refine setLink_keeps (landTrans hm (by decide)) _ _ _ ?_
    | split

theorem seen_keeps {m : Nat} {s0 : State} (hm : m.land 4294967296 = 4294967296) (s : State) (q : ℕ) (h_s : Keeps m s0 s) :
    Keeps m s0 (seen s q) := by
  unfold seen
  repeat' first
    | with_reducible assumption
    | (extract_lets -underBinder +onlyGivenNames x; clear_value x)
    | with_reducible refine setLink_keeps (landTrans hm (by decide)) _ _ _ ?_

theorem sendCredit_keeps {m : Nat} {s0 : State} (hm : m.land 1073741824 = 1073741824) (s : State) (q : ℕ) (l : List ℕ) (initial : Bool) (h_s : Keeps m s0 s) :
    Keeps m s0 (sendCredit s q l initial) := by
  unfold sendCredit
  repeat' first
    | with_reducible assumption
    | with_reducible refine sendCtl_keeps (landTrans hm (by decide)) _ _ _ _ ?_

theorem dataFlit_keeps {m : Nat} {s0 : State} (hm : m.land 39728447492 = 39728447492) (s : State) (q : ℕ) (crcOk : Bool) (lseq : Byte) (ack : Byte) (vc : ℕ) (h_s : Keeps m s0 s) :
    Keeps m s0 (dataFlit s q crcOk lseq ack vc) := by
  unfold dataFlit
  repeat' first
    | with_reducible assumption
    | intro _
    | (extract_lets -underBinder +onlyGivenNames x; first
      | (guard_hyp x : State := _; refine (fun (hx : Keeps m s0 x) => ?_) ?_ <;> [clear_value x; subst x])
      | (guard_hyp x : State → State := _; refine (fun (hf : ∀ t, Keeps m s0 t → Keeps m s0 (x t)) => ?_) ?_ <;> [clear_value x; subst x])
      | clear_value x)
    | with_reducible apply hf
    | with_reducible refine sendCtl_keeps (landTrans hm (by decide)) _ _ _ _ ?_
    | with_reducible refine flitAck_keeps (landTrans hm (by decide)) _ _ _ ?_
    | with_reducible refine seen_keeps (landTrans hm (by decide)) _ _ ?_
    | with_reducible refine setLink_keeps (landTrans hm (by decide)) _ _ _ ?_
    | with_reducible refine sendCredit_keeps (landTrans hm (by decide)) _ _ _ _ ?_
    | with_reducible refine ite_keeps ?_ ?_

theorem onPort_keeps {m : Nat} {s0 : State} (hm : m.land 0 = 0) (q : ℕ) (f : State → State) (s : State) (h_f : ∀ x0, Keeps m s0 x0 → Keeps m s0 (f x0)) (h_s : Keeps m s0 s) :
    KeepsX m s0 (onPort q f s) := by
  unfold onPort
  repeat' first
    | with_reducible assumption
    | with_reducible refine h_f _ ?_
    | with_reducible refine ite_keeps ?_ ?_
    | with_reducible refine next_keeps ?_

theorem execBangleHeartbeatMissing_keeps {m : Nat} {s0 : State} (hm : m.land 5368709120 = 5368709120) (q : ℕ) (s : State) (h_s : Keeps m s0 s) :
    KeepsX m s0 (execBangleHeartbeatMissing q s) := by
  unfold execBangleHeartbeatMissing
  repeat' first
    | with_reducible assumption
    | intro _
    | with_reducible refine onPort_keeps (landTrans hm (by decide)) _ _ _ ?_ ?_
    | with_reducible refine beatMissing_keeps (landTrans hm (by decide)) _ _ ?_

theorem execCredit_keeps {m : Nat} {s0 : State} (hm : m.land 48318383108 = 48318383108) (q : ℕ) (req : ℕ) (rsp : ℕ) (coh : ℕ) (bulk : ℕ) (initial : Bool) (s : State) (h_s : Keeps m s0 s) :
    KeepsX m s0 (execCredit q req rsp coh bulk initial s) := by
  unfold execCredit
  repeat' first
    | with_reducible assumption
    | intro _
    | with_reducible refine onPort_keeps (landTrans hm (by decide)) _ _ _ ?_ ?_
    | with_reducible refine creditArrives_keeps (landTrans hm (by decide)) _ _ _ _ ?_

theorem execDataFlitReceive_keeps {m : Nat} {s0 : State} (hm : m.land 39728447492 = 39728447492) (q : ℕ) (crcOk : Bool) (lseq : Byte) (ackLseq : Byte) (vc : ℕ) (s : State) (h_s : Keeps m s0 s) :
    KeepsX m s0 (execDataFlitReceive q crcOk lseq ackLseq vc s) := by
  unfold execDataFlitReceive
  repeat' first
    | with_reducible assumption
    | intro _
    | with_reducible refine onPort_keeps (landTrans hm (by decide)) _ _ _ ?_ ?_
    | with_reducible refine dataFlit_keeps (landTrans hm (by decide)) _ _ _ _ _ _ ?_

theorem trainNext_keeps {m : Nat} {s0 : State} (hm : m.land 4294967296 = 4294967296) (s : State) (q : ℕ) (h_s : Keeps m s0 s) :
    Keeps m s0 (trainNext s q) := by
  unfold trainNext
  repeat' first
    | with_reducible assumption
    | (extract_lets -underBinder +onlyGivenNames x; clear_value x)
    | with_reducible refine setLink_keeps (landTrans hm (by decide)) _ _ _ ?_

theorem sendIdent_keeps {m : Nat} {s0 : State} (hm : m.land 1073741824 = 1073741824) (s : State) (q : ℕ) (h_s : Keeps m s0 s) :
    Keeps m s0 (sendIdent s q) := by
  unfold sendIdent
  repeat' first
    | with_reducible assumption
    | (extract_lets -underBinder +onlyGivenNames x; clear_value x)
    | with_reducible refine sendCtl_keeps (landTrans hm (by decide)) _ _ _ _ ?_

theorem fecLock_keeps {m : Nat} {s0 : State} (hm : m.land 5368709120 = 5368709120) (s : State) (q : ℕ) (h_s : Keeps m s0 s) :
    Keeps m s0 (fecLock s q) := by
  unfold fecLock
  repeat' first
    | with_reducible assumption
    | (extract_lets -underBinder +onlyGivenNames x; first
      | (guard_hyp x : State := _; refine (fun (hx : Keeps m s0 x) => ?_) ?_ <;> [clear_value x; subst x])
      | clear_value x)
    | with_reducible refine trainNext_keeps (landTrans hm (by decide)) _ _ ?_
    | with_reducible refine sendIdent_keeps (landTrans hm (by decide)) _ _ ?_
    | with_reducible refine setLink_keeps (landTrans hm (by decide)) _ _ _ ?_
    | with_reducible refine ite_keeps ?_ ?_

theorem execFecLock_keeps {m : Nat} {s0 : State} (hm : m.land 5368709120 = 5368709120) (q : ℕ) (s : State) (h_s : Keeps m s0 s) :
    KeepsX m s0 (execFecLock q s) := by
  unfold execFecLock
  repeat' first
    | with_reducible assumption
    | intro _
    | with_reducible refine onPort_keeps (landTrans hm (by decide)) _ _ _ ?_ ?_
    | with_reducible refine fecLock_keeps (landTrans hm (by decide)) _ _ ?_

theorem fecLoss_keeps {m : Nat} {s0 : State} (hm : m.land 48318383108 = 48318383108) (s : State) (q : ℕ) (h_s : Keeps m s0 s) :
    Keeps m s0 (fecLoss s q) := by
  unfold fecLoss
  repeat' first
    | with_reducible assumption
    | with_reducible refine linkDown_keeps (landTrans hm (by decide)) _ _ ?_
    | with_reducible refine ite_keeps ?_ ?_

theorem execFecLockLoss_keeps {m : Nat} {s0 : State} (hm : m.land 48318383108 = 48318383108) (q : ℕ) (s : State) (h_s : Keeps m s0 s) :
    KeepsX m s0 (execFecLockLoss q s) := by
  unfold execFecLockLoss
  repeat' first
    | with_reducible assumption
    | intro _
    | with_reducible refine onPort_keeps (landTrans hm (by decide)) _ _ _ ?_ ?_
    | with_reducible refine fecLoss_keeps (landTrans hm (by decide)) _ _ ?_

theorem execFilStart_keeps {m : Nat} {s0 : State} (hm : m.land 5368709124 = 5368709124) (s : State) (h_s : Keeps m s0 s) :
    KeepsX m s0 (execFilStart s) :=
  next_keeps (filStart_keeps hm _ h_s)

theorem execFilStop_keeps {m : Nat} {s0 : State} (hm : m.land 64560917508 = 64560917508) (s : State) (h_s : Keeps m s0 s) :
    KeepsX m s0 (execFilStop s) :=
  next_keeps (filStop_keeps hm _ h_s)

theorem idleTimeout_keeps {m : Nat} {s0 : State} (hm : m.land 48318383108 = 48318383108) (s : State) (q : ℕ) (h_s : Keeps m s0 s) :
    Keeps m s0 (idleTimeout s q) := by
  unfold idleTimeout
  repeat' first
    | with_reducible assumption
    | with_reducible refine linkDown_keeps (landTrans hm (by decide)) _ _ ?_
    | with_reducible refine ite_keeps ?_ ?_

theorem execFlitIdleTimeout_keeps {m : Nat} {s0 : State} (hm : m.land 48318383108 = 48318383108) (q : ℕ) (s : State) (h_s : Keeps m s0 s) :
    KeepsX m s0 (execFlitIdleTimeout q s) := by
  unfold execFlitIdleTimeout
  repeat' first
    | with_reducible assumption
    | intro _
    | with_reducible refine onPort_keeps (landTrans hm (by decide)) _ _ _ ?_ ?_
    | with_reducible refine idleTimeout_keeps (landTrans hm (by decide)) _ _ ?_

theorem execHeartbeat_keeps {m : Nat} {s0 : State} (hm : m.land 4294967296 = 4294967296) (q : ℕ) (node : ℕ) (inc : ℕ) (partitioned : Bool) (fenced : Bool) (s : State) (h_s : Keeps m s0 s) :
    KeepsX m s0 (execHeartbeat q node inc partitioned fenced s) := by
  unfold execHeartbeat
  repeat' first
    | with_reducible assumption
    | intro _
    | (extract_lets -underBinder +onlyGivenNames x; clear_value x)
    | with_reducible refine onPort_keeps (landTrans hm (by decide)) _ _ _ ?_ ?_
    | with_reducible refine beatArrives_keeps (landTrans hm (by decide)) _ _ ?_

theorem execHeartbeatSend_keeps {m : Nat} {s0 : State} (hm : m.land 5368709124 = 5368709124) (s : State) (h_s : Keeps m s0 s) :
    KeepsX m s0 (execHeartbeatSend s) :=
  next_keeps (beatSend_keeps hm _ h_s)

theorem trainFail_keeps {m : Nat} {s0 : State} (hm : m.land 4294967300 = 4294967300) (s : State) (q : ℕ) (result : ℕ) (h_s : Keeps m s0 s) :
    Keeps m s0 (trainFail s q result) := by
  unfold trainFail
  repeat' first
    | with_reducible assumption
    | (extract_lets -underBinder +onlyGivenNames x; first
      | (guard_hyp x : State := _; refine (fun (hx : Keeps m s0 x) => ?_) ?_ <;> [clear_value x; subst x])
      | clear_value x)
    | with_reducible refine State.set_keeps (landTrans hm (by decide)) _ _ _ _ _ ?_
    | with_reducible refine setLink_keeps (landTrans hm (by decide)) _ _ _ ?_

theorem identArrives_keeps {m : Nat} {s0 : State} (hm : m.land 65908730892 = 65908730892) (s : State) (q : ℕ) (role : ℕ) (node : ℕ) (revoked : Bool) (peer : ℕ) (digest : Bytes) (h_s : Keeps m s0 s) :
    Keeps m s0 (identArrives s q role node revoked peer digest) := by
  unfold identArrives
  repeat' first
    | with_reducible assumption
    | (extract_lets -underBinder +onlyGivenNames x; first
      | (guard_hyp x : State := _; refine (fun (hx : Keeps m s0 x) => ?_) ?_ <;> [clear_value x; subst x])
      | clear_value x)
    | with_reducible refine State.set_keeps (landTrans hm (by decide)) _ _ _ _ _ ?_
    | with_reducible refine fencedSelf_keeps (landTrans hm (by decide)) _ ?_
    | with_reducible refine trainFail_keeps (landTrans hm (by decide)) _ _ _ ?_
    | with_reducible refine sendCtl_keeps (landTrans hm (by decide)) _ _ _ _ ?_
    | with_reducible refine trainNext_keeps (landTrans hm (by decide)) _ _ ?_
    | with_reducible refine ite_keeps ?_ ?_

theorem execIdent_keeps {m : Nat} {s0 : State} (hm : m.land 65908730892 = 65908730892) (q : ℕ) (role : ℕ) (inc : ℕ) (node : ℕ) (revoked : Bool) (peer : ℕ) (digest : Bytes) (s : State) (h_s : Keeps m s0 s) :
    KeepsX m s0 (execIdent q role inc node revoked peer digest s) := by
  unfold execIdent
  repeat' first
    | with_reducible assumption
    | intro _
    | (extract_lets -underBinder +onlyGivenNames x; clear_value x)
    | with_reducible refine onPort_keeps (landTrans hm (by decide)) _ _ _ ?_ ?_
    | with_reducible refine identArrives_keeps (landTrans hm (by decide)) _ _ _ _ _ _ _ ?_

theorem execIdle_keeps {m : Nat} {s0 : State} (hm : m.land 39728447492 = 39728447492) (q : ℕ) (ackLseq : Byte) (s : State) (h_s : Keeps m s0 s) :
    KeepsX m s0 (execIdle q ackLseq s) := by
  unfold execIdle
  repeat' first
    | with_reducible assumption
    | intro _
    | with_reducible refine onPort_keeps (landTrans hm (by decide)) _ _ _ ?_ ?_
    | with_reducible refine flitAck_keeps (landTrans hm (by decide)) _ _ _ ?_
    | with_reducible refine seen_keeps (landTrans hm (by decide)) _ _ ?_
    | with_reducible refine ite_keeps ?_ ?_

theorem execLoopReq_keeps {m : Nat} {s0 : State} (hm : m.land 5368709120 = 5368709120) (q : ℕ) (tSend : BitVec 64) (s : State) (h_s : Keeps m s0 s) :
    KeepsX m s0 (execLoopReq q tSend s) := by
  unfold execLoopReq
  repeat' first
    | with_reducible assumption
    | intro _
    | with_reducible refine onPort_keeps (landTrans hm (by decide)) _ _ _ ?_ ?_
    | with_reducible refine sendCtl_keeps (landTrans hm (by decide)) _ _ _ _ ?_
    | with_reducible refine seen_keeps (landTrans hm (by decide)) _ _ ?_
    | with_reducible refine ite_keeps ?_ ?_

theorem loopArrives_keeps {m : Nat} {s0 : State} (hm : m.land 5368709124 = 5368709124) (s : State) (q : ℕ) (tSend : ℕ) (h_s : Keeps m s0 s) :
    Keeps m s0 (loopArrives s q tSend) := by
  unfold loopArrives
  repeat' first
    | with_reducible assumption
    | (extract_lets -underBinder +onlyGivenNames x; first
      | (guard_hyp x : State := _; refine (fun (hx : Keeps m s0 x) => ?_) ?_ <;> [clear_value x; subst x])
      | clear_value x)
    | with_reducible refine State.set_keeps (landTrans hm (by decide)) _ _ _ _ _ ?_
    | with_reducible refine sendCtl_keeps (landTrans hm (by decide)) _ _ _ _ ?_
    | with_reducible refine setLink_keeps (landTrans hm (by decide)) _ _ _ ?_
    | with_reducible refine trainFail_keeps (landTrans hm (by decide)) _ _ _ ?_
    | with_reducible refine sendCredit_keeps (landTrans hm (by decide)) _ _ _ _ ?_
    | with_reducible refine trainNext_keeps (landTrans hm (by decide)) _ _ ?_
    | with_reducible refine ite_keeps ?_ ?_

theorem execLoopRsp_keeps {m : Nat} {s0 : State} (hm : m.land 5368709124 = 5368709124) (q : ℕ) (tSend : BitVec 64) (s : State) (h_s : Keeps m s0 s) :
    KeepsX m s0 (execLoopRsp q tSend s) := by
  unfold execLoopRsp
  repeat' first
    | with_reducible assumption
    | intro _
    | with_reducible refine onPort_keeps (landTrans hm (by decide)) _ _ _ ?_ ?_
    | with_reducible refine loopArrives_keeps (landTrans hm (by decide)) _ _ _ ?_

theorem execPortStart_keeps {m : Nat} {s0 : State} (hm : m.land 4294967300 = 4294967300) (q : ℕ) (s : State) (h_s : Keeps m s0 s) :
    KeepsX m s0 (execPortStart q s) := by
  unfold execPortStart
  repeat' first
    | with_reducible assumption
    | intro _
    | with_reducible refine onPort_keeps (landTrans hm (by decide)) _ _ _ ?_ ?_
    | with_reducible refine portStart_keeps (landTrans hm (by decide)) _ _ ?_

theorem execPortStop_keeps {m : Nat} {s0 : State} (hm : m.land 48318383108 = 48318383108) (q : ℕ) (s : State) (h_s : Keeps m s0 s) :
    KeepsX m s0 (execPortStop q s) := by
  unfold execPortStop
  repeat' first
    | with_reducible assumption
    | intro _
    | with_reducible refine onPort_keeps (landTrans hm (by decide)) _ _ _ ?_ ?_
    | with_reducible refine portStop_keeps (landTrans hm (by decide)) _ _ ?_

theorem retryArrives_keeps {m : Nat} {s0 : State} (hm : m.land 48318383108 = 48318383108) (s : State) (q : ℕ) (lseq : Byte) (h_s : Keeps m s0 s) :
    Keeps m s0 (retryArrives s q lseq) := by
  unfold retryArrives
  repeat' first
    | with_reducible assumption
    | (extract_lets -underBinder +onlyGivenNames x; first
      | (guard_hyp x : State := _; refine (fun (hx : Keeps m s0 x) => ?_) ?_ <;> [clear_value x; subst x])
      | clear_value x)
    | with_reducible refine seen_keeps (landTrans hm (by decide)) _ _ ?_
    | with_reducible refine linkDown_keeps (landTrans hm (by decide)) _ _ ?_
    | with_reducible refine State.bump_keeps (landTrans hm (by decide)) _ _ _ _ _ ?_
    | with_reducible refine setLink_keeps (landTrans hm (by decide)) _ _ _ ?_
    | with_reducible refine ite_keeps ?_ ?_
    | split

theorem execRetry_keeps {m : Nat} {s0 : State} (hm : m.land 48318383108 = 48318383108) (q : ℕ) (lseq : Byte) (s : State) (h_s : Keeps m s0 s) :
    KeepsX m s0 (execRetry q lseq s) := by
  unfold execRetry
  repeat' first
    | with_reducible assumption
    | intro _
    | with_reducible refine onPort_keeps (landTrans hm (by decide)) _ _ _ ?_ ?_
    | with_reducible refine retryArrives_keeps (landTrans hm (by decide)) _ _ _ ?_

theorem trainRetry_keeps {m : Nat} {s0 : State} (hm : m.land 4294967300 = 4294967300) (s : State) (q : ℕ) (h_s : Keeps m s0 s) :
    Keeps m s0 (trainRetry s q) := by
  unfold trainRetry
  repeat' first
    | with_reducible assumption
    | with_reducible refine trainBegin_keeps (landTrans hm (by decide)) _ _ ?_
    | with_reducible refine ite_keeps ?_ ?_
    | split

theorem execTrainRetry_keeps {m : Nat} {s0 : State} (hm : m.land 4294967300 = 4294967300) (q : ℕ) (s : State) (h_s : Keeps m s0 s) :
    KeepsX m s0 (execTrainRetry q s) := by
  unfold execTrainRetry
  repeat' first
    | with_reducible assumption
    | intro _
    | with_reducible refine onPort_keeps (landTrans hm (by decide)) _ _ _ ?_ ?_
    | with_reducible refine trainRetry_keeps (landTrans hm (by decide)) _ _ ?_

theorem stepTimeout_keeps {m : Nat} {s0 : State} (hm : m.land 4294967302 = 4294967302) (s : State) (q : ℕ) (h_s : Keeps m s0 s) :
    Keeps m s0 (stepTimeout s q) := by
  unfold stepTimeout
  repeat' first
    | with_reducible assumption
    | (extract_lets -underBinder +onlyGivenNames x; clear_value x)
    | with_reducible refine trainFail_keeps (landTrans hm (by decide)) _ _ _ ?_
    | with_reducible refine ite_keeps ?_ ?_
    | split
    | with_reducible refine Keeps2.of (takeFree_keeps (landTrans hm (by decide)) _ ?_)

theorem execTrainStepTimeout_keeps {m : Nat} {s0 : State} (hm : m.land 4294967302 = 4294967302) (q : ℕ) (s : State) (h_s : Keeps m s0 s) :
    KeepsX m s0 (execTrainStepTimeout q s) := by
  unfold execTrainStepTimeout
  repeat' first
    | with_reducible assumption
    | intro _
    | with_reducible refine onPort_keeps (landTrans hm (by decide)) _ _ _ ?_ ?_
    | with_reducible refine stepTimeout_keeps (landTrans hm (by decide)) _ _ ?_

theorem waveLock_keeps {m : Nat} {s0 : State} (hm : m.land 4294967296 = 4294967296) (s : State) (q : ℕ) (h_s : Keeps m s0 s) :
    Keeps m s0 (waveLock s q) := by
  unfold waveLock
  repeat' first
    | with_reducible assumption
    | (extract_lets -underBinder +onlyGivenNames x; first
      | (guard_hyp x : State := _; refine (fun (hx : Keeps m s0 x) => ?_) ?_ <;> [clear_value x; subst x])
      | clear_value x)
    | with_reducible refine trainNext_keeps (landTrans hm (by decide)) _ _ ?_
    | with_reducible refine setLink_keeps (landTrans hm (by decide)) _ _ _ ?_
    | with_reducible refine ite_keeps ?_ ?_

theorem execWavelengthLock_keeps {m : Nat} {s0 : State} (hm : m.land 4294967296 = 4294967296) (q : ℕ) (s : State) (h_s : Keeps m s0 s) :
    KeepsX m s0 (execWavelengthLock q s) := by
  unfold execWavelengthLock
  repeat' first
    | with_reducible assumption
    | intro _
    | with_reducible refine onPort_keeps (landTrans hm (by decide)) _ _ _ ?_ ?_
    | with_reducible refine waveLock_keeps (landTrans hm (by decide)) _ _ ?_

end Sys2Proof.Machine
end

