-- ==== Sys2Proof/Laws/KeepsLive.lean ====
section
/-! SUPPORT. What each operation of Live.lean keeps: the canonical form, and the parts of the state that it does not name. -/

namespace Sys2Proof.Machine

theorem checkBegin_keeps {m : Nat} {s0 : State} (hm : m.land 2052 = 2052) (s : State) (n : ℕ) (h_s : Keeps m s0 s) :
    Keeps m s0 (checkBegin s n) := by
  unfold checkBegin
  repeat' first
    | with_reducible assumption
    | (extract_lets -underBinder +onlyGivenNames x; first
      | (guard_hyp x : State := _; refine (fun (hx : Keeps m s0 x) => ?_) ?_ <;> [clear_value x; subst x])
      | clear_value x)
    | with_reducible refine arrTest_keeps (landTrans hm (by decide)) _ _ ?_
    | with_reducible refine setCore_keeps (landTrans hm (by decide)) _ _ _ ?_
    | with_reducible refine arrStopping_keeps (landTrans hm (by decide)) _ _ ?_
    | with_reducible refine ite_keeps ?_ ?_

theorem actBegin_keeps {m : Nat} {s0 : State} (hm : m.land 2052 = 2052) (s : State) (n : ℕ) (a : Activity) (h_s : Keeps m s0 s) :
    Keeps m s0 (actBegin s n a) := by
  unfold actBegin
  repeat' first
    | with_reducible assumption
    | (extract_lets -underBinder +onlyGivenNames x; first
      | (guard_hyp x : State := _; refine (fun (hx : Keeps m s0 x) => ?_) ?_ <;> [clear_value x; subst x])
      | clear_value x)
    | with_reducible refine setCore_keeps (landTrans hm (by decide)) _ _ _ ?_
    | with_reducible refine State.set_keeps (landTrans hm (by decide)) _ _ _ _ _ ?_
    | with_reducible refine checkBegin_keeps (landTrans hm (by decide)) _ _ ?_
    | with_reducible refine ite_keeps ?_ ?_

theorem sweepEnd_keeps {m : Nat} {s0 : State} (hm : m.land 42949676036 = 42949676036) (s : State) (n : ℕ) (ps : ℕ) (h_s : Keeps m s0 s) :
    Keeps2 m s0 (sweepEnd s n ps) := by
  unfold sweepEnd
  repeat' first
    | with_reducible assumption
    | (extract_lets -underBinder +onlyGivenNames x; first
      | (guard_hyp x : State := _; refine (fun (hx : Keeps m s0 x) => ?_) ?_ <;> [clear_value x; subst x])
      | clear_value x)
    | with_reducible refine setCore_keeps (landTrans hm (by decide)) _ _ _ ?_
    | with_reducible refine marginCrossing_keeps (landTrans hm (by decide)) _ _ _ _ _ ?_
    | with_reducible refine setMargin_keeps (landTrans hm (by decide)) _ _ _ _ ?_
    | split
    | with_reducible refine pair2 ?_

theorem droopEnd_keeps {m : Nat} {s0 : State} (hm : m.land 42949673988 = 42949673988) (s : State) (n : ℕ) (mv : ℕ) (h_s : Keeps m s0 s) :
    Keeps2 m s0 (droopEnd s n mv) := by
  unfold droopEnd
  repeat' first
    | with_reducible assumption
    | (extract_lets -underBinder +onlyGivenNames x; first
      | (guard_hyp x : State := _; refine (fun (hx : Keeps m s0 x) => ?_) ?_ <;> [clear_value x; subst x])
      | clear_value x)
    | with_reducible refine marginCrossing_keeps (landTrans hm (by decide)) _ _ _ _ _ ?_
    | with_reducible refine setMargin_keeps (landTrans hm (by decide)) _ _ _ _ ?_
    | split
    | with_reducible refine pair2 ?_

theorem returnPass_keeps {m : Nat} {s0 : State} (hm : m.land 2052 = 2052) (s : State) (n : ℕ) (h_s : Keeps m s0 s) :
    Keeps m s0 (returnPass s n) := by
  unfold returnPass
  repeat' first
    | with_reducible assumption
    | (extract_lets -underBinder +onlyGivenNames x; first
      | (guard_hyp x : State := _; refine (fun (hx : Keeps m s0 x) => ?_) ?_ <;> [clear_value x; subst x])
      | clear_value x)
    | with_reducible refine setSuspect_keeps (landTrans hm (by decide)) _ _ _ ?_
    | with_reducible refine setRetired_keeps (landTrans hm (by decide)) _ _ ?_
    | with_reducible refine setCore_keeps (landTrans hm (by decide)) _ _ _ ?_

theorem retireCore_keeps {m : Nat} {s0 : State} (hm : m.land 60129618948 = 60129618948) (s : State) (n : ℕ) (h_s : Keeps m s0 s) :
    Keeps m s0 (retireCore s n) := by
  unfold retireCore
  repeat' first
    | with_reducible assumption
    | intro _
    | (extract_lets -underBinder +onlyGivenNames x; first
      | (guard_hyp x : State := _; refine (fun (hx : Keeps m s0 x) => ?_) ?_ <;> [clear_value x; subst x])
      | clear_value x)
    | with_reducible refine setCore_keeps (landTrans hm (by decide)) _ _ _ ?_
    | with_reducible refine retireSettle_keeps (landTrans hm (by decide)) _ _ ?_
    | with_reducible refine forEach_keeps (landTrans hm (by decide)) _ _ _ ?_ ?_
    | with_reducible refine settleCtx_keeps (landTrans hm (by decide)) _ _ ?_

theorem checkOutcome_keeps {m : Nat} {s0 : State} (hm : m.land 60129618948 = 60129618948) (s : State) (n : ℕ) (bad : Bool) (h_s : Keeps m s0 s) :
    Keeps m s0 (checkOutcome s n bad) := by
  unfold checkOutcome
  repeat' first
    | with_reducible assumption
    | (extract_lets -underBinder +onlyGivenNames x; first
      | (guard_hyp x : State := _; refine (fun (hx : Keeps m s0 x) => ?_) ?_ <;> [clear_value x; subst x])
      | clear_value x)
    | with_reducible refine State.set_keeps (landTrans hm (by decide)) _ _ _ _ _ ?_
    | with_reducible refine coreLeaves_keeps (landTrans hm (by decide)) _ _ ?_
    | with_reducible refine returnPass_keeps (landTrans hm (by decide)) _ _ ?_
    | with_reducible refine mbxEnd_keeps (landTrans hm (by decide)) _ _ _ ?_
    | with_reducible refine setSuspect_keeps (landTrans hm (by decide)) _ _ _ ?_
    | with_reducible refine setCore_keeps (landTrans hm (by decide)) _ _ _ ?_
    | with_reducible refine retireCore_keeps (landTrans hm (by decide)) _ _ ?_
    | with_reducible refine ite_keeps ?_ ?_

theorem reloadGone_keeps {m : Nat} {s0 : State} (hm : m.land 17179869186 = 17179869186) (s : State) (n : ℕ) (c : ℕ) (h_s : Keeps m s0 s) :
    Keeps m s0 (reloadGone s n c) := by
  unfold reloadGone
  repeat' first
    | with_reducible assumption
    | with_reducible refine mbxEnd_keeps (landTrans hm (by decide)) _ _ _ ?_
    | with_reducible refine ite_keeps ?_ ?_
    | with_reducible refine Keeps2.of (takeFree_keeps (landTrans hm (by decide)) _ ?_)

theorem copyEnd_keeps {m : Nat} {s0 : State} (hm : m.land 17179871234 = 17179871234) (s : State) (n : ℕ) (c : ℕ) (h_s : Keeps m s0 s) :
    Keeps m s0 (copyEnd s n c) := by
  unfold copyEnd
  repeat' first
    | with_reducible assumption
    | (extract_lets -underBinder +onlyGivenNames x; first
      | (guard_hyp x : State := _; refine (fun (hx : Keeps m s0 x) => ?_) ?_ <;> [clear_value x; subst x])
      | clear_value x)
    | with_reducible refine setCore_keeps (landTrans hm (by decide)) _ _ _ ?_
    | with_reducible refine mbxEnd_keeps (landTrans hm (by decide)) _ _ _ ?_
    | with_reducible refine reloadGone_keeps (landTrans hm (by decide)) _ _ _ ?_
    | with_reducible refine ite_keeps ?_ ?_

theorem actDone_keeps {m : Nat} {s0 : State} (hm : m.land 60129618950 = 60129618950) (s : State) (n : ℕ) (a : Activity) (r : ActivityResult) (h_s : Keeps m s0 s) :
    Keeps m s0 (actDone s n a r) := by
  unfold actDone
  repeat' first
    | with_reducible assumption
    | (extract_lets -underBinder +onlyGivenNames x; first
      | (guard_hyp x : Bool × State := _; refine (fun (hx : Keeps2 m s0 x) => ?_) ?_ <;> [clear_value x; subst x])
      | clear_value x)
    | with_reducible refine sweepEnd_keeps (landTrans hm (by decide)) _ _ _ ?_
    | with_reducible refine droopEnd_keeps (landTrans hm (by decide)) _ _ _ ?_
    | with_reducible refine checkOutcome_keeps (landTrans hm (by decide)) _ _ _ ?_
    | with_reducible refine setCore_keeps (landTrans hm (by decide)) _ _ _ ?_
    | with_reducible refine copyEnd_keeps (landTrans hm (by decide)) _ _ _ ?_
    | split
    | with_reducible exact Keeps2.of ‹_›
    | with_reducible refine Keeps2.of (sweepEnd_keeps (landTrans hm (by decide)) _ _ _ ?_)
    | with_reducible refine Keeps2.of (droopEnd_keeps (landTrans hm (by decide)) _ _ _ ?_)

theorem actEnd_keeps {m : Nat} {s0 : State} (hm : m.land 60129618950 = 60129618950) (s : State) (n : ℕ) (r : ActivityResult) (h_s : Keeps m s0 s) :
    Keeps m s0 (actEnd s n r) := by
  unfold actEnd
  repeat' first
    | with_reducible assumption
    | (extract_lets -underBinder +onlyGivenNames x; first
      | (guard_hyp x : State := _; refine (fun (hx : Keeps m s0 x) => ?_) ?_ <;> [clear_value x; subst x])
      | clear_value x)
    | with_reducible refine State.set_keeps (landTrans hm (by decide)) _ _ _ _ _ ?_
    | with_reducible refine setCore_keeps (landTrans hm (by decide)) _ _ _ ?_
    | with_reducible refine actDone_keeps (landTrans hm (by decide)) _ _ _ _ ?_
    | split

theorem actStart_keeps {m : Nat} {s0 : State} (hm : m.land 2052 = 2052) (s : State) (n : ℕ) (kind : ℕ) (h_s : Keeps m s0 s) :
    Keeps m s0 (actStart s n kind) := by
  unfold actStart
  repeat' first
    | with_reducible assumption
    | (extract_lets -underBinder +onlyGivenNames x; clear_value x)
    | with_reducible refine actBegin_keeps (landTrans hm (by decide)) _ _ _ ?_
    | with_reducible refine ite_keeps ?_ ?_

theorem execCoreRetire_keeps {m : Nat} {s0 : State} (hm : m.land 8856222641156 = 8856222641156) (rq : Requester) (s : State) (h_s : Keeps m s0 s) :
    KeepsX m s0 (execCoreRetire rq s) := by
  unfold execCoreRetire
  repeat' first
    | with_reducible assumption
    | intro _
    | with_reducible refine mbxCommand_keeps (landTrans hm (by decide)) _ _ _ _ _ ?_ ?_
    | with_reducible refine retireCore_keeps (landTrans hm (by decide)) _ _ ?_
    | with_reducible refine next_keeps ?_

theorem coreReturn_keeps {m : Nat} {s0 : State} (hm : m.land 2052 = 2052) (s : State) (h_s : Keeps m s0 s) :
    Keeps m s0 (coreReturn s) := by
  unfold coreReturn
  repeat' first
    | with_reducible assumption
    | (extract_lets -underBinder +onlyGivenNames x; first
      | (guard_hyp x : State := _; refine (fun (hx : Keeps m s0 x) => ?_) ?_ <;> [clear_value x; subst x])
      | clear_value x)
    | with_reducible refine setFnState_keeps (landTrans hm (by decide)) _ _ _ ?_
    | with_reducible refine markSuspect_keeps (landTrans hm (by decide)) _ _ ?_
    | with_reducible refine setCore_keeps (landTrans hm (by decide)) _ _ _ ?_

theorem execCoreReturn_keeps {m : Nat} {s0 : State} (hm : m.land 8813272893444 = 8813272893444) (rq : Requester) (s : State) (h_s : Keeps m s0 s) :
    KeepsX m s0 (execCoreReturn rq s) := by
  unfold execCoreReturn
  repeat' first
    | with_reducible assumption
    | intro _
    | with_reducible refine mbxCommand_keeps (landTrans hm (by decide)) _ _ _ _ _ ?_ ?_
    | with_reducible refine coreReturn_keeps (landTrans hm (by decide)) _ ?_
    | with_reducible refine next_keeps ?_

theorem portRetire_keeps {m : Nat} {s0 : State} (hm : m.land 65590527078 = 65590527078) (s : State) (h_s : Keeps m s0 s) :
    Keeps m s0 (portRetire s) := by
  unfold portRetire
  repeat' first
    | with_reducible assumption
    | (extract_lets -underBinder +onlyGivenNames x; first
      | (guard_hyp x : State := _; refine (fun (hx : Keeps m s0 x) => ?_) ?_ <;> [clear_value x; subst x])
      | clear_value x)
    | with_reducible refine fhDown_keeps (landTrans hm (by decide)) _ _ _ ?_
    | with_reducible refine portDown_keeps (landTrans hm (by decide)) _ _ _ ?_
    | with_reducible refine journal_keeps (landTrans hm (by decide)) _ _ ?_
    | with_reducible refine mbxEnd_keeps (landTrans hm (by decide)) _ _ _ ?_
    | with_reducible refine ite_keeps ?_ ?_

theorem execPortRetire_keeps {m : Nat} {s0 : State} (hm : m.land 8861683549286 = 8861683549286) (rq : Requester) (s : State) (h_s : Keeps m s0 s) :
    KeepsX m s0 (execPortRetire rq s) := by
  unfold execPortRetire
  repeat' first
    | with_reducible assumption
    | intro _
    | with_reducible refine mbxCommand_keeps (landTrans hm (by decide)) _ _ _ _ _ ?_ ?_
    | with_reducible refine portRetire_keeps (landTrans hm (by decide)) _ ?_
    | with_reducible refine next_keeps ?_

theorem portReturn_keeps {m : Nat} {s0 : State} (hm : m.land 17179869188 = 17179869188) (s : State) (h_s : Keeps m s0 s) :
    Keeps m s0 (portReturn s) := by
  unfold portReturn
  repeat' first
    | with_reducible assumption
    | with_reducible refine mbxEnd_keeps (landTrans hm (by decide)) _ _ _ ?_
    | with_reducible refine setFnState_keeps (landTrans hm (by decide)) _ _ _ ?_

theorem execPortReturn_keeps {m : Nat} {s0 : State} (hm : m.land 8813272891396 = 8813272891396) (rq : Requester) (s : State) (h_s : Keeps m s0 s) :
    KeepsX m s0 (execPortReturn rq s) := by
  unfold execPortReturn
  repeat' first
    | with_reducible assumption
    | intro _
    | with_reducible refine mbxCommand_keeps (landTrans hm (by decide)) _ _ _ _ _ ?_ ?_
    | with_reducible refine portReturn_keeps (landTrans hm (by decide)) _ ?_
    | with_reducible refine next_keeps ?_

theorem maintRun_keeps {m : Nat} {s0 : State} (hm : m.land 17179871236 = 17179871236) (s : State) (h_s : Keeps m s0 s) :
    Keeps m s0 (maintRun s) := by
  unfold maintRun
  repeat' first
    | with_reducible assumption
    | with_reducible refine mbxEnd_keeps (landTrans hm (by decide)) _ _ _ ?_
    | with_reducible refine queueActs_keeps (landTrans hm (by decide)) _ _ _ ?_

theorem execMaintRun_keeps {m : Nat} {s0 : State} (hm : m.land 8813272893444 = 8813272893444) (rq : Requester) (s : State) (h_s : Keeps m s0 s) :
    KeepsX m s0 (execMaintRun rq s) := by
  unfold execMaintRun
  repeat' first
    | with_reducible assumption
    | intro _
    | with_reducible refine mbxCommand_keeps (landTrans hm (by decide)) _ _ _ _ _ ?_ ?_
    | with_reducible refine maintRun_keeps (landTrans hm (by decide)) _ ?_
    | with_reducible refine next_keeps ?_

theorem resetRwl_keeps {m : Nat} {s0 : State} (hm : m.land 4 = 4) (s : State) (fns : List ℕ) (h_s : Keeps m s0 s) :
    Keeps m s0 (resetRwl s fns) := by
  unfold resetRwl
  repeat' first
    | with_reducible assumption
    | intro _
    | (extract_lets -underBinder +onlyGivenNames x; clear_value x)
    | with_reducible refine forEach_keeps (landTrans hm (by decide)) _ _ _ ?_ ?_
    | with_reducible refine wrReg_keeps (landTrans hm (by decide)) _ _ _ ?_
    | with_reducible refine ite_keeps ?_ ?_
    | split

theorem setDom_keeps {m : Nat} {s0 : State} (hm : m.land 4 = 4) (s : State) (d : ℕ) (on : Bool) (h_s : Keeps m s0 s) :
    Keeps m s0 (setDom s d on) := by
  unfold setDom
  repeat' first
    | with_reducible assumption
    | (extract_lets -underBinder +onlyGivenNames x; clear_value x)
    | with_reducible refine wrReg_keeps (landTrans hm (by decide)) _ _ _ ?_

theorem coreOff_keeps {m : Nat} {s0 : State} (hm : m.land 3076 = 3076) (s : State) (n : ℕ) (h_s : Keeps m s0 s) :
    Keeps m s0 (coreOff s n) := by
  unfold coreOff
  dsimp only
  repeat' first
    | (intro w; simp only [State.wf, Mems.wf, Bool.and_eq_true] at w; try simp only [Mems.wf, Bool.and_eq_true]
       first | (simp [w.1, w.2, w, wrBytes_wf, wrM_wf, poisonWrite_wf, mapDropRange, mapFilter_wf, mapPut_wf]; done) | (simp at w; simp [w, wrBytes_wf, wrM_wf, poisonWrite_wf, mapDropRange, mapFilter_wf, mapPut_wf]; done))
    | with_reducible assumption
    | with_reducible refine State.set_keeps (landTrans hm (by decide)) _ _ _ _ _ ?_
    | with_reducible refine setCore_keeps (landTrans hm (by decide)) _ _ _ ?_
    | fail_if_no_progress (with_reducible refine upd_mems (landTrans hm (by decide)) _ ?_ ?_)

theorem clusterOff_keeps {m : Nat} {s0 : State} (hm : m.land 5120 = 5120) (s : State) (c : ℕ) (h_s : Keeps m s0 s) :
    Keeps m s0 (clusterOff s c) := by
  unfold clusterOff
  dsimp only
  repeat' first
    | (intro w; simp only [State.wf, Mems.wf, Bool.and_eq_true] at w; try simp only [Mems.wf, Bool.and_eq_true]
       first | (simp [w.1, w.2, w, wrBytes_wf, wrM_wf, poisonWrite_wf, mapDropRange, mapFilter_wf, mapPut_wf]; done) | (simp at w; simp [w, wrBytes_wf, wrM_wf, poisonWrite_wf, mapDropRange, mapFilter_wf, mapPut_wf]; done))
    | with_reducible assumption
    | fail_if_no_progress (with_reducible refine upd_mems_clTok (landTrans hm (by decide)) _ _ ?_ ?_)

theorem domainOff_keeps {m : Nat} {s0 : State} (hm : m.land 7172 = 7172) (s : State) (d : ℕ) (h_s : Keeps m s0 s) :
    Keeps m s0 (domainOff s d) := by
  unfold domainOff
  repeat' first
    | with_reducible assumption
    | (extract_lets -underBinder +onlyGivenNames x; guard_hyp x : State := _; refine (fun (hx : Keeps m s0 x) => ?_) ?_ <;> [clear_value x; subst x])
    | with_reducible refine resetRwl_keeps (landTrans hm (by decide)) _ _ ?_
    | with_reducible refine setDom_keeps (landTrans hm (by decide)) _ _ _ ?_
    | with_reducible refine coreOff_keeps (landTrans hm (by decide)) _ _ ?_
    | with_reducible refine clusterOff_keeps (landTrans hm (by decide)) _ _ ?_
    | with_reducible refine ite_keeps ?_ ?_

theorem powerReq_keeps {m : Nat} {s0 : State} (hm : m.land 1099511634948 = 1099511634948) (s : State) (d : ℕ) (on : Bool) (off : Bool) (h_s : Keeps m s0 s) :
    Keeps m s0 (powerReq s d on off) := by
  unfold powerReq
  repeat' first
    | with_reducible assumption
    | (extract_lets -underBinder +onlyGivenNames x; guard_hyp x : State := _; refine (fun (hx : Keeps m s0 x) => ?_) ?_ <;> [clear_value x; subst x])
    | with_reducible refine State.set_keeps (landTrans hm (by decide)) _ _ _ _ _ ?_
    | with_reducible refine domainOff_keeps (landTrans hm (by decide)) _ _ ?_
    | with_reducible refine ite_keeps ?_ ?_
    | split
    | fail_if_no_progress (with_reducible refine upd_pwrSw (landTrans hm (by decide)) _ ?_)

theorem copyStart_keeps {m : Nat} {s0 : State} (hm : m.land 17179872262 = 17179872262) (s : State) (n : ℕ) (c : ℕ) (h_s : Keeps m s0 s) :
    Keeps m s0 (copyStart s n c) := by
  unfold copyStart
  dsimp only
  repeat' first
    | (intro w; simp only [State.wf, Mems.wf, Bool.and_eq_true] at w; try simp only [Mems.wf, Bool.and_eq_true]
       first | (simp [w.1, w.2, w, wrBytes_wf, wrM_wf, poisonWrite_wf, mapDropRange, mapFilter_wf, mapPut_wf]; done) | (simp at w; simp [w, wrBytes_wf, wrM_wf, poisonWrite_wf, mapDropRange, mapFilter_wf, mapPut_wf]; done))
    | with_reducible assumption
    | with_reducible refine reloadGone_keeps (landTrans hm (by decide)) _ _ _ ?_
    | with_reducible refine setCore_keeps (landTrans hm (by decide)) _ _ _ ?_
    | with_reducible refine mbxEnd_keeps (landTrans hm (by decide)) _ _ _ ?_
    | with_reducible refine actBegin_keeps (landTrans hm (by decide)) _ _ _ ?_
    | with_reducible refine ite_keeps ?_ ?_
    | split
    | fail_if_no_progress (with_reducible refine upd_mems (landTrans hm (by decide)) _ ?_ ?_)

theorem execArrayCheck_keeps {m : Nat} {s0 : State} (hm : m.land 2052 = 2052) (n : ℕ) (s : State) (h_s : Keeps m s0 s) :
    KeepsX m s0 (execArrayCheck n s) := by
  unfold execArrayCheck
  repeat' first
    | with_reducible assumption
    | with_reducible refine actStart_keeps (landTrans hm (by decide)) _ _ _ ?_
    | with_reducible refine ite_keeps ?_ ?_
    | with_reducible refine next_keeps ?_

theorem execCanarySweep_keeps {m : Nat} {s0 : State} (hm : m.land 2052 = 2052) (n : ℕ) (s : State) (h_s : Keeps m s0 s) :
    KeepsX m s0 (execCanarySweep n s) := by
  unfold execCanarySweep
  repeat' first
    | with_reducible assumption
    | with_reducible refine actStart_keeps (landTrans hm (by decide)) _ _ _ ?_
    | with_reducible refine ite_keeps ?_ ?_
    | with_reducible refine next_keeps ?_

theorem execCpLoad_keeps {m : Nat} {s0 : State} (hm : m.land 2052 = 2052) (n : ℕ) (s : State) (h_s : Keeps m s0 s) :
    KeepsX m s0 (execCpLoad n s) := by
  unfold execCpLoad
  repeat' first
    | with_reducible assumption
    | with_reducible refine actStart_keeps (landTrans hm (by decide)) _ _ _ ?_
    | with_reducible refine ite_keeps ?_ ?_
    | with_reducible refine next_keeps ?_

theorem execDroopTest_keeps {m : Nat} {s0 : State} (hm : m.land 2052 = 2052) (n : ℕ) (s : State) (h_s : Keeps m s0 s) :
    KeepsX m s0 (execDroopTest n s) := by
  unfold execDroopTest
  repeat' first
    | with_reducible assumption
    | with_reducible refine actStart_keeps (landTrans hm (by decide)) _ _ _ ?_
    | with_reducible refine ite_keeps ?_ ?_
    | with_reducible refine next_keeps ?_

theorem execImageCopy_keeps {m : Nat} {s0 : State} (hm : m.land 17179872262 = 17179872262) (n : ℕ) (c : ℕ) (s : State) (h_s : Keeps m s0 s) :
    KeepsX m s0 (execImageCopy n c s) := by
  unfold execImageCopy
  repeat' first
    | with_reducible assumption
    | with_reducible refine copyStart_keeps (landTrans hm (by decide)) _ _ _ ?_
    | with_reducible refine ite_keeps ?_ ?_
    | with_reducible refine next_keeps ?_

theorem execMaintActivityEnd_keeps {m : Nat} {s0 : State} (hm : m.land 60129618950 = 60129618950) (n : ℕ) (result : ActivityResult) (s : State) (h_s : Keeps m s0 s) :
    KeepsX m s0 (execMaintActivityEnd n result s) := by
  unfold execMaintActivityEnd
  repeat' first
    | with_reducible assumption
    | with_reducible refine actEnd_keeps (landTrans hm (by decide)) _ _ _ ?_
    | with_reducible refine ite_keeps ?_ ?_
    | with_reducible refine next_keeps ?_

theorem execMarginCheck_keeps {m : Nat} {s0 : State} (hm : m.land 2052 = 2052) (n : ℕ) (s : State) (h_s : Keeps m s0 s) :
    KeepsX m s0 (execMarginCheck n s) := by
  unfold execMarginCheck
  repeat' first
    | with_reducible assumption
    | with_reducible refine actStart_keeps (landTrans hm (by decide)) _ _ _ ?_
    | with_reducible refine ite_keeps ?_ ?_
    | with_reducible refine next_keeps ?_

theorem execPowerOff_keeps {m : Nat} {s0 : State} (hm : m.land 1099511634948 = 1099511634948) (d : ℕ) (s : State) (h_s : Keeps m s0 s) :
    KeepsX m s0 (execPowerOff d s) :=
  next_keeps (powerReq_keeps hm _ _ _ _ h_s)

theorem execPowerOn_keeps {m : Nat} {s0 : State} (hm : m.land 1099511634948 = 1099511634948) (d : ℕ) (s : State) (h_s : Keeps m s0 s) :
    KeepsX m s0 (execPowerOn d s) :=
  next_keeps (powerReq_keeps hm _ _ _ _ h_s)

theorem powerDone_keeps {m : Nat} {s0 : State} (hm : m.land 1099511627780 = 1099511627780) (s : State) (h_s : Keeps m s0 s) :
    Keeps m s0 (powerDone s) := by
  unfold powerDone
  repeat' first
    | with_reducible assumption
    | (extract_lets -underBinder +onlyGivenNames x; guard_hyp x : State := _; refine (fun (hx : Keeps m s0 x) => ?_) ?_ <;> [clear_value x; subst x])
    | with_reducible refine setDom_keeps (landTrans hm (by decide)) _ _ _ ?_
    | with_reducible refine State.set_keeps (landTrans hm (by decide)) _ _ _ _ _ ?_
    | with_reducible refine ite_keeps ?_ ?_
    | split
    | fail_if_no_progress (with_reducible refine upd_pwrSw (landTrans hm (by decide)) _ ?_)

theorem execPowerSwitchDone_keeps {m : Nat} {s0 : State} (hm : m.land 1099511627780 = 1099511627780) (s : State) (h_s : Keeps m s0 s) :
    KeepsX m s0 (execPowerSwitchDone s) :=
  next_keeps (powerDone_keeps hm _ h_s)

end Sys2Proof.Machine
end

