-- ==== Sys2Proof/Laws/KeepsMge.lean ====
section
/-! SUPPORT. What each operation of Mge.lean keeps: the canonical form, and the parts of the state that it does not name. -/

namespace Sys2Proof.Machine

theorem mgeStart_keeps {m : Nat} {s0 : State} (hm : m.land 4 = 4) (s : State) (h_s : Keeps m s0 s) :
    Keeps m s0 (mgeStart s) := by
  unfold mgeStart
  repeat' first
    | with_reducible assumption
    | (extract_lets -underBinder +onlyGivenNames x; clear_value x)
    | with_reducible refine startFn_keeps (landTrans hm (by decide)) _ _ _ ?_

theorem mgeStop_keeps {m : Nat} {s0 : State} (hm : m.land 4 = 4) (s : State) (h_s : Keeps m s0 s) :
    Keeps m s0 (mgeStop s) := by
  unfold mgeStop
  repeat' first
    | with_reducible assumption
    | (extract_lets -underBinder +onlyGivenNames x; clear_value x)
    | with_reducible refine setFnState_keeps (landTrans hm (by decide)) _ _ _ ?_
    | with_reducible refine ite_keeps ?_ ?_

theorem mdioWrite_keeps {m : Nat} {s0 : State} (hm : m.land 1077936140 = 1077936140) (s : State) (full : Word) (act : Word) (h_s : Keeps m s0 s) :
    Keeps m s0 (mdioWrite s full act) := by
  unfold mdioWrite
  repeat' first
    | with_reducible assumption
    | (extract_lets -underBinder +onlyGivenNames x; first
      | (guard_hyp x : State := _; refine (fun (hx : Keeps m s0 x) => ?_) ?_ <;> [clear_value x; subst x])
      | clear_value x)
    | with_reducible refine rewritten_keeps (landTrans hm (by decide)) _ _ ?_
    | with_reducible refine wrReg_keeps (landTrans hm (by decide)) _ _ _ ?_
    | with_reducible refine State.set_keeps (landTrans hm (by decide)) _ _ _ _ _ ?_
    | with_reducible refine emit_keeps (landTrans hm (by decide)) _ _ ?_
    | with_reducible refine ite_keeps ?_ ?_

theorem mdioGo_keeps {m : Nat} {s0 : State} (hm : m.land 1077936140 = 1077936140) (s : State) (v : Word) (op : ℕ) (h_s : Keeps m s0 s) :
    Keeps m s0 (mdioGo s v op) := by
  unfold mdioGo
  repeat' first
    | with_reducible assumption
    | with_reducible refine mdioWrite_keeps (landTrans hm (by decide)) _ _ _ ?_
    | with_reducible refine ite_keeps ?_ ?_

theorem execMdioAddress_keeps {m : Nat} {s0 : State} (hm : m.land 1077936140 = 1077936140) (v : Word) (s : State) (h_s : Keeps m s0 s) :
    KeepsX m s0 (execMdioAddress v s) :=
  next_keeps (mdioGo_keeps hm _ _ _ h_s)

theorem mdioDone_keeps {m : Nat} {s0 : State} (hm : m.land 4 = 4) (s : State) (d : ℕ) (h_s : Keeps m s0 s) :
    Keeps m s0 (mdioDone s d) := by
  unfold mdioDone
  repeat' first
    | with_reducible assumption
    | (extract_lets -underBinder +onlyGivenNames x; guard_hyp x : State := _; refine (fun (hx : Keeps m s0 x) => ?_) ?_ <;> [clear_value x; subst x])
    | with_reducible refine State.set_keeps (landTrans hm (by decide)) _ _ _ _ _ ?_
    | with_reducible refine ite_keeps ?_ ?_

theorem execMdioDone_keeps {m : Nat} {s0 : State} (hm : m.land 4 = 4) (data : BitVec 16) (s : State) (h_s : Keeps m s0 s) :
    KeepsX m s0 (execMdioDone data s) :=
  next_keeps (mdioDone_keeps hm _ _ h_s)

theorem execMdioRead_keeps {m : Nat} {s0 : State} (hm : m.land 1077936140 = 1077936140) (v : Word) (s : State) (h_s : Keeps m s0 s) :
    KeepsX m s0 (execMdioRead v s) :=
  next_keeps (mdioGo_keeps hm _ _ _ h_s)

theorem execMdioWrite_keeps {m : Nat} {s0 : State} (hm : m.land 1077936140 = 1077936140) (v : Word) (s : State) (h_s : Keeps m s0 s) :
    KeepsX m s0 (execMdioWrite v s) :=
  next_keeps (mdioGo_keeps hm _ _ _ h_s)

theorem mgeReceive_keeps {m : Nat} {s0 : State} (hm : m.land 39728448516 = 39728448516) (s : State) (b : Bytes) (h_s : Keeps m s0 s) :
    Keeps m s0 (mgeReceive s b) := by
  unfold mgeReceive
  repeat' first
    | with_reducible assumption
    | (extract_lets -underBinder +onlyGivenNames x; first
      | (guard_hyp x : State := _; refine (fun (hx : Keeps m s0 x) => ?_) ?_ <;> [clear_value x; subst x])
      | clear_value x)
    | with_reducible refine State.bumpSat_keeps (landTrans hm (by decide)) _ _ _ _ _ ?_
    | with_reducible refine hubWrite_keeps (landTrans hm (by decide)) _ _ _ _ _ ?_
    | with_reducible refine hubSee_keeps (landTrans hm (by decide)) _ _ _ _ ?_
    | with_reducible refine State.set_keeps (landTrans hm (by decide)) _ _ _ _ _ ?_
    | with_reducible refine ite_keeps ?_ ?_

theorem execMgeFrameReceive_keeps {m : Nat} {s0 : State} (hm : m.land 39728448516 = 39728448516) (frame : Bytes) (s : State) (h_s : Keeps m s0 s) :
    KeepsX m s0 (execMgeFrameReceive frame s) :=
  next_keeps (mgeReceive_keeps hm _ _ h_s)

theorem mgeTransmit_keeps {m : Nat} {s0 : State} (hm : m.land 35433480196 = 35433480196) (s : State) (h_s : Keeps m s0 s) :
    Keeps m s0 (mgeTransmit s) := by
  unfold mgeTransmit
  repeat' first
    | with_reducible assumption
    | (extract_lets -underBinder +onlyGivenNames x; first
      | (guard_hyp x : State := _; refine (fun (hx : Keeps m s0 x) => ?_) ?_ <;> [clear_value x; subst x])
      | clear_value x)
    | with_reducible refine hubSee_keeps (landTrans hm (by decide)) _ _ _ _ ?_
    | with_reducible refine State.set_keeps (landTrans hm (by decide)) _ _ _ _ _ ?_
    | with_reducible refine State.bumpSat_keeps (landTrans hm (by decide)) _ _ _ _ _ ?_
    | with_reducible refine seeDev_keeps (landTrans hm (by decide)) _ _ _ ?_
    | with_reducible refine emit_keeps (landTrans hm (by decide)) _ _ ?_
    | with_reducible refine ite_keeps ?_ ?_

theorem execMgeFrameTransmit_keeps {m : Nat} {s0 : State} (hm : m.land 35433480196 = 35433480196) (s : State) (h_s : Keeps m s0 s) :
    KeepsX m s0 (execMgeFrameTransmit s) :=
  next_keeps (mgeTransmit_keeps hm _ h_s)

theorem mgeLink_keeps {m : Nat} {s0 : State} (hm : m.land 4 = 4) (s : State) (up : Bool) (speed : ℕ) (full : Bool) (h_s : Keeps m s0 s) :
    Keeps m s0 (mgeLink s up speed full) := by
  unfold mgeLink
  repeat' first
    | with_reducible assumption
    | (extract_lets -underBinder +onlyGivenNames x; clear_value x)
    | with_reducible refine State.set_keeps (landTrans hm (by decide)) _ _ _ _ _ ?_

theorem execMgeLinkChange_keeps {m : Nat} {s0 : State} (hm : m.land 4 = 4) (up : Bool) (speed : ℕ) (fullDuplex : Bool) (s : State) (h_s : Keeps m s0 s) :
    KeepsX m s0 (execMgeLinkChange up speed fullDuplex s) :=
  next_keeps (mgeLink_keeps hm _ _ _ _ h_s)

theorem execMgeStart_keeps {m : Nat} {s0 : State} (hm : m.land 4 = 4) (s : State) (h_s : Keeps m s0 s) :
    KeepsX m s0 (execMgeStart s) :=
  next_keeps (mgeStart_keeps hm _ h_s)

theorem execMgeStop_keeps {m : Nat} {s0 : State} (hm : m.land 4 = 4) (s : State) (h_s : Keeps m s0 s) :
    KeepsX m s0 (execMgeStop s) :=
  next_keeps (mgeStop_keeps hm _ h_s)

end Sys2Proof.Machine
end

