-- ==== Sys2Proof/Laws/KeepsNvm.lean ====
section
/-! SUPPORT. What each operation of Nvm.lean keeps: the canonical form, and the parts of the state that it does not name. -/

namespace Sys2Proof.Machine

theorem nvmDone_keeps {m : Nat} {s0 : State} (hm : m.land 17179869188 = 17179869188) (s : State) (h_s : Keeps m s0 s) :
    Keeps m s0 (nvmDone s) := by
  unfold nvmDone
  repeat' first
    | with_reducible assumption
    | with_reducible refine mbxEnd_keeps (landTrans hm (by decide)) _ _ _ ?_
    | with_reducible refine State.set_keeps (landTrans hm (by decide)) _ _ _ _ _ ?_

theorem nvmSectApply_keeps {m : Nat} {s0 : State} (hm : m.land 53383227567116 = 53383227567116) (s : State) (t : ℕ) (b : Bytes) (h_s : Keeps m s0 s) :
    Keeps m s0 (nvmSectApply s t b) := by
  unfold nvmSectApply
  repeat' first
    | with_reducible assumption
    | intro _
    | (extract_lets -underBinder +onlyGivenNames x; clear_value x)
    | with_reducible refine nvmDone_keeps (landTrans hm (by decide)) _ ?_
    | with_reducible refine forEach_keeps (landTrans hm (by decide)) _ _ _ ?_ ?_
    | with_reducible refine mbxRelease_keeps (landTrans hm (by decide)) _ _ ?_
    | with_reducible refine homeWrite_keeps (landTrans hm (by decide)) _ _ _ _ ?_
    | with_reducible refine queueActs_keeps (landTrans hm (by decide)) _ _ _ ?_
    | with_reducible refine ite_keeps ?_ ?_
    | fail_if_no_progress (with_reducible refine upd_cpFw (landTrans hm (by decide)) _ ?_)
    | fail_if_no_progress (with_reducible refine upd_vig (landTrans hm (by decide)) _ ?_)
    | with_reducible refine Keeps2.of (loadDirect_keeps (landTrans hm (by decide)) _ _ ?_)

theorem nvmApplyOf_keeps {m : Nat} {s0 : State} (hm : m.land 53383227567116 = 53383227567116) (s : State) (e : Option (ℕ × SectEnt)) (h_s : Keeps m s0 s) :
    Keeps m s0 (nvmApplyOf s e) := by
  unfold nvmApplyOf
  repeat' first
    | with_reducible assumption
    | with_reducible refine nvmDone_keeps (landTrans hm (by decide)) _ ?_
    | with_reducible refine nvmSectApply_keeps (landTrans hm (by decide)) _ _ _ ?_
    | split

theorem nvmApply_keeps {m : Nat} {s0 : State} (hm : m.land 53383227567116 = 53383227567116) (s : State) (h_s : Keeps m s0 s) :
    Keeps m s0 (nvmApply s) := by
  unfold nvmApply
  repeat' first
    | with_reducible assumption
    | with_reducible refine nvmApplyOf_keeps (landTrans hm (by decide)) _ _ ?_

theorem execNvmApply_keeps {m : Nat} {s0 : State} (hm : m.land 62179320589324 = 62179320589324) (rq : Requester) (s : State) (h_s : Keeps m s0 s) :
    KeepsX m s0 (execNvmApply rq s) := by
  unfold execNvmApply
  repeat' first
    | with_reducible assumption
    | intro _
    | with_reducible refine mbxCommand_keeps (landTrans hm (by decide)) _ _ _ _ _ ?_ ?_
    | with_reducible refine nvmApply_keeps (landTrans hm (by decide)) _ ?_
    | with_reducible refine next_keeps ?_

end Sys2Proof.Machine
end

