-- ==== Sys2Proof/Laws/KeepsParity.lean ====
section
/-! SUPPORT. What each operation of Parity.lean keeps: the canonical form, and the parts of the state that it does not name. -/

namespace Sys2Proof.Machine

theorem tenantSure_keeps {m : Nat} {s0 : State} (hm : m.land 73732 = 73732) (s : State) (o : ℕ) (h_s : Keeps m s0 s) :
    Keeps m s0 (tenantSure s o) := by
  unfold tenantSure
  repeat' first
    | with_reducible assumption
    | with_reducible refine thaw_keeps (landTrans hm (by decide)) _ _ ?_
    | with_reducible refine ite_keeps ?_ ?_
    | split

theorem beadFault_keeps {m : Nat} {s0 : State} (hm : m.land 48343548932 = 48343548932) (s : State) (i : ℕ) (h_s : Keeps m s0 s) :
    Keeps m s0 (beadFault s i) := by
  unfold beadFault
  repeat' first
    | with_reducible assumption
    | (extract_lets -underBinder +onlyGivenNames x; first
      | (guard_hyp x : State := _; refine (fun (hx : Keeps m s0 x) => ?_) ?_ <;> [clear_value x; subst x])
      | clear_value x)
    | with_reducible refine beadPoison_keeps (landTrans hm (by decide)) _ _ ?_
    | with_reducible refine cellFault_keeps (landTrans hm (by decide)) _ _ _ ?_
    | with_reducible refine fskFault_keeps (landTrans hm (by decide)) _ _ _ ?_
    | with_reducible refine faultFn_keeps (landTrans hm (by decide)) _ _ _ ?_
    | with_reducible refine filFault_keeps (landTrans hm (by decide)) _ _ ?_
    | split

theorem beadSelect_keeps {m : Nat} {s0 : State} (hm : m.land 48616178700 = 48616178700) (s : State) (v : Word) (h_s : Keeps m s0 s) :
    Keeps m s0 (beadSelect s v) := by
  unfold beadSelect
  repeat' first
    | with_reducible assumption
    | intro _
    | (extract_lets -underBinder +onlyGivenNames x; first
      | (guard_hyp x : State := _; refine (fun (hx : Keeps m s0 x) => ?_) ?_ <;> [clear_value x; subst x])
      | clear_value x)
    | with_reducible refine beadRead_keeps (landTrans hm (by decide)) _ _ ?_
    | with_reducible refine rewritten_keeps (landTrans hm (by decide)) _ _ ?_
    | with_reducible refine State.set_keeps (landTrans hm (by decide)) _ _ _ _ _ ?_
    | with_reducible refine beadFault_keeps (landTrans hm (by decide)) _ _ ?_
    | with_reducible refine forEach_keeps (landTrans hm (by decide)) _ _ _ ?_ ?_
    | with_reducible refine ite_keeps ?_ ?_

theorem arrParity_keeps {m : Nat} {s0 : State} (hm : m.land 60131732484 = 60131732484) (s : State) (n : ℕ) (h_s : Keeps m s0 s) :
    Keeps m s0 (arrParity s n) := by
  unfold arrParity
  repeat' first
    | with_reducible assumption
    | intro _
    | (extract_lets -underBinder +onlyGivenNames x; guard_hyp x : State := _; refine (fun (hx : Keeps m s0 x) => ?_) ?_ <;> [clear_value x; subst x])
    | with_reducible refine arrFaulted_keeps (landTrans hm (by decide)) _ _ _ ?_
    | with_reducible refine forEach_keeps (landTrans hm (by decide)) _ _ _ ?_ ?_
    | with_reducible refine accumHeld_keeps (landTrans hm (by decide)) _ _ ?_
    | with_reducible refine cmdFault_keeps (landTrans hm (by decide)) _ _ _ _ _ _ _ ?_
    | with_reducible refine ite_keeps ?_ ?_

theorem behavesReset_keeps {m : Nat} {s0 : State} (hm : m.land 8 = 8) (s : State) (o : ℕ) (h_s : Keeps m s0 s) :
    Keeps m s0 (behavesReset s o) := by
  unfold behavesReset
  repeat' first
    | with_reducible assumption
    | fail_if_no_progress (with_reducible refine upd_behaveReset (landTrans hm (by decide)) _ ?_)

theorem execBeadSelWrite_keeps {m : Nat} {s0 : State} (hm : m.land 48616178700 = 48616178700) (v : Word) (s : State) (h_s : Keeps m s0 s) :
    KeepsX m s0 (execBeadSelWrite v s) :=
  next_keeps (beadSelect_keeps hm _ _ h_s)

theorem parityFault_keeps {m : Nat} {s0 : State} (hm : m.land 65732570734 = 65732570734) (s : State) (st : ℕ) (h_s : Keeps m s0 s) :
    Keeps m s0 (parityFault s st) := by
  unfold parityFault
  repeat' first
    | with_reducible assumption
    | (extract_lets -underBinder +onlyGivenNames x; clear_value x)
    | with_reducible refine almFault_keeps (landTrans hm (by decide)) _ _ ?_
    | with_reducible refine calFault_keeps (landTrans hm (by decide)) _ _ ?_
    | with_reducible refine filFault_keeps (landTrans hm (by decide)) _ _ ?_
    | with_reducible refine arrParity_keeps (landTrans hm (by decide)) _ _ ?_
    | with_reducible refine setFnCode_keeps (landTrans hm (by decide)) _ _ _ ?_
    | with_reducible refine fhDown_keeps (landTrans hm (by decide)) _ _ _ ?_
    | with_reducible refine cellFault_keeps (landTrans hm (by decide)) _ _ _ ?_
    | with_reducible refine fskFault_keeps (landTrans hm (by decide)) _ _ _ ?_
    | with_reducible refine portDown_keeps (landTrans hm (by decide)) _ _ _ ?_
    | with_reducible refine functionReset_keeps (landTrans hm (by decide)) _ _ ?_
    | with_reducible refine faultFn_keeps (landTrans hm (by decide)) _ _ _ ?_
    | with_reducible refine ite_keeps ?_ ?_
    | split

theorem memDoubt_keeps {m : Nat} {s0 : State} (hm : m.land 4 = 4) (s : State) (o : ℕ) (h_s : Keeps m s0 s) :
    Keeps m s0 (memDoubt s o) := by
  unfold memDoubt
  repeat' first
    | with_reducible assumption
    | (extract_lets -underBinder +onlyGivenNames x; guard_hyp x : State := _; refine (fun (hx : Keeps m s0 x) => ?_) ?_ <;> [clear_value x; subst x])
    | with_reducible refine State.set_keeps (landTrans hm (by decide)) _ _ _ _ _ ?_
    | split

theorem tenantDoubt_keeps {m : Nat} {s0 : State} (hm : m.land 17179944964 = 17179944964) (s : State) (t : ℕ) (h_s : Keeps m s0 s) :
    Keeps m s0 (tenantDoubt s t) := by
  unfold tenantDoubt
  repeat' first
    | with_reducible assumption
    | (extract_lets -underBinder +onlyGivenNames x; first
      | (guard_hyp x : State := _; refine (fun (hx : Keeps m s0 x) => ?_) ?_ <;> [clear_value x; subst x])
      | clear_value x)
    | with_reducible refine State.set_keeps (landTrans hm (by decide)) _ _ _ _ _ ?_
    | with_reducible refine freezeSettle_keeps (landTrans hm (by decide)) _ _ ?_
    | with_reducible refine setFn_keeps (landTrans hm (by decide)) _ _ _ ?_
    | with_reducible refine ite_keeps ?_ ?_

theorem unownedDoubt_keeps {m : Nat} {s0 : State} (hm : m.land 17179945164 = 17179945164) (s : State) (o : ℕ) (h_s : Keeps m s0 s) :
    Keeps m s0 (unownedDoubt s o) := by
  unfold unownedDoubt
  repeat' first
    | with_reducible assumption
    | with_reducible refine memDoubt_keeps (landTrans hm (by decide)) _ _ ?_
    | with_reducible refine State.set_keeps (landTrans hm (by decide)) _ _ _ _ _ ?_
    | with_reducible refine tenantDoubt_keeps (landTrans hm (by decide)) _ _ ?_
    | with_reducible refine almDoubt_keeps (landTrans hm (by decide)) _ _ ?_
    | with_reducible refine behavesReset_keeps (landTrans hm (by decide)) _ _ ?_
    | with_reducible refine ite_keeps ?_ ?_
    | split

theorem parityEvent_keeps {m : Nat} {s0 : State} (hm : m.land 65732570862 = 65732570862) (s : State) (o : ℕ) (h_s : Keeps m s0 s) :
    Keeps m s0 (parityEvent s o) := by
  unfold parityEvent
  repeat' first
    | with_reducible assumption
    | (extract_lets -underBinder +onlyGivenNames x; guard_hyp x : State := _; refine (fun (hx : Keeps m s0 x) => ?_) ?_ <;> [clear_value x; subst x])
    | with_reducible refine State.set_keeps (landTrans hm (by decide)) _ _ _ _ _ ?_
    | with_reducible refine State.bumpSat_keeps (landTrans hm (by decide)) _ _ _ _ _ ?_
    | with_reducible refine parityFault_keeps (landTrans hm (by decide)) _ _ ?_
    | with_reducible refine unownedDoubt_keeps (landTrans hm (by decide)) _ _ ?_
    | with_reducible refine ite_keeps ?_ ?_
    | split
    | fail_if_no_progress (with_reducible refine upd_upset (landTrans hm (by decide)) _ ?_)

theorem scrubPass_keeps {m : Nat} {s0 : State} (hm : m.land 2264755826414 = 2264755826414) (s : State) (l : List ℕ) (h_s : Keeps m s0 s) :
    Keeps m s0 (scrubPass s l) := by
  unfold scrubPass
  repeat' first
    | with_reducible assumption
    | intro _
    | with_reducible refine forEach_keeps (landTrans hm (by decide)) _ _ _ ?_ ?_
    | with_reducible refine parityEvent_keeps (landTrans hm (by decide)) _ _ ?_
    | with_reducible refine ite_keeps ?_ ?_
    | fail_if_no_progress (with_reducible refine upd_scrubMs (landTrans hm (by decide)) _ ?_)

theorem execParityScrubPass_keeps {m : Nat} {s0 : State} (hm : m.land 2264755826414 = 2264755826414) (upsets : List Upset) (s : State) (h_s : Keeps m s0 s) :
    KeepsX m s0 (execParityScrubPass upsets s) :=
  next_keeps (scrubPass_keeps hm _ _ h_s)

end Sys2Proof.Machine
end

