-- ==== Sys2Proof/Laws/KeepsRegView.lean ====
section
/-! SUPPORT. What each operation of RegView.lean keeps: the canonical form, and the parts of the state that it does not name. -/

namespace Sys2Proof.Machine

theorem badAccess_keeps {m : Nat} {s0 : State} (hm : m.land 4 = 4) (s : State) (o : ℕ) (h_s : Keeps m s0 s) :
    Keeps m s0 (badAccess s o) := by
  unfold badAccess
  repeat' first
    | with_reducible assumption
    | with_reducible refine State.set_keeps (landTrans hm (by decide)) _ _ _ _ _ ?_
    | with_reducible refine State.bumpSat_keeps (landTrans hm (by decide)) _ _ _ _ _ ?_

theorem answered_keeps {m : Nat} {s0 : State} (hm : m.land 16 = 16) (r : State × ℕ) (h_r : Keeps1 m s0 r) :
    Keeps m s0 (answered r) := by
  unfold answered
  repeat' first
    | with_reducible assumption
    | (extract_lets -underBinder +onlyGivenNames x; guard_hyp x : State := _; refine (fun (hx : Keeps m s0 x) => ?_) ?_ <;> [clear_value x; subst x])
    | with_reducible exact Keeps1.of ‹_›
    | fail_if_no_progress (with_reducible refine upd_rdata (landTrans hm (by decide)) _ ?_)

theorem wordRead_keeps {m : Nat} {s0 : State} (hm : m.land 4398046511382 = 4398046511382) (s : State) (o : ℕ) (h_s : Keeps m s0 s) :
    Keeps1 m s0 (wordRead s o) := by
  unfold wordRead
  repeat' first
    | with_reducible assumption
    | (extract_lets -underBinder +onlyGivenNames x; first
      | (guard_hyp x : State := _; refine (fun (hx : Keeps m s0 x) => ?_) ?_ <;> [clear_value x; subst x])
      | clear_value x)
    | with_reducible refine readNsLo_keeps (landTrans hm (by decide)) _ ?_
    | with_reducible refine captureRead_keeps (landTrans hm (by decide)) _ _ ?_
    | with_reducible refine ite_keeps1 ?_ ?_
    | split
    | with_reducible refine pair1 ?_
    | fail_if_no_progress (with_reducible refine upd_latches (landTrans hm (by decide)) _ ?_)
    | with_reducible refine Keeps2.of (takeFree_keeps (landTrans hm (by decide)) _ ?_)

theorem narrowRead_keeps {m : Nat} {s0 : State} (hm : m.land 4398046511382 = 4398046511382) (s : State) (o : ℕ) (size : ℕ) (h_s : Keeps m s0 s) :
    Keeps1 m s0 (narrowRead s o size) := by
  unfold narrowRead
  repeat' first
    | with_reducible assumption
    | (extract_lets -underBinder +onlyGivenNames x; guard_hyp x : State × Word := _; refine (fun (hx : Keeps1 m s0 x) => ?_) ?_ <;> [clear_value x; subst x])
    | with_reducible refine wordRead_keeps (landTrans hm (by decide)) _ _ ?_
    | with_reducible refine badAccess_keeps (landTrans hm (by decide)) _ _ ?_
    | with_reducible refine ite_keeps1 ?_ ?_
    | with_reducible exact Keeps1.of ‹_›
    | with_reducible refine pair1 ?_

theorem busRead_keeps {m : Nat} {s0 : State} (hm : m.land 4398046511382 = 4398046511382) (s : State) (o : ℕ) (size : ℕ) (h_s : Keeps m s0 s) :
    Keeps1 m s0 (busRead s o size) := by
  unfold busRead
  repeat' first
    | with_reducible assumption
    | (extract_lets -underBinder +onlyGivenNames x; guard_hyp x : State × ℕ := _; refine (fun (hx : Keeps1 m s0 x) => ?_) ?_ <;> [clear_value x; subst x])
    | with_reducible refine narrowRead_keeps (landTrans hm (by decide)) _ _ _ ?_
    | with_reducible refine ite_keeps1 ?_ ?_
    | with_reducible exact Keeps1.of ‹_›
    | with_reducible refine pair1 ?_

theorem readBy_keeps {m : Nat} {s0 : State} (hm : m.land 4398046511382 = 4398046511382) (s : State) (rq : Requester) (o : ℕ) (size : ℕ) (h_s : Keeps m s0 s) :
    Keeps m s0 (readBy s rq o size) := by
  unfold readBy
  repeat' first
    | with_reducible assumption
    | with_reducible refine answered_keeps (landTrans hm (by decide)) _ ?_
    | with_reducible refine badAccess_keeps (landTrans hm (by decide)) _ _ ?_
    | with_reducible refine busRead_keeps (landTrans hm (by decide)) _ _ _ ?_
    | with_reducible refine ite_keeps ?_ ?_
    | with_reducible refine pair1 ?_

theorem execRegisterRead_keeps {m : Nat} {s0 : State} (hm : m.land 4398046511382 = 4398046511382) (rq : Requester) (off : ℕ) (size : ℕ) (s : State) (h_s : Keeps m s0 s) :
    KeepsX m s0 (execRegisterRead rq off size s) :=
  next_keeps (readBy_keeps hm _ _ _ _ h_s)

theorem execSmbusRegisterRead_keeps {m : Nat} {s0 : State} (hm : m.land 4398046511382 = 4398046511382) (off : ℕ) (pecOk : Bool) (s : State) (h_s : Keeps m s0 s) :
    KeepsX m s0 (execSmbusRegisterRead off pecOk s) := by
  unfold execSmbusRegisterRead
  repeat' first
    | with_reducible assumption
    | with_reducible refine readBy_keeps (landTrans hm (by decide)) _ _ _ _ ?_
    | with_reducible refine ite_keeps ?_ ?_
    | with_reducible refine next_keeps ?_

end Sys2Proof.Machine
end

