-- ==== Sys2Proof/Laws/KeepsRegBus.lean ====
section
/-! SUPPORT. What each operation of RegBus.lean keeps: the canonical form, and the parts of the state that it does not name. -/

namespace Sys2Proof.Machine

theorem Out.state_keeps {m : Nat} {s0 : State} (hm : m.land 0 = 0) (o : Out) (s : State) (h_o : KeepsX m s0 o) (h_s : Keeps m s0 s) :
    Keeps m s0 (Out.state o s) := by
  unfold Out.state
  repeat' first
    | with_reducible assumption
    | with_reducible exact KeepsX.of ‹_› _ rfl
    | split

theorem afterWrite_keeps {m : Nat} {s0 : State} (hm : m.land 48412821094 = 48412821094) (s : State) (w : RegWr) (h_s : Keeps m s0 s) :
    Keeps m s0 (afterWrite s w) := by
  unfold afterWrite
  repeat' first
    | with_reducible assumption
    | (extract_lets -underBinder +onlyGivenNames x; clear_value x)
    | with_reducible refine settleStop_keeps (landTrans hm (by decide)) _ _ ?_
    | with_reducible refine drainRings_keeps (landTrans hm (by decide)) _ _ ?_
    | with_reducible refine fwFetch_keeps (landTrans hm (by decide)) _ _ _ ?_
    | with_reducible refine noteGovWrite_keeps (landTrans hm (by decide)) _ ?_
    | with_reducible refine chooseUpstream_keeps (landTrans hm (by decide)) _ ?_
    | with_reducible refine reroute_keeps (landTrans hm (by decide)) _ ?_
    | with_reducible refine State.set_keeps (landTrans hm (by decide)) _ _ _ _ _ ?_
    | with_reducible refine ite_keeps ?_ ?_

theorem ownIgnored_keeps {m : Nat} {s0 : State} (hm : m.land 4 = 4) (s : State) (w : RegWr) (h_s : Keeps m s0 s) :
    KeepsO m s0 (ownIgnored s w) := by
  unfold ownIgnored
  repeat' first
    | with_reducible assumption
    | (extract_lets -underBinder +onlyGivenNames x; clear_value x)
    | with_reducible refine State.set_keeps (landTrans hm (by decide)) _ _ _ _ _ ?_
    | with_reducible refine ite_keepsO ?_ ?_
    | with_reducible refine some_keeps ?_
    | with_reducible exact none_keeps

theorem startStop_keeps {m : Nat} {s0 : State} (hm : m.land 0 = 0) (s : State) (w : RegWr) (start : State → State) (stop : State → State) (h_s : Keeps m s0 s) (h_start : ∀ x0, Keeps m s0 x0 → Keeps m s0 (start x0)) (h_stop : ∀ x0, Keeps m s0 x0 → Keeps m s0 (stop x0)) :
    KeepsO m s0 (startStop s w start stop) := by
  unfold startStop
  repeat' first
    | with_reducible assumption
    | with_reducible refine h_start _ ?_
    | with_reducible refine h_stop _ ?_
    | with_reducible refine ite_keeps ?_ ?_
    | with_reducible refine some_keeps ?_

theorem mbxWrite_keeps {m : Nat} {s0 : State} (hm : m.land 62188405910638 = 62188405910638) (s : State) (rq : Requester) (op : ℕ) (h_s : Keeps m s0 s) :
    Keeps m s0 (mbxWrite s rq op) := by
  unfold mbxWrite
  repeat' first
    | with_reducible assumption
    | intro _
    | with_reducible refine Out.state_keeps (landTrans hm (by decide)) _ _ ?_ ?_
    | with_reducible refine execImageReload_keeps (landTrans hm (by decide)) _ _ ?_
    | with_reducible refine execStackRetire_keeps (landTrans hm (by decide)) _ _ ?_
    | with_reducible refine execCoreRetire_keeps (landTrans hm (by decide)) _ _ ?_
    | with_reducible refine execCoreReturn_keeps (landTrans hm (by decide)) _ _ ?_
    | with_reducible refine execPortRetire_keeps (landTrans hm (by decide)) _ _ ?_
    | with_reducible refine execPortReturn_keeps (landTrans hm (by decide)) _ _ ?_
    | with_reducible refine execMaintRun_keeps (landTrans hm (by decide)) _ _ ?_
    | with_reducible refine execTenantCreate_keeps (landTrans hm (by decide)) _ _ ?_
    | with_reducible refine execTenantRemove_keeps (landTrans hm (by decide)) _ _ ?_
    | with_reducible refine execKeySet_keeps (landTrans hm (by decide)) _ _ ?_
    | with_reducible refine execTenantFreeze_keeps (landTrans hm (by decide)) _ _ ?_
    | with_reducible refine execTenantThaw_keeps (landTrans hm (by decide)) _ _ ?_
    | with_reducible refine execTenantSave_keeps (landTrans hm (by decide)) _ _ ?_
    | with_reducible refine execTenantRestore_keeps (landTrans hm (by decide)) _ _ ?_
    | with_reducible refine execBeadMove_keeps (landTrans hm (by decide)) _ _ ?_
    | with_reducible refine execBulkCopy_keeps (landTrans hm (by decide)) _ _ ?_
    | with_reducible refine execNvmApply_keeps (landTrans hm (by decide)) _ _ ?_
    | with_reducible refine mbxCommand_keeps (landTrans hm (by decide)) _ _ _ _ _ ?_ ?_
    | with_reducible refine next_keeps ?_
    | split

theorem ctrlWrite_keeps {m : Nat} {s0 : State} (hm : m.land 63425929018990 = 63425929018990) (s : State) (w : RegWr) (h_s : Keeps m s0 s) :
    KeepsO m s0 (ctrlWrite s w) := by
  unfold ctrlWrite
  repeat' first
    | with_reducible assumption
    | intro _
    | (extract_lets -underBinder +onlyGivenNames x; clear_value x)
    | with_reducible refine startStop_keeps (landTrans hm (by decide)) _ _ _ _ ?_ ?_ ?_
    | with_reducible refine mgeStart_keeps (landTrans hm (by decide)) _ ?_
    | with_reducible refine mgeStop_keeps (landTrans hm (by decide)) _ ?_
    | with_reducible refine mbxWrite_keeps (landTrans hm (by decide)) _ _ _ ?_
    | with_reducible refine almStart_keeps (landTrans hm (by decide)) _ ?_
    | with_reducible refine almStop_keeps (landTrans hm (by decide)) _ ?_
    | with_reducible refine calStart_keeps (landTrans hm (by decide)) _ ?_
    | with_reducible refine calStop_keeps (landTrans hm (by decide)) _ ?_
    | with_reducible refine calArm_keeps (landTrans hm (by decide)) _ _ ?_
    | with_reducible refine calDisarm_keeps (landTrans hm (by decide)) _ ?_
    | with_reducible refine powerReq_keeps (landTrans hm (by decide)) _ _ _ _ ?_
    | with_reducible refine hostStart_keeps (landTrans hm (by decide)) _ ?_
    | with_reducible refine hostStop_keeps (landTrans hm (by decide)) _ ?_
    | with_reducible refine winCommit_keeps (landTrans hm (by decide)) _ ?_
    | with_reducible refine winRead_keeps (landTrans hm (by decide)) _ ?_
    | with_reducible refine fnStart_keeps (landTrans hm (by decide)) _ _ ?_
    | with_reducible refine fnStop_keeps (landTrans hm (by decide)) _ _ ?_
    | with_reducible refine fhStart_keeps (landTrans hm (by decide)) _ _ ?_
    | with_reducible refine fhStop_keeps (landTrans hm (by decide)) _ _ ?_
    | with_reducible refine codecStart_keeps (landTrans hm (by decide)) _ _ ?_
    | with_reducible refine codecStop_keeps (landTrans hm (by decide)) _ _ ?_
    | with_reducible refine takeover_keeps (landTrans hm (by decide)) _ _ _ ?_
    | with_reducible refine cellStart_keeps (landTrans hm (by decide)) _ _ ?_
    | with_reducible refine cellStop_keeps (landTrans hm (by decide)) _ _ ?_
    | with_reducible refine fskStart_keeps (landTrans hm (by decide)) _ _ ?_
    | with_reducible refine fskStop_keeps (landTrans hm (by decide)) _ _ ?_
    | with_reducible refine filStart_keeps (landTrans hm (by decide)) _ ?_
    | with_reducible refine filStop_keeps (landTrans hm (by decide)) _ ?_
    | with_reducible refine portStart_keeps (landTrans hm (by decide)) _ _ ?_
    | with_reducible refine portStop_keeps (landTrans hm (by decide)) _ _ ?_
    | with_reducible refine memchStart_keeps (landTrans hm (by decide)) _ _ ?_
    | with_reducible refine scrubRestart_keeps (landTrans hm (by decide)) _ _ ?_
    | with_reducible refine arrTest_keeps (landTrans hm (by decide)) _ _ ?_
    | with_reducible refine arrStart_keeps (landTrans hm (by decide)) _ _ ?_
    | with_reducible refine arrStop_keeps (landTrans hm (by decide)) _ _ ?_
    | with_reducible refine sjStart_keeps (landTrans hm (by decide)) _ _ ?_
    | with_reducible refine sjStop_keeps (landTrans hm (by decide)) _ _ ?_
    | with_reducible refine jrnlStart_keeps (landTrans hm (by decide)) _ ?_
    | with_reducible refine jrnlStop_keeps (landTrans hm (by decide)) _ ?_
    | with_reducible refine ite_keeps ?_ ?_
    | with_reducible refine ite_keepsO ?_ ?_
    | with_reducible refine some_keeps ?_
    | with_reducible exact none_keeps

theorem ownWrite_keeps {m : Nat} {s0 : State} (hm : m.land 48616386284 = 48616386284) (s : State) (w : RegWr) (h_s : Keeps m s0 s) :
    KeepsO m s0 (ownWrite s w) := by
  unfold ownWrite
  repeat' first
    | with_reducible assumption
    | (extract_lets -underBinder +onlyGivenNames x; clear_value x)
    | with_reducible refine mdioWrite_keeps (landTrans hm (by decide)) _ _ _ ?_
    | with_reducible refine mbxTake_keeps (landTrans hm (by decide)) _ _ ?_
    | with_reducible refine mbxRelease_keeps (landTrans hm (by decide)) _ _ ?_
    | with_reducible refine writeIncrLo_keeps (landTrans hm (by decide)) _ _ ?_
    | with_reducible refine writeIncrHi_keeps (landTrans hm (by decide)) _ _ ?_
    | with_reducible refine writeSetHi_keeps (landTrans hm (by decide)) _ _ ?_
    | with_reducible refine writeStep_keeps (landTrans hm (by decide)) _ _ ?_
    | with_reducible refine writeSynce_keeps (landTrans hm (by decide)) _ _ ?_
    | with_reducible refine writePulseCtrl_keeps (landTrans hm (by decide)) _ _ _ ?_
    | with_reducible refine writePulseStart_keeps (landTrans hm (by decide)) _ _ _ ?_
    | with_reducible refine bankWrite_keeps (landTrans hm (by decide)) _ _ _ ?_
    | with_reducible refine deferWrite_keeps (landTrans hm (by decide)) _ _ _ ?_
    | with_reducible refine rewritten_keeps (landTrans hm (by decide)) _ _ ?_
    | with_reducible refine tenantSure_keeps (landTrans hm (by decide)) _ _ ?_
    | with_reducible refine writeArbReq_keeps (landTrans hm (by decide)) _ _ _ ?_
    | with_reducible refine clearFlags_keeps (landTrans hm (by decide)) _ _ _ _ ?_
    | with_reducible refine setCore_keeps (landTrans hm (by decide)) _ _ _ ?_
    | with_reducible refine reserveWrite_keeps (landTrans hm (by decide)) _ _ ?_
    | with_reducible refine beadSelect_keeps (landTrans hm (by decide)) _ _ ?_
    | with_reducible refine ite_keeps ?_ ?_
    | with_reducible refine ite_keepsO ?_ ?_
    | with_reducible refine some_keeps ?_
    | with_reducible exact none_keeps
    | fail_if_no_progress (with_reducible refine upd_clk (landTrans hm (by decide)) _ ?_)

theorem rwlRefused_keeps {m : Nat} {s0 : State} (hm : m.land 4 = 4) (s : State) (o : ℕ) (h_s : Keeps m s0 s) :
    Keeps m s0 (rwlRefused s o) := by
  unfold rwlRefused
  repeat' first
    | with_reducible assumption
    | with_reducible refine rejectCfg_keeps (landTrans hm (by decide)) _ _ ?_
    | split

theorem plainWrite_keeps {m : Nat} {s0 : State} (hm : m.land 4194316 = 4194316) (s : State) (w : RegWr) (h_s : Keeps m s0 s) :
    Keeps m s0 (plainWrite s w) := by
  unfold plainWrite
  repeat' first
    | with_reducible assumption
    | (extract_lets -underBinder +onlyGivenNames x; first
      | (guard_hyp x : State := _; refine (fun (hx : Keeps m s0 x) => ?_) ?_ <;> [clear_value x; subst x])
      | clear_value x)
    | with_reducible refine rwlRefused_keeps (landTrans hm (by decide)) _ _ ?_
    | with_reducible refine wrReg_keeps (landTrans hm (by decide)) _ _ _ ?_
    | with_reducible refine rewritten_keeps (landTrans hm (by decide)) _ _ ?_
    | with_reducible refine ite_keeps ?_ ?_

theorem regWrite_keeps {m : Nat} {s0 : State} (hm : m.land 63425929019118 = 63425929019118) (s : State) (rq : Requester) (o : ℕ) (v : Word) (mask : Word) (h_s : Keeps m s0 s) :
    Keeps m s0 (regWrite s rq o v mask) := by
  unfold regWrite
  repeat' first
    | with_reducible assumption
    | (extract_lets -underBinder +onlyGivenNames x; first
      | (guard_hyp x : State := _; refine (fun (hx : Keeps m s0 x) => ?_) ?_ <;> [clear_value x; subst x])
      | clear_value x)
    | with_reducible refine badAccess_keeps (landTrans hm (by decide)) _ _ ?_
    | with_reducible refine ownIgnored_keeps (landTrans hm (by decide)) _ _ ?_
    | with_reducible refine ctrlWrite_keeps (landTrans hm (by decide)) _ _ ?_
    | with_reducible refine ownWrite_keeps (landTrans hm (by decide)) _ _ ?_
    | with_reducible refine afterWrite_keeps (landTrans hm (by decide)) _ _ ?_
    | with_reducible refine plainWrite_keeps (landTrans hm (by decide)) _ _ ?_
    | with_reducible refine dbgHalt_keeps (landTrans hm (by decide)) _ _ ?_
    | with_reducible refine dbgResume_keeps (landTrans hm (by decide)) _ _ ?_
    | with_reducible refine dbgStep_keeps (landTrans hm (by decide)) _ _ ?_
    | with_reducible refine ite_keeps ?_ ?_
    | with_reducible refine ofSome ‹_ = some _› ?_
    | split

theorem bitWrite_keeps {m : Nat} {s0 : State} (hm : m.land 63425929019118 = 63425929019118) (s : State) (rq : Requester) (o : ℕ) (b : ℕ) (one : Bool) (h_s : Keeps m s0 s) :
    Keeps m s0 (bitWrite s rq o b one) := by
  unfold bitWrite
  repeat' first
    | with_reducible assumption
    | (extract_lets -underBinder +onlyGivenNames x; first
      | (guard_hyp x : State := _; refine (fun (hx : Keeps m s0 x) => ?_) ?_ <;> [clear_value x; subst x])
      | clear_value x)
    | with_reducible refine regWrite_keeps (landTrans hm (by decide)) _ _ _ _ _ ?_
    | split
    | fail_if_no_progress (with_reducible refine upd_behaveReset_upset (landTrans hm (by decide)) _ _ ?_)

theorem aliasWrite_keeps {m : Nat} {s0 : State} (hm : m.land 63425929019118 = 63425929019118) (s : State) (rq : Requester) (o : ℕ) (v : Word) (h_s : Keeps m s0 s) :
    Keeps m s0 (aliasWrite s rq o v) := by
  unfold aliasWrite
  repeat' first
    | with_reducible assumption
    | (extract_lets -underBinder +onlyGivenNames x; clear_value x)
    | with_reducible refine bitWrite_keeps (landTrans hm (by decide)) _ _ _ _ _ ?_
    | with_reducible refine ite_keeps ?_ ?_

theorem wordWrite_keeps {m : Nat} {s0 : State} (hm : m.land 63425929019118 = 63425929019118) (s : State) (rq : Requester) (o : ℕ) (v : Word) (h_s : Keeps m s0 s) :
    Keeps m s0 (wordWrite s rq o v) := by
  unfold wordWrite
  repeat' first
    | with_reducible assumption
    | with_reducible refine badAccess_keeps (landTrans hm (by decide)) _ _ ?_
    | with_reducible refine aliasWrite_keeps (landTrans hm (by decide)) _ _ _ _ ?_
    | with_reducible refine regWrite_keeps (landTrans hm (by decide)) _ _ _ _ _ ?_
    | with_reducible refine ite_keeps ?_ ?_

theorem busWrite_keeps {m : Nat} {s0 : State} (hm : m.land 63425929019118 = 63425929019118) (s : State) (rq : Requester) (o : ℕ) (size : ℕ) (v : BitVec 64) (h_s : Keeps m s0 s) :
    Keeps m s0 (busWrite s rq o size v) := by
  unfold busWrite
  repeat' first
    | with_reducible assumption
    | with_reducible refine wordWrite_keeps (landTrans hm (by decide)) _ _ _ _ ?_
    | with_reducible refine badAccess_keeps (landTrans hm (by decide)) _ _ ?_
    | with_reducible refine ite_keeps ?_ ?_

theorem writeBy_keeps {m : Nat} {s0 : State} (hm : m.land 63425929019118 = 63425929019118) (s : State) (rq : Requester) (o : ℕ) (size : ℕ) (v : BitVec 64) (h_s : Keeps m s0 s) :
    Keeps m s0 (writeBy s rq o size v) := by
  unfold writeBy
  repeat' first
    | with_reducible assumption
    | with_reducible refine badAccess_keeps (landTrans hm (by decide)) _ _ ?_
    | with_reducible refine busWrite_keeps (landTrans hm (by decide)) _ _ _ _ _ ?_
    | with_reducible refine ite_keeps ?_ ?_

theorem execBitAliasWrite_keeps {m : Nat} {s0 : State} (hm : m.land 63425929019118 = 63425929019118) (rq : Requester) (off : ℕ) (v : Word) (s : State) (h_s : Keeps m s0 s) :
    KeepsX m s0 (execBitAliasWrite rq off v s) := by
  unfold execBitAliasWrite
  repeat' first
    | with_reducible assumption
    | with_reducible refine writeBy_keeps (landTrans hm (by decide)) _ _ _ _ _ ?_
    | with_reducible refine ite_keeps ?_ ?_
    | with_reducible refine next_keeps ?_

theorem execRegisterWrite_keeps {m : Nat} {s0 : State} (hm : m.land 63425929019118 = 63425929019118) (rq : Requester) (off : ℕ) (size : ℕ) (v : BitVec 64) (s : State) (h_s : Keeps m s0 s) :
    KeepsX m s0 (execRegisterWrite rq off size v s) :=
  next_keeps (writeBy_keeps hm _ _ _ _ _ h_s)

theorem execSmbusRegisterWrite_keeps {m : Nat} {s0 : State} (hm : m.land 63425929019118 = 63425929019118) (off : ℕ) (v : Word) (pecOk : Bool) (s : State) (h_s : Keeps m s0 s) :
    KeepsX m s0 (execSmbusRegisterWrite off v pecOk s) := by
  unfold execSmbusRegisterWrite
  repeat' first
    | with_reducible assumption
    | with_reducible refine writeBy_keeps (landTrans hm (by decide)) _ _ _ _ _ ?_
    | with_reducible refine ite_keeps ?_ ?_
    | with_reducible refine next_keeps ?_

end Sys2Proof.Machine
end

