-- ==== Sys2Proof/Laws/KeepsVigil.lean ====
section
/-! SUPPORT. What each operation of Vigil.lean keeps: the canonical form, and the parts of the state that it does not name. -/

namespace Sys2Proof.Machine

theorem toStage_keeps {m : Nat} {s0 : State} (hm : m.land 549755813892 = 549755813892) (s : State) (k : ℕ) (h_s : Keeps m s0 s) :
    Keeps m s0 (toStage s k) := by
  unfold toStage
  repeat' first
    | with_reducible assumption
    | (extract_lets -underBinder +onlyGivenNames x; first
      | (guard_hyp x : State := _; refine (fun (hx : Keeps m s0 x) => ?_) ?_ <;> [clear_value x; subst x])
      | clear_value x)
    | with_reducible refine State.set_keeps (landTrans hm (by decide)) _ _ _ _ _ ?_
    | fail_if_no_progress (with_reducible refine upd_vig (landTrans hm (by decide)) _ ?_)

theorem stampStep_keeps {m : Nat} {s0 : State} (hm : m.land 549755813894 = 549755813894) (s : State) (k : ℕ) (h_s : Keeps m s0 s) :
    Keeps m s0 (stampStep s k) := by
  unfold stampStep
  repeat' first
    | with_reducible assumption
    | (extract_lets -underBinder +onlyGivenNames x; first
      | (guard_hyp x : State := _; refine (fun (hx : Keeps m s0 x) => ?_) ?_ <;> [clear_value x; subst x])
      | clear_value x)
    | with_reducible refine takeFree_keeps (landTrans hm (by decide)) _ ?_
    | with_reducible refine State.set_keeps (landTrans hm (by decide)) _ _ _ _ _ ?_
    | with_reducible refine ite_keeps ?_ ?_
    | split
    | with_reducible refine ofPair2 ‹_ = (_, _)› ?_
    | fail_if_no_progress (with_reducible refine upd_vig (landTrans hm (by decide)) _ ?_)

theorem endStep_keeps {m : Nat} {s0 : State} (hm : m.land 549755813894 = 549755813894) (s : State) (k : ℕ) (h_s : Keeps m s0 s) :
    Keeps m s0 (endStep s k) := by
  unfold endStep
  repeat' first
    | with_reducible assumption
    | with_reducible refine toStage_keeps (landTrans hm (by decide)) _ _ ?_
    | with_reducible refine stampStep_keeps (landTrans hm (by decide)) _ _ ?_

theorem vigHalt_keeps {m : Nat} {s0 : State} (hm : m.land 549755813892 = 549755813892) (s : State) (h_s : Keeps m s0 s) :
    Keeps m s0 (vigHalt s) := by
  unfold vigHalt
  repeat' first
    | with_reducible assumption
    | with_reducible refine State.set_keeps (landTrans hm (by decide)) _ _ _ _ _ ?_
    | with_reducible refine toStage_keeps (landTrans hm (by decide)) _ _ ?_

theorem alignStep_keeps {m : Nat} {s0 : State} (hm : m.land 549755813894 = 549755813894) (s : State) (ok : Bool) (h_s : Keeps m s0 s) :
    Keeps m s0 (alignStep s ok) := by
  unfold alignStep
  repeat' first
    | with_reducible assumption
    | with_reducible refine endStep_keeps (landTrans hm (by decide)) _ _ ?_
    | with_reducible refine State.bump_keeps (landTrans hm (by decide)) _ _ _ _ _ ?_
    | with_reducible refine vigHalt_keeps (landTrans hm (by decide)) _ ?_
    | with_reducible refine ite_keeps ?_ ?_

theorem almanacStep_keeps {m : Nat} {s0 : State} (hm : m.land 549755813926 = 549755813926) (s : State) (locked : Bool) (h_s : Keeps m s0 s) :
    Keeps m s0 (almanacStep s locked) := by
  unfold almanacStep
  repeat' first
    | with_reducible assumption
    | (extract_lets -underBinder +onlyGivenNames x; clear_value x)
    | with_reducible refine vigHalt_keeps (landTrans hm (by decide)) _ ?_
    | with_reducible refine endStep_keeps (landTrans hm (by decide)) _ _ ?_
    | with_reducible refine State.set_keeps (landTrans hm (by decide)) _ _ _ _ _ ?_
    | with_reducible refine ite_keeps ?_ ?_
    | fail_if_no_progress (with_reducible refine upd_clk (landTrans hm (by decide)) _ ?_)

theorem raiseEnable_keeps {m : Nat} {s0 : State} (hm : m.land 549755813888 = 549755813888) (s : State) (h_s : Keeps m s0 s) :
    Keeps m s0 (raiseEnable s) := by
  unfold raiseEnable
  repeat' first
    | with_reducible assumption
    | (extract_lets -underBinder +onlyGivenNames x; clear_value x)
    | with_reducible refine ite_keeps ?_ ?_
    | fail_if_no_progress (with_reducible refine upd_vig (landTrans hm (by decide)) _ ?_)

theorem wiped_keeps {m : Nat} {s0 : State} (hm : m.land 69817912524780 = 69817912524780) (s : State) (vigRegs : Bool) (h_s : Keeps m s0 s) :
    Keeps m s0 (wiped s vigRegs) := by
  unfold wiped
  refine forEach_keeps (landTrans hm (by decide)) _ _ _ (fun t q h => State.set_keeps (landTrans hm (by decide)) _ _ _ _ _ h) ?_
  refine fused_keeps (landTrans hm (by decide)) _ ?_
  refine keepsOf (s := s) hm (fun p hp => by cases p <;> first | rfl | exact absurd hp (by decide)) (fun w => ?_) h_s
  simp only [State.wf, Mems.wf, Bool.and_eq_true] at w ⊢
  refine ⟨?_, ?_⟩
  · split
    · exact mapFilter_wf resetWord _ w.1
    · rfl
  · simp only [w.2]
    decide

theorem stepOne_keeps {m : Nat} {s0 : State} (hm : m.land 70367668338668 = 70367668338668) (s : State) (second : Bool) (h_s : Keeps m s0 s) :
    Keeps m s0 (stepOne s second) := by
  unfold stepOne
  repeat' first
    | with_reducible assumption
    | (extract_lets -underBinder +onlyGivenNames x; guard_hyp x : State := _; refine (fun (hx : Keeps m s0 x) => ?_) ?_ <;> [clear_value x; subst x])
    | with_reducible refine raiseEnable_keeps (landTrans hm (by decide)) _ ?_
    | with_reducible refine toStage_keeps (landTrans hm (by decide)) _ _ ?_
    | with_reducible refine wiped_keeps (landTrans hm (by decide)) _ _ ?_
    | fail_if_no_progress (with_reducible refine upd_vig (landTrans hm (by decide)) _ ?_)

theorem aonRise_keeps {m : Nat} {s0 : State} (hm : m.land 70367668338668 = 70367668338668) (s : State) (h_s : Keeps m s0 s) :
    Keeps m s0 (aonRise s) := by
  unfold aonRise
  repeat' first
    | with_reducible assumption
    | (extract_lets -underBinder +onlyGivenNames x; first
      | (guard_hyp x : State := _; refine (fun (hx : Keeps m s0 x) => ?_) ?_ <;> [clear_value x; subst x])
      | clear_value x)
    | with_reducible refine stepOne_keeps (landTrans hm (by decide)) _ _ ?_
    | with_reducible refine ite_keeps ?_ ?_
    | fail_if_no_progress (with_reducible refine upd_vig (landTrans hm (by decide)) _ ?_)

theorem retireAtStart_keeps {m : Nat} {s0 : State} (hm : m.land 2052 = 2052) (s : State) (n : ℕ) (h_s : Keeps m s0 s) :
    Keeps m s0 (retireAtStart s n) := by
  unfold retireAtStart
  repeat' first
    | with_reducible assumption
    | with_reducible refine setRetired_keeps (landTrans hm (by decide)) _ _ ?_
    | with_reducible refine coreLeaves_keeps (landTrans hm (by decide)) _ _ ?_

theorem arrayAtStart_keeps {m : Nat} {s0 : State} (hm : m.land 2052 = 2052) (s : State) (n : ℕ) (r : ArrayResult) (h_s : Keeps m s0 s) :
    Keeps m s0 (arrayAtStart s n r) := by
  unfold arrayAtStart
  repeat' first
    | with_reducible assumption
    | (extract_lets -underBinder +onlyGivenNames x; guard_hyp x : State := _; refine (fun (hx : Keeps m s0 x) => ?_) ?_ <;> [clear_value x; subst x])
    | with_reducible refine arrStart_keeps (landTrans hm (by decide)) _ _ ?_
    | with_reducible refine selfTestOutcome_keeps (landTrans hm (by decide)) _ _ _ _ _ _ ?_
    | with_reducible refine retireAtStart_keeps (landTrans hm (by decide)) _ _ ?_
    | with_reducible refine setFnState_keeps (landTrans hm (by decide)) _ _ _ ?_
    | with_reducible refine State.set_keeps (landTrans hm (by decide)) _ _ _ _ _ ?_
    | with_reducible refine ite_keeps ?_ ?_
    | split

theorem arraysStep_keeps {m : Nat} {s0 : State} (hm : m.land 549755815942 = 549755815942) (s : State) (l : List ArrayResult) (h_s : Keeps m s0 s) :
    Keeps m s0 (arraysStep s l) := by
  unfold arraysStep
  repeat' first
    | with_reducible assumption
    | intro _
    | (extract_lets -underBinder +onlyGivenNames x; guard_hyp x : State := _; refine (fun (hx : Keeps m s0 x) => ?_) ?_ <;> [clear_value x; subst x])
    | with_reducible refine forEach_keeps (landTrans hm (by decide)) _ _ _ ?_ ?_
    | with_reducible refine arrayAtStart_keeps (landTrans hm (by decide)) _ _ _ ?_
    | with_reducible refine vigHalt_keeps (landTrans hm (by decide)) _ ?_
    | with_reducible refine endStep_keeps (landTrans hm (by decide)) _ _ ?_
    | with_reducible refine ite_keeps ?_ ?_

theorem askJoin_keeps {m : Nat} {s0 : State} (hm : m.land 550829555712 = 550829555712) (s : State) (h_s : Keeps m s0 s) :
    Keeps m s0 (askJoin s) := by
  unfold askJoin
  repeat' first
    | with_reducible assumption
    | (extract_lets -underBinder +onlyGivenNames x; clear_value x)
    | with_reducible refine emit_keeps (landTrans hm (by decide)) _ _ ?_
    | fail_if_no_progress (with_reducible refine upd_vig (landTrans hm (by decide)) _ ?_)

theorem recovery_keeps {m : Nat} {s0 : State} (hm : m.land 70367668338668 = 70367668338668) (s : State) (code : ℕ) (h_s : Keeps m s0 s) :
    Keeps m s0 (recovery s code) := by
  unfold recovery
  repeat' first
    | with_reducible assumption
    | (extract_lets -underBinder +onlyGivenNames x; first
      | (guard_hyp x : State := _; refine (fun (hx : Keeps m s0 x) => ?_) ?_ <;> [clear_value x; subst x])
      | clear_value x)
    | with_reducible refine wiped_keeps (landTrans hm (by decide)) _ _ ?_
    | with_reducible refine State.set_keeps (landTrans hm (by decide)) _ _ _ _ _ ?_
    | with_reducible refine toStage_keeps (landTrans hm (by decide)) _ _ ?_
    | fail_if_no_progress (with_reducible refine upd_vig (landTrans hm (by decide)) _ ?_)

theorem auth_keeps {m : Nat} {s0 : State} (hm : m.land 70367668338670 = 70367668338670) (s : State) (a : FlashHeader) (b : FlashHeader) (h_s : Keeps m s0 s) :
    Keeps m s0 (auth s a b) := by
  unfold auth
  repeat' first
    | with_reducible assumption
    | (extract_lets -underBinder +onlyGivenNames x; first
      | (guard_hyp x : State := _; refine (fun (hx : Keeps m s0 x) => ?_) ?_ <;> [clear_value x; subst x])
      | clear_value x)
    | with_reducible refine State.set_keeps (landTrans hm (by decide)) _ _ _ _ _ ?_
    | with_reducible refine recovery_keeps (landTrans hm (by decide)) _ _ ?_
    | with_reducible refine State.set2_keeps (landTrans hm (by decide)) _ _ _ _ _ _ ?_
    | with_reducible refine endStep_keeps (landTrans hm (by decide)) _ _ ?_
    | with_reducible refine ite_keeps ?_ ?_
    | split
    | fail_if_no_progress (with_reducible refine upd_operatorKey_vig (landTrans hm (by decide)) _ _ ?_)

theorem vigFail_keeps {m : Nat} {s0 : State} (hm : m.land 70367668338668 = 70367668338668) (s : State) (code : ℕ) (h_s : Keeps m s0 s) :
    Keeps m s0 (vigFail s code) := by
  unfold vigFail
  repeat' first
    | with_reducible assumption
    | (extract_lets -underBinder +onlyGivenNames x; clear_value x)
    | with_reducible refine recovery_keeps (landTrans hm (by decide)) _ _ ?_
    | with_reducible refine State.set_keeps (landTrans hm (by decide)) _ _ _ _ _ ?_
    | with_reducible refine stepOne_keeps (landTrans hm (by decide)) _ _ ?_
    | with_reducible refine ite_keeps ?_ ?_

theorem recFail_keeps {m : Nat} {s0 : State} (hm : m.land 70367668338668 = 70367668338668) (s : State) (code : ℕ) (h_s : Keeps m s0 s) :
    Keeps m s0 (recFail s code) := by
  unfold recFail
  repeat' first
    | with_reducible assumption
    | (extract_lets -underBinder +onlyGivenNames x; clear_value x)
    | with_reducible refine mbxEnd_keeps (landTrans hm (by decide)) _ _ _ ?_
    | with_reducible refine vigFail_keeps (landTrans hm (by decide)) _ _ ?_
    | with_reducible refine State.set_keeps (landTrans hm (by decide)) _ _ _ _ _ ?_
    | with_reducible refine ite_keeps ?_ ?_
    | fail_if_no_progress (with_reducible refine upd_vig (landTrans hm (by decide)) _ ?_)

theorem recFailFree_keeps {m : Nat} {s0 : State} (hm : m.land 70367668338670 = 70367668338670) (s : State) (h_s : Keeps m s0 s) :
    Keeps m s0 (recFailFree s) := by
  unfold recFailFree
  repeat' first
    | with_reducible assumption
    | with_reducible refine recFail_keeps (landTrans hm (by decide)) _ _ ?_
    | with_reducible refine Keeps2.of (takeFree_keeps (landTrans hm (by decide)) _ ?_)

theorem recRun_keeps {m : Nat} {s0 : State} (hm : m.land 70367668338670 = 70367668338670) (s : State) (r : CfgRec) (reg : Option ℕ) (act : State → State) (h_s : Keeps m s0 s) (h_act : ∀ x0, Keeps m s0 x0 → Keeps m s0 (act x0)) :
    Keeps m s0 (recRun s r reg act) := by
  unfold recRun
  repeat' first
    | with_reducible assumption
    | (extract_lets -underBinder +onlyGivenNames x; clear_value x)
    | with_reducible refine h_act _ ?_
    | with_reducible refine recFailFree_keeps (landTrans hm (by decide)) _ ?_
    | with_reducible refine recFail_keeps (landTrans hm (by decide)) _ _ ?_
    | with_reducible refine ite_keeps ?_ ?_
    | split

theorem recDone_keeps {m : Nat} {s0 : State} (hm : m.land 549755813892 = 549755813892) (s : State) (h_s : Keeps m s0 s) :
    Keeps m s0 (recDone s) := by
  unfold recDone
  repeat' first
    | with_reducible assumption
    | (extract_lets -underBinder +onlyGivenNames x; first
      | (guard_hyp x : State := _; refine (fun (hx : Keeps m s0 x) => ?_) ?_ <;> [clear_value x; subst x])
      | clear_value x)
    | with_reducible refine State.set_keeps (landTrans hm (by decide)) _ _ _ _ _ ?_
    | with_reducible refine ite_keeps ?_ ?_
    | fail_if_no_progress (with_reducible refine upd_vig (landTrans hm (by decide)) _ ?_)

theorem cfgBlob_keeps {m : Nat} {s0 : State} (hm : m.land 70368742080494 = 70368742080494) (s : State) (off : ℕ) (d : Bytes) (h_s : Keeps m s0 s) :
    Keeps m s0 (cfgBlob s off d) := by
  unfold cfgBlob
  repeat' first
    | with_reducible assumption
    | intro _
    | with_reducible refine recRun_keeps (landTrans hm (by decide)) _ _ _ _ ?_ ?_
    | with_reducible refine recDone_keeps (landTrans hm (by decide)) _ ?_
    | with_reducible refine homeWrite_keeps (landTrans hm (by decide)) _ _ _ _ ?_

theorem functionsEnd_keeps {m : Nat} {s0 : State} (hm : m.land 549755813894 = 549755813894) (s : State) (h_s : Keeps m s0 s) :
    Keeps m s0 (functionsEnd s) := by
  unfold functionsEnd
  repeat' first
    | with_reducible assumption
    | (extract_lets -underBinder +onlyGivenNames x; clear_value x)
    | with_reducible refine endStep_keeps (landTrans hm (by decide)) _ _ ?_
    | fail_if_no_progress (with_reducible refine upd_vig (landTrans hm (by decide)) _ ?_)

theorem sectBegin_keeps {m : Nat} {s0 : State} (hm : m.land 70367668338670 = 70367668338670) (s : State) (t : ℕ) (h_s : Keeps m s0 s) :
    Keeps m s0 (sectBegin s t) := by
  unfold sectBegin
  repeat' first
    | with_reducible assumption
    | (extract_lets -underBinder +onlyGivenNames x; first
      | (guard_hyp x : State := _; refine (fun (hx : Keeps m s0 x) => ?_) ?_ <;> [clear_value x; subst x])
      | clear_value x)
    | with_reducible refine functionsEnd_keeps (landTrans hm (by decide)) _ ?_
    | with_reducible refine vigFail_keeps (landTrans hm (by decide)) _ _ ?_
    | with_reducible refine ite_keeps ?_ ?_
    | split
    | fail_if_no_progress (with_reducible refine upd_vig (landTrans hm (by decide)) _ ?_)

theorem cfgEnd_keeps {m : Nat} {s0 : State} (hm : m.land 70367668338670 = 70367668338670) (s : State) (t : ℕ) (h_s : Keeps m s0 s) :
    Keeps m s0 (cfgEnd s t) := by
  unfold cfgEnd
  repeat' first
    | with_reducible assumption
    | intro _
    | (extract_lets -underBinder +onlyGivenNames x; first
      | (guard_hyp x : State := _; refine (fun (hx : Keeps m s0 x) => ?_) ?_ <;> [clear_value x; subst x])
      | clear_value x)
    | with_reducible refine recRun_keeps (landTrans hm (by decide)) _ _ _ _ ?_ ?_
    | with_reducible refine mbxEnd_keeps (landTrans hm (by decide)) _ _ _ ?_
    | with_reducible refine State.set_keeps (landTrans hm (by decide)) _ _ _ _ _ ?_
    | with_reducible refine sectBegin_keeps (landTrans hm (by decide)) _ _ ?_
    | with_reducible refine ite_keeps ?_ ?_
    | fail_if_no_progress (with_reducible refine upd_vig (landTrans hm (by decide)) _ ?_)

theorem cfgStart_keeps {m : Nat} {s0 : State} (hm : m.land 70368744177646 = 70368744177646) (s : State) (reg : ℕ) (v : Word) (st : ℕ) (h_s : Keeps m s0 s) :
    Keeps m s0 (cfgStart s reg v st) := by
  unfold cfgStart
  repeat' first
    | with_reducible assumption
    | intro _
    | (extract_lets -underBinder +onlyGivenNames x; first
      | (guard_hyp x : State := _; refine (fun (hx : Keeps m s0 x) => ?_) ?_ <;> [clear_value x; subst x])
      | clear_value x)
    | with_reducible refine recRun_keeps (landTrans hm (by decide)) _ _ _ _ ?_ ?_
    | with_reducible refine busWrite_keeps (landTrans hm (by decide)) _ _ _ _ _ ?_
    | with_reducible refine recDone_keeps (landTrans hm (by decide)) _ ?_
    | with_reducible refine recFail_keeps (landTrans hm (by decide)) _ _ ?_
    | with_reducible refine ite_keeps ?_ ?_
    | split
    | fail_if_no_progress (with_reducible refine upd_vig (landTrans hm (by decide)) _ ?_)

theorem cfgWait_keeps {m : Nat} {s0 : State} (hm : m.land 70367668338670 = 70367668338670) (s : State) (reg : ℕ) (mask : Word) (want : Word) (timedOut : Bool) (h_s : Keeps m s0 s) :
    Keeps m s0 (cfgWait s reg mask want timedOut) := by
  unfold cfgWait
  repeat' first
    | with_reducible assumption
    | intro _
    | (extract_lets -underBinder +onlyGivenNames x; clear_value x)
    | with_reducible refine recRun_keeps (landTrans hm (by decide)) _ _ _ _ ?_ ?_
    | with_reducible refine recDone_keeps (landTrans hm (by decide)) _ ?_
    | with_reducible refine recFailFree_keeps (landTrans hm (by decide)) _ ?_
    | with_reducible refine ite_keeps ?_ ?_

theorem notePort_keeps {m : Nat} {s0 : State} (hm : m.land 549755813888 = 549755813888) (s : State) (o : ℕ) (h_s : Keeps m s0 s) :
    Keeps m s0 (notePort s o) := by
  unfold notePort
  repeat' first
    | with_reducible assumption
    | (extract_lets -underBinder +onlyGivenNames x; clear_value x)
    | with_reducible refine ite_keeps ?_ ?_
    | fail_if_no_progress (with_reducible refine upd_vig (landTrans hm (by decide)) _ ?_)

theorem cfgWrite_keeps {m : Nat} {s0 : State} (hm : m.land 70368744177646 = 70368744177646) (s : State) (reg : ℕ) (v : Word) (h_s : Keeps m s0 s) :
    Keeps m s0 (cfgWrite s reg v) := by
  unfold cfgWrite
  repeat' first
    | with_reducible assumption
    | intro _
    | with_reducible refine recRun_keeps (landTrans hm (by decide)) _ _ _ _ ?_ ?_
    | with_reducible refine recDone_keeps (landTrans hm (by decide)) _ ?_
    | with_reducible refine notePort_keeps (landTrans hm (by decide)) _ _ ?_
    | with_reducible refine busWrite_keeps (landTrans hm (by decide)) _ _ _ _ _ ?_

theorem clocksStep_keeps {m : Nat} {s0 : State} (hm : m.land 549755813894 = 549755813894) (s : State) (locked : Bool) (h_s : Keeps m s0 s) :
    Keeps m s0 (clocksStep s locked) := by
  unfold clocksStep
  repeat' first
    | with_reducible assumption
    | with_reducible refine endStep_keeps (landTrans hm (by decide)) _ _ ?_
    | with_reducible refine vigHalt_keeps (landTrans hm (by decide)) _ ?_
    | with_reducible refine ite_keeps ?_ ?_

theorem execAlign_keeps {m : Nat} {s0 : State} (hm : m.land 549755813894 = 549755813894) (ok : Bool) (s : State) (h_s : Keeps m s0 s) :
    KeepsX m s0 (execAlign ok s) :=
  next_keeps (alignStep_keeps hm _ _ h_s)

theorem execAlmanac_keeps {m : Nat} {s0 : State} (hm : m.land 549755813926 = 549755813926) (locked : Bool) (s : State) (h_s : Keeps m s0 s) :
    KeepsX m s0 (execAlmanac locked s) :=
  next_keeps (almanacStep_keeps hm _ _ h_s)

theorem execAonPwrgoodRise_keeps {m : Nat} {s0 : State} (hm : m.land 70367668338668 = 70367668338668) (s : State) (h_s : Keeps m s0 s) :
    KeepsX m s0 (execAonPwrgoodRise s) :=
  next_keeps (aonRise_keeps hm _ h_s)

theorem execArrays_keeps {m : Nat} {s0 : State} (hm : m.land 549755815942 = 549755815942) (results : List ArrayResult) (s : State) (h_s : Keeps m s0 s) :
    KeepsX m s0 (execArrays results s) :=
  next_keeps (arraysStep_keeps hm _ _ h_s)

theorem execAuth_keeps {m : Nat} {s0 : State} (hm : m.land 70367668338670 = 70367668338670) (halfA : FlashHeader) (halfB : FlashHeader) (s : State) (h_s : Keeps m s0 s) :
    KeepsX m s0 (execAuth halfA halfB s) :=
  next_keeps (auth_keeps hm _ _ _ h_s)

theorem execCfgBlob_keeps {m : Nat} {s0 : State} (hm : m.land 70368742080494 = 70368742080494) (off : ℕ) (data : Bytes) (s : State) (h_s : Keeps m s0 s) :
    KeepsX m s0 (execCfgBlob off data s) :=
  next_keeps (cfgBlob_keeps hm _ _ _ h_s)

theorem execCfgEnd_keeps {m : Nat} {s0 : State} (hm : m.land 70367668338670 = 70367668338670) (sect : ℕ) (s : State) (h_s : Keeps m s0 s) :
    KeepsX m s0 (execCfgEnd sect s) :=
  next_keeps (cfgEnd_keeps hm _ _ h_s)

theorem execCfgStart_keeps {m : Nat} {s0 : State} (hm : m.land 70368744177646 = 70368744177646) (reg : ℕ) (value : Word) (status : ℕ) (s : State) (h_s : Keeps m s0 s) :
    KeepsX m s0 (execCfgStart reg value status s) :=
  next_keeps (cfgStart_keeps hm _ _ _ _ h_s)

theorem execCfgWait_keeps {m : Nat} {s0 : State} (hm : m.land 70367668338670 = 70367668338670) (reg : ℕ) (mask : Word) (expected : Word) (timedOut : Bool) (s : State) (h_s : Keeps m s0 s) :
    KeepsX m s0 (execCfgWait reg mask expected timedOut s) :=
  next_keeps (cfgWait_keeps hm _ _ _ _ _ h_s)

theorem execCfgWrite_keeps {m : Nat} {s0 : State} (hm : m.land 70368744177646 = 70368744177646) (reg : ℕ) (value : Word) (s : State) (h_s : Keeps m s0 s) :
    KeepsX m s0 (execCfgWrite reg value s) :=
  next_keeps (cfgWrite_keeps hm _ _ _ h_s)

theorem execClocks_keeps {m : Nat} {s0 : State} (hm : m.land 549755813894 = 549755813894) (locked : Bool) (s : State) (h_s : Keeps m s0 s) :
    KeepsX m s0 (execClocks locked s) :=
  next_keeps (clocksStep_keeps hm _ _ h_s)

theorem fabricUp_keeps {m : Nat} {s0 : State} (hm : m.land 5368709124 = 5368709124) (s : State) (h_s : Keeps m s0 s) :
    Keeps m s0 (fabricUp s) := by
  unfold fabricUp
  repeat' first
    | with_reducible assumption
    | intro _
    | (extract_lets -underBinder +onlyGivenNames x; guard_hyp x : State := _; refine (fun (hx : Keeps m s0 x) => ?_) ?_ <;> [clear_value x; subst x])
    | with_reducible refine filStart_keeps (landTrans hm (by decide)) _ ?_
    | with_reducible refine forEach_keeps (landTrans hm (by decide)) _ _ _ ?_ ?_
    | with_reducible refine portStart_keeps (landTrans hm (by decide)) _ _ ?_
    | with_reducible refine ite_keeps ?_ ?_

theorem fabricJoin_keeps {m : Nat} {s0 : State} (hm : m.land 555124523012 = 555124523012) (s : State) (inc : ℕ) (t : BitVec 64) (trim : ℤ) (h_s : Keeps m s0 s) :
    Keeps m s0 (fabricJoin s inc t trim) := by
  unfold fabricJoin
  repeat' first
    | with_reducible assumption
    | (extract_lets -underBinder +onlyGivenNames x; first
      | (guard_hyp x : State := _; refine (fun (hx : Keeps m s0 x) => ?_) ?_ <;> [clear_value x; subst x])
      | clear_value x)
    | with_reducible refine fabricUp_keeps (landTrans hm (by decide)) _ ?_
    | with_reducible refine askJoin_keeps (landTrans hm (by decide)) _ ?_
    | with_reducible refine ite_keeps ?_ ?_
    | fail_if_no_progress (with_reducible refine upd_vig (landTrans hm (by decide)) _ ?_)

theorem execFabricJoin_keeps {m : Nat} {s0 : State} (hm : m.land 555124523012 = 555124523012) (inc : ℕ) (tRelease : BitVec 64) (trim : ℤ) (s : State) (h_s : Keeps m s0 s) :
    KeepsX m s0 (execFabricJoin inc tRelease trim s) :=
  next_keeps (fabricJoin_keeps hm _ _ _ _ h_s)

theorem releaseGroup_keeps {m : Nat} {s0 : State} (hm : m.land 1075930118 = 1075930118) (s : State) (g : ℕ) (h_s : Keeps m s0 s) :
    Keeps m s0 (releaseGroup s g) := by
  unfold releaseGroup
  repeat' first
    | with_reducible assumption
    | (extract_lets -underBinder +onlyGivenNames x; clear_value x)
    | with_reducible refine pushCpl_keeps (landTrans hm (by decide)) _ _ _ ?_
    | with_reducible refine admission_keeps (landTrans hm (by decide)) _ _ _ ?_
    | with_reducible refine setGroup_keeps (landTrans hm (by decide)) _ _ _ ?_
    | with_reducible refine startJob_keeps (landTrans hm (by decide)) _ _ _ ?_
    | with_reducible refine ite_keeps ?_ ?_
    | split
    | with_reducible refine ofPair2 ‹_ = (_, _)› ?_
    | with_reducible refine Keeps2.of (takeFree_keeps (landTrans hm (by decide)) _ ?_)

theorem releaseJobs_keeps {m : Nat} {s0 : State} (hm : m.land 1075930118 = 1075930118) (s : State) (h_s : Keeps m s0 s) :
    Keeps m s0 (releaseJobs s) := by
  unfold releaseJobs
  repeat' first
    | with_reducible assumption
    | intro _
    | (extract_lets -underBinder +onlyGivenNames x; first
      | (guard_hyp x : State := _; refine (fun (hx : Keeps m s0 x) => ?_) ?_ <;> [clear_value x; subst x])
      | clear_value x)
    | with_reducible refine forEach_keeps (landTrans hm (by decide)) _ _ _ ?_ ?_
    | with_reducible refine sjStart_keeps (landTrans hm (by decide)) _ _ ?_
    | with_reducible refine releaseGroup_keeps (landTrans hm (by decide)) _ _ ?_
    | with_reducible refine State.set_keeps (landTrans hm (by decide)) _ _ _ _ _ ?_
    | with_reducible refine ite_keeps ?_ ?_

theorem fabricRelease_keeps {m : Nat} {s0 : State} (hm : m.land 615256386566 = 615256386566) (s : State) (h_s : Keeps m s0 s) :
    Keeps m s0 (fabricRelease s) := by
  unfold fabricRelease
  repeat' first
    | with_reducible assumption
    | (extract_lets -underBinder +onlyGivenNames x; first
      | (guard_hyp x : State := _; refine (fun (hx : Keeps m s0 x) => ?_) ?_ <;> [clear_value x; subst x])
      | clear_value x)
    | with_reducible refine releaseJobs_keeps (landTrans hm (by decide)) _ ?_
    | with_reducible refine takeInc_keeps (landTrans hm (by decide)) _ _ ?_
    | with_reducible refine State.set_keeps (landTrans hm (by decide)) _ _ _ _ _ ?_
    | with_reducible refine stampStep_keeps (landTrans hm (by decide)) _ _ ?_
    | with_reducible refine toStage_keeps (landTrans hm (by decide)) _ _ ?_
    | with_reducible refine ite_keeps ?_ ?_
    | split
    | fail_if_no_progress (with_reducible refine upd_vig (landTrans hm (by decide)) _ ?_)

theorem execFabricRelease_keeps {m : Nat} {s0 : State} (hm : m.land 615256386566 = 615256386566) (s : State) (h_s : Keeps m s0 s) :
    KeepsX m s0 (execFabricRelease s) :=
  next_keeps (fabricRelease_keeps hm _ h_s)

theorem loadAll_keeps {m : Nat} {s0 : State} (hm : m.land 35184373195780 = 35184373195780) (r : List Bytes) (r1 : State) (h_r1 : Keeps m s0 r1) :
    Keeps2 m s0 (loadAll r r1) := by
  induction r generalizing r1 with
  | nil =>
    unfold loadAll
    repeat' first
      | with_reducible assumption
      | with_reducible refine pair2 ?_
  | cons b t ih =>
    unfold loadAll
    repeat' first
      | with_reducible assumption
      | with_reducible apply ih
      | (extract_lets -underBinder +onlyGivenNames x; guard_hyp x : Bool × State := _; refine (fun (hx : Keeps2 m s0 x) => ?_) ?_ <;> [clear_value x; subst x])
      | with_reducible refine loadDirect_keeps (landTrans hm (by decide)) _ _ ?_
      | with_reducible refine ite_keeps2 ?_ ?_
      | with_reducible exact Keeps2.of ‹_›
      | with_reducible refine pair2 ?_

theorem firmwareStep_keeps {m : Nat} {s0 : State} (hm : m.land 70368742080494 = 70368742080494) (s : State) (ok : Bool) (key : BitVec 64) (mgmt : Bytes) (cp : Bytes) (images : List Bytes) (h_s : Keeps m s0 s) :
    Keeps m s0 (firmwareStep s ok key mgmt cp images) := by
  unfold firmwareStep
  repeat' first
    | with_reducible assumption
    | intro _
    | (extract_lets -underBinder +onlyGivenNames x; first
      | (guard_hyp x : State := _; refine (fun (hx : Keeps m s0 x) => ?_) ?_ <;> [clear_value x; subst x])
      | (guard_hyp x : Bool × State := _; refine (fun (hx : Keeps2 m s0 x) => ?_) ?_ <;> [clear_value x; subst x])
      | clear_value x)
    | with_reducible refine vigFail_keeps (landTrans hm (by decide)) _ _ ?_
    | with_reducible refine homeWrite_keeps (landTrans hm (by decide)) _ _ _ _ ?_
    | with_reducible refine jrnlStart_keeps (landTrans hm (by decide)) _ ?_
    | with_reducible refine forEach_keeps (landTrans hm (by decide)) _ _ _ ?_ ?_
    | with_reducible refine journal_keeps (landTrans hm (by decide)) _ _ ?_
    | with_reducible refine setCore_keeps (landTrans hm (by decide)) _ _ _ ?_
    | with_reducible refine loadAll_keeps (landTrans hm (by decide)) _ _ ?_
    | with_reducible refine endStep_keeps (landTrans hm (by decide)) _ _ ?_
    | with_reducible refine mgeStart_keeps (landTrans hm (by decide)) _ ?_
    | with_reducible refine ite_keeps ?_ ?_
    | with_reducible exact Keeps2.of ‹_›
    | fail_if_no_progress (with_reducible refine upd_sealKey_cpFw (landTrans hm (by decide)) _ _ ?_)

theorem execFirmware_keeps {m : Nat} {s0 : State} (hm : m.land 70368742080494 = 70368742080494) (digestsOk : Bool) (key : BitVec 64) (mgmtFw : Bytes) (cpFw : Bytes) (images : List Bytes) (s : State) (h_s : Keeps m s0 s) :
    KeepsX m s0 (execFirmware digestsOk key mgmtFw cpFw images s) :=
  next_keeps (firmwareStep_keeps hm _ _ _ _ _ _ h_s)

theorem firmwareTimeout_keeps {m : Nat} {s0 : State} (hm : m.land 70367668338670 = 70367668338670) (s : State) (h_s : Keeps m s0 s) :
    Keeps m s0 (firmwareTimeout s) := by
  unfold firmwareTimeout
  repeat' first
    | with_reducible assumption
    | with_reducible refine vigFail_keeps (landTrans hm (by decide)) _ _ ?_
    | with_reducible refine ite_keeps ?_ ?_
    | with_reducible refine Keeps2.of (takeFree_keeps (landTrans hm (by decide)) _ ?_)

theorem execFirmwareTimeout_keeps {m : Nat} {s0 : State} (hm : m.land 70367668338670 = 70367668338670) (s : State) (h_s : Keeps m s0 s) :
    KeepsX m s0 (execFirmwareTimeout s) :=
  next_keeps (firmwareTimeout_keeps hm _ h_s)

theorem functionsStep_keeps {m : Nat} {s0 : State} (hm : m.land 70367668338670 = 70367668338670) (s : State) (h_s : Keeps m s0 s) :
    Keeps m s0 (functionsStep s) := by
  unfold functionsStep
  repeat' first
    | with_reducible assumption
    | (extract_lets -underBinder +onlyGivenNames x; guard_hyp x : State := _; refine (fun (hx : Keeps m s0 x) => ?_) ?_ <;> [clear_value x; subst x])
    | with_reducible refine hostStart_keeps (landTrans hm (by decide)) _ ?_
    | with_reducible refine sectBegin_keeps (landTrans hm (by decide)) _ _ ?_
    | with_reducible refine vigFail_keeps (landTrans hm (by decide)) _ _ ?_
    | with_reducible refine ite_keeps ?_ ?_

theorem execFunctions_keeps {m : Nat} {s0 : State} (hm : m.land 70367668338670 = 70367668338670) (s : State) (h_s : Keeps m s0 s) :
    KeepsX m s0 (execFunctions s) :=
  next_keeps (functionsStep_keeps hm _ h_s)

theorem joinRetry_keeps {m : Nat} {s0 : State} (hm : m.land 550829555712 = 550829555712) (s : State) (h_s : Keeps m s0 s) :
    Keeps m s0 (joinRetry s) := by
  unfold joinRetry
  repeat' first
    | with_reducible assumption
    | (extract_lets -underBinder +onlyGivenNames x; clear_value x)
    | with_reducible refine askJoin_keeps (landTrans hm (by decide)) _ ?_
    | with_reducible refine ite_keeps ?_ ?_

theorem execJoinRetry_keeps {m : Nat} {s0 : State} (hm : m.land 550829555712 = 550829555712) (s : State) (h_s : Keeps m s0 s) :
    KeepsX m s0 (execJoinRetry s) :=
  next_keeps (joinRetry_keeps hm _ h_s)

theorem joinWaitExpiry_keeps {m : Nat} {s0 : State} (hm : m.land 550829555716 = 550829555716) (s : State) (h_s : Keeps m s0 s) :
    Keeps m s0 (joinWaitExpiry s) := by
  unfold joinWaitExpiry
  repeat' first
    | with_reducible assumption
    | (extract_lets -underBinder +onlyGivenNames x; guard_hyp x : State := _; refine (fun (hx : Keeps m s0 x) => ?_) ?_ <;> [clear_value x; subst x])
    | with_reducible refine toStage_keeps (landTrans hm (by decide)) _ _ ?_
    | with_reducible refine askJoin_keeps (landTrans hm (by decide)) _ ?_
    | with_reducible refine State.set_keeps (landTrans hm (by decide)) _ _ _ _ _ ?_
    | with_reducible refine ite_keeps ?_ ?_

theorem execJoinWaitExpiry_keeps {m : Nat} {s0 : State} (hm : m.land 550829555716 = 550829555716) (s : State) (h_s : Keeps m s0 s) :
    KeepsX m s0 (execJoinWaitExpiry s) :=
  next_keeps (joinWaitExpiry_keeps hm _ h_s)

theorem junctionOut_keeps {m : Nat} {s0 : State} (hm : m.land 2052 = 2052) (s : State) (n : ℕ) (h_s : Keeps m s0 s) :
    Keeps m s0 (junctionOut s n) := by
  unfold junctionOut
  repeat' first
    | with_reducible assumption
    | (extract_lets -underBinder +onlyGivenNames x; clear_value x)
    | with_reducible refine markSuspect_keeps (landTrans hm (by decide)) _ _ ?_
    | with_reducible refine setCore_keeps (landTrans hm (by decide)) _ _ _ ?_
    | with_reducible refine ite_keeps ?_ ?_

theorem execJunctionOutOfRange_keeps {m : Nat} {s0 : State} (hm : m.land 2052 = 2052) (n : ℕ) (s : State) (h_s : Keeps m s0 s) :
    KeepsX m s0 (execJunctionOutOfRange n s) := by
  unfold execJunctionOutOfRange
  repeat' first
    | with_reducible assumption
    | with_reducible refine junctionOut_keeps (landTrans hm (by decide)) _ _ ?_
    | with_reducible refine ite_keeps ?_ ?_
    | with_reducible refine next_keeps ?_

theorem memoryStep_keeps {m : Nat} {s0 : State} (hm : m.land 618475290630 = 618475290630) (s : State) (trained : BitVec 16) (h_s : Keeps m s0 s) :
    Keeps m s0 (memoryStep s trained) := by
  unfold memoryStep
  repeat' first
    | with_reducible assumption
    | intro _
    | (extract_lets -underBinder +onlyGivenNames x; first
      | (guard_hyp x : State := _; refine (fun (hx : Keeps m s0 x) => ?_) ?_ <;> [clear_value x; subst x])
      | clear_value x)
    | with_reducible refine State.set_keeps (landTrans hm (by decide)) _ _ _ _ _ ?_
    | with_reducible refine forEach_keeps (landTrans hm (by decide)) _ _ _ ?_ ?_
    | with_reducible refine memchStart_keeps (landTrans hm (by decide)) _ _ ?_
    | with_reducible refine faultFn_keeps (landTrans hm (by decide)) _ _ _ ?_
    | with_reducible refine setStripe_keeps (landTrans hm (by decide)) _ _ _ ?_
    | with_reducible refine setClusterQuota_keeps (landTrans hm (by decide)) _ ?_
    | with_reducible refine vigHalt_keeps (landTrans hm (by decide)) _ ?_
    | with_reducible refine endStep_keeps (landTrans hm (by decide)) _ _ ?_
    | with_reducible refine ite_keeps ?_ ?_

theorem execMemory_keeps {m : Nat} {s0 : State} (hm : m.land 618475290630 = 618475290630) (trained : BitVec 16) (s : State) (h_s : Keeps m s0 s) :
    KeepsX m s0 (execMemory trained s) :=
  next_keeps (memoryStep_keeps hm _ _ h_s)

theorem perst_keeps {m : Nat} {s0 : State} (hm : m.land 549755813892 = 549755813892) (s : State) (low : Bool) (h_s : Keeps m s0 s) :
    Keeps m s0 (perst s low) := by
  unfold perst
  repeat' first
    | with_reducible assumption
    | (extract_lets -underBinder +onlyGivenNames x; first
      | (guard_hyp x : State := _; refine (fun (hx : Keeps m s0 x) => ?_) ?_ <;> [clear_value x; subst x])
      | clear_value x)
    | with_reducible refine State.set_keeps (landTrans hm (by decide)) _ _ _ _ _ ?_
    | with_reducible refine ite_keeps ?_ ?_
    | fail_if_no_progress (with_reducible refine upd_vig (landTrans hm (by decide)) _ ?_)

theorem execPerst_keeps {m : Nat} {s0 : State} (hm : m.land 549755813892 = 549755813892) (low : Bool) (s : State) (h_s : Keeps m s0 s) :
    KeepsX m s0 (execPerst low s) :=
  next_keeps (perst_keeps hm _ _ h_s)

theorem porAssert_keeps {m : Nat} {s0 : State} (hm : m.land 70367668338668 = 70367668338668) (s : State) (h_s : Keeps m s0 s) :
    Keeps m s0 (porAssert s) := by
  unfold porAssert
  repeat' first
    | with_reducible assumption
    | (extract_lets -underBinder +onlyGivenNames x; first
      | (guard_hyp x : State := _; refine (fun (hx : Keeps m s0 x) => ?_) ?_ <;> [clear_value x; subst x])
      | clear_value x)
    | with_reducible refine wiped_keeps (landTrans hm (by decide)) _ _ ?_
    | fail_if_no_progress (with_reducible refine upd_vig (landTrans hm (by decide)) _ ?_)

theorem execPorAssert_keeps {m : Nat} {s0 : State} (hm : m.land 70367668338668 = 70367668338668) (s : State) (h_s : Keeps m s0 s) :
    KeepsX m s0 (execPorAssert s) :=
  next_keeps (porAssert_keeps hm _ h_s)

theorem porRelease_keeps {m : Nat} {s0 : State} (hm : m.land 70367668338668 = 70367668338668) (s : State) (h_s : Keeps m s0 s) :
    Keeps m s0 (porRelease s) := by
  unfold porRelease
  repeat' first
    | with_reducible assumption
    | (extract_lets -underBinder +onlyGivenNames x; first
      | (guard_hyp x : State := _; refine (fun (hx : Keeps m s0 x) => ?_) ?_ <;> [clear_value x; subst x])
      | clear_value x)
    | with_reducible refine stepOne_keeps (landTrans hm (by decide)) _ _ ?_
    | with_reducible refine ite_keeps ?_ ?_
    | fail_if_no_progress (with_reducible refine upd_vig (landTrans hm (by decide)) _ ?_)

theorem execPorRelease_keeps {m : Nat} {s0 : State} (hm : m.land 70367668338668 = 70367668338668) (s : State) (h_s : Keeps m s0 s) :
    KeepsX m s0 (execPorRelease s) :=
  next_keeps (porRelease_keeps hm _ h_s)

theorem railsDown_keeps {m : Nat} {s0 : State} (hm : m.land 70367668338668 = 70367668338668) (s : State) (h_s : Keeps m s0 s) :
    Keeps m s0 (railsDown s) := by
  unfold railsDown
  repeat' first
    | with_reducible assumption
    | (extract_lets -underBinder +onlyGivenNames x; first
      | (guard_hyp x : State := _; refine (fun (hx : Keeps m s0 x) => ?_) ?_ <;> [clear_value x; subst x])
      | clear_value x)
    | with_reducible refine wiped_keeps (landTrans hm (by decide)) _ _ ?_
    | with_reducible refine State.set_keeps (landTrans hm (by decide)) _ _ _ _ _ ?_
    | with_reducible refine toStage_keeps (landTrans hm (by decide)) _ _ ?_
    | fail_if_no_progress (with_reducible refine upd_vig (landTrans hm (by decide)) _ ?_)

theorem pwrGoodFall_keeps {m : Nat} {s0 : State} (hm : m.land 70367668338668 = 70367668338668) (s : State) (i : ℕ) (h_s : Keeps m s0 s) :
    Keeps m s0 (pwrGoodFall s i) := by
  unfold pwrGoodFall
  repeat' first
    | with_reducible assumption
    | (extract_lets -underBinder +onlyGivenNames x; first
      | (guard_hyp x : State := _; refine (fun (hx : Keeps m s0 x) => ?_) ?_ <;> [clear_value x; subst x])
      | clear_value x)
    | with_reducible refine railsDown_keeps (landTrans hm (by decide)) _ ?_
    | with_reducible refine ite_keeps ?_ ?_
    | split
    | fail_if_no_progress (with_reducible refine upd_vig (landTrans hm (by decide)) _ ?_)

theorem execPwrGoodFall_keeps {m : Nat} {s0 : State} (hm : m.land 70367668338668 = 70367668338668) (i : ℕ) (s : State) (h_s : Keeps m s0 s) :
    KeepsX m s0 (execPwrGoodFall i s) := by
  unfold execPwrGoodFall
  repeat' first
    | with_reducible assumption
    | with_reducible refine pwrGoodFall_keeps (landTrans hm (by decide)) _ _ ?_
    | with_reducible refine ite_keeps ?_ ?_
    | with_reducible refine next_keeps ?_

theorem pwrGoodRise_keeps {m : Nat} {s0 : State} (hm : m.land 549755813888 = 549755813888) (s : State) (i : ℕ) (h_s : Keeps m s0 s) :
    Keeps m s0 (pwrGoodRise s i) := by
  unfold pwrGoodRise
  repeat' first
    | with_reducible assumption
    | (extract_lets -underBinder +onlyGivenNames x; clear_value x)
    | with_reducible refine raiseEnable_keeps (landTrans hm (by decide)) _ ?_
    | fail_if_no_progress (with_reducible refine upd_vig (landTrans hm (by decide)) _ ?_)

theorem execPwrGoodRise_keeps {m : Nat} {s0 : State} (hm : m.land 549755813888 = 549755813888) (i : ℕ) (s : State) (h_s : Keeps m s0 s) :
    KeepsX m s0 (execPwrGoodRise i s) := by
  unfold execPwrGoodRise
  repeat' first
    | with_reducible assumption
    | with_reducible refine pwrGoodRise_keeps (landTrans hm (by decide)) _ _ ?_
    | with_reducible refine ite_keeps ?_ ?_
    | with_reducible refine next_keeps ?_

theorem pwrGoodTimeout_keeps {m : Nat} {s0 : State} (hm : m.land 70367668338668 = 70367668338668) (s : State) (i : ℕ) (h_s : Keeps m s0 s) :
    Keeps m s0 (pwrGoodTimeout s i) := by
  unfold pwrGoodTimeout
  repeat' first
    | with_reducible assumption
    | with_reducible refine railsDown_keeps (landTrans hm (by decide)) _ ?_
    | with_reducible refine ite_keeps ?_ ?_

theorem execPwrGoodTimeout_keeps {m : Nat} {s0 : State} (hm : m.land 70367668338668 = 70367668338668) (i : ℕ) (s : State) (h_s : Keeps m s0 s) :
    KeepsX m s0 (execPwrGoodTimeout i s) := by
  unfold execPwrGoodTimeout
  repeat' first
    | with_reducible assumption
    | with_reducible refine pwrGoodTimeout_keeps (landTrans hm (by decide)) _ _ ?_
    | with_reducible refine ite_keeps ?_ ?_
    | with_reducible refine next_keeps ?_

theorem romBoot_keeps {m : Nat} {s0 : State} (hm : m.land 549755813894 = 549755813894) (s : State) (h_s : Keeps m s0 s) :
    Keeps m s0 (romBoot s) := by
  unfold romBoot
  repeat' first
    | with_reducible assumption
    | with_reducible refine endStep_keeps (landTrans hm (by decide)) _ _ ?_
    | with_reducible refine ite_keeps ?_ ?_

theorem execRomBoot_keeps {m : Nat} {s0 : State} (hm : m.land 549755813894 = 549755813894) (s : State) (h_s : Keeps m s0 s) :
    KeepsX m s0 (execRomBoot s) :=
  next_keeps (romBoot_keeps hm _ h_s)

theorem thermTrip_keeps {m : Nat} {s0 : State} (hm : m.land 70367668338668 = 70367668338668) (s : State) (h_s : Keeps m s0 s) :
    Keeps m s0 (thermTrip s) := by
  unfold thermTrip
  repeat' first
    | with_reducible assumption
    | (extract_lets -underBinder +onlyGivenNames x; clear_value x)
    | with_reducible refine railsDown_keeps (landTrans hm (by decide)) _ ?_
    | fail_if_no_progress (with_reducible refine upd_vig (landTrans hm (by decide)) _ ?_)

theorem execThermTrip_keeps {m : Nat} {s0 : State} (hm : m.land 70367668338668 = 70367668338668) (s : State) (h_s : Keeps m s0 s) :
    KeepsX m s0 (execThermTrip s) :=
  next_keeps (thermTrip_keeps hm _ h_s)

theorem thermRead_keeps {m : Nat} {s0 : State} (hm : m.land 70367668338668 = 70367668338668) (s : State) (die : ℕ) (sensor : ℕ) (milliC : ℤ) (h_s : Keeps m s0 s) :
    Keeps m s0 (thermRead s die sensor milliC) := by
  unfold thermRead
  repeat' first
    | with_reducible assumption
    | (extract_lets -underBinder +onlyGivenNames x; first
      | (guard_hyp x : State := _; refine (fun (hx : Keeps m s0 x) => ?_) ?_ <;> [clear_value x; subst x])
      | clear_value x)
    | with_reducible refine thermTrip_keeps (landTrans hm (by decide)) _ ?_
    | with_reducible refine ite_keeps ?_ ?_
    | fail_if_no_progress (with_reducible refine upd_vig (landTrans hm (by decide)) _ ?_)

theorem execThermWarn_keeps {m : Nat} {s0 : State} (hm : m.land 70367668338668 = 70367668338668) (die : ℕ) (sensor : ℕ) (milliC : ℤ) (s : State) (h_s : Keeps m s0 s) :
    KeepsX m s0 (execThermWarn die sensor milliC s) :=
  next_keeps (thermRead_keeps hm _ _ _ _ h_s)

theorem timeLock_keeps {m : Nat} {s0 : State} (hm : m.land 549755813894 = 549755813894) (s : State) (h_s : Keeps m s0 s) :
    Keeps m s0 (timeLock s) := by
  unfold timeLock
  repeat' first
    | with_reducible assumption
    | (extract_lets -underBinder +onlyGivenNames x; first
      | (guard_hyp x : State := _; refine (fun (hx : Keeps m s0 x) => ?_) ?_ <;> [clear_value x; subst x])
      | clear_value x)
    | with_reducible refine endStep_keeps (landTrans hm (by decide)) _ _ ?_
    | with_reducible refine toStage_keeps (landTrans hm (by decide)) _ _ ?_
    | with_reducible refine State.set_keeps (landTrans hm (by decide)) _ _ _ _ _ ?_
    | with_reducible refine stampStep_keeps (landTrans hm (by decide)) _ _ ?_
    | with_reducible refine ite_keeps ?_ ?_
    | fail_if_no_progress (with_reducible refine upd_vig (landTrans hm (by decide)) _ ?_)

theorem execTimeLock_keeps {m : Nat} {s0 : State} (hm : m.land 549755813894 = 549755813894) (s : State) (h_s : Keeps m s0 s) :
    KeepsX m s0 (execTimeLock s) :=
  next_keeps (timeLock_keeps hm _ h_s)

theorem timeWaitExpiry_keeps {m : Nat} {s0 : State} (hm : m.land 549755813892 = 549755813892) (s : State) (h_s : Keeps m s0 s) :
    Keeps m s0 (timeWaitExpiry s) := by
  unfold timeWaitExpiry
  repeat' first
    | with_reducible assumption
    | with_reducible refine State.set_keeps (landTrans hm (by decide)) _ _ _ _ _ ?_
    | with_reducible refine toStage_keeps (landTrans hm (by decide)) _ _ ?_
    | with_reducible refine ite_keeps ?_ ?_

theorem execTimeWaitExpiry_keeps {m : Nat} {s0 : State} (hm : m.land 549755813892 = 549755813892) (s : State) (h_s : Keeps m s0 s) :
    KeepsX m s0 (execTimeWaitExpiry s) :=
  next_keeps (timeWaitExpiry_keeps hm _ h_s)

theorem warmReset_keeps {m : Nat} {s0 : State} (hm : m.land 70367668338668 = 70367668338668) (s : State) (h_s : Keeps m s0 s) :
    Keeps m s0 (warmReset s) := by
  unfold warmReset
  repeat' first
    | with_reducible assumption
    | with_reducible refine stepOne_keeps (landTrans hm (by decide)) _ _ ?_
    | with_reducible refine ite_keeps ?_ ?_

theorem execWarmReset_keeps {m : Nat} {s0 : State} (hm : m.land 70367668338668 = 70367668338668) (s : State) (h_s : Keeps m s0 s) :
    KeepsX m s0 (execWarmReset s) :=
  next_keeps (warmReset_keeps hm _ h_s)

end Sys2Proof.Machine
end

