-- ==== Sys2Proof/Tests/Slice0.lean ====
section
/-! SUPPORT. The model's own tests: well-formedness, one step at a time, and states that meet the hypotheses of the
statements. -/

-- The theorems of this file are checked one after another: their evaluations side by side would take too much memory.
set_option Elab.async false

namespace Sys2Proof.Tests

open Sys2Proof Sys2Proof.Machine

/-- The reset state with some fields replaced. -/
def st (l : List (Fld × Nat × Nat × Nat)) : State :=
  l.foldl (fun s x => s.set x.1 x.2.1 x.2.2.1 x.2.2.2) State.reset

/-! ## Ill-formed commands, one for each check of `WellFormed` -/

theorem test_wf_core : (Instr.arrStart 127).wf = true ∧ (Instr.arrStart 128).wf = false := by decide
theorem test_wf_four : (Instr.nop 0 3).wf = true ∧ (Instr.nop 0 4).wf = false := by decide
theorem test_wf_eight : (Instr.pulseLeadEdge 7).wf = true ∧ (Instr.pulseLeadEdge 8).wf = false := by decide
theorem test_wf_phase : (Instr.ppsEdge 7).wf = true ∧ (Instr.ppsEdge 8).wf = false := by decide
theorem test_wf_port : (Instr.portStart 23).wf = true ∧ (Instr.portStart 24).wf = false := by decide
theorem test_wf_fh_port : (Instr.fhStart 7).wf = true ∧ (Instr.fhStart 8).wf = false := by decide
theorem test_wf_function : (Instr.job 256).wf = true ∧ (Instr.job 257).wf = false := by decide
theorem test_wf_tenant : (Instr.clearingEnd 255).wf = true ∧ (Instr.clearingEnd 256).wf = false := by decide
theorem test_wf_serving : (Instr.sjStart 63).wf = true ∧ (Instr.sjStart 64).wf = false := by decide
theorem test_wf_context : (Instr.contextResident ⟨4095, none⟩).wf = true ∧ (Instr.contextResident ⟨4096, none⟩).wf = false ∧
    (Instr.contextResident ⟨0, some 128⟩).wf = false := by decide
theorem test_wf_channel : (Instr.memchStart 15).wf = true ∧ (Instr.memchStart 16).wf = false := by decide
theorem test_wf_domain : (Instr.powerOn 197).wf = true ∧ (Instr.powerOn 198).wf = false := by decide
theorem test_wf_node : (Instr.resendTimeout 131071).wf = true ∧ (Instr.resendTimeout 131072).wf = false := by decide
theorem test_wf_incarnation : (Instr.incarnation 65535).wf = true ∧ (Instr.incarnation 65536).wf = false := by decide
theorem test_wf_engine : (Instr.laserModuleFit 5).wf = true ∧ (Instr.laserModuleFit 6).wf = false := by decide
theorem test_wf_cell : (Instr.cellStart 511).wf = true ∧ (Instr.cellStart 512).wf = false := by decide
theorem test_wf_fsk : (Instr.fskLaunch 63 63).wf = true ∧ (Instr.fskLaunch 64 0).wf = false ∧
    (Instr.fskLaunch 0 64).wf = false := by decide
theorem test_wf_bead : (Instr.beadMoveAck 0 0 ⟨0, 1048575⟩).wf = true ∧ (Instr.beadMoveAck 0 0 ⟨0, 1048576⟩).wf = false := by decide
theorem test_wf_code : (Instr.beadMoveAck 0 0x51 ⟨0, 0⟩).wf = true ∧ (Instr.beadMoveAck 0 0x52 ⟨0, 0⟩).wf = false := by decide
theorem test_wf_replay : (Instr.replay 1023 []).wf = true ∧ (Instr.replay 1024 []).wf = false := by decide
theorem test_wf_rail : (Instr.pwrGoodRise 5).wf = true ∧ (Instr.pwrGoodRise 6).wf = false := by decide
theorem test_wf_requester : (Requester.mp 3).wf = true ∧ (Instr.mbxTake (.mp 4)).wf = false := by decide
theorem test_wf_arbiter_slot : (Instr.arbReqWrite 31 0).wf = true ∧ (Instr.arbReqWrite 32 0).wf = false := by decide
theorem test_wf_arbiter : (Instr.arbiterGrant (.mem 15 63)).wf = true ∧ (Instr.arbiterGrant (.mem 15 64)).wf = false ∧
    (Instr.arbiterGrant (.port 24)).wf = false ∧ (Instr.arbiterGrant (.bank 127 32)).wf = false := by decide
theorem test_wf_die : (Instr.thermWarn 2 15 0).wf = true ∧ (Instr.thermWarn 3 0 0).wf = false ∧
    (Instr.thermWarn 0 16 0).wf = false := by decide
theorem test_wf_vfs : (Instr.numvfsWrite 256).wf = true ∧ (Instr.numvfsWrite 257).wf = false := by decide
theorem test_wf_width : (Instr.registerRead .host 0 8).wf = true ∧ (Instr.registerRead .host 0 3).wf = false := by decide
theorem test_wf_bar : (Instr.cfgWrite 134217727 0).wf = true ∧ (Instr.cfgWrite 134217728 0).wf = false := by decide
theorem test_wf_alias : (Instr.bitAliasWrite .host 0x5FFFFFC 1).wf = true ∧ (Instr.bitAliasWrite .host 0x6000000 1).wf = false ∧
    (Instr.bitAliasWrite .host 0x4000002 1).wf = false := by decide
theorem test_wf_section : (Instr.cfgEnd 12).wf = true ∧ (Instr.cfgEnd 13).wf = false ∧ (Instr.cfgEnd 3).wf = false := by decide

/-! ## The manual's worked examples -/

/-- Almanac (02_almanac.md, R35): y = +37.5 ppb loads 0x142 into the low word and 2 into the high word. -/
theorem test_increment : incrOfY (75 * 2 ^ 31) = 0x200000142 := by decide +kernel

/-- The MXFP8 block into windows of P = 8 and P = 10 (05_arithmetic.md R116, R118). -/
theorem test_mxfp8_narrow :
    ((Acc.slab 96 8 {} [(.fin 3 (-1), 0), (.fin (-7) (-10), 0)]).a,
      (Acc.slab 96 8 {} [(.fin 3 (-1), 0), (.fin (-7) (-10), 0)]).fl) = (383, 1) ∧
    ((Acc.slab 96 10 {} [(.fin 3 (-1), 0), (.fin (-7) (-10), 0)]).a,
      (Acc.slab 96 10 {} [(.fin 3 (-1), 0), (.fin (-7) (-10), 0)]).fl) = (1529, 0) := by decide +kernel

/-- Elements 0x3C, 0xB6, 0x40 and 0x08 of E4M3 are 1.5, −0.875, 2 and 2^-6 (05_arithmetic.md). -/
theorem test_e4m3_elements :
    ([(0x3C, 3, -1), (0xB6, -7, -3), (0x40, 2, 0), (0x08, 1, -6)].all (fun (x : Nat × Int × Int) =>
      match elemVal 0x04 x.1 with
      | .fin m e => sameFin m e x.2.1 x.2.2
      | _ => false)) = true := by decide +kernel

/-- The drain of 1,529 / 1,024 to BF16 in four ways (05_arithmetic.md R123 to R126). -/
theorem test_drain_bf16 :
    ([Rnd.rne, .rup, .stoch 0x513C02, .stoch 0xE41A07].map (fun r => (Acc.drain { a := 1529 } 10 0 1 r))) =
      [(0x3FBF, 16), (0x3FC0, 16), (0x3FBF, 16), (0x3FC0, 16)] := by decide +kernel

/-- The order of a BF16 sum: the tree gives 1 with INEXACT (05_arithmetic.md R119). -/
theorem test_bf16_order :
    ((treeAdd 4 ([(Val.fin 1 24, 0), (.fin 1 0, 0), (.fin 1 0, 0), (.fin (-1) 24, 0)] ++
      List.replicate 12 (.fin 0 0, 0))).2) = 1 := by decide +kernel

/-- A part of 20,000 compresses at width 9 with exponent 7 to the mantissa 156; a mantissa of 243 with exponent 4 expands to
3,888 (05_arithmetic.md R130). -/
theorem test_bfp :
    (satTo 9 (divRound 20000 (signedLen 20000 - 9))) = (156, false) ∧ signedLen 20000 - 9 = 7 ∧ expandPart 4 243 = (3888, 0) := by
  decide +kernel

/-- Offset 0x5_0000_5800 lies in stack 6 with all stacks live, and in stack 1 once bucket 22 has gone to survivor 1
(08_memory.md R204, R207). -/
theorem test_stack6 :
    stackOf State.reset 0x500005800 = 6 ∧ stackBy (some 1) [0, 1, 2, 3, 4, 5, 7, 8, 9, 10, 11, 12, 13, 14, 15] 5120 = 1 ∧
      stackBy none [0, 1, 2, 3, 4, 5, 7, 8, 9, 10, 11, 12, 13, 14, 15] 5120 = 5 := by decide +kernel

/-- The check value of the CRC-32: the sequence of the nine digits is 0xCBF43926. -/
theorem test_frame_check :
    leNat (frameCheck ([0x31, 0x32, 0x33, 0x34, 0x35, 0x36, 0x37, 0x38, 0x39].map (BitVec.ofNat 8))) = 0xCBF43926 := by
  decide +kernel

/-! ## Almanac: states that meet the hypotheses of the statements -/

/-- The servo RUNNING on PTP in a time state, with an upstream sub-port, a filtered delay, and a Sync and a Delay_Req of
sequence number 3 matched. -/
def stServo (ts : Nat) : State :=
  { st [(ALM_STATUS.STATE, 3, 0, 0), (ALM_CFG.SOURCE, 1, 0, 0), (ALM_STATUS.UP_VALID, 1, 0, 0),
      (ALM_STATUS.TIME_STATE, ts, 0, 0)] with
    servo := { mpd := some 0, lastMs := some 5, reqs := [(3, 7)] } }

theorem witness_AlmanacTick :
    (State.reset.clk.setPend = none ∧ State.reset.clk.stepPend = none ∧ State.reset.clk.servoStep = none ∧
      State.reset.clk.incrPend = none) ∧
    ({ State.reset with clk := { setPend := some 9 } } : State).clk.setPend = some 9 ∧
    ({ State.reset with clk := { stepPend := some (-4) } } : State).clk.stepPend = some (-4) ∧
    (({ State.reset with clk := { servoStep := some (-4) } } : State).sound ∧
      ({ State.reset with clk := { servoStep := some (-4) } } : State).clk.servoStep = some (-4)) ∧
    ({ State.reset with clk := { incrPend := some 8589934592 } } : State).clk.incrPend = some 8589934592 :=
  ⟨⟨rfl, rfl, rfl, rfl⟩, rfl, rfl, ⟨⟨rfl, rfl⟩, rfl⟩, rfl⟩

theorem witness_AlmanacReadLatches : State.reset.sound := ⟨rfl, rfl⟩

theorem witness_AlmanacTimeWrites :
    timeState State.reset = Ts.freeRun ∧ timeState (stServo 1) = Ts.acquiring ∧
    (timeState (stServo 2) ≠ Ts.freeRun ∧ timeState (stServo 2) ≠ Ts.acquiring ∧ (stServo 2).sound) ∧
    fnState State.reset almFn = Fn.stopped ∧ fnState (stServo 2) almFn = Fn.running :=
  ⟨by decide +kernel, by decide +kernel, ⟨by decide +kernel, by decide +kernel, rfl, rfl⟩, by decide +kernel,
    by decide +kernel⟩

theorem witness_AlmanacSamples :
    (ptpReady (stServo 2) 0 = true ∧ (stServo 2).servo.mpd = some 0 ∧ timeState (stServo 2) = Ts.locked ∧
      (65536000 : Int).natAbs ≤ (stServo 2).get ALM_OUTLIER * 65536 ∧
      (stServo 2).get ALM_OUTLIER * 65536 < (65536001 : Int).natAbs ∧ (stServo 2).servo.outlierRun < 7) ∧
    (timeState (stServo 1) = Ts.acquiring ∧ (stServo 1).get ALM_STEP_THRESH * 65536 < (65536001 : Int).natAbs ∧
      (stServo 1).servo.okRun + 1 < (stServo 1).get ALM_LOCK_COUNT) ∧
    (((stServo 2).set ALM_CFG.SOURCE 2).get ALM_CFG.SOURCE = 2 ∧
      timeState ((stServo 2).set ALM_CFG.SOURCE 2) = Ts.locked) ∧
    ((stServo 2).servo.reqs.find? (fun r => r.1 == 3) = some (3, 7) ∧ ptpMine (stServo 2) 24 0 = true ∧ (stServo 2).servo.lastMs = some 5) ∧ timeState (stServo 2) < Ts.holdover :=
  ⟨by decide +kernel, by decide +kernel, by decide +kernel, by decide +kernel, by decide +kernel⟩

theorem witness_AlmanacTimeStates :
    (({ stServo 1 with clk := { elapsed := 500000000 * 2 ^ 32 } } : State).servo.lastValid +
        (stServo 1).get ALM_LOSS_TIMEOUT ≤ nowNs { stServo 1 with clk := { elapsed := 500000000 * 2 ^ 32 } }) ∧
    (timeState (stServo 3) = Ts.holdover ∧ (stServo 3).servo.hoNext ≤ nowNs (stServo 3) ∧
      (stServo 3).servo.hoMark ≤ (stServo 3).servo.hoNext ∧
      (stServo 3).get ALM_HO_LIMIT * 65536000000000 < 1101 * 65536000000000) ∧
    (fnState State.reset almFn = Fn.stopped ∧ timeState State.reset ≠ Ts.locked ∧ almCheck State.reset = none ∧
      (st [(ALM_CFG.SOURCE, 3, 0, 0)]).get ALM_CFG.SOURCE = 3) ∧
    fnState (stServo 2) almFn = Fn.running ∧ fnState (stServo 1) almFn = Fn.running :=
  ⟨by decide +kernel, by decide +kernel, by decide +kernel, by decide +kernel, by decide +kernel⟩

theorem witness_AlmanacPulsesAndCaptures :
    ((pulseAt (setPulse State.reset 7 { next := some 0, fall := some 0 }) 7).next = some 0 ∧
      (pulseAt (setPulse State.reset 7 { next := some 0, fall := some 0 }) 7).fall = some 0) ∧
    (State.reset.get ALM_PLS_CTRL.MODE 7 ≠ getBits 2 0 2 ∧ getBits (2 : Word) 3 1 = 0) ∧
    (st [(ALM_CAPT_CTRL.EDGE, 3, 7, 0)]).get ALM_CAPT_CTRL.EDGE 7 = 3 ∧ (captAt State.reset 7).length ≤ 4 :=
  ⟨by decide +kernel, by decide +kernel, by decide +kernel, by decide +kernel⟩

/-! ## Calendar: states that meet the hypotheses of the statements -/

/-- The Calendar in a function state, a bank pending or not, with the swap fixed and the current entry ended at time 0. -/
def stCal (state pending valid : Nat) : State :=
  { st [(CAL_STATUS.STATE, state, 0, 0), (CAL_STATUS.PENDING, pending, 0, 0), (CAL_STATUS.ACTIVE_VALID, valid, 0, 0)] with
    cal := { pendBank := 1, swapAt := some 0, armCode := Code.denied, armIdx := some 1023 } }

theorem witness_CalendarArming :
    (State.reset.sound ∧ State.reset.get CAL_STATUS.ARMING = 0 ∧ (st [(CAL_BANK_LEN, 0, 1, 0)]).get CAL_BANK_LEN (bankNo true) = 0) ∧
    ((st [(CAL_STATUS.ARMING, 1, 0, 0)]).sound ∧ (st [(CAL_STATUS.ARMING, 1, 0, 0)]).get CAL_STATUS.ARMING = 1) ∧
    ((stCal 0 0 0).sound ∧ ((stCal 0 0 0).set CAL_STATUS.ARMING 1).cal.armCode < 256 ∧
      ((stCal 0 0 0).set CAL_STATUS.ARMING 1).cal.armIdx = some 1023) ∧
    ((stCal 2 1 0).get CAL_STATUS.PENDING = 1 ∧ (stCal 2 1 0).get CAL_STATUS.ARMING = 0) ∧
    ((bankOfOff 0x38000).isSome = true ∧ (regAt 0x38000).isSome = true ∧ bankLocked State.reset 0 = false ∧
      (bankOfOff 0x38000 = some 0 ∨ bankOfOff 0x38000 = some 1) ∧ bankLocked (stCal 2 1 0) 1 = true) :=
  ⟨by decide +kernel, by decide +kernel, by decide +kernel, by decide +kernel, by decide +kernel⟩

theorem witness_CalendarRuns :
    (fnState (stCal 1 1 0) calFn = Fn.stopped ∧ (stCal 1 1 0).get CAL_STATUS.PENDING = 1 ∧
      State.reset.get CAL_STATUS.PENDING = 0 ∧ fnState State.reset calFn = Fn.stopped) ∧
    (fnState (stCal 3 0 1) calFn = Fn.running ∧ anyCellRunning (stCal 3 0 1) = false ∧
      anyCellRunning { (stCal 3 0 1).set CODEC_CELL_STATUS.STATE Fn.running 511 with cells := [(511, {})] } = true) ∧
    ((stCal 2 1 0).cal.swapAt = some 0 ∧ (stCal 2 1 0).cal.deferred = [] ∧ (stCal 2 1 0).winPend = [] ∧
      (stCal 2 1 0).cal.measuring = false ∧ (stCal 2 1 0).cal.pendBank < 2 ∧ fnState (stCal 2 1 0) calFn = Fn.starting ∧
      fnState (stCal 3 1 1) calFn = Fn.running ∧ (stCal 3 1 1).cal.endAt ≤ (stCal 3 1 1).clk.elapsed ∧
      (stCal 2 1 0).cal.resync = false ∧ 0 ≤ endN (stCal 3 1 1)) :=
  ⟨by decide +kernel, by decide +kernel, by decide +kernel⟩

theorem witness_CalendarEntries :
    ((stCal 3 0 1).sound ∧ calActive (stCal 3 0 1) = true ∧ (stCal 3 0 1).cal.endAt ≤ (stCal 3 0 1).clk.elapsed ∧
      swapDue (stCal 3 0 1) = false ∧ (stCal 3 0 1).cal.resync = false ∧ fnState (stCal 3 0 1) calFn ≠ Fn.stopping ∧
      (stCal 3 0 1).cal.endOff < bankCycle (stCal 3 0 1) (activeBank (stCal 3 0 1))) ∧
    (mapGet (fun _ => 0) State.reset.cal.tbNext (3 * 255 + 2) ≤ nowNs State.reset ∧ tbOn State.reset 255 2 = false ∧
      tbOn (st [(CAL_TB_CTRL.W, 7, 255, 0)]) 255 2 = true ∧
      (st [(CAL_TB_CTRL.W, 7, 255, 0)]).getS (tbTokens 2) 255 ≤ 0) ∧
    nowNs State.reset < mapGet (fun _ => 0) ({ State.reset with cal := { tbNext := [(767, 1000)] } } : State).cal.tbNext 767 :=
  ⟨by decide +kernel, by decide +kernel, by decide +kernel⟩

/-! ## The array: states that meet the hypotheses of the statements -/

/-- Core 127's array in a state, with a record, at a time of the core's cycles. -/
def stArr (state level_ now : Nat) (a : Arr) : State :=
  { st [(CORE_ARR_STATUS.STATE, state, 127, 0), (CORE_ARR_LANTERN.LEVEL, level_, 127, 0)] with
    cores := [(127, { arr := a })], clk := { ticks := 2 * now } }

theorem witness_ArrayFunction :
    (State.reset.sound ∧ arrState State.reset 127 = Fn.stopped ∧ domOn State.reset 127 = true ∧
      domOn (st [(PWR_DOM_ON, 0, 3, 0)]) 127 = false) ∧
    (arrState (stArr 2 0 0 {}) 127 = Fn.starting ∧ arrState (stArr 3 8 0 {}) 127 = Fn.running ∧
      gatesOf (stArr 3 8 0 {}) 127 &&& 7 = 0 ∧
      gatesOf ({ stArr 3 8 0 {} with cal := { gates := [(127, 4)] } } : State) 127 &&& 7 ≠ 0) ∧
    ((coreAt (stArr 2 0 13978 {}) 127).check = 0 ∧ startCycles ≤ cycleNow (stArr 2 0 13978 {})) ∧
    ((arrAt (stArr 4 3 100 { since := some 7 }) 127).since = some 7 ∧
      7 + 288 ≤ cycleNow (stArr 4 3 100 { since := some 7 })) :=
  ⟨by decide +kernel, by decide +kernel, by decide +kernel, by decide +kernel⟩

theorem witness_LanternLevel :
    (arrState (stArr 3 8 60 {}) 127 = Fn.running ∧ (coreAt (stArr 3 8 60 {}) 127).fly = [] ∧
      radioOpen (stArr 3 8 60 {}) 127 = false ∧ rampDue (stArr 3 8 60 {}) 127 true = false ∧
      (arrAt (stArr 3 8 60 {}) 127).mark + 64 ≤ cycleNow (stArr 3 8 60 {}) ∧
      radioOpen ({ stArr 3 7 20 { dir := 1 } with cal := { atCore := [(127, 1)] } } : State) 127 =
        true) ∧
    (arrState (stArr 2 7 20 {}) 127 = Fn.starting ∧ level (stArr 2 7 20 {}) 127 < 8) ∧
    (arrAt (stArr 4 3 100 { since := some 7 }) 127).since = some 7 :=
  ⟨by decide +kernel, by decide +kernel, by decide +kernel⟩

/-! ## Cores and streams: states that meet the hypotheses of the statements -/

/-- A number from its fields: the place of the lowest bit, and the value. -/
def bits (l : List (Nat × Nat)) : Nat := (l.map (fun x => x.2 * 2 ^ x.1)).sum

/-- Core 127 with every gate open and context 5 of the physical function in slot 0, at a time in ticks; words of 32 bytes stand at
indices of the slot's region, after one loop record of zeros. -/
def stCore (now : Nat) (words : List (Nat × Nat)) (y : Ctx) (k : Core) : State :=
  { st [(CORE_ARR_STATUS.STATE, 3, 127, 0), (CORE_ARR_LANTERN.LEVEL, 8, 127, 0), (CORE_DBG_CTRL.SLOT, 0, 127, 0)] with
    clk := { ticks := now, elapsed := now * 2 ^ 33 }, cal := { atCore := [(127, 15)] }, ctxs := [(5, y)]
    cores := [(127, { k with slots := [(0, { k.slot 0 with valid := true, ctx := 5, size := 16 })] })]
    mems := { cmd := words.foldl (fun m w => wrBytes m (127 * 0x40000 + w.1 * 32) (bytesLe 32 w.2)) [] } }

/-- A RESIDENT context with a job whose four streams hold commands from a place on, and with an image of a class. -/
def ctxRun (cls at_ : Nat) : Ctx :=
  { state := 3, job := true, fn := 256, core := some 127
    live := { streams := (List.range 4).map (fun t => (t, { pc := at_ })) }
    img := { cls := cls, loops := 1, cmds := 2, kern := 4, debug := true, first := [8, 8, 8, 8], last := [9, 9, 9, 9] } }

/-- The state in which a command word is the head of its stream. -/
def stIssue (cls w : Nat) (k : Core) : State := stCore 0 [(8, w)] (ctxRun cls 8) k

/-- The hypotheses of StreamIssue for a row and a command word. -/
def issueFits (i : Instr) (w : Nat) : Bool :=
  let s := stIssue 1 w { run := some 0 }
  match issueOf i with
  | some (n, st, op, sub) =>
    match headOf s n 0 st with
    | some h => decide (n < 128) && decide (st < 4) && decide (accumHeld s n = s) && mayIssue s n st 0 h &&
        decide (cmdKind h.cmd = (op, sub))
    | none => false
  | none => false

theorem witness_StreamIssue_plain :
    ([(Instr.nop 127 3, []), (.dynq 127 2, [(248, 1), (176, 5)]), (.boundary 127 0, [(248, 2)]),
      (.signal 127, [(248, 0x40)])].all (fun x => issueFits x.1 (bits x.2))) = true := by decide +kernel

theorem witness_StreamIssue_matrix :
    ([Instr.matmul 127 [], .ewMul 127, .ewFma 127, .ewAdd 127].zipIdx.all (fun x =>
      issueFits x.1 (bits [(248, 0x10), (174, if x.2 = 2 then 0 else 15), (148, x.2)]))) = true := by decide +kernel

theorem witness_StreamIssue_vector :
    ([(Instr.vecConvert 127, 0), (.vecAdd 127, 1), (.vecSub 127, 2), (.vecMul 127, 3), (.vecFma 127, 4), (.vecMax 127, 5),
      (.vecMin 127, 6), (.scale 127, 7), (.addi 127, 8), (.exp 127, 0x10), (.recip 127, 0x11), (.rsqrt 127, 0x12),
      (.tanh 127, 0x13), (.gelu 127, 0x14), (.rsum 127, 0x20), (.rmax 127, 0x21), (.rsumsq 127, 0x22)].all (fun x =>
      issueFits x.1 (bits [(248, 0x20), (186, x.2)]))) = true := by decide +kernel

theorem witness_StreamIssue_argmax : issueFits (.argmax 127) (bits [(248, 0x20), (186, 0x23), (180, 3)]) = true := by
  decide +kernel

theorem witness_StreamIssue_access :
    ([(Instr.move 127 [], 0, 64), (.bfpExpand 127, 1, 25), (.bfpCompress 127, 2, 48), (.fill 127, 3, 64), (.waitMem 127, 4, 4),
      (.fence 127, 6, 1)].all (fun x => issueFits x.1 (bits [(248, 0x30), (186, x.2.1), (141, x.2.2)]))) = true := by
  decide +kernel

theorem witness_StreamIssue_atomic :
    ([Instr.atomicAdd32 127, .atomicAdd64 127, .atomicAnd64 127, .atomicOr64 127, .atomicXor64 127, .atomicMaxu64 127,
      .atomicMinu64 127, .atomicSwap64 127, .atomicCas64 127].zipIdx.all (fun x =>
      issueFits x.1 (bits [(248, 0x30), (186, 5), (183, 3), (141, 8), (85, x.2)]))) = true := by decide +kernel

/-- A dynamic entry at the head of a stream that takes from its queue. -/
def stDyn : State :=
  let y := ctxRun 1 8
  stCore 0 [(8, 0)] { y with
    live := { streams := [(0, { pc := 9, dynLeft := 1, dynq := [BitVec.ofNat 64 (8 * 2 ^ 52)] })] }
    img := { y.img with dyn := [(8, [])] } } { run := some 0 }

theorem witness_StreamIssue_entry : (headOf stDyn 127 0 0).any (fun h => h.entry.isSome && mayIssue stDyn 127 0 0 h) = true := by
  decide +kernel

/-- An idle record of a SIGNAL command of slot 0, alone in flight. -/
def flySig : Inflight := { slot := 0, stream := 3, idx := 8, cmd := BitVec.ofNat 256 (bits [(248, 0x40)]), units := 1 }

/-- Its kernel at instruction 0, which is the given one, with the given one after it. -/
def stKern (i j : Nat) (sca : Nat) : State :=
  stCore 0 [(10, i + j * 2 ^ 64)] (ctxRun 1 9) { run := some 0, fly := [flySig], sig := { pc := some 0, sc := [(7, sca)] } }

/-- The hypotheses of SignalData for a row, an OP and modes: M0 with AR0 = 7, M1 with AR1 = 6. -/
def dataFits (row : Instr) (op m0 m1 : Nat) : Bool :=
  let w := bits [(58, op), (53, 15), (49, 15), (45, 14), (42, 7), (41, m0), (38, 6), (37, m1), (33, 8)]
  let s := stKern w 0 1
  let i := BitVec.ofNat 64 w
  let e := sigAt s 127
  decide (sigDataOf row = some (127, op)) && decide (sigOp i = op) && decide (sigFly s 127 = some flySig) &&
    decide (accumHeld s 127 = s) && decide (i = fetchKern s 127 ((coreAt s 127).slot 0) (ctxRun 1 9).img 0) &&
    (match sigOperand s 127 (sigReadsA op) (m0 == 1 && sigReadsA op) 7 (sigVa i),
        sigOperand s 127 (sigReadsB op) (m1 == 1 && (sigReadsB op || op == 3)) 6 (sigVb i) with
      | .ok _, .ok _ => op != 3 || lineOk e 6
      | _, _ => false)

theorem witness_SignalData :
    ([(Instr.sigLd 127, 2, 1, 0), (.sigSt 127, 3, 0, 1), (.sigAdd 127, 4, 0, 0), (.sigSub 127, 5, 1, 1), (.cmul 127, 6, 0, 1),
      (.cmulc 127, 7, 0, 0), (.cmac 127, 8, 1, 0), (.accrd 127, 9, 0, 0), (.mag2 127, 10, 1, 0), (.sigMax 127, 11, 0, 0)].all
      (fun x => dataFits x.1 x.2.1 x.2.2.1 x.2.2.2)) = true := by decide +kernel

/-- The hypotheses sigHere of SignalControl for an instruction word. -/
def ctlFits (w j sca : Nat) : Bool :=
  let s := stKern w j sca
  decide ((sigAt s 127).pc = some 0) && decide (sigFly s 127 = some flySig) && decide ((sigAt s 127).rep = 0) &&
    !(sigAt s 127).late && decide (accumHeld s 127 = s) &&
    decide (BitVec.ofNat 64 w = fetchKern s 127 ((coreAt s 127).slot 0) (ctxRun 1 9).img 0)

theorem witness_SignalControl :
    (ctlFits (bits [(58, 0x10), (53, 7), (49, 7), (0, 65535)]) 0 9 = true) ∧
    (ctlFits (bits [(58, 0x11), (53, 7), (49, 7), (0, 65535)]) 0 9 = true) ∧
    (ctlFits (bits [(58, 0x12), (53, 7), (0, 3)]) 0 1 = true ∧ ctlFits (bits [(58, 0x12), (53, 7), (0, 3)]) 0 2 = true ∧
      sigImm (BitVec.ofNat 64 (bits [(58, 0x12), (53, 7), (0, 3)])) < (ctxRun 1 9).img.kern) ∧
    (ctlFits (bits [(58, 0x01), (0, 65535)]) (bits [(58, 4)]) 0 = true ∧
      sigOp (fetchKern (stKern (bits [(58, 0x01), (0, 65535)]) (bits [(58, 4)]) 0) 127
        ((coreAt (stKern 0 0 0) 127).slot 0) (ctxRun 1 9).img 1) = 4) ∧
    (ctlFits 0 0 0 = true ∧ (coreAt (stKern 0 0 0) 127).fly = [flySig] ∧ flySig.units = flySig.unit + 1 ∧
      boundPtrs flySig.cmd = [] ∧ boundQ flySig.cmd (outPtr flySig.cmd) = none) :=
  ⟨by decide +kernel, by decide +kernel, by decide +kernel, by decide +kernel, by decide +kernel⟩

/-- A command of stream 0 alone in flight that has run its units, its context waiting for nothing else. -/
def stDone (w : Nat) (armed : Bool) (tok : List (Nat × Nat)) : State :=
  let y := ctxRun 1 9
  stCore 1000 [] { y with live := { y.live with tokens := tok } } {
    run := some 0, slots := [(0, { armed := armed })]
    fly := [{ slot := 0, stream := 0, idx := 8, cmd := BitVec.ofNat 256 w, units := 0 }] }

/-- The hypotheses of CommandCompletes for a command word. -/
def doneFits (w : Nat) (armed : Bool) (tok : List (Nat × Nat)) : Bool :=
  let s := { accumHeld (stDone w armed tok) 127 with clTok := [(256 * 15 + 255, 65520)] }
  (coreAt s 127).fly.any (fun f => decide (accumHeld s 127 = s) && decide ((coreAt s 127).fly = [f]) && f.replay.isNone &&
    reached s 127 f && decide ((ctxAt s 5).img.link f.idx = 0) && !behindReplay s 5 f &&
    (signalToken s 127 5 f.cmd).isSome) &&
  decide (((coreAt s 127).slot 0).armed = armed)

theorem witness_CommandCompletes :
    (doneFits (bits [(248, 2), (180, 4095)]) false [] = true ∧ doneFits (bits [(248, 2), (180, 4095)]) true [] = true ∧
      doneFits (bits [(210, 15), (206, 15)]) false [(15, 65520)] = true ∧
      doneFits (bits [(218, 1), (210, 255), (206, 15)]) false [] = true) ∧
    mayStay (stDone 0 false []) 127 5 :=
  ⟨by decide +kernel, by unfold mayStay; decide +kernel⟩

/-- Data queue 3 of the running context with entries in every stage. -/
def stQueue : State :=
  let y := ctxRun 1 9
  stCore 0 [] { y with live := { y.live with dataqs := [(3, { alloc := 5, written := 4, pushed := 3, taken := 3, readDone := 2, freed := 1 })] } }
    { run := some 0 }

theorem witness_CommandCompletes_queues :
    accumHeld stQueue 127 = stQueue ∧ unitsDone stQueue 127 ∧ (coreAt stQueue 127).run = some 0 ∧
    ((ctxAt stQueue 5).live.dataq 3).pushed < ((ctxAt stQueue 5).live.dataq 3).written ∧
    ((ctxAt stQueue 5).live.dataq 3).freed < ((ctxAt stQueue 5).live.dataq 3).readDone := by
  refine ⟨by decide +kernel, ?_, by decide +kernel, by decide +kernel, by decide +kernel⟩
  intro f hf
  have : (coreAt stQueue 127).fly = [] := by decide +kernel
  rw [this] at hf; cases hf

/-- No context runs, or the idle one of slot 1 does: slot 0 is best. -/
def stSwitch (run : Option Nat) (now : Nat) : State := stCore now [(8, 0)] (ctxRun 1 8) { run := run, lastFn := some 3 }

/-- A command waits for 15 tokens at the head of stream 0, for a time in ns. -/
def stHeld (ns : Nat) : State :=
  stCore (ns / 2) [(8, bits [(219, 15)])]
    { ctxRun 1 9 with live := { streams := [(0, { pc := 8 }), (1, { pc := 9 }), (2, { pc := 9 }), (3, { pc := 9 })] } }
    { run := some 0 }

/-- A TENANT command of a stream alone in flight, with the bound 100 ns, at 100 ns. -/
def stBound (f : Inflight) (rep : Nat) : State :=
  stCore 50 [] (ctxRun 2 9) { run := some 0, fly := [{ f with units := 1, unit := 1, bound := some 100 }], sig := { rep := rep }, slots := [(0, { heldMark := 100 })] }

/-- A gate change on its way to core 127, due now. -/
def stGate : State := { stCore 12 [] (ctxRun 1 9) {} with
  cal := { path := [(127, [{ due := 12 * 2 ^ 33, gates := 9, hardOpen := true }])] } }

theorem witness_CoreSwitches :
    ([none, some 1].all (fun r => decide (accumHeld (stSwitch r 0) 127 = stSwitch r 0) && (coreAt (stSwitch r 0) 127).fly.isEmpty &&
      mayLeave (stSwitch r 0) 127 && decide (bestSlot (stSwitch r 0) 127 = some 0)) = true) ∧
    ((accumHeld (accumHeld (stHeld 1000000) 127) 127 = accumHeld (stHeld 1000000) 127) ∧
      allHeld (accumHeld (stHeld 1000000) 127) 127 0 = true ∧ 1000000 ≤ heldTime (accumHeld (stHeld 1000000) 127) 127 0) ∧
    (accumHeld (stBound flySig 3) 127 = stBound flySig 3 ∧ (sigAt (stBound flySig 3) 127).rep ≠ 0) ∧
    (accumHeld (stBound { flySig with stream := 0, cmd := 0 } 0) 127 = stBound { flySig with stream := 0, cmd := 0 } 0 ∧
      0 + 100 ≤ nowNs (stBound flySig 0)) ∧
    ((gatePath stGate 127).map (·.due) = [12 * 2 ^ 33] ∧ 12 * 2 ^ 33 ≤ stGate.clk.elapsed) :=
  ⟨by decide +kernel, by decide +kernel, by decide +kernel, by decide +kernel, by decide +kernel⟩

/-- A TENANT WAIT_MEM for the word 5 heads stream 0 of the running context; the word read last, 250 ns ago, was 4. -/
def stPoll : State :=
  accumHeld (stCore 125 [(8, bits [(248, 0x30), (186, 4), (141, 4), (53, 5)])]
    { ctxRun 2 9 with live := { streams := [(0, { pc := 8, word := some 4 })] } } { run := some 0 }) 127

/-- The hypotheses of CoreSwitches for a poll. -/
def pollFits (s : State) : Bool :=
  match headOf s 127 0 0 with
  | some h =>
    let y := ctxAt s 5
    let p := headP0 s 127 ((coreAt s 127).slot 0) h
    let sp := (accOf h.cmd).sp0
    wordDue s 127 0 0 h && !isRemote s sp p &&
    decide (rangeCode s (rightsOf y (mkFly s 127 0 0 h)) none sp p 4 false = Code.done) &&
    !((localBytes s 127 sp p 4).any (·.2)) &&
    (List.range 16).all (fun i => i == 0 || (match headOf s 127 (i / 4) (i % 4) with
      | some k => !wordDue s 127 (i / 4) (i % 4) k
      | none => true))
  | none => false

theorem witness_CoreSwitches_poll :
    accumHeld stPoll 127 = stPoll ∧ (coreAt stPoll 127).fly = [] ∧ (coreAt stPoll 127).run = some 0 ∧ pollFits stPoll = true :=
  ⟨by decide +kernel, by decide +kernel, by decide +kernel, by decide +kernel⟩

/-- A slot whose dynamic queue 3 holds a number of entries. -/
def stPush (k pacing : Nat) : State :=
  let y := ctxRun 1 9
  stCore 0 [] { y with
    live := { y.live with streams := [(3, { dynq := List.replicate k 7 })] }, img := { y.img with pacing := pacing } } {}

/-- Slot 0, halted or not, with commands in flight, of an image with debug or without. -/
def stDbg (dbg halted : Bool) (fly : List Inflight) : State :=
  let y := ctxRun 1 9
  stCore 0 [] { y with img := { y.img with debug := dbg } } { slots := [(0, { halted := halted })], fly := fly }

theorem witness_CoreDebug :
    ((coreAt (stPush 31 0) 127).stall = none ∧ (coreAt (stPush 31 0) 127).cpHalted = false ∧
      ((coreAt (stPush 31 0) 127).slot 0).valid = true ∧ ((ctxAt (stPush 31 0) 5).live.stream 3).dynq.length = 31 ∧
      ((ctxAt (stPush 32 1) 5).live.stream 3).dynq.length = 32 ∧ (ctxAt (stPush 32 1) 5).img.pacing = 1) ∧
    (([true, false].all (fun d => [true, false].all (fun h => [[], [flySig]].all (fun l =>
      let s := stDbg d h l
      decide (accumHeld s 127 = s) && decide s.sound && decide (s.get CORE_DBG_CTRL.SLOT 127 = 0) && ((coreAt s 127).slot 0).valid &&
        ((ctxAt s 5).img.debug == d) && (((coreAt s 127).slot 0).halted == h) &&
        ((coreAt s 127).fly.any (fun f => f.slot == 0) == !l.isEmpty))))) = true) :=
  ⟨by decide +kernel, by decide +kernel⟩

/-! ## Images: states that meet the hypotheses of the statements -/

/-- Function f RUNNING with rings of 16 entries, one entry in its submission ring, and bytes in device memory from an address. -/
def stRing (f typ : Nat) (a b len : Nat) (at_ : Nat) (mem : Bytes) : State :=
  { st [(HOST_STATUS.STATE, 3, 0, 0), (HOST_FN_STATUS.STATE, 3, f, 0), (HOST_FN_RING_SIZE.SUB, 4, f, 0),
      (HOST_FN_RING_SIZE.RES, 4, f, 0), (HOST_FN_RING_SIZE.CPL, 4, f, 0), (HOST_FN_SUB_BASE_LO, 0x1000, f, 0),
      (HOST_FN_SUB_TAIL, 1, f, 0), (CAL_BANK_BOUND, 8000, 0, 0), (CAL_BANK_BOUND, 8000, 1, 0)] with
    mems := { host := wrBytes [] 0x1000 (bytesLe 8 typ ++ bytesLe 8 77 ++ bytesLe 8 a ++ bytesLe 8 b ++ bytesLe 8 len)
              dev := wrBytes [] at_ mem } }

/-- The hypotheses entryReady for a ring. -/
def ringFits (s : State) (f typ : Nat) : Bool :=
  match entryAt s f with
  | some e => decide s.sound && decide (f ≤ 256) && !e.bad && decide (e.typ = typ) &&
      !ringFull (s.get HOST_FN_RES_TAIL f) (s.get HOST_FN_RES_HEAD f) (ringLen (s.get HOST_FN_RING_SIZE.RES f)) &&
      !ringFull (s.get HOST_FN_CPL_TAIL f) (s.get HOST_FN_CPL_HEAD f) (ringLen (s.get HOST_FN_RING_SIZE.CPL f))
  | none => false

/-- A TENANT image of one NOP: header, a section table of one entry, and an OPS section of one record. -/
def imgNop (major : Nat) : Bytes :=
  bytesLe 4 0x334D484F ++ bytesLe 1 major ++ bytesLe 1 0 ++ bytesLe 2 2 ++ bytesLe 4 192 ++ bytesLe 4 9 ++ bytesLe 4 1 ++
    List.replicate 44 0 ++ bytesLe 2 1 ++ bytesLe 2 0 ++ bytesLe 4 128 ++ bytesLe 4 64 ++ bytesLe 4 0 ++ List.replicate 48 0 ++
    bytesLe 8 5 ++ List.replicate 56 0

/-- Reading the submitted image, and loading it. -/
def loadsTo (s : State) (f : Nat) : Option (Nat × Nat) :=
  match entryAt s f with
  | some e =>
    match imageBytes (fetched s f) f e.a with
    | .error r => some (r.code, r.reason)
    | .ok b =>
      match loadImage (fetched s f) f b with
      | .error r => some (r.code, r.reason)
      | .ok l => some (256, l.shares.length)
  | none => none

theorem witness_ImageLoading_image :
    (ringFits (stRing 256 0 0x10000 0 0 0x10000 (imgNop 3)) 256 0 = true ∧
      loadsTo (stRing 256 0 0x10000 0 0 0x10000 (imgNop 3)) 256 = some (256, 1)) ∧
    (ringFits (stRing 256 0 0x10000 0 0 0x10000 (imgNop 4)) 256 0 = true ∧
      loadsTo (stRing 256 0 0x10000 0 0 0x10000 (imgNop 4)) 256 = some (Code.hallmarkReject, 2)) ∧
    (ringFits (stRing 3 0 0x10000 0 0 0x10000 (imgNop 3)) 3 0 = true ∧
      loadsTo (stRing 3 0 0x10000 0 0 0x10000 (imgNop 3)) 3 = some (Code.windowViolation, 8)) :=
  ⟨by decide +kernel, by decide +kernel, by decide +kernel⟩

/-- The mailbox claimed by the host, with arguments. -/
def stMbx (args : List Nat) (l : List (Fld × Nat × Nat × Nat)) : State :=
  st ([(MBX_CLAIM.HELD, 1, 0, 0), (MBX_CLAIM.OWNER, 1, 0, 0)] ++ args.zipIdx.map (fun a => (MBX_ARG, a.1, a.2, 0)) ++ l)

/-- The requester's command passes: what mbxReady and a check of DONE ask. -/
def mbxFits (s : State) (op : Nat) (check : State → Nat) : Bool :=
  decide s.sound && !s.bit MBX_STATUS.BUSY && s.bit MBX_CLAIM.HELD && decide (s.get MBX_CLAIM.OWNER = ownerCode .host) &&
    decide (check (mbxTaken s .host op) = Code.done)

theorem witness_ImageLoading_reload :
    mbxFits { stMbx [127 + 4096, 0x10000, 0] [] with cores := [(127, { slots := [(0, { valid := true, size := 16 })] })] }
      0x02 reloadCheck = true := by decide +kernel

/-- Slot 0 of core 127 awaits the copy of an image of 64 bytes. -/
def stCopy : State :=
  { st [(CORE_ARR_STATUS.STATE, 3, 127, 0)] with
    cores := [(127, { slots := [(0, { valid := true, size := 16, copying := true, reload := some { bytes := [7] } })] })] }

theorem witness_ImageLoading_copy :
    ((coreAt stCopy 127).slot 0).copying = true ∧ ((coreAt stCopy 127).slot 0).reload.isSome = true ∧
      (coreAt stCopy 127).maint.any (fun a => a.kind == Act.imageCopy && a.arg == 0) = false ∧ coreServes stCopy 127 = true ∧
      actFits stCopy 127 (actLen Act.imageCopy 1) = true :=
  ⟨by decide +kernel, by decide +kernel, by decide +kernel, by decide +kernel, by decide +kernel⟩

/-- All four streams of the context parked, a reload armed. -/
def stArmed : State :=
  stCore 0 [] { ctxRun 1 9 with live := { streams := (List.range 4).map (fun t => (t, { pc := 8, parked := some (20 + t) })) } }
    { run := some 0, slots := [(0, { armed := true, reload := some {} })] }

theorem witness_ImageLoading_switch :
    ((coreAt stArmed 127).slot 0).valid = true ∧ ((coreAt stArmed 127).slot 0).armed = true ∧
      ((List.range 4).all (streamRests stArmed 127 0)) = true ∧ ((coreAt stArmed 127).slot 0).reload = some {} :=
  ⟨by decide +kernel, by decide +kernel, by decide +kernel, by decide +kernel⟩

/-! ## Device memory and its arbiters -/

theorem witness_StackRetirement_retire :
    mbxFits (stMbx [15] [(MEM_ALLOC_TOP, 1000, 0, 0)]) 0x10 retireStackCheck = true ∧
      mbxFits (stMbx [0] [(MEM_ALLOC_TOP, 15 * 49152, 0, 0)]) 0x10 retireStackCheck = true :=
  ⟨by decide +kernel, by decide +kernel⟩

/-- Stack 3 moves; the new map is in force or not. -/
def stMove (on : Bool) (bucket row : Nat) : State :=
  { st [(MEM_STATUS.MOVING, 1, 0, 0), (MEM_STATUS.MOVE_STACK, 3, 0, 0), (MEM_STATUS.LIVE, 0xFFFF, 0, 0)] with
    move := { on := on, bucket := bucket, row := row, allow := 1024 } }

theorem witness_StackRetirement_switch :
    (stMove false 0 0).bit MEM_STATUS.MOVING = true ∧ (stMove false 0 0).move.on = false ∧
      (stMove false 0 0).behaveReset = [] := ⟨by decide +kernel, by decide +kernel, by decide +kernel⟩

theorem witness_StackRetirement_copy :
    1024 ≤ moveAllow (stMove true 0 0) ∧
    (nextUnit (stMove true 0 0) (liveStacks (stMove true 0 0)) (survivors (stMove true 0 0)) 4097 0 1).isSome = true ∧
    nextUnit (stMove true 4095 184319) (liveStacks (stMove true 4095 184319)) (survivors (stMove true 4095 184319)) 4097 4095
      184320 = none := ⟨by decide +kernel, by decide +kernel, by decide +kernel⟩

/-- Channel 15 RUNNING in a domain that is on. -/
def stChan : State := st [(MEMCH_STATUS.STATE, 3, 15, 0), (PWR_DOM_ON, 0xFFFFFFFF, 4, 0)]

theorem witness_StackRetirement_scrub :
    stChan.get MEMCH_STATUS.STATE 15 = Fn.running ∧ (scrubAt stChan 15).since = some 0 ∧ 0 ≤ nowNs stChan ∧
      (scrubAt stChan 15).next * scrubTime stChan 15 ≤ (nowNs stChan - 0) * stackBursts ∧
      stChan.get MEMCH_STATUS.STATE 0 ≠ Fn.running ∧ domOn stChan (144 + 0) = true ∧
      (stChan.get MEM_STATUS.LIVE).testBit 0 = true ∧ stChan.get MEMCH_STATUS.STATE 0 = Fn.stopped :=
  ⟨by decide +kernel, by decide +kernel, by decide +kernel, by decide +kernel, by decide +kernel, by decide +kernel,
    by decide +kernel, by decide +kernel⟩

/-- Two requests wait at a pseudo-channel, that of requester 3 with a cluster port's quota all but spent. -/
def stArb (owner : Option Nat) (spent : Nat) (locked : Bool) : State :=
  { st [] with
    clk := { n := 1000000, elapsed := 1000000 * 2 ^ 32 }
    arbs := [(64 * 15 + 63, { reqs := [(3, [{ stamp := 40, beats := 6 }]), (24, [{ stamp := 50, beats := 2 }])],
                              owner := owner, spent := spent, locked := locked })] }

theorem witness_Arbitration_grant :
    feedHolds (stArb none 0 false) (arbKey (.mem 15 63)) = false ∧
    (grantedTo (noteDeferred (stArb none 0 false) 1023) (arbKey (.mem 15 63))).isSome = true ∧
    grantedTo (noteDeferred (stArb (some 24) 1 true) 1023) (arbKey (.mem 15 63)) = some (24, false) :=
  ⟨by decide +kernel, by decide +kernel, by decide +kernel⟩

theorem witness_Arbitration_promote :
    (arbCfg (stArb none 0 false) 1023 3).urg ≠ 0 ∧
    ¬((arbCfg (stArb none 0 false) 1023 3).rank = 2 ∧ (arbAt (stArb none 0 false) 1023).masked.elem 3 = true) ∧
    (promoteFirst (nowN (stArb none 0 false)) (arbCfg (stArb none 0 false) 1023 3).urg
      ((arbAt (stArb none 0 false) 1023).queue 3)).isSome = true ∧
    (arbAt (stArb none 0 false) 1023).window ≠ nowN (stArb none 0 false) / arbWindow 1023 :=
  ⟨by decide +kernel, by decide +kernel, by decide +kernel, by decide +kernel⟩

/-- Entries that a write keeps, and one it stores. -/
theorem witness_Arbitration_write :
    452 < highSum (st []) 16 (0x8FF00000#32) ∧
    ¬(getBits (putBits (0x40000000#32) 11 1 0) 30 2 = 3 ∨ getBits (putBits (0x40000000#32) 11 1 0) 28 2 = 3 ∨
      452 < highSum (st []) 28 (putBits (0x40000000#32) 11 1 0)) :=
  ⟨by decide +kernel, by decide +kernel⟩

/-! ## The host interface and the rings: states that meet the hypotheses of the statements -/

/-- Function set f present and STOPPED with ring sizes of k, in a domain that is on. -/
def stFn (f k : Nat) : State := st [(HOST_NUM_VF, 4, 0, 0), (HOST_FN_STATUS.STATE, 1, f, 0), (HOST_FN_RING_SIZE.SUB, k, f, 0),
  (HOST_FN_RING_SIZE.RES, 4, f, 0), (HOST_FN_RING_SIZE.CPL, 12, f, 0)]

/-- A job of function 3 in group 7. -/
def grpBusy : List (Nat × Group) := [(7, { ctxs := [9], fn := 3, job := some { fn := 3, user := 1 } })]

/-- The window staged for the physical function. -/
def stWin (l : List (Fld × Nat × Nat × Nat)) : State :=
  st ([(HOST_WIN_SEL.F, 256, 0, 0), (HOST_WIN_SEL.WINDOW, 2, 0, 0), (HOST_WIN_ATTR.VALID, 1, 0, 0), (HOST_WIN_SIZE, 1, 0, 0), (HOST_WIN_BASE_LO, 0x80000000, 0, 0)] ++ l)

theorem witness_HostInterface :
    ((st []).sound ∧ domOn (st []) 197 = true ∧ (st []).get HOST_STATUS.STATE = Fn.stopped) ∧
    ((st [(HOST_STATUS.STATE, 3, 0, 0)]).get HOST_STATUS.STATE = Fn.running) ∧
    (fnHere (stFn 3 4) 3 = true ∧ domOn (stFn 3 4) 197 = true ∧ (stFn 3 4).get HOST_FN_STATUS.STATE 3 = Fn.stopped ∧
      (stFn 3 4).get HOST_FN_RING_SIZE.SUB 3 = 4 ∧ (stFn 3 4).get HOST_FN_RING_SIZE.CPL 3 = 12 ∧
      (stFn 256 13).get HOST_FN_RING_SIZE.SUB 256 = 13 ∧ (stFn 256 13).get HOST_FN_STATUS.STATE 256 = Fn.stopped) ∧
    ((st [(HOST_FN_STATUS.STATE, 3, 3, 0)]).get HOST_FN_STATUS.STATE 3 = Fn.running ∧ (st []).groups = [] ∧
      (fnAt (st []) 3).flr = 0 ∧ (st [(HOST_FN_STATUS.STATE, 5, 3, 0)]).get HOST_FN_STATUS.STATE 3 = Fn.faulted ∧
      (groupAt { st [(HOST_FN_STATUS.STATE, 3, 3, 0)] with groups := grpBusy } 7).job ≠ none) ∧
    (commitCode (stWin [(HOST_WIN_BASE_LO, 1, 0, 0)]) = Code.badArgument ∧ commitCode (stWin []) = Code.done ∧
      calActive (stWin []) = false ∧ commitCode (stWin [(CAL_STATUS.ACTIVE_VALID, 1, 0, 0)]) = Code.done ∧
      calActive (stWin [(CAL_STATUS.ACTIVE_VALID, 1, 0, 0)]) = true) := by
  refine ⟨⟨?_, ?_, ?_⟩, ?_, ⟨?_, ?_, ?_, ?_, ?_, ?_, ?_⟩, ⟨?_, ?_, ?_, ?_, ?_⟩, ?_, ?_, ?_, ?_, ?_⟩ <;> decide +kernel

/-- A group of image 9 with its context, of a function. -/
def withGroup (s : State) (f : Nat) (g : Group) : State :=
  { s with groups := [(7, { g with ctxs := [7], fn := f })], ctxs := [(7, { state := 4, fn := f, group := 7, img := { id := 9, shape := [5, 0, 0] } })] }

/-- What the parts of RingEntries ask of a JOB on image 9. -/
def jobFits (s : State) (f waiting : Nat) (busy ok : Bool) : Bool :=
  ringFits s f 1 && newestGroup (fetched s f) f 9 == some 7 && (groupAt (fetched s f) 7).job.isSome == busy &&
    (groupAt (fetched s f) 7).waiting.length == waiting &&
    (admission (fetched s f) f (shapeOf (ctxAt (fetched s f) 7).img)).1 == ok

theorem witness_RingEntries_job :
    (ringFits (stRing 256 1 9 0 0 0 []) 256 1 = true ∧ newestGroup (fetched (stRing 256 1 9 0 0 0 []) 256) 256 9 = none) ∧
    jobFits (withGroup (stRing 256 1 9 0 0 0 []) 256 {}) 256 0 false true = true ∧
    jobFits (withGroup (stRing 256 1 9 0 0 0 []) 256 { job := some { fn := 256, user := 0 } }) 256 0 true true = true ∧
    jobFits (withGroup (stRing 256 1 9 0 0 0 []) 256 { job := some { fn := 256, user := 0 }, waiting := List.replicate 63 { fn := 256, user := 0 } }) 256 63 true true = true ∧
    jobFits (withGroup (stRing 256 1 9 0 0 0 []) 256 { job := some { fn := 256, user := 0 }, waiting := List.replicate 64 { fn := 256, user := 0 } }) 256 64 true true = true ∧
    jobFits (withGroup ((stRing 3 1 9 0 0 0 []).set CAL_TB_CTRL.W 1 3) 3 {}) 3 0 false false = true := by
  refine ⟨⟨?_, ?_⟩, ?_, ?_, ?_, ?_, ?_⟩ <;> decide +kernel

/-- What RingEntries asks of a COPY: a code, and whether no bangle node holds a line. -/
def copyFits (s : State) (f typ code : Nat) (free : Bool) : Bool :=
  match entryAt s f with
  | some e => ringFits s f typ && copyCode (fetched s f) f e (typ == 2) == code &&
      (sharersIn (fetched s f) e.b e.len none).isEmpty == free
  | none => false

/-- A COPY of 64 bytes within a window of the physical function. -/
def stCopyIn (typ len : Nat) : State :=
  { stRing 256 typ 0x9000 0x80000000 len 0x80000000 (bytesLe 8 7) with
    wins := [(16 * 256, { valid := true, base := 0x80000000, size := 1 })] }

theorem witness_RingEntries_copy :
    copyFits (stCopyIn 2 64) 256 2 Code.done true = true ∧ copyFits (stCopyIn 2 65537) 256 2 Code.windowViolation true = true ∧
    copyFits { stCopyIn 2 64 with fab := { dir := [(0x1000000, 1)] } } 256 2 Code.done false = true ∧
    copyFits (stCopyIn 3 64) 256 3 Code.done true = true ∧ copyFits (stCopyIn 3 0) 256 3 Code.badArgument true = true := by
  refine ⟨?_, ?_, ?_, ?_, ?_⟩ <;> decide +kernel

/-- What RingEntries asks of a RELEASE of image 9: the groups, and whether one has a job. -/
def releaseFits (s : State) (f : Nat) (l : List Nat) (busy : Bool) : Bool :=
  ringFits s f 4 && groupsOf s f 9 == l && (l.any (fun g => (groupAt s g).job.isSome || !(groupAt s g).waiting.isEmpty)) == busy

theorem witness_RingEntries_release :
    releaseFits (stRing 256 4 9 0 0 0 []) 256 [] false = true ∧
    releaseFits (withGroup (stRing 256 4 9 0 0 0 []) 256 {}) 256 [7] false = true ∧
    releaseFits (withGroup (stRing 256 4 9 0 0 0 []) 256 { job := some { fn := 256, user := 0 } }) 256 [7] true = true := by
  refine ⟨?_, ?_, ?_⟩ <;> decide +kernel

/-! ## Residence, job completion and resets -/

/-- A READY context of the physical function with an empty image under its hallmark. -/
def ctxReady : Ctx :=
  { state := 2, fn := 256, group := 5, img := { cls := 2, hallmark := Config.hmac64 0 (sealMsg { cls := 2 }) } }

/-- A core allotted to every function and that context. -/
def stReady : State := { st [] with ctxs := [(5, ctxReady)] }

theorem witness_Residence_resident :
    (ctxAt stReady 5).state = 2 ∧ (ctxAt stReady 5).halt = false ∧ frozen stReady 256 = false ∧ (fnAt stReady 256).flr = 0 ∧
      ((coresFor stReady 5 none).filter (fun m => (pacingClash stReady m 5).isNone)).head? = some 0 ∧
      (fullSlots stReady 0).length < 4 ∧ lowBase stReady 0 (fullSlots stReady 0) (regionOf (ctxAt stReady 5).img) = some 0 ∧
      hallmarkOk stReady (ctxAt stReady 5).imageAddr (ctxAt stReady 5).img = true := by
  refine ⟨by decide +kernel, by decide +kernel, by decide +kernel, by decide +kernel, by decide +kernel, by decide +kernel,
    by decide +kernel, ?_⟩
  have h : ctxAt stReady 5 = ctxReady := rfl
  have k : stReady.sealKey = 0 := rfl
  rw [h]; unfold hallmarkOk
  rw [k, show badDev stReady ctxReady.imageAddr ctxReady.img.bytes.length = false by decide +kernel]
  exact beq_self_eq_true _

/-- A group of a function whose one context has completed, with a job and with those that wait. -/
def stJobDone (f : Nat) (waiting : List Job) : State :=
  { st [] with ctxs := [(7, { state := 3, fn := f, group := 7, job := true })]
               groups := [(7, { ctxs := [7], fn := f, job := some { fn := f, user := 1 }, waiting := waiting })] }

theorem witness_Residence_job :
    ((groupAt (stJobDone 3 []) 7).job = some { fn := 3, user := 1 } ∧ (groupAt (stJobDone 3 []) 7).ctxs ≠ [] ∧
      frozen (stJobDone 3 []) 3 = false ∧ ctxDone (stJobDone 3 []) 7 = true) ∧
    (groupAt (stJobDone 3 [{ fn := 3, user := 2 }]) 7).waiting = [{ fn := 3, user := 2 }] ∧
    frozen ((stJobDone 3 []).set HOST_VF_STATUS.FROZEN 1 3) 3 = true := by
  refine ⟨⟨?_, ?_, ?_, ?_⟩, ?_, ?_⟩ <;> decide +kernel

/-- Virtual function 3 enabled with a context, one write of which core 0 has sent and node 2 has not acknowledged. -/
def stSent (sent : Nat) (x : FnSet) : State :=
  { st [(HOST_NUM_VF, 4, 0, 0)] with
    ctxs := [(7, { state := 3, fn := 3 })], fns := [(3, x)], clk := { elapsed := 60000000 * 2 ^ 32 }
    cores := [(0, { slots := [(0, { valid := true, ctx := 7 })], fly := [{ slot := 0, stream := 0, idx := 0, cmd := 0 }] })]
    fab := { issued := [(2, sent)], acked := [(2, 1)] } }

theorem witness_Residence_reset :
    (fnHere (stSent 2 {}) 3 = true ∧ (fnAt (stSent 2 {}) 3).flr = 0 ∧ (fnAt (stSent 2 {}) 3).removing = false ∧
      drained (flrRequest (stSent 2 {}) 3 false) 3 = false ∧ drained (flrRequest (stSent 1 {}) 3 false) 3 = true) ∧
    ((fnAt (stSent 2 { flr := 2 }) 3).flr = 2 ∧ (fnAt (stSent 2 { flr := 2 }) 3).flrAt + 60000000 ≤ nowNs (stSent 2 { flr := 2 }) ∧
      nowNs (stSent 2 { flr := 2, flrAt := 1 }) < (fnAt (stSent 2 { flr := 2, flrAt := 1 }) 3).flrAt + 60000000) ∧
    (st [(HOST_VF_STATUS.CLEARING, 1, 3, 0)]).bit HOST_VF_STATUS.CLEARING 3 = true := by
  refine ⟨⟨?_, ?_, ?_, ?_, ?_⟩, ⟨?_, ?_, ?_⟩, ?_⟩ <;> decide +kernel

/-! ## Serving -/

/-- Slot j of tenant 3 in a state: two pages of one group at page 16 of its window, rings of 16 entries, image 9 in group 7. -/
def stSlot (j state : Nat) (l : List (Fld × Nat × Nat × Nat)) (x : Sj) : State :=
  { st ([(BEAD_SJ_STATUS.STATE, state, j, 0), (BEAD_SJ_CFG.OWNER, 3, j, 0), (HOST_VF_STATUS.CREATED, 1, 3, 0),
      (BEAD_SJ_IMAGE, 9, j, 0), (BEAD_SJ_POOL_OFF, 16, j, 0), (BEAD_SJ_POOL_PAGES, 2, j, 0), (BEAD_SJ_REQ_OFF, 1, j, 0),
      (BEAD_SJ_EVT_OFF, 2, j, 0), (BEAD_SJ_BATCH_OFF, 3, j, 0), (BEAD_SJ_RING_SIZE.EVT, 4, j, 0),
      (BEAD_SJ_RING_SIZE.REQ, 4, j, 0), (BEAD_SJ_GEOM.T, 16, j, 0), (BEAD_SJ_GEOM.G, 1, j, 0), (BEAD_SJ_CHUNK, 8, j, 0),
      (BEAD_SJ_BLOCKS_MAX, 1, j, 0)] ++ l) with
    wins := [(16 * 3, { valid := true, base := 0x80000000, size := 32 })]
    groups := [(7, { ctxs := [7], fn := 3 })], ctxs := [(7, { state := 1, fn := 3, group := 7, img := { id := 9 } })]
    sjs := [(j, x)] }

theorem witness_ServingSlots_start :
    (stSlot 63 1 [] {}).get BEAD_SJ_STATUS.STATE 63 = Fn.stopped ∧ sjCheck (stSlot 63 1 [] {}) 63 = none ∧
      sjCheck (stSlot 63 1 [(BEAD_SJ_CHUNK, 0, 63, 0)] {}) 63 = some Code.badArgument ∧
      (stSlot 63 3 [] {}).get BEAD_SJ_STATUS.STATE 63 = Fn.running ∧ (stSlot 63 5 [] {}).get BEAD_SJ_STATUS.STATE 63 = Fn.faulted ∧
      (stSlot 63 3 [(BEAD_SJ_STATUS.IN_STEP, 1, 63, 0)] {}).bit BEAD_SJ_STATUS.IN_STEP 63 = true := by
  refine ⟨?_, ?_, ?_, ?_, ?_, ?_⟩ <;> decide +kernel

theorem witness_ServingSlots_boundary :
    mayBound (stSlot 0 3 [] {}) 0 = true ∧ (sjAt (stSlot 0 3 [] {}) 0).polling = none ∧
      (mayBound (stSlot 0 3 [] { polling := some 0 }) 0 = true ∧ 0 ≤ nowNs (stSlot 0 3 [] { polling := some 0 })) ∧
      nowNs (stSlot 0 3 [] { polling := some 5 }) < 5 := by
  refine ⟨?_, ?_, ⟨?_, ?_⟩, ?_⟩ <;> decide +kernel

theorem witness_ServingSlots_step :
    (sjAt (stSlot 0 3 [] { stepCode := some Code.done }) 0).stepCode = some Code.done ∧
      (sjAt (stSlot 0 4 [] { stepCode := some 9 }) 0).stepCode = some 9 ∧ (stSlot 0 4 [] {}).get BEAD_SJ_STATUS.STATE 0 = Fn.stopping ∧
      (calActive (stSlot 0 3 [] { policed := some (0, 0) }) = false ∧
        ¬(0 + sjPoll (stSlot 0 3 [] { policed := some (0, 0) }) 0 ≤ nowNs (stSlot 0 3 [] { policed := some (0, 0) }))) ∧
      (calActive (stSlot 0 3 [(CAL_STATUS.ACTIVE_VALID, 1, 0, 0)] { policed := some (0, 0) }) = true ∧
        0 ≤ nowN (stSlot 0 3 [(CAL_STATUS.ACTIVE_VALID, 1, 0, 0)] { policed := some (0, 0) })) := by
  refine ⟨?_, ?_, ?_, ⟨?_, ?_⟩, ⟨?_, ?_⟩⟩ <;> decide +kernel

/-- A record that waits for a ring with an entry free, and for one whose TAIL stands just below its HEAD. -/
def stEvent (tail head : Nat) : State :=
  { stSlot 0 3 [] { evWait := [bytesLe 32 1] } with
    mems := { dev := wrBytes [] (0x80000000 + 2 * 4096) (bytesLe 64 tail ++ bytesLe 4 head) } }

/-- The ring of events is full, and the two writes are admitted. -/
def eventFits (s : State) (full : Bool) : Bool :=
  let k := le (sjBytes s 0 (evtAt s 0) 128) 0 4 % evtLen s 0
  !sjFrozen s 0 && sjCode s 0 (evtAt s 0) 128 false == Code.done && sjCode s 0 (evtAt s 0 + 128 + 32 * k) 32 true == Code.done &&
    sjCode s 0 (evtAt s 0) 4 true == Code.done && ringFull k (le (sjBytes s 0 (evtAt s 0) 128) 0x40 4 % evtLen s 0) (evtLen s 0) == full

theorem witness_ServingSlots_events :
    (sjAt (stEvent 5 5) 0).evWait = [bytesLe 32 1] ∧ eventFits (stEvent 5 5) false = true ∧ eventFits (stEvent 15 0) true = true ∧
      sjFrozen ((stEvent 5 5).set HOST_VF_STATUS.FROZEN 1 3) 0 = true := by
  refine ⟨?_, ?_, ?_, ?_⟩ <;> decide +kernel

/-- Bead i of a kind in a table, its record poisoned or not. -/
def stBead (i kind : Nat) (bad : Bool) : State :=
  { st [] with mems := { dev := wrBytes [] (beadBase i) (bytesLe 1 kind), pDev := if bad then [((beadBase i) / 64, true)] else [] } }

/-- A move of an empty sequence for geometry (t, g). -/
def mvMsg (t g : Nat) : BeadMoveMsg :=
  { src := 5, srcBead := 77, t := t, g := g, record := bytesLe 64 1, pages := [], stamp := 9, poison := [] }

/-- The state of a slot that a move meets. -/
def stMoveIn : State := stSlot 63 3 [(BEAD_LIMIT, 16, 3, 0)] {}

theorem witness_BeadTransfers_move :
    decide stMoveIn.sound = true ∧ moveCode (raiseFloor stMoveIn 9 5) 63 (mvMsg 16 1) = Code.done ∧
      moveCode (raiseFloor stMoveIn 9 5) 63 (mvMsg 17 1) = Code.badArgument := by
  refine ⟨?_, ?_, ?_⟩ <;> decide +kernel

theorem witness_BeadTransfers_ack :
    listedCode (0x05 : Byte).toNat = true ∧ (sjAt (stSlot 63 3 [] {}) 63).moving = none ∧
      (sjAt (stSlot 63 3 [] { moving := some (4, 5) }) 63).moving = some (4, 5) ∧
      mbxBusyWith { stSlot 63 3 [] { moving := some (4, 5) } with mbx := { op := some 0x30 } } 0x30 = true := by
  refine ⟨?_, ?_, ?_, ?_⟩ <;> decide +kernel

theorem witness_BeadTransfers_select :
    decide (stBead 1048575 1 false).sound = true ∧ beadBad (stBead 1048575 1 false) 1048575 = false ∧
      beadBad (stBead 0 1 true) 0 = true := by
  refine ⟨?_, ?_, ?_⟩ <;> decide +kernel

theorem witness_BeadTransfers_reserve :
    wrongSide (stBead 4 Bead.flow false) 4 = true ∧ wrongSide (stBead 4 Bead.flow false) 5 = false ∧
      wrongSide (stBead 4 Bead.sequence false) 5 = true ∧ wrongSide (stBead 4 Bead.sequence false) 4 = false := by
  refine ⟨?_, ?_, ?_, ?_⟩ <;> decide +kernel

/-! ## Fronthaul -/

/-- Port p in a state, of MODE 2, with queues. -/
def stPort (p state : Nat) (l : List (Fld × Nat × Nat × Nat)) : State :=
  st ([(FH_STATUS.STATE, state, p, 0), (FH_CFG.MODE, 2, p, 0), (FH_CFG.MTU, 1518, p, 0), (FH_FWRX_SIZE, 4, p, 0),
    (FH_FWTX_SIZE, 12, p, 0)] ++ l)

theorem witness_FronthaulPorts_start :
    decide (stPort 7 1 []).sound = true ∧ (stPort 7 1 []).get FH_STATUS.STATE 7 = Fn.stopped ∧ domOn (stPort 7 1 []) 191 = true ∧
      fhBad (stPort 7 1 []) 7 = false ∧ fhBad (stPort 7 1 [(FH_CFG.MODE, 3, 7, 0)]) 7 = true ∧
      domOn (stPort 0 1 [(PWR_DOM_ON, 0, 5, 0)]) 184 = false := by
  refine ⟨?_, ?_, ?_, ?_, ?_, ?_⟩ <;> decide +kernel

/-- An FSK group that runs on port 3. -/
def stNamed : State :=
  { stPort 3 3 [(FSK_GRP_STATUS.STATE, 3, 0, 0), (FSK_GRP_PORT.PORT, 3, 0, 0)] with fsk := [(0, { active := true })] }

theorem witness_FronthaulPorts_stop :
    portNamed stNamed 3 = true ∧ portNamed (stPort 3 3 []) 3 = false ∧ (stPort 3 3 []).get FH_STATUS.STATE 3 = Fn.running ∧
      (stPort 0 5 []).get FH_STATUS.STATE 0 = Fn.faulted := by
  refine ⟨?_, ?_, ?_, ?_⟩ <;> decide +kernel

/-- A frame of radio data for VLAN 5 and eAxC 9. -/
def radioFrame : Bytes :=
  List.replicate 12 0 ++ bytesBe 2 0x8100 ++ bytesBe 2 5 ++ bytesBe 2 0xAEFE ++ bytesBe 1 0x10 ++ bytesBe 1 0 ++ bytesBe 2 8 ++
    bytesBe 2 9 ++ bytesBe 1 7 ++ List.replicate 40 0

theorem witness_FronthaulPorts_receive :
    uplane radioFrame = some (5, 9, 7) ∧ flowOf (stPort 7 3 []) 7 3 5 9 = none ∧ fskOf (stPort 7 3 []) 7 3 5 9 = none ∧
      3 < subPorts (stPort 7 3 []) 7 ∧ uplane (List.replicate 64 0) = none ∧
      ringFull ((stPort 7 3 []).get FH_FWRX_TAIL 7 % 16) ((stPort 7 3 []).get FH_FWRX_HEAD 7) (2 ^ (stPort 7 3 []).get FH_FWRX_SIZE 7) = false ∧
      ringFull ((stPort 7 3 [(FH_FWRX_TAIL, 15, 7, 0)]).get FH_FWRX_TAIL 7 % 16) ((stPort 7 3 []).get FH_FWRX_HEAD 7)
        (2 ^ (stPort 7 3 []).get FH_FWRX_SIZE 7) = true := by
  refine ⟨?_, ?_, ?_, ?_, ?_, ?_, ?_⟩ <;> decide +kernel

/-- A port that runs with a frame at the head of queue 0. -/
def stFrame (f : TxFrame) : State :=
  let s := setQueue (stPort 7 3 []) 7 0 [f]
  { s with cal := { s.cal with fhMask := BitVec.allOnes 64 } }

/-- The frame goes. -/
def goesNow (f : TxFrame) : Bool :=
  let s := stFrame f
  decide (fnState s (fhFn 7) = Fn.running) && queueOpen s 7 0 && (queueCloseWait s 7 0).isNone && !f.isLate (nowN s)

theorem witness_FronthaulPorts_transmit :
    goesNow { bytes := radioFrame } = true ∧ goesNow { bytes := radioFrame, poison := true } = true ∧
      fhQueue (stFrame { bytes := radioFrame }) 7 0 = [{ bytes := radioFrame }] ∧
      (fhQueue (setQueue { stPort 7 3 [] with clk := { n := 6 } } 7 7 [{ bytes := [], latest := some 5 }]) 7 7).find?
        (fun f => f.isLate 6) = some { bytes := [], latest := some 5 } := by
  refine ⟨?_, ?_, ?_, ?_⟩ <;> decide +kernel

/-- A record of a cell on port 0 and group 0, with one downlink flow. -/
def cellRecord : Bytes :=
  bytesLe 4 128 ++ bytesLe 3 0 ++ bytesLe 1 8 ++ bytesLe 2 1 ++ bytesLe 2 0 ++ bytesLe 4 64 ++ List.replicate 68 0 ++
    bytesLe 4 4096 ++ List.replicate 8 0 ++ bytesLe 2 9 ++ bytesLe 2 5 ++ List.replicate 6 0 ++ bytesLe 1 1 ++ List.replicate 21 0

/-- Cell c in a state, its record in device memory and as read, its port and group RUNNING. -/
def stCell (c state : Nat) (l : List (Fld × Nat × Nat × Nat)) (x : Cell) : State :=
  { st ([(CODEC_CELL_STATUS.STATE, state, c, 0), (CODEC_CELL_CFG_LO, 0x90000000, c, 0), (FH_STATUS.STATE, 3, 0, 0),
      (CODEC_GRP_STATUS.STATE, 3, 0, 0), (BEAD_RADIO_RESERVE, 16, 0, 0)] ++ l) with
    mems := { dev := wrBytes [] 0x90000000 cellRecord }, cells := [(c, { x with cfg := cellRecord, active := true })] }

/-- The check of a cell that STARTs passes but for what its CONFIG TLVs say. -/
def cellFits (s : State) (c : Nat) : Bool :=
  let u := cellClear s c
  let x := (readCell u c).2
  decide ((readCell u c).1 = Code.done) && cellOk x && noRepeat (x.flows.map (fun i => (x.flow i).1)) &&
    !(eaxcUsed u x.port x.sub c).any (x.flows.map (fun i => (x.flow i).1)).elem && decide (fnState u (fhFn x.port) = Fn.running) &&
    decide (u.get CODEC_GRP_STATUS.STATE (x.fld 5 1) = Fn.running)

/-- Where the CONFIG TLVs are accepted, the start of the cell meets every hypothesis. -/
theorem witness_RadioCells_check (s : State) (c : Nat) (h : cellFits s c = true)
    (ok : Config.tlvsOk (readCell (cellClear s c) c).2.tlvs = true) :
    (readCell (cellClear s c) c).1 = Code.done ∧ cellCheck (cellClear s c) c (readCell (cellClear s c) c).2 = none := by
  simp only [cellFits, Bool.and_eq_true, decide_eq_true_eq, Bool.not_eq_true'] at h
  obtain ⟨⟨⟨⟨⟨h1, h2⟩, h3⟩, h4⟩, h5⟩, h6⟩ := h
  refine ⟨h1, ?_⟩
  unfold cellCheck
  simp only [h2, h3, h4, h5, h6, ok]
  simp

theorem witness_RadioCells_start :
    cellFits (stCell 511 1 [] {}) 511 = true ∧ (cellAt (stCell 511 1 [] {}) 511).stopAt = none ∧
      (let u := cellClear (stCell 511 1 [] {}) 511
       (flowBeads 511 (readCell u 511).2 (readCell u 511).2.flows [] u).map (fun r => r.1) = some [0]) ∧
      (let u := cellClear (stCell 511 1 [(BEAD_RADIO_RESERVE, 0, 0, 0)] {}) 511
       (flowBeads 511 (readCell u 511).2 (readCell u 511).2.flows [] u).isNone = true) ∧
      (stCell 0 1 [(CODEC_CELL_PARTNER.STANDBY, 1, 0, 0)] {}).bit CODEC_CELL_PARTNER.STANDBY 0 = true ∧
      (readCell (cellClear (stCell 0 1 [(CODEC_CELL_CFG_HI, 0xFFFF, 0, 0)] {}) 0) 0).1 ≠ Code.done ∧
      cellCheck (cellClear (stCell 0 1 [(CODEC_CELL_CFG_LO, 0, 0, 0)] {}) 0) 0
        (readCell (cellClear (stCell 0 1 [(CODEC_CELL_CFG_LO, 0, 0, 0)] {}) 0) 0).2 = some Code.badArgument := by
  refine ⟨?_, ?_, ?_, ?_, ?_, ?_, ?_⟩ <;> decide +kernel

theorem witness_RadioCells_stop :
    (stCell 511 3 [] {}).get CODEC_CELL_STATUS.STATE 511 = Fn.running ∧
      (stCell 511 3 [(CODEC_CELL_STATUS.STANDBY, 1, 511, 0)] {}).bit CODEC_CELL_STATUS.STANDBY 511 = true ∧
      (stCell 511 5 [] {}).get CODEC_CELL_STATUS.STATE 511 = Fn.faulted ∧
      (stCell 511 3 [(CODEC_CELL_PARTNER.NODE, 7, 511, 0)] {}).get CODEC_CELL_PARTNER.NODE 511 ≠ ownNode (stCell 511 3 [] {}) ∧
      (cellAt (stCell 511 3 [] { takeAt := some 5 }) 511).takeAt = some 5 ∧ nowN (stCell 511 3 [] {}) < 5 ∧
      0 ≤ nowN (stCell 511 3 [] {}) := by
  refine ⟨?_, ?_, ?_, ?_, ?_, ?_, ?_⟩ <;> decide +kernel

theorem witness_RadioCells_times :
    cellServing (stCell 511 3 [] {}) 511 = true ∧
      (let s := stCell 511 3 [] { txArm := true }; (cellAt s 511).txArm = true ∧ (cellAt s 511).txAt ≤ nowN s) ∧
      (let s := stCell 511 3 [] {}; let x := cellAt s 511;
        x.nextCp * x.slotNs ≤ nowN s + x.fld 0x50 4 ∧ x.symAt (x.nextUp / 14) (x.nextUp % 14) ≤ nowN s + x.fld 0x4C 4 ∧
        x.nextReq * x.slotNs ≤ nowN s + x.leadSlots * x.slotNs) ∧
      (let s := stCell 511 3 [] { nextCp := 9, nextUp := 99, nextReq := 9 }; let x := cellAt s 511;
        nowN s + x.fld 0x50 4 < x.nextCp * x.slotNs ∧ nowN s + x.fld 0x4C 4 < x.symAt (x.nextUp / 14) (x.nextUp % 14) ∧
        nowN s + x.leadSlots * x.slotNs < x.nextReq * x.slotNs) := by
  refine ⟨?_, ?_, ?_, ?_⟩ <;> decide +kernel

/-- A cell at the time at which indications of slot 4 are due. -/
def stInd (n : Nat) (x : Cell) : State := { stCell 511 3 [] x with clk := { n := BitVec.ofNat 64 n } }

theorem witness_CellIndications :
    (let s := stInd 0 {}; let x := cellAt s 511;
      x.nextInd * x.slotNs ≤ nowN s + (x.leadSlots + 1) * x.slotNs ∧ nowN s < (x.nextCrc + 1) * x.slotNs + x.crcDelay ∧
      x.dueSlot x.rachDelay (nowN s) = none ∧ x.dueSlot x.srsDelay (nowN s) = none) ∧
      (let s := stInd 8000000 { nextInd := 99 }; let x := cellAt s 511;
        nowN s + (x.leadSlots + 1) * x.slotNs < x.nextInd * x.slotNs ∧ (x.nextCrc + 1) * x.slotNs + x.crcDelay ≤ nowN s ∧
        x.dueSlot x.rachDelay (nowN s) = some 4 ∧ x.nextRach ≤ 4) ∧
      (let s := stInd 7500000 { nextSrs := 9 }; let x := cellAt s 511;
        x.dueSlot x.srsDelay (nowN s) = some 4 ∧ 4 < x.nextSrs) := by
  refine ⟨?_, ?_, ?_⟩ <;> decide +kernel

theorem witness_CellIndications_replicas :
    (stCell 511 3 [(CODEC_CELL_PARTNER.REPL_EN, 1, 511, 0)] {}).bit CODEC_CELL_PARTNER.REPL_EN 511 = true ∧
      openDests (stCell 511 3 [] {}) (cellIssuer 511) = [] ∧ (stCell 511 3 [] {}).bit FIL_STATUS.PARTITIONED = false ∧
      (stCell 511 3 [(FIL_STATUS.PARTITIONED, 1, 0, 0)] {}).bit FIL_STATUS.PARTITIONED = true ∧
      (cellAt (stCell 0 3 [(CODEC_CELL_STATUS.STANDBY, 1, 0, 0)] {}) 0).replica = none ∧
      (stCell 0 3 [(CODEC_CELL_STATUS.STANDBY, 1, 0, 0)] {}).bit CODEC_CELL_STATUS.STANDBY 0 = true ∧
      (cellAt (stCell 0 3 [] { replica := some (1, 9) }) 0).replica = some (1, 9) := by
  refine ⟨?_, ?_, ?_, ?_, ?_, ?_, ?_⟩ <;> decide +kernel

/-- Group g in a state, with one job at the head of each ring. -/
def stCodec (g state : Nat) (d : Bytes) (x : Codec) : State :=
  { st [(CODEC_GRP_STATUS.STATE, state, g, 0), (CODEC_GRP_HARD_BASE_LO, 0x80000000, g, 0), (CODEC_GRP_HARD_SIZE, 4, g, 0),
      (CODEC_GRP_FIRM_BASE_LO, 0x80001000, g, 0), (CODEC_GRP_FIRM_SIZE, 12, g, 0)] with
    clk := { n := 100 }, codecs := [(g, { x with firmTail := 1 })]
    mems := { dev := wrBytes [] (0x80001000 + 128) d } }

/-- The head of the firm ring starts. -/
def codedFits (s : State) (g op : Nat) : Bool :=
  let d := (devRead s (jobAt s g false 0) 64).2.1
  decide (s.get CODEC_GRP_STATUS.STATE g = Fn.running) && decide (jobCount s g false ≠ 0) && decide (df d 0 1 = op) &&
    decide (df d 0x38 8 = 0) && !(List.range (jobCount s g true)).any (fun k => memLe s (jobAt s g true k) 1 == op) &&
    decide ((codecAt s g).jobs.length < engines op)

theorem witness_CodedJobs_start :
    (stCodec 3 1 [] {}).get CODEC_GRP_STATUS.STATE 3 = Fn.stopped ∧ domOn (stCodec 3 1 [] {}) 195 = true ∧
      (stCodec 3 1 [] {}).get CODEC_GRP_HARD_SIZE 3 = 4 ∧ (stCodec 3 1 [] {}).get CODEC_GRP_FIRM_SIZE 3 = 12 ∧
      (mapKeys (stCell 0 3 [] {}).cells).any (fun c => fnState (stCell 0 3 [] {}) (cellFn c) == Fn.running &&
        (cellAt (stCell 0 3 [] {}) c).fld 5 1 == 0) = true ∧
      (stCodec 3 3 [] {}).cells = [] ∧ (stCodec 3 5 [] {}).get CODEC_GRP_STATUS.STATE 3 = Fn.faulted := by
  refine ⟨?_, ?_, ?_, ?_, ?_, ?_, ?_⟩ <;> decide +kernel

theorem witness_CodedJobs_jobs :
    codedFits (stCodec 3 3 (bytesLe 64 0) {}) 3 Jop.dec = true ∧ codedFits (stCodec 3 3 (bytesLe 64 1) {}) 3 Jop.enc = true ∧
      codedFits (stCodec 3 3 (bytesLe 64 2) {}) 3 Jop.polar = true ∧ codedFits (stCodec 3 1 (bytesLe 64 2) {}) 3 Jop.polar = false ∧
      jobOk ((devRead (stCodec 3 3 (bytesLe 64 2) {}) (jobAt (stCodec 3 3 (bytesLe 64 2) {}) 3 false 0) 64).2.1) = false ∧
      df ((devRead (stCodec 3 3 (bytesLe 56 0 ++ bytesLe 8 99) {}) (jobAt (stCodec 3 3 (bytesLe 56 0 ++ bytesLe 8 99) {}) 3 false 0) 64).2.1)
        0x38 8 = 99 ∧ nowN (stCodec 3 3 [] {}) = 100 ∧
      (codecAt (stCodec 3 4 [] { jobs := [{ hard := false, desc := [], out := [], word := 0 }] }) 3).jobs =
        [{ hard := false, desc := [], out := [], word := 0 }] := by
  refine ⟨?_, ?_, ?_, ?_, ?_, ?_, ?_, ?_⟩ <;> decide +kernel

/-- One channel in use, at frequency offset 0. -/
def fskEntry : Bytes := bytesLe 2 7 ++ bytesLe 2 5 ++ List.replicate 6 0 ++ bytesLe 1 1 ++ List.replicate 5 0

/-- Group g in a state, its channel table in device memory and as read, its port RUNNING, its taps its own. -/
def stFsk (g state : Nat) (l : List (Fld × Nat × Nat × Nat)) (x : FskGrp) : State :=
  { st ([(FSK_GRP_STATUS.STATE, state, g, 0), (FSK_GRP_CHAN_LO, 0x90000000, g, 0), (FSK_GRP_CHANS, 1, g, 0), (FH_STATUS.STATE, 3, 0, 0),
      (FSK_GRP_PHY.CUSTOM_TAPS, 1, g, 0), (FSK_GRP_TAP, 1, g, 16), (FSK_GRP_PHY.PRE_LEN, 4, g, 0), (FSK_GRP_DET.PRE_QUAL, 4, g, 0),
      (FSK_GRP_RX_BYTES, 4096, g, 0), (FSK_GRP_TX_BYTES, 4096, g, 0), (BEAD_RADIO_RESERVE, 16, 0, 0)] ++ l) with
    mems := { dev := wrBytes [] 0x90000000 fskEntry }, fsk := [(g, { x with table := fskEntry, active := true })], clk := { n := 1000000 } }

/-- The channel table that START reads. -/
def fskRead (s : State) (g : Nat) : Nat × Bytes × Bool := fskTable (fskPrepare s g) g

/-- The checks of START up to the beads pass. -/
def fskFits (s : State) (g : Nat) : Bool :=
  let u := fskPrepare s g
  let x := fskFresh u (fskRead s g).2.1
  decide ((fskRead s g).1 = Code.done) && fskOk u g x && decide (s.get FH_STATUS.STATE (s.get FSK_GRP_PORT.PORT g) = Fn.running)

/-- Beads are found for the channels in use. -/
def fskPlaced (s : State) (g : Nat) : Bool :=
  let u := fskPrepare s g
  let x := fskFresh u (fskRead s g).2.1
  (sessionBeads g x.used (fskSeeded u g x)).isSome

/-- A mask without a VALID entry cuts nothing. -/
theorem mask_free (m : List Nat) (h : m.filter (fun w => w.testBit 31) = []) (l : Bytes) (n : Nat) : maskCut m l n = none := by
  have e : ∀ b, maskLimit m b = none := fun b => by
    unfold maskLimit
    have : m.filter (fun w => w.testBit 31 && decide (w / 65536 % 256 ≤ b)) = [] := by
      rw [List.filter_eq_nil_iff] at h ⊢
      intro a ha q; exact h a ha (by simp only [Bool.and_eq_true] at q; exact q.1)
    simp only [this]; rfl
  have k : ∀ b, maskBroken m b = false := fun b => by unfold maskBroken; simp only [e]; simp
  unfold maskCut; simp only [k]; simp

theorem witness_FskGroups_start :
    fskFits (stFsk 63 1 [] {}) 63 = true ∧ (fskRead (stFsk 63 1 [] {}) 63).2.2 = false ∧ domOn (stFsk 63 1 [] {}) 196 = true ∧
      fskPlaced (stFsk 63 1 [] {}) 63 = true ∧ fskPlaced (stFsk 63 1 [(BEAD_RADIO_RESERVE, 0, 0, 0)] {}) 63 = false ∧
      (stFsk 63 1 [(FH_STATUS.STATE, 1, 0, 0)] {}).get FH_STATUS.STATE 0 ≠ Fn.running ∧
      domOn (st [(FSK_GRP_STATUS.STATE, 1, 0, 0), (PWR_DOM_ON, 0, 6, 0)]) 196 = false ∧
      (maskEntries (fskPrepare (stFsk 63 1 [] {}) 63) 63).filter (fun w => w.testBit 31) = [] := by
  refine ⟨?_, ?_, ?_, ?_, ?_, ?_, ?_, ?_⟩ <;> decide +kernel

theorem witness_FskGroups_masked : fskMasked (fskPrepare (stFsk 63 1 [] {}) 63) 63 = false := by
  unfold fskMasked
  simp only [mask_free _ witness_FskGroups_start.2.2.2.2.2.2.2]; rfl

theorem witness_FskGroups_checks :
    (fskRead (stFsk 0 1 [(FSK_GRP_CHAN_HI, 0xFFFF, 0, 0)] {}) 0).1 ≠ Code.done ∧
      (let s := stFsk 0 1 [(FSK_GRP_PHY.PRE_LEN, 3, 0, 0)] {}
       fskOk (fskPrepare s 0) 0 (fskFresh (fskPrepare s 0) (fskRead s 0).2.1) = false) ∧
      (let s := { stFsk 0 1 [] {} with mems := { dev := wrBytes [] 0x90000000 fskEntry, pDev := [(0x90000000 / 64, true)] } }
       fskFits s 0 = true ∧ (fskRead s 0).2.2 = true) := by
  refine ⟨?_, ?_, ?_, ?_⟩ <;> decide +kernel

theorem witness_FskGroups_runs :
    (stFsk 63 3 [] {}).get FSK_GRP_STATUS.STATE 63 = Fn.running ∧ (stFsk 63 5 [] {}).get FSK_GRP_STATUS.STATE 63 = Fn.faulted ∧
      (let x := fskAt (stFsk 63 3 [] {}) 63; x.used = [0] ∧ x.nextTx * 125000 ≤ nowN (stFsk 63 3 [] {}) ∧
        (x.next + 1) * 125000 + (stFsk 63 3 [] {}).get FSK_GRP_TA4.MAX 63 * 1000 ≤ nowN (stFsk 63 3 [] {})) ∧
      (fskAt (stFsk 63 3 [] { nextTx := 9, next := 9 }) 63).nextTx = 9 := by
  refine ⟨?_, ?_, ?_, ?_⟩ <;> decide +kernel

/-- A group with one channel. -/
def stFskCh (state : Nat) (y : FskCh) : State := stFsk 63 state [] { chans := [(0, y)] }

theorem witness_FskChannels :
    (let y : FskCh := { buf := List.replicate 32 0, stage := 1 }
     (stFskCh 3 y).sound ∧ (fskAt (stFskCh 3 y) 63).used.elem 0 = true ∧ 32 ≤ y.buf.length ∧ stageDue (stFskCh 3 y) 63 y 2 = false ∧
       stageDue (stFskCh 3 y) 63 y 3 = false ∧ y.nextDl * 125000 ≤ nowN (stFskCh 3 y)) ∧
      stageDue (stFskCh 3 { stage := 2, since := 300 }) 63 { stage := 2, since := 300 } 2 = true ∧ stageDue (stFskCh 3 { stage := 3, since := 300 }) 63 { stage := 3, since := 300 } 3 = true ∧
      (let s := stFskCh 3 { recs := [(1000000, [])] }; ((fskAt s 63).chan 0).recs = [(1000000, [])] ∧ 1000000 ≤ nowN s) ∧
      (let f : FskTx := { user := 1, first := 4, launch := 10000, samples := [0, 0, 0, 0], count := 1, cutAt := none, counted := false, begun := false }
       let s := stFskCh 3 { tx := [f] }; ((fskAt s 63).chan 0).tx = [f] ∧ sampleTime s 63 f.first ≤ nowN s ∧
        sampleTime s 63 (f.first + f.count) ≤ nowN s) ∧
      nowN (stFskCh 3 {}) + (stFskCh 3 {}).get FSK_GRP_TX_WIN.MAX 63 * 1000 < 9999 * 125000 := by
  refine ⟨?_, ?_, ?_, ?_, ?_, ?_⟩ <;> decide +kernel

/-! ## Filigree: states that meet the hypotheses of the statements -/

/-- At the time 100,000 ns, the links of ports 0 and 23 UP. -/
def stBeat : State :=
  { st [(FIL_PORT_STATUS.LINK, 2, 0, 0), (FIL_PORT_STATUS.LINK, 2, 23, 0)] with clk := { n := 100000 } }

theorem witness_HeartbeatsSent :
    stBeat.sound ∧ nowN stBeat % 100000 = 0 ∧ stBeat.fab.beat ≠ nowN stBeat / 100000 ∧
      stBeat.bit JRNL_STATUS.FAIL_STOP = false ∧ (List.range 24).filter (linkUp stBeat) = [0, 23] :=
  ⟨⟨rfl, rfl⟩, by decide +kernel, by decide +kernel, by decide +kernel, by decide +kernel⟩

/-- Fabric port 23 in a state, with some fields replaced, and its link; the interface RUNNING unless a field says otherwise. -/
def stLink (state : Nat) (l : List (Fld × Nat × Nat × Nat)) (x : Link) : State :=
  let s := st ([(FIL_STATUS.STATE, 3, 0, 0), (FIL_PORT_STATUS.STATE, state, 23, 0)] ++ l)
  { s with fab := { s.fab with links := [(23, x)] }, clk := { s.clk with elapsed := 200000000 * 2 ^ 32 } }

theorem witness_PortTraining :
    (stLink 1 [] {}).sound ∧ domOn (stLink 1 [] {}) 183 = true ∧ portCheck (stLink 1 [] {}) 23 = none ∧
      portCheck (stLink 1 [(FIL_PORT_CREDIT.REQ, 7, 23, 0)] {}) 23 = some Code.badArgument ∧
      portCheck (stLink 1 [(FIL_PORT_CFG.ROLE, 2, 23, 0)] {}) 23 = some Code.badArgument ∧
      domOn (st [(PWR_DOM_ON, 0, 5, 0)]) 183 = false ∧
      (∀ k ∈ [1, 2, 3, 4, 5], 0 + stepLimit k ≤ nowNs (stLink 3 [] { step := k })) ∧
      (stLink 3 [(FIL_PORT_STATUS.NO_LASER, 1, 23, 0)] {}).get FIL_PORT_STATUS.NO_LASER 23 = 1 ∧ (stLink 3 [] {}).get FIL_PORT_STATUS.NO_LASER 23 = 0 ∧
      (stLink 3 [] {}).get FIL_PORT_STATUS.STATE 23 = Fn.running ∧ (linkAt (stLink 3 [] { step := 4, loops := 63 }) 23).loops = 63 ∧
      (stLink 1 [] {}).get FIL_STATUS.STATE = Fn.running ∧ (stLink 5 [] {}).get FIL_PORT_STATUS.STATE 23 = Fn.faulted := by
  refine ⟨?_, ?_, ?_, ?_, ?_, ?_, ?_, ?_, ?_, ?_, ?_, ?_, ?_⟩ <;> decide +kernel

theorem witness_PortTraining_ident :
    (¬(0 ≠ (stLink 3 [] {}).get FIL_PORT_CFG.ROLE 23 ∨ ((stLink 3 [] {}).get FIL_PORT_CFG.ROLE 23 = 1 ∧
      (7 ≠ ownNode (stLink 3 [] {}) ∨ 9 ≠ (stLink 3 [] {}).get FIL_PORT_CFG.PEER 23)))) ∧
    2 ≠ (stLink 3 [] {}).get FIL_PORT_CFG.ROLE 23 ∧
    (1310 < max ((stLink 3 [] {}).get FIL_PORT_LOOP 23) (min 65535 (nowN { stLink 3 [] {} with clk := { n := 70000 } } - 0))) ∧
    (max ((stLink 3 [] {}).get FIL_PORT_LOOP 23) (min 65535 (nowN { stLink 3 [] {} with clk := { n := 1310 } } - 0)) ≤ 1310) := by
  refine ⟨?_, ?_, ?_, ?_⟩ <;> decide +kernel

theorem witness_LinkFlits :
    (stLink 3 [(FIL_PORT_STATUS.LINK, 2, 23, 0)] {}).sound ∧ (stLink 3 [(FIL_PORT_STATUS.LINK, 2, 23, 0)] {}).get FIL_PORT_STATUS.LINK 23 = 2 ∧
      (stLink 3 [] {}).get FIL_PORT_STATUS.LINK 23 = 0 ∧ (stLink 3 [] { step := 5 }).get FIL_PORT_STATUS.STATE 23 = Fn.running ∧
      ([({ lseq := 254 } : Flit), { lseq := 255, tries := 8 }, { lseq := 0 }].findIdx? (fun f => f.lseq == (255 : Byte).toNat) = some 1) ∧
      ([({ lseq := 254 } : Flit)].findIdx? (fun f => f.lseq == (255 : Byte).toNat) = none) ∧
      8 ≤ ([({ lseq := 254 } : Flit), { lseq := 255, tries := 8 }].getD 1 { lseq := 0 }).tries ∧
      (255 : Byte).toNat = (linkAt (stLink 3 [] { rxSeq := 255 }) 23).rxSeq ∧
      (stLink 3 [(FIL_PORT_CFG.ROLE, 1, 23, 0), (FIL_PORT_STATUS.LINK, 2, 23, 0)] {}).get FIL_PORT_CFG.ROLE 23 = 1 ∧
      (linkAt (stLink 3 [] {}) 23).lastBeat + 300000 ≤ nowNs (stLink 3 [] {}) := by
  refine ⟨?_, ?_, ?_, ?_, ?_, ?_, ?_, ?_, ?_, ?_⟩ <;> decide +kernel

theorem witness_FabricInterface :
    (let ok := [(FIL_STATUS.STATE, 1, 0, 0), (FIL_RTX_BYTES, 512, 0, 0), (FIL_RTX_BASE_LO, 0x55000000, 0, 0), (FIL_TABLE_BASE_LO, 0x7F000000, 0, 0)]
     (stLink 1 ok {}).sound ∧ (stLink 1 ok {}).get FIL_STATUS.STATE = Fn.stopped ∧ filCheck (stLink 1 ok {}) = none ∧
       filCheck (stLink 1 (ok ++ [(FIL_RTX_BYTES, 513, 0, 0)]) {}) = some Code.badArgument) ∧
      (∃ q < 24, (stLink 3 [] {}).get FIL_PORT_STATUS.STATE q = Fn.running) ∧
      (∀ q < 24, (stLink 1 [] {}).get FIL_PORT_STATUS.STATE q ≠ Fn.running) ∧
      (stLink 1 [(FIL_STATUS.STATE, 5, 0, 0)] {}).get FIL_STATUS.STATE = Fn.faulted ∧
      (stLink 3 [(FIL_PORT_STATUS.LINK, 2, 23, 0)] {}).get FIL_PORT_STATUS.LINK (4 * 5 + 3) = 2 := by
  refine ⟨?_, ⟨23, ?_, ?_⟩, ?_, ?_, ?_⟩ <;> decide +kernel

/-- A transaction from node 9 for this device, with its payload. -/
def fromNine (opc : Nat) (sys : Bool) (addr len : Nat) (b : Bytes) : Txn :=
  { opc := BitVec.ofNat 8 opc, vc := 0, dst := 0, comb := false, sys := sys, resend := false, poison := false, src := 9, stamp := 0
    seq := 0, dseq := 0, inc := 1, addr := addr, atop := 0, code := 0, len := len, payload := b }

/-- Port 23 UP in a RUNNING interface, node 9 known under incarnation 1, with some fields and fabric state. -/
def stFab (l : List (Fld × Nat × Nat × Nat)) (f : Fab → Fab) : State :=
  let s := stLink 3 ([(FIL_PORT_STATUS.LINK, 2, 23, 0)] ++ l) {}
  { s with fab := f { s.fab with incs := [(9, 1)] } }

theorem witness_FabricArrivals :
    (stFab [] id).sound ∧ linkUp (stFab [] id) 23 = true ∧ linkUp (stLink 3 [] {}) 23 = false ∧ (fromNine 3 true 0 0 []).opc.toNat ≠ 1 ∧
      5 ≠ ownNode (stFab [] id) ∧ (stFab [] id).bit FIL_ROLE.CLASP = false ∧ (stFab [(FIL_ROLE.CLASP, 1, 0, 0)] id).bit FIL_ROLE.CLASP = true ∧
      incOf (stFab [] id) 8 = 0 ∧ incOf (stFab [] id) 9 ≠ 2 ∧ isRequest 0x03 = true ∧ isRequest 0x04 = false ∧
      extendStamp 0 (nowN (stFab [] id)) + 1 < 2 ^ 64 := by
  refine ⟨?_, ?_, ?_, ?_, ?_, ?_, ?_, ?_, ?_, ?_, ?_, ?_⟩ <;> decide +kernel

theorem fromNine_accepted (o : Nat) (sys : Bool) (addr len : Nat) (b : Bytes) :
    accepted (stFab [] id) 23 (o % 256) (fromNine o sys addr len b) := by
  refine ⟨by decide +kernel, by simp [fromNine], ?_, ?_, ?_⟩
  · exact (by decide +kernel : 0 = ownNode (stFab [] id))
  · exact (by decide +kernel : incOf (stFab [] id) 9 ≠ 0)
  · exact (by decide +kernel : incOf (stFab [] id) 9 = 1)

theorem witness_FabricRequests :
    exported (noted (stFab [] id) 23 (fromNine 3 true 0 0 [])) (fromNine 3 true 0 0 []) = true ∧
      exported (noted (stFab [] id) 23 (fromNine 3 false 0 0 [])) (fromNine 3 false 0 0 []) = false ∧
      sharersIn (noted (stFab [] id) 23 (fromNine 3 true 0 0 [])) 0 0 (some 9) = [] ∧
      ahead (noted (stFab [] id) 23 (fromNine 3 true 0 0 [])) 9 0 = 0 := by
  refine ⟨?_, ?_, ?_, ?_⟩ <;> decide +kernel

theorem witness_FabricRequests_ahead :
    2 ^ 31 ≤ ahead (noted (stFab [] (fun f => { f with expected := [(9, 2)] })) 23 (fromNine 3 true 0 0 [])) 9 1 ∧
      0 < ahead (noted (stFab [] (fun f => { f with expected := [(9, 2)] })) 23 (fromNine 3 true 0 0 [])) 9 3 ∧
      ahead (noted (stFab [] (fun f => { f with expected := [(9, 2)] })) 23 (fromNine 3 true 0 0 [])) 9 3 < 2 ^ 31 := by
  refine ⟨?_, ?_, ?_⟩ <;> decide +kernel

theorem witness_FabricRequests_read :
    (devRead (noted (stFab [] id) 23 (fromNine 1 true 0 64 [])) 0 64).1 = Code.done ∧
      (devRead (noted (stFab [] id) 23 (fromNine 1 true 0 64 [])) (2 ^ 46) 64).1 ≠ Code.done ∧
      invPending (noted (stFab [] id) 23 (fromNine 1 true 0 64 [])) 0 64 = false ∧
      devWriteCode (noted (stFab [] id) 23 (fromNine 1 true 0 64 [])) 0 64 = Code.done ∧
      devWriteCode (noted (stFab [] id) 23 (fromNine 1 true 0 64 [])) (2 ^ 46) 64 ≠ Code.done := by
  refine ⟨?_, ?_, ?_, ?_, ?_⟩ <;> decide +kernel

theorem witness_FabricRequests_held :
    sharersIn (noted (stFab [(FIL_BANGLE.VALID, 1, 3, 0), (FIL_BANGLE.NODE, 5, 3, 0)] (fun f => { f with dir := [(0, 8)] })) 23
        (fromNine 3 true 0 0 [1])) 0 1 (some 9) = [5] ∧
      invPending (noted (stFab [] (fun f => { f with invWait := [{ addr := 0, data := [1], poison := false }] })) 23
        (fromNine 1 true 0 64 [])) 0 64 = true := by
  refine ⟨?_, ?_⟩ <;> decide +kernel

theorem witness_FabricRequests_atomic :
    atomicCode (noted (stFab [] id) 23 (fromNine 6 true 1 0 [])) (fromNine 6 true 1 0 []) ≠ Code.done ∧
      atomicCode (noted (stFab [] id) 23 (fromNine 6 true 0 0 [])) (fromNine 6 true 0 0 []) = Code.done ∧
      recordOf (noted (stFab [] (fun f => { f with replies := [(9 * 2 ^ 32, (7, 0))] })) 23 (fromNine 6 true 0 0 [])) 9 0 = some 7 ∧
      recordOf (noted (stFab [] id) 23 (fromNine 6 true 0 0 [])) 9 0 = none := by
  refine ⟨?_, ?_, ?_, ?_⟩ <;> decide +kernel

theorem witness_FabricRequests_stale :
    extendStamp 0 (nowN (noted { stFab [] id with clk := { n := 200000 } } 23 (fromNine 6 true 0 0 []))) + 120000 <
        nowN (noted { stFab [] id with clk := { n := 200000 } } 23 (fromNine 6 true 0 0 [])) ∧
      ¬extendStamp 0 (nowN (noted (stFab [] id) 23 (fromNine 6 true 0 0 []))) + 120000 <
        nowN (noted (stFab [] id) 23 (fromNine 6 true 0 0 [])) := by
  refine ⟨?_, ?_⟩ <;> decide +kernel

/-- A request of this device to node 9 that waits for its answer. -/
def stPend (opc : Nat) (w : Who) : Pend :=
  { x := { fromNine opc false 0 0 [] with seq := 4, dst := 9, src := 0 }, who := w, first := 100, last := 100 }

/-- A write to node 9 that no acknowledgement covers yet. -/
def copyNine : WCopy := { core := 0, x := { fromNine 3 false 0 0 [] with dst := 9, src := 0 }, at_ := 0 }

theorem witness_FabricAnswers :
    pendOf (noted (stFab [] (fun f => { f with pend := [stPend 1 .hub] })) 23 { fromNine 2 false 0 0 [] with seq := 4 })
        { fromNine 2 false 0 0 [] with seq := 4 } = some (stPend 1 .hub) ∧
      pendOf (noted (stFab [] id) 23 { fromNine 2 false 0 0 [] with seq := 4 }) { fromNine 2 false 0 0 [] with seq := 4 } = none ∧
      banglePos (noted (stFab [(FIL_BANGLE.VALID, 1, 3, 0), (FIL_BANGLE.NODE, 9, 3, 0)] id) 23 (fromNine 0x11 false 0 0 [])) 9 = some 3 ∧
      banglePos (noted (stFab [] id) 23 (fromNine 0x11 false 0 0 [])) 9 = none := by
  refine ⟨?_, ?_, ?_, ?_⟩ <;> decide +kernel

theorem witness_FabricAnswers_ack :
    (destAt (noted (stFab [] (fun f => { f with dests := [(9, { copies := [copyNine] })] })) 23 (fromNine 4 false 0 0 [])) 9).copies.filter
        (fun c => decide (((0 : Word) - c.x.dseq).toNat < 2 ^ 31)) ≠ [] ∧
      [stPend 6 (.cmd 0 1)].find? (fun p => p.x.seq == 4 && p.x.dst == 9 && p.x.opc.toNat == 0x06) = some (stPend 6 (.cmd 0 1)) ∧
      [stPend 6 .hub].find? (fun p => p.x.seq == 4 && p.x.dst == 9 && p.x.opc.toNat == 0x06) = some (stPend 6 .hub) := by
  refine ⟨?_, ?_, ?_⟩ <;> decide +kernel

/-- A device with a held request, an atomic that waits, a reply record and a write to node 9 that waits, all from 200 ms ago. -/
def stWaits : State :=
  stFab [] (fun f => { f with held := [{ x := fromNine 3 false 0 0 [], entries := [], at_ := 100 }], pend := [stPend 6 (.cmd 0 1)]
                              replies := [(9 * 2 ^ 32, (7, 100))], dests := [(9, { copies := [copyNine] })] })

theorem witness_FabricTimers :
    stWaits.sound ∧ stWaits.fab.held[0]? = some { x := fromNine 3 false 0 0 [], entries := [], at_ := 100 } ∧ stWaits.fab.held[1]? = none ∧
      100 + 100000 ≤ nowNs stWaits ∧ (destAt stWaits 9).copies.head? = some copyNine ∧ (destAt stWaits 9).progress + 100000 ≤ nowNs stWaits := by
  refine ⟨?_, ?_, ?_, ?_, ?_, ?_⟩ <;> decide +kernel

theorem witness_FabricTimers_atomic :
    atomicPend stWaits 4 = some (stPend 6 (.cmd 0 1)) ∧ atomicPend stWaits 5 = none ∧
      stWaits.fab.replies.find? (fun p => p.1 == 9 * 2 ^ 32 + (0 : Word).toNat) = some (9 * 2 ^ 32, (7, 100)) ∧
      (destAt (stFab [] id) 9).copies = [] ∧ (stFab [] id).fab.pend = [] := by
  refine ⟨?_, ?_, ?_, ?_, ?_⟩ <;> decide +kernel

/-- The journal in a state, with some fields replaced and records in its open block. -/
def stJrnl (state : Nat) (l : List (Fld × Nat × Nat × Nat)) (recs : List Bytes) : State :=
  let s := st ([(JRNL_STATUS.STATE, state, 0, 0)] ++ l)
  { s with jr := { s.jr with recs := recs }, clk := { s.clk with elapsed := 200000 * 2 ^ 32 } }

theorem witness_JournalCommands :
    (stJrnl 1 [] []).sound ∧ (stJrnl 1 [] []).get JRNL_STATUS.STATE = Fn.stopped ∧ (stJrnl 3 [] []).get JRNL_STATUS.STATE = Fn.running ∧
      (stJrnl 3 [(JRNL_REPLAY_PENDING, 2, 0, 0)] []).get JRNL_REPLAY_PENDING ≠ 0 ∧ (stJrnl 3 [] []).get JRNL_REPLAY_PENDING = 0 ∧
      (let s := stJrnl 3 [(JRNL_WPTR, 65535, 0, 0)] [[0]]
       s.jr.recs ≠ [] ∧ s.jr.firstAt + max 1000 (min 100000 (s.get JRNL_FLUSH_PERIOD)) ≤ nowNs s ∧ s.get JRNL_WPTR = 65535) := by
  refine ⟨?_, ?_, ?_, ?_, ?_, ?_⟩ <;> decide +kernel

theorem witness_JournalCommands_margins :
    (∀ m ∈ [0, 1, 2], 127 < marginPlaces m ∧ crosses m (-200) (threshold (stJrnl 3 [] []) MARGIN_WARN m) = true) ∧
      (3 < 7 ∧ 95 < marginPlaces 3 ∧ crosses 3 (-30000) (threshold (stJrnl 3 [] []) MARGIN_RETIRE 3) = true) ∧
      (95 < marginPlaces 4 ∧ crosses 4 70000 (threshold (stJrnl 3 [] []) MARGIN_WARN 4) = true) ∧
      (127 < marginPlaces 5 ∧ crosses 5 (-1) (threshold (stJrnl 3 [] []) MARGIN_WARN 5) = true) ∧
      (15 < marginPlaces 6 ∧ crosses 6 5000000000 (threshold (stJrnl 3 [] []) MARGIN_RETIRE 6) = true) ∧
      crosses 0 200 (threshold (stJrnl 3 [] []) MARGIN_RETIRE 0) = false := by
  refine ⟨?_, ?_, ?_, ?_, ?_, ?_⟩ <;> decide +kernel

theorem witness_Membership :
    (stJrnl 3 [] []).sound ∧ ownNode (stJrnl 3 [] []) = 0 ∧ ownNode (stJrnl 3 [(FIL_NODE, 9, 0, 0)] []) = 9 % 2 ^ 17 ∧
      (stJrnl 3 [(FIL_STATUS.FENCED, 1, 0, 0)] []).get FIL_STATUS.FENCED = 1 ∧ (stJrnl 3 [] []).get FIL_STATUS.FENCED = 0 ∧
      ({ stJrnl 3 [] [] with fab := { rejoin := true } } : State).fab.rejoin = true ∧ noTraffic { stJrnl 3 [] [] with fab := { rejoin := true } } = true ∧
      (stJrnl 3 [] []).cores = [] ∧ (stJrnl 3 [(FIL_STATUS.PARTITIONED, 1, 0, 0)] []).get FIL_STATUS.PARTITIONED = 1 ∧
      (stJrnl 3 [] []).get FIL_STATUS.PARTITIONED = 0 := by
  refine ⟨?_, ?_, ?_, ?_, ?_, ?_, ?_, ?_, ?_, ?_⟩ <;> decide +kernel

/-- A transaction of an opcode for a node. -/
def stTxn (opc dst : Nat) : Txn :=
  { opc := BitVec.ofNat 8 opc, vc := 0, dst := dst, comb := false, sys := false, resend := false, poison := false, src := 0, stamp := 0
    seq := 0, dseq := 0, inc := 0, addr := 0, atop := 0, code := 0, len := 0, payload := [] }

theorem witness_Membership_busy :
    noTraffic { stJrnl 3 [(FIL_STATUS.PARTITIONED, 1, 0, 0)] [] with
      fab := { dests := [(9, { copies := [{ core := 0, x := stTxn 6 9, at_ := 0 }] })] } } = false := by
  decide +kernel

/-- The reset state at a step of the Vigil, N at 70 s, with some fields and pins replaced. -/
def stVigil (stage : Nat) (l : List (Fld × Nat × Nat × Nat)) (f : Vig → Vig) : State :=
  let s := st ([(GLOBAL_VIGIL_STATUS.STAGE, stage, 0, 0)] ++ l)
  { s with vig := f s.vig, clk := { s.clk with elapsed := 70000000000 * 2 ^ 32 } }

/-- A flash header that names sections: type, offset, size. -/
def flashHdr (l : List (Nat × Nat × Nat)) : Bytes :=
  List.replicate 6 0 ++ bytesLe 2 l.length ++ List.replicate 0xF8 0 ++
    (l.map (fun e => bytesLe 2 e.1 ++ bytesLe 2 (if e.1 ≤ 2 then 1 else 0) ++ bytesLe 4 e.2.1 ++ bytesLe 4 e.2.2 ++
      List.replicate 52 0)).flatten

/-- One configuration record. -/
def recBytes (kind reg value aux : Nat) : Bytes :=
  bytesLe 4 kind ++ bytesLe 4 reg ++ bytesLe 8 value ++ bytesLe 8 aux

/-- A live apply of section 5, at record k of those given. -/
def stApply (k : Nat) (l : List Bytes) : State :=
  let b := l.flatten
  let s := stVigil 12 [] (fun v => { v with nvm := true, sect := some 5, recNo := k })
  { s with mbx := { s.mbx with op := some 0x40, args := [0, 0, 5] }
           mems := { s.mems with dev := wrBytes (wrBytes [] 0 (flashHdr [(5, 0x200, b.length)])) 0x200 b } }

theorem witness_ResetPins :
    State.reset.sound ∧ (stVigil 1 [] id).vig.aon = false ∧ (stVigil 1 [] (fun v => { v with aon := true })).vig.aon = true ∧
      (stVigil 1 [] id).vig.por = false ∧ (stVigil 1 [] (fun v => { v with por := true })).vig.por = true ∧
      (stVigil 1 [] (fun v => { v with en := 7 })).vig.en.testBit 2 = true ∧ (stVigil 1 [] (fun v => { v with en := 7 })).vig.en.testBit 3 = false ∧
      vigStage (stVigil 1 [] id) = Stage.romBoot ∧ (stVigil 1 [] (fun v => { v with good := 3 })).vig.good.testBit 2 = false ∧
      coreUsable State.reset 127 = true ∧ coreUsable (st [(CORE_ARR_STATUS.STATE, 0, 5, 0)]) 5 = false := by
  refine ⟨?_, ?_, ?_, ?_, ?_, ?_, ?_, ?_, ?_, ?_, ?_⟩ <;> decide +kernel

theorem witness_VigilSteps :
    (stVigil 1 [] (fun v => { v with en := 63, good := 63 })).vig.good = 63 ∧ vigStage (stVigil 2 [] id) = Stage.auth ∧
      halfOk { present := false, header := [], sections := [], minCores := 0, timeWait := 0, joinWait := 0 } = false ∧
      vigStage (stVigil 3 [] id) = Stage.almanac ∧ vigStage (stVigil 4 [] id) = Stage.clocks ∧ vigStage (stVigil 5 [] id) = Stage.align ∧
      (stVigil 5 [(GLOBAL_VIGIL_STATUS.ALIGN_RETRIES, 2, 0, 0)] id).get GLOBAL_VIGIL_STATUS.ALIGN_RETRIES = 2 ∧
      (stVigil 5 [(GLOBAL_VIGIL_STATUS.ALIGN_RETRIES, 3, 0, 0)] id).get GLOBAL_VIGIL_STATUS.ALIGN_RETRIES = 3 ∧
      vigStage (stVigil 6 [] id) = Stage.memory ∧ ((List.range 16).filter (fun i => !(0xFFFC#16).getLsbD i)).length = 2 ∧
      ((List.range 16).filter (fun i => !(0xFFF8#16).getLsbD i)).length = 3 ∧ vigStage (stVigil 7 [] id) = Stage.arrays := by
  refine ⟨?_, ?_, ?_, ?_, ?_, ?_, ?_, ?_, ?_, ?_, ?_, ?_⟩ <;> decide +kernel

/-- A half authenticates wherever the digests and the signature, which only the device can compute, do. -/
theorem witness_VigilSteps_half (h1 : ∀ k, Config.sha384 k = Config.fuseOperatorDigest)
    (h2 : Config.fuseSecVersion = 0) (h3 : ∀ a b c, Config.ecdsaVerify a b c = true) :
    halfOk { present := true, header := bytesLe 4 0x4C474956 ++ bytesLe 4 1 ++ flashHdr [], sections := [], minCores := 0, timeWait := 0, joinWait := 0 } = true := by
  have a : ∀ h : Bytes, le h 0 4 = 0x4C474956 → le h 4 2 = 1 → hdrOk h = true := by
    intro h x y
    unfold hdrOk
    rw [x, y, h1, h2, h3]; simp
  exact a _ (by decide +kernel) (by decide +kernel)

theorem witness_VigilSteps_later :
    let good : Vig → Vig := fun v => { v with header := flashHdr [(1, 0, 0), (2, 0, 0), (3, 0, 0), (4, 0, 0)], sections := [true, true, true, true] }
    let bad : Vig → Vig := fun v => { v with header := flashHdr [(1, 0, 0), (2, 0, 0), (3, 0, 0), (4, 0, 0)], sections := [true, true, true, false] }
    let s := stVigil 8 [] good
    vigStage s = Stage.firmware ∧ sectGood s 1 = true ∧ sectGood s 2 = true ∧ sectGood s 3 = true ∧
      s.vig.stepAt + 60000000000 ≤ nowNs s ∧ vigStage (stVigil 9 [] good) = Stage.functions ∧ (stVigil 9 [] good).vig.sect = none ∧
      domOn (stVigil 9 [] good) 197 = true ∧ (stVigil 9 [] good).get HOST_STATUS.STATE = Fn.stopped ∧
      nextSect (stVigil 9 [] good) 0 = some 4 ∧ sectGood (stVigil 9 [] good) 4 = true ∧ sectGood (stVigil 9 [] bad) 4 = false ∧
      nextSect (stVigil 9 [] id) 0 = none := by
  refine ⟨?_, ?_, ?_, ?_, ?_, ?_, ?_, ?_, ?_, ?_, ?_, ?_, ?_⟩ <;> decide +kernel

theorem foldSome (F : Option Byte → Option Bytes → Option Bytes) (hF : ∀ b l, F (some b) (some l) = some (b :: l)) (g : List Byte) :
    (g.map some).foldr F (some []) = some g := by
  induction g with
  | nil => rfl
  | cons x g ih => rw [List.map_cons, List.foldr_cons, ih, hF]

/-- A read of plain device memory, byte by byte. -/
theorem devRead_some (s : State) (a n : Nat) (f : Nat → Byte) (ht : a + n ≤ memTop s) (hp : ∀ i, devPlain s (a + i) = some (f i)) :
    devRead s a n = (Code.done, (List.range n).map f, badDev s a n) := by
  unfold devRead
  rw [if_neg (by omega), show (List.range n).map (fun i => devPlain s (a + i)) = ((List.range n).map f).map some by simp [hp],
    foldSome _ (fun _ _ => rfl)]

theorem le_range (f : Nat → Byte) (n o k : Nat) (h : o + k ≤ n) :
    le ((List.range n).map f) o k = leNat ((List.range k).map (fun i => f (o + i))) := by
  unfold le
  congr 1
  apply List.ext_getElem
  · simp; omega
  · intro i h1 h2; simp

theorem nvmBytes_some (s : State) (a n : Nat) (l : Bytes) (h : devRead s a n = (Code.done, l, false)) : nvmBytes s a n = some l := by
  unfold nvmBytes; rw [h]; rfl

theorem devPlain_open (s : State) (a : Nat) (h : s.wins = []) : devPlain s a = some (devByte s a) := by
  unfold devPlain encAt; rw [h]; rfl

theorem nvmHeader_at (s : State) (f : Nat → Byte) (n : Nat) (hn : n = 4096) (ht : n ≤ memTop s) (hp : ∀ i, devPlain s i = some (f i))
    (h0 : mbxArg2 s 0 = 0) (hb : badDev s 0 n = false) :
    ∃ h, nvmHeader s = h ∧ ∀ o k, o + k ≤ n → le h o k = leNat ((List.range k).map (fun i => f (o + i))) := by
  have e : nvmBytes s 0 n = some ((List.range n).map f) :=
    nvmBytes_some s 0 n _ (by rw [devRead_some s 0 n f (by omega) (fun i => by rw [Nat.zero_add, hp]), hb])
  refine ⟨_, rfl, fun o k g => ?_⟩
  unfold nvmHeader
  rw [h0, ← hn, e, Option.getD_some]
  exact le_range f _ _ _ g

theorem hdrSects_one (h : Bytes) (k : Nat) (h1 : le h 6 2 = 1) (h2 : le h 0x100 2 = 5) (h3 : le h 0x102 1 = 0) (h4 : le h 0x104 4 = 0x200)
    (h5 : le h 0x108 4 = k) : ∃ d, sectOf h 5 = some (0, { typ := 5, signer := 0, off := 0x200, size := k, digest := d }) := by
  have e : hdrSects h = [{ typ := 5, signer := 0, off := 0x200, size := k, digest := (h.drop 0x110).take 48 }] := by
    unfold hdrSects
    rw [h1]
    simp only [Nat.reduceLeDiff, inf_of_le_right, List.range_one, List.map_cons, List.map_nil, Nat.mul_zero, Nat.add_zero,
      Nat.reduceAdd, h2, h3, h4, h5]
  refine ⟨(h.drop 0x110).take 48, ?_⟩
  unfold sectOf
  rw [e]
  rfl

theorem nvmRecs_five (s : State) (k : Nat) (d : Bytes) (h0 : mbxArg2 s 0 = 0)
    (h : sectOf (nvmHeader s) 5 = some (0, { typ := 5, signer := 0, off := 0x200, size := k, digest := d })) :
    nvmRecs s 5 = cfgRecs (((nvmBytes s 0x200 k).getD []).length / 24 + 1) ((nvmBytes s 0x200 k).getD []) := by
  unfold nvmRecs
  rw [h, Option.map_some, Option.getD_some]
  dsimp only
  rw [show nvmSection s { typ := 5, signer := 0, off := 0x200, size := k, digest := d } = (nvmBytes s 0x200 k).getD [] by
    unfold nvmSection; dsimp only; rw [h0, Nat.zero_add]]

theorem witness_ConfigRecords :
    let s := stApply 1 [recBytes 0 0x20004 7 0, recBytes 0 0x60010 9 0]
    s.sound ∧ s.vig.sect = some 5 ∧ s.vig.nvm = true ∧ (nvmRecs s 5)[s.vig.recNo]? = some { kind := 0, reg := 0x60010, value := 9, aux := 0, data := [], ok := true } ∧
      s.mbx.op.isSome = true ∧ s.mbx.code = none := by
  refine ⟨?_, ?_, ?_, ?_, ?_, ?_⟩
  rotate_left 3
  · obtain ⟨t, ht⟩ : ∃ t, t = stApply 1 [recBytes 0 0x20004 7 0, recBytes 0 0x60010 9 0] := ⟨_, rfl⟩
    have hw : t.wins = [] := by rw [ht]; decide +kernel
    have h0 : mbxArg2 t 0 = 0 := by rw [ht]; decide +kernel
    obtain ⟨h, e, hl⟩ := nvmHeader_at t (devByte t) 4096 rfl (by rw [ht]; decide +kernel) (fun i => devPlain_open t i hw) h0
      (by rw [ht]; decide +kernel)
    obtain ⟨d, hd⟩ := hdrSects_one h 48 (by rw [hl _ _ (by omega), ht]; decide +kernel) (by rw [hl _ _ (by omega), ht]; decide +kernel)
      (by rw [hl _ _ (by omega), ht]; decide +kernel) (by rw [hl _ _ (by omega), ht]; decide +kernel) (by rw [hl _ _ (by omega), ht]; decide +kernel)
    rw [← ht, nvmRecs_five t 48 d h0 (by rw [e]; exact hd), ht]
    decide +kernel
  all_goals decide +kernel

theorem witness_ConfigRecords_kinds :
    cfgRecs 1 (recBytes 9 0 0 0) = [{ kind := 9, reg := 0, value := 0, aux := 0, data := [], ok := false }] ∧
      cfgRecs 1 (recBytes 4 0 0 0) = [{ kind := 4, reg := 0, value := 0, aux := 0, data := [], ok := true }] := by
  constructor <;> decide +kernel

theorem witness_ConfigRecords_start :
    let s := stVigil 9 [(HOST_STATUS.STATE, 3, 0, 0)] (fun v => { v with sect := some 5 })
    vigStage s = Stage.functions ∧ s.vig.nvm = false ∧ s.vig.sect = some 5 ∧ s.vig.waitFn = none ∧
      getBits (peekReg s 0x60004) 0 3 = Fn.running ∧ peekReg s 0x60004 &&& 7 = 3 ∧ peekReg s 0x60004 &&& 7 ≠ 4 ∧
      ownerOf 0 = none ∧ (ownerOf (CORE_ARR_REPAIR.EN.addr 5)).isSome = true ∧ nextSect s 5 = none := by
  refine ⟨?_, ?_, ?_, ?_, ?_, ?_, ?_, ?_, ?_, ?_⟩ <;> decide +kernel

theorem witness_TimeAndJoin :
    let locked : Fld × Nat × Nat × Nat := (ALM_STATUS.TIME_STATE, 2, 0, 0)
    let port : List (Fld × Nat × Nat × Nat) := [(FIL_PORT_STATUS.LINK, 2, 3, 0)]
    timeState (stVigil 10 [locked] id) = Ts.locked ∧ vigStage (stVigil 10 [locked] id) = Stage.timeLock ∧
      (stVigil 12 [locked, (GLOBAL_VIGIL_STATUS.TIME_PENDING, 1, 0, 0)] id).get GLOBAL_VIGIL_STATUS.TIME_PENDING = 1 ∧
      timeState (stVigil 10 [] id) ≠ Ts.locked ∧ (stVigil 10 [] id).vig.stepAt + (stVigil 10 [] id).vig.timeWait * 1000000000 ≤ nowNs (stVigil 10 [] id) ∧
      hasFabric (stVigil 10 [locked] id) = false ∧ hasFabric (stVigil 10 [locked] (fun v => { v with header := flashHdr [(7, 0, 0)] })) = true ∧
      joinPort (stVigil 11 port (fun v => { v with joining := true })) = true ∧ joinPort (stVigil 11 [] id) = false ∧
      noTraffic (stVigil 11 [] id) = true ∧ ((0 : Nat) : Int) * 256 - 0 ≤ nowN (stVigil 11 [] id) * 256 + (stVigil 11 [] id).clk.frac.toNat / 2 ^ 24 ∧
      (let s := stVigil 11 [] (fun v => { v with joining := true }); s.vig.stepAt + s.vig.joinWait * 1000000000 ≤ nowNs s) ∧
      (stVigil 12 [(GLOBAL_VIGIL_STATUS.JOIN_PENDING, 1, 0, 0)] id).get GLOBAL_VIGIL_STATUS.JOIN_PENDING = 1 := by
  refine ⟨?_, ?_, ?_, ?_, ?_, ?_, ?_, ?_, ?_, ?_, ?_, ?_, ?_⟩ <;> decide +kernel

/-- Core 127 with its maintenance state, its array in a state, its domain on. -/
def stMaint (arr : Nat) (k : Core) : State :=
  { st [(PWR_DOM_ON, 0xFFFFFFFF, 3, 0), (CORE_ARR_STATUS.STATE, arr, 127, 0)] with
    cores := [(127, k)], clk := { elapsed := 2000000000 * 2 ^ 32 } }

theorem witness_MaintenanceActivities :
    (stMaint 3 {}).sound ∧ ([Act.arrayCheck, Act.canary, Act.droop, Act.marginCheck, Act.cpLoad].all (fun i =>
      actReady (stMaint 3 { maintQ := [{ kind := i }] }) 127 i)) = true ∧
    actReady (stMaint 3 { maint := [{ kind := Act.droop }] }) 127 Act.canary = false ∧ arrState (stMaint 3 {}) 127 ≠ Fn.stopped := by
  refine ⟨?_, ?_, ?_, ?_⟩ <;> decide +kernel

theorem witness_MaintenanceActivities_end :
    (∀ i < 6, firstAct ([({ kind := i, arg := 3, endAt := 100 } : Activity), { kind := 1, endAt := 200 }].filter (fun a => decide (a.endAt ≤ now10 (stMaint 3 {})))) =
      some { kind := i, arg := 3, endAt := 100 }) ∧
    (∀ m ∈ [0, 2], (let t := threshold (stMaint 3 {}) MARGIN_WARN m
      crosses m (255 : Nat) t = false ∧ crosses m (255 : Nat) (threshold (stMaint 3 {}) MARGIN_RETIRE m) = false)) ∧
    suspect (stMaint 3 {}) 127 = false ∧ firstAct (([] : List Activity)) = none ∧
    (({ slots := [(3, { copying := true })] } : Core).slot 3).copying = true ∧ (({} : Core).slot 3).copying = false ∧
    reloadAsked (stMaint 3 {}) 127 3 = false ∧
    reloadAsked { stMaint 3 {} with mbx := { op := some 2, args := [127 + 256 * 3], code := none } } 127 3 = true := by
  refine ⟨?_, ?_, ?_, ?_, ?_, ?_, ?_, ?_⟩ <;> decide +kernel

theorem witness_PowerDomains :
    (st []).sound ∧ (st [(PWR_DOM_RESULT.BUSY, 1, 0, 0)]).get PWR_DOM_RESULT.BUSY = 1 ∧ (st []).get PWR_DOM_RESULT.BUSY = 0 ∧
      (keptOff (st [(CORE_ARR_STATUS.STATE, Fn.absent, 127, 0)]) 127 = true) ∧ keptOff (st []) 0 = false ∧ keptOff (st []) 197 = false ∧
      offRefused (stMaint 3 {}) 127 = true ∧ offRefused (stMaint 1 {}) 127 = false ∧ offRefused (st []) 195 = false ∧
      198 ≤ 255 % 256 ∧ 197 % 256 < 198 := by
  refine ⟨?_, ?_, ?_, ?_, ?_, ?_, ?_, ?_, ?_, ?_, ?_⟩ <;> decide +kernel

theorem witness_PowerDomains_done :
    (∀ on ∈ [true, false], (let s : State := { stMaint 1 {} with pwrSw := some (197, on, 2000000000) }
      s.pwrSw = some (197, on, 2000000000) ∧ 2000000000 ≤ nowNs s)) ∧
    nowNs (stMaint 1 {}) < 2000000001 ∧ (stMaint 1 {}).pwrSw = none := by
  refine ⟨?_, ?_, ?_⟩ <;> decide +kernel

/-! ## Registers: states that meet the hypotheses of the statements -/

theorem witness_AliasReads :
    (isAlias 0x4000000 = true ∧ 0x4000000 % 4 = 0 ∧ smbusOpen (State.reset.set GLOBAL_VIGIL_STATUS.STAGE 12) = true) ∧
    (State.reset.sound ∧ 0 < 32 ∧ 31 < 32 ∧ State.reset.clk.setPend = none ∧ State.reset.clk.stepPend = none ∧
      State.reset.clk.servoStep = none ∧ State.reset.clk.incrPend = none) :=
  ⟨by decide +kernel, ⟨rfl, rfl⟩, by decide, by decide, rfl, rfl, rfl, rfl⟩

theorem witness_MailboxCommands :
    ((st []).bit MBX_CLAIM.HELD = false ∧ (st []).behaveReset = []) ∧
    ((stMbx [] []).bit MBX_CLAIM.HELD = true ∧ (stMbx [] []).get MBX_CLAIM.OWNER = ownerCode .host ∧
      (stMbx [] []).get MBX_CLAIM.OWNER ≠ ownerCode .smbus) ∧
    (mbxFits (stMbx [] []) 0x40 (fun _ => Code.done) = true ∧
      bulkCheck (mbxTaken (stMbx [0xFFFFFFFF] []) .host 0x31) ≠ Code.done) ∧
    (({ st [] with mbx := { op := some 0x15, code := some Code.done, res := [7] } } : State).mbx.op = some 0x15) :=
  ⟨⟨by decide +kernel, by decide +kernel⟩, ⟨by decide +kernel, by decide +kernel, by decide +kernel⟩,
    ⟨by decide +kernel, by decide +kernel⟩, by decide +kernel⟩

/-- The management port in a state with its link up. -/
def stMge (state : Nat) (l : List (Fld × Nat × Nat × Nat)) : State :=
  st ([(GLOBAL_MGE_STATUS.STATE, state, 0, 0), (GLOBAL_MGE_STATUS.LINK_UP, 1, 0, 0), (GLOBAL_MGE_RX_SIZE, 4, 0, 0), (GLOBAL_MGE_TX_SIZE, 12, 0, 0)] ++ l)

/-- A broadcast frame of a length. -/
def mgeCast (n : Nat) : Bytes := List.replicate 6 0xFF ++ List.replicate (n - 6) 0

theorem witness_ManagementPort_start :
    (stMge 1 []).sound ∧ (stMge 1 []).get GLOBAL_MGE_STATUS.STATE = Fn.stopped ∧ (stMge 1 []).get GLOBAL_MGE_RX_SIZE = 4 ∧
      (stMge 1 []).get GLOBAL_MGE_TX_SIZE = 12 ∧ (stMge 1 [(GLOBAL_MGE_RX_SIZE, 13, 0, 0)]).get GLOBAL_MGE_RX_SIZE = 13 ∧
      (stMge 5 []).get GLOBAL_MGE_STATUS.STATE = Fn.faulted := by
  refine ⟨?_, ?_, ?_, ?_, ?_, ?_⟩ <;> decide +kernel

theorem witness_ManagementPort_receive :
    (stMge 3 []).get GLOBAL_MGE_STATUS.STATE = Fn.running ∧ (stMge 3 []).get GLOBAL_MGE_STATUS.LINK_UP = 1 ∧
      mgeMine (stMge 3 []) (mgeCast 60) = true ∧ (mgeCast 60).length = 60 ∧ (mgeCast 59).length < 60 ∧
      mgeMine (stMge 3 [(GLOBAL_MGE_MAC_LO, 1, 0, 0)]) (List.replicate 60 0) = false ∧
      ringFull (0 % 16) ((stMge 3 []).get GLOBAL_MGE_RX_HEAD) 16 = false ∧
      ringFull ((stMge 3 [(GLOBAL_MGE_RX_TAIL, 15, 0, 0)]).get GLOBAL_MGE_RX_TAIL % 16) ((stMge 3 []).get GLOBAL_MGE_RX_HEAD) 16 = true := by
  refine ⟨?_, ?_, ?_, ?_, ?_, ?_, ?_, ?_⟩ <;> decide +kernel

/-- One descriptor in the transmit ring, of a frame of n bytes. -/
def stMgeOut (n : Nat) : State :=
  { stMge 3 [(GLOBAL_MGE_TX_BASE_LO, 0x80000000, 0, 0), (GLOBAL_MGE_TX_TAIL, 1, 0, 0)] with
    mems := { dev := wrBytes (wrBytes [] 0x90000000 (mgeCast 60)) 0x80000000 (bytesLe 8 0x90000000 ++ bytesLe 4 n) } }

theorem witness_ManagementPort_transmit :
    (let s := stMgeOut 60
     let out := devRead s (memLe s 0x80000000 8) (min 2048 (memLe s 0x80000008 4))
     (stMgeOut 60).get GLOBAL_MGE_TX_TAIL % 4096 ≠ 0 ∧ out.1 = Code.done ∧ out.2.1.length = 60 ∧ out.2.2 = false) ∧
      (let s := stMgeOut 59
       let out := devRead s (memLe s 0x80000000 8) (min 2048 (memLe s 0x80000008 4))
       out.1 = Code.done ∧ out.2.1.length = 59) := by
  refine ⟨⟨?_, ?_, ?_, ?_⟩, ?_, ?_⟩ <;> decide +kernel

theorem witness_ManagementPort_mdio :
    getBits 0x80000000 31 1 = 1 ∧ getBits 0x80000000 28 2 = 0 ∧ getBits 0x80000000 30 1 = 0 ∧ getBits 0xC0000000 30 1 = 1 ∧
      getBits 0x90000000 28 2 = 1 ∧ getBits 0xA0000000 28 2 = 2 ∧ (stMge 3 []).get GLOBAL_MGE_MDIO.GO = 0 ∧
      (stMge 3 [(GLOBAL_MGE_MDIO.GO, 1, 0, 0)]).get GLOBAL_MGE_MDIO.GO = 1 := by
  refine ⟨?_, ?_, ?_, ?_, ?_, ?_, ?_, ?_⟩ <;> decide +kernel

/-- The host interface RUNNING, the management port in a state, N past the last scrub. -/
def stBus (state : Nat) (l : List (Fld × Nat × Nat × Nat)) : State :=
  { stMge state ([(HOST_STATUS.STATE, 3, 0, 0)] ++ l) with clk := { n := 5000000 } }

theorem witness_RegisterWrites :
    (stBus 1 []).sound ∧ (stMge 1 []).get HOST_STATUS.STATE = Fn.stopped ∧ (stBus 1 []).get HOST_STATUS.STATE ≠ Fn.stopped ∧
      (stBus 1 []).get GLOBAL_MGE_STATUS.STATE = Fn.stopped ∧ (stBus 3 []).get GLOBAL_MGE_STATUS.STATE = Fn.running ∧
      (stBus 1 []).cal.deferred = [] ∧ isAlias 0x3FFFFFF = false ∧ nowN (stBus 1 []) / 1000000 ≠ (stBus 1 []).scrubMs ∧
      nowN { stBus 1 [] with scrubMs := 5 } / 1000000 = 5 ∧ smbusOpen (stBus 1 []) = false ∧
      (let s := stBus 1 [(GLOBAL_VIGIL_STATUS.STAGE, 12, 0, 0), (MBX_CLAIM.HELD, 1, 0, 0), (MBX_CLAIM.OWNER, 6, 0, 0)]
       smbusOpen s = true ∧ s.get MBX_CLAIM.HELD = 1 ∧ s.get MBX_CLAIM.OWNER = 6 ∧ s.get MBX_STATUS.BUSY = 0) := by
  refine ⟨?_, ?_, ?_, ?_, ?_, ?_, ?_, ?_, ?_, ?_, ?_⟩ <;> decide +kernel

end Sys2Proof.Tests
end

section
/-! PROOFS. Register writes, their aliases, the SMBus port and the parity scrubber, on the management port's registers
(00_scope.md R5; 18_registers_mailbox.md R408, R411 to R414, R441). -/

namespace Sys2Proof.Machine

/-! ## The registers shown: their rows, their owners, and where the map places them -/

/-- The map's row of the management port's control register (18_registers_mailbox.md R418). -/
def mgeCtrlRow : RegRow := ⟨"GLOBAL_MGE_CTRL", 0x200, 0x0, 1, 0x0, 1, some 0x204, [⟨1, 1, .wo, 0⟩, ⟨0, 0, .wo, 0⟩]⟩

/-- The map's row of the low word of the management port's address (18_registers_mailbox.md R418). -/
def mgeMacLoRow : RegRow := ⟨"GLOBAL_MGE_MAC_LO", 0x208, 0x0, 1, 0x0, 1, some 0x204, [⟨31, 0, .rwl, 0⟩]⟩

/-- The map's row of the mailbox's arguments (18_registers_mailbox.md R425). -/
def mbxArgRow : RegRow := ⟨"MBX_ARG", 0x10020, 0x4, 8, 0x0, 1, none, [⟨31, 0, .rw, 0⟩]⟩

theorem regAt_mgeCtrl : regAt GLOBAL_MGE_CTRL.START.addr = some (mgeCtrlRow, 0, 0) := rfl
theorem regAt_mgeMacLo : regAt GLOBAL_MGE_MAC_LO.addr = some (mgeMacLoRow, 0, 0) := rfl
theorem regAt_mbxArg : regAt MBX_ARG.addr = some (mbxArgRow, 0, 0) := rfl

theorem ownerOf_mgeMacLo : ownerOf GLOBAL_MGE_MAC_LO.addr = some mgeFn := rfl
theorem ownerOf_mbxArg : ownerOf MBX_ARG.addr = none := rfl
theorem parityOwner_mgeMacLo : parityOwner GLOBAL_MGE_MAC_LO.addr = some mgeFn := rfl
theorem protected_mgeMacLo : protected_ GLOBAL_MGE_MAC_LO.addr = true := rfl

/-- The state of the management port is the field STATE of its status register. -/
theorem fnState_mge (s : State) : fnState s mgeFn = s.get GLOBAL_MGE_STATUS.STATE := fnState_eq s mgeFn

/-! ## Refused accesses -/

/-- A refused access at an offset is counted, the offset is recorded, and the flag is set (18_registers_mailbox.md R408). -/
abbrev Counted (s : State) (o : Nat) (t : State) : Prop :=
  t.get GLOBAL_BAD_ACCESS = min (s.get GLOBAL_BAD_ACCESS + 1) (2 ^ 32 - 1) ∧ t.get GLOBAL_BAD_ADDR = o % 2 ^ 27 ∧
    t.get GLOBAL_STATUS.BAD_ACCESS_SEEN = 1

theorem badAccess_counted (s : State) (o : Nat) (hb : s.behaveReset = []) : Counted s o (badAccess s o) := by
  unfold badAccess State.bumpSat
  refine ⟨?_, ?_, ?_⟩
  · rw [get_set_reg _ _ _ _ _ _ _ _ (by decide), get_set_reg _ _ _ _ _ _ _ _ (by decide), get_set_self _ _ _ _ _ hb (by decide)]
    exact Nat.mod_eq_of_lt (by simp only [Nat.reducePow]; omega)
  · rw [get_set_reg _ _ _ _ _ _ _ _ (by decide), get_set_self _ _ _ _ _ (by simpa using hb) (by decide)]
  · exact get_set_self _ _ _ _ _ (by simpa using hb) (by decide)

/-! ## A write of one register -/

/-- The write that a requester makes of some bits of the register of a row. -/
def regWrOf (s : State) (rq : Requester) (r : RegRow) (i k o : Nat) (v mask : Word) : RegWr :=
  { rq := rq, row := r, i := i, k := k, o := o, mask := mask, act := v &&& mask
    full := (heldWord s r.off o &&& ~~~mask) ||| (v &&& mask) }

section
variable (s : State) (rq : Requester) {o : Nat} {r : RegRow} {i k : Nat} (v mask : Word)

/-- A write with more than one action bit is refused (18_registers_mailbox.md R441). -/
theorem regWrite_actions (hp : blockAbsent s o = false) (hr : regAt o = some (r, i, k))
    (ha : 1 < actionCount (regWrOf s rq r i k o v mask)) : regWrite s rq o v mask = badAccess s o := by
  unfold regWrOf at ha
  simp [regWrite, hp, hr, ha]

/-- A write of a control register does its one action (18_registers_mailbox.md R441). -/
theorem regWrite_control {t : State} (hp : blockAbsent s o = false) (hr : regAt o = some (r, i, k))
    (ha : ¬ 1 < actionCount (regWrOf s rq r i k o v mask)) (hi : ownIgnored s (regWrOf s rq r i k o v mask) = none)
    (hc : ctrlWrite s (regWrOf s rq r i k o v mask) = some t) : regWrite s rq o v mask = t := by
  unfold regWrOf at ha hi hc
  simp [regWrite, hp, hr, ha, hi, hc]

/-- A write of a register that no rule of its own concerns goes by the access types of its fields (00_scope.md R5). -/
theorem regWrite_plain (hp : blockAbsent s o = false) (hr : regAt o = some (r, i, k))
    (ha : ¬ 1 < actionCount (regWrOf s rq r i k o v mask)) (hi : ownIgnored s (regWrOf s rq r i k o v mask) = none)
    (hc : ctrlWrite s (regWrOf s rq r i k o v mask) = none) (ho : ownWrite s (regWrOf s rq r i k o v mask) = none)
    (hd : r.off ≠ CORE_DBG_CTRL.HALT.off) :
    regWrite s rq o v mask =
      afterWrite (plainWrite s (regWrOf s rq r i k o v mask)) (regWrOf s rq r i k o v mask) := by
  unfold regWrOf at ha hi hc ho ⊢
  simp only [regWrite, hp, hr, ha, hi, hc, ho, hd, if_false, Bool.false_eq_true]

end

/-! ## What a plain register takes (00_scope.md R5) -/

/-- No mismatch stands in a sound state for a rewrite to end. -/
theorem rewritten_sound (s : State) (o : Nat) (hs : s.sound) : rewritten s o = s := by
  obtain ⟨hb, hu⟩ := hs
  cases s; simp_all [rewritten]

/-- The register at an offset has taken a word, and every other register reads as before. -/
abbrev Took (o : Nat) (x : Word) (s t : State) : Prop := rdReg t o = x ∧ regsBut [o] s t

theorem wrReg_took (s : State) (o : Nat) (x : Word) (hb : s.behaveReset = []) : Took o x s (wrReg s o x) :=
  ⟨rdReg_wrReg s o x (by simp [hb]), fun p hp => rdReg_wrReg_other s x (by simpa using hp)⟩

/-- A field write leaves every other register. -/
theorem set_regsBut (s : State) (f : Fld) (v i k : Nat) : regsBut [f.addr i k] s (s.set f v i k) :=
  fun p hp => rdReg_set_other s f v i k p (by simpa using hp)

/-- The mask of all bits, as `simp` writes it. -/
theorem and_ones (x : Word) : x &&& 4294967295#32 = x := BitVec.and_allOnes

section
variable (s : State) (w : RegWr) (hv : storedAs w.row.off w.full = w.full)
  (hbits : accBits w.row .rw + accBits w.row .rwl = 2 ^ 32 - 1) (hclr : accBits w.row .w1c = 0)
  (hopen : rwlOpen s w.o = some true) (hdeaf : domainDeaf s w.o = false)
include hv hbits hclr hopen hdeaf

/-- A register all of whose bits are RW, or RWL of a function that is STOPPED, is rewritten whole. -/
theorem plainWrite_open : plainWrite s w =
    rewritten (if w.full = mapGet resetWord s.regs w.o then s else wrReg s w.o w.full) w.o := by
  simp [plainWrite, hv, hopen, hdeaf, hclr, hbits, and_ones]

theorem plainWrite_took (hs : s.sound) : Took w.o w.full s (plainWrite s w) := by
  rw [plainWrite_open s w hv hbits hclr hopen hdeaf]
  split
  · next h =>
    rw [rewritten_sound s w.o hs]
    exact ⟨by rw [h, rdReg_held s (by simp [hs.1])], fun _ _ => rfl⟩
  · rw [rewritten_sound _ w.o (by simpa [State.sound] using hs)]
    exact wrReg_took s w.o w.full hs.1

end

/-- A register whose bits are RWL alone keeps its word while its function is not STOPPED; the function shows the refusal. -/
theorem plainWrite_locked (s : State) (w : RegWr) (hrw : accBits w.row .rw = 0) (hrwl : accBits w.row .rwl ≠ 0)
    (hclr : accBits w.row .w1c = 0) (htouch : w.mask &&& BitVec.ofNat 32 (accBits w.row .rwl) ≠ 0)
    (hopen : rwlOpen s w.o = some false) : plainWrite s w = rwlRefused s w.o := by
  simp [plainWrite, hopen, hrw, hrwl, hclr, (show ¬ _ = 0#32 from htouch), and_ones]

/-! ## The management port's address register -/

/-- The write of some bits of the address register. -/
abbrev mgeMacLoWr (s : State) (rq : Requester) (v mask : Word) : RegWr :=
  regWrOf s rq mgeMacLoRow 0 0 GLOBAL_MGE_MAC_LO.addr v mask

/-- A write of the address register goes by its access type alone. -/
theorem regWrite_mgeMacLo (s : State) (rq : Requester) (v mask : Word) :
    regWrite s rq GLOBAL_MGE_MAC_LO.addr v mask = plainWrite s (mgeMacLoWr s rq v mask) := by
  have hacts : ¬ 1 < actionCount (mgeMacLoWr s rq v mask) := by simp [actionCount, mgeMacLoRow, regWrOf]
  have hignored : ownIgnored s (mgeMacLoWr s rq v mask) = none := by simp [ownIgnored, regWrOf, mgeMacLoRow]
  have hctrl : ctrlWrite s (mgeMacLoWr s rq v mask) = none := by simp [ctrlWrite, regWrOf, mgeMacLoRow]
  have hown : ownWrite s (mgeMacLoWr s rq v mask) = none := by simp [ownWrite, regWrOf, mgeMacLoRow, Fld.addr, bankOfOff]
  rw [regWrite_plain s rq v mask rfl regAt_mgeMacLo hacts hignored hctrl hown (by decide)]
  simp [afterWrite, regWrOf, mgeMacLoRow]

/-- The address register is open exactly while the port is STOPPED. -/
theorem rwlOpen_mgeMacLo (s : State) (h : s.get GLOBAL_MGE_STATUS.STATE ≠ Fn.absent) :
    rwlOpen s GLOBAL_MGE_MAC_LO.addr = some (s.get GLOBAL_MGE_STATUS.STATE == Fn.stopped) := by
  simp only [rwlOpen, ownerOf_mgeMacLo, fnState_mge, h, if_false]

theorem mgeMacLo_rw : accBits mgeMacLoRow .rw = 0 := by decide
theorem mgeMacLo_rwl : accBits mgeMacLoRow .rwl = 2 ^ 32 - 1 := by decide
theorem mgeMacLo_w1c : accBits mgeMacLoRow .w1c = 0 := by decide

/-- While the port is STOPPED the address register takes the bits written over the word held. -/
theorem regWrite_mgeMacLo_stopped (s : State) (rq : Requester) (v mask : Word) (hs : s.sound)
    (h : s.get GLOBAL_MGE_STATUS.STATE = Fn.stopped) :
    Took GLOBAL_MGE_MAC_LO.addr (mgeMacLoWr s rq v mask).full s (regWrite s rq GLOBAL_MGE_MAC_LO.addr v mask) := by
  have hopen : rwlOpen s GLOBAL_MGE_MAC_LO.addr = some true := (rwlOpen_mgeMacLo s (by simp [h])).trans (by simp [h])
  have hv : ∀ x, storedAs mgeMacLoRow.off x = x := fun x => by simp [storedAs, mgeMacLoRow]
  have hbits : accBits mgeMacLoRow .rw + accBits mgeMacLoRow .rwl = 2 ^ 32 - 1 := by rw [mgeMacLo_rw, mgeMacLo_rwl, Nat.zero_add]
  rw [regWrite_mgeMacLo]
  exact plainWrite_took s (mgeMacLoWr s rq v mask) (hv _) hbits mgeMacLo_w1c hopen rfl hs

/-- While the port is neither STOPPED nor ABSENT a write of the address register sets CFG_WRITE_REJECT and nothing else. -/
theorem regWrite_mgeMacLo_locked (s : State) (rq : Requester) (v : Word)
    (h : s.get GLOBAL_MGE_STATUS.STATE ≠ Fn.stopped) (ha : s.get GLOBAL_MGE_STATUS.STATE ≠ Fn.absent) :
    regWrite s rq GLOBAL_MGE_MAC_LO.addr v (BitVec.allOnes 32) = s.set GLOBAL_MGE_STATUS.CFG_WRITE_REJECT 1 := by
  have hopen : rwlOpen s GLOBAL_MGE_MAC_LO.addr = some false := (rwlOpen_mgeMacLo s ha).trans (by simp [h])
  have htouch : BitVec.allOnes 32 &&& BitVec.ofNat 32 (accBits mgeMacLoRow .rwl) ≠ 0 := by rw [mgeMacLo_rwl]; decide
  have hrwl : accBits mgeMacLoRow .rwl ≠ 0 := by rw [mgeMacLo_rwl]; decide
  rw [regWrite_mgeMacLo, plainWrite_locked s (mgeMacLoWr s rq v (BitVec.allOnes 32)) mgeMacLo_rw hrwl mgeMacLo_w1c htouch hopen]
  exact (show rwlRefused s GLOBAL_MGE_MAC_LO.addr = rejectCfg s mgeFn by simp only [rwlRefused, ownerOf_mgeMacLo]).trans
    (rejectCfg_eq s mgeFn)

theorem regWrOf_full (s : State) (rq : Requester) (r : RegRow) (i k o : Nat) (v mask : Word) :
    (regWrOf s rq r i k o v mask).full = (heldWord s r.off o &&& ~~~mask) ||| (v &&& mask) := rfl

/-- A whole-word write leaves the word written. -/
theorem regWrOf_full_word (s : State) (rq : Requester) (r : RegRow) (i k o : Nat) (v : Word) :
    (regWrOf s rq r i k o v (BitVec.allOnes 32)).full = v := by simp [regWrOf, and_ones]

/-! ## The bit aliases (18_registers_mailbox.md R414) -/

/-- A word with one bit written over it. -/
def bitOver (x : Word) (b : Nat) (one : Bool) : Word :=
  (x &&& ~~~BitVec.ofNat 32 (2 ^ b)) ||| (BitVec.ofNat 32 (if one then 2 ^ b else 0) &&& BitVec.ofNat 32 (2 ^ b))

theorem bitOver_getLsbD (x : Word) (b : Nat) (one : Bool) {j : Nat} (hj : j < 32) :
    (bitOver x b one).getLsbD j = if j = b then one else x.getLsbD j := by
  have hbit : (2 ^ b).testBit j = decide (j = b) := by rw [Nat.testBit_two_pow]; exact decide_eq_decide.mpr eq_comm
  simp only [bitOver, BitVec.getLsbD_or, BitVec.getLsbD_and, BitVec.getLsbD_not, BitVec.getLsbD_ofNat, hj, hbit]
  by_cases hjb : j = b <;> cases one <;> simp [hjb, hbit]

/-- The alias of bit b of the address register. -/
theorem aliasOf_mgeMacLo {b : Nat} (hb : b < 32) :
    aliasOf (0x4000000 + GLOBAL_MGE_MAC_LO.addr / 4 * 128 + 4 * b) = (GLOBAL_MGE_MAC_LO.addr, b) := by
  have h1 : (0x4000000 + GLOBAL_MGE_MAC_LO.addr / 4 * 128 + 4 * b - 0x4000000) / 128 * 4 = GLOBAL_MGE_MAC_LO.addr := by
    simp only [Fld.addr]; omega
  have h2 : (0x4000000 + GLOBAL_MGE_MAC_LO.addr / 4 * 128 + 4 * b - 0x4000000) / 4 % 32 = b := by
    simp only [Fld.addr]; omega
  unfold aliasOf
  rw [h1, h2]; rfl

/-- Every bit of the address register is RWL. -/
theorem accAt_mgeMacLo {b : Nat} (hb : b < 32) : accAt GLOBAL_MGE_MAC_LO.addr b = some .rwl := by
  simp [accAt, regAt_mgeMacLo, bitAcc, mgeMacLoRow, Nat.le_of_lt_succ hb]

/-- With no mismatch standing a bit write is the register's write of that bit. -/
theorem bitWrite_sound (s : State) (rq : Requester) (o b : Nat) (one : Bool) (hs : s.sound) :
    bitWrite s rq o b one =
      regWrite s rq o (BitVec.ofNat 32 (if one then 2 ^ b else 0)) (BitVec.ofNat 32 (2 ^ b)) := by
  obtain ⟨hb, hu⟩ := hs
  simp [bitWrite, hb, hu]

/-- The word over which a bit is written is the one read, where no write waits for a cycle start. -/
theorem heldWord_mgeMacLo (s : State) (hs : s.sound)
    (hd : s.cal.deferred.filter (fun p => p.1 == GLOBAL_MGE_MAC_LO.addr) = []) :
    heldWord s mgeMacLoRow.off GLOBAL_MGE_MAC_LO.addr = rdReg s GLOBAL_MGE_MAC_LO.addr := by
  simp only [heldWord, hd, List.getLast?_nil]
  exact rdReg_held s (by simp [hs.1])

/-! ## Control registers and the mailbox -/

/-- The bits of a whole-word write are those of the word. -/
theorem regWrOf_has_word (s : State) (rq : Requester) (r : RegRow) (i k o : Nat) (v : Word) (b : Nat) :
    (regWrOf s rq r i k o v (BitVec.allOnes 32)).has b = v.toNat.testBit b := by simp [RegWr.has, regWrOf, and_ones]

/-- START and STOP are the control register's action bits. -/
theorem actionCount_mgeCtrl (w : RegWr) (h : w.row = mgeCtrlRow) :
    actionCount w = (w.has 0).toNat + (w.has 1).toNat := by
  cases h0 : w.has 0 <;> cases h1 : w.has 1 <;> simp [actionCount, h, mgeCtrlRow, h0, h1]

theorem ctrlWrite_mgeCtrl (s : State) {w : RegWr} (h : w.row.off = GLOBAL_MGE_CTRL.START.off) :
    ctrlWrite s w = startStop s w mgeStart mgeStop := if_pos h

/-- START and STOP together are refused (18_registers_mailbox.md R441). -/
theorem regWrite_mgeCtrl_both (s : State) (rq : Requester) :
    regWrite s rq GLOBAL_MGE_CTRL.START.addr 3 (BitVec.allOnes 32) = badAccess s GLOBAL_MGE_CTRL.START.addr := by
  refine regWrite_actions s rq _ _ rfl regAt_mgeCtrl ?_
  rw [actionCount_mgeCtrl _ rfl, regWrOf_has_word, regWrOf_has_word]
  decide

/-- A write of one action bit of the control register starts or stops the port. -/
theorem regWrite_mgeCtrl_one (s : State) (rq : Requester) (v : Word)
    (hv : (v.toNat.testBit 0).toNat + (v.toNat.testBit 1).toNat ≤ 1) :
    regWrite s rq GLOBAL_MGE_CTRL.START.addr v (BitVec.allOnes 32) =
      if v.toNat.testBit 0 then mgeStart s else if v.toNat.testBit 1 then mgeStop s else s := by
  refine regWrite_control s rq _ _ rfl regAt_mgeCtrl ?_ ?_ ?_
  · rw [actionCount_mgeCtrl _ rfl, regWrOf_has_word, regWrOf_has_word]; omega
  · simp [ownIgnored, regWrOf, mgeCtrlRow]
  · rw [ctrlWrite_mgeCtrl s rfl, startStop, regWrOf_has_word, regWrOf_has_word]

/-- The whole-word write of the mailbox's first argument. -/
abbrev mbxArgWr (s : State) (rq : Requester) (v : Word) : RegWr := regWrOf s rq mbxArgRow 0 0 MBX_ARG.addr v (BitVec.allOnes 32)

/-- The owner of the claim writes the arguments by their access type while no operation is in progress
(18_registers_mailbox.md R420). -/
theorem regWrite_mbxArg (s : State) (rq : Requester) (v : Word) (hheld : s.get MBX_CLAIM.HELD = 1)
    (howner : s.get MBX_CLAIM.OWNER = ownerCode rq) (hbusy : s.get MBX_STATUS.BUSY = 0) :
    regWrite s rq MBX_ARG.addr v (BitVec.allOnes 32) = plainWrite s (mbxArgWr s rq v) := by
  have hacts : ¬ 1 < actionCount (mbxArgWr s rq v) := by simp [actionCount, mbxArgRow, regWrOf]
  have hignored : ownIgnored s (mbxArgWr s rq v) = none := by
    simp [ownIgnored, regWrOf, mbxArgRow, State.bit, hheld, howner, hbusy]
  have hctrl : ctrlWrite s (mbxArgWr s rq v) = none := by simp [ctrlWrite, regWrOf, mbxArgRow]
  have hown : ownWrite s (mbxArgWr s rq v) = none := by simp [ownWrite, regWrOf, mbxArgRow, Fld.addr, bankOfOff]
  rw [regWrite_plain s rq v _ rfl regAt_mbxArg hacts hignored hctrl hown (by decide)]
  simp [afterWrite, regWrOf, mbxArgRow]

theorem regWrite_mbxArg_took (s : State) (rq : Requester) (v : Word) (hs : s.sound) (hheld : s.get MBX_CLAIM.HELD = 1)
    (howner : s.get MBX_CLAIM.OWNER = ownerCode rq) (hbusy : s.get MBX_STATUS.BUSY = 0) :
    Took MBX_ARG.addr v s (regWrite s rq MBX_ARG.addr v (BitVec.allOnes 32)) := by
  have hopen : rwlOpen s MBX_ARG.addr = some true := by simp only [rwlOpen, ownerOf_mbxArg]
  have hv : ∀ x, storedAs mbxArgRow.off x = x := fun x => by simp [storedAs, mbxArgRow]
  have hbits : accBits mbxArgRow .rw + accBits mbxArgRow .rwl = 2 ^ 32 - 1 := by decide
  have hclr : accBits mbxArgRow .w1c = 0 := by decide
  have htook := plainWrite_took s (mbxArgWr s rq v) (hv _) hbits hclr hopen rfl hs
  rw [regWrite_mbxArg s rq v hheld howner hbusy]
  rwa [mbxArgWr, regWrOf_full_word] at htook

/-! ## The bus and its requesters (18_registers_mailbox.md R408, R411; 09_contexts_tenants.md R443) -/

/-- The host's access while its interface is STOPPED. -/
abbrev HostOff (s : State) (rq : Requester) : Prop := rq = .host ∧ s.get HOST_STATUS.STATE = Fn.stopped

theorem writeBy_bus (s : State) {rq : Requester} (o size : Nat) (v : BitVec 64) (hq : rq ≠ .smbus) (hh : ¬ HostOff s rq) :
    writeBy s rq o size v = busWrite s rq o size v := by
  rw [writeBy, if_neg hh, if_neg (fun h => hq h.1)]

/-- A write that is not of 64 bits nor of one aligned word is refused. -/
theorem busWrite_refused (s : State) (rq : Requester) {o size : Nat} (v : BitVec 64) (h8 : size ≠ 8)
    (h4 : size ≠ 4 ∨ o % 4 ≠ 0) :
    busWrite s rq o size v = badAccess s o := by
  by_cases h : size = 4
  · simp [busWrite, wordWrite, h, h4.resolve_left (not_not.mpr h)]
  · simp [busWrite, h, h8]

/-- A write of one aligned word of a register held at its own offset. -/
theorem busWrite_word (s : State) (rq : Requester) {o : Nat} (v : Word) (ho : o % 4 = 0) (ha : isAlias o = false)
    (hh : homeOff o = o) : busWrite s rq o 4 (v.setWidth 64) = regWrite s rq o v (BitVec.allOnes 32) := by
  simp [busWrite, wordWrite, ho, ha, hh]

/-- A write of one aligned word of an alias. -/
theorem busWrite_alias (s : State) (rq : Requester) {o : Nat} (v : Word) (ho : o % 4 = 0) (ha : isAlias o = true) :
    busWrite s rq o 4 (v.setWidth 64) = aliasWrite s rq o v := by
  simp [busWrite, wordWrite, ho, ha]

/-- The SMBus port's write outside the mailbox, or before service is reached, is refused. -/
theorem writeBy_smbus_refused (s : State) {o : Nat} (size : Nat) (v : BitVec 64)
    (h : smbusOpen s = false ∨ o < 0x10000 ∨ 0x20000 ≤ o) : writeBy s .smbus o size v = badAccess s o := by
  have hc : !(smbusOpen s && decide (0x10000 ≤ o) && decide (o < 0x20000)) := by
    rcases h with h | h | h <;> simp [h]
  rw [writeBy, if_neg (by simp), if_pos ⟨rfl, hc⟩]

/-- Once service is reached the SMBus port's write of the mailbox goes to the bus. -/
theorem writeBy_smbus_mailbox (s : State) {o : Nat} (size : Nat) (v : BitVec 64) (hs : smbusOpen s = true) (h1 : 0x10000 ≤ o)
    (h2 : o < 0x20000) : writeBy s .smbus o size v = busWrite s .smbus o size v := by
  simp [writeBy, hs, h1, h2]

/-- A write of an alias of the address register is the register's write of that bit. -/
theorem aliasWrite_mgeMacLo (s : State) (rq : Requester) (v : Word) {b : Nat} (hb : b < 32) (hs : s.sound) :
    aliasWrite s rq (0x4000000 + GLOBAL_MGE_MAC_LO.addr / 4 * 128 + 4 * b) v =
      regWrite s rq GLOBAL_MGE_MAC_LO.addr (BitVec.ofNat 32 (if v.toNat.testBit 0 then 2 ^ b else 0))
        (BitVec.ofNat 32 (2 ^ b)) := by
  rw [aliasWrite, aliasOf_mgeMacLo hb, accAt_mgeMacLo hb, ← bitWrite_sound s rq _ b _ hs]
  exact if_pos rfl

/-- While the port is STOPPED a bit write of the address register stores that bit (18_registers_mailbox.md R414). -/
theorem regWrite_mgeMacLo_bit (s : State) (rq : Requester) (one : Bool) (b : Nat) (hs : s.sound)
    (h : s.get GLOBAL_MGE_STATUS.STATE = Fn.stopped) (hd : s.cal.deferred.filter (fun p => p.1 == GLOBAL_MGE_MAC_LO.addr) = []) :
    Took GLOBAL_MGE_MAC_LO.addr (bitOver (rdReg s GLOBAL_MGE_MAC_LO.addr) b one) s
      (regWrite s rq GLOBAL_MGE_MAC_LO.addr (BitVec.ofNat 32 (if one then 2 ^ b else 0)) (BitVec.ofNat 32 (2 ^ b))) := by
  have htook := regWrite_mgeMacLo_stopped s rq (BitVec.ofNat 32 (if one then 2 ^ b else 0)) (BitVec.ofNat 32 (2 ^ b)) hs h
  rwa [mgeMacLoWr, regWrOf_full, heldWord_mgeMacLo s hs hd] at htook

/-! ## Reads by the SMBus port -/

/-- The data returned are beside what a refusal counts. -/
theorem answered_counted {s : State} {o : Nat} (r : State × Nat) (h : Counted s o r.1) : Counted s o (answered r) := by
  have e (f : Fld) : (answered r).get f = r.1.get f := get_congr rfl rfl f 0 0
  simpa only [Counted, e] using h

theorem readBy_smbus_refused (s : State) {o : Nat} (size : Nat) (hc : smbusOpen s = false) (ho : 0x10000 ≤ o) :
    readBy s .smbus o size = answered (badAccess s o, 0) := by
  simp [readBy, hc, ho]

/-- The address register reads as it is held. -/
theorem peekReg_mgeMacLo (s : State) : peekReg s GLOBAL_MGE_MAC_LO.addr = rdReg s GLOBAL_MGE_MAC_LO.addr := by
  have hp : blockAbsent s GLOBAL_MGE_MAC_LO.addr = false := rfl
  have hl : latchedHi mgeMacLoRow.off = false := rfl
  simp only [peekReg, hp, regAt_mgeMacLo, hl]
  simp [mgeMacLoRow, rowView, coreView, mixedView]

theorem wordRead_mgeMacLo (s : State) : wordRead s GLOBAL_MGE_MAC_LO.addr = (s, rdReg s GLOBAL_MGE_MAC_LO.addr) := by
  have ha : isAlias GLOBAL_MGE_MAC_LO.addr = false := rfl
  have hl : latchingLo mgeMacLoRow.off = false := rfl
  simp only [wordRead, ha, regAt_mgeMacLo, hl, peekReg_mgeMacLo]
  simp [mgeMacLoRow]

/-- An aligned word of a register held at its own offset is read whole. -/
theorem busRead_word (s : State) {o : Nat} (ho : o % 4 = 0) (hh : homeOff o = o) :
    busRead s o 4 = ((wordRead s o).1, (wordRead s o).2.toNat) := by
  have e : o / 4 * 4 = o := by omega
  have hlt := (wordRead s o).2.isLt
  simp [busRead, narrowRead, ho, e, hh, Nat.mod_eq_of_lt hlt]

theorem readBy_smbus_mgeMacLo (s : State) :
    readBy s .smbus GLOBAL_MGE_MAC_LO.addr 4 = { s with rdata := (rdReg s GLOBAL_MGE_MAC_LO.addr).setWidth 64 } := by
  have hlow : ¬ (Requester.smbus = .smbus ∧ !smbusOpen s ∧ 0x10000 ≤ GLOBAL_MGE_MAC_LO.addr) :=
    fun ⟨_, _, h⟩ => absurd h (by decide)
  rw [readBy, if_neg (by simp), if_neg hlow, busRead_word s (by decide) (by decide), wordRead_mgeMacLo]
  simp [answered]

/-! ## The parity scrubber (18_registers_mailbox.md R412, R413) -/

/-- A mismatch takes the management port to FAULTED unless it is ABSENT, RETIRED or FAULTED already. -/
theorem parityFault_mge (s : State) : parityFault s mgeFn =
    if s.get GLOBAL_MGE_STATUS.STATE = Fn.absent ∨ s.get GLOBAL_MGE_STATUS.STATE = Fn.retired ∨
      s.get GLOBAL_MGE_STATUS.STATE = Fn.faulted then s else faultFn s mgeFn Code.configParity := by
  simp only [parityFault, fnState_mge]
  rfl

theorem parityFault_mge_upset (s : State) : (parityFault s mgeFn).upset = s.upset := by
  rw [parityFault_mge]; split <;> simp

theorem parityFault_mge_scrubMs (s : State) : (parityFault s mgeFn).scrubMs = s.scrubMs := by
  rw [parityFault_mge]; split <;> simp

theorem parityFault_mge_get (s : State) (f : Fld) (h : f.addr ≠ mgeFn) : (parityFault s mgeFn).get f = s.get f := by
  have h' : ∀ lo w, f.addr ≠ (⟨mgeFn, lo, w, 0, 0⟩ : Fld).addr := fun lo w => by rwa [addr_plain]
  rw [parityFault_mge]
  split
  · rfl
  · rw [faultFn_eq, get_set_reg _ _ _ _ _ _ _ _ (h' _ _), get_set_reg _ _ _ _ _ _ _ _ (h' _ _)]

theorem parityFault_mge_faults (s : State) (hb : s.behaveReset = [])
    (h : s.get GLOBAL_MGE_STATUS.STATE = Fn.stopped ∨ s.get GLOBAL_MGE_STATUS.STATE = Fn.running) :
    (parityFault s mgeFn).get GLOBAL_MGE_STATUS.STATE = Fn.faulted ∧
      (parityFault s mgeFn).get GLOBAL_MGE_STATUS.FAULT_CODE = Code.configParity := by
  rw [parityFault_mge, if_neg (by rcases h with h | h <;> simp [h]), faultFn_eq]
  refine ⟨?_, ?_⟩
  · exact get_set_self _ (stateFld mgeFn) _ _ _ (by simpa using hb) (by decide)
  · rw [get_set_beside _ _ _ _ _ _ _ _ (by simpa using hb) (by decide) (by decide) (by decide)]
    exact get_set_self _ (codeFld mgeFn) _ _ _ hb (by decide)

/-- A mismatch noted: the register stands with it, its offset is recorded, and it is counted. -/
def mismatchNoted (s : State) (o : Nat) : State :=
  ((({ s with upset := s.upset ++ [o] } : State).set GLOBAL_PARITY_OFFSET o).bumpSat GLOBAL_PARITY_COUNT).set
    GLOBAL_STATUS.PARITY_SEEN 1

theorem mismatchNoted_upset (s : State) (o : Nat) : (mismatchNoted s o).upset = s.upset ++ [o] := by simp [mismatchNoted]
theorem mismatchNoted_scrubMs (s : State) (o : Nat) : (mismatchNoted s o).scrubMs = s.scrubMs := by simp [mismatchNoted]
theorem mismatchNoted_behaveReset (s : State) (o : Nat) : (mismatchNoted s o).behaveReset = s.behaveReset := by
  simp [mismatchNoted]

theorem mismatchNoted_counts (s : State) (o : Nat) (hb : s.behaveReset = []) :
    (mismatchNoted s o).get GLOBAL_PARITY_OFFSET = o % 2 ^ 27 ∧ (mismatchNoted s o).get GLOBAL_STATUS.PARITY_SEEN = 1 ∧
      (mismatchNoted s o).get GLOBAL_PARITY_COUNT = min (s.get GLOBAL_PARITY_COUNT + 1) (2 ^ 32 - 1) := by
  unfold mismatchNoted State.bumpSat
  refine ⟨?_, ?_, ?_⟩
  · rw [get_set_reg _ _ _ _ _ _ _ _ (by decide), get_set_reg _ _ _ _ _ _ _ _ (by decide),
      get_set_self _ _ _ _ _ (by exact hb) (by decide)]
  · exact get_set_self _ _ _ _ _ (by simpa using hb) (by decide)
  · rw [get_set_reg _ _ _ _ _ _ _ _ (by decide), get_set_self _ _ _ _ _ (by simpa using hb) (by decide),
      get_set_reg _ _ _ _ _ _ _ _ (by decide)]
    exact Nat.mod_eq_of_lt (Nat.lt_of_le_of_lt (Nat.min_le_right _ _) (by decide))

/-- The state of the management port is not where a mismatch is noted. -/
theorem mismatchNoted_mge (s : State) (o : Nat) :
    (mismatchNoted s o).get GLOBAL_MGE_STATUS.STATE = s.get GLOBAL_MGE_STATUS.STATE := by
  unfold mismatchNoted State.bumpSat
  rw [get_set_reg _ _ _ _ _ _ _ _ (by decide), get_set_reg _ _ _ _ _ _ _ _ (by decide),
    get_set_reg _ _ _ _ _ _ _ _ (by decide)]
  rfl

theorem parityEvent_mgeMacLo (s : State) (hu : s.upset = []) :
    parityEvent s GLOBAL_MGE_MAC_LO.addr = parityFault (mismatchNoted s GLOBAL_MGE_MAC_LO.addr) mgeFn := by
  simp only [parityEvent, protected_mgeMacLo, hu, parityOwner_mgeMacLo]
  simp [mismatchNoted, hu]

/-- A pass within the millisecond of the last one finds nothing. -/
theorem scrubPass_early (s : State) (l : List Nat) (h : nowN s / 1000000 = s.scrubMs) : scrubPass s l = s := if_pos h

theorem scrubPass_empty (s : State) (h : nowN s / 1000000 ≠ s.scrubMs) :
    scrubPass s [] = { s with scrubMs := nowN s / 1000000 } := by
  rw [scrubPass, if_neg h, List.mergeSort_nil]; rfl

theorem scrubPass_one (s : State) (o : Nat) (h : nowN s / 1000000 ≠ s.scrubMs) :
    scrubPass s [o] = parityEvent { s with scrubMs := nowN s / 1000000 } o := by
  rw [scrubPass, if_neg h, List.mergeSort_singleton]; rfl

/-- A mismatch in the address register is noted, and the port is FAULTED out of STOPPED and out of RUNNING. -/
theorem scrubPass_mgeMacLo (s : State) (hs : s.sound) (h : nowN s / 1000000 ≠ s.scrubMs) :
    let t := scrubPass s [GLOBAL_MGE_MAC_LO.addr]
    t.upset = [GLOBAL_MGE_MAC_LO.addr] ∧ t.scrubMs = nowN s / 1000000 ∧ t.get GLOBAL_PARITY_OFFSET = GLOBAL_MGE_MAC_LO.addr ∧
      t.get GLOBAL_STATUS.PARITY_SEEN = 1 ∧ t.get GLOBAL_PARITY_COUNT = min (s.get GLOBAL_PARITY_COUNT + 1) (2 ^ 32 - 1) ∧
      (s.get GLOBAL_MGE_STATUS.STATE = Fn.stopped ∨ s.get GLOBAL_MGE_STATUS.STATE = Fn.running →
        t.get GLOBAL_MGE_STATUS.STATE = Fn.faulted ∧ t.get GLOBAL_MGE_STATUS.FAULT_CODE = Code.configParity) := by
  intro t
  obtain ⟨hb, hu⟩ := hs
  let s' : State := { s with scrubMs := nowN s / 1000000 }
  have hsame (f : Fld) : s'.get f = s.get f := get_congr rfl rfl f 0 0
  have ht : t = parityFault (mismatchNoted s' GLOBAL_MGE_MAC_LO.addr) mgeFn :=
    (scrubPass_one s _ h).trans (parityEvent_mgeMacLo s' hu)
  obtain ⟨hoff, hseen, hcount⟩ := mismatchNoted_counts s' GLOBAL_MGE_MAC_LO.addr hb
  rw [ht]
  refine ⟨?_, ?_, ?_, ?_, ?_, fun hst => ?_⟩
  · rw [parityFault_mge_upset, mismatchNoted_upset, show s'.upset = [] from hu, List.nil_append]
  · rw [parityFault_mge_scrubMs, mismatchNoted_scrubMs]
  · rw [parityFault_mge_get _ _ (by decide), hoff]; rfl
  · rw [parityFault_mge_get _ _ (by decide), hseen]
  · rw [parityFault_mge_get _ _ (by decide), hcount, hsame]
  · refine parityFault_mge_faults _ ((mismatchNoted_behaveReset s' _).trans hb) ?_
    rwa [mismatchNoted_mge, hsame]

/-! ## The commands -/

/-- A command whose meaning is a next state acts. -/
theorem acts_of_exec {i : Instr} {s t : State} {p : State → Prop} (h : exec i s = .next t) (hp : p t) : Acts i s p :=
  ⟨t, h, hp⟩

theorem exec_registerWrite (rq : Requester) (o size : Nat) (v : BitVec 64) (s : State) :
    exec (.registerWrite rq o size v) s = .next (writeBy s rq o size v) := rfl

theorem exec_bitAliasWrite (rq : Requester) (o : Nat) (v : Word) (s : State) :
    exec (.bitAliasWrite rq o v) s = .next (if isAlias o then writeBy s rq o 4 (v.setWidth 64) else s) := rfl

theorem exec_smbusRegisterWrite (o : Nat) (v : Word) (s : State) :
    exec (.smbusRegisterWrite o v true) s = .next (writeBy s .smbus o 4 (v.setWidth 64)) := rfl

theorem exec_smbusRegisterRead (o : Nat) (s : State) :
    exec (.smbusRegisterRead o true) s = .next (readBy s .smbus o 4) := rfl

theorem exec_parityScrubPass (l : List Upset) (s : State) :
    exec (.parityScrubPass l) s = .next (scrubPass s (l.map (·.off))) := rfl

/-- The host's write while its interface is STOPPED changes nothing (09_contexts_tenants.md R443). -/
theorem writeBy_hostOff (s : State) (o size : Nat) (v : BitVec 64) (h : s.get HOST_STATUS.STATE = Fn.stopped) :
    writeBy s .host o size v = s := if_pos ⟨rfl, h⟩

section
variable (s : State) (rq : Requester) (hq : rq ≠ .smbus) (hh : ¬ HostOff s rq)
include hq hh

/-- A write of one aligned word by the host or a management processor is the register's. -/
theorem exec_registerWrite_word {o : Nat} (v : Word) (ho : o % 4 = 0) (ha : isAlias o = false) (hm : homeOff o = o) :
    exec (.registerWrite rq o 4 (v.setWidth 64)) s = .next (regWrite s rq o v (BitVec.allOnes 32)) := by
  rw [exec_registerWrite, writeBy_bus s o 4 _ hq hh, busWrite_word s rq v ho ha hm]

theorem exec_registerWrite_mgeMacLo (v : Word) :
    exec (.registerWrite rq GLOBAL_MGE_MAC_LO.addr 4 (v.setWidth 64)) s =
      .next (regWrite s rq GLOBAL_MGE_MAC_LO.addr v (BitVec.allOnes 32)) :=
  exec_registerWrite_word s rq hq hh v (by decide) (by decide) (by decide)

theorem exec_registerWrite_mgeCtrl (v : Word) :
    exec (.registerWrite rq GLOBAL_MGE_CTRL.START.addr 4 (v.setWidth 64)) s =
      .next (regWrite s rq GLOBAL_MGE_CTRL.START.addr v (BitVec.allOnes 32)) :=
  exec_registerWrite_word s rq hq hh v (by decide) (by decide) (by decide)

theorem exec_bitAliasWrite_mgeMacLo (hs : s.sound) (v : Word) {b : Nat} (hb : b < 32) :
    exec (.bitAliasWrite rq (0x4000000 + GLOBAL_MGE_MAC_LO.addr / 4 * 128 + 4 * b) v) s =
      .next (regWrite s rq GLOBAL_MGE_MAC_LO.addr (BitVec.ofNat 32 (if v.toNat.testBit 0 then 2 ^ b else 0))
        (BitVec.ofNat 32 (2 ^ b))) := by
  have ha : isAlias (0x4000000 + GLOBAL_MGE_MAC_LO.addr / 4 * 128 + 4 * b) = true := by
    simp [isAlias, Fld.addr]; omega
  rw [exec_bitAliasWrite, if_pos ha, writeBy_bus s _ 4 _ hq hh,
    busWrite_alias s rq v (by simp only [Fld.addr]; omega) ha, aliasWrite_mgeMacLo s rq v hb hs]

end

/-- Settles O55: each access comes down to a refusal, to one write or read of a register, or to one mismatch, and the lemmas on
those say what it leaves. -/
theorem registerWrites : Obligations.RegisterWrites := by
  intro s hs bad mac st hostOff
  have hbad (o : Nat) : bad o (badAccess s o) := badAccess_counted s o hs.1
  have hostWrite (o size v) (h : hostOff) : writeBy s .host o size v = s := writeBy_hostOff s o size v h
  refine ⟨fun o size v h => ?_, fun o v h => ?_, fun o v ha rq => ?_, fun rq hq hh => ⟨fun o size v h8 h4 => ?_, ?_, ?_, ?_,
    fun hst v => ?_, fun hst ha v => ?_, fun hst hd b v hb => ?_⟩, fun o v => ⟨rfl, rfl⟩, fun o v h => ?_, fun o hc ho => ?_,
    fun hopen hheld howner hbusy v => ?_, ?_, fun l h => ?_, fun h => ⟨?_, ?_⟩⟩
  · rw [exec_registerWrite, hostWrite o size v h]
  · rw [exec_bitAliasWrite, hostWrite o 4 _ h, ite_self]
  · rw [exec_bitAliasWrite, if_neg (by simp [ha])]
  · refine acts_of_exec (exec_registerWrite rq o size v s) ?_
    rw [writeBy_bus s o size v hq hh, busWrite_refused s rq v h8 h4]
    exact hbad o
  · refine acts_of_exec (exec_registerWrite_mgeCtrl s rq hq hh 3) ?_
    rw [regWrite_mgeCtrl_both]
    exact hbad _
  · refine (exec_registerWrite_mgeCtrl s rq hq hh 1).trans ?_
    rw [regWrite_mgeCtrl_one s rq 1 (by decide)]; rfl
  · refine (exec_registerWrite_mgeCtrl s rq hq hh 2).trans ?_
    rw [regWrite_mgeCtrl_one s rq 2 (by decide)]; rfl
  · refine acts_of_exec (exec_registerWrite_mgeMacLo s rq hq hh v) ?_
    have h := regWrite_mgeMacLo_stopped s rq v (BitVec.allOnes 32) hs hst
    rwa [mgeMacLoWr, regWrOf_full_word] at h
  · refine acts_of_exec (exec_registerWrite_mgeMacLo s rq hq hh v) ?_
    rw [regWrite_mgeMacLo_locked s rq v hst ha]
    exact ⟨rdReg_set_other _ _ _ _ _ _ (by decide), get_set_self _ _ _ _ _ hs.1 (by decide),
      set_regsBut s GLOBAL_MGE_STATUS.CFG_WRITE_REJECT 1 0 0⟩
  · obtain ⟨hread, hframe⟩ := regWrite_mgeMacLo_bit s rq (v.toNat.testBit 0) b hs hst hd
    refine acts_of_exec (exec_bitAliasWrite_mgeMacLo s rq hq hh hs v hb) ⟨fun j hj => ?_, hframe⟩
    rw [hread, bitOver_getLsbD _ _ _ hj]; rfl
  · refine acts_of_exec (exec_smbusRegisterWrite o v s) ?_
    rw [writeBy_smbus_refused s 4 _ h]
    exact hbad o
  · refine acts_of_exec (exec_smbusRegisterRead o s) ?_
    rw [readBy_smbus_refused s 4 hc ho]
    exact ⟨rfl, answered_counted (badAccess s o, 0) (hbad o)⟩
  · refine acts_of_exec (exec_smbusRegisterWrite _ v s) ?_
    rw [writeBy_smbus_mailbox s 4 _ hopen (by decide) (by decide), busWrite_word s .smbus v (by decide) (by decide) (by decide)]
    exact regWrite_mbxArg_took s .smbus v hs hheld howner hbusy
  · refine acts_of_exec (exec_smbusRegisterRead mac s) ?_
    rw [readBy_smbus_mgeMacLo]
    exact ⟨rfl, rfl⟩
  · rw [exec_parityScrubPass, scrubPass_early s _ h]
  · exact acts_of_exec (exec_parityScrubPass [] s) (scrubPass_empty s h)
  · exact acts_of_exec (exec_parityScrubPass [⟨mac⟩] s) (scrubPass_mgeMacLo s hs h)

end Sys2Proof.Machine
end

section
/-! PROOFS. The Almanac: its tick, its reads and writes, the servo's samples, the time states, the pulses and the captures
(02_almanac.md). -/

namespace Sys2Proof.Machine

/-! ## Registers after an update -/

/-- A field reads as before where another register, or other bits of the same one, were written. -/
theorem get_set_apart (s : State) (f g : Fld) (v i k j l : Nat) (hb : s.behaveReset = []) (hw : f.lo + f.w ≤ 32)
    (h : g.addr j l ≠ f.addr i k ∨ f.lo + f.w ≤ g.lo ∨ g.lo + g.w ≤ f.lo) :
    (s.set f v i k).get g j l = s.get g j l := by
  by_cases ha : g.addr j l = f.addr i k
  · exact get_set_beside s f g v i k j l hb ha hw (h.resolve_left (not_not_intro ha))
  · exact get_set_reg s f g v i k j l ha

/-- A value stored into two whole registers is read back, modulo 2^64. -/
theorem get2_set2 (s : State) (lo hi : Fld) (v i k : Nat) (hb : s.behaveReset = []) (hl : lo.lo = 0 ∧ lo.w = 32)
    (hh : hi.lo = 0 ∧ hi.w = 32) (ha : lo.addr i k ≠ hi.addr i k) : (s.set2 lo hi v i k).get2 lo hi i k = v % 2 ^ 64 := by
  have h1 : (s.set2 lo hi v i k).get lo i k = v % 2 ^ 32 := by
    rw [State.set2, get_set_reg _ _ _ _ _ _ _ _ ha, get_set_self _ _ _ _ _ hb (by omega), hl.2]
  have h2 : (s.set2 lo hi v i k).get hi i k = v / 2 ^ 32 % 2 ^ 32 := by
    rw [State.set2, get_set_self _ _ _ _ _ (by simpa using hb) (by omega), hh.2]
  rw [State.get2, h1, h2]
  omega

theorem regsBut_trans {l : List Nat} {s t u : State} (h : regsBut l s t) (g : regsBut l t u) : regsBut l s u :=
  fun o ho => (g o ho).trans (h o ho)

theorem regsBut_mono {l m : List Nat} {s t : State} (h : regsBut l s t) (hl : ∀ o ∈ l, o ∈ m) : regsBut m s t :=
  fun o ho => h o (fun hm => ho (hl o hm))

/-- A field write leaves every register outside a list that names its own. -/
theorem set_regsBut_mem {l : List Nat} (s : State) (f : Fld) (v i k : Nat) (h : f.addr i k ∈ l) :
    regsBut l s (s.set f v i k) :=
  regsBut_mono (set_regsBut s f v i k) (by simpa using h)

theorem set2_regsBut (s : State) (lo hi : Fld) (v i k : Nat) :
    regsBut [lo.addr i k, hi.addr i k] s (s.set2 lo hi v i k) := by
  unfold State.set2
  exact regsBut_trans (set_regsBut_mem s lo v i k (by simp)) (set_regsBut_mem _ hi _ i k (by simp))

/-- Every register below an offset reads as before. -/
def SameBelow (b : Nat) (s t : State) : Prop := ∀ o < b, rdReg t o = rdReg s o

theorem SameBelow.refl (b : Nat) (s : State) : SameBelow b s s := fun _ _ => rfl

theorem SameBelow.trans {b : Nat} {s t u : State} (h : SameBelow b s t) (g : SameBelow b t u) : SameBelow b s u :=
  fun o ho => (g o ho).trans (h o ho)

theorem SameBelow.wrReg {b o : Nat} (h : b ≤ o) (s : State) (v : Word) : SameBelow b s (wrReg s o v) :=
  fun _ hp => rdReg_wrReg_other s v (by omega)

theorem SameBelow.set {b : Nat} (s : State) (f : Fld) (v i k : Nat) (h : b ≤ f.addr i k) : SameBelow b s (s.set f v i k) :=
  SameBelow.wrReg h s _

/-- An operation that keeps the registers keeps those below any offset. -/
theorem SameBelow.of_keeps {m b : Nat} {s t : State} (h : Keeps m s t) (hr : m.testBit Part.regs.idx = false)
    (hb : m.testBit Part.behaveReset.idx = false) : SameBelow b s t :=
  fun o _ => rdReg_congr (h.2 .regs hr) (h.2 .behaveReset hb) o

theorem SameBelow.forEach {α : Type} {b : Nat} {f : State → α → State} (hf : ∀ s a, SameBelow b s (f s a)) (l : List α)
    (s : State) :
    SameBelow b s (forEach l f s) :=
  List.foldlRecOn l f (SameBelow.refl b s) (fun t h a _ => h.trans (hf t a))

theorem SameBelow.get {b : Nat} {s t : State} (h : SameBelow b s t) (f : Fld) (i k : Nat) (hf : f.addr i k < b) :
    t.get f i k = s.get f i k := by
  unfold State.get; rw [h _ hf]

/-! ## The clock and the servo replaced -/

/-- The state with another clock. -/
def State.withClk (s : State) (c : Clk) : State := { s with clk := c }

/-- The state with other data read. -/
def State.withData (s : State) (d : BitVec 64) : State := { s with rdata := d }

/-- The state with another servo. -/
def State.withServo (s : State) (v : Servo) : State := { s with servo := v }

section
variable (s : State) (c : Clk) (v : Servo) (d : BitVec 64)

@[simp] theorem withClk_clk : (s.withClk c).clk = c := by unfold State.withClk; rfl
@[simp] theorem withClk_servo : (s.withClk c).servo = s.servo := by unfold State.withClk; rfl
@[simp] theorem withClk_behaveReset : (s.withClk c).behaveReset = s.behaveReset := by unfold State.withClk; rfl
@[simp] theorem withClk_get (f : Fld) (i k : Nat) : (s.withClk c).get f i k = s.get f i k :=
  get_congr rfl rfl f i k
@[simp] theorem withServo_clk : (s.withServo v).clk = s.clk := by unfold State.withServo; rfl
@[simp] theorem withServo_servo : (s.withServo v).servo = v := by unfold State.withServo; rfl
@[simp] theorem withServo_behaveReset : (s.withServo v).behaveReset = s.behaveReset := by unfold State.withServo; rfl
@[simp] theorem withServo_upset : (s.withServo v).upset = s.upset := by unfold State.withServo; rfl
@[simp] theorem withServo_get (f : Fld) (i k : Nat) : (s.withServo v).get f i k = s.get f i k :=
  get_congr rfl rfl f i k

theorem withServo_regsBut (l : List Nat) : regsBut l s (s.withServo v) := fun o _ => rdReg_congr rfl rfl o

theorem withClk_regsBut (l : List Nat) : regsBut l s (s.withClk c) := fun o _ => rdReg_congr rfl rfl o

@[simp] theorem withData_rdata : (s.withData d).rdata = d := by unfold State.withData; rfl
@[simp] theorem withData_clk : (s.withData d).clk = s.clk := by unfold State.withData; rfl
@[simp] theorem withData_get (f : Fld) (i k : Nat) : (s.withData d).get f i k = s.get f i k :=
  get_congr rfl rfl f i k

theorem withData_regsBut (l : List Nat) : regsBut l s (s.withData d) := fun o _ => rdReg_congr rfl rfl o

theorem withClk_keeps : Keeps 32 s (s.withClk c) := upd_clk (by decide) c (Keeps.refl _ s)

end

/-! ## The tick (02_almanac.md R32, R35, R36, R48) -/

/-- N and its fraction, with the tick's increment added. -/
def tickSum (s : State) : Nat := s.clk.n.toNat * 2 ^ 32 + s.clk.frac.toNat + tickIncr s

/-- The clock with a tick counted and what waits for it taken. -/
def tickClk (s : State) : Clk :=
  { s.clk with
    ticks := s.clk.ticks + 1, elapsed := s.clk.elapsed + tickIncr s, setPend := none, stepPend := none, servoStep := none }

/-- The state in which a tick moves N: the tick is counted, and an increment that waits is loaded. -/
def tickLoaded (s : State) : State :=
  match s.clk.incrPend with
  | some v => loadIncr (s.withClk (tickClk s)) v.toNat
  | none => s.withClk (tickClk s)

/-- The state with the counter at a time. -/
def State.atTime (s : State) (n : BitVec 64) (frac : BitVec 32) : State := s.withClk { s.clk with n := n, frac := frac }

section
variable (s : State) (n : BitVec 64) (frac : BitVec 32)

@[simp] theorem atTime_n : (s.atTime n frac).clk.n = n := by simp only [State.atTime, withClk_clk]
@[simp] theorem atTime_frac : (s.atTime n frac).clk.frac = frac := by simp only [State.atTime, withClk_clk]
@[simp] theorem atTime_setPend : (s.atTime n frac).clk.setPend = s.clk.setPend := by simp only [State.atTime, withClk_clk]
@[simp] theorem atTime_stepPend : (s.atTime n frac).clk.stepPend = s.clk.stepPend := by simp only [State.atTime, withClk_clk]
@[simp] theorem atTime_servoStep : (s.atTime n frac).clk.servoStep = s.clk.servoStep := by simp only [State.atTime, withClk_clk]
@[simp] theorem atTime_incrPend : (s.atTime n frac).clk.incrPend = s.clk.incrPend := by simp only [State.atTime, withClk_clk]
@[simp] theorem atTime_incrLatch : (s.atTime n frac).clk.incrLatch = s.clk.incrLatch := by simp only [State.atTime, withClk_clk]
@[simp] theorem atTime_elapsed : (s.atTime n frac).clk.elapsed = s.clk.elapsed := by simp only [State.atTime, withClk_clk]
@[simp] theorem atTime_servo : (s.atTime n frac).servo = s.servo := by simp only [State.atTime, withClk_servo]
@[simp] theorem atTime_behaveReset : (s.atTime n frac).behaveReset = s.behaveReset := by
  simp only [State.atTime, withClk_behaveReset]
@[simp] theorem atTime_get (f : Fld) (i k : Nat) : (s.atTime n frac).get f i k = s.get f i k := by
  simp only [State.atTime, withClk_get]

end

/-- What a step of N from a time brings with it: pulse edges that it passes are skipped, the Calendar's position is taken anew
(R55; 03_calendar.md R78). -/
def afterJump (before : Nat) (s : State) : State := calRecompute (forEach (List.range 8) (pulseSkip before) s)

/-- N moved in the state that a tick has loaded: by a set, by the increment and a firmware step, by the increment and a servo
step, or by the increment alone. -/
def tickMoved (s t : State) : State :=
  let n := BitVec.ofNat 64 (tickSum s / 2 ^ 32)
  let frac := BitVec.ofNat 32 (tickSum s)
  match s.clk.setPend with
  | some v => afterJump s.clk.n.toNat (t.atTime (v + BitVec.ofInt 64 (s.clk.stepPend.getD 0)) 0)
  | none =>
    match s.clk.stepPend with
    | some d => afterJump n.toNat (t.atTime (n + BitVec.ofInt 64 d) frac)
    | none =>
      match s.clk.servoStep with
      | some d => afterJump n.toNat
          (((t.atTime (n + BitVec.ofInt 64 d) frac).withServo { t.servo with integ := 0 }).set ALM_STATUS.STEP_DONE 1)
      | none => t.atTime n frac

theorem almTick_eq (s : State) : almTick s = tickMoved s (tickLoaded s) := by
  unfold almTick tickMoved tickLoaded afterJump State.atTime State.withServo State.withClk tickClk tickSum
  rfl

theorem tickIncr_of_none {s : State} (h : s.clk.incrPend = none) : tickIncr s = incrNow s := by simp only [tickIncr, h]
theorem tickIncr_of_some {s : State} {v : BitVec 64} (h : s.clk.incrPend = some v) : tickIncr s = v.toNat := by
  simp only [tickIncr, h]

/-- A loaded increment stands in the two registers and in the latch (R35). -/
theorem loadIncr_eq (s : State) (v : Nat) : loadIncr s v =
    (s.set2 ALM_INCR_LO ALM_INCR_HI v).withClk { s.clk with incrLatch := BitVec.ofNat 32 v, incrPend := none } := by
  simp only [loadIncr, State.withClk, State.set2_clk]

section
variable (s : State)

theorem tickLoaded_of_none (h : s.clk.incrPend = none) : tickLoaded s = s.withClk (tickClk s) := by
  simp only [tickLoaded, h]

theorem tickLoaded_of_some {v : BitVec 64} (h : s.clk.incrPend = some v) : tickLoaded s =
    (s.set2 ALM_INCR_LO ALM_INCR_HI v.toNat).withClk { tickClk s with incrLatch := v.truncate 32, incrPend := none } := by
  simp only [tickLoaded, h, loadIncr_eq, BitVec.ofNat_toNat]
  rfl

theorem tickLoaded_servo : (tickLoaded s).servo = s.servo := by
  cases h : s.clk.incrPend with
  | none => rw [tickLoaded_of_none s h, withClk_servo]
  | some v => rw [tickLoaded_of_some s h, withClk_servo, State.set2_servo]

theorem tickLoaded_behaveReset : (tickLoaded s).behaveReset = s.behaveReset := by
  cases h : s.clk.incrPend with
  | none => rw [tickLoaded_of_none s h, withClk_behaveReset]
  | some v => rw [tickLoaded_of_some s h, withClk_behaveReset, State.set2_behaveReset]

/-- Beside the counter a tick leaves the latch of the increment, which takes the low word that was loaded. -/
theorem tickLoaded_clk : (tickLoaded s).clk = { tickClk s with
    incrPend := none, incrLatch := match s.clk.incrPend with | some v => v.truncate 32 | none => s.clk.incrLatch } := by
  cases h : s.clk.incrPend with
  | none => rw [tickLoaded_of_none s h, withClk_clk]; simp only [tickClk, h]
  | some v => rw [tickLoaded_of_some s h, withClk_clk]

theorem tickLoaded_taken : (tickLoaded s).clk.setPend = none ∧ (tickLoaded s).clk.stepPend = none ∧
    (tickLoaded s).clk.servoStep = none ∧ (tickLoaded s).clk.incrPend = none := by
  rw [tickLoaded_clk]
  exact ⟨rfl, rfl, rfl, rfl⟩

/-- A loaded increment is in force, in the two registers alone (R35). -/
theorem tickLoaded_incr {v : BitVec 64} (hb : s.behaveReset = []) (h : s.clk.incrPend = some v) :
    incrNow (tickLoaded s) = v.toNat ∧ regsBut [ALM_INCR_LO.off, ALM_INCR_HI.off] s (tickLoaded s) := by
  rw [tickLoaded_of_some s h]
  constructor
  · have e := get2_set2 s ALM_INCR_LO ALM_INCR_HI v.toNat 0 0 hb (by decide) (by decide) (by decide)
    rw [Nat.mod_eq_of_lt v.isLt] at e
    simpa only [incrNow, State.get2, withClk_get] using e
  · exact regsBut_trans (set2_regsBut s ALM_INCR_LO ALM_INCR_HI v.toNat 0 0) (withClk_regsBut _ _ _)

variable (t : State)

theorem tickMoved_set {v : BitVec 64} (h1 : s.clk.setPend = some v) : tickMoved s t =
    afterJump s.clk.n.toNat (t.atTime (v + BitVec.ofInt 64 (s.clk.stepPend.getD 0)) 0) := by
  simp only [tickMoved, h1]

theorem tickMoved_step {d : Int} (h1 : s.clk.setPend = none) (h2 : s.clk.stepPend = some d) : tickMoved s t =
    afterJump (BitVec.ofNat 64 (tickSum s / 2 ^ 32)).toNat
      (t.atTime (BitVec.ofNat 64 (tickSum s / 2 ^ 32) + BitVec.ofInt 64 d) (BitVec.ofNat 32 (tickSum s))) := by
  simp only [tickMoved, h1, h2]

theorem tickMoved_servo {d : Int} (h1 : s.clk.setPend = none) (h2 : s.clk.stepPend = none) (h3 : s.clk.servoStep = some d) :
    tickMoved s t = afterJump (BitVec.ofNat 64 (tickSum s / 2 ^ 32)).toNat
      (((t.atTime (BitVec.ofNat 64 (tickSum s / 2 ^ 32) + BitVec.ofInt 64 d) (BitVec.ofNat 32 (tickSum s))).withServo
        { t.servo with integ := 0 }).set ALM_STATUS.STEP_DONE 1) := by
  simp only [tickMoved, h1, h2, h3]

theorem tickMoved_plain (h1 : s.clk.setPend = none) (h2 : s.clk.stepPend = none) (h3 : s.clk.servoStep = none) :
    tickMoved s t = t.atTime (BitVec.ofNat 64 (tickSum s / 2 ^ 32)) (BitVec.ofNat 32 (tickSum s)) := by
  simp only [tickMoved, h1, h2, h3]

variable (b : Nat)

theorem afterJump_keeps : Keeps 644 s (afterJump b s) :=
  calRecompute_keeps (by decide) _
    (forEach_keeps (by decide) _ _ _ (fun _ _ h => pulseSkip_keeps (by decide) _ _ _ h) (Keeps.refl _ s))

theorem afterJump_clk : (afterJump b s).clk = s.clk := (afterJump_keeps s b).2 .clk (by decide)
theorem afterJump_servo : (afterJump b s).servo = s.servo := (afterJump_keeps s b).2 .servo (by decide)

/-- A skipped pulse edge shows in the count of its output alone (R55). -/
theorem pulseSkip_below (k : Nat) : SameBelow ALM_PLS_SKIP.off s (pulseSkip b s k) := by
  simp only [pulseSkip]
  split
  · exact SameBelow.refl _ s
  · split
    · exact (SameBelow.set s ALM_PLS_SKIP _ k 0 (by simp [Fld.addr])).trans
        (SameBelow.of_keeps (setPulse_keeps (m := 128) (by decide) _ _ _ (Keeps.refl _ _)) (by decide) (by decide))
    · exact SameBelow.refl _ s

theorem afterJump_below : SameBelow ALM_PLS_SKIP.off s (afterJump b s) :=
  (SameBelow.forEach (fun t k => pulseSkip_below t b k) _ s).trans
    (SameBelow.of_keeps (calRecompute_keeps (m := 512) (by decide) _ (Keeps.refl _ _)) (by decide) (by decide))

end

/-- The words of a sum of N, its fraction and an increment hold it modulo 2^96. -/
theorem words_of_sum (x : Nat) :
    (BitVec.ofNat 64 (x / 2 ^ 32)).toNat * 2 ^ 32 + (BitVec.ofNat 32 x).toNat = x % 2 ^ 96 := by
  simp only [BitVec.toNat_ofNat]; omega

theorem exec_almanacTick (s : State) : exec .almanacTick s = .next (almTick s) := rfl

/-- SERVO_STEP is the tick on which the step applies (log 202). -/
theorem exec_servoStep {s : State} (h : s.clk.servoStep.isSome = true) : exec .servoStep s = .next (almTick s) :=
  congrArg Host.Outcome.next (if_pos h)

/-- Settles O5: each clause is one case of the tick, and what follows a step of N leaves clock, servo and status as they are. -/
theorem almanacTick : Obligations.AlmanacTick := by
  refine ⟨fun s h1 h2 h3 h4 => ?_, fun s v h1 h2 => ?_, fun s d h1 h2 => ?_, fun s d hs h1 h2 h3 => ?_,
    fun s v hs h1 h2 h3 h4 => ?_⟩ <;> obtain ⟨t1, t2, t3, t4⟩ := tickLoaded_taken s
  · refine acts_of_exec (exec_almanacTick s) ?_
    rw [almTick_eq, tickMoved_plain s _ h1 h2 h3, tickLoaded_of_none s h4, ← tickIncr_of_none h4]
    refine ⟨((withClk_keeps s _).trans (withClk_keeps _ _)).same [.clk] (by decide), ?_, ?_⟩
    · rw [atTime_elapsed, withClk_clk, tickClk]
    · rw [atTime_n, atTime_frac, words_of_sum, tickSum]
  · refine acts_of_exec (exec_almanacTick s) ?_
    rw [almTick_eq, tickMoved_set s _ h1, h2, afterJump_clk, afterJump_servo]
    simp [tickLoaded_servo, t1, t3]
  · intro sum
    have hsum : tickSum s = sum := rfl
    clear_value sum
    refine acts_of_exec (exec_almanacTick s) ?_
    rw [almTick_eq, tickMoved_step s _ h1 h2, hsum, afterJump_clk, afterJump_servo]
    simp only [atTime_n, atTime_frac, atTime_stepPend, atTime_servoStep, atTime_servo, tickLoaded_servo, t2, t3, and_self]
  · intro sum
    have hsum : tickSum s = sum := rfl
    clear_value sum
    refine acts_of_exec (exec_servoStep (by simp [h3])) ?_
    have hb := (tickLoaded_behaveReset s).trans hs.1
    rw [almTick_eq, tickMoved_servo s _ h1 h2 h3, hsum, afterJump_clk, afterJump_servo,
      (afterJump_below _ _).get ALM_STATUS.STEP_DONE 0 0 (by decide),
      get_set_self _ ALM_STATUS.STEP_DONE _ _ _ (by simpa using hb) (by decide)]
    simp only [State.set_clk, State.set_servo, withServo_clk, withServo_servo, atTime_n, atTime_frac, atTime_servoStep,
      tickLoaded_servo, t3]
    exact ⟨trivial, trivial, trivial, trivial, rfl⟩
  · refine acts_of_exec (exec_almanacTick s) ?_
    obtain ⟨hnow, hregs⟩ := tickLoaded_incr s hs.1 h4
    rw [almTick_eq, tickMoved_plain s _ h1 h2 h3]
    simp only [incrNow, State.get2, atTime_get, atTime_n, atTime_incrLatch, atTime_incrPend, tickLoaded_clk, h4]
    refine ⟨hnow, ?_, trivial, trivial, regsBut_trans hregs (withClk_regsBut _ _ _)⟩
    rw [tickSum, tickIncr_of_some h4]

/-! ## Reads of the time (02_almanac.md R34) -/

theorem readNsLo_eq (s : State) : readNsLo s =
    (((s.set ALM_NS_LO s.clk.n.toNat).set ALM_NS_HI (s.clk.n.toNat / 2 ^ 32)).set ALM_FRAC s.clk.frac.toNat).withData
      (BitVec.ofNat 64 (s.clk.n.toNat % 2 ^ 32)) := by
  simp only [readNsLo, State.withData, State.set_clk]

theorem readNsLo_regsBut (s : State) : regsBut [ALM_NS_LO.off, ALM_NS_HI.off, ALM_FRAC.off] s (readNsLo s) := by
  rw [readNsLo_eq]
  exact regsBut_trans (regsBut_trans (regsBut_trans (set_regsBut_mem s ALM_NS_LO _ 0 0 (by decide))
    (set_regsBut_mem _ ALM_NS_HI _ 0 0 (by decide))) (set_regsBut_mem _ ALM_FRAC _ 0 0 (by decide))) (withData_regsBut _ _ _)

/-- The read gives the low word of N, and the high word and the fraction are latched from its tick. -/
theorem readNsLo_latches (s : State) (hb : s.behaveReset = []) : (readNsLo s).rdata.toNat = s.clk.n.toNat % 2 ^ 32 ∧
    (readNsLo s).get ALM_NS_HI = s.clk.n.toNat / 2 ^ 32 ∧ (readNsLo s).get ALM_FRAC = s.clk.frac.toNat := by
  have hn := s.clk.n.isLt
  rw [readNsLo_eq]
  refine ⟨?_, ?_, ?_⟩
  · rw [withData_rdata, BitVec.toNat_ofNat]
    exact Nat.mod_eq_of_lt (by omega)
  · rw [withData_get, get_set_reg _ _ _ _ _ _ _ _ (by decide), get_set_self _ ALM_NS_HI _ _ _ (by simpa using hb) (by decide)]
    exact Nat.mod_eq_of_lt (Nat.div_lt_of_lt_mul hn)
  · rw [withData_get, get_set_self _ ALM_FRAC _ _ _ (by simpa using hb) (by decide)]
    exact Nat.mod_eq_of_lt s.clk.frac.isLt

/-- The map's row of `ALM_NS_HI` (R57). -/
def almNsHiRow : RegRow := ⟨"ALM_NS_HI", 0x20014, 0x0, 1, 0x0, 1, some 0x20004, [⟨31, 0, .ro, 0⟩]⟩

theorem regAt_almNsHi : regAt ALM_NS_HI.addr = some (almNsHiRow, 0, 0) := rfl

/-- `ALM_NS_HI` reads as it is held. -/
theorem peekReg_almNsHi (s : State) : peekReg s ALM_NS_HI.addr = rdReg s ALM_NS_HI.addr := by
  have hp : blockAbsent s ALM_NS_HI.addr = false := rfl
  have hl : latchedHi almNsHiRow.off = false := rfl
  simp only [peekReg, hp, regAt_almNsHi, hl]
  simp [almNsHiRow, rowView, coreView, mixedView]

theorem wordRead_almNsHi (s : State) : wordRead s ALM_NS_HI.addr = (s, rdReg s ALM_NS_HI.addr) := by
  have ha : isAlias ALM_NS_HI.addr = false := rfl
  have hl : latchingLo almNsHiRow.off = false := rfl
  simp only [wordRead, ha, regAt_almNsHi, hl, peekReg_almNsHi]
  simp [almNsHiRow]

/-- A whole register's field is its word. -/
theorem get_word (s : State) (f : Fld) (i k : Nat) (hl : f.lo = 0) (hw : f.w = 32) :
    s.get f i k = (rdReg s (f.addr i k)).toNat := by
  rw [State.get, getBits, hl, hw, Nat.pow_zero, Nat.div_one, Nat.mod_eq_of_lt (rdReg s (f.addr i k)).isLt]

/-- A management processor's read goes to the bus (18_registers_mailbox.md R408). -/
theorem exec_registerRead_mp (s : State) (j o size : Nat) :
    exec (.registerRead (.mp j) o size) s = .next (answered (busRead s o size)) := by
  refine congrArg Host.Outcome.next ?_
  rw [readBy, if_neg (by simp), if_neg (by simp)]

theorem exec_almNsLoRead (s : State) : exec .almNsLoRead s = .next (readNsLo s) := rfl

/-- Settles O6: the read writes the three registers it latches, and a read of the high word returns what stands there. -/
theorem almanacReadLatches : Obligations.AlmanacReadLatches := by
  refine ⟨fun s hs => ?_, fun s j hs => ?_⟩
  · obtain ⟨hdata, hhi, hfrac⟩ := readNsLo_latches s hs.1
    exact acts_of_exec (exec_almNsLoRead s) ⟨hdata, hhi, hfrac, readNsLo_regsBut s,
      (readNsLo_keeps (m := 20) (by decide) s (Keeps.refl _ s)).same [.regs, .rdata] (by decide)⟩
  · refine acts_of_exec (exec_registerRead_mp s j _ 4) ?_
    have hlt := (rdReg s ALM_NS_HI.addr).isLt
    rw [busRead_word s (by decide) (by decide), show ALM_NS_HI.off = ALM_NS_HI.addr from rfl, wordRead_almNsHi]
    refine ⟨?_, rfl⟩
    rw [answered, get_word s ALM_NS_HI 0 0 rfl rfl, BitVec.toNat_ofNat]
    exact Nat.mod_eq_of_lt (by omega)

/-! ## Writes of the time and of the increment (02_almanac.md R35, R36) -/

theorem mayStep_iff (s : State) : mayStep s = true ↔ timeState s = Ts.freeRun ∨ timeState s = Ts.acquiring := by
  simp [mayStep]

theorem exec_setTime (s : State) (v : Word) : exec (.setTime v) s = .next (writeSetHi s v) := rfl
theorem exec_stepTime (s : State) (v : Word) : exec (.stepTime v) s = .next (writeStep s v) := rfl
theorem exec_incrementWrite (s : State) (v : Word) : exec (.incrementWrite v) s = .next (writeIncrHi s v) := rfl

/-- A refused write of the time servo sets CFG_WRITE_REJECT and nothing else. -/
theorem rejectCfg_alm (s : State) (hb : s.behaveReset = []) : (rejectCfg s almFn).get ALM_STATUS.CFG_WRITE_REJECT = 1 ∧
    regsBut [ALM_STATUS.W.off] s (rejectCfg s almFn) ∧ sameBut [.regs] s (rejectCfg s almFn) := by
  refine ⟨?_, ?_, (rejectCfg_keeps (m := 4) (by decide) s almFn (Keeps.refl _ s)).same [.regs] (by decide)⟩
  · rw [rejectCfg_eq]
    exact get_set_self s ALM_STATUS.CFG_WRITE_REJECT 1 0 0 hb (by decide)
  · rw [rejectCfg_eq]
    exact set_regsBut s ALM_STATUS.CFG_WRITE_REJECT 1 0 0

/-- While the servo is STOPPED the write waits for the next tick. -/
theorem writeIncrHi_stopped (s : State) (v : Word) (hs : s.sound) (h : fnState s almFn = Fn.stopped) : writeIncrHi s v =
    s.withClk { s.clk with
      incrPend := some (BitVec.ofNat 64 (clampIncr s (v.toNat * 2 ^ 32 + s.clk.incrLatch.toNat))) } := by
  rw [writeIncrHi, if_pos h]
  exact rewritten_sound (s.withClk _) _ hs

/-- Settles O7: a write is taken for the next tick exactly where the time state or the servo's state lets it. -/
theorem almanacTimeWrites : Obligations.AlmanacTimeWrites := by
  refine ⟨fun s v h => ⟨?_, ?_⟩, fun s v i hs hf ha hi => ?_, fun s v hs h => ?_, fun s v hs h => ?_⟩
  · rw [exec_setTime, writeSetHi, if_pos ((mayStep_iff s).2 h)]
  · rw [exec_stepTime, writeStep, if_pos ((mayStep_iff s).2 h)]
  · have hno : ¬ mayStep s = true := fun hm => ((mayStep_iff s).1 hm).elim hf ha
    simp only [List.mem_cons, List.not_mem_nil, or_false] at hi
    rcases hi with rfl | rfl
    · refine acts_of_exec (exec_setTime s v) ?_
      rw [writeSetHi, if_neg hno]
      exact rejectCfg_alm s hs.1
    · refine acts_of_exec (exec_stepTime s v) ?_
      rw [writeStep, if_neg hno]
      exact rejectCfg_alm s hs.1
  · refine acts_of_exec (exec_incrementWrite s v) ?_
    rw [writeIncrHi_stopped s v hs h]
    simp only [incrNow, State.get2, withClk_get, withClk_clk]
    exact ⟨trivial, trivial, trivial, withClk_regsBut _ _ _⟩
  · refine acts_of_exec (exec_incrementWrite s v) ?_
    rw [writeIncrHi, if_neg (by rw [h]; decide)]
    exact rejectCfg_alm s hs.1

/-! ## Pulse outputs (02_almanac.md R54, R57) -/

@[simp] theorem pulseAt_setPulse (s : State) (k : Nat) (p : Pulse) : pulseAt (setPulse s k p) k = p :=
  mapGet_put_self _ _ _ _

@[simp] theorem pulseAt_set (s : State) (f : Fld) (v i j k : Nat) : pulseAt (s.set f v i j) k = pulseAt s k := by
  unfold pulseAt; rw [State.set_pulses]

@[simp] theorem nowN_set (s : State) (f : Fld) (v i j : Nat) : nowN (s.set f v i j) = nowN s := by
  unfold nowN; rw [State.set_clk]

@[simp] theorem nowN_setPulse (s : State) (k : Nat) (p : Pulse) : nowN (setPulse s k p) = nowN s := by
  unfold nowN; rw [setPulse_clk]

theorem setPulse_regsBut (l : List Nat) (s : State) (k : Nat) (p : Pulse) : regsBut l s (setPulse s k p) :=
  fun o _ => setPulse_rdReg s k p o

theorem pulseLead_falls {s : State} {k e : Nat} (h : (pulseAt s k).next = some e) (he : e ≤ nowN s) :
    pulseLead s k = setPulse s k { pulseAt s k with
      last := some e
      fall := some (s.clk.ticks + (s.get ALM_PLS_WIDTH k + 1) / 2)
      next := if s.get ALM_PLS_CTRL.MODE k = 2 then some (e + s.get ALM_PLS_PERIOD k) else none } := by
  simp only [pulseLead, h, if_pos he]

theorem pulseTrail_ends {s : State} {k f : Nat} (h : (pulseAt s k).fall = some f) (hf : f ≤ s.clk.ticks) :
    pulseTrail s k = setPulse s k { pulseAt s k with fall := none } := by
  simp only [pulseTrail, h, if_pos hf]

section
variable (s : State) (k m : Nat)

/-- START that is not past is the next edge (R54). -/
theorem armPulse_due (h : nowN s ≤ (pulseAt s k).start.toNat) :
    armPulse s k m = setPulse s k { pulseAt s k with next := some (pulseAt s k).start.toNat } := by
  simp only [armPulse, if_pos h]

/-- START that is past sets PAST; only in PERIODIC mode is an edge scheduled (R54). -/
theorem armPulse_past (h : (pulseAt s k).start.toNat < nowN s) : armPulse s k m =
    setPulse (s.set ALM_PLS_CTRL.PAST 1 k) k { pulseAt s k with
      next := if m = 2 then
          some (nextAfter (pulseAt s k).start.toNat ((s.set ALM_PLS_CTRL.PAST 1 k).get ALM_PLS_PERIOD k) (nowN s))
        else none } := by
  simp only [armPulse, if_neg (Nat.not_le.2 h), nowN_set]

/-- Of the registers, arming an output touches PAST alone. -/
theorem armPulse_ctrl (hb : s.behaveReset = []) : (armPulse s k m).get ALM_PLS_CTRL.MODE k = s.get ALM_PLS_CTRL.MODE k ∧
    (armPulse s k m).get ALM_PLS_CTRL.POL k = s.get ALM_PLS_CTRL.POL k ∧
    regsBut [ALM_PLS_CTRL.W.addr k] s (armPulse s k m) := by
  rcases Nat.lt_or_ge (pulseAt s k).start.toNat (nowN s) with h | h
  · rw [armPulse_past s k m h, setPulse_get, setPulse_get]
    exact ⟨get_set_beside _ _ _ _ _ _ _ _ hb rfl (by decide) (by decide),
      get_set_beside _ _ _ _ _ _ _ _ hb rfl (by decide) (by decide),
      regsBut_trans (set_regsBut s ALM_PLS_CTRL.PAST 1 k 0) (setPulse_regsBut _ _ _ _)⟩
  · rw [armPulse_due s k m h, setPulse_get, setPulse_get]
    exact ⟨rfl, rfl, setPulse_regsBut _ _ _ _⟩

/-- START and the pulse in progress stand while an output is armed. -/
theorem armPulse_pulse : (pulseAt (armPulse s k m) k).start = (pulseAt s k).start ∧
    (pulseAt (armPulse s k m) k).fall = (pulseAt s k).fall := by
  rcases Nat.lt_or_ge (pulseAt s k).start.toNat (nowN s) with h | h
  · rw [armPulse_past s k m h, pulseAt_setPulse]; exact ⟨rfl, rfl⟩
  · rw [armPulse_due s k m h, pulseAt_setPulse]; exact ⟨rfl, rfl⟩

end

/-- The state with MODE and POL of an output stored. -/
def modeStored (s : State) (k : Nat) (v : Word) : State :=
  (s.set ALM_PLS_CTRL.MODE (getBits v 0 2) k).set ALM_PLS_CTRL.POL (getBits v 2 1) k

section
variable (s : State) (k : Nat) (v : Word)

theorem modeStored_regsBut : regsBut [ALM_PLS_CTRL.W.addr k] s (modeStored s k v) :=
  regsBut_trans (set_regsBut s ALM_PLS_CTRL.MODE _ k 0) (set_regsBut _ ALM_PLS_CTRL.POL _ k 0)

theorem modeStored_behaveReset : (modeStored s k v).behaveReset = s.behaveReset := by simp [modeStored]
theorem modeStored_pulseAt : pulseAt (modeStored s k v) k = pulseAt s k := by simp [modeStored]
theorem modeStored_nowN : nowN (modeStored s k v) = nowN s := by simp [modeStored]

theorem modeStored_get (hb : s.behaveReset = []) : (modeStored s k v).get ALM_PLS_CTRL.MODE k = getBits v 0 2 ∧
    (modeStored s k v).get ALM_PLS_CTRL.POL k = getBits v 2 1 ∧
    (modeStored s k v).get ALM_PLS_CTRL.PAST k = s.get ALM_PLS_CTRL.PAST k := by
  have hm : getBits v 0 2 < 2 ^ 2 := getBits_lt v 0 2
  have hp : getBits v 2 1 < 2 ^ 1 := getBits_lt v 2 1
  unfold modeStored
  have hb' : (s.set ALM_PLS_CTRL.MODE (getBits v 0 2) k).behaveReset = [] := by simpa using hb
  refine ⟨?_, ?_, ?_⟩
  · rw [get_set_beside _ ALM_PLS_CTRL.POL ALM_PLS_CTRL.MODE _ _ _ _ _ hb' rfl (by decide) (by decide),
      get_set_self _ _ _ _ _ hb (by decide)]
    exact Nat.mod_eq_of_lt hm
  · rw [get_set_self _ _ _ _ _ hb' (by decide)]
    exact Nat.mod_eq_of_lt hp
  · rw [get_set_beside _ ALM_PLS_CTRL.POL ALM_PLS_CTRL.PAST _ _ _ _ _ hb' rfl (by decide) (by decide),
      get_set_beside _ ALM_PLS_CTRL.MODE ALM_PLS_CTRL.PAST _ _ _ _ _ hb rfl (by decide) (by decide)]

variable (hs : s.sound) (h3 : getBits v 3 1 = 0) (hne : s.get ALM_PLS_CTRL.MODE k ≠ getBits v 0 2)
include hs h3 hne

/-- A write that changes MODE and leaves PAST (R57): by whether the mode drives the output, now and before. -/
theorem writePulseCtrl_eq : writePulseCtrl s k v =
    if !modeOn (getBits v 0 2) then pulseOff (modeStored s k v) k
    else if !modeOn (s.get ALM_PLS_CTRL.MODE k) then
      armPulse (setPulse (modeStored s k v) k { pulseAt s k with last := none }) k (getBits v 0 2)
    else match (pulseAt s k).last with
      | none => modeStored s k v
      | some e => setPulse (modeStored s k v) k { pulseAt s k with
          next := if getBits v 0 2 = 2 then some (nextAfter e ((modeStored s k v).get ALM_PLS_PERIOD k) (nowN s))
            else none } := by
  have hsound : (modeStored s k v).sound := by simpa [modeStored, State.sound] using hs
  have hstore : rewritten (modeStored s k v) (ALM_PLS_CTRL.W.addr k) = modeStored s k v := rewritten_sound _ _ hsound
  unfold modeStored at hstore
  have hz : ¬ getBits v 3 1 = 1 := by omega
  simp only [writePulseCtrl, hstore, if_neg hz, if_neg hne]
  simp only [← modeStored.eq_def, modeStored_pulseAt, modeStored_nowN] <;> rfl

theorem writePulseCtrl_off (hoff : modeOn (getBits v 0 2) = false) :
    writePulseCtrl s k v = pulseOff (modeStored s k v) k := by
  rw [writePulseCtrl_eq s k v hs h3 hne, hoff]; rfl

theorem writePulseCtrl_arms (hon : modeOn (getBits v 0 2) = true) (hold : modeOn (s.get ALM_PLS_CTRL.MODE k) = false) :
    writePulseCtrl s k v = armPulse (setPulse (modeStored s k v) k { pulseAt s k with last := none }) k (getBits v 0 2) := by
  rw [writePulseCtrl_eq s k v hs h3 hne, hon, hold]; rfl

/-- The control register takes the mode and the polarity, and no other register changes. -/
theorem writePulseCtrl_ctrl : (writePulseCtrl s k v).get ALM_PLS_CTRL.MODE k = getBits v 0 2 ∧
    (writePulseCtrl s k v).get ALM_PLS_CTRL.POL k = getBits v 2 1 ∧
    regsBut [ALM_PLS_CTRL.W.addr k] s (writePulseCtrl s k v) := by
  obtain ⟨hm, hp, -⟩ := modeStored_get s k v hs.1
  have hregs := modeStored_regsBut s k v
  have hset (p : Pulse) : (setPulse (modeStored s k v) k p).get ALM_PLS_CTRL.MODE k = getBits v 0 2 ∧
      (setPulse (modeStored s k v) k p).get ALM_PLS_CTRL.POL k = getBits v 2 1 ∧
      regsBut [ALM_PLS_CTRL.W.addr k] s (setPulse (modeStored s k v) k p) := by
    rw [setPulse_get, setPulse_get]
    exact ⟨hm, hp, regsBut_trans hregs (setPulse_regsBut _ _ _ _)⟩
  rw [writePulseCtrl_eq s k v hs h3 hne]
  split
  · exact hset _
  · split
    · obtain ⟨hsm, hsp, hsr⟩ := hset { pulseAt s k with last := none }
      obtain ⟨ham, hap, har⟩ := armPulse_ctrl (setPulse (modeStored s k v) k { pulseAt s k with last := none }) k
        (getBits v 0 2) (by rw [setPulse_behaveReset, modeStored_behaveReset, hs.1])
      exact ⟨ham.trans hsm, hap.trans hsp, regsBut_trans hsr har⟩
    · split
      · exact ⟨hm, hp, hregs⟩
      · exact hset _

end

/-- The START that a write of the high word gives (R57). -/
def startOf (s : State) (k : Nat) (v : Word) : Nat := s.get ALM_PLS_START_LO k + v.toNat * 2 ^ 32

section
variable (s : State) (k : Nat) (v : Word)

theorem startOf_lt : startOf s k v < 2 ^ 64 := by
  have hl : s.get ALM_PLS_START_LO k < 2 ^ 32 := get_lt s ALM_PLS_START_LO k 0
  have hv := v.isLt
  unfold startOf; omega

/-- The state with START of an output stored, in the register and in force. -/
def startStored (s : State) (k : Nat) (v : Word) : State :=
  setPulse (s.set ALM_PLS_START_HI v.toNat k) k { pulseAt s k with start := BitVec.ofNat 64 (startOf s k v) }

/-- The high word takes effect with the low word (R57). -/
theorem writePulseStart_eq (hs : s.sound) : writePulseStart s k v =
    if modeOn (s.get ALM_PLS_CTRL.MODE k) then armPulse (startStored s k v) k (s.get ALM_PLS_CTRL.MODE k)
    else startStored s k v := by
  have hsound : (s.set ALM_PLS_START_HI v.toNat k).sound := by simpa [State.sound] using hs
  have hlo : (s.set ALM_PLS_START_HI v.toNat k).get ALM_PLS_START_LO k = s.get ALM_PLS_START_LO k :=
    get_set_reg _ _ _ _ _ _ _ _ (by simp [Fld.addr])
  have hhi : (s.set ALM_PLS_START_HI v.toNat k).get ALM_PLS_START_HI k = v.toNat :=
    (get_set_self _ ALM_PLS_START_HI _ _ _ hs.1 (by decide)).trans (Nat.mod_eq_of_lt v.isLt)
  have hmode : (s.set ALM_PLS_START_HI v.toNat k).get ALM_PLS_CTRL.MODE k = s.get ALM_PLS_CTRL.MODE k :=
    get_set_reg _ _ _ _ _ _ _ _ (by simp [Fld.addr])
  simp only [writePulseStart, rewritten_sound _ _ hsound, takeStart, State.get2, hlo, hhi, setPulse_get, hmode, pulseAt_set,
    startStored, startOf]

theorem startStored_pulse : pulseAt (startStored s k v) k = { pulseAt s k with start := BitVec.ofNat 64 (startOf s k v) } :=
  pulseAt_setPulse _ _ _

theorem startStored_start : (pulseAt (startStored s k v) k).start.toNat = startOf s k v := by
  rw [startStored_pulse, BitVec.toNat_ofNat, Nat.mod_eq_of_lt (startOf_lt s k v)]

theorem startStored_nowN : nowN (startStored s k v) = nowN s := by simp [startStored]

end

/-! ## Capture inputs (02_almanac.md R56) -/

section
variable (s : State) (k : Nat) (l : List (BitVec 64))

theorem captAt_setCapt : captAt (setCapt s k l) k = l := by
  simp only [captAt, setCapt, State.set_capt, mapGet_put_self]

theorem setCapt_clk : (setCapt s k l).clk = s.clk := by simp only [setCapt, State.set_clk]

theorem setCapt_fill (hb : s.behaveReset = []) (h : l.length < 8) : (setCapt s k l).get ALM_CAPT_CTRL.FILL k = l.length :=
  (get_set_self _ ALM_CAPT_CTRL.FILL _ _ _ hb (by decide)).trans (Nat.mod_eq_of_lt h)

theorem setCapt_regsBut : regsBut [ALM_CAPT_CTRL.W.addr k] s (setCapt s k l) := by
  have h := (upd_capt (m := 256) (s := s) (by decide) (mapPut (fun _ => []) s.capt k l) (Keeps.refl _ s))
  exact regsBut_trans (fun o _ => rdReg_congr (h.2 .regs (by decide)) (h.2 .behaveReset (by decide)) o)
    (set_regsBut _ ALM_CAPT_CTRL.FILL _ k 0)

/-- Another register reads as before. -/
theorem setCapt_get_other (f : Fld) (h : f.addr k ≠ ALM_CAPT_CTRL.W.addr k) : (setCapt s k l).get f k = s.get f k := by
  unfold State.get
  rw [setCapt_regsBut s k l _ (by simpa using h)]

end

theorem captureEdge_selected {s : State} {k : Nat} {rising : Bool}
    (h : s.get ALM_CAPT_CTRL.EDGE k = 3 ∨ s.get ALM_CAPT_CTRL.EDGE k = if rising then 1 else 2) (q : Nat) :
    captureEdge s k rising q = if (captAt s k).length < 4 then
      setCapt s k (captAt s k ++ [BitVec.ofNat 64 (4 * nowN s + q)]) else s.set ALM_CAPT_CTRL.OVERFLOW 1 k := by
  have hsel : (rising ∧ (s.get ALM_CAPT_CTRL.EDGE k = 1 ∨ s.get ALM_CAPT_CTRL.EDGE k = 3)) ∨
      (!rising ∧ (s.get ALM_CAPT_CTRL.EDGE k = 2 ∨ s.get ALM_CAPT_CTRL.EDGE k = 3)) := by
    cases rising <;> simpa [or_comm] using h
  simp only [captureEdge]
  rw [if_pos hsel]

/-- The state with the oldest entry of a FIFO latched. -/
def captLatched (s : State) (k : Nat) : State :=
  (s.set ALM_CAPT_TS_LO ((captAt s k).headD 0).toNat k).set ALM_CAPT_TS_HI (((captAt s k).headD 0).toNat / 2 ^ 32) k

@[simp] theorem captAt_withData (s : State) (d : BitVec 64) (k : Nat) : captAt (s.withData d) k = captAt s k := by
  unfold captAt State.withData; rfl

theorem captureRead_eq (s : State) (k : Nat) : captureRead s k =
    (setCapt (captLatched s k) k (captAt s k).tail).withData (BitVec.ofNat 64 (((captAt s k).headD 0).toNat % 2 ^ 32)) := by
  have h : captAt (captLatched s k) k = captAt s k := by simp only [captAt, captLatched, State.set_capt]
  unfold captLatched at h
  simp only [captureRead, State.withData, captLatched, h]

theorem captLatched_get (s : State) (k : Nat) (hb : s.behaveReset = []) :
    (captLatched s k).get ALM_CAPT_TS_LO k = ((captAt s k).headD 0).toNat % 2 ^ 32 ∧
    (captLatched s k).get ALM_CAPT_TS_HI k = ((captAt s k).headD 0).toNat / 2 ^ 32 := by
  have hx := ((captAt s k).headD 0).isLt
  unfold captLatched
  constructor
  · rw [get_set_reg _ _ _ _ _ _ _ _ (by simp [Fld.addr]), get_set_self _ _ _ _ _ hb (by decide)]
  · rw [get_set_self _ _ _ _ _ (by simpa using hb) (by decide)]
    exact Nat.mod_eq_of_lt (Nat.div_lt_of_lt_mul hx)

/-! ## The commands of pulses and captures -/

section
variable (s : State) {k : Nat} (hk : k < 8)
include hk

theorem exec_pulseLeadEdge : exec (.pulseLeadEdge k) s = .next (pulseLead s k) := congrArg Host.Outcome.next (if_pos hk)
theorem exec_pulseTrailEdge : exec (.pulseTrailEdge k) s = .next (pulseTrail s k) := congrArg Host.Outcome.next (if_pos hk)
theorem exec_pulseCtrlWrite (v : Word) : exec (.pulseCtrlWrite k v) s = .next (writePulseCtrl s k v) :=
  congrArg Host.Outcome.next (if_pos hk)
theorem exec_pulseStartWrite (v : Word) : exec (.pulseStartWrite k v) s = .next (writePulseStart s k v) :=
  congrArg Host.Outcome.next (if_pos hk)
theorem exec_captureEdge (rising : Bool) {q : Nat} (hq : q < 8) :
    exec (.captureEdge k rising q) s = .next (captureEdge s k rising q) := congrArg Host.Outcome.next (if_pos ⟨hk, hq⟩)
theorem exec_captureRead : exec (.captureRead k) s = .next (captureRead s k) := congrArg Host.Outcome.next (if_pos hk)

end

/-- Settles O10: each clause is one operation of an output or an input, by the case that its hypotheses name. -/
theorem almanacPulsesAndCaptures : Obligations.AlmanacPulsesAndCaptures := by
  refine ⟨fun s k e hk h he => ?_, fun s k f hk h hf => ?_, fun s k v hs hk hne h3 => ?_, fun s k v hs hk => ?_,
    fun s k q rising hs hk hq h => ?_, fun s k hs hk hl => ?_⟩
  · rw [exec_pulseLeadEdge s hk, pulseLead_falls h he]
  · rw [exec_pulseTrailEdge s hk, pulseTrail_ends h hf]
  · obtain ⟨hm, hp, hregs⟩ := writePulseCtrl_ctrl s k v hs h3 hne
    obtain ⟨-, -, hpast⟩ := modeStored_get s k v hs.1
    refine acts_of_exec (exec_pulseCtrlWrite s hk v) ⟨hm, hp, hregs, fun hoff => ?_,
      fun hon hold => ⟨fun hdue => ?_, fun hlate => ?_⟩⟩
    · rw [writePulseCtrl_off s k v hs h3 hne hoff, pulseOff, pulseAt_setPulse, setPulse_get]
      exact ⟨rfl, rfl, hpast⟩
    · rw [writePulseCtrl_arms s k v hs h3 hne hon hold, armPulse_due, pulseAt_setPulse, pulseAt_setPulse]
      rw [nowN_setPulse, modeStored_nowN, pulseAt_setPulse]; exact hdue
    · rw [writePulseCtrl_arms s k v hs h3 hne hon hold, armPulse_past, pulseAt_setPulse, setPulse_get]
      · refine ⟨get_set_self _ ALM_PLS_CTRL.PAST _ _ _ ?_ (by decide), fun hone => ?_⟩
        · rw [setPulse_behaveReset, modeStored_behaveReset, hs.1]
        · rw [pulseAt_setPulse, hone]; rfl
      · rw [nowN_setPulse, modeStored_nowN, pulseAt_setPulse]; exact hlate
  · refine acts_of_exec (exec_pulseStartWrite s hk v) ?_
    have hst := startStored_start s k v
    rw [writePulseStart_eq s k v hs]
    split
    · next hon =>
      obtain ⟨hstart, hfall⟩ := armPulse_pulse (startStored s k v) k (s.get ALM_PLS_CTRL.MODE k)
      refine ⟨by rw [hstart, hst, startOf], by rw [hfall, startStored_pulse], fun hoff => by simp [hon] at hoff,
        fun _ hdue => ?_⟩
      rw [armPulse_due _ _ _ (by rw [startStored_nowN, hst]; exact hdue), pulseAt_setPulse, hst, startOf]
    · next hoff =>
      exact ⟨hst, by rw [startStored_pulse], fun _ => by rw [startStored_pulse], fun hon => absurd hon hoff⟩
  · refine acts_of_exec (exec_captureEdge s hk rising hq) ?_
    rw [captureEdge_selected h]
    split
    · next hroom =>
      refine ⟨fun _ => ⟨captAt_setCapt _ _ _, ?_⟩, fun hfull => absurd hroom (by omega), setCapt_regsBut _ _ _⟩
      rw [setCapt_fill _ _ _ hs.1 (by simp; omega)]; simp
    · next hfull =>
      exact ⟨fun hroom => absurd hroom hfull, fun _ => ⟨by simp only [captAt, State.set_capt],
        get_set_self s ALM_CAPT_CTRL.OVERFLOW 1 k 0 hs.1 (by decide)⟩, set_regsBut s ALM_CAPT_CTRL.OVERFLOW 1 k 0⟩
  · refine acts_of_exec (exec_captureRead s hk) ?_
    intro x
    obtain ⟨hlo, hhi⟩ := captLatched_get s k hs.1
    have hb : (captLatched s k).behaveReset = [] := by simpa [captLatched] using hs.1
    have hx : x.toNat % 2 ^ 32 % 2 ^ 64 = x.toNat % 2 ^ 32 := Nat.mod_eq_of_lt (by omega)
    rw [captureRead_eq, withData_rdata, withData_clk, withData_get, withData_get, withData_get,
      setCapt_get_other _ _ _ _ (by simp [Fld.addr]), setCapt_get_other _ _ _ _ (by simp [Fld.addr]), hlo, hhi,
      setCapt_fill _ _ _ hb (by simp; omega), setCapt_clk, captAt_withData, captAt_setCapt, BitVec.toNat_ofNat]
    exact ⟨hx, rfl, rfl, rfl, by simp, by simp [captLatched]⟩

/-! ## The entry to a time state (02_almanac.md R50 to R52) -/

/-- Where the registers of the cells and of the FSK groups begin (18_registers_mailbox.md). -/
abbrev radioBase : Nat := 0x110000

theorem radio_above {f : Fld} (h : radioBase ≤ f.off) (c : Nat) : radioBase ≤ f.addr c :=
  h.trans (by unfold Fld.addr; omega)

theorem setFnCode_below {b fn : Nat} (h : b ≤ fn) (s : State) (c : Nat) : SameBelow b s (setFnCode s fn c) := by
  rw [setFnCode_eq]
  exact SameBelow.set s _ _ _ _ (by simpa [codeFld, Fld.addr] using h)

/-- A store by a hub engine shows in the engine's status register alone. -/
theorem hubStore_below {b fn : Nat} (h : b ≤ fn) (s : State) (a : Nat) (l : Bytes) : SameBelow b s (hubStore s fn a l) := by
  unfold hubStore
  split
  · exact setFnCode_below h s _
  · exact SameBelow.of_keeps (devStore_keeps (m := 34359739392) (by decide) _ _ _ _
      (raiseMem_keeps (by decide) s _ _ _ _ _ (Keeps.refl _ s))) (by decide) (by decide)

theorem ringAppend_below {b fn : Nat} (h : b ≤ fn) {s t : State} {base size : Nat} {l : Bytes}
    (ht : ringAppend s fn base size l = some t) : SameBelow b s t := by
  unfold ringAppend at ht
  split at ht
  · cases ht; exact setFnCode_below h s _
  · split at ht
    · cases ht
      exact (SameBelow.of_keeps (ringRaise_keeps (m := 34359739392) (by decide) _ _ _ _ _ _
        (ringPoke_keeps (by decide) s _ _ _ _ (Keeps.refl _ s))) (by decide) (by decide)).trans (hubStore_below h _ _ _)
    · cases ht

theorem indicateBody_below (s : State) (c k : Nat) (body : Bytes) : SameBelow radioBase s (indicateBody s c k body) := by
  unfold indicateBody
  dsimp only
  cases ht : ringAppend s (CODEC_CELL_STATUS.STATE.addr c) ((cellAt s c).fld 0x30 8) ((cellAt s c).fld 0x54 4)
      (l2Msg ((cellAt s c).slotNo k) body) with
  | none => exact SameBelow.set s CODEC_CELL_IND_DROP _ c 0 (radio_above (by decide) c)
  | some t => exact ringAppend_below (radio_above (by decide) c) ht

theorem indicate_below (s : State) (c kind k : Nat) (detail : Bytes) : SameBelow radioBase s (indicate s c kind k detail) :=
  (SameBelow.of_keeps (takeFree_keeps (m := 2) (by decide) s (Keeps.refl _ s)).of (by decide) (by decide)).trans
    (indicateBody_below _ _ _ _)

theorem setAlarm_below (s : State) (c v : Nat) : SameBelow radioBase s (setAlarm s c v) := by
  unfold setAlarm
  split
  · exact SameBelow.refl _ s
  · exact (SameBelow.set s CODEC_CELL_STATUS.TIME_ALARM v c 0 (radio_above (by decide) c)).trans (indicate_below _ _ _ _ _)

theorem setCell_below (s : State) (c : Nat) (x : Cell) : SameBelow radioBase s (setCell s c x) :=
  fun o _ => setCell_rdReg s c x o

theorem setFsk_below (s : State) (g : Nat) (x : FskGrp) : SameBelow radioBase s (setFsk s g x) :=
  fun o _ => setFsk_rdReg s g x o

theorem signalCell_below (t : Nat) (s : State) (c : Nat) : SameBelow radioBase s (signalCell t s c) := by
  have htx : SameBelow radioBase s (s.set CODEC_CELL_STATUS.TX_ENABLED 0 c) :=
    SameBelow.set s CODEC_CELL_STATUS.TX_ENABLED 0 c 0 (radio_above (by decide) c)
  unfold signalCell
  dsimp only
  split
  · exact SameBelow.refl _ s
  · split
    · exact (setCell_below s c _).trans (setAlarm_below _ _ _)
    · split
      · split
        · exact setAlarm_below _ _ _
        · exact (htx.trans (setCell_below _ _ _)).trans (setAlarm_below _ _ _)
      · split
        · exact SameBelow.refl _ s
        · exact (htx.trans (setCell_below _ _ _)).trans (setAlarm_below _ _ _)

theorem signalFsk_below (t : Nat) (s : State) (g : Nat) : SameBelow radioBase s (signalFsk t s g) := by
  have hset (s : State) (f : Fld) (v : Nat) (h : radioBase ≤ f.off) : SameBelow radioBase s (s.set f v g) :=
    SameBelow.set s f v g 0 (radio_above h g)
  unfold signalFsk
  dsimp only
  split
  · exact SameBelow.refl _ s
  · split
    · exact hset _ _ _ (by decide)
    · split
      · exact ((hset _ _ _ (by decide)).trans (hset _ _ _ (by decide))).trans (setFsk_below _ _ _)
      · exact (hset _ _ _ (by decide)).trans (hset _ _ _ (by decide))

/-- The entry to a time state shows at the cells and the FSK groups alone (R52). -/
theorem signalTime_below (s : State) (t : Nat) : SameBelow radioBase s (signalTime s t) :=
  (SameBelow.forEach (signalCell_below t) _ s).trans (SameBelow.forEach (signalFsk_below t) _ _)

/-- What the entry to a time state leaves of the device's own time: the clock, the servo and the registers below the radio's
are those of the state that is signalled. -/
theorem signalTime_clk (s : State) (t : Nat) : (signalTime s t).clk = s.clk :=
  (signalTime_keeps (m := 34384905222) (by decide) s t (Keeps.refl _ s)).2 .clk (by decide)
theorem signalTime_servo (s : State) (t : Nat) : (signalTime s t).servo = s.servo :=
  (signalTime_keeps (m := 34384905222) (by decide) s t (Keeps.refl _ s)).2 .servo (by decide)
theorem signalTime_get (s : State) (t : Nat) (f : Fld) (i k : Nat) (h : f.addr i k < radioBase) :
    (signalTime s t).get f i k = s.get f i k := (signalTime_below s t).get f i k h

theorem applyY_eq (s : State) (y : Int) : applyY s y =
    (((s.withServo { s.servo with y := y }).withClk
      { s.clk with incrPend := some (BitVec.ofNat 64 (clampIncr s (incrOfY y))) }).setS ALM_FREQ_ADJ (y.tdiv (2 ^ 16))) := by
  unfold applyY State.withServo State.withClk
  rfl

section
variable (s : State) (y : Int)

@[simp] theorem applyY_servo : (applyY s y).servo = { s.servo with y := y } := by
  rw [applyY_eq]; simp only [State.setS_servo, withClk_servo, withServo_servo]
@[simp] theorem applyY_clk : (applyY s y).clk =
    { s.clk with incrPend := some (BitVec.ofNat 64 (clampIncr s (incrOfY y))) } := by
  rw [applyY_eq]; simp only [State.setS_clk, withClk_clk]
theorem applyY_regsBut : regsBut [ALM_FREQ_ADJ.off] s (applyY s y) := by
  rw [applyY_eq]
  exact regsBut_trans (regsBut_trans (withServo_regsBut s _ _) (withClk_regsBut _ _ _)) (set_regsBut _ ALM_FREQ_ADJ _ 0 0)

end

/-- The servo at the entry to HOLDOVER: y at its mean, the time error's parts from now (R51). -/
def heldOver (s : State) : Servo :=
  { s.servo with
    y := meanY s.servo, hoE := s.servo.eLast.natAbs, hoSum := 0, hoSync := 0, hoFree := 0, hoMark := nowNs s,
    hoNext := nowNs s + 1000000, okRun := 0, hoBadRun := 0 }

/-- The entry to HOLDOVER freezes y at its mean and publishes the time error (R51). -/
theorem enterTime_holdover (s : State) : enterTime s Ts.holdover =
    signalTime (publishTe ((applyY (s.set ALM_STATUS.TIME_STATE Ts.holdover) (meanY s.servo)).withServo (heldOver s)))
      Ts.holdover := by
  simp only [enterTime, State.withServo, heldOver, applyY_servo, State.set_servo, nowNs, applyY_clk, State.set_clk,
    ne_eq, not_true_eq_false, false_and, and_false, if_false, if_true]

/-- The entry to HOLDOVER_EXPIRED leaves its code (R50). -/
theorem enterTime_expired (s : State) : enterTime s Ts.expired =
    signalTime ((s.set ALM_STATUS.TIME_STATE Ts.expired).set ALM_STATUS.FAULT_CODE Code.holdoverExpired) Ts.expired := by
  have h : ¬ Ts.expired = Ts.holdover := by decide
  simp only [enterTime, ne_eq, not_true_eq_false, and_false, if_false, if_neg h, if_true]

/-- The entry to FREE_RUN from a state that is not of holdover changes the time state alone. -/
theorem enterTime_freeRun (s : State) (h : timeState s < Ts.holdover) : enterTime s Ts.freeRun =
    signalTime (s.set ALM_STATUS.TIME_STATE Ts.freeRun) Ts.freeRun := by
  have h3 : ¬ (timeState s = Ts.holdover ∨ timeState s = Ts.expired) := by
    simp only [Ts.holdover, Ts.expired] at h ⊢
    omega
  have ha : ¬ Ts.freeRun = Ts.holdover := by decide
  have hb : ¬ Ts.freeRun = Ts.expired := by decide
  have hc : ¬ Ts.freeRun = Ts.acquiring := by decide
  have hd : ¬ Ts.freeRun = Ts.locked := by decide
  simp only [enterTime, h3, false_and, if_false, if_neg ha, if_neg hb, if_neg hc, if_neg hd]

section
variable (s : State)

theorem enterTime_holdover_servo : (enterTime s Ts.holdover).servo = heldOver s := by
  rw [enterTime_holdover, signalTime_servo, publishTe, State.set_servo, withServo_servo]

theorem enterTime_holdover_n : (enterTime s Ts.holdover).clk.n = s.clk.n := by
  rw [enterTime_holdover, signalTime_clk, publishTe, State.set_clk, withServo_clk, applyY_clk, State.set_clk]

/-- Of the registers below the radio's, the entry to HOLDOVER writes the time state, the adjustment and the time error. -/
theorem enterTime_holdover_get (hb : s.behaveReset = []) (f : Fld) (i k : Nat) (hr : f.addr i k < radioBase)
    (hy : f.addr i k ≠ ALM_FREQ_ADJ.off) (he : f.addr i k ≠ ALM_HO_TE.off)
    (ht : f.addr i k ≠ ALM_STATUS.W.off ∨ 11 ≤ f.lo ∨ f.lo + f.w ≤ 8) :
    (enterTime s Ts.holdover).get f i k = s.get f i k := by
  rw [enterTime_holdover, signalTime_get _ _ _ _ _ hr, publishTe, get_set_reg _ _ _ _ _ _ _ _ (by simpa [Fld.addr] using he),
    withServo_get, State.get, applyY_regsBut _ _ _ (by simpa using hy)]
  exact get_set_apart s ALM_STATUS.TIME_STATE f _ 0 0 i k hb (by decide) (by simpa [Fld.addr] using ht)

theorem enterTime_holdover_timeState (hb : s.behaveReset = []) : timeState (enterTime s Ts.holdover) = Ts.holdover := by
  rw [timeState, enterTime_holdover, signalTime_get _ _ _ _ _ (by decide), publishTe, get_set_reg _ _ _ _ _ _ _ _ (by decide),
    withServo_get, State.get, applyY_regsBut _ _ _ (by decide)]
  exact get_set_self s ALM_STATUS.TIME_STATE Ts.holdover 0 0 hb (by decide)

end

/-! ## The time error of holdover (02_almanac.md R51) -/

/-- What a split of the millisecond adds to the time at the rate with SyncE (R51). -/
def partSync (s : State) (d : Nat) : Nat := if s.get ALM_SYNCE_CTRL.QUALIFIED ≠ 0 then d else 0

/-- What a split of the millisecond adds to the time at the rate without SyncE (R51). -/
def partFree (s : State) (d : Nat) : Nat := if s.get ALM_SYNCE_CTRL.QUALIFIED ≠ 0 then 0 else d

theorem splitMs_eq (s : State) (u : Nat) : splitMs s u = s.withServo { s.servo with
    hoSync := s.servo.hoSync + partSync s (u - s.servo.hoMark)
    hoFree := s.servo.hoFree + partFree s (u - s.servo.hoMark)
    hoMark := max u s.servo.hoMark } := by
  unfold splitMs State.withServo partSync partFree
  by_cases h : s.get ALM_SYNCE_CTRL.QUALIFIED = 0 <;> simp [State.bit, h]

/-- The summed rate terms at the end of a millisecond (R51). -/
def teSum (s : State) : Nat :=
  s.servo.hoSum +
    s.get ALM_HO_RATE_SYNCE * (s.servo.hoSync + partSync s (s.servo.hoNext - s.servo.hoMark)) +
    s.get ALM_HO_RATE_FREE * (s.servo.hoFree + partFree s (s.servo.hoNext - s.servo.hoMark))

/-- The servo with the millisecond summed (R51). -/
def teServo (s : State) : Servo :=
  { s.servo with
    hoSum := teSum s, hoSync := 0, hoFree := 0, hoMark := max s.servo.hoNext s.servo.hoMark,
    hoNext := s.servo.hoNext + 1000000 }

/-- The state with the millisecond summed and its time error published (R51). -/
def teSummed (s : State) : State := publishTe (s.withServo (teServo s))

/-- The time error at the end of a millisecond, in 1 / (65536 × 10^9) ns (R51). -/
def teNext (s : State) : Nat :=
  s.servo.hoE * 1000000000 + s.get ALM_HO_BASE * (65536 * 1000000000) + teSum s * 256

section
variable (s : State)

theorem teSummed_servo : (teSummed s).servo = teServo s := by
  rw [teSummed, publishTe, State.set_servo, withServo_servo]

theorem teSummed_get (f : Fld) (i k : Nat) (h : f.addr i k ≠ ALM_HO_TE.off) : (teSummed s).get f i k = s.get f i k := by
  rw [teSummed, publishTe, get_set_reg _ _ _ _ _ _ _ _ (by simpa [Fld.addr] using h), withServo_get]

theorem teSummed_behaveReset : (teSummed s).behaveReset = s.behaveReset := by
  rw [teSummed, publishTe, State.set_behaveReset, withServo_behaveReset]

theorem holdoverTe_teServo : holdoverTe (s.withServo (teServo s)) = teNext s := by
  rw [holdoverTe, withServo_servo, withServo_get, teNext, teServo]

theorem holdoverTe_teSummed : holdoverTe (teSummed s) = teNext s := by
  rw [holdoverTe, teSummed_servo, teSummed_get s _ _ _ (by decide), teNext, teServo]

/-- The published time error is in whole nanoseconds and saturates. -/
theorem teSummed_te (hb : s.behaveReset = []) :
    (teSummed s).get ALM_HO_TE = min (teNext s / (65536 * 1000000000)) (2 ^ 32 - 1) := by
  rw [teSummed, publishTe, get_set_self _ ALM_HO_TE _ _ _ (by simpa using hb) (by decide), holdoverTe_teServo]
  exact Nat.mod_eq_of_lt ((Nat.min_le_right _ _).trans_lt (by decide))

/-- In HOLDOVER the update leaves for HOLDOVER_EXPIRED exactly where the error exceeds the limit (R50, R51). -/
theorem teUpdate_eq (ht : timeState s = Ts.holdover) (hn : s.servo.hoNext ≤ nowNs s) : teUpdate s =
    if s.get ALM_HO_LIMIT * (65536 * 1000000000) < teNext s then enterTime (teSummed s) Ts.expired else teSummed s := by
  have hlim : (teSummed s).get ALM_HO_LIMIT = s.get ALM_HO_LIMIT := teSummed_get s _ _ _ (by decide)
  have hts : timeState (teSummed s) = Ts.holdover := (teSummed_get s _ _ _ (by decide)).trans ht
  have hsplit : publishTe { splitMs s s.servo.hoNext with servo := { (splitMs s s.servo.hoNext).servo with
      hoSum := (splitMs s s.servo.hoNext).servo.hoSum +
        (splitMs s s.servo.hoNext).get ALM_HO_RATE_SYNCE * (splitMs s s.servo.hoNext).servo.hoSync +
        (splitMs s s.servo.hoNext).get ALM_HO_RATE_FREE * (splitMs s s.servo.hoNext).servo.hoFree
      hoSync := 0, hoFree := 0, hoNext := (splitMs s s.servo.hoNext).servo.hoNext + 1000000 } } = teSummed s := by
    simp only [splitMs_eq, withServo_servo, withServo_get]
    unfold teSummed teServo teSum State.withServo
    rfl
  rw [teUpdate, if_pos ⟨Or.inl ht, hn⟩]
  simp only [hsplit, hts, hlim, holdoverTe_teSummed, true_and]

end

/-! ## The upstream sub-port (02_almanac.md R57) -/

/-- The state with the upstream sub-port shown. -/
def upShown (s : State) : State :=
  match upstreamOf s (s.get ALM_CFG.UP_PORT) with
  | some k => (s.set ALM_STATUS.UP_VALID 1).set ALM_STATUS.UP_SUB k
  | none => s.set ALM_STATUS.UP_VALID 0

/-- The upstream sub-port that stands. -/
def upNow (s : State) : Option Nat := if s.bit ALM_STATUS.UP_VALID then some (s.get ALM_STATUS.UP_SUB) else none

/-- The state with the upstream sub-port chosen, its time state as it was. -/
def upstreamTaken (s : State) : State :=
  if upNow s = upstreamOf s (s.get ALM_CFG.UP_PORT) then upShown s
  else (upShown s).withServo { (upShown s).servo with lastMs := none, reqs := [], mpd := none }

theorem chooseUpstream_eq (s : State) : chooseUpstream s =
    if upstreamOf s (s.get ALM_CFG.UP_PORT) = none ∧ (upstreamTaken s).get ALM_CFG.SOURCE = 1 ∧
        timeState (upstreamTaken s) = Ts.locked then enterTime (upstreamTaken s) Ts.holdover
    else upstreamTaken s := by
  unfold chooseUpstream upstreamTaken upShown upNow State.withServo
  rfl

theorem subPorts_le (s : State) (p : Nat) : subPorts s p ≤ 4 := by unfold subPorts; split <;> omega

theorem upstreamOf_lt {s : State} {p j : Nat} (h : upstreamOf s p = some j) : j < 4 := by
  unfold upstreamOf at h
  split at h
  · exact (List.mem_range.1 (List.mem_of_find?_eq_some h)).trans_le (subPorts_le s p)
  · cases h

/-- The choice looks at the port's state and mode and at its sub-ports' links alone. -/
theorem upstreamOf_congr {s t : State} {p : Nat} (hs : fnState t (FH_STATUS.W.addr p) = fnState s (FH_STATUS.W.addr p))
    (hm : t.get FH_CFG.MODE p = s.get FH_CFG.MODE p)
    (hl : ∀ k < 4, t.get FH_SUB_STATUS.LINK_UP p k = s.get FH_SUB_STATUS.LINK_UP p k) : upstreamOf t p = upstreamOf s p := by
  have hn : subPorts t p = subPorts s p := by simp only [subPorts, hm]
  simp only [upstreamOf, hs, hn]
  refine if_congr Iff.rfl (List.find?_congr fun k hk => ?_) rfl
  simp only [State.bit, hl k ((List.mem_range.1 hk).trans_le (subPorts_le s p))]

section
variable (s : State)

theorem upShown_clk : (upShown s).clk = s.clk := by unfold upShown; split <;> simp only [State.set_clk]
theorem upShown_servo : (upShown s).servo = s.servo := by unfold upShown; split <;> simp only [State.set_servo]
theorem upShown_behaveReset : (upShown s).behaveReset = s.behaveReset := by
  unfold upShown; split <;> simp only [State.set_behaveReset]

theorem upShown_get (hb : s.behaveReset = []) (f : Fld) (i k : Nat)
    (h : f.addr i k ≠ ALM_STATUS.W.off ∨ 8 ≤ f.lo ∨ f.lo + f.w ≤ 5) : (upShown s).get f i k = s.get f i k := by
  have hsub : f.addr i k ≠ ALM_STATUS.UP_SUB.addr ∨ ALM_STATUS.UP_SUB.lo + ALM_STATUS.UP_SUB.w ≤ f.lo ∨
      f.lo + f.w ≤ ALM_STATUS.UP_SUB.lo := by simp [Fld.addr] at h ⊢; omega
  have hvalid : f.addr i k ≠ ALM_STATUS.UP_VALID.addr ∨ ALM_STATUS.UP_VALID.lo + ALM_STATUS.UP_VALID.w ≤ f.lo ∨
      f.lo + f.w ≤ ALM_STATUS.UP_VALID.lo := by simp [Fld.addr] at h ⊢; omega
  unfold upShown
  split
  · rw [get_set_apart _ ALM_STATUS.UP_SUB f _ 0 0 i k (by simpa using hb) (by decide) hsub,
      get_set_apart _ ALM_STATUS.UP_VALID f _ 0 0 i k hb (by decide) hvalid]
  · rw [get_set_apart _ ALM_STATUS.UP_VALID f _ 0 0 i k hb (by decide) hvalid]

theorem upstreamTaken_clk : (upstreamTaken s).clk = s.clk := by
  unfold upstreamTaken; split <;> simp only [withServo_clk, upShown_clk]

theorem upstreamTaken_get (f : Fld) (i k : Nat) : (upstreamTaken s).get f i k = (upShown s).get f i k := by
  unfold upstreamTaken; split <;> simp only [withServo_get]

theorem upstreamTaken_behaveReset : (upstreamTaken s).behaveReset = s.behaveReset := by
  unfold upstreamTaken; split <;> simp only [withServo_behaveReset, upShown_behaveReset]

theorem upstreamTaken_yHist : (upstreamTaken s).servo.yHist = s.servo.yHist := by
  unfold upstreamTaken; split <;> simp only [withServo_servo, upShown_servo]

theorem upstreamTaken_mpd (h : s.servo.mpd = none) : (upstreamTaken s).servo.mpd = none := by
  unfold upstreamTaken; split <;> simp only [withServo_servo, upShown_servo, h]

theorem chooseUpstream_n : (chooseUpstream s).clk.n = s.clk.n := by
  rw [chooseUpstream_eq]
  split
  · rw [enterTime_holdover_n, upstreamTaken_clk]
  · rw [upstreamTaken_clk]

theorem chooseUpstream_of_notLocked (hb : s.behaveReset = []) (h : timeState s ≠ Ts.locked) :
    chooseUpstream s = upstreamTaken s := by
  have ht : timeState (upstreamTaken s) = timeState s :=
    (upstreamTaken_get s _ _ _).trans (upShown_get s hb ALM_STATUS.TIME_STATE 0 0 (by decide))
  rw [chooseUpstream_eq, if_neg (by rw [ht]; exact fun hc => h hc.2.2)]

/-- Below the radio's registers, and beside what an entry to HOLDOVER writes, the choice shows in UP_VALID and UP_SUB alone. -/
theorem chooseUpstream_get (hb : s.behaveReset = []) (f : Fld) (i k : Nat) (hr : f.addr i k < radioBase)
    (hy : f.addr i k ≠ ALM_FREQ_ADJ.off) (he : f.addr i k ≠ ALM_HO_TE.off)
    (ht : f.addr i k ≠ ALM_STATUS.W.off ∨ 11 ≤ f.lo ∨ f.lo + f.w ≤ 8) :
    (chooseUpstream s).get f i k = (upShown s).get f i k := by
  rw [chooseUpstream_eq, ← upstreamTaken_get]
  split
  · exact enterTime_holdover_get _ (by rw [upstreamTaken_behaveReset, hb]) f i k hr hy he ht
  · rfl

/-- UP_VALID and UP_SUB show the sub-port that was found. -/
theorem chooseUpstream_shows (hb : s.behaveReset = []) :
    match upstreamOf s (s.get ALM_CFG.UP_PORT) with
    | some j => (chooseUpstream s).get ALM_STATUS.UP_VALID = 1 ∧ (chooseUpstream s).get ALM_STATUS.UP_SUB = j
    | none => (chooseUpstream s).get ALM_STATUS.UP_VALID = 0 := by
  rw [chooseUpstream_get s hb ALM_STATUS.UP_VALID 0 0 (by decide) (by decide) (by decide) (by decide),
    chooseUpstream_get s hb ALM_STATUS.UP_SUB 0 0 (by decide) (by decide) (by decide) (by decide)]
  cases h : upstreamOf s (s.get ALM_CFG.UP_PORT) with
  | none => simp only [upShown, h]; exact get_set_self _ ALM_STATUS.UP_VALID 0 0 0 hb (by decide)
  | some j =>
    simp only [upShown, h]
    constructor
    · rw [get_set_beside _ ALM_STATUS.UP_SUB ALM_STATUS.UP_VALID _ 0 0 0 0 (by simpa using hb) rfl (by decide) (by decide)]
      exact get_set_self _ ALM_STATUS.UP_VALID 1 0 0 hb (by decide)
    · rw [get_set_self _ ALM_STATUS.UP_SUB _ _ _ (by simpa using hb) (by decide)]
      exact Nat.mod_eq_of_lt (upstreamOf_lt h)

end

/-- The state with the link of a sub-port stored. -/
def linkStored (s : State) (p k v : Nat) : State :=
  (s.set FH_SUB_STATUS.LINK_UP v p k).set FH_SUB_STATUS.FEC_LOCK v p k

theorem linkStored_link (s : State) (hb : s.behaveReset = []) (p k v : Nat) (hv : v < 2) :
    (linkStored s p k v).get FH_SUB_STATUS.LINK_UP p k = v := by
  rw [linkStored, get_set_beside _ FH_SUB_STATUS.FEC_LOCK FH_SUB_STATUS.LINK_UP _ p k p k (by simpa using hb) rfl
    (by decide) (by decide)]
  exact (get_set_self s FH_SUB_STATUS.LINK_UP v p k hb (by decide)).trans (Nat.mod_eq_of_lt hv)

theorem exec_fhLinkChange {s : State} {p k : Nat} (hp : p < 8) (hk : k < subPorts s p) (up : Bool) :
    exec (.fhLinkChange p k up) s = .next (chooseUpstream (linkStored s p k (if up then 1 else 0))) :=
  congrArg Host.Outcome.next (if_pos ⟨hp, hk⟩)

/-! ## The time states (02_almanac.md R50 to R53) -/

theorem exec_lossTimeout (s : State) : exec .lossTimeout s = .next (lossTimeout s) := rfl
theorem exec_holdoverTeUpdate (s : State) : exec .holdoverTeUpdate s = .next (teUpdate s) := rfl
theorem exec_almStart (s : State) : exec .almStart s = .next (almStart s) := rfl
theorem exec_almStop (s : State) : exec .almStop s = .next (almStop s) := rfl

theorem lossTimeout_acquiring {s : State} (h : s.servo.lastValid + s.get ALM_LOSS_TIMEOUT ≤ nowNs s)
    (ht : timeState s = Ts.acquiring) : lossTimeout s = enterTime s Ts.freeRun := by
  rw [lossTimeout, if_pos h, if_pos ht]

theorem lossTimeout_locked {s : State} (h : s.servo.lastValid + s.get ALM_LOSS_TIMEOUT ≤ nowNs s)
    (ht : timeState s = Ts.locked) : lossTimeout s = enterTime s Ts.holdover := by
  rw [lossTimeout, if_pos h, if_neg (by rw [ht]; decide), if_pos ht]

theorem enterTime_freeRun_timeState {s : State} (hb : s.behaveReset = []) (h : timeState s < Ts.holdover) :
    timeState (enterTime s Ts.freeRun) = Ts.freeRun := by
  rw [timeState, enterTime_freeRun s h, signalTime_get _ _ _ _ _ (by decide)]
  exact get_set_self s ALM_STATUS.TIME_STATE Ts.freeRun 0 0 hb (by decide)

theorem enterTime_expired_get {s : State} (f : Fld) (i k : Nat) (hr : f.addr i k < radioBase)
    (h : f.addr i k ≠ ALM_STATUS.W.off) : (enterTime s Ts.expired).get f i k = s.get f i k := by
  rw [enterTime_expired, signalTime_get _ _ _ _ _ hr, get_set_reg _ _ _ _ _ _ _ _ (by simpa [Fld.addr] using h),
    get_set_reg _ _ _ _ _ _ _ _ (by simpa [Fld.addr] using h)]

theorem enterTime_expired_status {s : State} (hb : s.behaveReset = []) :
    timeState (enterTime s Ts.expired) = Ts.expired ∧
    (enterTime s Ts.expired).get ALM_STATUS.FAULT_CODE = Code.holdoverExpired := by
  have hb' : (s.set ALM_STATUS.TIME_STATE Ts.expired).behaveReset = [] := by simpa using hb
  rw [timeState, enterTime_expired, signalTime_get _ _ _ _ _ (by decide), signalTime_get _ _ _ _ _ (by decide)]
  constructor
  · rw [get_set_beside _ ALM_STATUS.FAULT_CODE ALM_STATUS.TIME_STATE _ 0 0 0 0 hb' rfl (by decide) (by decide)]
    exact get_set_self s ALM_STATUS.TIME_STATE Ts.expired 0 0 hb (by decide)
  · exact get_set_self _ ALM_STATUS.FAULT_CODE Code.holdoverExpired 0 0 hb' (by decide)

/-- The state with the servo started: RUNNING, its code and its count cleared, no exchange and no adjustment known. -/
def almStarted (s : State) : State :=
  (((setFnState (setFnCode s almFn Code.done) almFn Fn.running).set ALM_STATUS.OUTLIER_COUNT 0).withServo
    { s.servo with mpd := none, lastMs := none, reqs := [], yHist := [] })

section
variable {s : State} (hs : s.sound) (h : fnState s almFn = Fn.stopped)
include hs h

theorem almStart_legal (hc : almCheck s = none) : almStart s = chooseUpstream (almStarted s) := by
  have hrun : fnState (setFnState (setFnCode s almFn Code.done) almFn Fn.running) almFn = Fn.running := by
    rw [fnState_eq, setFnState_eq, get_set_self _ _ _ _ _ (by simpa [setFnCode_eq] using hs.1) (by decide)]; rfl
  have hservo :
      ((setFnState (setFnCode s almFn Code.done) almFn Fn.running).set ALM_STATUS.OUTLIER_COUNT 0).servo = s.servo := by
    simp only [State.set_servo, setFnState_eq, setFnCode_eq]
  rw [almStart, if_pos h, startFn_stopped s almFn _ hs.2 h, hc]
  simp only [hrun, if_true, hservo, almStarted, State.withServo]

theorem almStart_illegal {c : Nat} (hc : almCheck s = some c) : almStart s = faultFn s almFn c := by
  have hf : fnState (faultFn s almFn c) almFn = Fn.faulted := by
    rw [fnState_eq, faultFn_eq, get_set_self _ _ _ _ _ (by simpa using hs.1) (by decide)]; rfl
  rw [almStart, if_pos h, startFn_stopped s almFn _ hs.2 h, hc]
  simp only [hf]
  rfl

end

section
variable (s : State)

theorem almStarted_behaveReset : (almStarted s).behaveReset = s.behaveReset := by
  simp only [almStarted, withServo_behaveReset, State.set_behaveReset, setFnState_eq, setFnCode_eq]

theorem almStarted_clk : (almStarted s).clk = s.clk := by
  simp only [almStarted, withServo_clk, State.set_clk, setFnState_eq, setFnCode_eq]

theorem almStarted_get (hb : s.behaveReset = []) : fnState (almStarted s) almFn = Fn.running ∧
    timeState (almStarted s) = timeState s ∧ (almStarted s).get ALM_STATUS.OUTLIER_COUNT = 0 := by
  rw [fnState_eq, timeState, timeState, almStarted, withServo_get, withServo_get, withServo_get, setFnState_eq, setFnCode_eq]
  simp [get_set_apart, get_set_self, hb, Fld.addr, stateFld, codeFld]
  decide

end

theorem almCheck_illegal {s : State} (h : s.get ALM_CFG.TRANSPORT = 3 ∨ s.get ALM_CFG.SOURCE = 3 ∨
    (s.get ALM_CFG.TRANSPORT ≠ 0 ∧ s.get ALM_CFG.PROFILE = 0)) : almCheck s = some Code.badArgument := if_pos h

/-- A fault shows in the function's status register alone. -/
theorem faultFn_shows (s : State) (hb : s.behaveReset = []) (c : Nat) (hc : c < 2 ^ 8) :
    fnState (faultFn s almFn c) almFn = Fn.faulted ∧ (faultFn s almFn c).get ALM_STATUS.FAULT_CODE = c ∧
    regsBut [almFn] s (faultFn s almFn c) ∧ sameBut [.regs] s (faultFn s almFn c) := by
  have hb' : (s.set (codeFld almFn) c).behaveReset = [] := by simpa using hb
  refine ⟨?_, ?_, ?_, (faultFn_keeps (m := 4) (by decide) s almFn c (Keeps.refl _ s)).same [.regs] (by decide)⟩
  · rw [fnState_eq, faultFn_eq]
    exact get_set_self _ (stateFld almFn) Fn.faulted 0 0 hb' (by decide)
  · rw [faultFn_eq, get_set_beside _ (stateFld almFn) ALM_STATUS.FAULT_CODE _ 0 0 0 0 hb' rfl (by decide) (by decide)]
    exact (get_set_self s (codeFld almFn) c 0 0 hb (by decide)).trans (Nat.mod_eq_of_lt hc)
  · rw [faultFn_eq]
    exact regsBut_trans (set_regsBut s (codeFld almFn) c 0 0) (set_regsBut _ (stateFld almFn) Fn.faulted 0 0)

/-- STOP of a RUNNING servo (R53): its state, and the time state that follows. -/
theorem almStop_running {s : State} (h : fnState s almFn = Fn.running) :
    almStop s = servoStopped (s.set ALM_STATUS.STATE Fn.stopped) := by
  rw [almStop, if_pos h, setFnState_eq]

section
variable {s : State}

theorem servoStopped_locked (h : timeState s = Ts.locked) : servoStopped s = enterTime s Ts.holdover := by
  simp only [servoStopped, if_pos h]

theorem servoStopped_acquiring (h : timeState s = Ts.acquiring) :
    servoStopped s = enterTime (s.withClk { s.clk with servoStep := none }) Ts.freeRun := by
  have h2 : ¬ timeState s = Ts.locked := by rw [h]; decide
  simp only [servoStopped, if_neg h2, if_pos h, State.withClk]

theorem servoStopped_other (h1 : timeState s ≠ Ts.locked) (h2 : timeState s ≠ Ts.acquiring) : servoStopped s = s := by
  simp only [servoStopped, if_neg h1, if_neg h2]

end

/-- What STOP of a RUNNING servo leaves: the servo STOPPED, the time state that follows, and in ACQUIRING no servo step. -/
theorem almStop_leaves {s : State} (hb : s.behaveReset = []) (h : fnState s almFn = Fn.running) :
    fnState (almStop s) almFn = Fn.stopped ∧
    timeState (almStop s) = (if timeState s = Ts.locked then Ts.holdover else if timeState s = Ts.acquiring then Ts.freeRun
      else timeState s) ∧
    (timeState s = Ts.acquiring → (almStop s).clk = { s.clk with servoStep := none }) := by
  rw [almStop_running h]
  have hb' : (s.set ALM_STATUS.STATE Fn.stopped).behaveReset = [] := by simpa using hb
  have hstate : fnState (s.set ALM_STATUS.STATE Fn.stopped) almFn = Fn.stopped := by
    rw [fnState_eq]; exact get_set_self s ALM_STATUS.STATE Fn.stopped 0 0 hb (by decide)
  have htime : timeState (s.set ALM_STATUS.STATE Fn.stopped) = timeState s :=
    get_set_beside s ALM_STATUS.STATE ALM_STATUS.TIME_STATE Fn.stopped 0 0 0 0 hb rfl (by decide) (by decide)
  have hclk : (s.set ALM_STATUS.STATE Fn.stopped).clk = s.clk := State.set_clk ..
  generalize s.set ALM_STATUS.STATE Fn.stopped = u at hb' hstate htime hclk
  rw [← htime, ← hclk]
  by_cases h2 : timeState u = Ts.locked
  · rw [servoStopped_locked h2, if_pos h2, fnState_eq,
      enterTime_holdover_get u hb' _ 0 0 (by decide) (by decide) (by decide) (by decide),
      ← fnState_eq]
    exact ⟨hstate, enterTime_holdover_timeState u hb', fun h1 => absurd (h1.symm.trans h2) (by decide)⟩
  · by_cases h1 : timeState u = Ts.acquiring
    · have hb1 : (u.withClk { u.clk with servoStep := none }).behaveReset = [] := by simpa using hb'
      have hlt : timeState (u.withClk { u.clk with servoStep := none }) < Ts.holdover := by
        rw [timeState, withClk_get, ← timeState, h1]; decide
      rw [servoStopped_acquiring h1, if_neg h2, if_pos h1]
      refine ⟨?_, enterTime_freeRun_timeState hb1 hlt, fun _ => ?_⟩
      · rw [fnState_eq, enterTime_freeRun _ hlt, signalTime_get _ _ _ _ _ (by decide),
          get_set_beside _ ALM_STATUS.TIME_STATE (stateFld almFn) _ 0 0 0 0 hb1 rfl (by decide) (by decide),
          withClk_get, ← fnState_eq, hstate]
      · rw [enterTime_freeRun _ hlt, signalTime_clk, State.set_clk, withClk_clk]
    · rw [servoStopped_other h2 h1, if_neg h2, if_neg h1]
      exact ⟨hstate, rfl, fun h => absurd h h1⟩

/-- The registers of the fronthaul ports stand while the upstream sub-port is chosen. -/
theorem chooseUpstream_get_port (s : State) (hb : s.behaveReset = []) (f : Fld) {p k : Nat} (hp : p < 8) (hk : k < 4)
    (hlo : 0x80000 ≤ f.off) (hhi : f.off + 7 * f.s1 + 3 * f.s2 < radioBase) :
    (chooseUpstream s).get f p k = s.get f p k := by
  have h1 : p * f.s1 ≤ 7 * f.s1 := Nat.mul_le_mul_right _ (by omega)
  have h2 : k * f.s2 ≤ 3 * f.s2 := Nat.mul_le_mul_right _ (by omega)
  have h (o : Nat) (ho : o < 0x80000) : f.addr p k ≠ o := by unfold Fld.addr; omega
  rw [chooseUpstream_get s hb f p k (by unfold Fld.addr; omega) (h _ (by decide)) (h _ (by decide)) (Or.inl (h _ (by decide))),
    upShown_get s hb f p k (Or.inl (h _ (by decide)))]

theorem fnState_port (s : State) (p : Nat) : fnState s (FH_STATUS.W.addr p) = s.get FH_STATUS.STATE p := by
  simp [fnState_eq, State.get, Fld.addr]

theorem chooseUpstream_upstreamOf (s : State) (hb : s.behaveReset = []) {p : Nat} (hp : p < 8) :
    upstreamOf (chooseUpstream s) p = upstreamOf s p := by
  refine upstreamOf_congr ?_ ?_ fun k hk => ?_
  · rw [fnState_port, fnState_port]
    exact chooseUpstream_get_port s hb _ hp (by decide) (by decide) (by decide)
  · exact chooseUpstream_get_port s hb _ hp (by decide) (by decide) (by decide)
  · exact chooseUpstream_get_port s hb _ hp hk (by decide) (by decide)

/-- Settles O9: each change of the time state is an entry to it, and what an entry writes is what the clauses say. -/
theorem almanacTimeStates : Obligations.AlmanacTimeStates := by
  refine ⟨fun s hs hl => ⟨fun ht => ?_, fun ht => ?_⟩, fun s hs ht hn hm => ?_,
    fun s hs h ht => ⟨fun hc => ?_, fun hc => ?_⟩, fun s hs h => ?_, fun s p k up hs hp hk => ?_⟩
  · refine acts_of_exec (exec_lossTimeout s) ?_
    have hlt : timeState s < Ts.holdover := by rw [ht]; decide
    rw [lossTimeout_acquiring hl ht]
    refine ⟨enterTime_freeRun_timeState hs.1 hlt, ?_⟩
    rw [enterTime_freeRun s hlt, signalTime_servo, State.set_servo]
  · refine acts_of_exec (exec_lossTimeout s) ?_
    rw [lossTimeout_locked hl ht, enterTime_holdover_servo]
    exact ⟨enterTime_holdover_timeState s hs.1, rfl, rfl, rfl⟩
  · intro d qual sum te
    have hsum : teSum s = sum := rfl
    have hte : teNext s = te := rfl
    clear_value sum te
    refine acts_of_exec (exec_holdoverTeUpdate s) ?_
    have hb : (teSummed s).behaveReset = [] := (teSummed_behaveReset s).trans hs.1
    have hHoTe := teSummed_te s hs.1
    rw [teUpdate_eq s ht hn, hte]
    rw [hte] at hHoTe
    split
    · next hlt =>
      have hservo : (enterTime (teSummed s) Ts.expired).servo = teServo s := by
        rw [enterTime_expired, signalTime_servo, State.set_servo, State.set_servo, teSummed_servo]
      rw [hservo, enterTime_expired_get ALM_HO_TE 0 0 (by decide) (by decide)]
      exact ⟨hsum, rfl, hHoTe, fun _ => enterTime_expired_status hb, fun hle => absurd hlt (Nat.not_lt.2 hle)⟩
    · next hge =>
      rw [teSummed_servo]
      exact ⟨hsum, rfl, hHoTe, fun hlt => absurd hlt hge, fun _ => (teSummed_get s _ _ _ (by decide)).trans ht⟩
  · refine acts_of_exec (exec_almStart s) ?_
    have hb : (almStarted s).behaveReset = [] := (almStarted_behaveReset s).trans hs.1
    obtain ⟨hrun, htime, hcount⟩ := almStarted_get s hs.1
    rw [almStart_legal hs h hc, chooseUpstream_of_notLocked _ hb (by rw [htime]; exact ht)]
    have hget (f : Fld) (hf : 8 ≤ f.lo ∨ f.lo + f.w ≤ 5) : (upstreamTaken (almStarted s)).get f = (almStarted s).get f :=
      (upstreamTaken_get _ _ _ _).trans (upShown_get _ hb f 0 0 (Or.inr hf))
    refine ⟨?_, (hget ALM_STATUS.TIME_STATE (by decide)).trans htime,
      (hget ALM_STATUS.OUTLIER_COUNT (by decide)).trans hcount, ?_, ?_, ?_⟩
    · rw [fnState_eq, hget _ (by decide), ← fnState_eq, hrun]
    · exact upstreamTaken_mpd _ (by rw [almStarted, withServo_servo])
    · rw [upstreamTaken_yHist, almStarted, withServo_servo]
    · rw [upstreamTaken_clk, almStarted_clk]
  · refine acts_of_exec (exec_almStart s) ?_
    rw [almStart_illegal hs h (almCheck_illegal hc)]
    exact faultFn_shows s hs.1 Code.badArgument (by decide)
  · refine acts_of_exec (exec_almStop s) ?_
    exact almStop_leaves hs.1 h
  · refine acts_of_exec (exec_fhLinkChange hp hk up) ?_
    have hb : (linkStored s p k (if up then 1 else 0)).behaveReset = [] := by simpa [linkStored] using hs.1
    have hport : (linkStored s p k (if up then 1 else 0)).get ALM_CFG.UP_PORT = s.get ALM_CFG.UP_PORT := by
      rw [linkStored, get_set_reg _ _ _ _ _ _ _ _ (by simp [Fld.addr]; omega),
        get_set_reg _ _ _ _ _ _ _ _ (by simp [Fld.addr]; omega)]
    have hk4 := hk.trans_le (subPorts_le s p)
    have hlink := linkStored_link s hs.1 p k (if up then 1 else 0) (by split <;> decide)
    have hn : (linkStored s p k (if up then 1 else 0)).clk.n = s.clk.n := by simp only [linkStored, State.set_clk]
    have hshows := chooseUpstream_shows _ hb
    rw [← hport, chooseUpstream_get_port _ hb _ hp hk4 (by decide) (by decide),
      chooseUpstream_upstreamOf _ hb (get_lt _ ALM_CFG.UP_PORT 0 0)]
    exact ⟨hlink, (chooseUpstream_n _).trans hn, hshows⟩

/-! ## Offset samples (02_almanac.md R46 to R49) -/

theorem exec_syncReceived (s : State) (sub dom tr sq q : Nat) (t1 c : Int) :
    exec (.syncReceived ⟨sub, dom, tr, sq⟩ t1 c q) s = .next (syncSample s sub dom tr t1 c q) := rfl
theorem exec_ppsEdge (s : State) (q : Nat) : exec (.ppsEdge q) s = .next (ppsSample s q) := rfl
theorem exec_delayRespReceived (s : State) (sub dom tr seq : Nat) (t4 c : Int) :
    exec (.delayRespReceived ⟨sub, dom, tr, seq⟩ t4 c) s = .next (delayExchange s sub dom tr seq t4 c) := rfl
theorem exec_synceQualifiedWrite (s : State) (v : Word) : exec (.synceQualifiedWrite v) s = .next (writeSynce s v) := rfl

section
variable (s : State) (e : Int)

/-- The clamped sum that becomes `integ` (R47). -/
def servoInteg : Int := clampTo (s.get ALM_FREQ_LIMIT * 2 ^ 32) (s.servo.integ - s.get ALM_SERVO_KI * e)

/-- The clamped sum that becomes y (R47). -/
def servoY : Int := clampTo (s.get ALM_FREQ_LIMIT * 2 ^ 32) (servoInteg s e - s.get ALM_SERVO_KP * e)

theorem servoUpdate_eq : servoUpdate s e = applyY
    (s.withServo { s.servo with integ := servoInteg s e, yHist := (servoY s e :: s.servo.yHist).take 64 }) (servoY s e) := by
  unfold servoUpdate servoY servoInteg State.withServo
  rfl

theorem servoUpdate_servo : (servoUpdate s e).servo = { s.servo with
    integ := servoInteg s e, y := servoY s e, yHist := (servoY s e :: s.servo.yHist).take 64 } := by
  rw [servoUpdate_eq, applyY_servo, withServo_servo]

/-- An adjustment waits for the tick as the increment it gives, clamped (R47). -/
theorem servoUpdate_clk : (servoUpdate s e).clk =
    { s.clk with incrPend := some (BitVec.ofNat 64 (clampIncr s (incrOfY (servoY s e)))) } := by
  rw [servoUpdate_eq, applyY_clk, withServo_clk]
  simp only [clampIncr, withServo_get]

/-- The state with a sample shown in `ALM_OFFSET`. -/
def offsetShown : State := s.setS ALM_OFFSET (e.tdiv 256)

theorem offsetShown_clk : (offsetShown s e).clk = s.clk := State.setS_clk ..
theorem offsetShown_servo : (offsetShown s e).servo = s.servo := State.setS_servo ..
theorem offsetShown_behaveReset : (offsetShown s e).behaveReset = s.behaveReset := State.setS_behaveReset ..
theorem offsetShown_get (f : Fld) (i k : Nat) (h : f.addr i k ≠ ALM_OFFSET.off) : (offsetShown s e).get f i k = s.get f i k :=
  get_set_reg _ _ _ _ _ _ _ _ (by simpa [Fld.addr] using h)

theorem offsetShown_timeState : timeState (offsetShown s e) = timeState s := offsetShown_get s e _ _ _ (by decide)

/-- The servo that has taken a valid sample, with a run of outliers (R48, R50, R51). -/
def validServo (run : Nat) : Servo := { s.servo with eLast := e, lastValid := nowNs s, outlierRun := run }

/-- The state with a valid sample shown and taken. -/
def validTaken (run : Nat) : State := (offsetShown s e).withServo (validServo s e run)

theorem validTaken_servo (run : Nat) : (validTaken s e run).servo = validServo s e run := by rw [validTaken, withServo_servo]
theorem validTaken_clk (run : Nat) : (validTaken s e run).clk = s.clk := by rw [validTaken, withServo_clk, offsetShown_clk]
theorem validTaken_get (run : Nat) (f : Fld) (i k : Nat) (h : f.addr i k ≠ ALM_OFFSET.off) :
    (validTaken s e run).get f i k = s.get f i k := by rw [validTaken, withServo_get, offsetShown_get s e f i k h]

theorem servoInteg_validTaken (run : Nat) : servoInteg (validTaken s e run) e = servoInteg s e := by
  simp only [servoInteg, validTaken_servo, validServo, validTaken_get s e run ALM_FREQ_LIMIT 0 0 (by decide),
    validTaken_get s e run ALM_SERVO_KI 0 0 (by decide)]

theorem servoY_validTaken (run : Nat) : servoY (validTaken s e run) e = servoY s e := by
  simp only [servoY, servoInteg_validTaken, validTaken_get s e run ALM_FREQ_LIMIT 0 0 (by decide),
    validTaken_get s e run ALM_SERVO_KP 0 0 (by decide)]

theorem clampIncr_validTaken (run : Nat) (v : Int) : clampIncr (validTaken s e run) v = clampIncr s v := by
  simp only [clampIncr, validTaken_get s e run ALM_FREQ_LIMIT 0 0 (by decide)]

/-- A sample in LOCKED within the outlier threshold: the run of outliers ends and the servo takes it (R48). -/
theorem takeSample_within (ht : timeState s = Ts.locked) (h : e.natAbs ≤ thresh s ALM_OUTLIER) : takeSample s e =
    servoUpdate (validTaken s e 0) e := by
  have hle : ¬ thresh (offsetShown s e) ALM_OUTLIER < e.natAbs := by
    rw [thresh, offsetShown_get s e _ _ _ (by decide)]; exact Nat.not_lt.2 h
  have hv : noteValid { offsetShown s e with servo := { (offsetShown s e).servo with outlierRun := 0 } } e =
      validTaken s e 0 := by
    simp only [noteValid, nowNs, offsetShown_servo, offsetShown_clk, validTaken, State.withServo, validServo]
  have hts : timeState (s.setS ALM_OFFSET (e.tdiv 256)) = Ts.locked := (offsetShown_timeState s e).trans ht
  have h0 : ¬ (Ts.locked = Ts.freeRun ∨ Ts.locked = Ts.expired) := by decide
  have h1 : ¬ Ts.locked = Ts.acquiring := by decide
  simp only [takeSample, hts, if_neg h0, if_neg h1, if_true]
  rw [← offsetShown, sampleLocked, if_neg hle, hv]

/-- A sample in LOCKED beyond the outlier threshold, not the eighth in a row, is counted alone (R48). -/
theorem takeSample_beyond (ht : timeState s = Ts.locked) (h : thresh s ALM_OUTLIER < e.natAbs) (hr : s.servo.outlierRun < 7) :
    takeSample s e = ((offsetShown s e).bumpSat ALM_STATUS.OUTLIER_COUNT).withServo
      { s.servo with outlierRun := s.servo.outlierRun + 1 } := by
  have hlt : thresh (offsetShown s e) ALM_OUTLIER < e.natAbs := by
    rw [thresh, offsetShown_get s e _ _ _ (by decide)]; exact h
  have hts : timeState (s.setS ALM_OFFSET (e.tdiv 256)) = Ts.locked := (offsetShown_timeState s e).trans ht
  have h0 : ¬ (Ts.locked = Ts.freeRun ∨ Ts.locked = Ts.expired) := by decide
  have h1 : ¬ Ts.locked = Ts.acquiring := by decide
  have h8 : ¬ 8 ≤ s.servo.outlierRun + 1 := by omega
  simp only [takeSample, hts, if_neg h0, if_neg h1, if_true]
  rw [← offsetShown, sampleLocked, if_pos hlt]
  simp only [State.bumpSat, State.set_servo, offsetShown_servo, if_neg h8, State.withServo]

/-- A sample counted below `ALM_LOCK_COUNT` leaves the time state. -/
theorem countLock_below (h : s.servo.okRun + 1 < s.get ALM_LOCK_COUNT) : countLock s e =
    s.withServo { s.servo with okRun := if e.natAbs ≤ thresh s ALM_LOCK_THRESH then s.servo.okRun + 1 else 0 } := by
  have hle : ¬ s.get ALM_LOCK_COUNT ≤ if e.natAbs ≤ thresh s ALM_LOCK_THRESH then s.servo.okRun + 1 else 0 := by
    split <;> omega
  rw [countLock]
  refine if_neg ?_
  rwa [← State.withServo, withServo_get]

/-- A sample in ACQUIRING beyond the step threshold: a servo step of its negative waits (R48). -/
theorem takeSample_steps (ht : timeState s = Ts.acquiring) (h : thresh s ALM_STEP_THRESH < e.natAbs) : takeSample s e =
    countLock ((validTaken s e s.servo.outlierRun).withClk { s.clk with servoStep := some (-(roundNs e)) }) e := by
  have hv : noteValid (offsetShown s e) e = validTaken s e s.servo.outlierRun := by
    simp only [noteValid, nowNs, offsetShown_servo, offsetShown_clk, validTaken, State.withServo, validServo]
  have hlt : thresh (validTaken s e s.servo.outlierRun) ALM_STEP_THRESH < e.natAbs := by
    rw [thresh, validTaken_get s e _ _ _ _ (by decide)]; exact h
  have hts : timeState (s.setS ALM_OFFSET (e.tdiv 256)) = Ts.acquiring := (offsetShown_timeState s e).trans ht
  have h0 : ¬ (Ts.acquiring = Ts.freeRun ∨ Ts.acquiring = Ts.expired) := by decide
  simp only [takeSample, hts, if_neg h0, if_true]
  rw [← offsetShown, sampleAcquiring]
  simp only [hv, if_pos hlt, validTaken_clk, State.withClk]

end

/-- What a sample within the outlier threshold does in LOCKED, from a PTP or a PPS source (R47). -/
theorem takeSample_feeds {s : State} {e : Int} (ht : timeState s = Ts.locked) (h : e.natAbs ≤ thresh s ALM_OUTLIER) :
    (takeSample s e).servo.integ = servoInteg s e ∧ (takeSample s e).servo.y = servoY s e ∧
    (takeSample s e).servo.eLast = e ∧ (takeSample s e).clk.n = s.clk.n ∧
    (takeSample s e).clk.incrPend = some (BitVec.ofNat 64 (clampIncr s (incrOfY (servoY s e)))) := by
  rw [takeSample_within s e ht h, servoUpdate_servo, servoUpdate_clk, servoInteg_validTaken, servoY_validTaken,
    clampIncr_validTaken, validTaken_clk, validTaken_servo]
  exact ⟨rfl, rfl, rfl, rfl, rfl⟩

/-- What an outlier does in LOCKED: it is counted (R48). -/
theorem takeSample_counts {s : State} {e : Int} (hb : s.behaveReset = []) (ht : timeState s = Ts.locked)
    (h : thresh s ALM_OUTLIER < e.natAbs) (hr : s.servo.outlierRun < 7) :
    (takeSample s e).clk = s.clk ∧
    (takeSample s e).servo = { s.servo with outlierRun := s.servo.outlierRun + 1 } ∧
    timeState (takeSample s e) = Ts.locked ∧
    (takeSample s e).get ALM_STATUS.OUTLIER_COUNT = min (s.get ALM_STATUS.OUTLIER_COUNT + 1) 255 := by
  have hb' : (offsetShown s e).behaveReset = [] := (offsetShown_behaveReset s e).trans hb
  rw [takeSample_beyond s e ht h hr, withServo_clk, withServo_servo, timeState, withServo_get, withServo_get, State.bumpSat,
    State.set_clk, offsetShown_clk]
  refine ⟨rfl, rfl, ?_, ?_⟩
  · rw [get_set_beside _ ALM_STATUS.OUTLIER_COUNT ALM_STATUS.TIME_STATE _ 0 0 0 0 hb' rfl (by decide) (by decide)]
    exact (offsetShown_timeState s e).trans ht
  · rw [get_set_self _ ALM_STATUS.OUTLIER_COUNT _ _ _ hb' (by decide), offsetShown_get s e _ _ _ (by decide)]
    exact Nat.mod_eq_of_lt ((Nat.min_le_right _ _).trans_lt (by decide))

/-- What a sample beyond the step threshold does in ACQUIRING while the lock wants more than one (R48). -/
theorem takeSample_waits {s : State} {e : Int} (ht : timeState s = Ts.acquiring)
    (h : thresh s ALM_STEP_THRESH < e.natAbs) (hr : s.servo.okRun + 1 < s.get ALM_LOCK_COUNT) :
    (takeSample s e).clk.servoStep = some (-(roundNs e)) ∧ (takeSample s e).servo.integ = s.servo.integ ∧
    (takeSample s e).clk.n = s.clk.n ∧ timeState (takeSample s e) = Ts.acquiring := by
  rw [takeSample_steps s e ht h, countLock_below _ e (by
      rw [withClk_servo, withClk_get, validTaken_servo, validTaken_get s e _ _ _ _ (by decide)]; exact hr),
    withServo_clk, withServo_servo, timeState, withServo_get, withClk_clk, withClk_servo, withClk_get, validTaken_servo,
    validTaken_get s e _ _ _ _ (by decide)]
  exact ⟨rfl, rfl, rfl, ht⟩

/-- The state with the last Sync's difference noted (R46). -/
def syncNoted (s : State) (t1 c : Int) (q : Nat) : State :=
  s.withServo { s.servo with lastMs := some (ns8 (rxTime s (s.get ALM_CFG.UP_PORT) q) - t1 - c) }

section
variable (s : State) (t1 c : Int) (q : Nat)

theorem syncNoted_servo : (syncNoted s t1 c q).servo =
    { s.servo with lastMs := some (ns8 (rxTime s (s.get ALM_CFG.UP_PORT) q) - t1 - c) } := by rw [syncNoted, withServo_servo]
theorem syncNoted_clk : (syncNoted s t1 c q).clk = s.clk := by rw [syncNoted, withServo_clk]
theorem syncNoted_behaveReset : (syncNoted s t1 c q).behaveReset = s.behaveReset := by rw [syncNoted, withServo_behaveReset]
theorem syncNoted_get (f : Fld) (i k : Nat) : (syncNoted s t1 c q).get f i k = s.get f i k := by rw [syncNoted, withServo_get]
theorem syncNoted_timeState : timeState (syncNoted s t1 c q) = timeState s := syncNoted_get s t1 c q _ _ _
theorem syncNoted_thresh (f : Fld) : thresh (syncNoted s t1 c q) f = thresh s f := by
  rw [thresh, thresh, syncNoted_get]

theorem syncNoted_clampIncr (v : Int) : clampIncr (syncNoted s t1 c q) v = clampIncr s v := by
  rw [clampIncr, clampIncr, syncNoted_get]

/-- The note of a Sync is no part of the servo's sums. -/
theorem syncNoted_sums (e : Int) : servoInteg (syncNoted s t1 c q) e = servoInteg s e ∧
    servoY (syncNoted s t1 c q) e = servoY s e := by
  simp only [servoY, servoInteg, syncNoted_get, syncNoted_servo, and_self]

end

/-- A Sync that the slave takes, once the path delay is known, is one sample (R46). -/
theorem syncSample_takes {s : State} {sub dom tr q : Nat} {t1 c mpd e : Int} (hr : ptpReady s sub = true)
    (hm : ptpMine s dom tr = true) (hd : s.servo.mpd = some mpd)
    (he : e = 256 * rxTime s (s.get ALM_CFG.UP_PORT) q - t1 - c - (mpd + 256 * s.getS ALM_ASYM (s.get ALM_CFG.UP_PORT))) :
    syncSample s sub dom tr t1 c q = takeSample (syncNoted s t1 c q) e := by
  have he' : ns8 (rxTime s (s.get ALM_CFG.UP_PORT) q) - t1 - c - (mpd + ns8 (s.getS ALM_ASYM (s.get ALM_CFG.UP_PORT))) = e := by
    rw [he]; unfold ns8; ring
  have hnoted (x : Int) (hx : x = ns8 (rxTime s (s.get ALM_CFG.UP_PORT) q) - t1 - c) :
      { s with servo := { s.servo with lastMs := some x } } = syncNoted s t1 c q := by rw [hx]; rfl
  have hasym : (syncNoted s t1 c q).getS ALM_ASYM ((syncNoted s t1 c q).get ALM_CFG.UP_PORT) =
      s.getS ALM_ASYM (s.get ALM_CFG.UP_PORT) := by simp only [State.getS, syncNoted_get]
  simp only [syncSample, hr, hm, Bool.and_self, if_true, hnoted _ rfl, hasym]
  simp only [hd, he']

/-- An edge on PPS_IN is one sample, within half a second either way less the delay (R46). -/
theorem ppsSample_takes {s : State} {q : Nat} {m e : Int} (hr : fnState s almFn = Fn.running) (hsrc : s.get ALM_CFG.SOURCE = 2)
    (hm : m = ((s.clk.n.toNat % 1000000000 : Nat) : Int) * 65536 + q * 16384)
    (he : e = (if m > 500000000 * 65536 then m - 1000000000 * 65536 else m) - s.getS ALM_PPS_DELAY * 65536) :
    ppsSample s q = takeSample s e := by
  simp only [ppsSample, hr, hsrc, and_self, if_true]
  rw [he, hm]; rfl

/-- The filtered path delay after an exchange (R46). -/
def delayFiltered (s : State) (raw : Int) : Int :=
  match s.servo.mpd with
  | none => raw
  | some m => m + (raw - m) / 2 ^ s.get ALM_PD_SHIFT

/-- A completed exchange takes its request from those in progress and moves the filtered delay (R46). -/
theorem delayExchange_completes {s : State} {sub dom tr seq : Nat} {t4 c t3 ms : Int} (hr : ptpReady s sub = true)
    (hm : ptpMine s dom tr = true) (hf : s.servo.reqs.find? (fun r => r.1 == seq) = some (seq, t3))
    (hl : s.servo.lastMs = some ms) : delayExchange s sub dom tr seq t4 c =
    (s.withServo { s.servo with
      mpd := some (delayFiltered s ((ms + (t4 - t3 - c)).tdiv 2)), reqs := s.servo.reqs.filter (fun r => r.1 != seq) }).setS
        ALM_PATH_DELAY ((delayFiltered s ((ms + (t4 - t3 - c)).tdiv 2)).tdiv 256) := by
  simp only [delayExchange, hr, hm, Bool.and_self, if_true, hf, hl, Option.map_some, delayFiltered, State.withServo] <;> rfl

/-- The state with QUALIFIED shown and followed by the time PLL (R49). -/
def synceTurned (s : State) (v : Word) : State :=
  (s.set ALM_STATUS.SYNCE_QUALIFIED (getBits v 7 1)).withServo { s.servo with
    pllSynce := decide (getBits v 7 1 = 1)
    squelched := s.servo.squelched && decide (getBits (rdReg s 0x20098) 0 5 = getBits v 0 5) }

/-- The state with `ALM_SYNCE_CTRL` written (R49). -/
def synceStored (s : State) (v : Word) : State :=
  (((synceTurned s v).set ALM_SYNCE_CTRL.QUALIFIED (getBits v 7 1)).set ALM_SYNCE_CTRL.PORT (getBits v 2 3)).set
    ALM_SYNCE_CTRL.LANE (getBits v 0 2)

section
variable {s : State} (v : Word)

/-- Outside holdover no time is split: the write is stored and the time PLL follows it. -/
theorem writeSynce_eq (hs : s.sound) (ht : timeState s < Ts.holdover) : writeSynce s v = synceStored s v := by
  have h3 : ¬ (timeState s = Ts.holdover ∨ timeState s = Ts.expired) := by
    simp only [Ts.holdover, Ts.expired] at ht ⊢
    omega
  have hturn : synceTurn s v = synceTurned s v := by
    simp only [synceTurn, if_neg h3, State.set_servo, synceTurned, State.withServo]
  rw [writeSynce, hturn]
  exact rewritten_sound (synceStored s v) _ (by simpa [State.sound, synceStored, synceTurned] using hs)

theorem synceStored_regsBut : regsBut [ALM_SYNCE_CTRL.W.off, ALM_STATUS.W.off] s (synceStored s v) := by
  unfold synceStored synceTurned
  exact regsBut_trans (regsBut_trans (regsBut_trans (regsBut_trans
    (set_regsBut_mem s ALM_STATUS.SYNCE_QUALIFIED _ 0 0 (by decide)) (withServo_regsBut _ _ _))
    (set_regsBut_mem _ ALM_SYNCE_CTRL.QUALIFIED _ 0 0 (by decide)))
    (set_regsBut_mem _ ALM_SYNCE_CTRL.PORT _ 0 0 (by decide))) (set_regsBut_mem _ ALM_SYNCE_CTRL.LANE _ 0 0 (by decide))

theorem synceStored_servo : (synceStored s v).servo.pllSynce = decide (getBits v 7 1 = 1) := by
  simp [synceStored, synceTurned]

theorem synceStored_get (hb : s.behaveReset = []) : (synceStored s v).get ALM_SYNCE_CTRL.QUALIFIED = getBits v 7 1 ∧
    (synceStored s v).get ALM_STATUS.SYNCE_QUALIFIED = getBits v 7 1 := by
  have hq : getBits v 7 1 < 2 ^ 1 := getBits_lt v 7 1
  simp [synceStored, synceTurned, get_set_apart, get_set_self, hb, Fld.addr]
  omega

end

/-- Settles O8: a sample of either source is taken as the time state says, and each of the other updates is the model's one. -/
theorem almanacSamples : Obligations.AlmanacSamples := by
  refine ⟨fun s sub dom tr sq q t1 c mpd e hs hr hm hd he ht => ⟨fun hle => ?_, fun hlt hrun => ?_⟩,
    fun s sub dom tr sq q t1 c mpd e hs hr hm hd he ht hlt hrun => ?_,
    fun s q m e hs hr hsrc ht hm he hle => ?_, fun s sub dom tr seq t4 c t3 ms hs hr hm hf hl => ?_,
    fun s v hs ht => ?_, fun s => rfl⟩
  · refine acts_of_exec (exec_syncReceived s sub dom tr sq q t1 c) ?_
    obtain ⟨hsum, hsumY⟩ := syncNoted_sums s t1 c q e
    obtain ⟨hinteg, hy, hlast, hn, hincr⟩ := takeSample_feeds ((syncNoted_timeState s t1 c q).trans ht)
      (hle.trans_eq (syncNoted_thresh s t1 c q ALM_OUTLIER).symm)
    rw [syncSample_takes hr hm hd he, hinteg, hy, hlast, hn, hincr, hsum, hsumY, syncNoted_clk, syncNoted_clampIncr]
    exact ⟨rfl, rfl, rfl, rfl, rfl⟩
  · refine acts_of_exec (exec_syncReceived s sub dom tr sq q t1 c) ?_
    obtain ⟨hclk, hservo, htime, hcount⟩ := takeSample_counts ((syncNoted_behaveReset s t1 c q).trans hs.1)
      ((syncNoted_timeState s t1 c q).trans ht) (hlt.trans_eq' (syncNoted_thresh s t1 c q ALM_OUTLIER))
      (by rw [syncNoted_servo]; exact hrun)
    rw [syncSample_takes hr hm hd he, hclk, hservo, htime, hcount, syncNoted_clk, syncNoted_servo, syncNoted_get]
    exact ⟨rfl, rfl, rfl, rfl, rfl⟩
  · refine acts_of_exec (exec_syncReceived s sub dom tr sq q t1 c) ?_
    obtain ⟨hstep, hinteg, hn, htime⟩ := takeSample_waits ((syncNoted_timeState s t1 c q).trans ht)
      (hlt.trans_eq' (syncNoted_thresh s t1 c q ALM_STEP_THRESH))
      (by rw [syncNoted_servo, syncNoted_get]; exact hrun)
    rw [syncSample_takes hr hm hd he, hstep, hinteg, hn, htime, syncNoted_clk, syncNoted_servo]
    exact ⟨rfl, rfl, rfl, rfl⟩
  · refine acts_of_exec (exec_ppsEdge s q) ?_
    obtain ⟨hinteg, -, hlast, hn, -⟩ := takeSample_feeds ht hle
    rw [ppsSample_takes hr hsrc hm he]
    exact ⟨hinteg, hlast, hn⟩
  · refine acts_of_exec (exec_delayRespReceived s sub dom tr seq t4 c) ?_
    rw [delayExchange_completes hr hm hf hl, State.setS_clk, State.setS_servo, withServo_clk, withServo_servo]
    exact ⟨rfl, rfl, rfl⟩
  · refine acts_of_exec (exec_synceQualifiedWrite s v) ?_
    obtain ⟨hctrl, hstat⟩ := synceStored_get v hs.1
    rw [writeSynce_eq v hs ht, synceStored_servo, decide_eq_true_iff]
    exact ⟨hctrl, hstat, Iff.rfl, synceStored_regsBut v⟩

end Sys2Proof.Machine
end

section
/-! PROOFS. The Calendar: arming and the writes of a bank, its starts, stops and swaps, the entries of a table, the token
buckets (03_calendar.md). -/

namespace Sys2Proof.Machine

/-! ## The Calendar's sequencer replaced, and the bits of its status -/

/-- The state with another sequencer. -/
def State.withCal (s : State) (c : CalSeq) : State := { s with cal := c }

section
variable (s : State) (c : CalSeq)

@[simp] theorem withCal_cal : (s.withCal c).cal = c := by unfold State.withCal; rfl
@[simp] theorem withCal_withCal (d : CalSeq) : (s.withCal c).withCal d = s.withCal d := by unfold State.withCal; rfl
@[simp] theorem withCal_clk : (s.withCal c).clk = s.clk := by unfold State.withCal; rfl
@[simp] theorem withCal_winPend : (s.withCal c).winPend = s.winPend := by unfold State.withCal; rfl
@[simp] theorem withCal_behaveReset : (s.withCal c).behaveReset = s.behaveReset := by unfold State.withCal; rfl
@[simp] theorem withCal_rdReg (o : Nat) : rdReg (s.withCal c) o = rdReg s o := rdReg_congr rfl rfl o
@[simp] theorem withCal_get (f : Fld) (i k : Nat) : (s.withCal c).get f i k = s.get f i k := get_congr rfl rfl f i k

theorem withCal_regsBut (l : List Nat) : regsBut l s (s.withCal c) := fun o _ => withCal_rdReg s c o

end

theorem bit_of_get_one {s : State} {f : Fld} (h : s.get f = 1) : s.bit f = true := by simp [State.bit, h]

theorem bit_of_get_zero {s : State} {f : Fld} (h : s.get f = 0) : s.bit f = false := by simp [State.bit, h]

/-! ## Arming (R74) -/

theorem calArm_takes {s : State} {x : Nat} (h : s.get CAL_STATUS.ARMING = 0) : calArm s x =
    (s.set CAL_STATUS.ARMING 1).withCal
      { s.cal with armBank := x, armCode := (armCheck s x).1, armIdx := (armCheck s x).2 } := by
  unfold calArm State.withCal
  rw [bit_of_get_zero h]
  rfl

theorem calArm_refused {s : State} {x : Nat} (h : s.get CAL_STATUS.ARMING = 1) :
    calArm s x = s.set CAL_STATUS.BANK_WRITE_REJECT 1 := if_pos (bit_of_get_one h)

/-- A length outside 1 to 1,024 is the first fault that the checks find. -/
theorem armCheck_length {s : State} {x : Nat} (h : s.get CAL_BANK_LEN x = 0 ∨ 1024 < s.get CAL_BANK_LEN x) :
    armCheck s x = (Code.badArgument, none) := if_pos h

/-- `CAL_ARM_RESULT` alone takes the code and the entry. -/
theorem armResult_eq (s : State) (c : Nat) (i : Option Nat) : armResult s c i =
    ((s.set CAL_ARM_RESULT.CODE c).set CAL_ARM_RESULT.INDEX_VALID (if i.isSome then 1 else 0)).set
      CAL_ARM_RESULT.INDEX (i.getD 0) := by cases i <;> rfl

section
variable (s : State) (c : Nat) (i : Option Nat)

theorem armResult_cal : (armResult s c i).cal = s.cal := by simp [armResult_eq]
theorem armResult_behaveReset : (armResult s c i).behaveReset = s.behaveReset := by simp [armResult_eq]

theorem armResult_regsBut : regsBut [CAL_ARM_RESULT.W.off] s (armResult s c i) := by
  rw [armResult_eq]
  exact regsBut_trans (regsBut_trans (set_regsBut_mem s CAL_ARM_RESULT.CODE _ 0 0 (by decide))
    (set_regsBut_mem _ CAL_ARM_RESULT.INDEX_VALID _ 0 0 (by decide))) (set_regsBut_mem _ CAL_ARM_RESULT.INDEX _ 0 0 (by decide))

theorem armResult_get_other (f : Fld) (h : f.addr ≠ CAL_ARM_RESULT.W.off) : (armResult s c i).get f = s.get f := by
  unfold State.get; rw [armResult_regsBut s c i _ (by simpa using h)]

theorem armResult_get (hb : s.behaveReset = []) (hc : c < 256) (hi : ∀ e, i = some e → e < 1024) :
    (armResult s c i).get CAL_ARM_RESULT.CODE = c ∧
      (armResult s c i).get CAL_ARM_RESULT.INDEX_VALID = (if i.isSome then 1 else 0) ∧
      (armResult s c i).get CAL_ARM_RESULT.INDEX = i.getD 0 := by
  have hlt : i.getD 0 < 1024 := by
    cases i with
    | none => decide
    | some e => exact hi e rfl
  rw [armResult_eq]
  refine ⟨?_, ?_, ?_⟩
  · simpa [get_set_apart, get_set_self, hb, Fld.addr] using hc
  · cases i <;> simp [get_set_apart, get_set_self, hb, Fld.addr]
  · simpa [get_set_self, hb] using hlt

end

/-- The state once the checks have ended: the result stands, and ARMING is clear. -/
def armEnded (s : State) (c : Nat) (i : Option Nat) : State := armResult (s.set CAL_STATUS.ARMING 0) c i

section
variable (s : State) (c : Nat) (i : Option Nat)

theorem armEnded_cal : (armEnded s c i).cal = s.cal := by rw [armEnded, armResult_cal, State.set_cal]
theorem armEnded_behaveReset : (armEnded s c i).behaveReset = s.behaveReset := by
  rw [armEnded, armResult_behaveReset, State.set_behaveReset]

theorem armEnded_regsBut : regsBut [CAL_STATUS.W.off, CAL_ARM_RESULT.W.off] s (armEnded s c i) :=
  regsBut_trans (set_regsBut_mem s CAL_STATUS.ARMING 0 0 0 (by decide))
    (regsBut_mono (armResult_regsBut _ c i) (by simp))

theorem armEnded_status (hb : s.behaveReset = []) : (armEnded s c i).get CAL_STATUS.ARMING = 0 ∧
    (armEnded s c i).get CAL_STATUS.PENDING = s.get CAL_STATUS.PENDING := by
  unfold armEnded
  rw [armResult_get_other _ c i _ (by decide), armResult_get_other _ c i _ (by decide)]
  simp [get_set_apart, get_set_self, hb, Fld.addr]

theorem armEnded_result (hb : s.behaveReset = []) (hc : c < 256) (hi : ∀ e, i = some e → e < 1024) :
    (armEnded s c i).get CAL_ARM_RESULT.CODE = c ∧
      (armEnded s c i).get CAL_ARM_RESULT.INDEX_VALID = (if i.isSome then 1 else 0) ∧
      (armEnded s c i).get CAL_ARM_RESULT.INDEX = i.getD 0 :=
  armResult_get _ c i (by simpa using hb) hc hi

end

/-- S fixed, or not (R76). -/
theorem fixSwap_eq (s : State) (m : Nat) : fixSwap s m = s.withCal { s.cal with
    swapAt := some (cycleAt s s.cal.pendBank (max m (max (nowN s) (switchTime s)))) } := rfl

theorem armDone_fails {s : State} (ha : s.get CAL_STATUS.ARMING = 1) (hc : s.cal.armCode ≠ Code.done) :
    armDone s = armEnded s s.cal.armCode s.cal.armIdx := by
  unfold armDone armEnded
  rw [if_pos (bit_of_get_one ha)]
  simp only [armResult_cal, State.set_cal, hc, if_false]

/-- On success the bank is pending; only S, of which nothing is said here, depends on the Calendar's state (R74, R76). -/
theorem armDone_succeeds {s : State} (ha : s.get CAL_STATUS.ARMING = 1) (hc : s.cal.armCode = Code.done) :
    ∃ S, armDone s = ((armEnded s s.cal.armCode s.cal.armIdx).set CAL_STATUS.PENDING 1).withCal
      { s.cal with pendBank := s.cal.armBank, swapAt := S } := by
  unfold armDone armEnded
  rw [if_pos (bit_of_get_one ha)]
  simp only [armResult_cal, State.set_cal, hc, if_true]
  split
  · exact ⟨_, rfl⟩
  · exact ⟨_, rfl⟩

/-! ## Disarming (R74, R75, R79) -/

theorem calDisarm_arming {s : State} (ha : s.get CAL_STATUS.ARMING = 1) :
    calDisarm s = armEnded s Code.stateConflict none := if_pos (bit_of_get_one ha)

/-- The state with the pending bank back in standby. -/
def unpended (s : State) : State := (s.set CAL_STATUS.PENDING 0).withCal { s.cal with swapAt := none }

theorem calDisarm_pending {s : State} (ha : s.get CAL_STATUS.ARMING = 0) (hp : s.get CAL_STATUS.PENDING = 1) :
    calDisarm s = if fnState (unpended s) calFn = Fn.starting then setFnState (unpended s) calFn Fn.stopped else unpended s := by
  unfold calDisarm
  rw [if_neg (by simp [bit_of_get_zero ha]), if_pos (bit_of_get_one hp)]
  rfl

theorem calDisarm_nothing {s : State} (ha : s.get CAL_STATUS.ARMING = 0) (hp : s.get CAL_STATUS.PENDING = 0) :
    calDisarm s = s := by
  unfold calDisarm
  rw [if_neg (by simp [bit_of_get_zero ha]), if_neg (by simp [bit_of_get_zero hp])]

theorem unpended_regsBut (s : State) : regsBut [CAL_STATUS.W.off] s (unpended s) :=
  regsBut_trans (set_regsBut_mem s CAL_STATUS.PENDING 0 0 0 (by decide)) (withCal_regsBut _ _ _)

theorem fnState_unpended {s : State} (hb : s.behaveReset = []) : fnState (unpended s) calFn = fnState s calFn := by
  simp [unpended, fnState_eq, get_set_apart, hb, Fld.addr]

theorem setFnState_calFn_regsBut (s : State) (v : Nat) : regsBut [CAL_STATUS.W.off] s (setFnState s calFn v) := by
  rw [setFnState_eq]; exact set_regsBut_mem s _ v 0 0 (by decide)

/-- Whatever the Calendar's state, a pending bank returns to standby and S lapses. -/
theorem calDisarm_unpends {s : State} (hb : s.behaveReset = []) (ha : s.get CAL_STATUS.ARMING = 0)
    (hp : s.get CAL_STATUS.PENDING = 1) :
    (calDisarm s).get CAL_STATUS.PENDING = 0 ∧ (calDisarm s).cal.swapAt = none ∧
      fnState (calDisarm s) calFn = (if fnState s calFn = Fn.starting then Fn.stopped else fnState s calFn) ∧
      regsBut [CAL_STATUS.W.off] s (calDisarm s) := by
  rw [calDisarm_pending ha hp, fnState_unpended hb]
  split
  · refine ⟨?_, by simp [unpended], ?_, regsBut_trans (unpended_regsBut s) (setFnState_calFn_regsBut _ _)⟩
    · simp [unpended, setFnState_eq, get_set_apart, get_set_self, hb, Fld.addr]
    · simp [unpended, setFnState_eq, fnState_eq, get_set_self, hb]
  · exact ⟨by simp [unpended, get_set_self, hb], by simp [unpended], fnState_unpended hb, unpended_regsBut s⟩

theorem calDisarm_regsBut {s : State} (hb : s.behaveReset = []) :
    regsBut [CAL_STATUS.W.off, CAL_ARM_RESULT.W.off] s (calDisarm s) := by
  rcases get_one s CAL_STATUS.ARMING 0 0 rfl with ha | ha
  · rcases get_one s CAL_STATUS.PENDING 0 0 rfl with hp | hp
    · rw [calDisarm_nothing ha hp]; exact fun _ _ => rfl
    · obtain ⟨-, -, -, hregs⟩ := calDisarm_unpends hb ha hp
      exact regsBut_mono hregs (by simp)
  · rw [calDisarm_arming ha]; exact armEnded_regsBut s _ _

/-! ## Writes of a bank (R75) -/

theorem bankWrite_eq {s : State} {o x : Nat} {r : RegRow} {i k : Nat} (v : Word) (ho : bankOfOff o = some x)
    (hr : regAt o = some (r, i, k)) : bankWrite s o v =
      if bankLocked s x then s.set CAL_STATUS.BANK_WRITE_REJECT 1
      else rewritten (wrReg s o (v &&& BitVec.ofNat 32 (writableBits r))) o := by simp only [bankWrite, ho, hr]

/-! ## The commands -/

theorem exec_calArm (s : State) (b : Bool) : exec (.calArm b) s = .next (calArm s (bankNo b)) := rfl
theorem exec_armDone (s : State) : exec .armDone s = .next (armDone s) := rfl
theorem exec_calDisarm (s : State) : exec .calDisarm s = .next (calDisarm s) := rfl
theorem exec_bankWrite (s : State) (o : Nat) (v : Word) : exec (.bankWrite o v) s = .next (bankWrite s o v) := rfl

/-- Settles O11: each command is one case of ARMING, of PENDING or of the lock of a bank, and writes the registers it names. -/
theorem calendarArming : Obligations.CalendarArming := by
  refine ⟨fun s b hs ha => ?_, fun s b hs ha => ?_, fun s hs ha hc hi => ?_, fun s hs => ?_,
    fun s o x v r i k hs ho hr => ⟨fun hl => ?_, fun hl => ?_⟩⟩
  · refine acts_of_exec (exec_calArm s b) ?_
    rw [calArm_takes ha]
    refine ⟨?_, ?_, by simp, by simp, fun hlen => ?_,
      regsBut_trans (set_regsBut_mem s CAL_STATUS.ARMING 1 0 0 (by decide)) (withCal_regsBut _ _ _)⟩
    · simp [get_set_self, hs.1]
    · simp [get_set_apart, hs.1, Fld.addr]
    · simp [armCheck_length hlen]
  · refine acts_of_exec (exec_calArm s b) ?_
    rw [calArm_refused ha]
    refine ⟨?_, ?_, State.set_cal .., set_regsBut_mem s CAL_STATUS.BANK_WRITE_REJECT 1 0 0 (by decide)⟩
    · simp [get_set_self, hs.1]
    · simpa [get_set_apart, hs.1, Fld.addr] using ha
  · refine acts_of_exec (exec_armDone s) ?_
    obtain ⟨harm, hpend⟩ := armEnded_status s s.cal.armCode s.cal.armIdx hs.1
    obtain ⟨hcode, hvalid, hidx⟩ := armEnded_result s s.cal.armCode s.cal.armIdx hs.1 hc hi
    have hregs := armEnded_regsBut s s.cal.armCode s.cal.armIdx
    have hb := (armEnded_behaveReset s s.cal.armCode s.cal.armIdx).trans hs.1
    by_cases hdone : s.cal.armCode = Code.done
    · obtain ⟨S, hS⟩ := armDone_succeeds ha hdone
      rw [hS]
      refine ⟨?_, ?_, ?_, ?_, fun _ => ⟨?_, by simp⟩, fun h => absurd hdone h,
        regsBut_trans hregs (regsBut_trans (set_regsBut_mem _ CAL_STATUS.PENDING 1 0 0 (by decide)) (withCal_regsBut _ _ _))⟩
      · simpa [get_set_apart, hb, Fld.addr] using harm
      · simpa [get_set_apart, hb, Fld.addr] using hcode
      · simpa [get_set_apart, hb, Fld.addr] using hvalid
      · simpa [get_set_apart, hb, Fld.addr] using hidx
      · simp [get_set_self, hb]
    · rw [armDone_fails ha hdone]
      exact ⟨harm, hcode, hvalid, hidx, fun h => absurd h hdone, fun _ => ⟨hpend, armEnded_cal s _ _⟩, hregs⟩
  · refine acts_of_exec (exec_calDisarm s) ⟨fun ha => ?_, fun ha hp => ?_, calDisarm_regsBut hs.1⟩
    · rw [calDisarm_arming ha]
      obtain ⟨harm, hpend⟩ := armEnded_status s Code.stateConflict none hs.1
      obtain ⟨hcode, hvalid, -⟩ := armEnded_result s Code.stateConflict none hs.1 (by decide) (by simp)
      exact ⟨harm, hcode, hvalid, hpend, armEnded_cal s _ _⟩
    · obtain ⟨hpend, hswap, hst, -⟩ := calDisarm_unpends hs.1 ha hp
      exact ⟨hpend, hswap, hst⟩
  · refine acts_of_exec (exec_bankWrite s o v) ?_
    rw [bankWrite_eq v ho hr, hl, if_neg (by simp), rewritten_sound _ _ (by simpa [State.sound] using hs)]
    obtain ⟨hread, hregs⟩ := wrReg_took s o (v &&& BitVec.ofNat 32 (writableBits r)) hs.1
    exact ⟨hread, hregs, wrReg_cal ..⟩
  · refine acts_of_exec (exec_bankWrite s o v) ?_
    rw [bankWrite_eq v ho hr, hl, if_pos rfl]
    exact ⟨get_set_self s CAL_STATUS.BANK_WRITE_REJECT 1 0 0 hs.1 (by decide),
      set_regsBut_mem s CAL_STATUS.BANK_WRITE_REJECT 1 0 0 (by decide), State.set_cal ..⟩

/-! ## What a state agrees on with another that differs in a few registers -/

theorem get_of_regsBut {l : List Nat} {s t : State} (h : regsBut l s t) (f : Fld) (i k : Nat) (hf : f.addr i k ∉ l) :
    t.get f i k = s.get f i k := by
  unfold State.get; rw [h _ hf]

section
variable {l : List Nat} {s t : State} (h : regsBut l s t) (hl : ∀ o ∈ l, o < CAL_BANK_LEN.off)
include h hl

/-- A register of a bank is above the Calendar's own. -/
theorem bankReg_of_regsBut (f : Fld) (hf : CAL_BANK_LEN.off ≤ f.off) (x k : Nat) : t.get f x k = s.get f x k :=
  get_of_regsBut h f x k fun hm => absurd (hl _ hm) (by unfold Fld.addr; omega)

theorem bankCycle_of_regsBut (x : Nat) : bankCycle t x = bankCycle s x := by
  unfold bankCycle; rw [bankReg_of_regsBut h hl CAL_BANK_CYCLE (by decide)]

theorem bankBase_of_regsBut (x : Nat) : bankBase t x = bankBase s x := by
  unfold bankBase
  rw [bankReg_of_regsBut h hl CAL_BANK_BASE_NS (by decide), bankReg_of_regsBut h hl CAL_BANK_BASE_SL (by decide),
    bankReg_of_regsBut h hl CAL_BANK_BASE_SH (by decide)]

end

theorem maintLeft_congr {s t : State} (hk : t.cores = s.cores) (hx : t.ctxs = s.ctxs) (hc : t.clk = s.clk) :
    maintLeft t = maintLeft s := by
  unfold maintLeft ctxAt nowNs; rw [hk, hx, hc]

/-! ## The cycle starts of a bank (R72, R76) -/

theorem bankCycle_pos (s : State) (x : Nat) : 0 < bankCycle s x := Nat.lt_of_lt_of_le Nat.one_pos (Nat.le_max_right _ _)

/-- The position of a time is its distance from the last cycle start. -/
theorem posOf_cast (s : State) (x m : Nat) : (posOf s x m : Int) = ((m : Int) - bankBase s x) % bankCycle s x :=
  Int.toNat_of_nonneg (Int.emod_nonneg _ (by have := bankCycle_pos s x; omega))

theorem posOf_lt (s : State) (x m : Nat) : posOf s x m < bankCycle s x := by
  have h : (posOf s x m : Int) < bankCycle s x := by
    rw [posOf_cast]; exact Int.emod_lt_of_pos _ (by have := bankCycle_pos s x; omega)
  omega

/-- The first cycle start at or after a time is on the bank's grid, less than a cycle away. -/
theorem cycleAt_spec (s : State) (x m : Nat) : m ≤ cycleAt s x m ∧
    ((cycleAt s x m : Int) - bankBase s x) % bankCycle s x = 0 ∧ cycleAt s x m < m + bankCycle s x := by
  have hpos := bankCycle_pos s x
  have hcast := posOf_cast s x m
  have hlt := posOf_lt s x m
  unfold cycleAt
  dsimp only
  split
  · next h0 =>
    rw [h0] at hcast
    exact ⟨Nat.le_refl m, hcast.symm, by omega⟩
  · next h0 =>
    refine ⟨by omega, Int.emod_eq_zero_of_dvd ?_, by omega⟩
    have hdvd : (bankCycle s x : Int) ∣ ((m : Int) - bankBase s x) - posOf s x m := by
      rw [hcast]; exact Int.dvd_self_sub_emod
    have hsum : ((m + (bankCycle s x - posOf s x m) : Nat) : Int) - bankBase s x =
        (((m : Int) - bankBase s x) - posOf s x m) + bankCycle s x := by
      rw [Nat.cast_add, Nat.cast_sub (Nat.le_of_lt hlt)]; ring
    rw [hsum]
    exact Int.dvd_add hdvd (Int.dvd_refl _)

/-! ## START and STOP (R79) -/

/-- START clears the count of late HARD openings. -/
def lateCleared (s : State) : State := s.set CAL_HARD_LATE_COUNT 0

/-- The state of a Calendar that START makes STARTING, before S is fixed. -/
def calStarting (s : State) : State := setFnState (setFnCode (lateCleared s) calFn Code.done) calFn Fn.starting

/-- What START of a STOPPED Calendar does, by the mismatch and the pending bank that it finds. -/
theorem calStart_eq {s : State} (hf : fnState s calFn = Fn.stopped) : calStart s =
    if parityHeld (lateCleared s) calFn then faultFn (lateCleared s) calFn Code.configParity
    else if (lateCleared s).bit CAL_STATUS.PENDING then
      let t := fixSwap (calStarting s) (nowN (lateCleared s) + maintLeft (lateCleared s))
      t.withCal { t.cal with resync := false }
    else faultFn (lateCleared s) calFn Code.stateConflict := if_pos hf

theorem lateCleared_parityHeld {s : State} (hu : s.upset = []) : parityHeld (lateCleared s) calFn = false :=
  parityHeld_sound _ _ (by simpa [lateCleared] using hu)

section
variable {s : State} (hu : s.upset = []) (hf : fnState s calFn = Fn.stopped)
include hu hf

theorem calStart_pending (hp : (lateCleared s).get CAL_STATUS.PENDING = 1) : calStart s = (calStarting s).withCal { s.cal with
      swapAt := some (cycleAt (calStarting s) s.cal.pendBank
        (max (nowN s + maintLeft s) (max (nowN s) (switchTime (calStarting s)))))
      resync := false } := by
  have hcal : (calStarting s).cal = s.cal := by simp [calStarting, lateCleared]
  have hnow : nowN (calStarting s) = nowN s := by simp [nowN, calStarting, lateCleared]
  have hnow' : nowN (lateCleared s) = nowN s := nowN_set ..
  have hmaint : maintLeft (lateCleared s) = maintLeft s :=
    maintLeft_congr (State.set_cores ..) (State.set_ctxs ..) (State.set_clk ..)
  rw [calStart_eq hf, if_neg (by simp [lateCleared_parityHeld hu]), if_pos (bit_of_get_one hp), hnow', hmaint]
  simp only [fixSwap_eq, withCal_cal, withCal_withCal, hcal, hnow]

theorem calStart_nothing (hp : (lateCleared s).get CAL_STATUS.PENDING = 0) :
    calStart s = faultFn (lateCleared s) calFn Code.stateConflict := by
  rw [calStart_eq hf, if_neg (by simp [lateCleared_parityHeld hu]), if_neg (by simp [bit_of_get_zero hp])]

end

theorem lateCleared_pending (s : State) : (lateCleared s).get CAL_STATUS.PENDING = s.get CAL_STATUS.PENDING :=
  get_set_reg _ _ _ _ _ _ _ _ (by decide)

theorem calStarting_regsBut (s : State) : regsBut [CAL_STATUS.W.off, CAL_HARD_LATE_COUNT.off] s (calStarting s) := by
  unfold calStarting lateCleared
  rw [setFnState_eq, setFnCode_eq]
  exact regsBut_trans (regsBut_trans (set_regsBut_mem s CAL_HARD_LATE_COUNT 0 0 0 (by decide))
    (set_regsBut_mem _ _ _ 0 0 (by decide))) (set_regsBut_mem _ _ _ 0 0 (by decide))

theorem switchTime_calStarting (s : State) : switchTime (calStarting s) = switchTime s := by
  have hget (f : Fld) (h : f.addr ∉ [CAL_STATUS.W.off, CAL_HARD_LATE_COUNT.off]) : (calStarting s).get f = s.get f :=
    get_of_regsBut (calStarting_regsBut s) f 0 0 h
  unfold switchTime
  rw [hget _ (by decide), hget _ (by decide), hget _ (by decide)]

theorem calStarting_status {s : State} (hb : s.behaveReset = []) : fnState (calStarting s) calFn = Fn.starting ∧
    (calStarting s).get CAL_STATUS.PENDING = s.get CAL_STATUS.PENDING := by
  simp [calStarting, lateCleared, fnState_eq, setFnState_eq, setFnCode_eq, get_set_apart, get_set_self, hb, Fld.addr]
  decide

theorem calStop_refused {s : State} (hf : fnState s calFn = Fn.running) (hc : anyCellRunning s = true) :
    calStop s = s.set CAL_STATUS.STOP_REJECT 1 := by
  unfold calStop; dsimp only; rw [if_pos hf, if_pos hc]

theorem calStop_stops {s : State} (hf : fnState s calFn = Fn.running) (hc : anyCellRunning s = false) :
    calStop s = (setFnState s calFn Fn.stopping).withCal { s.cal with swapAt := none } := by
  unfold calStop; dsimp only; rw [if_pos hf, hc, if_neg (by simp)]; rfl

/-! ## A cycle start with no power measured and no write waiting (R72, R77, R80) -/

/-- No cycle is being measured, and no write or window commit waits for a cycle start. -/
def quiet (s : State) : Prop := s.cal.deferred = [] ∧ s.winPend = [] ∧ s.cal.measuring = false

theorem applyDeferred_nothing {s : State} (hd : s.cal.deferred = []) (hw : s.winPend = []) :
    applyDeferred s = settleAllot s := by
  have hsame : ({ s with cal := { s.cal with deferred := [] }, winPend := [] } : State) = s := by rw [← hd, ← hw]
  unfold applyDeferred
  rw [hsame, hd, hw]
  rfl

theorem settleAllot_only (s : State) : Keeps 10240 s (settleAllot s) := settleAllot_keeps (by decide) s (Keeps.refl _ s)

/-- The state after a quiet cycle start, the sequencer apart. -/
def cycleCounted (s : State) : State := settleAllot (s.bump CAL_CYCLE_COUNT)

theorem cycleStart_quiet {s : State} (power : Nat) (h : quiet s) : ∃ e m, cycleStart s power =
    (cycleCounted s).withCal { s.cal with measuring := true, cycEn := e, cycMin := m } := by
  obtain ⟨hd, hw, hm⟩ := h
  have hcal : (cycleCounted s).cal = s.cal := ((settleAllot_only _).2 .cal (by decide)).trans (State.bump_cal ..)
  have hdef : applyDeferred (s.bump CAL_CYCLE_COUNT) = cycleCounted s :=
    applyDeferred_nothing (by simpa using hd) (by simpa using hw)
  refine ⟨(cycleCounted s).bit CAL_GOV_CTRL.EN, decide (dutyNow (cycleCounted s) = minDuty (cycleCounted s)), ?_⟩
  unfold cycleStart State.withCal
  dsimp only
  rw [if_neg (by simp [hm]), hdef, hcal]

/-- A quiet cycle start shows in the count of cycles alone, and leaves the clock and S. -/
theorem cycleStart_leaves {s : State} (power : Nat) (h : quiet s) (hb : s.behaveReset = []) :
    (cycleStart s power).get CAL_CYCLE_COUNT = (s.get CAL_CYCLE_COUNT + 1) % 2 ^ 32 ∧
      regsBut [CAL_CYCLE_COUNT.off] s (cycleStart s power) ∧ (cycleStart s power).cal.swapAt = s.cal.swapAt := by
  obtain ⟨e, m, heq⟩ := cycleStart_quiet power h
  have hreg (o : Nat) : rdReg (cycleCounted s) o = rdReg (s.bump CAL_CYCLE_COUNT) o :=
    rdReg_congr ((settleAllot_only _).2 .regs (by decide)) ((settleAllot_only _).2 .behaveReset (by decide)) o
  rw [heq, withCal_get, withCal_cal]
  refine ⟨?_, fun o ho => ?_, rfl⟩
  · unfold State.get
    rw [hreg]
    exact get_set_self s CAL_CYCLE_COUNT _ 0 0 hb (by decide)
  · rw [withCal_rdReg, hreg]
    exact set_regsBut_mem s CAL_CYCLE_COUNT _ 0 0 (by decide) o ho

/-! ## A table's state applied (R72) -/

/-- An operation that leaves S as it is. -/
def KeepsSwap (f : State → State) : Prop := ∀ s, (f s).cal.swapAt = s.cal.swapAt

theorem KeepsSwap.forEach {α : Type} {f : State → α → State} (h : ∀ a, KeepsSwap (f · a)) (l : List α) :
    KeepsSwap (forEach l f) :=
  fun s => List.foldlRecOn (motive := fun t => t.cal.swapAt = s.cal.swapAt) l f rfl (fun t ht a _ => (h a t).trans ht)

theorem setGate_keepsSwap (n g : Nat) (force : Bool) : KeepsSwap (setGate · n g force) := by
  intro s
  unfold setGate
  dsimp only
  split <;> rfl

theorem applyAt_swapAt (s : State) (p a : Nat) (start force : Bool) : (applyAt s p a start force).cal.swapAt = s.cal.swapAt := by
  unfold applyAt
  refine (KeepsSwap.forEach (fun n t => ?_) _ _).trans ((KeepsSwap.forEach (fun n t => ?_) _ _).trans rfl)
  · dsimp only
    split <;> rfl
  · exact setGate_keepsSwap _ _ _ t

theorem applyAt_only (s : State) (p a : Nat) (start force : Bool) : Keeps 512 s (applyAt s p a start force) :=
  applyAt_keeps (by decide) s p a start force (Keeps.refl _ s)

theorem applyAt_regsBut (l : List Nat) (s : State) (p a : Nat) (start force : Bool) :
    regsBut l s (applyAt s p a start force) := fun o _ =>
  rdReg_congr ((applyAt_only s p a start force).2 .regs (by decide)) ((applyAt_only s p a start force).2 .behaveReset (by decide)) o

/-- A table applied at a quiet cycle start: of the registers the count of cycles alone moves. -/
theorem cycleApplied (s : State) (p a power : Nat) (start force : Bool) (h : quiet s) (hb : s.behaveReset = []) :
    (applyAt (cycleStart s power) p a start force).get CAL_CYCLE_COUNT = (s.get CAL_CYCLE_COUNT + 1) % 2 ^ 32 ∧
      regsBut [CAL_CYCLE_COUNT.off] s (applyAt (cycleStart s power) p a start force) ∧
      (applyAt (cycleStart s power) p a start force).cal.swapAt = s.cal.swapAt := by
  obtain ⟨hcount, hregs, hswap⟩ := cycleStart_leaves power h hb
  refine ⟨(get_of_regsBut (applyAt_regsBut [] _ _ _ _ _) _ 0 0 (by simp)).trans hcount,
    regsBut_trans hregs (applyAt_regsBut _ _ _ _ _ _), (applyAt_swapAt _ _ _ _ _).trans hswap⟩

/-- A table applied at a swap, which begins a cycle where its position is 0. -/
theorem swapApplied (s : State) (p a power : Nat) (start : Bool) (h : quiet s) (hb : s.behaveReset = []) :
    regsBut [CAL_CYCLE_COUNT.off] s (applyAt (if p = 0 then cycleStart s power else s) p a start true) := by
  split
  · obtain ⟨-, hregs, -⟩ := cycleApplied s p a power start true h hb
    exact hregs
  · exact applyAt_regsBut _ _ _ _ _ _

/-! ## The pending bank taken (R76, R79) -/

theorem takeBank_eq (s : State) : takeBank s =
    (((s.set CAL_STATUS.PENDING 0).set CAL_STATUS.ACTIVE_VALID 1).set CAL_STATUS.ACTIVE_BANK s.cal.pendBank).withCal
      { s.cal with swapAt := none } := by
  unfold takeBank State.withCal
  rfl

section
variable (s : State)

theorem takeBank_cal : (takeBank s).cal = { s.cal with swapAt := none } := by rw [takeBank_eq, withCal_cal]
theorem takeBank_winPend : (takeBank s).winPend = s.winPend := by simp [takeBank_eq]
theorem takeBank_behaveReset : (takeBank s).behaveReset = s.behaveReset := by simp [takeBank_eq]

theorem takeBank_regsBut : regsBut [CAL_STATUS.W.off] s (takeBank s) := by
  rw [takeBank_eq]
  exact regsBut_trans (regsBut_trans (regsBut_trans (set_regsBut_mem s CAL_STATUS.PENDING _ 0 0 (by decide))
    (set_regsBut_mem _ CAL_STATUS.ACTIVE_VALID _ 0 0 (by decide)))
    (set_regsBut_mem _ CAL_STATUS.ACTIVE_BANK _ 0 0 (by decide))) (withCal_regsBut _ _ _)

theorem takeBank_quiet (h : quiet s) : quiet (takeBank s) := by
  unfold quiet; rw [takeBank_cal, takeBank_winPend]; exact h

theorem takeBank_status (hb : s.behaveReset = []) (hp : s.cal.pendBank < 2) :
    fnState (takeBank s) calFn = fnState s calFn ∧ (takeBank s).get CAL_STATUS.ACTIVE_VALID = 1 ∧
      (takeBank s).get CAL_STATUS.ACTIVE_BANK = s.cal.pendBank ∧ (takeBank s).get CAL_STATUS.PENDING = 0 ∧
      (takeBank s).get CAL_STATUS.SWAP_DONE = s.get CAL_STATUS.SWAP_DONE := by
  simp [takeBank_eq, fnState_eq, get_set_apart, get_set_self, hb, Fld.addr]
  omega

end

/-- The loss of the Calendar, or its return, shows at the cells alone. -/
theorem calLost_below (s : State) (v : Nat) : SameBelow radioBase s (calLost s v) := by
  refine SameBelow.forEach (fun t c => ?_) _ s
  split
  · exact SameBelow.refl _ t
  · exact (SameBelow.set t CODEC_CELL_STATUS.CAL_LOST v c 0 (radio_above (by decide) c)).trans (setCell_below _ _ _)

theorem calLost_only (s : State) (v : Nat) : Keeps 8388612 s (calLost s v) := calLost_keeps (by decide) s v (Keeps.refl _ s)

/-- A Calendar that begins is RUNNING, its cells no longer without it. -/
def calRunning (s : State) : State := calLost (setFnState s calFn Fn.running) 0

section
variable (s : State)

theorem calRunning_cal : (calRunning s).cal = s.cal := ((calLost_only _ _).2 .cal (by decide)).trans (setFnState_cal ..)
theorem calRunning_winPend : (calRunning s).winPend = s.winPend :=
  ((calLost_only _ _).2 .winPend (by decide)).trans (setFnState_winPend ..)
theorem calRunning_behaveReset : (calRunning s).behaveReset = s.behaveReset :=
  ((calLost_only _ _).2 .behaveReset (by decide)).trans (setFnState_behaveReset ..)

theorem calRunning_get (f : Fld) (h : f.addr < radioBase) : (calRunning s).get f = (setFnState s calFn Fn.running).get f :=
  (calLost_below _ 0).get f 0 0 h

theorem calRunning_quiet (h : quiet s) : quiet (calRunning s) := by
  unfold quiet; rw [calRunning_cal, calRunning_winPend]; exact h

theorem calRunning_status (hb : s.behaveReset = []) : fnState (calRunning s) calFn = Fn.running ∧
    (calRunning s).get CAL_STATUS.SWAP_DONE = s.get CAL_STATUS.SWAP_DONE ∧
    (calRunning s).get CAL_SWAP_SLIP = s.get CAL_SWAP_SLIP ∧ (calRunning s).get CAL_CYCLE_COUNT = s.get CAL_CYCLE_COUNT := by
  rw [fnState_eq, calRunning_get s _ (by decide), calRunning_get s _ (by decide), calRunning_get s _ (by decide),
    calRunning_get s _ (by decide)]
  simp [setFnState_eq, get_set_apart, get_set_self, hb, Fld.addr]
  decide

end

/-! ## BANK_SWAP (R76, R79) -/

/-- Out of STARTING, with no step of N to take account of, a cycle of the pending bank begins. -/
theorem calBegin_plain {s : State} (t power : Nat) (hr : s.cal.resync = false) :
    ∃ a, calBegin s t power = applyAt (cycleStart (takeBank (calRunning s)) power) 0 a true true := by
  have hres : ¬ (takeBank (calRunning s)).cal.resync = true := by rw [takeBank_cal, calRunning_cal, hr]; simp
  exact ⟨(takeBank (calRunning s)).clk.elapsed - ((nowN s - t) * 2 ^ 32 + (takeBank (calRunning s)).clk.frac.toNat),
    if_neg fun h => hres h.1⟩

section
variable {s : State} {at_ : Nat} (power : Nat) (hs : s.cal.swapAt = some at_) (hp : s.get CAL_STATUS.PENDING = 1)
include hs hp

theorem bankSwap_begins (hf : fnState s calFn = Fn.starting) (ha : at_ ≤ nowN s) :
    bankSwap s power = calBegin s at_ power := by
  simp only [bankSwap, hs, hf, bit_of_get_one hp, ha, and_self, if_true]

theorem bankSwap_swaps (hf : fnState s calFn = Fn.running) (he : s.cal.endAt ≤ s.clk.elapsed) (ha : at_ ≤ endN s) :
    bankSwap s power = calSwap s at_ power := by
  have hdue : swapDue s = true := by simp [swapDue, bit_of_get_one hp, hs, ha]
  have hne : ¬ Fn.running = Fn.starting := by decide
  simp only [bankSwap, hs, hf, hne, he, hdue, and_self, if_true, if_false]

end

/-- The bank taken at E, with the slip and SWAP_DONE shown. -/
def bankSwapped (s : State) (slip : Nat) : State := (takeBank (s.set CAL_SWAP_SLIP slip)).set CAL_STATUS.SWAP_DONE 1

theorem calSwap_eq (s : State) (t power : Nat) : ∃ p a b, calSwap s t power =
    applyAt (if p = 0 then cycleStart (bankSwapped s (endN s - t)) power else bankSwapped s (endN s - t)) p a b true :=
  ⟨_, _, _, rfl⟩

section
variable (s : State) (slip : Nat)

theorem bankSwapped_behaveReset : (bankSwapped s slip).behaveReset = s.behaveReset := by
  simp [bankSwapped, takeBank_behaveReset]

theorem bankSwapped_quiet (h : quiet s) : quiet (bankSwapped s slip) := by
  unfold quiet bankSwapped
  rw [State.set_cal, State.set_winPend]
  exact takeBank_quiet _ (by simpa [quiet] using h)

theorem bankSwapped_status (hb : s.behaveReset = []) (hp : s.cal.pendBank < 2) :
    fnState (bankSwapped s slip) calFn = fnState s calFn ∧ (bankSwapped s slip).get CAL_STATUS.ACTIVE_BANK = s.cal.pendBank ∧
      (bankSwapped s slip).get CAL_STATUS.PENDING = 0 ∧ (bankSwapped s slip).get CAL_STATUS.SWAP_DONE = 1 ∧
      (bankSwapped s slip).get CAL_SWAP_SLIP = slip % 2 ^ 32 := by
  simp [bankSwapped, takeBank_eq, fnState_eq, get_set_apart, get_set_self, hb, Fld.addr]
  omega

end

/-! ## The commands -/

theorem exec_calStart (s : State) : exec .calStart s = .next (calStart s) := rfl
theorem exec_calStop (s : State) : exec .calStop s = .next (calStop s) := rfl
theorem exec_bankSwap (s : State) (power : Nat) : exec (.bankSwap power) s = .next (bankSwap s power) := rfl

/-- START of a STOPPED Calendar with a bank pending fixes S on the grid of that bank. -/
theorem calStart_fixes {s : State} (hs : s.sound) (hf : fnState s calFn = Fn.stopped) (hp : s.get CAL_STATUS.PENDING = 1) :
    fnState (calStart s) calFn = Fn.starting ∧ (calStart s).get CAL_STATUS.PENDING = 1 ∧
      ∃ S, (calStart s).cal.swapAt = some S ∧ nowN s ≤ S ∧ switchTime s ≤ S ∧ nowN s + maintLeft s ≤ S ∧
        ((S : Int) - bankBase s s.cal.pendBank) % bankCycle s s.cal.pendBank = 0 ∧
        S < max (nowN s + maintLeft s) (switchTime s) + bankCycle s s.cal.pendBank := by
  obtain ⟨hst, hpend⟩ := calStarting_status hs.1
  have hlow : ∀ o ∈ [CAL_STATUS.W.off, CAL_HARD_LATE_COUNT.off], o < CAL_BANK_LEN.off := by decide
  rw [calStart_pending hs.2 hf ((lateCleared_pending s).trans hp), switchTime_calStarting]
  obtain ⟨hle, hgrid, hlt⟩ := cycleAt_spec (calStarting s) s.cal.pendBank
    (max (nowN s + maintLeft s) (max (nowN s) (switchTime s)))
  rw [bankBase_of_regsBut (calStarting_regsBut s) hlow, bankCycle_of_regsBut (calStarting_regsBut s) hlow] at hgrid
  rw [bankCycle_of_regsBut (calStarting_regsBut s) hlow] at hlt
  refine ⟨?_, by simpa using hpend.trans hp, _, by simp only [withCal_cal], ?_, ?_, ?_, hgrid, ?_⟩
  · simpa [fnState_eq] using hst
  · omega
  · omega
  · omega
  · omega

/-- Settles O12: a start, a stop and a swap each take one branch, and a cycle start that finds nothing waiting only counts. -/
theorem calendarRuns : Obligations.CalendarRuns := by
  refine ⟨fun s hs hf => ⟨fun hp => ?_, fun hp => ?_⟩, fun s hs hf => ⟨fun hc => ?_, fun hc => ?_⟩,
    fun s power at_ hs hp hS hd hw hm hb2 => ⟨fun hf ha hr => ?_, fun hf he ha => ?_⟩⟩
  · exact acts_of_exec (exec_calStart s) (calStart_fixes hs hf hp)
  · refine acts_of_exec (exec_calStart s) ?_
    rw [calStart_nothing hs.2 hf ((lateCleared_pending s).trans hp), fnState_eq, faultFn_eq]
    simp [lateCleared, get_set_apart, get_set_self, hs.1, Fld.addr]
    decide
  · refine acts_of_exec (exec_calStop s) ?_
    rw [calStop_stops hf hc]
    refine ⟨?_, by simp, ?_, regsBut_trans (setFnState_calFn_regsBut s _) (withCal_regsBut _ _ _)⟩
    · simp [fnState_eq, setFnState_eq, get_set_self, hs.1]
      decide
    · simp [setFnState_eq, get_set_apart, hs.1, Fld.addr]
  · refine acts_of_exec (exec_calStop s) ?_
    rw [calStop_refused hf hc]
    refine ⟨by simp [get_set_self, hs.1], ?_, State.set_cal .., set_regsBut_mem s CAL_STATUS.STOP_REJECT 1 0 0 (by decide)⟩
    rw [fnState_eq] at hf ⊢
    simpa [get_set_apart, hs.1, Fld.addr] using hf
  · refine acts_of_exec (exec_bankSwap s power) ?_
    obtain ⟨a, hbegin⟩ := calBegin_plain at_ power hr
    rw [bankSwap_begins power hS hp hf ha, hbegin]
    obtain ⟨hrun, hdone, hslip, hcount⟩ := calRunning_status s hs.1
    have hb := (calRunning_behaveReset s).trans hs.1
    have hpend : (calRunning s).cal.pendBank = s.cal.pendBank := by rw [calRunning_cal]
    obtain ⟨hrun', hvalid, hbank, hnone, hdone'⟩ := takeBank_status (calRunning s) hb (by rw [hpend]; exact hb2)
    obtain ⟨hcount', hregs, hlapsed⟩ := cycleApplied (takeBank (calRunning s)) 0 a power true true
      (takeBank_quiet _ (calRunning_quiet s ⟨hd, hw, hm⟩)) ((takeBank_behaveReset _).trans hb)
    have hget (f : Fld) (hf : f.addr ∉ [CAL_CYCLE_COUNT.off]) := get_of_regsBut hregs f 0 0 hf
    have htake (f : Fld) (hf : f.addr ∉ [CAL_STATUS.W.off]) := get_of_regsBut (takeBank_regsBut (calRunning s)) f 0 0 hf
    rw [fnState_eq] at hrun hrun' ⊢
    rw [hget _ (by decide), hget _ (by decide), hget _ (by decide), hget _ (by decide), hget _ (by decide), hget _ (by decide),
      hcount', hlapsed, htake CAL_SWAP_SLIP (by decide), htake CAL_CYCLE_COUNT (by decide), takeBank_cal]
    exact ⟨hrun'.trans hrun, hvalid, hbank.trans hpend, hnone, hdone'.trans hdone, hslip, by rw [hcount], rfl⟩
  · refine acts_of_exec (exec_bankSwap s power) ?_
    obtain ⟨p, a, start, hswap⟩ := calSwap_eq s at_ power
    rw [bankSwap_swaps power hS hp hf he ha, hswap]
    obtain ⟨hrun, hbank, hnone, hdone, hslip⟩ := bankSwapped_status s (endN s - at_) hs.1 hb2
    have hregs := swapApplied (bankSwapped s (endN s - at_)) p a power start (bankSwapped_quiet s _ ⟨hd, hw, hm⟩)
      ((bankSwapped_behaveReset s _).trans hs.1)
    have hget (f : Fld) (hf : f.addr ∉ [CAL_CYCLE_COUNT.off]) := get_of_regsBut hregs f 0 0 hf
    rw [fnState_eq] at hf hrun ⊢
    rw [hget _ (by decide), hget _ (by decide), hget _ (by decide), hget _ (by decide), hget _ (by decide)]
    exact ⟨hrun.trans hf, hbank, hnone, hdone, hslip⟩

/-! ## The gates and the queue masks that a table gives (R71, R72) -/

theorem gatesOf_setGate (s : State) (n g : Nat) (force : Bool) (m : Nat) :
    gatesOf (setGate s n g force) m = if m = n then g else gatesOf s m := by
  unfold setGate
  dsimp only
  split
  · next h =>
    split
    · next hmn => rw [hmn, h.1]
    · rfl
  · unfold gatesOf
    exact mapGet_put _ _ _ _ _

theorem setGate_fhMask (s : State) (n g : Nat) (force : Bool) : (setGate s n g force).cal.fhMask = s.cal.fhMask := by
  unfold setGate
  dsimp only
  split <;> rfl

theorem coreUsable_setGate (s : State) (n g : Nat) (force : Bool) (m : Nat) :
    coreUsable (setGate s n g force) m = coreUsable s m := by
  have h := setGate_keeps (m := 512) (by decide) s n g force (Keeps.refl _ s)
  unfold coreUsable
  rw [get_congr (h.2 .regs (by decide)) (h.2 .behaveReset (by decide))]

/-- The gate of a core applied where the core is usable, none where it is not. -/
def gateStep (a : Nat → Nat) (force : Bool) (s : State) (n : Nat) : State :=
  setGate s n (if coreUsable s n then a n else 0) force

/-- Gates applied to the cores of a list leave the other cores' gates. -/
theorem gatesOf_forEach (a : Nat → Nat) (force : Bool) (n : Nat) (l : List Nat) (s : State) :
    gatesOf (forEach l (gateStep a force) s) n =
      if n ∈ l then (if coreUsable s n then a n else 0) else gatesOf s n := by
  induction l generalizing s with
  | nil => simp [forEach]
  | cons m l ih =>
    have hcons : forEach (m :: l) (gateStep a force) s = forEach l (gateStep a force) (gateStep a force s m) := rfl
    rw [hcons, ih]
    simp only [gateStep, coreUsable_setGate, gatesOf_setGate, List.mem_cons]
    by_cases hl : n ∈ l
    · simp [hl]
    · by_cases hm : n = m
      · simp [hm]
      · simp [hl, hm]

/-- The tenant window of a core opened where the table opens the gate. -/
def windowStep (start : Bool) (before s : State) (n : Nat) : State :=
  if gatesOf s n &&& Gate.tenant ≠ 0 ∧ (start ∨ gatesOf before n &&& Gate.tenant = 0) then openWindow s n else s

theorem windowStep_keeps (start : Bool) (before s : State) (n : Nat) :
    (windowStep start before s n).cal.gates = s.cal.gates ∧ (windowStep start before s n).cal.fhMask = s.cal.fhMask := by
  unfold windowStep
  split <;> exact ⟨rfl, rfl⟩

/-- The entry in use and the queue masks at a position of the active bank. -/
def entryTaken (s : State) (pos atTime : Nat) : State := s.withCal { s.cal with
  fhMask := BitVec.ofNat 64 (maskFrom pos (bankEnts s (activeBank s)) 0 (2 ^ 64 - 1))
  endOff := endFrom pos (bankEnts s (activeBank s)) 0
  endAt := atTime + (endFrom pos (bankEnts s (activeBank s)) 0 - pos) * 2 ^ 32
  resync := false }

/-- The gates of every core at a position of the active bank. -/
def gatesTaken (s : State) (pos atTime : Nat) (force : Bool) : State :=
  forEach (List.range 128) (gateStep (fun n => gateFrom n pos (bankEnts s (activeBank s)) 0 0) force) (entryTaken s pos atTime)

theorem applyAt_eq (s : State) (pos atTime : Nat) (start force : Bool) : applyAt s pos atTime start force =
    forEach (List.range 128) (windowStep start s) (gatesTaken s pos atTime force) := rfl

section
variable (s : State) (pos atTime : Nat) (start force : Bool)

theorem gatesTaken_fhMask : (gatesTaken s pos atTime force).cal.fhMask = (entryTaken s pos atTime).cal.fhMask :=
  List.foldlRecOn (motive := fun t : State => t.cal.fhMask = (entryTaken s pos atTime).cal.fhMask) _ _ rfl
    fun t ht n _ => (setGate_fhMask t n _ force).trans ht

theorem applyAt_windows : (applyAt s pos atTime start force).cal.gates = (gatesTaken s pos atTime force).cal.gates ∧
    (applyAt s pos atTime start force).cal.fhMask = (gatesTaken s pos atTime force).cal.fhMask := by
  rw [applyAt_eq]
  refine List.foldlRecOn (motive := fun t : State => t.cal.gates = _ ∧ t.cal.fhMask = _) _ _ ⟨rfl, rfl⟩ ?_
  intro t ⟨hgates, hmask⟩ n _
  obtain ⟨hg, hm⟩ := windowStep_keeps start s t n
  exact ⟨hg.trans hgates, hm.trans hmask⟩

theorem applyAt_gates {n : Nat} (hn : n < 128) : gatesOf (applyAt s pos atTime start force) n =
    if coreUsable s n then gateFrom n pos (bankEnts s (activeBank s)) 0 0 else 0 := by
  have hgates : gatesOf (applyAt s pos atTime start force) n = gatesOf (gatesTaken s pos atTime force) n := by
    unfold gatesOf; rw [(applyAt_windows s pos atTime start force).1]
  have husable : coreUsable (entryTaken s pos atTime) n = coreUsable s n := by simp [coreUsable, entryTaken]
  rw [hgates, gatesTaken, gatesOf_forEach, if_pos (List.mem_range.2 hn), husable]

theorem applyAt_fhMask : (applyAt s pos atTime start force).cal.fhMask =
    BitVec.ofNat 64 (maskFrom pos (bankEnts s (activeBank s)) 0 (2 ^ 64 - 1)) := by
  rw [(applyAt_windows s pos atTime start force).2, gatesTaken_fhMask, entryTaken, withCal_cal]

end

/-- The end of an entry within a cycle, with no swap due and no step of N, applies the table at the entry's end. -/
theorem entryEnd_within {s : State} (power : Nat) (ha : calActive s = true) (he : s.cal.endAt ≤ s.clk.elapsed)
    (hf : fnState s calFn ≠ Fn.stopping) (hd : swapDue s = false) (hr : s.cal.resync = false)
    (hc : s.cal.endOff < bankCycle s (activeBank s)) :
    entryEnd s power = applyAt s s.cal.endOff s.cal.endAt false false := by
  unfold entryEnd
  rw [if_pos ⟨ha, he⟩, if_neg hf, if_neg (by simp [hd]), if_neg (by simp [hr]), if_neg (Nat.not_le.2 hc)]

/-! ## Token buckets (R82) -/

/-- A token bucket: its count, rate and burst, whether it is enabled, its fraction, and when it accrues next. -/
structure Bucket where
  tokens : Int
  rate : Nat
  burst : Nat
  on : Bool
  frac : Nat
  next : Nat

/-- Bucket b of tenant u. -/
def bucketAt (s : State) (u b : Nat) : Bucket where
  tokens := s.getS (tbTokens b) u
  rate := s.get (tbRate b) u
  burst := s.get (tbBurst b) u
  on := tbOn s u b
  frac := mapGet (fun _ => 0) s.cal.tbFrac (3 * u + b)
  next := mapGet (fun _ => 0) s.cal.tbNext (3 * u + b)

/-- The most that a bucket's count is raised to. -/
def Bucket.cap (x : Bucket) : Int := min x.burst (2 ^ 31 - 1)

/-- A bucket after one microsecond's share of its rate. -/
def Bucket.gained (x : Bucket) : Bucket :=
  if x.on then { x with
    tokens := min (x.tokens + ((x.frac + x.rate) / 1000 : Nat)) (max x.cap x.tokens)
    frac := (x.frac + x.rate) % 1000 }
  else x

/-- A bucket after its accrual, where its microsecond has come. -/
def Bucket.accrued (x : Bucket) (now : Nat) : Bucket := if x.next ≤ now then { x.gained with next := x.next + 1000 } else x

section
variable {x : Bucket} {now : Nat}

theorem Bucket.accrued_early (h : now < x.next) : x.accrued now = x := if_neg (Nat.not_le.2 h)

theorem Bucket.accrued_due (h : x.next ≤ now) : x.accrued now = { x.gained with next := x.next + 1000 } := if_pos h

theorem Bucket.gained_off (h : x.on = false) : x.gained = x := if_neg (by simp [h])

theorem Bucket.gained_on (h : x.on = true) (hc : x.tokens ≤ x.cap) :
    x.gained.tokens = min (x.tokens + ((x.frac + x.rate) / 1000 : Nat)) x.cap ∧ x.gained.frac = (x.frac + x.rate) % 1000 := by
  rw [Bucket.gained, if_pos h, max_eq_left hc]
  exact ⟨rfl, rfl⟩

end

theorem getS_setS (s : State) (f : Fld) (v : Int) (i k : Nat) (hb : s.behaveReset = []) (hl : f.lo = 0) (hw : f.w = 32)
    (h1 : -2 ^ 31 ≤ v) (h2 : v < 2 ^ 31) : (s.setS f v i k).getS f i k = v := by
  unfold State.getS State.setS
  rw [get_set_self _ _ _ _ _ hb (by omega), hw]
  dsimp only
  split <;> omega

/-- A count lies in 32 bits. -/
theorem getS_range (s : State) (f : Fld) (i k : Nat) (hw : f.w = 32) : -2 ^ 31 ≤ s.getS f i k ∧ s.getS f i k < 2 ^ 31 := by
  have h := get_lt s f i k
  unfold State.getS
  rw [hw] at h ⊢
  dsimp only
  split <;> omega

section
variable {b : Nat} (hlt : b < 3) (u : Nat)
include hlt

/-- The registers of a tenant's buckets lie side by side. -/
theorem tbTokens_place : (tbTokens b).addr u = 0x3200C + 12 * b + 0x40 * u ∧ (tbTokens b).lo = 0 ∧ (tbTokens b).w = 32 := by
  interval_cases b <;> simp [tbTokens, Fld.addr, Nat.mul_comm]

theorem tbRate_place : (tbRate b).addr u = 0x32004 + 12 * b + 0x40 * u := by
  interval_cases b <;> simp [tbRate, Fld.addr, Nat.mul_comm]

theorem tbBurst_place : (tbBurst b).addr u = 0x32008 + 12 * b + 0x40 * u := by
  interval_cases b <;> simp [tbBurst, Fld.addr, Nat.mul_comm]

end

theorem tbCtrl_place (u : Nat) : CAL_TB_CTRL.W.addr u = 0x32000 + 0x40 * u := by simp [Fld.addr, Nat.mul_comm]

theorem bucketAt_withCal (s : State) (c : CalSeq) (u b : Nat) : bucketAt (s.withCal c) u b = { bucketAt s u b with
    frac := mapGet (fun _ => 0) c.tbFrac (3 * u + b), next := mapGet (fun _ => 0) c.tbNext (3 * u + b) } := by
  simp [bucketAt, State.getS, tbOn]

section
variable {s : State} (hbr : s.behaveReset = []) {u a b : Nat} (ha : a < 3) (hlt : b < 3) (v : Int)
include ha hlt

/-- The count of one bucket written leaves every other bucket. -/
theorem bucketAt_setS_other (hne : b ≠ a) : bucketAt (s.setS (tbTokens a) v u) u b = bucketAt s u b := by
  have hget (g : Fld) (hg : g.addr u ≠ (tbTokens a).addr u) : (s.setS (tbTokens a) v u).get g u = s.get g u :=
    get_set_reg _ _ _ _ _ _ _ _ hg
  obtain ⟨hta, -, -⟩ := tbTokens_place ha u
  obtain ⟨htb, -, -⟩ := tbTokens_place hlt u
  have hrate := tbRate_place hlt u
  have hburst := tbBurst_place hlt u
  have hctrl := tbCtrl_place u
  simp only [bucketAt, State.getS, tbOn, State.setS_cal]
  rw [hget _ (by omega), hget _ (by omega), hget _ (by omega), hget _ (by omega)]

omit ha in
include hbr in
theorem bucketAt_setS_same (h1 : -2 ^ 31 ≤ v) (h2 : v < 2 ^ 31) :
    bucketAt (s.setS (tbTokens b) v u) u b = { bucketAt s u b with tokens := v } := by
  have hget (g : Fld) (hg : g.addr u ≠ (tbTokens b).addr u) : (s.setS (tbTokens b) v u).get g u = s.get g u :=
    get_set_reg _ _ _ _ _ _ _ _ hg
  obtain ⟨htb, hl, hw⟩ := tbTokens_place hlt u
  have hrate := tbRate_place hlt u
  have hburst := tbBurst_place hlt u
  have hctrl := tbCtrl_place u
  simp only [bucketAt, tbOn, State.setS_cal]
  rw [getS_setS s _ v u 0 hbr hl hw h1 h2, hget _ (by omega), hget _ (by omega), hget _ (by omega)]

end

/-- The share of one microsecond keeps a count within 32 bits. -/
theorem gained_range (x : Bucket) (h1 : -2 ^ 31 ≤ x.tokens) (h2 : x.tokens < 2 ^ 31) :
    -2 ^ 31 ≤ x.gained.tokens ∧ x.gained.tokens < 2 ^ 31 := by
  unfold Bucket.gained Bucket.cap
  split
  · dsimp only; omega
  · exact ⟨h1, h2⟩

theorem tbGain_off {s : State} {u b : Nat} (h : tbOn s u b = false) : tbGain u s b = s := by
  unfold tbGain; rw [h]; rfl

theorem tbGain_on {s : State} {u b : Nat} (h : tbOn s u b = true) :
    tbGain u s b = (s.setS (tbTokens b) (bucketAt s u b).gained.tokens u).withCal { s.cal with
      tbFrac := mapPut (fun _ => 0) s.cal.tbFrac (3 * u + b) (bucketAt s u b).gained.frac } := by
  unfold tbGain Bucket.gained bucketAt
  rw [h]
  rfl

section
variable {s : State} (hbr : s.behaveReset = []) {u a b : Nat} (ha : a < 3) (hlt : b < 3)
include ha hlt

theorem bucketAt_tbGain_other (hne : b ≠ a) : bucketAt (tbGain u s a) u b = bucketAt s u b := by
  cases hon : tbOn s u a with
  | false => rw [tbGain_off hon]
  | true =>
    rw [tbGain_on hon, bucketAt_withCal, bucketAt_setS_other ha hlt _ hne]
    simp only [mapGet_put_other _ _ _ (show 3 * u + b ≠ 3 * u + a by omega)]
    rfl

omit ha in
include hbr in
theorem bucketAt_tbGain_same : bucketAt (tbGain u s b) u b = (bucketAt s u b).gained := by
  cases hon : tbOn s u b with
  | false =>
    rw [tbGain_off hon]
    exact (if_neg (by simp [bucketAt, hon])).symm
  | true =>
    obtain ⟨-, -, hw⟩ := tbTokens_place hlt u
    obtain ⟨h1, h2⟩ := getS_range s (tbTokens b) u 0 hw
    obtain ⟨g1, g2⟩ := gained_range (bucketAt s u b) h1 h2
    rw [tbGain_on hon, bucketAt_withCal, bucketAt_setS_same hbr hlt _ g1 g2]
    have hgain : (bucketAt s u b).gained = { bucketAt s u b with
      tokens := (bucketAt s u b).gained.tokens, frac := (bucketAt s u b).gained.frac } := by
      unfold Bucket.gained; split <;> rfl
    rw [hgain, mapGet_put_self]
    rfl

omit ha hlt in
theorem tbGain_only (s : State) (u b : Nat) : Keeps 516 s (tbGain u s b) := tbGain_keeps (by decide) u s b (Keeps.refl _ s)

omit ha hlt in
theorem tbAccrue_early {s : State} {u b : Nat} (h : nowNs s < (bucketAt s u b).next) : tbAccrue u s b = s :=
  if_neg (Nat.not_le.2 h)

omit ha hlt in
theorem tbAccrue_due {s : State} {u b : Nat} (h : (bucketAt s u b).next ≤ nowNs s) : tbAccrue u s b =
    (tbGain u s b).withCal { (tbGain u s b).cal with
      tbNext := mapPut (fun _ => 0) (tbGain u s b).cal.tbNext (3 * u + b) ((bucketAt s u b).next + 1000) } := if_pos h

theorem bucketAt_tbAccrue_other (hne : b ≠ a) : bucketAt (tbAccrue u s a) u b = bucketAt s u b := by
  rcases Nat.lt_or_ge (nowNs s) (bucketAt s u a).next with h | h
  · rw [tbAccrue_early h]
  · rw [tbAccrue_due h, bucketAt_withCal, mapGet_put_other _ _ _ (show 3 * u + b ≠ 3 * u + a by omega)]
    exact bucketAt_tbGain_other ha hlt hne

omit ha in
include hbr in
theorem bucketAt_tbAccrue_same : bucketAt (tbAccrue u s b) u b = (bucketAt s u b).accrued (nowNs s) := by
  rcases Nat.lt_or_ge (nowNs s) (bucketAt s u b).next with h | h
  · rw [tbAccrue_early h, Bucket.accrued, if_neg (Nat.not_le.2 h)]
  · rw [tbAccrue_due h, bucketAt_withCal, mapGet_put_self, Bucket.accrued, if_pos h, ← bucketAt_tbGain_same hbr hlt]
    rfl

end

theorem tbAccrue_only (s : State) (u b : Nat) : Keeps 516 s (tbAccrue u s b) :=
  tbAccrue_keeps (by decide) u s b (Keeps.refl _ s)

/-- The accrual of a tenant is that of its three buckets, each by itself. -/
theorem bucketAt_tokenAccrue {s : State} (hbr : s.behaveReset = []) {u b : Nat} (hu : u < 256) (hlt : b < 3) :
    bucketAt (tokenAccrue s u) u b = (bucketAt s u b).accrued (nowNs s) := by
  have hnow (t : State) (a : Nat) : nowNs (tbAccrue u t a) = nowNs t := by
    unfold nowNs; rw [(tbAccrue_only t u a).2 .clk (by decide)]
  have hres (t : State) (a : Nat) (h : t.behaveReset = []) : (tbAccrue u t a).behaveReset = [] :=
    ((tbAccrue_only t u a).2 .behaveReset (by decide)).trans h
  have hthree : tokenAccrue s u = tbAccrue u (tbAccrue u (tbAccrue u s 0) 1) 2 := if_pos hu
  have other (t : State) {a : Nat} (ha : a < 3) (hne : b ≠ a) : bucketAt (tbAccrue u t a) u b = bucketAt t u b :=
    bucketAt_tbAccrue_other ha hlt hne
  rw [hthree]
  interval_cases b
  · rw [other _ (by decide) (by decide), other _ (by decide) (by decide), bucketAt_tbAccrue_same hbr (by decide)]
  · rw [other _ (by decide) (by decide), bucketAt_tbAccrue_same (hres s 0 hbr) (by decide), other _ (by decide) (by decide), hnow]
  · rw [bucketAt_tbAccrue_same (hres _ 1 (hres s 0 hbr)) (by decide), other _ (by decide) (by decide),
      other _ (by decide) (by decide), hnow, hnow]

theorem exec_calEntryEnd (s : State) (power : Nat) : exec (.calEntryEnd power) s = .next (entryEnd s power) := rfl
theorem exec_tokenAccrue (s : State) (u : Nat) : exec (.tokenAccrue u) s = .next (tokenAccrue s u) := rfl

/-- Settles O13: the end of the entry applies the table at its offset, and each bucket accrues by itself. -/
theorem calendarEntries : Obligations.CalendarEntries := by
  refine ⟨fun s power hs ha he hf hd hr hc => ?_, fun s u b hs hu hlt => ?_⟩
  · refine acts_of_exec (exec_calEntryEnd s power) ?_
    rw [entryEnd_within power ha he hf hd hr hc]
    exact ⟨fun n hn => applyAt_gates s _ _ _ _ hn, applyAt_fhMask s _ _ _ _, applyAt_regsBut _ s _ _ _ _⟩
  · have hacc := bucketAt_tokenAccrue hs.1 hu hlt
    have htok : (tokenAccrue s u).getS (tbTokens b) u = ((bucketAt s u b).accrued (nowNs s)).tokens := congrArg Bucket.tokens hacc
    have hnext := congrArg Bucket.next hacc
    intro due acc cap
    refine acts_of_exec (exec_tokenAccrue s u) ⟨fun hdue hon hcap => ?_, fun hdue => ?_, fun h => ?_, fun hdue => ?_⟩
    · obtain ⟨hsum, hcarry⟩ := Bucket.gained_on (x := bucketAt s u b) hon hcap
      rw [Bucket.accrued_due hdue] at hacc htok
      exact ⟨htok.trans hsum, (congrArg Bucket.frac hacc).trans hcarry⟩
    · rwa [Bucket.accrued_due hdue] at hnext
    · rw [htok]
      rcases Nat.lt_or_ge (nowNs s) (bucketAt s u b).next with hearly | hdue
      · rw [Bucket.accrued_early hearly]; rfl
      · rw [Bucket.accrued_due hdue, Bucket.gained_off (h.resolve_left (Nat.not_lt.2 hdue))]; rfl
    · rwa [Bucket.accrued_early hdue] at hnext

end Sys2Proof.Machine
end

section
/-! PROOFS. A core's contexts: the switch, the held time, the tenant bound, the read of a waited word, and a gate change on
its way (03_calendar.md R61, R64; 06_core_streams.md R141, R142; 07_hallmark.md R189; 09_contexts_tenants.md R228, R231). -/

namespace Sys2Proof.Machine

/-! ## Records read after an update of their tables -/

@[simp] theorem coreAt_setCore (s : State) (n : Nat) (k : Core) : coreAt (setCore s n k) n = k := mapGet_put_self _ _ _ _

theorem ctxAt_setCtx (s : State) (x : Nat) (y : Ctx) (z : Nat) : ctxAt (setCtx s x y) z = if z = x then y else ctxAt s z :=
  mapGet_put _ _ _ _ _

theorem ctxAt_setCtx_self (s : State) (x : Nat) (y : Ctx) : ctxAt (setCtx s x y) x = y := mapGet_put_self _ _ _ _

theorem ctxAt_setCtx_other (s : State) {x z : Nat} (y : Ctx) (h : z ≠ x) : ctxAt (setCtx s x y) z = ctxAt s z :=
  mapGet_put_other _ _ _ h

theorem coreAt_congr {s t : State} (h : t.cores = s.cores) (n : Nat) : coreAt t n = coreAt s n := by unfold coreAt; rw [h]

theorem ctxAt_congr {s t : State} (h : t.ctxs = s.ctxs) (x : Nat) : ctxAt t x = ctxAt s x := by unfold ctxAt; rw [h]

theorem fnAt_congr {s t : State} (h : t.fns = s.fns) (f : Nat) : fnAt t f = fnAt s f := by unfold fnAt; rw [h]

/-- What an operation that keeps the contexts leaves of one of them. -/
theorem Keeps.ctxAt {m : Nat} {s t : State} (h : Keeps m s t) (hm : m.testBit Part.ctxs.idx = false) (x : Nat) :
    ctxAt t x = Machine.ctxAt s x := ctxAt_congr (h.2 .ctxs hm) x

theorem Keeps.coreAt {m : Nat} {s t : State} (h : Keeps m s t) (hm : m.testBit Part.cores.idx = false) (n : Nat) :
    coreAt t n = Machine.coreAt s n := coreAt_congr (h.2 .cores hm) n

theorem Keeps.fnAt {m : Nat} {s t : State} (h : Keeps m s t) (hm : m.testBit Part.fns.idx = false) (f : Nat) :
    fnAt t f = Machine.fnAt s f := fnAt_congr (h.2 .fns hm) f

theorem trace_only (s : State) (n slot stream event code tag ctx count : Nat) :
    Keeps 4 s (trace s n slot stream event code tag ctx count) := trace_keeps (by decide) s _ _ _ _ _ _ _ _ (Keeps.refl _ s)

theorem setHeld_only (s : State) (n c v : Nat) : Keeps 2048 s (setHeld s n c v) := setHeld_keeps (by decide) s _ _ _ (Keeps.refl _ s)

theorem accumHeld_only (s : State) (n : Nat) : Keeps 2052 s (accumHeld s n) := accumHeld_keeps (by decide) s n (Keeps.refl _ s)

/-- The held time set leaves the running context and the function that ran last. -/
theorem setHeld_run (s : State) (n c v : Nat) : (coreAt (setHeld s n c v) n).run = (coreAt s n).run ∧
    (coreAt (setHeld s n c v) n).lastFn = (coreAt s n).lastFn := by
  unfold setHeld
  rw [coreAt_setCore]
  exact ⟨rfl, rfl⟩

/-! ## The switch (06_core_streams.md R142; 09_contexts_tenants.md R228, R231) -/

theorem Pointers.stream_setStream (p : Pointers) (i : Nat) (x : Stream) (j : Nat) :
    (p.setStream i x).stream j = if j = i then x else p.stream j := mapGet_put _ _ _ _ _

/-- The words waited for forgotten, stream by stream. -/
def wordsDropped (p : Pointers) : Pointers :=
  (List.range 4).foldl (fun p t => p.setStream t { p.stream t with word := none }) p

theorem wordsDropped_parts (p : Pointers) : (wordsDropped p).tokens = p.tokens ∧ (wordsDropped p).dataqs = p.dataqs ∧
    ∀ j, ((wordsDropped p).stream j).pc = (p.stream j).pc := by
  refine List.foldlRecOn (motive := fun q : Pointers =>
    q.tokens = p.tokens ∧ q.dataqs = p.dataqs ∧ ∀ j, (q.stream j).pc = (p.stream j).pc) _ _ ⟨rfl, rfl, fun _ => rfl⟩ ?_
  intro q ⟨htok, hdq, hpc⟩ t _
  refine ⟨htok, hdq, fun j => ?_⟩
  rw [Pointers.stream_setStream]
  split
  · next h => rw [h]; exact hpc t
  · exact hpc j

/-- A context's saved pointers hold the counters, queues and places that the live ones held. -/
def SavedFrom (s t : State) (x : Nat) : Prop :=
  (ctxAt t x).saved.tokens = (ctxAt s x).live.tokens ∧ (ctxAt t x).saved.dataqs = (ctxAt s x).live.dataqs ∧
    ∀ st < 4, ((ctxAt t x).saved.stream st).pc = ((ctxAt s x).live.stream st).pc

theorem savePointers_eq (s : State) (n c : Nat) : savePointers s n c = setCtx s ((coreAt s n).slot c).ctx
    { ctxAt s ((coreAt s n).slot c).ctx with
      live := wordsDropped (ctxAt s ((coreAt s n).slot c).ctx).live
      saved := wordsDropped (ctxAt s ((coreAt s n).slot c).ctx).live } := rfl

theorem savePointers_saved (s : State) (n c : Nat) : SavedFrom s (savePointers s n c) ((coreAt s n).slot c).ctx := by
  obtain ⟨htok, hdq, hpc⟩ := wordsDropped_parts (ctxAt s ((coreAt s n).slot c).ctx).live
  rw [savePointers_eq, SavedFrom, ctxAt_setCtx_self]
  exact ⟨htok, hdq, fun st _ => hpc st⟩

theorem savePointers_fn (s : State) (n c x : Nat) : (ctxAt (savePointers s n c) x).fn = (ctxAt s x).fn := by
  rw [savePointers_eq, ctxAt_setCtx]
  split
  · next h => rw [h]
  · rfl

/-- The running context of a core left: its pointers saved, and the event traced. -/
def runLeft (s : State) (n : Nat) : State :=
  match (coreAt s n).run with
  | some d => trace (savePointers s n d) n d 0 4 0 0 ((coreAt s n).slot d).ctx 0
  | none => s

theorem runLeft_only (s : State) (n : Nat) : Keeps 8196 s (runLeft s n) := by
  unfold runLeft
  split
  · exact trace_keeps (by decide) _ _ _ _ _ _ _ _ _ (savePointers_keeps (by decide) s _ _ (Keeps.refl _ s))
  · exact Keeps.refl _ s

theorem runLeft_saved {s : State} {n d : Nat} (h : (coreAt s n).run = some d) :
    SavedFrom s (runLeft s n) ((coreAt s n).slot d).ctx := by
  unfold runLeft SavedFrom
  rw [h]
  simp only [(trace_only _ _ _ _ _ _ _ _ _).ctxAt (by decide)]
  exact savePointers_saved s n d

theorem runLeft_fn (s : State) (n x : Nat) : (ctxAt (runLeft s n) x).fn = (ctxAt s x).fn := by
  unfold runLeft
  split
  · rw [(trace_only _ _ _ _ _ _ _ _ _).ctxAt (by decide), savePointers_fn]
  · rfl

/-- The core's memories read as unwritten where another function ran last (R231). -/
def memoriesFor (s : State) (n : Nat) (last : Option Nat) (fn : Nat) : State :=
  if last.isSome ∧ last ≠ some fn then markUnwritten s n else s

theorem memoriesFor_only (s : State) (n : Nat) (last : Option Nat) (fn : Nat) : Keeps 1024 s (memoriesFor s n last fn) :=
  ite_keeps (markUnwritten_keeps (by decide) s n (Keeps.refl _ s)) (Keeps.refl _ s)

theorem memoriesFor_mems {s t : State} (h : t.mems = s.mems) (n : Nat) (last : Option Nat) (fn : Nat) :
    (memoriesFor t n last fn).mems =
      if last.isSome ∧ last ≠ some fn then (markUnwritten s n).mems else s.mems := by
  unfold memoriesFor
  split
  · unfold markUnwritten; dsimp only; rw [h]
  · exact h

/-- The context of slot c of a core run, its held time counted from now. -/
def runTaken (s : State) (n c fn x : Nat) : State :=
  let t := setCore s n { coreAt s n with run := some c, lastFn := some fn, grp := none }
  trace (setHeld t n c ((coreAt t n).slot c).held) n c 0 3 0 0 x 0

theorem runTaken_only (s : State) (n c fn x : Nat) : Keeps 2052 s (runTaken s n c fn x) :=
  trace_keeps (by decide) _ _ _ _ _ _ _ _ _
    (setHeld_keeps (by decide) _ _ _ _ (setCore_keeps (by decide) s n _ (Keeps.refl _ s)))

theorem runTaken_run (s : State) (n c fn x : Nat) :
    (coreAt (runTaken s n c fn x) n).run = some c ∧ (coreAt (runTaken s n c fn x) n).lastFn = some fn := by
  unfold runTaken
  dsimp only
  rw [(trace_only _ _ _ _ _ _ _ _ _).coreAt (by decide)]
  obtain ⟨hrun, hfn⟩ := setHeld_run
    (setCore s n { coreAt s n with run := some c, lastFn := some fn, grp := none }) n c
    ((coreAt (setCore s n { coreAt s n with run := some c, lastFn := some fn, grp := none }) n).slot c).held
  rw [hrun, hfn, coreAt_setCore]
  exact ⟨rfl, rfl⟩

/-- A switch leaves the running context and runs the best resident. -/
theorem contextSwitch_switches {s : State} {n c : Nat} (ha : accumHeld s n = s) (hf : (coreAt s n).fly = [])
    (hm : mayLeave s n = true) (hb : bestSlot s n = some c) (hr : (coreAt s n).run ≠ some c) :
    contextSwitch s n = runTaken (memoriesFor (runLeft s n) n (coreAt s n).lastFn (ctxAt s ((coreAt s n).slot c).ctx).fn)
      n c (ctxAt s ((coreAt s n).slot c).ctx).fn ((coreAt s n).slot c).ctx := by
  unfold contextSwitch
  simp only [ha, hf, hm, hb, hr]
  rw [← runLeft_fn s n]
  rfl

theorem exec_contextSwitch (s : State) (n : Nat) : exec (.contextSwitch n) s = .next (contextSwitch s n) := rfl

/-! ## A context that faults (09_contexts_tenants.md R232, R233) -/

/-- The replays of a context ended, each with its records. -/
def replaysEnded (s : State) (x : Nat) : State :=
  forEach (ctxAt s x).replays (fun s p =>
    match repAt s p with
    | some e => setRep (forEach e.cmds (fun s f =>
        journal s (cmdRec 0x03 Code.replayFailed e.core x f (e.grp ≠ 0) 0 0)) s) p none
    | none => s) s

theorem dropReplays_eq (s : State) (x : Nat) : dropReplays s x =
    setCtx (replaysEnded s x) x { ctxAt (replaysEnded s x) x with replays := [] } := rfl

theorem replaysEnded_only (s : State) (x : Nat) : Keeps 42949673988 s (replaysEnded s x) := by
  refine forEach_keeps (by decide) _ _ _ (fun t p h => ?_) (Keeps.refl _ s)
  split
  · exact setRep_keeps (by decide) _ _ _
      (forEach_keeps (by decide) _ _ _ (fun u f hu => journal_keeps (by decide) u _ hu) h)
  · exact h

section
variable (s : State) {x y : Nat} (h : x ≠ y)
include h

theorem dropReplays_ctx_other : ctxAt (dropReplays s y) x = ctxAt s x := by
  rw [dropReplays_eq, ctxAt_setCtx_other _ _ h, (replaysEnded_only s y).ctxAt (by decide)]

theorem leaveSlot_ctx_other (st : Nat) : ctxAt (leaveSlot s y st) x = ctxAt s x := by
  unfold leaveSlot
  dsimp only
  rw [ctxAt_setCtx_other _ _ h]
  split
  · exact (freeSlot_keeps (m := 2048) (by decide) s _ _ (Keeps.refl _ s)).ctxAt (by decide) x
  · rfl

theorem toIdle_ctx_other : ctxAt (toIdle s y) x = ctxAt s x := by
  unfold toIdle
  dsimp only
  split
  · exact ctxAt_setCtx_other _ _ h
  · split
    · split
      · exact ctxAt_setCtx_other _ _ h
      · rw [ctxAt_setCtx_other _ _ h, leaveSlot_ctx_other s h]
    · rfl

end

/-- The failure of a group's job leaves the context that it is laid to. -/
theorem failGroup_ctx_self (s : State) (g x code tag : Nat) : ctxAt (failGroup s g x code tag) x = ctxAt s x := by
  unfold failGroup
  dsimp only
  split
  · rfl
  · refine List.foldlRecOn (motive := fun t : State => ctxAt t x = ctxAt s x) _ _ (ctxAt_congr (setGroup_ctxs ..) x) ?_
    intro t ht y hy
    have hne : x ≠ y := by
      have hmem := (List.mem_filter.1 hy).2
      intro hxy
      simp [hxy] at hmem
    have hset : ctxAt (setCtx t y { ctxAt t y with halt := true }) x = ctxAt s x := (ctxAt_setCtx_other _ _ hne).trans ht
    split
    · exact hset
    · rw [toIdle_ctx_other _ hne, dropReplays_ctx_other _ hne, hset]

/-- A context has faulted with a code: it is torn down and holds no slot. -/
abbrev Faulted (t : State) (x code : Nat) : Prop :=
  (ctxAt t x).state = 4 ∧ (ctxAt t x).code = code ∧ (ctxAt t x).core = none

theorem Faulted.of_ctx {s t : State} {x code : Nat} (h : Faulted s x code) (e : ctxAt t x = ctxAt s x) : Faulted t x code := by
  unfold Faulted; rw [e]; exact h

theorem tearOne_faulted (s : State) (x code tag : Nat) : Faulted (tearOne s x code tag) x code := by
  unfold tearOne Faulted
  rw [ctxAt_setCtx_self]
  exact ⟨rfl, rfl, rfl⟩

/-- Nothing is to be settled for a function that is not being frozen. -/
theorem freezeSettle_of_not_freezing {s : State} {f : Nat} (h : (fnAt s f).freezing = false) : freezeSettle s f = s := by
  unfold freezeSettle
  dsimp only
  rw [h]
  rfl

/-- A group failed and its function told. -/
def groupTold (s : State) (x code tag : Nat) : State :=
  raiseMsix (failGroup (tearOne s x code tag) (ctxAt s x).group x code tag) (ctxAt s x).fn 2

theorem groupTold_faulted (s : State) (x code tag : Nat) : Faulted (groupTold s x code tag) x code := by
  refine (tearOne_faulted s x code tag).of_ctx ?_
  rw [groupTold, (raiseMsix_keeps (m := 2097152) (by decide) _ _ _ (Keeps.refl _ _)).ctxAt (by decide)]
  exact failGroup_ctx_self _ _ _ _ _

theorem groupTold_only (s : State) (x code tag : Nat) : Keeps 42951797764 s (groupTold s x code tag) :=
  raiseMsix_keeps (by decide) _ _ _ (failGroup_keeps (by decide) _ _ _ _ _ (tearOne_keeps (by decide) s _ _ _ (Keeps.refl _ s)))

/-- The teardown of a context whose function is not being frozen leaves it FAULTED. -/
theorem teardown_faulted {s : State} {x : Nat} (code tag : Nat) (h : (fnAt s (ctxAt s x).fn).freezing = false) :
    Faulted (teardown s x code tag) x code := by
  have hfr : (fnAt (groupTold s x code tag) (ctxAt s x).fn).freezing = false := by
    rw [(groupTold_only s x code tag).fnAt (by decide)]; exact h
  have heq : teardown s x code tag = match (ctxAt s x).core with
      | some n => retireSettle (groupTold s x code tag) n
      | none => groupTold s x code tag := by
    rw [← freezeSettle_of_not_freezing hfr]; rfl
  rw [heq]
  split
  · exact (groupTold_faulted s x code tag).of_ctx
      ((retireSettle_keeps (m := 60129545220) (by decide) _ _ (Keeps.refl _ _)).ctxAt (by decide) x)
  · exact groupTold_faulted s x code tag

/-- What is recorded of a fault before the teardown leaves every context and every function set. -/
theorem teardown_faulted_of_keeps {m : Nat} {s t : State} {x : Nat} (code tag : Nat) (hk : Keeps m s t)
    (hx : m.testBit Part.ctxs.idx = false) (hf : m.testBit Part.fns.idx = false)
    (h : (fnAt s (ctxAt s x).fn).freezing = false) : Faulted (teardown t x code tag) x code := by
  refine teardown_faulted code tag ?_
  rw [hk.ctxAt hx, hk.fnAt hf]
  exact h

theorem ctxFault_faulted {s : State} (n : Nat) {x : Nat} (stream code : Nat) (cmd : BitVec 256)
    (h : (fnAt s (ctxAt s x).fn).freezing = false) : Faulted (ctxFault s n x stream code cmd) x code :=
  teardown_faulted_of_keeps (m := 42949673988) code _
    (journal_keeps (by decide) _ _ (trace_keeps (by decide) s _ _ _ _ _ _ _ _ (Keeps.refl _ s))) (by decide) (by decide) h

/-- Only the causes of R346 are replayed. -/
theorem mayReplay_guardExceeded (s : State) (l : List Inflight) : mayReplay s Code.guardExceeded l = false := by
  simp [mayReplay]

theorem cmdFault_guardExceeded {s : State} (n : Nat) {x : Nat} {f : Inflight} (detail : Nat) (hr : f.replay = none)
    (h : (fnAt s (ctxAt s x).fn).freezing = false) :
    Faulted (cmdFault s n x f Code.guardExceeded detail) x Code.guardExceeded := by
  unfold cmdFault
  dsimp only
  rw [hr, mayReplay_guardExceeded]
  exact teardown_faulted_of_keeps (m := 42949673988) _ _
    (forEach_keeps (by decide) _ _ _ (fun t g ht => journal_keeps (by decide) t _ ht)
      (trace_keeps (by decide) s _ _ _ _ _ _ _ _ (Keeps.refl _ s))) (by decide) (by decide) h

/-! ## The held time and the tenant bound (06_core_streams.md R141; 03_calendar.md R64) -/

theorem heldTimeout_faults {s : State} {n c : Nat} (ha : accumHeld s n = s) (hr : (coreAt s n).run = some c)
    (hh : allHeld s n c = true) (ht : 1000000 ≤ heldTime s n c) : heldTimeout s n =
      ctxFault s n ((coreAt s n).slot c).ctx (heldCmd s n c).1 Code.syncCycle (heldCmd s n c).2 := by
  simp only [heldTimeout, ha, hr, hh, ht, and_self, if_true]

/-- The command whose bound has run out is the one in flight. -/
theorem boundExpiry_eq {s : State} {n b : Nat} {f : Inflight} (ha : accumHeld s n = s) (hf : (coreAt s n).fly = [f])
    (hb : f.bound = some b) (hd : f.issuedAt + b ≤ nowNs s) : boundExpiry s n f.stream =
      if f.stream = 3 ∧ (sigAt s n).rep ≠ 0 then
        setCore s n { coreAt s n with sig := { sigAt s n with late := true } }
      else accumHeld (cmdFault s n ((coreAt s n).slot f.slot).ctx f Code.guardExceeded 0) n := by
  simp [boundExpiry, sigAt, ha, hf, hb, hd]

theorem exec_heldTimeout (s : State) (n : Nat) : exec (.heldTimeout n) s = .next (heldTimeout s n) := rfl
theorem exec_tenantBoundExpiry (s : State) (n st : Nat) : exec (.tenantBoundExpiry n st) s = .next (boundExpiry s n st) := rfl

/-! ## The read of a waited word (07_hallmark.md R189) -/

/-- A fold in which no step changes the state changes nothing. -/
theorem forEach_idle {α : Type} {f : State → α → State} {s : State} {l : List α} (h : ∀ a ∈ l, f s a = s) : forEach l f s = s :=
  List.foldlRecOn (motive := fun t => t = s) l f rfl (fun t ht a ha => by rw [ht, h a ha])

/-- A fold in which one step alone changes the state is that step. -/
theorem forEach_single {α : Type} {f : State → α → State} {s : State} {a : α} {l : List α} (hd : l.Nodup) (ha : a ∈ l)
    (hs : ∀ b ∈ l, b ≠ a → f s b = s) (ht : ∀ b ∈ l, b ≠ a → f (f s a) b = f s a) : forEach l f s = f s a := by
  induction l with
  | nil => exact absurd ha List.not_mem_nil
  | cons b l ih =>
    obtain ⟨hb, hl⟩ := List.nodup_cons.1 hd
    have hcons : forEach (b :: l) f s = forEach l f (f s b) := rfl
    rw [hcons]
    by_cases hba : b = a
    · subst hba
      exact forEach_idle fun e he => ht e (List.mem_cons_of_mem _ he) fun heb => hb (heb ▸ he)
    · rw [hs b List.mem_cons_self hba]
      exact ih hl ((List.mem_cons.1 ha).resolve_left (Ne.symm hba)) (fun e he => hs e (List.mem_cons_of_mem _ he))
        (fun e he => ht e (List.mem_cons_of_mem _ he))

/-- A command in flight whose units have ended takes no step. -/
theorem unitStep_done {s : State} {n uid : Nat} {f : Inflight} (h : flyAt s n uid = some f) (hu : f.units ≤ f.unit) :
    unitStep s n uid = (s, false) := by
  unfold unitStep
  rw [h]
  dsimp only
  rw [if_neg (by omega), if_pos (Or.inl hu)]

/-- No unit is left for a core to run. -/
theorem runFly_unitsDone {s : State} {n : Nat} (h : unitsDone s n) : runFly s n = s := by
  refine forEach_idle fun f _ => ?_
  split
  · next g hg =>
    have hu : g.units ≤ g.unit := h g (List.mem_of_find?_eq_some hg)
    rw [Nat.sub_eq_zero_of_le hu]
    unfold runOne
    rw [unitStep_done hg hu]
    rfl
  · rfl

/-- A stream with the word that it waits for read at a time. -/
def Stream.took (t : Stream) (now w : Nat) : Stream := { t with poll := now, word := some w }

/-- The word that stream 0 of a context waits for, read now. -/
def wordTaken (s : State) (x w : Nat) : State :=
  setCtx s x { ctxAt s x with live := (ctxAt s x).live.setStream 0 (((ctxAt s x).live.stream 0).took (nowNs s) w) }

section
variable (s : State) (x w z u : Nat)

/-- What a context is, its streams apart, does not depend on the word read. -/
theorem ctxAt_wordTaken : ctxAt (wordTaken s x w) z = { ctxAt s z with live := (ctxAt (wordTaken s x w) z).live } := by
  unfold wordTaken
  rw [ctxAt_setCtx]
  split
  · next h => rw [h]
  · rfl

theorem tokens_wordTaken : (ctxAt (wordTaken s x w) z).live.tokens = (ctxAt s z).live.tokens := by
  unfold wordTaken
  rw [ctxAt_setCtx]
  split
  · next h => rw [h]; rfl
  · rfl

theorem stream_wordTaken : (ctxAt (wordTaken s x w) z).live.stream u =
    if z = x ∧ u = 0 then ((ctxAt s x).live.stream 0).took (nowNs s) w else
      (ctxAt s z).live.stream u := by
  unfold wordTaken
  rw [ctxAt_setCtx]
  by_cases hz : z = x
  · rw [if_pos hz, Pointers.stream_setStream, hz]
    simp
  · rw [if_neg hz, if_neg (fun h => hz h.1)]

@[simp] theorem img_wordTaken : (ctxAt (wordTaken s x w) z).img = (ctxAt s z).img := by rw [ctxAt_wordTaken]
@[simp] theorem job_wordTaken : (ctxAt (wordTaken s x w) z).job = (ctxAt s z).job := by rw [ctxAt_wordTaken]
@[simp] theorem state_wordTaken : (ctxAt (wordTaken s x w) z).state = (ctxAt s z).state := by rw [ctxAt_wordTaken]
@[simp] theorem halt_wordTaken : (ctxAt (wordTaken s x w) z).halt = (ctxAt s z).halt := by rw [ctxAt_wordTaken]
@[simp] theorem fn_wordTaken : (ctxAt (wordTaken s x w) z).fn = (ctxAt s z).fn := by rw [ctxAt_wordTaken]
@[simp] theorem replays_wordTaken : (ctxAt (wordTaken s x w) z).replays = (ctxAt s z).replays := by rw [ctxAt_wordTaken]

@[simp] theorem parked_wordTaken : ((ctxAt (wordTaken s x w) z).live.stream u).parked = ((ctxAt s z).live.stream u).parked := by
  rw [stream_wordTaken]
  split
  · next h => rw [h.1, h.2]; rfl
  · rfl

@[simp] theorem dynLeft_wordTaken : ((ctxAt (wordTaken s x w) z).live.stream u).dynLeft = ((ctxAt s z).live.stream u).dynLeft := by
  rw [stream_wordTaken]
  split
  · next h => rw [h.1, h.2]; rfl
  · rfl

@[simp] theorem dynq_wordTaken : ((ctxAt (wordTaken s x w) z).live.stream u).dynq = ((ctxAt s z).live.stream u).dynq := by
  rw [stream_wordTaken]
  split
  · next h => rw [h.1, h.2]; rfl
  · rfl

@[simp] theorem pc_wordTaken : ((ctxAt (wordTaken s x w) z).live.stream u).pc = ((ctxAt s z).live.stream u).pc := by
  rw [stream_wordTaken]
  split
  · next h => rw [h.1, h.2]; rfl
  · rfl

variable (n : Nat)

@[simp] theorem coreAt_wordTaken : coreAt (wordTaken s x w) n = coreAt s n := coreAt_congr (setCtx_cores ..) n
@[simp] theorem fnAt_wordTaken : fnAt (wordTaken s x w) n = fnAt s n := fnAt_congr (setCtx_fns ..) n
@[simp] theorem mems_wordTaken : (wordTaken s x w).mems = s.mems := setCtx_mems ..
@[simp] theorem cal_wordTaken : (wordTaken s x w).cal = s.cal := setCtx_cal ..
@[simp] theorem fab_wordTaken : (wordTaken s x w).fab = s.fab := setCtx_fab ..
@[simp] theorem jr_wordTaken : (wordTaken s x w).jr = s.jr := setCtx_jr ..
@[simp] theorem clTok_wordTaken : (wordTaken s x w).clTok = s.clTok := setCtx_clTok ..
@[simp] theorem get_wordTaken (f : Fld) (i k : Nat) : (wordTaken s x w).get f i k = s.get f i k := setCtx_get ..
@[simp] theorem nowNs_wordTaken : nowNs (wordTaken s x w) = nowNs s := by unfold nowNs wordTaken; rw [setCtx_clk]

/-! What the poll of another stream asks of the state is what it was before the word was read. -/

variable (c : Nat) (h : Head)

theorem headOf_wordTaken : headOf (wordTaken s x w) n c u = headOf s n c u := by
  simp [headOf, replaysOn, repAt, fetchCmd]

theorem groupBegun_wordTaken (i : Nat) : groupBegun (wordTaken s x w) n c i = groupBegun s n c i := by simp [groupBegun]

theorem tokenMet_wordTaken (d : BitVec 256) :
    tokenMet (wordTaken s x w) n (ctxAt (wordTaken s x w) z) d = tokenMet s n (ctxAt s z) d := by
  have hcount : waitCount (wordTaken s x w) n (ctxAt (wordTaken s x w) z) d = waitCount s n (ctxAt s z) d := by
    simp [waitCount, clTokAt, Pointers.token, tokens_wordTaken]
  unfold tokenMet
  rw [hcount]

theorem tenantWait_wordTaken (d : BitVec 256) : tenantWait (ctxAt (wordTaken s x w) z) d = tenantWait (ctxAt s z) d := by
  simp [tenantWait]

theorem headP0_wordTaken (y : Slot) : headP0 (wordTaken s x w) n y h = headP0 s n y h := by simp [headP0, fetchLoop]

theorem isRemote_wordTaken (sp a : Nat) : isRemote (wordTaken s x w) sp a = isRemote s sp a := by simp [isRemote, ownNode]

theorem mayRun_wordTaken : mayRun (wordTaken s x w) n c = mayRun s n c := by
  simp [mayRun, coreAllotted, frozen, State.bit]

theorem heldCounts_wordTaken : heldCounts (wordTaken s x w) n c = heldCounts s n c := by
  simp [heldCounts, isHalted, gateOpen, coreGates]

theorem wordAsked_wordTaken : wordAsked (wordTaken s x w) z u = wordAsked s z u := by
  simp [wordAsked]

/-- A word read now is not read again for 250 ns. -/
theorem wordDue_wordTaken_self (hx : ((coreAt s n).slot c).ctx = x) : wordDue (wordTaken s x w) n c 0 h = false := by
  have hstream : (ctxAt (wordTaken s x w) x).live.stream 0 = ((ctxAt s x).live.stream 0).took (nowNs s) w := by
    rw [stream_wordTaken, if_pos ⟨rfl, rfl⟩]
  unfold wordDue
  dsimp only
  rw [coreAt_wordTaken, hx, hstream, nowNs_wordTaken]
  simp [Stream.took]

/-- The word at another head is due to be read as before: a word at hand in the core's own memory is never due. -/
theorem wordDue_wordTaken_other (hx : ¬(((coreAt s n).slot c).ctx = x ∧ u = 0)) :
    wordDue (wordTaken s x w) n c u h = wordDue s n c u h := by
  have hstream : (ctxAt (wordTaken s x w) ((coreAt s n).slot c).ctx).live.stream u =
      (ctxAt s ((coreAt s n).slot c).ctx).live.stream u := by rw [stream_wordTaken, if_neg hx]
  have hmet (hw : headWord (wordTaken s x w) n c u h = headWord s n c u h) :
      waitMet (wordTaken s x w) n c u h = waitMet s n c u h := by
    simp only [waitMet, groupBegun_wordTaken, tokenMet_wordTaken, tenantWait_wordTaken, coreAt_wordTaken, hw]
  by_cases hrun : (coreAt s n).run = some c
  · have hword : headWord (wordTaken s x w) n c u h = headWord s n c u h := by
      simp [headWord, hstream, hrun]
    simp [wordDue, hmet hword, tenantWait_wordTaken, wordAsked_wordTaken, heldCounts_wordTaken, hstream, hrun]
  · by_cases hrem : isRemote s (accOf h.cmd).sp0 (headP0 s n ((coreAt s n).slot c) h) = true
    · have hword : headWord (wordTaken s x w) n c u h = headWord s n c u h := by
        simp [headWord, hstream, isRemote_wordTaken, headP0_wordTaken, hrem]
      simp [wordDue, hmet hword, tenantWait_wordTaken, wordAsked_wordTaken, mayRun_wordTaken, isRemote_wordTaken,
        headP0_wordTaken, hstream, hrun]
    · simp [wordDue, isRemote_wordTaken, headP0_wordTaken, hrun, hrem]

end

/-- The word at a head in local memory that may be read, and is not poisoned, is read at once. -/
theorem readHeadWord_local {s : State} {n c : Nat} {h : Head}
    (hrem : isRemote s (accOf h.cmd).sp0 (headP0 s n ((coreAt s n).slot c) h) = false)
    (hcode : rangeCode s (rightsOf (ctxAt s ((coreAt s n).slot c).ctx) (mkFly s n c 0 h)) none (accOf h.cmd).sp0
      (headP0 s n ((coreAt s n).slot c) h) 4 false = Code.done)
    (hclean : ((localBytes s n (accOf h.cmd).sp0 (headP0 s n ((coreAt s n).slot c) h) 4).any (·.2)) = false) :
    readHeadWord s n c 0 h = wordTaken s ((coreAt s n).slot c).ctx
      (leNat ((localBytes s n (accOf h.cmd).sp0 (headP0 s n ((coreAt s n).slot c) h) 4).map (·.1))) := by
  unfold readHeadWord
  dsimp only
  rw [if_neg (not_not_intro hcode), if_neg (by simp [hrem]), if_neg (by simp [hrem]), if_neg (by simp [hclean])]
  rfl

/-- The poll of the head of one stream of a core: stream i % 4 of slot i / 4. -/
def pollStep (n : Nat) (s : State) (i : Nat) : State :=
  match headOf s n (i / 4) (i % 4) with
  | some h => if wordDue s n (i / 4) (i % 4) h then readHeadWord s n (i / 4) (i % 4) h else s
  | none => s

theorem waitMemPoll_eq (s : State) (n : Nat) : waitMemPoll s n =
    accumHeld (runFly (forEach (List.range 16) (pollStep n) (accumHeld s n)) n) n := rfl

theorem pollStep_idle {s : State} {n i : Nat}
    (h : ∀ k, headOf s n (i / 4) (i % 4) = some k → wordDue s n (i / 4) (i % 4) k = false) : pollStep n s i = s := by
  unfold pollStep
  split
  · next k hk => rw [h k hk]; rfl
  · rfl

theorem pollStep_reads {s : State} {n c : Nat} {h : Head} (hh : headOf s n c 0 = some h) (hd : wordDue s n c 0 h = true) :
    pollStep n s (4 * c) = readHeadWord s n c 0 h := by
  have hc : 4 * c / 4 = c := by omega
  have h0 : 4 * c % 4 = 0 := by omega
  unfold pollStep
  rw [hc, h0, hh]
  exact if_pos hd

/-- Where one word alone is due, it alone is read. -/
theorem waitMemPoll_reads {s : State} {n c w : Nat} {h : Head} (ha : accumHeld s n = s) (hu : unitsDone s n) (hc : c < 4)
    (hh : headOf s n c 0 = some h) (hd : wordDue s n c 0 h = true)
    (hothers : ∀ d u k, (d, u) ≠ (c, 0) → headOf s n d u = some k → wordDue s n d u k = false)
    (hread : readHeadWord s n c 0 h = wordTaken s ((coreAt s n).slot c).ctx w) :
    waitMemPoll s n = accumHeld (wordTaken s ((coreAt s n).slot c).ctx w) n := by
  have hstep : pollStep n s (4 * c) = wordTaken s ((coreAt s n).slot c).ctx w := (pollStep_reads hh hd).trans hread
  have hplace {i : Nat} (hi : i ≠ 4 * c) : (i / 4, i % 4) ≠ (c, 0) := by
    simp only [ne_eq, Prod.mk.injEq, not_and]; omega
  have hpoll : forEach (List.range 16) (pollStep n) s = pollStep n s (4 * c) := by
    refine forEach_single List.nodup_range (List.mem_range.2 (by omega))
      (fun i _ hi => pollStep_idle fun k hk => hothers _ _ k (hplace hi) hk) (fun i _ hi => pollStep_idle fun k hk => ?_)
    rw [hstep] at hk ⊢
    rw [headOf_wordTaken] at hk
    by_cases hx : ((coreAt s n).slot (i / 4)).ctx = ((coreAt s n).slot c).ctx ∧ i % 4 = 0
    · rw [hx.2]; exact wordDue_wordTaken_self _ _ _ _ _ _ hx.1
    · rw [wordDue_wordTaken_other _ _ _ _ _ _ _ hx]
      exact hothers _ _ k (hplace hi) hk
  rw [waitMemPoll_eq, ha, hpoll, hstep, runFly_unitsDone]
  exact fun f hf => hu f (by rwa [coreAt_wordTaken] at hf)

theorem exec_waitMemPoll (s : State) (n : Nat) : exec (.waitMemPoll n) s = .next (waitMemPoll s n) := rfl

/-! ## A gate change reaches a core (03_calendar.md R61) -/

/-- The sequencer once the next gate change on its way to a core has arrived. -/
def gateArrived (c : CalSeq) (n : Nat) (m : GateMsg) (rest : List GateMsg) : CalSeq := { c with
  atCore := mapPut (fun _ => Gate.maint) c.atCore n m.gates
  path := mapPut (fun _ => []) c.path n rest }

/-- What a gate change sets off at a core: late HARD or FIRM commands counted, HARD commands dropped, MAINT commands aborted
(R66, R69). -/
def gateFollowed (s : State) (n : Nat) (late shutHard shutMaint : Bool) : State :=
  let a := if late then hardLate s n else s
  let b := if shutHard then forEach (List.range 4) (dropHard n) a else a
  accumHeld (lanternTurn (if shutMaint then abortMaint b n else b) n) n

/-- None of it changes the sequencer. -/
theorem gateFollowed_cal (s : State) (n : Nat) (late shutHard shutMaint : Bool) :
    (gateFollowed s n late shutHard shutMaint).cal = s.cal := by
  have hlate : Keeps 60140121092 s (if late then hardLate s n else s) :=
    ite_keeps (hardLate_keeps (by decide) s n (Keeps.refl _ s)) (Keeps.refl _ s)
  have hdrop : Keeps 60140121092 s (if shutHard then forEach (List.range 4) (dropHard n) (if late then hardLate s n else s)
      else if late then hardLate s n else s) :=
    ite_keeps (forEach_keeps (by decide) _ _ _ (fun t c ht => dropHard_keeps (by decide) n t c ht) hlate) hlate
  exact (accumHeld_keeps (by decide) _ n
    (lanternTurn_keeps (by decide) _ n (ite_keeps (abortMaint_keeps (by decide) _ n hdrop) hdrop))).2 .cal (by decide)

theorem gateReach_eq {s : State} {n : Nat} {m : GateMsg} {rest : List GateMsg} (hp : gatePath s n = m :: rest)
    (hd : m.due ≤ s.clk.elapsed) : ∃ shutHard shutMaint, gateReach s n = gateFollowed
      ((lanternTurn (accumHeld s n) n).withCal (gateArrived (lanternTurn (accumHeld s n) n).cal n m rest)) n
      m.hardOpen shutHard shutMaint := by
  unfold gateReach
  rw [hp]
  dsimp only
  rw [if_neg (Nat.not_lt.2 hd)]
  exact ⟨_, _, rfl⟩

theorem gateReach_cal {s : State} {n : Nat} {m : GateMsg} {rest : List GateMsg} (hp : gatePath s n = m :: rest)
    (hd : m.due ≤ s.clk.elapsed) : (gateReach s n).cal = gateArrived s.cal n m rest := by
  have hcal : (lanternTurn (accumHeld s n) n).cal = s.cal :=
    (lanternTurn_keeps (m := 2052) (by decide) _ _ (accumHeld_only s n)).2 .cal (by decide)
  obtain ⟨shutHard, shutMaint, heq⟩ := gateReach_eq hp hd
  rw [heq, gateFollowed_cal, withCal_cal, hcal]

theorem exec_gateReachCore {n : Nat} (hn : n < 128) (s : State) : exec (.gateReachCore n) s = .next (gateReach s n) :=
  congrArg Host.Outcome.next (if_pos hn)

/-- Settles O20: a switch, a fault, a read and an arrival each leave what they name, and what follows them touches none of it. -/
theorem coreSwitches : Obligations.CoreSwitches := by
  refine ⟨fun s n c ha hf hm hb hr => ?_, fun s n c ha hr hh ht hfr => ?_,
    fun s n st b f ha hf hst hb hd => ⟨fun h3 hrep => ?_, fun hno hrp hfr => ?_⟩,
    fun s n c h ha hu hc hrun hh hd hothers hrem hcode hclean => ?_, fun s n m rest hn hp hd => ?_⟩
  · refine acts_of_exec (exec_contextSwitch s n) ?_
    rw [contextSwitch_switches ha hf hm hb hr]
    intro k fn
    have hleft := runLeft_only s n
    have hmem := memoriesFor_only (runLeft s n) n k.lastFn fn
    have htaken := runTaken_only (memoriesFor (runLeft s n) n k.lastFn fn) n c fn (k.slot c).ctx
    obtain ⟨hnow, hlast⟩ := runTaken_run (memoriesFor (runLeft s n) n k.lastFn fn) n c fn (k.slot c).ctx
    refine ⟨hnow, hlast, fun d hrund => ?_, ?_⟩
    · rw [htaken.ctxAt (by decide), hmem.ctxAt (by decide)]
      exact runLeft_saved hrund
    · exact (htaken.2 .mems (by decide)).trans (memoriesFor_mems (hleft.2 .mems (by decide)) n _ _)
  · refine acts_of_exec (exec_heldTimeout s n) ?_
    rw [heldTimeout_faults ha hr hh ht]
    exact ctxFault_faulted n _ _ _ hfr
  · subst hst
    refine acts_of_exec (exec_tenantBoundExpiry s n f.stream) ?_
    rw [boundExpiry_eq ha hf hb hd, if_pos ⟨h3, hrep⟩]
    refine ⟨by simp [sigAt], by simp [hf], setCore_ctxs .., setCore_mems ..⟩
  · subst hst
    refine acts_of_exec (exec_tenantBoundExpiry s n f.stream) ?_
    rw [boundExpiry_eq ha hf hb hd, if_neg hno]
    exact (cmdFault_guardExceeded n 0 hrp hfr).of_ctx ((accumHeld_only _ n).ctxAt (by decide) _)
  · refine acts_of_exec (exec_waitMemPoll s n) ?_
    rw [waitMemPoll_reads ha hu hc hh hd hothers (readHeadWord_local hrem hcode hclean), (accumHeld_only _ n).ctxAt (by decide),
      (accumHeld_only _ n).2 .mems (by decide), stream_wordTaken, if_pos ⟨rfl, rfl⟩]
    exact ⟨rfl, mems_wordTaken s _ _, rfl⟩
  · refine acts_of_exec (exec_gateReachCore hn s) ?_
    simp only [coreGates, gatePath, gateReach_cal hp hd, gateArrived]
    exact ⟨mapGet_put_self _ _ _ _, mapGet_put_self _ _ _ _,
      fun o ho => ⟨mapGet_put_other _ _ _ ho, mapGet_put_other _ _ _ ho⟩⟩

end Sys2Proof.Machine
end

section
/-! PROOFS. The matrix array: its starts, tests and stops, the end of its self-test, and the Lantern's level
(04_matrix_array.md R95 to R109). -/

namespace Sys2Proof.Machine

/-! ## The array's function state as fields of its status register -/

theorem arrState_eq (s : State) (n : Nat) : arrState s n = s.get CORE_ARR_STATUS.STATE n := rfl

theorem setArrState_eq (s : State) (n v : Nat) : setFnState s (arrFn n) v = s.set CORE_ARR_STATUS.STATE v n := rfl

theorem setArrCode_eq (s : State) (n c : Nat) : setFnCode s (arrFn n) c = s.set CORE_ARR_STATUS.FAULT_CODE c n := rfl

theorem faultArr_eq (s : State) (n c : Nat) : faultFn s (arrFn n) c =
    (s.set CORE_ARR_STATUS.FAULT_CODE c n).set CORE_ARR_STATUS.STATE Fn.faulted n := rfl

theorem level_lt (s : State) (n : Nat) : level s n < 16 := get_lt s CORE_ARR_LANTERN.LEVEL n 0

/-! ## The array's record replaced -/

section
variable (s : State) (n : Nat) (a : Arr) (f : Fld) (v i k : Nat)

@[simp] theorem coreAt_set (m : Nat) : coreAt (s.set f v i k) m = coreAt s m := coreAt_congr (State.set_cores ..) m
@[simp] theorem arrAt_set : arrAt (s.set f v i k) n = arrAt s n := congrArg Core.arr (coreAt_set ..)
@[simp] theorem cycleNow_set : cycleNow (s.set f v i k) = cycleNow s := by unfold cycleNow; rw [State.set_clk]
@[simp] theorem coreAt_setArr : coreAt (setArr s n a) n = { coreAt s n with arr := a } := coreAt_setCore ..
@[simp] theorem arrAt_setArr : arrAt (setArr s n a) n = a := congrArg Core.arr (coreAt_setArr ..)
@[simp] theorem setArr_rdReg (o : Nat) : rdReg (setArr s n a) o = rdReg s o := setCore_rdReg ..
@[simp] theorem setArr_get : (setArr s n a).get f i k = s.get f i k := setCore_get ..
@[simp] theorem setArr_arrState : arrState (setArr s n a) i = arrState s i := setArr_get ..
@[simp] theorem setArr_level : level (setArr s n a) i = level s i := setArr_get ..

theorem setArr_regsBut (l : List Nat) : regsBut l s (setArr s n a) := fun o _ => setArr_rdReg s n a o

end

/-! ## Fills and passes counted, and the level set (R102, R109) -/

/-- An array's record with fills and passes counted up to a cycle. -/
def Arr.countedTo (a : Arr) (c : Nat) : Arr :=
  { a with fillMark := max c a.fillMark, plan := a.plan.filter (fun p => decide (c < p.done)) }

/-- The registers in which counting shows. -/
abbrev fillRegs (n : Nat) : List Nat := [CORE_ARR_FILL_COUNT.addr n, CORE_ARR_PASS_COUNT.addr n]

/-- The registers in which a step of the Lantern shows. -/
abbrev lanternRegs (n : Nat) : List Nat := CORE_ARR_LANTERN.LEVEL.addr n :: fillRegs n

theorem countFill_eq (s : State) (n c : Nat) : countFill s n c =
    setArr ((s.bump CORE_ARR_FILL_COUNT n 0 (fillSince s n c)).bump CORE_ARR_PASS_COUNT n 0 (passesBy s n c)) n
      ((arrAt s n).countedTo c) := rfl

section
variable (s : State) (n c l : Nat)

theorem countFill_only : Keeps 2052 s (countFill s n c) := countFill_keeps (by decide) s n c (Keeps.refl _ s)

@[simp] theorem countFill_behaveReset : (countFill s n c).behaveReset = s.behaveReset :=
  (countFill_only s n c).2 .behaveReset (by decide)
@[simp] theorem countFill_clk : (countFill s n c).clk = s.clk := (countFill_only s n c).2 .clk (by decide)

@[simp] theorem coreAt_countFill :
    coreAt (countFill s n c) n = { coreAt s n with arr := (arrAt s n).countedTo c } := by
  simp [countFill_eq, State.bump]


theorem countFill_regsBut : regsBut (fillRegs n) s (countFill s n c) := by
  rw [countFill_eq]
  exact regsBut_trans (regsBut_trans (set_regsBut_mem s CORE_ARR_FILL_COUNT _ n 0 (by simp))
    (set_regsBut_mem _ CORE_ARR_PASS_COUNT _ n 0 (by simp))) (setArr_regsBut _ _ _ _)

/-- Counting leaves every field outside the two counts. -/
theorem countFill_get (f : Fld) (h : f.addr n ∉ fillRegs n) : (countFill s n c).get f n = s.get f n :=
  get_of_regsBut (countFill_regsBut s n c) f n 0 h

theorem setLevel_eq : setLevel s n l = (countFill s n (cycleNow s)).set CORE_ARR_LANTERN.LEVEL l n := rfl

@[simp] theorem setLevel_behaveReset : (setLevel s n l).behaveReset = s.behaveReset := by simp [setLevel_eq]

@[simp] theorem coreAt_setLevel :
    coreAt (setLevel s n l) n = { coreAt s n with arr := (arrAt s n).countedTo (cycleNow s) } := by simp [setLevel_eq]

@[simp] theorem arrAt_setLevel : arrAt (setLevel s n l) n = (arrAt s n).countedTo (cycleNow s) :=
  congrArg Core.arr (coreAt_setLevel ..)

theorem level_setLevel (hb : s.behaveReset = []) (hl : l < 16) : level (setLevel s n l) n = l := by
  rw [setLevel_eq, level, get_set_self _ _ _ _ _ (by simpa using hb) (by decide)]
  exact Nat.mod_eq_of_lt hl

theorem setLevel_regsBut : regsBut (lanternRegs n) s (setLevel s n l) :=
  regsBut_trans (regsBut_mono (countFill_regsBut s n _) (by simp))
    (set_regsBut_mem _ CORE_ARR_LANTERN.LEVEL l n 0 (by simp))

/-- A level set leaves every field outside the level and the two counts. -/
theorem setLevel_get (f : Fld) (h : f.addr n ∉ lanternRegs n) : (setLevel s n l).get f n = s.get f n :=
  get_of_regsBut (setLevel_regsBut s n l) f n 0 h

@[simp] theorem setLevel_arrState : arrState (setLevel s n l) n = arrState s n :=
  setLevel_get s n l CORE_ARR_STATUS.STATE (by simp [Fld.addr])

end

/-! ## What each command executes -/

theorem exec_arrStart {n : Nat} (hn : n < 128) (s : State) : exec (.arrStart n) s = .next (arrStart s n) :=
  congrArg Host.Outcome.next (if_pos hn)
theorem exec_arrTest {n : Nat} (hn : n < 128) (s : State) : exec (.arrTest n) s = .next (arrTest s n) :=
  congrArg Host.Outcome.next (if_pos hn)
theorem exec_arrStop {n : Nat} (hn : n < 128) (s : State) : exec (.arrStop n) s = .next (arrStop s n) :=
  congrArg Host.Outcome.next (if_pos hn)
theorem exec_selfTestEnd (s : State) (n : Nat) (rowFail : Word) (standby : Bool) (sig : BitVec 64) :
    exec (.selfTestEnd n rowFail standby sig) s = .next (selfTestEnd s n rowFail standby sig) := rfl
theorem exec_arrayStopDone (s : State) (n : Nat) : exec (.arrayStopDone n) s = .next (arrStopDone s n) := rfl

/-! ## START and TEST (R99, R105, R106) -/

theorem startInDomain_on {s : State} {d : Nat} {f : State → State} (h : domOn s d = true) : startInDomain s d f = f s :=
  if_pos h

theorem startInDomain_off {s : State} {d : Nat} {f : State → State} (h : domOn s d = false) :
    startInDomain s d f = s.bump PWR_START_IGNORED := if_neg (by simp [h])

/-- The two counts cleared, as START does (R109). -/
def countsCleared (s : State) (n : Nat) : State := (s.set CORE_ARR_PASS_COUNT 0 n).set CORE_ARR_FILL_COUNT 0 n

section
variable {s : State} {n : Nat} (hst : arrState s n = Fn.stopped)
include hst

theorem arrStart_stopped : arrStart s n = startInDomain s n (fun s =>
    if parityHeld s (arrFn n) then faultFn s (arrFn n) Code.configParity
    else takeRepair (setFnState (countsCleared s n) (arrFn n) Fn.starting) n false) := if_pos hst

theorem arrTest_stopped : arrTest s n = startInDomain s n (fun s =>
    if parityHeld s (arrFn n) then faultFn s (arrFn n) Code.configParity
    else takeRepair (setFnState s (arrFn n) Fn.starting) n true) := if_pos hst

theorem arrStart_begins (hu : s.upset = []) (hd : domOn s n = true) :
    arrStart s n = takeRepair (setFnState (countsCleared s n) (arrFn n) Fn.starting) n false := by
  rw [arrStart_stopped hst, startInDomain_on hd, if_neg (by simp [parityHeld_sound _ _ hu])]

theorem arrTest_begins (hu : s.upset = []) (hd : domOn s n = true) :
    arrTest s n = takeRepair (setFnState s (arrFn n) Fn.starting) n true := by
  rw [arrTest_stopped hst, startInDomain_on hd, if_neg (by simp [parityHeld_sound _ _ hu])]

/-- START and TEST in a domain that is off are the same: counted, nothing else (16_modes.md R391). -/
theorem arrBegin_ignored {i : Instr} (hn : n < 128) (hi : i ∈ [Instr.arrStart n, .arrTest n]) (hd : domOn s n = false) :
    exec i s = .next (s.bump PWR_START_IGNORED) := by
  simp only [List.mem_cons, List.not_mem_nil, or_false] at hi
  rcases hi with rfl | rfl
  · rw [exec_arrStart hn, arrStart_stopped hst, startInDomain_off hd]
  · rw [exec_arrTest hn, arrTest_stopped hst, startInDomain_off hd]

end

/-- The repair and the seed stand taken in t as they were written in s, in a run that began at s's cycle (R99, R105). -/
structure RepairTaken (s t : State) (n : Nat) (testing : Bool) : Prop where
  spare : t.get CORE_ARR_STATUS.SPARE_ACTIVE n = s.get CORE_ARR_REPAIR.EN n
  drain : t.get CORE_ARR_DRAIN_LAT n = 39 + s.get CORE_ARR_REPAIR.EN n
  row : (arrAt t n).repair = if s.get CORE_ARR_REPAIR.EN n = 1 then some (s.get CORE_ARR_REPAIR.ROW n) else none
  lfsr : (arrAt t n).lfsr.toNat = max 1 (s.get CORE_ARR_SEED n)
  since : (arrAt t n).since = some (cycleNow s)
  kind : (arrAt t n).testing = testing

/-- A seed of zero is taken as 1 (R105). -/
theorem seed_toNat (s : State) (n : Nat) :
    (BitVec.ofNat 64 (if s.get CORE_ARR_SEED n = 0 then 1 else s.get CORE_ARR_SEED n)).toNat =
      max 1 (s.get CORE_ARR_SEED n) := by
  have hlt : s.get CORE_ARR_SEED n < 2 ^ 32 := get_lt ..
  rw [BitVec.toNat_ofNat]
  split <;> omega

/-- The array's record once a run has taken the repair and the seed. -/
def runArr (s : State) (n : Nat) (testing : Bool) : Arr :=
  { arrAt s n with
    testing := testing, since := some (cycleNow s)
    repair := if s.get CORE_ARR_REPAIR.EN n = 1 then some (s.get CORE_ARR_REPAIR.ROW n) else none
    lfsr := BitVec.ofNat 64 (if s.get CORE_ARR_SEED n = 0 then 1 else s.get CORE_ARR_SEED n)
    dir := 1, mark := cycleNow s, fillMark := cycleNow s, plan := [] }

/-- Whether the repair is on or off, the spare row and the drain latency follow its enable bit. -/
theorem takeRepair_eq {s : State} (n : Nat) (testing : Bool) (hb : s.behaveReset = []) : takeRepair s n testing =
    setArr ((s.set CORE_ARR_STATUS.SPARE_ACTIVE (s.get CORE_ARR_REPAIR.EN n) n).set CORE_ARR_DRAIN_LAT
      (39 + s.get CORE_ARR_REPAIR.EN n) n) n (runArr s n testing) := by
  rcases get_one s CORE_ARR_REPAIR.EN n 0 rfl with h | h
  · simp [takeRepair, runArr, State.bit, h, get_set_apart, hb, Fld.addr]
  · simp [takeRepair, runArr, State.bit, h, get_set_apart, hb, Fld.addr]

theorem takeRepair_takes {s : State} (n : Nat) (testing : Bool) (hb : s.behaveReset = []) :
    RepairTaken s (takeRepair s n testing) n testing := by
  have hen : s.get CORE_ARR_REPAIR.EN n < 2 := get_lt s CORE_ARR_REPAIR.EN n 0
  rw [takeRepair_eq n testing hb]
  constructor
  case spare => simpa [get_set_apart, get_set_self, hb, Fld.addr] using Nat.mod_eq_of_lt hen
  case drain =>
    rw [setArr_get, get_set_self _ _ _ _ _ (by simpa using hb) (by decide)]
    exact Nat.mod_eq_of_lt (show 39 + s.get CORE_ARR_REPAIR.EN n < 64 by omega)
  case lfsr =>
    rw [arrAt_setArr]
    exact seed_toNat s n
  all_goals simp only [arrAt_setArr, runArr]

/-- A run has begun in t from s, with the counts of passes and fills that START or TEST left. -/
structure ArrayBegun (s t : State) (n : Nat) (testing : Bool) (passes fills : Nat) : Prop
    extends RepairTaken s t n testing where
  state : arrState t n = Fn.starting
  passes : t.get CORE_ARR_PASS_COUNT n = passes
  fills : t.get CORE_ARR_FILL_COUNT n = fills

/-- What a run takes is what stands written before START and TEST change the status and the counts. -/
theorem takeRepair_begun {s u : State} (n : Nat) (testing : Bool) (hb : u.behaveReset = [])
    (hr : regsBut (fillRegs n) s u) (hc : u.clk = s.clk) :
    ArrayBegun s (takeRepair (setFnState u (arrFn n) Fn.starting) n testing) n testing
      (u.get CORE_ARR_PASS_COUNT n) (u.get CORE_ARR_FILL_COUNT n) := by
  obtain ⟨hspare, hdrain, hrow, hlfsr, hsince, hkind⟩ :=
    takeRepair_takes (s := setFnState u (arrFn n) Fn.starting) n testing (by simpa using hb)
  have hsame (f : Fld) (hf : f.addr n ∉ arrFn n :: fillRegs n) :
      (setFnState u (arrFn n) Fn.starting).get f n = s.get f n :=
    get_of_regsBut (regsBut_trans (regsBut_mono hr (by simp)) (set_regsBut_mem u CORE_ARR_STATUS.STATE _ n 0 (by simp [arrFn])))
      f n 0 hf
  have hnow : cycleNow (setFnState u (arrFn n) Fn.starting) = cycleNow s := by simp [cycleNow, hc]
  rw [hsame _ (by simp [Fld.addr, arrFn])] at hspare hdrain hlfsr
  rw [hsame _ (by simp [Fld.addr, arrFn]), hsame _ (by simp [Fld.addr, arrFn])] at hrow
  refine ⟨⟨hspare, hdrain, hrow, hlfsr, hsince.trans (congrArg some hnow), hkind⟩, ?_, ?_, ?_⟩ <;>
    simp [takeRepair, arrState_eq, setArrState_eq, Fn.starting, get_set_apart, get_set_self, hb, Fld.addr]

section
variable {s : State} {n : Nat} (hs : s.sound) (hst : arrState s n = Fn.stopped) (hd : domOn s n = true)
include hs hst hd

theorem arrStart_begun : ArrayBegun s (arrStart s n) n false 0 0 := by
  have hregs : regsBut (fillRegs n) s (countsCleared s n) :=
    regsBut_trans (set_regsBut_mem s CORE_ARR_PASS_COUNT 0 n 0 (by simp))
      (set_regsBut_mem _ CORE_ARR_FILL_COUNT 0 n 0 (by simp))
  have hbegun := takeRepair_begun n false (by simpa [countsCleared] using hs.1) hregs (by simp [countsCleared])
  rw [arrStart_begins hst hs.2 hd]
  simpa [countsCleared, get_set_apart, get_set_self, hs.1, Fld.addr] using hbegun

theorem arrTest_begun :
    ArrayBegun s (arrTest s n) n true (s.get CORE_ARR_PASS_COUNT n) (s.get CORE_ARR_FILL_COUNT n) := by
  rw [arrTest_begins hst hs.2 hd]
  exact takeRepair_begun n true hs.1 (fun _ _ => rfl) rfl

end

/-! ## STOP (R104, R106) -/

theorem arrStop_stops {s : State} {n : Nat} (h : arrState s n = Fn.starting ∨ arrState s n = Fn.faulted ∨
    arrState s n = Fn.running ∧ gatesOf s n &&& 7 = 0) : arrStop s n = arrStopping s n := by
  unfold arrStop
  rcases h with h | h | ⟨h, hg⟩
  · simp [h]
  · simp [h]
  · simp [h, hg]

theorem arrStop_refused {s : State} {n : Nat} (h : arrState s n = Fn.running) (hg : gatesOf s n &&& 7 ≠ 0) :
    arrStop s n = s.set CORE_ARR_STATUS.STOP_REJECT 1 n := by
  simp [arrStop, h, hg]

theorem arrStopping_stopping {s : State} (n : Nat) (hb : s.behaveReset = []) :
    arrState (arrStopping s n) n = Fn.stopping ∧ (arrAt (arrStopping s n) n).testing = false ∧
      (arrAt (arrStopping s n) n).since = (if matrixInFlight (coreAt s n) = true then none else some (cycleNow s)) ∧
      (arrStopping s n).get CORE_ARR_STATUS.TEST_DONE n = s.get CORE_ARR_STATUS.TEST_DONE n ∧
      level (arrStopping s n) n = level s n := by
  simp [arrStopping, arrState_eq, level, setArrState_eq, Fn.stopping, matrixInFlight, cycleNow, countFill_get, get_set_apart,
    get_set_self, hb, Fld.addr]

/-! ## The end of a self-test (R97, R98) -/

/-- An ARRAY_CHECK that is not under way does nothing more (17_live_service.md R396). -/
theorem checkNext_none {s : State} {n : Nat} (h : (coreAt s n).check = 0) : checkNext s n = s := by
  simp only [checkNext, h]

/-- The self-test passed: the signature is that of ROM, and no row failed. -/
abbrev testPassed (rowFail : Word) (sig : BitVec 64) : Prop := sig = Config.romSignature ∧ rowFail = 0

/-- The self-test's results stand in t. -/
structure TestPublished (t : State) (n : Nat) (rowFail : Word) (standby : Bool) (sig : BitVec 64) : Prop where
  rows : t.get CORE_ARR_ROW_FAIL n = rowFail.toNat
  standby : t.get CORE_ARR_STATUS.STANDBY_FAIL n = standby.toNat
  signature : t.get CORE_ARR_SIG_HI n * 2 ^ 32 + t.get CORE_ARR_SIG_LO n = sig.toNat
  pass : t.get CORE_ARR_STATUS.TEST_PASS n = if testPassed rowFail sig then 1 else 0

/-- The fields in which a self-test's results stand. -/
abbrev testFlds : List Fld := [CORE_ARR_ROW_FAIL, CORE_ARR_STATUS.STANDBY_FAIL, CORE_ARR_SIG_LO, CORE_ARR_SIG_HI,
  CORE_ARR_STATUS.TEST_PASS]

section
variable {n : Nat} {rowFail : Word} {standby : Bool} {sig : BitVec 64}

theorem TestPublished.of_get {t u : State} (h : TestPublished t n rowFail standby sig)
    (hf : ∀ f ∈ testFlds, u.get f n = t.get f n) : TestPublished u n rowFail standby sig := by
  simp only [testFlds, List.forall_mem_cons] at hf
  obtain ⟨hrows, hstandby, hlo, hhi, hpass, -⟩ := hf
  exact ⟨hrows.trans h.rows, hstandby.trans h.standby, by rw [hlo, hhi]; exact h.signature, hpass.trans h.pass⟩

end

section
variable (s : State) (n : Nat) (rowFail : Word) (standby : Bool) (sig : BitVec 64)

@[simp] theorem publishTest_behaveReset : (publishTest s n rowFail standby sig).behaveReset = s.behaveReset := by
  simp [publishTest]
@[simp] theorem coreAt_publishTest (m : Nat) : coreAt (publishTest s n rowFail standby sig) m = coreAt s m :=
  (publishTest_keeps (m := 4) (by decide) s n rowFail standby sig (Keeps.refl _ s)).coreAt (by decide) m

theorem publishTest_published (hb : s.behaveReset = []) :
    TestPublished (publishTest s n rowFail standby sig) n rowFail standby sig := by
  have hrow := rowFail.isLt
  have hsig := sig.isLt
  constructor
  case pass =>
    rw [publishTest, get_set_self _ _ _ _ _ (by simpa using hb) (by decide)]
    simp only [Bool.and_eq_true, decide_eq_true_eq]
    split <;> rfl
  case standby => cases standby <;> simp [publishTest, get_set_apart, get_set_self, hb, Fld.addr]
  case rows => simpa [publishTest, State.set2, get_set_apart, get_set_self, hb, Fld.addr] using hrow
  case signature =>
    simp [publishTest, State.set2, get_set_apart, get_set_self, hb, Fld.addr]
    omega

/-- What publishing leaves. -/
theorem publishTest_leaves (hb : s.behaveReset = []) :
    (publishTest s n rowFail standby sig).get CORE_ARR_STATUS.TEST_DONE n = s.get CORE_ARR_STATUS.TEST_DONE n ∧
      level (publishTest s n rowFail standby sig) n = level s n := by
  simp [publishTest, level, State.set2, get_set_apart, hb, Fld.addr]

end

/-- An array whose TEST has ended: STOPPED, at level 0. -/
def arrTested (s : State) (n : Nat) : State :=
  let t := (setLevel s n 0).set CORE_ARR_STATUS.TEST_DONE 1 n
  setArr (setFnState t (arrFn n) Fn.stopped) n { arrAt t n with testing := false, since := none, dir := 0 }

/-- An array whose START has ended well: RUNNING, at level 8. -/
def arrRunning (s : State) (n due : Nat) : State :=
  let t := setLevel s n 8
  setArr (setFnState (setFnCode t (arrFn n) Code.done) (arrFn n) Fn.running) n
    { arrAt t n with since := none, dir := 0, mark := due }

section
variable {s : State} (n : Nat) (hb : s.behaveReset = [])
include hb

theorem arrTested_state : arrState (arrTested s n) n = Fn.stopped ∧
    (arrTested s n).get CORE_ARR_STATUS.TEST_DONE n = 1 ∧ level (arrTested s n) n = 0 := by
  simp [arrTested, arrState_eq, level, setArrState_eq, setLevel_eq, Fn.stopped, get_set_apart, get_set_self, hb, Fld.addr]

theorem arrTested_results : ∀ f ∈ testFlds, (arrTested s n).get f n = s.get f n := by
  simp [testFlds, arrTested, setArrState_eq, setLevel_get, get_set_apart, hb, Fld.addr]

theorem arrRunning_state (due : Nat) : arrState (arrRunning s n due) n = Fn.running ∧
    (arrRunning s n due).get CORE_ARR_STATUS.FAULT_CODE n = Code.done ∧ level (arrRunning s n due) n = 8 ∧
    (arrRunning s n due).get CORE_ARR_STATUS.TEST_DONE n = s.get CORE_ARR_STATUS.TEST_DONE n := by
  simp [arrRunning, arrState_eq, level, setArrState_eq, setArrCode_eq, setLevel_eq, Fn.running, countFill_get, get_set_apart,
    get_set_self, hb, Fld.addr]

theorem arrRunning_results (due : Nat) : ∀ f ∈ testFlds, (arrRunning s n due).get f n = s.get f n := by
  simp [testFlds, arrRunning, setArrState_eq, setArrCode_eq, setLevel_get, get_set_apart, hb, Fld.addr]

theorem arrFaulted_state {c : Nat} (hc : c < 256) : arrState (arrFaulted s n c) n = Fn.faulted ∧
    (arrFaulted s n c).get CORE_ARR_STATUS.FAULT_CODE n = c ∧ level (arrFaulted s n c) n = level s n ∧
    (arrFaulted s n c).get CORE_ARR_STATUS.TEST_DONE n = s.get CORE_ARR_STATUS.TEST_DONE n := by
  simp [arrFaulted, arrState_eq, level, faultArr_eq, Fn.faulted, countFill_get, get_set_apart, get_set_self, hb, Fld.addr, hc]

theorem arrFaulted_results (c : Nat) : ∀ f ∈ testFlds, (arrFaulted s n c).get f n = s.get f n := by
  simp [testFlds, arrFaulted, faultArr_eq, countFill_get, get_set_apart, hb, Fld.addr]

end

section
variable {s : State} (n due : Nat) (rowFail : Word) (standby : Bool) (sig : BitVec 64)

theorem selfTestOutcome_tested (h : (arrAt s n).testing = true) :
    selfTestOutcome s n due rowFail standby sig = arrTested (publishTest s n rowFail standby sig) n := by
  simp only [selfTestOutcome, arrTested, h, if_true]

theorem selfTestOutcome_started (h : (arrAt s n).testing = false) : selfTestOutcome s n due rowFail standby sig =
    if (publishTest s n rowFail standby sig).bit CORE_ARR_STATUS.TEST_PASS n then
      arrRunning (publishTest s n rowFail standby sig) n due
    else arrFaulted (publishTest s n rowFail standby sig) n Code.uncorrectable := by
  simp only [selfTestOutcome, arrRunning, h, Bool.false_eq_true, if_false]

/-- The outcome leaves the ARRAY_CHECK as it stands. -/
theorem selfTestOutcome_check : (coreAt (selfTestOutcome s n due rowFail standby sig) n).check = (coreAt s n).check := by
  cases h : (arrAt s n).testing
  · rw [selfTestOutcome_started _ _ _ _ _ h]
    split <;> simp [arrRunning, arrFaulted, setArrState_eq, setArrCode_eq, faultArr_eq]
  · rw [selfTestOutcome_tested _ _ _ _ _ h]
    simp [arrTested, setArrState_eq]

variable (hb : s.behaveReset = [])
include hb

theorem publishTest_pass :
    (publishTest s n rowFail standby sig).bit CORE_ARR_STATUS.TEST_PASS n = true ↔ testPassed rowFail sig := by
  rw [bit_iff _ _ _ _ rfl, (publishTest_published s n rowFail standby sig hb).pass]
  simp

theorem selfTestOutcome_passed (h : (arrAt s n).testing = false) (hp : testPassed rowFail sig) :
    selfTestOutcome s n due rowFail standby sig = arrRunning (publishTest s n rowFail standby sig) n due := by
  rw [selfTestOutcome_started _ _ _ _ _ h, if_pos ((publishTest_pass n rowFail standby sig hb).2 hp)]

theorem selfTestOutcome_failed (h : (arrAt s n).testing = false) (hp : ¬testPassed rowFail sig) :
    selfTestOutcome s n due rowFail standby sig =
      arrFaulted (publishTest s n rowFail standby sig) n Code.uncorrectable := by
  rw [selfTestOutcome_started _ _ _ _ _ h, if_neg (mt (publishTest_pass n rowFail standby sig hb).1 hp)]

/-- Every outcome shows the results, whatever it makes of the array. -/
theorem selfTestOutcome_published :
    TestPublished (selfTestOutcome s n due rowFail standby sig) n rowFail standby sig := by
  have hpub := publishTest_published s n rowFail standby sig hb
  have hb' : (publishTest s n rowFail standby sig).behaveReset = [] := by simpa using hb
  cases h : (arrAt s n).testing
  · by_cases hp : testPassed rowFail sig
    · rw [selfTestOutcome_passed _ _ _ _ _ hb h hp]
      exact hpub.of_get (arrRunning_results n hb' due)
    · rw [selfTestOutcome_failed _ _ _ _ _ hb h hp]
      exact hpub.of_get (arrFaulted_results n hb' _)
  · rw [selfTestOutcome_tested _ _ _ _ _ h]
    exact hpub.of_get (arrTested_results n hb')

/-- The outcome of a START: TEST_DONE stays, and the array is RUNNING or FAULTED (R98). -/
theorem selfTestOutcome_of_start (h : (arrAt s n).testing = false) :
    let t := selfTestOutcome s n due rowFail standby sig
    t.get CORE_ARR_STATUS.TEST_DONE n = s.get CORE_ARR_STATUS.TEST_DONE n ∧
      (testPassed rowFail sig → arrState t n = Fn.running ∧ t.get CORE_ARR_STATUS.FAULT_CODE n = Code.done ∧ level t n = 8) ∧
      (¬testPassed rowFail sig → arrState t n = Fn.faulted ∧
        t.get CORE_ARR_STATUS.FAULT_CODE n = Code.uncorrectable ∧ level t n = level s n) := by
  have hb' : (publishTest s n rowFail standby sig).behaveReset = [] := by simpa using hb
  obtain ⟨hdone, hlevel⟩ := publishTest_leaves s n rowFail standby sig hb
  by_cases hp : testPassed rowFail sig
  · rw [selfTestOutcome_passed _ _ _ _ _ hb h hp]
    obtain ⟨hstate, hcode, hl, ht⟩ := arrRunning_state n hb' due
    exact ⟨ht.trans hdone, fun _ => ⟨hstate, hcode, hl⟩, fun hf => absurd hp hf⟩
  · rw [selfTestOutcome_failed _ _ _ _ _ hb h hp]
    obtain ⟨hstate, hcode, hl, ht⟩ := arrFaulted_state n hb' (c := Code.uncorrectable) (by decide)
    exact ⟨ht.trans hdone, fun hf => absurd hf hp, fun _ => ⟨hstate, hcode, hl.trans hlevel⟩⟩

/-- The outcome of a TEST: STOPPED with TEST_DONE, at level 0 (R98, R106). -/
theorem selfTestOutcome_of_test (h : (arrAt s n).testing = true) :
    let t := selfTestOutcome s n due rowFail standby sig
    arrState t n = Fn.stopped ∧ t.get CORE_ARR_STATUS.TEST_DONE n = 1 ∧ level t n = 0 := by
  rw [selfTestOutcome_tested _ _ _ _ _ h]
  exact arrTested_state n (by simpa using hb)

end

/-- A self-test whose time has passed ends in its outcome, where no ARRAY_CHECK goes on from it. -/
theorem selfTestEnd_ends {s : State} {n : Nat} (rowFail : Word) (standby : Bool) (sig : BitVec 64)
    (hst : arrState s n = Fn.starting) (hk : (coreAt s n).check = 0)
    (hd : (arrAt s n).since.getD 0 + (if (arrAt s n).testing then testCycles else startCycles) ≤ cycleNow s) :
    ∃ due, selfTestEnd s n rowFail standby sig = selfTestOutcome s n due rowFail standby sig :=
  ⟨_, (if_pos ⟨hst, hd⟩).trans (checkNext_none ((selfTestOutcome_check n _ rowFail standby sig).trans hk))⟩

/-! ## The end of STOPPING (R104) -/

/-- An array that has stopped: STOPPED, at level 0. -/
def arrStopped (s : State) (n : Nat) : State :=
  let t := setLevel s n 0
  setArr (setFnState t (arrFn n) Fn.stopped) n { arrAt t n with since := none, dir := 0 }

theorem arrStopDone_ends {s : State} {n t0 : Nat} (hst : arrState s n = Fn.stopping) (hk : (coreAt s n).check = 0)
    (h0 : (arrAt s n).since = some t0) (hd : t0 + 288 ≤ cycleNow s) : arrStopDone s n = arrStopped s n := by
  have hcheck : (coreAt (arrStopped s n) n).check = 0 := by simp [arrStopped, setArrState_eq, hk]
  unfold arrStopDone
  simp only [h0, hst, hd, and_self, if_true]
  exact checkNext_none hcheck

theorem arrStopped_state {s : State} (n : Nat) (hb : s.behaveReset = []) :
    arrState (arrStopped s n) n = Fn.stopped ∧ level (arrStopped s n) n = 0 ∧ (arrAt (arrStopped s n) n).since = none := by
  simp [arrStopped, arrState_eq, level, setArrState_eq, setLevel_eq, Fn.stopped, get_set_apart, get_set_self, hb, Fld.addr]

/-! ## The function as a whole (R97 to R106) -/

/-- Settles O14: each command is the equation of its case, and the outcome's fields are read back. -/
theorem arrayFunction : Obligations.ArrayFunction := by
  refine ⟨fun s n i hs hn hst hi => ⟨fun hd => ?_, fun hd => ?_⟩, fun s n hs hn => ⟨fun h => ?_, fun hst hg => ?_⟩,
    fun s n rowFail standby sig hs hn hst hk hd => ?_, fun s n t0 hs hn hst hk h0 hd => ?_⟩
  · simp only [List.mem_cons, List.not_mem_nil, or_false] at hi
    rcases hi with rfl | rfl
    · obtain ⟨⟨hspare, hdrain, hrow, hlfsr, hsince, hkind⟩, hstate, hpass, hfill⟩ := arrStart_begun hs hst hd
      exact acts_of_exec (exec_arrStart hn s) ⟨hstate, hspare, hdrain, hrow, hlfsr, hsince, by simp [hkind], by simp [hpass],
        by simp [hfill]⟩
    · obtain ⟨⟨hspare, hdrain, hrow, hlfsr, hsince, hkind⟩, hstate, hpass, hfill⟩ := arrTest_begun hs hst hd
      exact acts_of_exec (exec_arrTest hn s) ⟨hstate, hspare, hdrain, hrow, hlfsr, hsince, by simp [hkind], by simp [hpass],
        by simp [hfill]⟩
  · refine acts_of_exec (arrBegin_ignored hst hn hi hd) ⟨?_, State.bump_cores .., get_set_self _ _ _ _ _ hs.1 (by decide),
      set_regsBut_mem s PWR_START_IGNORED _ 0 0 (by simp [Fld.addr])⟩
    refine (get_set_reg s PWR_START_IGNORED CORE_ARR_STATUS.STATE _ 0 0 n 0 ?_).trans hst
    simp only [Fld.addr]
    omega
  · refine acts_of_exec (exec_arrStop hn s) ?_
    rw [arrStop_stops h]
    exact arrStopping_stopping n hs.1
  · refine acts_of_exec (exec_arrStop hn s) ?_
    rw [arrStop_refused hst hg]
    refine ⟨?_, get_set_self s CORE_ARR_STATUS.STOP_REJECT 1 n 0 hs.1 (by decide), State.set_cores ..,
      set_regsBut_mem s CORE_ARR_STATUS.STOP_REJECT 1 n 0 (by simp [arrFn, Fld.addr])⟩
    exact (get_set_beside s CORE_ARR_STATUS.STOP_REJECT CORE_ARR_STATUS.STATE 1 n 0 n 0 hs.1 rfl (by decide)
      (by decide)).trans hst
  · obtain ⟨due, hend⟩ := selfTestEnd_ends rowFail standby sig hst hk hd
    refine acts_of_exec (exec_selfTestEnd s n rowFail standby sig) ?_
    rw [hend]
    obtain ⟨hrows, hstandby, hsig, hpass⟩ := selfTestOutcome_published n due rowFail standby sig hs.1
    exact ⟨hrows, hstandby, hsig, hpass, selfTestOutcome_of_test n due rowFail standby sig hs.1,
      selfTestOutcome_of_start n due rowFail standby sig hs.1⟩
  · refine acts_of_exec (exec_arrayStopDone s n) ?_
    rw [arrStopDone_ends hst hk h0 hd]
    exact arrStopped_state n hs.1

/-! ## The Lantern's turns: what they leave (R103) -/

section
variable {s t : State} (h : Keeps 2048 s t)
include h

/-- An operation on the cores alone leaves every register. -/
theorem rdReg_of_cores (o : Nat) : rdReg t o = rdReg s o :=
  rdReg_congr (h.2 .regs (by decide)) (h.2 .behaveReset (by decide)) o

theorem get_of_cores (f : Fld) (i k : Nat) : t.get f i k = s.get f i k :=
  get_congr (h.2 .regs (by decide)) (h.2 .behaveReset (by decide)) f i k

end

section
variable (s : State) (n : Nat)

theorem releaseLevel_only : Keeps 2048 s (releaseLevel s n) := releaseLevel_keeps (by decide) s n (Keeps.refl _ s)

theorem lanternTurn_only : Keeps 2048 s (lanternTurn s n) := lanternTurn_keeps (by decide) s n (Keeps.refl _ s)

@[simp] theorem level_releaseLevel : level (releaseLevel s n) n = level s n := get_of_cores (releaseLevel_only s n) _ n 0

@[simp] theorem level_lanternTurn : level (lanternTurn s n) n = level s n := get_of_cores (lanternTurn_only s n) _ n 0

@[simp] theorem arrState_lanternTurn : arrState (lanternTurn s n) n = arrState s n :=
  get_of_cores (lanternTurn_only s n) CORE_ARR_STATUS.STATE n 0

@[simp] theorem radioOpen_lanternTurn : radioOpen (lanternTurn s n) n = radioOpen s n := by
  unfold radioOpen coreGates
  rw [(lanternTurn_only s n).2 .cal (by decide)]

@[simp] theorem lanternTurn_behaveReset : (lanternTurn s n).behaveReset = s.behaveReset :=
  (lanternTurn_only s n).2 .behaveReset (by decide)

/-- The commands released are those in flight. -/
theorem releaseLevel_fly (h : (coreAt s n).fly = []) : (coreAt (releaseLevel s n) n).fly = [] := by
  simp [releaseLevel, h]

theorem lanternTurn_fly (h : (coreAt s n).fly = []) : (coreAt (lanternTurn s n) n).fly = [] := by
  have hset (a : Arr) : (coreAt (setArr s n a) n).fly = [] := by simpa using h
  unfold lanternTurn
  dsimp only
  split
  · exact h
  split
  · split
    · exact releaseLevel_fly _ _ (hset _)
    · split
      · exact hset _
      · exact h
  · split
    · exact hset _
    · split
      · exact hset _
      · exact h

end

/-! ## One change of the level (R103) -/

/-- A step of a ramp up: the level set, the record's time of the next step, and at level 8 the waiting commands released. -/
theorem levelRise_eq (s : State) (n : Nat) : levelRise s n =
    let u := setArr (setLevel s n (level s n + 1)) n { (arrAt s n).countedTo (cycleNow s) with
      mark := (arrAt s n).mark + 32, dir := if level s n + 1 = 8 then 0 else 1 }
    if level s n + 1 = 8 then releaseLevel u n else u := by
  simp only [levelRise, arrAt_setLevel]

section
variable {s : State} (n : Nat)

theorem level_levelRise (hb : s.behaveReset = []) (h : level s n < 8) : level (levelRise s n) n = level s n + 1 := by
  have hset := level_setLevel s n (level s n + 1) hb (by omega)
  rw [levelRise_eq]
  split <;> simp [hset]

theorem levelRise_regsBut : regsBut (lanternRegs n) s (levelRise s n) := by
  have hset (a : Arr) := regsBut_trans (setLevel_regsBut s n (level s n + 1)) (setArr_regsBut _ n a (lanternRegs n))
  rw [levelRise_eq]
  split
  · exact regsBut_trans (hset _) (fun o _ => rdReg_of_cores (releaseLevel_only _ n) o)
  · exact hset _

theorem levelRise_fly (h : (coreAt s n).fly = []) : (coreAt (levelRise s n) n).fly = [] := by
  rw [levelRise_eq]
  split
  · exact releaseLevel_fly _ _ (by simpa using h)
  · simpa using h

theorem level_levelFall (hb : s.behaveReset = []) : level (levelFall s n) n = level s n - 1 := by
  have hlt := level_lt s n
  simpa [levelFall] using level_setLevel s n (level s n - 1) hb (by omega)

theorem levelFall_regsBut : regsBut (lanternRegs n) s (levelFall s n) :=
  regsBut_trans (setLevel_regsBut s n (level s n - 1)) (setArr_regsBut _ n _ _)

theorem levelFall_fly (h : (coreAt s n).fly = []) : (coreAt (levelFall s n) n).fly = [] := by simpa [levelFall] using h

end

/-- What a step of the Lantern leaves: its level after the step, every register outside the level and the counts, and no
command in flight where none was. -/
structure LanternStepped (s t : State) (n l : Nat) : Prop where
  level : level t n = l
  regs : regsBut (lanternRegs n) s t
  fly : (coreAt s n).fly = [] → (coreAt t n).fly = []

/-- What a RUNNING array's Lantern does after its turn: nothing, a step up, or a step down. -/
theorem lanternRun_cases {s : State} (n : Nat) (hb : s.behaveReset = []) :
    LanternStepped s (lanternRun s n) n (level s n) ∨
      (level s n < 8 ∧ LanternStepped s (lanternRun s n) n (level s n + 1)) ∨
      (levelCause (lanternTurn s n) n = false ∧ LanternStepped s (lanternRun s n) n (level s n - 1)) := by
  have hb' : (lanternTurn s n).behaveReset = [] := by simpa using hb
  have hturn : regsBut (lanternRegs n) s (lanternTurn s n) := fun o _ => rdReg_of_cores (lanternTurn_only s n) o
  have hstay : LanternStepped s (lanternTurn s n) n (level s n) := ⟨level_lanternTurn s n, hturn, lanternTurn_fly s n⟩
  unfold lanternRun
  dsimp only
  split
  · split
    · next h =>
      obtain ⟨hl, -, -⟩ := h
      refine Or.inr (Or.inl ⟨by simpa using hl, ?_, regsBut_trans hturn (levelRise_regsBut n),
        fun hf => levelRise_fly n (lanternTurn_fly s n hf)⟩)
      rw [level_levelRise n hb' hl, level_lanternTurn]
    · exact Or.inl hstay
  · next hc =>
    split
    · refine Or.inr (Or.inr ⟨by simpa using hc, ?_, regsBut_trans hturn (levelFall_regsBut n),
        fun hf => levelFall_fly n (lanternTurn_fly s n hf)⟩)
      rw [level_levelFall n hb', level_lanternTurn]
    · exact Or.inl hstay

/-! ## A RUNNING array (R103, R104) -/

/-- With no command in flight, no gate of HARD or FIRM open and no opening ahead, nothing asks for the level. -/
theorem levelCause_none {s : State} {n : Nat} {b : Bool} (hf : (coreAt s n).fly = []) (hr : radioOpen s n = false)
    (hfall : fallDue s n = b) (hd : rampDue s n b = false) : levelCause s n = false := by
  simp [levelCause, levelWanted, hf, hr, hfall, hd]

/-- A gap of 64 cycles at level 8 is the end of a hold (R103). -/
theorem fallDue_gap {s : State} {n : Nat} (hl : level s n = 8) (hdir : (arrAt s n).dir = 0)
    (h : max (arrAt s n).mark (arrAt s n).feed + 64 ≤ cycleNow s) : fallDue s n = true := by
  simp [fallDue, hl, hdir, h]

section
variable {s : State} {n : Nat} (hst : arrState s n = Fn.running)
include hst

theorem lanternLive_running : lanternLive s n = true := by simp [lanternLive, hst]

theorem lanternStep_running : lanternStep s n = lanternRun s n := if_pos (lanternLive_running hst)

theorem levelCause_radio (h : radioOpen s n = true) : levelCause s n = true := by simp [levelCause, hst, h]

/-- A ramp up that is asked for goes on: its step is due 32 cycles after the last. -/
theorem lanternRun_rises (hc : levelCause s n = true) (hl : level s n < 8) (hdir : (arrAt s n).dir = 1)
    (hm : (arrAt s n).mark + 32 ≤ cycleNow s) : lanternRun s n = levelRise s n := by
  have hturn : lanternTurn s n = s := by
    simp [lanternTurn, lanternLive_running hst, hc, hdir, Nat.ne_of_lt hl]
  simp only [lanternRun, hturn, hc, if_true]
  exact if_pos ⟨hl, hdir, hm⟩

/-- At level 8, held by nothing, the ramp down begins once it is due. -/
theorem lanternRun_falls (hc : levelCause s n = false) (hl : level s n = 8) (hdir : (arrAt s n).dir = 0)
    (hd : fallDue s n = true) : lanternRun s n = levelFall s n := by
  have hturn : lanternTurn s n = s := by simp [lanternTurn, lanternLive_running hst, hc, hdir, hl]
  simp [lanternRun, hturn, hc, hd]

/-- The level of 8 falls to 7 after 64 cycles of a gap in which nothing asks for it. -/
theorem level_after_gap (hb : s.behaveReset = []) (hf : (coreAt s n).fly = []) (hl : level s n = 8)
    (hr : radioOpen s n = false) (hd : rampDue s n true = false) (hdir : (arrAt s n).dir = 0)
    (hg : max (arrAt s n).mark (arrAt s n).feed + 64 ≤ cycleNow s) : level (lanternRun s n) n = 7 := by
  have hdue := fallDue_gap hl hdir hg
  rw [lanternRun_falls hst (levelCause_none hf hr hdue hd) hl hdir hdue, level_levelFall n hb, hl]

/-- One change at most, none above 8, and none downwards while a radio gate is open. -/
theorem lanternRun_stepped (hb : s.behaveReset = []) (h8 : level s n ≤ 8) : ∃ l, LanternStepped s (lanternRun s n) n l ∧
    l ≤ 8 ∧ l ≤ level s n + 1 ∧ level s n ≤ l + 1 ∧ (radioOpen s n = true → level s n ≤ l) := by
  rcases lanternRun_cases n hb with h | ⟨hl, h⟩ | ⟨hc, h⟩
  · exact ⟨_, h, h8, by omega, by omega, fun _ => Nat.le_refl _⟩
  · exact ⟨_, h, hl, by omega, by omega, fun _ => by omega⟩
  · refine ⟨_, h, by omega, by omega, by omega, fun hr => ?_⟩
    have hcause := levelCause_radio (s := lanternTurn s n) (n := n) (by simpa using hst) (by simpa using hr)
    simp [hc] at hcause

end

/-! ## An array that is not RUNNING (R104) -/

/-- The array of a START, one level further up its ramp. -/
def startRamped (s : State) (n : Nat) : State :=
  setArr (setLevel s n (level s n + 1)) n { (arrAt s n).countedTo (cycleNow s) with mark := (arrAt s n).mark + 32 }

theorem lanternStep_starting {s : State} {n : Nat} (hst : arrState s n = Fn.starting) (ht : (arrAt s n).testing = false)
    (hl : level s n < 8) (hm : (arrAt s n).mark + 32 ≤ cycleNow s) : lanternStep s n = startRamped s n := by
  simp [lanternStep, lanternLive, startRamped, hst, ht, hl, hm]

theorem startRamped_stepped {s : State} (n : Nat) (hb : s.behaveReset = []) (hl : level s n < 8) :
    LanternStepped s (startRamped s n) n (level s n + 1) where
  level := (setArr_level ..).trans (level_setLevel s n (level s n + 1) hb (by omega))
  regs := regsBut_trans (setLevel_regsBut s n _) (setArr_regsBut _ n _ _)
  fly hf := by simpa [startRamped] using hf

theorem lanternStep_down {s : State} {n t0 : Nat} (hst : arrState s n = Fn.stopping ∨ arrState s n = Fn.faulted)
    (h0 : (arrAt s n).since = some t0) : lanternStep s n = lanternDown s n t0 := by
  rcases hst with hst | hst <;> simp [lanternStep, lanternLive, hst, h0]

theorem lanternDown_stepped {s : State} (n t0 : Nat) (hb : s.behaveReset = []) :
    LanternStepped s (lanternDown s n t0) n (min (level s n) (gapLevel (cycleNow s - t0))) := by
  have hlt := level_lt s n
  unfold lanternDown
  dsimp only
  split
  · next h => exact ⟨h.symm, fun _ _ => rfl, id⟩
  · exact ⟨level_setLevel s n _ hb (by omega), setLevel_regsBut s n _, fun hf => by simpa using hf⟩

/-! ## The Lantern's step as a whole (R102 to R104) -/

/-- Where no command is in flight, the Lantern's step lets no unit run. -/
theorem exec_lanternLevelStep {s : State} {n l : Nat} (h : LanternStepped s (lanternStep s n) n l)
    (hf : (coreAt s n).fly = []) : exec (.lanternLevelStep n) s = .next (lanternStep s n) :=
  congrArg Host.Outcome.next (runFly_unitsDone fun f hm => by simp [h.fly hf] at hm)

/-- Settles O15: the step of each state of the array is one change of the level, and the turn before it changes no register. -/
theorem lanternLevel : Obligations.LanternLevel := by
  refine ⟨fun s n hs hn hst hf h8 => ?_, fun s n hs hn hst hf hl ht hm => ?_, fun s n t0 hs hn hst hf h0 => ?_⟩
  · obtain ⟨l, h, hl⟩ := lanternRun_stepped hst hs.1 h8
    have heq := lanternStep_running hst
    refine acts_of_exec (exec_lanternLevelStep (heq ▸ h) hf) ?_
    rw [heq]
    obtain ⟨htop, hup, hdown, hopen⟩ := h.level ▸ hl
    refine ⟨htop, hup, hdown, hopen, fun hl hr hd hdir hg => level_after_gap hst hs.1 hf hl hr hd hdir hg,
      fun hr hl hdir hm => ?_, h.regs⟩
    rw [lanternRun_rises hst (levelCause_radio hst hr) hl hdir hm, level_levelRise n hs.1 hl]
  · have h := startRamped_stepped n hs.1 hl
    have heq := lanternStep_starting hst ht hl hm
    refine acts_of_exec (exec_lanternLevelStep (heq ▸ h) hf) ?_
    rw [heq]
    exact ⟨h.level, by simp [startRamped], by simpa [startRamped] using hst⟩
  · have h := lanternDown_stepped n t0 hs.1
    have heq := lanternStep_down hst h0
    refine acts_of_exec (exec_lanternLevelStep (heq ▸ h) hf) ?_
    rw [heq]
    exact ⟨h.level, h.regs⟩

end Sys2Proof.Machine
end

section
/-! PROOFS. Pushes to dynamic queues, the debug commands and the clearing of arithmetic flags
(05_arithmetic.md R132; 06_core_streams.md R168, R170). -/

namespace Sys2Proof.Machine

/-! ## Slots after an update -/

theorem Core.slot_setSlot (k : Core) (c : Nat) (z : Slot) : (k.setSlot c z).slot c = z := mapGet_put_self _ _ _ _

theorem coreAt_setHeld (s : State) (n c v : Nat) : coreAt (setHeld s n c v) n =
    (coreAt s n).setSlot c { (coreAt s n).slot c with held := v, heldMark := nowNs s } := coreAt_setCore ..

/-! ## Pushes to a dynamic queue (06_core_streams.md R168) -/

section
variable {s : State} {n c st : Nat} {v : Word}

theorem exec_dynqPush (high : Bool) (hc : c < 4) (hst : st < 4) :
    exec (.dynqPush n c st high v) s = .next (dynqPush s n c st high v) :=
  congrArg Host.Outcome.next (if_pos ⟨hc, hst⟩)

/-- The entry that a write of the high word completes. -/
def pushedEntry (s : State) (n c st : Nat) (v : Word) : Nat :=
  mapGet (fun _ => 0) (coreAt s n).pushLow (4 * c + st) + v.toNat * 2 ^ 32

variable (hstall : (coreAt s n).stall = none) (hcp : (coreAt s n).cpHalted = false)
include hstall hcp

/-- A low word is held. -/
theorem dynqPush_low : dynqPush s n c st false v =
    setCore s n { coreAt s n with pushLow := mapPut (fun _ => 0) (coreAt s n).pushLow (4 * c + st) v.toNat } := by
  simp [dynqPush, hstall, hcp]

variable (hv : ((coreAt s n).slot c).valid = true)
include hv

/-- A high word appends the entry where the queue has room. -/
theorem dynqPush_appends (hq : ((ctxAt s ((coreAt s n).slot c).ctx).live.stream st).dynq.length < 32) :
    dynqPush s n c st true v = setCtx s ((coreAt s n).slot c).ctx { ctxAt s ((coreAt s n).slot c).ctx with
      live := (ctxAt s ((coreAt s n).slot c).ctx).live.setStream st { (ctxAt s ((coreAt s n).slot c).ctx).live.stream st with
        dynq := ((ctxAt s ((coreAt s n).slot c).ctx).live.stream st).dynq ++ [BitVec.ofNat 64 (pushedEntry s n c st v)] } } := by
  simp [dynqPush, pushedEntry, hstall, hcp, hv, hq]

/-- A high word for a full queue in N2 queue mode stalls the control processor. -/
theorem dynqPush_stalls (hq : ¬((ctxAt s ((coreAt s n).slot c).ctx).live.stream st).dynq.length < 32)
    (hp : (ctxAt s ((coreAt s n).slot c).ctx).img.pacing ≠ 0) :
    dynqPush s n c st true v = setCore s n { coreAt s n with stall := some (c, st, pushedEntry s n c st v) } := by
  simp [dynqPush, pushedEntry, hstall, hcp, hv, hq, hp]

end

/-! ## The debug commands (06_core_streams.md R170) -/

/-- Without debug in its image, a debug command on a valid slot is denied. -/
theorem onDebug_denied {s : State} {n : Nat} (f : State → Nat → State)
    (hv : ((coreAt s n).slot (s.get CORE_DBG_CTRL.SLOT n)).valid = true)
    (hd : (ctxAt s ((coreAt s n).slot (s.get CORE_DBG_CTRL.SLOT n)).ctx).img.debug = false) :
    onDebug s n f = s.set CORE_DBG_STATUS.DENIED 1 n := by
  simp [onDebug, hv, hd]

/-- With it, the command is carried out. -/
theorem onDebug_allowed {s : State} {n : Nat} (f : State → Nat → State)
    (hv : ((coreAt s n).slot (s.get CORE_DBG_CTRL.SLOT n)).valid = true)
    (hd : (ctxAt s ((coreAt s n).slot (s.get CORE_DBG_CTRL.SLOT n)).ctx).img.debug = true) :
    onDebug s n f = f s (s.get CORE_DBG_CTRL.SLOT n) := by
  simp [onDebug, hv, hd]

/-- The first stream of a slot that has a command, at which HALT breaks. -/
def haltStream (s : State) (n c : Nat) : Nat := ((List.range 4).find? (fun t => (headOf s n c t).isSome)).getD 0

theorem haltStream_lt (s : State) (n c : Nat) : haltStream s n c < 4 := by
  unfold haltStream
  cases h : (List.range 4).find? (fun t => (headOf s n c t).isSome) with
  | none => exact Nat.zero_lt_succ _
  | some t => exact List.mem_range.1 (List.mem_of_find?_eq_some h)

/-- The tag that HALT records, that of the command at the head of a stream. -/
def haltTag (s : State) (n c st : Nat) : Nat := ((headOf s n c st).map (fun h => cmdTag h.cmd)).getD 0

section
variable (s : State) (n c st cause tag : Nat)

theorem coreAt_breakAt : coreAt (breakAt s n c st cause tag) n = (coreAt s n).setSlot c
    { (coreAt s n).slot c with halted := true, stepOn := none, brk := some (st, cause, tag) } := by
  unfold breakAt
  dsimp only
  rw [(trace_only _ _ _ _ _ _ _ _ _).coreAt (by decide), coreAt_setCore]

theorem breakAt_only : Keeps 2052 s (breakAt s n c st cause tag) := breakAt_keeps (by decide) s n c st cause tag (Keeps.refl _ s)

/-- A break of a slot with nothing in flight is recorded at once. -/
theorem settleBreak_records (hh : ((coreAt s n).slot c).halted = true)
    (hf : (coreAt s n).fly.any (fun f => f.slot == c) = false) (hb : ((coreAt s n).slot c).brk = some (st, cause, tag)) :
    settleBreak s n c = (((setCore s n ((coreAt s n).setSlot c { (coreAt s n).slot c with brk := none })).set
      CORE_DBG_STATUS.STREAM st n).set CORE_DBG_STATUS.CAUSE cause n).set CORE_DBG_STATUS.TAG tag n := by
  simp [settleBreak, isHalted, hh, hf, hb]

/-- It waits for the commands in flight of its slot. -/
theorem settleBreak_waits (hf : (coreAt s n).fly.any (fun f => f.slot == c) = true) : settleBreak s n c = s := by
  unfold settleBreak
  dsimp only
  split
  · rw [if_neg (by simp [isHalted, hf])]
  · rfl

end

section
variable {s : State} {n : Nat} (hv : ((coreAt s n).slot (s.get CORE_DBG_CTRL.SLOT n)).valid = true)
  (hd : (ctxAt s ((coreAt s n).slot (s.get CORE_DBG_CTRL.SLOT n)).ctx).img.debug = true)
include hv hd

/-- HALT breaks at the first stream with a command, with cause 0. -/
theorem dbgHalt_breaks (ha : accumHeld s n = s) {c : Nat} (hc : s.get CORE_DBG_CTRL.SLOT n = c)
    (hh : ((coreAt s n).slot c).halted = false) :
    dbgHalt s n = settleBreak (breakAt s n c (haltStream s n c) 0 (haltTag s n c (haltStream s n c))) n c := by
  subst hc
  unfold dbgHalt
  rw [ha, onDebug_allowed _ hv hd, if_neg (by simp [hh])]
  rfl

theorem dbgResume_resumes {c : Nat} (hc : s.get CORE_DBG_CTRL.SLOT n = c) (hh : ((coreAt s n).slot c).halted = true) :
    dbgResume s n = setHeld (setCore s n ((coreAt s n).setSlot c { (coreAt s n).slot c with
      halted := false, stepOn := none, brk := none, resumed := some (breakStream s n c) })) n c ((coreAt s n).slot c).held := by
  subst hc
  unfold dbgResume
  rw [onDebug_allowed _ hv hd]
  exact if_pos hh

theorem dbgStep_steps {c : Nat} (hc : s.get CORE_DBG_CTRL.SLOT n = c) (hh : ((coreAt s n).slot c).halted = true) :
    dbgStep s n = setCore s n ((coreAt s n).setSlot c { (coreAt s n).slot c with stepOn := some (breakStream s n c) }) := by
  subst hc
  unfold dbgStep
  rw [onDebug_allowed _ hv hd]
  exact if_pos hh

end

theorem exec_dbgHalt (s : State) (n : Nat) : exec (.dbgHalt n) s = .next (dbgHalt s n) := rfl
theorem exec_dbgResume (s : State) (n : Nat) : exec (.dbgResume n) s = .next (dbgResume s n) := rfl
theorem exec_dbgStep (s : State) (n : Nat) : exec (.dbgStep n) s = .next (dbgStep s n) := rfl

/-- The three debug commands of a slot whose image does not enable debug. -/
theorem exec_debug_denied {s : State} {n : Nat} (ha : accumHeld s n = s)
    (hv : ((coreAt s n).slot (s.get CORE_DBG_CTRL.SLOT n)).valid = true)
    (hd : (ctxAt s ((coreAt s n).slot (s.get CORE_DBG_CTRL.SLOT n)).ctx).img.debug = false)
    {i : Instr} (hi : i ∈ [Instr.dbgHalt n, .dbgResume n, .dbgStep n]) :
    exec i s = .next (s.set CORE_DBG_STATUS.DENIED 1 n) := by
  have hden (f : State → Nat → State) : onDebug s n f = s.set CORE_DBG_STATUS.DENIED 1 n := onDebug_denied f hv hd
  simp only [List.mem_cons, List.not_mem_nil, or_false] at hi
  rcases hi with rfl | rfl | rfl
  · rw [exec_dbgHalt, dbgHalt, ha, hden]
  · rw [exec_dbgResume, dbgResume, hden]
  · rw [exec_dbgStep, dbgStep, hden]

/-- What HALT leaves: the slot is halted, its break recorded where nothing of the slot is in flight, else kept. -/
theorem halted_of_break {s : State} {n c : Nat} (hb : s.behaveReset = []) (st tag : Nat) :
    let t := settleBreak (breakAt s n c st 0 tag) n c
    ((coreAt t n).slot c).halted = true ∧ t.ctxs = s.ctxs ∧
      ((coreAt s n).fly.any (fun f => f.slot == c) = false →
        t.get CORE_DBG_STATUS.CAUSE n = 0 ∧ ((coreAt t n).slot c).brk = none) ∧
      ((coreAt s n).fly.any (fun f => f.slot == c) = true → ((coreAt t n).slot c).brk = some (st, 0, tag)) := by
  intro t
  have hcore := coreAt_breakAt s n c st 0 tag
  have hslot := Core.slot_setSlot (coreAt s n) c
    { (coreAt s n).slot c with halted := true, stepOn := none, brk := some (st, 0, tag) }
  have hfly : (coreAt (breakAt s n c st 0 tag) n).fly = (coreAt s n).fly := by rw [hcore]; rfl
  have hctx : t.ctxs = s.ctxs :=
    (settleBreak_keeps (m := 2052) (by decide) _ _ _ (breakAt_only s n c st 0 tag)).2 .ctxs (by decide)
  cases hf : (coreAt s n).fly.any (fun f => f.slot == c) with
  | true =>
    have ht : t = breakAt s n c st 0 tag := settleBreak_waits _ n c (by rw [hfly, hf])
    rw [ht, hcore, hslot]
    exact ⟨rfl, ht ▸ hctx, by simp, fun _ => rfl⟩
  | false =>
    have ht := settleBreak_records (breakAt s n c st 0 tag) n c st 0 tag (by rw [hcore, hslot]) (by rw [hfly, hf])
      (by rw [hcore, hslot])
    have hreset : (breakAt s n c st 0 tag).behaveReset = [] := ((breakAt_only s n c st 0 tag).2 .behaveReset (by decide)).trans hb
    have hat : (coreAt t n).slot c = { (coreAt (breakAt s n c st 0 tag) n).slot c with brk := none } := by
      rw [show t = _ from ht]
      simp only [coreAt_congr (State.set_cores ..), coreAt_setCore, Core.slot_setSlot]
    refine ⟨by rw [hat, hcore, hslot], hctx, fun _ => ⟨?_, by rw [hat]⟩, by simp⟩
    rw [show t = _ from ht, get_set_beside _ CORE_DBG_STATUS.TAG CORE_DBG_STATUS.CAUSE _ n 0 n 0 (by simpa using hreset) rfl
      (by decide) (by decide), get_set_self _ CORE_DBG_STATUS.CAUSE 0 n 0 (by simpa using hreset) (by decide)]
    rfl

/-! ## Flags (05_arithmetic.md R132) -/

theorem exec_arithFlagsClear {s : State} {n c : Nat} (v : Word) (hc : c < 4) :
    exec (.arithFlagsClear n c v) s = .next (clearFlags s n c v) := congrArg Host.Outcome.next (if_pos hc)

theorem clearFlags_flags {s : State} {n c : Nat} (v : Word) (hv : ((coreAt s n).slot c).valid = true) :
    (ctxAt (clearFlags s n c v) ((coreAt s n).slot c).ctx).flags =
      (BitVec.ofNat 32 (ctxAt s ((coreAt s n).slot c).ctx).flags &&& ~~~v).toNat := by
  simp [clearFlags, hv, ctxAt_setCtx_self]

/-- The bits of a word of flags after those written as ones are cleared. -/
theorem testBit_cleared (x : Nat) (v : Word) {b : Nat} (hb : b < 32) :
    (BitVec.ofNat 32 x &&& ~~~v).toNat.testBit b = (x.testBit b && !v.getLsbD b) := by
  have hx : (BitVec.ofNat 32 x).getLsbD b = x.testBit b := by rw [BitVec.getLsbD_ofNat, decide_eq_true hb, Bool.true_and]
  rw [BitVec.testBit_toNat, BitVec.getLsbD_and, BitVec.getLsbD_not, hx]
  simp [hb]

/-- Settles O21: a push, a break and a clear each change the one record that they name, and a denied command its one bit. -/
theorem coreDebug : Obligations.CoreDebug := by
  refine ⟨fun s n c st v hc hst hstall hcp => ⟨?_, fun hv hq => ?_, fun hv hq hp => ?_⟩,
    fun s n hs _ ha hv => ⟨fun hd => ⟨fun hh => ?_, fun hh => ?_, fun hh => ?_⟩, fun hd i hi => ?_⟩,
    fun s n c v _ hc hv => ?_⟩
  · refine acts_of_exec (exec_dynqPush false hc hst) ?_
    rw [dynqPush_low hstall hcp]
    exact ⟨by rw [coreAt_setCore]; exact mapGet_put_self _ _ _ _, setCore_ctxs .., setCore_regs ..⟩
  · refine acts_of_exec (exec_dynqPush true hc hst) ?_
    rw [dynqPush_appends hstall hcp hv hq]
    exact ⟨by rw [ctxAt_setCtx_self, Pointers.stream_setStream, if_pos rfl]; rfl, setCtx_cores .., setCtx_regs ..⟩
  · refine acts_of_exec (exec_dynqPush true hc hst) ?_
    rw [dynqPush_stalls hstall hcp hv hq hp]
    exact ⟨by rw [coreAt_setCore]; rfl, setCore_ctxs ..⟩
  · refine acts_of_exec (exec_dbgHalt s n) ?_
    rw [dbgHalt_breaks hv hd ha rfl hh]
    obtain ⟨hhalt, hctx, hidle, hbusy⟩ :=
      halted_of_break hs.1 (haltStream s n _) (haltTag s n _ (haltStream s n _))
    exact ⟨hhalt, hctx, hidle, fun hf => ⟨_, _, haltStream_lt s n _, hbusy hf⟩⟩
  · refine acts_of_exec (exec_dbgResume s n) ?_
    rw [dbgResume_resumes hv hd rfl hh]
    simp only [coreAt_setHeld, Core.slot_setSlot, coreAt_setCore]
    exact ⟨trivial, (setCore_regs ..).trans (setCore_regs ..), trivial⟩
  · refine acts_of_exec (exec_dbgStep s n) ?_
    rw [dbgStep_steps hv hd rfl hh]
    simp only [Core.slot_setSlot, coreAt_setCore]
    exact ⟨hh, setCore_regs .., trivial⟩
  · refine acts_of_exec (exec_debug_denied ha hv hd hi) ?_
    exact ⟨get_set_self _ _ _ _ _ hs.1 (by decide), State.set_cores .., State.set_ctxs ..,
      set_regsBut s CORE_DBG_STATUS.DENIED 1 n 0⟩
  · refine acts_of_exec (exec_arithFlagsClear v hc) fun b hb => ?_
    rw [clearFlags_flags v hv, testBit_cleared _ v hb]
    simp

end Sys2Proof.Machine
end

section
/-! PROOFS. The completion of a command alone in flight, and the moves of the data queues
(05_arithmetic.md R131; 06_core_streams.md R139, R145, R150 to R152). -/

namespace Sys2Proof.Machine

/-! ## The command that completes (06_core_streams.md R138, R139) -/

/-- The context of a command in flight on core n. -/
abbrev flyCtx (s : State) (n : Nat) (f : Inflight) : Nat := ((coreAt s n).slot f.slot).ctx

section
variable {s : State} {n : Nat} {f : Inflight}

theorem oldest_alone (hfly : (coreAt s n).fly = [f]) : oldest s n f.stream = some f := by simp [oldest, hfly]

theorem membersOf_unlinked (hlink : (ctxAt s (flyCtx s n f)).img.link f.idx = 0) : membersOf s n f = [f] := if_pos hlink

/-- The only command in flight completes by itself once it has reached completion. -/
theorem complete_alone (hfly : (coreAt s n).fly = [f]) (hlink : (ctxAt s (flyCtx s n f)).img.link f.idx = 0)
    (hr : reached s n f = true) (hb : behindReplay s (flyCtx s n f) f = false) :
    complete s n f.stream = completeGroup s n [f] := by
  have hpeers : peersOf (ctxAt s (flyCtx s n f)).img f.idx = [] := if_pos hlink
  simp [complete, oldest_alone hfly, membersOf_unlinked hlink, hpeers, hr, hb]

end

/-! ## The outputs and the flags (05_arithmetic.md R131; 06_core_streams.md R139, R145) -/

/-- A command that is no share of a reduction makes its own writes visible and raises no further flag. -/
theorem commitOut_unshared {n x : Nat} {s : State} {f : Inflight}
    (h : (ctxAt s x).img.reds.getD ((ctxAt s x).img.rel f.idx) none = none) :
    commitOut n x s f = (forEach f.out (commitWrite n) s, 0) := by
  unfold commitOut
  dsimp only
  rw [h]

/-- The pointers of a context after a BOUNDARY of one of its streams: the stream goes on at NEXT, or parks there. -/
def afterBoundaryLive (armed : Bool) (f : Inflight) (p : Pointers) : Pointers :=
  if cmdOp f.cmd = Opc.boundary then
    p.setStream f.stream (if armed then { p.stream f.stream with parked := some (cmdF f.cmd 191 180) }
      else { p.stream f.stream with pc := cmdF f.cmd 191 180 })
  else p

section
variable (armed : Bool) {f : Inflight} (p : Pointers)

theorem afterBoundaryLive_tokens : (afterBoundaryLive armed f p).tokens = p.tokens := by
  unfold afterBoundaryLive; split <;> rfl

theorem afterBoundaryLive_other (h : cmdOp f.cmd ≠ Opc.boundary) : afterBoundaryLive armed f p = p := if_neg h

theorem afterBoundaryLive_boundary (h : cmdOp f.cmd = Opc.boundary) : (afterBoundaryLive armed f p).stream f.stream =
    if armed then { p.stream f.stream with parked := some (cmdF f.cmd 191 180) }
      else { p.stream f.stream with pc := cmdF f.cmd 191 180 } := by
  rw [afterBoundaryLive, if_pos h, Pointers.stream_setStream, if_pos rfl]

end

/-- After a command, its context's pointers stand where its BOUNDARY sends them. -/
theorem ctxAt_afterBoundary (s : State) (n : Nat) (f : Inflight) :
    ctxAt (afterBoundary s n f) (flyCtx s n f) =
      { ctxAt s (flyCtx s n f) with
        live := afterBoundaryLive ((coreAt s n).slot f.slot).armed f (ctxAt s (flyCtx s n f)).live } := by
  unfold afterBoundary afterBoundaryLive
  split
  · exact ctxAt_setCtx_self ..
  · rfl

theorem afterBoundary_only (s : State) (n : Nat) (f : Inflight) : Keeps 8192 s (afterBoundary s n f) :=
  afterBoundary_keeps (by decide) s n f (Keeps.refl _ s)

theorem endReplay_first {s : State} {n x : Nat} {f : Inflight} (linked : Bool) (h : f.replay = none) :
    endReplay s n x f linked = s := by
  unfold endReplay
  rw [h]

/-- A command's outputs visible under the windows of its issue, and the flags of its reduction step. -/
def committed (s : State) (n x : Nat) (f : Inflight) : State × Nat := commitOut n x (underWins s (ctxAt s x) f) f

/-- The state with the outputs visible and the windows as they stand, the flags put into the context. -/
def flagsRaised (s : State) (n x : Nat) (f : Inflight) : State :=
  let t : State := { (committed s n x f).1 with wins := s.wins }
  setCtx t x { ctxAt t x with flags := (ctxAt t x).flags ||| f.flags ||| (committed s n x f).2, progress := nowN t }

theorem commitOne_first {s : State} {n x : Nat} {f : Inflight} (linked : Bool) (h : f.replay = none) :
    commitOne n x linked s f =
      trace (afterBoundary (flagsRaised s n x f) n f) n f.slot f.stream 1 0 (cmdTag f.cmd) x f.count := by
  have heq : commitOne n x linked s f = trace (endReplay (afterBoundary (flagsRaised s n x f) n f) n x f linked)
      n f.slot f.stream 1 0 (cmdTag f.cmd) x f.count := rfl
  rw [heq, endReplay_first linked h]

section
variable (s : State) (n x : Nat) (f : Inflight)

/-- Neither the windows taken for the outputs nor the outputs change a record of a core or a context. -/
theorem committed_only : Keeps 39728579588 s (committed s n x f).1 :=
  (commitOut_keeps (by decide) n x _ f (underWins_keeps (by decide) s _ f (Keeps.refl _ s))).of

theorem flagsRaised_mems : (flagsRaised s n x f).mems = (committed s n x f).1.mems := setCtx_mems ..

theorem flagsRaised_cores : (flagsRaised s n x f).cores = s.cores :=
  (setCtx_cores ..).trans ((committed_only s n x f).2 .cores (by decide))

theorem ctxAt_flagsRaised : ctxAt (flagsRaised s n x f) x = { ctxAt s x with
    flags := (ctxAt s x).flags ||| f.flags ||| (committed s n x f).2, progress := (ctxAt (flagsRaised s n x f) x).progress } := by
  have hctx : ctxAt ({ (committed s n x f).1 with wins := s.wins } : State) x = ctxAt s x :=
    (committed_only s n x f).ctxAt (by decide) x
  unfold flagsRaised
  dsimp only
  rw [ctxAt_setCtx_self, hctx]

end

/-- What a completed command leaves: its outputs, and its context with the flags and the place of the stream. -/
structure Committed (s t : State) (n : Nat) (f : Inflight) : Prop where
  mems : t.mems = (committed s n (flyCtx s n f) f).1.mems
  cores : t.cores = s.cores
  clTok : t.clTok = s.clTok
  fns : t.fns = s.fns
  groups : t.groups = s.groups
  ctx : ctxAt t (flyCtx s n f) = { ctxAt s (flyCtx s n f) with
    flags := (ctxAt s (flyCtx s n f)).flags ||| f.flags ||| (committed s n (flyCtx s n f) f).2
    progress := (ctxAt t (flyCtx s n f)).progress
    live := afterBoundaryLive ((coreAt s n).slot f.slot).armed f (ctxAt s (flyCtx s n f)).live }

theorem commitOne_committed {s : State} {n : Nat} {f : Inflight} (linked : Bool) (h : f.replay = none) :
    Committed s (commitOne n (flyCtx s n f) linked s f) n f := by
  have hkeep := commitOne_keeps (m := 48318522372) (by decide) n (flyCtx s n f) linked s f (Keeps.refl _ s)
  refine ⟨?_, hkeep.2 .cores (by decide), hkeep.2 .clTok (by decide), hkeep.2 .fns (by decide), hkeep.2 .groups (by decide),
    ?_⟩
  · rw [commitOne_first linked h, (trace_only _ _ _ _ _ _ _ _ _).2 .mems (by decide),
      (afterBoundary_only _ n f).2 .mems (by decide), flagsRaised_mems]
  · have hcore := coreAt_congr (flagsRaised_cores s n (flyCtx s n f) f) n
    have hbound := ctxAt_afterBoundary (flagsRaised s n (flyCtx s n f) f) n f
    have hx : flyCtx (flagsRaised s n (flyCtx s n f) f) n f = flyCtx s n f := by rw [flyCtx, hcore]
    rw [hx, hcore, ctxAt_flagsRaised] at hbound
    rw [commitOne_first linked h, (trace_only _ _ _ _ _ _ _ _ _).ctxAt (by decide), hbound]

/-! ## The signal (06_core_streams.md R152) -/

theorem Pointers.token_setToken (p : Pointers) (i v : Nat) : (p.setToken i v).token i = v := mapGet_put_self _ _ _ _

theorem signalToken_only {s t : State} {n x : Nat} {c : BitVec 256} (h : signalToken s n x c = some t) : Keeps 12288 s t :=
  (signalToken_keeps (by decide) s n x c (Keeps.refl _ s)).of t h

/-- A signal that does not overflow raises no counter where the command has none, and else its one counter. -/
theorem signalToken_cases {s t : State} {n x : Nat} {c : BitVec 256} (h : signalToken s n x c = some t) :
    (cmdSigN c = 0 ∧ t = s) ∨
    (cmdSigN c ≠ 0 ∧ cmdSigCluster c = true ∧
      t = setClTok s (n / 8) (cmdSigIdx c) (clTokAt s (n / 8) (cmdSigIdx c) + cmdSigN c)) ∨
    (cmdSigN c ≠ 0 ∧ cmdSigCluster c = false ∧ t = setCtx s x { ctxAt s x with
      live := (ctxAt s x).live.setToken (cmdSigIdx c) ((ctxAt s x).live.token (cmdSigIdx c) + cmdSigN c) }) := by
  unfold signalToken at h
  dsimp only at h
  split at h
  · next hk => exact Or.inl ⟨hk, (Option.some.inj h).symm⟩
  split at h
  · next hk hcl =>
    split at h
    · exact absurd h (by simp)
    · exact Or.inr (Or.inl ⟨hk, hcl, (Option.some.inj h).symm⟩)
  · next hk hcl =>
    split at h
    · exact absurd h (by simp)
    · exact Or.inr (Or.inr ⟨hk, by simpa using hcl, (Option.some.inj h).symm⟩)

/-- Whether a signal overflows depends on the counters alone. -/
theorem signalToken_isSome_congr {s t : State} {n x : Nat} {c : BitVec 256} (hcl : t.clTok = s.clTok)
    (htok : (ctxAt t x).live.tokens = (ctxAt s x).live.tokens) :
    (signalToken t n x c).isSome = (signalToken s n x c).isSome := by
  have h1 : clTokAt t (n / 8) (cmdSigIdx c) = clTokAt s (n / 8) (cmdSigIdx c) := by unfold clTokAt; rw [hcl]
  have h2 : (ctxAt t x).live.token (cmdSigIdx c) = (ctxAt s x).live.token (cmdSigIdx c) := by unfold Pointers.token; rw [htok]
  unfold signalToken
  dsimp only
  rw [h1, h2]
  split
  · rfl
  · split <;> split <;> rfl

/-- What a signal leaves: its one counter raised, of the context or of the cluster; of the context's record only the core
counters change. -/
structure Signalled (s t : State) (n x : Nat) (c : BitVec 256) : Prop where
  rest : ctxAt t x = { ctxAt s x with live := { (ctxAt s x).live with tokens := (ctxAt t x).live.tokens } }
  unsignalled : cmdSigN c = 0 → (ctxAt t x).live.tokens = (ctxAt s x).live.tokens ∧ t.clTok = s.clTok
  own : cmdSigN c ≠ 0 → cmdSigCluster c = false → t.clTok = s.clTok ∧
    (ctxAt t x).live.token (cmdSigIdx c) = (ctxAt s x).live.token (cmdSigIdx c) + cmdSigN c
  cluster : cmdSigN c ≠ 0 → cmdSigCluster c = true → (ctxAt t x).live.tokens = (ctxAt s x).live.tokens ∧
    clTokAt t (n / 8) (cmdSigIdx c) = clTokAt s (n / 8) (cmdSigIdx c) + cmdSigN c

theorem signalToken_signalled {s t : State} {n x : Nat} {c : BitVec 256} (h : signalToken s n x c = some t) :
    Signalled s t n x c := by
  rcases signalToken_cases h with ⟨hk, rfl⟩ | ⟨hk, hcl, rfl⟩ | ⟨hk, hcl, rfl⟩
  · exact ⟨rfl, fun _ => ⟨rfl, rfl⟩, fun h => absurd hk h, fun h => absurd hk h⟩
  · exact ⟨rfl, fun h => absurd h hk, fun _ h => by simp [hcl] at h, fun _ _ => ⟨rfl, mapGet_put_self _ _ _ _⟩⟩
  · refine ⟨?_, fun h => absurd h hk, fun _ _ => ⟨setCtx_clTok .., ?_⟩, fun _ h => by simp [hcl] at h⟩
    · rw [ctxAt_setCtx_self]; rfl
    · rw [ctxAt_setCtx_self]; exact Pointers.token_setToken _ _ _

/-! ## What follows a completion (09_contexts_tenants.md R233, R240, R244; 17_live_service.md R398) -/

/-- A context on core n that nothing asks to leave for a freeze, for its group's failure or for the core's retirement. -/
structure Settled (s : State) (n x : Nat) : Prop where
  core : (ctxAt s x).core = some n
  free : (fnAt s (ctxAt s x).fn).freezing = false
  job : ((groupAt s (ctxAt s x).group).job.bind (·.failed)) = none
  stays : (coreAt s n).retiring = false

theorem settled_of_mayStay {s : State} {n x : Nat} (h : mayStay s n x) : Settled s n x := by
  obtain ⟨-, hcore, hfree, hjob, hstays, -⟩ := h
  exact ⟨hcore, hfree, hjob, hstays⟩

theorem Settled.congr {s t : State} {n x : Nat} (h : Settled s n x) (hcore : (ctxAt t x).core = (ctxAt s x).core)
    (hfn : (ctxAt t x).fn = (ctxAt s x).fn) (hgroup : (ctxAt t x).group = (ctxAt s x).group) (hfns : t.fns = s.fns)
    (hgroups : t.groups = s.groups) (hret : (coreAt t n).retiring = (coreAt s n).retiring) : Settled t n x where
  core := hcore.trans h.core
  free := by rw [hfn, fnAt_congr hfns]; exact h.free
  job := by rw [hgroup, groupAt, hgroups]; exact h.job
  stays := hret.trans h.stays

theorem retireSettle_staying {s : State} {n : Nat} (h : (coreAt s n).retiring = false) : retireSettle s n = s := by
  simp [retireSettle, h]

theorem freeSlot_core (s : State) (m c n : Nat) : (coreAt (freeSlot s m c) n).retiring = (coreAt s n).retiring ∧
    ((coreAt s n).fly = [] → (coreAt (freeSlot s m c) n).fly = []) := by
  by_cases h : n = m
  · subst h
    unfold freeSlot
    dsimp only
    rw [coreAt_setCore]
    exact ⟨rfl, fun hf => congrArg (List.filter fun f => decide (f.slot ≠ c)) hf⟩
  · have hother : coreAt (freeSlot s m c) n = coreAt s n := mapGet_put_other _ _ _ h
    rw [hother]
    exact ⟨rfl, id⟩

/-- What is left of its context, of memory and of the counters by an operation after a completion. -/
structure CompletionKept (s t : State) (n x : Nat) : Prop where
  mems : t.mems = s.mems
  clTok : t.clTok = s.clTok
  live : (ctxAt t x).live = (ctxAt s x).live
  flags : (ctxAt t x).flags = (ctxAt s x).flags
  fly : (coreAt s n).fly = [] → (coreAt t n).fly = []

theorem CompletionKept.refl (s : State) (n x : Nat) : CompletionKept s s n x := ⟨rfl, rfl, rfl, rfl, id⟩

theorem CompletionKept.trans {s t u : State} {n x : Nat} (h : CompletionKept s t n x) (g : CompletionKept t u n x) :
    CompletionKept s u n x :=
  ⟨g.mems.trans h.mems, g.clTok.trans h.clTok, g.live.trans h.live, g.flags.trans h.flags, fun hf => g.fly (h.fly hf)⟩

/-- An operation on the cores and the registers alone keeps all but, perhaps, the commands in flight. -/
theorem CompletionKept.of_cores {s t : State} {n x : Nat} (h : Keeps 2052 s t)
    (hf : (coreAt s n).fly = [] → (coreAt t n).fly = []) : CompletionKept s t n x :=
  ⟨h.2 .mems (by decide), h.2 .clTok (by decide), by rw [h.ctxAt (by decide)], by rw [h.ctxAt (by decide)], hf⟩

theorem leaveSlot_kept (s : State) (n x st : Nat) : CompletionKept s (leaveSlot s x st) n x := by
  have hself (t : State) (y : Ctx) (hk : Keeps 2048 s t) (hf : (coreAt s n).fly = [] → (coreAt t n).fly = [])
      (hl : y.live = (ctxAt s x).live) (hg : y.flags = (ctxAt s x).flags) : CompletionKept s (setCtx t x y) n x :=
    ⟨(setCtx_mems ..).trans (hk.2 .mems (by decide)), (setCtx_clTok ..).trans (hk.2 .clTok (by decide)),
      by rw [ctxAt_setCtx_self, hl], by rw [ctxAt_setCtx_self, hg], fun h => by
        rw [coreAt_congr (setCtx_cores ..)]; exact hf h⟩
  unfold leaveSlot
  dsimp only
  split
  · next m c _ =>
    exact hself _ _ (freeSlot_keeps (by decide) s m c (Keeps.refl _ s)) (freeSlot_core s m c n).2 rfl rfl
  · exact hself _ _ (Keeps.refl _ s) id rfl rfl

theorem leaveSlot_retiring (s : State) (x st n : Nat) : (coreAt (leaveSlot s x st) n).retiring = (coreAt s n).retiring := by
  unfold leaveSlot
  dsimp only
  rw [coreAt_congr (setCtx_cores ..)]
  split
  · exact (freeSlot_core s _ _ n).1
  · rfl

/-- The slot of a settled context is left only where its core no longer serves it. -/
theorem settleSlot_settled {s : State} {n x : Nat} (h : Settled s n x) :
    settleSlot s x n = s ∨ settleSlot s x n = leaveSlot s x 2 := by
  unfold settleSlot
  dsimp only
  rw [if_neg (by simp [h.job]), if_neg (by simp [h.free])]
  split
  · exact Or.inr rfl
  · exact Or.inl rfl

theorem settleCtx_kept {s : State} {n x : Nat} (h : Settled s n x) : CompletionKept s (settleCtx s x) n x := by
  unfold settleCtx
  dsimp only
  split
  · exact CompletionKept.refl s n x
  · rw [h.core]
    dsimp only
    rcases settleSlot_settled h with hs | hs
    · rw [hs, retireSettle_staying h.stays]
      exact CompletionKept.refl s n x
    · rw [hs, retireSettle_staying ((leaveSlot_retiring s x 2 n).trans h.stays)]
      exact leaveSlot_kept s n x 2

/-- What an operation on the cores leaves of one core's flight and service. -/
def CoreStays (s t : State) (n : Nat) : Prop :=
  (coreAt t n).fly = (coreAt s n).fly ∧ (coreAt t n).retiring = (coreAt s n).retiring

theorem countFill_stays (s : State) (n upto : Nat) : CoreStays s (countFill s n upto) n := by
  simp [CoreStays, countFill, setArr, State.bump, coreAt_congr (State.set_cores ..)]

theorem noteArrayIdle_stays (s : State) (n : Nat) : CoreStays s (noteArrayIdle s n) n := by
  unfold noteArrayIdle
  dsimp only
  split
  · simp [CoreStays, setArr]
  · exact ⟨rfl, rfl⟩

theorem setHeld_stays (s : State) (n c v : Nat) : CoreStays s (setHeld s n c v) n := by
  unfold CoreStays
  rw [coreAt_setHeld]
  exact ⟨rfl, rfl⟩

theorem CoreStays.trans {s t u : State} {n : Nat} (h : CoreStays s t n) (g : CoreStays t u n) : CoreStays s u n :=
  ⟨g.1.trans h.1, g.2.trans h.2⟩

theorem settleBreak_stays (s : State) (n c : Nat) : CoreStays s (settleBreak s n c) n := by
  unfold settleBreak
  dsimp only
  split
  · split
    · simp only [CoreStays, coreAt_congr (State.set_cores ..), coreAt_setCore]
      exact ⟨rfl, rfl⟩
    · exact ⟨rfl, rfl⟩
  · exact ⟨rfl, rfl⟩

theorem countHeld_stays (s : State) (n : Nat) : CoreStays s (countHeld s n) n := by
  unfold countHeld
  split
  · exact ⟨rfl, rfl⟩
  · split
    · split <;> exact setHeld_stays ..
    · exact setHeld_stays ..

theorem accumHeld_stays (s : State) (n : Nat) : CoreStays s (accumHeld s n) n :=
  List.foldlRecOn (motive := fun t => CoreStays s t n) _ _ (countHeld_stays s n)
    fun t ht c _ => ht.trans (settleBreak_stays t n c)

theorem accumHeld_kept (s : State) (n x : Nat) : CompletionKept s (accumHeld s n) n x :=
  CompletionKept.of_cores (accumHeld_only s n) fun h => (accumHeld_stays s n).1.trans h

/-- What follows the signals of a completion: the array's record, the units that may now run, and the context's leave. -/
def afterSignals (s : State) (n x now : Nat) : State := settleCtx (runFly (noteArrayIdle (countFill s n now) n) n) x

theorem afterSignals_kept {s : State} {n x : Nat} (now : Nat) (h : Settled s n x) (hf : (coreAt s n).fly = []) :
    CompletionKept s (afterSignals s n x now) n x := by
  have hk : Keeps 2052 s (noteArrayIdle (countFill s n now) n) :=
    noteArrayIdle_keeps (by decide) _ n (countFill_keeps (by decide) s n now (Keeps.refl _ s))
  obtain ⟨hfly, hret⟩ := (countFill_stays s n now).trans (noteArrayIdle_stays _ n)
  have hidle : runFly (noteArrayIdle (countFill s n now) n) n = noteArrayIdle (countFill s n now) n :=
    runFly_unitsDone fun g hg => by simp [hfly, hf] at hg
  have hctx := hk.ctxAt (by decide) x
  unfold afterSignals
  rw [hidle]
  exact (CompletionKept.of_cores hk fun hf => hfly.trans hf).trans
    (settleCtx_kept (h.congr (by rw [hctx]) (by rw [hctx]) (by rw [hctx]) (hk.2 .fns (by decide))
      (hk.2 .groups (by decide)) hret))

/-! ## The completion as a whole -/

/-- A completed command out of flight, the held time of its slot counted from now. -/
def outOfFlight (s : State) (n : Nat) (f : Inflight) : State :=
  setHeld (setCore s n { coreAt s n with fly := (coreAt s n).fly.filter (fun g => g.uid != f.uid) }) n f.slot 0

theorem outOfFlight_only (s : State) (n : Nat) (f : Inflight) : Keeps 2048 s (outOfFlight s n f) :=
  setHeld_keeps (by decide) _ _ _ _ (setCore_keeps (by decide) s n _ (Keeps.refl _ s))

theorem outOfFlight_fly {s : State} {n : Nat} {f : Inflight} (h : (coreAt s n).fly = [f]) :
    (coreAt (outOfFlight s n f) n).fly = [] := by
  rw [outOfFlight, (setHeld_stays _ _ _ _).1, coreAt_setCore]
  simp [h]

theorem outOfFlight_retiring (s : State) (n : Nat) (f : Inflight) :
    (coreAt (outOfFlight s n f) n).retiring = (coreAt s n).retiring := by
  rw [outOfFlight, (setHeld_stays _ _ _ _).2, coreAt_setCore]

/-- The state in which the signals of a command that completes alone are raised. -/
def outputsMade (s : State) (n : Nat) (f : Inflight) : State :=
  outOfFlight (commitOne n (flyCtx s n f) false s f) n f

theorem completeGroup_alone {s t : State} {n : Nat} {f : Inflight}
    (h : signalToken (outputsMade s n f) n (flyCtx s n f) f.cmd = some t) :
    completeGroup s n [f] = afterSignals t n (flyCtx s n f) (cycleNow (outputsMade s n f)) := by
  have heq : completeGroup s n [f] = afterSignals (signalAll n (flyCtx s n f) [f] (outputsMade s n f)) n
      (flyCtx s n f) (cycleNow (outputsMade s n f)) := by
    simp [completeGroup, afterSignals, outputsMade, outOfFlight, forEach, bne, BEq.comm (a := f.uid)]
  rw [heq, signalAll, h]
  rfl

section
variable {s : State} {n : Nat} {f : Inflight} (hr : f.replay = none)
include hr

/-- The outputs are made, the flags raised and the command is out of flight before its signal. -/
theorem outputsMade_committed : (outputsMade s n f).mems = (committed s n (flyCtx s n f) f).1.mems ∧
    (outputsMade s n f).clTok = s.clTok ∧ ctxAt (outputsMade s n f) (flyCtx s n f) =
      { ctxAt s (flyCtx s n f) with
        flags := (ctxAt s (flyCtx s n f)).flags ||| f.flags |||
          (committed s n (flyCtx s n f) f).2
        progress := (ctxAt (outputsMade s n f) (flyCtx s n f)).progress
        live := afterBoundaryLive ((coreAt s n).slot f.slot).armed f (ctxAt s (flyCtx s n f)).live } := by
  have hcom := commitOne_committed (s := s) (n := n) false hr
  have hout := outOfFlight_only (commitOne n (flyCtx s n f) false s f) n f
  refine ⟨(hout.2 .mems (by decide)).trans hcom.mems, (hout.2 .clTok (by decide)).trans hcom.clTok, ?_⟩
  have hctx := hcom.ctx
  rwa [← hout.ctxAt (by decide)] at hctx

theorem outputsMade_settled (h : Settled s n (flyCtx s n f)) :
    Settled (outputsMade s n f) n (flyCtx s n f) := by
  have hcom := commitOne_committed (s := s) (n := n) false hr
  have hout := outOfFlight_only (commitOne n (flyCtx s n f) false s f) n f
  obtain ⟨-, -, hctx⟩ := outputsMade_committed (s := s) (n := n) hr
  refine h.congr (by rw [hctx]) (by rw [hctx]) (by rw [hctx]) ((hout.2 .fns (by decide)).trans hcom.fns)
    ((hout.2 .groups (by decide)).trans hcom.groups) ((outOfFlight_retiring _ n f).trans ?_)
  rw [coreAt_congr hcom.cores]

end

theorem outputsMade_fly {s : State} {n : Nat} {f : Inflight} (hr : f.replay = none) (h : (coreAt s n).fly = [f]) :
    (coreAt (outputsMade s n f) n).fly = [] :=
  outOfFlight_fly (by rw [coreAt_congr (commitOne_committed false hr).cores, h])

theorem Settled.signalToken {s t : State} {n x : Nat} {c : BitVec 256} (h : Settled s n x)
    (hs : Machine.signalToken s n x c = some t) : Settled t n x := by
  have hk := signalToken_only hs
  have hctx := (signalToken_signalled hs).rest
  exact h.congr (by rw [hctx]) (by rw [hctx]) (by rw [hctx]) (hk.2 .fns (by decide)) (hk.2 .groups (by decide))
    (by rw [hk.coreAt (by decide)])

/-- A command has completed: its outputs, its context's flags and streams, its signal, and nothing in flight. -/
structure Completed (s t : State) (n : Nat) (f : Inflight) : Prop where
  fly : (coreAt t n).fly = []
  mems : t.mems = (committed s n (flyCtx s n f) f).1.mems
  flags : (ctxAt t (flyCtx s n f)).flags = (ctxAt s (flyCtx s n f)).flags ||| f.flags |||
    (committed s n (flyCtx s n f) f).2
  streams : (ctxAt t (flyCtx s n f)).live.streams =
    (afterBoundaryLive ((coreAt s n).slot f.slot).armed f (ctxAt s (flyCtx s n f)).live).streams
  unsignalled : cmdSigN f.cmd = 0 → (ctxAt t (flyCtx s n f)).live.tokens =
    (ctxAt s (flyCtx s n f)).live.tokens ∧ t.clTok = s.clTok
  own : cmdSigN f.cmd ≠ 0 → cmdSigCluster f.cmd = false → t.clTok = s.clTok ∧
    (ctxAt t (flyCtx s n f)).live.token (cmdSigIdx f.cmd) =
      (ctxAt s (flyCtx s n f)).live.token (cmdSigIdx f.cmd) + cmdSigN f.cmd
  cluster : cmdSigN f.cmd ≠ 0 → cmdSigCluster f.cmd = true → (ctxAt t (flyCtx s n f)).live.tokens =
    (ctxAt s (flyCtx s n f)).live.tokens ∧
    clTokAt t (n / 8) (cmdSigIdx f.cmd) = clTokAt s (n / 8) (cmdSigIdx f.cmd) + cmdSigN f.cmd

/-- No counter is raised before the signal. -/
theorem outputsMade_tokens {s : State} {n : Nat} {f : Inflight} (hr : f.replay = none) :
    (ctxAt (outputsMade s n f) (flyCtx s n f)).live.tokens = (ctxAt s (flyCtx s n f)).live.tokens := by
  obtain ⟨-, -, hctx⟩ := outputsMade_committed (s := s) (n := n) hr
  rw [hctx]
  exact afterBoundaryLive_tokens ..

/-- The outputs made, the signal raised, and what follows a completion, are a completion. -/
theorem completed_of_parts {s u t : State} {n : Nat} {f : Inflight} (hr : f.replay = none) (hfly : (coreAt s n).fly = [f])
    (hs : signalToken (outputsMade s n f) n (flyCtx s n f) f.cmd = some u)
    (hk : CompletionKept u t n (flyCtx s n f)) : Completed s t n f := by
  obtain ⟨hmems, hcl, hctx⟩ := outputsMade_committed (s := s) (n := n) hr
  have hsig := signalToken_signalled hs
  have honly := signalToken_only hs
  have htok := outputsMade_tokens (s := s) (n := n) hr
  have htoken (i : Nat) : (ctxAt (outputsMade s n f) (flyCtx s n f)).live.token i =
      (ctxAt s (flyCtx s n f)).live.token i := by unfold Pointers.token; rw [htok]
  have hcount (a i : Nat) : clTokAt (outputsMade s n f) a i = clTokAt s a i := by unfold clTokAt; rw [hcl]
  refine ⟨hk.fly ?_, hk.mems.trans ((honly.2 .mems (by decide)).trans hmems), ?_, ?_, fun h0 => ?_, fun h0 hc => ?_,
    fun h0 hc => ?_⟩
  · rw [honly.coreAt (by decide)]; exact outputsMade_fly hr hfly
  · rw [hk.flags, hsig.rest, hctx]
  · rw [hk.live, hsig.rest, hctx]
  · rw [hk.live, hk.clTok, ← htok, ← hcl]; exact hsig.unsignalled h0
  · rw [hk.live, hk.clTok, ← htoken, ← hcl]; exact hsig.own h0 hc
  · rw [hk.live, ← htok, ← hcount, clTokAt, hk.clTok]; exact hsig.cluster h0 hc

/-- The only command in flight, where its context may stay and its signal does not overflow, completes. -/
theorem complete_completed {s : State} {n : Nat} {f : Inflight} (hfly : (coreAt s n).fly = [f]) (hr : f.replay = none)
    (hreached : reached s n f = true) (hlink : (ctxAt s (flyCtx s n f)).img.link f.idx = 0)
    (hstay : mayStay s n (flyCtx s n f)) (hb : behindReplay s (flyCtx s n f) f = false)
    (hsig : (signalToken s n (flyCtx s n f) f.cmd).isSome = true) :
    Completed s (accumHeld (complete s n f.stream) n) n f := by
  obtain ⟨-, hcl, -⟩ := outputsMade_committed (s := s) (n := n) hr
  rw [← signalToken_isSome_congr hcl (outputsMade_tokens hr)] at hsig
  obtain ⟨u, hu⟩ := Option.isSome_iff_exists.1 hsig
  have hset := (outputsMade_settled hr (settled_of_mayStay hstay)).signalToken hu
  have hfree : (coreAt u n).fly = [] := by
    rw [(signalToken_only hu).coreAt (by decide)]; exact outputsMade_fly hr hfly
  rw [complete_alone hfly hlink hreached hb, completeGroup_alone hu]
  exact completed_of_parts hr hfly hu ((afterSignals_kept _ hset hfree).trans (accumHeld_kept _ n _))

theorem exec_commandComplete {s : State} {n : Nat} (st : Nat) (ha : accumHeld s n = s) :
    exec (.commandComplete n st) s = .next (accumHeld (complete s n st) n) := by
  have heq : exec (.commandComplete n st) s = .next (accumHeld (complete (accumHeld s n) n st) n) := rfl
  rw [heq, ha]

/-! ## Data queues (06_core_streams.md R150) -/

theorem Pointers.dataq_setDataq (p : Pointers) (q : Nat) (d : DataQ) (i : Nat) :
    (p.setDataq q d).dataq i = if i = q then d else p.dataq i := mapGet_put _ _ _ _ _

theorem dataq_putDataq (s : State) (x q : Nat) (d : DataQ) (i : Nat) :
    (ctxAt (putDataq s x q d) x).live.dataq i = if i = q then d else (ctxAt s x).live.dataq i := by
  unfold putDataq
  rw [ctxAt_setCtx_self]
  exact Pointers.dataq_setDataq ..

/-- One data queue of a context stands as given, its others, and all memory, as before. -/
def QueueMoved (s t : State) (x q : Nat) (d : DataQ) : Prop :=
  (ctxAt t x).live.dataq q = d ∧ t.mems = s.mems ∧ ∀ p, p ≠ q → (ctxAt t x).live.dataq p = (ctxAt s x).live.dataq p

theorem putDataq_moved (s : State) (x q : Nat) (d : DataQ) : QueueMoved s (putDataq s x q d) x q d :=
  ⟨by rw [dataq_putDataq, if_pos rfl], setCtx_mems .., fun p hp => by rw [dataq_putDataq, if_neg hp]⟩

theorem QueueMoved.of_cores {s t u : State} {x q : Nat} {d : DataQ} (h : QueueMoved s t x q d) (hk : Keeps 2052 t u) :
    QueueMoved s u x q d := by
  obtain ⟨hd, hm, hp⟩ := h
  unfold QueueMoved
  rw [hk.ctxAt (by decide), hk.2 .mems (by decide)]
  exact ⟨hd, hm, hp⟩

/-- A change of a queue of the running context changes it alone, where no unit waits to run. -/
theorem onDataq_moved {s : State} {n q c : Nat} {g : DataQ → Option DataQ} {d : DataQ} (held : Bool)
    (ha : accumHeld s n = s) (hu : unitsDone s n) (hrun : (coreAt s n).run = some c)
    (hg : g ((ctxAt s ((coreAt s n).slot c).ctx).live.dataq q) = some d) :
    QueueMoved s (onDataq s n q g held) ((coreAt s n).slot c).ctx q d := by
  have heq : onDataq s n q g held = accumHeld (runFly (if held then
      setHeld (putDataq s ((coreAt s n).slot c).ctx q d) n c 0 else putDataq s ((coreAt s n).slot c).ctx q d) n) n := by
    simp only [onDataq, ha, hrun, hg]
  have hput := putDataq_moved s ((coreAt s n).slot c).ctx q d
  have hfly : (coreAt (putDataq s ((coreAt s n).slot c).ctx q d) n).fly = (coreAt s n).fly :=
    congrArg Core.fly (coreAt_congr (setCtx_cores ..) n)
  rw [heq]
  cases held with
  | false =>
    rw [if_neg Bool.false_ne_true, runFly_unitsDone fun f hf => hu f (hfly ▸ hf)]
    exact hput.of_cores (accumHeld_only _ n)
  | true =>
    rw [if_pos rfl, runFly_unitsDone fun f hf => hu f (hfly ▸ (setHeld_stays _ n c 0).1 ▸ hf)]
    exact hput.of_cores (accumHeld_keeps (by decide) _ n (setHeld_keeps (by decide) _ n c 0 (Keeps.refl _ _)))

theorem exec_dataqPush (s : State) (n q : Nat) : exec (.dataqPush n q) s = .next (onDataq s n q pushEntry false) := rfl
theorem exec_dataqFree (s : State) (n q : Nat) : exec (.dataqFree n q) s = .next (onDataq s n q freeEntry true) := rfl

/-- Settles O19: the completion is the outputs, the signal and what follows it, and a queue's move changes one queue alone. -/
theorem commandCompletes : Obligations.CommandCompletes := by
  refine ⟨fun s n st f ha hfly hst hr hreached hlink hstay hb hsig => ?_,
    fun s n q c ha hu hrun => ⟨fun hd => ?_, fun hd => ?_⟩⟩
  · subst hst
    refine acts_of_exec (exec_commandComplete f.stream ha) ?_
    have hcom := complete_completed hfly hr hreached hlink hstay hb hsig
    generalize accumHeld (complete s n f.stream) n = t at hcom ⊢
    obtain ⟨hnone, hmems, hflags, hstreams, hunsig, hown, hcluster⟩ := hcom
    have hstream (i : Nat) : (ctxAt t (flyCtx s n f)).live.stream i =
        (afterBoundaryLive ((coreAt s n).slot f.slot).armed f (ctxAt s (flyCtx s n f)).live).stream i := by
      unfold Pointers.stream; rw [hstreams]
    refine ⟨hnone, hmems, hflags, fun hred => ?_, hunsig, hown, hcluster, fun hop => ?_, fun hop harm => ?_,
      fun hop harm => ?_⟩
    · have hout : committed s n (flyCtx s n f) f = _ := commitOut_unshared hred
      rw [hmems, hflags, hout]
      exact ⟨rfl, Nat.or_zero _⟩
    · rw [hstreams, afterBoundaryLive_other _ _ hop]
    · rw [hstream, afterBoundaryLive_boundary _ _ hop, harm]; rfl
    · rw [hstream, afterBoundaryLive_boundary _ _ hop, harm]; exact ⟨rfl, rfl⟩
  · exact acts_of_exec (exec_dataqPush s n q) (onDataq_moved false ha hu hrun (if_pos hd))
  · exact acts_of_exec (exec_dataqFree s n q) (onDataq_moved true ha hu hrun (if_pos hd))

end Sys2Proof.Machine
end

section
/-! PROOFS. The issue of a command at the head of its stream
(06_core_streams.md R138, R143, R145, R152, R167; 07_hallmark.md R186). -/

namespace Sys2Proof.Machine

/-! ## The row of a command at the head of its stream (06_core_streams.md R138) -/

/-- A row without errors of its reads only issues. -/
theorem issueErr_clean (n st : Nat) (want : BitVec 256 → Bool) (s : State) : issueErr n st want [] s = issueRow n st want [] s :=
  ite_self _

/-- Each row of the stream commands issues a command of its kind on its stream. -/
theorem exec_issueOf {i : Instr} {n st op sub : Nat} (s : State) (h : issueOf i = some (n, st, op, sub)) :
    exec i s = .next (issueRow n st (isKind op sub) [] s) := by
  unfold issueOf at h
  split at h <;> cases h
  case h_4 | h_26 => exact congrArg Host.Outcome.next (issueErr_clean ..)
  all_goals rfl

/-- No link group has begun to issue on a core. -/
theorem groupBegun_none {s : State} {n : Nat} (h : (coreAt s n).grp = none) (c idx : Nat) : groupBegun s n c idx = false := by
  simp [groupBegun, h]

/-- What holds of a head that may issue: of its context and core, of its engine, of its waits, and of the breaks before it. -/
structure Issuable (s : State) (n st c : Nat) (h : Head) : Prop where
  run : (coreAt s n).run = some c
  may : mayRun s n c = true
  grp : (coreAt s n).grp = none
  stall : (coreAt s n).stall = none
  room : ((coreAt s n).fly.filter (fun f => f.slot == c && f.stream == st)).length < roomOf st
  start : mayStart s n (ctxAt s ((coreAt s n).slot c).ctx) h.idx = true
  rank : outranked s n c = false
  good : headBad (ctxAt s ((coreAt s n).slot c).ctx) st h = false
  allot : allotted (ctxAt s ((coreAt s n).slot c).ctx) h.cmd = true
  token : tokenMet s n (ctxAt s ((coreAt s n).slot c).ctx) h.cmd = true
  peers : peersReady s n c h.idx = true
  first : earlierWaiter s n st h.cmd = false
  word : tenantWait (ctxAt s ((coreAt s n).slot c).ctx) h.cmd = true →
    ∃ w, ((ctxAt s ((coreAt s n).slot c).ctx).live.stream st).word = some w ∧ (accOf h.cmd).imm ≤ w
  brk : ((coreAt s n).slot c).resumed = some st ∨ ((coreAt s n).slot c).stepOn = some st ∨ groupBreak s n c st h = none
  array : ¬(cmdOp h.cmd = Opc.matrix ∧ arrState s n ≠ Fn.running)

theorem issuable_of_mayIssue {s : State} {n st c : Nat} {h : Head} (hm : mayIssue s n st c h = true) :
    Issuable s n st c h := by
  simp only [mayIssue, Bool.and_eq_true, Bool.or_eq_true, Bool.not_eq_true', beq_iff_eq, bne_iff_ne, decide_eq_true_eq,
    Option.isNone_iff_eq_none, or_assoc] at hm
  obtain ⟨⟨⟨⟨⟨⟨⟨⟨⟨⟨⟨⟨⟨⟨hrun, hmay⟩, hgrp⟩, hstall⟩, hroom⟩, hstart⟩, hrank⟩, hgood⟩, hallot⟩, htok⟩, hpeers⟩, hfirst⟩,
    hword⟩, hbrk⟩, harr⟩ := hm
  refine ⟨hrun, hmay, hgrp, hstall, hroom, hstart, hrank, hgood, hallot, htok, hpeers, hfirst, fun ht => ?_, hbrk, by tauto⟩
  rw [ht] at hword
  rcases hword with h | h
  · exact absurd h (by decide)
  · split at h
    · next w hw => exact ⟨w, hw, of_decide_eq_true h⟩
    · exact absurd h (by decide)

section
variable {s : State} {n st c : Nat} {h : Head} (hi : Issuable s n st c h)
include hi

theorem Issuable.resident : (ctxAt s ((coreAt s n).slot c).ctx).state = 3 := by
  have hmay := hi.may
  simp only [mayRun, Bool.and_eq_true, beq_iff_eq] at hmay
  tauto

/-- The word of its TENANT WAIT_MEM is at hand, so that no read is made. -/
theorem Issuable.headWord (ht : tenantWait (ctxAt s ((coreAt s n).slot c).ctx) h.cmd = true) : headWord s n c st h ≠ none := by
  obtain ⟨w, hw, -⟩ := hi.word ht
  simp [Machine.headWord, hw]

end

/-- A head that may issue, of the row's kind, is launched. -/
theorem issueHead_launches {s : State} {n st c : Nat} {h : Head} {want : BitVec 256 → Bool} (hh : headOf s n c st = some h)
    (hi : Issuable s n st c h) (hw : want h.cmd = true) : issueHead s n st want = launch s n c st h := by
  have hpass : (if ((coreAt s n).slot c).resumed = some st ∨ ((coreAt s n).slot c).stepOn = some st then none
      else groupBreak s n c st h) = none :=
    ite_eq_left_iff.2 fun hno => by have := hi.brk; tauto
  unfold issueHead
  simp only [hi.run, hh, groupBegun_none hi.grp, hi.may, hi.room, hi.start, hi.rank, hi.grp, hi.good, hw, hi.allot, hi.token,
    hi.peers, hi.first]
  by_cases ht : tenantWait (ctxAt s ((coreAt s n).slot c).ctx) h.cmd = true
  · obtain ⟨w, hword, hle⟩ := hi.word ht
    simp [ht, hi.headWord ht, hword, hle, hpass, hi.resident, hi.array]
  · simp [ht, hpass, hi.resident, hi.array]

/-- The row of a head that may issue launches it. -/
theorem issueRow_launches {s : State} {n st op sub c : Nat} {h : Head} (hn : n < 128) (hst : st < 4) (ha : accumHeld s n = s)
    (hh : headOf s n c st = some h) (hi : Issuable s n st c h) (hk : cmdKind h.cmd = (op, sub)) :
    issueRow n st (isKind op sub) [] s = accumHeld (launch s n c st h) n := by
  have hclean : memErrors s n [] = s := rfl
  unfold issueRow
  rw [if_pos ⟨hn, hst⟩, ha, hclean, issueHead_launches hh hi (by simp [isKind, hk])]

/-- The opcode is the first part of a command's kind. -/
theorem cmdOp_of_kind {c : BitVec 256} {op sub : Nat} (h : cmdKind c = (op, sub)) : cmdOp c = op := by
  unfold cmdKind at h
  split at h <;> simp_all

/-! ## The waits consumed (06_core_streams.md R152; 07_hallmark.md R186) -/

/-- The CONSUME waits of commands taken from their counters, one after the other. -/
def waitsConsumed (s : State) (n x : Nat) (l : List (BitVec 256)) : State := forEach l (fun t d => consume t n x d) s

theorem waitsConsumed_cons (s : State) (n x : Nat) (d : BitVec 256) (l : List (BitVec 256)) :
    waitsConsumed s n x (d :: l) = waitsConsumed (consume s n x d) n x l := rfl

theorem waitsConsumed_only (s : State) (n x : Nat) (l : List (BitVec 256)) : Keeps 12288 s (waitsConsumed s n x l) :=
  forEach_keeps (by decide) _ _ _ (fun t d ht => consume_keeps (by decide) t n x d ht) (Keeps.refl _ s)

theorem afterWaits_cons (cluster : Bool) (i : Nat) (d : BitVec 256) (l : List (BitVec 256)) (t : Nat) :
    afterWaits cluster i (d :: l) t = afterWaits cluster i l (afterWaits cluster i [d] t) := rfl

theorem afterWaits_single (cluster : Bool) (i : Nat) (d : BitVec 256) (t : Nat) : afterWaits cluster i [d] t =
    if cmdWaitCluster d = cluster ∧ cmdPeek d = false ∧ cmdWaitIdx d = i then t - cmdWaitN d else t := rfl

/-- A wait that consumes nothing leaves every counter. -/
theorem afterWaits_idle {d : BitVec 256} (h : cmdWaitN d = 0 ∨ cmdPeek d = true) (cluster : Bool) (i t : Nat) :
    afterWaits cluster i [d] t = t := by
  rcases h with h | h <;> simp [afterWaits_single, h]

/-- The counters of a context and of a core's cluster stand lowered by the CONSUME waits of commands. -/
structure Consumed (s t : State) (n x : Nat) (l : List (BitVec 256)) : Prop where
  own : ∀ k, (ctxAt t x).live.token k = afterWaits false k l ((ctxAt s x).live.token k)
  cluster : ∀ k < 256, clTokAt t (n / 8) k = afterWaits true k l (clTokAt s (n / 8) k)
  others : ∀ a, ∀ k < 256, a ≠ n / 8 → clTokAt t a k = clTokAt s a k

theorem cmdWaitIdx_lt (d : BitVec 256) : cmdWaitIdx d < 256 := Nat.mod_lt _ (by decide)

theorem Pointers.token_setToken_eq (p : Pointers) (i v k : Nat) :
    (p.setToken i v).token k = if k = i then v else p.token k := mapGet_put _ _ _ _ _

theorem clTokAt_setClTok (s : State) (a i v b k : Nat) :
    clTokAt (setClTok s a i v) b k = if 256 * b + k = 256 * a + i then v else clTokAt s b k := mapGet_put _ _ _ _ _

theorem consume_cluster {d : BitVec 256} (hd : ¬(cmdWaitN d = 0 ∨ cmdPeek d = true)) (hcl : cmdWaitCluster d = true)
    (s : State) (n x : Nat) : consume s n x d =
      setClTok s (n / 8) (cmdWaitIdx d) (clTokAt s (n / 8) (cmdWaitIdx d) - cmdWaitN d) := by
  unfold consume
  rw [if_neg hd, if_pos hcl]

theorem consume_own {d : BitVec 256} (hd : ¬(cmdWaitN d = 0 ∨ cmdPeek d = true)) (hcl : cmdWaitCluster d = false)
    (s : State) (n x : Nat) : consume s n x d = setCtx s x { ctxAt s x with
      live := (ctxAt s x).live.setToken (cmdWaitIdx d) ((ctxAt s x).live.token (cmdWaitIdx d) - cmdWaitN d) } := by
  unfold consume
  rw [if_neg hd, if_neg (by simp [hcl])]

theorem consume_idle {d : BitVec 256} (hd : cmdWaitN d = 0 ∨ cmdPeek d = true) (s : State) (n x : Nat) : consume s n x d = s :=
  if_pos hd

theorem consume_consumed (s : State) (n x : Nat) (d : BitVec 256) : Consumed s (consume s n x d) n x [d] := by
  by_cases hidle : cmdWaitN d = 0 ∨ cmdPeek d = true
  · rw [consume_idle hidle]
    exact ⟨fun k => (afterWaits_idle hidle ..).symm, fun k _ => (afterWaits_idle hidle ..).symm, fun _ _ _ _ => rfl⟩
  have hpeek : cmdPeek d = false := by simp_all
  have hidx := cmdWaitIdx_lt d
  cases hcl : cmdWaitCluster d with
  | true =>
    rw [consume_cluster hidle hcl]
    refine ⟨fun k => ?_, fun k hk => ?_, fun a k hk ha => ?_⟩
    · rw [afterWaits_single, hcl, if_neg (by simp)]
      rfl
    · rw [clTokAt_setClTok, afterWaits_single]
      by_cases hki : cmdWaitIdx d = k
      · rw [if_pos (by omega), if_pos ⟨hcl, hpeek, hki⟩, hki]
      · rw [if_neg (by omega), if_neg (fun h => hki h.2.2)]
    · rw [clTokAt_setClTok, if_neg (by omega)]
  | false =>
    rw [consume_own hidle hcl]
    refine ⟨fun k => ?_, fun k _ => ?_, fun a k _ _ => ?_⟩
    · rw [ctxAt_setCtx_self, Pointers.token_setToken_eq, afterWaits_single]
      by_cases hki : cmdWaitIdx d = k
      · rw [if_pos hki.symm, if_pos ⟨hcl, hpeek, hki⟩, hki]
      · rw [if_neg (Ne.symm hki), if_neg (fun h => hki h.2.2)]
    · rw [afterWaits_single, hcl, if_neg (by simp)]
      rfl
    · rfl

theorem waitsConsumed_consumed (n x : Nat) (l : List (BitVec 256)) (s : State) : Consumed s (waitsConsumed s n x l) n x l := by
  induction l generalizing s with
  | nil => exact ⟨fun _ => rfl, fun _ _ => rfl, fun _ _ _ _ => rfl⟩
  | cons d l ih =>
    rw [waitsConsumed_cons]
    have htail := ih (consume s n x d)
    have hhead := consume_consumed s n x d
    refine ⟨fun k => ?_, fun k hk => ?_, fun a k hk ha => (htail.others a k hk ha).trans (hhead.others a k hk ha)⟩
    · rw [htail.own, hhead.own, ← afterWaits_cons]
    · rw [htail.cluster k hk, hhead.cluster k hk, ← afterWaits_cons]

theorem consume_streams (s : State) (n x : Nat) (d : BitVec 256) :
    (ctxAt (consume s n x d) x).live.streams = (ctxAt s x).live.streams := by
  unfold consume
  split
  · rfl
  split
  · rfl
  · rw [ctxAt_setCtx_self]
    rfl

/-- The waits leave the context's streams. -/
theorem waitsConsumed_stream (s : State) (n x : Nat) (l : List (BitVec 256)) (st : Nat) :
    (ctxAt (waitsConsumed s n x l) x).live.stream st = (ctxAt s x).live.stream st :=
  congrArg (fun m => mapGet _ m st) (List.foldlRecOn (motive := fun t => (ctxAt t x).live.streams = (ctxAt s x).live.streams)
    l _ rfl fun t ht d _ => (consume_streams t n x d).trans ht)

/-! ## The stream moved past its command (06_core_streams.md R145, R167) -/

/-- A stream past the command that it issues. -/
def streamPast (t : Stream) (h : Head) : Stream :=
  let t := { t with count := (t.count + 1) % 2 ^ 48, word := none }
  match h.entry with
  | some _ => { t with dynq := t.dynq.tail, dynHead := t.dynHead + 1, dynLeft := t.dynLeft - 1 }
  | none => { t with pc := h.idx + 1, dynLeft := if cmdOp h.cmd = Opc.dynq then cmdF h.cmd 191 176 else t.dynLeft }

theorem streamPast_count (t : Stream) (h : Head) : (streamPast t h).count = (t.count + 1) % 2 ^ 48 := by
  unfold streamPast
  dsimp only
  split <;> rfl

theorem streamPast_program (t : Stream) {h : Head} (he : h.entry = none) : (streamPast t h).pc = h.idx + 1 ∧
    (streamPast t h).dynLeft = if cmdOp h.cmd = Opc.dynq then cmdF h.cmd 191 176 else t.dynLeft := by
  simp [streamPast, he]

theorem streamPast_entry (t : Stream) {h : Head} {e : BitVec 64} (he : h.entry = some e) : (streamPast t h).pc = t.pc ∧
    (streamPast t h).dynq = t.dynq.tail ∧ (streamPast t h).dynLeft = t.dynLeft - 1 := by
  simp [streamPast, he]

theorem releaseStall_free {s : State} {n : Nat} (h : (coreAt s n).stall = none) : releaseStall s n = s := by
  simp [releaseStall, h]

/-- Where no push is stalled, only the stream that issues moves. -/
theorem advanceStream_free {s : State} {n : Nat} (hstall : (coreAt s n).stall = none) (x st : Nat) (h : Head) :
    advanceStream s n x st h = setCtx s x { ctxAt s x with
      live := (ctxAt s x).live.setStream st (streamPast ((ctxAt s x).live.stream st) h) } :=
  releaseStall_free ((congrArg Core.stall (coreAt_congr (setCtx_cores ..) n)).trans hstall)

/-! ## The command put in flight (06_core_streams.md R138, R171; 07_hallmark.md R186) -/

/-- The state in which a command joins those in flight: its waits are consumed and its stream has moved on. -/
def issueTaken (s : State) (n c st : Nat) (h : Head) : State :=
  advanceStream (waitsConsumed s n ((coreAt s n).slot c).ctx (waitsOf s n c h)) n ((coreAt s n).slot c).ctx st h

/-- A slot whose RESUME or STEP of a stream has been used. -/
def slotIssued (z : Slot) (st : Nat) : Slot :=
  { z with resumed := if z.resumed = some st then none else z.resumed, stepOn := if z.stepOn = some st then none else z.stepOn }

/-- A command of stream st of slot c put in flight, with the core's link group. -/
def joined (s : State) (n c st : Nat) (f : Inflight) (grp : Option (Nat × Nat)) : State :=
  setCore { s with uids := s.uids + 1 } n { (coreAt s n).setSlot c (slotIssued ((coreAt s n).slot c) st) with
    fly := (coreAt s n).fly ++ [f], grp := grp }

/-- The break of a STEP stands again behind the command that issued (R170). -/
def stepBroken (s : State) (n c st : Nat) : State :=
  if ((coreAt s n).slot c).halted then
    setCore s n ((coreAt s n).setSlot c { (coreAt s n).slot c with
      brk := some (st, s.get CORE_DBG_STATUS.CAUSE n, ((headOf s n c st).map (fun h => cmdTag h.cmd)).getD 0) })
  else s

/-- What an issue does besides: the trace, the Lantern's turn, the held time, and the break of a STEP. -/
def issueNoted (s : State) (n c st tag x count : Nat) : State :=
  let t := trace s n c st 0 0 tag x count
  stepBroken (setHeld (if st = 1 then lanternTurn t n else t) n c 0) n c st

/-- An issue outside a link group's: the waits, the stream, the command in flight, and what is noted. -/
theorem issued_eq {s : State} {n c st : Nat} {h : Head} (hg : (coreAt s n).grp = none) : ∃ grp, issued s n c st h =
    issueNoted (joined (issueTaken s n c st h) n c st (mkFly s n c st h) grp) n c st (cmdTag h.cmd) ((coreAt s n).slot c).ctx
      (mkFly s n c st h).count := by
  refine ⟨if (ctxAt s ((coreAt s n).slot c).ctx).img.link h.idx ≠ 0 ∧ (coreAt (issueTaken s n c st h) n).grp.isNone then
    some ((ctxAt s ((coreAt s n).slot c).ctx).img.link h.idx, nowNs (issueTaken s n c st h))
    else (coreAt (issueTaken s n c st h) n).grp, ?_⟩
  unfold issued
  simp only [groupBegun_none hg, hg]
  rfl

/-! What is noted leaves the contexts, the counters and the numbers, and the commands in flight but for what they wait for. -/

/-- Of the commands in flight an operation changes what they wait for at the Lantern alone. -/
def FlyStays (s t : State) (n : Nat) : Prop :=
  (coreAt t n).fly.map Inflight.sansLevel = (coreAt s n).fly.map Inflight.sansLevel

theorem FlyStays.trans {s t u : State} {n : Nat} (h : FlyStays s t n) (g : FlyStays t u n) : FlyStays s u n := Eq.trans g h

theorem setArr_flyStays (s : State) (n : Nat) (a : Arr) : FlyStays s (setArr s n a) n := by simp [FlyStays]

theorem releaseLevel_flyStays (s : State) (n : Nat) : FlyStays s (releaseLevel s n) n := by
  unfold FlyStays releaseLevel
  rw [coreAt_setCore, List.map_map]
  refine List.map_congr_left fun f _ => ?_
  dsimp only [Function.comp]
  split <;> rfl

theorem lanternTurn_flyStays (s : State) (n : Nat) : FlyStays s (lanternTurn s n) n := by
  unfold lanternTurn
  dsimp only
  split
  · rfl
  split
  · split
    · exact (setArr_flyStays ..).trans (releaseLevel_flyStays ..)
    · split
      · exact setArr_flyStays ..
      · rfl
  · split
    · exact setArr_flyStays ..
    · split
      · exact setArr_flyStays ..
      · rfl

theorem stepBroken_fly (s : State) (n c st : Nat) : (coreAt (stepBroken s n c st) n).fly = (coreAt s n).fly := by
  unfold stepBroken
  split
  · rw [coreAt_setCore]
    rfl
  · rfl

section
variable (s : State) (n c st tag x count : Nat)

theorem issueNoted_only : Keeps 2052 s (issueNoted s n c st tag x count) := by
  have htrace := trace_keeps (m := 2052) (by decide) s n c st 0 0 tag x count (Keeps.refl _ s)
  have hturn : Keeps 2052 s (if st = 1 then lanternTurn (trace s n c st 0 0 tag x count) n else trace s n c st 0 0 tag x count) :=
    ite_keeps (lanternTurn_keeps (by decide) _ n htrace) htrace
  have hheld := setHeld_keeps (by decide) _ n c 0 hturn
  exact ite_keeps (setCore_keeps (by decide) _ n _ hheld) hheld

theorem issueNoted_fly : (coreAt (issueNoted s n c st tag x count) n).fly =
    (coreAt (if st = 1 then lanternTurn (trace s n c st 0 0 tag x count) n else trace s n c st 0 0 tag x count) n).fly :=
  (stepBroken_fly ..).trans (setHeld_stays ..).1

theorem issueNoted_flyStays : FlyStays s (issueNoted s n c st tag x count) n := by
  have htrace : FlyStays s (trace s n c st 0 0 tag x count) n := by
    unfold FlyStays
    rw [(trace_only _ _ _ _ _ _ _ _ _).coreAt (by decide)]
  unfold FlyStays
  rw [issueNoted_fly]
  split
  · exact htrace.trans (lanternTurn_flyStays ..)
  · exact htrace

theorem issueNoted_fly_other (h : st ≠ 1) : (coreAt (issueNoted s n c st tag x count) n).fly = (coreAt s n).fly := by
  rw [issueNoted_fly, if_neg h, (trace_only _ _ _ _ _ _ _ _ _).coreAt (by decide)]

end

/-! ## The issue as a whole -/

/-- The context of slot c of core n. -/
abbrev slotCtx (s : State) (n c : Nat) : Nat := ((coreAt s n).slot c).ctx

section
variable {s : State} {n c st : Nat} {h : Head} (hstall : (coreAt s n).stall = none)
include hstall

theorem issueTaken_eq : issueTaken s n c st h =
    setCtx (waitsConsumed s n (slotCtx s n c) (waitsOf s n c h)) (slotCtx s n c)
      { ctxAt (waitsConsumed s n (slotCtx s n c) (waitsOf s n c h)) (slotCtx s n c) with
        live := (ctxAt (waitsConsumed s n (slotCtx s n c) (waitsOf s n c h)) (slotCtx s n c)).live.setStream st
          (streamPast ((ctxAt s (slotCtx s n c)).live.stream st) h) } := by
  have hcore := (waitsConsumed_only s n (slotCtx s n c) (waitsOf s n c h)).coreAt (by decide) n
  rw [issueTaken, advanceStream_free (by rw [hcore, hstall]), waitsConsumed_stream]

theorem issueTaken_only : Keeps 12288 s (issueTaken s n c st h) := by
  rw [issueTaken_eq hstall]
  exact setCtx_keeps (by decide) _ _ _ (waitsConsumed_only ..)

theorem issueTaken_stream : (ctxAt (issueTaken s n c st h) (slotCtx s n c)).live.stream st =
    streamPast ((ctxAt s (slotCtx s n c)).live.stream st) h := by
  rw [issueTaken_eq hstall, ctxAt_setCtx_self, Pointers.stream_setStream, if_pos rfl]

theorem issueTaken_consumed : Consumed s (issueTaken s n c st h) n (slotCtx s n c) (waitsOf s n c h) := by
  obtain ⟨hown, hcl, hoth⟩ := waitsConsumed_consumed n (slotCtx s n c) (waitsOf s n c h) s
  rw [issueTaken_eq hstall]
  refine ⟨fun k => ?_, hcl, hoth⟩
  rw [ctxAt_setCtx_self]
  exact hown k

end

/-- A command has been issued: it is the last in flight, its stream has moved on, and its waits are consumed. -/
structure Issued (s u : State) (n c st : Nat) (h : Head) : Prop where
  fly : (coreAt u n).fly.map Inflight.sansLevel = ((coreAt s n).fly ++ [mkFly s n c st h]).map Inflight.sansLevel
  flyOther : st ≠ 1 → (coreAt u n).fly = (coreAt s n).fly ++ [mkFly s n c st h]
  uids : u.uids = s.uids + 1
  stream : (ctxAt u (slotCtx s n c)).live.stream st = streamPast ((ctxAt s (slotCtx s n c)).live.stream st) h
  waits : Consumed s u n (slotCtx s n c) (waitsOf s n c h)

theorem issued_issued {s : State} {n c st : Nat} {h : Head} (hi : Issuable s n st c h) :
    Issued s (issued s n c st h) n c st h := by
  obtain ⟨grp, heq⟩ := issued_eq (c := c) (st := st) (h := h) hi.grp
  have htaken := issueTaken_only (c := c) (st := st) (h := h) hi.stall
  have hnoted := issueNoted_only (joined (issueTaken s n c st h) n c st (mkFly s n c st h) grp) n c st (cmdTag h.cmd)
    (slotCtx s n c) (mkFly s n c st h).count
  have hfly : (coreAt (joined (issueTaken s n c st h) n c st (mkFly s n c st h) grp) n).fly =
      (coreAt s n).fly ++ [mkFly s n c st h] := by
    rw [joined, coreAt_setCore, htaken.coreAt (by decide)]
  have hctx (x : Nat) : ctxAt (issued s n c st h) x = ctxAt (issueTaken s n c st h) x := by
    rw [heq, hnoted.ctxAt (by decide)]
    rfl
  have hcl (a k : Nat) : clTokAt (issued s n c st h) a k = clTokAt (issueTaken s n c st h) a k := by
    rw [heq, clTokAt, hnoted.2 .clTok (by decide)]
    rfl
  have hcon := issueTaken_consumed (c := c) (st := st) (h := h) hi.stall
  refine ⟨?_, fun h1 => ?_, ?_, ?_, fun k => ?_, fun k hk => ?_, fun a k hk ha => ?_⟩
  · rw [heq, ← hfly]
    exact issueNoted_flyStays ..
  · rw [heq, ← hfly]
    exact issueNoted_fly_other _ _ _ _ _ _ _ h1
  · rw [heq, hnoted.2 .uids (by decide)]
    exact congrArg (· + 1) (htaken.2 .uids (by decide))
  · rw [hctx]
    exact issueTaken_stream hi.stall
  · rw [hctx]
    exact hcon.own k
  · rw [hcl]
    exact hcon.cluster k hk
  · rw [hcl]
    exact hcon.others a k hk ha

/-- A command without pointers, alone in flight, has no unit to run. -/
theorem unitsDone_of_issued {s u : State} {n c st : Nat} {h : Head} (hi : Issued s u n c st h)
    (hp : usesPointers h.cmd = false) (hfly : (coreAt s n).fly = []) : unitsDone u n := by
  have hunits : (mkFly s n c st h).units = 0 := by simp [mkFly, hp]
  intro f hf
  have hmem := List.mem_map_of_mem (f := Inflight.sansLevel) hf
  rw [hi.fly, hfly, List.nil_append, List.map_singleton, List.mem_singleton] at hmem
  have hzero : f.units = 0 := (congrArg Inflight.units hmem).trans hunits
  omega

/-- Settles O16: the row launches the head (log 219), and the issue is its waits, its stream and the command in flight. -/
theorem streamIssue : Obligations.StreamIssue := by
  intro i s n st op sub c h hrow hn hst ha hhead hmay hkind
  have hi := issuable_of_mayIssue hmay
  have hexec : exec i s = .next (accumHeld (runFly (issued s n c st h) n) n) := by
    rw [exec_issueOf s hrow, issueRow_launches hn hst ha hhead hi hkind]
    rfl
  have hu := issued_issued hi
  have honly := issued_keeps (m := 2147497988) (by decide) s n c st h (Keeps.refl _ s)
  refine ⟨hexec, fun hp hfly => ?_, ⟨mkFly s n c st h, hu.fly, hu.flyOther, rfl, rfl, rfl, rfl, rfl, rfl⟩, hu.uids,
    honly.2 .mems (by decide), honly.2 .fab (by decide), ?_, fun he => ?_, fun e he => ?_, hu.waits.own, hu.waits.cluster,
    hu.waits.others⟩
  · rw [hexec, runFly_unitsDone (unitsDone_of_issued hu hp hfly)]
  · rw [hu.stream]
    exact streamPast_count ..
  · rw [hu.stream, ← cmdOp_of_kind hkind]
    exact streamPast_program _ he
  · rw [hu.stream]
    exact streamPast_entry _ he

end Sys2Proof.Machine
end

section
/-! PROOFS. The signal engine: its data and its control instructions (06_core_streams.md R163 to R166). -/

namespace Sys2Proof.Machine

/-! ## The engine and its command after an update of the core -/

section
variable (s : State) (n : Nat) (e : SigEng)

@[simp] theorem sigAt_setSig : sigAt (setSig s n e) n = e := congrArg Core.sig (coreAt_setCore ..)
@[simp] theorem coreAt_setSig : coreAt (setSig s n e) n = { coreAt s n with sig := e } := coreAt_setCore ..
@[simp] theorem sigFly_setSig : sigFly (setSig s n e) n = sigFly s n := by simp [sigFly]
@[simp] theorem setSig_mems : (setSig s n e).mems = s.mems := setCore_mems ..
@[simp] theorem ctxAt_setSig (x : Nat) : ctxAt (setSig s n e) x = ctxAt s x := ctxAt_congr (setCore_ctxs ..) x

variable (f : Inflight)

@[simp] theorem sigAt_putFly : sigAt (putFly s n f) n = sigAt s n := by simp [sigAt, putFly]
@[simp] theorem coreAt_putFly : coreAt (putFly s n f) n =
    { coreAt s n with fly := (coreAt s n).fly.map (fun g => if g.uid = f.uid then f else g) } := coreAt_setCore ..
@[simp] theorem putFly_mems : (putFly s n f).mems = s.mems := setCore_mems ..
@[simp] theorem ctxAt_putFly (x : Nat) : ctxAt (putFly s n f) x = ctxAt s x := ctxAt_congr (setCore_ctxs ..) x

end

/-- The first command that meets a test, replaced by one of its number that meets it, is that one. -/
theorem find_replaced {p : Inflight → Bool} {f g : Inflight} {l : List Inflight} (hf : l.find? p = some f) (hu : g.uid = f.uid)
    (hg : p g = true) : (l.map (fun h => if h.uid = g.uid then g else h)).find? p = some g := by
  induction l with
  | nil => exact absurd hf (by simp)
  | cons h l ih =>
    rw [List.map_cons]
    by_cases hp : p h = true
    · rw [List.find?_cons_of_pos hp] at hf
      rw [Option.some.inj hf, if_pos hu.symm, List.find?_cons_of_pos hg]
    · rw [List.find?_cons_of_neg hp] at hf
      split
      · exact List.find?_cons_of_pos hg
      · rw [List.find?_cons_of_neg hp]
        exact ih hf

/-- A command in flight one cycle on. -/
def oneCycle (f : Inflight) : Inflight := { f with cost := f.cost + 1 }

section
variable {s : State} {n : Nat} {f : Inflight} (hf : sigFly s n = some f)
include hf

theorem sigFly_stream : f.stream = 3 := by simpa using List.find?_some hf

theorem sigFly_putFly {g : Inflight} (hu : g.uid = f.uid) (hg : g.stream = 3) : sigFly (putFly s n g) n = some g := by
  rw [sigFly, coreAt_putFly]
  exact find_replaced hf hu (by simp [hg])

theorem sigCost_one : sigCost s n 1 = putFly s n (oneCycle f) := by
  unfold sigCost
  rw [hf]
  rfl

theorem sigFly_sigCost : sigFly (sigCost s n 1) n = some (oneCycle f) := by
  have hst := sigFly_stream hf
  rw [sigCost_one hf]
  exact sigFly_putFly hf rfl hst

end

section
variable (s : State) (n k : Nat)

@[simp] theorem sigAt_sigCost : sigAt (sigCost s n k) n = sigAt s n := by
  unfold sigCost
  split
  · exact sigAt_putFly ..
  · rfl

@[simp] theorem sigCost_mems : (sigCost s n k).mems = s.mems :=
  (sigCost_keeps (m := 2048) (by decide) s n k (Keeps.refl _ s)).2 .mems (by decide)

end

/-- Of the signal engine, of its command and of memory nothing has changed. -/
structure KernelStays (s t : State) (n : Nat) : Prop where
  sig : sigAt t n = sigAt s n
  fly : (coreAt t n).fly = (coreAt s n).fly
  mems : t.mems = s.mems

theorem KernelStays.sigFly {s t : State} {n : Nat} (h : KernelStays s t n) : sigFly t n = Machine.sigFly s n := by
  unfold Machine.sigFly
  rw [h.fly]

theorem countHeld_sig (s : State) (n : Nat) : sigAt (countHeld s n) n = sigAt s n := by
  have hset (c v : Nat) : sigAt (setHeld s n c v) n = sigAt s n := by
    rw [sigAt, coreAt_setHeld]
    rfl
  unfold countHeld
  split
  · rfl
  · split
    · split <;> exact hset ..
    · exact hset ..

theorem settleBreak_sig (s : State) (n c : Nat) : sigAt (settleBreak s n c) n = sigAt s n := by
  unfold settleBreak
  dsimp only
  split
  · split
    · simp only [sigAt, coreAt_set, coreAt_setCore]
      rfl
    · rfl
  · rfl

/-- The held time and the breaks of a core are none of its engine's. -/
theorem accumHeld_kernel (s : State) (n : Nat) : KernelStays s (accumHeld s n) n :=
  ⟨List.foldlRecOn (motive := fun t => sigAt t n = sigAt s n) _ _ (countHeld_sig s n)
      fun t ht c _ => (settleBreak_sig t n c).trans ht,
    (accumHeld_stays s n).1, (accumHeld_only s n).2 .mems (by decide)⟩

/-! ## The row of the instruction at the kernel's place (R164) -/

theorem sigHere_fly {s : State} {n pc : Nat} {f : Inflight} {i : BitVec 64} (hh : sigHere s n f pc i) : sigFly s n = some f := by
  obtain ⟨-, hf, -⟩ := hh
  exact hf

theorem sigRow_runs {s : State} {n pc : Nat} {f : Inflight} {i : BitVec 64} (hh : sigHere s n f pc i)
    (hl : sigListed (sigOp i) = true) (body : BitVec 64 → Nat → State → State) :
    sigRow (sigOp i) n body s = accumHeld (body i pc s) n := by
  obtain ⟨hpc, hf, -, -, ha, hkern, hi⟩ := hh
  unfold sigRow
  simp [ha, hpc, hf, ← hi, hl, Nat.not_le.2 hkern]

/-- The engine as it goes on at a place. -/
def engAt (e : SigEng) (pc : Nat) : SigEng := { e with pc := some pc, rep := 0 }

section
variable (e : SigEng) (pc r k p : Nat)

@[simp] theorem engAt_pc : (engAt e pc).pc = some pc := rfl
@[simp] theorem engAt_adr : (engAt e pc).adr r = e.adr r := rfl
@[simp] theorem engAt_cbuf : (engAt e pc).cbuf r = e.cbuf r := rfl
@[simp] theorem engAt_sca : (engAt e pc).sca r = e.sca r := rfl
@[simp] theorem engAt_vec : (engAt e pc).vec r = e.vec r := rfl
@[simp] theorem engAt_accPart : (engAt e pc).accPart r k p = e.accPart r k p := rfl

end

/-- The engine moves on where no abort waits. -/
theorem sigGo_moves {s : State} {n : Nat} (hl : (sigAt s n).late = false) (pc : Nat) :
    sigGo s n pc = setSig s n (engAt (sigAt s n) pc) := if_neg (by simp [hl])

theorem exec_sigDataOf {row : Instr} {n op : Nat} (s : State) (h : sigDataOf row = some (n, op)) :
    exec row s = .next (sigRow op n (sigData n) s) := by
  unfold sigDataOf at h
  split at h <;> cases h
  all_goals rfl

theorem sigDataOf_listed {row : Instr} {n op : Nat} (h : sigDataOf row = some (n, op)) : sigListed op = true := by
  unfold sigDataOf at h
  split at h <;> cases h
  all_goals decide

/-! ## The accumulators (R164, R165) -/

/-- Both parts of value k of an accumulator. -/
def SigEng.accPair (e : SigEng) (r k : Nat) : Int × Int := (e.accPart r k 0, e.accPart r k 1)

/-- Both parts of value k of an accumulator written. -/
def SigEng.setPair (e : SigEng) (r k : Nat) (x : Int × Int) : SigEng := (e.setAcc r k 0 x.1).setAcc r k 1 x.2

theorem SigEng.accPart_setAcc (e : SigEng) (r k p : Nat) (x : Int) (j q : Nat) :
    (e.setAcc r k p x).accPart r j q = if 32 * r + 2 * j + q = 32 * r + 2 * k + p then x else e.accPart r j q :=
  mapGet_put _ _ _ _ _

theorem SigEng.accPair_setPair (e : SigEng) (r k : Nat) (x : Int × Int) (j : Nat) :
    (e.setPair r k x).accPair r j = if j = k then x else e.accPair r j := by
  unfold SigEng.accPair SigEng.setPair
  simp only [SigEng.accPart_setAcc]
  by_cases hj : j = k
  · rw [if_neg (by omega), if_pos (by omega), if_pos (by omega), if_pos hj]
  · rw [if_neg (by omega), if_neg (by omega), if_neg (by omega), if_neg (by omega), if_neg hj]

/-- Values of an accumulator replaced, each by a function of what it was. -/
def pairsSet (r : Nat) (g : Nat → Int × Int → Int × Int) (l : List Nat) (e : SigEng) : SigEng :=
  l.foldl (fun e k => e.setPair r k (g k (e.accPair r k))) e

theorem pairsSet_accPair (r : Nat) (g : Nat → Int × Int → Int × Int) {l : List Nat} (hl : l.Nodup) (e : SigEng) (k : Nat) :
    (pairsSet r g l e).accPair r k = if k ∈ l then g k (e.accPair r k) else e.accPair r k := by
  induction l generalizing e with
  | nil => rfl
  | cons j l ih =>
    obtain ⟨hj, hl⟩ := List.nodup_cons.1 hl
    have hcons : pairsSet r g (j :: l) e = pairsSet r g l (e.setPair r j (g j (e.accPair r j))) := rfl
    rw [hcons, ih hl, SigEng.accPair_setPair]
    by_cases hk : k = j
    · subst hk
      simp [hj]
    · simp [hk]

/-- The vector registers, the address registers and a waiting abort are no accumulators. -/
theorem pairsSet_stays (r : Nat) (g : Nat → Int × Int → Int × Int) (l : List Nat) (e : SigEng) :
    (pairsSet r g l e).v = e.v ∧ (pairsSet r g l e).a = e.a ∧ (pairsSet r g l e).late = e.late := by
  unfold pairsSet
  exact List.foldlRecOn (motive := fun d : SigEng => d.v = e.v ∧ d.a = e.a ∧ d.late = e.late) l _ ⟨rfl, rfl, rfl⟩
    fun d hd k _ => hd

theorem SigEng.setVec_a (e : SigEng) (d : Nat) (x : BitVec 512) : (e.setVec d x).a = e.a := rfl
theorem SigEng.setVec_late (e : SigEng) (d : Nat) (x : BitVec 512) : (e.setVec d x).late = e.late := rfl

theorem pairsSet_vec (r : Nat) (g : Nat → Int × Int → Int × Int) (l : List Nat) (e : SigEng) (j : Nat) :
    (pairsSet r g l e).vec j = e.vec j := congrArg (fun v => mapGet _ v j) (pairsSet_stays r g l e).1

/-- A value of CMAC's accumulator after its product is added. -/
def macPair (i : BitVec 64) (a b : BitVec 512) (k : Nat) (x : Int × Int) : Int × Int :=
  (fitTo (sigSat i) 40 (x.1 + (cmulAt false a b k).1), fitTo (sigSat i) 40 (x.2 + (cmulAt false a b k).2))

theorem sigMac_eq (e : SigEng) (i : BitVec 64) (a b : BitVec 512) :
    sigMac e i a b = pairsSet (sigVd i % 4) (macPair i a b) (List.range 16) e := rfl

/-- The vector that ACCRD packs from its accumulator. -/
def accrdVec (e : SigEng) (i : BitVec 64) : BitVec 512 := packCplx (sigSat i) (sigShift i) (e.accPair (sigVa i % 4))

theorem sigAccrd_eq (e : SigEng) (i : BitVec 64) : sigAccrd e i =
    pairsSet (sigVa i % 4) (fun _ _ => (0, 0)) (List.range 16) (e.setVec (sigVd i) (accrdVec e i)) := rfl

theorem SigEng.vec_setVec (e : SigEng) (d : Nat) (x : BitVec 512) (r : Nat) :
    (e.setVec d x).vec r = if r = d then x else e.vec r := mapGet_put _ _ _ _ _

/-! ## What a data instruction does to the registers (R164) -/

section
variable (e : SigEng) {i : BitVec 64} {a b : BitVec 512}

theorem sigEffect_mac (h : sigOp i = 8) : sigEffect e i a b = sigMac e i a b := if_pos h

theorem sigEffect_accrd (h : sigOp i = 9) : sigEffect e i a b = sigAccrd e i := by
  unfold sigEffect
  rw [if_neg (by omega), if_pos h]

/-- CMAC and ACCRD write no vector from their operands. -/
theorem sigResult_acc (h : sigOp i = 8 ∨ sigOp i = 9) : sigResult i a b = none := by
  rcases h with h | h <;> simp [sigResult, h]

theorem sigEffect_result {x : BitVec 512} (h : sigResult i a b = some x) : sigEffect e i a b = e.setVec (sigVd i) x := by
  have hno : ¬(sigOp i = 8 ∨ sigOp i = 9) := fun hacc => by simp [sigResult_acc hacc] at h
  unfold sigEffect
  rw [if_neg (by tauto), if_neg (by tauto), h]

theorem sigEffect_idle (h : sigResult i a b = none) (h8 : sigOp i ≠ 8) (h9 : sigOp i ≠ 9) : sigEffect e i a b = e := by
  unfold sigEffect
  rw [if_neg h8, if_neg h9, h]

variable (i a b) in
theorem sigEffect_cases : sigOp i = 8 ∧ sigEffect e i a b = sigMac e i a b ∨
    sigOp i = 9 ∧ sigEffect e i a b = sigAccrd e i ∨
    sigOp i ≠ 8 ∧ sigOp i ≠ 9 ∧ ((∃ x, sigResult i a b = some x ∧ sigEffect e i a b = e.setVec (sigVd i) x) ∨
      sigResult i a b = none ∧ sigEffect e i a b = e) := by
  by_cases h8 : sigOp i = 8
  · exact Or.inl ⟨h8, sigEffect_mac e h8⟩
  by_cases h9 : sigOp i = 9
  · exact Or.inr (Or.inl ⟨h9, sigEffect_accrd e h9⟩)
  refine Or.inr (Or.inr ⟨h8, h9, ?_⟩)
  cases hx : sigResult i a b with
  | some x => exact Or.inl ⟨x, rfl, sigEffect_result e hx⟩
  | none => exact Or.inr ⟨rfl, sigEffect_idle e hx h8 h9⟩

/-- A data instruction writes vector registers and accumulators: no address register, and no abort. -/
theorem sigEffect_stays : (sigEffect e i a b).a = e.a ∧ (sigEffect e i a b).late = e.late := by
  rcases sigEffect_cases e i a b with ⟨-, h⟩ | ⟨-, h⟩ | ⟨-, -, ⟨x, -, h⟩ | ⟨-, h⟩⟩
  · rw [h, sigMac_eq]
    exact (pairsSet_stays ..).2
  · obtain ⟨-, ha, hl⟩ := pairsSet_stays (sigVa i % 4) (fun _ _ => (0, 0)) (List.range 16) (e.setVec (sigVd i) (accrdVec e i))
    rw [h, sigAccrd_eq]
    exact ⟨ha.trans (SigEng.setVec_a ..), hl.trans (SigEng.setVec_late ..)⟩
  · rw [h]
    exact ⟨rfl, rfl⟩
  · rw [h]
    exact ⟨rfl, rfl⟩

theorem sigEffect_adr (r : Nat) : (sigEffect e i a b).adr r = e.adr r :=
  congrArg (fun m => mapGet _ m r) (sigEffect_stays e).1

theorem sigEffect_vec_other {r : Nat} (hr : r ≠ sigVd i) : (sigEffect e i a b).vec r = e.vec r := by
  rcases sigEffect_cases e i a b with ⟨-, h⟩ | ⟨-, h⟩ | ⟨-, -, ⟨x, -, h⟩ | ⟨-, h⟩⟩
  · rw [h, sigMac_eq, pairsSet_vec]
  · rw [h, sigAccrd_eq, pairsSet_vec, SigEng.vec_setVec, if_neg hr]
  · rw [h, SigEng.vec_setVec, if_neg hr]
  · rw [h]

/-- No vector changes where the instruction has no result and is not ACCRD. -/
theorem sigEffect_vec_none (hx : sigResult i a b = none) (h9 : sigOp i ≠ 9) (r : Nat) : (sigEffect e i a b).vec r = e.vec r := by
  rcases sigEffect_cases e i a b with ⟨-, h⟩ | ⟨h, -⟩ | ⟨-, -, ⟨x, h, -⟩ | ⟨-, h⟩⟩
  · rw [h, sigMac_eq, pairsSet_vec]
  · exact absurd h h9
  · rw [hx] at h
    exact absurd h (by simp)
  · rw [h]

theorem sigEffect_accPart_other (h8 : sigOp i ≠ 8) (h9 : sigOp i ≠ 9) (r k p : Nat) :
    (sigEffect e i a b).accPart r k p = e.accPart r k p := by
  rcases sigEffect_cases e i a b with ⟨h, -⟩ | ⟨h, -⟩ | ⟨-, -, ⟨x, -, h⟩ | ⟨-, h⟩⟩
  · exact absurd h h8
  · exact absurd h h9
  · rw [h]
    rfl
  · rw [h]

theorem sigMac_accPair {k : Nat} (hk : k < 16) :
    (sigMac e i a b).accPair (sigVd i % 4) k = macPair i a b k (e.accPair (sigVd i % 4) k) := by
  rw [sigMac_eq, pairsSet_accPair _ _ List.nodup_range, if_pos (List.mem_range.2 hk)]

theorem sigAccrd_accPair {k : Nat} (hk : k < 16) : (sigAccrd e i).accPair (sigVa i % 4) k = (0, 0) := by
  rw [sigAccrd_eq, pairsSet_accPair _ _ List.nodup_range, if_pos (List.mem_range.2 hk)]

theorem sigAccrd_vec : (sigAccrd e i).vec (sigVd i) = accrdVec e i := by
  rw [sigAccrd_eq, pairsSet_vec, SigEng.vec_setVec, if_pos rfl]

end

/-! ## One iteration (R164, R165) -/

/-- The store of SIG_ST goes into the queue slot that P2 fills (R139, R150). -/
def storeSlot (e : SigEng) (a : Nat) : Bool :=
  e.lim.any (fun l => l.1 == 2 && decide (l.2.1 ≤ a) && decide (a + 64 ≤ l.2.1 + l.2.2))

/-- The command in flight after a store of d at a: staged with its outputs, or without what the slot's line held before. -/
def storedFly (f : Inflight) (slot : Bool) (a : Nat) (d : Bytes) : Inflight :=
  if slot then { f with out := f.out.filter (fun w => w.addr != a) }
  else { f with out := f.out ++ [{ space := 1, addr := a, data := d, poison := false }] }

theorem storedFly_stays (f : Inflight) (slot : Bool) (a : Nat) (d : Bytes) : (storedFly f slot a d).uid = f.uid ∧
    (storedFly f slot a d).stream = f.stream ∧ (storedFly f slot a d).cost = f.cost ∧ (storedFly f slot a d).unit = f.unit := by
  unfold storedFly
  split <;> exact ⟨rfl, rfl, rfl, rfl⟩

/-- A write of the signal memory leaves memory by what memory was alone. -/
theorem chipWrite_congr {s t : State} (h : t.mems = s.mems) (n a : Nat) (d : Bytes) :
    (chipWrite t n 1 a d false).mems = (chipWrite s n 1 a d false).mems := by
  have heq (u : State) : (chipWrite u n 1 a d false).mems = { u.mems with
      sig := wrBytes u.mems.sig (n * sigMemBytes + a) d
      pSig := poisonWrite u.mems.pSig (n * sigMemBytes + a) d.length false } := rfl
  rw [heq, heq, h]

/-- What a store leaves: the engine as it is, the command with its outputs, and the slot's line where it goes there at once. -/
structure Stored (s t : State) (n : Nat) (f : Inflight) (a : Nat) (d : Bytes) : Prop where
  sig : sigAt t n = sigAt s n
  fly : sigFly t n = some (storedFly f (storeSlot (sigAt s n) a) a d)
  mems : t.mems = if storeSlot (sigAt s n) a = true then (chipWrite s n 1 a d false).mems else s.mems

theorem sigStore_stored {s : State} {n : Nat} {f : Inflight} (hf : sigFly s n = some f) (a : Nat) (v : BitVec 512) :
    Stored s (sigStore s n a v) n f a (bytesLe 64 v.toNat) := by
  have hst := sigFly_stream hf
  have hput (slot : Bool) : sigFly (putFly s n (storedFly f slot a (bytesLe 64 v.toNat))) n =
      some (storedFly f slot a (bytesLe 64 v.toNat)) := by
    obtain ⟨huid, hstream, -, -⟩ := storedFly_stays f slot a (bytesLe 64 v.toNat)
    exact sigFly_putFly hf huid (hstream.trans hst)
  have heq : sigStore s n a v = if storeSlot (sigAt s n) a = true then
      chipWrite (putFly s n (storedFly f true a (bytesLe 64 v.toNat))) n 1 a (bytesLe 64 v.toNat) false
      else putFly s n (storedFly f false a (bytesLe 64 v.toNat)) := by
    unfold sigStore
    rw [hf]
    rfl
  rw [heq]
  cases hslot : storeSlot (sigAt s n) a with
  | true => exact ⟨sigAt_putFly .., by rw [hslot]; exact hput true, by rw [hslot]; exact chipWrite_congr (putFly_mems ..) ..⟩
  | false => exact ⟨sigAt_putFly .., by rw [hslot]; exact hput false, by rw [hslot]; exact putFly_mems ..⟩

/-- What the result of an iteration leaves, before the post-increments: of SIG_ST the store, of the others the registers. -/
def sigDone (s : State) (n : Nat) (i : BitVec 64) (a b : BitVec 512) : State :=
  if sigOp i = 3 then sigStore s n ((sigAt s n).adr (sigF i 40 38)) a else setSig s n (sigEffect (sigAt s n) i a b)

/-- An iteration whose operands read without a fault, and whose line may be reached, meets none. -/
theorem sigIter_done {s : State} {n : Nat} {i : BitVec 64} {a b : BitVec 512} {m0 m1 : Bool}
    (hm0 : m0 = (sigF i 41 41 == 1 && sigReadsA (sigOp i)))
    (hm1 : m1 = (sigF i 37 37 == 1 && (sigReadsB (sigOp i) || sigOp i == 3)))
    (ha : sigOperand s n (sigReadsA (sigOp i)) m0 (sigF i 44 42) (sigVa i) = .ok a)
    (hb : sigOperand s n (sigReadsB (sigOp i)) m1 (sigF i 40 38) (sigVb i) = .ok b)
    (hline : sigOp i = 3 → lineOk (sigAt s n) (sigF i 40 38) = true) :
    sigIter s n i = (sigSteps (sigDone s n i a b) n i m0 m1, none) := by
  subst hm0 hm1
  unfold sigIter sigDone
  dsimp only
  rw [ha, hb]
  by_cases h3 : sigOp i = 3
  · simp [h3, hline h3]
  · simp [h3]

theorem sigIters_one (n : Nat) (i : BitVec 64) (s : State) : sigIters n i 1 s = sigIter s n i := by
  have heq : sigIters n i 1 s = ((sigIter s n i).1, (sigIter s n i).2.orElse fun _ => none) := rfl
  rw [heq]
  rcases sigIter s n i with ⟨t, _ | c⟩ <;> rfl

/-- Without a REP before it an instruction runs once, and the engine moves on. -/
theorem sigData_once {s t : State} {n : Nat} {i : BitVec 64} (hrep : (sigAt s n).rep = 0) (h : sigIter s n i = (t, none))
    (pc : Nat) : sigData n i pc s = sigGo (sigCost t n 1) n (pc + 1) := by
  unfold sigData
  rw [hrep]
  simp only [Nat.max_zero, sigIters_one, h]

/-! ## The post-increments (R164, R165) -/

section
variable (s : State) (n : Nat) (i : BitVec 64) (m0 m1 : Bool)

/-- The engine after its post-increments, the free addresses of empty circular buffers being v0 and v1. -/
def engStepped (e : SigEng) (i : BitVec 64) (m0 m1 : Bool) (v0 v1 : Nat) : SigEng :=
  let e := if m0 then e.setAdr (sigF i 44 42)
    (stepAddr e (sigF i 44 42) (sigF i 36 33) (sigF i 28 28 == 1) (sigF i 27 25) v0) else e
  if m1 then e.setAdr (sigF i 40 38)
    (stepAddr e (sigF i 40 38) (sigF i 32 29) (sigF i 24 24 == 1) (sigF i 23 21) v1) else e

theorem sigSteps_stepped : ∃ v0 v1, sigAt (sigSteps s n i m0 m1) n = engStepped (sigAt s n) i m0 m1 v0 v1 ∧
    sigFly (sigSteps s n i m0 m1) n = sigFly s n ∧ (sigSteps s n i m0 m1).mems = s.mems :=
  ⟨_, _, sigAt_setSig .., sigFly_setSig .., setSig_mems ..⟩

end

section
variable (e : SigEng) (i : BitVec 64) (m0 m1 : Bool) (v0 v1 : Nat)

/-- Only address registers move. -/
theorem engStepped_stays : engStepped e i m0 m1 v0 v1 = { e with a := (engStepped e i m0 m1 v0 v1).a } := by
  unfold engStepped
  dsimp only
  split <;> split <;> rfl

/-- An address register stepped through M0 alone, without a circular buffer (R165). -/
theorem engStepped_adr (h0 : m0 = true) (h1 : m1 = false) (hcb : sigF i 28 28 = 0) :
    (engStepped e i m0 m1 v0 v1).adr (sigF i 44 42) =
      (((e.adr (sigF i 44 42) : Int) + toS 4 (sigF i 36 33) * 64) % 2 ^ 18).toNat % 2 ^ 18 := by
  have hset (x : Nat) : (e.setAdr (sigF i 44 42) x).adr (sigF i 44 42) = x % 2 ^ 18 := mapGet_put_self _ _ _ _
  simp only [engStepped, h0, h1, hcb, if_true, Bool.false_eq_true, if_false]
  rw [hset]
  rfl

theorem engStepped_still (h0 : m0 = false) (h1 : m1 = false) : engStepped e i m0 m1 v0 v1 = e := by
  simp [engStepped, h0, h1]

end

/-! ## The data instructions as a whole -/

/-- The command in flight after an iteration: SIG_ST alone changes it. -/
def iterFly (e : SigEng) (f : Inflight) (i : BitVec 64) (a : BitVec 512) : Inflight :=
  if sigOp i = 3 then storedFly f (storeSlot e (e.adr (sigF i 40 38))) (e.adr (sigF i 40 38)) (bytesLe 64 a.toNat) else f

section
variable (e : SigEng) (f : Inflight) (i : BitVec 64) (a : BitVec 512)

theorem iterFly_stays : (iterFly e f i a).cost = f.cost ∧ (iterFly e f i a).unit = f.unit := by
  unfold iterFly
  split
  · exact (storedFly_stays ..).2.2
  · exact ⟨rfl, rfl⟩

theorem iterFly_other (h : sigOp i ≠ 3) : iterFly e f i a = f := if_neg h

theorem iterFly_staged (h : sigOp i = 3) (hs : storeSlot e (e.adr (sigF i 40 38)) = false) : (iterFly e f i a).out =
    f.out ++ [{ space := 1, addr := e.adr (sigF i 40 38), data := bytesLe 64 a.toNat, poison := false }] := by
  simp [iterFly, h, storedFly, hs]

end

/-- What an iteration leaves before its post-increments. -/
structure IterDone (s t : State) (n : Nat) (f : Inflight) (i : BitVec 64) (a b : BitVec 512) : Prop where
  sig : sigAt t n = sigEffect (sigAt s n) i a b
  fly : sigFly t n = some (iterFly (sigAt s n) f i a)
  mems : t.mems = if sigOp i = 3 ∧ storeSlot (sigAt s n) ((sigAt s n).adr (sigF i 40 38)) = true then
    (chipWrite s n 1 ((sigAt s n).adr (sigF i 40 38)) (bytesLe 64 a.toNat) false).mems else s.mems

theorem sigDone_done {s : State} {n : Nat} {f : Inflight} (hf : sigFly s n = some f) (i : BitVec 64) (a b : BitVec 512) :
    IterDone s (sigDone s n i a b) n f i a b := by
  unfold sigDone
  by_cases h3 : sigOp i = 3
  · obtain ⟨hsig, hfly, hmems⟩ := sigStore_stored hf ((sigAt s n).adr (sigF i 40 38)) a
    have hidle : sigEffect (sigAt s n) i a b = sigAt s n :=
      sigEffect_idle _ (by simp [sigResult, h3]) (by omega) (by omega)
    rw [if_pos h3]
    exact ⟨by rw [hsig, hidle], by rw [hfly, iterFly, if_pos h3], by rw [hmems]; simp [h3]⟩
  · rw [if_neg h3]
    exact ⟨sigAt_setSig .., by rw [sigFly_setSig, hf, iterFly_other _ _ _ _ h3], by simp [h3]⟩

/-- What a data instruction leaves: the registers with its effect and its post-increments, the command one cycle on. -/
structure DataDone (s t : State) (n pc : Nat) (f : Inflight) (i : BitVec 64) (a b : BitVec 512) (m0 m1 : Bool) : Prop where
  sig : ∃ v0 v1, sigAt t n = engAt (engStepped (sigEffect (sigAt s n) i a b) i m0 m1 v0 v1) (pc + 1)
  fly : sigFly t n = some (oneCycle (iterFly (sigAt s n) f i a))
  mems : t.mems = if sigOp i = 3 ∧ storeSlot (sigAt s n) ((sigAt s n).adr (sigF i 40 38)) = true then
    (chipWrite s n 1 ((sigAt s n).adr (sigF i 40 38)) (bytesLe 64 a.toNat) false).mems else s.mems

theorem sigData_done {s : State} {n pc : Nat} {f : Inflight} {i : BitVec 64} {a b : BitVec 512} {m0 m1 : Bool}
    (hh : sigHere s n f pc i) (hiter : sigIter s n i = (sigSteps (sigDone s n i a b) n i m0 m1, none)) :
    DataDone s (accumHeld (sigData n i pc s) n) n pc f i a b m0 m1 := by
  obtain ⟨-, hf, hrep, hlate, -, -, -⟩ := hh
  obtain ⟨hsig, hfly, hmems⟩ := sigDone_done hf i a b
  obtain ⟨v0, v1, hsteps, hstepsFly, hstepsMems⟩ := sigSteps_stepped (sigDone s n i a b) n i m0 m1
  rw [hsig] at hsteps
  rw [hfly] at hstepsFly
  have hlate' : (sigAt (sigCost (sigSteps (sigDone s n i a b) n i m0 m1) n 1) n).late = false := by
    rw [sigAt_sigCost, hsteps, engStepped_stays]
    exact (sigEffect_stays _).2.trans hlate
  have hkept := accumHeld_kernel (sigData n i pc s) n
  rw [sigData_once hrep hiter, sigGo_moves hlate'] at hkept ⊢
  refine ⟨⟨v0, v1, ?_⟩, ?_, ?_⟩
  · rw [hkept.sig, sigAt_setSig, sigAt_sigCost, hsteps]
  · rw [hkept.sigFly, sigFly_setSig, sigFly_sigCost hstepsFly]
  · rw [hkept.mems, setSig_mems, sigCost_mems, hstepsMems, hmems]

section
variable {s t : State} {n pc : Nat} {f : Inflight} {i : BitVec 64} {a b : BitVec 512} {m0 m1 : Bool}
  (hd : DataDone s t n pc f i a b m0 m1)
include hd

theorem DataDone.place : (sigAt t n).pc = some (pc + 1) ∧ (sigAt t n).rep = 0 := by
  obtain ⟨v0, v1, hsig⟩ := hd.sig
  rw [hsig]
  exact ⟨rfl, rfl⟩

theorem DataDone.vec (r : Nat) : (sigAt t n).vec r = (sigEffect (sigAt s n) i a b).vec r := by
  obtain ⟨v0, v1, hsig⟩ := hd.sig
  rw [hsig, engAt_vec, engStepped_stays]
  rfl

theorem DataDone.accPart (r k p : Nat) : (sigAt t n).accPart r k p = (sigEffect (sigAt s n) i a b).accPart r k p := by
  obtain ⟨v0, v1, hsig⟩ := hd.sig
  rw [hsig, engAt_accPart, engStepped_stays]
  rfl

theorem DataDone.accPair (r k : Nat) : (sigAt t n).accPair r k = (sigEffect (sigAt s n) i a b).accPair r k :=
  Prod.ext (hd.accPart r k 0) (hd.accPart r k 1)

theorem DataDone.adr_stepped (h0 : m0 = true) (h1 : m1 = false) (hcb : sigF i 28 28 = 0) : (sigAt t n).adr (sigF i 44 42) =
    ((((sigAt s n).adr (sigF i 44 42) : Int) + toS 4 (sigF i 36 33) * 64) % 2 ^ 18).toNat % 2 ^ 18 := by
  obtain ⟨v0, v1, hsig⟩ := hd.sig
  rw [hsig, engAt_adr, engStepped_adr _ _ _ _ v0 v1 h0 h1 hcb, sigEffect_adr]

theorem DataDone.adr_still (h0 : m0 = false) (h1 : m1 = false) (r : Nat) : (sigAt t n).adr r = (sigAt s n).adr r := by
  obtain ⟨v0, v1, hsig⟩ := hd.sig
  rw [hsig, engAt_adr, engStepped_still _ _ _ _ _ _ h0 h1, sigEffect_adr]

end

/-- Settles O17: the effect on the registers, the store of SIG_ST (logs 221, 222, 340), and the post-increments. -/
theorem signalData : Obligations.SignalData := by
  intro row s n op f pc i a b hrow hh hop
  subst hop
  dsimp only
  intro ha hb hline
  have hexec := exec_sigDataOf s hrow
  rw [sigRow_runs hh (sigDataOf_listed hrow)] at hexec
  have hd := sigData_done hh (sigIter_done rfl rfl ha hb hline)
  refine acts_of_exec hexec ?_
  generalize accumHeld (sigData n i pc s) n = t at hd ⊢
  obtain ⟨hcost, hunit⟩ := iterFly_stays (sigAt s n) f i a
  refine ⟨hd.place.1, hd.place.2,
    ⟨_, hd.fly, congrArg (· + 1) hcost, hunit, fun h3 => ?_, fun h3 hslot => iterFly_staged _ _ _ _ h3 hslot⟩,
    fun x hx => ?_, fun hx h9 r => ?_, fun r hr => ?_, fun h8 h9 r k p => ?_, fun h8 k hk => ?_, fun h9 => ⟨?_, fun k hk => ?_⟩,
    hd.mems, hd.adr_stepped, hd.adr_still⟩
  · exact (congrArg Inflight.out (iterFly_other (sigAt s n) f i a h3) :)
  · rw [hd.vec, sigEffect_result _ hx, SigEng.vec_setVec, if_pos rfl]
  · rw [hd.vec, sigEffect_vec_none _ hx h9]
  · rw [hd.vec, sigEffect_vec_other _ hr]
  · rw [hd.accPart, sigEffect_accPart_other _ h8 h9]
  · have hmac := hd.accPair (sigVd i % 4) k
    rw [sigEffect_mac _ h8, sigMac_accPair _ hk] at hmac
    exact Prod.ext_iff.1 hmac
  · rw [hd.vec, sigEffect_accrd _ h9, sigAccrd_vec]
    rfl
  · have hclear := hd.accPair (sigVa i % 4) k
    rw [sigEffect_accrd _ h9, sigAccrd_accPair _ hk] at hclear
    exact Prod.ext_iff.1 hclear

/-! ## The control instructions (R163, R164, R166) -/

/-- What a control instruction leaves: the engine as given, the command one cycle on, memory as it was. -/
structure ControlDone (s t : State) (n : Nat) (f : Inflight) (e : SigEng) : Prop where
  sig : sigAt t n = e
  fly : sigFly t n = some (oneCycle f)
  mems : t.mems = s.mems

theorem ControlDone.cost {s t : State} {n : Nat} {f : Inflight} {e : SigEng} (h : ControlDone s t n f e) :
    ∃ g, sigFly t n = some g ∧ g.cost = f.cost + 1 ∧ g.unit = f.unit := ⟨_, h.fly, rfl, rfl⟩

theorem ControlDone.accumHeld {s t : State} {n : Nat} {f : Inflight} {e : SigEng} (h : ControlDone s t n f e) :
    ControlDone s (accumHeld t n) n f e := by
  have hkept := accumHeld_kernel t n
  exact ⟨hkept.sig.trans h.sig, hkept.sigFly.trans h.fly, hkept.mems.trans h.mems⟩

section
variable {s : State} {n : Nat} {f : Inflight} (hf : sigFly s n = some f)
include hf

/-- One cycle with the engine changed. -/
theorem controlDone_setSig (e : SigEng) : ControlDone s (setSig (sigCost s n 1) n e) n f e :=
  ⟨sigAt_setSig .., by rw [sigFly_setSig, sigFly_sigCost hf], by rw [setSig_mems, sigCost_mems]⟩

theorem controlDone_cost (e : SigEng) : ControlDone s (sigCost (setSig s n e) n 1) n f e :=
  ⟨by rw [sigAt_sigCost, sigAt_setSig], sigFly_sigCost (by rw [sigFly_setSig, hf]), by rw [sigCost_mems, setSig_mems]⟩

theorem controlDone_go {e : SigEng} (hl : e.late = false) (pc : Nat) :
    ControlDone s (sigGo (sigCost (setSig s n e) n 1) n pc) n f (engAt e pc) := by
  obtain ⟨hsig, hfly, hmems⟩ := controlDone_cost hf e
  rw [sigGo_moves (by rw [hsig, hl]), hsig]
  exact ⟨sigAt_setSig .., by rw [sigFly_setSig, hfly], by rw [setSig_mems, hmems]⟩

end

/-- The engine with an address register set by SETA; a slot's bounds no longer hold for it. -/
def engSeta (e : SigEng) (i : BitVec 64) : SigEng :=
  { e.setAdr (sigVd i % 8) (sigImm i * 4 + (e.sca (sigVa i % 8)).toNat) with lim := e.lim.filter (fun l => l.1 != sigVd i % 8) }

/-- The engine with a circular buffer set by SETCB. -/
def engSetcb (e : SigEng) (i : BitVec 64) : SigEng :=
  { e with cb := mapPut (fun _ => (0, 0)) e.cb (sigVd i % 8) (sigImm i, (e.sca (sigVa i % 8)).toNat) }

/-- The engine with the scalar that BNZ lowers. -/
def engBnz (e : SigEng) (i : BitVec 64) : SigEng := e.setSca (sigVd i % 8) (e.sca (sigVd i % 8) - 1)

section
variable (e : SigEng) (i : BitVec 64) (r : Nat)

theorem engSeta_adr : (engSeta e i).adr r =
    if r = sigVd i % 8 then (sigImm i * 4 + (e.sca (sigVa i % 8)).toNat) % 2 ^ 18 else e.adr r := mapGet_put _ _ _ _ _

theorem engSetcb_cbuf : (engSetcb e i).cbuf r =
    if r = sigVd i % 8 then (sigImm i, (e.sca (sigVa i % 8)).toNat) else e.cbuf r := mapGet_put _ _ _ _ _

theorem engBnz_sca : (engBnz e i).sca (sigVd i % 8) = e.sca (sigVd i % 8) - 1 := mapGet_put_self _ _ _ _

end

section
variable (s : State) (n k c : Nat)

theorem slot_sigCost : (coreAt (sigCost s n k) n).slot c = (coreAt s n).slot c := by
  unfold sigCost
  split
  · rw [coreAt_putFly]
    rfl
  · rfl

theorem ctxAt_sigCost (x : Nat) : ctxAt (sigCost s n k) x = ctxAt s x :=
  (sigCost_keeps (m := 2048) (by decide) s n k (Keeps.refl _ s)).ctxAt (by decide) x

end

section
variable {s : State} {n pc : Nat} {f : Inflight} {i : BitVec 64} (hh : sigHere s n f pc i)
include hh

theorem sigSeta_done : ControlDone s (sigSeta n i pc s) n f (engAt (engSeta (sigAt s n) i) (pc + 1)) := by
  obtain ⟨-, hf, hrep, hlate, -, -, -⟩ := hh
  have heq : sigSeta n i pc s =
      sigGo (sigCost (setSig s n (engSeta (sigAt s n) i)) n (max 1 (sigAt s n).rep)) n (pc + 1) := rfl
  rw [heq, hrep]
  exact controlDone_go hf (e := engSeta (sigAt s n) i) hlate _

theorem sigSetcb_done : ControlDone s (sigSetcb n i pc s) n f (engAt (engSetcb (sigAt s n) i) (pc + 1)) := by
  obtain ⟨-, hf, hrep, hlate, -, -, -⟩ := hh
  have heq : sigSetcb n i pc s =
      sigGo (sigCost (setSig s n (engSetcb (sigAt s n) i)) n (max 1 (sigAt s n).rep)) n (pc + 1) := rfl
  rw [heq, hrep]
  exact controlDone_go hf (e := engSetcb (sigAt s n) i) hlate _

/-- BNZ jumps where its scalar is not yet 0 and the place is in the signal section, else it goes on. -/
theorem sigBnz_done (hjump : (sigAt s n).sca (sigVd i % 8) ≠ 1 → sigImm i < (ctxAt s ((coreAt s n).slot f.slot).ctx).img.kern) :
    ControlDone s (sigBnz n i pc s) n f
      (engAt (engBnz (sigAt s n) i) (if (sigAt s n).sca (sigVd i % 8) = 1 then pc + 1 else sigImm i)) := by
  obtain ⟨-, hf, -, hlate, -, -, -⟩ := hh
  have hgo := controlDone_go hf (e := engBnz (sigAt s n) i) hlate
  have hfly : sigFly (sigCost (setSig s n (engBnz (sigAt s n) i)) n 1) n = some (oneCycle f) := (controlDone_cost hf _).fly
  have hctx : ctxAt (sigCost (setSig s n (engBnz (sigAt s n) i)) n 1)
      ((coreAt (sigCost (setSig s n (engBnz (sigAt s n) i)) n 1) n).slot f.slot).ctx =
        ctxAt s ((coreAt s n).slot f.slot).ctx := by
    rw [slot_sigCost, ctxAt_sigCost, ctxAt_setSig, coreAt_setSig]
    rfl
  have hslot : (oneCycle f).slot = f.slot := rfl
  unfold sigBnz
  dsimp only
  rw [← engBnz]
  simp only [hfly, hslot, hctx]
  by_cases h1 : (sigAt s n).sca (sigVd i % 8) = 1
  · rw [if_pos (sub_eq_zero.2 h1), if_pos h1]
    exact hgo _
  · rw [if_neg (fun h0 => h1 (sub_eq_zero.1 h0)), if_pos (hjump h1), if_neg h1]
    exact hgo _

/-- REP counts the runs of the next instruction, which is none of REP, END and BNZ. -/
theorem sigRepeat_done
    (hnext : sigOp (fetchKern s n ((coreAt s n).slot f.slot) (ctxAt s ((coreAt s n).slot f.slot).ctx).img (pc + 1)) ∉
      [0, 1, 0x12]) :
    ControlDone s (sigRepeat n i pc s) n f { sigAt s n with pc := some (pc + 1), rep := sigImm i + 1 } := by
  unfold sigRepeat
  simp only [sigHere_fly hh]
  rw [if_neg (by simpa using hnext)]
  exact controlDone_setSig (sigHere_fly hh) _

end

/-- A command whose unit has ended with no output of its own. -/
def unitEnded (f : Inflight) : Inflight :=
  { f with unit := f.unit + 1, taken := false, stuck := false, open_ := false, got := [], remote := 0 }

/-- The end of a unit of a command bound to no queue. -/
theorem unitEnd_unbound {f : Inflight} (hb : boundPtrs f.cmd = []) (hq : boundQ f.cmd (outPtr f.cmd) = none)
    (s : State) (n x : Nat) : unitEnd s n x f [] 0 = putFly s n (unitEnded f) := by
  simp [unitEnd, endEntries, forEach, hb, hq, unitEnded]

theorem putFly_alone {s : State} {n : Nat} {f g : Inflight} (hfly : (coreAt s n).fly = [f]) (hu : g.uid = f.uid) :
    (coreAt (putFly s n g) n).fly = [g] := by
  simp [hfly, hu]

/-- The state in which a unit of a SIGNAL command ends: its engine is idle, and END has taken a cycle. -/
def endIdle (s : State) (n : Nat) : State := setSig (sigCost s n 1) n { sigAt s n with pc := none, rep := 0 }

/-- END of the last unit of a command alone in flight, bound to no queue, ends the unit and no other begins. -/
theorem sigEndUnit_ends {s : State} {n : Nat} {f : Inflight} (hf : sigFly s n = some f) (hfly : (coreAt s n).fly = [f])
    (hu : f.units = f.unit + 1) (hb : boundPtrs f.cmd = []) (hq : boundQ f.cmd (outPtr f.cmd) = none) :
    sigEndUnit n s = putFly (endIdle s n) n (unitEnded (oneCycle f)) ∧
      (coreAt (sigEndUnit n s) n).fly = [unitEnded (oneCycle f)] := by
  have hidle : (coreAt (endIdle s n) n).fly = [oneCycle f] := by
    rw [endIdle, coreAt_setSig, sigCost_one hf]
    exact putFly_alone hfly rfl
  have hat : flyAt (endIdle s n) n f.uid = some (oneCycle f) := by simp [flyAt, hidle, oneCycle]
  have hlast : (coreAt (putFly (endIdle s n) n (unitEnded (oneCycle f))) n).fly = [unitEnded (oneCycle f)] :=
    putFly_alone hidle rfl
  have hrun : unitsDone (putFly (endIdle s n) n (unitEnded (oneCycle f))) n := fun g hg => by
    rw [hlast, List.mem_singleton] at hg
    rw [hg]
    exact hu.le
  have heq : sigEndUnit n s = putFly (endIdle s n) n (unitEnded (oneCycle f)) := by
    unfold sigEndUnit
    rw [hf]
    dsimp only
    rw [← endIdle, hat]
    dsimp only
    rw [unitEnd_unbound (f := oneCycle f) hb hq, runFly_unitsDone hrun]
  exact ⟨heq, heq ▸ hlast⟩

/-- A control row runs the instruction at the kernel's place. -/
theorem exec_control {row : Instr} {s : State} {n pc : Nat} {f : Inflight} {i : BitVec 64} {op : Nat}
    {body : BitVec 64 → Nat → State → State} (hh : sigHere s n f pc i) (hrow : exec row s = .next (sigRow op n body s))
    (ho : sigOp i = op) (hl : sigListed op = true) : exec row s = .next (accumHeld (body i pc s) n) := by
  subst ho
  rw [hrow, sigRow_runs hh hl]

/-- Settles O18: each control instruction leaves its engine, one cycle on. -/
theorem signalControl : Obligations.SignalControl := by
  intro s n f pc i hh
  dsimp only
  refine ⟨fun ho => ?_, fun ho => ?_, fun ho hjump => ?_, fun ho hnext => ?_, fun ho hfly hu hb hq => ?_⟩
  · have hd := (sigSeta_done hh).accumHeld
    refine acts_of_exec (exec_control hh (row := .seta n) rfl ho rfl)
      ⟨by rw [hd.sig, engAt_pc], hd.cost, hd.mems, ?_, fun r hr => ?_⟩
    · rw [hd.sig, engAt_adr, engSeta_adr, if_pos rfl]
    · rw [hd.sig, engAt_adr, engSeta_adr, if_neg hr]
  · have hd := (sigSetcb_done hh).accumHeld
    refine acts_of_exec (exec_control hh (row := .setcb n) rfl ho rfl)
      ⟨by rw [hd.sig, engAt_pc], hd.cost, hd.mems, ?_, fun r hr => ?_⟩
    · rw [hd.sig, engAt_cbuf, engSetcb_cbuf, if_pos rfl]
    · rw [hd.sig, engAt_cbuf, engSetcb_cbuf, if_neg hr]
  · have hd := (sigBnz_done hh hjump).accumHeld
    exact acts_of_exec (exec_control hh (row := .bnz n) rfl ho rfl)
      ⟨hd.cost, hd.mems, by rw [hd.sig, engAt_sca, engBnz_sca], by rw [hd.sig, engAt_pc]⟩
  · have hd := (sigRepeat_done hh hnext).accumHeld
    exact acts_of_exec (exec_control hh (row := .rep n) rfl ho rfl) ⟨by rw [hd.sig], by rw [hd.sig], hd.cost, hd.mems⟩
  · obtain ⟨heq, hend⟩ := sigEndUnit_ends (sigHere_fly hh) hfly hu hb hq
    have hkept := accumHeld_kernel (sigEndUnit n s) n
    refine acts_of_exec (exec_control hh (row := .sigEnd n) rfl ho rfl) ⟨?_, ?_, _, hkept.fly.trans hend, rfl, rfl, rfl⟩
    · rw [hkept.sig, heq, sigAt_putFly, endIdle, sigAt_setSig]
    · rw [hkept.mems, heq, putFly_mems, endIdle, setSig_mems, sigCost_mems]

end Sys2Proof.Machine
end

section
/-! PROOFS. The images of a function: submission, reload, copy and bank switch (07_hallmark.md R180, R181, R192, R195 to R197;
09_contexts_tenants.md R225, R234). -/

namespace Sys2Proof.Machine

/-! ## Bytes and records read after a write -/

/-- A byte read after a run of bytes is written. -/
theorem rdM_wrBytes (l : Bytes) (m : SMap Byte) (a b : Nat) :
    rdM (wrBytes m a l) b = if a ≤ b ∧ b < a + l.length then l.getD (b - a) 0 else rdM m b := by
  induction l generalizing m a with
  | nil => rw [wrBytes, if_neg (by simp)]
  | cons x l ih =>
    rw [wrBytes, ih, List.length_cons]
    by_cases hin : a + 1 ≤ b ∧ b < a + 1 + l.length
    · obtain ⟨k, rfl⟩ : ∃ k, b = a + 1 + k := ⟨b - (a + 1), by omega⟩
      rw [if_pos hin, if_pos (by omega), show a + 1 + k - (a + 1) = k by omega, show a + 1 + k - a = k + 1 by omega,
        List.getD_cons_succ]
    · rw [if_neg hin, rdM, wrM, mapGet_put]
      by_cases hb : b = a
      · rw [if_pos hb, if_pos (by omega), hb, Nat.sub_self, List.getD_cons_zero]
      · rw [if_neg hb, if_neg (by omega)]
        rfl

theorem rdBytes_eq_map (m : SMap Byte) (a n : Nat) : rdBytes m a n = (List.range n).map (fun i => rdM m (a + i)) := by
  induction n generalizing a with
  | zero => rfl
  | succ n ih =>
    rw [rdBytes, ih, List.range_succ_eq_map, List.map_cons, List.map_map]
    simp [Nat.add_assoc, Nat.add_comm 1]

/-- Bytes written read back. -/
theorem rdBytes_wrBytes (m : SMap Byte) (a : Nat) (l : Bytes) : rdBytes (wrBytes m a l) a l.length = l := by
  rw [rdBytes_eq_map]
  refine List.ext_getElem (by simp) fun i _ hi => ?_
  rw [List.getElem_map, List.getElem_range, rdM_wrBytes, if_pos (by omega), Nat.add_sub_cancel_left, List.getD_eq_getElem _ _ hi]

@[simp] theorem bytesLe_length (n x : Nat) : (bytesLe n x).length = n := by
  induction n generalizing x with
  | zero => rfl
  | succ n ih => rw [bytesLe, List.length_cons, ih]

theorem fnAt_setFn (s : State) (f : Nat) (x : FnSet) : fnAt (setFn s f x) f = x := mapGet_put_self _ _ _ _

theorem groupAt_setGroup (s : State) (g : Nat) (x : Group) : groupAt (setGroup s g x) g = x := mapGet_put_self _ _ _ _

theorem groupAt_congr {s t : State} (h : t.groups = s.groups) (g : Nat) : groupAt t g = groupAt s g := by
  unfold groupAt; rw [h]

theorem Core.slot_setSlot_other (k : Core) {c d : Nat} (z : Slot) (h : d ≠ c) : (k.setSlot c z).slot d = k.slot d :=
  mapGet_put_other _ _ _ h

/-- What keeps the registers and which of them behave as their reset values leaves every register as it reads. -/
theorem regsBut_of_keeps {m : Nat} {s t : State} (h : Keeps m s t) (hr : m.testBit Part.regs.idx = false)
    (hb : m.testBit Part.behaveReset.idx = false) (l : List Nat) : regsBut l s t :=
  fun o _ => rdReg_congr (h.2 .regs hr) (h.2 .behaveReset hb) o

/-! ## A record in the result ring (07_hallmark.md R180; 09_contexts_tenants.md R234, R247) -/

/-- A record written to the next place of function f's result ring, the tail moved past it. -/
def resultPut (s : State) (f : Nat) (r : Bytes) : State :=
  (hostStore s (s.get2 HOST_FN_RES_BASE_LO HOST_FN_RES_BASE_HI f + s.get HOST_FN_RES_TAIL f * 32) r false).set HOST_FN_RES_TAIL
    ((s.get HOST_FN_RES_TAIL f + 1) % ringLen (s.get HOST_FN_RING_SIZE.RES f)) f

/-- Function f with other waiting result records. -/
def withResWait (s : State) (f : Nat) (l : List Bytes) : State := setFn s f { fnAt s f with resWait := l }

/-- The result ring of function f takes a record at once: its rings live, no record waits, and it has room. -/
structure TakesResult (s : State) (f : Nat) : Prop where
  live : ringsLive s f = true
  noRes : (fnAt s f).resWait = []
  noCpl : (fnAt s f).cplWait = []
  room : ringFull (s.get HOST_FN_RES_TAIL f) (s.get HOST_FN_RES_HEAD f) (ringLen (s.get HOST_FN_RING_SIZE.RES f)) = false

section
variable {s : State} {f : Nat} (r : Bytes)

theorem resultPut_host : rdBytes (resultPut s f r).mems.host
    (s.get2 HOST_FN_RES_BASE_LO HOST_FN_RES_BASE_HI f + s.get HOST_FN_RES_TAIL f * 32) r.length = r := by
  rw [resultPut, State.set_mems]
  exact rdBytes_wrBytes ..

theorem resultPut_regsBut : regsBut [HOST_FN_RES_TAIL.addr f] s (resultPut s f r) := set_regsBut_mem _ _ _ _ _ (by simp)

/-- The first waiting record is written where the ring has room, and the function is told. -/
theorem drainRes_one {u : State} (hw : (fnAt u f).resWait = [r])
    (hroom : ringFull (u.get HOST_FN_RES_TAIL f) (u.get HOST_FN_RES_HEAD f) (ringLen (u.get HOST_FN_RING_SIZE.RES f)) = false) :
    drainRes f 1 u = raiseMsix (setFn (resultPut u f r) f { fnAt u f with resWait := [] }) f 0 := by
  unfold drainRes
  simp only [hw, hroom, Bool.false_eq_true, if_false]
  rfl

theorem withResWait_regsBut (l : List Bytes) : regsBut [] s (withResWait s f l) := fun _ _ => setFn_rdReg ..

/-- A record pushed where the ring takes one at once is written to it; the function is told, and no record waits. -/
theorem pushResult_put (h : TakesResult s f) :
    Keeps 2162688 (resultPut (withResWait s f [r]) f r) (pushResult s f r) := by
  obtain ⟨hlive, hres, hcpl, hroom⟩ := h
  have hmsix (u : State) : fnAt (raiseMsix u f 0) f = fnAt u f :=
    (raiseMsix_keeps (m := 2097152) (by decide) u f 0 (Keeps.refl _ u)).fnAt (by decide) f
  have hwait : fnAt (withResWait s f [r]) f = { fnAt s f with resWait := [r] } := fnAt_setFn ..
  have hone := drainRes_one (u := withResWait s f [r]) r (by rw [hwait]) (by simpa [withResWait] using hroom)
  have heq : pushResult s f r = drainRes f 1 (withResWait s f [r]) := by
    rw [pushResult, if_pos hlive, hres, List.nil_append, drainRings, ← withResWait, hwait]
    dsimp only [List.length_cons, List.length_nil]
    rw [hone, hmsix, fnAt_setFn, hwait, hcpl]
    rfl
  rw [heq, hone]
  exact raiseMsix_keeps (by decide) _ _ _ (setFn_keeps (by decide) _ _ _ (Keeps.refl _ _))

theorem pushResult_written (h : TakesResult s f) (hb : s.behaveReset = []) (hr : r.length = 32) :
    resultWritten s (pushResult s f r) f r ∧ regsBut [HOST_FN_RES_TAIL.addr f] s (pushResult s f r) := by
  have hk := pushResult_put r h
  have hregs := regsBut_of_keeps hk (by decide) (by decide) []
  have hwait (g : Fld) : (withResWait s f [r]).get g f = s.get g f := setFn_get ..
  refine ⟨⟨?_, ?_⟩, ?_⟩
  · have hput := resultPut_host (s := withResWait s f [r]) (f := f) r
    rwa [hr, State.get2, hwait, hwait, hwait, ← State.get2, ← hk.2 .mems (by decide)] at hput
  · have hb' : (withResWait s f [r]).behaveReset = [] := (setFn_behaveReset ..).trans hb
    rw [get_of_regsBut hregs _ _ _ (by simp), resultPut, get_set_self _ _ _ _ _ (by simpa [hostStore] using hb') (by decide),
      hwait, hwait]
  · exact regsBut_trans (regsBut_mono (withResWait_regsBut [r]) (by simp))
      (regsBut_trans (resultPut_regsBut r) (regsBut_mono hregs (by simp)))

end

/-! ## The state while an entry is carried out -/

/-- The registers that a submission of an image writes before its record: the ring's head and the counts of contexts. -/
def loadRegs (f : Nat) : List Nat := [HOST_FN_SUB_HEAD.addr f, HOST_CTX_FREE.addr, HOST_VF_CTX_COUNT.addr f]

/-- A register of a function set other than the head of its submission ring. -/
abbrev ringReg (g : Fld) : Prop :=
  g.s1 = 0x40 ∧ HOST_FN_STATUS.W.off ≤ g.off ∧ g.off < HOST_FN_STATUS.W.off + 0x40 ∧ g.off ≠ HOST_FN_SUB_HEAD.off

theorem ringReg_not_loadRegs {f : Nat} {g : Fld} (hf : f ≤ 256) (hg : ringReg g) : g.addr f ∉ loadRegs f := by
  obtain ⟨hs, h1, h2, h3⟩ := hg
  simp only [loadRegs, Fld.addr, List.mem_cons, List.not_mem_nil, or_false, not_or, hs]
  dsimp only at h1 h2 h3
  omega

/-- An image's entry is being carried out: its head has moved, and of what the result record and its place depend on
nothing else has changed. -/
structure Loading (s u : State) (f : Nat) : Prop where
  regs : regsBut (loadRegs f) s u
  behave : u.behaveReset = []
  clk : u.clk = s.clk
  fns : u.fns = s.fns
  head : headMoved s u f

theorem entryReady_fetches {s : State} {f typ : Nat} {e : Ent} (h : entryReady s f typ e) : fetches s f = true := by
  obtain ⟨-, -, he, -⟩ := h
  rw [entryAt, Option.ite_none_right_eq_some, Bool.and_eq_true] at he
  exact he.1.1

theorem entryRow_ready {s : State} {f typ : Nat} {e : Ent} (h : entryReady s f typ e) (act : Ent → State → State) :
    entryRow f typ act s = act e (fetched s f) := by
  obtain ⟨-, -, he, hbad, htyp, -⟩ := h
  simp [entryRow, he, hbad, htyp]

theorem fetched_loading {s : State} {f typ : Nat} {e : Ent} (h : entryReady s f typ e) : Loading s (fetched s f) f := by
  obtain ⟨⟨hb, -⟩, -⟩ := h
  exact ⟨set_regsBut_mem _ _ _ _ _ (by simp [loadRegs]), hb, rfl, rfl, get_set_self _ _ _ _ _ hb (by decide)⟩

section
variable {s u : State} {f : Nat}

theorem Loading.keeps (h : Loading s u f) {m : Nat} {v : State} (hk : Keeps m u v) (hr : m.testBit Part.regs.idx = false)
    (hb : m.testBit Part.behaveReset.idx = false) (hc : m.testBit Part.clk.idx = false) (hf : m.testBit Part.fns.idx = false) :
    Loading s v f := by
  have hregs : regsBut [] u v := regsBut_of_keeps hk hr hb []
  refine ⟨regsBut_trans h.regs (regsBut_mono hregs (by simp)), (hk.2 .behaveReset hb).trans h.behave,
    (hk.2 .clk hc).trans h.clk, (hk.2 .fns hf).trans h.fns, ?_⟩
  rw [headMoved, get_of_regsBut hregs _ _ _ (by simp)]
  exact h.head

theorem Loading.set (h : Loading s u f) (g : Fld) (v i k : Nat) (hg : g.addr i k ∈ loadRegs f)
    (hh : HOST_FN_SUB_HEAD.addr f ≠ g.addr i k) : Loading s (u.set g v i k) f := by
  refine ⟨regsBut_trans h.regs (set_regsBut_mem u g v i k hg), by rw [State.set_behaveReset]; exact h.behave,
    by rw [State.set_clk]; exact h.clk, by rw [State.set_fns]; exact h.fns, ?_⟩
  rw [headMoved, get_set_reg _ _ _ _ _ _ _ _ hh]
  exact h.head

/-- The counts of contexts published. -/
theorem Loading.recounted (h : Loading s u f) (hf : f ≤ 256) : Loading s (recount u f) f := by
  have hfree := h.set HOST_CTX_FREE (4096 - ((mapKeys u.ctxs).filter (fun x => (ctxAt u x).state != 0)).length) 0 0
    (by simp [loadRegs]) (by simp only [Fld.addr]; omega)
  unfold recount
  split
  · exact hfree.set HOST_VF_CTX_COUNT _ f 0 (by simp [loadRegs]) (by simp only [Fld.addr]; omega)
  · exact hfree

theorem Loading.get_ring (h : Loading s u f) (hf : f ≤ 256) {g : Fld} (hg : ringReg g) : u.get g f = s.get g f :=
  get_of_regsBut h.regs g f 0 (ringReg_not_loadRegs hf hg)

theorem Loading.fnState_eq (h : Loading s u f) (hf : f ≤ 256) : fnState u (hostFn f) = fnState s (hostFn f) := by
  unfold fnState
  rw [h.regs (hostFn f) (ringReg_not_loadRegs (g := HOST_FN_STATUS.STATE) hf (by decide))]

/-- The entry's result ring takes its record at once. -/
theorem Loading.takesResult {typ : Nat} {e : Ent} (h : Loading s u f) (he : entryReady s f typ e) : TakesResult u f := by
  have hfetch := entryReady_fetches he
  obtain ⟨-, hf, -, -, -, hroom, -⟩ := he
  have hfn : fnAt u f = fnAt s f := fnAt_congr h.fns f
  simp only [fetches, Bool.and_eq_true, beq_iff_eq, List.isEmpty_iff] at hfetch
  obtain ⟨⟨⟨⟨⟨hrun, -⟩, hres⟩, hcpl⟩, hflr⟩, -⟩ := hfetch
  refine ⟨by simp [ringsLive, h.fnState_eq hf, hrun, hfn, hflr], by rw [hfn, hres], by rw [hfn, hcpl], ?_⟩
  rw [h.get_ring hf (by decide), h.get_ring hf (by decide), h.get_ring hf (by decide)]
  exact hroom

/-- The entry's result record pushed. -/
theorem Loading.record {typ : Nat} {e : Ent} (h : Loading s u f) (he : entryReady s f typ e) {r : Bytes}
    (hr : r.length = 32) : headMoved s (pushResult u f r) f ∧ resultWritten s (pushResult u f r) f r := by
  obtain ⟨⟨hhost, htail⟩, hregs⟩ := pushResult_written r (h.takesResult he) h.behave hr
  obtain ⟨-, hf, -⟩ := he
  rw [h.get_ring hf (by decide), State.get2, h.get_ring hf (by decide), h.get_ring hf (by decide)] at hhost
  rw [h.get_ring hf (by decide), h.get_ring hf (by decide)] at htail
  refine ⟨?_, hhost, htail⟩
  rw [headMoved, get_of_regsBut hregs _ _ _ (by simp [Fld.addr])]
  exact h.head

theorem resultBytes_length (s : State) (r : Rej) (id bound : Nat) : (resultBytes s r id bound).length = 32 := by
  simp [resultBytes]

/-- The record says the same however much of the load has been done. -/
theorem Loading.resultBytes_eq (h : Loading s u f) (r : Rej) (id bound : Nat) :
    resultBytes u r id bound = resultBytes s r id bound := by
  rw [resultBytes, resultBytes, nowN, nowN, h.clk,
    get_of_regsBut h.regs GLOBAL_REPRO_KEY 0 0 (by simp [loadRegs, Fld.addr]; omega)]

end

/-! ## The contexts of an image (09_contexts_tenants.md R225) -/

/-- A context as its image's definition leaves it, the sealed image stored at an address. -/
def definedCtx (f g a : Nat) (p : Img × Nat) : Ctx :=
  { state := 1, rank := p.2, fn := f, group := g, img := p.1, imageAddr := a, counters := p.1.counters, halt := true }

theorem storeImage_ctxs (s : State) (g : Img) : (storeImage s g).2.ctxs = s.ctxs :=
  (storeImage_keeps (m := 1049600) (by decide) s g (Keeps.refl _ s)).of.2 .ctxs (by decide)

theorem ctxAt_defineCtx (f g : Nat) (s : State) (p : Nat × Img × Nat) (x : Nat) :
    ctxAt (defineCtx f g s p) x = if x = p.1 then definedCtx f g (storeImage s p.2.1).1 p.2 else ctxAt s x := by
  rw [defineCtx, ctxAt_setCtx, ctxAt_congr (storeImage_ctxs s p.2.1)]
  rfl

/-- A context that no share takes stays. -/
theorem defineCtxs_other (f g : Nat) {x : Nat} {l : List (Nat × Img × Nat)} (s : State) (hx : x ∉ l.map (·.1)) :
    ctxAt (forEach l (defineCtx f g) s) x = ctxAt s x :=
  List.foldlRecOn (motive := fun t => ctxAt t x = ctxAt s x) l _ rfl fun t ht p hp => by
    rw [ctxAt_defineCtx, if_neg fun (h : x = p.1) => hx (h ▸ List.mem_map_of_mem hp), ht]

/-- Each share takes its context. -/
theorem defineCtxs_defines (f g : Nat) {l : List (Nat × Img × Nat)} (hl : (l.map (·.1)).Nodup) (s : State)
    {p : Nat × Img × Nat} (hp : p ∈ l) : ∃ a, ctxAt (forEach l (defineCtx f g) s) p.1 = definedCtx f g a p.2 := by
  induction l generalizing s with
  | nil => exact absurd hp List.not_mem_nil
  | cons q l ih =>
    obtain ⟨hq, hl⟩ := List.nodup_cons.1 hl
    have hcons : forEach (q :: l) (defineCtx f g) s = forEach l (defineCtx f g) (defineCtx f g s q) := rfl
    rcases List.mem_cons.1 hp with rfl | hp
    · exact ⟨_, by rw [hcons, defineCtxs_other f g _ hq, ctxAt_defineCtx, if_pos rfl]⟩
    · rw [hcons]
      exact ih hl _ hp

/-- The contexts that a group of some size takes: the lowest free numbers. -/
def takenCtxs (s : State) (k : Nat) : List Nat := (freeCtxs s).take k

theorem takenCtxs_nodup (s : State) (k : Nat) : (takenCtxs s k).Nodup :=
  (List.nodup_range.filter _).sublist (List.take_sublist ..)

theorem takenCtxs_length {s : State} {k : Nat} (h : k ≤ (freeCtxs s).length) : (takenCtxs s k).length = k :=
  List.length_take_of_le h

theorem freeCtxs_congr {s t : State} (h : t.ctxs = s.ctxs) : freeCtxs t = freeCtxs s := by
  unfold freeCtxs
  simp only [ctxAt_congr h]

theorem ctxsOf_congr {s t : State} (h : t.ctxs = s.ctxs) (f : Nat) : ctxsOf t f = ctxsOf s f := by
  unfold ctxsOf
  simp only [ctxAt_congr h, h]

/-- The shares with their contexts and ranks. -/
def placedShares (xs : List Nat) (l : List Img) : List (Nat × Img × Nat) := xs.zip (l.zip (List.range l.length))

theorem placedShares_ctxs {xs : List Nat} {l : List Img} (h : xs.length = l.length) :
    (placedShares xs l).map (·.1) = xs := List.map_fst_zip (by simp [h])

theorem mem_placedShares {xs : List Nat} {l : List Img} {i x : Nat} {g : Img} (hx : xs[i]? = some x) (hg : l[i]? = some g) :
    (x, g, i) ∈ placedShares xs l := by
  have hi : (List.range l.length)[i]? = some i := List.getElem?_range (List.getElem?_eq_some_iff.1 hg).1
  exact List.mem_of_getElem? (List.getElem?_zip_eq_some.2 ⟨hx, List.getElem?_zip_eq_some.2 ⟨hg, hi⟩⟩)

/-- A group of contexts stands for the shares of an image: the contexts listed, IDLE, in the order of their ranks, and no other
context has changed. -/
structure GroupDefined (s t : State) (f : Nat) (xs : List Nat) (l : List Img) : Prop where
  shares : ∀ i x g, xs[i]? = some x → l[i]? = some g → ∃ a, ctxAt t x = definedCtx f (xs.headD 0) a (g, i)
  others : ∀ x, x ∉ xs → ctxAt t x = ctxAt s x
  group : groupAt t (xs.headD 0) = { ctxs := xs, fn := f, serial := s.serial + 1 }
  serial : t.serial = s.serial + 1

theorem GroupDefined.congr {s t u : State} {f : Nat} {xs : List Nat} {l : List Img} (h : GroupDefined s t f xs l)
    (hc : u.ctxs = t.ctxs) (hg : u.groups = t.groups) (hs : u.serial = t.serial) : GroupDefined s u f xs l :=
  ⟨fun i x g hx hi => by rw [ctxAt_congr hc]; exact h.shares i x g hx hi,
    fun x hx => (ctxAt_congr hc x).trans (h.others x hx), (groupAt_congr hg _).trans h.group, hs.trans h.serial⟩

theorem GroupDefined.of_same {r s t : State} {f : Nat} {xs : List Nat} {l : List Img} (h : GroupDefined s t f xs l)
    (hc : s.ctxs = r.ctxs) (hs : s.serial = r.serial) : GroupDefined r t f xs l :=
  ⟨h.shares, fun x hx => (h.others x hx).trans (ctxAt_congr hc x), hs ▸ h.group, hs ▸ h.serial⟩

section
variable (s : State) (f : Nat) (l : List Img)

/-- The state with a context for each of an image's shares. -/
def sharesDefined : State :=
  forEach (placedShares (takenCtxs s l.length) l) (defineCtx f ((takenCtxs s l.length).headD 0)) s

/-- The state with the group of an image's shares, its counts of contexts not yet published. -/
def groupMade : State :=
  { setGroup (sharesDefined s f l) ((takenCtxs s l.length).headD 0)
      { ctxs := takenCtxs s l.length, fn := f, serial := (sharesDefined s f l).serial + 1 } with
    serial := (sharesDefined s f l).serial + 1 }

theorem defineGroup_eq : defineGroup s f l = recount (groupMade s f l) f := rfl

theorem sharesDefined_keeps {m : Nat} (hm : m.land 1057792 = 1057792) : Keeps m s (sharesDefined s f l) :=
  forEach_keeps (by simp) _ _ s (fun t p h => defineCtx_keeps hm _ _ t p h) (Keeps.refl _ s)

theorem groupMade_only : Keeps 1106944 s (groupMade s f l) :=
  upd_serial (by decide) _ (setGroup_keeps (by decide) _ _ _ (sharesDefined_keeps s f l (by decide)))

end

theorem groupMade_defined {s : State} (f : Nat) {l : List Img} (h : l.length ≤ (freeCtxs s).length) :
    GroupDefined s (groupMade s f l) f (takenCtxs s l.length) l := by
  have hxs := placedShares_ctxs (takenCtxs_length h)
  have hctxs : (groupMade s f l).ctxs = (sharesDefined s f l).ctxs := by simp only [groupMade, setGroup_ctxs]
  have hserial := (sharesDefined_keeps s f l (m := 1057792) (by decide)).2 .serial (by decide)
  refine ⟨fun i x g hx hg => ?_, fun x hx => ?_, ?_, congrArg (· + 1) hserial⟩
  · rw [ctxAt_congr hctxs]
    exact defineCtxs_defines f _ (hxs.symm ▸ takenCtxs_nodup s l.length) s (mem_placedShares hx hg)
  · rw [ctxAt_congr hctxs]
    exact defineCtxs_other f _ s (hxs.symm ▸ hx)
  · exact (groupAt_setGroup (sharesDefined s f l) _ _).trans (by rw [hserial])

/-! ## IMAGE (07_hallmark.md R180, R181) -/

/-- The constants of an image written to device memory. -/
def constsStored (s : State) (l : List (Nat × Bytes)) : State := forEach l (fun s c => (devWrite s c.1 c.2 false).2) s

theorem constsStored_only (s : State) (l : List (Nat × Bytes)) : Keeps 1024 s (constsStored s l) :=
  forEach_keeps (by decide) l _ s (fun t c h => (devWrite_keeps (by decide) t c.1 c.2 false h).of) (Keeps.refl _ s)

theorem submitImage_unread {s : State} {f : Nat} {e : Ent} {r : Rej} (h : imageBytes s f e.a = .error r) :
    submitImage f e s = pushResult s f (resultBytes s r 0 0) := by
  unfold submitImage; rw [h]

theorem submitImage_refused {s : State} {f : Nat} {e : Ent} {b : Bytes} {r : Rej} (h : imageBytes s f e.a = .ok b)
    (hl : loadImage s f b = .error r) : submitImage f e s = pushResult s f (resultBytes s r (le b 0xC 4) 0) := by
  unfold submitImage loadBytes; rw [h]; dsimp only; rw [hl]

/-- The state with an accepted image's constants and contexts, before its record. -/
def imageDefined (s : State) (f : Nat) (l : Loaded) : State := defineGroup (constsStored s l.consts) f l.shares

theorem submitImage_loaded {s : State} {f : Nat} {e : Ent} {b : Bytes} {l : Loaded} (h : imageBytes s f e.a = .ok b)
    (hl : loadImage s f b = .ok l) (hfree : l.shares.length ≤ (freeCtxs s).length)
    (hlim : (ctxsOf s f).length + l.shares.length ≤ ctxLimit s f) :
    submitImage f e s = pushResult (imageDefined s f l) f
      (resultBytes (imageDefined s f l) { code := Code.done, reason := 0 } (le b 0xC 4) l.boundNs) := by
  unfold submitImage loadBytes
  rw [h]
  dsimp only
  rw [hl]
  dsimp only
  rw [if_neg (by omega)]
  rfl

/-- Its group stands in the contexts that were free before. -/
theorem imageDefined_defined {s : State} (f : Nat) {l : Loaded} (hfree : l.shares.length ≤ (freeCtxs s).length) :
    GroupDefined s (imageDefined (fetched s f) f l) f (takenCtxs s l.shares.length) l.shares := by
  let t := constsStored (fetched s f) l.consts
  have hk := constsStored_only (fetched s f) l.consts
  have hctxs : t.ctxs = s.ctxs := (hk.2 .ctxs (by decide)).trans (State.set_ctxs ..)
  have hfree' : takenCtxs t l.shares.length = takenCtxs s l.shares.length := by rw [takenCtxs, takenCtxs, freeCtxs_congr hctxs]
  have hmade := groupMade_defined (s := t) f (l := l.shares) (by rwa [freeCtxs_congr hctxs])
  rw [hfree'] at hmade
  have hrec := recount_keeps (m := 4) (by decide) (groupMade t f l.shares) f (Keeps.refl _ _)
  exact (hmade.of_same hctxs ((hk.2 .serial (by decide)).trans (State.set_serial ..))).congr (hrec.2 .ctxs (by decide))
    (hrec.2 .groups (by decide)) (hrec.2 .serial (by decide))

/-- A pushed record leaves contexts, groups and images. -/
theorem pushResult_only (s : State) (f : Nat) (r : Bytes) : Keeps 1075905540 s (pushResult s f r) :=
  pushResult_keeps (by decide) s f r (Keeps.refl _ s)

theorem exec_image (s : State) (f : Nat) : exec (.image f) s = .next (entryRow f 0 (submitImage f) s) := rfl

section
variable {s : State} {f : Nat} {e : Ent} (he : entryReady s f 0 e)
include he

/-- A refusal: its record, and nothing defined. -/
theorem image_refuses {r : Rej} {id : Nat}
    (h : submitImage f e (fetched s f) = pushResult (fetched s f) f (resultBytes (fetched s f) r id 0)) :
    Acts (.image f) s (fun t => headMoved s t f ∧ resultWritten s t f (resultBytes s r id 0) ∧ t.ctxs = s.ctxs ∧
      t.groups = s.groups ∧ t.images = s.images) := by
  have hload := fetched_loading he
  rw [hload.resultBytes_eq] at h
  obtain ⟨hhead, hres⟩ := hload.record he (resultBytes_length s r id 0)
  have hk := pushResult_only (fetched s f) f (resultBytes s r id 0)
  exact acts_of_exec (by rw [exec_image, entryRow_ready he, h]) ⟨hhead, hres,
    (hk.2 .ctxs (by decide)).trans (State.set_ctxs ..), (hk.2 .groups (by decide)).trans (State.set_groups ..),
    (hk.2 .images (by decide)).trans (State.set_images ..)⟩

/-- Up to its record the loading of an accepted image leaves the rings as they were. -/
theorem imageDefined_loading (l : Loaded) : Loading s (imageDefined (fetched s f) f l) f := by
  have ⟨_, hf, _⟩ := he
  have hconsts := (fetched_loading he).keeps (constsStored_only (fetched s f) l.consts) (by decide) (by decide) (by decide)
    (by decide)
  have hgroup := hconsts.keeps (groupMade_only _ f l.shares) (by decide) (by decide) (by decide) (by decide)
  rw [imageDefined, defineGroup_eq]
  exact hgroup.recounted hf

/-- An accepted image: its record, and its group of contexts. -/
theorem image_defines {b : Bytes} {l : Loaded} (hb : imageBytes (fetched s f) f e.a = .ok b)
    (hl : loadImage (fetched s f) f b = .ok l) (hfree : l.shares.length ≤ (freeCtxs s).length)
    (hlim : (ctxsOf s f).length + l.shares.length ≤ ctxLimit s f) :
    Acts (.image f) s (fun t => headMoved s t f ∧
      resultWritten s t f (resultBytes s { code := Code.done, reason := 0 } (le b 0xC 4) l.boundNs) ∧
      GroupDefined s t f (takenCtxs s l.shares.length) l.shares) := by
  have hctxs : (fetched s f).ctxs = s.ctxs := State.set_ctxs ..
  have hlimit : ctxLimit (fetched s f) f = ctxLimit s f := by
    obtain ⟨-, hf, -⟩ := he
    unfold ctxLimit fetched
    rw [get_set_reg _ _ _ _ _ _ _ _ (by simp only [Fld.addr]; omega)]
  have hsub := submitImage_loaded hb hl (by rwa [freeCtxs_congr hctxs]) (by rwa [ctxsOf_congr hctxs, hlimit])
  have hload := imageDefined_loading he l
  rw [hload.resultBytes_eq] at hsub
  obtain ⟨hhead, hres⟩ := hload.record he (resultBytes_length s _ (le b 0xC 4) l.boundNs)
  have hk := pushResult_only (imageDefined (fetched s f) f l) f
    (resultBytes s { code := Code.done, reason := 0 } (le b 0xC 4) l.boundNs)
  exact acts_of_exec (by rw [exec_image, entryRow_ready he, hsub]) ⟨hhead, hres, (imageDefined_defined f hfree).congr
    (hk.2 .ctxs (by decide)) (hk.2 .groups (by decide)) (hk.2 .serial (by decide))⟩

end


/-! ## IMAGE_RELOAD (07_hallmark.md R195; 18_registers_mailbox.md R420 to R423) -/

theorem mbxTaken_only (s : State) (rq : Requester) (op : Nat) : Keeps 8813272891396 s (mbxTaken s rq op) :=
  mbxTaken_keeps (by decide) s rq op (Keeps.refl _ s)

/-- A listed command of a requester that may issue it does what it does, where its checks pass. -/
theorem mbxCommand_passes {s : State} {rq : Requester} {op : Nat} {check : State → Nat}
    {body : State → State} (h : mbxReady s rq op) (hl : mbxListed op = true)
    (hc : check (mbxTaken s rq op) = Code.done) : mbxCommand s rq op check body = body (mbxTaken s rq op) := by
  obtain ⟨⟨-, hup⟩, hbusy, hheld, howner, hsmb⟩ := h
  have hargs : argUpset (mbxTaken s rq op) = false := by
    rw [argUpset, show (mbxTaken s rq op).upset = [] from ((mbxTaken_only s rq op).2 .upset (by decide)).trans hup]
    rfl
  have hmay : ¬(rq = Requester.smbus ∧ (!smbusMay op) = true) := fun hn => by simp [hsmb hn.1] at hn
  unfold mbxCommand
  simp only [hbusy, hheld, howner, hl, hargs, hc, if_neg hmay]
  simp

/-- The operation in progress with its copy of the arguments (18_registers_mailbox.md R420). -/
def opTaken (s : State) (rq : Requester) (op : Nat) : State :=
  { s with
    mbx := { op := some op, args := (List.range 8).map (fun i => s.get MBX_ARG i), byHost := decide (rq = Requester.host) }
    smbOp := decide (rq = Requester.smbus) }

theorem mbxTaken_mbx (s : State) (rq : Requester) (op : Nat) : (mbxTaken s rq op).mbx = (opTaken s rq op).mbx := by
  simp [mbxTaken, opTaken, forEach, List.range_succ]

theorem mbxArg_mbxTaken (s : State) (rq : Requester) (op : Nat) {i : Nat} (hi : i < 8) :
    mbxArg (mbxTaken s rq op) i = s.get MBX_ARG i := by
  rw [mbxArg, mbxTaken_mbx, opTaken, List.getD_eq_getElem _ _ (by simpa using hi), List.getElem_map, List.getElem_range]

/-- It shows BUSY. -/
def opShown (s : State) (rq : Requester) (op : Nat) : State :=
  ((opTaken s rq op).set MBX_STATUS.BUSY 1).set MBX_STATUS.RESULT Code.busy

/-- What an acceptance writes after it shows BUSY lies above the status register. -/
theorem mbxTaken_busy (s : State) (rq : Requester) (op : Nat) (hb : s.behaveReset = []) :
    (mbxTaken s rq op).get MBX_STATUS.BUSY = 1 := by
  have habove : SameBelow MBX_SEQ.off (opShown s rq op) (mbxTaken s rq op) :=
    ((SameBelow.set _ MBX_PROGRESS 0 0 0 (by decide)).trans
      (SameBelow.forEach (fun t i => SameBelow.set t MBX_RES 0 i 0 (by simp only [Fld.addr]; omega)) _ _)).trans
      (SameBelow.set _ MBX_SEQ _ 0 0 (by decide))
  have hb' : (opTaken s rq op).behaveReset = [] := hb
  rw [habove.get _ _ _ (by decide), opShown, get_set_apart _ _ _ _ _ _ _ _ (by rw [State.set_behaveReset]; exact hb') (by decide)
    (by decide), get_set_self _ _ _ _ _ hb' (by decide)]
  rfl

theorem exec_imageReload (rq : Requester) (s : State) :
    exec (.imageReload rq) s = .next (mbxCommand s rq 0x02 reloadCheck reloadBody) := rfl

/-- A slot that awaits the window for an image. -/
def slotAwaiting (z : Slot) (s : State) (a : Nat) : Slot :=
  { z with copying := true, reload := some ((sealedAt s a).getD {}), reloadAt := a }

theorem reloadBody_eq (s : State) : reloadBody s = setCore s (mbxArg s 0 % 128) ((coreAt s (mbxArg s 0 % 128)).setSlot
    (mbxArg s 0 / 256 % 4) (slotAwaiting ((coreAt s (mbxArg s 0 % 128)).slot (mbxArg s 0 / 256 % 4)) s (mbxArg2 s 1))) := rfl

theorem sealedAt_congr {s t : State} (h : t.images = s.images) (a : Nat) : sealedAt t a = sealedAt s a := by
  unfold sealedAt; rw [h]

/-! ## IMAGE_COPY (07_hallmark.md R193, R196) -/

theorem exec_imageCopy {n c : Nat} (hn : n < 128) (hc : c < 4) (s : State) : exec (.imageCopy n c) s = .next (copyStart s n c) :=
  congrArg Host.Outcome.next (if_pos ⟨hn, hc⟩)

/-- An operation in progress ends with the code given it. -/
theorem mbxEnd_code {s : State} {op : Nat} (h : mbxBusyWith s op = true) (code : Nat) : (mbxEnd s code).mbx.code = some code := by
  simp only [mbxBusyWith, Bool.and_eq_true, beq_iff_eq] at h
  rw [mbxEnd, if_pos ⟨by rw [h.1]; rfl, h.2⟩]

/-- The image written into the standby bank of slot c. -/
def standbyWritten (s : State) (n : Nat) (z : Slot) (g : Img) : State :=
  { s with mems := { s.mems with
      cmd := wrBytes s.mems.cmd (n * 0x40000 + (1 - z.bank) * cmdBankBytes + z.base * 256) g.bytes } }

/-- The copy of an image of some bytes into slot c, as an activity. -/
def copyAct (s : State) (c bytes : Nat) : Activity :=
  { kind := Act.imageCopy, arg := c, endAt := now10 s + actLen Act.imageCopy bytes }

/-- The reload of a slot given up. -/
def reloadDropped (s : State) (n c : Nat) : State :=
  setCore s n ((coreAt s n).setSlot c { (coreAt s n).slot c with copying := false, reload := none })

section
variable {s : State} {n c : Nat} {g : Img} (hcopy : ((coreAt s n).slot c).copying = true)
  (hg : ((coreAt s n).slot c).reload = some g)
  (hfree : (coreAt s n).maint.any (fun a => a.kind == Act.imageCopy && a.arg == c) = false) (hserve : coreServes s n = true)
  (hfits : actFits s n (actLen Act.imageCopy g.bytes.length) = true)
include hcopy hg hfree hserve hfits

theorem copyStart_right (h : hallmarkOk s ((coreAt s n).slot c).reloadAt g = true) : copyStart s n c =
    actBegin (standbyWritten s n ((coreAt s n).slot c) g) n (copyAct s c g.bytes.length) := by
  simp only [copyStart, hcopy, hg, hfree, hserve, hfits, h, Bool.not_true, Bool.and_self, Bool.false_eq_true, if_false]
  rfl

theorem copyStart_wrong (h : hallmarkOk s ((coreAt s n).slot c).reloadAt g = false) : copyStart s n c =
    if reloadAsked s n c then mbxEnd (reloadDropped s n c) Code.hallmarkReject else reloadDropped s n c := by
  have hasked : reloadAsked (reloadDropped s n c) n c = reloadAsked s n c := by
    simp only [reloadAsked, mbxBusyWith, mbxArg, reloadDropped, setCore_mbx]
  simp only [copyStart, hcopy, hg, hfree, hserve, hfits, h, Bool.not_true, Bool.not_false, Bool.and_self, Bool.false_eq_true,
    if_false, if_true, ← hasked]
  rfl

/-- The reload given up, and its operation told, where it is still in progress. -/
theorem copyStart_drops (h : hallmarkOk s ((coreAt s n).slot c).reloadAt g = false) :
    Keeps 17179869184 (reloadDropped s n c) (copyStart s n c) ∧
      (reloadAsked s n c = true → (copyStart s n c).mbx.code = some Code.hallmarkReject) := by
  rw [copyStart_wrong hcopy hg hfree hserve hfits h]
  refine ⟨ite_keeps (mbxEnd_keeps (by decide) _ _ _ (Keeps.refl _ _)) (Keeps.refl _ _), fun hask => ?_⟩
  have hbusy : mbxBusyWith s 0x02 = true := by
    simp only [reloadAsked, Bool.and_eq_true] at hask
    exact hask.1.1
  rw [if_pos hask, mbxEnd_code (op := 0x02) (by simpa only [mbxBusyWith, reloadDropped, setCore_mbx] using hbusy)]

end

/-- A copy begun is one activity more of its core, whose slots it leaves. -/
theorem actBegin_copy (s : State) (n : Nat) {a : Activity} (ha : a.kind = Act.imageCopy) :
    (coreAt (actBegin s n a) n).maint = (coreAt s n).maint ++ [a] ∧
      ∀ c, (coreAt (actBegin s n a) n).slot c = (coreAt s n).slot c := by
  have hkind : ¬(a.kind = Act.arrayCheck ∨ a.kind = Act.marginCheck) := by rw [ha]; decide
  unfold actBegin
  dsimp only
  rw [if_neg hkind, coreAt_set, coreAt_set, coreAt_setCore]
  exact ⟨rfl, fun _ => rfl⟩

theorem actBegin_only (s : State) (n : Nat) (a : Activity) : Keeps 2052 s (actBegin s n a) :=
  actBegin_keeps (by decide) s n a (Keeps.refl _ s)

/-! ## RELOAD_BANK_SWITCH (07_hallmark.md R197) -/

/-- A stream at a bank switch: a parked one goes on at its NEXT, an idle one stands at the end of the new image's commands. -/
def streamSwitched (g : Img) (st : Nat) (t : Stream) : Stream :=
  { t with pc := t.parked.getD (g.last.getD st 0), parked := none }

/-- Streams changed one after another, each by itself. -/
def streamsChanged (h : Nat → Stream → Stream) (l : List Nat) (p : Pointers) : Pointers :=
  l.foldl (fun p st => p.setStream st (h st (p.stream st))) p

theorem streamsChanged_tokens (h : Nat → Stream → Stream) (l : List Nat) (p : Pointers) :
    (streamsChanged h l p).tokens = p.tokens :=
  List.foldlRecOn (motive := fun q : Pointers => q.tokens = p.tokens) l _ rfl fun _ hq _ _ => hq

theorem streamsChanged_stream (h : Nat → Stream → Stream) {l : List Nat} (hl : l.Nodup) (p : Pointers) (j : Nat) :
    (streamsChanged h l p).stream j = if j ∈ l then h j (p.stream j) else p.stream j := by
  induction l generalizing p with
  | nil => rfl
  | cons i l ih =>
    obtain ⟨hi, hl⟩ := List.nodup_cons.1 hl
    have hcons : streamsChanged h (i :: l) p = streamsChanged h l (p.setStream i (h i (p.stream i))) := rfl
    rw [hcons, ih hl, Pointers.stream_setStream]
    by_cases hj : j = i
    · rw [if_neg (hj ▸ hi), if_pos hj, if_pos (by simp [hj]), hj]
    · simp [hj]

/-- The slot after a switch of its banks. -/
def slotSwitched (z : Slot) : Slot :=
  { z with bank := 1 - z.bank, armed := false, reload := none, switches := (z.switches + 1) % 65536 }

/-- The context after a switch to an image. -/
def ctxSwitched (y : Ctx) (g : Img) (a : Nat) : Ctx :=
  { y with img := g, live := streamsChanged (streamSwitched g) (List.range 4) y.live, imageAddr := a }

theorem bankSwitch_switches {s : State} {n c : Nat} {g : Img} (hv : ((coreAt s n).slot c).valid = true)
    (ha : ((coreAt s n).slot c).armed = true) (hr : ∀ st < 4, streamRests s n c st = true)
    (hg : ((coreAt s n).slot c).reload = some g) : bankSwitch s n c =
      setCore (setCtx s ((coreAt s n).slot c).ctx
          (ctxSwitched (ctxAt s ((coreAt s n).slot c).ctx) g ((coreAt s n).slot c).reloadAt)) n
        ((coreAt s n).setSlot c (slotSwitched ((coreAt s n).slot c))) := by
  have hall : (List.range 4).all (streamRests s n c) = true := List.all_eq_true.2 fun st hst => hr st (List.mem_range.1 hst)
  unfold bankSwitch
  dsimp only
  rw [if_pos (by rw [hv, ha, hall]; rfl), hg]
  rfl

theorem exec_reloadBankSwitch (n c : Nat) (s : State) : exec (.reloadBankSwitch n c) s = .next (bankSwitch s n c) := rfl

/-! ## The statement -/

/-- Settles O22: a refused image leaves its record alone (with the code of its reading where it cannot be read, log 236), an
accepted one its record and its group; a reload, a copy and a switch each change the one slot that they name, and its context. -/
theorem imageLoading : Obligations.ImageLoading := by
  refine ⟨fun s f e he => ⟨fun r hr => image_refuses he (submitImage_unread hr), fun b hb => ⟨fun r hr =>
    image_refuses he (submitImage_refused hb hr), fun l hl _ hfree hlim => ?_⟩⟩, fun s rq hready hcheck => ?_,
    fun s n c g hn hc hcopy hg hfree hserve hfits => ⟨fun hok => ?_, fun hbad => ?_⟩, fun s n c g hv ha hr hg => ?_⟩
  · obtain ⟨t, hexec, hhead, hres, hdef⟩ := image_defines he hb hl hfree hlim
    refine ⟨t, hexec, hhead, hres, fun i x g hx hg => ?_, hdef.others, hdef.group, hdef.serial⟩
    obtain ⟨a, hctx⟩ := hdef.shares i x g hx hg
    rw [hctx]
    exact ⟨rfl, rfl, rfl, rfl, rfl, rfl, rfl⟩
  · have hk := mbxTaken_only s rq 0x02
    have hexec : exec (.imageReload rq) s = .next (reloadBody (mbxTaken s rq 0x02)) := by
      rw [exec_imageReload, mbxCommand_passes hready (by decide) hcheck]
    obtain ⟨⟨hb, -⟩, -⟩ := hready
    refine acts_of_exec hexec ?_
    rw [reloadBody_eq, mbxArg2, mbxArg_mbxTaken s rq _ (by decide), mbxArg_mbxTaken s rq _ (by decide),
      mbxArg_mbxTaken s rq _ (by decide), hk.coreAt (by decide), coreAt_setCore, Core.slot_setSlot, slotAwaiting,
      sealedAt_congr (hk.2 .images (by decide)), setCore_mbx, setCore_get, mbxTaken_mbx, mbxTaken_busy s rq 0x02 hb]
    exact ⟨rfl, rfl, rfl, rfl, fun d hd => Core.slot_setSlot_other _ _ hd, (setCore_ctxs ..).trans (hk.2 .ctxs (by decide)),
      (setCore_mems ..).trans (hk.2 .mems (by decide))⟩
  · have hk := actBegin_only (standbyWritten s n ((coreAt s n).slot c) g) n (copyAct s c g.bytes.length)
    obtain ⟨hmaint, hslot⟩ :=
      actBegin_copy (standbyWritten s n ((coreAt s n).slot c) g) n (a := copyAct s c g.bytes.length) rfl
    refine acts_of_exec (by rw [exec_imageCopy hn hc, copyStart_right hcopy hg hfree hserve hfits hok]) ⟨fun i hi => ?_, hmaint,
      hslot c, hk.2 .ctxs (by decide)⟩
    rw [hk.2 .mems (by decide), standbyWritten, rdM_wrBytes, if_pos (by omega), Nat.add_sub_cancel_left]
  · obtain ⟨hk, hcode⟩ := copyStart_drops hcopy hg hfree hserve hfits hbad
    refine acts_of_exec (exec_imageCopy hn hc s) ⟨?_, (hk.2 .mems (by decide)).trans (setCore_mems ..),
      (hk.2 .ctxs (by decide)).trans (setCore_ctxs ..), hcode⟩
    rw [hk.coreAt (by decide), reloadDropped, coreAt_setCore, Core.slot_setSlot]
  · refine acts_of_exec (by rw [exec_reloadBankSwitch, bankSwitch_switches hv ha hr hg]) ?_
    rw [coreAt_setCore, Core.slot_setSlot, ctxAt_congr (setCore_ctxs ..), ctxAt_setCtx_self]
    refine ⟨rfl, rfl, rfl, rfl, streamsChanged_tokens .., fun st hst => ?_⟩
    rw [ctxSwitched, streamsChanged_stream _ List.nodup_range, if_pos (List.mem_range.2 hst)]
    exact ⟨rfl, rfl, rfl⟩

end Sys2Proof.Machine
end

section
/-! PROOFS. The arbiters: grants, promotions, quota windows and the writes of a requester's entry (08_memory.md R217 to R222;
13_filigree.md R340). -/

namespace Sys2Proof.Machine

/-! ## Arbiters and queues after an update (R217, R218) -/

section
variable (s : State) (k : Nat) (x : Arb) (r : Nat) (l : List ArbReq)

@[simp] theorem arbAt_setArb : arbAt (setArb s k x) k = x := mapGet_put_self _ _ _ _

theorem arbAt_setArb_other {j : Nat} (h : j ≠ k) : arbAt (setArb s k x) j = arbAt s j := mapGet_put_other _ _ _ h

@[simp] theorem Arb.queue_setQueue : (x.setQueue r l).queue r = l := mapGet_put_self _ _ _ _

theorem Arb.queue_setQueue_other {q : Nat} (h : q ≠ r) : (x.setQueue r l).queue q = x.queue q := mapGet_put_other _ _ _ h

end

theorem arbAt_congr {s t : State} (h : t.arbs = s.arbs) (k : Nat) : arbAt t k = arbAt s k := by unfold arbAt; rw [h]

/-- An update of arbiter k alone. -/
abbrev ArbsBut (k : Nat) (s t : State) : Prop := ∀ j, j ≠ k → arbAt t j = arbAt s j

theorem arbCount_only (s : State) (k : Nat) (f : Fld) : Keeps 4 s (arbCount s k f) :=
  arbCount_keeps (by decide) s k f (Keeps.refl _ s)

@[simp] theorem arbAt_arbCount (s : State) (k : Nat) (f : Fld) (j : Nat) : arbAt (arbCount s k f) j = arbAt s j :=
  arbAt_congr ((arbCount_only s k f).2 .arbs (by decide)) j

/-- A count that may be made leaves every arbiter. -/
theorem arbAt_iteCount (c : Prop) [Decidable c] (s : State) (k : Nat) (f : Fld) (j : Nat) :
    arbAt (if c then arbCount s k f else s) j = arbAt s j := by
  split
  · exact arbAt_arbCount ..
  · rfl

/-- Deferrals are noted at their own arbiter. -/
theorem noteDeferred_others (s : State) (k : Nat) : ArbsBut k s (noteDeferred s k) := by
  intro j hj
  unfold noteDeferred
  dsimp only
  split
  · rw [arbAt_setArb_other _ _ _ hj]
    exact arbAt_congr ((forEach_keeps (m := 4) (by decide) _ _ _ (fun t _ h => arbCount_keeps (by decide) t _ _ h)
      (Keeps.refl _ s)).2 .arbs (by decide)) j
  · rfl

/-! ## A grant (R217 to R219) -/

/-- What a run of beats leaves at its arbiter: the owner, the beats spent, and the requester's queue; what it counts besides is
elsewhere. -/
theorem arbGive_arbs (s : State) (k r : Nat) (fresh : Bool) :
    let x := arbAt s k
    let q := x.req r
    let d := min q.beats (arbBreak k)
    ∃ y : Arb, y.owner = (if q.beats - d = 0 then none else some r) ∧ y.spent = (if fresh then 0 else x.spent) + d ∧
      y.reqs = x.reqs ∧ ∀ j, arbAt (arbGive s k r fresh) j = arbAt (setArb s k (y.setQueue r
        (if q.beats - d = 0 then nextTurn q.core ((x.queue r).drop 1)
          else { q with beats := q.beats - d } :: (x.queue r).drop 1))) j := by
  refine ⟨?run, ?owner, ?spent, ?reqs, fun j => ?arbiters⟩
  case arbiters =>
    unfold arbGive
    dsimp only
    rw [arbAt_iteCount, arbAt_iteCount]
    rfl
  all_goals rfl

/-- The grant is the run of beats to the requester that the rule names. -/
theorem arbGrant_gives {s : State} {k r : Nat} {fresh : Bool} (hf : feedHolds s k = false)
    (hg : grantedTo (noteDeferred s k) k = some (r, fresh)) : arbGrant s k = arbGive (noteDeferred s k) k r fresh := by
  unfold arbGrant
  unfold grantedTo at hg
  rw [hf]
  generalize noteDeferred s k = u at hg ⊢
  dsimp only at hg ⊢
  cases ho : (arbAt u k).owner with
  | none =>
    rw [ho] at hg
    cases hb : arbBest u k (arbAt u k) with
    | none => simp [hb] at hg
    | some p => simp_all
  | some o =>
    rw [ho] at hg
    by_cases hl : (arbAt u k).locked = true
    · simp_all
    · cases hb : arbBest u k (arbAt u k) with
      | none => simp [hl, hb] at hg
      | some p =>
        cases hi : arbRank u k (arbAt u k) o with
        | none => simp_all
        | some i =>
          simp only [hl, hb, hi, Option.map_some] at hg ⊢
          by_cases hc : p.1 ≤ i ∧ (arbAt u k).spent < (arbCfg u k o).burst
          · rw [if_pos hc] at hg; cases hg; exact if_pos hc
          · rw [if_neg hc] at hg; cases hg; exact if_neg hc

theorem exec_arbiterGrant (a : ArbiterId) (s : State) : exec (.arbiterGrant a) s = .next (arbGrant s (arbKey a)) := rfl

/-! ## A promotion (R219) -/

/-- The counter of a pseudo-channel's arbiter is raised by one. -/
theorem arbCount_get (s : State) {k : Nat} (hk : k < 65536) (f : Fld) (hb : s.behaveReset = []) (hf : f.lo + f.w ≤ 32) :
    (arbCount s k f).get f (k / 64) = (s.get f (k / 64) + 1) % 2 ^ f.w := by
  rw [arbCount, if_pos hk, State.bump, get_set_self _ _ _ _ _ hb hf]

theorem arbPromote_promotes {s : State} {k r : Nat} {l : List ArbReq} (hu : (arbCfg s k r).urg ≠ 0)
    (hm : ¬((arbCfg s k r).rank = 2 ∧ (arbAt s k).masked.elem r = true))
    (hl : promoteFirst (nowN s) (arbCfg s k r).urg ((arbAt s k).queue r) = some l) :
    arbPromote s k r = arbCount (setArb s k ((arbAt s k).setQueue r l)) k MEMCH_ARB_PROMOTED := by
  unfold arbPromote
  dsimp only
  rw [if_neg (not_or.2 ⟨hu, hm⟩), hl]

theorem exec_urgencyPromotion (a : ArbiterId) (r : Nat) (s : State) :
    exec (.urgencyPromotion a r) s = .next (arbPromote s (arbKey a) r) := rfl

/-! ## A quota window (R211, R219, R220) -/

/-- The arbiter at the start of a window. -/
def Arb.fresh (x : Arb) (w : Nat) : Arb :=
  { x with counts := [], masked := [], promo := 0, window := w
           reqs := x.reqs.map (fun p => (p.1, p.2.map (fun q => { q with deferred := false }))) }

theorem arbWindowStart_eq {s : State} {k : Nat} (h : (arbAt s k).window ≠ nowN s / arbWindow k) :
    arbWindowStart s k = if k < 65536 ∧ s.move.quotaDue = true then
        setClusterQuota (setArb s k ((arbAt s k).fresh (nowN s / arbWindow k)))
      else setArb s k ((arbAt s k).fresh (nowN s / arbWindow k)) := if_neg h

theorem withMove_get (s : State) (x : Move) (f : Fld) (i k : Nat) : ({ s with move := x } : State).get f i k = s.get f i k :=
  get_congr rfl rfl f i k

theorem setClusterQuota_only (s : State) : Keeps 68719476740 s (setClusterQuota s) :=
  setClusterQuota_keeps (by decide) s (Keeps.refl _ s)

/-- A new number of stacks shows the quota of a cluster port. -/
theorem setClusterQuota_shows (s : State) (hb : s.behaveReset = []) : (setClusterQuota s).move.quotaDue = false ∧
    (setClusterQuota s).get MEM_CLUSTER_QUOTA =
      (320 + (liveStacks s).length - 1) / max 1 (liveStacks s).length % 2 ^ 8 := by
  refine ⟨rfl, ?_⟩
  have habove : ∀ (q : Nat) (t : State) (r : Nat), SameBelow MEM_HIGH_SUM.off t (t.set MEM_ARB_REQ.QUOTA q r) :=
    fun q t r => SameBelow.set t MEM_ARB_REQ.QUOTA q r 0 (by simp only [Fld.addr]; omega)
  unfold setClusterQuota
  dsimp only
  rw [withMove_get, get_set_reg _ _ _ _ _ _ _ _ (by decide), (SameBelow.forEach (habove _) _ _).get _ _ _ (by decide),
    get_set_self _ _ _ _ _ hb (by decide)]

theorem arbAt_arbWindowStart {s : State} {k : Nat} (h : (arbAt s k).window ≠ nowN s / arbWindow k) :
    arbAt (arbWindowStart s k) k = (arbAt s k).fresh (nowN s / arbWindow k) := by
  rw [arbWindowStart_eq h]
  split
  · rw [arbAt_congr ((setClusterQuota_only _).2 .arbs (by decide)), arbAt_setArb]
  · exact arbAt_setArb ..

theorem exec_quotaWindowStart (a : ArbiterId) (s : State) :
    exec (.quotaWindowStart a) s = .next (arbWindowStart s (arbKey a)) := rfl

/-! ## A write of an entry (R220, R223) -/

/-- The word that an entry takes: LOCK_OK stays, and so do the rank and the quota of a cluster port. -/
def entryWord (s : State) (r : Nat) (v : Word) : Word :=
  let old := rdReg s (MEM_ARB_REQ.W.addr r)
  let w := putBits v 11 1 (getBits old 11 1)
  if r < 16 then putBits w 20 12 (getBits old 20 12) else w

/-- An entry that no write may give. -/
abbrev EntryRefused (s : State) (r : Nat) (w : Word) : Prop :=
  getBits w 30 2 = 3 ∨ getBits w 28 2 = 3 ∨ 452 < highSum s r w

theorem writeArbReq_eq {s : State} {r : Nat} (hr : r < 29) (v : Word) : writeArbReq s r v =
    if EntryRefused s r (entryWord s r v) then s.set MEM_STATUS.ARB_WRITE_REJECT 1
    else rewritten ((wrReg s (MEM_ARB_REQ.W.addr r) (entryWord s r v)).set MEM_HIGH_SUM
      (highSum (wrReg s (MEM_ARB_REQ.W.addr r) (entryWord s r v)) r (entryWord s r v))) (MEM_ARB_REQ.W.addr r) :=
  if_neg (by omega)

/-- The sum takes entry r as a word, whatever the entry holds. -/
theorem highSum_wrReg (s : State) (r : Nat) (v w : Word) :
    highSum (wrReg s (MEM_ARB_REQ.W.addr r) v) r w = highSum s r w := by
  unfold highSum
  congr 1
  refine List.map_congr_left fun i _ => ?_
  dsimp only
  by_cases hi : i = r
  · rw [if_pos hi, if_pos hi]
  · rw [if_neg hi, if_neg hi, rdReg_wrReg_other]
    simp only [Fld.addr]; omega

/-- A write that is not refused stores its word and the new sum. -/
theorem writeArbReq_stores {s : State} (hs : s.sound) {r : Nat} (hr : r < 29) {v : Word}
    (hv : ¬EntryRefused s r (entryWord s r v)) :
    writeArbReq s r v = (wrReg s (MEM_ARB_REQ.W.addr r) (entryWord s r v)).set MEM_HIGH_SUM
      (highSum s r (entryWord s r v)) := by
  rw [writeArbReq_eq hr, if_neg hv, highSum_wrReg, rewritten_sound _ _ (by simpa [State.sound] using hs)]

/-- No register of the memory's own is an entry of a requester. -/
theorem entry_addr_ne {f : Fld} (r : Nat) (hf : f.addr < MEM_ARB_REQ.W.off) : MEM_ARB_REQ.W.addr r ≠ f.addr := by
  unfold Fld.addr at hf ⊢; dsimp only at hf ⊢; omega

/-- The entry then holds its word, and the sum is shown. -/
theorem writeArbReq_stored {s : State} (hs : s.sound) {r : Nat} (hr : r < 29) {v : Word}
    (hv : ¬EntryRefused s r (entryWord s r v)) :
    rdReg (writeArbReq s r v) (MEM_ARB_REQ.W.addr r) = entryWord s r v ∧
      (writeArbReq s r v).get MEM_HIGH_SUM = highSum s r (entryWord s r v) ∧
      (writeArbReq s r v).get MEM_STATUS.ARB_WRITE_REJECT = s.get MEM_STATUS.ARB_WRITE_REJECT := by
  have hle : highSum s r (entryWord s r v) ≤ 452 := Nat.le_of_not_lt fun h => hv (.inr (.inr h))
  have hsum := entry_addr_ne (f := MEM_HIGH_SUM) r (by decide)
  have hstatus := entry_addr_ne (f := MEM_STATUS.ARB_WRITE_REJECT) r (by decide)
  rw [writeArbReq_stores hs hr hv]
  generalize highSum s r (entryWord s r v) = n at hle
  refine ⟨?_, ?_, ?_⟩
  · rw [rdReg_set_other _ _ _ _ _ _ hsum, rdReg_wrReg _ _ _ (by simp [hs.1])]
  · rw [get_set_self _ _ _ _ _ (by simp [hs.1]) (by decide)]
    exact Nat.mod_eq_of_lt (by simp only [Nat.reducePow]; omega)
  · rw [get_set_reg _ _ _ _ _ _ _ _ (by decide), State.get, rdReg_wrReg_other _ _ hstatus.symm]; rfl

theorem exec_arbReqWrite (r : Nat) (v : Word) (s : State) : exec (.arbReqWrite r v) s = .next (writeArbReq s r v) := rfl

/-! ## The statement -/

/-- Settles O24: a grant is one run between breaks (log 241) to the requester that the rule names, which gives way to the next
turn (log 353); a promotion, a window and a write each change the one record that they name. -/
theorem arbitration : Obligations.Arbitration := by
  refine ⟨fun s a r fresh hf hg => ?_, fun s a r l hs hu hm hl => ?_, fun s a hs hw => ?_, fun s r v hs hr => ?_⟩
  · obtain ⟨y, howner, hspent, hreqs, hat⟩ := arbGive_arbs (noteDeferred s (arbKey a)) (arbKey a) r fresh
    have hothers := noteDeferred_others s (arbKey a)
    have hkeeps : Keeps 34359738372 s (arbGrant s (arbKey a)) := arbGrant_keeps (by decide) s _ (Keeps.refl _ s)
    refine acts_of_exec (exec_arbiterGrant a s) ⟨?_, ?_, ?_, fun q hq => ?_, fun j hj => ?_, hkeeps.2 .mems (by decide)⟩
    all_goals rw [arbGrant_gives hf hg, hat]
    · rw [arbAt_setArb]; exact howner
    · rw [arbAt_setArb]; exact hspent
    · rw [arbAt_setArb, Arb.queue_setQueue]
    · rw [arbAt_setArb, Arb.queue_setQueue_other _ _ _ hq, Arb.queue, hreqs]; rfl
    · rw [arbAt_setArb_other _ _ _ hj, hothers j hj]
  · refine acts_of_exec (exec_urgencyPromotion a r s) ?_
    rw [arbPromote_promotes hu hm hl, arbAt_arbCount, arbAt_setArb]
    exact ⟨Arb.queue_setQueue .., fun q hq => Arb.queue_setQueue_other _ _ _ hq,
      fun hk => arbCount_get _ hk _ hs.1 (by decide)⟩
  · refine acts_of_exec (exec_quotaWindowStart a s) ?_
    rw [arbAt_arbWindowStart hw]
    refine ⟨rfl, rfl, rfl, rfl, rfl, fun hk hd => ?_⟩
    rw [arbWindowStart_eq hw, if_pos ⟨hk, hd⟩]
    exact setClusterQuota_shows _ hs.1
  · change if EntryRefused s r (entryWord s r v) then _ else _
    split
    · next hv =>
      refine acts_of_exec (exec_arbReqWrite r v s) ?_
      rw [writeArbReq_eq hr, if_pos hv]
      exact ⟨get_set_self _ _ _ _ _ hs.1 (by decide), rdReg_set_other _ _ _ _ _ _ (entry_addr_ne r (by decide))⟩
    · next hv => exact acts_of_exec (exec_arbReqWrite r v s) (writeArbReq_stored hs hr hv)

end Sys2Proof.Machine
end

section
/-! PROOFS. Device memory: registers after the errors and the journal, poison marks, and the stripe map (08_memory.md R202, R204,
R208, R212, R213; 14_journal_recovery.md R345). -/

namespace Sys2Proof.Machine

/-! ## Operations over a list, and registers beside those of a list -/

theorem forEach_cons {α : Type} (a : α) (l : List α) (f : State → α → State) (s : State) :
    forEach (a :: l) f s = forEach l f (f s a) := List.foldl_cons ..

/-- A fold leaves every register that each of its steps leaves. -/
theorem regsBut_forEach {α : Type} {l : List Nat} {f : State → α → State} {as : List α}
    (hf : ∀ t, ∀ a ∈ as, regsBut l t (f t a)) (s : State) : regsBut l s (forEach as f s) :=
  List.foldlRecOn as f (motive := fun t => regsBut l s t) (fun _ _ => rfl) (fun t h a ha => regsBut_trans h (hf t a ha))

/-- A fold leaves what each of its steps leaves. -/
theorem forEach_same {α β : Type} (g : State → β) {f : State → α → State} (hf : ∀ t a, g (f t a) = g t) (as : List α)
    (s : State) : g (forEach as f s) = g s :=
  List.foldlRecOn as f (motive := fun t => g t = g s) rfl (fun t h a _ => (hf t a).trans h)

theorem withMems_rdReg (s : State) (m : Mems) (o : Nat) : rdReg { s with mems := m } o = rdReg s o := rdReg_congr rfl rfl o

theorem withJr_regsBut (l : List Nat) (s : State) (j : Jrnl) : regsBut l s { s with jr := j } := fun o _ => rdReg_congr rfl rfl o

theorem raiseMem_only (s : State) (r a n core : Nat) (lock : Bool) : Keeps 34359738368 s (raiseMem s r a n core lock) :=
  raiseMem_keeps (by decide) s r a n core lock (Keeps.refl _ s)

theorem raiseMem_regsBut (l : List Nat) (s : State) (r a n core : Nat) (lock : Bool) :
    regsBut l s (raiseMem s r a n core lock) :=
  regsBut_of_keeps (raiseMem_only s r a n core lock) (by decide) (by decide) l

/-! ## Poison (R213) -/

theorem mem_granules {g a n : Nat} : g ∈ granules a n ↔ 0 < n ∧ a / 64 ≤ g ∧ g ≤ (a + n - 1) / 64 := by
  unfold granules
  split
  · next h => simp [h]
  · simp only [List.mem_map, List.mem_range]
    have hle : a / 64 ≤ (a + n - 1) / 64 := Nat.div_le_div_right (by omega)
    exact ⟨fun ⟨i, hi, e⟩ => by omega, fun h => ⟨g - a / 64, by omega, by omega⟩⟩

/-- Marks stand whatever else is marked. -/
theorem marked_put (p : SMap Bool) (g h : Nat) : mapGet clean0 (mapPut clean0 p g true) h = (h == g || mapGet clean0 p h) := by
  rw [mapGet_put]
  by_cases e : h = g <;> simp [e]

theorem marked_puts (l : List Nat) (p : SMap Bool) (h : Nat) :
    mapGet clean0 (l.foldl (fun p g => mapPut clean0 p g true) p) h = (l.elem h || mapGet clean0 p h) := by
  induction l generalizing p with
  | nil => rfl
  | cons g t ih =>
    rw [List.foldl_cons, ih, marked_put, List.elem_cons]
    cases h == g <;> cases List.elem h t <;> rfl

/-- Poisoned data marks every granule that it touches. -/
theorem poisonWrite_marks (p : SMap Bool) {a n g : Nat} (hg : g ∈ granules a n) :
    mapGet clean0 (poisonWrite p a n true) g = true := by
  have hfold : poisonWrite p a n true = (granules a n).foldl (fun p g => mapPut clean0 p g true) p := rfl
  rw [hfold, marked_puts, List.elem_eq_mem, decide_eq_true hg, Bool.true_or]

/-! ## Errors of a channel (R212) -/

/-- The registers in which a channel's errors are counted and located. -/
abbrev errRegs (m : Nat) : List Nat :=
  [MEMCH_CE_COUNT.addr m, MEMCH_UE_COUNT.addr m, MEMCH_ERR_ADDR_LO.addr m, MEMCH_ERR_ADDR_HI.addr m, MARGIN_STACK_CE.addr m]

/-- A register of memory beside those of the errors: not one of theirs for any of the 16 channels. -/
theorem not_mem_errRegs {m o : Nat} (hm : m < 16) (ho : 0x200000 ≤ o) (hoff : o % 0x10000 < 8 ∨ 0x14 < o % 0x10000) :
    o ∉ errRegs m := by
  simp only [errRegs, Fld.addr, List.mem_cons, List.not_mem_nil, or_false]
  omega

section
variable (s : State) (m a : Nat)

theorem channelUe_pDev : (channelUe s m a).mems.pDev = mapPut clean0 s.mems.pDev (a / 64) true := by
  simp [channelUe]

theorem channelUe_dev : (channelUe s m a).mems.dev = s.mems.dev := by simp [channelUe]

theorem channelUe_only : Keeps 1028 s (channelUe s m a) := channelUe_keeps (by decide) s m a (Keeps.refl _ s)

/-- A corrected error is counted. -/
abbrev ceCounted : State := (s.bumpSat MEMCH_CE_COUNT m).bumpSat MARGIN_STACK_CE m

theorem ceCounted_regsBut : regsBut (errRegs m) s (ceCounted s m) :=
  regsBut_trans (set_regsBut_mem s MEMCH_CE_COUNT _ m 0 (by simp)) (set_regsBut_mem _ MARGIN_STACK_CE _ m 0 (by simp))

theorem channelCe_only : Keeps 34359738372 s (channelCe s m a) := channelCe_keeps (by decide) s m a (Keeps.refl _ s)

theorem channelCe_regsBut : regsBut (errRegs m) s (channelCe s m a) :=
  regsBut_trans (ceCounted_regsBut s m) (raiseMem_regsBut (errRegs m) _ _ _ _ _ _)

/-- An uncorrectable error counted and located. -/
abbrev ueCounted : State := (s.bumpSat MEMCH_UE_COUNT m).set2 MEMCH_ERR_ADDR_LO MEMCH_ERR_ADDR_HI a m

/-- The mark of its granule is no register. -/
theorem channelUe_rdReg (o : Nat) : rdReg (channelUe s m a) o = rdReg (ueCounted s m a) o := by
  unfold channelUe
  exact withMems_rdReg (ueCounted s m a) _ o

theorem channelUe_regsBut : regsBut (errRegs m) s (channelUe s m a) := by
  have haddr := regsBut_mono (m := errRegs m) (set2_regsBut (s.bumpSat MEMCH_UE_COUNT m) MEMCH_ERR_ADDR_LO
    MEMCH_ERR_ADDR_HI a m 0) (by simp)
  intro o ho
  rw [channelUe_rdReg, haddr o ho]
  exact set_regsBut_mem (l := errRegs m) s MEMCH_UE_COUNT _ m 0 (by simp) o ho

/-- An uncorrectable error raises its count, which stays at the largest value. -/
theorem channelUe_count (hb : s.behaveReset = []) : (channelUe s m a).get MEMCH_UE_COUNT m =
    min (s.get MEMCH_UE_COUNT m + 1) (2 ^ 32 - 1) := by
  have haddr := set2_regsBut (s.bumpSat MEMCH_UE_COUNT m) MEMCH_ERR_ADDR_LO MEMCH_ERR_ADDR_HI a m 0
  rw [State.get, channelUe_rdReg, ← State.get, get_of_regsBut haddr _ _ _ (by simp [Fld.addr]), State.bumpSat,
    get_set_self _ _ _ _ _ hb (by decide)]
  exact Nat.mod_eq_of_lt (by simp only [Nat.reducePow]; omega)

end

/-- Several uncorrectable errors, at places of a burst. -/
def uesNoted (m : Nat) (at_ : Nat → Nat) (ues : List Nat) (s : State) : State := forEach ues (fun s g => channelUe s m (at_ g)) s

section
variable (m : Nat) (at_ : Nat → Nat) (ues : List Nat) (s : State)

theorem uesNoted_cons (g : Nat) : uesNoted m at_ (g :: ues) s = uesNoted m at_ ues (channelUe s m (at_ g)) :=
  forEach_cons g ues (fun s g => channelUe s m (at_ g)) s

theorem uesNoted_only : Keeps 1028 s (uesNoted m at_ ues s) :=
  forEach_keeps (by decide) _ _ _ (fun t _ h => channelUe_keeps (by decide) t m _ h) (Keeps.refl _ s)

theorem uesNoted_regsBut : regsBut (errRegs m) s (uesNoted m at_ ues s) :=
  regsBut_forEach (fun t _ _ => channelUe_regsBut t m _) s

theorem uesNoted_dev : (uesNoted m at_ ues s).mems.dev = s.mems.dev :=
  forEach_same (fun t => t.mems.dev) (fun t _ => channelUe_dev t m _) ues s

theorem uesNoted_count (hb : s.behaveReset = []) : (uesNoted m at_ ues s).get MEMCH_UE_COUNT m =
    min (s.get MEMCH_UE_COUNT m + ues.length) (2 ^ 32 - 1) := by
  induction ues generalizing s with
  | nil =>
    have := get_lt s MEMCH_UE_COUNT m 0
    exact (Nat.min_eq_left (Nat.le_sub_one_of_lt this)).symm
  | cons g t ih =>
    have hstep := ih (channelUe s m (at_ g)) (((channelUe_only s m _).2 .behaveReset (by decide)).trans hb)
    rw [channelUe_count s m _ hb] at hstep
    rw [uesNoted_cons, hstep, List.length_cons]
    omega

theorem uesNoted_marked (h : Nat) : mapGet clean0 (uesNoted m at_ ues s).mems.pDev h =
    ((ues.map (fun g => at_ g / 64)).elem h || mapGet clean0 s.mems.pDev h) := by
  induction ues generalizing s with
  | nil => rfl
  | cons g t ih =>
    rw [uesNoted_cons, ih, channelUe_pDev, marked_put,
      List.map_cons, List.elem_cons]
    cases h == at_ g / 64 <;> cases List.elem h (t.map (fun g => at_ g / 64)) <;> rfl

end

/-! ## The journal (14_journal_recovery.md R345; 01_architecture.md R39) -/

/-- The registers that a record may move. -/
abbrev recordRegs : List Nat :=
  [ALM_FLOOR_LO.off, ALM_FLOOR_HI.off, JRNL_BLOCKS_LO.off, JRNL_BLOCKS_HI.off, JRNL_STATUS.W.off, JRNL_WPTR.off]

theorem journalFlush_regsBut (s : State) : regsBut recordRegs s (journalFlush s) := by
  unfold journalFlush
  split
  · exact fun _ _ => rfl
  · dsimp only
    have hstore (t : State) (a : Nat) (b : Bytes) : regsBut recordRegs t (devStore t a b) :=
      regsBut_of_keeps (devStore_keeps (m := 1024) (by decide) t a b false (Keeps.refl _ t)) (by decide) (by decide) _
    have hcount (t : State) : regsBut recordRegs t (t.bump2 JRNL_BLOCKS_LO JRNL_BLOCKS_HI) :=
      regsBut_mono (set2_regsBut t JRNL_BLOCKS_LO JRNL_BLOCKS_HI _ 0 0) (by decide)
    have hblock (a : Nat) (b : Bytes) : regsBut recordRegs s
        ((devStore (raiseMem s 24 a 4096) a b).bump2 JRNL_BLOCKS_LO JRNL_BLOCKS_HI) :=
      regsBut_trans (raiseMem_regsBut recordRegs s 24 a 4096 0 false) (regsBut_trans (hstore _ _ _) (hcount _))
    have hwptr (t : State) (w : Nat) : regsBut recordRegs t (t.set JRNL_WPTR w) := set_regsBut_mem t JRNL_WPTR w 0 0 (by decide)
    refine regsBut_trans ?_ (withJr_regsBut recordRegs _ _)
    split
    · exact regsBut_trans (hblock _ _) (regsBut_trans (set_regsBut_mem _ JRNL_STATUS.WRAPPED 1 0 0 (by decide)) (hwptr _ _))
    · exact regsBut_trans (hblock _ _) (hwptr _ _)

theorem journal_regsBut (s : State) (r : JRec) : regsBut recordRegs s (journal s r) := by
  have hissue : regsBut recordRegs s (issue s) := regsBut_mono (set2_regsBut s ALM_FLOOR_LO ALM_FLOOR_HI _ 0 0) (by decide)
  have hrec (j : Jrnl) : regsBut recordRegs s { issue s with jr := j } := regsBut_trans hissue (withJr_regsBut recordRegs _ j)
  unfold journal
  generalize issue s = u at hrec
  dsimp only
  split
  · split <;> split
    · exact regsBut_trans (hrec _) (journalFlush_regsBut _)
    · exact hrec _
    · exact regsBut_trans (hrec _) (journalFlush_regsBut _)
    · exact hrec _
  · exact fun _ _ => rfl

theorem journal_move (s : State) (r : JRec) : (journal s r).move = s.move :=
  (journal_keeps (m := 42949673988) (by decide) s r (Keeps.refl _ s)).2 .move (by decide)

/-! ## The stripe map (R202, R204) -/

theorem stripeOf_congr {s t : State} {b : Nat} (h : rdReg t (MEM_STRIPE.addr (b / 4)) = rdReg s (MEM_STRIPE.addr (b / 4))) :
    stripeOf t b = stripeOf s b := by unfold stripeOf; rw [h]

/-- The entry of a byte of the map. -/
def entryOf (e : Nat) : Option Nat := if e.testBit 4 then none else some (e % 16)

theorem stripeOf_eq (s : State) (b : Nat) :
    stripeOf s b = entryOf (getBits (rdReg s (MEM_STRIPE.addr (b / 4))) (8 * (b % 4)) 8) := rfl

theorem entryOf_of_le {e : Nat} (h : e ≤ 16) : entryOf e = if e = 16 then none else some e := by
  interval_cases e <;> rfl

/-- The number of an entry, 16 for a spread bucket. -/
theorem stripeOf_getD_le (s : State) (b : Nat) : (stripeOf s b).getD 16 ≤ 16 := by
  rw [stripeOf_eq, entryOf]
  split
  · exact Nat.le_refl 16
  · exact Nat.le_of_lt (Nat.mod_lt _ (by decide))

/-- An entry of the map written as a number of the map. -/
abbrev putStripe (s : State) (p : Nat × Nat) : State := setStripe s p.1 (if p.2 = 16 then none else some p.2)

section
variable (s : State) (p : Nat × Nat)

theorem putStripe_eq : putStripe s p = wrReg s (MEM_STRIPE.addr (p.1 / 4))
    (putBits (rdReg s (MEM_STRIPE.addr (p.1 / 4))) (8 * (p.1 % 4)) 8 p.2) := by
  unfold putStripe setStripe
  by_cases h : p.2 = 16
  · rw [if_pos h, h]
  · rw [if_neg h]

theorem putStripe_behaveReset : (putStripe s p).behaveReset = s.behaveReset := by rw [putStripe_eq]; exact wrReg_behaveReset ..

theorem putStripe_self (hb : s.behaveReset = []) (hp : p.2 ≤ 16) :
    stripeOf (putStripe s p) p.1 = if p.2 = 16 then none else some p.2 := by
  rw [stripeOf_eq, putStripe_eq, rdReg_wrReg _ _ _ (by simp [hb]), getBits_putBits _ _ (by omega),
    Nat.mod_eq_of_lt (by omega), entryOf_of_le hp]

theorem putStripe_other (hb : s.behaveReset = []) {b : Nat} (h : b ≠ p.1) : stripeOf (putStripe s p) b = stripeOf s b := by
  rw [stripeOf_eq, stripeOf_eq, putStripe_eq]
  by_cases hr : b / 4 = p.1 / 4
  · rw [hr, rdReg_wrReg _ _ _ (by simp [hb])]
    rcases Nat.lt_or_gt_of_ne (show b % 4 ≠ p.1 % 4 by omega) with hlt | hgt
    · rw [getBits_putBits_below _ _ (by omega) (by omega)]
    · rw [getBits_putBits_above _ _ (by omega) (by omega)]
  · rw [rdReg_wrReg_other _ _ (by simp only [Fld.addr]; omega)]

end

/-- Entries of a map stored one after another. -/
def stripesPut (l : List (Nat × Nat)) (s : State) : State := forEach l putStripe s

theorem stripesPut_cons (p : Nat × Nat) (l : List (Nat × Nat)) (s : State) :
    stripesPut (p :: l) s = stripesPut l (putStripe s p) := forEach_cons p l putStripe s

theorem stripesPut_unlisted {l : List (Nat × Nat)} {b : Nat} (hn : b ∉ l.map (·.1)) (s : State) (hb : s.behaveReset = []) :
    stripeOf (stripesPut l s) b = stripeOf s b := by
  induction l generalizing s with
  | nil => rfl
  | cons q t ih =>
    rw [List.map_cons, List.mem_cons, not_or] at hn
    rw [stripesPut_cons, ih hn.2 _ ((putStripe_behaveReset s q).trans hb), putStripe_other s q hb hn.1]

/-- Each entry of a list without repetition stands in the map. -/
theorem stripesPut_listed {l : List (Nat × Nat)} (hd : (l.map (·.1)).Nodup) (hle : ∀ p ∈ l, p.2 ≤ 16) {p : Nat × Nat} (hp : p ∈ l)
    (s : State) (hb : s.behaveReset = []) :
    stripeOf (stripesPut l s) p.1 = if p.2 = 16 then none else some p.2 := by
  induction l generalizing s with
  | nil => exact absurd hp (List.not_mem_nil)
  | cons q t ih =>
    rw [List.map_cons, List.nodup_cons] at hd
    have hb' := (putStripe_behaveReset s q).trans hb
    rw [stripesPut_cons]
    rcases List.mem_cons.1 hp with rfl | ht
    · exact (stripesPut_unlisted hd.1 _ hb').trans (putStripe_self s p hb (hle p hp))
    · exact ih hd.2 (fun r hr => hle r (List.mem_cons_of_mem _ hr)) ht _ hb'

/-! ## The new map (R208) -/

/-- The survivor chosen is one of those there. -/
theorem fewest_mem {whole : List (Nat × Nat)} {p : Nat × Nat} (h : fewest whole = some p) : p ∈ whole := by
  refine List.foldlRecOn whole _ (motive := fun b => ∀ p, b = some p → p ∈ whole) (fun _ h => by cases h)
    (fun b hb c hc p hp => ?_) p h
  cases b with
  | none => cases hp; exact hc
  | some d =>
    dsimp only at hp
    split at hp
    · cases hp; exact hc
    · exact hb p hp

theorem remap_length (m w : Nat) (l : List Nat) (whole : List (Nat × Nat)) : (remap m w l whole).length = l.length := by
  induction l generalizing whole with
  | nil => rfl
  | cons e t ih =>
    rw [remap]
    split
    · split
      · split <;> simp only [List.length_cons, ih]
      · simp only [List.length_cons, ih]
    · simp only [List.length_cons, ih]

/-- Every entry of the new map is a stack or spread. -/
theorem remap_le {m w : Nat} {l : List Nat} (hl : ∀ e ∈ l, e ≤ 16) {whole : List (Nat × Nat)} (hw : ∀ p ∈ whole, p.1 ≤ 16) :
    ∀ e ∈ remap m w l whole, e ≤ 16 := by
  induction l generalizing whole with
  | nil => exact fun e he => absurd he List.not_mem_nil
  | cons d t ih =>
    have ht : ∀ e ∈ t, e ≤ 16 := fun e he => hl e (List.mem_cons_of_mem _ he)
    rw [remap]
    split
    · split
      · next sv k hf =>
        have hsv : sv ≤ 16 := hw _ (fewest_mem hf)
        split
        · refine List.forall_mem_cons.2 ⟨hsv, ih ht fun p hp => ?_⟩
          obtain ⟨q, hq, rfl⟩ := List.mem_map.1 hp
          split
          · exact hsv
          · exact hw q hq
        · exact List.forall_mem_cons.2 ⟨Nat.le_refl 16, ih ht hw⟩
      · exact List.forall_mem_cons.2 ⟨Nat.le_refl 16, ih ht hw⟩
    · exact List.forall_mem_cons.2 ⟨hl d List.mem_cons_self, ih ht hw⟩

theorem stripeList_length (s : State) : (stripeList s).length = 4096 := by rw [stripeList, List.length_map, List.length_range]

theorem newMap_length (s : State) (live : List Nat) (m : Nat) : (newMap live m (stripeList s)).length = 4096 :=
  (remap_length ..).trans (stripeList_length s)

theorem newMap_le (s : State) (m : Nat) : ∀ e ∈ newMap (liveStacks s) m (stripeList s), e ≤ 16 := by
  refine remap_le (fun e he => ?_) (fun p hp => ?_)
  · obtain ⟨b, -, rfl⟩ := List.mem_map.1 he
    exact stripeOf_getD_le s b
  · obtain ⟨x, hx, rfl⟩ := List.mem_map.1 hp
    have := List.mem_range.1 (List.mem_filter.1 (List.mem_filter.1 hx).1).1
    exact Nat.le_of_lt this

end Sys2Proof.Machine
end

section
/-! PROOFS. Retiring a stack, and the scrubber (08_memory.md R206 to R212, R215, R223). -/

namespace Sys2Proof.Machine

/-! ## STACK_RETIRE (R206, R207) -/

/-- The acceptance of a mailbox command writes no register of memory. -/
theorem mbxTaken_memory (s : State) (rq : Requester) (op : Nat) {o : Nat} (ho : 0x200000 ≤ o) :
    rdReg (mbxTaken s rq op) o = rdReg s o := by
  have hres (t : State) : rdReg (forEach (List.range 4) (fun s i => s.set MBX_RES 0 i) t) o = rdReg t o :=
    regsBut_forEach (l := (List.range 4).map (fun i => MBX_RES.addr i))
      (fun u i hi => set_regsBut_mem u MBX_RES 0 i 0 (List.mem_map_of_mem hi)) t o (by
        simp only [List.mem_map, List.mem_range, Fld.addr]; omega)
  have hne (f : Fld) (hf : f.addr < 0x200000) : o ≠ f.addr := by omega
  have htaken : mbxTaken s rq op =
      (forEach (List.range 4) (fun s i => s.set MBX_RES 0 i) ((opShown s rq op).set MBX_PROGRESS 0)).bump MBX_SEQ := rfl
  rw [htaken, State.bump, rdReg_set_other _ _ _ _ _ _ (hne MBX_SEQ (by decide)), hres,
    rdReg_set_other _ _ _ _ _ _ (hne MBX_PROGRESS (by decide)), opShown,
    rdReg_set_other _ _ _ _ _ _ (hne MBX_STATUS.RESULT (by decide)),
    rdReg_set_other _ _ _ _ _ _ (hne MBX_STATUS.BUSY (by decide))]
  exact rdReg_congr rfl rfl o

theorem mbxTaken_get_memory (s : State) (rq : Requester) (op : Nat) (f : Fld) (i : Nat) (h : 0x200000 ≤ f.addr i) :
    (mbxTaken s rq op).get f i = s.get f i := by
  unfold State.get; rw [mbxTaken_memory s rq op h]

/-- The live stacks are those that the status register shows. -/
theorem liveStacks_congr {s t : State} (h : t.get MEM_STATUS.LIVE = s.get MEM_STATUS.LIVE) : liveStacks t = liveStacks s := by
  unfold liveStacks; rw [h]

theorem liveStacks_length (s : State) : (liveStacks s).length ≤ 16 :=
  (List.length_filter_le ..).trans (by rw [List.length_range])

/-- The first refusal of a list that refuses nothing. -/
theorem firstCode_done {b : Bool} {c : Nat} {l : List (Bool × Nat)} (hc : c ≠ Code.done) :
    firstCode ((b, c) :: l) = Code.done ↔ b = false ∧ firstCode l = Code.done := by
  cases b <;> simp [firstCode, hc]

theorem retireCode_stack {s : State} {m : Nat} (h : retireCode s m = Code.done) : m < 16 := by
  unfold retireCode at h
  have := ((firstCode_done (by decide)).1 h).1
  simp only [decide_eq_false_iff_not] at this
  omega

/-- What a stack that begins to leave shows: the new top of memory, its own state, and the move. -/
structure Leaving (s t : State) (m : Nat) : Prop where
  top : t.get MEM_TOP = ((liveStacks s).length - 1) * 48
  state : t.get MEMCH_STATUS.STATE m = Fn.stopping
  scrub : t.get MEMCH_STATUS.SCRUB_ACTIVE m = 0
  moving : t.get MEM_STATUS.MOVING = 1
  stack : t.get MEM_STATUS.MOVE_STACK = m
  live : t.get MEM_STATUS.LIVE = s.get MEM_STATUS.LIVE
  done : t.get MEM_MOVE_DONE = 0

theorem retireGo_only (s : State) (m : Nat) : Keeps 4 s (retireGo s m) := retireGo_keeps (by decide) s m (Keeps.refl _ s)

/-- The state field of a channel. -/
theorem setFnState_channel (s : State) (m v : Nat) :
    setFnState s (MEMCH_STATUS.STATE.addr m) v = s.set MEMCH_STATUS.STATE v m := rfl

/-- Each field stands beside those that are written after it. -/
theorem retireGo_leaving {s : State} {m : Nat} (hb : s.behaveReset = []) (hm : m < 16) : Leaving s (retireGo s m) m := by
  have hlen := liveStacks_length s
  unfold retireGo
  dsimp only
  generalize moveUnits _ _ _ _ = total
  rw [setFnState_channel]
  constructor
  all_goals simp (disch := (simp [Fld.addr, hb]; try omega)) only [get_set_apart, get_set_self]
  case state => rfl
  all_goals omega

theorem mbxEnd_ends {s : State} {op : Nat} (h : mbxBusyWith s op = true) (code : Nat) (res : List Nat) :
    mbxEnd s code res = { s with mbx := { s.mbx with code := some code, res := res } } := by
  simp only [mbxBusyWith, Bool.and_eq_true, beq_iff_eq] at h
  rw [mbxEnd, if_pos ⟨by rw [h.1]; rfl, h.2⟩]

/-- The end of an operation shows in the mailbox alone. -/
theorem mbxEnd_get (s : State) (code : Nat) (res : List Nat) (f : Fld) (i k : Nat) :
    (mbxEnd s code res).get f i k = s.get f i k := by
  have h : Keeps 17179869184 s (mbxEnd s code res) := mbxEnd_keeps (by decide) s code res (Keeps.refl _ s)
  exact get_congr (h.2 .regs (by decide)) (h.2 .behaveReset (by decide)) f i k

theorem Leaving.of_get {s t u : State} {m : Nat} (h : Leaving s t m) (hu : ∀ (f : Fld) (i : Nat), u.get f i = t.get f i) :
    Leaving s u m :=
  ⟨(hu _ _).trans h.top, (hu _ _).trans h.state, (hu _ _).trans h.scrub, (hu _ _).trans h.moving, (hu _ _).trans h.stack,
    (hu _ _).trans h.live, (hu _ _).trans h.done⟩

theorem exec_stackRetire (rq : Requester) (s : State) :
    exec (.stackRetire rq) s = .next (mbxCommand s rq 0x10 retireStackCheck retireStack) := rfl

section
variable {s : State} {rq : Requester} (hready : mbxReady s rq 0x10) (hcheck : retireStackCheck (mbxTaken s rq 0x10) = Code.done)
include hready hcheck

/-- Past the checks the command of STACK_RETIRE begins the move of the stack that its argument names. -/
theorem stackRetire_begins : mbxCommand s rq 0x10 retireStackCheck retireStack =
    mbxEnd (retireGo (mbxTaken s rq 0x10) (s.get MBX_ARG 0)) Code.done
      [(retireGo (mbxTaken s rq 0x10) (s.get MBX_ARG 0)).get MEM_MOVE_TOTAL % 2 ^ 32] := by
  rw [mbxCommand_passes hready (by decide) hcheck, retireStack, mbxArg_mbxTaken s rq _ (by decide)]

theorem stackRetire_leaving :
    Leaving s (mbxCommand s rq 0x10 retireStackCheck retireStack) (s.get MBX_ARG 0) := by
  have hm := retireCode_stack hcheck
  rw [mbxArg_mbxTaken s rq _ (by decide)] at hm
  have hb := ((mbxTaken_only s rq 0x10).2 .behaveReset (by decide)).trans hready.1.1
  have hlive := mbxTaken_get_memory s rq 0x10 MEM_STATUS.LIVE 0 (by decide)
  have hgo := retireGo_leaving hb hm
  rw [stackRetire_begins hready hcheck]
  refine Leaving.of_get ⟨?_, hgo.state, hgo.scrub, hgo.moving, hgo.stack, hgo.live.trans hlive, hgo.done⟩
    fun f i => mbxEnd_get _ _ _ f i 0
  rw [hgo.top, liveStacks_congr hlive]

theorem stackRetire_answers : (mbxCommand s rq 0x10 retireStackCheck retireStack).mbx.code = some Code.done := by
  have hmbx := (retireGo_only (mbxTaken s rq 0x10) (s.get MBX_ARG 0)).2 .mbx (by decide)
  rw [stackRetire_begins hready hcheck, mbxEnd_ends (op := 0x10)]
  rw [mbxBusyWith, hmbx, mbxTaken_mbx, opTaken]
  rfl

theorem stackRetire_mems : (mbxCommand s rq 0x10 retireStackCheck retireStack).mems = s.mems := by
  have hgo := (retireGo_only (mbxTaken s rq 0x10) (s.get MBX_ARG 0)).2 .mems (by decide)
  have htaken := (mbxTaken_only s rq 0x10).2 .mems (by decide)
  rw [stackRetire_begins hready hcheck]
  exact ((mbxEnd_keeps (m := 17179869184) (by decide) _ _ _ (Keeps.refl _ _)).2 .mems (by decide)).trans (hgo.trans htaken)

end

/-! ## STRIPE_MAP_SWITCH (R207, R208) -/

theorem withMove_rdReg (s : State) (x : Move) (o : Nat) : rdReg { s with move := x } o = rdReg s o := rdReg_congr rfl rfl o

/-- A move with its new map in force, at the first unit that changes its place. -/
def moveBegun (s : State) (old : List Nat) (p : Nat × Nat) : Move :=
  { s.move with on := true, old := old, bucket := p.1, row := p.2, paceAt := nowNs s, allow := 0 }

/-- The state with the new map stored, every entry of it. -/
def mapStored (s : State) : State :=
  stripesPut ((List.range 4096).zip (newMap (liveStacks s) (s.get MEM_STATUS.MOVE_STACK) (stripeList s))) s

theorem mapSwitch_eq {s : State} (hm : s.bit MEM_STATUS.MOVING = true) (ho : s.move.on = false) :
    ∃ p, mapSwitch s = { mapStored s with move := moveBegun (mapStored s) (stripeList s) p } := by
  unfold mapSwitch mapStored stripesPut putStripe
  rw [if_pos ⟨hm, by rw [ho]; rfl⟩]
  dsimp only
  generalize (List.range 4096).zip _ = l
  generalize forEach l _ s = u
  split
  · next p _ => exact ⟨p, rfl⟩
  · exact ⟨(0, 0), rfl⟩

/-- Every entry of the new map stands. -/
theorem mapStored_stripeOf {s : State} (hb : s.behaveReset = []) {new : List Nat}
    (hn : newMap (liveStacks s) (s.get MEM_STATUS.MOVE_STACK) (stripeList s) = new) {b : Nat} (h : b < 4096) :
    stripeOf (mapStored s) b = if new.getD b 16 = 16 then none else some (new.getD b 16) := by
  have hlen : new.length = 4096 := hn ▸ newMap_length s _ _
  have hle : ∀ e ∈ new, e ≤ 16 := hn ▸ newMap_le s _
  have hkeys : ((List.range 4096).zip new).map (·.1) = List.range 4096 :=
    List.map_fst_zip (by rw [List.length_range, hlen])
  have hnodup : (((List.range 4096).zip new).map (·.1)).Nodup := by rw [hkeys]; exact List.nodup_range
  have hlisted : (b, new.getD b 16) ∈ (List.range 4096).zip new := by
    rw [List.getD_eq_getElem _ _ (hlen ▸ h)]
    exact List.mem_iff_getElem.2 ⟨b, by rw [List.length_zip, List.length_range, hlen, Nat.min_self]; exact h, by
      rw [List.getElem_zip, List.getElem_range]⟩
  unfold mapStored
  rw [hn]
  exact stripesPut_listed hnodup (fun p hp => hle _ (List.of_mem_zip hp).2) hlisted s hb

theorem mapSwitch_only (s : State) : Keeps 68719476740 s (mapSwitch s) := mapSwitch_keeps (by decide) s (Keeps.refl _ s)

theorem exec_stripeMapSwitch (s : State) : exec .stripeMapSwitch s = .next (mapSwitch s) := rfl

/-! ## STACK_MOVE_UNIT_COPY (R209 to R212) -/

theorem nextUnit_congr {s t : State} (ho : t.move.old = s.move.old) (hs : ∀ b < 4096, stripeOf t b = stripeOf s b)
    (live sv : List Nat) (k b r : Nat) : nextUnit t live sv k b r = nextUnit s live sv k b r := by
  induction k generalizing b r with
  | zero => rfl
  | succ k ih =>
    rw [nextUnit, nextUnit]
    by_cases hb : 4096 ≤ b
    · rw [if_pos hb, if_pos hb]
    · rw [if_neg hb, if_neg hb, ho, hs b (Nat.lt_of_not_le hb), ih]

/-- The errors that the read of a unit finds, before its poison. -/
def copyErrs (s : State) (m a : Nat) (ces : List Nat) (ue : Bool) : State :=
  let u := forEach ces (fun s g => channelCe s m (a + g % 16 * 64)) s
  if ue then channelUe u m a else u

theorem copyUnit_eq (s : State) (m a : Nat) (ces : List Nat) (ue : Bool) : copyUnit s m a ces ue =
    let u := copyErrs s m a ces ue
    if ue ∨ u.get MEMCH_STATUS.STATE m = Fn.faulted then
      { u with mems := { u.mems with pDev := poisonWrite u.mems.pDev a 1024 true } }
    else u := rfl

section
variable (s : State) (m a : Nat) (ces : List Nat) (ue : Bool)

theorem copyErrs_regsBut : regsBut (errRegs m) s (copyErrs s m a ces ue) := by
  have hces := regsBut_forEach (l := errRegs m) (f := fun s g => channelCe s m (a + g % 16 * 64)) (as := ces)
    (fun t _ _ => channelCe_regsBut t m _) s
  unfold copyErrs
  dsimp only
  split
  · exact regsBut_trans hces (channelUe_regsBut _ m a)
  · exact hces

theorem copyErrs_dev : (copyErrs s m a ces ue).mems.dev = s.mems.dev := by
  have hces := forEach_same (fun t => t.mems.dev) (f := fun s g => channelCe s m (a + g % 16 * 64))
    (fun t _ => congrArg Mems.dev ((channelCe_only t m _).2 .mems (by decide))) ces s
  unfold copyErrs
  dsimp only
  split
  · exact (channelUe_dev _ m a).trans hces
  · exact hces

theorem copyUnit_only : Keeps 34359739396 s (copyUnit s m a ces ue) :=
  copyUnit_keeps (by decide) s m a ces ue (Keeps.refl _ s)

theorem copyUnit_regsBut : regsBut (errRegs m) s (copyUnit s m a ces ue) := by
  intro o ho
  rw [copyUnit_eq]
  dsimp only
  split
  · exact (withMems_rdReg _ _ o).trans (copyErrs_regsBut s m a ces ue o ho)
  · exact copyErrs_regsBut s m a ces ue o ho

theorem copyUnit_dev : (copyUnit s m a ces ue).mems.dev = s.mems.dev := by
  rw [copyUnit_eq]
  dsimp only
  split <;> exact copyErrs_dev s m a ces ue

/-- A unit read with an uncorrectable error, or from a stack that has failed, is poisoned. -/
theorem copyUnit_poisons (hm : m < 16) (h : ue = true ∨ s.get MEMCH_STATUS.STATE m = Fn.faulted) {g : Nat}
    (hg : g ∈ granules a 1024) : mapGet clean0 (copyUnit s m a ces ue).mems.pDev g = true := by
  have hstate : (copyErrs s m a ces ue).get MEMCH_STATUS.STATE m = s.get MEMCH_STATUS.STATE m :=
    get_of_regsBut (copyErrs_regsBut s m a ces ue) _ _ _
      (not_mem_errRegs hm (by simp only [Fld.addr]; omega) (by simp only [Fld.addr]; omega))
  rw [copyUnit_eq]
  dsimp only
  rw [if_pos (by rw [hstate]; exact h)]
  exact poisonWrite_marks _ hg

end

/-- The unit that is copied next. -/
abbrev unitAt (s : State) : Nat := (s.move.row * 4096 + s.move.bucket) * 1024

/-- The pace counted up to now. -/
def unitPaced (s : State) : State := { s with move := { s.move with paceAt := nowNs s, allow := moveAllow s - 1024 } }

/-- The unit read at its old place. -/
def unitRead (s : State) (ces : List Nat) (ue : Bool) : State :=
  copyUnit (raiseMem (unitPaced s) 28 (unitAt s) 1024) (s.get MEM_STATUS.MOVE_STACK) (unitAt s) ces ue

/-- The row behind the place of the move passed. -/
def rowPassed (s : State) : State := { s with move := { s.move with row := s.move.row + 1 } }

/-- The unit copied and counted, before the next one is looked for. -/
def unitCopied (s : State) (ces : List Nat) (ue : Bool) : State :=
  (raiseMem (rowPassed (unitRead s ces ue)) 28 (unitAt s) 1024).bump MEM_MOVE_DONE

theorem unitCopy_copies {s : State} (hs : s.sound) (hm : s.bit MEM_STATUS.MOVING = true) (ho : s.move.on = true)
    (ha : 1024 ≤ moveAllow s) (ces : List Nat) (ue : Bool) : unitCopy s ces ue = moveOn (unitCopied s ces ue) := by
  have hstack : (unitPaced s).get MEM_STATUS.MOVE_STACK = s.get MEM_STATUS.MOVE_STACK := withMove_get s _ _ 0 0
  have hraise : (raiseMem (unitPaced s) 28 (unitAt s) 1024).get MEM_STATUS.MOVE_STACK = s.get MEM_STATUS.MOVE_STACK :=
    (get_of_regsBut (raiseMem_regsBut [] (unitPaced s) 28 (unitAt s) 1024 0 false) _ _ _ List.not_mem_nil).trans hstack
  unfold unitCopy
  rw [if_neg (by simp [hm, ho]), if_neg (by simp [hs.2]), if_neg (Nat.not_lt.2 ha)]
  unfold unitCopied unitRead
  rw [← hstack]
  rfl

/-- The registers that the copy of a unit moves. -/
abbrev copyRegs (s : State) : List Nat := MEM_MOVE_DONE.addr :: errRegs (s.get MEM_STATUS.MOVE_STACK)

theorem moveStack_lt (s : State) : s.get MEM_STATUS.MOVE_STACK < 16 := get_lt s MEM_STATUS.MOVE_STACK 0 0

theorem not_mem_copyRegs (s : State) {o : Nat} (hd : o ≠ MEM_MOVE_DONE.addr) (ho : 0x200000 ≤ o)
    (hoff : o % 0x10000 < 8 ∨ 0x14 < o % 0x10000) : o ∉ copyRegs s :=
  fun h => (List.mem_cons.1 h).elim hd (not_mem_errRegs (moveStack_lt s) ho hoff)

section
variable (s : State) (ces : List Nat) (ue : Bool)

theorem unitRead_regsBut : regsBut (errRegs (s.get MEM_STATUS.MOVE_STACK)) s (unitRead s ces ue) := by
  have hpaced : regsBut (errRegs (s.get MEM_STATUS.MOVE_STACK)) s (unitPaced s) := fun o _ => withMove_rdReg s _ o
  exact regsBut_trans (regsBut_trans hpaced (raiseMem_regsBut _ _ 28 (unitAt s) 1024 0 false))
    (copyUnit_regsBut _ _ (unitAt s) ces ue)

/-- The unit is counted in a state that has but its errors counted besides. -/
theorem unitCounted_regsBut : regsBut (errRegs (s.get MEM_STATUS.MOVE_STACK)) s
    (raiseMem (rowPassed (unitRead s ces ue)) 28 (unitAt s) 1024) := by
  have hrow : regsBut (errRegs (s.get MEM_STATUS.MOVE_STACK)) (unitRead s ces ue) (rowPassed (unitRead s ces ue)) :=
    fun o _ => withMove_rdReg _ _ o
  exact regsBut_trans (unitRead_regsBut s ces ue) (regsBut_trans hrow (raiseMem_regsBut _ _ 28 (unitAt s) 1024 0 false))

theorem unitCopied_regsBut : regsBut (copyRegs s) s (unitCopied s ces ue) :=
  regsBut_trans (regsBut_mono (unitCounted_regsBut s ces ue) fun _ h => List.mem_cons_of_mem _ h)
    (set_regsBut_mem _ MEM_MOVE_DONE _ 0 0 List.mem_cons_self)

theorem unitRead_only : Keeps 103079216132 s (unitRead s ces ue) :=
  copyUnit_keeps (by decide) _ _ _ ces ue (raiseMem_keeps (by decide) _ 28 (unitAt s) 1024 0 false
    (upd_move (by decide) _ (Keeps.refl _ s)))

theorem unitCopied_only : Keeps 103079216132 s (unitCopied s ces ue) :=
  State.bump_keeps (by decide) _ _ _ _ _ (raiseMem_keeps (by decide) _ 28 (unitAt s) 1024 0 false
    (upd_move (by decide) _ (unitRead_only s ces ue)))

theorem unitCopied_done (hb : s.behaveReset = []) :
    (unitCopied s ces ue).get MEM_MOVE_DONE = (s.get MEM_MOVE_DONE + 1) % 2 ^ 28 := by
  have hreset : (raiseMem (rowPassed (unitRead s ces ue)) 28 (unitAt s) 1024).behaveReset = [] :=
    ((raiseMem_only ..).2 .behaveReset (by decide)).trans (((unitRead_only s ces ue).2 .behaveReset (by decide)).trans hb)
  rw [unitCopied, State.bump, get_set_self _ _ _ _ _ hreset (by decide), get_of_regsBut (unitCounted_regsBut s ces ue) _ _ _
    (not_mem_errRegs (moveStack_lt s) (by decide) (by decide))]

/-- The place of the move is one row on. -/
theorem unitCopied_move : ∃ pace allow, (unitCopied s ces ue).move =
    { s.move with row := s.move.row + 1, paceAt := pace, allow := allow } := by
  have hread : (unitRead s ces ue).move = (unitPaced s).move :=
    ((copyUnit_only ..).2 .move (by decide)).trans ((raiseMem_only ..).2 .move (by decide))
  have hcopied : (unitCopied s ces ue).move = (rowPassed (unitRead s ces ue)).move :=
    (State.set_move ..).trans ((raiseMem_only ..).2 .move (by decide))
  refine ⟨nowNs s, moveAllow s - 1024, ?_⟩
  rw [hcopied, rowPassed, hread]
  rfl

theorem unitCopied_mems : (unitCopied s ces ue).mems = (unitRead s ces ue).mems :=
  (State.set_mems ..).trans ((raiseMem_only ..).2 .mems (by decide))

theorem unitCopied_dev : (unitCopied s ces ue).mems.dev = s.mems.dev := by
  have hraise : (raiseMem (unitPaced s) 28 (unitAt s) 1024).mems = s.mems := (raiseMem_only ..).2 .mems (by decide)
  rw [unitCopied_mems, unitRead, copyUnit_dev, hraise]

theorem unitCopied_poisons (h : ue = true ∨ s.get MEMCH_STATUS.STATE (s.get MEM_STATUS.MOVE_STACK) = Fn.faulted) {g : Nat}
    (hg : g < 16) : mapGet clean0 (unitCopied s ces ue).mems.pDev (unitAt s / 64 + g) = true := by
  have hstate : (raiseMem (unitPaced s) 28 (unitAt s) 1024).get MEMCH_STATUS.STATE (s.get MEM_STATUS.MOVE_STACK) =
      s.get MEMCH_STATUS.STATE (s.get MEM_STATUS.MOVE_STACK) :=
    (get_of_regsBut (raiseMem_regsBut [] _ 28 (unitAt s) 1024 0 false) _ _ _ List.not_mem_nil).trans (withMove_get s _ _ _ 0)
  rw [unitCopied_mems]
  exact copyUnit_poisons _ _ _ ces ue (moveStack_lt s) (by rw [hstate]; exact h)
    (mem_granules.2 ⟨by decide, Nat.le_add_right .., by unfold unitAt; omega⟩)

/-- The status of memory is as before the copy. -/
theorem unitCopied_status {f : Fld} (hf : f.addr = MEM_STATUS.W.addr) : (unitCopied s ces ue).get f = s.get f :=
  get_of_regsBut (unitCopied_regsBut s ces ue) f 0 0
    (hf ▸ not_mem_copyRegs s (by decide) (by decide) (by decide))

/-- The next unit is looked for in the map as it was, from the next row on. -/
theorem unitCopied_nextUnit : nextUnit (unitCopied s ces ue) (liveStacks (unitCopied s ces ue)) (survivors (unitCopied s ces ue))
      4097 (unitCopied s ces ue).move.bucket (unitCopied s ces ue).move.row =
    nextUnit s (liveStacks s) (survivors s) 4097 s.move.bucket (s.move.row + 1) := by
  obtain ⟨pace, allow, hmove⟩ := unitCopied_move s ces ue
  have hlive := liveStacks_congr (unitCopied_status s ces ue (f := MEM_STATUS.LIVE) rfl)
  have hsurv : survivors (unitCopied s ces ue) = survivors s := by
    unfold survivors; rw [hlive, unitCopied_status s ces ue (f := MEM_STATUS.MOVE_STACK) rfl]
  have hmap : ∀ b < 4096, stripeOf (unitCopied s ces ue) b = stripeOf s b := fun b hb => stripeOf_congr
    (unitCopied_regsBut s ces ue _ (not_mem_copyRegs s (by simp only [Fld.addr]; omega) (by simp only [Fld.addr]; omega)
      (by simp only [Fld.addr]; omega)))
  rw [hlive, hsurv, nextUnit_congr (by rw [hmove]) hmap, hmove]

end

theorem moveOn_next {s : State} {p : Nat × Nat}
    (h : nextUnit s (liveStacks s) (survivors s) 4097 s.move.bucket s.move.row = some p) :
    moveOn s = { s with move := { s.move with bucket := p.1, row := p.2 } } := by unfold moveOn; rw [h]

theorem moveOn_last {s : State} (h : nextUnit s (liveStacks s) (survivors s) 4097 s.move.bucket s.move.row = none) :
    moveOn s = moveEnd s := by unfold moveOn; rw [h]

/-- The stack of a move that has copied its last unit is RETIRED and no longer live (R211). -/
theorem moveEnd_retires {s : State} (hb : s.behaveReset = []) :
    (moveEnd s).get MEM_STATUS.MOVING = 0 ∧ (moveEnd s).get MEMCH_STATUS.STATE (s.get MEM_STATUS.MOVE_STACK) = Fn.retired ∧
      (moveEnd s).get MEM_STATUS.LIVE = s.get MEM_STATUS.LIVE - 2 ^ s.get MEM_STATUS.MOVE_STACK ∧
      (moveEnd s).move = { quotaDue := true } := by
  have hm := moveStack_lt s
  have hlive : s.get MEM_STATUS.LIVE < 2 ^ 16 := get_lt s MEM_STATUS.LIVE 0 0
  have hrecord (f : Fld) (i : Nat) (u : State) (r : JRec) (hl : 0x200000 ≤ f.addr i) (hh : f.addr i < 0x3100000) :
      (journal u r).get f i = u.get f i :=
    get_of_regsBut (journal_regsBut u r) f i 0 (by simp only [List.mem_cons, List.not_mem_nil, or_false]; omega)
  unfold moveEnd
  dsimp only
  rw [setFnState_channel]
  generalize s.get MEM_STATUS.MOVE_STACK = m at hm ⊢
  refine ⟨?_, ?_, ?_, journal_move ..⟩
  all_goals
    rw [hrecord _ _ _ _ (by simp only [Fld.addr]; omega) (by simp only [Fld.addr]; omega), withMove_get]
    simp (disch := (simp [Fld.addr, hb]; try omega)) only [get_set_apart, get_set_self]
  · rfl
  · rfl
  · exact Nat.mod_eq_of_lt (Nat.lt_of_le_of_lt (Nat.sub_le ..) hlive)

theorem exec_stackMoveUnitCopy (ces : List Nat) (ue : Bool) (s : State) :
    exec (.stackMoveUnitCopy ⟨ces, ue⟩) s = .next (unitCopy s ces ue) := rfl

/-! ## SCRUB_BURST (R212, R215, R223) -/

theorem scrubBurst_idle {s : State} {m : Nat} (h : s.get MEMCH_STATUS.STATE m ≠ Fn.running) (ces ues : List Nat) :
    scrubBurst s m ces ues = s.set MEMCH_STATUS.SCRUB_ACTIVE 0 m := by
  unfold scrubBurst
  rw [if_pos (by simp [scrubs, h])]

/-- Where the burst of a pass lies. -/
abbrev burstAt (m : Nat) (p : Scrub) : Nat := Config.scrubUnit m p.next * 1024 + p.next % 4 * 256

/-- The arbiter of its pseudo-channel. -/
abbrev burstArb (m : Nat) (p : Scrub) : Nat := 64 * m + Config.pseudoChannel (burstAt m p / 1024) (p.next % 4) % 64

/-- The request of a burst raised on a channel that shows its pass. -/
def burstRaised (s : State) (m : Nat) : State :=
  raiseReq (s.set MEMCH_STATUS.SCRUB_ACTIVE 1 m) (burstArb m (scrubAt s m)) 25 8 true

/-- Its errors counted, and located and poisoned. -/
def burstRead (s : State) (m : Nat) (ces ues : List Nat) : State :=
  uesNoted m (fun g => burstAt m (scrubAt s m) + g % 4 * 64) ues (forEach ces (fun s _ => ceCounted s m) (burstRaised s m))

theorem scrubBurst_due {s : State} {m b : Nat} (hs : s.sound) (hr : s.get MEMCH_STATUS.STATE m = Fn.running)
    (hp : (scrubAt s m).since = some b) (hb : b ≤ nowNs s)
    (hd : (scrubAt s m).next * scrubTime s m ≤ (nowNs s - b) * stackBursts) (ces ues : List Nat) :
    scrubBurst s m ces ues = setScrub (burstRead s m ces ues) m ((scrubAt s m).step (scrubTime s m)) := by
  have hpaced : ¬((nowNs s - b) * stackBursts < (scrubAt s m).next * scrubTime s m ∨ nowNs s < b) := by omega
  unfold scrubBurst
  rw [if_neg (by simp [scrubs, hr, hs.2])]
  dsimp only
  rw [hp, Option.getD_some, nowNs, State.set_clk, ← nowNs, if_neg hpaced]
  rfl

section
variable (s : State) (m : Nat) (ces ues : List Nat)

theorem burstRaised_only : Keeps 34359738372 s (burstRaised s m) :=
  raiseReq_keeps (by decide) _ _ _ _ _ _ (State.set_keeps (by decide) _ _ _ _ _ (Keeps.refl _ s))

theorem burstRaised_get (f : Fld) (i : Nat) : (burstRaised s m).get f i = (s.set MEMCH_STATUS.SCRUB_ACTIVE 1 m).get f i := by
  have hraise : Keeps 34359738368 (s.set MEMCH_STATUS.SCRUB_ACTIVE 1 m) (burstRaised s m) :=
    raiseReq_keeps (by decide) _ _ _ _ _ _ (Keeps.refl _ _)
  exact get_congr (hraise.2 .regs (by decide)) (hraise.2 .behaveReset (by decide)) f i 0

theorem cesCounted_only (u : State) : Keeps 4 u (forEach ces (fun s _ => ceCounted s m) u) :=
  forEach_keeps (by decide) _ _ _ (fun _ _ h => State.bumpSat_keeps (by decide) _ _ _ _ _
    (State.bumpSat_keeps (by decide) _ _ _ _ _ h)) (Keeps.refl _ u)

theorem cesCounted_get_ueCount (hm : m < 16) (u : State) :
    (forEach ces (fun s _ => ceCounted s m) u).get MEMCH_UE_COUNT m = u.get MEMCH_UE_COUNT m :=
  forEach_same (fun t => t.get MEMCH_UE_COUNT m) (fun t _ => by
    rw [ceCounted, State.bumpSat, get_set_reg _ _ _ _ _ _ _ _ (by simp only [Fld.addr]; omega), State.bumpSat,
      get_set_reg _ _ _ _ _ _ _ _ (by simp only [Fld.addr]; omega)]) ces u

theorem burstRead_only : Keeps 34359739396 s (burstRead s m ces ues) :=
  forEach_keeps (by decide) _ _ _ (fun t _ h => channelUe_keeps (by decide) t m _ h)
    (forEach_keeps (by decide) _ _ _ (fun _ _ h => State.bumpSat_keeps (by decide) _ _ _ _ _
      (State.bumpSat_keeps (by decide) _ _ _ _ _ h))
      (raiseReq_keeps (by decide) _ _ _ _ _ _ (State.set_keeps (by decide) _ _ _ _ _ (Keeps.refl _ s))))

theorem burstRead_regsBut : regsBut (errRegs m) (burstRaised s m) (burstRead s m ces ues) :=
  regsBut_trans (regsBut_forEach (fun t _ _ => ceCounted_regsBut t m) _) (uesNoted_regsBut m _ ues _)

theorem burstRead_active (hb : s.behaveReset = []) (hm : m < 16) :
    (burstRead s m ces ues).get MEMCH_STATUS.SCRUB_ACTIVE m = 1 := by
  rw [get_of_regsBut (burstRead_regsBut s m ces ues) _ _ _
    (not_mem_errRegs hm (by simp only [Fld.addr]; omega) (by simp only [Fld.addr]; omega)), burstRaised_get,
    get_set_self _ _ _ _ _ hb (by decide)]
  rfl

theorem burstRead_ueCount (hb : s.behaveReset = []) (hm : m < 16) :
    (burstRead s m ces ues).get MEMCH_UE_COUNT m = min (s.get MEMCH_UE_COUNT m + ues.length) (2 ^ 32 - 1) := by
  have hreset := ((cesCounted_only m ces _).2 .behaveReset (by decide)).trans
    (((burstRaised_only s m).2 .behaveReset (by decide)).trans hb)
  rw [burstRead, uesNoted_count _ _ _ _ hreset, cesCounted_get_ueCount m ces hm, burstRaised_get,
    get_set_reg _ _ _ _ _ _ _ _ (by simp only [Fld.addr]; omega)]

theorem raiseReq_queue (k r core : Nat) {beats : Nat} (h : beats ≠ 0) (lock : Bool) :
    (arbAt (raiseReq s k r beats lock core) k).queue r =
      (arbAt s k).queue r ++ [{ core := core, stamp := nowN s, beats := beats, lock := lock }] := by
  unfold raiseReq
  dsimp only
  rw [if_neg h, arbAt_setArb, Arb.queue_setQueue]

theorem burstRead_queue : (arbAt (burstRead s m ces ues) (burstArb m (scrubAt s m))).queue 25 =
    (arbAt s (burstArb m (scrubAt s m))).queue 25 ++ [{ stamp := nowN s, beats := 8, lock := true }] := by
  have harbs : (burstRead s m ces ues).arbs = (burstRaised s m).arbs :=
    ((uesNoted_only m _ ues _).2 .arbs (by decide)).trans ((cesCounted_only m ces _).2 .arbs (by decide))
  rw [arbAt_congr harbs, burstRaised, raiseReq_queue _ _ _ _ (by decide), arbAt_congr (State.set_arbs ..), nowN, State.set_clk]
  rfl

theorem burstRead_dev : (burstRead s m ces ues).mems.dev = s.mems.dev := by
  have hces := (cesCounted_only m ces (burstRaised s m)).2 .mems (by decide)
  have hraised := (burstRaised_only s m).2 .mems (by decide)
  exact (uesNoted_dev ..).trans (congrArg Mems.dev (hces.trans hraised))

theorem burstRead_poisons {g : Nat} (hg : g ∈ ues) :
    mapGet clean0 (burstRead s m ces ues).mems.pDev ((burstAt m (scrubAt s m) + g % 4 * 64) / 64) = true := by
  rw [burstRead, uesNoted_marked, List.elem_eq_mem, decide_eq_true (List.mem_map_of_mem hg), Bool.true_or]

end

theorem setScrub_get (s : State) (m : Nat) (p : Scrub) (f : Fld) (i : Nat) : (setScrub s m p).get f i =
    (s.set MEMCH_SCRUB_PROGRESS (p.next * 1000 / stackBursts) m).get f i := get_congr rfl rfl f i 0

/-- A pass with its start is shown as it is stored. -/
theorem scrubAt_setScrub (s : State) (m : Nat) {p : Scrub} {b : Nat} (hp : p.since = some b) :
    scrubAt (setScrub s m p) m = p := by
  unfold scrubAt
  rw [show (setScrub s m p).scrub = mapPut (fun _ => {}) s.scrub m p from rfl, mapGet_put_self]
  cases p; cases hp; rfl

/-- A pass that has begun goes on with its start, or with that of its successor. -/
theorem Scrub.step_since {p : Scrub} {b : Nat} (hp : p.since = some b) (time : Nat) : ∃ c, (p.step time).since = some c := by
  unfold Scrub.step
  split
  · exact ⟨b, hp⟩
  · exact ⟨b + time, by rw [hp]; rfl⟩

theorem setScrub_progress (s : State) (m : Nat) (p : Scrub) (hb : s.behaveReset = []) :
    (setScrub s m p).get MEMCH_SCRUB_PROGRESS m = p.next * 1000 / stackBursts % 2 ^ 10 := by
  rw [setScrub_get, get_set_self _ _ _ _ _ hb (by decide)]

theorem exec_scrubBurst {m : Nat} (hm : m < 16) (ces ues : List Nat) (s : State) :
    exec (.scrubBurst m ces ues) s = .next (scrubBurst s m ces ues) := congrArg Host.Outcome.next (if_pos hm)

/-! ## MEMCH_START and SCRUB_RESTART (R223) -/

theorem memchStart_starts {s : State} {m : Nat} (hs : s.sound) (hd : domOn s (144 + m) = true)
    (hl : (s.get MEM_STATUS.LIVE).testBit m = true) (hf : s.get MEMCH_STATUS.STATE m = Fn.stopped) :
    (memchStart s m).get MEMCH_STATUS.STATE m = Fn.running := by
  have hstart : memchStart s m =
      (setFnCode s (MEMCH_STATUS.STATE.addr m) Code.done).set MEMCH_STATUS.STATE Fn.running m := by
    unfold memchStart
    rw [startInDomain_on hd, if_pos hl, startFn_stopped _ _ _ hs.2 hf]
    rfl
  rw [hstart, get_set_self _ _ _ _ _ (by rw [setFnCode_eq, State.set_behaveReset]; exact hs.1) (by decide)]
  rfl

theorem scrubRestart_restarts {s : State} {m : Nat} (hd : domOn s (144 + m) = true) :
    scrubRestart s m = setScrub s m { since := some (nowNs s) } := startInDomain_on hd

theorem exec_memchStart {m : Nat} (hm : m < 16) (s : State) : exec (.memchStart m) s = .next (memchStart s m) :=
  congrArg Host.Outcome.next (if_pos hm)

theorem exec_scrubRestart {m : Nat} (hm : m < 16) (s : State) : exec (.scrubRestart m) s = .next (scrubRestart s m) :=
  congrArg Host.Outcome.next (if_pos hm)

/-! ## The statement -/

/-- Settles O23: a retirement shows what its beginning writes; the new map is stored entry by entry; the copy of a unit and a
burst (placed freely, log 240) leave all but what they count, poison and step on; a start and a restart are single writes. -/
theorem stackRetirement : Obligations.StackRetirement := by
  refine ⟨fun s rq hready hcheck => ?_, fun s hs hm ho => ?_, fun s ces ue hs hm ho ha => ?_, fun s m ces ues hs hm =>
    ⟨fun hr => ?_, fun b hr hp hb hd => ?_⟩, fun s m hs hm hd => ⟨fun hl hf => ?_, ?_⟩⟩
  · have h := stackRetire_leaving hready hcheck
    exact acts_of_exec (exec_stackRetire rq s) ⟨h.top, h.state, h.scrub, h.moving, h.stack, h.live, h.done,
      stackRetire_answers hready hcheck, stackRetire_mems hready hcheck⟩
  · obtain ⟨p, hswitch⟩ := mapSwitch_eq hm ho
    refine acts_of_exec (exec_stripeMapSwitch s) ⟨?_, ?_, (mapSwitch_only s).2 .mems (by decide), fun b hb => ?_⟩
    · rw [hswitch]; rfl
    · rw [hswitch]; dsimp only [moveBegun]
    · rw [hswitch, stripeOf_congr (withMove_rdReg ..)]
      exact mapStored_stripeOf hs.1 rfl hb
  · have hnext := unitCopied_nextUnit s ces ue
    have hreset := ((unitCopied_only s ces ue).2 .behaveReset (by decide)).trans hs.1
    have hcopy := unitCopy_copies hs hm ho ha ces ue
    have hstack := unitCopied_status s ces ue (f := MEM_STATUS.MOVE_STACK) rfl
    dsimp only
    split
    · next p hp =>
      refine acts_of_exec (exec_stackMoveUnitCopy ces ue s) ?_
      rw [hcopy, moveOn_next (hnext.trans hp)]
      refine ⟨?_, rfl, rfl, ?_, unitCopied_dev s ces ue, fun h g hg => unitCopied_poisons s ces ue h hg⟩
      · rw [withMove_get, unitCopied_done s ces ue hs.1]
      · rw [withMove_get, unitCopied_status s ces ue (f := MEM_STATUS.MOVING) rfl]
        exact (bit_iff s _ 0 0 rfl).1 hm
    · next hp =>
      have hend := moveEnd_retires hreset
      rw [hstack, unitCopied_status s ces ue (f := MEM_STATUS.LIVE) rfl] at hend
      refine acts_of_exec (exec_stackMoveUnitCopy ces ue s) ?_
      rw [hcopy, moveOn_last (hnext.trans hp)]
      exact hend
  · refine acts_of_exec (exec_scrubBurst hm ces ues s) ?_
    rw [scrubBurst_idle hr]
    exact ⟨get_set_self _ _ _ _ _ hs.1 (by decide), State.set_scrub .., State.set_mems ..⟩
  · obtain ⟨c, hc⟩ := Scrub.step_since hp (scrubTime s m)
    have hreset := ((burstRead_only s m ces ues).2 .behaveReset (by decide)).trans hs.1
    have hbeside (f : Fld) (hf : f.addr m ≠ MEMCH_SCRUB_PROGRESS.addr m) :
        (setScrub (burstRead s m ces ues) m ((scrubAt s m).step (scrubTime s m))).get f m = (burstRead s m ces ues).get f m :=
      (setScrub_get ..).trans (get_set_reg _ _ _ _ _ _ _ _ hf)
    refine acts_of_exec (exec_scrubBurst hm ces ues s) ?_
    rw [scrubBurst_due hs hr hp hb hd]
    refine ⟨?_, scrubAt_setScrub _ m hc, setScrub_progress _ m _ hreset, burstRead_queue s m ces ues, ?_,
      fun g hg => burstRead_poisons s m ces ues hg, burstRead_dev s m ces ues⟩
    · rw [hbeside _ (by simp only [Fld.addr]; omega), burstRead_active s m ces ues hs.1 hm]
    · rw [hbeside _ (by simp only [Fld.addr]; omega), burstRead_ueCount s m ces ues hs.1 hm]
  · exact acts_of_exec (exec_memchStart hm s) (memchStart_starts hs hd hl hf)
  · refine acts_of_exec (exec_scrubRestart hm s) ?_
    rw [scrubRestart_restarts hd]
    refine ⟨?_, scrubAt_setScrub s m rfl⟩
    rw [setScrub_progress _ _ _ hs.1]
    simp only [Nat.zero_mul, Nat.zero_div, Nat.zero_mod]

end Sys2Proof.Machine
end

section
/-! PROOFS. The host interface, its function sets and its windows (09_contexts_tenants.md R237, R240, R247, R443; 15_vigil.md
R380). -/

namespace Sys2Proof.Machine

/-! ## Function states as fields of their registers (R247, R443) -/

theorem setFnState_hostFn (s : State) (f v : Nat) : setFnState s (hostFn f) v = s.set HOST_FN_STATUS.STATE v f := rfl

/-- The status register of a function set is not another's. -/
theorem hostFn_ne {f g : Nat} (h : g ≠ f) : HOST_FN_STATUS.STATE.addr g ≠ HOST_FN_STATUS.STATE.addr f := by
  simp only [Fld.addr]; omega

/-- The status register of a function set is not the host interface's. -/
theorem hostFn_ne_hostIf (f : Nat) : HOST_FN_STATUS.STATE.addr f ≠ HOST_STATUS.STATE.addr := by
  simp only [Fld.addr]; omega

/-- A passed START leaves the function RUNNING with DONE. -/
theorem startFn_passes {s : State} {o : Nat} (hs : s.sound) (h : fnState s o = Fn.stopped) :
    fnState (startFn s o none) o = Fn.running ∧ (startFn s o none).get (codeFld o) = Code.done := by
  have hcode := get_set_self s (codeFld o) Code.done 0 0 hs.1 (by decide : 24 + 8 ≤ 32)
  have hb : (s.set (codeFld o) Code.done).behaveReset = [] := (State.set_behaveReset ..).trans hs.1
  rw [startFn_stopped s o _ hs.2 h, setFnState_eq, setFnCode_eq, fnState_eq]
  exact ⟨get_set_self _ (stateFld o) _ 0 0 hb (by decide : 0 + 3 ≤ 32),
    (get_set_beside _ (stateFld o) (codeFld o) _ 0 0 0 0 hb rfl (by decide : 0 + 3 ≤ 32) (.inl (by decide : 0 + 3 ≤ 24))).trans
      hcode⟩

/-- A START that a check refuses leaves it FAULTED with the check's code. -/
theorem startFn_refused {s : State} {o c : Nat} (hs : s.sound) (h : fnState s o = Fn.stopped) (hc : c < 2 ^ 8) :
    fnState (startFn s o (some c)) o = Fn.faulted ∧ (startFn s o (some c)).get (codeFld o) = c := by
  have hcode := get_set_self s (codeFld o) c 0 0 hs.1 (by decide : 24 + 8 ≤ 32)
  have hb : (s.set (codeFld o) c).behaveReset = [] := (State.set_behaveReset ..).trans hs.1
  rw [startFn_stopped s o _ hs.2 h]
  dsimp only
  rw [faultFn_eq, fnState_eq]
  refine ⟨get_set_self _ (stateFld o) _ 0 0 hb (by decide : 0 + 3 ≤ 32), ?_⟩
  rw [get_set_beside _ (stateFld o) (codeFld o) _ 0 0 0 0 hb rfl (by decide : 0 + 3 ≤ 32) (.inl (by decide : 0 + 3 ≤ 24)), hcode]
  exact Nat.mod_eq_of_lt hc

/-! ## START of the interface and of a function set -/

theorem exec_hostStart (s : State) : exec .hostStart s = .next (hostStart s) := rfl

theorem hostStart_starts {s : State} (hs : s.sound) (hd : domOn s 197 = true) (h : s.get HOST_STATUS.STATE = Fn.stopped) :
    (hostStart s).get HOST_STATUS.STATE = Fn.running ∧ (hostStart s).get HOST_STATUS.FAULT_CODE = Code.done := by
  rw [hostStart, startInDomain_on hd]
  exact startFn_passes hs h

theorem exec_fnStart {f : Nat} (hf : f ≤ 256) (s : State) : exec (.fnStart f) s = .next (fnStart s f) :=
  congrArg Host.Outcome.next (if_pos hf)

/-- A ring size that a function set may start with (R247). -/
abbrev ringFits (k : Nat) : Prop := 4 ≤ k ∧ k ≤ 12

/-- The ring sizes of a function set fit. -/
abbrev ringsFit (s : State) (f : Nat) : Prop :=
  ringFits (s.get HOST_FN_RING_SIZE.SUB f) ∧ ringFits (s.get HOST_FN_RING_SIZE.RES f) ∧ ringFits (s.get HOST_FN_RING_SIZE.CPL f)

/-- START of a function set that is present checks the three ring sizes. -/
theorem fnStart_eq {s : State} {f : Nat} (hd : domOn s 197 = true) (hh : fnHere s f = true) : fnStart s f =
    startFn s (hostFn f) (if ringsFit s f then none else some Code.badArgument) := by
  unfold fnStart
  rw [startInDomain_on hd, if_pos hh]
  congr 1
  by_cases h : ringsFit s f
  · rw [if_pos h, if_neg]
    simp only [List.any_cons, List.any_nil, Bool.or_false, Bool.or_eq_true, decide_eq_true_eq]
    omega
  · rw [if_neg h, if_pos]
    simp only [List.any_cons, List.any_nil, Bool.or_false, Bool.or_eq_true, decide_eq_true_eq]
    omega

/-! ## What a STOP settles (R443) -/

/-- A function set has no job and no record waits for it. -/
def fnIdle (s : State) (f : Nat) : Prop :=
  (∀ g ∈ mapKeys s.groups, (groupAt s g).fn = f → (groupAt s g).job = none ∧ (groupAt s g).waiting = []) ∧
    (fnAt s f).resWait = [] ∧ (fnAt s f).cplWait = []

/-- A group of a function set has a job, in progress or waiting. -/
def fnHasJobs (s : State) (f : Nat) : Bool :=
  (mapKeys s.groups).any (fun g => (groupAt s g).fn == f && ((groupAt s g).job.isSome || !(groupAt s g).waiting.isEmpty))

/-- A STOPPING function set that has nothing left to do is STOPPED. -/
def fnSettled (s : State) (f : Nat) : State :=
  if fnState s (hostFn f) = Fn.stopping ∧ (fnAt s f).flr = 0 ∧ !fnHasJobs s f ∧ (fnAt s f).resWait.isEmpty ∧ (fnAt s f).cplWait.isEmpty then
    setFnState s (hostFn f) Fn.stopped
  else s

/-- The STOPPING interface is STOPPED once every function set is. -/
def hostSettled (s : State) : State :=
  if s.get HOST_STATUS.STATE = Fn.stopping ∧
      (List.range 257).all (fun g => let st := fnState s (hostFn g); st == Fn.stopped || st == Fn.absent) then
    s.set HOST_STATUS.STATE Fn.stopped
  else s

theorem settleStop_eq (s : State) (f : Nat) : settleStop s f = hostSettled (fnSettled s f) := rfl

theorem settleStop_only (s : State) (f : Nat) : Keeps 4 s (settleStop s f) := settleStop_keeps (by decide) s f (Keeps.refl _ s)

theorem hostSettled_regsBut (s : State) : regsBut [HOST_STATUS.STATE.addr] s (hostSettled s) := by
  unfold hostSettled
  split
  · exact set_regsBut _ _ _ _ _
  · exact fun _ _ => rfl

theorem fnSettled_regsBut (s : State) (f : Nat) : regsBut [HOST_FN_STATUS.STATE.addr f] s (fnSettled s f) := by
  unfold fnSettled
  split
  · exact set_regsBut _ _ _ _ _
  · exact fun _ _ => rfl

theorem settleStop_regsBut (s : State) (f : Nat) :
    regsBut [HOST_FN_STATUS.STATE.addr f, HOST_STATUS.STATE.addr] s (settleStop s f) := by
  rw [settleStop_eq]
  exact regsBut_trans (regsBut_mono (fnSettled_regsBut s f) (by simp)) (regsBut_mono (hostSettled_regsBut _) (by simp))

/-- The state of a function set is what its own settling makes it. -/
theorem settleStop_fn (s : State) (f g : Nat) :
    (settleStop s f).get HOST_FN_STATUS.STATE g = (fnSettled s f).get HOST_FN_STATUS.STATE g :=
  get_of_regsBut (hostSettled_regsBut _) _ _ _ (by simpa using hostFn_ne_hostIf g)

theorem settleStop_other (s : State) {f g : Nat} (h : g ≠ f) :
    (settleStop s f).get HOST_FN_STATUS.STATE g = s.get HOST_FN_STATUS.STATE g :=
  (settleStop_fn s f g).trans (get_of_regsBut (fnSettled_regsBut s f) _ _ _ (by simpa using hostFn_ne h))

/-- One that is not STOPPING stays as it is. -/
theorem settleStop_still {s : State} {f : Nat} (h : s.get HOST_FN_STATUS.STATE f ≠ Fn.stopping) :
    (settleStop s f).get HOST_FN_STATUS.STATE f = s.get HOST_FN_STATUS.STATE f := by
  rw [settleStop_fn, fnSettled, if_neg fun h' => h h'.1]

section
variable {s : State} {f : Nat} (hst : s.get HOST_FN_STATUS.STATE f = Fn.stopping)
include hst

theorem settleStop_stops (hb : s.behaveReset = []) (hflr : (fnAt s f).flr = 0) (hi : fnIdle s f) :
    (settleStop s f).get HOST_FN_STATUS.STATE f = Fn.stopped := by
  obtain ⟨hjobs, hres, hcpl⟩ := hi
  rw [settleStop_fn, fnSettled, if_pos]
  · exact get_set_self s HOST_FN_STATUS.STATE _ _ _ hb (by decide)
  · refine ⟨hst, hflr, ?_, by rw [hres]; rfl, by rw [hcpl]; rfl⟩
    rw [Bool.not_eq_true', fnHasJobs, List.any_eq_false]
    intro g hg hbusy
    rw [Bool.and_eq_true, beq_iff_eq] at hbusy
    obtain ⟨hjob, hwait⟩ := hjobs g hg hbusy.1
    simp [hjob, hwait] at hbusy

theorem settleStop_waits (hi : ¬fnIdle s f) : (settleStop s f).get HOST_FN_STATUS.STATE f = Fn.stopping := by
  rw [settleStop_fn, fnSettled, if_neg]
  · exact hst
  · rintro ⟨-, -, hjobs, hres, hcpl⟩
    refine hi ⟨fun g hg hfn => ?_, List.isEmpty_iff.1 hres, List.isEmpty_iff.1 hcpl⟩
    rw [Bool.not_eq_true', fnHasJobs, List.any_eq_false] at hjobs
    simpa [hfn] using hjobs g hg

end

/-- The interface stays as it is, or goes from STOPPING to STOPPED. -/
theorem settleStop_host {s : State} (f : Nat) (hb : s.behaveReset = [])
    (h : s.get HOST_STATUS.STATE = Fn.stopping ∨ s.get HOST_STATUS.STATE = Fn.stopped) :
    (settleStop s f).get HOST_STATUS.STATE = Fn.stopping ∨ (settleStop s f).get HOST_STATUS.STATE = Fn.stopped := by
  have hfn : (fnSettled s f).get HOST_STATUS.STATE = s.get HOST_STATUS.STATE :=
    get_of_regsBut (fnSettled_regsBut s f) _ _ _ (by simpa using (hostFn_ne_hostIf f).symm)
  have hb' : (fnSettled s f).behaveReset = [] := by
    unfold fnSettled
    split
    · exact (setFnState_behaveReset ..).trans hb
    · exact hb
  rw [settleStop_eq, hostSettled]
  split
  · exact .inr (get_set_self _ HOST_STATUS.STATE _ 0 0 hb' (by decide))
  · rwa [hfn]

/-! ## STOP of a function set and of the interface (R443) -/

theorem exec_fnStop {f : Nat} (hf : f ≤ 256) (s : State) : exec (.fnStop f) s = .next (fnStop s f) :=
  congrArg Host.Outcome.next (if_pos hf)

theorem fnStop_running {s : State} {f : Nat} (h : s.get HOST_FN_STATUS.STATE f = Fn.running) :
    fnStop s f = settleStop (s.set HOST_FN_STATUS.STATE Fn.stopping f) f := if_pos h

theorem fnStop_faulted {s : State} {f : Nat} (h : s.get HOST_FN_STATUS.STATE f = Fn.faulted) (hflr : (fnAt s f).flr = 0) :
    fnStop s f = settleStop (s.set HOST_FN_STATUS.STATE Fn.stopped f) f := by
  have hf : fnState s (hostFn f) = Fn.faulted := h
  unfold fnStop
  dsimp only
  rw [if_neg (by rw [hf]; decide), if_pos ⟨hf, hflr⟩, setFnState_hostFn]

/-- A STOP does nothing, or sets STOPPING or STOPPED and settles. -/
theorem fnStop_cases (s : State) (f : Nat) : (fnStop s f = s ∧ s.get HOST_FN_STATUS.STATE f ≠ Fn.running) ∨
    ∃ v, (v = Fn.stopping ∨ v = Fn.stopped) ∧ fnStop s f = settleStop (s.set HOST_FN_STATUS.STATE v f) f := by
  by_cases hr : s.get HOST_FN_STATUS.STATE f = Fn.running
  · exact .inr ⟨_, .inl rfl, fnStop_running hr⟩
  · by_cases hf : s.get HOST_FN_STATUS.STATE f = Fn.faulted ∧ (fnAt s f).flr = 0
    · exact .inr ⟨_, .inr rfl, fnStop_faulted hf.1 hf.2⟩
    · exact .inl ⟨(if_neg hr).trans (if_neg hf), hr⟩

theorem fnIdle_set (s : State) (f : Nat) (v : Nat) : fnIdle (s.set HOST_FN_STATUS.STATE v f) f ↔ fnIdle s f := by
  unfold fnIdle
  simp only [groupAt_congr (State.set_groups ..), fnAt_congr (State.set_fns ..), State.set_groups]

theorem fnStop_other (s : State) {f g : Nat} (h : g ≠ f) :
    (fnStop s f).get HOST_FN_STATUS.STATE g = s.get HOST_FN_STATUS.STATE g := by
  rcases fnStop_cases s f with ⟨h', -⟩ | ⟨v, -, h'⟩
  · rw [h']
  · rw [h', settleStop_other _ h, get_set_reg _ _ _ _ _ _ _ _ (hostFn_ne h)]

section
variable {s : State} (hb : s.behaveReset = [])
include hb

theorem fnStop_leaves (f : Nat) : (fnStop s f).get HOST_FN_STATUS.STATE f ≠ Fn.running := by
  rcases fnStop_cases s f with ⟨h, hr⟩ | ⟨v, hv, h⟩
  · rwa [h]
  · have hset : (s.set HOST_FN_STATUS.STATE v f).get HOST_FN_STATUS.STATE f = v := by
      rw [get_set_self _ _ _ _ _ hb (by decide)]
      rcases hv with rfl | rfl <;> rfl
    rw [h, settleStop_fn, fnSettled]
    split
    · rw [setFnState_hostFn, get_set_self _ _ _ _ _ ((State.set_behaveReset ..).trans hb) (by decide)]
      decide
    · rw [hset]
      rcases hv with rfl | rfl <;> decide

theorem fnStop_host (f : Nat) (h : s.get HOST_STATUS.STATE = Fn.stopping ∨ s.get HOST_STATUS.STATE = Fn.stopped) :
    (fnStop s f).get HOST_STATUS.STATE = Fn.stopping ∨ (fnStop s f).get HOST_STATUS.STATE = Fn.stopped := by
  rcases fnStop_cases s f with ⟨h', -⟩ | ⟨v, -, h'⟩
  · rwa [h']
  · rw [h']
    refine settleStop_host f ((State.set_behaveReset ..).trans hb) ?_
    rwa [get_set_reg _ _ _ _ _ _ _ _ (hostFn_ne_hostIf f).symm]

theorem fnStop_behaveReset (f : Nat) : (fnStop s f).behaveReset = [] :=
  ((fnStop_keeps (m := 4) (by decide) s f (Keeps.refl _ s)).2 .behaveReset (by decide)).trans hb

end

/-- STOPs of several function sets leave none of them RUNNING, and the interface STOPPING or STOPPED. -/
theorem fnStops_leave (l : List Nat) {s : State} (hb : s.behaveReset = [])
    (h : s.get HOST_STATUS.STATE = Fn.stopping ∨ s.get HOST_STATUS.STATE = Fn.stopped) :
    (forEach l fnStop s).behaveReset = [] ∧
    ((forEach l fnStop s).get HOST_STATUS.STATE = Fn.stopping ∨ (forEach l fnStop s).get HOST_STATUS.STATE = Fn.stopped) ∧
    ∀ f, f ∈ l ∨ s.get HOST_FN_STATUS.STATE f ≠ Fn.running → (forEach l fnStop s).get HOST_FN_STATUS.STATE f ≠ Fn.running := by
  induction l generalizing s with
  | nil => exact ⟨hb, h, fun f hf => hf.resolve_left List.not_mem_nil⟩
  | cons g l ih =>
    obtain ⟨hb', hhost, hfn⟩ := ih (fnStop_behaveReset hb g) (fnStop_host hb g h)
    rw [forEach_cons]
    refine ⟨hb', hhost, fun f hf => hfn f ?_⟩
    by_cases hg : f = g
    · exact .inr (hg ▸ fnStop_leaves hb g)
    · rw [fnStop_other s hg]
      exact hf.imp_left fun hm => (List.mem_cons.1 hm).resolve_left hg

theorem exec_hostStop (s : State) : exec .hostStop s = .next (hostStop s) := rfl

theorem hostStop_stops {s : State} (hs : s.sound) (h : s.get HOST_STATUS.STATE = Fn.running) :
    ((hostStop s).get HOST_STATUS.STATE = Fn.stopping ∨ (hostStop s).get HOST_STATUS.STATE = Fn.stopped) ∧
    ∀ f ≤ 256, (hostStop s).get HOST_FN_STATUS.STATE f ≠ Fn.running := by
  have hset := get_set_self s HOST_STATUS.STATE Fn.stopping 0 0 hs.1 (by decide)
  obtain ⟨hb, hhost, hfn⟩ := fnStops_leave (List.range 257) (s := s.set HOST_STATUS.STATE Fn.stopping)
    ((State.set_behaveReset ..).trans hs.1) (.inl hset)
  rw [hostStop, if_pos h]
  refine ⟨settleStop_host 256 hb hhost, fun f hf => ?_⟩
  have hleft := hfn f (.inl (List.mem_range.2 (by omega)))
  rw [settleStop_fn, fnSettled]
  split
  · next hc =>
    by_cases h256 : f = 256
    · rw [h256, setFnState_hostFn, get_set_self _ _ _ _ _ hb (by decide)]
      decide
    · rwa [setFnState_hostFn, get_set_reg _ _ _ _ _ _ _ _ (hostFn_ne h256)]
  · exact hleft

/-! ## NumVFs and the link (R247; 15_vigil.md R380) -/

/-- The state of a virtual function once NumVFs is n. -/
def vfState (n f st : Nat) : Nat := if f < n then if st = Fn.absent then Fn.stopped else st else Fn.absent

/-- What NumVFs does to one function set. -/
def vfStep (n : Nat) (s : State) (f : Nat) : State :=
  if f < n then (if s.get HOST_FN_STATUS.STATE f = Fn.absent then s.set HOST_FN_STATUS.STATE Fn.stopped f else s)
  else s.set HOST_FN_STATUS.STATE Fn.absent f

theorem numVfs_eq (s : State) (n : Nat) :
    numVfs s n = forEach (List.range 256) (vfStep (min n 256)) (s.set HOST_NUM_VF (min n 256)) := rfl

theorem vfStep_behaveReset (n f : Nat) (s : State) : (vfStep n s f).behaveReset = s.behaveReset := by
  unfold vfStep
  split
  · split
    · exact State.set_behaveReset ..
    · rfl
  · exact State.set_behaveReset ..

theorem vfStep_regsBut (n f : Nat) (s : State) : regsBut [HOST_FN_STATUS.STATE.addr f] s (vfStep n s f) := by
  unfold vfStep
  split
  · split
    · exact set_regsBut _ _ _ _ _
    · exact fun _ _ => rfl
  · exact set_regsBut _ _ _ _ _

theorem vfStep_own (n f : Nat) {s : State} (hb : s.behaveReset = []) :
    (vfStep n s f).get HOST_FN_STATUS.STATE f = vfState n f (s.get HOST_FN_STATUS.STATE f) := by
  have hset (v : Nat) := get_set_self s HOST_FN_STATUS.STATE v f 0 hb (by decide)
  unfold vfStep vfState
  split
  · split
    · exact hset _
    · rfl
  · exact hset _

theorem vfSteps_state (n : Nat) {l : List Nat} (hl : l.Nodup) {s : State} (hb : s.behaveReset = []) (f : Nat) :
    (forEach l (vfStep n) s).get HOST_FN_STATUS.STATE f =
      if f ∈ l then vfState n f (s.get HOST_FN_STATUS.STATE f) else s.get HOST_FN_STATUS.STATE f := by
  induction l generalizing s with
  | nil => rfl
  | cons g l ih =>
    obtain ⟨hg, hl⟩ := List.nodup_cons.1 hl
    rw [forEach_cons, ih hl ((vfStep_behaveReset ..).trans hb)]
    by_cases hf : f = g
    · rw [hf, if_neg hg, if_pos List.mem_cons_self, vfStep_own n g hb]
    · rw [get_of_regsBut (vfStep_regsBut n g s) _ _ _ (by simpa using hostFn_ne hf)]
      simp only [List.mem_cons, hf, false_or]

theorem numVfs_count {s : State} (hs : s.sound) (n : Nat) : (numVfs s n).get HOST_NUM_VF = min n 256 := by
  have hsteps : regsBut ((List.range 256).map (fun f => HOST_FN_STATUS.STATE.addr f)) (s.set HOST_NUM_VF (min n 256))
      (numVfs s n) := regsBut_forEach (fun t f hf => regsBut_mono (vfStep_regsBut _ f t) fun o ho =>
        List.mem_map.2 ⟨f, hf, (List.mem_singleton.1 ho).symm⟩) _
  rw [get_of_regsBut hsteps _ _ _ ?_, get_set_self _ _ _ _ _ hs.1 (by decide)]
  · exact Nat.mod_eq_of_lt (by dsimp only; omega)
  · simp only [List.mem_map, not_exists, not_and, Fld.addr]
    intro f _
    omega

theorem numVfs_state {s : State} (hs : s.sound) (n : Nat) {f : Nat} (hf : f < 256) :
    (numVfs s n).get HOST_FN_STATUS.STATE f = vfState (min n 256) f (s.get HOST_FN_STATUS.STATE f) := by
  rw [numVfs_eq, vfSteps_state _ List.nodup_range ((State.set_behaveReset ..).trans hs.1), if_pos (List.mem_range.2 hf),
    get_set_reg _ _ _ _ _ _ _ _ (by simp only [Fld.addr]; omega)]

theorem exec_numvfsWrite (n : Nat) (s : State) : exec (.numvfsWrite n) s = .next (numVfs s n) := rfl

theorem exec_hostLinkChange (up : Bool) (s : State) :
    exec (.hostLinkChange up) s = .next (s.set HOST_STATUS.LINK_UP (if up && !s.vig.perst then 1 else 0)) := rfl

/-! ## Windows (R237, R240, R247) -/

theorem firstCode_lt {l : List (Bool × Nat)} {n : Nat} (hn : 0 < n) (h : ∀ p ∈ l, p.2 < n) : firstCode l < n := by
  induction l with
  | nil => exact hn
  | cons p l ih =>
    obtain ⟨bad, c⟩ := p
    rw [firstCode]
    split
    · exact h _ List.mem_cons_self
    · exact ih fun q hq => h q (List.mem_cons_of_mem _ hq)

theorem commitCode_lt (s : State) : commitCode s < 2 ^ 8 := by
  unfold commitCode
  exact firstCode_lt (by decide) (by simp +decide)

/-- The code published leaves every other register. -/
theorem resultSet_get (s : State) (c : Nat) (f : Fld) (h : f.off ≠ HOST_WIN_RESULT.off) :
    (s.set HOST_WIN_RESULT c).get f = s.get f :=
  get_set_reg _ _ _ _ _ _ _ _ (by simpa [Fld.addr] using h)

theorem staged_resultSet (s : State) (c : Nat) : staged (s.set HOST_WIN_RESULT c) = staged s := by
  unfold staged State.bit State.get2
  simp only [resultSet_get s c HOST_WIN_ATTR.VALID (by decide), resultSet_get s c HOST_WIN_ATTR.GLOBAL (by decide),
    resultSet_get s c HOST_WIN_ATTR.RO (by decide), resultSet_get s c HOST_WIN_ATTR.ENC (by decide),
    resultSet_get s c HOST_WIN_BASE_LO (by decide), resultSet_get s c HOST_WIN_BASE_HI (by decide),
    resultSet_get s c HOST_WIN_SIZE (by decide)]

theorem calActive_resultSet (s : State) (c : Nat) : calActive (s.set HOST_WIN_RESULT c) = calActive s :=
  congrArg (· != 0) (resultSet_get s c CAL_STATUS.ACTIVE_VALID (by decide))

/-- The key of the window that the staging registers select. -/
def winKey (s : State) : Nat := 16 * s.get HOST_WIN_SEL.F + s.get HOST_WIN_SEL.WINDOW

theorem winCommit_refused {s : State} (h : commitCode s ≠ Code.done) : winCommit s = s.set HOST_WIN_RESULT (commitCode s) :=
  if_neg h

theorem winCommit_passes {s : State} (h : commitCode s = Code.done) :
    winCommit s = deferWin (s.set HOST_WIN_RESULT Code.done) (winKey s) (staged s) := by
  unfold winCommit
  rw [h, if_pos rfl, staged_resultSet, resultSet_get _ _ _ (by decide), resultSet_get _ _ _ (by decide), winKey]

theorem deferWin_active {s : State} (h : calActive s = true) (k : Nat) (x : Win) :
    deferWin s k x = { s with winPend := s.winPend ++ [(k, x)] } := if_pos h

/-- With no bank active the window takes its values at once. -/
theorem deferWin_idle {s : State} (h : calActive s = false) (k : Nat) (x : Win) :
    ∃ p, deferWin s k x = settleAllot (setWin { s with winPend := p } (k / 16) (k % 16) x) :=
  ⟨_, if_neg (by simp [h])⟩

theorem winAt_congr {s t : State} (h : t.wins = s.wins) (f w : Nat) : winAt t f w = winAt s f w := by unfold winAt; rw [h]

theorem winAt_setWin (s : State) (f w : Nat) (x : Win) (g v : Nat) :
    winAt (setWin s f w x) g v = if 16 * g + v = 16 * f + w then x else winAt s g v := mapGet_put _ _ _ _ _

theorem winAt_deferWin {s : State} (h : calActive s = false) (k : Nat) (x : Win) (f w : Nat) :
    winAt (deferWin s k x) f w = if 16 * f + w = k then x else winAt s f w := by
  obtain ⟨p, hp⟩ := deferWin_idle h k x
  rw [hp, winAt_congr ((settleAllot_only _).2 .wins (by decide)), winAt_setWin, Nat.div_add_mod]
  rfl

theorem exec_winCommit (s : State) : exec .winCommit s = .next (winCommit s) := rfl

/-- The staging registers loaded with a window. -/
theorem winRead_sound {s : State} (hs : s.sound) :
    winRead s = winStage s (winAt s (s.get HOST_WIN_SEL.F) (s.get HOST_WIN_SEL.WINDOW)) := by
  have hk := winStage_keeps (m := 4) (by decide) s (winAt s (s.get HOST_WIN_SEL.F) (s.get HOST_WIN_SEL.WINDOW)) (Keeps.refl _ s)
  have hw : (winStage s (winAt s (s.get HOST_WIN_SEL.F) (s.get HOST_WIN_SEL.WINDOW))).sound :=
    ⟨(hk.2 .behaveReset (by decide)).trans hs.1, (hk.2 .upset (by decide)).trans hs.2⟩
  unfold winRead
  simp only [rewritten_sound _ _ hw]

/-- A flag as the value of its bit. -/
theorem bitOf_eq_one (x : Bool) : ((if x then 1 else 0 : Nat) % 2 == 1) = x := by cases x <;> rfl

/-- What the staging registers show once a window is loaded. -/
structure WinShown (w : Win) (t : State) : Prop where
  lo : t.get HOST_WIN_BASE_LO = w.base % 2 ^ 32
  hi : t.get HOST_WIN_BASE_HI = w.base / 2 ^ 32 % 2 ^ 32
  size : t.get HOST_WIN_SIZE = w.size % 2 ^ 32
  valid : t.bit HOST_WIN_ATTR.VALID = w.valid
  isGlobal : t.bit HOST_WIN_ATTR.GLOBAL = w.isGlobal
  ro : t.bit HOST_WIN_ATTR.RO = w.ro
  enc : t.bit HOST_WIN_ATTR.ENC = w.enc

theorem winStage_shows {s : State} (hs : s.sound) (w : Win) : WinShown w (winStage s w) := by
  have hset (u : State) (f g : Fld) (v : Nat) (hu : u.behaveReset = []) (hf : f.lo + f.w ≤ 32)
      (h : g.off ≠ f.off ∨ f.lo + f.w ≤ g.lo ∨ g.lo + g.w ≤ f.lo) : (u.set f v).get g = u.get g :=
    get_set_apart u f g v 0 0 0 0 hu hf (h.imp_left fun h => by simpa [Fld.addr] using h)
  unfold winStage State.set2
  constructor
  all_goals simp [State.bit, hset, get_set_self, hs.1, bitOf_eq_one]

theorem exec_winRead (s : State) : exec .winRead s = .next (winRead s) := rfl

/-! ## The statement -/

/-- Settles O25: a START, a STOP and NumVFs each write the status register of the function that they name (DONE after a START is
log 8), and the interface follows its function sets; a COMMIT publishes its code and changes the one window. -/
theorem hostInterface : Obligations.HostInterface := by
  refine ⟨fun s hs hd h => ?_, fun s hs h => ?_, fun s f hs hf hd hh h => ⟨fun hfit => ?_, fun hfit => ?_⟩,
    fun s f hs hf hflr => ⟨fun h hi => ?_, fun h hi => ?_, fun h => ?_⟩, fun s n hs => ?_, fun s up hs => ?_,
    fun s hs => ⟨fun hc => ?_, fun hc ha => ?_, fun hc ha => ?_⟩, fun s hs => ?_⟩
  · exact acts_of_exec (exec_hostStart s) (hostStart_starts hs hd h)
  · exact acts_of_exec (exec_hostStop s) (hostStop_stops hs h)
  · refine acts_of_exec (exec_fnStart hf s) ?_
    rw [fnStart_eq hd hh, if_pos hfit]
    exact (startFn_passes hs h).1
  · refine acts_of_exec (exec_fnStart hf s) ?_
    rw [fnStart_eq hd hh, if_neg hfit]
    exact startFn_refused hs h (by decide)
  · refine acts_of_exec (exec_fnStop hf s) ?_
    rw [fnStop_running h]
    exact settleStop_stops (get_set_self _ _ _ _ _ hs.1 (by decide)) ((State.set_behaveReset ..).trans hs.1)
      (by rwa [fnAt_congr (State.set_fns ..)]) ((fnIdle_set ..).2 hi)
  · refine acts_of_exec (exec_fnStop hf s) ?_
    rw [fnStop_running h]
    exact settleStop_waits (get_set_self _ _ _ _ _ hs.1 (by decide)) (mt (fnIdle_set ..).1 hi)
  · have hstop : (s.set HOST_FN_STATUS.STATE Fn.stopped f).get HOST_FN_STATUS.STATE f = Fn.stopped :=
      get_set_self _ _ _ _ _ hs.1 (by decide)
    refine acts_of_exec (exec_fnStop hf s) ?_
    rw [fnStop_faulted h hflr, settleStop_still (by rw [hstop]; decide), hstop]
  · exact acts_of_exec (exec_numvfsWrite n s) ⟨numVfs_count hs n, fun f hf => numVfs_state hs n hf⟩
  · refine acts_of_exec (exec_hostLinkChange up s) ⟨?_, get_set_beside _ _ _ _ _ _ _ _ hs.1 rfl (by decide) (by decide)⟩
    rw [get_set_self _ _ _ _ _ hs.1 (by decide)]
    cases up <;> cases s.vig.perst <;> decide
  · refine acts_of_exec (exec_winCommit s) ?_
    rw [winCommit_refused hc, get_set_self _ _ _ _ _ hs.1 (by decide), Nat.mod_eq_of_lt (commitCode_lt s)]
    exact ⟨rfl, State.set_wins .., State.set_winPend ..⟩
  · refine acts_of_exec (exec_winCommit s) ?_
    rw [winCommit_passes hc, deferWin_active ((calActive_resultSet ..).trans ha)]
    exact ⟨get_set_self s HOST_WIN_RESULT _ 0 0 hs.1 (by decide), rfl, rfl⟩
  · refine acts_of_exec (exec_winCommit s) ?_
    simp only [winCommit_passes hc, winAt_deferWin ((calActive_resultSet ..).trans ha)]
    exact ⟨if_pos rfl, fun f w hne => (if_neg hne).trans (winAt_congr (State.set_wins ..) f w)⟩
  · obtain ⟨hlo, hhi, hsize, hvalid, hglobal, hro, henc⟩ :=
      winStage_shows hs (winAt s (s.get HOST_WIN_SEL.F) (s.get HOST_WIN_SEL.WINDOW))
    refine acts_of_exec (exec_winRead s) ?_
    rw [winRead_sound hs]
    exact ⟨hlo, hhi, hsize, hvalid, hglobal, hro, henc,
      (winStage_keeps (m := 4) (by decide) s _ (Keeps.refl _ s)).2 .wins (by decide)⟩

end Sys2Proof.Machine
end

section
/-! PROOFS. The entries of a function's submission ring: jobs, copies and releases (09_contexts_tenants.md R234 to R239;
08_memory.md R203). -/

namespace Sys2Proof.Machine

/-! ## A record in the completion ring (R234, R247) -/

theorem Cpl.bytes_length (c : Cpl) (n : Nat) : (c.bytes n).length = 32 := by simp [Cpl.bytes]

/-- The address of the next place of function f's completion ring. -/
def cplPlace (s : State) (f : Nat) : Nat :=
  s.get2 HOST_FN_CPL_BASE_LO HOST_FN_CPL_BASE_HI f + s.get HOST_FN_CPL_TAIL f * 32

/-- A record written to the next place of function f's completion ring, the tail moved past it. -/
def cplPut (s : State) (f : Nat) (r : Bytes) : State :=
  (hostStore s (cplPlace s f) r false).set HOST_FN_CPL_TAIL
    ((s.get HOST_FN_CPL_TAIL f + 1) % ringLen (s.get HOST_FN_RING_SIZE.CPL f)) f

/-- Function f with other waiting completion records. -/
def withCplWait (s : State) (f : Nat) (l : List Bytes) : State := setFn s f { fnAt s f with cplWait := l }

/-- The completion ring of function f takes a record at once: its rings live, no record waits, and it has room. -/
structure TakesCpl (s : State) (f : Nat) : Prop where
  live : ringsLive s f = true
  noRes : (fnAt s f).resWait = []
  noCpl : (fnAt s f).cplWait = []
  room : ringFull (s.get HOST_FN_CPL_TAIL f) (s.get HOST_FN_CPL_HEAD f) (ringLen (s.get HOST_FN_RING_SIZE.CPL f)) = false

/-- A record has been written to the next place of function f's completion ring, and nothing else to host memory; the tail
has moved past it, and no other register has changed. -/
structure CplPushed (s t : State) (f : Nat) (r : Bytes) : Prop where
  host : t.mems.host = wrBytes s.mems.host (cplPlace s f) r
  tail : t.get HOST_FN_CPL_TAIL f = (s.get HOST_FN_CPL_TAIL f + 1) % ringLen (s.get HOST_FN_RING_SIZE.CPL f) % 2 ^ 12
  regs : regsBut [HOST_FN_CPL_TAIL.addr f] s t

section
variable {s : State} {f : Nat}

/-- The first waiting record is written where the ring has room, and the function is told. -/
theorem drainCpl_one {u : State} {r : Bytes} (hw : (fnAt u f).cplWait = [r])
    (hroom : ringFull (u.get HOST_FN_CPL_TAIL f) (u.get HOST_FN_CPL_HEAD f) (ringLen (u.get HOST_FN_RING_SIZE.CPL f)) = false) :
    drainCpl f 1 u = raiseMsix (setFn (cplPut u f r) f { fnAt u f with cplWait := [] }) f 1 := by
  unfold drainCpl
  simp only [hw, hroom, Bool.false_eq_true, if_false]
  rfl

theorem cplPut_regsBut (r : Bytes) : regsBut [HOST_FN_CPL_TAIL.addr f] s (cplPut s f r) := set_regsBut_mem _ _ _ _ _ (by simp)

theorem withCplWait_regsBut (l : List Bytes) : regsBut [] s (withCplWait s f l) := fun _ _ => setFn_rdReg ..

/-- A record pushed where the ring takes one at once is written to it; the function is told, and no record waits. -/
theorem pushCpl_put (c : Cpl) (h : TakesCpl s f) :
    Keeps 2162688 (cplPut (withCplWait s f [c.bytes (nowN s)]) f (c.bytes (nowN s))) (pushCpl s f c) := by
  obtain ⟨hlive, hres, hcpl, hroom⟩ := h
  have hwait : fnAt (withCplWait s f [c.bytes (nowN s)]) f = { fnAt s f with cplWait := [c.bytes (nowN s)] } := fnAt_setFn ..
  have hone := drainCpl_one (u := withCplWait s f [c.bytes (nowN s)]) (by rw [hwait]) (by simpa [withCplWait] using hroom)
  have heq : pushCpl s f c = drainCpl f 1 (withCplWait s f [c.bytes (nowN s)]) := by
    rw [pushCpl, if_pos hlive, hcpl, List.nil_append, drainRings, ← withCplWait, hwait, hres, List.length_nil, drainRes,
      hwait]
    rfl
  rw [heq, hone]
  exact raiseMsix_keeps (by decide) _ _ _ (setFn_keeps (by decide) _ _ _ (Keeps.refl _ _))

theorem pushCpl_pushed (c : Cpl) (h : TakesCpl s f) (hb : s.behaveReset = []) :
    CplPushed s (pushCpl s f c) f (c.bytes (nowN s)) := by
  have hk := pushCpl_put c h
  generalize c.bytes (nowN s) = r at hk ⊢
  have hregs := regsBut_of_keeps hk (by decide) (by decide) []
  have hwait (g : Fld) : (withCplWait s f [r]).get g f = s.get g f := setFn_get ..
  have hplace : cplPlace (withCplWait s f [r]) f = cplPlace s f := by
    simp only [cplPlace, State.get2, hwait]
  refine ⟨?_, ?_, ?_⟩
  · rw [hk.2 .mems (by decide), cplPut, State.set_mems, hplace]
    rfl
  · have hb' : (withCplWait s f [r]).behaveReset = [] := (setFn_behaveReset ..).trans hb
    rw [get_of_regsBut hregs _ _ _ (by simp), cplPut, get_set_self _ _ _ _ _ (by simpa [hostStore] using hb') (by decide),
      hwait, hwait]
  · exact regsBut_trans (regsBut_mono (withCplWait_regsBut [r]) (by simp))
      (regsBut_trans (cplPut_regsBut r) (regsBut_mono hregs (by simp)))

end

/-- A record written to a ring of function f, the ring's tail and the function set as they then stand, and the interrupt. -/
def ringPut (s : State) (f a : Nat) (r : Bytes) (tail : Fld) (v : Nat) (y : FnSet) (k : Nat) : State :=
  raiseMsix (setFn ((hostStore s a r false).set tail v f) f y) f k

theorem ringPut_keeps (s : State) (f a : Nat) (r : Bytes) (tail : Fld) (v : Nat) (y : FnSet) (k : Nat) :
    Keeps 2162688 ((hostStore s a r false).set tail v f) (ringPut s f a r tail v y k) :=
  raiseMsix_keeps (by decide) _ _ _ (setFn_keeps (by decide) _ _ _ (Keeps.refl _ _))

theorem ringPut_dev (s : State) (f a : Nat) (r : Bytes) (tail : Fld) (v : Nat) (y : FnSet) (k : Nat) :
    (ringPut s f a r tail v y k).mems.dev = s.mems.dev := by
  rw [(ringPut_keeps s f a r tail v y k).2 .mems (by decide), State.set_mems]
  rfl

/-! A record, written at once or kept, leaves device memory. -/

theorem drainRes_dev (f k : Nat) (s : State) : (drainRes f k s).mems.dev = s.mems.dev := by
  induction k generalizing s with
  | zero => rfl
  | succ k ih =>
    unfold drainRes
    dsimp only
    split
    · rfl
    · split
      · rfl
      · exact (ih _).trans (ringPut_dev ..)

theorem drainCpl_dev (f k : Nat) (s : State) : (drainCpl f k s).mems.dev = s.mems.dev := by
  induction k generalizing s with
  | zero => rfl
  | succ k ih =>
    unfold drainCpl
    dsimp only
    split
    · rfl
    · split
      · rfl
      · exact (ih _).trans (ringPut_dev ..)

theorem pushCpl_dev (s : State) (f : Nat) (c : Cpl) : (pushCpl s f c).mems.dev = s.mems.dev := by
  unfold pushCpl
  split
  · rw [drainRings, drainCpl_dev, drainRes_dev, setFn_mems]
  · rfl

/-- A pushed completion leaves contexts, groups and the fabric. -/
theorem pushCpl_only (s : State) (f : Nat) (c : Cpl) : Keeps 1075905540 s (pushCpl s f c) :=
  pushCpl_keeps (by decide) s f c (Keeps.refl _ s)

/-! ## The registers of the function sets while an entry is carried out (R247) -/

/-- Every register of every function set reads as before. -/
def SameRings (s t : State) : Prop :=
  ∀ o, HOST_FN_STATUS.W.off ≤ o → o < HOST_FN_STATUS.W.off + 257 * 0x40 → rdReg t o = rdReg s o

theorem SameRings.refl (s : State) : SameRings s s := fun _ _ _ => rfl

theorem SameRings.trans {s t u : State} (h : SameRings s t) (g : SameRings t u) : SameRings s u :=
  fun o hl hu => (g o hl hu).trans (h o hl hu)

theorem SameRings.of_regsBut {l : List Nat} {s t : State} (h : regsBut l s t)
    (hl : ∀ o ∈ l, o < HOST_FN_STATUS.W.off ∨ HOST_FN_STATUS.W.off + 257 * 0x40 ≤ o) : SameRings s t :=
  fun o h1 h2 => h o fun hm => by have := hl o hm; omega

theorem SameRings.set (s : State) (g : Fld) (v i k : Nat)
    (h : g.addr i k < HOST_FN_STATUS.W.off ∨ HOST_FN_STATUS.W.off + 257 * 0x40 ≤ g.addr i k) : SameRings s (s.set g v i k) :=
  .of_regsBut (set_regsBut s g v i k) (by simpa using h)

theorem SameRings.of_keeps {m : Nat} {s t : State} (h : Keeps m s t) (hr : m.testBit Part.regs.idx = false)
    (hb : m.testBit Part.behaveReset.idx = false) : SameRings s t := .of_regsBut (regsBut_of_keeps h hr hb []) (by simp)

theorem SameRings.forEach {α : Type} {f : State → α → State} (l : List α) (hf : ∀ s, ∀ a ∈ l, SameRings s (f s a)) (s : State) :
    SameRings s (forEach l f s) :=
  List.foldlRecOn l f (SameRings.refl s) (fun t h a ha => h.trans (hf t a ha))

theorem SameRings.get {s t : State} (h : SameRings s t) {f : Nat} (hf : f ≤ 256) {g : Fld} (hg : ringReg g) :
    t.get g f = s.get g f := by
  obtain ⟨hs, h1, h2, -⟩ := hg
  dsimp only at h1 h2
  unfold State.get
  rw [h (g.addr f 0) (by simp only [Fld.addr, hs]; omega) (by simp only [Fld.addr, hs]; omega)]

/-- An entry of function f is being carried out: its head has moved, and of what its completion and its place depend on nothing
else has changed. -/
structure Carrying (s u : State) (f : Nat) : Prop where
  ring : ∀ g : Fld, ringReg g → u.get g f = s.get g f
  behave : u.behaveReset = []
  clk : u.clk = s.clk
  fns : u.fns = s.fns
  head : headMoved s u f

theorem Loading.carrying {s u : State} {f : Nat} (h : Loading s u f) (hf : f ≤ 256) : Carrying s u f :=
  ⟨fun _ hg => h.get_ring hf hg, h.behave, h.clk, h.fns, h.head⟩

theorem fetched_carrying {s : State} {f typ : Nat} {e : Ent} (h : entryReady s f typ e) : Carrying s (fetched s f) f :=
  (fetched_loading h).carrying h.2.1

section
variable {s u : State} {f : Nat}

theorem Carrying.step (h : Carrying s u f) (hf : f ≤ 256) {m : Nat} {v : State} (hr : SameRings u v) (hk : Keeps m u v)
    (hb : m.testBit Part.behaveReset.idx = false) (hc : m.testBit Part.clk.idx = false) (hn : m.testBit Part.fns.idx = false) :
    Carrying s v f := by
  refine ⟨fun g hg => (hr.get hf hg).trans (h.ring g hg), (hk.2 .behaveReset hb).trans h.behave, (hk.2 .clk hc).trans h.clk,
    (hk.2 .fns hn).trans h.fns, ?_⟩
  have hhead : v.get HOST_FN_SUB_HEAD f = u.get HOST_FN_SUB_HEAD f := by
    unfold State.get
    rw [hr _ (by simp only [Fld.addr]; omega) (by simp only [Fld.addr]; omega)]
  rw [headMoved, hhead]
  exact h.head

theorem Carrying.keeps (h : Carrying s u f) (hf : f ≤ 256) {m : Nat} {v : State} (hk : Keeps m u v)
    (hr : m.testBit Part.regs.idx = false) (hb : m.testBit Part.behaveReset.idx = false)
    (hc : m.testBit Part.clk.idx = false) (hn : m.testBit Part.fns.idx = false) : Carrying s v f :=
  h.step hf (.of_keeps hk hr hb) hk hb hc hn

/-- The entry's completion ring takes its record at once. -/
theorem Carrying.takesCpl {typ : Nat} {e : Ent} (h : Carrying s u f) (he : entryReady s f typ e) : TakesCpl u f := by
  have hfetch := entryReady_fetches he
  obtain ⟨-, -, -, -, -, -, hroom⟩ := he
  have hfn : fnAt u f = fnAt s f := fnAt_congr h.fns f
  have hstate : fnState u (hostFn f) = fnState s (hostFn f) := h.ring HOST_FN_STATUS.STATE (by decide)
  simp only [fetches, Bool.and_eq_true, beq_iff_eq, List.isEmpty_iff] at hfetch
  obtain ⟨⟨⟨⟨⟨hrun, -⟩, hres⟩, hcpl⟩, hflr⟩, -⟩ := hfetch
  refine ⟨by simp [ringsLive, hstate, hrun, hfn, hflr], by rw [hfn, hres], by rw [hfn, hcpl], ?_⟩
  rw [h.ring _ (by decide), h.ring _ (by decide), h.ring _ (by decide)]
  exact hroom

theorem Carrying.place (h : Carrying s u f) : cplPlace u f = cplPlace s f := by
  rw [cplPlace, State.get2, h.ring _ (by decide), h.ring _ (by decide), h.ring _ (by decide)]
  rfl

/-- The entry's completion written: the whole of what it does to host memory. -/
theorem Carrying.host {typ : Nat} {e : Ent} (h : Carrying s u f) (he : entryReady s f typ e) (c : Cpl) :
    (pushCpl u f c).mems.host = wrBytes u.mems.host (cplPlace s f) (c.bytes (nowN s)) := by
  rw [(pushCpl_pushed c (h.takesCpl he) h.behave).host, h.place, nowN, nowN, h.clk]

/-- The entry's completion pushed. -/
theorem Carrying.completes {typ : Nat} {e : Ent} (h : Carrying s u f) (he : entryReady s f typ e) (c : Cpl) :
    headMoved s (pushCpl u f c) f ∧ cplWritten s (pushCpl u f c) f c := by
  have hp := pushCpl_pushed c (h.takesCpl he) h.behave
  refine ⟨?_, ?_, ?_⟩
  · rw [headMoved, get_of_regsBut hp.regs _ _ _ (by simp [Fld.addr])]
    exact h.head
  · have hread := rdBytes_wrBytes u.mems.host (cplPlace s f) (c.bytes (nowN s))
    rw [Cpl.bytes_length] at hread
    rw [h.host he]
    exact hread
  · rw [hp.tail, h.ring _ (by decide), h.ring _ (by decide)]

/-- An entry that ends in a completion: its record stands, contexts and groups are those before the record. -/
theorem Carrying.completes_kept {typ : Nat} {e : Ent} (h : Carrying s u f) (he : entryReady s f typ e) (c : Cpl)
    (hctxs : u.ctxs = s.ctxs) (hgroups : u.groups = s.groups) :
    headMoved s (pushCpl u f c) f ∧ cplWritten s (pushCpl u f c) f c ∧ (pushCpl u f c).ctxs = s.ctxs ∧
      (pushCpl u f c).groups = s.groups := by
  obtain ⟨hhead, hcpl⟩ := h.completes he c
  have hk := pushCpl_only u f c
  exact ⟨hhead, hcpl, (hk.2 .ctxs (by decide)).trans hctxs, (hk.2 .groups (by decide)).trans hgroups⟩

end

theorem fetched_ctxs (s : State) (f : Nat) : (fetched s f).ctxs = s.ctxs := State.set_ctxs ..

theorem fetched_groups (s : State) (f : Nat) : (fetched s f).groups = s.groups := State.set_groups ..

/-! ## JOB (R235) -/

/-- Contexts changed one after another, each by itself. -/
def ctxsChanged (u : Ctx → Ctx) (l : List Nat) (s : State) : State := forEach l (fun s x => setCtx s x (u (ctxAt s x))) s

theorem ctxsChanged_only (u : Ctx → Ctx) (l : List Nat) (s : State) : Keeps 8192 s (ctxsChanged u l s) :=
  forEach_keeps (by decide) _ _ _ (fun _ _ h => setCtx_keeps (by decide) _ _ _ h) (Keeps.refl _ s)

/-- A change that is the same done twice is done once to each context of the list. -/
theorem ctxAt_ctxsChanged {u : Ctx → Ctx} (hu : ∀ y, u (u y) = u y) (l : List Nat) (s : State) (x : Nat) :
    ctxAt (ctxsChanged u l s) x = if x ∈ l then u (ctxAt s x) else ctxAt s x := by
  induction l generalizing s with
  | nil => rfl
  | cons z l ih =>
    have hcons : ctxsChanged u (z :: l) s = ctxsChanged u l (setCtx s z (u (ctxAt s z))) := rfl
    rw [hcons, ih, ctxAt_setCtx]
    by_cases hz : x = z
    · simp [hz, hu]
    · simp [hz]

/-- A context as the start of its group's job leaves it. -/
def jobStarted (y : Ctx) : Ctx :=
  { y with state := if y.state = 3 then 3 else 2, halt := false, job := true, live := freshPointers y.img
           saved := freshPointers y.img, replays := [] }

theorem jobStarted_twice (y : Ctx) : jobStarted (jobStarted y) = jobStarted y := by
  unfold jobStarted
  by_cases h : y.state = 3 <;> simp [h]

section
variable (s : State) (g : Nat) (j : Job)

theorem startJob_eq : startJob s g j =
    ctxsChanged jobStarted (groupAt s g).ctxs (setGroup s g { groupAt s g with job := some j }) := rfl

theorem startJob_only : Keeps 24576 s (startJob s g j) := startJob_keeps (by decide) s g j (Keeps.refl _ s)

theorem startJob_group : groupAt (startJob s g j) g = { groupAt s g with job := some j } := by
  rw [startJob_eq, groupAt_congr ((ctxsChanged_only ..).2 .groups (by decide)), groupAt_setGroup]

theorem startJob_ctx (x : Nat) :
    ctxAt (startJob s g j) x = if x ∈ (groupAt s g).ctxs then jobStarted (ctxAt s x) else ctxAt s x := by
  rw [startJob_eq, ctxAt_ctxsChanged jobStarted_twice, ctxAt_congr (setGroup_ctxs ..)]

end

theorem tbSpend_rings (s : State) {t : Nat} (ht : t < 256) (b u : Nat) : SameRings s (tbSpend s t b u) := by
  unfold tbSpend
  split
  · unfold State.setS
    refine SameRings.set _ _ _ _ _ (.inl ?_)
    rcases b with _ | _ | _ <;> simp only [tbTokens, Fld.addr] <;> omega
  · exact .refl s

theorem admission_rings (s : State) (t : Nat) (d : Demand) : SameRings s (admission s t d).2 := by
  unfold admission
  split
  · exact .refl s
  · next ht =>
    split
    · exact .forEach _ (fun u b _ => tbSpend_rings u (by omega) b _) s
    · exact .set _ CAL_TB_POLICED _ _ _ (by simp only [Fld.addr]; omega)

theorem admission_only (s : State) (t : Nat) (d : Demand) : Keeps 4 s (admission s t d).2 :=
  (admission_keeps (by decide) s t d (Keeps.refl _ s)).of

theorem groupKey_some {s : State} {f id g : Nat} (h : newestGroup s f id = some g) : groupKey s f id = (ctxAt s g).img.key.toNat := by
  unfold groupKey; rw [h]

theorem groupKey_none {s : State} {f id : Nat} (h : newestGroup s f id = none) : groupKey s f id = 0 := by
  unfold groupKey; rw [h]

/-- The completion of a JOB entry that is refused. -/
def jobRefusal (e : Ent) (code key : Nat) : Cpl := { code := code, typ := 1, image := e.a % 2 ^ 32, user := e.user, key := key }

section
variable {s : State} {f : Nat} {e : Ent}

theorem jobEntry_absent (h : newestGroup s f (e.a % 2 ^ 32) = none) :
    jobEntry f e s = pushCpl s f (jobRefusal e Code.notPresent 0) := by
  unfold jobEntry submitJob
  rw [groupKey_none h, h]
  rfl

variable {g : Nat} (h : newestGroup s f (e.a % 2 ^ 32) = some g)
include h

theorem jobEntry_full (hw : 64 ≤ (groupAt s g).waiting.length) :
    jobEntry f e s = pushCpl s f (jobRefusal e Code.busy (ctxAt s g).img.key.toNat) := by
  unfold jobEntry submitJob
  rw [groupKey_some h, h]
  dsimp only
  rw [if_pos hw]
  rfl

variable (hw : (groupAt s g).waiting.length < 64)
include hw

theorem jobEntry_policed (ha : (admission s f (shapeOf (ctxAt s g).img)).1 = false) :
    jobEntry f e s = pushCpl (admission s f (shapeOf (ctxAt s g).img)).2 f
      (jobRefusal e Code.policed (ctxAt s g).img.key.toNat) := by
  unfold jobEntry submitJob
  rw [groupKey_some h, h]
  dsimp only
  rw [if_neg (by omega)]
  generalize admission s f (shapeOf (ctxAt s g).img) = p at ha
  obtain ⟨ok, u⟩ := p
  cases ha
  rfl

theorem jobEntry_admitted (ha : (admission s f (shapeOf (ctxAt s g).img)).1 = true) :
    jobEntry f e s = if (groupAt s g).job.isSome then
      setGroup (admission s f (shapeOf (ctxAt s g).img)).2 g
        { groupAt s g with waiting := (groupAt s g).waiting ++ [{ fn := f, user := e.user }] }
    else startJob (admission s f (shapeOf (ctxAt s g).img)).2 g { fn := f, user := e.user } := by
  have hg := groupAt_congr ((admission_only s f (shapeOf (ctxAt s g).img)).2 .groups (by decide)) g
  unfold jobEntry submitJob
  rw [h]
  dsimp only
  rw [if_neg (by omega)]
  generalize admission s f (shapeOf (ctxAt s g).img) = p at ha hg
  obtain ⟨ok, u⟩ := p
  cases ha
  dsimp only at hg ⊢
  rw [hg]
  by_cases hj : (groupAt s g).job.isSome = true
  · simp only [if_pos hj]
  · simp only [if_neg hj]

end

theorem exec_job (s : State) (f : Nat) : exec (.job f) s = .next (entryRow f 1 (jobEntry f) s) := rfl

section
variable {s : State} {f : Nat} {e : Ent} (he : entryReady s f 1 e)
include he

theorem job_acts {p : State → Prop} (h : p (jobEntry f e (fetched s f))) : Acts (.job f) s p :=
  acts_of_exec (by rw [exec_job, entryRow_ready he]) h

/-- A JOB that is refused, whatever the admission has counted: its completion, and nothing begun. -/
theorem job_refused {u : State} {c : Cpl} (h : jobEntry f e (fetched s f) = pushCpl u f c) (hr : SameRings (fetched s f) u)
    (hk : Keeps 4 (fetched s f) u) :
    Acts (.job f) s (fun t => headMoved s t f ∧ cplWritten s t f c ∧ t.ctxs = s.ctxs ∧ t.groups = s.groups) := by
  refine job_acts he ?_
  rw [h]
  exact ((fetched_carrying he).step he.2.1 hr hk (by decide) (by decide) (by decide)).completes_kept he c
    ((hk.2 .ctxs (by decide)).trans (fetched_ctxs s f)) ((hk.2 .groups (by decide)).trans (fetched_groups s f))

end

/-! ## COPY (R235, R238) -/

/-- What a reader sees of device memory is the same in two states. -/
structure SameDev (s t : State) : Prop where
  dev : t.mems.dev = s.mems.dev
  ctxs : t.ctxs = s.ctxs
  wins : t.wins = s.wins
  fns : t.fns = s.fns
  node : ownNode t = ownNode s
  top : memTop t = memTop s

theorem SameDev.refl (s : State) : SameDev s s := ⟨rfl, rfl, rfl, rfl, rfl, rfl⟩

theorem SameDev.trans {s t u : State} (h : SameDev s t) (g : SameDev t u) : SameDev s u :=
  ⟨g.dev.trans h.dev, g.ctxs.trans h.ctxs, g.wins.trans h.wins, g.fns.trans h.fns, g.node.trans h.node, g.top.trans h.top⟩

theorem encAt_congr {s t : State} (hw : t.wins = s.wins) (hn : ownNode t = ownNode s) (a : Nat) : encAt t a = encAt s a := by
  unfold encAt; rw [hw, hn]

theorem SameDev.devByte {s t : State} (h : SameDev s t) (a : Nat) : devByte t a = devByte s a := by
  unfold Machine.devByte; rw [h.dev, ctxAt_congr h.ctxs]

theorem SameDev.devPlain {s t : State} (h : SameDev s t) (a : Nat) : devPlain t a = devPlain s a := by
  unfold Machine.devPlain granuleBytes
  simp only [encAt_congr h.wins h.node, h.devByte, fnAt_congr h.fns]

/-- An operation that keeps the registers, the memories and what places the windows. -/
theorem SameDev.of_keeps {m : Nat} {s t : State} (h : Keeps m s t) (hr : m.testBit Part.regs.idx = false)
    (hb : m.testBit Part.behaveReset.idx = false) (hm : m.testBit Part.mems.idx = false)
    (hc : m.testBit Part.ctxs.idx = false) (hw : m.testBit Part.wins.idx = false) (hf : m.testBit Part.fns.idx = false) :
    SameDev s t := by
  have hget (g : Fld) : t.get g = s.get g := get_congr (h.2 .regs hr) (h.2 .behaveReset hb) g 0 0
  exact ⟨congrArg Mems.dev (h.2 .mems hm), h.2 .ctxs hc, h.2 .wins hw, h.2 .fns hf, hget FIL_NODE, by rw [memTop, hget]; rfl⟩

theorem SameDev.set (s : State) (g : Fld) (v i k : Nat) (hn : FIL_NODE.off ≠ g.addr i k) (ht : MEM_TOP.off ≠ g.addr i k) :
    SameDev s (s.set g v i k) := by
  refine ⟨congrArg Mems.dev (State.set_mems ..), State.set_ctxs .., State.set_wins .., State.set_fns .., ?_, ?_⟩
  · exact get_set_reg _ _ _ _ _ _ _ _ (by simpa [Fld.addr] using hn)
  · rw [memTop, get_set_reg _ _ _ _ _ _ _ _ (by simpa [Fld.addr] using ht)]
    rfl

theorem fetched_sameDev {s : State} {f : Nat} (hf : f ≤ 256) : SameDev s (fetched s f) :=
  .set _ _ _ _ _ (by simp only [Fld.addr]; omega) (by simp only [Fld.addr]; omega)

theorem raiseMem_sameDev (s : State) (r a n : Nat) : SameDev s (raiseMem s r a n) :=
  .of_keeps (raiseMem_only s r a n 0 false) (by decide) (by decide) (by decide) (by decide) (by decide) (by decide)

theorem rdBytes_length (m : SMap Byte) (a n : Nat) : (rdBytes m a n).length = n := by
  rw [rdBytes_eq_map, List.length_map, List.length_range]

theorem rdBytes_getD (m : SMap Byte) (a : Nat) {n i : Nat} (hi : i < n) : (rdBytes m a n).getD i 0 = rdM m (a + i) := by
  rw [rdBytes_eq_map, List.getD_eq_getElem _ _ (by simpa using hi), List.getElem_map, List.getElem_range]

/-! ## COPY_IN -/

theorem devPut_plain {s : State} {a : Nat} (h : encAt s a = none) (b : Byte) :
    devPut s a b = { s with mems := { s.mems with dev := wrM s.mems.dev a b } } := by
  unfold devPut; rw [h]

/-- Bytes that no window encrypts are stored as they are. -/
theorem devPuts_plain (l : Bytes) {s : State} {a : Nat} (h : ∀ i < l.length, encAt s (a + i) = none) :
    (devPuts s a l).mems.dev = wrBytes s.mems.dev a l := by
  induction l generalizing s a with
  | nil => rfl
  | cons b l ih =>
    rw [devPuts, devPut_plain (a := a) (h 0 (by simp)), ih, wrBytes]
    intro i hi
    have hnext := h (i + 1) (by simpa using hi)
    rwa [Nat.add_comm i 1, ← Nat.add_assoc] at hnext

theorem devStore_plain {s : State} {a : Nat} {l : Bytes} (bad : Bool) (h : ∀ i < l.length, encAt s (a + i) = none) :
    (devStore s a l bad).mems.dev = wrBytes s.mems.dev a l := devPuts_plain l h

theorem devStore_only (s : State) (a : Nat) (l : Bytes) (bad : Bool) : Keeps 1024 s (devStore s a l bad) :=
  devStore_keeps (by decide) s a l bad (Keeps.refl _ s)

theorem sharersIn_congr {s t : State} (hr : t.regs = s.regs) (hb : t.behaveReset = s.behaveReset) (hf : t.fab = s.fab)
    (a n : Nat) (but : Option Nat) : sharersIn t a n but = sharersIn s a n but := by
  unfold sharersIn sharersOf
  simp only [hf, get_congr hr hb]

theorem putOnLink_invWait (s : State) (q : Nat) (x : Txn) : (putOnLink s q x).fab.invWait = s.fab.invWait := by
  have hk := raiseReq_keeps (m := 34359738368) (by decide) s (65536 + q) (egressOf s x) (flitsOf x) false 0 (Keeps.refl _ s)
  have hraise : (raiseReq s (65536 + q) (egressOf s x) (flitsOf x)).fab.invWait = s.fab.invWait :=
    congrArg Fab.invWait (hk.2 .fab (by decide))
  unfold putOnLink State.bump2
  rw [State.set2_fab]
  exact hraise

/-- What waits for invalidations stays while a transaction is sent. -/
theorem sendTxn_invWait (s : State) (x : Txn) : (sendTxn s x).fab.invWait = s.fab.invWait := by
  unfold sendTxn
  split
  · unfold sendOn
    dsimp only
    split
    · exact putOnLink_invWait ..
    · rfl
  · rfl

theorem newTxn_invWait (s : State) (opc vc dst off : Nat) (l : Bytes) :
    (newTxn s opc vc dst off l).1.fab.invWait = s.fab.invWait := by
  unfold newTxn issue
  dsimp only
  rw [State.set2_fab]

theorem askInv_invWait (s : State) (a n : Nat) (but : Option Nat) : (askInv s a n but).fab.invWait = s.fab.invWait := by
  unfold askInv
  refine forEach_same (fun t => t.fab.invWait) (fun t l => forEach_same (fun t => t.fab.invWait) (fun u node => ?_) _ t) _ s
  split
  · rfl
  · dsimp only
    rw [sendTxn_invWait, newTxn_invWait]

theorem askInv_only (s : State) (a n : Nat) (but : Option Nat) : Keeps 39728447492 s (askInv s a n but) :=
  askInv_keeps (by decide) s a n but (Keeps.refl _ s)

/-- A range that no bangle node shares is written at once. -/
theorem homeWrite_free {s : State} {a : Nat} {l : Bytes} (h : (sharersIn s a l.length none).isEmpty = true) (bad : Bool) :
    homeWrite s a l bad = devStore s a l bad := if_pos h

/-- One that is shared waits for the invalidation of its sharers. -/
theorem homeWrite_shared {s : State} {a : Nat} {l : Bytes} (h : (sharersIn s a l.length none).isEmpty = false) (bad : Bool) :
    (homeWrite s a l bad).mems.dev = s.mems.dev ∧
      (homeWrite s a l bad).fab.invWait = s.fab.invWait ++ [{ addr := a, data := l, poison := bad }] := by
  have heq : homeWrite s a l bad = { askInv s a l.length none with
      fab := { (askInv s a l.length none).fab with
        invWait := (askInv s a l.length none).fab.invWait ++ [{ addr := a, data := l, poison := bad }] } } :=
    if_neg (by simp [h])
  rw [heq]
  exact ⟨congrArg Mems.dev ((askInv_only s a l.length none).2 .mems (by decide)), by dsimp only; rw [askInv_invWait]⟩

theorem exec_copyIn (s : State) (f : Nat) : exec (.copyIn f) s = .next (entryRow f 2 (copyIn f) s) := rfl

/-- The completion of a COPY. -/
def copyCpl (e : Ent) (typ code : Nat) : Cpl := { code := code, typ := typ, user := e.user }

/-- The host's bytes that a COPY_IN takes. -/
def copyBytes (s : State) (e : Ent) : Bytes := rdBytes s.mems.host e.a e.len

section
variable {s : State} {f : Nat} {e : Ent} (he : entryReady s f 2 e)
include he

theorem copyIn_acts {p : State → Prop} (h : p (copyIn f e (fetched s f))) : Acts (.copyIn f) s p :=
  acts_of_exec (by rw [exec_copyIn, entryRow_ready he]) h

omit he in
theorem copyIn_done (h : copyCode (fetched s f) f e true = Code.done) : copyIn f e (fetched s f) =
    pushCpl (homeWrite (raiseMem (fetched s f) 22 e.b e.len) e.b (copyBytes s e) false) f (copyCpl e 2 Code.done) := by
  unfold copyIn
  dsimp only
  rw [h, if_pos rfl, show (fetched s f).mems = s.mems from State.set_mems ..]
  rfl

theorem copyIn_refused (h : copyCode (fetched s f) f e true ≠ Code.done) :
    Acts (.copyIn f) s (fun t => (headMoved s t f ∧ cplWritten s t f (copyCpl e 2 (copyCode (fetched s f) f e true))) ∧
      t.mems.dev = s.mems.dev) := by
  have heq : copyIn f e (fetched s f) = pushCpl (fetched s f) f (copyCpl e 2 (copyCode (fetched s f) f e true)) := by
    unfold copyIn
    dsimp only
    rw [if_neg h]
    rfl
  refine copyIn_acts he ?_
  rw [heq]
  exact ⟨(fetched_carrying he).completes he _, (pushCpl_dev ..).trans (congrArg Mems.dev (State.set_mems ..))⟩

omit he in
theorem copyIn_sharers (b : Bool) (h : (sharersIn (fetched s f) e.b e.len none).isEmpty = b) :
    (sharersIn (raiseMem (fetched s f) 22 e.b e.len) e.b (copyBytes s e).length none).isEmpty = b := by
  have hk := raiseMem_only (fetched s f) 22 e.b e.len 0 false
  rw [copyBytes, rdBytes_length, sharersIn_congr (hk.2 .regs (by decide)) (hk.2 .behaveReset (by decide)) (hk.2 .fab (by decide)), h]

/-- A COPY_IN of bytes that no bangle node shares: stored at once, in the clear where no window encrypts them. -/
theorem copyIn_stores (h : copyCode (fetched s f) f e true = Code.done)
    (hfree : (sharersIn (fetched s f) e.b e.len none).isEmpty = true) :
    Acts (.copyIn f) s (fun t => (headMoved s t f ∧ cplWritten s t f (copyCpl e 2 Code.done)) ∧
      ((∀ i < e.len, encAt s (e.b + i) = none) →
        ∀ i < e.len, rdM t.mems.dev (e.b + i) = rdM s.mems.host (e.a + i))) := by
  have ⟨_, hf, _⟩ := he
  have hraise := raiseMem_only (fetched s f) 22 e.b e.len 0 false
  have hstore := devStore_only (raiseMem (fetched s f) 22 e.b e.len) e.b (copyBytes s e) false
  have hcarry := ((fetched_carrying he).keeps hf hraise (by decide) (by decide) (by decide) (by decide)).keeps hf hstore
    (by decide) (by decide) (by decide) (by decide)
  have hsame := (fetched_sameDev hf).trans (raiseMem_sameDev (fetched s f) 22 e.b e.len)
  refine copyIn_acts he ?_
  rw [copyIn_done h, homeWrite_free (copyIn_sharers true hfree)]
  refine ⟨hcarry.completes he _, fun hclear i hi => ?_⟩
  rw [pushCpl_dev, devStore_plain false, rdM_wrBytes, if_pos ⟨Nat.le_add_right .., by rw [copyBytes, rdBytes_length]; omega⟩,
    Nat.add_sub_cancel_left, copyBytes, rdBytes_getD _ _ hi]
  intro i hi
  rw [encAt_congr hsame.wins hsame.node]
  exact hclear i (by rwa [copyBytes, rdBytes_length] at hi)

/-- One of bytes that are shared: kept until their sharers have answered. -/
theorem copyIn_waits (h : copyCode (fetched s f) f e true = Code.done)
    (hshared : (sharersIn (fetched s f) e.b e.len none).isEmpty = false) :
    Acts (.copyIn f) s (fun t => t.mems.dev = s.mems.dev ∧
      t.fab.invWait = s.fab.invWait ++ [{ addr := e.b, data := copyBytes s e, poison := false }]) := by
  have ⟨_, hf, _⟩ := he
  obtain ⟨hdev, hwait⟩ := homeWrite_shared (copyIn_sharers false hshared) false
  have hfab : (raiseMem (fetched s f) 22 e.b e.len).fab = s.fab :=
    ((raiseMem_only (fetched s f) 22 e.b e.len 0 false).2 .fab (by decide)).trans (State.set_fab ..)
  refine copyIn_acts he ?_
  rw [copyIn_done h, pushCpl_dev, hdev, (pushCpl_only _ _ _).2 .fab (by decide), hwait, hfab]
  exact ⟨((fetched_sameDev hf).trans (raiseMem_sameDev (fetched s f) 22 e.b e.len)).dev, rfl⟩

end

end Sys2Proof.Machine
end

section
/-! PROOFS. COPY_OUT and RELEASE, and the entries of a submission ring as a whole (09_contexts_tenants.md R231, R234 to R239;
08_memory.md R203, R214). -/

namespace Sys2Proof.Machine

/-! ## What a reader sees of a range (08_memory.md R203; R239) -/

/-- A range of device memory that can be read: below the end of memory, no byte in an encrypted window without a key. -/
structure Readable (s : State) (a n : Nat) : Prop where
  top : a + n ≤ memTop s
  plain : ∀ i < n, (devPlain s (a + i)).isSome = true

theorem Readable.part {s : State} {a n b m : Nat} (h : Readable s a n) (hb : a ≤ b) (hm : b + m ≤ a + n) : Readable s b m := by
  refine ⟨Nat.le_trans hm h.top, fun i hi => ?_⟩
  have := h.plain (b - a + i) (by omega)
  rwa [show a + (b - a + i) = b + i by omega] at this

theorem Readable.congr {s t : State} {a n : Nat} (h : Readable s a n) (hs : SameDev s t) : Readable t a n :=
  ⟨by rw [hs.top]; exact h.top, fun i hi => by rw [hs.devPlain]; exact h.plain i hi⟩

section
variable {α : Type} {f : Option α → Option (List α) → Option (List α)}

/-- Values that are all there are gathered. -/
theorem foldr_gathers (hs : ∀ b l, f (some b) (some l) = some (b :: l)) (l : List α) :
    (l.map some).foldr f (some []) = some l := by
  induction l with
  | nil => rfl
  | cons b l ih => rw [List.map_cons, List.foldr_cons, ih, hs]

/-- What is gathered is all there. -/
theorem map_some_of_foldr (hn : ∀ b l x, f b l = some x → ∃ c m, b = some c ∧ l = some m ∧ x = c :: m) {L : List (Option α)}
    {l : List α} (h : L.foldr f (some []) = some l) : L = l.map some := by
  induction L generalizing l with
  | nil => cases h; rfl
  | cons b L ih =>
    obtain ⟨c, m, rfl, hm, rfl⟩ := hn _ _ _ h
    rw [ih hm, List.map_cons]

end

/-- A read that ends with DONE was of a range that can be read. -/
theorem readable_of_devRead {s : State} {a n : Nat} (h : (devRead s a n).1 = Code.done) : Readable s a n := by
  unfold devRead at h
  split at h
  · cases h
  · next ht =>
    split at h
    · next l hl =>
      have hmap := map_some_of_foldr (by rintro (_ | b) (_ | l) x hx <;> cases hx; exact ⟨_, _, rfl, rfl, rfl⟩) hl
      refine ⟨Nat.le_of_not_lt ht, fun i hi => ?_⟩
      have hmem : devPlain s (a + i) ∈ l.map some := hmap ▸ List.mem_map.2 ⟨i, List.mem_range.2 hi, rfl⟩
      obtain ⟨b, -, hb⟩ := List.mem_map.1 hmem
      rw [← hb]
      rfl
    · cases h

/-- The bytes that a reader sees of a range. -/
def plainBytes (s : State) (a n : Nat) : Bytes := (List.range n).map (fun i => (devPlain s (a + i)).getD 0)

theorem plainBytes_length (s : State) (a n : Nat) : (plainBytes s a n).length = n := by simp [plainBytes]

theorem plainBytes_getD {s : State} {a n : Nat} (h : Readable s a n) {i : Nat} (hi : i < n) :
    some ((plainBytes s a n).getD i 0) = devPlain s (a + i) := by
  obtain ⟨b, hb⟩ := Option.isSome_iff_exists.1 (h.plain i hi)
  rw [plainBytes, List.getD_eq_getElem _ _ (by simpa using hi), List.getElem_map, List.getElem_range, hb]
  rfl

theorem devRead_bytes {s : State} {a n : Nat} (h : Readable s a n) : (devRead s a n).2.1 = plainBytes s a n := by
  have hmap : (List.range n).map (fun i => devPlain s (a + i)) = (plainBytes s a n).map some := by
    rw [plainBytes, List.map_map]
    refine List.map_congr_left fun i hi => ?_
    obtain ⟨b, hb⟩ := Option.isSome_iff_exists.1 (h.plain i (List.mem_range.1 hi))
    simp [hb]
  unfold devRead
  rw [if_neg (Nat.not_lt.2 h.top), hmap, foldr_gathers (fun _ _ => rfl)]

/-! ## COPY_OUT (R235, R238) -/

/-- Every place of a range lies in one of its pieces. -/
theorem piecesOf_cover {k a n x : Nat} (hk : 0 < k) (ha : a ≤ x) (hx : x < a + n) :
    ∃ p ∈ piecesOf k a n, p.1 ≤ x ∧ x < p.1 + p.2 := by
  have hle : a / k ≤ x / k := Nat.div_le_div_right ha
  have hge : x / k ≤ (a + n - 1) / k := Nat.div_le_div_right (by omega)
  have hlo : x / k * k ≤ x := Nat.div_mul_le_self x k
  have hhi : x < (x / k + 1) * k := by
    rw [Nat.mul_comm]
    exact Nat.lt_mul_div_succ x hk
  rw [piecesOf, if_neg (by omega)]
  refine ⟨_, List.mem_map.2 ⟨x / k - a / k, List.mem_range.2 (by omega), rfl⟩, ?_⟩
  dsimp only
  rw [show a / k + (x / k - a / k) = x / k by omega]
  omega

/-- A piece lies in its range. -/
theorem piecesOf_within {k a n : Nat} {p : Nat × Nat} (hk : 0 < k) (h : p ∈ piecesOf k a n) : a ≤ p.1 ∧ p.1 + p.2 ≤ a + n := by
  unfold piecesOf at h
  split at h
  · exact absurd h List.not_mem_nil
  · next hn =>
    obtain ⟨i, hi, rfl⟩ := List.mem_map.1 h
    have hle : (a / k + i) * k ≤ (a + n - 1) / k * k := Nat.mul_le_mul_right k (by
      have := List.mem_range.1 hi
      have : a / k ≤ (a + n - 1) / k := Nat.div_le_div_right (by omega)
      omega)
    have hend := Nat.div_mul_le_self (a + n - 1) k
    have hlt : (a / k + i) * k ≤ (a / k + i + 1) * k := Nat.mul_le_mul_right k (Nat.le_succ _)
    have ha : a < (a / k + i + 1) * k := Nat.lt_of_lt_of_le (by rw [Nat.mul_comm]; exact Nat.lt_mul_div_succ a hk)
      (Nat.mul_le_mul_right k (by omega : a / k + 1 ≤ a / k + i + 1))
    dsimp only
    omega

theorem hostStore_mems (s : State) (a : Nat) (l : Bytes) (ep : Bool) :
    (hostStore s a l ep).mems = { s.mems with host := wrBytes s.mems.host a l } := by cases ep <;> rfl

/-- One piece of a COPY_OUT: read, noted where it is poisoned, and written to host memory. -/
def outPiece (e : Ent) (s : State) (p : Nat × Nat) : State :=
  let r := devRead s p.1 p.2
  hostStore (if r.2.2 then poisonSeenDev s p.1 else s) (e.a + (p.1 - e.b)) r.2.1 r.2.2

section
variable (e : Ent) (s : State) (p : Nat × Nat)

/-- What is noted of a piece. -/
def pieceNoted : State := if (devRead s p.1 p.2).2.2 then poisonSeenDev s p.1 else s

theorem outPiece_eq : outPiece e s p =
    hostStore (pieceNoted s p) (e.a + (p.1 - e.b)) (devRead s p.1 p.2).2.1 (devRead s p.1 p.2).2.2 := rfl

theorem pieceNoted_only : Keeps 4 s (pieceNoted s p) :=
  ite_keeps (poisonSeenDev_keeps (by decide) s _ (Keeps.refl _ s)) (Keeps.refl _ s)

theorem pieceNoted_rings : SameRings s (pieceNoted s p) := by
  unfold pieceNoted
  split
  · exact .set _ _ _ _ _ (.inr (by simp only [Fld.addr]; omega))
  · exact .refl s

theorem pieceNoted_sameDev : SameDev s (pieceNoted s p) := by
  unfold pieceNoted
  split
  · exact .set _ _ _ _ _ (by simp only [Fld.addr]; omega) (by simp only [Fld.addr]; omega)
  · exact .refl s

theorem hostStore_only (a : Nat) (l : Bytes) (ep : Bool) : Keeps 1073742848 s (hostStore s a l ep) :=
  hostStore_keeps (by decide) s a l ep (Keeps.refl _ s)

theorem hostStore_sameDev (a : Nat) (l : Bytes) (ep : Bool) : SameDev s (hostStore s a l ep) := by
  have hk := hostStore_only s a l ep
  have hget (g : Fld) : (hostStore s a l ep).get g = s.get g := get_congr (hk.2 .regs (by decide)) (hk.2 .behaveReset (by decide)) g 0 0
  exact ⟨by rw [hostStore_mems], hk.2 .ctxs (by decide), hk.2 .wins (by decide), hk.2 .fns (by decide), hget FIL_NODE,
    by rw [memTop, hget]; rfl⟩

theorem outPiece_rings : SameRings s (outPiece e s p) :=
  (pieceNoted_rings s p).trans (.of_keeps (hostStore_only ..) (by decide) (by decide))

theorem outPiece_sameDev : SameDev s (outPiece e s p) := (pieceNoted_sameDev s p).trans (hostStore_sameDev ..)

theorem outPiece_host : (outPiece e s p).mems.host = wrBytes s.mems.host (e.a + (p.1 - e.b)) (devRead s p.1 p.2).2.1 := by
  rw [outPiece_eq, hostStore_mems, show (pieceNoted s p).mems = s.mems from (pieceNoted_only s p).2 .mems (by decide)]

end

/-- A place lies in a piece. -/
abbrev inPiece (p : Nat × Nat) (x : Nat) : Prop := p.1 ≤ x ∧ x < p.1 + p.2

/-- The host byte that a place of the range goes to, after one piece. -/
theorem outPiece_byte {e : Ent} {s : State} {p : Nat × Nat} (hp : e.b ≤ p.1 ∧ p.1 + p.2 ≤ e.b + e.len)
    (hr : Readable s e.b e.len) (i : Nat) :
    (inPiece p (e.b + i) → some (rdM (outPiece e s p).mems.host (e.a + i)) = devPlain s (e.b + i)) ∧
    (¬inPiece p (e.b + i) → rdM (outPiece e s p).mems.host (e.a + i) = rdM s.mems.host (e.a + i)) := by
  have hpart := hr.part hp.1 hp.2
  rw [outPiece_host, devRead_bytes hpart, rdM_wrBytes, plainBytes_length]
  refine ⟨fun hin => ?_, fun hout => if_neg (by omega)⟩
  rw [if_pos (by omega), plainBytes_getD hpart (by omega), show p.1 + (e.a + i - (e.a + (p.1 - e.b))) = e.b + i by omega]

/-- Pieces copied one after another: each byte of a piece stands at its place, every other place is as before. -/
theorem outPieces_byte {e : Ent} {l : List (Nat × Nat)} (hl : ∀ p ∈ l, e.b ≤ p.1 ∧ p.1 + p.2 ≤ e.b + e.len) {s : State}
    (hr : Readable s e.b e.len) (i : Nat) :
    ((∃ p ∈ l, inPiece p (e.b + i)) → some (rdM (forEach l (outPiece e) s).mems.host (e.a + i)) = devPlain s (e.b + i)) ∧
    ((∀ p ∈ l, ¬inPiece p (e.b + i)) → rdM (forEach l (outPiece e) s).mems.host (e.a + i) = rdM s.mems.host (e.a + i)) := by
  induction l generalizing s with
  | nil => exact ⟨fun ⟨_, hp, _⟩ => absurd hp List.not_mem_nil, fun _ => rfl⟩
  | cons p l ih =>
    have hdev := outPiece_sameDev e s p
    obtain ⟨hin, hout⟩ := ih (fun q hq => hl q (List.mem_cons_of_mem _ hq)) (hr.congr hdev)
    obtain ⟨hpin, hpout⟩ := outPiece_byte (hl p List.mem_cons_self) hr i
    rw [hdev.devPlain] at hin
    rw [forEach_cons]
    refine ⟨fun hex => ?_, fun hno => ?_⟩
    · by_cases hlater : ∃ q ∈ l, inPiece q (e.b + i)
      · exact hin hlater
      · obtain ⟨q, hq, hqi⟩ := hex
        rcases List.mem_cons.1 hq with rfl | hq
        · rw [hout fun r hr hri => hlater ⟨r, hr, hri⟩, hpin hqi]
        · exact absurd ⟨q, hq, hqi⟩ hlater
    · rw [hout fun q hq => hno q (List.mem_cons_of_mem _ hq), hpout (hno p List.mem_cons_self)]

theorem readable_of_copyCode {s : State} {f : Nat} {e : Ent} (h : copyCode s f e false = Code.done) : Readable s e.b e.len := by
  have hread := ((firstCode_done (by decide)).1 ((firstCode_done (by decide)).1 ((firstCode_done (by decide)).1
    ((firstCode_done (by decide)).1 h).2).2).2).1
  exact readable_of_devRead (by simpa using hread)

/-- What a COPY_OUT that passes does before its completion. -/
def outCopied (s : State) (e : Ent) : State := forEach (piecesOf 64 e.b e.len) (outPiece e) (raiseMem s 22 e.b e.len)

theorem outCopied_only (s : State) (e : Ent) : Keeps 35433481220 s (outCopied s e) := by
  refine forEach_keeps (by decide) _ _ _ (fun t p h => ?_) (raiseMem_keeps (by decide) s _ _ _ _ _ (Keeps.refl _ s))
  rw [outPiece_eq]
  exact hostStore_keeps (by decide) _ _ _ _ (ite_keeps (poisonSeenDev_keeps (by decide) t _ h) h)

theorem outCopied_rings (s : State) (e : Ent) : SameRings s (outCopied s e) :=
  (SameRings.of_keeps (raiseMem_only s 22 e.b e.len 0 false) (by decide) (by decide)).trans
    (.forEach _ (fun t p _ => outPiece_rings e t p) _)

theorem outCopied_dev (s : State) (e : Ent) : (outCopied s e).mems.dev = s.mems.dev :=
  (forEach_same (fun t => t.mems.dev) (fun t p => (outPiece_sameDev e t p).dev) _ _).trans (raiseMem_sameDev s 22 e.b e.len).dev

/-- Every byte of the range stands at its place in host memory. -/
theorem outCopied_byte {s : State} {e : Ent} (h : Readable s e.b e.len) {i : Nat} (hi : i < e.len) :
    some (rdM (outCopied s e).mems.host (e.a + i)) = devPlain s (e.b + i) := by
  have hraise := raiseMem_sameDev s 22 e.b e.len
  have hcover := piecesOf_cover (k := 64) (by decide) (Nat.le_add_right e.b i) (by omega : e.b + i < e.b + e.len)
  rw [← hraise.devPlain]
  exact (outPieces_byte (fun p hp => piecesOf_within (by decide) hp) (h.congr hraise) i).1 hcover

theorem exec_copyOut (s : State) (f : Nat) : exec (.copyOut f) s = .next (entryRow f 3 (copyOut f) s) := rfl

section
variable {s : State} {f : Nat} {e : Ent}

theorem copyOut_done {u : State} (h : copyCode u f e false = Code.done) :
    copyOut f e u = pushCpl (outCopied u e) f (copyCpl e 3 Code.done) := by
  unfold copyOut
  dsimp only
  rw [h, if_pos rfl]
  rfl

theorem copyOut_refused {u : State} (h : copyCode u f e false ≠ Code.done) :
    copyOut f e u = pushCpl u f (copyCpl e 3 (copyCode u f e false)) := by
  unfold copyOut
  dsimp only
  rw [if_neg h]
  rfl

variable (he : entryReady s f 3 e)
include he

theorem copyOut_acts {p : State → Prop} (h : p (copyOut f e (fetched s f))) : Acts (.copyOut f) s p :=
  acts_of_exec (by rw [exec_copyOut, entryRow_ready he]) h

/-- A COPY_OUT, passed or refused: its completion, device memory as it was; where it passed, the bytes in host memory. -/
theorem copyOut_copies : Acts (.copyOut f) s (fun t => headMoved s t f ∧
    cplWritten s t f (copyCpl e 3 (copyCode (fetched s f) f e false)) ∧ t.mems.dev = s.mems.dev ∧
    (copyCode (fetched s f) f e false = Code.done → ∀ i < e.len, (e.a + i < cplPlace s f ∨ cplPlace s f + 32 ≤ e.a + i) →
      some (rdM t.mems.host (e.a + i)) = devPlain s (e.b + i))) := by
  have hcarry := fetched_carrying he
  have hfetch := fetched_sameDev (s := s) he.2.1
  refine copyOut_acts he ?_
  by_cases hc : copyCode (fetched s f) f e false = Code.done
  · have hout := hcarry.step he.2.1 (outCopied_rings _ e) (outCopied_only _ e) (by decide) (by decide) (by decide)
    obtain ⟨hhead, hcpl⟩ := hout.completes he (copyCpl e 3 Code.done)
    rw [copyOut_done hc, hc]
    refine ⟨hhead, hcpl, ?_, fun _ i hi hclear => ?_⟩
    · rw [pushCpl_dev, outCopied_dev, hfetch.dev]
    · rw [hout.host he, rdM_wrBytes, Cpl.bytes_length, if_neg (by omega), outCopied_byte (readable_of_copyCode hc) hi,
        hfetch.devPlain]
  · obtain ⟨hhead, hcpl⟩ := hcarry.completes he (copyCpl e 3 (copyCode (fetched s f) f e false))
    rw [copyOut_refused hc]
    exact ⟨hhead, hcpl, (pushCpl_dev ..).trans hfetch.dev, fun h => absurd h hc⟩

end

/-! ## RELEASE (R231, R235) -/

theorem groupsOf_congr {s t : State} (hc : t.ctxs = s.ctxs) (hg : t.groups = s.groups) (f id : Nat) :
    groupsOf t f id = groupsOf s f id := by
  unfold groupsOf
  simp only [hg, groupAt_congr hg, ctxAt_congr hc]

theorem groupKey_congr {s t : State} (hc : t.ctxs = s.ctxs) (hg : t.groups = s.groups) (f id : Nat) :
    groupKey t f id = groupKey s f id := by
  unfold groupKey newestGroup
  simp only [groupsOf_congr hc hg, groupAt_congr hg, ctxAt_congr hc]

theorem groupAt_setGroup_other (s : State) {g h : Nat} (x : Group) (hne : h ≠ g) : groupAt (setGroup s g x) h = groupAt s h :=
  mapGet_put_other _ _ _ hne

/-- One context of a group freed: its slot, its replays, its sealed image and its record. -/
def freeMember (s : State) (x : Nat) : State :=
  let s := match slotOf s x with
    | some (n, c) => freeSlot s n c
    | none => s
  let a := (ctxAt s x).imageAddr
  let s := dropReplays s x
  setCtx { s with images := mapErase s.images a } x {}

theorem freeGroup_eq (s : State) (g : Nat) : freeGroup s g =
    recount (setGroup (forEach (groupAt s g).ctxs freeMember (clearSpans s g)) g {}) (groupAt s g).fn := rfl

theorem setRep_rings (s : State) (p : Nat) (e : Option RepEnt) : SameRings s (setRep s p e) :=
  (SameRings.set s JRNL_REPLAY_PENDING _ 0 0 (.inr (by simp only [Fld.addr]; omega))).trans (fun _ _ _ => rfl)

/-- A replay ended writes the journal and the count of R365. -/
theorem replaysEnded_rings (s : State) (x : Nat) : SameRings s (replaysEnded s x) := by
  refine .forEach _ (fun t p _ => ?_) s
  split
  · refine SameRings.trans (.forEach _ (fun u r _ => ?_) t) (setRep_rings _ _ _)
    exact .of_regsBut (journal_regsBut u _) (by simp [recordRegs])
  · exact .refl t

theorem dropReplays_rings (s : State) (x : Nat) : SameRings s (dropReplays s x) :=
  (replaysEnded_rings s x).trans (fun _ _ _ => setCtx_rdReg ..)

theorem freeMember_rings (s : State) (x : Nat) : SameRings s (freeMember s x) := by
  unfold freeMember
  dsimp only
  refine SameRings.trans ?_ ((dropReplays_rings _ x).trans (fun _ _ _ => setCtx_rdReg ..))
  split
  · exact .of_keeps (freeSlot_keeps (m := 2048) (by decide) s _ _ (Keeps.refl _ s)) (by decide) (by decide)
  · exact .refl s

theorem freeMember_groups (s : State) (x : Nat) : (freeMember s x).groups = s.groups := by
  unfold freeMember
  dsimp only
  rw [setCtx_groups]
  refine ((dropReplays_keeps (m := 42949682180) (by decide) _ x (Keeps.refl _ _)).2 .groups (by decide)).trans ?_
  split
  · exact (freeSlot_keeps (m := 2048) (by decide) s _ _ (Keeps.refl _ s)).2 .groups (by decide)
  · rfl

theorem freeMember_ctx_self (s : State) (x : Nat) : ctxAt (freeMember s x) x = {} := ctxAt_setCtx_self ..

theorem freeMember_ctx_other (s : State) {x y : Nat} (h : y ≠ x) : ctxAt (freeMember s x) y = ctxAt s y := by
  unfold freeMember
  dsimp only
  rw [ctxAt_setCtx_other _ _ h]
  refine Eq.trans (dropReplays_ctx_other _ h) ?_
  split
  · exact (freeSlot_keeps (m := 2048) (by decide) s _ _ (Keeps.refl _ s)).ctxAt (by decide) y
  · rfl

theorem freeMember_ctx (s : State) (x y : Nat) : ctxAt (freeMember s x) y = if y = x then {} else ctxAt s y := by
  split
  · next h => exact h ▸ freeMember_ctx_self s y
  · next h => exact freeMember_ctx_other s h

/-- Of contexts freed one after another each is empty, every other as before. -/
theorem freeMembers_ctx (l : List Nat) (s : State) (y : Nat) :
    ctxAt (forEach l freeMember s) y = if y ∈ l then {} else ctxAt s y := by
  induction l generalizing s with
  | nil => rfl
  | cons x l ih =>
    rw [forEach_cons, ih, freeMember_ctx]
    by_cases hl : y ∈ l
    · simp [hl]
    · simp [hl, List.mem_cons]

theorem recount_rings (s : State) (f : Nat) : SameRings s (recount s f) := by
  have hfree (v : Nat) : SameRings s (s.set HOST_CTX_FREE v) := .set _ _ _ _ _ (by simp only [Fld.addr]; omega)
  unfold recount
  dsimp only
  split
  · exact (hfree _).trans (.set _ HOST_VF_CTX_COUNT _ _ _ (by simp only [Fld.addr]; omega))
  · exact hfree _

theorem recount_only (s : State) (f : Nat) : Keeps 4 s (recount s f) := recount_keeps (by decide) s f (Keeps.refl _ s)

theorem clearSpans_only (s : State) (g : Nat) : Keeps 1024 s (clearSpans s g) := clearSpans_keeps (by decide) s g (Keeps.refl _ s)

section
variable (s : State) (g : Nat)

theorem freeGroup_rings : SameRings s (freeGroup s g) := by
  rw [freeGroup_eq]
  refine SameRings.trans (.of_keeps (clearSpans_only s g) (by decide) (by decide)) ?_
  refine SameRings.trans (.forEach (groupAt s g).ctxs (fun t x _ => freeMember_rings t x) _) ?_
  exact SameRings.trans (fun _ _ _ => setGroup_rdReg ..) (recount_rings _ _)

theorem freeGroup_ctx (x : Nat) : ctxAt (freeGroup s g) x = if x ∈ (groupAt s g).ctxs then {} else ctxAt s x := by
  rw [freeGroup_eq, (recount_only _ _).ctxAt (by decide), ctxAt_congr (setGroup_ctxs ..), freeMembers_ctx,
    (clearSpans_only s g).ctxAt (by decide)]

theorem freeGroup_group_self : groupAt (freeGroup s g) g = {} := by
  rw [freeGroup_eq, groupAt_congr ((recount_only _ _).2 .groups (by decide)), groupAt_setGroup]

theorem freeGroup_group_other {h : Nat} (hne : h ≠ g) : groupAt (freeGroup s g) h = groupAt s h := by
  have hmembers := forEach_same (·.groups) freeMember_groups (groupAt s g).ctxs (clearSpans s g)
  rw [freeGroup_eq, groupAt_congr ((recount_only _ _).2 .groups (by decide)), groupAt_setGroup_other _ _ hne,
    groupAt_congr hmembers, groupAt_congr ((clearSpans_only s g).2 .groups (by decide))]

end

/-- A group of s is no more, nor are its contexts. -/
def Freed (s t : State) (g : Nat) : Prop := groupAt t g = {} ∧ ∀ x ∈ (groupAt s g).ctxs, ctxAt t x = {}

section
variable {s t : State} {g h : Nat}

/-- What is freed stays freed. -/
theorem Freed.step (hf : Freed s t g) : Freed s (freeGroup t h) g := by
  obtain ⟨hgroup, hctxs⟩ := hf
  refine ⟨?_, fun x hx => ?_⟩
  · by_cases hgh : g = h
    · rw [hgh, freeGroup_group_self]
    · rw [freeGroup_group_other _ _ hgh, hgroup]
  · rw [freeGroup_ctx, hctxs x hx, ite_self]

theorem freed_freeGroup (hg : groupAt t g = groupAt s g ∨ Freed s t g) : Freed s (freeGroup t g) g := by
  rcases hg with hg | hg
  · exact ⟨freeGroup_group_self .., fun x hx => by rw [freeGroup_ctx, hg, if_pos hx]⟩
  · exact hg.step

/-- Groups freed one after another: each of them, and its contexts, is no more. -/
theorem freed_forEach {l : List Nat} (ht : ∀ g, groupAt t g = groupAt s g ∨ Freed s t g) (hl : g ∈ l ∨ Freed s t g) :
    Freed s (forEach l freeGroup t) g := by
  induction l generalizing t with
  | nil => exact hl.resolve_left List.not_mem_nil
  | cons h l ih =>
    rw [forEach_cons]
    refine ih (fun k => ?_) ?_
    · by_cases hk : k = h
      · exact .inr (hk ▸ freed_freeGroup (ht k))
      · exact (ht k).imp (fun hk' => (freeGroup_group_other _ _ hk).trans hk') Freed.step
    · rcases hl with hl | hl
      · rcases List.mem_cons.1 hl with rfl | hl
        · exact .inr (freed_freeGroup (ht g))
        · exact .inl hl
      · exact .inr hl.step

end

theorem freeGroups_only (l : List Nat) (s : State) : Keeps 42950749188 s (forEach l freeGroup s) :=
  forEach_keeps (by decide) _ _ _ (fun t g ht => freeGroup_keeps (by decide) t g ht) (Keeps.refl _ s)

/-- The completion of a RELEASE. -/
def releaseCpl (s : State) (f : Nat) (e : Ent) (code : Nat) : Cpl :=
  { code := code, typ := 4, image := e.a % 2 ^ 32, user := e.user, key := groupKey s f (e.a % 2 ^ 32) }

/-- One of the groups has a job, or jobs wait for it. -/
def groupsBusy (s : State) (l : List Nat) : Bool := l.any (fun g => (groupAt s g).job.isSome || !(groupAt s g).waiting.isEmpty)

theorem exec_release (s : State) (f : Nat) : exec (.release f) s = .next (entryRow f 4 (releaseEntry f) s) := rfl

section
variable {s : State} {f : Nat} {e : Ent}

theorem releaseEntry_fetched : releaseEntry f e (fetched s f) =
    let l := groupsOf s f (e.a % 2 ^ 32)
    let c := if l.isEmpty then Code.notPresent else if groupsBusy s l then Code.stateConflict else Code.done
    pushCpl (if c = Code.done then forEach l freeGroup (fetched s f) else fetched s f) f (releaseCpl s f e c) := by
  have hc := fetched_ctxs s f
  have hg := fetched_groups s f
  unfold releaseEntry groupsBusy releaseCpl
  simp only [groupsOf_congr hc hg, groupKey_congr hc hg, groupAt_congr hg]

variable (he : entryReady s f 4 e)
include he

theorem release_acts {p : State → Prop} (h : p (releaseEntry f e (fetched s f))) : Acts (.release f) s p :=
  acts_of_exec (by rw [exec_release, entryRow_ready he]) h

/-- A RELEASE that is refused: its completion, and nothing freed. -/
theorem release_refused {c : Nat} (h : releaseEntry f e (fetched s f) = pushCpl (fetched s f) f (releaseCpl s f e c)) :
    Acts (.release f) s (fun t => headMoved s t f ∧ cplWritten s t f (releaseCpl s f e c) ∧ t.ctxs = s.ctxs ∧ t.groups = s.groups) := by
  refine release_acts he ?_
  rw [h]
  exact (fetched_carrying he).completes_kept he _ (fetched_ctxs s f) (fetched_groups s f)

theorem release_absent (hl : groupsOf s f (e.a % 2 ^ 32) = []) :
    Acts (.release f) s (fun t => headMoved s t f ∧ cplWritten s t f (releaseCpl s f e Code.notPresent) ∧ t.ctxs = s.ctxs ∧
      t.groups = s.groups) := by
  refine release_refused he ?_
  rw [releaseEntry_fetched, hl]
  rfl

theorem release_busy (hb : groupsBusy s (groupsOf s f (e.a % 2 ^ 32)) = true) :
    Acts (.release f) s (fun t => headMoved s t f ∧ cplWritten s t f (releaseCpl s f e Code.stateConflict) ∧ t.ctxs = s.ctxs ∧
      t.groups = s.groups) := by
  refine release_refused he ?_
  rw [releaseEntry_fetched]
  generalize groupsOf s f (e.a % 2 ^ 32) = l at hb
  cases l with
  | nil => cases hb
  | cons g l => simp only [hb, List.isEmpty_cons, Bool.false_eq_true, if_false, if_true]; rfl

theorem release_frees (hl : groupsOf s f (e.a % 2 ^ 32) ≠ []) (hb : groupsBusy s (groupsOf s f (e.a % 2 ^ 32)) = false) :
    Acts (.release f) s (fun t => headMoved s t f ∧ cplWritten s t f (releaseCpl s f e Code.done) ∧
      ∀ g ∈ groupsOf s f (e.a % 2 ^ 32), Freed s t g) := by
  have heq : releaseEntry f e (fetched s f) =
      pushCpl (forEach (groupsOf s f (e.a % 2 ^ 32)) freeGroup (fetched s f)) f (releaseCpl s f e Code.done) := by
    rw [releaseEntry_fetched]
    simp only [hb, List.isEmpty_iff, hl, Bool.false_eq_true, if_false, if_true]
  have hcarry := (fetched_carrying he).step he.2.1
    (.forEach _ (fun t g _ => freeGroup_rings t g) _) (freeGroups_only (groupsOf s f (e.a % 2 ^ 32)) _)
    (by decide) (by decide) (by decide)
  obtain ⟨hhead, hcpl⟩ := hcarry.completes he (releaseCpl s f e Code.done)
  refine release_acts he ?_
  rw [heq]
  refine ⟨hhead, hcpl, fun g hg => ?_⟩
  obtain ⟨hgroup, hctxs⟩ := freed_forEach (s := s) (g := g) (fun k => .inl (groupAt_congr (fetched_groups s f) k)) (.inl hg)
  have hk := pushCpl_only (forEach (groupsOf s f (e.a % 2 ^ 32)) freeGroup (fetched s f)) f (releaseCpl s f e Code.done)
  exact ⟨(groupAt_congr (hk.2 .groups (by decide)) g).trans hgroup,
    fun x hx => (hk.ctxAt (by decide) x).trans (hctxs x hx)⟩

end

/-! ## Entries of a submission ring -/

theorem fetched_ctxAt (s : State) (f x : Nat) : ctxAt (fetched s f) x = ctxAt s x := ctxAt_congr (fetched_ctxs s f) x

theorem fetched_groupAt (s : State) (f g : Nat) : groupAt (fetched s f) g = groupAt s g := groupAt_congr (fetched_groups s f) g

section
variable {s : State} {f : Nat} {e : Ent} (he : entryReady s f 1 e) {g : Nat}
  (hg : newestGroup (fetched s f) f (e.a % 2 ^ 32) = some g)
include he hg

theorem job_full (hw : 64 ≤ (groupAt s g).waiting.length) :
    Acts (.job f) s (fun t => headMoved s t f ∧ cplWritten s t f (jobRefusal e Code.busy (ctxAt s g).img.key.toNat) ∧
      t.ctxs = s.ctxs ∧ t.groups = s.groups) := by
  have hentry := jobEntry_full hg (by rwa [fetched_groupAt])
  rw [fetched_ctxAt] at hentry
  exact job_refused he hentry (.refl _) (Keeps.refl _ _)

variable (hw : (groupAt s g).waiting.length < 64)
include hw

theorem job_policed (ha : (admission (fetched s f) f (shapeOf (ctxAt s g).img)).1 = false) :
    Acts (.job f) s (fun t => headMoved s t f ∧ cplWritten s t f (jobRefusal e Code.policed (ctxAt s g).img.key.toNat) ∧
      t.ctxs = s.ctxs ∧ t.groups = s.groups) := by
  have hentry := jobEntry_policed hg (by rwa [fetched_groupAt]) (by rwa [fetched_ctxAt])
  rw [fetched_ctxAt] at hentry
  exact job_refused he hentry (admission_rings _ _ _) (admission_only ..)

/-- What an admitted JOB does: it begins, or waits as the last. -/
theorem job_admitted (ha : (admission (fetched s f) f (shapeOf (ctxAt s g).img)).1 = true) {p : State → Prop}
    (hp : ∀ u, Carrying s u f → u.ctxs = s.ctxs → u.groups = s.groups →
      p (if (groupAt s g).job.isSome then
          setGroup u g { groupAt s g with waiting := (groupAt s g).waiting ++ [{ fn := f, user := e.user }] }
        else startJob u g { fn := f, user := e.user })) : Acts (.job f) s p := by
  have hentry := jobEntry_admitted hg (by rwa [fetched_groupAt]) (by rwa [fetched_ctxAt])
  rw [fetched_ctxAt, fetched_groupAt] at hentry
  refine job_acts he ?_
  rw [hentry]
  have hk := admission_only (fetched s f) f (shapeOf (ctxAt s g).img)
  exact hp _ ((fetched_carrying he).step he.2.1 (admission_rings _ _ _) hk (by decide) (by decide) (by decide))
    ((hk.2 .ctxs (by decide)).trans (fetched_ctxs s f)) ((hk.2 .groups (by decide)).trans (fetched_groups s f))

variable (ha : (admission (fetched s f) f (shapeOf (ctxAt s g).img)).1 = true)
include ha

theorem job_starts (hjob : (groupAt s g).job = none) : Acts (.job f) s (fun t => headMoved s t f ∧
    groupAt t g = { groupAt s g with job := some { fn := f, user := e.user } } ∧
    ∀ x, ctxAt t x = if x ∈ (groupAt s g).ctxs then jobStarted (ctxAt s x) else ctxAt s x) := by
  refine job_admitted he hg hw ha fun u hu hctxs hgroups => ?_
  rw [if_neg (by simp [hjob])]
  refine ⟨(hu.keeps he.2.1 (startJob_only ..) (by decide) (by decide) (by decide) (by decide)).head, ?_, fun x => ?_⟩
  · rw [startJob_group, groupAt_congr hgroups]
  · rw [startJob_ctx, groupAt_congr hgroups, ctxAt_congr hctxs]

theorem job_waits (hjob : (groupAt s g).job ≠ none) : Acts (.job f) s (fun t => headMoved s t f ∧
    groupAt t g = { groupAt s g with waiting := (groupAt s g).waiting ++ [{ fn := f, user := e.user }] } ∧ t.ctxs = s.ctxs) := by
  refine job_admitted he hg hw ha fun u hu hctxs hgroups => ?_
  rw [if_pos (Option.isSome_iff_ne_none.2 hjob)]
  refine ⟨(hu.keeps he.2.1 (setGroup_keeps (m := 16384) (by decide) _ _ _ (Keeps.refl _ u)) (by decide) (by decide) (by decide)
    (by decide)).head, groupAt_setGroup .., (setGroup_ctxs ..).trans hctxs⟩

end

/-- Settles O26, entry by entry: the head is moved first, and what an entry does before its completion (the tokens of the
admission, the copied bytes, the groups freed) leaves the function's rings, so that the record is written at the place that the
tail had. BUSY before the admission is log 250, the codes of a COPY are log 243. -/
theorem ringEntries : Obligations.RingEntries := by
  unfold Obligations.RingEntries
  refine ⟨fun s f e he => ⟨fun hnone => ?_, fun g hg => ⟨job_full he hg, job_policed he hg, fun hw ha hjob => ?_,
    job_waits he hg⟩⟩, fun s f e he => ⟨copyIn_refused he, fun hc hfree => ?_, copyIn_waits he⟩,
    fun s f e he => copyOut_copies he, fun s f e he => ⟨release_absent he, release_busy he, release_frees he⟩⟩
  · exact job_refused he (jobEntry_absent hnone) (.refl _) (Keeps.refl _ _)
  · obtain ⟨t, hexec, hhead, hgroup, hctx⟩ := job_starts he hg hw ha hjob
    refine acts_of_exec hexec ⟨hhead, hgroup, fun x hx => ?_, fun x hx => by rw [hctx, if_neg hx]⟩
    rw [hctx, if_pos hx]
    exact ⟨rfl, rfl, rfl, rfl⟩
  · dsimp only
    rw [hc]
    exact copyIn_stores he hc hfree

end Sys2Proof.Machine
end

section
/-! PROOFS. A context made resident (09_contexts_tenants.md R229; 16_modes.md R390). -/

namespace Sys2Proof.Machine

/-! ## The cores that the pacing rules skip (16_modes.md R390) -/

/-- Every register reads as before but the counts of pacing clashes. -/
def ClashOnly (s t : State) : Prop := ∀ o, o % 0x40000 ≠ 0x3E700 → rdReg t o = rdReg s o

theorem ClashOnly.refl (s : State) : ClashOnly s s := fun _ _ => rfl

theorem ClashOnly.trans {s t u : State} (h : ClashOnly s t) (g : ClashOnly t u) : ClashOnly s u :=
  fun o ho => (g o ho).trans (h o ho)

theorem ClashOnly.get {s t : State} (h : ClashOnly s t) (g : Fld) (i k : Nat) (ho : g.addr i k % 0x40000 ≠ 0x3E700) :
    t.get g i k = s.get g i k := by
  unfold State.get
  rw [h _ ho]

theorem noteClash_clashOnly (s : State) (n x cause : Nat) : ClashOnly s (noteClash s n x cause) := by
  have hset (t : State) (g : Fld) (v : Nat) (hg : g.off = 0x103E700 ∧ g.s1 = 0x40000 ∧ g.s2 = 0) : ClashOnly t (t.set g v n) :=
    fun o ho => set_regsBut t g v n 0 o (by simp only [List.mem_singleton, Fld.addr, hg]; omega)
  exact ((hset s _ _ (by decide)).trans (hset _ _ _ (by decide))).trans (hset _ _ _ (by decide))

/-- The clashes of a placement noted, core by core. -/
def clashesNoted (s : State) (x : Nat) (l : List (Nat × Nat)) : State := forEach l (fun s p => noteClash s p.1 x p.2) s

section
variable (s : State) (x : Nat) (l : List (Nat × Nat))

theorem clashesNoted_only : Keeps 4 s (clashesNoted s x l) :=
  forEach_keeps (by decide) _ _ _ (fun t _ h => noteClash_keeps (by decide) t _ _ _ h) (Keeps.refl _ s)

theorem clashesNoted_clashOnly : ClashOnly s (clashesNoted s x l) :=
  List.foldlRecOn l _ (ClashOnly.refl s) (fun t h _ _ => h.trans (noteClash_clashOnly t _ _ _))

end

/-! ## The hallmark of a sealed image (07_hallmark.md R193) -/

section
variable {s t : State} (hk : Keeps 4 s t) (hr : ClashOnly s t)
include hk hr

theorem stackOf_clashOnly (a : Nat) : stackOf t a = stackOf s a := by
  have hlive : liveStacks t = liveStacks s := liveStacks_congr (hr.get _ _ _ (by decide))
  have hmove : t.move = s.move := hk.2 .move (by decide)
  have hstripe (b : Nat) (hb : b < 4096) : stripeOf t b = stripeOf s b := by
    unfold stripeOf
    rw [hr _ (by simp only [Fld.addr]; omega)]
  unfold stackOf survivors
  dsimp only
  rw [hlive, hmove, hr.get MEM_STATUS.MOVE_STACK 0 0 (by decide), hstripe _ (Nat.mod_lt _ (by decide))]

theorem badDev_clashOnly (a n : Nat) : badDev t a n = badDev s a n := by
  unfold badDev
  simp only [stackOf_clashOnly hk hr, show t.mems = s.mems from hk.2 .mems (by decide)]
  refine congrArg _ (congrArg (List.any _) (funext fun g => ?_))
  rw [hr.get _ _ _ (by simp only [Fld.addr]; omega)]

theorem hallmarkOk_clashOnly (a : Nat) (g : Img) : hallmarkOk t a g = hallmarkOk s a g := by
  have hbyte (b : Nat) : devByte t b = devByte s b := by
    unfold devByte
    rw [hk.ctxAt (by decide), show t.mems = s.mems from hk.2 .mems (by decide)]
  unfold hallmarkOk
  simp only [badDev_clashOnly hk hr, hbyte, show t.sealKey = s.sealKey from hk.2 .sealKey (by decide)]

end

/-! ## A place on a core (R229) -/

theorem fullSlots_congr {s t : State} (h : t.cores = s.cores) (n : Nat) : fullSlots t n = fullSlots s n := by
  unfold fullSlots
  rw [coreAt_congr h]

theorem lowBase_congr {s t : State} (h : t.cores = s.cores) (n : Nat) (l : List Nat) (u : Nat) :
    lowBase t n l u = lowBase s n l u := by
  unfold lowBase baseFits
  rw [coreAt_congr h]

/-- The lowest slot of core n that holds no resident. -/
def freeSlotOf (s : State) (n : Nat) : Option Nat := (List.range 4).find? (fun c => !(fullSlots s n).elem c)

theorem freeSlotOf_some {s : State} {n : Nat} (h : (fullSlots s n).length < 4) :
    ∃ c < 4, c ∉ fullSlots s n ∧ freeSlotOf s n = some c := by
  cases hfind : freeSlotOf s n with
  | some c =>
    have hfree := List.find?_some hfind
    exact ⟨c, List.mem_range.1 (List.mem_of_find?_eq_some hfind), by simpa using hfree, rfl⟩
  | none =>
    have hall : fullSlots s n = List.range 4 := by
      refine List.filter_eq_self.2 fun c hc => ?_
      have hmem : c ∈ fullSlots s n := by simpa using List.find?_eq_none.1 hfind c hc
      exact (List.mem_filter.1 hmem).2
    rw [hall] at h
    exact absurd h (by decide)

section
variable {s : State} {n x b : Nat} (hfull : (fullSlots s n).length < 4)
  (hbase : lowBase s n (fullSlots s n) (regionOf (ctxAt s x).img) = some b)
include hfull hbase

/-- A core with a slot and a region free takes the context without an eviction. -/
theorem placeOn_free : ∃ c < 4, c ∉ fullSlots s n ∧ placeOn s n x false = some (loadSlot s n c b x) := by
  obtain ⟨c, hc, hfree, hfind⟩ := freeSlotOf_some hfull
  have hplan : evictPlan s n (regionOf (ctxAt s x).img) (fullSlots s n) [] = some [] := by
    rw [evictPlan, if_pos ⟨hfull, by rw [hbase]; rfl⟩]
  refine ⟨c, hc, hfree, ?_⟩
  unfold freeSlotOf at hfind
  unfold placeOn
  simp only [Bool.false_eq_true, if_false, hplan, forEach, List.foldl_nil, hfind, hbase]

theorem placeFirst_free (l : List Nat) :
    ∃ c < 4, c ∉ fullSlots s n ∧ placeFirst s x false (n :: l) = some (loadSlot s n c b x) := by
  obtain ⟨c, hc, hfree, hplace⟩ := placeOn_free hfull hbase
  exact ⟨c, hc, hfree, by rw [placeFirst, hplace]⟩

end

/-! ## The context loaded (R229) -/

/-- A context as it stands resident on core n. -/
def residentOn (y : Ctx) (n : Nat) : Ctx :=
  { y with state := 3, core := some n, live := y.saved, pin := y.pin || y.img.cls == 0 || y.img.cls == 1 }

/-- A context has been loaded into slot c of core n at base b: its record, its image and its slot. -/
structure MadeResident (s t : State) (n c b x : Nat) : Prop where
  ctx : ctxAt t x = residentOn (ctxAt s x) n
  others : ∀ z, z ≠ x → ctxAt t z = ctxAt s z
  image : rdBytes t.mems.cmd (n * 0x40000 + b * 256) (ctxAt s x).img.bytes.length = (ctxAt s x).img.bytes
  slot : ((coreAt t n).slot c).valid = true ∧ ((coreAt t n).slot c).ctx = x ∧ ((coreAt t n).slot c).base = b

/-- The slot, the bytes and the record of a context that is loaded. -/
def loadedState (s : State) (n c b x : Nat) : State :=
  let y := ctxAt s x
  let z := (coreAt s n).slot c
  let s := setCore s n ((coreAt s n).setSlot c { valid := true, ctx := x, base := b, size := regionOf y.img
                                                 discarded := z.discarded, switches := z.switches, heldMark := nowNs s })
  setCtx { s with mems := { s.mems with cmd := wrBytes s.mems.cmd (n * 0x40000 + b * 256) y.img.bytes } } x (residentOn y n)

theorem loadedState_made (s : State) (n c b x : Nat) : MadeResident s (loadedState s n c b x) n c b x := by
  have hcore : coreAt (loadedState s n c b x) n = (coreAt s n).setSlot c _ := coreAt_setCore ..
  exact ⟨ctxAt_setCtx_self .., fun z hz => ctxAt_setCtx_other _ _ hz, rdBytes_wrBytes .., by
    rw [hcore, Core.slot_setSlot]; exact ⟨rfl, rfl, rfl⟩⟩

theorem MadeResident.keeps {s t u : State} {n c b x m : Nat} (h : MadeResident s t n c b x) (hk : Keeps m t u)
    (hc : m.testBit Part.ctxs.idx = false) (hm : m.testBit Part.mems.idx = false) (hn : m.testBit Part.cores.idx = false) :
    MadeResident s u n c b x := by
  refine ⟨(hk.ctxAt hc x).trans h.ctx, fun z hz => (hk.ctxAt hc z).trans (h.others z hz), ?_, ?_⟩
  · rw [show u.mems = t.mems from hk.2 .mems hm]
    exact h.image
  · rw [hk.coreAt hn]
    exact h.slot

theorem loadSlot_made {s : State} {n c b x : Nat} (h : hallmarkOk s (ctxAt s x).imageAddr (ctxAt s x).img = true) :
    MadeResident s (loadSlot s n c b x) n c b x := by
  unfold loadSlot
  dsimp only
  rw [if_pos h]
  refine MadeResident.keeps (t := loadedState s n c b x) (loadedState_made ..) (m := 16388) ?_ (by decide) (by decide) (by decide)
  exact trace_keeps (by decide) _ _ _ _ _ _ _ _ _ (ite_keeps (Keeps.refl _ _) (setGroup_keeps (by decide) _ _ _ (Keeps.refl _ _)))

theorem exec_contextResident (s : State) (x : Nat) (core : Option Nat) :
    exec (.contextResident ⟨x, core⟩) s = .next (makeResident s x core) := rfl

section
variable {s : State} {x n b : Nat} {l : List Nat} {core : Option Nat}

/-- A READY context goes to the first core that the pacing rules allow, where that core has room. -/
theorem makeResident_first (hstate : (ctxAt s x).state = 2) (hhalt : (ctxAt s x).halt = false)
    (hfrozen : frozen s (ctxAt s x).fn = false) (hflr : (fnAt s (ctxAt s x).fn).flr = 0)
    (hcores : (coresFor s x core).filter (fun m => (pacingClash s m x).isNone) = n :: l)
    (hfull : (fullSlots s n).length < 4) (hbase : lowBase s n (fullSlots s n) (regionOf (ctxAt s x).img) = some b)
    (hmark : hallmarkOk s (ctxAt s x).imageAddr (ctxAt s x).img = true) :
    ∃ c < 4, c ∉ fullSlots s n ∧ MadeResident s (makeResident s x core) n c b x := by
  have hmake (u : State) (t : State)
      (hu : u = clashesNoted s x ((coresFor s x core).filterMap (fun n => (pacingClash s n x).map (fun c => (n, c)))))
      (ht : placeFirst u x false (n :: l) = some t) : makeResident s x core = t := by
    unfold makeResident
    dsimp only
    rw [if_neg (by simp [hstate, hhalt, hfrozen, hflr]), hcores, ← clashesNoted, ← hu, ht]
  generalize hu : clashesNoted s x _ = u at hmake
  have hk : Keeps 4 s u := hu ▸ clashesNoted_only ..
  have hr : ClashOnly s u := hu ▸ clashesNoted_clashOnly _ _ _
  have hcore : u.cores = s.cores := hk.2 .cores (by decide)
  have hctx := hk.ctxAt (by decide)
  obtain ⟨c, hc, hfree, hplace⟩ := placeFirst_free (s := u) (n := n) (x := x) (b := b) (by rwa [fullSlots_congr hcore])
    (by rwa [fullSlots_congr hcore, lowBase_congr hcore, hctx]) l
  rw [hmake u _ rfl hplace]
  rw [fullSlots_congr hcore] at hfree
  obtain ⟨hself, hothers, himage, hslot⟩ := loadSlot_made (n := n) (c := c) (b := b)
    (show hallmarkOk u (ctxAt u x).imageAddr (ctxAt u x).img = true by rw [hctx, hallmarkOk_clashOnly hk hr, hmark])
  rw [hctx] at hself himage
  exact ⟨c, hc, hfree, hself, fun z hz => (hothers z hz).trans (hctx z), himage, hslot⟩

end

end Sys2Proof.Machine
end

section
/-! PROOFS. The end of a group's job (09_contexts_tenants.md R235, R236, R244). -/

namespace Sys2Proof.Machine

/-! ## The counts of jobs (R236) -/

/-- Every register from the first count of jobs on reads as before. -/
def SameCounts (s t : State) : Prop := ∀ o, HOST_JOBS_DONE_LO.off ≤ o → rdReg t o = rdReg s o

theorem SameCounts.refl (s : State) : SameCounts s s := fun _ _ => rfl

theorem SameCounts.trans {s t u : State} (h : SameCounts s t) (g : SameCounts t u) : SameCounts s u :=
  fun o ho => (g o ho).trans (h o ho)

theorem SameCounts.of_regsBut {l : List Nat} {s t : State} (h : regsBut l s t) (hl : ∀ o ∈ l, o < HOST_JOBS_DONE_LO.off) :
    SameCounts s t :=
  fun o ho => h o fun hm => absurd (hl o hm) (Nat.not_lt.2 ho)

theorem SameCounts.set (s : State) (g : Fld) (v i k : Nat) (h : g.addr i k < HOST_JOBS_DONE_LO.off) :
    SameCounts s (s.set g v i k) := .of_regsBut (set_regsBut s g v i k) (by simpa using h)

theorem SameCounts.of_keeps {m : Nat} {s t : State} (h : Keeps m s t) (hr : m.testBit Part.regs.idx = false)
    (hb : m.testBit Part.behaveReset.idx = false) : SameCounts s t := .of_regsBut (regsBut_of_keeps h hr hb []) (by simp)

theorem SameCounts.forEach {α : Type} {f : State → α → State} (hf : ∀ s a, SameCounts s (f s a)) (l : List α) (s : State) :
    SameCounts s (forEach l f s) :=
  List.foldlRecOn l f (SameCounts.refl s) (fun t h a _ => h.trans (hf t a))

/-- The jobs of function f that have ended with DONE. -/
def jobsDone (s : State) (f : Nat) : Nat := s.get2 HOST_JOBS_DONE_LO HOST_JOBS_DONE_HI f

theorem SameCounts.jobsDone {s t : State} (h : SameCounts s t) (f : Nat) : jobsDone t f = jobsDone s f := by
  unfold Machine.jobsDone State.get2 State.get
  rw [h _ (by simp only [Fld.addr]; omega), h _ (by simp only [Fld.addr]; omega)]

theorem tbSpend_counts (s : State) {t : Nat} (ht : t < 256) (b u : Nat) : SameCounts s (tbSpend s t b u) := by
  unfold tbSpend
  split
  · unfold State.setS
    refine SameCounts.set _ _ _ _ _ ?_
    rcases b with _ | _ | _ <;> simp only [tbTokens, Fld.addr] <;> omega
  · exact .refl s

theorem chargeExcess_counts (s : State) (t : Nat) (d u : Demand) : SameCounts s (chargeExcess s t d u) := by
  unfold chargeExcess
  split
  · exact .refl s
  · next ht => exact .forEach (fun v b => tbSpend_counts v (by omega) b _) _ s

section
variable {f : Nat} (hf : f ≤ 256)
include hf

/-- A ring's tail lies below the counts. -/
theorem ringPut_counts (s : State) (a : Nat) (r : Bytes) {tail : Fld} (hs : tail.s1 = 0x40)
    (ho : tail.off < HOST_FN_STATUS.W.off + 0x40) (v : Nat) (y : FnSet) (k : Nat) : SameCounts s (ringPut s f a r tail v y k) :=
  (SameCounts.of_keeps (hostStore_only s a r false) (by decide) (by decide)).trans
    ((SameCounts.set _ tail v f 0 (by dsimp only at ho; simp only [Fld.addr, hs]; omega)).trans
      (.of_keeps (ringPut_keeps s f a r tail v y k) (by decide) (by decide)))

theorem drainRes_counts (k : Nat) (s : State) : SameCounts s (drainRes f k s) := by
  induction k generalizing s with
  | zero => exact .refl s
  | succ k ih =>
    unfold drainRes
    dsimp only
    split
    · exact .refl s
    · split
      · exact .refl s
      · exact (ringPut_counts hf s _ _ rfl (by decide) _ _ _).trans (ih _)

theorem drainCpl_counts (k : Nat) (s : State) : SameCounts s (drainCpl f k s) := by
  induction k generalizing s with
  | zero => exact .refl s
  | succ k ih =>
    unfold drainCpl
    dsimp only
    split
    · exact .refl s
    · split
      · exact .refl s
      · exact (ringPut_counts hf s _ _ rfl (by decide) _ _ _).trans (ih _)

theorem pushCpl_counts (s : State) (c : Cpl) : SameCounts s (pushCpl s f c) := by
  unfold pushCpl
  split
  · exact SameCounts.trans (fun _ _ => setFn_rdReg ..) ((drainRes_counts hf _ _).trans (drainCpl_counts hf _ _))
  · exact .refl s

theorem settleStop_counts (s : State) : SameCounts s (settleStop s f) := by
  refine .of_regsBut (settleStop_regsBut s f) ?_
  simp only [List.forall_mem_cons, Fld.addr]
  exact ⟨by omega, by decide, by simp⟩

end

/-- A job that has ended with DONE is counted for its function. -/
theorem countJob_done {s : State} {f : Nat} (hf : f < 256) (hb : s.behaveReset = []) :
    jobsDone (countJob s f true) f = (jobsDone s f + 1) % 2 ^ 64 := by
  unfold countJob
  rw [if_neg (by omega), if_pos rfl]
  exact get2_set2 s _ _ _ _ _ hb ⟨rfl, rfl⟩ ⟨rfl, rfl⟩ (by simp only [Fld.addr]; omega)

/-! ## The stages of a job's end (R235) -/

/-- A context that is in no job. -/
def jobless (y : Ctx) : Ctx := { y with job := false }

/-- The contexts of a group leave the job that ends. -/
def jobLeft (s : State) (l : List Nat) : State := ctxsChanged jobless l (forEach l (fun s x => toIdle s x) s)

/-- The end of a job told: its completion record, and its code to the serving slot. -/
def jobAnswered (s : State) (j : Job) (c : Cpl) : State :=
  let s := if j.fromRing then pushCpl s j.fn c else s
  match j.sj with
  | some k => setSj s k { sjAt s k with stepCode := some Code.done }
  | none => s

/-- A group after its job: without one, or with the next of those that waited. -/
def nextJob (s : State) (g : Nat) (waiting : List Job) : State :=
  let s := setGroup s g { groupAt s g with job := none }
  match waiting with
  | [] => s
  | k :: t => startJob (setGroup s g { groupAt s g with waiting := t }) g k

/-- A job that ends with DONE and is counted. -/
def jobCounted (s : State) (l : List Nat) (f : Nat) (d u : Demand) : State := countJob (chargeExcess (jobLeft s l) f d u) f true

/-- The completion record of a job that ends with DONE. -/
def jobCpl (img : Img) (j : Job) : Cpl :=
  { code := Code.done, typ := 1, ctx := match j.failed with | some (_, x, _) => x | none => 0xFFFF
    image := img.id.toNat, user := j.user, key := img.key.toNat, tag := match j.failed with | some (_, _, t) => t | none => 0 }

theorem endJob_done {s : State} {g : Nat} {j : Job} (h : (groupAt s g).job = some j) (use : Demand) :
    endJob s g Code.done use = settleStop (nextJob
      (jobAnswered (jobCounted s (groupAt s g).ctxs j.fn (shapeOf (ctxAt s g).img) use) j (jobCpl (ctxAt s g).img j))
      g (groupAt s g).waiting) j.fn := by
  unfold endJob
  extract_lets w
  rw [show w.job = some j from h]
  rfl

section
variable (s : State) (l : List Nat)

theorem jobLeft_only : Keeps 10240 s (jobLeft s l) :=
  forEach_keeps (by decide) _ _ _ (fun _ _ h => setCtx_keeps (by decide) _ _ _ h)
    (forEach_keeps (by decide) _ _ _ (fun _ _ h => toIdle_keeps (by decide) _ _ h) (Keeps.refl _ s))

theorem jobLeft_ctx {x : Nat} (hx : x ∈ l) : (ctxAt (jobLeft s l) x).job = false := by
  rw [jobLeft, ctxAt_ctxsChanged (u := jobless) (fun _ => rfl), if_pos hx]
  rfl

variable (f : Nat) (d u : Demand)

theorem jobCounted_only : Keeps 10244 s (jobCounted s l f d u) := by
  refine countJob_keeps (by decide) _ _ _ (chargeExcess_keeps (by decide) _ _ _ _ ?_)
  exact forEach_keeps (by decide) _ _ _ (fun _ _ h => setCtx_keeps (by decide) _ _ _ h)
    (forEach_keeps (by decide) _ _ _ (fun _ _ h => toIdle_keeps (by decide) _ _ h) (Keeps.refl _ s))

/-- The job's contexts have left it, and the count of its function is one more. -/
theorem jobCounted_ctx {x : Nat} (hx : x ∈ l) : (ctxAt (jobCounted s l f d u) x).job = false := by
  have hk : Keeps 4 (jobLeft s l) (jobCounted s l f d u) :=
    countJob_keeps (by decide) _ _ _ (chargeExcess_keeps (by decide) _ _ _ _ (Keeps.refl _ _))
  rw [hk.ctxAt (by decide), jobLeft_ctx s l hx]

variable {f} (hf : f < 256) (hb : s.behaveReset = [])
include hf hb

theorem jobCounted_counts : jobsDone (jobCounted s l f d u) f = (jobsDone s f + 1) % 2 ^ 64 := by
  have hleft := jobLeft_only s l
  have hbehave : (chargeExcess (jobLeft s l) f d u).behaveReset = [] :=
    ((chargeExcess_keeps (m := 4) (by decide) _ _ _ _ (Keeps.refl _ _)).2 .behaveReset (by decide)).trans
      ((hleft.2 .behaveReset (by decide)).trans hb)
  rw [jobCounted, countJob_done hf hbehave, (chargeExcess_counts _ _ _ _).jobsDone,
    (SameCounts.of_keeps hleft (by decide) (by decide)).jobsDone]

end

section
variable (s : State) (j : Job) (c : Cpl)

theorem jobAnswered_only : Keeps 1210123268 s (jobAnswered s j c) := by
  unfold jobAnswered
  dsimp only
  have hpush : Keeps 1210123268 s (if j.fromRing then pushCpl s j.fn c else s) :=
    ite_keeps (pushCpl_keeps (by decide) s _ _ (Keeps.refl _ s)) (Keeps.refl _ s)
  split
  · exact setSj_keeps (by decide) _ _ _ hpush
  · exact hpush

theorem jobAnswered_counts (hf : j.fn ≤ 256) : SameCounts s (jobAnswered s j c) := by
  unfold jobAnswered
  dsimp only
  have hpush : SameCounts s (if j.fromRing then pushCpl s j.fn c else s) := by
    split
    · exact pushCpl_counts hf s c
    · exact .refl s
  split
  · exact hpush.trans (fun _ _ => setSj_rdReg ..)
  · exact hpush

variable (g : Nat) (k : Job) (q : List Job)

theorem nextJob_only (l : List Job) : Keeps 24576 s (nextJob s g l) := by
  unfold nextJob
  dsimp only
  have hset (t : State) (x : Group) (h : Keeps 24576 s t) : Keeps 24576 s (setGroup t g x) := setGroup_keeps (by decide) _ _ _ h
  split
  · exact hset _ _ (Keeps.refl _ s)
  · exact startJob_keeps (by decide) _ _ _ (hset _ _ (hset _ _ (Keeps.refl _ s)))

theorem nextJob_nil : (groupAt (nextJob s g []) g).job = none ∧ (nextJob s g []).ctxs = s.ctxs := by
  unfold nextJob
  exact ⟨by rw [groupAt_setGroup], setGroup_ctxs ..⟩

/-- The next of the waiting jobs begins at the streams' first commands. -/
theorem nextJob_cons :
    groupAt (nextJob s g (k :: q)) g = { groupAt s g with job := some k, waiting := q } ∧
    ∀ x ∈ (groupAt s g).ctxs, ∃ y, ctxAt (nextJob s g (k :: q)) x = jobStarted y := by
  unfold nextJob
  dsimp only
  simp only [startJob_group, startJob_ctx, groupAt_setGroup]
  exact ⟨trivial, fun x hx => ⟨_, if_pos hx⟩⟩

end

/-! ## JOB_COMPLETE -/

theorem exec_jobComplete (s : State) (g a m p : Nat) :
    exec (.jobComplete g a m p) s = .next (jobComplete s g { arr := a, mem := m, fab := p }) := rfl

theorem jobComplete_frozen {s : State} {g : Nat} (h : frozen s (groupAt s g).fn = true) (use : Demand) : jobComplete s g use = s := by
  unfold jobComplete
  exact if_pos h

theorem jobComplete_done {s : State} {g : Nat} {j : Job} (hjob : (groupAt s g).job = some j) (hctxs : (groupAt s g).ctxs ≠ [])
    (hfrozen : frozen s (groupAt s g).fn = false) (hfailed : j.failed = none)
    (hdone : ∀ x ∈ (groupAt s g).ctxs, ctxDone s x = true) (use : Demand) : jobComplete s g use = endJob s g Code.done use := by
  have hall : (!(groupAt s g).ctxs.isEmpty && (groupAt s g).ctxs.all (ctxDone s)) = true := by
    simpa [hctxs] using hdone
  unfold jobComplete
  dsimp only
  rw [if_neg (by simp [hfrozen]), hjob]
  dsimp only
  rw [hfailed]
  exact if_pos hall

/-- What the end of a job leaves: the count of its function, the group without it, and the next job begun. -/
theorem endJob_ends {s : State} {g : Nat} {j : Job} (hjob : (groupAt s g).job = some j) (hb : s.behaveReset = []) (use : Demand) :
    let w := groupAt s g
    let t := endJob s g Code.done use
    (j.fn < 256 → jobsDone t j.fn = (jobsDone s j.fn + 1) % 2 ^ 64) ∧
    (w.waiting = [] → (groupAt t g).job = none ∧ ∀ x ∈ w.ctxs, (ctxAt t x).job = false) ∧
    (∀ k q, w.waiting = k :: q → (groupAt t g).job = some k ∧ (groupAt t g).waiting = q ∧
      ∀ x ∈ w.ctxs, (ctxAt t x).job = true ∧ (ctxAt t x).halt = false) := by
  dsimp only
  rw [endJob_done hjob]
  generalize jobCpl (ctxAt s g).img j = c
  generalize shapeOf (ctxAt s g).img = d
  have hcount := jobCounted_counts s (groupAt s g).ctxs d use (f := j.fn)
  have hleft := fun x => jobCounted_ctx s (groupAt s g).ctxs j.fn d use (x := x)
  have hcounted := jobCounted_only s (groupAt s g).ctxs j.fn d use
  generalize jobCounted s (groupAt s g).ctxs j.fn d use = u at hcount hleft hcounted
  have hanswer := jobAnswered_only u j c
  have hsame := jobAnswered_counts u j c
  generalize jobAnswered u j c = v at hanswer hsame
  have hgroup : groupAt v g = groupAt s g :=
    (groupAt_congr (hanswer.2 .groups (by decide)) g).trans (groupAt_congr (hcounted.2 .groups (by decide)) g)
  have hnext := SameCounts.of_keeps (nextJob_only v g (groupAt s g).waiting) (by decide) (by decide)
  have hsettle := settleStop_only (nextJob v g (groupAt s g).waiting) j.fn
  refine ⟨fun hf => ?_, fun hw => ?_, fun k q hw => ?_⟩
  · rw [(settleStop_counts (by omega) _).jobsDone, hnext.jobsDone, (hsame (by omega)).jobsDone, hcount hf hb]
  · rw [groupAt_congr (hsettle.2 .groups (by decide)), hw]
    obtain ⟨hnone, hkept⟩ := nextJob_nil v g
    refine ⟨hnone, fun x hx => ?_⟩
    rw [hw] at hsettle
    rw [hsettle.ctxAt (by decide), ctxAt_congr hkept, hanswer.ctxAt (by decide), hleft x hx]
  · rw [groupAt_congr (hsettle.2 .groups (by decide)), hw]
    obtain ⟨hnew, hctx⟩ := nextJob_cons v g k q
    rw [hnew]
    refine ⟨rfl, rfl, fun x hx => ?_⟩
    obtain ⟨y, hy⟩ := hctx x (by rwa [hgroup])
    rw [hw] at hsettle
    rw [hsettle.ctxAt (by decide), hy]
    exact ⟨rfl, rfl⟩

end Sys2Proof.Machine
end

section
/-! PROOFS. The function-level reset and the ranges cleared (09_contexts_tenants.md R236, R241, R242, R244). -/

namespace Sys2Proof.Machine

/-! ## Function sets after an operation -/

theorem fnAt_setFn_other (s : State) {f g : Nat} (x : FnSet) (h : g ≠ f) : fnAt (setFn s f x) g = fnAt s g :=
  mapGet_put_other _ _ _ h

theorem mapGet_of_unlisted {V : Type} (d : Nat → V) {m : SMap V} {i : Nat} (h : i ∉ mapKeys m) : mapGet d m i = d i := by
  induction m with
  | nil => rfl
  | cons p t ih =>
    obtain ⟨k, v⟩ := p
    simp only [mapKeys, List.map_cons, List.mem_cons, not_or] at h
    rw [mapGet, if_neg (Ne.symm h.1), ih h.2]

/-- No function set has a reset in progress. -/
def NoReset (s : State) : Prop := ∀ g, (fnAt s g).flr = 0

/-- Of the function sets only f has a reset in progress. -/
def OnlyReset (s : State) (f : Nat) : Prop := ∀ g, g ≠ f → (fnAt s g).flr = 0

/-! ## The request (R241 steps 1 and 2) -/

/-- What a reset squashes: the queues of the function's contexts, its waiting jobs, its commands in flight. -/
def squashed (s : State) (f : Nat) : State :=
  let s := forEach (ctxsOf s f) (fun s x =>
    let y := ctxAt s x
    setCtx s x { y with halt := true, live := { y.live with
      streams := y.live.streams.map (fun p => (p.1, { p.2 with dynq := [] })) } }) s
  let s := forEach (fnGroups s f) (fun s g =>
    let w := groupAt s g
    let s := forEach w.waiting (fun s _ => countJob s f false) s
    setGroup s g { w with waiting := [] }) s
  forEach (fnCores s f) (fun s n => forEach (fnFly s f n) (fun s p => abandon s n p.1 [p.2]) s) s

theorem squashed_only (s : State) (f : Nat) : Keeps 26628 s (squashed s f) :=
  forEach_keeps (by decide) _ _ _
    (fun t n ht => forEach_keeps (by decide) _ _ _ (fun _ _ h => abandon_keeps (by decide) _ _ _ _ h) ht)
    (forEach_keeps (by decide) _ _ _
      (fun t g ht => setGroup_keeps (by decide) _ _ _
        (forEach_keeps (by decide) _ _ _ (fun _ _ h => countJob_keeps (by decide) _ _ _ h) ht))
      (forEach_keeps (by decide) _ _ _ (fun _ _ h => setCtx_keeps (by decide) _ _ _ h) (Keeps.refl _ s)))

theorem flrSquash_eq (s : State) (f : Nat) : flrSquash s f = setFn (squashed s f) f
    { fnAt (squashed s f) f with
      flr := 2, resWait := [], cplWait := []
      freezing := (fnAt (squashed s f) f).freezing && !(fnAt (squashed s f) f).removing, drain := drainOf s f } := rfl

/-- The state with function f STOPPING, unless it is FAULTED. -/
def fnStopping (s : State) (f : Nat) : State :=
  if fnState s (hostFn f) = Fn.faulted then s else setFnState s (hostFn f) Fn.stopping

theorem fnStopping_only (s : State) (f : Nat) : Keeps 4 s (fnStopping s f) :=
  ite_keeps (Keeps.refl _ s) (setFnState_keeps (by decide) s _ _ (Keeps.refl _ s))

section
variable {s : State} {f : Nat} (h : (fnAt s f).flr = 0)
include h

theorem flrRequest_eq (remove : Bool) : flrRequest s f remove = flrSquash (setFn (fnStopping s f) f
    { fnAt s f with flr := 1, flrAt := nowNs (fnStopping s f), removing := remove, flrDone := false }) f := by
  unfold flrRequest
  dsimp only
  rw [if_neg (by simp [h])]
  rfl

/-- A reset requested: it waits for the units sent, and its time is that of the request. -/
theorem flrRequest_self (remove : Bool) : let x := fnAt (flrRequest s f remove) f
    x.flr = 2 ∧ x.flrAt = nowNs s ∧ x.flrDone = false ∧ x.removing = remove := by
  have hclk : (fnStopping s f).clk = s.clk := (fnStopping_only s f).2 .clk (by decide)
  dsimp only
  rw [flrRequest_eq h, flrSquash_eq, fnAt_setFn]
  dsimp only
  rw [(squashed_only _ _).fnAt (by decide), fnAt_setFn]
  exact ⟨rfl, by rw [nowNs, hclk]; rfl, rfl, rfl⟩

theorem flrRequest_other (remove : Bool) {g : Nat} (hg : g ≠ f) : fnAt (flrRequest s f remove) g = fnAt s g := by
  rw [flrRequest_eq h, flrSquash_eq, fnAt_setFn_other _ _ hg, (squashed_only _ _).fnAt (by decide), fnAt_setFn_other _ _ hg,
    (fnStopping_only s f).fnAt (by decide)]

end

theorem flrRequest_behave (s : State) (f : Nat) (remove : Bool) : (flrRequest s f remove).behaveReset = s.behaveReset :=
  (flrRequest_keeps (m := 92164) (by decide) s f remove (Keeps.refl _ s)).2 .behaveReset (by decide)

/-! ## The end of a reset (R241 step 4) -/

/-- What the end of a reset takes from function f: its groups, its beads, its serving slots. -/
def fnCleared (s : State) (f : Nat) : State :=
  let s := forEach (fnGroups s f) (fun s g =>
    let s := if (groupAt s g).job.isSome then countJob s f false else s
    freeGroup s g) s
  let s := forEach (tenantBeads s f) dropBead s
  forEach ((List.range 64).filter (fun j => sjOwner s j == f)) sjClear s

theorem fnCleared_only (s : State) (f : Nat) : Keeps 60264836100 s (fnCleared s f) :=
  forEach_keeps (by decide) _ _ _ (fun _ _ h => sjClear_keeps (by decide) _ _ h)
    (forEach_keeps (by decide) _ _ _ (fun _ _ h => dropBead_keeps (by decide) _ _ h)
      (forEach_keeps (by decide) _ _ _
        (fun _ _ h => freeGroup_keeps (by decide) _ _ (ite_keeps (countJob_keeps (by decide) _ _ _ h) h)) (Keeps.refl _ s)))

/-- A function set whose reset has ended. -/
def resetDone (y : FnSet) : FnSet := { y with flr := 0, flrDone := true, drain := [] }

/-- The function cleared, its registers at their reset values, its reset ended. -/
def fnReset (s : State) (f : Nat) : State :=
  let s := fnRegsReset (fnCleared s f) f
  setFn s f (resetDone (fnAt s f))

theorem flrFinish_eq (s : State) (f : Nat) : flrFinish s f = settleStop
    (if (fnAt (fnReset s f) f).removing then removeEnd (fnReset s f) f else freezeSettle (fnReset s f) f) f := rfl

theorem fnRegsReset_only (s : State) (f : Nat) : Keeps 4194316 s (fnRegsReset s f) :=
  fnRegsReset_keeps (by decide) s f (Keeps.refl _ s)

theorem fnRegsReset_behave {s : State} (h : s.behaveReset = []) (f : Nat) : (fnRegsReset s f).behaveReset = [] := by
  unfold fnRegsReset
  simp [setFnState_hostFn, h]

/-- The registers of a function that is reset: it is STOPPED. -/
theorem fnRegsReset_state {s : State} (h : s.behaveReset = []) (f : Nat) :
    (fnRegsReset s f).get HOST_FN_STATUS.STATE f = Fn.stopped := by
  unfold fnRegsReset
  dsimp only
  rw [setFnState_hostFn, get_set_self _ _ _ _ _ (by simp [h]) (by decide)]
  rfl

section
variable (s : State) (f : Nat)

theorem fnReset_self : fnAt (fnReset s f) f = resetDone (fnAt s f) := by
  unfold fnReset
  dsimp only
  rw [fnAt_setFn, (fnRegsReset_only _ _).fnAt (by decide), (fnCleared_only s f).fnAt (by decide)]

theorem fnReset_other {g : Nat} (hg : g ≠ f) : fnAt (fnReset s f) g = fnAt s g := by
  unfold fnReset
  dsimp only
  rw [fnAt_setFn_other _ _ hg, (fnRegsReset_only _ _).fnAt (by decide), (fnCleared_only s f).fnAt (by decide)]

variable {s} (h : s.behaveReset = [])
include h

theorem fnCleared_behave : (fnCleared s f).behaveReset = [] := ((fnCleared_only s f).2 .behaveReset (by decide)).trans h

theorem fnReset_behave : (fnReset s f).behaveReset = [] :=
  (setFn_behaveReset ..).trans (fnRegsReset_behave (fnCleared_behave f h) f)

theorem fnReset_state : (fnReset s f).get HOST_FN_STATUS.STATE f = Fn.stopped :=
  (setFn_get ..).trans (fnRegsReset_state (fnCleared_behave f h) f)

end

/-! ## A freeze that completes with the reset (R244) -/

/-- A context taken from its core by a freeze, its state kept for the thaw. -/
def ctxFrozen (s : State) (x : Nat) : State :=
  let y := ctxAt s x
  if y.state = 5 then s
  else
    let s := leaveSlot s x 5
    setCtx s x { ctxAt s x with thaw := if y.state = 3 then (if y.job && !y.halt then 2 else 1) else y.state }

theorem ctxsFrozen_only (l : List Nat) (s : State) : Keeps 10240 s (forEach l ctxFrozen s) :=
  forEach_keeps (by decide) _ _ _
    (fun _ _ h => ite_keeps h (setCtx_keeps (by decide) _ _ _ (leaveSlot_keeps (by decide) _ _ _ h))) (Keeps.refl _ s)

/-- Function f marked as frozen. -/
def fnFrozen (s : State) (f : Nat) : State :=
  ((setFn s f { fnAt s f with freezing := false }).set HOST_VF_STATUS.FROZEN 1 f).set HOST_FN_STATUS.FROZEN 1 f

theorem freezeSettle_cases (s : State) (f : Nat) : freezeSettle s f = s ∨
    ∃ l, freezeSettle s f = fnFrozen (forEach l ctxFrozen s) f ∨
      freezeSettle s f = mbxEnd (fnFrozen (forEach l ctxFrozen s) f) Code.done := by
  unfold freezeSettle
  dsimp only
  split
  · split
    · exact .inr ⟨_, .inr rfl⟩
    · exact .inr ⟨_, .inl rfl⟩
  · exact .inl rfl

/-- A function set as a freeze may leave it. -/
structure FnKept (s t : State) (f : Nat) : Prop where
  reset : ∀ g, (fnAt t g).flr = (fnAt s g).flr ∧ (fnAt t g).flrDone = (fnAt s g).flrDone
  state : t.get HOST_FN_STATUS.STATE f = s.get HOST_FN_STATUS.STATE f

theorem fnFrozen_kept {s : State} {f : Nat} (hf : f < 256) (hb : s.behaveReset = []) : FnKept s (fnFrozen s f) f := by
  refine ⟨fun g => ?_, ?_⟩
  · have hfn : fnAt (fnFrozen s f) g = fnAt (setFn s f { fnAt s f with freezing := false }) g :=
      fnAt_congr ((State.set_fns ..).trans (State.set_fns ..)) g
    rw [hfn]
    by_cases hg : g = f
    · rw [hg, fnAt_setFn]
      exact ⟨rfl, rfl⟩
    · rw [fnAt_setFn_other _ _ hg]
      exact ⟨rfl, rfl⟩
  · unfold fnFrozen
    rw [get_set_beside _ HOST_FN_STATUS.FROZEN HOST_FN_STATUS.STATE _ _ _ _ _ (by simp [hb]) rfl (by decide) (by decide),
      get_set_reg _ _ _ _ _ _ _ _ (by simp only [Fld.addr]; omega), setFn_get]

theorem freezeSettle_kept {s : State} {f : Nat} (hf : f < 256) (hb : s.behaveReset = []) : FnKept s (freezeSettle s f) f := by
  have hfrozen (l : List Nat) : FnKept s (fnFrozen (forEach l ctxFrozen s) f) f := by
    have hk := ctxsFrozen_only l s
    obtain ⟨hreset, hstate⟩ := fnFrozen_kept hf ((hk.2 .behaveReset (by decide)).trans hb)
    have hregs := regsBut_of_keeps hk (by decide) (by decide) []
    refine ⟨fun g => ?_, hstate.trans (get_of_regsBut hregs _ _ _ (by simp))⟩
    rw [← hk.fnAt (by decide)]
    exact hreset g
  rcases freezeSettle_cases s f with h | ⟨l, h | h⟩
  · rw [h]
    exact ⟨fun _ => ⟨rfl, rfl⟩, rfl⟩
  · exact h ▸ hfrozen l
  · obtain ⟨hreset, hstate⟩ := hfrozen l
    have hk := mbxEnd_keeps (m := 17179869184) (by decide) (fnFrozen (forEach l ctxFrozen s) f) Code.done [] (Keeps.refl _ _)
    rw [h]
    refine ⟨fun g => ?_, (mbxEnd_get ..).trans hstate⟩
    rw [hk.fnAt (by decide)]
    exact hreset g

section
variable {s : State} {f : Nat} (hf : f < 256) (hb : s.behaveReset = []) (hr : (fnAt s f).removing = false)
include hf hb hr

/-- The end of a reset: reported, the function STOPPED, the other function sets' resets as they were. -/
theorem flrFinish_ends (ho : OnlyReset s f) : NoReset (flrFinish s f) ∧ (fnAt (flrFinish s f) f).flrDone = true ∧
    (flrFinish s f).get HOST_FN_STATUS.STATE f = Fn.stopped := by
  have hself := fnReset_self s f
  have hstate := fnReset_state f hb
  obtain ⟨hreset, hkept⟩ := freezeSettle_kept hf (fnReset_behave f hb)
  have hsettle := settleStop_only (freezeSettle (fnReset s f) f) f
  have heq : flrFinish s f = settleStop (freezeSettle (fnReset s f) f) f := by
    rw [flrFinish_eq, hself, if_neg (by simp [resetDone, hr])]
  rw [heq]
  refine ⟨fun g => ?_, ?_, ?_⟩
  · rw [hsettle.fnAt (by decide), (hreset g).1]
    by_cases hg : g = f
    · rw [hg, hself]
      rfl
    · rw [fnReset_other _ _ hg, ho g hg]
  · rw [hsettle.fnAt (by decide), (hreset f).2, hself]
    rfl
  · rw [settleStop_still (by rw [hkept, hstate]; decide), hkept, hstate]

end

/-! ## Resets that end of themselves -/

theorem flrSettle_still {s : State} {f : Nat} (h : (fnAt s f).flr ≠ 2 ∨ drained s f = false) : flrSettle s f = s := by
  unfold flrSettle
  refine if_neg fun ⟨hflr, hd⟩ => ?_
  rcases h with h | h
  · exact h hflr
  · rw [h] at hd
    cases hd

theorem flrSettle_none {s : State} {f : Nat} (h : (fnAt s f).flr = 0) : flrSettle s f = s :=
  flrSettle_still (.inl (by simp [h]))

/-- The end of the resets of virtual functions first, then that of the physical function. -/
theorem flrSettleAll_of {s t : State} (h : forEach ((mapKeys s.fns).filter (· < 256)) flrSettle s = t)
    (hphys : (fnAt t 256).flr = 0) : flrSettleAll s = t := by
  have hpf : pfSettle t = t := if_neg (by simp [hphys])
  unfold flrSettleAll
  rw [h, hpf, flrSettle_none hphys]

theorem forEach_flrSettle_none {l : List Nat} {s : State} (h : ∀ g ∈ l, flrSettle s g = s) : forEach l flrSettle s = s := by
  induction l with
  | nil => rfl
  | cons g l ih =>
    rw [forEach_cons, h g List.mem_cons_self]
    exact ih fun k hk => h k (List.mem_cons_of_mem _ hk)

theorem flrSettleAll_none {s : State} (h : NoReset s) : flrSettleAll s = s :=
  flrSettleAll_of (forEach_flrSettle_none fun g _ => flrSettle_none (h g)) (h 256)

section
variable {s : State} {f : Nat} (ho : OnlyReset s f)
include ho

theorem forEach_flrSettle_one (hflr : (fnAt s f).flr = 2) (hd : drained s f = true) (hn : NoReset (flrFinish s f)) {l : List Nat}
    (hl : f ∈ l) : forEach l flrSettle s = flrFinish s f := by
  induction l with
  | nil => exact absurd hl List.not_mem_nil
  | cons g l ih =>
    rw [forEach_cons]
    by_cases hg : g = f
    · rw [hg, show flrSettle s f = flrFinish s f from if_pos ⟨hflr, hd⟩]
      exact forEach_flrSettle_none fun k _ => flrSettle_none (hn k)
    · rw [flrSettle_none (ho g hg)]
      exact ih ((List.mem_cons.1 hl).resolve_left (Ne.symm hg))

variable (hf : f < 256)
include hf

theorem flrSettleAll_waits (hd : drained s f = false) : flrSettleAll s = s := by
  refine flrSettleAll_of (forEach_flrSettle_none fun g _ => ?_) (ho 256 (by omega))
  by_cases hg : g = f
  · exact hg ▸ flrSettle_still (.inr hd)
  · exact flrSettle_none (ho g hg)

theorem flrSettleAll_one (hflr : (fnAt s f).flr = 2) (hd : drained s f = true) (hn : NoReset (flrFinish s f)) :
    flrSettleAll s = flrFinish s f := by
  refine flrSettleAll_of (forEach_flrSettle_one ho hflr hd hn ?_) (hn 256)
  refine List.mem_filter.2 ⟨?_, by simpa using hf⟩
  by_contra hnot
  have hnone : fnAt s f = {} := mapGet_of_unlisted _ hnot
  rw [hnone] at hflr
  cases hflr

end

/-! ## FUNCTION_LEVEL_RESET and DRAIN_TIMEOUT (R241) -/

theorem exec_functionLevelReset (s : State) (f : Nat) : exec (.functionLevelReset f) s = .next (functionReset s f) := rfl

theorem exec_drainTimeout (s : State) (f : Nat) : exec (.drainTimeout f) s = .next (drainTimeout s f) := rfl

/-- The reset of a virtual function that is enabled. -/
theorem functionReset_eq {s : State} {f : Nat} (hf : f < 256) (hh : fnHere s f = true) :
    functionReset s f = flrSettleAll (flrRequest s f false) := by
  unfold functionReset
  rw [if_neg (by omega), if_pos ⟨hf, hh⟩]

section
variable {s : State} {f : Nat} (hf : f < 256)
include hf

theorem functionReset_waits (hh : fnHere s f = true) (hn : NoReset s) (hd : drained (flrRequest s f false) f = false) :
    functionReset s f = flrRequest s f false := by
  rw [functionReset_eq hf hh]
  exact flrSettleAll_waits (fun g hg => by rw [flrRequest_other (hn f) _ hg, hn g]) hf hd

theorem functionReset_ends (hb : s.behaveReset = []) (hh : fnHere s f = true) (hn : NoReset s)
    (hd : drained (flrRequest s f false) f = true) : let t := functionReset s f
    (fnAt t f).flr = 0 ∧ (fnAt t f).flrDone = true ∧ t.get HOST_FN_STATUS.STATE f = Fn.stopped := by
  obtain ⟨hflr, -, -, hremoving⟩ := flrRequest_self (hn f) false
  have ho : OnlyReset (flrRequest s f false) f := fun g hg => by rw [flrRequest_other (hn f) _ hg, hn g]
  obtain ⟨hnone, hdone, hstate⟩ := flrFinish_ends hf ((flrRequest_behave ..).trans hb) hremoving ho
  dsimp only
  rw [functionReset_eq hf hh, flrSettleAll_one ho hf hflr hd hnone]
  exact ⟨hnone f, hdone, hstate⟩

/-- The 60 ms of a drain have passed: the nodes that have not acknowledged are journalled, and the reset ends. -/
theorem drainTimeout_ends (hb : s.behaveReset = []) (hflr : (fnAt s f).flr = 2) (hr : (fnAt s f).removing = false)
    (ho : OnlyReset s f) (hdue : (fnAt s f).flrAt + 60000000 ≤ nowNs s) : let t := drainTimeout s f
    (fnAt t f).flr = 0 ∧ (fnAt t f).flrDone = true ∧ t.get HOST_FN_STATUS.STATE f = Fn.stopped := by
  have hlost (l : List Nat) : Keeps 42949673988 s
      (forEach l (fun s n => journal s { typ := 0x11, code := Code.targetLost, source := 0x0100, node := n }) s) :=
    forEach_keeps (by decide) _ _ _ (fun _ _ h => journal_keeps (by decide) _ _ h) (Keeps.refl _ s)
  unfold drainTimeout
  dsimp only
  rw [if_pos ⟨hflr, hdue⟩]
  generalize (List.map (fun d : Nat × Nat × Nat => d.2.1) _).eraseDups = l
  have hk := hlost l
  generalize forEach l _ s = u at hk
  obtain ⟨hnone, hdone, hstate⟩ := flrFinish_ends (s := u) hf ((hk.2 .behaveReset (by decide)).trans hb)
    (by rwa [hk.fnAt (by decide)]) (fun g hg => by rw [hk.fnAt (by decide), ho g hg])
  rw [flrSettleAll_none hnone]
  exact ⟨hnone f, hdone, hstate⟩

end

theorem drainTimeout_waits {s : State} {f : Nat} (h : nowNs s < (fnAt s f).flrAt + 60000000) : drainTimeout s f = s :=
  if_neg fun hdue => Nat.not_lt.2 hdue.2 h

/-! ## CLEARING_END (R242) -/

theorem mapGet_dropRange {V : Type} (d : Nat → V) (m : SMap V) (lo hi i : Nat) :
    mapGet d (mapDropRange m lo hi) i = if lo ≤ i ∧ i < hi then d i else mapGet d m i := by
  unfold mapDropRange
  induction m with
  | nil => simp [mapGet]
  | cons p t ih =>
    obtain ⟨k, v⟩ := p
    by_cases hk : lo ≤ k ∧ k < hi
    · rw [List.filter_cons_of_neg (by simpa using hk), ih, mapGet]
      split
      · rfl
      · next hi' => rw [if_neg fun h : k = i => hi' (h ▸ hk)]
    · rw [List.filter_cons_of_pos (by simp; omega), mapGet, mapGet, ih]
      by_cases hki : k = i
      · rw [if_pos hki, if_pos hki, if_neg (hki ▸ hk)]
      · rw [if_neg hki, if_neg hki]

theorem devZero_byte (s : State) (a n x : Nat) :
    rdM (devZero s a n).mems.dev x = if a ≤ x ∧ x < a + n then 0 else rdM s.mems.dev x := mapGet_dropRange _ _ _ _ _

/-- The ranges of a function filled with zeros. -/
def rangesZero (l : List (Nat × Nat)) (s : State) : State := forEach l (fun s r => devZero s r.1 r.2) s

theorem rangesZero_only (l : List (Nat × Nat)) (s : State) : Keeps 1024 s (rangesZero l s) :=
  forEach_keeps (by decide) _ _ _ (fun _ _ h => devZero_keeps (by decide) _ _ _ h) (Keeps.refl _ s)

/-- Every byte of the ranges is 0, every other byte is as before. -/
theorem rangesZero_byte (l : List (Nat × Nat)) (s : State) (x : Nat) : rdM (rangesZero l s).mems.dev x =
    if ∃ r ∈ l, r.1 ≤ x ∧ x < r.1 + r.2 then 0 else rdM s.mems.dev x := by
  induction l generalizing s with
  | nil => rw [if_neg (by simp)]; rfl
  | cons r l ih =>
    rw [rangesZero, forEach_cons, ← rangesZero, ih, devZero_byte]
    simp only [List.mem_cons, exists_eq_or_imp]
    by_cases hl : ∃ r ∈ l, r.1 ≤ x ∧ x < r.1 + r.2
    · rw [if_pos hl, if_pos (.inr hl)]
    · by_cases hr : r.1 ≤ x ∧ x < r.1 + r.2
      · rw [if_neg hl, if_pos hr, if_pos (.inl hr)]
      · rw [if_neg hl, if_neg hr, if_neg (not_or.2 ⟨hr, hl⟩)]

theorem exec_clearingEnd (s : State) (f : Nat) : exec (.clearingEnd f) s = .next (clearingEnd s f) := rfl

/-- The state once the ranges of function f have been cleared. -/
def fnClearedRanges (s : State) (f : Nat) : State :=
  let u := rangesZero (fnAt s f).clearing s
  (setFn u f { fnAt u f with clearing := [] }).set HOST_VF_STATUS.CLEARING 0 f

theorem clearingEnd_eq {s : State} {f : Nat} (h : s.bit HOST_VF_STATUS.CLEARING f = true) :
    clearingEnd s f = fnClearedRanges s f := if_pos h

theorem fnClearedRanges_dev (s : State) (f x : Nat) : rdM (fnClearedRanges s f).mems.dev x =
    if ∃ r ∈ (fnAt s f).clearing, r.1 ≤ x ∧ x < r.1 + r.2 then 0 else rdM s.mems.dev x := by
  unfold fnClearedRanges
  dsimp only
  rw [State.set_mems, setFn_mems, rangesZero_byte]

theorem fnClearedRanges_fn (s : State) (f : Nat) : (fnAt (fnClearedRanges s f) f).clearing = [] := by
  unfold fnClearedRanges
  dsimp only
  rw [fnAt_congr (State.set_fns ..), fnAt_setFn]

theorem fnClearedRanges_bit {s : State} (hb : s.behaveReset = []) (f : Nat) :
    (fnClearedRanges s f).bit HOST_VF_STATUS.CLEARING f = false := by
  have hbehave : (rangesZero (fnAt s f).clearing s).behaveReset = [] :=
    ((rangesZero_only _ s).2 .behaveReset (by decide)).trans hb
  unfold State.bit fnClearedRanges
  dsimp only
  rw [get_set_self _ _ _ _ _ ((setFn_behaveReset ..).trans hbehave) (by decide)]
  rfl

/-- Settles O27, operation by operation: a context goes to the first core that the pacing rules leave, HARD and FIRM contexts
pinned as it is loaded (log 246); the end of a job is followed to the count and to the next job; while one function alone is in
reset, what ends resets changes no other; a range cleared is one whose bytes the store no longer lists. -/
theorem residence : Obligations.Residence := by
  unfold Obligations.Residence
  refine ⟨fun s x n b l core _ hstate hhalt hfrozen hflr hcores hfull hbase hmark => ?_,
    fun s g a m p j hs hjob hctxs => ⟨fun hfrozen => ?_, fun hfrozen hfailed hdone => ?_⟩,
    fun s f hs hf hh hn _ => ⟨fun hd => ?_, fun hd => ?_⟩,
    fun s f hs hf hflr hr ho => ⟨fun hdue => ?_, fun hdue => ?_⟩, fun s f hs hf hclear => ?_⟩
  · obtain ⟨c, hc, hfree, ⟨hself, hothers, himage, hslot⟩⟩ :=
      makeResident_first hstate hhalt hfrozen hflr hcores hfull hbase hmark
    refine acts_of_exec (exec_contextResident s x core) ?_
    rw [hself]
    exact ⟨rfl, rfl, rfl, rfl, hothers, himage, c, hc, hfree, hslot⟩
  · rw [exec_jobComplete, jobComplete_frozen hfrozen]
  · refine acts_of_exec (exec_jobComplete s g a m p) ?_
    rw [jobComplete_done hjob hctxs hfrozen hfailed hdone]
    exact endJob_ends hjob hs.1 _
  · refine acts_of_exec (exec_functionLevelReset s f) ?_
    rw [functionReset_waits hf hh hn hd]
    obtain ⟨hflr, hat, hdone, -⟩ := flrRequest_self (hn f) false
    exact ⟨hflr, hat, hdone⟩
  · exact acts_of_exec (exec_functionLevelReset s f) (functionReset_ends hf hs.1 hh hn hd)
  · exact acts_of_exec (exec_drainTimeout s f) (drainTimeout_ends hf hs.1 hflr hr ho hdue)
  · rw [exec_drainTimeout, drainTimeout_waits hdue]
  · refine acts_of_exec (exec_clearingEnd s f) ?_
    rw [clearingEnd_eq hclear]
    refine ⟨fnClearedRanges_bit hs.1 f, fnClearedRanges_fn s f, fun r hr a hlo hhi => ?_, fun a hout => ?_⟩
    · rw [fnClearedRanges_dev, if_pos ⟨r, hr, hlo, hhi⟩]
    · rw [fnClearedRanges_dev, if_neg]
      rintro ⟨r, hr, hlo, hhi⟩
      have := hout r hr
      omega

end Sys2Proof.Machine
end

section
/-! PROOFS. Serving slots: their records and registers, START and STOP, the boundary, and the end of a step (10_serving.md R252 to
R261). -/

namespace Sys2Proof.Machine

/-! ## A slot's record and registers (R263) -/

theorem sjAt_setSj (s : State) (j : Nat) (x : Sj) : sjAt (setSj s j x) j = x := mapGet_put_self _ _ _ _

theorem sjAt_congr {s t : State} (h : t.sjs = s.sjs) (j : Nat) : sjAt t j = sjAt s j := by unfold sjAt; rw [h]

theorem Keeps.sjAt {m : Nat} {s t : State} (h : Keeps m s t) (hm : m.testBit Part.sjs.idx = false) (j : Nat) :
    sjAt t j = sjAt s j := sjAt_congr (h.2 .sjs hm) j

theorem sjAt_set (s : State) (f : Fld) (v i k j : Nat) : sjAt (s.set f v i k) j = sjAt s j := sjAt_congr (State.set_sjs ..) j

/-- The fault of a slot, in the fields of its status register. -/
theorem faultFn_slot (s : State) (j c : Nat) : faultFn s (sjFn j) c =
    (s.set BEAD_SJ_STATUS.FAULT_CODE c j).set BEAD_SJ_STATUS.STATE Fn.faulted j := rfl

theorem setFnState_slot (s : State) (j v : Nat) : setFnState s (sjFn j) v = s.set BEAD_SJ_STATUS.STATE v j := rfl

section
variable {s : State} (hb : s.behaveReset = []) (j : Nat)
include hb

theorem faultFn_slot_state (c : Nat) : (faultFn s (sjFn j) c).get BEAD_SJ_STATUS.STATE j = Fn.faulted := by
  rw [faultFn_slot, get_set_self _ _ _ _ _ (by simp [hb]) (by decide)]
  rfl

theorem faultFn_slot_code {c : Nat} (hc : c < 256) : (faultFn s (sjFn j) c).get BEAD_SJ_STATUS.FAULT_CODE j = c := by
  rw [faultFn_slot, get_set_beside _ BEAD_SJ_STATUS.STATE BEAD_SJ_STATUS.FAULT_CODE _ _ _ _ _ (by simp [hb]) rfl (by decide)
      (by decide),
    get_set_self _ _ _ _ _ hb (by decide)]
  exact Nat.mod_eq_of_lt hc

/-- Another register of a slot, or another field of its status, reads as before the fault. -/
theorem faultFn_slot_get (c : Nat) (f : Fld) (hf : f.addr j ≠ BEAD_SJ_STATUS.W.addr j ∨ 3 ≤ f.lo ∧ f.lo + f.w ≤ 24) :
    (faultFn s (sjFn j) c).get f j = s.get f j := by
  rw [faultFn_slot, get_set_apart _ BEAD_SJ_STATUS.STATE _ _ _ _ _ _ (by simp [hb]) (by decide) (hf.imp id fun h => .inl h.1),
    get_set_apart _ BEAD_SJ_STATUS.FAULT_CODE _ _ _ _ _ _ hb (by decide) (hf.imp id fun h => .inr h.2)]

end

/-! ## The counts published (R263) -/

/-- A field of a slot set that the publication of its counts does not write. -/
abbrev Unpublished (f : Fld) : Prop :=
  f.s1 = 0x80 ∧ f.s2 = 0 ∧ f.off ∉ [BEAD_SJ_FREE_PAGES.off, BEAD_SJ_PENDING_PAGES.off, BEAD_SJ_WAITING.off] ∧
    (f.off ≠ BEAD_SJ_STATUS.W.off ∨ f.lo + f.w ≤ 14 ∨ 15 ≤ f.lo)

theorem sjPublish_only (s : State) (j : Nat) : Keeps 4 s (sjPublish s j) := sjPublish_keeps (by decide) s j (Keeps.refl _ s)

theorem sjAt_sjPublish (s : State) (j i : Nat) : sjAt (sjPublish s j) i = sjAt s i := (sjPublish_only s j).sjAt (by decide) i

section
variable {s : State} (hb : s.behaveReset = []) (j : Nat)
include hb

theorem sjPublish_get (f : Fld) (hf : Unpublished f) : (sjPublish s j).get f j = s.get f j := by
  obtain ⟨h1, h2, hoff, hst⟩ := hf
  simp only [List.mem_cons, List.not_mem_nil, or_false, not_or] at hoff
  unfold sjPublish
  dsimp only
  rw [get_set_apart _ BEAD_SJ_STATUS.EVT_FULL _ _ _ _ _ _ (by simp [hb]) (by decide),
    get_set_reg, get_set_reg, get_set_reg]
  all_goals simp only [Fld.addr, h1, h2] at hoff hst ⊢
  all_goals omega

/-- EVT_FULL shows that an event waits. -/
theorem sjPublish_evtFull : (sjPublish s j).bit BEAD_SJ_STATUS.EVT_FULL j = !(sjAt s j).evWait.isEmpty := by
  unfold sjPublish State.bit
  dsimp only
  rw [get_set_self _ _ _ _ _ (by simp [hb]) (by decide)]
  cases (sjAt s j).evWait <;> rfl

theorem sjPublish_state : (sjPublish s j).get BEAD_SJ_STATUS.STATE j = s.get BEAD_SJ_STATUS.STATE j :=
  sjPublish_get hb j _ (by decide)

theorem sjPublish_code : (sjPublish s j).get BEAD_SJ_STATUS.FAULT_CODE j = s.get BEAD_SJ_STATUS.FAULT_CODE j :=
  sjPublish_get hb j _ (by decide)

theorem sjPublish_inStep : (sjPublish s j).bit BEAD_SJ_STATUS.IN_STEP j = s.bit BEAD_SJ_STATUS.IN_STEP j :=
  congrArg (· != 0) (sjPublish_get hb j BEAD_SJ_STATUS.IN_STEP (by decide))

end

/-! ## START and STOP (R252, R261) -/

theorem exec_sjStart {j : Nat} (hj : j < 64) (s : State) : exec (.sjStart j) s = .next (sjStart s j) :=
  congrArg Host.Outcome.next (if_pos hj)

theorem exec_sjStop {j : Nat} (hj : j < 64) (s : State) : exec (.sjStop j) s = .next (sjStop s j) :=
  congrArg Host.Outcome.next (if_pos hj)

section
variable {s : State} {j : Nat} (hs : s.sound) (h : s.get BEAD_SJ_STATUS.STATE j = Fn.stopped)
include hs h

theorem sjStart_get (f : Fld) (hf : Unpublished f) :
    (sjStart s j).get f j = (startFn s (sjFn j) (sjCheck s j)).get f j := by
  have hk := startFn_keeps (m := 4) (by decide) s (sjFn j) (sjCheck s j) (Keeps.refl _ s)
  rw [sjStart, if_pos (show fnState s (sjFn j) = Fn.stopped from h)]
  exact sjPublish_get ((hk.2 .behaveReset (by decide)).trans hs.1) j f hf

theorem sjStart_passes (hc : sjCheck s j = none) : (sjStart s j).get BEAD_SJ_STATUS.STATE j = Fn.running := by
  rw [sjStart_get hs h _ (by decide), hc]
  exact (startFn_passes hs h).1

theorem sjStart_refused {c : Nat} (hlt : c < 256) (hc : sjCheck s j = some c) :
    (sjStart s j).get BEAD_SJ_STATUS.STATE j = Fn.faulted ∧ (sjStart s j).get BEAD_SJ_STATUS.FAULT_CODE j = c := by
  rw [sjStart_get hs h _ (by decide), sjStart_get hs h _ (by decide), hc]
  exact startFn_refused hs h hlt

end

/-- A slot that neither polls nor waits with a refused step, its rows gone where no step is in progress. -/
def sjIdle (s : State) (j : Nat) : State :=
  let u := setSj s j { sjAt s j with polling := none, policed := none }
  if u.bit BEAD_SJ_STATUS.IN_STEP j then u else u.set BEAD_SJ_RUNNING 0 j

theorem sjIdle_inStep (s : State) (j : Nat) : (sjIdle s j).bit BEAD_SJ_STATUS.IN_STEP j = s.bit BEAD_SJ_STATUS.IN_STEP j := by
  unfold sjIdle
  dsimp only
  split
  · simp [State.bit]
  · unfold State.bit
    rw [get_set_reg _ _ _ _ _ _ _ _ (by simp only [Fld.addr]; omega), setSj_get]

theorem sjIdle_behaveReset (s : State) (j : Nat) : (sjIdle s j).behaveReset = s.behaveReset := by
  unfold sjIdle
  dsimp only
  split <;> simp

theorem sjIdle_record (s : State) (j : Nat) : sjAt (sjIdle s j) j = { sjAt s j with polling := none, policed := none } := by
  unfold sjIdle
  dsimp only
  split
  · exact sjAt_setSj ..
  · rw [sjAt_set, sjAt_setSj]

theorem sjStop_eq {s : State} {j : Nat} (h : s.get BEAD_SJ_STATUS.STATE j = Fn.running ∨ s.get BEAD_SJ_STATUS.STATE j = Fn.faulted) :
    sjStop s j = (sjIdle s j).set BEAD_SJ_STATUS.STATE
      (if s.bit BEAD_SJ_STATUS.IN_STEP j then Fn.stopping else Fn.stopped) j := by
  rw [← sjIdle_inStep]
  exact if_pos h

/-- STOP ends the polling and waits for a step in progress. -/
theorem sjStop_stops {s : State} {j : Nat} (hb : s.behaveReset = [])
    (h : s.get BEAD_SJ_STATUS.STATE j = Fn.running ∨ s.get BEAD_SJ_STATUS.STATE j = Fn.faulted) :
    (sjAt (sjStop s j) j).polling = none ∧ (sjAt (sjStop s j) j).policed = none ∧
      (sjStop s j).get BEAD_SJ_STATUS.STATE j = if s.bit BEAD_SJ_STATUS.IN_STEP j then Fn.stopping else Fn.stopped := by
  rw [sjStop_eq h, sjAt_set, sjIdle_record, get_set_self _ _ _ _ _ ((sjIdle_behaveReset s j).trans hb) (by decide)]
  refine ⟨rfl, rfl, ?_⟩
  split <;> rfl

/-! ## The controller's work (R251, R252) -/

theorem poisonSeenDev_only (s : State) (a : Nat) : Keeps 4 s (poisonSeenDev s a) :=
  poisonSeenDev_keeps (by decide) s a (Keeps.refl _ s)

/-- A read from W is handed on with the state as it was, or faults. -/
theorem sjRead_cases (j o n : Nat) (f : Bytes → State → SjR) (s : State) :
    sjRead j o n f s = f (sjBytes s j o n) s ∨
      ∃ u c, sjRead j o n f s = (u, some c) ∧ (u = s ∨ ∃ a, u = poisonSeenDev s a) := by
  unfold sjRead
  dsimp only
  split
  · exact .inl rfl
  · refine .inr ⟨_, _, rfl, ?_⟩
    split
    · exact .inr ⟨_, rfl⟩
    · exact .inl rfl

theorem sjRead_done {j o n : Nat} {s : State} (h : sjCode s j o n false = Code.done) (f : Bytes → State → SjR) :
    sjRead j o n f s = f (sjBytes s j o n) s := if_pos h

theorem sjWrite_done {j o : Nat} {l : Bytes} {s : State} (h : sjCode s j o l.length true = Code.done) :
    sjWrite j o l s = (homeWrite s ((sjWin s j).base + o) l false, none) := if_pos h

/-- Work that no fault has ended leaves a state with a property. -/
def WorkEnds (p : State → Prop) (r : SjR) : Prop := r.2 = none → p r.1

theorem WorkEnds.faulted {p : State → Prop} (s : State) (c : Nat) : WorkEnds p (s, some c) := fun h => nomatch h

theorem WorkEnds.read {p : State → Prop} {j o n : Nat} {f : Bytes → State → SjR} {s : State}
    (h : ∀ b, WorkEnds p (f b s)) : WorkEnds p (sjRead j o n f s) := by
  rcases sjRead_cases j o n f s with hdone | ⟨u, c, hfault, -⟩
  · rw [hdone]
    exact h _
  · rw [hfault]
    exact .faulted u c

theorem WorkEnds.andThen {p : State → Prop} {r : SjR} {f : State → SjR} (h : ∀ s, r = (s, none) → WorkEnds p (f s)) :
    WorkEnds p (r.andThen f) := by
  obtain ⟨s, _ | c⟩ := r
  · exact h s rfl
  · exact .faulted s c

/-! ## A step submitted (R235, R257, R261) -/

/-- The step is submitted, or was refused and waits. -/
structure StepTaken (s t : State) (j : Nat) : Prop where
  rows : (sjAt t j).rows = (sjAt s j).rows
  taken : (t.bit BEAD_SJ_STATUS.IN_STEP j = true ∧ (sjAt t j).policed = none) ∨ ∃ m, (sjAt t j).policed = some (nowNs s, m)

theorem submitStep_taken {s : State} (hb : s.behaveReset = []) (j : Nat) : StepTaken s (submitStep j s) j := by
  have hk := submitJob_keeps (m := 24580) (by decide) s (sjOwner s j) (s.get BEAD_SJ_IMAGE j)
    { fn := sjOwner s j, user := 0, fromRing := false, sj := some j } (Keeps.refl _ s)
  have hinStep {u : State} (hu : u.behaveReset = []) : (u.set BEAD_SJ_STATUS.IN_STEP 1 j).bit BEAD_SJ_STATUS.IN_STEP j = true := by
    rw [State.bit, get_set_self _ _ _ _ _ hu (by decide)]
    rfl
  unfold submitStep
  split
  · next u hu =>
    have hok := hk.ok u hu
    have hbu := (hok.2 .behaveReset (by decide)).trans hb
    refine ⟨?_, .inl ⟨hinStep (by simpa using hbu), ?_⟩⟩
    · rw [sjAt_set, sjAt_setSj, hok.sjAt (by decide)]
    · rw [sjAt_set, sjAt_setSj]
  · next c u hu =>
    have herr := hk.err c u hu
    have hbu := (herr.2 .behaveReset (by decide)).trans hb
    have hnow : nowNs u = nowNs s := by rw [nowNs, show u.clk = s.clk from herr.2 .clk (by decide)]; rfl
    split
    · refine ⟨?_, .inr ⟨cycleAt u (activeBank u) (nowN u + 1), ?_⟩⟩
      · rw [State.bump, sjAt_set, sjAt_setSj, herr.sjAt (by decide)]
      · rw [State.bump, sjAt_set, sjAt_setSj, hnow]
    · refine ⟨?_, .inl ⟨?_, ?_⟩⟩
      · rw [sjAt_setSj]
        show (sjAt u j).rows = _
        rw [herr.sjAt (by decide)]
      · rw [State.bit, setSj_get]
        exact hinStep hbu
      · rw [sjAt_setSj]

/-! ## The boundary (R256 to R259) -/

/-- A boundary without a fault finds no row and polls from then on, or has its rows in a step. -/
def BoundaryDone (t : State) (j : Nat) : Prop :=
  ((sjAt t j).rows = [] ∧ ∃ p, (sjAt t j).polling = some p ∧ nowNs t ≤ p) ∨
  ((sjAt t j).rows ≠ [] ∧ (t.bit BEAD_SJ_STATUS.IN_STEP j = true ∨ (sjAt t j).policed.isSome = true))

theorem launchStep_done (j : Nat) (joined : List Nat) (s : State) :
    WorkEnds (fun t => t.behaveReset = [] → BoundaryDone t j) (launchStep j joined s) := by
  unfold launchStep
  dsimp only
  generalize List.map _ _ = rows
  split
  · next hrows =>
    intro _ _
    refine .inl ⟨?_, _, congrArg Sj.polling (sjAt_setSj ..), Nat.le_add_right _ _⟩
    rw [sjAt_setSj, sjAt_setSj]
    simpa using hrows
  · next hrows =>
    refine .andThen fun u hu _ hb => ?_
    have hk := ofPair1 hu (batchTable_keeps (m := 39728448516) (by decide) j rows joined _ (Keeps.refl _ _))
    have hbu : u.behaveReset = [] := by
      rw [← (submitStep_keeps (m := 134242308) (by decide) j u (Keeps.refl _ u)).2 .behaveReset (by decide)]
      exact hb
    obtain ⟨hsame, htaken⟩ := submitStep_taken hbu j
    refine .inr ⟨?_, htaken.imp (·.1) fun ⟨m, hm⟩ => by rw [hm]; rfl⟩
    rw [hsame, hk.sjAt (by decide), sjAt_setSj]
    simpa using hrows

theorem boundaryWork_done (j : Nat) (s : State) :
    WorkEnds (fun t => t.behaveReset = [] → BoundaryDone t j) (boundaryWork j s) := by
  refine .read fun _ => .andThen fun u _ => ?_
  split
  · exact .faulted _ _
  · split
    · exact .faulted _ _
    · exact launchStep_done _ _ _

/-- What a boundary leaves: the slot FAULTED, or the boundary done. -/
def BoundaryEnds (s t : State) (j : Nat) : Prop :=
  t.get BEAD_SJ_STATUS.STATE j = Fn.faulted ∨
  ((sjAt t j).rows = [] ∧ ∃ p, (sjAt t j).polling = some p ∧ nowNs s ≤ p) ∨
  ((sjAt t j).rows ≠ [] ∧ (t.bit BEAD_SJ_STATUS.IN_STEP j = true ∨ (sjAt t j).policed.isSome = true))

theorem boundary_ends {s : State} {j : Nat} (hb : s.behaveReset = []) (hm : mayBound s j = true) (hp : (sjAt s j).polling = none) :
    BoundaryEnds s (boundary s j) j := by
  have hk := (boundaryWork_keeps (m := 57849963526) (by decide) j s (Keeps.refl _ s)).of
  have hdone := boundaryWork_done j s
  rw [boundary, if_pos ⟨hm, by rw [hp]; rfl⟩]
  generalize boundaryWork j s = r at hk hdone
  obtain ⟨u, c⟩ := r
  have hbu : u.behaveReset = [] := (hk.2 .behaveReset (by decide)).trans hb
  have hnow : nowNs u = nowNs s := by rw [nowNs, show u.clk = s.clk from hk.2 .clk (by decide)]; rfl
  cases c with
  | some c =>
    refine .inl ?_
    rw [sjEnd, sjPublish_state (by simpa using hbu)]
    exact faultFn_slot_state hbu j c
  | none =>
    have hend := hdone rfl hbu
    rw [BoundaryDone, hnow] at hend
    rw [sjEnd, BoundaryEnds, sjAt_sjPublish, sjPublish_inStep hbu]
    exact .inr hend

theorem exec_servingBoundary {j : Nat} (hj : j < 64) (s : State) : exec (.servingBoundary j) s = .next (boundary s j) :=
  congrArg Host.Outcome.next (if_pos hj)

theorem exec_servingPollExpiry {j : Nat} (hj : j < 64) (s : State) : exec (.servingPollExpiry j) s = .next (pollExpiry s j) :=
  congrArg Host.Outcome.next (if_pos hj)

/-- The slot with its poll time passed. -/
def pollEnded (s : State) (j : Nat) : State := setSj s j { sjAt s j with polling := none }

section
variable {s : State} {j p : Nat} (hp : (sjAt s j).polling = some p)
include hp

theorem pollExpiry_eq : pollExpiry s j = if p ≤ nowNs s ∧ mayBound s j then boundary (pollEnded s j) j else s := by
  unfold pollExpiry
  rw [hp]
  rfl

omit hp in
theorem mayBound_pollEnded : mayBound (pollEnded s j) j = mayBound s j := by
  unfold mayBound pollEnded State.bit sjFrozen sjOwner frozen State.bit
  dsimp only
  simp only [setSj_get, sjAt_setSj, fnAt_congr (setSj_fns ..)]

theorem pollExpiry_ends (hb : s.behaveReset = []) (hdue : p ≤ nowNs s) (hm : mayBound s j = true) :
    BoundaryEnds s (pollExpiry s j) j := by
  rw [pollExpiry_eq hp, if_pos ⟨hdue, hm⟩]
  have hends := boundary_ends (s := pollEnded s j) (j := j) (by simpa [pollEnded] using hb) (by rwa [mayBound_pollEnded])
    (congrArg Sj.polling (sjAt_setSj ..))
  have hnow : nowNs (pollEnded s j) = nowNs s := by unfold nowNs pollEnded; rw [setSj_clk]
  rwa [BoundaryEnds, hnow] at hends

theorem pollExpiry_early (h : nowNs s < p) : pollExpiry s j = s := by
  rw [pollExpiry_eq hp, if_neg fun hdue => Nat.not_le.2 h hdue.1]

end

end Sys2Proof.Machine
end

section
/-! PROOFS. The end of a step, its submission again, and the events that wait (10_serving.md R255, R260, R261). -/

namespace Sys2Proof.Machine

/-! ## What the read of a record leaves (R248, R251; 08_memory.md R214) -/

/-- Every register reads as before but the counts of the beads' cache and the marks of poison seen. -/
def SeenOnly (s t : State) : Prop :=
  ∀ o, o % 0x10000 ≠ 4 → o ∉ [BEAD_STATUS.W.off, BEAD_CACHE_HIT.off, BEAD_CACHE_MISS.off] → rdReg t o = rdReg s o

theorem SeenOnly.refl (s : State) : SeenOnly s s := fun _ _ _ => rfl

theorem SeenOnly.trans {s t u : State} (h : SeenOnly s t) (g : SeenOnly t u) : SeenOnly s u :=
  fun o h4 ho => (g o h4 ho).trans (h o h4 ho)

theorem SeenOnly.of_keeps {m : Nat} {s t : State} (h : Keeps m s t) (hr : m.testBit Part.regs.idx = false)
    (hb : m.testBit Part.behaveReset.idx = false) : SeenOnly s t :=
  fun o _ _ => rdReg_congr (h.2 .regs hr) (h.2 .behaveReset hb) o

theorem SeenOnly.of_regsBut {l : List Nat} {s t : State} (h : regsBut l s t)
    (hl : ∀ o ∈ l, o ∈ [BEAD_STATUS.W.off, BEAD_CACHE_HIT.off, BEAD_CACHE_MISS.off]) : SeenOnly s t :=
  fun o _ ho => h o fun hm => ho (hl o hm)

/-- The registers of the slots stand beside those. -/
theorem SeenOnly.get_slot {s t : State} (h : SeenOnly s t) {j : Nat} (hj : j < 64) (f : Fld)
    (hf : 0x3001000 ≤ f.off ∧ f.off < 0x3001080 ∧ f.s1 = 0x80 ∧ f.s2 = 0) : t.get f j = s.get f j := by
  unfold State.get
  rw [h]
  all_goals simp only [Fld.addr, hf, List.mem_cons, List.not_mem_nil, or_false]
  all_goals omega

theorem poisonSeenDev_seen (s : State) (a : Nat) : SeenOnly s (poisonSeenDev s a) :=
  fun o h4 _ => set_regsBut s _ _ _ _ o (by simp only [List.mem_singleton, Fld.addr]; omega)

/-- The registers that the cache of bead records counts in. -/
abbrev cacheRegs : List Nat := [BEAD_CACHE_HIT.off, BEAD_CACHE_MISS.off]

theorem beadRead_regsBut (s : State) (i : Nat) : regsBut cacheRegs s (beadRead s i) := by
  have hhit : regsBut cacheRegs s (s.bump BEAD_CACHE_HIT) := set_regsBut_mem s BEAD_CACHE_HIT _ 0 0 (by decide)
  have hmiss : regsBut cacheRegs s (s.bump BEAD_CACHE_MISS) := set_regsBut_mem s BEAD_CACHE_MISS _ 0 0 (by decide)
  have hcounted : regsBut cacheRegs s
      (if s.beadUse.elem i then s.bump BEAD_CACHE_HIT else raiseMem (s.bump BEAD_CACHE_MISS) 19 (beadBase i) 64) := by
    split
    · exact hhit
    · exact regsBut_trans hmiss (raiseMem_regsBut _ _ _ _ _ _ _)
  exact fun o ho => (rdReg_congr rfl rfl o).trans (hcounted o ho)

theorem beadRead_only (s : State) (i : Nat) : Keeps 34628173828 s (beadRead s i) :=
  beadRead_keeps (by decide) s i (Keeps.refl _ s)

theorem beadPoison_seen (s : State) (i : Nat) : SeenOnly s (beadPoison s i) :=
  (SeenOnly.of_regsBut (set_regsBut s BEAD_STATUS.POISON_SEEN 1 0 0) (by decide)).trans (poisonSeenDev_seen _ _)

theorem seeBead_seen (i : Nat) (s : State) : SeenOnly s (seeBead i s).1 := by
  have hread : SeenOnly s (beadRead s i) := .of_regsBut (beadRead_regsBut s i) (by decide)
  unfold seeBead
  dsimp only
  split
  · exact hread.trans (beadPoison_seen _ i)
  · exact hread

theorem SeenOnly.bput {s t : State} (h : SeenOnly s t) (i : Nat) (f : BFld) (v : Nat) : SeenOnly s (bput t i f v) :=
  h.trans (.of_keeps (bput_keeps (m := 1024) (by decide) t i f v (Keeps.refl _ t)) (by decide) (by decide))

theorem SeenOnly.andThen {s : State} {r : SjR} {f : State → SjR} (hr : SeenOnly s r.1) (hf : ∀ u, SeenOnly u (f u).1) :
    SeenOnly s (r.andThen f).1 := by
  obtain ⟨u, _ | c⟩ := r
  · exact hr.trans (hf u)
  · exact hr

theorem sjRead_seen {f : Bytes → State → SjR} (hf : ∀ b u, SeenOnly u (f b u).1) (j o n : Nat) (s : State) :
    SeenOnly s (sjRead j o n f s).1 := by
  rcases sjRead_cases j o n f s with h | ⟨u, c, h, rfl | ⟨a, rfl⟩⟩
  · rw [h]
    exact hf _ s
  · rw [h]
    exact .refl _
  · rw [h]
    exact poisonSeenDev_seen s a

/-- The row of a completed step: its bead's record is read and written. -/
theorem rowDone_seen (j : Nat) (s : State) (k : Nat) (r : Nat × Nat) : SeenOnly s (rowDone j s k r).1 := by
  unfold rowDone
  dsimp only
  refine sjRead_seen (fun b u => .andThen (seeBead_seen r.1 u) fun v => ?_) _ _ _ s
  have hpos (p x : Nat) := ((SeenOnly.refl v).bput r.1 BF.pos p).bput r.1 BF.progress x
  split <;> split
  · exact ((hpos _ _).bput _ _ _).bput _ _ _
  · exact (hpos _ _).bput _ _ _
  · exact (hpos _ _).bput _ _ _
  · exact hpos _ _

theorem sjEach_seen {α : Type} {f : State → α → SjR} (hf : ∀ s a, SeenOnly s (f s a).1) (l : List α) (s : State) :
    SeenOnly s (sjEach l f s).1 :=
  List.foldlRecOn l _ (motive := fun r : SjR => SeenOnly s r.1) (SeenOnly.refl s) fun _ h a _ => h.andThen fun u => hf u a

/-! ## The end of a step (R260, R261) -/

/-- What the step's code does to the rows. -/
def stepRows (s : State) (j c : Nat) : SjR :=
  let rows := (sjAt s j).rows
  if c = Code.done then sjEach (rows.zip (List.range rows.length)) (fun s q => rowDone j s q.2 q.1) s else (s, none)

/-- The pages that waited are free, the slot holds no rows, and no step is in progress. -/
def stepCleared (s : State) (j : Nat) : State :=
  let s := markPages s j (sjAt s j).pend false
  let s := setSj s j { sjAt s j with stepCode := none, rows := [], pend := [] }
  (s.set BEAD_SJ_STATUS.IN_STEP 0 j).set BEAD_SJ_RUNNING 0 j

/-- A step with DONE is counted. -/
def stepCounted (s : State) (j c : Nat) : State :=
  if c = Code.done then s.bump2 BEAD_SJ_STEP_LO BEAD_SJ_STEP_HI j else s

/-- The slot FAULTED by a step that failed, or STOPPED after its last. -/
def stepSettled (s : State) (j c : Nat) : State :=
  let st := s.get BEAD_SJ_STATUS.STATE j
  if c ≠ Code.done ∧ (st = Fn.running ∨ st = Fn.stopping) then faultFn s (sjFn j) c
  else if st = Fn.stopping then setFnState s (sjFn j) Fn.stopped
  else s

theorem stepDone_eq {s : State} {j c : Nat} (h : (sjAt s j).stepCode = some c) : stepDone s j =
    sjPublish (stepSettled (stepCounted (stepCleared (sjEnd j (stepRows s j c)) j) j c) j c) j := by
  unfold stepDone
  rw [h]
  rfl

theorem stepRows_keeps (s : State) (j c : Nat) : Keeps 34762392580 s (stepRows s j c).1 := by
  unfold stepRows
  dsimp only
  split
  · exact (sjEach_keeps (by decide) _ _ s (fun _ _ h => rowDone_keeps (by decide) _ _ _ _ h) (Keeps.refl _ s)).of
  · exact Keeps.refl _ s

theorem stepRows_seen (s : State) (j c : Nat) : SeenOnly s (stepRows s j c).1 := by
  unfold stepRows
  dsimp only
  split
  · refine sjEach_seen (fun s q => ?_) _ s
    exact rowDone_seen j s q.2 q.1
  · exact .refl s

/-- The slot once the rows are done: it may have been FAULTED, and has no other register changed. -/
structure RowsDone (s t : State) (j : Nat) : Prop where
  behave : t.behaveReset = []
  state : t.get BEAD_SJ_STATUS.STATE j = s.get BEAD_SJ_STATUS.STATE j ∨ t.get BEAD_SJ_STATUS.STATE j = Fn.faulted
  steps : t.get2 BEAD_SJ_STEP_LO BEAD_SJ_STEP_HI j = s.get2 BEAD_SJ_STEP_LO BEAD_SJ_STEP_HI j

theorem stepRows_done {s : State} {j : Nat} (hb : s.behaveReset = []) (hj : j < 64) (c : Nat) :
    RowsDone s (sjEnd j (stepRows s j c)) j := by
  have hk := stepRows_keeps s j c
  have hseen := stepRows_seen s j c
  generalize stepRows s j c = r at hk hseen
  obtain ⟨u, d⟩ := r
  have hbu : u.behaveReset = [] := (hk.2 .behaveReset (by decide)).trans hb
  have hlo : u.get BEAD_SJ_STEP_LO j = s.get BEAD_SJ_STEP_LO j := hseen.get_slot hj _ (by decide)
  have hhi : u.get BEAD_SJ_STEP_HI j = s.get BEAD_SJ_STEP_HI j := hseen.get_slot hj _ (by decide)
  cases d with
  | none => exact ⟨hbu, .inl (hseen.get_slot hj _ (by decide)), by rw [sjEnd, State.get2, hlo, hhi]; rfl⟩
  | some d =>
    refine ⟨by simpa [sjEnd] using hbu, .inr (faultFn_slot_state hbu j d), ?_⟩
    rw [sjEnd, State.get2, faultFn_slot_get hbu j d _ (.inl (by simp only [Fld.addr]; omega)),
      faultFn_slot_get hbu j d _ (.inl (by simp only [Fld.addr]; omega)), hlo, hhi]
    rfl

theorem stepRows_ofFailed {s : State} {j c : Nat} (hc : c ≠ Code.done) : sjEnd j (stepRows s j c) = s := by
  rw [stepRows, if_neg hc]
  rfl

section
variable {s : State} (j : Nat)

theorem stepCleared_record : (sjAt (stepCleared s j) j).stepCode = none ∧ (sjAt (stepCleared s j) j).rows = [] ∧
    (sjAt (stepCleared s j) j).pend = [] := by
  unfold stepCleared
  dsimp only
  rw [sjAt_set, sjAt_set, sjAt_setSj]
  exact ⟨rfl, rfl, rfl⟩

theorem stepCleared_behave : (stepCleared s j).behaveReset = s.behaveReset := by simp [stepCleared, markPages]

variable (hb : s.behaveReset = [])
include hb

theorem stepCleared_get (f : Fld) (hf : f.addr j ≠ BEAD_SJ_RUNNING.addr j)
    (hs : f.addr j ≠ BEAD_SJ_STATUS.W.addr j ∨ f.lo + f.w ≤ 13 ∨ 14 ≤ f.lo) : (stepCleared s j).get f j = s.get f j := by
  unfold stepCleared
  dsimp only
  rw [get_set_reg _ _ _ _ _ _ _ _ hf, get_set_apart _ BEAD_SJ_STATUS.IN_STEP _ _ _ _ _ _ (by simp [markPages, hb]) (by decide)
    (hs.imp id Or.symm), setSj_get, markPages, setSj_get]

theorem stepCleared_inStep : (stepCleared s j).get BEAD_SJ_STATUS.IN_STEP j = 0 := by
  unfold stepCleared
  dsimp only
  rw [get_set_reg _ _ _ _ _ _ _ _ (by simp only [Fld.addr]; omega), get_set_self _ _ _ _ _ (by simp [markPages, hb]) (by decide)]
  rfl

theorem stepCleared_running : (stepCleared s j).get BEAD_SJ_RUNNING j = 0 := by
  unfold stepCleared
  dsimp only
  rw [get_set_self _ _ _ _ _ (by simp [markPages, hb]) (by decide)]
  rfl

end

section
variable (s : State) (j c : Nat)

theorem stepCounted_only : Keeps 4 s (stepCounted s j c) :=
  ite_keeps (State.bump2_keeps (by decide) s _ _ _ _ _ (Keeps.refl _ s)) (Keeps.refl _ s)

theorem stepCounted_get (f : Fld) (hl : f.addr j ≠ BEAD_SJ_STEP_LO.addr j) (hh : f.addr j ≠ BEAD_SJ_STEP_HI.addr j) :
    (stepCounted s j c).get f j = s.get f j := by
  unfold stepCounted State.bump2 State.set2
  split
  · rw [get_set_reg _ _ _ _ _ _ _ _ hh, get_set_reg _ _ _ _ _ _ _ _ hl]
  · rfl

theorem stepSettled_only : Keeps 4 s (stepSettled s j c) :=
  ite_keeps (faultFn_keeps (by decide) s _ _ (Keeps.refl _ s))
    (ite_keeps (setFnState_keeps (by decide) s _ _ (Keeps.refl _ s)) (Keeps.refl _ s))

variable {s} (hb : s.behaveReset = [])
include hb

theorem stepSettled_get (f : Fld) (hf : f.addr j ≠ BEAD_SJ_STATUS.W.addr j ∨ 3 ≤ f.lo ∧ f.lo + f.w ≤ 24) :
    (stepSettled s j c).get f j = s.get f j := by
  unfold stepSettled
  dsimp only
  split
  · exact faultFn_slot_get hb j c f hf
  · split
    · rw [setFnState_slot, get_set_apart _ BEAD_SJ_STATUS.STATE _ _ _ _ _ _ hb (by decide) (hf.imp id fun h => .inl h.1)]
    · rfl

end

/-- The slot after a step whose code was not DONE, while it was RUNNING. -/
theorem stepSettled_failed {s : State} {j c : Nat} (hb : s.behaveReset = []) (hc : c ≠ Code.done) (hlt : c < 256)
    (hr : s.get BEAD_SJ_STATUS.STATE j = Fn.running) : (stepSettled s j c).get BEAD_SJ_STATUS.STATE j = Fn.faulted ∧
      (stepSettled s j c).get BEAD_SJ_STATUS.FAULT_CODE j = c := by
  rw [stepSettled, if_pos ⟨hc, .inl hr⟩]
  exact ⟨faultFn_slot_state hb j c, faultFn_slot_code hb j hlt⟩

/-- After a step with DONE a STOPPING slot is STOPPED, and any other stays as it is. -/
theorem stepSettled_done {s : State} {j : Nat} (hb : s.behaveReset = []) :
    (stepSettled s j Code.done).get BEAD_SJ_STATUS.STATE j =
      if s.get BEAD_SJ_STATUS.STATE j = Fn.stopping then Fn.stopped else s.get BEAD_SJ_STATUS.STATE j := by
  rw [stepSettled, if_neg fun h => h.1 rfl]
  split
  · rw [setFnState_slot, get_set_self _ _ _ _ _ hb (by decide)]
    rfl
  · rfl

theorem exec_stepComplete {j : Nat} (hj : j < 64) (s : State) : exec (.stepComplete j) s = .next (stepDone s j) :=
  congrArg Host.Outcome.next (if_pos hj)

/-- What the end of a step leaves, whatever its code. -/
structure StepEnded (s t : State) (j c : Nat) : Prop where
  inStep : t.bit BEAD_SJ_STATUS.IN_STEP j = false
  running : t.get BEAD_SJ_RUNNING j = 0
  record : (sjAt t j).stepCode = none ∧ (sjAt t j).rows = [] ∧ (sjAt t j).pend = []
  failed : c ≠ Code.done → c < 256 → s.get BEAD_SJ_STATUS.STATE j = Fn.running →
    t.get BEAD_SJ_STATUS.STATE j = Fn.faulted ∧ t.get BEAD_SJ_STATUS.FAULT_CODE j = c
  steps : c = Code.done → t.get2 BEAD_SJ_STEP_LO BEAD_SJ_STEP_HI j = (s.get2 BEAD_SJ_STEP_LO BEAD_SJ_STEP_HI j + 1) % 2 ^ 64
  state : c = Code.done → t.get BEAD_SJ_STATUS.STATE j = Fn.faulted ∨ t.get BEAD_SJ_STATUS.STATE j =
    if s.get BEAD_SJ_STATUS.STATE j = Fn.stopping then Fn.stopped else s.get BEAD_SJ_STATUS.STATE j

theorem stepDone_ended {s : State} {j c : Nat} (hb : s.behaveReset = []) (hj : j < 64) (h : (sjAt s j).stepCode = some c) :
    StepEnded s (stepDone s j) j c := by
  rw [stepDone_eq h]
  obtain ⟨hbx, hstate, hsteps⟩ := stepRows_done hb hj c
  have hfailed (hc : c ≠ Code.done) := stepRows_ofFailed (s := s) (j := j) hc
  generalize sjEnd j (stepRows s j c) = x at hbx hstate hsteps hfailed
  have hby : (stepCleared x j).behaveReset = [] := (stepCleared_behave j).trans hbx
  have hbz : (stepCounted (stepCleared x j) j c).behaveReset = [] :=
    ((stepCounted_only _ j c).2 .behaveReset (by decide)).trans hby
  have hbw := ((stepSettled_only _ j c).2 .behaveReset (by decide)).trans hbz
  have hst : (stepCounted (stepCleared x j) j c).get BEAD_SJ_STATUS.STATE j = x.get BEAD_SJ_STATUS.STATE j := by
    rw [stepCounted_get _ _ _ _ (by simp only [Fld.addr]; omega) (by simp only [Fld.addr]; omega),
      stepCleared_get j hbx _ (by simp only [Fld.addr]; omega) (.inr (.inl (by decide)))]
  constructor
  case inStep =>
    rw [sjPublish_inStep hbw, State.bit, stepSettled_get j c hbz _ (.inr (by decide)),
      stepCounted_get _ _ _ _ (by simp only [Fld.addr]; omega) (by simp only [Fld.addr]; omega), stepCleared_inStep j hbx]
    rfl
  case running =>
    rw [sjPublish_get hbw j _ (by decide), stepSettled_get j c hbz _ (.inl (by simp only [Fld.addr]; omega)),
      stepCounted_get _ _ _ _ (by simp only [Fld.addr]; omega) (by simp only [Fld.addr]; omega), stepCleared_running j hbx]
  case record =>
    rw [sjAt_sjPublish, (stepSettled_only _ j c).sjAt (by decide), (stepCounted_only _ j c).sjAt (by decide)]
    exact stepCleared_record j
  case failed =>
    intro hc hlt hr
    rw [sjPublish_state hbw, sjPublish_code hbw]
    exact stepSettled_failed hbz hc hlt (by rw [hst, hfailed hc, hr])
  case steps =>
    rintro rfl
    rw [State.get2, sjPublish_get hbw j _ (by decide), sjPublish_get hbw j _ (by decide),
      stepSettled_get j _ hbz _ (.inl (by simp only [Fld.addr]; omega)),
      stepSettled_get j _ hbz _ (.inl (by simp only [Fld.addr]; omega)), ← State.get2, stepCounted, if_pos rfl, State.bump2,
      get2_set2 _ _ _ _ _ _ hby (by decide) (by decide) (by simp only [Fld.addr]; omega), State.get2,
      stepCleared_get j hbx _ (by simp only [Fld.addr]; omega) (.inl (by simp only [Fld.addr]; omega)),
      stepCleared_get j hbx _ (by simp only [Fld.addr]; omega) (.inl (by simp only [Fld.addr]; omega)), ← State.get2, hsteps]
  case state =>
    rintro rfl
    rw [sjPublish_state hbw, stepSettled_done hbz, hst]
    rcases hstate with hsame | hfault
    · rw [hsame]
      exact .inr rfl
    · rw [hfault]
      exact .inl rfl

/-! ## A refused step submitted again (R261) -/

theorem exec_stepResubmit {j : Nat} (hj : j < 64) (s : State) : exec (.stepResubmit j) s = .next (resubmit s j) :=
  congrArg Host.Outcome.next (if_pos hj)

/-- The time of a refused step has come: its next cycle start, or a poll time after the refusal while no bank is active. -/
abbrev ResubmitDue (s : State) (j since next : Nat) : Prop :=
  if calActive s then next ≤ nowN s else since + sjPoll s j ≤ nowNs s

theorem resubmit_eq {s : State} {j since next : Nat} (h : (sjAt s j).policed = some (since, next))
    (hr : s.get BEAD_SJ_STATUS.STATE j = Fn.running) (hf : sjFrozen s j = false) :
    resubmit s j = if ResubmitDue s j since next then submitStep j s else s := by
  unfold resubmit ResubmitDue
  rw [h]
  dsimp only
  rw [hr, hf]
  cases calActive s <;> simp

/-! ## The writes of the controller to W (R252; 13_filigree.md R324) -/

/-- Every register reads as before but the floor of the Almanac and the ports' counts of bytes sent. -/
def SentOnly (s t : State) : Prop := ∀ o, ALM_FLOOR_HI.off < o → o < 0x1C0000 ∨ 0x1C2000 ≤ o → rdReg t o = rdReg s o

theorem SentOnly.refl (s : State) : SentOnly s s := fun _ _ _ => rfl

theorem SentOnly.trans {s t u : State} (h : SentOnly s t) (g : SentOnly t u) : SentOnly s u :=
  fun o h1 h2 => (g o h1 h2).trans (h o h1 h2)

theorem SentOnly.of_keeps {m : Nat} {s t : State} (h : Keeps m s t) (hr : m.testBit Part.regs.idx = false)
    (hb : m.testBit Part.behaveReset.idx = false) : SentOnly s t :=
  fun o _ _ => rdReg_congr (h.2 .regs hr) (h.2 .behaveReset hb) o

theorem SentOnly.forEach {α : Type} {f : State → α → State} (hf : ∀ s a, SentOnly s (f s a)) (l : List α) (s : State) :
    SentOnly s (forEach l f s) :=
  List.foldlRecOn l f (SentOnly.refl s) (fun t h a _ => h.trans (hf t a))

theorem SentOnly.get {s t : State} (h : SentOnly s t) (f : Fld) (i k : Nat) (hl : ALM_FLOOR_HI.off < f.addr i k)
    (hh : f.addr i k < 0x1C0000 ∨ 0x1C2000 ≤ f.addr i k) : t.get f i k = s.get f i k := by
  unfold State.get
  rw [h _ hl hh]

theorem issue_sentOnly (s : State) : SentOnly s (issue s) :=
  fun o hl _ => set2_regsBut s ALM_FLOOR_LO ALM_FLOOR_HI _ 0 0 o
    (by simp only [List.mem_cons, List.not_mem_nil, or_false, Fld.addr] at hl ⊢; omega)

theorem newTxn_sentOnly (s : State) (opc vc dst off : Nat) (l : Bytes) : SentOnly s (newTxn s opc vc dst off l).1 := by
  have hreset := (newTxn_keeps (m := 4294967300) (by decide) s opc vc dst off l (Keeps.refl _ s)).of.2 .behaveReset (by decide)
  have hissue := (issue_keeps (m := 4) (by decide) s (Keeps.refl _ s)).2 .behaveReset (by decide)
  have hregs : (newTxn s opc vc dst off l).1.regs = (issue s).regs := by
    unfold newTxn
    rfl
  exact (issue_sentOnly s).trans fun o _ _ => rdReg_congr hregs (hreset.trans hissue.symm) o

theorem mem_upPorts {s : State} {role q : Nat} (h : q ∈ upPorts s role) : q < 24 := by
  rw [upPorts, List.mem_filter, List.mem_range] at h
  exact h.1

theorem mem_portSet {s : State} {dst q : Nat} (h : q ∈ portSet s dst) : q < 24 := by
  have hown (hq : q ∈ if inBangle s dst then (upPorts s 1).filter (fun q => s.get FIL_PORT_CFG.PEER q == dst) else []) :
      q < 24 := by
    split at hq
    · exact mem_upPorts (List.mem_filter.1 hq).1
    · exact absurd hq List.not_mem_nil
  rw [portSet] at h
  by_cases hown' : !(if inBangle s dst then (upPorts s 1).filter (fun q => s.get FIL_PORT_CFG.PEER q == dst) else []).isEmpty
  · rw [if_pos hown'] at h
    exact hown h
  · rw [if_neg hown'] at h
    repeat' split at h
    any_goals exact mem_upPorts h
    exact absurd h List.not_mem_nil

/-- A port that is picked is one of the 24. -/
theorem pickPort_lt {s : State} {dst q : Nat} (h : pickPort s dst = some q) : q < 24 := by
  unfold pickPort at h
  split at h
  · split at h
    · cases h
    · exact mem_portSet (List.mem_of_getElem? h)
  · cases h

theorem putOnLink_sentOnly (s : State) {q : Nat} (hq : q < 24) (x : Txn) : SentOnly s (putOnLink s q x) := by
  have hraise := raiseReq_keeps (m := 34359738368) (by decide) s (65536 + q) (egressOf s x) (flitsOf x) false 0 (Keeps.refl _ s)
  unfold putOnLink State.bump2
  dsimp only
  refine (SentOnly.of_keeps hraise (by decide) (by decide)).trans fun o _ ho => ?_
  refine (set2_regsBut _ FIL_PORT_TX_BYTES_LO FIL_PORT_TX_BYTES_HI _ q 0 o ?_).trans (rdReg_congr rfl rfl o)
  simp only [List.mem_cons, List.not_mem_nil, or_false, Fld.addr]
  omega

theorem sendTxn_sentOnly (s : State) (x : Txn) : SentOnly s (sendTxn s x) := by
  have hdest (d : Dest) : SentOnly s (setDest s x.dst d) := fun o _ _ => rdReg_congr rfl rfl o
  unfold sendTxn
  split
  · next q hq =>
    refine (hdest { destAt s x.dst with port := some q, clasp := claspFor s x.dst }).trans ?_
    dsimp only
    unfold sendOn
    dsimp only
    split
    · exact putOnLink_sentOnly _ (pickPort_lt hq) x
    · exact fun o _ _ => rdReg_congr rfl rfl o
  · exact hdest _

theorem askInv_sentOnly (s : State) (a n : Nat) (but : Option Nat) : SentOnly s (askInv s a n but) := by
  refine .forEach (fun s l => .forEach (fun s node => ?_) _ s) _ s
  split
  · exact .refl s
  · exact (newTxn_sentOnly s 0x10 2 node (l * 128) []).trans (sendTxn_sentOnly _ _)

theorem homeWrite_sentOnly (s : State) (a : Nat) (l : Bytes) (bad : Bool) : SentOnly s (homeWrite s a l bad) := by
  unfold homeWrite
  dsimp only
  split
  · exact .of_keeps (devStore_only s a l bad) (by decide) (by decide)
  · exact (askInv_sentOnly s a l.length none).trans fun o _ _ => rdReg_congr rfl rfl o

theorem homeWrite_only (s : State) (a : Nat) (l : Bytes) (bad : Bool) : Keeps 39728448516 s (homeWrite s a l bad) :=
  homeWrite_keeps (by decide) s a l bad (Keeps.refl _ s)

/-- What admits a write to W (R252, R239). -/
theorem sjCode_write (s : State) (j o n : Nat) : sjCode s j o n true =
    if !(sjWin s j).valid || (sjWin s j).isGlobal || decide ((sjWin s j).size * 65536 < o + n) || (true && (sjWin s j).ro) then
      Code.windowViolation
    else devWriteCode s ((sjWin s j).base + o) n :=
  congrArg (ite _ Code.windowViolation) (if_pos rfl)

/-- A write to W is admitted after another as before it. -/
theorem sjCode_write_congr {m : Nat} {s t : State} (hr : SentOnly s t) (hk : Keeps m s t)
    (hw : m.testBit Part.wins.idx = false) (hf : m.testBit Part.fns.idx = false) (j o n : Nat) :
    sjCode t j o n true = sjCode s j o n true := by
  have hslot (f : Fld) (hf : 0x1C2000 ≤ f.off) : t.get f j = s.get f j :=
    hr.get f j 0 (by simp only [Fld.addr]; omega) (.inr (by simp only [Fld.addr]; omega))
  have hwin : sjWin t j = sjWin s j := by
    unfold sjWin sjOwner
    rw [winAt_congr (hk.2 .wins hw), hslot _ (by decide), hslot _ (by decide)]
  have hnode : ownNode t = ownNode s := hr.get FIL_NODE 0 0 (by decide) (by decide)
  have htop : memTop t = memTop s := by unfold memTop; rw [hr.get _ 0 0 (by decide) (by decide)]
  have hdev (a : Nat) : devWriteCode t a n = devWriteCode s a n := by
    unfold devWriteCode
    simp only [htop, encAt_congr (hk.2 .wins hw) hnode, fnAt_congr (hk.2 .fns hf)]
  rw [sjCode_write, sjCode_write, hwin, hdev]

/-! ## The events that wait (R255, R261) -/

theorem exec_eventRingSpace {j : Nat} (hj : j < 64) (s : State) : exec (.eventRingSpace j) s = .next (evtSpace s j) :=
  congrArg Host.Outcome.next (if_pos hj)

/-- TAIL of the event ring as the controller reads it. -/
def evtTail (s : State) (j : Nat) : Nat := le (sjBytes s j (evtAt s j) 128) 0 4 % evtLen s j

/-- The event ring has no room. -/
def evtRingFull (s : State) (j : Nat) : Bool :=
  ringFull (evtTail s j) (le (sjBytes s j (evtAt s j) 128) 0x40 4 % evtLen s j) (evtLen s j)

section
variable {s : State} {j : Nat} {r : Bytes} (hw : (sjAt s j).evWait = [r])
include hw

theorem evtSpace_one : evtSpace s j = sjPublish (sjEnd j (evtDrain j 1 s)) j := by
  rw [evtSpace, hw]
  rfl

theorem evtSpace_frozen (hf : sjFrozen s j = true) : (sjAt (evtSpace s j) j).evWait = [r] := by
  have hdrain : evtDrain j 1 s = (s, none) := by
    unfold evtDrain
    rw [if_pos hf]
  rw [evtSpace_one hw, hdrain, sjEnd, sjAt_sjPublish, hw]

/-- The one event that waits is written where the ring has room for it. -/
theorem evtDrain_one (hf : sjFrozen s j = false) (hread : sjCode s j (evtAt s j) 128 false = Code.done) : evtDrain j 1 s =
    if evtRingFull s j then (s, none)
    else ((sjWrite j (evtAt s j + 128 + 32 * evtTail s j) r s).andThen
      (sjWrite j (evtAt s j) (bytesLe 4 ((evtTail s j + 1) % evtLen s j)))).andThen
        (fun t => (raiseMsix (setSj t j { sjAt t j with evWait := [] }) (sjOwner t j) 3, none)) := by
  unfold evtDrain
  rw [if_neg (by simp [hf]), hw]
  dsimp only
  rw [sjRead_done hread]
  rfl

theorem evtSpace_full (hb : s.behaveReset = []) (hf : sjFrozen s j = false)
    (hread : sjCode s j (evtAt s j) 128 false = Code.done) (hfull : evtRingFull s j = true) :
    (sjAt (evtSpace s j) j).evWait = [r] ∧ (evtSpace s j).bit BEAD_SJ_STATUS.EVT_FULL j = true := by
  rw [evtSpace_one hw, evtDrain_one hw hf hread, if_pos hfull, sjEnd, sjAt_sjPublish, sjPublish_evtFull hb, hw]
  exact ⟨rfl, rfl⟩

theorem evtSpace_writes (hb : s.behaveReset = []) (hf : sjFrozen s j = false)
    (hread : sjCode s j (evtAt s j) 128 false = Code.done) (hfull : evtRingFull s j = false)
    (hrec : sjCode s j (evtAt s j + 128 + 32 * evtTail s j) r.length true = Code.done)
    (htail : sjCode s j (evtAt s j) 4 true = Code.done) :
    (sjAt (evtSpace s j) j).evWait = [] ∧ (evtSpace s j).bit BEAD_SJ_STATUS.EVT_FULL j = false := by
  have hput := homeWrite_only s ((sjWin s j).base + (evtAt s j + 128 + 32 * evtTail s j)) r false
  have hsent := homeWrite_sentOnly s ((sjWin s j).base + (evtAt s j + 128 + 32 * evtTail s j)) r false
  rw [evtSpace_one hw, evtDrain_one hw hf hread, if_neg (by simp [hfull]), sjWrite_done hrec]
  generalize homeWrite s _ r false = u at hput hsent
  have hnext : sjCode u j (evtAt s j) (bytesLe 4 ((evtTail s j + 1) % evtLen s j)).length true = Code.done := by
    rw [bytesLe_length, sjCode_write_congr hsent hput (by decide) (by decide), htail]
  simp only [SjR.andThen]
  rw [sjWrite_done hnext]
  have hmoved := homeWrite_only u ((sjWin u j).base + evtAt s j) (bytesLe 4 ((evtTail s j + 1) % evtLen s j)) false
  generalize homeWrite u _ _ false = v at hmoved
  dsimp only [sjEnd]
  have hraised := raiseMsix_keeps (m := 2097152) (by decide) (setSj v j { sjAt v j with evWait := [] }) (sjOwner v j) 3
    (Keeps.refl _ _)
  have hrecord : (sjAt (raiseMsix (setSj v j { sjAt v j with evWait := [] }) (sjOwner v j) 3) j).evWait = [] := by
    rw [hraised.sjAt (by decide), sjAt_setSj]
  have hbv : (raiseMsix (setSj v j { sjAt v j with evWait := [] }) (sjOwner v j) 3).behaveReset = [] := by
    rw [hraised.2 .behaveReset (by decide), setSj_behaveReset, hmoved.2 .behaveReset (by decide),
      hput.2 .behaveReset (by decide), hb]
  rw [sjAt_sjPublish, sjPublish_evtFull hbv, hrecord]
  exact ⟨rfl, rfl⟩

end

/-! ## The statement -/

/-- Settles O28: START and STOP write the status register alone; a boundary that no fault ends comes to the launch of its step; the
rows of a step change no register of a slot but by a fault; a record is admitted to the ring as it was before the write beside it. -/
theorem servingSlots : Obligations.ServingSlots := by
  unfold Obligations.ServingSlots
  refine ⟨fun s j hs hj h => ⟨fun hc => ?_, fun c hlt hc => ?_⟩, fun s j hs hj h => ?_, fun s j hs hj hm hp => ?_,
    fun s j p hs hj hp => ⟨fun hdue hm => ?_, fun hearly => ?_⟩, fun s j c hs hj hc => ?_,
    fun s j since n hs hj hpol hr hf => ⟨fun hdue => ?_, fun hdue => ?_⟩,
    fun s j r hs hj hw => ⟨fun hf => ?_, fun hf hread hfull => ?_, fun hf hread hfull hrec htail => ?_⟩⟩
  · exact acts_of_exec (exec_sjStart hj s) (sjStart_passes hs h hc)
  · exact acts_of_exec (exec_sjStart hj s) (sjStart_refused hs h hlt hc)
  · exact acts_of_exec (exec_sjStop hj s) (sjStop_stops hs.1 h)
  · exact acts_of_exec (exec_servingBoundary hj s) (boundary_ends hs.1 hm hp)
  · exact acts_of_exec (exec_servingPollExpiry hj s) (pollExpiry_ends hp hs.1 hdue hm)
  · rw [exec_servingPollExpiry hj, pollExpiry_early hp hearly]
  · obtain ⟨hin, hrun, ⟨hcode, hrows, hpend⟩, hfailed, hsteps, hstate⟩ := stepDone_ended hs.1 hj hc
    refine acts_of_exec (exec_stepComplete hj s)
      ⟨hin, hrun, hcode, hrows, hpend, hfailed, fun hd => ⟨hsteps hd, fun h => ?_, fun h => ?_⟩⟩
    · exact ((hstate hd).imp id fun e => by rw [e, h]; rfl).symm
    · exact ((hstate hd).imp id fun e => by rw [e, h]; rfl).symm
  · refine acts_of_exec (exec_stepResubmit hj s) ?_
    rw [resubmit_eq hpol hr hf, if_pos hdue]
    exact (submitStep_taken hs.1 j).taken
  · rw [exec_stepResubmit hj, resubmit_eq hpol hr hf, if_neg hdue]
  · exact acts_of_exec (exec_eventRingSpace hj s) (evtSpace_frozen hw hf)
  · exact acts_of_exec (exec_eventRingSpace hj s) (evtSpace_full hw hs.1 hf hread hfull)
  · exact acts_of_exec (exec_eventRingSpace hj s) (evtSpace_writes hw hs.1 hf hread hfull hrec htail)

end Sys2Proof.Machine
end

section
/-! PROOFS. Moves of beads and the registers of the bead table (10_serving.md R250, R251, R262, R263). -/

namespace Sys2Proof.Machine

/-! ## Poison in device memory (08_memory.md R213, R214) -/

section
variable {s t : State} (hmems : t.mems = s.mems) (hmove : t.move = s.move)
  (hr : ∀ o, o < 0x3000000 ∨ o % 0x10000 = 4 → rdReg t o = rdReg s o)
include hmems hmove hr

omit hmems in
theorem stackOf_congr (a : Nat) : stackOf t a = stackOf s a := by
  have hget (f : Fld) (hf : f.addr < 0x3000000) : t.get f = s.get f := by unfold State.get; rw [hr _ (.inl hf)]
  have hstripe (b : Nat) (hb : b < 4096) : stripeOf t b = stripeOf s b := by
    unfold stripeOf
    rw [hr _ (.inl (by simp only [Fld.addr]; omega))]
  unfold stackOf survivors
  dsimp only
  rw [liveStacks_congr (hget MEM_STATUS.LIVE (by decide)), hmove, hget MEM_STATUS.MOVE_STACK (by decide),
    hstripe _ (Nat.mod_lt _ (by decide))]

/-- Poison is told by the memory, by the move of a stack, and by the registers of memory and its channels. -/
theorem badDev_congr (a n : Nat) : badDev t a n = badDev s a n := by
  unfold badDev
  simp only [stackOf_congr hmove hr, hmems]
  refine congrArg _ (congrArg (List.any _) (funext fun g => ?_))
  unfold State.get
  rw [hr _ (.inr (by simp only [Fld.addr]; omega))]

end

theorem beadBad_beadRead (s : State) (i k : Nat) : beadBad (beadRead s i) k = beadBad s k := by
  have hk := beadRead_only s i
  refine badDev_congr (hk.2 .mems (by decide)) (hk.2 .move (by decide)) (fun o ho => beadRead_regsBut s i o ?_) _ _
  simp only [List.mem_cons, List.not_mem_nil, or_false]
  omega

theorem beadBad_mbxEnd (s : State) (c i : Nat) : beadBad (mbxEnd s c) i = beadBad s i := by
  have hk := mbxEnd_keeps (m := 17179869184) (by decide) s c [] (Keeps.refl _ s)
  exact badDev_congr (hk.2 .mems (by decide)) (hk.2 .move (by decide))
    (fun o _ => rdReg_congr (hk.2 .regs (by decide)) (hk.2 .behaveReset (by decide)) o) _ _

/-- Whether the read of a record meets poison shows before it. -/
theorem seeBead_eq (i : Nat) (s : State) : seeBead i s =
    if beadBad s i then (beadPoison (beadRead s i) i, some Code.uncorrectable) else (beadRead s i, none) := by
  rw [← beadBad_beadRead s i i]
  rfl

/-! ## BEAD_RADIO_RESERVE (R250) -/

section
variable {s : State} (hs : s.sound) (v : Word)
include hs

theorem reserveWrite_rejected (h : wrongSide s (v.toNat % 2 ^ 21) = true) :
    (reserveWrite s v).get BEAD_STATUS.LIMIT_WRITE_REJECT = 1 ∧
      (reserveWrite s v).get BEAD_RADIO_RESERVE = s.get BEAD_RADIO_RESERVE := by
  unfold reserveWrite
  dsimp only
  rw [if_pos h, get_set_self _ _ _ _ _ hs.1 (by decide), get_set_reg _ _ _ _ _ _ _ _ (by decide)]
  exact ⟨rfl, rfl⟩

theorem reserveWrite_stored (h : wrongSide s (v.toNat % 2 ^ 21) = false) :
    (reserveWrite s v).get BEAD_RADIO_RESERVE = v.toNat % 2 ^ 21 ∧
      (reserveWrite s v).get BEAD_STATUS.LIMIT_WRITE_REJECT = s.get BEAD_STATUS.LIMIT_WRITE_REJECT := by
  have hset : (s.set BEAD_RADIO_RESERVE (v.toNat % 2 ^ 21)).sound := by simpa [State.sound] using hs
  unfold reserveWrite
  dsimp only
  rw [if_neg (ne_true_of_eq_false h), rewritten_sound _ _ hset, get_set_self _ _ _ _ _ hs.1 (by decide),
    get_set_reg _ _ _ _ _ _ _ _ (by decide)]
  exact ⟨Nat.mod_mod _ _, rfl⟩

end

/-! ## BEAD_SEL (R263) -/

theorem leNat_lt (l : Bytes) : leNat l < 2 ^ (8 * l.length) := by
  induction l with
  | nil => exact Nat.one_pos
  | cons b l ih =>
    have hb := b.isLt
    rw [leNat, List.length_cons, Nat.mul_succ, Nat.pow_add]
    omega

theorem devLe_lt (s : State) (a n : Nat) : devLe s a n < 2 ^ (8 * n) := by
  simpa [devLe] using leNat_lt ((List.range n).map fun i => devByte s (a + i))

theorem devLe_congr {s t : State} (hmems : t.mems = s.mems) (hctxs : t.ctxs = s.ctxs) (a n : Nat) : devLe t a n = devLe s a n := by
  unfold devLe devByte
  simp only [hmems, ctxAt_congr hctxs]

/-- The first n words of bead i's record shown in BEAD_REC. -/
def recordShown (s : State) (i n : Nat) : State :=
  forEach (List.range n) (fun s w => s.set BEAD_REC (devLe s (beadBase i + 4 * w) 4) w) s

theorem recordShown_succ (s : State) (i n : Nat) : recordShown s i (n + 1) =
    (recordShown s i n).set BEAD_REC (devLe (recordShown s i n) (beadBase i + 4 * n) 4) n := by
  unfold recordShown
  rw [List.range_succ]
  exact List.foldl_append

theorem recordShown_only (s : State) (i n : Nat) : Keeps 4 s (recordShown s i n) :=
  forEach_keeps (by decide) _ _ _ (fun t _ h => State.set_keeps (by decide) t _ _ _ _ h) (Keeps.refl _ s)

theorem recordShown_devLe (s : State) (i n a k : Nat) : devLe (recordShown s i n) a k = devLe s a k :=
  devLe_congr ((recordShown_only s i n).2 .mems (by decide)) ((recordShown_only s i n).2 .ctxs (by decide)) a k

theorem recordShown_below (s : State) (i n : Nat) : SameBelow BEAD_REC.off s (recordShown s i n) :=
  SameBelow.forEach (fun t w => SameBelow.set t BEAD_REC _ w 0 (by simp only [Fld.addr]; omega)) _ s

/-- Every word shown reads as the record's. -/
theorem recordShown_get {s : State} (hb : s.behaveReset = []) (i : Nat) {n w : Nat} (hw : w < n) :
    (recordShown s i n).get BEAD_REC w = devLe s (beadBase i + 4 * w) 4 := by
  induction n with
  | zero => exact absurd hw (Nat.not_lt_zero w)
  | succ n ih =>
    rw [recordShown_succ]
    by_cases hlast : w = n
    · rw [hlast, get_set_self _ _ _ _ _ (((recordShown_only s i n).2 .behaveReset (by decide)).trans hb) (by decide),
        recordShown_devLe]
      exact Nat.mod_eq_of_lt (devLe_lt ..)
    · rw [get_set_reg _ _ _ _ _ _ _ _ (by simp only [Fld.addr]; omega)]
      exact ih (by omega)

/-- The record selected and read, before a poisoned one faults its owner. -/
def recordRead (s : State) (i : Nat) : State := beadRead (s.set BEAD_SEL i) i

section
variable {s : State} (hs : s.sound) (v : Word)
include hs

theorem beadSelect_eq : beadSelect s v =
    let i := v.toNat % 2 ^ 20
    recordShown (if beadBad (recordRead s i) i then beadFault (recordRead s i) i else recordRead s i) i 16 := by
  have hset : (s.set BEAD_SEL (v.toNat % 2 ^ 20)).sound := by simpa [State.sound] using hs
  unfold beadSelect
  dsimp only
  rw [rewritten_sound _ _ hset]
  rfl

omit hs in
theorem recordRead_only (i : Nat) : Keeps 34628173828 s (recordRead s i) :=
  beadRead_keeps (by decide) _ i (State.set_keeps (by decide) s _ _ _ _ (Keeps.refl _ s))

omit hs in
theorem beadBad_recordRead (i : Nat) : beadBad (recordRead s i) i = beadBad s i := by
  refine (beadBad_beadRead _ i i).trans (badDev_congr (State.set_mems ..) (State.set_move ..) (fun o ho => ?_) _ _)
  exact rdReg_set_other s _ _ _ _ o (by simp only [Fld.addr]; omega)

theorem beadSelect_words {w : Nat} (hw : w < 16) : (beadSelect s v).get BEAD_REC w =
    devLe (beadSelect s v) (beadBase (v.toNat % 2 ^ 20) + 4 * w) 4 := by
  rw [beadSelect_eq hs v]
  dsimp only
  generalize v.toNat % 2 ^ 20 = i
  have hread : (recordRead s i).behaveReset = [] := ((recordRead_only i).2 .behaveReset (by decide)).trans hs.1
  rw [recordShown_devLe, recordShown_get _ i hw]
  split
  · exact ((beadFault_keeps (m := 48343548932) (by decide) _ i (Keeps.refl _ _)).2 .behaveReset (by decide)).trans hread
  · exact hread

theorem beadSelect_clean (h : beadBad s (v.toNat % 2 ^ 20) = false) :
    (beadSelect s v).get BEAD_SEL = v.toNat % 2 ^ 20 ∧ (beadSelect s v).mems = s.mems := by
  rw [beadSelect_eq hs v]
  dsimp only
  rw [beadBad_recordRead, h, if_neg Bool.false_ne_true]
  refine ⟨?_, ((recordShown_only _ _ 16).2 .mems (by decide)).trans ((recordRead_only _).2 .mems (by decide))⟩
  rw [(recordShown_below _ _ 16).get _ _ _ (by decide), recordRead, get_of_regsBut (beadRead_regsBut _ _) _ _ _ (by decide),
    get_set_self _ _ _ _ _ hs.1 (by decide)]
  exact Nat.mod_mod _ _

end

/-! ## A move that arrives (R262 step 3) -/

theorem exec_beadMoveReceive {j : Nat} (hj : j < 64) (m : BeadMoveMsg) (s : State) :
    exec (.beadMoveReceive j m) s = .next (moveIn s j m) := congrArg Host.Outcome.next (if_pos hj)

/-- A move is taken only where a bead can be placed. -/
theorem placeBead_of_moveCode {s : State} {j : Nat} {m : BeadMoveMsg} (h : moveCode s j m = Code.done) :
    ∃ i, placeBead s Bead.sequence (sjOwner s j) = some i := by
  rw [moveCode, firstCode_done (by decide), firstCode_done (by decide)] at h
  obtain ⟨-, hplace, -⟩ := h
  exact Option.isSome_iff_exists.1 (by simpa using hplace)

/-- The arriving bead with its record, and then its pages and its event. -/
def moveTaken (s : State) (j i : Nat) (m : BeadMoveMsg) : SjR :=
  let f (g : BFld) : Nat := le m.record g.1 g.2
  let u := newBead s i Bead.sequence Bead.waiting 2 (sjOwner s j) j (f BF.admitTime) (f BF.user)
    (bytesLe 4 noPage ++ bytesLe 4 noPage ++ bytesLe 4 0 ++ bytesLe 4 (f BF.pos) ++ bytesLe 4 (f BF.prompt) ++
      bytesLe 4 (f BF.limit) ++ bytesLe 4 (f BF.payload) ++ bytesLe 2 (f BF.recomputes))
  ((allocate j i m.pages.length u).andThen (writePages j (lowPages (sjAt u j).busy m.pages.length 0) m)).andThen
    (eventOf j Code.done Ev.movedIn i)

theorem andThen_keeps {m : Nat} {s : State} {r : SjR} {f : State → SjR} (hr : Keeps m s r.1)
    (hf : ∀ u, Keeps m s u → Keeps m s (f u).1) : Keeps m s (r.andThen f).1 := by
  obtain ⟨u, _ | c⟩ := r
  · exact hf u hr
  · exact hr

theorem moveTaken_keeps (s : State) (j i : Nat) (m : BeadMoveMsg) : Keeps 39864763396 s (moveTaken s j i m).1 := by
  refine andThen_keeps (andThen_keeps (allocate_keeps (by decide) _ _ _ _ (newBead_keeps (by decide) _ _ _ _ _ _ _ _ _ _ ?_)).of
    fun u h => (writePages_keeps (by decide) _ _ _ _ h).of) fun u h => (eventOf_keeps (by decide) _ _ _ _ _ h).of
  exact Keeps.refl _ s

section
variable (s : State) (m : BeadMoveMsg) (c dst : Nat)

theorem answerMove_only : Keeps 1073741828 s (answerMove s m c dst) := answerMove_keeps (by decide) s m c dst (Keeps.refl _ s)

theorem answerMove_sent :
    (answerMove s m c dst).sent = s.sent ++ [.beadMoveAck m.src m.srcBead c dst (BitVec.ofNat 32 (issueTime s))] := by
  have hissue := (issue_keeps (m := 4) (by decide) s (Keeps.refl _ s)).2 .sent (by decide)
  exact congrArg (· ++ [Sent.beadMoveAck m.src m.srcBead c dst (BitVec.ofNat 32 (issueTime s))]) hissue

theorem answerMove_sentOnly : SentOnly s (answerMove s m c dst) := by
  have hregs : (answerMove s m c dst).regs = (issue s).regs := by
    unfold answerMove emit
    rfl
  have hreset := (issue_keeps (m := 4) (by decide) s (Keeps.refl _ s)).2 .behaveReset (by decide)
  exact (issue_sentOnly s).trans fun o _ _ =>
    rdReg_congr hregs (((answerMove_only s m c dst).2 .behaveReset (by decide)).trans hreset.symm) o

/-- An answer is the last thing sent. -/
theorem answerMove_last (j : Nat) : (sjPublish (answerMove s m c dst) j).sent.getLast? =
    some (.beadMoveAck m.src m.srcBead c dst (BitVec.ofNat 32 (issueTime s))) := by
  rw [(sjPublish_only _ j).2 .sent (by decide), answerMove_sent]
  exact List.getLast?_concat ..

end

section
variable (s : State) (j : Nat) (m : BeadMoveMsg)

/-- A move refused is answered, and nothing is stored. -/
theorem moveIn_refused (h : moveCode (raiseFloor s m.stamp m.src) j m ≠ Code.done) : moveIn s j m =
    answerMove (raiseFloor s m.stamp m.src) m (moveCode (raiseFloor s m.stamp m.src) j m) 0 := by
  unfold moveIn
  dsimp only
  split
  · rfl
  · rw [if_pos h]

theorem moveIn_taken {i : Nat} (h : moveCode (raiseFloor s m.stamp m.src) j m = Code.done)
    (hi : placeBead (raiseFloor s m.stamp m.src) Bead.sequence (sjOwner (raiseFloor s m.stamp m.src) j) = some i) :
    (∃ u, moveIn s j m = sjPublish (answerMove u m Code.done i) j) ∨
    ∃ u c, Keeps 39864763396 s u ∧ moveIn s j m = sjPublish (answerMove (faultFn u (sjFn j) c) m c 0) j := by
  have hfloor := raiseFloor_keeps (m := 39864763396) (by decide) s m.stamp m.src (Keeps.refl _ s)
  have hk := hfloor.trans (moveTaken_keeps (raiseFloor s m.stamp m.src) j i m)
  unfold moveIn
  dsimp only
  rw [hi]
  dsimp only
  rw [if_neg (not_not_intro h)]
  split
  · exact .inl ⟨_, rfl⟩
  · next u c hr =>
    refine .inr ⟨_, c, freeBead_keeps (by decide) _ i (markPages_keeps (by decide) _ j _ false ?_), rfl⟩
    have hfst : (moveTaken (raiseFloor s m.stamp m.src) j i m).1 = u := congrArg Prod.fst hr
    rwa [← hfst]

theorem answerMove_refuses (c : Nat) : (answerMove (raiseFloor s m.stamp m.src) m c 0).mems = s.mems ∧
    (answerMove (raiseFloor s m.stamp m.src) m c 0).sjs = s.sjs ∧ (answerMove (raiseFloor s m.stamp m.src) m c 0).sent =
      s.sent ++ [.beadMoveAck m.src m.srcBead c 0 (BitVec.ofNat 32 (issueTime (raiseFloor s m.stamp m.src)))] := by
  have hfloor := raiseFloor_keeps (m := 4) (by decide) s m.stamp m.src (Keeps.refl _ s)
  have hanswer := answerMove_only (raiseFloor s m.stamp m.src) m c 0
  refine ⟨(hanswer.2 .mems (by decide)).trans (hfloor.2 .mems (by decide)),
    (hanswer.2 .sjs (by decide)).trans (hfloor.2 .sjs (by decide)), ?_⟩
  rw [answerMove_sent, hfloor.2 .sent (by decide)]

variable {s} (hb : s.behaveReset = [])
include hb

theorem answerMove_faulted (c d dst : Nat) : (sjPublish (answerMove (faultFn s (sjFn j) c) m d dst) j).get BEAD_SJ_STATUS.STATE j =
    Fn.faulted := by
  have hfault : (faultFn s (sjFn j) c).behaveReset = [] := ((faultFn_keeps (m := 4) (by decide) s _ c (Keeps.refl _ s)).2
    .behaveReset (by decide)).trans hb
  have hreset := ((answerMove_only (faultFn s (sjFn j) c) m d dst).2 .behaveReset (by decide)).trans hfault
  rw [sjPublish_state hreset, (answerMove_sentOnly _ m d dst).get _ _ _ (by simp only [Fld.addr]; omega)
    (.inr (by simp only [Fld.addr]; omega)), faultFn_slot_state hb]

end

/-! ## The answer to a move (R262 step 4; 18_registers_mailbox.md R423) -/

/-- Slot j has no move that waits for its answer. -/
def NoMove (j : Nat) (s : State) : Prop := (sjAt s j).moving = none

theorem NoMove.keeps {j m : Nat} {s t : State} (h : NoMove j s) (hk : Keeps m s t) (hm : m.testBit Part.sjs.idx = false) :
    NoMove j t := by
  rw [NoMove, hk.sjAt hm]
  exact h

theorem NoMove.setSj {j : Nat} (s : State) {x : Sj} (h : x.moving = none) : NoMove j (setSj s j x) := by
  rw [NoMove, sjAt_setSj]
  exact h

theorem NoMove.andThen {j : Nat} {r : SjR} {f : State → SjR} (hr : NoMove j r.1) (hf : ∀ u, NoMove j u → NoMove j (f u).1) :
    NoMove j (r.andThen f).1 := by
  obtain ⟨u, _ | c⟩ := r
  · exact hf u hr
  · exact hr

theorem NoMove.sjRead {j : Nat} {s : State} (h : NoMove j s) {i o n : Nat} {f : Bytes → State → SjR}
    (hf : ∀ b, NoMove j (f b s).1) : NoMove j (sjRead i o n f s).1 := by
  rcases sjRead_cases i o n f s with hread | ⟨u, c, hread, rfl | ⟨a, rfl⟩⟩
  · rw [hread]
    exact hf _
  · rw [hread]
    exact h
  · rw [hread]
    exact h.keeps (poisonSeenDev_only s a) (by decide)

theorem NoMove.sjWrite {j : Nat} {s : State} (h : NoMove j s) (i o : Nat) (l : Bytes) : NoMove j (sjWrite i o l s).1 :=
  h.keeps (sjWrite_keeps (m := 39728448516) (by decide) i o l s (Keeps.refl _ s)).of (by decide)

theorem NoMove.evtDrain {j : Nat} (k : Nat) {s : State} (h : NoMove j s) : NoMove j (evtDrain j k s).1 := by
  induction k generalizing s with
  | zero => exact h
  | succ k ih =>
    unfold Machine.evtDrain
    split
    · exact h
    · refine h.sjRead fun b => ?_
      dsimp only
      split
      · exact h
      · refine ((h.sjWrite _ _ _).andThen fun u hu => hu.sjWrite _ _ _).andThen fun u hu => ih ?_
        refine .keeps (.setSj u ?_) (raiseMsix_keeps (m := 2097152) (by decide) _ _ _ (Keeps.refl _ _)) (by decide)
        exact hu

theorem NoMove.event {j : Nat} {s : State} (h : NoMove j s) (code ev bead user : Nat) : NoMove j (event j code ev bead user s).1 :=
  NoMove.evtDrain _ (NoMove.setSj s h)

theorem NoMove.eventOf {j : Nat} {s : State} (h : NoMove j s) (code ev i : Nat) : NoMove j (eventOf j code ev i s).1 :=
  h.event _ _ _ _

theorem NoMove.walkPages {j : Nat} {f : List Nat → State → SjR} (hf : ∀ l u, NoMove j u → NoMove j (f l u).1) (n : Nat)
    {p : Nat} {l : List Nat} {s : State} (h : NoMove j s) : NoMove j (walkPages j f n p l s).1 := by
  induction n generalizing p l s with
  | zero => exact hf l s h
  | succ n ih =>
    unfold Machine.walkPages
    split
    · exact hf l s h
    · exact h.sjRead fun b => ih h

theorem NoMove.bput {j : Nat} {s : State} (h : NoMove j s) (i : Nat) (f : BFld) (v : Nat) : NoMove j (bput s i f v) :=
  h.keeps (bput_keeps (m := 1024) (by decide) s i f v (Keeps.refl _ s)) (by decide)

theorem NoMove.mbxEnd {j : Nat} {s : State} (h : NoMove j s) (code : Nat) (res : List Nat) : NoMove j (mbxEnd s code res) :=
  h.keeps (mbxEnd_keeps (m := 17179869184) (by decide) s code res (Keeps.refl _ s)) (by decide)

theorem NoMove.freeBead {j : Nat} {s : State} (h : NoMove j s) (i : Nat) : NoMove j (freeBead s i) :=
  h.keeps (freeBead_keeps (m := 1028) (by decide) s i (Keeps.refl _ s)) (by decide)

/-- The bulk transfer of a move ends with the answer. -/
def bulkEnded (s : State) (j b code : Nat) : State :=
  let s := setSj s j { sjAt s j with moving := none }
  if code = Code.targetLost then bput (bput s b BF.state Bead.faulted) b BF.code code else freeBead s b

/-- The mailbox's operation ends with the record that cannot be read. -/
def unreadEnds (s : State) (i : Nat) : State := if beadBad s i then mbxEnd s Code.uncorrectable else s

/-- The source bead leaves with its pages, or returns to the slot. -/
def sourceEnds (j i code dst : Nat) (s : State) : SjR :=
  if code = Code.done then
    withPages j i (fun l s =>
      let u := bget s i BF.user
      let s := setSj s j { sjAt s j with pend := (sjAt s j).pend ++ l }
      event j Code.done Ev.movedOut i u (freeBead s i)) (mbxEnd s Code.done [dst])
  else moveFail j i code s

theorem moveAck_eq {s : State} {j i b : Nat} (h : (sjAt s j).moving = some (i, b)) (code dst : Nat) : moveAck s j code dst =
    sjPublish (sjEnd j ((seeBead i (unreadEnds (bulkEnded s j b code) i)).andThen (sourceEnds j i code dst))) j := by
  unfold moveAck
  rw [h]
  rfl

theorem bulkEnded_only (s : State) (j b code : Nat) : Keeps 134218756 s (bulkEnded s j b code) := by
  have hslot := setSj_keeps (m := 134218756) (by decide) s j { sjAt s j with moving := none } (Keeps.refl _ s)
  unfold bulkEnded
  dsimp only
  split
  · exact bput_keeps (by decide) _ b _ _ (bput_keeps (by decide) _ b _ _ hslot)
  · exact freeBead_keeps (by decide) _ b hslot

theorem bulkEnded_noMove (s : State) (j b code : Nat) : NoMove j (bulkEnded s j b code) := by
  have hslot : NoMove j (setSj s j { sjAt s j with moving := none }) := NoMove.setSj s rfl
  unfold bulkEnded
  dsimp only
  split
  · exact (hslot.bput _ _ _).bput _ _ _
  · exact hslot.freeBead b

theorem NoMove.sourceEnds {j : Nat} {s : State} (h : NoMove j s) (i code dst : Nat) : NoMove j (sourceEnds j i code dst s).1 := by
  unfold Machine.sourceEnds
  split
  · refine NoMove.walkPages (fun l u hu => ?_) _ (h.mbxEnd _ _)
    refine .event (.freeBead (.setSj u ?_) i) _ _ _ _
    exact hu
  · exact (((h.mbxEnd code []).bput _ _ _).bput _ _ _).eventOf _ _ _

/-- The source bead ends the mailbox's operation with the code of the answer, and nothing after touches it. -/
theorem sourceEnds_mbx (j i code dst : Nat) (s : State) : ∃ res, (sourceEnds j i code dst s).1.mbx = (mbxEnd s code res).mbx := by
  unfold sourceEnds
  split
  · next hc =>
    have hk := withPages_keeps (m := 39864763396) (by decide) j i
      (fun l s => event j Code.done Ev.movedOut i (bget s i BF.user)
        (freeBead (setSj s j { sjAt s j with pend := (sjAt s j).pend ++ l }) i)) (mbxEnd s Code.done [dst])
      (fun l u h => event_keeps (by decide) _ _ _ _ _ _ (freeBead_keeps (by decide) _ _ (setSj_keeps (by decide) _ _ _ h)))
      (Keeps.refl _ _)
    exact ⟨[dst], by rw [hc]; exact hk.of.2 .mbx (by decide)⟩
  · have hk := eventOf_keeps (m := 39864763396) (by decide) j code Ev.moveFailed i
      (bput (bput (mbxEnd s code) i BF.state Bead.waiting) i BF.code code)
      (bput_keeps (by decide) _ _ _ _ (bput_keeps (by decide) _ _ _ _ (Keeps.refl _ (mbxEnd s code))))
    exact ⟨[], hk.of.2 .mbx (by decide)⟩

theorem mbxBusyWith_congr {s t : State} (h : t.mbx = s.mbx) (op : Nat) : mbxBusyWith t op = mbxBusyWith s op := by
  unfold mbxBusyWith
  rw [h]

/-- The end of the controller's work, published, changes registers alone. -/
theorem sjEnd_only (j : Nat) (r : SjR) : Keeps 4 r.1 (sjPublish (sjEnd j r) j) := by
  obtain ⟨u, _ | c⟩ := r
  · exact sjPublish_only u j
  · exact (faultFn_keeps (by decide) u _ c (Keeps.refl _ u)).trans (sjPublish_only _ j)

section
variable {s : State} {j i b : Nat} (h : (sjAt s j).moving = some (i, b)) (code dst : Nat)
include h

theorem moveAck_noMove : (sjAt (moveAck s j code dst) j).moving = none := by
  have hend : NoMove j (unreadEnds (bulkEnded s j b code) i) := by
    unfold unreadEnds
    split
    · exact (bulkEnded_noMove s j b code).mbxEnd _ _
    · exact bulkEnded_noMove s j b code
  have hread := hend.keeps (seeBead_keeps (m := 34628173828) (by decide) i _ (Keeps.refl _ _)).of (by decide)
  rw [moveAck_eq h]
  exact (hread.andThen fun u hu => hu.sourceEnds i code dst).keeps (sjEnd_only j _) (by decide)

/-- The mailbox's operation ends with the code of the answer, or with that of a record that cannot be read. -/
theorem moveAck_mbx (hbusy : mbxBusyWith s 0x30 = true) : (moveAck s j code dst).mbx.code = some code ∨
    (moveAck s j code dst).mbx.code = some Code.uncorrectable := by
  have hbulk : mbxBusyWith (bulkEnded s j b code) 0x30 = true := by
    rw [mbxBusyWith_congr ((bulkEnded_only s j b code).2 .mbx (by decide)), hbusy]
  rw [moveAck_eq h, (sjEnd_only j _).2 .mbx (by decide), seeBead_eq]
  generalize bulkEnded s j b code = u at hbulk
  cases hbad : beadBad u i with
  | true =>
    have hread := (beadPoison_keeps (m := 34628173828) (by decide) _ i (beadRead_only (mbxEnd u Code.uncorrectable) i)).2 .mbx
      (by decide)
    rw [unreadEnds, if_pos hbad, beadBad_mbxEnd, if_pos hbad]
    refine .inr ?_
    change (beadPoison (beadRead (mbxEnd u Code.uncorrectable) i) i).mbx.code = _
    rw [hread, mbxEnd_code hbulk]
  | false =>
    have hread : mbxBusyWith (beadRead u i) 0x30 = true := by
      rw [mbxBusyWith_congr ((beadRead_only u i).2 .mbx (by decide)), hbulk]
    rw [unreadEnds, if_neg (by simp [hbad]), if_neg (by simp [hbad])]
    obtain ⟨res, hres⟩ := sourceEnds_mbx j i code dst (beadRead u i)
    refine .inl ?_
    change (sourceEnds j i code dst (beadRead u i)).1.mbx.code = _
    rw [hres, mbxEnd_ends hread]

end

theorem exec_beadMoveAck {j : Nat} (hj : j < 64) {code : Byte} (hl : listedCode code.toNat = true) (stamp : Word) (dst : Nat)
    (s : State) : exec (.beadMoveAck j code ⟨stamp, dst⟩) s = .next (moveAnswered s j code.toNat stamp dst) :=
  congrArg Host.Outcome.next (if_pos ⟨hj, hl⟩)

theorem moveAnswered_none {s : State} {j : Nat} (h : (sjAt s j).moving = none) (code : Nat) (stamp : Word) (dst : Nat) :
    moveAnswered s j code stamp dst = s := by
  rw [moveAnswered, h]

theorem moveAnswered_some {s : State} {j i b : Nat} (h : (sjAt s j).moving = some (i, b)) (code : Nat) (stamp : Word) (dst : Nat) :
    moveAnswered s j code stamp dst = moveAck (raiseFloor s stamp (bget s b (0x20, 4))) j code dst := by
  rw [moveAnswered, h]

theorem moveAnswered_ends {s : State} {j : Nat} {p : Nat × Nat} (h : (sjAt s j).moving = some p) (code : Nat) (stamp : Word)
    (dst : Nat) : (sjAt (moveAnswered s j code stamp dst) j).moving = none ∧
      (mbxBusyWith s 0x30 = true → (moveAnswered s j code stamp dst).mbx.code = some code ∨
        (moveAnswered s j code stamp dst).mbx.code = some Code.uncorrectable) := by
  obtain ⟨i, b⟩ := p
  have hfloor := raiseFloor_keeps (m := 4) (by decide) s stamp (bget s b (0x20, 4)) (Keeps.refl _ s)
  have hmoving : (sjAt (raiseFloor s stamp (bget s b (0x20, 4))) j).moving = some (i, b) := by rw [hfloor.sjAt (by decide), h]
  rw [moveAnswered_some h]
  refine ⟨moveAck_noMove hmoving code dst, fun hbusy => moveAck_mbx hmoving code dst ?_⟩
  rw [mbxBusyWith_congr (hfloor.2 .mbx (by decide)), hbusy]

/-! ## The statement -/

/-- Settles O29: an answer is the last thing a move sends, and an issue touches the floor alone; the read of a record leaves what
tells poison, so that the mailbox's operation ends by the one way or by the other. -/
theorem beadTransfers : Obligations.BeadTransfers := by
  unfold Obligations.BeadTransfers
  refine ⟨fun s j m hs hj => ⟨fun hc => ?_, fun hc => ?_⟩, fun s j code stamp dst hs hj hl => ⟨fun hnone => ?_, fun p hp => ?_⟩,
    fun s v hs => ?_, fun s v hs => ⟨fun hwrong => ?_, fun hright => ?_⟩⟩
  · refine acts_of_exec (exec_beadMoveReceive hj m s) ?_
    rw [moveIn_refused s j m hc]
    exact answerMove_refuses s m _
  · refine acts_of_exec (exec_beadMoveReceive hj m s) ?_
    obtain ⟨i, hi⟩ := placeBead_of_moveCode hc
    rcases moveIn_taken s j m hc hi with ⟨u, htaken⟩ | ⟨u, c, hk, hfault⟩
    · rw [htaken]
      exact ⟨Code.done, i, _, answerMove_last u m _ _ j, .inl ⟨rfl, hi⟩⟩
    · rw [hfault]
      have hreset := (hk.2 .behaveReset (by decide)).trans hs.1
      exact ⟨c, 0, _, answerMove_last _ m _ _ j, .inr ⟨rfl, answerMove_faulted j m hreset c _ _⟩⟩
  · rw [exec_beadMoveAck hj hl, moveAnswered_none hnone]
  · exact acts_of_exec (exec_beadMoveAck hj hl stamp dst s) (moveAnswered_ends hp code.toNat stamp dst)
  · exact acts_of_exec (t := beadSelect s v) rfl ⟨fun w hw => beadSelect_words hs v hw, beadSelect_clean hs v⟩
  · exact acts_of_exec (t := reserveWrite s v) rfl (reserveWrite_rejected hs v hwrong)
  · exact acts_of_exec (t := reserveWrite s v) rfl (reserveWrite_stored hs v hright)

end Sys2Proof.Machine
end

section
/-! PROOFS. What a hub engine's reads and writes, and the indications of a cell, leave of the radio's registers (08_memory.md R203;
11_nr_baseband.md R274). -/

namespace Sys2Proof.Machine

/-! ## Registers of the radio that stand -/

/-- The registers of the fronthaul ports, the coded-channel groups, the cells and the FSK groups read as before, but those at the
listed offsets and, in the status register `fn`, what lies above bit 12: the code of an access that fails, and a cell's alarm. -/
structure RadioStands (fn : Nat) (l : List Nat) (s t : State) : Prop where
  reset : t.behaveReset = s.behaveReset
  get : ∀ (f : Fld) (i k : Nat), 0x80000 ≤ f.addr i k → f.addr i k < 0x180000 → f.addr i k ∉ l →
    f.addr i k ≠ fn ∨ f.lo + f.w ≤ 13 → t.get f i k = s.get f i k

namespace RadioStands

variable {fn : Nat} {l : List Nat} {s t u : State}

theorem refl (fn : Nat) (l : List Nat) (s : State) : RadioStands fn l s s := ⟨rfl, fun _ _ _ _ _ _ _ => rfl⟩

theorem trans (h : RadioStands fn l s t) (g : RadioStands fn l t u) : RadioStands fn l s u :=
  ⟨g.reset.trans h.reset, fun f i k h1 h2 h3 h4 => (g.get f i k h1 h2 h3 h4).trans (h.get f i k h1 h2 h3 h4)⟩

theorem of_rdReg (hb : t.behaveReset = s.behaveReset) (h : ∀ o, 0x80000 ≤ o → o < 0x180000 → rdReg t o = rdReg s o) :
    RadioStands fn l s t :=
  ⟨hb, fun f i k h1 h2 _ _ => by unfold State.get; rw [h _ h1 h2]⟩

theorem of_keeps {m : Nat} (h : Keeps m s t) (hr : m.testBit Part.regs.idx = false)
    (hb : m.testBit Part.behaveReset.idx = false) : RadioStands fn l s t :=
  of_rdReg (h.2 .behaveReset hb) fun o _ _ => rdReg_congr (h.2 .regs hr) (h.2 .behaveReset hb) o

theorem of_sentOnly {m : Nat} (h : SentOnly s t) (hk : Keeps m s t) (hb : m.testBit Part.behaveReset.idx = false) :
    RadioStands fn l s t :=
  of_rdReg (hk.2 .behaveReset hb) fun o h1 h2 => h o (Nat.lt_of_lt_of_le (by decide) h1) (.inl (by omega))

/-- A field of a listed register, or one outside the radio's, is written. -/
theorem set (s : State) (g : Fld) (v i k : Nat) (h : g.addr i k ∈ l ∨ g.addr i k < 0x80000 ∨ 0x180000 ≤ g.addr i k) :
    RadioStands fn l s (s.set g v i k) :=
  ⟨State.set_behaveReset .., fun f j m h1 h2 h3 _ => get_set_reg _ _ _ _ _ _ _ _ fun e => by
    rw [e] at h1 h2 h3
    rcases h with hm | hlt | hge
    · exact h3 hm
    · omega
    · omega⟩

end RadioStands

/-- A field that lies beside the one written reads as before, whatever the register behaves as. -/
theorem get_set_beneath (s : State) (f g : Fld) (v i k j m : Nat) (hw : f.lo + f.w ≤ 32) (hd : g.lo + g.w ≤ f.lo) :
    (s.set f v i k).get g j m = s.get g j m := by
  by_cases ha : g.addr j m = f.addr i k
  · by_cases hb : f.addr i k ∈ s.behaveReset
    · unfold State.get rdReg
      rw [ha, State.set_behaveReset, if_pos (by simpa using hb), if_pos (by simpa using hb)]
    · exact get_set_field _ _ _ _ _ _ _ _ ha hw hb (.inr hd)
  · exact get_set_reg _ _ _ _ _ _ _ _ ha

section
variable (s : State) {fn : Nat} (l : List Nat)

/-- A write above bit 12 of the status register. -/
theorem setHigh_radioStands (g : Fld) (v i k : Nat) (ha : g.addr i k = fn) (hlo : 13 ≤ g.lo) (hw : g.lo + g.w ≤ 32) :
    RadioStands fn l s (s.set g v i k) :=
  ⟨State.set_behaveReset .., fun f j m _ _ _ h4 => h4.elim
    (fun hne => get_set_reg _ _ _ _ _ _ _ _ (ha ▸ hne)) (fun hle => get_set_beneath _ _ _ _ _ _ _ _ hw (by omega))⟩

theorem setFnCode_radioStands (c : Nat) : RadioStands fn l s (setFnCode s fn c) := by
  rw [setFnCode_eq]
  exact setHigh_radioStands s l _ _ _ _ (by simp [Fld.addr]) (by decide : 13 ≤ 24) (by decide : 24 + 8 ≤ 32)

theorem raiseMem_radioStands (r a n : Nat) : RadioStands fn l s (raiseMem s r a n) :=
  .of_keeps (raiseMem_only s r a n 0 false) (by decide) (by decide)

theorem hubSee_radioStands (a n : Nat) : RadioStands fn l s (hubSee s fn a n) := by
  unfold hubSee
  split
  · exact setFnCode_radioStands s l _
  · exact raiseMem_radioStands s l ..

theorem hubStore_radioStands (a : Nat) (b : Bytes) : RadioStands fn l s (hubStore s fn a b) := by
  unfold hubStore
  split
  · exact setFnCode_radioStands s l _
  · exact (raiseMem_radioStands s l _ _ _).trans (.of_keeps (devStore_only _ _ _ _) (by decide) (by decide))

theorem homeWrite_radioStands (a : Nat) (b : Bytes) (bad : Bool) : RadioStands fn l s (homeWrite s a b bad) :=
  .of_sentOnly (homeWrite_sentOnly s a b bad) (homeWrite_only s a b bad) (by decide)

theorem hubWrite_radioStands (a : Nat) (b : Bytes) (bad : Bool) : RadioStands fn l s (hubWrite s fn a b bad) := by
  unfold hubWrite
  split
  · exact setFnCode_radioStands s l _
  · exact (raiseMem_radioStands s l _ _ _).trans (homeWrite_radioStands _ l _ _ _)

theorem ringPoke_radioStands (base size o : Nat) (b : Bytes) : RadioStands fn l s (ringPoke s base size o b) :=
  .of_keeps (ringPoke_keeps (m := 1024) (by decide) s base size o b (Keeps.refl _ s)) (by decide) (by decide)

theorem ringRaise_radioStands (r base size o n : Nat) : RadioStands fn l s (ringRaise s r base size o n) :=
  .of_keeps (ringRaise_keeps (m := 34359738368) (by decide) s r base size o n (Keeps.refl _ s)) (by decide) (by decide)

omit s l in
theorem ringAppend_radioStands {s t : State} {l : List Nat} {base size : Nat} {b : Bytes} (h : ringAppend s fn base size b = some t) :
    RadioStands fn l s t := by
  unfold ringAppend at h
  split at h
  · cases h
    exact setFnCode_radioStands s l _
  · split at h
    · cases h
      exact ((ringPoke_radioStands s l _ _ _ _).trans (ringRaise_radioStands _ l _ _ _ _ _)).trans (hubStore_radioStands _ l _ _)
    · cases h

end

/-! ## Indications (R274) -/

/-- The registers that an indication of cell c may move, beside the code in the cell's status. -/
abbrev indRegs (c : Nat) : List Nat := [CODEC_CELL_IND_DROP.addr c]

section
variable (s : State) (c : Nat)

theorem indicateBody_radioStands (k : Nat) (b : Bytes) : RadioStands (cellFn c) (indRegs c) s (indicateBody s c k b) := by
  unfold indicateBody
  dsimp only
  cases h : ringAppend s (CODEC_CELL_STATUS.STATE.addr c) ((cellAt s c).fld 0x30 8) ((cellAt s c).fld 0x54 4)
      (l2Msg ((cellAt s c).slotNo k) b) with
  | none => exact .set s _ _ _ _ (.inl (List.mem_singleton_self _))
  | some t => exact ringAppend_radioStands h

theorem indicate_radioStands (kind k : Nat) (b : Bytes) : RadioStands (cellFn c) (indRegs c) s (indicate s c kind k b) :=
  (RadioStands.of_keeps (takeFree_keeps (m := 2) (by decide) s (Keeps.refl _ s)).of (by decide) (by decide)).trans
    (indicateBody_radioStands _ c k _)

theorem setAlarm_radioStands (v : Nat) : RadioStands (cellFn c) (indRegs c) s (setAlarm s c v) := by
  unfold setAlarm
  split
  · exact .refl _ _ s
  · exact (setHigh_radioStands s _ CODEC_CELL_STATUS.TIME_ALARM v c 0 rfl (by decide) (by decide)).trans
      (indicate_radioStands _ c _ _ _)

theorem startAlarm_radioStands : RadioStands (cellFn c) (indRegs c) s (startAlarm s c) := by
  unfold startAlarm
  split
  · exact .refl _ _ s
  · exact setAlarm_radioStands s c 0

end

/-! ## The cells' records -/

theorem cellAt_congr {s t : State} (h : t.cells = s.cells) (c : Nat) : cellAt t c = cellAt s c := by unfold cellAt; rw [h]

theorem Keeps.cellAt {m : Nat} {s t : State} (h : Keeps m s t) (hm : m.testBit Part.cells.idx = false) (c : Nat) :
    cellAt t c = Machine.cellAt s c := cellAt_congr (h.2 .cells hm) c

theorem Keeps.nowN {m : Nat} {s t : State} (h : Keeps m s t) (hm : m.testBit Part.clk.idx = false) : nowN t = Machine.nowN s := by
  unfold Machine.nowN
  rw [h.2 .clk hm]

@[simp] theorem cellAt_setCell (s : State) (c : Nat) (x : Cell) : cellAt (setCell s c x) c = x := mapGet_put_self _ _ _ _

@[simp] theorem cellAt_set (s : State) (f : Fld) (v i k c : Nat) : cellAt (s.set f v i k) c = cellAt s c :=
  cellAt_congr (State.set_cells ..) c

@[simp] theorem nowN_setCell (s : State) (c : Nat) (x : Cell) : nowN (setCell s c x) = nowN s := by
  unfold nowN
  rw [setCell_clk]

theorem indicate_only (s : State) (c kind k : Nat) (b : Bytes) : Keeps 34359739398 s (indicate s c kind k b) :=
  indicate_keeps (by decide) s c kind k b (Keeps.refl _ s)

theorem indicateBody_only (s : State) (c k : Nat) (b : Bytes) : Keeps 34359739396 s (indicateBody s c k b) :=
  indicateBody_keeps (by decide) s c k b (Keeps.refl _ s)

theorem startAlarm_only (s : State) (c : Nat) : Keeps 34359739398 s (startAlarm s c) :=
  startAlarm_keeps (by decide) s c (Keeps.refl _ s)

@[simp] theorem cellAt_indicate (s : State) (c kind k : Nat) (b : Bytes) (d : Nat) :
    cellAt (indicate s c kind k b) d = cellAt s d := (indicate_only s c kind k b).cellAt (by decide) d

@[simp] theorem cellAt_indicateBody (s : State) (c k : Nat) (b : Bytes) (d : Nat) :
    cellAt (indicateBody s c k b) d = cellAt s d := (indicateBody_only s c k b).cellAt (by decide) d

end Sys2Proof.Machine
end

section
/-! PROOFS. The fronthaul ports: start, stop, frames received and sent (11_nr_baseband.md R267, R270, R271, R287). -/

namespace Sys2Proof.Machine

/-! ## What a loop brings about -/

/-- A loop brings about what one of its turns does and no other undoes, in states that keep an invariant. -/
theorem forEach_reaches {α : Type} {f : State → α → State} {Q P : State → Prop} {l : List α} {a : α} (ha : a ∈ l)
    (hQ : ∀ t b, Q t → Q (f t b)) (hdoes : ∀ t, Q t → P (f t a)) (hkeeps : ∀ t, ∀ b ∈ l, Q t → P t → P (f t b)) {s : State}
    (hs : Q s) : P (forEach l f s) := by
  induction l generalizing s with
  | nil => exact absurd ha List.not_mem_nil
  | cons b l ih =>
    rw [forEach_cons]
    have hrest (t : State) (c : α) (hc : c ∈ l) := hkeeps t c (List.mem_cons_of_mem b hc)
    by_cases hl : a ∈ l
    · exact ih hl hrest (hQ s b hs)
    · obtain rfl : a = b := (List.mem_cons.1 ha).resolve_right hl
      refine (List.foldlRecOn l f (motive := fun t => Q t ∧ P t) ⟨hQ s a hs, hdoes s hs⟩ fun t h c hc => ?_).2
      exact ⟨hQ t c h.1, hrest t c hc h.1 h.2⟩

/-- A field of a register that is wholly cleared reads 0. -/
theorem get_clear (s : State) (f g : Fld) (i k j m : Nat) (hb : s.behaveReset = []) (hf : f.lo = 0 ∧ f.w = 32)
    (ha : g.addr j m = f.addr i k) : (s.set f 0 i k).get g j m = 0 := by
  unfold State.get State.set
  rw [ha, rdReg_wrReg _ _ _ (by simp [hb]), hf.1, hf.2]
  simp [getBits, putBits, Nat.div_eq_of_lt (BitVec.isLt _), Nat.mod_one]

/-- A loop that clears whole registers clears each of them, and what it has cleared stays clear. -/
theorem get_clear_of_clear (s : State) (f g : Fld) (i k j m : Nat) (hb : s.behaveReset = []) (hf : f.lo = 0 ∧ f.w = 32)
    (h : s.get g j m = 0) : (s.set f 0 i k).get g j m = 0 := by
  by_cases ha : g.addr j m = f.addr i k
  · exact get_clear s f g i k j m hb hf ha
  · rw [get_set_reg _ _ _ _ _ _ _ _ ha, h]

section
variable {l : List Fld} (hl : ∀ g ∈ l, g.lo = 0 ∧ g.w = 32) (i k : Nat)
include hl

theorem wordsClear_keeps_clear {s : State} (hb : s.behaveReset = []) {f : Fld} {j m : Nat} (h : s.get f j m = 0) :
    (forEach l (fun t g => t.set g 0 i k) s).get f j m = 0 :=
  (List.foldlRecOn l _ (motive := fun t : State => t.behaveReset = [] ∧ t.get f j m = 0) ⟨hb, h⟩ fun t ht g hg =>
    ⟨(State.set_behaveReset ..).trans ht.1, get_clear_of_clear t g f i k j m ht.1 (hl g hg) ht.2⟩).2

/-- A list of registers cleared reads 0 throughout. -/
theorem wordsClear_clear {s : State} (hb : s.behaveReset = []) {f : Fld} (hf : f ∈ l) :
    (forEach l (fun t g => t.set g 0 i k) s).get f i k = 0 :=
  forEach_reaches (f := fun (t : State) (g : Fld) => t.set g 0 i k) (Q := fun t => t.behaveReset = [])
    (P := fun t => t.get f i k = 0) hf
    (fun _ _ h => (State.set_behaveReset ..).trans h) (fun t h => get_clear t f f i k i k h (hl f hf) rfl)
    (fun t g hg h h0 => get_clear_of_clear t g f i k i k h (hl g hg) h0) hb

end

/-- A counter raised by one. -/
theorem get_bumpSat_self (s : State) (f : Fld) (i k : Nat) (hb : s.behaveReset = []) (hw : f.lo + f.w ≤ 32) :
    (s.bumpSat f i k).get f i k = min (s.get f i k + 1) (2 ^ f.w - 1) := by
  rw [State.bumpSat, get_set_self _ _ _ _ _ hb hw]
  have := Nat.two_pow_pos f.w
  exact Nat.mod_eq_of_lt (by omega)

theorem get_bumpSat_reg (s : State) (f g : Fld) (i k j m : Nat) (h : g.addr j m ≠ f.addr i k) :
    (s.bumpSat f i k).get g j m = s.get g j m := get_set_reg _ _ _ _ _ _ _ _ h

/-! ## Queues -/

theorem fhQueue_congr {s t : State} (h : t.fhq = s.fhq) (p q : Nat) : fhQueue t p q = fhQueue s p q := by
  unfold fhQueue
  rw [h]

@[simp] theorem fhQueue_set (s : State) (f : Fld) (v i k p q : Nat) : fhQueue (s.set f v i k) p q = fhQueue s p q :=
  fhQueue_congr (State.set_fhq ..) p q

@[simp] theorem fhQueue_setQueue (s : State) (p q : Nat) (l : List TxFrame) : fhQueue (setQueue s p q l) p q = l :=
  mapGet_put_self _ _ _ _

theorem setQueue_get (s : State) (p q : Nat) (l : List TxFrame) (f : Fld) (i k : Nat) :
    (setQueue s p q l).get f i k = s.get f i k := get_congr rfl rfl f i k

theorem setQueue_empties (s : State) {p q r : Nat} (h : fhQueue s p q = []) : fhQueue (setQueue s p r []) p q = [] := by
  unfold fhQueue setQueue
  rw [mapGet_put]
  split
  · rfl
  · exact h

/-! ## START (R287; 02_almanac.md R41) -/

theorem fnState_fh (s : State) (p : Nat) : fnState s (fhFn p) = s.get FH_STATUS.STATE p := rfl

theorem exec_fhStart {p : Nat} (hp : p < 8) (s : State) : exec (.fhStart p) s = .next (fhStart s p) :=
  congrArg Host.Outcome.next (if_pos hp)

/-- The counters of a sub-port that START clears. -/
abbrev fhCounters : List Fld :=
  [FH_RX_FRAMES, FH_RX_EARLY, FH_RX_LATE, FH_RX_NOFLOW, FH_RX_NOROOM, FH_TX_FRAMES, FH_TX_LATE]

theorem fhCounters_words : ∀ g ∈ fhCounters, g.lo = 0 ∧ g.w = 32 := by decide

theorem fhClear_behaveReset (s : State) (p : Nat) : (fhClear s p).behaveReset = s.behaveReset :=
  (fhClear_keeps (m := 4) (by decide) s p (Keeps.refl _ s)).2 .behaveReset (by decide)

theorem fhClear_upset (s : State) (p : Nat) : (fhClear s p).upset = s.upset :=
  (fhClear_keeps (m := 4) (by decide) s p (Keeps.refl _ s)).2 .upset (by decide)

theorem fhClear_below (s : State) (p : Nat) : SameBelow (FH_RX_FRAMES.addr p) s (fhClear s p) := by
  have hone (k : Nat) (f : Fld) (hf : f ∈ fhCounters) (t : State) : SameBelow (FH_RX_FRAMES.addr p) t (t.set f 0 p k) := by
    refine SameBelow.set t f 0 p k ?_
    simp only [List.mem_cons, List.not_mem_nil, or_false] at hf
    rcases hf with rfl | rfl | rfl | rfl | rfl | rfl | rfl <;> simp only [Fld.addr] <;> omega
  refine SameBelow.forEach (fun t k => ?_) _ s
  exact List.foldlRecOn fhCounters _ (motive := fun u => SameBelow _ t u) (SameBelow.refl _ t)
    fun u h f hf => h.trans (hone k f hf u)

theorem fhClear_clears (s : State) (hb : s.behaveReset = []) (p : Nat) {k : Nat} (hk : k < 4) {f : Fld} (hf : f ∈ fhCounters) :
    (fhClear s p).get f p k = 0 := by
  have hreset (t : State) (j : Nat) (h : t.behaveReset = []) :
      (forEach fhCounters (fun s g => s.set g 0 p j) t).behaveReset = [] :=
    (forEach_same State.behaveReset (fun _ _ => State.set_behaveReset ..) _ t).trans h
  exact forEach_reaches (f := fun t j => forEach fhCounters (fun s g => s.set g 0 p j) t) (Q := fun t => t.behaveReset = [])
    (P := fun t => t.get f p k = 0) (List.mem_range.2 hk) hreset (fun t ht => wordsClear_clear fhCounters_words p k ht hf)
    (fun t j _ ht h => wordsClear_keeps_clear fhCounters_words p j ht h) hb

/-- START shows in the function's status register alone. -/
theorem startFn_regsBut (s : State) (o : Nat) (c : Option Nat) : regsBut [o] s (startFn s o c) := by
  have hst (t : State) (v : Nat) : regsBut [o] t (setFnState t o v) := by
    rw [setFnState_eq]
    exact set_regsBut_mem t _ _ _ _ (by simp [Fld.addr])
  have hcode (t : State) (v : Nat) : regsBut [o] t (setFnCode t o v) := by
    rw [setFnCode_eq]
    exact set_regsBut_mem t _ _ _ _ (by simp [Fld.addr])
  unfold startFn
  split
  · dsimp only
    split
    · exact regsBut_trans (hst s _) (regsBut_trans (hcode _ _) (hst _ _))
    · exact regsBut_trans (hst s _) (regsBut_trans (hcode _ _) (hst _ _))
  · exact fun _ _ => rfl

theorem startFn_behaveReset (s : State) (o : Nat) (c : Option Nat) : (startFn s o c).behaveReset = s.behaveReset :=
  (startFn_keeps (m := 4) (by decide) s o c (Keeps.refl _ s)).2 .behaveReset (by decide)

section
variable {s : State} {p : Nat} (hs : s.sound) (h : fnState s (fhFn p) = Fn.stopped) (hd : domOn s (184 + p) = true)
include hs h

theorem fhClear_stopped : (fhClear s p).sound ∧ fnState (fhClear s p) (fhFn p) = Fn.stopped := by
  refine ⟨⟨(fhClear_behaveReset s p).trans hs.1, (fhClear_upset s p).trans hs.2⟩, ?_⟩
  rw [fnState_fh, (fhClear_below s p).get _ _ _ (by simp only [Fld.addr]; omega)]
  exact h

include hd

theorem fhStart_refused (hbad : fhBad s p = true) : (fhStart s p).get FH_STATUS.STATE p = Fn.faulted ∧
    (fhStart s p).get FH_STATUS.FAULT_CODE p = Code.badArgument := by
  obtain ⟨hc, hst⟩ := fhClear_stopped hs h
  have hfault := startFn_refused (c := Code.badArgument) hc hst (by decide)
  have heq : fhStart s p = startFn (fhClear s p) (fhFn p) (some Code.badArgument) := by
    unfold fhStart
    rw [startInDomain_on hd, if_pos h]
    dsimp only
    rw [if_pos hbad, if_pos (by rw [hfault.1]; decide)]
  rw [heq]
  exact hfault

/-- The port runs, the corrections of its mode loaded. -/
def corrected (s : State) (p : Nat) : State :=
  ((startFn (fhClear s p) (fhFn p) none).set ALM_TSC_IN (modeCorr (s.get FH_CFG.MODE p)).1 p).set ALM_TSC_EG
    (modeCorr (s.get FH_CFG.MODE p)).2 p

theorem fhStart_eq (hok : fhBad s p = false) : fhStart s p = chooseUpstream (corrected s p) := by
  obtain ⟨hc, hst⟩ := fhClear_stopped hs h
  unfold fhStart
  rw [startInDomain_on hd, if_pos h]
  dsimp only
  rw [if_neg (ne_true_of_eq_false hok), if_neg (not_not_intro (startFn_passes hc hst).1)]
  rfl

omit hd in
theorem corrected_behaveReset : (corrected s p).behaveReset = [] := by
  obtain ⟨hc, -⟩ := fhClear_stopped hs h
  rw [corrected, State.set_behaveReset, State.set_behaveReset, startFn_behaveReset, hc.1]

omit hs h hd in
theorem corrected_get_port (hp : p < 8) (f : Fld) (k : Nat) (hf : 0x80000 ≤ f.addr p k) :
    (corrected s p).get f p k = (startFn (fhClear s p) (fhFn p) none).get f p k := by
  rw [corrected, get_set_reg _ _ _ _ _ _ _ _ (by simp only [Fld.addr] at hf ⊢; omega),
    get_set_reg _ _ _ _ _ _ _ _ (by simp only [Fld.addr] at hf ⊢; omega)]

end

/-- Of a port's own corrections the choice of the upstream sub-port changes nothing. -/
theorem chooseUpstream_get_correction (s : State) (hb : s.behaveReset = []) {f : Fld} (hf : f ∈ [ALM_TSC_IN, ALM_TSC_EG]) {p : Nat}
    (hp : p < 8) : (chooseUpstream s).get f p = s.get f p := by
  have haddr : 0x20100 ≤ f.addr p ∧ f.addr p < 0x20200 := by
    simp only [List.mem_cons, List.not_mem_nil, or_false] at hf
    rcases hf with rfl | rfl <;> simp only [Fld.addr] <;> omega
  have hne (o : Nat) (ho : o < 0x20100) : f.addr p ≠ o := by omega
  rw [chooseUpstream_get s hb f p 0 (haddr.2.trans (by decide)) (hne _ (by decide)) (hne _ (by decide)) (.inl (hne _ (by decide))),
    upShown_get s hb f p 0 (.inl (hne _ (by decide)))]

theorem modeCorr_lt (m : Nat) : (modeCorr m).1 < 2 ^ 32 ∧ (modeCorr m).2 < 2 ^ 32 := by
  unfold modeCorr
  split <;> decide

section
variable {s : State} {p : Nat} (hp : p < 8) (hs : s.sound) (h : fnState s (fhFn p) = Fn.stopped)
  (hd : domOn s (184 + p) = true) (hok : fhBad s p = false)
include hp hs h hd hok

theorem fhStart_runs : (fhStart s p).get FH_STATUS.STATE p = Fn.running := by
  obtain ⟨hc, hst⟩ := fhClear_stopped hs h
  rw [fhStart_eq hs h hd hok, chooseUpstream_get_port _ (corrected_behaveReset hs h) _ hp (by decide) (by decide) (by decide),
    corrected_get_port hp _ _ (by simp only [Fld.addr]; omega)]
  exact (startFn_passes hc hst).1

theorem fhStart_corrects : (fhStart s p).get ALM_TSC_IN p = (modeCorr (s.get FH_CFG.MODE p)).1 ∧
    (fhStart s p).get ALM_TSC_EG p = (modeCorr (s.get FH_CFG.MODE p)).2 := by
  have hb := corrected_behaveReset hs h
  have hstart : (startFn (fhClear s p) (fhFn p) none).behaveReset = [] := by
    rw [startFn_behaveReset, fhClear_behaveReset, hs.1]
  obtain ⟨hin, heg⟩ := modeCorr_lt (s.get FH_CFG.MODE p)
  rw [fhStart_eq hs h hd hok, chooseUpstream_get_correction _ hb (by simp) hp, chooseUpstream_get_correction _ hb (by simp) hp,
    corrected, get_set_reg _ _ _ _ _ _ _ _ (by simp only [Fld.addr]; omega), get_set_self _ _ _ _ _ hstart (by decide),
    get_set_self _ _ _ _ _ ((State.set_behaveReset ..).trans hstart) (by decide)]
  exact ⟨Nat.mod_eq_of_lt hin, Nat.mod_eq_of_lt heg⟩

theorem fhStart_clears {k : Nat} (hk : k < 4) {f : Fld} (hf : f ∈ fhCounters) : (fhStart s p).get f p k = 0 := by
  have hplace : 0x80044 ≤ f.off ∧ f.off ≤ 0x8005C ∧ f.s1 = 0x10000 ∧ f.s2 = 0x20 := by
    simp only [List.mem_cons, List.not_mem_nil, or_false] at hf
    rcases hf with rfl | rfl | rfl | rfl | rfl | rfl | rfl <;> decide
  obtain ⟨hlo, hhi, h1, h2⟩ := hplace
  rw [fhStart_eq hs h hd hok, chooseUpstream_get_port _ (corrected_behaveReset hs h) _ hp hk (by omega)
      (by rw [h1, h2]; change _ < 0x110000; omega),
    corrected_get_port hp _ _ (by simp only [Fld.addr, h1, h2]; omega),
    get_of_regsBut (startFn_regsBut _ _ _) _ _ _ (by simp only [fhFn, Fld.addr, h1, h2, List.mem_singleton]; omega)]
  exact fhClear_clears s hs.1 p hk hf

end

/-! ## STOP (R287) -/

theorem exec_fhStop {p : Nat} (hp : p < 8) (s : State) : exec (.fhStop p) s = .next (fhStop s p) :=
  congrArg Host.Outcome.next (if_pos hp)

section
variable {s : State} {p : Nat}

theorem fhStop_named (h : fnState s (fhFn p) = Fn.running) (hn : portNamed s p = true) :
    fhStop s p = s.set FH_STATUS.STOP_REJECT 1 p := by
  unfold fhStop
  dsimp only
  rw [if_pos h, if_pos hn]

theorem fhStop_down (h : fnState s (fhFn p) = Fn.faulted ∨ fnState s (fhFn p) = Fn.running ∧ portNamed s p = false) :
    fhStop s p = fhDown s p Fn.stopped := by
  unfold fhStop
  dsimp only
  rcases h with h | ⟨h, hn⟩
  · rw [if_neg (by rw [h]; decide), if_pos h]
  · rw [if_pos h, if_neg (ne_true_of_eq_false hn)]

end

/-- The port with its queues empty. -/
def drainedPort (s : State) (p : Nat) : State := forEach (List.range 8) (fun s q => setQueue s p q []) s

/-- The port with its queues empty, its links down and its state told. -/
def downPort (s : State) (p st : Nat) : State :=
  setFnState (forEach (List.range 4) (fun s k => s.set FH_SUB_STATUS.W 0 p k) (drainedPort s p)) (fhFn p) st

theorem fhDown_eq (s : State) (p st : Nat) : fhDown s p st = chooseUpstream (downPort s p st) := rfl

section
variable {s : State} (p st : Nat)

theorem drainedPort_only : Keeps 67108864 s (drainedPort s p) :=
  forEach_keeps (by decide) _ _ _ (fun t _ h => setQueue_keeps (by decide) t _ _ _ h) (Keeps.refl _ s)

theorem drainedPort_empty {q : Nat} (hq : q < 8) : fhQueue (drainedPort s p) p q = [] :=
  forEach_reaches (f := fun s q => setQueue s p q []) (Q := fun _ => True) (P := fun t => fhQueue t p q = [])
    (List.mem_range.2 hq) (fun _ _ _ => trivial) (fun t _ => fhQueue_setQueue t p q []) (fun t _ _ _ h => setQueue_empties t h)
    trivial

variable (hb : s.behaveReset = [])
include hb

theorem downPort_behaveReset : (downPort s p st).behaveReset = [] := by
  rw [downPort, setFnState_behaveReset, forEach_same State.behaveReset fun _ _ => State.set_behaveReset ..,
    (drainedPort_only p).2 .behaveReset (by decide), hb]

omit hb in
theorem fhDown_queue {q : Nat} (hq : q < 8) : fhQueue (fhDown s p st) p q = [] := by
  have hup := (chooseUpstream_keeps (m := 34384905318) (by decide) (downPort s p st) (Keeps.refl _ _)).2 .fhq (by decide)
  rw [fhDown_eq, fhQueue_congr hup]
  refine (fhQueue_congr ?_ p q).trans (drainedPort_empty (s := s) p hq)
  rw [downPort, setFnState_fhq, forEach_same State.fhq fun _ _ => State.set_fhq ..]

variable (hp : p < 8)
include hp

theorem fhDown_state : (fhDown s p st).get FH_STATUS.STATE p = st % 2 ^ 3 := by
  have hb' : (forEach (List.range 4) (fun s k => s.set FH_SUB_STATUS.W 0 p k) (drainedPort s p)).behaveReset = [] := by
    rw [forEach_same State.behaveReset fun _ _ => State.set_behaveReset .., (drainedPort_only p).2 .behaveReset (by decide), hb]
  rw [fhDown_eq, chooseUpstream_get_port _ (downPort_behaveReset p st hb) _ hp (by decide) (by decide) (by decide)]
  exact get_set_self _ FH_STATUS.STATE st p 0 hb' (by decide)

theorem fhDown_links {k : Nat} (hk : k < 4) : (fhDown s p st).get FH_SUB_STATUS.LINK_UP p k = 0 := by
  have hdrained : (drainedPort s p).behaveReset = [] := ((drainedPort_only p).2 .behaveReset (by decide)).trans hb
  rw [fhDown_eq, chooseUpstream_get_port _ (downPort_behaveReset p st hb) _ hp hk (by decide) (by decide), downPort,
    setFnState_eq, get_set_reg _ _ _ _ _ _ _ _ (by simp only [fhFn, Fld.addr]; omega)]
  exact forEach_reaches (f := fun s k => s.set FH_SUB_STATUS.W 0 p k) (Q := fun t => t.behaveReset = [])
    (P := fun t => t.get FH_SUB_STATUS.LINK_UP p k = 0) (List.mem_range.2 hk)
    (fun _ _ h => (State.set_behaveReset ..).trans h) (fun t h => get_clear t _ _ p k p k h ⟨rfl, rfl⟩ rfl)
    (fun t j _ h h0 => get_clear_of_clear t _ _ p j p k h ⟨rfl, rfl⟩ h0) hdrained

end

/-! ## Frames received (R267, R271) -/

theorem exec_fhFrameReceive {s : State} {p k : Nat} (hp : p < 8) (hk : k < subPorts s p) (f : FhFrame) :
    exec (.fhFrameReceive p k f) s = .next (fhReceive s p k f) := congrArg Host.Outcome.next (if_pos ⟨hp, hk⟩)

/-- The flow of a frame is found by the cells' records and by their states. -/
theorem flowOf_congr {s t : State} (hc : t.cells = s.cells)
    (hst : ∀ c, t.get CODEC_CELL_STATUS.STATE c = s.get CODEC_CELL_STATUS.STATE c) (p k v e : Nat) :
    flowOf t p k v e = flowOf s p k v e := by
  unfold flowOf cellOpen
  simp only [hc, hst, cellAt_congr hc]

/-- The channel of a frame is found by the groups' records, states and ports. -/
theorem fskOf_congr {s t : State} (hf : t.fsk = s.fsk) (hr : ∀ f ∈ [FSK_GRP_STATUS.STATE, FSK_GRP_PORT.PORT, FSK_GRP_PORT.SUB],
    ∀ g, t.get f g = s.get f g) (p k v e : Nat) : fskOf t p k v e = fskOf s p k v e := by
  have hat (g : Nat) : fskAt t g = fskAt s g := by unfold fskAt; rw [hf]
  unfold fskOf
  simp only [hf, hat, hr FSK_GRP_STATUS.STATE (by simp), hr FSK_GRP_PORT.PORT (by simp), hr FSK_GRP_PORT.SUB (by simp)]

/-- A frame of a port is counted. -/
def frameCounted (s : State) (p k : Nat) : State := s.bumpSat FH_RX_FRAMES p k

theorem frameCounted_behaveReset (s : State) (p k : Nat) : (frameCounted s p k).behaveReset = s.behaveReset :=
  State.bumpSat_behaveReset ..
theorem frameCounted_cells (s : State) (p k : Nat) : (frameCounted s p k).cells = s.cells := State.bumpSat_cells ..
theorem frameCounted_fsk (s : State) (p k : Nat) : (frameCounted s p k).fsk = s.fsk := State.bumpSat_fsk ..
theorem frameCounted_mems (s : State) (p k : Nat) : (frameCounted s p k).mems = s.mems := State.bumpSat_mems ..

section
variable {s : State} {p k : Nat} (hp : p < 8) (hk : k < 4)
include hp hk

theorem frameCounted_radio (f : Fld) (i j : Nat) (hf : 0x110000 ≤ f.addr i j) :
    (frameCounted s p k).get f i j = s.get f i j :=
  get_bumpSat_reg _ _ _ _ _ _ _ (by simp only [Fld.addr] at hf ⊢; omega)

/-- A frame that belongs to no flow is dropped and counted. -/
theorem fhReceive_noFlow {f : FhFrame} {v e q : Nat} (hr : fnState s (fhFn p) = Fn.running)
    (hu : uplane f.bytes = some (v, e, q)) (hflow : flowOf s p k v e = none) (hfsk : fskOf s p k v e = none) :
    fhReceive s p k f = (frameCounted s p k).bumpSat FH_RX_NOFLOW p k := by
  have hcell : flowOf (frameCounted s p k) p k v e = none := by
    rw [flowOf_congr (frameCounted_cells s p k) fun c => frameCounted_radio hp hk _ _ _ (by simp only [Fld.addr]; omega), hflow]
  have hgrp : fskOf (frameCounted s p k) p k v e = none := by
    rw [fskOf_congr (frameCounted_fsk s p k) fun g hg c => frameCounted_radio hp hk _ _ _ ?_, hfsk]
    simp only [List.mem_cons, List.not_mem_nil, or_false] at hg
    rcases hg with rfl | rfl | rfl <;> simp only [Fld.addr] <;> omega
  unfold fhReceive
  rw [if_pos hr, hu]
  dsimp only
  rw [← frameCounted, hcell]
  dsimp only
  rw [hgrp]

end

/-- A frame that is no radio data goes to the firmware ring and, where PTP asks for it, on to the other ports. -/
theorem fhReceive_firmware {s : State} {p : Nat} {f : FhFrame} (hr : fnState s (fhFn p) = Fn.running)
    (hu : uplane f.bytes = none) (k : Nat) : fhReceive s p k f =
      forwardPtp (fwReceive (frameCounted s p k) p k f.bytes (rxTime s p f.q)) p f.bytes (rxTime s p f.q) := by
  unfold fhReceive
  rw [if_pos hr, hu]
  rfl

/-- The entries of a port's firmware ring, and its tail. -/
abbrev fwSize (s : State) (p : Nat) : Nat := 2 ^ s.get FH_FWRX_SIZE p
abbrev fwTail (s : State) (p : Nat) : Nat := s.get FH_FWRX_TAIL p % fwSize s p

section
variable {s : State} {p : Nat} (k : Nat) (b : Bytes) (t : Int)

theorem fwReceive_full (h : ringFull (fwTail s p) (s.get FH_FWRX_HEAD p) (fwSize s p) = true) :
    fwReceive s p k b t = s.bumpSat FH_RX_NOROOM p k := if_pos h

theorem fwReceive_takes (h : ringFull (fwTail s p) (s.get FH_FWRX_HEAD p) (fwSize s p) = false) :
    ∃ u, RadioStands (fhFn p) [] s u ∧ fwReceive s p k b t = u.set FH_FWRX_TAIL ((fwTail s p + 1) % fwSize s p) p := by
  refine ⟨_, ?_, if_neg (ne_true_of_eq_false h)⟩
  exact ((hubSee_radioStands s [] _ _).trans (hubWrite_radioStands _ [] _ _ _)).trans (hubWrite_radioStands _ [] _ _ _)

end

theorem forwardPtp_only (s : State) (p : Nat) (b : Bytes) (t : Int) : Keeps 67108864 s (forwardPtp s p b t) :=
  forwardPtp_keeps (by decide) s p b t (Keeps.refl _ s)

theorem forwardPtp_get (s : State) (p : Nat) (b : Bytes) (t : Int) (f : Fld) (i k : Nat) :
    (forwardPtp s p b t).get f i k = s.get f i k :=
  get_congr ((forwardPtp_only s p b t).2 .regs (by decide)) ((forwardPtp_only s p b t).2 .behaveReset (by decide)) f i k

section
variable {s : State} {p k : Nat} (hs : s.sound) (hp : p < 8) (hk : k < 4)

/-- The registers of a port's firmware ring stand while a frame is counted. -/
theorem frameCounted_ring {f : Fld} (hf : f ∈ [FH_FWRX_SIZE, FH_FWRX_HEAD, FH_FWRX_TAIL]) :
    (frameCounted s p k).get f p = s.get f p := by
  refine get_bumpSat_reg _ _ _ _ _ _ _ ?_
  simp only [List.mem_cons, List.not_mem_nil, or_false] at hf
  rcases hf with rfl | rfl | rfl <;> simp only [Fld.addr] <;> omega

theorem frameCounted_full : ringFull (fwTail (frameCounted s p k) p) ((frameCounted s p k).get FH_FWRX_HEAD p)
    (fwSize (frameCounted s p k) p) = ringFull (fwTail s p) (s.get FH_FWRX_HEAD p) (fwSize s p) := by
  rw [fwTail, fwSize, frameCounted_ring (by simp), frameCounted_ring (by simp), frameCounted_ring (by simp)]

include hs hk

omit hk in
theorem frameCounted_frames : (frameCounted s p k).get FH_RX_FRAMES p k = min (s.get FH_RX_FRAMES p k + 1) (2 ^ 32 - 1) :=
  get_bumpSat_self _ _ _ _ hs.1 (by decide)

omit hk in
theorem receive_firmware_full {f : FhFrame} (hr : fnState s (fhFn p) = Fn.running) (hu : uplane f.bytes = none)
    (h : ringFull (fwTail s p) (s.get FH_FWRX_HEAD p) (fwSize s p) = true) :
    let t := fhReceive s p k f
    t.get FH_RX_FRAMES p k = min (s.get FH_RX_FRAMES p k + 1) (2 ^ 32 - 1) ∧ t.mems = s.mems ∧
      t.get FH_FWRX_TAIL p = s.get FH_FWRX_TAIL p ∧ t.get FH_RX_NOROOM p k = min (s.get FH_RX_NOROOM p k + 1) (2 ^ 32 - 1) := by
  dsimp only
  rw [fhReceive_firmware hr hu, fwReceive_full _ _ _ (frameCounted_full.trans h), forwardPtp_get, forwardPtp_get,
    forwardPtp_get, (forwardPtp_only _ _ _ _).2 .mems (by decide)]
  refine ⟨?_, (State.bumpSat_mems ..).trans (frameCounted_mems s p k), ?_, ?_⟩
  · rw [get_bumpSat_reg _ _ _ _ _ _ _ (by simp only [Fld.addr]; omega), frameCounted_frames hs]
  · rw [get_bumpSat_reg _ _ _ _ _ _ _ (by simp only [Fld.addr]; omega), frameCounted_ring (by simp)]
  · rw [get_bumpSat_self _ _ _ _ ((frameCounted_behaveReset s p k).trans hs.1) (by decide), frameCounted,
      get_bumpSat_reg _ _ _ _ _ _ _ (by simp only [Fld.addr]; omega)]

include hp

theorem receive_firmware_takes {f : FhFrame} (hr : fnState s (fhFn p) = Fn.running) (hu : uplane f.bytes = none)
    (h : ringFull (fwTail s p) (s.get FH_FWRX_HEAD p) (fwSize s p) = false) :
    let t := fhReceive s p k f
    t.get FH_RX_FRAMES p k = min (s.get FH_RX_FRAMES p k + 1) (2 ^ 32 - 1) ∧
      t.get FH_FWRX_TAIL p = (fwTail s p + 1) % fwSize s p % 2 ^ 12 ∧ t.get FH_RX_NOROOM p k = s.get FH_RX_NOROOM p k := by
  obtain ⟨u, hu', heq⟩ := fwReceive_takes k f.bytes (rxTime s p f.q) (frameCounted_full.trans h)
  have hb : u.behaveReset = [] := hu'.reset.trans ((frameCounted_behaveReset s p k).trans hs.1)
  have hstands (g : Fld) (hg : g.off = 0x80044 ∨ g.off = 0x80054) (h1 : g.s1 = 0x10000) (h2 : g.s2 = 0x20) :
      (u.set FH_FWRX_TAIL ((fwTail s p + 1) % fwSize s p) p).get g p k = (frameCounted s p k).get g p k := by
    rw [get_set_reg _ _ _ _ _ _ _ _ (by simp only [Fld.addr, h1, h2]; omega)]
    exact hu'.get g p k (by simp only [Fld.addr, h1, h2]; omega) (by simp only [Fld.addr, h1, h2]; omega) List.not_mem_nil
      (.inl (by simp only [fhFn, Fld.addr, h1, h2]; omega))
  dsimp only
  rw [fhReceive_firmware hr hu, heq, forwardPtp_get, forwardPtp_get, forwardPtp_get,
    fwTail, fwSize, frameCounted_ring (by simp), frameCounted_ring (by simp),
    hstands _ (.inl rfl) rfl rfl, hstands _ (.inr rfl) rfl rfl, get_set_self _ _ _ _ _ hb (by decide),
    frameCounted_frames hs]
  refine ⟨rfl, rfl, ?_⟩
  rw [frameCounted, get_bumpSat_reg _ _ _ _ _ _ _ (by simp only [Fld.addr]; omega)]

theorem receive_noFlow {f : FhFrame} {v e q : Nat} (hr : fnState s (fhFn p) = Fn.running)
    (hu : uplane f.bytes = some (v, e, q)) (hflow : flowOf s p k v e = none) (hfsk : fskOf s p k v e = none) :
    let t := fhReceive s p k f
    t.mems = s.mems ∧ t.get FH_RX_FRAMES p k = min (s.get FH_RX_FRAMES p k + 1) (2 ^ 32 - 1) ∧
      t.get FH_RX_NOFLOW p k = min (s.get FH_RX_NOFLOW p k + 1) (2 ^ 32 - 1) := by
  dsimp only
  rw [fhReceive_noFlow hp hk hr hu hflow hfsk]
  refine ⟨(State.bumpSat_mems ..).trans (frameCounted_mems s p k), ?_, ?_⟩
  · rw [get_bumpSat_reg _ _ _ _ _ _ _ (by simp only [Fld.addr]; omega), frameCounted_frames hs]
  · rw [get_bumpSat_self _ _ _ _ ((frameCounted_behaveReset s p k).trans hs.1) (by decide), frameCounted,
      get_bumpSat_reg _ _ _ _ _ _ _ (by simp only [Fld.addr]; omega)]

end

/-! ## Frames sent (R270; 03_calendar.md R67) -/

theorem exec_fhFrameTransmit {p q : Nat} (hp : p < 8) (hq : q < 8) (ph : Nat) (s : State) :
    exec (.fhFrameTransmit p ⟨q, ph⟩) s = .next (fhTransmit s p q ph) := congrArg Host.Outcome.next (if_pos ⟨hp, hq⟩)

/-- A frame of a time ends before its queue closes. -/
def frameFits (s : State) (p q : Nat) (f : TxFrame) : Bool :=
  match queueCloseWait s p q with
  | some w => decide (frameTime s p f.bytes < 4 * w)
  | none => true

/-- The frame at the head of a queue may start. -/
def frameGoes (s : State) (p q : Nat) (f : TxFrame) : Prop :=
  fnState s (fhFn p) = Fn.running ∧ queueOpen s p q = true ∧ frameFits s p q f = true ∧ f.isLate (nowN s) = false

/-- A poisoned frame dropped is counted at the cell that sent it. -/
def poisonDropped (s : State) (f : TxFrame) : State :=
  match f.cell with
  | some c => s.bumpSat CODEC_CELL_POISON_DROP c
  | none => s

/-- A frame sent is counted at the flow of the cell that sent it. -/
def flowSent (s : State) (f : TxFrame) : State :=
  match f.cell with
  | some c => setCell s c (setCtr (cellAt s c) f.flow { ctrAt (cellAt s c) f.flow with frames := (ctrAt (cellAt s c) f.flow).frames + 1 })
  | none => s

/-- The frame leaves at the head of the port's queue, its check sequence behind it. -/
def frameSent (s : State) (p : Nat) (f : TxFrame) (ph : Nat) : State :=
  flowSent (noteDelayReq (emit s (.fh p (leaving s p f ph ++ frameCheck (leaving s p f ph)))) p f ph) f

section
variable {s : State} {p q : Nat} {f : TxFrame} {rest : List TxFrame} (hq : fhQueue s p q = f :: rest) (ph : Nat)
include hq

theorem fhTransmit_eq : fhTransmit s p q ph =
    if fnState s (fhFn p) ≠ Fn.running ∨ !queueOpen s p q ∨ !frameFits s p q f ∨ f.isLate (nowN s) then s
    else if f.poison then poisonDropped (setQueue s p q rest) f
    else (frameSent (setQueue s p q rest) p f ph).bumpSat FH_TX_FRAMES p f.sub := by
  unfold fhTransmit
  rw [hq]
  rfl

theorem fhTransmit_waits (h : ¬frameGoes s p q f) : fhTransmit s p q ph = s := by
  rw [fhTransmit_eq hq, if_pos]
  by_contra hno
  exact h (by simpa [frameGoes] using hno)

theorem fhTransmit_leaves (h : frameGoes s p q f) : fhTransmit s p q ph =
    if f.poison then poisonDropped (setQueue s p q rest) f
    else (frameSent (setQueue s p q rest) p f ph).bumpSat FH_TX_FRAMES p f.sub := by
  obtain ⟨hr, ho, hf, hl⟩ := h
  rw [fhTransmit_eq hq, if_neg (by simp [hr, ho, hf, hl])]

end

theorem poisonDropped_only (s : State) (f : TxFrame) : Keeps 4 s (poisonDropped s f) := by
  unfold poisonDropped
  split
  · exact State.bumpSat_keeps (by decide) s _ _ _ _ (Keeps.refl _ s)
  · exact Keeps.refl _ s

theorem flowSent_keeps {m : Nat} {s0 : State} (hm : m.land 8388608 = 8388608) {s : State} (h : Keeps m s0 s) (f : TxFrame) :
    Keeps m s0 (flowSent s f) := by
  unfold flowSent
  split
  · exact setCell_keeps hm s _ _ h
  · exact h

/-- A frame sent changes no register and no queue, and it is the last thing sent. -/
theorem frameSent_only (s : State) (p : Nat) (f : TxFrame) (ph : Nat) :
    Keeps 8388672 (emit s (.fh p (leaving s p f ph ++ frameCheck (leaving s p f ph)))) (frameSent s p f ph) :=
  flowSent_keeps (by decide) (noteDelayReq_keeps (by decide) _ p f ph (Keeps.refl _ _)) f

section
variable {s : State} {p q : Nat} {f : TxFrame} {rest : List TxFrame} (hq : fhQueue s p q = f :: rest) (ph : Nat)
  (h : frameGoes s p q f)
include hq h

theorem fhTransmit_poisoned (hp : f.poison = true) :
    fhQueue (fhTransmit s p q ph) p q = rest ∧ (fhTransmit s p q ph).sent = s.sent := by
  have hk := poisonDropped_only (setQueue s p q rest) f
  rw [fhTransmit_leaves hq ph h, if_pos hp, fhQueue_congr (hk.2 .fhq (by decide)), fhQueue_setQueue]
  exact ⟨rfl, hk.2 .sent (by decide)⟩

theorem fhTransmit_sends (hs : s.sound) (hp : f.poison = false) :
    let b := leaving (setQueue s p q rest) p f ph
    fhQueue (fhTransmit s p q ph) p q = rest ∧ (fhTransmit s p q ph).sent = s.sent ++ [.fh p (b ++ frameCheck b)] ∧
      (fhTransmit s p q ph).get FH_TX_FRAMES p f.sub = min (s.get FH_TX_FRAMES p f.sub + 1) (2 ^ 32 - 1) := by
  have hk := frameSent_only (setQueue s p q rest) p f ph
  have hregs : (frameSent (setQueue s p q rest) p f ph).regs = s.regs := hk.2 .regs (by decide)
  have hreset : (frameSent (setQueue s p q rest) p f ph).behaveReset = s.behaveReset := hk.2 .behaveReset (by decide)
  dsimp only
  rw [fhTransmit_leaves hq ph h, if_neg (ne_true_of_eq_false hp), get_bumpSat_self _ _ _ _ (hreset.trans hs.1) (by decide),
    get_congr hregs hreset, State.bumpSat_sent, hk.2 .sent (by decide),
    fhQueue_congr ((State.bumpSat_fhq ..).trans (hk.2 .fhq (by decide)))]
  exact ⟨fhQueue_setQueue s p q rest, rfl, rfl⟩

end

/-! ## Late frames (R270) -/

theorem exec_txLateDrop {p q : Nat} (hp : p < 8) (hq : q < 8) (s : State) :
    exec (.txLateDrop p q) s = .next (txLate s p q) := congrArg Host.Outcome.next (if_pos ⟨hp, hq⟩)

section
variable {s : State} {p q : Nat}

theorem txLate_none (h : (fhQueue s p q).find? (fun f => f.isLate (nowN s)) = none) : txLate s p q = s := by
  unfold txLate
  dsimp only
  rw [h]

theorem txLate_some {f : TxFrame} (h : (fhQueue s p q).find? (fun f => f.isLate (nowN s)) = some f) :
    txLate s p q = (setQueue s p q ((fhQueue s p q).erase f)).bumpSat FH_TX_LATE p f.sub := by
  unfold txLate
  dsimp only
  rw [h]

theorem txLate_drops (hs : s.sound) {f : TxFrame} (h : (fhQueue s p q).find? (fun f => f.isLate (nowN s)) = some f) :
    fhQueue (txLate s p q) p q = (fhQueue s p q).erase f ∧
      (txLate s p q).get FH_TX_LATE p f.sub = min (s.get FH_TX_LATE p f.sub + 1) (2 ^ 32 - 1) := by
  rw [txLate_some h, fhQueue_congr (State.bumpSat_fhq ..), fhQueue_setQueue,
    get_bumpSat_self (setQueue s p q ((fhQueue s p q).erase f)) FH_TX_LATE p f.sub hs.1 (by decide), setQueue_get]
  exact ⟨rfl, rfl⟩

end

/-! ## The statement -/

/-- Settles O30: START and STOP are read off the port's registers, which the choice of the upstream sub-port leaves alone; a received
frame's way is told by its flow, and the head of a queue leaves where every condition of R67 and R270 holds. -/
theorem fronthaulPorts : Obligations.FronthaulPorts := by
  unfold Obligations.FronthaulPorts
  refine ⟨fun s p hs hp hst => ⟨fun hd => ?_, fun hd hbad => ?_, fun hd hok => ?_⟩,
    fun s p hs hp => ⟨fun hr hn => ?_, fun h => ?_⟩,
    fun s p k f hs hp hk hr => ⟨fun v e q hu hflow hfsk => ?_, fun hu => ?_⟩,
    fun s p q ph f rest hs hp hq hl => ⟨fun h => ?_, fun h hbad => ?_, fun h hok => ?_⟩,
    fun s p q hs hp hq => ⟨fun h => ?_, fun f h => ?_⟩⟩
  · rw [exec_fhStart hp, fhStart, startInDomain_off hd]
  · exact acts_of_exec (exec_fhStart hp s) (fhStart_refused hs hst hd hbad)
  · refine acts_of_exec (exec_fhStart hp s) ⟨fhStart_runs hp hs hst hd hok, (fhStart_corrects hp hs hst hd hok).1,
      (fhStart_corrects hp hs hst hd hok).2, fun k hk => ?_⟩
    have hclear {f : Fld} (hf : f ∈ fhCounters) := fhStart_clears hp hs hst hd hok hk hf
    exact ⟨hclear (by simp), hclear (by simp), hclear (by simp), hclear (by simp)⟩
  · refine acts_of_exec (exec_fhStop hp s) ?_
    rw [fhStop_named hr hn]
    exact ⟨(get_set_beside s FH_STATUS.STOP_REJECT FH_STATUS.STATE 1 p 0 p 0 hs.1 rfl (by decide) (by decide)).trans hr,
      get_set_self s FH_STATUS.STOP_REJECT 1 p 0 hs.1 (by decide), State.set_fhq ..⟩
  · refine acts_of_exec (exec_fhStop hp s) ?_
    rw [fhStop_down h]
    exact ⟨fhDown_state p _ hs.1 hp, fun q hq => fhDown_queue p _ hq, fun k hk => fhDown_links p _ hs.1 hp hk⟩
  · exact acts_of_exec (exec_fhFrameReceive hp hk f) (receive_noFlow hs hp (hk.trans_le (subPorts_le s p)) hr hu hflow hfsk)
  · refine acts_of_exec (exec_fhFrameReceive hp hk f) ?_
    cases hfull : ringFull (fwTail s p) (s.get FH_FWRX_HEAD p) (fwSize s p) with
    | true =>
      obtain ⟨hframes, hmems, htail, hroom⟩ := receive_firmware_full hs hr hu hfull
      exact ⟨hframes, fun _ => ⟨hmems, htail, hroom⟩, fun h => absurd h (by decide)⟩
    | false =>
      obtain ⟨hframes, htail, hroom⟩ := receive_firmware_takes hs hp (hk.trans_le (subPorts_le s p)) hr hu hfull
      exact ⟨hframes, fun h => absurd h (by decide), fun _ => ⟨htail, hroom⟩⟩
  · rw [exec_fhFrameTransmit hp hq, fhTransmit_waits hl ph h]
  · exact acts_of_exec (exec_fhFrameTransmit hp hq ph s) (fhTransmit_poisoned hl ph h hbad)
  · exact acts_of_exec (exec_fhFrameTransmit hp hq ph s) (fhTransmit_sends hl ph h hs hok)
  · rw [exec_txLateDrop hp hq, txLate_none h]
  · exact acts_of_exec (exec_txLateDrop hp hq s) (txLate_drops hs h)

end Sys2Proof.Machine
end

section
/-! PROOFS. The coded-channel groups and their jobs (11_nr_baseband.md R278 to R280, R288). -/

namespace Sys2Proof.Machine

/-! ## Groups -/

theorem codecAt_congr {s t : State} (h : t.codecs = s.codecs) (g : Nat) : codecAt t g = codecAt s g := by
  unfold codecAt
  rw [h]

@[simp] theorem codecAt_setCodec (s : State) (g : Nat) (x : Codec) : codecAt (setCodec s g x) g = x := mapGet_put_self _ _ _ _

theorem fnState_codec (s : State) (g : Nat) : fnState s (codecFn g) = s.get CODEC_GRP_STATUS.STATE g := rfl

/-! ## What a ring shows -/

theorem SameDev.readBytes {s t : State} (h : SameDev s t) (a n : Nat) : (devRead t a n).2.1 = (devRead s a n).2.1 := by
  unfold devRead
  simp only [h.top, h.devPlain]
  split
  · rfl
  · split <;> dsimp only

theorem SameDev.ringTail {s t : State} (h : SameDev s t) (base : Nat) : ringTail t base = Machine.ringTail s base := by
  unfold Machine.ringTail memLe
  rw [h.readBytes]

theorem setCodec_only (s : State) (g : Nat) (x : Codec) : Keeps 33554432 s (setCodec s g x) :=
  setCodec_keeps (by decide) s g x (Keeps.refl _ s)

theorem setCodec_sameDev (s : State) (g : Nat) (x : Codec) : SameDev s (setCodec s g x) :=
  .of_keeps (setCodec_only s g x) (by decide) (by decide) (by decide) (by decide) (by decide) (by decide)

theorem setCodec_jobRing (s : State) (g : Nat) (x : Codec) (hard : Bool) : jobRing (setCodec s g x) g hard = jobRing s g hard := by
  unfold jobRing State.get2
  simp only [setCodec_get]

theorem setCodec_ringTail (s : State) (g : Nat) (x : Codec) (base : Nat) : ringTail (setCodec s g x) base = ringTail s base :=
  (setCodec_sameDev s g x).ringTail base

/-! ## START (R288) -/

theorem exec_codecGrpStart {g : Nat} (hg : g < 4) (s : State) : exec (.codecGrpStart g) s = .next (codecStart s g) :=
  congrArg Host.Outcome.next (if_pos hg)

/-- The counters of a group that START clears. -/
abbrev codecCounters : List Fld := [CODEC_GRP_JOBS, CODEC_GRP_DEC_FAIL, CODEC_GRP_LATE]

/-- The group's counters cleared. -/
def codecCleared (s : State) (g : Nat) : State := forEach codecCounters (fun s f => s.set f 0 g) s

/-- The group as START finds its rings. -/
def ringsNoticed (s : State) (g : Nat) : State := tailNotice (tailNotice (setCodec s g {}) g true) g false

/-- The ring sizes are in range. -/
def jobRingsFit (s : State) (g : Nat) : Prop :=
  4 ≤ s.get CODEC_GRP_HARD_SIZE g ∧ s.get CODEC_GRP_HARD_SIZE g ≤ 12 ∧ 4 ≤ s.get CODEC_GRP_FIRM_SIZE g ∧
    s.get CODEC_GRP_FIRM_SIZE g ≤ 12

section
variable (s : State) (g : Nat)

theorem codecCleared_only : Keeps 4 s (codecCleared s g) :=
  forEach_keeps (by decide) _ _ _ (fun t _ h => State.set_keeps (by decide) t _ _ _ _ h) (Keeps.refl _ s)

theorem codecCleared_below : SameBelow (CODEC_GRP_JOBS.addr g) s (codecCleared s g) := by
  unfold codecCleared forEach
  refine List.foldlRecOn codecCounters (fun (t : State) (f : Fld) => t.set f 0 g)
    (motive := fun u => SameBelow _ s u) (SameBelow.refl _ s) fun u h f hf =>
    h.trans (SameBelow.set u f 0 g 0 ?_)
  simp only [List.mem_cons, List.not_mem_nil, or_false] at hf
  rcases hf with rfl | rfl | rfl <;> simp only [Fld.addr] <;> omega

theorem codecCleared_get (f : Fld) (hf : f.addr g < CODEC_GRP_JOBS.addr g) : (codecCleared s g).get f g = s.get f g :=
  (codecCleared_below s g).get f g 0 hf

theorem codecCleared_sameDev {g : Nat} (hg : g < 4) : SameDev s (codecCleared s g) := by
  unfold codecCleared forEach
  refine List.foldlRecOn codecCounters (fun (t : State) (f : Fld) => t.set f 0 g)
    (motive := fun u => SameDev s u) (SameDev.refl s) fun u h f hf => h.trans ?_
  simp only [List.mem_cons, List.not_mem_nil, or_false] at hf
  rcases hf with rfl | rfl | rfl <;>
    exact SameDev.set u _ 0 g 0 (by simp only [Fld.addr]; omega) (by simp only [Fld.addr]; omega)

theorem codecCleared_ring (hard : Bool) : jobRing (codecCleared s g) g hard = jobRing s g hard := by
  have hget (f : Fld) (hf : f ∈ [CODEC_GRP_HARD_BASE_LO, CODEC_GRP_HARD_BASE_HI, CODEC_GRP_HARD_SIZE, CODEC_GRP_FIRM_BASE_LO,
      CODEC_GRP_FIRM_BASE_HI, CODEC_GRP_FIRM_SIZE]) : (codecCleared s g).get f g = s.get f g := by
    refine codecCleared_get s g f ?_
    simp only [List.mem_cons, List.not_mem_nil, or_false] at hf
    rcases hf with rfl | rfl | rfl | rfl | rfl | rfl <;> simp only [Fld.addr] <;> omega
  unfold jobRing State.get2
  simp only [hget _ (by simp : CODEC_GRP_HARD_BASE_LO ∈ _), hget _ (by simp : CODEC_GRP_HARD_BASE_HI ∈ _),
    hget _ (by simp : CODEC_GRP_HARD_SIZE ∈ _), hget _ (by simp : CODEC_GRP_FIRM_BASE_LO ∈ _),
    hget _ (by simp : CODEC_GRP_FIRM_BASE_HI ∈ _), hget _ (by simp : CODEC_GRP_FIRM_SIZE ∈ _)]

theorem codecCleared_tail {g : Nat} (hg : g < 4) (hard : Bool) :
    ringTail (codecCleared s g) (jobRing (codecCleared s g) g hard).1 = ringTail s (jobRing s g hard).1 := by
  rw [codecCleared_ring, (codecCleared_sameDev s hg).ringTail]

theorem ringsNoticed_only : Keeps 33554432 s (ringsNoticed s g) :=
  ((setCodec_only s g _).trans (setCodec_only _ g _)).trans (setCodec_only _ g _)

theorem ringsNoticed_get (f : Fld) (i k : Nat) : (ringsNoticed s g).get f i k = s.get f i k :=
  get_congr ((ringsNoticed_only s g).2 .regs (by decide)) ((ringsNoticed_only s g).2 .behaveReset (by decide)) f i k

theorem ringsNoticed_codec : codecAt (ringsNoticed s g) g =
    { hardTail := ringTail s (jobRing s g true).1, firmTail := ringTail s (jobRing s g false).1, jobs := [] } := by
  simp [ringsNoticed, tailNotice, setCodec_jobRing, setCodec_ringTail]

end

section
variable {s : State} {g : Nat}

/-- The group with its counters clear and the tails of its rings learnt. -/
def codecReady (s : State) (g : Nat) : State := ringsNoticed (codecCleared s g) g

theorem codecReady_get (f : Fld) (hf : f.addr g < CODEC_GRP_JOBS.addr g) : (codecReady s g).get f g = s.get f g :=
  (ringsNoticed_get _ g f g 0).trans (codecCleared_get s g f hf)

theorem codecReady_codec (hg : g < 4) : codecAt (codecReady s g) g =
    { hardTail := ringTail s (jobRing s g true).1, firmTail := ringTail s (jobRing s g false).1, jobs := [] } := by
  rw [codecReady, ringsNoticed_codec, codecCleared_tail s hg true, codecCleared_tail s hg false]

theorem codecReady_stopped (hs : s.sound) (h : fnState s (codecFn g) = Fn.stopped) :
    (codecReady s g).sound ∧ fnState (codecReady s g) (codecFn g) = Fn.stopped := by
  have hc := codecCleared_only s g
  have hr := ringsNoticed_only (codecCleared s g) g
  refine ⟨⟨((hr.2 .behaveReset (by decide)).trans (hc.2 .behaveReset (by decide))).trans hs.1,
    ((hr.2 .upset (by decide)).trans (hc.2 .upset (by decide))).trans hs.2⟩, ?_⟩
  rw [fnState_codec, codecReady_get _ (by simp only [Fld.addr]; omega)]
  exact h

/-- A STOPPED group at START, its domain on. -/
theorem codecStart_eq (h : fnState s (codecFn g) = Fn.stopped) (hd : domOn s (192 + g) = true) [Decidable (jobRingsFit s g)] :
    codecStart s g = startFn (codecReady s g) (codecFn g) (if jobRingsFit s g then none else some Code.badArgument) := by
  have hbits : (decide (4 ≤ s.get CODEC_GRP_HARD_SIZE g) && decide (s.get CODEC_GRP_HARD_SIZE g ≤ 12) &&
      (decide (4 ≤ s.get CODEC_GRP_FIRM_SIZE g) && decide (s.get CODEC_GRP_FIRM_SIZE g ≤ 12))) = true ↔ jobRingsFit s g := by
    simp [jobRingsFit, and_assoc]
  have hsize (f : Fld) (hf : f = CODEC_GRP_HARD_SIZE ∨ f = CODEC_GRP_FIRM_SIZE) : (codecReady s g).get f g = s.get f g :=
    codecReady_get f (by rcases hf with rfl | rfl <;> simp only [Fld.addr] <;> omega)
  unfold codecStart
  rw [startInDomain_on hd, if_pos h]
  change startFn (codecReady s g) (codecFn g) _ = _
  congr 1
  refine if_congr ?_ rfl rfl
  rw [← hbits, ← hsize _ (.inl rfl), ← hsize _ (.inr rfl)]
  rfl

end

/-! ## STOP (R278) -/

theorem exec_codecGrpStop {g : Nat} (hg : g < 4) (s : State) : exec (.codecGrpStop g) s = .next (codecStop s g) :=
  congrArg Host.Outcome.next (if_pos hg)

section
variable (s : State) (g : Nat)

theorem codecSettle_codecs : (codecSettle s g).codecs = s.codecs :=
  (codecSettle_keeps (m := 4) (by decide) s g (Keeps.refl _ s)).2 .codecs (by decide)

theorem codecSettle_get_reg (f : Fld) (i k : Nat) (hf : f.addr i k ≠ codecFn g) : (codecSettle s g).get f i k = s.get f i k := by
  unfold codecSettle
  split
  · exact get_set_reg s (stateFld (codecFn g)) f Fn.stopped 0 0 i k (by simpa [Fld.addr] using hf)
  · rfl

theorem get_setFnState_codec (hb : s.behaveReset = []) (v : Nat) (hv : v < 2 ^ 3) :
    (setFnState s (codecFn g) v).get CODEC_GRP_STATUS.STATE g = v :=
  (get_set_self s CODEC_GRP_STATUS.STATE v g 0 hb (by decide)).trans (Nat.mod_eq_of_lt hv)

theorem codecSettle_state (hb : s.behaveReset = []) : (codecSettle s g).get CODEC_GRP_STATUS.STATE g =
    if s.get CODEC_GRP_STATUS.STATE g = Fn.stopping ∧ (codecAt s g).jobs = [] then Fn.stopped
    else s.get CODEC_GRP_STATUS.STATE g := by
  unfold codecSettle
  simp only [fnState_codec, List.isEmpty_iff]
  split
  · exact get_setFnState_codec s g hb _ (by decide)
  · rfl

end

section
variable {s : State} {g : Nat}

theorem codecStop_named (h : s.get CODEC_GRP_STATUS.STATE g = Fn.running)
    (hn : (mapKeys s.cells).any (fun c => fnState s (cellFn c) == Fn.running && (cellAt s c).fld 5 1 == g) = true) :
    codecStop s g = s.set CODEC_GRP_STATUS.STOP_REJECT 1 g := by
  unfold codecStop
  dsimp only
  rw [fnState_codec, if_pos h, if_pos hn]

theorem codecStop_running (h : s.get CODEC_GRP_STATUS.STATE g = Fn.running)
    (hn : (mapKeys s.cells).any (fun c => fnState s (cellFn c) == Fn.running && (cellAt s c).fld 5 1 == g) = false) :
    codecStop s g = codecSettle (setFnState s (codecFn g) Fn.stopping) g := by
  unfold codecStop
  dsimp only
  rw [fnState_codec, if_pos h, if_neg (ne_true_of_eq_false hn)]

theorem codecStop_faulted (h : s.get CODEC_GRP_STATUS.STATE g = Fn.faulted) :
    codecStop s g = setFnState (setCodec s g {}) (codecFn g) Fn.stopped := by
  unfold codecStop
  dsimp only
  rw [fnState_codec, if_neg (by rw [h]; decide), if_pos h]

theorem codecStop_ends (hs : s.sound) (h : s.get CODEC_GRP_STATUS.STATE g = Fn.running)
    (hn : (mapKeys s.cells).any (fun c => fnState s (cellFn c) == Fn.running && (cellAt s c).fld 5 1 == g) = false) :
    (codecStop s g).get CODEC_GRP_STATUS.STATE g = (if (codecAt s g).jobs.isEmpty then Fn.stopped else Fn.stopping) ∧
      (codecStop s g).codecs = s.codecs := by
  have hcodecs : (setFnState s (codecFn g) Fn.stopping).codecs = s.codecs := setFnState_codecs ..
  rw [codecStop_running h hn, codecSettle_codecs, codecSettle_state _ _ ((setFnState_behaveReset ..).trans hs.1),
    get_setFnState_codec s g hs.1 _ (by decide), codecAt_congr hcodecs]
  refine ⟨?_, hcodecs⟩
  simp only [true_and, List.isEmpty_iff]

end

/-! ## A job starts (R280) -/

theorem exec_codecRingTailNotice {g : Nat} (hg : g < 4) (hard : Bool) (s : State) :
    exec (.codecRingTailNotice g hard) s = .next (tailNotice s g hard) := congrArg Host.Outcome.next (if_pos hg)

theorem codecAt_tailNotice (s : State) (g : Nat) (hard : Bool) : codecAt (tailNotice s g hard) g =
    (if hard then { codecAt s g with hardTail := ringTail s (jobRing s g true).1 }
      else { codecAt s g with firmTail := ringTail s (jobRing s g false).1 }) := by
  unfold tailNotice
  dsimp only
  rw [codecAt_setCodec]
  cases hard
  · rw [if_neg Bool.false_ne_true, if_neg Bool.false_ne_true]
  · rw [if_pos rfl, if_pos rfl]

/-- A descriptor's deadline has passed. -/
abbrev descLate (s : State) (d : Bytes) : Prop := df d 0x38 8 ≠ 0 ∧ df d 0x38 8 < nowN s

/-- The head of a ring, with descriptor d, may start on an engine of kind op. -/
abbrev headStarts (s : State) (g : Nat) (hard : Bool) (op : Nat) (d : Bytes) : Prop :=
  let o := df d 0 1
  s.get CODEC_GRP_STATUS.STATE g = Fn.running ∧ jobCount s g hard ≠ 0 ∧ (3 ≤ o ∨ o = op) ∧ ¬descLate s d ∧
    ¬(hard = false ∧ (List.range (jobCount s g true)).any (fun k => memLe s (jobAt s g true k) 1 == o) = true) ∧
    ¬(o < 3 ∧ engines o ≤ ((codecAt s g).jobs.filter (fun j => df j.desc 0 1 == o)).length)

/-- The work of the job at the head of a ring. -/
def headWork (s : State) (g : Nat) (hard : Bool) (d : Bytes) : State × Bytes × Nat :=
  jobWork (seeDev (hubSee (jobPop s g hard) (codecFn g) (df d 0x10 8) (jobInput d)) (df d 0x10 8) (jobInput d)) d

/-- The job at the head of a ring as it runs. -/
def headJob (s : State) (g : Nat) (hard : Bool) (d : Bytes) : CJob :=
  { hard := hard, desc := d, out := (headWork s g hard d).2.1, word := (headWork s g hard d).2.2 }

/-- A malformed descriptor ends with BAD_ARGUMENT. -/
theorem headWork_malformed (s : State) (g : Nat) (hard : Bool) {d : Bytes} (h : jobOk d = false) :
    (headWork s g hard d).2 = ([], resultWord Code.badArgument 0 false 0) := by
  unfold headWork jobWork
  rw [h]
  rfl

section
variable {s : State} {g : Nat} {hard : Bool} {op : Nat} {d : Bytes} (hd : (devRead s (jobAt s g hard 0) 64).2.1 = d)
include hd

theorem jobStart_waits (h : ¬headStarts s g hard op d) : jobStart s g hard op = s := by
  unfold jobStart
  dsimp only
  rw [hd, fnState_codec]
  split
  · rfl
  next hopen =>
    obtain ⟨hrun, hcount⟩ := not_or.1 hopen
    rw [if_pos]
    by_contra hno
    simp only [Bool.and_eq_true, decide_eq_true_eq, Bool.not_eq_true', not_or] at hno
    obtain ⟨hkind, hlate, hwaits, hbusy⟩ := hno
    exact h ⟨not_not.1 hrun, hcount, by omega, hlate, hwaits, hbusy⟩

theorem jobStart_starts (h : headStarts s g hard op d) :
    jobStart s g hard op = setCodec (headWork s g hard d).1 g { codecAt s g with
      jobs := (codecAt s g).jobs ++ [headJob s g hard d] } := by
  obtain ⟨hrun, hcount, hkind, hlate, hwaits, hbusy⟩ := h
  unfold jobStart
  dsimp only
  rw [hd, fnState_codec, if_neg (not_or.2 ⟨not_not.2 hrun, hcount⟩), if_neg]
  · rfl
  · simp only [Bool.and_eq_true, decide_eq_true_eq, Bool.not_eq_true', not_or]
    exact ⟨by omega, hlate, hwaits, hbusy⟩

theorem jobStart_jobs (h : headStarts s g hard op d) : ∃ out word, (codecAt (jobStart s g hard op) g).jobs =
    (codecAt s g).jobs ++ [{ hard := hard, desc := d, out := out, word := word }] ∧
      (jobOk d = false → out = [] ∧ word = resultWord Code.badArgument 0 false 0) := by
  rw [jobStart_starts hd h, codecAt_setCodec]
  exact ⟨_, _, rfl, fun hbad => Prod.mk.inj (headWork_malformed s g hard hbad)⟩

end

/-! ## A job ends (R280) -/

section
variable (s : State) (g : Nat)

theorem jobStore_radioStands (a : Nat) (l : Bytes) : RadioStands (codecFn g) [] s (jobStore s g a l) := by
  unfold jobStore
  split
  · exact .refl _ _ s
  · exact hubWrite_radioStands s [] a l false

theorem jobReport_radioStands (d : Bytes) (word : Nat) : RadioStands (codecFn g) [] s (jobReport s g d word) :=
  (jobStore_radioStands s g _ _).trans (jobStore_radioStands _ g _ _)

theorem jobStore_only (a : Nat) (l : Bytes) : Keeps 39728448516 s (jobStore s g a l) :=
  jobStore_keeps (by decide) s g a l (Keeps.refl _ s)

theorem jobReport_only (d : Bytes) (word : Nat) : Keeps 39728448516 s (jobReport s g d word) :=
  jobReport_keeps (by decide) s g d word (Keeps.refl _ s)

end

/-- A group's counter reads as before where memory and the group's code alone may have changed. -/
theorem RadioStands.codec {s t : State} {g : Nat} (h : RadioStands (codecFn g) [] s t) (hg : g < 4) {f : Fld}
    (hf : f ∈ [CODEC_GRP_STATUS.STATE, CODEC_GRP_JOBS, CODEC_GRP_DEC_FAIL, CODEC_GRP_LATE]) : t.get f g = s.get f g := by
  have hplace : 0x100004 ≤ f.off ∧ f.off ≤ 0x100028 ∧ f.s1 = 0x100 ∧ (f.off ≠ 0x100004 ∨ f.lo + f.w ≤ 13) := by
    simp only [List.mem_cons, List.not_mem_nil, or_false] at hf
    rcases hf with rfl | rfl | rfl | rfl <;> decide
  obtain ⟨hlo, hhi, h1, hfn⟩ := hplace
  refine h.get f g 0 ?_ ?_ List.not_mem_nil (hfn.imp_left fun hne => ?_) <;> simp only [codecFn, Fld.addr, h1] <;> omega

/-- The oldest job told: its output and its result are stored, and it runs no more. -/
def jobTold (s : State) (g : Nat) (j : CJob) (l : List CJob) : State :=
  jobReport (jobStore (setCodec s g { codecAt s g with jobs := l }) g (df j.desc 0x18 8) j.out) g j.desc j.word

/-- The job's decoder found no code word. -/
abbrev decodeFailed (j : CJob) : Prop := df j.desc 0 1 ≠ Jop.enc ∧ j.word / 2 ^ 15 % 2 = 0

/-- A failed decoding counted. -/
def failCounted (s : State) (g : Nat) (j : CJob) : State := if decodeFailed j then s.bumpSat CODEC_GRP_DEC_FAIL g else s

theorem jobDone_eq {s : State} {g : Nat} {j : CJob} {l : List CJob} (h : (codecAt s g).jobs = j :: l) :
    jobDone s g = codecSettle (failCounted ((jobTold s g j l).bumpSat CODEC_GRP_JOBS g) g j) g := by
  unfold jobDone
  dsimp only
  rw [h]
  rfl

section
variable (s : State) {g : Nat} (j : CJob) (l : List CJob)

theorem failCounted_behaveReset : (failCounted s g j).behaveReset = s.behaveReset := by
  unfold failCounted
  split
  · exact State.bumpSat_behaveReset ..
  · rfl

theorem failCounted_codecs : (failCounted s g j).codecs = s.codecs := by
  unfold failCounted
  split
  · exact State.bumpSat_codecs ..
  · rfl

theorem failCounted_get_reg (f : Fld) (i k : Nat) (hf : f.addr i k ≠ CODEC_GRP_DEC_FAIL.addr g) :
    (failCounted s g j).get f i k = s.get f i k := by
  unfold failCounted
  split
  · exact get_bumpSat_reg _ _ _ _ _ _ _ hf
  · rfl

theorem failCounted_fails (hb : s.behaveReset = []) : (failCounted s g j).get CODEC_GRP_DEC_FAIL g =
    if decodeFailed j then min (s.get CODEC_GRP_DEC_FAIL g + 1) (2 ^ 32 - 1) else s.get CODEC_GRP_DEC_FAIL g := by
  unfold failCounted
  split
  · exact get_bumpSat_self s _ g 0 hb (by decide)
  · rfl

theorem jobTold_radioStands : RadioStands (codecFn g) [] s (jobTold s g j l) :=
  ((RadioStands.of_keeps (setCodec_only s g _) (by decide) (by decide)).trans (jobStore_radioStands _ g _ _)).trans
    (jobReport_radioStands _ g _ _)

theorem jobTold_codec : codecAt (jobTold s g j l) g = { codecAt s g with jobs := l } := by
  have hk := (jobStore_only (setCodec s g { codecAt s g with jobs := l }) g (df j.desc 0x18 8) j.out).trans
    (jobReport_only _ g j.desc j.word)
  exact (codecAt_congr (hk.2 .codecs (by decide)) g).trans (codecAt_setCodec s g _)

end

theorem jobDone_ends {s : State} {g : Nat} {j : CJob} {l : List CJob} (hs : s.sound) (hg : g < 4) (h : (codecAt s g).jobs = j :: l) :
    (codecAt (jobDone s g) g).jobs = l ∧
      (jobDone s g).get CODEC_GRP_JOBS g = min (s.get CODEC_GRP_JOBS g + 1) (2 ^ 32 - 1) ∧
      (jobDone s g).get CODEC_GRP_DEC_FAIL g =
        (if decodeFailed j then min (s.get CODEC_GRP_DEC_FAIL g + 1) (2 ^ 32 - 1) else s.get CODEC_GRP_DEC_FAIL g) ∧
      (jobDone s g).get CODEC_GRP_STATUS.STATE g =
        (if s.get CODEC_GRP_STATUS.STATE g = Fn.stopping ∧ l = [] then Fn.stopped else s.get CODEC_GRP_STATUS.STATE g) := by
  have ht := jobTold_radioStands s j l (g := g)
  have hb : (jobTold s g j l).behaveReset = [] := ht.reset.trans hs.1
  have hbj : ((jobTold s g j l).bumpSat CODEC_GRP_JOBS g).behaveReset = [] := (State.bumpSat_behaveReset ..).trans hb
  have hcodec : codecAt (failCounted ((jobTold s g j l).bumpSat CODEC_GRP_JOBS g) g j) g = { codecAt s g with jobs := l } :=
    (codecAt_congr ((failCounted_codecs _ j).trans (State.bumpSat_codecs ..)) g).trans (jobTold_codec s j l)
  rw [jobDone_eq h]
  refine ⟨?_, ?_, ?_, ?_⟩
  · rw [codecAt_congr (codecSettle_codecs _ g), hcodec]
  · rw [codecSettle_get_reg _ _ _ _ _ (by simp only [codecFn, Fld.addr]; omega),
      failCounted_get_reg _ _ _ _ _ (by simp only [Fld.addr]; omega), get_bumpSat_self _ _ _ _ hb (by decide),
      ht.codec hg (by simp)]
  · rw [codecSettle_get_reg _ _ _ _ _ (by simp only [codecFn, Fld.addr]; omega), failCounted_fails _ _ hbj,
      get_bumpSat_reg _ _ _ _ _ _ _ (by simp only [Fld.addr]; omega), ht.codec hg (by simp)]
  · rw [codecSettle_state _ _ ((failCounted_behaveReset _ j).trans hbj), hcodec,
      failCounted_get_reg _ _ _ _ _ (by simp only [Fld.addr]; omega),
      get_bumpSat_reg _ _ _ _ _ _ _ (by simp only [Fld.addr]; omega), ht.codec hg (by simp)]

/-! ## A late head (R280) -/

theorem exec_codecDeadlineSkip {g : Nat} (hg : g < 4) (hard : Bool) (s : State) :
    exec (.codecDeadlineSkip g hard) s = .next (deadlineSkip s g hard) := congrArg Host.Outcome.next (if_pos hg)

/-- The head of a ring, with descriptor d, is skipped. -/
abbrev headSkips (s : State) (g : Nat) (hard : Bool) (d : Bytes) : Prop :=
  s.get CODEC_GRP_STATUS.STATE g = Fn.running ∧ jobCount s g hard ≠ 0 ∧ descLate s d

/-- The late head reported. -/
def headReported (s : State) (g : Nat) (hard : Bool) (d : Bytes) : State :=
  jobReport (jobPop s g hard) g d (resultWord Code.busy 0 false 0)

section
variable {s : State} {g : Nat} {hard : Bool} {d : Bytes}

theorem deadlineSkip_waits (hd : (devRead s (jobAt s g hard 0) 64).2.1 = d) (h : ¬headSkips s g hard d) :
    deadlineSkip s g hard = s := by
  unfold deadlineSkip
  dsimp only
  rw [hd, fnState_codec]
  split
  · rfl
  next hopen =>
    obtain ⟨hrun, hcount⟩ := not_or.1 hopen
    exact if_neg fun hl => h ⟨not_not.1 hrun, hcount, hl⟩

theorem deadlineSkip_skips (hd : (devRead s (jobAt s g hard 0) 64).2.1 = d) (h : headSkips s g hard d) :
    deadlineSkip s g hard = (headReported s g hard d).bumpSat CODEC_GRP_LATE g := by
  obtain ⟨hrun, hcount, hlate⟩ := h
  unfold deadlineSkip
  dsimp only
  rw [hd, fnState_codec, if_neg (not_or.2 ⟨not_not.2 hrun, hcount⟩), if_pos hlate]
  rfl

variable (s g hard d)

theorem headReported_radioStands : RadioStands (codecFn g) [] s (headReported s g hard d) :=
  (hubStore_radioStands s [] _ _).trans (jobReport_radioStands _ g _ _)

theorem headReported_codecs : (headReported s g hard d).codecs = s.codecs :=
  ((jobReport_only (jobPop s g hard) g _ _).2 .codecs (by decide)).trans
    ((jobPop_keeps (m := 34359739396) (by decide) s g hard (Keeps.refl _ s)).2 .codecs (by decide))

end

/-! ## The statement -/

/-- Settles O33: START reads its rings before the function runs, a head starts where each of its conditions holds, and what a job
stores in memory moves neither the group's state nor its counters. -/
theorem codedJobs : Obligations.CodedJobs := by
  unfold Obligations.CodedJobs
  refine ⟨fun s g hs hg hst => ⟨fun hd => ?_, fun hd hbad => ?_, fun hd hok => ?_⟩,
    fun s g hs hg => ⟨fun hr hn => ?_, fun hr hn => ?_, fun hf => ?_⟩,
    fun s g hard hs hg => ?_,
    fun s i g op hard hs hg hi => ?_,
    fun s g j l hs hg hj => acts_of_exec (congrArg Host.Outcome.next (if_pos hg)) (jobDone_ends hs hg hj),
    fun s g hard hs hg => ⟨fun h => ?_, fun h => ?_⟩⟩
  · rw [exec_codecGrpStart hg, codecStart, startInDomain_off hd]
  · obtain ⟨hc, hstopped⟩ := codecReady_stopped hs hst
    refine acts_of_exec (exec_codecGrpStart hg s) ?_
    classical
    rw [codecStart_eq hst hd, if_neg (show ¬jobRingsFit s g from hbad)]
    exact startFn_refused hc hstopped (by decide)
  · obtain ⟨hc, hstopped⟩ := codecReady_stopped hs hst
    refine acts_of_exec (exec_codecGrpStart hg s) ?_
    have hcodec (c : Option Nat) := codecAt_congr
      ((startFn_keeps (m := 4) (by decide) (codecReady s g) (codecFn g) c (Keeps.refl _ _)).2 .codecs (by decide)) g
    classical
    rw [codecStart_eq hst hd, if_pos (show jobRingsFit s g from hok), hcodec, codecReady_codec hg]
    exact ⟨(startFn_passes hc hstopped).1, rfl, rfl, rfl⟩
  · refine acts_of_exec (exec_codecGrpStop hg s) ?_
    rw [codecStop_named hr hn]
    exact ⟨(get_set_beside s CODEC_GRP_STATUS.STOP_REJECT CODEC_GRP_STATUS.STATE 1 g 0 g 0 hs.1 rfl (by decide) (by decide)).trans hr,
      get_set_self s CODEC_GRP_STATUS.STOP_REJECT 1 g 0 hs.1 (by decide), State.set_codecs ..⟩
  · exact acts_of_exec (exec_codecGrpStop hg s) (codecStop_ends hs hr hn)
  · refine acts_of_exec (exec_codecGrpStop hg s) ?_
    rw [codecStop_faulted hf]
    exact ⟨get_setFnState_codec _ g ((setCodec_behaveReset ..).trans hs.1) _ (by decide),
      (codecAt_congr (setFnState_codecs ..) g).trans (codecAt_setCodec s g {})⟩
  · refine acts_of_exec (exec_codecRingTailNotice hg hard s) ⟨setCodec_regs .., ?_⟩
    exact codecAt_tailNotice s g hard
  · have hexec : exec i s = .next (jobStart s g hard op) := by
      dsimp only at hi
      split at hi <;> cases hi <;> exact congrArg Host.Outcome.next (if_pos hg)
    exact ⟨fun h => hexec.trans (congrArg _ (jobStart_waits rfl h)), fun h => acts_of_exec hexec (jobStart_jobs rfl h)⟩
  · exact (exec_codecDeadlineSkip hg hard s).trans (congrArg _ (deadlineSkip_waits rfl h))
  · refine acts_of_exec (exec_codecDeadlineSkip hg hard s) ?_
    have ht := headReported_radioStands s g hard (devRead s (jobAt s g hard 0) 64).2.1
    rw [deadlineSkip_skips rfl h, get_bumpSat_self _ _ _ _ (ht.reset.trans hs.1) (by decide), ht.codec hg (by simp)]
    exact ⟨(State.bumpSat_codecs ..).trans (headReported_codecs s g hard _), rfl⟩

end Sys2Proof.Machine
end

section
/-! PROOFS. The indications of a cell and its replicas (11_nr_baseband.md R271, R274, R276, R283, R284). -/

namespace Sys2Proof.Machine

/-! ## A cell that serves slots (R273) -/

theorem Keeps.cells {m : Nat} {s t : State} (h : Keeps m s t) (hm : m.testBit Part.cells.idx = false) : t.cells = s.cells :=
  h.2 .cells hm

theorem Keeps.reset {m : Nat} {s t : State} (h : Keeps m s t) (hm : m.testBit Part.behaveReset.idx = false) :
    t.behaveReset = s.behaveReset := h.2 .behaveReset hm

section
variable {s : State} {c : Nat} (hstop : (cellAt s c).stopAt = none)
include hstop

/-- A cell with no stop time set has nothing to settle. -/
theorem cellSettle_noStop : cellSettle s c = s := by
  unfold cellSettle
  rw [hstop]

/-- A serving cell takes the event. -/
theorem onCell_serves (hc : c < 512) (h : cellServing s c = true) (f : State → State) : onCell s c f = f s := by
  unfold onCell
  dsimp only
  rw [cellSettle_noStop hstop, if_pos ⟨hc, h⟩]

theorem serves_noStop (k : Nat) : (cellAt s c).serves k = true := by
  unfold Cell.serves
  rw [hstop]

end

@[simp] theorem cellAt_faultFn (s : State) (fn code c : Nat) : cellAt (faultFn s fn code) c = cellAt s c :=
  cellAt_congr (faultFn_cells ..) c

/-- A cell's state, its standby bit and its count of takeovers read as before after an indication. -/
theorem RadioStands.cell {s t : State} {c : Nat} (h : RadioStands (cellFn c) (indRegs c) s t) (hc : c < 512) {f : Fld}
    (hf : f ∈ [CODEC_CELL_STATUS.STATE, CODEC_CELL_STATUS.STANDBY, CODEC_CELL_STARTS.TAKEOVERS]) : t.get f c = s.get f c := by
  have hplace : f.s1 = 0x40 ∧ (f.off = 0x110004 ∧ f.lo + f.w ≤ 13 ∨ f.off = 0x11002C) := by
    simp only [List.mem_cons, List.not_mem_nil, or_false] at hf
    rcases hf with rfl | rfl | rfl <;> decide
  obtain ⟨h1, hoff⟩ := hplace
  refine h.get f c 0 ?_ ?_ ?_ (hoff.symm.imp (fun he => ?_) And.right) <;>
    simp only [cellFn, indRegs, List.mem_singleton, Fld.addr, h1] <;> omega

/-! ## The counts of a cell sent to its beads (R273, R251) -/

/-- What a cell holds of its slots to come: the next CRC indication, the room in the receive ring, the requests. -/
structure SameSlots (x y : Cell) : Prop where
  nextCrc : y.nextCrc = x.nextCrc
  rxHeld : y.rxHeld = x.rxHeld
  reqs : y.reqs = x.reqs

theorem cellFault_slots (s : State) (c code : Nat) : SameSlots (cellAt s c) (cellAt (cellFault s c code) c) := by
  unfold cellFault
  dsimp only
  rw [cellAt_faultFn, cellAt_set, cellAt_setCell]
  exact ⟨rfl, rfl, rfl⟩

theorem flushCell_slots (s : State) (c : Nat) : SameSlots (cellAt s c) (cellAt (flushCell s c) c) := by
  unfold flushCell
  dsimp only
  split
  · have hpoison := forEach_same State.cells (fun t b => (beadPoison_keeps (m := 4) (by decide) t b (Keeps.refl _ t)).2 .cells (by decide))
      ((cellAt s c).beads.filter (beadBad s)) s
    have hfault := cellFault_slots (forEach ((cellAt s c).beads.filter (beadBad s)) beadPoison s) c Code.uncorrectable
    rwa [cellAt_congr hpoison] at hfault
  · rw [cellAt_setCell]
    exact ⟨rfl, rfl, rfl⟩

/-- Indications leave the cells' records. -/
theorem indications_cells (s : State) (c : Nat) (kinds : List Nat) (k : Nat) (d : Bytes) :
    (forEach kinds (fun u i => indicate u c i k d) s).cells = s.cells :=
  (forEach_keeps (by decide) kinds _ s (fun u i hu => indicate_keeps (m := 34359739398) (by decide) u c i k d hu)
    (Keeps.refl _ s)).cells (by decide)

/-! ## Indications (R274, R276) -/

section
variable {s : State} {c : Nat} (hstop : (cellAt s c).stopAt = none) (hc : c < 512) (h : cellServing s c = true)
include hstop hc h

theorem slotIndication_early (hn : nowN s + ((cellAt s c).leadSlots + 1) * (cellAt s c).slotNs <
    (cellAt s c).nextInd * (cellAt s c).slotNs) : slotIndication s c = s := by
  rw [slotIndication, onCell_serves hstop hc h]
  dsimp only
  rw [if_pos (.inl hn)]

theorem slotIndication_due (hn : (cellAt s c).nextInd * (cellAt s c).slotNs ≤
    nowN s + ((cellAt s c).leadSlots + 1) * (cellAt s c).slotNs) : slotIndication s c =
      indicate (setCell s c { cellAt s c with nextInd := (cellAt s c).nextInd + 1 }) c Ind.slot (cellAt s c).nextInd [] := by
  rw [slotIndication, onCell_serves hstop hc h]
  dsimp only
  rw [if_neg (not_or.2 ⟨Nat.not_lt.2 hn, by simp [serves_noStop hstop]⟩)]

theorem crcIndication_early (hn : nowN s < ((cellAt s c).nextCrc + 1) * (cellAt s c).slotNs + (cellAt s c).crcDelay) :
    crcIndication s c = s := by
  rw [crcIndication, onCell_serves hstop hc h]
  dsimp only
  rw [if_pos (.inl hn)]

/-- The slot's end in the cell's record: its space in the receive ring and its requests are freed. -/
def slotEnded (x : Cell) : Cell :=
  { x with
    nextCrc := x.nextCrc + 1, rxHeld := x.rxHeld.filter (fun p => x.nextCrc < p.1)
    reqs := x.reqs.filter (fun p => x.nextCrc < p.1), rxSecs := x.rxSecs.filter (fun z => x.nextCrc < z.slot)
    missed := x.missed.filter (fun p => x.nextCrc < p), lost := x.lost.filter (fun r => x.nextCrc < r.2) }

theorem crcIndication_due (hn : ((cellAt s c).nextCrc + 1) * (cellAt s c).slotNs + (cellAt s c).crcDelay ≤ nowN s) :
    ∃ t d, crcIndication s c = flushCell (forEach [Ind.crc, Ind.rxData, Ind.uci] (fun u i => indicate u c i (cellAt s c).nextCrc d)
      (setCell t c (slotEnded (cellAt s c)))) c := by
  rw [crcIndication, onCell_serves hstop hc h]
  dsimp only
  rw [if_neg (not_or.2 ⟨Nat.not_lt.2 hn, by simp [serves_noStop hstop]⟩)]
  exact ⟨_, _, rfl⟩

theorem crcIndication_slots (hn : ((cellAt s c).nextCrc + 1) * (cellAt s c).slotNs + (cellAt s c).crcDelay ≤ nowN s) :
    SameSlots (slotEnded (cellAt s c)) (cellAt (crcIndication s c) c) := by
  obtain ⟨t, d, heq⟩ := crcIndication_due hstop hc h hn
  have hflush := flushCell_slots (forEach [Ind.crc, Ind.rxData, Ind.uci] (fun u i => indicate u c i (cellAt s c).nextCrc d)
    (setCell t c (slotEnded (cellAt s c)))) c
  rwa [cellAt_congr (indications_cells ..), cellAt_setCell, ← heq] at hflush

section
variable (b : Bytes)

theorem rachIndication_none (hn : (cellAt s c).dueSlot (cellAt s c).rachDelay (nowN s) = none) : rachIndication s c b = s := by
  rw [rachIndication, onCell_serves hstop hc h]
  dsimp only
  rw [hn]

theorem rachIndication_some {k : Nat} (hk : (cellAt s c).dueSlot (cellAt s c).rachDelay (nowN s) = some k) :
    rachIndication s c b = if k < (cellAt s c).nextRach then s
      else indicateBody (setCell s c { cellAt s c with nextRach := k + 1 }) c k b := by
  rw [rachIndication, onCell_serves hstop hc h]
  dsimp only
  rw [hk]

theorem srsIndication_none (hn : (cellAt s c).dueSlot (cellAt s c).srsDelay (nowN s) = none) : srsIndication s c b = s := by
  rw [srsIndication, onCell_serves hstop hc h]
  dsimp only
  rw [hn]

theorem srsIndication_some {k : Nat} (hk : (cellAt s c).dueSlot (cellAt s c).srsDelay (nowN s) = some k) :
    srsIndication s c b = if k < (cellAt s c).nextSrs then s
      else indicateBody (setCell s c { cellAt s c with nextSrs := k + 1 }) c k b := by
  rw [srsIndication, onCell_serves hstop hc h]
  dsimp only
  rw [hk]

end

/-! ## Replicas (R283, R284) -/

theorem replicaSend_off (d : Bytes) (hr : s.bit CODEC_CELL_PARTNER.REPL_EN c = false) : replicaSend s c d = s := by
  rw [replicaSend, onCell_serves hstop hc h]
  exact if_pos (by rw [hr]; rfl)

theorem replicaSend_held (d : Bytes) (hr : s.bit CODEC_CELL_PARTNER.REPL_EN c = true)
    (hheld : openDests s (cellIssuer c) ≠ [] ∨ s.bit FIL_STATUS.PARTITIONED = true) :
    replicaSend s c d = s.set CODEC_CELL_STATUS.REPL_SUSPENDED 1 c := by
  rw [replicaSend, onCell_serves hstop hc h]
  dsimp only
  rw [if_neg (by rw [hr]; decide), if_pos (hheld.imp_left fun hne => by simpa using hne)]

/-- The pieces of the replica are sent, the slot number last, and the buffer changes. -/
theorem replicaSend_goes (d : Bytes) (hr : s.bit CODEC_CELL_PARTNER.REPL_EN c = true)
    (hheld : ¬(openDests s (cellIssuer c) ≠ [] ∨ s.bit FIL_STATUS.PARTITIONED = true)) :
    ∃ t, Keeps 39728447492 s t ∧ replicaSend s c d =
      (setCell t c { cellAt t c with replBuf := 1 - (cellAt s c).replBuf }).set CODEC_CELL_REPL_SLOT
        ((cellAt s c).slotNo ((cellAt s c).slotAt (nowN s))) c := by
  rw [replicaSend, onCell_serves hstop hc h]
  dsimp only
  rw [if_neg (by rw [hr]; decide), if_neg (fun hd => hheld (hd.imp_left fun hne => by simpa using hne))]
  refine ⟨_, ?_, rfl⟩
  exact issueWrite_keeps (by decide) _ _ _ _ _ _ _ _ _ _
    (forEach_keeps (by decide) _ _ _ (fun _ _ hk => issueWrite_keeps (by decide) _ _ _ _ _ _ _ _ _ _ hk) (Keeps.refl _ s))

end

/-- The replica of a slot is newer than the one that a cell holds. -/
def newerReplica (x : Cell) (k : Nat) : Prop := x.replica = none ∨ ∃ p, x.replica = some p ∧ p.2 < k

theorem newerReplica_iff (x : Cell) (k : Nat) :
    (match x.replica with | some (_, o) => decide (o < k) | none => true) = true ↔ newerReplica x k := by
  unfold newerReplica
  cases hr : x.replica with
  | none => simp
  | some p => simp

section
variable {s : State} {c : Nat} {w : Word} {k : Nat}
  (hk : ((cellAt s c).nearSlot ((cellAt s c).slotAt (nowN s)) w.toNat).toNat = k) (b : Bool)
include hk

theorem replicaReceive_newer (h : fnState s (cellFn c) = Fn.running ∧ s.bit CODEC_CELL_STATUS.STANDBY c = true)
    (hnew : newerReplica (cellAt s c) k) : replicaReceive s c b w =
      (setCell s c { cellAt s c with replica := some (if b then 1 else 0, k) }).set CODEC_CELL_REPL_SLOT w.toNat c := by
  unfold replicaReceive
  dsimp only
  rw [if_pos h, hk]
  exact if_pos ((newerReplica_iff _ k).2 hnew)

theorem replicaReceive_older (h : ¬((fnState s (cellFn c) = Fn.running ∧ s.bit CODEC_CELL_STATUS.STANDBY c = true) ∧
    newerReplica (cellAt s c) k)) : replicaReceive s c b w = s := by
  unfold replicaReceive
  dsimp only
  split
  next hopen =>
    rw [hk]
    exact if_neg fun hnew => h ⟨hopen, (newerReplica_iff _ k).1 hnew⟩
  · rfl

end

/-! ## The statement -/

/-- Settles O32: an indication leaves the cell's record and its state alone, so that the slot's own counter tells what was done. -/
theorem cellIndications : Obligations.CellIndications := by
  unfold Obligations.CellIndications
  refine ⟨fun s c hs hc hstop h => ⟨fun hn => ?_, fun hn => ?_, fun hn => ?_, fun hn => ?_, fun b hn => ?_,
      fun b k hk => ⟨fun hlt => ?_, fun hle => ?_⟩, fun b hn => ?_, fun b k hk => ⟨fun hlt => ?_, fun hle => ?_⟩⟩,
    fun s c d hs hc hstop h => ⟨fun hr => ?_, fun hr hheld => ?_, fun hr hheld => ?_⟩,
    fun s c b w hs hc => ⟨fun h => ?_, fun h => ?_⟩⟩
  · exact congrArg Host.Outcome.next (slotIndication_early hstop hc h hn)
  · refine acts_of_exec (congrArg Host.Outcome.next (slotIndication_due hstop hc h hn)) ⟨?_, ?_⟩
    · rw [cellAt_indicate, cellAt_setCell]
    · rw [(indicate_radioStands _ c _ _ _).cell hc (by simp), setCell_get]
  · exact congrArg Host.Outcome.next (crcIndication_early hstop hc h hn)
  · have hx := crcIndication_slots hstop hc h hn
    exact acts_of_exec rfl ⟨hx.nextCrc, hx.rxHeld, hx.reqs⟩
  · exact congrArg Host.Outcome.next (rachIndication_none hstop hc h b hn)
  · exact congrArg Host.Outcome.next ((rachIndication_some hstop hc h b hk).trans (if_pos hlt))
  · refine acts_of_exec (congrArg Host.Outcome.next ((rachIndication_some hstop hc h b hk).trans (if_neg (Nat.not_lt.2 hle)))) ?_
    rw [cellAt_indicateBody, cellAt_setCell]
  · exact congrArg Host.Outcome.next (srsIndication_none hstop hc h b hn)
  · exact congrArg Host.Outcome.next ((srsIndication_some hstop hc h b hk).trans (if_pos hlt))
  · refine acts_of_exec (congrArg Host.Outcome.next ((srsIndication_some hstop hc h b hk).trans (if_neg (Nat.not_lt.2 hle)))) ?_
    rw [cellAt_indicateBody, cellAt_setCell]
  · exact congrArg Host.Outcome.next (replicaSend_off hstop hc h d hr)
  · refine acts_of_exec (congrArg Host.Outcome.next (replicaSend_held hstop hc h d hr hheld)) ⟨?_, State.set_fab ..⟩
    exact get_set_self s CODEC_CELL_STATUS.REPL_SUSPENDED 1 c 0 hs.1 (by decide)
  · obtain ⟨t, hkeep, heq⟩ := replicaSend_goes hstop hc h d hr hheld
    refine acts_of_exec (congrArg Host.Outcome.next heq) ⟨?_, ?_⟩
    · rw [cellAt_set, cellAt_setCell]
    · exact get_set_self _ CODEC_CELL_REPL_SLOT _ c 0
        ((setCell_behaveReset ..).trans ((hkeep.2 .behaveReset (by decide)).trans hs.1)) (by decide)
  · exact congrArg Host.Outcome.next (replicaReceive_older rfl b fun hk => h ⟨hk.1.1, hk.1.2, hk.2⟩)
  · obtain ⟨hrun, hstand, hnew⟩ := h
    refine acts_of_exec (congrArg Host.Outcome.next (replicaReceive_newer rfl b ⟨hrun, hstand⟩ hnew)) ⟨?_, ?_⟩
    · rw [cellAt_set, cellAt_setCell]
    · exact (get_set_self _ CODEC_CELL_REPL_SLOT w.toNat c 0 ((setCell_behaveReset ..).trans hs.1) (by decide)).trans
        (Nat.mod_eq_of_lt w.isLt)

end Sys2Proof.Machine
end

section
/-! PROOFS. Start, stop and takeover of a radio cell (11_nr_baseband.md R273, R284 to R286, R288). -/

namespace Sys2Proof.Machine

/-! ## The state of a cell -/

section
variable (s : State) (c : Nat) (hb : s.behaveReset = [])
include hb

theorem setFnState_cell_state (v : Nat) : (setFnState s (cellFn c) v).get CODEC_CELL_STATUS.STATE c = v % 2 ^ 3 :=
  get_set_self s CODEC_CELL_STATUS.STATE v c 0 hb (by decide)

/-- Another field of the cell's registers. -/
theorem setFnState_cell_get (v : Nat) {f : Fld} (hf : f.addr c ≠ cellFn c ∨ 3 ≤ f.lo) :
    (setFnState s (cellFn c) v).get f c = s.get f c := by
  by_cases ha : f.addr c = cellFn c
  · exact get_set_beside s CODEC_CELL_STATUS.STATE f v c 0 c 0 hb ha (by decide) (.inl (hf.resolve_left (not_not_intro ha)))
  · exact get_set_reg s CODEC_CELL_STATUS.STATE f v c 0 c 0 ha

theorem faultFn_cell (e : Nat) : (faultFn s (cellFn c) e).get CODEC_CELL_STATUS.STATE c = Fn.faulted ∧
    (faultFn s (cellFn c) e).get CODEC_CELL_STATUS.FAULT_CODE c = e % 256 := by
  have hcode : (setFnCode s (cellFn c) e).behaveReset = [] := (setFnCode_behaveReset ..).trans hb
  unfold faultFn
  refine ⟨setFnState_cell_state _ c hcode Fn.faulted, ?_⟩
  rw [setFnState_cell_get _ c hcode _ (.inr (by decide))]
  exact get_set_self s CODEC_CELL_STATUS.FAULT_CODE e c 0 hb (by decide)

/-- The fields of a cell's registers that a start or a fault does not write. -/
theorem faultFn_cell_get (e : Nat) {f : Fld} (hf : f ∈ [CODEC_CELL_STATUS.STANDBY, CODEC_CELL_STARTS.TAKEOVERS]) :
    (faultFn s (cellFn c) e).get f c = s.get f c := by
  have hplace : f.s1 = 0x40 ∧ (f.off = 0x110004 ∧ 3 ≤ f.lo ∧ f.lo + f.w ≤ 24 ∨ f.off = 0x11002C) := by
    simp only [List.mem_cons, List.not_mem_nil, or_false] at hf
    rcases hf with rfl | rfl <;> decide
  obtain ⟨h1, hoff⟩ := hplace
  have hcode : (setFnCode s (cellFn c) e).get f c = s.get f c := by
    rcases hoff with ⟨hoff, -, hw⟩ | hoff
    · exact get_set_beneath s CODEC_CELL_STATUS.FAULT_CODE f e c 0 c 0 (by decide) hw
    · exact get_set_reg s CODEC_CELL_STATUS.FAULT_CODE f e c 0 c 0 (by simp only [Fld.addr, hoff, h1]; omega)
  unfold faultFn
  rw [setFnState_cell_get _ c ((setFnCode_behaveReset ..).trans hb) _ ?_, hcode]
  refine hoff.symm.imp (fun he => ?_) fun he => he.2.1
  simp only [cellFn, Fld.addr, he, h1]
  omega

end

/-! ## Flow beads (R273) -/

theorem beadCount_radioStands (fn : Nat) (l : List Nat) (s : State) (f : Nat) : RadioStands fn l s (beadCount s f) := by
  have hfree (t : State) (n : Nat) : RadioStands fn l t (t.set BEAD_FREE n) := .set t _ _ _ _ (.inr (.inr (by decide)))
  unfold beadCount
  dsimp only
  split
  · exact (hfree s _).trans (.set _ _ _ _ _ (.inr (.inr (by simp only [Fld.addr]; omega))))
  · exact hfree s _

theorem newBead_radioStands (fn : Nat) (l : List Nat) (s : State) (i kind state cls f slot admitted user : Nat) (data : Bytes) :
    RadioStands fn l s (newBead s i kind state cls f slot admitted user data) := by
  unfold newBead
  exact (RadioStands.of_keeps (devStore_only _ _ _ _) (by decide) (by decide)).trans (beadCount_radioStands fn l _ f)

theorem issue_radioStands (fn : Nat) (l : List Nat) (s : State) : RadioStands fn l s (issue s) := by
  unfold issue State.set2
  exact (RadioStands.set s _ _ _ _ (.inr (.inl (by decide)))).trans (.set _ _ _ _ _ (.inr (.inl (by decide))))

theorem withStamp_radioStands (fn : Nat) (l : List Nat) (s : State) (b : Option Nat) :
    RadioStands fn l s { s with beadStamp := b } :=
  .of_rdReg rfl fun o _ _ => rdReg_congr rfl rfl o

theorem admitStamp_radioStands (fn : Nat) (l : List Nat) (s : State) : RadioStands fn l s (admitStamp s).2 := by
  unfold admitStamp
  dsimp only
  exact (issue_radioStands fn l s).trans (withStamp_radioStands fn l (issue s) _)

/-- The beads of a cell's flows are of no register of the radio's. -/
theorem flowBeads_radioStands (fn : Nat) (rl : List Nat) (c : Nat) (x : Cell) {is l l' : List Nat} {s v : State}
    (h : flowBeads c x is l s = some (l', v)) : RadioStands fn rl s v := by
  induction is generalizing l s with
  | nil =>
    cases h
    exact .refl fn rl _
  | cons i is ih =>
    unfold flowBeads at h
    cases hp : placeBead s Bead.flow 256 with
    | none =>
      rw [hp] at h
      cases h
    | some b =>
      rw [hp] at h
      exact ((admitStamp_radioStands fn rl s).trans (newBead_radioStands fn rl _ _ _ _ _ _ _ _ _ _)).trans (ih h)

/-! ## A cell becomes the sender of its flows (R273, R286) -/

/-- The record of a cell that starts, with its beads and its fixed times. -/
def startedCell (v : State) (x : Cell) (l : List Nat) : Cell :=
  let y := ({ x with beads := l } : Cell).begin (nowN v)
  if timeState v = Ts.locked then { y with txArm := true, txAt := nextFrame (nowN v) } else y

theorem startedCell_beads (v : State) (x : Cell) (l : List Nat) : (startedCell v x l).beads = l := by
  unfold startedCell
  dsimp only
  split <;> rfl

theorem startedCell_cfg (v : State) (x : Cell) (l : List Nat) : (startedCell v x l).cfg = x.cfg := by
  unfold startedCell
  dsimp only
  split <;> rfl

/-- A cell RUNNING with a record. -/
def cellRuns (v : State) (c : Nat) (y : Cell) : State :=
  startAlarm (setFnState (setFnCode (setCell v c y) (cellFn c) Code.done) (cellFn c) Fn.running) c

section
variable (v : State) (c : Nat) (y : Cell)

theorem cellRuns_cell : cellAt (cellRuns v c y) c = y := by
  unfold cellRuns
  rw [cellAt_congr ((startAlarm_only _ c).cells (by decide)), cellAt_congr (setFnState_cells ..), cellAt_congr (setFnCode_cells ..),
    cellAt_setCell]

theorem coded_reset (hb : v.behaveReset = []) : (setFnCode (setCell v c y) (cellFn c) Code.done).behaveReset = [] := by
  rw [setFnCode_behaveReset, setCell_behaveReset, hb]

theorem cellRuns_state (hc : c < 512) (hb : v.behaveReset = []) : (cellRuns v c y).get CODEC_CELL_STATUS.STATE c = Fn.running := by
  unfold cellRuns
  rw [(startAlarm_radioStands _ c).cell hc (by simp)]
  exact setFnState_cell_state _ c (coded_reset v c y hb) _

theorem cellRuns_get (hc : c < 512) (hb : v.behaveReset = []) {f : Fld}
    (hf : f ∈ [CODEC_CELL_STATUS.STANDBY, CODEC_CELL_STARTS.TAKEOVERS]) : (cellRuns v c y).get f c = v.get f c := by
  have hplace : f.s1 = 0x40 ∧ (f.off ≠ 0x110004 ∨ 3 ≤ f.lo) := by
    simp only [List.mem_cons, List.not_mem_nil, or_false] at hf
    rcases hf with rfl | rfl <;> decide
  obtain ⟨h1, hoff⟩ := hplace
  have hmem : f ∈ [CODEC_CELL_STATUS.STATE, CODEC_CELL_STATUS.STANDBY, CODEC_CELL_STARTS.TAKEOVERS] := List.mem_cons_of_mem _ hf
  unfold cellRuns
  rw [(startAlarm_radioStands _ c).cell hc hmem, setFnState_cell_get _ c (coded_reset v c y hb) _ ?_,
    (setFnCode_radioStands _ (indRegs c) Code.done).cell hc hmem, setCell_get]
  refine hoff.imp_left fun he => ?_
  simp only [cellFn, Fld.addr, h1]
  omega

end

section
variable {s : State} {c : Nat} {x : Cell} {code : Nat}

theorem cellUp_code (h : code ≠ Code.done) : cellUp s c x code = faultFn s (cellFn c) code := by
  unfold cellUp
  dsimp only
  rw [if_pos h]

theorem cellUp_check {e : Nat} (h : cellCheck s c x = some e) : cellUp s c x Code.done = faultFn s (cellFn c) e := by
  unfold cellUp
  dsimp only
  rw [if_neg (not_not_intro rfl), h]

theorem cellUp_full (h : cellCheck s c x = none) (hf : flowBeads c x x.flows [] s = none) :
    cellUp s c x Code.done = faultFn s (cellFn c) Code.busy := by
  unfold cellUp
  dsimp only
  rw [if_neg (not_not_intro rfl), h]
  dsimp only
  rw [hf]

theorem cellUp_runs {l : List Nat} {v : State} (h : cellCheck s c x = none) (hf : flowBeads c x x.flows [] s = some (l, v)) :
    cellUp s c x Code.done = cellRuns v c (startedCell v x l) := by
  unfold cellUp
  dsimp only
  rw [if_neg (not_not_intro rfl), h]
  dsimp only
  rw [hf]
  rfl

/-- A cell that is to become the sender of its flows faults, or runs with the beads that it was given. -/
theorem cellUp_ends (s : State) (c : Nat) (x : Cell) (code : Nat) : (∃ e, cellUp s c x code = faultFn s (cellFn c) e) ∨
    ∃ l v, flowBeads c x x.flows [] s = some (l, v) ∧ cellUp s c x code = cellRuns v c (startedCell v x l) := by
  by_cases hcode : code = Code.done
  · subst hcode
    cases hcheck : cellCheck s c x with
    | some e => exact .inl ⟨e, cellUp_check hcheck⟩
    | none =>
      cases hf : flowBeads c x x.flows [] s with
      | none => exact .inl ⟨_, cellUp_full hcheck hf⟩
      | some p => exact .inr ⟨p.1, p.2, rfl, cellUp_runs hcheck hf⟩
  · exact .inl ⟨code, cellUp_code hcode⟩

theorem cellUp_state (hc : c < 512) (hb : s.behaveReset = []) : (cellUp s c x code).get CODEC_CELL_STATUS.STATE c = Fn.running ∨
    (cellUp s c x code).get CODEC_CELL_STATUS.STATE c = Fn.faulted := by
  obtain ⟨e, he⟩ | ⟨l, v, hf, he⟩ := cellUp_ends s c x code
  · rw [he]
    exact .inr (faultFn_cell s c hb e).1
  · rw [he]
    exact .inl (cellRuns_state v c _ hc ((flowBeads_radioStands 0 [] c x hf).reset.trans hb))

theorem cellUp_get (hc : c < 512) (hb : s.behaveReset = []) {f : Fld}
    (hf : f ∈ [CODEC_CELL_STATUS.STANDBY, CODEC_CELL_STARTS.TAKEOVERS]) : (cellUp s c x code).get f c = s.get f c := by
  obtain ⟨e, he⟩ | ⟨l, v, hbeads, he⟩ := cellUp_ends s c x code
  · rw [he, faultFn_cell_get s c hb e hf]
  · have hv := flowBeads_radioStands (cellFn c) (indRegs c) c x hbeads
    rw [he, cellRuns_get v c _ hc (hv.reset.trans hb) hf, hv.cell hc (List.mem_cons_of_mem _ hf)]

end

/-! ## START (R273, R288) -/

theorem exec_cellStart {c : Nat} (hc : c < 512) (s : State) : exec (.cellStart c) s = .next (cellStart s c) :=
  congrArg Host.Outcome.next (if_pos hc)

/-- The counts and flags that START clears. -/
abbrev cellCleared : List Fld :=
  [CODEC_CELL_MISSED, CODEC_CELL_HARQ_DROP, CODEC_CELL_POISON_DROP, CODEC_CELL_IND_DROP, CODEC_CELL_LATE_MSG, CODEC_CELL_STARTS.W,
    CODEC_CELL_STATUS.TX_ENABLED, CODEC_CELL_STATUS.CAL_LOST, CODEC_CELL_STATUS.REPL_SUSPENDED, CODEC_CELL_STATUS.STANDBY]

theorem cellClear_get (s : State) (c : Nat) {f : Fld} (hf : f ∈ [CODEC_CELL_STATUS.STATE, CODEC_CELL_PARTNER.STANDBY]) :
    (cellClear s c).get f c = s.get f c := by
  have hplace : ∀ g ∈ cellCleared, g.lo + g.w ≤ 32 ∧ g.s1 = f.s1 ∧ (f.off ≠ g.off ∨ f.lo + f.w ≤ g.lo) := by
    simp only [List.mem_cons, List.not_mem_nil, or_false] at hf
    rcases hf with rfl | rfl <;> decide
  unfold cellClear forEach
  refine List.foldlRecOn cellCleared (fun (t : State) (g : Fld) => t.set g 0 c) (motive := fun t => t.get f c = s.get f c) rfl
    fun t ht g hg => ?_
  obtain ⟨hw, h1, hne | hlow⟩ := hplace g hg
  · exact (get_set_reg t g f 0 c 0 c 0 (by simp only [Fld.addr, h1]; omega)).trans ht
  · exact (get_set_beneath t g f 0 c 0 c 0 hw hlow).trans ht

theorem cellClear_only (s : State) (c : Nat) : Keeps 4 s (cellClear s c) := cellClear_keeps (by decide) s c (Keeps.refl _ s)

/-- A cell that has begun without the Calendar has lost it (R277). -/
def calTold (s : State) (c : Nat) : State :=
  if fnState s calFn ≠ Fn.running ∧ fnState s (cellFn c) = Fn.running then
    setCell (s.set CODEC_CELL_STATUS.CAL_LOST 1 c) c ((cellAt s c).calTurn (nowN s) 1)
  else s

theorem fnState_cell (s : State) (c : Nat) : fnState s (cellFn c) = s.get CODEC_CELL_STATUS.STATE c := rfl

section
variable (s : State) (c : Nat)

theorem calTold_state : (calTold s c).get CODEC_CELL_STATUS.STATE c = s.get CODEC_CELL_STATUS.STATE c := by
  unfold calTold
  split
  · rw [setCell_get]
    exact get_set_beneath s CODEC_CELL_STATUS.CAL_LOST CODEC_CELL_STATUS.STATE 1 c 0 c 0 (by decide) (by decide)
  · rfl

theorem calTold_faulted (h : s.get CODEC_CELL_STATUS.STATE c = Fn.faulted) : calTold s c = s := by
  unfold calTold
  rw [fnState_cell, h]
  exact if_neg fun hn => absurd hn.2 (by decide)

theorem calTold_cell : (cellAt (calTold s c) c).beads = (cellAt s c).beads ∧ (cellAt (calTold s c) c).cfg = (cellAt s c).cfg := by
  unfold calTold
  split
  · rw [cellAt_setCell]
    exact ⟨rfl, rfl⟩
  · exact ⟨rfl, rfl⟩

end

section
variable {s : State} {c : Nat} {x : Cell} {code : Nat} (hs : s.sound) (hstop : (cellAt s c).stopAt = none)
  (h : s.get CODEC_CELL_STATUS.STATE c = Fn.stopped) (hr : readCell (cellClear s c) c = (code, x))

theorem cellClear_reset (hs : s.sound) : (cellClear s c).behaveReset = [] := ((cellClear_only s c).reset (by decide)).trans hs.1

include hs hstop h hr

/-- A standby runs with its record read (R284). -/
theorem cellStart_standby (hby : s.bit CODEC_CELL_PARTNER.STANDBY c = true) : cellStart s c =
    setFnState (setFnCode (setCell ((cellClear s c).set CODEC_CELL_STATUS.STANDBY 1 c) c x) (cellFn c) Code.done) (cellFn c)
      Fn.running := by
  have hbit : (cellClear s c).bit CODEC_CELL_PARTNER.STANDBY c = true := by
    unfold State.bit at hby ⊢
    rwa [cellClear_get s c (by simp)]
  unfold cellStart
  dsimp only
  rw [cellSettle_noStop hstop, fnState_cell, if_neg (not_not_intro h),
    if_neg (ne_true_of_eq_false (parityHeld_sound s _ hs.2)), hr]
  dsimp only
  rw [if_pos hbit]

theorem cellStart_primary (hby : s.bit CODEC_CELL_PARTNER.STANDBY c = false) :
    cellStart s c = calTold (cellUp (cellClear s c) c x code) c := by
  have hbit : (cellClear s c).bit CODEC_CELL_PARTNER.STANDBY c = false := by
    unfold State.bit at hby ⊢
    rwa [cellClear_get s c (by simp)]
  unfold cellStart
  dsimp only
  rw [cellSettle_noStop hstop, fnState_cell, if_neg (not_not_intro h),
    if_neg (ne_true_of_eq_false (parityHeld_sound s _ hs.2)), hr]
  dsimp only
  rw [if_neg (ne_true_of_eq_false hbit)]
  rfl

theorem cellStart_stands (hby : s.bit CODEC_CELL_PARTNER.STANDBY c = true) : (cellStart s c).get CODEC_CELL_STATUS.STATE c = Fn.running ∧
    (cellStart s c).get CODEC_CELL_STATUS.STANDBY c = 1 ∧ cellAt (cellStart s c) c = x := by
  have hb := cellClear_reset (c := c) hs
  have hset : ((cellClear s c).set CODEC_CELL_STATUS.STANDBY 1 c).behaveReset = [] := (State.set_behaveReset ..).trans hb
  have hcoded := coded_reset _ c x hset
  rw [cellStart_standby hs hstop h hr hby]
  refine ⟨setFnState_cell_state _ c hcoded _, ?_, ?_⟩
  · rw [setFnState_cell_get _ c hcoded _ (.inr (by decide)), setFnCode_eq,
      get_set_beneath _ (codeFld (cellFn c)) CODEC_CELL_STATUS.STANDBY _ 0 0 c 0 (by decide : 24 + 8 ≤ 32) (by decide : 10 + 1 ≤ 24),
      setCell_get]
    exact get_set_self _ CODEC_CELL_STATUS.STANDBY 1 c 0 hb (by decide)
  · rw [cellAt_congr (setFnState_cells ..), cellAt_congr (setFnCode_cells ..), cellAt_setCell]

/-- A primary that a check keeps from starting. -/
theorem cellStart_faults (hby : s.bit CODEC_CELL_PARTNER.STANDBY c = false) {e : Nat}
    (he : cellUp (cellClear s c) c x code = faultFn (cellClear s c) (cellFn c) e) :
    (cellStart s c).get CODEC_CELL_STATUS.STATE c = Fn.faulted ∧ (cellStart s c).get CODEC_CELL_STATUS.FAULT_CODE c = e % 256 := by
  have hfault := faultFn_cell (cellClear s c) c (cellClear_reset hs) e
  rw [cellStart_primary hs hstop h hr hby, he, calTold_faulted _ c hfault.1]
  exact hfault

theorem cellStart_runs (hc : c < 512) (hby : s.bit CODEC_CELL_PARTNER.STANDBY c = false) {l : List Nat} {v : State}
    (hf : flowBeads c x x.flows [] (cellClear s c) = some (l, v))
    (he : cellUp (cellClear s c) c x code = cellRuns v c (startedCell v x l)) :
    (cellStart s c).get CODEC_CELL_STATUS.STATE c = Fn.running ∧ (cellAt (cellStart s c) c).beads = l ∧
      (cellAt (cellStart s c) c).cfg = x.cfg := by
  have hb : v.behaveReset = [] := (flowBeads_radioStands 0 [] c x hf).reset.trans (cellClear_reset hs)
  obtain ⟨hbeads, hcfg⟩ := calTold_cell (cellRuns v c (startedCell v x l)) c
  rw [cellStart_primary hs hstop h hr hby, he, calTold_state, hbeads, hcfg, cellRuns_cell]
  exact ⟨cellRuns_state v c _ hc hb, startedCell_beads v x l, startedCell_cfg v x l⟩

end

/-! ## STOP (R273) -/

theorem exec_cellStop {c : Nat} (hc : c < 512) (s : State) : exec (.cellStop c) s = .next (cellStop s c) :=
  congrArg Host.Outcome.next (if_pos hc)

/-- A cell that is down: STOPPED, its record empty. -/
theorem cellDown_ends {s : State} (hb : s.behaveReset = []) (c : Nat) :
    (cellDown s c).get CODEC_CELL_STATUS.STATE c = Fn.stopped ∧ cellAt (cellDown s c) c = {} := by
  have hreset : (cellDown s c).behaveReset = [] :=
    ((cellDown_keeps (m := 34703672324) (by decide) s c (Keeps.refl _ s)).reset (by decide)).trans hb
  unfold cellDown at hreset ⊢
  dsimp only at hreset ⊢
  refine ⟨setFnState_cell_state _ c ((setFnState_behaveReset ..).symm.trans hreset) _, ?_⟩
  rw [cellAt_congr (setFnState_cells ..), cellAt_set, cellAt_set, cellAt_setCell]

section
variable {s : State} {c : Nat} (hstop : (cellAt s c).stopAt = none)
include hstop

theorem stopCellAt_cell (t : Nat) : cellAt (stopCellAt s c t) c = { cellAt s c with stopAt := some t, takeAt := none } := by
  unfold stopCellAt
  dsimp only
  rw [cellAt_setCell, hstop, Option.getD_none, Nat.min_self]

theorem cellStop_slotEnds (h : s.get CODEC_CELL_STATUS.STATE c = Fn.running) (hby : s.bit CODEC_CELL_STATUS.STANDBY c = false) :
    cellStop s c = setFnState (stopCellAt s c (((cellAt s c).slotAt (nowN s) + 1) * (cellAt s c).slotNs)) (cellFn c) Fn.stopping := by
  unfold cellStop
  dsimp only
  rw [cellSettle_noStop hstop, fnState_cell, if_pos h, if_neg (ne_true_of_eq_false hby)]

theorem cellStop_down (h : s.get CODEC_CELL_STATUS.STATE c = Fn.faulted ∨
    s.get CODEC_CELL_STATUS.STATE c = Fn.running ∧ s.bit CODEC_CELL_STATUS.STANDBY c = true) : cellStop s c = cellDown s c := by
  unfold cellStop
  dsimp only
  rw [cellSettle_noStop hstop, fnState_cell]
  rcases h with h | ⟨h, hby⟩
  · rw [if_neg (by rw [h]; decide), if_pos h]
  · rw [if_pos h, if_pos hby]

end

/-! ## Takeover (R284) -/

theorem exec_cellTakeover {c : Nat} (hc : c < 512) (told : Option Nat) (s : State) :
    exec (.cellTakeover ⟨c, told⟩) s = .next (takeover s c told) := congrArg Host.Outcome.next (if_pos hc)

section
variable {s : State} {c : Nat} (h : s.get CODEC_CELL_STATUS.STATE c = Fn.running)
include h

/-- The standby tells its boundary to a primary of another device. -/
theorem takeover_tells (hby : s.bit CODEC_CELL_STATUS.STANDBY c = true) (ht : (cellAt s c).takeAt = none)
    (hn : s.get CODEC_CELL_PARTNER.NODE c ≠ ownNode s) : takeover s c none =
      emit (setCell s c { cellAt s c with takeAt := some (takeBoundary (nowN s)) })
        (.takeover (s.get CODEC_CELL_PARTNER.NODE c) (s.get CODEC_CELL_PARTNER.CELL c) (takeBoundary (nowN s))) := by
  have harm : armTakeover s c = setCell s c { cellAt s c with takeAt := some (takeBoundary (nowN s)) } := by
    unfold armTakeover
    rw [ht]
    exact if_pos ⟨h, hby, rfl⟩
  have hnode : ownNode (setCell s c { cellAt s c with takeAt := some (takeBoundary (nowN s)) }) = ownNode s := setCell_get ..
  unfold takeover
  dsimp only
  rw [if_pos ⟨h, hby⟩, harm, cellAt_setCell]
  dsimp only
  rw [hnode, setCell_get, setCell_get, if_neg hn]

/-- The primary is told the boundary and stops there. -/
theorem takeover_told (hby : s.bit CODEC_CELL_STATUS.STANDBY c = false) (b : Nat) : takeover s c (some b) = stopCellAt s c b := by
  unfold takeover
  dsimp only
  rw [if_pos]
  unfold cellLive
  rw [fnState_cell, h, hby]
  rfl

end

/-! ## The boundary (R284, R285) -/

theorem journal_radioStands (fn : Nat) (l : List Nat) (s : State) (r : JRec) : RadioStands fn l s (journal s r) := by
  refine .of_rdReg ((journal_keeps (m := 42949673988) (by decide) s r (Keeps.refl _ s)).reset (by decide)) fun o h1 h2 => ?_
  refine journal_regsBut s r o fun hmem => ?_
  simp only [List.mem_cons, List.not_mem_nil, or_false] at hmem
  omega

/-- No replica is held, or only one that is older than 10 ms at the boundary. -/
def coldReplica (x : Cell) (b : Nat) : Bool :=
  match x.replica with
  | some (_, k) => decide (k * x.slotNs + 10000000 < b)
  | none => true

/-- The standby as the primary: its record read, the replica kept where it is not cold. -/
def takenOver (s : State) (c : Nat) (cold : Bool) : State :=
  cellUp (s.set CODEC_CELL_STATUS.STANDBY 0 c) c
    { (readCell s c).2 with replica := if cold then none else (cellAt s c).replica } (readCell s c).1

/-- The takeover counted and recorded. -/
def takeCounted (s : State) (c : Nat) (cold : Bool) : State :=
  journal ((takenOver s c cold).bumpSat CODEC_CELL_STARTS.TAKEOVERS c) { typ := 0x41, arg := c }

/-- A cold start counted, recorded and told. -/
def coldTold (s : State) (c : Nat) (x : Cell) : State :=
  let s := journal s { typ := 0x42, arg := c }
  indicate ((s.bumpSat CODEC_CELL_STARTS.COLD c).set CODEC_CELL_STATUS.COLD 1 c) c Ind.error (x.slotAt (nowN s)) []

theorem takeoverBoundary_early {s : State} {c b : Nat} (hb : (cellAt s c).takeAt = some b) (h : nowN s < b) :
    takeoverBoundary s c = s := by
  unfold takeoverBoundary
  dsimp only
  rw [hb]
  dsimp only
  rw [if_pos (.inl h)]

theorem takeoverBoundary_takes {s : State} {c b : Nat} (hrun : s.get CODEC_CELL_STATUS.STATE c = Fn.running)
    (hb : (cellAt s c).takeAt = some b) (h : b ≤ nowN s) : takeoverBoundary s c =
      if fnState (takeCounted s c (coldReplica (cellAt s c) b)) (cellFn c) ≠ Fn.running then
        takeCounted s c (coldReplica (cellAt s c) b)
      else if coldReplica (cellAt s c) b then coldTold (takeCounted s c (coldReplica (cellAt s c) b)) c (cellAt s c)
      else takeCounted s c (coldReplica (cellAt s c) b) := by
  unfold takeoverBoundary
  dsimp only
  rw [hb]
  dsimp only
  rw [fnState_cell, if_neg (not_or.2 ⟨Nat.not_lt.2 h, not_not_intro hrun⟩)]
  rfl

/-- What a takeover shows: the cell is no standby, it runs or is faulted, and the takeover is counted. -/
structure Shown (s : State) (c n : Nat) : Prop where
  reset : s.behaveReset = []
  standby : s.get CODEC_CELL_STATUS.STANDBY c = 0
  state : s.get CODEC_CELL_STATUS.STATE c = Fn.running ∨ s.get CODEC_CELL_STATUS.STATE c = Fn.faulted
  count : s.get CODEC_CELL_STARTS.TAKEOVERS c = n

section
variable {s t : State} {c n : Nat} (hc : c < 512)
include hc

/-- What leaves the radio's registers leaves what is shown. -/
theorem Shown.stands (h : Shown s c n) (hst : RadioStands (cellFn c) (indRegs c) s t) : Shown t c n := by
  refine ⟨hst.reset.trans h.reset, ?_, ?_, ?_⟩
  · rw [hst.cell hc (by simp), h.standby]
  · rw [hst.cell hc (by simp)]
    exact h.state
  · rw [hst.cell hc (by simp), h.count]

theorem takeCounted_shown (hb : s.behaveReset = []) (cold : Bool) :
    Shown (takeCounted s c cold) c (min (s.get CODEC_CELL_STARTS.TAKEOVERS c + 1) (2 ^ 16 - 1)) := by
  have hset : (s.set CODEC_CELL_STATUS.STANDBY 0 c).behaveReset = [] := (State.set_behaveReset ..).trans hb
  have hup : (takenOver s c cold).behaveReset = [] :=
    ((cellUp_keeps (m := 34904998918) (by decide) _ c _ _ (Keeps.refl _ _)).reset (by decide)).trans hset
  have hcount : (takenOver s c cold).get CODEC_CELL_STARTS.TAKEOVERS c = s.get CODEC_CELL_STARTS.TAKEOVERS c := by
    rw [takenOver, cellUp_get hc hset (by simp), get_set_reg _ _ _ _ _ _ _ _ (by simp only [Fld.addr]; omega)]
  have hother (f : Fld) (hf : f.addr c ≠ CODEC_CELL_STARTS.TAKEOVERS.addr c) := get_bumpSat_reg (takenOver s c cold)
    CODEC_CELL_STARTS.TAKEOVERS f c 0 c 0 hf
  refine Shown.stands hc ⟨(State.bumpSat_behaveReset ..).trans hup, ?_, ?_, ?_⟩ (journal_radioStands _ _ _ _)
  · rw [hother _ (by simp only [Fld.addr]; omega), takenOver, cellUp_get hc hset (by simp)]
    exact get_set_self s CODEC_CELL_STATUS.STANDBY 0 c 0 hb (by decide)
  · rw [hother _ (by simp only [Fld.addr]; omega)]
    exact cellUp_state hc hset
  · rw [get_bumpSat_self _ _ _ _ hup (by decide), hcount]

theorem coldTold_shown (h : Shown s c n) (x : Cell) : Shown (coldTold s c x) c n := by
  have hj := h.stands hc (journal_radioStands (cellFn c) (indRegs c) s { typ := 0x42, arg := c })
  have hbump : ((journal s { typ := 0x42, arg := c }).bumpSat CODEC_CELL_STARTS.COLD c).behaveReset = [] :=
    (State.bumpSat_behaveReset ..).trans hj.reset
  refine Shown.stands hc ⟨(State.set_behaveReset ..).trans hbump, ?_, ?_, ?_⟩ (indicate_radioStands _ c _ _ _)
  · rw [get_set_beside _ CODEC_CELL_STATUS.COLD CODEC_CELL_STATUS.STANDBY 1 c 0 c 0 hbump rfl (by decide) (by decide),
      get_bumpSat_reg _ _ _ _ _ _ _ (by simp only [Fld.addr]; omega), hj.standby]
  · rw [get_set_beside _ CODEC_CELL_STATUS.COLD CODEC_CELL_STATUS.STATE 1 c 0 c 0 hbump rfl (by decide) (by decide),
      get_bumpSat_reg _ _ _ _ _ _ _ (by simp only [Fld.addr]; omega)]
    exact hj.state
  · rw [get_set_reg _ _ _ _ _ _ _ _ (by simp only [Fld.addr]; omega), State.bumpSat,
      get_set_beside _ CODEC_CELL_STARTS.COLD CODEC_CELL_STARTS.TAKEOVERS _ c 0 c 0 hj.reset rfl (by decide) (by decide), hj.count]

theorem takeoverBoundary_shown (hb : s.behaveReset = []) (hrun : s.get CODEC_CELL_STATUS.STATE c = Fn.running) {b : Nat}
    (ht : (cellAt s c).takeAt = some b) (h : b ≤ nowN s) :
    Shown (takeoverBoundary s c) c (min (s.get CODEC_CELL_STARTS.TAKEOVERS c + 1) (2 ^ 16 - 1)) := by
  have hcounted := takeCounted_shown hc hb (coldReplica (cellAt s c) b)
  rw [takeoverBoundary_takes hrun ht h]
  split
  · exact hcounted
  · split
    · exact coldTold_shown hc hcounted _
    · exact hcounted

end

end Sys2Proof.Machine
end

section
/-! PROOFS. The fixed times of a radio cell: transmission, the frames released, the requests taken (11_nr_baseband.md R270, R274, R276,
R277, R286). -/

namespace Sys2Proof.Machine

/-! ## Transmission is enabled (R286) -/

section
variable {s : State} {c : Nat} (hstop : (cellAt s c).stopAt = none) (hc : c < 512) (h : cellServing s c = true)
include hstop hc h

theorem txBoundary_enables (hn : (cellAt s c).txArm = true ∧ (cellAt s c).txAt ≤ nowN s) : txBoundary s c =
    setCell (s.set CODEC_CELL_STATUS.TX_ENABLED 1 c) c { cellAt s c with txArm := false } := by
  rw [txBoundary, onCell_serves hstop hc h]
  dsimp only
  rw [if_pos hn]

theorem txBoundary_waits (hn : ¬((cellAt s c).txArm = true ∧ (cellAt s c).txAt ≤ nowN s)) : txBoundary s c = s := by
  rw [txBoundary, onCell_serves hstop hc h]
  dsimp only
  rw [if_neg hn]

end

/-! ## Frames put in a queue (R268, R270) -/

/-- n frames of cell c are put in a queue of a port; of the cell's record the counts of its flows alone change, and no register. -/
structure Queued (c p q n : Nat) (s t : State) : Prop where
  regs : t.regs = s.regs
  reset : t.behaveReset = s.behaveReset
  cell : ∃ ct, cellAt t c = { cellAt s c with ctrs := ct }
  queue : ∃ l, fhQueue t p q = fhQueue s p q ++ l ∧ l.length = n

namespace Queued

variable {c p q n m : Nat} {s t u : State}

theorem refl (c p q : Nat) (s : State) : Queued c p q 0 s s := ⟨rfl, rfl, ⟨_, rfl⟩, [], (List.append_nil _).symm, rfl⟩

theorem trans (h : Queued c p q n s t) (g : Queued c p q m t u) : Queued c p q (n + m) s u := by
  obtain ⟨ct, hcell⟩ := h.cell
  obtain ⟨ct', hcell'⟩ := g.cell
  obtain ⟨l, hl, hn⟩ := h.queue
  obtain ⟨l', hl', hm⟩ := g.queue
  refine ⟨g.regs.trans h.regs, g.reset.trans h.reset, ⟨ct', by rw [hcell', hcell]⟩, l ++ l', ?_, ?_⟩
  · rw [hl', hl, List.append_assoc]
  · rw [List.length_append, hn, hm]

theorem port (h : Queued c p q n s t) : (cellAt t c).port = (cellAt s c).port := by
  obtain ⟨ct, hcell⟩ := h.cell
  rw [hcell]
  rfl

theorem bit (h : Queued c p q n s t) (f : Fld) (i : Nat) : t.bit f i = s.bit f i := by
  unfold State.bit
  rw [get_congr h.regs h.reset]

end Queued

theorem cellSend_queued (c q typ dir k sym : Nat) (s : State) (i : Nat) :
    Queued c (cellAt s c).port q 1 s (cellSend c q typ dir k sym s i) := by
  have hk := cellSend_keeps (m := 75497474) (by decide) c q typ dir k sym s i (Keeps.refl _ s)
  refine ⟨hk.2 .regs (by decide), hk.reset (by decide), ?_, ?_⟩
  · exact ⟨_, cellAt_setCell _ c _⟩
  · exact ⟨[_], fhQueue_setQueue _ _ _ _, rfl⟩

/-- A frame of each flow of a list. -/
theorem sends_queued (c q typ dir k sym p : Nat) (flows : List Nat) {s : State} (hp : (cellAt s c).port = p) :
    Queued c p q flows.length s (forEach flows (cellSend c q typ dir k sym) s) := by
  induction flows generalizing s with
  | nil => exact Queued.refl c p q s
  | cons i flows ih =>
    have hone := cellSend_queued c q typ dir k sym s i
    rw [hp] at hone
    have hrest := hone.trans (ih (hone.port.trans hp))
    rwa [forEach_cons, List.length_cons, Nat.add_comm]

/-! ## C-plane frames (R270, R286) -/

section
variable {s : State} {c : Nat} (hstop : (cellAt s c).stopAt = none) (hc : c < 512) (h : cellServing s c = true)
include hstop hc h

theorem cplane_early (hn : nowN s + (cellAt s c).fld 0x50 4 < (cellAt s c).nextCp * (cellAt s c).slotNs) : cplane s c = s := by
  rw [cplane, onCell_serves hstop hc h]
  dsimp only
  rw [if_pos (.inl hn)]

/-- The uplink's C-plane frames of the cell's next slot. -/
def uplinkSent (s : State) (c : Nat) : State :=
  forEach ((cellAt s c).dirFlows 2) (cellSend c 6 2 0 (cellAt s c).nextCp 0)
    (setCell s c { cellAt s c with nextCp := (cellAt s c).nextCp + 1 })

theorem cplane_due (hn : (cellAt s c).nextCp * (cellAt s c).slotNs ≤ nowN s + (cellAt s c).fld 0x50 4) : cplane s c =
    if (uplinkSent s c).bit CODEC_CELL_STATUS.TX_ENABLED c then
      forEach ((cellAt s c).dirFlows 2) (cellSend c 6 2 1 (cellAt s c).nextCp 0) (uplinkSent s c)
    else uplinkSent s c := by
  rw [cplane, onCell_serves hstop hc h]
  dsimp only
  rw [if_neg (not_or.2 ⟨Nat.not_lt.2 hn, by simp [serves_noStop hstop]⟩)]
  rfl

theorem cplane_queued (hn : (cellAt s c).nextCp * (cellAt s c).slotNs ≤ nowN s + (cellAt s c).fld 0x50 4) :
    Queued c (cellAt s c).port 6
      (((cellAt s c).dirFlows 2).length * (if s.bit CODEC_CELL_STATUS.TX_ENABLED c then 2 else 1))
      (setCell s c { cellAt s c with nextCp := (cellAt s c).nextCp + 1 }) (cplane s c) := by
  have hport : (cellAt (setCell s c { cellAt s c with nextCp := (cellAt s c).nextCp + 1 }) c).port = (cellAt s c).port := by
    rw [cellAt_setCell]
    rfl
  have hup : Queued c (cellAt s c).port 6 ((cellAt s c).dirFlows 2).length _ (uplinkSent s c) :=
    sends_queued c 6 2 0 (cellAt s c).nextCp 0 _ ((cellAt s c).dirFlows 2) hport
  have hbit : (uplinkSent s c).bit CODEC_CELL_STATUS.TX_ENABLED c = s.bit CODEC_CELL_STATUS.TX_ENABLED c := by
    rw [hup.bit, State.bit, setCell_get]
    rfl
  rw [cplane_due hstop hc h hn, hbit]
  split
  · rw [Nat.mul_two]
    exact hup.trans (sends_queued c 6 2 1 (cellAt s c).nextCp 0 _ _ (hup.port.trans hport))
  · rwa [Nat.mul_one]

/-! ## Downlink U-plane frames (R270, R277, R286) -/

theorem uplane_early (hn : nowN s + (cellAt s c).fld 0x4C 4 <
    (cellAt s c).symAt ((cellAt s c).nextUp / 14) ((cellAt s c).nextUp % 14)) : uplaneRelease s c = s := by
  rw [uplaneRelease, onCell_serves hstop hc h]
  dsimp only
  rw [if_pos (.inl hn)]

/-- The cell's record past the symbol; the downlink slots missed before it are forgotten. -/
def symbolPast (x : Cell) : Cell :=
  { x with nextUp := x.nextUp + 1, missedDl := x.missedDl.filter (fun p => x.nextUp / 14 ≤ p) }

omit hstop hc h in
/-- That slots before it are forgotten changes nothing for the slot itself. -/
theorem downMissed_symbolPast (s : State) (c : Nat) :
    downMissed (setCell s c (symbolPast (cellAt s c))) c ((cellAt s c).nextUp / 14) = downMissed s c ((cellAt s c).nextUp / 14) := by
  have hmem : ((symbolPast (cellAt s c)).missedDl.elem ((cellAt s c).nextUp / 14)) =
      (cellAt s c).missedDl.elem ((cellAt s c).nextUp / 14) := by
    rw [Bool.eq_iff_iff]
    simp [symbolPast]
  unfold downMissed
  rw [cellAt_setCell, hmem]
  rfl

theorem uplane_due (hn : (cellAt s c).symAt ((cellAt s c).nextUp / 14) ((cellAt s c).nextUp % 14) ≤
    nowN s + (cellAt s c).fld 0x4C 4) : uplaneRelease s c =
      if (setCell s c (symbolPast (cellAt s c))).bit CODEC_CELL_STATUS.TX_ENABLED c ∧
          (!downMissed (setCell s c (symbolPast (cellAt s c))) c ((cellAt s c).nextUp / 14)) = true then
        forEach ((cellAt s c).dirFlows 1) (cellSend c 5 0 1 ((cellAt s c).nextUp / 14) ((cellAt s c).nextUp % 14))
          (setCell s c (symbolPast (cellAt s c)))
      else setCell s c (symbolPast (cellAt s c)) := by
  rw [uplaneRelease, onCell_serves hstop hc h]
  dsimp only
  rw [if_neg (not_or.2 ⟨Nat.not_lt.2 hn, by simp [serves_noStop hstop]⟩)]
  rfl

theorem uplane_queued (hn : (cellAt s c).symAt ((cellAt s c).nextUp / 14) ((cellAt s c).nextUp % 14) ≤
    nowN s + (cellAt s c).fld 0x4C 4) : Queued c (cellAt s c).port 5
      (if s.bit CODEC_CELL_STATUS.TX_ENABLED c ∧ downMissed s c ((cellAt s c).nextUp / 14) = false then
        ((cellAt s c).dirFlows 1).length else 0)
      (setCell s c (symbolPast (cellAt s c))) (uplaneRelease s c) := by
  have hport : (cellAt (setCell s c (symbolPast (cellAt s c))) c).port = (cellAt s c).port := by
    rw [cellAt_setCell]
    rfl
  have hbit : (setCell s c (symbolPast (cellAt s c))).bit CODEC_CELL_STATUS.TX_ENABLED c =
      s.bit CODEC_CELL_STATUS.TX_ENABLED c := by
    rw [State.bit, setCell_get]
    rfl
  rw [uplane_due hstop hc h hn, hbit, downMissed_symbolPast]
  simp only [Bool.not_eq_true']
  split
  · exact sends_queued c 5 0 1 _ _ _ _ hport
  · exact Queued.refl _ _ _ _

/-! ## Requests taken at their deadline (R274, R276) -/

theorem reqDeadline_early (hn : nowN s + (cellAt s c).leadSlots * (cellAt s c).slotNs < (cellAt s c).nextReq * (cellAt s c).slotNs) :
    reqDeadline s c = s := by
  rw [reqDeadline, onCell_serves hstop hc h]
  dsimp only
  rw [if_pos (.inl hn)]

theorem reqDeadline_due (hn : (cellAt s c).nextReq * (cellAt s c).slotNs ≤ nowN s + (cellAt s c).leadSlots * (cellAt s c).slotNs) :
    reqDeadline s c = takeReqs c (cellAt s c).nextReq ((cellAt s c).fld 0x54 4 / 8)
      (setCell s c { cellAt s c with nextReq := (cellAt s c).nextReq + 1 }) := by
  rw [reqDeadline, onCell_serves hstop hc h]
  dsimp only
  rw [if_neg (not_or.2 ⟨Nat.not_lt.2 hn, by simp [serves_noStop hstop]⟩)]

end

/-- Of a cell's record the requests alone change, and those taken are of slot k or a later one. -/
structure ReqsTaken (k : Nat) (x y : Cell) : Prop where
  nextReq : y.nextReq = x.nextReq
  reqs : ∀ r ∈ y.reqs, r ∈ x.reqs ∨ k ≤ r.1

theorem ReqsTaken.refl (k : Nat) (x : Cell) : ReqsTaken k x x := ⟨rfl, fun _ h => .inl h⟩

theorem ReqsTaken.trans {k : Nat} {x y z : Cell} (h : ReqsTaken k x y) (g : ReqsTaken k y z) : ReqsTaken k x z :=
  ⟨g.nextReq.trans h.nextReq, fun r hr => (g.reqs r hr).elim (h.reqs r) .inr⟩

/-- A message's ring space is read and freed. -/
def reqFreed (s : State) (c : Nat) (base size h len : Nat) : State :=
  hubStore (ringRaise (hubSee s (cellFn c) base 128) (hubRequester (cellFn c) false) base size h (8 + len)) (cellFn c) (base + 0x40)
    (bytesLe 4 ((h + 8 + len) % size))

/-- What becomes of a message: it is answered where its slot is over, else it waits for its slot. -/
def reqPlaced (s : State) (c : Nat) (k : Nat) (x : Cell) (slot : Int) (body : Bytes) : State :=
  if slot < k then indicate (s.bumpSat CODEC_CELL_LATE_MSG c) c Ind.error (x.slotAt (nowN s)) body
  else setCell s c { cellAt s c with reqs := (cellAt s c).reqs ++ [(slot.toNat, body)] }

theorem reqFreed_cells (s : State) (c base size h len : Nat) : (reqFreed s c base size h len).cells = s.cells :=
  (hubStore_keeps (m := 34359739396) (by decide) _ _ _ _ (ringRaise_keeps (by decide) _ _ _ _ _ _
    (hubSee_keeps (by decide) s _ _ _ (Keeps.refl _ s)))).cells (by decide)

theorem reqPlaced_taken (s : State) (c k : Nat) (x : Cell) (slot : Int) (body : Bytes) :
    ReqsTaken k (cellAt s c) (cellAt (reqPlaced s c k x slot body) c) := by
  unfold reqPlaced
  split
  · rw [cellAt_indicate, cellAt_congr (State.bumpSat_cells ..)]
    exact .refl k _
  next hslot =>
    rw [cellAt_setCell]
    refine ⟨rfl, fun r hr => (List.mem_append.1 hr).imp_right fun hnew => ?_⟩
    rw [List.mem_singleton.1 hnew]
    exact Int.le_toNat (by omega) |>.2 (Int.not_lt.1 hslot)

/-- One turn at the ring: nothing is left to take, or a message is taken and the ring is looked at again. -/
theorem takeReqs_succ (c k n : Nat) (s : State) : (takeReqs c k (n + 1) s).cells = s.cells ∨
    ∃ base size h len slot body, takeReqs c k (n + 1) s =
      takeReqs c k n (reqPlaced (reqFreed s c base size h len) c k (cellAt s c) slot body) := by
  rw [takeReqs]
  dsimp only
  split
  · exact .inl (setFnCode_cells ..)
  · split
    · exact .inl rfl
    · split
      · exact .inl rfl
      · exact .inr ⟨_, _, _, _, _, _, rfl⟩

theorem takeReqs_taken (c k n : Nat) (s : State) : ReqsTaken k (cellAt s c) (cellAt (takeReqs c k n s) c) := by
  induction n generalizing s with
  | zero => exact .refl k _
  | succ n ih =>
    obtain hcells | ⟨base, size, h, len, slot, body, heq⟩ := takeReqs_succ c k n s
    · rw [cellAt_congr hcells]
      exact .refl k _
    · have hplaced := reqPlaced_taken (reqFreed s c base size h len) c k (cellAt s c) slot body
      rw [cellAt_congr (reqFreed_cells s c base size h len)] at hplaced
      rw [heq]
      exact hplaced.trans (ih _)

/-! ## The statement -/

/-- Settles O31: what a start, a stop and a takeover write last is what is read; a frame released is one more in its queue, for each flow
of its direction, and a request kept is of no slot before the deadline's. -/
theorem radioCells : Obligations.RadioCells := by
  unfold Obligations.RadioCells
  refine ⟨fun s c hs hc hstop h => ?_, fun s c hs hc hstop => ⟨fun h hby => ?_, fun h => ?_⟩,
    fun s c hs hc h => ⟨fun hby ht hn => ?_, fun b hby hstop => ?_⟩,
    fun s c b hs hc h ht => ⟨fun hn => ?_, fun hn => ?_⟩,
    fun s c hs hc hstop h => ⟨fun hn => ?_, fun hn => ?_, fun hn => ?_, fun hn => ?_, fun hn => ?_, fun hn => ?_, fun hn => ?_,
      fun hn => ?_⟩⟩
  · have hr : readCell (cellClear s c) c = ((readCell (cellClear s c) c).1, (readCell (cellClear s c) c).2) := rfl
    refine ⟨fun hby => acts_of_exec (exec_cellStart hc s) (cellStart_stands hs hstop h hr hby), fun hby => ⟨fun hcode => ?_,
      fun e hcode he => ?_, fun hcode hcheck hf => ?_, fun l v hcode hcheck hf => ?_⟩⟩
    · exact acts_of_exec (exec_cellStart hc s) (cellStart_faults hs hstop h hr hby (cellUp_code hcode))
    all_goals rw [hcode] at hr
    · exact acts_of_exec (exec_cellStart hc s) (cellStart_faults hs hstop h hr hby (cellUp_check he))
    · exact acts_of_exec (exec_cellStart hc s) (cellStart_faults hs hstop h hr hby (cellUp_full hcheck hf))
    · exact acts_of_exec (exec_cellStart hc s) (cellStart_runs hs hstop h hr hc hby hf (cellUp_runs hcheck hf))
  · refine acts_of_exec (exec_cellStop hc s) ?_
    rw [cellStop_slotEnds hstop h hby]
    refine ⟨setFnState_cell_state _ c ((setCell_behaveReset ..).trans hs.1) _, ?_⟩
    rw [cellAt_congr (setFnState_cells ..), stopCellAt_cell hstop]
  · refine acts_of_exec (exec_cellStop hc s) ?_
    rw [cellStop_down hstop h]
    exact cellDown_ends hs.1 c
  · refine acts_of_exec (exec_cellTakeover hc none s) ?_
    rw [takeover_tells h hby ht hn]
    refine ⟨?_, rfl⟩
    exact congrArg Cell.takeAt (cellAt_setCell s c _)
  · refine acts_of_exec (exec_cellTakeover hc (some b) s) ?_
    rw [takeover_told h hby, stopCellAt_cell hstop]
    exact ⟨rfl, rfl⟩
  · exact congrArg Host.Outcome.next (takeoverBoundary_early ht hn)
  · have hshown := takeoverBoundary_shown hc hs.1 h ht hn
    exact acts_of_exec (t := takeoverBoundary s c) rfl ⟨hshown.standby, hshown.state, hshown.count⟩
  · refine acts_of_exec (congrArg Host.Outcome.next (txBoundary_enables hstop hc h hn)) ⟨?_, ?_⟩
    · rw [setCell_get]
      exact get_set_self s CODEC_CELL_STATUS.TX_ENABLED 1 c 0 hs.1 (by decide)
    · rw [cellAt_setCell]
  · exact congrArg Host.Outcome.next (txBoundary_waits hstop hc h hn)
  · exact congrArg Host.Outcome.next (cplane_early hstop hc h hn)
  · have hq := cplane_queued hstop hc h hn
    obtain ⟨ct, hcell⟩ := hq.cell
    refine acts_of_exec (t := cplane s c) rfl ⟨?_, hq.queue⟩
    rw [hcell, cellAt_setCell]
  · exact congrArg Host.Outcome.next (uplane_early hstop hc h hn)
  · have hq := uplane_queued hstop hc h hn
    obtain ⟨ct, hcell⟩ := hq.cell
    refine acts_of_exec (t := uplaneRelease s c) rfl ⟨?_, hq.queue⟩
    rw [hcell, cellAt_setCell]
    rfl
  · exact congrArg Host.Outcome.next (reqDeadline_early hstop hc h hn)
  · have htaken := takeReqs_taken c (cellAt s c).nextReq ((cellAt s c).fld 0x54 4 / 8)
      (setCell s c { cellAt s c with nextReq := (cellAt s c).nextReq + 1 })
    rw [cellAt_setCell] at htaken
    exact acts_of_exec (congrArg Host.Outcome.next (reqDeadline_due hstop hc h hn)) ⟨htaken.nextReq, htaken.reqs⟩

end Sys2Proof.Machine
end
